-- ==== Sys2Proof/Word.lean ====
section
/-! DEFINITION. Words of the V96: registers are 32 bits (R10), slots and pennant blocks 512 bits (R68, R34).  The files of the package are elaborated
one declaration after another: hundreds of proofs at once would need more threads than a check allows. -/

set_option Elab.async false

namespace Sys2Proof

/-- A BAR0 register (R10). -/
abbrev Word := BitVec 32

/-- A 64-byte command slot or pennant block (R34, R68). -/
abbrev Block512 := BitVec 512

/-- A sparse table: (index, value) pairs in strictly rising order of index, with no entry equal to what an
unlisted index reads as.  The operations are in Machine/Tbl.lean. -/
abbrev Tbl (α : Type) := List (Nat × α)

end Sys2Proof
end

