-- ==== Sys2Proof/Operand.lean ====
section
/-! DEFINITION. The operands of the commands: what the outside world (host memory, the wire, a bitstream parsed by its
published standard, a measurement) brings to a step.  The table of commands gives no operand fields; these follow the
rules each row rests on (log entry 2). -/

set_option Elab.async false

namespace Sys2Proof

/-- A host access of the V96 (R63, R65, R108). -/
inductive HostAccess where
  | slot (ring : Nat)
  | consumer (ring : Nat)
  | pennant (ring : Nat)
  | journal (jidx : Nat)
  | jobData (jidx : Nat)
  deriving DecidableEq, Repr

/-- A BAR0 request that R61 turns away, and one dword with partial byte enables is a REGISTER_WRITE (R60). -/
inductive BarKind where
  | read | write | locked | atomic
  deriving DecidableEq, Repr

/-- What a sequence or frame header claims (R161), parsed by the codec's own standard. -/
structure SeqClaim where
  width : Nat
  height : Nat
  codedW : Nat
  codedH : Nat
  /-- declared decoded picture buffer, in pictures -/
  dpb : Nat
  /-- profile indicator of the bitstream and whether the contract's PROFILE allows it (R137) -/
  profileInd : Nat
  profileOk : Bool
  /-- 0 for 4:0:0, 1 for 4:2:0, 2 for 4:2:2, 3 for 4:4:4 -/
  chroma : Nat
  depth : Nat
  level : Nat
  /-- a refused tool of R139, counted from 1; 0 when none -/
  tool : Nat
  deriving DecidableEq, Repr

/-- What parsing the next picture's access unit finds. -/
structure PicInfo where
  /-- the access unit holds a complete picture (R148) -/
  complete : Bool := true
  seqHdr : Option SeqClaim := none
  rap : Bool := false
  /-- a later picture may reference it (R170) -/
  mayRef : Bool := true
  /-- FRAME_SEQs of the pictures it references -/
  refs : List Nat := []
  /-- FRAME_SEQs of earlier pictures that its marking keeps as references from this picture on -/
  keep : List Nat := []
  /-- coded wholly as skipped blocks that predict from a reference picture (R162) -/
  allSkip : Bool := false
  codedBytes : Nat := 0
  trailing : Nat := 0
  filmGrain : Bool := false
  /-- luma rows of the codec's largest coding block -/
  blockRows : Nat := 64
  /-- colour that the bitstream signals: range, Kr and Kb, and the sample location type of H.273 (R247, R248) -/
  fullRange : Bool := false
  colour : Option (Rat × Rat) := none
  site : Nat := 0
  deriving DecidableEq, Repr

/-- Samples of a block row or of a picture: its planes in row-major order; 4:0:0 has no chroma. -/
structure Planes where
  y : List Nat := []
  cb : List Nat := []
  cr : List Nat := []
  deriving DecidableEq, Repr

/-- Motion of some luma samples of a cell (R172): vectors in 1/16 luma samples with the distance in pictures to each
reference; an intra part has neither vector. -/
structure MvPart where
  samples : Nat
  fwd : Option (Int × Int × Nat) := none
  bwd : Option (Int × Int × Nat) := none
  deriving DecidableEq, Repr

/-- One 16×16 cell as parsed (R171): `lost` when a discarded unit should have covered it (R166), `refs` the FRAME_SEQs of the pictures
its blocks predict from. -/
structure RawCell where
  mvs : List MvPart := []
  /-- sum of absolute luma residual values -/
  residSum : Nat := 0
  intra : Bool := false
  skip : Bool := false
  lost : Bool := false
  refs : List Nat := []
  deriving DecidableEq, Repr

/-- A decoded picture's samples with its format and what the bitstream signals about them (R247, R248). -/
structure Picture extends Planes where
  w : Nat := 0
  h : Nat := 0
  depth : Nat := 8
  /-- 0 for 4:0:0, 1 for 4:2:0, 2 for 4:2:2, 3 for 4:4:4 -/
  chroma : Nat := 1
  fullRange : Bool := false
  /-- Kr and Kb, when signalled -/
  colour : Option (Rat × Rat) := none
  /-- chroma sample location type of H.273, 0 to 5 -/
  site : Nat := 0
  deriving DecidableEq, Repr

/-- A part of a unit that an RTP packet carries (R199): a segment of luma line `unit` from sample `off`, `len` samples long, for
ST 2110-20; else `len` bytes of a JPEG XS slice numbered `unit` or of a NAL unit, of which it may be the first or the last part. -/
structure RtpPart where
  unit : Nat := 0
  off : Nat := 0
  len : Nat
  first : Bool := true
  last : Bool := true
  /-- its format is one that R199 supports: sampling, depth and scan, or the kind of NAL unit payload -/
  ok : Bool := true
  deriving DecidableEq, Repr

/-- An RTP packet of an ingest flow (R199 to R209). -/
structure RtpPkt where
  pt : Nat
  ssrc : Nat
  seq : Nat
  ts : Nat
  marker : Bool
  parts : List RtpPart
  deriving DecidableEq, Repr

/-- What an Ethernet frame carries, as far as NET looks (R192). -/
inductive EthKind where
  | udp (dst src : BitVec 32) (port : Nat) (rtp : RtpPkt)
  | ptp (domain : Nat)
  | igmpQuery
  | other
  deriving DecidableEq, Repr

/-- A received Ethernet frame (R192). -/
structure EthFrame where
  len : Nat
  fcsOk : Bool
  vlan : Option Nat
  kind : EthKind
  deriving DecidableEq, Repr

/-- A box of a list (R45): coordinates in quarter luma samples. -/
structure Box where
  x0 : Nat
  y0 : Nat
  x1 : Nat
  y1 : Nat
  score : Nat
  cls : Nat
  trackId : Nat := 0
  deriving DecidableEq, Repr

/-- A PTP Announce (R222). -/
structure Announce where
  port : Nat
  identity : Nat
  gm : Nat
  rank : Nat
  steps : Nat
  domain : Nat
  /-- announce interval in ns -/
  interval : Nat
  deriving DecidableEq, Repr

/-- The key of a transferred tile (R639, R642). -/
structure TileId where
  src : Nat
  channel : Nat
  /-- 0 stream frame, 1 job, 2 adaptation step -/
  kind : Nat
  owner : Nat
  stream : Nat
  keySeq : Nat
  step : Nat
  tile : Nat
  deriving DecidableEq, Repr

/-- A transferred tile: its header and payload (R639). -/
structure TileMsg where
  id : TileId
  dst : Nat
  mb : Nat
  nb : Nat
  rows : Nat
  cols : Nat
  svc : Nat
  pts : Nat
  ctSec : Nat
  ctNs : Nat
  ctSub : Nat
  flags : Nat
  wire : Nat
  /-- the elements' codes, and the block scales when WIRE is 1 -/
  data : List Nat
  scales : List Nat := []
  deriving DecidableEq, Repr

/-- A request at the head of a port of a leaf arbiter (R547): its ticket and service class. -/
structure FabHead where
  leaf : Nat
  port : Nat
  ticket : Nat
  svc : Nat
  deriving DecidableEq, Repr

/-- A request that a port grants to a pseudo-channel (R602 to R605): `rank` is the rank that holds its line, `bank` and `row` where the
line lies in it; `full` says that a write covers all 64 B. -/
structure HbmArr where
  port : Nat
  line : Nat
  write : Bool
  full : Bool := true
  rank : Nat
  bank : Nat
  row : Nat
  ticket : Nat
  /-- 0 a request; 1 a re-placement or migration copy or scrub; 2 a save or restore (R603) -/
  kind : Nat := 0
  deriving DecidableEq, Repr

/-- What the peer of a port sends in the identity exchange, beside its serial number (R631): KIND, NDEV, MY_DEV and its port. -/
structure PeerId where
  kind : Nat
  ndev : Nat
  dev : Nat
  port : Nat
  deriving DecidableEq, Repr

/-- A chunk of a collective (R647): `reduce` while it is summed along the ring, else the owner's wire value. -/
structure CollChunk where
  job : Nat
  step : Nat
  channel : Nat
  chunk : Nat
  reduce : Bool
  /-- devices it has passed -/
  hops : Nat
  data : List Nat
  scales : List Nat := []
  deriving DecidableEq, Repr

/-- An access of a port to a station buffer (R589, R590): ports 0 to 7 are the cluster's cores, 8 SHP, 9 the SGS link, 10 HBM fills and 11
XFR; a write's bytes, or as many bytes as a read asks for. -/
structure PortAccess where
  port : Nat
  write : Bool
  addr : Nat
  data : List Nat
  deriving DecidableEq, Repr

end Sys2Proof
end

