-- ==== Sys2Proof/Syntax.lean ====
section
/-! DEFINITION. The commands of the V96: one constructor per row of the table of operations and events. -/

set_option Elab.async false

namespace Sys2Proof

/-- A command.  The docstring of a constructor is the row's summary with the rule it rests on. -/
inductive Instr where
  /-- COMMAND_RING_POLL (R83): The poll interval of an enabled command ring expires and the V96 issues one 64-byte read of the expected slot. -/
  | commandRingPoll (due : List Nat)
  /-- SLOT_READ_COMPLETION (R73): The read completion of the expected slot arrives; the slot is taken, the poll is empty, or a torn slot is found. -/
  | slotReadCompletion (ring : Nat) (slot : BitVec 512)
  /-- SLOT_REREAD (R74): One microsecond after a TAG_ECHO mismatch the slot is read again, and the slot is refused with SLOT_TORN after the fourth re-read. -/
  | slotReread (ring : Nat) (slot : BitVec 512)
  /-- SLOT_ACCEPT (R113): A checked slot is accepted once a journal entry is free and the PRING_ACK ring has room: RING_SEQ is assigned, the journal entry and emit record are written, and the ACCEPT is posted. -/
  | slotAccept (ring consumed : Nat)
  /-- NOP (R69): The NOP command completes with ACCEPT and DONE. -/
  | nop (jidx : Nat)
  /-- FENCE (R69): The FENCE command posts its DONE once every earlier accepted command of its ring has posted its DONE or ERROR. -/
  | fence (jidx : Nat)
  /-- PROG_LOAD (R299): PROG_LOAD reads a program image and checks it in order, then loads it under its PROG_ID or fails with a code. -/
  | progLoad (jidx : Nat) (image : List Nat)
  /-- PROG_UNLOAD (R302): PROG_UNLOAD puts the program in LEHR; new commands that name the program end with PROG_NONE. -/
  | progUnload (jidx : Nat)
  /-- PROG_UNLOAD_DRAIN_END (R302): No job of an unloading program is running and no stream is bound to it, so the unload's DONE is posted and any pending load runs. -/
  | progUnloadDrainEnd (prog : Nat)
  /-- PROG_LOAD_END (R304): A program load ends, and the STREAM_BIND or JOB_RUN commands waiting on it proceed or end with PROG_NONE. -/
  | progLoadEnd (prog : Nat)
  /-- STREAM_OPEN (R142): STREAM_OPEN checks the stream contract in order, places the stream on an engine and reserves its pool buffers. -/
  | streamOpen (jidx : Nat) (contract : BitVec 512)
  /-- STREAM_BIND (R21): STREAM_BIND binds a stream to a route and a service class, reserving its track rows and SGS buffers. -/
  | streamBind (jidx : Nat)
  /-- STREAM_CLOSE (R145): STREAM_CLOSE puts the stream in lehr, and the stream counts as not open from that moment. -/
  | streamClose (jidx : Nat)
  /-- STREAM_CLOSE_DRAIN_END (R145): The last accepted picture of a closing stream has passed through its route, so its buffers are returned, the DONE and STAT pennants are posted, and a pending open runs. -/
  | streamCloseDrainEnd (stream : Nat)
  /-- AU_SUBMIT (R147): AU_SUBMIT hands one access unit of a host stream to the device for decoding. -/
  | auSubmit (jidx : Nat)
  /-- AU_FETCH_DONE (R155): An access unit is complete in device memory, so its picture becomes ready for decode. -/
  | auFetchDone (stream seq : Nat)
  /-- JOB_RUN (R305): JOB_RUN reads its job parameter block and runs one pass of a job route. -/
  | jobRun (jidx : Nat) (block : List Nat)
  /-- ADAPT_RUN (R382): ADAPT_RUN runs an adaptation route STEPS times to fine-tune head weights. -/
  | adaptRun (jidx : Nat) (block : List Nat)
  /-- STAT_REQ (R71): STAT_REQ writes the STAT result of the selected STAT_KIND between the command's ACCEPT and its DONE. -/
  | statReq (jidx : Nat)
  /-- PENNANT_WRITE (R88): EGR writes a ready pennant to a ring that has room: the extension blocks first, then the header as one write. -/
  | pennantWrite (ring consumed : Nat)
  /-- CONSUMER_RECORD_REREAD (R94): Every 1 µs while a pennant ring is full, EGR reads the ring's consumer record again. -/
  | consumerRecordReread (ring consumed : Nat)
  /-- MSIX_TIMER_EXPIRY (R99): TIME µs pass after the first unannounced pennant of a ring, so a message falls due on the ring's vector. -/
  | msixTimerExpiry (ring : Nat)
  /-- MSIX_VECTOR_UNMASK (R101): A vector is unmasked while its PBA bit is set, so exactly one message is sent. -/
  | msixVectorUnmask (vector : Nat)
  /-- CRING_ENABLE (R104): ENABLE 1 is written to a command ring, which then starts polling at its expected tag or latches the enable during LEHR. -/
  | cringEnable (ring : Nat) (w : BitVec 32)
  /-- CRING_DISABLE (R102): ENABLE 0 is written to a command ring, which enters LEHR and finishes the slot in progress. -/
  | cringDisable (ring : Nat) (w : BitVec 32)
  /-- CRING_LEHR_END (R103): A command ring's drain completes, and the ring becomes DISABLED or, with a latched enable, ACTIVE. -/
  | cringLehrEnd (ring : Nat)
  /-- PRING_ENABLE (R104): ENABLE 1 is written to a pennant ring, which is checked and becomes ACTIVE; queued device-level pennants then drain to it. -/
  | pringEnable (ring : Nat) (w : BitVec 32) (consumed : Nat)
  /-- PRING_DISABLE (R102): ENABLE 0 is written to a pennant ring, which enters LEHR. -/
  | pringDisable (ring : Nat) (w : BitVec 32)
  /-- PRING_LEHR_END (R103): A pennant ring finishes its pennant in progress and its due message, and becomes DISABLED or ACTIVE. -/
  | pringLehrEnd (ring : Nat)
  /-- HIF_CRING_SEQ0_WRITE (R104): A write of SEQ0 while the ring is DISABLED also loads HIF_CRING_NEXT. -/
  | hifCringSeq0Write (ring : Nat) (w : BitVec 32)
  /-- REGISTER_WRITE (R12): A BAR0 write to a register without a row of its own acts under its field access codes.  Addresses from 2^32 on
  name configuration space (log entry 10). -/
  | registerWrite (addr : Nat) (w : BitVec 32) (be : BitVec 4)
  /-- BAR_ACCESS (R61): A BAR0 request that is too long, crosses a 64-byte boundary, or is locked or atomic is aborted or discarded. -/
  | barAccess (kind : BarKind) (addr len : Nat) (data : List (BitVec 32 × BitVec 4))
  /-- LO_REGISTER_READ (R62): A read of a _LO register latches the value of its _HI partner. -/
  | loRegisterRead (addr : Nat)
  /-- TIME_CLK_SEC_LO_READ (R218): A read of TIME_CLK_SEC_LO latches the seconds-high, nanoseconds and fraction registers of the device clock. -/
  | timeClkSecLoRead
  /-- TIME_TPI_SEC_LO_READ (R234): A read of an event input's SEC_LO latches that input's other stamp registers. -/
  | timeTpiSecLoRead (input : Nat)
  /-- ATS_INVALIDATE_REQUEST (R64): An Invalidate Request arrives, and the V96 stops using the matching translation entries. -/
  | atsInvalidateRequest (tag page npages : Nat)
  /-- INVALIDATE_COMPLETION (R64): Every request that used the invalidated entries has completed, so the Invalidate Completion is sent. -/
  | invalidateCompletion (tag : Nat)
  /-- ATS_TRANSLATION_COMPLETION (R65): A translation returns, and a refused translation or one without the needed permission causes ATS_FAULT. -/
  | atsTranslationCompletion (acc : HostAccess) (addr : Nat) (granted : Option Nat) (write : Bool)
  /-- HOST_READ_FAIL (R108): A host read ends in completion timeout, Unsupported Request or Completer Abort, with the effect set by the kind of access. -/
  | hostReadFail (acc : HostAccess) (addr : Nat)
  /-- POISON_REREAD (R750): After a poisoned completion the same address is re-read 1 µs apart, and HOST_POISON takes effect when the third re-read is also poisoned. -/
  | poisonReread (acc : HostAccess) (addr : Nat) (clean : Bool)
  /-- PCIE_LANE_FAILURE (R51): A PCIe lane fails, and the link retrains to the widest width the remaining lanes support. -/
  | pcieLaneFailure (lane : Nat)
  /-- JRNL_ENABLE (R117): HIF_JRNL_CFG.ENABLE is written 1 with RECOVER 0, and the journal starts empty. -/
  | jrnlEnable (w : BitVec 32)
  /-- JRNL_RECOVER (R130): ENABLE is written 1 with RECOVER 1, and the V96 re-executes every ACCEPTED or HELD entry. -/
  | jrnlRecover (w : BitVec 32) (host : Option (List (BitVec 1024) × List (BitVec 128)))
  /-- JRNL_DISABLE (R116): ENABLE 0 is written to HIF_JRNL_CFG, and the journal enters DRAINING or the write is refused. -/
  | jrnlDisable (w : BitVec 32)
  /-- JRNL_DRAIN_END (R116): No journal entry is still ACCEPTED, so DRAINING clears or a latched enable takes effect. -/
  | jrnlDrainEnd
  /-- RECOVERY_END (R127): Recovery ends: RECOVERING clears and the RECOVERY STAT result is written. -/
  | recoveryEnd
  /-- MIRROR_REBUILD_DONE (R134): The background rebuild of the HBM journal mirror completes, and MIRROR_VALID becomes 1. -/
  | mirrorRebuildDone
  /-- PWR_GOOD_RISE (R701): PWR_GOOD rises, and power-on reset and boot begin. -/
  | pwrGoodRise (testMode : Bool) (board : List Nat)
  /-- PWR_GOOD_FALL (R697): PWR_GOOD falls, which is a power-on reset. -/
  | pwrGoodFall
  /-- RST_POR_N_LOW (R737): RST_POR_N is held low for 1 µs or more, which makes a power-on reset. -/
  | rstPorNLow
  /-- VDD_AON_LOSS (R693): VDD_AON is lost while another rail is up, which is a power-on reset. -/
  | vddAonLoss
  /-- RST_WARM_N_FALL (R737): A falling edge on RST_WARM_N starts a warm reset. -/
  | rstWarmNFall
  /-- RST_WARM_N_RISE (R737): RST_WARM_N rises, and the V96 leaves the warm reset within 200 µs. -/
  | rstWarmNRise
  /-- PERST_ASSERT (R697): PERST# is asserted while PWR_GOOD stays high, which is a hot reset. -/
  | perstAssert
  /-- PERST_DEASSERT (R701): PERST# is deasserted, and PCIe link training starts. -/
  | perstDeassert
  /-- PCIE_HOT_RESET (R697): The host signals a PCIe hot reset or link disable. -/
  | pcieHotReset
  /-- FUNCTION_LEVEL_RESET (R697): Initiate Function Level Reset is written in Device Control. -/
  | functionLevelReset
  /-- PWR_RESET_WARM (R697): PWR_RESET is written with WARM 1 and KEY 0xA5, which makes a warm reset. -/
  | pwrResetWarm (w : BitVec 32)
  /-- PWR_RESET_FW (R697): PWR_RESET is written with FW 1 and KEY 0xA5, which makes a firmware recovery reset. -/
  | pwrResetFw (w : BitVec 32)
  /-- FW_WATCHDOG_EXPIRY (R697): The firmware watchdog expires, which makes a firmware recovery reset. -/
  | fwWatchdogExpiry
  /-- RESET_INTERVAL_END (R698): A reset's interval ends, and the device rebuilds its table banks and starts recovery in ACTIVE and D0. -/
  | resetIntervalEnd (host : Option (List (BitVec 1024) × List (BitVec 128)))
  /-- READY (R701): Firmware verification, HBM training, self-tests and the first margin plan are done, so READY is set. -/
  | ready
  /-- DEC_PICTURE_CHOICE (R154): A DEC engine chooses its next ready picture by class, age and STREAM_ID, and loads that picture's stream context. -/
  | decPictureChoice (engine : Nat) (info : PicInfo)
  /-- DEC_BLOCK_ROW_DONE (R153): A block row finishes in-loop filtering, and the previous row is handed to SHP with its activity-map cells. -/
  | decBlockRowDone (engine : Nat) (cells : List RawCell) (rows : Planes) (failed resync misses : Nat)
  /-- DEC_PICTURE_DONE (R152): A picture finishes decoding, and its checkpoint part and counters are updated. -/
  | decPictureDone (engine : Nat)
  /-- DEC_OFFLINE (R185): DEC_CTRL.OFFLINE is written 1, so the engine enters LEHR and moves its streams away. -/
  | decOffline (engine : Nat)
  /-- DEC_ONLINE (R188): OFFLINE is written 0, which returns the engine to service or sets LEHR_PENDING_ENABLE. -/
  | decOnline (engine : Nat)
  /-- DEC_MOVE_DONE (R187): A stream that was moving resumes on its new engine from its frame checkpoint, which may overcommit that engine. -/
  | decMoveDone (stream : Nat)
  /-- NET_PORT_ENABLE (R190): NET_PORT_CFG.ENABLE is written, which starts or stops auto-negotiation on the port. -/
  | netPortEnable (port : Nat) (w : BitVec 32)
  /-- AUTONEG_COMPLETE (R190): Clause 73 auto-negotiation completes, and the port link comes up in the chosen mode. -/
  | autonegComplete (port : Nat) (partner : Nat)
  /-- NET_LANE_FAILURE (R191): A lane in use fails, so the port drops its link and renegotiates on its healthy lanes. -/
  | netLaneFailure (port lane : Nat)
  /-- LATENCY_CALIBRATION_DONE (R212): The port's latency calibration completes, and TS_HW is set for hardware stamping. -/
  | latencyCalibrationDone (port lat : Nat)
  /-- ETH_FRAME_RECEIVE (R192): An Ethernet frame arrives and is matched to a flow, PTP or IGMP, or discarded. -/
  | ethFrameReceive (port : Nat) (frame : EthFrame)
  /-- FRAME_STALE_CLOSE (R215): A frame in reassembly ages past its staleness bound, so it closes and is dropped. -/
  | frameStaleClose (flow : Nat)
  /-- IGMP_REPORT_TIMER (R193): One second after a flow path is enabled, the second unsolicited report is sent. -/
  | igmpReportTimer (flow : Nat) (pathB : Bool)
  /-- FLOW_ENABLE (R196): ENABLE 1 is written to an ingest flow, which is checked and joins its groups. -/
  | flowEnable (flow : Nat) (w : BitVec 32)
  /-- FLOW_DISABLE (R198): ENABLE 0 is written, so the flow enters LEHR and closes the frame in reassembly. -/
  | flowDisable (flow : Nat) (w : BitVec 32)
  /-- FLOW_LEHR_END (R198): A flow's drain ends, and the flow becomes DISABLED or takes its latched enable. -/
  | flowLehrEnd (flow : Nat)
  /-- MERGE_WINDOW_EXPIRY (R202): A sequence number is missing on both paths for MERGE_WIN, so it is declared lost for the flow. -/
  | mergeWindowExpiry (flow seq : Nat)
  /-- SSRC_ADOPT (R200): Another SSRC has arrived without interruption for 100 ms, so NET adopts it. -/
  | ssrcAdopt (flow : Nat) (pathB : Bool)
  /-- PATH_LOSS (R204): A path receives nothing for PATH_LOSS_MS, so the flow reads ONE_PATH. -/
  | pathLoss (flow : Nat) (pathB : Bool)
  /-- NET_SILENT (R204): No path receives anything for SILENT_MS, so the flow reads SILENT. -/
  | netSilent (flow : Nat)
  /-- SW_TIMESTAMP_INTERRUPT (R212): Firmware's frame-open interrupt handler stamps a frame in software. -/
  | swTimestampInterrupt (flow : Nat)
  /-- PTP_ANNOUNCE (R222): An Announce message feeds the best master algorithm, which may change the grandmaster. -/
  | ptpAnnounce (a : Announce)
  /-- PTP_SYNC (R223): A Sync, with its Follow_Up where needed, yields an offset that feeds the servo. -/
  | ptpSync (port domain : Nat) (t1 t2 correction : Int)
  /-- PTP_DELAY_RESP (R223): A Delay_Resp completes a delay exchange, which updates the mean path delay. -/
  | ptpDelayResp (port domain : Nat) (delay : Int)
  /-- DELAY_REQ_TIMER (R223): The Delay_Req interval expires, and a Delay_Req is sent. -/
  | delayReqTimer (port : Nat)
  /-- SERVO_HOLDOVER (R225): No Sync arrives for HOLDOVER_MS, so the servo enters HOLDOVER. -/
  | servoHoldover
  /-- SERVO_EN_WRITE (R225): SERVO_EN is written, which moves the servo to MANUAL or to FREE. -/
  | servoEnWrite (en : Bool)
  /-- STEP (R219): STEP 1 is written, which requests a step of the device clock to the TIME_SET values. -/
  | step
  /-- CLOCK_STEP_LOAD (R219): At the next AON tick a requested step is loaded into the device clock, VALID is set and a TIME pennant is written. -/
  | clockStepLoad
  /-- TIME_RATE_WRITE (R216): RATE changes, so the per-tick increment is recomputed. -/
  | timeRateWrite (w : BitVec 32)
  /-- TP_OUT_ARM (R226): A pulse output is armed and checked. -/
  | tpOutArm (out : Nat) (w : BitVec 32)
  /-- TP_OUT_PULSE (R226): The device clock reaches a programmed pulse time, so TP_OUT fires. -/
  | tpOutPulse (out : Nat)
  /-- TP_IN_EDGE (R229): A filtered edge on TP_IN is stamped and queued as a TIME pennant. -/
  | tpInEdge (input : Nat) (rising : Bool) (ago : Nat)
  /-- STATUS_PERIOD_TIMER (R230): STATUS_PERIOD ms pass, and a periodic TIME pennant is written. -/
  | statusPeriodTimer
  /-- SHP_SAMPLE_SLOT (R256): A sample takes the next slot of its open batch. -/
  | shpSampleSlot (stream seq node : Nat)
  /-- SHP_SAMPLE_DONE (R268): A sample is complete, and a good sample is copied as the stream's kept sample. -/
  | shpSampleDone (stream seq node objIndex : Nat)
  /-- BOX_LIST_ARRIVAL (R251): A box list reaches a CROP_RESIZE node, which makes one sample per box. -/
  | boxListArrival (job node : Nat)
  /-- BATCH_WAIT_EXPIRY (R257): BATCH_WAIT µs pass after a batch's first slot, so the batch closes. -/
  | batchWaitExpiry (shaper node svc : Nat)
  /-- FLUSH (R257): SHP_CTRL.FLUSH closes every open batch of the shaper. -/
  | flush (shaper : Nat)
  /-- TEST_STANDIN (R266): TEST_STANDIN makes the next SHAPE sample a stand-in. -/
  | testStandin (shaper : Nat)
  /-- BATCH_DISPATCH (R258): A closed batch whose samples are all complete is dispatched in BATCH_SEQ order. -/
  | batchDispatch (shaper node svc : Nat)
  /-- JOB_START (R278): A job starts with its age ticket, and every node instance enters its issue queue. -/
  | jobStart (job : Nat)
  /-- JOB_PLAN_GRANT (R575): A job's plan copies are drawn whole, and a job that cannot draw them waits in ticket order. -/
  | jobPlanGrant (job : Nat)
  /-- DECODE (R182): The DECODE instruction decodes the pictures of each bound stream and produces their activity maps. -/
  | decode (job node : Nat)
  /-- SHAPE (R241): The SHAPE instruction shapes whole pictures into tensors. -/
  | shape (job node : Nat)
  /-- CROP_RESIZE (R251): The CROP_RESIZE instruction makes samples from the boxes of a list. -/
  | cropResize (job node : Nat)
  /-- GATHER (R283): The GATHER instruction moves a segment or an operand into its plan entry. -/
  | gather (job node : Nat) (data : List Nat)
  /-- EMIT (R285): The EMIT instruction hands a node's results to EGR as pennants. -/
  | emit (job node : Nat)
  /-- MATMUL (R353): The MATMUL instruction runs a matrix product on the lane row with a fusion-menu epilogue. -/
  | matmul (job node : Nat)
  /-- VEC (R412): The VEC instruction applies an elementwise operation in the marver. -/
  | vec (job node : Nat)
  /-- ROWSTAT (R399): The ROWSTAT instruction computes row or sample statistics. -/
  | rowstat (job node : Nat)
  /-- SOFTMAX (R406): The SOFTMAX instruction computes a masked softmax of each row. -/
  | softmax (job node : Nat)
  /-- NORM (R414): The NORM instruction applies layer or RMS normalisation. -/
  | norm (job node : Nat)
  /-- TBL_LOAD (R424): The TBL_LOAD instruction waits for generation g − 1 to be free, then writes the shadow bank of user table slots. -/
  | tblLoad (job node : Nat)
  /-- TBL_SWITCH (R424): The table generation advances on every core in the same cycle, and the TBL_LOAD commits. -/
  | tblSwitch
  /-- CHAIN (R455): The CHAIN instruction runs an attention head with running-correction softmax. -/
  | chain (job node : Nat)
  /-- CHAIN_STEP_COMMIT (R458): A CHAIN step commits with its checked second product and its running m and l. -/
  | chainStepCommit (job node rowBlock : Nat)
  /-- OPT_STEP (R387): The OPT_STEP instruction applies one optimiser update to every element of a weight segment. -/
  | optStep (job node : Nat)
  /-- CONV (R470): The CONV instruction runs a convolution on the lane row. -/
  | conv (job node : Nat)
  /-- CONV_DW (R475): The CONV_DW instruction runs a depthwise convolution on the marver. -/
  | convDw (job node : Nat)
  /-- CONV_FFT (R476): The CONV_FFT instruction runs a depthwise convolution through the frequency domain. -/
  | convFft (job node : Nat)
  /-- SPECTRUM_JOB (R477): A spectrum job transforms one channel's filter before the node's data tiles run. -/
  | spectrumJob (job node channel : Nat)
  /-- POOL (R479): The POOL instruction runs windowed or global pooling. -/
  | pool (job node : Nat)
  /-- ARGMAX_C (R480): The ARGMAX_C instruction finds, for each pixel, the index of its largest channel. -/
  | argmaxC (job node : Nat)
  /-- ROI_ALIGN (R482): The ROI_ALIGN instruction crops and resizes feature maps from a box list. -/
  | roiAlign (job node : Nat)
  /-- TILE_JOB_PLACEMENT (R537): A ready tile job is placed on the first free core of its class. -/
  | tileJobPlacement (svc : Nat)
  /-- TILE_ISSUE (R538): A core unit issues its oldest placed tile job whose staging, accumulator blocks and scale slot are available. -/
  | tileIssue (core : Nat)
  /-- CHUNK_STAGED (R327): An operand chunk arrives through the fill path into the staging area. -/
  | chunkStaged (core chunk : Nat)
  /-- DRAIN_ROW (R328): The marver reads a final accumulator row through the epilogue and compares its checksums. -/
  | drainRow (core row lane : Nat) (flip : BitVec 32) (parity : Bool)
  /-- TILE_COMMIT (R346): A tile commits once every row has passed, its output is written and its scoreboard entry is retired. -/
  | tileCommit (core : Nat)
  /-- CHECK_RUN_DONE (R344): The check run on a suspect core ends: the core stays in service or is fenced. -/
  | checkRunDone (core : Nat) (pass : Bool)
  /-- FOLD_JOB (R401): Once the last tile of a reduction commits, the partial records are folded in tile order. -/
  | foldJob (job node : Nat)
  /-- SECOND_PASS_ISSUE (R450): After the fold of a two-pass entry, the dispatcher issues the second pass. -/
  | secondPassIssue (job node : Nat)
  /-- CK_INJECT (R345): CK_INJECT makes the next tile invert bit 0 of one lane's products. -/
  | ckInject (core : Nat)
  /-- CORE_OFFLINE (R351): CORE_LRW_CTRL.OFFLINE is written 1, so the core enters LEHR and stops its tiles. -/
  | coreOffline (core : Nat)
  /-- CORE_ONLINE (R351): OFFLINE is written 0, which returns the core to service or sets LEHR_PENDING_ENABLE. -/
  | coreOnline (core : Nat)
  /-- MRV_PROBE (R435): GO starts a probe that evaluates a table slot and reads one segment's coefficients. -/
  | mrvProbe (core : Nat)
  /-- BOXES (R496): The BOXES instruction turns a core node's rows into a box list. -/
  | boxes (job node : Nat)
  /-- NMS (R499): The NMS instruction thins boxes by greedy or soft non-maximum suppression. -/
  | nms (job node : Nat)
  /-- TOPK (R502): The TOPK instruction keeps the K highest-scoring elements. -/
  | topk (job node : Nat)
  /-- IOU (R503): The IOU instruction writes the IoU or cost matrix of two lists. -/
  | iou (job node : Nat)
  /-- HSET (R505): The HSET instruction runs hash-set insert, lookup or intersect on list keys. -/
  | hset (job node : Nat)
  /-- KNN (R507): The KNN instruction finds the nearest rows using MATMUL distance tiles. -/
  | knn (job node : Nat)
  /-- ASSIGN (R511): The ASSIGN instruction solves assignment by ε-scaling auction. -/
  | assign (job node : Nat)
  /-- TRACK (R522): The TRACK instruction predicts, associates, updates, gives birth to and re-identifies the tracks of one frame. -/
  | track (job node : Nat)
  /-- SGS_OPERATION_COMMIT (R489): An SGS operation commits once its whole output is written. -/
  | sgsOperationCommit (station : Nat)
  /-- SGS_OFFLINE (R532): SGS_CTRL.OFFLINE is written, which takes the station out of service or returns it. -/
  | sgsOffline (station : Nat) (off : Bool)
  /-- SGS_MOVE_DONE (R491): A stream moved from a fenced or offline station resumes with its tracks on another station. -/
  | sgsMoveDone (stream : Nat)
  /-- XFR_SEND (R639): The XFR_SEND instruction sends each committed tile to its peer device. -/
  | xfrSend (job node : Nat)
  /-- XFR_RECV (R643): The XFR_RECV instruction serves one channel's incoming tiles. -/
  | xfrRecv (job node : Nat)
  /-- XFR_COLL (R647): The XFR_COLL instruction all-reduces an FP32 vector around the collective ring. -/
  | xfrColl (job node : Nat)
  /-- PREEMPTION_DECISION (R550): A ready tile job that finds no free core pre-empts a core of a lower class. -/
  | preemptionDecision (svc : Nat)
  /-- CONTEXT_SAVE_DONE (R554): A victim core's context save completes, and the core takes the pre-empting tile job. -/
  | contextSaveDone (core commit : Nat)
  /-- SAVE_AREA_RETRY (R553): 1,024 LCLK cycles after a cancelled pre-emption, the class decides again. -/
  | saveAreaRetry (svc : Nat)
  /-- CONTEXT_RESTORE (R556): A saved context is restored on a free core, and its save sums are checked. -/
  | contextRestore (core block row lane : Nat) (flip : BitVec 32) (bad : Bool)
  /-- REMOTE_RESPONSE (R558): A remote tile response arrives, and it is staged or parked for a saved tag. -/
  | remoteResponse (core tag : Nat)
  /-- SAVE_ALL (R559): SAVE_ALL stops and saves the whole device. -/
  | saveAll
  /-- SAVE_ALL_COMPLETE (R559): The whole-device save completes, and SAVED_ALL reads 1. -/
  | saveAllComplete
  /-- RESUME_ALL (R560): RESUME_ALL restores the whole device and re-enables its rings. -/
  | resumeAll
  /-- SCHED_CLS_COMMIT (R543): COMMIT applies the staged class shares, ways and pseudo-channels, or sets FAILED. -/
  | schedClsCommit
  /-- CLASS_ENABLE (R561): SCHED_CLS_CFG.ENABLE is written, which puts a class in LEHR or enables it. -/
  | classEnable (svc : Nat) (w : BitVec 32)
  /-- CLASS_LEHR_END (R561): Every core of a disabled class is IDLE, so the class reads DISABLED or becomes ACTIVE. -/
  | classLehrEnd (svc : Nat)
  /-- STARVE_CHECK (R563): A ready tile job has waited beyond STARVE_MS, so SCHED_STARVED is recorded. -/
  | starveCheck (svc : Nat)
  /-- MAXWAIT_CLEAR (R563): CLEAR resets the class's longest-wait record. -/
  | maxwaitClear (svc : Nat)
  /-- FABRIC_REQUEST_GRANT (R547): A two-level arbiter grants the oldest nominated request, or a window-forced one. -/
  | fabricRequestGrant (heads : List FabHead)
  /-- POOL_DRAW (R571): A draw of buffers is granted, stalls or fails under the reserve and headroom rules. -/
  | poolDraw (owner cls n svc ticket : Nat)
  /-- STALLED_DRAW_GRANT (R577): A stalled draw is granted, oldest ticket first, as soon as headroom allows. -/
  | stalledDrawGrant (cls : Nat)
  /-- POOL_FREE (R581): A buffer is freed to its pool, and a bad free is discarded with POOL_DOUBLE_FREE. -/
  | poolFree (cls index : Nat)
  /-- POOL_REFILL (R579): A refill read of indices from the free ring or list completes into the cache. -/
  | poolRefill (cls : Nat) (values : List Nat)
  /-- POOL_ENABLE (R568): A pool is enabled: its carve is checked and its free store built. -/
  | poolEnable (cls : Nat) (w : BitVec 32)
  /-- POOL_DISABLE (R583): ENABLE 0 is written, which puts the pool in LEHR. -/
  | poolDisable (cls : Nat) (w : BitVec 32)
  /-- POOL_LEHR_END (R583): No buffer of the pool is held, so it reads DISABLED or returns to ACTIVE. -/
  | poolLehrEnd (cls : Nat)
  /-- POOL_RES_WRITE (R573): A reserve write is applied only when headroom stays non-negative. -/
  | poolResWrite (owner cls : Nat) (w : BitVec 32)
  /-- POOL_THRESH_WRITE (R573): A threshold write is checked against the reserves and COUNT. -/
  | poolThreshWrite (cls : Nat) (w : BitVec 32)
  /-- SB_PINNED_ALLOC (R587): A pinned station-buffer allocation takes its lines once enough unpinned lines exist. -/
  | sbPinnedAlloc (cluster svc bytes job : Nat)
  /-- WAY_LINE_PASS (R588): A line of a moved way passes to its new class once it has been written back or released. -/
  | wayLinePass (cluster way line : Nat) (old : List Nat) (acc : List PortAccess)
  /-- ON_CHIP_ECC_ERROR (R591): An on-chip memory error is corrected or handled as uncorrectable by memory kind. -/
  | onChipEccError (kind inst line : Nat) (owner : Option Nat) (correctable : Bool)
  /-- SECURE_SRAM_WIPE_DONE (R592): The secure SRAM wipe completes. -/
  | secureSramWipeDone
  /-- HBM_REQUEST_ISSUE (R604): A pseudo-channel issues its next command by refresh, urgency, open row and ticket. -/
  | hbmRequestIssue (pch : Nat) (arrivals : List HbmArr) (parity : Bool) (symbols : Nat)
  /-- HBM_POISON_READ (R613): A poisoned line is read, and its reader re-runs, rebuilds or ends in error. -/
  | hbmPoisonRead (line reader who : Nat)
  /-- URGENCY_RISE (R603): A request's age passes a fraction of TARGET_NS, so its urgency rises. -/
  | urgencyRise (pch pos : Nat)
  /-- REFRESH (R607): A refresh interval falls due, and the refresh is issued or postponed. -/
  | refresh (pch : Nat)
  /-- HBM_TEMP_READING (R606): Every 256 µs the stack temperature is read, and refresh or throttling changes. -/
  | hbmTempReading (stack : Nat) (temp : Int)
  /-- HBM_TRAINING_DONE (R609): Power-on training of a stack completes or fails. -/
  | hbmTrainingDone (stack pch : Nat) (ok : Bool)
  /-- DQ_TRACKING (R610): Every 32 ms, DQ delay tracking runs on each pseudo-channel. -/
  | dqTracking (pch : Nat)
  /-- PATROL_SCRUB (R612): The patrol scrub reads and corrects lines across all ranks. -/
  | patrolScrub (rank : Nat) (line symbols : Nat)
  /-- FRAME_REPLACE_COPY_DONE (R601): The background copy of a re-placed frame ends, and its old slots are freed. -/
  | frameReplaceCopyDone (frame : Nat)
  /-- RANK_RETIRE (R616): A rank meets a retirement condition and is redirected to the spare, or drained on the second retirement. -/
  | rankRetire (rank cause : Nat)
  /-- RETIRE (R614): RETIRE in HBM_RNK_CTRL requests the retirement of a rank. -/
  | retire (rank : Nat)
  /-- MIGRATION_DONE (R616): The copy to the spare ends, and the rank reads RETIRED. -/
  | migrationDone
  /-- RANK_DRAIN_DONE (R619): A draining rank has moved all its frames and reads RETIRED. -/
  | rankDrainDone (rank : Nat)
  /-- HBM_PORT_MAXLAT_CLEAR (R624): CLEAR resets a port's longest latency record. -/
  | hbmPortMaxlatClear (port : Nat)
  /-- LNK_TOPO_WRITE (R630): LNK_TOPO is written with the topology, device count and MY_DEV, or the write is discarded. -/
  | lnkTopoWrite (w : BitVec 32)
  /-- LNK_PORT_ENABLE (R651): A Ranlink port's ENABLE is written, which starts training or puts the port in LEHR. -/
  | lnkPortEnable (port : Nat) (w : BitVec 32)
  /-- LNK_PORT_LEHR_END (R651): A disabled port finishes its started tiles and goes to electrical idle. -/
  | lnkPortLehrEnd (port : Nat)
  /-- PORT_TRAINING_DONE (R631): Port training and the identity exchange complete, and the port is UP or stays DOWN. -/
  | portTrainingDone (port width : Nat) (peer : PeerId) (lanesOk : Nat)
  /-- FLIT_RECEIVE (R629): A flit arrives, and a CRC failure asks the sender to replay it. -/
  | flitReceive (port : Nat) (crcOk : Bool) (dst tile halyard : Nat)
  /-- REPLAY_REQUEST (R629): The sender replays a flit from its replay buffer. -/
  | replayRequest (port flit : Nat)
  /-- CREDIT_RETURN (R637): Returned credits let a halyard send again. -/
  | creditReturn (port halyard set n : Nat)
  /-- LNK_LANE_FAILURE (R648): A Ranlink lane fails, so its port retrains at a narrower width or goes DOWN. -/
  | lnkLaneFailure (port lane : Nat)
  /-- PORT_DOWN (R649): A port loses signal, so topology updates are sent and routes are recomputed. -/
  | portDown (port : Nat)
  /-- TOPOLOGY_UPDATE (R634): A topology update arrives, and the route table is recomputed. -/
  | topologyUpdate (dev ports : Nat)
  /-- TILE_ARRIVAL (R642): A transferred tile arrives; it is answered with RECEIPT and taken, started as a job, held or discarded as a duplicate. -/
  | tileArrival (port : Nat) (tile : TileMsg)
  /-- RECEIPT (R640): A RECEIPT arrives at the sender for a tile. -/
  | receipt (dev : Nat) (tile : TileId) (code : Nat)
  /-- ACK_TIMEOUT (R640): No RECEIPT arrives within ACK_US, so the tile is sent again or the job ends. -/
  | ackTimeout (dev : Nat) (tile : TileId)
  /-- RELEASE (R641): A RELEASE arrives, and the sender frees the tile's place. -/
  | releaseTile (dev : Nat) (tile : TileId)
  /-- REJOIN_TIMEOUT (R641): An unreachable receiver does not rejoin within REJOIN_MS, so its tiles are released. -/
  | rejoinTimeout (dev : Nat)
  /-- PEER_REJOIN (R650): A returning neighbour trains and rejoins, and its unreleased tiles are sent again. -/
  | peerRejoin (port dev : Nat)
  /-- ORPHAN_TIMEOUT (R643): A tile waits beyond ORPHAN_MS for its job, so it is discarded and released. -/
  | orphanTimeout (tile : TileId)
  /-- FALLBACK_TIMEOUT (R645): A receiving tile job still waits at half the staleness bound, so the last tile on its channel is supplied. -/
  | fallbackTimeout (job node : Nat)
  /-- RECORD_ENTRY_CLEAR (R659): Writing VALID 1 clears one record entry. -/
  | recordEntryClear (entry : Nat)
  /-- CLEAR_ALL (R659): CLEAR_ALL clears every record entry in one AON tick. -/
  | clearAll
  /-- HANG_DETECTION (R662): A unit makes no progress for HANG_US, so it is fenced. -/
  | hangDetection (kind unit : Nat)
  /-- HLTH_UNFENCE (R666): A write of HLTH_UNFENCE names a fenced unit, which then runs its self-test. -/
  | hlthUnfence (w : BitVec 32)
  /-- SELF_TEST_DONE (R666): A self-test ends, and the unit returns to IDLE or stays FENCED. -/
  | selfTestDone (kind unit failing : Nat)
  /-- MARGIN_PLAN_DUE (R671): INTERVAL_H hours pass, so a margin plan falls due at the next idle moment. -/
  | marginPlanDue
  /-- IDLE_MOMENT (R671): An idle moment of 1 ms arrives, and a due margin plan starts. -/
  | idleMoment
  /-- PLAN_FORCED (R671): DEFER_H hours pass with no idle moment, so the plan is forced. -/
  | planForced
  /-- PLAN_NOW (R672): PLAN_NOW requests a plan or latches one more plan. -/
  | planNow
  /-- AGEING_MEASUREMENT_DONE (R667): A monitor measurement of 65,536 AON ticks completes. -/
  | ageingMeasurementDone (monitor fresh stressed : Nat)
  /-- MARGIN_PLAN_END (R672): A plan completes, and the MARGIN STAT is written. -/
  | marginPlanEnd
  /-- HOIST (R674): SNAP_CTRL.HOIST is written, which triggers a snapshot. -/
  | hoist
  /-- SNAP_IN_EDGE (R674): A selected edge on SNAP_IN is a hoist source. -/
  | snapInEdge (rising : Bool) (ago : Nat)
  /-- SNAP_TIME_MATCH (R676): The device clock reaches SNAP_TIME, or a step jumps over it, which is a hoist source. -/
  | snapTimeMatch
  /-- SNAP_ARM (R675): ARM is written 1, which clears HELD, SOURCE and SNAP_CAUSE. -/
  | snapArm
  /-- FURL_IDLE_EXPIRY (R685): The idle conditions hold for FURL_IDLE_US, so the device begins entry to FURLED. -/
  | furlIdleExpiry
  /-- FURL_LEHR_END (R687): The furl lehr completes, and a wake latched during it is acted on. -/
  | furlLehrEnd
  /-- WAKE_EVENT (R686): A wake event returns the device from FURLED. -/
  | wakeEvent
  /-- D3HOT_WRITE (R688): D3hot is written to PMCSR, so the device saves, self-refreshes and enters STOWED. -/
  | d3hotWrite
  /-- D0_WRITE (R689): D0 is written, so the rails come up, the context is restored and the rings resume. -/
  | d0Write
  /-- CLOCK_GATE (R682): A block has no work for GATE_US, so it gates its clock. -/
  | clockGate (block : Nat)
  /-- CLOCK_START (R682): Work arrives at a gated block, so its clock starts within 10 µs. -/
  | clockStart (block : Nat)
  /-- RAIL_READBACK (R691): Every 100 µs rails 0–11 are read back over AVSBus. -/
  | railReadback (rail : Nat) (reading : Option (Nat × Nat))
  /-- RAIL_FAULT (R691): A rail's read-back lies outside tolerance for 1 ms, so RAIL_FAULT is set. -/
  | railFault (rail : Nat)
  /-- THROTTLE_STEP (R694): Every 100 µs the issue duty is lowered or raised against CAP_W and TJ_MAX_C. -/
  | throttleStep (tj : Int)
  /-- THERMAL_TRIP (R696): A junction reaches TJ_MAX_C + 15 °C, so THERMTRIP_N is driven and the device holds in power-on reset. -/
  | thermalTrip
  /-- CHALLENGE (R707): CHALLENGE writes a fresh random value to SEC_CHALLENGE. -/
  | challenge
  /-- PROVISION (R711): PROVISION burns the identity seed and moves BLANK to DEVELOPMENT. -/
  | provision
  /-- ENDORSE (R713): ENDORSE verifies and burns the Dzidor endorsement. -/
  | endorse
  /-- PRODUCTION (R707): PRODUCTION moves an endorsed part to PRODUCTION. -/
  | production
  /-- RETURN (R707): RETURN moves PRODUCTION to RETURNED with a token. -/
  | returnCmd
  /-- TERMINATE (R711): TERMINATE moves the part to TERMINATED and destroys its seed. -/
  | terminate
  /-- REVOKE (R710): REVOKE burns the revoke fuse of a key slot. -/
  | revoke (slot : Nat)
  /-- LC_COMMAND_DONE (R708): A state-changing lifecycle command finishes burning, wiping and deriving the key. -/
  | lcCommandDone
  /-- KEY_DERIVATION_DONE (R712): The identity key is derived, and KEY_READY is set. -/
  | keyDerivationDone
  /-- BURGEE_GO (R714): BURGEE_GO requests a signed burgee. -/
  | burgeeGo
  /-- BURGEE_DONE (R714): The burgee is written, and BURGEE_DONE is set. -/
  | burgeeDone
  /-- QUOTE_GO (R721): QUOTE_GO latches the nonce and requests an attestation quote. -/
  | quoteGo
  /-- QUOTE_DONE (R721): The quote is written, and QUOTE_DONE is set. -/
  | quoteDone
  /-- SVN_COMMIT (R719): SVN_COMMIT raises the SVN fuses to SVN_RUN. -/
  | svnCommit (key : Nat)
  /-- RECOV_GO (R717): RECOV_GO offers a host image for verification in ROM service mode. -/
  | recovGo
  /-- IMAGE_VERIFY_DONE (R716): The boot ROM finishes checking an image and starts it or tries the next one. -/
  | imageVerifyDone (image : Nat) (data : List Nat)
  /-- TAMPER_EVENT (R724): An enabled tamper source acts, so the secure SRAM is wiped and the key cleared. -/
  | tamperEvent (source rail : Nat)
  /-- SEC_TAMPER_CLR (R724): A keyed write clears the latched tamper record. -/
  | secTamperClr (w : BitVec 32)
  /-- DEBUG_PORT_ACCESS (R726): An IEEE 1149.1 instruction or debug access arrives on the debug port. -/
  | debugPortAccess (addr : Nat) (write : Option (BitVec 32))
  /-- NET_LINK_LOST (R191): An Ethernet port loses its link because the partner or cable goes away, so the port goes down with NET_LINK and its flows lose their path. -/
  | netLinkLost (port : Nat)
  /-- ANNOUNCE_RECEIPT_TIMEOUT (R221): No Announce arrives from the current master within the announce receipt timeout, so the best master algorithm runs again and the grandmaster may change or be lost. -/
  | announceReceiptTimeout
  /-- RST_POR_N_RISE (R737): RST_POR_N rises after PWR_GOOD, ending the power-on reset and starting the boot times of R701 from that edge. -/
  | rstPorNRise (board : List Nat)
  /-- RESUME_ALL_COMPLETE (R560): The whole-device restore completes, RESUME_ALL clears and the rings put in LEHR by SAVE_ALL are re-enabled, including on return from STOWED. -/
  | resumeAllComplete
  /-- COLLECTIVE_CHUNK_ARRIVAL (R647): A collective chunk arrives on the collective halyard, and the receiving device adds it to its FP32 partial and sends it on, or stores the owner's wire value. -/
  | collectiveChunkArrival (port : Nat) (chunk : CollChunk)
  /-- PCIE_LINK_UP (R50): PCIe link training completes, the data link layer comes up and HIF_STATUS reports LINK_UP with the negotiated speed and width. -/
  | pcieLinkUp (speed width : Nat)
  deriving DecidableEq, Repr

end Sys2Proof
end

