-- ==== Sys2Proof/Config.lean ====
section
/-! DEFINITION. What one part of the V96 fixes and what the spec leaves open: constants with no body, so that every
claim holds whatever they are. -/

set_option Elab.async false

namespace Sys2Proof.Config

/-- GLB_CHIP.GRADE from fuses: true for grade E, false for grade C (R1, R748). -/
opaque fuseGradeE : Bool

/-- The serial number from fuses (R748, R308). -/
opaque fuseSerial : BitVec 64

/-- The bits behind the MAC addresses in the fuses (R748). -/
opaque fuseMacBits : Nat → BitVec 48

/-- A universally administered unicast address: bits 1 and 0 of the first octet are 0. -/
def macOf (w : BitVec 48) : BitVec 48 := w &&& 0xFCFFFFFFFFFF#48

/-- MAC address of an Ethernet port from fuses: two unique, universally administered addresses (R748). -/
def fuseMac (i : Nat) : BitVec 48 :=
  let m := macOf (fuseMacBits i)
  if i = 1 ∧ m = macOf (fuseMacBits 0) then m ^^^ 1#48 else m

/-- HLTH_GRP_BASE.V_BASE_MV of a group from fuses (R748, R669). -/
opaque fuseVBase : Nat → BitVec 10

/-- The initial HLTH_GRP_SET.SET_MV of a group from fuses (R748). -/
opaque fuseSetMv : Nat → BitVec 10

/-- The fixed allowance for the rails without read-back, in mW (R694): the spec gives no number. -/
opaque railAllowance : Nat

/-- The identity seed that PROVISION burns, from the device's random source (R711), by its draw number. -/
opaque randomSeed : Nat → BitVec 256

/-- The random value that CHALLENGE writes (R707), by its draw number. -/
opaque randomChallenge : Nat → BitVec 256

/-- The value that the key derivation of R712 gives for a seed and a label, before it is reduced: the spec names the key-derivation
function and not how seed and label enter it. -/
opaque deriveKey : BitVec 256 → List Nat → BitVec 256

/-- The random value from which SEC forms the nonce of a signature, by its draw number. -/
opaque signNonce : Nat → BitVec 256

/-- Fuse hash of a firmware key slot (R709, R716): no command programs one, so every part holds some value. -/
opaque fuseKeyHash : Nat → BitVec 256

/-- GLB_FW as firmware with a digest reports it (R308, R748). -/
opaque fwVersion : BitVec 256 → BitVec 32

/-- A free value of the numerics: a result the spec does not state, by draw number. -/
opaque freeValue : Nat → BitVec 64

/-- The result code of CONV_FFT for an output element: its job number, node, element index and the correctly rounded
result.  The spec bounds its distance from the exact result and states no value (R478). -/
opaque fftResult : Nat → Nat → Nat → BitVec 32 → BitVec 32

/-- The block scale byte that a node reads where its source holds none (R320), by row and block. -/
opaque absentScale : Nat → Nat → BitVec 8

/-- The wear of a group whose fused base voltage leaves no range to wear (R669: the spec divides by it): by base voltage, highest bin and
delta. -/
opaque wearOpen : Nat → Nat → Nat → Nat

end Sys2Proof.Config
end

