-- ==== Sys2Proof/Machine/PciCfg.lean ====
section
/-! DEFINITION. The PCI configuration space of function 0 (R53, R54): where each dword of the header and of the capabilities lies, what it
holds at reset, and which bits software writes.  The offsets and the values that R53 and R54 name are the spec's; the bits inside a
standard capability, and the reset values the spec does not state, are the PCI Express standard's (PRESUMED, log entry 63). -/

set_option Elab.async false

namespace Sys2Proof.Machine

/-- A dword of configuration space: offset, value at reset, bits that a write sets, bits that a write of 1 clears. -/
structure CfgRow where
  off : Nat
  reset : Nat
  rw : Nat := 0
  w1c : Nat := 0
  deriving DecidableEq, Repr

/-- The header (R53): vendor ID 0x1FD7, device ID 0xA096, revision 2, class code 0x12_00_00, header type 0, BAR0 of 64 MiB as a 64-bit
non-prefetchable memory BAR, no other BAR, no expansion ROM, interrupt pin 0. -/
def cfgHeader : List CfgRow :=
  [{ off := 0x00, reset := 0xA0961FD7 }, { off := 0x04, reset := 0x00100000, rw := 0x0546, w1c := 0xF9000000 },
   { off := 0x08, reset := 0x12000002 }, { off := 0x0C, reset := 0, rw := 0xFF }, { off := 0x10, reset := 0x4, rw := 0xFC000000 },
   { off := 0x14, reset := 0, rw := 0xFFFFFFFF }, { off := 0x2C, reset := 0x00001FD7 }, { off := 0x34, reset := 0x40 },
   { off := 0x3C, reset := 0, rw := 0xFF }]

/-- Power Management, MSI-X and PCI Express (R54): D0 and D3hot without PME; 256 vectors with the table at 0x0020_0000 and the PBA at
0x0020_1000; Max_Payload_Size 512 B, 10-bit tags, function-level reset, ASPM L1 without L0s. -/
def cfgCaps : List CfgRow :=
  [{ off := 0x40, reset := 0x00035001 }, { off := 0x44, reset := 0x00000008 },
   { off := 0x50, reset := 0x00FF7011, rw := 0xC0000000 }, { off := 0x54, reset := 0x00200000 }, { off := 0x58, reset := 0x00201000 },
   { off := 0x70, reset := 0x00020010 }, { off := 0x74, reset := 0x10008022 },
   { off := 0x78, reset := 0x00002010, rw := 0x000071FF, w1c := 0x000F0000 }, { off := 0x7C, reset := 0x00400905 },
   { off := 0x80, reset := 0, rw := 0x000001CB }, { off := 0x94, reset := 0x00030000 }, { off := 0x98, reset := 0, rw := 0x0000101F },
   { off := 0x9C, reset := 0x0000003E }, { off := 0xA0, reset := 0x5, rw := 0xF }]

/-- The errors of an endpoint that Advanced Error Reporting logs. -/
def aerBits : Nat := 0x0057F010

/-- Advanced Error Reporting, Device Serial Number, Address Translation Services with an Invalidate Queue Depth of 32 (R54). -/
def cfgExt : List CfgRow :=
  [{ off := 0x100, reset := 0x14820001 }, { off := 0x104, reset := 0, w1c := aerBits }, { off := 0x108, reset := 0x00400000, rw := aerBits },
   { off := 0x10C, reset := 0x00462010, rw := aerBits }, { off := 0x110, reset := 0, w1c := 0xF1C1 },
   { off := 0x114, reset := 0x6000, rw := 0xF1C1 }, { off := 0x118, reset := 0 },
   { off := 0x148, reset := 0x15810003 }, { off := 0x14C, reset := Config.fuseSerial.toNat % 2 ^ 32 },
   { off := 0x150, reset := Config.fuseSerial.toNat / 2 ^ 32 },
   { off := 0x158, reset := 0x1601000F }, { off := 0x15C, reset := 0, rw := 0x80000000 }]

/-- Secondary PCI Express, Data Link Feature with scaled flow control, Physical Layer 16.0 GT/s, Lane Margining, Physical Layer
32.0 GT/s (R54). -/
def cfgLink : List CfgRow :=
  [{ off := 0x160, reset := 0x19010019 }, { off := 0x164, reset := 0, rw := 0x3 }, { off := 0x168, reset := 0, w1c := 0xFFFF },
   { off := 0x190, reset := 0x1A010025 }, { off := 0x194, reset := 0x80000001, rw := 0x80000000 },
   { off := 0x1A0, reset := 0x1D010026 }, { off := 0x1D0, reset := 0x22010027 }] ++
  (List.range 16).map (fun i => { off := 0x1D8 + 4 * i, reset := 0x9C38, rw := 0xFFFF }) ++
  [{ off := 0x220, reset := 0x0001002A }]

/-- Every dword of configuration space that is not a constant 0. -/
def cfgRows : List CfgRow := cfgHeader ++ cfgCaps ++ cfgExt ++ cfgLink

/-- The row of a dword. -/
def cfgRow (off : Nat) : CfgRow := (cfgRows.find? (fun r => r.off == off)).getD { off := off, reset := 0 }

/-- What a dword of configuration space holds at reset (R53, R54). -/
def cfgReset (off : Nat) : BitVec 32 := BitVec.ofNat 32 (cfgRow off).reset

/-- Where the model puts configuration space in the address operand of a register read or write: the table of commands has no row
of its own for a configuration request (log entry 10). -/
def cfgBase : Nat := 2 ^ 32

/-- An address operand names a dword of configuration space. -/
def isCfg (a : Nat) : Bool := decide (cfgBase ≤ a)

end Sys2Proof.Machine
end

