-- ==== Sys2Proof/Machine/RegTable.lean ====
section
/-! DEFINITION. The BAR0 registers as the register tables of the spec give them (R11, R106, R115, R185, R233, R234, R273,
R308, R358, R377, R435, R532, R563, R564, R594, R595, R624, R655, R678, R679, R704, R727, R743): where each register lies, its
fields, their access codes (R12) and their reset values.  `Reg.X` is the address of register X (of one element of an
array of registers, its numbers as arguments); `Reg.X_F` is field F of it. -/

set_option Elab.async false

namespace Sys2Proof.Machine

/-- The access codes of R12. -/
inductive Acc where
  | ro | rw | w1c | w1s | wo | st
  deriving DecidableEq, Repr

/-- One field of a register table: lowest bit, width, access code, reset value (R11). -/
structure FieldRow where
  lo : Nat
  w : Nat
  acc : Acc
  reset : Nat
  deriving DecidableEq, Repr

/-- One register, or one array of registers of up to two dimensions (count and stride of each). -/
structure RegRow where
  base : Nat
  n1 : Nat
  s1 : Nat
  n2 : Nat
  s2 : Nat
  fields : List FieldRow
  deriving DecidableEq, Repr

/-- A field of a register: its BAR0 address, lowest bit and width. -/
structure RegField where
  addr : Nat
  lo : Nat
  w : Nat
  deriving DecidableEq, Repr

namespace Reg

abbrev GLB_ID : Nat := 0x0000000
abbrev GLB_ID_BLOCK : RegField := ⟨GLB_ID, 16, 16⟩
abbrev GLB_ID_MAJOR : RegField := ⟨GLB_ID, 8, 8⟩
abbrev GLB_ID_MINOR : RegField := ⟨GLB_ID, 0, 8⟩
abbrev GLB_CHIP : Nat := 0x0000004
abbrev GLB_CHIP_DEVICE : RegField := ⟨GLB_CHIP, 16, 16⟩
abbrev GLB_CHIP_STEP_LETTER : RegField := ⟨GLB_CHIP, 12, 4⟩
abbrev GLB_CHIP_STEP_NUM : RegField := ⟨GLB_CHIP, 8, 4⟩
abbrev GLB_CHIP_GRADE : RegField := ⟨GLB_CHIP, 4, 4⟩
abbrev GLB_FW : Nat := 0x0000008
abbrev GLB_FW_MAJOR : RegField := ⟨GLB_FW, 24, 8⟩
abbrev GLB_FW_MINOR : RegField := ⟨GLB_FW, 16, 8⟩
abbrev GLB_FW_BUILD : RegField := ⟨GLB_FW, 0, 16⟩
abbrev GLB_ARCH : Nat := 0x000000C
abbrev GLB_ARCH_RUN_MIN : RegField := ⟨GLB_ARCH, 28, 4⟩
abbrev GLB_ARCH_RUN_MAX : RegField := ⟨GLB_ARCH, 24, 4⟩
abbrev GLB_SERIAL_LO : Nat := 0x0000010
abbrev GLB_SERIAL_LO_SERIAL_LO : RegField := ⟨GLB_SERIAL_LO, 0, 32⟩
abbrev GLB_SERIAL_HI : Nat := 0x0000014
abbrev GLB_SERIAL_HI_SERIAL_HI : RegField := ⟨GLB_SERIAL_HI, 0, 32⟩
abbrev GLB_LOAD_ERR : Nat := 0x0000018
abbrev GLB_LOAD_ERR_VALID : RegField := ⟨GLB_LOAD_ERR, 31, 1⟩
abbrev GLB_LOAD_ERR_PROG_ID : RegField := ⟨GLB_LOAD_ERR, 16, 5⟩
abbrev GLB_LOAD_ERR_CODE : RegField := ⟨GLB_LOAD_ERR, 0, 16⟩
abbrev GLB_CAP_CORE : Nat := 0x0000020
abbrev GLB_CAP_CORE_CLUSTERS : RegField := ⟨GLB_CAP_CORE, 24, 8⟩
abbrev GLB_CAP_CORE_PER_CLUSTER : RegField := ⟨GLB_CAP_CORE, 16, 8⟩
abbrev GLB_CAP_CORE_CORES : RegField := ⟨GLB_CAP_CORE, 8, 8⟩
abbrev GLB_CAP_LANE : Nat := 0x0000024
abbrev GLB_CAP_LANE_LANES : RegField := ⟨GLB_CAP_LANE, 16, 16⟩
abbrev GLB_CAP_LANE_CHK_LANES : RegField := ⟨GLB_CAP_LANE, 8, 8⟩
abbrev GLB_CAP_LANE_MRV_LANES : RegField := ⟨GLB_CAP_LANE, 0, 8⟩
abbrev GLB_CAP_MEM : Nat := 0x0000028
abbrev GLB_CAP_MEM_TILE_KIB : RegField := ⟨GLB_CAP_MEM, 16, 16⟩
abbrev GLB_CAP_MEM_ACC_KIB : RegField := ⟨GLB_CAP_MEM, 0, 16⟩
abbrev GLB_CAP_STN : Nat := 0x000002C
abbrev GLB_CAP_STN_DEC : RegField := ⟨GLB_CAP_STN, 28, 4⟩
abbrev GLB_CAP_STN_SHP : RegField := ⟨GLB_CAP_STN, 24, 4⟩
abbrev GLB_CAP_STN_SGS : RegField := ⟨GLB_CAP_STN, 20, 4⟩
abbrev GLB_CAP_STN_GTH : RegField := ⟨GLB_CAP_STN, 16, 4⟩
abbrev GLB_CAP_STN_NET_PORTS : RegField := ⟨GLB_CAP_STN, 12, 4⟩
abbrev GLB_CAP_STN_LNK_PORTS : RegField := ⟨GLB_CAP_STN, 8, 4⟩
abbrev GLB_CAP_STREAM : Nat := 0x0000030
abbrev GLB_CAP_STREAM_STREAMS : RegField := ⟨GLB_CAP_STREAM, 16, 16⟩
abbrev GLB_CAP_STREAM_FLOWS : RegField := ⟨GLB_CAP_STREAM, 8, 8⟩
abbrev GLB_CAP_RING : Nat := 0x0000034
abbrev GLB_CAP_RING_CRINGS : RegField := ⟨GLB_CAP_RING, 24, 8⟩
abbrev GLB_CAP_RING_PRINGS : RegField := ⟨GLB_CAP_RING, 16, 8⟩
abbrev GLB_CAP_RING_MSIX : RegField := ⟨GLB_CAP_RING, 0, 16⟩
abbrev GLB_CAP_POOL : Nat := 0x0000038
abbrev GLB_CAP_POOL_CLASSES : RegField := ⟨GLB_CAP_POOL, 24, 8⟩
abbrev GLB_CAP_POOL_OWNERS : RegField := ⟨GLB_CAP_POOL, 16, 8⟩
abbrev GLB_CAP_POOL_SVC : RegField := ⟨GLB_CAP_POOL, 8, 8⟩
abbrev GLB_CAP_FMT : Nat := 0x000003C
abbrev GLB_CAP_FMT_FORMATS : RegField := ⟨GLB_CAP_FMT, 0, 11⟩
abbrev GLB_CAP_PROG : Nat := 0x0000040
abbrev GLB_CAP_PROG_PROGRAMS : RegField := ⟨GLB_CAP_PROG, 24, 8⟩
abbrev GLB_CAP_PROG_ROUTES : RegField := ⟨GLB_CAP_PROG, 16, 8⟩
abbrev GLB_CAP_PROG_NODES : RegField := ⟨GLB_CAP_PROG, 0, 16⟩
abbrev GLB_CAP_WORDS : Nat := 0x0000044
abbrev GLB_CAP_WORDS_WORDS : RegField := ⟨GLB_CAP_WORDS, 16, 16⟩
abbrev GLB_CAP_WORDS_DESCS : RegField := ⟨GLB_CAP_WORDS, 0, 16⟩
abbrev GLB_CAP_SCHED : Nat := 0x0000048
abbrev GLB_CAP_SCHED_SB_ENTRIES : RegField := ⟨GLB_CAP_SCHED, 16, 16⟩
abbrev GLB_CAP_SCHED_MENU : RegField := ⟨GLB_CAP_SCHED, 8, 8⟩
abbrev GLB_CAP_HBM : Nat := 0x000004C
abbrev GLB_CAP_HBM_RAW_GIB : RegField := ⟨GLB_CAP_HBM, 16, 16⟩
abbrev GLB_CAP_HBM_USABLE_GIB : RegField := ⟨GLB_CAP_HBM, 0, 16⟩
abbrev GLB_CAP_TRACK : Nat := 0x0000050
abbrev GLB_CAP_TRACK_TRACKS : RegField := ⟨GLB_CAP_TRACK, 16, 16⟩
abbrev GLB_PROG_STATUS (i : Nat) : Nat := 0x0000100 + 0x4 * i
abbrev GLB_PROG_STATUS_BOUND (i : Nat) : RegField := ⟨GLB_PROG_STATUS i, 24, 8⟩
abbrev GLB_PROG_STATUS_LEVEL (i : Nat) : RegField := ⟨GLB_PROG_STATUS i, 20, 4⟩
abbrev GLB_PROG_STATUS_STATE (i : Nat) : RegField := ⟨GLB_PROG_STATUS i, 0, 3⟩
abbrev HIF_ID : Nat := 0x0100000
abbrev HIF_ID_BLOCK : RegField := ⟨HIF_ID, 16, 16⟩
abbrev HIF_ID_MAJOR : RegField := ⟨HIF_ID, 8, 8⟩
abbrev HIF_ID_MINOR : RegField := ⟨HIF_ID, 0, 8⟩
abbrev HIF_CTRL : Nat := 0x0100004
abbrev HIF_CTRL_RO_EN : RegField := ⟨HIF_CTRL, 1, 1⟩
abbrev HIF_CTRL_ATS_USE : RegField := ⟨HIF_CTRL, 0, 1⟩
abbrev HIF_STATUS : Nat := 0x0100008
abbrev HIF_STATUS_LINK_SPEED : RegField := ⟨HIF_STATUS, 8, 4⟩
abbrev HIF_STATUS_LINK_WIDTH : RegField := ⟨HIF_STATUS, 3, 5⟩
abbrev HIF_STATUS_ATS_ACTIVE : RegField := ⟨HIF_STATUS, 2, 1⟩
abbrev HIF_STATUS_JRNL_OK : RegField := ⟨HIF_STATUS, 1, 1⟩
abbrev HIF_STATUS_LINK_UP : RegField := ⟨HIF_STATUS, 0, 1⟩
abbrev HIF_ERR : Nat := 0x010000C
abbrev HIF_ERR_VALID : RegField := ⟨HIF_ERR, 31, 1⟩
abbrev HIF_ERR_OVERFLOW : RegField := ⟨HIF_ERR, 30, 1⟩
abbrev HIF_ERR_RING : RegField := ⟨HIF_ERR, 16, 7⟩
abbrev HIF_ERR_CODE : RegField := ⟨HIF_ERR, 0, 16⟩
abbrev HIF_ERR_ADDR_LO : Nat := 0x0100010
abbrev HIF_ERR_ADDR_LO_ADDR_LO : RegField := ⟨HIF_ERR_ADDR_LO, 0, 32⟩
abbrev HIF_ERR_ADDR_HI : Nat := 0x0100014
abbrev HIF_ERR_ADDR_HI_ADDR_HI : RegField := ⟨HIF_ERR_ADDR_HI, 0, 32⟩
abbrev HIF_SVC_PRING : Nat := 0x0100018
abbrev HIF_SVC_PRING_PRING : RegField := ⟨HIF_SVC_PRING, 0, 6⟩
abbrev HIF_ATS_INVAL : Nat := 0x010001C
abbrev HIF_ATS_INVAL_COUNT : RegField := ⟨HIF_ATS_INVAL, 0, 32⟩
abbrev HIF_JRNL_BASE_LO : Nat := 0x0100020
abbrev HIF_JRNL_BASE_LO_BASE_LO : RegField := ⟨HIF_JRNL_BASE_LO, 12, 20⟩
abbrev HIF_JRNL_BASE_HI : Nat := 0x0100024
abbrev HIF_JRNL_BASE_HI_BASE_HI : RegField := ⟨HIF_JRNL_BASE_HI, 0, 32⟩
abbrev HIF_JRNL_CFG : Nat := 0x0100028
abbrev HIF_JRNL_CFG_ENABLE : RegField := ⟨HIF_JRNL_CFG, 31, 1⟩
abbrev HIF_JRNL_CFG_RECOVER : RegField := ⟨HIF_JRNL_CFG, 30, 1⟩
abbrev HIF_JRNL_CFG_MIRROR_VALID : RegField := ⟨HIF_JRNL_CFG, 29, 1⟩
abbrev HIF_JRNL_CFG_RECOVERING : RegField := ⟨HIF_JRNL_CFG, 28, 1⟩
abbrev HIF_JRNL_CFG_DRAINING : RegField := ⟨HIF_JRNL_CFG, 27, 1⟩
abbrev HIF_JRNL_CFG_LOG2_EMIT : RegField := ⟨HIF_JRNL_CFG, 8, 5⟩
abbrev HIF_JRNL_CFG_LOG2_ENTRIES : RegField := ⟨HIF_JRNL_CFG, 0, 5⟩
abbrev HIF_SVC_LOST : Nat := 0x010002C
abbrev HIF_SVC_LOST_COUNT : RegField := ⟨HIF_SVC_LOST, 0, 32⟩
abbrev HIF_CRING_BASE_LO (i : Nat) : Nat := 0x0101000 + 0x40 * i
abbrev HIF_CRING_BASE_LO_BASE_LO (i : Nat) : RegField := ⟨HIF_CRING_BASE_LO i, 12, 20⟩
abbrev HIF_CRING_BASE_HI (i : Nat) : Nat := 0x0101004 + 0x40 * i
abbrev HIF_CRING_BASE_HI_BASE_HI (i : Nat) : RegField := ⟨HIF_CRING_BASE_HI i, 0, 32⟩
abbrev HIF_CRING_CFG (i : Nat) : Nat := 0x0101008 + 0x40 * i
abbrev HIF_CRING_CFG_ENABLE (i : Nat) : RegField := ⟨HIF_CRING_CFG i, 31, 1⟩
abbrev HIF_CRING_CFG_PRING_ACK (i : Nat) : RegField := ⟨HIF_CRING_CFG i, 8, 6⟩
abbrev HIF_CRING_CFG_LOG2_SLOTS (i : Nat) : RegField := ⟨HIF_CRING_CFG i, 0, 5⟩
abbrev HIF_CRING_SEQ0 (i : Nat) : Nat := 0x010100C + 0x40 * i
abbrev HIF_CRING_SEQ0_SEQ0 (i : Nat) : RegField := ⟨HIF_CRING_SEQ0 i, 0, 32⟩
abbrev HIF_CRING_NEXT (i : Nat) : Nat := 0x0101010 + 0x40 * i
abbrev HIF_CRING_NEXT_NEXT (i : Nat) : RegField := ⟨HIF_CRING_NEXT i, 0, 32⟩
abbrev HIF_CRING_POLL (i : Nat) : Nat := 0x0101014 + 0x40 * i
abbrev HIF_CRING_POLL_POLL_FAST (i : Nat) : RegField := ⟨HIF_CRING_POLL i, 16, 8⟩
abbrev HIF_CRING_POLL_POLL_SLOW (i : Nat) : RegField := ⟨HIF_CRING_POLL i, 0, 16⟩
abbrev HIF_CRING_IDLE (i : Nat) : Nat := 0x0101018 + 0x40 * i
abbrev HIF_CRING_IDLE_IDLE_AFTER (i : Nat) : RegField := ⟨HIF_CRING_IDLE i, 0, 16⟩
abbrev HIF_CRING_STATUS (i : Nat) : Nat := 0x010101C + 0x40 * i
abbrev HIF_CRING_STATUS_INTERVAL (i : Nat) : RegField := ⟨HIF_CRING_STATUS i, 16, 16⟩
abbrev HIF_CRING_STATUS_STATE (i : Nat) : RegField := ⟨HIF_CRING_STATUS i, 0, 3⟩
abbrev HIF_CRING_ACCEPTED (i : Nat) : Nat := 0x0101020 + 0x40 * i
abbrev HIF_CRING_ACCEPTED_COUNT (i : Nat) : RegField := ⟨HIF_CRING_ACCEPTED i, 0, 32⟩
abbrev HIF_CRING_ERR (i : Nat) : Nat := 0x0101024 + 0x40 * i
abbrev HIF_CRING_ERR_VALID (i : Nat) : RegField := ⟨HIF_CRING_ERR i, 31, 1⟩
abbrev HIF_CRING_ERR_CODE (i : Nat) : RegField := ⟨HIF_CRING_ERR i, 0, 16⟩
abbrev HIF_PRING_BASE_LO (i : Nat) : Nat := 0x0102000 + 0x40 * i
abbrev HIF_PRING_BASE_LO_BASE_LO (i : Nat) : RegField := ⟨HIF_PRING_BASE_LO i, 12, 20⟩
abbrev HIF_PRING_BASE_HI (i : Nat) : Nat := 0x0102004 + 0x40 * i
abbrev HIF_PRING_BASE_HI_BASE_HI (i : Nat) : RegField := ⟨HIF_PRING_BASE_HI i, 0, 32⟩
abbrev HIF_PRING_CFG (i : Nat) : Nat := 0x0102008 + 0x40 * i
abbrev HIF_PRING_CFG_ENABLE (i : Nat) : RegField := ⟨HIF_PRING_CFG i, 31, 1⟩
abbrev HIF_PRING_CFG_VECTOR (i : Nat) : RegField := ⟨HIF_PRING_CFG i, 8, 8⟩
abbrev HIF_PRING_CFG_LOG2_BLOCKS (i : Nat) : RegField := ⟨HIF_PRING_CFG i, 0, 5⟩
abbrev HIF_PRING_MOD (i : Nat) : Nat := 0x010200C + 0x40 * i
abbrev HIF_PRING_MOD_TIME (i : Nat) : RegField := ⟨HIF_PRING_MOD i, 16, 16⟩
abbrev HIF_PRING_MOD_ERR_IMMEDIATE (i : Nat) : RegField := ⟨HIF_PRING_MOD i, 8, 1⟩
abbrev HIF_PRING_MOD_COUNT (i : Nat) : RegField := ⟨HIF_PRING_MOD i, 0, 8⟩
abbrev HIF_PRING_CONS_LO (i : Nat) : Nat := 0x0102010 + 0x40 * i
abbrev HIF_PRING_CONS_LO_CONS_LO (i : Nat) : RegField := ⟨HIF_PRING_CONS_LO i, 3, 29⟩
abbrev HIF_PRING_CONS_HI (i : Nat) : Nat := 0x0102014 + 0x40 * i
abbrev HIF_PRING_CONS_HI_CONS_HI (i : Nat) : RegField := ⟨HIF_PRING_CONS_HI i, 0, 32⟩
abbrev HIF_PRING_SEQ_LO (i : Nat) : Nat := 0x0102018 + 0x40 * i
abbrev HIF_PRING_SEQ_LO_SEQ_LO (i : Nat) : RegField := ⟨HIF_PRING_SEQ_LO i, 0, 32⟩
abbrev HIF_PRING_SEQ_HI (i : Nat) : Nat := 0x010201C + 0x40 * i
abbrev HIF_PRING_SEQ_HI_SEQ_HI (i : Nat) : RegField := ⟨HIF_PRING_SEQ_HI i, 0, 32⟩
abbrev HIF_PRING_STATUS (i : Nat) : Nat := 0x0102020 + 0x40 * i
abbrev HIF_PRING_STATUS_STATE (i : Nat) : RegField := ⟨HIF_PRING_STATUS i, 0, 3⟩
abbrev HIF_PRING_STALLS (i : Nat) : Nat := 0x0102024 + 0x40 * i
abbrev HIF_PRING_STALLS_COUNT (i : Nat) : RegField := ⟨HIF_PRING_STALLS i, 0, 32⟩
abbrev HIF_PRING_PROD_LO (i : Nat) : Nat := 0x0102028 + 0x40 * i
abbrev HIF_PRING_PROD_LO_PROD_LO (i : Nat) : RegField := ⟨HIF_PRING_PROD_LO i, 0, 32⟩
abbrev HIF_PRING_PROD_HI (i : Nat) : Nat := 0x010202C + 0x40 * i
abbrev HIF_PRING_PROD_HI_PROD_HI (i : Nat) : RegField := ⟨HIF_PRING_PROD_HI i, 0, 32⟩
abbrev HIF_PRING_ERR (i : Nat) : Nat := 0x0102030 + 0x40 * i
abbrev HIF_PRING_ERR_VALID (i : Nat) : RegField := ⟨HIF_PRING_ERR i, 31, 1⟩
abbrev HIF_PRING_ERR_CODE (i : Nat) : RegField := ⟨HIF_PRING_ERR i, 0, 16⟩
abbrev MSIX_ADDR_LO (i : Nat) : Nat := 0x0200000 + 0x10 * i
abbrev MSIX_ADDR_LO_VALUE (i : Nat) : RegField := ⟨MSIX_ADDR_LO i, 0, 32⟩
abbrev MSIX_ADDR_HI (i : Nat) : Nat := 0x0200004 + 0x10 * i
abbrev MSIX_ADDR_HI_VALUE (i : Nat) : RegField := ⟨MSIX_ADDR_HI i, 0, 32⟩
abbrev MSIX_DATA (i : Nat) : Nat := 0x0200008 + 0x10 * i
abbrev MSIX_DATA_VALUE (i : Nat) : RegField := ⟨MSIX_DATA i, 0, 32⟩
abbrev MSIX_CTRL (i : Nat) : Nat := 0x020000C + 0x10 * i
abbrev MSIX_CTRL_VALUE (i : Nat) : RegField := ⟨MSIX_CTRL i, 0, 32⟩
abbrev MSIX_PBA (i : Nat) : Nat := 0x0201000 + 0x4 * i
abbrev MSIX_PBA_PENDING (i : Nat) : RegField := ⟨MSIX_PBA i, 0, 32⟩
abbrev DEC_ID (i : Nat) : Nat := 0x0400000 + 0x10000 * i
abbrev DEC_ID_BLOCK (i : Nat) : RegField := ⟨DEC_ID i, 16, 16⟩
abbrev DEC_ID_MAJOR (i : Nat) : RegField := ⟨DEC_ID i, 8, 8⟩
abbrev DEC_ID_MINOR (i : Nat) : RegField := ⟨DEC_ID i, 0, 8⟩
abbrev DEC_CTRL (i : Nat) : Nat := 0x0400004 + 0x10000 * i
abbrev DEC_CTRL_OFFLINE (i : Nat) : RegField := ⟨DEC_CTRL i, 0, 1⟩
abbrev DEC_STATUS (i : Nat) : Nat := 0x0400008 + 0x10000 * i
abbrev DEC_STATUS_CUR_VALID (i : Nat) : RegField := ⟨DEC_STATUS i, 31, 1⟩
abbrev DEC_STATUS_CUR_STREAM (i : Nat) : RegField := ⟨DEC_STATUS i, 24, 7⟩
abbrev DEC_STATUS_NSTREAMS (i : Nat) : RegField := ⟨DEC_STATUS i, 16, 8⟩
abbrev DEC_STATUS_OVERCOMMIT (i : Nat) : RegField := ⟨DEC_STATUS i, 3, 1⟩
abbrev DEC_STATUS_STATE (i : Nat) : RegField := ⟨DEC_STATUS i, 0, 3⟩
abbrev DEC_ERR (i : Nat) : Nat := 0x040000C + 0x10000 * i
abbrev DEC_ERR_VALID (i : Nat) : RegField := ⟨DEC_ERR i, 31, 1⟩
abbrev DEC_ERR_OVERFLOW (i : Nat) : RegField := ⟨DEC_ERR i, 30, 1⟩
abbrev DEC_ERR_STREAM (i : Nat) : RegField := ⟨DEC_ERR i, 16, 8⟩
abbrev DEC_ERR_CODE (i : Nat) : RegField := ⟨DEC_ERR i, 0, 16⟩
abbrev DEC_RES_PIX (i : Nat) : Nat := 0x0400010 + 0x10000 * i
abbrev DEC_RES_PIX_MPIX (i : Nat) : RegField := ⟨DEC_RES_PIX i, 0, 32⟩
abbrev DEC_RES_BITS (i : Nat) : Nat := 0x0400014 + 0x10000 * i
abbrev DEC_RES_BITS_MBITS (i : Nat) : RegField := ⟨DEC_RES_BITS i, 0, 32⟩
abbrev DEC_PICS_LO (i : Nat) : Nat := 0x0400018 + 0x10000 * i
abbrev DEC_PICS_LO_PICS_LO (i : Nat) : RegField := ⟨DEC_PICS_LO i, 0, 32⟩
abbrev DEC_PICS_HI (i : Nat) : Nat := 0x040001C + 0x10000 * i
abbrev DEC_PICS_HI_PICS_HI (i : Nat) : RegField := ⟨DEC_PICS_HI i, 0, 32⟩
abbrev DEC_UTIL (i : Nat) : Nat := 0x0400020 + 0x10000 * i
abbrev DEC_UTIL_UTIL (i : Nat) : RegField := ⟨DEC_UTIL i, 0, 10⟩
abbrev DEC_CACHE_MISS (i : Nat) : Nat := 0x0400024 + 0x10000 * i
abbrev DEC_CACHE_MISS_MISSES (i : Nat) : RegField := ⟨DEC_CACHE_MISS i, 0, 32⟩
abbrev DEC_STRM_STATE (i : Nat) : Nat := 0x0408000 + 0x40 * i
abbrev DEC_STRM_STATE_ENGINE (i : Nat) : RegField := ⟨DEC_STRM_STATE i, 16, 3⟩
abbrev DEC_STRM_STATE_CODEC (i : Nat) : RegField := ⟨DEC_STRM_STATE i, 4, 4⟩
abbrev DEC_STRM_STATE_STATE (i : Nat) : RegField := ⟨DEC_STRM_STATE i, 0, 3⟩
abbrev DEC_STRM_DIMS (i : Nat) : Nat := 0x0408004 + 0x40 * i
abbrev DEC_STRM_DIMS_WIDTH (i : Nat) : RegField := ⟨DEC_STRM_DIMS i, 16, 16⟩
abbrev DEC_STRM_DIMS_HEIGHT (i : Nat) : RegField := ⟨DEC_STRM_DIMS i, 0, 16⟩
abbrev DEC_STRM_ERR (i : Nat) : Nat := 0x0408008 + 0x40 * i
abbrev DEC_STRM_ERR_VALID (i : Nat) : RegField := ⟨DEC_STRM_ERR i, 31, 1⟩
abbrev DEC_STRM_ERR_CODE (i : Nat) : RegField := ⟨DEC_STRM_ERR i, 0, 16⟩
abbrev DEC_STRM_SPARSE (i : Nat) : Nat := 0x040800C + 0x40 * i
abbrev DEC_STRM_SPARSE_RUN (i : Nat) : RegField := ⟨DEC_STRM_SPARSE i, 0, 4⟩
abbrev DEC_STRM_CONCEALED (i : Nat) : Nat := 0x0408010 + 0x40 * i
abbrev DEC_STRM_CONCEALED_COUNT (i : Nat) : RegField := ⟨DEC_STRM_CONCEALED i, 0, 32⟩
abbrev DEC_STRM_SUBST (i : Nat) : Nat := 0x0408014 + 0x40 * i
abbrev DEC_STRM_SUBST_COUNT (i : Nat) : RegField := ⟨DEC_STRM_SUBST i, 0, 32⟩
abbrev DEC_STRM_SYNTAX (i : Nat) : Nat := 0x0408018 + 0x40 * i
abbrev DEC_STRM_SYNTAX_COUNT (i : Nat) : RegField := ⟨DEC_STRM_SYNTAX i, 0, 32⟩
abbrev DEC_STRM_STALE_REF (i : Nat) : Nat := 0x040801C + 0x40 * i
abbrev DEC_STRM_STALE_REF_COUNT (i : Nat) : RegField := ⟨DEC_STRM_STALE_REF i, 0, 32⟩
abbrev SHP_ID (i : Nat) : Nat := 0x0500000 + 0x10000 * i
abbrev SHP_ID_BLOCK (i : Nat) : RegField := ⟨SHP_ID i, 16, 16⟩
abbrev SHP_ID_MAJOR (i : Nat) : RegField := ⟨SHP_ID i, 8, 8⟩
abbrev SHP_ID_MINOR (i : Nat) : RegField := ⟨SHP_ID i, 0, 8⟩
abbrev SHP_CTRL (i : Nat) : Nat := 0x0500004 + 0x10000 * i
abbrev SHP_CTRL_TEST_STANDIN (i : Nat) : RegField := ⟨SHP_CTRL i, 1, 1⟩
abbrev SHP_CTRL_FLUSH (i : Nat) : RegField := ⟨SHP_CTRL i, 0, 1⟩
abbrev SHP_STATUS (i : Nat) : Nat := 0x0500008 + 0x10000 * i
abbrev SHP_STATUS_OPEN (i : Nat) : RegField := ⟨SHP_STATUS i, 28, 4⟩
abbrev SHP_STATUS_STATE (i : Nat) : RegField := ⟨SHP_STATUS i, 0, 3⟩
abbrev SHP_ERR (i : Nat) : Nat := 0x050000C + 0x10000 * i
abbrev SHP_ERR_VALID (i : Nat) : RegField := ⟨SHP_ERR i, 31, 1⟩
abbrev SHP_ERR_OVERFLOW (i : Nat) : RegField := ⟨SHP_ERR i, 30, 1⟩
abbrev SHP_ERR_STREAM (i : Nat) : RegField := ⟨SHP_ERR i, 16, 8⟩
abbrev SHP_ERR_CODE (i : Nat) : RegField := ⟨SHP_ERR i, 0, 16⟩
abbrev SHP_SAMPLES_LO (i : Nat) : Nat := 0x0500010 + 0x10000 * i
abbrev SHP_SAMPLES_LO_COUNT_LO (i : Nat) : RegField := ⟨SHP_SAMPLES_LO i, 0, 32⟩
abbrev SHP_SAMPLES_HI (i : Nat) : Nat := 0x0500014 + 0x10000 * i
abbrev SHP_SAMPLES_HI_COUNT_HI (i : Nat) : RegField := ⟨SHP_SAMPLES_HI i, 0, 32⟩
abbrev SHP_BATCHES (i : Nat) : Nat := 0x0500018 + 0x10000 * i
abbrev SHP_BATCHES_COUNT (i : Nat) : RegField := ⟨SHP_BATCHES i, 0, 32⟩
abbrev SHP_SHORT (i : Nat) : Nat := 0x050001C + 0x10000 * i
abbrev SHP_SHORT_COUNT (i : Nat) : RegField := ⟨SHP_SHORT i, 0, 32⟩
abbrev SHP_STANDIN_LAST (i : Nat) : Nat := 0x0500020 + 0x10000 * i
abbrev SHP_STANDIN_LAST_COUNT (i : Nat) : RegField := ⟨SHP_STANDIN_LAST i, 0, 32⟩
abbrev SHP_STANDIN_FILL (i : Nat) : Nat := 0x0500024 + 0x10000 * i
abbrev SHP_STANDIN_FILL_COUNT (i : Nat) : RegField := ⟨SHP_STANDIN_FILL i, 0, 32⟩
abbrev SHP_UTIL (i : Nat) : Nat := 0x0500028 + 0x10000 * i
abbrev SHP_UTIL_UTIL (i : Nat) : RegField := ⟨SHP_UTIL i, 0, 10⟩
abbrev SHP_STALLS (i : Nat) : Nat := 0x050002C + 0x10000 * i
abbrev SHP_STALLS_COUNT (i : Nat) : RegField := ⟨SHP_STALLS i, 0, 32⟩
abbrev NET_ID : Nat := 0x0600000
abbrev NET_ID_BLOCK : RegField := ⟨NET_ID, 16, 16⟩
abbrev NET_ID_MAJOR : RegField := ⟨NET_ID, 8, 8⟩
abbrev NET_ID_MINOR : RegField := ⟨NET_ID, 0, 8⟩
abbrev NET_ERR : Nat := 0x060000C
abbrev NET_ERR_VALID : RegField := ⟨NET_ERR, 31, 1⟩
abbrev NET_ERR_OVERFLOW : RegField := ⟨NET_ERR, 30, 1⟩
abbrev NET_ERR_WHERE : RegField := ⟨NET_ERR, 16, 6⟩
abbrev NET_ERR_CODE : RegField := ⟨NET_ERR, 0, 16⟩
abbrev NET_PORT_CFG (i : Nat) : Nat := 0x0600100 + 0x40 * i
abbrev NET_PORT_CFG_ENABLE (i : Nat) : RegField := ⟨NET_PORT_CFG i, 31, 1⟩
abbrev NET_PORT_CFG_FORCE_SW (i : Nat) : RegField := ⟨NET_PORT_CFG i, 30, 1⟩
abbrev NET_PORT_CFG_PTP_EN (i : Nat) : RegField := ⟨NET_PORT_CFG i, 29, 1⟩
abbrev NET_PORT_CFG_IGMP_EN (i : Nat) : RegField := ⟨NET_PORT_CFG i, 28, 1⟩
abbrev NET_PORT_CFG_VLAN_ID (i : Nat) : RegField := ⟨NET_PORT_CFG i, 16, 12⟩
abbrev NET_PORT_CFG_PTP_DSCP (i : Nat) : RegField := ⟨NET_PORT_CFG i, 8, 6⟩
abbrev NET_PORT_CFG_MODES (i : Nat) : RegField := ⟨NET_PORT_CFG i, 0, 3⟩
abbrev NET_PORT_STATUS (i : Nat) : Nat := 0x0600104 + 0x40 * i
abbrev NET_PORT_STATUS_LINK_UP (i : Nat) : RegField := ⟨NET_PORT_STATUS i, 31, 1⟩
abbrev NET_PORT_STATUS_TS_HW (i : Nat) : RegField := ⟨NET_PORT_STATUS i, 30, 1⟩
abbrev NET_PORT_STATUS_MODE (i : Nat) : RegField := ⟨NET_PORT_STATUS i, 28, 2⟩
abbrev NET_PORT_STATUS_LANES_OK (i : Nat) : RegField := ⟨NET_PORT_STATUS i, 24, 4⟩
abbrev NET_PORT_MAC_LO (i : Nat) : Nat := 0x0600108 + 0x40 * i
abbrev NET_PORT_MAC_LO_MAC_LO (i : Nat) : RegField := ⟨NET_PORT_MAC_LO i, 0, 32⟩
abbrev NET_PORT_MAC_HI (i : Nat) : Nat := 0x060010C + 0x40 * i
abbrev NET_PORT_MAC_HI_MAC_HI (i : Nat) : RegField := ⟨NET_PORT_MAC_HI i, 0, 16⟩
abbrev NET_PORT_IPV4 (i : Nat) : Nat := 0x0600110 + 0x40 * i
abbrev NET_PORT_IPV4_ADDR (i : Nat) : RegField := ⟨NET_PORT_IPV4 i, 0, 32⟩
abbrev NET_PORT_DISCARDS (i : Nat) : Nat := 0x0600114 + 0x40 * i
abbrev NET_PORT_DISCARDS_COUNT (i : Nat) : RegField := ⟨NET_PORT_DISCARDS i, 0, 32⟩
abbrev NET_PORT_TS_LAT (i : Nat) : Nat := 0x0600118 + 0x40 * i
abbrev NET_PORT_TS_LAT_LAT (i : Nat) : RegField := ⟨NET_PORT_TS_LAT i, 0, 16⟩
abbrev NET_FLOW_CFG (i : Nat) : Nat := 0x0601000 + 0x40 * i
abbrev NET_FLOW_CFG_ENABLE (i : Nat) : RegField := ⟨NET_FLOW_CFG i, 31, 1⟩
abbrev NET_FLOW_CFG_MERGE (i : Nat) : RegField := ⟨NET_FLOW_CFG i, 30, 1⟩
abbrev NET_FLOW_CFG_PORT_A (i : Nat) : RegField := ⟨NET_FLOW_CFG i, 29, 1⟩
abbrev NET_FLOW_CFG_PORT_B (i : Nat) : RegField := ⟨NET_FLOW_CFG i, 28, 1⟩
abbrev NET_FLOW_CFG_PAYLOAD (i : Nat) : RegField := ⟨NET_FLOW_CFG i, 26, 2⟩
abbrev NET_FLOW_CFG_PT_CHECK (i : Nat) : RegField := ⟨NET_FLOW_CFG i, 25, 1⟩
abbrev NET_FLOW_CFG_PT (i : Nat) : RegField := ⟨NET_FLOW_CFG i, 16, 7⟩
abbrev NET_FLOW_CFG_MERGE_WIN (i : Nat) : RegField := ⟨NET_FLOW_CFG i, 0, 16⟩
abbrev NET_FLOW_DST_A (i : Nat) : Nat := 0x0601004 + 0x40 * i
abbrev NET_FLOW_DST_A_ADDR (i : Nat) : RegField := ⟨NET_FLOW_DST_A i, 0, 32⟩
abbrev NET_FLOW_DST_B (i : Nat) : Nat := 0x0601008 + 0x40 * i
abbrev NET_FLOW_DST_B_ADDR (i : Nat) : RegField := ⟨NET_FLOW_DST_B i, 0, 32⟩
abbrev NET_FLOW_SRC_A (i : Nat) : Nat := 0x060100C + 0x40 * i
abbrev NET_FLOW_SRC_A_ADDR (i : Nat) : RegField := ⟨NET_FLOW_SRC_A i, 0, 32⟩
abbrev NET_FLOW_SRC_B (i : Nat) : Nat := 0x0601010 + 0x40 * i
abbrev NET_FLOW_SRC_B_ADDR (i : Nat) : RegField := ⟨NET_FLOW_SRC_B i, 0, 32⟩
abbrev NET_FLOW_UDP (i : Nat) : Nat := 0x0601014 + 0x40 * i
abbrev NET_FLOW_UDP_UDP_B (i : Nat) : RegField := ⟨NET_FLOW_UDP i, 16, 16⟩
abbrev NET_FLOW_UDP_UDP_A (i : Nat) : RegField := ⟨NET_FLOW_UDP i, 0, 16⟩
abbrev NET_FLOW_DIMS (i : Nat) : Nat := 0x0601018 + 0x40 * i
abbrev NET_FLOW_DIMS_WIDTH (i : Nat) : RegField := ⟨NET_FLOW_DIMS i, 16, 16⟩
abbrev NET_FLOW_DIMS_HEIGHT (i : Nat) : RegField := ⟨NET_FLOW_DIMS i, 0, 16⟩
abbrev NET_FLOW_TICKS (i : Nat) : Nat := 0x060101C + 0x40 * i
abbrev NET_FLOW_TICKS_FRAME_TICKS (i : Nat) : RegField := ⟨NET_FLOW_TICKS i, 0, 32⟩
abbrev NET_FLOW_SILENT (i : Nat) : Nat := 0x0601020 + 0x40 * i
abbrev NET_FLOW_SILENT_SILENT_MS (i : Nat) : RegField := ⟨NET_FLOW_SILENT i, 16, 16⟩
abbrev NET_FLOW_SILENT_PATH_LOSS_MS (i : Nat) : RegField := ⟨NET_FLOW_SILENT i, 0, 16⟩
abbrev NET_FLOW_STATUS (i : Nat) : Nat := 0x0601024 + 0x40 * i
abbrev NET_FLOW_STATUS_BOUND (i : Nat) : RegField := ⟨NET_FLOW_STATUS i, 31, 1⟩
abbrev NET_FLOW_STATUS_STREAM (i : Nat) : RegField := ⟨NET_FLOW_STATUS i, 24, 7⟩
abbrev NET_FLOW_STATUS_PATH_A_UP (i : Nat) : RegField := ⟨NET_FLOW_STATUS i, 23, 1⟩
abbrev NET_FLOW_STATUS_PATH_B_UP (i : Nat) : RegField := ⟨NET_FLOW_STATUS i, 22, 1⟩
abbrev NET_FLOW_STATUS_STATE (i : Nat) : RegField := ⟨NET_FLOW_STATUS i, 0, 3⟩
abbrev NET_FLOW_SKEW (i : Nat) : Nat := 0x0601028 + 0x40 * i
abbrev NET_FLOW_SKEW_SKEW (i : Nat) : RegField := ⟨NET_FLOW_SKEW i, 0, 32⟩
abbrev NET_FLOW_ERR (i : Nat) : Nat := 0x060102C + 0x40 * i
abbrev NET_FLOW_ERR_VALID (i : Nat) : RegField := ⟨NET_FLOW_ERR i, 31, 1⟩
abbrev NET_FLOW_ERR_CODE (i : Nat) : RegField := ⟨NET_FLOW_ERR i, 0, 16⟩
abbrev TIME_ID : Nat := 0x0700000
abbrev TIME_ID_BLOCK : RegField := ⟨TIME_ID, 16, 16⟩
abbrev TIME_ID_VERSION : RegField := ⟨TIME_ID, 0, 16⟩
abbrev TIME_CTRL : Nat := 0x0700004
abbrev TIME_CTRL_PTP_EN : RegField := ⟨TIME_CTRL, 31, 1⟩
abbrev TIME_CTRL_PORT_SEL : RegField := ⟨TIME_CTRL, 29, 2⟩
abbrev TIME_CTRL_SERVO_EN : RegField := ⟨TIME_CTRL, 28, 1⟩
abbrev TIME_CTRL_STEP : RegField := ⟨TIME_CTRL, 27, 1⟩
abbrev TIME_CTRL_DOMAIN : RegField := ⟨TIME_CTRL, 16, 8⟩
abbrev TIME_CTRL_STATUS_PERIOD : RegField := ⟨TIME_CTRL, 0, 16⟩
abbrev TIME_STATUS : Nat := 0x0700008
abbrev TIME_STATUS_VALID : RegField := ⟨TIME_STATUS, 31, 1⟩
abbrev TIME_STATUS_SERVO_STATE : RegField := ⟨TIME_STATUS, 16, 4⟩
abbrev TIME_STATUS_PTP_PORT : RegField := ⟨TIME_STATUS, 8, 1⟩
abbrev TIME_ERR : Nat := 0x070000C
abbrev TIME_ERR_VALID : RegField := ⟨TIME_ERR, 31, 1⟩
abbrev TIME_ERR_CODE : RegField := ⟨TIME_ERR, 0, 16⟩
abbrev TIME_CLK_SEC_LO : Nat := 0x0700010
abbrev TIME_CLK_SEC_LO_VALUE : RegField := ⟨TIME_CLK_SEC_LO, 0, 32⟩
abbrev TIME_CLK_SEC_HI : Nat := 0x0700014
abbrev TIME_CLK_SEC_HI_VALUE : RegField := ⟨TIME_CLK_SEC_HI, 0, 32⟩
abbrev TIME_CLK_NS : Nat := 0x0700018
abbrev TIME_CLK_NS_VALUE : RegField := ⟨TIME_CLK_NS, 0, 32⟩
abbrev TIME_CLK_FRAC : Nat := 0x070001C
abbrev TIME_CLK_FRAC_VALUE : RegField := ⟨TIME_CLK_FRAC, 0, 32⟩
abbrev TIME_SET_SEC_LO : Nat := 0x0700020
abbrev TIME_SET_SEC_LO_VALUE : RegField := ⟨TIME_SET_SEC_LO, 0, 32⟩
abbrev TIME_SET_SEC_HI : Nat := 0x0700024
abbrev TIME_SET_SEC_HI_VALUE : RegField := ⟨TIME_SET_SEC_HI, 0, 32⟩
abbrev TIME_SET_NS : Nat := 0x0700028
abbrev TIME_SET_NS_VALUE : RegField := ⟨TIME_SET_NS, 0, 32⟩
abbrev TIME_RATE : Nat := 0x070002C
abbrev TIME_RATE_RATE : RegField := ⟨TIME_RATE, 0, 32⟩
abbrev TIME_SERVO_KP : Nat := 0x0700030
abbrev TIME_SERVO_KP_KP : RegField := ⟨TIME_SERVO_KP, 0, 16⟩
abbrev TIME_SERVO_KI : Nat := 0x0700034
abbrev TIME_SERVO_KI_KI : RegField := ⟨TIME_SERVO_KI, 0, 16⟩
abbrev TIME_SERVO_THR : Nat := 0x0700038
abbrev TIME_SERVO_THR_LOCK_THR : RegField := ⟨TIME_SERVO_THR, 16, 16⟩
abbrev TIME_SERVO_THR_STEP_THR : RegField := ⟨TIME_SERVO_THR, 0, 16⟩
abbrev TIME_SERVO_HOLD : Nat := 0x070003C
abbrev TIME_SERVO_HOLD_HOLDOVER_MS : RegField := ⟨TIME_SERVO_HOLD, 16, 16⟩
abbrev TIME_SERVO_HOLD_LOCK_COUNT : RegField := ⟨TIME_SERVO_HOLD, 0, 8⟩
abbrev TIME_OFFSET : Nat := 0x0700040
abbrev TIME_OFFSET_OFFSET : RegField := ⟨TIME_OFFSET, 0, 32⟩
abbrev TIME_PATH_DELAY : Nat := 0x0700044
abbrev TIME_PATH_DELAY_DELAY : RegField := ⟨TIME_PATH_DELAY, 0, 32⟩
abbrev TIME_MONO_LO : Nat := 0x0700048
abbrev TIME_MONO_LO_VALUE : RegField := ⟨TIME_MONO_LO, 0, 32⟩
abbrev TIME_MONO_HI : Nat := 0x070004C
abbrev TIME_MONO_HI_VALUE : RegField := ⟨TIME_MONO_HI, 0, 32⟩
abbrev TIME_TPO_CFG (i : Nat) : Nat := 0x0700100 + 0x20 * i
abbrev TIME_TPO_CFG_ARM (i : Nat) : RegField := ⟨TIME_TPO_CFG i, 31, 1⟩
abbrev TIME_TPO_CFG_MODE (i : Nat) : RegField := ⟨TIME_TPO_CFG i, 29, 2⟩
abbrev TIME_TPO_CFG_POLARITY (i : Nat) : RegField := ⟨TIME_TPO_CFG i, 28, 1⟩
abbrev TIME_TPO_CFG_GATE_LOCK (i : Nat) : RegField := ⟨TIME_TPO_CFG i, 27, 1⟩
abbrev TIME_TPO_CFG_LATE (i : Nat) : RegField := ⟨TIME_TPO_CFG i, 1, 1⟩
abbrev TIME_TPO_CFG_MISSED (i : Nat) : RegField := ⟨TIME_TPO_CFG i, 0, 1⟩
abbrev TIME_TPO_SEC_LO (i : Nat) : Nat := 0x0700104 + 0x20 * i
abbrev TIME_TPO_SEC_LO_START (i : Nat) : RegField := ⟨TIME_TPO_SEC_LO i, 0, 32⟩
abbrev TIME_TPO_SEC_HI (i : Nat) : Nat := 0x0700108 + 0x20 * i
abbrev TIME_TPO_SEC_HI_START (i : Nat) : RegField := ⟨TIME_TPO_SEC_HI i, 0, 32⟩
abbrev TIME_TPO_NS (i : Nat) : Nat := 0x070010C + 0x20 * i
abbrev TIME_TPO_NS_START (i : Nat) : RegField := ⟨TIME_TPO_NS i, 0, 32⟩
abbrev TIME_TPO_PERIOD (i : Nat) : Nat := 0x0700110 + 0x20 * i
abbrev TIME_TPO_PERIOD_PERIOD (i : Nat) : RegField := ⟨TIME_TPO_PERIOD i, 0, 32⟩
abbrev TIME_TPO_WIDTH (i : Nat) : Nat := 0x0700114 + 0x20 * i
abbrev TIME_TPO_WIDTH_WIDTH (i : Nat) : RegField := ⟨TIME_TPO_WIDTH i, 0, 32⟩
abbrev TIME_TPI_CFG (i : Nat) : Nat := 0x0700200 + 0x20 * i
abbrev TIME_TPI_CFG_ENABLE (i : Nat) : RegField := ⟨TIME_TPI_CFG i, 31, 1⟩
abbrev TIME_TPI_CFG_EDGE (i : Nat) : RegField := ⟨TIME_TPI_CFG i, 29, 2⟩
abbrev TIME_TPI_CFG_FILT (i : Nat) : RegField := ⟨TIME_TPI_CFG i, 0, 4⟩
abbrev TIME_TPI_SEC_LO (i : Nat) : Nat := 0x0700204 + 0x20 * i
abbrev TIME_TPI_SEC_LO_STAMP (i : Nat) : RegField := ⟨TIME_TPI_SEC_LO i, 0, 32⟩
abbrev TIME_TPI_SEC_HI (i : Nat) : Nat := 0x0700208 + 0x20 * i
abbrev TIME_TPI_SEC_HI_STAMP (i : Nat) : RegField := ⟨TIME_TPI_SEC_HI i, 0, 32⟩
abbrev TIME_TPI_NS (i : Nat) : Nat := 0x070020C + 0x20 * i
abbrev TIME_TPI_NS_STAMP (i : Nat) : RegField := ⟨TIME_TPI_NS i, 0, 32⟩
abbrev TIME_TPI_COUNT (i : Nat) : Nat := 0x0700210 + 0x20 * i
abbrev TIME_TPI_COUNT_COUNT (i : Nat) : RegField := ⟨TIME_TPI_COUNT i, 0, 32⟩
abbrev TIME_TPI_OVERRUN (i : Nat) : Nat := 0x0700214 + 0x20 * i
abbrev TIME_TPI_OVERRUN_COUNT (i : Nat) : RegField := ⟨TIME_TPI_OVERRUN i, 0, 32⟩
abbrev SCHED_ID : Nat := 0x0800000
abbrev SCHED_ID_BLOCK : RegField := ⟨SCHED_ID, 16, 16⟩
abbrev SCHED_ID_MAJOR : RegField := ⟨SCHED_ID, 8, 8⟩
abbrev SCHED_ID_MINOR : RegField := ⟨SCHED_ID, 0, 8⟩
abbrev SCHED_CTRL : Nat := 0x0800004
abbrev SCHED_CTRL_SAVE_ALL : RegField := ⟨SCHED_CTRL, 31, 1⟩
abbrev SCHED_CTRL_RESUME_ALL : RegField := ⟨SCHED_CTRL, 30, 1⟩
abbrev SCHED_STATUS : Nat := 0x0800008
abbrev SCHED_STATUS_SAVED_ALL : RegField := ⟨SCHED_STATUS, 31, 1⟩
abbrev SCHED_STATUS_FREE_CORES : RegField := ⟨SCHED_STATUS, 16, 7⟩
abbrev SCHED_STATUS_SAVED : RegField := ⟨SCHED_STATUS, 0, 16⟩
abbrev SCHED_ERR : Nat := 0x080000C
abbrev SCHED_ERR_VALID : RegField := ⟨SCHED_ERR, 31, 1⟩
abbrev SCHED_ERR_OVERFLOW : RegField := ⟨SCHED_ERR, 30, 1⟩
abbrev SCHED_ERR_WHERE : RegField := ⟨SCHED_ERR, 16, 7⟩
abbrev SCHED_ERR_CODE : RegField := ⟨SCHED_ERR, 0, 16⟩
abbrev SCHED_ARB : Nat := 0x0800010
abbrev SCHED_ARB_WINDOW : RegField := ⟨SCHED_ARB, 0, 5⟩
abbrev SCHED_STARVE : Nat := 0x0800014
abbrev SCHED_STARVE_STARVE_MS : RegField := ⟨SCHED_STARVE, 0, 16⟩
abbrev SCHED_TICKET : Nat := 0x0800018
abbrev SCHED_TICKET_TICKET : RegField := ⟨SCHED_TICKET, 0, 32⟩
abbrev SCHED_CLS_COMMIT : Nat := 0x080001C
abbrev SCHED_CLS_COMMIT_FAILED : RegField := ⟨SCHED_CLS_COMMIT, 1, 1⟩
abbrev SCHED_CLS_COMMIT_COMMIT : RegField := ⟨SCHED_CLS_COMMIT, 0, 1⟩
abbrev SCHED_CLS_CFG (i : Nat) : Nat := 0x0800100 + 0x20 * i
abbrev SCHED_CLS_CFG_ENABLE (i : Nat) : RegField := ⟨SCHED_CLS_CFG i, 31, 1⟩
abbrev SCHED_CLS_CFG_STATE (i : Nat) : RegField := ⟨SCHED_CLS_CFG i, 24, 3⟩
abbrev SCHED_CLS_CFG_SHARE (i : Nat) : RegField := ⟨SCHED_CLS_CFG i, 0, 5⟩
abbrev SCHED_CLS_WAYS (i : Nat) : Nat := 0x0800104 + 0x20 * i
abbrev SCHED_CLS_WAYS_WAYS (i : Nat) : RegField := ⟨SCHED_CLS_WAYS i, 0, 16⟩
abbrev SCHED_CLS_PCH_LO (i : Nat) : Nat := 0x0800108 + 0x20 * i
abbrev SCHED_CLS_PCH_LO_PCH_LO (i : Nat) : RegField := ⟨SCHED_CLS_PCH_LO i, 0, 32⟩
abbrev SCHED_CLS_PCH_HI (i : Nat) : Nat := 0x080010C + 0x20 * i
abbrev SCHED_CLS_PCH_HI_PCH_HI (i : Nat) : RegField := ⟨SCHED_CLS_PCH_HI i, 0, 32⟩
abbrev SCHED_CLS_CORES (i : Nat) : Nat := 0x0800110 + 0x20 * i
abbrev SCHED_CLS_CORES_HELD (i : Nat) : RegField := ⟨SCHED_CLS_CORES i, 16, 7⟩
abbrev SCHED_CLS_CORES_ENTITLED (i : Nat) : RegField := ⟨SCHED_CLS_CORES i, 0, 7⟩
abbrev SCHED_CLS_READY (i : Nat) : Nat := 0x0800114 + 0x20 * i
abbrev SCHED_CLS_READY_READY (i : Nat) : RegField := ⟨SCHED_CLS_READY i, 0, 17⟩
abbrev SCHED_CLS_PREEMPTS (i : Nat) : Nat := 0x0800118 + 0x20 * i
abbrev SCHED_CLS_PREEMPTS_COUNT (i : Nat) : RegField := ⟨SCHED_CLS_PREEMPTS i, 0, 32⟩
abbrev SCHED_CLS_MAXWAIT (i : Nat) : Nat := 0x080011C + 0x20 * i
abbrev SCHED_CLS_MAXWAIT_CLEAR (i : Nat) : RegField := ⟨SCHED_CLS_MAXWAIT i, 31, 1⟩
abbrev SCHED_CLS_MAXWAIT_US (i : Nat) : RegField := ⟨SCHED_CLS_MAXWAIT i, 0, 31⟩
abbrev SCHED_CLU_CFG (i : Nat) : Nat := 0x0800200 + 0x10 * i
abbrev SCHED_CLU_CFG_PLACE_WIN (i : Nat) : RegField := ⟨SCHED_CLU_CFG i, 0, 4⟩
abbrev SCHED_CLU_STATUS (i : Nat) : Nat := 0x0800204 + 0x10 * i
abbrev SCHED_CLU_STATUS_FREE (i : Nat) : RegField := ⟨SCHED_CLU_STATUS i, 8, 8⟩
abbrev SCHED_CLU_STATUS_IN_SERVICE (i : Nat) : RegField := ⟨SCHED_CLU_STATUS i, 0, 8⟩
abbrev CORE_ID (i : Nat) : Nat := 0x1000000 + 0x10000 * i
abbrev CORE_ID_BLOCK (i : Nat) : RegField := ⟨CORE_ID i, 16, 16⟩
abbrev CORE_ID_MAJOR (i : Nat) : RegField := ⟨CORE_ID i, 8, 8⟩
abbrev CORE_ID_MINOR (i : Nat) : RegField := ⟨CORE_ID i, 0, 8⟩
abbrev CORE_LOC (i : Nat) : Nat := 0x1000004 + 0x10000 * i
abbrev CORE_LOC_CLUSTER (i : Nat) : RegField := ⟨CORE_LOC i, 8, 3⟩
abbrev CORE_LOC_CORE (i : Nat) : RegField := ⟨CORE_LOC i, 0, 6⟩
abbrev CORE_LRW_CTRL (i : Nat) : Nat := 0x1000008 + 0x10000 * i
abbrev CORE_LRW_CTRL_OFFLINE (i : Nat) : RegField := ⟨CORE_LRW_CTRL i, 31, 1⟩
abbrev CORE_LRW_CTRL_CK_INJECT (i : Nat) : RegField := ⟨CORE_LRW_CTRL i, 30, 1⟩
abbrev CORE_LRW_CTRL_INJECT_LANE (i : Nat) : RegField := ⟨CORE_LRW_CTRL i, 8, 8⟩
abbrev CORE_LRW_STATUS (i : Nat) : Nat := 0x100000C + 0x10000 * i
abbrev CORE_LRW_STATUS_LONG_HELD (i : Nat) : RegField := ⟨CORE_LRW_STATUS i, 16, 6⟩
abbrev CORE_LRW_STATUS_ACC_FREE (i : Nat) : RegField := ⟨CORE_LRW_STATUS i, 8, 6⟩
abbrev CORE_LRW_STATUS_STATE (i : Nat) : RegField := ⟨CORE_LRW_STATUS i, 0, 3⟩
abbrev CORE_LRW_ERR (i : Nat) : Nat := 0x1000010 + 0x10000 * i
abbrev CORE_LRW_ERR_VALID (i : Nat) : RegField := ⟨CORE_LRW_ERR i, 31, 1⟩
abbrev CORE_LRW_ERR_OVERFLOW (i : Nat) : RegField := ⟨CORE_LRW_ERR i, 30, 1⟩
abbrev CORE_LRW_ERR_CODE (i : Nat) : RegField := ⟨CORE_LRW_ERR i, 0, 16⟩
abbrev CORE_LRW_STICKY (i : Nat) : Nat := 0x1000014 + 0x10000 * i
abbrev CORE_LRW_STICKY_CK_EXCLUDED (i : Nat) : RegField := ⟨CORE_LRW_STICKY i, 2, 1⟩
abbrev CORE_LRW_STICKY_CK_RETRY (i : Nat) : RegField := ⟨CORE_LRW_STICKY i, 1, 1⟩
abbrev CORE_LRW_STICKY_ACC_SPLIT (i : Nat) : RegField := ⟨CORE_LRW_STICKY i, 0, 1⟩
abbrev CORE_LRW_CK_CFG (i : Nat) : Nat := 0x1000018 + 0x10000 * i
abbrev CORE_LRW_CK_CFG_CK_EN (i : Nat) : RegField := ⟨CORE_LRW_CK_CFG i, 31, 1⟩
abbrev CORE_LRW_CK_CFG_CK_TOL_EXP (i : Nat) : RegField := ⟨CORE_LRW_CK_CFG i, 0, 5⟩
abbrev CORE_LRW_STOP (i : Nat) : Nat := 0x100001C + 0x10000 * i
abbrev CORE_LRW_STOP_STOP_FIN (i : Nat) : RegField := ⟨CORE_LRW_STOP i, 0, 16⟩
abbrev CORE_LRW_CK_LOC (i : Nat) : Nat := 0x1000020 + 0x10000 * i
abbrev CORE_LRW_CK_LOC_LOC_OK (i : Nat) : RegField := ⟨CORE_LRW_CK_LOC i, 31, 1⟩
abbrev CORE_LRW_CK_LOC_ROW (i : Nat) : RegField := ⟨CORE_LRW_CK_LOC i, 16, 9⟩
abbrev CORE_LRW_CK_LOC_LANE (i : Nat) : RegField := ⟨CORE_LRW_CK_LOC i, 0, 8⟩
abbrev CORE_LRW_CK_FAILS (i : Nat) : Nat := 0x1000024 + 0x10000 * i
abbrev CORE_LRW_CK_FAILS_COUNT (i : Nat) : RegField := ⟨CORE_LRW_CK_FAILS i, 0, 32⟩
abbrev CORE_LRW_STREAM_LO (i : Nat) : Nat := 0x1000028 + 0x10000 * i
abbrev CORE_LRW_STREAM_LO_COUNT_LO (i : Nat) : RegField := ⟨CORE_LRW_STREAM_LO i, 0, 32⟩
abbrev CORE_LRW_STREAM_HI (i : Nat) : Nat := 0x100002C + 0x10000 * i
abbrev CORE_LRW_STREAM_HI_COUNT_HI (i : Nat) : RegField := ⟨CORE_LRW_STREAM_HI i, 0, 32⟩
abbrev CORE_LRW_LANEOPS_LO (i : Nat) : Nat := 0x1000030 + 0x10000 * i
abbrev CORE_LRW_LANEOPS_LO_COUNT_LO (i : Nat) : RegField := ⟨CORE_LRW_LANEOPS_LO i, 0, 32⟩
abbrev CORE_LRW_LANEOPS_HI (i : Nat) : Nat := 0x1000034 + 0x10000 * i
abbrev CORE_LRW_LANEOPS_HI_COUNT_HI (i : Nat) : RegField := ⟨CORE_LRW_LANEOPS_HI i, 0, 32⟩
abbrev CORE_LRW_TILES (i : Nat) : Nat := 0x1000038 + 0x10000 * i
abbrev CORE_LRW_TILES_COUNT (i : Nat) : RegField := ⟨CORE_LRW_TILES i, 0, 32⟩
abbrev CORE_LRW_DISCARDS (i : Nat) : Nat := 0x100003C + 0x10000 * i
abbrev CORE_LRW_DISCARDS_COUNT (i : Nat) : RegField := ⟨CORE_LRW_DISCARDS i, 0, 32⟩
abbrev CORE_LRW_SPLITS (i : Nat) : Nat := 0x1000040 + 0x10000 * i
abbrev CORE_LRW_SPLITS_COUNT (i : Nat) : RegField := ⟨CORE_LRW_SPLITS i, 0, 32⟩
abbrev CORE_MRV_STATUS (i : Nat) : Nat := 0x1000100 + 0x10000 * i
abbrev CORE_MRV_STATUS_TBL_GEN (i : Nat) : RegField := ⟨CORE_MRV_STATUS i, 24, 8⟩
abbrev CORE_MRV_STATUS_OLD_USERS (i : Nat) : RegField := ⟨CORE_MRV_STATUS i, 16, 8⟩
abbrev CORE_MRV_STATUS_SHADOW_PENDING (i : Nat) : RegField := ⟨CORE_MRV_STATUS i, 1, 1⟩
abbrev CORE_MRV_STATUS_ACTIVE_BANK (i : Nat) : RegField := ⟨CORE_MRV_STATUS i, 0, 1⟩
abbrev CORE_MRV_ERR (i : Nat) : Nat := 0x1000104 + 0x10000 * i
abbrev CORE_MRV_ERR_VALID (i : Nat) : RegField := ⟨CORE_MRV_ERR i, 31, 1⟩
abbrev CORE_MRV_ERR_OVERFLOW (i : Nat) : RegField := ⟨CORE_MRV_ERR i, 30, 1⟩
abbrev CORE_MRV_ERR_CODE (i : Nat) : RegField := ⟨CORE_MRV_ERR i, 0, 16⟩
abbrev CORE_MRV_STICKY (i : Nat) : Nat := 0x1000108 + 0x10000 * i
abbrev CORE_MRV_STICKY_ROW_NAN (i : Nat) : RegField := ⟨CORE_MRV_STICKY i, 2, 1⟩
abbrev CORE_MRV_STICKY_SM_FLOOR (i : Nat) : RegField := ⟨CORE_MRV_STICKY i, 1, 1⟩
abbrev CORE_MRV_STICKY_ROW_ALL_MASKED (i : Nat) : RegField := ⟨CORE_MRV_STICKY i, 0, 1⟩
abbrev CORE_MRV_BUSY_LO (i : Nat) : Nat := 0x100010C + 0x10000 * i
abbrev CORE_MRV_BUSY_LO_COUNT_LO (i : Nat) : RegField := ⟨CORE_MRV_BUSY_LO i, 0, 32⟩
abbrev CORE_MRV_BUSY_HI (i : Nat) : Nat := 0x1000110 + 0x10000 * i
abbrev CORE_MRV_BUSY_HI_COUNT_HI (i : Nat) : RegField := ⟨CORE_MRV_BUSY_HI i, 0, 32⟩
abbrev CORE_MRV_DRAIN_WAIT (i : Nat) : Nat := 0x1000114 + 0x10000 * i
abbrev CORE_MRV_DRAIN_WAIT_COUNT (i : Nat) : RegField := ⟨CORE_MRV_DRAIN_WAIT i, 0, 32⟩
abbrev CORE_MRV_PROBE_CFG (i : Nat) : Nat := 0x1000118 + 0x10000 * i
abbrev CORE_MRV_PROBE_CFG_GO (i : Nat) : RegField := ⟨CORE_MRV_PROBE_CFG i, 31, 1⟩
abbrev CORE_MRV_PROBE_CFG_DONE (i : Nat) : RegField := ⟨CORE_MRV_PROBE_CFG i, 30, 1⟩
abbrev CORE_MRV_PROBE_CFG_SHADOW (i : Nat) : RegField := ⟨CORE_MRV_PROBE_CFG i, 16, 1⟩
abbrev CORE_MRV_PROBE_CFG_SLOT (i : Nat) : RegField := ⟨CORE_MRV_PROBE_CFG i, 12, 4⟩
abbrev CORE_MRV_PROBE_CFG_SEG (i : Nat) : RegField := ⟨CORE_MRV_PROBE_CFG i, 0, 8⟩
abbrev CORE_MRV_PROBE_X (i : Nat) : Nat := 0x100011C + 0x10000 * i
abbrev CORE_MRV_PROBE_X_X (i : Nat) : RegField := ⟨CORE_MRV_PROBE_X i, 0, 32⟩
abbrev CORE_MRV_PROBE_Y (i : Nat) : Nat := 0x1000120 + 0x10000 * i
abbrev CORE_MRV_PROBE_Y_Y (i : Nat) : RegField := ⟨CORE_MRV_PROBE_Y i, 0, 32⟩
abbrev CORE_MRV_PROBE_C0 (i : Nat) : Nat := 0x1000124 + 0x10000 * i
abbrev CORE_MRV_PROBE_C0_C0 (i : Nat) : RegField := ⟨CORE_MRV_PROBE_C0 i, 0, 32⟩
abbrev CORE_MRV_PROBE_C1 (i : Nat) : Nat := 0x1000128 + 0x10000 * i
abbrev CORE_MRV_PROBE_C1_C1 (i : Nat) : RegField := ⟨CORE_MRV_PROBE_C1 i, 0, 32⟩
abbrev CORE_MRV_PROBE_C2 (i : Nat) : Nat := 0x100012C + 0x10000 * i
abbrev CORE_MRV_PROBE_C2_C2 (i : Nat) : RegField := ⟨CORE_MRV_PROBE_C2 i, 0, 32⟩
abbrev CORE_SCHED_STATUS (i : Nat) : Nat := 0x1000200 + 0x10000 * i
abbrev CORE_SCHED_STATUS_SB_USED (i : Nat) : RegField := ⟨CORE_SCHED_STATUS i, 16, 11⟩
abbrev CORE_SCHED_STATUS_CLASS (i : Nat) : RegField := ⟨CORE_SCHED_STATUS i, 6, 2⟩
abbrev CORE_SCHED_STATUS_HOLD (i : Nat) : RegField := ⟨CORE_SCHED_STATUS i, 5, 1⟩
abbrev CORE_SCHED_REMOTE (i : Nat) : Nat := 0x1000204 + 0x10000 * i
abbrev CORE_SCHED_REMOTE_TAGS (i : Nat) : RegField := ⟨CORE_SCHED_REMOTE i, 0, 7⟩
abbrev CORE_SCHED_SAVES (i : Nat) : Nat := 0x1000208 + 0x10000 * i
abbrev CORE_SCHED_SAVES_COUNT (i : Nat) : RegField := ⟨CORE_SCHED_SAVES i, 0, 32⟩
abbrev CORE_SCHED_SAVE_MAX (i : Nat) : Nat := 0x100020C + 0x10000 * i
abbrev CORE_SCHED_SAVE_MAX_CYCLES (i : Nat) : RegField := ⟨CORE_SCHED_SAVE_MAX i, 0, 32⟩
abbrev CORE_SCHED_RESTORES (i : Nat) : Nat := 0x1000210 + 0x10000 * i
abbrev CORE_SCHED_RESTORES_COUNT (i : Nat) : RegField := ⟨CORE_SCHED_RESTORES i, 0, 32⟩
abbrev CORE_SCALE_ENTRY (i j : Nat) : Nat := 0x1004000 + 0x10000 * i + 0x4 * j
abbrev CORE_SCALE_ENTRY_VALUE (i j : Nat) : RegField := ⟨CORE_SCALE_ENTRY i j, 0, 32⟩
abbrev SGS_ID (i : Nat) : Nat := 0x1800000 + 0x10000 * i
abbrev SGS_ID_BLOCK (i : Nat) : RegField := ⟨SGS_ID i, 16, 16⟩
abbrev SGS_ID_MAJOR (i : Nat) : RegField := ⟨SGS_ID i, 8, 8⟩
abbrev SGS_ID_MINOR (i : Nat) : RegField := ⟨SGS_ID i, 0, 8⟩
abbrev SGS_CTRL (i : Nat) : Nat := 0x1800004 + 0x10000 * i
abbrev SGS_CTRL_OFFLINE (i : Nat) : RegField := ⟨SGS_CTRL i, 0, 1⟩
abbrev SGS_STATUS (i : Nat) : Nat := 0x1800008 + 0x10000 * i
abbrev SGS_STATUS_NSTREAMS (i : Nat) : RegField := ⟨SGS_STATUS i, 24, 8⟩
abbrev SGS_STATUS_OVERCOMMIT (i : Nat) : RegField := ⟨SGS_STATUS i, 3, 1⟩
abbrev SGS_STATUS_STATE (i : Nat) : RegField := ⟨SGS_STATUS i, 0, 3⟩
abbrev SGS_ERR (i : Nat) : Nat := 0x180000C + 0x10000 * i
abbrev SGS_ERR_VALID (i : Nat) : RegField := ⟨SGS_ERR i, 31, 1⟩
abbrev SGS_ERR_OVERFLOW (i : Nat) : RegField := ⟨SGS_ERR i, 30, 1⟩
abbrev SGS_ERR_STREAM (i : Nat) : RegField := ⟨SGS_ERR i, 16, 8⟩
abbrev SGS_ERR_CODE (i : Nat) : RegField := ⟨SGS_ERR i, 0, 16⟩
abbrev SGS_TRK_ROWS (i : Nat) : Nat := 0x1800010 + 0x10000 * i
abbrev SGS_TRK_ROWS_RESERVED (i : Nat) : RegField := ⟨SGS_TRK_ROWS i, 16, 16⟩
abbrev SGS_TRK_ROWS_LIVE (i : Nat) : RegField := ⟨SGS_TRK_ROWS i, 0, 16⟩
abbrev SGS_OPS_LO (i : Nat) : Nat := 0x1800014 + 0x10000 * i
abbrev SGS_OPS_LO_COUNT_LO (i : Nat) : RegField := ⟨SGS_OPS_LO i, 0, 32⟩
abbrev SGS_OPS_HI (i : Nat) : Nat := 0x1800018 + 0x10000 * i
abbrev SGS_OPS_HI_COUNT_HI (i : Nat) : RegField := ⟨SGS_OPS_HI i, 0, 32⟩
abbrev SGS_UTIL (i : Nat) : Nat := 0x180001C + 0x10000 * i
abbrev SGS_UTIL_LIST (i : Nat) : RegField := ⟨SGS_UTIL i, 24, 8⟩
abbrev SGS_UTIL_ASSIGN (i : Nat) : RegField := ⟨SGS_UTIL i, 16, 8⟩
abbrev SGS_UTIL_TRACK (i : Nat) : RegField := ⟨SGS_UTIL i, 8, 8⟩
abbrev SGS_UTIL_GRAPH (i : Nat) : RegField := ⟨SGS_UTIL i, 0, 8⟩
abbrev SGS_KNN_TILES (i : Nat) : Nat := 0x1800020 + 0x10000 * i
abbrev SGS_KNN_TILES_COUNT (i : Nat) : RegField := ⟨SGS_KNN_TILES i, 0, 32⟩
abbrev SGS_ASSIGN_CAPPED (i : Nat) : Nat := 0x1800024 + 0x10000 * i
abbrev SGS_ASSIGN_CAPPED_COUNT (i : Nat) : RegField := ⟨SGS_ASSIGN_CAPPED i, 0, 32⟩
abbrev SGS_STRM_STATE (i : Nat) : Nat := 0x1808000 + 0x40 * i
abbrev SGS_STRM_STATE_STATION (i : Nat) : RegField := ⟨SGS_STRM_STATE i, 30, 2⟩
abbrev SGS_STRM_STATE_TRACK_CAP (i : Nat) : RegField := ⟨SGS_STRM_STATE i, 8, 12⟩
abbrev SGS_STRM_STATE_STATE (i : Nat) : RegField := ⟨SGS_STRM_STATE i, 0, 3⟩
abbrev SGS_STRM_TRACKS (i : Nat) : Nat := 0x1808004 + 0x40 * i
abbrev SGS_STRM_TRACKS_CONFIRMED (i : Nat) : RegField := ⟨SGS_STRM_TRACKS i, 16, 16⟩
abbrev SGS_STRM_TRACKS_LIVE (i : Nat) : RegField := ⟨SGS_STRM_TRACKS i, 0, 16⟩
abbrev SGS_STRM_NEXT_ID (i : Nat) : Nat := 0x1808008 + 0x40 * i
abbrev SGS_STRM_NEXT_ID_NEXT (i : Nat) : RegField := ⟨SGS_STRM_NEXT_ID i, 0, 32⟩
abbrev SGS_STRM_GAL (i : Nat) : Nat := 0x180800C + 0x40 * i
abbrev SGS_STRM_GAL_USED (i : Nat) : RegField := ⟨SGS_STRM_GAL i, 0, 13⟩
abbrev SGS_STRM_NEXT_IDENT (i : Nat) : Nat := 0x1808010 + 0x40 * i
abbrev SGS_STRM_NEXT_IDENT_NEXT (i : Nat) : RegField := ⟨SGS_STRM_NEXT_IDENT i, 0, 32⟩
abbrev SGS_STRM_ERR (i : Nat) : Nat := 0x1808014 + 0x40 * i
abbrev SGS_STRM_ERR_VALID (i : Nat) : RegField := ⟨SGS_STRM_ERR i, 31, 1⟩
abbrev SGS_STRM_ERR_CODE (i : Nat) : RegField := ⟨SGS_STRM_ERR i, 0, 16⟩
abbrev POOL_ID : Nat := 0x1900000
abbrev POOL_ID_BLOCK : RegField := ⟨POOL_ID, 16, 16⟩
abbrev POOL_ID_MAJOR : RegField := ⟨POOL_ID, 8, 8⟩
abbrev POOL_ID_MINOR : RegField := ⟨POOL_ID, 0, 8⟩
abbrev POOL_ERR : Nat := 0x190000C
abbrev POOL_ERR_VALID : RegField := ⟨POOL_ERR, 31, 1⟩
abbrev POOL_ERR_OVERFLOW : RegField := ⟨POOL_ERR, 30, 1⟩
abbrev POOL_ERR_WHERE : RegField := ⟨POOL_ERR, 16, 6⟩
abbrev POOL_ERR_CODE : RegField := ⟨POOL_ERR, 0, 16⟩
abbrev POOL_CLS_CFG (i : Nat) : Nat := 0x1900100 + 0x40 * i
abbrev POOL_CLS_CFG_ENABLE (i : Nat) : RegField := ⟨POOL_CLS_CFG i, 31, 1⟩
abbrev POOL_CLS_CFG_MODE (i : Nat) : RegField := ⟨POOL_CLS_CFG i, 30, 1⟩
abbrev POOL_CLS_BASE_LO (i : Nat) : Nat := 0x1900104 + 0x40 * i
abbrev POOL_CLS_BASE_LO_BASE_LO (i : Nat) : RegField := ⟨POOL_CLS_BASE_LO i, 12, 20⟩
abbrev POOL_CLS_BASE_HI (i : Nat) : Nat := 0x1900108 + 0x40 * i
abbrev POOL_CLS_BASE_HI_BASE_HI (i : Nat) : RegField := ⟨POOL_CLS_BASE_HI i, 0, 32⟩
abbrev POOL_CLS_COUNT (i : Nat) : Nat := 0x190010C + 0x40 * i
abbrev POOL_CLS_COUNT_COUNT (i : Nat) : RegField := ⟨POOL_CLS_COUNT i, 0, 21⟩
abbrev POOL_CLS_THRESH (i : Nat) : Nat := 0x1900110 + 0x40 * i
abbrev POOL_CLS_THRESH_LOW_WATER (i : Nat) : RegField := ⟨POOL_CLS_THRESH i, 16, 16⟩
abbrev POOL_CLS_THRESH_BACKPRESSURE (i : Nat) : RegField := ⟨POOL_CLS_THRESH i, 0, 16⟩
abbrev POOL_CLS_FREE (i : Nat) : Nat := 0x1900114 + 0x40 * i
abbrev POOL_CLS_FREE_FREE (i : Nat) : RegField := ⟨POOL_CLS_FREE i, 0, 32⟩
abbrev POOL_CLS_HEADROOM (i : Nat) : Nat := 0x1900118 + 0x40 * i
abbrev POOL_CLS_HEADROOM_H (i : Nat) : RegField := ⟨POOL_CLS_HEADROOM i, 0, 32⟩
abbrev POOL_CLS_STATUS (i : Nat) : Nat := 0x190011C + 0x40 * i
abbrev POOL_CLS_STATUS_CACHED (i : Nat) : RegField := ⟨POOL_CLS_STATUS i, 16, 10⟩
abbrev POOL_CLS_STATUS_BP (i : Nat) : RegField := ⟨POOL_CLS_STATUS i, 9, 1⟩
abbrev POOL_CLS_STATUS_LOW (i : Nat) : RegField := ⟨POOL_CLS_STATUS i, 8, 1⟩
abbrev POOL_CLS_STATUS_STATE (i : Nat) : RegField := ⟨POOL_CLS_STATUS i, 0, 3⟩
abbrev POOL_CLS_WAITERS (i : Nat) : Nat := 0x1900120 + 0x40 * i
abbrev POOL_CLS_WAITERS_COUNT (i : Nat) : RegField := ⟨POOL_CLS_WAITERS i, 0, 32⟩
abbrev POOL_CLS_WITHDRAWN (i : Nat) : Nat := 0x1900124 + 0x40 * i
abbrev POOL_CLS_WITHDRAWN_COUNT (i : Nat) : RegField := ⟨POOL_CLS_WITHDRAWN i, 0, 32⟩
abbrev POOL_CLS_HEAD_LO (i : Nat) : Nat := 0x1900128 + 0x40 * i
abbrev POOL_CLS_HEAD_LO_HEAD_LO (i : Nat) : RegField := ⟨POOL_CLS_HEAD_LO i, 0, 32⟩
abbrev POOL_CLS_HEAD_HI (i : Nat) : Nat := 0x190012C + 0x40 * i
abbrev POOL_CLS_HEAD_HI_HEAD_HI (i : Nat) : RegField := ⟨POOL_CLS_HEAD_HI i, 0, 32⟩
abbrev POOL_OWN_CFG (i : Nat) : Nat := 0x1901000 + 0x80 * i
abbrev POOL_OWN_CFG_EXEMPT (i : Nat) : RegField := ⟨POOL_OWN_CFG i, 31, 1⟩
abbrev POOL_OWN_RES (i j : Nat) : Nat := 0x1901020 + 0x80 * i + 0x4 * j
abbrev POOL_OWN_RES_RES (i j : Nat) : RegField := ⟨POOL_OWN_RES i j, 0, 21⟩
abbrev POOL_OWN_HELD (i j : Nat) : Nat := 0x1901040 + 0x80 * i + 0x4 * j
abbrev POOL_OWN_HELD_HELD (i j : Nat) : RegField := ⟨POOL_OWN_HELD i j, 0, 21⟩
abbrev POOL_OWN_COMMIT (i j : Nat) : Nat := 0x1901060 + 0x80 * i + 0x4 * j
abbrev POOL_OWN_COMMIT_COMMITTED (i j : Nat) : RegField := ⟨POOL_OWN_COMMIT i j, 0, 21⟩
abbrev MEM_ID : Nat := 0x1A00000
abbrev MEM_ID_BLOCK : RegField := ⟨MEM_ID, 16, 16⟩
abbrev MEM_ID_MAJOR : RegField := ⟨MEM_ID, 8, 8⟩
abbrev MEM_ID_MINOR : RegField := ⟨MEM_ID, 0, 8⟩
abbrev MEM_ERR : Nat := 0x1A0000C
abbrev MEM_ERR_VALID : RegField := ⟨MEM_ERR, 31, 1⟩
abbrev MEM_ERR_OVERFLOW : RegField := ⟨MEM_ERR, 30, 1⟩
abbrev MEM_ERR_CODE : RegField := ⟨MEM_ERR, 0, 16⟩
abbrev MEM_SECURE_STATUS : Nat := 0x1A00010
abbrev MEM_SECURE_STATUS_WIPING : RegField := ⟨MEM_SECURE_STATUS, 31, 1⟩
abbrev MEM_SECURE_STATUS_LAST_CAUSE : RegField := ⟨MEM_SECURE_STATUS, 16, 2⟩
abbrev MEM_SECURE_STATUS_WIPES : RegField := ⟨MEM_SECURE_STATUS, 0, 16⟩
abbrev MEM_ECC_CORR : Nat := 0x1A00014
abbrev MEM_ECC_CORR_COUNT : RegField := ⟨MEM_ECC_CORR, 0, 32⟩
abbrev MEM_ECC_UNCORR : Nat := 0x1A00018
abbrev MEM_ECC_UNCORR_COUNT : RegField := ⟨MEM_ECC_UNCORR, 0, 32⟩
abbrev MEM_WW_CONFLICTS : Nat := 0x1A0001C
abbrev MEM_WW_CONFLICTS_COUNT : RegField := ⟨MEM_WW_CONFLICTS, 0, 32⟩
abbrev MEM_SB_PINNED (i : Nat) : Nat := 0x1A00100 + 0x10 * i
abbrev MEM_SB_PINNED_PINNED (i : Nat) : RegField := ⟨MEM_SB_PINNED i, 0, 32⟩
abbrev MEM_SB_STATUS (i : Nat) : Nat := 0x1A00104 + 0x10 * i
abbrev MEM_SB_STATUS_MOVING (i : Nat) : RegField := ⟨MEM_SB_STATUS i, 0, 16⟩
abbrev MEM_SB_WAIT (i : Nat) : Nat := 0x1A00108 + 0x10 * i
abbrev MEM_SB_WAIT_COUNT (i : Nat) : RegField := ⟨MEM_SB_WAIT i, 0, 32⟩
abbrev HBM_ID : Nat := 0x1B00000
abbrev HBM_ID_BLOCK : RegField := ⟨HBM_ID, 16, 16⟩
abbrev HBM_ID_MAJOR : RegField := ⟨HBM_ID, 8, 8⟩
abbrev HBM_ID_MINOR : RegField := ⟨HBM_ID, 0, 8⟩
abbrev HBM_CTRL : Nat := 0x1B00004
abbrev HBM_CTRL_SCRUB_EN : RegField := ⟨HBM_CTRL, 31, 1⟩
abbrev HBM_CTRL_MIG_GBPS : RegField := ⟨HBM_CTRL, 0, 9⟩
abbrev HBM_STATUS : Nat := 0x1B00008
abbrev HBM_STATUS_RETIRED : RegField := ⟨HBM_STATUS, 30, 2⟩
abbrev HBM_STATUS_SPARE_AVAIL : RegField := ⟨HBM_STATUS, 29, 1⟩
abbrev HBM_STATUS_MIGRATING : RegField := ⟨HBM_STATUS, 28, 1⟩
abbrev HBM_STATUS_USABLE_GIB : RegField := ⟨HBM_STATUS, 16, 6⟩
abbrev HBM_ERR : Nat := 0x1B0000C
abbrev HBM_ERR_VALID : RegField := ⟨HBM_ERR, 31, 1⟩
abbrev HBM_ERR_OVERFLOW : RegField := ⟨HBM_ERR, 30, 1⟩
abbrev HBM_ERR_WHERE : RegField := ⟨HBM_ERR, 16, 6⟩
abbrev HBM_ERR_CODE : RegField := ⟨HBM_ERR, 0, 16⟩
abbrev HBM_CE_CFG : Nat := 0x1B00010
abbrev HBM_CE_CFG_CE_THR : RegField := ⟨HBM_CE_CFG, 16, 16⟩
abbrev HBM_CE_CFG_CE_WINDOW : RegField := ⟨HBM_CE_CFG, 0, 16⟩
abbrev HBM_MIG_LEFT : Nat := 0x1B00014
abbrev HBM_MIG_LEFT_MIB : RegField := ⟨HBM_MIG_LEFT, 0, 32⟩
abbrev HBM_POISONED : Nat := 0x1B00018
abbrev HBM_POISONED_COUNT : RegField := ⟨HBM_POISONED, 0, 32⟩
abbrev HBM_STK_TEMP (i : Nat) : Nat := 0x1B00100 + 0x40 * i
abbrev HBM_STK_TEMP_DOUBLE (i : Nat) : RegField := ⟨HBM_STK_TEMP i, 31, 1⟩
abbrev HBM_STK_TEMP_HOT (i : Nat) : RegField := ⟨HBM_STK_TEMP i, 30, 1⟩
abbrev HBM_STK_TEMP_TEMP_C (i : Nat) : RegField := ⟨HBM_STK_TEMP i, 0, 8⟩
abbrev HBM_STK_TRAIN (i : Nat) : Nat := 0x1B00104 + 0x40 * i
abbrev HBM_STK_TRAIN_TRAIN_OK (i : Nat) : RegField := ⟨HBM_STK_TRAIN i, 31, 1⟩
abbrev HBM_STK_TRAIN_RETRAIN_FAIL (i : Nat) : RegField := ⟨HBM_STK_TRAIN i, 8, 8⟩
abbrev HBM_STK_TRAIN_RETRAINS (i : Nat) : RegField := ⟨HBM_STK_TRAIN i, 0, 8⟩
abbrev HBM_STK_REF (i : Nat) : Nat := 0x1B00108 + 0x40 * i
abbrev HBM_STK_REF_REF_INT_NS (i : Nat) : RegField := ⟨HBM_STK_REF i, 0, 16⟩
abbrev HBM_RNK_STATE (i : Nat) : Nat := 0x1B00200 + 0x20 * i
abbrev HBM_RNK_STATE_CAUSE (i : Nat) : RegField := ⟨HBM_RNK_STATE i, 12, 4⟩
abbrev HBM_RNK_STATE_TARGET (i : Nat) : RegField := ⟨HBM_RNK_STATE i, 8, 3⟩
abbrev HBM_RNK_STATE_STATE (i : Nat) : RegField := ⟨HBM_RNK_STATE i, 0, 3⟩
abbrev HBM_RNK_CE (i : Nat) : Nat := 0x1B00204 + 0x20 * i
abbrev HBM_RNK_CE_COUNT (i : Nat) : RegField := ⟨HBM_RNK_CE i, 0, 32⟩
abbrev HBM_RNK_CE_TOTAL (i : Nat) : Nat := 0x1B00208 + 0x20 * i
abbrev HBM_RNK_CE_TOTAL_COUNT (i : Nat) : RegField := ⟨HBM_RNK_CE_TOTAL i, 0, 32⟩
abbrev HBM_RNK_UE (i : Nat) : Nat := 0x1B0020C + 0x20 * i
abbrev HBM_RNK_UE_COUNT (i : Nat) : RegField := ⟨HBM_RNK_UE i, 0, 32⟩
abbrev HBM_RNK_CTRL (i : Nat) : Nat := 0x1B00210 + 0x20 * i
abbrev HBM_RNK_CTRL_RETIRE (i : Nat) : RegField := ⟨HBM_RNK_CTRL i, 0, 1⟩
abbrev HBM_PORT_CFG (i : Nat) : Nat := 0x1B00400 + 0x10 * i
abbrev HBM_PORT_CFG_TARGET_NS (i : Nat) : RegField := ⟨HBM_PORT_CFG i, 0, 16⟩
abbrev HBM_PORT_MAXLAT (i : Nat) : Nat := 0x1B00404 + 0x10 * i
abbrev HBM_PORT_MAXLAT_CLEAR (i : Nat) : RegField := ⟨HBM_PORT_MAXLAT i, 31, 1⟩
abbrev HBM_PORT_MAXLAT_NS (i : Nat) : RegField := ⟨HBM_PORT_MAXLAT i, 0, 31⟩
abbrev HBM_PORT_URG3 (i : Nat) : Nat := 0x1B00408 + 0x10 * i
abbrev HBM_PORT_URG3_COUNT (i : Nat) : RegField := ⟨HBM_PORT_URG3 i, 0, 32⟩
abbrev LNK_ID : Nat := 0x1C00000
abbrev LNK_ID_BLOCK : RegField := ⟨LNK_ID, 16, 16⟩
abbrev LNK_ID_MAJOR : RegField := ⟨LNK_ID, 8, 8⟩
abbrev LNK_ID_MINOR : RegField := ⟨LNK_ID, 0, 8⟩
abbrev LNK_TOPO : Nat := 0x1C00004
abbrev LNK_TOPO_KIND : RegField := ⟨LNK_TOPO, 30, 2⟩
abbrev LNK_TOPO_NDEV_M1 : RegField := ⟨LNK_TOPO, 27, 3⟩
abbrev LNK_TOPO_MY_DEV : RegField := ⟨LNK_TOPO, 24, 3⟩
abbrev LNK_STATUS : Nat := 0x1C00008
abbrev LNK_STATUS_REACH : RegField := ⟨LNK_STATUS, 24, 8⟩
abbrev LNK_STATUS_STATE : RegField := ⟨LNK_STATUS, 0, 2⟩
abbrev LNK_ERR : Nat := 0x1C0000C
abbrev LNK_ERR_VALID : RegField := ⟨LNK_ERR, 31, 1⟩
abbrev LNK_ERR_OVERFLOW : RegField := ⟨LNK_ERR, 30, 1⟩
abbrev LNK_ERR_WHERE : RegField := ⟨LNK_ERR, 16, 3⟩
abbrev LNK_ERR_CODE : RegField := ⟨LNK_ERR, 0, 16⟩
abbrev LNK_TIMERS : Nat := 0x1C00010
abbrev LNK_TIMERS_ACK_US : RegField := ⟨LNK_TIMERS, 16, 16⟩
abbrev LNK_TIMERS_REJOIN_MS : RegField := ⟨LNK_TIMERS, 0, 16⟩
abbrev LNK_ORPHAN_MS : Nat := 0x1C00014
abbrev LNK_ORPHAN_MS_ORPHAN_MS : RegField := ⟨LNK_ORPHAN_MS, 0, 16⟩
abbrev LNK_PORT_CFG (i : Nat) : Nat := 0x1C00100 + 0x40 * i
abbrev LNK_PORT_CFG_ENABLE (i : Nat) : RegField := ⟨LNK_PORT_CFG i, 31, 1⟩
abbrev LNK_PORT_CFG_MIN_WIDTH (i : Nat) : RegField := ⟨LNK_PORT_CFG i, 0, 2⟩
abbrev LNK_PORT_STATUS (i : Nat) : Nat := 0x1C00104 + 0x40 * i
abbrev LNK_PORT_STATUS_LANES_OK (i : Nat) : RegField := ⟨LNK_PORT_STATUS i, 24, 8⟩
abbrev LNK_PORT_STATUS_PEER_DEV (i : Nat) : RegField := ⟨LNK_PORT_STATUS i, 21, 3⟩
abbrev LNK_PORT_STATUS_PEER_PORT (i : Nat) : RegField := ⟨LNK_PORT_STATUS i, 19, 2⟩
abbrev LNK_PORT_STATUS_WIDTH (i : Nat) : RegField := ⟨LNK_PORT_STATUS i, 12, 4⟩
abbrev LNK_PORT_STATUS_STATE (i : Nat) : RegField := ⟨LNK_PORT_STATUS i, 0, 3⟩
abbrev LNK_PORT_CREDITS (i : Nat) : Nat := 0x1C00108 + 0x40 * i
abbrev LNK_PORT_CREDITS_CTRL (i : Nat) : RegField := ⟨LNK_PORT_CREDITS i, 24, 8⟩
abbrev LNK_PORT_CREDITS_TILE (i : Nat) : RegField := ⟨LNK_PORT_CREDITS i, 12, 12⟩
abbrev LNK_PORT_CREDITS_COLL (i : Nat) : RegField := ⟨LNK_PORT_CREDITS i, 0, 12⟩
abbrev LNK_PORT_FWD (i : Nat) : Nat := 0x1C0010C + 0x40 * i
abbrev LNK_PORT_FWD_SET1 (i : Nat) : RegField := ⟨LNK_PORT_FWD i, 16, 16⟩
abbrev LNK_PORT_FWD_SET0 (i : Nat) : RegField := ⟨LNK_PORT_FWD i, 0, 16⟩
abbrev LNK_PORT_TX_LO (i : Nat) : Nat := 0x1C00110 + 0x40 * i
abbrev LNK_PORT_TX_LO_BYTES_LO (i : Nat) : RegField := ⟨LNK_PORT_TX_LO i, 0, 32⟩
abbrev LNK_PORT_TX_HI (i : Nat) : Nat := 0x1C00114 + 0x40 * i
abbrev LNK_PORT_TX_HI_BYTES_HI (i : Nat) : RegField := ⟨LNK_PORT_TX_HI i, 0, 32⟩
abbrev LNK_PORT_REPLAYS (i : Nat) : Nat := 0x1C00118 + 0x40 * i
abbrev LNK_PORT_REPLAYS_COUNT (i : Nat) : RegField := ⟨LNK_PORT_REPLAYS i, 0, 32⟩
abbrev LNK_PORT_DOWNS (i : Nat) : Nat := 0x1C0011C + 0x40 * i
abbrev LNK_PORT_DOWNS_COUNT (i : Nat) : RegField := ⟨LNK_PORT_DOWNS i, 0, 32⟩
abbrev PWR_ID : Nat := 0x1D00000
abbrev PWR_ID_BLOCK : RegField := ⟨PWR_ID, 16, 16⟩
abbrev PWR_ID_MAJOR : RegField := ⟨PWR_ID, 8, 8⟩
abbrev PWR_ID_MINOR : RegField := ⟨PWR_ID, 0, 8⟩
abbrev PWR_CTRL : Nat := 0x1D00004
abbrev PWR_CTRL_FURL_EN : RegField := ⟨PWR_CTRL, 31, 1⟩
abbrev PWR_CTRL_FURL_IDLE_US : RegField := ⟨PWR_CTRL, 0, 16⟩
abbrev PWR_STATUS : Nat := 0x1D00008
abbrev PWR_STATUS_READY : RegField := ⟨PWR_STATUS, 31, 1⟩
abbrev PWR_STATUS_LAST_RESET : RegField := ⟨PWR_STATUS, 20, 4⟩
abbrev PWR_STATUS_TJ_C : RegField := ⟨PWR_STATUS, 8, 8⟩
abbrev PWR_STATUS_STATE : RegField := ⟨PWR_STATUS, 0, 3⟩
abbrev PWR_EVENT : Nat := 0x1D0000C
abbrev PWR_EVENT_RAIL_FAULT : RegField := ⟨PWR_EVENT, 4, 1⟩
abbrev PWR_EVENT_AVS_FAULT : RegField := ⟨PWR_EVENT, 3, 1⟩
abbrev PWR_EVENT_HBM_THROTTLE : RegField := ⟨PWR_EVENT, 2, 1⟩
abbrev PWR_EVENT_CAP_THROTTLE : RegField := ⟨PWR_EVENT, 1, 1⟩
abbrev PWR_EVENT_TJ_THROTTLE : RegField := ⟨PWR_EVENT, 0, 1⟩
abbrev PWR_CAP : Nat := 0x1D00010
abbrev PWR_CAP_TJ_MAX_C : RegField := ⟨PWR_CAP, 16, 10⟩
abbrev PWR_CAP_CAP_W : RegField := ⟨PWR_CAP, 0, 10⟩
abbrev PWR_POWER : Nat := 0x1D00014
abbrev PWR_POWER_POWER_W : RegField := ⟨PWR_POWER, 0, 10⟩
abbrev PWR_THROTTLE : Nat := 0x1D00018
abbrev PWR_THROTTLE_DUTY : RegField := ⟨PWR_THROTTLE, 0, 11⟩
abbrev PWR_CLK_ON : Nat := 0x1D0001C
abbrev PWR_CLK_ON_ETH : RegField := ⟨PWR_CLK_ON, 19, 1⟩
abbrev PWR_CLK_ON_LNK : RegField := ⟨PWR_CLK_ON, 18, 1⟩
abbrev PWR_CLK_ON_HPHY : RegField := ⟨PWR_CLK_ON, 17, 1⟩
abbrev PWR_CLK_ON_FAB : RegField := ⟨PWR_CLK_ON, 16, 1⟩
abbrev PWR_CLK_ON_DEC : RegField := ⟨PWR_CLK_ON, 8, 8⟩
abbrev PWR_CLK_ON_CL : RegField := ⟨PWR_CLK_ON, 0, 8⟩
abbrev PWR_CLK_IDLE : Nat := 0x1D00020
abbrev PWR_CLK_IDLE_GATE_US : RegField := ⟨PWR_CLK_IDLE, 0, 16⟩
abbrev PWR_WAKES : Nat := 0x1D00024
abbrev PWR_WAKES_COUNT : RegField := ⟨PWR_WAKES, 0, 32⟩
abbrev PWR_RESET : Nat := 0x1D00028
abbrev PWR_RESET_KEY : RegField := ⟨PWR_RESET, 24, 8⟩
abbrev PWR_RESET_WARM : RegField := ⟨PWR_RESET, 1, 1⟩
abbrev PWR_RESET_FW : RegField := ⟨PWR_RESET, 0, 1⟩
abbrev PWR_RAIL (i : Nat) : Nat := 0x1D00040 + 0x4 * i
abbrev PWR_RAIL_CURRENT (i : Nat) : RegField := ⟨PWR_RAIL i, 16, 16⟩
abbrev PWR_RAIL_MV (i : Nat) : RegField := ⟨PWR_RAIL i, 0, 10⟩
abbrev HLTH_ID : Nat := 0x1E00000
abbrev HLTH_ID_BLOCK : RegField := ⟨HLTH_ID, 16, 16⟩
abbrev HLTH_ID_MAJOR : RegField := ⟨HLTH_ID, 8, 8⟩
abbrev HLTH_ID_MINOR : RegField := ⟨HLTH_ID, 0, 8⟩
abbrev HLTH_CTRL : Nat := 0x1E00004
abbrev HLTH_CTRL_CLEAR_ALL : RegField := ⟨HLTH_CTRL, 31, 1⟩
abbrev HLTH_CTRL_PLAN_NOW : RegField := ⟨HLTH_CTRL, 30, 1⟩
abbrev HLTH_STATUS : Nat := 0x1E00008
abbrev HLTH_STATUS_PLAN : RegField := ⟨HLTH_STATUS, 30, 2⟩
abbrev HLTH_STATUS_FENCED_CORES : RegField := ⟨HLTH_STATUS, 23, 7⟩
abbrev HLTH_STATUS_WEAR : RegField := ⟨HLTH_STATUS, 0, 10⟩
abbrev HLTH_ERR : Nat := 0x1E0000C
abbrev HLTH_ERR_VALID : RegField := ⟨HLTH_ERR, 31, 1⟩
abbrev HLTH_ERR_OVERFLOW : RegField := ⟨HLTH_ERR, 30, 1⟩
abbrev HLTH_ERR_CODE : RegField := ⟨HLTH_ERR, 0, 16⟩
abbrev HLTH_FENCE_CORE_LO : Nat := 0x1E00010
abbrev HLTH_FENCE_CORE_LO_CORES : RegField := ⟨HLTH_FENCE_CORE_LO, 0, 32⟩
abbrev HLTH_FENCE_CORE_HI : Nat := 0x1E00014
abbrev HLTH_FENCE_CORE_HI_CORES : RegField := ⟨HLTH_FENCE_CORE_HI, 0, 32⟩
abbrev HLTH_FENCE_UNIT : Nat := 0x1E00018
abbrev HLTH_FENCE_UNIT_SGS : RegField := ⟨HLTH_FENCE_UNIT, 8, 4⟩
abbrev HLTH_FENCE_UNIT_DEC : RegField := ⟨HLTH_FENCE_UNIT, 0, 8⟩
abbrev HLTH_UNFENCE : Nat := 0x1E0001C
abbrev HLTH_UNFENCE_KIND : RegField := ⟨HLTH_UNFENCE, 8, 2⟩
abbrev HLTH_UNFENCE_UNIT : RegField := ⟨HLTH_UNFENCE, 0, 6⟩
abbrev HLTH_HANG : Nat := 0x1E00020
abbrev HLTH_HANG_FENCE_WARN : RegField := ⟨HLTH_HANG, 16, 16⟩
abbrev HLTH_HANG_HANG_US : RegField := ⟨HLTH_HANG, 0, 16⟩
abbrev HLTH_PLAN_CFG : Nat := 0x1E00024
abbrev HLTH_PLAN_CFG_INTERVAL_H : RegField := ⟨HLTH_PLAN_CFG, 16, 16⟩
abbrev HLTH_PLAN_CFG_DEFER_H : RegField := ⟨HLTH_PLAN_CFG, 0, 16⟩
abbrev HLTH_PLAN_LAST_LO : Nat := 0x1E00028
abbrev HLTH_PLAN_LAST_LO_MONO_LO : RegField := ⟨HLTH_PLAN_LAST_LO, 0, 32⟩
abbrev HLTH_PLAN_LAST_HI : Nat := 0x1E0002C
abbrev HLTH_PLAN_LAST_HI_MONO_HI : RegField := ⟨HLTH_PLAN_LAST_HI, 0, 32⟩
abbrev HLTH_REC_SUMMARY : Nat := 0x1E00030
abbrev HLTH_REC_SUMMARY_CLASSES : RegField := ⟨HLTH_REC_SUMMARY, 1, 15⟩
abbrev HLTH_REC_USED : Nat := 0x1E00034
abbrev HLTH_REC_USED_USED : RegField := ⟨HLTH_REC_USED, 0, 8⟩
abbrev HLTH_REC_LOST : Nat := 0x1E00038
abbrev HLTH_REC_LOST_COUNT : RegField := ⟨HLTH_REC_LOST, 0, 32⟩
abbrev HLTH_GRP_BASE (i : Nat) : Nat := 0x1E00100 + 0x10 * i
abbrev HLTH_GRP_BASE_V_BASE_MV (i : Nat) : RegField := ⟨HLTH_GRP_BASE i, 0, 10⟩
abbrev HLTH_GRP_DEG (i : Nat) : Nat := 0x1E00104 + 0x10 * i
abbrev HLTH_GRP_DEG_PPM (i : Nat) : RegField := ⟨HLTH_GRP_DEG i, 0, 32⟩
abbrev HLTH_GRP_SET (i : Nat) : Nat := 0x1E00108 + 0x10 * i
abbrev HLTH_GRP_SET_EXHAUSTED (i : Nat) : RegField := ⟨HLTH_GRP_SET i, 31, 1⟩
abbrev HLTH_GRP_SET_BIN (i : Nat) : RegField := ⟨HLTH_GRP_SET i, 16, 3⟩
abbrev HLTH_GRP_SET_SET_MV (i : Nat) : RegField := ⟨HLTH_GRP_SET i, 0, 10⟩
abbrev HLTH_GRP_WEAR (i : Nat) : Nat := 0x1E0010C + 0x10 * i
abbrev HLTH_GRP_WEAR_WEAR (i : Nat) : RegField := ⟨HLTH_GRP_WEAR i, 0, 10⟩
abbrev HLTH_AGE_MON (i : Nat) : Nat := 0x1E00400 + 0x4 * i
abbrev HLTH_AGE_MON_VALID (i : Nat) : RegField := ⟨HLTH_AGE_MON i, 31, 1⟩
abbrev HLTH_AGE_MON_PPM (i : Nat) : RegField := ⟨HLTH_AGE_MON i, 0, 31⟩
abbrev SNAP_ID : Nat := 0x1F00000
abbrev SNAP_ID_BLOCK : RegField := ⟨SNAP_ID, 16, 16⟩
abbrev SNAP_ID_MAJOR : RegField := ⟨SNAP_ID, 8, 8⟩
abbrev SNAP_ID_MINOR : RegField := ⟨SNAP_ID, 0, 8⟩
abbrev SNAP_CTRL : Nat := 0x1F00004
abbrev SNAP_CTRL_ARM : RegField := ⟨SNAP_CTRL, 31, 1⟩
abbrev SNAP_CTRL_HOIST : RegField := ⟨SNAP_CTRL, 30, 1⟩
abbrev SNAP_CTRL_SRC_PIN : RegField := ⟨SNAP_CTRL, 2, 1⟩
abbrev SNAP_CTRL_SRC_ERR : RegField := ⟨SNAP_CTRL, 1, 1⟩
abbrev SNAP_CTRL_SRC_TIME : RegField := ⟨SNAP_CTRL, 0, 1⟩
abbrev SNAP_STATUS : Nat := 0x1F00008
abbrev SNAP_STATUS_HELD : RegField := ⟨SNAP_STATUS, 31, 1⟩
abbrev SNAP_STATUS_SOURCE : RegField := ⟨SNAP_STATUS, 0, 4⟩
abbrev SNAP_ERR : Nat := 0x1F0000C
abbrev SNAP_ERR_VALID : RegField := ⟨SNAP_ERR, 31, 1⟩
abbrev SNAP_ERR_CODE : RegField := ⟨SNAP_ERR, 0, 16⟩
abbrev SNAP_PIN_CFG : Nat := 0x1F00010
abbrev SNAP_PIN_CFG_EDGE : RegField := ⟨SNAP_PIN_CFG, 4, 2⟩
abbrev SNAP_PIN_CFG_FILT : RegField := ⟨SNAP_PIN_CFG, 0, 4⟩
abbrev SNAP_TIME_SEC_LO : Nat := 0x1F00014
abbrev SNAP_TIME_SEC_LO_VALUE : RegField := ⟨SNAP_TIME_SEC_LO, 0, 32⟩
abbrev SNAP_TIME_SEC_HI : Nat := 0x1F00018
abbrev SNAP_TIME_SEC_HI_VALUE : RegField := ⟨SNAP_TIME_SEC_HI, 0, 32⟩
abbrev SNAP_TIME_NS : Nat := 0x1F0001C
abbrev SNAP_TIME_NS_VALUE : RegField := ⟨SNAP_TIME_NS, 0, 32⟩
abbrev SNAP_TIME_CFG : Nat := 0x1F00020
abbrev SNAP_TIME_CFG_LATE : RegField := ⟨SNAP_TIME_CFG, 0, 1⟩
abbrev SNAP_ERR_SEL (i : Nat) : Nat := 0x1F00024 + 0x4 * i
abbrev SNAP_ERR_SEL_MASK (i : Nat) : RegField := ⟨SNAP_ERR_SEL i, 16, 16⟩
abbrev SNAP_ERR_SEL_CODE (i : Nat) : RegField := ⟨SNAP_ERR_SEL i, 0, 16⟩
abbrev SNAP_MISSED : Nat := 0x1F00034
abbrev SNAP_MISSED_COUNT : RegField := ⟨SNAP_MISSED, 0, 32⟩
abbrev SNAP_AT_SEC_LO : Nat := 0x1F00038
abbrev SNAP_AT_SEC_LO_VALUE : RegField := ⟨SNAP_AT_SEC_LO, 0, 32⟩
abbrev SNAP_AT_SEC_HI : Nat := 0x1F0003C
abbrev SNAP_AT_SEC_HI_VALUE : RegField := ⟨SNAP_AT_SEC_HI, 0, 32⟩
abbrev SNAP_AT_NS : Nat := 0x1F00040
abbrev SNAP_AT_NS_VALUE : RegField := ⟨SNAP_AT_NS, 0, 32⟩
abbrev SNAP_AT_FRAC : Nat := 0x1F00044
abbrev SNAP_AT_FRAC_VALUE : RegField := ⟨SNAP_AT_FRAC, 0, 32⟩
abbrev SNAP_AT_MONO_LO : Nat := 0x1F00048
abbrev SNAP_AT_MONO_LO_VALUE : RegField := ⟨SNAP_AT_MONO_LO, 0, 32⟩
abbrev SNAP_AT_MONO_HI : Nat := 0x1F0004C
abbrev SNAP_AT_MONO_HI_VALUE : RegField := ⟨SNAP_AT_MONO_HI, 0, 32⟩
abbrev SNAP_CAUSE : Nat := 0x1F00050
abbrev SNAP_CAUSE_ROUTE_NODE : RegField := ⟨SNAP_CAUSE, 16, 16⟩
abbrev SNAP_CAUSE_CODE : RegField := ⟨SNAP_CAUSE, 0, 16⟩
abbrev SNAP_VALID : Nat := 0x1F00054
abbrev SNAP_VALID_BLOCKS : RegField := ⟨SNAP_VALID, 0, 16⟩
abbrev SEC_ID : Nat := 0x2000000
abbrev SEC_ID_BLOCK : RegField := ⟨SEC_ID, 16, 16⟩
abbrev SEC_ID_MAJOR : RegField := ⟨SEC_ID, 8, 8⟩
abbrev SEC_ID_MINOR : RegField := ⟨SEC_ID, 0, 8⟩
abbrev SEC_CTRL : Nat := 0x2000004
abbrev SEC_CTRL_QUOTE_GO : RegField := ⟨SEC_CTRL, 31, 1⟩
abbrev SEC_CTRL_BURGEE_GO : RegField := ⟨SEC_CTRL, 30, 1⟩
abbrev SEC_CTRL_SVN_COMMIT : RegField := ⟨SEC_CTRL, 29, 1⟩
abbrev SEC_CTRL_RECOV_GO : RegField := ⟨SEC_CTRL, 28, 1⟩
abbrev SEC_CTRL_KEY : RegField := ⟨SEC_CTRL, 16, 8⟩
abbrev SEC_STATUS : Nat := 0x2000008
abbrev SEC_STATUS_LIFECYCLE : RegField := ⟨SEC_STATUS, 29, 3⟩
abbrev SEC_STATUS_KEY_READY : RegField := ⟨SEC_STATUS, 28, 1⟩
abbrev SEC_STATUS_ENDORSED : RegField := ⟨SEC_STATUS, 27, 1⟩
abbrev SEC_STATUS_DEBUG_OPEN : RegField := ⟨SEC_STATUS, 26, 1⟩
abbrev SEC_STATUS_QUOTE_DONE : RegField := ⟨SEC_STATUS, 25, 1⟩
abbrev SEC_STATUS_BURGEE_DONE : RegField := ⟨SEC_STATUS, 24, 1⟩
abbrev SEC_STATUS_SVN_FUSE : RegField := ⟨SEC_STATUS, 18, 6⟩
abbrev SEC_STATUS_SVN_RUN : RegField := ⟨SEC_STATUS, 12, 6⟩
abbrev SEC_STATUS_TAMPER_EVENTS : RegField := ⟨SEC_STATUS, 8, 4⟩
abbrev SEC_ERR : Nat := 0x200000C
abbrev SEC_ERR_VALID : RegField := ⟨SEC_ERR, 31, 1⟩
abbrev SEC_ERR_OVERFLOW : RegField := ⟨SEC_ERR, 30, 1⟩
abbrev SEC_ERR_CODE : RegField := ⟨SEC_ERR, 0, 16⟩
abbrev SEC_BOOT : Nat := 0x2000010
abbrev SEC_BOOT_IMAGE : RegField := ⟨SEC_BOOT, 28, 4⟩
abbrev SEC_BOOT_KEY_SLOT : RegField := ⟨SEC_BOOT, 26, 2⟩
abbrev SEC_BOOT_FAIL_CODE : RegField := ⟨SEC_BOOT, 0, 16⟩
abbrev SEC_KEYSLOTS : Nat := 0x2000014
abbrev SEC_KEYSLOTS_REVOKED : RegField := ⟨SEC_KEYSLOTS, 4, 4⟩
abbrev SEC_KEYSLOTS_PROGRAMMED : RegField := ⟨SEC_KEYSLOTS, 0, 4⟩
abbrev SEC_LC_CMD : Nat := 0x2000018
abbrev SEC_LC_CMD_KEY : RegField := ⟨SEC_LC_CMD, 24, 8⟩
abbrev SEC_LC_CMD_OP : RegField := ⟨SEC_LC_CMD, 16, 4⟩
abbrev SEC_LC_CMD_SLOT : RegField := ⟨SEC_LC_CMD, 0, 2⟩
abbrev SEC_LC_STATUS : Nat := 0x200001C
abbrev SEC_LC_STATUS_STATE : RegField := ⟨SEC_LC_STATUS, 16, 3⟩
abbrev SEC_LC_STATUS_RESULT : RegField := ⟨SEC_LC_STATUS, 0, 16⟩
abbrev SEC_TAMPER : Nat := 0x2000020
abbrev SEC_TAMPER_LATCHED : RegField := ⟨SEC_TAMPER, 31, 1⟩
abbrev SEC_TAMPER_RAIL : RegField := ⟨SEC_TAMPER, 8, 8⟩
abbrev SEC_TAMPER_SOURCES : RegField := ⟨SEC_TAMPER, 0, 5⟩
abbrev SEC_TAMPER_CLR : Nat := 0x2000024
abbrev SEC_TAMPER_CLR_KEY : RegField := ⟨SEC_TAMPER_CLR, 24, 8⟩
abbrev SEC_TAMPER_CLR_CLEAR : RegField := ⟨SEC_TAMPER_CLR, 0, 1⟩
abbrev SEC_TAMPER_EN : Nat := 0x2000028
abbrev SEC_TAMPER_EN_EN : RegField := ⟨SEC_TAMPER_EN, 0, 5⟩
abbrev SEC_RECOV_LO : Nat := 0x200002C
abbrev SEC_RECOV_LO_ADDR : RegField := ⟨SEC_RECOV_LO, 0, 32⟩
abbrev SEC_RECOV_HI : Nat := 0x2000030
abbrev SEC_RECOV_HI_ADDR : RegField := ⟨SEC_RECOV_HI, 0, 32⟩
abbrev SEC_RECOV_LEN : Nat := 0x2000034
abbrev SEC_RECOV_LEN_LENGTH : RegField := ⟨SEC_RECOV_LEN, 0, 32⟩
abbrev SEC_CFG_DIGEST (i : Nat) : Nat := 0x2000040 + 0x4 * i
abbrev SEC_CFG_DIGEST_VALUE (i : Nat) : RegField := ⟨SEC_CFG_DIGEST i, 0, 32⟩
abbrev SEC_CFG_EVENTS : Nat := 0x2000060
abbrev SEC_CFG_EVENTS_COUNT : RegField := ⟨SEC_CFG_EVENTS, 0, 32⟩
abbrev SEC_CHALLENGE (i : Nat) : Nat := 0x2000080 + 0x4 * i
abbrev SEC_CHALLENGE_VALUE (i : Nat) : RegField := ⟨SEC_CHALLENGE i, 0, 32⟩
abbrev SEC_NONCE (i : Nat) : Nat := 0x2000100 + 0x4 * i
abbrev SEC_NONCE_VALUE (i : Nat) : RegField := ⟨SEC_NONCE i, 0, 32⟩
abbrev SEC_QUOTE (i : Nat) : Nat := 0x2000200 + 0x4 * i
abbrev SEC_QUOTE_VALUE (i : Nat) : RegField := ⟨SEC_QUOTE i, 0, 32⟩
abbrev SEC_BURGEE (i : Nat) : Nat := 0x2000300 + 0x4 * i
abbrev SEC_BURGEE_VALUE (i : Nat) : RegField := ⟨SEC_BURGEE i, 0, 32⟩
abbrev SEC_TOKEN (i : Nat) : Nat := 0x2000400 + 0x4 * i
abbrev SEC_TOKEN_VALUE (i : Nat) : RegField := ⟨SEC_TOKEN i, 0, 32⟩
abbrev SEC_ENDORSE (i : Nat) : Nat := 0x2000500 + 0x4 * i
abbrev SEC_ENDORSE_VALUE (i : Nat) : RegField := ⟨SEC_ENDORSE i, 0, 32⟩

end Reg

/-- Registers of the GLB window. -/
def rowsGLB : List RegRow := [
  ⟨Reg.GLB_ID, 1, 0x4, 1, 0x4, [⟨16, 16, .ro, 0x474c⟩, ⟨8, 8, .ro, 1⟩, ⟨0, 8, .ro, 0⟩]⟩,
  ⟨Reg.GLB_CHIP, 1, 0x4, 1, 0x4, [⟨16, 16, .ro, 0xa096⟩, ⟨12, 4, .ro, 1⟩, ⟨8, 4, .ro, 2⟩, ⟨4, 4, .ro, 0⟩]⟩,
  ⟨Reg.GLB_FW, 1, 0x4, 1, 0x4, [⟨24, 8, .ro, 0⟩, ⟨16, 8, .ro, 0⟩, ⟨0, 16, .ro, 0⟩]⟩,
  ⟨Reg.GLB_ARCH, 1, 0x4, 1, 0x4, [⟨28, 4, .ro, 1⟩, ⟨24, 4, .ro, 1⟩]⟩,
  ⟨Reg.GLB_SERIAL_LO, 1, 0x4, 1, 0x4, [⟨0, 32, .ro, 0⟩]⟩,
  ⟨Reg.GLB_SERIAL_HI, 1, 0x4, 1, 0x4, [⟨0, 32, .ro, 0⟩]⟩,
  ⟨Reg.GLB_LOAD_ERR, 1, 0x4, 1, 0x4, [⟨31, 1, .st, 0⟩, ⟨16, 5, .ro, 0⟩, ⟨0, 16, .ro, 0⟩]⟩,
  ⟨Reg.GLB_CAP_CORE, 1, 0x4, 1, 0x4, [⟨24, 8, .ro, 8⟩, ⟨16, 8, .ro, 8⟩, ⟨8, 8, .ro, 0x40⟩]⟩,
  ⟨Reg.GLB_CAP_LANE, 1, 0x4, 1, 0x4, [⟨16, 16, .ro, 0x100⟩, ⟨8, 8, .ro, 2⟩, ⟨0, 8, .ro, 0x40⟩]⟩,
  ⟨Reg.GLB_CAP_MEM, 1, 0x4, 1, 0x4, [⟨16, 16, .ro, 0x600⟩, ⟨0, 16, .ro, 0x200⟩]⟩,
  ⟨Reg.GLB_CAP_STN, 1, 0x4, 1, 0x4, [⟨28, 4, .ro, 8⟩, ⟨24, 4, .ro, 8⟩, ⟨20, 4, .ro, 4⟩, ⟨16, 4, .ro, 4⟩, ⟨12, 4, .ro, 2⟩, ⟨8, 4, .ro, 4⟩]⟩,
  ⟨Reg.GLB_CAP_STREAM, 1, 0x4, 1, 0x4, [⟨16, 16, .ro, 0x80⟩, ⟨8, 8, .ro, 0x20⟩]⟩,
  ⟨Reg.GLB_CAP_RING, 1, 0x4, 1, 0x4, [⟨24, 8, .ro, 0x10⟩, ⟨16, 8, .ro, 0x40⟩, ⟨0, 16, .ro, 0x100⟩]⟩,
  ⟨Reg.GLB_CAP_POOL, 1, 0x4, 1, 0x4, [⟨24, 8, .ro, 8⟩, ⟨16, 8, .ro, 0x20⟩, ⟨8, 8, .ro, 4⟩]⟩,
  ⟨Reg.GLB_CAP_FMT, 1, 0x4, 1, 0x4, [⟨0, 11, .ro, 0x7ff⟩]⟩,
  ⟨Reg.GLB_CAP_PROG, 1, 0x4, 1, 0x4, [⟨24, 8, .ro, 0x20⟩, ⟨16, 8, .ro, 0x10⟩, ⟨0, 16, .ro, 0x100⟩]⟩,
  ⟨Reg.GLB_CAP_WORDS, 1, 0x4, 1, 0x4, [⟨16, 16, .ro, 0x4000⟩, ⟨0, 16, .ro, 0x1000⟩]⟩,
  ⟨Reg.GLB_CAP_SCHED, 1, 0x4, 1, 0x4, [⟨16, 16, .ro, 0x400⟩, ⟨8, 8, .ro, 0x20⟩]⟩,
  ⟨Reg.GLB_CAP_HBM, 1, 0x4, 1, 0x4, [⟨16, 16, .ro, 0x30⟩, ⟨0, 16, .ro, 0x28⟩]⟩,
  ⟨Reg.GLB_CAP_TRACK, 1, 0x4, 1, 0x4, [⟨16, 16, .ro, 0x4000⟩]⟩,
  ⟨Reg.GLB_PROG_STATUS 0, 32, 0x4, 1, 0x4, [⟨24, 8, .ro, 0⟩, ⟨20, 4, .ro, 0⟩, ⟨0, 3, .ro, 0⟩]⟩]

/-- Registers of the HIF window. -/
def rowsHIF : List RegRow := [
  ⟨Reg.HIF_ID, 1, 0x4, 1, 0x4, [⟨16, 16, .ro, 0x4849⟩, ⟨8, 8, .ro, 1⟩, ⟨0, 8, .ro, 0⟩]⟩,
  ⟨Reg.HIF_CTRL, 1, 0x4, 1, 0x4, [⟨1, 1, .rw, 0⟩, ⟨0, 1, .rw, 1⟩]⟩,
  ⟨Reg.HIF_STATUS, 1, 0x4, 1, 0x4, [⟨8, 4, .ro, 0⟩, ⟨3, 5, .ro, 0⟩, ⟨2, 1, .ro, 0⟩, ⟨1, 1, .ro, 0⟩, ⟨0, 1, .ro, 0⟩]⟩,
  ⟨Reg.HIF_ERR, 1, 0x4, 1, 0x4, [⟨31, 1, .st, 0⟩, ⟨30, 1, .st, 0⟩, ⟨16, 7, .ro, 0⟩, ⟨0, 16, .ro, 0⟩]⟩,
  ⟨Reg.HIF_ERR_ADDR_LO, 1, 0x4, 1, 0x4, [⟨0, 32, .ro, 0⟩]⟩,
  ⟨Reg.HIF_ERR_ADDR_HI, 1, 0x4, 1, 0x4, [⟨0, 32, .ro, 0⟩]⟩,
  ⟨Reg.HIF_SVC_PRING, 1, 0x4, 1, 0x4, [⟨0, 6, .rw, 0⟩]⟩,
  ⟨Reg.HIF_ATS_INVAL, 1, 0x4, 1, 0x4, [⟨0, 32, .ro, 0⟩]⟩,
  ⟨Reg.HIF_JRNL_BASE_LO, 1, 0x4, 1, 0x4, [⟨12, 20, .rw, 0⟩]⟩,
  ⟨Reg.HIF_JRNL_BASE_HI, 1, 0x4, 1, 0x4, [⟨0, 32, .rw, 0⟩]⟩,
  ⟨Reg.HIF_JRNL_CFG, 1, 0x4, 1, 0x4, [⟨31, 1, .rw, 0⟩, ⟨30, 1, .rw, 0⟩, ⟨29, 1, .ro, 0⟩, ⟨28, 1, .ro, 0⟩, ⟨27, 1, .ro, 0⟩, ⟨8, 5, .rw, 0x10⟩, ⟨0, 5, .rw, 0xc⟩]⟩,
  ⟨Reg.HIF_SVC_LOST, 1, 0x4, 1, 0x4, [⟨0, 32, .ro, 0⟩]⟩,
  ⟨Reg.HIF_CRING_BASE_LO 0, 16, 0x40, 1, 0x4, [⟨12, 20, .rw, 0⟩]⟩,
  ⟨Reg.HIF_CRING_BASE_HI 0, 16, 0x40, 1, 0x4, [⟨0, 32, .rw, 0⟩]⟩,
  ⟨Reg.HIF_CRING_CFG 0, 16, 0x40, 1, 0x4, [⟨31, 1, .rw, 0⟩, ⟨8, 6, .rw, 0⟩, ⟨0, 5, .rw, 4⟩]⟩,
  ⟨Reg.HIF_CRING_SEQ0 0, 16, 0x40, 1, 0x4, [⟨0, 32, .rw, 1⟩]⟩,
  ⟨Reg.HIF_CRING_NEXT 0, 16, 0x40, 1, 0x4, [⟨0, 32, .rw, 1⟩]⟩,
  ⟨Reg.HIF_CRING_POLL 0, 16, 0x40, 1, 0x4, [⟨16, 8, .rw, 1⟩, ⟨0, 16, .rw, 0x3e8⟩]⟩,
  ⟨Reg.HIF_CRING_IDLE 0, 16, 0x40, 1, 0x4, [⟨0, 16, .rw, 0x64⟩]⟩,
  ⟨Reg.HIF_CRING_STATUS 0, 16, 0x40, 1, 0x4, [⟨16, 16, .ro, 0⟩, ⟨0, 3, .ro, 0⟩]⟩,
  ⟨Reg.HIF_CRING_ACCEPTED 0, 16, 0x40, 1, 0x4, [⟨0, 32, .ro, 0⟩]⟩,
  ⟨Reg.HIF_CRING_ERR 0, 16, 0x40, 1, 0x4, [⟨31, 1, .st, 0⟩, ⟨0, 16, .ro, 0⟩]⟩,
  ⟨Reg.HIF_PRING_BASE_LO 0, 64, 0x40, 1, 0x4, [⟨12, 20, .rw, 0⟩]⟩,
  ⟨Reg.HIF_PRING_BASE_HI 0, 64, 0x40, 1, 0x4, [⟨0, 32, .rw, 0⟩]⟩,
  ⟨Reg.HIF_PRING_CFG 0, 64, 0x40, 1, 0x4, [⟨31, 1, .rw, 0⟩, ⟨8, 8, .rw, 0⟩, ⟨0, 5, .rw, 6⟩]⟩,
  ⟨Reg.HIF_PRING_MOD 0, 64, 0x40, 1, 0x4, [⟨16, 16, .rw, 0⟩, ⟨8, 1, .rw, 1⟩, ⟨0, 8, .rw, 1⟩]⟩,
  ⟨Reg.HIF_PRING_CONS_LO 0, 64, 0x40, 1, 0x4, [⟨3, 29, .rw, 0⟩]⟩,
  ⟨Reg.HIF_PRING_CONS_HI 0, 64, 0x40, 1, 0x4, [⟨0, 32, .rw, 0⟩]⟩,
  ⟨Reg.HIF_PRING_SEQ_LO 0, 64, 0x40, 1, 0x4, [⟨0, 32, .rw, 1⟩]⟩,
  ⟨Reg.HIF_PRING_SEQ_HI 0, 64, 0x40, 1, 0x4, [⟨0, 32, .rw, 0⟩]⟩,
  ⟨Reg.HIF_PRING_STATUS 0, 64, 0x40, 1, 0x4, [⟨0, 3, .ro, 0⟩]⟩,
  ⟨Reg.HIF_PRING_STALLS 0, 64, 0x40, 1, 0x4, [⟨0, 32, .ro, 0⟩]⟩,
  ⟨Reg.HIF_PRING_PROD_LO 0, 64, 0x40, 1, 0x4, [⟨0, 32, .rw, 0⟩]⟩,
  ⟨Reg.HIF_PRING_PROD_HI 0, 64, 0x40, 1, 0x4, [⟨0, 32, .rw, 0⟩]⟩,
  ⟨Reg.HIF_PRING_ERR 0, 64, 0x40, 1, 0x4, [⟨31, 1, .st, 0⟩, ⟨0, 16, .ro, 0⟩]⟩]

/-- Registers of the MSIX window. -/
def rowsMSIX : List RegRow := [
  ⟨Reg.MSIX_ADDR_LO 0, 256, 0x10, 1, 0x4, [⟨0, 32, .rw, 0⟩]⟩,
  ⟨Reg.MSIX_ADDR_HI 0, 256, 0x10, 1, 0x4, [⟨0, 32, .rw, 0⟩]⟩,
  ⟨Reg.MSIX_DATA 0, 256, 0x10, 1, 0x4, [⟨0, 32, .rw, 0⟩]⟩,
  ⟨Reg.MSIX_CTRL 0, 256, 0x10, 1, 0x4, [⟨0, 1, .rw, 1⟩]⟩,
  ⟨Reg.MSIX_PBA 0, 8, 0x4, 1, 0x4, [⟨0, 32, .ro, 0⟩]⟩]

/-- Registers of the DEC window. -/
def rowsDEC : List RegRow := [
  ⟨Reg.DEC_ID 0, 8, 0x10000, 1, 0x4, [⟨16, 16, .ro, 0x4445⟩, ⟨8, 8, .ro, 1⟩, ⟨0, 8, .ro, 0⟩]⟩,
  ⟨Reg.DEC_CTRL 0, 8, 0x10000, 1, 0x4, [⟨0, 1, .rw, 0⟩]⟩,
  ⟨Reg.DEC_STATUS 0, 8, 0x10000, 1, 0x4, [⟨31, 1, .ro, 0⟩, ⟨24, 7, .ro, 0⟩, ⟨16, 8, .ro, 0⟩, ⟨3, 1, .ro, 0⟩, ⟨0, 3, .ro, 0⟩]⟩,
  ⟨Reg.DEC_ERR 0, 8, 0x10000, 1, 0x4, [⟨31, 1, .st, 0⟩, ⟨30, 1, .st, 0⟩, ⟨16, 8, .ro, 0⟩, ⟨0, 16, .ro, 0⟩]⟩,
  ⟨Reg.DEC_RES_PIX 0, 8, 0x10000, 1, 0x4, [⟨0, 32, .ro, 0⟩]⟩,
  ⟨Reg.DEC_RES_BITS 0, 8, 0x10000, 1, 0x4, [⟨0, 32, .ro, 0⟩]⟩,
  ⟨Reg.DEC_PICS_LO 0, 8, 0x10000, 1, 0x4, [⟨0, 32, .ro, 0⟩]⟩,
  ⟨Reg.DEC_PICS_HI 0, 8, 0x10000, 1, 0x4, [⟨0, 32, .ro, 0⟩]⟩,
  ⟨Reg.DEC_UTIL 0, 8, 0x10000, 1, 0x4, [⟨0, 10, .ro, 0⟩]⟩,
  ⟨Reg.DEC_CACHE_MISS 0, 8, 0x10000, 1, 0x4, [⟨0, 32, .ro, 0⟩]⟩,
  ⟨Reg.DEC_STRM_STATE 0, 128, 0x40, 1, 0x4, [⟨16, 3, .ro, 0⟩, ⟨4, 4, .ro, 0⟩, ⟨0, 3, .ro, 0⟩]⟩,
  ⟨Reg.DEC_STRM_DIMS 0, 128, 0x40, 1, 0x4, [⟨16, 16, .ro, 0⟩, ⟨0, 16, .ro, 0⟩]⟩,
  ⟨Reg.DEC_STRM_ERR 0, 128, 0x40, 1, 0x4, [⟨31, 1, .st, 0⟩, ⟨0, 16, .ro, 0⟩]⟩,
  ⟨Reg.DEC_STRM_SPARSE 0, 128, 0x40, 1, 0x4, [⟨0, 4, .ro, 0⟩]⟩,
  ⟨Reg.DEC_STRM_CONCEALED 0, 128, 0x40, 1, 0x4, [⟨0, 32, .ro, 0⟩]⟩,
  ⟨Reg.DEC_STRM_SUBST 0, 128, 0x40, 1, 0x4, [⟨0, 32, .ro, 0⟩]⟩,
  ⟨Reg.DEC_STRM_SYNTAX 0, 128, 0x40, 1, 0x4, [⟨0, 32, .ro, 0⟩]⟩,
  ⟨Reg.DEC_STRM_STALE_REF 0, 128, 0x40, 1, 0x4, [⟨0, 32, .ro, 0⟩]⟩]

/-- Registers of the SHP window. -/
def rowsSHP : List RegRow := [
  ⟨Reg.SHP_ID 0, 8, 0x10000, 1, 0x4, [⟨16, 16, .ro, 0x5348⟩, ⟨8, 8, .ro, 1⟩, ⟨0, 8, .ro, 0⟩]⟩,
  ⟨Reg.SHP_CTRL 0, 8, 0x10000, 1, 0x4, [⟨1, 1, .w1s, 0⟩, ⟨0, 1, .wo, 0⟩]⟩,
  ⟨Reg.SHP_STATUS 0, 8, 0x10000, 1, 0x4, [⟨28, 4, .ro, 0⟩, ⟨0, 3, .ro, 0⟩]⟩,
  ⟨Reg.SHP_ERR 0, 8, 0x10000, 1, 0x4, [⟨31, 1, .st, 0⟩, ⟨30, 1, .st, 0⟩, ⟨16, 8, .ro, 0⟩, ⟨0, 16, .ro, 0⟩]⟩,
  ⟨Reg.SHP_SAMPLES_LO 0, 8, 0x10000, 1, 0x4, [⟨0, 32, .ro, 0⟩]⟩,
  ⟨Reg.SHP_SAMPLES_HI 0, 8, 0x10000, 1, 0x4, [⟨0, 32, .ro, 0⟩]⟩,
  ⟨Reg.SHP_BATCHES 0, 8, 0x10000, 1, 0x4, [⟨0, 32, .ro, 0⟩]⟩,
  ⟨Reg.SHP_SHORT 0, 8, 0x10000, 1, 0x4, [⟨0, 32, .ro, 0⟩]⟩,
  ⟨Reg.SHP_STANDIN_LAST 0, 8, 0x10000, 1, 0x4, [⟨0, 32, .ro, 0⟩]⟩,
  ⟨Reg.SHP_STANDIN_FILL 0, 8, 0x10000, 1, 0x4, [⟨0, 32, .ro, 0⟩]⟩,
  ⟨Reg.SHP_UTIL 0, 8, 0x10000, 1, 0x4, [⟨0, 10, .ro, 0⟩]⟩,
  ⟨Reg.SHP_STALLS 0, 8, 0x10000, 1, 0x4, [⟨0, 32, .ro, 0⟩]⟩]

/-- Registers of the NET window. -/
def rowsNET : List RegRow := [
  ⟨Reg.NET_ID, 1, 0x4, 1, 0x4, [⟨16, 16, .ro, 0x4e45⟩, ⟨8, 8, .ro, 1⟩, ⟨0, 8, .ro, 0⟩]⟩,
  ⟨Reg.NET_ERR, 1, 0x4, 1, 0x4, [⟨31, 1, .st, 0⟩, ⟨30, 1, .st, 0⟩, ⟨16, 6, .ro, 0⟩, ⟨0, 16, .ro, 0⟩]⟩,
  ⟨Reg.NET_PORT_CFG 0, 2, 0x40, 1, 0x4, [⟨31, 1, .rw, 0⟩, ⟨30, 1, .rw, 0⟩, ⟨29, 1, .rw, 0⟩, ⟨28, 1, .rw, 1⟩, ⟨16, 12, .rw, 0⟩, ⟨8, 6, .rw, 0x2e⟩, ⟨0, 3, .rw, 7⟩]⟩,
  ⟨Reg.NET_PORT_STATUS 0, 2, 0x40, 1, 0x4, [⟨31, 1, .ro, 0⟩, ⟨30, 1, .ro, 0⟩, ⟨28, 2, .ro, 0⟩, ⟨24, 4, .ro, 0⟩]⟩,
  ⟨Reg.NET_PORT_MAC_LO 0, 2, 0x40, 1, 0x4, [⟨0, 32, .rw, 0⟩]⟩,
  ⟨Reg.NET_PORT_MAC_HI 0, 2, 0x40, 1, 0x4, [⟨0, 16, .rw, 0⟩]⟩,
  ⟨Reg.NET_PORT_IPV4 0, 2, 0x40, 1, 0x4, [⟨0, 32, .rw, 0⟩]⟩,
  ⟨Reg.NET_PORT_DISCARDS 0, 2, 0x40, 1, 0x4, [⟨0, 32, .ro, 0⟩]⟩,
  ⟨Reg.NET_PORT_TS_LAT 0, 2, 0x40, 1, 0x4, [⟨0, 16, .ro, 0⟩]⟩,
  ⟨Reg.NET_FLOW_CFG 0, 32, 0x40, 1, 0x4, [⟨31, 1, .rw, 0⟩, ⟨30, 1, .rw, 0⟩, ⟨29, 1, .rw, 0⟩, ⟨28, 1, .rw, 1⟩, ⟨26, 2, .rw, 0⟩, ⟨25, 1, .rw, 0⟩, ⟨16, 7, .rw, 0x60⟩, ⟨0, 16, .rw, 0x3e8⟩]⟩,
  ⟨Reg.NET_FLOW_DST_A 0, 32, 0x40, 1, 0x4, [⟨0, 32, .rw, 0⟩]⟩,
  ⟨Reg.NET_FLOW_DST_B 0, 32, 0x40, 1, 0x4, [⟨0, 32, .rw, 0⟩]⟩,
  ⟨Reg.NET_FLOW_SRC_A 0, 32, 0x40, 1, 0x4, [⟨0, 32, .rw, 0⟩]⟩,
  ⟨Reg.NET_FLOW_SRC_B 0, 32, 0x40, 1, 0x4, [⟨0, 32, .rw, 0⟩]⟩,
  ⟨Reg.NET_FLOW_UDP 0, 32, 0x40, 1, 0x4, [⟨16, 16, .rw, 0⟩, ⟨0, 16, .rw, 0⟩]⟩,
  ⟨Reg.NET_FLOW_DIMS 0, 32, 0x40, 1, 0x4, [⟨16, 16, .rw, 0⟩, ⟨0, 16, .rw, 0⟩]⟩,
  ⟨Reg.NET_FLOW_TICKS 0, 32, 0x40, 1, 0x4, [⟨0, 32, .rw, 0⟩]⟩,
  ⟨Reg.NET_FLOW_SILENT 0, 32, 0x40, 1, 0x4, [⟨16, 16, .rw, 0⟩, ⟨0, 16, .rw, 0⟩]⟩,
  ⟨Reg.NET_FLOW_STATUS 0, 32, 0x40, 1, 0x4, [⟨31, 1, .ro, 0⟩, ⟨24, 7, .ro, 0⟩, ⟨23, 1, .ro, 0⟩, ⟨22, 1, .ro, 0⟩, ⟨0, 3, .ro, 0⟩]⟩,
  ⟨Reg.NET_FLOW_SKEW 0, 32, 0x40, 1, 0x4, [⟨0, 32, .ro, 0⟩]⟩,
  ⟨Reg.NET_FLOW_ERR 0, 32, 0x40, 1, 0x4, [⟨31, 1, .st, 0⟩, ⟨0, 16, .ro, 0⟩]⟩]

/-- Registers of the TIME window. -/
def rowsTIME : List RegRow := [
  ⟨Reg.TIME_ID, 1, 0x4, 1, 0x4, [⟨16, 16, .ro, 0x5449⟩, ⟨0, 16, .ro, 0x100⟩]⟩,
  ⟨Reg.TIME_CTRL, 1, 0x4, 1, 0x4, [⟨31, 1, .rw, 0⟩, ⟨29, 2, .rw, 0⟩, ⟨28, 1, .rw, 1⟩, ⟨27, 1, .wo, 0⟩, ⟨16, 8, .rw, 0x7f⟩, ⟨0, 16, .rw, 0⟩]⟩,
  ⟨Reg.TIME_STATUS, 1, 0x4, 1, 0x4, [⟨31, 1, .ro, 0⟩, ⟨16, 4, .ro, 0⟩, ⟨8, 1, .ro, 0⟩]⟩,
  ⟨Reg.TIME_ERR, 1, 0x4, 1, 0x4, [⟨31, 1, .st, 0⟩, ⟨0, 16, .ro, 0⟩]⟩,
  ⟨Reg.TIME_CLK_SEC_LO, 1, 0x4, 1, 0x4, [⟨0, 32, .ro, 0⟩]⟩,
  ⟨Reg.TIME_CLK_SEC_HI, 1, 0x4, 1, 0x4, [⟨0, 32, .ro, 0⟩]⟩,
  ⟨Reg.TIME_CLK_NS, 1, 0x4, 1, 0x4, [⟨0, 32, .ro, 0⟩]⟩,
  ⟨Reg.TIME_CLK_FRAC, 1, 0x4, 1, 0x4, [⟨0, 32, .ro, 0⟩]⟩,
  ⟨Reg.TIME_SET_SEC_LO, 1, 0x4, 1, 0x4, [⟨0, 32, .rw, 0⟩]⟩,
  ⟨Reg.TIME_SET_SEC_HI, 1, 0x4, 1, 0x4, [⟨0, 32, .rw, 0⟩]⟩,
  ⟨Reg.TIME_SET_NS, 1, 0x4, 1, 0x4, [⟨0, 32, .rw, 0⟩]⟩,
  ⟨Reg.TIME_RATE, 1, 0x4, 1, 0x4, [⟨0, 32, .rw, 0⟩]⟩,
  ⟨Reg.TIME_SERVO_KP, 1, 0x4, 1, 0x4, [⟨0, 16, .rw, 0x2ccd⟩]⟩,
  ⟨Reg.TIME_SERVO_KI, 1, 0x4, 1, 0x4, [⟨0, 16, .rw, 0x1333⟩]⟩,
  ⟨Reg.TIME_SERVO_THR, 1, 0x4, 1, 0x4, [⟨16, 16, .rw, 0x64⟩, ⟨0, 16, .rw, 0x3e8⟩]⟩,
  ⟨Reg.TIME_SERVO_HOLD, 1, 0x4, 1, 0x4, [⟨16, 16, .rw, 0x3e8⟩, ⟨0, 8, .rw, 0x10⟩]⟩,
  ⟨Reg.TIME_OFFSET, 1, 0x4, 1, 0x4, [⟨0, 32, .ro, 0⟩]⟩,
  ⟨Reg.TIME_PATH_DELAY, 1, 0x4, 1, 0x4, [⟨0, 32, .ro, 0⟩]⟩,
  ⟨Reg.TIME_MONO_LO, 1, 0x4, 1, 0x4, [⟨0, 32, .ro, 0⟩]⟩,
  ⟨Reg.TIME_MONO_HI, 1, 0x4, 1, 0x4, [⟨0, 32, .ro, 0⟩]⟩,
  ⟨Reg.TIME_TPO_CFG 0, 4, 0x20, 1, 0x4, [⟨31, 1, .rw, 0⟩, ⟨29, 2, .rw, 0⟩, ⟨28, 1, .rw, 0⟩, ⟨27, 1, .rw, 0⟩, ⟨1, 1, .w1c, 0⟩, ⟨0, 1, .w1c, 0⟩]⟩,
  ⟨Reg.TIME_TPO_SEC_LO 0, 4, 0x20, 1, 0x4, [⟨0, 32, .rw, 0⟩]⟩,
  ⟨Reg.TIME_TPO_SEC_HI 0, 4, 0x20, 1, 0x4, [⟨0, 32, .rw, 0⟩]⟩,
  ⟨Reg.TIME_TPO_NS 0, 4, 0x20, 1, 0x4, [⟨0, 32, .rw, 0⟩]⟩,
  ⟨Reg.TIME_TPO_PERIOD 0, 4, 0x20, 1, 0x4, [⟨0, 32, .rw, 0x3b9aca00⟩]⟩,
  ⟨Reg.TIME_TPO_WIDTH 0, 4, 0x20, 1, 0x4, [⟨0, 32, .rw, 0x3e8⟩]⟩,
  ⟨Reg.TIME_TPI_CFG 0, 2, 0x20, 1, 0x4, [⟨31, 1, .rw, 0⟩, ⟨29, 2, .rw, 1⟩, ⟨0, 4, .rw, 2⟩]⟩,
  ⟨Reg.TIME_TPI_SEC_LO 0, 2, 0x20, 1, 0x4, [⟨0, 32, .ro, 0⟩]⟩,
  ⟨Reg.TIME_TPI_SEC_HI 0, 2, 0x20, 1, 0x4, [⟨0, 32, .ro, 0⟩]⟩,
  ⟨Reg.TIME_TPI_NS 0, 2, 0x20, 1, 0x4, [⟨0, 32, .ro, 0⟩]⟩,
  ⟨Reg.TIME_TPI_COUNT 0, 2, 0x20, 1, 0x4, [⟨0, 32, .ro, 0⟩]⟩,
  ⟨Reg.TIME_TPI_OVERRUN 0, 2, 0x20, 1, 0x4, [⟨0, 32, .ro, 0⟩]⟩]

/-- Registers of the SCHED window. -/
def rowsSCHED : List RegRow := [
  ⟨Reg.SCHED_ID, 1, 0x4, 1, 0x4, [⟨16, 16, .ro, 0x5343⟩, ⟨8, 8, .ro, 1⟩, ⟨0, 8, .ro, 0⟩]⟩,
  ⟨Reg.SCHED_CTRL, 1, 0x4, 1, 0x4, [⟨31, 1, .w1s, 0⟩, ⟨30, 1, .w1s, 0⟩]⟩,
  ⟨Reg.SCHED_STATUS, 1, 0x4, 1, 0x4, [⟨31, 1, .ro, 0⟩, ⟨16, 7, .ro, 0x40⟩, ⟨0, 16, .ro, 0⟩]⟩,
  ⟨Reg.SCHED_ERR, 1, 0x4, 1, 0x4, [⟨31, 1, .st, 0⟩, ⟨30, 1, .st, 0⟩, ⟨16, 7, .ro, 0⟩, ⟨0, 16, .ro, 0⟩]⟩,
  ⟨Reg.SCHED_ARB, 1, 0x4, 1, 0x4, [⟨0, 5, .rw, 0x10⟩]⟩,
  ⟨Reg.SCHED_STARVE, 1, 0x4, 1, 0x4, [⟨0, 16, .rw, 0xa⟩]⟩,
  ⟨Reg.SCHED_TICKET, 1, 0x4, 1, 0x4, [⟨0, 32, .ro, 0⟩]⟩,
  ⟨Reg.SCHED_CLS_COMMIT, 1, 0x4, 1, 0x4, [⟨1, 1, .w1c, 0⟩, ⟨0, 1, .wo, 0⟩]⟩,
  ⟨Reg.SCHED_CLS_CFG 0, 4, 0x20, 1, 0x4, [⟨31, 1, .rw, 1⟩, ⟨24, 3, .ro, 1⟩, ⟨0, 5, .rw, 0⟩]⟩,
  ⟨Reg.SCHED_CLS_WAYS 0, 4, 0x20, 1, 0x4, [⟨0, 16, .rw, 0⟩]⟩,
  ⟨Reg.SCHED_CLS_PCH_LO 0, 4, 0x20, 1, 0x4, [⟨0, 32, .rw, 0⟩]⟩,
  ⟨Reg.SCHED_CLS_PCH_HI 0, 4, 0x20, 1, 0x4, [⟨0, 32, .rw, 0⟩]⟩,
  ⟨Reg.SCHED_CLS_CORES 0, 4, 0x20, 1, 0x4, [⟨16, 7, .ro, 0⟩, ⟨0, 7, .ro, 0⟩]⟩,
  ⟨Reg.SCHED_CLS_READY 0, 4, 0x20, 1, 0x4, [⟨0, 17, .ro, 0⟩]⟩,
  ⟨Reg.SCHED_CLS_PREEMPTS 0, 4, 0x20, 1, 0x4, [⟨0, 32, .ro, 0⟩]⟩,
  ⟨Reg.SCHED_CLS_MAXWAIT 0, 4, 0x20, 1, 0x4, [⟨31, 1, .wo, 0⟩, ⟨0, 31, .ro, 0⟩]⟩,
  ⟨Reg.SCHED_CLU_CFG 0, 8, 0x10, 1, 0x4, [⟨0, 4, .rw, 2⟩]⟩,
  ⟨Reg.SCHED_CLU_STATUS 0, 8, 0x10, 1, 0x4, [⟨8, 8, .ro, 0xff⟩, ⟨0, 8, .ro, 0xff⟩]⟩]

/-- Registers of the CORE window. -/
def rowsCORE : List RegRow := [
  ⟨Reg.CORE_ID 0, 64, 0x10000, 1, 0x4, [⟨16, 16, .ro, 0x434f⟩, ⟨8, 8, .ro, 1⟩, ⟨0, 8, .ro, 0⟩]⟩,
  ⟨Reg.CORE_LOC 0, 64, 0x10000, 1, 0x4, [⟨8, 3, .ro, 0⟩, ⟨0, 6, .ro, 0⟩]⟩,
  ⟨Reg.CORE_LRW_CTRL 0, 64, 0x10000, 1, 0x4, [⟨31, 1, .rw, 0⟩, ⟨30, 1, .w1s, 0⟩, ⟨8, 8, .rw, 0⟩]⟩,
  ⟨Reg.CORE_LRW_STATUS 0, 64, 0x10000, 1, 0x4, [⟨16, 6, .ro, 0⟩, ⟨8, 6, .ro, 0x20⟩, ⟨0, 3, .ro, 0⟩]⟩,
  ⟨Reg.CORE_LRW_ERR 0, 64, 0x10000, 1, 0x4, [⟨31, 1, .st, 0⟩, ⟨30, 1, .st, 0⟩, ⟨0, 16, .ro, 0⟩]⟩,
  ⟨Reg.CORE_LRW_STICKY 0, 64, 0x10000, 1, 0x4, [⟨2, 1, .st, 0⟩, ⟨1, 1, .st, 0⟩, ⟨0, 1, .st, 0⟩]⟩,
  ⟨Reg.CORE_LRW_CK_CFG 0, 64, 0x10000, 1, 0x4, [⟨31, 1, .rw, 1⟩, ⟨0, 5, .rw, 0xe⟩]⟩,
  ⟨Reg.CORE_LRW_STOP 0, 64, 0x10000, 1, 0x4, [⟨0, 16, .rw, 0x1000⟩]⟩,
  ⟨Reg.CORE_LRW_CK_LOC 0, 64, 0x10000, 1, 0x4, [⟨31, 1, .ro, 0⟩, ⟨16, 9, .ro, 0⟩, ⟨0, 8, .ro, 0⟩]⟩,
  ⟨Reg.CORE_LRW_CK_FAILS 0, 64, 0x10000, 1, 0x4, [⟨0, 32, .ro, 0⟩]⟩,
  ⟨Reg.CORE_LRW_STREAM_LO 0, 64, 0x10000, 1, 0x4, [⟨0, 32, .ro, 0⟩]⟩,
  ⟨Reg.CORE_LRW_STREAM_HI 0, 64, 0x10000, 1, 0x4, [⟨0, 32, .ro, 0⟩]⟩,
  ⟨Reg.CORE_LRW_LANEOPS_LO 0, 64, 0x10000, 1, 0x4, [⟨0, 32, .ro, 0⟩]⟩,
  ⟨Reg.CORE_LRW_LANEOPS_HI 0, 64, 0x10000, 1, 0x4, [⟨0, 32, .ro, 0⟩]⟩,
  ⟨Reg.CORE_LRW_TILES 0, 64, 0x10000, 1, 0x4, [⟨0, 32, .ro, 0⟩]⟩,
  ⟨Reg.CORE_LRW_DISCARDS 0, 64, 0x10000, 1, 0x4, [⟨0, 32, .ro, 0⟩]⟩,
  ⟨Reg.CORE_LRW_SPLITS 0, 64, 0x10000, 1, 0x4, [⟨0, 32, .ro, 0⟩]⟩,
  ⟨Reg.CORE_MRV_STATUS 0, 64, 0x10000, 1, 0x4, [⟨24, 8, .ro, 0⟩, ⟨16, 8, .ro, 0⟩, ⟨1, 1, .ro, 0⟩, ⟨0, 1, .ro, 0⟩]⟩,
  ⟨Reg.CORE_MRV_ERR 0, 64, 0x10000, 1, 0x4, [⟨31, 1, .st, 0⟩, ⟨30, 1, .st, 0⟩, ⟨0, 16, .ro, 0⟩]⟩,
  ⟨Reg.CORE_MRV_STICKY 0, 64, 0x10000, 1, 0x4, [⟨2, 1, .st, 0⟩, ⟨1, 1, .st, 0⟩, ⟨0, 1, .st, 0⟩]⟩,
  ⟨Reg.CORE_MRV_BUSY_LO 0, 64, 0x10000, 1, 0x4, [⟨0, 32, .ro, 0⟩]⟩,
  ⟨Reg.CORE_MRV_BUSY_HI 0, 64, 0x10000, 1, 0x4, [⟨0, 32, .ro, 0⟩]⟩,
  ⟨Reg.CORE_MRV_DRAIN_WAIT 0, 64, 0x10000, 1, 0x4, [⟨0, 32, .ro, 0⟩]⟩,
  ⟨Reg.CORE_MRV_PROBE_CFG 0, 64, 0x10000, 1, 0x4, [⟨31, 1, .w1s, 0⟩, ⟨30, 1, .ro, 0⟩, ⟨16, 1, .rw, 0⟩, ⟨12, 4, .rw, 0⟩, ⟨0, 8, .rw, 0⟩]⟩,
  ⟨Reg.CORE_MRV_PROBE_X 0, 64, 0x10000, 1, 0x4, [⟨0, 32, .rw, 0⟩]⟩,
  ⟨Reg.CORE_MRV_PROBE_Y 0, 64, 0x10000, 1, 0x4, [⟨0, 32, .ro, 0⟩]⟩,
  ⟨Reg.CORE_MRV_PROBE_C0 0, 64, 0x10000, 1, 0x4, [⟨0, 32, .ro, 0⟩]⟩,
  ⟨Reg.CORE_MRV_PROBE_C1 0, 64, 0x10000, 1, 0x4, [⟨0, 32, .ro, 0⟩]⟩,
  ⟨Reg.CORE_MRV_PROBE_C2 0, 64, 0x10000, 1, 0x4, [⟨0, 32, .ro, 0⟩]⟩,
  ⟨Reg.CORE_SCHED_STATUS 0, 64, 0x10000, 1, 0x4, [⟨16, 11, .ro, 0⟩, ⟨6, 2, .ro, 0⟩, ⟨5, 1, .ro, 0⟩]⟩,
  ⟨Reg.CORE_SCHED_REMOTE 0, 64, 0x10000, 1, 0x4, [⟨0, 7, .ro, 0⟩]⟩,
  ⟨Reg.CORE_SCHED_SAVES 0, 64, 0x10000, 1, 0x4, [⟨0, 32, .ro, 0⟩]⟩,
  ⟨Reg.CORE_SCHED_SAVE_MAX 0, 64, 0x10000, 1, 0x4, [⟨0, 32, .ro, 0⟩]⟩,
  ⟨Reg.CORE_SCHED_RESTORES 0, 64, 0x10000, 1, 0x4, [⟨0, 32, .ro, 0⟩]⟩,
  ⟨Reg.CORE_SCALE_ENTRY 0 0, 64, 0x10000, 4096, 0x4, [⟨0, 32, .ro, 0⟩]⟩]

/-- Registers of the SGS window. -/
def rowsSGS : List RegRow := [
  ⟨Reg.SGS_ID 0, 4, 0x10000, 1, 0x4, [⟨16, 16, .ro, 0x5347⟩, ⟨8, 8, .ro, 1⟩, ⟨0, 8, .ro, 0⟩]⟩,
  ⟨Reg.SGS_CTRL 0, 4, 0x10000, 1, 0x4, [⟨0, 1, .rw, 0⟩]⟩,
  ⟨Reg.SGS_STATUS 0, 4, 0x10000, 1, 0x4, [⟨24, 8, .ro, 0⟩, ⟨3, 1, .ro, 0⟩, ⟨0, 3, .ro, 0⟩]⟩,
  ⟨Reg.SGS_ERR 0, 4, 0x10000, 1, 0x4, [⟨31, 1, .st, 0⟩, ⟨30, 1, .st, 0⟩, ⟨16, 8, .ro, 0⟩, ⟨0, 16, .ro, 0⟩]⟩,
  ⟨Reg.SGS_TRK_ROWS 0, 4, 0x10000, 1, 0x4, [⟨16, 16, .ro, 0⟩, ⟨0, 16, .ro, 0⟩]⟩,
  ⟨Reg.SGS_OPS_LO 0, 4, 0x10000, 1, 0x4, [⟨0, 32, .ro, 0⟩]⟩,
  ⟨Reg.SGS_OPS_HI 0, 4, 0x10000, 1, 0x4, [⟨0, 32, .ro, 0⟩]⟩,
  ⟨Reg.SGS_UTIL 0, 4, 0x10000, 1, 0x4, [⟨24, 8, .ro, 0⟩, ⟨16, 8, .ro, 0⟩, ⟨8, 8, .ro, 0⟩, ⟨0, 8, .ro, 0⟩]⟩,
  ⟨Reg.SGS_KNN_TILES 0, 4, 0x10000, 1, 0x4, [⟨0, 32, .ro, 0⟩]⟩,
  ⟨Reg.SGS_ASSIGN_CAPPED 0, 4, 0x10000, 1, 0x4, [⟨0, 32, .ro, 0⟩]⟩,
  ⟨Reg.SGS_STRM_STATE 0, 128, 0x40, 1, 0x4, [⟨30, 2, .ro, 0⟩, ⟨8, 12, .ro, 0⟩, ⟨0, 3, .ro, 0⟩]⟩,
  ⟨Reg.SGS_STRM_TRACKS 0, 128, 0x40, 1, 0x4, [⟨16, 16, .ro, 0⟩, ⟨0, 16, .ro, 0⟩]⟩,
  ⟨Reg.SGS_STRM_NEXT_ID 0, 128, 0x40, 1, 0x4, [⟨0, 32, .ro, 1⟩]⟩,
  ⟨Reg.SGS_STRM_GAL 0, 128, 0x40, 1, 0x4, [⟨0, 13, .ro, 0⟩]⟩,
  ⟨Reg.SGS_STRM_NEXT_IDENT 0, 128, 0x40, 1, 0x4, [⟨0, 32, .ro, 1⟩]⟩,
  ⟨Reg.SGS_STRM_ERR 0, 128, 0x40, 1, 0x4, [⟨31, 1, .st, 0⟩, ⟨0, 16, .ro, 0⟩]⟩]

/-- Registers of the POOL window. -/
def rowsPOOL : List RegRow := [
  ⟨Reg.POOL_ID, 1, 0x4, 1, 0x4, [⟨16, 16, .ro, 0x504f⟩, ⟨8, 8, .ro, 1⟩, ⟨0, 8, .ro, 0⟩]⟩,
  ⟨Reg.POOL_ERR, 1, 0x4, 1, 0x4, [⟨31, 1, .st, 0⟩, ⟨30, 1, .st, 0⟩, ⟨16, 6, .ro, 0⟩, ⟨0, 16, .ro, 0⟩]⟩,
  ⟨Reg.POOL_CLS_CFG 0, 8, 0x40, 1, 0x4, [⟨31, 1, .rw, 1⟩, ⟨30, 1, .rw, 0⟩]⟩,
  ⟨Reg.POOL_CLS_BASE_LO 0, 8, 0x40, 1, 0x4, [⟨12, 20, .rw, 0⟩]⟩,
  ⟨Reg.POOL_CLS_BASE_HI 0, 8, 0x40, 1, 0x4, [⟨0, 32, .rw, 0⟩]⟩,
  ⟨Reg.POOL_CLS_COUNT 0, 8, 0x40, 1, 0x4, [⟨0, 21, .rw, 0⟩]⟩,
  ⟨Reg.POOL_CLS_THRESH 0, 8, 0x40, 1, 0x4, [⟨16, 16, .rw, 0⟩, ⟨0, 16, .rw, 0⟩]⟩,
  ⟨Reg.POOL_CLS_FREE 0, 8, 0x40, 1, 0x4, [⟨0, 32, .ro, 0⟩]⟩,
  ⟨Reg.POOL_CLS_HEADROOM 0, 8, 0x40, 1, 0x4, [⟨0, 32, .ro, 0⟩]⟩,
  ⟨Reg.POOL_CLS_STATUS 0, 8, 0x40, 1, 0x4, [⟨16, 10, .ro, 0⟩, ⟨9, 1, .ro, 0⟩, ⟨8, 1, .st, 0⟩, ⟨0, 3, .ro, 1⟩]⟩,
  ⟨Reg.POOL_CLS_WAITERS 0, 8, 0x40, 1, 0x4, [⟨0, 32, .ro, 0⟩]⟩,
  ⟨Reg.POOL_CLS_WITHDRAWN 0, 8, 0x40, 1, 0x4, [⟨0, 32, .ro, 0⟩]⟩,
  ⟨Reg.POOL_CLS_HEAD_LO 0, 8, 0x40, 1, 0x4, [⟨0, 32, .ro, 0⟩]⟩,
  ⟨Reg.POOL_CLS_HEAD_HI 0, 8, 0x40, 1, 0x4, [⟨0, 32, .ro, 0⟩]⟩,
  ⟨Reg.POOL_OWN_CFG 0, 32, 0x80, 1, 0x4, [⟨31, 1, .rw, 0⟩]⟩,
  ⟨Reg.POOL_OWN_RES 0 0, 32, 0x80, 8, 0x4, [⟨0, 21, .rw, 0⟩]⟩,
  ⟨Reg.POOL_OWN_HELD 0 0, 32, 0x80, 8, 0x4, [⟨0, 21, .ro, 0⟩]⟩,
  ⟨Reg.POOL_OWN_COMMIT 0 0, 32, 0x80, 8, 0x4, [⟨0, 21, .ro, 0⟩]⟩]

/-- Registers of the MEM window. -/
def rowsMEM : List RegRow := [
  ⟨Reg.MEM_ID, 1, 0x4, 1, 0x4, [⟨16, 16, .ro, 0x4d45⟩, ⟨8, 8, .ro, 1⟩, ⟨0, 8, .ro, 0⟩]⟩,
  ⟨Reg.MEM_ERR, 1, 0x4, 1, 0x4, [⟨31, 1, .st, 0⟩, ⟨30, 1, .st, 0⟩, ⟨0, 16, .ro, 0⟩]⟩,
  ⟨Reg.MEM_SECURE_STATUS, 1, 0x4, 1, 0x4, [⟨31, 1, .ro, 0⟩, ⟨16, 2, .ro, 0⟩, ⟨0, 16, .ro, 0⟩]⟩,
  ⟨Reg.MEM_ECC_CORR, 1, 0x4, 1, 0x4, [⟨0, 32, .ro, 0⟩]⟩,
  ⟨Reg.MEM_ECC_UNCORR, 1, 0x4, 1, 0x4, [⟨0, 32, .ro, 0⟩]⟩,
  ⟨Reg.MEM_WW_CONFLICTS, 1, 0x4, 1, 0x4, [⟨0, 32, .ro, 0⟩]⟩,
  ⟨Reg.MEM_SB_PINNED 0, 8, 0x10, 1, 0x4, [⟨0, 32, .ro, 0⟩]⟩,
  ⟨Reg.MEM_SB_STATUS 0, 8, 0x10, 1, 0x4, [⟨0, 16, .ro, 0⟩]⟩,
  ⟨Reg.MEM_SB_WAIT 0, 8, 0x10, 1, 0x4, [⟨0, 32, .ro, 0⟩]⟩]

/-- Registers of the HBM window. -/
def rowsHBM : List RegRow := [
  ⟨Reg.HBM_ID, 1, 0x4, 1, 0x4, [⟨16, 16, .ro, 0x4842⟩, ⟨8, 8, .ro, 1⟩, ⟨0, 8, .ro, 0⟩]⟩,
  ⟨Reg.HBM_CTRL, 1, 0x4, 1, 0x4, [⟨31, 1, .rw, 1⟩, ⟨0, 9, .rw, 0x40⟩]⟩,
  ⟨Reg.HBM_STATUS, 1, 0x4, 1, 0x4, [⟨30, 2, .ro, 0⟩, ⟨29, 1, .ro, 1⟩, ⟨28, 1, .ro, 0⟩, ⟨16, 6, .ro, 0x28⟩]⟩,
  ⟨Reg.HBM_ERR, 1, 0x4, 1, 0x4, [⟨31, 1, .st, 0⟩, ⟨30, 1, .st, 0⟩, ⟨16, 6, .ro, 0⟩, ⟨0, 16, .ro, 0⟩]⟩,
  ⟨Reg.HBM_CE_CFG, 1, 0x4, 1, 0x4, [⟨16, 16, .rw, 0x100⟩, ⟨0, 16, .rw, 0x3c⟩]⟩,
  ⟨Reg.HBM_MIG_LEFT, 1, 0x4, 1, 0x4, [⟨0, 32, .ro, 0⟩]⟩,
  ⟨Reg.HBM_POISONED, 1, 0x4, 1, 0x4, [⟨0, 32, .ro, 0⟩]⟩,
  ⟨Reg.HBM_STK_TEMP 0, 2, 0x40, 1, 0x4, [⟨31, 1, .ro, 0⟩, ⟨30, 1, .ro, 0⟩, ⟨0, 8, .ro, 0⟩]⟩,
  ⟨Reg.HBM_STK_TRAIN 0, 2, 0x40, 1, 0x4, [⟨31, 1, .ro, 0⟩, ⟨8, 8, .ro, 0⟩, ⟨0, 8, .ro, 0⟩]⟩,
  ⟨Reg.HBM_STK_REF 0, 2, 0x40, 1, 0x4, [⟨0, 16, .ro, 0xf3c⟩]⟩,
  ⟨Reg.HBM_RNK_STATE 0, 6, 0x20, 1, 0x4, [⟨12, 4, .ro, 0⟩, ⟨8, 3, .ro, 7⟩, ⟨0, 3, .ro, 0⟩]⟩,
  ⟨Reg.HBM_RNK_CE 0, 6, 0x20, 1, 0x4, [⟨0, 32, .ro, 0⟩]⟩,
  ⟨Reg.HBM_RNK_CE_TOTAL 0, 6, 0x20, 1, 0x4, [⟨0, 32, .ro, 0⟩]⟩,
  ⟨Reg.HBM_RNK_UE 0, 6, 0x20, 1, 0x4, [⟨0, 32, .ro, 0⟩]⟩,
  ⟨Reg.HBM_RNK_CTRL 0, 6, 0x20, 1, 0x4, [⟨0, 1, .w1s, 0⟩]⟩,
  ⟨Reg.HBM_PORT_CFG 0, 24, 0x10, 1, 0x4, [⟨0, 16, .rw, 0⟩]⟩,
  ⟨Reg.HBM_PORT_MAXLAT 0, 24, 0x10, 1, 0x4, [⟨31, 1, .wo, 0⟩, ⟨0, 31, .ro, 0⟩]⟩,
  ⟨Reg.HBM_PORT_URG3 0, 24, 0x10, 1, 0x4, [⟨0, 32, .ro, 0⟩]⟩]

/-- Registers of the LNK window. -/
def rowsLNK : List RegRow := [
  ⟨Reg.LNK_ID, 1, 0x4, 1, 0x4, [⟨16, 16, .ro, 0x4c4b⟩, ⟨8, 8, .ro, 1⟩, ⟨0, 8, .ro, 0⟩]⟩,
  ⟨Reg.LNK_TOPO, 1, 0x4, 1, 0x4, [⟨30, 2, .rw, 0⟩, ⟨27, 3, .rw, 0⟩, ⟨24, 3, .rw, 0⟩]⟩,
  ⟨Reg.LNK_STATUS, 1, 0x4, 1, 0x4, [⟨24, 8, .ro, 1⟩, ⟨0, 2, .ro, 0⟩]⟩,
  ⟨Reg.LNK_ERR, 1, 0x4, 1, 0x4, [⟨31, 1, .st, 0⟩, ⟨30, 1, .st, 0⟩, ⟨16, 3, .ro, 0⟩, ⟨0, 16, .ro, 0⟩]⟩,
  ⟨Reg.LNK_TIMERS, 1, 0x4, 1, 0x4, [⟨16, 16, .rw, 0x64⟩, ⟨0, 16, .rw, 0x1f4⟩]⟩,
  ⟨Reg.LNK_ORPHAN_MS, 1, 0x4, 1, 0x4, [⟨0, 16, .rw, 0x3e8⟩]⟩,
  ⟨Reg.LNK_PORT_CFG 0, 4, 0x40, 1, 0x4, [⟨31, 1, .rw, 0⟩, ⟨0, 2, .rw, 0⟩]⟩,
  ⟨Reg.LNK_PORT_STATUS 0, 4, 0x40, 1, 0x4, [⟨24, 8, .ro, 0⟩, ⟨21, 3, .ro, 0⟩, ⟨19, 2, .ro, 0⟩, ⟨12, 4, .ro, 0⟩, ⟨0, 3, .ro, 0⟩]⟩,
  ⟨Reg.LNK_PORT_CREDITS 0, 4, 0x40, 1, 0x4, [⟨24, 8, .ro, 0x10⟩, ⟨12, 12, .ro, 0x200⟩, ⟨0, 12, .ro, 0x100⟩]⟩,
  ⟨Reg.LNK_PORT_FWD 0, 4, 0x40, 1, 0x4, [⟨16, 16, .ro, 0x80⟩, ⟨0, 16, .ro, 0x80⟩]⟩,
  ⟨Reg.LNK_PORT_TX_LO 0, 4, 0x40, 1, 0x4, [⟨0, 32, .ro, 0⟩]⟩,
  ⟨Reg.LNK_PORT_TX_HI 0, 4, 0x40, 1, 0x4, [⟨0, 32, .ro, 0⟩]⟩,
  ⟨Reg.LNK_PORT_REPLAYS 0, 4, 0x40, 1, 0x4, [⟨0, 32, .ro, 0⟩]⟩,
  ⟨Reg.LNK_PORT_DOWNS 0, 4, 0x40, 1, 0x4, [⟨0, 32, .ro, 0⟩]⟩]

/-- Registers of the PWR window. -/
def rowsPWR : List RegRow := [
  ⟨Reg.PWR_ID, 1, 0x4, 1, 0x4, [⟨16, 16, .ro, 0x5057⟩, ⟨8, 8, .ro, 1⟩, ⟨0, 8, .ro, 0⟩]⟩,
  ⟨Reg.PWR_CTRL, 1, 0x4, 1, 0x4, [⟨31, 1, .rw, 1⟩, ⟨0, 16, .rw, 0x3e8⟩]⟩,
  ⟨Reg.PWR_STATUS, 1, 0x4, 1, 0x4, [⟨31, 1, .ro, 0⟩, ⟨20, 4, .ro, 0⟩, ⟨8, 8, .ro, 0⟩, ⟨0, 3, .ro, 0⟩]⟩,
  ⟨Reg.PWR_EVENT, 1, 0x4, 1, 0x4, [⟨4, 1, .st, 0⟩, ⟨3, 1, .st, 0⟩, ⟨2, 1, .st, 0⟩, ⟨1, 1, .st, 0⟩, ⟨0, 1, .st, 0⟩]⟩,
  ⟨Reg.PWR_CAP, 1, 0x4, 1, 0x4, [⟨16, 10, .ro, 0⟩, ⟨0, 10, .rw, 0x154⟩]⟩,
  ⟨Reg.PWR_POWER, 1, 0x4, 1, 0x4, [⟨0, 10, .ro, 0⟩]⟩,
  ⟨Reg.PWR_THROTTLE, 1, 0x4, 1, 0x4, [⟨0, 11, .ro, 0x400⟩]⟩,
  ⟨Reg.PWR_CLK_ON, 1, 0x4, 1, 0x4, [⟨19, 1, .ro, 0⟩, ⟨18, 1, .ro, 0⟩, ⟨17, 1, .ro, 0⟩, ⟨16, 1, .ro, 0⟩, ⟨8, 8, .ro, 0⟩, ⟨0, 8, .ro, 0⟩]⟩,
  ⟨Reg.PWR_CLK_IDLE, 1, 0x4, 1, 0x4, [⟨0, 16, .rw, 0x64⟩]⟩,
  ⟨Reg.PWR_WAKES, 1, 0x4, 1, 0x4, [⟨0, 32, .ro, 0⟩]⟩,
  ⟨Reg.PWR_RESET, 1, 0x4, 1, 0x4, [⟨24, 8, .wo, 0⟩, ⟨1, 1, .wo, 0⟩, ⟨0, 1, .wo, 0⟩]⟩,
  ⟨Reg.PWR_RAIL 0, 12, 0x4, 1, 0x4, [⟨16, 16, .ro, 0⟩, ⟨0, 10, .ro, 0⟩]⟩]

/-- Registers of the HLTH window. -/
def rowsHLTH : List RegRow := [
  ⟨Reg.HLTH_ID, 1, 0x4, 1, 0x4, [⟨16, 16, .ro, 0x484c⟩, ⟨8, 8, .ro, 1⟩, ⟨0, 8, .ro, 0⟩]⟩,
  ⟨Reg.HLTH_CTRL, 1, 0x4, 1, 0x4, [⟨31, 1, .wo, 0⟩, ⟨30, 1, .w1s, 0⟩]⟩,
  ⟨Reg.HLTH_STATUS, 1, 0x4, 1, 0x4, [⟨30, 2, .ro, 0⟩, ⟨23, 7, .ro, 0⟩, ⟨0, 10, .ro, 0⟩]⟩,
  ⟨Reg.HLTH_ERR, 1, 0x4, 1, 0x4, [⟨31, 1, .st, 0⟩, ⟨30, 1, .st, 0⟩, ⟨0, 16, .ro, 0⟩]⟩,
  ⟨Reg.HLTH_FENCE_CORE_LO, 1, 0x4, 1, 0x4, [⟨0, 32, .ro, 0⟩]⟩,
  ⟨Reg.HLTH_FENCE_CORE_HI, 1, 0x4, 1, 0x4, [⟨0, 32, .ro, 0⟩]⟩,
  ⟨Reg.HLTH_FENCE_UNIT, 1, 0x4, 1, 0x4, [⟨8, 4, .ro, 0⟩, ⟨0, 8, .ro, 0⟩]⟩,
  ⟨Reg.HLTH_UNFENCE, 1, 0x4, 1, 0x4, [⟨8, 2, .wo, 0⟩, ⟨0, 6, .wo, 0⟩]⟩,
  ⟨Reg.HLTH_HANG, 1, 0x4, 1, 0x4, [⟨16, 16, .rw, 4⟩, ⟨0, 16, .rw, 0x32⟩]⟩,
  ⟨Reg.HLTH_PLAN_CFG, 1, 0x4, 1, 0x4, [⟨16, 16, .rw, 0x18⟩, ⟨0, 16, .rw, 4⟩]⟩,
  ⟨Reg.HLTH_PLAN_LAST_LO, 1, 0x4, 1, 0x4, [⟨0, 32, .ro, 0⟩]⟩,
  ⟨Reg.HLTH_PLAN_LAST_HI, 1, 0x4, 1, 0x4, [⟨0, 32, .ro, 0⟩]⟩,
  ⟨Reg.HLTH_REC_SUMMARY, 1, 0x4, 1, 0x4, [⟨1, 15, .ro, 0⟩]⟩,
  ⟨Reg.HLTH_REC_USED, 1, 0x4, 1, 0x4, [⟨0, 8, .ro, 0⟩]⟩,
  ⟨Reg.HLTH_REC_LOST, 1, 0x4, 1, 0x4, [⟨0, 32, .ro, 0⟩]⟩,
  ⟨Reg.HLTH_GRP_BASE 0, 12, 0x10, 1, 0x4, [⟨0, 10, .ro, 0⟩]⟩,
  ⟨Reg.HLTH_GRP_DEG 0, 12, 0x10, 1, 0x4, [⟨0, 32, .ro, 0⟩]⟩,
  ⟨Reg.HLTH_GRP_SET 0, 12, 0x10, 1, 0x4, [⟨31, 1, .ro, 0⟩, ⟨16, 3, .ro, 0⟩, ⟨0, 10, .ro, 0⟩]⟩,
  ⟨Reg.HLTH_GRP_WEAR 0, 12, 0x10, 1, 0x4, [⟨0, 10, .ro, 0⟩]⟩,
  ⟨Reg.HLTH_AGE_MON 0, 48, 0x4, 1, 0x4, [⟨31, 1, .ro, 0⟩, ⟨0, 31, .ro, 0⟩]⟩]

/-- Registers of the SNAP window. -/
def rowsSNAP : List RegRow := [
  ⟨Reg.SNAP_ID, 1, 0x4, 1, 0x4, [⟨16, 16, .ro, 0x534e⟩, ⟨8, 8, .ro, 1⟩, ⟨0, 8, .ro, 0⟩]⟩,
  ⟨Reg.SNAP_CTRL, 1, 0x4, 1, 0x4, [⟨31, 1, .rw, 0⟩, ⟨30, 1, .w1s, 0⟩, ⟨2, 1, .rw, 0⟩, ⟨1, 1, .rw, 0⟩, ⟨0, 1, .rw, 0⟩]⟩,
  ⟨Reg.SNAP_STATUS, 1, 0x4, 1, 0x4, [⟨31, 1, .ro, 0⟩, ⟨0, 4, .ro, 0⟩]⟩,
  ⟨Reg.SNAP_ERR, 1, 0x4, 1, 0x4, [⟨31, 1, .st, 0⟩, ⟨0, 16, .ro, 0⟩]⟩,
  ⟨Reg.SNAP_PIN_CFG, 1, 0x4, 1, 0x4, [⟨4, 2, .rw, 1⟩, ⟨0, 4, .rw, 2⟩]⟩,
  ⟨Reg.SNAP_TIME_SEC_LO, 1, 0x4, 1, 0x4, [⟨0, 32, .rw, 0⟩]⟩,
  ⟨Reg.SNAP_TIME_SEC_HI, 1, 0x4, 1, 0x4, [⟨0, 32, .rw, 0⟩]⟩,
  ⟨Reg.SNAP_TIME_NS, 1, 0x4, 1, 0x4, [⟨0, 32, .rw, 0⟩]⟩,
  ⟨Reg.SNAP_TIME_CFG, 1, 0x4, 1, 0x4, [⟨0, 1, .w1c, 0⟩]⟩,
  ⟨Reg.SNAP_ERR_SEL 0, 4, 0x4, 1, 0x4, [⟨16, 16, .rw, 0⟩, ⟨0, 16, .rw, 0⟩]⟩,
  ⟨Reg.SNAP_MISSED, 1, 0x4, 1, 0x4, [⟨0, 32, .ro, 0⟩]⟩,
  ⟨Reg.SNAP_AT_SEC_LO, 1, 0x4, 1, 0x4, [⟨0, 32, .ro, 0⟩]⟩,
  ⟨Reg.SNAP_AT_SEC_HI, 1, 0x4, 1, 0x4, [⟨0, 32, .ro, 0⟩]⟩,
  ⟨Reg.SNAP_AT_NS, 1, 0x4, 1, 0x4, [⟨0, 32, .ro, 0⟩]⟩,
  ⟨Reg.SNAP_AT_FRAC, 1, 0x4, 1, 0x4, [⟨0, 32, .ro, 0⟩]⟩,
  ⟨Reg.SNAP_AT_MONO_LO, 1, 0x4, 1, 0x4, [⟨0, 32, .ro, 0⟩]⟩,
  ⟨Reg.SNAP_AT_MONO_HI, 1, 0x4, 1, 0x4, [⟨0, 32, .ro, 0⟩]⟩,
  ⟨Reg.SNAP_CAUSE, 1, 0x4, 1, 0x4, [⟨16, 16, .ro, 0⟩, ⟨0, 16, .ro, 0⟩]⟩,
  ⟨Reg.SNAP_VALID, 1, 0x4, 1, 0x4, [⟨0, 16, .ro, 0⟩]⟩]

/-- Registers of the SEC window. -/
def rowsSEC : List RegRow := [
  ⟨Reg.SEC_ID, 1, 0x4, 1, 0x4, [⟨16, 16, .ro, 0x5345⟩, ⟨8, 8, .ro, 1⟩, ⟨0, 8, .ro, 0⟩]⟩,
  ⟨Reg.SEC_CTRL, 1, 0x4, 1, 0x4, [⟨31, 1, .w1s, 0⟩, ⟨30, 1, .w1s, 0⟩, ⟨29, 1, .wo, 0⟩, ⟨28, 1, .w1s, 0⟩, ⟨16, 8, .wo, 0⟩]⟩,
  ⟨Reg.SEC_STATUS, 1, 0x4, 1, 0x4, [⟨29, 3, .ro, 0⟩, ⟨28, 1, .ro, 0⟩, ⟨27, 1, .ro, 0⟩, ⟨26, 1, .ro, 0⟩, ⟨25, 1, .ro, 0⟩, ⟨24, 1, .ro, 0⟩, ⟨18, 6, .ro, 0⟩, ⟨12, 6, .ro, 0⟩, ⟨8, 4, .ro, 0⟩]⟩,
  ⟨Reg.SEC_ERR, 1, 0x4, 1, 0x4, [⟨31, 1, .st, 0⟩, ⟨30, 1, .st, 0⟩, ⟨0, 16, .ro, 0⟩]⟩,
  ⟨Reg.SEC_BOOT, 1, 0x4, 1, 0x4, [⟨28, 4, .ro, 0xf⟩, ⟨26, 2, .ro, 0⟩, ⟨0, 16, .ro, 0⟩]⟩,
  ⟨Reg.SEC_KEYSLOTS, 1, 0x4, 1, 0x4, [⟨4, 4, .ro, 0⟩, ⟨0, 4, .ro, 0⟩]⟩,
  ⟨Reg.SEC_LC_CMD, 1, 0x4, 1, 0x4, [⟨24, 8, .wo, 0⟩, ⟨16, 4, .wo, 0⟩, ⟨0, 2, .wo, 0⟩]⟩,
  ⟨Reg.SEC_LC_STATUS, 1, 0x4, 1, 0x4, [⟨16, 3, .ro, 0⟩, ⟨0, 16, .ro, 0⟩]⟩,
  ⟨Reg.SEC_TAMPER, 1, 0x4, 1, 0x4, [⟨31, 1, .ro, 0⟩, ⟨8, 8, .ro, 0xff⟩, ⟨0, 5, .ro, 0⟩]⟩,
  ⟨Reg.SEC_TAMPER_CLR, 1, 0x4, 1, 0x4, [⟨24, 8, .wo, 0⟩, ⟨0, 1, .wo, 0⟩]⟩,
  ⟨Reg.SEC_TAMPER_EN, 1, 0x4, 1, 0x4, [⟨0, 5, .rw, 0x1f⟩]⟩,
  ⟨Reg.SEC_RECOV_LO, 1, 0x4, 1, 0x4, [⟨0, 32, .rw, 0⟩]⟩,
  ⟨Reg.SEC_RECOV_HI, 1, 0x4, 1, 0x4, [⟨0, 32, .rw, 0⟩]⟩,
  ⟨Reg.SEC_RECOV_LEN, 1, 0x4, 1, 0x4, [⟨0, 32, .rw, 0⟩]⟩,
  ⟨Reg.SEC_CFG_DIGEST 0, 8, 0x4, 1, 0x4, [⟨0, 32, .ro, 0⟩]⟩,
  ⟨Reg.SEC_CFG_EVENTS, 1, 0x4, 1, 0x4, [⟨0, 32, .ro, 0⟩]⟩,
  ⟨Reg.SEC_CHALLENGE 0, 8, 0x4, 1, 0x4, [⟨0, 32, .ro, 0⟩]⟩,
  ⟨Reg.SEC_NONCE 0, 8, 0x4, 1, 0x4, [⟨0, 32, .rw, 0⟩]⟩,
  ⟨Reg.SEC_QUOTE 0, 64, 0x4, 1, 0x4, [⟨0, 32, .ro, 0⟩]⟩,
  ⟨Reg.SEC_BURGEE 0, 64, 0x4, 1, 0x4, [⟨0, 32, .ro, 0⟩]⟩,
  ⟨Reg.SEC_TOKEN 0, 48, 0x4, 1, 0x4, [⟨0, 32, .rw, 0⟩]⟩,
  ⟨Reg.SEC_ENDORSE 0, 32, 0x4, 1, 0x4, [⟨0, 32, .rw, 0⟩]⟩]

/-- The rows of the window that holds an address (R743): the 1 MiB page of the address picks the window. -/
def rowsAt (a : Nat) : List RegRow :=
  let p := a / 0x100000
  if p = 0x0 then rowsGLB else
  if p = 0x1 then rowsHIF else
  if p = 0x2 then rowsMSIX else
  if p = 0x4 then rowsDEC else
  if p = 0x5 then rowsSHP else
  if p = 0x6 then rowsNET else
  if p = 0x7 then rowsTIME else
  if p = 8 then rowsSCHED else
  if 0x10 ≤ p ∧ p < 0x14 then rowsCORE else
  if p = 0x18 then rowsSGS else
  if p = 0x19 then rowsPOOL else
  if p = 0x1a then rowsMEM else
  if p = 0x1b then rowsHBM else
  if p = 0x1c then rowsLNK else
  if p = 0x1d then rowsPWR else
  if p = 0x1e then rowsHLTH else
  if p = 0x1f then rowsSNAP else
  if p = 0x20 then rowsSEC else
  []

/-- Does a row hold the address? -/
def RegRow.holds (r : RegRow) (a : Nat) : Bool :=
  let d := a - r.base
  decide (r.base ≤ a) && decide (d / r.s1 < r.n1) &&
    (let e := d % r.s1
     if r.n1 = 1 then decide (d % r.s2 = 0) && decide (d / r.s2 < r.n2)
     else decide (e % r.s2 = 0) && decide (e / r.s2 < r.n2))

/-- The row of an address, if a register lies there (R743, R747). -/
@[irreducible] def rowOf (a : Nat) : Option RegRow := (rowsAt a).find? (·.holds a)

/-- Mask of the fields of some access codes. -/
def RegRow.mask (r : RegRow) (p : Acc → Bool) : Nat :=
  packBits ((r.fields.filter (fun f => p f.acc)).map (fun f => (f.lo, f.w, 2 ^ f.w - 1)))

/-- The reset value of a row's fields. -/
def RegRow.reset (r : RegRow) : Nat := packBits (r.fields.map (fun f => (f.lo, f.w, f.reset)))

end Sys2Proof.Machine
end

