-- ==== Sys2Proof/Machine/RegReset.lean ====
section
/-! DEFINITION. The value every BAR0 register reads after power-on reset (R11, R748, R566, R569, R602): the register
tables' fields, and the entries the tables give by number of an element or by fuses. -/

set_option Elab.async false

namespace Sys2Proof.Machine

/-- Carve of R566: (COUNT, base) of a class. -/
def carve (c : Nat) : Nat × Nat :=
  match c with
  | 0 => (131072, 0x8FC000000)
  | 1 => (65536, 0x8F8000000)
  | 2 => (32768, 0x8F0000000)
  | 3 => (16384, 0x8E0000000)
  | 4 => (8192, 0x8C0000000)
  | 5 => (4096, 0x880000000)
  | 6 => (2048, 0x800000000)
  | _ => (8192, 0)

/-- (LOW_WATER, BACKPRESSURE) of a class at reset, in buffers (R566). -/
def carveThresh (c : Nat) : Nat × Nat :=
  match c with
  | 0 => (8192, 2048)
  | 1 => (4096, 1024)
  | 2 => (2048, 512)
  | 3 => (1024, 256)
  | 4 => (512, 128)
  | 5 => (256, 64)
  | 6 => (128, 32)
  | _ => (512, 128)

/-- The reserve of an owner in a class at reset (R569). -/
def resetReserve (o c : Nat) : Nat :=
  match o, c with
  | 0, 7 => 96
  | 1, 7 => 1024
  | 2, 7 => 256
  | 2, 6 => 128
  | 3, 5 => 1024
  | 4, 5 => 512
  | 5, 7 => 256
  | 6, 4 => 256
  | 7, 5 => 256
  | 8, 2 => 1024
  | 9, 6 => 512
  | _, _ => 0

/-- The reserves of a class at reset, over all owners. -/
def resetReserveSum (c : Nat) : Nat := ((List.range 10).map (fun o => resetReserve o c)).foldl (· + ·) 0

/-- TARGET_NS of an HBM port at reset (R602). -/
def targetNs (p : Nat) : Nat :=
  if p < 8 then 1000 else if p < 16 then 600 else if p < 20 then 4000 else
  if p = 20 then 400 else if p = 21 then 800 else if p = 22 then 2000 else 3000

/-- Choose by class number (the four reset values "of classes 0 to 3 in order" of R563). -/
def of4 (n a b c d : Nat) : Nat := if n = 0 then a else if n = 1 then b else if n = 2 then c else d

/-- What the reset entries given by element number or by fuses add to the table's fields (R308, R358, R563, R594, R624,
R678, R704, R748). -/
def resetExtra (a : Nat) : Nat :=
  if a = Reg.GLB_CHIP then (if Config.fuseGradeE then 1 else 0) <<< 4
  else if a = Reg.GLB_SERIAL_LO then Config.fuseSerial.toNat % 2 ^ 32
  else if a = Reg.GLB_SERIAL_HI then Config.fuseSerial.toNat / 2 ^ 32
  else if a = Reg.PWR_CAP then (if Config.fuseGradeE then 105 else 100) <<< 16
  else if a = Reg.SEC_STATUS then 1 <<< 26  -- DEBUG_OPEN: the debug port is open in BLANK (R706)
  else if a / 0x100000 = 0x06 then
    let i := (a - Reg.NET_PORT_CFG 0) / 0x40
    if a = Reg.NET_PORT_MAC_LO i ∧ i < 2 then (Config.fuseMac i).toNat % 2 ^ 32
    else if a = Reg.NET_PORT_MAC_HI i ∧ i < 2 then (Config.fuseMac i).toNat / 2 ^ 32
    else 0
  else if a / 0x100000 = 0x08 then
    let n := (a - Reg.SCHED_CLS_CFG 0) / 0x20
    if 4 ≤ n then 0
    else if a = Reg.SCHED_CLS_CFG n then of4 n 5 6 3 2
    else if a = Reg.SCHED_CLS_WAYS n then of4 n 0x000F 0x03F0 0x3C00 0xC000
    else if a = Reg.SCHED_CLS_PCH_LO n then of4 n 0x0000FFFF 0xFFFF0000 0 0
    else if a = Reg.SCHED_CLS_PCH_HI n then of4 n 0 0x000000FF 0x00FFFF00 0xFF000000
    else if a = Reg.SCHED_CLS_CORES n then of4 n 20 24 12 8
    else 0
  else if 0x1000000 ≤ a ∧ a < 0x1400000 then
    let c := (a - 0x1000000) / 0x10000
    if a = Reg.CORE_LOC c then (c / 8) <<< 8 + c else 0
  else if a / 0x100000 = 0x19 then
    if a < Reg.POOL_OWN_CFG 0 then
      let c := (a - Reg.POOL_CLS_CFG 0) / 0x40
      if a < Reg.POOL_CLS_CFG 0 ∨ 8 ≤ c then 0
      else if a = Reg.POOL_CLS_BASE_LO c then (carve c).2 % 2 ^ 32
      else if a = Reg.POOL_CLS_BASE_HI c then (carve c).2 / 2 ^ 32
      else if a = Reg.POOL_CLS_COUNT c then (carve c).1
      else if a = Reg.POOL_CLS_THRESH c then ((carveThresh c).1 / 16) <<< 16 + (carveThresh c).2 / 16
      else if a = Reg.POOL_CLS_FREE c then (carve c).1
      else if a = Reg.POOL_CLS_HEADROOM c then (carve c).1 - resetReserveSum c
      else 0
    else
      let o := (a - Reg.POOL_OWN_CFG 0) / 0x80
      let c := (a % 0x20) / 4
      if a = Reg.POOL_OWN_CFG o then (if o = 0 ∨ o = 9 then 0x80000000 else 0)
      else if a = Reg.POOL_OWN_RES o c then resetReserve o c
      else 0
  else if a / 0x100000 = 0x1B then
    if a = Reg.HBM_RNK_STATE 5 then 1
    else
      let p := (a - Reg.HBM_PORT_CFG 0) / 0x10
      if a = Reg.HBM_PORT_CFG p ∧ p < 24 then targetNs p else 0
  else if a / 0x100000 = 0x1E then
    let g := (a - Reg.HLTH_GRP_BASE 0) / 0x10
    if a = Reg.HLTH_GRP_BASE g ∧ g < 12 then (Config.fuseVBase g).toNat
    else if a = Reg.HLTH_GRP_SET g ∧ g < 12 then (Config.fuseSetMv g).toNat
    else 0
  else 0

/-- The value of a register after power-on reset; an address with no register reads 0 (R17). -/
@[irreducible] def regReset (a : Nat) : BitVec 32 :=
  match rowOf a with
  | none => 0
  | some r => BitVec.ofNat 32 (r.reset + resetExtra a)

end Sys2Proof.Machine
end

