-- ==== Sys2Proof/Machine/HifState.lean ====
section
/-! DEFINITION. State behind the registers of the host endpoint, the journal, the record file, the snapshot and the device
time (chapters 02, 03, 05 and 18): plain data. -/

set_option Elab.async false

namespace Sys2Proof.Machine

/-- A time stamp as a pennant carries it (R35): low 48 bits of seconds, nanoseconds, quarter-nanosecond class. -/
structure Stamp where
  sec : Nat := 0
  ns : Nat := 0
  sub : Nat := 0
  deriving DecidableEq, Repr

/-- What a pennant answers, which decides its emit record and journal rewrite (R119, R122). -/
inductive PnKey where
  /-- names no command and belongs to no frame (R122) -/
  | device
  /-- the ERROR that refuses a slot of a command ring (R77) -/
  | refusal (cring : Nat)
  /-- pennant of a stream frame (KIND 0); `au` is the journal index of the AU_SUBMIT that carried it, none for live -/
  | frame (stream seq : Nat) (au : Option Nat)
  /-- pennant of a command's own job (KIND 1), by JOURNAL_INDEX -/
  | cmd (jidx : Nat)
  deriving DecidableEq, Repr

/-- The place of a pennant in the order of its ring (R27, R28, R285). -/
inductive PnLine where
  /-- ordered against no other pennant -/
  | free
  /-- of a frame: its stream, or 128 × (owner + 1) + stream for a stream of another device, and FRAME_SEQ (R27, R643) -/
  | frame (scope seq : Nat)
  /-- of a command's own job, by JOURNAL_INDEX: its EMIT nodes write in ascending ROUTE_NODE order (R285) -/
  | cmd (jidx : Nat)
  deriving DecidableEq, Repr

/-- A pennant that waits for EGR (R34, R35).  RING_SEQ, PRING, DEV_ID, SEQ_GAP and REPLAYED are added when it is written. -/
structure Pn where
  ty : Nat
  flags : Nat := 0
  stream : Nat := 0
  svc : Nat := 0
  job : Nat := 0
  frame : Nat := 0
  pts : Nat := 0
  ct : Stamp := {}
  stn : Nat := 9
  inst : Nat := 0xFF
  node : Nat := 0xFFFF
  /-- DEV_ID other than this device's own: the owner of a job that a received tile started (R643) -/
  dev : Option Nat := none
  err : Nat := 0
  body : Nat := 0
  exts : List Nat := []
  key : PnKey := .device
  /-- the DONE or ERROR that ends its command and rewrites the journal entry (R119) -/
  final : Bool := false
  line : PnLine := .free
  /-- age ticket of its job, or of the moment it fell due (R29, R544, R549) -/
  ticket : Nat := 0
  /-- produced by work that was re-executed after a fault (R40) -/
  rerun : Bool := false
  deriving DecidableEq, Repr

/-- A checked slot that waits for its acceptance (R113). -/
structure WaitSlot where
  slot : BitVec 512
  deriving DecidableEq, Repr

/-- Command ring state behind its registers (R72 to R86). -/
structure CRing where
  /-- a poll read is outstanding (R83) -/
  polling : Bool := false
  /-- re-reads made of a torn slot; none when no torn slot is pending (R74) -/
  torn : Option Nat := none
  /-- the slot whose checks passed and that waits for its acceptance (R113) -/
  wait : Option WaitSlot := none
  /-- µs the ring has been empty, counted in poll intervals since the last taken slot (R83) -/
  idleUs : Nat := 0
  /-- the next read is issued at once: it follows a taken slot or the enable, not an interval (R83) -/
  atOnce : Bool := true
  deriving DecidableEq, Repr

/-- Pennant ring state behind its registers (R87 to R101). -/
structure PRing where
  /-- ready pennants, in the order they are to be written (R27, R28) -/
  ready : List Pn := []
  /-- the last CONSUMED read since the enable (R93, R95) -/
  cons : Option Nat := none
  /-- an episode of a full ring is in progress: it ends when this many blocks are free (R94) -/
  stalled : Option Nat := none
  /-- its next pennant waits for a position of the emit log: an episode with the effects of a full ring (R123) -/
  logStall : Bool := false
  /-- unannounced pennants (R99) -/
  unann : Nat := 0
  /-- the timer runs since the first unannounced pennant was written (R99) -/
  timer : Bool := false
  /-- last committed RING_SEQ at the start of a recovery (R125) -/
  committed : Nat := 0
  /-- RCV_SUPPRESSED, RCV_REWRITTEN and the lowest suppressed RING_SEQ of the present recovery (R127) -/
  suppressed : Nat := 0
  rewritten : Nat := 0
  firstSupp : Nat := 0
  /-- key, type and node of a result of which a PARTIAL pennant was written last: its next piece follows (R28, R49) -/
  mid : Option (PnKey × Nat × Nat) := none
  deriving DecidableEq, Repr

/-- An entry of the address translation cache (R63): page, translated page, writable. -/
structure AtcEntry where
  page : Nat
  phys : Nat
  write : Bool
  deriving DecidableEq, Repr

/-- An Invalidate Request held until the requests that used its entries have completed (R64). -/
structure Inval where
  tag : Nat
  page : Nat
  npages : Nat
  deriving DecidableEq, Repr

/-- Host endpoint (chapter 02). -/
structure Hif where
  crings : Tbl CRing := []
  prings : Tbl PRing := []
  /-- device-level pennants that wait for the service ring, oldest first, at most 1,024 (R97) -/
  svcQueue : List Pn := []
  /-- where the next tie of due poll reads starts (R86) -/
  rrPoll : Nat := 0
  /-- latched _HI values, by the _HI register's address (R62) -/
  hiLatch : Tbl (Option (BitVec 32)) := []
  atc : List AtcEntry := []
  /-- pages with a Translation Request in flight, and those whose returned translation is void (R64) -/
  xlate : List Nat := []
  xlateVoid : List Nat := []
  invals : List Inval := []
  /-- poisoned reads: (access, address, re-reads made) (R750) -/
  poison : List (HostAccess × Nat × Nat) := []
  /-- healthy PCIe lanes 0 to 15, as the links trained width last saw them (R51) -/
  lanesBad : List Nat := []
  /-- PCI configuration space by dword offset; a dword not listed holds its reset value (R53, R54) -/
  cfg : Tbl (BitVec 32) := []
  /-- PMCSR PowerState: false D0, true D3hot (R54, R688) -/
  d3hot : Bool := false
  /-- SEQ_GAP pending, at stream * 64 + ring: FRAME_SEQs from which the next pennant carries it (R30) -/
  gaps : Tbl (List Nat) := []
  deriving DecidableEq, Repr

/-- STATE of a journal entry (R118). -/
inductive EntrySt where
  | free | accepted | held | released
  deriving DecidableEq, Repr

/-- A journal entry (R118). -/
structure Entry where
  st : EntrySt := .free
  jidx : Nat := 0
  slot : BitVec 512 := 0
  ring : Nat := 0
  slotIdx : Nat := 0
  acceptSeq : Nat := 0
  doneSeq : Nat := 0
  /-- FRAME_SEQ of an AU_SUBMIT's frame: the link the mirror keeps beside the log (R123) -/
  fseq : Option Nat := none
  /-- its access unit was found to be a random access point: kept in the mirror (R120) -/
  rap : Bool := false
  deriving DecidableEq, Repr

/-- An emit record (R122), with the AU_SUBMIT that carried its frame, kept beside the log (R123). -/
structure EmitRec where
  ringSeq : Nat
  keySeq : Nat
  pring : Nat
  kind1 : Bool
  stream : Nat
  ordinal : Nat
  au : Option Nat := none
  /-- it belongs to an earlier opening of its stream, so no pennant regenerates it (R26, R125) -/
  old : Bool := false
  deriving DecidableEq, Repr

/-- An accepted command that has not ended (R105, R110). -/
structure Cmd where
  jidx : Nat
  slot : BitVec 512
  ring : Nat
  slotIdx : Nat
  /-- device time and TIME_MONO at acceptance (R70, R155, R306) -/
  ct : Stamp
  mono : Nat
  /-- pennants written for its job, its ACCEPT and DONE aside (R44) -/
  records : Nat := 0
  /-- its access unit was a random access point (R120) -/
  rap : Bool := false
  /-- its final pennant waits to be written -/
  ended : Bool := false
  /-- it has taken its first effect and waits for a drain, a load, an open or a bind (R146, R151, R302 to R304) -/
  waiting : Bool := false
  /-- it is re-executed by a recovery: its pennants written as new carry REPLAYED (R126) -/
  replay : Bool := false
  /-- FRAME_SEQ its frame had before the recovery, when the mirror or the log tells it (R123) -/
  fseq : Option Nat := none
  /-- a STREAM_BIND: the stream's next FRAME_SEQ when it was accepted (R21) -/
  mark : Nat := 0
  /-- a STREAM_CLOSE: JOURNAL_INDEX of the STREAM_OPEN that it closes (R120) -/
  opened : Option Nat := none
  /-- host reads in progress: address, length, and the pages whose translation is awaited (R63, R64) -/
  reads : List (Nat × Nat × List Nat) := []
  deriving DecidableEq, Repr

/-- Journal and recovery (chapter 03). -/
structure Jrnl where
  /-- the journal mirror, by JOURNAL_INDEX mod the array size -/
  entries : Tbl Entry := []
  nextIdx : Nat := 0
  /-- the emit log by position -/
  log : Tbl (Option EmitRec) := []
  logPos : Nat := 0
  /-- an enable latched during DRAINING (R116) -/
  latched : Bool := false
  /-- next ORDINAL of a key and ring: ((kind1, keySeq, stream, pring), count) (R122) -/
  ordinals : List ((Bool × Nat × Nat × Nat) × Nat) := []
  cmds : List Cmd := []
  /-- RCV_ENTRIES of the present recovery (R127) -/
  reexecuted : Nat := 0
  /-- the mirror is being rebuilt (R134) -/
  rebuilding : Bool := false
  /-- the region was reached at the last access (R116 JRNL_OK) -/
  reachable : Bool := true
  /-- the guarantee has ended until an enable with RECOVER 0 (R136) -/
  breached : Bool := false
  deriving DecidableEq, Repr

/-- An entry of the record file (R657). -/
structure Rec where
  valid : Bool := false
  code : Nat := 0
  count : Nat := 0
  block : Nat := 0
  inst : Nat := 0
  d0 : Nat := 0
  d1 : Nat := 0
  first : Nat := 0
  last : Nat := 0
  deriving DecidableEq, Repr

/-- What a self-test was started for (R666). -/
structure UnitId where
  kind : Nat
  unit : Nat
  deriving DecidableEq, Repr

/-- Health and ageing (chapter 18). -/
structure Hlth where
  recs : Tbl Rec := []
  recFull : Bool := false
  /-- units whose self-test runs (R666) -/
  testing : List UnitId := []
  /-- the fenced-core warning has been given for this crossing (R665) -/
  warned : Bool := false
  /-- monitors measured by the plan that runs (R669) -/
  measured : List Nat := []
  /-- last measured degradation of a monitor, none when invalid (R667, R668) -/
  monitors : Tbl (Option Int) := []
  /-- times (TIME_MONO) of recent decoder-cache parity and track-store errors of a unit, by kind*64+unit (R661) -/
  unitErrs : Tbl (List Nat) := []
  /-- cores that have had one uncorrectable tile-store or accumulator error (R661) -/
  coreErr : List Nat := []
  /-- TIME_MONO at which the plan that waits for an idle moment fell due (R671) -/
  planDue : Nat := 0
  deriving DecidableEq, Repr

/-- Snapshot (R673 to R676): the latched window by BAR0 address. -/
structure Snap where
  window : Tbl (BitVec 32) := []
  /-- TIME_MONO of the boundary of the held hoist -/
  heldMono : Nat := 0
  /-- TIME_MONO of the last ARM: a source of the same AON tick counts as missed (R675) -/
  armMono : Option Nat := none
  /-- TIME_MONO of the last edge taken on SNAP_IN, in ns (R674) -/
  lastEdge : Option Nat := none
  /-- device times in ns before and after the last clock step (R676) -/
  jump : Option (Nat × Nat) := none
  deriving DecidableEq, Repr

/-- A programmed step of the device clock waiting for the next AON tick (R219, R220). -/
inductive ClockStep where
  /-- to the TIME_SET values -/
  | toSet
  /-- by the servo, by minus this offset in ns (R225) -/
  | byOffset (offset : Int)
  deriving DecidableEq, Repr

/-- A master of the best master algorithm (R222): its Announce data, on one port. -/
structure PtpMaster where
  port : Nat
  identity : Nat
  /-- grandmaster identity, and the comparison key of IEEE 1588 data sets (lower is better) -/
  gm : Nat
  rank : Nat
  steps : Nat
  domain : Nat
  /-- its announce interval, and TIME_MONO of its last Announce, in ns (R221) -/
  interval : Nat
  heard : Nat
  deriving DecidableEq, Repr

/-- Device time (R216 to R231). -/
structure Time where
  sec : Nat := 0
  ns : Nat := 0
  /-- fraction of a nanosecond in units of 2^-64 ns; its top 16 bits are TIME_CLK_FRAC (R216) -/
  frac : Nat := 0
  /-- increment per AON tick in units of 2^-64 ns (R216) -/
  incr : Nat := 40 * 2 ^ 64
  mono : Nat := 0
  step : Option ClockStep := none
  integral : Int := 0
  /-- consecutive updates inside, outside LOCK_THR and beyond STEP_THR (R225) -/
  inThr : Nat := 0
  outThr : Nat := 0
  overStep : Nat := 0
  /-- the last 16 servo RATE values, newest first (R225) -/
  rates : List Int := []
  masters : List PtpMaster := []
  gm : Option Nat := none
  /-- last delay exchanges in ns, newest first, at most 8 (R223) -/
  delays : List Int := []
  /-- the mean path delay in ns (R223) -/
  meanDelay : Int := 0
  /-- TIME_MONO of the last Sync -/
  lastSync : Option Nat := none
  /-- armed outputs, by k: next pulse time in ns since the epoch, none when off (R226) -/
  outs : Tbl (Option Nat) := []
  /-- outputs armed in the tick of a step, to be evaluated after it (R227) -/
  arms : List Nat := []
  /-- TIME_MONO at which the last pulse of an output ends (R226) -/
  pulseEnd : Tbl Nat := []
  /-- TIME_MONO of the last edge stamped on an input, in ns (R229) -/
  lastEdge : Tbl (Option Nat) := []
  /-- TIME_MONO of the last periodic TIME pennant (R230) -/
  lastStatus : Nat := 0
  deriving DecidableEq, Repr

end Sys2Proof.Machine
end

