-- ==== Sys2Proof/Machine/SgsState.lean ====
section
/-! DEFINITION. State of the set and graph stations (chapter 13): plain data. -/

set_option Elab.async false

namespace Sys2Proof.Machine

/-- A position–velocity filter (R517): FP32 codes. -/
structure Filt where
  p : Nat
  v : Nat
  a : Nat
  b : Nat
  c : Nat
  deriving DecidableEq, Repr

/-- A live track (R514 to R521). -/
structure Track where
  id : Nat
  /-- 0 tentative, 1 confirmed, 2 coasting, 3 retired -/
  state : Nat
  hits : Nat
  misses : Nat := 0
  age : Nat := 0
  cx : Filt
  cy : Filt
  w : Filt
  h : Filt
  score : Nat
  cls : Nat
  /-- FRAME_SEQ of the last association, and of the last prediction (R45, R518) -/
  lastSeq : Nat
  predSeq : Nat
  /-- IDENTITY_ID, 0 when no re-identification applies (R524) -/
  ident : Nat := 0
  deriving DecidableEq, Repr

/-- An identity of a gallery (R524): its embedding as FP16 codes. -/
structure Identity where
  id : Nat
  emb : List Nat
  upd : Nat
  deriving DecidableEq, Repr

/-- The tracks and the gallery of a stream (R514, R524). -/
structure TrackSt where
  tracks : List Track := []
  nextId : Nat := 1
  gallery : List Identity := []
  nextIdent : Nat := 1
  deriving DecidableEq, Repr

/-- A hash set of an HSET node (R506). -/
structure SgsSet where
  node : Nat
  cap : Nat
  keys : List Nat := []
  /-- its pool buffers of owner 6: class and indices -/
  bufs : Nat × List Nat
  deriving DecidableEq, Repr

/-- What a frame checkpoint holds of SGS (R131, R506, R514, R524): the tracks after a frame, when the frame had a TRACK step, and the
keys of each set it touched. -/
structure SgsPart where
  trk : Option TrackSt := none
  sets : List (Nat × List Nat) := []
  deriving DecidableEq, Repr

/-- A stream bound to a station (R488). -/
structure SgsStream where
  trk : TrackSt := {}
  sets : List SgsSet := []
  /-- the gallery's pool buffers of owner 6: class and indices -/
  gal : Nat × List Nat := (0, [])
  /-- FRAME_SEQ of its first frame under the present binding -/
  first : Nat := 0
  /-- frames with DISCONT whose TRACK step is still to come (R516) -/
  disc : List Nat := []
  /-- the station it moves to; 4 when none is up (R491) -/
  movingTo : Option Nat := none
  deriving DecidableEq, Repr

/-- An operation that has started in a unit of a station (R487, R490): 0 list, 1 assignment, 2 track, 3 graph. -/
structure SgsOp where
  station : Nat
  unit : Nat
  job : Nat
  node : Nat
  deriving DecidableEq, Repr

/-- The stations. -/
structure SgsSt where
  streams : Tbl SgsStream := []
  ops : List SgsOp := []
  deriving DecidableEq, Repr

end Sys2Proof.Machine
end

