-- ==== Sys2Proof/Machine/StreamState.lean ====
section
/-! DEFINITION. State behind the registers of decode, ingest and shaping (chapters 01, 04, 05, 06): plain data. -/

set_option Elab.async false

namespace Sys2Proof.Machine

/-- A stream's route and class (R21, R279). -/
structure Binding where
  prog : Nat
  route : Nat
  svc : Nat
  deriving DecidableEq, Repr

/-- A frame or access unit of a stream (R26). -/
structure Frame where
  seq : Nat
  /-- journal index of the AU_SUBMIT that carried it; none for a live stream (R37) -/
  au : Option Nat
  ct : Stamp
  /-- monotonic stamp (R155, R211) -/
  mono : Nat
  pts : Nat
  /-- HOST_TS and SW_TIMESTAMP of its pennants (R40) -/
  flags : Nat := 0
  bytes : Nat := 0
  discont : Bool := false
  eos : Bool := false
  /-- its access unit is complete in device memory (R155) -/
  ready : Bool := false
  /-- dropped as oversize by NET (R209) -/
  oversize : Bool := false
  /-- closed because its age passed the bound (R215) -/
  stale : Bool := false
  /-- what the merged packets of a live frame carry: the packets' extended numbers and parts (R209) -/
  parts : List (Nat × RtpPart) := []
  /-- luma lines of an ST 2110-20 frame whose samples arrived whole (R209) -/
  lines : List Nat := []
  /-- pool buffers that hold its access unit or its packets: owner's class and indices -/
  bufs : Option (Nat × List Nat) := none
  bind : Binding
  deriving DecidableEq, Repr

/-- An activity-map cell (R171). -/
structure Cell where
  mvx : Int := 0
  mvy : Int := 0
  resid : Nat := 0
  concealed : Bool := false
  intra : Bool := false
  skip : Bool := false
  active : Bool := false
  valid : Bool := true
  deriving DecidableEq, Repr

/-- The record of a sample (R261). -/
structure SampleRec where
  /-- owning device -/
  dev : Nat := 0
  stream : Nat
  svc : Nat
  frame : Nat
  pts : Nat
  ct : Stamp
  objIndex : Nat := 0xFFFF
  trackId : Nat := 0
  sflags : Nat := 0
  /-- the affine map M00, M01, M02, M10, M11, M12 as FP32 codes -/
  m : List Nat := []
  slot : Nat := 0
  au : Option Nat := none
  deriving DecidableEq, Repr

/-- A sample of a batch (R255, R260). -/
structure Sample where
  rcd : SampleRec
  complete : Bool := false
  standIn : Bool := false
  /-- the picture's map for gating: width, height and the cells ACTIVE after dilation; none when every tile is issued (R176,
  R177, R294) -/
  gate : Option (Nat × Nat × List Bool) := none
  /-- channels of the pixels shaped so far, in row-major order (R237) -/
  px : List (List Nat) := []
  /-- the stored codes in layout order, once every pixel is shaped -/
  data : List Nat := []
  deriving DecidableEq, Repr

/-- The node a batch belongs to. -/
structure NodeKey where
  prog : Nat
  route : Nat
  node : Nat
  deriving DecidableEq, Repr

/-- A kept sample (R263). -/
structure Kept where
  stream : Nat
  key : NodeKey
  sample : Sample
  /-- its pool buffers of owner 5: class and indices -/
  bufs : Nat × List Nat := (0, [])
  deriving DecidableEq, Repr

/-- A reference picture held for a stream (R157, R160). -/
structure RefPic where
  seq : Nat
  tainted : Bool := false
  concealed : Bool := false
  /-- its pool buffers of class 7 (R157) -/
  bufs : List Nat := []
  /-- its samples and its activity map, from which lost cells are concealed (R166) -/
  pix : Picture := {}
  cells : List Cell := []
  deriving DecidableEq, Repr

/-- A stream's frame checkpoint (R160). -/
structure Ckpt where
  seq : Nat
  seqHdr : Option SeqClaim
  refs : List RefPic
  /-- the most recent decoded picture (R167, R173) -/
  last : Option RefPic := none
  sparse : Nat
  /-- samples kept from this frame, and whether its DISCONT discarded those before (R263) -/
  kept : List Kept := []
  cut : Bool := false
  /-- the part of SGS -/
  sgs : SgsPart := {}
  /-- its pool buffer of owner 9 (R160, R569) -/
  buf : Option Nat := none
  deriving DecidableEq, Repr

/-- One stream context (R21, R142 to R151). -/
structure Stream where
  /-- counts as open for R77: from the acceptance of STREAM_OPEN to that of STREAM_CLOSE -/
  isOpen : Bool := false
  contract : Option (BitVec 512) := none
  /-- JOURNAL_INDEX, JOB_ID of the STREAM_OPEN that took effect (R37) -/
  openJidx : Option Nat := none
  openJob : Nat := 0
  /-- tag, slot index and ring of the STREAM_OPEN that took effect (R37) -/
  openName : Nat × Nat × Nat := (0, 0, 0)
  /-- the STREAM_OPEN that waits behind a close (R146) -/
  waitOpen : Option (Nat × BitVec 512) := none
  bind : Option Binding := none
  nextFrame : Nat := 0
  /-- the code that halted the stream (R150, R164) -/
  haltCode : Nat := 0
  /-- code and ring of the STREAM_OPEN that failed, for what was accepted behind it (R151) -/
  failCode : Nat := 0
  failRing : Nat := 0
  /-- and its DETAIL0 and DETAIL1 -/
  failD0 : Nat := 0
  failD1 : Nat := 0
  /-- frames not yet decoded, in decode order -/
  frames : List Frame := []
  refs : List RefPic := []
  /-- the most recent decoded picture, since DISCONT, EOS or STREAM_OPEN (R149, R167, R173) -/
  last : Option RefPic := none
  seqHdr : Option SeqClaim := none
  /-- pool buffers of class 7 drawn for the active sequence (R158) -/
  bufs : List Nat := []
  /-- buffers of the sequences before, while a picture still references them (R158) -/
  oldBufs : List Nat := []
  /-- buffers committed at STREAM_OPEN (R158, R572) -/
  committed : Nat := 0
  /-- no picture from this FRAME_SEQ on has references before it: that of a DISCONT, or the one after an EOS (R149) -/
  refsFrom : Option Nat := none
  /-- the next picture is issued whole: first after STREAM_OPEN, DISCONT or a resumption (R177) -/
  forceNext : Bool := true
  /-- FRAME_SEQ of the last picture whose tiles were all issued (R177) -/
  lastFull : Nat := 0
  ckpt : Option Ckpt := none
  /-- checkpoints of decoded pictures whose pennants are not all posted, in decode order (R160) -/
  cks : List Ckpt := []
  /-- the checkpoint could not be drawn: the stream rebuilds from its HELD access units (R577) -/
  rebuild : Bool := false
  /-- the STREAM_CLOSE in lehr (R145) -/
  closing : Option Nat := none
  /-- the engine it moves to (R187) -/
  movingTo : Option Nat := none
  /-- STATE before MOVING -/
  prior : Nat := 1
  /-- frames of a live stream up to this FRAME_SEQ are work re-executed after a reset (R126, R131) -/
  replayTo : Option Nat := none
  deriving DecidableEq, Repr

/-- A picture in an engine, or decoded and still read by its route. -/
structure Pic where
  stream : Nat
  frame : Frame
  info : PicInfo
  w : Nat
  h : Nat
  /-- DCLK cycles of R152 -/
  cycles : Nat := 0
  rowsDone : Nat := 0
  /-- block rows handed over to SHP (R153) -/
  rowsPassed : Nat := 0
  /-- cells and samples of the block row that is filtered and not yet handed over -/
  held : List Cell × Planes := ([], {})
  /-- DCLK cycle at which the last block row finished filtering (R153) -/
  rowCycle : Nat := 0
  /-- DECODE's thresholds MV_THR and RESID_THR of its binding (R174) -/
  thr : Nat × Nat := (0, 0)
  cells : List Cell := []
  /-- samples of the block rows handed over -/
  pix : Picture := {}
  /-- its own buffers among those of the active sequence (R157, R158) -/
  own : List Nat := []
  /-- it has no references before this FRAME_SEQ (R149) -/
  refsFrom : Option Nat := none
  /-- the reference pictures held when it starts, and the most recent decoded picture (R166, R167) -/
  pool : List RefPic := []
  prev : Option RefPic := none
  concealed : Bool := false
  tainted : Bool := false
  unusable : Bool := false
  /-- decoded for reference only (R170) -/
  refOnly : Bool := false
  /-- every tile is issued, whatever the map says (R177) -/
  forced : Bool := false
  noPrev : Bool := false
  /-- nothing is decoded from it (R148) -/
  empty : Bool := false
  /-- pool buffers of its activity map and its analysis copy, while held: class and indices (R175, R238) -/
  mapBuf : Option (Nat × List Nat) := none
  copyBuf : Option (Nat × List Nat) := none
  done : Bool := false
  deriving DecidableEq, Repr

/-- The pool buffers that a picture holds for its route. -/
def Pic.bufs (p : Pic) : List (Nat × List Nat) := p.mapBuf.toList ++ p.copyBuf.toList

/-- A DEC engine behind its registers (R152 to R159). -/
structure Engine where
  cur : Option Pic := none
  /-- the choice made during the last two block rows (R154) -/
  chosen : Option Pic := none
  deriving DecidableEq, Repr

/-- Decode (chapter 04). -/
structure Dec where
  engines : Tbl Engine := []
  /-- decoded pictures that their routes still read -/
  pics : List Pic := []
  deriving DecidableEq, Repr

/-- One path of a flow (R201 to R204). -/
structure Path where
  /-- another SSRC that arrives without interruption, with the TIME_MONO of its first packet (R200) -/
  ssrcAlt : Option (Nat × Nat) := none
  /-- highest extended sequence number arrived -/
  high : Option Nat := none
  /-- TIME_MONO of its last packet, or of the enable (R204) -/
  lastAt : Nat := 0
  /-- it has been declared lost or silent -/
  down : Bool := false
  deriving DecidableEq, Repr

/-- An ingest flow behind its registers (R195 to R209). -/
structure Flow where
  ssrc : Option Nat := none
  pathA : Path := {}
  pathB : Path := {}
  /-- extended RTP sequence numbers that have arrived, of the last 2^15 -/
  seen : List Nat := []
  /-- numbers missing on both paths, with the TIME_MONO of the first arrival of a higher one (R202) -/
  missing : List (Nat × Nat) := []
  /-- numbers declared lost for the flow -/
  lost : List Nat := []
  /-- first arrivals that wait for their copy on the other path: (number, on path B, TIME_MONO) (R203) -/
  firsts : List (Nat × Bool × Nat) := []
  /-- leads of A over B in ns over the last 256 packets that arrived on both, newest first (R203) -/
  leads : List Int := []
  /-- the frame in reassembly: RTP timestamp and FRAME_SEQ; no FRAME_SEQ while its packets are discarded (R151, R205) -/
  cur : Option (Nat × Option Nat) := none
  /-- frames whose stamps wait for the software handler, oldest first: stream and FRAME_SEQ (R212) -/
  swWait : List (Nat × Nat) := []
  /-- extended number of the packet that opened the frame, and whether it came on path B (R201, R210) -/
  opener : Nat × Bool := (0, false)
  /-- RTP timestamp and PTS of the last frame opened (R206, R207) -/
  lastTs : Option Nat := none
  lastPts : Option Nat := none
  /-- timestamps of closed frames, newest first -/
  closedTs : List Nat := []
  /-- the next frame follows DISCONT (R149, R198, R200) -/
  discont : Bool := true
  /-- paths whose second unsolicited report is due, true for path B, with the TIME_MONO of the first (R193) -/
  report2 : List (Bool × Nat) := []
  deriving DecidableEq, Repr

/-- A flow whose merge and frames begin anew: for a stream that is bound to it, or a new SSRC (R197, R200). -/
def Flow.afresh (x : Flow) : Flow :=
  { ssrc := x.ssrc, pathA := { down := x.pathA.down, lastAt := x.pathA.lastAt }, pathB := { down := x.pathB.down, lastAt := x.pathB.lastAt }
    report2 := x.report2 }

/-- An Ethernet port behind its registers. -/
structure EthPort where
  lanesBad : List Nat := []
  /-- lanes in use -/
  inUse : Nat := 0
  negotiating : Bool := false
  deriving DecidableEq, Repr

/-- Ethernet ingest (chapter 05). -/
structure Net where
  ports : Tbl EthPort := []
  flows : Tbl Flow := []
  deriving DecidableEq, Repr

/-- A batch of a shaper (R255 to R260). -/
structure Batch where
  key : NodeKey
  shp : Nat
  svc : Nat
  seq : Nat
  n : Nat
  samples : List Sample := []
  /-- CLOSE_CAUSE once closed (R260) -/
  closed : Option Nat := none
  dispatched : Bool := false
  /-- TIME_MONO of the first slot -/
  first : Nat := 0
  /-- pool buffers of owner 5 when DEST is 2: class and indices -/
  bufs : Option (Nat × List Nat) := none
  /-- the core whose tile store holds it when DEST is 1, and its bytes there (R239) -/
  core : Option Nat := none
  room : Nat := 0
  /-- its bytes at the destination, once dispatched (R260) -/
  image : List Nat := []
  deriving DecidableEq, Repr

/-- Input shapers (chapter 06). -/
structure Shp where
  batches : List Batch := []
  /-- next BATCH_SEQ: (node, shaper, class, value) (R255) -/
  seqs : List (NodeKey × Nat × Nat × Nat) := []
  kept : List Kept := []
  /-- shapers stalled for room at the destination, and for lines that hold source rows (R237, R240) -/
  stalled : List Nat := []
  rowStall : List Nat := []
  deriving DecidableEq, Repr

end Sys2Proof.Machine
end

