-- ==== Sys2Proof/Machine/JobState.lean ====
section
/-! DEFINITION. State of jobs, their nodes' outputs, the tile jobs, the cores and the scheduler (chapters 07, 08, 11, 14): plain
data. -/

set_option Elab.async false

namespace Sys2Proof.Machine

/-- An output matrix: rows of element codes in a format of R311, with block scales when it has them (R319 to R321). -/
structure Tensor where
  fmt : Nat
  cols : Nat
  rows : List (List Nat)
  scales : List (List Nat) := []
  /-- rows of one sample when M_BATCH is 1, else all rows -/
  unit : Nat
  /-- rows that gating left absent (R295) -/
  absent : List Nat := []
  /-- the output scale the epilogue applied, an FP32 code (R356) -/
  scale : Nat := 0x3F800000
  deriving DecidableEq, Repr

/-- The lists of an SGS node (R492): one per sample, its elements as stored bits. -/
structure NodeList where
  /-- the elements of `lists` are track elements, else boxes -/
  isTrack : Bool := false
  lists : List (List Nat)
  /-- the track lists of a TRACK node beside its detection lists (R523, R530), and which of their elements come from
  propagation (R525) -/
  tracks : Option (List (List Nat)) := none
  prop : List (List Nat) := []
  /-- elements cut off each list (TRUNC) -/
  trunc : List Nat := []
  /-- the decoded picture size of the stream's active sequence (R494) -/
  size : Nat × Nat := (0, 0)
  deriving DecidableEq, Repr

/-- What a node of a job holds once its output is committed (R347). -/
inductive NodeOut where
  | none
  /-- DECODE: the activity map of R171 -/
  | map (w h : Nat) (cells : List Cell) (noPrev : Bool)
  /-- SHAPE or CROP_RESIZE: the samples of the dispatched batch, or the job's crop samples -/
  | batch (shp : Nat) (seq : Nat) (samples : List Sample)
  /-- GATHER: the bytes of its plan entry -/
  | bytes (data : List Nat)
  | tensor (t : Tensor)
  | lists (l : NodeList)
  deriving DecidableEq, Repr

/-- The grid of a core node: its tile jobs and what must happen before its output is whole (R289, R401, R446, R458, R477). -/
structure Grid where
  m : Nat
  n : Nat
  tm : Nat
  mb : Nat
  nb : Nat
  order : Nat := 0
  /-- the tile jobs run on the marver -/
  marver : Bool := false
  /-- a fold follows the tiles (R401) -/
  fold : Bool := false
  /-- passes over the tiles: 2 for a two-pass entry or a folded NORM, 3 for a folded SOFTMAX (R411, R415, R446); hold mode
  (R447) -/
  passes : Nat := 1
  hold : Bool := false
  /-- accumulator blocks of the long-lived hold of a row block (R447, R456) -/
  blocks : Nat := 0
  /-- steps of a row block of CHAIN (R455), or the spectrum jobs of CONV_FFT (R477) -/
  steps : Nat := 0
  spectra : Nat := 0
  deriving DecidableEq, Repr

/-- A node of a job. -/
structure NodeSt where
  /-- it has entered its issue queue (R278) -/
  queued : Bool := false
  /-- its instruction has run: its result is in `out`, not yet readable -/
  ran : Bool := false
  out : NodeOut := .none
  /-- samples of its output: COUNT of R288, their records when they come from a batch, and which are the job's own -/
  count : Nat := 1
  recs : List SampleRec := []
  own : List Nat := []
  /-- its output is committed (R346, R489) -/
  committed : Bool := false
  grid : Option Grid := none
  /-- tile jobs that are not yet ready (R535) -/
  unready : List Nat := []
  /-- (pass, tile) of the tile jobs that have committed, passes counted from 0 (R346, R451) -/
  passed : List (Nat × Nat) := []
  /-- tile indices that gating did not issue (R176, R295) -/
  gated : List Nat := []
  /-- (pass, row block) whose records are folded, and (pass, row block) issued after a fold (R449, R450) -/
  folded : List (Nat × Nat) := []
  issued : List (Nat × Nat) := []
  /-- steps committed per row block of CHAIN (R458), and channels whose spectrum is formed (R477) -/
  steps : List (Nat × Nat) := []
  spectra : List Nat := []
  /-- the table generation it is bound to (R423) -/
  gen : Option Nat := none
  /-- the cores on which its tiles ran last: (pass, tile, core) (R325, R664) -/
  on : List (Nat × Nat × Nat) := []
  /-- of a core node, tiles handed to XFR and not yet sent (R461); of an XFR_SEND node, tiles sent and not released (R641) -/
  sending : List Nat := []
  /-- an XFR_RECV node: its tiles come from another device (R557) -/
  remote : Bool := false
  /-- the station an SGS node goes to, of a job route chosen as it becomes ready (R488), and how many operations of higher classes have passed
  it while it was ready (R490) -/
  station : Option Nat := none
  waits : Nat := 0
  /-- committed outputs that are not what the sources give, since no comparison caught an upset: row, column (none stands for the row), and
  the first free value they take (R342, R345) -/
  hits : List (Nat × Option Nat × Nat) := []
  deriving DecidableEq, Repr

/-- What a job is one pass of (R278, R643). -/
inductive JobKind where
  /-- a frame of a stream, with the AU_SUBMIT that carried it -/
  | frame (stream seq : Nat) (au : Option Nat)
  | cmd (jidx : Nat)
  /-- started by a received tile of another device: sender, KEY_KIND, KEY_SEQ, stream number -/
  | tile (dev kind seq stream : Nat)
  deriving DecidableEq, Repr

/-- A job (chapter 07). -/
structure Job where
  id : Nat
  kind : JobKind
  prog : Nat
  route : Nat
  svc : Nat
  /-- age ticket (R544) -/
  ticket : Nat
  /-- COUNT of R288, once known -/
  count : Option Nat := none
  stream : Nat := 0
  jobId : Nat := 0
  frameSeq : Nat := 0
  pts : Nat := 0
  ct : Stamp := {}
  /-- PN_FLAGS of its pennants (R40) -/
  flags : Nat := 0
  /-- tag, slot index and ring of the command it answers (R37) -/
  name : Option (Nat × Nat × Nat) := none
  /-- operands of the parameter block: host address and length (R305) -/
  operands : List (Nat × Nat) := []
  /-- its home cluster (R536) -/
  home : Nat := 0
  started : Bool := false
  /-- the hash sets of a job route (R506) -/
  sets : List SgsSet := []
  /-- segments that an ADAPT_RUN has replaced since the job started, as they stood (R391) -/
  oldSegs : List (Nat × List Nat) := []
  /-- plan copies drawn: (plan entry, class, buffer indices); none while it waits for them (R575) -/
  plan : Option (List (Nat × Nat × List Nat)) := none
  /-- a node faulted: (ROUTE_NODE, code) (R338) -/
  fault : Option (Nat × Nat) := none
  nodes : Tbl NodeSt := []
  /-- an ADAPT_RUN: the fields of its adaptation block from bit 784 up, the pass in progress counted from 0, and the shadow
  copies of the segments it has adapted (R382, R383, R391) -/
  adapt : Option Nat := none
  pass : Nat := 0
  shadow : List (Nat × List Nat) := []
  /-- every node has run and its pennants wait or are written -/
  ended : Bool := false
  /-- it was run again after a fault (R40, R133) -/
  rerun : Bool := false
  deriving DecidableEq, Repr

/-- A tile job (R289, R535). -/
structure TileJob where
  job : Nat
  node : Nat
  tile : Nat
  /-- 0 an output tile or first pass; a later pass after a fold (R411, R450) -/
  pass : Nat := 0
  svc : Nat
  ticket : Nat
  stream : Nat := 0
  ring : Nat := 0
  slot : Nat := 0
  /-- it runs on the marver, not the lane row -/
  marver : Bool := false
  rows : Nat := 16
  /-- row block, and the accumulator blocks of its long-lived hold (R330) -/
  group : Nat := 0
  hold : Nat := 0
  /-- its node names a SCALE_NODE (R376) -/
  scale : Bool := false
  /-- TIME_MONO at which it became ready (R563) -/
  since : Nat := 0
  /-- a core it may not go to (R344) -/
  avoid : Option Nat := none
  /-- STARVE_MS has been recorded -/
  starved : Bool := false
  deriving DecidableEq, Repr

/-- A tile job on a core (R316 to R346). -/
structure RunTile where
  tj : TileJob
  /-- accumulator blocks it holds, and its chunks (R325, R329) -/
  blocks : Nat
  chunks : Nat := 0
  /-- the scale slot it holds (R376) -/
  slot : Option Nat := none
  /-- chunks staged and rows drained -/
  staged : List Nat := []
  drained : List Nat := []
  /-- CK_INJECT applies to it (R345) -/
  inject : Bool := false
  /-- upsets that no comparison caught (R342): row of the tile, and lane; none stands for the whole row -/
  upsets : List (Nat × Option Nat) := []
  deriving DecidableEq, Repr

/-- A long-lived hold of accumulator blocks (R330). -/
structure Hold where
  job : Nat
  node : Nat
  group : Nat
  blocks : Nat
  deriving DecidableEq, Repr

/-- A tile job whose operand comes from another device, and its remote tag (R557). -/
structure RemoteTag where
  tag : Nat
  tj : TileJob
  /-- the response was parked in a receive buffer (R558) -/
  parked : Bool := false
  arrived : Bool := false
  deriving DecidableEq, Repr

/-- An accumulator block in a save area (R349): its 16 rows as raw 32-bit patterns from lane 0 on, lanes beyond the last one 0, and its
save sums. -/
structure SavedBlock where
  rows : List (List Nat)
  sums : List Nat
  deriving DecidableEq, Repr

/-- A core context that is being saved or is saved (R553). -/
structure SavedCtx where
  core : Nat
  job : Nat
  svc : Nat
  ticket : Nat
  holds : List Hold
  scaleSlots : List Nat
  tags : List RemoteTag
  /-- the unfinished tile jobs that come back with the context -/
  unfinished : List TileJob
  /-- resident outputs: (job, node, pass, tile) -/
  resident : List (Nat × Nat × Nat × Nat) := []
  /-- the accumulator blocks of its holds with their save sums (R349, R553) -/
  blocks : List SavedBlock := []
  /-- its bytes at LEHR entry: b_main of R554 -/
  entry : Nat := 0
  /-- its save area in the 4 MiB class -/
  area : Nat
  /-- saved by SAVE_ALL: it goes back to its own core at RESUME_ALL (R559, R560) -/
  whole : Bool := false
  deriving DecidableEq, Repr

/-- A core behind its registers (chapters 08 to 11, 14). -/
structure Core where
  placed : List TileJob := []
  runs : List RunTile := []
  holds : List Hold := []
  /-- class of the tile job it issued last (R540) -/
  cls : Option Nat := none
  /-- long holds' scale slots: slot numbers that are held (R376) -/
  scaleSlots : List Nat := []
  tags : List RemoteTag := []
  /-- check runs due: the tiles that failed, each with whether CK_INJECT made it fail (R344, R345) -/
  checks : List (TileJob × Bool) := []
  /-- the context being saved (R552, R554), and the tile job that takes the core when it is IDLE again -/
  saving : Option SavedCtx := none
  wants : Option TileJob := none
  /-- why it is in LEHR: 1 OFFLINE, 2 pre-emption, 3 class lehr, 4 SAVE_ALL, 5 margin plan -/
  lehr : Nat := 0
  deriving DecidableEq, Repr

/-- A class's guards as committed (R542, R543). -/
structure Guards where
  share : Nat
  ways : Nat
  pch : Nat
  deriving DecidableEq, Repr

/-- An arbiter of two levels (R547): how often each head and each top-level input has been passed, and the rotating pointers of
R546. -/
structure Arb where
  /-- (leaf, port, times passed) -/
  heads : List (Nat × Nat × Nat) := []
  /-- (leaf, times passed) -/
  tops : List (Nat × Nat) := []
  /-- the last winner of a tie at a leaf, and at the top -/
  rrLeaf : List (Nat × Nat) := []
  rrTop : Option Nat := none
  deriving DecidableEq, Repr

/-- A plan copy that no node of its job reads any more, while pennants built from it wait (R575): the job's key, the EMIT nodes that read it,
whose copies count against COPIES with it (program, route, and stream of a stream route), the plan entry, and its buffers. -/
structure Retired where
  key : PnKey
  nodes : List Nat
  scope : Nat × Nat × Option Nat
  entry : Nat
  cls : Nat
  bufs : List Nat
  deriving DecidableEq, Repr

/-- Scheduler behind its registers (chapter 14). -/
structure Sched where
  /-- ready tile jobs not placed -/
  ready : List TileJob := []
  saved : List SavedCtx := []
  /-- committed guards of the four classes; none are the reset values -/
  guards : Option (List Guards) := none
  /-- classes whose pre-emption was cancelled and that have not decided again (R553) -/
  retry : List Nat := []
  /-- the fabric arbiter by port (R547) -/
  arb : Arb := {}
  /-- plan copies that only waiting pennants still hold (R575) -/
  retiring : List Retired := []
  /-- shadow copies that become current when the DONE of their ADAPT_RUN is posted: (command, program, segments) (R391) -/
  swaps : List (Nat × Nat × List (Nat × List Nat)) := []
  /-- command rings that SAVE_ALL put in LEHR (R559, R560) -/
  savedRings : List Nat := []
  saving : Bool := false
  resuming : Bool := false
  deriving DecidableEq, Repr

end Sys2Proof.Machine
end

