-- ==== Sys2Proof/Machine/ProgState.lean ====
section
/-! DEFINITION. State of loaded programs (chapter 07): plain data. -/

set_option Elab.async false

namespace Sys2Proof.Machine

/-- A user slot of the special-function tables (R421); after a cold power-on every field is zero. -/
structure UserSlot where
  lo : Nat := 0
  wlog2 : Int := 0
  below : Nat := 0
  above : Nat := 0
  /-- (C0, C1, C2) of each segment; empty reads as zeros -/
  coefs : List (Nat × Nat × Nat) := []
  deriving DecidableEq, Repr

/-- The special-function table banks, alike on every core (R422 to R426). -/
structure TblSt where
  /-- generation g -/
  gen : Nat := 0
  /-- user slots 9 to 11 of bank 0 and bank 1 -/
  bank0 : List UserSlot := []
  bank1 : List UserSlot := []
  /-- TBL_LOADs that have run and not committed, in acceptance order of their jobs: (job, node) -/
  loads : List (Nat × Nat) := []
  /-- cores whose banks were rewritten after a parity error and have not yet passed a lookup (R425) -/
  suspect : List Nat := []
  deriving DecidableEq, Repr

/-- A segment of a program image (R297). -/
structure Segment where
  /-- 0 data and weights, 1 a table bank -/
  kind : Nat
  data : List Nat
  deriving DecidableEq, Repr

/-- The optimiser state in a STATE_PLAN entry (R388, R390): codes in the formats of its mode, rows as the segment's matrix. -/
structure OptSt where
  wide : Bool
  w : List (List Nat)
  m : List (List Nat)
  v : List (List Nat)
  /-- block scales of m and of √v in narrow mode -/
  mSc : List (List Nat) := []
  vSc : List (List Nat) := []
  b1t : Nat
  b2t : Nat
  steps : Nat := 0
  deriving DecidableEq, Repr

/-- A loaded program behind GLB_PROG_STATUS (R275, R299 to R304). -/
structure Prog where
  /-- (FIRST_WORD, N_NODES) of each route -/
  routes : List (Nat × Nat) := []
  words : List (BitVec 128) := []
  descs : List (BitVec 512) := []
  plan : List (BitVec 128) := []
  segs : List Segment := []
  level : Nat := 0
  /-- optimiser state by plan entry, and as it stood before the ADAPT_RUN in progress (R390, R392) -/
  opt : List (Nat × OptSt) := []
  optOld : Option (List (Nat × OptSt)) := none
  /-- the PROG_UNLOAD in lehr (R302) -/
  unloading : Option Nat := none
  /-- the PROG_LOAD that waits behind it, with its image (R303) -/
  pendLoad : Option (Nat × List Nat) := none
  /-- the PROG_LOAD in progress, what its checks found (code, DETAIL0, DETAIL1), and its image (R299, R304, R720) -/
  loading : Option (Nat × Option (Nat × Nat × Nat) × List Nat) := none
  deriving DecidableEq, Repr

end Sys2Proof.Machine
end

