-- ==== Sys2Proof/Machine/SysState.lean ====
section
/-! DEFINITION. State behind the registers of the pools, on-chip memory, HBM, Ranlink, power and security (chapters 15, 16,
17, 19 and 20): plain data. -/

set_option Elab.async false

namespace Sys2Proof.Machine

/-- A draw that stalls at back-pressure (R571, R577). -/
structure Draw where
  owner : Nat
  n : Nat
  svc : Nat
  ticket : Nat
  deriving DecidableEq, Repr

/-- One pool behind its registers (R566 to R585). -/
structure PoolCls where
  /-- held bits: the owner of each held buffer (R581) -/
  held : Tbl (Option Nat) := []
  /-- the index cache, most recently freed first (R579) -/
  cache : List Nat := []
  /-- the free ring or list from its head, as (first index, number) runs in order; none is the store of the power-on
  carve with every buffer free (R566, R568) -/
  store : Option (List (Nat × Nat)) := none
  stalled : List Draw := []
  /-- the owner that won the last tie of two draws (R546, R577) -/
  rr : Option Nat := none
  /-- the low-water event has been given and headroom has not yet risen past it (R576) -/
  lowGiven : Bool := false
  /-- buffers still to be withdrawn when freed (R585) -/
  withdraw : List Nat := []
  deriving DecidableEq, Repr

/-- What holds a pinned allocation (R587): a job's plan entry or list, a DEST 0 batch (program, route, node, shaper, class and
BATCH_SEQ), or SHP's source rows of a stream's frame (R237). -/
inductive PinFor where
  | job (id : Nat)
  | batch (prog route node shp svc seq : Nat)
  | rows (stream seq node : Nat)
  deriving DecidableEq, Repr

/-- A pinned allocation of a station buffer (R587): its lines by way, and what holds it. -/
structure Pinned where
  svc : Nat
  holder : PinFor
  /-- (way, lines) -/
  ways : List (Nat × Nat)
  deriving DecidableEq, Repr

/-- The station buffer of a cluster (R587, R588). -/
structure StationBuf where
  pinned : List Pinned := []
  /-- ways that pass to another class: (way, lines left) -/
  moving : List (Nat × Nat) := []
  deriving DecidableEq, Repr

/-- On-chip memory (R586 to R592). -/
structure MemSt where
  bufs : Tbl StationBuf := []
  deriving DecidableEq, Repr

/-- A frame table entry (R599): the slots of each share in order, a slot as 16384 * pseudo-channel + index. -/
structure FrameEnt where
  slots : List (List Nat)
  deriving DecidableEq, Repr

/-- A request in a pseudo-channel's queue (R602 to R605): its TARGET_NS and TIME_MONO at the grant, its urgency, and the column commands
issued since it reached urgency 3. -/
structure HbmReq where
  req : HbmArr
  target : Nat
  at_ : Nat := 0
  urgency : Nat := 0
  passed : Nat := 0
  deriving DecidableEq, Repr

/-- A pseudo-channel (R604 to R610): its queue in grant order, its open rows as (rank, bank, row), refreshes put off and pulled in, and the
port that won its last tie (R546). -/
structure PChan where
  queue : List HbmReq := []
  openRows : List (Nat × Nat × Nat) := []
  postponed : Nat := 0
  pulled : Nat := 0
  rr : Option Nat := none
  deriving DecidableEq, Repr

/-- HBM controller behind its registers (chapter 16). -/
structure HbmSt where
  /-- frames placed at a draw (R600); frames not listed lie where boot placed them -/
  frames : Tbl (Option FrameEnt) := []
  /-- free slots of a pseudo-channel as (first, number) runs; none is the state after boot (R598, R600) -/
  slots : Tbl (Option (List (Nat × Nat))) := []
  /-- frames being copied from their old slots (R601) -/
  copying : List (Nat × FrameEnt) := []
  chans : Tbl PChan := []
  /-- poisoned lines, and the rank on which a line was found so (R613) -/
  poison : List Nat := []
  poisonRank : Tbl Nat := []
  /-- command/address parity failures in a row on a rank (R614) -/
  parity : Tbl Nat := []
  /-- copies and drains in progress: rank → TIME_MONO up to which its progress is counted, and bytes moved by then (R616, R619) -/
  moves : Tbl (Option (Nat × Nat)) := []
  /-- TIME_MONO of the corrected lines of a rank inside the window (R614) -/
  ceTimes : Tbl (List Nat) := []
  /-- ranks on which a line was found uncorrectable, not yet acted on (R614) -/
  ueRanks : List Nat := []
  /-- retirement fuse record: ranks retired, first and second (R622) -/
  retired : List Nat := []
  /-- programs with a poisoned segment line: (program, line) (R613) -/
  badProgs : List (Nat × Nat) := []
  /-- TIME_MONO up to which the doubled refresh of a stack is counted (R623) -/
  doubledFrom : Tbl Nat := []
  deriving DecidableEq, Repr

/-- A tile held by its sender (R640, R641): the job and the XFR_SEND node that sent it. -/
structure SentTile where
  msg : TileMsg
  job : Nat
  node : Nat
  flits : Nat
  sends : Nat := 1
  receipt : Bool := false
  port : Nat
  /-- TIME_MONO of its last send -/
  at_ : Nat := 0
  deriving DecidableEq, Repr

/-- A tile in a receive buffer of owner 7 (R641 to R645). -/
structure HeldTile where
  msg : TileMsg
  /-- the local job that reads it; none while it waits for one -/
  job : Option Nat
  port : Nat
  bufs : Nat × List Nat
  /-- TIME_MONO of its arrival -/
  at_ : Nat := 0
  deriving DecidableEq, Repr

/-- A collective in progress (R647): the device's own FP32 elements, and the chunks whose wire value is stored. -/
structure Coll where
  job : Nat
  node : Nat
  jobId : Nat
  step : Nat
  channel : Nat
  group : Nat
  /-- columns and rows per sample of its source -/
  cols : Nat
  unit : Nat
  own : List Nat
  stored : List (Nat × List Nat) := []
  deriving DecidableEq, Repr

/-- A Ranlink port behind its registers: failed lanes, the flit whose replays fail and how many did (R629), and the flits that wait for
credits on halyards 0 to 2 and on the two sets of halyard 3 (R635 to R638). -/
structure LnkPort where
  lanesBad : List Nat := []
  flit : Option (Nat × Nat) := none
  back0 : Nat := 0
  back1 : Nat := 0
  back2 : Nat := 0
  back30 : Nat := 0
  back31 : Nat := 0
  deriving DecidableEq, Repr

/-- Ranlink and XFR (chapter 17). -/
structure LnkSt where
  ports : Tbl LnkPort := []
  /-- ports of other devices reported UP: device → bit mask; a device not listed has every wired port UP -/
  links : Tbl (Option Nat) := []
  /-- devices that were reachable and are not, with TIME_MONO of the loss (R641) -/
  lostAt : List (Nat × Nat) := []
  sent : List SentTile := []
  heldTiles : List HeldTile := []
  /-- keys of the last 4,096 released tiles per sender and channel, newest first (R642) -/
  taken : List TileId := []
  /-- per stream (owner * 128 + stream): 1 + the highest FRAME_SEQ wholly taken (R642) -/
  takenUpTo : Tbl Nat := []
  /-- the last tile taken on a channel, for FALLBACK (R645) -/
  lastTiles : List TileMsg := []
  /-- tiles replaced by a fallback, discarded when they arrive (R645) -/
  superseded : List TileId := []
  colls : List Coll := []
  /-- chunks of collectives that have not started here, in order of arrival -/
  early : List CollChunk := []
  deriving DecidableEq, Repr

/-- The reset types of R697, by rank (R700). -/
inductive ResetKind where
  | powerOn | hot | flr | warm | fw
  deriving DecidableEq, Repr

/-- Power, clocks and pins behind the registers (chapters 19 and 21). -/
structure PwrSt where
  /-- input pins -/
  pwrGood : Bool := false
  rstPorN : Bool := true
  rstWarmN : Bool := true
  perstN : Bool := false
  /-- TEST_MODE as sampled at the rising edge of PWR_GOOD (R737) -/
  testMode : Bool := false
  /-- the reset in progress (R697 to R700) -/
  inReset : Option ResetKind := some .powerOn
  /-- THERMTRIP_N is driven low and the device is held in power-on reset (R696) -/
  tripped : Bool := false
  /-- the boot has begun (R701): the boot ROM runs -/
  booting : Bool := false
  /-- verified firmware runs (R716), and the first margin plan is done (R671, R701) -/
  fwRunning : Bool := false
  firstPlan : Bool := false
  /-- ROM service mode (R717) -/
  romService : Bool := false
  /-- subsystem vendor ID and subsystem ID of the configuration header (R53, R740) -/
  subsys : Nat × Nat := (0x1FD7, 0)
  /-- states of the command rings that the save of an entry to STOWED found (R689) -/
  savedRings : List (Nat × Nat) := []
  /-- entry to STOWED in progress (R688) -/
  stowing : Bool := false
  /-- rails outside tolerance since TIME_MONO (R691) -/
  railBad : Tbl (Option Nat) := []
  /-- the last ten sums of the rails' power in mW, newest first: 1 ms of them (R694) -/
  powers : List Nat := []
  /-- what lowered the issue duty since it was last whole: bit 0 the junction, bit 1 the power cap (R694) -/
  throttleBy : Nat := 0
  /-- Ethernet ports whose hardware stamping waits for the end of a firmware recovery reset (R212) -/
  tsHeld : List Nat := []
  /-- HBM stacks whose command rate is halved (R695) -/
  hbmHalf : List Nat := []
  deriving DecidableEq, Repr

/-- A signing request in progress (R714, R721): what it latched at its GO. -/
structure SignReq where
  nonce : Nat
  mono : Nat
  /-- CFG_DIGEST and CFG_EVENTS (R722) -/
  cfg : Nat := 0
  events : Nat := 0
  deriving DecidableEq, Repr

/-- Security behind the registers (chapter 20). -/
structure SecSt where
  /-- the three fused copies of the lifecycle state (R706) -/
  lc : List Nat := [0, 0, 0]
  /-- the seed fuses, once burned (R711) -/
  seed : Option (BitVec 256) := none
  /-- the burned endorsement signature and its slot (R713) -/
  endorsement : Option (BitVec 512 × Nat) := none
  /-- the derived identity key in the secure SRAM (R712) -/
  key : Option Nat := none
  /-- the key is being derived (R712, R725) -/
  reDeriving : Bool := false
  /-- a tamper event has cleared the key since power-on (R712) -/
  tampered : Bool := false
  /-- TIME_MONO of the last tamper event: sources of one AON tick count once (R724) -/
  tamperMono : Option Nat := none
  /-- the challenge has been written and not consumed (R709) -/
  challengeOk : Bool := false
  /-- the state-changing command in progress: the new state (R708) -/
  busy : Option Nat := none
  /-- FW_DIGEST, its first byte lowest (R716) -/
  fwDigest : BitVec 256 := 0
  quotes : Nat := 0
  quoteReq : Option SignReq := none
  burgeeReq : Option SignReq := none
  /-- draws of the random number generator -/
  draws : Nat := 0
  /-- flash images found bad since power-on (R716) -/
  badImages : Nat := 0
  deriving DecidableEq, Repr

end Sys2Proof.Machine
end

