-- ==== Sys2Proof/Machine/State.lean ====
section
/-! DEFINITION. The state of the V96, and the state right after power-on reset. -/

set_option Elab.async false

namespace Sys2Proof.Machine

/-- How a request to host memory is addressed (R57, R63): the address as sent, whether it is sent as translated, and whether it carries
the Relaxed Ordering attribute.  No request carries No Snoop (R56). -/
structure Tlp where
  addr : Nat
  translated : Bool := false
  relaxed : Bool := false
  deriving DecidableEq, Repr

/-- Something the V96 sends out: what its neighbours can see of a command. -/
inductive Out where
  /-- a 64-byte poll read of a slot of a command ring (R73) -/
  | pollRead (ring slot : Nat) (r : Tlp)
  /-- a read request for data of a command: an access unit, a program image, a contract, a parameter block or an operand (R55, R57) -/
  | dataRead (jidx len : Nat) (r : Tlp)
  /-- a read of the consumer record of a pennant ring (R93) -/
  | consRead (ring : Nat) (r : Tlp)
  /-- a Translation Request (R63) -/
  | translate (page : Nat)
  /-- a 128-byte journal entry write at an entry index (R113, R118) -/
  | journal (index : Nat) (entry : BitVec 1024) (r : Tlp)
  /-- a 16-byte emit record write at a log position (R122) -/
  | emitRec (pos : Nat) (rcd : BitVec 128) (r : Tlp)
  /-- an extension block write to a block of a pennant ring (R88) -/
  | extBlock (ring block : Nat) (data : BitVec 512) (r : Tlp)
  /-- the header write of a pennant (R88) -/
  | header (ring block : Nat) (data : BitVec 512) (r : Tlp)
  /-- an MSI-X message (R99) -/
  | msix (vector : Nat) (addr : Nat) (data : BitVec 32)
  /-- the data of a read of BAR0 or of configuration space -/
  | readData (addr : Nat) (data : BitVec 32)
  | completerAbort (addr : Nat)
  | unsupportedRequest (addr : Nat)
  /-- an Invalidate Completion (R64) -/
  | invalDone (tag : Nat)
  /-- an IGMPv3 report for a group, leave or join, from the port's address and with its VLAN tag, 0 for none (R193, R233) -/
  | igmp (port : Nat) (src : BitVec 32) (vlan : Nat) (group source : BitVec 32) (join : Bool)
  /-- a PTP Delay_Req from the port's address, with its VLAN tag and DSCP (R223, R233) -/
  | delayReq (port : Nat) (src : BitVec 32) (vlan dscp : Nat)
  /-- a pulse of WIDTH ns on TP_OUT (R226) -/
  | pulse (out : Nat) (active : Bool) (widthNs : Nat)
  /-- a tile sent on a Ranlink port (R639) -/
  | tile (port : Nat) (msg : TileMsg)
  | receipt (dev : Nat) (id : TileId) (code : Nat)
  | release (dev : Nat) (id : TileId)
  /-- a topology update (R649) -/
  | topology (port dev ports : Nat)
  /-- a request for a flit again, and a replayed flit (R629) -/
  | askReplay (port : Nat)
  | replay (port : Nat)
  /-- credits returned (R637): halyard 0 to 2, or 3 and 4 for the two sets of halyard 3 -/
  | credits (port halyard n : Nat)
  /-- a collective chunk sent to a device (R647) -/
  | chunk (dev : Nat) (c : CollChunk)
  /-- a set point written to a rail over AVSBus (R691) -/
  | rail (rail mv : Nat)
  /-- the clock of a cluster changed to the frequency of a bin (R669, R671) -/
  | clock (cluster bin : Nat)
  /-- the pseudo-channels of HBM are re-trained and SerDes equalisation is re-planned (R610, R648, R671) -/
  | retrain
  /-- THERMTRIP_N driven low (R696) -/
  | thermTrip
  /-- a two-level arbiter grants the head of a port of a leaf (R547) -/
  | grant (leaf port ticket : Nat)
  /-- a pseudo-channel issues a request: a read or write of a line of a row (R602) -/
  | hbm (pch line row : Nat) (write : Bool)
  /-- a line of a station buffer written back to HBM, and the data a port reads of it (R588, R590) -/
  | lineBack (cluster line : Nat) (data : List Nat)
  | lineRead (cluster port : Nat) (data : List Nat)
  /-- data of a debug port access (R726) -/
  | debug (addr : Nat) (data : BitVec 32)
  deriving DecidableEq, Repr

/-- The spec gives no command an end without an effect: no meaning raises a fault.  The one constructor is here because
the type may not be empty; nothing raises it, and it is safe. -/
inductive Fault where
  | none
  deriving DecidableEq, Repr

/-- Why a command has no meaning. -/
inductive Refusal where
  /-- raised by the dispatcher for a command that has no meaning yet; safe -/
  | notModelled (mnemonic : String)
  deriving DecidableEq, Repr

/-- The state: every register by its BAR0 address (a register not listed reads its reset value), the state behind the
registers of each chapter, the queue of waiting commands, and the model's own log of what the V96 has sent out. -/
structure State where
  regs : Tbl (BitVec 32) := []
  hif : Hif := {}
  jrnl : Jrnl := {}
  hlth : Hlth := {}
  snap : Snap := {}
  time : Time := {}
  streams : Tbl Stream := []
  dec : Dec := {}
  net : Net := {}
  shp : Shp := {}
  sgs : SgsSt := {}
  progs : Tbl Prog := []
  tbl : TblSt := {}
  jobs : List Job := []
  nextJob : Nat := 0
  cores : Tbl Core := []
  sched : Sched := {}
  pools : Tbl PoolCls := []
  mem : MemSt := {}
  hbm : HbmSt := {}
  lnk : LnkSt := {}
  pwr : PwrSt := {}
  sec : SecSt := {}
  /-- 64-bit counters of the STAT kinds, at COUNTER_ID * 2^32 + SCOPE (R48) -/
  counters : Tbl Nat := []
  /-- draws of free values made (the model's own) -/
  free : Nat := 0
  /-- what the V96 has sent out, oldest first (the model's own) -/
  out : List Out := []
  /-- waiting commands, first in, first out -/
  pending : List Instr := []
  deriving DecidableEq, Repr

/-- The machine right after power-on reset (R698, R701): every register at its reset value, nothing in flight, the
queue empty. -/
def State.reset : State := {}

end Sys2Proof.Machine
end

