-- ==== Sys2Proof/Machine/Ops.lean ====
section
/-! DEFINITION. The named operations of the machine: registers and fields, counters, time stamps, error recording and the
record file (R18, R657 to R660), the hoist latch (R673 to R676), pennants waiting for EGR (R27, R28, R34, R97) and the
journal's commands. -/

set_option Elab.async false

namespace Sys2Proof.Machine

/-! ### Registers -/

/-- The stored value of a register. -/
def State.reg (s : State) (a : Nat) : BitVec 32 := tget regReset s.regs a

/-- Store a register. -/
def State.setReg (s : State) (a : Nat) (v : BitVec 32) : State := { s with regs := tset regReset s.regs a v }

/-- A field of a register. -/
def State.rd (s : State) (f : RegField) : Nat := bitsOf (s.reg f.addr).toNat f.lo f.w

/-- Store a field of a register, its other bits kept. -/
def State.wr (s : State) (f : RegField) (v : Nat) : State :=
  s.setReg f.addr (BitVec.ofNat 32 (putBits (s.reg f.addr).toNat f.lo f.w v))

/-- A field wraps up by `n` (R106: counters wrap at 2^32). -/
def State.bump (s : State) (f : RegField) (n : Nat := 1) : State := s.wr f (s.rd f + n)

/-- A field saturates up by 1. -/
def State.bumpSat (s : State) (f : RegField) : State :=
  if s.rd f + 1 < 2 ^ f.w then s.wr f (s.rd f + 1) else s

/-- A 64-bit value held in a _LO and _HI pair. -/
def State.rd64 (s : State) (lo hi : Nat) : Nat := (s.reg lo).toNat + (s.reg hi).toNat * 2 ^ 32

/-- Store a 64-bit value in a _LO and _HI pair. -/
def State.wr64 (s : State) (lo hi v : Nat) : State :=
  (s.setReg lo (BitVec.ofNat 32 v)).setReg hi (BitVec.ofNat 32 (v / 2 ^ 32))

/-- A 64-bit counter of the STAT kinds rises (R48; they wrap at 2^64). -/
def State.cnt (s : State) (id scope : Nat) (n : Nat := 1) : State :=
  let k := id * 2 ^ 32 + scope
  { s with counters := tset (fun _ => 0) s.counters k ((tget (fun _ => 0) s.counters k + n) % 2 ^ 64) }

/-- The value of a counter. -/
def State.counter (s : State) (id scope : Nat) : Nat := tget (fun _ => 0) s.counters (id * 2 ^ 32 + scope)

/-- Set a counter to a value (restart, R184, R232; a peak value, R593). -/
def State.setCnt (s : State) (id scope v : Nat) : State :=
  { s with counters := tset (fun _ => 0) s.counters (id * 2 ^ 32 + scope) v }

/-- Send something out. -/
def State.post (s : State) (o : Out) : State := { s with out := s.out ++ [o] }

/-- A fresh free value, in `w` bits. -/
def State.fresh (s : State) : State × BitVec 64 := ({ s with free := s.free + 1 }, Config.freeValue s.free)

/-! ### Elements of the tables behind the registers -/

def State.cring (s : State) (c : Nat) : CRing := tget (fun _ => {}) s.hif.crings c
def State.setCring (s : State) (c : Nat) (x : CRing) : State :=
  { s with hif := { s.hif with crings := tset (fun _ => {}) s.hif.crings c x } }
def State.pring (s : State) (m : Nat) : PRing := tget (fun _ => {}) s.hif.prings m
def State.setPring (s : State) (m : Nat) (x : PRing) : State :=
  { s with hif := { s.hif with prings := tset (fun _ => {}) s.hif.prings m x } }
def State.stream (s : State) (n : Nat) : Stream := tget (fun _ => {}) s.streams n
def State.setStream (s : State) (n : Nat) (x : Stream) : State :=
  { s with streams := tset (fun _ => {}) s.streams n x }
def State.engine (s : State) (e : Nat) : Engine := tget (fun _ => {}) s.dec.engines e
def State.setEngine (s : State) (e : Nat) (x : Engine) : State :=
  { s with dec := { s.dec with engines := tset (fun _ => {}) s.dec.engines e x } }
def State.flow (s : State) (f : Nat) : Flow := tget (fun _ => {}) s.net.flows f
def State.setFlow (s : State) (f : Nat) (x : Flow) : State :=
  { s with net := { s.net with flows := tset (fun _ => {}) s.net.flows f x } }
def State.prog (s : State) (p : Nat) : Prog := tget (fun _ => {}) s.progs p
def State.setProg (s : State) (p : Nat) (x : Prog) : State :=
  { s with progs := tset (fun _ => {}) s.progs p x }
def State.poolC (s : State) (c : Nat) : PoolCls := tget (fun _ => {}) s.pools c
def State.setPool (s : State) (c : Nat) (x : PoolCls) : State :=
  { s with pools := tset (fun _ => {}) s.pools c x }

def State.sgsStream (s : State) (n : Nat) : SgsStream := tget (fun _ => {}) s.sgs.streams n
def State.setSgs (s : State) (n : Nat) (x : SgsStream) : State :=
  { s with sgs := { s.sgs with streams := tset (fun _ => {}) s.sgs.streams n x } }

/-! ### Configuration space (R53 to R57, R63) -/

/-- The stored value of a dword of configuration space. -/
def State.cfgReg (s : State) (off : Nat) : BitVec 32 := tget cfgReset s.hif.cfg off

/-- Store a dword of configuration space. -/
def State.setCfg (s : State) (off : Nat) (v : BitVec 32) : State :=
  { s with hif := { s.hif with cfg := tset cfgReset s.hif.cfg off v } }

/-- ATS Control Enable (R63). -/
def State.atsEnable (s : State) : Bool := bitsOf (s.cfgReg 0x15C).toNat 31 1 == 1

/-- The V96 issues translated requests (R63). -/
def State.atsOn (s : State) : Bool := s.atsEnable && decide (s.rd Reg.HIF_CTRL_ATS_USE = 1)

/-- The read requests that R57 lists carry Relaxed Ordering. -/
def State.relaxes (s : State) : Bool := decide (s.rd Reg.HIF_CTRL_RO_EN = 1) && bitsOf (s.cfgReg 0x78).toNat 4 1 == 1

/-- The largest read request: what Device Control allows, and at most 4,096 B (R55). -/
def State.maxRead (s : State) : Nat := min 4096 (128 * 2 ^ bitsOf (s.cfgReg 0x78).toNat 12 3)

/-- Advanced Error Reporting logs an uncorrectable error by its bit; the first one is pointed to (R54, R61, R750). -/
def State.aer (s : State) (bit : Nat) : State :=
  let v := (s.cfgReg 0x104).toNat
  let s1 := if v = 0 then s.setCfg 0x118 (BitVec.ofNat 32 bit) else s
  s1.setCfg 0x104 (BitVec.ofNat 32 (v ||| 2 ^ bit))

/-- How a request carries a host address: the translated address while ATS is in use and the page is cached (R63). -/
def State.tlp (s : State) (a : Nat) : Tlp :=
  match (if s.atsOn then s.hif.atc.find? (fun e => e.page == a / 4096) else none) with
  | some e => { addr := e.phys * 4096 + a % 4096, translated := true }
  | none => { addr := a }

/-- The pages of a host range. -/
def pagesOf (addr len : Nat) : List Nat := (List.range ((addr + len - 1) / 4096 + 1 - addr / 4096)).map (addr / 4096 + ·)

/-- Those of some pages whose translation is not cached with the permission that the access needs, while ATS is in use (R63, R65). -/
def State.untranslated (s : State) (write : Bool) (pages : List Nat) : List Nat :=
  if s.atsOn then pages.eraseDups.filter (fun p => !(s.hif.atc.any (fun e => e.page == p && (e.write || !write)))) else []

/-- Ask for translations that are not yet asked for (R63). -/
def State.askXlate (s : State) (pages : List Nat) : State :=
  pages.foldl (fun s p =>
    if s.hif.xlate.contains p then s
    else { s with hif := { s.hif with xlate := s.hif.xlate ++ [p] }, out := s.out ++ [Out.translate p] }) s

/-! ### Time -/

/-- The device time as a pennant carries it (R35, R216). -/
def State.now (s : State) : Stamp := { sec := s.time.sec % 2 ^ 48, ns := s.time.ns, sub := s.time.frac / 2 ^ 62 }

/-! ### Block indices and domains -/

/-- BLOCK numbers of the record file (R657) and areas of the snapshot window (R673). -/
inductive Blk where
  | glb | hif | dec | shp | net | time | sched | core | sgs | pool | mem | hbm | lnk | pwr | hlth | sec | snap | xfr | egr | gth
  deriving DecidableEq, Repr

/-- The BLOCK field (R657). -/
def Blk.num : Blk → Nat
  | .glb => 0 | .hif => 1 | .dec => 2 | .shp => 3 | .net => 4 | .time => 5 | .sched => 6 | .core => 7 | .sgs => 8
  | .pool => 9 | .mem => 10 | .hbm => 11 | .lnk => 12 | .pwr => 13 | .hlth => 14 | .sec => 15 | .snap => 16
  | .xfr => 17 | .egr => 18 | .gth => 19

/-- The hardware is held in reset: every reset but firmware recovery (R699). -/
def State.held (s : State) : Bool :=
  match s.pwr.inReset with
  | none => false
  | some .fw => false
  | some _ => true

/-- The window of an address: true for a block of the fast domain (R743). -/
def fastAddr (a : Nat) : Bool :=
  let p := a / 0x100000
  decide ((4 ≤ p ∧ p ≤ 6) ∨ (8 ≤ p ∧ p ≤ 0x1C))

/-! ### What a BAR0 access reaches -/

/-- The device returns from FURLED (R684, R704). -/
def State.unfurl (s : State) : State := (s.wr Reg.PWR_STATUS_STATE 0).bump Reg.PWR_WAKES_COUNT

/-- A wake event (R686, R687): in FURLED the device returns, during the furl lehr the wake is latched. -/
def State.wakeUp (s : State) : State :=
  if s.pwr.stowing then s
  else
    match s.rd Reg.PWR_STATUS_STATE with
    | 1 => s.wr Reg.PWR_STATUS_STATE 2
    | 3 => s.unfurl
    | _ => s

/-- In STOWED every memory request to BAR0 completes with Unsupported Request (R746). -/
def State.barRefused (s : State) : Bool := s.hif.d3hot || s.rd Reg.PWR_STATUS_STATE == 4

/-- The block of an address is served: a fast block not while the V96 is held in reset, and in ROM service mode GLB, PWR and SEC alone
(R699, R746). -/
def State.served (s : State) (a : Nat) : Bool :=
  let p := a / 0x100000
  !(fastAddr a && s.held) && (!s.pwr.romService || p == 0 || p == 0x1D || p == 0x20)

/-- An access to a fast block wakes a FURLED device (R686). -/
def State.touch (s : State) (a : Nat) : State := if fastAddr a then s.wakeUp else s

/-- A BAR0 write reaches its block, or is refused or discarded (R686, R699, R746). -/
def State.bar (s : State) (a : Nat) (k : State → Host.Outcome State Fault Refusal) : Host.Outcome State Fault Refusal :=
  if s.barRefused then .next (s.post (.unsupportedRequest a))
  else if s.served a then k (s.touch a)
  else .next s

/-! ### What a register reads -/

/-- Words of one record file entry (R657), as a 256-bit number. -/
def Rec.bits (r : Rec) : Nat :=
  packBits [(192, 64, r.last), (128, 64, r.first), (96, 32, r.d1), (64, 32, r.d0), (48, 8, r.block), (32, 16, r.inst),
    (31, 1, if r.valid then 1 else 0), (16, 14, r.count), (0, 16, r.code)]

/-- CE_WINDOW in ns (R614, R624). -/
def State.ceWindow (s : State) : Nat := max 1 (s.rd Reg.HBM_CE_CFG_CE_WINDOW) * 60 * 10 ^ 9

/-- Lines of a rank corrected over the last CE_WINDOW (R614). -/
def State.ceNow (s : State) (r : Nat) : Nat :=
  ((tget (fun _ => []) s.hbm.ceTimes r).filter (fun t => decide (s.time.mono - t ≤ s.ceWindow))).length

/-- Bytes of a rank that a copy or drain has still to move: 8 GiB in all, MIG_GBPS bytes per ns (R616, R619, R624). -/
def State.moveLeft (s : State) (r : Nat) : Nat :=
  match tget (fun _ => none) s.hbm.moves r with
  | none => 0
  | some (t, n) => 2 ^ 33 - (n + (s.time.mono - t) * max 1 (s.rd Reg.HBM_CTRL_MIG_GBPS))

/-- The present value at an address: the clock, TIME_MONO, the ticket count, ATS_ACTIVE, the CE counts and MIB left of HBM, the record file
and the snapshot window come from the state behind the registers, every other register from the register file (R63, R218, R544, R614, R616,
R657, R673). -/
def State.view (s : State) (a : Nat) : BitVec 32 :=
  if a = Reg.TIME_CLK_SEC_LO then BitVec.ofNat 32 s.time.sec
  else if a = Reg.TIME_CLK_SEC_HI then BitVec.ofNat 32 (s.time.sec / 2 ^ 32)
  else if a = Reg.TIME_CLK_NS then BitVec.ofNat 32 s.time.ns
  else if a = Reg.TIME_CLK_FRAC then BitVec.ofNat 32 (s.time.frac / 2 ^ 48)
  else if a = Reg.TIME_MONO_LO then BitVec.ofNat 32 s.time.mono
  else if a = Reg.TIME_MONO_HI then BitVec.ofNat 32 (s.time.mono / 2 ^ 32)
  else if a = Reg.SCHED_TICKET then BitVec.ofNat 32 (s.time.mono / 40)
  else if a = Reg.HIF_STATUS then BitVec.ofNat 32 (putBits (s.reg a).toNat 2 1
    (if s.atsOn then 1 else 0))
  else if a = Reg.HBM_MIG_LEFT then BitVec.ofNat 32 (cdiv (sumNat ((List.range 6).map s.moveLeft)) (2 ^ 20))
  else if 0x1B00200 ≤ a ∧ a < 0x1B002C0 ∧ a % 0x20 = 4 then BitVec.ofNat 32 (s.ceNow ((a - 0x1B00200) / 0x20))
  else if 0x1E01000 ≤ a ∧ a < 0x1E02000 then
    let r := tget (fun _ => ({} : Rec)) s.hlth.recs ((a - 0x1E01000) / 0x20)
    BitVec.ofNat 32 (r.bits >>> (32 * ((a % 0x20) / 4)))
  else if 0x1F01000 ≤ a ∧ a < 0x1F05000 then tget (fun _ => 0) s.snap.window a
  else s.reg a

/-- The _HI partner of a _LO register (R62): the next word, when the register table names the pair. -/
def hiOf (a : Nat) : Option Nat :=
  let pairs : List (Nat × Nat × Nat) :=
    [(Reg.HIF_ERR_ADDR_LO, 1, 4), (Reg.HIF_JRNL_BASE_LO, 1, 4), (Reg.HIF_CRING_BASE_LO 0, 16, 0x40),
     (Reg.HIF_PRING_BASE_LO 0, 64, 0x40), (Reg.HIF_PRING_CONS_LO 0, 64, 0x40), (Reg.HIF_PRING_SEQ_LO 0, 64, 0x40),
     (Reg.HIF_PRING_PROD_LO 0, 64, 0x40), (Reg.DEC_PICS_LO 0, 8, 0x10000), (Reg.NET_PORT_MAC_LO 0, 2, 0x40),
     (Reg.TIME_SET_SEC_LO, 1, 4), (Reg.TIME_MONO_LO, 1, 4), (Reg.TIME_TPO_SEC_LO 0, 4, 0x20),
     (Reg.SHP_SAMPLES_LO 0, 8, 0x10000), (Reg.GLB_SERIAL_LO, 1, 4), (Reg.CORE_LRW_STREAM_LO 0, 64, 0x10000),
     (Reg.CORE_LRW_LANEOPS_LO 0, 64, 0x10000), (Reg.CORE_MRV_BUSY_LO 0, 64, 0x10000), (Reg.SCHED_CLS_PCH_LO 0, 4, 0x20),
     (Reg.SGS_OPS_LO 0, 4, 0x10000), (Reg.POOL_CLS_BASE_LO 0, 8, 0x40), (Reg.POOL_CLS_HEAD_LO 0, 8, 0x40),
     (Reg.LNK_PORT_TX_LO 0, 4, 0x40), (Reg.HLTH_FENCE_CORE_LO, 1, 4), (Reg.HLTH_PLAN_LAST_LO, 1, 4),
     (Reg.SNAP_TIME_SEC_LO, 1, 4), (Reg.SNAP_AT_SEC_LO, 1, 4), (Reg.SNAP_AT_MONO_LO, 1, 4), (Reg.SEC_RECOV_LO, 1, 4)]
  if pairs.any (fun p => decide (p.1 ≤ a) && decide ((a - p.1) % p.2.2 = 0) && decide ((a - p.1) / p.2.2 < p.2.1))
  then some (a + 4) else none

/-- Bits of a register that read 0: fields with access WO (R12). -/
def woMask (a : Nat) : Nat :=
  match rowOf a with
  | none => 0
  | some r => r.mask (· == .wo)

/-- The latched value a _HI or clock register returns, when a read of its partner came before (R62, R218, R234). -/
def State.latched (s : State) (a : Nat) : Option (BitVec 32) := tget (fun _ => none) s.hif.hiLatch a

/-- What a BAR0 read returns (R17, R59, R62, R699, R746). -/
def State.read (s : State) (a : Nat) : BitVec 32 :=
  if s.served a = false then 0
  else
    match s.latched a with
    | some v => v
    | none =>
      let v := s.view a
      match woMask a with
      | 0 => v
      | m => BitVec.ofNat 32 (v.toNat - (v.toNat &&& m))

/-- Latch the present value of a register for later reads (R62). -/
def State.latch (s : State) (a : Nat) : State :=
  { s with hif := { s.hif with hiLatch := tset (fun _ => none) s.hif.hiLatch a (some (s.view a)) } }

/-! ### Recording of errors -/

/-- Record a code in an error register (R14 and the ERR register tables): the first error is kept, a later one sets
OVERFLOW where the register has it. -/
def State.setErr (s : State) (a : Nat) (ovf : Bool) (inst : Nat × Nat × Nat) (code : Nat) : State :=
  let v := (s.reg a).toNat
  if bitsOf v 31 1 = 0 then
    s.setReg a (BitVec.ofNat 32 (packBits [(31, 1, 1), (30, 1, bitsOf v 30 1), inst, (0, 16, code)]))
  else if ovf then s.setReg a (BitVec.ofNat 32 (putBits v 30 1 1))
  else s

/-- The words of an area of the snapshot window from word 3 on, as register addresses (R673, R705, R728). -/
def snapWords (b : Nat) : List Nat :=
  let r := List.range
  match b with
  | 0 => Reg.GLB_LOAD_ERR :: (r 32).map Reg.GLB_PROG_STATUS
  | 1 => (r 16).flatMap (fun n => [Reg.HIF_CRING_NEXT n, Reg.HIF_CRING_STATUS n]) ++ (r 64).map Reg.HIF_PRING_STATUS
  | 2 => (r 8).flatMap (fun e => [Reg.DEC_STATUS e, Reg.DEC_ERR e, Reg.DEC_UTIL e])
  | 3 => (r 8).flatMap (fun e => [Reg.SHP_STATUS e, Reg.SHP_ERR e, Reg.SHP_UTIL e])
  | 4 => (r 2).map Reg.NET_PORT_STATUS ++ (r 32).map Reg.NET_FLOW_STATUS
  | 5 => [Reg.TIME_CLK_SEC_LO, Reg.TIME_CLK_SEC_HI, Reg.TIME_CLK_NS, Reg.TIME_CLK_FRAC, Reg.TIME_MONO_LO,
          Reg.TIME_MONO_HI, Reg.TIME_OFFSET]
  | 6 => (r 4).flatMap (fun n => [Reg.SCHED_CLS_CORES n, Reg.SCHED_CLS_READY n]) ++ (r 8).map Reg.SCHED_CLU_STATUS
  | 7 => (r 64).flatMap (fun c => [Reg.CORE_LRW_STATUS c, Reg.CORE_SCHED_STATUS c])
  | 8 => (r 4).flatMap (fun n => [Reg.SGS_STATUS n, Reg.SGS_ERR n, Reg.SGS_TRK_ROWS n])
  | 9 => (r 8).flatMap (fun c => [Reg.POOL_CLS_FREE c, Reg.POOL_CLS_HEADROOM c, Reg.POOL_CLS_STATUS c])
  | 10 => Reg.MEM_SECURE_STATUS :: (r 8).flatMap (fun k => [Reg.MEM_SB_PINNED k, Reg.MEM_SB_STATUS k])
  | 11 => (r 2).map Reg.HBM_STK_TEMP ++ (r 6).map Reg.HBM_RNK_STATE ++ [Reg.HBM_MIG_LEFT]
  | 12 => (r 4).flatMap (fun p => [Reg.LNK_PORT_STATUS p, Reg.LNK_PORT_CREDITS p])
  | 13 => [Reg.PWR_POWER, Reg.PWR_THROTTLE, Reg.PWR_CLK_ON] ++ (r 12).map Reg.PWR_RAIL
  | 14 => (r 12).map Reg.HLTH_GRP_SET ++ [Reg.HLTH_REC_USED]
  | 15 => [Reg.SEC_BOOT, Reg.SEC_LC_STATUS, Reg.SEC_TAMPER, Reg.SEC_CFG_EVENTS]
  | _ => []

/-- Base of the block of a snapshot area (R743). -/
def snapBase (b : Nat) : Nat :=
  match b with
  | 0 => 0 | 1 => 0x100000 | 2 => 0x400000 | 3 => 0x500000 | 4 => 0x600000 | 5 => 0x700000 | 6 => 0x800000
  | 7 => 0x1000000 | 8 => 0x1800000 | 9 => 0x1900000 | 10 => 0x1A00000 | 11 => 0x1B00000 | 12 => 0x1C00000
  | 13 => 0x1D00000 | 14 => 0x1E00000 | _ => 0x2000000

/-- The register a word of an area shows: word 0 the _ID register, words 1 and 2 the registers at 0x0008 and 0x000C,
then the block's list; an address with no register reads 0 (R17, R673). -/
def snapArea (b : Nat) : List Nat := snapBase b :: (snapBase b + 8) :: (snapBase b + 12) :: snapWords b

/-- Number the words of an area. -/
def snapPut (s : State) (t : Tbl (BitVec 32)) : Nat → List Nat → Tbl (BitVec 32)
  | _, [] => t
  | w, a :: l => snapPut s (tset (fun _ => 0) t w (s.view a)) (w + 4) l

/-- The snapshot words of every block that is not held in reset (R673). -/
def State.snapWindow (s : State) : Tbl (BitVec 32) :=
  (List.range 16).foldl (fun t b =>
    if s.held && fastAddr (snapBase b) then t
    else snapPut s t (0x1F01000 + 0x400 * b) (snapArea b)) []

/-- A hoist source acts (R674, R675): `bit` is its SOURCE bit, `code` and `node` the cause of an error source. -/
def State.hoist (s : State) (bit code node : Nat) : State :=
  if s.rd Reg.SNAP_CTRL_ARM = 1 ∧ s.snap.armMono ≠ some s.time.mono then
    let valid := ((List.range 16).filter (fun b => !(s.held && fastAddr (snapBase b)))).foldl (fun x b => x + 2 ^ b) 0
    let s1 := { s with snap := { s.snap with window := s.snapWindow, heldMono := s.time.mono } }
    let s2 := (((s1.wr Reg.SNAP_CTRL_ARM 0).wr Reg.SNAP_STATUS_HELD 1).wr Reg.SNAP_STATUS_SOURCE (2 ^ bit)).wr
      Reg.SNAP_VALID_BLOCKS valid
    let s3 := (((s2.setReg Reg.SNAP_AT_SEC_LO (s.view Reg.TIME_CLK_SEC_LO)).setReg Reg.SNAP_AT_SEC_HI
      (s.view Reg.TIME_CLK_SEC_HI)).setReg Reg.SNAP_AT_NS (s.view Reg.TIME_CLK_NS)).setReg Reg.SNAP_AT_FRAC
      (s.view Reg.TIME_CLK_FRAC)
    let s4 := (s3.setReg Reg.SNAP_AT_MONO_LO (s.view Reg.TIME_MONO_LO)).setReg Reg.SNAP_AT_MONO_HI
      (s.view Reg.TIME_MONO_HI)
    let s5 := (s4.wr Reg.SNAP_CAUSE_CODE code).wr Reg.SNAP_CAUSE_ROUTE_NODE node
    s5.cnt 0x0E05 0
  else if s.rd Reg.SNAP_STATUS_HELD = 1 ∧ s.snap.heldMono = s.time.mono then
    let s1 := s.wr Reg.SNAP_STATUS_SOURCE (s.rd Reg.SNAP_STATUS_SOURCE ||| 2 ^ bit)
    if code = 0 then s1 else (s1.wr Reg.SNAP_CAUSE_CODE code).wr Reg.SNAP_CAUSE_ROUTE_NODE node
  else (s.bump Reg.SNAP_MISSED_COUNT).cnt 0x0E06 0

/-- Does a code match a SNAP_ERR_SEL register (R674, R679)? -/
def State.errSelected (s : State) (code : Nat) : Bool :=
  (List.range 4).any (fun n =>
    let m := s.rd (Reg.SNAP_ERR_SEL_MASK n)
    decide (m ≠ 0) && decide (code &&& m = s.rd (Reg.SNAP_ERR_SEL_CODE n) &&& m))

/-- USED and the class summary follow the record file (R678). -/
def State.recSummary (s : State) : State :=
  let v := s.hlth.recs.filter (fun r => r.2.valid)
  let cls := v.foldl (fun x r => x ||| 2 ^ (r.2.code / 256)) 0
  (s.wr Reg.HLTH_REC_USED_USED v.length).wr Reg.HLTH_REC_SUMMARY_CLASSES (cls / 2)

/-- File an event in the record file (R657, R658), and give it to the snapshot's error sources (R674). -/
def State.file (s : State) (blk : Blk) (inst code : Nat) (d0 d1 : Nat := 0) : State :=
  let at_ := fun i => tget (fun _ => ({} : Rec)) s.hlth.recs i
  let put := fun (s : State) i (r : Rec) =>
    { s with hlth := { s.hlth with recs := tset (fun _ => {}) s.hlth.recs i r } }
  let s1 : State :=
    match (s.hlth.recs.find? (fun r => r.2.valid && r.2.code == code && r.2.block == blk.num && r.2.inst == inst)) with
    | some (i, r) => put s i { r with count := min 16383 (r.count + 1), last := s.time.mono }
    | none =>
      match (List.range 128).find? (fun i => !(at_ i).valid) with
      | some i =>
        let s' := put s i { valid := true, code := code, count := 1, block := blk.num, inst := inst,
                            d0 := d0, d1 := d1, first := s.time.mono, last := s.time.mono }
        { s' with hlth := { s'.hlth with recFull := false } }
      | none =>
        let s' := (s.bump Reg.HLTH_REC_LOST_COUNT).cnt 0x0E04 0
        if s.hlth.recFull then s'
        else { s'.setErr Reg.HLTH_ERR true (0, 0, 0) 0x0E06 with hlth := { s'.hlth with recFull := true } }
  let s2 := s1.recSummary
  if s2.rd Reg.SNAP_CTRL_SRC_ERR = 1 ∧ s2.errSelected code = true then s2.hoist 2 code 0xFFFF else s2

/-! ### Pennants that wait for EGR -/

/-- Is a FRAME_SEQ before another, modulo 2^32 (R26, R545)? -/
def seqBefore (a b : Nat) : Bool := decide (0 < (b + 2 ^ 32 - a % 2 ^ 32) % 2 ^ 32 ∧ (b + 2 ^ 32 - a % 2 ^ 32) % 2 ^ 32 < 2 ^ 31)

/-- Does pennant `p` go before the waiting pennant `q` of its ring (R27, R28, R285)? -/
def pnBefore (p q : Pn) : Bool :=
  match p.line, q.line with
  | .frame a n, .frame b m => a == b && (seqBefore n m || (n == m && decide (p.node < q.node)))
  | .cmd i, .cmd j => i == j && decide (p.node < q.node)
  | _, _ => false

/-- Add a pennant to the ready pennants of a ring. -/
def insPn (p : Pn) : List Pn → List Pn
  | [] => [p]
  | q :: t => if pnBefore p q then p :: q :: t else q :: insPn p t

/-- A pennant becomes ready on a ring. -/
def State.sendTo (s : State) (ring : Nat) (p : Pn) : State :=
  let r := s.pring ring
  s.setPring ring { r with ready := insPn p r.ready }

/-- The present ticket value: the low 32 bits of the count of AON ticks (R544). -/
def State.ticketNow (s : State) : Nat := s.time.mono / 40 % 2 ^ 32

/-- The age of a ticket in AON ticks as an arbiter takes it: at most 2^30 (R545). -/
def ticketAge (now t : Nat) : Nat := min ((now + 2 ^ 32 - t % 2 ^ 32) % 2 ^ 32) (2 ^ 30)

/-- Ticket `a` is older than ticket `b` at the present count `now` (R545). -/
def olderTicket (now a b : Nat) : Bool := decide (ticketAge now b < ticketAge now a)

/-- A device-level pennant falls due (R97): it joins the queue of 1,024 that EGR writes to the service ring in order; one that finds
the queue full is counted.  The spec has the queue only for a service ring that is not ACTIVE; the model keeps every waiting
device-level pennant in it, so one that waits for room on an ACTIVE ring stands there too (DESIGN CHOICE, log entry 12). -/
def State.sendSvc (s : State) (p : Pn) : State :=
  if s.hif.svcQueue.length < 1024 then
    { s with hif := { s.hif with svcQueue := s.hif.svcQueue ++ [{ p with ticket := s.ticketNow }] } }
  else s.bump Reg.HIF_SVC_LOST_COUNT

/-- The body of an ERROR pennant (R44): CMD_SEQ, SLOT_INDEX and CMD_RING, or NO_CMD. -/
def errBody (cmd : Option (Nat × Nat × Nat)) (d0 d1 : Nat) : Nat :=
  match cmd with
  | some (seq, idx, ring) => packBits [(96, 32, seq), (64, 32, d0), (48, 16, idx), (44, 4, ring), (0, 32, d1)]
  | none => packBits [(64, 32, d0), (43, 1, 1), (0, 32, d1)]

/-- A device-level ERROR pennant: it names no command (R37, R97). -/
def State.devError (s : State) (code d0 d1 : Nat) (stn : Nat := 9) (inst : Nat := 0xFF) : State :=
  s.sendSvc { ty := 0x12, ct := s.now, stn := stn, inst := inst, err := code, body := errBody none d0 d1 }

/-- A STAT result as pennants of at most 60 entries (R43, R44, R49): `key` and the header fields come from `p`. -/
def statPieces (p : Pn) (kind : Nat) (refSeq : Nat) (dup : Bool) (entries : List (Nat × Nat × Nat)) : List Pn :=
  let cell := fun (e : Nat × Nat × Nat) => packBits [(64, 64, e.2.2), (32, 32, e.1), (0, 16, e.2.1)]
  let blk := fun (l : List (Nat × Nat × Nat)) =>
    (l.map cell).foldr (fun c acc => c + acc * 2 ^ 128) 0
  let pieces := if entries.isEmpty then [[]] else chunksOf 60 entries.length entries
  let n := pieces.length
  pieces.zipIdx.map (fun (l, i) =>
    { p with
      ty := 0x13
      flags := (if dup then 2 ^ 5 else 0) + (if i + 1 < n then 2 ^ 4 else 0)
      body := packBits [(112, 16, kind), (96, 16, l.length), (0, 64, refSeq)]
      exts := (chunksOf 4 l.length l).map blk })

/-! ### Commands -/

def slotTag (w : BitVec 512) : Nat := bitsOf w.toNat 0 32
def slotOpcode (w : BitVec 512) : Nat := bitsOf w.toNat 32 8
def slotHostTs (w : BitVec 512) : Nat := bitsOf w.toNat 40 1
def slotEos (w : BitVec 512) : Nat := bitsOf w.toNat 41 1
def slotDiscont (w : BitVec 512) : Nat := bitsOf w.toNat 42 1
def slotStream (w : BitVec 512) : Nat := bitsOf w.toNat 48 7
def slotJob (w : BitVec 512) : Nat := bitsOf w.toNat 64 32
def slotParam (w : BitVec 512) : Nat := bitsOf w.toNat 96 32
def slotAddr (w : BitVec 512) : Nat := bitsOf w.toNat 128 64
def slotLength (w : BitVec 512) : Nat := bitsOf w.toNat 192 32
def slotArg1 (w : BitVec 512) : Nat := bitsOf w.toNat 224 32
def slotPts (w : BitVec 512) : Nat := bitsOf w.toNat 256 64
def slotCtSec (w : BitVec 512) : Nat := bitsOf w.toNat 320 48
def slotCtNs (w : BitVec 512) : Nat := bitsOf w.toNat 368 30
def slotArg2 (w : BitVec 512) : Nat := bitsOf w.toNat 416 64
def slotEcho (w : BitVec 512) : Nat := bitsOf w.toNat 480 32

/-- STREAM_ID of a pennant that answers a slot (R36). -/
def slotPnStream (w : BitVec 512) : Nat :=
  let o := slotOpcode w
  if o = 0x20 ∨ o = 0x21 ∨ o = 0x22 ∨ o = 0x30 ∨ o = 0x31 ∨ o = 0x32 then slotStream w else 0

/-- The accepted command with a JOURNAL_INDEX. -/
def State.cmd? (s : State) (j : Nat) : Option Cmd := s.jrnl.cmds.find? (fun c => c.jidx == j)

/-- Change an accepted command. -/
def State.updCmd (s : State) (j : Nat) (f : Cmd → Cmd) : State :=
  { s with jrnl := { s.jrnl with cmds := updFirst (fun c => c.jidx == j) f s.jrnl.cmds } }

/-- The running command with a JOURNAL_INDEX and an OPCODE: accepted, and its final pennant not yet due. -/
def State.running (s : State) (j opcode : Nat) : Option Cmd :=
  match s.cmd? j with
  | some c => if slotOpcode c.slot = opcode ∧ c.ended = false then some c else none
  | none => none

/-- The ring that answers a command (R71, R106). -/
def State.ackRing (s : State) (c : Cmd) : Nat := s.rd (Reg.HIF_CRING_CFG_PRING_ACK c.ring)

/-- A pennant that answers a command (R36, R37): ACCEPT, DONE, ERROR or STAT.  Its SVC_CLASS is 0: the spec gives these pennants no
class (DESIGN CHOICE, log entry 34).  Its ticket is that of the acceptance (R544). -/
def cmdPn (c : Cmd) (ty : Nat) (ct : Stamp) : Pn :=
  { ty := ty, stream := slotPnStream c.slot, job := slotJob c.slot, ct := ct, key := .cmd c.jidx, ticket := c.mono / 40 % 2 ^ 32 }

/-- The names a body carries for a command: CMD_SEQ, SLOT_INDEX, CMD_RING (R37). -/
def cmdName (c : Cmd) : Nat × Nat × Nat := (slotTag c.slot, c.slotIdx, c.ring)

/-- µs since the acceptance of a command, saturating (R44). -/
def State.duration (s : State) (c : Cmd) : Nat := min 0xFFFFFFFF ((s.time.mono - c.mono) / 1000)

/-- Post the DONE of a command, with ERR_CODE `code` (R35, R44, R69). -/
def State.done (s : State) (c : Cmd) (code : Nat := 0) : State :=
  let p := { cmdPn c 0x11 s.now with
    err := code
    final := true
    body := packBits [(96, 32, slotTag c.slot), (48, 16, c.slotIdx), (44, 4, c.ring), (0, 32, s.duration c)] }
  (s.updCmd c.jidx (fun c => { c with ended := true, waiting := false })).sendTo (s.ackRing c) p

/-- An ERROR pennant that answers a command and does not end it by itself (R37, R44). -/
def State.cmdError (s : State) (c : Cmd) (ring code d0 d1 : Nat) (ct : Option Stamp := none) : State :=
  s.sendTo ring { cmdPn c 0x12 (ct.getD s.now) with err := code, body := errBody (some (cmdName c)) d0 d1 }

/-- End a command with an ERROR on a ring and a DONE that carries the same code (R142, R299). -/
def State.failCmd (s : State) (c : Cmd) (ring code d0 d1 : Nat) : State :=
  (s.cmdError c ring code d0 d1).done c code

/-! ### Reads of a command's data (R55, R57, R63) -/

/-- A read of `len` bytes at `addr` as requests of at most `m` bytes, cut at multiples of `m`, which keeps each inside its page. -/
def readPieces (m addr len : Nat) : List (Nat × Nat) :=
  (List.range ((addr + len - 1) / m + 1 - addr / m)).map (fun i =>
    let lo := max addr ((addr / m + i) * m)
    (lo, min (addr + len) ((addr / m + i + 1) * m) - lo))

/-- The read requests that R57 lets carry Relaxed Ordering: those for access units, program images, tensors and weights. -/
def relaxable (op : Nat) (job : Bool) : Bool := op == 0x30 || op == 0x10 || job

/-- Issue the requests of a read of a command's data. -/
def State.issueRead (s : State) (jidx addr len : Nat) (relaxed : Bool) : State :=
  (readPieces s.maxRead addr len).foldl (fun s q =>
    s.post (.dataRead jidx q.2 { s.tlp q.1 with relaxed := relaxed && s.relaxes })) s

/-- Begin a read of a command's data: its requests go out once every page is translated. -/
def State.startRead (s : State) (c : Cmd) (addr len : Nat) (relaxed : Bool) : State :=
  let pages := s.untranslated false (pagesOf addr len)
  let s1 := s.updCmd c.jidx (fun c => { c with reads := c.reads ++ [(addr, len, pages)] })
  if pages.isEmpty then s1.issueRead c.jidx addr len relaxed else s1.askXlate pages

/-- The data of a command arrive: its reads begin unless they have begun, and they are over once all their requests were issued. -/
def State.fetched (s : State) (c : Cmd) (parts : List (Nat × Nat)) (relaxed : Bool) : State × Bool :=
  let have_ := match s.cmd? c.jidx with | some d => d.reads | none => []
  let s1 := (parts.filter (fun q => !(have_.any (fun r => r.1 == q.1 && r.2.1 == q.2)))).foldl
    (fun s q => s.startRead c q.1 q.2 relaxed) s
  let waits := match s1.cmd? c.jidx with | some d => d.reads.any (fun r => !r.2.2.isEmpty) | none => false
  if waits then (s1, false) else (s1.updCmd c.jidx (fun c => { c with reads := [] }), true)

/-- The object at ADDR of a command is read (R69). -/
def State.fetchedObj (s : State) (c : Cmd) : State × Bool :=
  s.fetched c [(slotAddr c.slot, slotLength c.slot)] (relaxable (slotOpcode c.slot) false)

/-- A page that reads of data wait for is translated: those that wait for nothing more are issued (R63). -/
def State.xlated (s : State) (page : Nat) : State :=
  let go := s.jrnl.cmds.flatMap (fun c => (c.reads.filter (fun r => r.2.2 == [page])).map (fun r => (c, r)))
  let s1 : State := { s with jrnl := { s.jrnl with cmds := s.jrnl.cmds.map (fun c =>
    { c with reads := c.reads.map (fun r => (r.1, r.2.1, r.2.2.erase page)) }) } }
  go.foldl (fun s q => s.issueRead q.1.jidx q.2.1 q.2.2.1 (relaxable (slotOpcode q.1.slot) q.1.waiting)) s1

end Sys2Proof.Machine
end

