-- ==== Sys2Proof/Machine/Hash.lean ====
section
/-! DEFINITION. The checksums and digests of the spec: CRC-32 of IEEE 802.3 (R296), SM3, and the extension of CFG_DIGEST (R720). -/

set_option Elab.async false

namespace Sys2Proof.Machine

/-! ### CRC-32 -/

/-- Eight steps of the reflected polynomial. -/
def crcBits : Nat → Nat → Nat
  | 0, c => c
  | n + 1, c => crcBits n (if c % 2 = 1 then (c / 2) ^^^ 0xEDB88320 else c / 2)

/-- The CRC-32 of some bytes (R296). -/
def crc32 (l : List Nat) : Nat := (l.foldl (fun c b => crcBits 8 (c ^^^ (b % 256))) 0xFFFFFFFF) ^^^ 0xFFFFFFFF

/-! ### SM3 -/

/-- A byte list as a number, the first byte highest. -/
def ofBytesBe (l : List Nat) : Nat := l.foldl (fun a b => a * 256 + b % 256) 0

/-- `n` bytes of a number, the highest first. -/
def bytesBe (n x : Nat) : List Nat := (bytesOf n x).reverse

abbrev W32 := BitVec 32

def sm3P0 (x : W32) : W32 := x ^^^ x.rotateLeft 9 ^^^ x.rotateLeft 17
def sm3P1 (x : W32) : W32 := x ^^^ x.rotateLeft 15 ^^^ x.rotateLeft 23

/-- The message words 0 to 67 of a block, the newest first. -/
def sm3Expand : Nat → List W32 → List W32
  | 0, l => l
  | n + 1, l =>
    let g := fun i => l.getD i 0
    sm3Expand n ((sm3P1 (g 15 ^^^ g 8 ^^^ (g 2).rotateLeft 15) ^^^ (g 12).rotateLeft 7 ^^^ g 5) :: l)

/-- One round of the compression on the registers A to H. -/
def sm3Round (j : Nat) (w w' : W32) (v : List W32) : List W32 :=
  match v with
  | [a, b, c, d, e, f, g, h] =>
    let t : W32 := if j < 16 then 0x79CC4519 else 0x7A879D8A
    let ss1 := (a.rotateLeft 12 + e + t.rotateLeft (j % 32)).rotateLeft 7
    let ss2 := ss1 ^^^ a.rotateLeft 12
    let ff := if j < 16 then a ^^^ b ^^^ c else (a &&& b) ||| (a &&& c) ||| (b &&& c)
    let gg := if j < 16 then e ^^^ f ^^^ g else (e &&& f) ||| (~~~e &&& g)
    [ff + d + ss2 + w', a, b.rotateLeft 9, c, sm3P0 (gg + h + ss1 + w), e, f.rotateLeft 19, g]
  | v => v

def sm3Block (v : List W32) (block : List Nat) : List W32 :=
  let w := (sm3Expand 52 ((chunksOf 4 16 block).map (fun b => BitVec.ofNat 32 (ofBytesBe b))).reverse).reverse
  let r := (List.range 64).foldl (fun x j => sm3Round j (w.getD j 0) (w.getD j 0 ^^^ w.getD (j + 4) 0) x) v
  List.zipWith (fun a b => a ^^^ b) v r

/-- The SM3 digest of some bytes, as 32 bytes. -/
def sm3 (l : List Nat) : List Nat :=
  let n := l.length
  let m := l ++ 0x80 :: List.replicate ((119 - n % 64) % 64) 0 ++ bytesBe 8 (8 * n)
  let iv : List W32 := [0x7380166F, 0x4914B2B9, 0x172442D7, 0xDA8A0600, 0xA96F30BC, 0x163138AA, 0xE38DEE4D, 0xB0FB0E4E]
  ((chunksOf 64 m.length m).foldl sm3Block iv).flatMap (fun x => bytesBe 4 x.toNat)

/-! ### CFG_DIGEST (R720) -/

/-- The bytes that registers of consecutive words show (R8). -/
def State.regBytes (s : State) (a n : Nat) : List Nat := (List.range n).flatMap (fun i => bytesOf 4 (s.reg (a + 4 * i)).toNat)

/-- Show bytes in registers of consecutive words (R8). -/
def State.putBytes (s : State) (a : Nat) (l : List Nat) : State :=
  (chunksOf 4 l.length l).zipIdx.foldl (fun s q => s.setReg (a + 4 * q.2) (BitVec.ofNat 32 (ofBytes q.1))) s

/-- CFG_DIGEST is extended with an item of a kind (R720). -/
def State.cfgExtend (s : State) (kind : Nat) (item : List Nat) : State :=
  let d := sm3 (s.regBytes (Reg.SEC_CFG_DIGEST 0) 8 ++ kind :: sm3 item)
  (s.putBytes (Reg.SEC_CFG_DIGEST 0) d).bump Reg.SEC_CFG_EVENTS_COUNT

end Sys2Proof.Machine
end

