-- ==== Sys2Proof/Machine/Egr.lean ====
section
/-! DEFINITION. EGR and the journal as shared operations: the pennant header (R34 to R36), room on a ring (R93), emit
records (R122, R123), the rewriting of journal entries (R119, R120), suppression during recovery (R125), MSI-X messages
(R99 to R101), halting of rings (R95, R109) and the writing of one pennant (R88). -/

set_option Elab.async false

namespace Sys2Proof.Machine

/-! ### Journal entries and emit records -/

/-- STATE of an entry (R118). -/
def EntrySt.num : EntrySt → Nat
  | .free => 0 | .accepted => 1 | .held => 2 | .released => 3

/-- The 128 bytes of a journal entry (R118). -/
def Entry.bits (e : Entry) : BitVec 1024 :=
  BitVec.ofNat 1024 (packBits [(960, 64, e.acceptSeq), (896, 64, e.doneSeq), (560, 16, e.slotIdx), (556, 4, e.ring),
    (548, 4, e.st.num), (512, 32, e.jidx), (0, 512, e.slot.toNat)])

/-- An entry read from its 128 bytes (R118); a reserved STATE reads as FREE. -/
def Entry.ofBits (w : BitVec 1024) : Entry :=
  let x := w.toNat
  { st := match bitsOf x 548 4 with | 1 => .accepted | 2 => .held | 3 => .released | _ => .free
    jidx := bitsOf x 512 32
    slot := BitVec.ofNat 512 (bitsOf x 0 512)
    ring := bitsOf x 556 4
    slotIdx := bitsOf x 560 16
    acceptSeq := bitsOf x 960 64
    doneSeq := bitsOf x 896 64 }

/-- The 16 bytes of an emit record (R122). -/
def EmitRec.bits (r : EmitRec) : BitVec 128 :=
  BitVec.ofNat 128 (packBits [(64, 64, r.ringSeq), (32, 32, r.keySeq), (26, 6, r.pring), (25, 1, if r.kind1 then 1 else 0),
    (18, 7, r.stream), (0, 18, r.ordinal)])

/-- An emit record read from its 16 bytes (R122). -/
def EmitRec.ofBits (w : BitVec 128) : EmitRec :=
  let x := w.toNat
  { ringSeq := bitsOf x 64 64, keySeq := bitsOf x 32 32, pring := bitsOf x 26 6, kind1 := decide (bitsOf x 25 1 = 1),
    stream := bitsOf x 18 7, ordinal := bitsOf x 0 18 }

/-- Number of journal entries and of emit records (R115). -/
def State.jSize (s : State) : Nat := 2 ^ s.rd Reg.HIF_JRNL_CFG_LOG2_ENTRIES
def State.logSize (s : State) : Nat := 2 ^ s.rd Reg.HIF_JRNL_CFG_LOG2_EMIT

/-- The journal is in use (R122). -/
def State.jInUse (s : State) : Bool :=
  decide (s.rd Reg.HIF_JRNL_CFG_ENABLE = 1 ∨ s.rd Reg.HIF_JRNL_CFG_DRAINING = 1)

/-- The entry a JOURNAL_INDEX occupies (R118). -/
def State.entry (s : State) (j : Nat) : Entry := tget (fun _ => {}) s.jrnl.entries (j % s.jSize)

/-- Host address of an entry of the array, and of a position of the emit log, which follows the array (R115). -/
def State.entryAddr (s : State) (i : Nat) : Nat := s.rd64 Reg.HIF_JRNL_BASE_LO Reg.HIF_JRNL_BASE_HI + 128 * i
def State.logAddr (s : State) (pos : Nat) : Nat := s.entryAddr s.jSize + 16 * pos

/-- Write a journal entry to the mirror and to host memory (R113, R121). -/
def State.putEntry (s : State) (e : Entry) : State :=
  let i := e.jidx % s.jSize
  { s with jrnl := { s.jrnl with entries := tset (fun _ => {}) s.jrnl.entries i e }
           out := s.out ++ [.journal i e.bits (s.tlp (s.entryAddr i))] }

/-- Post the emit record of a log position to host memory; zeros where the position holds none (R122). -/
def State.postRec (s : State) (pos : Nat) : State :=
  let bits := match tget (fun _ => none) s.jrnl.log pos with | some r => EmitRec.bits r | none => 0
  s.post (.emitRec pos bits (s.tlp (s.logAddr pos)))

/-- An entry is free for a new acceptance (R114, R121). -/
def State.entryFree (s : State) : Bool :=
  let e := s.entry s.jrnl.nextIdx
  e.st == .free || e.st == .released

/-- The journal entry of a command is not RELEASED. -/
def State.unreleased (s : State) (j : Nat) : Bool :=
  let e := s.entry j
  e.jidx == j && (e.st == .accepted || e.st == .held)

/-- After a recovery from the host region, a stream's commands of which one may still be tied to its records (R123): its re-executed
STREAM_OPEN and AU_SUBMITs that have not run yet. -/
def State.auPending (s : State) (st : Nat) : Bool :=
  s.jrnl.cmds.any (fun c => c.replay && !c.waiting && !c.ended && slotStream c.slot == st &&
    (slotOpcode c.slot == 0x20 || slotOpcode c.slot == 0x30))

/-- An emit record stays live (R123). -/
def State.recLive (s : State) (r : EmitRec) : Bool :=
  let st := s.stream r.stream
  let live := match st.contract with | some k => bitsOf k.toNat 224 2 == 1 | none => false
  if r.kind1 then s.unreleased r.keySeq
  else if r.old then false
  else
    match r.au with
    | some j => s.unreleased j
    | none =>
      if live then
        st.openJidx.isSome &&
          (match st.ckpt with
           | some k => !(seqBefore r.keySeq k.seq)
           | none => true)
      else s.auPending r.stream

/-- The record at the log's write position may be overwritten (R123). -/
def State.logFree (s : State) : Bool :=
  match tget (fun _ => none) s.jrnl.log s.jrnl.logPos with
  | none => true
  | some r => !(s.recLive r)

/-- The key of a pennant that recovery could regenerate: KIND 1, KEY_SEQ, STREAM_ID and the AU_SUBMIT (R122). -/
def pnKey (p : Pn) : Option (Bool × Nat × Nat × Option Nat) :=
  match p.key with
  | .frame st n au => some (false, n, st, au)
  | .cmd j => some (true, j, 0, none)
  | _ => none

/-- The next ORDINAL of a key on a ring (R122). -/
def State.ordinal (s : State) (k : Bool × Nat × Nat × Nat) : Nat :=
  match s.jrnl.ordinals.find? (fun x => x.1 == k) with
  | some x => x.2
  | none => 0

/-- Count one more pennant under a key. -/
def State.countOrdinal (s : State) (k : Bool × Nat × Nat × Nat) : State :=
  let l := s.jrnl.ordinals
  let l' := if l.any (fun x => x.1 == k) then updFirst (fun x => x.1 == k) (fun x => (x.1, x.2 + 1)) l else (k, 1) :: l
  { s with jrnl := { s.jrnl with ordinals := l' } }

/-- Post the emit record of a pennant (R122), when the journal is in use and recovery could regenerate the pennant. -/
def State.emitRecord (s : State) (p : Pn) (ring ringSeq : Nat) : State :=
  match pnKey p with
  | none => s
  | some (k1, key, st, au) =>
    let k := (k1, key, st, ring)
    if s.jInUse then
      let r : EmitRec := { ringSeq := ringSeq, keySeq := key, pring := ring, kind1 := k1, stream := st,
                           ordinal := s.ordinal k, au := au }
      let pos := s.jrnl.logPos
      let s1 := { s with jrnl := { s.jrnl with log := tset (fun _ => none) s.jrnl.log pos (some r)
                                               logPos := (pos + 1) % s.logSize } }
      (s1.postRec pos).countOrdinal k
    else s.countOrdinal k

/-- Rewrite an entry's STATE without touching DONE_SEQ, keeping what is already RELEASED or FREE. -/
def State.releaseEntry (s : State) (j : Nat) : State :=
  if s.unreleased j then s.putEntry { s.entry j with st := .released } else s

/-- HELD entries of a stream older than JOURNAL_INDEX `j` become RELEASED (R120). -/
def State.releaseHeld (s : State) (stream j : Nat) : State :=
  (s.jrnl.entries.filter (fun e => e.2.st == .held && slotStream e.2.slot == stream && seqBefore e.2.jidx j)).foldl
    (fun s e => s.putEntry { e.2 with st := .released }) s

/-- The rewriting of a command's entry when its DONE or ERROR is posted or suppressed with RING_SEQ `seq` (R119, R120). -/
def State.rewriteEntry (s : State) (c : Cmd) (seq err : Nat) : State :=
  let e := s.entry c.jidx
  if e.jidx = c.jidx ∧ (e.st = .accepted ∨ e.st = .held) then
    let op := slotOpcode c.slot
    let st := slotStream c.slot
    let st' : EntrySt := if op = 0x30 then .held else if op = 0x20 ∧ err = 0 then .accepted else .released
    let s1 := s.putEntry { e with doneSeq := seq, st := st' }
    if op = 0x30 ∧ c.rap = true then s1.releaseHeld st c.jidx
    else if op = 0x22 then
      -- the STREAM_OPEN entry stays ACCEPTED until the DONE of its STREAM_CLOSE (R120)
      match c.opened with
      | some o => s1.releaseEntry o
      | none => s1
    else s1
  else s

/-! ### Interrupts -/

/-- A message is due on a vector: it is posted, or its PBA bit is set when the vector is masked; either way the
unannounced counts and timers of every ring that names the vector clear (R100, R101). -/
def State.message (s : State) (v : Nat) : State :=
  let s1 := (List.range 64).foldl (fun s m =>
    if s.rd (Reg.HIF_PRING_CFG_VECTOR m) = v then
      s.setPring m { s.pring m with unann := 0, timer := false } else s) s
  if (s1.reg (Reg.MSIX_CTRL v)).toNat % 2 = 1 then
    let a := Reg.MSIX_PBA (v / 32)
    s1.setReg a (BitVec.ofNat 32 ((s1.reg a).toNat ||| 2 ^ (v % 32)))
  else s1.post (.msix v (s1.rd64 (Reg.MSIX_ADDR_LO v) (Reg.MSIX_ADDR_HI v)) (s1.reg (Reg.MSIX_DATA v)))

/-- A pennant has been written: count it, and post a message when one is due; TIME 0 turns the timer off (R99, R104). -/
def State.announce (s : State) (ring : Nat) (isError : Bool) : State :=
  let r := s.pring ring
  let n := r.unann + 1
  let timer := decide (s.rd (Reg.HIF_PRING_MOD_TIME ring) ≠ 0)
  let s1 := s.setPring ring { r with unann := n, timer := timer }
  let count := max 1 (s.rd (Reg.HIF_PRING_MOD_COUNT ring))
  if count ≤ n ∨ (isError = true ∧ s.rd (Reg.HIF_PRING_MOD_ERR_IMMEDIATE ring) = 1) then
    s1.message (s.rd (Reg.HIF_PRING_CFG_VECTOR ring))
  else s1

/-! ### Halts -/

/-- Record a code of class 0x01 in HIF_ERR with its ring and address, and file it (R106, R108, R109). -/
def State.hifErr (s : State) (code ring addr d0 d1 : Nat) : State :=
  let first := s.rd Reg.HIF_ERR_VALID = 0
  let s1 := s.setErr Reg.HIF_ERR true (16, 7, ring) code
  let s2 := if first then s1.wr64 Reg.HIF_ERR_ADDR_LO Reg.HIF_ERR_ADDR_HI addr else s1
  s2.file .hif ring code d0 d1

/-- Slot that holds a tag (R72). -/
def State.slotIndex (s : State) (c tag : Nat) : Nat :=
  (tag + 2 ^ 32 - s.rd (Reg.HIF_CRING_SEQ0_SEQ0 c)) % 2 ^ 32 % 2 ^ s.rd (Reg.HIF_CRING_CFG_LOG2_SLOTS c)

/-- The re-reads of a poisoned read are over (R750). -/
def State.dropPoison (s : State) (p : HostAccess → Bool) : State :=
  { s with hif := { s.hif with poison := s.hif.poison.filter (fun q => !p q.1) } }

/-- A command ring halts (R109): its error register, HIF_ERR, the record file, and an ERROR to the service ring that
names the expected slot (R37).  A slot that waits for its acceptance is not accepted: it holds the expected tag still (R102, R113). -/
def State.haltCring (s : State) (c code addr d0 d1 : Nat) : State :=
  let tag := s.rd (Reg.HIF_CRING_NEXT_NEXT c)
  let s1 := (s.setErr (Reg.HIF_CRING_ERR c) false (0, 0, 0) code).hifErr code c addr d0 d1
  let s2 := ((s1.wr (Reg.HIF_CRING_STATUS_STATE c) 5).setCring c { s1.cring c with polling := false, torn := none, wait := none }).dropPoison
    (· == .slot c)
  s2.sendSvc { ty := 0x12, ct := s2.now, err := code,
               body := errBody (some (tag, s2.slotIndex c tag, c)) d0 d1 }

/-- A pennant ring halts (R65, R95, R109).  With PRING_CONS or ATS_FAULT its ERROR is not written when it is itself the service ring
(R65, R95); with HOST_READ_FAIL or HOST_POISON it is a device-level pennant as any other (R97, R109). -/
def State.haltPring (s : State) (m code addr d0 d1 : Nat) : State :=
  let s1 := (s.setErr (Reg.HIF_PRING_ERR m) false (0, 0, 0) code).hifErr code (64 + m) addr d0 d1
  let s2 := (s1.wr (Reg.HIF_PRING_STATUS_STATE m) 5).dropPoison (fun a => a == .consumer m || a == .pennant m)
  if s2.rd Reg.HIF_SVC_PRING_PRING = m ∧ (code = 0x0108 ∨ code = 0x0109) then s2 else s2.devError code d0 d1

/-- The journal or its emit log cannot be reached: every command ring halts with JRNL_UNREACHABLE, one that is DISABLED too, and a
recovery in progress ends (R65, R108, R130, R136). -/
def State.journalLost (s : State) (j addr : Nat) : State :=
  let up := (List.range 16).filter (fun c => s.rd (Reg.HIF_CRING_STATUS_STATE c) != 5)
  let s1 := if up.isEmpty then s.hifErr 0x010C 63 addr j addr else up.foldl (fun s c => s.haltCring c 0x010C addr j addr) s
  let s2 := ((s1.wr Reg.HIF_STATUS_JRNL_OK 0).wr Reg.HIF_JRNL_CFG_RECOVERING 0).dropPoison
    (fun a => match a with | .journal _ => true | _ => false)
  { s2 with jrnl := { s2.jrnl with reachable := false, breached := true } }

/-! ### Room on a pennant ring -/

/-- PRODUCED (R93). -/
def State.produced (s : State) (m : Nat) : Nat := s.rd64 (Reg.HIF_PRING_PROD_LO m) (Reg.HIF_PRING_PROD_HI m)

/-- Blocks of a pennant ring (R87). -/
def State.blocks (s : State) (m : Nat) : Nat := 2 ^ s.rd (Reg.HIF_PRING_CFG_LOG2_BLOCKS m)

/-- Host address of a ring's consumer record, and of a block of the ring (R87, R92). -/
def State.consAddr (s : State) (m : Nat) : Nat := s.rd64 (Reg.HIF_PRING_CONS_LO m) (Reg.HIF_PRING_CONS_HI m)
def State.blockAddr (s : State) (m b : Nat) : Nat := s.rd64 (Reg.HIF_PRING_BASE_LO m) (Reg.HIF_PRING_BASE_HI m) + 64 * b

/-- Next RING_SEQ (R90). -/
def State.ringSeq (s : State) (m : Nat) : Nat := s.rd64 (Reg.HIF_PRING_SEQ_LO m) (Reg.HIF_PRING_SEQ_HI m)

/-- A value of CONSUMED that halts the ring (R95): lowered since the enable, above PRODUCED, or more than the ring size
below it. -/
def State.consBad (s : State) (m v : Nat) : Bool :=
  let p := s.produced m
  decide (p < v) || decide (v + s.blocks m < p) ||
    (match (s.pring m).cons with
     | some c => decide (v < c)
     | none => false)

/-- Free blocks by the last CONSUMED read (R93). -/
def State.freeBlocks (s : State) (m : Nat) : Nat :=
  s.blocks m - (s.produced m - ((s.pring m).cons.getD 0))

/-- The outcome of the free-space check of R93 for `b` blocks, with what a read of the consumer record returns. -/
inductive Room where
  /-- there is room; the state holds the CONSUMED that was read, if one was -/
  | room (s : State)
  | full (s : State)
  /-- the ring halted on a bad consumer record (R95) -/
  | halted (s : State)

/-- An episode of a full ring ends once the blocks it waits for are free (R94). -/
def State.endStall (s : State) (m : Nat) : State :=
  match (s.pring m).stalled with
  | some n => if n ≤ s.freeBlocks m then s.setPring m { s.pring m with stalled := none } else s
  | none => s

/-- The check of R93 needs a read of the consumer record. -/
def State.consNeeded (s : State) (m b : Nat) : Bool := (s.pring m).cons.isNone || decide (s.freeBlocks m < b)

/-- The free-space check (R93): the last CONSUMED first, then one read of the record. -/
def State.room (s : State) (m b consumed : Nat) : Room :=
  if s.consNeeded m b = false then .room (s.endStall m)
  else if s.consBad m consumed then
    .halted (s.haltPring m 0x0109 (s.consAddr m) consumed (s.produced m))
  else
    let s1 := ((s.setPring m { s.pring m with cons := some consumed }).post (.consRead m (s.tlp (s.consAddr m)))).endStall m
    if b ≤ s1.freeBlocks m then .room s1
    else if (s1.pring m).stalled.isSome then .full s1
    else .full ((s1.setPring m { s1.pring m with stalled := some b }).bump (Reg.HIF_PRING_STALLS_COUNT m))

/-! ### Writing one pennant -/

/-- The 64-byte header (R35). -/
def header (dev ring ringSeq flags body : Nat) (p : Pn) : BitVec 512 :=
  let sub := if bitsOf flags 8 1 = 1 ∨ bitsOf flags 3 1 = 1 then 0 else p.ct.sub
  BitVec.ofNat 512 (packBits [(384, 128, body), (368, 16, p.node), (360, 8, p.inst), (352, 8, p.stn), (336, 16, p.err),
    (288, 48, p.ct.sec), (258, 30, p.ct.ns), (256, 2, sub), (224, 32, p.job), (192, 32, p.frame), (128, 64, p.pts),
    (64, 64, ringSeq), (48, 6, ring), (42, 2, p.svc), (39, 3, p.dev.getD dev), (32, 7, p.stream), (16, 12, flags),
    (12, 4, p.exts.length), (8, 4, 1), (0, 8, p.ty)])

/-- Write the extension blocks in order, then the header, from block PRODUCED mod the ring size on (R87, R88, R93). -/
def State.postBlocks (s : State) (m : Nat) (hdr : BitVec 512) (exts : List Nat) : State :=
  let n := s.blocks m
  let b := s.produced m
  let ext := exts.zipIdx.map (fun (x, i) => Out.extBlock m ((b + 1 + i) % n) (BitVec.ofNat 512 x) (s.tlp (s.blockAddr m ((b + 1 + i) % n))))
  { s with out := s.out ++ ext ++ [.header m (b % n) hdr (s.tlp (s.blockAddr m (b % n)))] }

/-- Give the ring its next RING_SEQ and PRODUCED after a pennant of `b` blocks (R38, R93). -/
def State.advanceRing (s : State) (m b : Nat) : State :=
  (s.wr64 (Reg.HIF_PRING_SEQ_LO m) (Reg.HIF_PRING_SEQ_HI m) (s.ringSeq m + 1)).wr64 (Reg.HIF_PRING_PROD_LO m)
    (Reg.HIF_PRING_PROD_HI m) (s.produced m + b)

/-- The command a pennant counts for (R44 RECORDS): a command's own, or the AU_SUBMIT of a frame. -/
def pnCmd (p : Pn) : Option Nat :=
  match p.key with
  | .cmd j => some j
  | .frame _ _ au => au
  | _ => none

/-- A command whose final pennant is posted or suppressed: its entry is rewritten and the command is over (R119). -/
def State.finish (s : State) (p : Pn) (seq : Nat) : State :=
  match p.key with
  | .cmd j =>
    match s.cmd? j with
    | some c =>
      let s1 := if s.jInUse then s.rewriteEntry c seq p.err else s
      { s1 with jrnl := { s1.jrnl with cmds := s1.jrnl.cmds.filter (fun x => x.jidx != j) } }
    | none => s
  | _ => s

/-- The later of two emit records of one key: a reopened stream's FRAME_SEQs start again at 0 (R26, R125). -/
def laterRec (a b : Nat × EmitRec) : Nat × EmitRec := if a.2.ringSeq < b.2.ringSeq then b else a

/-- The emit record of a regenerated pennant (R125); one of an earlier opening of the stream matches none. -/
def State.matchRec (s : State) (p : Pn) (ring : Nat) : Option (Nat × EmitRec) :=
  match pnKey p with
  | none => none
  | some (k1, key, st, _) =>
    let o := s.ordinal (k1, key, st, ring)
    let l := s.jrnl.log.filterMap (fun x =>
      match x.2 with
      | some r => if r.kind1 == k1 && r.keySeq == key && r.stream == st && r.pring == ring && r.ordinal == o && !r.old then some (x.1, r)
                  else none
      | none => none)
    match l with
    | [] => none
    | x :: t => some (t.foldl laterRec x)

/-- The pennant comes from work that a recovery re-executes, or that ran again after a fault (R40, R126). -/
def State.isReplay (s : State) (p : Pn) : Bool :=
  let cmd := fun j => match s.cmd? j with
    | some c => c.replay
    | none => false
  p.rerun || match p.key with
  | .cmd j => cmd j
  | .frame _ _ (some j) => cmd j
  | .frame st n none =>
    match (s.stream st).replayTo with
    | some m => n == m || seqBefore n m
    | none => false
  | _ => false

/-- Suppress a regenerated pennant whose record is committed (R125). -/
def State.suppress (s : State) (ring : Nat) (p : Pn) (r : EmitRec) : State :=
  let q := s.pring ring
  let q' := { q with suppressed := q.suppressed + 1
                     firstSupp := if q.suppressed = 0 then r.ringSeq else min q.firstSupp r.ringSeq }
  let s1 := s.setPring ring q'
  let s2 := match pnKey p with
    | some (k1, key, st, _) => s1.countOrdinal (k1, key, st, ring)
    | none => s1
  let s2 := match pnCmd p with
    | some j => if p.ty = 0x10 ∨ p.final = true then s2 else s2.updCmd j (fun c => { c with records := c.records + 1 })
    | none => s2
  if p.final then s2.finish p r.ringSeq else s2

/-- The body as written: the DONE of a command carries the number of pennants its job wrote (R44). -/
def State.finalBody (s : State) (p : Pn) : Nat :=
  if p.final then
    match pnCmd p with
    | some j => match s.cmd? j with
      | some c => putBits p.body 64 32 c.records
      | none => p.body
    | none => p.body
  else p.body

/-- The gaps of a stream's FRAME_SEQs on a ring that frame `n` follows (R30). -/
def State.gapsTo (s : State) (st m n : Nat) : List Nat :=
  (tget (fun _ => []) s.hif.gaps (st * 64 + m)).filter (fun g => g == n || seqBefore g n)

/-- Frame `n` of the stream carries SEQ_GAP for the gaps it follows; they are told (R30). -/
def State.tellGaps (s : State) (st m n : Nat) : State :=
  let rest := (tget (fun _ => []) s.hif.gaps (st * 64 + m)).filter (fun g => !(g == n || seqBefore g n))
  { s with hif := { s.hif with gaps := tset (fun _ => []) s.hif.gaps (st * 64 + m) rest } }

/-- Pages of the journal that the writing of a pennant uses: its emit record, and the entries that its end rewrites (R119, R122). -/
def State.jrnlPages (s : State) (p : Pn) : List Nat :=
  let ofStream := fun (j : Nat) => s.jrnl.entries.filter (fun e => e.2.st != .free && slotStream e.2.slot == slotStream (s.entry j).slot)
  if s.jInUse then
    (if (pnKey p).isSome then pagesOf (s.logAddr s.jrnl.logPos) 16 else []) ++
      (match p.final, p.key with
       | true, .cmd j => pagesOf (s.entryAddr (j % s.jSize)) 128 ++ (ofStream j).flatMap (fun e => pagesOf (s.entryAddr e.1) 128)
       | _, _ => [])
  else []

/-- Pages of the blocks of a pennant of `b` blocks (R87, R88). -/
def State.blockPages (s : State) (m b : Nat) : List Nat :=
  (List.range b).flatMap (fun i => pagesOf (s.blockAddr m ((s.produced m + i) % s.blocks m)) 64)

/-- Translations that the writing of a pennant of `b` blocks still needs: its blocks, the journal, and the consumer record when the check
of R93 reads it (R63). -/
def State.needXlate (s : State) (m b : Nat) (p : Pn) : List Nat :=
  s.untranslated true (s.blockPages m b ++ s.jrnlPages p) ++
    (if s.consNeeded m b then s.untranslated false (pagesOf (s.consAddr m) 8) else [])

/-- Write a pennant on a ring that has room for it (R88, R113, R122): the emit record, the entry rewrite, the extension
blocks, the header, the counts and the message. -/
def State.writePn (s : State) (m : Nat) (p : Pn) (replayed : Bool) : State :=
  let seq := s.ringSeq m
  let gap := match p.key with
    | .frame st n _ => !(s.gapsTo st m n).isEmpty
    | _ => false
  let flags := p.flags ||| (if gap then 2 ^ 7 else 0) ||| (if replayed then 2 ^ 9 else 0)
  let body := s.finalBody p
  let s0 := match p.key with
    | .frame st n _ => s.tellGaps st m n
    | _ => s
  let s1 := s0.emitRecord p m seq
  let s2 := if p.final then s1.finish p seq else
    match pnCmd p with
    | some j => if p.ty = 0x10 then s1 else s1.updCmd j (fun c => { c with records := c.records + 1 })
    | none => s1
  let s3 := s2.postBlocks m (header (s.rd Reg.LNK_TOPO_MY_DEV) m seq flags body p) p.exts
  let s4 := s3.advanceRing m (1 + p.exts.length)
  let s5 := if replayed then s4.setPring m { s4.pring m with rewritten := (s4.pring m).rewritten + 1 } else s4
  s5.announce m (decide (p.ty = 0x12))

end Sys2Proof.Machine
end

