-- ==== Sys2Proof/Machine/Place.lean ====
section
/-! DEFINITION. The guards of a service class (R542) and the placement of HBM frames at a draw (R597 to R601). -/

set_option Elab.async false

namespace Sys2Proof.Machine

/-! ### Guards of a class -/

/-- The reset guards of a class (R24, R563). -/
def resetGuards (c : Nat) : Guards :=
  { share := bitsOf (regReset (Reg.SCHED_CLS_CFG c)).toNat 0 5
    ways := (regReset (Reg.SCHED_CLS_WAYS c)).toNat
    pch := (regReset (Reg.SCHED_CLS_PCH_LO c)).toNat + (regReset (Reg.SCHED_CLS_PCH_HI c)).toNat * 2 ^ 32 }

/-- The committed guards of a class (R542, R543). -/
def State.guard (s : State) (c : Nat) : Guards :=
  match s.sched.guards with
  | none => resetGuards c
  | some l => l.getD c (resetGuards c)

/-- The pseudo-channel group of a class, in ascending order. -/
def State.group (s : State) (c : Nat) : List Nat := (List.range 64).filter (fun p => bitsOf (s.guard c).pch p 1 == 1)

/-! ### Slots -/

/-- Slots that the frames placed at boot take of every pseudo-channel: the pools of classes 0 to 5 and the V96's own data,
6,144 frames of 16 slots over 64 pseudo-channels (R566, R598, R600). -/
def bootSlots : Nat := 1536

/-- Free slots of a pseudo-channel right after boot: stack 0 has three ranks in service, stack 1 two (R598). -/
def bootFree (p : Nat) : List (Nat × Nat) := [(bootSlots, (if p < 32 then 12288 else 8192) - bootSlots)]

/-- Free slots of a pseudo-channel, as (first, number) runs. -/
def State.freeSlots (s : State) (p : Nat) : List (Nat × Nat) :=
  match tget (fun _ => none) s.hbm.slots p with
  | none => bootFree p
  | some l => l

def State.setSlots (s : State) (p : Nat) (l : List (Nat × Nat)) : State :=
  { s with hbm := { s.hbm with slots := tset (fun _ => none) s.hbm.slots p (some l) } }

/-- Is the rank that holds slot `k` of pseudo-channel `p` in service: it reads ACTIVE (R598, R615)? -/
def State.slotInService (s : State) (p k : Nat) : Bool :=
  let st := s.rd (Reg.HBM_RNK_STATE_STATE (3 * (p / 32) + k / 4096))
  st == 0

/-- Cut runs at rank boundaries and drop those of ranks not in service. -/
def State.usableSlots (s : State) (p : Nat) : List (Nat × Nat) :=
  (s.freeSlots p).flatMap (fun r =>
    (List.range 3).filterMap (fun k =>
      let lo := max r.1 (4096 * k)
      let hi := min (r.1 + r.2) (4096 * (k + 1))
      if lo < hi ∧ s.slotInService p (4096 * k) = true then some (lo, hi - lo) else none))

/-- Number of free slots on ranks in service. -/
def State.nFree (s : State) (p : Nat) : Nat := sumNat ((s.usableSlots p).map (·.2))

/-- The lowest `n` slots of some runs. -/
def lowestOf : Nat → List (Nat × Nat) → List Nat
  | _, [] => []
  | 0, _ => []
  | n, (a, k) :: t => (List.range (min n k)).map (a + ·) ++ lowestOf (n - min n k) t

/-- Remove one index from some runs. -/
def runsDel (i : Nat) : List (Nat × Nat) → List (Nat × Nat)
  | [] => []
  | (a, k) :: t =>
    if a ≤ i ∧ i < a + k then
      (if a < i then [(a, i - a)] else []) ++ (if i + 1 < a + k then [(i + 1, a + k - (i + 1))] else []) ++ t
    else (a, k) :: runsDel i t

/-- Add one index to runs in ascending order, joining neighbours. -/
def runsAdd (i : Nat) : List (Nat × Nat) → List (Nat × Nat)
  | [] => [(i, 1)]
  | (a, k) :: t =>
    if i + 1 = a then (i, k + 1) :: t
    else if i < a then (i, 1) :: (a, k) :: t
    else if i = a + k then
      match t with
      | (b, m) :: u => if b = i + 1 then (a, k + 1 + m) :: u else (a, k + 1) :: t
      | [] => [(a, k + 1)]
    else (a, k) :: runsAdd i t

/-- The largest power of two no greater than min(n, 16). -/
def pow2Below (n : Nat) : Nat :=
  if 16 ≤ n then 16 else if 8 ≤ n then 8 else if 4 ≤ n then 4 else if 2 ≤ n then 2 else 1

/-- Pseudo-channels of a list with the most free slots first, ties to the lower (R600). -/
def State.byFree (s : State) (l : List Nat) : List Nat :=
  sortBy (fun a b => decide (s.nFree b ≤ s.nFree a)) l

/-- Take the lowest free slots of a pseudo-channel. -/
def State.takeSlots (s : State) (p n : Nat) : State × List Nat :=
  let l := lowestOf n (s.usableSlots p)
  (s.setSlots p (l.foldl (fun r i => runsDel i r) (s.freeSlots p)), l)

/-- The rank whose slots map to the spare since its retirement, when the first retirement was not the spare's own (R616, R618). -/
def State.redirected (s : State) : Option Nat :=
  match s.hbm.retired with
  | r :: _ => if r = 5 then none else some r
  | [] => none

/-- Where a slot lies now: slot i of a redirected rank is slot i of the spare on the pseudo-channel with the same position in its
stack (R616). -/
def State.slotHome (s : State) (k : Nat) : Nat :=
  let p := k / 16384
  let i := k % 16384
  if s.redirected = some (3 * (p / 32) + i / 4096) then 16384 * (32 + p % 32) + 8192 + i % 4096 else k

/-- Give the slots of a frame back. -/
def State.freeEntry (s : State) (e : FrameEnt) : State :=
  e.slots.flatten.foldl (fun s k =>
    let h := s.slotHome k
    s.setSlots (h / 16384) (runsAdd (h % 16384) (s.freeSlots (h / 16384)))) s

/-- The frame table entry of a frame placed at a draw. -/
def State.frame (s : State) (f : Nat) : Option FrameEnt := tget (fun _ => none) s.hbm.frames f

/-- The rank of a slot (R597, R598). -/
def rankAt (k : Nat) : Nat := 3 * (k / 16384 / 32) + k % 16384 / 4096

/-- Place one frame on the group of a class at a draw (R600, R601): it keeps its place when it lies in the group. -/
def State.placeFrame (s : State) (svc f : Nat) : State :=
  let g := s.group svc
  let old := s.frame f
  let keeps := match old with
    | some e => e.slots.flatten.all (fun k => g.contains (s.slotHome k / 16384))
    | none => false
  if keeps then s
  else
    let w := pow2Below g.length
    let need := 16 / w
    let good := fun p => decide (need ≤ s.nFree p)
    let inG := (s.byFree (g.filter good)).take w
    let outG := (s.byFree ((List.range 64).filter (fun p => !g.contains p && good p))).take (w - inG.length)
    let pchs := inG ++ outG
    let r := pchs.foldl (fun (x : State × List (List Nat)) p =>
      let y := x.1.takeSlots p need
      (y.1, x.2 ++ [y.2.map (fun i => 16384 * p + i)])) (s, [])
    let e : FrameEnt := { slots := r.2 }
    let s1 := { r.1 with hbm := { r.1.hbm with frames := tset (fun _ => none) r.1.hbm.frames f (some e) } }
    let rank := rankAt ((r.2.headD []).headD 0)
    let s2 := if outG.isEmpty then s1 else s1.cnt 0x0B04 rank
    match old with
    | none => s2
    | some o => { s2.cnt 0x0B05 rank with hbm := { s2.hbm with copying := s2.hbm.copying ++ [(f, o)] } }

/-- A frame leaves the table, and its slots are free (R619). -/
def State.unplace (s : State) (f : Nat) : State :=
  match s.frame f with
  | none => s
  | some e => ({ s with hbm := { s.hbm with frames := tset (fun _ => none) s.hbm.frames f none } } : State).freeEntry e

/-- The frames of a buffer of class 6 or 7 are placed when it is drawn (R600). -/
def State.placeBuffer (s : State) (svc cls index : Nat) : State :=
  if cls = 6 ∨ cls = 7 then
    let size := if cls = 6 then 1 else 4
    let base := s.rd64 (Reg.POOL_CLS_BASE_LO cls) (Reg.POOL_CLS_BASE_HI cls) / 2 ^ 20
    (List.range size).foldl (fun s k => s.placeFrame svc (base + index * size + k)) s
  else s

end Sys2Proof.Machine
end

