-- ==== Sys2Proof/Machine/Pool.lean ====
section
/-! DEFINITION. The buffer pools (R566 to R585): reserves and headroom, draws, stalled draws, frees, the free store, enables,
and the writes of reserves and thresholds. -/

set_option Elab.async false

namespace Sys2Proof.Machine

/-! ### Counts -/

/-- Bytes of a buffer of a class (R566). -/
def poolSize (c : Nat) : Nat := 256 * 4 ^ c

/-- The smallest class whose buffers hold `b` bytes, and how many buffers (R567). -/
def poolFit (b : Nat) : Nat × Nat :=
  match (List.range 8).find? (fun c => decide (b ≤ poolSize c)) with
  | some c => (c, 1)
  | none => (7, cdiv b (4 * 2 ^ 20))

def State.poolF (s : State) (c : Nat) : Nat := (s.reg (Reg.POOL_CLS_FREE c)).toNat
def State.poolRes (s : State) (o c : Nat) : Nat := s.rd (Reg.POOL_OWN_RES_RES o c)
def State.poolHeld (s : State) (o c : Nat) : Nat := s.rd (Reg.POOL_OWN_HELD_HELD o c)
def State.poolCommit (s : State) (o c : Nat) : Nat := s.rd (Reg.POOL_OWN_COMMIT_COMMITTED o c)
def State.poolState (s : State) (c : Nat) : Nat := s.rd (Reg.POOL_CLS_STATUS_STATE c)

/-- The unused reserve U (R570). -/
def State.poolU (s : State) (c : Nat) : Nat := sumNat ((List.range 32).map (fun o => s.poolRes o c - s.poolHeld o c))

/-- The shared headroom H (R570). -/
def State.poolH (s : State) (c : Nat) : Nat := s.poolF c - s.poolU c

/-- BACKPRESSURE and LOW_WATER of a class in buffers (R594). -/
def State.poolBp (s : State) (c : Nat) : Nat := 16 * s.rd (Reg.POOL_CLS_THRESH_BACKPRESSURE c)
def State.poolLow (s : State) (c : Nat) : Nat := 16 * s.rd (Reg.POOL_CLS_THRESH_LOW_WATER c)

/-- Record a code of class 0x0D with its place in POOL_ERR: a class, or 32 + owner (R594, R596). -/
def State.poolErr (s : State) (code wh : Nat) (d0 d1 : Nat := 0) : State :=
  (s.setErr Reg.POOL_ERR true (16, 6, wh) code).file .pool wh code d0 d1

/-- Buffers in the free store (R579), as runs. -/
def State.poolStore (s : State) (c : Nat) : List (Nat × Nat) :=
  match (s.poolC c).store with
  | none => [(0, (regReset (Reg.POOL_CLS_COUNT c)).toNat)]
  | some l => l

/-- Bytes an owner holds over all classes (R593). -/
def State.ownerBytes (s : State) (o : Nat) : Nat :=
  sumNat ((List.range 8).map (fun c => s.poolHeld o c * poolSize c))

/-- Raise a peak value (R593). -/
def State.peak (s : State) (scope v : Nat) : State := s.setCnt 0x0D06 scope (max v (s.counter 0x0D06 scope))

/-- The registers that follow the counts of a class: HEADROOM, BP, CACHED, WAITERS; and the low-water event (R576). -/
def State.poolNote (s : State) (c : Nat) : State :=
  let h := s.poolH c
  let p := s.poolC c
  let s1 := (((s.setReg (Reg.POOL_CLS_HEADROOM c) (BitVec.ofNat 32 h)).wr (Reg.POOL_CLS_STATUS_BP c)
    (if h ≤ s.poolBp c then 1 else 0)).wr (Reg.POOL_CLS_STATUS_CACHED c) p.cache.length).wr
    (Reg.POOL_CLS_WAITERS_COUNT c) p.stalled.length
  if h ≤ s.poolLow c ∧ p.lowGiven = false then
    let s2 := ((s1.wr (Reg.POOL_CLS_STATUS_LOW c) 1).cnt 0x0D05 c).poolErr 0x0D02 c c h
    (s2.setPool c { s2.poolC c with lowGiven := true }).devError 0x0D02 c h
  else if s.poolLow c + 64 < h then s1.setPool c { p with lowGiven := false }
  else s1

/-- Reserves are reduced in descending owner number until the headroom of a class is not below 0 (R585). -/
def State.poolCut (s : State) (c : Nat) : Nat → State
  | 0 => s
  | o + 1 =>
    let deficit := s.poolU c - s.poolF c
    let unused := s.poolRes o c - s.poolHeld o c
    if deficit = 0 then s
    else (s.wr (Reg.POOL_OWN_RES_RES o c) (s.poolRes o c - min unused deficit)).poolCut c o

/-- The headroom of a class after buffers left it (R585). -/
def State.poolShrink (s : State) (c : Nat) : State :=
  if s.poolF c < s.poolU c then (s.poolErr 0x0D01 c).poolCut c 32 else s

/-- Number of frames of a buffer, and its first frame (R566, R599). -/
def State.bufFrames (s : State) (c i : Nat) : List Nat :=
  let size := if c = 6 then 1 else if c = 7 then 4 else 0
  let base := s.rd64 (Reg.POOL_CLS_BASE_LO c) (Reg.POOL_CLS_BASE_HI c) / 2 ^ 20
  (List.range size).map (fun k => base + i * size + k)

/-! ### Draws -/

/-- Does R571 grant a draw? -/
def State.grants (s : State) (o c n : Nat) : Bool :=
  let ne := n - (s.poolRes o c - s.poolHeld o c)
  let h := s.poolH c
  ne == 0 || decide (s.poolBp c + ne ≤ h) || (s.rd (Reg.POOL_OWN_CFG_EXEMPT o) == 1 && decide (ne ≤ h))

/-- Take the first index of some runs. -/
def runsPop : List (Nat × Nat) → Option (Nat × List (Nat × Nat))
  | [] => none
  | (a, k) :: t => if k = 0 then runsPop t else some (a, (if k = 1 then t else (a + 1, k - 1) :: t))

/-- The first `n` indices of some runs, and the rest. -/
def runsTake : Nat → List (Nat × Nat) → List Nat × List (Nat × Nat)
  | 0, l => ([], l)
  | n + 1, l =>
    match runsPop l with
    | none => ([], [])
    | some (i, l') =>
      let r := runsTake n l'
      (i :: r.1, r.2)

/-- Refill the cache with up to 256 indices of the store's head, behind what it holds (R579, R582). -/
def State.refillOwn (s : State) (c : Nat) : State :=
  let p := s.poolC c
  let r := runsTake 256 (s.poolStore c)
  s.setPool c { p with cache := p.cache ++ r.1, store := some r.2 }

/-- One buffer leaves the cache; a draw that finds it empty waits for the refill (R579). -/
def State.drawOne (s : State) (o c svc : Nat) : State × Option Nat :=
  let s1 := if (s.poolC c).cache.isEmpty then (s.refillOwn c).cnt 0x0D04 c else s
  match (s1.poolC c).cache with
  | [] => (s1, none)
  | i :: t =>
    let p := s1.poolC c
    let s2 := s1.setPool c { p with cache := t, held := tset (fun _ => none) p.held i (some o) }
    (s2.placeBuffer svc c i, some i)

/-- `n` buffers go to owner `o` (R571, R579, R593). -/
def State.drawNow (s : State) (o c n svc : Nat) : State × List Nat :=
  let r := (List.range n).foldl (fun (x : State × List Nat) _ =>
    let y := x.1.drawOne o c svc
    (y.1, x.2 ++ y.2.toList)) (s, [])
  let k := r.2.length
  let s1 := (r.1.wr (Reg.POOL_CLS_FREE_FREE c) (s.poolF c - k)).wr (Reg.POOL_OWN_HELD_HELD o c) (s.poolHeld o c + k)
  let s2 := (s1.cnt 0x0D00 c k).cnt 0x0D00 (0x100 + o) k
  let s3 := s2.peak c (s2.rd (Reg.POOL_CLS_COUNT_COUNT c) - s2.poolF c)
  ((s3.peak (0x100 + o) (s3.ownerBytes o)).poolNote c, r.2)

/-- Owners whose draws fail at back-pressure: 0, 3, 6, 7, 9 (R569). -/
def failingOwner (o : Nat) : Bool := o == 0 || o == 3 || o == 6 || o == 7 || o == 9

/-- The place of a port in the turn of R546: the first after the last winner of a tie comes first. -/
def turnOf (last : Option Nat) (port : Nat) : Nat := match last with | none => port | some p => (port + 31 - p) % 32

/-- Two draws tie: neither ticket is older (R545). -/
def Draw.ties (d : Draw) (now ticket : Nat) : Bool := !olderTicket now d.ticket ticket && !olderTicket now ticket d.ticket

/-- A stalled draw of the class goes first: older ticket, or on a tie the earlier turn of its owner (R546, R577); of one owner the one
that stalled first. -/
def Draw.before (d : Draw) (now : Nat) (last : Option Nat) (o ticket : Nat) : Bool :=
  olderTicket now d.ticket ticket || (d.ties now ticket && decide (turnOf last d.owner ≤ turnOf last o))

/-- R571 grants the draw without an excess that waits its turn: a reserve draw or one of an EXEMPT owner (R577). -/
def State.freely (s : State) (o c n : Nat) : Bool :=
  decide (n ≤ s.poolRes o c - s.poolHeld o c) || s.rd (Reg.POOL_OWN_CFG_EXEMPT o) == 1

/-- A draw may be granted now (R571, R577, R583): `stalls` says that it would wait at back-pressure. -/
def State.mayDraw (s : State) (o c n ticket : Nat) (stalls : Bool) : Bool :=
  s.poolState c == 1 && s.grants o c n &&
    (s.freely o c n || !stalls || !((s.poolC c).stalled.any (fun d => d.before s.ticketNow (s.poolC c).rr o ticket)))

/-- A draw that was granted against stalled ones of its own age has won a tie (R546). -/
def State.tieWon (s : State) (o c ticket : Nat) : State :=
  let p := s.poolC c
  if p.stalled.any (fun d => d.ties s.ticketNow ticket) then s.setPool c { p with rr := some o } else s

/-- A draw by a station: the buffers, or none at back-pressure, when a stalling owner waits and a failing owner is refused
with POOL_EXHAUSTED (R569, R571). -/
def State.draw (s : State) (o c n svc ticket : Nat) (fails : Bool) : State × Option (List Nat) :=
  if s.mayDraw o c n ticket (!fails) then
    let r := (if fails then s else s.tieWon o c ticket).drawNow o c n svc
    (r.1, some r.2)
  else if fails then (((s.cnt 0x0D03 c).cnt 0x0D03 (0x100 + o)).poolErr 0x0D03 (32 + o), none)
  else (s, none)

/-- POOL_DRAW (R571, R577): granted, stalled in ticket order, or refused. -/
def execPoolDraw (owner cls n svc ticket : Nat) (s : State) : Host.Outcome State Fault Refusal :=
  let fails := failingOwner owner
  match s.draw owner cls n svc ticket fails with
  | (s1, some _) => .next s1
  | (s1, none) =>
    if fails then .next s1
    else
      let p := s1.poolC cls
      let s2 := s1.setPool cls { p with stalled := p.stalled ++ [{ owner := owner, n := n, svc := svc, ticket := ticket }] }
      .next (((s2.cnt 0x0D02 cls).cnt 0x0D02 (0x100 + owner)).poolNote cls)

/-- The stalled draw of a class that is granted next (R577): among those that R571 allows, one that no stalled excess draw goes before; an
excess draw waits for every stalled one of its class with an older ticket. -/
def State.nextStalled (s : State) (c : Nat) : Option Draw :=
  let p := s.poolC c
  let first := fun (d : Draw) => p.stalled.all (fun e => e == d || !e.before s.ticketNow p.rr d.owner d.ticket)
  match p.stalled.find? (fun d => s.freely d.owner c d.n && s.grants d.owner c d.n) with
  | some d => some d
  | none => p.stalled.find? (fun d => first d && s.grants d.owner c d.n)

/-- STALLED_DRAW_GRANT (R577): the stalled draw whose turn it is and that R571 allows; a reserve draw never waits behind another. -/
def execStalledDrawGrant (cls : Nat) (s : State) : Host.Outcome State Fault Refusal :=
  let p := s.poolC cls
  if s.poolState cls = 1 then
    match s.nextStalled cls with
    | none => .next s
    | some d =>
      let s1 := (s.setPool cls { p with stalled := p.stalled.erase d }).tieWon d.owner cls d.ticket
      .next (s1.drawNow d.owner cls d.n d.svc).1
  else .next s

/-! ### Frees -/

/-- Spill the 128 oldest cache entries when it holds more than 384: to the tail of the ring, or the head of the list (R579,
R582). -/
def State.spill (s : State) (c : Nat) : State :=
  let p := s.poolC c
  if 384 < p.cache.length then
    let keep := p.cache.take (p.cache.length - 128)
    let out := (p.cache.drop (p.cache.length - 128)).reverse
    let st := s.poolStore c
    let st' := if s.rd (Reg.POOL_CLS_CFG_MODE c) = 1 then out.foldl (fun l i => (i, 1) :: l) st
      else st ++ out.map (fun i => (i, 1))
    s.setPool c { p with cache := keep, store := some st' }
  else s

/-- The head of the list in MODE 1 (R582, R594). -/
def State.listHead (s : State) (c : Nat) : State :=
  if s.rd (Reg.POOL_CLS_CFG_MODE c) = 1 then
    let a := match runsPop (s.poolStore c) with
      | some (i, _) => s.rd64 (Reg.POOL_CLS_BASE_LO c) (Reg.POOL_CLS_BASE_HI c) + i * poolSize c
      | none => 2 ^ 64 - 1
    s.wr64 (Reg.POOL_CLS_HEAD_LO c) (Reg.POOL_CLS_HEAD_HI c) a
  else s

/-- A buffer is freed (R581); a withdrawn buffer leaves its pool (R585). -/
def State.free1 (s : State) (c i : Nat) : State :=
  let p := s.poolC c
  match (if i < s.rd (Reg.POOL_CLS_COUNT_COUNT c) ∨ p.withdraw.contains i = true then tget (fun _ => none) p.held i else none) with
  | none => (s.poolErr 0x0D04 c c i).devError 0x0D04 c i
  | some o =>
    let s1 := (s.wr (Reg.POOL_OWN_HELD_HELD o c) (s.poolHeld o c - 1)).cnt 0x0D01 c
    let s2 := s1.cnt 0x0D01 (0x100 + o)
    if p.withdraw.contains i then
      let s3 := s2.setPool c { p with held := tset (fun _ => none) p.held i none, withdraw := p.withdraw.erase i }
      let s4 := ((s3.wr (Reg.POOL_CLS_COUNT_COUNT c) (s3.rd (Reg.POOL_CLS_COUNT_COUNT c) - 1)).bump
        (Reg.POOL_CLS_WITHDRAWN_COUNT c)).poolShrink c
      ((s4.bufFrames c i).foldl (fun s f => s.unplace f) s4).poolNote c
    else
      let s3 := s2.setPool c { p with held := tset (fun _ => none) p.held i none, cache := i :: p.cache }
      (((s3.wr (Reg.POOL_CLS_FREE_FREE c) (s3.poolF c + 1)).spill c).listHead c).poolNote c

/-- Free several buffers of a class. -/
def State.freeAll (s : State) (c : Nat) (l : List Nat) : State := l.foldl (fun s i => s.free1 c i) s

/-- POOL_FREE (R581). -/
def execPoolFree (cls index : Nat) (s : State) : Host.Outcome State Fault Refusal := .next (s.free1 cls index)

/-! ### Refills -/

/-- One index read from the ring enters the cache, or is discarded with POOL_RING_CORRUPT (R581). -/
def State.refillIndex (c : Nat) (s : State) (v : Nat) : State :=
  let p := s.poolC c
  if v < s.rd (Reg.POOL_CLS_COUNT_COUNT c) ∧ (tget (fun _ => none) p.held v).isNone = true then
    s.setPool c { p with cache := p.cache ++ [v] }
  else ((s.wr (Reg.POOL_CLS_FREE_FREE c) (s.poolF c - 1)).poolErr 0x0D05 c c v).devError 0x0D05 c v

/-- The link words of a list refill, in order: each names a free buffer of the class, or the list is cut there with
POOL_LIST_BROKEN (R582). -/
def State.refillLinks (c : Nat) : State → List Nat → State
  | s, [] => s
  | s, v :: t =>
    let p := s.poolC c
    let base := s.rd64 (Reg.POOL_CLS_BASE_LO c) (Reg.POOL_CLS_BASE_HI c)
    let i := (v - base) / poolSize c
    if base ≤ v ∧ (v - base) % poolSize c = 0 ∧ i < s.rd (Reg.POOL_CLS_COUNT_COUNT c) ∧
        (tget (fun _ => none) p.held i).isNone = true then
      State.refillLinks c (s.setPool c { p with cache := p.cache ++ [i] }) t
    else
      let lost := 1 + t.length + sumNat ((s.poolStore c).map (·.2))
      (((s.setPool c { p with store := some [] }).wr (Reg.POOL_CLS_FREE_FREE c) (s.poolF c - lost)).poolErr 0x0D06 c c
        (v % 2 ^ 32)).devError 0x0D06 c (v % 2 ^ 32)

/-- POOL_REFILL (R579, R581, R582): the cache holds fewer than 128 entries; `values` are the indices, or in list mode the
device addresses, that the read of up to 256 entries returned. -/
def execPoolRefill (cls : Nat) (values : List Nat) (s : State) : Host.Outcome State Fault Refusal :=
  let p := s.poolC cls
  let r := runsTake 256 (s.poolStore cls)
  if p.cache.length < 128 ∧ r.1 ≠ [] ∧ values.length = r.1.length then
    let s1 := s.setPool cls { p with store := some r.2 }
    let s2 := if s.rd (Reg.POOL_CLS_CFG_MODE cls) = 1 then State.refillLinks cls s1 values
      else values.foldl (State.refillIndex cls) s1
    .next ((s2.listHead cls).poolNote cls)
  else .next s

/-! ### Enables and configuration -/

/-- Usable device space in bytes (R598, R619). -/
def State.usableSpace (s : State) : Nat := s.rd Reg.HBM_STATUS_USABLE_GIB * 2 ^ 30

/-- The region of a class: first and end address. -/
def State.poolRegion (s : State) (c : Nat) : Nat × Nat :=
  let b := s.rd64 (Reg.POOL_CLS_BASE_LO c) (Reg.POOL_CLS_BASE_HI c)
  (b, b + s.rd (Reg.POOL_CLS_COUNT_COUNT c) * poolSize c)

/-- BACKPRESSURE ≤ LOW_WATER and Σ RES + BACKPRESSURE ≤ COUNT (R573). -/
def State.threshOk (s : State) (c bp low : Nat) : Bool :=
  decide (bp ≤ low) &&
    decide (sumNat ((List.range 32).map (fun o => s.poolRes o c)) + bp ≤ s.rd (Reg.POOL_CLS_COUNT_COUNT c))

/-- The carve is valid for an enable of class `c` (R568): aligned, disjoint from every enabled class, inside the space. -/
def State.carveOk (s : State) (c : Nat) : Bool :=
  let r := s.poolRegion c
  decide (r.1 % max (poolSize c) 4096 = 0) && decide (r.2 ≤ s.usableSpace) &&
    (List.range 8).all (fun d => d == c || s.poolState d == 0 ||
      (let q := s.poolRegion d
       decide (r.2 ≤ q.1) || decide (q.2 ≤ r.1) || decide (r.1 = r.2))) &&
    decide (sumNat ((List.range 8).map (fun d =>
      if d = c ∨ s.poolState d ≠ 0 then s.rd (Reg.POOL_CLS_COUNT_COUNT d) else 0)) ≤ 524288) &&
    s.threshOk c (s.poolBp c) (s.poolLow c)

/-- MODE of a POOL_CLS_CFG write: stored while DISABLED, else it must carry its value (R583). -/
def State.poolCfgMode (s : State) (c : Nat) (w : BitVec 32) : State :=
  let m := bitsOf w.toNat 30 1
  if s.poolState c = 0 then s.wr (Reg.POOL_CLS_CFG_MODE c) m
  else if m = s.rd (Reg.POOL_CLS_CFG_MODE c) then s
  else s.poolErr 0x0D01 c

/-- POOL_ENABLE (R568, R583): the carve is checked and the free store built in ascending order; in LEHR the enable waits. -/
def execPoolEnable (cls : Nat) (w : BitVec 32) (s : State) : Host.Outcome State Fault Refusal := s.bar (Reg.POOL_CLS_CFG cls) fun s =>
  let s1 := s.poolCfgMode cls w
  let st := s1.poolState cls
  if st = 0 then
    if s1.carveOk cls = true then
      let n := s1.rd (Reg.POOL_CLS_COUNT_COUNT cls)
      let s2 := s1.setPool cls { s1.poolC cls with held := [], cache := [], store := some [(0, n)], withdraw := [] }
      let s3 := ((s2.wr (Reg.POOL_CLS_CFG_ENABLE cls) 1).wr (Reg.POOL_CLS_STATUS_STATE cls) 1).wr
        (Reg.POOL_CLS_FREE_FREE cls) n
      .next ((s3.listHead cls).poolNote cls)
    else .next (s1.poolErr 0x0D01 cls)
  else if st = 2 then .next ((s1.wr (Reg.POOL_CLS_CFG_ENABLE cls) 1).wr (Reg.POOL_CLS_STATUS_STATE cls) 3)
  else .next s1

/-- POOL_DISABLE (R583). -/
def execPoolDisable (cls : Nat) (w : BitVec 32) (s : State) : Host.Outcome State Fault Refusal := s.bar (Reg.POOL_CLS_CFG cls) fun s =>
  let s1 := (s.poolCfgMode cls w).wr (Reg.POOL_CLS_CFG_ENABLE cls) 0
  let st := s1.poolState cls
  if st = 1 ∨ st = 3 then .next (s1.wr (Reg.POOL_CLS_STATUS_STATE cls) 2) else .next s1

/-- POOL_LEHR_END (R583): no buffer is held, so the cache is spilled and the pool is DISABLED, or ACTIVE again without
rebuilding its free store. -/
def execPoolLehrEnd (cls : Nat) (s : State) : Host.Outcome State Fault Refusal :=
  let st := s.poolState cls
  if (st = 2 ∨ st = 3) ∧ (s.poolC cls).held.isEmpty = true then
    if st = 3 then .next (s.wr (Reg.POOL_CLS_STATUS_STATE cls) 1)
    else
      let p := s.poolC cls
      let out := p.cache.reverse
      let l := if s.rd (Reg.POOL_CLS_CFG_MODE cls) = 1 then out.foldl (fun l i => (i, 1) :: l) (s.poolStore cls)
        else s.poolStore cls ++ out.map (fun i => (i, 1))
      .next (((s.setPool cls { p with cache := [], store := some l }).wr (Reg.POOL_CLS_STATUS_STATE cls) 0).poolNote cls)
  else .next s

/-- POOL_RES_WRITE (R573): applied only when headroom stays at 0 or above and RES not below COMMITTED. -/
def execPoolResWrite (owner cls : Nat) (w : BitVec 32) (s : State) : Host.Outcome State Fault Refusal := s.bar (Reg.POOL_OWN_RES owner cls) fun s =>
  let new := bitsOf w.toNat 0 21
  let held := s.poolHeld owner cls
  let old := s.poolRes owner cls
  if (new - held) ≤ s.poolH cls + (old - held) ∧ s.poolCommit owner cls ≤ new then
    .next ((s.wr (Reg.POOL_OWN_RES_RES owner cls) new).poolNote cls)
  else .next (s.poolErr 0x0D01 (32 + owner))

/-- POOL_THRESH_WRITE (R573). -/
def execPoolThreshWrite (cls : Nat) (w : BitVec 32) (s : State) : Host.Outcome State Fault Refusal := s.bar (Reg.POOL_CLS_THRESH cls) fun s =>
  if s.threshOk cls (16 * bitsOf w.toNat 0 16) (16 * bitsOf w.toNat 16 16) = true then
    .next ((s.setReg (Reg.POOL_CLS_THRESH cls) w).poolNote cls)
  else .next (s.poolErr 0x0D01 cls)

/-! ### Commitments -/

/-- The commitment of owner 1 in class 7 (R572), granted when it stays within the reserve. -/
def State.commit (s : State) (n : Nat) : Option State :=
  if s.poolCommit 1 7 + n ≤ s.poolRes 1 7 then
    some (s.wr (Reg.POOL_OWN_COMMIT_COMMITTED 1 7) (s.poolCommit 1 7 + n))
  else none

/-- A commitment is released (R572). -/
def State.uncommit (s : State) (n : Nat) : State :=
  s.wr (Reg.POOL_OWN_COMMIT_COMMITTED 1 7) (s.poolCommit 1 7 - n)

end Sys2Proof.Machine
end

