-- ==== Sys2Proof/Machine/Ring.lean ====
section
/-! DEFINITION. Ranlink's wiring and routes (R630, R633, R634), and the flits and credits of its ports (R636, R637). -/

set_option Elab.async false

namespace Sys2Proof.Machine

def State.lport (s : State) (p : Nat) : LnkPort := tget (fun _ => {}) s.lnk.ports p
def State.setLport (s : State) (p : Nat) (x : LnkPort) : State :=
  { s with lnk := { s.lnk with ports := tset (fun _ => {}) s.lnk.ports p x } }

/-- STATE of a port: 0 DISABLED, 1 TRAINING, 2 UP, 3 RETRAIN, 4 DOWN, 5 LEHR, 6 LEHR_PENDING_ENABLE (R655). -/
def State.portSt (s : State) (p : Nat) : Nat := s.rd (Reg.LNK_PORT_STATUS_STATE p)
def State.setPortSt (s : State) (p v : Nat) : State := s.wr (Reg.LNK_PORT_STATUS_STATE p) v

def State.myDev (s : State) : Nat := s.rd Reg.LNK_TOPO_MY_DEV
def State.topoKind (s : State) : Nat := s.rd Reg.LNK_TOPO_KIND
def State.nDev (s : State) : Nat := s.rd Reg.LNK_TOPO_NDEV_M1 + 1

/-! ### Wiring and routes (R630, R633, R634) -/

/-- The device and port that a port is wired to (R630). -/
def wiredTo (kind n d p : Nat) : Option (Nat × Nat) :=
  match kind with
  | 1 => some (1 - d, p)
  | 2 =>
    match p with
    | 0 => some ((d + 1) % n, 1)
    | 1 => some ((d + n - 1) % n, 0)
    | 2 => some ((d + 1) % n, 3)
    | _ => some ((d + n - 1) % n, 2)
  | 3 =>
    let x := d % 4
    let y := d / 4
    match p with
    | 0 => some (4 * y + (x + 1) % 4, 1)
    | 1 => some (4 * y + (x + 3) % 4, 0)
    | 2 => some (4 * (1 - y) + x, 3)
    | _ => some (4 * (1 - y) + x, 2)
  | _ => none

/-- Ports of a device that are UP, as this device knows: its own STATE, and what topology updates told of the others (R634). -/
def State.portUp (s : State) (d p : Nat) : Bool :=
  if d = s.myDev then s.portSt p == 2
  else match tget (fun _ => none) s.lnk.links d with
    | some m => bitsOf m p 1 == 1
    | none => true

/-- Where the link of a port leads, when both its ends are UP. -/
def State.linkTo (s : State) (d p : Nat) : Option Nat :=
  match wiredTo s.topoKind s.nDev d p with
  | some (e, q) => if s.portUp d p && s.portUp e q then some e else none
  | none => none

/-- The dateline a hop crosses (R634): 1 of x or of a ring, 2 of y, 0 none. -/
def dateline (kind n d e : Nat) : Nat :=
  match kind with
  | 2 => if (d = n - 1 ∧ e = 0) ∨ (d = 0 ∧ e = n - 1) then 1 else 0
  | 3 => if d / 4 ≠ e / 4 then 2 else if (d % 4 = 3 ∧ e % 4 = 0) ∨ (d % 4 = 0 ∧ e % 4 = 3) then 1 else 0
  | _ => 0

/-- Places one hop on from some places over UP links; a place is a device and which datelines have been crossed, and each is crossed at most
once (R634). -/
def State.hopFrom (s : State) (l : List (Nat × Bool × Bool)) : List (Nat × Bool × Bool) :=
  (l.flatMap (fun q => (List.range 4).filterMap (fun p =>
    match s.linkTo q.1 p with
    | none => none
    | some e =>
      let k := dateline s.topoKind s.nDev q.1 e
      if (k = 1 ∧ q.2.1 = true) ∨ (k = 2 ∧ q.2.2 = true) then none else some (e, q.2.1 || k == 1, q.2.2 || k == 2)))).eraseDups

/-- (device, hops) of every device on the way out, nearest first; `n` hops at most. -/
def State.hopsFrom (s : State) : Nat → Nat → List (Nat × Bool × Bool) → List (Nat × Nat)
  | 0, _, _ => []
  | n + 1, k, l => l.map (fun q => (q.1, k)) ++ (if l.isEmpty then [] else s.hopsFrom n (k + 1) (s.hopFrom l))

/-- (port, device, hops): what each port of this device leads to. -/
def State.outHops (s : State) : List (Nat × Nat × Nat) :=
  (List.range 4).flatMap (fun p =>
    match s.linkTo s.myDev p with
    | none => []
    | some e =>
      let k := dateline s.topoKind s.nDev s.myDev e
      (s.hopsFrom 7 1 [(e, k == 1, k == 2)]).map (fun q => (p, q.1, q.2)))

/-- The first-hop port of a tile to a device (R633, R634): the shortest way, ties to the lower port, and of parallel links the one of the
tile's index. -/
def State.routePort (s : State) (dst tile : Nat) : Option Nat :=
  let l := s.outHops.filter (fun q => q.2.1 == dst)
  match l.foldl (fun (a : Option (Nat × Nat)) q =>
      match a with
      | none => some (q.2.2, q.1)
      | some b => if q.2.2 < b.1 then some (q.2.2, q.1) else a) none with
  | none => none
  | some (_, p) =>
    let dest := s.linkTo s.myDev p
    let l := (List.range 4).filter (fun q => s.linkTo s.myDev q == dest)
    l[tile % max 1 l.length]?

/-- Devices that can be reached, this one included. -/
def State.reachable (s : State) : List Nat :=
  let l := s.outHops
  (List.range s.nDev).filter (fun d => d == s.myDev || l.any (fun q => q.2.1 == d))

/-! ### Flits and credits (R627, R636, R637) -/

/-- Flits of a tile: one header, and 242 B of payload each (R627, R639). -/
def flitsOf (bytes : Nat) : Nat := 1 + cdiv bytes 242

/-- Flits leave a port (R655): their payload bytes count. -/
def State.txFlits (s : State) (p n : Nat) : State :=
  s.wr64 (Reg.LNK_PORT_TX_LO p) (Reg.LNK_PORT_TX_HI p) (s.rd64 (Reg.LNK_PORT_TX_LO p) (Reg.LNK_PORT_TX_HI p) + 242 * n)

/-- Flits of a halyard that wait on a port leave it as far as the credits go (R636, R637). -/
def State.drainPort (s : State) (p : Nat) : State :=
  let x := s.lport p
  let n0 := min x.back0 (s.rd (Reg.LNK_PORT_CREDITS_CTRL p))
  let n1 := min x.back1 (s.rd (Reg.LNK_PORT_CREDITS_TILE p))
  let n2 := min x.back2 (s.rd (Reg.LNK_PORT_CREDITS_COLL p))
  let n30 := min x.back30 (s.rd (Reg.LNK_PORT_FWD_SET0 p))
  let n31 := min x.back31 (s.rd (Reg.LNK_PORT_FWD_SET1 p))
  let s1 := s.setLport p { x with back0 := x.back0 - n0, back1 := x.back1 - n1, back2 := x.back2 - n2, back30 := x.back30 - n30, back31 := x.back31 - n31 }
  let s2 := (s1.wr (Reg.LNK_PORT_CREDITS_TILE p) (s1.rd (Reg.LNK_PORT_CREDITS_TILE p) - n1)).wr (Reg.LNK_PORT_CREDITS_COLL p)
    (s1.rd (Reg.LNK_PORT_CREDITS_COLL p) - n2)
  let s3 := (s2.wr (Reg.LNK_PORT_FWD_SET0 p) (s2.rd (Reg.LNK_PORT_FWD_SET0 p) - n30)).wr (Reg.LNK_PORT_FWD_SET1 p)
    (s2.rd (Reg.LNK_PORT_FWD_SET1 p) - n31)
  (s3.wr (Reg.LNK_PORT_CREDITS_CTRL p) (s3.rd (Reg.LNK_PORT_CREDITS_CTRL p) - n0)).txFlits p (n0 + n1 + n2 + n30 + n31)

/-- Flits join a halyard of a port: 0 control, 1 tile, 2 collective, 3 and 4 the two sets of forward. -/
def State.sendFlits (s : State) (p halyard n : Nat) : State :=
  let x := s.lport p
  (s.setLport p (match halyard with
    | 0 => { x with back0 := x.back0 + n }
    | 1 => { x with back1 := x.back1 + n }
    | 2 => { x with back2 := x.back2 + n }
    | 3 => { x with back30 := x.back30 + n }
    | _ => { x with back31 := x.back31 + n })).drainPort p

/-- A RECEIPT or RELEASE for a tile goes to its sender: one flit of halyard 0 on the way there (R636). -/
def State.answerTile (s : State) (dev tile : Nat) (o : Out) : State :=
  match s.routePort dev tile with
  | some p => (s.post o).sendFlits p 0 1
  | none => s.post o

end Sys2Proof.Machine
end

