-- ==== Sys2Proof/Machine/Job.lean ====
section
/-! DEFINITION. Jobs as shared operations: instruction words (R280), a job's nodes, its pennants (R35 to R37), its faults
(R338), its end (R278), its plan copies (R575), and the frames of streams that jobs carry (R26 to R30). -/

set_option Elab.async false

namespace Sys2Proof.Machine

/-! ### Programs and words -/

/-- STATE of a program (R308). -/
def State.progState (s : State) (p : Nat) : Nat := s.rd (Reg.GLB_PROG_STATUS_STATE p)

/-- A route of a program: (FIRST_WORD, N_NODES). -/
def State.routeOf (s : State) (prog route : Nat) : Option (Nat × Nat) := (s.prog prog).routes[route]?

/-- The instruction words of a route, in node order (R275, R297). -/
def Prog.routeWords (p : Prog) (route : Nat) : List Nat :=
  match p.routes[route]? with
  | some (f, n) => (p.words.drop f).take n |>.map (·.toNat)
  | none => []

/-- OPC and OUT_PLAN of a word (R280). -/
def wOpc (w : Nat) : Nat := bitsOf w 116 8
def wPlan (w : Nat) : Nat := bitsOf w 104 8
def wHoist (w : Nat) : Nat := bitsOf w 103 1

/-- The source fields of a word that name a node: lowest bit and node (R277; the words of R285, R353, R385, R429, R453, R527, R652
and of SHAPE and CROP_RESIZE): 0xFFFF names none but in SHAPE, CROP_RESIZE, EMIT, XFR_SEND and XFR_COLL, whose fields always name one. -/
def wordSrcs (w : Nat) : List (Nat × Nat) :=
  let o := wOpc w
  let l :=
    if o = 0x21 then [64]
    else if o = 0x22 then [64, 48]
    else if o = 0x30 ∨ (0x34 ≤ o ∧ o ≤ 0x39) ∨ o = 0x48 then [64, 48, 32, 16]
    else if (0x40 ≤ o ∧ o ≤ 0x43) ∨ (0x50 ≤ o ∧ o ≤ 0x57) then [64, 48, 32]
    else if o = 0x4F then [64, 48]
    else if o = 0x60 ∨ o = 0x62 ∨ o = 0x68 then [80]
    else []
  let always := o == 0x21 || o == 0x22 || o == 0x60 || o == 0x62 || o == 0x68
  (l.map (fun p => (p, bitsOf w p 16))).filter (fun q => always || q.2 != 0xFFFF)

/-- A route is a stream route: its node 0 is DECODE (R276). -/
def isStreamRoute (ws : List Nat) : Bool :=
  match ws with
  | w :: _ => wOpc w == 0x20
  | [] => false

/-- The pennant rings that a route's EMIT nodes write (R285). -/
def routeRings (ws : List Nat) : List Nat := (ws.filter (fun w => wOpc w == 0x68)).map (fun w => bitsOf w 66 6)

/-! ### Jobs -/

def State.job? (s : State) (id : Nat) : Option Job := s.jobs.find? (fun j => j.id == id)

def State.updJob (s : State) (id : Nat) (f : Job → Job) : State :=
  { s with jobs := updFirst (fun j => j.id == id) f s.jobs }

/-- The word of a job's node. -/
def State.jobWord (s : State) (j : Job) (node : Nat) : Option Nat := ((s.prog j.prog).routeWords j.route)[node]?

def Job.node (j : Job) (n : Nat) : NodeSt := tget (fun _ => {}) j.nodes n
def Job.setNode (j : Job) (n : Nat) (x : NodeSt) : Job := { j with nodes := tset (fun _ => {}) j.nodes n x }

/-- Change one node of a job. -/
def State.updNode (s : State) (id n : Nat) (f : NodeSt → NodeSt) : State :=
  s.updJob id (fun j => j.setNode n (f (j.node n)))

/-- Add a job; its ticket is given now (R544). -/
def State.addJob (s : State) (j : Job) : State :=
  { s with jobs := s.jobs ++ [{ j with id := s.nextJob, ticket := s.ticketNow }], nextJob := s.nextJob + 1 }

/-- The job that carries a frame of a stream. -/
def State.frameJob? (s : State) (st seq : Nat) : Option Job :=
  s.jobs.find? (fun j => match j.kind with | .frame a n _ => a == st && n == seq | _ => false)

/-- The job of a command. -/
def State.cmdJob? (s : State) (jidx : Nat) : Option Job := s.jobs.find? (fun j => j.kind == .cmd jidx)

/-- The key of a job's pennants. -/
def Job.key (j : Job) : PnKey :=
  match j.kind with
  | .frame st n au => .frame st n au
  | .cmd i => .cmd i
  | .tile _ _ _ _ => .device

/-- The place of a job's pennants in the order of a ring: a frame's, a command's, or that of the frame of another device whose tiles
started it (R27, R28, R285, R643). -/
def Job.line (j : Job) : PnLine :=
  match j.kind with
  | .frame st n _ => .frame st n
  | .cmd i => .cmd i
  | .tile d 0 n st => .frame (128 * (d + 1) + st) n
  | .tile _ _ _ _ => .free

/-- A pennant of a job's node, without body and extensions (R35 to R37). -/
def Job.pn (j : Job) (ty node : Nat) : Pn :=
  { ty := ty, flags := j.flags, stream := j.stream % 128, svc := j.svc, job := j.jobId, frame := j.frameSeq, pts := j.pts
    ct := j.ct, node := node, key := j.key, line := j.line, ticket := j.ticket, rerun := j.rerun
    dev := match j.kind with | .tile d _ _ _ => some d | _ => none }

/-! ### Streams -/

/-- A field of a stream's contract (R141). -/
def State.contractField (s : State) (st lo w : Nat) : Nat :=
  match (s.stream st).contract with
  | some k => bitsOf k.toNat lo w
  | none => 0

def State.errPring (s : State) (st : Nat) : Nat := s.contractField st 232 6
def State.isLive (s : State) (st : Nat) : Bool := s.contractField st 224 2 == 1

/-- Staleness bound in ns (R214). -/
def State.staleBound (s : State) (st : Nat) : Nat :=
  let m := s.contractField st 304 16
  (if m = 0 then 40 else m) * 10 ^ 6

/-- STATE of a stream and the engine it is placed on (R185). -/
def State.strm (s : State) (st : Nat) : Nat := s.rd (Reg.DEC_STRM_STATE_STATE st)
def State.strmEngine (s : State) (st : Nat) : Nat := s.rd (Reg.DEC_STRM_STATE_ENGINE st)

/-- Record a code of class 0x02 on a stream, its engine and the record file (R189, R657). -/
def State.decErr (s : State) (st code : Nat) (d0 d1 : Nat := 0) : State :=
  let s1 := s.setErr (Reg.DEC_STRM_ERR st) false (0, 0, 0) code
  (s1.setErr (Reg.DEC_ERR (s.strmEngine st)) true (16, 8, st) code).file .dec st code d0 d1

/-- The frames before FRAME_SEQ `n` that produced no pennant are a gap: on each of the route's rings the first pennant of frame `n` or
a later one carries SEQ_GAP (R30). -/
def State.gapBefore (s : State) (st prog route n : Nat) : State :=
  (routeRings ((s.prog prog).routeWords route)).foldl
    (fun s m => { s with hif := { s.hif with
      gaps := tset (fun _ => []) s.hif.gaps (st * 64 + m) (n :: tget (fun _ => []) s.hif.gaps (st * 64 + m)) } }) s

/-- Frame `n` of the stream produced no pennant (R30). -/
def State.markGap (s : State) (st prog route n : Nat) : State := s.gapBefore st prog route ((n + 1) % 2 ^ 32)

/-- The ERROR of a job goes to a stream's ERR_PRING or a command's PRING_ACK, and otherwise it is a device-level pennant (R97, R338). -/
def State.sendErr (s : State) (j : Job) (p : Pn) : State :=
  match j.kind with
  | .frame st _ _ => s.sendTo (s.errPring st) p
  | .cmd i =>
    match s.cmd? i with
    | some c => s.sendTo (s.ackRing c) p
    | none => s.sendSvc p
  | .tile _ _ _ _ => s.sendSvc p

/-! ### Plan copies -/

/-- The 128-bit entry of a program's buffer plan (R292): SIZE, PLACE, OWNER, COPIES. -/
def planSize (e : BitVec 128) : Nat := bitsOf e.toNat 88 40
def planPlace (e : BitVec 128) : Nat := bitsOf e.toNat 86 2
def planOwner (e : BitVec 128) : Nat := bitsOf e.toNat 81 5

def planCopies (e : BitVec 128) : Nat := bitsOf e.toNat 76 5

/-- Plan entries of PLACE 2 that the job's nodes name (R575). -/
def State.planEntries (s : State) (j : Job) : List Nat :=
  let p := s.prog j.prog
  ((p.routeWords j.route).map wPlan).eraseDups.filter (fun i =>
    match p.plan[i]? with
    | some e => planPlace e == 2
    | none => false)

/-- A pennant built from a retired copy waits. -/
def State.resultWaits (s : State) (r : Retired) : Bool :=
  s.hif.prings.any (fun q => q.2.ready.any (fun p => p.key == r.key && decide (p.ty < 0x10) && r.nodes.contains p.node))

/-- Retired plan copies return to their pools once every pennant built from them is written (R575). -/
def State.retirePlans (s : State) : State :=
  let go := s.sched.retiring.filter (fun r => !s.resultWaits r)
  let s1 := { s with sched := { s.sched with retiring := s.sched.retiring.filter (fun r => s.resultWaits r) } }
  go.foldl (fun s r => s.freeAll r.cls r.bufs) s1

/-- Whose copies count together against COPIES: the jobs of one stream, or of one job route (R292). -/
def Job.scope (j : Job) : Nat × Nat × Option Nat :=
  (j.prog, j.route, match j.kind with | .frame st _ _ => some st | _ => none)

/-- Copies of a plan entry that the jobs of a scope hold. -/
def State.copiesHeld (s : State) (sc : Nat × Nat × Option Nat) (entry : Nat) : Nat :=
  (s.jobs.filter (fun k => k.scope == sc && (match k.plan with | some l => l.any (fun q => q.1 == entry) | none => false))).length +
    (s.sched.retiring.filter (fun r => r.scope == sc && r.entry == entry)).length

/-- A job's plan copies retire (R575): all of them, or with `early` those whose last reading node has committed. -/
def State.retire (s : State) (j : Job) (early : Bool) : State :=
  match j.plan with
  | none => s
  | some l =>
    let ws := (s.prog j.prog).routeWords j.route
    let made := fun (i n : Nat) => wPlan (ws.getD n 0) == i
    let reads := fun (i n : Nat) => (wordSrcs (ws.getD n 0)).any (fun q => made i q.2)
    let nodes := List.range ws.length
    let free := fun (i : Nat) => !early || nodes.all (fun n => !(made i n || reads i n) || (j.node n).committed)
    let go := l.filter (fun q => free q.1)
    if go.isEmpty then s
    else
      let new := go.map (fun q => ({ key := j.key, nodes := nodes.filter (fun n => wOpc (ws.getD n 0) == 0x68 && reads q.1 n)
                                     scope := j.scope, entry := q.1, cls := q.2.1, bufs := q.2.2 } : Retired))
      let s1 := s.updJob j.id (fun j => { j with plan := some (l.filter (fun q => !free q.1)) })
      ({ s1 with sched := { s1.sched with retiring := s1.sched.retiring ++ new } } : State).retirePlans

/-- What is left of a job's plan copies when it is over. -/
def State.freePlan (s : State) (j : Job) : State := s.retire j false

/-- Plan copies that no node of the job reads any more; an ADAPT_RUN keeps them for all its steps. -/
def State.releasePlan (s : State) (id : Nat) : State :=
  match s.job? id with
  | none => s
  | some j => if j.adapt.isSome then s else s.retire j true

/-! ### Station buffers (R587, R588) -/

/-- STATE of a core (R358): 0 IDLE, 1 RUN, 2 LEHR, 3 LEHR_PENDING_ENABLE, 4 OFFLINE, 5 FENCED. -/
def State.coreState (s : State) (c : Nat) : Nat := s.rd (Reg.CORE_LRW_STATUS_STATE c)

def State.stationBuf (s : State) (k : Nat) : StationBuf := tget (fun _ => {}) s.mem.bufs k
def State.setStationBuf (s : State) (k : Nat) (b : StationBuf) : State :=
  { s with mem := { s.mem with bufs := tset (fun _ => {}) s.mem.bufs k b } }

/-- Lines of an allocation. -/
def Pinned.lines (p : Pinned) : Nat := sumNat (p.ways.map (·.2))

/-- MEM_SB_PINNED and MOVING of a cluster (R588, R595). -/
def State.sbNote (s : State) (k : Nat) : State :=
  let b := s.stationBuf k
  let of := fun (c : Nat) => cdiv (sumNat ((b.pinned.filter (fun p => p.svc == c)).map Pinned.lines) * 64) 16384
  let s1 := s.wr (Reg.MEM_SB_STATUS_MOVING k) (sumNat ((b.moving.map (·.1)).eraseDups.map (fun w => 2 ^ w)))
  s1.wr (Reg.MEM_SB_PINNED_PINNED k) (packBits [(24, 8, of 3), (16, 8, of 2), (8, 8, of 1), (0, 8, of 0)])

/-- Lines of a way that a cluster's pinned allocations hold, as far as `p` says. -/
def StationBuf.linesIn (b : StationBuf) (p : Pinned → Bool) (w : Nat) : Nat :=
  sumNat (b.pinned.map (fun q => if p q then sumNat ((q.ways.filter (fun x => x.1 == w)).map (·.2)) else 0))

/-- Lines of a way that are not pinned and belong to its class. -/
def StationBuf.linesFree (b : StationBuf) (w : Nat) : Nat :=
  let left := match b.moving.find? (fun q => q.1 == w) with | some q => q.2 | none => 0
  3072 - left - min (3072 - left) (b.linesIn (fun _ => true) w)

/-- Lines taken across some ways in set order: as evenly as the ways' room allows. -/
def takeLines (b : StationBuf) : Nat → List Nat → List (Nat × Nat)
  | _, [] => []
  | n, w :: t =>
    let k := min (b.linesFree w) (cdiv n (t.length + 1))
    (w, k) :: takeLines b (n - k) t

/-- A pinned allocation in the ways of a class (R587): none while too few unpinned lines remain.  The fullest ways come first, so that
the even shares of the others reach the number of lines. -/
def State.pin (s : State) (cluster svc bytes : Nat) (h : PinFor) : Option State :=
  let b := s.stationBuf cluster
  let ways := (List.range 16).filter (fun w => bitsOf (s.guard svc).ways w 1 == 1)
  let n := cdiv bytes 64
  let order := sortBy (fun x y => decide (b.linesFree x ≤ b.linesFree y)) ways
  if n ≤ sumNat (ways.map b.linesFree) then
    some ((s.setStationBuf cluster { b with pinned := b.pinned ++ [{ svc := svc, holder := h, ways := takeLines b n order }] }).sbNote cluster)
  else none

/-- The pinned allocations that satisfy `p` are released. -/
def State.unpinIf (s : State) (p : PinFor → Bool) : State :=
  (List.range 8).foldl (fun s k =>
    let b := s.stationBuf k
    if b.pinned.any (fun q => p q.holder) then
      (s.setStationBuf k { b with pinned := b.pinned.filter (fun q => !p q.holder) }).sbNote k
    else s) s

/-- The pinned allocations of a job are released with it. -/
def State.unpin (s : State) (id : Nat) : State := s.unpinIf (· == .job id)

/-! ### The end of a job -/

/-- An earlier frame of a stream may still carry pennants: its job has not ended (R27). -/
def State.earlierFrameOpen (s : State) (scope n : Nat) : Bool :=
  s.jobs.any (fun j =>
    match j.line with
    | .frame a m => a == scope && !j.ended && seqBefore m n
    | _ => false)

/-- Every pennant of a frame has been posted, and none is still to come (R160). -/
def State.framePosted (s : State) (st n : Nat) : Bool :=
  (s.frameJob? st n).isNone && s.hif.prings.all (fun r => r.2.ready.all (fun p =>
    match p.key with
    | .frame a m _ => !(a == st && m == n)
    | _ => true))

/-- A later part of SGS over an earlier one: what a frame did not touch stays (R131). -/
def SgsPart.under (old new : SgsPart) : SgsPart :=
  { trk := new.trk <|> old.trk
    sets := new.sets ++ old.sets.filter (fun q => !(new.sets.any (fun r => r.1 == q.1))) }

/-- The stream's frame checkpoint takes the parts whose pennants are all posted, in order (R160): a new buffer of owner 9 is
drawn and the earlier one freed; a draw that fails leaves the earlier one and marks the stream to be rebuilt (R577). -/
def State.settleCks (s : State) (st : Nat) : List Ckpt → State
  | [] => s
  | k :: t =>
    if s.framePosted st k.seq then
      let x := s.stream st
      match s.draw 9 6 1 2 s.ticketNow true with
      | (s1, some (b :: _)) =>
        let s2 := match x.ckpt with
          | some o => match o.buf with
            | some i => s1.free1 6 i
            | none => s1
          | none => s1
        let part := match x.ckpt with | some o => o.sgs.under k.sgs | none => k.sgs
        let kept := match x.ckpt with
          | some o => if k.cut then k.kept else k.kept ++ o.kept.filter (fun q => !k.kept.any (fun r => r.key == q.key))
          | none => k.kept
        let ck := { k with buf := some b, sgs := part, kept := kept }
        State.settleCks (s2.setStream st { x with ckpt := some ck, cks := t, rebuild := false }) st t
      | (s1, _) => State.settleCks (s1.setStream st { x with cks := t, rebuild := true }) st t
    else s

/-- Apply the settled checkpoints of a stream. -/
def State.settle (s : State) (st : Nat) : State := s.settleCks st (s.stream st).cks

/-- The source rows that SHP holds of a frame are given up (R237). -/
def State.dropRows (s : State) (st n : Nat) : State :=
  s.unpinIf (fun h => match h with | .rows a m _ => a == st && m == n | _ => false)

/-- A decoded picture that no node reads any more leaves DEC, and its buffers return (R175, R238). -/
def State.dropPic (s : State) (st n : Nat) : State :=
  let s0 := s.dropRows st n
  match s.dec.pics.find? (fun p => p.stream == st && p.frame.seq == n) with
  | none => s0
  | some p =>
    let s1 := { s0 with dec := { s0.dec with pics := s0.dec.pics.filter (fun q => !(q.stream == st && q.frame.seq == n)) } }
    p.bufs.foldl (fun s b => s.freeAll b.1 b.2) s1

/-- What holds the lines of a DEST 0 batch. -/
def Batch.holder (b : Batch) : PinFor := .batch b.key.prog b.key.route b.key.node b.shp b.svc b.seq

/-- The room of a batch at its destination returns (R239). -/
def State.freeBatch (s : State) (b : Batch) : State :=
  let s1 := s.unpinIf (· == b.holder)
  match b.bufs with
  | some (c, l) => s1.freeAll c l
  | none => s1

/-- Dispatched batches whose samples' jobs have all ended leave their destination (R239). -/
def State.pruneBatches (s : State) : State :=
  let ovr := fun (b : Batch) => b.dispatched && b.samples.all (fun x => (s.frameJob? x.rcd.stream x.rcd.frame).isNone)
  let gone := s.shp.batches.filter ovr
  gone.foldl State.freeBatch { s with shp := { s.shp with batches := s.shp.batches.filter (fun b => !ovr b) } }

/-- The kept samples of a stream are discarded (R263). -/
def State.dropKept (s : State) (st : Nat) : State :=
  let gone := s.shp.kept.filter (fun k => k.stream == st)
  let s1 := { s with shp := { s.shp with kept := s.shp.kept.filter (fun k => k.stream != st) } }
  gone.foldl (fun s k => s.freeAll k.bufs.1 k.bufs.2) s1

/-- Keys of released tiles, the last 4,096 of each sender and channel (R642). -/
def keepTaken (id : TileId) (l : List TileId) : List TileId :=
  let mine := fun (x : TileId) => x.src == id.src && x.channel == id.channel
  let l' := id :: l
  if (l'.filter mine).length ≤ 4096 then l' else (l'.reverse.eraseP mine).reverse

/-- A received tile is released (R641): its buffers return, its key stays known, and its sender hears of it. -/
def State.releaseTile (s : State) (h : HeldTile) : State :=
  let s1 : State := { s with lnk := { s.lnk with heldTiles := s.lnk.heldTiles.erase h, taken := keepTaken h.msg.id s.lnk.taken } }
  (s1.freeAll h.bufs.1 h.bufs.2).answerTile h.msg.id.src h.msg.id.tile (Out.release h.msg.id.src h.msg.id)

/-- CHANNEL of an XFR word (R652). -/
def xfChannel (w : Nat) : Nat := bitsOf w 64 16

/-- The receive node of a job that takes a held tile. -/
def Job.recvNode (ws : List Nat) (h : HeldTile) : Option Nat :=
  (List.range ws.length).find? (fun k => wOpc (ws.getD k 0) == 0x61 && xfChannel (ws.getD k 0) == h.msg.id.channel)

/-- Received tiles whose receive node and all its readers have committed are released (R641). -/
def State.releaseWhole (s : State) (id : Nat) : State :=
  match s.job? id with
  | none => s
  | some j =>
    let ws := (s.prog j.prog).routeWords j.route
    (s.lnk.heldTiles.filter (fun h => h.job == some id)).foldl (fun s h =>
      match Job.recvNode ws h with
      | none => s
      | some n =>
        let readers := (List.range ws.length).filter (fun m => (wordSrcs (ws.getD m 0)).any (fun q => q.2 == n))
        if (j.node n).committed = true ∧ readers.all (fun m => (j.node m).committed) = true then s.releaseTile h else s) s

/-- What Ranlink holds of a job ends with it: received tiles are released, sent tiles and collectives forgotten; a frame whose receiving
tile jobs have all committed counts as taken (R642). -/
def State.lnkEnd (s : State) (j : Job) : State :=
  let s1 := (s.lnk.heldTiles.filter (fun h => h.job == some j.id)).foldl State.releaseTile s
  let s2 : State := { s1 with lnk := { s1.lnk with sent := s1.lnk.sent.filter (fun t => t.job != j.id)
                                                   colls := s1.lnk.colls.filter (fun c => c.job != j.id) } }
  let recv := ((s.prog j.prog).routeWords j.route).any (fun w => wOpc w == 0x61)
  let key := match j.kind with
    | .frame st n _ => some (s.rd Reg.LNK_TOPO_MY_DEV * 128 + st, n)
    | .tile d 0 n st => some (d * 128 + st, n)
    | _ => none
  match key with
  | some (k, n) =>
    let old := tget (fun _ => 0) s2.lnk.takenUpTo k
    if recv = true ∧ j.fault.isNone = true ∧ (old = 0 ∨ seqBefore (old - 1) n = true) then
      { s2 with lnk := { s2.lnk with takenUpTo := tset (fun _ => 0) s2.lnk.takenUpTo k (n + 1) } }
    else s2
  | none => s2

/-- The job is over: its plan copies return, and a command's DONE is posted with the code of its fault (R69, R147, R305,
R338).  A tile of a received kind just ends. -/
def State.endJob (s : State) (j : Job) : State :=
  let s0 := ((j.sets.foldl (fun s x => s.freeAll x.bufs.1 x.bufs.2) s).unpin j.id).lnkEnd j
  let s1 := s0.freePlan j
  let s2 := { s1 with jobs := s1.jobs.filter (fun x => x.id != j.id) }
  let code := match j.fault with | some (_, c) => c | none => 0
  let cmd := match j.kind with
    | .cmd i => some i
    | .frame _ _ au => au
    | .tile _ _ _ _ => none
  let s3 := match cmd with
    | some i =>
      match s2.cmd? i with
      | some c => if c.ended then s2 else s2.done c code
      | none => s2
    | none => s2
  match j.kind with
  | .frame st n _ => ((s3.dropPic st n).settle st).pruneBatches
  | _ => s3

/-- A word reads the activity map of its route's DECODE node: an SGS or EMIT node that names node 0 (R182). -/
def readsMap (w : Nat) : Bool := decide (0x50 ≤ wOpc w) && (wordSrcs w).any (fun q => q.2 == 0)

/-- A word reads the decoded picture in HBM: a CROP_RESIZE, or a SHAPE that does not stream (R238). -/
def readsCopy (angleOf : BitVec 512 → Nat) (descs : List (BitVec 512)) (w : Nat) : Bool :=
  wOpc w == 0x22 || (wOpc w == 0x21 && (match descs[bitsOf w 80 16]? with | some d => angleOf d != 0 | none => false))

/-- ANGLE of a SHAPE descriptor (R241, R270). -/
def shapeAngle (d : BitVec 512) : Nat := bitsOf d.toNat 144 16

/-- Gating of the job's node `g` is decided: its tile jobs are chosen (R176). -/
def Job.gateDecided (j : Job) (g : Nat) : Bool := (j.node g).grid.isSome || (j.node g).committed

/-- The buffers of a decoded picture return once the last node that reads them has finished: the map also once gating is decided, the
analysis copy once the samples taken from it are dispatched (R175, R182, R238). -/
def State.releasePic (s : State) (id : Nat) : State :=
  match s.job? id with
  | none => s
  | some j =>
    match j.kind with
    | .frame st n _ =>
      match s.dec.pics.find? (fun p => p.stream == st && p.frame.seq == n) with
      | none => s
      | some p =>
        let pr := s.prog j.prog
        let ws := pr.routeWords j.route
        let dw := ws.headD 0
        let doneBy := fun (r : Nat → Bool) => ws.zipIdx.all (fun q => !r q.1 || (j.node q.2).committed)
        let mapOver := (j.node 0).committed && doneBy readsMap && (bitsOf dw 32 1 == 0 || j.gateDecided (bitsOf dw 48 16))
        let copyOver := doneBy (readsCopy shapeAngle pr.descs)
        let go := (if mapOver then p.mapBuf.toList else []) ++ (if copyOver then p.copyBuf.toList else [])
        if go.isEmpty then s
        else
          let p' := { p with mapBuf := if mapOver then none else p.mapBuf, copyBuf := if copyOver then none else p.copyBuf }
          let s1 : State := { s with dec := { s.dec with pics := updFirst (fun p => p.stream == st && p.frame.seq == n) (fun _ => p') s.dec.pics } }
          go.foldl (fun s b => s.freeAll b.1 b.2) s1
    | _ => s

/-- Every node of the job has its output committed and nothing of it is still on its way (R278). -/
def State.jobDone (s : State) (j : Job) : Bool :=
  let n := ((s.prog j.prog).routeWords j.route).length
  (List.range n).all (fun k => (j.node k).committed && (j.node k).sending.isEmpty)

/-- Segment `k` of a program with new bytes. -/
def Prog.putSeg (p : Prog) (k : Nat) (data : List Nat) : Prog :=
  { p with segs := p.segs.zipIdx.map (fun q => if q.2 = k then { q.1 with data := data } else q.1) }

/-- The end of an ADAPT_RUN: its shadow copies wait for its DONE (R391). -/
def State.adaptEnd (s : State) (j : Job) : State :=
  match j.kind with
  | .cmd i => { s with sched := { s.sched with swaps := s.sched.swaps ++ [(i, j.prog, j.shadow)] } }
  | _ => s

/-- The DONE of an ADAPT_RUN is posted: its shadow copies become current, every job that has started keeps the old ones (R391), and the
optimiser state it started from is dropped (R392). -/
def State.applySwap (s : State) (i : Nat) : State :=
  match s.sched.swaps.find? (fun q => q.1 == i) with
  | none => s
  | some (_, n, shadow) =>
    let p := s.prog n
    let old := shadow.filterMap (fun q => (p.segs[q.1]?).map (fun g => (q.1, g.data)))
    let s1 := s.setProg n { shadow.foldl (fun p q => p.putSeg q.1 q.2) p with optOld := none }
    { s1 with
      sched := { s1.sched with swaps := s1.sched.swaps.filter (fun q => q.1 != i) }
      jobs := s1.jobs.map (fun k =>
        if k.prog = n ∧ k.started = true then
          { k with oldSegs := k.oldSegs ++ old.filter (fun q => !(k.oldSegs.any (fun r => r.1 == q.1))) }
        else k) }

/-- An ADAPT_RUN that fails leaves the weights, and the optimiser state as it stood before the run (R392). -/
def State.adaptFail (s : State) (j : Job) : State :=
  let p := s.prog j.prog
  match p.optOld with
  | some o => s.setProg j.prog { p with opt := o, optOld := none }
  | none => s

/-- End the job with this number if all its nodes are done (R278); an ADAPT_RUN runs its route STEPS times (R382). -/
def State.tryEnd (s : State) (id : Nat) : State :=
  match s.job? id with
  | none => s
  | some j =>
    if s.jobDone j then
      match j.adapt with
      | none => s.endJob j
      | some h =>
        if j.pass + 1 < bitsOf h 984 16 then s.updJob id (fun j => { j with pass := j.pass + 1, nodes := [] })
        else (s.adaptEnd j).endJob j
    else s

/-! ### Ready SGS operations (R488, R489) -/

/-- The station of a stream, its STATE there and its TRACK_CAP (R532). -/
def State.sgsStation (s : State) (st : Nat) : Nat := s.rd (Reg.SGS_STRM_STATE_STATION st)
def State.sgsSt (s : State) (st : Nat) : Nat := s.rd (Reg.SGS_STRM_STATE_STATE st)
def State.sgsCap (s : State) (st : Nat) : Nat := s.rd (Reg.SGS_STRM_STATE_TRACK_CAP st)

/-- STATE of a station: 0 IDLE, 1 RUN, 2 LEHR, 3 LEHR_PENDING_ENABLE, 4 OFFLINE, 5 FENCED (R532). -/
def State.stationSt (s : State) (k : Nat) : Nat := s.rd (Reg.SGS_STATUS_STATE k)
def State.stationUp (s : State) (k : Nat) : Bool := decide (s.stationSt k < 2)

/-- The stream of a job of a stream route. -/
def Job.frameOf (j : Job) : Option (Nat × Nat) :=
  match j.kind with
  | .frame st n _ => some (st, n)
  | _ => none

/-- Operations in a station. -/
def State.opsOn (s : State) (k : Nat) : Nat := (s.sgs.ops.filter (fun o => o.station == k)).length

/-- The operation of an earlier frame of the stream at this node has not committed (R489). -/
def State.sgsEarlier (s : State) (j : Job) (n : Nat) : Bool :=
  match j.frameOf with
  | none => false
  | some (st, q) => s.jobs.any (fun k => k.prog == j.prog && k.route == j.route && !(k.node n).committed &&
      (match k.frameOf with | some (a, m) => a == st && seqBefore m q | none => false))

/-- GATE_EN and GATE_NODE of a route's DECODE word (R174). -/
def dcGate (w : Nat) : Option Nat := if bitsOf w 32 1 = 1 then some (bitsOf w 48 16) else none

/-- An operation is ready: its sources are committed, the gated node's tiles are fixed where it reads them, and earlier frames have
committed (R347, R489, R525). -/
def State.sgsReady (s : State) (j : Job) (n w : Nat) : Bool :=
  let gate := match wOpc w, bitsOf w 32 16, s.jobWord j 0 with
    | 0x57, c, some d =>
      (match dcGate d with
       | some g => c == 0xFFFF || !decide (g < n) || (j.node g).ran
       | none => true)
    | _, _, _ => true
  j.started && j.plan.isSome && !(j.node n).ran && (wordSrcs w).all (fun q => (j.node q.2).committed) && gate && !s.sgsEarlier j n

/-- The opcodes of SGS (R527). -/
def isSgs (o : Nat) : Bool := decide (0x50 ≤ o) && decide (o ≤ 0x57)

/-- Operations queued at a station: those in progress, and the nodes of job routes that were sent to it and have not started. -/
def State.queuedOps (s : State) (k : Nat) : Nat :=
  s.opsOn k + sumNat (s.jobs.map (fun j => (j.nodes.filter (fun q => q.2.station == some k && !q.2.ran)).length))

/-- The station in service with the fewest queued operations, ties to the lowest (R488). -/
def State.freeStation (s : State) : Option Nat := minBy? s.queuedOps ((List.range 4).filter s.stationUp)

/-- The SGS nodes of a job route that have become ready go to the station with the fewest queued operations at this moment (R488). -/
def State.seatNodes (s : State) (id : Nat) : State :=
  match s.job? id with
  | none => s
  | some j =>
    if j.frameOf.isSome then s
    else
      (((s.prog j.prog).routeWords j.route).zipIdx).foldl (fun s q =>
        if isSgs (wOpc q.1) = true ∧ (j.node q.2).station.isNone = true ∧ s.sgsReady j q.2 q.1 = true then
          s.updNode id q.2 (fun x => { x with station := s.freeStation })
        else s) s

/-- The output of a node lies in a tile store: its plan entry has PLACE 1 (R292). -/
def State.inStore (s : State) (j : Job) (n : Nat) : Bool :=
  match s.jobWord j n with
  | none => false
  | some w =>
    match (s.prog j.prog).plan[wPlan w]? with
    | some e => planPlace e == 1
    | none => false

/-- The core whose tile store takes an output of PLACE 1 that no core makes: the lowest one in service of the home cluster.  The spec does
not say which (DESIGN CHOICE, log entry 66). -/
def State.storeCore (s : State) (j : Job) : Nat :=
  match (List.range 8).find? (fun i => decide (s.coreState (8 * j.home + i) < 4)) with
  | some i => 8 * j.home + i
  | none => 8 * j.home

/-- A node's output is committed (R347): consumers may read it. -/
def State.commitNode (s : State) (id n : Nat) (out : NodeOut) : State :=
  let seat := match s.job? id with
    | some j => if (j.node n).grid.isNone && s.inStore j n then [(0, 0, s.storeCore j)] else (j.node n).on
    | none => []
  (((((s.updNode id n (fun x => { x with ran := true, committed := true, out := out, on := seat })).releasePic id).releaseWhole id).releasePlan id).seatNodes id).tryEnd id

/-- The running job and the word of a node instruction: the job has started and holds its plan copies, and the node has not
run (R278, R575). -/
def State.nodeFor (s : State) (id node opc : Nat) : Option (Job × Nat) :=
  match s.job? id with
  | none => none
  | some j =>
    match s.jobWord j node with
    | none => none
    | some w => if wOpc w = opc ∧ j.started = true ∧ j.plan.isSome = true ∧ (j.node node).ran = false then some (j, w) else none

/-- The committed output of a node of a job (R347). -/
def Job.out? (j : Job) (n : Nat) : Option NodeOut := if (j.node n).committed then some (j.node n).out else none

/-- Stations of ORIGIN_STN (R35). -/
def opcStn (opc : Nat) : Nat :=
  if opc = 0x10 then 1 else if opc = 0x20 then 3 else if opc = 0x21 ∨ opc = 0x22 then 4
  else if 0x30 ≤ opc ∧ opc < 0x50 then 5 else if 0x50 ≤ opc ∧ opc < 0x60 then 6
  else if 0x60 ≤ opc ∧ opc < 0x68 then 7 else 8

/-- The block under which a node's fault is filed. -/
def opcBlk (opc : Nat) : Blk :=
  if opc = 0x10 then .gth else if opc = 0x20 then .dec else if opc = 0x21 ∨ opc = 0x22 then .shp
  else if 0x30 ≤ opc ∧ opc < 0x50 then .core else if 0x50 ≤ opc ∧ opc < 0x60 then .sgs
  else if 0x60 ≤ opc ∧ opc < 0x68 then .xfr else .egr

/-- What a saved context keeps once a job is gone; none when nothing is left. -/
def SavedCtx.without (c : SavedCtx) (id : Nat) : Option SavedCtx :=
  let k := { c with holds := c.holds.filter (fun h => h.job != id), tags := c.tags.filter (fun q => q.tj.job != id)
                    unfinished := c.unfinished.filter (fun t => t.job != id), resident := c.resident.filter (fun q => q.1 != id) }
  if k.holds.isEmpty && k.tags.isEmpty && k.unfinished.isEmpty && k.resident.isEmpty then none else some k

/-- Tile jobs of a job leave every queue, context and core; those that run commit, and their outputs are discarded (R338). -/
def State.dropTiles (s : State) (id : Nat) : State :=
  let gone := s.sched.saved.filter (fun c => (c.without id).isNone)
  let s1 : State := { s with
    sched := { s.sched with ready := s.sched.ready.filter (fun t => t.job != id)
                            saved := s.sched.saved.filterMap (fun c => c.without id) }
    cores := s.cores.map (fun (c, x) => (c, { x with
      placed := x.placed.filter (fun t => t.job != id)
      holds := x.holds.filter (fun h => h.job != id)
      tags := x.tags.filter (fun q => q.tj.job != id) })) }
  gone.foldl (fun s c => s.free1 7 c.area) s1

/-- A node faults (R338): one ERROR pennant, no further tile jobs, and the job ends with the code. -/
def State.faultJob (s : State) (j : Job) (node code d0 d1 : Nat) : State :=
  let opc := match s.jobWord j node with | some w => wOpc w | none => 0
  let hoist : Bool := match s.jobWord j node with | some w => wHoist w == 1 | none => false
  let frame : Bool := match j.line with | .frame _ _ => true | _ => false
  let p := { j.pn 0x12 node with flags := j.flags &&& 0x109, ct := if frame then j.ct else s.now, stn := opcStn opc, err := code, body := errBody j.name d0 d1 }
  let s0 := s.dropTiles j.id
  let s1 := ({ s0 with sgs := { s0.sgs with ops := s0.sgs.ops.filter (fun o => o.job != j.id) } } : State).file (opcBlk opc) 0xFFFF code d0 d1
  let s2 := s1.sendErr j p
  let s3 := if hoist = true ∧ s2.rd Reg.SNAP_CTRL_SRC_ERR = 1 then s2.hoist 2 code node else s2
  (if j.adapt.isSome then s3.adaptFail j else s3).endJob { j with fault := some (node, code) }

/-- A job of a program with a poisoned segment ends with HBM_POISON_READ at its first node that has not committed (R613). -/
def State.poisonJob (s : State) (j : Job) (line : Nat) : State :=
  let n := ((s.prog j.prog).routeWords j.route).length
  let node := ((List.range n).find? (fun k => !(j.node k).committed)).getD 0
  s.faultJob j node 0x0B05 (line * 64 % 2 ^ 32) (line * 64 / 2 ^ 32)

end Sys2Proof.Machine
end

