-- ==== Sys2Proof/Machine/Num.lean ====
section
/-! DEFINITION. Number formats (R361 to R368), exact sums and products (R369 to R371), IEEE 754 binary32 operations, conversion
(R366, R367) and block scales (R364, R365, R378). -/

set_option Elab.async false

namespace Sys2Proof.Machine

/-! ### Values -/

/-- A floating-point value: NaN, an infinity, or (−1)^neg × m × 2^e (R362, R363). -/
inductive FV where
  | nan
  | inf (neg : Bool)
  | num (neg : Bool) (m : Nat) (e : Int)
  deriving DecidableEq, Repr

/-- Exponent bits, mantissa bits, bias, and whether infinities and NaNs are IEEE ones (R361). -/
structure FmtRow where
  eb : Nat
  mb : Nat
  bias : Nat
  ieee : Bool
  deriving DecidableEq, Repr

/-- The floating-point formats of R361 by FMT code. -/
def fmtRow (f : Nat) : FmtRow :=
  match f with
  | 3 => ⟨2, 1, 1, false⟩
  | 4 => ⟨3, 2, 3, false⟩
  | 5 => ⟨4, 3, 7, false⟩
  | 6 => ⟨5, 2, 15, true⟩
  | 7 => ⟨5, 10, 15, true⟩
  | 8 => ⟨8, 7, 127, true⟩
  | _ => ⟨8, 23, 127, true⟩

/-- Bits of an element of a format (R361). -/
def fmtBits (f : Nat) : Nat :=
  match f with
  | 0 => 4 | 1 => 8 | 2 => 32 | 3 => 4 | 4 => 6 | 5 => 8 | 6 => 8 | 7 => 16 | 8 => 16 | _ => 32

/-- Integer formats: INT4, INT8, INT32. -/
def isInt (f : Nat) : Bool := f == 0 || f == 1 || f == 2

/-- An integer as a value. -/
def ofInt (x : Int) : FV := .num (decide (x < 0)) x.natAbs 0

/-- Decode an element (R361 to R363). -/
def decF (f code : Nat) : FV :=
  if isInt f then ofInt (sgn (fmtBits f) code)
  else
    let r := fmtRow f
    let s := bitsOf code (r.eb + r.mb) 1 == 1
    let e := bitsOf code r.mb r.eb
    let m := bitsOf code 0 r.mb
    if r.ieee ∧ e + 1 = 2 ^ r.eb then (if m = 0 then .inf s else .nan)
    else if f = 5 ∧ e = 15 ∧ m = 7 then .nan
    else if e = 0 then .num s m (1 - (r.bias : Int) - r.mb)
    else .num s (2 ^ r.mb + m) ((e : Int) - r.bias - r.mb)

/-- An FP32 code as a value. -/
def d32 (code : Nat) : FV := decF 9 code

/-- The integer a stored element of an integer format holds. -/
def intOf (f code : Nat) : Int := sgn (fmtBits f) code

def FV.isNan : FV → Bool
  | .nan => true
  | _ => false

def FV.isZero : FV → Bool
  | .num _ 0 _ => true
  | _ => false

def FV.neg : FV → FV
  | .nan => .nan
  | .inf s => .inf (!s)
  | .num s m e => .num (!s) m e

/-- Multiply by 2^k exactly. -/
def FV.shift (k : Int) : FV → FV
  | .num s m e => .num s m (e + k)
  | x => x

/-- The exact product (R369, R371). -/
def FV.mul : FV → FV → FV
  | .nan, _ => .nan
  | _, .nan => .nan
  | .inf s, .inf t => .inf (s != t)
  | .inf s, .num t m _ => if m = 0 then .nan else .inf (s != t)
  | .num t m _, .inf s => if m = 0 then .nan else .inf (s != t)
  | .num s m e, .num t n f => .num (s != t) (m * n) (e + f)

/-- A signed mantissa at exponent `e0`, no greater than the value's own exponent. -/
def atExp (e0 : Int) (neg : Bool) (m : Nat) (e : Int) : Int :=
  let x : Int := ((m * 2 ^ (e - e0).toNat : Nat) : Int)
  if neg then -x else x

/-- The exact sum of two values; a zero sum is −0 only when both are −0 (R371, IEEE 754). -/
def FV.add : FV → FV → FV
  | .nan, _ => .nan
  | _, .nan => .nan
  | .inf s, .inf t => if s = t then .inf s else .nan
  | .inf s, _ => .inf s
  | _, .inf t => .inf t
  | .num s m e, .num t n f =>
    let e0 := if e < f then e else f
    let x := atExp e0 s m e + atExp e0 t n f
    if x = 0 then .num (s && t && m == 0 && n == 0) 0 e0 else .num (decide (x < 0)) x.natAbs e0

/-- The exact sum of a list. -/
def sumFV : List FV → FV
  | [] => .num false 0 0
  | [x] => x
  | x :: t => x.add (sumFV t)

/-! ### Rounding -/

/-- Natural quotient rounded to nearest, ties to even. -/
def rneNat (n d : Nat) : Nat :=
  let q := n / d
  let r := n % d
  if 2 * r < d then q else if d < 2 * r then q + 1 else if q % 2 = 0 then q else q + 1

/-- floor(log2(n / d)) for n, d above 0. -/
def ilog2 (n d : Nat) : Int :=
  let l : Int := (Nat.log2 n : Int) - (Nat.log2 d : Int)
  let ge : Bool := if 0 ≤ l then decide (d * 2 ^ l.toNat ≤ n) else decide (d ≤ n * 2 ^ (-l).toNat)
  if ge then l else l - 1

/-- n / d × 2^e rounded to `mb` fraction bits with subnormal step 2^emin (R366): mantissa and exponent. -/
def roundMag (mb : Nat) (emin : Int) (n d : Nat) (e : Int) : Nat × Int :=
  if n = 0 then (0, emin)
  else
    let lead := ilog2 n d + e
    let q := max (lead - mb) emin
    let s := e - q
    let m := if 0 ≤ s then rneNat (n * 2 ^ s.toNat) d else rneNat n (d * 2 ^ (-s).toNat)
    if m = 2 ^ (mb + 1) then (2 ^ mb, q + 1) else (m, q)

/-- Sign, exponent and mantissa fields. -/
def packF (r : FmtRow) (neg : Bool) (e m : Nat) : Nat :=
  (if neg then 2 ^ (r.eb + r.mb) else 0) + e * 2 ^ r.mb + m

/-- The code of (−1)^neg × n / d × 2^e rounded to FP32, IEEE 754 (R367). -/
def enc32 (neg : Bool) (n d : Nat) (e : Int) : Nat :=
  let r := fmtRow 9
  let x := roundMag 23 (-149) n d e
  if x.1 < 2 ^ 23 then packF r neg 0 x.1
  else
    let ex := x.2 + 23 + 127
    if 255 ≤ ex then packF r neg 255 0 else packF r neg ex.toNat (x.1 - 2 ^ 23)

/-- The canonical FP32 NaN (R363). -/
def nan32 : Nat := 0x7FC00000

/-- An exact value rounded once to FP32 (R366, R367). -/
def r32 : FV → Nat
  | .nan => nan32
  | .inf s => packF (fmtRow 9) s 255 0
  | .num s m e => enc32 s m 1 e

/-! ### FP32 operations, each rounded once -/

def f32Add (a b : Nat) : Nat := r32 ((d32 a).add (d32 b))
def f32Sub (a b : Nat) : Nat := r32 ((d32 a).add (d32 b).neg)
def f32Mul (a b : Nat) : Nat := r32 ((d32 a).mul (d32 b))
def f32Fma (a b c : Nat) : Nat := r32 (((d32 a).mul (d32 b)).add (d32 c))
def f32Neg (a : Nat) : Nat := r32 (d32 a).neg

/-- Division, rounded correctly. -/
def f32Div (a b : Nat) : Nat :=
  match d32 a, d32 b with
  | .nan, _ => nan32
  | _, .nan => nan32
  | .inf _, .inf _ => nan32
  | .inf s, .num t _ _ => packF (fmtRow 9) (s != t) 255 0
  | .num s _ _, .inf t => packF (fmtRow 9) (s != t) 0 0
  | .num s m e, .num t n f =>
    if n = 0 then (if m = 0 then nan32 else packF (fmtRow 9) (s != t) 255 0)
    else enc32 (s != t) m n (e - f)

/-- floor(sqrt(n)), from the top bit of the root down. -/
def isqrtGo : Nat → Nat → Nat → Nat
  | 0, _, r => r
  | k + 1, n, r =>
    let c := r + 2 ^ k
    if c * c ≤ n then isqrtGo k n c else isqrtGo k n r

def isqrt (n : Nat) : Nat := isqrtGo (Nat.log2 n / 2 + 1) n 0

/-- Square root, rounded correctly: the root of a scaled mantissa, with a sticky bit. -/
def f32Sqrt (a : Nat) : Nat :=
  match d32 a with
  | .nan => nan32
  | .inf s => if s then nan32 else packF (fmtRow 9) false 255 0
  | .num s m e =>
    if m = 0 then packF (fmtRow 9) s 0 0
    else if s then nan32
    else
      let e' := if e % 2 = 0 then e else e - 1
      let m' := if e % 2 = 0 then m else 2 * m
      let k := m' * 2 ^ 64
      let q := isqrt k
      enc32 false (2 * q + (if q * q = k then 0 else 1)) 2 (e' / 2 - 32)

/-- Signed comparison of two values that are not NaN. -/
def FV.lt : FV → FV → Bool
  | .nan, _ => false
  | _, .nan => false
  | .inf s, .inf t => s && !t
  | .inf s, _ => s
  | _, .inf t => !t
  | .num s m e, .num t n f =>
    let e0 := if e < f then e else f
    decide (atExp e0 s m e < atExp e0 t n f)

def f32Lt (a b : Nat) : Bool := (d32 a).lt (d32 b)
def f32Le (a b : Nat) : Bool := !(d32 a).isNan && !(d32 b).isNan && !(d32 b).lt (d32 a)

/-- The larger and the smaller; NaN when either is NaN. -/
def f32Max (a b : Nat) : Nat :=
  if (d32 a).isNan || (d32 b).isNan then nan32 else if (d32 a).lt (d32 b) then b else a
def f32Min (a b : Nat) : Nat :=
  if (d32 a).isNan || (d32 b).isNan then nan32 else if (d32 b).lt (d32 a) then b else a

/-- An integer rounded to FP32. -/
def f32Int (x : Int) : Nat := r32 (ofInt x)

/-- A rational n / d rounded once to FP32; d above 0. -/
def f32Rat (n : Int) (d : Nat) : Nat := enc32 (decide (n < 0)) n.natAbs d 0

/-- 1.0 in FP32. -/
def one32 : Nat := 0x3F800000

/-! ### Conversion -/

/-- Counts of the numeric counters (R381): saturated, NaN written as 0, rounded to zero, accumulator saturations and
infinities, clamped scales; and of the marver's (R434): rows wholly masked, inputs raised to the floor, rows that came out
NaN, and rows in which ARGMAX_C met a NaN (R480). -/
structure NumCnt where
  sat : Nat := 0
  nan : Nat := 0
  zeroed : Nat := 0
  accSat : Nat := 0
  accInf : Nat := 0
  clamp : Nat := 0
  masked : Nat := 0
  floor : Nat := 0
  nanRows : Nat := 0
  argNan : Nat := 0
  deriving DecidableEq, Repr

def NumCnt.add (a b : NumCnt) : NumCnt :=
  { sat := a.sat + b.sat, nan := a.nan + b.nan, zeroed := a.zeroed + b.zeroed, accSat := a.accSat + b.accSat
    accInf := a.accInf + b.accInf, clamp := a.clamp + b.clamp, masked := a.masked + b.masked, floor := a.floor + b.floor
    nanRows := a.nanRows + b.nanRows, argNan := a.argNan + b.argNan }

/-- The sum of several counts. -/
def NumCnt.sum (l : List NumCnt) : NumCnt := l.foldl NumCnt.add {}

/-- Round a value to an integer, ties to even. -/
def toInt : Bool → Nat → Int → Int
  | neg, m, e =>
    let q := if 0 ≤ e then m * 2 ^ e.toNat else rneNat m (2 ^ (-e).toNat)
    if neg then -(q : Int) else (q : Int)

/-- Conversion to an integer format (R366, R367). -/
def cvtInt (f : Nat) (v : FV) : Nat × NumCnt :=
  let w := fmtBits f
  let hi : Int := 2 ^ (w - 1) - 1
  let lo : Int := -(2 ^ (w - 1))
  match v with
  | .nan => (0, { nan := 1 })
  | .inf s => (unsgn w (if s then lo else hi), { sat := 1 })
  | .num s m e =>
    let x := toInt s m e
    if x < lo then (unsgn w lo, { sat := 1 })
    else if hi < x then (unsgn w hi, { sat := 1 })
    else (unsgn w x, { zeroed := if x = 0 ∧ m ≠ 0 then 1 else 0 })

/-- Largest exponent field, and the mantissa there, of a format's largest finite value (R361). -/
def maxCode (f : Nat) : Nat × Nat :=
  let r := fmtRow f
  if f = 5 then (15, 6) else if r.ieee then (2 ^ r.eb - 2, 2 ^ r.mb - 1) else (2 ^ r.eb - 1, 2 ^ r.mb - 1)

/-- Conversion to a floating-point format other than FP32 (R366, R367). -/
def cvtFloat (f : Nat) (v : FV) : Nat × NumCnt :=
  let r := fmtRow f
  let top := maxCode f
  match v with
  | .nan =>
    if f = 3 ∨ f = 4 then (0, { nan := 1 })
    else if f = 5 then (0x7F, {}) else if f = 6 then (0x7E, {}) else if f = 7 then (0x7E00, {}) else (0x7FC0, {})
  | .inf s => if r.ieee then (packF r s (2 ^ r.eb - 1) 0, {}) else (packF r s top.1 top.2, { sat := 1 })
  | .num s m e =>
    let emin : Int := 1 - (r.bias : Int) - r.mb
    let x := roundMag r.mb emin m 1 e
    if x.1 < 2 ^ r.mb then (packF r s 0 x.1, { zeroed := if x.1 = 0 ∧ m ≠ 0 then 1 else 0 })
    else
      let ex := (x.2 + r.mb + r.bias).toNat
      let mant := x.1 - 2 ^ r.mb
      if top.1 < ex ∨ (ex = top.1 ∧ top.2 < mant) then (packF r s top.1 top.2, { sat := 1 })
      else (packF r s ex mant, {})

/-- Conversion to any format (R366, R367). -/
def cvt (f : Nat) (v : FV) : Nat × NumCnt :=
  if isInt f then cvtInt f v
  else if f = 9 then
    let c := r32 v
    (c, { zeroed := match v with | .num _ m _ => if m ≠ 0 ∧ c % 2 ^ 31 = 0 then 1 else 0 | _ => 0 })
  else cvtFloat f v

/-- Convert each of a list, adding the counts. -/
def cvtAll (f : Nat) (l : List FV) : List Nat × NumCnt :=
  let r := l.map (cvt f)
  (r.map (·.1), r.foldl (fun a x => a.add x.2) {})

/-! ### Block scales -/

/-- The value of an E8M0 byte as an exponent; NaN for 0xFF (R364). -/
def scaleExp (b : Nat) : Option Int := if b % 256 = 255 then none else some ((b % 256 : Int) - 127)

/-- A scaled element (R365). -/
def scaled (f code b : Nat) : FV :=
  match scaleExp b with
  | none => .nan
  | some k => (decF f code).shift k

/-- The largest finite magnitude of some values as (mantissa, exponent). -/
def maxMag (l : List FV) : Nat × Int :=
  l.foldl (fun a v =>
    match v with
    | .num _ m e => if m ≠ 0 ∧ (a.1 = 0 ∨ (FV.num false a.1 a.2).lt (.num false m e) = true) then (m, e) else a
    | _ => a) (0, 0)

/-- The least E with X ≤ MAXF × 2^E (R378). -/
def blockExp (f : Nat) (x : Nat × Int) : Int :=
  let r := fmtRow f
  let top := maxCode f
  let maxM := 2 ^ r.mb + top.2
  let maxE : Int := (top.1 : Int) - r.bias - r.mb
  -- X ≤ maxM × 2^(maxE + E); start one below the difference of the leading bits and step up
  let e0 : Int := (Nat.log2 x.1 : Int) + x.2 - ((Nat.log2 maxM : Int) + maxE)
  let fits := fun (e : Int) => !(FV.num false maxM (maxE + e)).lt (.num false x.1 x.2)
  if fits (e0 - 1) then e0 - 1 else if fits e0 then e0 else e0 + 1

/-- One block of up to 32 values with its scale byte (R378), padded to 32 elements. -/
def cvtBlock (f : Nat) (l : List FV) : List Nat × Nat × NumCnt :=
  let pad := List.replicate (32 - l.length) 0
  if l.any FV.isNan then (l.map (fun _ => 0) ++ pad, 255, { nan := (l.filter FV.isNan).length })
  else
    let x := maxMag l
    let raw := if x.1 = 0 then -127 else blockExp f x
    let e := clampInt (-127) 127 raw
    let r := l.map (fun v => cvt f (v.shift (-e)))
    let c := r.foldl (fun a y => a.add y.2) ({} : NumCnt)
    (r.map (·.1) ++ pad, (e + 127).toNat, { c with clamp := if x.1 ≠ 0 ∧ raw < -127 then 1 else 0 })

/-- A row converted with block scales of 32 (R320, R378): codes of the row's own columns, scale bytes and counts. -/
def cvtRow (f : Nat) (l : List FV) : List Nat × List Nat × NumCnt :=
  (chunksOf 32 l.length l).foldl (fun a b =>
    let r := cvtBlock f b
    (a.1 ++ r.1.take b.length, a.2.1 ++ [r.2.1], a.2.2.add r.2.2)) ([], [], {})

/-! ### Transcendental constants, by fixed point

Values with 160 fraction bits, from series with integer arithmetic: enough for correct rounding to FP32 of the angles and the
table points the chapters name. -/

/-- Fraction bits of the fixed-point values. -/
def fxBits : Nat := 160

/-- arctan(1/k) by its series. -/
def atanInv (k : Nat) : Int :=
  let go := (List.range 120).foldl (fun (a : Int × Nat) i =>
    let t : Int := ((a.2 / (2 * i + 1) : Nat) : Int)
    ((if i % 2 = 0 then a.1 + t else a.1 - t), a.2 / (k * k))) ((0 : Int), 2 ^ fxBits / k)
  go.1

/-- π in fixed point, by Machin's formula. -/
def fxPi : Int := 4 * (4 * atanInv 5 - atanInv 239)

/-- Product of two fixed-point values. -/
def fxMul (a b : Int) : Int := a * b / 2 ^ fxBits

/-- sin of x with |x| ≤ π / 2, by its series. -/
def fxSin (x : Int) : Int :=
  let x2 := fxMul x x
  ((List.range 30).foldl (fun (a : Int × Int) i =>
    let t := fxMul a.2 x2 / ((2 * i + 2) * (2 * i + 3) : Nat)
    (a.1 + a.2, -t)) ((0 : Int), x)).1

/-- sin and cos of 2π × n / 65536 as FP32 codes; exactly 0 or ±1 at quarter turns (R243). -/
def sinTurn (n : Nat) : Nat :=
  let m := n % 65536
  let q := m / 16384
  let r := m % 16384
  -- sin over the quadrant: sin(r) in quadrants 0 and 2, sin(quarter − r) in 1 and 3; negative in 2 and 3
  let a := if q % 2 = 0 then r else 16384 - r
  let neg := decide (2 ≤ q)
  if a = 0 then 0
  else if a = 16384 then (if neg then 0xBF800000 else one32)
  else enc32 neg (fxSin (2 * fxPi * (a : Int) / 65536)).natAbs 1 (-(fxBits : Int))
def cosTurn (n : Nat) : Nat := sinTurn (n + 16384)

end Sys2Proof.Machine
end

