-- ==== Sys2Proof/Machine/MatCalc.lean ====
section
/-! DEFINITION. Operands of core nodes in their stored layouts (R319 to R323) and the accumulation of products (R369 to R374). -/

set_option Elab.async false

namespace Sys2Proof.Machine

/-! ### Layout (R319, R320) -/

/-- Elements of a padded row (R319). -/
def padRow (f k : Nat) : Nat := let q := if fmtBits f < 8 then 32 else 16; cdiv k q * q

def round64 (n : Nat) : Nat := cdiv n 64 * 64

/-- Bytes of one padded row. -/
def rowBytes (f k : Nat) : Nat := padRow f k * fmtBits f / 8

/-- Bytes of a padded matrix, without and with its scale array (R319, R320). -/
def matBytes (f rows k : Nat) (scales : Bool) : Nat :=
  round64 (rows * rowBytes f k) + (if scales then round64 (rows * cdiv (padRow f k) 32) else 0)

/-- Codes as one bit string, and back. -/
def packCodes (b : Nat) (l : List Nat) : Nat := l.foldr (fun c a => c % 2 ^ b + a * 2 ^ b) 0
def unpackCodes (b n x : Nat) : List Nat := (List.range n).map (fun i => bitsOf x (i * b) b)

/-- Codes of one format read as those of another: the same bits. -/
def recode (f g : Nat) (l : List Nat) : List Nat :=
  if fmtBits f = fmtBits g then l
  else unpackCodes (fmtBits g) (l.length * fmtBits f / fmtBits g) (packCodes (fmtBits f) l)

/-- An element: its code, and the byte of its block scale (127 stands for none, R369).  A second part of 256 marks a padded tap
whose code is the INT16 zero point (R469). -/
abbrev Elem := Nat × Nat

/-- The integer value of an element. -/
def elemInt (f : Nat) (e : Elem) : Int := if e.2 = 256 then sgn 16 e.1 else intOf f e.1

def padTo {α : Type} (n : Nat) (d : α) (l : List α) : List α := l ++ List.replicate (n - l.length) d

/-- A row of codes with its scale bytes as elements. -/
def elems (codes scales : List Nat) : List Elem :=
  codes.zipIdx.map (fun (c, i) => (c, if scales.isEmpty then 127 else scales.getD (i / 32) 127))

/-- Scale bytes of a row that its source does not hold. -/
def noScales (r k : Nat) : List Nat := (List.range (cdiv k 32)).map (fun b => (Config.absentScale r b).toNat)

/-- Rows of a matrix held as bytes: `rows` rows of `k` elements (R319, R320). -/
def rowsOfBytes (f rows k : Nat) (sc : Bool) (data : List Nat) : List (List Elem) :=
  let n := rowBytes f k
  let nb := cdiv (padRow f k) 32
  let base := round64 (rows * n)
  (List.range rows).map (fun r =>
    let c := unpackCodes (fmtBits f) k (ofBytes ((data.drop (r * n)).take n))
    elems c (if sc then (List.range nb).map (fun b => data.getD (base + r * nb + b) 0) else []))

/-- Rows of an output matrix in a format (R321). -/
def rowsOfTensor (f k : Nat) (sc : Bool) (t : Tensor) : List (List Elem) :=
  t.rows.zipIdx.map (fun (row, r) =>
    let c := (padTo k 0 (recode t.fmt f row)).take k
    elems c (if sc then (match t.scales[r]? with | some l => l | none => noScales r k) else []))

/-- The bytes of an output in the tiled layout (R319, R320). -/
def tensorBytes (t : Tensor) : List Nat :=
  let n := rowBytes t.fmt t.cols
  let m := t.rows.flatMap (fun r => bytesOf n (packCodes (fmtBits t.fmt) r))
  let s := t.scales.flatMap id
  padTo (round64 m.length) 0 m ++ padTo (round64 s.length) 0 s

/-- A list of an SGS node as stored: its header and elements, padded to 64 B (R492). -/
def listImage (slot eb trunc : Nat) (els : List Nat) : List Nat :=
  let hdr := packBits [(496, 16, els.length), (488, 8, eb), (472, 16, min 65535 trunc), (456, 16, slot)]
  let b := bytesOf 64 hdr ++ els.flatMap (bytesOf eb)
  padTo (round64 b.length) 0 b

/-- The lists of an SGS node, one for each sample, in slot order; a TRACK node's track lists after its detection lists (R492, R523). -/
def listsImage (l : NodeList) : List Nat :=
  let all := fun (eb : Nat) (ls : List (List Nat)) => ls.zipIdx.flatMap (fun q => listImage q.2 eb (l.trunc.getD q.2 0) q.1)
  all (if l.isTrack then 32 else 16) l.lists ++ (match l.tracks with | some t => all 32 t | none => [])

/-- The bytes of a node's output, for an operand that names bits or words of it. -/
def outBytes : NodeOut → List Nat
  | .bytes d => d
  | .tensor t => tensorBytes t
  | .batch _ _ l => l.flatMap (fun x => x.data)
  | .lists l => listsImage l
  | _ => []

/-- Rows of the samples of a source, `per` rows of `k` elements each (R321): of a batch's sample tensors, of an output
matrix, or of a GATHER's bytes. -/
def sampleRows (o : NodeOut) (f k per rows : Nat) (sc : Bool) : List (List (List Elem)) :=
  match o with
  | .batch _ _ l => l.map (fun x =>
      ((chunksOf (padRow f k) x.data.length x.data).take per).map (fun r => elems ((padTo k 0 r).take k)
        (if sc then noScales 0 k else [])))
  | .tensor t => let m := rowsOfTensor f k sc t; chunksOf (max 1 per) m.length m
  | .bytes d => let m := rowsOfBytes f rows k sc d; chunksOf (max 1 per) m.length m
  | _ => []

/-- Rows that a source holds for rows of `k` elements, at most what it was asked for (R337). -/
def rowsHeld (o : NodeOut) (f k per : Nat) : Nat :=
  match o with
  | .batch _ _ l => sumNat (l.map (fun x => min per (cdiv x.data.length (padRow f k))))
  | .tensor t => if padRow f k * fmtBits f ≤ padRow t.fmt t.cols * fmtBits t.fmt then t.rows.length else 0
  | .bytes d => if rowBytes f k = 0 then d.length else d.length / rowBytes f k
  | _ => 0

/-- `rows` rows of `n` 32-bit codes: scales, biases, γ and β, statistics (R373, R397). -/
def rows32 (o : NodeOut) (rows n : Nat) : List (List Nat) :=
  match o with
  | .tensor t => t.rows.map (fun r => (padTo n 0 (recode t.fmt 9 r)).take n)
  | .bytes d => (rowsOfBytes 9 rows n false d).map (fun r => r.map (·.1))
  | _ => []

/-- One vector of `n` 32-bit codes. -/
def vec32 (o : NodeOut) (n : Nat) : List Nat := (rows32 o 1 n).headD []

/-- `n` 32-bit codes one after another: one per row of a matrix, or a run of words (R407). -/
def words32 (o : NodeOut) (n : Nat) : List Nat :=
  match o with
  | .tensor t => if t.rows.length < n then t.rows.flatMap (recode t.fmt 9) else t.rows.map (fun r => (recode t.fmt 9 r).headD 0)
  | .bytes d => (List.range n).map (fun i => ofBytes ((d.drop (4 * i)).take 4))
  | _ => []

/-- The element of a matrix as FP32 (R397): integers are rounded once. -/
def toF32 (f : Nat) (e : Elem) : Nat := r32 (scaled f e.1 e.2)

/-- Rows of a matrix that an epilogue or a marver node reads in its own format: a core node's output, or FP32 for bytes. -/
def rowsF32 (o : NodeOut) (rows n : Nat) : List (List Nat) :=
  match o with
  | .tensor t => t.rows.zipIdx.map (fun (r, i) => (elems ((padTo n 0 r).take n) (t.scales.getD i [])).map (toF32 t.fmt))
  | .bytes d => (rowsOfBytes 9 rows n false d).map (fun r => r.map (·.1))
  | _ => []

/-- Swap rows and columns: `n` columns. -/
def transpose {α : Type} (d : α) (n : Nat) (m : List (List α)) : List (List α) :=
  (List.range n).map (fun c => m.map (fun r => r.getD c d))

/-- The stationary operand as N columns of K elements (R323): from row `lo` on of a matrix of `tot` stored rows. -/
def columnsOf (o : NodeOut) (f k n : Nat) (sc trans : Bool) (lo tot : Nat) : List (List Elem) :=
  let z : Elem := (0, 127)
  if trans then
    let rows : List (List Elem) := match o with
      | .tensor t => (t.rows.map (fun r => (padTo n 0 (recode t.fmt f r)).take n)).map (fun r => r.map (fun c => ((c, 127) : Elem)))
      | .bytes d => rowsOfBytes f tot n false d
      | .batch _ _ _ => (sampleRows o f n tot tot false).flatMap id
      | _ => []
    -- scales run along K: ceil(K / 32) rows of N scales (R323)
    let scOf := fun (r c : Nat) =>
      if !sc then 127
      else match o with
        | .tensor t => (t.scales.getD (r / 32) (noScales r n)).getD c 127
        | .bytes d => d.getD (round64 (tot * rowBytes f n) + r / 32 * n + c) 0
        | _ => (Config.absentScale r c).toNat
    transpose z n (((rows.drop lo).take k).zipIdx.map (fun (r, i) => r.zipIdx.map (fun (e, c) => (e.1, scOf (lo + i) c))))
  else ((sampleRows o f k tot tot sc).flatMap id |>.drop lo).take n

/-! ### Groups and accumulation (R311 to R313, R369 to R371) -/

/-- G of a format (R311). -/
def groupOf (f : Nat) : Nat :=
  match f with
  | 0 => 32 | 3 => 32 | 4 => 32 | 1 => 16 | 5 => 16 | 6 => 16 | 7 => 8 | 8 => 8 | _ => 1

/-- Group size of a pair of formats (R312). -/
def groupSize (f g : Nat) : Nat := min (groupOf f) (groupOf g)

def intMax : Int := 2 ^ 31 - 1
def intMin : Int := -(2 ^ 31)

/-- The sums of products of each group, in ascending order. -/
def intGroups (g : Nat) (a b : List Int) : List Int :=
  let p := List.zipWith (· * ·) a b
  (chunksOf g p.length p).map (fun l => l.foldl (· + ·) 0)
def fvGroups (g : Nat) (a b : List FV) : List FV :=
  let p := List.zipWith FV.mul a b
  (chunksOf g p.length p).map sumFV

/-- One integer addition, saturating; the flag says that it saturated once (R369, R370). -/
def intStep (a : Int × Bool) (s : Int) : Int × Bool :=
  let x := a.1 + s
  if x < intMin then (intMin, true) else if intMax < x then (intMax, true) else (x, a.2)

/-- An INT32 accumulator over its groups. -/
def accInt (g : Nat) (a b : List Int) : Int × Bool := (intGroups g a b).foldl intStep (0, false)

/-- One floating-point addition, rounded once; the flag says that the accumulator became infinite from finite group sums
(R369, R371). -/
def fvStep (a : Nat × Bool) (s : FV) : Nat × Bool :=
  let y := r32 (s.add (d32 a.1))
  let fin := fun (v : FV) => match v with | .num _ _ _ => true | _ => false
  (y, a.2 || (fin s && fin (d32 a.1) && !fin (d32 y) && !(d32 y).isNan))

/-- An FP32 accumulator over its groups, from `c`. -/
def accFV (g c : Nat) (a b : List FV) : Nat × Bool := (fvGroups g a b).foldl fvStep (c, false)

/-- An accumulator of a tile: its raw 32-bit pattern, the value c or acc before SC (an integer or an FP32 code), and whether it
saturated or became infinite. -/
structure Accu where
  raw : Nat
  int : Int := 0
  sat : Bool := false
  inf : Bool := false
  deriving DecidableEq, Repr

/-- The accumulators of one row against every column; `zp` is the zero point (R369 to R373). -/
def rowAccu (af bf : Nat) (zp : Int) (row : List Elem) (cols : List (List Elem)) : List Accu :=
  let g := groupSize af bf
  if isInt af then
    let a := row.map (elemInt af)
    cols.map (fun c =>
      let b := c.map (elemInt bf)
      let r := accInt g a b
      { raw := unsgn 32 r.1, int := r.1 - zp * b.foldl (· + ·) 0, sat := r.2 })
  else
    let a := row.map (fun e => scaled af e.1 e.2)
    cols.map (fun c =>
      let r := accFV g 0 a (c.map (fun e => scaled bf e.1 e.2))
      { raw := r.1, inf := r.2 })

/-- The stationary sets of CK0 and CK1 for integer B (R339, R340): for each reduction index the sum of the active lanes' elements, plain
and weighted by the lane index plus 1. -/
def ckSetsInt (bf : Nat) (cols : List (List Elem)) : List (Int × Int) :=
  cols.zipIdx.foldl (fun a c => List.zipWith (fun p e =>
      let v := elemInt bf e
      (p.1 + v, p.2 + ((c.2 : Int) + 1) * v)) a c.1)
    (List.replicate (cols.headD []).length (0, 0))

/-- The same for floating-point B, as FP32 codes: formed in ascending lane order, each addition rounded once. -/
def ckSetsFV (bf : Nat) (cols : List (List Elem)) : List (Nat × Nat) :=
  cols.zipIdx.foldl (fun a c => List.zipWith (fun p e =>
      let v := scaled bf e.1 e.2
      (r32 ((d32 p.1).add v), r32 ((d32 p.2).add (v.mul (ofInt ((c.2 : Int) + 1)))))) a c.1)
    (List.replicate (cols.headD []).length (0, 0))

/-- ck0 and ck1 of a streamed row over a tile's columns (R339, R340), as 32-bit patterns: an integer checksum lane counts modulo 2^32. -/
def ckRow (af bf : Nat) (row : List Elem) (cols : List (List Elem)) : Nat × Nat :=
  if isInt af then
    let s := ckSetsInt bf cols
    let dot := fun (l : List Int) => unsgn 32 ((List.zipWith (fun e v => elemInt af e * v) row l).foldl (· + ·) 0)
    (dot (s.map (·.1)), dot (s.map (·.2)))
  else
    let s := ckSetsFV bf cols
    let a := row.map (fun e => scaled af e.1 e.2)
    let acc := fun (l : List Nat) => (accFV (groupSize af bf) 0 a (l.map d32)).1
    (acc (s.map (·.1)), acc (s.map (·.2)))

/-- The de-quantised value (R373). -/
def dequant (isI : Bool) (x : Accu) (sc : Nat) : Nat :=
  if isI then r32 ((ofInt x.int).mul (d32 sc)) else f32Mul x.raw sc

/-- Counts of a row's accumulators (R381). -/
def accuCnt (l : List Accu) : NumCnt :=
  { accSat := (l.filter (·.sat)).length, accInf := (l.filter (·.inf)).length }

/-! ### Conversion of output rows (R366, R367, R378, R379) -/

/-- A row of FP32 codes converted to an output format: codes, scale bytes and counts per `w` output columns, the columns of
one column tile. -/
def outRow (f : Nat) (sc : Bool) (w : Nat) (l : List Nat) : List Nat × List Nat × List NumCnt :=
  let tiles := chunksOf w l.length l
  let one := fun (t : List Nat) =>
    if sc then cvtRow f (t.map d32)
    else
      let r := cvtAll f (t.map d32)
      (r.1, [], r.2)
  let r := tiles.map one
  (r.flatMap (·.1), r.flatMap (·.2.1), r.map (·.2.2))

/-- A value rounded to a storage format and back to FP32 (R445). -/
def storeRound (f x : Nat) : Nat := r32 (decF f (cvt f (d32 x)).1)

/-- The patch rows of a sample (R322): `w` output positions per row, patches of p × p pixels of `c` channels. -/
def patchRows (w p rows : Nat) (pix : List (List Elem)) : List (List Elem) :=
  (List.range rows).map (fun m =>
    let px := m % w
    let py := m / w
    (List.range p).flatMap (fun dy => (List.range p).flatMap (fun dx =>
      pix.getD ((py * p + dy) * (w * p) + px * p + dx) [])))

end Sys2Proof.Machine
end

