-- ==== Sys2Proof/Machine/MrvTbl.lean ====
section
/-! DEFINITION. Special-function tables (R416 to R422): the published slots, whose coefficients follow the construction of R418
in fixed point, and the user slots. -/

set_option Elab.async false

namespace Sys2Proof.Machine

/-! ### Fixed-point functions, 160 fraction bits -/

/-- Quotient of two fixed-point values. -/
def fxDiv (a b : Int) : Int := a * 2 ^ fxBits / b

/-- The value of a rational n / d. -/
def fxRat (n : Int) (d : Nat) : Int := n * 2 ^ fxBits / d

/-- 1 in fixed point. -/
def fxOne : Int := 2 ^ fxBits

/-- e^r for small r, by its series. -/
def fxExpSmall (r : Int) : Int :=
  ((List.range 45).foldl (fun (a : Int × Int) i => (a.1 + a.2, fxMul a.2 r / ((i + 1 : Nat) : Int))) ((0 : Int), fxOne)).1

/-- ln((1 + z) / (1 − z)) = 2 artanh z, by its series, for 0 ≤ z ≤ 1/3. -/
def fxAtanh2 (z : Int) : Int :=
  let z2 := fxMul z z
  2 * ((List.range 60).foldl (fun (a : Int × Int) i => (a.1 + a.2 / ((2 * i + 1 : Nat) : Int), fxMul a.2 z2))
    ((0 : Int), z)).1

/-- ln 2. -/
def fxLn2 : Int := fxAtanh2 (fxRat 1 3)

/-- ln m for 1 ≤ m ≤ 2. -/
def fxLn (m : Int) : Int := fxAtanh2 (fxDiv (m - fxOne) (m + fxOne))

/-- e^x. -/
def fxExp (x : Int) : Int :=
  let k := x / fxLn2
  let y := fxExpSmall (x - k * fxLn2)
  if 0 ≤ k then y * 2 ^ k.toNat else y / 2 ^ (-k).toNat

/-- √x for a value that is not negative. -/
def fxSqrt (x : Int) : Int := ((isqrt (x.toNat * 2 ^ fxBits) : Nat) : Int)

/-- 1 / (1 + e^−x). -/
def fxSigmoid (x : Int) : Int := fxDiv fxOne (fxOne + fxExp (-x))

/-- tanh x. -/
def fxTanh (x : Int) : Int :=
  let e := fxExp (-2 * x)
  fxDiv (fxOne - e) (fxOne + e)

/-- 0.5x(1 + tanh z) with z = √(2/π)(x + 0.044715x³), as x / (1 + e^−2z). -/
def fxGelu (x : Int) : Int :=
  let x3 := fxMul (fxMul x x) x
  let z := fxMul (fxSqrt (fxDiv (2 * fxOne) fxPi)) (x + x3 * 44715 / 1000000)
  fxMul x (fxSigmoid (2 * z))

/-- ln(1 + e^x): the greater of x and 0 plus ln(1 + e^−|x|). -/
def fxSoftplus (x : Int) : Int :=
  let a := if x < 0 then -x else x
  (if x < 0 then 0 else x) + fxLn (fxOne + fxExp (-a))

/-- The function of the reduced variable of a published slot (R418), at the point n / d of it. -/
def slotFun (slot : Nat) (n : Int) (d : Nat) : Int :=
  let x := fxRat n d
  match slot with
  | 0 => fxExp (fxMul x fxLn2)
  | 1 => fxDiv (fxLn x) fxLn2
  | 2 => fxDiv fxOne x
  | 3 => fxDiv fxOne (fxSqrt x)
  | 4 => fxSigmoid x
  | 5 => fxTanh x
  | 6 => fxGelu x
  | 7 => fxMul x (fxSigmoid x)
  | _ => fxSoftplus x

/-- Start of segment k in the reduced variable as n / 1024, and its width in 1/1024 (R417). -/
def segStart (slot k : Nat) : Int × Int :=
  match slot with
  | 0 => (4 * k, 4)
  | 1 => (1024 + 4 * k, 4)
  | 2 => (1024 + 4 * k, 4)
  | 3 => if k < 128 then (1024 + 8 * k, 8) else (2048 + 16 * ((k : Int) - 128), 16)
  | 4 => (-16384 + 128 * (k : Int), 128)
  | 5 => (32 * k, 32)
  | 6 => (-8192 + 64 * (k : Int), 64)
  | _ => (-16384 + 128 * (k : Int), 128)

/-- A fixed-point value rounded once to FP32. -/
def fxR32 (x : Int) : Nat := enc32 (decide (x < 0)) x.natAbs 1 (-(fxBits : Int))

/-- The published coefficients C0, C1, C2 of a segment (R418). -/
def romCoef (slot k : Nat) : Nat × Nat × Nat :=
  let p := segStart slot k
  let y0 := slotFun slot p.1 1024
  let ym := slotFun slot (2 * p.1 + p.2) 2048
  let y1 := slotFun slot (p.1 + p.2) 1024
  (fxR32 y0, fxR32 (4 * ym - 3 * y0 - y1), fxR32 (2 * y0 + 2 * y1 - 4 * ym))

/-! ### Evaluation -/

/-- p(t) = fma(fma(C2, t, C1), t, C0). -/
def evalCoef (c : Nat × Nat × Nat) (t : Nat) : Nat := f32Fma (f32Fma c.2.2 t c.2.1) t c.1

/-- The value v × 2^sh as floor and remainder: (floor, numerator of the remainder over 2^q, q). -/
def splitFloor (m : Int) (e : Int) : Int × Nat × Nat :=
  if 0 ≤ e then (m * 2 ^ e.toNat, 0, 0)
  else
    let q := (-e).toNat
    (m / 2 ^ q, (m % 2 ^ q).toNat, q)

/-- Segment k and offset t, formed exactly with t rounded once, of the value m × 2^e in units of one segment (R417). -/
def segOf (m e : Int) : Int × Nat :=
  let r := splitFloor m e
  (r.1, enc32 false r.2.1 1 (-(r.2.2 : Int)))

/-- Signed mantissa and exponent of a finite FP32 code. -/
def finOf (x : Nat) : Option (Int × Int) :=
  match d32 x with
  | .num s m e => some (if s then -(m : Int) else m, e)
  | _ => none

/-- LOG2E as FP32 (R406). -/
def log2e : Nat := 0x3FB8AA3B

def inf32 : Nat := 0x7F800000
def negInf32 : Nat := 0xFF800000
def negZero32 : Nat := 0x80000000

/-- An FP32 code times 2^k, rounded once. -/
def f32Scale (x : Nat) (k : Int) : Nat := r32 ((d32 x).shift k)

/-- Mantissa and exponent with 1 ≤ m < 2: x = n × 2^−l × 2^e with l = log2 n; (n, l, e). -/
def normOf (m : Nat) (e : Int) : Nat × Nat × Int := (m, Nat.log2 m, e + Nat.log2 m)

/-- A segment index held in 0 to 255. -/
def segIdx (k : Int) : Nat := (clampInt 0 255 k).toNat

/-- Slot 0, exp2 (R417). -/
def slotExp2 (x : Nat) : Nat :=
  match d32 x with
  | .nan => nan32
  | .inf s => if s then 0 else inf32
  | .num s m e =>
    let v : Int := if s then -(m : Int) else m
    let r := splitFloor v e
    if 128 ≤ r.1 then inf32
    else if r.1 < -150 then 0
    else
      -- f = r.2.1 / 2^r.2.2; 256 f split into k and t
      let g := segOf (r.2.1 : Int) (8 - (r.2.2 : Int))
      f32Scale (evalCoef (romCoef 0 (segIdx g.1)) g.2) r.1

/-- Slot 1, log2 (R417). -/
def slotLog2 (x : Nat) : Nat :=
  match d32 x with
  | .nan => nan32
  | .inf s => if s then nan32 else inf32
  | .num s m e =>
    if m = 0 then negInf32
    else if s then nan32
    else
      let n := normOf m e
      let g := segOf ((n.1 : Int) - 2 ^ n.2.1) (8 - (n.2.1 : Int))
      r32 ((ofInt n.2.2).add (d32 (evalCoef (romCoef 1 (segIdx g.1)) g.2)))

/-- Slot 2, reciprocal (R417). -/
def slotRecip (x : Nat) : Nat :=
  match d32 x with
  | .nan => nan32
  | .inf s => if s then negZero32 else 0
  | .num s m e =>
    if m = 0 then (if s then negInf32 else inf32)
    else
      let n := normOf m e
      let g := segOf ((n.1 : Int) - 2 ^ n.2.1) (8 - (n.2.1 : Int))
      let y := f32Scale (evalCoef (romCoef 2 (segIdx g.1)) g.2) (-n.2.2)
      if s then f32Neg y else y

/-- Slot 3, rsqrt (R417). -/
def slotRsqrt (x : Nat) : Nat :=
  match d32 x with
  | .nan => nan32
  | .inf s => if s then nan32 else 0
  | .num s m e =>
    if m = 0 then (if s then negInf32 else inf32)
    else if s then nan32
    else
      let n := normOf m e
      let j := n.2.2 / 2
      let odd := n.2.2 % 2 == 1
      -- the mantissa in [1, 4) is n.1 × 2^−n.2.1, doubled when the exponent is odd
      let g := if odd then
          let q := segOf (2 * (n.1 : Int) - 2 * 2 ^ n.2.1) (6 - (n.2.1 : Int))
          (128 + q.1, q.2)
        else segOf ((n.1 : Int) - 2 ^ n.2.1) (7 - (n.2.1 : Int))
      f32Scale (evalCoef (romCoef 3 (segIdx g.1)) g.2) (-j)

/-- A published slot on a domain [−lim, lim) cut into 256 segments of 2^−sh (R417). -/
def slotDomain (slot : Nat) (lim : Int) (sh : Nat) (m e : Int) : Nat :=
  let g := if 0 ≤ e then segOf ((m * 2 ^ e.toNat + lim) * 2 ^ sh) 0
    else segOf (m + lim * 2 ^ (-e).toNat) (e + (sh : Int))
  evalCoef (romCoef slot (segIdx g.1)) g.2

/-- Is m × 2^e at or above / below an integer? -/
def geInt (m e k : Int) : Bool := decide (k ≤ (splitFloor m e).1)

/-- Slots 4, 6, 7 and 8 (R417). -/
def slotDom (slot x : Nat) : Nat :=
  let lim : Int := if slot = 6 then 8 else 16
  match d32 x with
  | .nan => nan32
  | .inf s =>
    if s then
      (match slot with
       | 6 => negZero32
       | 7 => f32Mul x (slotExp2 (f32Mul x log2e))
       | _ => slotExp2 (f32Mul x log2e))
    else if slot = 4 then one32 else x
  | .num s m e =>
    let v : Int := if s then -(m : Int) else m
    if geInt v e lim then (if slot = 4 then one32 else x)
    else if !geInt v e (-lim) then
      (match slot with
       | 6 => negZero32
       | 7 => f32Mul x (slotExp2 (f32Mul x log2e))
       | _ => slotExp2 (f32Mul x log2e))
    else slotDomain slot lim (if slot = 6 then 4 else 3) v e

/-- Slot 5, tanh (R417). -/
def slotTanh (x : Nat) : Nat :=
  match d32 x with
  | .nan => nan32
  | .inf s => if s then f32Neg one32 else one32
  | .num s m e =>
    let y := if geInt m e 8 then one32
      else
        let g := segOf (m : Int) (e + 5)
        evalCoef (romCoef 5 (segIdx g.1)) g.2
    if s then f32Neg y else y

/-- A user slot (R421). -/
def evalUser (u : UserSlot) (x : Nat) : Nat :=
  if (d32 x).isNan then nan32
  else
    let v := r32 ((d32 (f32Sub x u.lo)).shift (-u.wlog2))
    let coef := fun k => u.coefs.getD k (0, 0, 0)
    match d32 v with
    | .nan => nan32
    | .inf s =>
      if s then (if u.below = 0 then (coef 0).1 else if u.below = 1 then 0 else nan32)
      else (if u.above = 0 then evalCoef (coef 255) one32 else if u.above = 1 then 0 else x)
    | .num s m e =>
      let w : Int := if s then -(m : Int) else m
      if w < 0 then (if u.below = 0 then (coef 0).1 else if u.below = 1 then 0 else nan32)
      else if geInt w e 256 then (if u.above = 0 then evalCoef (coef 255) one32 else if u.above = 1 then 0 else x)
      else
        let g := segOf w e
        evalCoef (coef (segIdx g.1)) g.2

/-- A slot of a bank at an input (R417, R421); slots 12 to 15 do not exist and give 0 (R435). -/
def evalSlot (bank : List UserSlot) (slot x : Nat) : Nat :=
  match slot with
  | 0 => slotExp2 x
  | 1 => slotLog2 x
  | 2 => slotRecip x
  | 3 => slotRsqrt x
  | 5 => slotTanh x
  | 9 => evalUser (bank.getD 0 {}) x
  | 10 => evalUser (bank.getD 1 {}) x
  | 11 => evalUser (bank.getD 2 {}) x
  | s => if s < 9 then slotDom s x else 0

/-- The coefficients of a segment of a slot of a bank (R420). -/
def slotCoef (bank : List UserSlot) (slot k : Nat) : Nat × Nat × Nat :=
  if slot < 9 then romCoef slot k else if slot < 12 then (bank.getD (slot - 9) {}).coefs.getD k (0, 0, 0) else (0, 0, 0)

/-! ### Bank images (R427) -/

/-- User slots of a bank image, over the slots the active bank holds (R424): fields of the segment's bytes. -/
def imageSlots (data : List Nat) (old : List UserSlot) : List UserSlot :=
  let hdr := ofBytes (data.take 64)
  let mask := bitsOf hdr 460 12
  let present := [9, 10, 11].filter (fun s => bitsOf mask s 1 == 1)
  [9, 10, 11].map (fun s =>
    match present.idxOf? s with
    | none => old.getD (s - 9) {}
    | some i =>
      let b := data.drop (64 + 4160 * i)
      let h := ofBytes (b.take 64)
      { lo := bitsOf h 480 32
        wlog2 := sgn 8 (bitsOf h 472 8)
        below := bitsOf h 470 2
        above := bitsOf h 468 2
        coefs := (List.range 256).map (fun k =>
          let c := ofBytes ((b.drop (64 + 16 * k)).take 16)
          (bitsOf c 0 32, bitsOf c 32 32, bitsOf c 64 32)) })

end Sys2Proof.Machine
end

