-- ==== Sys2Proof/Machine/MrvCalc.lean ====
section
/-! DEFINITION. The marver's row operations (R397 to R415): row statistics, softmax, elementwise operations and normalisation,
on rows of FP32 codes. -/

set_option Elab.async false

namespace Sys2Proof.Machine

/-! ### Values -/

/-- −2^64, +2^64 and −2^63 (R404, R408). -/
def negBig : Nat := 0xDF800000
def posBig : Nat := 0x5F800000
def floorVal : Nat := 0xDF000000

def isNan32 (x : Nat) : Bool := (d32 x).isNan

/-- The largest and the least, +0 above −0 (R399; as R479 and R480 order the zeros). -/
def maxZ (a b : Nat) : Nat :=
  if isNan32 a || isNan32 b then nan32 else if f32Lt a b then b else if f32Lt b a then a else if a = negZero32 then b else a
def minZ (a b : Nat) : Nat :=
  if isNan32 a || isNan32 b then nan32 else if f32Lt b a then b else if f32Lt a b then a else if b = negZero32 then b else a

/-- A value divided by a count, rounded once. -/
def divN (v : FV) (n : Nat) : Nat :=
  match v with
  | .num s m e => enc32 s m n e
  | x => r32 x

/-! ### Row statistics (R399 to R405) -/

/-- A partial record (R401). -/
structure StatRec where
  n : Nat
  mean : Nat
  m2 : Nat
  sum : Nat
  sq : Nat
  mx : Nat
  mn : Nat
  deriving DecidableEq, Repr

/-- The record of the values of one tile (R400, R403). -/
def statTile (x : List Nat) : StatRec :=
  let n := x.length
  if x.any isNan32 then { n := n, mean := nan32, m2 := nan32, sum := nan32, sq := nan32, mx := nan32, mn := nan32 }
  else
    let v := x.map d32
    let s := sumFV v
    let mean := divN s n
    let nm := (d32 mean).neg
    { n := n
      mean := mean
      m2 := r32 (sumFV (v.map (fun a => let d := a.add nm; d.mul d)))
      sum := r32 s
      sq := r32 (sumFV (v.map (fun a => a.mul a)))
      mx := x.foldl maxZ negInf32
      mn := x.foldl minZ inf32 }

/-- The fold of two records, each operation rounded once (R401). -/
def statFold (a b : StatRec) : StatRec :=
  let n := a.n + b.n
  let d := f32Sub b.mean a.mean
  let w := f32Rat (a.n * b.n : Nat) n
  { n := n
    mean := f32Add a.mean (f32Mul d (f32Rat b.n n))
    m2 := f32Add (f32Add a.m2 b.m2) (f32Mul (f32Mul d d) w)
    sum := f32Add a.sum b.sum
    sq := f32Add a.sq b.sq
    mx := maxZ a.mx b.mx
    mn := minZ a.mn b.mn }

/-- X with infinities of one sign only has that infinity as its mean, however the tiles lie; VAR and RSTD are NaN (R403). -/
def statInf (x : List Nat) (r : StatRec) : StatRec :=
  let p := x.contains inf32
  let n := x.contains negInf32
  if x.any isNan32 || p == n then r else { r with mean := if p then inf32 else negInf32, m2 := nan32 }

/-- The records of several tiles folded in ascending tile order; none for an empty set. -/
def statAll : List (List Nat) → Option StatRec
  | [] => none
  | t :: ts => some (statInf (t ++ ts.flatten) (ts.foldl (fun a x => statFold a (statTile x)) (statTile t)))

/-- M2 or SQ over n, rounded once and clamped to +0 (R402). -/
def clampVar (x n : Nat) : Nat := let v := divN (d32 x) n; if isNan32 v then nan32 else if f32Lt 0 v then v else 0

/-- VAR and RSTD (R402). -/
def StatRec.var (r : StatRec) : Nat := clampVar r.m2 r.n
def rstdOf (var eps : Nat) : Nat := slotRsqrt (f32Add var eps)

/-- The selected statistics in ascending bit order (R399), over the empty set as R404 gives them. -/
def statOut (sel eps : Nat) (r : Option StatRec) : List Nat :=
  let vals := match r with
    | none => [0, 0, 0, slotRsqrt eps, negBig, posBig, 0]
    | some r => [r.sum, r.mean, r.var, rstdOf r.var eps, r.mx, r.mn, f32Int r.n]
  (vals.zipIdx.filter (fun v => bitsOf sel v.2 1 == 1)).map (·.1)

/-- The statistics of a row under AXIS 0 (R399, R401): one tile for every 256 columns. -/
def rowStat (sel eps : Nat) (x : List Nat) : List Nat := statOut sel eps (statAll (chunksOf 256 x.length x))

/-! ### Softmax (R406 to R411) -/

/-- x[n] of a row: scaled, masked and floored, with the number of inputs raised; `nan` says that an unmasked position holds
NaN or +∞ (R406 to R410). -/
structure SmRow where
  x : List Nat
  mask : List Bool
  floored : List Bool
  nan : Bool
  deriving DecidableEq, Repr

def smPrep (pre : Nat) (mask : List Bool) (a : List Nat) : SmRow :=
  let p := if pre % 2 ^ 31 = 0 then one32 else pre
  let x := (a.map (f32Mul p)).zipIdx.map (fun (v, i) => (v, mask.getD i false))
  { x := x.map (fun v => if v.2 then negBig else if f32Lt v.1 floorVal then floorVal else v.1)
    mask := x.map (·.2)
    floored := x.map (fun v => !v.2 && f32Lt v.1 floorVal)
    nan := x.any (fun v => !v.2 && (isNan32 v.1 || v.1 == inf32)) }

/-- exp2((x − m) × LOG2E), each operation rounded once (R406). -/
def smExp (x m : Nat) : Nat := slotExp2 (f32Mul (f32Sub x m) log2e)

/-- Sum of a list formed exactly and rounded once. -/
def tsum (l : List Nat) : Nat := r32 (sumFV (l.map d32))

/-- A row of a separate softmax (R406, R411): the outputs as FP32. -/
def softmaxRow (r : SmRow) : List Nat :=
  if r.nan then r.x.map (fun _ => nan32)
  else
    let mx := r.x.foldl maxZ negBig
    if mx = negBig then r.x.map (fun _ => 0)
    else
      let e := List.zipWith (fun x m => if m then 0 else smExp x mx) r.x r.mask
      let sums := (chunksOf 256 e.length e).map tsum
      let s := match sums with | [] => 0 | t :: ts => ts.foldl f32Add t
      let rc := slotRecip s
      e.map (fun v => f32Mul v rc)

/-- The row was wholly masked (R409). -/
def SmRow.allMasked (r : SmRow) : Bool := !r.x.isEmpty && r.mask.all (· == true)

/-- The counts a softmax row adds, on the column tiles its events lie in (R408 to R410): raised inputs where they are, a masked
or NaN row on tile 0. -/
def SmRow.cnts (r : SmRow) : List NumCnt :=
  ((chunksOf 256 r.floored.length r.floored).map (fun l => ({ floor := (l.filter (· == true)).length } : NumCnt))).zipIdx.map
    (fun (c, j) => if j = 0 then { c with masked := if r.allMasked then 1 else 0, nanRows := if r.nan then 1 else 0 } else c)

/-- Mask of row `r` of `n` positions (R407): bits, rows padded to 64 bytes, or one length per row. -/
def maskRow (mode n r : Nat) (src : NodeOut) : List Bool :=
  match mode with
  | 1 =>
    let d := (outBytes src).drop (r * round64 (cdiv n 8))
    (List.range n).map (fun i => bitsOf (d.getD (i / 8) 0) (i % 8) 1 == 1)
  | 2 =>
    let len := sgn 32 ((words32 src (r + 1)).getD r 0)
    (List.range n).map (fun (i : Nat) => decide (len ≤ (i : Int)))
  | _ => List.replicate n false

/-! ### Elementwise operations (R412, R413) -/

/-- f(g) × u (R413). -/
def gateVal (bank : List UserSlot) (slot g u : Nat) : Nat := f32Mul (evalSlot bank slot g) u

/-- Pairs of a gate in one matrix: halves (layout 1) or neighbours (layout 2). -/
def gatePairs (layout n : Nat) (a b : List Nat) : List (Nat × Nat) :=
  (List.range n).map (fun i =>
    match layout with
    | 0 => (a.getD i 0, b.getD i 0)
    | 1 => (a.getD i 0, a.getD (n + i) 0)
    | _ => (a.getD (2 * i) 0, a.getD (2 * i + 1) 0))

/-- A row of VEC (R412): `a` and `b` are rows of A and B, `v` the column vector. -/
def vecRow (bank : List UserSlot) (vop func layout p0 p1 n : Nat) (a b v : List Nat) : List Nat :=
  match vop with
  | 1 => a.map (evalSlot bank func)
  | 2 => (gatePairs layout n a b).map (fun q => gateVal bank func q.1 q.2)
  | 3 => List.zipWith f32Add a b
  | 4 => List.zipWith f32Mul a b
  | 5 => a.map (fun x => f32Fma x p0 p1)
  | 6 => List.zipWith f32Add a v
  | 7 => List.zipWith f32Mul a v
  | _ => a

/-! ### Normalisation (R414) -/

/-- The formula of R414 for a row with its record: NMODE 0 layer, 1 RMS. -/
def normApply (nmode eps : Nat) (r : Option StatRec) (gamma beta x : List Nat) : List Nat :=
  match r with
  | none => []
  | some r =>
    let rstd := if nmode = 0 then rstdOf r.var eps else rstdOf (clampVar r.sq r.n) eps
    x.zipIdx.map (fun (a, i) =>
      let d := if nmode = 0 then f32Sub a r.mean else a
      f32Fma (f32Mul d rstd) (gamma.getD i one32) (beta.getD i 0))

/-- The statistics of a row of NORM come out NaN (R403). -/
def normNan (nmode eps : Nat) (x : List Nat) : Bool :=
  match statAll (chunksOf 256 x.length x) with
  | none => false
  | some r => if nmode = 0 then isNan32 r.mean || isNan32 (rstdOf r.var eps) else isNan32 (rstdOf (clampVar r.sq r.n) eps)

def normRow (nmode eps : Nat) (gamma beta x : List Nat) : List Nat :=
  normApply nmode eps (statAll (chunksOf 256 x.length x)) gamma beta x

end Sys2Proof.Machine
end

