-- ==== Sys2Proof/Machine/Menu.lean ====
section
/-! DEFINITION. The fusion menu (R437 to R451), the rows of MATMUL (R353 to R356, R373) and of CHAIN (R452 to R455). -/

set_option Elab.async false

namespace Sys2Proof.Machine

/-! ### Words and descriptors of core nodes (R287, R353, R354) -/

def wDesc (w : Nat) : Nat := bitsOf w 80 16
def wA (w : Nat) : Nat := bitsOf w 64 16
def wB (w : Nat) : Nat := bitsOf w 48 16
def wC (w : Nat) : Nat := bitsOf w 32 16
def wSc (w : Nat) : Nat := bitsOf w 16 16
def wMenu (w : Nat) : Nat := bitsOf w 11 5
def wStore (w : Nat) : Bool := bitsOf w 10 1 == 1

def dMUnit (d : Nat) : Nat := bitsOf d 416 32
def dN (d : Nat) : Nat := bitsOf d 392 24
def dK (d : Nat) : Nat := bitsOf d 368 24
def dTmDiv (d : Nat) : Nat := bitsOf d 362 6
def dTm (d : Nat) : Nat := 16 * dTmDiv d
def dMBatch (d : Nat) : Bool := bitsOf d 361 1 == 1
def dOrder (d : Nat) : Nat := bitsOf d 360 1
def dGeoW (d : Nat) : Nat := bitsOf d 336 16
def dGeoS (d : Nat) : Nat := bitsOf d 332 4
def dHalo (d : Nat) : Nat := bitsOf d 320 12
def dAfmt (d : Nat) : Nat := bitsOf d 252 4
def dBfmt (d : Nat) : Nat := bitsOf d 248 4
def dOfmt (d : Nat) : Nat := bitsOf d 244 4
def dAsc (d : Nat) : Bool := bitsOf d 243 1 == 1
def dBsc (d : Nat) : Bool := bitsOf d 242 1 == 1
def dOsc (d : Nat) : Bool := bitsOf d 241 1 == 1
def dAzp (d : Nat) : Bool := bitsOf d 240 1 == 1
def dBtrans (d : Nat) : Bool := bitsOf d 239 1 == 1
def dAmode (d : Nat) : Nat := bitsOf d 237 2
def dZp (d : Nat) : Int := if dAzp d then sgn 16 (bitsOf d 208 16) else 0
def dOutMul (d : Nat) : Nat := bitsOf d 160 32
def dP32 (d : Nat) : Nat := bitsOf d 128 32

/-! ### The menu (R437) -/

def menuBias (m : Nat) : Bool := m == 1 || (decide (3 ≤ m) && decide (m ≤ 11)) || m == 20
def menuRes (m : Nat) : Bool := m == 12 || m == 13
def menuCol (m : Nat) : Bool := m == 14 || m == 15 || m == 16
def menuRelu (m : Nat) : Bool := m == 2 || m == 3 || m == 13 || m == 15 || m == 27
def menuAct (m : Nat) : Option Nat :=
  if 4 ≤ m ∧ m ≤ 11 then some m else if m = 16 ∨ m = 29 then some 7 else if m = 28 then some 6 else none
def menuGate (m : Nat) : Option Nat :=
  if m = 17 then some 4 else if m = 18 then some 6 else if m = 19 ∨ m = 20 ∨ m = 30 then some 7 else none
def menuTwoPass (m : Nat) : Bool := decide (21 ≤ m) && decide (m ≤ 25)
def menuPro (m : Nat) : Bool := decide (26 ≤ m) && decide (m ≤ 30)
/-- The entry has a storage point (R444). -/
def menuStorage (m : Nat) : Bool := (menuAct m).isSome || (menuGate m).isSome || menuTwoPass m || m == 31
/-- The entry names a C_NODE (R437). -/
def menuUsesC (m : Nat) : Bool := menuBias m || menuRes m || menuCol m || (menuTwoPass m && m != 23) || menuPro m
/-- MASK_MODE of a softmax entry. -/
def menuMask (m : Nat) : Nat := if m = 24 then 1 else if m = 25 then 2 else 0

/-- max(v, +0); NaN stays NaN (RELU). -/
def relu32 (x : Nat) : Nat := if isNan32 x then nan32 else if f32Lt 0 x then x else 0

/-- The step OUT_MUL applies (R439): none for 0 and 1.0. -/
def outMulOn (x : Nat) : Bool := decide (x % 2 ^ 31 ≠ 0) && decide (x ≠ one32)
def applyMul (m : Nat) (l : List Nat) : List Nat := if outMulOn m then l.map (fun v => f32Mul v m) else l

/-- What an epilogue reads beside the accumulators: C_NODE's vectors or row, and the mask of the row. -/
structure EpiIn where
  bias : List Nat := []
  res : List Nat := []
  gamma : List Nat := []
  beta : List Nat := []
  mask : List Bool := []
  deriving DecidableEq, Repr

/-- The two passes of a softmax entry over a row (R446, R449, R450). -/
def smxTwoPass (r : SmRow) : List Nat :=
  if r.nan then r.x.map (fun _ => nan32)
  else
    let tiles := chunksOf 256 r.x.length (r.x.zip r.mask)
    let recs := tiles.map (fun t =>
      let m := (t.map (·.1)).foldl maxZ negBig
      let e := t.map (fun v => if v.2 then 0 else smExp v.1 m)
      (m, e, tsum e))
    let fold := fun (a : Nat × Nat) (b : Nat × List Nat × Nat) =>
      let m := maxZ a.1 b.1
      (m, f32Add (f32Mul a.2 (smExp a.1 m)) (f32Mul b.2.2 (smExp b.1 m)))
    match recs with
    | [] => []
    | t :: ts =>
      let f := ts.foldl fold (t.1, t.2.2)
      if f.1 = negBig then r.x.map (fun _ => 0)
      else
        let rc := slotRecip f.2
        recs.flatMap (fun t =>
          let c := smExp t.1 f.1
          t.2.1.map (fun e => f32Mul (f32Mul e c) rc))

/-- The steps of an entry after y, before OUT_MUL, with the counts of a softmax entry (R437, R444 to R450). -/
def epiSteps (bank : List UserSlot) (menu : Nat) (store : Bool) (ofmt p32 : Nat) (x : EpiIn) (y : List Nat) :
    List Nat × List NumCnt :=
  let v0 := if menuBias menu then List.zipWith f32Add y x.bias
    else if menuRes menu then List.zipWith f32Add y x.res
    else if menuCol menu then y.zipIdx.map (fun (a, i) => f32Fma a (x.gamma.getD i 0) (x.beta.getD i 0))
    else y
  let v1 := if store && menuStorage menu then v0.map (storeRound ofmt) else v0
  match menuAct menu, menuGate menu with
  | some s, _ => (v1.map (evalSlot bank s), [])
  | none, some s => ((gatePairs 2 (v1.length / 2) v1 []).map (fun q => gateVal bank s q.1 q.2), [])
  | none, none =>
    if menu = 21 ∨ menu = 22 then
      (normRow (menu - 21) p32 x.gamma x.beta v1, [{ nanRows := if normNan (menu - 21) p32 v1 then 1 else 0 }])
    else if menuTwoPass menu then
      let r := smPrep p32 x.mask v1
      (smxTwoPass r, r.cnts)
    else if menuRelu menu then (v1.map relu32, [])
    else (v1, [])

/-- Add two lists of counts tile by tile. -/
def addCnts (a b : List NumCnt) : List NumCnt :=
  (List.range (max a.length b.length)).map (fun i => (a.getD i {}).add (b.getD i {}))

/-- An output row with what it adds to the counters, first and second pass, its accumulators and their checksums. -/
structure RowOut where
  codes : List Nat
  scales : List Nat := []
  cnts : List NumCnt := []
  cnts2 : List NumCnt := []
  acc : List Accu := []
  /-- ck0 and ck1 of each column tile (R339, R340) -/
  cks : List (Nat × Nat) := []
  deriving DecidableEq, Repr

/-- A row through an epilogue to its output format (R373, R379, R437 to R440). -/
def epiRow (bank : List UserSlot) (menu : Nat) (store isI : Bool) (ofmt : Nat) (osc : Bool) (outMul p32 : Nat) (x : EpiIn)
    (sc : List Nat) (acc : List Accu) : RowOut :=
  let ac := (chunksOf 256 acc.length acc).map accuCnt
  if isI ∧ ofmt = 2 ∧ menu = 0 ∧ outMulOn outMul = false then
    let r := acc.map (fun a => cvt 2 (ofInt a.int))
    { codes := r.map (·.1)
      cnts := addCnts ac ((chunksOf 256 r.length r).map (fun l => NumCnt.sum (l.map (·.2))))
      acc := acc }
  else
    let y := acc.zipIdx.map (fun (a, i) => dequant isI a (sc.getD i one32))
    let e := epiSteps bank menu store ofmt p32 x y
    let w := if (menuGate menu).isSome then 128 else 256
    let o := outRow ofmt osc w (applyMul outMul e.1)
    if menuTwoPass menu then
      { codes := o.1, scales := o.2.1, cnts := addCnts ac (e.2.map (fun c => { c with masked := 0, nanRows := 0 }))
        cnts2 := addCnts o.2.2 (e.2.map (fun c => { c with floor := 0 })), acc := acc }
    else { codes := o.1, scales := o.2.1, cnts := addCnts (addCnts ac e.2) o.2.2, acc := acc }

/-- What the epilogue of a row reads from C_NODE's output (R437). -/
def epiIn (menu m n r : Nat) (c : NodeOut) : EpiIn :=
  if menuBias menu then { bias := padTo n 0 (vec32 c n) }
  else if menuRes menu then { res := padTo n 0 ((rowsF32 c m n).getD r []) }
  else if menuCol menu ∨ menu = 21 ∨ menu = 22 then
    let a := rows32 c 2 n
    { gamma := a.getD 0 [], beta := a.getD 1 [] }
  else if menuTwoPass menu then { mask := maskRow (menuMask menu) n r c }
  else {}

/-! ### MATMUL (R321 to R323, R353, R442, R443) -/

/-- The prologue: each element of a streamed row replaced by its normalised value in AFMT (R443). -/
def proRow (af mean rstd : Nat) (row : List Elem) : List Elem :=
  row.map (fun e => ((cvt af (d32 (f32Fma (f32Mul (f32Sub (toF32 af e) mean) rstd) one32 0))).1, 127))

/-- The rows of A of a MATMUL (R321, R322): M rows of K elements. -/
def matmulRows (d m : Nat) (a : NodeOut) : List (List Elem) :=
  let f := dAfmt d
  let k := dK d
  if dAmode d = 1 then
    let p := 2 ^ dGeoS d
    let c := k / (p * p)
    let per := dMUnit d * p * p
    ((sampleRows a f c per (m * p * p) (dAsc d)).flatMap (patchRows (dGeoW d) p (dMUnit d))).take m
  else ((sampleRows a f k (dMUnit d) m (dAsc d)).flatMap id).take m

/-- The sources of a lane-row node. -/
structure Srcs where
  a : NodeOut := .none
  b : NodeOut := .none
  c : NodeOut := .none
  sc : NodeOut := .none
  deriving DecidableEq, Repr

/-- The scales SC[n] (R373). -/
def scales32 (w n : Nat) (o : NodeOut) : List Nat := if wSc w = 0xFFFF then List.replicate n one32 else padTo n 0 (vec32 o n)

/-- The output rows of a product: streamed rows against the columns, then the epilogue. -/
def productRows (bank : List UserSlot) (w d : Nat) (zp : Int) (x : Srcs) (rows : List (List Elem)) (cols : List (List Elem)) :
    List RowOut :=
  let n := dN d
  let menu := wMenu w
  let sc := scales32 w n x.sc
  let stats := if menuPro menu then rows32 x.c rows.length 2 else []
  rows.zipIdx.map (fun (row, r) =>
    let row' := if menuPro menu then proRow (dAfmt d) ((stats.getD r []).getD 0 0) ((stats.getD r []).getD 1 0) row else row
    { epiRow bank menu (wStore w) (isInt (dAfmt d)) (dOfmt d) (dOsc d) (dOutMul d) (dP32 d) (epiIn menu rows.length n r x.c) sc
        (rowAccu (dAfmt d) (dBfmt d) zp row' cols) with
      cks := (chunksOf 256 cols.length cols).map (ckRow (dAfmt d) (dBfmt d) row') })

/-- MATMUL (R353 to R356). -/
def matmulCalc (bank : List UserSlot) (w d m : Nat) (x : Srcs) : List RowOut :=
  productRows bank w d (dZp d) x (matmulRows d m x.a) (columnsOf x.b (dBfmt d) (dK d) (dN d) (dBsc d) (dBtrans d) 0
    (if dBtrans d then dK d else dN d))

/-! ### CHAIN (R452 to R455) -/

def chQ (d : Nat) : Nat := bitsOf d 252 4
def chK (d : Nat) : Nat := bitsOf d 248 4
def chP (d : Nat) : Nat := bitsOf d 240 4
def chV (d : Nat) : Nat := bitsOf d 236 4
def chS (d : Nat) : Nat := bitsOf d 232 4
def chQsc (d : Nat) : Bool := bitsOf d 231 1 == 1
def chKsc (d : Nat) : Bool := bitsOf d 230 1 == 1
def chVsc (d : Nat) : Bool := bitsOf d 229 1 == 1
def chPsc (d : Nat) : Bool := bitsOf d 228 1 == 1
def chOsc (d : Nat) : Bool := bitsOf d 227 1 == 1
def chMask (d : Nat) : Nat := bitsOf d 225 2
def chCausal (d : Nat) : Bool := bitsOf d 224 1 == 1
def chNkv (d : Nat) : Nat := bitsOf d 200 24

/-- The running state of a row (R455), with what it has counted. -/
structure ChainSt where
  o : List Nat
  m : Nat := negBig
  l : Nat := 0
  nan : Bool := false
  inf : Nat := 0
  floor : Nat := 0
  /-- steps at which the row was rescaled -/
  resc : List Nat := []
  /-- of the last step: P as it was streamed, and the output before the second product was added (R458) -/
  p : List Elem := []
  before : List Nat := []
  deriving DecidableEq, Repr

/-- P in its format, padded to 256 with zeros (R378, R455). -/
def chainP (d : Nat) (e : List Nat) : List Elem :=
  let f := chP d
  let c := if chPsc d then
      let r := cvtRow f (e.map d32)
      elems r.1 r.2.1
    else (cvtAll f (e.map d32)).1.map (fun c => (c, 127))
  padTo 256 (0, 127) c

/-- One step of a row: `s` the de-quantised scores of the block's keys, `mask` its masked keys, `v` the DV columns of the
block's 256 value rows (R455). -/
def chainStep (d : Nat) (store : Bool) (a : ChainSt) (j : Nat) (s : List Nat) (mask : List Bool) (v : List (List Elem)) :
    ChainSt :=
  let r := smPrep (bitsOf d 160 32) mask (if store then s.map (storeRound (chS d)) else s)
  let mnew := r.x.foldl maxZ a.m
  let c := smExp a.m mnew
  let e := List.zipWith (fun x m => if m then 0 else smExp x mnew) r.x r.mask
  let l := f32Add (f32Mul a.l c) (tsum e)
  let re := decide (0 < j) && decide (c ≠ one32)
  let o1 := if re then a.o.map (fun x => f32Mul x c) else a.o
  let q := chainP d e
  let p := q.map (fun q => scaled (chP d) q.1 q.2)
  let g := groupSize (chP d) (chV d)
  let o2 := List.zipWith (fun x col => accFV g x p (col.map (fun y => scaled (chV d) y.1 y.2))) o1 v
  { o := o2.map (·.1), m := mnew, l := l, nan := a.nan || r.nan
    inf := a.inf + (o2.filter (·.2)).length
    floor := a.floor + (r.floored.filter (· == true)).length
    resc := if re && f32Lt a.m mnew then a.resc ++ [j] else a.resc, p := q, before := o1 }

/-- A finished row: its output and the steps at which it was rescaled. -/
structure ChainRow where
  out : RowOut
  resc : List Nat := []
  deriving DecidableEq, Repr

/-- The DV columns of the 256 value rows of step j. -/
def chainVals (vals : List (List Elem)) (j : Nat) : List (List Elem) :=
  vals.map (fun c => padTo 256 (0, 127) ((c.drop (256 * j)).take 256))

/-- The running state of a row after `n` steps: `s` its scores against every key (R455). -/
def chainFold (w d q : Nat) (mask : List Bool) (s : List Accu) (vals : List (List Elem)) (n : Nat) : ChainSt :=
  let mk := mask.zipIdx.map (fun (b, n) => b || (chCausal d && decide ((q : Int) + chNkv d - dMUnit d < n)))
  (List.range n).foldl (fun a j =>
    chainStep d (wStore w) a j (((s.drop (256 * j)).take 256).map (·.raw)) ((mk.drop (256 * j)).take 256) (chainVals vals j))
    ({ o := List.replicate (dN d) 0 } : ChainSt)

/-- One query row over all its keys (R455): `keys` and `vals` are the sample's key columns and value columns. -/
def chainRow (w d q : Nat) (mask : List Bool) (row : List Elem) (keys vals : List (List Elem)) : ChainRow :=
  let nkv := chNkv d
  let s := rowAccu (chQ d) (chK d) 0 row keys
  let st := chainFold w d q mask s vals (cdiv nkv 256)
  let y := if nkv = 0 then List.replicate (dN d) 0
    else if st.nan then st.o.map (fun _ => nan32)
    else if st.m = negBig then st.o.map (fun _ => 0)
    else let rc := slotRecip st.l; st.o.map (fun x => f32Mul x rc)
  let o := outRow (dOfmt d) (chOsc d) 256 (applyMul (dP32 d) y)
  let own : NumCnt := { accInf := st.inf + (s.filter (·.inf)).length, floor := st.floor
                        masked := if nkv ≠ 0 ∧ st.nan = false ∧ st.m = negBig then 1 else 0
                        nanRows := if st.nan then 1 else 0 }
  { out := { codes := o.1, scales := o.2.1, cnts := addCnts [own] o.2.2 }, resc := st.resc }

/-- What row r of a CHAIN reads: its query, its mask, and the key and value columns of its sample (R452). -/
structure ChainIn where
  query : List Elem
  mask : List Bool
  keys : List (List Elem)
  vals : List (List Elem)
  deriving DecidableEq, Repr

/-- The rows of a CHAIN: `x.a` is Q, `x.b` K, `x.c` V, `x.sc` the mask (R452 to R454). -/
def chainRows (d m : Nat) (x : Srcs) : List ChainIn :=
  let nkv := chNkv d
  let per := max 1 (dMUnit d)
  let tot := nkv * (if dMBatch d then cdiv m per else 1)
  let rows := ((sampleRows x.a (chQ d) (dK d) (dMUnit d) m (chQsc d)).flatMap id).take m
  rows.zipIdx.map (fun (row, r) =>
    let b := if dMBatch d then r / per else 0
    { query := row, mask := maskRow (chMask d) nkv r x.sc
      keys := columnsOf x.b (chK d) (dK d) nkv (chKsc d) false (b * nkv) tot
      vals := columnsOf x.c (chV d) nkv (dN d) (chVsc d) true (b * nkv) tot })

/-- CHAIN (R455). -/
def chainCalc (w d m : Nat) (x : Srcs) : List ChainRow :=
  (chainRows d m x).zipIdx.map (fun (c, r) => chainRow w d (r % max 1 (dMUnit d)) c.mask c.query c.keys c.vals)

/-- What the comparisons of step j of row r read (R342, R458): the scores of the step's keys with their checksums, and the output before
and after the second product with the checksums of its increment. -/
structure StepCheck where
  score : List Accu
  scoreCk : Nat × Nat
  before : List Nat
  after : List Nat
  incCk : Nat × Nat
  deriving DecidableEq, Repr

/-- The running state of row r after `n` steps (R455). -/
def chainAfter (w d m : Nat) (x : Srcs) (r n : Nat) : Option ChainSt :=
  ((chainRows d m x)[r]?).map (fun c =>
    chainFold w d (r % max 1 (dMUnit d)) c.mask (rowAccu (chQ d) (chK d) 0 c.query c.keys) c.vals n)

def stepCheck (w d m : Nat) (x : Srcs) (r j : Nat) : Option StepCheck :=
  match (chainRows d m x)[r]?, chainAfter w d m x r (j + 1) with
  | some c, some st =>
    let keys := (c.keys.drop (256 * j)).take 256
    some { score := rowAccu (chQ d) (chK d) 0 c.query keys, scoreCk := ckRow (chQ d) (chK d) c.query keys
           before := st.before, after := st.o, incCk := ckRow (chP d) (chV d) st.p (chainVals c.vals j) }
  | _, _ => none

end Sys2Proof.Machine
end

