-- ==== Sys2Proof/Machine/ShpCalc.lean ====
section
/-! DEFINITION. The values of a shaped sample (R241 to R252, R261, R270): window, content rectangle, resampling, colour and
stored codes. -/

set_option Elab.async false

namespace Sys2Proof.Machine

/-! ### Rationals and FP32 -/

/-- A finite value as a rational. -/
def FV.toRat : FV → Rat
  | .num s m e =>
    let x : Rat := if 0 ≤ e then ((m * 2 ^ e.toNat : Nat) : Rat) else mkRat m (2 ^ (-e).toNat)
    if s then -x else x
  | _ => 0

/-- A rational rounded once to FP32. -/
def r32Q (q : Rat) : Nat := f32Rat q.num q.den

/-- An FP32 code as a rational. -/
def q32 (c : Nat) : Rat := (d32 c).toRat

/-! ### The descriptor of R270 -/

def shTW (d : Nat) : Nat := bitsOf d 240 16
def shTH (d : Nat) : Nat := bitsOf d 224 16
def shAngle (d : Nat) : Nat := bitsOf d 144 16
def shFilter (d : Nat) : Nat := bitsOf d 118 2
def shFit (d : Nat) : Nat := bitsOf d 116 2
def shPad (d : Nat) : Nat := bitsOf d 114 2
def shRange (d : Nat) : Nat := bitsOf d 112 2
def shMatrix (d : Nat) : Nat := bitsOf d 110 2
def shSpace (d : Nat) : Nat := bitsOf d 108 2
def shOfmt (d : Nat) : Nat := bitsOf d 106 2
def shLayout (d : Nat) : Nat := bitsOf d 104 2
def shSite (d : Nat) : Nat := bitsOf d 102 2
def shMean (d c : Nat) : Nat := bitsOf d (368 + 16 * c) 16
def shIstd (d c : Nat) : Nat := bitsOf d (320 + 16 * c) 16
def shPadVal (d c : Nat) : Nat := bitsOf d (272 + 16 * c) 16
def shFill (d c : Nat) : Nat := bitsOf d (48 + 16 * c) 16
def shScale (d : Nat) : Nat := bitsOf d 416 32
def shWait (d : Nat) : Nat := bitsOf d 256 16
def shMaxBoxes (d : Nat) : Nat := bitsOf d 132 12
def shExpand (d : Nat) : Nat := bitsOf d 120 8

/-- The element format that OFMT names (R249). -/
def shFmt (d : Nat) : Nat :=
  match shOfmt d with | 0 => 1 | 1 => 5 | 2 => 7 | _ => 8

/-- Channels computed, and channels stored (R248, R250). -/
def shChans (d : Nat) : Nat := if shSpace d = 2 then 1 else 3
def shStored (d : Nat) : Nat := if shLayout d = 2 then 16 else shChans d

/-- Bytes of one sample (R250). -/
def shBytes (d : Nat) : Nat := cdiv (shTW d * shTH d * shStored d * (fmtBits (shFmt d) / 8)) 64 * 64

/-- A quarter-turn angle. -/
def quarter (a : Nat) : Bool := a % 16384 == 0

/-! ### Geometry -/

/-- The window of R241: centre, extents and turn. -/
structure Window where
  cx : Rat
  cy : Rat
  w : Rat
  h : Rat
  deriving DecidableEq, Repr

/-- The window of a SHAPE descriptor over a picture of the given size (R241). -/
def shapeWindow (d pw ph : Nat) : Window :=
  let q := fun lo => mkRat (bitsOf d lo 16) 4
  if bitsOf d 176 16 = 0 then
    let swap := shAngle d = 16384 ∨ shAngle d = 49152
    { cx := mkRat pw 2, cy := mkRat ph 2, w := if swap then (ph : Rat) else pw, h := if swap then (pw : Rat) else ph }
  else { cx := q 208, cy := q 192, w := q 176, h := q 160 }

/-- The window of a box (R251): coordinates in quarter samples, EXPAND in sixteenths, 0 acting as 1.0. -/
def boxWindow (d : Nat) (b : Box) : Window :=
  let ex := if shExpand d = 0 then 16 else shExpand d
  { cx := mkRat (b.x0 + b.x1) 8, cy := mkRat (b.y0 + b.y1) 8
    w := mkRat (((b.x1 : Int) - b.x0) * ex) 64, h := mkRat (((b.y1 : Int) - b.y0) * ex) 64 }

/-- The content rectangle of R242: PX, PY, CW, CH. -/
def content (d : Nat) (v : Window) : Nat × Nat × Nat × Nat :=
  let tw := shTW d
  let th := shTH d
  if shFit d = 0 ∨ v.w = 0 ∨ v.h = 0 then (0, 0, tw, th)
  else
    let a := (tw : Rat) / v.w
    let b := (th : Rat) / v.h
    let s := if a < b then a else b
    let half := fun (x : Rat) => max 1 ((x + mkRat 1 2).floor).toNat
    let cw := half (v.w * s)
    let ch := half (v.h * s)
    if shFit d = 1 then ((tw - cw) / 2, (th - ch) / 2, cw, ch) else (0, 0, cw, ch)

/-- The affine map of R261, from M00 down, each entry rounded once to FP32. -/
def affine (d : Nat) (v : Window) : List Nat :=
  let (px, py, cw, ch) := content d v
  let c := q32 (cosTurn (shAngle d))
  let s := q32 (sinTurn (shAngle d))
  let ax := v.w / cw
  let ay := v.h / ch
  let ux := (px : Rat) / cw + mkRat 1 2
  let uy := (py : Rat) / ch + mkRat 1 2
  [c * ax, -(s * ay), v.cx - c * v.w * ux + s * v.h * uy, s * ax, c * ay, v.cy - s * v.w * ux - c * v.h * uy].map r32Q

/-- The source position of an output pixel, in FP32 (R243). -/
def srcPos (d : Nat) (v : Window) (r : Nat × Nat × Nat × Nat) (x y : Nat) : Nat × Nat :=
  let half := f32Rat 1 2
  let c := cosTurn (shAngle d)
  let s := sinTurn (shAngle d)
  let w := r32Q v.w
  let h := r32Q v.h
  let pos := fun (i p n : Nat) => f32Sub (f32Div (f32Sub (f32Add (f32Int i) half) (f32Int p)) (f32Int n)) half
  let u := pos x r.1 r.2.2.1
  let t := pos y r.2.1 r.2.2.2
  (f32Sub (f32Add (r32Q v.cx) (f32Mul (f32Mul c u) w)) (f32Mul (f32Mul s t) h),
   f32Add (f32Add (r32Q v.cy) (f32Mul (f32Mul s u) w)) (f32Mul (f32Mul c t) h))

/-! ### Resampling -/

/-- The index PAD gives for position `i` of a plane of `n` samples (R245); none takes the constant. -/
def padIdx (pad n : Nat) (i : Int) : Option Nat :=
  if 0 ≤ i ∧ i < n then some i.toNat
  else if pad = 2 then
    if n = 1 then some 0
    else
      let p := 2 * (n - 1)
      let j := (i % (p : Int)).toNat
      some (if n ≤ j then p - j else j)
  else if pad = 3 then some (clampInt 0 ((n : Int) - 1) i).toNat
  else none

/-- The cubic convolution kernel with a = −0.5 (R244). -/
def cubic (x : Rat) : Rat :=
  let t := if x < 0 then -x else x
  if t ≤ 1 then mkRat 3 2 * t * t * t - mkRat 5 2 * t * t + 1
  else if t < 2 then mkRat (-1) 2 * t * t * t + mkRat 5 2 * t * t - 4 * t + 2
  else 0

/-- Taps along one axis at position `p` with footprint `fp`: (index, weight), zero weights left out (R244). -/
def taps (filter : Nat) (p fp : Rat) : List (Int × Rat) :=
  let lin :=
    let t := p - mkRat 1 2
    let i := t.floor
    let f := t - i
    [(i, 1 - f), (i + 1, f)]
  let l :=
    if filter = 0 then [(p.floor, (1 : Rat))]
    else if filter = 1 ∨ (filter = 3 ∧ fp ≤ 1) then lin
    else if filter = 2 then
      let t := p - mkRat 1 2
      let i := t.floor
      let f := t - i
      [(i - 1, cubic (f + 1)), (i, cubic f), (i + 1, cubic (1 - f)), (i + 2, cubic (2 - f))]
    else
      let lo := p - fp / 2
      let hi := p + fp / 2
      let a := lo.floor
      (List.range (hi.ceil - a).toNat).map (fun (k : Nat) =>
        let i : Int := a + (k : Int)
        let x := if (i : Rat) < lo then lo else (i : Rat)
        let y := if ((i + 1 : Int) : Rat) < hi then ((i + 1 : Int) : Rat) else hi
        (i, (y - x) / fp))
  l.filter (fun t => t.2 != 0)

/-- The weighted sum of a plane's samples at a position; none when an out-of-picture tap takes the constant (R245). -/
def samplePlane (filter pad : Nat) (plane : List Nat) (w h : Nat) (px py fx fy : Rat) : Option Rat :=
  let xs := (taps filter px fx).map (fun t => ((padIdx pad w t.1), t.2))
  let ys := (taps filter py fy).map (fun t => ((padIdx pad h t.1), t.2))
  if xs.any (fun t => t.1.isNone) || ys.any (fun t => t.1.isNone) then none
  else some (ys.foldl (fun a y => a + y.2 * (xs.foldl (fun b x =>
    b + x.2 * ((plane.getD (y.1.getD 0 * w + x.1.getD 0) 0 : Nat) : Rat)) 0)) 0)

/-- Chroma size of a picture along an axis: halved where the format subsamples. -/
def chromaDim (n : Nat) (sub : Bool) : Nat := if sub then cdiv n 2 else n

/-- Chroma sample location type (R247): the offset in luma samples of chroma sample 0 from luma sample 0, doubled. -/
def siteOff (site : Nat) : Nat × Nat :=
  match site with | 0 => (0, 1) | 1 => (1, 1) | 3 => (1, 0) | 4 => (0, 2) | 5 => (1, 2) | _ => (0, 0)

/-- A luma position in a chroma plane's own coordinates. -/
def chromaPos (p : Rat) (sub : Bool) (off2 : Nat) : Rat :=
  if sub then (p - mkRat 1 2 - mkRat off2 2) / 2 + mkRat 1 2 else p

/-! ### Values -/

/-- Normalised Y′ and C′ in FP32 (R247). -/
def normY (full : Bool) (depth y : Nat) : Nat :=
  if full then f32Div y (f32Int (2 ^ depth - 1))
  else f32Div (f32Sub (f32Div y (f32Int (2 ^ (depth - 8)))) (f32Int 16)) (f32Int 219)
def normC (full : Bool) (depth c : Nat) : Nat :=
  if full then f32Div (f32Sub c (f32Int (2 ^ (depth - 1)))) (f32Int (2 ^ depth - 1))
  else f32Div (f32Sub (f32Div c (f32Int (2 ^ (depth - 8)))) (f32Int 128)) (f32Int 224)

/-- Kr and Kb of R248. -/
def kRB (m : Nat) (signalled : Option (Rat × Rat)) : Rat × Rat :=
  let bt709 := (mkRat 2126 10000, mkRat 722 10000)
  match m with
  | 0 => signalled.getD bt709
  | 1 => (mkRat 299 1000, mkRat 114 1000)
  | 3 => (mkRat 2627 10000, mkRat 593 10000)
  | _ => bt709

/-- Clamp to [0, 1]. -/
def clamp01 (q : Rat) : Rat := if q < 0 then 0 else if 1 < q then 1 else q

/-- The channels of R248 from Y′, Cb′ and Cr′, as FP32 codes. -/
def channels (d : Nat) (pic : Picture) (y cb cr : Nat) : List Nat :=
  let (kr, kb) := kRB (shMatrix d) pic.colour
  let kg := 1 - kr - kb
  let (qy, qb, qr) := (q32 y, q32 cb, q32 cr)
  let r := r32Q (clamp01 (qy + 2 * (1 - kr) * qr))
  let b := r32Q (clamp01 (qy + 2 * (1 - kb) * qb))
  let g := r32Q (clamp01 (qy - 2 * kr * (1 - kr) / kg * qr - 2 * kb * (1 - kb) / kg * qb))
  match shSpace d with
  | 0 => [r, g, b]
  | 1 => [b, g, r]
  | 2 => [y]
  | _ => [y, f32Add cb (f32Rat 1 2), f32Add cr (f32Rat 1 2)]

/-- The stored code of a channel (R249). -/
def storeVal (d c v : Nat) : Nat × NumCnt :=
  let n := f32Mul (f32Sub v (r32 (decF 7 (shMean d c)))) (r32 (decF 7 (shIstd d c)))
  cvt (shFmt d) (d32 (f32Div n (shScale d)))

/-- The stored code of an FP16 constant of the tensor's value space (R246, R264). -/
def storeConst (d v : Nat) : Nat × NumCnt := cvt (shFmt d) (decF 7 v)

/-- The letterbox value of a channel (R246). -/
def bandVal (d c : Nat) : Nat × NumCnt := if shPad d = 1 then storeConst d (shPadVal d c) else (0, {})

/-- The channels of one output pixel (R243 to R249). -/
def pixel (d : Nat) (pic : Picture) (v : Window) (r : Nat × Nat × Nat × Nat) (x y : Nat) : List (Nat × NumCnt) :=
  let chans := List.range (shChans d)
  let inside := decide (r.1 ≤ x ∧ x < r.1 + r.2.2.1 ∧ r.2.1 ≤ y ∧ y < r.2.1 + r.2.2.2)
  if !inside then chans.map (bandVal d)
  else
    let p := srcPos d v r x y
    let sx := q32 p.1
    let sy := q32 p.2
    let turned := shAngle d = 16384 ∨ shAngle d = 49152
    let fw := v.w / r.2.2.1
    let fh := v.h / r.2.2.2
    let fx := if turned then fh else fw
    let fy := if turned then fw else fh
    let subX := pic.chroma == 1 || pic.chroma == 2
    let subY := pic.chroma == 1
    let off := siteOff (if shSite d = 0 then pic.site else shSite d - 1)
    let f := shFilter d
    let pad := shPad d
    let full := if shRange d = 0 then pic.fullRange else shRange d == 2
    let luma := samplePlane f pad pic.y pic.w pic.h sx sy fx fy
    let cw := chromaDim pic.w subX
    let ch := chromaDim pic.h subY
    let half := fun (q : Rat) (b : Bool) => if b then q / 2 else q
    let chr := fun (pl : List Nat) =>
      if pic.chroma = 0 then some (0, true)
      else (samplePlane f pad pl cw ch (chromaPos sx subX off.1) (chromaPos sy subY off.2) (half fx subX) (half fy subY)).map
        (fun q => (q, false))
    let norm := fun (q : Rat × Bool) => if q.2 then 0 else normC full pic.depth (r32Q q.1)
    match luma, chr pic.cb, chr pic.cr with
    | some a, some b, some c =>
      (channels d pic (normY full pic.depth (r32Q a)) (norm b) (norm c)).zipIdx.map (fun (v, i) => storeVal d i v)
    | _, _, _ => chans.map (bandVal d)

/-- Codes in the layout of R250 from the pixels' channels in row-major order. -/
def layOut (d : Nat) (px : List (List Nat)) : List Nat :=
  match shLayout d with
  | 1 => (List.range (shChans d)).flatMap (fun c => px.map (fun p => p.getD c 0))
  | 2 => px.flatMap (fun p => p ++ List.replicate (16 - p.length) 0)
  | _ => px.flatMap id

/-- Pixels of the output rows `lo` to `hi` - 1 of a shaped sample, in row-major order (R243 to R249). -/
def shapeRows (d : Nat) (pic : Picture) (v : Window) (lo hi : Nat) : List (List (Nat × NumCnt)) :=
  let r := content d v
  (List.range (hi - lo)).flatMap (fun y => (List.range (shTW d)).map (fun x => pixel d pic v r x (lo + y)))

/-- The luma and the chroma rows that output row `y` of an upright sample reads (R244, R245); none in the letterbox band. -/
def rowTaps (d : Nat) (pic : Picture) (v : Window) (y : Nat) : List Nat × List Nat :=
  let r := content d v
  if y < r.2.1 ∨ r.2.1 + r.2.2.2 ≤ y then ([], [])
  else
    let sy := q32 (srcPos d v r r.1 y).2
    let fy := v.h / r.2.2.2
    let subY := pic.chroma == 1
    let off := siteOff (if shSite d = 0 then pic.site else shSite d - 1)
    let rows := fun (n : Nat) (p fp : Rat) => (taps (shFilter d) p fp).filterMap (fun t => padIdx (shPad d) n t.1)
    (rows pic.h sy fy, if pic.chroma = 0 then [] else
      rows (chromaDim pic.h subY) (chromaPos sy subY off.2) (if subY then fy / 2 else fy))

/-- Every source row of output row `y` is among the first `n` luma rows (R237). -/
def rowFits (d : Nat) (pic : Picture) (v : Window) (n y : Nat) : Bool :=
  let t := rowTaps d pic v y
  t.1.all (fun i => decide (i < n)) && t.2.all (fun i => decide (i < chromaDim n (pic.chroma == 1)))

/-- Output rows that can be written once `n` luma rows are handed over, `k` of them being written already (R237). -/
def rowsFit (d : Nat) (pic : Picture) (v : Window) (n k : Nat) : Nat :=
  k + (((List.range (shTH d)).drop k).takeWhile (rowFits d pic v n)).length

/-- Luma rows that the output rows from `k` on still need, among the first `n` (R237). -/
def srcRowsHeld (d : Nat) (pic : Picture) (v : Window) (n k : Nat) : Nat :=
  let low := ((List.range (shTH d)).drop k).foldl (fun m y =>
    let t := rowTaps d pic v y
    (t.1 ++ t.2.map (fun i => if pic.chroma = 1 then 2 * i else i)).foldl min m) n
  n - low

/-- All pixels of a sample, in row-major order. -/
def allPixels (d : Nat) (f : Nat → Nat → List (Nat × NumCnt)) : List (List (Nat × NumCnt)) :=
  (List.range (shTH d)).flatMap (fun y => (List.range (shTW d)).map (fun x => f x y))

/-- A sample's codes with the counts of its conversions. -/
def packSample (d : Nat) (px : List (List (Nat × NumCnt))) : List Nat × NumCnt :=
  (layOut d (px.map (fun p => p.map (·.1))), px.foldl (fun a p => p.foldl (fun a x => a.add x.2) a) {})

/-- A shaped sample (R243 to R250). -/
def shapeSample (d : Nat) (pic : Picture) (v : Window) : List Nat × NumCnt := packSample d (shapeRows d pic v 0 (shTH d))

/-! ### Headers and records in memory (R260, R261) -/

/-- The 512 bits of a sample record (R261). -/
def SampleRec.bits (r : SampleRec) : Nat :=
  packBits ([(464, 48, r.ct.sec), (434, 30, r.ct.ns), (432, 2, r.ct.sub), (368, 64, r.pts), (336, 32, r.frame), (320, 16, r.objIndex),
    (288, 32, r.trackId)] ++ r.m.zipIdx.map (fun q => (224 - 32 * q.2, 32, q.1)) ++
    [(52, 12, r.sflags), (41, 7, r.stream), (38, 3, r.dev), (36, 2, r.svc), (16, 16, r.slot)])

/-- The 512 bits of a batch header (R260). -/
def Batch.headBits (b : Batch) : Nat :=
  packBits [(480, 32, b.seq), (464, 16, b.key.node), (456, 8, b.shp), (448, 8, b.n), (440, 8, b.samples.length), (438, 2, b.svc),
    (436, 2, b.closed.getD 0)]

/-- The bytes of a sample's tensor (R250): its codes of `w` bytes each, filled up to `n` bytes. -/
def Sample.tensorBytes (x : Sample) (w n : Nat) : List Nat :=
  let l := x.data.flatMap (fun c => bytesOf w c)
  l ++ List.replicate (n - l.length) 0

/-- The bytes of a batch in its destination (R260): the header, the records in slot order, the tensors. -/
def Batch.laidOut (b : Batch) (w n : Nat) : List Nat :=
  bytesOf 64 b.headBits ++ b.samples.flatMap (fun x => bytesOf 64 x.rcd.bits) ++ b.samples.flatMap (fun x => x.tensorBytes w n)

/-- A sample of one value per channel: the degenerate box's band values (R252), or a fill sample (R264). -/
def flatSample (d : Nat) (f : Nat → Nat × NumCnt) : List Nat × NumCnt :=
  let row := (List.range (shChans d)).map f
  let codes := allPixels d (fun _ _ => row.map (fun x => (x.1, ({} : NumCnt))))
  (layOut d (codes.map (fun p => p.map (·.1))), {})
def bandSample (d : Nat) : List Nat × NumCnt := flatSample d (bandVal d)
def fillSample (d : Nat) : List Nat × NumCnt := flatSample d (fun c => storeConst d (shFill d c))

end Sys2Proof.Machine
end

