-- ==== Sys2Proof/Machine/ConvCalc.lean ====
section
/-! DEFINITION. Convolution, pooling, argmax over channels and crop-and-resize of feature maps (chapter 12), row by row. -/

set_option Elab.async false

namespace Sys2Proof.Machine

/-! ### Descriptor (R466) -/

def cvPadMode (d : Nat) : Nat := bitsOf d 238 2
def cvKw (d : Nat) : Nat := bitsOf d 232 6
def cvKh (d : Nat) : Nat := bitsOf d 226 6
def cvSx (d : Nat) : Nat := bitsOf d 223 3 + 1
def cvSy (d : Nat) : Nat := bitsOf d 220 3 + 1
def cvDx (d : Nat) : Nat := bitsOf d 217 3 + 1
def cvDy (d : Nat) : Nat := bitsOf d 214 3 + 1
def cvPadL (d : Nat) : Nat := bitsOf d 209 5
def cvPadR (d : Nat) : Nat := bitsOf d 204 5
def cvPadT (d : Nat) : Nat := bitsOf d 199 5
def cvPadB (d : Nat) : Nat := bitsOf d 194 5
def cvX1 (d : Nat) : Nat := bitsOf d 193 1
def cvX0 (d : Nat) : Nat := bitsOf d 192 1
def cvPmode (d : Nat) : Nat := bitsOf d 192 2
def cvIw (d : Nat) : Nat := bitsOf d 112 16
def cvIh (d : Nat) : Nat := bitsOf d 96 16
def cvCin (d : Nat) : Nat := bitsOf d 80 16
def cvCoff (d : Nat) : Nat := bitsOf d 64 16
def cvZp (d : Nat) : Int := if dAzp d then sgn 16 (bitsOf d 48 16) else 0
def cvMaxBoxes (d : Nat) : Nat := bitsOf d 36 12
def cvSr (d : Nat) : Nat := bitsOf d 34 2 + 1
def cvFs (d : Nat) : Nat := bitsOf d 223 3

/-- CIN padded to its group (R470), and Q of a packed filter row (R472). -/
def cvCinP (d : Nat) : Nat := padRow (dAfmt d) (cvCin d)
def cvQ (d : Nat) : Nat := cdiv (cvKw d * cvCin d) 16 * 16

/-- Output size along an axis (R468). -/
def outDim (i pa pb dil k st : Nat) : Nat :=
  let span := dil * (k - 1) + 1
  if span ≤ i + pa + pb then (i + pa + pb - span) / st + 1 else 0
def cvOw (d : Nat) : Nat := outDim (cvIw d) (cvPadL d) (cvPadR d) (cvDx d) (cvKw d) (cvSx d)
def cvOh (d : Nat) : Nat := outDim (cvIh d) (cvPadT d) (cvPadB d) (cvDy d) (cvKh d) (cvSy d)

/-! ### Input -/

/-- Pixel rows of the samples of a spatial tensor, each of at least `need` channels (R467): Cs of a batch's sample is its codes
over its pixels. -/
def spatialRows (o : NodeOut) (f iw ih need rows : Nat) (sc : Bool) : List (List (List Elem)) :=
  match o with
  | .batch _ _ l => l.map (fun x =>
      let c := max 1 (x.data.length / (iw * ih))
      (chunksOf c x.data.length x.data).map (fun r => elems (padTo need 0 r) []))
  | _ => sampleRows o f need (iw * ih) rows sc

/-- What a tap outside the input reads (R469): the zero point, or stored 0. -/
def padElem (d : Nat) : Elem := if dAzp d then (bitsOf d 48 16, 256) else (0, 127)

/-- The input pixel of a tap, none when it takes the constant (R468, R469). -/
def tapPixel (d : Nat) (ox oy tx ty : Nat) : Option (Nat × Nat) :=
  let pad := if cvPadMode d = 1 then 3 else if cvPadMode d = 2 then 2 else 0
  let x : Int := ((ox * cvSx d + tx * cvDx d : Nat) : Int) - cvPadL d
  let y : Int := ((oy * cvSy d + ty * cvDy d : Nat) : Int) - cvPadT d
  match padIdx pad (cvIw d) x, padIdx pad (cvIh d) y with
  | some a, some b => some (a, b)
  | _, _ => none

/-- The taps of an output pixel in ascending ty, then tx: the pixel's row, none outside. -/
def tapRows (d : Nat) (pix : List (List Elem)) (ox oy : Nat) : List (List (Option (List Elem))) :=
  (List.range (cvKh d)).map (fun ty => (List.range (cvKw d)).map (fun tx =>
    (tapPixel d ox oy tx ty).map (fun p => pix.getD (p.2 * cvIw d + p.1) [])))

/-- Every output pixel of a sample in row-major order. -/
def outPixels (d : Nat) : List (Nat × Nat) :=
  (List.range (cvOh d)).flatMap (fun y => (List.range (cvOw d)).map (fun x => (x, y)))

/-! ### CONV (R470 to R473) -/

/-- The streamed row of an output pixel. -/
def convRow (d : Nat) (pix : List (List Elem)) (ox oy : Nat) : List Elem :=
  let cin := cvCin d
  let tap := fun (t : Option (List Elem)) =>
    match t with
    | some p => padTo cin (0, 127) ((p.drop (cvCoff d)).take cin)
    | none => List.replicate cin (padElem d)
  (tapRows d pix ox oy).flatMap (fun r =>
    if cvX0 d = 1 then padTo (cvQ d) (0, 127) (r.flatMap tap)
    else r.flatMap (fun t => padTo (cvCinP d) (0, 127) (tap t)))

/-- CONV (R470): a product whose streamed rows are the output pixels of each sample. -/
def convCalc (bank : List UserSlot) (w d m : Nat) (x : Srcs) : List RowOut :=
  let per := cvIw d * cvIh d
  let samples := if dMUnit d = 0 then 0 else m / dMUnit d
  let src := spatialRows x.a (dAfmt d) (cvIw d) (cvIh d) (cvCoff d + cvCin d) (samples * per) (dAsc d)
  let rows := (src.flatMap (fun pix => (outPixels d).map (fun p => convRow d pix p.1 p.2))).take m
  productRows bank w d (cvZp d) x rows (columnsOf x.b (dBfmt d) (dK d) (dN d) (dBsc d) false 0 (dN d))

/-! ### CONV_DW and CONV_FFT (R475 to R478) -/

/-- The taps of every channel of an output pixel: per channel, its elements in tap order. -/
def dwTaps (d n : Nat) (pix : List (List Elem)) (ox oy : Nat) : List (List Elem) :=
  let t := (tapRows d pix ox oy).flatMap id
  (List.range n).map (fun c => t.map (fun q => match q with | some p => p.getD c (0, 127) | none => padElem d))

/-- The accumulators of a pixel of CONV_DW: each tap is one step (R475). -/
def dwAccu (d : Nat) (zp : Int) (taps cols : List (List Elem)) : List Accu :=
  let f := dAfmt d
  List.zipWith (fun t c =>
    if isInt f then
      let b := c.map (elemInt f)
      let r := accInt 1 (t.map (elemInt f)) b
      { raw := unsgn 32 r.1, int := r.1 - zp * b.foldl (· + ·) 0, sat := r.2 }
    else
      let r := accFV 1 0 (t.map (fun e => scaled f e.1 e.2)) (c.map (fun e => scaled f e.1 e.2))
      { raw := r.1, inf := r.2 }) taps cols

/-- The samples' pixel rows and the columns of weights of a depthwise node. -/
def dwInput (d m : Nat) (x : Srcs) : List (List (List Elem)) × List (List Elem) :=
  let samples := if dMUnit d = 0 then 0 else m / dMUnit d
  let k := cvKh d * cvKw d
  (spatialRows x.a (dAfmt d) (cvIw d) (cvIh d) (dN d) (samples * (cvIw d * cvIh d)) false,
   columnsOf x.b (dAfmt d) k (dN d) false true 0 k)

/-- CONV_DW (R475). -/
def convDwCalc (bank : List UserSlot) (w d m : Nat) (x : Srcs) : List RowOut :=
  let n := dN d
  let i := dwInput d m x
  let sc := scales32 w n x.sc
  ((i.1.flatMap (fun pix => (outPixels d).map (fun p => dwTaps d n pix p.1 p.2))).take m).zipIdx.map (fun (t, r) =>
    epiRow bank (wMenu w) (wStore w) (isInt (dAfmt d)) (dOfmt d) false (dOutMul d) (dP32 d) (epiIn (wMenu w) m n r x.c) sc
      (dwAccu d (cvZp d) t i.2))

/-- F of CONV_FFT, and the side T of its spatial tiles (R476). -/
def fftF (d : Nat) : Nat := if cvX0 d = 1 then 128 else 64
def fftT (d : Nat) : Nat := fftF d - max (cvKw d) (cvKh d) + 1

/-- The bound of R478 on an output: (6 log2 F + 4) × 2^−24 × Σ |x| × |w|. -/
def fftBound (d : Nat) (p : List FV) : FV :=
  let abs := fun (v : FV) => match v with | .num _ m e => FV.num false m e | .inf _ => .inf false | .nan => .nan
  ((sumFV (p.map abs)).mul (ofInt (if cvX0 d = 1 then 46 else 40))).shift (-24)

/-- An output of CONV_FFT: the value the device forms where it lies within the bound, else the correctly rounded one
(R478). -/
def fftValue (d : Nat) (cand : Nat → Nat) (t c : List Elem) : Nat :=
  let f := dAfmt d
  let p := List.zipWith FV.mul (t.map (fun e => scaled f e.1 e.2)) (c.map (fun e => scaled f e.1 e.2))
  let ex := sumFV p
  let y := cand (r32 ex)
  let diff := match (d32 y).add ex.neg with | .num _ m e => FV.num false m e | v => v
  match diff with
  | .num _ _ _ => if (fftBound d p).lt diff then r32 ex else y
  | _ => match ex with
    | .num _ _ _ => r32 ex
    | _ => y

/-- CONV_FFT (R476 to R478) of a job's node. -/
def convFftCalc (job node : Nat) (bank : List UserSlot) (w d m : Nat) (x : Srcs) : List RowOut :=
  let n := dN d
  let i := dwInput d m x
  ((i.1.flatMap (fun pix => (outPixels d).map (fun p => dwTaps d n pix p.1 p.2))).take m).zipIdx.map (fun (t, r) =>
    let acc := (List.zipWith (fun (q : List Elem × Nat) c =>
      ({ raw := fftValue d (fun v => (Config.fftResult job node (r * n + q.2) (BitVec.ofNat 32 v)).toNat) q.1 c } : Accu)) t.zipIdx i.2)
    epiRow bank (wMenu w) (wStore w) false (dOfmt d) false (dOutMul d) (dP32 d) (epiIn (wMenu w) m n r x.c)
      (List.replicate n one32) acc)

/-! ### POOL (R479) -/

/-- The pooled value of the taps of one channel: FP32 codes inside, and the number of taps outside. -/
def poolVal (d : Nat) (inside : List Nat) (outside : Nat) : Nat :=
  match cvPmode d with
  | 0 => if inside.isEmpty then negBig else inside.foldl maxZ negInf32
  | 1 => if inside.isEmpty then 0 else divN (sumFV (inside.map d32)) inside.length
  | _ =>
    let z := FV.mul (ofInt (cvZp d)) (ofInt (outside : Int))
    divN ((sumFV (inside.map d32)).add z) (inside.length + outside)

/-- POOL (R479): windows, or the whole sample under PMODE 3. -/
def poolCalc (d m : Nat) (x : Srcs) : List RowOut :=
  let f := dAfmt d
  let n := dN d
  let px := cvIw d * cvIh d
  let samples := if dMUnit d = 0 then 0 else m / dMUnit d
  let src := spatialRows x.a f (cvIw d) (cvIh d) n (samples * px) (dAsc d)
  let fin := fun (l : List Nat) =>
    let o := outRow (dOfmt d) false 256 l
    ({ codes := o.1, cnts := o.2.2 } : RowOut)
  if cvPmode d = 3 then
    src.map (fun pix => fin ((List.range n).map (fun c =>
      divN (sumFV ((pix.take px).map (fun p => d32 (toF32 f (p.getD c (0, 127)))))) px)))
  else
    (src.flatMap (fun pix => (outPixels d).map (fun p =>
      let taps := (tapRows d pix p.1 p.2).flatMap id
      let ins := taps.filterMap id
      fin ((List.range n).map (fun c => poolVal d (ins.map (fun r => toF32 f (r.getD c (0, 127))))
        (taps.length - ins.length)))))).take m

/-! ### ARGMAX_C (R480) -/

/-- Index and value of the largest: the first NaN, else the lowest index of the largest value. -/
def argmaxRow (x : List Nat) : Int × Nat × Bool :=
  match x.zipIdx.find? (fun v => isNan32 v.1) with
  | some v => ((v.2 : Int), nan32, true)
  | none =>
    match x.zipIdx with
    | [] => (-1, negBig, false)
    | v :: t =>
      let b := t.foldl (fun a c => if f32Lt a.1 c.1 then c else a) v
      ((b.2 : Int), b.1, false)

/-- ARGMAX_C (R480): one INT32 per pixel, and with WITH_VAL the winning value's FP32 bits. -/
def argmaxCalc (d m : Nat) (x : Srcs) : List RowOut :=
  let f := dAfmt d
  let px := cvIw d * cvIh d
  let samples := if dMUnit d = 0 then 0 else m / dMUnit d
  let rows := ((spatialRows x.a f (cvIw d) (cvIh d) (dN d) (samples * px) (dAsc d)).flatMap (fun p => p.take px)).take m
  rows.map (fun r =>
    let a := argmaxRow ((r.take (dN d)).map (toF32 f))
    { codes := unsgn 32 a.1 :: (if cvX1 d = 1 then [a.2.1] else []), cnts := [{ argNan := if a.2.2 then 1 else 0 }] })

/-! ### ROI_ALIGN (R482, R483) -/

/-- A picture position in feature coordinates: M inverted in FP32, then divided by 2^FSTRIDE_LOG2, each operation rounded
once. -/
def roiMap (d : Nat) (m : List Nat) (px py : Nat) : Nat × Nat :=
  let a := fun i => m.getD i 0
  let det := f32Sub (f32Mul (a 0) (a 4)) (f32Mul (a 1) (a 3))
  let x := f32Sub px (a 2)
  let y := f32Sub py (a 5)
  let u := f32Div (f32Sub (f32Mul (a 4) x) (f32Mul (a 1) y)) det
  let v := f32Div (f32Sub (f32Mul (a 0) y) (f32Mul (a 3) x)) det
  (f32Scale u (-(cvFs d : Int)), f32Scale v (-(cvFs d : Int)))

/-- A coordinate against a feature size: none beyond −1 or at least the size, else clamped into the map as lower index and
fraction (R483). -/
def roiCoord (p size : Nat) : Option (Nat × Nat × Nat) :=
  if isNan32 p || f32Lt p (f32Int (-1)) || !f32Lt p (f32Int size) then none
  else
    let q := if f32Lt p 0 then 0 else if f32Lt (f32Int ((size : Int) - 1)) p then f32Int ((size : Int) - 1) else p
    match finOf q with
    | none => none
    | some (m, e) =>
      let r := splitFloor m e
      let i := r.1.toNat
      some (i, min (i + 1) (size - 1), enc32 false r.2.1 1 (-(r.2.2 : Int)))

/-- Bilinear value of a channel at a feature position (R483). -/
def roiSample (d f : Nat) (pix : List (List Elem)) (c u v : Nat) : Nat :=
  let half := f32Rat 1 2
  match roiCoord (f32Sub u half) (cvIw d), roiCoord (f32Sub v half) (cvIh d) with
  | some x, some y =>
    let at_ := fun i j => toF32 f ((pix.getD (j * cvIw d + i) []).getD c (0, 127))
    let gx := f32Sub one32 x.2.2
    let gy := f32Sub one32 y.2.2
    let top := f32Add (f32Mul gx (at_ x.1 y.1)) (f32Mul x.2.2 (at_ x.2.1 y.1))
    let bot := f32Add (f32Mul gx (at_ x.1 y.2.1)) (f32Mul x.2.2 (at_ x.2.1 y.2.1))
    f32Add (f32Mul gy top) (f32Mul y.2.2 bot)
  | _, _ => 0

/-- The rows of one box: OH_R × OW_R bins of N channels; none is the degenerate box (R482). -/
def roiBox (d f : Nat) (m : List Nat) (pix : List (List Elem)) (b : Option Box) : List (List Nat) :=
  let n := dN d
  let ow := cvKw d
  let oh := cvKh d
  match b with
  | none => List.replicate (ow * oh) (List.replicate n 0)
  | some b =>
    let q := fun (v : Nat) => f32Rat (v : Int) 4
    let p0 := roiMap d m (q b.x0) (q b.y0)
    let p1 := roiMap d m (q b.x1) (q b.y1)
    let bw := f32Div (f32Sub p1.1 p0.1) (f32Int ow)
    let bh := f32Div (f32Sub p1.2 p0.2) (f32Int oh)
    let sr := cvSr d
    let pos := fun (o step i k : Nat) => f32Add o (f32Mul (f32Add (f32Int i) (f32Rat (2 * k + 1 : Nat) (2 * sr))) step)
    (List.range oh).flatMap (fun by_ => (List.range ow).map (fun bx => (List.range n).map (fun c =>
      let v := (List.range (sr * sr)).map (fun k =>
        roiSample d f pix c (pos p0.1 bw bx (k % sr)) (pos p0.2 bh by_ (k / sr)))
      divN (d32 (match v with | [] => 0 | x :: t => t.foldl f32Add x)) (sr * sr))))

end Sys2Proof.Machine
end

