-- ==== Sys2Proof/Machine/Dec.lean ====
section
/-! DEFINITION. Bitstream decode (chapter 04): the stream contract and its checks (R137 to R144), stream open and close (R145,
R146), access units (R147 to R151), the engines (R152 to R163), concealment (R165 to R169), the activity map (R171 to R174),
moves of streams (R187, R188), and the DECODE instruction. -/

set_option Elab.async false

namespace Sys2Proof.Machine

/-! ### Formats -/

/-- A row of R137: three times the weight, the highest LEVEL (0 when it is not checked), the chroma formats and the depths. -/
def profileRow (codec profile : Nat) : Option (Nat × Nat × List Nat × List Nat) :=
  match codec, profile with
  | 0, 0 => some (4, 0, [2], [10])
  | 1, 0 => some (3, 62, [1], [8])
  | 1, 1 => some (3, 62, [1], [8, 10])
  | 1, 2 => some (4, 62, [1, 2], [8, 10])
  | 2, 0 => some (3, 62, [1], [8])
  | 2, 1 => some (3, 62, [1], [8, 10])
  | 2, 2 => some (4, 62, [1, 2], [8, 10])
  | 3, 0 => some (3, 63, [0, 1], [8, 10])
  | 3, 1 => some (6, 63, [0, 1, 3], [8, 10])
  | 4, 0 => some (3, 61, [0, 1], [8, 10])
  | 5, 0 => some (4, 0, [2], [10])
  | _, _ => none

/-- Three times the weight of a chroma format (R152). -/
def chromaW3 (c : Nat) : Nat := if c = 2 then 4 else if c = 3 then 6 else 3

/-- Twice the factor f of R157. -/
def chromaF2 (c : Nat) : Nat := if c = 0 then 2 else if c = 1 then 3 else if c = 2 then 4 else 6

/-- 4 MiB buffers of one picture (R157): 8-bit samples take 1 B, 10-bit samples 1.25 B. -/
def picBufs (w h chroma depth : Nat) : Nat :=
  cdiv (w * h * chromaF2 chroma * (if depth = 8 then 4 else 5)) (8 * (4 * 2 ^ 20))

/-- The largest element of a list. -/
def maxOf (l : List Nat) : Nat := l.foldl max 0

/-! ### Contract fields -/

/-- A contract as its number, with its fields (R141). -/
def kField (k lo w : Nat) : Nat := bitsOf k lo w
def kCodec (k : Nat) : Nat := bitsOf k 212 4
def kProfile (k : Nat) : Nat := bitsOf k 208 4
def kLevel (k : Nat) : Nat := bitsOf k 200 8
def kSrc (k : Nat) : Nat := bitsOf k 224 2
def kFlow (k : Nat) : Nat := bitsOf k 216 8
def kErrPring (k : Nat) : Nat := bitsOf k 232 6
def kMaxRefs (k : Nat) : Nat := bitsOf k 240 8
def kMaxW (k : Nat) : Nat := bitsOf k 272 16
def kMaxH (k : Nat) : Nat := bitsOf k 256 16
def kFps (k : Nat) : Nat := bitsOf k 288 16
def kBitrate (k : Nat) : Nat := bitsOf k 352 32

/-- The fields of step 1 of R142 in ascending order: (bit offset, width, allowed). -/
def contractFields (k : Nat) : List (Nat × Nat × (Nat → Bool)) :=
  [(0, 200, (· == 0)), (200, 8, fun v => v == 0 || !(kCodec k == 0 || kCodec k == 5)), (216, 8, fun v => if kSrc k = 0 then v == 0 else decide (v < 32)), (224, 2, fun v => decide (v ≤ 1)),
   (226, 6, (· == 0)), (238, 2, (· == 0)), (240, 8, fun v => decide (v ≤ 16)), (248, 8, fun v => decide (v ≤ 64)),
   (320, 32, fun v => decide (1 ≤ v ∧ v ≤ 16777216)), (352, 32, fun v => decide (1 ≤ v ∧ v ≤ 2000000)), (384, 128, (· == 0))]

/-- ERR_PRING of a contract names a DISABLED ring (R142). -/
def State.errRingOff (s : State) (k : Nat) : Bool := s.rd (Reg.HIF_PRING_STATUS_STATE (kErrPring k)) == 0

/-- Step 1 of R142: the first failing field, by bit offset, with its value.  A re-executed STREAM_OPEN is not held to an
ERR_PRING that the driver enables only after the recovery (R129). -/
def State.openStep1 (s : State) (k : Nat) (replay : Bool) : Option (Nat × Nat) :=
  let bad := (contractFields k).filterMap (fun f =>
    if f.2.2 (kField k f.1 f.2.1) then none else some (f.1, kField k f.1 f.2.1 % 2 ^ 32))
  let all := if s.errRingOff k ∧ replay = false then bad ++ [(232, kErrPring k)] else bad
  minBy? (fun x => x.1) all

/-- A flow that a STREAM_OPEN may name (R197). -/
def State.flowNamed (s : State) (k : Nat) (st : Nat) : Bool :=
  let f := kFlow k
  let state := s.rd (Reg.NET_FLOW_STATUS_STATE f)
  let pay := s.rd (Reg.NET_FLOW_CFG_PAYLOAD f)
  decide (1 ≤ state ∧ state ≤ 4) &&
    (s.rd (Reg.NET_FLOW_STATUS_BOUND f) == 0 || s.rd (Reg.NET_FLOW_STATUS_STREAM f) == st) &&
    ((pay == 0 && kCodec k == 0) || (pay == 1 && kCodec k == 5) || (pay == 2 && kCodec k == 1) ||
     (pay == 3 && kCodec k == 2))

/-- Step 2 of R142: the formats of R137, the sizes of R138, the source and the flow. -/
def State.openStep2 (s : State) (k st : Nat) : Bool :=
  match profileRow (kCodec k) (kProfile k) with
  | none => false
  | some (_, top, _, _) =>
    decide (kLevel k ≤ top) && decide (16 ≤ kMaxW k ∧ kMaxW k ≤ 8192 ∧ 16 ≤ kMaxH k ∧ kMaxH k ≤ 4320) &&
      (kCodec k != 0 || kSrc k == 1) && (kSrc k == 0 || s.flowNamed k st)

/-! ### Rates and placement -/

/-- The reserved pixel rate in 1/48 samples per second (R143): MAX_FPS is Q12.4 and the weight is in thirds. -/
def pixRate (k : Nat) : Nat :=
  match profileRow (kCodec k) (kProfile k) with
  | some (w3, _, _, _) => kMaxW k * kMaxH k * kFps k * w3
  | none => 0

/-- The reserved bit rate in kb/s (R143). -/
def bitRate (k : Nat) : Nat := if kFps k = 0 then 0 else kBitrate k

/-- A contract's number, 0 for none. -/
def Stream.k (x : Stream) : Nat := match x.contract with | some c => c.toNat | none => 0

/-- The engine a stream is placed on, or moves to. -/
def State.homeEngine (s : State) (st : Nat) : Nat := ((s.stream st).movingTo).getD (s.strmEngine st)

/-- Streams placed on an engine: not CLOSED. -/
def State.onEngine (s : State) (e : Nat) : List Nat := (List.range 128).filter (fun st => s.strm st != 0 && s.homeEngine st == e)

/-- Reserved rates of an engine (R144). -/
def State.enginePix (s : State) (e : Nat) : Nat := sumNat ((s.onEngine e).map (fun st => pixRate (s.stream st).k))
def State.engineBits (s : State) (e : Nat) : Nat := sumNat ((s.onEngine e).map (fun st => bitRate (s.stream st).k))

/-- Limits of an engine and of the device (R144). -/
def enginePixMax : Nat := 48 * (2 * 10 ^ 9)
def engineBitsMax : Nat := 2 * 10 ^ 6
def devicePixMax : Nat := 48 * (16 * 10 ^ 9)
def deviceBitsMax : Nat := 8 * 10 ^ 6

/-- STATE of an engine, and whether streams may be placed on it. -/
def State.engineSt (s : State) (e : Nat) : Nat := s.rd (Reg.DEC_STATUS_STATE e)
def State.engineUp (s : State) (e : Nat) : Bool := s.engineSt e == 0 || s.engineSt e == 1

/-- STATE of an engine changes; its shaper follows it into LEHR and OFFLINE (R273). -/
def State.setEngineSt (s : State) (e v : Nat) : State :=
  let s1 := s.wr (Reg.DEC_STATUS_STATE e) v
  let old := s.rd (Reg.SHP_STATUS_STATE e)
  if v = 2 ∨ v = 3 then s1.wr (Reg.SHP_STATUS_STATE e) 3
  else if v = 4 ∨ v = 5 then s1.wr (Reg.SHP_STATUS_STATE e) 4
  else if old = 3 ∨ old = 4 then s1.wr (Reg.SHP_STATUS_STATE e) 0
  else s1

/-- The engine with the most unreserved pixel rate among some (R144). -/
def State.roomiest (s : State) (l : List Nat) : Option Nat := minBy? (fun e => s.enginePix e) l

/-- Placement of a contract by R144. -/
def State.place (s : State) (k : Nat) : Option Nat :=
  let up := (List.range 8).filter s.engineUp
  if kFps k = 0 then
    minBy? (fun e => ((s.onEngine e).filter (fun st => kFps (s.stream st).k == 0)).length) up
  else
    let all := List.range 8
    if devicePixMax < sumNat (all.map s.enginePix) + pixRate k ∨ deviceBitsMax < sumNat (all.map s.engineBits) + bitRate k
    then none
    else s.roomiest (up.filter (fun e =>
      decide (s.enginePix e + pixRate k ≤ enginePixMax) && decide (s.engineBits e + bitRate k ≤ engineBitsMax)))

/-- The registers of an engine that follow its placements (R185); OVERCOMMIT clears when they fit again (R187). -/
def State.engineNote (s : State) (e : Nat) : State :=
  let p := s.enginePix e
  let b := s.engineBits e
  let s1 := ((s.wr (Reg.DEC_RES_PIX_MPIX e) (cdiv p (48 * 10 ^ 6))).wr (Reg.DEC_RES_BITS_MBITS e) (cdiv b 1000)).wr
    (Reg.DEC_STATUS_NSTREAMS e) (s.onEngine e).length
  if p ≤ enginePixMax ∧ b ≤ engineBitsMax then s1.wr (Reg.DEC_STATUS_OVERCOMMIT e) 0 else s1

/-- Every engine's registers follow its placements. -/
def State.enginesNote (s : State) : State := (List.range 8).foldl State.engineNote s

/-! ### STREAM_OPEN -/

/-- The system-wide number of a stream, the SCOPE of its counters (R36, R48). -/
def State.scope (s : State) (st : Nat) : Nat := s.rd Reg.LNK_TOPO_MY_DEV * 128 + st

/-- Buffers that a contract commits (R158). -/
def commitBufs (k : Nat) : Nat :=
  match profileRow (kCodec k) (kProfile k) with
  | some (_, _, chromas, depths) => (kMaxRefs k + 1) * picBufs (kMaxW k) (kMaxH k) (maxOf chromas) (maxOf depths)
  | none => 0

/-- A stream command fails with a code of DEC (R142, R150, R151): recorded, then ERROR and DONE. -/
def State.failDec (s : State) (c : Cmd) (st ring code d0 d1 : Nat) : State :=
  let s1 := (s.setErr (Reg.DEC_STRM_ERR st) false (0, 0, 0) code).file .dec st code d0 d1
  (s1.sendTo ring { cmdPn c 0x12 s1.now with stn := 3, err := code, body := errBody (some (cmdName c)) d0 d1 }).done c code

/-- STREAM_OPEN fails: the stream stays closed, and what was accepted behind it ends with its code (R142, R151).  It still counts as
open when a later STREAM_OPEN was accepted meanwhile (R77). -/
def State.openFails (s : State) (c : Cmd) (st k code d0 d1 : Nat) : State :=
  let ring := if s.errRingOff k then s.rd Reg.HIF_SVC_PRING_PRING else kErrPring k
  let x := s.stream st
  let again := s.jrnl.cmds.any (fun d => seqBefore c.jidx d.jidx && slotStream d.slot == st && slotOpcode d.slot == 0x20)
  let s1 := s.setStream st { x with isOpen := x.isOpen && again, failCode := code, failRing := ring, failD0 := d0, failD1 := d1 }
  s1.failDec c st ring code d0 d1

/-- The counters of a stream restart (R184, R186, R232). -/
def State.restartCounters (s : State) (st : Nat) (live : Bool) : State :=
  let sc := s.scope st
  let ids := (List.range 10).map (0x0200 + ·) ++ (List.range 5).map (0x0400 + ·) ++
    (if live then (List.range 15).map (0x0300 + ·) else [])
  let s1 := ids.foldl (fun s i => s.setCnt i sc 0) s
  [Reg.DEC_STRM_SPARSE st, Reg.DEC_STRM_CONCEALED st, Reg.DEC_STRM_SUBST st, Reg.DEC_STRM_SYNTAX st,
    Reg.DEC_STRM_STALE_REF st, Reg.DEC_STRM_DIMS st].foldl (fun s a => s.setReg a 0) s1

/-- The mirror keeps the FRAME_SEQ of an AU_SUBMIT beside the log, and the stream's records of that frame are tied to it (R123). -/
def State.noteFseq (s : State) (j st seq : Nat) : State :=
  let e := s.entry j
  let tie := fun (r : EmitRec) =>
    if !r.kind1 && r.stream == st && r.keySeq == seq && !r.old && r.au.isNone then { r with au := some j } else r
  { s with jrnl := { s.jrnl with
    entries := if e.jidx = j ∧ e.st ≠ .free then tset (fun _ => {}) s.jrnl.entries (j % s.jSize) { e with fseq := some seq } else s.jrnl.entries
    log := s.jrnl.log.map (fun q => (q.1, q.2.map tie)) } }

/-- The mirror keeps that an access unit was a random access point (R120). -/
def State.noteRap (s : State) (j : Nat) : State :=
  let e := s.entry j
  let s1 := s.updCmd j (fun c => { c with rap := true })
  if e.jidx = j ∧ e.st ≠ .free then
    { s1 with jrnl := { s1.jrnl with entries := tset (fun _ => {}) s1.jrnl.entries (j % s.jSize) { e with rap := true } } }
  else s1

/-- A stream is opened anew: its FRAME_SEQs start again at 0, so its records of before match no pennant any more, and the ORDINALs of
its frames start again (R26, R122, R125). -/
def State.newOpening (s : State) (st : Nat) : State :=
  { s with jrnl := { s.jrnl with
    log := s.jrnl.log.map (fun q => (q.1, q.2.map (fun r => if !r.kind1 && r.stream == st then { r with old := true } else r)))
    ordinals := s.jrnl.ordinals.filter (fun q => !(!q.1.1 && q.1.2.2.1 == st)) } }

/-- FRAME_SEQ from which a re-executed STREAM_OPEN of a live stream goes on: after the latest one that the log names (R38, R132;
UNVERIFIED, log entry 17). -/
def State.resumeSeq (s : State) (st : Nat) : Nat :=
  match (s.jrnl.log.filterMap (fun q => match q.2 with
      | some r => if !r.kind1 && r.stream == st && !r.old then some r.keySeq else none
      | none => none)).foldl (fun (m : Option Nat) k => match m with
        | some n => if seqBefore n k then some k else m
        | none => some k) none with
  | some n => (n + 1) % 2 ^ 32
  | none => 0

/-- The stream opens on engine `e` (R142 to R144, R158, R197). -/
def State.openOn (s : State) (c : Cmd) (st e : Nat) (contract : BitVec 512) : State :=
  let k := contract.toNat
  let x := s.stream st
  let live := kSrc k == 1
  let again := c.replay && live
  let base : Stream :=
    { nextFrame := if again then s.resumeSeq st else 0, isOpen := x.isOpen, contract := some contract, openJidx := some c.jidx, openJob := slotJob c.slot,
      openName := cmdName c, committed := commitBufs k }
  let s0 := if c.replay then s else s.newOpening st
  let s1 := ((s0.dropKept st).setStream st base).restartCounters st live
  let s2 := ((s1.wr (Reg.DEC_STRM_STATE_STATE st) 1).wr (Reg.DEC_STRM_STATE_ENGINE st) e).wr
    (Reg.DEC_STRM_STATE_CODEC st) (kCodec k)
  let s3 := if live then ((s2.wr (Reg.NET_FLOW_STATUS_BOUND (kFlow k)) 1).wr (Reg.NET_FLOW_STATUS_STREAM (kFlow k)) st).setFlow
      (kFlow k) (s2.flow (kFlow k)).afresh else s2
  s3.enginesNote.done c

/-- The checks of R142 in order, and the open.  DETAIL0 and DETAIL1 of DEC_BUDGET are rounded up, as MPIX and MBITS are (DESIGN
CHOICE, log entry 24). -/
def State.openStream (s : State) (c : Cmd) (st : Nat) (contract : BitVec 512) : State :=
  let k := contract.toNat
  match s.openStep1 k c.replay with
  | some (off, v) => s.openFails c st k 0x0201 off v
  | none =>
    if s.openStep2 k st = false then s.openFails c st k 0x0202 (kCodec k * 256 + kProfile k) 0
    else if kSrc k = 1 ∧ kFps k = 0 then s.openFails c st k 0x0201 288 0
    else
      match s.place k with
      | none => s.openFails c st k 0x0203 (cdiv (pixRate k) (48 * 10 ^ 6)) (cdiv (bitRate k) 1000)
      | some e =>
        match s.commit (commitBufs k) with
        | none => s.openFails c st k 0x020A (commitBufs k) (s.poolRes 1 7 - s.poolCommit 1 7)
        | some s1 => s1.openOn c st e contract

/-- An earlier accepted command of the same stream, with one of some opcodes, that has not taken effect yet. -/
def State.earlierOf (s : State) (c : Cmd) (ops : List Nat) : Bool :=
  s.jrnl.cmds.any (fun d => seqBefore d.jidx c.jidx && slotStream d.slot == slotStream c.slot &&
    ops.contains (slotOpcode d.slot) && !d.ended && !(d.waiting && slotOpcode d.slot == 0x30))

/-- STREAM_OPEN (R142, R146): `contract` is what the read of the 64 bytes at ADDR returned; for a stream in lehr the open
waits for the close.  Re-executed for a stream whose context a reset kept, it ends at once (R130, R131). -/
def execStreamOpen (jidx : Nat) (contract : BitVec 512) (s : State) : Host.Outcome State Fault Refusal :=
  match s.running jidx 0x20 with
  | none => .next s
  | some c =>
    let st := slotStream c.slot
    if c.replay = true ∧ s.strm st ≠ 0 ∧ (s.stream st).openJidx = some jidx then .next (s.done c)
    else
      match s.fetchedObj c with
      | (s1, false) => .next s1
      | (s1, true) =>
        if s.strm st = 3 then
          .next ((s1.wr (Reg.DEC_STRM_STATE_STATE st) 4).setStream st { s1.stream st with waitOpen := some (jidx, contract) })
        else if s.strm st = 0 ∧ s.earlierOf c [0x20, 0x22] = false then .next (s1.openStream c st contract)
        else .next s

/-! ### Access units -/

/-- An accepted STREAM_BIND, not yet in effect, covers a frame of a bound stream: the frame waits for it (R21). -/
def State.bindHolds (s : State) (st n : Nat) : Bool :=
  (s.stream st).bind.isSome && s.jrnl.cmds.any (fun c => slotOpcode c.slot == 0x21 && slotStream c.slot == st && !c.ended && !c.replay &&
    (c.mark == n || seqBefore c.mark n))

/-- The job that carries a frame of a stream (R26, R278). -/
def State.newFrameJob (s : State) (st : Nat) (f : Frame) (job : Nat) (name : Nat × Nat × Nat) : Job :=
  { id := 0, kind := .frame st f.seq f.au, prog := f.bind.prog, route := f.bind.route, svc := f.bind.svc
    ticket := 0, stream := st, jobId := job, frameSeq := f.seq, pts := f.pts, ct := f.ct, flags := f.flags
    name := some name, home := s.strmEngine st }

/-- A frame takes the stream's next FRAME_SEQ, or the one it had before a recovery, and joins the stream with its job
(R26, R123). -/
def State.takeFrame (s : State) (st : Nat) (f : Frame) (seq? : Option Nat) (job : Nat) (name : Nat × Nat × Nat) : State :=
  let x := s.stream st
  let seq := seq?.getD x.nextFrame
  let s1 := s.setStream st { x with nextFrame := (seq + 1) % 2 ^ 32, frames := x.frames ++ [{ f with seq := seq }] }
  let s2 := match f.au with | some j => s1.noteFseq j st seq | none => s1
  s2.addJob (s.newFrameJob st { f with seq := seq } job name)

/-- The frame lies at or before the stream's frame checkpoint: every pennant of it is committed (R131, R160). -/
def Stream.settled (x : Stream) (fseq : Option Nat) : Bool :=
  match x.ckpt, fseq with
  | some k, some n => !x.rebuild && (n == k.seq || seqBefore n k.seq)
  | _, _ => false

/-- What R77 could not check of an AU_SUBMIT accepted before its STREAM_OPEN took effect (DEDUCED, log entry 15): SRC and AU_MAX of
the contract. -/
def State.lateCheck (s : State) (c : Cmd) (st : Nat) : Option (Nat × Nat × Nat) :=
  if s.isLive st then some (0x0103, st, 0x30)
  else if s.contractField st 320 32 < slotLength c.slot then some (0x0104, slotLength c.slot, s.contractField st 320 32)
  else none

/-- AU_SUBMIT (R57, R70, R147, R150, R151): in acceptance order, the access unit of a bound stream takes its FRAME_SEQ and its read
begins.  Re-executed, one whose frame the checkpoint covers is not decoded again (R131). -/
def execAuSubmit (jidx : Nat) (s : State) : Host.Outcome State Fault Refusal :=
  match s.running jidx 0x30 with
  | none => .next s
  | some c =>
    let st := slotStream c.slot
    let x := s.stream st
    if c.waiting = true ∨ s.earlierOf c [0x20, 0x21, 0x30] = true then .next s
    else if c.replay = true ∧ x.settled c.fseq = true then .next (s.done c)
    else if x.haltCode ≠ 0 then .next (s.failDec c st (s.errPring st) 0x0209 st x.haltCode)
    else if s.strm st = 0 then .next (s.failDec c st x.failRing x.failCode x.failD0 x.failD1)
    else
      match s.lateCheck c st, x.bind with
      | some (code, d0, d1), _ => .next (s.failCmd c (s.errPring st) code d0 d1)
      | none, none => .next (s.failDec c st (s.errPring st) 0x020D st 0x30)
      | none, some b =>
        let ht := slotHostTs c.slot
        let f : Frame :=
          { seq := 0, au := some jidx, ct := if ht = 1 then { sec := slotCtSec c.slot, ns := slotCtNs c.slot } else c.ct
            mono := c.mono, pts := slotPts c.slot, flags := ht * 2 ^ 8, bytes := slotLength c.slot
            discont := slotDiscont c.slot == 1, eos := slotEos c.slot == 1, bind := b }
        let s1 := (s.takeFrame st f c.fseq (slotJob c.slot) (cmdName c)).updCmd jidx (fun c => { c with waiting := true })
        .next (s1.startRead c (slotAddr c.slot) (slotLength c.slot) (relaxable 0x30 true))

/-- The read of a frame's access unit is over: all its requests were issued (R55, R63). -/
def State.auFetched (s : State) (f : Frame) : State × Bool :=
  match f.au with
  | some i => match s.cmd? i with
    | some c => s.fetched c [(slotAddr c.slot, slotLength c.slot)] (relaxable 0x30 true)
    | none => (s, true)
  | none => (s, true)

/-- AU_FETCH_DONE (R155): the access unit lies in pool buffers of owner 4; a draw that stalls holds the fetch (R569). -/
def execAuFetchDone (stream seq : Nat) (s : State) : Host.Outcome State Fault Refusal :=
  match (s.stream stream).frames.find? (fun f => f.seq == seq), s.frameJob? stream seq with
  | some f, some j =>
    if f.au.isSome ∧ f.ready = false then
      match s.auFetched f with
      | (s0, false) => .next s0
      | (s0, true) =>
        let d := poolFit f.bytes
        match s0.draw 4 d.1 d.2 f.bind.svc j.ticket false with
        | (s1, some l) => .next (s1.setStream stream { s1.stream stream with
            frames := updFirst (fun f => f.seq == seq) (fun f => { f with ready := true, bufs := some (d.1, l) }) (s1.stream stream).frames })
        | (_, none) => .next s0
    else .next s
  | _, _ => .next s

/-! ### Halts and drops -/

/-- The buffers of a frame's access unit or packets return (R581). -/
def State.freeFrame (s : State) (f : Frame) : State :=
  match f.bufs with
  | some (c, l) => s.freeAll c l
  | none => s

/-- The job of a frame ends without any pennant; an AU_SUBMIT is left to its own ending. -/
def State.dropJob (s : State) (st seq : Nat) : State :=
  match s.frameJob? st seq with
  | some j => (((s.freePlan j).lnkEnd { j with fault := some (0, 0) }).dropTiles j.id).dropPic st seq |> fun s1 =>
      { s1 with jobs := s1.jobs.filter (fun x => x.id != j.id) }
  | none => s

/-- A live frame is lost: no pennant, and SEQ_GAP on the route's rings (R30, R132). -/
def State.loseLive (s : State) (st : Nat) (f : Frame) : State :=
  ((s.dropJob st f.seq).markGap st f.bind.prog f.bind.route f.seq).settle st

/-- A live frame is dropped as stale before DEC (R30, R214). -/
def State.dropLive (s : State) (st : Nat) (f : Frame) : State := (s.cnt 0x0301 (s.scope st)).loseLive st f

/-- The ERROR of a frame on ERR_PRING (R35, R164). -/
def State.frameError (s : State) (st : Nat) (f : Frame) (code d0 d1 : Nat) : State :=
  match s.frameJob? st f.seq with
  | some j => s.sendTo (s.errPring st)
      { j.pn 0x12 0 with flags := f.flags, stn := 3, inst := s.strmEngine st, err := code, body := errBody j.name d0 d1 }
  | none => s

/-- The AU_SUBMIT of a frame ends with DONE carrying a code. -/
def State.auDone (s : State) (f : Frame) (code : Nat) : State :=
  match f.au with
  | some i => match s.cmd? i with
    | some c => s.done c code
    | none => s
  | none => s

/-- The reference buffers and the commitment of a stream return (R158, R572). -/
def State.freeRefs (s : State) (st : Nat) : State :=
  let x := s.stream st
  ((s.freeAll 7 (x.bufs ++ x.oldBufs)).uncommit x.committed).setStream st
    { x with bufs := [], oldBufs := [], committed := 0, refs := [], last := none, refsFrom := none, seqHdr := none }

/-- The ERROR and DONE of a queued AU_SUBMIT of a halted stream (R150, R164): its frame holds a FRAME_SEQ, so the ERROR names the
frame, in its place in the frame order (R27, R35, R42). -/
def State.haltQueued (s : State) (st : Nat) (f : Frame) (code : Nat) : State :=
  let s1 := s.setErr (Reg.DEC_STRM_ERR st) false (0, 0, 0) 0x0209
  (((((s1.file .dec st 0x0209 st code).frameError st f 0x0209 st code).dropJob st f.seq).freeFrame f).auDone f 0x0209)

/-- The stream halts (R164) at picture `f`, whose frame is no longer in its list. -/
def State.haltStream (s : State) (st : Nat) (f : Frame) (code d0 d1 : Nat) : State :=
  let s1 := ((((s.decErr st code d0 d1).frameError st f code d0 d1).dropJob st f.seq).freeFrame f).freeRefs st
  let s2 := (s1.wr (Reg.DEC_STRM_STATE_STATE st) (if s.strm st = 1 then 2 else s.strm st)).setReg (Reg.DEC_STRM_DIMS st) 0
  let x := s2.stream st
  let queued := x.frames
  let s3 := s2.setStream st { x with haltCode := code, frames := [], cks := [], prior := if x.prior = 3 then 3 else 2 }
  let s4 := queued.foldl (fun s q => s.haltQueued st q code) s3
  s4.auDone f code

/-! ### The choice of a picture -/

/-- The picture that a stream offers: the head of its frames, once ready (R155). -/
def State.offered (s : State) (st : Nat) : Option Frame :=
  match (s.stream st).frames with
  | f :: _ => if f.ready && !s.bindHolds st f.seq then some f else none
  | [] => none

/-- The ready picture ranked first on an engine (R155). -/
def State.pickOf (s : State) (e : Nat) : Option (Nat × Frame) :=
  let l := (List.range 128).filterMap (fun st =>
    if (s.strm st = 1 ∨ s.strm st = 3 ∨ s.strm st = 4) ∧ s.strmEngine st = e then (s.offered st).map (fun f => (st, f)) else none)
  minBy? (fun x => (x.2.bind.svc * 2 ^ 64 + x.2.mono) * 128 + x.1) l

/-- Block rows of a picture (R153). -/
def Pic.nRows (p : Pic) : Nat := cdiv p.h (max 1 p.info.blockRows)

/-- The engine may choose: it is idle, or its current picture is in its last two block rows (R154). -/
def State.mayChoose (s : State) (e : Nat) : Bool :=
  let g := s.engine e
  !s.sched.saving && (s.engineSt e == 0 || s.engineSt e == 1) &&
    (match g.cur with
     | none => true
     | some p => g.chosen.isNone && decide (p.nRows ≤ p.rowsDone + 2))

/-- The claim of an uncompressed frame is the size in NET_FLOW_DIMS (R209). -/
def State.claimOf (s : State) (st : Nat) (i : PicInfo) : Option SeqClaim :=
  let k := (s.stream st).k
  if kCodec k = 0 then
    let w := s.rd (Reg.NET_FLOW_DIMS_WIDTH (kFlow k))
    let h := s.rd (Reg.NET_FLOW_DIMS_HEIGHT (kFlow k))
    some { width := w, height := h, codedW := w, codedH := h, dpb := 0, profileInd := 0, profileOk := true, chroma := 2,
           depth := 10, level := 0, tool := 0 }
  else i.seqHdr

/-- The first claim that exceeds the contract (R161): code, DETAIL0 and DETAIL1 (R189).  The table gives no order for a header that
exceeds the contract in several rows: the model takes the table's order (DESIGN CHOICE, log entry 20).  A picture below the least
size of R138 is a format outside R138, DEC_UNSUPPORTED. -/
def claimCheck (k : Nat) (q : SeqClaim) : Option (Nat × Nat × Nat) :=
  let r := (profileRow (kCodec k) (kProfile k)).getD (0, 0, [], [])
  let fmt := fun kind v w => some (0x0206, kind * 2 ^ 24 + v, kind * 2 ^ 24 + w)
  if kMaxW k < q.width ∨ kMaxH k < q.height then some (0x0204, (q.width % 2 ^ 16) * 2 ^ 16 + q.height % 2 ^ 16, 0)
  else if q.width < 16 ∨ q.height < 16 then some (0x0202, kCodec k * 256 + kProfile k, 0)
  else if kMaxRefs k < q.dpb then some (0x0205, q.dpb, kMaxRefs k)
  else if q.profileOk = false then fmt 0 q.profileInd (kCodec k * 256 + kProfile k)
  else if r.2.2.1.contains q.chroma = false then fmt 1 q.chroma (maxOf r.2.2.1)
  else if r.2.2.2.contains q.depth = false then fmt 2 q.depth (maxOf r.2.2.2)
  else if kLevel k ≠ 0 ∧ kLevel k < q.level then fmt 3 q.level (kLevel k)
  else if q.tool ≠ 0 then some (0x0202, kCodec k * 256 + kProfile k, q.tool)
  else none

/-- Pictures of a stream on the engines, decoding or chosen. -/
def State.enginePics (s : State) (st : Nat) : List Pic :=
  (List.range 8).flatMap (fun e => ((s.engine e).cur.toList ++ (s.engine e).chosen.toList).filter (fun p => p.stream == st))

/-- A held reference still counts for a picture or stream with this barrier (R149). -/
def heldFrom (b : Option Nat) (r : RefPic) : Bool := match b with | some n => !seqBefore r.seq n | none => true

/-- The reference buffers that some picture of the stream holds: a reference, a picture on an engine or what that one predicts from. -/
def State.busyRefs (s : State) (st : Nat) : List Nat :=
  (s.stream st).refs.flatMap (·.bufs) ++ (s.enginePics st).flatMap (fun p => p.own ++ p.pool.flatMap (·.bufs))

/-- Buffers of earlier sequences return once no picture references them (R158). -/
def State.freeOld (s : State) (st : Nat) : State :=
  let busy := s.busyRefs st
  let x := s.stream st
  let go := x.oldBufs.filter (fun b => !busy.contains b)
  if go.isEmpty then s
  else (s.freeAll 7 go).setStream st { x with oldBufs := x.oldBufs.filter (fun b => busy.contains b) }

/-- A sequence is activated by a picture (R158): the references that neither this picture nor a later one needs go, with the buffers of
the sequence before that nothing references any more, and the buffers of the new one are drawn in one request; none while owner 1
stalls DEC. -/
def State.activate (s : State) (st svc ticket : Nat) (i : PicInfo) (q : SeqClaim) : Option State :=
  let x := s.stream st
  if x.seqHdr = some q then some s
  else
    let refs := x.refs.filter (fun r => heldFrom x.refsFrom r && (i.keep.contains r.seq || i.refs.contains r.seq))
    let s1 := (s.setStream st { x with refs := refs, oldBufs := x.oldBufs ++ x.bufs, bufs := [] }).freeOld st
    match s1.draw 1 7 ((q.dpb + 1) * picBufs q.codedW q.codedH q.chroma q.depth) svc ticket false with
    | (s2, some l) =>
      let s3 := s2.setStream st { s2.stream st with seqHdr := some q, bufs := l }
      some ((s3.wr (Reg.DEC_STRM_DIMS_WIDTH st) q.width).wr (Reg.DEC_STRM_DIMS_HEIGHT st) q.height)
    | (_, none) => none

/-- The buffers in which a picture is decoded: the first of the active sequence that hold no picture (R157, R158). -/
def State.ownBufs (s : State) (st : Nat) : List Nat :=
  let x := s.stream st
  let busy := s.busyRefs st
  match x.seqHdr with
  | some q => (x.bufs.filter (fun b => !busy.contains b)).take (picBufs q.codedW q.codedH q.chroma q.depth)
  | none => []

/-- The DECODE word of a binding's route (R182). -/
def State.decodeWord (s : State) (b : Binding) : Nat := ((s.prog b.prog).routeWords b.route).headD 0

/-- DCLK cycles of a picture (R152). -/
def picCycles (w h w3 bits : Nat) : Nat := max (cdiv (2 * w * h * w3) 15) (cdiv (2 * bits) 5) + 160

/-- A SHAPE node with an ANGLE, or a CROP_RESIZE node, makes DEC keep the decoded picture (R238). -/
def State.keepsPicture (s : State) (b : Binding) : Bool :=
  let p := s.prog b.prog
  (p.routeWords b.route).any (readsCopy shapeAngle p.descs)

/-- Draw the map buffer (R175) and the analysis copy (R238) of a picture; none while owner 2 stalls DEC. -/
def State.drawPic (s : State) (f : Frame) (ticket mapBytes copies : Nat) :
    Option (State × (Nat × List Nat) × Option (Nat × List Nat)) :=
  let d := poolFit mapBytes
  if s.mayDraw 2 d.1 d.2 ticket true = false then none
  else
    let r := s.drawNow 2 d.1 d.2 f.bind.svc
    if copies = 0 then some (r.1, (d.1, r.2), none)
    else if r.1.mayDraw 2 7 copies ticket true = false then none
    else
      let q := r.1.drawNow 2 7 copies f.bind.svc
      some (q.1, (d.1, r.2), some (7, q.2))

/-- Uncompressed and JPEG XS pictures are coded without motion (R173). -/
def stillCodec (codec : Nat) : Bool := codec == 0 || codec == 5

/-- A picture that starts sees what its stream holds at that moment: its references and the most recent decoded picture, and it takes
the buffers it is decoded into (R149, R157, R166, R173).  A still codec has the most recent decoded picture to conceal from (R209).
A previous picture of another size gives nothing to compare with (DEDUCED, log entry 20). -/
def State.seed (s : State) (p : Pic) : Pic :=
  let x := s.stream p.stream
  let last := x.last.filter (heldFrom p.refsFrom)
  { p with
    pool := if stillCodec (kCodec x.k) then last.toList else x.refs.filter (heldFrom p.refsFrom)
    prev := last, own := if p.empty then [] else s.ownBufs p.stream
    noPrev := match last with | some r => !(r.pix.w == p.w && r.pix.h == p.h) | none => true }

/-- The picture becomes the engine's current one, or the one chosen for when it ends (R154, R155). -/
def State.engage (s : State) (e : Nat) (p : Pic) : State :=
  let g := s.engine e
  match g.cur with
  | some _ => s.setEngine e { g with chosen := some p }
  | none =>
    let s1 := s.setEngine e { g with cur := some (s.seed p) }
    let s2 := (s1.wr (Reg.DEC_STATUS_CUR_VALID e) 1).wr (Reg.DEC_STATUS_CUR_STREAM e) p.stream
    if s2.engineSt e = 0 then s2.setEngineSt e 1 else s2

/-- The head frame of a stream leaves its list. -/
def State.popFrame (s : State) (st : Nat) : State :=
  let x := s.stream st
  s.setStream st { x with frames := x.frames.tail }

/-- DISCONT drops the stream's references before the access unit is decoded (R149): none before its FRAME_SEQ counts any more.  Its
TRACK step will retire the tracks (R516). -/
def State.discont (s : State) (st : Nat) (f : Frame) : State :=
  if f.discont then
    let x := s.stream st
    let s1 := (s.dropKept st).setStream st { x with refsFrom := some f.seq, forceNext := true }
    let g := s1.sgsStream st
    if s1.rd (Reg.SGS_STRM_STATE_STATE st) = 0 then s1 else s1.setSgs st { g with disc := g.disc ++ [f.seq] }
  else s

/-- Sparse pictures in a row after this one (R162). -/
def sparseRun (run : Nat) (i : PicInfo) (q : SeqClaim) (hasRef : Bool) : Nat :=
  if i.codedBytes * 4096 < q.width * q.height then if i.allSkip && hasRef then run else run + 1
  else if i.allSkip && hasRef then run else 0

/-- A picture with its size, format and time (R148, R152, R174, R177). -/
def State.picOf (s : State) (st : Nat) (f : Frame) (i : PicInfo) (q : Option SeqClaim) (empty refOnly : Bool) : Pic :=
  let x := s.stream st
  let dw := s.decodeWord f.bind
  let k := x.k
  let wh := match q with | some q => (q.width, q.height) | none => (kMaxW k, kMaxH k)
  let w3 := match q with | some q => chromaW3 q.chroma | none => 3
  let bits := if kCodec k = 0 then 0 else 8 * i.codedBytes
  let refresh := bitsOf dw 40 8
  let fmt := match q with | some q => (q.chroma, q.depth) | none => (1, 8)
  { stream := st, frame := f, info := i, w := wh.1, h := wh.2
    cycles := if empty then 160 else picCycles wh.1 wh.2 w3 bits
    thr := (bitsOf dw 80 16, bitsOf dw 64 16)
    refOnly := refOnly, empty := empty, refsFrom := x.refsFrom
    pix := { w := wh.1, h := wh.2, chroma := fmt.1, depth := fmt.2, fullRange := i.fullRange, colour := i.colour, site := i.site }
    forced := x.forceNext || i.rap || (refresh != 0 && decide (refresh ≤ (f.seq + 2 ^ 32 - x.lastFull) % 2 ^ 32)) }

/-- Map bytes and the buffers of the analysis copy of a picture (R175, R238). -/
def picNeeds (p : Pic) (keeps : Bool) (q : Option SeqClaim) : Nat × Nat :=
  let bytes := 8 * cdiv p.w 16 * cdiv p.h 16
  match keeps, q with
  | true, some q => (bytes, picBufs q.codedW q.codedH q.chroma q.depth)
  | _, _ => (bytes, 0)

/-- Every tile of the picture will be issued: it must be, or its route's DECODE gates nothing (R177, R182). -/
def State.issuesAll (s : State) (p : Pic) : Bool := p.forced || bitsOf (s.decodeWord p.frame.bind) 32 1 == 0

/-- The chosen picture is accepted: the stream's marks, and the engine (R149, R154, R177).  An
EOS leaves no reference for the frame after it. -/
def State.beginPic (s : State) (e st : Nat) (f : Frame) (p : Pic) (run : Nat) : State :=
  let s2 := s.wr (Reg.DEC_STRM_SPARSE_RUN st) run
  let x := s2.stream st
  let s3 := s2.setStream st { x with
    refsFrom := if f.eos then some ((f.seq + 1) % 2 ^ 32) else x.refsFrom
    forceNext := x.forceNext && p.refOnly
    lastFull := if s.issuesAll p && !p.refOnly then f.seq else x.lastFull }
  let s4 := match f.au with
    | some i => if p.info.rap then s3.noteRap i else s3
    | none => s3
  s4.engage e p

/-- A picture coded as skipped blocks has a reference to predict from: one that is held, or the engine's current picture of the stream,
which will be (R162). -/
def State.hasRef (s : State) (st : Nat) : Bool :=
  let x := s.stream st
  x.refs.any (heldFrom x.refsFrom) ||
    (s.enginePics st).any (fun p => p.info.mayRef && !p.empty && heldFrom x.refsFrom { seq := p.frame.seq })

/-- Halt at the picked picture; a live frame past its bound counts as dropped as well (R164, R170, R214). -/
def State.haltPic (s : State) (st : Nat) (f : Frame) (late : Bool) (code d0 d1 : Nat) : State :=
  (if late && !f.stale then s.cnt 0x0301 (s.scope st) else s).haltStream st f code d0 d1

/-- The picture starts with its buffers (R170, R175, R238); none while owner 2 stalls DEC. -/
def State.launch (s : State) (e st : Nat) (f : Frame) (i : PicInfo) (act : Option SeqClaim) (empty late : Bool) (run : Nat) : Option State :=
  let s1 := if late && !f.stale then s.dropLive st f else s
  let p := s1.picOf st f i act empty late
  if late then some (s1.beginPic e st f p run)
  else
    let n := picNeeds p (s1.keepsPicture f.bind) act
    let ticket := match s1.frameJob? st f.seq with | some j => j.ticket | none => s1.ticketNow
    match s1.drawPic f ticket n.1 n.2 with
    | some (s2, b) => some (s2.beginPic e st f { p with mapBuf := some b.1, copyBuf := b.2 } run)
    | none => none

/-- The sequence of a header that fits the contract is activated; none while its draw waits (R157, R161). -/
def State.activateClaim (s : State) (st : Nat) (f : Frame) (i : PicInfo) (claim : Option SeqClaim) : Option State :=
  let ticket := match s.frameJob? st f.seq with | some j => j.ticket | none => s.ticketNow
  match claim with
  | some q => s.activate st f.bind.svc ticket i q
  | none => some s

/-- The picked picture is checked and started (R148, R149, R161 to R164, R214).  The header of an access unit with no complete picture is
neither checked nor activated: the frame takes the size of the sequence that is active (DESIGN CHOICE, log entry 20).  While a draw
stalls DEC, nothing happens. -/
def State.startPic (s : State) (e st : Nat) (f : Frame) (i : PicInfo) : State :=
  let s0 := (s.popFrame st).discont st f
  let late := s.isLive st && (f.stale || decide (s.staleBound st < s.time.mono - f.mono))
  let whole := i.complete && !f.oversize
  let claim := if whole then s0.claimOf st i else none
  if late ∧ i.mayRef = false then
    let s1 := s0.freeFrame f
    if f.stale then s1 else s1.dropLive st f
  else
    match claim.bind (claimCheck (s0.stream st).k) with
    | some (code, d0, d1) => s0.haltPic st f late code d0 d1
    | none =>
      match s0.activateClaim st f i claim with
      | none => s
      | some s1 =>
        let act := (s1.stream st).seqHdr
        let run := s1.rd (Reg.DEC_STRM_SPARSE_RUN st)
        match act with
        | none => (s1.launch e st f i none true late run).getD s
        | some q =>
          let run' := if whole then sparseRun run i q (s1.hasRef st) else run
          if 8 ≤ run' then s1.haltPic st f late 0x0204 ((q.width % 2 ^ 16) * 2 ^ 16 + q.height % 2 ^ 16) i.codedBytes
          else (s1.launch e st f i act (!whole) late run').getD s

/-- DEC_PICTURE_CHOICE (R154, R155): one pick; `info` is what parsing the picked access unit finds. -/
def execDecPictureChoice (engine : Nat) (info : PicInfo) (s : State) : Host.Outcome State Fault Refusal :=
  if s.mayChoose engine = true then
    match s.pickOf engine with
    | some (st, f) => .next (s.startPic engine st f info)
    | none => .next s
  else .next s

/-! ### Block rows and the activity map -/

/-- Round a quotient to the nearest integer, ties away from zero. -/
def roundAway (n : Int) (d : Nat) : Int :=
  if n < 0 then -(((2 * n.natAbs + d) / (2 * d) : Nat) : Int) else (((2 * n.natAbs + d) / (2 * d) : Nat) : Int)

/-- The sum of the samples' scaled vectors of a part over a common denominator (R172): Σ samples × vector × den ÷ distance;
a bi-predicted part gives the mean of its two vectors with the backward one negated. -/
def mvPart (den : Nat) (pick : Int × Int × Nat → Int) (p : MvPart) : Int :=
  let one := fun (v : Int × Int × Nat) => pick v * ((den / max 1 v.2.2 : Nat) : Int)
  match p.fwd, p.bwd with
  | some a, some b => (p.samples : Int) * (one a - one b)
  | some a, none => 2 * (p.samples : Int) * one a
  | none, some b => 2 * (p.samples : Int) * one b
  | none, none => 0

/-- The distances of a cell's vectors. -/
def mvDists (l : List MvPart) : List Nat :=
  l.flatMap (fun p => (match p.fwd with | some v => [max 1 v.2.2] | none => []) ++
    (match p.bwd with | some v => [max 1 v.2.2] | none => []))

/-- The mean motion of a cell in Q11.4, rounded to nearest with ties away from zero and saturated (R172). -/
def mvMean (pick : Int × Int × Nat → Int) (l : List MvPart) : Int :=
  let den := (mvDists l).foldl Nat.lcm 1
  let total := sumNat (l.map (fun p => p.samples))
  if total = 0 then 0
  else clampInt (-32768) 32767 (roundAway ((l.map (mvPart den pick)).foldl (· + ·) 0) (2 * den * total))

/-- RESID (R171). -/
def resid (sum : Nat) : Nat := min 65535 (sum / 16)

/-- A cell's ACTIVE bit (R174). -/
def Cell.activeBy (c : Cell) (thr : Nat × Nat) : Bool :=
  c.intra || c.concealed || decide (thr.1 ≤ max c.mvx.natAbs c.mvy.natAbs) || decide (thr.2 ≤ c.resid)

/-- A reference that a cell predicts from is not held (R167). -/
def Pic.missing (p : Pic) (r : RawCell) : Bool := r.refs.any (fun n => !p.pool.any (fun q => q.seq == n))

/-- A cell of the map from what decoding it found (R171 to R174); `diff` is the luma difference to the previous decoded picture. -/
def Pic.cell (p : Pic) (still : Bool) (diff : Nat) (r : RawCell) : Cell :=
  let con := r.lost || p.missing r
  let base : Cell :=
    if still then
      if p.noPrev then { intra := true, concealed := con }
      else { resid := resid diff, skip := diff == 0, concealed := con }
    else { mvx := mvMean (fun v => v.1) r.mvs, mvy := mvMean (fun v => v.2.1) r.mvs, resid := resid r.residSum
           intra := r.intra, skip := r.skip, concealed := con }
  { base with active := base.activeBy p.thr }

/-! ### Concealment (R166, R169)

How a vector in sixteenths becomes a displacement in whole samples, and what a displaced position outside the reference picture reads,
the spec does not say: the model rounds to the nearest sample, ties away from zero, and takes the nearest sample of the picture (DESIGN
CHOICE, log entry 65). -/

/-- The nearest preceding reference picture in decode order (R166). -/
def Pic.nearest (p : Pic) : Option RefPic :=
  minBy? (fun r => (p.frame.seq + 2 ^ 32 - r.seq) % 2 ^ 32) p.pool

/-- The motion of a reference picture's cell at a plane's resolution, scaled by the picture distance; none for an intra cell and for a
still codec (R166, R209). -/
def RefPic.shift (r : RefPic) (still : Bool) (cell dist sub : Nat) : Int × Int :=
  match r.cells[cell]? with
  | some c => if c.intra || still then (0, 0) else (roundAway (c.mvx * (dist : Int)) (16 * sub), roundAway (c.mvy * (dist : Int)) (16 * sub))
  | none => (0, 0)

/-- The sample of a plane of `w` × `h` samples nearest to a position. -/
def planeAt (l : List Nat) (w h : Nat) (x y : Int) : Nat :=
  l.getD ((clampInt 0 ((h : Int) - 1) y).toNat * w + (clampInt 0 ((w : Int) - 1) x).toNat) 0

/-- Which plane: its samples in a picture, and its subsampling across and down. -/
def planeOf (p : Planes) (k : Nat) : List Nat := match k with | 0 => p.y | 1 => p.cb | _ => p.cr
def subOf (chroma k : Nat) : Nat × Nat :=
  if k = 0 then (1, 1) else if chroma = 1 then (2, 2) else if chroma = 2 then (2, 1) else (1, 1)

/-- The sample that takes a lost one's place (R166): the reference picture's, displaced; mid-grey when there is none (R169). -/
def Pic.concealAt (p : Pic) (still : Bool) (k x y : Nat) : Nat :=
  match p.nearest with
  | none => 2 ^ (p.pix.depth - 1)
  | some r =>
    let sub := subOf p.pix.chroma k
    let cell := (y * sub.2 / 16) * cdiv p.w 16 + x * sub.1 / 16
    let dist := (p.frame.seq + 2 ^ 32 - r.seq) % 2 ^ 32
    let dx := (r.shift still cell dist sub.1).1
    let dy := (r.shift still cell dist sub.2).2
    planeAt (planeOf r.pix.toPlanes k) (cdiv r.pix.w sub.1) (cdiv r.pix.h sub.2) ((x : Int) + dx) ((y : Int) + dy)

/-- A plane of the luma rows `y0` to `y1` - 1: what was reconstructed, and the concealed samples of lost cells. -/
def Pic.rowPlane (p : Pic) (still : Bool) (lost : Nat → Bool) (y0 y1 k : Nat) (given : List Nat) : List Nat :=
  if k ≠ 0 ∧ p.pix.chroma = 0 then []
  else
    let sub := subOf p.pix.chroma k
    let w := cdiv p.w sub.1
    let lo := cdiv y0 sub.2
    (List.range (cdiv y1 sub.2 - lo)).flatMap (fun j => (List.range w).map (fun x =>
      let y := lo + j
      if lost ((y * sub.2 / 16 - y0 / 16) * cdiv p.w 16 + x * sub.1 / 16) then p.concealAt still k x y else given.getD (j * w + x) 0))

/-- The planes of the luma rows `y0` to `y1` - 1. -/
def Pic.rowPlanes (p : Pic) (still : Bool) (lost : Nat → Bool) (y0 y1 : Nat) (given : Planes) : Planes :=
  { y := p.rowPlane still lost y0 y1 0 given.y, cb := p.rowPlane still lost y0 y1 1 given.cb, cr := p.rowPlane still lost y0 y1 2 given.cr }

/-- The luma difference of cell `i` of the rows from `y0` on to the previous decoded picture (R173): the sum of absolute differences. -/
def Pic.lumaDiff (p : Pic) (y0 y1 : Nat) (luma : List Nat) (i : Nat) : Nat :=
  match p.prev with
  | none => 0
  | some r =>
    let cx := i % cdiv p.w 16 * 16
    let cy := y0 + i / cdiv p.w 16 * 16
    sumNat ((List.range (min y1 (cy + 16) - cy)).map (fun j => sumNat ((List.range (min p.w (cx + 16) - cx)).map (fun x =>
      let a := luma.getD ((cy + j - y0) * p.w + cx + x) 0
      let b := r.pix.y.getD ((cy + j) * p.w + cx + x) 0
      (a - b) + (b - a)))))

/-- Planes one below the other. -/
def stackPlanes (a b : Planes) : Planes := { y := a.y ++ b.y, cb := a.cb ++ b.cb, cr := a.cr ++ b.cr }

/-- Rows of cells that become final with block row `n` (R153). -/
def Pic.cellRows (p : Pic) (n : Nat) : Nat :=
  let b := max 1 p.info.blockRows
  cdiv (min p.h ((n + 1) * b)) 16 - cdiv (min p.h (n * b)) 16

/-- DCLK cycle at which block row `n` finishes (R153). -/
def Pic.rowAt (p : Pic) (n : Nat) : Nat :=
  160 + cdiv ((p.cycles - 160) * min p.h ((n + 1) * max 1 p.info.blockRows)) (max 1 p.h)

/-- The cells of block row `n` as parsed: missing ones are lost, and of an ST 2110-20 frame those that a lost line touches (R166, R209). -/
def Pic.rawCells (p : Pic) (codec n : Nat) (cells : List RawCell) : List RawCell :=
  let want := cdiv p.w 16 * p.cellRows n
  let y0 := min p.h (n * max 1 p.info.blockRows)
  let got := cells.take want ++ List.replicate (want - cells.length) { lost := true }
  if codec = 0 then
    got.zipIdx.map (fun q =>
      let y := y0 + q.2 / cdiv p.w 16 * 16
      { q.1 with lost := (List.range (min p.h (y + 16) - y)).any (fun j => !p.frame.lines.contains (y + j)) })
  else got

/-- Block row `n` finishes in-loop filtering, with its lost cells concealed, and the row before it is handed over; the last row is handed
over at once.  A row's cells are final when its samples are handed over (R153). -/
def Pic.passRow (p : Pic) (codec : Nat) (cells : List RawCell) (rows : Planes) : Pic :=
  let n := p.rowsDone
  let b := max 1 p.info.blockRows
  let y0 := min p.h (n * b)
  let y1 := min p.h ((n + 1) * b)
  let still := stillCodec codec
  let raw := p.rawCells codec n cells
  let pl := p.rowPlanes still (fun i => match raw[i]? with | some r => r.lost | none => false) y0 y1 rows
  let new := raw.zipIdx.map (fun q => p.cell still (p.lumaDiff y0 y1 pl.y q.2) q.1)
  let lastRow := n + 1 == p.nRows
  let out := if lastRow then (p.held.1 ++ new, stackPlanes p.held.2 pl) else p.held
  { p with
    cells := p.cells ++ out.1, pix := { p.pix with toPlanes := stackPlanes p.pix.toPlanes out.2 }
    held := if lastRow then ([], {}) else (new, pl)
    rowsDone := n + 1, rowCycle := p.rowAt n, rowsPassed := if lastRow then n + 1 else n }

/-- Luma rows handed over to SHP (R153). -/
def Pic.lumaPassed (p : Pic) : Nat := min p.h (p.rowsPassed * max 1 p.info.blockRows)

/-! ### The end of a picture -/

/-- Concealed cells of a picture. -/
def Pic.concealedCells (p : Pic) : Nat := (p.cells.filter (fun c => c.concealed)).length

/-- Unusable (R169): nothing decoded, no reference to conceal from, or beyond CONCEAL_LIMIT. -/
def Pic.isUnusable (p : Pic) (limit : Nat) : Bool :=
  p.empty || (decide (0 < p.concealedCells) && (p.pool.isEmpty || decide (limit * p.cells.length < 64 * p.concealedCells)))

/-- Every cell of an unusable picture is VALID, ACTIVE and CONCEALED (R148, R174). -/
def Pic.markUnusable (p : Pic) : Pic :=
  let base := if p.empty then List.replicate (cdiv p.w 16 * cdiv p.h 16) ({} : Cell) else p.cells
  { p with unusable := true, cells := base.map (fun c => { c with active := true, concealed := true, valid := true }) }

/-- The pictures that a picture predicts from: the reference it names, or the most recent decoded picture in its place (R167). -/
def Pic.srcs (p : Pic) : List RefPic :=
  p.info.refs.filterMap (fun n => match p.pool.find? (fun r => r.seq == n) with | some r => some r | none => p.prev)

/-- The picture predicts from a picture with concealed cells, directly or through others (R168). -/
def Pic.isTainted (p : Pic) : Bool := !p.info.rap && p.srcs.any (fun r => r.concealed || r.tainted)

/-- What a decoded picture leaves as a reference. -/
def Pic.asRef (p : Pic) (concealed tainted : Bool) : RefPic :=
  { seq := p.frame.seq, tainted := tainted, concealed := concealed, bufs := p.own, pix := p.pix, cells := p.cells }

/-- The references held after a picture (R157, R168): those that its bitstream keeps, and the picture; at a random access point the marks
of those before it are cleared.  A picture of which nothing was decoded changes nothing. -/
def refsAfter (refs : List RefPic) (p : Pic) (r : RefPic) (dpb : Nat) : List RefPic :=
  if p.empty then refs
  else
    let kept := refs.filter (fun q => p.info.keep.contains q.seq)
    let old := if p.info.rap then kept.map (fun q => { q with tainted := false, concealed := false }) else kept
    let l := if p.info.mayRef then old ++ [r] else old
    l.drop (l.length - dpb)

/-- Counters of a picture (R139, R148, R168 to R170, R184, R185): a frame of which nothing is decoded counts as concealed, since every cell of its map is
(R148), and not as decoded. -/
def State.countPic (s : State) (e : Nat) (p : Pic) (concealed tainted unusable : Bool) : State :=
  let sc := s.scope p.stream
  let s0 := if p.empty then s else
    let a := if p.info.trailing = 0 then s else s.cnt 0x0209 sc p.info.trailing
    let b := if p.info.filmGrain then a.cnt 0x0208 sc else a
    (b.cnt 0x0200 sc).wr64 (Reg.DEC_PICS_LO e) (Reg.DEC_PICS_HI e) (b.rd64 (Reg.DEC_PICS_LO e) (Reg.DEC_PICS_HI e) + 1)
  let s1 := if p.refOnly then (s0.cnt 0x0206 sc).bump (Reg.DEC_STRM_STALE_REF_COUNT p.stream) else s0
  let s2 := if concealed then (s1.cnt 0x0201 sc).bump (Reg.DEC_STRM_CONCEALED_COUNT p.stream) else s1
  let s3 := if tainted then s2.cnt 0x0202 sc else s2
  if unusable ∧ p.refOnly = false then (s3.cnt 0x0203 sc).bump (Reg.DEC_STRM_SUBST_COUNT p.stream) else s3

/-- Streams placed for their moves: each in stream order, by R144 or, where that fails, on the engine with the most
unreserved pixel rate (R187). -/
def State.placeMove (s : State) (st : Nat) : State :=
  let x := s.stream st
  let away := s.setStream st { x with movingTo := some 8 }
  let dest := match away.place x.k with
    | some e => some e
    | none => away.roomiest ((List.range 8).filter away.engineUp)
  match dest with
  | some e => s.setStream st { x with movingTo := some e }
  | none => away

/-- Every stream of an engine begins its move (R187). -/
def State.beginMoves (s : State) (e : Nat) : State :=
  ((List.range 128).filter (fun st => s.strm st != 0 && s.strm st != 5 && s.strmEngine st == e)).foldl (fun s st =>
    let s1 := s.setStream st { s.stream st with prior := s.strm st }
    (s1.wr (Reg.DEC_STRM_STATE_STATE st) 5).placeMove st) s

/-- The decoder's part of a stream's frame checkpoint, the latest one taken, becomes its context again (R160, R187): references whose
buffers are still held, parameter sets and the sparse run. -/
def State.resumeDec (s : State) (st : Nat) : State :=
  let x := s.stream st
  match x.cks.getLast?.or x.ckpt with
  | some k =>
    let ok := x.bufs ++ x.oldBufs
    let refs := k.refs.filter (fun r => r.bufs.all (fun b => ok.contains b))
    let same := k.seqHdr == x.seqHdr
    let s1 := s.setStream st { x with refs := refs, last := k.last, seqHdr := if same then x.seqHdr else none }
    (if same then s1 else s1.setReg (Reg.DEC_STRM_DIMS st) 0).wr (Reg.DEC_STRM_SPARSE_RUN st) k.sparse
  | none => ((s.setStream st { x with refs := [], last := none, seqHdr := none }).setReg (Reg.DEC_STRM_DIMS st) 0).wr
      (Reg.DEC_STRM_SPARSE_RUN st) 0

/-- What the shaper took of a picture that is decoded again is shaped anew: its samples keep their slots (R259). -/
def State.reshape (s : State) (st n : Nat) : State :=
  { s with shp := { s.shp with batches := s.shp.batches.map (fun b => { b with samples := b.samples.map (fun x =>
    if x.rcd.stream = st ∧ x.rcd.frame = n ∧ x.complete = false then { x with px := [], data := [] } else x) }) } }

/-- A picture that an engine gives up is decoded again later, from the stream's frame checkpoint: its frame goes back to the head of its
stream's list (R187, R259). -/
def State.undoPic (s : State) (p : Pic) : State :=
  let s1 := p.bufs.foldl (fun s b => s.freeAll b.1 b.2) (s.reshape p.stream p.frame.seq)
  let x := s1.stream p.stream
  if s1.strm p.stream = 0 ∨ x.haltCode ≠ 0 then s1
  else
    (s1.setStream p.stream { x with frames := { p.frame with stale := p.frame.stale || p.refOnly } :: x.frames, forceNext := x.forceNext || (p.forced && !p.info.rap)
                                    refsFrom := p.refsFrom }).resumeDec p.stream

/-- An engine in LEHR whose streams have all moved: OFFLINE, or IDLE after a latched return (R185, R188). -/
def State.movesDone (s : State) (e : Nat) : State :=
  if (List.range 128).any (fun st => s.strm st != 0 && s.strmEngine st == e) then s
  else if s.engineSt e = 2 then s.setEngineSt e 4
  else if s.engineSt e = 3 then s.setEngineSt e 0
  else s

/-- The engine's current picture is over: the chosen one starts, or the engine idles; an engine in lehr finishes no further picture and
moves its streams (R154, R185). -/
def State.nextPic (s : State) (e : Nat) : State :=
  let g := s.engine e
  let s1 := (s.setEngine e { g with cur := none, chosen := none }).wr (Reg.DEC_STATUS_CUR_VALID e) 0
  if s1.engineSt e = 2 ∨ s1.engineSt e = 3 then
    ((match g.chosen with | some p => s1.undoPic p | none => s1).beginMoves e).movesDone e
  else
    let s2 := if s1.engineSt e = 1 then s1.setEngineSt e 0 else s1
    match g.chosen with
    | some p => s2.engage e p
    | none => s2

/-- What a finished picture leaves in its stream: references, the most recent decoded picture, and the checkpoint's part (R149, R158,
R160). -/
def State.noteDone (s : State) (p : Pic) (concealed tainted : Bool) : State :=
  let x := s.stream p.stream
  if s.strm p.stream = 0 ∨ x.haltCode ≠ 0 then s
  else
    let dpb := match x.seqHdr with | some q => q.dpb | none => 0
    let r := p.asRef concealed tainted
    let refs := (refsAfter x.refs p r dpb).filter (heldFrom x.refsFrom)
    let last := (if p.empty then x.last else some r).filter (heldFrom x.refsFrom)
    let ck : Ckpt := { seq := p.frame.seq, seqHdr := x.seqHdr, refs := refs, last := last, cut := p.frame.discont
                       sparse := s.rd (Reg.DEC_STRM_SPARSE_RUN p.stream) }
    (s.setStream p.stream { x with refs := refs, last := last, cks := x.cks ++ [ck] }).freeOld p.stream

/-- PN_FLAGS of the pennants of a picture's frame: STAND_IN and not CONCEALED for an unusable picture (R31, R40, R169). -/
def picFlags (concealed unusable : Bool) : Nat := if unusable then 1 else if concealed then 2 else 0

/-- DEC_PICTURE_DONE (R152, R160, R168, R169). -/
def execDecPictureDone (engine : Nat) (s : State) : Host.Outcome State Fault Refusal :=
  match (s.engine engine).cur with
  | none => .next s
  | some p =>
    if (p.empty = false ∧ p.rowsDone < p.nRows) ∨ s.sched.saving = true then .next s
    else
      let concealed := p.empty || decide (0 < p.concealedCells)
      let tainted := p.isTainted
      let bad := p.isUnusable (s.contractField p.stream 248 8)
      let p1 := { (if bad then p.markUnusable else p) with concealed := concealed, tainted := tainted, done := true }
      let s1 := s.countPic engine p concealed tainted bad
      let s2 := if concealed = true ∧ p.pool.isEmpty = true ∧ p.empty = false then s1.decErr p.stream 0x0208 else s1
      let s3 := ((s2.setEngine engine { s2.engine engine with cur := none }).freeFrame p.frame).noteDone p concealed tainted
      let s4 := if p.refOnly then s3
        else
          let x := s3.stream p.stream
          let s' := { s3.setStream p.stream { x with lastFull := if bad then p.frame.seq else x.lastFull } with
            dec := { s3.dec with pics := s3.dec.pics ++ [p1] } }
          match s'.frameJob? p.stream p.frame.seq with
          | some j => s'.updJob j.id (fun j => { j with flags := j.flags ||| picFlags concealed bad })
          | none => s'
      .next ((s4.nextPic engine).settle p.stream)

/-! ### Engines out of service -/

/-- DEC_OFFLINE (R185, R188): OFFLINE written 1. -/
def execDecOffline (engine : Nat) (s : State) : Host.Outcome State Fault Refusal := s.bar (Reg.DEC_CTRL engine) fun s =>
  let s1 := s.wr (Reg.DEC_CTRL_OFFLINE engine) 1
  let st := s1.engineSt engine
  if st = 0 ∨ st = 1 then
    let s2 := s1.setEngineSt engine 2
    if (s2.engine engine).cur.isSome then .next s2 else .next ((s2.beginMoves engine).movesDone engine)
  else if st = 3 then .next (s1.setEngineSt engine 2)
  else .next s1

/-- Streams that found no engine are placed when one returns (R187). -/
def State.placeWaiting (s : State) : State :=
  ((List.range 128).filter (fun st => s.strm st == 5 && (s.stream st).movingTo == some 8)).foldl State.placeMove s

/-- DEC_ONLINE (R185, R188): OFFLINE written 0. -/
def execDecOnline (engine : Nat) (s : State) : Host.Outcome State Fault Refusal := s.bar (Reg.DEC_CTRL engine) fun s =>
  let s1 := s.wr (Reg.DEC_CTRL_OFFLINE engine) 0
  let st := s1.engineSt engine
  if st = 2 then .next (s1.setEngineSt engine 3)
  else if st = 4 then .next ((s1.setEngineSt engine 0).placeWaiting)
  else .next s1

/-! ### The DECODE instruction -/

/-- A cell is active after dilation by `d` cells on every side (R176). -/
def dilated (cells : List Cell) (w h d : Nat) (i : Nat) : Bool :=
  let x := i % w
  let y := i / w
  (List.range (2 * d + 1)).any (fun dy => (List.range (2 * d + 1)).any (fun dx =>
    decide (d ≤ y + dy ∧ d ≤ x + dx ∧ y + dy - d < h ∧ x + dx - d < w) &&
      (match cells[(y + dy - d) * w + (x + dx - d)]? with | some c => c.active | none => false)))

/-- DECODE (R182): the picture of the job's frame is decoded, and its activity map is the node's output (R171, R175). -/
def execDecode (job node : Nat) (s : State) : Host.Outcome State Fault Refusal :=
  match s.nodeFor job node 0x20 with
  | none => .next s
  | some (j, w) =>
    match s.dec.pics.find? (fun p => p.stream == j.stream && p.frame.seq == j.frameSeq) with
    | none => .next s
    | some p =>
      let cw := cdiv p.w 16
      let ch := cdiv p.h 16
      let gated := bitsOf w 32 1 = 1 ∧ p.forced = false ∧ p.unusable = false
      let quiet := if gated then
        ((List.range (cw * ch)).filter (fun i => !dilated p.cells cw ch (bitsOf w 36 4) i)).length else 0
      let s1 := if quiet = 0 then s else s.cnt 0x0207 (s.scope j.stream) quiet
      .next (s1.commitNode job node (.map cw ch p.cells p.noPrev))

end Sys2Proof.Machine
end

