-- ==== Sys2Proof/Machine/Shp.lean ====
section
/-! DEFINITION. Input shapers (chapter 06): slots, batches, stand-ins, and the SHAPE and CROP_RESIZE instructions. -/

set_option Elab.async false

namespace Sys2Proof.Machine

/-! ### Fields of the words (R269) -/

def shpDesc (w : Nat) : Nat := bitsOf w 80 16
def shpSrc (w : Nat) : Nat := bitsOf w 64 16
def shpBatchN (w : Nat) : Nat := if wOpc w = 0x21 then bitsOf w 56 8 else bitsOf w 40 8
def shpDest (w : Nat) : Nat := if wOpc w = 0x21 then bitsOf w 54 2 else bitsOf w 38 2
def shpKeep (w : Nat) : Bool := wOpc w == 0x21 && bitsOf w 53 1 == 1
def cropBoxNode (w : Nat) : Nat := bitsOf w 48 16
def cropOver (w : Nat) : Nat := bitsOf w 37 1

/-- The descriptor a word of a program names. -/
def State.descOf (s : State) (prog i : Nat) : Nat := ((s.prog prog).descs.getD i 0).toNat

/-! ### Counts and errors -/

/-- Add the counts of conversions to the counters of a core or shaper (R381). -/
def State.numCount (s : State) (scope : Nat) (c : NumCnt) : State :=
  [(0x0700, c.sat), (0x0701, c.nan), (0x0702, c.zeroed), (0x0703, c.accSat), (0x0704, c.accInf), (0x0705, c.clamp)].foldl
    (fun s x => if x.2 = 0 then s else s.cnt x.1 scope x.2) s

/-- Record a code of class 0x04 (R273, R274). -/
def State.shpErr (s : State) (e st code : Nat) (d0 d1 : Nat := 0) : State :=
  (s.setErr (Reg.SHP_ERR e) true (16, 8, st) code).file .shp st code d0 d1

/-- SHP_STATUS follows the shaper's batches (R273). -/
def State.shpNote (s : State) (e : Nat) : State :=
  let open_ := s.shp.batches.filter (fun b => b.shp == e && b.closed.isNone)
  let mask := (List.range 4).foldl (fun m c => if open_.any (fun b => b.svc == c) then m + 2 ^ c else m) 0
  let s1 := s.wr (Reg.SHP_STATUS_OPEN e) mask
  let st := s1.rd (Reg.SHP_STATUS_STATE e)
  if st = 3 ∨ st = 4 then s1
  else if s.shp.stalled.contains e ∨ s.shp.rowStall.contains e then s1.wr (Reg.SHP_STATUS_STATE e) 2
  else if s.shp.batches.any (fun b => b.shp == e && b.samples.any (fun x => !x.complete)) then s1.wr (Reg.SHP_STATUS_STATE e) 1
  else s1.wr (Reg.SHP_STATUS_STATE e) 0

/-! ### Batches -/

/-- Change the batches that satisfy `p`. -/
def State.updBatches (s : State) (p : Batch → Bool) (f : Batch → Batch) : State :=
  { s with shp := { s.shp with batches := s.shp.batches.map (fun b => if p b then f b else b) } }

/-- Open batches of a shaper that satisfy `p` close with a cause (R257). -/
def State.closeBatches (s : State) (p : Batch → Bool) (cause : Nat) : State :=
  s.updBatches (fun b => b.closed.isNone && p b) (fun b => { b with closed := some cause })

/-- A stream moves or enters lehr: the batches that hold a sample of it close (R257, R259). -/
def State.closeStream (s : State) (st : Nat) : State :=
  let s1 := s.closeBatches (fun b => b.samples.any (fun x => x.rcd.stream == st)) 3
  (List.range 8).foldl State.shpNote s1

/-- The next BATCH_SEQ of a node, shaper and class (R255). -/
def State.nextSeq (s : State) (k : NodeKey) (e svc : Nat) : Nat :=
  match s.shp.seqs.find? (fun q => q.1 == k && q.2.1 == e && q.2.2.1 == svc) with
  | some q => q.2.2.2
  | none => 0

/-- Count a BATCH_SEQ as used. -/
def State.useSeq (s : State) (k : NodeKey) (e svc : Nat) : State :=
  let n := (s.nextSeq k e svc + 1) % 2 ^ 32
  { s with shp := { s.shp with
      seqs := (k, e, svc, n) :: s.shp.seqs.filter (fun q => !(q.1 == k && q.2.1 == e && q.2.2.1 == svc)) } }

/-- Bytes of a core's tile store that DEST 1 batches leave (R239, R324). -/
def State.storeRoom (s : State) (c : Nat) : Nat :=
  1572864 - sumNat ((s.shp.batches.filter (fun b => b.core == some c)).map (·.room))

/-- The core of cluster `e` that takes a DEST 1 batch: the one in service with the most room, ties to the lower core.  Where SCHED will
have placed the consuming node's first tile jobs, the spec does not say before the batch exists (DESIGN CHOICE, log entry 66). -/
def State.batchCore (s : State) (e bytes : Nat) : Option Nat :=
  minBy? (fun c => 1572864 - s.storeRoom c)
    (((List.range 8).map (fun i => 8 * e + i)).filter (fun c => decide (s.coreState c < 2) && decide (bytes ≤ s.storeRoom c)))

/-- A batch with its room at the destination (R239, R240): none while there is none. -/
def State.openBatch (s : State) (k : NodeKey) (e svc n dest bytes ticket : Nat) : State × Option Batch :=
  let b : Batch := { key := k, shp := e, svc := svc, seq := s.nextSeq k e svc, n := n, first := s.time.mono }
  let size := 64 + n * (64 + bytes)
  if dest = 2 then
    let d := poolFit size
    match s.draw 5 d.1 d.2 svc ticket false with
    | (s1, some l) => (s1.useSeq k e svc, some { b with bufs := some (d.1, l) })
    | (s1, none) => (s1, none)
  else if dest = 0 then
    match s.pin e svc size b.holder with
    | some s1 => (s1.useSeq k e svc, some b)
    | none => (s, none)
  else
    match s.batchCore e size with
    | some c => (s.useSeq k e svc, some { b with core := some c, room := size })
    | none => (s, none)

/-- The shaper stalls for room (R240): counted once per stall. -/
def State.shpStall (s : State) (e : Nat) : State :=
  if s.shp.stalled.contains e then s
  else
    let s1 := { s with shp := { s.shp with stalled := e :: s.shp.stalled } }
    (s1.bump (Reg.SHP_STALLS_COUNT e)).shpNote e

/-- The shaper finds lines for its source rows, or stalls for them (R237, R240). -/
def State.rowRoom (s : State) (e : Nat) (ok : Bool) : State :=
  if ok then
    if s.shp.rowStall.contains e then ({ s with shp := { s.shp with rowStall := s.shp.rowStall.erase e } } : State).shpNote e else s
  else if s.shp.rowStall.contains e then s
  else
    let s1 : State := { s with shp := { s.shp with rowStall := e :: s.shp.rowStall } }
    (s1.bump (Reg.SHP_STALLS_COUNT e)).shpNote e

/-- A sample takes the next slot of the open batch, or of a new one (R255, R256); the batch closes when it is full
(R257).  None when the shaper stalls for room. -/
def State.takeSlotIn (s : State) (k : NodeKey) (e svc n dest bytes ticket : Nat) (x : Sample) : Option State :=
  let put := fun (s : State) (b : Batch) (fresh : Bool) =>
    let y := { x with rcd := { x.rcd with slot := b.samples.length } }
    let b' := { b with samples := b.samples ++ [y]
                       closed := if b.samples.length + 1 = n then some 0 else none }
    let bs := if fresh then s.shp.batches ++ [b']
      else s.shp.batches.map (fun q => if q.key == k && q.shp == e && q.svc == svc && q.seq == b.seq then b' else q)
    ({ s with shp := { s.shp with batches := bs, stalled := s.shp.stalled.erase e } } : State).shpNote e
  match s.shp.batches.find? (fun b => b.key == k && b.shp == e && b.svc == svc && b.closed.isNone) with
  | some b => some (put s b false)
  | none =>
    match s.openBatch k e svc n dest bytes ticket with
    | (s1, some b) => some (put s1 b true)
    | (_, none) => none

/-! ### Samples -/

/-- The key of a job's node. -/
def Job.nodeKey (j : Job) (node : Nat) : NodeKey := { prog := j.prog, route := j.route, node := node }

/-- Is it the sample of a frame and object in a node's batch? -/
def isSample (st seq obj : Nat) (x : Sample) : Bool := x.rcd.stream == st && x.rcd.frame == seq && x.rcd.objIndex == obj

/-- The samples of a frame in the batches of a node. -/
def State.samplesOf (s : State) (k : NodeKey) (st seq : Nat) : List Sample :=
  (s.shp.batches.filter (fun b => b.key == k)).flatMap (fun b =>
    b.samples.filter (fun x => x.rcd.stream == st && x.rcd.frame == seq))

/-- Change the samples of a node that satisfy `p`. -/
def State.updSamples (s : State) (k : NodeKey) (p : Sample → Bool) (f : Sample → Sample) : State :=
  s.updBatches (fun b => b.key == k) (fun b => { b with samples := b.samples.map (fun x => if p x then f x else x) })

/-- The shaper of a batch that holds a sample. -/
def State.shaperOf (s : State) (k : NodeKey) (st seq obj : Nat) : Nat :=
  match s.shp.batches.find? (fun b => b.key == k && b.samples.any (isSample st seq obj)) with
  | some b => b.shp
  | none => s.strmEngine st

/-- The picture of a frame, decoded or in its engine: only there are its rows handed over block row by block row. -/
def State.picOfFrame (s : State) (st seq : Nat) : Option Pic :=
  match s.dec.pics.find? (fun p => p.stream == st && p.frame.seq == seq) with
  | some p => some p
  | none =>
    match (s.engine (s.strmEngine st)).cur with
    | some p => if p.stream = st ∧ p.frame.seq = seq ∧ p.refOnly = false then some p else none
    | none => none

/-- The decoded picture of a frame. -/
def State.donePic (s : State) (st seq : Nat) : Option Pic :=
  s.dec.pics.find? (fun p => p.stream == st && p.frame.seq == seq)

/-- The record of a sample (R261). -/
def State.record (s : State) (j : Job) (m : List Nat) (obj track : Nat) : SampleRec :=
  let gap := (List.range 64).any (fun r => (tget (fun _ => []) s.hif.gaps (j.stream * 64 + r)).any (fun g => !seqBefore j.frameSeq g))
  { dev := s.rd Reg.LNK_TOPO_MY_DEV, stream := j.stream, svc := j.svc, frame := j.frameSeq, pts := j.pts, ct := j.ct, objIndex := obj, trackId := track
    sflags := j.flags ||| (if gap then 0x80 else 0), m := m
    au := match j.kind with | .frame _ _ au => au | _ => none }

/-- Earlier frames of the stream on the same route have all taken their slots at a node (R256). -/
def State.slotsInOrder (s : State) (j : Job) (node : Nat) : Bool :=
  !(s.jobs.any (fun q => q.stream == j.stream && q.prog == j.prog && q.route == j.route && seqBefore q.frameSeq j.frameSeq &&
    (match q.kind with | .frame _ _ _ => true | _ => false) && !(q.node node).queued && !(q.node node).committed &&
    (s.samplesOf (q.nodeKey node) q.stream q.frameSeq).isEmpty))

/-- A stand-in of a SHAPE sample (R262 to R265): the kept sample with its map, or a fill sample. -/
def State.standIn (s : State) (e : Nat) (k : NodeKey) (keep : Bool) (d : Nat) (x : Sample) : State × Sample :=
  let sc := s.scope x.rcd.stream
  match (if keep then s.shp.kept.find? (fun q => q.stream == x.rcd.stream && q.key == k) else none) with
  | some q =>
    ((s.cnt 0x0401 sc).bump (Reg.SHP_STANDIN_LAST_COUNT e),
     { x with data := q.sample.data, standIn := true, rcd := { x.rcd with m := q.sample.rcd.m } })
  | none =>
    let f := fillSample d
    ((s.cnt 0x0402 sc).bump (Reg.SHP_STANDIN_FILL_COUNT e), { x with data := f.1, standIn := true })

/-- An earlier good sample of the stream at the node is still being written (R264). -/
def State.goodInProgress (s : State) (k : NodeKey) (st seq : Nat) : Bool :=
  s.shp.batches.any (fun b => b.key == k && b.samples.any (fun x =>
    x.rcd.stream == st && seqBefore x.rcd.frame seq && !x.complete && !x.standIn))

/-- Bytes of `n` source rows as DEC passes them: samples packed as in R157 (DEDUCED, log entry 66). -/
def srcRowBytes (p : Picture) (n : Nat) : Nat := n * cdiv (p.w * chromaF2 p.chroma * (if p.depth = 8 then 4 else 5)) 8

/-- The output rows that the handed-over rows allow are shaped into a sample (R237, R243 to R250); the source rows still needed are held
in the station buffer's ways of the class. -/
def State.shapeOn (s : State) (j : Job) (node w : Nat) (p : Pic) (x : Sample) : State :=
  let k := j.nodeKey node
  let d := s.descOf j.prog (shpDesc w)
  let e := s.shaperOf k j.stream j.frameSeq 0xFFFF
  let v := shapeWindow d p.w p.h
  let lo := x.px.length / max 1 (shTW d)
  let hi := if p.done then shTH d else rowsFit d p.pix v p.lumaPassed lo
  let new := shapeRows d p.pix v lo hi
  let px := x.px ++ new.map (fun q => q.map (·.1))
  let cnt := new.foldl (fun a q => q.foldl (fun a x => a.add x.2) a) ({} : NumCnt)
  let s1 := (s.numCount (0x100 + e) cnt).updSamples k (isSample j.stream j.frameSeq 0xFFFF) (fun x =>
    { x with px := px, data := if hi = shTH d then layOut d px else [] })
  let rows := PinFor.rows j.stream j.frameSeq node
  let held := if p.done ∨ shAngle d ≠ 0 then 0 else srcRowsHeld d p.pix v p.lumaPassed hi
  let s2 := s1.unpinIf (· == rows)
  if held = 0 then s2.rowRoom e true
  else
    match s2.pin e j.svc (srcRowBytes p.pix held) rows with
    | some s3 => s3.rowRoom e true
    | none => s2.rowRoom e false

/-- A SHAPE sample gets its values, as far as its picture is handed over (R237, R241 to R250, R262, R266). -/
def State.fillShape (s : State) (j : Job) (node w : Nat) : State :=
  let k := j.nodeKey node
  match s.picOfFrame j.stream j.frameSeq, (s.samplesOf k j.stream j.frameSeq).head? with
  | some p, some x =>
    if x.data.isEmpty = false then s
    else
      let d := s.descOf j.prog (shpDesc w)
      let e := s.shaperOf k j.stream j.frameSeq 0xFFFF
      if p.unusable ∨ x.standIn then
        if p.done = false ∨ (shpKeep w && s.goodInProgress k j.stream j.frameSeq) then s
        else
          let r := s.standIn e k (shpKeep w) d { x with px := [] }
          (r.1.updSamples k (isSample j.stream j.frameSeq 0xFFFF) (fun _ => r.2)).unpinIf (· == .rows j.stream j.frameSeq node)
      else if shAngle d = 0 ∨ p.done = true then s.shapeOn j node w p x
      else s
  | _, _ => s

/-! ### Rows from DEC -/

/-- Every streaming SHAPE sample of a picture takes the rows handed over (R237). -/
def State.streamRows (s : State) (p : Pic) : State :=
  match s.frameJob? p.stream p.frame.seq with
  | none => s
  | some j =>
    if p.refOnly then s
    else ((s.prog j.prog).routeWords j.route).zipIdx.foldl (fun s q =>
      if wOpc q.1 = 0x21 ∧ shAngle (s.descOf j.prog (shpDesc q.1)) = 0 then s.fillShape j q.2 q.1 else s) s

/-- Failed units and skipped bytes of a block row are counted (R165). -/
def State.countRow (s : State) (st failed resync : Nat) : State :=
  let s1 := if resync = 0 then s else s.cnt 0x0205 (s.scope st) resync
  if failed = 0 then s1
  else ((s1.cnt 0x0204 (s.scope st) failed).bump (Reg.DEC_STRM_SYNTAX_COUNT st) failed).decErr st 0x0207

/-- DEC_BLOCK_ROW_DONE (R153, R165, R166, R185, R240): block row by block row the picture's cells and samples become final and are handed
over; `failed` units were discarded in the row, `resync` bytes skipped, and `misses` lines missed the reference cache.  While the shaper
stalls, DEC stalls at its next hand-off, and while the whole device is saved its engines stand (R559). -/
def execDecBlockRowDone (engine : Nat) (cells : List RawCell) (rows : Planes) (failed resync misses : Nat) (s : State) :
    Host.Outcome State Fault Refusal :=
  match (s.engine engine).cur with
  | none => .next s
  | some p =>
    if p.empty = true ∨ p.nRows ≤ p.rowsDone ∨ s.sched.saving = true then .next s
    else
      let s0 := s.streamRows p
      if p.refOnly = false ∧ (0 < p.rowsDone ∨ p.nRows = 1) ∧ (s0.shp.stalled.contains engine ∨ s0.shp.rowStall.contains engine) then .next s0
      else
        let p1 := p.passRow (kCodec (s.stream p.stream).k) cells rows
        let s1 := (s0.setEngine engine { s0.engine engine with cur := some p1 }).countRow p.stream failed resync
        .next ((s1.bump (Reg.DEC_CACHE_MISS_MISSES engine) misses).streamRows p1)

/-! ### SHAPE -/

/-- SHP_SAMPLE_SLOT (R256, R266): a streaming sample when its picture starts at DEC, any other when its last block row is
handed over. -/
def execShpSampleSlot (stream seq node : Nat) (s : State) : Host.Outcome State Fault Refusal :=
  match s.frameJob? stream seq with
  | none => .next s
  | some j =>
    match s.jobWord j node, s.picOfFrame stream seq with
    | some w, some p =>
      let d := s.descOf j.prog (shpDesc w)
      let due := shAngle d = 0 ∨ p.done = true
      if wOpc w = 0x21 ∧ due ∧ s.sched.saving = false ∧ (s.samplesOf (j.nodeKey node) stream seq).isEmpty = true ∧ (j.node node).committed = false ∧
          s.slotsInOrder j node = true then
        let e := s.strmEngine stream
        let test := s.rd (Reg.SHP_CTRL_TEST_STANDIN e) == 1
        let x : Sample := { rcd := s.record j (affine d (shapeWindow d p.w p.h)) 0xFFFF 0, standIn := test }
        match s.takeSlotIn (j.nodeKey node) e j.svc (shpBatchN w) (shpDest w) (shBytes d) j.ticket x with
        | none => .next (s.shpStall e)
        | some s1 =>
          let s2 := if test then s1.wr (Reg.SHP_CTRL_TEST_STANDIN e) 0 else s1
          .next (s2.fillShape j node w)
      else .next s
    | _, _ => .next s

/-- SHAPE (R237, R241): the picture is shaped into the sample's slot, as far as its rows are handed over; the node has run once the
sample has all its values. -/
def execShape (job node : Nat) (s : State) : Host.Outcome State Fault Refusal :=
  match s.nodeFor job node 0x21 with
  | none => .next s
  | some (j, w) =>
    let s1 := if s.sched.saving then s else s.fillShape j node w
    let full := (s1.samplesOf (j.nodeKey node) j.stream j.frameSeq).any (fun x => !x.data.isEmpty)
    .next (if full then s1.updNode job node (fun n => { n with ran := true, queued := true }) else s1)

/-- The stream's checkpoint part of a frame takes the sample kept from it (R131, R263). -/
def State.keepInCk (s : State) (q : Kept) : State :=
  let x := s.stream q.stream
  s.setStream q.stream { x with cks := x.cks.map (fun k =>
    if k.seq = q.sample.rcd.frame then { k with kept := q :: k.kept.filter (fun r => r.key != q.key) } else k) }

/-- The kept sample of a stream at a node after a good sample (R263): a second buffer is drawn and the first freed; a draw
that fails leaves no copy and records SHP_FILL_USED (R264, R274). -/
def State.keepSample (s : State) (e : Nat) (k : NodeKey) (x : Sample) (bytes ticket : Nat) : State :=
  let st := x.rcd.stream
  let d := poolFit bytes
  let old := s.shp.kept.find? (fun q => q.stream == st && q.key == k)
  let free := fun (s : State) => match old with | some q => s.freeAll q.bufs.1 q.bufs.2 | none => s
  let rest := fun (s : State) => s.shp.kept.filter (fun q => !(q.stream == st && q.key == k))
  match s.draw 5 d.1 d.2 x.rcd.svc ticket true with
  | (s1, some l) =>
    let s2 := free s1
    let q : Kept := { stream := st, key := k, sample := x, bufs := (d.1, l) }
    ({ s2 with shp := { s2.shp with kept := rest s2 ++ [q] } } : State).keepInCk q
  | (s1, none) =>
    let s2 := free s1
    ({ s2 with shp := { s2.shp with kept := rest s2 } } : State).shpErr e st 0x0404

/-- SHP_SAMPLE_DONE (R258, R263, R268): a sample with its values is complete; a good one becomes the kept sample. -/
def execShpSampleDone (stream seq node objIndex : Nat) (s : State) : Host.Outcome State Fault Refusal :=
  match s.frameJob? stream seq with
  | none => .next s
  | some j =>
    let k := j.nodeKey node
    match s.jobWord j node, (s.samplesOf k stream seq).find? (isSample stream seq objIndex) with
    | some w, some x =>
      if x.data.isEmpty = true ∨ x.complete = true then .next s
      else
        let e := s.shaperOf k stream seq objIndex
        let usable := match s.donePic stream seq with | some p => !p.unusable | none => false
        let flags := (if x.standIn then (j.flags &&& 0xFFD) ||| 1 else j.flags) ||| (x.rcd.sflags &&& 0x80)
        let y := { x with complete := true, rcd := { x.rcd with sflags := flags } }
        let s0 := if x.standIn then s.updJob j.id (fun j => { j with flags := (j.flags &&& 0xFFD) ||| 1 }) else s
        let s1 := s0.updSamples k (isSample stream seq objIndex) (fun _ => y)
        let s2 := (s1.cnt 0x0400 (s1.scope stream)).wr64 (Reg.SHP_SAMPLES_LO e) (Reg.SHP_SAMPLES_HI e)
          (s1.rd64 (Reg.SHP_SAMPLES_LO e) (Reg.SHP_SAMPLES_HI e) + 1)
        let s3 := if shpKeep w && usable && !x.standIn then
          s2.keepSample e k y (shBytes (s.descOf j.prog (shpDesc w))) j.ticket else s2
        .next (s3.shpNote e)
    | _, _ => .next s

/-! ### CROP_RESIZE -/

/-- A box element of a list (R45). -/
def boxOf (x : Nat) : Box :=
  { x0 := bitsOf x 0 16, y0 := bitsOf x 16 16, x1 := bitsOf x 32 16, y1 := bitsOf x 48 16, score := bitsOf x 64 16
    cls := bitsOf x 80 16, trackId := bitsOf x 96 32 }

/-- The box list that a CROP_RESIZE node reads for its job's picture (R251): each box with its OBJ_INDEX. -/
def Job.boxes (j : Job) (w : Nat) : Option (List (Nat × Box)) :=
  let n := cropBoxNode w
  match j.out? n with
  | some (.lists l) =>
    let own := (j.node n).own.headD 0
    some ((l.lists.getD own []).zipIdx.map (fun (x, i) => (i, boxOf x)))
  | _ => none

/-- The MAX_BOXES boxes of highest SCORE, ties to the lower OBJ_INDEX, in list order (R253). -/
def keepBest (max : Nat) (l : List (Nat × Box)) : List (Nat × Box) :=
  let rank := sortBy (fun (a b : Nat × Box) => decide (b.2.score < a.2.score) || (a.2.score == b.2.score && decide (a.1 ≤ b.1))) l
  let keep := (rank.take max).map (·.1)
  l.filter (fun x => keep.contains x.1)

/-- A box with X1 ≤ X0 or Y1 ≤ Y0 (R252). -/
def boxDegenerate (b : Box) : Bool := decide (b.x1 ≤ b.x0) || decide (b.y1 ≤ b.y0)

/-- The boxes that get slots, in list order: none while room is missing. -/
def State.cropSlots (s : State) (j : Job) (node w d : Nat) : List (Nat × Box) → Option State
  | [] => some s
  | (i, b) :: t =>
    let m := if boxDegenerate b then List.replicate 6 0 else affine d (boxWindow d b)
    let x : Sample := { rcd := s.record j m i b.trackId }
    match s.takeSlotIn (j.nodeKey node) (s.strmEngine j.stream) j.svc (shpBatchN w) (shpDest w) (shBytes d) j.ticket x with
    | none => none
    | some s1 => State.cropSlots s1 j node w d t

/-- A crop sample gets its values (R251, R252, R264). -/
def State.fillCrop (s : State) (j : Job) (node d : Nat) (p : Pic) (q : Nat × Box) : State :=
  let k := j.nodeKey node
  let e := s.shaperOf k j.stream j.frameSeq q.1
  let upd := fun (s : State) (data : List Nat) (si : Bool) =>
    s.updSamples k (isSample j.stream j.frameSeq q.1) (fun x => if x.data.isEmpty then { x with data := data, standIn := si } else x)
  if p.unusable then
    let s1 := (s.cnt 0x0402 (s.scope j.stream)).bump (Reg.SHP_STANDIN_FILL_COUNT e)
    upd s1 (fillSample d).1 true
  else if boxDegenerate q.2 then upd ((s.cnt 0x0404 (s.scope j.stream)).shpErr e j.stream 0x0405) (bandSample d).1 false
  else
    let v := shapeSample d p.pix (boxWindow d q.2)
    upd (s.numCount (0x100 + e) v.2) v.1 false

/-- The values of every crop sample of a job that holds a slot without values. -/
def State.fillCrops (s : State) (j : Job) (node w : Nat) (p : Pic) (l : List (Nat × Box)) : State :=
  let d := s.descOf j.prog (shpDesc w)
  let due := (s.samplesOf (j.nodeKey node) j.stream j.frameSeq).filter (fun x => x.data.isEmpty)
  (l.filter (fun q => due.any (fun x => x.rcd.objIndex == q.1))).foldl (fun s q => s.fillCrop j node d p q) s

/-- BOX_LIST_ARRIVAL (R251 to R253, R256): one slot per box; the list may be over MAX_BOXES, or empty. -/
def execBoxListArrival (job node : Nat) (s : State) : Host.Outcome State Fault Refusal :=
  match s.nodeFor job node 0x22 with
  | none => .next s
  | some (j, w) =>
    match j.boxes w, s.donePic j.stream j.frameSeq with
    | some l, some p =>
      let d := s.descOf j.prog (shpDesc w)
      if (j.node node).queued = true ∨ s.slotsInOrder j node = false ∨ s.sched.saving = true then .next s
      else if shMaxBoxes d < l.length ∧ cropOver w = 0 then
        let plan := match (s.prog j.prog).plan[wPlan w]? with | some e => planSize e | none => 0
        .next (s.faultJob j node 0x0701 (cdiv (64 + l.length * (64 + shBytes d)) 1024) (cdiv plan 1024))
      else if l.isEmpty then .next (s.commitNode job node (.batch (s.strmEngine j.stream) 0 []))
      else
        let keep := if shMaxBoxes d < l.length then keepBest (shMaxBoxes d) l else l
        match s.cropSlots j node w d keep with
        | none => .next (s.shpStall (s.strmEngine j.stream))
        | some s1 =>
          let s2 := if keep.length < l.length then
            (s1.cnt 0x0403 (s1.scope j.stream) (l.length - keep.length)).shpErr (s1.strmEngine j.stream) j.stream 0x0403 else s1
          .next (s2.updNode job node (fun n => { n with queued := true, count := keep.length }))
    | _, _ => .next s

/-- CROP_RESIZE (R251): every box of the list that holds a slot is cropped and resized. -/
def execCropResize (job node : Nat) (s : State) : Host.Outcome State Fault Refusal :=
  match s.nodeFor job node 0x22 with
  | none => .next s
  | some (j, w) =>
    match j.boxes w, s.donePic j.stream j.frameSeq with
    | some l, some p =>
      if (j.node node).queued = true ∧ s.sched.saving = false then
        .next ((s.fillCrops j node w p l).updNode job node (fun n => { n with ran := true }))
      else .next s
    | _, _ => .next s

/-! ### Closing and dispatch -/

/-- BATCH_WAIT_EXPIRY (R257): BATCH_WAIT µs after the first slot, when BATCH_WAIT is not 0. -/
def execBatchWaitExpiry (shaper node svc : Nat) (s : State) : Host.Outcome State Fault Refusal :=
  let due := fun (b : Batch) =>
    let w := ((s.prog b.key.prog).routeWords b.key.route).getD node 0
    let wait := shWait (s.descOf b.key.prog (shpDesc w))
    b.shp == shaper && b.key.node == node && b.svc == svc && decide (wait ≠ 0 ∧ b.first + wait * 1000 ≤ s.time.mono)
  .next ((s.closeBatches due 1).shpNote shaper)

/-- FLUSH (R257, R273). -/
def execFlush (shaper : Nat) (s : State) : Host.Outcome State Fault Refusal := s.bar (Reg.SHP_CTRL shaper) fun s =>
  .next ((s.closeBatches (fun b => b.shp == shaper) 2).shpNote shaper)

/-- TEST_STANDIN (R266). -/
def execTestStandin (shaper : Nat) (s : State) : Host.Outcome State Fault Refusal := s.bar (Reg.SHP_CTRL shaper) fun s =>
  .next (s.wr (Reg.SHP_CTRL_TEST_STANDIN shaper) 1)

/-- An earlier batch of the same node, shaper and class waits (R258). -/
def State.earlierBatch (s : State) (b : Batch) : Bool :=
  s.shp.batches.any (fun q => q.key == b.key && q.shp == b.shp && q.svc == b.svc && !q.dispatched && seqBefore q.seq b.seq)

/-- The sample with its picture's map for gating (R176, R177). -/
def State.gateSample (s : State) (k : NodeKey) (x : Sample) : Sample :=
  match s.donePic x.rcd.stream x.rcd.frame with
  | none => x
  | some p =>
    let w := ((s.prog k.prog).routeWords k.route).getD 0 0
    let cw := cdiv p.w 16
    let ch := cdiv p.h 16
    if bitsOf w 32 1 = 1 ∧ p.forced = false ∧ p.unusable = false then
      { x with gate := some (cw, ch, (List.range (cw * ch)).map (dilated p.cells cw ch (bitsOf w 36 4))) }
    else x

/-- The jobs of a dispatched batch's samples get the node's output: the batch for a SHAPE node, the job's own crop samples once
all of them are dispatched for a CROP_RESIZE node (R258, R288). -/
def State.deliver (s : State) (b : Batch) : State :=
  b.samples.foldl (fun s x =>
    match s.frameJob? x.rcd.stream x.rcd.frame with
    | none => s
    | some j =>
      let n := b.key.node
      if (j.node n).committed ∨ j.nodeKey n ≠ b.key then s
      else if x.rcd.objIndex = 0xFFFF then
        let s1 := s.updNode j.id n (fun q => { q with
          count := b.samples.length, recs := b.samples.map (·.rcd), own := [x.rcd.slot] })
        s1.commitNode j.id n (.batch b.shp b.seq b.samples)
      else
        let mine := (s.shp.batches.filter (fun q => q.key == b.key && q.dispatched)).flatMap (fun q =>
          q.samples.filter (fun y => y.rcd.stream == x.rcd.stream && y.rcd.frame == x.rcd.frame))
        if mine.length = (j.node n).count then
          let l := sortBy (fun (a b : Sample) => decide (a.rcd.objIndex ≤ b.rcd.objIndex)) mine
          let s1 := s.updNode j.id n (fun q => { q with recs := l.map (·.rcd), own := List.range l.length })
          s1.commitNode j.id n (.batch b.shp b.seq l)
        else s) s

/-- BATCH_DISPATCH (R258): a closed batch whose samples are all complete, in BATCH_SEQ order. -/
def execBatchDispatch (shaper node svc : Nat) (s : State) : Host.Outcome State Fault Refusal :=
  match s.shp.batches.find? (fun b => b.shp == shaper && b.key.node == node && b.svc == svc && b.closed.isSome &&
      !b.dispatched && b.samples.all (fun x => x.complete) && !s.earlierBatch b) with
  | none => .next s
  | some b =>
    let d := s.descOf b.key.prog (shpDesc (((s.prog b.key.prog).routeWords b.key.route).getD node 0))
    let b1 := { b with dispatched := true, samples := b.samples.map (s.gateSample b.key) }
    let b' := { b1 with image := b1.laidOut (fmtBits (shFmt d) / 8) (shBytes d) }
    let s1 := s.updBatches (fun q => q == b) (fun _ => b')
    let s2 := s1.bump (Reg.SHP_BATCHES_COUNT shaper)
    let s3 := if b.samples.length < b.n then s2.bump (Reg.SHP_SHORT_COUNT shaper) else s2
    .next ((s3.deliver b').shpNote shaper)

end Sys2Proof.Machine
end

