-- ==== Sys2Proof/Machine/Node.lean ====
section
/-! DEFINITION. Core nodes as shared operations: what a node computes from its sources (chapters 08 to 12), its grid (R289), its
run-time checks (R336, R337), gating (R294, R295) and its tile jobs (R535). -/

set_option Elab.async false

namespace Sys2Proof.Machine

/-! ### Marver descriptors (R430) -/

def mvOp (d : Nat) : Nat := bitsOf d 236 4
def mvFunc (d : Nat) : Nat := bitsOf d 232 4
def mvLayout (d : Nat) : Nat := bitsOf d 230 2
def mvMask (d : Nat) : Nat := bitsOf d 228 2
def mvSel (d : Nat) : Nat := bitsOf d 220 7
def mvP0 (d : Nat) : Nat := bitsOf d 160 32
def mvP1 (d : Nat) : Nat := bitsOf d 128 32
def mvIn (d : Nat) : Nat := bitsOf d 96 32

/-- Number of statistics selected, S of R432. -/
def mvS (d : Nat) : Nat := sumNat ((List.range 7).map (fun i => bitsOf (mvSel d) i 1))

/-- An input element of a marver node as FP32 (R397). -/
def mvElem (f inScale : Nat) (e : Elem) : Nat := if isInt f then f32Mul (toF32 f e) inScale else toF32 f e

/-- The low 8 bits of OPC in the word: families of core nodes. -/
def isConv (o : Nat) : Bool := decide (0x34 ≤ o) && decide (o ≤ 0x39)
def isMrv (o : Nat) : Bool := decide (0x40 ≤ o) && decide (o ≤ 0x43)

/-! ### Sources -/

/-- The output of a source of a job's node, as far as it is formed. -/
def Job.src (j : Job) (n : Nat) : NodeOut := if n = 0xFFFF then .none else (j.node n).out

/-- The sources of a core node. -/
def Job.srcs (j : Job) (w : Nat) : Srcs :=
  { a := j.src (wA w), b := j.src (wB w), c := if wOpc w = 0x4F then .none else j.src (wC w)
    sc := if isMrv (wOpc w) || wOpc w == 0x4F then .none else j.src (wSc w) }

/-- Rows M of a core node (R287, R288). -/
def rowsM (d count : Nat) : Nat := if dMBatch d then dMUnit d * count else dMUnit d

/-- The user slots a node uses: those of the generation it is bound to, else of the active one (R423). -/
def State.bankOf (s : State) (gen : Nat) : List UserSlot := if gen % 2 = 0 then s.tbl.bank0 else s.tbl.bank1
def State.nodeBank (s : State) (x : NodeSt) : List UserSlot := s.bankOf (x.gen.getD s.tbl.gen)

/-! ### What a node computes -/

/-- The result of a node: its grid rows with their counts, the steps at which each row was rescaled, and its output. -/
structure Calc where
  rows : List RowOut := []
  resc : List (List Nat) := []
  out : NodeOut := .none
  deriving DecidableEq, Repr

/-- Output columns of a lane-row node (R440). -/
def laneCols (w d : Nat) : Nat := if (menuGate (wMenu w)).isSome then dN d / 2 else dN d

/-- An output matrix from its rows (R321). -/
def mkTensor (f cols unit scale : Nat) (rows : List RowOut) : Tensor :=
  { fmt := f, cols := cols, rows := rows.map (·.codes)
    scales := if rows.any (fun r => !r.scales.isEmpty) then rows.map (·.scales) else []
    unit := unit, scale := scale }

/-- The scale an EMBED pennant carries for an output through OUT_MUL (R356). -/
def outScale (m : Nat) : Nat := if outMulOn m then f32Div one32 m else one32

/-- The rows of A of a marver node as FP32. -/
def mvRows (d m k : Nat) (a : NodeOut) : List (List Nat) :=
  let f := dAfmt d
  (((sampleRows a f k (dMUnit d) m (dAsc d)).flatMap id).take m).map (fun r => r.map (mvElem f (mvIn d)))

/-- Rows as an output in OFMT. -/
def mvOut (d : Nat) (l : List Nat) : RowOut :=
  let o := outRow (dOfmt d) (dOsc d) 256 l
  { codes := o.1, scales := o.2.1, cnts := o.2.2 }

/-- VEC (R412, R413). -/
def vecCalc (bank : List UserSlot) (d m : Nat) (x : Srcs) : List RowOut :=
  let n := dN d
  let op := mvOp d
  let two := decide (op = 2) && decide (mvLayout d ≠ 0)
  let a := mvRows d m (if two then 2 * n else n) x.a
  let fb := dBfmt d
  let b := if op = 3 ∨ op = 4 ∨ (op = 2 ∧ mvLayout d = 0) then
      (((sampleRows x.b fb n (dMUnit d) m (dBsc d)).flatMap id).take m).map (fun r => r.map (mvElem fb (mvIn d))) else []
  let v := if op = 6 ∨ op = 7 then padTo n 0 (vec32 x.b n) else []
  a.zipIdx.map (fun (r, i) => mvOut d (vecRow bank op (mvFunc d) (mvLayout d) (mvP0 d) (mvP1 d) n r (b.getD i []) v))

/-- ROWSTAT under AXIS 0 (R399 to R404): one row of statistics per input row. -/
def rowstatCalc0 (d m : Nat) (x : Srcs) : List RowOut :=
  (mvRows d m (dN d) x.a).map (fun r =>
    let v := rowStat (mvSel d) (mvP0 d) r
    let o := mvOut d v
    { o with cnts := addCnts o.cnts [{ nanRows := if v.any isNan32 then 1 else 0 }] })

/-- The rows of a sample, cut at the tile boundaries of the grid (R405). -/
def cutRows (tm r0 : Nat) (rows : List (List Nat)) : List (List (List Nat)) :=
  (rows.zipIdx.splitBy (fun a b => (r0 + a.2) / max 1 tm == (r0 + b.2) / max 1 tm)).map (fun g => g.map (·.1))

/-- ROWSTAT under AXIS 1 (R405): per sample, S rows of N columns. -/
def rowstatCalc1 (d m count : Nat) (x : Srcs) : List (List RowOut) :=
  let n := dN d
  let rows := mvRows d m n x.a
  let per := if dMBatch d then max 1 (dMUnit d) else max 1 m
  let samples := if m = 0 then List.replicate (if dMBatch d then count else 1) [] else chunksOf per m rows
  samples.zipIdx.map (fun (sr, b) =>
    let parts := cutRows (dTm d) (b * per) sr
    let cols := (List.range n).map (fun c =>
      statOut (mvSel d) (mvP0 d) (statAll (parts.map (fun p => p.map (fun r => r.getD c 0)))))
    let nan := (chunksOf 256 n cols).map (fun t => ({ nanRows := (t.filter (fun v => v.any isNan32)).length } : NumCnt))
    (List.range (mvS d)).map (fun k =>
      let o := mvOut d (cols.map (fun v => v.getD k 0))
      if k = 0 then { o with cnts := addCnts o.cnts nan } else o))

/-- SOFTMAX (R406 to R411). -/
def softmaxCalc (d m : Nat) (x : Srcs) : List RowOut :=
  let n := dN d
  (mvRows d m n x.a).zipIdx.map (fun (r, i) =>
    let p := smPrep (mvP0 d) (maskRow (mvMask d) n i x.b) r
    let o := mvOut d (softmaxRow p)
    { o with cnts := addCnts o.cnts p.cnts })

/-- NORM (R414, R415). -/
def normCalc (w d m : Nat) (x : Srcs) : List RowOut :=
  let n := dN d
  let g := if wB w = 0xFFFF then List.replicate n one32 else padTo n 0 (vec32 x.b n)
  let b := if wC w = 0xFFFF then List.replicate n 0 else padTo n 0 (vec32 x.c n)
  (mvRows d m n x.a).map (fun r =>
    let o := mvOut d (normRow (mvOp d) (mvP0 d) g b r)
    { o with cnts := addCnts o.cnts [{ nanRows := if normNan (mvOp d) (mvP0 d) r then 1 else 0 }] })

/-- The boxes ROI_ALIGN reads for each sample: list order, at most MAX_BOXES, the best kept under OVER_MODE 1 (R253, R482). -/
def roiBoxes (d : Nat) (b : NodeOut) (sample : Nat) : List (Nat × Box) :=
  match b with
  | .lists l =>
    let x := (l.lists.getD sample []).zipIdx.map (fun (e, i) => (i, boxOf e))
    if cvMaxBoxes d < x.length then keepBest (cvMaxBoxes d) x else x
  | _ => []

/-- The output samples of ROI_ALIGN with the source sample, box and index of each (R482). -/
def roiList (d count : Nat) (b : NodeOut) : List (Nat × Nat × Box) :=
  (List.range count).flatMap (fun k => (roiBoxes d b k).map (fun q => (k, q.1, q.2)))

/-- ROI_ALIGN (R482, R483): rows of every box in order. -/
def roiCalc (d count : Nat) (recs : List SampleRec) (x : Srcs) : List RowOut :=
  let f := dAfmt d
  let px := cvIw d * cvIh d
  let src := spatialRows x.a f (cvIw d) (cvIh d) (dN d) (count * px) (dAsc d)
  (roiList d count x.b).flatMap (fun q =>
    let m := match recs[q.1]? with | some r => r.m | none => []
    (roiBox d f m (src.getD q.1 []) (if boxDegenerate q.2.2 then none else some q.2.2)).map (mvOut d))

/-- What a core node computes: `m` rows, `count` samples with their records (R353, R412 to R415, R399, R452, R464). -/
def nodeCalc (job node : Nat) (bank : List UserSlot) (w d m count : Nat) (recs : List SampleRec) (x : Srcs) : Calc :=
  let unit := if dMBatch d then dMUnit d else m
  let lane := fun (rows : List RowOut) =>
    ({ rows := rows, out := .tensor (mkTensor (dOfmt d) (laneCols w d) unit (outScale (dOutMul d)) rows) } : Calc)
  let mrv := fun (rows : List RowOut) (cols : Nat) =>
    ({ rows := rows, out := .tensor (mkTensor (dOfmt d) cols unit one32 rows) } : Calc)
  match wOpc w with
  | 0x30 => lane (matmulCalc bank w d m x)
  | 0x34 => lane (convCalc bank w d m x)
  | 0x35 => lane (convDwCalc bank w d m x)
  | 0x36 => lane (convFftCalc job node bank w d m x)
  | 0x37 => mrv (poolCalc d m x) (dN d)
  | 0x38 => mrv (argmaxCalc d m x) (1 + cvX1 d)
  | 0x39 => mrv (roiCalc d count recs x) (dN d)
  | 0x40 => mrv (vecCalc bank d m x) (dN d)
  | 0x41 =>
    if mvLayout d = 0 then mrv (rowstatCalc0 d m x) (mvS d)
    else
      let r := rowstatCalc1 d m count x
      let per := if dMBatch d then max 1 (dMUnit d) else max 1 m
      -- the counts of a sample stand on its first row of the grid
      { rows := r.flatMap (fun l => padTo per { codes := [] } [{ codes := [], cnts := (l.map (·.cnts)).foldl addCnts [] }])
        out := .tensor (mkTensor (dOfmt d) (dN d) (mvS d) one32 (r.flatMap id)) }
  | 0x42 => mrv (softmaxCalc d m x) (dN d)
  | 0x43 => mrv (normCalc w d m x) (dN d)
  | _ =>
    let r := chainCalc w d m x
    { rows := r.map (·.out), resc := r.map (·.resc)
      out := .tensor (mkTensor (dOfmt d) (dN d) unit (outScale (dP32 d)) (r.map (·.out))) }

/-! ### The grid (R289, R446 to R448, R455, R476, R479, R480) -/

/-- Spatial tiles of one sample of CONV_FFT. -/
def fftTiles (d : Nat) : Nat := cdiv (cvOw d) (fftT d) * cdiv (cvOh d) (fftT d)

/-- The grid of a core node with M rows over COUNT samples. -/
def gridOf (w d m count : Nat) : Grid :=
  let o := wOpc w
  let tm := max 1 (dTm d)
  let n := dN d
  let g : Grid := { m := m, n := n, tm := tm, mb := cdiv m tm, nb := cdiv n 256, order := dOrder d, marver := !(o == 0x30 || o == 0x34) }
  if o = 0x48 then { g with nb := 1, marver := false, steps := cdiv (chNkv d) 256, blocks := 2 * cdiv tm 16 }
  else if o = 0x36 then { g with mb := count * fftTiles d, nb := n, spectra := n }
  else if o = 0x37 ∧ cvPmode d = 3 then { g with tm := 1, mb := m }
  else if o = 0x38 then { g with nb := min 1 g.nb }
  else if o = 0x41 then
    let spans := if mvLayout d = 0 then decide (1 < g.nb) else decide (1 < g.mb)
    { g with fold := spans }
  else if (o = 0x42 ∨ o = 0x43) ∧ 1 < g.nb then { g with fold := true, passes := if o = 0x42 then 3 else 2 }
  else if (o = 0x30 ∨ o = 0x34) ∧ menuTwoPass (wMenu w) = true then
    let hold := decide (tm * padRow 9 n * 4 ≤ 2 ^ 20)
    { g with fold := true, passes := 2, hold := hold, blocks := if hold then cdiv tm 16 else 0 }
  else g

/-- Tile index of (i, j) and back (R290). -/
def Grid.tile (g : Grid) (i j : Nat) : Nat := if g.order = 0 then i * g.nb + j else j * g.mb + i
def Grid.at (g : Grid) (t : Nat) : Nat × Nat :=
  if g.order = 0 then (t / max 1 g.nb, t % max 1 g.nb) else (t % max 1 g.mb, t / max 1 g.mb)
def Grid.count (g : Grid) : Nat := g.mb * g.nb

/-- Rows of the grid that row block i covers; a spatial tile of CONV_FFT covers no run of rows (R289, R476). -/
def blockRows (w d : Nat) (g : Grid) (i : Nat) : List Nat :=
  if wOpc w = 0x36 then
    let t := fftTiles d
    let q := i % max 1 t
    let tw := cdiv (cvOw d) (fftT d)
    let x0 := q % max 1 tw * fftT d
    let y0 := q / max 1 tw * fftT d
    (List.range (fftT d)).flatMap (fun dy => (List.range (fftT d)).filterMap (fun dx =>
      if x0 + dx < cvOw d ∧ y0 + dy < cvOh d then some (i / max 1 t * dMUnit d + (y0 + dy) * cvOw d + x0 + dx) else none))
  else (List.range (min (g.tm * (i + 1)) g.m - g.tm * i)).map (g.tm * i + ·)

/-- What tile t adds to the counters (R381, R434): the counts of its rows in its column tile. -/
def tileCnt (w d : Nat) (g : Grid) (c : Calc) (pass t : Nat) : NumCnt :=
  let ij := g.at t
  let col := if wOpc w = 0x36 then (if ij.2 % 256 = 0 then some (ij.2 / 256) else none) else some ij.2
  match col with
  | none => {}
  | some k => NumCnt.sum ((blockRows w d g ij.1).map (fun r =>
      match c.rows[r]? with
      | none => {}
      | some x => (if pass = 0 then x.cnts else x.cnts2).getD k {}))

/-! ### Run-time checks (R291, R336, R337, R432, R448, R477) -/

/-- Bytes that a node's plan entry must hold at run time. -/
def planNeed (w d m count : Nat) : Nat :=
  let o := wOpc w
  let g := gridOf w d m count
  let n := dN d
  if o = 0x30 ∨ isConv o = true ∧ o ≤ 0x36 then
    matBytes (dOfmt d) m (laneCols w d) (o == 0x30 && dOsc d || o == 0x34 && dOsc d) +
      (if g.passes = 2 ∧ g.hold = false then round64 (m * padRow 9 n * 4) + round64 (32 * m * g.nb) else 0) +
      (if o = 0x36 then n * fftF d * fftF d * 8 else 0)
  else if o = 0x38 then matBytes 2 m (1 + cvX1 d) false
  else if o = 0x37 ∨ o = 0x39 then matBytes (dOfmt d) m n false
  else if o = 0x41 then
    if mvLayout d = 0 then matBytes (dOfmt d) m (mvS d) (dOsc d) + (if g.fold then 32 * m * g.nb else 0)
    else matBytes (dOfmt d) (mvS d * (if dMBatch d then count else 1)) n (dOsc d) +
      (if g.fold then 32 * padRow 9 n * (g.mb + count) else 0)
  else if o = 0x48 then matBytes (dOfmt d) m n (chOsc d)
  else matBytes (dOfmt d) m n (dOsc d) + (if g.fold then 32 * m * g.nb else 0)

/-- What each source holds and what the node needs of it, in field order: (rows held, rows needed) (R337, R432, R486). -/
def sourceRows (w d m : Nat) (x : Srcs) : List (Nat × Nat) :=
  let o := wOpc w
  let n := dN d
  let samples := if dMUnit d = 0 then 0 else m / dMUnit d
  let vec := fun (src : NodeOut) (rows cols : Nat) => (rowsHeld src 9 cols rows, rows)
  let bytes := fun (src : NodeOut) (need : Nat) => ((outBytes src).length, need)
  let epi :=
    let mn := wMenu w
    (if menuBias mn then [vec x.c 1 n]
     else if menuRes mn then [match x.c with | .tensor t => (if n ≤ t.cols then t.rows.length else 0, m) | o => (rowsHeld o 9 n m, m)]
     else if menuCol mn ∨ mn = 21 ∨ mn = 22 then [vec x.c 2 n]
     else if mn = 24 then [bytes x.c (m * round64 (cdiv n 8))]
     else if mn = 25 then [((words32 x.c m).length, m)]
     else if menuPro mn then [(rowsHeld x.c 9 2 m, m)] else []) ++
    (if wSc w = 0xFFFF then [] else [vec x.sc 1 n])
  if o = 0x30 then
    let p := 2 ^ dGeoS d
    let k := dK d
    (if dAmode d = 1 then (rowsHeld x.a (dAfmt d) (k / (p * p)) (dMUnit d * p * p), m * p * p)
     else (rowsHeld x.a (dAfmt d) k (dMUnit d), m)) ::
    (if dBtrans d then (rowsHeld x.b (dBfmt d) n k, k) else (rowsHeld x.b (dBfmt d) k n, n)) :: epi
  else if isConv o then
    let need := if o = 0x34 then cvCoff d + cvCin d else n
    let px := cvIw d * cvIh d
    let held := match x.a with
      | .batch _ _ l => sumNat (l.map (fun q => if need * px ≤ q.data.length then px else 0))
      | a => rowsHeld a (dAfmt d) need (samples * px)
    let cnt := if o = 0x39 then 1 else samples
    (held, cnt * px) ::
    (if o = 0x34 then [(rowsHeld x.b (dBfmt d) (dK d) n, n)]
     else if o = 0x35 ∨ o = 0x36 then [(rowsHeld x.b (dAfmt d) n (cvKh d * cvKw d), cvKh d * cvKw d)] else []) ++
    (if o ≤ 0x36 then epi else [])
  else if o = 0x48 then
    let nkv := chNkv d * (if dMBatch d then samples else 1)
    [(rowsHeld x.a (chQ d) (dK d) (dMUnit d), m), (rowsHeld x.b (chK d) (dK d) nkv, nkv), (rowsHeld x.c (chV d) n nkv, nkv)] ++
    (if chMask d = 1 then [bytes x.sc (m * round64 (cdiv (chNkv d) 8))]
     else if chMask d = 2 then [((words32 x.sc m).length, m)] else [])
  else
    let two := o = 0x40 ∧ mvOp d = 2 ∧ mvLayout d ≠ 0
    (rowsHeld x.a (dAfmt d) (if two then 2 * n else n) (dMUnit d), m) ::
    (if o = 0x40 then
       (if mvOp d = 3 ∨ mvOp d = 4 ∨ (mvOp d = 2 ∧ mvLayout d = 0) then [(rowsHeld x.b (dBfmt d) n (dMUnit d), m)]
        else if mvOp d = 6 ∨ mvOp d = 7 then [vec x.b 1 n] else [])
     else if o = 0x42 then
       (if mvMask d = 1 then [bytes x.b (m * round64 (cdiv n 8))] else if mvMask d = 2 then [((words32 x.b m).length, m)] else [])
     else if o = 0x43 then
       (if wB w = 0xFFFF then [] else [vec x.b 1 n]) ++ (if wC w = 0xFFFF then [] else [vec x.c 1 n])
     else [])

/-- The run-time fault of a node: SHAPE_OVER, then OPND_SHORT of the first short source: (code, DETAIL0, DETAIL1) (R336,
R337, R359). -/
def nodeFault (w d m count planSize : Nat) (x : Srcs) : Option (Nat × Nat × Nat) :=
  let need := planNeed w d m count
  if planSize < need then some (0x0701, cdiv need 1024, planSize / 1024)
  else
    match (sourceRows w d m x).find? (fun q => decide (q.1 < q.2)) with
    | some q => some (0x0704, q.1, q.2)
    | none => none

/-! ### Gating (R176, R294, R295) -/

/-- A position of a sample's tensor in its picture (R261). -/
def mapPos (m : List Nat) (x y : Int) : Rat × Rat :=
  let a := fun i => q32 (m.getD i 0)
  (a 0 * x + a 1 * y + a 2, a 3 * x + a 4 * y + a 5)

/-- The cells under rows p0 to p1 of a sample with map M, in a picture of cw × ch cells: first and end column, first and end row
(R294). -/
def cellRect (d cw ch : Nat) (m : List Nat) (p0 p1 : Nat) : (Nat × Nat) × (Nat × Nat) :=
  let gw := max 1 (dGeoW d)
  let sc : Int := 2 ^ dGeoS d
  let halo : Int := dHalo d
  let y0 := p0 / gw
  let y1 := p1 / gw
  let x0 := if y0 = y1 then p0 % gw else 0
  let x1 := if y0 = y1 then p1 % gw else gw - 1
  let xa := (x0 : Int) * sc - halo
  let xb := ((x1 : Int) + 1) * sc + halo
  let ya := (y0 : Int) * sc - halo
  let yb := ((y1 : Int) + 1) * sc + halo
  let c := [mapPos m xa ya, mapPos m xb ya, mapPos m xa yb, mapPos m xb yb]
  let lo := fun (l : List Rat) => l.foldl (fun a b => if b < a then b else a) (l.headD 0)
  let hi := fun (l : List Rat) => l.foldl (fun a b => if a < b then b else a) (l.headD 0)
  ((((clampInt 0 cw (lo (c.map (·.1)) / 16).floor).toNat), ((clampInt 0 cw (hi (c.map (·.1)) / 16).ceil).toNat)),
   (((clampInt 0 ch (lo (c.map (·.2)) / 16).floor).toNat), ((clampInt 0 ch (hi (c.map (·.2)) / 16).ceil).toNat)))

/-- Some cell under rows p0 to p1 of a sample is ACTIVE after dilation (R294); a sample whose every tile is issued says
yes. -/
def sampleActive (d : Nat) (x : Sample) (p0 p1 : Nat) : Bool :=
  match x.gate with
  | none => true
  | some (cw, ch, act) =>
    let r := cellRect d cw ch x.rcd.m p0 p1
    (List.range (r.2.2 - r.2.1)).any (fun y => (List.range (r.1.2 - r.1.1)).any (fun x =>
      act.getD ((r.2.1 + y) * cw + r.1.1 + x) false))

/-- The SHAPE or CROP_RESIZE batch that a node's streamed operand comes from: the first one up the chain of A sources. -/
def Job.batchUp (j : Job) (word : Nat → Nat) : Nat → Nat → List Sample
  | 0, _ => []
  | f + 1, n =>
    match (j.node n).out with
    | .batch _ _ l => l
    | _ => if wA (word n) < n then Job.batchUp j word f (wA (word n)) else []

/-- Row blocks of the gated node that its map issues (R294): of each sample they touch, the first and last row inside it. -/
def gateBlock (w d : Nat) (g : Grid) (samples : List Sample) (i : Nat) : Bool :=
  let u := max 1 (dMUnit d)
  let rows := blockRows w d g i
  samples.zipIdx.any (fun q =>
    let mine := rows.filter (fun r => r / u == q.2)
    match mine.head?, mine.getLast? with
    | some a, some z => sampleActive d q.1 (a % u) (z % u)
    | _, _ => false)

/-- Rows of the source A that the streamed rows of A_MODE 1 read: the pixels of their patches (R322). -/
def patchPixels (d : Nat) (rows : List Nat) : List (Nat × Nat) :=
  let u := max 1 (dMUnit d)
  let gw := max 1 (dGeoW d)
  let p := 2 ^ dGeoS d
  rows.flatMap (fun r =>
    let q := r % u
    (List.range p).map (fun dy =>
      let at_ := r / u * (u * p * p) + (q / gw * p + dy) * (gw * p) + q % gw * p
      (at_, at_ + p)))

/-- Rows of the source A that the taps of output pixels read (R468). -/
def tapPixels (d : Nat) (rows : List Nat) : List (Nat × Nat) :=
  let u := max 1 (dMUnit d)
  let ow := max 1 (cvOw d)
  rows.flatMap (fun r =>
    let q := r % u
    (List.range (cvKh d)).flatMap (fun ty => (List.range (cvKw d)).filterMap (fun tx =>
      (tapPixel d (q % ow) (q / ow) tx ty).map (fun p =>
        let at_ := r / u * (cvIw d * cvIh d) + p.2 * cvIw d + p.1
        (at_, at_ + 1)))))

/-- The runs of rows of the source A that row block i of a node reads (R295, R535); `smp` gives the input sample of an output sample of
ROI_ALIGN. -/
def aRows (w d : Nat) (g : Grid) (smp : Nat → Nat) (i : Nat) : List (Nat × Nat) :=
  let o := wOpc w
  let lo := i * g.tm
  let hi := min (lo + g.tm) g.m
  let u := max 1 (dMUnit d)
  let px := cvIw d * cvIh d
  if o = 0x30 ∧ dAmode d = 1 then patchPixels d (blockRows w d g i)
  else if o = 0x34 ∨ o = 0x35 ∨ o = 0x36 ∨ (o = 0x37 ∧ cvPmode d ≠ 3) then tapPixels d (blockRows w d g i)
  else if o = 0x37 then [(lo * px, hi * px)]
  else if o = 0x39 then (List.range (cdiv hi u - lo / u)).map (fun k => (smp (lo / u + k) * px, (smp (lo / u + k) + 1) * px))
  else [(lo, hi)]

/-- Some of a source's rows from `lo` up to `hi` are among those read; none stands for all rows. -/
def readsRows (rows : Option (List (Nat × Nat))) (lo hi : Nat) : Bool :=
  match rows with
  | none => true
  | some l => l.any (fun q => decide (q.1 < hi) && decide (lo < q.2))

/-- The rows of the source A that must be committed before a tile job of row block i is ready (R535): its own rows for a node that reads A
row by row, else the samples it touches; none stands for the whole source. -/
def readyRows (w d : Nat) (g : Grid) (smp : Nat → Nat) (i : Nat) : Option (List (Nat × Nat)) :=
  let o := wOpc w
  if o = 0x30 ∧ dAmode d = 0 ∨ o = 0x40 ∨ o = 0x42 ∨ o = 0x43 ∨ o = 0x41 ∧ mvLayout d = 0 then some [(i * g.tm, min ((i + 1) * g.tm) g.m)]
  else if dMBatch d = false then none
  else
    let u := max 1 (dMUnit d)
    let p := 2 ^ dGeoS d
    -- source rows per sample
    let per := if o = 0x30 then u * p * p else if isConv o then cvIw d * cvIh d else u
    some ((((blockRows w d g i).map (fun r => smp (r / u))).eraseDups).map (fun b => (b * per, (b + 1) * per)))

/-- Sources other than A that a node reads row by row: B of a VEC of two operands, and a residual (R295, R412, R437). -/
def rowSources (w d : Nat) (x : Srcs) : List NodeOut :=
  let o := wOpc w
  if o = 0x40 then (if mvOp d = 3 ∨ mvOp d = 4 ∨ (mvOp d = 2 ∧ mvLayout d = 0) then [x.b] else [])
  else if (o = 0x30 ∨ o = 0x34 ∨ o = 0x35 ∨ o = 0x36) ∧ menuRes (wMenu w) = true then [x.c]
  else []

/-- Every one of some rows of an output is absent. -/
def allAbsent (o : NodeOut) (rows : List Nat) : Bool :=
  match o with
  | .tensor t => !t.absent.isEmpty && rows.all (fun r => t.absent.contains r)
  | _ => false

/-- Every input row of a row block is absent (R295): those of A and of every source read row by row with it. -/
def inputAbsent (w d : Nat) (g : Grid) (smp : Nat → Nat) (x : Srcs) (i : Nat) : Bool :=
  let r := (aRows w d g smp i).flatMap (fun q => (List.range (q.2 - q.1)).map (q.1 + ·))
  !r.isEmpty && allAbsent x.a r && (rowSources w d x).all (fun o => allAbsent o (blockRows w d g i))

/-- Mark the rows of row blocks that are not issued: absent, and stored zeros (R295).  The rows of ROWSTAT AXIS 1 are the statistics of
a sample: absent when no row of the sample is issued. -/
def markAbsent (w d : Nat) (g : Grid) (blocks : List Nat) (o : NodeOut) : NodeOut :=
  match o with
  | .tensor t =>
    let out := blocks.flatMap (blockRows w d g)
    let ab :=
      if wOpc w = 0x41 ∧ mvLayout d ≠ 0 then
        let per := if dMBatch d then max 1 (dMUnit d) else max 1 g.m
        let n := max 1 (mvS d)
        (List.range t.rows.length).filter (fun k =>
          let rows := (List.range g.m).filter (fun r => r / per == k / n)
          !rows.isEmpty && rows.all (fun r => out.contains r))
      else out
    if ab.isEmpty then o
    else .tensor { t with absent := ab, rows := t.rows.zipIdx.map (fun (r, i) => if ab.contains i then r.map (fun _ => 0) else r) }
  | o => o

end Sys2Proof.Machine
end

