-- ==== Sys2Proof/Machine/Tile.lean ====
section
/-! DEFINITION. Tile jobs (R289, R534 to R539): a core's registers, the node instructions that make tile jobs, their placement,
issue, staging and commit, folds and later passes, and the spectrum jobs and chain steps. -/

set_option Elab.async false

namespace Sys2Proof.Machine

/-! ### Cores -/

def State.core (s : State) (c : Nat) : Core := tget (fun _ => {}) s.cores c
def State.setCore (s : State) (c : Nat) (x : Core) : State := { s with cores := tset (fun _ => {}) s.cores c x }

def Core.longHeld (x : Core) : Nat := sumNat (x.holds.map (·.blocks))
def Core.accFree (x : Core) : Nat := 32 - (x.longHeld + sumNat (x.runs.map (·.blocks)))

/-- The core is in service: not OFFLINE and not FENCED (R540). -/
def State.inService (s : State) (c : Nat) : Bool := decide (s.coreState c < 4)

/-- Cores counted for a class (R540). -/
def State.coresHeld (s : State) (svc : Nat) : Nat :=
  ((List.range 64).filter (fun c => s.inService c && (s.core c).cls == some svc)).length

/-- Cores a class is entitled to (R540). -/
def State.entitled (s : State) (svc : Nat) : Nat := 4 * (s.guard svc).share

/-- PLACE_WIN of a cluster; 0 acts as 1 (R537). -/
def State.placeWin (s : State) (k : Nat) : Nat := max 1 (s.rd (Reg.SCHED_CLU_CFG_PLACE_WIN k))

/-- A core takes one more placed tile job of a unit, as far as its state, scoreboard and window go (R537). -/
def State.coreTakes (s : State) (c : Nat) (marver : Bool) : Bool :=
  let x := s.core c
  decide (s.coreState c < 2) && decide (x.placed.length + x.runs.length < 1024) &&
    decide ((x.placed.filter (fun t => t.marver == marver)).length < s.placeWin (c / 8))

/-- Node instances that run on the core and are bound to generation g − 1 (R435). -/
def State.oldUsers (s : State) (c : Nat) : Nat :=
  let l := ((s.core c).runs.map (fun r => (r.tj.job, r.tj.node))).eraseDups
  if s.tbl.gen = 0 then 0
  else min 255 (l.filter (fun q => match s.job? q.1 with
    | some j => (j.node q.2).gen == some (s.tbl.gen - 1)
    | none => false)).length

/-- The registers that follow a core and the scheduler's queues (R358, R563, R564). -/
def State.coreNote (s : State) (c : Nat) : State :=
  let x := s.core c
  let s1 := (s.wr (Reg.CORE_LRW_STATUS_LONG_HELD c) x.longHeld).wr (Reg.CORE_LRW_STATUS_ACC_FREE c) x.accFree
  let st := s1.coreState c
  let s2 := if st < 2 then s1.wr (Reg.CORE_LRW_STATUS_STATE c) (if x.runs.isEmpty then 0 else 1) else s1
  ((((s2.wr (Reg.CORE_MRV_STATUS_OLD_USERS c) (s2.oldUsers c)).wr (Reg.CORE_SCHED_STATUS_SB_USED c) (x.placed.length + x.runs.length)).wr (Reg.CORE_SCHED_STATUS_CLASS c)
    (x.cls.getD 0)).wr (Reg.CORE_SCHED_STATUS_HOLD c) (if x.holds.isEmpty then 0 else 1)).wr
    (Reg.CORE_SCHED_REMOTE_TAGS c) (x.tags.filter (fun q => !q.arrived)).length

def State.schedNote (s : State) : State :=
  let idle := ((List.range 64).filter (fun c => s.coreState c == 0 && (s.core c).placed.isEmpty)).length
  let s1 := (s.wr Reg.SCHED_STATUS_FREE_CORES idle).wr Reg.SCHED_STATUS_SAVED s.sched.saved.length
  let s2 := (List.range 4).foldl (fun s n =>
    (s.wr (Reg.SCHED_CLS_CORES_HELD n) (s.coresHeld n)).wr (Reg.SCHED_CLS_READY_READY n)
      (s.sched.ready.filter (fun t => t.svc == n)).length) s1
  (List.range 8).foldl (fun s k =>
    let bits := fun (p : Nat → Bool) => sumNat ((List.range 8).map (fun i => if p (8 * k + i) then 2 ^ i else 0))
    (s.wr (Reg.SCHED_CLU_STATUS_FREE k) (bits (fun c => s.coreTakes c false || s.coreTakes c true))).wr
      (Reg.SCHED_CLU_STATUS_IN_SERVICE k) (bits s.inService)) s2

def State.note (s : State) (c : Nat) : State := (s.coreNote c).schedNote

/-- Record a code in CORE_LRW_ERR or CORE_MRV_ERR, and file it (R358, R435). -/
def State.coreErr (s : State) (c code : Nat) (marver : Bool) (d0 d1 : Nat := 0) : State :=
  (s.setErr (if marver then Reg.CORE_MRV_ERR c else Reg.CORE_LRW_ERR c) true (0, 0, 0) code).file .core c code d0 d1

/-! ### The products of KNN (R507) -/

/-- The rows of a core node's output, its width and its format. -/
def shapeOf (o : NodeOut) : Nat × Nat × Nat :=
  match o with
  | .tensor t => (t.rows.length, t.cols, t.fmt)
  | _ => (0, 0, 0)

/-- The sources A and B of an SGS word: B is A itself when B_NODE is 0xFFFF (R507). -/
def knnB (w : Nat) : Nat := if wB w = 0xFFFF then wA w else wB w

/-- The word of a node that runs on cores: a KNN node's dot products are a MATMUL of menu entry 0 (R507). -/
def State.coreWord (s : State) (j : Job) (n : Nat) : Option Nat :=
  (s.jobWord j n).map (fun w =>
    if wOpc w = 0x55 then
      packBits [(116, 8, 0x30), (104, 8, wPlan w), (64, 16, wA w), (48, 16, knnB w), (32, 16, 0xFFFF), (16, 16, 0xFFFF)]
    else w)

/-- The descriptor of a node that runs on cores; of a KNN node, FP32 output and TM 256 over the rows its sources hold (R507). -/
def State.coreDesc (s : State) (j : Job) (n w : Nat) : Nat :=
  match s.jobWord j n with
  | some v =>
    if wOpc v = 0x55 then
      let a := shapeOf (j.src (wA v))
      let b := shapeOf (j.src (knnB v))
      packBits [(416, 32, a.1), (392, 24, b.1), (368, 24, a.2.1), (362, 6, 16), (252, 4, a.2.2), (248, 4, a.2.2), (244, 4, 9)]
    else s.descOf j.prog (wDesc w)
  | none => s.descOf j.prog (wDesc w)

/-! ### Readiness (R535) -/

/-- Opcodes of nodes that a job's node reads as tiles: core nodes. -/
def isCoreOpc (o : Nat) : Bool := o == 0x30 || isConv o || isMrv o || o == 0x48

/-- Every tile of row block i of a node has its output committed, or was not issued (R295, R535). -/
def NodeSt.blockDone (x : NodeSt) (g : Grid) (i : Nat) : Bool :=
  (List.range g.nb).all (fun j => x.gated.contains (g.tile i j) || x.passed.contains (g.passes - 1, g.tile i j))

/-- The row blocks of a grid that hold some output rows: all of them where grid rows are not output rows. -/
def Grid.holding (g : Grid) (rows : Option (List (Nat × Nat))) : List Nat :=
  if g.fold && g.passes == 1 || g.spectra != 0 then List.range g.mb
  else (List.range g.mb).filter (fun i => readsRows rows (i * g.tm) ((i + 1) * g.tm))

/-- The tiles that hold some rows of a core node's output are committed; a node whose grid rows are not its output rows is read whole. -/
def NodeSt.rowsDone (x : NodeSt) (rows : Option (List (Nat × Nat))) : Bool :=
  x.committed ||
    (match x.grid with
     | none => false
     | some g => rows.isSome && !(g.fold && g.passes == 1) && g.spectra == 0 && (g.holding rows).all (x.blockDone g))

/-- The input sample of an output sample of ROI_ALIGN: the one whose box it is (R482). -/
def Job.sampleOf (j : Job) (w d : Nat) : Nat → Nat :=
  if wOpc w = 0x39 then
    let l := (roiList d (j.node (wA w)).count (j.src (wB w))).map (·.1)
    fun k => l.getD k 0
  else fun k => k

/-- Tile t of a node is ready (R535): the tiles of A it waits for are committed, or come from another device (R557); every other source is committed whole before the
node runs.  Data tiles of CONV_FFT wait for every spectrum (R477). -/
def Job.tileReady (j : Job) (w d : Nat) (x : NodeSt) (g : Grid) (t : Nat) : Bool :=
  let a := j.node (wA w)
  decide (x.spectra.length = g.spectra) && (a.remote || a.rowsDone (readyRows w d g (j.sampleOf w d) (g.at t).1))

/-- A node's tile job (R289, R290, R539). -/
def Job.tileJob (j : Job) (s : State) (w node : Nat) (g : Grid) (pass t : Nat) : TileJob :=
  let i := (g.at t).1
  { job := j.id, node := node, tile := t, pass := pass, svc := j.svc, ticket := j.ticket, stream := j.stream
    ring := match j.name with | some n => n.2.2 | none => 0
    slot := match j.name with | some n => n.2.1 | none => 0
    marver := g.marver || decide (0 < pass)
    rows := min (g.tm * (i + 1)) g.m - g.tm * i
    group := i, hold := g.blocks
    scale := !(isMrv (wOpc w)) && wOpc w != 0x48 && wSc w != 0xFFFF && pass == 0
    since := s.time.mono }

/-- Tile jobs of a job whose sources have become ready enter the class queue (R535). -/
def State.wakeNode (s : State) (id n : Nat) : State :=
  match s.job? id with
  | none => s
  | some j =>
    let x := j.node n
    match x.grid, s.coreWord j n with
    | some g, some w =>
      let d := s.coreDesc j n w
      let go := x.unready.filter (fun t => j.tileReady w d x g t)
      if go.isEmpty then s
      else
        let s1 := s.updNode id n (fun x => { x with unready := x.unready.filter (fun t => !go.contains t) })
        { s1 with sched := { s1.sched with ready := s1.sched.ready ++ go.map (j.tileJob s w n g 0) } }
    | _, _ => s

def State.wake (s : State) (id : Nat) : State :=
  match s.job? id with
  | none => s
  | some j => ((j.nodes.map (·.1)).foldl (fun s n => s.wakeNode id n) s).schedNote

/-! ### Running a core node -/

/-- A source may be read when its node runs: committed, or a core node that is forming its output as operand A, or a receive
node whose tiles are still to come (R347, R535, R557). -/
def State.srcReady (s : State) (j : Job) (n : Nat) (asA : Bool) : Bool :=
  let x := j.node n
  x.committed || (asA && x.ran && x.grid.isSome) ||
    (x.ran && match s.jobWord j n with | some w => wOpc w == 0x61 | none => false)

/-- The source fields of a core node with their positions. -/
def coreSrcs (w : Nat) : List (Nat × Nat) :=
  let o := wOpc w
  let l := if isMrv o then [64, 48, 32] else [64, 48, 32, 16]
  (l.map (fun p => (p, bitsOf w p 16))).filter (fun q => q.2 ≠ 0xFFFF)

/-- A marver instruction starts only after every TBL_LOAD before it in its job has committed (R424). -/
def State.tblReady (s : State) (j : Job) (node o : Nat) : Bool :=
  o == 0x30 || o == 0x34 || (List.range node).all (fun n =>
    (match s.jobWord j n with | some w => wOpc w != 0x44 | none => true) || (j.node n).committed)

/-- Samples of a core node's output: COUNT, their records, and the job's own (R288, R321, R482). -/
def Job.sampling (j : Job) (w d : Nat) (x : Srcs) : Nat × List SampleRec × List Nat :=
  let a := j.node (wA w)
  if wOpc w = 0x39 then
    let l := roiList d a.count x.b
    (l.length,
     l.map (fun q => match a.recs[q.1]? with
       | some r => { r with objIndex := q.2.1, trackId := q.2.2.trackId }
       | none => { stream := j.stream, svc := j.svc, frame := j.frameSeq, pts := j.pts, ct := j.ct, objIndex := q.2.1
                   trackId := q.2.2.trackId }),
     (l.zipIdx.filter (fun q => a.own.contains q.1.1)).map (·.2))
  else (a.count, a.recs, a.own)

/-- Boxes that ROI_ALIGN cuts or finds degenerate count on the stream (R253, R272, R482). -/
def State.roiCounts (s : State) (j : Job) (w d : Nat) (x : Srcs) : State :=
  if wOpc w ≠ 0x39 then s
  else
    match x.b with
    | .lists l =>
      (j.node (wA w)).own.foldl (fun s k =>
        let n := (l.lists.getD k []).length
        let kept := roiBoxes d x.b k
        let s1 := if kept.length < n then s.cnt 0x0403 (s.scope j.stream) (n - kept.length) else s
        let dg := (kept.filter (fun q => boxDegenerate q.2)).length
        if dg = 0 then s1 else s1.cnt 0x0404 (s.scope j.stream) dg) s
    | _ => s

/-- ROI_ALIGN under OVER_MODE 0 with a list over MAX_BOXES (R253, R482): the boxes of the longest list. -/
def roiOver (w d count : Nat) (x : Srcs) : Option Nat :=
  if wOpc w = 0x39 ∧ cvX1 d = 0 then
    match x.b with
    | .lists l => (((List.range count).map (fun k => (l.lists.getD k []).length)).find? (fun n => decide (cvMaxBoxes d < n)))
    | _ => none
  else none

/-- An output with what uncaught upsets made of it: free values (R342, R345). -/
def applyHits (l : List (Nat × Option Nat × Nat)) (o : NodeOut) : NodeOut :=
  match l, o with
  | [], _ => o
  | _, .tensor t =>
    let val := fun (k : Nat) => bitsOf (Config.freeValue k).toNat 0 (fmtBits t.fmt)
    .tensor { t with
      rows := t.rows.zipIdx.map (fun (r, i) => (l.filter (fun h => h.1 == i)).foldl (fun r h =>
        match h.2.1 with
        | some k => r.set k (val h.2.2)
        | none => r.zipIdx.map (fun q => val (h.2.2 + q.2))) r)
      scales := t.scales.zipIdx.map (fun (r, i) => (l.filter (fun h => h.1 == i && h.2.1.isNone)).foldl (fun r h =>
        r.zipIdx.map (fun q => bitsOf (Config.freeValue (h.2.2 + t.cols + q.2)).toNat 0 8)) r) }
  | _, _ => o

/-- The output a node computes from its sources as they stand, with the rows of its gated blocks absent. -/
def State.calcNode (s : State) (j : Job) (n w : Nat) : Calc :=
  let d := s.coreDesc j n w
  let x := j.node n
  let q := j.srcs w
  let m := rowsM d x.count
  let a := j.node (wA w)
  let c := nodeCalc j.id n (s.nodeBank x) w d m (if wOpc w = 0x39 then a.count else x.count) a.recs q
  match x.grid with
  | none => c
  | some g =>
    let blocks := (List.range g.mb).filter (fun i => decide (0 < g.nb) && (List.range g.nb).all (fun k => x.gated.contains (g.tile i k)))
    { c with out := applyHits x.hits (markAbsent w d g blocks c.out) }

/-- The batch samples over which GATE_NODE is gated, when this node is it (R176, R294). -/
def State.gateOf (s : State) (j : Job) (n : Nat) : Option (List Sample) :=
  match s.jobWord j 0 with
  | none => none
  | some w0 =>
    if wOpc w0 = 0x20 ∧ bitsOf w0 32 1 = 1 ∧ bitsOf w0 48 16 = n then
      some (j.batchUp (fun k => (s.jobWord j k).getD 0) n n)
    else none

/-- After its tiles, a node whose work is done commits: all passes of every tile issued, and the last fold (R346, R401). -/
def NodeSt.finished (x : NodeSt) (g : Grid) : Bool :=
  (List.range g.count).all (fun t => x.gated.contains t || x.passed.contains (g.passes - 1, t)) &&
    (!(g.fold && g.passes == 1) || (List.range g.mb).all (fun i => x.folded.contains (0, i))) &&
    decide (x.spectra.length = g.spectra ∨ g.count = 0)

def State.finishNode (s : State) (id n : Nat) : State :=
  match s.job? id with
  | none => s
  | some j =>
    let x := j.node n
    match x.grid, s.coreWord j n with
    | some g, some w =>
      -- the products of KNN feed its graph unit, which commits the node (R507)
      let knn := match s.jobWord j n with | some v => wOpc v == 0x55 | none => false
      if x.finished g ∧ x.committed = false ∧ knn = false then (s.commitNode id n (s.calcNode j n w).out).wake id else s
    | _, _ => s

/-- A core node's instruction runs (R278, R289 to R291, R336 to R338): its sources checked, its grid fixed, its tile jobs made,
gated or not (R294, R295), and its result formed from its sources. -/
def State.runNode (s : State) (id n opc : Nat) : State :=
  match s.nodeFor id n opc with
  | none => s
  | some (j, w) =>
    if (coreSrcs w).all (fun q => s.srcReady j q.2 (q.1 == 64)) = true ∧ s.tblReady j n opc = true then
      let d := s.descOf j.prog (wDesc w)
      let q := j.srcs w
      let k := j.sampling w d q
      let m := rowsM d k.1
      let plan := match (s.prog j.prog).plan[wPlan w]? with | some e => planSize e | none => 0
      match roiOver w d (j.node (wA w)).count q with
      | some _ => s.faultJob j n 0x0701 (cdiv (planNeed w d m k.1) 1024) (plan / 1024)
      | none =>
        match nodeFault w d m k.1 plan q with
        | some f => s.faultJob j n f.1 f.2.1 f.2.2
        | none =>
          let g := gridOf w d m k.1
          let gate := s.gateOf j n
          let skip := fun (i : Nat) => (match gate with | some l => !gateBlock w d g l i | none => false) || inputAbsent w d g (j.sampleOf w d) q i
          let gated := (List.range g.count).filter (fun t => skip (g.at t).1)
          let s1 := (s.roiCounts j w d q).updNode id n (fun x => { x with
            ran := true, queued := true, count := k.1, recs := k.2.1, own := k.2.2, grid := some g, gated := gated
            unready := (List.range g.count).filter (fun t => !gated.contains t) })
          -- a picture whose tiles are all issued counts for REFRESH (R177): those that touch the job's own samples
          let u := max 1 (dMUnit d)
          let s2 := match gate, j.kind with
            | some l, .frame st seq _ =>
              if (List.range g.mb).all (fun i => gateBlock w d g l i || (blockRows w d g i).all (fun r => !k.2.2.contains (r / u))) then
                s1.setStream st { s1.stream st with lastFull := seq }
              else s1
            | _, _ => s1
          let s3 := match s2.job? id with
            | some j2 => let c := s2.calcNode j2 n w; s2.updNode id n (fun x => { x with out := c.out })
            | none => s2
          -- gating is decided: what only it still read returns (R175, R182)
          ((if gate.isSome then s3.releasePic id else s3).wake id).finishNode id n
    else s

/-- MATMUL (R353): a matrix product on the lane row with an epilogue of the menu. -/
def execMatmul (job node : Nat) (s : State) : Host.Outcome State Fault Refusal := .next (s.runNode job node 0x30)
/-- CONV (R470). -/
def execConv (job node : Nat) (s : State) : Host.Outcome State Fault Refusal := .next (s.runNode job node 0x34)
/-- CONV_DW (R475). -/
def execConvDw (job node : Nat) (s : State) : Host.Outcome State Fault Refusal := .next (s.runNode job node 0x35)
/-- CONV_FFT (R476): its data tiles wait for its spectrum jobs (R477). -/
def execConvFft (job node : Nat) (s : State) : Host.Outcome State Fault Refusal := .next (s.runNode job node 0x36)
/-- POOL (R479). -/
def execPool (job node : Nat) (s : State) : Host.Outcome State Fault Refusal := .next (s.runNode job node 0x37)
/-- ARGMAX_C (R480). -/
def execArgmaxC (job node : Nat) (s : State) : Host.Outcome State Fault Refusal := .next (s.runNode job node 0x38)
/-- ROI_ALIGN (R482). -/
def execRoiAlign (job node : Nat) (s : State) : Host.Outcome State Fault Refusal := .next (s.runNode job node 0x39)
/-- VEC (R412). -/
def execVec (job node : Nat) (s : State) : Host.Outcome State Fault Refusal := .next (s.runNode job node 0x40)
/-- ROWSTAT (R399). -/
def execRowstat (job node : Nat) (s : State) : Host.Outcome State Fault Refusal := .next (s.runNode job node 0x41)
/-- SOFTMAX (R406). -/
def execSoftmax (job node : Nat) (s : State) : Host.Outcome State Fault Refusal := .next (s.runNode job node 0x42)
/-- NORM (R414). -/
def execNorm (job node : Nat) (s : State) : Host.Outcome State Fault Refusal := .next (s.runNode job node 0x43)
/-- CHAIN (R455): each tile job is a row block of queries over all its keys. -/
def execChain (job node : Nat) (s : State) : Host.Outcome State Fault Refusal := .next (s.runNode job node 0x48)

/-! ### Placement (R536, R537, R539) -/

/-- The core that already holds a row block's long-lived hold (R447, R456). -/
def State.groupCore (s : State) (t : TileJob) : Option Nat :=
  (List.range 64).find? (fun c => (s.core c).holds.any (fun h => h.job == t.job && h.node == t.node && h.group == t.group))

/-- The tile job needs a remote tag: operand A comes from a receive node whose tiles have not all come (R557). -/
def State.needsTag (s : State) (t : TileJob) : Bool :=
  match s.job? t.job with
  | none => false
  | some j =>
    match s.jobWord j t.node with
    | none => false
    | some w =>
      (coreSrcs w).any (fun q => !(j.node q.2).committed && (match s.jobWord j q.2 with | some v => wOpc v == 0x61 | none => false))

/-- The row block's hold is in a saved context, or is being saved: its tiles wait for the restore (R553, R556). -/
def State.holdAway (s : State) (t : TileJob) : Bool :=
  let mine := fun (l : List Hold) => l.any (fun h => h.job == t.job && h.node == t.node && h.group == t.group)
  s.sched.saved.any (fun c => mine c.holds) ||
    s.cores.any (fun c => match c.2.saving with | some k => mine k.holds | none => false)

/-- A core is free for a tile job (R537). -/
def State.coreFree (s : State) (t : TileJob) (c : Nat) : Bool :=
  s.coreTakes c t.marver && t.avoid != some c &&
    (t.hold == 0 || !s.holdAway t && (match s.groupCore t with
      | some g => g == c
      | none => decide ((s.core c).longHeld + t.hold ≤ 24))) &&
    (!s.needsTag t || decide (((s.core c).tags.filter (fun q => !q.arrived)).length < 64))

/-- The core a tile job goes to (R536, R537): the home cluster when it has a free core, else the cluster with the most, and in
it the lowest free core. -/
def State.placeOn (s : State) (t : TileJob) : Option Nat :=
  let home := match s.job? t.job with | some j => j.home | none => 0
  let free := fun (k : Nat) => (List.range 8).filter (fun i => s.coreFree t (8 * k + i))
  let n := fun (k : Nat) => (free k).length
  let best := (List.range 8).foldl (fun a k => if n a < n k then k else a) 0
  let k := if 0 < n home then home else best
  (free k).head?.map (8 * k + ·)

/-- The order of tile jobs within a class (R539). -/
def TileJob.before (now : Nat) (a b : TileJob) : Bool :=
  if olderTicket now a.ticket b.ticket then true
  else if olderTicket now b.ticket a.ticket then false
  else if a.node ≠ b.node then decide (a.node < b.node)
  else if a.tile ≠ b.tile then decide (a.tile < b.tile)
  else if a.stream ≠ b.stream then decide (a.stream < b.stream)
  else if a.ring ≠ b.ring then decide (a.ring < b.ring) else decide (a.slot < b.slot)

/-- The first of some tile jobs in that order; of equals, the one queued first. -/
def firstTile (now : Nat) : List TileJob → Option TileJob
  | [] => none
  | t :: l =>
    match firstTile now l with
    | none => some t
    | some u => if TileJob.before now u t then some u else some t

/-- A saved context of the class goes before this tile job (R556). -/
def State.savedFirst (s : State) (t : TileJob) : Bool :=
  s.sched.saved.any (fun c => c.svc == t.svc && olderTicket s.ticketNow c.ticket t.ticket)

/-- The tile job that a class would place now: its first one with a free core (R539). -/
def State.nextOf (s : State) (svc : Nat) : Option (TileJob × Nat) :=
  if s.rd (Reg.SCHED_CLS_CFG_STATE svc) ≠ 1 then none
  else
    match firstTile s.ticketNow (s.sched.ready.filter (fun t => t.svc == svc && (s.placeOn t).isSome && !s.savedFirst t)) with
    | none => none
    | some t => (s.placeOn t).map (fun c => (t, c))

/-- A core is free for a saved context (R330, R537, R556, R557). -/
def State.ctxFits (s : State) (k : SavedCtx) (c : Nat) : Bool :=
  let x := s.core c
  decide (s.coreState c < 2) && x.saving.isNone && decide (x.placed.length + x.runs.length + k.unfinished.length ≤ 1024) &&
    (s.coreTakes c false || s.coreTakes c true) &&
    decide (x.longHeld + sumNat (k.holds.map (·.blocks)) ≤ 24) &&
    k.tags.all (fun q => x.tags.all (fun r => r.tag != q.tag)) && decide (k.tags.length + x.tags.length ≤ 64)

/-- The saved context that a class would resume now: its oldest one, when no older tile job can be placed (R556). -/
def State.nextCtx (s : State) (svc : Nat) : Option SavedCtx :=
  if s.rd (Reg.SCHED_CLS_CFG_STATE svc) = 1 ∧ (s.nextOf svc).isNone = true then
    (s.sched.saved.filter (fun k => k.svc == svc)).foldl (fun (a : Option SavedCtx) k => match a with
      | none => some k
      | some b => if olderTicket s.ticketNow k.ticket b.ticket then some k else some b) none
  else none

/-- The class that places next (R539): the lowest one below its entitlement, else the lowest. -/
def State.classNext (s : State) : Option Nat :=
  let l := (List.range 4).filter (fun n => (s.nextOf n).isSome ||
    (match s.nextCtx n with | some k => (List.range 64).any (s.ctxFits k) | none => false))
  match l.find? (fun n => decide (s.coresHeld n < s.entitled n)) with
  | some n => some n
  | none => l.head?

/-- Longest wait of a class (R563). -/
def State.maxWait (s : State) (t : TileJob) : State :=
  let us := min (2 ^ 31 - 1) ((s.time.mono - t.since) / 1000)
  if s.rd (Reg.SCHED_CLS_MAXWAIT_US t.svc) < us then s.wr (Reg.SCHED_CLS_MAXWAIT_US t.svc) us else s

/-- Put a tile job on a core: its hold and remote tag are taken (R330, R537, R557). -/
def State.placeTile (s : State) (t : TileJob) (c : Nat) : State :=
  let x := s.core c
  let hold := if t.hold = 0 ∨ (s.groupCore t).isSome = true then x.holds
    else x.holds ++ [{ job := t.job, node := t.node, group := t.group, blocks := t.hold }]
  let used := x.tags.map (·.tag)
  let tag := match (List.range 64).find? (fun n => !used.contains n) with | some n => n | none => 0
  let tags := if s.needsTag t then x.tags ++ [{ tag := tag, tj := t }] else x.tags
  let s1 := { s with sched := { s.sched with ready := s.sched.ready.erase t } }
  ((s1.setCore c { x with placed := x.placed ++ [t], holds := hold, tags := tags }).maxWait t).cnt 0x0600 t.svc

/-- TILE_JOB_PLACEMENT (R536, R537, R539): the class places the tile job that is next, when it is this class's turn. -/
def execTileJobPlacement (svc : Nat) (s : State) : Host.Outcome State Fault Refusal :=
  if s.classNext = some svc ∧ s.sched.saving = false then
    match s.nextOf svc with
    | some (t, c) => .next ((s.placeTile t c).note c)
    | none => .next s
  else .next s

/-! ### Issue (R325, R329, R331, R345, R376, R423, R538) -/

/-- Columns of a tile, and K of its products. -/
def tileCols (w : Nat) (g : Grid) (t : Nat) : Nat :=
  if wOpc w = 0x36 then 1 else if wOpc w = 0x38 ∨ wOpc w = 0x48 then g.n else min 256 (g.n - (g.at t).2 * 256)

/-- Reduction elements of a chunk (R325): the largest power of two from 32 up that fits half of the staging area; none when
32 does not fit.  The term of an operand that the core's tile store holds drops out (R326). -/
def chunkElems (d rows cols resident outArea : Nat) (aHeld bHeld : Bool) : Option Nat :=
  let room := 1536 * 1024 - resident - outArea
  -- bytes of kc elements of both operands, twice; sub-byte formats and block scales in 1/256 bytes
  let per := fun (f : Nat) (sc : Bool) => fmtBits f * 32 + (if sc then 8 else 0)
  let need := fun (kc : Nat) =>
    2 * ((if aHeld then 0 else rows * per (dAfmt d) (dAsc d)) + (if bHeld then 0 else cols * per (dBfmt d) (dBsc d))) * kc
  ((List.range 20).map (fun i => 32 * 2 ^ i)).foldl (fun a kc => if need kc ≤ room * 256 then some kc else a) none

/-- Chunks of a tile: (number of chunks, it waits for room) (R325, R326, R455, R471): none when the core's tile store holds every operand;
`aHeld` and `bHeld` say so of A and of all the others. -/
def tileChunks (w d rows cols resident : Nat) (split aHeld bHeld : Bool) : Nat × Bool :=
  let o := wOpc w
  let area := if split then rows * 1024 else cdiv (rows * (cdiv cols 16 * 16) * fmtBits (dOfmt d)) 8
  if aHeld && bHeld then (0, false)
  else if o = 0x30 then
    if dK d = 0 then (0, false)
    else
      match chunkElems d rows cols resident area aHeld bHeld with
      | some kc => (cdiv (dK d) kc, false)
      | none => (0, true)
  else if o = 0x34 then (cvKh d, false)
  else if o = 0x48 then (cdiv (chNkv d) 256, false)
  else (1, false)

/-- Some node of the job still has to read node n. -/
def State.readersLeft (s : State) (j : Job) (n : Nat) : Bool :=
  (((s.prog j.prog).routeWords j.route).zipIdx).any (fun q =>
    (wordSrcs q.1).any (fun p => p.2 == n) && !(j.node q.2).committed)

/-- The core whose tile store holds the DEST 1 batch that is a node's output (R239). -/
def State.batchOn (s : State) (j : Job) (n : Nat) : Option Nat :=
  match (j.node n).out with
  | .batch e seq _ =>
    (s.shp.batches.find? (fun b => b.key.prog == j.prog && b.key.route == j.route && b.key.node == n && b.shp == e && b.svc == j.svc &&
      b.seq == seq)).bind (·.core)
  | _ => none

/-- Some rows of a source lie in a core's tile store (R325, R326): of a DEST 1 batch held there, or of an output of PLACE 1 whose tiles
that hold them are there. -/
def State.heldOn (s : State) (j : Job) (c n : Nat) (rows : Option (List (Nat × Nat))) : Bool :=
  let x := j.node n
  match x.grid with
  | none => s.batchOn j n == some c || x.on.any (fun q => q.2.2 == c)
  | some g => s.inStore j n && (g.holding rows).all (fun i => (List.range g.nb).all (fun k =>
      x.gated.contains (g.tile i k) || x.on.contains (g.passes - 1, g.tile i k, c)))

/-- The tile store of a core holds operand A of a tile, and every other operand it streams (R326): the columns of a tile are rows of a
stationary operand stored by columns (R323). -/
def State.operandsHeld (s : State) (j : Job) (c w d : Nat) (g : Grid) (t : Nat) : Bool × Bool :=
  let o := wOpc w
  let ij := g.at t
  let cols := if (o = 0x30 ∧ dBtrans d = false) ∨ o = 0x34 then some [(256 * ij.2, min (256 * (ij.2 + 1)) g.n)] else none
  let others := if o = 0x48 then [wB w, wC w] else if o = 0x30 ∨ isConv o = true then [wB w] else [wB w, wC w]
  (s.heldOn j c (wA w) (some (aRows w d g (j.sampleOf w d) ij.1)),
   (others.filter (· ≠ 0xFFFF)).all (fun n => s.heldOn j c n cols))

/-- Outputs that are resident in a core's tile store: (job, node, pass, tile) (R325, R664). -/
def State.residentTiles (s : State) (c : Nat) : List (Nat × Nat × Nat × Nat) :=
  s.jobs.flatMap (fun j => j.nodes.flatMap (fun q =>
    match q.2.grid with
    | none => if s.readersLeft j q.1 then (q.2.on.filter (fun x => x.2.2 == c)).map (fun x => (j.id, q.1, x.1, x.2.1)) else []
    | some g =>
      let l := q.2.on.filter (fun x => x.2.2 == c && x.1 + 1 == g.passes)
      if l.isEmpty then []
      else if s.inStore j q.1 && s.readersLeft j q.1 then l.map (fun x => (j.id, q.1, x.1, x.2.1)) else []))

/-- Bytes of a resident output. -/
def State.residentBytes (s : State) (x : Nat × Nat × Nat × Nat) : Nat :=
  match s.job? x.1 with
  | none => 0
  | some j =>
    match (j.node x.2.1).grid, s.coreWord j x.2.1 with
    | some g, some w =>
      let i := (g.at x.2.2.2).1
      (min (g.tm * (i + 1)) g.m - g.tm * i) * rowBytes (dOfmt (s.coreDesc j x.2.1 w)) (tileCols w g x.2.2.2)
    | none, _ => (outBytes (j.node x.2.1).out).length
    | _, none => 0

/-- Bytes resident in a core's tile store: held values (R447), outputs of PLACE 1 and batches of DEST 1 (R325). -/
def State.resident (s : State) (c : Nat) : Nat :=
  sumNat ((s.core c).holds.map (fun h =>
    match s.job? h.job with
    | none => 0
    | some j =>
      match (j.node h.node).grid with
      | some g => if g.hold then g.tm * padRow 9 g.n * 4 else 0
      | none => 0)) +
  sumNat ((s.residentTiles c).map s.residentBytes) +
  (1572864 - s.storeRoom c)

/-- What a placed tile job would take at its issue: blocks, split, chunks; none while something is missing (R329, R331, R376,
R538). -/
def State.issueNeeds (s : State) (c : Nat) (t : TileJob) : Option (Nat × Bool × Nat) :=
  let x := s.core c
  match s.job? t.job with
  | none => none
  | some j =>
    match s.coreWord j t.node, (j.node t.node).grid with
    | some w, some g =>
      let d := s.coreDesc j t.node w
      let full := if t.marver then 0 else cdiv t.rows 16
      let f := 32 - x.longHeld
      let blocks := min full f
      let split := decide (f < full)
      let ch := if t.pass ≠ 0 then (0, false) else 
        let h := s.operandsHeld j c w d g t.tile
        tileChunks w d t.rows (tileCols w g t.tile) (s.resident c) split h.1 h.2
      let slotOk := !t.scale || decide ((x.runs.filter (fun r => r.slot.isSome)).length + x.scaleSlots.length < 16)
      let tagOk := x.tags.all (fun q => q.tj != t || q.arrived)
      if blocks ≤ x.accFree ∧ ch.2 = false ∧ slotOk = true ∧ tagOk = true then some (blocks, split, ch.1) else none
    | _, _ => none

/-- The lowest free scale slot of a core (R376). -/
def Core.freeSlot (x : Core) : Nat :=
  let used := x.scaleSlots ++ x.runs.filterMap (·.slot)
  match (List.range 16).find? (fun k => !used.contains k) with
  | some k => k
  | none => 0

/-- The scales of a tile's columns are loaded into a slot; lanes beyond the last column load 1.0 (R376). -/
def State.loadScales (s : State) (c slot w n j : Nat) (o : NodeOut) : State :=
  let v := (scales32 w n o).drop (256 * j) |>.take 256
  ((padTo 256 one32 v).zipIdx).foldl (fun s x => s.setReg (Reg.CORE_SCALE_ENTRY c (256 * slot + x.2)) (BitVec.ofNat 32 x.1)) s

/-- TILE_ISSUE (R538): the placed tile job of the core with the oldest ticket among those that have all they need. -/
def execTileIssue (core : Nat) (s : State) : Host.Outcome State Fault Refusal :=
  let x := s.core core
  if s.coreState core < 2 then
    let can := x.placed.filter (fun t => (s.issueNeeds core t).isSome)
    match can.foldl (fun (a : Option TileJob) t => match a with
        | none => some t
        | some u => if olderTicket s.ticketNow t.ticket u.ticket then some t else some u) none with
    | none => .next s
    | some t =>
      match s.issueNeeds core t, s.job? t.job with
      | some (blocks, split, chunks), some j =>
        let w := (s.coreWord j t.node).getD 0
        let inj := !t.marver && decide (s.rd (Reg.CORE_LRW_CTRL_CK_INJECT core) = 1)
        let slot := if t.scale then some x.freeSlot else none
        -- a chain resumes behind its last committed step (R458)
        let past := min chunks <| match (j.node t.node).steps.find? (fun q => q.1 == t.group) with | some q => q.2 | none => 0
        let r : RunTile := { tj := t, blocks := blocks, chunks := chunks, slot := slot, inject := inj
                             staged := List.range past }
        let s1 := s.setCore core { x with placed := x.placed.erase t, runs := x.runs ++ [r], cls := some t.svc
                                          tags := x.tags.filter (fun q => q.tj != t) }
        let s2 := if inj then s1.wr (Reg.CORE_LRW_CTRL_CK_INJECT core) 0 else s1
        let s3 := if split then ((s2.wr (Reg.CORE_LRW_STICKY_ACC_SPLIT core) 1).cnt 0x0801 core).bump
          (Reg.CORE_LRW_SPLITS_COUNT core) else s2
        let s4 := s3.updNode t.job t.node (fun n => { n with gen := some (n.gen.getD s3.tbl.gen) })
        let s5 := match slot, (j.node t.node).grid with
          | some k, some g => s4.loadScales core k w g.n (g.at t.tile).2 (j.srcs w).sc
          | _, _ => s4
        .next (s5.note core)
      | _, _ => .next s
  else .next s

/-- CHUNK_STAGED (R327): the chunk arrives for the first tile on the core that waits for it. -/
def execChunkStaged (core chunk : Nat) (s : State) : Host.Outcome State Fault Refusal :=
  let x := s.core core
  .next (s.setCore core { x with
    runs := updFirst (fun r => decide (chunk < r.chunks) && !r.staged.contains chunk) (fun r => { r with staged := r.staged ++ [chunk] })
      x.runs })

/-! ### Commit (R346, R357, R381, R434, R451, R461) -/

/-- Passes per segment of a menu entry: first and later pass (R437, R439). -/
def menuPasses (m : Nat) : Nat × Nat :=
  match m with
  | 0 => (1, 0) | 1 => (2, 0) | 2 => (2, 0) | 3 => (3, 0) | 12 => (3, 0) | 13 => (4, 0) | 14 => (2, 0) | 15 => (3, 0)
  | 16 => (4, 0) | 17 => (3, 0) | 18 => (3, 0) | 19 => (3, 0) | 20 => (4, 0) | 21 => (3, 4) | 22 => (2, 3) | 23 => (8, 3)
  | 24 => (8, 3) | 25 => (8, 3) | 26 => (1, 0) | 27 => (2, 0) | 28 => (3, 0) | 29 => (3, 0) | 30 => (3, 0) | _ => (4, 0)

/-- Marver passes per segment of a tile's pass (R395, R428, R437, R475, R479, R483). -/
def mrvPasses (w d pass : Nat) : Nat :=
  let o := wOpc w
  let e := menuPasses (wMenu w)
  let mul := if outMulOn (dOutMul d) then 1 else 0
  if o = 0x30 ∨ o = 0x34 then (if pass = 0 then e.1 + (if e.2 = 0 then mul else 0) else e.2 + mul)
  else if o = 0x35 then cvKh d * cvKw d + 1 + (e.1 + mul - 1)
  else if o = 0x37 then (if cvPmode d = 3 then cvIw d * cvIh d + 3 else cvKh d * cvKw d + (if cvPmode d = 0 then 1 else 3))
  else if o = 0x39 then 4 * cvSr d * cvSr d + 2
  else if o = 0x40 then (match mvOp d with | 0 => 1 | 1 => 3 | 2 => 4 | _ => 2)
  else if o = 0x41 then (if bitsOf (mvSel d) 2 2 = 0 then 2 else 3)
  else if o = 0x42 then 7
  else if mvOp d = 0 then 5 else 4

/-- LCLK cycles of the marver for a tile's pass (R395, R457, R477, R480). -/
def mrvCycles (w d rows cols pass resc : Nat) : Nat :=
  let o := wOpc w
  if o = 0x36 then (let f := fftF d; 2 * (f * f * (if cvX0 d = 1 then 7 else 6) / 32) + f * f / 16)
  else if o = 0x38 then rows * (cdiv cols 64 + 2)
  else if o = 0x48 then
    rows * 36 * cdiv (chNkv d) 256 + 2 * cdiv cols 64 * resc + rows * (2 + 2 * cdiv cols 64)
  else rows * mrvPasses w d pass * cdiv cols 64

/-- LCLK cycles with a broadcast of a lane-row tile (R310, R317, R457). -/
def laneCycles (w d rows : Nat) : Nat :=
  if wOpc w = 0x48 then
    cdiv (chNkv d) 256 * rows * (cdiv (dK d) (groupSize (chQ d) (chK d)) + 256 / groupSize (chP d) (chV d))
  else rows * cdiv (dK d) (groupSize (dAfmt d) (dBfmt d))

def State.add64 (s : State) (lo hi n : Nat) : State := s.wr64 lo hi (s.rd64 lo hi + n)

/-- The marver's counters and sticky bits of a tile (R408 to R410, R434, R480). -/
def State.mrvCount (s : State) (c : Nat) (n : NumCnt) : State :=
  let add := fun (s : State) (id k : Nat) (f : RegField) => if k = 0 then s else (s.cnt id c k).wr f 1
  let s1 := add s 0x0900 n.masked (Reg.CORE_MRV_STICKY_ROW_ALL_MASKED c)
  let s2 := add s1 0x0901 n.floor (Reg.CORE_MRV_STICKY_SM_FLOOR c)
  let s3 := add s2 0x0902 n.nanRows (Reg.CORE_MRV_STICKY_ROW_NAN c)
  if n.argNan = 0 then s3 else s3.wr (Reg.CORE_MRV_STICKY_ROW_NAN c) 1

/-- The cycle counters of a tile that committed (R358, R435). -/
def State.cycleCount (s : State) (c w d : Nat) (g : Grid) (t : TileJob) (resc : Nat) : State :=
  let cols := tileCols w g t.tile
  let s1 := s.add64 (Reg.CORE_MRV_BUSY_LO c) (Reg.CORE_MRV_BUSY_HI c) (mrvCycles w d t.rows cols t.pass resc)
  if t.marver then s1
  else
    let n := laneCycles w d t.rows
    (s1.add64 (Reg.CORE_LRW_STREAM_LO c) (Reg.CORE_LRW_STREAM_HI c) n).add64 (Reg.CORE_LRW_LANEOPS_LO c)
      (Reg.CORE_LRW_LANEOPS_HI c) (n * cols)

/-- Some node of the job sends the tiles of node n to a peer (R461). -/
def State.sentTo (s : State) (j : Job) (n : Nat) : Bool :=
  ((s.prog j.prog).routeWords j.route).any (fun v => wOpc v == 0x60 && bitsOf v 80 16 == n)

/-- The long-lived hold of a row block is released when its last pass has committed (R450, R456). -/
def State.dropHold (s : State) (c : Nat) (t : TileJob) (x : NodeSt) (g : Grid) : State :=
  if t.hold ≠ 0 ∧ x.blockDone g t.group = true then
    let k := s.core c
    let s1 := s.setCore c { k with holds := k.holds.filter (fun h => !(h.job == t.job && h.node == t.node && h.group == t.group)) }
    if g.hold then s1.cnt 0x0980 c else s1
  else s

/-- Every receiving tile job that reads a received tile has committed (R641). -/
def Job.tileRead (j : Job) (s : State) (h : HeldTile) : Bool :=
  let ws := (s.prog j.prog).routeWords j.route
  match Job.recvNode ws h with
  | none => false
  | some r =>
    match (j.node r).grid with
    | none => false
    | some g =>
      let i := (g.at h.msg.id.tile).1
      (List.range ws.length).all (fun n =>
        let pos := (wordSrcs (ws.getD n 0)).filter (fun q => q.2 == r)
        pos.isEmpty || (j.node n).committed ||
          (match (j.node n).grid, s.coreWord j n with
           | some gn, some w =>
             pos.all (fun q => q.1 == 64) && (List.range gn.count).all (fun t =>
               (j.node n).gated.contains t || (j.node n).passed.contains (gn.passes - 1, t) ||
                 (aRows w (s.coreDesc j n w) gn (j.sampleOf w (s.coreDesc j n w)) (gn.at t).1).all (fun q =>
                   !(decide (q.1 < (i + 1) * g.tm) && decide (i * g.tm < q.2))))
           | _, _ => false))

/-- Received tiles that a job has read are released (R641). -/
def State.releaseRead (s : State) (id : Nat) : State :=
  match s.job? id with
  | none => s
  | some j => (s.lnk.heldTiles.filter (fun h => h.job == some id && j.tileRead s h)).foldl State.releaseTile s

/-- A lane's accumulator reaches one output element of its row: the epilogue is no two-pass, gated or block-scaled one, and the node no
CHAIN (R437, R458). -/
def laneAlone (w d : Nat) : Bool :=
  wOpc w != 0x48 && !menuTwoPass (wMenu w) && (menuGate (wMenu w)).isNone && !dOsc d

/-- The upsets of a tile that no comparison caught stand in its node's output from now on (R342, R345). -/
def State.noteHits (s : State) (r : RunTile) (w d : Nat) (g : Grid) : State :=
  let t := r.tj
  let ij := g.at t.tile
  let rows := blockRows w d g ij.1
  let col := fun (k : Option Nat) => if laneAlone w d then k.map (256 * ij.2 + ·) else none
  let l := r.upsets.filterMap (fun u => (rows[u.1]?).map (fun i => (i, col u.2)))
  if l.isEmpty then s
  else
    let size := 2 * (g.n + 1)
    let s1 := s.updNode t.job t.node (fun x => { x with hits := x.hits ++ l.zipIdx.map (fun q => (q.1.1, q.1.2, s.free + size * q.2)) })
    { s1 with free := s1.free + size * l.length }

/-- A tile of the core commits (R346). -/
def State.commitTile (s : State) (c : Nat) (r : RunTile) : State :=
  let x := s.core c
  let t := r.tj
  let s1 := s.setCore c { x with runs := x.runs.erase r }
  let s2 := if t.marver then s1 else (s1.cnt 0x0800 c).bump (Reg.CORE_LRW_TILES_COUNT c)
  match s2.job? t.job with
  | none => s2
  | some j =>
    match s2.coreWord j t.node, (j.node t.node).grid with
    | some w, some g =>
      let d := s2.coreDesc j t.node w
      let cal := s2.calcNode j t.node w
      let n := tileCnt w d g cal t.pass t.tile
      let resc := sumNat ((blockRows w d g t.group).map (fun i => (cal.resc.getD i []).length))
      let s3 := ((s2.numCount c n).mrvCount c n).cycleCount c w d g t resc
      let s4 := if t.pass ≠ 0 ∧ t.pass + 1 = g.passes ∧ wOpc w < 0x40 then s3.cnt 0x0982 c else s3
      -- the products of an injected tile are inverted in every row of its lane (R345)
      let all := if r.inject then (List.range t.rows).map (fun i => (i, some (s.rd (Reg.CORE_LRW_CTRL_INJECT_LANE c)))) else []
      let s5 := s4.noteHits { r with upsets := r.upsets ++ all } w d g
      let fin := t.pass + 1 = g.passes
      let s6 := s5.updNode t.job t.node (fun q => { q with
        passed := q.passed ++ [(t.pass, t.tile)]
        out := applyHits q.hits cal.out
        on := (t.pass, t.tile, c) :: q.on.filter (fun e => !(e.1 == t.pass && e.2.1 == t.tile))
        sending := if fin ∧ s5.sentTo j t.node = true then q.sending ++ [t.tile] else q.sending
        -- in hold mode each tile's record is folded as the tile commits (R449)
        folded := if g.hold && decide (t.pass = 0) && (List.range g.nb).all (fun k =>
            g.tile t.group k == t.tile || q.gated.contains (g.tile t.group k) || q.passed.contains (0, g.tile t.group k))
          then q.folded ++ [(0, t.group)] else q.folded })
      match s6.job? t.job with
      | none => s6
      | some j2 =>
        let s7 := s6.dropHold c t (j2.node t.node) g
        let s8 := if fin ∧ g.passes = 2 ∧ g.hold = false ∧ wOpc w < 0x40 ∧ (j2.node t.node).blockDone g t.group = true
          then s7.cnt 0x0981 c else s7
        ((s8.wake t.job).finishNode t.job t.node).releaseRead t.job
    | _, _ => s2

/-- Every row of a tile has passed the marver, every chunk is staged, and every step of a CHAIN row block has committed
(R346, R458). -/
def State.tileDone (s : State) (r : RunTile) : Bool :=
  match s.job? r.tj.job with
  | none => true
  | some j =>
    let x := j.node r.tj.node
    let steps := match x.grid with | some g => g.steps | none => 0
    let done := match x.steps.find? (fun q => q.1 == r.tj.group) with | some q => q.2 | none => 0
    decide (r.staged.length = r.chunks) && (List.range r.tj.rows).all (fun k => r.drained.contains k) &&
      decide (done = steps)

/-- The core is IDLE after its stop and takes the tile job that caused the pre-emption, when it still waits (R552). -/
def State.backIdle (s : State) (c : Nat) : State :=
  let x := s.core c
  let s1 := (s.setCore c { x with lehr := 0, wants := none }).wr (Reg.CORE_LRW_STATUS_STATE c) 0
  match x.wants with
  | none => s1
  | some t => if s1.sched.ready.contains t && s1.coreFree t c then s1.placeTile t c else s1

/-- A core whose last running tile has committed at a stop closes its stop (R348, R351): nothing else runs and no context is
being saved. -/
def State.stopEnd (s : State) (c : Nat) : State :=
  let x := s.core c
  if x.runs.isEmpty && x.saving.isNone then
    match s.coreState c with
    | 2 =>
      if x.lehr = 1 then (s.setCore c { x with lehr := 0, wants := none }).wr (Reg.CORE_LRW_STATUS_STATE c) 4
      else if x.lehr = 4 then s
      else s.backIdle c
    | 3 => s.backIdle c
    | _ => s
  else s

/-- TILE_COMMIT (R346): the first tile on the core whose rows have all passed. -/
def execTileCommit (core : Nat) (s : State) : Host.Outcome State Fault Refusal :=
  match (s.core core).runs.find? s.tileDone with
  | none => .next s
  | some r => .next (((s.commitTile core r).stopEnd core).note core)

/-! ### Folds, later passes, spectra and steps -/

/-- Row blocks whose pass has committed in every column tile and is not folded yet (R401, R449): under AXIS 1 the rows of a
sample span row blocks, so every block waits for the last one. -/
def NodeSt.foldable (x : NodeSt) (g : Grid) (axis1 : Bool) : List (Nat × Nat) :=
  let passDone := fun (p i : Nat) => (List.range g.nb).all (fun j =>
    x.gated.contains (g.tile i j) || x.passed.contains (p, g.tile i j))
  let all := (List.range (if g.passes = 1 then 1 else g.passes - 1)).flatMap (fun p => (List.range g.mb).map (fun i => (p, i)))
  all.filter (fun q => !x.folded.contains q && passDone q.1 q.2 && (!axis1 || (List.range g.mb).all (passDone q.1)))

/-- FOLD_JOB (R401, R411, R449): the partial records are folded in ascending tile order. -/
def execFoldJob (job node : Nat) (s : State) : Host.Outcome State Fault Refusal :=
  match s.job? job with
  | none => .next s
  | some j =>
    match (j.node node).grid, s.jobWord j node with
    | some g, some w =>
      if g.fold = true ∧ (j.node node).committed = false then
        let d := s.descOf j.prog (wDesc w)
        let new := (j.node node).foldable g (wOpc w == 0x41 && mvLayout d == 1)
        .next ((s.updNode job node (fun x => { x with folded := x.folded ++ new })).finishNode job node)
      else .next s
    | _, _ => .next s

/-- SECOND_PASS_ISSUE (R411, R415, R450): after a fold the dispatcher issues the next pass of the folded row blocks. -/
def execSecondPassIssue (job node : Nat) (s : State) : Host.Outcome State Fault Refusal :=
  match s.job? job with
  | none => .next s
  | some j =>
    let x := j.node node
    match x.grid, s.coreWord j node with
    | some g, some w =>
      let new := x.folded.filter (fun q => decide (q.1 + 1 < g.passes) && !x.issued.contains (q.1 + 1, q.2))
      let tiles := new.flatMap (fun q => (List.range g.nb).filterMap (fun k =>
        let t := g.tile q.2 k
        if x.gated.contains t then none else some (j.tileJob s w node g (q.1 + 1) t)))
      let s1 := s.updNode job node (fun x => { x with issued := x.issued ++ new.map (fun q => (q.1 + 1, q.2)) })
      .next ({ s1 with sched := { s1.sched with ready := s1.sched.ready ++ tiles } } : State).schedNote
    | _, _ => .next s

/-- SPECTRUM_JOB (R477): a channel's filter is transformed; once every channel's is, the data tile jobs are ready. -/
def execSpectrumJob (job node channel : Nat) (s : State) : Host.Outcome State Fault Refusal :=
  match s.job? job with
  | none => .next s
  | some j =>
    match (j.node node).grid with
    | some g =>
      if channel < g.spectra ∧ (j.node node).spectra.contains channel = false then
        .next (((s.updNode job node (fun x => { x with spectra := x.spectra ++ [channel] })).wake job).finishNode job node)
      else .next s
    | none => .next s

/-- CHAIN_STEP_COMMIT (R458): the next step of a running row block commits; rows rescaled in it are counted (R463). -/
def execChainStepCommit (job node rowBlock : Nat) (s : State) : Host.Outcome State Fault Refusal :=
  match s.job? job with
  | none => .next s
  | some j =>
    let x := j.node node
    match x.grid, s.jobWord j node, (List.range 64).find? (fun c => (s.core c).runs.any (fun r =>
        r.tj.job == job && r.tj.node == node && r.tj.group == rowBlock)) with
    | some g, some w, some c =>
      let done := match x.steps.find? (fun q => q.1 == rowBlock) with | some q => q.2 | none => 0
      let mine := fun (r : RunTile) => r.tj.job == job && r.tj.node == node && r.tj.group == rowBlock
      -- every row of the second product has passed (R342)
      let ready := (s.core c).runs.any (fun r => mine r && (r.chunks == 0 || r.staged.contains done) &&
        (List.range r.tj.rows).all (fun k => r.drained.contains k))
      if wOpc w = 0x48 ∧ done < g.steps ∧ ready = true then
        let d := s.descOf j.prog (wDesc w)
        let cal := s.calcNode j node w
        let resc := (blockRows w d g rowBlock).filter (fun i => (cal.resc.getD i []).contains done)
        let s1 := s.updNode job node (fun y => { y with
          steps := (rowBlock, done + 1) :: y.steps.filter (fun q => q.1 != rowBlock) })
        let k := s1.core c
        let s2 := (if done + 1 < g.steps then s1.setCore c { k with runs := k.runs.map (fun r => if mine r then { r with drained := [], upsets := [] } else r) }
          else s1).cnt 0x0983 c
        let s2 := if done + 1 < g.steps then (k.runs.filter mine).foldl (fun s r => s.noteHits r w d g) s2 else s2
        .next (if resc.isEmpty then s2 else s2.cnt 0x0984 c resc.length)
      else .next s
    | _, _, _ => .next s

end Sys2Proof.Machine
end

