-- ==== Sys2Proof/Machine/Stop.lean ====
section
/-! DEFINITION. Stops (R348) and what they keep: discarded tiles, contexts being saved (R552 to R554), the fence of a core (R661 to
R665), and a job that runs again from its journal entry (R349, R556). -/

set_option Elab.async false

namespace Sys2Proof.Machine

/-! ### Tile jobs that return to their queues -/

/-- Tile jobs return to the front of their class queues with their tickets unchanged (R541, R552). -/
def State.requeue (s : State) (l : List TileJob) : State :=
  let alive := l.filter (fun t => (s.job? t.job).isSome)
  { s with sched := { s.sched with ready := alive.map (fun t => { t with since := s.time.mono }) ++ s.sched.ready } }

/-- A tile at most STOP_FIN LCLK cycles of broadcasting from its end runs to its commit (R348): its whole broadcast is no longer
than that, or rows of it have already drained. -/
def State.runsOn (s : State) (c : Nat) (r : RunTile) : Bool :=
  r.tj.marver || !r.drained.isEmpty ||
    (match s.job? r.tj.job with
     | none => true
     | some j =>
       match s.coreWord j r.tj.node with
       | none => true
       | some w => decide (laneCycles w (s.coreDesc j r.tj.node w) r.tj.rows ≤ s.rd (Reg.CORE_LRW_STOP_STOP_FIN c)))

/-- Tiles in progress are discarded at once: their blocks and staging are free, and LRW_DISCARDS counts them (R348). -/
def State.discardRuns (s : State) (c : Nat) (l : List RunTile) : State :=
  let x := s.core c
  let s1 := s.setCore c { x with runs := x.runs.filter (fun r => !l.contains r) }
  if l.isEmpty then s1 else (s1.cnt 0x0804 c l.length).bump (Reg.CORE_LRW_DISCARDS_COUNT c) l.length

/-! ### Contexts -/

/-- What of a core must be saved at a stop: long-lived holds, resident outputs or outstanding remote tags (R552). -/
def State.needsSave (s : State) (c : Nat) : Bool :=
  let x := s.core c
  !x.holds.isEmpty || x.tags.any (fun q => !q.arrived) || !(s.residentTiles c).isEmpty

/-- The job whose context a core holds: that of its first running tile, else of its holds, tags or resident outputs. -/
def State.ctxJob (s : State) (c : Nat) : Nat :=
  let x := s.core c
  match x.runs.head?, x.holds.head?, x.tags.head?, (s.residentTiles c).head? with
  | some r, _, _, _ => r.tj.job
  | _, some h, _, _ => h.job
  | _, _, some q, _ => q.tj.job
  | _, _, _, some q => q.1
  | _, _, _, _ => 0

/-- Bytes of a core's context (R553): its resident outputs, the values of the committed first-pass tiles of its groups in hold mode, its
held blocks of 16 KiB, and 64 KiB of fixed state. -/
def State.ctxBytes (s : State) (c : Nat) : Nat :=
  let held := sumNat ((s.core c).holds.map (fun h =>
    match s.job? h.job with
    | none => 0
    | some j =>
      match (j.node h.node).grid, s.coreWord j h.node with
      | some g, some w =>
        if g.hold then
          sumNat ((List.range g.nb).map (fun k =>
            let t := g.tile h.group k
            if (j.node h.node).passed.contains (0, t) then (blockRows w (s.coreDesc j h.node w) g h.group).length * tileCols w g t * 4 else 0))
        else 0
      | _, _ => 0))
  let out := sumNat ((s.residentTiles c).map (s.residentBytes))
  65536 + 16384 * sumNat ((s.core c).holds.map (·.blocks)) + held + out

/-- A save area is drawn for the context of a core, when it needs one: the state after the draw, and the context; none when no
area could be drawn (R553). -/
def State.drawCtx (s : State) (c : Nat) : State × Option (Option SavedCtx) :=
  if s.needsSave c then
    let x := s.core c
    let id := s.ctxJob c
    let svc := match s.job? id with | some j => j.svc | none => 0
    let ticket := match s.job? id with | some j => j.ticket | none => 0
    match s.draw 0 7 1 svc ticket true with
    | (s1, some (b :: _)) =>
      (s1, some (some { core := c, job := id, svc := svc, ticket := ticket, holds := x.holds, scaleSlots := x.scaleSlots
                        tags := x.tags, unfinished := [], resident := [], entry := s.ctxBytes c, area := b, whole := s.sched.saving }))
    | (s1, _) => (s1, none)
  else (s, some none)

/-- A core enters LEHR for a stop (R348, R552): placed tile jobs return to their queues, tiles close to their end run on and the
others are discarded.  With a context, the unfinished tile jobs that own its tags or holds stay with it. -/
def State.enterLehr (s : State) (c why : Nat) (ctx : Option SavedCtx) (wants : Option TileJob) : State :=
  let x := s.core c
  let cut := x.runs.filter (fun r => !s.runsOn c r)
  let left := cut.map (·.tj) ++ x.placed
  let stays := fun (t : TileJob) => ctx.isSome && (x.tags.any (fun q => q.tj == t) || x.holds.any (fun h =>
    h.job == t.job && h.node == t.node && h.group == t.group))
  let s1 := s.discardRuns c cut
  let s2 := s1.setCore c { s1.core c with
    placed := [], lehr := why, wants := wants
    saving := ctx.map (fun k => { k with unfinished := left.filter stays })
    tags := if ctx.isSome then x.tags else [] }
  ((s2.wr (Reg.CORE_LRW_STATUS_STATE c) 2).requeue (left.filter (fun t => !stays t)))

/-! ### Work that is lost with a core (R664) -/

/-- A row group in hold mode restarts from its first column tile, a CHAIN row block from step 0 (R664). -/
def State.restartGroup (s : State) (h : Hold) : State :=
  match s.job? h.job with
  | none => s
  | some j =>
    let x := j.node h.node
    match x.grid, s.coreWord j h.node with
    | some g, some w =>
      if wOpc w = 0x48 then
        s.updNode h.job h.node (fun x => { x with steps := x.steps.filter (fun q => q.1 != h.group) })
      else
        let mine := fun (t : Nat) => (g.at t).1 == h.group
        let tiles := ((List.range g.count).filter (fun t => mine t && !x.gated.contains t && !x.unready.contains t))
        let s1 := s.updNode h.job h.node (fun x => { x with
          passed := x.passed.filter (fun q => !mine q.2), on := x.on.filter (fun q => !mine q.2.1)
          folded := x.folded.filter (fun q => q.2 != h.group), issued := x.issued.filter (fun q => q.2 != h.group) })
        let s2 := { s1 with sched := { s1.sched with
          ready := s1.sched.ready.filter (fun t => !(t.job == h.job && t.node == h.node && t.group == h.group)) } }
        s2.requeue (tiles.map (j.tileJob s2 w h.node g 0))
    | _, _ => s

/-- Tile jobs whose output lay on the core alone are uncommitted again, and run again before their consumers (R664). -/
def State.loseTiles (s : State) (l : List (Nat × Nat × Nat × Nat)) : State :=
  l.foldl (fun s q =>
    match s.job? q.1 with
    | none => s
    | some j =>
      match (j.node q.2.1).grid, s.coreWord j q.2.1 with
      | some g, some w =>
        (s.updNode q.1 q.2.1 (fun x => { x with
          passed := x.passed.filter (fun p => p != (q.2.2.1, q.2.2.2)), committed := false
          on := x.on.filter (fun p => !(p.1 == q.2.2.1 && p.2.1 == q.2.2.2)) })).requeue
          [j.tileJob s w q.2.1 g q.2.2.1 q.2.2.2]
      -- what no core made is staged from its own source again
      | _, _ => s.updNode q.1 q.2.1 (fun x => { x with on := [] })) s

/-! ### The fence of a unit -/

/-- Record a code of class 0x0E in HLTH_ERR and the record file (R680). -/
def State.hlthErr (s : State) (inst code : Nat) (d0 d1 : Nat := 0) : State :=
  (s.setErr Reg.HLTH_ERR true (0, 0, 0) code).file .hlth inst code d0 d1

/-- Fenced cores, as HLTH shows them (R665, R678). -/
def State.fencedCores (s : State) : List Nat := (List.range 64).filter (fun c => s.coreState c == 5)

/-- HLTH's registers follow the fenced cores; the warning is given once per crossing (R665). -/
def State.fenceNote (s : State) : State :=
  let l := s.fencedCores
  let bits := sumNat (l.map (fun c => 2 ^ c))
  let s1 := ((s.setReg Reg.HLTH_FENCE_CORE_LO (BitVec.ofNat 32 bits)).setReg Reg.HLTH_FENCE_CORE_HI
    (BitVec.ofNat 32 (bits / 2 ^ 32))).wr Reg.HLTH_STATUS_FENCED_CORES l.length
  let lim := s.rd Reg.HLTH_HANG_FENCE_WARN
  if lim ≠ 0 ∧ lim ≤ l.length then
    if s1.hlth.warned then s1
    else
      let s2 := { s1 with hlth := { s1.hlth with warned := true } }
      (s2.hlthErr 0xFFFF 0x0E07 l.length lim).devError 0x0E07 l.length lim
  else { s1 with hlth := { s1.hlth with warned := false } }

/-- The fence is filed with its cause, and counted; a cause whose own code writes no ERROR pennant gives HLTH_FENCE (R661,
R680). -/
def State.fenceFiled (s : State) (kind unit code : Nat) (own : Bool) : State :=
  let s1 := s.cnt 0x0E00 0
  if own then s1
  else (s1.hlthErr unit 0x0E01 (kind * 256 + unit) code).devError 0x0E01 (kind * 256 + unit) code

/-- A core is isolated (R663, R664): uncommitted tile jobs return to the front of their queues, and what lived only on the core is
lost and made again. -/
def State.fenceCore (s : State) (c : Nat) : State :=
  let x := s.core c
  let away := match x.saving with | some k => k.unfinished | none => []
  let lost := s.residentTiles c
  let s1 := s.discardRuns c x.runs
  let s2 := s1.setCore c { s1.core c with placed := [], holds := [], tags := [], scaleSlots := [], checks := [], saving := none
                                          wants := none, lehr := 0 }
  let s3 := match x.saving with | some k => s2.free1 7 k.area | none => s2
  let s4 := (s3.wr (Reg.CORE_LRW_STATUS_STATE c) 5).requeue (x.runs.map (·.tj) ++ x.placed ++ away)
  let s5 := (x.holds.foldl State.restartGroup s4).loseTiles lost
  (s5.fenceNote).note c

/-! ### Stops of a core by register or event -/

/-- A core stops for a cause other than pre-emption: its context is saved, or, when no save area can be drawn, its holds restart
from their first tile. -/
def State.stopCore (s : State) (c why : Nat) : State :=
  match s.drawCtx c with
  | (s1, some k) => ((s1.enterLehr c why k none).stopEnd c).note c
  | (s1, none) =>
    let x := s1.core c
    let s2 := (s1.setErr Reg.SCHED_ERR true (16, 7, c) 0x0602).file .sched c 0x0602
    let lost := s2.residentTiles c
    let s3 := s2.enterLehr c why none none
    let s4 := s3.discardRuns c (s3.core c).runs
    let s5 := (s4.setCore c { s4.core c with holds := [], tags := [], scaleSlots := [] }).requeue ((s3.core c).runs.map (·.tj))
    let s6 := (x.holds.foldl State.restartGroup s5).loseTiles lost
    (s6.stopEnd c).note c

/-! ### A job that runs again (R133, R349, R556, R613) -/

/-- The job runs again from its journal entry and frame checkpoint: the nodes of cores run again from their sources, with a new
ticket (R544) and plan copies drawn again (R575), and its tiles are handed over again (R462).  What DEC, SHP, GTH and SGS made of the frame would come out the same and stands; pennants already posted are
not posted again. -/
def State.rerunJob (s : State) (id : Nat) : State :=
  match s.job? id with
  | none => s
  | some j =>
    let s1 := s.dropTiles id
    let s2 : State := { s1 with cores := s1.cores.map (fun q => (q.1, { q.2 with runs := q.2.runs.filter (fun r => r.tj.job != id) })) }
    let again := fun (n : Nat) (x : NodeSt) =>
      match s2.jobWord j n with
      | some w =>
        if (wOpc w = 0x30 ∨ isConv (wOpc w) = true ∨ isMrv (wOpc w) = true ∨ wOpc w = 0x48 ∨
            (wOpc w = 0x55 ∧ x.committed = false)) then ({ gen := x.gen } : NodeSt)
        else if wOpc w = 0x60 then {} else x
      | none => x
    let s2 := (j.plan.getD []).foldl (fun s q => s.freeAll q.2.1 q.2.2) s2
    let s3 := s2.updJob id (fun j => { j with
      ticket := s2.ticketNow, rerun := true, plan := if (s2.planEntries j).isEmpty then some [] else none
      nodes := (j.nodes.map (fun q => (q.1, again q.1 q.2))).filter (fun q => q.2 != ({} : NodeSt)) })
    { s3 with
      sgs := { s3.sgs with ops := s3.sgs.ops.filter (fun o => !(o.job == id && o.unit == 3)) }
      lnk := { s3.lnk with sent := s3.lnk.sent.filter (fun t => t.job != id) } }

end Sys2Proof.Machine
end

