-- ==== Sys2Proof/Machine/Lnk.lean ====
section
/-! DEFINITION. Ranlink ports, routes and credits (R627 to R638, R648 to R651). -/

set_option Elab.async false

namespace Sys2Proof.Machine

/-- Record a code of class 0x0C with its port, 7 for none (R655, R656). -/
def State.lnkErr (s : State) (wh code : Nat) (d0 d1 : Nat := 0) : State :=
  (s.setErr Reg.LNK_ERR true (16, 3, wh) code).file .lnk wh code d0 d1

/-- REACH and STATE follow the links (R634, R655): 0 SINGLE, 1 FULL, 2 DEGRADED, 3 ISOLATED. -/
def State.lnkNote (s : State) : State :=
  let r := s.reachable
  let full := (List.range s.nDev).all (fun d => (List.range 4).all (fun p => (s.linkTo d p).isSome))
  let st := if s.topoKind = 0 then 0 else if full then 1 else if r.length ≤ 1 then 3 else 2
  (s.wr Reg.LNK_STATUS_REACH (sumNat (r.map (fun d => 2 ^ d)))).wr Reg.LNK_STATUS_STATE st

/-- LNK_TOPO values of R630. -/
def topoOk (kind n my : Nat) : Bool :=
  match kind with
  | 0 => n == 1 && my == 0
  | 1 => n == 2 && decide (my < 2)
  | 2 => decide (3 ≤ n) && decide (my < n)
  | _ => n == 8

/-- LNK_TOPO_WRITE (R630, R720): applied while every port is DISABLED, else discarded with LNK_CFG. -/
def execLnkTopoWrite (w : BitVec 32) (s : State) : Host.Outcome State Fault Refusal := s.bar Reg.LNK_TOPO fun s =>
  let v := w.toNat
  if (List.range 4).all (fun p => s.portSt p == 0) = true ∧ topoOk (bitsOf v 30 2) (bitsOf v 27 3 + 1) (bitsOf v 24 3) = true then
    let s1 := s.setReg Reg.LNK_TOPO (BitVec.ofNat 32 (packBits [(24, 8, bitsOf v 24 8)]))
    let s2 : State := { s1 with lnk := { s1.lnk with links := [] } }
    .next ((s2.cfgExtend 3 (bytesOf 4 (s2.reg Reg.LNK_TOPO).toNat)).lnkNote)
  else .next (s.lnkErr 7 0x0C01)

/-! ### Credits and flits (R629, R635 to R638) -/

/-- CREDIT_RETURN (R636, R637): credits come back, at most the number of R636, and waiting flits go. -/
def execCreditReturn (port halyard set n : Nat) (s : State) : Host.Outcome State Fault Refusal :=
  let up := fun (s : State) (f : RegField) (top : Nat) => s.wr f (min top (s.rd f + n))
  let s1 := match halyard with
    | 0 => up s (Reg.LNK_PORT_CREDITS_CTRL port) 16
    | 1 => up s (Reg.LNK_PORT_CREDITS_TILE port) 512
    | 2 => up s (Reg.LNK_PORT_CREDITS_COLL port) 256
    | _ => if set = 0 then up s (Reg.LNK_PORT_FWD_SET0 port) 128 else up s (Reg.LNK_PORT_FWD_SET1 port) 128
  .next (s1.drainPort port)

/-- FLIT_RECEIVE (R629, R635, R686): a flit whose check fails is asked for again; one for another device goes on over the route of its tile, in
buffer set 1 once it has crossed a dateline, and the credit of the buffer it leaves returns (halyards as for sendFlits). -/
def execFlitReceive (port : Nat) (crcOk : Bool) (dst tile halyard : Nat) (s0 : State) : Host.Outcome State Fault Refusal :=
  let s := s0.wakeUp
  if s.portSt port ≠ 2 ∧ s.portSt port ≠ 5 ∧ s.portSt port ≠ 6 then .next s
  else if crcOk = false then .next (s.post (Out.askReplay port))
  else if dst = s.myDev then .next s
  else
    match s.routePort dst tile with
    | none => .next s
    | some q =>
      let cross : Bool := match s.linkTo s.myDev q with | some e => dateline s.topoKind s.nDev s.myDev e != 0 | none => false
      .next (((s.sendFlits q (if halyard = 4 ∨ cross = true then 4 else 3) 1).cnt 0x0C04 q).post (Out.credits port halyard 1))

/-! ### Ports (R631, R648 to R651) -/

/-- The port's links are lost or regained: every other UP port carries a topology update (R649). -/
def State.tellTopology (s : State) : State :=
  let mask := sumNat (((List.range 4).filter (fun p => s.portSt p == 2)).map (fun p => 2 ^ p))
  ((List.range 4).filter (fun p => s.portSt p == 2)).foldl (fun s p =>
    (s.post (Out.topology p s.myDev mask)).sendFlits p 0 1) s

/-- A tile is sent, or sent again, over the route of this moment (R640, R649). -/
def State.sendTile (s : State) (t : SentTile) (again : Bool) : State :=
  match s.routePort t.msg.dst t.msg.id.tile with
  | none => s
  | some p =>
    let t' := { t with port := p, sends := if again then t.sends + 1 else t.sends, at_ := s.time.mono }
    let l := if again then s.lnk.sent.map (fun x => if x.msg.id = t.msg.id ∧ x.msg.dst = t.msg.dst then t' else x) else s.lnk.sent ++ [t']
    let s1 : State := { s with lnk := { s.lnk with sent := l } }
    let s2 := (s1.post (Out.tile p t.msg)).cnt 0x0C00 p
    let s3 := if again then s2.cnt 0x0C01 p else s2
    s3.sendFlits p 1 t.flits

/-- An XFR word's fields (R652). -/
def xfDev (w : Nat) : Nat := bitsOf w 61 3
def xfWire (w : Nat) : Nat := bitsOf w 57 4
def xfOfmt (w : Nat) : Nat := bitsOf w 53 4
def xfFallback (w : Nat) : Bool := bitsOf w 52 1 == 1
def xfGroup (w : Nat) : Nat := bitsOf w 44 8
def xfSrc (w : Nat) : Nat := bitsOf w 80 16

/-- A node of a job that sends to a device and has not had every RECEIPT, or waits on it without FALLBACK (R650). -/
def State.dependsOn (s : State) (j : Job) (dev : Nat) : Option Nat :=
  let ws := (s.prog j.prog).routeWords j.route
  (List.range ws.length).find? (fun n =>
    let w := ws.getD n 0
    let x := j.node n
    !x.committed &&
      ((wOpc w == 0x60 && xfDev w == dev && !(x.ran && s.lnk.sent.all (fun t => !(t.job == j.id && t.node == n) || t.receipt) &&
          !x.sending.isEmpty)) ||
        (wOpc w == 0x61 && xfDev w == dev && !xfFallback w) || (wOpc w == 0x62 && bitsOf (xfGroup w) dev 1 == 1)))

/-- Jobs that need a device that cannot be reached end with LNK_UNREACHABLE (R640, R650). -/
def State.endUnreachable (s : State) (dev : Nat) : State :=
  (s.jobs.map (·.id)).foldl (fun s id =>
    match s.job? id with
    | none => s
    | some j =>
      if j.started then
        match s.dependsOn j dev with
        | some n =>
          let w := (s.jobWord j n).getD 0
          (s.setErr Reg.LNK_ERR true (16, 3, 7) 0x0C05).faultJob j n 0x0C05 dev (xfChannel w)
        | none => s
      else s) s

/-- The links have changed: REACH and STATE follow, tiles without RECEIPT are sent again over the new routes when a link was lost, and jobs
that need a device now missing end (R649, R650). -/
def State.rerouted (s : State) (lost : Bool) : State :=
  let before := (List.range 8).filter (fun d => bitsOf (s.rd Reg.LNK_STATUS_REACH) d 1 == 1)
  let s1 := s.lnkNote
  let now := s1.reachable
  let s2 := if lost then (s1.lnk.sent.filter (fun t => !t.receipt && now.contains t.msg.dst)).foldl (fun s t => s.sendTile t true) s1 else s1
  let gone := before.filter (fun d => !now.contains d)
  let s3 : State := { s2 with lnk := { s2.lnk with
    lostAt := gone.map (fun d => (d, s.time.mono)) ++ s2.lnk.lostAt.filter (fun q => !now.contains q.1 && !gone.contains q.1) } }
  gone.foldl State.endUnreachable s3

/-- A port goes DOWN (R649): recorded, reported, and routed around. -/
def State.portDown (s : State) (p : Nat) : State :=
  let lanes := s.rd (Reg.LNK_PORT_STATUS_LANES_OK p)
  let s1 := ((s.lnkErr p 0x0C03 p lanes).devError 0x0C03 p lanes).bump (Reg.LNK_PORT_DOWNS_COUNT p)
  let dest := match s.portSt p with | 5 => 0 | 6 => 1 | _ => 4
  let s2 := ((s1.setPortSt p dest).wr (Reg.LNK_PORT_STATUS_WIDTH p) 0).setLport p { lanesBad := (s1.lport p).lanesBad }
  (s2.tellTopology).rerouted true

/-- The width that healthy lane pairs allow (R627). -/
def pairWidth (lanes : Nat) : Nat :=
  let n := ((List.range 4).filter (fun k => bitsOf lanes (2 * k) 2 == 3)).length
  if n = 4 then 8 else if 2 ≤ n then 4 else if n = 1 then 2 else 0

/-- Does a width meet MIN_WIDTH (R655)? -/
def widthOk (min w : Nat) : Bool := match min with | 0 => decide (2 ≤ w) | 1 => decide (4 ≤ w) | _ => w == 8

/-- PORT_TRAINING_DONE (R631, R648, R650): `width` is what the peer allows, `lanesOk` the healthy lanes, `peer` the identity the peer
sent. -/
def execPortTrainingDone (port width : Nat) (peer : PeerId) (lanesOk : Nat) (s : State) : Host.Outcome State Fault Refusal :=
  let st := s.portSt port
  if st = 1 ∨ st = 3 ∨ (st = 4 ∧ s.rd (Reg.LNK_PORT_CFG_ENABLE port) = 1) then
    let w := min width (pairWidth lanesOk)
    let s1 := s.wr (Reg.LNK_PORT_STATUS_LANES_OK port) lanesOk
    if widthOk (s.rd (Reg.LNK_PORT_CFG_MIN_WIDTH port)) w = false then
      .next (if st = 3 then s1.portDown port else s1.setPortSt port 4)
    else if peer.kind ≠ s.topoKind ∨ peer.ndev ≠ s.nDev ∨ wiredTo s.topoKind s.nDev s.myDev port ≠ some (peer.dev, peer.port) then
      let d1 := peer.dev * 256 + peer.port
      .next (((s1.lnkErr port 0x0C02 port d1).devError 0x0C02 port d1).setPortSt port 4)
    else
      let s2 := (((s1.setPortSt port 2).wr (Reg.LNK_PORT_STATUS_WIDTH port) w).wr (Reg.LNK_PORT_STATUS_PEER_DEV port) peer.dev).wr
        (Reg.LNK_PORT_STATUS_PEER_PORT port) peer.port
      let s3 := if st = 3 then s2 else
        ((((s2.wr (Reg.LNK_PORT_CREDITS_CTRL port) 16).wr (Reg.LNK_PORT_CREDITS_TILE port) 512).wr (Reg.LNK_PORT_CREDITS_COLL port)
          256).wr (Reg.LNK_PORT_FWD_SET0 port) 128).wr (Reg.LNK_PORT_FWD_SET1 port) 128
      -- what a topology update told of the peer's end was before it trained
      let links := match tget (fun _ => none) s3.lnk.links peer.dev with
        | some m => tset (fun _ => none) s3.lnk.links peer.dev (some (m ||| 2 ^ peer.port))
        | none => s3.lnk.links
      let s4 : State := { s3 with lnk := { s3.lnk with links := links } }
      .next ((if st = 3 then s4.lnkNote else (s4.tellTopology).rerouted false).drainPort port)
  else .next s

/-- LNK_LANE_FAILURE (R648): the port retrains on its healthy lane pairs, or goes DOWN with none. -/
def execLnkLaneFailure (port lane : Nat) (s : State) : Host.Outcome State Fault Refusal :=
  let x := s.lport port
  if lane < 8 ∧ x.lanesBad.contains lane = false ∧ (s.portSt port = 2 ∨ s.portSt port = 3) then
    let lanes := s.rd (Reg.LNK_PORT_STATUS_LANES_OK port)
    let ok := lanes - (if bitsOf lanes lane 1 = 1 then 2 ^ lane else 0)
    let s1 := (s.setLport port { x with lanesBad := x.lanesBad ++ [lane] }).wr (Reg.LNK_PORT_STATUS_LANES_OK port) ok
    let s2 := s1.lnkErr port 0x0C04
    if pairWidth ok = 0 then .next (s2.portDown port) else .next (s2.setPortSt port 3)
  else .next s

/-- REPLAY_REQUEST (R629): the flit is replayed; when 16 replays of it have failed, the port retrains. -/
def execReplayRequest (port flit : Nat) (s : State) : Host.Outcome State Fault Refusal :=
  let x := s.lport port
  let n := match x.flit with | some (f, n) => if f = flit then n else 0 | none => 0
  if s.portSt port ≠ 2 then .next s
  else if 16 ≤ n then .next ((s.setLport port { x with flit := none }).setPortSt port 3)
  else
    .next ((((s.setLport port { x with flit := some (flit, n + 1) }).post (Out.replay port)).cnt 0x0C03 port).bump
      (Reg.LNK_PORT_REPLAYS_COUNT port))

/-- PORT_DOWN (R649, R651): the port loses its signal, its peer goes to electrical idle, or its retrain fails. -/
def execPortDown (port : Nat) (s : State) : Host.Outcome State Fault Refusal :=
  let st := s.portSt port
  if st = 2 ∨ st = 3 ∨ st = 5 ∨ st = 6 then .next (s.portDown port) else .next s

/-- TOPOLOGY_UPDATE (R634, R649, R686): the ports of another device that are UP. -/
def execTopologyUpdate (dev ports : Nat) (s0 : State) : Host.Outcome State Fault Refusal :=
  let s := s0.wakeUp
  if dev < s.nDev ∧ dev ≠ s.myDev then
    let old := match tget (fun _ => none) s.lnk.links dev with | some m => m | none => 15
    let s1 : State := { s with lnk := { s.lnk with links := tset (fun _ => none) s.lnk.links dev (some (ports % 16)) } }
    .next (s1.rerouted (decide (old &&& (15 ^^^ ports % 16) ≠ 0)))
  else .next s

/-- LNK_PORT_ENABLE (R651, R655). -/
def execLnkPortEnable (port : Nat) (w : BitVec 32) (s : State) : Host.Outcome State Fault Refusal := s.bar (Reg.LNK_PORT_CFG port) fun s =>
  let v := w.toNat
  if bitsOf v 0 2 = 3 then .next (s.lnkErr port 0x0C01)
  else
    let s1 := (s.wr (Reg.LNK_PORT_CFG_MIN_WIDTH port) (bitsOf v 0 2)).wr (Reg.LNK_PORT_CFG_ENABLE port) (bitsOf v 31 1)
    let st := s.portSt port
    if bitsOf v 31 1 = 1 then
      .next (match st with
        | 0 => s1.setPortSt port 1
        | 5 => s1.setPortSt port 6
        | _ => s1)
    else
      .next (match st with
        | 1 => s1.setPortSt port 0
        | 2 => (s1.setPortSt port 5).rerouted false
        | 3 => (s1.setPortSt port 5).rerouted false
        | 4 => s1.setPortSt port 0
        | 6 => s1.setPortSt port 5
        | _ => s1)

/-- LNK_PORT_LEHR_END (R651): the flits of the tiles that had started are finished; the port goes to electrical idle, or trains again. -/
def execLnkPortLehrEnd (port : Nat) (s : State) : Host.Outcome State Fault Refusal :=
  let x := s.lport port
  let st := s.portSt port
  if (st = 5 ∨ st = 6) ∧ x.back0 = 0 ∧ x.back1 = 0 ∧ x.back2 = 0 ∧ x.back30 = 0 ∧ x.back31 = 0 then
    let s1 := ((s.setPortSt port (if st = 5 then 0 else 1)).wr (Reg.LNK_PORT_STATUS_WIDTH port) 0).setLport port {}
    .next ((s1.tellTopology).rerouted true)
  else .next s

/-- PEER_REJOIN (R641, R650): a device that can be reached again gets the tiles it has not released. -/
def execPeerRejoin (port dev : Nat) (s : State) : Host.Outcome State Fault Refusal :=
  if s.portSt port = 2 ∧ dev ≠ s.myDev ∧ s.reachable.contains dev = true then
    let l := s.lnk.sent.filter (fun t => t.msg.dst == dev)
    .next (l.foldl (fun s t => s.sendTile { t with receipt := false, sends := 0 } true) s)
  else .next s

end Sys2Proof.Machine
end

