-- ==== Sys2Proof/Machine/SgsCalc.lean ====
section
/-! DEFINITION. What the set and graph stations compute (chapter 13): IoU, lists, hash sets, distances, the assignment solver and the
track filter, as functions of plain data. -/

set_option Elab.async false

namespace Sys2Proof.Machine

/-! ### Elements and scores (R45, R492, R493) -/

/-- A box element as stored. -/
def packBox (b : Box) : Nat :=
  packBits [(96, 32, b.trackId), (80, 16, b.cls), (64, 16, b.score), (48, 16, b.y1), (32, 16, b.x1), (16, 16, b.y0), (0, 16, b.x0)]

/-- An element of a list as a box: a track element counts as one (R493). -/
def elBox (isTrack : Bool) (e : Nat) : Box :=
  if isTrack then
    { x0 := bitsOf e 128 16, y0 := bitsOf e 144 16, x1 := bitsOf e 160 16, y1 := bitsOf e 176 16, score := bitsOf e 112 16
      cls := bitsOf e 96 16, trackId := bitsOf e 0 32 }
  else boxOf e

/-- An element with another SCORE. -/
def putScore (isTrack : Bool) (e v : Nat) : Nat := if isTrack then putBits e 112 16 v else putBits e 64 16 v

/-- A value as an exact number; infinities stand far outside every picture. -/
def bigRat (c : Nat) : Rat :=
  match d32 c with
  | .inf n => if n then -(2 ^ 200 : Rat) else (2 ^ 200 : Rat)
  | v => v.toRat

/-- Nearest integer, ties to even. -/
def rneRat (q : Rat) : Int := rneDiv q.num q.den

/-- A score in Q0.16 (R497): below +0 and NaN give 0. -/
def q016 (c : Nat) : Nat :=
  if isNan32 c || f32Lt c 0 then 0 else (min (rneRat (bigRat c * 65536)) 65535).toNat

/-- A coordinate in Q14.2, inside `[0, lim]` luma samples when a limit is given (R497). -/
def q142 (q : Rat) (lim : Option Nat) : Nat :=
  let hi : Int := match lim with | some n => min 65535 (4 * (n : Int)) | none => 65535
  (clampInt 0 hi (rneRat (q * 4))).toNat

/-- Elements by descending SCORE, ties to the lower index (R498, R501). -/
def byScore {α : Type} (score : α → Nat) (l : List α) : List (α × Nat) :=
  sortBy (fun a b => decide (score b.1 < score a.1) || (score a.1 == score b.1 && decide (a.2 ≤ b.2))) l.zipIdx

/-! ### IoU (R495) -/

def boxArea (x0 y0 x1 y1 : Nat) : Nat := if x0 < x1 ∧ y0 < y1 then (x1 - x0) * (y1 - y0) else 0

/-- Intersection and union. -/
def boxIU (a b : Box) : Nat × Nat :=
  let i := boxArea (max a.x0 b.x0) (max a.y0 b.y0) (min a.x1 b.x1) (min a.y1 b.y1)
  (i, boxArea a.x0 a.y0 a.x1 a.y1 + boxArea b.x0 b.y0 b.x1 b.y1 - i)

def iouExceeds (a b : Box) (t : Nat) : Bool := let q := boxIU a b; q.2 != 0 && decide (t * q.2 < q.1 * 65536)
def iouReaches (a b : Box) (t : Nat) : Bool := let q := boxIU a b; if q.2 = 0 then t == 0 else decide (t * q.2 ≤ q.1 * 65536)

/-- The real IoU: both converted to FP32 and the quotient formed. -/
def iouReal (a b : Box) : Nat := let q := boxIU a b; if q.2 = 0 then 0 else f32Div (f32Int q.1) (f32Int q.2)

/-! ### Descriptor fields (R528) -/

def sgMaxOut (d : Nat) : Nat := bitsOf d 432 16
def sgThr (d : Nat) : Nat := bitsOf d 416 16
def sgNcls (d : Nat) : Nat := bitsOf d 400 16
def sgIouThr (d : Nat) : Nat := bitsOf d 400 16
def sgSigma (d : Nat) : Nat := bitsOf d 384 16
def sgFmt (d : Nat) : Nat := bitsOf d 380 4
def sgMode (d : Nat) : Nat := bitsOf d 378 2
def sgAware (d : Nat) : Bool := bitsOf d 377 1 == 1
def sgSigmoid (d : Nat) : Bool := bitsOf d 376 1 == 1
def sgOp (d : Nat) : Nat := bitsOf d 444 4
def sgKey (d : Nat) : Nat := bitsOf d 442 2
def sgCap (d : Nat) : Nat := bitsOf d 437 5
def sgK (d : Nat) : Nat := bitsOf d 442 6 + 1
def sgMetric (d : Nat) : Nat := bitsOf d 440 2
def sgSelfExcl (d : Nat) : Bool := bitsOf d 439 1 == 1
def sgCostMax (d : Nat) : Nat := bitsOf d 432 16
def sgRounds (d : Nat) : Nat := bitsOf d 416 16
def sgEpsDiv (d : Nat) : Nat := bitsOf d 412 4

/-! ### BOXES (R496 to R498) -/

/-- The best class of a candidate row and its score: ties to the lower class; a NaN is below every number. -/
def bestClass (d : Nat) (row : List Nat) : Nat × Nat :=
  let f := fun (x : Nat) => if sgSigmoid d then evalSlot [] 4 x else x
  let obj := if sgAware d then some (f (row.getD 4 0)) else none
  let base := if sgAware d then 5 else 4
  (List.range (sgNcls d)).foldl (fun (a : Nat × Nat) c =>
    let s := match obj with
      | some o => f32Mul (f (row.getD (base + c) 0)) o
      | none => f (row.getD (base + c) 0)
    if c = 0 then (0, s) else if f32Lt a.2 s || (isNan32 a.2 && !isNan32 s) then (c, s) else a) (0, nan32)

/-- The box of a candidate in the picture (R497): corners through M, bounding box, clipped and rounded. -/
def candBox (d : Nat) (m : Option (List Nat)) (size : Option (Nat × Nat)) (row : List Nat) : Nat × Nat × Nat × Nat :=
  let v := fun i => bigRat (row.getD i 0)
  let c := if sgMode d = 0 then (v 0, v 1, v 2, v 3)
    else (v 0 - v 2 / 2, v 1 - v 3 / 2, v 0 + v 2 / 2, v 1 + v 3 / 2)
  let pt := fun (x y : Rat) => match m with
    | none => (x, y)
    | some l =>
      let a := fun i => q32 (l.getD i 0)
      (a 0 * x + a 1 * y + a 2, a 3 * x + a 4 * y + a 5)
  let p := [pt c.1 c.2.1, pt c.2.2.1 c.2.1, pt c.1 c.2.2.2, pt c.2.2.1 c.2.2.2]
  let lo := fun (l : List Rat) => l.foldl (fun a b => if b < a then b else a) (l.headD 0)
  let hi := fun (l : List Rat) => l.foldl (fun a b => if a < b then b else a) (l.headD 0)
  let lx := size.map (·.1)
  let ly := size.map (·.2)
  (q142 (lo (p.map (·.1))) lx, q142 (lo (p.map (·.2))) ly, q142 (hi (p.map (·.1))) lx, q142 (hi (p.map (·.2))) ly)

/-- BOXES over the candidate rows of a sample, absent rows left out: the list and the number of elements left out. -/
def boxesCalc (d : Nat) (m : Option (List Nat)) (size : Option (Nat × Nat)) (rows : List (List Nat)) : List Nat × Nat :=
  let cand := rows.filterMap (fun r =>
    if (r.take 4).any isNan32 then none
    else
      let b := bestClass d r
      let s := q016 b.2
      if s < sgThr d then none
      else
        let q := candBox d m size r
        some ({ x0 := q.1, y0 := q.2.1, x1 := q.2.2.1, y1 := q.2.2.2, score := s, cls := b.1 } : Box))
  let l := (byScore (fun (b : Box) => b.score) cand).map (fun q => packBox q.1)
  (l.take (sgMaxOut d), l.length - sgMaxOut d)

/-! ### NMS and TOPK (R499 to R502) -/

/-- Greedy suppression over candidates in order: kept elements so far, then the rest. -/
def nmsGreedy (tr : Bool) (d : Nat) (kept : List Nat) : List Nat → List Nat × Nat
  | [] => (kept, 0)
  | e :: t =>
    let b := elBox tr e
    if sgMaxOut d ≤ kept.length then (kept, ((e :: t).filter (fun x => decide (sgThr d ≤ (elBox tr x).score))).length)
    else if sgThr d ≤ b.score ∧ kept.all (fun k => let q := elBox tr k
        !((!sgAware d || q.cls == b.cls) && iouExceeds b q (sgIouThr d))) = true then nmsGreedy tr d (kept ++ [e]) t
    else nmsGreedy tr d kept t

/-- The decay of a score (R500). -/
def nmsDecay (d s iou : Nat) : Nat :=
  if sgMode d = 1 then f32Mul s (f32Sub one32 iou)
  else f32Mul s (slotExp2 (f32Mul (f32Neg (f32Div (f32Mul iou iou) (toF32 7 (sgSigma d, 127)))) log2e))

/-- Soft suppression (R500): candidates are (element, input index, current score). -/
def nmsSoft (tr : Bool) (d : Nat) : Nat → List (Nat × Nat × Nat) → List (Nat × Nat × Nat) → List (Nat × Nat × Nat) × Nat
  | 0, kept, _ => (kept, 0)
  | f + 1, kept, l =>
    match l.foldl (fun (a : Option (Nat × Nat × Nat)) x => match a with
        | none => some x
        | some y => if f32Lt y.2.2 x.2.2 then some x else a) none with
    | none => (kept, 0)
    | some x =>
      if sgMaxOut d ≤ kept.length then (kept, (l.filter (fun y => decide (sgThr d ≤ q016 y.2.2))).length)
      else if q016 x.2.2 < sgThr d then (kept, 0)
      else
        let b := elBox tr x.1
        let rest := (l.filter (fun y => y.2.1 != x.2.1)).map (fun y =>
          let q := elBox tr y.1
          if (!sgAware d || q.cls == b.cls) && iouExceeds q b (sgIouThr d) then (y.1, y.2.1, nmsDecay d y.2.2 (iouReal q b)) else y)
        nmsSoft tr d f (kept ++ [x]) rest

/-- NMS: the list in descending final score, ties to the lower input index, and the elements left out (R499 to R501). -/
def nmsCalc (tr : Bool) (d : Nat) (l : List Nat) : List Nat × Nat :=
  if sgMode d = 0 then nmsGreedy tr d [] ((byScore (fun e => (elBox tr e).score) l).map (·.1))
  else
    let start := l.zipIdx.map (fun q => (q.1, q.2, f32Rat (elBox tr q.1).score 65536))
    let r := nmsSoft tr d (l.length + 1) [] start
    let fin := r.1.map (fun x => (putScore tr x.1 (q016 x.2.2), x.2.1))
    ((sortBy (fun (a b : Nat × Nat) => decide ((elBox tr b.1).score < (elBox tr a.1).score) ||
      ((elBox tr a.1).score == (elBox tr b.1).score && decide (a.2 ≤ b.2))) fin).map (·.1), r.2)

/-- TOPK (R502). -/
def topkCalc (tr : Bool) (d : Nat) (l : List Nat) : List Nat :=
  let ok := l.filter (fun e => sgThr d == 0xFFFF || (elBox tr e).cls == sgThr d)
  ((byScore (fun e => (elBox tr e).score) ok).map (·.1)).take (sgMaxOut d)

/-- IOU (R503): a row of the matrix, as FP32. -/
def iouRow (d : Nat) (a : Box) (bs : List Box) : List Nat :=
  bs.map (fun b =>
    let v := if sgAware d && a.cls != b.cls then 0 else iouReal a b
    if sgMode d = 1 then f32Sub one32 v else v)

/-! ### HSET (R504 to R506) -/

/-- The key of an element. -/
def setKey (tr : Bool) (d e : Nat) : Nat :=
  let b := elBox tr e
  match sgKey d with
  | 0 => b.trackId
  | 1 => if tr then bitsOf e 32 32 else 0
  | _ => b.cls * 2 ^ 32 + b.trackId

/-- Insert the keys of a list into a set of at most `cap` keys: the new set, the elements put out, and the failed inserts. -/
def setInsert (tr : Bool) (d cap : Nat) (l keys : List Nat) : List Nat × List Nat × Nat :=
  l.foldl (fun (a : List Nat × List Nat × Nat) e =>
    let k := setKey tr d e
    if k = 0 ∨ a.1.contains k = true then a
    else if a.1.length < cap then (a.1 ++ [k], a.2.1 ++ [e], a.2.2)
    else (a.1, a.2.1, a.2.2 + 1)) (keys, [], 0)

/-- HSET: the new set, the output list and the failed inserts; `other` are the keys of B_NODE's list. -/
def hsetCalc (tr : Bool) (d : Nat) (l keys other : List Nat) : List Nat × List Nat × Nat :=
  let cap := 7 * 2 ^ sgCap d / 8
  match sgOp d with
  | 0 => setInsert tr d cap l keys
  | 1 => (keys, l.filter (fun e => setKey tr d e != 0 && keys.contains (setKey tr d e)), 0)
  | 2 => (keys, l.filter (fun e => setKey tr d e != 0 && other.contains (setKey tr d e)), 0)
  | _ => setInsert tr d cap l []

/-! ### Distances (R508, R509) -/

/-- The norm of a row: the exact sum of squares rounded once. -/
def rowNorm (row : List FV) : Nat := r32 (sumFV (row.map (fun a => a.mul a)))

/-- The distance of a pair with dot product q (R508). -/
def distance (metric na nb q : Nat) : Nat :=
  match metric with
  | 0 =>
    let t := f32Sub (f32Add na nb) (f32Mul 0x40000000 q)
    if isNan32 t then t else if f32Lt 0 t then t else 0
  | 1 =>
    if na % 2 ^ 31 = 0 ∨ nb % 2 ^ 31 = 0 then one32
    else f32Sub one32 (f32Mul (f32Mul q (slotRsqrt na)) (slotRsqrt nb))
  | _ => f32Neg q

/-- The K nearest of a row: (index, distance), padded with index −1 and +∞ (R509). -/
def nearest (k : Nat) (l : List (Nat × Nat)) : List (Nat × Nat) :=
  let ok := l.filter (fun q => !isNan32 q.2)
  let s := sortBy (fun (a b : Nat × Nat) => f32Lt a.2 b.2 || (!f32Lt b.2 a.2 && decide (a.1 ≤ b.1))) ok
  padTo k (2 ^ 32 - 1, inf32) (s.take k)

/-- Eight-byte entries as bytes: a value in [63:32] and a number in [31:0] (R509, R513). -/
def entryBytes (l : List (Nat × Nat)) : List Nat := l.flatMap (fun q => bytesOf 4 q.2 ++ bytesOf 4 q.1)

/-! ### The assignment solver (R510 to R512) -/

/-- The state of the auction: columns and dummies hold a row or none. -/
structure Auction where
  eps : Int
  price : List Int
  owner : List (Option Nat)
  queue : List Nat
  bids : Nat := 0
  ovr : Bool := false
  deriving DecidableEq, Repr

/-- A bid of row i over its allowed columns (R511). -/
def auctionBid (a : Auction) (w : List (Nat × Int)) (i : Nat) (rest : List Nat) : Auction :=
  let v := w.map (fun q => (q.1, q.2 - a.price.getD q.1 0))
  match v with
  | [] => { a with queue := rest, bids := a.bids + 1 }
  | q :: t =>
    let best := t.foldl (fun (m : Nat × Int) x => if m.2 < x.2 ∨ (m.2 = x.2 ∧ x.1 < m.1) then x else m) q
    let others := v.filter (fun x => x.1 != best.1)
    let v2 := match others with
      | [] => best.2
      | y :: u => u.foldl (fun (m : Int) x => if m < x.2 then x.2 else m) y.2
    let back := match a.owner.getD best.1 none with | some k => [k] | none => []
    { a with
      price := lset a.price best.1 (a.price.getD best.1 0 + (best.2 - v2) + a.eps)
      owner := lset a.owner best.1 (some i), queue := rest ++ back, bids := a.bids + 1 }

/-- Bids and scalings, at most `fuel` of them. -/
def auctionGo (w : List (List (Nat × Int))) (limit divLog2 rows : Nat) : Nat → Auction → Auction
  | 0, a => a
  | f + 1, a =>
    if a.ovr then a
    else
      match a.queue with
      | i :: rest =>
        if a.bids < limit then auctionGo w limit divLog2 rows f (auctionBid a (w.getD i []) i rest) else { a with ovr := true }
      | [] =>
        if a.eps = 1 then { a with ovr := true }
        else
          let e := a.eps / 2 ^ divLog2
          auctionGo w limit divLog2 rows f { a with
            eps := if e < 1 then 1 else e, owner := a.owner.map (fun _ => none), queue := List.range rows }

/-- The value of a cost in units of 2^−24 (R511). -/
def costUnits (c16 : Nat) : Option Int :=
  match decF 7 c16 with
  | .num n m e => some ((if n then -1 else 1) * ((m * 2 ^ (e + 24).toNat : Nat) : Int))
  | _ => none

/-- Solve a cost matrix of FP16 codes, none where a pair is forbidden: the column of each row, and whether the bid limit stopped the
solver first (R510 to R512). -/
def solveAssign (cost : List (List (Option Nat))) (cols costMax divLog2 limit : Nat) : List (Option Nat) × Bool :=
  let rows := cost.length
  let k : Int := rows + 1
  let cm := (costUnits costMax).getD 0
  let pairs := cost.map (fun r => r.zipIdx.filterMap (fun q =>
    match q.1 with
    | none => none
    | some c => match costUnits c with
      | some u => if u ≤ cm then some (q.2, -(u * k)) else none
      | none => none))
  let w := pairs.zipIdx.map (fun q => q.1 ++ [(cols + q.2, -(cm * k))])
  let big := (pairs.flatMap id).foldl (fun (a : Int) q => if a < q.2.natAbs then q.2.natAbs else a) 0
  let e := big / 16
  let a0 : Auction := { eps := if e < 1 then 1 else e, price := List.replicate (cols + rows) 0
                        owner := List.replicate (cols + rows) none, queue := List.range rows }
  let a := auctionGo w limit divLog2 rows (limit + 256) a0
  ((List.range rows).map (fun i => (a.owner.take cols).idxOf? (some i)), !a.queue.isEmpty)

/-! ### The track filter (R517 to R521) -/

/-- Fields of a TRACK descriptor (R528). -/
def tkCap (d : Nat) : Nat := bitsOf d 436 12
def tkConfirm (d : Nat) : Nat := bitsOf d 432 4
def tkMaxCoast (d : Nat) : Nat := bitsOf d 424 8
def tkBirth (d : Nat) : Nat := bitsOf d 408 16
def tkGate (d : Nat) : Nat := bitsOf d 392 16
def tkCostMax (d : Nat) : Nat := bitsOf d 376 16
def tkF16 (d lo : Nat) : Nat := toF32 7 (bitsOf d lo 16, 127)
def tkWEmb (d : Nat) : Nat := tkF16 d 360
def tkReid (d : Nat) : Nat := tkF16 d 344
def tkAlpha (d : Nat) : Nat := tkF16 d 328
def tkQP (d : Nat) : Nat := tkF16 d 312
def tkQV (d : Nat) : Nat := tkF16 d 296
def tkRM (d : Nat) : Nat := tkF16 d 280
def tkGalCap (d : Nat) : Nat := bitsOf d 267 13
def tkEmbDim (d : Nat) : Nat := bitsOf d 256 11
def tkStrict (d : Nat) : Bool := bitsOf d 255 1 == 1
def tkTent (d : Nat) : Bool := bitsOf d 254 1 == 1

/-- The square of a product, as the noise terms (R517). -/
def noise (k h : Nat) : Nat := let t := f32Mul k h; f32Mul t t

/-- One frame of prediction; the position moves by `mv` in place of the velocity when given (R518, R525). -/
def Filt.predict (f : Filt) (qa qc : Nat) (mv : Option Nat) : Filt :=
  { p := f32Add f.p (mv.getD f.v), v := f.v
    a := f32Add (f32Add (f32Add f.a (f32Mul 0x40000000 f.b)) f.c) qa
    b := f32Add f.b f.c, c := f32Add f.c qc }

/-- Prediction over n frames (R518): the noise takes h before each. -/
def Track.predict (d : Nat) (mv : Option (Nat × Nat)) : Nat → Track → Track
  | 0, t => t
  | n + 1, t =>
    let qa := noise (tkQP d) t.h.p
    let qc := noise (tkQV d) t.h.p
    Track.predict d mv n { t with
      cx := t.cx.predict qa qc (mv.map (·.1)), cy := t.cy.predict qa qc (mv.map (·.2))
      w := t.w.predict qa qc none, h := t.h.predict qa qc none }

/-- The update of a filter with measurement z (R519). -/
def Filt.update (f : Filt) (r z : Nat) : Filt :=
  let s := f32Add f.a r
  let k1 := f32Div f.a s
  let k2 := f32Div f.b s
  let y := f32Sub z f.p
  { p := f32Add f.p (f32Mul k1 y), v := f32Add f.v (f32Mul k2 y)
    c := f32Max (f32Sub f.c (f32Mul k2 f.b)) 0, a := f32Max (f32Sub f.a (f32Mul k1 f.a)) 0
    b := f32Sub f.b (f32Mul k1 f.b) }

/-- The measurement of a detection: centre and size in luma samples, exact (R519). -/
def measure (b : Box) : Nat × Nat × Nat × Nat :=
  (f32Rat (b.x0 + b.x1 : Nat) 8, f32Rat (b.y0 + b.y1 : Nat) 8, f32Rat ((b.x1 : Int) - b.x0) 4, f32Rat ((b.y1 : Int) - b.y0) 4)

/-- w and h are at least 0.25 after an update (R519). -/
def Filt.atLeast (f : Filt) : Filt := { f with p := f32Max f.p 0x3E800000 }

def Track.update (d : Nat) (t : Track) (b : Box) : Track :=
  let z := measure b
  let r := noise (tkRM d) t.h.p
  { t with cx := t.cx.update r z.1, cy := t.cy.update r z.2.1, w := (t.w.update r z.2.2.1).atLeast
           h := (t.h.update r z.2.2.2).atLeast, score := b.score, cls := b.cls }

/-- A birth (R520). -/
def Track.birth (d id seq : Nat) (b : Box) : Track :=
  let z := measure b
  let a := noise (f32Mul 0x40000000 (tkQP d)) z.2.2.2
  let c := noise (f32Mul 0x41200000 (tkQV d)) z.2.2.2
  let f := fun (p : Nat) => ({ p := p, v := 0, a := a, b := 0, c := c } : Filt)
  { id := id, state := if tkConfirm d ≤ 1 then 1 else 0, hits := 1, cx := f z.1, cy := f z.2.1, w := f z.2.2.1, h := f z.2.2.2
    score := b.score, cls := b.cls, lastSeq := seq, predSeq := seq }

/-- The box of a track, clipped to the picture and rounded (R521). -/
def Track.box (t : Track) (size : Option (Nat × Nat)) : Box :=
  let x := bigRat t.cx.p
  let y := bigRat t.cy.p
  let w := bigRat t.w.p / 2
  let h := bigRat t.h.p / 2
  let lx := size.map (·.1)
  let ly := size.map (·.2)
  { x0 := q142 (x - w) lx, y0 := q142 (y - h) ly, x1 := q142 (x + w) lx, y1 := q142 (y + h) ly, score := t.score, cls := t.cls
    trackId := t.id }

/-- A track element (R45, R521). -/
def Track.elem (t : Track) (size : Option (Nat × Nat)) : Nat :=
  let b := t.box size
  let f16 := fun (v : Nat) => (cvt 7 (d32 v)).1
  packBits [(224, 32, t.lastSeq), (208, 16, f16 t.cy.v), (192, 16, f16 t.cx.v), (176, 16, b.y1), (160, 16, b.x1), (144, 16, b.y0),
    (128, 16, b.x0), (112, 16, t.score), (96, 16, t.cls), (80, 16, min 65535 t.age), (72, 8, min 255 t.misses), (64, 2, t.state),
    (32, 32, t.ident), (0, 32, t.id)]

/-! ### One TRACK step (R515, R516, R522 to R526) -/

/-- What a step reads beside its tracks. -/
structure TrackIn where
  d : Nat
  seq : Nat
  discont : Bool
  standIn : Bool
  dets : List Box
  /-- FP32 embedding of each detection, by OBJ_INDEX; none where it is absent -/
  embs : Option (List (Option (List Nat)))
  /-- the map for propagation: columns, cells, and which cells are covered; none when C_NODE names none -/
  map : Option (Nat × List Cell × List Bool)
  size : Option (Nat × Nat)
  /-- free rows of the station's track store -/
  rows : Nat

/-- What a step gives. -/
structure TrackOut where
  st : TrackSt
  dets : List Box
  /-- track elements and which of them are propagated -/
  els : List Nat
  prop : List Nat
  births : Nat := 0
  retired : Nat := 0
  refused : Nat := 0
  trunc : Nat := 0
  matched : Nat := 0
  made : Nat := 0
  capped : Bool := false

/-- Cells that a box touches (R525). -/
def Track.cells (t : Track) (cw ch : Nat) : List Nat :=
  let x := bigRat t.cx.p
  let y := bigRat t.cy.p
  let w := bigRat t.w.p / 2
  let h := bigRat t.h.p / 2
  let x0 := (clampInt 0 cw ((x - w) / 16).floor).toNat
  let x1 := (clampInt 0 cw ((x + w) / 16).ceil).toNat
  let y0 := (clampInt 0 ch ((y - h) / 16).floor).toNat
  let y1 := (clampInt 0 ch ((y + h) / 16).ceil).toNat
  (List.range (y1 - y0)).flatMap (fun j => (List.range (x1 - x0)).map (fun i => (y0 + j) * cw + x0 + i))

/-- The mean motion under a box (R525): the exact sum, converted to FP32 and divided once. -/
def meanMotion (cells : List Cell) (under : List Nat) : Option (Nat × Nat) :=
  let l := (under.filterMap (fun i => cells[i]?)).filter (fun c => c.valid && !c.intra && !c.concealed)
  if l.isEmpty then none
  else
    let sx := l.foldl (fun (a : Int) c => a + c.mvx) 0
    let sy := l.foldl (fun (a : Int) c => a + c.mvy) 0
    some (f32Div (f32Rat sx 16) (f32Int l.length), f32Div (f32Rat sy 16) (f32Int l.length))

/-- Frames since the last prediction, at most 256 (R518). -/
def framesSince (seq was : Nat) : Nat := min 256 ((seq + 2 ^ 32 - was) % 2 ^ 32)

/-- Prediction and propagation of a live track (R518, R525): the track, and whether it is propagated. -/
def Track.advance (i : TrackIn) (t : Track) : Track × Bool :=
  let n := framesSince i.seq t.predSeq
  let p := { Track.predict i.d none n t with predSeq := i.seq }
  match i.map with
  | none => (p, false)
  | some (cw, cells, cov) =>
    let ch := if cw = 0 then 0 else cells.length / cw
    let under := p.cells cw ch
    if i.standIn || under.any (fun k => cov.getD k false) then (p, false)
    else
      match meanMotion cells under with
      | some mv => ({ Track.predict i.d (some mv) n t with predSeq := i.seq }, true)
      | none => (p, true)

/-- The cosine distance of two embeddings of FP16 codes (R508). -/
def embDistance (a b : List Nat) : Nat :=
  let e := fun (l : List Nat) => l.map (fun c => (c, 127))
  let fv := fun (l : List Nat) => l.map (decF 7)
  match rowAccu 7 7 0 (e a) [e b] with
  | q :: _ => distance 1 (rowNorm (fv a)) (rowNorm (fv b)) q.raw
  | [] => nan32

def to16 (l : List Nat) : List Nat := l.map (fun v => (cvt 7 (d32 v)).1)

/-- The cost of a pair (R522). -/
def pairCost (i : TrackIn) (gal : List Identity) (t : Track) (b : Box) (emb : Option (List Nat)) : Option Nat :=
  let p := t.box i.size
  if iouReaches p b (tkGate i.d) && (!tkStrict i.d || t.cls == b.cls) then
    let base := f32Sub one32 (iouReal p b)
    let id := if t.ident = 0 then none else gal.find? (fun g => g.id == t.ident)
    let c := match id, emb with
      | some g, some e => f32Add base (f32Mul (tkWEmb i.d) (embDistance (to16 e) g.emb))
      | _, _ => base
    let c16 := (cvt 7 (d32 c)).1
    match decF 7 c16 with
    | .num _ _ _ => some c16
    | _ => none
  else none

/-- The next TRACK_ID that no live track holds (R514). -/
def nextTrackId (live : List Nat) : Nat → Nat → Nat
  | 0, n => n
  | f + 1, n => let k := if n % 2 ^ 32 = 0 then 1 else n % 2 ^ 32
    if live.contains k then nextTrackId live f (k + 1) else k

/-- Births in order (R522): tracks, next id, (detection, TRACK_ID) of each birth, and those refused. -/
def birthsGo (i : TrackIn) : List (Box × Nat) → List Track → Nat → Nat → List (Nat × Nat) → Nat →
    List Track × Nat × List (Nat × Nat) × Nat
  | [], tr, next, _, done, ref => (tr, next, done, ref)
  | (b, k) :: l, tr, next, rows, done, ref =>
    if tr.length < tkCap i.d ∧ 0 < rows then
      let id := nextTrackId (tr.map (·.id)) (tr.length + 1) next
      birthsGo i l (tr ++ [Track.birth i.d id i.seq b]) (if id + 1 = 2 ^ 32 then 1 else id + 1) (rows - 1) (done ++ [(k, id)]) ref
    else birthsGo i l tr next rows done (ref + 1)

/-- Re-identification of a newly confirmed track with its detection's embedding (R524). -/
def reIdentify (i : TrackIn) (tr : List Track) (st : TrackSt) (t : Track) (e : List Nat) : TrackSt × Nat × Bool :=
  let held := (tr.filter (fun q => q.id != t.id && (q.state == 1 || q.state == 2))).map (·.ident)
  let x := to16 e
  let free := (st.gallery.filter (fun g => !held.contains g.id)).map (fun g => (g.id, embDistance x g.emb))
  let best := (sortBy (fun (a b : Nat × Nat) => f32Lt a.2 b.2 || (!f32Lt b.2 a.2 && decide (a.1 ≤ b.1)))
    (free.filter (fun q => !isNan32 q.2))).head?
  match best with
  | some q =>
    if f32Le q.2 (tkReid i.d) then (st, q.1, true) else make
  | none => make
where
  make : TrackSt × Nat × Bool :=
    let g : Identity := { id := st.nextIdent, emb := to16 e, upd := i.seq }
    let old := (sortBy (fun (a b : Identity) =>
      let x := (i.seq + 2 ^ 32 - a.upd) % 2 ^ 32
      let y := (i.seq + 2 ^ 32 - b.upd) % 2 ^ 32
      decide (y < x) || (x == y && decide (a.id ≤ b.id))) st.gallery).head?
    let gal := if st.gallery.length < tkGalCap i.d then st.gallery
      else match old with | some o => st.gallery.erase o | none => st.gallery
    ({ st with gallery := gal ++ [g], nextIdent := (st.nextIdent + 1) % 2 ^ 32 }, st.nextIdent, false)

/-- The gallery after a later association of a track (R524): e = e + REID_ALPHA × (x − e), stored in FP16. -/
def galleryUpdate (i : TrackIn) (gal : List Identity) (ident : Nat) (e : List Nat) : List Identity :=
  updFirst (fun g => g.id == ident) (fun g => { g with
    emb := List.zipWith (fun a x => let f := toF32 7 (a, 127); (cvt 7 (d32 (f32Add f (f32Mul (tkAlpha i.d) (f32Sub x f))))).1) g.emb e
    upd := i.seq }) gal

/-- The state of a live track after association (R515). -/
def Track.next (d : Nat) (t : Track) (paired : Bool) (seq : Nat) : Track :=
  let h := t.hits + 1
  match t.state, paired with
  | 0, true => { t with hits := h, state := if tkConfirm d ≤ h then 1 else 0, lastSeq := seq }
  | 0, false => { t with state := 3 }
  | _, true => { t with state := 1, misses := 0, lastSeq := seq }
  | 1, false => { t with state := 2, misses := 1 }
  | _, false => if tkMaxCoast d < t.misses + 1 then { t with misses := t.misses + 1, state := 3 } else { t with misses := t.misses + 1 }

/-- Detections beyond 2,048 are cut to the highest scores, in input order (R523): those kept with their OBJ_INDEX. -/
def cutDets (l : List Box) : List (Box × Nat) :=
  if l.length ≤ 2048 then l.zipIdx
  else
    let keep := ((byScore (fun (b : Box) => b.score) l).take 2048).map (·.2)
    l.zipIdx.filter (fun q => keep.contains q.2)

/-- Re-identification and gallery updates of this step's associations, in TRACK_ID order: (track, detection's embedding, newly
confirmed). -/
def reidGo (i : TrackIn) : List (Nat × List Nat × Bool) → List Track → TrackSt → Nat × Nat → List Track × TrackSt × Nat × Nat
  | [], tr, st, n => (tr, st, n.1, n.2)
  | (id, e, fresh) :: l, tr, st, n =>
    match tr.find? (fun t => t.id == id) with
    | none => reidGo i l tr st n
    | some t =>
      if fresh then
        let r := reIdentify i tr st t e
        reidGo i l (updFirst (fun q => q.id == id) (fun q => { q with ident := r.2.1 }) tr) r.1
          (if r.2.2 then (n.1 + 1, n.2) else (n.1, n.2 + 1))
      else if t.ident ≠ 0 then reidGo i l tr { st with gallery := galleryUpdate i st.gallery t.ident e } n
      else reidGo i l tr st n

/-- One TRACK step (R522). -/
def trackStep (i : TrackIn) (st0 : TrackSt) : TrackOut :=
  let gone := if i.discont then st0.tracks.map (fun t => { t with state := 3, age := t.age + 1 }) else []
  let live := if i.discont then [] else st0.tracks
  let adv := live.map (fun t => Track.advance i { t with age := t.age + 1 })
  let cut := cutDets i.dets
  let trunc := i.dets.length - cut.length
  let out := fun (tr : List Track) (ret : List Track) (prop : List Nat) (st : TrackSt) (dets : List Box) =>
    let all := sortBy (fun (a b : Track) => decide (a.id ≤ b.id))
      (tr.filter (fun t => t.state == 1 || t.state == 2 || (t.state == 0 && tkTent i.d)) ++ ret ++ gone)
    ({ st := { st with tracks := tr }, dets := dets, els := all.map (fun t => t.elem i.size)
       prop := (all.zipIdx.filter (fun q => prop.contains q.1.id)).map (·.2)
       retired := ret.length + gone.length, trunc := trunc } : TrackOut)
  if i.standIn then
    let dets := cut.map (fun q => { q.1 with trackId := 0 })
    out (adv.map (·.1)) [] [] st0 dets
  else
    let prop := (adv.filter (·.2)).map (fun q => q.1.id)
    let free := sortBy (fun (a b : Track) => decide (a.id ≤ b.id)) ((adv.filter (fun q => !q.2)).map (·.1))
    let emb := fun (k : Nat) => match i.embs with | some l => l.getD k none | none => none
    let cost := free.map (fun t => cut.map (fun q => pairCost i st0.gallery t q.1 (emb q.2)))
    let sol := solveAssign cost cut.length (tkCostMax i.d) 2 1048576
    let paired := (free.zip sol.1).filterMap (fun q => q.2.map (fun c => (q.1.id, c)))
    let upd := free.zip sol.1 |>.map (fun q =>
      match q.2 with
      | some c => match cut[c]? with
        | some b => Track.next i.d (q.1.update i.d b.1) true i.seq
        | none => Track.next i.d q.1 false i.seq
      | none => Track.next i.d q.1 false i.seq)
    let ret := upd.filter (fun t => t.state == 3)
    let kept := (adv.filter (·.2)).map (·.1) ++ upd.filter (fun t => t.state != 3)
    let unpaired := (cut.zipIdx.filter (fun q => !(paired.any (fun p => p.2 == q.2)) && decide (tkBirth i.d ≤ q.1.1.score)))
    let order := (sortBy (fun (a b : (Box × Nat) × Nat) => decide (b.1.1.score < a.1.1.score) ||
      (a.1.1.score == b.1.1.score && decide (a.1.2 ≤ b.1.2))) unpaired).map (fun q => (q.1.1, q.2))
    -- the rows of tracks retired at this step are free only after it (R515)
    let brn := birthsGo i order (kept ++ ret ++ gone) st0.nextId i.rows [] 0
    let all := sortBy (fun (a b : Track) => decide (a.id ≤ b.id)) (brn.1.filter (fun t => t.state != 3))
    -- associations of this step: a paired or born track with its detection's position
    let assoc := paired ++ brn.2.2.1.map (fun q => (q.2, q.1))
    let fresh := fun (id : Nat) => match all.find? (fun t => t.id == id), live.find? (fun t => t.id == id) with
      | some t, some o => t.state == 1 && o.state == 0
      | some t, none => t.state == 1
      | none, _ => false
    let news := sortBy (fun (a b : Nat × List Nat × Bool) => decide (a.1 ≤ b.1)) (assoc.filterMap (fun q =>
      match cut[q.2]? with
      | some b => (emb b.2).map (fun e => (q.1, e, fresh q.1))
      | none => none))
    let re := if tkGalCap i.d = 0 then (all, { st0 with nextId := brn.2.1 }, 0, 0)
      else reidGo i news all { st0 with nextId := brn.2.1 } (0, 0)
    let dets := cut.zipIdx.map (fun q =>
      match assoc.find? (fun p => p.2 == q.2) with
      | some p => { q.1.1 with trackId := p.1 }
      | none => { q.1.1 with trackId := 0 })
    let o := out re.1 ret prop re.2.1 dets
    { o with births := brn.2.2.1.length, refused := brn.2.2.2, matched := re.2.2.1, made := re.2.2.2, capped := sol.2 }

end Sys2Proof.Machine
end

