-- ==== Sys2Proof/Machine/Load.lean ====
section
/-! DEFINITION. The checks of a program image at PROG_LOAD (R282, R293, R296 to R299) and of the words and descriptors of every
chapter (R183, R271, R284 to R286, R294, R355, R386, R431, R441, R442, R454, R485, R529, R653).  A check answers a code with
its DETAIL0 and DETAIL1. -/

set_option Elab.async false

namespace Sys2Proof.Machine

/-- A refusal at load: code, DETAIL0, DETAIL1. -/
abbrev LoadFail := Nat × Nat × Nat

/-- The first refusal of a list of checks. -/
def firstFail : List (Option LoadFail) → Option LoadFail
  | [] => none
  | some f :: _ => some f
  | none :: t => firstFail t

/-- The bit of the first failing field of a list of (bit, failed). -/
def firstBad (l : List (Nat × Bool)) : Option Nat := (l.find? (fun q => q.2)).map (·.1)

/-- A refusal with one code when some field fails. -/
def failOn (code d0 : Nat) (l : List (Nat × Bool)) : Option LoadFail := (firstBad l).map (fun b => (code, d0, b))

/-! ### The sections of an image (R296, R297) -/

/-- An image and its sections. -/
structure Img where
  hdr : Nat
  routes : List Nat
  words : List Nat
  descs : List Nat
  plan : List Nat
  segs : List Nat
  data : List Nat

def hMagic (h : Nat) : Nat := bitsOf h 480 32
def hVer (h : Nat) : Nat := bitsOf h 472 8
def hMin (h : Nat) : Nat := bitsOf h 468 4
def hMax (h : Nat) : Nat := bitsOf h 464 4
def hRoutes (h : Nat) : Nat := bitsOf h 459 5 + 1
def hWords (h : Nat) : Nat := bitsOf h 446 13
def hDescs (h : Nat) : Nat := bitsOf h 433 13
def hPlan (h : Nat) : Nat := bitsOf h 425 8
def hSegs (h : Nat) : Nat := bitsOf h 418 7
def hRouteOff (h : Nat) : Nat := bitsOf h 352 32
def hWordOff (h : Nat) : Nat := bitsOf h 320 32
def hDescOff (h : Nat) : Nat := bitsOf h 288 32
def hPlanOff (h : Nat) : Nat := bitsOf h 256 32
def hSegOff (h : Nat) : Nat := bitsOf h 224 32
def hLen (h : Nat) : Nat := bitsOf h 192 32
def hCrc (h : Nat) : Nat := bitsOf h 160 32

/-- `n` records of `b` bytes from an offset. -/
def recordsAt (data : List Nat) (off n b : Nat) : List Nat :=
  (chunksOf b n ((data.drop off).take (n * b))).map ofBytes

def imgOf (data : List Nat) : Img :=
  let h := ofBytes (data.take 64)
  { hdr := h, data := data
    routes := recordsAt data (hRouteOff h) (hRoutes h) 16, words := recordsAt data (hWordOff h) (hWords h) 16
    descs := recordsAt data (hDescOff h) (hDescs h) 64, plan := recordsAt data (hPlanOff h) (hPlan h) 16
    segs := recordsAt data (hSegOff h) (hSegs h) 16 }

def rtFirst (r : Nat) : Nat := bitsOf r 112 16
def rtNodes (r : Nat) : Nat := bitsOf r 96 16
def sgOffset (e : Nat) : Nat := bitsOf e 96 32
def sgLength (e : Nat) : Nat := bitsOf e 64 32
def sgKind (e : Nat) : Nat := bitsOf e 56 8

/-! ### Checks 1 to 4 -/

/-- Check 1: LENGTH, MAGIC and HDR_VER. -/
def loadCheck1 (data : List Nat) (h : Nat) : Option LoadFail :=
  if data.length < 64 then some (0x0501, 0, data.length)
  else if hMagic h ≠ 0x46515031 then some (0x0501, 60, hMagic h)
  else if hVer h ≠ 1 then some (0x0501, 59, hVer h)
  else none

/-- Check 2: IMAGE_LEN and CRC. -/
def loadCheck2 (data : List Nat) (h : Nat) : Option LoadFail :=
  let crc := crc32 (data.take 20 ++ [0, 0, 0, 0] ++ data.drop 24)
  if hLen h = data.length ∧ crc = hCrc h then none else some (0x0502, crc, hCrc h)

/-- Check 3: the level of R298; the V96 runs levels `lo` to `hi`. -/
def loadCheck3 (h lo hi : Nat) : Option LoadFail :=
  if max (hMin h) lo ≤ min (hMax h) hi then none else some (0x0503, hMin h * 256 + hMax h, lo * 256 + hi)

/-- The sections: offset, bytes, byte offset of the field that places it, and its value. -/
def sections (i : Img) : List (Nat × Nat × Nat × Nat) :=
  let h := i.hdr
  [(hRouteOff h, hRoutes h * 16, 44, hRouteOff h), (hWordOff h, hWords h * 16, 40, hWordOff h),
    (hDescOff h, hDescs h * 64, 36, hDescOff h), (hPlanOff h, hPlan h * 16, 32, hPlanOff h),
    (hSegOff h, hSegs h * 16, 28, hSegOff h)]

/-- A section out of place: misaligned, or, when it holds something, beyond the image or over another one or the header. -/
def badSection (len : Nat) (l : List (Nat × Nat × Nat × Nat)) : Option LoadFail :=
  match l.find? (fun q => q.1 % 64 != 0 || (q.2.1 != 0 && decide (len < q.1 + q.2.1))) with
  | some q => some (0x0501, q.2.2.1, q.2.2.2)
  | none =>
    let s := sortBy (fun (a b : Nat × Nat × Nat × Nat) => decide (a.1 ≤ b.1)) ((0, 64, 0, 0) :: l.filter (fun q => q.2.1 != 0))
    (((s.zip s.tail).find? (fun q => decide (q.2.1 < q.1.1 + q.1.2.1)))).map (fun q => (0x0501, q.2.2.2.1, q.2.2.2.2))

/-- Route records that do not name words of their own (R297). -/
def badRoutes (nw off : Nat) : List (Nat × Nat) → List Nat → Option LoadFail
  | [], _ => none
  | (r, k) :: t, used =>
    let f := rtFirst r
    let n := rtNodes r
    let mine := (List.range n).map (f + ·)
    if n = 0 ∨ 256 < n then some (0x0501, off + 16 * k + 12, n)
    else if nw < f + n ∨ mine.any used.contains = true then some (0x0501, off + 16 * k + 14, f)
    else badRoutes nw off t (mine ++ used)

/-- Check 4: counts, sections, segment entries and route records (R296, R297). -/
def loadCheck4 (i : Img) : Option LoadFail :=
  let h := i.hdr
  let counts : List (Bool × Nat × Nat) :=
    [(hMin h == 0, 58, hMin h), (decide (hMax h < hMin h), 58, hMax h), (decide (16 < hRoutes h), 57, hRoutes h - 1),
      (hWords h == 0 || decide (4096 < hWords h), 55, hWords h), (decide (4096 < hDescs h), 54, hDescs h),
      (hPlan h == 256, 53, hPlan h), (decide (64 < hSegs h), 52, hSegs h)]
  let entries : List (Bool × Nat × Nat) := i.segs.zipIdx.flatMap (fun q =>
    [(decide (1 < sgKind q.1), hSegOff h + 16 * q.2 + 7, sgKind q.1), (sgLength q.1 == 0, hSegOff h + 16 * q.2 + 8, 0)])
  let segs := i.segs.zipIdx.map (fun q => (sgOffset q.1, sgLength q.1, hSegOff h + 16 * q.2 + 12, sgOffset q.1))
  let fail := fun (l : List (Bool × Nat × Nat)) => (l.find? (·.1)).map (fun q => ((0x0501, q.2.1, q.2.2) : LoadFail))
  let covered := sumNat (i.routes.map rtNodes) == hWords h
  firstFail [fail counts, badSection i.data.length (sections i), fail entries,
    badSection i.data.length (sections i ++ segs), badRoutes (hWords h) (hRouteOff h) i.routes.zipIdx [],
    if covered then none else some (0x0501, 55, hWords h)]

/-! ### Check 5: reserved fields (R282) -/

/-- A reserved field: lowest bit and width. -/
abbrev Rsvd := List (Nat × Nat)

/-- The lowest bit of the lowest reserved field of a structure that is not 0 (R749). -/
def rsvdBit (l : Rsvd) (x : Nat) : Option Nat := minBy? id ((l.filter (fun q => bitsOf x q.1 q.2 != 0)).map (·.1))

/-- Reserved fields of an instruction word: those of every word and those of its opcode (R182, R269, R280, R283, R285, R353, R385,
R429, R452, R465, R527, R652). -/
def wordRsvd (o : Nat) : Rsvd :=
  let station : Rsvd :=
    if o = 0x10 then [(64, 14)]
    else if o = 0x20 then [(0, 32)]
    else if o = 0x21 then [(0, 53)]
    else if o = 0x22 then [(0, 37)]
    else if o = 0x30 ∨ (0x34 ≤ o ∧ o ≤ 0x39) ∨ o = 0x48 then [(0, 10)]
    else if 0x40 ≤ o ∧ o ≤ 0x43 then [(0, 32)]
    else if o = 0x44 then [(0, 80)]
    else if o = 0x4F then [(0, 35)]
    else if 0x50 ≤ o ∧ o ≤ 0x57 then [(0, 32)]
    else if o = 0x60 then [(0, 57)]
    else if o = 0x61 then [(0, 52)]
    else if o = 0x62 then [(0, 44), (52, 5), (61, 3)]
    else if o = 0x68 then [(0, 48), (64, 1)]
    else []
  [(96, 7), (112, 4)] ++ station

/-- The opcodes whose word names a descriptor. -/
def namesDesc (o : Nat) : Bool :=
  o == 0x21 || o == 0x22 || o == 0x30 || (decide (0x34 ≤ o) && decide (o ≤ 0x39)) || (decide (0x40 ≤ o) && decide (o ≤ 0x43)) ||
    o == 0x48 || (decide (0x50 ≤ o) && decide (o ≤ 0x57)) || o == 0x61

/-- Reserved fields of a descriptor under the layout of an opcode (R270, R287, R354, R430, R453, R466, R528, R652). -/
def descRsvd (o : Nat) : Rsvd :=
  let head : Rsvd := [(448, 64), (352, 8), (256, 64)]
  if o = 0x21 ∨ o = 0x22 then [(448, 64), (128, 4), (96, 6), (0, 48)]
  else if o = 0x30 then head ++ [(224, 13), (192, 16), (0, 128)]
  else if 0x34 ≤ o ∧ o ≤ 0x39 then head ++ [(0, 34)]
  else if 0x40 ≤ o ∧ o ≤ 0x43 then head ++ [(240, 1), (227, 1), (192, 28), (0, 96)]
  else if o = 0x48 then head ++ [(192, 8), (0, 128)]
  else if o = 0x50 then [(448, 64), (384, 16), (0, 376)]
  else if o = 0x51 then [(448, 64), (380, 4), (0, 377)]
  else if o = 0x52 then [(448, 64), (0, 416)]
  else if o = 0x53 then [(384, 128), (0, 377)]
  else if o = 0x54 then [(448, 64), (0, 437)]
  else if o = 0x55 then [(448, 64), (0, 439)]
  else if o = 0x56 then [(448, 64), (0, 412)]
  else if o = 0x57 then [(448, 64), (0, 254)]
  else if o = 0x61 then head ++ [(0, 256)]
  else [(448, 64)]

/-- Check 5: structures in image byte order; a descriptor under the layout of each word that names it, in word order. -/
def loadCheck5 (i : Img) : Option LoadFail :=
  let h := i.hdr
  let one := fun (off : Nat) (l : Rsvd) (x : Nat) => (rsvdBit l x).map (fun b => (off, b))
  let named := fun (k : Nat) => (i.words.filter (fun w => namesDesc (wOpc w) && wDesc w == k)).map wOpc
  let recs : List (Nat × Nat) :=
    (one 0 [(0, 160), (384, 34)] h).toList ++
    (i.routes.zipIdx.filterMap (fun q => one (hRouteOff h + 16 * q.2) [(0, 96)] q.1)) ++
    (i.words.zipIdx.filterMap (fun q => one (hWordOff h + 16 * q.2) (wordRsvd (wOpc q.1)) q.1)) ++
    (i.descs.zipIdx.filterMap (fun q =>
      let l := named q.2
      ((if l.isEmpty then [[(448, 64)]] else l.map descRsvd).filterMap (fun m => one (hDescOff h + 64 * q.2) m q.1)).head?)) ++
    (i.plan.zipIdx.filterMap (fun q => one (hPlanOff h + 16 * q.2) [(0, 76)] q.1)) ++
    (i.segs.zipIdx.filterMap (fun q => one (hSegOff h + 16 * q.2) [(0, 56)] q.1))
  (minBy? (fun q => q.1) recs).map (fun q => (0x0504, q.1, q.2))

/-! ### Checks 6 to 8 -/

/-- Check 6: VER of each word (R298). -/
def loadCheck6 (i : Img) (lo hi : Nat) : Option LoadFail :=
  let top := min (hMax i.hdr) hi
  (i.words.find? (fun w => decide (bitsOf w 124 4 < hMin i.hdr) || decide (top < bitsOf w 124 4))).map
    (fun w => (0x0503, bitsOf w 124 4, lo * 256 + hi))

/-- The opcodes that a chapter assigns (R281). -/
def opcAssigned (o : Nat) : Bool :=
  o == 0x10 || (decide (0x20 ≤ o) && decide (o ≤ 0x22)) || o == 0x30 || (decide (0x34 ≤ o) && decide (o ≤ 0x39)) ||
    (decide (0x40 ≤ o) && decide (o ≤ 0x44)) || o == 0x48 || o == 0x4F || (decide (0x50 ≤ o) && decide (o ≤ 0x57)) ||
    (decide (0x60 ≤ o) && decide (o ≤ 0x62)) || o == 0x68

/-- Check 7: each OPC is assigned. -/
def loadCheck7 (i : Img) : Option LoadFail :=
  (i.words.zipIdx.find? (fun q => !opcAssigned (wOpc q.1))).map (fun q => (0x0505, q.2, wOpc q.1))

/-- The words of a route. -/
def Img.routeWords (i : Img) (r : Nat) : List Nat := (i.words.drop (rtFirst r)).take (rtNodes r)

/-- Check 8: route form (R276, R277) and OUT_PLAN indices. -/
def loadCheck8 (i : Img) : Option LoadFail :=
  firstFail (i.routes.zipIdx.flatMap (fun r =>
    let ws := i.routeWords r.1
    let stream := isStreamRoute ws
    ws.zipIdx.map (fun q =>
      let o := wOpc q.1
      let d0 := r.2 * 65536 + q.2
      failOn 0x0506 d0 ([(116, (o == 0x20 && q.2 != 0) || (!stream && (o == 0x21 || o == 0x22)))] ++
        (wordSrcs q.1).map (fun s => (s.1, decide (q.2 ≤ s.2))) ++
        [(104, wPlan q.1 != 0xFF && decide (hPlan i.hdr ≤ wPlan q.1))]))))

/-! ### Kinds of node -/

/-- What a check of a word sees: the image, the words of its route, its ROUTE_NODE and the word. -/
structure LoadCtx where
  img : Img
  ws : List Nat
  node : Nat
  w : Nat
  /-- station-buffer bytes of the least-provided class (R293), this device and the devices of the group (R653), and the channels
  that receive nodes serve already -/
  ways : Nat
  myDev : Nat
  ndev : Nat
  channels : List Nat

/-- The word a source field names; none for 0xFFFF. -/
def LoadCtx.src (x : LoadCtx) (n : Nat) : Option Nat := if n = 0xFFFF then none else x.ws[n]?

def LoadCtx.opc (x : LoadCtx) (n : Nat) : Nat := match x.src n with | some v => wOpc v | none => 0

/-- The descriptor of a word; none when its index is at or above N_DESC. -/
def LoadCtx.descOf (x : LoadCtx) (v : Nat) : Option Nat := x.img.descs[wDesc v]?

/-- Planned bytes of a word's output. -/
def LoadCtx.planBytes (x : LoadCtx) (v : Nat) : Nat := match x.img.plan[wPlan v]? with | some e => bitsOf e 88 40 | none => 0
def LoadCtx.planPlace (x : LoadCtx) (v : Nat) : Nat := match x.img.plan[wPlan v]? with | some e => bitsOf e 86 2 | none => 3

/-- A node of a core with an output matrix. -/
def isCoreNode (o : Nat) : Bool := o == 0x30 || isConv o || isMrv o || o == 0x48

/-- A node that a core node may read (R321, R530, R653): SHAPE, CROP_RESIZE, GATHER, a core node, IOU, KNN, ASSIGN, XFR_RECV or
XFR_COLL. -/
def feedsCore (o : Nat) : Bool :=
  isCoreNode o || o == 0x10 || o == 0x21 || o == 0x22 || o == 0x53 || o == 0x55 || o == 0x56 || o == 0x61 || o == 0x62

/-- A node that writes lists (R527). -/
def isListNode (o : Nat) : Bool := o == 0x50 || o == 0x51 || o == 0x52 || o == 0x54 || o == 0x57

/-- The output format of a node, when it has one. -/
def LoadCtx.outFmt (x : LoadCtx) (n : Nat) : Option Nat :=
  match x.src n with
  | none => none
  | some v =>
    let o := wOpc v
    if isCoreNode o then (x.descOf v).map dOfmt
    else if o = 0x21 ∨ o = 0x22 then (x.descOf v).map shFmt
    else if o = 0x53 then (x.descOf v).map sgFmt
    else if o = 0x61 then some (bitsOf v 53 4)
    else if o = 0x62 then some 9
    else none

/-- The output width of a node, when the image fixes it (R440, R432, R466). -/
def LoadCtx.outCols (x : LoadCtx) (n : Nat) : Option Nat :=
  match x.src n with
  | none => none
  | some v =>
    let o := wOpc v
    match x.descOf v with
    | none => none
    | some d =>
      if o = 0x30 ∨ o = 0x34 ∨ o = 0x35 ∨ o = 0x36 then some (laneCols v d)
      else if o = 0x38 then some (1 + cvX1 d)
      else if o = 0x41 ∧ mvLayout d = 0 then some (mvS d)
      else if isCoreNode o ∨ o = 0x61 then some (dN d)
      else if o = 0x21 ∨ o = 0x22 then some (shStored d)
      else none

/-- Some source of a word is not of a kind: lowest bit of the field and whether it fails. -/
def LoadCtx.wrong (x : LoadCtx) (bit : Nat) (ok : Nat → Bool) : Nat × Bool :=
  let n := bitsOf x.w bit 16
  (bit, n != 0xFFFF && !ok (x.opc n))

/-! ### GATHER, DECODE, SHAPE and EMIT -/

/-- GATHER (R283, R284). -/
def checkGather (x : LoadCtx) : Option LoadFail :=
  let w := x.w
  let len := match x.img.segs[bitsOf w 80 16]? with | some e => sgLength e | none => 0
  let off := bitsOf w 32 32
  let n := if bitsOf w 0 32 = 0 then len - off else bitsOf w 0 32
  let seg := bitsOf w 78 2 == 0
  failOn 0x050E x.node
    [(104, wPlan w == 0xFF), (78, decide (1 < bitsOf w 78 2)), (32, off % 64 != 0),
      (80, seg && decide (x.img.segs.length ≤ bitsOf w 80 16)), (32, seg && decide (len < off)),
      (0, seg && (decide (len < off + n) || decide (x.planBytes w < n)))]

/-- Nodes downstream of the shapers fed by node `k` (R183). -/
def downstream (ws : List Nat) (k : Nat) : List Nat :=
  ws.zipIdx.foldl (fun (a : List Nat) q =>
    let o := wOpc q.1
    let starts := (o == 0x21 || o == 0x22) && bitsOf q.1 64 16 == k
    if starts || (wordSrcs q.1).any (fun s => a.contains s.2) then q.2 :: a else a) []

/-- SHAPE and CROP_RESIZE nodes whose source is node `k` (R183). -/
def shapersOf (ws : List Nat) (k : Nat) : List Nat :=
  ws.zipIdx.filterMap (fun q =>
    let o := wOpc q.1
    if (o == 0x21 || o == 0x22) && bitsOf q.1 64 16 == k then some q.2 else none)

/-- A word reads the motion vectors of node `k`: TRACK or a MOTION EMIT (R183). -/
def readsMotion (k v : Nat) : Bool :=
  (wOpc v == 0x57 && wC v == k) || (wOpc v == 0x68 && bitsOf v 80 16 == k && bitsOf v 72 8 == 7)

/-- The gate's source folds a core node whose descriptor lacks geometry (R294). -/
def LoadCtx.gateGeo (x : LoadCtx) (g : Nat) : Nat :=
  match x.src g with
  | none => 0
  | some v => if isCoreNode (wOpc v) then (match x.descOf v with | some d => dGeoW d | none => 0) else 0

/-- DECODE (R183, R294). -/
def checkDecode (x : LoadCtx) : Option LoadFail :=
  let w := x.w
  let g := bitsOf w 48 16
  let set := g != 0xFFFF
  firstFail [
    failOn 0x020C x.node [(48, bitsOf w 32 1 == 1 && !set),
      (48, set && ((shapersOf x.ws x.node).contains g || !(downstream x.ws x.node).contains g)),
      (33, bitsOf w 33 1 == 0 && x.ws.any (readsMotion x.node))],
    if set && x.gateGeo g == 0 then some (0x050D, x.node, g) else none]

/-- SHAPE and CROP_RESIZE (R271). -/
def checkShape (x : LoadCtx) : Option LoadFail :=
  let w := x.w
  let crop := wOpc w == 0x22
  let users := x.ws.filter (fun v => (wordSrcs v).any (fun s => s.2 == x.node))
  let dest := shpDest w
  firstFail [
    failOn 0x0401 x.node [(if crop then 40 else 56, shpBatchN w == 0), (64, x.opc (shpSrc w) != 0x20),
      (48, crop && !isListNode (x.opc (bitsOf w 48 16))),
      (if crop then 38 else 54, dest == 3 || (dest == 1 && users.any (fun v => !isCoreNode (wOpc v)))),
      (80, (x.descOf w).isNone)],
    match x.descOf w with
    | none => none
    | some d =>
      let need := 64 + shpBatchN w * (64 + shBytes d)
      let room := if dest = 0 then x.ways else if dest = 1 then 1536 * 1024 else x.planBytes w
      failOn 0x0402 (wDesc w) [(416, shScale d % 2 ^ 31 == 0), (240, shTW d == 0 || decide (4096 < shTW d)),
        (224, shTH d == 0 || decide (4096 < shTH d)), (208, crop && bitsOf d 208 16 != 0), (192, crop && bitsOf d 192 16 != 0),
        (176, crop && bitsOf d 176 16 != 0), (160, crop && bitsOf d 160 16 != 0),
        (176, !crop && bitsOf d 176 16 == 0 && bitsOf d 160 16 != 0),
        (132, if crop then shMaxBoxes d == 0 else shMaxBoxes d != 0), (118, shFilter d == 3 && shAngle d % 16384 != 0),
        (116, shFit d == 3), (112, shRange d == 3), (104, shLayout d == 3), (240, decide (room < need))]]

/-- Pennant types that the output of a node feeds (R180, R356, R433, R481, R484, R530, R653). -/
def emitTypes (ws : List Nat) : Nat → Nat → List Nat
  | 0, _ => []
  | f + 1, n =>
    match ws[n]? with
    | none => []
    | some v =>
      let o := wOpc v
      if o = 0x20 then [7]
      else if o = 0x38 then [3]
      else if isCoreNode o ∨ o = 0x61 ∨ o = 0x62 then [4]
      else if o = 0x50 ∨ o = 0x51 ∨ o = 0x52 then [1]
      else if o = 0x57 then [1, 2]
      else if o = 0x54 then (if trackKind ws f n then [2] else [1])
      else []
where
  /-- The list of a list node holds tracks. -/
  trackKind (ws : List Nat) : Nat → Nat → Bool
    | 0, _ => false
    | f + 1, n =>
      match ws[n]? with
      | none => false
      | some v =>
        if wOpc v = 0x57 then true
        else if wOpc v = 0x51 ∨ wOpc v = 0x52 ∨ wOpc v = 0x54 then trackKind ws f (wA v)
        else false

/-- EMIT (R285, R286, R356). -/
def checkEmit (x : LoadCtx) : Option LoadFail :=
  let w := x.w
  let n := bitsOf w 80 16
  let t := bitsOf w 72 8
  let fmtOk := match x.outFmt n with | some f => f == 7 || f == 5 || f == 1 || f == 8 | none => false
  failOn 0x050E x.node [(104, wPlan w != 0xFF), (80, (x.src n).isNone), (72, !(emitTypes x.ws (n + 2) n).contains t),
    (72, t == 4 && !fmtOk)]

/-! ### Core nodes -/

def blockFmt (f : Nat) : Bool := decide (3 ≤ f) && decide (f ≤ 6)
def finite32 (v : Nat) : Bool := bitsOf v 23 8 != 255
def finite16 (v : Nat) : Bool := bitsOf v 10 5 != 31

/-- Failing fields of OUT_MUL, P32 and STORE_ROUND (R438, R441). -/
def menuBad (x : LoadCtx) (d : Nat) : List (Nat × Bool) :=
  let m := wMenu x.w
  let p := dP32 d
  [(160, !finite32 (dOutMul d)), (128, !finite32 p),
    (128, !menuTwoPass m && p != 0), (128, (m == 21 || m == 22) && bitsOf p 31 1 == 1),
    (10, wStore x.w && menuStorage m && !(dOfmt d == 7 || dOfmt d == 8 || dOfmt d == 9)),
    (32, menuRes m && (x.outFmt (wC x.w) == some 0 || x.outFmt (wC x.w) == some 1))]

/-- Failing operand formats of a lane-row product (R311, R312, R355). -/
def pairBad (d : Nat) : List (Nat × Bool) :=
  let bad := fun (f : Nat) => f == 2 || decide (9 < f)
  [(252, bad (dAfmt d)), (248, bad (dBfmt d)), (248, isInt (dAfmt d) != isInt (dBfmt d)), (244, decide (9 < dOfmt d)),
    (243, dAsc d && !blockFmt (dAfmt d)), (242, dBsc d && !blockFmt (dBfmt d)), (241, dOsc d && !blockFmt (dOfmt d)),
    (240, dAzp d && !(dAfmt d == 0 || dAfmt d == 1))]

/-- C_NODE of a prologue entry: ROWSTAT with AXIS 0, OFMT FP32 and exactly MEAN and RSTD (R442). -/
def proOk (x : LoadCtx) : Bool :=
  match x.src (wC x.w) with
  | none => false
  | some v =>
    match x.descOf v with
    | none => false
    | some d => wOpc v == 0x41 && mvLayout d == 0 && dOfmt d == 9 && mvSel d == 0xA

/-- Bytes of the stationary matrix of a descriptor (R319, R320, R323). -/
def bBytes (d : Nat) : Nat :=
  if dBtrans d then round64 (dK d * rowBytes (dBfmt d) (dN d)) + (if dBsc d then round64 (cdiv (dK d) 32 * dN d) else 0)
  else matBytes (dBfmt d) (dN d) (dK d) (dBsc d)

/-- MATMUL (R355, R441, R442). -/
def checkMatmul (x : LoadCtx) : Option LoadFail :=
  let w := x.w
  let m := wMenu w
  firstFail [
    failOn 0x0801 x.node [(64, wA w == 0xFFFF), (48, wB w == 0xFFFF), (104, wPlan w == 0xFF), (11, m == 31),
      (32, (wC w != 0xFFFF) != menuUsesC m), (32, menuPro m && !proOk x), x.wrong 64 feedsCore, x.wrong 48 feedsCore,
      x.wrong 32 feedsCore, x.wrong 16 feedsCore, (80, (x.descOf w).isNone)],
    match x.descOf w with
    | none => none
    | some d =>
      let p := 2 ^ dGeoS d
      firstFail [
        failOn 0x0702 x.node (pairBad d ++ menuBad x d ++
          [(252, menuPro m && !(dAfmt d == 7 || dAfmt d == 8)), (243, menuPro m && dAsc d), (240, menuPro m && dAzp d)]),
        failOn 0x0703 x.node [(362, dTmDiv d == 0 || decide (32 < dTmDiv d)),
          (48, decide ((match x.src (wB w) with | some v => x.planBytes v | none => 0) < bBytes d)),
          (237, decide (1 < dAmode d)), (320, dAmode d == 1 && dHalo d != 0),
          (416, dAmode d == 1 && (dGeoW d == 0 || dMUnit d % max 1 (dGeoW d) != 0)),
          (368, dAmode d == 1 && (dK d % (p * p) != 0 || dK d / (p * p) % 16 != 0)),
          (392, (menuGate m).isSome && dN d % 2 == 1), (362, menuTwoPass m && decide (16 < dTmDiv d))]]]

/-- Bytes of one pixel of the input of a convolution (R467). -/
def pixelBytes (x : LoadCtx) (d : Nat) : Nat :=
  match x.outCols (wA x.w) with
  | some n => rowBytes (dAfmt d) n
  | none => rowBytes (dAfmt d) (cvCoff d + cvCin d)

/-- A chunk of CONV does not fit (R325, R471). -/
def convChunkOver (x : LoadCtx) (d : Nat) : Bool :=
  let rows := cdiv (dTm d) (max 1 (cvOw d)) + 1
  let cols := min 256 (dN d)
  let chunk := rows * cvIw d * pixelBytes x d + cvKw d * cvCinP d * cols * fmtBits (dBfmt d) / 8
  let area := dTm d * rowBytes (dOfmt d) cols
  decide (1536 * 1024 - area < 2 * chunk)

/-- CONV, CONV_DW, CONV_FFT, POOL, ARGMAX_C and ROI_ALIGN (R465, R466, R468 to R472, R476, R485). -/
def checkConv (x : LoadCtx) : Option LoadFail :=
  let w := x.w
  let o := wOpc w
  let m := wMenu w
  let lane := decide (o ≤ 0x36)
  let top := if o = 0x34 then 25 else if o ≤ 0x36 then 16 else 0
  firstFail [
    failOn 0x0801 x.node [(64, wA w == 0xFFFF), (104, wPlan w == 0xFF),
      (48, if lane || o == 0x39 then wB w == 0xFFFF else wB w != 0xFFFF), (11, decide (top < m)),
      (32, if lane then (wC w != 0xFFFF) != menuUsesC m else wC w != 0xFFFF), (16, decide (0x35 < o) && wSc w != 0xFFFF),
      (10, !lane && wStore w), x.wrong 64 feedsCore, x.wrong 48 (if o = 0x39 then isListNode else feedsCore), x.wrong 32 feedsCore,
      x.wrong 16 feedsCore, (80, (x.descOf w).isNone)],
    match x.descOf w with
    | none => none
    | some d =>
      let a := dAfmt d
      let fmts := if o = 0x35 then [1, 7, 8, 9] else if o = 0x36 then [7, 8, 9] else [1, 5, 6, 7, 8, 9]
      let fp8 := a == 5 || a == 6
      let fmt : List (Nat × Bool) :=
        if o = 0x34 then pairBad d ++ menuBad x d
        else
          [(252, !fmts.contains a), (248, if lane then dBfmt d != a else dBfmt d != 0),
            (244, if o = 0x38 then dOfmt d != 2 else decide (9 < dOfmt d)), (243, dAsc d && (lane || !fp8)), (242, dBsc d), (241, dOsc d),
            (240, dAzp d && !(a == 1 && (lane || o == 0x37)))] ++
          (if lane then menuBad x d else [(128, bitsOf d 128 64 != 0)])
      let f := fftF d
      let global := o == 0x37 && cvPmode d == 3
      let kmin := if o = 0x36 then 2 else 1
      let kmax := if o = 0x34 then 31 else if o = 0x36 then min 63 (f / 2) else 63
      let kBad := fun (k : Nat) => if o = 0x38 ∨ global = true then k != 0 else decide (k < kmin) || decide (kmax < k)
      let noStride := o == 0x36 || o == 0x38
      let noDil := decide (0x36 ≤ o)
      let ow := if o = 0x38 then cvIw d else if o = 0x39 then cvKw d else if global then 1 else cvOw d
      let oh := if o = 0x38 then cvIh d else if o = 0x39 then cvKh d else if global then 1 else cvOh d
      let tap := o == 0x34 && cvX0 d == 1
      let shape : List (Nat × Bool) :=
        [(362, dTmDiv d == 0 || decide (32 < dTmDiv d)),
          (238, if o ≤ 0x35 then cvPadMode d == 3 else cvPadMode d != 0), (232, kBad (cvKw d)), (226, kBad (cvKh d)),
          (223, noStride && bitsOf d 223 3 != 0), (220, (noStride || o == 0x39) && bitsOf d 220 3 != 0),
          (217, noDil && bitsOf d 217 3 != 0), (214, noDil && bitsOf d 214 3 != 0),
          (209, decide (0x38 ≤ o) && cvPadL d != 0), (204, decide (0x38 ≤ o) && cvPadR d != 0),
          (199, decide (0x38 ≤ o) && cvPadT d != 0), (194, decide (0x38 ≤ o) && cvPadB d != 0),
          (193, lane && cvX1 d != 0), (192, (o == 0x35 || o == 0x39) && cvX0 d != 0),
          (112, cvIw d == 0 || decide (8192 < cvIw d)), (96, cvIh d == 0 || decide (8192 < cvIh d)),
          (80, if o = 0x34 then cvCin d == 0 || decide (16384 < cvCin d) else cvCin d != 0),
          (64, if o = 0x34 then cvCoff d % 16 != 0 else cvCoff d != 0), (48, decide (0x38 ≤ o) && bitsOf d 48 16 != 0),
          (36, if o = 0x39 then cvMaxBoxes d == 0 else cvMaxBoxes d != 0), (34, o != 0x39 && bitsOf d 34 2 != 0),
          (416, dMUnit d != ow * oh), (361, !dMBatch d), (336, !(dGeoW d == 0 || dGeoW d == ow)),
          (368, o == 0x34 && dK d != cvKh d * (if tap then cvQ d else cvKw d * cvCinP d)),
          (192, tap && (decide (4 < cvCin d) || decide (8 < cvKw d) || cvCoff d != 0 || dAsc d || dBsc d ||
            !([1, 5, 6].contains a && [1, 5, 6].contains (dBfmt d)))),
          (232, o == 0x34 && convChunkOver x d),
          (392, (menuGate m).isSome && dN d % 2 == 1), (362, menuTwoPass m && decide (16 < dTmDiv d))]
      firstFail [failOn 0x0702 x.node fmt, failOn 0x0703 x.node shape]]

/-- The bank image of a TBL_LOAD (R427): byte offset of the failing field. -/
def bankBad (len : Nat) (data : List Nat) : Option Nat :=
  let h := ofBytes (data.take 64)
  let mask := bitsOf h 460 12
  let n := ([9, 10, 11].filter (fun s => bitsOf mask s 1 == 1)).length
  let slot := fun (k : Nat) =>
    let off := 64 + 4160 * k
    let g := ofBytes ((data.drop off).take 64)
    let wl := sgn 8 (bitsOf g 472 8)
    let reach := f32Add (bitsOf g 480 32) (r32 (.num false 1 (8 + wl)))
    [(off + 60, !finite32 (bitsOf g 480 32)), (off + 59, decide (wl < -32) || decide (32 < wl) || !finite32 reach),
      (off + 58, bitsOf g 470 2 == 3), (off + 58, bitsOf g 468 2 == 3), (off, bitsOf g 0 468 != 0)] ++
    (List.range 256).map (fun e => (off + 64 + 16 * e + 12, bitsOf (ofBytes ((data.drop (off + 64 + 16 * e)).take 16)) 96 32 != 0))
  firstBad ([(60, bitsOf h 480 32 != 0x4D544231), (59, bitsOf h 472 8 != 1), (57, mask % 512 != 0 || n == 0), (0, bitsOf h 0 460 != 0),
    (57, len != 64 + 4160 * n)] ++ (List.range n).flatMap slot)

/-- VEC, ROWSTAT, SOFTMAX, NORM and TBL_LOAD (R407, R412 to R414, R427 to R431). -/
def checkMrv (x : LoadCtx) : Option LoadFail :=
  let w := x.w
  let o := wOpc w
  if o = 0x44 then
    let seg := x.img.segs[bitsOf w 80 16]?
    firstFail [
      failOn 0x0901 x.node [(104, wPlan w != 0xFF), (116, isStreamRoute x.ws),
        (80, match seg with | some e => sgKind e != 1 | none => true)],
      match seg with
      | none => none
      | some e => (bankBad (sgLength e) ((x.img.data.drop (sgOffset e)).take (sgLength e))).map (fun b => (0x0903, bitsOf w 80 16, b))]
  else
    match x.descOf w with
    | none => failOn 0x0901 x.node [(64, wA w == 0xFFFF), (104, wPlan w == 0xFF), (80, true)]
    | some d =>
      let op := mvOp d
      let matB := o == 0x40 && (op == 3 || op == 4 || (op == 2 && mvLayout d == 0))
      let needB := matB || (o == 0x40 && (op == 6 || op == 7)) || (o == 0x42 && (mvMask d == 1 || mvMask d == 2))
      let fm := fun (f : Nat) => f == 1 || f == 2 || (decide (5 ≤ f) && decide (f ≤ 9))
      firstFail [
        failOn 0x0901 x.node [(64, wA w == 0xFFFF), (104, wPlan w == 0xFF),
          (48, if needB then wB w == 0xFFFF else o != 0x43 && wB w != 0xFFFF), (32, o != 0x43 && wC w != 0xFFFF),
          x.wrong 64 feedsCore, x.wrong 48 feedsCore, x.wrong 32 feedsCore],
        failOn 0x0902 (wDesc w) [(368, dK d != 0), (362, dTmDiv d == 0 || decide (32 < dTmDiv d)), (252, !fm (dAfmt d)),
          (248, matB && !fm (dBfmt d)), (244, decide (9 < dOfmt d)), (243, dAsc d && !blockFmt (dAfmt d)),
          (242, dBsc d && !(matB && blockFmt (dBfmt d))), (241, dOsc d && !blockFmt (dOfmt d)),
          (232, decide (11 < mvFunc d)), (236, if o = 0x40 then decide (7 < op) else if o = 0x43 then decide (1 < op) else op != 0),
          (230, if o = 0x40 ∧ op = 2 then mvLayout d == 3 else if o = 0x41 then decide (1 < mvLayout d) else mvLayout d != 0),
          (228, if o = 0x42 then mvMask d == 3 else mvMask d != 0), (220, o == 0x41 && mvSel d == 0),
          (160, !finite32 (mvP0 d) || ((o == 0x41 || o == 0x43) && bitsOf (mvP0 d) 31 1 == 1)), (128, !finite32 (mvP1 d)),
          (96, !finite32 (mvIn d) || ((isInt (dAfmt d) || (matB && isInt (dBfmt d))) && mvIn d % 2 ^ 31 == 0))]]

/-- Elements of a weight segment (R319, R320, R386). -/
def segElems (f : Nat) (sc : Bool) (len : Nat) : Nat :=
  if sc then (let n := len / 64; 64 * (n - cdiv n 33)) else len * 8 / fmtBits f

/-- OPT_STEP (R385, R386). -/
def checkOpt (x : LoadCtx) : Option LoadFail :=
  let w := x.w
  let seg := x.img.segs[bitsOf w 80 16]?
  let f := bitsOf w 36 4
  let sc := bitsOf w 35 1 == 1
  let n := match seg with | some e => segElems f sc (sgLength e) | none => 0
  let plan := x.img.plan[bitsOf w 40 8]?
  let grad := match x.src (bitsOf w 64 16) with | some v => x.planBytes v | none => 0
  let gf := (x.outFmt (bitsOf w 64 16)).getD 9
  let gk := fun (o : Nat) => isCoreNode o || o == 0x61 || o == 0x62
  firstFail [
    failOn 0x0801 x.node [(80, match seg with | some e => sgKind e != 0 | none => true), (64, bitsOf w 64 16 == 0xFFFF),
      (104, wPlan w != 0xFF), x.wrong 64 gk, x.wrong 48 gk],
    failOn 0x0702 x.node [(36, !([5, 7, 8, 9].contains f)), (35, sc && f != 5)],
    failOn 0x0703 x.node [(40, match plan with
        | some e => bitsOf e 86 2 != 2 || decide (bitsOf e 88 40 < round64 (12 * n))
        | none => true),
      (64, grad != round64 (n * fmtBits gf / 8))]]

/-- CHAIN (R453, R454). -/
def checkChain (x : LoadCtx) : Option LoadFail :=
  let w := x.w
  let d? := x.descOf w
  let mask := match d? with | some d => chMask d | none => 0
  firstFail [
    failOn 0x0901 x.node [(64, wA w == 0xFFFF), (48, wB w == 0xFFFF), (32, wC w == 0xFFFF),
      (16, d?.isSome && (wSc w != 0xFFFF) != (mask == 1 || mask == 2)), (11, wMenu w != 31), (104, wPlan w == 0xFF),
      x.wrong 64 feedsCore, x.wrong 48 feedsCore, x.wrong 32 feedsCore, x.wrong 16 feedsCore, (80, d?.isNone)],
    match d? with
    | none => none
    | some d =>
      let op := fun (f : Nat) => decide (5 ≤ f) && decide (f ≤ 8)
      let fp8 := fun (f : Nat) => f == 5 || f == 6
      failOn 0x0902 (wDesc w) [(252, !op (chQ d)), (248, !op (chK d)), (244, decide (9 < dOfmt d)), (240, !op (chP d)), (236, !op (chV d)),
        (232, !(chS d == 7 || chS d == 8 || chS d == 9)), (231, chQsc d && !fp8 (chQ d)), (230, chKsc d && !fp8 (chK d)),
        (229, chVsc d && !fp8 (chV d)), (228, chPsc d && !fp8 (chP d)), (227, chOsc d && !blockFmt (dOfmt d)),
        (392, dN d == 0 || decide (256 < dN d)), (362, dTmDiv d == 0 || decide (8 < dTmDiv d)), (336, dGeoW d != 0),
        (160, !finite32 (dOutMul d)), (128, !finite32 (dP32 d)), (225, chMask d == 3)]]

/-! ### SGS and XFR -/

/-- FP16 field above 0 and finite. -/
def pos16 (v : Nat) : Bool := finite16 v && v != 0 && decide (v < 0x8000)

/-- Fields of an SGS descriptor out of range (R504, R505, R508, R528). -/
def sgsDescBad (o d : Nat) : List (Nat × Bool) :=
  match o with
  | 0x50 => [(432, sgMaxOut d == 0 || decide (32768 < sgMaxOut d)), (400, sgNcls d == 0 || decide (4095 < sgNcls d)),
      (380, !(decide (7 ≤ sgFmt d) && decide (sgFmt d ≤ 9))), (378, decide (1 < sgMode d))]
  | 0x51 => [(432, sgMaxOut d == 0 || decide (32768 < sgMaxOut d)),
      (384, !finite16 (sgSigma d) || (sgMode d == 2 && !pos16 (sgSigma d))), (378, sgMode d == 3)]
  | 0x52 => [(432, sgMaxOut d == 0 || decide (4096 < sgMaxOut d))]
  | 0x53 => [(380, !(sgFmt d == 7 || sgFmt d == 9)), (378, decide (1 < sgMode d))]
  | 0x54 => [(444, decide (3 < sgOp d)), (442, sgKey d == 3), (437, decide (sgCap d < 8) || decide (24 < sgCap d))]
  | 0x55 => [(440, sgMetric d == 3)]
  | 0x56 => [(432, !finite16 (sgCostMax d)), (416, sgRounds d == 0), (412, sgEpsDiv d == 0 || decide (4 < sgEpsDiv d))]
  | _ =>
    let f := fun (lo : Nat) => bitsOf d lo 16
    [(436, tkCap d == 0 || decide (2048 < tkCap d)), (432, tkConfirm d == 0), (376, !pos16 (f 376)),
      (360, !finite16 (f 360) || decide (0x8000 ≤ f 360)), (344, !finite16 (f 344)), (328, !pos16 (f 328) || decide (0x3C00 < f 328)),
      (312, !pos16 (f 312)), (296, !pos16 (f 296)), (280, !pos16 (f 280)), (267, decide (4096 < tkGalCap d)),
      (256, if tkGalCap d = 0 then tkEmbDim d != 0 else tkEmbDim d == 0 || decide (1024 < tkEmbDim d))]

/-- BOXES, NMS, TOPK, IOU, HSET, KNN, ASSIGN and TRACK (R527 to R529). -/
def checkSgs (x : LoadCtx) : Option LoadFail :=
  let w := x.w
  let o := wOpc w
  let core := fun (o : Nat) => isCoreNode o
  let okA := fun (q : Nat) =>
    if o = 0x50 ∨ o = 0x55 then core q
    else if o = 0x56 then core q || q == 0x53
    else if o = 0x57 then q == 0x50 || q == 0x51 || q == 0x52
    else isListNode q
  let inter := match x.descOf w with | some d => o == 0x54 && sgOp d == 2 | none => false
  let bBad :=
    if o = 0x53 then wB w != 0xFFFF && !isListNode (x.opc (wB w))
    else if o = 0x54 then (if inter then !isListNode (x.opc (wB w)) else wB w != 0xFFFF)
    else if o = 0x55 ∨ o = 0x57 then wB w != 0xFFFF && !core (x.opc (wB w))
    else wB w != 0xFFFF
  let cBad := if o = 0x57 then wC w != 0xFFFF && x.opc (wC w) != 0x20 else wC w != 0xFFFF
  let place := x.planPlace w
  let earlier := (x.ws.take x.node).any (fun v => wOpc v == 0x57)
  let keep := match x.src (wC w) with | some v => bitsOf v 33 1 == 1 | none => true
  let fa := x.outFmt (wA w)
  let knnFmt := match fa with | some f => decide (5 ≤ f) && decide (f ≤ 8) | none => false
  firstFail [
    failOn 0x0A01 x.node [(64, !okA (x.opc (wA w))), (48, bBad), (32, cBad), (104, wPlan w == 0xFF || !(place == 0 || place == 2)),
      (116, o == 0x57 && (!isStreamRoute x.ws || earlier)), (32, o == 0x57 && !keep),
      (64, o == 0x55 && !knnFmt), (48, o == 0x55 && wB w != 0xFFFF && (x.outFmt (wB w) != fa || x.outCols (wB w) != x.outCols (wA w))),
      (80, (x.descOf w).isNone)],
    match x.descOf w with
    | none => none
    | some d => failOn 0x0A02 (wDesc w) (sgsDescBad o d)]

/-- XFR_SEND, XFR_RECV and XFR_COLL (R646, R652, R653). -/
def checkXfr (x : LoadCtx) : Option LoadFail :=
  let w := x.w
  let o := wOpc w
  let src := bitsOf w 80 16
  let dev := bitsOf w 61 3
  let wire := bitsOf w 57 4
  let group := bitsOf w 44 8
  let fine := match x.outFmt src with | some f => f == 7 || f == 8 || f == 9 | none => false
  let served := x.channels ++ ((x.ws.take x.node).filter (fun v => wOpc v == 0x61)).map (fun v => bitsOf v 64 16)
  let ones := ((List.range 8).filter (fun i => bitsOf group i 1 == 1)).length
  failOn 0x0C09 x.node
    (if o = 0x60 then
      [(104, wPlan w != 0xFF), (80, !isCoreNode (x.opc src)), (61, dev == x.myDev || decide (x.ndev ≤ dev)),
        (57, decide (1 < wire) || (wire == 1 && !fine))]
    else if o = 0x61 then
      [(104, wPlan w == 0xFF), (80, match x.descOf w with | some d => dK d != 0 | none => true),
        (61, dev == x.myDev || decide (x.ndev ≤ dev)), (64, served.contains (bitsOf w 64 16)), (57, decide (1 < wire)),
        (53, decide (9 < bitsOf w 53 4))]
    else
      [(104, wPlan w == 0xFF), (80, !isCoreNode (x.opc src) || x.outFmt src != some 9), (57, wire != 1),
        (44, bitsOf group x.myDev 1 == 0 || decide (ones < 2))])

/-! ### Checks 9 to 11 -/

/-- The check of a word by the chapter that owns its OPC. -/
def checkWord (x : LoadCtx) : Option LoadFail :=
  let o := wOpc x.w
  if o = 0x10 then checkGather x
  else if o = 0x20 then checkDecode x
  else if o = 0x21 ∨ o = 0x22 then checkShape x
  else if o = 0x30 then checkMatmul x
  else if isConv o then checkConv x
  else if (0x40 ≤ o ∧ o ≤ 0x44) then checkMrv x
  else if o = 0x48 then checkChain x
  else if o = 0x4F then checkOpt x
  else if 0x50 ≤ o ∧ o ≤ 0x57 then checkSgs x
  else if 0x60 ≤ o ∧ o ≤ 0x62 then checkXfr x
  else checkEmit x

/-- What the checks read of the device. -/
structure LoadEnv where
  lo : Nat
  hi : Nat
  ways : Nat
  myDev : Nat
  ndev : Nat
  channels : List Nat
  /-- reserved minimum of an owner in a class -/
  res : Nat → Nat → Nat
  wordsFree : Nat
  descsFree : Nat
  segFree : Nat

/-- Check 9: station fields and descriptors, in word order. -/
def loadCheck9 (e : LoadEnv) (i : Img) : Option LoadFail :=
  let rec go : List (Nat × Nat) → List Nat → Option LoadFail
    | [], _ => none
    | (w, k) :: t, ch =>
      match i.routes.find? (fun r => decide (rtFirst r ≤ k ∧ k < rtFirst r + rtNodes r)) with
      | none => go t ch
      | some r =>
        match checkWord { img := i, ws := i.routeWords r, node := k - rtFirst r, w := w, ways := e.ways, myDev := e.myDev
                          ndev := e.ndev, channels := ch } with
        | some f => some f
        | none => go t (if wOpc w = 0x61 then bitsOf w 64 16 :: ch else ch)
  go i.words.zipIdx e.channels

/-- The smallest class whose buffers hold some bytes, and how many buffers (R567). -/
def planBuffers (b : Nat) : Nat × Nat := poolFit b

/-- Check 10: the buffer plan (R292, R293, R574). -/
def loadCheck10 (e : LoadEnv) (i : Img) : Option LoadFail :=
  let total := fun (k owner cls : Nat) => sumNat ((i.plan.take (k + 1)).map (fun p =>
    let f := planBuffers (bitsOf p 88 40)
    if bitsOf p 86 2 = 2 ∧ bitsOf p 81 5 = owner ∧ f.1 = cls then f.2 * bitsOf p 76 5 else 0))
  (i.plan.zipIdx.find? (fun q =>
    let size := bitsOf q.1 88 40
    let place := bitsOf q.1 86 2
    let f := planBuffers size
    decide (size < 64) || size % 64 != 0 || bitsOf q.1 76 5 == 0 || decide (16 < bitsOf q.1 76 5) || place == 3 ||
      (place == 0 && decide (e.ways < size)) || (place == 1 && decide (1536 * 1024 < size)) ||
      (place == 2 && decide (e.res (bitsOf q.1 81 5) f.1 < total q.2 (bitsOf q.1 81 5) f.1)))).map
    (fun q => (0x0507, q.2, cdiv (bitsOf q.1 88 40) 1024))

/-- Check 11: room for words, descriptors and segments. -/
def loadCheck11 (e : LoadEnv) (i : Img) : Option LoadFail :=
  if e.wordsFree < hWords i.hdr ∨ e.descsFree < hDescs i.hdr ∨ e.segFree < sumNat (i.segs.map sgLength) then
    some (0x0508, hWords i.hdr, e.wordsFree)
  else none

/-- The checks of R299 in order. -/
def checkImage (e : LoadEnv) (data : List Nat) : Option LoadFail :=
  let h := ofBytes (data.take 64)
  match firstFail [loadCheck1 data h, if data.length < 64 then none else loadCheck2 data h] with
  | some f => some f
  | none =>
    match loadCheck3 h e.lo e.hi with
    | some f => some f
    | none =>
      let i := imgOf data
      match loadCheck4 i with
      | some f => some f
      | none => firstFail [loadCheck5 i, loadCheck6 i e.lo e.hi, loadCheck7 i, loadCheck8 i, loadCheck9 e i, loadCheck10 e i,
          loadCheck11 e i]

/-- The program that an image holds (R275, R297, R298). -/
def progOf (data : List Nat) (hi : Nat) : Prog :=
  let i := imgOf data
  { routes := i.routes.map (fun r => (rtFirst r, rtNodes r)), words := i.words.map (BitVec.ofNat 128)
    descs := i.descs.map (BitVec.ofNat 512), plan := i.plan.map (BitVec.ofNat 128)
    segs := i.segs.map (fun e => { kind := sgKind e, data := (data.drop (sgOffset e)).take (sgLength e) })
    level := min (hMax i.hdr) hi }

end Sys2Proof.Machine
end

