-- ==== Sys2Proof/Machine/Drain.lean ====
section
/-! DEFINITION. Drain, checksums and check runs (R328, R339 to R345), cores taken out of service by register (R351), and probes of
the special-function tables (R435). -/

set_option Elab.async false

namespace Sys2Proof.Machine

/-! ### The comparison of a row (R342, R343) -/

/-- What the comparison of a row gives. -/
inductive RowCheck where
  | pass
  | excluded
  /-- with the lane found, when integer operands locate it (R344) -/
  | fail (lane : Option Nat)
  deriving DecidableEq, Repr

/-- Integer operands: the sums modulo 2^32 against the checksum lanes (R342), and the lane that d1 / d0 names (R344). -/
def checkInt (acc : List Accu) (ck0 ck1 : Nat) : RowCheck :=
  if acc.any (·.sat) then .excluded
  else
    let s0 := acc.foldl (fun a x => a + sgn 32 x.raw) 0
    let s1 := acc.zipIdx.foldl (fun a x => a + ((x.2 : Int) + 1) * sgn 32 x.1.raw) 0
    let d0 := sgn 32 (unsgn 32 (s0 - sgn 32 ck0))
    let d1 := sgn 32 (unsgn 32 (s1 - sgn 32 ck1))
    if d0 = 0 ∧ d1 = 0 then .pass
    else if d0 ≠ 0 ∧ d1 % d0 = 0 ∧ 1 ≤ d1 / d0 ∧ d1 / d0 ≤ 256 then .fail (some (d1 / d0 - 1).toNat)
    else .fail none

def absRat (x : Rat) : Rat := if x < 0 then -x else x

/-- An FP32 code is infinite or NaN. -/
def nonFinite (v : Nat) : Bool := bitsOf v 23 8 == 255

/-- Floating-point operands: what the row's accumulators gained over `before` against ck0, within the tolerance (R342, R458); a
non-finite accumulator or checksum excludes the row (R343). -/
def checkFloat (acc : List Accu) (before : List Nat) (ck0 ck1 tol : Nat) : RowCheck :=
  if nonFinite ck0 || nonFinite ck1 || before.any nonFinite || acc.any (fun x => x.inf || nonFinite x.raw) then .excluded
  else
    let sum := acc.foldl (fun a x => a + q32 x.raw) 0 - before.foldl (fun a x => a + q32 x) 0
    let mag := acc.foldl (fun a x => a + absRat (q32 x.raw)) (absRat (q32 ck0))
    if absRat (sum - q32 ck0) * (2 ^ tol : Rat) ≤ mag then .pass else .fail none

/-- The first verdict unless it passes, then the second. -/
def RowCheck.and (a b : RowCheck) : RowCheck :=
  match a, b with
  | .fail l, _ => .fail l
  | _, .fail l => .fail l
  | .excluded, _ => .excluded
  | .pass, b => b

/-- The accumulators and checksums of a row as the comparator forms them when bits of one lane are upset: lanes 0 to 255 hold data, 256 is
CK0 and 257 CK1 (R342). -/
def upsetRow (acc : List Accu) (ck : Nat × Nat) (lane flip : Nat) : List Accu × (Nat × Nat) :=
  if lane < 256 then (acc.zipIdx.map (fun q => if q.2 = lane then { q.1 with raw := q.1.raw ^^^ flip } else q.1), ck)
  else if lane = 256 then (acc, (ck.1 ^^^ flip, ck.2))
  else if lane = 257 then (acc, (ck.1, ck.2 ^^^ flip))
  else (acc, ck)

/-- The steps of a running CHAIN row block that have committed. -/
def State.stepsDone (s : State) (r : RunTile) : Nat :=
  match s.job? r.tj.job with
  | some j => match (j.node r.tj.node).steps.find? (fun q => q.1 == r.tj.group) with | some q => q.2 | none => 0
  | none => 0

/-- The comparison of row `row` of a running lane-row tile (R339, R340, R342, R343, R345, R458), `flip` upsetting bits of `lane`; of a
CHAIN step, lanes from 258 on are those of its first product. -/
def State.rowCheck (s : State) (c : Nat) (r : RunTile) (row lane flip : Nat) : RowCheck :=
  if r.tj.marver ∨ s.rd (Reg.CORE_LRW_CK_CFG_CK_EN c) = 0 then .pass
  else
    match s.job? r.tj.job with
    | none => .pass
    | some j =>
      match s.coreWord j r.tj.node, (j.node r.tj.node).grid with
      | some w, some g =>
        let d := s.coreDesc j r.tj.node w
        let tol := s.rd (Reg.CORE_LRW_CK_CFG_CK_TOL_EXP c)
        let ij := g.at r.tj.tile
        if wOpc w = 0x48 then
          match stepCheck w d g.m (j.srcs w) (g.tm * ij.1 + row) (s.stepsDone r) with
          | none => .pass
          | some k =>
            let a := upsetRow k.score k.scoreCk (lane - 258) (if 258 ≤ lane then flip else 0)
            let b := upsetRow (k.after.map (fun v => ({ raw := v } : Accu))) k.incCk lane flip
            let v := (checkFloat a.1 [] a.2.1 a.2.2 tol).and (checkFloat b.1 k.before b.2.1 b.2.2 tol)
            if r.inject = true ∧ v ≠ .excluded then .fail none else v
        else
          let x := (s.calcNode j r.tj.node w).rows.getD (g.tm * ij.1 + row) { codes := [] }
          let u := upsetRow ((x.acc.drop (256 * ij.2)).take 256) (x.cks.getD ij.2 (0, 0)) lane flip
          let int := isInt (dAfmt d)
          let v := if int then checkInt u.1 u.2.1 u.2.2 else checkFloat u.1 [] u.2.1 u.2.2 tol
          if r.inject = true ∧ v ≠ .excluded then
            .fail (if int then some (s.rd (Reg.CORE_LRW_CTRL_INJECT_LANE c)) else none)
          else v
      | _, _ => .pass

/-! ### A tile that does not commit (R344, R425) -/

/-- The tile leaves the core and is dispatched again on another core of its class; a row group in hold mode and a CHAIN row block
move with it (R344, R451, R458). -/
def State.moveTile (s : State) (c : Nat) (r : RunTile) : State :=
  let x := s.core c
  let t := r.tj
  let grp := fun (q : TileJob) => decide (t.hold ≠ 0) && q.job == t.job && q.node == t.node && q.group == t.group
  let s1 := s.setCore c { x with
    runs := (x.runs.erase r).filter (fun q => !grp q.tj)
    placed := x.placed.filter (fun q => !grp q)
    holds := x.holds.filter (fun h => !(decide (t.hold ≠ 0) && h.job == t.job && h.node == t.node && h.group == t.group)) }
  let back := t :: ((x.runs.erase r).map (·.tj)).filter grp ++ x.placed.filter grp
  s1.requeue (back.map (fun q => { q with avoid := some c }))

/-- A row failed its comparison (R344). -/
def State.failTile (s : State) (c : Nat) (r : RunTile) (row : Nat) (lane : Option Nat) : State :=
  let s1 := ((s.moveTile c r).coreErr c 0x0802 false).cnt 0x0802 c
  let s2 := s1.bump (Reg.CORE_LRW_CK_FAILS_COUNT c)
  let s3 := ((s2.wr (Reg.CORE_LRW_CK_LOC_ROW c) row).wr (Reg.CORE_LRW_CK_LOC_LOC_OK c) (if lane.isSome then 1 else 0)).wr
    (Reg.CORE_LRW_CK_LOC_LANE c) (lane.getD 0)
  s3.setCore c { s3.core c with checks := (s3.core c).checks ++ [(r.tj, r.inject)] }

/-- A table lookup found a parity error (R425): the tile runs elsewhere and the banks are rewritten; a second error on the
rewritten banks fences the core. -/
def State.tblParity (s : State) (c : Nat) (r : RunTile) : State :=
  let s1 := ((s.moveTile c r).coreErr c 0x0904 true).cnt 0x0905 c
  if s1.tbl.suspect.contains c then (s1.fenceCore c).fenceFiled 0 c 0x0904 false
  else { s1 with tbl := { s1.tbl with suspect := s1.tbl.suspect ++ [c] } }

/-- The running tile whose row is read next: its chunks are staged, the row is one of its own and not yet read. -/
def State.drains (s : State) (r : RunTile) (row : Nat) : Bool :=
  let steps := match s.job? r.tj.job with
    | some j => match (j.node r.tj.node).grid with | some g => g.steps | none => 0
    | none => 0
  decide (row < r.tj.rows) && !r.drained.contains row && (decide (0 < steps) || decide (r.staged.length = r.chunks))

/-- An upset that no comparison caught stays with the running tile: one of a data lane reaches the outputs (R342). -/
def RunTile.upset (r : RunTile) (row lane flip : Nat) : RunTile :=
  if r.tj.marver ∨ flip = 0 ∨ lane = 256 ∨ lane = 257 ∨ 514 ≤ lane then r
  else { r with upsets := r.upsets ++ [(row, if lane < 256 then some lane else none)] }

/-- DRAIN_ROW (R328, R342 to R345, R425): the first running tile that has the row to read.  The comparison is with the checksums of R339 and
R340; `flip` is what a hardware upset turned in `lane`, 0 when nothing did, and `parity` a parity error of a table lookup. -/
def execDrainRow (core row lane : Nat) (flip : BitVec 32) (parity : Bool) (s : State) : Host.Outcome State Fault Refusal :=
  match (s.core core).runs.find? (fun r => s.drains r row) with
  | none => .next s
  | some r =>
    if parity then .next (((s.tblParity core r).stopEnd core).note core)
    else
      let s0 := { s with tbl := { s.tbl with suspect := s.tbl.suspect.erase core } }
      let pass := fun (s : State) => s.setCore core { s.core core with
        runs := updFirst (fun q => q == r) (fun q => { q.upset row lane flip.toNat with drained := q.drained ++ [row] }) (s.core core).runs }
      match s0.rowCheck core r row lane flip.toNat with
      | .pass => .next (pass s0)
      | .excluded => .next (((pass s0).cnt 0x0803 core).wr (Reg.CORE_LRW_STICKY_CK_EXCLUDED core) 1)
      | .fail l => .next (((s0.failTile core r row l).stopEnd core).note core)

/-- CHECK_RUN_DONE (R344, R345): the core stays in service with CK_RETRY set, or is fenced; a core whose failure was injected is
never fenced. -/
def execCheckRunDone (core : Nat) (pass : Bool) (s : State) : Host.Outcome State Fault Refusal :=
  let x := s.core core
  match x.checks with
  | [] => .next s
  | q :: t =>
    let s1 := s.setCore core { x with checks := t }
    if pass then .next (s1.wr (Reg.CORE_LRW_STICKY_CK_RETRY core) 1)
    else
      let s2 := (s1.cnt 0x0802 core).bump (Reg.CORE_LRW_CK_FAILS_COUNT core)
      if q.2 then .next s2
      else
        let loc := (s2.reg (Reg.CORE_LRW_CK_LOC core)).toNat
        let s3 := (s2.coreErr core 0x0803 false core loc).devError 0x0803 core loc
        .next ((s3.fenceCore core).fenceFiled 0 core 0x0803 true)

/-- CK_INJECT (R345): a written 1 stands until the next tile is issued. -/
def execCkInject (core : Nat) (s : State) : Host.Outcome State Fault Refusal := s.bar (Reg.CORE_LRW_CTRL core) fun s =>
  .next (s.wr (Reg.CORE_LRW_CTRL_CK_INJECT core) 1)

/-! ### Cores out of service by register (R351) -/

/-- CORE_OFFLINE (R351): OFFLINE written 1. -/
def execCoreOffline (core : Nat) (s : State) : Host.Outcome State Fault Refusal := s.bar (Reg.CORE_LRW_CTRL core) fun s =>
  let s1 := s.wr (Reg.CORE_LRW_CTRL_OFFLINE core) 1
  let x := s1.core core
  match s1.coreState core with
  | 0 | 1 => .next (s1.stopCore core 1)
  | 2 =>
    -- a stop already in progress ends OFFLINE
    .next (if x.lehr = 4 then s1 else s1.setCore core { x with lehr := 1 })
  | 3 => .next ((s1.setCore core { x with lehr := 1 }).wr (Reg.CORE_LRW_STATUS_STATE core) 2)
  | _ => .next s1

/-- CORE_ONLINE (R351): OFFLINE written 0. -/
def execCoreOnline (core : Nat) (s : State) : Host.Outcome State Fault Refusal := s.bar (Reg.CORE_LRW_CTRL core) fun s =>
  let was := s.rd (Reg.CORE_LRW_CTRL_OFFLINE core)
  let s1 := s.wr (Reg.CORE_LRW_CTRL_OFFLINE core) 0
  match s1.coreState core with
  | 2 => .next (if was = 1 ∧ (s1.core core).lehr = 1 then s1.wr (Reg.CORE_LRW_STATUS_STATE core) 3 else s1)
  | 4 => .next ((s1.wr (Reg.CORE_LRW_STATUS_STATE core) 0).note core)
  | _ => .next s1

/-! ### Probes (R435) -/

/-- MRV_PROBE (R435): the slot of PROBE_CFG is evaluated at PROBE_X, and the coefficients of SEG are read. -/
def execMrvProbe (core : Nat) (s : State) : Host.Outcome State Fault Refusal := s.bar (Reg.CORE_MRV_PROBE_CFG core) fun s =>
  let slot := s.rd (Reg.CORE_MRV_PROBE_CFG_SLOT core)
  let seg := s.rd (Reg.CORE_MRV_PROBE_CFG_SEG core)
  let gen := s.tbl.gen + s.rd (Reg.CORE_MRV_PROBE_CFG_SHADOW core)
  let bank := s.bankOf gen
  let q := slotCoef bank slot seg
  let y := if slot < 12 then evalSlot bank slot (s.reg (Reg.CORE_MRV_PROBE_X core)).toNat else 0
  let s1 := (s.setReg (Reg.CORE_MRV_PROBE_Y core) (BitVec.ofNat 32 y)).setReg (Reg.CORE_MRV_PROBE_C0 core) (BitVec.ofNat 32 q.1)
  let s2 := (s1.setReg (Reg.CORE_MRV_PROBE_C1 core) (BitVec.ofNat 32 q.2.1)).setReg (Reg.CORE_MRV_PROBE_C2 core)
    (BitVec.ofNat 32 q.2.2)
  .next ((s2.wr (Reg.CORE_MRV_PROBE_CFG_GO core) 0).wr (Reg.CORE_MRV_PROBE_CFG_DONE core) 1)

end Sys2Proof.Machine
end

