-- ==== Sys2Proof/Machine/Route.lean ====
section
/-! DEFINITION. The start of a job (R278, R536, R575), GATHER (R283), EMIT (R285), table reloads (R422 to R424) and the optimiser step
(R387). -/

set_option Elab.async false

namespace Sys2Proof.Machine

/-! ### The start of a job -/

/-- Draw one copy of each entry: all or nothing (R575). -/
def State.drawPlan (s : State) (j : Job) : List Nat → Option (State × List (Nat × Nat × List Nat))
  | [] => some (s, [])
  | i :: t =>
    match (s.prog j.prog).plan[i]? with
    | none => State.drawPlan s j t
    | some e =>
      let f := poolFit (planSize e)
      match s.draw (planOwner e) f.1 f.2 j.svc j.ticket false with
      | (s1, some l) => (State.drawPlan s1 j t).map (fun q => (q.1, (i, f.1, l) :: q.2))
      | (_, none) => none

/-- No entry of the job's plan has as many copies out as COPIES allows the jobs of its stream or route (R292). -/
def State.copiesLeft (s : State) (j : Job) : Bool :=
  (s.planEntries j).all (fun i => match (s.prog j.prog).plan[i]? with
    | some e => decide (s.copiesHeld j.scope i < planCopies e)
    | none => true)

/-- The job's plan copies are drawn, or it keeps waiting (R292, R575). -/
def State.grantPlan (s : State) (j : Job) : State :=
  if s.copiesLeft j then
    match s.drawPlan j (s.planEntries j) with
    | some (s1, l) => (s1.updJob j.id (fun j => { j with plan := some l })).seatNodes j.id
    | none => s
  else s

/-- The home cluster of a job route: the most free cores for its class, ties to the lowest (R536). -/
def State.homeOf (s : State) : Nat :=
  let n := fun (k : Nat) => ((List.range 8).filter (fun i => s.coreTakes (8 * k + i) false || s.coreTakes (8 * k + i) true)).length
  (List.range 8).foldl (fun a k => if n a < n k then k else a) 0

/-- The hash sets of a job route start empty in buffers drawn for SGS (R506): the state after the draws, or the KiB that could not be
drawn. -/
def State.drawSets (s : State) (j : Job) : List (Nat × Nat) → State × Except Nat (List SgsSet)
  | [] => (s, .ok [])
  | (n, cap) :: t =>
    let f := poolFit (2 ^ cap * 8)
    match s.draw 6 f.1 f.2 j.svc j.ticket true with
    | (s1, some l) =>
      match State.drawSets s1 j t with
      | (s2, .ok r) => (s2, .ok ({ node := n, cap := cap, bufs := (f.1, l) } :: r))
      | (s2, .error e) => (s2.freeAll f.1 l, .error e)
    | (s1, none) => (s1, .error (2 ^ cap * 8 / 1024))

/-- HSET nodes of a route with their LOG2_CAP; INTERSECT uses no set (R505, R528). -/
def State.setNodes (s : State) (prog route : Nat) : List (Nat × Nat) :=
  (((s.prog prog).routeWords route).zipIdx).filterMap (fun q =>
    if wOpc q.1 = 0x54 then
      let d := s.descOf prog (wDesc q.1)
      if bitsOf d 444 4 = 2 then none else some (q.2, bitsOf d 437 5)
    else none)

/-- KiB that SGS's owner could still draw in a class (R533). -/
def State.sgsRoom (s : State) (c : Nat) : Nat :=
  (s.poolRes 6 c - s.poolHeld 6 c + (s.poolH c - s.poolBp c)) * poolSize c / 1024

/-- A job starts: its node instances enter their issue queues, and its plan copies are drawn or waited for (R278, R506, R535, R536,
R575). -/
def State.startJob (s : State) (j : Job) : State :=
  let isCmd := match j.kind with | .frame _ _ _ => false | _ => true
  let home := if isCmd then s.homeOf else j.home
  let s1 := s.updJob j.id (fun j => { j with started := true, home := home })
  let j1 := { j with started := true, home := home }
  if isCmd then
    match s1.drawSets j1 (s1.setNodes j.prog j.route) with
    | (s2, .ok l) => (s2.updJob j.id (fun j => { j with sets := l })).grantPlan { j1 with sets := l }
    | (s2, .error k) =>
      let n := match s1.setNodes j.prog j.route with | q :: _ => q.1 | [] => 0
      s2.faultJob j1 n 0x0A04 k (s2.sgsRoom (poolFit (k * 1024)).1)
  else s1.grantPlan j1

/-- JOB_START (R278, R544, R559): a job starts unless the whole device is being saved; an ADAPT_RUN waits for the DONE of those
before it that name the same program (R391). -/
def execJobStart (job : Nat) (s : State) : Host.Outcome State Fault Refusal :=
  match s.job? job with
  | none => .next s
  | some j =>
    let waits := j.adapt.isSome && (s.jobs.any (fun k => k.prog == j.prog && k.adapt.isSome && decide (k.id < j.id)) ||
      s.sched.swaps.any (fun q => q.2.1 == j.prog))
    let held := match j.kind with | .frame st n _ => s.bindHolds st n | _ => false
    if j.started = false ∧ held = false ∧ s.sched.saving = false ∧ s.rd Reg.SCHED_STATUS_SAVED_ALL = 0 ∧ waits = false then
      let s1 := s.startJob j
      match s.hbm.badProgs.find? (fun q => q.1 == j.prog), s1.job? job with
      | some q, some k => .next (s1.poisonJob k q.2)
      | _, _ => .next s1
    else .next s

/-- JOB_PLAN_GRANT (R575): the waiting job with the oldest ticket draws its copies. -/
def execJobPlanGrant (job : Nat) (s : State) : Host.Outcome State Fault Refusal :=
  match s.job? job with
  | none => .next s
  | some j =>
    if j.started = true ∧ j.plan.isNone = true ∧
        s.jobs.all (fun k => !(k.started && k.plan.isNone && olderTicket s.ticketNow k.ticket j.ticket)) = true then .next (s.grantPlan j)
    else .next s

/-! ### GATHER (R283, R284) -/

def gaSeg (w : Nat) : Nat := bitsOf w 80 16
def gaFrom (w : Nat) : Nat := bitsOf w 78 2
def gaOffset (w : Nat) : Nat := bitsOf w 32 32
def gaLength (w : Nat) : Nat := bitsOf w 0 32

/-- The bytes of a program segment as a job reads it (R391): an ADAPT_RUN from its second step on reads its shadow copies, a job that
started before a switch the old copy. -/
def State.segOf (s : State) (j : Job) (k : Nat) : List Nat :=
  match (if 0 < j.pass then j.shadow.find? (fun q => q.1 == k) else none), j.oldSegs.find? (fun q => q.1 == k) with
  | some q, _ => q.2
  | none, some q => q.2
  | none, none => ((s.prog j.prog).segs.getD k { kind := 0, data := [] }).data

/-- The read of `n` bytes of an operand in host memory (R57, R63, R284); a segment lies in HBM. -/
def State.operandRead (s : State) (j : Job) (w n : Nat) : State × Bool :=
  match j.kind, j.operands[gaSeg w]? with
  | .cmd i, some o =>
    match s.cmd? i with
    | some c => if gaFrom w = 0 ∨ n = 0 then (s, true) else s.fetched c [(o.1 + gaOffset w, n)] (relaxable 0x31 true)
    | none => (s, true)
  | _, _ => (s, true)

/-- GATHER (R283, R284): `data` is what the read of the operand returned. -/
def execGather (job node : Nat) (data : List Nat) (s : State) : Host.Outcome State Fault Refusal :=
  match s.nodeFor job node 0x10 with
  | none => .next s
  | some (j, w) =>
    let seg := s.segOf j (gaSeg w)
    let given := if gaFrom w = 0 then seg.length else match j.operands[gaSeg w]? with | some o => o.2 | none => 0
    let n := if gaLength w = 0 then given - gaOffset w else gaLength w
    let plan := match (s.prog j.prog).plan[wPlan w]? with | some e => planSize e | none => 0
    if given < gaOffset w + n ∨ plan < n then
      .next (s.faultJob j node 0x050C (gaSeg w) given)
    else
      match s.operandRead j w n with
      | (s1, false) => .next s1
      | (s1, true) =>
        let bytes := if gaFrom w = 0 then (seg.drop (gaOffset w)).take n else (padTo n 0 (data.map (· % 256))).take n
        let c := j.count.getD 1
        let s2 := s1.updNode job node (fun x => { x with count := c, own := List.range c })
        .next ((s2.commitNode job node (.bytes bytes)).wake job)

/-! ### EMIT (R27 to R32, R42 to R46, R285) -/

def emSrc (w : Nat) : Nat := bitsOf w 80 16
def emType (w : Nat) : Nat := bitsOf w 72 8
def emRing (w : Nat) : Nat := bitsOf w 66 6
def emEmpty (w : Nat) : Bool := bitsOf w 65 1 == 1
def emModel (w : Nat) : Nat := bitsOf w 48 16

/-- One result cut into pennants of at most 15 blocks (R43): `eb` bytes per element, `body first count` the body of a piece, `flag`
adds flags to a piece from the indices of its elements. -/
def pieces (p : Pn) (eb : Nat) (els : List Nat) (body : Nat → Nat → Nat) (flag : List Nat → Nat) : List Pn :=
  let per := 960 / eb
  let groups := if els.isEmpty then [[]] else chunksOf per els.length els
  groups.zipIdx.map (fun (g, i) =>
    { p with
      flags := p.flags ||| flag ((List.range g.length).map (i * per + ·))
      body := body (i * per) g.length
      exts := (chunksOf (64 / eb) g.length g).map (packCodes (8 * eb)) })

/-- PARTIAL on every pennant of the node but the last (R40, R43). -/
def markPartial (l : List Pn) : List Pn :=
  l.zipIdx.map (fun (p, i) => if i + 1 < l.length then { p with flags := p.flags ||| 2 ^ 4 } else p)

/-- Run lengths of a mask, background first, cut at 65,535 (R45, R46). -/
def maskRuns (l : List Bool) : List Nat :=
  let r := l.splitBy (· == ·)
  let r' := match r with | (true :: _) :: _ => [] :: r | _ => r
  r'.flatMap (fun q =>
    let n := q.length
    if n ≤ 65535 then [n]
    else (List.range (cdiv n 65535)).flatMap (fun k =>
      let m := min 65535 (n - k * 65535)
      if k = 0 then [m] else [0, m]))

/-- EFMT of an output format (R44, R356). -/
def efmt (f : Nat) : Nat := match f with | 7 => 0 | 5 => 1 | 1 => 2 | _ => 3

/-- The samples of a node that are the job's own, with their records. -/
def NodeSt.samples (x : NodeSt) : List (Nat × Option SampleRec) := x.own.map (fun k => (k, x.recs[k]?))

/-- Flags of a sample's pennants (R31, R261): those of its record, SEQ_GAP aside, which EGR keeps per ring (R30). -/
def sampleFlags (j : Job) (r : Option SampleRec) : Nat :=
  match r with
  | some r => (r.sflags &&& 0x10B) ||| (j.flags &&& 4)
  | none => j.flags

/-- A pennant of a sample: its identity fields and flags are those of the sample's record (R31, R261). -/
def samplePn (j : Job) (p : Pn) (r : Option SampleRec) : Pn :=
  let q := { p with flags := sampleFlags j r }
  match j.kind, r with
  | .cmd _, _ => q
  | _, some r => { q with stream := r.stream % 128, svc := r.svc, frame := r.frame, pts := r.pts, ct := r.ct, dev := some r.dev }
  | _, none => q

/-- EMBED pennants (R356, R433, R484): one vector per output row; SCALE is 1.0 for FP16 and BF16 (R44). -/
def emitEmbed (j : Job) (p : Pn) (x : NodeSt) (model : Nat) (t : Tensor) : List Pn :=
  let rows := if t.rows.length ≤ t.unit ∨ t.unit = 0 then [(0, t.rows.length, x.recs.head?)]
    else x.samples.map (fun q => (q.1 * t.unit, t.unit, q.2))
  rows.flatMap (fun q => (List.range q.2.1).flatMap (fun i =>
    let r := q.1 + i
    match t.rows[r]? with
    | none => []
    | some v =>
      if t.absent.contains r || t.cols == 0 then []
      else
        let one := t.unit = 1
        let obj := if one then (match q.2.2 with | some k => k.objIndex | none => 0xFFFF) else i
        let trk := if one then (match q.2.2 with | some k => k.trackId | none => 0) else 0
        pieces (samplePn j p q.2.2) (if fmtBits t.fmt = 8 then 1 else 2) (v.take t.cols)
          (fun _ _ => packBits [(96, 32, trk), (80, 16, obj), (64, 16, t.cols), (60, 4, efmt t.fmt), (32, 16, model),
            (0, 32, if t.fmt = 7 ∨ t.fmt = 8 then one32 else t.scale)]) (fun _ => 0)))

/-- DETECT or TRACK pennants of the lists of the job's own samples (R44, R45, R530); a piece with an element that comes from propagation
carries PROPAGATED (R23, R40). -/
def emitLists (j : Job) (p : Pn) (x : NodeSt) (model : Nat) (track : Bool) (l : NodeList) : List Pn :=
  let lists := match track, l.tracks with | true, some t => t | _, _ => l.lists
  x.samples.flatMap (fun q =>
    let raw := lists.getD q.1 []
    let els := if !track && l.isTrack then raw.map (fun e => packBox (elBox true e)) else raw
    let prop := if track || l.tracks.isNone then l.prop.getD q.1 [] else []
    if els.isEmpty then []
    else pieces (samplePn j p q.2) (if track then 32 else 16) els
      (fun f n => packBits [(112, 16, n), (96, 16, if track then 0 else model), (64, 32, f)])
      (fun is => if is.any prop.contains then 2 ^ 6 else 0))

/-- MASK pennants of the classes of each sample (R46, R481): `d` is the descriptor of the ARGMAX_C node. -/
def emitMasks (j : Job) (p : Pn) (x : NodeSt) (d : Nat) (t : Tensor) : List Pn :=
  let px := cvIw d * cvIh d
  x.samples.flatMap (fun q =>
    let at_ := fun (k : Nat) => if t.absent.contains (q.1 * px + k) then 2 ^ 32 else ((t.rows.getD (q.1 * px + k) []).headD 0)
    let idx := (List.range px).map at_
    let classes := (List.range (dN d)).filter (fun c => idx.contains c && !(c == 0 && cvX0 d == 1))
    let obj := match q.2 with | some r => if r.objIndex = 0xFFFF then 0xFFFE else r.objIndex | none => 0xFFFE
    let trk := match q.2 with | some r => r.trackId | none => 0
    classes.flatMap (fun c =>
      pieces (samplePn j p q.2) 2 (maskRuns (idx.map (fun v => v == c)))
        (fun f n => packBits [(96, 32, trk), (80, 16, obj), (64, 16, c), (51, 13, cvIw d - 1), (38, 13, cvIh d - 1), (28, 10, n),
          (0, 28, f)]) (fun _ => 0)))

/-- The ACTIVITY pennant of a map (R180, R181). -/
def emitActivity (p : Pn) (log2 w h : Nat) (cells : List Cell) : List Pn :=
  let fits := fun (k : Nat) => let g := 2 ^ k; decide (cdiv w g * cdiv h g ≤ 7680 ∧ cdiv w g ≤ 255 ∧ cdiv h g ≤ 255)
  let k := match ((List.range 16).map (log2 + ·)).find? fits with | some k => k | none => log2
  let g := 2 ^ k
  let gw := cdiv w g
  let gh := cdiv h g
  let valid := cells.filter (·.valid)
  let bit := fun (i : Nat) => (List.range g).any (fun dy => (List.range g).any (fun dx =>
    let cx := i % gw * g + dx
    let cy := i / gw * g + dy
    decide (cx < w ∧ cy < h) && (cells.getD (cy * w + cx) {}).active))
  let mv := sumNat (valid.map (fun c => max c.mvx.natAbs c.mvy.natAbs))
  let mean := if valid.isEmpty then 0 else mv / valid.length
  let peak := valid.foldl (fun a c => max a c.resid) 0
  let body := packBits [(96, 32, (valid.filter (·.active)).length), (64, 32, valid.length), (48, 16, mean), (32, 16, peak),
    (24, 8, gw), (16, 8, gh)]
  if gw * gh = 0 then []
  else [{ p with body := body, exts := (chunksOf 512 (gw * gh) (List.range (gw * gh))).map (fun l =>
    packCodes 1 (l.map (fun i => if bit i then 1 else 0))) }]

/-- The pennants of an EMIT node (R32, R285).  The spec gives the pennant of EMIT_EMPTY an element count and EXT_COUNT of 0; its other body
fields are the model's: MODEL_ID where the type has one, EMBED SCALE 1.0, and 0 in every other (DESIGN CHOICE, log entry 34). -/
def State.emitPns (s : State) (j : Job) (node w : Nat) : List Pn :=
  let x := j.node (emSrc w)
  let sw := (s.jobWord j (emSrc w)).getD 0
  let stn := opcStn (wOpc sw)
  let inst := if stn = 3 then s.strmEngine j.stream
    else if stn = 6 then x.station.getD 0xFF else 0xFF
  let p := { j.pn (emType w) node with stn := stn, inst := inst }
  let l := match emType w, x.out with
    | 1, .lists l => emitLists j p x (emModel w) false l
    | 2, .lists l => emitLists j p x (emModel w) true l
    | 3, .tensor t => emitMasks j p x (s.descOf j.prog (wDesc sw)) t
    | 4, .tensor t => emitEmbed j p x (emModel w) t
    | 7, .map cw ch cells _ => emitActivity p (bitsOf sw 34 2) cw ch cells
    | _, _ => []
  if l.isEmpty then
    (if emEmpty w then
      [{ p with body := match emType w with
          | 1 => packBits [(96, 16, emModel w)]
          | 4 => packBits [(32, 16, emModel w), (0, 32, one32)]
          | _ => 0 }] else [])
  else markPartial l

/-- EMIT (R285): the results of the source go to EGR. -/
def execEmit (job node : Nat) (s : State) : Host.Outcome State Fault Refusal :=
  match s.nodeFor job node 0x68 with
  | none => .next s
  | some (j, w) =>
    if (j.node (emSrc w)).committed then
      let s1 := (s.emitPns j node w).foldl (fun s p => s.sendTo (emRing w) p) s
      .next (s1.commitNode job node .none)
    else .next s

/-! ### Table reloads (R422 to R424) -/

/-- A node instance that has not finished is bound to generation g − 1 (R424). -/
def State.oldBound (s : State) : Bool :=
  s.tbl.gen != 0 && s.jobs.any (fun j => j.nodes.any (fun n => !n.2.committed && n.2.gen == some (s.tbl.gen - 1)))

/-- The marver registers that follow the tables on every core (R435). -/
def State.tblNote (s : State) : State :=
  (List.range 64).foldl (fun s c =>
    (((s.wr (Reg.CORE_MRV_STATUS_TBL_GEN c) s.tbl.gen).wr (Reg.CORE_MRV_STATUS_ACTIVE_BANK c) (s.tbl.gen % 2)).wr
      (Reg.CORE_MRV_STATUS_SHADOW_PENDING c) (if s.tbl.loads.isEmpty then 0 else 1)).wr (Reg.CORE_MRV_STATUS_OLD_USERS c)
      (s.oldUsers c)) s

/-- TBL_LOAD (R424): it takes its place behind the TBL_LOADs of jobs accepted before its own. -/
def execTblLoad (job node : Nat) (s : State) : Host.Outcome State Fault Refusal :=
  match s.nodeFor job node 0x44 with
  | none => .next s
  | some _ =>
    let l := insBy (fun (a b : Nat × Nat) => decide (a.1 < b.1) || (a.1 == b.1 && decide (a.2 < b.2))) (job, node) s.tbl.loads
    let s1 := s.updNode job node (fun x => { x with ran := true })
    .next ({ s1 with tbl := { s1.tbl with loads := l } } : State).tblNote

/-- A TBL_LOAD that has not committed stands before a node: of a job accepted before its own, or lower in its own job (R424). -/
def State.tblEarlier (s : State) (id node : Nat) : Bool :=
  s.jobs.any (fun j => ((s.prog j.prog).routeWords j.route).zipIdx.any (fun q =>
    wOpc q.1 == 0x44 && (decide (j.id < id) || (j.id == id && decide (q.2 < node))) && !(j.node q.2).committed))

/-- TBL_SWITCH (R424): in the acceptance order of their jobs, and once no node instance is bound to g − 1, the other bank is written and the generation advances on every
core; the TBL_LOAD commits. -/
def execTblSwitch (s : State) : Host.Outcome State Fault Refusal :=
  match s.tbl.loads with
  | [] => .next s
  | (id, node) :: rest =>
    match s.job? id with
    | none => .next ({ s with tbl := { s.tbl with loads := rest } } : State).tblNote
    | some j =>
      if s.oldBound || s.tblEarlier id node then .next s
      else
        let g := s.tbl.gen
        let seg := gaSeg ((s.jobWord j node).getD 0)
        let bank := imageSlots (s.segOf j seg) (s.bankOf g)
        let t := { s.tbl with loads := rest, gen := g + 1 }
        let t1 := if (g + 1) % 2 = 0 then { t with bank0 := bank } else { t with bank1 := bank }
        let s1 := (List.range 64).foldl (fun s c => s.cnt 0x0904 c) ({ s with tbl := t1 } : State)
        .next ((s1.commitNode id node .none).tblNote)

/-! ### The optimiser step (R387, R388, R390) -/

def opSeg (w : Nat) : Nat := bitsOf w 80 16
def opGrad (w : Nat) : Nat := bitsOf w 64 16
def opPeer (w : Nat) : Nat := bitsOf w 48 16
def opPlan (w : Nat) : Nat := bitsOf w 40 8
def opFmt (w : Nat) : Nat := bitsOf w 36 4
def opScale (w : Nat) : Bool := bitsOf w 35 1 == 1

/-- Wide mode (R384): chosen by MODE or NDEV. -/
def adaptWide (h : Nat) : Bool :=
  match bitsOf h 978 2 with
  | 1 => false
  | 2 => true
  | _ => decide (3 ≤ bitsOf h 980 4)

/-- Rows of a gradient as FP32 (R387). -/
def gradRows (o : NodeOut) : List (List Nat) :=
  match o with
  | .tensor t => t.rows.zipIdx.map (fun (r, i) => (elems ((padTo t.cols 0 r).take t.cols) (t.scales.getD i [])).map (toF32 t.fmt))
  | _ => []

/-- One element: the gradient, m, v, w and the powers of this step in; m, v and w out (R387). -/
def optElem (h b1t b2t g m v w : Nat) : Nat × Nat × Nat :=
  let lr := bitsOf h 944 32
  let b1 := bitsOf h 912 32
  let b2 := bitsOf h 880 32
  let eps := bitsOf h 848 32
  let wd := bitsOf h 816 32
  let clip := bitsOf h 784 32
  let g := if clip % 2 ^ 31 = 0 then g else f32Min (f32Max g (f32Neg clip)) clip
  let m := f32Add (f32Mul b1 m) (f32Mul (f32Sub one32 b1) g)
  let v := f32Add (f32Mul b2 v) (f32Mul (f32Sub one32 b2) (f32Mul g g))
  let mh := f32Div m (f32Sub one32 b1t)
  let vh := f32Div v (f32Sub one32 b2t)
  let w := f32Sub w (f32Mul lr (f32Add (f32Div mh (f32Add (f32Sqrt vh) eps)) (f32Mul wd w)))
  (m, v, w)

/-- A fresh state: w from the segment, m and v 0, the powers 1.0 (R390). -/
def optFresh (wide : Bool) (f rows cols : Nat) (sc : Bool) (seg : List Nat) : OptSt :=
  let w := (rowsOfBytes f rows cols sc seg).map (fun r => r.map (toF32 f))
  let zero := List.replicate rows (List.replicate cols 0)
  { wide := wide, w := if wide then w else w.map (fun r => (outRow 8 false 256 r).1), m := zero, v := zero
    b1t := one32, b2t := one32 }

/-- m or √v of a narrow row, as FP32 (R388). -/
def optRow (codes scales : List Nat) : List Nat := (elems codes scales).map (toF32 5)

/-- One step over every element (R387, R388): the new state, and the new weights as FP32. -/
def optStep (h : Nat) (o : OptSt) (grad : List (List Nat)) : OptSt × List (List Nat) :=
  let b1t := f32Mul o.b1t (bitsOf h 912 32)
  let b2t := f32Mul o.b2t (bitsOf h 880 32)
  let row := fun (i : Nat) (g : List Nat) =>
    let w := if o.wide then o.w.getD i [] else (o.w.getD i []).map (fun c => toF32 8 (c, 127))
    let m := if o.wide then o.m.getD i [] else optRow (o.m.getD i []) (o.mSc.getD i [])
    let v := if o.wide then o.v.getD i [] else (optRow (o.v.getD i []) (o.vSc.getD i [])).map (fun x => f32Mul x x)
    g.zipIdx.map (fun (x, k) => optElem h b1t b2t x (m.getD k 0) (v.getD k 0) (w.getD k 0))
  let rows := grad.zipIdx.map (fun (g, i) => row i g)
  let ms := rows.map (fun r => r.map (·.1))
  let vs := rows.map (fun r => r.map (·.2.1))
  let ws := rows.map (fun r => r.map (·.2.2))
  if o.wide then ({ o with w := ws, m := ms, v := vs, b1t := b1t, b2t := b2t, steps := o.steps + 1 }, ws)
  else
    let m8 := ms.map (outRow 5 true 256)
    let v8 := vs.map (fun r => outRow 5 true 256 (r.map f32Sqrt))
    let w16 := ws.map (fun r => (outRow 8 false 256 r).1)
    ({ o with w := w16, m := m8.map (·.1), mSc := m8.map (·.2.1), v := v8.map (·.1), vSc := v8.map (·.2.1)
              b1t := b1t, b2t := b2t, steps := o.steps + 1 }, w16.map (fun r => r.map (fun c => toF32 8 (c, 127))))

/-- OPT_STEP (R387, R388, R390, R392): every element of the segment takes one step, and the weights go to its shadow copy. -/
def execOptStep (job node : Nat) (s : State) : Host.Outcome State Fault Refusal :=
  match s.nodeFor job node 0x4F with
  | none => .next s
  | some (j, w) =>
    match j.adapt with
    | none => .next s
    | some h =>
      if (wordSrcs w).all (fun q => (j.node q.2).committed) then
        let p := s.prog j.prog
        let g0 := gradRows (j.src (opGrad w))
        let grad := if opPeer w = 0xFFFF then g0
          else List.zipWith (fun a b => List.zipWith f32Add a b) g0 (gradRows (j.src (opPeer w)))
        let rows := grad.length
        let cols := (grad.headD []).length
        let seg := s.segOf j (opSeg w)
        let fresh := optFresh (adaptWide h) (opFmt w) rows cols (opScale w) seg
        let old := match p.opt.find? (fun q => q.1 == opPlan w) with
          | some q => if (j.pass = 0 ∧ bitsOf h 977 1 = 1) ∨ q.2.wide ≠ adaptWide h then fresh else q.2
          | none => fresh
        let r := optStep h old grad
        let out := r.2.map (fun l => outRow (opFmt w) (opScale w) 256 l)
        let t : Tensor := { fmt := opFmt w, cols := cols, rows := out.map (·.1), unit := rows
                            scales := if opScale w then out.map (·.2.1) else [] }
        let bytes := tensorBytes t
        let data := bytes.take seg.length ++ seg.drop bytes.length
        let s1 := s.setProg j.prog { p with
          optOld := some (p.optOld.getD p.opt)
          opt := (opPlan w, r.1) :: p.opt.filter (fun q => q.1 != opPlan w) }
        let s2 := s1.updJob job (fun j => { j with shadow := (opSeg w, data) :: j.shadow.filter (fun q => q.1 != opSeg w) })
        .next ((s2.commitNode job node .none).wake job)
      else .next s

end Sys2Proof.Machine
end

