-- ==== Sys2Proof/Machine/Sgs.lean ====
section
/-! DEFINITION. The set and graph stations (chapter 13): their operations from start to commit (R487 to R530), the placement of
streams (R488), and a station taken out of service (R491, R532). -/

set_option Elab.async false

namespace Sys2Proof.Machine

/-! ### Stations -/

/-- Streams of a station. -/
def State.sgsOn (s : State) (k : Nat) : List Nat := (List.range 128).filter (fun st => s.sgsSt st != 0 && s.sgsStation st == k)

/-- Rows reserved and rows in use of a station, out of 16,384 (R514). -/
def State.trkReserved (s : State) (k : Nat) : Nat := sumNat ((s.sgsOn k).map s.sgsCap)
def State.trkLive (s : State) (k : Nat) : Nat := sumNat ((s.sgsOn k).map (fun st => (s.sgsStream st).trk.tracks.length))

/-- The registers of a station follow its streams and operations (R532). -/
def State.stationNote (s : State) (k : Nat) : State :=
  let n := s.trkReserved k
  let s1 := ((s.wr (Reg.SGS_STATUS_NSTREAMS k) (s.sgsOn k).length).wr (Reg.SGS_TRK_ROWS_RESERVED k) (min 16384 n)).wr
    (Reg.SGS_TRK_ROWS_LIVE k) (s.trkLive k)
  let s2 := if n ≤ 16384 then s1.wr (Reg.SGS_STATUS_OVERCOMMIT k) 0 else s1
  if s2.stationUp k then s2.wr (Reg.SGS_STATUS_STATE k) (if s2.sgs.ops.any (fun o => o.station == k) then 1 else 0) else s2

/-- The registers of a stream follow its tracks and gallery (R532). -/
def State.sgsStrmNote (s : State) (st : Nat) : State :=
  let x := (s.sgsStream st).trk
  ((((s.wr (Reg.SGS_STRM_TRACKS_LIVE st) x.tracks.length).wr (Reg.SGS_STRM_TRACKS_CONFIRMED st)
    (x.tracks.filter (fun t => t.state == 1 || t.state == 2)).length).wr (Reg.SGS_STRM_NEXT_ID_NEXT st) x.nextId).wr
    (Reg.SGS_STRM_GAL_USED st) x.gallery.length).wr (Reg.SGS_STRM_NEXT_IDENT_NEXT st) x.nextIdent

def State.stationsNote (s : State) : State := (List.range 4).foldl State.stationNote s

/-- Record a code of class 0x0A on a station, on a stream when one is concerned, and in the record file (R532, R533). -/
def State.sgsErr (s : State) (k : Nat) (st : Option Nat) (code : Nat) (d0 d1 : Nat := 0) : State :=
  let s1 := s.setErr (Reg.SGS_ERR k) true (16, 8, st.getD 0xFF) code
  let s2 := match st with
    | some n => s1.setErr (Reg.SGS_STRM_ERR n) false (0, 0, 0) code
    | none => s1
  s2.file .sgs k code d0 d1

/-! ### Ready operations (R488 to R490) -/

/-- The frame runs under the stream's present binding: another's SGS state is not the stream's any more (R506, R516). -/
def State.sgsBound (s : State) (j : Job) : Bool :=
  match j.frameOf, (s.stream j.stream).bind with
  | some (st, n), some b => b.prog == j.prog && b.route == j.route && !seqBefore n (s.sgsStream st).first
  | _, _ => false

/-- Unit of a station that runs an opcode (R487). -/
def sgsUnit (opc : Nat) : Nat := if opc ≤ 0x54 then 0 else if opc = 0x55 then 3 else if opc = 0x56 then 1 else 2

/-- The station an operation runs on: the stream's, or for a job route the one chosen as the node became ready (R488). -/
def State.opStation (s : State) (j : Job) (n : Nat) : Option Nat :=
  match j.frameOf with
  | some (st, _) => if s.sgsSt st = 1 ∧ s.stationUp (s.sgsStation st) = true then some (s.sgsStation st) else none
  | none => match (j.node n).station with
    | some k => if s.stationUp k then some k else s.freeStation
    | none => s.freeStation

/-- Ready operations of a unit of a station: class, ticket and stream, and where they are. -/
def State.readyOps (s : State) (k unit : Nat) : List (Job × Nat) :=
  s.jobs.flatMap (fun j =>
    (((s.prog j.prog).routeWords j.route).zipIdx).filterMap (fun q =>
      if isSgs (wOpc q.1) = true ∧ s.opStation j q.2 = some k ∧ sgsUnit (wOpc q.1) = unit ∧ s.sgsReady j q.2 q.1 = true then some (j, q.2)
      else none))

/-- Does an operation go before another (R490)?  One that 15 operations of higher classes have passed goes first. -/
def opBefore (now : Nat) (a b : Job × Nat) : Bool :=
  let due := fun (q : Job × Nat) => decide (15 ≤ (q.1.node q.2).waits)
  if due a != due b then due a
  else if a.1.svc ≠ b.1.svc then decide (a.1.svc < b.1.svc)
  else if olderTicket now a.1.ticket b.1.ticket then true
  else if olderTicket now b.1.ticket a.1.ticket then false
  else if a.1.stream ≠ b.1.stream then decide (a.1.stream < b.1.stream)
  else decide (a.1.id < b.1.id) || (a.1.id == b.1.id && decide (a.2 < b.2))

/-! ### What an operation gives -/

/-- The result of an operation and what it counts. -/
structure SgsRes where
  out : NodeOut := .none
  trunc : Nat := 0
  setFull : Nat := 0
  capped : Bool := false
  keys : Option (List Nat) := none
  trk : Option TrackSt := none
  births : Nat := 0
  retired : Nat := 0
  refused : Nat := 0
  prop : Nat := 0
  matched : Nat := 0
  made : Nat := 0

/-- The lists an SGS node reads, whether they are tracks, and the propagated TRACK_IDs: the track lists of a TRACK node (R530). -/
def listsOf (o : NodeOut) : Bool × List (List Nat) × List Nat :=
  match o with
  | .lists l =>
    let ls := match l.tracks with | some t => t | none => l.lists
    (l.tracks.isSome || l.isTrack, ls, (ls.zip l.prop).flatMap (fun q => q.2.map (fun i => bitsOf (q.1.getD i 0) 0 32)))
  | _ => (false, [], [])

/-- The detection lists of a source (R530). -/
def boxListsOf (o : NodeOut) : List (List Nat) :=
  match o with
  | .lists l => l.lists
  | _ => []

/-- The decoded picture size of the job's stream, none for a job route (R494, R497). -/
def State.pictureSize (s : State) (j : Job) : Option (Nat × Nat) :=
  match j.frameOf with
  | none => none
  | some (st, n) =>
    match s.donePic st n, (s.stream st).seqHdr with
    | some p, _ => some (p.w, p.h)
    | none, some q => some (q.width, q.height)
    | none, none => some (0, 0)

/-- Rows of one sample of a core node's output as elements of a format, absent rows left out (R295, R496). -/
def candRows (f k sample : Nat) (all : Bool) (o : NodeOut) : List (List Elem) :=
  match o with
  | .tensor t =>
    let rows := rowsOfTensor f k false t
    let ix := rows.zipIdx.filter (fun q => !t.absent.contains q.2)
    (if all then ix else ix.filter (fun q => q.2 / max 1 t.unit == sample)).map (·.1)
  | _ => []

/-- Lists of every sample from those of the job's own samples (R492). -/
def ownLists (x : NodeSt) (f : Nat → List Nat × Nat) : List (List Nat) × List Nat :=
  let l := (List.range (max 1 x.count)).map (fun k => if x.own.contains k then f k else ([], 0))
  (l.map (·.1), l.map (·.2))

/-- The propagated elements of a list made from tracks (R525). -/
def propOf (ids : List Nat) (l : List Nat) : List Nat :=
  (l.zipIdx.filter (fun q => ids.contains (bitsOf q.1 0 32))).map (·.2)

/-- A list node over the own samples of its source. -/
def thinLists (x : NodeSt) (size : Nat × Nat) (f : Bool → List Nat → List Nat × Nat) : SgsRes :=
  let src := listsOf x.out
  let r := ownLists x (fun k => f src.1 (src.2.1.getD k []))
  { out := .lists { isTrack := src.1, lists := r.1, trunc := r.2, size := size
                    prop := if src.1 then r.1.map (propOf src.2.2) else [] }
    trunc := sumNat r.2 }

/-- HSET over the own samples in slot order, from the keys of its set (R504 to R506). -/
def hsetLists (d : Nat) (x : NodeSt) (other : Bool × List (List Nat)) (size : Nat × Nat) (keys : List Nat) : SgsRes :=
  let src := listsOf x.out
  let step := fun (a : List Nat × List (List Nat) × Nat) (k : Nat) =>
    if x.own.contains k then
      let keysB := ((other.2.getD k []).map (setKey other.1 d)).filter (· != 0)
      let r := hsetCalc src.1 d (src.2.1.getD k []) a.1 keysB
      (r.1, a.2.1 ++ [r.2.1], a.2.2 + r.2.2)
    else (a.1, a.2.1 ++ [[]], a.2.2)
  let r := (List.range (max 1 x.count)).foldl step (keys, [], 0)
  { out := .lists { isTrack := src.1, lists := r.2.1, size := size, prop := if src.1 then r.2.1.map (propOf src.2.2) else [] }
    setFull := r.2.2, keys := some r.1 }

/-- The keys of the set of an HSET node: the stream's, the job's, or an empty one (R506). -/
def State.setKeys (s : State) (j : Job) (n : Nat) : List Nat :=
  let l := if s.sgsBound j then (s.sgsStream j.stream).sets else j.sets
  match l.find? (fun q => q.node == n) with
  | some q => q.keys
  | none => []

/-- Rows of a KNN source as values (R508); none stands for an absent row (R295). -/
def knnRows (o : NodeOut) : List (Option (List FV)) :=
  match o with
  | .tensor t => t.rows.zipIdx.map (fun (r, i) => if t.absent.contains i then none else some ((padTo t.cols 0 r).take t.cols |>.map (decF t.fmt)))
  | _ => []

/-- KNN from the dot products of its tile jobs (R508, R509): an absent row of A finds nothing, one of B is no candidate (R295). -/
def knnCalc (d : Nat) (self : Bool) (a b prod : NodeOut) : List Nat :=
  let na := (knnRows a).map (fun r => r.map rowNorm)
  let nb := (knnRows b).map (fun r => r.map rowNorm)
  match prod with
  | .tensor t =>
    t.rows.zipIdx.flatMap (fun (r, i) =>
      let l := ((r.take nb.length).zip nb).zipIdx.filterMap (fun (q, k) => match na.getD i none, q.2 with
        | some x, some y => some (k, distance (sgMetric d) x y q.1)
        | _, _ => none)
      entryBytes (nearest (sgK d) (if self && sgSelfExcl d then l.filter (fun q => q.1 != i) else l)))
  | _ => []

/-- The FP16 cost of a matrix element; none when the pair is forbidden (R510). -/
def costOf (f : Nat) (e : Elem) : Option Nat :=
  let c := if f = 7 then e.1 else (cvt 7 (d32 (toF32 f e))).1
  match decF 7 c with
  | .num _ _ _ => some c
  | _ => none

/-- ASSIGN (R510 to R513). -/
def assignCalc (d : Nat) (o : NodeOut) : List Nat × Bool :=
  match o with
  | .tensor t =>
    -- an absent row allows no pair (R295)
    let m := (rowsOfTensor t.fmt t.cols (!t.scales.isEmpty) t).zipIdx.map (fun q =>
      if t.absent.contains q.2 then q.1.map (fun _ => none) else q.1.map (costOf t.fmt))
    let r := solveAssign m t.cols (sgCostMax d) (sgEpsDiv d) (sgRounds d * 1024)
    (entryBytes (m.zipIdx.map (fun (row, i) =>
      match r.1.getD i none with
      | some c => (c, match row.getD c none with | some v => toF32 7 (v, 127) | none => 0)
      | none => (2 ^ 32 - 1, 0))), r.2)
  | _ => ([], false)

/-- The cells that issued tiles of GATE_NODE cover for a sample; every cell when nothing is gated (R525). -/
def State.coverage (s : State) (j : Job) (sample cw ch : Nat) (forced : Bool) : List Bool :=
  let all := List.replicate (cw * ch) true
  match s.jobWord j 0 with
  | none => all
  | some dw =>
    match dcGate dw with
    | none => all
    | some gn =>
      if forced then all
      else
        let x := j.node gn
        match x.grid, s.jobWord j gn with
        | some g, some w =>
          let d := s.coreDesc j gn w
          let u := max 1 (dMUnit d)
          let m := match x.recs[sample]? with | some r => r.m | none => []
          let rects := (List.range g.mb).filterMap (fun i =>
            let lo := max (i * g.tm) (sample * u)
            let hi := min (min ((i + 1) * g.tm) g.m) ((sample + 1) * u)
            if lo < hi ∧ (List.range g.nb).any (fun k => !x.gated.contains (g.tile i k)) = true then
              some (cellRect d cw ch m (lo - sample * u) (hi - 1 - sample * u)) else none)
          (List.range (cw * ch)).map (fun c =>
            let cx := c % max 1 cw
            let cy := c / max 1 cw
            rects.any (fun r => decide (r.1.1 ≤ cx ∧ cx < r.1.2 ∧ r.2.1 ≤ cy ∧ cy < r.2.2)))
        | _, _ => all

/-- Embedding rows of a job's own samples as FP32, by OBJ_INDEX (R524); none stands for an absent row (R295). -/
def embRows (x : NodeSt) : List (Option (List Nat)) :=
  match x.out with
  | .tensor t =>
    let rows := (rowsOfTensor t.fmt t.cols (!t.scales.isEmpty) t).zipIdx.map (fun q =>
      if t.absent.contains q.2 then none else some (q.1.map (toF32 t.fmt)))
    if t.rows.length ≤ t.unit ∨ t.unit = 0 then rows
    else x.own.flatMap (fun k => (rows.drop (k * t.unit)).take t.unit)
  | _ => []

/-- TRACK over the own samples in slot order (R522 to R526). -/
def State.trackRes (s : State) (j : Job) (w d : Nat) (st0 : TrackSt) : SgsRes :=
  let a := j.node (wA w)
  let dets := boxListsOf a.out
  let size := s.pictureSize j
  let embs := if wB w = 0xFFFF then none else some ((embRows (j.node (wB w))).map (fun r => r.map (fun r => (padTo (tkEmbDim d) 0 r).take (tkEmbDim d))))
  let disc := (s.sgsStream j.stream).disc.any (fun q => !seqBefore j.frameSeq q)
  let forced := match s.donePic j.stream j.frameSeq with | some p => p.forced | none => false
  let used := s.trkLive (s.sgsStation j.stream)
  let go := fun (acc : SgsRes × TrackSt × Bool × List (List Nat) × List (List Nat) × List (List Nat) × List Nat) (k : Nat) =>
    let (r, st, dc, ls, ts, ps, tr) := acc
    if a.own.contains k then
      let rec_ := a.recs[k]?
      let map := if wC w = 0xFFFF then none
        else match j.src (wC w) with
          | .map cw ch cells _ => some (cw, cells, s.coverage j k cw ch forced)
          | _ => none
      let i : TrackIn :=
        { d := d, seq := j.frameSeq, discont := dc, standIn := match rec_ with | some q => q.sflags % 2 == 1 | none => false
          dets := (dets.getD k []).map (elBox false), embs := embs, map := map, size := size
          -- rows of the station that its streams do not use, this one as the samples before it left it
          rows := 16384 - (used - st0.tracks.length + st.tracks.length) }
      let o := trackStep i st
      ({ r with births := r.births + o.births, retired := r.retired + o.retired, refused := r.refused + o.refused
                prop := r.prop + o.prop.length, matched := r.matched + o.matched, made := r.made + o.made
                trunc := r.trunc + o.trunc, capped := r.capped || o.capped },
       o.st, false, ls ++ [o.dets.map packBox], ts ++ [o.els], ps ++ [o.prop], tr ++ [o.trunc])
    else (r, st, dc, ls ++ [[]], ts ++ [[]], ps ++ [[]], tr ++ [0])
  let (r, st, _, ls, ts, ps, tr) := (List.range (max 1 a.count)).foldl go ({}, st0, disc, [], [], [], [])
  { r with trk := some st
           out := .lists { lists := ls, tracks := some ts, prop := ps, trunc := tr, size := size.getD (0, 0) } }

/-- The result of an operation from its sources and the state it starts from (R496 to R530). -/
def State.sgsCalc (s : State) (j : Job) (n w : Nat) : SgsRes :=
  let d := s.descOf j.prog (wDesc w)
  let a := j.node (wA w)
  let size := (s.pictureSize j).getD (0, 0)
  match wOpc w with
  | 0x50 =>
    let isJob := j.frameOf.isNone
    let k := (if sgAware d then 5 else 4) + sgNcls d
    let f := sgFmt d
    let r := ownLists (if isJob then { a with count := 1, own := [0] } else a) (fun i =>
      let m := if isJob then none else (a.recs[i]?).map (·.m)
      boxesCalc d m (s.pictureSize j) ((candRows f k i isJob a.out).map (fun row => row.map (toF32 f))))
    { out := .lists { lists := r.1, trunc := r.2, size := size }, trunc := sumNat r.2 }
  | 0x51 => thinLists a size (fun tr l => nmsCalc tr d l)
  | 0x52 => thinLists a size (fun tr l => (topkCalc tr d l, 0))
  | 0x53 =>
    let la := listsOf a.out
    let lb := if wB w = 0xFFFF then la else listsOf (j.node (wB w)).out
    let k := a.own.headD 0
    let bs := (lb.2.1.getD k []).map (elBox lb.1)
    let rows := (la.2.1.getD k []).map (fun e => (outRow (sgFmt d) false 256 (iouRow d (elBox la.1 e) bs)).1)
    { out := .tensor { fmt := sgFmt d, cols := bs.length, rows := rows, unit := rows.length } }
  | 0x54 =>
    let lb := if wB w = 0xFFFF then (false, []) else let q := listsOf (j.node (wB w)).out; (q.1, q.2.1)
    hsetLists d a lb size (s.setKeys j n)
  | 0x55 => { out := .bytes (knnCalc d (wB w == 0xFFFF) a.out (j.src (knnB w)) (j.node n).out) }
  | 0x56 =>
    let r := assignCalc d a.out
    { out := .bytes r.1, capped := r.2 }
  | _ => s.trackRes j w d (if s.sgsBound j then (s.sgsStream j.stream).trk else {})

/-! ### Faults at the start of an operation (R336 to R338, R503, R509, R510, R529) -/

/-- Bytes of an SGS output (R492, R503, R509, R513). -/
def sgsBytes (o : NodeOut) : Nat :=
  match o with
  | .tensor t => matBytes t.fmt t.rows.length t.cols false
  | o => (outBytes o).length

/-- A source beyond an operation's limits (R503, R509, R510). -/
def sgsOver (j : Job) (w : Nat) : Bool :=
  let a := j.node (wA w)
  let big := fun (o : NodeOut) (r c : Nat) => let q := shapeOf o; decide (r < q.1) || decide (c < q.2.1)
  match wOpc w with
  | 0x53 =>
    let long := fun (x : NodeSt) => ((listsOf x.out).2.1).any (fun l => decide (4096 < l.length))
    long a || (wB w != 0xFFFF && long (j.node (wB w)))
  | 0x55 => big a.out 65536 4096 || big (j.src (knnB w)) 65536 4096
  | 0x56 => big a.out 2048 2048
  | _ => false

/-- The fault of an operation: (code, DETAIL0, DETAIL1). -/
def State.sgsFault (s : State) (j : Job) (n w : Nat) : Option (Nat × Nat × Nat) :=
  let d := s.descOf j.prog (wDesc w)
  let a := j.node (wA w)
  let plan := match (s.prog j.prog).plan[wPlan w]? with | some e => planSize e | none => 0
  let need := if wOpc w = 0x55 then 8 * sgK d * (shapeOf a.out).1 else sgsBytes (s.sgsCalc j n w).out
  if sgsOver j w ∨ plan < need then some (0x0701, cdiv need 1024, plan / 1024)
  else if wOpc w = 0x50 then
    let k := (if sgAware d then 5 else 4) + sgNcls d
    match a.out with
    | .tensor t => if rowsHeld a.out (sgFmt d) k t.rows.length < t.rows.length then some (0x0704, 0, t.rows.length) else none
    | _ => none
  else if wOpc w = 0x57 ∧ wB w ≠ 0xFFFF then
    let most := (boxListsOf a.out).foldl (fun m l => max m l.length) 0
    let held := (embRows (j.node (wB w))).length
    if held < most then some (0x0704, held, most) else none
  else none

/-! ### Start -/

/-- The tile jobs of a KNN node's dot products enter the class queue (R507). -/
def State.knnTiles (s : State) (j : Job) (n k : Nat) : State :=
  match s.coreWord j n with
  | none => s
  | some w =>
    let d := s.coreDesc j n w
    let g := gridOf w d (dMUnit d) 1
    let s1 := s.updNode j.id n (fun x => { x with grid := some g, unready := List.range g.count })
    let s2 := match s1.job? j.id with
      | some j2 => s1.updNode j.id n (fun x => { x with out := (s1.calcNode j2 n w).out })
      | none => s1
    let sc := match j.frameOf with | some (st, _) => s.scope st | none => 0x200 + k
    ((s2.cnt 0x0A0A sc g.count).bump (Reg.SGS_KNN_TILES_COUNT k) g.count).wake j.id

/-- An SGS instruction starts on its station when the unit is free and no ready operation goes before it (R487 to R490). -/
def State.startOp (s : State) (id n opc : Nat) : State :=
  match s.nodeFor id n opc with
  | none => s
  | some (j, w) =>
    match (if s.sched.saving then none else s.opStation j n) with
    | none => s
    | some k =>
      let unit := sgsUnit opc
      let busy := s.sgs.ops.any (fun o => o.station == k && o.unit == unit)
      let first := (s.readyOps k unit).all (fun q => (q.1.id == id && q.2 == n) || opBefore s.ticketNow (j, n) q)
      if s.sgsReady j n w = true ∧ busy = false ∧ first = true then
        match s.sgsFault j n w with
        | some f => s.faultJob j n f.1 f.2.1 f.2.2
        | none =>
          let a := j.node (wA w)
          let one := j.frameOf.isNone && opc == 0x50
          let s1 := s.updNode id n (fun x => { x with
            ran := true, queued := true, station := some k
            count := if one then 1 else a.count, recs := a.recs, own := if one then [0] else a.own })
          -- the ready operations of lower classes are passed
          let s1 := (s.readyOps k unit).foldl (fun s q =>
            if j.svc < q.1.svc then s.updNode q.1.id q.2 (fun x => { x with waits := x.waits + 1 }) else s) s1
          let s2 : State := { s1 with sgs := { s1.sgs with ops := s1.sgs.ops ++ [{ station := k, unit := unit, job := id, node := n }] } }
          (if opc = 0x55 then s2.knnTiles j n k else s2).stationNote k
      else s

/-- BOXES (R496 to R498). -/
def execBoxes (job node : Nat) (s : State) : Host.Outcome State Fault Refusal := .next (s.startOp job node 0x50)
/-- NMS (R499 to R501). -/
def execNms (job node : Nat) (s : State) : Host.Outcome State Fault Refusal := .next (s.startOp job node 0x51)
/-- TOPK (R502). -/
def execTopk (job node : Nat) (s : State) : Host.Outcome State Fault Refusal := .next (s.startOp job node 0x52)
/-- IOU (R503). -/
def execIou (job node : Nat) (s : State) : Host.Outcome State Fault Refusal := .next (s.startOp job node 0x53)
/-- HSET (R504 to R506). -/
def execHset (job node : Nat) (s : State) : Host.Outcome State Fault Refusal := .next (s.startOp job node 0x54)
/-- KNN (R507 to R509): the graph unit requests its dot products as tile jobs. -/
def execKnn (job node : Nat) (s : State) : Host.Outcome State Fault Refusal := .next (s.startOp job node 0x55)
/-- ASSIGN (R510 to R513). -/
def execAssign (job node : Nat) (s : State) : Host.Outcome State Fault Refusal := .next (s.startOp job node 0x56)
/-- TRACK (R514 to R526). -/
def execTrack (job node : Nat) (s : State) : Host.Outcome State Fault Refusal := .next (s.startOp job node 0x57)

/-! ### Commit (R489, R531) -/

/-- The frame's checkpoint takes a part of SGS (R131, R506, R514, R524). -/
def State.ckSgs (s : State) (st n : Nat) (part : SgsPart) : State :=
  let x := s.stream st
  s.setStream st { x with cks := updFirst (fun k => k.seq == n) (fun k => { k with sgs := k.sgs.under part }) x.cks }

/-- The state an operation leaves in its stream or job. -/
def State.sgsApply (s : State) (j : Job) (n : Nat) (r : SgsRes) : State :=
  let put := fun (l : List SgsSet) (keys : List Nat) => updFirst (fun q => q.node == n) (fun q => { q with keys := keys }) l
  if s.sgsBound j then
    let x := s.sgsStream j.stream
    match r.trk, r.keys with
    | some t, _ =>
      ((s.setSgs j.stream { x with trk := t, disc := x.disc.filter (fun q => seqBefore j.frameSeq q) }).ckSgs j.stream j.frameSeq
        { trk := some t }).sgsStrmNote j.stream
    | none, some k =>
      if x.sets.any (fun q => q.node == n) then
        (s.setSgs j.stream { x with sets := put x.sets k }).ckSgs j.stream j.frameSeq { sets := [(n, k)] }
      else s
    | none, none => s
  else
    match r.keys with
    | some k => s.updJob j.id (fun j => { j with sets := put j.sets k })
    | none => s

/-- What an operation counts and records (R498, R506, R512, R522 to R525, R531). -/
def State.sgsCount (s : State) (j : Job) (k : Nat) (r : SgsRes) : State :=
  let st := match j.frameOf with | some (n, _) => some n | none => none
  let sc := match st with | some n => s.scope n | none => 0x200 + k
  let add := fun (s : State) (id n : Nat) => if n = 0 then s else s.cnt id sc n
  let err := fun (s : State) (b : Bool) (code : Nat) => if b then s.sgsErr k st code else s
  let s1 := add (add (add (add s 0x0A00 r.births) 0x0A01 r.retired) 0x0A03 r.refused) 0x0A04 r.prop
  let s2 := add (add (add (add s1 0x0A05 r.trunc) 0x0A06 r.setFull) 0x0A08 r.matched) 0x0A09 r.made
  let s3 := if r.capped then (s2.cnt 0x0A07 sc).bump (Reg.SGS_ASSIGN_CAPPED_COUNT k) else s2
  err (err (err (err s3 (decide (0 < r.trunc)) 0x0A05) (decide (0 < r.setFull)) 0x0A06) r.capped 0x0A07) (decide (0 < r.refused)) 0x0A08

/-- An operation may commit: the dot products of a KNN are all there. -/
def State.opDone (s : State) (o : SgsOp) : Bool :=
  match s.job? o.job with
  | none => true
  | some j =>
    match (j.node o.node).grid with
    | some g => (j.node o.node).finished g
    | none => true

/-! ### Bind and release (R488, R506, R516, R524) -/

/-- The TRACK node of a route with its descriptor. -/
def State.trackOf (s : State) (prog route : Nat) : Option (Nat × Nat) :=
  (((s.prog prog).routeWords route).zipIdx.find? (fun q => wOpc q.1 == 0x57)).map (fun q => (q.2, s.descOf prog (wDesc q.1)))

/-- Unreserved rows of a station. -/
def State.trkFree (s : State) (k : Nat) : Nat := 16384 - s.trkReserved k

/-- The station a stream with TRACK_CAP `cap` goes to (R488). -/
def State.sgsPlace (s : State) (cap : Nat) : Option Nat :=
  let up := (List.range 4).filter s.stationUp
  if cap = 0 then minBy? (fun k => (s.sgsOn k).length) up
  else minBy? (fun k => 16384 - s.trkFree k) (up.filter (fun k => decide (cap ≤ s.trkFree k)))

/-- The sets and the gallery of a binding are drawn for SGS's owner (R506, R524): the state after the draws, or the KiB that could
not be drawn. -/
def State.drawSgs (s : State) (svc : Nat) (l : List (Nat × Nat × Nat)) : State × Except (Nat × Nat) (List SgsSet) :=
  match l with
  | [] => (s, .ok [])
  | (n, cap, bytes) :: t =>
    let f := poolFit bytes
    match s.draw 6 f.1 f.2 svc s.ticketNow true with
    | (s1, some b) =>
      match State.drawSgs s1 svc t with
      | (s2, .ok r) => (s2, .ok ({ node := n, cap := cap, bufs := (f.1, b) } :: r))
      | (s2, .error e) => (s2.freeAll f.1 b, .error e)
    | (s1, none) => (s1, .error (cdiv bytes 1024, s1.sgsRoom f.1))

/-- A stream leaves SGS at its close or a new binding: live tracks are dropped, its buffers return (R506, R516). -/
def State.sgsRelease (s : State) (st : Nat) : State :=
  if s.sgsSt st = 0 then s
  else
    let x := s.sgsStream st
    let n := x.trk.tracks.length
    let s1 := if n = 0 then s else s.cnt 0x0A02 (s.scope st) n
    let s2 := x.sets.foldl (fun s q => s.freeAll q.bufs.1 q.bufs.2) (s1.freeAll x.gal.1 x.gal.2)
    let s3 := (s2.setSgs st {}).setReg (Reg.SGS_STRM_STATE st) 0
    (s3.sgsStrmNote st).stationsNote

/-- A stream is bound to a station (R488): the state, or the code that ends the bind with its details.  On failure the earlier
binding stands and what was drawn returns. -/
def State.sgsBind (s : State) (st prog route svc : Nat) : State × Option (Nat × Nat × Nat) :=
  let trk := s.trackOf prog route
  let cap := match trk with | some q => tkCap q.2 | none => 0
  match s.sgsPlace cap with
  | none =>
    let best := (List.range 4).foldl (fun a k => if s.stationUp k then max a (s.trkFree k) else a) 0
    (s.sgsErr (s.sgsStation st) (some st) 0x0A03, some (0x0A03, cap, best))
  | some k =>
    let gal := match trk with | some q => tkGalCap q.2 * tkEmbDim q.2 * 2 | none => 0
    let want := (s.setNodes prog route).map (fun q => (q.1, q.2, 2 ^ q.2 * 8)) ++ (if gal = 0 then [] else [(0xFFFF, 0, gal)])
    match s.drawSgs svc want with
    | (s1, .error e) => (s1.sgsErr k (some st) 0x0A04, some (0x0A04, e.1, e.2))
    | (s1, .ok l) =>
      let s2 := s1.sgsRelease st
      let sets := l.filter (fun q => q.node != 0xFFFF)
      let x : SgsStream :=
        { sets := sets, first := (s.stream st).nextFrame
          gal := match l.find? (fun q => q.node == 0xFFFF) with | some q => q.bufs | none => (0, []) }
      let s3 := ((s2.setSgs st x).wr (Reg.SGS_STRM_STATE_STATION st) k).wr (Reg.SGS_STRM_STATE_TRACK_CAP st) cap
      let s4 := s3.wr (Reg.SGS_STRM_STATE_STATE st) 1
      let s5 := (List.range 11).foldl (fun s i => s.setCnt (0x0A00 + i) (s.scope st) 0) s4
      -- the checkpoint keeps nothing of an earlier binding
      let y := s5.stream st
      let s6 := s5.setStream st { y with ckpt := y.ckpt.map (fun c => { c with sgs := {} }), cks := y.cks.map (fun c => { c with sgs := {} }) }
      ((s6.sgsStrmNote st).stationsNote, none)

/-! ### A station out of service (R491, R532) -/

/-- An operation is discarded: it runs again from its start (R491). -/
def State.dropOp (s : State) (o : SgsOp) : State :=
  let mine := fun (t : TileJob) => t.job == o.job && t.node == o.node
  let s1 : State := { s with
    sgs := { s.sgs with ops := s.sgs.ops.erase o }
    sched := { s.sched with ready := s.sched.ready.filter (fun t => !mine t) }
    cores := s.cores.map (fun q => (q.1, { q.2 with
      placed := q.2.placed.filter (fun t => !mine t), runs := q.2.runs.filter (fun r => !mine r.tj) })) }
  s1.updNode o.job o.node (fun x => { x with
    ran := false, out := .none, grid := none, unready := [], passed := [], on := [], gen := none })

/-- Operations of some units of a station are discarded. -/
def State.dropOps (s : State) (k : Nat) (units : List Nat) : State :=
  (s.sgs.ops.filter (fun o => o.station == k && units.contains o.unit)).foldl State.dropOp s

/-- The station a moved stream goes to: by R488, else the one with the most unreserved rows; 4 when none is up (R491). -/
def State.sgsTarget (s : State) (cap : Nat) : Nat :=
  match s.sgsPlace cap with
  | some k => k
  | none => (minBy? (fun k => 16384 - s.trkFree k) ((List.range 4).filter s.stationUp)).getD 4

/-- The streams of a station start to move (R491). -/
def State.sgsMoves (s : State) (k : Nat) : State :=
  (s.sgsOn k).foldl (fun s st =>
    let x := s.sgsStream st
    if x.movingTo.isSome then s
    else (s.setSgs st { x with movingTo := some (s.sgsTarget (s.sgsCap st)) }).wr (Reg.SGS_STRM_STATE_STATE st) 2) s

/-- Streams that found no station up are placed when one returns. -/
def State.sgsRetarget (s : State) : State :=
  (List.range 128).foldl (fun s st =>
    let x := s.sgsStream st
    if x.movingTo = some 4 then s.setSgs st { x with movingTo := some (s.sgsTarget (s.sgsCap st)) } else s) s

/-- A station whose streams have moved and whose operations are over leaves its lehr (R532). -/
def State.sgsLehrEnd (s : State) (k : Nat) : State :=
  if (s.sgsOn k).isEmpty ∧ s.opsOn k = 0 then
    match s.stationSt k with
    | 2 => s.wr (Reg.SGS_STATUS_STATE k) 4
    | 3 => (s.wr (Reg.SGS_STATUS_STATE k) 0).sgsRetarget
    | _ => s
  else s

/-- SGS_OPERATION_COMMIT (R489): the first operation of the station whose result is whole commits. -/
def execSgsOperationCommit (station : Nat) (s : State) : Host.Outcome State Fault Refusal :=
  match s.sgs.ops.find? (fun o => o.station == station && s.opDone o) with
  | none => .next s
  | some o =>
    let s1 : State := { s with sgs := { s.sgs with ops := s.sgs.ops.erase o } }
    match s1.job? o.job with
    | none => .next ((s1.stationNote station).sgsLehrEnd station)
    | some j =>
      match s1.jobWord j o.node with
      | none => .next (s1.stationNote station)
      | some w =>
        let r := s1.sgsCalc j o.node w
        let s2 := (s1.sgsApply j o.node r).sgsCount j station r
        let s3 := s2.add64 (Reg.SGS_OPS_LO station) (Reg.SGS_OPS_HI station) 1
        .next ((((s3.commitNode o.job o.node r.out).wake o.job).stationNote station).sgsLehrEnd station)

/-- A station is isolated (R491, R663): every operation of it is discarded and its streams move. -/
def State.fenceStation (s : State) (k : Nat) : State :=
  (((s.dropOps k [0, 1, 2, 3]).wr (Reg.SGS_STATUS_STATE k) 5).sgsMoves k).stationNote k

/-- SGS_OFFLINE (R491, R532): OFFLINE written 1 discards the assignments and graphs in progress and moves the streams; 0 during
LEHR returns the station to IDLE when the move ends. -/
def execSgsOffline (station : Nat) (off : Bool) (s : State) : Host.Outcome State Fault Refusal := s.bar (Reg.SGS_CTRL station) fun s =>
  let s1 := s.wr (Reg.SGS_CTRL_OFFLINE station) (if off then 1 else 0)
  match s1.stationSt station, off with
  | 0, true | 1, true =>
    .next ((((s1.dropOps station [1, 3]).wr (Reg.SGS_STATUS_STATE station) 2).sgsMoves station).sgsLehrEnd station |>.stationNote station)
  | 3, true => .next (s1.wr (Reg.SGS_STATUS_STATE station) 2)
  | 2, false => .next (s1.wr (Reg.SGS_STATUS_STATE station) 3)
  | 4, false => .next (((s1.wr (Reg.SGS_STATUS_STATE station) 0).sgsRetarget).stationNote station)
  | _, _ => .next s1

/-- Tracks in the order in which they are given up (R491): tentative, coasting, confirmed in descending TRACK_ID. -/
def giveUpOrder (l : List Track) : List Track :=
  let desc := fun (l : List Track) => sortBy (fun a b => decide (b.id ≤ a.id)) l
  desc (l.filter (fun t => t.state == 0)) ++ desc (l.filter (fun t => t.state == 2)) ++ desc (l.filter (fun t => t.state == 1))

/-- SGS_MOVE_DONE (R491): the stream resumes on its new station; tracks that do not fit there are retired with SGS_OVERCOMMIT. -/
def execSgsMoveDone (stream : Nat) (s : State) : Host.Outcome State Fault Refusal :=
  let x := s.sgsStream stream
  match x.movingTo with
  | none => .next s
  | some k =>
    let old := s.sgsStation stream
    if s.sgsSt stream = 2 ∧ k < 4 ∧ s.sgs.ops.all (fun o => match s.job? o.job with
        | some j => !(o.station == old && (match j.frameOf with | some (st, _) => st == stream | none => false))
        | none => true) = true then
      let room := s.trkFree k
      let lost := (giveUpOrder x.trk.tracks).take (x.trk.tracks.length - room)
      let kept := x.trk.tracks.filter (fun t => !(lost.any (fun q => q.id == t.id)))
      let s1 := s.setSgs stream { x with trk := { x.trk with tracks := kept }, movingTo := none }
      let s2 := (s1.wr (Reg.SGS_STRM_STATE_STATION stream) k).wr (Reg.SGS_STRM_STATE_STATE stream) 1
      let s3 := if lost.isEmpty then s2
        else
          let n := lost.length
          ((((s2.cnt 0x0A01 (s2.scope stream) n).wr (Reg.SGS_STATUS_OVERCOMMIT k) 1).sgsErr k (some stream) 0x0A09 (s2.scope stream)
            n).devError 0x0A09 (s2.scope stream) n 6 k)
      .next (((s3.sgsStrmNote stream).stationsNote).sgsLehrEnd old)
    else .next s

end Sys2Proof.Machine
end

