-- ==== Sys2Proof/Machine/Prog.lean ====
section
/-! DEFINITION. Loading and unloading programs (R299 to R304, R309). -/

set_option Elab.async false

namespace Sys2Proof.Machine

/-- The program that a command names (R279, R300, R382). -/
def slotProg (w : BitVec 512) : Option Nat :=
  let o := slotOpcode w
  if o = 0x10 ∨ o = 0x11 then some (slotParam w % 32)
  else if o = 0x21 ∨ o = 0x31 ∨ o = 0x32 then some (bitsOf (slotParam w) 8 5)
  else none

/-- Accepted commands that name a program, are older than `c` and have one of some opcodes. -/
def State.olderOn (s : State) (c : Cmd) (p : Nat) (ops : List Nat) : List Cmd :=
  s.jrnl.cmds.filter (fun d => seqBefore d.jidx c.jidx && slotProg d.slot == some p && ops.contains (slotOpcode d.slot))

/-- What a program is to a STREAM_BIND, JOB_RUN or ADAPT_RUN (R302, R304). -/
inductive ProgUse where
  | use | wait | gone
  deriving DecidableEq, Repr

/-- The latest load or unload accepted before the command decides, while its DONE is not posted; else STATE does (R302, R304). -/
def State.progUse (s : State) (c : Cmd) (p : Nat) : ProgUse :=
  match (s.olderOn c p [0x10, 0x11]).getLast? with
  | some d =>
    if slotOpcode d.slot = 0x11 then .gone
    else if d.ended then (if s.progState p = 2 then .use else .gone)
    else if s.progState p = 2 ∧ (s.olderOn c p [0x11]).isEmpty then .use
    else .wait
  | none => if s.progState p = 0 then .gone else if s.progState p = 1 then .wait else .use

/-- BOUND follows the bindings of the streams (R302). -/
def State.progsNote (s : State) : State :=
  (List.range 32).foldl (fun s p => s.wr (Reg.GLB_PROG_STATUS_BOUND p)
    (s.streams.filter (fun q => match q.2.bind with | some b => b.prog == p | none => false)).length) s

/-- PROG_IDs with a program. -/
def State.loaded (s : State) : List Nat := (List.range 32).filter (fun p => s.progState p != 0)

/-- What the checks of a load read of the device (R275, R298, R574, R653, and the bytes a class's smallest way mask holds). -/
def State.loadEnv (s : State) (p : Nat) : LoadEnv :=
  let others := (s.loaded.filter (fun k => k != p)).map s.prog
  let ways := (List.range 4).map (fun c => ((List.range 32).filter (fun w => bitsOf (s.guard c).ways w 1 == 1)).length)
  { lo := s.rd Reg.GLB_ARCH_RUN_MIN, hi := s.rd Reg.GLB_ARCH_RUN_MAX
    ways := ways.foldl min 32 * 3072 * 64
    myDev := s.rd Reg.LNK_TOPO_MY_DEV, ndev := s.rd Reg.LNK_TOPO_NDEV_M1 + 1
    channels := others.flatMap (fun q => (q.words.filter (fun w => wOpc w.toNat == 0x61)).map (fun w => bitsOf w.toNat 64 16))
    res := s.poolRes
    wordsFree := 16384 - sumNat (others.map (fun q => q.words.length))
    descsFree := 4096 - sumNat (others.map (fun q => q.descs.length))
    segFree := 4096 * 2 ^ 20 - sumNat (others.map (fun q => sumNat (q.segs.map (fun g => g.data.length)))) }

/-- The load starts: the image is checked and, when it passes, its parts lie under the PROG_ID (R299). -/
def State.loadProg (s : State) (jidx p : Nat) (image : List Nat) : State :=
  let e := s.loadEnv p
  let r := checkImage e image
  let new : Prog := match r with | none => progOf image e.hi | some _ => {}
  ((s.wr (Reg.GLB_PROG_STATUS_STATE p) 1).setProg p { new with loading := some (jidx, r, image) }).updCmd jidx
    (fun c => { c with waiting := true })

/-- A load fails (R299, R309): recorded in GLB_LOAD_ERR and the record file, with its ERROR and DONE. -/
def State.loadFails (s : State) (c : Cmd) (p code d0 d1 : Nat) : State :=
  let s1 := if s.rd Reg.GLB_LOAD_ERR_VALID = 1 then s
    else ((s.wr Reg.GLB_LOAD_ERR_VALID 1).wr Reg.GLB_LOAD_ERR_PROG_ID p).wr Reg.GLB_LOAD_ERR_CODE code
  (s1.file .glb 0xFFFF code d0 d1).failCmd c (s.ackRing c) code d0 d1

/-- PROG_LOAD (R299, R301, R303): `image` is what the reads of the image returned.  It takes effect after the DONE of every
earlier load or unload of its PROG_ID; behind an unload in lehr it waits and runs when that ends. -/
def execProgLoad (jidx : Nat) (image : List Nat) (s : State) : Host.Outcome State Fault Refusal :=
  match s.running jidx 0x10 with
  | none => .next s
  | some c =>
    let p := slotParam c.slot % 32
    let older := (s.olderOn c p [0x10, 0x11]).map (·.jidx)
    let x := s.prog p
    if c.waiting = true ∨ image.length ≠ slotLength c.slot then .next s
    else
      match s.fetchedObj c with
      | (s1, false) => .next s1
      | (s1, true) =>
        if older.isEmpty then
          match s.progState p with
          | 0 => .next (s1.loadProg jidx p image)
          | 1 => .next s
          | k => .next (s1.loadFails c p 0x0509 p k)
        else if x.unloading.isSome ∧ older = x.unloading.toList ∧ s.progState p = 3 then
          .next ((s1.wr (Reg.GLB_PROG_STATUS_STATE p) 4).setProg p { x with pendLoad := some (jidx, image) })
        else .next s

/-- PROG_UNLOAD (R301, R302): the program is in lehr; an EMPTY PROG_ID ends it with a DONE carrying PROG_NONE. -/
def execProgUnload (jidx : Nat) (s : State) : Host.Outcome State Fault Refusal :=
  match s.running jidx 0x11 with
  | none => .next s
  | some c =>
    let p := slotParam c.slot % 32
    if c.waiting = true ∨ (s.olderOn c p [0x10, 0x11]).isEmpty = false then .next s
    else if s.progState p = 0 then .next ((s.file .glb 0xFFFF 0x050A).done c 0x050A)
    else if s.progState p = 2 then
      .next (((s.wr (Reg.GLB_PROG_STATUS_STATE p) 3).setProg p { s.prog p with unloading := some jidx }).updCmd jidx
        (fun c => { c with waiting := true }))
    else .next s

/-- Nothing runs or holds the program: no job, no bound stream, and no command accepted before the unload that names it. -/
def State.progFree (s : State) (c : Cmd) (p : Nat) : Bool :=
  s.jobs.all (fun j => j.prog != p) && s.rd (Reg.GLB_PROG_STATUS_BOUND p) == 0 &&
    (s.olderOn c p [0x21, 0x31, 0x32]).all (·.ended)

/-- PROG_UNLOAD_DRAIN_END (R302, R303, R390): the program is gone with its optimiser state, and a load that waits behind it runs. -/
def execProgUnloadDrainEnd (prog : Nat) (s : State) : Host.Outcome State Fault Refusal :=
  let x := s.prog prog
  match x.unloading with
  | none => .next s
  | some j =>
    match s.cmd? j with
    | none => .next s
    | some c =>
      if s.progFree c prog then
        let s1 := ((s.setProg prog {}).wr (Reg.GLB_PROG_STATUS_STATE prog) 0).wr (Reg.GLB_PROG_STATUS_LEVEL prog) 0
        let s2 : State := { s1.done c with
          shp := { s1.shp with seqs := s1.shp.seqs.filter (fun q => q.1.prog != prog) }
          hbm := { s1.hbm with badProgs := s1.hbm.badProgs.filter (fun q => q.1 != prog) } }
        match x.pendLoad with
        | some (k, image) => .next (s2.loadProg k prog image)
        | none => .next s2
      else .next s

/-- PROG_LOAD_END (R299, R304, R720). -/
def execProgLoadEnd (prog : Nat) (s : State) : Host.Outcome State Fault Refusal :=
  let x := s.prog prog
  match x.loading with
  | none => .next s
  | some (j, r, image) =>
    match s.cmd? j with
    | none => .next s
    | some c =>
      match r with
      | some (code, d0, d1) => .next (((s.setProg prog {}).wr (Reg.GLB_PROG_STATUS_STATE prog) 0).loadFails c prog code d0 d1)
      | none =>
        let s1 := ((s.setProg prog { x with loading := none }).wr (Reg.GLB_PROG_STATUS_STATE prog) 2).wr
          (Reg.GLB_PROG_STATUS_LEVEL prog) x.level
        .next ((s1.cfgExtend 2 image).done c)

end Sys2Proof.Machine
end

