-- ==== Sys2Proof/Machine/Stat.lean ====
section
/-! DEFINITION. STAT results on request (R48, R49, R71) and at the close of a stream (R184, R232, R272, R531). -/

set_option Elab.async false

namespace Sys2Proof.Machine

/-- The stream is open for a STAT_REQ: neither CLOSED nor in lehr on STREAM_CLOSE (R145, R184). -/
def State.streamOpen (s : State) (st : Nat) : Bool :=
  s.strm st != 0 && s.strm st != 3 && s.strm st != 4 && (s.stream st).closing.isNone

/-- Counter entries of one scope: (SCOPE, COUNTER_ID, VALUE) for `n` identifiers from `base` (R45). -/
def State.scopeEntries (s : State) (scope base n : Nat) : List (Nat × Nat × Nat) :=
  (List.range n).map (fun i => (scope, base + i, s.counter (base + i) scope))

/-- Counter entries of several scopes. -/
def State.scopesEntries (s : State) (scopes : List Nat) (base n : Nat) : List (Nat × Nat × Nat) :=
  scopes.flatMap (fun k => s.scopeEntries k base n)

/-- System-wide numbers of the streams that satisfy `p`. -/
def State.streamScopes (s : State) (p : Nat → Bool) : List Nat := ((List.range 128).filter p).map s.scope

/-- The entries of a STAT_KIND that a STAT_REQ can select (R71, R184, R232, R272, R357, R381, R434, R463, R531, R562, R593, R623, R654,
R677); none for any other value. -/
def State.statEntries (s : State) (kind : Nat) : List (Nat × Nat × Nat) :=
  let r := List.range
  match kind with
  | 0x0020 => s.scopesEntries (s.streamScopes s.streamOpen) 0x0200 10
  | 0x0030 => s.scopesEntries (s.streamScopes (fun st => s.streamOpen st && s.isLive st)) 0x0300 15
  | 0x0040 => s.scopesEntries (s.streamScopes s.streamOpen) 0x0400 5
  | 0x0060 => s.scopesEntries (r 4) 0x0600 7
  | 0x0070 => s.scopesEntries (r 64) 0x0700 6 ++ s.scopesEntries ((r 8).map (0x100 + ·)) 0x0700 3
  | 0x0080 => s.scopesEntries (r 64) 0x0800 5
  | 0x0090 => s.scopesEntries (r 64) 0x0900 6
  | 0x0098 => s.scopesEntries (r 64) 0x0980 5
  | 0x00A0 => s.scopesEntries (s.streamScopes (fun st => s.rd (Reg.SGS_STRM_STATE_STATE st) != 0)) 0x0A00 11 ++
      s.scopesEntries ((r 4).map (0x200 + ·)) 0x0A00 11
  | 0x00B0 => s.scopesEntries (r 6 ++ (r 2).map (0x10 + ·)) 0x0B00 8
  | 0x00C0 => s.scopesEntries (r 4) 0x0C00 7
  | 0x00D0 => s.scopesEntries (r 8 ++ (r 32).map (0x100 + ·)) 0x0D00 7
  | 0x00E0 => s.scopesEntries [0] 0x0E00 7
  | _ => []

/-- Entries in the order of R49. -/
def statOrder (l : List (Nat × Nat × Nat)) : List (Nat × Nat × Nat) :=
  sortBy (fun a b => decide (a.1 < b.1 ∨ (a.1 = b.1 ∧ a.2.1 ≤ b.2.1))) l

/-- STAT_REQ (R71): one STAT result on PRING_ACK, then the DONE. -/
def execStatReq (jidx : Nat) (s : State) : Host.Outcome State Fault Refusal :=
  match s.running jidx 0x40 with
  | none => .next s
  | some c =>
    let kind := slotParam c.slot % 2 ^ 16
    let ps := statPieces (cmdPn c 0x13 s.now) kind 0 false (statOrder (s.statEntries kind))
    .next ((ps.foldl (fun s p => s.sendTo (s.ackRing c) p) s).done c)

/-- The STAT pennants of a stream whose STREAM_CLOSE completes, on its ERR_PRING (R184, R232, R272, R531). -/
def State.closeStats (s : State) (st : Nat) : State :=
  let p : Pn := { ty := 0x13, stream := st, svc := match (s.stream st).bind with | some b => b.svc | none => 0, ct := s.now }
  let kinds := [(0x0020, 0x0200, 10)] ++ (if s.isLive st then [(0x0030, 0x0300, 15)] else []) ++
    [(0x0040, 0x0400, 5), (0x00A0, 0x0A00, 11)]
  kinds.foldl (fun s k =>
    (statPieces p k.1 0 false (s.scopeEntries (s.scope st) k.2.1 k.2.2)).foldl (fun s p => s.sendTo (s.errPring st) p) s) s

end Sys2Proof.Machine
end

