-- ==== Sys2Proof/Machine/Bind.lean ====
section
/-! DEFINITION. Binding and closing streams (R21, R145, R146, R151, R187, R488), and the commands that run job routes (R279, R305,
R382 to R384). -/

set_option Elab.async false

namespace Sys2Proof.Machine

/-! ### STREAM_BIND -/

/-- Fields of PARAM (R279). -/
def paramRoute (w : BitVec 512) : Nat := bitsOf (slotParam w) 0 4
def paramSvc (w : BitVec 512) : Nat := bitsOf (slotParam w) 16 2
def paramProg (w : BitVec 512) : Nat := bitsOf (slotParam w) 8 5

/-- The kind of the route that a command names: true for a stream route; none when the program has no such route (R276, R279). -/
def State.routeKind (s : State) (w : BitVec 512) : Option Bool :=
  (s.routeOf (paramProg w) (paramRoute w)).map (fun _ => isStreamRoute ((s.prog (paramProg w)).routeWords (paramRoute w)))

/-- A command of the programming model ends with a code (R309): recorded, then ERROR and DONE. -/
def State.failGlb (s : State) (c : Cmd) (code d0 d1 : Nat) : State :=
  (s.file .glb 0xFFFF code d0 d1).failCmd c (s.ackRing c) code d0 d1

/-- A binding becomes a stream's: frames from FRAME_SEQ `mark` on, which no node has seen, take it too (R21). -/
def State.rebind (s : State) (st mark : Nat) (b : Binding) : State :=
  let x := s.stream st
  let from_ := fun (n : Nat) => n == mark || seqBefore mark n
  let s1 := s.setStream st { x with bind := some b, frames := x.frames.map (fun f => if from_ f.seq then { f with bind := b } else f) }
  { s1 with jobs := s1.jobs.map (fun j => match j.kind with
    | .frame a n _ => if a == st && from_ n && !j.started then { j with prog := b.prog, route := b.route, svc := b.svc } else j
    | _ => j) }

/-- The binding takes effect (R21, R302, R488), or SGS refuses it and the earlier one stands.  A later one acts from the first frame on
whose FRAME_SEQ was assigned after the acceptance; the first one of a live stream that a recovery opened anew follows a gap (R132). -/
def State.bindStream (s : State) (c : Cmd) (st : Nat) : State :=
  let w := c.slot
  match s.sgsBind st (paramProg w) (paramRoute w) (paramSvc w) with
  | (s1, some (code, d0, d1)) => s1.failCmd c (s1.ackRing c) code d0 d1
  | (s1, none) =>
    let x := s1.stream st
    let b : Binding := { prog := paramProg w, route := paramRoute w, svc := paramSvc w }
    let s2 := match x.bind with
      | some _ => s1.rebind st c.mark b
      | none =>
        let s' := s1.setStream st { x with bind := some b }
        if c.replay && s1.isLive st then s'.gapBefore st b.prog b.route x.nextFrame else s'
    s2.progsNote.done c

/-- STREAM_BIND (R21, R151, R279, R302, R304, R488): in acceptance order behind the opens, binds and access units of its stream.  A
re-executed bind whose binding the stream context kept changes nothing (R131). -/
def execStreamBind (jidx : Nat) (s : State) : Host.Outcome State Fault Refusal :=
  match s.running jidx 0x21 with
  | none => .next s
  | some c =>
    let w := c.slot
    let st := slotStream w
    let x := s.stream st
    let p := paramProg w
    if s.earlierOf c [0x20, 0x21, 0x22, 0x30] = true then .next s
    else if s.strm st = 0 then .next (s.failDec c st x.failRing x.failCode x.failD0 x.failD1)
    else if c.replay = true ∧ x.bind = some { prog := p, route := paramRoute w, svc := paramSvc w } then .next (s.done c)
    else
      match s.progUse c p with
      | .wait => .next s
      | .gone => .next (s.failGlb c 0x050A p 0x21)
      | .use =>
        if s.routeKind w = some true then .next (s.bindStream c st)
        else .next (s.failGlb c 0x050B (slotParam w) 0x21)

/-! ### STREAM_CLOSE -/

/-- STREAM_CLOSE (R145, R257): once everything accepted before it for the stream has been handed to DEC, the stream is in lehr and its
batches close.  The close of a stream that never opened just ends. -/
def execStreamClose (jidx : Nat) (s : State) : Host.Outcome State Fault Refusal :=
  match s.running jidx 0x22 with
  | none => .next s
  | some c =>
    let st := slotStream c.slot
    let x := s.stream st
    if c.waiting = true ∨ s.earlierOf c [0x20, 0x21, 0x22, 0x30] = true then .next s
    else if s.strm st = 0 then .next (s.done c)
    else
      let s1 := s.setStream st { x with closing := some jidx, prior := 3 }
      let s2 := if s.strm st = 5 then s1 else s1.wr (Reg.DEC_STRM_STATE_STATE st) 3
      .next ((s2.closeStream st).updCmd jidx (fun c => { c with waiting := true, opened := x.openJidx }))

/-- Every picture accepted for the stream has passed through its route (R145). -/
def State.streamDrained (s : State) (st : Nat) : Bool :=
  (s.strm st == 3 || s.strm st == 4) && (s.stream st).frames.isEmpty &&
    (List.range 8).all (fun e => ((s.engine e).cur.toList ++ (s.engine e).chosen.toList).all (fun p => p.stream != st)) &&
    s.dec.pics.all (fun p => p.stream != st) &&
    s.jobs.all (fun j => match j.kind with | .frame a _ _ => a != st | _ => true)

/-- A live stream's flow is bound no more (R197). -/
def State.unbindFlow (s : State) (st : Nat) : State :=
  if s.isLive st then
    let f := kFlow (s.stream st).k
    (s.wr (Reg.NET_FLOW_STATUS_BOUND f) 0).wr (Reg.NET_FLOW_STATUS_STREAM f) 0
  else s

/-- The stream leaves every block, and its close ends (R145, R158, R160, R184, R197, R263, R302, R516, R572). -/
def State.closeEnds (s : State) (st : Nat) (c : Cmd) : State :=
  let x := s.stream st
  let s1 := ((s.freeRefs st).dropKept st).sgsRelease st
  let s2 := match x.ckpt with
    | some { buf := some b, .. } => s1.free1 6 b
    | _ => s1
  let s3 := ((s2.closeStats st).done c).unbindFlow st
  let s4 := (s3.setStream st { isOpen := x.isOpen }).progsNote
  ((s4.wr (Reg.DEC_STRM_STATE_STATE st) 0).setReg (Reg.DEC_STRM_DIMS st) 0).enginesNote

/-- STREAM_CLOSE_DRAIN_END (R145, R146): an open that waits runs once the close's DONE is posted. -/
def execStreamCloseDrainEnd (stream : Nat) (s : State) : Host.Outcome State Fault Refusal :=
  let x := s.stream stream
  match x.closing.bind s.cmd? with
  | none => .next s
  | some c =>
    if s.streamDrained stream = true then
      let s1 := s.closeEnds stream c
      match x.waitOpen with
      | some (i, contract) =>
        match s1.running i 0x20 with
        | some o => .next (s1.openStream o stream contract)
        | none => .next s1
      | none => .next s1
    else .next s

/-- DEC_MOVE_DONE (R187, R257, R259): the stream resumes on its new engine; beyond the limits of R144 the engine is over-committed. -/
def execDecMoveDone (stream : Nat) (s : State) : Host.Outcome State Fault Refusal :=
  let x := s.stream stream
  match x.movingTo with
  | none => .next s
  | some e =>
    if s.strm stream = 5 ∧ e < 8 then
      let old := s.strmEngine stream
      let s1 := (s.closeStream stream).setStream stream { x with movingTo := none }
      let s2 := (s1.wr (Reg.DEC_STRM_STATE_STATE stream) x.prior).wr (Reg.DEC_STRM_STATE_ENGINE stream) e
      let ovr := decide (enginePixMax < s2.enginePix e ∨ engineBitsMax < s2.engineBits e)
      let s3 := s2.enginesNote
      let s4 := if ovr then
          (s3.wr (Reg.DEC_STATUS_OVERCOMMIT e) 1).decErr stream 0x020B
        else s3
      .next (s4.movesDone old)
    else .next s

/-! ### JOB_RUN and ADAPT_RUN -/

/-- Operand entries of a parameter block (R305): host address and length, from byte `off` on. -/
def blockOperands (block : List Nat) (off n : Nat) : List Nat := (chunksOf 16 n ((block.drop off).take (16 * n))).map ofBytes

/-- The index of the first operand entry with a reserved bit set or a length of 0. -/
def badOperand (l : List Nat) : Option Nat :=
  l.findIdx? (fun v => decide (bitsOf v 0 32 ≠ 0 ∨ bitsOf v 32 32 = 0))

/-- DETAIL0 of JOB_PARAM when a block is invalid (R305, R309): 0xFFFF_FFFF for its header, else the operand; none when it is valid. -/
def blockBad (block : List Nat) (hdr length : Nat) (headerOk : Nat → Bool) : Option Nat :=
  let h := ofBytes (block.take hdr)
  let n := bitsOf h (8 * hdr - 8) 8
  if 64 < n ∨ length ≠ hdr + 16 * n ∨ headerOk h = false then some 0xFFFFFFFF
  else badOperand (blockOperands block hdr n)

/-- A job of a command: its operands, its COUNT and its name (R278, R288, R305, R306); its ticket is that of its acceptance (R544). -/
def State.cmdJob (s : State) (c : Cmd) (hdr count : Nat) (block : List Nat) (adapt : Option Nat) : State :=
  let w := c.slot
  let n := bitsOf (ofBytes (block.take hdr)) (8 * hdr - 8) 8
  let j : Job :=
    { id := 0, kind := .cmd c.jidx, prog := paramProg w, route := paramRoute w, svc := paramSvc w, ticket := 0, count := some count
      stream := slotStream w, jobId := slotJob w, pts := slotPts w, ct := c.ct, name := some (cmdName c)
      operands := (blockOperands block hdr n).map (fun v => (bitsOf v 64 64, bitsOf v 32 32)), adapt := adapt }
  let s1 := s.addJob j
  (s1.updJob s.nextJob (fun j => if c.replay then j else { j with ticket := c.mono / 40 % 2 ^ 32 })).updCmd c.jidx
    (fun c => { c with waiting := true })

/-- JOB_RUN (R279, R302, R304, R305, R386): `block` is what the read of the parameter block returned. -/
def execJobRun (jidx : Nat) (block : List Nat) (s : State) : Host.Outcome State Fault Refusal :=
  match s.running jidx 0x31 with
  | none => .next s
  | some c =>
    let w := c.slot
    let p := paramProg w
    if c.waiting = true ∨ block.length ≠ slotLength w then .next s
    else
      match s.fetchedObj c, s.progUse c p with
      | (s1, false), _ => .next s1
      | _, .wait => .next s
      | (s1, true), .gone => .next (s1.failGlb c 0x050A p 0x31)
      | (s1, true), .use =>
        let opt := ((s.prog p).routeWords (paramRoute w)).any (fun v => wOpc v == 0x4F)
        if s.routeKind w ≠ some false ∨ opt = true then .next (s1.failGlb c 0x050B (slotParam w) 0x31)
        else
          match blockBad block 64 (slotLength w) (fun h => bitsOf h 0 488 == 0) with
          | some d => .next (s1.failGlb c 0x050C d (slotLength w))
          | none => .next (s1.cmdJob c 64 (bitsOf (ofBytes (block.take 64)) 488 16) block none)

/-- FP32 codes at or above zero, and below one (R383). -/
def fp32NonNeg (v : Nat) : Bool := decide (bitsOf v 0 31 ≤ 0x7F800000 ∧ (bitsOf v 31 1 = 0 ∨ bitsOf v 0 31 = 0))
def fp32BelowOne (v : Nat) : Bool := fp32NonNeg v && decide (bitsOf v 0 31 < 0x3F800000)

/-- The fields of an adaptation block lie in their ranges (R383, R384); `ndev` is the number of devices joined on Ranlink. -/
def adaptOk (ndev h : Nat) : Bool :=
  let f := bitsOf h
  decide (1 ≤ f 984 16) && decide (1 ≤ f 980 4 ∧ f 980 4 ≤ 8) && f 978 2 != 3 && f 976 1 == 0 && f 0 784 == 0 &&
    fp32BelowOne (f 912 32) && fp32BelowOne (f 880 32) && fp32NonNeg (f 848 32) && f 848 31 != 0 && fp32NonNeg (f 816 32) &&
    !(f 978 2 == 1 && decide (3 ≤ f 980 4)) && decide (f 980 4 ≤ ndev)

/-- ADAPT_RUN (R382 to R384): `block` is what the read of the adaptation parameter block returned. -/
def execAdaptRun (jidx : Nat) (block : List Nat) (s : State) : Host.Outcome State Fault Refusal :=
  match s.running jidx 0x32 with
  | none => .next s
  | some c =>
    let w := c.slot
    let p := paramProg w
    if c.waiting = true ∨ block.length ≠ slotLength w then .next s
    else
      match s.fetchedObj c, s.progUse c p with
      | (s1, false), _ => .next s1
      | _, .wait => .next s
      | (s1, true), .gone => .next (s1.failGlb c 0x050A p 0x32)
      | (s1, true), .use =>
        if s.routeKind w ≠ some false then .next (s1.failGlb c 0x050B (slotParam w) 0x32)
        else if paramSvc w ≠ 3 then .next (s1.failGlb c 0x050C 0xFFFFFFFF (slotLength w))
        else
          match blockBad block 128 (slotLength w) (adaptOk s.reachable.length) with
          | some d => .next (s1.failGlb c 0x050C d (slotLength w))
          | none =>
            let h := ofBytes (block.take 128)
            .next (s1.cmdJob c 128 (bitsOf h 1000 16) block (some h))

end Sys2Proof.Machine
end

