-- ==== Sys2Proof/Machine/Hif.lean ====
section
/-! DEFINITION. The host endpoint: polling and taking of command slots (R72 to R86), acceptance (R113), the ring enables
(R102 to R107), MSI-X (R98 to R101), address translation (R63, R64) and the PCIe link (R50, R51). -/

set_option Elab.async false

namespace Sys2Proof.Machine

/-! ### Polling -/

/-- STATE of a command ring. -/
def State.cState (s : State) (c : Nat) : Nat := s.rd (Reg.HIF_CRING_STATUS_STATE c)

/-- POLL_FAST and POLL_SLOW as they act (R84). -/
def State.pollFast (s : State) (c : Nat) : Nat := max 1 (s.rd (Reg.HIF_CRING_POLL_POLL_FAST c))
def State.pollSlow (s : State) (c : Nat) : Nat := max (s.pollFast c) (max 1 (s.rd (Reg.HIF_CRING_POLL_POLL_SLOW c)))

/-- The expected tag (R72), and the tag that the next poll reads for: the one after a slot that waits for its acceptance, since that slot
is not read again (R83, R113). -/
def State.expTag (s : State) (c : Nat) : Nat := s.rd (Reg.HIF_CRING_NEXT_NEXT c)
def State.pollTag (s : State) (c : Nat) : Nat := if (s.cring c).wait.isSome then (s.expTag c + 1) % 2 ^ 32 else s.expTag c

/-- Host address of the slot that holds a tag (R72). -/
def State.tagAddr (s : State) (c tag : Nat) : Nat :=
  s.rd64 (Reg.HIF_CRING_BASE_LO c) (Reg.HIF_CRING_BASE_HI c) + 64 * s.slotIndex c tag

/-- Host address of the slot that holds the expected tag. -/
def State.slotAddr (s : State) (c : Nat) : Nat := s.tagAddr c (s.expTag c)

/-- A ring that may issue its next poll read (R83, R113, R114, R699). -/
def State.pollable (s : State) (c : Nat) : Bool :=
  let r := s.cring c
  !s.held && decide (c < 16) && decide (s.cState c = 1 ∨ s.cState c = 2) && !r.polling && r.torn.isNone

/-- The due ring that goes first: from the rotating pointer on (R86). -/
def rotFirst (p n : Nat) (l : List Nat) : Option Nat := minBy? (fun c => (c + n - p) % n) l

/-- COMMAND_RING_POLL (R83, R86): one due ring's read is issued, or its translation asked for (R63). -/
def execCommandRingPoll (due : List Nat) (s : State) : Host.Outcome State Fault Refusal :=
  let l := due.filter s.pollable
  match rotFirst s.hif.rrPoll 16 l with
  | none => .next s
  | some c =>
    let s1 := if 2 ≤ l.length then { s with hif := { s.hif with rrPoll := (c + 1) % 16 } } else s
    let a := s1.tagAddr c (s1.pollTag c)
    let pages := s1.untranslated false (pagesOf a 64)
    if !pages.isEmpty then .next (s1.askXlate pages)
    else .next ((s1.setCring c { s1.cring c with polling := true }).post (.pollRead c (s1.slotIndex c (s1.pollTag c)) (s1.tlp a)))

/-! ### The checks of a taken slot -/

/-- The lowest byte of a masked slot that is not 0. -/
def firstByte : Nat → Nat → Nat → Option Nat
  | 0, _, _ => none
  | n + 1, i, x => if x % 256 ≠ 0 then some i else firstByte n (i + 1) (x / 256)

/-- Reserved fields of R68. -/
def slotRsvdMask : Nat := packBits [(398, 18, 2 ^ 18 - 1), (55, 9, 2 ^ 9 - 1), (43, 5, 31)]

/-- Reserved bits of PARAM in the layout of R279. -/
def paramRsvd : List (Nat × Nat × Nat) := [(96 + 18, 14, 2 ^ 14 - 1), (96 + 13, 3, 7), (96 + 4, 4, 15)]

/-- Fields that an opcode requires to be 0 (R77). -/
def slotZeroMask (op : Nat) : Nat :=
  let param := (96, 32, 2 ^ 32 - 1)
  let arg1 := (224, 32, 2 ^ 32 - 1)
  let arg2 := (416, 64, 2 ^ 64 - 1)
  let hostTs := if op = 0x30 then [] else [(40, 1, 1)]
  packBits (hostTs ++
    (if op = 0x20 ∨ op = 0x22 ∨ op = 0x30 then [param, arg1, arg2]
     else if op = 0x21 ∨ op = 0x31 then paramRsvd ++ [arg1, arg2]
     else if op = 0x32 then paramRsvd
     else if op = 0x10 ∨ op = 0x11 then [(101, 27, 2 ^ 27 - 1), arg1, arg2]
     else []))

/-- The opcodes of R69. -/
def opcodes : List Nat := [0x01, 0x02, 0x10, 0x11, 0x20, 0x21, 0x22, 0x30, 0x31, 0x32, 0x40]

/-- The contract that a slot of the stream is held to: none while an accepted STREAM_OPEN of it has not ended, whose contract is not
known yet; what is taken then is held to it by AU_SUBMIT itself (R77, R146, R147; log entry 15). -/
def State.knownContract (s : State) (st : Nat) : Option (BitVec 512) :=
  if s.jrnl.cmds.any (fun c => slotOpcode c.slot == 0x20 && slotStream c.slot == st && !c.ended) then none else (s.stream st).contract

/-- AU_MAX of a stream's contract, when it is known (R141, R147). -/
def State.auMax (s : State) (st : Nat) : Nat :=
  match s.knownContract st with
  | some k => bitsOf k.toNat 320 32
  | none => 2 ^ 32 - 1

/-- SRC of a stream's contract is 0, or the contract is not known yet (R77). -/
def State.srcHost (s : State) (st : Nat) : Bool :=
  match s.knownContract st with
  | some k => bitsOf k.toNat 224 2 == 0
  | none => true

/-- The STREAM_ID check (R77). -/
def State.streamCheck (s : State) (op st : Nat) : Bool :=
  if op = 0x20 then !(s.stream st).isOpen
  else if op = 0x21 ∨ op = 0x22 then (s.stream st).isOpen
  else if op = 0x30 then (s.stream st).isOpen && s.srcHost st
  else true

/-- The limit of LENGTH of an opcode that uses ADDR (R69, R141, R147, R300, R305, R382). -/
def State.lenLimit (s : State) (op st : Nat) : Option Nat :=
  if op = 0x10 then some (2 ^ 32 - 1) else if op = 0x20 then some 64 else if op = 0x30 then some (s.auMax st)
  else if op = 0x31 then some 1088 else if op = 0x32 then some 1152 else none

/-- The first failed check of R77, in its order: code, DETAIL0, DETAIL1 (R108). -/
def State.slotCheck (s : State) (w : BitVec 512) : Option (Nat × Nat × Nat) :=
  let op := slotOpcode w
  let st := slotStream w
  let len := slotLength w
  match firstByte 64 0 (w.toNat &&& slotRsvdMask) with
  | some b => some (0x0101, b, 0)
  | none =>
    if !(opcodes.contains op) then some (0x0102, op, 0)
    else
      match firstByte 64 0 (w.toNat &&& slotZeroMask op) with
      | some b => some (0x0101, b, 0)
      | none =>
        if s.streamCheck op st = false then some (0x0103, st, op)
        else
          match s.lenLimit op st with
          | some lim => if len = 0 ∨ lim < len then some (0x0104, len, lim) else none
          | none => none

/-! ### Taking a slot -/

/-- A slot was taken or refused, or cannot be taken yet: the interval is POLL_FAST, and the next read follows at once (R83, R114). -/
def State.busyRing (s : State) (c : Nat) : State :=
  let s1 := if s.cState c = 2 then s.wr (Reg.HIF_CRING_STATUS_STATE c) 1 else s
  let s2 := s1.wr (Reg.HIF_CRING_STATUS_INTERVAL c) (s1.pollFast c)
  s2.setCring c { s2.cring c with polling := false, torn := none, idleUs := 0, atOnce := true }

/-- The expected tag advances past a slot (R72). -/
def State.advanceTag (s : State) (c : Nat) : State := s.wr (Reg.HIF_CRING_NEXT_NEXT c) (s.expTag c + 1)

/-- A slot is refused (R77, R79): the code is recorded, the ERROR goes to PRING_ACK and the expected tag advances. -/
def State.refuse (s : State) (c : Nat) (w : BitVec 512) (code d0 d1 : Nat) : State :=
  let tag := s.expTag c
  let idx := s.slotIndex c tag
  let s1 := (s.setErr (Reg.HIF_CRING_ERR c) false (0, 0, 0) code).hifErr code c (s.slotAddr c) d0 d1
  let s2 := s1.sendTo (s1.rd (Reg.HIF_CRING_CFG_PRING_ACK c))
    { ty := 0x12, stream := slotPnStream w, job := slotJob w, ct := s1.now, err := code, key := .refusal c, ticket := s1.ticketNow,
      body := errBody (some (tag, idx, c)) d0 d1 }
  (s2.busyRing c).advanceTag c

/-- A slot with a good TAG and TAG_ECHO (R73): it stays untaken while no journal entry is free (R114); else it is
checked, and it is refused or waits for its acceptance (R77, R113). -/
def State.takeSlot (s : State) (c : Nat) (w : BitVec 512) : State :=
  if s.entryFree = false then s.busyRing c
  else
    match s.slotCheck w with
    | some (code, d0, d1) => s.wakeUp.refuse c w code d0 d1
    | none =>
      let s1 := s.wakeUp.busyRing c
      s1.setCring c { s1.cring c with wait := some { slot := w } }

/-- An empty poll (R83): the interval stays POLL_FAST while the ring has been empty for less than IDLE_AFTER, then it
doubles up to POLL_SLOW.  A read that followed a taken slot at once adds no interval to the time the ring has been empty. -/
def State.emptyPoll (s : State) (c : Nat) : State :=
  let r := s.cring c
  let idle := r.idleUs + (if r.atOnce then 0 else s.rd (Reg.HIF_CRING_STATUS_INTERVAL c))
  let iv := if idle < s.rd (Reg.HIF_CRING_IDLE_IDLE_AFTER c) then s.pollFast c
    else min (s.pollSlow c) (2 * max (s.pollFast c) (s.rd (Reg.HIF_CRING_STATUS_INTERVAL c)))
  let s1 := (s.wr (Reg.HIF_CRING_STATUS_INTERVAL c) iv).setCring c
    { r with polling := false, torn := none, idleUs := idle, atOnce := false }
  if s1.cState c = 1 ∨ s1.cState c = 2 then
    s1.wr (Reg.HIF_CRING_STATUS_STATE c) (if s1.pollFast c < iv then 2 else 1)
  else s1

/-- What a read of the expected slot found, with the re-reads made before it (R73, R74).  While a slot waits for its acceptance no further
one is taken, and the interval stays at POLL_FAST (R113, R114). -/
def State.slotRead (s : State) (c : Nat) (w : BitVec 512) (rereads : Nat) : State :=
  if (s.cring c).wait.isSome then s.busyRing c
  else if slotTag w ≠ s.expTag c then s.emptyPoll c
  else if slotEcho w = slotTag w then s.takeSlot c w
  else if 4 ≤ rereads then s.refuse c w 0x0105 (slotTag w) (slotEcho w)
  else s.setCring c { s.cring c with polling := false, torn := some rereads }

/-- SLOT_READ_COMPLETION (R73). -/
def execSlotReadCompletion (ring : Nat) (slot : BitVec 512) (s : State) : Host.Outcome State Fault Refusal :=
  if (s.cring ring).polling = true then .next (s.slotRead ring slot 0) else .next s

/-- SLOT_REREAD (R74): one of up to 4 re-reads of a torn slot. -/
def execSlotReread (ring : Nat) (slot : BitVec 512) (s : State) : Host.Outcome State Fault Refusal :=
  match (s.cring ring).torn with
  | some n => .next (s.slotRead ring slot (n + 1))
  | none => .next s

/-! ### Acceptance -/

/-- A refusing ERROR of a command ring waits on a pennant ring, so no later ACCEPT may pass it (R79). -/
def State.refusalWaits (s : State) (c m : Nat) : Bool := (s.pring m).ready.any (fun p => p.key == .refusal c)

/-- The emit log has room for one more record (R113, R123). -/
def State.logRoom (s : State) : Bool := !s.jInUse || s.logFree

/-- The stream counts as open from the acceptance of STREAM_OPEN to that of STREAM_CLOSE (R77). -/
def State.noteOpen (s : State) (w : BitVec 512) : State :=
  let st := slotStream w
  if slotOpcode w = 0x20 then s.setStream st { s.stream st with isOpen := true }
  else if slotOpcode w = 0x22 then s.setStream st { s.stream st with isOpen := false }
  else s

/-- The slot is accepted: its ACCEPT takes the next RING_SEQ of ring `m`, the entry is written ACCEPTED, then the emit
record and the ACCEPT header are posted (R78, R113, R118, R119). -/
def State.accept (s : State) (c m : Nat) (w : BitVec 512) : State :=
  let j := s.jrnl.nextIdx
  let idx := s.slotIndex c (slotTag w)
  let cmd : Cmd := { jidx := j, slot := w, ring := c, slotIdx := idx, ct := s.now, mono := s.time.mono,
                     mark := if slotOpcode w = 0x21 then (s.stream (slotStream w)).nextFrame else 0 }
  let e : Entry := { st := .accepted, jidx := j, slot := w, ring := c, slotIdx := idx, acceptSeq := s.ringSeq m }
  let s1 := s.putEntry e
  let s2 := { s1 with jrnl := { s1.jrnl with cmds := s1.jrnl.cmds ++ [cmd], nextIdx := (j + 1) % 2 ^ 32 } }
  let p : Pn := { cmdPn cmd 0x10 cmd.ct with
    body := packBits [(96, 32, slotTag w), (64, 32, j), (48, 16, idx), (44, 4, c)] }
  let s3 := s2.writePn m p false
  let s4 := ((s3.noteOpen w).bump (Reg.HIF_CRING_ACCEPTED_COUNT c)).advanceTag c
  s4.setCring c { s4.cring c with wait := none, idleUs := 0, atOnce := true }

/-- Translations that an acceptance still needs: the block of the ACCEPT, its journal entry and its emit record, and the consumer record
when the check of R93 reads it (R63). -/
def State.acceptXlate (s : State) (m : Nat) : List Nat :=
  s.untranslated true (s.blockPages m 1 ++ pagesOf (s.entryAddr (s.jrnl.nextIdx % s.jSize)) 128 ++
      (if s.jInUse then pagesOf (s.logAddr s.jrnl.logPos) 16 else [])) ++
    (if s.consNeeded m 1 then s.untranslated false (pagesOf (s.consAddr m) 8) else [])

/-- A waiting slot of a ring may be accepted: the ring is in use, the journal is reachable with an entry and a record free, and the
PRING_ACK ring is ACTIVE, has its next RING_SEQ, and neither stands between the pieces of a split result nor holds a refusal of the
ring (R28, R79, R102, R113). -/
def State.mayAccept (s : State) (c m : Nat) : Bool :=
  decide (1 ≤ s.cState c ∧ s.cState c ≤ 4) && s.jrnl.reachable && s.entryFree && s.logRoom &&
    s.rd (Reg.HIF_PRING_STATUS_STATE m) == 1 && s.ringSeq m != 0 && (s.pring m).mid.isNone && !s.refusalWaits c m

/-- SLOT_ACCEPT (R113): the waiting slot is accepted once a journal entry and an emit record are free and the PRING_ACK
ring is ACTIVE with room. -/
def execSlotAccept (ring consumed : Nat) (s : State) : Host.Outcome State Fault Refusal :=
  match (s.cring ring).wait with
  | none => .next s
  | some w =>
    let m := s.rd (Reg.HIF_CRING_CFG_PRING_ACK ring)
    if s.mayAccept ring m = false then .next s
    else if !(s.acceptXlate m).isEmpty then .next (s.askXlate (s.acceptXlate m))
    else
      match s.room m 1 consumed with
      | .room s1 => .next (s1.accept ring m w.slot)
      | .full s1 => .next s1
      | .halted s1 => .next s1

/-- NOP (R69). -/
def execNop (jidx : Nat) (s : State) : Host.Outcome State Fault Refusal :=
  match s.running jidx 0x01 with
  | some c => .next (s.done c)
  | none => .next s

/-- FENCE (R69, R81): its DONE follows the DONE or ERROR of every earlier accepted command of its ring. -/
def execFence (jidx : Nat) (s : State) : Host.Outcome State Fault Refusal :=
  match s.running jidx 0x02 with
  | some c =>
    if s.jrnl.cmds.any (fun d => d.ring == c.ring && seqBefore d.jidx c.jidx) then .next s else .next (s.done c)
  | none => .next s

/-! ### Enables -/

/-- A configuration field written with `v`: it is stored while the owner is DISABLED; otherwise it must carry its current
value (R104, R116).  The second part says whether a new value was discarded. -/
def State.cfgField (s : State) (writable : Bool) (f : RegField) (w : BitVec 32) : State × Bool :=
  let v := bitsOf w.toNat f.lo f.w
  if writable then (s.wr f v, false) else (s, decide (s.rd f ≠ v))

/-- Write the configuration fields of one register; a discarded value records RING_CFG in HIF_ERR (R104).  DETAIL0, the register's
offset, is its offset in BAR0, as HIF_ERR_ADDR holds it: R108 does not say from where it is counted (DESIGN CHOICE, log entry 12). -/
def State.cfgWrite (s : State) (writable : Bool) (fs : List RegField) (w : BitVec 32) (ring addr : Nat) : State :=
  let r := fs.foldl (fun (x : State × Bool) f =>
    let y := x.1.cfgField writable f w
    (y.1, x.2 || y.2)) (s, false)
  if r.2 then r.1.hifErr 0x010A ring addr addr w.toNat else r.1

/-- The configuration fields of HIF_CRING_CFG. -/
def State.cringCfg (s : State) (c : Nat) (w : BitVec 32) : State :=
  s.cfgWrite (decide (s.cState c = 0)) [Reg.HIF_CRING_CFG_PRING_ACK c, Reg.HIF_CRING_CFG_LOG2_SLOTS c] w c
    (Reg.HIF_CRING_CFG c)

/-- The enable of a command ring from DISABLED is good (R76, R106, R107, R115, R116). -/
def State.cringOk (s : State) (c : Nat) : Bool :=
  let l := s.rd (Reg.HIF_CRING_CFG_LOG2_SLOTS c)
  let q := s.rd (Reg.HIF_CRING_SEQ0_SEQ0 c)
  decide (s.rd Reg.HIF_JRNL_CFG_ENABLE = 1 ∧ s.rd Reg.HIF_JRNL_CFG_DRAINING = 0 ∧ 4 ≤ l ∧ l ≤ 16 ∧ 1 ≤ q ∧
    q + 2 ^ l ≤ 2 ^ 32)

/-- A command ring starts polling at its expected tag (R104). -/
def State.cringStart (s : State) (c : Nat) : State :=
  let s1 := (s.wr (Reg.HIF_CRING_CFG_ENABLE c) 1).wr (Reg.HIF_CRING_STATUS_STATE c) 1
  (s1.wr (Reg.HIF_CRING_STATUS_INTERVAL c) (s1.pollFast c)).setCring c {}

/-- CRING_ENABLE (R102 to R107): HIF_CRING_CFG written with ENABLE 1. -/
def execCringEnable (ring : Nat) (w : BitVec 32) (s : State) : Host.Outcome State Fault Refusal := s.bar (Reg.HIF_CRING_CFG ring) fun s =>
  let s1 := s.cringCfg ring w
  let st := s1.cState ring
  if st = 0 then
    if s1.cringOk ring = true then .next (s1.cringStart ring)
    else .next (s1.hifErr 0x010A ring (Reg.HIF_CRING_CFG ring) (Reg.HIF_CRING_CFG ring) w.toNat)
  else if st = 3 then
    .next ((s1.wr (Reg.HIF_CRING_CFG_ENABLE ring) 1).wr (Reg.HIF_CRING_STATUS_STATE ring) 4)
  else .next s1

/-- CRING_DISABLE (R102, R103): ENABLE 0; a halted ring becomes DISABLED. -/
def execCringDisable (ring : Nat) (w : BitVec 32) (s : State) : Host.Outcome State Fault Refusal := s.bar (Reg.HIF_CRING_CFG ring) fun s =>
  let s1 := s.cringCfg ring w
  let st := s1.cState ring
  let s2 := s1.wr (Reg.HIF_CRING_CFG_ENABLE ring) 0
  if st = 1 ∨ st = 2 ∨ st = 4 then .next (s2.wr (Reg.HIF_CRING_STATUS_STATE ring) 3)
  else if st = 5 then .next (s2.wr (Reg.HIF_CRING_STATUS_STATE ring) 0)
  else .next s2

/-- A command ring has no slot in progress. -/
def State.cringQuiet (s : State) (c : Nat) : Bool :=
  !(s.cring c).polling && (s.cring c).torn.isNone && (s.cring c).wait.isNone

/-- CRING_LEHR_END (R103): DISABLED, or straight to ACTIVE with a latched enable. -/
def execCringLehrEnd (ring : Nat) (s : State) : Host.Outcome State Fault Refusal :=
  if s.cringQuiet ring = true then
    if s.cState ring = 3 then
      .next ((s.wr (Reg.HIF_CRING_STATUS_STATE ring) 0).wr (Reg.HIF_CRING_STATUS_INTERVAL ring) 0)
    else if s.cState ring = 4 then .next (s.cringStart ring)
    else .next s
  else .next s

/-- STATE of a pennant ring. -/
def State.pState (s : State) (m : Nat) : Nat := s.rd (Reg.HIF_PRING_STATUS_STATE m)

/-- The configuration fields of HIF_PRING_CFG. -/
def State.pringCfg (s : State) (m : Nat) (w : BitVec 32) : State :=
  s.cfgWrite (decide (s.pState m = 0)) [Reg.HIF_PRING_CFG_VECTOR m, Reg.HIF_PRING_CFG_LOG2_BLOCKS m] w (64 + m)
    (Reg.HIF_PRING_CFG m)

/-- A pennant ring becomes ACTIVE: every CONSUMED read before is forgotten (R95). -/
def State.pringUp (s : State) (m : Nat) : State :=
  ((s.wr (Reg.HIF_PRING_CFG_ENABLE m) 1).wr (Reg.HIF_PRING_STATUS_STATE m) 1).setPring m
    { s.pring m with cons := none, stalled := none, logStall := false }

/-- A DISABLED pennant ring is enabled.  When the first CONSUMED is read is not said: the model reads it at the enable, when its address is
translated, and otherwise at the first check of R93, as after LEHR_PENDING_ENABLE (R95; DESIGN CHOICE, log entry 12). -/
def State.pringStart (s : State) (m consumed : Nat) : State :=
  let s1 := s.pringUp m
  let pages := s1.untranslated false (pagesOf (s1.consAddr m) 8)
  if !pages.isEmpty then s1.askXlate pages
  else
    let s2 := s1.post (.consRead m (s1.tlp (s1.consAddr m)))
    if s2.consBad m consumed = true then s2.haltPring m 0x0109 (s2.consAddr m) consumed (s2.produced m)
    else s2.setPring m { s2.pring m with cons := some consumed }

/-- PRING_ENABLE (R102 to R107): HIF_PRING_CFG written with ENABLE 1. -/
def execPringEnable (ring : Nat) (w : BitVec 32) (consumed : Nat) (s : State) : Host.Outcome State Fault Refusal := s.bar (Reg.HIF_PRING_CFG ring) fun s =>
  let s1 := s.pringCfg ring w
  let st := s1.pState ring
  let l := s1.rd (Reg.HIF_PRING_CFG_LOG2_BLOCKS ring)
  if st = 0 then
    if 6 ≤ l ∧ l ≤ 20 ∧ s1.ringSeq ring ≠ 0 then .next (s1.pringStart ring consumed)
    else .next (s1.hifErr 0x010A (64 + ring) (Reg.HIF_PRING_CFG ring) (Reg.HIF_PRING_CFG ring) w.toNat)
  else if st = 3 then
    .next ((s1.wr (Reg.HIF_PRING_CFG_ENABLE ring) 1).wr (Reg.HIF_PRING_STATUS_STATE ring) 4)
  else .next s1

/-- PRING_DISABLE (R96, R102): ENABLE 0. -/
def execPringDisable (ring : Nat) (w : BitVec 32) (s : State) : Host.Outcome State Fault Refusal := s.bar (Reg.HIF_PRING_CFG ring) fun s =>
  let s1 := s.pringCfg ring w
  let st := s1.pState ring
  let s2 := s1.wr (Reg.HIF_PRING_CFG_ENABLE ring) 0
  if st = 1 ∨ st = 4 then .next (s2.wr (Reg.HIF_PRING_STATUS_STATE ring) 3)
  else if st = 5 then .next (s2.wr (Reg.HIF_PRING_STATUS_STATE ring) 0)
  else .next s2

/-- PRING_LEHR_END (R103): a pennant is written whole by one command, so the ring has none in progress. -/
def execPringLehrEnd (ring : Nat) (s : State) : Host.Outcome State Fault Refusal :=
  if s.pState ring = 3 then .next (s.wr (Reg.HIF_PRING_STATUS_STATE ring) 0)
  else if s.pState ring = 4 then .next (s.pringUp ring)
  else .next s

/-- HIF_CRING_SEQ0_WRITE (R104): while DISABLED it also loads HIF_CRING_NEXT. -/
def execHifCringSeq0Write (ring : Nat) (w : BitVec 32) (s : State) : Host.Outcome State Fault Refusal := s.bar (Reg.HIF_CRING_SEQ0 ring) fun s =>
  let s1 := s.cfgWrite (decide (s.cState ring = 0)) [Reg.HIF_CRING_SEQ0_SEQ0 ring] w ring (Reg.HIF_CRING_SEQ0 ring)
  if s.cState ring = 0 then .next (s1.setReg (Reg.HIF_CRING_NEXT ring) w) else .next s1

/-! ### MSI-X -/

/-- MSIX_TIMER_EXPIRY (R99). -/
def execMsixTimerExpiry (ring : Nat) (s : State) : Host.Outcome State Fault Refusal :=
  if (s.pring ring).timer = true ∧ 0 < (s.pring ring).unann then
    .next (s.message (s.rd (Reg.HIF_PRING_CFG_VECTOR ring)))
  else .next s

/-- The message of a vector's table entry (R98). -/
def State.msixOut (s : State) (v : Nat) : Out :=
  .msix v (s.rd64 (Reg.MSIX_ADDR_LO v) (Reg.MSIX_ADDR_HI v)) (s.reg (Reg.MSIX_DATA v))

/-- MSIX_VECTOR_UNMASK (R101): exactly one message is sent for a set PBA bit, which clears. -/
def execMsixVectorUnmask (vector : Nat) (s : State) : Host.Outcome State Fault Refusal := s.bar (Reg.MSIX_CTRL vector) fun s =>
  let c := (s.reg (Reg.MSIX_CTRL vector)).toNat
  let s1 := s.setReg (Reg.MSIX_CTRL vector) (BitVec.ofNat 32 (putBits c 0 1 0))
  let a := Reg.MSIX_PBA (vector / 32)
  let pba := (s1.reg a).toNat
  if bitsOf pba (vector % 32) 1 = 1 then
    .next ((s1.setReg a (BitVec.ofNat 32 (putBits pba (vector % 32) 1 0))).post (s1.msixOut vector))
  else .next s1

/-! ### Address translation -/

/-- Does an invalidation cover a page (R64)? -/
def covers (page npages p : Nat) : Bool := decide (page ≤ p ∧ p < page + npages)

/-- ATS_INVALIDATE_REQUEST (R64): matching entries are no longer used, and a matching translation in flight is void. -/
def execAtsInvalidateRequest (tag page npages : Nat) (s : State) : Host.Outcome State Fault Refusal :=
  if s.hif.invals.length < 32 then
    .next { s with hif := { s.hif with
      atc := s.hif.atc.filter (fun e => !covers page npages e.page)
      xlateVoid := s.hif.xlateVoid ++ s.hif.xlate.filter (fun p => covers page npages p && !s.hif.xlateVoid.contains p)
      invals := s.hif.invals ++ [{ tag := tag, page := page, npages := npages }] } }
  else .next s

/-- A request that is outstanding uses an address of some pages: a poll of a slot, the re-reads of a torn one, or a read of a command's
data (R64).  Reads of consumer records, and posted writes, are over with the command that makes them. -/
def State.usesPages (s : State) (page npages : Nat) : Bool :=
  (List.range 16).any (fun c => ((s.cring c).polling || (s.cring c).torn.isSome) && covers page npages (s.tagAddr c (s.pollTag c) / 4096)) ||
    s.jrnl.cmds.any (fun c => c.reads.any (fun r => r.2.2.isEmpty && (pagesOf r.1 r.2.1).any (covers page npages)))

/-- INVALIDATE_COMPLETION (R64): sent once no outstanding request uses the invalidated entries. -/
def execInvalidateCompletion (tag : Nat) (s : State) : Host.Outcome State Fault Refusal :=
  match s.hif.invals.find? (fun i => i.tag == tag) with
  | none => .next s
  | some i =>
    if s.atsOn && s.usesPages i.page i.npages then .next s
    else
      .next (({ s with hif := { s.hif with invals := s.hif.invals.filter (fun x => x.tag != tag) } }.setReg
        Reg.HIF_ATS_INVAL (s.reg Reg.HIF_ATS_INVAL + 1)).post (.invalDone tag))

/-! ### The PCIe link -/

/-- The widest width the healthy lanes support, from lane 0 up or, reversed, from lane 15 down (R50, R51). -/
def pcieWidth (bad : List Nat) : Nat :=
  match [16, 8, 4, 1].find? (fun w =>
      (List.range w).all (fun i => !bad.contains i) || (List.range w).all (fun i => !bad.contains (15 - i))) with
  | some w => w
  | none => 0

/-- PCIE_LANE_FAILURE (R51): the link retrains to the widest width of the remaining lanes; with none it is down. -/
def execPcieLaneFailure (lane : Nat) (s : State) : Host.Outcome State Fault Refusal :=
  if lane < 16 ∧ !(s.hif.lanesBad.contains lane) = true then
    let s1 := { s with hif := { s.hif with lanesBad := s.hif.lanesBad ++ [lane] } }
    if s1.rd Reg.HIF_STATUS_LINK_UP = 1 then
      let w := min (s1.rd Reg.HIF_STATUS_LINK_WIDTH) (pcieWidth s1.hif.lanesBad)
      let s2 := s1.wr Reg.HIF_STATUS_LINK_WIDTH w
      if w = 0 then .next ((s2.wr Reg.HIF_STATUS_LINK_UP 0).wr Reg.HIF_STATUS_LINK_SPEED 0) else .next s2
    else .next s1
  else .next s

/-- PCIE_LINK_UP (R50): training completes at a speed and width the endpoint supports. -/
def execPcieLinkUp (speed width : Nat) (s : State) : Host.Outcome State Fault Refusal :=
  if s.pwr.pwrGood = true ∧ s.pwr.perstN = true ∧ 1 ≤ speed ∧ speed ≤ 5 ∧ [16, 8, 4, 1].contains width = true ∧
      width ≤ pcieWidth s.hif.lanesBad then
    .next (((s.wr Reg.HIF_STATUS_LINK_UP 1).wr Reg.HIF_STATUS_LINK_SPEED speed).wr Reg.HIF_STATUS_LINK_WIDTH width)
  else .next s

end Sys2Proof.Machine
end

