-- ==== Sys2Proof/Machine/Sched.lean ====
section
/-! DEFINITION. Pre-emption, saved contexts, whole-device saves, class guards and the two-level arbiters (chapter 14). -/

set_option Elab.async false

namespace Sys2Proof.Machine

/-- Record a code of class 0x06 with its WHERE and the number it is filed under (R563, R565). -/
def State.schedErr (s : State) (code wh inst : Nat) : State :=
  (s.setErr Reg.SCHED_ERR true (16, 7, wh) code).file .sched inst code

/-! ### Pre-emption (R550 to R553) -/

/-- A ready tile job of a class that finds no free core: its first one in the order of R539, no core being on its way to it.  A tile
job whose hold lies on a core or in a context waits for that. -/
def State.stuckTile (s : State) (svc : Nat) : Option TileJob :=
  if s.rd (Reg.SCHED_CLS_CFG_STATE svc) ≠ 1 then none
  else firstTile s.ticketNow (s.sched.ready.filter (fun t => t.svc == svc && (s.placeOn t).isNone && !s.holdAway t && (s.groupCore t).isNone &&
    (List.range 64).all (fun c => (s.core c).wants != some t)))

/-- The youngest ticket among the tile jobs a core runs. -/
def State.youngest (s : State) (c : Nat) : Option Nat :=
  (s.core c).runs.foldl (fun (a : Option Nat) r => match a with
    | none => some r.tj.ticket
    | some t => if olderTicket s.ticketNow t r.tj.ticket then some r.tj.ticket else some t) none

/-- Core `a` goes before `b` as a victim: higher class, then the younger ticket, then the higher number (R550). -/
def State.victimBefore (s : State) (a b : Nat) : Bool :=
  let ca := (s.core a).cls.getD 0
  let cb := (s.core b).cls.getD 0
  if ca ≠ cb then decide (cb < ca)
  else
    match s.youngest a, s.youngest b with
    | some ta, some tb =>
      if olderTicket s.ticketNow tb ta then true else if olderTicket s.ticketNow ta tb then false else decide (b < a)
    | _, _ => decide (b < a)

/-- The victim of a pre-emption by class `c` (R550, R551): a core that issues a tile job of a higher class number. -/
def State.victim (s : State) (c : Nat) : Option Nat :=
  let ok := fun (k : Nat) =>
    match (s.core k).cls with
    | some d => decide (s.coreState k < 2) && !(s.core k).runs.isEmpty && decide (c < d) &&
        (decide (s.entitled d < s.coresHeld d) || decide (s.coresHeld c < s.entitled c))
    | none => false
  ((List.range 64).filter ok).foldl (fun (a : Option Nat) k => match a with
    | none => some k
    | some b => if s.victimBefore k b then some k else some b) none

/-- The class takes a core from a lower one for its tile job (R550 to R553); without a save area the pre-emption is cancelled and
the class decides again later. -/
def State.preempt (s : State) (svc : Nat) : State :=
  if s.sched.saving then s
  else
    match s.stuckTile svc with
    | none => s
    | some t =>
      match s.victim svc with
      | none => s
      | some c =>
        let d := (s.core c).cls.getD 0
        match s.drawCtx c with
        | (s1, some k) =>
          let s2 := (s1.cnt 0x0601 d).bump (Reg.SCHED_CLS_PREEMPTS_COUNT d)
          ((s2.enterLehr c 2 k (some t)).stopEnd c).note c
        | (s1, none) =>
          let s2 := (s1.schedErr 0x0602 c c).cnt 0x0606 d
          { s2 with sched := { s2.sched with retry := svc :: s2.sched.retry } }

/-- PREEMPTION_DECISION (R550). -/
def execPreemptionDecision (svc : Nat) (s : State) : Host.Outcome State Fault Refusal :=
  if s.sched.retry.contains svc then .next s else .next (s.preempt svc)

/-- SAVE_AREA_RETRY (R553): 1,024 LCLK cycles after a cancelled pre-emption the class decides again. -/
def execSaveAreaRetry (svc : Nat) (s : State) : Host.Outcome State Fault Refusal :=
  if s.sched.retry.contains svc then
    .next (({ s with sched := { s.sched with retry := s.sched.retry.filter (fun c => c != svc) } } : State).preempt svc)
  else .next s

/-! ### Contexts (R553 to R556) -/

/-- Take resident outputs off a core. -/
def State.unseat (s : State) (c : Nat) (l : List (Nat × Nat × Nat × Nat)) : State :=
  l.foldl (fun s q => s.updNode q.1 q.2.1 (fun x => { x with
    on := x.on.filter (fun p => !(p.1 == q.2.2.1 && p.2.1 == q.2.2.2 && p.2.2 == c)) })) s

/-- Put resident outputs on a core. -/
def State.seat (s : State) (c : Nat) (l : List (Nat × Nat × Nat × Nat)) : State :=
  l.foldl (fun s q => s.updNode q.1 q.2.1 (fun x => { x with on := x.on ++ [(q.2.2.1, q.2.2.2, c)] })) s

/-- The save sum of a block row: its raw patterns added modulo 2^32 (R349). -/
def saveSum (row : List Nat) : Nat := sumNat row % 2 ^ 32

/-- The rows of a hold's accumulator blocks: of a CHAIN row block O in the first half, m and l in lanes 0 and 1 of the second, as of its last
committed step (R456, R458); of a row group in hold mode the running statistics of its rows, whose places the spec does not give: free
values from number `free` on. -/
def State.holdRows (s : State) (h : Hold) (free : Nat) : List (List Nat) :=
  match s.job? h.job with
  | none => []
  | some j =>
    match (j.node h.node).grid, s.coreWord j h.node with
    | some g, some w =>
      if wOpc w = 0x48 then
        let d := s.coreDesc j h.node w
        let n := match (j.node h.node).steps.find? (fun q => q.1 == h.group) with | some q => q.2 | none => 0
        let st := (blockRows w d g h.group).map (fun r => (chainAfter w d g.m (j.srcs w) r n).getD { o := [] })
        let half := 16 * cdiv g.tm 16
        padTo half [] (st.map (·.o)) ++ padTo half [] (st.map (fun x => [x.m, x.l]))
      else (List.range (16 * h.blocks)).map (fun r => (List.range 8).map (fun k => (Config.freeValue (free + 8 * r + k)).toNat))
    | _, _ => []

/-- The blocks of some holds as they are saved, each with its sums (R349). -/
def State.saveBlocks (s : State) (l : List Hold) : List SavedBlock :=
  let free := fun (i : Nat) => s.free + 128 * sumNat ((l.take i).map (·.blocks))
  l.zipIdx.flatMap (fun q => (chunksOf 16 (16 * q.1.blocks) (s.holdRows q.1 (free q.2))).map (fun r => { rows := r, sums := r.map saveSum }))

/-- LCLK cycles of a save (R554): `entry` bytes at LEHR entry, `tail` bytes that the finishing tile adds, which commits at `commit`. -/
def saveCycles (entry tail commit : Nat) : Nat := max (16 + 1024 + cdiv entry 128) commit + cdiv tail 128 + 256

/-- CONTEXT_SAVE_DONE (R552, R554): the finishing tiles have committed, and the context is closed; the last of them committed `commit` LCLK
cycles after the tile job that causes the pre-emption became ready, 0 when none finished. -/
def execContextSaveDone (core commit : Nat) (s : State) : Host.Outcome State Fault Refusal :=
  let x := s.core core
  match x.saving with
  | none => .next s
  | some k =>
    if x.runs.isEmpty then
      let alive := fun (id : Nat) => (s.job? id).isSome
      let res := s.residentTiles core
      let k2 : SavedCtx := { k with holds := x.holds, scaleSlots := x.scaleSlots, tags := x.tags
                                    unfinished := k.unfinished.filter (fun t => alive t.job), resident := res
                                    blocks := s.saveBlocks x.holds }
      let cycles := saveCycles k.entry (s.ctxBytes core - k.entry) commit
      let empty := k2.holds.isEmpty && k2.tags.isEmpty && k2.unfinished.isEmpty && k2.resident.isEmpty
      let s1 := ({ s with free := s.free + 128 * sumNat (x.holds.map (·.blocks)) } : State).setCore core
        { x with saving := none, holds := [], tags := [], scaleSlots := [] }
      let s2 := s1.unseat core res
      let s3 : State := if empty then s2.free1 7 k.area
        else { s2 with sched := { s2.sched with saved := s2.sched.saved ++ [k2] } }
      let s4 := (s3.cnt 0x0602 k.svc).bump (Reg.CORE_SCHED_SAVES_COUNT core)
      let s5 := if s4.rd (Reg.CORE_SCHED_SAVE_MAX_CYCLES core) < cycles then s4.wr (Reg.CORE_SCHED_SAVE_MAX_CYCLES core) cycles else s4
      .next ((s5.stopEnd core).note core)
    else .next s

/-- A context comes back on a core (R556, R558): its save area returns, parked responses are delivered, and its unfinished tile jobs
hold their scoreboard entries there. -/
def State.restoreCtx (s : State) (k : SavedCtx) (core : Nat) : State :=
  let x := s.core core
  let parked := (k.tags.filter (·.parked)).length
  let tags := k.tags.map (fun q => if q.parked then { q with arrived := true, parked := false } else q)
  let s1 : State := { s with sched := { s.sched with saved := s.sched.saved.erase k } }
  let s2 := ((s1.free1 7 k.area).setCore core { x with holds := x.holds ++ k.holds, scaleSlots := x.scaleSlots ++ k.scaleSlots
                                                       tags := x.tags ++ tags, placed := x.placed ++ k.unfinished
                                                       cls := some k.svc }).seat core k.resident
  let s3 := if parked = 0 then s2 else s2.cnt 0x0604 k.svc parked
  (s3.cnt 0x0603 k.svc).bump (Reg.CORE_SCHED_RESTORES_COUNT core)

/-- The jobs that a context holds parts of. -/
def SavedCtx.jobs (k : SavedCtx) : List Nat :=
  (k.holds.map (·.job) ++ k.tags.map (fun q => q.tj.job) ++ k.unfinished.map (·.job) ++ k.resident.map (·.1)).eraseDups

/-- The save sums of a context hold as its blocks are read back, `flip` upsetting bits of one pattern (R349). -/
def SavedCtx.sumsHold (k : SavedCtx) (block row lane flip : Nat) : Bool :=
  k.blocks.zipIdx.all (fun q => q.1.rows.zipIdx.all (fun r =>
    let back := if q.2 = block ∧ r.2 = row then (padTo 256 0 r.1).set lane ((r.1.getD lane 0) ^^^ flip) else r.1
    saveSum back == q.1.sums.getD r.2 0))

/-- A context fails its check on restore (R349, R556): recorded, and its jobs run again from their journal entries. -/
def State.ctxFails (s : State) (k : SavedCtx) (core : Nat) (sums : Bool) : State :=
  let s1 : State := { s with sched := { s.sched with saved := s.sched.saved.erase k } }
  let s2 := s1.free1 7 k.area
  let s3 := if sums then s2.coreErr core 0x0804 false else s2.schedErr 0x0603 core core
  k.jobs.foldl State.rerunJob s3

/-- CONTEXT_RESTORE (R349, R556): the save sums are formed again as the blocks are read back, in which `flip` is what an upset turned in one
pattern; `bad` says that another part of the context fails its check. -/
def execContextRestore (core block row lane : Nat) (flip : BitVec 32) (bad : Bool) (s : State) : Host.Outcome State Fault Refusal :=
  if s.sched.saving then .next s
  else
    match s.classNext with
    | none => .next s
    | some svc =>
      match s.nextCtx svc with
      | none => .next s
      | some k =>
        if s.ctxFits k core then
          let sums := k.sumsHold block row lane flip.toNat
          .next ((if sums && !bad then s.restoreCtx k core else s.ctxFails k core (!sums)).note core)
        else .next s

/-! ### Whole-device save (R559, R560) -/

/-- SAVE_ALL (R559): the command rings pass to LEHR, no job starts, and every core, station and engine stops. -/
def State.saveAll (s : State) : State :=
  if s.rd Reg.SCHED_STATUS_SAVED_ALL = 1 ∨ s.sched.saving = true then s
  else
    let rings := (List.range 16).filter (fun c => (s.cState c == 1 || s.cState c == 2))
    let s1 : State := { s.wr Reg.SCHED_CTRL_SAVE_ALL 1 with sched := { s.sched with saving := true, savedRings := rings } }
    let s2 := rings.foldl (fun s c => s.wr (Reg.HIF_CRING_STATUS_STATE c) 3) s1
    let s3 := (List.range 4).foldl (fun s k => s.dropOps k [1, 3]) s2
    (List.range 64).foldl (fun s c =>
      let x := s.core c
      match s.coreState c with
      | 0 => s.stopCore c 4
      | 1 => s.stopCore c 4
      | 2 => if x.lehr = 2 then s.setCore c { x with lehr := 4, wants := none, saving := x.saving.map (fun (k : SavedCtx) => { k with whole := true }) } else s
      | _ => s) s3

/-- SAVE_ALL: SCHED_CTRL.SAVE_ALL written 1. -/
def execSaveAll (s : State) : Host.Outcome State Fault Refusal := s.bar Reg.SCHED_CTRL fun s => .next s.saveAll

/-- Every core has stopped and its context is written. -/
def State.allStopped (s : State) : Bool :=
  (List.range 64).all (fun c => let x := s.core c; x.runs.isEmpty && x.saving.isNone)

/-- The whole device is saved: SAVED_ALL reads 1 (R559). -/
def State.saveAllDone (s : State) : State :=
  if s.sched.saving = true ∧ s.allStopped = true ∧ s.rd Reg.SCHED_STATUS_SAVED_ALL = 0 then
    (s.wr Reg.SCHED_STATUS_SAVED_ALL 1).wr Reg.SCHED_CTRL_SAVE_ALL 0
  else s

/-- RESUME_ALL (R560): discarded while SAVED_ALL is 0. -/
def State.resumeAll (s : State) : State :=
  if s.rd Reg.SCHED_STATUS_SAVED_ALL = 1 ∧ s.sched.resuming = false then
    { s.wr Reg.SCHED_CTRL_RESUME_ALL 1 with sched := { s.sched with resuming := true } }
  else s

/-- RESUME_ALL: SCHED_CTRL.RESUME_ALL written 1. -/
def execResumeAll (s : State) : Host.Outcome State Fault Refusal := s.bar Reg.SCHED_CTRL fun s => .next s.resumeAll

/-- A core that SAVE_ALL stopped returns: OFFLINE when its OFFLINE register asks for it, else IDLE (R351, R560). -/
def State.coreResumes (s : State) (c : Nat) : State :=
  let x := s.core c
  if x.lehr = 4 ∧ s.coreState c = 2 then
    (s.setCore c { x with lehr := 0, wants := none }).wr (Reg.CORE_LRW_STATUS_STATE c)
      (if s.rd (Reg.CORE_LRW_CTRL_OFFLINE c) = 1 then 4 else 0)
  else s

/-- A ring that SAVE_ALL put in LEHR is enabled again (R560). -/
def State.ringResumes (s : State) (c : Nat) : State :=
  let st := s.cState c
  if (st = 0 ∨ st = 3) ∧ s.rd (Reg.HIF_CRING_CFG_ENABLE c) = 1 then s.cringStart c else s

/-- The restore completes: contexts that SAVE_ALL wrote are back on their cores, and its rings are enabled again (R560). -/
def State.resumeDone (s : State) : State :=
  if s.sched.resuming then
    let rings := s.sched.savedRings
    let s1 : State := { (s.wr Reg.SCHED_CTRL_RESUME_ALL 0).wr Reg.SCHED_STATUS_SAVED_ALL 0 with
      sched := { s.sched with saving := false, resuming := false, savedRings := [] } }
    let s2 := (List.range 64).foldl State.coreResumes s1
    let back := s2.sched.saved.filter (fun k => k.whole && decide (s2.coreState k.core < 2))
    let s3 := back.foldl (fun s k => s.restoreCtx k k.core) s2
    let s4 := (List.range 64).foldl State.coreNote (rings.foldl State.ringResumes s3)
    s4.schedNote
  else s

/-! ### Guards (R543) and class lehr (R561) -/

/-- No two of some masks share a bit, and none is 0. -/
def disjoint4 (l : List Nat) : Bool :=
  l.all (fun x => x != 0) && l.zipIdx.all (fun a => l.zipIdx.all (fun b => a.2 == b.2 || a.1 &&& b.1 == 0))

/-- The staged guards (R543). -/
def State.staged (s : State) : List Guards :=
  (List.range 4).map (fun n =>
    { share := s.rd (Reg.SCHED_CLS_CFG_SHARE n), ways := s.rd (Reg.SCHED_CLS_WAYS_WAYS n)
      pch := s.rd64 (Reg.SCHED_CLS_PCH_LO n) (Reg.SCHED_CLS_PCH_HI n) })

/-- The class whose mask holds a way. -/
def wayClass (l : List Guards) (w : Nat) : Option Nat := (List.range l.length).find? (fun c => bitsOf (l.getD c ⟨0, 0, 0⟩).ways w 1 == 1)

/-- SCHED_CLS_COMMIT (R543, R588): the staged guards apply at once, or none does. -/
def execSchedClsCommit (s : State) : Host.Outcome State Fault Refusal := s.bar Reg.SCHED_CLS_COMMIT fun s =>
  let new := s.staged
  let ok := new.all (fun g => decide (1 ≤ g.share) && decide (g.share ≤ 16)) && sumNat (new.map (·.share)) == 16 &&
    disjoint4 (new.map (·.ways)) && disjoint4 (new.map (·.pch))
  if ok then
    let old := (List.range 4).map s.guard
    let moved := (List.range 16).filter (fun w => (wayClass old w).isSome && (wayClass new w).isSome && wayClass old w != wayClass new w)
    let s1 : State := { s.wr Reg.SCHED_CLS_COMMIT_FAILED 0 with sched := { s.sched with guards := some new } }
    let s2 := (List.range 4).foldl (fun s n => s.wr (Reg.SCHED_CLS_CORES_ENTITLED n) (s.entitled n)) s1
    .next ((List.range 8).foldl (fun s k =>
      let b := s.stationBuf k
      let mv := moved.map (fun w => (w, 3072)) ++ b.moving.filter (fun q => !moved.contains q.1)
      (s.setStationBuf k { b with moving := mv }).sbNote k) s2)
  else .next ((s.wr Reg.SCHED_CLS_COMMIT_FAILED 1).schedErr 0x0601 127 0xFFFF)

/-- The core issues tile jobs of a class. -/
def State.issues (s : State) (svc c : Nat) : Bool := (s.core c).runs.any (fun r => r.tj.svc == svc)

/-- A class enters lehr (R561): cores issuing its tile jobs stop, and its placed tile jobs return to their queue. -/
def State.classOff (s : State) (svc : Nat) : State :=
  (List.range 64).foldl (fun s c =>
    if s.coreState c < 2 then
      if s.issues svc c then (s.stopCore c 3)
      else
        let x := s.core c
        let l := x.placed.filter (fun t => t.svc == svc)
        if l.isEmpty then s
        else ((s.setCore c { x with placed := x.placed.filter (fun t => t.svc != svc) }).requeue l).coreNote c
    else s) s |>.schedNote

/-- CLASS_ENABLE (R543, R561): SCHED_CLS_CFG is written; SHARE is staged. -/
def execClassEnable (svc : Nat) (w : BitVec 32) (s : State) : Host.Outcome State Fault Refusal := s.bar (Reg.SCHED_CLS_CFG svc) fun s =>
  let en := bitsOf w.toNat 31 1
  let st := s.rd (Reg.SCHED_CLS_CFG_STATE svc)
  let s1 := (s.wr (Reg.SCHED_CLS_CFG_SHARE svc) (bitsOf w.toNat 0 5)).wr (Reg.SCHED_CLS_CFG_ENABLE svc) en
  if svc < 4 then
    match en, st with
    | 0, 1 => .next ((s1.wr (Reg.SCHED_CLS_CFG_STATE svc) 2).classOff svc)
    | 0, 3 => .next (s1.wr (Reg.SCHED_CLS_CFG_STATE svc) 2)
    | 1, 0 => .next (s1.wr (Reg.SCHED_CLS_CFG_STATE svc) 1)
    | 1, 2 => .next (s1.wr (Reg.SCHED_CLS_CFG_STATE svc) 3)
    | _, _ => .next s1
  else .next s

/-- CLASS_LEHR_END (R561): every core that stopped for the class is IDLE. -/
def execClassLehrEnd (svc : Nat) (s : State) : Host.Outcome State Fault Refusal :=
  let busy := (List.range 64).any (fun c => s.issues svc c ||
    ((s.core c).cls == some svc && decide ((s.core c).lehr = 3) && decide (s.coreState c = 2 ∨ s.coreState c = 3)))
  if busy then .next s
  else
    match s.rd (Reg.SCHED_CLS_CFG_STATE svc) with
    | 2 => .next (s.wr (Reg.SCHED_CLS_CFG_STATE svc) 0)
    | 3 => .next (s.wr (Reg.SCHED_CLS_CFG_STATE svc) 1)
    | _ => .next s

/-! ### Starvation (R563) -/

/-- STARVE_CHECK: a ready tile job of the class has waited beyond STARVE_MS; it is recorded once per tile job. -/
def execStarveCheck (svc : Nat) (s : State) : Host.Outcome State Fault Refusal :=
  let ms := s.rd Reg.SCHED_STARVE_STARVE_MS
  let late := fun (t : TileJob) => t.svc == svc && !t.starved && decide (ms * 10 ^ 6 < s.time.mono - t.since)
  if ms ≠ 0 ∧ s.sched.ready.any late = true then
    let s1 : State := { s with sched := { s.sched with ready := s.sched.ready.map (fun t => if late t then { t with starved := true } else t) } }
    .next (s1.schedErr 0x0604 (64 + svc) svc)
  else .next s

/-- MAXWAIT_CLEAR: SCHED_CLS_MAXWAIT.CLEAR written 1. -/
def execMaxwaitClear (svc : Nat) (s : State) : Host.Outcome State Fault Refusal := s.bar (Reg.SCHED_CLS_MAXWAIT svc) fun s =>
  .next (s.wr (Reg.SCHED_CLS_MAXWAIT_US svc) 0)

/-! ### Two-level arbiters (R546, R547) -/

/-- The pointer of R546 over some port numbers: the first after the last winner, else the lowest. -/
def afterPtr (last : Option Nat) (l : List Nat) : Option Nat :=
  let low := fun (l : List Nat) => minBy? (fun p => p) l
  match last with
  | none => low l
  | some p =>
    match low (l.filter (fun q => decide (p < q))) with
    | some q => some q
    | none => low l

/-- Who is served among some inputs with tickets and pass counts: those passed WINDOW times, else the oldest tickets; ties by the
pointer.  The answer tells whether the window forced it and whether it was a tie. -/
def pickInput (now win : Nat) (last : Option Nat) (l : List (Nat × Nat × Nat)) : Option (Nat × Bool × Bool) :=
  let forced := l.filter (fun q => decide (win ≤ q.2.2))
  let pool := if forced.isEmpty then l.filter (fun q => l.all (fun r => !olderTicket now r.2.1 q.2.1)) else forced
  (afterPtr last (pool.map (·.1))).map (fun p => (p, !forced.isEmpty, decide (1 < pool.length)))

/-- FABRIC_REQUEST_GRANT (R547): among the requests at the port heads, each leaf nominates one and the top level grants one. -/
def execFabricRequestGrant (heads : List FabHead) (s : State) : Host.Outcome State Fault Refusal :=
  let a := s.sched.arb
  let win := max 1 (s.rd Reg.SCHED_ARB_WINDOW)
  let hc := fun (leaf port : Nat) => match a.heads.find? (fun q => q.1 == leaf && q.2.1 == port) with | some q => q.2.2 | none => 0
  let tc := fun (leaf : Nat) => match a.tops.find? (fun q => q.1 == leaf) with | some q => q.2 | none => 0
  let ptr := fun (leaf : Nat) => (a.rrLeaf.find? (fun q => q.1 == leaf)).map (·.2)
  let leaves := (heads.map (·.leaf)).eraseDups
  let noms : List (Nat × FabHead × Bool × Bool) := leaves.filterMap (fun f =>
    let mine := heads.filter (fun h => h.leaf == f)
    match pickInput s.ticketNow win (ptr f) (mine.map (fun h => (h.port, h.ticket, hc f h.port))) with
    | none => none
    | some (p, forced, tie) => (mine.find? (fun h => h.port == p)).map (fun h => (f, h, forced, tie)))
  match pickInput s.ticketNow win a.rrTop (noms.map (fun q => (q.1, q.2.1.ticket, tc q.1))) with
  | none => .next s
  | some (f, forced, tie) =>
    match noms.find? (fun q => q.1 == f) with
    | none => .next s
    | some (_, h, lf, lt) =>
      let hs := (heads.filter (fun q => q.leaf == f && q.port != h.port)).map (fun q => (f, q.port, hc f q.port + 1))
      let ts := (leaves.filter (fun k => k != f)).map (fun k => (k, tc k + 1))
      let new : Arb :=
        { heads := hs ++ a.heads.filter (fun q => q.1 != f)
          tops := ts
          rrLeaf := if lt then (f, h.port) :: a.rrLeaf.filter (fun q => q.1 != f) else a.rrLeaf
          rrTop := if tie then some f else a.rrTop }
      let s1 : State := { s with sched := { s.sched with arb := new } }
      let s2 := if forced || lf then s1.cnt 0x0605 h.svc else s1
      .next (s2.post (Out.grant f h.port h.ticket))

end Sys2Proof.Machine
end

