-- ==== Sys2Proof/Machine/Mem.lean ====
section
/-! DEFINITION. The fence of a unit (R661 to R665) and on-chip memories (R587 to R592). -/

set_option Elab.async false

namespace Sys2Proof.Machine

/-! ### The fence of a unit -/

/-- A DEC engine is isolated (R187, R663): nothing it writes is kept, and its streams move. -/
def State.fenceEngine (s : State) (e : Nat) : State :=
  let g := s.engine e
  let s1 := (s.setEngine e { g with cur := none, chosen := none }).wr (Reg.DEC_STATUS_CUR_VALID e) 0
  let s2 := match g.chosen with | some p => s1.undoPic p | none => s1
  let s3 := match g.cur with | some p => s2.undoPic p | none => s2
  let s4 := (s3.setEngineSt e 5).wr (Reg.HLTH_FENCE_UNIT_DEC) (s3.rd Reg.HLTH_FENCE_UNIT_DEC ||| 2 ^ e)
  (s4.beginMoves e).enginesNote

/-- STATE of a unit reads FENCED: kind 0 a core, 1 a DEC engine, 2 a station (R678). -/
def State.isFenced (s : State) (kind unit : Nat) : Bool :=
  match kind with
  | 0 => s.coreState unit == 5
  | 1 => s.engineSt unit == 5
  | _ => s.stationSt unit == 5

/-- The unit is fenced for a cause, unless it already is (R661 to R664); `own` says that the cause's code writes an ERROR pennant of
its own. -/
def State.fenceUnit (s : State) (kind unit code : Nat) (own : Bool) : State :=
  if s.isFenced kind unit then s
  else
    match kind with
    | 0 => (s.fenceCore unit).fenceFiled 0 unit code own
    | 1 => (s.fenceEngine unit).fenceFiled 1 unit code own
    | _ => ((s.fenceStation unit).wr Reg.HLTH_FENCE_UNIT_SGS (s.rd Reg.HLTH_FENCE_UNIT_SGS ||| 2 ^ unit)).fenceFiled 2 unit code own

/-! ### Station buffers (R587, R588) -/

/-- SB_PINNED_ALLOC (R587): the lines of a plan entry or an SGS list of a job; the allocation waits while too few unpinned lines
remain. -/
def execSbPinnedAlloc (cluster svc bytes job : Nat) (s : State) : Host.Outcome State Fault Refusal :=
  if (s.job? job).isSome then .next ((s.pin cluster svc bytes (.job job)).getD s) else .next s

/-- The line accesses of an access (R589): line and byte in it, of each of its bytes; one that crosses a boundary takes two, in consecutive
cycles. -/
def pieceOf (a : PortAccess) (line : Nat) : List (Nat × Nat) :=
  (a.data.zipIdx.filter (fun q => (a.addr + q.2) / 64 == line)).map (fun q => ((a.addr + q.2) % 64, q.1))

/-- What the ports write to a byte of a line in one cycle, the lowest port first (R590). -/
def writesOf (acc : List PortAccess) (line b : Nat) : List (Nat × Nat) :=
  (List.range 12).flatMap (fun p => (acc.filter (fun a => a.write && a.port == p)).flatMap (fun a =>
    ((pieceOf a line).filter (fun q => q.1 == b)).map (fun q => (p, q.2))))

/-- A line after a cycle's accesses (R590): a store writes only the bytes it addresses, and the lower port number wins a byte. -/
def lineAfter (acc : List PortAccess) (line : Nat) (old : List Nat) : List Nat :=
  (List.range 64).map (fun b => match writesOf acc line b with | q :: _ => q.2 | [] => old.getD b 0)

/-- Two ports write one byte of the line in the same cycle (R590). -/
def lineConflict (acc : List PortAccess) (line : Nat) : Bool :=
  (List.range 64).any (fun b => decide (1 < ((writesOf acc line b).map (·.1)).eraseDups.length))

/-- A cycle of accesses to a line of a station buffer (R590): each read answers the new data merged with the old bytes, and a conflict of two
writers is counted, once a cycle of the line (DESIGN CHOICE, log entry 67). -/
def State.lineCycle (s : State) (cluster line : Nat) (acc : List PortAccess) (old : List Nat) : State × List Nat :=
  let new := lineAfter acc line old
  let s1 := if lineConflict acc line then s.bump Reg.MEM_WW_CONFLICTS_COUNT else s
  let reads := (acc.filter (fun a => !a.write && !(pieceOf a line).isEmpty)).map (fun a =>
    Out.lineRead cluster a.port ((pieceOf a line).map (fun q => new.getD q.1 0)))
  (reads.foldl State.post s1, new)

/-- WAY_LINE_PASS (R588): one line of a moving way is written back and invalidated; pinned lines of other classes stay until they are
released.  `old` are the line's bytes and `acc` the accesses of the ports in the cycle that reads it out (R590); an empty `old` is a clean
line, of which nothing is written back. -/
def execWayLinePass (cluster way line : Nat) (old : List Nat) (acc : List PortAccess) (s : State) : Host.Outcome State Fault Refusal :=
  let b := s.stationBuf cluster
  match b.moving.find? (fun q => q.1 == way) with
  | none => .next s
  | some q =>
    let new := wayClass ((List.range 4).map s.guard) way
    let stuck := b.linesIn (fun p => some p.svc != new) way
    if stuck < q.2 then
      let rest := b.moving.filter (fun x => x.1 != way)
      let r := s.lineCycle cluster line acc old
      let s1 := if old.isEmpty && !(acc.any (fun a => a.write && !(pieceOf a line).isEmpty)) then r.1 else r.1.post (.lineBack cluster line r.2)
      .next ((s1.setStationBuf cluster { b with moving := if q.2 ≤ 1 then rest else (way, q.2 - 1) :: rest }).sbNote cluster)
    else .next s

/-! ### Errors of on-chip memories (R591, R592, R661, R725) -/

/-- Times of a unit's errors inside the last second, this one included. -/
def State.unitError (s : State) (kind unit : Nat) : State × Nat :=
  let k := kind * 64 + unit
  let l := s.time.mono :: (tget (fun _ => []) s.hlth.unitErrs k).filter (fun t => decide (s.time.mono - t ≤ 10 ^ 9))
  ({ s with hlth := { s.hlth with unitErrs := tset (fun _ => []) s.hlth.unitErrs k l } }, l.length)

/-- An uncorrectable error of a core's tile store or accumulators: the tile runs elsewhere; a repeat fences the core. -/
def State.coreMemError (s : State) (c : Nat) : State :=
  if s.hlth.coreErr.contains c then s.fenceUnit 0 c 0x0D07 true
  else
    let s1 : State := { s with hlth := { s.hlth with coreErr := c :: s.hlth.coreErr } }
    match (s1.core c).runs with
    | [] => s1
    | r :: _ => ((s1.moveTile c r).stopEnd c).note c

/-- The engine's picture is decoded again from its stream's frame checkpoint. -/
def State.redoPic (s : State) (e : Nat) : State :=
  let g := s.engine e
  match g.cur with
  | none => s
  | some p => (s.reshape p.stream p.frame.seq).setEngine e
      { g with cur := some { p with cells := [], pix := { p.pix with toPlanes := {} }, held := ([], {}), rowsDone := 0, rowsPassed := 0, rowCycle := 0 } }

/-- The secure SRAM loses the key: SEC derives it again (R725). -/
def State.keyLost (s : State) : State :=
  let s1 := ((s.setErr Reg.SEC_ERR true (0, 0, 0) 0x0F0B).file .sec 0xFFFF 0x0F0B).wr Reg.SEC_STATUS_KEY_READY 0
  { s1 with sec := { s1.sec with key := none, reDeriving := !s1.sec.tampered && (s1.sec.key.isSome || s1.sec.reDeriving) } }

/-- ON_CHIP_ECC_ERROR (R591): memory kinds in the order of R586: 0 tile store, 1 accumulators, 2 station buffer, 3 decoder cache,
4 track store, 5 secure SRAM, 6 descriptor and free-ring caches.  `owner` is the job of a dirty or pinned line of a station
buffer, none for a clean one. -/
def execOnChipEccError (kind inst line : Nat) (owner : Option Nat) (correctable : Bool) (s : State) :
    Host.Outcome State Fault Refusal :=
  if correctable then .next (s.bump Reg.MEM_ECC_CORR_COUNT)
  else
    let d0 := kind * 2 ^ 16 + inst % 2 ^ 16
    let s1 := (s.bump Reg.MEM_ECC_UNCORR_COUNT).setErr Reg.MEM_ERR true (0, 0, 0) 0x0D07
    let s2 := (s1.file .mem inst 0x0D07 d0 line).devError 0x0D07 d0 line
    match kind with
    | 0 => .next (s2.coreMemError inst)
    | 1 => .next (s2.coreMemError inst)
    | 2 => match owner with
      | some j => .next (s2.rerunJob j)
      | none => .next s2
    | 3 =>
      match s2.unitError 1 inst with
      | (s3, n) => .next (if 3 ≤ n then s3.fenceUnit 1 inst 0x0D07 true else s3.redoPic inst)
    | 4 =>
      match s2.unitError 2 inst with
      | (s3, n) => .next (if 2 ≤ n then s3.fenceUnit 2 inst 0x0D07 true else s3)
    | 5 => .next s2.keyLost
    | _ => .next s2

/-- A wipe of the secure SRAM starts (R592); during a wipe the trigger is only recorded. -/
def State.startWipe (s : State) (cause : Nat) : State :=
  if s.rd Reg.MEM_SECURE_STATUS_WIPING = 1 then s.wr Reg.MEM_SECURE_STATUS_LAST_CAUSE cause
  else
    let s1 := (s.wr Reg.MEM_SECURE_STATUS_WIPING 1).wr Reg.MEM_SECURE_STATUS_LAST_CAUSE cause
    { s1 with sec := { s1.sec with key := none } }

/-- SECURE_SRAM_WIPE_DONE (R592). -/
def execSecureSramWipeDone (s : State) : Host.Outcome State Fault Refusal :=
  if s.rd Reg.MEM_SECURE_STATUS_WIPING = 1 then
    let s1 := (s.wr Reg.MEM_SECURE_STATUS_WIPING 0).bump Reg.MEM_SECURE_STATUS_WIPES
    .next { s1 with sec := { s1.sec with key := none } }
  else .next s

end Sys2Proof.Machine
end

