-- ==== Sys2Proof/Machine/Hbm.lean ====
section
/-! DEFINITION. The HBM controller (R597 to R626): request order, refresh and temperature, training, error correction and poison,
and the retirement of ranks. -/

set_option Elab.async false

namespace Sys2Proof.Machine

/-- Record a code of class 0x0B with its place in HBM_ERR: 0 to 5 a rank, 16 and 17 a stack, 32 to 55 a port, 63 none (R624, R626). -/
def State.hbmErr (s : State) (wh code : Nat) (d0 d1 : Nat := 0) : State :=
  (s.setErr Reg.HBM_ERR true (16, 6, wh) code).file .hbm wh code d0 d1

def State.pchan (s : State) (p : Nat) : PChan := tget (fun _ => {}) s.hbm.chans p
def State.setPchan (s : State) (p : Nat) (x : PChan) : State :=
  { s with hbm := { s.hbm with chans := tset (fun _ => {}) s.hbm.chans p x } }

/-! ### Requests (R602 to R605) -/

/-- Urgency of a request of an age in ns under a target (R603). -/
def urgencyOf (target age : Nat) : Nat :=
  if target = 0 ∨ 2 * age < target then 0 else if 4 * age < 3 * target then 1 else if age < target then 2 else 3

/-- A request of a rank reaches urgency 3 (R603, R623, R624). -/
def State.urgent3 (s : State) (rank port : Nat) : State := (s.cnt 0x0B06 rank).bump (Reg.HBM_PORT_URG3_COUNT port)

/-- A port grants a request to a pseudo-channel, whose queue holds 64 (R604): saves and restores are at urgency 3 from the grant. -/
def State.hbmArrive (pch : Nat) (s : State) (a : HbmArr) : State :=
  let x := s.pchan pch
  if x.queue.length < 64 ∧ a.port < 24 then
    let t := s.rd (Reg.HBM_PORT_CFG_TARGET_NS a.port)
    let u := if a.kind = 2 then 3 else 0
    let s1 := s.setPchan pch { x with queue := x.queue ++ [{ req := a, target := t, at_ := s.time.mono, urgency := u }] }
    if u = 3 then s1.urgent3 a.rank a.port else s1
  else s

/-- What R604 looks at before tickets: whether 63 column commands have passed the request since it reached urgency 3, its urgency, and whether
its row is open. -/
def PChan.standing (x : PChan) (r : HbmReq) : Bool × Nat × Bool :=
  (decide (r.urgency = 3 ∧ 63 ≤ r.passed), r.urgency, x.openRows.contains (r.req.rank, r.req.bank, r.req.row))

/-- Does a request of the queue go before another (R604): one passed 63 times, the higher urgency, an open row, the older ticket, and on a
tie the port whose turn it is (R546)? -/
def PChan.reqBefore (x : PChan) (now : Nat) (a b : HbmReq) : Bool :=
  let p := x.standing a
  let q := x.standing b
  if p.1 != q.1 then p.1
  else if p.2.1 ≠ q.2.1 then decide (q.2.1 < p.2.1)
  else if p.2.2 != q.2.2 then p.2.2
  else if olderTicket now a.req.ticket b.req.ticket then true
  else if olderTicket now b.req.ticket a.req.ticket then false
  else decide (turnOf x.rr a.req.port < turnOf x.rr b.req.port)

/-- A request of another port and line of the queue ties with a request (R546). -/
def PChan.tied (x : PChan) (now : Nat) (r : HbmReq) : Bool :=
  x.queue.any (fun q => q.req.port != r.req.port && q.req.line != r.req.line && x.standing q == x.standing r &&
    !olderTicket now q.req.ticket r.req.ticket && !olderTicket now r.req.ticket q.req.ticket)

/-- The first request to issue, and its place in the queue: of one line only the one granted first may issue (R604, R605). -/
def PChan.firstReq (x : PChan) (now : Nat) : List (HbmReq × Nat) → List Nat → Option (HbmReq × Nat)
  | [], _ => none
  | (r, i) :: t, lines =>
    let rest := x.firstReq now t (r.req.line :: lines)
    if lines.contains r.req.line then rest
    else
      match rest with
      | none => some (r, i)
      | some (q, k) => if x.reqBefore now q r then some (q, k) else some (r, i)

/-- A line is found uncorrectable, is poisoned, and its rank is to be retired (R613, R614). -/
def State.poisonLine (s : State) (rank line : Nat) : State :=
  let s1 := ((s.hbmErr rank 0x0B04).cnt 0x0B01 rank).bump (Reg.HBM_RNK_UE_COUNT rank)
  let l := if s1.hbm.poison.contains line then s1.hbm.poison else s1.hbm.poison ++ [line]
  let u := if s1.hbm.ueRanks.contains rank then s1.hbm.ueRanks else s1.hbm.ueRanks ++ [rank]
  let at_ := if s1.hbm.poison.contains line then s1.hbm.poisonRank else tset (fun _ => 0) s1.hbm.poisonRank line rank
  ({ s1 with hbm := { s1.hbm with poison := l, poisonRank := at_, ueRanks := u } } : State).wr Reg.HBM_POISONED_COUNT l.length

/-- A line is corrected and written back (R611, R614): the count of the rank over the last CE_WINDOW rises. -/
def State.correctLine (s : State) (rank : Nat) : State :=
  let l := s.time.mono :: (tget (fun _ => []) s.hbm.ceTimes rank).filter (fun t => decide (s.time.mono - t ≤ s.ceWindow))
  let s1 : State := { s with hbm := { s.hbm with ceTimes := tset (fun _ => []) s.hbm.ceTimes rank l } }
  ((s1.cnt 0x0B00 rank).wr (Reg.HBM_RNK_CE_COUNT rank) l.length).bump (Reg.HBM_RNK_CE_TOTAL_COUNT rank)

/-- A read of a line finds a number of erroneous symbols (R611, R613). -/
def State.readLine (s : State) (rank line symbols : Nat) : State :=
  if s.hbm.poison.contains line ∨ symbols = 0 then s
  else if symbols ≤ 3 then s.correctLine rank
  else s.poisonLine rank line

/-- A write of all 64 B of a line clears its poison (R613). -/
def State.cleanLine (s : State) (line : Nat) : State :=
  if s.hbm.poison.contains line then
    let l := s.hbm.poison.filter (fun k => k != line)
    ({ s with hbm := { s.hbm with poison := l, poisonRank := tset (fun _ => 0) s.hbm.poisonRank line 0 } } : State).wr Reg.HBM_POISONED_COUNT l.length
  else s

/-- Refreshes of a pseudo-channel are issued, which closes its rows. -/
def State.doRefresh (s : State) (pch : Nat) : State :=
  s.setPchan pch { s.pchan pch with postponed := 0, openRows := [] }

/-- An urgency-3 request waits on a pseudo-channel (R607). -/
def PChan.urgent (x : PChan) : Bool := x.queue.any (fun r => r.urgency == 3)

/-- A command to a rank fails command/address parity: counted, and its request stays (R614, R616, R623). -/
def State.parityFails (s : State) (rank : Nat) : State :=
  { s.cnt 0x0B03 rank with hbm := { s.hbm with parity := tset (fun _ => 0) s.hbm.parity rank (tget (fun _ => 0) s.hbm.parity rank + 1) } }

/-- A request leaves its queue and its row is open (R604); its latency, the time since its grant, is recorded for its port (R624). -/
def State.hbmIssue (s : State) (pch : Nat) (r : HbmReq) (i symbols : Nat) : State :=
  let x := s.pchan pch
  let a := r.req
  let latency := s.time.mono - r.at_
  let rows := (a.rank, a.bank, a.row) :: x.openRows.filter (fun o => !(o.1 == a.rank && o.2.1 == a.bank))
  let q := (x.queue.eraseIdx i).map (fun k => if k.urgency = 3 then { k with passed := k.passed + 1 } else k)
  let rr := if x.tied s.ticketNow r then some a.port else x.rr
  let s0 : State := { s with hbm := { s.hbm with parity := tset (fun _ => 0) s.hbm.parity a.rank 0 } }
  let s1 := (s0.setPchan pch { x with queue := q, openRows := rows, rr := rr }).post (Out.hbm pch a.line a.row a.write)
  let s2 := s1.wr (Reg.HBM_PORT_MAXLAT_NS a.port) (max (s1.rd (Reg.HBM_PORT_MAXLAT_NS a.port)) (min latency (2 ^ 31 - 1)))
  if a.write then (if a.full then s2.cleanLine a.line else s2) else s2.readLine a.rank a.line symbols

/-- HBM_REQUEST_ISSUE (R604, R605, R607): requests that ports have granted since join the queue; the pseudo-channel issues its next
command, and while it is idle it pulls a refresh in.  `parity` says that the command fails command/address parity, `symbols` the erroneous
symbols of the line a read finds. -/
def execHbmRequestIssue (pch : Nat) (arrivals : List HbmArr) (parity : Bool) (symbols : Nat) (s : State) :
    Host.Outcome State Fault Refusal :=
  let s1 := arrivals.foldl (State.hbmArrive pch) s
  let x := s1.pchan pch
  if 0 < x.postponed ∧ x.urgent = false then .next (s1.doRefresh pch)
  else
    match x.firstReq s.ticketNow x.queue.zipIdx [] with
    | none => .next (if x.pulled < 4 then (s1.doRefresh pch).setPchan pch { (s1.doRefresh pch).pchan pch with pulled := x.pulled + 1 } else s1)
    | some (r, i) => .next (if parity then s1.parityFails r.req.rank else s1.hbmIssue pch r i symbols)

/-- URGENCY_RISE (R603): the request at a place of the queue is as old as TIME_MONO says; copies and scrub stay at 0. -/
def execUrgencyRise (pch pos : Nat) (s : State) : Host.Outcome State Fault Refusal :=
  let x := s.pchan pch
  match x.queue[pos]? with
  | none => .next s
  | some r =>
    let u := if r.req.kind = 1 then 0 else urgencyOf r.target (s.time.mono - r.at_)
    if r.urgency < u then
      let s1 := s.setPchan pch { x with queue := x.queue.set pos { r with urgency := u } }
      .next (if u = 3 then s1.urgent3 r.req.rank r.req.port else s1)
    else .next s

/-- HBM_PORT_MAXLAT_CLEAR (R624). -/
def execHbmPortMaxlatClear (port : Nat) (s : State) : Host.Outcome State Fault Refusal := s.bar (Reg.HBM_PORT_MAXLAT port) fun s =>
  .next (s.wr (Reg.HBM_PORT_MAXLAT_NS port) 0)

/-! ### Refresh, temperature and training (R606 to R610, R695) -/

/-- REFRESH (R606, R607): an interval boundary, from which the stack's interval holds; the refresh is issued, or postponed by at most 4
intervals while urgency-3 requests wait; one pulled in before stands for it. -/
def execRefresh (pch : Nat) (s : State) : Host.Outcome State Fault Refusal :=
  let t := pch / 32
  let s1 := s.wr (Reg.HBM_STK_REF_REF_INT_NS t) (if s.rd (Reg.HBM_STK_TEMP_DOUBLE t) = 1 then 1950 else 3900)
  let x := s1.pchan pch
  if 0 < x.pulled then .next (s1.setPchan pch { x with pulled := x.pulled - 1 })
  else if x.urgent = true ∧ x.postponed < 4 then .next (s1.setPchan pch { x with postponed := x.postponed + 1 })
  else .next (s1.doRefresh pch)

/-- Whole milliseconds of doubled refresh are counted (R623). -/
def State.countDoubled (s : State) (t : Nat) : State :=
  if s.rd (Reg.HBM_STK_TEMP_DOUBLE t) = 1 then
    let since := tget (fun _ => 0) s.hbm.doubledFrom t
    let ms := (s.time.mono - since) / 10 ^ 6
    ({ s with hbm := { s.hbm with doubledFrom := tset (fun _ => 0) s.hbm.doubledFrom t (since + ms * 10 ^ 6) } } : State).cnt
      0x0B07 (0x10 + t) ms
  else s

/-- HBM_TEMP_READING (R606, R608, R695). -/
def execHbmTempReading (stack : Nat) (temp : Int) (s : State) : Host.Outcome State Fault Refusal :=
  let s1 := (s.countDoubled stack).wr (Reg.HBM_STK_TEMP_TEMP_C stack) (temp % 256).toNat
  let s2 := if 85 ≤ temp ∧ s1.rd (Reg.HBM_STK_TEMP_DOUBLE stack) = 0 then
      ({ s1 with hbm := { s1.hbm with doubledFrom := tset (fun _ => 0) s1.hbm.doubledFrom stack s1.time.mono } } : State).wr
        (Reg.HBM_STK_TEMP_DOUBLE stack) 1
    else if temp < 80 then s1.wr (Reg.HBM_STK_TEMP_DOUBLE stack) 0
    else s1
  let s3 := s2.wr (Reg.HBM_STK_TEMP_HOT stack) (if 95 ≤ temp then 1 else 0)
  if 95 ≤ temp then
    let s4 := (s3.hbmErr (16 + stack) 0x0B02).wr Reg.PWR_EVENT_HBM_THROTTLE 1
    let l := if s4.pwr.hbmHalf.contains stack then s4.pwr.hbmHalf else s4.pwr.hbmHalf ++ [stack]
    .next { s4 with pwr := { s4.pwr with hbmHalf := l } }
  else if temp < 90 then .next { s3 with pwr := { s3.pwr with hbmHalf := s3.pwr.hbmHalf.filter (fun t => t != stack) } }
  else .next s3

/-- HBM_TRAINING_DONE (R609, R610): power-on training of a stack, or the re-training of a pseudo-channel of a trained stack. -/
def execHbmTrainingDone (stack pch : Nat) (ok : Bool) (s : State) : Host.Outcome State Fault Refusal :=
  let s1 := if s.rd (Reg.HBM_STK_TRAIN_TRAIN_OK stack) = 1 then
      let s2 := s.bump (Reg.HBM_STK_TRAIN_RETRAINS stack)
      if ok then s2 else s2.bumpSat (Reg.HBM_STK_TRAIN_RETRAIN_FAIL stack)
    else if ok then s.wr (Reg.HBM_STK_TRAIN_TRAIN_OK stack) 1 else s
  if ok then .next s1 else .next ((s1.hbmErr (16 + stack) 0x0B01 stack pch).devError 0x0B01 stack pch)

/-- DQ_TRACKING (R610): the delays follow the pins, and requests wait; nothing of the state changes. -/
def execDqTracking (_pch : Nat) (s : State) : Host.Outcome State Fault Refusal := .next s

/-! ### Errors (R611 to R613) -/

/-- PATROL_SCRUB (R612): a line of a rank is read, with SCRUB_EN; it pauses in FURLED (R685). -/
def execPatrolScrub (rank line symbols : Nat) (s : State) : Host.Outcome State Fault Refusal :=
  if s.rd Reg.HBM_CTRL_SCRUB_EN = 1 ∧ s.rd Reg.PWR_STATUS_STATE < 3 then .next (s.readLine rank line symbols) else .next s

/-- Indices of a line of a pool's free ring are lost (R581, R613): in list mode the list is cut there (R582). -/
def State.loseIndices (s : State) (c : Nat) : State :=
  let p := s.poolC c
  if s.rd (Reg.POOL_CLS_CFG_MODE c) = 1 then
    let n := sumNat ((s.poolStore c).map (·.2))
    ((((s.setPool c { p with store := some [] }).wr (Reg.POOL_CLS_FREE_FREE c) (s.poolF c - n)).poolErr 0x0D06 c c).devError
      0x0D06 c 0).poolNote c
  else
    let r := runsTake 16 (s.poolStore c)
    let s1 := s.setPool c { p with store := some r.2 }
    (r.1.foldl (fun s i => ((s.wr (Reg.POOL_CLS_FREE_FREE c) (s.poolF c - 1)).poolErr 0x0D05 c c i).devError 0x0D05 c i)
      s1).poolNote c

/-- HBM_POISON_READ (R613): readers are 0 a job's data (`who` the job), 1 a frame checkpoint (the stream), 2 the journal mirror, 3 the
HBM copy of a program segment (the program), 4 the frame table, 5 a pool's free ring (the class). -/
def execHbmPoisonRead (line reader who : Nat) (s : State) : Host.Outcome State Fault Refusal :=
  if s.hbm.poison.contains line = true then
    let d0 := line * 64 % 2 ^ 32
    let d1 := line * 64 / 2 ^ 32
    let s1 := (s.cnt 0x0B02 (tget (fun _ => 0) s.hbm.poisonRank line)).hbmErr 63 0x0B05 d0 d1
    match reader with
    | 0 => .next ((s1.devError 0x0B05 d0 d1).rerunJob who)
    | 1 => .next ((s1.devError 0x0B05 d0 d1).setStream who { s1.stream who with rebuild := true })
    | 2 =>
      let s2 := (s1.devError 0x0B05 d0 d1).wr Reg.HIF_JRNL_CFG_MIRROR_VALID 0
      .next { s2 with jrnl := { s2.jrnl with rebuilding := true } }
    | 3 =>
      let s2 : State := { s1 with hbm := { s1.hbm with
        badProgs := (who, line) :: s1.hbm.badProgs.filter (fun q => q.1 != who) } }
      .next ((s2.jobs.filter (fun j => j.prog == who && j.started)).foldl (fun s j => s.poisonJob j line) s2)
    | 4 => .next ((s1.devError 0x0B05 d0 d1).cleanLine line)
    | _ => .next ((s1.devError 0x0B05 d0 d1).loseIndices who)
  else .next s

/-- FRAME_REPLACE_COPY_DONE (R601): the old slots of a re-placed frame are free. -/
def execFrameReplaceCopyDone (frame : Nat) (s : State) : Host.Outcome State Fault Refusal :=
  match s.hbm.copying.find? (fun q => q.1 == frame) with
  | none => .next s
  | some q => .next (({ s with hbm := { s.hbm with copying := s.hbm.copying.erase q } } : State).freeEntry q.2)

/-! ### Retirement of ranks (R614 to R622) -/

def State.rankState (s : State) (r : Nat) : Nat := s.rd (Reg.HBM_RNK_STATE_STATE r)

/-- A rank meets a condition of R614: cause 1 its CE count, 2 parity failures in a row, 3 an uncorrectable line, 4 RETIRE. -/
def State.retireDue (s : State) (r cause : Nat) : Bool :=
  match cause with
  | 1 => decide (max 1 (s.rd Reg.HBM_CE_CFG_CE_THR) ≤ s.ceNow r)
  | 2 => decide (2 ≤ tget (fun _ => 0) s.hbm.parity r)
  | 3 => s.hbm.ueRanks.contains r
  | 4 => decide (s.rd (Reg.HBM_RNK_CTRL_RETIRE r) = 1)
  | _ => false

/-- HBM_STATUS follows the ranks. -/
def State.hbmNote (s : State) : State :=
  let busy := (List.range 6).any (fun r => s.rankState r == 2 || s.rankState r == 4)
  ((s.wr Reg.HBM_STATUS_RETIRED s.hbm.retired.length).wr Reg.HBM_STATUS_SPARE_AVAIL
    (if s.hbm.retired.isEmpty then 1 else 0)).wr Reg.HBM_STATUS_MIGRATING (if busy then 1 else 0)

/-- What copies and drains have moved so far is counted, before MIG_GBPS changes (R616). -/
def State.countMoves (s : State) : State :=
  { s with hbm := { s.hbm with moves := s.hbm.moves.map (fun q => (q.1, q.2.map (fun _ => (s.time.mono, 2 ^ 33 - s.moveLeft q.1)))) } }

/-- A copy or drain of a rank starts, or is over. -/
def State.setMove (s : State) (r : Nat) (on : Bool) : State :=
  { s with hbm := { s.hbm with moves := tset (fun _ => none) s.hbm.moves r (if on then some (s.time.mono, 0) else none) } }

/-- The part of some runs inside [lo, hi), and the part outside. -/
def runsIn (lo hi : Nat) (l : List (Nat × Nat)) : List (Nat × Nat) :=
  l.filterMap (fun r => if max lo r.1 < min hi (r.1 + r.2) then some (max lo r.1, min hi (r.1 + r.2) - max lo r.1) else none)

/-- Free slots of a redirected rank are free slots of the spare (R616). -/
def State.moveFree (s : State) (r : Nat) : State :=
  (List.range 32).foldl (fun s k =>
    let p := 32 * (r / 3) + k
    let lo := 4096 * (r % 3)
    let l := s.freeSlots p
    let out := runsIn 0 lo l ++ runsIn (lo + 4096) 16384 l
    let moved := (runsIn lo (lo + 4096) l).map (fun q => (q.1 - lo + 8192, q.2))
    let s1 := s.setSlots p out
    s1.setSlots (32 + k) (s1.freeSlots (32 + k) ++ moved)) s

/-- The V96 withdraws the buffers of class 7 with indices 6,144 to 8,191 (R585, R619): free ones leave their pool at once. -/
def State.withdrawTop (s : State) : State :=
  let p := s.poolC 7
  let count := s.rd (Reg.POOL_CLS_COUNT_COUNT 7)
  let held := (p.held.filter (fun q => decide (6144 ≤ q.1 ∧ q.1 < 8192) && q.2.isSome)).map (·.1)
  let away := min count 8192 - 6144
  let n := away - held.length
  let free := (List.range away).filterMap (fun k => if held.contains (6144 + k) then none else some (6144 + k))
  let store := if s.poolState 7 = 0 then p.store
    else some (runsIn 0 6144 (s.poolStore 7) ++ runsIn 8192 (2 ^ 21) (s.poolStore 7))
  let s1 := s.setPool 7 { p with withdraw := held, store := store, cache := p.cache.filter (fun i => decide (i < 6144 ∨ 8192 ≤ i)) }
  let s2 := (s1.wr (Reg.POOL_CLS_COUNT_COUNT 7) (count - n)).bump (Reg.POOL_CLS_WITHDRAWN_COUNT 7) n
  let s3 := (s2.wr (Reg.POOL_CLS_FREE_FREE 7) (s2.poolF 7 - n)).poolShrink 7
  ((free.flatMap (s3.bufFrames 7)).foldl (fun s f => s.unplace f) s3).poolNote 7

/-- A rank is retired: the spare's own retirement takes no copy (R618); else the first goes to the spare (R616), and the second
drains (R619). -/
def State.retireRank (s : State) (r cause : Nat) : State :=
  let s1 := ((s.hbmErr r 0x0B03 r cause).devError 0x0B03 r cause).wr (Reg.HBM_RNK_STATE_CAUSE r) cause
  let s2 : State := { s1 with hbm := { s1.hbm with retired := s1.hbm.retired ++ [r] } }
  if s.rankState r = 1 then (s2.wr (Reg.HBM_RNK_STATE_STATE r) 3).hbmNote
  else if s.hbm.retired.isEmpty then
    (((((s2.wr (Reg.HBM_RNK_STATE_STATE r) 2).wr (Reg.HBM_RNK_STATE_TARGET r) 5).wr (Reg.HBM_RNK_STATE_STATE 5) 0).moveFree r).setMove r true).hbmNote
  else
    let s3 := ((s2.wr (Reg.HBM_RNK_STATE_STATE r) 4).wr Reg.HBM_STATUS_USABLE_GIB 32).withdrawTop
    (((s3.setMove r true).hbmErr r 0x0B06 r 32).devError 0x0B06 r 32).hbmNote

/-- The condition a rank meets, a hardware one first (R614, R625). -/
def State.dueCause (s : State) (r : Nat) : Option Nat := [1, 2, 3, 4].find? (s.retireDue r)

/-- A rank that meets a condition is retired; after two retirements it stays in service (R616 to R620). -/
def State.retireNow (s : State) (rank cause : Nat) : State :=
  let s1 := ({ s with hbm := { s.hbm with ueRanks := s.hbm.ueRanks.filter (fun r => r != rank)
                                          parity := tset (fun _ => 0) s.hbm.parity rank 0 } } : State).wr (Reg.HBM_RNK_CTRL_RETIRE rank) 0
  if 2 ≤ s1.hbm.retired.length then (s1.hbmErr rank 0x0B07 rank cause).devError 0x0B07 rank cause
  else s1.retireRank rank cause

/-- RANK_RETIRE (R614, R616 to R621, R625): a rank in service or the spare meets a condition; lower ranks that meet one by now go first, and
a hardware condition comes before RETIRE. -/
def execRankRetire (rank cause : Nat) (s : State) : Host.Outcome State Fault Refusal :=
  if s.retireDue rank cause = true ∧ s.rankState rank < 2 then
    let k := if cause = 4 then (s.dueCause rank).getD 4 else cause
    let lower := (List.range rank).filter (fun r => decide (s.rankState r < 2) && (s.dueCause r).isSome)
    let s1 := lower.foldl (fun s r => s.retireNow r ((s.dueCause r).getD 4)) s
    .next (s1.retireNow rank k)
  else .next s

/-- RETIRE (R614, R624): HBM_RNK_CTRL.RETIRE written 1, ignored unless STATE is ACTIVE or SPARE. -/
def execRetire (rank : Nat) (s : State) : Host.Outcome State Fault Refusal := s.bar (Reg.HBM_RNK_CTRL rank) fun s =>
  if s.rankState rank < 2 then .next (s.wr (Reg.HBM_RNK_CTRL_RETIRE rank) 1) else .next s

/-- MIGRATION_DONE (R616): the 8 GiB are copied; the frame table names the spare's slots, and the rank reads RETIRED. -/
def execMigrationDone (s : State) : Host.Outcome State Fault Refusal :=
  match (List.range 6).find? (fun r => s.rankState r == 2 && s.moveLeft r == 0) with
  | none => .next s
  | some r =>
    let fix := fun (e : FrameEnt) => ({ slots := e.slots.map (fun l => l.map s.slotHome) } : FrameEnt)
    let s1 : State := { s with hbm := { s.hbm with
      frames := s.hbm.frames.map (fun q => (q.1, q.2.map fix)), copying := s.hbm.copying.map (fun q => (q.1, fix q.2)) } }
    .next (((s1.setMove r false).wr (Reg.HBM_RNK_STATE_STATE r) 3).hbmNote)

/-- A slot of a draining rank moves to the lowest free slot of the pseudo-channel with the most free slots (R619). -/
def State.moveSlot (s : State) (r k : Nat) : State × Nat :=
  let h := s.slotHome k
  if rankAt h = r then
    match s.byFree (List.range 64) with
    | [] => (s, h)
    | p :: _ =>
      match s.takeSlots p 1 with
      | (s1, [i]) => (s1, 16384 * p + i)
      | (s1, _) => (s1, h)
  else (s, h)

/-- The frames of a draining rank move (R619). -/
def State.drainFrame (r : Nat) (s : State) (f : Nat × Option FrameEnt) : State :=
  match f.2 with
  | none => s
  | some e =>
    let y := e.slots.foldl (fun (x : State × List (List Nat)) l =>
      let z := l.foldl (fun (x : State × List Nat) k =>
        let q := x.1.moveSlot r k
        (q.1, x.2 ++ [q.2])) (x.1, [])
      (z.1, x.2 ++ [z.2])) (s, [])
    { y.1 with hbm := { y.1.hbm with frames := tset (fun _ => none) y.1.hbm.frames f.1 (some { slots := y.2 }) } }

/-- The frames that boot placed on a draining rank move to free slots of their pseudo-channels (R600, R619). -/
def State.drainBoot (s : State) (r : Nat) : State :=
  if r % 3 = 0 then (List.range 32).foldl (fun s k => (s.takeSlots (32 * (r / 3) + k) bootSlots).1) s else s

/-- RANK_DRAIN_DONE (R615, R619): every withdrawn buffer has left its pool, and the draining rank is empty. -/
def execRankDrainDone (rank : Nat) (s : State) : Host.Outcome State Fault Refusal :=
  if s.rankState rank = 4 ∧ (s.poolC 7).withdraw.isEmpty = true ∧ s.moveLeft rank = 0 then
    let s1 := s.hbm.frames.foldl (State.drainFrame rank) (s.drainBoot rank)
    .next (((s1.setMove rank false).wr (Reg.HBM_RNK_STATE_STATE rank) 3).hbmNote)
  else .next s

end Sys2Proof.Machine
end

