-- ==== Sys2Proof/Machine/Hlth.lean ====
section
/-! DEFINITION. The record file (R657 to R660), hangs and self-tests (R661 to R666), and ageing and margin plans (R667 to R672). -/

set_option Elab.async false

namespace Sys2Proof.Machine

/-! ### The record file -/

/-- RECORD_ENTRY_CLEAR (R657, R659): VALID written 1 clears the whole entry. -/
def execRecordEntryClear (entry : Nat) (s : State) : Host.Outcome State Fault Refusal := s.bar (0x1E01000 + 0x20 * entry) fun s =>
  let s1 : State := { s with hlth := { s.hlth with recs := tset (fun _ => {}) s.hlth.recs entry {}, recFull := false } }
  .next s1.recSummary

/-- CLEAR_ALL (R659): HLTH_CTRL.CLEAR_ALL written 1. -/
def execClearAll (s : State) : Host.Outcome State Fault Refusal := s.bar Reg.HLTH_CTRL fun s =>
  let s1 : State := { s with hlth := { s.hlth with recs := [], recFull := false } }
  .next s1.recSummary

/-! ### Hangs and self-tests -/

/-- A unit in service that has work issued and whose clock runs (R662, R682). -/
def State.hasWork (s : State) (kind unit : Nat) : Bool :=
  match kind with
  | 0 => s.inService unit && !(s.core unit).runs.isEmpty && bitsOf (s.rd Reg.PWR_CLK_ON_CL) (unit / 8) 1 == 1
  | 1 => decide (s.engineSt unit < 4) && (s.engine unit).cur.isSome && bitsOf (s.rd Reg.PWR_CLK_ON_DEC) unit 1 == 1
  | _ => decide (s.stationSt unit < 4) && decide (0 < s.opsOn unit) && s.rd Reg.PWR_CLK_ON_FAB == 1

/-- HANG_DETECTION (R661, R662): a unit with work issued has made no progress for HANG_US. -/
def execHangDetection (kind unit : Nat) (s : State) : Host.Outcome State Fault Refusal :=
  if s.rd Reg.HLTH_HANG_HANG_US ≠ 0 ∧ s.hasWork kind unit = true then
    .next (((s.cnt 0x0E01 0).hlthErr unit 0x0E02).fenceUnit kind unit 0x0E02 false)
  else .next s

/-- The number of units of a kind (R678). -/
def unitCount (kind : Nat) : Nat := if kind = 0 then 64 else if kind = 1 then 8 else if kind = 2 then 4 else 0

/-- HLTH_UNFENCE (R666, R678): a FENCED unit begins its self-test; any other write has no effect. -/
def execHlthUnfence (w : BitVec 32) (s : State) : Host.Outcome State Fault Refusal := s.bar Reg.HLTH_UNFENCE fun s =>
  let kind := bitsOf w.toNat 8 2
  let unit := bitsOf w.toNat 0 6
  let u : UnitId := { kind := kind, unit := unit }
  if unit < unitCount kind ∧ s.isFenced kind unit = true ∧ s.hlth.testing.contains u = false then
    .next { s with hlth := { s.hlth with testing := s.hlth.testing ++ [u] } }
  else .next s

/-- A unit whose self-test passed returns to IDLE (R666). -/
def State.unfence (s : State) (kind unit : Nat) : State :=
  match kind with
  | 0 => (((s.wr (Reg.CORE_LRW_STATUS_STATE unit) 0).fenceNote).note unit)
  | 1 => ((((s.wr Reg.HLTH_FENCE_UNIT_DEC (s.rd Reg.HLTH_FENCE_UNIT_DEC &&& (255 ^^^ 2 ^ unit))).setEngineSt unit 0).placeWaiting).enginesNote)
  | _ => ((((s.wr Reg.HLTH_FENCE_UNIT_SGS (s.rd Reg.HLTH_FENCE_UNIT_SGS &&& (15 ^^^ 2 ^ unit))).wr (Reg.SGS_STATUS_STATE unit) 0).sgsRetarget).stationNote unit)

/-- A self-test failed (R661, R666): the code is filed with its ERROR pennant. -/
def State.testFails (s : State) (kind unit failing : Nat) : State :=
  let d0 := kind * 256 + unit
  (s.hlthErr unit 0x0E03 d0 failing).devError 0x0E03 d0 failing

/-- SELF_TEST_DONE (R666): `failing` is the number of the test that failed, 0 for none.  A core of a group whose margin stays exhausted
fails.  During the boot every unit is tested, and one that fails is fenced. -/
def execSelfTestDone (kind unit failing : Nat) (s : State) : Host.Outcome State Fault Refusal :=
  let u : UnitId := { kind := kind, unit := unit }
  let worn := decide (kind = 0 ∧ s.rd (Reg.HLTH_GRP_SET_EXHAUSTED (unit / 8)) = 1)
  if s.hlth.testing.contains u then
    let s1 : State := { s with hlth := { s.hlth with testing := s.hlth.testing.erase u } }
    let out := s1.isFenced kind unit
    if failing = 0 ∧ worn = false then .next (if out then s1.unfence kind unit else s1)
    else
      let s2 := s1.testFails kind unit failing
      .next (if out then s2 else s2.fenceUnit kind unit 0x0E03 true)
  else .next s

/-! ### Margin plans -/

/-- PLAN of HLTH_STATUS: 0 idle, 1 waiting for an idle moment, 2 running, 3 running with one latched (R678). -/
def State.planSt (s : State) : Nat := s.rd Reg.HLTH_STATUS_PLAN

/-- A plan starts (R671, R672). -/
def State.planStart (s : State) : State :=
  let s1 := (s.wr Reg.HLTH_STATUS_PLAN 2).wr Reg.HLTH_CTRL_PLAN_NOW 0
  { s1 with hlth := { s1.hlth with measured := [] } }

/-- A plan falls due and waits for an idle moment (R671). -/
def State.planFalls (s : State) : State :=
  let s1 := s.wr Reg.HLTH_STATUS_PLAN 1
  { s1 with hlth := { s1.hlth with planDue := s.time.mono } }

/-- MARGIN_PLAN_DUE (R671, R686): INTERVAL_H hours have passed since the last plan; in FURLED the device wakes and the plan runs at once. -/
def execMarginPlanDue (s : State) : Host.Outcome State Fault Refusal :=
  let hours := max 1 (s.rd Reg.HLTH_PLAN_CFG_INTERVAL_H)
  let last := s.rd64 Reg.HLTH_PLAN_LAST_LO Reg.HLTH_PLAN_LAST_HI
  if s.planSt = 0 ∧ hours * 3600 * 10 ^ 9 ≤ s.time.mono - last then
    .next (if s.rd Reg.PWR_STATUS_STATE = 3 then s.wakeUp.planStart else s.planFalls.wakeUp)
  else .next s

/-- IDLE_MOMENT (R671): 1 ms with every core free and no tile job ready; a due plan starts. -/
def execIdleMoment (s : State) : Host.Outcome State Fault Refusal :=
  if s.planSt = 1 ∧ s.rd Reg.SCHED_STATUS_FREE_CORES = 64 ∧ s.sched.ready.isEmpty = true then .next s.planStart else .next s

/-- PLAN_FORCED (R671): no idle moment has come for DEFER_H hours since the plan fell due. -/
def execPlanForced (s : State) : Host.Outcome State Fault Refusal :=
  if s.planSt = 1 ∧ s.hlth.planDue + s.rd Reg.HLTH_PLAN_CFG_DEFER_H * 3600 * 10 ^ 9 ≤ s.time.mono then .next (s.planStart.cnt 0x0E03 0) else .next s

/-- PLAN_NOW (R672): HLTH_CTRL.PLAN_NOW written 1 counts as the due plan; while a plan runs, one more is latched. -/
def execPlanNow (s : State) : Host.Outcome State Fault Refusal := s.bar Reg.HLTH_CTRL fun s =>
  let s1 := s.wr Reg.HLTH_CTRL_PLAN_NOW 1
  match s.planSt with
  | 0 => .next s1.planFalls
  | 2 => .next (s1.wr Reg.HLTH_STATUS_PLAN 3)
  | _ => .next s1

/-- The degradation of a monitor in ppm (R667). -/
def degradation (fresh stressed : Nat) : Int := (((fresh : Int) - (stressed : Int)) * 1000000) / (fresh : Int)

/-- AGEING_MEASUREMENT_DONE (R667, R668): the counts of a monitor's two oscillators. -/
def execAgeingMeasurementDone (monitor fresh stressed : Nat) (s : State) : Host.Outcome State Fault Refusal :=
  if monitor < 48 ∧ 2 ≤ s.planSt then
    let bad := decide (fresh = 0 ∨ stressed = 0 ∨ 1001 * fresh < 1000 * stressed)
    let d := degradation fresh stressed
    let s1 : State := { s with hlth := { s.hlth with
      measured := s.hlth.measured ++ [monitor]
      monitors := tset (fun _ => none) s.hlth.monitors monitor (if bad then none else some d) } }
    if bad then .next ((s1.wr (Reg.HLTH_AGE_MON_VALID monitor) 0).hlthErr monitor 0x0E05)
    else .next ((s1.wr (Reg.HLTH_AGE_MON_VALID monitor) 1).wr (Reg.HLTH_AGE_MON_PPM monitor) (d % 2 ^ 31).toNat)
  else .next s

/-- What a plan sets a group to (R669, R670). -/
structure GroupSet where
  deg : Nat
  exhausted : Bool
  bin : Nat
  mv : Nat
  wear : Nat
  deriving DecidableEq, Repr

/-- The set point of a group from its degradation (R669): `base` is V_base in mV, `bmax` the highest bin.  For a base at or above
850 + 25 * b_max the spec states no wear: a free value (log entry 68). -/
def planGroup (base bmax d : Nat) : GroupSet :=
  let delta := 5 * cdiv d 500
  let wear := if base < 850 + 25 * bmax then min 1000 (1000 * delta / (850 + 25 * bmax - base))
    else Config.wearOpen base bmax delta % 2 ^ 10
  match (List.range (bmax + 1)).find? (fun b => decide (base + delta ≤ 850 + 25 * b)) with
  | some b => { deg := d, exhausted := false, bin := b, mv := max 650 (base + delta - 25 * b), wear := wear }
  | none => { deg := d, exhausted := true, bin := bmax, mv := 850, wear := wear }

/-- Degradations of valid monitors among some. -/
def State.valid (s : State) (l : List Nat) : List Int := l.filterMap (fun m => tget (fun _ => none) s.hlth.monitors m)

/-- The degradation of a group in the plan that ends (R668, R669): never below the one before. -/
def State.groupDeg (s : State) (g : Nat) : Nat :=
  let own := s.valid ((List.range 4).map (4 * g + ·))
  let l := if own.isEmpty then s.valid (List.range 48) else own
  max (s.rd (Reg.HLTH_GRP_DEG_PPM g)) (l.foldl max 0).toNat

/-- A group takes its set point (R669 to R671), the voltage raised before the clock and the clock lowered before the voltage: the cores of a cluster whose bin changes stop, and an exhausted cluster is fenced. -/
def State.planApply (s : State) (g : Nat) : State :=
  let old := s.rd (Reg.HLTH_GRP_SET_BIN g)
  let x := planGroup (s.rd (Reg.HLTH_GRP_BASE_V_BASE_MV g)) (if g < 8 then 4 else 0) (s.groupDeg g)
  let now := s.post (Out.rail g x.mv)
  let moved := if g < 8 ∧ old < x.bin then (s.post (Out.clock g x.bin)).post (Out.rail g x.mv)
    else if g < 8 ∧ x.bin < old then now.post (Out.clock g x.bin) else now
  let s1 := (((((moved.wr (Reg.HLTH_GRP_DEG_PPM g) x.deg).wr (Reg.HLTH_GRP_SET_EXHAUSTED g) (if x.exhausted then 1 else 0)).wr
    (Reg.HLTH_GRP_SET_BIN g) x.bin).wr (Reg.HLTH_GRP_SET_SET_MV g) x.mv).wr (Reg.HLTH_GRP_WEAR_WEAR g) x.wear)
  let cores := (List.range 8).map (8 * g + ·)
  let s2 := if g < 8 ∧ old ≠ x.bin then cores.foldl (fun s c => if s.coreState c < 2 then s.stopCore c 5 else s) s1 else s1
  if x.exhausted then
    let s3 := (s2.hlthErr g 0x0E04 g x.deg).devError 0x0E04 g x.deg
    if g < 8 then cores.foldl (fun s c => s.fenceUnit 0 c 0x0E04 true) s3 else s3
  else s2

/-- The MARGIN entries (R672): (SCOPE, COUNTER_ID, VALUE). -/
def State.marginEntries (s : State) : List (Nat × Nat × Nat) :=
  (List.range 12).flatMap (fun g => [(g, 0x0E10, s.rd (Reg.HLTH_GRP_DEG_PPM g)), (g, 0x0E11, s.rd (Reg.HLTH_GRP_SET_SET_MV g)),
    (g, 0x0E12, s.rd (Reg.HLTH_GRP_SET_BIN g)), (g, 0x0E13, s.rd (Reg.HLTH_GRP_WEAR_WEAR g))])

/-- MARGIN_PLAN_END (R669 to R672): every monitor is measured; each group is set, and the MARGIN STAT is written. -/
def execMarginPlanEnd (s : State) : Host.Outcome State Fault Refusal :=
  if 2 ≤ s.planSt ∧ (List.range 48).all (fun m => s.hlth.measured.contains m) = true then
    let s1 := (List.range 12).foldl State.planApply s
    let s2 := ((s1.wr Reg.HLTH_STATUS_WEAR (((List.range 12).map (fun g => s1.rd (Reg.HLTH_GRP_WEAR_WEAR g))).foldl max 0)).wr64
      Reg.HLTH_PLAN_LAST_LO Reg.HLTH_PLAN_LAST_HI s.time.mono).cnt 0x0E02 0
    let s3 := ({ s2 with pwr := { s2.pwr with firstPlan := true } } : State).post .retrain
    let m := s3.rd Reg.HIF_SVC_PRING_PRING
    let s4 := if s3.rd (Reg.HIF_PRING_STATUS_STATE m) = 1 then
        (statPieces { ty := 0x13, ct := s3.now } 0x00E1 0 false s3.marginEntries).foldl (fun s p => s.sendTo m p) s3
      else s3
    .next (if s.planSt = 3 then s4.planStart else s4.wr Reg.HLTH_STATUS_PLAN 0)
  else .next s

end Sys2Proof.Machine
end

