-- ==== Sys2Proof/Machine/Jrnl.lean ====
section
/-! DEFINITION. The journal's enable, disable and recovery (R115 to R118, R123 to R131, R134, R751). -/

set_option Elab.async false

namespace Sys2Proof.Machine

/-- The configuration fields of HIF_JRNL_CFG, writable only while ENABLE and DRAINING are 0 (R116). -/
def State.jrnlCfg (s : State) (w : BitVec 32) : State :=
  s.cfgWrite (!s.jInUse) [Reg.HIF_JRNL_CFG_LOG2_EMIT, Reg.HIF_JRNL_CFG_LOG2_ENTRIES] w 63 Reg.HIF_JRNL_CFG

/-- The sizes are in range (R115, R116). -/
def State.jrnlOk (s : State) : Bool :=
  let e := s.rd Reg.HIF_JRNL_CFG_LOG2_EMIT
  let n := s.rd Reg.HIF_JRNL_CFG_LOG2_ENTRIES
  decide (10 ≤ e ∧ e ≤ 22 ∧ 8 ≤ n ∧ n ≤ 16)

/-- A refused journal enable or disable: RING_CFG in HIF_ERR (R116). -/
def State.jrnlCfgErr (s : State) (w : BitVec 32) : State :=
  s.hifErr 0x010A 63 Reg.HIF_JRNL_CFG Reg.HIF_JRNL_CFG w.toNat

/-- JRNL_ENABLE (R116, R117, R118, R751): the journal starts empty; during DRAINING the enable is latched. -/
def execJrnlEnable (w : BitVec 32) (s : State) : Host.Outcome State Fault Refusal := s.bar Reg.HIF_JRNL_CFG fun s =>
  let s1 := s.jrnlCfg w
  if s1.rd Reg.HIF_JRNL_CFG_DRAINING = 1 then .next { s1 with jrnl := { s1.jrnl with latched := true } }
  else if s1.rd Reg.HIF_JRNL_CFG_ENABLE = 1 then .next (s1.wr Reg.HIF_JRNL_CFG_RECOVER 0)
  else if s1.jrnlOk = false then .next ((s1.wr Reg.HIF_JRNL_CFG_RECOVER 0).jrnlCfgErr w)
  else
    let s2 := { s1 with jrnl := { s1.jrnl with
      entries := [], nextIdx := 0, log := [], logPos := 0, ordinals := [], latched := false, reachable := true
      breached := false, rebuilding := false, reexecuted := 0 } }
    .next ((((s2.wr Reg.HIF_JRNL_CFG_ENABLE 1).wr Reg.HIF_JRNL_CFG_RECOVER 0).wr Reg.HIF_JRNL_CFG_MIRROR_VALID 1).wr
      Reg.HIF_STATUS_JRNL_OK 1)

/-- The latest JOURNAL_INDEX among entries that are not FREE (R118). -/
def latestIdx : List Entry → Option Nat
  | [] => none
  | e :: t =>
    match e.st, latestIdx t with
    | .free, r => r
    | _, none => some e.jidx
    | _, some j => if seqBefore j e.jidx then some e.jidx else some j

/-- STATE is ACCEPTED or HELD: recovery re-executes the entry (R130). -/
def Entry.live (e : Entry) : Bool := e.st == .accepted || e.st == .held

/-- The emit records a recovery may still need, packed by PRING and then RING_SEQ (R751).  A stream counts as open while its STREAM_OPEN
entry is live, a stream in lehr on its STREAM_CLOSE too (DESIGN CHOICE, log entry 17). -/
def packLog (entries : List Entry) (log : List EmitRec) : List EmitRec :=
  let opened := fun st => entries.any (fun e => e.live && slotOpcode e.slot == 0x20 && slotStream e.slot == st)
  let keep := log.filter (fun r =>
    if r.kind1 then entries.any (fun e => e.live && e.jidx == r.keySeq) else opened r.stream)
  sortBy (fun a b => decide (a.pring < b.pring) || (a.pring == b.pring && decide (a.ringSeq ≤ b.ringSeq))) keep

/-- The STREAM_OPEN entry behind which an entry of a stream was accepted. -/
def openBefore (entries : List Entry) (e : Entry) : Option Entry :=
  (entries.filter (fun o => o.st != .free && slotOpcode o.slot == 0x20 && slotStream o.slot == slotStream e.slot &&
    seqBefore o.jidx e.jidx)).foldl (fun r o => match r with
      | some q => if seqBefore q.jidx o.jidx then some o else r
      | none => some o) none

/-- FRAME_SEQ of a re-executed AU_SUBMIT whose link the mirror has lost (R26, R123): as many as access units of the stream were accepted
behind its STREAM_OPEN before it.  That entry stays ACCEPTED until the close, so every later entry is still in the array (UNVERIFIED, log
entry 17). -/
def lostFseq (entries : List Entry) (e : Entry) : Option Nat :=
  (openBefore entries e).map (fun o => (entries.filter (fun a => a.st != .free && slotOpcode a.slot == 0x30 &&
    slotStream a.slot == slotStream e.slot && seqBefore o.jidx a.jidx && seqBefore a.jidx e.jidx)).length)

/-- A re-executed command (R130). -/
def recoverCmd (s : State) (entries : List Entry) (e : Entry) : Cmd :=
  { jidx := e.jidx, slot := e.slot, ring := e.ring, slotIdx := e.slotIdx, ct := s.now, mono := s.time.mono, replay := true, rap := e.rap
    fseq := if slotOpcode e.slot = 0x30 then e.fseq <|> lostFseq entries e else none }

/-- Recovery from the entries and the emit log of the mirror or of the host region (R123, R125, R130, R751): each
ACCEPTED or HELD entry is a command again, its ACCEPT regenerated, and the log rewritten in the mirror and in the host region before the
first pennant. -/
def State.startRecovery (s : State) (entries : Tbl Entry) (log : List (Nat × EmitRec)) : State :=
  let es := entries.map (·.2)
  let packed := packLog es (log.map (·.2))
  let live := sortBy (fun a b => a.jidx == b.jidx || seqBefore a.jidx b.jidx) (es.filter Entry.live)
  let cmds := live.map (recoverCmd s es)
  let next := match latestIdx es with | some j => (j + 1) % 2 ^ 32 | none => 0
  let s1 := { s with jrnl := { s.jrnl with
    entries := entries, nextIdx := next, log := packed.zipIdx.map (fun (r, i) => (i, some r))
    logPos := packed.length % s.logSize, ordinals := [], cmds := cmds, reexecuted := live.length, reachable := true } }
  let s2 := (List.range 64).foldl (fun s m => s.setPring m
    { s.pring m with committed := s.ringSeq m - 1, suppressed := 0, rewritten := 0, firstSupp := 0 }) s1
  let s3 := cmds.foldl (fun s c => s.sendTo (s.ackRing c) { cmdPn c 0x10 c.ct with
    body := packBits [(96, 32, slotTag c.slot), (64, 32, c.jidx), (48, 16, c.slotIdx), (44, 4, c.ring)] }) s2
  let s4 := cmds.foldl (fun s c =>
    if slotOpcode c.slot = 0x20 then s.setStream (slotStream c.slot) { s.stream (slotStream c.slot) with isOpen := true }
    else if slotOpcode c.slot = 0x22 then
      s.setStream (slotStream c.slot) { s.stream (slotStream c.slot) with isOpen := false }
    else s) s3
  let stale := (log.map (·.1)).filter (fun i => decide (packed.length ≤ i))
  let s5 := (List.range packed.length ++ stale).foldl State.postRec s4
  (s5.wr Reg.HIF_JRNL_CFG_RECOVERING 1).wr Reg.HIF_STATUS_JRNL_OK (s5.rd Reg.HIF_JRNL_CFG_ENABLE)

/-- The log of the mirror, by position. -/
def State.mirrorLog (s : State) : List (Nat × EmitRec) := s.jrnl.log.filterMap (fun q => q.2.map (fun r => (q.1, r)))

/-- Recovery reads the mirror, or the host region when the mirror is not valid (R123, R130). -/
def State.recover (s2 : State) (host : Option (List (BitVec 1024) × List (BitVec 128))) : State :=
  if s2.rd Reg.HIF_JRNL_CFG_MIRROR_VALID = 1 then s2.startRecovery s2.jrnl.entries s2.mirrorLog
  else
    match host with
    | none => s2.journalLost s2.jrnl.nextIdx (s2.rd64 Reg.HIF_JRNL_BASE_LO Reg.HIF_JRNL_BASE_HI)
    | some (es, log) =>
      let entries := (es.take s2.jSize).zipIdx.foldl (fun t (x, i) => tset (fun _ => {}) t i (Entry.ofBits x))
        ([] : Tbl Entry)
      let s3 := s2.startRecovery entries (((log.take s2.logSize).zipIdx.filter (fun x => x.1 != 0)).map (fun x => (x.2, EmitRec.ofBits x.1)))
      s3.wr Reg.HIF_JRNL_CFG_MIRROR_VALID 1

/-- JRNL_RECOVER (R116, R118, R130): from the mirror when MIRROR_VALID is 1, else from what the host region returns; a
region that cannot be read ends the recovery with JRNL_UNREACHABLE. -/
def execJrnlRecover (w : BitVec 32) (host : Option (List (BitVec 1024) × List (BitVec 128))) (s : State) :
    Host.Outcome State Fault Refusal := s.bar Reg.HIF_JRNL_CFG fun s =>
  let s1 := s.jrnlCfg w
  if s1.rd Reg.HIF_JRNL_CFG_DRAINING = 1 then .next { s1 with jrnl := { s1.jrnl with latched := true } }
  else if s1.rd Reg.HIF_JRNL_CFG_ENABLE = 1 then .next (s1.wr Reg.HIF_JRNL_CFG_RECOVER 1)
  else if s1.jrnlOk = false then .next ((s1.wr Reg.HIF_JRNL_CFG_RECOVER 1).jrnlCfgErr w)
  else
    let s2 := (s1.wr Reg.HIF_JRNL_CFG_ENABLE 1).wr Reg.HIF_JRNL_CFG_RECOVER 1
    .next (s2.recover host)

/-- JRNL_DISABLE (R116): DRAINING, or refused while a command ring is not DISABLED. -/
def execJrnlDisable (w : BitVec 32) (s : State) : Host.Outcome State Fault Refusal := s.bar Reg.HIF_JRNL_CFG fun s =>
  if (List.range 16).any (fun c => s.cState c != 0) then .next (s.jrnlCfgErr w)
  else
    let s1 := (s.jrnlCfg w).wr Reg.HIF_JRNL_CFG_RECOVER (bitsOf w.toNat 30 1)
    if s1.rd Reg.HIF_JRNL_CFG_ENABLE = 1 then
      .next (((s1.wr Reg.HIF_JRNL_CFG_ENABLE 0).wr Reg.HIF_JRNL_CFG_DRAINING 1).wr Reg.HIF_STATUS_JRNL_OK 0)
    else .next { s1 with jrnl := { s1.jrnl with latched := false } }

/-- JRNL_DRAIN_END (R116): no entry is ACCEPTED any more; a latched enable leaves the journal in use as before. -/
def execJrnlDrainEnd (s : State) : Host.Outcome State Fault Refusal :=
  if s.rd Reg.HIF_JRNL_CFG_DRAINING = 1 ∧ s.jrnl.entries.all (fun e => e.2.st != .accepted) = true then
    let s1 := s.wr Reg.HIF_JRNL_CFG_DRAINING 0
    if s1.jrnl.latched then
      .next ({ (s1.wr Reg.HIF_JRNL_CFG_ENABLE 1).wr Reg.HIF_STATUS_JRNL_OK (if s1.jrnl.reachable then 1 else 0) with
        jrnl := { s1.jrnl with latched := false } })
    else .next s1
  else .next s

/-- The counter entries of STAT_KIND 0x0010 (R127): (SCOPE, COUNTER_ID, VALUE). -/
def State.recoveryEntries (s : State) : List (Nat × Nat × Nat) :=
  ((List.range 64).flatMap (fun m =>
    let r := s.pring m
    if r.suppressed = 0 ∧ r.rewritten = 0 then [] else [(m, 0x0100, r.suppressed), (m, 0x0101, r.rewritten)])) ++
  [(0xFFFFFFFF, 0x0102, s.jrnl.reexecuted)]

/-- RECOVERY_END (R127): RECOVERING clears and the RECOVERY STAT goes to the service ring. -/
def execRecoveryEnd (s : State) : Host.Outcome State Fault Refusal :=
  if s.rd Reg.HIF_JRNL_CFG_RECOVERING = 1 then
    let low := (List.range 64).find? (fun m => (s.pring m).suppressed != 0)
    let refSeq := match low with | some m => (s.pring m).firstSupp | none => 0
    let ps := statPieces { ty := 0x13, ct := s.now } 0x0010 refSeq low.isSome s.recoveryEntries
    .next ((ps.foldl State.sendSvc s).wr Reg.HIF_JRNL_CFG_RECOVERING 0)
  else .next s

/-- MIRROR_REBUILD_DONE (R134). -/
def execMirrorRebuildDone (s : State) : Host.Outcome State Fault Refusal :=
  if s.jrnl.rebuilding then
    .next { s.wr Reg.HIF_JRNL_CFG_MIRROR_VALID 1 with jrnl := { s.jrnl with rebuilding := false } }
  else .next s

end Sys2Proof.Machine
end

