-- ==== Sys2Proof/Machine/Time.lean ====
section
/-! DEFINITION. Device time (R216 to R231): the clock and its step, the PTP engine, the servo, the pulse outputs and the
event inputs. -/

set_option Elab.async false

namespace Sys2Proof.Machine

/-- A code of TIME_ERR (R235). -/
def State.timeErr (s : State) (code : Nat) (d0 d1 : Nat := 0) : State :=
  (s.setErr Reg.TIME_ERR false (0, 0, 0) code).file .time 0 code d0 d1

/-- SERVO_STATE. -/
def State.servo (s : State) : Nat := s.rd Reg.TIME_STATUS_SERVO_STATE

/-- A TIME pennant to the service ring (R44, R230); one that falls due wakes a FURLED device (R686). -/
def State.timePn (s : State) (event : Nat) (ct : Stamp) : State :=
  s.wakeUp.sendSvc { ty := 0x14, ct := ct,
                     body := packBits [(120, 8, event), (116, 4, s.servo), (32, 32, (s.reg Reg.TIME_OFFSET).toNat),
                (0, 32, (s.reg Reg.TIME_PATH_DELAY).toNat)] }

/-- Change SERVO_STATE: each change writes a TIME pennant with TIME_EVENT 3 (R225). -/
def State.toServo (s : State) (st : Nat) : State :=
  if s.servo = st then s else
    let s1 := s.wr Reg.TIME_STATUS_SERVO_STATE st
    s1.timePn 3 s1.now

/-! ### The clock -/

/-- Set the rate: the increment per AON tick is recomputed and rounded to a multiple of 2^-64 ns (R216). -/
def State.setRate (s : State) (w : BitVec 32) : State :=
  let s1 := s.setReg Reg.TIME_RATE w
  { s1 with time := { s1.time with incr := (40 * 2 ^ 64 + rneDiv (40 * 2 ^ 52 * w.toInt) (10 ^ 9)).toNat } }

/-- The clock in units of 2^-64 ns. -/
def Time.total (t : Time) : Nat := (t.sec * 10 ^ 9 + t.ns) * 2 ^ 64 + t.frac

/-- Set the clock from units of 2^-64 ns; its 64-bit seconds wrap. -/
def Time.setTotal (t : Time) (x : Nat) : Time :=
  let ns := x / 2 ^ 64
  { t with sec := ns / 10 ^ 9 % 2 ^ 64, ns := ns % 10 ^ 9, frac := x % 2 ^ 64 }

/-- The device time in whole ns. -/
def State.clockNs (s : State) : Nat := s.time.sec * 10 ^ 9 + s.time.ns

/-- START of an output in ns (R226). -/
def State.tpoStart (s : State) (k : Nat) : Nat :=
  s.rd64 (Reg.TIME_TPO_SEC_LO k) (Reg.TIME_TPO_SEC_HI k) * 10 ^ 9 + (s.reg (Reg.TIME_TPO_NS k)).toNat

/-- The first point START + n × PERIOD at or after `t` (R226, R227). -/
def gridFrom (start period t : Nat) : Nat :=
  if t ≤ start then start else start + cdiv (t - start) (max 1 period) * period

def State.tpoNext (s : State) (k : Nat) : Option Nat := tget (fun _ => none) s.time.outs k
def State.setTpoNext (s : State) (k : Nat) (t : Option Nat) : State :=
  { s with time := { s.time with outs := tset (fun _ => none) s.time.outs k t } }

/-- What a step from `t0` to `t1` does to an armed output (R227). -/
def State.tpoStep (t0 t1 : Nat) (s : State) (k : Nat) : State :=
  match s.tpoNext k with
  | none => s
  | some t =>
    if s.rd (Reg.TIME_TPO_CFG_MODE k) = 2 then
      s.setTpoNext k (some (gridFrom (s.tpoStart k) (s.reg (Reg.TIME_TPO_PERIOD k)).toNat (t1 + 2000)))
    else if t0 < t ∧ t ≤ t1 then s.wr (Reg.TIME_TPO_CFG_LATE k) 1
    else s

/-- An arm is refused (R226). -/
def State.armBad (s : State) (k mode : Nat) : Bool :=
  let period := (s.reg (Reg.TIME_TPO_PERIOD k)).toNat
  let width := (s.reg (Reg.TIME_TPO_WIDTH k)).toNat
  (mode == 2 && decide (period < 100)) || decide (width < 10) || decide (period ≤ width) ||
    decide (999999999 < (s.reg (Reg.TIME_TPO_NS k)).toNat)

/-- An output whose ARM is 1 is armed at the present clock (R226, R227). -/
def State.armNow (s : State) (out : Nat) : State :=
  let mode := s.rd (Reg.TIME_TPO_CFG_MODE out)
  let off := (s.wr (Reg.TIME_TPO_CFG_ARM out) 0).setTpoNext out none
  if s.rd (Reg.TIME_TPO_CFG_ARM out) = 0 then s
  else if mode = 0 ∨ mode = 3 then off
  else if s.armBad out mode = true then off.timeErr 0x0309
  else if mode = 1 then
    if s.tpoStart out < s.clockNs + 2000 then off.wr (Reg.TIME_TPO_CFG_MISSED out) 1
    else s.setTpoNext out (some (s.tpoStart out))
  else s.setTpoNext out (some (gridFrom (s.tpoStart out) (s.reg (Reg.TIME_TPO_PERIOD out)).toNat (s.clockNs + 2000)))

/-- The AON tick of a step (R219, R220): the new value is loaded with VALID 1, and a TIME pennant is written. -/
def State.loadStep (s : State) (c : ClockStep) : State :=
  let t0 := s.clockNs
  let x := match c with
    | .toSet => (s.rd64 Reg.TIME_SET_SEC_LO Reg.TIME_SET_SEC_HI * 10 ^ 9 + (s.reg Reg.TIME_SET_NS).toNat) * 2 ^ 64
    | .byOffset o => ((s.time.total + s.time.incr : Int) - o * 2 ^ 64).toNat
  let s1 := { s with time := { s.time.setTotal x with step := none, mono := s.time.mono + 40 }, snap := { s.snap with jump := some (t0, x / 2 ^ 64) } }
  let s2 := (s1.wr Reg.TIME_STATUS_VALID 1).timePn 5 s1.now
  let s3 := (List.range 4).foldl (State.tpoStep t0 s2.clockNs) s2
  s3.time.arms.foldl State.armNow ({ s3 with time := { s3.time with arms := [] } } : State)

/-- One AON tick (R216, R217): the increment is added and TIME_MONO counts 40 ns; a requested step is loaded (R219). -/
def State.tick (s : State) : State :=
  match s.time.step with
  | some c => s.loadStep c
  | none => { s with time := { s.time.setTotal (s.time.total + s.time.incr) with mono := s.time.mono + 40 } }

/-- STEP (R219): discarded with TIME_CFG while SERVO_STATE is neither FREE nor MANUAL. -/
def execStep (s : State) : Host.Outcome State Fault Refusal := s.bar Reg.TIME_CTRL fun s =>
  if s.servo = 0 ∨ s.servo = 4 then .next { s with time := { s.time with step := some .toSet } }
  else .next (s.timeErr 0x0309)

/-- CLOCK_STEP_LOAD (R219): the AON tick at which a requested step is loaded. -/
def execClockStepLoad (s : State) : Host.Outcome State Fault Refusal :=
  match s.time.step with
  | some c => .next (s.loadStep c)
  | none => .next s

/-- TIME_RATE_WRITE (R216). -/
def execTimeRateWrite (w : BitVec 32) (s : State) : Host.Outcome State Fault Refusal := s.bar Reg.TIME_RATE fun s => .next (s.setRate w)

/-- SERVO_EN_WRITE (R225): MANUAL, or FREE from MANUAL. -/
def execServoEnWrite (en : Bool) (s : State) : Host.Outcome State Fault Refusal := s.bar Reg.TIME_CTRL fun s =>
  let s1 := s.wr Reg.TIME_CTRL_SERVO_EN (if en then 1 else 0)
  if en then .next (if s1.servo = 4 then s1.toServo 0 else s1) else .next (s1.toServo 4)

/-! ### The best master algorithm -/

/-- The PTP engine takes messages of a port (R222). -/
def State.ptpListens (s : State) (port : Nat) : Bool :=
  let sel := s.rd Reg.TIME_CTRL_PORT_SEL
  decide (s.rd Reg.TIME_CTRL_PTP_EN = 1 ∧ port < 2 ∧ s.rd (Reg.NET_PORT_CFG_PTP_EN port) = 1 ∧ (sel = 0 ∨ sel = port + 1))

/-- Is master `a` better than `b`: data set comparison, then stepsRemoved, then the lower port (R222)? -/
def betterMaster (a b : PtpMaster) : Bool :=
  decide (a.rank < b.rank) || (a.rank == b.rank && (decide (a.steps < b.steps) ||
    (a.steps == b.steps && decide (a.port < b.port))))

/-- The winner of the best master algorithm. -/
def bestMaster : List PtpMaster → Option PtpMaster
  | [] => none
  | m :: t =>
    match bestMaster t with
    | none => some m
    | some b => if betterMaster b m then some b else some m

/-- The masters that count: of the configured domain, on a port that the engine listens on (R221, R222). -/
def State.validMasters (s : State) : List PtpMaster :=
  s.time.masters.filter (fun m => s.ptpListens m.port && m.domain == s.rd Reg.TIME_CTRL_DOMAIN)

/-- Run the algorithm: Sync comes from the winner's port, and a change of grandmaster identity writes a TIME pennant with
TIME_EVENT 4 (R222). -/
def State.runBmca (s : State) : State :=
  let w := bestMaster s.validMasters
  let s1 := match w with
    | some m => s.wr Reg.TIME_STATUS_PTP_PORT m.port
    | none => s
  let gm := w.map (·.gm)
  if gm = s.time.gm then s1
  else
    let s2 := { s1 with time := { s1.time with gm := gm } }
    s2.timePn 4 s2.now

/-- PTP_ANNOUNCE (R221, R222). -/
def execPtpAnnounce (a : Announce) (s : State) : Host.Outcome State Fault Refusal :=
  if s.ptpListens a.port = true ∧ a.domain = s.rd Reg.TIME_CTRL_DOMAIN then
    let m : PtpMaster := { port := a.port, identity := a.identity, gm := a.gm, rank := a.rank, steps := a.steps
                           domain := a.domain, interval := a.interval, heard := s.time.mono }
    let l := s.time.masters.filter (fun x => x.port != a.port || x.identity != a.identity)
    .next ({ s with time := { s.time with masters := l ++ [m] } }.runBmca)
  else .next s

/-- ANNOUNCE_RECEIPT_TIMEOUT (R221): no Announce of the current master for 3 announce intervals: it is forgotten and the algorithm runs
again. -/
def execAnnounceReceiptTimeout (s : State) : Host.Outcome State Fault Refusal :=
  match bestMaster s.validMasters with
  | none => .next s
  | some m => if s.time.mono < m.heard + 3 * m.interval then .next s
    else .next ({ s with time := { s.time with masters := s.time.masters.filter (fun x => x != m) } }.runBmca)

/-! ### TIME_CTRL -/

/-- A write of TIME_CTRL: its fields, PTP_EN 0 with SERVO_EN 1 giving FREE (R225), SERVO_EN and STEP.  The best
master is chosen again for the new DOMAIN, PORT_SEL and PTP_EN (R222). -/
def State.timeCtrlWrite (s : State) (w : BitVec 32) : State :=
  let en := bitsOf w.toNat 28 1 == 1
  let s1 := s.setReg Reg.TIME_CTRL (BitVec.ofNat 32 (putBits (putBits (putBits w.toNat 27 1 0) 24 3 0) 28 1
    (s.rd Reg.TIME_CTRL_SERVO_EN)))
  let s2 : State := match execServoEnWrite en s1 with | .next s' => s' | _ => s1
  let s3 := (if en ∧ bitsOf w.toNat 31 1 = 0 then s2.toServo 0 else s2).runBmca
  if bitsOf w.toNat 27 1 = 1 then (match execStep s3 with | .next s' => s' | _ => s3) else s3

/-! ### The servo -/

/-- The servo's rate in units of 2^-12 ppb (R224), kept in the range of TIME_RATE. -/
def servoRate (kp ki : Nat) (offset integral : Int) (intervalNs : Nat) : Int :=
  clampInt (-2 ^ 31) (2 ^ 31 - 1) (rneDiv (-(kp * offset + ki * integral) * 10 ^ 9) (4 * intervalNs))

/-- An offset feeds the PI servo (R224). -/
def State.servoUpdate (s : State) (offset : Int) (intervalNs : Int) : State :=
  let integral := s.time.integral + offset
  let s1 := { s with time := { s.time with integral := integral } }
  if intervalNs ≤ 0 then s1
  else
    let r := servoRate (s.rd Reg.TIME_SERVO_KP_KP) (s.rd Reg.TIME_SERVO_KI_KI) offset integral intervalNs.toNat
    let s2 := s1.setRate (BitVec.ofInt 32 r)
    { s2 with time := { s2.time with rates := (r :: s2.time.rates).take 16 } }

/-- The servo decides a step by −offset, loaded at the next tick (R220, R225). -/
def State.servoStep (s : State) (offset : Int) : State :=
  { s with time := { s.time with step := some (.byOffset offset), integral := 0, inThr := 0, outThr := 0, overStep := 0 } }

/-- The servo takes an offset (R224, R225). -/
def State.servoOffset (s : State) (offset intervalNs : Int) : State :=
  let a := offset.natAbs
  let stepThr := max 1 (s.rd Reg.TIME_SERVO_THR_STEP_THR) * 1000
  let lockThr := s.rd Reg.TIME_SERVO_THR_LOCK_THR
  let lockCount := max 1 (s.rd Reg.TIME_SERVO_HOLD_LOCK_COUNT)
  let st := s.servo
  if st = 0 ∨ st = 3 then
    let s1 := { s with time := { s.time with integral := 0, inThr := 0, outThr := 0, overStep := 0 } }
    let s2 := if (st = 0 ∧ s.rd Reg.TIME_STATUS_VALID = 0) ∨ stepThr < a then s1.servoStep offset else s1
    s2.toServo 1
  else if st = 1 ∨ st = 2 then
    let ovr := if stepThr < a then s.time.overStep + 1 else 0
    if 3 ≤ ovr then (s.servoStep offset).toServo 1
    else
      let inT := if a ≤ lockThr then s.time.inThr + 1 else 0
      let outT := if a ≤ lockThr then 0 else s.time.outThr + 1
      let s1 := { s with time := { s.time with overStep := ovr, inThr := inT, outThr := outT } }
      let s2 := s1.servoUpdate offset intervalNs
      let clear := fun (s : State) => { s with time := { s.time with inThr := 0, outThr := 0 } }
      if st = 1 ∧ lockCount ≤ inT then (clear s2).toServo 2
      else if st = 2 ∧ lockCount ≤ outT then (clear s2).toServo 1
      else s2
  else s

/-- The engine takes Sync of a port: it carries the winner of the best master algorithm (R222). -/
def State.ptpSyncs (s : State) (port : Nat) : Bool :=
  s.ptpListens port && s.time.gm.isSome && decide (s.rd Reg.TIME_STATUS_PTP_PORT = port)

/-- A Sync of the master's port has given an offset: it is noted in TIME_OFFSET, saturating (R223, R234). -/
def State.noteOffset (s : State) (off : Int) : State :=
  { s with time := { s.time with lastSync := some s.time.mono } }.setReg Reg.TIME_OFFSET
    (BitVec.ofInt 32 (clampInt (-2147483648) 2147483647 off))

/-- The interval between the two latest Syncs, in ns of TIME_MONO (R224; DESIGN CHOICE, log entry 18); 0 when there is only one. -/
def State.syncInterval (s : State) : Nat :=
  match s.time.lastSync with
  | some t => s.time.mono - t
  | none => 0

/-- PTP_SYNC (R221, R223 to R225): a Sync of the configured domain, with its Follow_Up where needed: offset = (t2 − t1) − mean path
delay − correction. -/
def execPtpSync (port domain : Nat) (t1 t2 correction : Int) (s : State) : Host.Outcome State Fault Refusal :=
  if s.ptpSyncs port = true ∧ domain = s.rd Reg.TIME_CTRL_DOMAIN then
    let off : Int := (t2 - t1) - s.time.meanDelay - correction
    let s2 := s.noteOffset off
    .next (if s2.rd Reg.TIME_CTRL_SERVO_EN = 1 then s2.servoOffset off s.syncInterval else s2)
  else .next s

/-- PTP_DELAY_RESP (R221, R223): the mean path delay is the mean of the last 8 exchanges. -/
def execPtpDelayResp (port domain : Nat) (delay : Int) (s : State) : Host.Outcome State Fault Refusal :=
  if s.ptpSyncs port = true ∧ domain = s.rd Reg.TIME_CTRL_DOMAIN then
    let l := (delay :: s.time.delays).take 8
    let mean := rneDiv (l.foldl (· + ·) 0) l.length
    .next ({ s with time := { s.time with delays := l, meanDelay := mean } }.setReg Reg.TIME_PATH_DELAY (BitVec.ofInt 32 mean))
  else .next s

/-- DELAY_REQ_TIMER (R223, R233). -/
def execDelayReqTimer (port : Nat) (s : State) : Host.Outcome State Fault Refusal :=
  if s.ptpSyncs port = true then
    .next (s.post (.delayReq port (s.reg (Reg.NET_PORT_IPV4 port)) (s.rd (Reg.NET_PORT_CFG_VLAN_ID port)) (s.rd (Reg.NET_PORT_CFG_PTP_DSCP port))))
  else .next s

/-- SERVO_HOLDOVER (R225): RATE freezes at the mean of its last 16 values. -/
def execServoHoldover (s : State) : Host.Outcome State Fault Refusal :=
  match s.time.lastSync with
  | some t =>
    if (s.servo = 1 ∨ s.servo = 2) ∧ t + s.rd Reg.TIME_SERVO_HOLD_HOLDOVER_MS * 10 ^ 6 ≤ s.time.mono then
      let l := s.time.rates
      let s1 := if l.isEmpty then s else s.setRate (BitVec.ofInt 32 (rneDiv (l.foldl (· + ·) 0) l.length))
      .next ((s1.timeErr 0x030A).toServo 3)
    else .next s
  | none => .next s

/-! ### Pulse outputs and event inputs -/

/-- TP_OUT_ARM (R226, R227): TIME_TPO_CFG is written with ARM 1; in the tick of a step the arm is evaluated after it. -/
def execTpOutArm (out : Nat) (w : BitVec 32) (s : State) : Host.Outcome State Fault Refusal := s.bar (Reg.TIME_TPO_CFG out) fun s =>
  let a := Reg.TIME_TPO_CFG out
  let flags := bitsOf (s.reg a).toNat 0 2 &&& (3 - bitsOf w.toNat 0 2)
  let s1 := s.setReg a (BitVec.ofNat 32 (packBits [(27, 5, w.toNat >>> 27), (0, 2, flags)]))
  if s1.time.step.isSome then
    .next { s1.setTpoNext out none with time := { (s1.setTpoNext out none).time with arms := s1.time.arms.erase out ++ [out] } }
  else .next (s1.armNow out)

/-- TIME_TPO_CFG written with ARM 0: the output is off. -/
def State.tpOutOff (s : State) (out : Nat) (w : BitVec 32) : State :=
  let a := Reg.TIME_TPO_CFG out
  let flags := bitsOf (s.reg a).toNat 0 2 &&& (3 - bitsOf w.toNat 0 2)
  (s.setReg a (BitVec.ofNat 32 (packBits [(27, 5, w.toNat >>> 27), (0, 2, flags)]))).setTpoNext out none

/-- An output is held inactive (R228). -/
def State.tpGated (s : State) (out : Nat) : Bool := s.rd (Reg.TIME_TPO_CFG_GATE_LOCK out) == 1 && s.servo != 2

/-- The level of TP_OUT[k] (R226, R228): low in reset and unpowered whatever POLARITY; else active for WIDTH from a pulse, as far as the
output is not gated. -/
def State.tpLevel (s : State) (out : Nat) : Bool :=
  if s.held || !s.pwr.pwrGood then false
  else
    let active := decide (s.time.mono < tget (fun _ => 0) s.time.pulseEnd out) && !s.tpGated out
    active == (s.rd (Reg.TIME_TPO_CFG_POLARITY out) == 0)

/-- TP_OUT_PULSE (R226 to R228): the clock reached the pulse time; with GATE_LOCK the output stays inactive unless the
servo is LOCKED, and in reset it is low (R228, R699). -/
def execTpOutPulse (out : Nat) (s : State) : Host.Outcome State Fault Refusal :=
  match s.tpoNext out with
  | none => .next s
  | some t =>
    if s.clockNs < t then .next s
    else
      let width := (s.reg (Reg.TIME_TPO_WIDTH out)).toNat
      let s0 : State := { s with time := { s.time with pulseEnd := tset (fun _ => 0) s.time.pulseEnd out (s.time.mono + width) } }
      let s1 := if s.held = true ∨ s.tpGated out = true then s0
        else s0.post (.pulse out (s.rd (Reg.TIME_TPO_CFG_POLARITY out) == 0) width)
      if s.rd (Reg.TIME_TPO_CFG_MODE out) = 2 then
        .next (s1.setTpoNext out (some (t + (s.reg (Reg.TIME_TPO_PERIOD out)).toNat)))
      else .next ((s1.wr (Reg.TIME_TPO_CFG_ARM out) 0).setTpoNext out none)

/-- A waiting TIME pennant of an edge (R229). -/
def edgePn (p : Pn) : Bool := p.ty == 0x14 && (bitsOf p.body 120 8 == 1 || bitsOf p.body 120 8 == 2)

/-- Edges whose TIME pennant still waits (R229). -/
def State.edgeQueue (s : State) : Nat :=
  ((s.pring (s.rd Reg.HIF_SVC_PRING_PRING)).ready.filter edgePn).length + (s.hif.svcQueue.filter edgePn).length

/-- The level of an input has held long enough after an edge `ago` ns ago to count, and, with FILT 0, the edge is no closer than 10 ns to
the one before (R229). -/
def State.edgeCounts (s : State) (input ago : Nat) : Bool :=
  let filt := s.rd (Reg.TIME_TPI_CFG_FILT input)
  if filt = 0 then
    match tget (fun _ => none) s.time.lastEdge input with
    | some t => decide (t + 10 ≤ s.time.mono - ago)
    | none => true
  else decide (40 * filt ≤ ago)

/-- TP_IN_EDGE (R229): an edge that crossed the ball `ago` ns ago, and whose level has held since, passes the filter if EDGE selects it;
it is stamped with the time at which it crossed the ball, and queued as a TIME pennant. -/
def execTpInEdge (input : Nat) (rising : Bool) (ago : Nat) (s : State) : Host.Outcome State Fault Refusal :=
  let e := s.rd (Reg.TIME_TPI_CFG_EDGE input)
  if input < 2 ∧ s.rd (Reg.TIME_TPI_CFG_ENABLE input) = 1 ∧ (e = 3 ∨ (e = 1 ∧ rising = true) ∨ (e = 2 ∧ rising = false)) ∧
      s.edgeCounts input ago = true then
    let t := s.clockNs - ago
    let sec := t / 10 ^ 9
    let s0 : State := { s with time := { s.time with lastEdge := tset (fun _ => none) s.time.lastEdge input (some (s.time.mono - ago)) } }
    let s1 := ((s0.wr64 (Reg.TIME_TPI_SEC_LO input) (Reg.TIME_TPI_SEC_HI input) sec).setReg (Reg.TIME_TPI_NS input)
      (BitVec.ofNat 32 (t % 10 ^ 9))).bump (Reg.TIME_TPI_COUNT_COUNT input)
    if 16 ≤ s.edgeQueue then .next ((s1.bump (Reg.TIME_TPI_OVERRUN_COUNT input)).timeErr 0x030B)
    else .next (s1.timePn (1 + input) { sec := sec % 2 ^ 48, ns := t % 10 ^ 9, sub := 0 })
  else .next s

/-- STATUS_PERIOD_TIMER (R230). -/
def execStatusPeriodTimer (s : State) : Host.Outcome State Fault Refusal :=
  let p := s.rd Reg.TIME_CTRL_STATUS_PERIOD * 10 ^ 6
  if p ≠ 0 ∧ s.time.lastStatus + p ≤ s.time.mono then
    .next ({ s with time := { s.time with lastStatus := s.time.mono / p * p } }.timePn 0 s.now)
  else .next s

end Sys2Proof.Machine
end

