-- ==== Sys2Proof/Machine/Net.lean ====
section
/-! DEFINITION. Ethernet ingest (R190 to R215): ports, flows, the merge of two paths, frames and their stamps. -/

set_option Elab.async false

namespace Sys2Proof.Machine

/-! ### Records -/

/-- Record a code of class 0x03 in NET_ERR under flow, 32 + port, or 63 (R233, R235). -/
def State.netErr (s : State) (code wh : Nat) (d0 d1 : Nat := 0) : State :=
  let s1 := if wh < 32 then s.setErr (Reg.NET_FLOW_ERR wh) false (0, 0, 0) code else s
  (s1.setErr Reg.NET_ERR true (16, 6, wh) code).file .net wh code d0 d1

def State.ethPort (s : State) (p : Nat) : EthPort := tget (fun _ => {}) s.net.ports p
def State.setEthPort (s : State) (p : Nat) (x : EthPort) : State :=
  { s with net := { s.net with ports := tset (fun _ => {}) s.net.ports p x } }

/-- STATE of a flow, and its stream when it is bound (R197). -/
def State.flowSt (s : State) (f : Nat) : Nat := s.rd (Reg.NET_FLOW_STATUS_STATE f)
def State.flowStream (s : State) (f : Nat) : Option Nat :=
  if s.rd (Reg.NET_FLOW_STATUS_BOUND f) = 1 then some (s.rd (Reg.NET_FLOW_STATUS_STREAM f)) else none

/-- A counter of the stream bound to a flow (R232). -/
def State.flowCnt (s : State) (f id : Nat) (n : Nat := 1) : State :=
  match s.flowStream f with
  | some st => if n = 0 then s else s.cnt id (s.scope st) n
  | none => s

/-- An ERROR of a flow on its stream's ERR_PRING (R204, R235). -/
def State.flowError (s : State) (f code d1 : Nat) : State :=
  match s.flowStream f with
  | some st => s.sendTo (s.errPring st)
      { ty := 0x12, stream := st, svc := (match (s.stream st).bind with | some b => b.svc | none => 0), ct := s.now,
        stn := 2, err := code, body := errBody none f d1 }
  | none => s

/-! ### Ports -/

/-- Healthy lanes as NET_PORT_STATUS.LANES_OK (R191). -/
def EthPort.lanesOk (x : EthPort) : Nat :=
  sumNat (((List.range 4).filter (fun l => !x.lanesBad.contains l)).map (fun l => 2 ^ l))

/-- Number of healthy lanes. -/
def EthPort.nOk (x : EthPort) : Nat := ((List.range 4).filter (fun l => !x.lanesBad.contains l)).length

/-- Lanes of a mode bit (R190). -/
def modeLanes (m : Nat) : Nat := if m = 0 then 1 else if m = 1 then 2 else 4

/-- Modes that a port advertises: enabled, and carried by its healthy lanes (R190, R191). -/
def State.advertised (s : State) (p : Nat) : List Nat :=
  (List.range 3).filter (fun m => bitsOf (s.rd (Reg.NET_PORT_CFG_MODES p)) m 1 == 1 && decide (modeLanes m ≤ (s.ethPort p).nOk))

/-- Flows with a path on a port lose that path (R235 NET_LINK). -/
def State.portPathsDown (s : State) (p : Nat) : State :=
  (List.range 32).foldl (fun s f =>
    let x := s.flow f
    let a := s.rd (Reg.NET_FLOW_CFG_PORT_A f) = p
    let b := s.rd (Reg.NET_FLOW_CFG_MERGE f) = 1 ∧ s.rd (Reg.NET_FLOW_CFG_PORT_B f) = p
    if s.flowSt f = 0 ∨ ¬(a ∨ b) then s
    else
      let s1 := s.setFlow f { x with pathA := if a then { x.pathA with down := true } else x.pathA
                                     pathB := if b then { x.pathB with down := true } else x.pathB }
      let s2 := if a then s1.wr (Reg.NET_FLOW_STATUS_PATH_A_UP f) 0 else s1
      let s3 := if b then s2.wr (Reg.NET_FLOW_STATUS_PATH_B_UP f) 0 else s2
      if s3.flowSt f = 2 ∧ s3.rd (Reg.NET_FLOW_CFG_MERGE f) = 1 then s3.wr (Reg.NET_FLOW_STATUS_STATE f) 3 else s3) s

/-- The link of a port goes down. -/
def State.linkDown (s : State) (p : Nat) : State :=
  let s1 := ((s.wr (Reg.NET_PORT_STATUS_LINK_UP p) 0).wr (Reg.NET_PORT_STATUS_MODE p) 0).wr (Reg.NET_PORT_STATUS_TS_HW p) 0
  (s1.setEthPort p { s1.ethPort p with inUse := 0 }).portPathsDown p

/-- NET_LINK: recorded, with an ERROR on the service ring (R191, R235). -/
def State.netLink (s : State) (p : Nat) : State :=
  let l := (s.ethPort p).lanesOk
  (s.netErr 0x0302 (32 + p) p l).devError 0x0302 p l 2 p

/-- An IGMPv3 report of a port, when IGMP_EN is 1 (R193). -/
def State.igmpReport (s : State) (p : Nat) (group source : BitVec 32) (join : Bool) : State :=
  if s.rd (Reg.NET_PORT_CFG_IGMP_EN p) = 1 then
    s.post (.igmp p (s.reg (Reg.NET_PORT_IPV4 p)) (s.rd (Reg.NET_PORT_CFG_VLAN_ID p)) group source join)
  else s

/-- The PTP group 224.0.1.129 (R193). -/
def ptpGroup : BitVec 32 := 0xE0000181

/-- A write of NET_PORT_CFG (R190, R193): MODES only while ENABLE is 0. -/
def execNetPortEnable (port : Nat) (w : BitVec 32) (s : State) : Host.Outcome State Fault Refusal := s.bar (Reg.NET_PORT_CFG port) fun s =>
  let on := s.rd (Reg.NET_PORT_CFG_ENABLE port)
  let ptp := s.rd (Reg.NET_PORT_CFG_PTP_EN port)
  let v := w.toNat
  let modes := s.rd (Reg.NET_PORT_CFG_MODES port)
  let s1 := [Reg.NET_PORT_CFG_ENABLE port, Reg.NET_PORT_CFG_FORCE_SW port, Reg.NET_PORT_CFG_PTP_EN port,
    Reg.NET_PORT_CFG_IGMP_EN port, Reg.NET_PORT_CFG_VLAN_ID port, Reg.NET_PORT_CFG_PTP_DSCP port].foldl
    (fun (s : State) f => s.wr f (bitsOf v f.lo f.w)) s
  let s2 := if on = 0 then s1.wr (Reg.NET_PORT_CFG_MODES port) (bitsOf v 0 3)
    else if bitsOf v 0 3 ≠ modes then s1.netErr 0x0301 (32 + port) else s1
  let ptp' := bitsOf v 29 1
  let s3 := if ptp = ptp' then s2 else (s2.igmpReport port ptpGroup 0 (ptp' == 1)).runBmca
  let on' := bitsOf v 31 1
  let x := s3.ethPort port
  if on = 0 ∧ on' = 1 then
    .next ((s3.setEthPort port { x with negotiating := true }).wr (Reg.NET_PORT_STATUS_LANES_OK port) x.lanesOk)
  else if on = 1 ∧ on' = 0 then .next ((s3.setEthPort port { x with negotiating := false }).linkDown port)
  else .next s3

/-- AUTONEG_COMPLETE (R190, R191): the first mode in order that both sides enable; with none the port stays down with
NET_LINK. -/
def execAutonegComplete (port : Nat) (partner : Nat) (s : State) : Host.Outcome State Fault Refusal :=
  let x := s.ethPort port
  if x.negotiating then
    match (s.advertised port).find? (fun m => bitsOf partner m 1 == 1) with
    | some m =>
      let lanes := ((List.range 4).filter (fun l => !x.lanesBad.contains l)).take (modeLanes m)
      let s1 := s.setEthPort port { x with negotiating := false, inUse := sumNat (lanes.map (2 ^ ·)) }
      .next (((s1.wr (Reg.NET_PORT_STATUS_LINK_UP port) 1).wr (Reg.NET_PORT_STATUS_MODE port) (m + 1)).wr
        (Reg.NET_PORT_STATUS_TS_HW port) 0)
    | none => .next (s.netLink port)
  else .next s

/-- NET_LANE_FAILURE (R191). -/
def execNetLaneFailure (port lane : Nat) (s : State) : Host.Outcome State Fault Refusal :=
  let x := s.ethPort port
  if x.lanesBad.contains lane then .next s
  else
    let y := { x with lanesBad := lane :: x.lanesBad }
    let s1 := (s.setEthPort port y).wr (Reg.NET_PORT_STATUS_LANES_OK port) y.lanesOk
    if bitsOf x.inUse lane 1 = 1 then
      .next (((s1.setEthPort port { y with negotiating := true }).linkDown port).netLink port)
    else .next s1

/-- NET_LINK_LOST (R191, R235): the port goes down and negotiates again. -/
def execNetLinkLost (port : Nat) (s : State) : Host.Outcome State Fault Refusal :=
  if s.rd (Reg.NET_PORT_STATUS_LINK_UP port) = 1 then
    .next (((s.setEthPort port { s.ethPort port with negotiating := true }).linkDown port).netLink port)
  else .next s

/-- LATENCY_CALIBRATION_DONE (R212): the port stamps in hardware; during a firmware recovery reset only once the stamping units are
re-armed. -/
def execLatencyCalibrationDone (port lat : Nat) (s : State) : Host.Outcome State Fault Refusal :=
  if s.rd (Reg.NET_PORT_STATUS_LINK_UP port) = 1 then
    let s1 := s.wr (Reg.NET_PORT_TS_LAT_LAT port) lat
    if s.pwr.inReset = some .fw then
      .next (if s.pwr.tsHeld.contains port then s1 else { s1 with pwr := { s1.pwr with tsHeld := port :: s1.pwr.tsHeld } })
    else .next (s1.wr (Reg.NET_PORT_STATUS_TS_HW port) 1)
  else .next s

/-! ### Flows -/

/-- Paths of a flow: path A, and path B when MERGE is 1: (on B, port, destination, UDP port, source). -/
def State.paths (s : State) (f : Nat) : List (Bool × Nat × BitVec 32 × Nat × BitVec 32) :=
  (false, s.rd (Reg.NET_FLOW_CFG_PORT_A f), s.reg (Reg.NET_FLOW_DST_A f), s.rd (Reg.NET_FLOW_UDP_UDP_A f),
    s.reg (Reg.NET_FLOW_SRC_A f)) ::
  (if s.rd (Reg.NET_FLOW_CFG_MERGE f) = 1 then
    [(true, s.rd (Reg.NET_FLOW_CFG_PORT_B f), s.reg (Reg.NET_FLOW_DST_B f), s.rd (Reg.NET_FLOW_UDP_UDP_B f),
      s.reg (Reg.NET_FLOW_SRC_B f))] else [])

/-- An IPv4 multicast address: 224.0.0.0 to 239.255.255.255. -/
def isMulticast (a : BitVec 32) : Bool := a.toNat / 2 ^ 28 == 14

/-- Two paths collide (R196). -/
def samePath (a b : Bool × Nat × BitVec 32 × Nat × BitVec 32) : Bool :=
  a.2.1 == b.2.1 && a.2.2.1 == b.2.2.1 && a.2.2.2.1 == b.2.2.2.1

/-- The enable of a flow passes the checks of R196. -/
def State.flowOk (s : State) (f : Nat) : Bool :=
  let own := s.paths f
  let others := ((List.range 32).filter (fun g => g != f && s.flowSt g != 0)).flatMap s.paths
  own.all (fun p => (isMulticast p.2.2.1 || p.2.2.1 == s.reg (Reg.NET_PORT_IPV4 p.2.1)) && !others.any (samePath p)) &&
    (match own with
     | [a, b] => !samePath a b
     | _ => true)

/-- Report a path's group: join or leave (R193); a unicast destination has no group. -/
def State.reportPath (join : Bool) (s : State) (p : Bool × Nat × BitVec 32 × Nat × BitVec 32) : State :=
  if isMulticast p.2.2.1 then s.igmpReport p.2.1 p.2.2.1 p.2.2.2.2 join else s

/-- The fields of NET_FLOW_CFG but ENABLE. -/
def flowFields (f : Nat) : List RegField :=
  [Reg.NET_FLOW_CFG_MERGE f, Reg.NET_FLOW_CFG_PORT_A f, Reg.NET_FLOW_CFG_PORT_B f, Reg.NET_FLOW_CFG_PAYLOAD f,
   Reg.NET_FLOW_CFG_PT_CHECK f, Reg.NET_FLOW_CFG_PT f, Reg.NET_FLOW_CFG_MERGE_WIN f]

/-- Fields of NET_FLOW_CFG other than ENABLE: stored while DISABLED, else discarded with NET_CFG (R196). -/
def State.flowCfg (s : State) (f : Nat) (w : BitVec 32) : State :=
  if s.flowSt f = 0 then (flowFields f).foldl (fun (s : State) r => s.wr r (bitsOf w.toNat r.lo r.w)) s
  else if (flowFields f).any (fun r => s.rd r != bitsOf w.toNat r.lo r.w) then s.netErr 0x0301 f
  else s

/-- The flow waits for its first packet; each path joins its group (R193, R198, R200). -/
def State.flowStart (s : State) (f : Nat) : State :=
  let s1 := (s.wr (Reg.NET_FLOW_CFG_ENABLE f) 1).wr (Reg.NET_FLOW_STATUS_STATE f) 1
  let t := s1.time.mono
  let s2 := s1.setFlow f { discont := true, report2 := (s1.paths f).map (fun p => (p.1, t)), pathA := { lastAt := t }, pathB := { lastAt := t } }
  (s2.paths f).foldl (State.reportPath true) s2

/-- The frame in reassembly of a flow: stream and FRAME_SEQ. -/
def State.openFrame (s : State) (f : Nat) : Option (Nat × Nat) :=
  match s.flowStream f, (s.flow f).cur with
  | some st, some (_, some n) => some (st, n)
  | _, _ => none

/-- Change the frame of a stream with a FRAME_SEQ. -/
def State.updFrame (s : State) (st n : Nat) (g : Frame → Frame) : State :=
  let x := s.stream st
  s.setStream st { x with frames := updFirst (fun q => q.seq == n) g x.frames }

/-- Bytes of a part: ST 2110-20 samples in the packed form of R157, 4:2:2 at 10 bits taking 5 B for 2 luma samples (R209). -/
def partBytes (payload : Nat) (p : RtpPart) : Nat := if payload = 0 then cdiv (5 * p.len) 2 else p.len

/-- Bytes of the slices or NAL units that arrived whole: from a first part, over consecutive packets, to a last one (R209).  `run` is
the unit under way: the number of the packet of its latest part, and its bytes. -/
def wholeBytes (run : Option (Nat × Nat)) (sum : Nat) : List (Nat × RtpPart) → Nat
  | [] => sum
  | (n, p) :: t =>
    let r := if p.first then some (n, p.len) else match run with
      | some (m, b) => if n = m ∨ n = m + 1 then some (n, b + p.len) else none
      | none => none
    if p.last then wholeBytes none (sum + (match r with | some (_, b) => b | none => 0)) t else wholeBytes r sum t

/-- A luma line's samples arrived whole (R209). -/
def lineWhole (width : Nat) (parts : List (Nat × RtpPart)) (line : Nat) : Bool :=
  let mine := parts.filter (fun q => q.2.unit == line)
  decide (width ≤ mine.foldl (fun (reach : Nat) q => if q.2.off ≤ reach then max reach (q.2.off + q.2.len) else reach) 0)

/-- What a closed frame hands to DEC: the units that arrived whole, in order, or the whole lines (R209). -/
def State.handOver (s : State) (f : Nat) (q : Frame) : Frame :=
  let l := sortBy (fun (a b : Nat × RtpPart) => decide (a.1 ≤ b.1)) q.parts
  if s.rd (Reg.NET_FLOW_CFG_PAYLOAD f) = 0 then
    let w := s.rd (Reg.NET_FLOW_DIMS_WIDTH f)
    let byOff := sortBy (fun (a b : Nat × RtpPart) => decide (a.2.off ≤ b.2.off)) l
    { q with ready := true, lines := (List.range (s.rd (Reg.NET_FLOW_DIMS_HEIGHT f))).filter (lineWhole w byOff) }
  else { q with ready := true, bytes := if q.oversize then 0 else wholeBytes none 0 l }

/-- The frame in reassembly closes and is handed to DEC (R205, R209). -/
def State.closeFrame (s : State) (f : Nat) : State :=
  let x := s.flow f
  match x.cur with
  | none => s
  | some (ts, n) =>
    let s1 := s.setFlow f { x with cur := none, closedTs := (ts :: x.closedTs).take 256 }
    match s1.flowStream f, n with
    | some st, some n => s1.updFrame st n (s1.handOver f)
    | _, _ => s1

/-- FLOW_ENABLE (R196, R198): NET_FLOW_CFG written with ENABLE 1. -/
def execFlowEnable (flow : Nat) (w : BitVec 32) (s : State) : Host.Outcome State Fault Refusal := s.bar (Reg.NET_FLOW_CFG flow) fun s =>
  let s1 := s.flowCfg flow w
  let st := s1.flowSt flow
  if st = 0 then
    if s1.flowOk flow = true then .next (s1.flowStart flow) else .next (s1.netErr 0x0301 flow)
  else if st = 5 then .next ((s1.wr (Reg.NET_FLOW_CFG_ENABLE flow) 1).wr (Reg.NET_FLOW_STATUS_STATE flow) 6)
  else .next s1

/-- FLOW_DISABLE (R193, R198): the frame in reassembly closes, the groups are left. -/
def execFlowDisable (flow : Nat) (w : BitVec 32) (s : State) : Host.Outcome State Fault Refusal := s.bar (Reg.NET_FLOW_CFG flow) fun s =>
  let s1 := (s.flowCfg flow w).wr (Reg.NET_FLOW_CFG_ENABLE flow) 0
  let st := s1.flowSt flow
  if 1 ≤ st ∧ st ≤ 4 then
    let s2 := s1.closeFrame flow
    let s3 := (s2.paths flow).foldl (State.reportPath false) s2
    .next ((s3.setFlow flow { s3.flow flow with report2 := [] }).wr (Reg.NET_FLOW_STATUS_STATE flow) 5)
  else if st = 6 then .next (s1.wr (Reg.NET_FLOW_STATUS_STATE flow) 5)
  else .next s1

/-- FLOW_LEHR_END (R198). -/
def execFlowLehrEnd (flow : Nat) (s : State) : Host.Outcome State Fault Refusal :=
  let down := (s.wr (Reg.NET_FLOW_STATUS_PATH_A_UP flow) 0).wr (Reg.NET_FLOW_STATUS_PATH_B_UP flow) 0
  if s.flowSt flow = 5 then .next (down.wr (Reg.NET_FLOW_STATUS_STATE flow) 0)
  else if s.flowSt flow = 6 then .next (down.flowStart flow)
  else .next s

/-- IGMP_REPORT_TIMER (R193): the second unsolicited report of a path, 1 s after the first. -/
def execIgmpReportTimer (flow : Nat) (pathB : Bool) (s : State) : Host.Outcome State Fault Refusal :=
  let x := s.flow flow
  if x.report2.any (fun q => q.1 == pathB && decide (q.2 + 10 ^ 9 ≤ s.time.mono)) then
    let s1 := s.setFlow flow { x with report2 := x.report2.filter (fun q => q.1 != pathB) }
    .next (((s1.paths flow).filter (fun p => p.1 == pathB)).foldl (State.reportPath true) s1)
  else .next s

/-! ### Frames -/

/-- A 16-bit or 32-bit value extended to the number nearest a reference (R206).  Of two numbers equally near, the one with the
reference's high bits is taken (DESIGN CHOICE, log entry 22). -/
def extendNear (bits ref v : Nat) : Nat :=
  let m := 2 ^ bits
  let base := ref / m * m + v % m
  if base + m / 2 < ref then base + m
  else if ref + m / 2 < base ∧ m ≤ base then base - m
  else base

/-- The port stamps in software (R212). -/
def State.swStamps (s : State) (p : Nat) : Bool :=
  s.rd (Reg.NET_PORT_STATUS_TS_HW p) == 0 || s.rd (Reg.NET_PORT_CFG_FORCE_SW p) == 1

/-- Frames lost wholly on the wire before a frame that opens `d` ticks after the previous one (R207). -/
def framesLost (ticks d : Nat) : Nat := if ticks = 0 then 0 else (2 * d + ticks) / (2 * ticks) - 1

/-- RTP ticks from one timestamp to a later one; 0 when the second is the older (R207). -/
def ticksAfter (a b : Nat) : Nat := if seqBefore a b then (b + 2 ^ 32 - a) % 2 ^ 32 else 0

/-- The stamp of a packet at a port (R210, R212): the device time less the port's receive latency in 1/16 ns, or in software stamping the
device time without a sub-nanosecond class. -/
def State.stampAt (s : State) (p : Nat) : Stamp :=
  if s.swStamps p then { s.now with sub := 0 }
  else
    let t := s.time.setTotal (s.time.total - s.rd (Reg.NET_PORT_TS_LAT_LAT p) * 2 ^ 60)
    { sec := t.sec % 2 ^ 48, ns := t.ns, sub := t.frac / 2 ^ 62 }

/-- A frame of flow `f` opens with RTP timestamp `ts` at port `p` (R151, R205 to R207, R210 to R212). -/
def State.frameOpen (s : State) (f p ts : Nat) : State :=
  let x := s.flow f
  let pts := match x.lastPts with | some q => extendNear 32 q ts | none => ts
  let lost := match x.lastTs with
    | some t => framesLost (s.reg (Reg.NET_FLOW_TICKS f)).toNat (ticksAfter t ts)
    | none => 0
  let s1 := (s.flowCnt f 0x0300).flowCnt f 0x0302 lost
  let x1 := { x with lastTs := some ts, lastPts := some pts }
  match s1.flowStream f with
  | none => s1
  | some st =>
    match (s1.stream st).bind with
    | none => (s1.flowCnt f 0x030E).setFlow f { x1 with cur := some (ts, none) }
    | some b =>
      if s1.strm st = 1 ∨ s1.strm st = 5 ∧ (s1.stream st).prior = 1 then
        let sw := s1.swStamps p
        let fr : Frame := { seq := 0, au := none, ct := s1.stampAt p
                            mono := s1.time.mono, pts := pts, flags := if sw then 8 else 0, discont := x.discont, bind := b }
        let n := (s1.stream st).nextFrame
        let s2 := s1.takeFrame st fr none (s1.stream st).openJob (s1.stream st).openName
        let s3 := s2.setFlow f { x1 with cur := some (ts, some n), discont := false
                                         swWait := if sw then x1.swWait ++ [(st, n)] else x1.swWait }
        if sw then s3.flowCnt f 0x030C else s3
      else s1.setFlow f { x1 with cur := some (ts, none) }

/-- NET's class for reassembly: the frame takes buffers of 256 KiB as it grows (R208, R569). -/
def netClass : Nat := 5

/-- The parts of packet `k` are placed in the frame of stream `st` (R208, R209). -/
def State.placeParts (s : State) (f st n k : Nat) (parts : List RtpPart) : State :=
  let bytes := sumNat (parts.map (partBytes (s.rd (Reg.NET_FLOW_CFG_PAYLOAD f))))
  match (s.stream st).frames.find? (fun q => q.seq == n) with
  | none => s
  | some q =>
    if q.oversize then s.updFrame st n (fun q => { q with bytes := q.bytes + bytes })
    else if s.auMax st < q.bytes + bytes then
      let s1 := ((s.freeFrame q).flowCnt f 0x030A).netErr 0x0306 f
      s1.updFrame st n (fun q => { q with oversize := true, bufs := none, bytes := q.bytes + bytes, parts := [] })
    else
      let have_ := match q.bufs with | some (_, l) => l | none => []
      let need := cdiv (q.bytes + bytes) (poolSize netClass) - have_.length
      let put := fun (s : State) (l : List Nat) => s.updFrame st n (fun q =>
        { q with bytes := q.bytes + bytes, bufs := some (netClass, have_ ++ l), parts := q.parts ++ parts.map (fun p => (k, p)) })
      if need = 0 then put s []
      else
        match s.draw 3 netClass need q.bind.svc s.ticketNow true with
        | (s1, some l) => put s1 l
        | (s1, none) => (s1.flowCnt f 0x030B).netErr 0x0307 f

/-- A payload error: the packet is discarded (R199, R200). -/
def State.payloadError (s : State) (f : Nat) : State := (s.flowCnt f 0x030D).netErr 0x0305 f

/-- The payload is outside what R199 supports. -/
def State.payloadBad (s : State) (f : Nat) (r : RtpPkt) : Bool :=
  r.parts.any (fun p => !p.ok) || (s.rd (Reg.NET_FLOW_CFG_PAYLOAD f) == 0 && decide (3 < r.parts.length))

/-- A JPEG XS packet out of slice order is treated as lost (R199). -/
def State.outOfOrder (s : State) (f st n : Nat) (r : RtpPkt) : Bool :=
  s.rd (Reg.NET_FLOW_CFG_PAYLOAD f) == 1 &&
    (match (s.stream st).frames.find? (fun q => q.seq == n) with
     | some q => r.parts.any (fun p => q.parts.any (fun b => decide (p.unit < b.2.unit)))
     | none => false)

/-- A merged packet, number `k`, joins its frame (R205, R209). -/
def State.packetIn (s : State) (f p k : Nat) (onB : Bool) (r : RtpPkt) : State :=
  let x := s.flow f
  let frameOpen := fun (s : State) =>
    let s1 := s.frameOpen f p r.ts
    s1.setFlow f { s1.flow f with opener := (k, onB) }
  let add := fun (s : State) =>
    let s1 := match s.openFrame f with
      | some (st, n) => if s.outOfOrder f st n r then s.payloadError f else s.placeParts f st n k r.parts
      | none => s
    if r.marker then s1.closeFrame f else s1
  if x.closedTs.contains r.ts then s.flowCnt f 0x0309
  else
    match x.cur with
    | some (ts, _) =>
      if ts = r.ts then add s
      else if seqBefore ts r.ts then add (frameOpen (s.closeFrame f))
      else s.flowCnt f 0x0309
    | none => add (frameOpen s)

/-- FRAME_STALE_CLOSE (R205, R215): the frame's age passes its bound; it is dropped at once, and DEC decodes it for
reference only if a later picture may use it (R170). -/
def execFrameStaleClose (flow : Nat) (s : State) : Host.Outcome State Fault Refusal :=
  match s.openFrame flow with
  | none => .next s
  | some (st, n) =>
    match (s.stream st).frames.find? (fun q => q.seq == n) with
    | none => .next s
    | some q =>
      if s.staleBound st < s.time.mono - q.mono then
        let s1 := (s.closeFrame flow).updFrame st n (fun q => { q with stale := true })
        .next (s1.dropLive st q)
      else .next s

/-- A frame of a stream is stamped anew: in its list and in its job. -/
def State.restamp (s : State) (st n : Nat) (t : Stamp) (flags : Nat) : State :=
  let s1 := s.updFrame st n (fun q => { q with ct := t, mono := s.time.mono, flags := flags })
  match s1.frameJob? st n with
  | some j => s1.updJob j.id (fun j => { j with ct := t, flags := (j.flags &&& 0xFF7) ||| flags })
  | none => s1

/-- SW_TIMESTAMP_INTERRUPT (R212): firmware's handler stamps the oldest frame that waits for it, closed or not. -/
def execSwTimestampInterrupt (flow : Nat) (s : State) : Host.Outcome State Fault Refusal :=
  match (s.flow flow).swWait with
  | [] => .next s
  | (st, n) :: t => .next ((s.restamp st n { s.now with sub := 0 } 8).setFlow flow { s.flow flow with swWait := t })

/-! ### Packets -/

def Flow.path (x : Flow) (b : Bool) : Path := if b then x.pathB else x.pathA
def Flow.setPath (x : Flow) (b : Bool) (p : Path) : Flow := if b then { x with pathB := p } else { x with pathA := p }

/-- A path has received a packet: it is up, and the flow's STATE follows (R204, R233). -/
def State.pathUp (s : State) (f : Nat) (b : Bool) : State :=
  let x := s.flow f
  let s1 := s.setFlow f (x.setPath b { x.path b with down := false, lastAt := s.time.mono })
  let s2 := s1.wr (if b then Reg.NET_FLOW_STATUS_PATH_B_UP f else Reg.NET_FLOW_STATUS_PATH_A_UP f) 1
  let one := s.rd (Reg.NET_FLOW_CFG_MERGE f) = 1 ∧ (x.path (!b)).down = true
  s2.wr (Reg.NET_FLOW_STATUS_STATE f) (if one then 3 else 2)

/-- NET_FLOW_SKEW: the mean lead of A over B in µs, signed (R203, R233), rounded to nearest with ties to even (DESIGN CHOICE, log
entry 22). -/
def skewWord (leads : List Int) : Nat :=
  if leads.isEmpty then 0 else unsgn 32 (rneDiv (leads.foldl (· + ·) 0) (1000 * leads.length))

/-- A copy of a number that has arrived on the other path: the lead is measured (R203). -/
def State.noteLead (s : State) (f : Nat) (b : Bool) (n : Nat) : State :=
  let x := s.flow f
  match x.firsts.find? (fun q => q.1 == n && q.2.1 != b) with
  | none => s
  | some q =>
    let d : Int := (s.time.mono : Int) - (q.2.2 : Int)
    let leads := ((if b then d else -d) :: x.leads).take 256
    let s1 := s.setFlow f { x with firsts := x.firsts.filter (fun y => y.1 != n), leads := leads }
    s1.wr (Reg.NET_FLOW_SKEW_SKEW f) (skewWord leads)

/-- Loss of numbers on one path: a higher number has arrived on it (R202). -/
def State.pathSeq (s : State) (f : Nat) (b : Bool) (n : Nat) : State :=
  let x := s.flow f
  let p := x.path b
  match p.high with
  | none => s.setFlow f (x.setPath b { p with high := some n })
  | some h =>
    if h < n then (s.setFlow f (x.setPath b { p with high := some n })).flowCnt f (if b then 0x0307 else 0x0306) (n - h - 1)
    else s

/-- Of two copies that arrive at one moment the copy from path A is kept (R201): a frame that the copy on path B opened is stamped as
path A's port stamps. -/
def State.preferA (s : State) (f p : Nat) (b : Bool) (n : Nat) : State :=
  let x := s.flow f
  if b = false ∧ x.opener = (n, true) ∧ x.firsts.contains (n, true, s.time.mono) then
    match s.openFrame f with
    | some (st, k) =>
      let sw := s.swStamps p
      let s1 := (s.restamp st k (s.stampAt p) (if sw then 8 else 0)).setFlow f { x with
        opener := (n, false), swWait := if sw then x.swWait else x.swWait.erase (st, k) }
      if sw ∧ x.swWait.contains (st, k) = false then (s1.setFlow f { s1.flow f with swWait := x.swWait ++ [(st, k)] }).flowCnt f 0x030C else s1
    | none => s
  else s

/-- The merge of R201 and R202: a duplicate, a late copy, or a packet for the frame. -/
def State.merge (s : State) (f p : Nat) (b : Bool) (r : RtpPkt) : State :=
  let x := s.flow f
  let top := match x.pathA.high, x.pathB.high with
    | some a, some c => some (max a c)
    | some a, none => some a
    | none, o => o
  let n := match top with | some t => extendNear 16 t r.seq | none => 2 ^ 16 + r.seq % 2 ^ 16
  let s1 := s.pathSeq f b n
  let y := s1.flow f
  if y.lost.contains n then s1.flowCnt f 0x0309
  else if y.seen.contains n then ((s1.preferA f p b n).noteLead f b n).flowCnt f 0x0305
  else
    let gap := match top with
      | some t => if t < n then ((List.range (n - t - 1)).map (fun i => (t + 1 + i, s1.time.mono))) else []
      | none => []
    let high := match top with | some t => max t n | none => n
    let z := { y with
      seen := n :: y.seen.filter (fun m => decide (high < m + 32768))
      missing := (y.missing ++ gap).filter (fun m => m.1 != n)
      firsts := if s1.rd (Reg.NET_FLOW_CFG_MERGE f) = 1 then (n, b, s1.time.mono) :: y.firsts.filter (fun q => decide (high < q.1 + 32768)) else [] }
    (s1.setFlow f z).packetIn f p n b r

/-- A packet of a bound flow arrives on a path (R199 to R204). -/
def State.receivePkt (s : State) (f p : Nat) (b : Bool) (r : RtpPkt) : State :=
  let s1 := (s.flowCnt f (if b then 0x0304 else 0x0303)).pathUp f b
  let x := s1.flow f
  let q := x.path b
  if s1.rd (Reg.NET_FLOW_CFG_PT_CHECK f) = 1 ∧ r.pt ≠ s1.rd (Reg.NET_FLOW_CFG_PT f) then s1.payloadError f
  else
    match x.ssrc with
    | some v =>
      if v = r.ssrc then
        let s2 := s1.setFlow f (x.setPath b { q with ssrcAlt := none })
        if s.payloadBad f r then s2.payloadError f else s2.merge f p b r
      else
        let alt := match q.ssrcAlt with
          | some (a, t) => if a = r.ssrc then (a, t) else (r.ssrc, s1.time.mono)
          | none => (r.ssrc, s1.time.mono)
        (s1.setFlow f (x.setPath b { q with ssrcAlt := some alt })).payloadError f
    | none =>
      if s.payloadBad f r then s1.payloadError f else (s1.setFlow f { x with ssrc := some r.ssrc }).merge f p b r

/-- A frame carries the port's tag: VLAN_ID, or none when VLAN_ID is 0; tag 0 is no VLAN (R192, R195, R233; DEDUCED, log entry 22). -/
def State.tagOk (s : State) (port : Nat) (vlan : Option Nat) : Bool := vlan.getD 0 == s.rd (Reg.NET_PORT_CFG_VLAN_ID port)

/-- The flow and path that a packet matches: the lowest flow number, path A before B (R195). -/
def State.matchFlow (s : State) (port : Nat) (dst src : BitVec 32) (udp : Nat) : Option (Nat × Bool) :=
    ((List.range 32).filter (fun f => decide (1 ≤ s.flowSt f ∧ s.flowSt f ≤ 4))).flatMap (fun f =>
      (s.paths f).filterMap (fun p =>
        if p.2.1 = port ∧ p.2.2.1 = dst ∧ p.2.2.2.1 = udp ∧ (p.2.2.2.2 = 0 ∨ p.2.2.2.2 = src) then some (f, p.1) else none))
      |>.head?

/-- An IGMP query is answered with a report for every joined group of the port (R193). -/
def State.answerQuery (s : State) (port : Nat) : State :=
  let s1 := if s.rd (Reg.NET_PORT_CFG_PTP_EN port) = 1 then s.igmpReport port ptpGroup 0 true else s
  (((List.range 32).filter (fun f => decide (1 ≤ s.flowSt f ∧ s.flowSt f ≤ 4))).flatMap s.paths).foldl
    (fun s p => if p.2.1 = port then State.reportPath true s p else s) s1

/-- ETH_FRAME_RECEIVE (R192, R195, R197); nothing is received in a reset or in STOWED (R688, R698). -/
def execEthFrameReceive (port : Nat) (frame : EthFrame) (s : State) : Host.Outcome State Fault Refusal :=
  let discard := s.bump (Reg.NET_PORT_DISCARDS_COUNT port)
  if s.rd (Reg.NET_PORT_STATUS_LINK_UP port) = 0 ∨ s.held = true ∨ s.rd Reg.PWR_STATUS_STATE = 4 then .next s
  else if 9022 < frame.len ∨ frame.fcsOk = false ∨ s.tagOk port frame.vlan = false then .next discard
  else
    match frame.kind with
    | .udp dst src udp rtp =>
      match s.matchFlow port dst src udp with
      | none => .next discard
      | some (f, b) =>
        if (s.flowStream f).isSome then .next (s.receivePkt f port b rtp) else .next (discard.pathUp f b)
    | .ptp domain =>
      if domain = s.rd Reg.TIME_CTRL_DOMAIN then .next s else .next discard
    | .igmpQuery => .next (s.answerQuery port)
    | .other => .next discard

/-! ### Losses, silence and a new SSRC -/

/-- MERGE_WINDOW_EXPIRY (R202): a number missing on both paths for MERGE_WIN µs, 0 acting as 1, is lost for the flow. -/
def execMergeWindowExpiry (flow seq : Nat) (s : State) : Host.Outcome State Fault Refusal :=
  let x := s.flow flow
  let win := max 1 (s.rd (Reg.NET_FLOW_CFG_MERGE_WIN flow)) * 1000
  if x.missing.any (fun m => m.1 == seq && decide (m.2 + win ≤ s.time.mono)) then
    let s1 := s.setFlow flow { x with missing := x.missing.filter (fun m => m.1 != seq), lost := seq :: x.lost }
    .next (s1.flowCnt flow 0x0308)
  else .next s

/-- SSRC_ADOPT (R200): an SSRC that has arrived without interruption for 100 ms is adopted, the merge starts afresh and the next frame
follows DISCONT; the PTS is extended from the previous frame's as before (R206). -/
def execSsrcAdopt (flow : Nat) (pathB : Bool) (s : State) : Host.Outcome State Fault Refusal :=
  match ((s.flow flow).path pathB).ssrcAlt with
  | none => .next s
  | some (v, t) =>
    if s.time.mono < t + 100 * 10 ^ 6 then .next s
    else
      let s1 := s.closeFrame flow
      let x := s1.flow flow
      .next ((s1.setFlow flow { x.afresh with ssrc := some v, lastPts := x.lastPts, swWait := x.swWait }).netErr 0x0308 flow)

/-- PATH_LOSS (R204): the path has received no packet for PATH_LOSS_MS. -/
def execPathLoss (flow : Nat) (pathB : Bool) (s : State) : Host.Outcome State Fault Refusal :=
  let st := s.flowSt flow
  let on := s.rd (Reg.NET_FLOW_SILENT_PATH_LOSS_MS flow) ≠ 0 ∧ 1 ≤ st ∧ st ≤ 3 ∧
    (pathB = false ∨ s.rd (Reg.NET_FLOW_CFG_MERGE flow) = 1) ∧
    ((s.flow flow).path pathB).lastAt + s.rd (Reg.NET_FLOW_SILENT_PATH_LOSS_MS flow) * 10 ^ 6 ≤ s.time.mono
  if on then
    let x := s.flow flow
    let s1 := s.setFlow flow (x.setPath pathB { x.path pathB with down := true })
    let s2 := (s1.wr (if pathB then Reg.NET_FLOW_STATUS_PATH_B_UP flow else Reg.NET_FLOW_STATUS_PATH_A_UP flow) 0).wr
      (Reg.NET_FLOW_STATUS_STATE flow) 3
    let path := if pathB then 1 else 0
    .next ((s2.netErr 0x0303 flow flow path).flowError flow 0x0303 path)
  else .next s

/-- NET_SILENT (R204): no path has received a packet for SILENT_MS. -/
def execNetSilent (flow : Nat) (s : State) : Host.Outcome State Fault Refusal :=
  let st := s.flowSt flow
  let ms := s.rd (Reg.NET_FLOW_SILENT_SILENT_MS flow)
  let x := s.flow flow
  if ms ≠ 0 ∧ 1 ≤ st ∧ st ≤ 3 ∧ (s.paths flow).all (fun p => decide ((x.path p.1).lastAt + ms * 10 ^ 6 ≤ s.time.mono)) = true then
    let s1 := s.setFlow flow { x with pathA := { x.pathA with down := true }, pathB := { x.pathB with down := true } }
    let s2 := ((s1.wr (Reg.NET_FLOW_STATUS_PATH_A_UP flow) 0).wr (Reg.NET_FLOW_STATUS_PATH_B_UP flow) 0).wr
      (Reg.NET_FLOW_STATUS_STATE flow) 4
    .next ((s2.netErr 0x0304 flow flow ms).flowError flow 0x0304 ms)
  else .next s

end Sys2Proof.Machine
end

