-- ==== Sys2Proof/Machine/Sm2.lean ====
section
/-! DEFINITION. The SM2 signature algorithm over SM3 with the default user identifier (R712 to R716), on the curve that its standard
recommends. -/

set_option Elab.async false

namespace Sys2Proof.Machine

/-! ### The curve -/

def sm2P : Nat := 0xFFFFFFFEFFFFFFFFFFFFFFFFFFFFFFFFFFFFFFFF00000000FFFFFFFFFFFFFFFF
def sm2A : Nat := 0xFFFFFFFEFFFFFFFFFFFFFFFFFFFFFFFFFFFFFFFF00000000FFFFFFFFFFFFFFFC
def sm2B : Nat := 0x28E9FA9E9D9F5E344D5A9E4BCF6509A7F39789F515AB8F92DDBCBD414D940E93
def sm2N : Nat := 0xFFFFFFFEFFFFFFFFFFFFFFFFFFFFFFFF7203DF6B21C6052B53BBF40939D54123
def sm2Gx : Nat := 0x32C4AE2C1F1981195F9904466A39C9948FE30BBFF2660BE1715A4589334C74C7
def sm2Gy : Nat := 0xBC3736A2F4F6779C59BDCEE36B692153D0A9877CC62A474002DF32E52139F0A0

/-- `acc` times `b` to the power of the low `fuel` bits of `e`, modulo `m`. -/
def powMod (m : Nat) : Nat → Nat → Nat → Nat → Nat
  | 0, _, _, acc => acc
  | fuel + 1, b, e, acc => powMod m fuel (b * b % m) (e / 2) (if e % 2 = 1 then acc * b % m else acc)

/-- The inverse modulo a prime of 256 bits. -/
def invMod (m x : Nat) : Nat := powMod m 256 (x % m) (m - 2) 1

/-- A point of the curve; none is the point at infinity. -/
abbrev EcPt := Option (Nat × Nat)

/-- A number lies on the curve with another. -/
def onCurve (x y : Nat) : Bool := decide (x < sm2P ∧ y < sm2P) && y * y % sm2P == (x * x * x + sm2A * x + sm2B) % sm2P

/-- The third point of the line with slope `l` through two points, mirrored. -/
def ecThird (l x1 y1 x2 : Nat) : EcPt :=
  let x3 := (l * l + 2 * sm2P - x1 - x2) % sm2P
  some (x3, (l * (x1 + sm2P - x3) + sm2P - y1) % sm2P)

/-- The sum of two points. -/
def ecAdd (u v : EcPt) : EcPt :=
  match u, v with
  | none, v => v
  | u, none => u
  | some (x1, y1), some (x2, y2) =>
    if x1 = x2 then
      if (y1 + y2) % sm2P = 0 then none
      else ecThird ((3 * x1 * x1 + sm2A) * invMod sm2P (2 * y1) % sm2P) x1 y1 x2
    else ecThird ((y2 + sm2P - y1) * invMod sm2P (x2 + sm2P - x1) % sm2P) x1 y1 x2

/-- `acc` plus the multiple of a point by the low `fuel` bits of `k`. -/
def ecMul : Nat → Nat → EcPt → EcPt → EcPt
  | 0, _, _, acc => acc
  | fuel + 1, k, u, acc => ecMul fuel (k / 2) (ecAdd u u) (if k % 2 = 1 then ecAdd acc u else acc)

def ecG : EcPt := some (sm2Gx, sm2Gy)

/-- The public key of a private key. -/
def sm2Public (d : Nat) : Nat × Nat := (ecMul 256 d ecG none).getD (0, 0)

/-! ### Signatures -/

/-- The 16-byte default user identifier. -/
def sm2Id : List Nat := [0x31, 0x32, 0x33, 0x34, 0x35, 0x36, 0x37, 0x38, 0x31, 0x32, 0x33, 0x34, 0x35, 0x36, 0x37, 0x38]

/-- SM3(Z ‖ message) as a number (R714). -/
def sm2Hash (pub : Nat × Nat) (msg : List Nat) : Nat :=
  let z := sm3 (bytesBe 2 128 ++ sm2Id ++ [sm2A, sm2B, sm2Gx, sm2Gy, pub.1, pub.2].flatMap (bytesBe 32))
  ofBytesBe (sm3 (z ++ msg))

/-- The signature (r, s) of a message under a private key with a nonce in [1, n - 1]. -/
def sm2Sign (d k : Nat) (msg : List Nat) : Nat × Nat :=
  let e := sm2Hash (sm2Public d) msg
  let r := (e + (sm2Public k).1) % sm2N
  (r, invMod sm2N (1 + d) * (k + sm2N * d - r * d) % sm2N)

/-- Does a signature verify? -/
def sm2Verify (pub : Nat × Nat) (msg : List Nat) (r s : Nat) : Bool :=
  let t := (r + s) % sm2N
  if 1 ≤ r ∧ r < sm2N ∧ 1 ≤ s ∧ s < sm2N ∧ t ≠ 0 ∧ onCurve pub.1 pub.2 = true then
    match ecAdd (ecMul 256 s ecG none) (ecMul 256 t (some pub) none) with
    | some (x, _) => (sm2Hash pub msg + x) % sm2N == r
    | none => false
  else false

end Sys2Proof.Machine
end

