-- ==== Sys2Proof/Machine/Sec.lean ====
section
/-! DEFINITION. Security and lifecycle (chapter 20): lifecycle commands (R706 to R710), identity and burgee (R711 to R714), verified boot
(R715 to R719), quotes (R721, R722) and tamper (R723, R724). -/

set_option Elab.async false

namespace Sys2Proof.Machine

/-! ### Lifecycle -/

/-- The state that at least two of the three copies agree on (R706). -/
def SecSt.lifecycle (x : SecSt) : Nat :=
  match x.lc with
  | [a, b, c] => if b = c then b else a
  | _ => 0

def State.lifecycle (s : State) : Nat := s.sec.lifecycle

/-- The debug port is open in a state (R706). -/
def debugOpenIn (lc : Nat) : Bool := lc == 0 || lc == 1 || lc == 3

/-- Record a code of class 0x0F that gives no ERROR pennant (R729). -/
def State.secErr (s : State) (code : Nat) : State := (s.setErr Reg.SEC_ERR true (0, 0, 0) code).file .sec 0xFFFF code

/-- SEC's registers follow the lifecycle fuses (R706, R713, R723, R726). -/
def State.lcNote (s : State) : State :=
  let lc := s.lifecycle
  let s1 := ((s.wr Reg.SEC_STATUS_LIFECYCLE lc).wr Reg.SEC_STATUS_DEBUG_OPEN (if debugOpenIn lc then 1 else 0)).wr
    Reg.SEC_STATUS_ENDORSED (if s.sec.endorsement.isSome then 1 else 0)
  if lc ≤ 1 then s1 else s1.wr Reg.SEC_TAMPER_EN_EN 0x1F

/-- Label of the identity key in a state (R706). -/
def keyLabel (lc : Nat) : Option (List Nat) :=
  if lc = 1 ∨ lc = 2 then some [0x44, 0x45, 0x56] else if lc = 3 then some [0x52, 0x45, 0x54] else none

/-- The identity key of the present state, reduced into [1, n - 2] (R712). -/
def State.identityKey (s : State) : Option Nat :=
  match s.sec.seed, keyLabel s.lifecycle with
  | some d, some l => some (1 + (Config.deriveKey d l).toNat % (sm2N - 2))
  | _, _ => none

/-- Signing requests that wait for a key that is not coming fail (R712, R725). -/
def State.failSigns (s : State) : State :=
  if s.sec.reDeriving = true ∨ s.sec.key.isSome = true then s
  else
    let s1 := if s.sec.quoteReq.isSome then (s.wr Reg.SEC_CTRL_QUOTE_GO 0).secErr 0x0F07 else s
    let s2 := if s.sec.burgeeReq.isSome then (s1.wr Reg.SEC_CTRL_BURGEE_GO 0).secErr 0x0F07 else s1
    { s2 with sec := { s2.sec with quoteReq := none, burgeeReq := none } }

/-- SEC begins to derive the key, when there is one to derive (R712). -/
def State.startDerive (s : State) : State :=
  ({ s.wr Reg.SEC_STATUS_KEY_READY 0 with
    sec := { s.sec with key := none, reDeriving := s.identityKey.isSome && !s.sec.tampered } } : State).failSigns

/-- KEY_DERIVATION_DONE (R712, R725). -/
def execKeyDerivationDone (s : State) : Host.Outcome State Fault Refusal :=
  if s.sec.reDeriving = true ∧ s.rd Reg.MEM_SECURE_STATUS_WIPING = 0 then
    let s1 : State := { s with sec := { s.sec with key := s.identityKey, reDeriving := false } }
    .next (s1.wr Reg.SEC_STATUS_KEY_READY (if s1.sec.key.isSome then 1 else 0))
  else .next s

/-- A lifecycle command ends (R707, R727): STATE DONE, or FAILED with a code, which is recorded. -/
def State.lcEnd (s : State) (code : Nat) : State :=
  let s1 := (s.wr Reg.SEC_LC_STATUS_STATE (if code = 0 then 2 else 3)).wr Reg.SEC_LC_STATUS_RESULT code
  if code = 0 then s1 else s1.secErr code

/-- A command that arrives while one runs is discarded (R708). -/
def State.lcBusy (s : State) : Bool := s.rd Reg.SEC_LC_STATUS_STATE == 1

/-- Every command ring is DISABLED and no job runs (R708). -/
def State.lcQuiet (s : State) : Bool := (List.range 16).all (fun c => s.cState c == 0) && s.jobs.isEmpty

/-- The token in SEC_TOKEN passes the checks of R709 for a command and a slot. -/
def State.tokenOk (s : State) (op slot : Nat) : Bool :=
  let l := s.regBytes (Reg.SEC_TOKEN 0) 48
  let t := ofBytes l
  let key := BitVec.ofNat 256 (ofBytes (sm3 ((l.drop 64).take 64)))
  let signer := fun (k : Nat) => key == Config.fuseKeyHash k && bitsOf (s.rd Reg.SEC_KEYSLOTS_REVOKED) k 1 == 0
  (signer 0 || signer 1) && bitsOf t 1504 32 == 0x44544B31 && bitsOf t 1500 4 == op && bitsOf t 1498 2 == slot &&
    bitsOf t 1472 26 == 0 && bitsOf t 1408 64 == s.rd64 Reg.GLB_SERIAL_LO Reg.GLB_SERIAL_HI && s.sec.challengeOk &&
    bitsOf t 1152 256 == ofBytes (s.regBytes (Reg.SEC_CHALLENGE 0) 8) && bitsOf t 1024 128 == 0 &&
    sm2Verify (bitsOf t 768 256, bitsOf t 512 256) (l.drop 64) (bitsOf t 256 256) (bitsOf t 0 256)

/-- The challenge is consumed (R709). -/
def State.consume (s : State) : State := { s with sec := { s.sec with challengeOk := false } }

/-- A command checks its token, whose check consumes the challenge, and acts when it passes (R709). -/
def State.withToken (s : State) (op slot : Nat) (f : State → State) : State :=
  if s.tokenOk op slot then f s.consume else s.consume.lcEnd 0x0F08

/-- A state-changing command begins (R708): it burns the first copy; a power loss from then on ends in the new state. -/
def State.lcBurn (s : State) (new : Nat) : State :=
  let s1 : State := { s with sec := { s.sec with lc := s.sec.lc.set 0 new, busy := some new } }
  (s1.wr Reg.SEC_LC_STATUS_STATE 1).wr Reg.SEC_LC_STATUS_RESULT 0

/-- The checks that every lifecycle command passes first (R707, R708): not BUSY, allowed in the present state, and for a state-changing
command rings disabled and no job. -/
def State.lcCommand (s : State) (allowed changes : Bool) (f : State → State) : State :=
  if s.lcBusy then s.secErr 0x0F09
  else if allowed = false then s.lcEnd 0x0F0A
  else if changes = true ∧ s.lcQuiet = false then s.lcEnd 0x0F09
  else f s

/-- CHALLENGE (R707). -/
def execChallenge (s : State) : Host.Outcome State Fault Refusal := s.bar Reg.SEC_LC_CMD fun s =>
  .next (s.lcCommand (s.lifecycle != 4) false (fun s =>
    let s1 := s.putBytes (Reg.SEC_CHALLENGE 0) (bytesOf 32 (Config.randomChallenge s.sec.draws).toNat)
    ({ s1 with sec := { s1.sec with challengeOk := true, draws := s1.sec.draws + 1 } } : State).lcEnd 0))

/-- PROVISION (R707, R711): the seed is burned. -/
def execProvision (s : State) : Host.Outcome State Fault Refusal := s.bar Reg.SEC_LC_CMD fun s =>
  .next (s.lcCommand (s.lifecycle == 0) true (fun s => s.withToken 2 0 (fun s =>
    ({ s with sec := { s.sec with seed := some (Config.randomSeed s.sec.draws), draws := s.sec.draws + 1 } } : State).lcBurn 1)))

/-- The endorsement in SEC_ENDORSE verifies over SERIAL and the identity public key: the signer's slot (R713). -/
def State.endorseSlot (s : State) : Option Nat :=
  let l := s.regBytes (Reg.SEC_ENDORSE 0) 32
  let t := ofBytes l
  let key := BitVec.ofNat 256 (ofBytes (sm3 (l.drop 64)))
  match s.sec.key with
  | none => none
  | some d =>
    let q := sm2Public d
    let msg := bytesOf 8 (s.rd64 Reg.GLB_SERIAL_LO Reg.GLB_SERIAL_HI) ++ bytesOf 64 (q.1 * 2 ^ 256 + q.2)
    if sm2Verify (bitsOf t 768 256, bitsOf t 512 256) msg (bitsOf t 256 256) (bitsOf t 0 256) then
      [0, 1].find? (fun k => key == Config.fuseKeyHash k && bitsOf (s.rd Reg.SEC_KEYSLOTS_REVOKED) k 1 == 0)
    else none

/-- ENDORSE (R707, R713). -/
def execEndorse (s : State) : Host.Outcome State Fault Refusal := s.bar Reg.SEC_LC_CMD fun s =>
  .next (s.lcCommand (s.lifecycle == 1 && s.sec.endorsement.isNone) false (fun s =>
    match s.endorseSlot with
    | some k =>
      let sig := BitVec.ofNat 512 (ofBytes (s.regBytes (Reg.SEC_ENDORSE 0) 16))
      ({ s with sec := { s.sec with endorsement := some (sig, k) } } : State).lcNote.lcEnd 0
    | none => s.lcEnd 0x0F08))

/-- PRODUCTION (R707). -/
def execProduction (s : State) : Host.Outcome State Fault Refusal := s.bar Reg.SEC_LC_CMD fun s =>
  .next (s.lcCommand (s.lifecycle == 1 && s.sec.endorsement.isSome) true (fun s => s.lcBurn 2))

/-- RETURN (R707). -/
def execReturnCmd (s : State) : Host.Outcome State Fault Refusal := s.bar Reg.SEC_LC_CMD fun s =>
  .next (s.lcCommand (s.lifecycle == 2) true (fun s => s.withToken 5 0 (fun s => s.lcBurn 3)))

/-- TERMINATE (R707, R711): every seed fuse is blown to 1. -/
def execTerminate (s : State) : Host.Outcome State Fault Refusal := s.bar Reg.SEC_LC_CMD fun s =>
  let act := fun (s : State) =>
    ({ s with sec := { s.sec with seed := some (BitVec.ofNat 256 (2 ^ 256 - 1)) } } : State).lcBurn 4
  .next (s.lcCommand (s.lifecycle != 4) true (fun s => if s.lifecycle = 2 then s.withToken 6 0 act else act s))

/-- REVOKE (R707, R710). -/
def execRevoke (slot : Nat) (s : State) : Host.Outcome State Fault Refusal := s.bar Reg.SEC_LC_CMD fun s =>
  let r := s.rd Reg.SEC_KEYSLOTS_REVOKED ||| 2 ^ slot
  .next (s.lcCommand (s.lifecycle != 4 && decide (slot < 3) && r % 4 != 3) false (fun s => s.withToken 7 slot (fun s =>
    (s.wr Reg.SEC_KEYSLOTS_REVOKED r).lcEnd 0)))

/-- LC_COMMAND_DONE (R592, R708, R712): every copy is burned, the secure SRAM is wiped and the key of the new state is derived. -/
def execLcCommandDone (s : State) : Host.Outcome State Fault Refusal :=
  match s.sec.busy with
  | none => .next s
  | some n =>
    let s1 : State := { s with sec := { s.sec with lc := [n, n, n], busy := none } }
    .next (((s1.lcNote.startWipe 2).startDerive).lcEnd 0)

/-! ### Signing (R714, R721, R722) -/

/-- A signature as its 512 bits, with the draw of its nonce; a nonce that the algorithm refuses is drawn again. -/
def signWith (d : Nat) (msg : List Nat) : Nat → Nat → Nat × Nat
  | 0, draw => (0, draw)
  | fuel + 1, draw =>
    let k := 1 + (Config.signNonce draw).toNat % (sm2N - 1)
    let q := sm2Sign d k msg
    if q.1 = 0 ∨ q.1 + k = sm2N ∨ q.2 = 0 then signWith d msg fuel (draw + 1) else (q.1 * 2 ^ 256 + q.2, draw + 1)

/-- Words 64 to 255 of a structure of 256 bytes are signed, and the whole stands in registers from an address. -/
def State.putSigned (s : State) (a body d : Nat) : State :=
  let msg := (bytesOf 256 body).drop 64
  let q := signWith d msg 4 s.sec.draws
  ({ s with sec := { s.sec with draws := q.2 } } : State).putBytes a (bytesOf 64 q.1 ++ msg)

/-- A signing request begins, or fails for want of a key; while the key is derived it waits (R712, R722, R725). -/
def State.signGo (s : State) (go done : RegField) (busy : Bool) (f : State → State) : State :=
  if busy then s
  else
    let s1 := s.wr done 0
    if s1.sec.key.isNone ∧ s1.sec.reDeriving = false then (s1.wr go 0).secErr 0x0F07 else f (s1.wr go 1)

/-- The nonce in SEC_NONCE. -/
def State.nonce (s : State) : Nat := ofBytes (s.regBytes (Reg.SEC_NONCE 0) 8)

/-- QUOTE_GO (R721, R722). -/
def execQuoteGo (s : State) : Host.Outcome State Fault Refusal := s.bar Reg.SEC_CTRL fun s =>
  .next (s.signGo Reg.SEC_CTRL_QUOTE_GO Reg.SEC_STATUS_QUOTE_DONE s.sec.quoteReq.isSome (fun s =>
    { s with sec := { s.sec with quoteReq := some { nonce := s.nonce, mono := s.time.mono
                                                    cfg := ofBytes (s.regBytes (Reg.SEC_CFG_DIGEST 0) 8)
                                                    events := s.rd Reg.SEC_CFG_EVENTS_COUNT } } }))

/-- BURGEE_GO (R714, R722). -/
def execBurgeeGo (s : State) : Host.Outcome State Fault Refusal := s.bar Reg.SEC_CTRL fun s =>
  .next (s.signGo Reg.SEC_CTRL_BURGEE_GO Reg.SEC_STATUS_BURGEE_DONE s.sec.burgeeReq.isSome (fun s =>
    { s with sec := { s.sec with burgeeReq := some { nonce := s.nonce, mono := s.time.mono } } }))

/-- QUOTE_DONE (R721). -/
def execQuoteDone (s : State) : Host.Outcome State Fault Refusal :=
  match s.sec.quoteReq, s.sec.key with
  | some q, some d =>
    let n := s.sec.quotes + 1
    let body := packBits [(2016, 32, 0x44515431), (2008, 8, 1), (2005, 3, s.lifecycle), (1999, 6, s.rd Reg.SEC_STATUS_SVN_RUN),
      (1920, 64, s.rd64 Reg.GLB_SERIAL_LO Reg.GLB_SERIAL_HI), (1856, 64, n), (1792, 64, q.mono), (1536, 256, q.nonce),
      (1280, 256, s.sec.fwDigest.toNat), (1024, 256, q.cfg), (992, 32, q.events)]
    let s1 := s.putSigned (Reg.SEC_QUOTE 0) body d
    let s2 : State := { s1 with sec := { s1.sec with quotes := n, quoteReq := none } }
    .next ((s2.wr Reg.SEC_CTRL_QUOTE_GO 0).wr Reg.SEC_STATUS_QUOTE_DONE 1)
  | _, _ => .next s

/-- BURGEE_DONE (R714, R722): a quote requested in the same tick or before goes first. -/
def execBurgeeDone (s : State) : Host.Outcome State Fault Refusal :=
  match s.sec.burgeeReq, s.sec.key with
  | some q, some d =>
    if (match s.sec.quoteReq with | some r => decide (r.mono ≤ q.mono) | none => false) = true then .next s
    else
      let p := sm2Public d
      let e := match s.sec.endorsement with | some (g, _) => if s.lifecycle = 3 then 0 else g.toNat | none => 0
      let body := packBits [(2016, 32, 0x44425231), (2008, 8, 1), (2005, 3, s.lifecycle),
        (1920, 64, s.rd64 Reg.GLB_SERIAL_LO Reg.GLB_SERIAL_HI), (1888, 32, (s.reg Reg.GLB_CHIP).toNat), (1536, 256, q.nonce),
        (1280, 256, p.1), (1024, 256, p.2), (512, 512, e)]
      let s1 := s.putSigned (Reg.SEC_BURGEE 0) body d
      let s2 : State := { s1 with sec := { s1.sec with burgeeReq := none } }
      .next ((s2.wr Reg.SEC_CTRL_BURGEE_GO 0).wr Reg.SEC_STATUS_BURGEE_DONE 1)
  | _, _ => .next s

/-! ### Verified boot (R715 to R719) -/

/-- SVN_COMMIT (R719). -/
def execSvnCommit (key : Nat) (s : State) : Host.Outcome State Fault Refusal := s.bar Reg.SEC_CTRL fun s =>
  let run := s.rd Reg.SEC_STATUS_SVN_RUN
  if key = 0xA5 ∧ s.rd Reg.SEC_STATUS_SVN_FUSE < run then .next (s.wr Reg.SEC_STATUS_SVN_FUSE run) else .next s

/-- RECOV_GO (R717): a host image is offered in ROM service mode; ignored in TERMINATED. -/
def execRecovGo (s : State) : Host.Outcome State Fault Refusal := s.bar Reg.SEC_CTRL fun s =>
  if s.pwr.romService = true ∧ s.lifecycle ≠ 4 then .next (s.wr Reg.SEC_CTRL_RECOV_GO 1) else .next s

/-- Firmware key slots accepted in a state (R706). -/
def slotAccepted (lc k : Nat) : Bool := decide (k < (if lc = 2 then 2 else if lc = 4 then 0 else 3))

/-- The checks of R716 on an image in their order: the code of the first that fails. -/
def State.imageCheck (s : State) (data : List Nat) : Option Nat :=
  let h := ofBytes (data.take 256)
  let len := bitsOf h 1968 32
  let slot := bitsOf h 2006 2
  if data.length < 256 ∨ bitsOf h 2016 32 ≠ 0x44465731 ∨ bitsOf h 2008 8 ≠ 1 ∨ len < 256 ∨ 2 * 2 ^ 20 < len ∨ len % 16 ≠ 0 ∨
      data.length < len ∨ bitsOf h 1024 912 ≠ 0 then some 0x0F01
  else if slotAccepted s.lifecycle slot = false ∨ bitsOf (s.rd Reg.SEC_KEYSLOTS_REVOKED) slot 1 = 1 ∨
      BitVec.ofNat 256 (ofBytes (sm3 ((data.drop 64).take 64))) ≠ Config.fuseKeyHash slot then some 0x0F02
  else if bitsOf h 2000 6 < s.rd Reg.SEC_STATUS_SVN_FUSE then some 0x0F03
  else if sm2Verify (bitsOf h 768 256, bitsOf h 512 256) ((data.take len).drop 64) (bitsOf h 256 256) (bitsOf h 0 256) = false then
    some 0x0F04
  else none

/-- A verified image starts (R716, R718, R748). -/
def State.startFirmware (s : State) (image : Nat) (data : List Nat) : State :=
  let h := ofBytes (data.take 256)
  let dig := BitVec.ofNat 256 (ofBytes (sm3 (data.take (bitsOf h 1968 32))))
  let s1 : State := { s with sec := { s.sec with fwDigest := dig }, pwr := { s.pwr with fwRunning := true, romService := false } }
  let s2 := ((s1.wr Reg.SEC_BOOT_IMAGE image).wr Reg.SEC_BOOT_KEY_SLOT (bitsOf h 2006 2)).wr Reg.SEC_STATUS_SVN_RUN (bitsOf h 2000 6)
  s2.setReg Reg.GLB_FW (Config.fwVersion dig)

/-- The image whose check is due: A, B, then what the host offers (R716, R717). -/
def State.imageDue (s : State) : Option Nat :=
  if s.pwr.booting = false ∨ s.pwr.fwRunning = true then none
  else if s.pwr.romService then (if s.rd Reg.SEC_CTRL_RECOV_GO = 1 then some 2 else none)
  else some s.sec.badImages

/-- IMAGE_VERIFY_DONE (R716, R717): `data` is what the flash or the host memory gave. -/
def execImageVerifyDone (image : Nat) (data : List Nat) (s : State) : Host.Outcome State Fault Refusal :=
  if s.imageDue = some image then
    let s0 := s.wr Reg.SEC_CTRL_RECOV_GO 0
    match s0.imageCheck (if image = 2 then data.take (s.rd Reg.SEC_RECOV_LEN_LENGTH) else data) with
    | none => .next (s0.startFirmware image data)
    | some code =>
      let s1 := (s0.secErr code).wr Reg.SEC_BOOT_FAIL_CODE code
      if image = 2 then .next s1
      else
        let s2 : State := { s1 with sec := { s1.sec with badImages := image + 1 } }
        if image = 0 then .next s2
        else .next ({ s2.secErr 0x0F05 with pwr := { s2.pwr with romService := true } })
  else .next s

/-! ### Tamper (R723, R724) -/

/-- A tamper source acts (R724); with rail 12 for VDD_AON. -/
def State.tamper (s : State) (source rail : Nat) : State :=
  if bitsOf (s.rd Reg.SEC_TAMPER_EN_EN) source 1 = 0 then s
  else
    let again := s.sec.tamperMono = some s.time.mono
    let s1 := (s.wr Reg.SEC_TAMPER_LATCHED 1).wr Reg.SEC_TAMPER_SOURCES (s.rd Reg.SEC_TAMPER_SOURCES ||| 2 ^ source)
    let s2 := if source = 0 ∧ s1.rd Reg.SEC_TAMPER_RAIL = 0xFF then s1.wr Reg.SEC_TAMPER_RAIL rail else s1
    let d0 := s2.rd Reg.SEC_TAMPER_SOURCES
    let d1 := s2.rd Reg.SEC_TAMPER_RAIL
    let s3 := ((s2.startWipe 1).wr Reg.SEC_STATUS_KEY_READY 0)
    let s4 : State := { s3 with sec := { s3.sec with key := none, reDeriving := false, tampered := true, tamperMono := some s.time.mono } }
    let s4 := s4.failSigns
    if again then s4
    else
      let s5 := (s4.bumpSat Reg.SEC_STATUS_TAMPER_EVENTS).setErr Reg.SEC_ERR true (0, 0, 0) 0x0F06
      let s6 := s5.file .sec 0xFFFF 0x0F06 d0 d1
      let m := s6.rd Reg.HIF_SVC_PRING_PRING
      if s6.rd (Reg.HIF_PRING_STATUS_STATE m) = 1 then s6.devError 0x0F06 d0 d1 else s6

/-- TAMPER_EVENT. -/
def execTamperEvent (source rail : Nat) (s : State) : Host.Outcome State Fault Refusal := .next (s.tamper source rail)

/-- SEC_TAMPER_CLR (R724). -/
def execSecTamperClr (w : BitVec 32) (s : State) : Host.Outcome State Fault Refusal := s.bar Reg.SEC_TAMPER_CLR fun s =>
  if bitsOf w.toNat 24 8 = 0xA5 ∧ bitsOf w.toNat 0 1 = 1 then
    .next (((s.wr Reg.SEC_TAMPER_LATCHED 0).wr Reg.SEC_TAMPER_RAIL 0xFF).wr Reg.SEC_TAMPER_SOURCES 0)
  else .next s

end Sys2Proof.Machine
end

