-- ==== Sys2Proof/Machine/Xfr.lean ====
section
/-! DEFINITION. XFR: the transfer of tiles between devices (R639 to R646), fallbacks, remote responses (R557, R558) and collectives
(R389, R647). -/

set_option Elab.async false

namespace Sys2Proof.Machine

/-! ### Keys -/

/-- The key of what a job transfers (R639): KEY_KIND, OWNER_DEV, STREAM_ID, KEY_SEQ, STEP. -/
def State.jobKey (s : State) (j : Job) : Nat × Nat × Nat × Nat × Nat :=
  match j.kind with
  | .frame st n _ => (0, s.myDev, st, n, 0)
  | .cmd _ => if j.adapt.isSome then (2, s.myDev, j.stream, j.jobId, j.pass) else (1, s.myDev, j.stream, j.jobId, 0)
  | .tile d k n st => (k, d, st, n, j.pass)

/-- A tile belongs to a job: the same frame, or the same JOB_ID and step (R643, R647). -/
def State.tileFor (s : State) (j : Job) (id : TileId) : Bool :=
  let k := s.jobKey j
  if id.kind = 0 then k.1 == 0 && k.2.1 == id.owner && k.2.2.1 == id.stream && k.2.2.2.1 == id.keySeq
  else k.1 == id.kind && k.2.2.2.1 == id.keySeq && k.2.2.2.2 == id.step

/-! ### Sending (R461, R633, R639 to R641, R646) -/

/-- Columns of a tile of a node's output. -/
def tileColRange (w : Nat) (g : Grid) (k width : Nat) : Nat × Nat :=
  if wOpc w = 0x36 then (k, 1) else if g.nb ≤ 1 then (0, width) else (256 * k, min 256 (width - 256 * k))

/-- The payload of a tile: its codes and block scales as stored, or as FP8 E5M2 with block scales along each row (R646). -/
def tilePayload (t : Tensor) (rows : List Nat) (c0 n wire : Nat) : List Nat × List Nat :=
  let l := rows.map (fun r => ((t.rows.getD r []).drop c0).take n)
  if wire = 1 then
    let q := l.map (fun r => cvtRow 6 (r.map (decF t.fmt)))
    (q.flatMap (·.1), q.flatMap (fun x => x.2.1))
  else (l.flatten, rows.flatMap (fun r => ((t.scales.getD r []).drop (c0 / 32)).take (cdiv n 32)))

/-- The message of a committed tile (R639), and its flits. -/
def State.tileMsg (s : State) (j : Job) (src w : Nat) (g : Grid) (q : Tensor) (t : Nat) : TileMsg × Nat :=
  let sw := (s.coreWord j src).getD 0
  let ik := g.at t
  let rows := blockRows sw (s.coreDesc j src sw) g ik.1
  let cr := tileColRange sw g ik.2 q.cols
  let k := s.jobKey j
  let pay := tilePayload q rows cr.1 cr.2 (xfWire w)
  let bits := if xfWire w = 1 then 8 else fmtBits q.fmt
  ({ id := { src := s.myDev, channel := xfChannel w, kind := k.1, owner := k.2.1, stream := k.2.2.1, keySeq := k.2.2.2.1
             step := k.2.2.2.2, tile := t }
     dst := xfDev w, mb := g.mb, nb := g.nb, rows := rows.length, cols := cr.2, svc := j.svc, pts := j.pts
     ctSec := j.ct.sec, ctNs := j.ct.ns, ctSub := j.ct.sub, flags := j.flags, wire := xfWire w, data := pay.1, scales := pay.2 },
   flitsOf (rows.length * cdiv (cr.2 * bits) 8 + pay.2.length))

/-- The tiles of a source that its XFR_SEND nodes have all sent leave the tiles handed over (R461). -/
def State.handedOver (s : State) (id src : Nat) : State :=
  match s.job? id with
  | none => s
  | some j =>
    let ws := (s.prog j.prog).routeWords j.route
    let sends := (List.range ws.length).filter (fun n => wOpc (ws.getD n 0) == 0x60 && xfSrc (ws.getD n 0) == src)
    s.updNode id src (fun x => { x with
      sending := x.sending.filter (fun t => !(sends.all (fun n => (j.node n).passed.contains (0, t)))) })

/-- An XFR_SEND node is done: its source is committed, and every tile of it is sent and released (R641). -/
def State.sendDone (s : State) (id n src : Nat) : State :=
  match s.job? id with
  | none => s
  | some j =>
    let x := j.node src
    let y := j.node n
    let all := match x.grid with
      | some g => (List.range g.count).all (fun t => x.gated.contains t || y.passed.contains (0, t))
      | none => true
    if x.committed = true ∧ y.sending.isEmpty = true ∧ y.committed = false ∧ all = true then s.commitNode id n .none else s

/-- XFR_SEND (R461, R639): the tiles of its source that have committed since go to DST_DEV, in commit order. -/
def execXfrSend (job node : Nat) (s : State) : Host.Outcome State Fault Refusal :=
  match s.job? job with
  | none => .next s
  | some j =>
    match s.jobWord j node with
    | none => .next s
    | some w =>
      let src := xfSrc w
      if wOpc w = 0x60 ∧ j.started = true ∧ j.plan.isSome = true ∧ (j.node node).committed = false then
        if s.reachable.contains (xfDev w) = false then
          .next ((s.setErr Reg.LNK_ERR true (16, 3, 7) 0x0C05).faultJob j node 0x0C05 (xfDev w) (xfChannel w))
        else
          let x := j.node src
          match x.grid, x.out with
          | some g, .tensor q =>
            let ready := (x.passed.filter (fun p => p.1 + 1 == g.passes)).map (·.2)
            let go := if g.fold && g.passes == 1 && !x.committed then [] else
              ready.filter (fun t => !(j.node node).passed.contains (0, t))
            let s1 := go.foldl (fun s t =>
              let m := s.tileMsg j src w g q t
              s.sendTile { msg := m.1, job := job, node := node, flits := m.2, port := 0 } false) s
            let s2 := s1.updNode job node (fun y => { y with
              ran := true, passed := y.passed ++ go.map (fun t => (0, t)), sending := y.sending ++ go })
            .next ((s2.handedOver job src).sendDone job node src)
          | _, _ => .next (s.sendDone job node src)
      else .next s

/-- The record of a tile sent to a device. -/
def State.sentOf (s : State) (dev : Nat) (id : TileId) : Option SentTile := s.lnk.sent.find? (fun t => t.msg.dst == dev && t.msg.id == id)

/-- RECEIPT (R640, R643, R686): a code other than 0 refuses the tile, and the sending job ends with it. -/
def execReceipt (dev : Nat) (tile : TileId) (code : Nat) (s0 : State) : Host.Outcome State Fault Refusal :=
  let s := s0.wakeUp
  match s.sentOf dev tile with
  | none => .next s
  | some t =>
    if code = 0 then
      .next { s with lnk := { s.lnk with sent := s.lnk.sent.map (fun x => if x = t then { x with receipt := true } else x) } }
    else
      match s.job? t.job with
      | none => .next s
      | some j => .next ((s.setErr Reg.LNK_ERR true (16, 3, 7) code).faultJob j t.node code dev tile.channel)

/-- ACK_TIMEOUT (R640): ACK_US after its last send without a RECEIPT the tile is sent again, or after 4 sends its job ends with LNK_UNREACHABLE. -/
def execAckTimeout (dev : Nat) (tile : TileId) (s : State) : Host.Outcome State Fault Refusal :=
  match s.sentOf dev tile with
  | none => .next s
  | some t =>
    if t.receipt = true ∨ s.time.mono < t.at_ + max 1 (s.rd Reg.LNK_TIMERS_ACK_US) * 1000 then .next s
    else if t.sends < 4 then .next (s.sendTile t true)
    else
      match s.job? t.job with
      | none => .next s
      | some j => .next ((s.setErr Reg.LNK_ERR true (16, 3, 7) 0x0C05).faultJob j t.node 0x0C05 dev tile.channel)

/-- A sent tile's place is free (R641). -/
def State.placeFree (s : State) (t : SentTile) : State :=
  let s1 : State := { s with lnk := { s.lnk with sent := s.lnk.sent.erase t } }
  match s1.job? t.job with
  | none => s1
  | some j =>
    let s2 := s1.updNode t.job t.node (fun y => { y with sending := y.sending.erase t.msg.id.tile })
    match s2.jobWord j t.node with
    | some w => s2.sendDone t.job t.node (xfSrc w)
    | none => s2

/-- RELEASE (R641, R686). -/
def execReleaseTile (dev : Nat) (tile : TileId) (s0 : State) : Host.Outcome State Fault Refusal :=
  let s := s0.wakeUp
  match s.sentOf dev tile with
  | none => .next s
  | some t => .next (s.placeFree t)

/-- REJOIN_TIMEOUT (R641): REJOIN_MS after its loss, the tiles that a receiver, unreachable since, had acknowledged are released, and LNK_UNREACHABLE is recorded. -/
def execRejoinTimeout (dev : Nat) (s : State) : Host.Outcome State Fault Refusal :=
  let l := s.lnk.sent.filter (fun t => t.msg.dst == dev && t.receipt)
  let due := s.lnk.lostAt.any (fun q => q.1 == dev && decide (q.2 + s.rd Reg.LNK_TIMERS_REJOIN_MS * 10 ^ 6 ≤ s.time.mono))
  if s.reachable.contains dev = false ∧ l.isEmpty = false ∧ due = true then
    let ch := match l with | t :: _ => t.msg.id.channel | [] => 0
    .next (l.foldl State.placeFree ((s.lnkErr 7 0x0C05 dev ch).devError 0x0C05 dev ch))
  else .next s

/-! ### Receiving (R641 to R646) -/

/-- The grid of a receive node over COUNT samples (R290, R652). -/
def recvGrid (d count : Nat) : Grid :=
  let m := rowsM d count
  let tm := max 1 (dTm d)
  { m := m, n := dN d, tm := tm, mb := cdiv m tm, nb := cdiv (dN d) 256, order := dOrder d }

/-- The header's grid and tile size are those of the receive node (R644). -/
def tileShapeOk (g : Grid) (m : TileMsg) : Bool :=
  let ik := g.at m.id.tile
  m.mb == g.mb && m.nb == g.nb && decide (m.id.tile < g.count) && m.rows == min g.tm (g.m - ik.1 * g.tm) &&
    m.cols == min 256 (g.n - 256 * ik.2)

/-- The rows of a tile's payload in the receive node's format (R646), and their block scales. -/
def tileRows (m : TileMsg) (ofmt : Nat) : List (List Nat × List Nat) :=
  let nb := cdiv m.cols 32
  (List.range m.rows).map (fun r =>
    let codes := (m.data.drop (r * m.cols)).take m.cols
    let sc := (m.scales.drop (r * nb)).take nb
    if m.wire = 1 then (codes.zipIdx.map (fun q => (cvt ofmt (scaled 6 q.1 (sc.getD (q.2 / 32) 0))).1), [])
    else (codes.map (fun c => c % 2 ^ fmtBits ofmt), sc))

/-- Put a slice into a list at a place. -/
def putSlice (l : List Nat) (at_ : Nat) (x : List Nat) : List Nat := l.take at_ ++ x ++ l.drop (at_ + x.length)

/-- A tile goes into the receive node's matrix. -/
def putTile (g : Grid) (m : TileMsg) (q : Tensor) : Tensor :=
  let ik := g.at m.id.tile
  let rs := tileRows m q.fmt
  let lo := ik.1 * g.tm
  let scaled := rs.any (fun r => !r.2.isEmpty)
  let blank := List.replicate (cdiv g.n 32) 127
  { q with
    rows := q.rows.zipIdx.map (fun x => if lo ≤ x.2 ∧ x.2 < lo + rs.length then putSlice x.1 (256 * ik.2) (rs.getD (x.2 - lo) ([], [])).1 else x.1)
    scales := if scaled then
        (List.range q.rows.length).map (fun r =>
          let old := q.scales.getD r blank
          if lo ≤ r ∧ r < lo + rs.length then putSlice old (8 * ik.2) (rs.getD (r - lo) ([], [])).2 else old)
      else q.scales }

/-- The receive node of a job has all its tiles: its output is committed, and its consumers go on. -/
def State.recvDone (s : State) (id n : Nat) : State :=
  match s.job? id with
  | none => s
  | some j =>
    let x := j.node n
    match x.grid with
    | none => s
    | some g =>
      if x.committed = false ∧ (List.range g.count).all (fun t => x.passed.contains (0, t)) = true then
        (s.commitNode id n x.out).wake id
      else s

/-- A tile is given to the receive node of its job, once that node has run (R643, R644). -/
def State.giveTile (s : State) (id n : Nat) (h : HeldTile) : State :=
  match s.job? id with
  | none => s
  | some j =>
    let x := j.node n
    match x.grid, x.out with
    | some g, .tensor q =>
      if tileShapeOk g h.msg = false then
        ((s.setErr Reg.LNK_ERR true (16, 3, 7) 0x0C07).releaseTile h).faultJob j n 0x0C07 n h.msg.id.tile
      else
        let h' := { h with job := some id }
        let s1 : State := { s with lnk := { s.lnk with heldTiles := s.lnk.heldTiles.map (fun y => if y = h then h' else y) } }
        (s1.updNode id n (fun x => { x with out := .tensor (putTile g h.msg q), passed := x.passed ++ [(0, h.msg.id.tile)] })).recvDone id n
    | _, _ => s

/-- The receive nodes of the device: (program, route, node, word) (R643). -/
def State.recvNodes (s : State) : List (Nat × Nat × Nat × Nat) :=
  (List.range 32).flatMap (fun p =>
    (List.range (s.prog p).routes.length).flatMap (fun r =>
      (((s.prog p).routeWords r).zipIdx.filter (fun q => wOpc q.1 == 0x61)).map (fun q => (p, r, q.2, q.1))))

/-- The receive node of a channel (R643). -/
def State.recvFor (s : State) (src channel : Nat) : Option (Nat × Nat × Nat × Nat) :=
  s.recvNodes.find? (fun q => xfChannel q.2.2.2 == channel && xfDev q.2.2.2 == src)

/-- The key of a tile has been taken (R642). -/
def State.taken? (s : State) (id : TileId) : Bool :=
  let up := tget (fun _ => 0) s.lnk.takenUpTo (id.owner * 128 + id.stream)
  s.lnk.taken.contains id || s.lnk.heldTiles.any (fun h => h.msg.id == id) ||
    (id.kind == 0 && up != 0 && seqBefore id.keySeq (up - 1))

/-- The tile halyard's buffers of a tile are free again (R637). -/
def State.tileCredits (s : State) (port : Nat) (m : TileMsg) : State :=
  s.post (Out.credits port 1 (flitsOf (m.data.length + m.scales.length)))

/-- Answer RECEIPT and RELEASE at once, the tile discarded. -/
def State.giveBack (s : State) (port : Nat) (m : TileMsg) : State :=
  let id := m.id
  ((s.tileCredits port m).answerTile id.src id.tile (Out.receipt id.src id 0)).answerTile id.src id.tile (Out.release id.src id)

/-- A job started by a received tile (R643). -/
def tileJobOf (m : TileMsg) (p r : Nat) : Job :=
  { id := 0, kind := .tile m.id.owner m.id.kind m.id.keySeq m.id.stream, prog := p, route := r, svc := m.svc, ticket := 0
    stream := m.id.stream, jobId := if m.id.kind = 0 then 0 else m.id.keySeq, frameSeq := if m.id.kind = 0 then m.id.keySeq else 0
    pts := m.pts, ct := { sec := m.ctSec, ns := m.ctNs, sub := m.ctSub }, flags := m.flags }

/-- A tile lies in its receive buffer: it is taken by its job, starts one, or waits for one (R643). -/
def State.takeTile (s : State) (h : HeldTile) (q : Nat × Nat × Nat × Nat) : State :=
  let m := h.msg
  let s1 : State := { s with lnk := { s.lnk with
    heldTiles := s.lnk.heldTiles ++ [h]
    lastTiles := m :: s.lnk.lastTiles.filter (fun x => !(x.id.channel == m.id.channel && x.id.tile == m.id.tile)) } }
  let s2 := (s1.answerTile m.id.src m.id.tile (Out.receipt m.id.src m.id 0)).tileCredits h.port m
  match s2.jobs.find? (fun j => j.prog == q.1 && j.route == q.2.1 && s2.tileFor j m.id) with
  | some j => s2.giveTile j.id q.2.2.1 h
  | none =>
    if q.2.2.1 = 0 then s2.addJob (tileJobOf m q.1 q.2.1) else s2

/-- TILE_ARRIVAL (R640 to R644, R686): a tile is complete.  A tile taken before is answered at once; one on a channel no node serves is refused;
one for which no receive buffer can be drawn waits in the port, its credits held back (R638). -/
def execTileArrival (port : Nat) (tile : TileMsg) (s0 : State) : Host.Outcome State Fault Refusal :=
  let s := s0.wakeUp
  let id := tile.id
  if tile.dst ≠ s.myDev then .next s
  else if s.taken? id then .next ((s.cnt 0x0C02 port).giveBack port tile)
  else if s.lnk.superseded.contains id then
    .next (({ s with lnk := { s.lnk with superseded := s.lnk.superseded.erase id, taken := keepTaken id s.lnk.taken } } : State).giveBack port tile)
  else
    match s.recvFor id.src id.channel with
    | none => .next ((s.tileCredits port tile).answerTile id.src id.tile (Out.receipt id.src id 0x0C06))
    | some q =>
      let f := poolFit (max 1 (tile.rows * cdiv (tile.cols * (if tile.wire = 1 then 8 else fmtBits (xfOfmt q.2.2.2))) 8 + tile.scales.length))
      match s.draw 7 f.1 f.2 tile.svc s.ticketNow true with
      | (s1, some l) => .next (s1.takeTile { msg := tile, job := none, port := port, bufs := (f.1, l), at_ := s.time.mono } q)
      | (s1, none) => .next s1

/-- XFR_RECV (R557, R643): the node is ready for its channel's tiles, and takes those that wait for its job. -/
def execXfrRecv (job node : Nat) (s : State) : Host.Outcome State Fault Refusal :=
  match s.nodeFor job node 0x61 with
  | none => .next s
  | some (j, w) =>
    if s.reachable.contains (xfDev w) = false ∧ xfFallback w = false then
      .next ((s.setErr Reg.LNK_ERR true (16, 3, 7) 0x0C05).faultJob j node 0x0C05 (xfDev w) (xfChannel w))
    else
      let d := s.descOf j.prog (xfSrc w)
      let c := j.count.getD 1
      let g := recvGrid d c
      let q : Tensor := { fmt := xfOfmt w, cols := g.n, rows := List.replicate g.m (List.replicate g.n 0), unit := dMUnit d }
      let s1 := s.updNode job node (fun x => { x with
        ran := true, remote := true, grid := some g, out := .tensor q, count := c, own := List.range c })
      let mine := s1.lnk.heldTiles.filter (fun h => h.job.isNone && h.msg.id.channel == xfChannel w && s1.tileFor j h.msg.id)
      .next ((mine.foldl (fun s h => s.giveTile job node h) s1).recvDone job node)

/-- ORPHAN_TIMEOUT (R643): a tile that still waits for a job ORPHAN_MS after its arrival is discarded. -/
def execOrphanTimeout (tile : TileId) (s : State) : Host.Outcome State Fault Refusal :=
  match s.lnk.heldTiles.find? (fun h => h.msg.id == tile && h.job.isNone) with
  | none => .next s
  | some h =>
    if h.at_ + s.rd Reg.LNK_ORPHAN_MS_ORPHAN_MS * 10 ^ 6 ≤ s.time.mono then .next (((s.cnt 0x0C05 h.port).lnkErr h.port 0x0C08).releaseTile h)
    else .next s

/-- The rows of a row block read as absent (R295, R645). -/
def absentBlock (g : Grid) (t : Nat) (q : Tensor) : Tensor :=
  let i := (g.at t).1
  let rows := (List.range (min g.tm (g.m - i * g.tm))).map (i * g.tm + ·)
  { q with absent := q.absent ++ rows.filter (fun r => !q.absent.contains r) }

/-- One tile that has not come is supplied: the last tile taken on the channel with its index, or absent rows (R645). -/
def State.fallTile (s : State) (id n w : Nat) (t : Nat) : State :=
  match s.job? id with
  | none => s
  | some j =>
    let x := j.node n
    match x.grid, x.out with
    | some g, .tensor q =>
      let k := s.jobKey j
      let key : TileId := { src := xfDev w, channel := xfChannel w, kind := k.1, owner := k.2.1, stream := k.2.2.1, keySeq := k.2.2.2.1
                            step := k.2.2.2.2, tile := t }
      let last := s.lnk.lastTiles.find? (fun m => m.id.channel == xfChannel w && m.id.tile == t && tileShapeOk g m)
      let q' := match last with
        | some m => putTile g m q
        | none => absentBlock g t q
      let s1 := s.updNode id n (fun x => { x with out := .tensor q', passed := x.passed ++ [(0, t)] })
      let s2 : State := { s1 with lnk := { s1.lnk with superseded := s1.lnk.superseded ++ [key] } }
      if last.isSome then s2.cnt 0x0C06 ((s2.routePort (xfDev w) t).getD 0) else s2
    | _, _ => s

/-- The frame of a job has aged past half its stream's staleness bound (R214, R645).  This device holds neither the bound nor the arrival
of another device's frame: the row itself says so then. -/
def State.halfStale (s : State) (j : Job) : Bool :=
  match j.kind with
  | .frame st n _ =>
    match s.dec.pics.find? (fun p => p.stream == st && p.frame.seq == n) with
    | some p => decide (s.staleBound st < 2 * (s.time.mono - p.frame.mono))
    | none => false
  | .tile _ k _ _ => k == 0
  | .cmd _ => false

/-- FALLBACK_TIMEOUT (R645): the frame has aged past half its staleness bound, and tiles of a receive node with FALLBACK have not come; its
pennants carry STALE_NEIGHBOUR. -/
def execFallbackTimeout (job node : Nat) (s : State) : Host.Outcome State Fault Refusal :=
  match s.job? job with
  | none => .next s
  | some j =>
    let x := j.node node
    match s.jobWord j node, x.grid with
    | some w, some g =>
      if wOpc w = 0x61 ∧ xfFallback w = true ∧ x.committed = false ∧ s.halfStale j = true then
        let left := (List.range g.count).filter (fun t => !x.passed.contains (0, t))
        let s1 := s.updJob job (fun j => { j with flags := j.flags ||| 4 })
        .next ((left.foldl (fun s t => s.fallTile job node w t) s1).recvDone job node)
      else .next s
    | _, _ => .next s

/-! ### Remote responses (R557, R558) -/

/-- What a tile job reads from receive nodes has come. -/
def State.remoteHere (s : State) (t : TileJob) : Bool :=
  match s.job? t.job with
  | none => false
  | some j =>
    match s.coreWord j t.node, (j.node t.node).grid with
    | some w, some g =>
      let d := s.coreDesc j t.node w
      (coreSrcs w).all (fun q =>
        let a := j.node q.2
        !a.remote || a.committed || (q.1 == 64 && a.rowsDone (readyRows w d g (j.sampleOf w d) (g.at t.tile).1)))
    | _, _ => false

/-- REMOTE_RESPONSE (R557, R558): the response for a tag is staged; for a tag of a context that is being saved or is saved it stays parked in
its receive buffer until the restore. -/
def execRemoteResponse (core tag : Nat) (s : State) : Host.Outcome State Fault Refusal :=
  let x := s.core core
  let due := fun (q : RemoteTag) => q.tag == tag && !q.arrived && !q.parked && s.remoteHere q.tj
  let park := fun (k : SavedCtx) => ({ k with tags := updFirst due (fun q => { q with parked := true }) k.tags } : SavedCtx)
  match x.saving with
  | some k => .next (s.setCore core { x with saving := some (park k) })
  | none =>
    if x.tags.any due then
      .next ((s.setCore core { x with tags := updFirst due (fun q => { q with arrived := true }) x.tags }).note core)
    else
      .next { s with sched := { s.sched with saved := updFirst (fun k => k.core == core && k.tags.any due) park s.sched.saved } }

/-! ### Collectives (R389, R647) -/

/-- The collective ring of a group: ascending DEV_ID, in the torus 0, 1, 2, 3, 7, 6, 5, 4 (R647). -/
def State.collRing (s : State) (group : Nat) : List Nat :=
  (if s.topoKind = 3 then [0, 1, 2, 3, 7, 6, 5, 4] else List.range 8).filter (fun d => bitsOf group d 1 == 1)

/-- This device's position in a ring. -/
def State.collPos (s : State) (ring : List Nat) : Nat := (ring.findIdx? (fun d => d == s.myDev)).getD 0

/-- Chunk c of n of the elements. -/
def chunkOf (l : List Nat) (n c : Nat) : List Nat := let k := cdiv l.length n; (l.drop (c * k)).take k

/-- The wire value of FP32 elements, and back (R378, R389). -/
def toWire (l : List Nat) : List Nat × List Nat := let r := cvtRow 6 (l.map d32); (r.1, r.2.1)
def fromWire (codes scales : List Nat) : List Nat := codes.zipIdx.map (fun q => r32 (scaled 6 q.1 (scales.getD (q.2 / 32) 0)))

/-- A chunk goes to the next device of the ring. -/
def State.sendChunk (s : State) (ring : List Nat) (k : CollChunk) : State :=
  let next := ring.getD ((s.collPos ring + 1) % max 1 ring.length) 0
  let s1 := s.post (Out.chunk next k)
  match s1.routePort next k.chunk with
  | some p => s1.sendFlits p 2 (flitsOf (k.data.length + k.scales.length))
  | none => s1

/-- Every chunk is stored: the node's output is the de-quantised vector in its source's shape. -/
def State.collDone (s : State) (c : Coll) : State :=
  let n := (s.collRing c.group).length
  if c.stored.length = n then
    let all := (List.range n).flatMap (fun k => match c.stored.find? (fun q => q.1 == k) with | some q => q.2 | none => [])
    let s1 : State := { s with lnk := { s.lnk with colls := s.lnk.colls.filter (fun x => x != c) } }
    (s1.commitNode c.job c.node (.tensor { fmt := 9, cols := c.cols, rows := chunksOf (max 1 c.cols) all.length all, unit := c.unit })).wake
      c.job
  else s

/-- A chunk of a collective arrives (R389, R647): it is added and sent on, or at its owner becomes the wire value that every device stores. -/
def State.collStep (s : State) (c : Coll) (k : CollChunk) : State :=
  let ring := s.collRing c.group
  let n := ring.length
  let got := fromWire k.data k.scales
  let put := fun (s : State) (v : List Nat) =>
    let c' := { c with stored := c.stored ++ [(k.chunk, v)] }
    (({ s with lnk := { s.lnk with colls := s.lnk.colls.map (fun x => if x = c then c' else x) } } : State), c')
  if k.reduce then
    let v := List.zipWith f32Add (chunkOf c.own n k.chunk) got
    let w := toWire v
    if s.collPos ring = k.chunk then
      let r := put s (fromWire w.1 w.2)
      (r.1.sendChunk ring { k with reduce := false, hops := 1, data := w.1, scales := w.2 }).collDone r.2
    else s.sendChunk ring { k with hops := k.hops + 1, data := w.1, scales := w.2 }
  else if c.stored.any (fun q => q.1 == k.chunk) then s
  else
    let r := put s got
    let s1 := if k.hops + 1 < n then r.1.sendChunk ring { k with hops := k.hops + 1 } else r.1
    s1.collDone r.2

/-- The collective in progress with a key: JOB_ID and STEP, and the CHANNEL of its node (R647, R652). -/
def State.coll? (s : State) (jobId step channel : Nat) : Option Coll :=
  s.lnk.colls.find? (fun c => c.jobId == jobId && c.step == step && c.channel == channel)

/-- COLLECTIVE_CHUNK_ARRIVAL (R389, R647, R686): a chunk of a collective that has not started here waits for it. -/
def execCollectiveChunkArrival (port : Nat) (chunk : CollChunk) (s0 : State) : Host.Outcome State Fault Refusal :=
  let s := s0.wakeUp
  let s1 := s.post (Out.credits port 2 (flitsOf (chunk.data.length + chunk.scales.length)))
  match s1.coll? chunk.job chunk.step chunk.channel with
  | some c => .next (s1.collStep c chunk)
  | none => .next { s1 with lnk := { s1.lnk with early := s1.lnk.early ++ [chunk] } }

/-- XFR_COLL (R389, R647): the device sends the chunk that starts with it, and takes the chunks that came before. -/
def execXfrColl (job node : Nat) (s : State) : Host.Outcome State Fault Refusal :=
  match s.nodeFor job node 0x62 with
  | none => .next s
  | some (j, w) =>
    let ring := s.collRing (xfGroup w)
    match (j.node (xfSrc w)).committed, (j.node (xfSrc w)).out with
    | true, .tensor t =>
      if ring.all (fun d => s.reachable.contains d) = false then
        let d := (ring.find? (fun d => !s.reachable.contains d)).getD 0
        .next ((s.setErr Reg.LNK_ERR true (16, 3, 7) 0x0C05).faultJob j node 0x0C05 d (xfChannel w))
      else
        let n := ring.length
        let c : Coll := { job := job, node := node, jobId := j.jobId, step := j.pass, channel := xfChannel w, group := xfGroup w, cols := t.cols, unit := t.unit
                          own := t.rows.flatten }
        let first := (s.collPos ring + n - 1) % max 1 n
        let wire := toWire (chunkOf c.own n first)
        let s1 := s.updNode job node (fun x => { x with ran := true })
        let s2 : State := { s1 with lnk := { s1.lnk with colls := s1.lnk.colls ++ [c] } }
        let s3 := s2.sendChunk ring { job := j.jobId, step := j.pass, channel := xfChannel w, chunk := first, reduce := true, hops := 1, data := wire.1, scales := wire.2 }
        let mine := s3.lnk.early.filter (fun k => k.job == j.jobId && k.step == j.pass && k.channel == xfChannel w)
        let s4 : State := { s3 with lnk := { s3.lnk with early := s3.lnk.early.filter (fun k => !mine.contains k) } }
        .next (mine.foldl (fun s k => match s.coll? j.jobId j.pass (xfChannel w) with | some c => s.collStep c k | none => s) s4)
    | _, _ => .next s

end Sys2Proof.Machine
end

