-- ==== Sys2Proof/Machine/Reset.lean ====
section
/-! DEFINITION. What a reset discards and what it leaves (R128, R131, R584, R698 to R700), and the power-on reset with its boot (R696,
R701, R737, R740). -/

set_option Elab.async false

namespace Sys2Proof.Machine

/-! ### Streams go back to their checkpoints (R131) -/

/-- Frames of a stream that are in flight, in FRAME_SEQ order, each as it can be decoded again. -/
def State.inFlight (s : State) (st : Nat) : List Frame :=
  let eng := (List.range 8).flatMap (fun e => (((s.engine e).cur.toList ++ (s.engine e).chosen.toList).filter
    (fun p => p.stream == st)).map (fun p => p.frame))
  let dn := (s.dec.pics.filter (fun p => p.stream == st)).map (fun p => ({ p.frame with bufs := none } : Frame))
  let jobs := s.jobs.filterMap (fun j => match j.kind with
    | .frame a n none => if a = st then
        some ({ seq := n, au := none, ct := j.ct, mono := s.time.mono, pts := j.pts, flags := j.flags, ready := true
                bind := { prog := j.prog, route := j.route, svc := j.svc } } : Frame) else none
    | _ => none)
  let all := (eng ++ (s.stream st).frames ++ dn ++ jobs).filter (fun f => (s.frameJob? st f.seq).isSome)
  let once := all.foldl (fun l f => if l.any (fun g => g.seq == f.seq) then l else l ++ [f]) []
  sortBy (fun a b => a.seq == b.seq || seqBefore a.seq b.seq) once

/-- The kept samples of a stream go back to those of its frame checkpoint (R131, R263): a copy made since is dropped. -/
def State.keptBack (s : State) (st : Nat) (l : List Kept) : State :=
  let old := fun (q : Kept) => if q.stream = st then (l.find? (fun r => r.key == q.key)).map (fun r => { q with sample := r.sample }) else some q
  let gone := s.shp.kept.filter (fun q => (old q).isNone)
  gone.foldl (fun s q => s.freeAll q.bufs.1 q.bufs.2) ({ s with shp := { s.shp with kept := s.shp.kept.filterMap old } } : State)

/-- The context of a stream as its frame checkpoint holds it (R131, R160); without one, or with no valid mirror, it is rebuilt from its
HELD access units. -/
def State.fromCkpt (s : State) (st : Nat) (keep : List Frame) (next : Nat) : State :=
  let x := s.stream st
  let y : Stream := { x with
    frames := keep, cks := [], closing := none, waitOpen := none, forceNext := true, nextFrame := next
    replayTo := match keep.getLast? with | some f => some f.seq | none => x.replayTo }
  match (if x.rebuild ∨ s.rd Reg.HIF_JRNL_CFG_MIRROR_VALID = 0 then none else x.ckpt) with
  | some k => (((s.setStream st { y with lastFull := k.seq, refsFrom := none }).keptBack st k.kept).resumeDec st).freeOld st
  | none => ((((s.freeAll 7 (x.bufs ++ x.oldBufs)).dropKept st).setStream st
      { y with refs := [], last := none, refsFrom := none, seqHdr := none, bufs := [], oldBufs := [], rebuild := true }).setReg
      (Reg.DEC_STRM_DIMS st) 0).wr (Reg.DEC_STRM_SPARSE_RUN st) 0

/-- A stream's work in flight is discarded.  The frames of a live stream that lie whole in HBM stay to be decoded again, those in
reassembly only when `whole` is false; a host stream's come back with their AU_SUBMITs (R130). -/
def State.streamBack (whole : Bool) (s : State) (st : Nat) : State :=
  if s.strm st = 0 then s
  else
    let x := s.stream st
    let live := s.isLive st
    let fl := s.inFlight st
    let keep := if live then fl.filter (fun f => f.ready || !whole) else []
    let lost := if live then fl.filter (fun f => !f.ready && whole) else []
    let eng := (List.range 8).flatMap (fun e => (((s.engine e).cur.toList ++ (s.engine e).chosen.toList).filter
      (fun p => p.stream == st)).map (fun p => p.frame))
    let s1 := ((eng ++ x.frames).filter (fun f => !keep.any (fun g => g.seq == f.seq))).foldl State.freeFrame s
    let s2 := lost.foldl (fun s f => s.loseLive st f) s1
    let next := if live then x.nextFrame else match fl with | f :: _ => f.seq | [] => x.nextFrame
    let s3 := s2.fromCkpt st keep next
    let back := if x.haltCode = 0 then 1 else 2
    if s.strm st = 5 then s3.setStream st { s3.stream st with prior := back }
    else s3.wr (Reg.DEC_STRM_STATE_STATE st) back

/-- The engines drop their pictures; one in lehr moves its streams (R160, R185). -/
def State.decReset (s : State) : State :=
  let bufs := s.dec.pics.flatMap (fun p => p.bufs) ++
    (List.range 8).flatMap (fun e => ((s.engine e).cur.toList ++ (s.engine e).chosen.toList).flatMap (fun p => p.bufs))
  let s1 := bufs.foldl (fun s b => s.freeAll b.1 b.2) s
  let s2 : State := { s1 with dec := {} }
  ((List.range 8).foldl (fun s e =>
    let s' := s.wr (Reg.DEC_STATUS_CUR_VALID e) 0
    match s'.engineSt e with
    | 1 => s'.setEngineSt e 0
    | 2 => (s'.beginMoves e).movesDone e
    | 3 => (s'.beginMoves e).movesDone e
    | _ => s') s2).enginesNote

/-- Batches and source rows in a shaper are discarded; kept samples stay with the checkpoints (R131). -/
def State.shpReset (s : State) : State :=
  let s1 := (s.shp.batches.foldl State.freeBatch s).unpinIf (fun h => match h with | .rows _ _ _ => true | _ => false)
  (List.range 8).foldl State.shpNote ({ s1 with shp := { s1.shp with batches := [], stalled := [], rowStall := [] } } : State)

/-- The stations' operations are discarded; tracks and sets go back to the checkpoints (R131, R506, R514). -/
def State.sgsReset (s : State) : State :=
  let s1 : State := { s with sgs := { s.sgs with ops := [] } }
  let s2 := (List.range 128).foldl (fun s st =>
    if s.sgsSt st = 0 then s
    else
      let x := s.sgsStream st
      let y := s.stream st
      let p : SgsPart := match (if y.rebuild ∨ s.rd Reg.HIF_JRNL_CFG_MIRROR_VALID = 0 then none else y.ckpt) with | some k => k.sgs | none => {}
      (s.setSgs st { x with
        trk := p.trk.getD {}, disc := []
        sets := x.sets.map (fun q => { q with keys := match p.sets.find? (fun r => r.1 == q.node) with | some r => r.2 | none => [] }) }).sgsStrmNote st) s1
  (List.range 4).foldl (fun s k => (s.stationNote k).sgsLehrEnd k) s2.stationsNote

/-! ### Jobs, cores and queues -/

/-- What a job holds returns (R584). -/
def State.forgetJob (s : State) (j : Job) : State :=
  let s1 := j.sets.foldl (fun s x => s.freeAll x.bufs.1 x.bufs.2) s
  ((j.plan.getD []).foldl (fun s x => s.freeAll x.2.1 x.2.2) s1).unpin j.id

/-- A job that a received tile started begins anew: its tiles stay in their receive buffers (R641, R643). -/
def Job.anew (j : Job) (ticket : Nat) : Job :=
  { id := j.id, kind := j.kind, prog := j.prog, route := j.route, svc := j.svc, ticket := ticket, count := j.count
    stream := j.stream, jobId := j.jobId, frameSeq := j.frameSeq, pts := j.pts, ct := j.ct, flags := j.flags, home := j.home }

/-- A core drops its tiles, holds and contexts, and closes a stop in progress (R351, R552). -/
def State.coreReset (s : State) (c : Nat) : State :=
  let x := s.core c
  let s1 := s.setCore c { lehr := if s.coreState c = 2 ∨ s.coreState c = 3 then x.lehr else 0 }
  (if x.lehr = 4 then s1.coreResumes c else s1.stopEnd c).coreNote c

/-- A program's load or unload in progress begins anew with its command, and an ADAPT_RUN in progress leaves the optimiser state as it
stood (R130, R392). -/
def State.progReset (s : State) (p : Nat) : State :=
  let x := s.prog p
  let s1 := match s.progState p with
    | 1 => (s.setProg p {}).wr (Reg.GLB_PROG_STATUS_STATE p) 0
    | 0 => s
    | _ => (s.setProg p { x with unloading := none, pendLoad := none, loading := none }).wr (Reg.GLB_PROG_STATUS_STATE p) 2
  let y := s1.prog p
  match y.optOld with
  | some o => s1.setProg p { y with opt := o, optOld := none }
  | none => s1

/-- Jobs, tile jobs, contexts and stalled draws are discarded, and what they hold returns (R584, R698). -/
def State.dropWork (s : State) (tiles : Bool) : State :=
  let areas := s.sched.saved.map (·.area) ++ (List.range 64).filterMap (fun c => (s.core c).saving.map (·.area))
  let s1 := s.jobs.foldl State.forgetJob s
  let s2 := s1.sched.retiring.foldl (fun s r => s.freeAll r.cls r.bufs) s1
  let s3 := s2.freeAll 7 areas
  let isTile := fun (j : Job) => match j.kind with | .tile _ _ _ _ => tiles | _ => false
  let s4 : State := { (s3.wr Reg.SCHED_CTRL_SAVE_ALL 0).wr Reg.SCHED_CTRL_RESUME_ALL 0 with
    jobs := (s3.jobs.filter isTile).map (fun j => j.anew s3.ticketNow)
    sched := { s3.sched with ready := [], saved := [], retry := [], retiring := [], swaps := [], saving := false, resuming := false }
    tbl := { s3.tbl with loads := [], suspect := [] }
    jrnl := { s3.jrnl with cmds := [] } }
  let s5 := (List.range 32).foldl State.progReset (s4.wr Reg.SCHED_STATUS_SAVED_ALL 0)
  let s6 := (List.range 8).foldl (fun s c => (s.setPool c { s.poolC c with stalled := [] }).poolNote c) s5
  let s7 := (List.range 64).foldl (fun s p => let x := s.pchan p
    if x.queue.isEmpty then s else s.setPchan p { x with queue := [] }) s6
  ((List.range 64).foldl State.coreReset s7).schedNote

/-! ### Links and rings -/

/-- Ranlink forgets the work in flight (R641, R650, R698): with the ports trained, received tiles stay in their buffers; else they are
lost, and their senders send them again. -/
def State.lnkReset (s : State) (trained : Bool) : State :=
  let s1 : State := { s with lnk := { s.lnk with
    sent := [], colls := [], early := [], lostAt := []
    heldTiles := if trained then s.lnk.heldTiles.map (fun h => { h with job := match h.job with
      | some i => if (s.job? i).isSome then some i else none
      | none => none }) else [] } }
  let s2 := (List.range 4).foldl (fun s p => s.setLport p { lanesBad := (s.lport p).lanesBad }) s1
  if trained then s2
  else
    let s3 := s.lnk.heldTiles.foldl (fun s h => s.freeAll h.bufs.1 h.bufs.2) s2
    ((List.range 4).foldl (fun s p => if s.portSt p = 0 then s
      else ((s.setPortSt p (if s.portSt p = 5 then 0 else 4)).wr (Reg.LNK_PORT_STATUS_WIDTH p) 0)) s3).lnkNote

/-- Ingest forgets a frame in reassembly and what it had of its flows' sequence (R698). -/
def State.netReset (s : State) : State :=
  (List.range 32).foldl (fun s f => s.setFlow f { discont := (s.flow f).discont }) s

/-- A pennant that no recovery regenerates (R122, R126): device-level, or the refusal of a slot. -/
def Pn.lasting (p : Pn) : Bool :=
  match p.key with
  | .device => p.dev.isNone
  | .refusal _ => true
  | _ => false

/-- Rings keep only what no recovery regenerates; poll reads and slots in hand are discarded (R97, R128). -/
def State.ringsReset (s : State) : State :=
  let s1 := (List.range 64).foldl (fun s m => let r := s.pring m
    s.setPring m { r with ready := r.ready.filter Pn.lasting, mid := none }) s
  { s1 with hif := { s1.hif with crings := [], poison := [], xlateVoid := s1.hif.xlate } }

/-- Dwords of Advanced Error Reporting that a hot or function-level reset keeps, as the standard says of sticky fields. -/
def aerSticky : List Nat := [0x104, 0x110, 0x118]

/-- HIF registers that a hot or function-level reset keeps: those with ST fields and HIF_ERR_ADDR, and what is no configuration: whether
the mirror is valid, and the link of a function-level reset (R13, R128, R698). -/
def State.hifReset (s : State) (linkUp : Bool) : State :=
  let st := fun (a : Nat) => match rowOf a with | some r => r.mask (· == .st) != 0 | none => false
  let mv := s.rd Reg.HIF_JRNL_CFG_MIRROR_VALID
  let keep := fun (a : Nat) => decide (a < 0x100000 ∨ 0x400000 ≤ a) || st a || a == Reg.HIF_ERR_ADDR_LO || a == Reg.HIF_ERR_ADDR_HI
  let s1 : State := { s with
    regs := s.regs.filter (fun q => keep q.1)
    hif := { lanesBad := s.hif.lanesBad, gaps := s.hif.gaps, cfg := s.hif.cfg.filter (fun q => aerSticky.contains q.1) }
    jrnl := { s.jrnl with latched := false, rebuilding := false } }
  let s2 := s1.wr Reg.HIF_JRNL_CFG_MIRROR_VALID mv
  if linkUp then
    ((s2.wr Reg.HIF_STATUS_LINK_UP (s.rd Reg.HIF_STATUS_LINK_UP)).wr Reg.HIF_STATUS_LINK_SPEED (s.rd Reg.HIF_STATUS_LINK_SPEED)).wr
      Reg.HIF_STATUS_LINK_WIDTH (s.rd Reg.HIF_STATUS_LINK_WIDTH)
  else s2

/-- The jobs of the frames that live streams decode again (R126, R131). -/
def State.frameJobs (s : State) : State :=
  (List.range 128).foldl (fun s st =>
    let x := s.stream st
    if s.strm st = 0 then s
    else x.frames.foldl (fun s f => s.addJob (s.newFrameJob st f x.openJob x.openName)) s) s

/-- Every reset but a power-on reset discards the work in flight (R698).  `fw` is a firmware recovery reset, whose hardware is not reset;
`links` says that the Ranlink ports stay trained. -/
def State.discardWork (s : State) (fw links : Bool) : State :=
  let s1 := (List.range 128).foldl (State.streamBack (!fw)) s
  let s2 := (((s1.decReset).dropWork links).shpReset).sgsReset
  let s3 := ((if fw then s2 else s2.netReset).lnkReset links).ringsReset
  let s4 : State := { s3 with hlth := { s3.hlth with testing := if fw then s3.hlth.testing else [] } }
  (s4.frameJobs).progsNote

/-! ### Resets (R697 to R700) -/

/-- Rank of a reset (R700). -/
def ResetKind.rank : ResetKind → Nat
  | .powerOn => 3
  | .hot => 2
  | .flr => 2
  | .warm => 1
  | .fw => 0

/-- Command rings that a save put in LEHR resume in the states it found (R560, R689). -/
def State.ringsBack (s : State) : State :=
  let l := s.sched.savedRings
  let s1 := l.foldl State.ringResumes ({ s with sched := { s.sched with savedRings := [] } } : State)
  s1.pwr.savedRings.foldl (fun s q => if l.contains q.1 ∧ q.2 = 2 ∧ s.cState q.1 = 1 then s.wr (Reg.HIF_CRING_STATUS_STATE q.1) 2 else s)
    ({ s1 with pwr := { s1.pwr with savedRings := [] } } : State)

/-- The device is in ACTIVE and D0 (R700). -/
def State.toActive (s : State) : State :=
  let s1 := s.wr Reg.PWR_STATUS_STATE 0
  { s1 with pwr := { s1.pwr with stowing := false }, hif := { s1.hif with d3hot := false } }

/-- A recovery will follow a reset that keeps HIF (R128). -/
def State.willRecover (s : State) : State := if s.jInUse then s.wr Reg.HIF_JRNL_CFG_RECOVERING 1 else s

/-- What a firmware recovery reset does (R212, R698): in STOWED the device is saved, and only the firmware restarts. -/
def State.fwReset (s : State) : State :=
  if s.rd Reg.PWR_STATUS_STATE = 4 then s
  else
    let stowing := s.pwr.stowing
    let ts := [0, 1].filter (fun p => s.rd (Reg.NET_PORT_STATUS_TS_HW p) == 1)
    let s1 := ts.foldl (fun s p => s.wr (Reg.NET_PORT_STATUS_TS_HW p) 0) ((s.discardWork true true).willRecover)
    let s2 : State := { s1 with pwr := { s1.pwr with tsHeld := ts ++ s1.pwr.tsHeld } }
    if stowing then s2.saveAll else (s2.ringsBack).wr Reg.PWR_STATUS_STATE 0

/-- What a warm reset does. -/
def State.warmReset (s : State) : State := ((s.discardWork false true).willRecover).ringsBack.toActive

/-- What a hot or function-level reset does: the HIF configuration is lost, Ethernet goes down, and Ranlink to electrical idle. -/
def State.hotReset (s : State) (flr : Bool) : State :=
  let s1 := (s.discardWork false false).hifReset flr
  let s2 : State := { s1 with sched := { s1.sched with savedRings := [] }, pwr := { s1.pwr with savedRings := [] } }
  ([0, 1].foldl State.linkDown s2).toActive

/-- A reset other than a power-on reset begins, unless one of equal or higher rank is in progress (R700). -/
def State.startReset (s : State) (k : ResetKind) (last : Nat) : State :=
  if (match s.pwr.inReset with | some q => decide (k.rank ≤ q.rank) | none => false) then s
  else
    let s1 := (match k with
      | .powerOn => s
      | .hot => s.hotReset false
      | .flr => s.hotReset true
      | .warm => s.warmReset
      | .fw => s.fwReset).wr Reg.PWR_STATUS_LAST_RESET last
    { s1 with pwr := { s1.pwr with inReset := some k } }

/-! ### Power-on reset and boot -/

/-- Fuse fields that commands program and SEC_TAMPER keep their values (R622, R706 to R713, R719, R724): lifecycle, endorsement and
retired ranks come from their own state. -/
def fuseFields : List RegField :=
  [Reg.SEC_STATUS_SVN_FUSE, Reg.SEC_STATUS_TAMPER_EVENTS, Reg.SEC_KEYSLOTS_REVOKED, Reg.SEC_KEYSLOTS_PROGRAMMED]

/-- The latched tamper record, kept while VDD_AON stays up (R724). -/
def tamperFields : List RegField := [Reg.SEC_TAMPER_LATCHED, Reg.SEC_TAMPER_RAIL, Reg.SEC_TAMPER_SOURCES]

/-- A retired rank after power-on (R622): the first maps to the spare, the second is withdrawn. -/
def State.rankBack (s : State) (r : Nat × Nat) : State :=
  let s1 := s.wr (Reg.HBM_RNK_STATE_STATE r.1) 3
  if r.1 = 5 ∧ r.2 = 0 then s1
  else if r.2 = 0 then ((s1.wr (Reg.HBM_RNK_STATE_TARGET r.1) 5).wr (Reg.HBM_RNK_STATE_STATE 5) 0).moveFree r.1
  else (s1.wr Reg.HBM_STATUS_USABLE_GIB 32).withdrawTop

/-- A power-on reset (R698): everything takes its reset value but the fuses, the tamper record while VDD_AON stays up, and the pins. -/
def State.powerOn (s : State) (aon : Bool) : State :=
  let lc := match s.sec.busy with | some n => [n, n, n] | none => s.sec.lc
  let s0 : State :=
    { hbm := { retired := s.hbm.retired }
      sec := { lc := lc, seed := s.sec.seed, endorsement := s.sec.endorsement, draws := s.sec.draws }
      pwr := { pwrGood := s.pwr.pwrGood, rstPorN := s.pwr.rstPorN, rstWarmN := s.pwr.rstWarmN, perstN := s.pwr.perstN
               testMode := s.pwr.testMode, tripped := s.pwr.tripped }
      free := s.free, out := s.out, pending := s.pending }
  let s1 := (if aon then fuseFields ++ tamperFields else fuseFields).foldl (fun (x : State) f => x.wr f (s.rd f)) s0
  (s.hbm.retired.zipIdx.foldl State.rankBack s1).hbmNote.lcNote

/-- The board configuration record, when it is valid (R740). -/
def boardRecord (b : List Nat) : Option (List Nat) :=
  let len := ofBytes ((b.drop 8).take 4)
  if ofBytes (b.take 4) = 0x44424331 ∧ 16 ≤ len ∧ len ≤ 4096 ∧ len ≤ b.length ∧ ofBytes ((b.drop 12).take 4) = 0 then
    some (b.take len)
  else none

/-- The boot begins (R666, R671, R701, R712, R717, R720): the board record is read, key derivation, self-tests and the first margin plan
start, and in TERMINATED the boot ROM enters ROM service mode. -/
def State.boot (s : State) (board : List Nat) : State :=
  if s.pwr.pwrGood = false ∨ s.pwr.rstPorN = false ∨ s.pwr.tripped = true then s
  else
    let rec? := boardRecord board
    let s1 := s.cfgExtend 1 (rec?.getD [])
    let ids := match rec? with
      | some b => (ofBytes ((b.drop 4).take 2), ofBytes ((b.drop 6).take 2))
      | none => (0x1FD7, 0)
    let units := (List.range 64).map (fun u => ({ kind := 0, unit := u } : UnitId)) ++
      (List.range 8).map (fun u => ({ kind := 1, unit := u } : UnitId)) ++ (List.range 4).map (fun u => ({ kind := 2, unit := u } : UnitId))
    let s2 : State := { s1 with
      pwr := { s1.pwr with booting := true, subsys := ids, romService := s1.lifecycle == 4 }
      hlth := { s1.hlth with testing := units } }
    (s2.startDerive).planStart

end Sys2Proof.Machine
end

