-- ==== Sys2Proof/Machine/Pwr.lean ====
section
/-! DEFINITION. Reset events (R697 to R701, R737), power states (R684 to R689), clocks (R682), rails (R690 to R693) and limits (R694 to
R696). -/

set_option Elab.async false

namespace Sys2Proof.Machine

/-! ### Power-on and boot -/

/-- PWR_GOOD_RISE (R697, R701, R737): a power-on reset, and the boot when RST_POR_N is high. -/
def execPwrGoodRise (testMode : Bool) (board : List Nat) (s : State) : Host.Outcome State Fault Refusal :=
  let s1 := s.powerOn true
  .next (({ s1 with pwr := { s1.pwr with pwrGood := true, testMode := testMode } } : State).boot board)

/-- PWR_GOOD_FALL (R697): a power-on reset, and power is removed. -/
def execPwrGoodFall (s : State) : Host.Outcome State Fault Refusal :=
  let s1 := s.powerOn true
  .next { s1 with pwr := { s1.pwr with pwrGood := false, tripped := false } }

/-- RST_POR_N_LOW (R737). -/
def execRstPorNLow (s : State) : Host.Outcome State Fault Refusal :=
  let s1 := s.powerOn true
  .next { s1 with pwr := { s1.pwr with rstPorN := false } }

/-- RST_POR_N_RISE (R737): the times of R701 run from this edge. -/
def execRstPorNRise (board : List Nat) (s : State) : Host.Outcome State Fault Refusal :=
  if s.pwr.rstPorN then .next s
  else .next (({ s with pwr := { s.pwr with rstPorN := true } } : State).boot board)

/-- VDD_AON_LOSS (R693, R724): a power-on reset, and the tamper record is lost. -/
def execVddAonLoss (s : State) : Host.Outcome State Fault Refusal :=
  let s1 := s.powerOn false
  .next { s1 with pwr := { s1.pwr with pwrGood := false } }

/-- The conditions of READY (R701, R717, R737). -/
def State.mayReady (s : State) : Bool :=
  s.pwr.inReset == some .powerOn && s.pwr.booting && s.pwr.fwRunning && s.pwr.firstPlan && s.hlth.testing.isEmpty &&
    (s.rd (Reg.HBM_STK_TRAIN_TRAIN_OK 0) == 1 && s.rd (Reg.HBM_STK_TRAIN_TRAIN_OK 1) == 1) &&
    !(s.pwr.testMode && decide (s.lifecycle ≤ 1))

/-- READY (R701): the power-on reset ends. -/
def execReady (s : State) : Host.Outcome State Fault Refusal :=
  if s.mayReady then .next { s.wr Reg.PWR_STATUS_READY 1 with pwr := { s.pwr with inReset := none } } else .next s

/-! ### Other resets -/

/-- RST_WARM_N_FALL (R697, R737). -/
def execRstWarmNFall (s : State) : Host.Outcome State Fault Refusal :=
  .next (({ s with pwr := { s.pwr with rstWarmN := false } } : State).startReset .warm 1)

/-- RST_WARM_N_RISE (R737): the V96 may leave the warm reset. -/
def execRstWarmNRise (s : State) : Host.Outcome State Fault Refusal := .next { s with pwr := { s.pwr with rstWarmN := true } }

/-- PERST_ASSERT (R697): with PWR_GOOD high, a hot reset; the link is down. -/
def execPerstAssert (s : State) : Host.Outcome State Fault Refusal :=
  let s1 : State := { s with pwr := { s.pwr with perstN := false } }
  if s.pwr.pwrGood then
    let s2 := s1.startReset .hot 5
    .next (((s2.wr Reg.HIF_STATUS_LINK_UP 0).wr Reg.HIF_STATUS_LINK_SPEED 0).wr Reg.HIF_STATUS_LINK_WIDTH 0)
  else .next s1

/-- PERST_DEASSERT (R701): link training starts; PCIE_LINK_UP ends it. -/
def execPerstDeassert (s : State) : Host.Outcome State Fault Refusal := .next { s with pwr := { s.pwr with perstN := true } }

/-- PCIE_HOT_RESET (R697, R698): the link is retrained. -/
def execPcieHotReset (s : State) : Host.Outcome State Fault Refusal :=
  let s2 := s.startReset .hot 2
  .next (((s2.wr Reg.HIF_STATUS_LINK_UP 0).wr Reg.HIF_STATUS_LINK_SPEED 0).wr Reg.HIF_STATUS_LINK_WIDTH 0)

/-- FUNCTION_LEVEL_RESET (R697). -/
def execFunctionLevelReset (s : State) : Host.Outcome State Fault Refusal := .next (s.startReset .flr 3)

/-- PWR_RESET_WARM (R697, R704). -/
def execPwrResetWarm (w : BitVec 32) (s : State) : Host.Outcome State Fault Refusal := s.bar Reg.PWR_RESET fun s =>
  if bitsOf w.toNat 24 8 = 0xA5 ∧ bitsOf w.toNat 1 1 = 1 then .next (s.startReset .warm 1) else .next s

/-- PWR_RESET_FW (R697, R704): with WARM also 1, the warm reset is made. -/
def execPwrResetFw (w : BitVec 32) (s : State) : Host.Outcome State Fault Refusal := s.bar Reg.PWR_RESET fun s =>
  if bitsOf w.toNat 24 8 = 0xA5 ∧ bitsOf w.toNat 0 1 = 1 then
    .next (if bitsOf w.toNat 1 1 = 1 then s.startReset .warm 1 else s.startReset .fw 4)
  else .next s

/-- FW_WATCHDOG_EXPIRY (R697). -/
def execFwWatchdogExpiry (s : State) : Host.Outcome State Fault Refusal := .next (s.startReset .fw 4)

/-- Links train again after a hot or function-level reset (R631, R698). -/
def State.linksTrain (s : State) : State :=
  let s1 := (List.range 4).foldl (fun s p => if s.rd (Reg.LNK_PORT_CFG_ENABLE p) = 1 ∧ s.portSt p = 4 then s.setPortSt p 1 else s) s
  [0, 1].foldl (fun s p => if s.rd (Reg.NET_PORT_CFG_ENABLE p) = 1 ∧ s.rd (Reg.NET_PORT_STATUS_LINK_UP p) = 0 then
    s.setEthPort p { s.ethPort p with negotiating := true } else s) s1

/-- Stamping units are armed again after a firmware recovery reset (R212). -/
def State.rearm (s : State) : State :=
  let s1 := s.pwr.tsHeld.foldl (fun s p => if s.rd (Reg.NET_PORT_STATUS_LINK_UP p) = 1 then s.wr (Reg.NET_PORT_STATUS_TS_HW p) 1 else s) s
  { s1 with pwr := { s1.pwr with tsHeld := [] } }

/-- RESET_INTERVAL_END (R128, R698): the interval of a reset other than power-on ends; a reset that keeps HIF is followed by the V96's
own recovery, from the mirror or from what the host region returns. -/
def execResetIntervalEnd (host : Option (List (BitVec 1024) × List (BitVec 128))) (s : State) : Host.Outcome State Fault Refusal :=
  match s.pwr.inReset with
  | none => .next s
  | some k =>
    let s1 : State := { s with pwr := { s.pwr with inReset := none } }
    match k with
    | .powerOn => .next s
    | .warm => if s.pwr.rstWarmN = false then .next s else .next (if s1.jInUse then s1.recover host else s1)
    | .fw =>
      let s2 := s1.rearm
      .next (if s2.jInUse = true ∧ s2.rd Reg.PWR_STATUS_STATE ≠ 4 then s2.recover host else s2)
    | .hot => .next s1.linksTrain
    | .flr => .next s1.linksTrain

/-! ### FURLED (R684 to R687) -/

/-- The idle conditions of R685. -/
def State.furlIdle (s : State) : Bool :=
  (s.rd Reg.PWR_CTRL_FURL_EN == 1 && s.pwr.inReset.isNone && s.rd Reg.PWR_STATUS_STATE == 0) &&
    (s.hif.crings.all (fun q => q.2.wait.isNone) && s.jobs.isEmpty && s.sched.ready.isEmpty) &&
    s.jrnl.entries.all (fun e => e.2.st != .accepted) && (List.range 32).all (fun f => s.flowSt f == 0) &&
    (s.lnk.sent.isEmpty && s.lnk.heldTiles.isEmpty) &&
    (s.hif.prings.all (fun r => r.2.ready.isEmpty) && s.hif.svcQueue.isEmpty) &&
    (decide (s.planSt < 2) && (List.range 6).all (fun r => s.rankState r != 2 && s.rankState r != 4))

/-- FURL_IDLE_EXPIRY (R685, R687): the furl lehr begins. -/
def execFurlIdleExpiry (s : State) : Host.Outcome State Fault Refusal :=
  if s.furlIdle then .next (s.wr Reg.PWR_STATUS_STATE 1) else .next s

/-- The fast clocks stop; a port that is to keep its SerDes does (R231, R632, R684). -/
def State.clocksOff (s : State) (links : Bool) : State :=
  let on := s.reg Reg.PWR_CLK_ON
  s.setReg Reg.PWR_CLK_ON (if links then on &&& (3#32 <<< 18) else 0)

/-- FURL_LEHR_END (R687): the device is FURLED; a wake latched during the lehr is acted on at once. -/
def execFurlLehrEnd (s : State) : Host.Outcome State Fault Refusal :=
  if s.pwr.stowing then .next s
  else
    match s.rd Reg.PWR_STATUS_STATE with
    | 1 => .next ((s.clocksOff true).wr Reg.PWR_STATUS_STATE 3)
    | 2 => .next (s.clocksOff true).unfurl
    | _ => .next s

/-- WAKE_EVENT. -/
def execWakeEvent (s : State) : Host.Outcome State Fault Refusal := .next s.wakeUp

/-! ### STOWED (R688, R689) -/

/-- The return from STOWED begins (R689, R692): rails 0 to 9 come up at 0.80 V and take their set points, and the context is restored. -/
def State.unstow (s : State) : State :=
  let s1 := (List.range 10).foldl (fun s r => (s.post (Out.rail r 800)).post (Out.rail r (s.rd (Reg.HLTH_GRP_SET_SET_MV r)))) s
  ({ s1.wr Reg.PWR_STATUS_STATE 5 with hif := { s1.hif with d3hot := false } } : State).resumeAll

/-- The entry to STOWED completes once the device is saved (R688, R689): rails 0 to 9 go off, and what a live stream receives next
follows DISCONT; a D0 latched during the entry begins the return at once. -/
def State.stowEnd (s : State) : State :=
  if s.pwr.stowing = true ∧ s.rd Reg.SCHED_STATUS_SAVED_ALL = 1 then
    let latched := s.rd Reg.PWR_STATUS_STATE = 2
    let s1 := (List.range 10).foldl (fun s r => s.post (Out.rail r 0)) (s.clocksOff false)
    let s2 := (List.range 32).foldl (fun s f => if s.flowSt f = 0 then s else s.setFlow f { s.flow f with discont := true }) s1
    let s3 : State := { s2.wr Reg.PWR_STATUS_STATE 4 with pwr := { s2.pwr with stowing := false } }
    if latched then s3.unstow else s3
  else s

/-- D3HOT_WRITE (R686, R688): a write of the PMCSR wakes a FURLED device; then the whole device is saved. -/
def execD3hotWrite (s : State) : Host.Outcome State Fault Refusal :=
  let s0 := s.wakeUp
  let st := s0.rd Reg.PWR_STATUS_STATE
  if s.hif.d3hot = false ∧ s.pwr.inReset.isNone = true ∧ st ≠ 5 then
    let states := (List.range 16).map (fun c => (c, s0.cState c))
    let s1 : State := { s0.wr Reg.PWR_STATUS_STATE 1 with
      hif := { s0.hif with d3hot := true }, pwr := { s0.pwr with stowing := true, savedRings := states } }
    .next ((s1.saveAll).stowEnd)
  else .next s0

/-- D0_WRITE (R689): in STOWED the return begins; during the entry it is latched. -/
def execD0Write (s : State) : Host.Outcome State Fault Refusal :=
  if s.hif.d3hot = false then .next s.wakeUp
  else
    match s.rd Reg.PWR_STATUS_STATE with
    | 4 => .next s.unstow
    | 1 => .next (s.wr Reg.PWR_STATUS_STATE 2)
    | _ => .next s

/-- SAVE_ALL_COMPLETE (R559, R688). -/
def execSaveAllComplete (s : State) : Host.Outcome State Fault Refusal := .next (s.saveAllDone).stowEnd

/-- RESUME_ALL_COMPLETE (R560, R689): the rings are enabled again, and a return from STOWED ends. -/
def execResumeAllComplete (s : State) : Host.Outcome State Fault Refusal :=
  if s.sched.resuming then
    let l := s.sched.savedRings
    let s1 := s.resumeDone
    let s2 := s1.pwr.savedRings.foldl (fun s q =>
      if l.contains q.1 ∧ q.2 = 2 ∧ s.cState q.1 = 1 then s.wr (Reg.HIF_CRING_STATUS_STATE q.1) 2 else s) s1
    let s3 : State := { s2 with pwr := { s2.pwr with savedRings := [] } }
    .next (if s3.rd Reg.PWR_STATUS_STATE = 5 then s3.wr Reg.PWR_STATUS_STATE 0 else s3)
  else .next s

/-! ### Clocks (R682) -/

/-- A block has work: clusters 0 to 7, DEC and SHP pairs 8 to 15, then the fabric, HBM PHY, Ranlink and Ethernet (R704). -/
def State.clockBusy (s : State) (block : Nat) : Bool :=
  if block < 8 then (List.range 8).any (fun i => let x := s.core (8 * block + i); !x.runs.isEmpty || !x.placed.isEmpty || x.saving.isSome)
  else if block < 16 then (s.engine (block - 8)).cur.isSome || s.shp.batches.any (fun b => b.shp == block - 8)
  else if block = 16 then !s.jobs.isEmpty || !s.sgs.ops.isEmpty || s.hif.prings.any (fun r => !r.2.ready.isEmpty)
  else if block = 17 then (List.range 64).any (fun p => !(s.pchan p).queue.isEmpty)
  else if block = 18 then (List.range 4).any (fun p => s.portSt p != 0)
  else [0, 1].any (fun p => s.rd (Reg.NET_PORT_CFG_ENABLE p) == 1)

/-- The bit of a block in PWR_CLK_ON. -/
def clkOn (block : Nat) : RegField := ⟨Reg.PWR_CLK_ON, block, 1⟩

/-- CLOCK_GATE (R682). -/
def execClockGate (block : Nat) (s : State) : Host.Outcome State Fault Refusal :=
  if block < 20 ∧ s.clockBusy block = false then .next (s.wr (clkOn block) 0) else .next s

/-- CLOCK_START (R682): not in FURLED or STOWED, whose fast clocks are off (R684). -/
def execClockStart (block : Nat) (s : State) : Host.Outcome State Fault Refusal :=
  let st := s.rd Reg.PWR_STATUS_STATE
  if block < 20 ∧ st ≠ 3 ∧ st ≠ 4 then .next (s.wr (clkOn block) 1) else .next s

/-! ### Rails (R690, R691) -/

/-- A read-back lies outside ±2 % of the set point of an adaptive rail. -/
def State.railOut (s : State) (rail mv : Nat) : Bool :=
  let v := s.rd (Reg.HLTH_GRP_SET_SET_MV rail)
  decide (100 * mv < 98 * v ∨ 102 * v < 100 * mv)

/-- RAIL_READBACK (R691): current in units of 100 mA and voltage in mV, or no answer. -/
def execRailReadback (rail : Nat) (reading : Option (Nat × Nat)) (s : State) : Host.Outcome State Fault Refusal :=
  match reading with
  | none => .next (s.wr Reg.PWR_EVENT_AVS_FAULT 1)
  | some (cur, mv) =>
    let s1 := (s.wr (Reg.PWR_RAIL_CURRENT rail) cur).wr (Reg.PWR_RAIL_MV rail) mv
    let off := decide (s.rd Reg.PWR_STATUS_STATE = 4 ∧ rail < 10)
    let since := (tget (fun _ => none) s.pwr.railBad rail).getD s.time.mono
    .next { s1 with pwr := { s1.pwr with
      railBad := tset (fun _ => none) s1.pwr.railBad rail (if s.railOut rail mv = true ∧ off = false then some since else none) } }

/-- RAIL_FAULT (R691): the read-back has lain outside the tolerance for 1 ms. -/
def execRailFault (rail : Nat) (s : State) : Host.Outcome State Fault Refusal :=
  match tget (fun _ => none) s.pwr.railBad rail with
  | some t => if t + 10 ^ 6 ≤ s.time.mono then .next (s.wr Reg.PWR_EVENT_RAIL_FAULT 1) else .next s
  | none => .next s

/-! ### Limits (R694 to R696) -/

/-- The device's power in mW (R694): the read-back products of rails 0 to 11, current in units of 100 mA and voltage in mV, and a fixed
allowance for the other rails. -/
def State.powerNow (s : State) : Nat :=
  sumNat ((List.range 12).map (fun r => s.rd (Reg.PWR_RAIL_CURRENT r) * s.rd (Reg.PWR_RAIL_MV r) / 10)) + Config.railAllowance

/-- The average of the last ten sums, in W (R694). -/
def averageW (l : List Nat) : Nat := sumNat l / (1000 * max 1 l.length)

/-- THROTTLE_STEP (R694): every 100 µs, with the hottest junction in °C. -/
def execThrottleStep (tj : Int) (s : State) : Host.Outcome State Fault Refusal :=
  let powers := (s.powerNow :: s.pwr.powers).take 10
  let power := averageW powers
  let cap := s.rd Reg.PWR_CAP_CAP_W
  let top : Int := (s.rd Reg.PWR_CAP_TJ_MAX_C : Int)
  let hot := decide (top - 5 ≤ tj)
  let ovr := decide (cap < power)
  let s1 := (s.wr Reg.PWR_POWER_POWER_W power).wr Reg.PWR_STATUS_TJ_C (unsgn 8 tj)
  let duty := s.rd Reg.PWR_THROTTLE_DUTY
  let new := if hot ∨ ovr then duty - 16
    else if power + 10 < cap ∧ tj < top - 8 then min 1024 (duty + 16) else duty
  let by_ := if new = 1024 then 0 else s.pwr.throttleBy ||| (if hot then 1 else 0) ||| (if ovr then 2 else 0)
  let s2 : State := { s1.wr Reg.PWR_THROTTLE_DUTY new with pwr := { s1.pwr with powers := powers, throttleBy := by_ } }
  let s3 := if bitsOf by_ 0 1 = 1 then s2.wr Reg.PWR_EVENT_TJ_THROTTLE 1 else s2
  .next (if bitsOf by_ 1 1 = 1 then s3.wr Reg.PWR_EVENT_CAP_THROTTLE 1 else s3)

/-- THERMAL_TRIP (R696, R723): THERMTRIP_N is driven, the tamper source HOT acts, and the device holds itself in power-on reset. -/
def execThermalTrip (s : State) : Host.Outcome State Fault Refusal :=
  let s1 := ((s.tamper 3 0).post Out.thermTrip).powerOn true
  .next { s1 with pwr := { s1.pwr with tripped := true } }

end Sys2Proof.Machine
end

