-- ==== Sys2Proof/Machine/Snap.lean ====
section
/-! DEFINITION. The hoist (R673 to R676). -/

set_option Elab.async false

namespace Sys2Proof.Machine

/-- HOIST (R674, R686): SNAP_CTRL.HOIST written 1. -/
def execHoist (s : State) : Host.Outcome State Fault Refusal := s.bar Reg.SNAP_CTRL fun s => .next (s.hoist 0 0 0xFFFF).wakeUp

/-- The level of SNAP_IN has held for FILT AON ticks after an edge `ago` ns ago, or, with FILT 0, the edge is no closer than 10 ns to the
one before: the filter of TP_IN (R229, R674). -/
def State.snapEdgeCounts (s : State) (ago : Nat) : Bool :=
  let filt := s.rd Reg.SNAP_PIN_CFG_FILT
  if filt = 0 then
    match s.snap.lastEdge with
    | some t => decide (t + 10 ≤ s.time.mono - ago)
    | none => true
  else decide (40 * filt ≤ ago)

/-- SNAP_IN_EDGE (R674, R686): an edge `ago` ns ago that SNAP_PIN_CFG selects and its filter passes, while SRC_PIN is 1. -/
def execSnapInEdge (rising : Bool) (ago : Nat) (s : State) : Host.Outcome State Fault Refusal :=
  let e := s.rd Reg.SNAP_PIN_CFG_EDGE
  let sel := if rising then e == 1 || e == 3 else e == 2 || e == 3
  if s.rd Reg.SNAP_CTRL_SRC_PIN = 1 ∧ sel = true ∧ s.snapEdgeCounts ago = true then
    let s1 : State := { s with snap := { s.snap with lastEdge := some (s.time.mono - ago) } }
    .next (s1.hoist 1 0 0xFFFF).wakeUp
  else .next s

/-- The match time of SNAP_TIME in ns. -/
def State.snapTime (s : State) : Nat :=
  s.rd64 Reg.SNAP_TIME_SEC_LO Reg.SNAP_TIME_SEC_HI * 10 ^ 9 + (s.reg Reg.SNAP_TIME_NS).toNat

/-- The last clock step jumped over the match time (R676). -/
def State.snapJumped (s : State) : Bool :=
  match s.snap.jump with
  | some (b, a) => decide (b < s.snapTime ∧ s.snapTime < a)
  | none => false

/-- SNAP_TIME_MATCH (R674, R676, R686): the device clock has reached SNAP_TIME; LATE when a step jumped over it. -/
def execSnapTimeMatch (s : State) : Host.Outcome State Fault Refusal :=
  let t := s.time.sec * 10 ^ 9 + s.time.ns
  if s.rd Reg.SNAP_CTRL_SRC_TIME = 1 ∧ s.snapTime ≤ t then
    let late := s.snapJumped && decide (s.rd Reg.SNAP_CTRL_ARM = 1)
    .next ((if late then s.wr Reg.SNAP_TIME_CFG_LATE 1 else s).hoist 3 0 0xFFFF).wakeUp
  else .next s

/-- SNAP_ARM (R675): ARM written 1 clears HELD, SOURCE and SNAP_CAUSE. -/
def execSnapArm (s : State) : Host.Outcome State Fault Refusal := s.bar Reg.SNAP_CTRL fun s =>
  let s1 := (((s.wr Reg.SNAP_CTRL_ARM 1).wr Reg.SNAP_STATUS_HELD 0).wr Reg.SNAP_STATUS_SOURCE 0).setReg Reg.SNAP_CAUSE 0
  .next { s1 with snap := { s1.snap with armMono := some s.time.mono } }

end Sys2Proof.Machine
end

