-- ==== Sys2Proof/Machine/Bar.lean ====
section
/-! DEFINITION. BAR0 reads and writes (R12 to R17, R58 to R62, R104, R116, R218, R234, R746), and the debug port (R726). -/

set_option Elab.async false

namespace Sys2Proof.Machine

/-! ### Reads -/

/-- The number of an array's element that lies at an address. -/
def elemAt (base n stride a : Nat) : Option Nat :=
  if base ≤ a ∧ (a - base) % stride = 0 ∧ (a - base) / stride < n then some ((a - base) / stride) else none

/-- The registers that a read of an address latches (R62, R218, R234). -/
def latchesOf (a : Nat) : List Nat :=
  if a = Reg.TIME_CLK_SEC_LO then [Reg.TIME_CLK_SEC_HI, Reg.TIME_CLK_NS, Reg.TIME_CLK_FRAC]
  else
    match elemAt (Reg.TIME_TPI_SEC_LO 0) 2 0x20 a with
    | some i => [Reg.TIME_TPI_SEC_HI i, Reg.TIME_TPI_NS i]
    | none => (hiOf a).toList

/-- A dword read of BAR0: its latches, then its data (R17, R59, R62, R746). -/
def State.busRead (s : State) (a : Nat) : State :=
  if s.barRefused then s.post (.unsupportedRequest a)
  else if s.served a = false then s.post (.readData a 0)
  else
    let s1 := (latchesOf a).foldl State.latch (s.touch a)
    s1.post (.readData a (s1.read a))

/-- What a dword of configuration space reads (R53, R688, R740, R748): the revision with the running firmware's major revision, the
board's subsystem IDs, the power state, and the link's speed and width. -/
def State.cfgView (s : State) (off : Nat) : BitVec 32 :=
  let v := (s.cfgReg off).toNat
  if off = 0x08 then BitVec.ofNat 32 (putBits v 4 4 (if s.pwr.fwRunning then s.rd Reg.GLB_FW_MAJOR else 0))
  else if off = 0x2C then BitVec.ofNat 32 (s.pwr.subsys.1 % 2 ^ 16 + s.pwr.subsys.2 % 2 ^ 16 * 2 ^ 16)
  else if off = 0x44 then BitVec.ofNat 32 (putBits v 0 2 (if s.hif.d3hot then 3 else 0))
  else if off = 0x80 then
    BitVec.ofNat 32 (putBits (putBits v 16 4 (s.rd Reg.HIF_STATUS_LINK_SPEED)) 20 6 (s.rd Reg.HIF_STATUS_LINK_WIDTH))
  else BitVec.ofNat 32 v

/-- LO_REGISTER_READ (R59, R62): a read of a register; a _LO register latches its _HI partner.  An address from 2^32 on is a read of
configuration space (R53, R54; log entry 10). -/
def execLoRegisterRead (addr : Nat) (s : State) : Host.Outcome State Fault Refusal :=
  .next (if isCfg addr then s.post (.readData addr (s.cfgView (addr - cfgBase))) else s.busRead addr)

/-- TIME_CLK_SEC_LO_READ (R218). -/
def execTimeClkSecLoRead (s : State) : Host.Outcome State Fault Refusal := .next (s.busRead Reg.TIME_CLK_SEC_LO)

/-- TIME_TPI_SEC_LO_READ (R234). -/
def execTimeTpiSecLoRead (input : Nat) (s : State) : Host.Outcome State Fault Refusal :=
  .next (s.busRead (Reg.TIME_TPI_SEC_LO input))

/-! ### Writes by access code -/

/-- The register's value after a write (R12); a write of 1 to VALID of an error register clears it whole (R14). -/
def RegRow.written (r : RegRow) (old w : Nat) : Nat :=
  let put := r.mask (· == .rw)
  let clr := r.mask (fun a => a == .w1c || a == .st)
  let set := r.mask (· == .w1s)
  let all := 2 ^ 32 - 1
  if r.fields.any (fun f => f.lo == 31 && f.acc == .st) = true ∧ bitsOf w 31 1 = 1 then 0
  else (old &&& (all ^^^ put) &&& (all ^^^ (clr &&& w))) ||| (w &&& put) ||| (w &&& set)

/-- A write to a register that acts by its access codes alone; where no register lies it is discarded (R12, R17). -/
def State.plainWrite (s : State) (a : Nat) (w : BitVec 32) : State :=
  match rowOf a with
  | none => s
  | some r => s.setReg a (BitVec.ofNat 32 (r.written (s.reg a).toNat w.toNat))

/-! ### Writes with an effect of their own -/

/-- The state after a command that answers a next state. -/
def State.after (s : State) (k : State → Host.Outcome State Fault Refusal) : State :=
  match k s with
  | .next t => t
  | _ => s

/-- Run a command when a bit of the written word is 1. -/
def State.ifBit (s : State) (w : BitVec 32) (b : Nat) (k : State → Host.Outcome State Fault Refusal) : State :=
  if bitsOf w.toNat b 1 = 1 then s.after k else s

/-- One command when a bit of the word is 1, another when it is 0. -/
def State.byBit (s : State) (w : BitVec 32) (b : Nat) (k1 k0 : State → Host.Outcome State Fault Refusal) : State :=
  if bitsOf w.toNat b 1 = 1 then s.after k1 else s.after k0

/-- HIF's global registers and the journal's (R97, R115, R116, R130).  An enable that recovers from the host region arrives as
JRNL_RECOVER. -/
def State.hifWrite (s : State) (a : Nat) (w : BitVec 32) : State :=
  if a = Reg.HIF_JRNL_BASE_LO then s.cfgWrite (!s.jInUse) [Reg.HIF_JRNL_BASE_LO_BASE_LO] w 63 a
  else if a = Reg.HIF_JRNL_BASE_HI then s.cfgWrite (!s.jInUse) [Reg.HIF_JRNL_BASE_HI_BASE_HI] w 63 a
  else if a = Reg.HIF_JRNL_CFG then
    if bitsOf w.toNat 30 2 = 3 then
      if s.jInUse = true ∨ s.rd Reg.HIF_JRNL_CFG_MIRROR_VALID = 1 then s.after (execJrnlRecover w none) else s
    else s.byBit w 31 (execJrnlEnable w) (execJrnlDisable w)
  else s.plainWrite a w

/-- The registers of command ring `c` (R104). -/
def State.cringWrite (s : State) (c off a : Nat) (w : BitVec 32) : State :=
  let cfg := fun (f : RegField) => s.cfgWrite (decide (s.cState c = 0)) [f] w c a
  match off with
  | 0x00 => cfg (Reg.HIF_CRING_BASE_LO_BASE_LO c)
  | 0x04 => cfg (Reg.HIF_CRING_BASE_HI_BASE_HI c)
  | 0x08 => s.byBit w 31 (execCringEnable c w) (execCringDisable c w)
  | 0x0C => s.after (execHifCringSeq0Write c w)
  | 0x10 => cfg (Reg.HIF_CRING_NEXT_NEXT c)
  | _ => s.plainWrite a w

/-- The registers of pennant ring `m` (R104).  The enable of a DISABLED ring reads its consumer record: it arrives as PRING_ENABLE. -/
def State.pringWrite (s : State) (m off a : Nat) (w : BitVec 32) : State :=
  let cfg := fun (f : RegField) => s.cfgWrite (decide (s.pState m = 0)) [f] w (64 + m) a
  match off with
  | 0x00 => cfg (Reg.HIF_PRING_BASE_LO_BASE_LO m)
  | 0x04 => cfg (Reg.HIF_PRING_BASE_HI_BASE_HI m)
  | 0x08 =>
    if bitsOf w.toNat 31 1 = 1 ∧ s.pState m = 0 then s
    else s.byBit w 31 (execPringEnable m w 0) (execPringDisable m w)
  | 0x10 => cfg (Reg.HIF_PRING_CONS_LO_CONS_LO m)
  | 0x14 => cfg (Reg.HIF_PRING_CONS_HI_CONS_HI m)
  | 0x18 => cfg (Reg.HIF_PRING_SEQ_LO_SEQ_LO m)
  | 0x1C => cfg (Reg.HIF_PRING_SEQ_HI_SEQ_HI m)
  | 0x28 => cfg (Reg.HIF_PRING_PROD_LO_PROD_LO m)
  | 0x2C => cfg (Reg.HIF_PRING_PROD_HI_PROD_HI m)
  | _ => s.plainWrite a w

/-- The MSI-X table: a vector whose mask bit becomes 0 is unmasked (R98, R101). -/
def State.msixWrite (s : State) (a : Nat) (w : BitVec 32) : State :=
  let s1 := s.plainWrite a w
  match elemAt (Reg.MSIX_CTRL 0) 256 16 a with
  | some v => if bitsOf w.toNat 0 1 = 0 then s1.after (execMsixVectorUnmask v) else s1
  | none => s1

/-- NET's registers: a flow's configuration is writable only while it is DISABLED (R198). -/
def State.netWrite (s : State) (a : Nat) (w : BitVec 32) : State :=
  match elemAt (Reg.NET_PORT_CFG 0) 2 0x40 a with
  | some p => s.after (execNetPortEnable p w)
  | none =>
    if Reg.NET_FLOW_CFG 0 ≤ a then
      let f := (a - Reg.NET_FLOW_CFG 0) / 0x40
      match (a - Reg.NET_FLOW_CFG 0) % 0x40 with
      | 0x00 => s.byBit w 31 (execFlowEnable f w) (execFlowDisable f w)
      | 0x2C => s.plainWrite a w
      | off => if 0x20 < off ∨ s.flowSt f = 0 then s.plainWrite a w else s.netErr 0x0301 f
    else s.plainWrite a w

/-- A write of TIME_TPO_CFG: an arm, or ARM 0, which turns the output off (R226, R234). -/
def State.tpoWrite (s : State) (k a : Nat) (w : BitVec 32) : State :=
  if bitsOf w.toNat 31 1 = 1 then s.after (execTpOutArm k w) else (s.plainWrite a w).setTpoNext k none

/-- TIME's registers (R216, R219, R225, R226). -/
def State.timeWrite (s : State) (a : Nat) (w : BitVec 32) : State :=
  if a = Reg.TIME_CTRL then s.timeCtrlWrite w
  else if a = Reg.TIME_RATE then s.after (execTimeRateWrite w)
  else if a = Reg.TIME_SET_NS then if 999999999 < w.toNat then s.timeErr 0x0309 else s.plainWrite a w
  else
    match elemAt (Reg.TIME_TPO_CFG 0) 4 0x20 a with
    | some k => s.tpoWrite k a w
    | none => s.plainWrite a w

/-- A core's registers (R345, R351, R358, R435). -/
def State.coreWrite (s : State) (c off a : Nat) (w : BitVec 32) : State :=
  match off with
  | 0x08 =>
    let s1 := s.wr (Reg.CORE_LRW_CTRL_INJECT_LANE c) (bitsOf w.toNat 8 8)
    (s1.ifBit w 30 (execCkInject c)).byBit w 31 (execCoreOffline c) (execCoreOnline c)
  | 0x118 =>
    let s1 := ((s.wr (Reg.CORE_MRV_PROBE_CFG_SHADOW c) (bitsOf w.toNat 16 1)).wr (Reg.CORE_MRV_PROBE_CFG_SLOT c)
      (bitsOf w.toNat 12 4)).wr (Reg.CORE_MRV_PROBE_CFG_SEG c) (bitsOf w.toNat 0 8)
    s1.ifBit w 31 (execMrvProbe c)
  | _ => s.plainWrite a w

/-- SCHED's registers (R542, R543, R559 to R561, R563). -/
def State.schedWrite (s : State) (a : Nat) (w : BitVec 32) : State :=
  if a = Reg.SCHED_CTRL then (s.ifBit w 31 execSaveAll).ifBit w 30 execResumeAll
  else if a = Reg.SCHED_CLS_COMMIT then (s.plainWrite a w).ifBit w 0 execSchedClsCommit
  else
    match elemAt (Reg.SCHED_CLS_CFG 0) 4 0x20 a, elemAt (Reg.SCHED_CLS_MAXWAIT 0) 4 0x20 a with
    | some n, _ => s.after (execClassEnable n w)
    | _, some n => s.ifBit w 31 (execMaxwaitClear n)
    | _, _ => s.plainWrite a w

/-- POOL's registers: BASE and COUNT only while the pool is DISABLED (R573, R583). -/
def State.poolWrite (s : State) (a : Nat) (w : BitVec 32) : State :=
  if 0x1900100 ≤ a ∧ a < 0x1900300 then
    let c := (a - 0x1900100) / 0x40
    match (a - 0x1900100) % 0x40 with
    | 0x00 => s.byBit w 31 (execPoolEnable c w) (execPoolDisable c w)
    | 0x10 => s.after (execPoolThreshWrite c w)
    | off => if (off = 4 ∨ off = 8 ∨ off = 12) ∧ s.poolState c ≠ 0 then s.poolErr 0x0D01 c else s.plainWrite a w
  else if 0x1901000 ≤ a ∧ a < 0x1902000 then
    let o := (a - 0x1901000) / 0x80
    let off := (a - 0x1901000) % 0x80
    if 0x20 ≤ off ∧ off < 0x40 then s.after (execPoolResWrite o ((off - 0x20) / 4) w) else s.plainWrite a w
  else s.plainWrite a w

/-- HBM's registers (R614, R624). -/
def State.hbmWrite (s : State) (a : Nat) (w : BitVec 32) : State :=
  if a = Reg.HBM_CTRL then s.countMoves.plainWrite a w else
  match elemAt (Reg.HBM_RNK_CTRL 0) 6 0x20 a, elemAt (Reg.HBM_PORT_MAXLAT 0) 24 16 a with
  | some r, _ => s.ifBit w 0 (execRetire r)
  | _, some p => s.ifBit w 31 (execHbmPortMaxlatClear p)
  | _, _ => s.plainWrite a w

/-- Ranlink's registers (R630, R651). -/
def State.lnkWrite (s : State) (a : Nat) (w : BitVec 32) : State :=
  if a = Reg.LNK_TOPO then s.after (execLnkTopoWrite w)
  else
    match elemAt (Reg.LNK_PORT_CFG 0) 4 0x40 a with
    | some p => s.after (execLnkPortEnable p w)
    | none => s.plainWrite a w

/-- PWR's registers (R697, R704). -/
def State.pwrWrite (s : State) (a : Nat) (w : BitVec 32) : State :=
  if a = Reg.PWR_CAP then
    if 100 ≤ bitsOf w.toNat 0 10 ∧ bitsOf w.toNat 0 10 ≤ 375 then s.plainWrite a w else s
  else if a = Reg.PWR_RESET then
    if bitsOf w.toNat 1 1 = 1 then s.after (execPwrResetWarm w) else s.after (execPwrResetFw w)
  else s.plainWrite a w

/-- HLTH's registers and the record file (R657, R659, R666, R672). -/
def State.hlthWrite (s : State) (a : Nat) (w : BitVec 32) : State :=
  if a = Reg.HLTH_CTRL then (s.ifBit w 31 execClearAll).ifBit w 30 execPlanNow
  else if a = Reg.HLTH_UNFENCE then s.after (execHlthUnfence w)
  else
    match elemAt 0x1E01000 128 0x20 a with
    | some n => s.ifBit w 31 (execRecordEntryClear n)
    | none => s.plainWrite a w

/-- SNAP's registers (R674, R675, R679): the arm and the sources of a write stand before its HOIST. -/
def State.snapWrite (s : State) (a : Nat) (w : BitVec 32) : State :=
  if a = Reg.SNAP_CTRL then
    let s1 := s.setReg a (BitVec.ofNat 32 (packBits [(31, 1, bitsOf w.toNat 31 1), (0, 3, bitsOf w.toNat 0 3)]))
    (s1.ifBit w 31 execSnapArm).ifBit w 30 execHoist
  else if a = Reg.SNAP_TIME_NS ∧ 999999999 < w.toNat then
    (s.setErr Reg.SNAP_ERR false (0, 0, 0) 0x0E08).file .snap 0xFFFF 0x0E08
  else s.plainWrite a w

/-- A lifecycle command (R707): with the key 0xA5; an OP that names no command is refused. -/
def State.lcWrite (s : State) (w : BitVec 32) : State :=
  if bitsOf w.toNat 24 8 ≠ 0xA5 then s
  else
    match bitsOf w.toNat 16 4 with
    | 1 => s.after execChallenge
    | 2 => s.after execProvision
    | 3 => s.after execEndorse
    | 4 => s.after execProduction
    | 5 => s.after execReturnCmd
    | 6 => s.after execTerminate
    | 7 => s.after (execRevoke (bitsOf w.toNat 0 2))
    | _ => s.lcCommand false false id

/-- SEC's registers (R707, R714, R717, R719, R721 to R724, R727). -/
def State.secWrite (s : State) (a : Nat) (w : BitVec 32) : State :=
  if a = Reg.SEC_CTRL then
    let s1 := (s.ifBit w 31 execQuoteGo).ifBit w 30 execBurgeeGo
    (s1.ifBit w 29 (execSvnCommit (bitsOf w.toNat 16 8))).ifBit w 28 execRecovGo
  else if a = Reg.SEC_LC_CMD then s.lcWrite w
  else if a = Reg.SEC_TAMPER_CLR then s.after (execSecTamperClr w)
  else if a = Reg.SEC_TAMPER_EN then if s.lifecycle ≤ 1 then s.plainWrite a w else s
  else s.plainWrite a w

/-- A dword write that reaches its block (R10, R12, R17, R58). -/
def State.regWrite (s : State) (a : Nat) (w : BitVec 32) : State :=
  if ¬(0x1E01000 ≤ a ∧ a < 0x1E02000) ∧ (rowOf a).isNone = true then s
  else if 0x100000 ≤ a ∧ a < 0x101000 then s.hifWrite a w
  else if 0x101000 ≤ a ∧ a < 0x102000 then s.cringWrite ((a - 0x101000) / 0x40) ((a - 0x101000) % 0x40) a w
  else if 0x102000 ≤ a ∧ a < 0x200000 then s.pringWrite ((a - 0x102000) / 0x40) ((a - 0x102000) % 0x40) a w
  else
    match a / 0x100000 with
    | 0x02 => s.msixWrite a w
    | 0x04 =>
      match elemAt (Reg.DEC_CTRL 0) 8 0x10000 a with
      | some e => s.byBit w 0 (execDecOffline e) (execDecOnline e)
      | none => s.plainWrite a w
    | 0x05 =>
      match elemAt (Reg.SHP_CTRL 0) 8 0x10000 a with
      | some e => (s.ifBit w 1 (execTestStandin e)).ifBit w 0 (execFlush e)
      | none => s.plainWrite a w
    | 0x06 => s.netWrite a w
    | 0x07 => s.timeWrite a w
    | 0x08 => s.schedWrite a w
    | 0x18 =>
      match elemAt (Reg.SGS_CTRL 0) 4 0x10000 a with
      | some k => s.after (execSgsOffline k (bitsOf w.toNat 0 1 == 1))
      | none => s.plainWrite a w
    | 0x19 => s.poolWrite a w
    | 0x1B => s.hbmWrite a w
    | 0x1C => s.lnkWrite a w
    | 0x1D => s.pwrWrite a w
    | 0x1E => s.hlthWrite a w
    | 0x1F => s.snapWrite a w
    | 0x20 => s.secWrite a w
    | p => if 0x10 ≤ p ∧ p < 0x18 then s.coreWrite ((a - 0x1000000) / 0x10000) (a % 0x10000) a w else s.plainWrite a w

/-- A dword write to BAR0 (R10, R12, R60): with all four byte enables it acts; with partial ones it is discarded and recorded. -/
def State.busWrite (s : State) (addr : Nat) (w : BitVec 32) (be : BitVec 4) : State :=
  s.after fun s => s.bar addr fun s => .next (if be = 15#4 then s.regWrite addr w else s.hifErr 0x010B 63 addr addr 4)

/-- The bits that byte enables select. -/
def beMask (be : BitVec 4) : Nat := sumNat ((List.range 4).map (fun i => if be.getLsbD i then 0xFF * 2 ^ (8 * i) else 0))

/-- A write to configuration space (R53, R54): PowerState as R688 and R689 say, every other dword by what the standard lets software write;
Initiate Function Level Reset arrives as FUNCTION_LEVEL_RESET. -/
def State.cfgSpaceWrite (s : State) (off : Nat) (w : BitVec 32) (be : BitVec 4) : State :=
  let r := cfgRow off
  let m := beMask be
  let old := (s.cfgReg off).toNat
  let all := 2 ^ 32 - 1
  let s1 := s.setCfg off (BitVec.ofNat 32
    ((old &&& (all ^^^ (r.rw &&& m)) &&& (all ^^^ (r.w1c &&& m &&& w.toNat))) ||| (w.toNat &&& r.rw &&& m)))
  if off = 0x44 ∧ be.getLsbD 0 = true then
    match bitsOf w.toNat 0 2 with
    | 3 => s1.after execD3hotWrite
    | 0 => s1.after execD0Write
    | _ => s1
  else s1

/-- REGISTER_WRITE (R10, R12, R60): a dword write; an address from 2^32 on is a write to configuration space (log entry 10). -/
def execRegisterWrite (addr : Nat) (w : BitVec 32) (be : BitVec 4) (s : State) : Host.Outcome State Fault Refusal :=
  .next (if isCfg addr then s.cfgSpaceWrite (addr - cfgBase) w be else s.busWrite addr w be)

/-! ### Whole requests -/

/-- The request is served: at most 64 bytes, within one 64-byte line (R58, R61). -/
def barFits (addr len : Nat) : Bool := decide (1 ≤ len ∧ len ≤ 64 ∧ addr / 64 = (addr + len - 1) / 64)

/-- Dwords that a request of `len` bytes touches. -/
def barDwords (addr len : Nat) : Nat := (addr + len - 1) / 4 + 1 - addr / 4

/-- BAR_ACCESS (R58, R60, R61, R746): a request that is too long or crosses a line, or is locked or atomic, is turned away and recorded,
and AER logs a Completer Abort or an Unsupported Request.  One that fits is served one dword at a time in ascending order; `data` holds a
write's dwords with their byte enables. -/
def execBarAccess (kind : BarKind) (addr len : Nat) (data : List (BitVec 32 × BitVec 4)) (s : State) :
    Host.Outcome State Fault Refusal :=
  if s.barRefused then .next (s.post (.unsupportedRequest addr))
  else
    let bad := fun (s : State) (bit : Nat) => (s.hifErr 0x010B 63 addr addr len).aer bit
    match kind with
    | .locked => .next ((bad s 20).post (.unsupportedRequest addr))
    | .atomic => .next ((bad s 20).post (.unsupportedRequest addr))
    | .write =>
      if barFits addr len then
        .next ((data.take (barDwords addr len)).zipIdx.foldl (fun (s : State) q => s.busWrite (4 * (addr / 4 + q.2)) q.1.1 q.1.2) s)
      else .next (bad s 15)
    | .read =>
      if barFits addr len then
        .next ((List.range (barDwords addr len)).foldl (fun (s : State) i => s.busRead (4 * (addr / 4 + i))) s)
      else .next ((bad s 15).post (.completerAbort addr))

/-! ### The debug port -/

/-- DEBUG_PORT_ACCESS (R706, R726): while DEBUG_OPEN is 1, debug access to a dword of BAR0; the mandatory IEEE 1149.1 instructions
change nothing of the V96. -/
def execDebugPortAccess (addr : Nat) (write : Option (BitVec 32)) (s : State) : Host.Outcome State Fault Refusal :=
  if s.rd Reg.SEC_STATUS_DEBUG_OPEN = 1 ∧ addr < 0x4000000 ∧ addr % 4 = 0 then
    match write with
    | some w => if s.served addr then .next ((s.touch addr).regWrite addr w) else .next s
    | none => .next (s.post (.debug addr (s.read addr)))
  else .next s

end Sys2Proof.Machine
end

