-- ==== Sys2Proof/Machine/HostErr.lean ====
section
/-! DEFINITION. Host accesses that fail: translations (R63 to R65), failed reads (R108) and poisoned reads (R750). -/

set_option Elab.async false

namespace Sys2Proof.Machine

/-- The access unit of an AU_SUBMIT cannot be read: its job ends with an ERROR (R65, R108). -/
def State.auFails (s : State) (c : Cmd) (code d0 d1 : Nat) : State :=
  let st := slotStream c.slot
  let x := s.stream st
  match x.frames.find? (fun f => f.au == some c.jidx && !f.ready) with
  | none => s
  | some f =>
    let s1 := s.setStream st { x with frames := x.frames.filter (fun g => g.seq != f.seq) }
    ((((s1.frameError st f code d0 d1).dropJob st f.seq).freeFrame f).auDone f code).settle st

/-- Data of a command cannot be read: its job ends with the code (R65, R108); a STREAM_OPEN leaves its stream closed, a load fails. -/
def State.dataFails (s : State) (c : Cmd) (code d0 d1 : Nat) : State :=
  let o := slotOpcode c.slot
  let st := slotStream c.slot
  if c.ended then s
  else if o = 0x30 then s.auFails c code d0 d1
  else
    match s.cmdJob? c.jidx with
    | some j =>
      let ws := (s.prog j.prog).routeWords j.route
      let node := ((List.range ws.length).find? (fun k => wOpc (ws.getD k 0) == 0x10 && !(j.node k).committed)).getD 0
      s.faultJob j node code d0 d1
    | none =>
      if c.waiting then s
      else if o = 0x10 then s.loadFails c (slotParam c.slot % 32) code d0 d1
      else if o = 0x20 then
        (s.setStream st { s.stream st with isOpen := false, failCode := code, failRing := s.ackRing c }).failCmd c (s.ackRing c)
          code d0 d1
      else if o = 0x31 ∨ o = 0x32 then s.failCmd c (s.ackRing c) code d0 d1
      else s

/-- A pennant ring is in use: ACTIVE or in lehr (R102). -/
def State.pringUsed (s : State) (m : Nat) : Bool := s.pState m == 1 || s.pState m == 3 || s.pState m == 4

/-- A host access fails with a code (R65, R108, R109). -/
def State.hostFails (s : State) (acc : HostAccess) (addr code : Nat) : State :=
  let d0 := addr % 2 ^ 32
  let d1 := addr / 2 ^ 32
  match acc with
  | .slot c => if 1 ≤ s.cState c ∧ s.cState c ≤ 4 then s.haltCring c code addr d0 d1 else s
  | .consumer m => if s.pringUsed m = true then s.haltPring m code addr d0 d1 else s
  | .pennant m => if s.pringUsed m = true then s.haltPring m code addr d0 d1 else s
  | .journal j => if code = 0x0108 then (s.hifErr code 63 addr d0 d1).journalLost j addr else s.journalLost j addr
  | .jobData j =>
    match s.cmd? j with
    | some c => (s.hifErr code 63 addr d0 d1).dataFails c code d0 d1
    | none => s

/-- A read of a kind is outstanding. -/
def State.readsNow (s : State) (acc : HostAccess) : Bool :=
  match acc with
  | .slot c => (s.cring c).polling || (s.cring c).torn.isSome
  | .consumer m => s.pringUsed m
  | .pennant _ => false
  | .journal _ => s.jInUse
  | .jobData j => match s.cmd? j with | some c => !c.ended | none => false

/-- HOST_READ_FAIL (R108): completion timeout, Unsupported Request or Completer Abort. -/
def execHostReadFail (acc : HostAccess) (addr : Nat) (s : State) : Host.Outcome State Fault Refusal :=
  if s.readsNow acc = true then .next (s.hostFails acc addr 0x0106) else .next s

/-- POISON_REREAD (R750): a re-read after a poisoned completion, which AER logs as a Poisoned TLP Received; a clean one counts as the
first read, and the third poisoned one takes effect. -/
def execPoisonReread (acc : HostAccess) (addr : Nat) (clean : Bool) (s : State) : Host.Outcome State Fault Refusal :=
  if s.readsNow acc = true then
    let n := match s.hif.poison.find? (fun q => q.1 == acc && q.2.1 == addr) with | some q => q.2.2 | none => 0
    let rest := s.hif.poison.filter (fun q => !(q.1 == acc && q.2.1 == addr))
    let s1 := ({ s with hif := { s.hif with poison := rest } } : State).aer 12
    if clean then .next s1
    else if n + 1 < 3 then .next { s1 with hif := { s1.hif with poison := rest ++ [(acc, addr, n + 1)] } }
    else .next (s1.hostFails acc addr 0x0107)
  else .next s

/-- The access writes host memory, so its translation needs write permission (R65). -/
def accWrites : HostAccess → Bool
  | .pennant _ => true
  | .journal _ => true
  | _ => false

/-- A translation enters the cache of 2,048 entries, the oldest leaving (R63). -/
def State.cacheXlate (s : State) (e : AtcEntry) : State :=
  let l := s.hif.atc.filter (fun x => x.page != e.page) ++ [e]
  { s with hif := { s.hif with atc := l.drop (l.length - 2048) } }

/-- A page whose translation is still awaited by a read of data is asked for again. -/
def State.reask (s : State) (page : Nat) : State :=
  if s.jrnl.cmds.any (fun c => !c.ended && c.reads.any (fun r => r.2.2.contains page)) then s.askXlate [page] else s

/-- ATS_TRANSLATION_COMPLETION (R63 to R65): a refused translation, or one without the needed permission, takes effect as ATS_FAULT; one
voided by an Invalidate Request in flight is not used, and who needs the page asks again. -/
def execAtsTranslationCompletion (acc : HostAccess) (addr : Nat) (granted : Option Nat) (write : Bool) (s : State) :
    Host.Outcome State Fault Refusal :=
  let page := addr / 4096
  if s.atsOn = true ∧ s.hif.xlate.contains page = true then
    let void := s.hif.xlateVoid.contains page
    let s1 : State := { s with hif := { s.hif with
      xlate := s.hif.xlate.filter (fun p => p != page), xlateVoid := s.hif.xlateVoid.filter (fun p => p != page) } }
    match granted with
    | none => .next ((s1.hostFails acc addr 0x0108).reask page)
    | some p =>
      if accWrites acc = true ∧ write = false then .next ((s1.hostFails acc addr 0x0108).reask page)
      else if void then .next (s1.reask page)
      else .next ((s1.cacheXlate { page := page, phys := p, write := write }).xlated page)
  else .next s

end Sys2Proof.Machine
end

