-- ==== Sys2Proof/Machine/Pnw.lean ====
section
/-! DEFINITION. Writing pennants (R27 to R35, R88, R93 to R97, R119 to R126) and the consumer record while a ring is full (R94). -/

set_option Elab.async false

namespace Sys2Proof.Machine

/-! ### Which pennant is next -/

/-- A lower EMIT node of the job that a pennant belongs to still has pennants to give to the ring (R28, R285). -/
def State.lowerEmitOpen (s : State) (m : Nat) (l : PnLine) (node : Nat) : Bool :=
  match s.jobs.find? (fun j => j.line == l && !j.ended) with
  | none => false
  | some j => ((s.prog j.prog).routeWords j.route).zipIdx.any (fun q =>
      wOpc q.1 == 0x68 && decide (q.2 < node) && bitsOf q.1 66 6 == m && !(j.node q.2).committed)

/-- A pennant of the same command, other than its final one, still waits on some ring (R69). -/
def State.othersWait (s : State) (i : Nat) : Bool :=
  s.hif.prings.any (fun r => r.2.ready.any (fun q => !q.final && pnCmd q == some i))

/-- May a pennant be written now, as far as the order of R27, R28, R69 and R285 goes? -/
def State.inOrder (s : State) (m : Nat) (p : Pn) : Bool :=
  (match p.line with
   | .frame a n => !(s.earlierFrameOpen a n) && !(s.lowerEmitOpen m p.line p.node)
   | .cmd _ => !(s.lowerEmitOpen m p.line p.node)
   | .free => true) &&
  (match p.key with
   | .cmd i => !(p.final && s.othersWait i)
   | _ => true)

/-- Does a pennant go on with the result of which a piece was written last (R28, R49)? -/
def Pn.continues (p : Pn) (k : PnKey × Nat × Nat) : Bool := p.key == k.1 && p.ty == k.2.1 && p.node == k.2.2

/-- The device-level pennant that is next on the service ring (R97). -/
def State.svcHead (s : State) (m : Nat) : List Pn :=
  if s.rd Reg.HIF_SVC_PRING_PRING = m then s.hif.svcQueue.take 1 else []

/-- The next pennant of a ring: the rest of a split result; else, among those that R27 and R28 allow, the one with the oldest ticket
(R29, R549).  The spec numbers no ports for R546 here: of equal tickets the one that was ready first goes first (DESIGN CHOICE, log entry
12). -/
def State.nextPn (s : State) (m : Nat) : Option Pn :=
  let r := s.pring m
  let cont := match r.mid with
    | some k => (r.ready ++ s.svcHead m).find? (fun p => p.continues k)
    | none => none
  match cont with
  | some p => some p
  | none => minBy? (fun p => 2 ^ 30 - ticketAge s.ticketNow p.ticket) (r.ready.filter (s.inOrder m) ++ s.svcHead m)

/-! ### Writing it -/

/-- The pennant leaves the ready pennants of its ring, or the queue of device-level ones; a PARTIAL one is followed by the next piece. -/
def State.takePn (s : State) (m : Nat) (p : Pn) : State :=
  let r := s.pring m
  let s1 : State := if r.ready.contains p then s else { s with hif := { s.hif with svcQueue := s.hif.svcQueue.tail } }
  s1.setPring m { r with ready := r.ready.erase p, mid := if bitsOf p.flags 4 1 = 1 then some (p.key, p.ty, p.node) else none }

/-- What follows a pennant that was written or suppressed: an ADAPT_RUN's weights switch (R391), the stream's checkpoint (R160) and
plan copies (R575) are settled. -/
def State.afterPn (s : State) (p : Pn) : State :=
  match p.key with
  | .cmd i => (if p.final then s.applySwap i else s).retirePlans
  | .frame st _ _ => (s.settle st).retirePlans
  | _ => s

/-- The emit log has no room for the record of a pennant (R123). -/
def State.logStalls (s : State) (p : Pn) : Bool := s.jInUse && (pnKey p).isSome && !s.logFree

/-- An emit record is discarded (R125). -/
def State.dropRec (s : State) (i : Nat) : State :=
  { s with jrnl := { s.jrnl with log := tset (fun _ => none) s.jrnl.log i none } }

/-- Nodes wait for a position of the emit log: an episode, counted as a full ring is (R94, R123). -/
def State.logStalled (s : State) (m : Nat) : State :=
  if (s.pring m).logStall then s
  else (s.setPring m { s.pring m with logStall := true }).bump (Reg.HIF_PRING_STALLS_COUNT m)

/-- Write a pennant as new when its ring is ACTIVE and has room, the emit log has too, and every address it uses is translated (R63, R93,
R96, R123).  RING_SEQ 0 is never written: a pair that has wrapped to 0 holds the ring back until software writes it (R90; DEDUCED, log
entry 12). -/
def State.tryWrite (s : State) (m : Nat) (p : Pn) (rec : Option Nat) (replayed : Bool) (consumed : Nat) : State :=
  if s.rd (Reg.HIF_PRING_STATUS_STATE m) = 1 ∧ s.ringSeq m ≠ 0 then
    let s1 := match rec with | some i => s.dropRec i | none => s
    let b := 1 + p.exts.length
    if s1.logStalls p then s.logStalled m
    else if !(s.needXlate m b p).isEmpty then s.askXlate (s.needXlate m b p)
    else
      match s1.room m b consumed with
      | .room s2 => (((s2.setPring m { s2.pring m with logStall := false }).takePn m p).writePn m p replayed).afterPn p
      | .full _ =>
        match s.room m b consumed with
        | .full s3 => s3
        | _ => s
      | .halted _ =>
        match s.room m b consumed with
        | .halted s3 => s3
        | _ => s
  else s

/-- PENNANT_WRITE (R88, R93, R125): EGR takes the next pennant of a ring.  A regenerated pennant that is committed is suppressed; else
it is written when there is room.  `consumed` is what a read of the consumer record returns, if the check of R93 needs one. -/
def execPennantWrite (ring consumed : Nat) (s : State) : Host.Outcome State Fault Refusal :=
  match s.nextPn ring with
  | none => .next s
  | some p =>
    match s.matchRec p ring with
    | some (i, r) =>
      if r.ringSeq ≤ (s.pring ring).committed then
        let pages := s.untranslated true (s.jrnlPages p)
        .next (if pages.isEmpty then ((s.takePn ring p).suppress ring p r).afterPn p else s.askXlate pages)
      else .next (s.tryWrite ring p (some i) true consumed)
    | none => .next (s.tryWrite ring p none (s.isReplay p) consumed)

/-- CONSUMER_RECORD_REREAD (R94, R95): while a ring is full, its consumer record is read every 1 µs until the blocks of the pennant that
found it full are free. -/
def execConsumerRecordReread (ring consumed : Nat) (s : State) : Host.Outcome State Fault Refusal :=
  if (s.pring ring).stalled.isSome = true ∧ s.rd (Reg.HIF_PRING_STATUS_STATE ring) = 1 then
    let pages := s.untranslated false (pagesOf (s.consAddr ring) 8)
    if !pages.isEmpty then .next (s.askXlate pages)
    else
      let s1 := s.post (.consRead ring (s.tlp (s.consAddr ring)))
      if s.consBad ring consumed then .next (s1.haltPring ring 0x0109 (s.consAddr ring) consumed (s.produced ring))
      else .next ((s1.setPring ring { s1.pring ring with cons := some consumed }).endStall ring)
  else .next s

end Sys2Proof.Machine
end

