-- ==== Sys2Proof/Machine/Dispatch.lean ====
section
/-! DEFINITION. The dispatcher: one arm per command, each a call of its meaning. -/

namespace Sys2Proof.Machine

def exec (i : Instr) (s : State) : Host.Outcome State Fault Refusal :=
  match i with
  | .commandRingPoll due => Sys2Proof.Machine.execCommandRingPoll due s
  | .slotReadCompletion ring slot => Sys2Proof.Machine.execSlotReadCompletion ring slot s
  | .slotReread ring slot => Sys2Proof.Machine.execSlotReread ring slot s
  | .slotAccept ring consumed => Sys2Proof.Machine.execSlotAccept ring consumed s
  | .nop jidx => Sys2Proof.Machine.execNop jidx s
  | .fence jidx => Sys2Proof.Machine.execFence jidx s
  | .progLoad jidx image => Sys2Proof.Machine.execProgLoad jidx image s
  | .progUnload jidx => Sys2Proof.Machine.execProgUnload jidx s
  | .progUnloadDrainEnd prog => Sys2Proof.Machine.execProgUnloadDrainEnd prog s
  | .progLoadEnd prog => Sys2Proof.Machine.execProgLoadEnd prog s
  | .streamOpen jidx contract => Sys2Proof.Machine.execStreamOpen jidx contract s
  | .streamBind jidx => Sys2Proof.Machine.execStreamBind jidx s
  | .streamClose jidx => Sys2Proof.Machine.execStreamClose jidx s
  | .streamCloseDrainEnd stream => Sys2Proof.Machine.execStreamCloseDrainEnd stream s
  | .auSubmit jidx => Sys2Proof.Machine.execAuSubmit jidx s
  | .auFetchDone stream seq => Sys2Proof.Machine.execAuFetchDone stream seq s
  | .jobRun jidx block => Sys2Proof.Machine.execJobRun jidx block s
  | .adaptRun jidx block => Sys2Proof.Machine.execAdaptRun jidx block s
  | .statReq jidx => Sys2Proof.Machine.execStatReq jidx s
  | .pennantWrite ring consumed => Sys2Proof.Machine.execPennantWrite ring consumed s
  | .consumerRecordReread ring consumed => Sys2Proof.Machine.execConsumerRecordReread ring consumed s
  | .msixTimerExpiry ring => Sys2Proof.Machine.execMsixTimerExpiry ring s
  | .msixVectorUnmask vector => Sys2Proof.Machine.execMsixVectorUnmask vector s
  | .cringEnable ring w => Sys2Proof.Machine.execCringEnable ring w s
  | .cringDisable ring w => Sys2Proof.Machine.execCringDisable ring w s
  | .cringLehrEnd ring => Sys2Proof.Machine.execCringLehrEnd ring s
  | .pringEnable ring w consumed => Sys2Proof.Machine.execPringEnable ring w consumed s
  | .pringDisable ring w => Sys2Proof.Machine.execPringDisable ring w s
  | .pringLehrEnd ring => Sys2Proof.Machine.execPringLehrEnd ring s
  | .hifCringSeq0Write ring w => Sys2Proof.Machine.execHifCringSeq0Write ring w s
  | .registerWrite addr w be => Sys2Proof.Machine.execRegisterWrite addr w be s
  | .barAccess kind addr len data => Sys2Proof.Machine.execBarAccess kind addr len data s
  | .loRegisterRead addr => Sys2Proof.Machine.execLoRegisterRead addr s
  | .timeClkSecLoRead => Sys2Proof.Machine.execTimeClkSecLoRead s
  | .timeTpiSecLoRead input => Sys2Proof.Machine.execTimeTpiSecLoRead input s
  | .atsInvalidateRequest tag page npages => Sys2Proof.Machine.execAtsInvalidateRequest tag page npages s
  | .invalidateCompletion tag => Sys2Proof.Machine.execInvalidateCompletion tag s
  | .atsTranslationCompletion acc addr granted write => Sys2Proof.Machine.execAtsTranslationCompletion acc addr granted write s
  | .hostReadFail acc addr => Sys2Proof.Machine.execHostReadFail acc addr s
  | .poisonReread acc addr clean => Sys2Proof.Machine.execPoisonReread acc addr clean s
  | .pcieLaneFailure lane => Sys2Proof.Machine.execPcieLaneFailure lane s
  | .jrnlEnable w => Sys2Proof.Machine.execJrnlEnable w s
  | .jrnlRecover w host => Sys2Proof.Machine.execJrnlRecover w host s
  | .jrnlDisable w => Sys2Proof.Machine.execJrnlDisable w s
  | .jrnlDrainEnd => Sys2Proof.Machine.execJrnlDrainEnd s
  | .recoveryEnd => Sys2Proof.Machine.execRecoveryEnd s
  | .mirrorRebuildDone => Sys2Proof.Machine.execMirrorRebuildDone s
  | .pwrGoodRise testMode board => Sys2Proof.Machine.execPwrGoodRise testMode board s
  | .pwrGoodFall => Sys2Proof.Machine.execPwrGoodFall s
  | .rstPorNLow => Sys2Proof.Machine.execRstPorNLow s
  | .vddAonLoss => Sys2Proof.Machine.execVddAonLoss s
  | .rstWarmNFall => Sys2Proof.Machine.execRstWarmNFall s
  | .rstWarmNRise => Sys2Proof.Machine.execRstWarmNRise s
  | .perstAssert => Sys2Proof.Machine.execPerstAssert s
  | .perstDeassert => Sys2Proof.Machine.execPerstDeassert s
  | .pcieHotReset => Sys2Proof.Machine.execPcieHotReset s
  | .functionLevelReset => Sys2Proof.Machine.execFunctionLevelReset s
  | .pwrResetWarm w => Sys2Proof.Machine.execPwrResetWarm w s
  | .pwrResetFw w => Sys2Proof.Machine.execPwrResetFw w s
  | .fwWatchdogExpiry => Sys2Proof.Machine.execFwWatchdogExpiry s
  | .resetIntervalEnd host => Sys2Proof.Machine.execResetIntervalEnd host s
  | .ready => Sys2Proof.Machine.execReady s
  | .decPictureChoice engine info => Sys2Proof.Machine.execDecPictureChoice engine info s
  | .decBlockRowDone engine cells rows failed resync misses => Sys2Proof.Machine.execDecBlockRowDone engine cells rows failed resync misses s
  | .decPictureDone engine => Sys2Proof.Machine.execDecPictureDone engine s
  | .decOffline engine => Sys2Proof.Machine.execDecOffline engine s
  | .decOnline engine => Sys2Proof.Machine.execDecOnline engine s
  | .decMoveDone stream => Sys2Proof.Machine.execDecMoveDone stream s
  | .netPortEnable port w => Sys2Proof.Machine.execNetPortEnable port w s
  | .autonegComplete port partner => Sys2Proof.Machine.execAutonegComplete port partner s
  | .netLaneFailure port lane => Sys2Proof.Machine.execNetLaneFailure port lane s
  | .latencyCalibrationDone port lat => Sys2Proof.Machine.execLatencyCalibrationDone port lat s
  | .ethFrameReceive port frame => Sys2Proof.Machine.execEthFrameReceive port frame s
  | .frameStaleClose flow => Sys2Proof.Machine.execFrameStaleClose flow s
  | .igmpReportTimer flow pathB => Sys2Proof.Machine.execIgmpReportTimer flow pathB s
  | .flowEnable flow w => Sys2Proof.Machine.execFlowEnable flow w s
  | .flowDisable flow w => Sys2Proof.Machine.execFlowDisable flow w s
  | .flowLehrEnd flow => Sys2Proof.Machine.execFlowLehrEnd flow s
  | .mergeWindowExpiry flow seq => Sys2Proof.Machine.execMergeWindowExpiry flow seq s
  | .ssrcAdopt flow pathB => Sys2Proof.Machine.execSsrcAdopt flow pathB s
  | .pathLoss flow pathB => Sys2Proof.Machine.execPathLoss flow pathB s
  | .netSilent flow => Sys2Proof.Machine.execNetSilent flow s
  | .swTimestampInterrupt flow => Sys2Proof.Machine.execSwTimestampInterrupt flow s
  | .ptpAnnounce a => Sys2Proof.Machine.execPtpAnnounce a s
  | .ptpSync port domain t1 t2 correction => Sys2Proof.Machine.execPtpSync port domain t1 t2 correction s
  | .ptpDelayResp port domain delay => Sys2Proof.Machine.execPtpDelayResp port domain delay s
  | .delayReqTimer port => Sys2Proof.Machine.execDelayReqTimer port s
  | .servoHoldover => Sys2Proof.Machine.execServoHoldover s
  | .servoEnWrite en => Sys2Proof.Machine.execServoEnWrite en s
  | .step => Sys2Proof.Machine.execStep s
  | .clockStepLoad => Sys2Proof.Machine.execClockStepLoad s
  | .timeRateWrite w => Sys2Proof.Machine.execTimeRateWrite w s
  | .tpOutArm out w => Sys2Proof.Machine.execTpOutArm out w s
  | .tpOutPulse out => Sys2Proof.Machine.execTpOutPulse out s
  | .tpInEdge input rising ago => Sys2Proof.Machine.execTpInEdge input rising ago s
  | .statusPeriodTimer => Sys2Proof.Machine.execStatusPeriodTimer s
  | .shpSampleSlot stream seq node => Sys2Proof.Machine.execShpSampleSlot stream seq node s
  | .shpSampleDone stream seq node objIndex => Sys2Proof.Machine.execShpSampleDone stream seq node objIndex s
  | .boxListArrival job node => Sys2Proof.Machine.execBoxListArrival job node s
  | .batchWaitExpiry shaper node svc => Sys2Proof.Machine.execBatchWaitExpiry shaper node svc s
  | .flush shaper => Sys2Proof.Machine.execFlush shaper s
  | .testStandin shaper => Sys2Proof.Machine.execTestStandin shaper s
  | .batchDispatch shaper node svc => Sys2Proof.Machine.execBatchDispatch shaper node svc s
  | .jobStart job => Sys2Proof.Machine.execJobStart job s
  | .jobPlanGrant job => Sys2Proof.Machine.execJobPlanGrant job s
  | .decode job node => Sys2Proof.Machine.execDecode job node s
  | .shape job node => Sys2Proof.Machine.execShape job node s
  | .cropResize job node => Sys2Proof.Machine.execCropResize job node s
  | .gather job node data => Sys2Proof.Machine.execGather job node data s
  | .emit job node => Sys2Proof.Machine.execEmit job node s
  | .matmul job node => Sys2Proof.Machine.execMatmul job node s
  | .vec job node => Sys2Proof.Machine.execVec job node s
  | .rowstat job node => Sys2Proof.Machine.execRowstat job node s
  | .softmax job node => Sys2Proof.Machine.execSoftmax job node s
  | .norm job node => Sys2Proof.Machine.execNorm job node s
  | .tblLoad job node => Sys2Proof.Machine.execTblLoad job node s
  | .tblSwitch => Sys2Proof.Machine.execTblSwitch s
  | .chain job node => Sys2Proof.Machine.execChain job node s
  | .chainStepCommit job node rowBlock => Sys2Proof.Machine.execChainStepCommit job node rowBlock s
  | .optStep job node => Sys2Proof.Machine.execOptStep job node s
  | .conv job node => Sys2Proof.Machine.execConv job node s
  | .convDw job node => Sys2Proof.Machine.execConvDw job node s
  | .convFft job node => Sys2Proof.Machine.execConvFft job node s
  | .spectrumJob job node channel => Sys2Proof.Machine.execSpectrumJob job node channel s
  | .pool job node => Sys2Proof.Machine.execPool job node s
  | .argmaxC job node => Sys2Proof.Machine.execArgmaxC job node s
  | .roiAlign job node => Sys2Proof.Machine.execRoiAlign job node s
  | .tileJobPlacement svc => Sys2Proof.Machine.execTileJobPlacement svc s
  | .tileIssue core => Sys2Proof.Machine.execTileIssue core s
  | .chunkStaged core chunk => Sys2Proof.Machine.execChunkStaged core chunk s
  | .drainRow core row lane flip parity => Sys2Proof.Machine.execDrainRow core row lane flip parity s
  | .tileCommit core => Sys2Proof.Machine.execTileCommit core s
  | .checkRunDone core pass => Sys2Proof.Machine.execCheckRunDone core pass s
  | .foldJob job node => Sys2Proof.Machine.execFoldJob job node s
  | .secondPassIssue job node => Sys2Proof.Machine.execSecondPassIssue job node s
  | .ckInject core => Sys2Proof.Machine.execCkInject core s
  | .coreOffline core => Sys2Proof.Machine.execCoreOffline core s
  | .coreOnline core => Sys2Proof.Machine.execCoreOnline core s
  | .mrvProbe core => Sys2Proof.Machine.execMrvProbe core s
  | .boxes job node => Sys2Proof.Machine.execBoxes job node s
  | .nms job node => Sys2Proof.Machine.execNms job node s
  | .topk job node => Sys2Proof.Machine.execTopk job node s
  | .iou job node => Sys2Proof.Machine.execIou job node s
  | .hset job node => Sys2Proof.Machine.execHset job node s
  | .knn job node => Sys2Proof.Machine.execKnn job node s
  | .assign job node => Sys2Proof.Machine.execAssign job node s
  | .track job node => Sys2Proof.Machine.execTrack job node s
  | .sgsOperationCommit station => Sys2Proof.Machine.execSgsOperationCommit station s
  | .sgsOffline station off => Sys2Proof.Machine.execSgsOffline station off s
  | .sgsMoveDone stream => Sys2Proof.Machine.execSgsMoveDone stream s
  | .xfrSend job node => Sys2Proof.Machine.execXfrSend job node s
  | .xfrRecv job node => Sys2Proof.Machine.execXfrRecv job node s
  | .xfrColl job node => Sys2Proof.Machine.execXfrColl job node s
  | .preemptionDecision svc => Sys2Proof.Machine.execPreemptionDecision svc s
  | .contextSaveDone core commit => Sys2Proof.Machine.execContextSaveDone core commit s
  | .saveAreaRetry svc => Sys2Proof.Machine.execSaveAreaRetry svc s
  | .contextRestore core block row lane flip bad => Sys2Proof.Machine.execContextRestore core block row lane flip bad s
  | .remoteResponse core tag => Sys2Proof.Machine.execRemoteResponse core tag s
  | .saveAll => Sys2Proof.Machine.execSaveAll s
  | .saveAllComplete => Sys2Proof.Machine.execSaveAllComplete s
  | .resumeAll => Sys2Proof.Machine.execResumeAll s
  | .schedClsCommit => Sys2Proof.Machine.execSchedClsCommit s
  | .classEnable svc w => Sys2Proof.Machine.execClassEnable svc w s
  | .classLehrEnd svc => Sys2Proof.Machine.execClassLehrEnd svc s
  | .starveCheck svc => Sys2Proof.Machine.execStarveCheck svc s
  | .maxwaitClear svc => Sys2Proof.Machine.execMaxwaitClear svc s
  | .fabricRequestGrant heads => Sys2Proof.Machine.execFabricRequestGrant heads s
  | .poolDraw owner cls n svc ticket => Sys2Proof.Machine.execPoolDraw owner cls n svc ticket s
  | .stalledDrawGrant cls => Sys2Proof.Machine.execStalledDrawGrant cls s
  | .poolFree cls index => Sys2Proof.Machine.execPoolFree cls index s
  | .poolRefill cls values => Sys2Proof.Machine.execPoolRefill cls values s
  | .poolEnable cls w => Sys2Proof.Machine.execPoolEnable cls w s
  | .poolDisable cls w => Sys2Proof.Machine.execPoolDisable cls w s
  | .poolLehrEnd cls => Sys2Proof.Machine.execPoolLehrEnd cls s
  | .poolResWrite owner cls w => Sys2Proof.Machine.execPoolResWrite owner cls w s
  | .poolThreshWrite cls w => Sys2Proof.Machine.execPoolThreshWrite cls w s
  | .sbPinnedAlloc cluster svc bytes job => Sys2Proof.Machine.execSbPinnedAlloc cluster svc bytes job s
  | .wayLinePass cluster way line old acc => Sys2Proof.Machine.execWayLinePass cluster way line old acc s
  | .onChipEccError kind inst line owner correctable => Sys2Proof.Machine.execOnChipEccError kind inst line owner correctable s
  | .secureSramWipeDone => Sys2Proof.Machine.execSecureSramWipeDone s
  | .hbmRequestIssue pch arrivals parity symbols => Sys2Proof.Machine.execHbmRequestIssue pch arrivals parity symbols s
  | .hbmPoisonRead line reader who => Sys2Proof.Machine.execHbmPoisonRead line reader who s
  | .urgencyRise pch pos => Sys2Proof.Machine.execUrgencyRise pch pos s
  | .refresh pch => Sys2Proof.Machine.execRefresh pch s
  | .hbmTempReading stack temp => Sys2Proof.Machine.execHbmTempReading stack temp s
  | .hbmTrainingDone stack pch ok => Sys2Proof.Machine.execHbmTrainingDone stack pch ok s
  | .dqTracking pch => Sys2Proof.Machine.execDqTracking pch s
  | .patrolScrub rank line symbols => Sys2Proof.Machine.execPatrolScrub rank line symbols s
  | .frameReplaceCopyDone frame => Sys2Proof.Machine.execFrameReplaceCopyDone frame s
  | .rankRetire rank cause => Sys2Proof.Machine.execRankRetire rank cause s
  | .retire rank => Sys2Proof.Machine.execRetire rank s
  | .migrationDone => Sys2Proof.Machine.execMigrationDone s
  | .rankDrainDone rank => Sys2Proof.Machine.execRankDrainDone rank s
  | .hbmPortMaxlatClear port => Sys2Proof.Machine.execHbmPortMaxlatClear port s
  | .lnkTopoWrite w => Sys2Proof.Machine.execLnkTopoWrite w s
  | .lnkPortEnable port w => Sys2Proof.Machine.execLnkPortEnable port w s
  | .lnkPortLehrEnd port => Sys2Proof.Machine.execLnkPortLehrEnd port s
  | .portTrainingDone port width peer lanesOk => Sys2Proof.Machine.execPortTrainingDone port width peer lanesOk s
  | .flitReceive port crcOk dst tile halyard => Sys2Proof.Machine.execFlitReceive port crcOk dst tile halyard s
  | .replayRequest port flit => Sys2Proof.Machine.execReplayRequest port flit s
  | .creditReturn port halyard set n => Sys2Proof.Machine.execCreditReturn port halyard set n s
  | .lnkLaneFailure port lane => Sys2Proof.Machine.execLnkLaneFailure port lane s
  | .portDown port => Sys2Proof.Machine.execPortDown port s
  | .topologyUpdate dev ports => Sys2Proof.Machine.execTopologyUpdate dev ports s
  | .tileArrival port tile => Sys2Proof.Machine.execTileArrival port tile s
  | .receipt dev tile code => Sys2Proof.Machine.execReceipt dev tile code s
  | .ackTimeout dev tile => Sys2Proof.Machine.execAckTimeout dev tile s
  | .releaseTile dev tile => Sys2Proof.Machine.execReleaseTile dev tile s
  | .rejoinTimeout dev => Sys2Proof.Machine.execRejoinTimeout dev s
  | .peerRejoin port dev => Sys2Proof.Machine.execPeerRejoin port dev s
  | .orphanTimeout tile => Sys2Proof.Machine.execOrphanTimeout tile s
  | .fallbackTimeout job node => Sys2Proof.Machine.execFallbackTimeout job node s
  | .recordEntryClear entry => Sys2Proof.Machine.execRecordEntryClear entry s
  | .clearAll => Sys2Proof.Machine.execClearAll s
  | .hangDetection kind unit => Sys2Proof.Machine.execHangDetection kind unit s
  | .hlthUnfence w => Sys2Proof.Machine.execHlthUnfence w s
  | .selfTestDone kind unit failing => Sys2Proof.Machine.execSelfTestDone kind unit failing s
  | .marginPlanDue => Sys2Proof.Machine.execMarginPlanDue s
  | .idleMoment => Sys2Proof.Machine.execIdleMoment s
  | .planForced => Sys2Proof.Machine.execPlanForced s
  | .planNow => Sys2Proof.Machine.execPlanNow s
  | .ageingMeasurementDone monitor fresh stressed => Sys2Proof.Machine.execAgeingMeasurementDone monitor fresh stressed s
  | .marginPlanEnd => Sys2Proof.Machine.execMarginPlanEnd s
  | .hoist => Sys2Proof.Machine.execHoist s
  | .snapInEdge rising ago => Sys2Proof.Machine.execSnapInEdge rising ago s
  | .snapTimeMatch => Sys2Proof.Machine.execSnapTimeMatch s
  | .snapArm => Sys2Proof.Machine.execSnapArm s
  | .furlIdleExpiry => Sys2Proof.Machine.execFurlIdleExpiry s
  | .furlLehrEnd => Sys2Proof.Machine.execFurlLehrEnd s
  | .wakeEvent => Sys2Proof.Machine.execWakeEvent s
  | .d3hotWrite => Sys2Proof.Machine.execD3hotWrite s
  | .d0Write => Sys2Proof.Machine.execD0Write s
  | .clockGate block => Sys2Proof.Machine.execClockGate block s
  | .clockStart block => Sys2Proof.Machine.execClockStart block s
  | .railReadback rail reading => Sys2Proof.Machine.execRailReadback rail reading s
  | .railFault rail => Sys2Proof.Machine.execRailFault rail s
  | .throttleStep tj => Sys2Proof.Machine.execThrottleStep tj s
  | .thermalTrip => Sys2Proof.Machine.execThermalTrip s
  | .challenge => Sys2Proof.Machine.execChallenge s
  | .provision => Sys2Proof.Machine.execProvision s
  | .endorse => Sys2Proof.Machine.execEndorse s
  | .production => Sys2Proof.Machine.execProduction s
  | .returnCmd => Sys2Proof.Machine.execReturnCmd s
  | .terminate => Sys2Proof.Machine.execTerminate s
  | .revoke slot => Sys2Proof.Machine.execRevoke slot s
  | .lcCommandDone => Sys2Proof.Machine.execLcCommandDone s
  | .keyDerivationDone => Sys2Proof.Machine.execKeyDerivationDone s
  | .burgeeGo => Sys2Proof.Machine.execBurgeeGo s
  | .burgeeDone => Sys2Proof.Machine.execBurgeeDone s
  | .quoteGo => Sys2Proof.Machine.execQuoteGo s
  | .quoteDone => Sys2Proof.Machine.execQuoteDone s
  | .svnCommit key => Sys2Proof.Machine.execSvnCommit key s
  | .recovGo => Sys2Proof.Machine.execRecovGo s
  | .imageVerifyDone image data => Sys2Proof.Machine.execImageVerifyDone image data s
  | .tamperEvent source rail => Sys2Proof.Machine.execTamperEvent source rail s
  | .secTamperClr w => Sys2Proof.Machine.execSecTamperClr w s
  | .debugPortAccess addr write => Sys2Proof.Machine.execDebugPortAccess addr write s
  | .netLinkLost port => Sys2Proof.Machine.execNetLinkLost port s
  | .announceReceiptTimeout => Sys2Proof.Machine.execAnnounceReceiptTimeout s
  | .rstPorNRise board => Sys2Proof.Machine.execRstPorNRise board s
  | .resumeAllComplete => Sys2Proof.Machine.execResumeAllComplete s
  | .collectiveChunkArrival port chunk => Sys2Proof.Machine.execCollectiveChunkArrival port chunk s
  | .pcieLinkUp speed width => Sys2Proof.Machine.execPcieLinkUp speed width s

end Sys2Proof.Machine
end

