-- ==== Sys2Proof/Safety.lean ====
section
/-! DEFINITION. What claims say of a step: that the machine goes on, what it leaves alone, and the invariants it keeps. -/

set_option Elab.async false

namespace Sys2Proof

open Machine

/-- A command completes: exec answers a next state, and `P` holds of it. -/
def completes (i : Instr) (s : Machine.State) (P : Machine.State → Prop) : Prop := ∃ t, exec i s = .next t ∧ P t

/-- A step that answers a next state: it neither faults nor refuses. -/
def safeStep (s : Machine.State) : Prop := ∃ t, step s = .next t

/-- The tables behind the registers and the 64-bit counters are in canonical form: indices rise strictly and no entry equals what an
unlisted index reads. -/
def canonical (s : Machine.State) : Prop := twf regReset s.regs = true ∧ twf (fun _ => (0 : Nat)) s.counters = true

/-- The lifecycle fuses hold TERMINATED in all three copies, and no lifecycle command is under way (R706, R708). -/
def terminated (s : Machine.State) : Prop := s.sec.lc = [4, 4, 4] ∧ s.sec.busy = none

/-- The V96 serves BAR0 accesses at an address: the device is in D0 and ACTIVE, and the block is out of reset and open (R699, R746). -/
def reaches (s : Machine.State) (a : Nat) : Prop :=
  s.hif.d3hot = false ∧ s.rd Reg.PWR_STATUS_STATE = 0 ∧ s.served a = true

/-- The two states differ at most in the register file, and there at most at the addresses of `l`. -/
def onlyRegs (l : List Nat) (s t : Machine.State) : Prop :=
  t = { s with regs := t.regs } ∧ ∀ a, a ∉ l → t.reg a = s.reg a

/-- A pennant of type `ty` that answers the command with a JOURNAL_INDEX waits on a pennant ring, with ERR_CODE `code`. -/
def waitsOn (t : Machine.State) (ring ty jidx code : Nat) : Prop :=
  ∃ p ∈ (t.pring ring).ready, p.ty = ty ∧ p.err = code ∧ p.key = .cmd jidx

/-- The command has ended: its DONE with ERR_CODE `code` waits on its PRING_ACK ring, and no later event acts on it (R35, R69). -/
def ends (t : Machine.State) (c : Cmd) (code : Nat) : Prop :=
  waitsOn t (t.ackRing c) 0x11 c.jidx code ∧ ∃ d, t.cmd? c.jidx = some d ∧ d.ended = true

/-- The job's route has another node than `node` whose output is not committed, so the commit of `node` does not end the job (R278). -/
def openBeside (s : Machine.State) (j : Job) (node : Nat) : Prop :=
  ∃ k, k < ((s.prog j.prog).routeWords j.route).length ∧ k ≠ node ∧ (j.node k).committed = false

/-- The node of a job in flight has run, and its output `out` is committed (R347). -/
def nodeDone (t : Machine.State) (job node : Nat) (out : NodeOut) : Prop :=
  ∃ j, t.job? job = some j ∧ (j.node node).ran = true ∧ (j.node node).committed = true ∧ (j.node node).out = out

/-- The parts of the state but for the queue: the register file, the data of each unit, the 64-bit counters, and the model's own
count of free values and list of what was sent out. -/
inductive Part where
  | regs | hif | jrnl | hlth | snap | time | streams | dec | net | shp | sgs | progs | tbl | jobs
  | nextJob | cores | sched | pools | mem | hbm | lnk | pwr | sec | counters | free | out
  deriving DecidableEq, Repr

/-- A part's number. -/
def Part.bit : Part → Nat
  | .regs => 0
  | .hif => 1
  | .jrnl => 2
  | .hlth => 3
  | .snap => 4
  | .time => 5
  | .streams => 6
  | .dec => 7
  | .net => 8
  | .shp => 9
  | .sgs => 10
  | .progs => 11
  | .tbl => 12
  | .jobs => 13
  | .nextJob => 14
  | .cores => 15
  | .sched => 16
  | .pools => 17
  | .mem => 18
  | .hbm => 19
  | .lnk => 20
  | .pwr => 21
  | .sec => 22
  | .counters => 23
  | .free => 24
  | .out => 25

/-- The part is the same in both states. -/
def Part.same (p : Part) (s t : Machine.State) : Prop :=
  match p with
  | .regs => t.regs = s.regs
  | .hif => t.hif = s.hif
  | .jrnl => t.jrnl = s.jrnl
  | .hlth => t.hlth = s.hlth
  | .snap => t.snap = s.snap
  | .time => t.time = s.time
  | .streams => t.streams = s.streams
  | .dec => t.dec = s.dec
  | .net => t.net = s.net
  | .shp => t.shp = s.shp
  | .sgs => t.sgs = s.sgs
  | .progs => t.progs = s.progs
  | .tbl => t.tbl = s.tbl
  | .jobs => t.jobs = s.jobs
  | .nextJob => t.nextJob = s.nextJob
  | .cores => t.cores = s.cores
  | .sched => t.sched = s.sched
  | .pools => t.pools = s.pools
  | .mem => t.mem = s.mem
  | .hbm => t.hbm = s.hbm
  | .lnk => t.lnk = s.lnk
  | .pwr => t.pwr = s.pwr
  | .sec => t.sec = s.sec
  | .counters => t.counters = s.counters
  | .free => t.free = s.free
  | .out => t.out = s.out

/-- The mask of a list of parts. -/
def maskOf (l : List Part) : Nat := l.foldr (fun p m => 2 ^ p.bit ||| m) 0

/-- The parts of the state a command may change; it leaves every other part as it is. -/
def mayChange (i : Instr) : List Part :=
  match i with
  | .commandRingPoll .. =>
      [.hif, .out]
  | .slotReadCompletion .. | .slotReread .. | .hbmTrainingDone .. =>
      [.regs, .hif, .hlth, .snap, .counters]
  | .slotAccept .. | .jrnlRecover .. =>
      [.regs, .hif, .jrnl, .hlth, .snap, .streams, .counters, .out]
  | .nop .. | .fence .. | .statReq .. =>
      [.hif, .jrnl]
  | .progLoad .. =>
      [.regs, .hif, .jrnl, .hlth, .snap, .progs, .counters, .out]
  | .progUnload .. | .progLoadEnd .. =>
      [.regs, .hif, .jrnl, .hlth, .snap, .progs, .counters]
  | .progUnloadDrainEnd .. =>
      [.regs, .hif, .jrnl, .shp, .progs, .hbm]
  | .streamOpen .. =>
      [.regs, .hif, .jrnl, .hlth, .snap, .streams, .net, .shp, .pools, .hbm, .counters, .out]
  | .streamBind .. =>
      [.regs, .hif, .jrnl, .hlth, .snap, .streams, .sgs, .jobs, .pools, .hbm, .counters]
  | .streamClose .. =>
      [.regs, .hif, .jrnl, .streams, .shp]
  | .streamCloseDrainEnd .. =>
      [.regs, .hif, .jrnl, .hlth, .snap, .streams, .net, .shp, .sgs, .pools, .hbm, .counters]
  | .auSubmit .. =>
      [.regs, .hif, .jrnl, .hlth, .snap, .streams, .jobs, .nextJob, .counters, .out]
  | .auFetchDone .. =>
      [.regs, .hif, .jrnl, .hlth, .snap, .streams, .pools, .hbm, .counters, .out]
  | .jobRun .. | .adaptRun .. =>
      [.regs, .hif, .jrnl, .hlth, .snap, .jobs, .nextJob, .counters, .out]
  | .pennantWrite .. =>
      [.regs, .hif, .jrnl, .hlth, .snap, .streams, .progs, .jobs, .sched, .pools, .hbm, .counters, .out]
  | .consumerRecordReread .. | .cringEnable .. | .pringEnable .. =>
      [.regs, .hif, .hlth, .snap, .counters, .out]
  | .msixTimerExpiry .. | .loRegisterRead .. | .timeClkSecLoRead | .timeTpiSecLoRead .. | .invalidateCompletion ..
  | .servoEnWrite .. =>
      [.regs, .hif, .out]
  | .msixVectorUnmask .. | .testStandin .. | .ckInject .. | .coreOnline .. | .mrvProbe .. | .maxwaitClear .. | .retire ..
  | .hbmPortMaxlatClear .. | .svnCommit .. | .recovGo | .secTamperClr .. =>
      [.regs, .out]
  | .cringDisable .. | .pringDisable .. | .hifCringSeq0Write .. | .poolDisable .. =>
      [.regs, .hlth, .snap, .counters, .out]
  | .cringLehrEnd .. | .pringLehrEnd .. | .pcieLaneFailure .. | .recoveryEnd =>
      [.regs, .hif]
  | .registerWrite .. | .barAccess .. | .thermalTrip | .debugPortAccess .. =>
      [.regs, .hif, .jrnl, .hlth, .snap, .time, .streams, .dec, .net, .shp, .sgs, .progs, .tbl, .jobs, .nextJob, .cores,
      .sched, .pools, .mem, .hbm, .lnk, .pwr, .sec, .counters, .out]
  | .atsInvalidateRequest .. =>
      [.hif]
  | .atsTranslationCompletion .. | .hostReadFail .. | .poisonReread .. | .boxListArrival .. | .jobStart .. | .gather ..
  | .matmul .. | .vec .. | .rowstat .. | .softmax .. | .norm .. | .chain .. | .conv .. | .convDw .. | .convFft .. | .pool ..
  | .argmaxC .. | .roiAlign .. | .boxes .. | .nms .. | .topk .. | .iou .. | .hset .. | .knn .. | .assign .. | .track ..
  | .xfrSend .. | .xfrRecv .. | .xfrColl .. | .hbmPoisonRead .. | .lnkPortEnable .. | .lnkPortLehrEnd .. | .portTrainingDone ..
  | .lnkLaneFailure .. | .portDown .. | .topologyUpdate .. | .receipt .. | .ackTimeout .. =>
      [.regs, .hif, .jrnl, .hlth, .snap, .streams, .dec, .shp, .sgs, .progs, .jobs, .cores, .sched, .pools, .mem, .hbm, .lnk,
      .counters, .out]
  | .jrnlEnable .. | .jrnlDisable .. =>
      [.regs, .jrnl, .hlth, .snap, .counters, .out]
  | .jrnlDrainEnd | .mirrorRebuildDone =>
      [.regs, .jrnl]
  | .pwrGoodRise .. | .pwrGoodFall | .rstPorNLow | .vddAonLoss =>
      [.regs, .hif, .jrnl, .hlth, .snap, .time, .streams, .dec, .net, .shp, .sgs, .progs, .tbl, .jobs, .nextJob, .cores,
      .sched, .pools, .mem, .hbm, .lnk, .pwr, .sec, .counters]
  | .rstWarmNFall | .perstAssert | .pcieHotReset | .functionLevelReset | .pwrResetWarm .. | .pwrResetFw .. | .fwWatchdogExpiry =>
      [.regs, .hif, .jrnl, .hlth, .snap, .streams, .dec, .net, .shp, .sgs, .progs, .tbl, .jobs, .nextJob, .cores, .sched,
      .pools, .mem, .hbm, .lnk, .pwr, .counters, .out]
  | .rstWarmNRise | .perstDeassert =>
      [.pwr]
  | .resetIntervalEnd .. =>
      [.regs, .hif, .jrnl, .hlth, .snap, .streams, .net, .pwr, .counters, .out]
  | .ready | .latencyCalibrationDone .. | .railReadback .. | .throttleStep .. =>
      [.regs, .pwr]
  | .decPictureChoice .. =>
      [.regs, .hif, .jrnl, .hlth, .snap, .streams, .dec, .shp, .sgs, .jobs, .cores, .sched, .pools, .mem, .hbm, .lnk,
      .counters, .out]
  | .decBlockRowDone .. =>
      [.regs, .hlth, .snap, .dec, .shp, .mem, .counters]
  | .decPictureDone .. =>
      [.regs, .hif, .hlth, .snap, .streams, .dec, .shp, .jobs, .pools, .hbm, .counters]
  | .decOffline .. | .decOnline .. =>
      [.regs, .streams, .out]
  | .decMoveDone .. =>
      [.regs, .hlth, .snap, .streams, .shp, .counters]
  | .netPortEnable .. =>
      [.regs, .hif, .hlth, .snap, .time, .net, .counters, .out]
  | .autonegComplete .. | .netLaneFailure .. | .pathLoss .. | .netSilent .. | .netLinkLost .. =>
      [.regs, .hif, .hlth, .snap, .net, .counters]
  | .ethFrameReceive .. =>
      [.regs, .hif, .jrnl, .hlth, .snap, .streams, .net, .jobs, .nextJob, .pools, .hbm, .counters, .out]
  | .frameStaleClose .. =>
      [.regs, .hif, .hlth, .snap, .streams, .dec, .net, .jobs, .cores, .sched, .pools, .mem, .hbm, .lnk, .counters, .out]
  | .igmpReportTimer .. =>
      [.net, .out]
  | .flowEnable .. =>
      [.regs, .hlth, .snap, .net, .counters, .out]
  | .flowDisable .. =>
      [.regs, .hlth, .snap, .streams, .net, .counters, .out]
  | .flowLehrEnd .. =>
      [.regs, .net, .out]
  | .mergeWindowExpiry .. =>
      [.net, .counters]
  | .ssrcAdopt .. =>
      [.regs, .hlth, .snap, .streams, .net, .counters]
  | .swTimestampInterrupt .. =>
      [.streams, .net, .jobs]
  | .ptpAnnounce .. | .ptpSync .. | .statusPeriodTimer | .announceReceiptTimeout =>
      [.regs, .hif, .time]
  | .ptpDelayResp .. =>
      [.regs, .time]
  | .delayReqTimer .. =>
      [.out]
  | .servoHoldover | .clockStepLoad | .tpInEdge .. =>
      [.regs, .hif, .hlth, .snap, .time, .counters]
  | .step | .tpOutArm .. =>
      [.regs, .hlth, .snap, .time, .counters, .out]
  | .timeRateWrite .. | .tpOutPulse .. =>
      [.regs, .time, .out]
  | .shpSampleSlot .. =>
      [.regs, .hif, .hlth, .snap, .shp, .pools, .mem, .hbm, .counters]
  | .shpSampleDone .. =>
      [.regs, .hif, .hlth, .snap, .streams, .shp, .jobs, .pools, .hbm, .counters]
  | .batchWaitExpiry .. =>
      [.regs, .shp]
  | .flush .. =>
      [.regs, .shp, .out]
  | .batchDispatch .. | .decode .. | .emit .. | .spectrumJob .. | .foldJob .. | .releaseTile .. | .rejoinTimeout ..
  | .fallbackTimeout .. | .collectiveChunkArrival .. =>
      [.regs, .hif, .jrnl, .hlth, .snap, .streams, .dec, .shp, .jobs, .sched, .pools, .mem, .hbm, .lnk, .counters, .out]
  | .jobPlanGrant .. =>
      [.regs, .hif, .hlth, .snap, .jobs, .pools, .hbm, .counters]
  | .shape .. =>
      [.regs, .shp, .jobs, .mem, .counters]
  | .cropResize .. =>
      [.regs, .hlth, .snap, .shp, .jobs, .counters]
  | .tblLoad .. =>
      [.regs, .tbl, .jobs]
  | .tblSwitch =>
      [.regs, .hif, .jrnl, .hlth, .snap, .streams, .dec, .shp, .tbl, .jobs, .sched, .pools, .mem, .hbm, .lnk, .counters,
      .out]
  | .chainStepCommit .. =>
      [.jobs, .cores, .counters, .free]
  | .optStep .. =>
      [.regs, .hif, .jrnl, .hlth, .snap, .streams, .dec, .shp, .progs, .jobs, .sched, .pools, .mem, .hbm, .lnk, .counters,
      .out]
  | .tileJobPlacement .. =>
      [.regs, .cores, .sched, .counters]
  | .tileIssue .. =>
      [.regs, .jobs, .cores, .counters]
  | .chunkStaged .. =>
      [.cores]
  | .drainRow .. =>
      [.regs, .hif, .hlth, .snap, .tbl, .jobs, .cores, .sched, .pools, .hbm, .counters]
  | .tileCommit .. =>
      [.regs, .hif, .jrnl, .hlth, .snap, .streams, .dec, .shp, .jobs, .cores, .sched, .pools, .mem, .hbm, .lnk, .counters,
      .free, .out]
  | .checkRunDone .. =>
      [.regs, .hif, .hlth, .snap, .jobs, .cores, .sched, .pools, .hbm, .counters]
  | .secondPassIssue .. =>
      [.regs, .jobs, .sched]
  | .coreOffline .. | .classEnable .. =>
      [.regs, .hif, .hlth, .snap, .jobs, .cores, .sched, .pools, .hbm, .counters, .out]
  | .sgsOperationCommit .. =>
      [.regs, .hif, .jrnl, .hlth, .snap, .streams, .dec, .shp, .sgs, .jobs, .sched, .pools, .mem, .hbm, .lnk, .counters,
      .out]
  | .sgsOffline .. =>
      [.regs, .sgs, .jobs, .cores, .sched, .out]
  | .sgsMoveDone .. =>
      [.regs, .hif, .hlth, .snap, .sgs, .counters]
  | .preemptionDecision .. | .saveAreaRetry .. =>
      [.regs, .hif, .hlth, .snap, .cores, .sched, .pools, .hbm, .counters]
  | .contextSaveDone .. =>
      [.regs, .hif, .hlth, .snap, .jobs, .cores, .sched, .pools, .hbm, .counters, .free]
  | .contextRestore .. =>
      [.regs, .hif, .hlth, .snap, .sgs, .jobs, .cores, .sched, .pools, .hbm, .lnk, .counters]
  | .remoteResponse .. =>
      [.regs, .cores, .sched]
  | .saveAll =>
      [.regs, .hif, .hlth, .snap, .sgs, .jobs, .cores, .sched, .pools, .hbm, .counters, .out]
  | .saveAllComplete =>
      [.regs, .hif, .net, .sched, .pwr, .out]
  | .resumeAll =>
      [.regs, .sched, .out]
  | .schedClsCommit =>
      [.regs, .hlth, .snap, .sched, .mem, .counters, .out]
  | .classLehrEnd .. | .furlIdleExpiry | .furlLehrEnd | .wakeEvent | .clockGate .. | .clockStart .. | .railFault ..
  | .pcieLinkUp .. =>
      [.regs]
  | .starveCheck .. =>
      [.regs, .hlth, .snap, .sched, .counters]
  | .fabricRequestGrant .. =>
      [.sched, .counters, .out]
  | .poolDraw .. | .stalledDrawGrant .. | .poolFree .. | .rankRetire .. =>
      [.regs, .hif, .hlth, .snap, .pools, .hbm, .counters]
  | .poolRefill .. | .poolLehrEnd .. =>
      [.regs, .hif, .hlth, .snap, .pools, .counters]
  | .poolEnable .. | .poolResWrite .. | .poolThreshWrite .. =>
      [.regs, .hif, .hlth, .snap, .pools, .counters, .out]
  | .sbPinnedAlloc .. =>
      [.regs, .mem]
  | .wayLinePass .. =>
      [.regs, .mem, .out]
  | .onChipEccError .. =>
      [.regs, .hif, .hlth, .snap, .streams, .dec, .shp, .sgs, .jobs, .cores, .sched, .pools, .hbm, .lnk, .sec, .counters]
  | .secureSramWipeDone | .keyDerivationDone | .burgeeDone | .quoteDone =>
      [.regs, .sec]
  | .hbmRequestIssue .. =>
      [.regs, .hlth, .snap, .hbm, .counters, .out]
  | .urgencyRise .. =>
      [.regs, .hbm, .counters]
  | .refresh .. | .migrationDone | .rankDrainDone .. =>
      [.regs, .hbm]
  | .hbmTempReading .. =>
      [.regs, .hlth, .snap, .hbm, .pwr, .counters]
  | .dqTracking .. =>
      []
  | .patrolScrub .. =>
      [.regs, .hlth, .snap, .hbm, .counters]
  | .frameReplaceCopyDone .. =>
      [.hbm]
  | .lnkTopoWrite .. =>
      [.regs, .hlth, .snap, .lnk, .counters, .out]
  | .flitReceive .. | .replayRequest .. | .peerRejoin .. =>
      [.regs, .lnk, .counters, .out]
  | .creditReturn .. =>
      [.regs, .lnk]
  | .tileArrival .. =>
      [.regs, .hif, .jrnl, .hlth, .snap, .streams, .dec, .shp, .sgs, .progs, .jobs, .nextJob, .cores, .sched, .pools, .mem,
      .hbm, .lnk, .counters, .out]
  | .orphanTimeout .. =>
      [.regs, .hif, .hlth, .snap, .pools, .hbm, .lnk, .counters, .out]
  | .recordEntryClear .. | .clearAll | .hlthUnfence .. | .planNow =>
      [.regs, .hlth, .out]
  | .hangDetection .. | .selfTestDone .. =>
      [.regs, .hif, .hlth, .snap, .streams, .dec, .shp, .sgs, .jobs, .cores, .sched, .pools, .hbm, .counters]
  | .marginPlanDue | .idleMoment =>
      [.regs, .hlth]
  | .planForced =>
      [.regs, .hlth, .counters]
  | .ageingMeasurementDone .. =>
      [.regs, .hlth, .snap, .counters]
  | .marginPlanEnd =>
      [.regs, .hif, .hlth, .snap, .streams, .dec, .shp, .sgs, .jobs, .cores, .sched, .pools, .hbm, .pwr, .counters, .out]
  | .hoist =>
      [.regs, .snap, .counters, .out]
  | .snapInEdge .. | .snapTimeMatch =>
      [.regs, .snap, .counters]
  | .snapArm =>
      [.regs, .snap, .out]
  | .d3hotWrite =>
      [.regs, .hif, .hlth, .snap, .net, .sgs, .jobs, .cores, .sched, .pools, .hbm, .pwr, .counters, .out]
  | .d0Write =>
      [.regs, .hif, .sched, .out]
  | .challenge | .provision | .endorse | .production | .returnCmd | .terminate | .revoke .. | .burgeeGo | .quoteGo =>
      [.regs, .hlth, .snap, .sec, .counters, .out]
  | .lcCommandDone =>
      [.regs, .hlth, .snap, .sec, .counters]
  | .imageVerifyDone .. | .rstPorNRise .. =>
      [.regs, .hlth, .snap, .pwr, .sec, .counters]
  | .tamperEvent .. =>
      [.regs, .hif, .hlth, .snap, .sec, .counters]
  | .resumeAllComplete =>
      [.regs, .hif, .hlth, .snap, .jobs, .cores, .sched, .pools, .hbm, .pwr, .counters]

end Sys2Proof
end

