-- ==== Sys2Proof/Certificates/Slice0/Obligations.lean ====
section
/-! DEFINITION. The statements: what the commands of each family do to the state, when they complete, and what every step keeps. -/

set_option Elab.async false

open Sys2Proof Sys2Proof.Machine

/-- A step takes the command at the front of the queue and runs it with the queue's rest (the model's own form of a block: log entry 1). -/
def Obligations.StepRunsTheFrontCommand : Prop :=
  ∀ (c : Instr) (rest : List Instr) (s : Machine.State),
    step { s with pending := c :: rest } = exec c { s with pending := rest }

/-- An idle step is one tick of 40 ns of the always-on domain (the model's choice, log entry 1; TIME_MONO and the clock by R216, R217). -/
def Obligations.EmptyQueueIsOneTick : Prop :=
  ∀ s : Machine.State, s.pending = [] →
    ∃ t, step s = .next t ∧ t.time.mono = s.time.mono + 40 ∧ (s.time.step = none → t = { s with time := t.time })

/-- Every step of every state answers a next state: no command of the table ends in a fault or a refusal. -/
def Obligations.EveryStepGoesOn : Prop := ∀ s : Machine.State, safeStep s

/-- Whatever a command does, the queue after the step is the queue's rest. -/
def Obligations.AStepTakesExactlyTheFrontCommand : Prop :=
  ∀ s t : Machine.State, step s = .next t → t.pending = s.pending.tail

/-- Every step, of any command on any state, keeps the register file and the 64-bit counters in canonical form. -/
def Obligations.CanonicalTablesStayCanonical : Prop :=
  ∀ s t : Machine.State, canonical s → step s = .next t → canonical t

/-- No command, reset or loss of power leads out of TERMINATED (R706 to R708: every lifecycle command starts from another state). -/
def Obligations.TerminatedIsFinal : Prop :=
  ∀ s t : Machine.State, terminated s → step s = .next t → terminated t ∧ t.lifecycle = 4

/-- The state right after power-on reset: canonical, nothing waiting, every register at its reset value, rings and flows
DISABLED, streams CLOSED, pools ACTIVE over the carve of R566. -/
def Obligations.StateAfterPowerOnReset : Prop :=
  canonical State.reset ∧ State.reset.pending = [] ∧ (∀ a, State.reset.reg a = regReset a) ∧
  (∀ c, c < 16 → State.reset.rd (Reg.HIF_CRING_STATUS_STATE c) = 0) ∧
  (∀ m, m < 64 → State.reset.rd (Reg.HIF_PRING_STATUS_STATE m) = 0) ∧
  (∀ n, n < 128 → State.reset.rd (Reg.DEC_STRM_STATE_STATE n) = 0) ∧
  (∀ f, f < 32 → State.reset.rd (Reg.NET_FLOW_STATUS_STATE f) = 0) ∧
  (∀ c, c < 8 → State.reset.rd (Reg.POOL_CLS_STATUS_STATE c) = 1) ∧
  State.reset.lifecycle = 0 ∧ State.reset.pwr.inReset = some .powerOn ∧ State.reset.rd Reg.PWR_STATUS_READY = 0

/-- R62, R218 and the stamps of R234: what a register read latches, what it answers, and that it changes nothing else; configuration
space lies from address 2^32 on (the model's choice, log entry 10). -/
def Obligations.ReadsLatchTheirPartners : Prop :=
  (∀ (s : State) (a h : Nat), a < 2 ^ 26 → reaches s a → hiOf a = some h →
    completes (.loRegisterRead a) s fun t =>
      t.latched h = some (s.view h) ∧ (∀ b, b ≠ h → t.latched b = s.latched b) ∧ t.out = s.out ++ [Out.readData a (s.read a)] ∧
      t = { s with hif := { s.hif with hiLatch := t.hif.hiLatch }, out := t.out }) ∧
  (∀ (s : State) (a : Nat), a < 2 ^ 26 → reaches s a → latchesOf a = [] →
    completes (.loRegisterRead a) s fun t => t = { s with out := s.out ++ [Out.readData a (s.read a)] }) ∧
  (∀ (s : State) (off : Nat), completes (.loRegisterRead (cfgBase + off)) s fun t =>
    t = { s with out := s.out ++ [Out.readData (cfgBase + off) (s.cfgView off)] }) ∧
  (∀ s : State, reaches s Reg.TIME_CLK_SEC_LO →
    completes .timeClkSecLoRead s fun t =>
      t.latched Reg.TIME_CLK_SEC_HI = some (s.view Reg.TIME_CLK_SEC_HI) ∧
      t.latched Reg.TIME_CLK_NS = some (s.view Reg.TIME_CLK_NS) ∧ t.latched Reg.TIME_CLK_FRAC = some (s.view Reg.TIME_CLK_FRAC) ∧
      (∀ b, b ∉ [Reg.TIME_CLK_SEC_HI, Reg.TIME_CLK_NS, Reg.TIME_CLK_FRAC] → t.latched b = s.latched b) ∧
      t.out = s.out ++ [Out.readData Reg.TIME_CLK_SEC_LO (s.read Reg.TIME_CLK_SEC_LO)] ∧
      t = { s with hif := { s.hif with hiLatch := t.hif.hiLatch }, out := t.out }) ∧
  (∀ (s : State) (i : Nat), i < 2 → reaches s (Reg.TIME_TPI_SEC_LO i) →
    completes (.timeTpiSecLoRead i) s fun t =>
      t.latched (Reg.TIME_TPI_SEC_HI i) = some (s.view (Reg.TIME_TPI_SEC_HI i)) ∧
      t.latched (Reg.TIME_TPI_NS i) = some (s.view (Reg.TIME_TPI_NS i)) ∧
      (∀ b, b ∉ [Reg.TIME_TPI_SEC_HI i, Reg.TIME_TPI_NS i] → t.latched b = s.latched b) ∧
      t.out = s.out ++ [Out.readData (Reg.TIME_TPI_SEC_LO i) (s.read (Reg.TIME_TPI_SEC_LO i))] ∧
      t = { s with hif := { s.hif with hiLatch := t.hif.hiLatch }, out := t.out }) ∧
  (∀ (s : State) (a : Nat) (v : BitVec 32), s.served a = true → s.latched a = some v → s.read a = v) ∧
  ∀ (s : State) (a : Nat), s.served a = true → s.latched a = none → woMask a = 0 → s.read a = s.view a

/-- R12, R14, R17 and R60 for REGISTER_WRITE, and R726 for the debug port: the bits a write sets and clears, and what it leaves alone. -/
def Obligations.RegisterWritesFollowTheirAccessCodes : Prop :=
  let plain := fun (a : Nat) => a / 0x100000 = 0x00 ∨ a / 0x100000 = 0x1A ∨
    a ∈ [Reg.HIF_CTRL, Reg.HIF_ERR, Reg.HIF_STATUS, Reg.TIME_ERR, Reg.TIME_SERVO_KP, Reg.TIME_SERVO_KI, Reg.TIME_SERVO_THR,
      Reg.TIME_SERVO_HOLD, Reg.TIME_SET_SEC_LO, Reg.TIME_SET_SEC_HI, Reg.HLTH_ERR, Reg.HLTH_HANG, Reg.SNAP_ERR, Reg.SEC_ERR]
  let written := fun (a : Nat) (w : BitVec 32) (s t : State) =>
    onlyRegs [a] s t ∧ ∀ r, rowOf a = some r →
      (((∃ f ∈ r.fields, f.lo = 31 ∧ f.acc = .st) ∧ w.getLsbD 31 = true) → t.reg a = 0) ∧
      (¬((∃ f ∈ r.fields, f.lo = 31 ∧ f.acc = .st) ∧ w.getLsbD 31 = true) → ∀ f ∈ r.fields, ∀ k, f.lo ≤ k → k < f.lo + f.w →
        (t.reg a).getLsbD k = match f.acc with
          | .rw => w.getLsbD k
          | .ro => (s.reg a).getLsbD k
          | .wo => (s.reg a).getLsbD k
          | .w1c => (s.reg a).getLsbD k && !w.getLsbD k
          | .st => (s.reg a).getLsbD k && !w.getLsbD k
          | .w1s => (s.reg a).getLsbD k || w.getLsbD k)
  (∀ (s : State) (a : Nat) (w : BitVec 32), a < 2 ^ 26 → reaches s a → plain a →
    completes (.registerWrite a w 15#4) s fun t => written a w s t) ∧
  (∀ (s : State) (a : Nat) (w : BitVec 32), a < 2 ^ 26 → reaches s a → rowOf a = none → ¬(0x1E01000 ≤ a ∧ a < 0x1E02000) →
    completes (.registerWrite a w 15#4) s fun t => t = s) ∧
  (∀ (s : State) (a : Nat) (w : BitVec 32) (be : BitVec 4), a < 2 ^ 26 → reaches s a → be ≠ 15#4 → s.rd Reg.HIF_ERR_VALID = 0 →
    completes (.registerWrite a w be) s fun t =>
      t.rd Reg.HIF_ERR_CODE = 0x010B ∧ t.rd64 Reg.HIF_ERR_ADDR_LO Reg.HIF_ERR_ADDR_HI = a % 2 ^ 64 ∧
      (∀ b, b / 0x100000 ≠ 0x1E → b / 0x100000 ≠ 0x1F → b ∉ [Reg.HIF_ERR, Reg.HIF_ERR_ADDR_LO, Reg.HIF_ERR_ADDR_HI] →
        t.reg b = s.reg b) ∧
      t = { s with regs := t.regs, hlth := t.hlth, snap := t.snap, counters := t.counters }) ∧
  (∀ (s : State) (a : Nat) (w : BitVec 32), s.rd Reg.SEC_STATUS_DEBUG_OPEN = 1 → a < 0x4000000 → a % 4 = 0 → reaches s a →
    plain a → completes (.debugPortAccess a (some w)) s fun t => written a w s t) ∧
  (∀ (s : State) (off : Nat) (w : BitVec 32) (be : BitVec 4), off ≠ 0x44 →
    completes (.registerWrite (cfgBase + off) w be) s fun t =>
      (∀ k, k < 32 → (t.cfgReg off).getLsbD k =
        if be.getLsbD (k / 8) = true ∧ (cfgRow off).rw.testBit k = true then w.getLsbD k
        else if be.getLsbD (k / 8) = true ∧ (cfgRow off).w1c.testBit k = true ∧ w.getLsbD k = true then false
        else (s.cfgReg off).getLsbD k) ∧
      (∀ o, o ≠ off → t.cfgReg o = s.cfgReg o) ∧ t = { s with hif := { s.hif with cfg := t.hif.cfg } }) ∧
  ∀ (s : State) (a : Nat), s.rd Reg.SEC_STATUS_DEBUG_OPEN = 1 → a < 0x4000000 → a % 4 = 0 →
    completes (.debugPortAccess a none) s fun t => t = { s with out := s.out ++ [Out.debug a (s.read a)] }

/-- R58, R61, R746: what BAR0 does with a whole request of any kind, address and length. -/
def Obligations.BarRequestsAreServedOrTurnedAway : Prop :=
  let recorded := fun (s t : State) (bit : Nat) =>
    t.rd Reg.HIF_ERR_CODE = 0x010B ∧ (t.cfgReg 0x104).getLsbD bit = true ∧
    (∀ b, b / 0x100000 ≠ 0x1E → b / 0x100000 ≠ 0x1F → b ∉ [Reg.HIF_ERR, Reg.HIF_ERR_ADDR_LO, Reg.HIF_ERR_ADDR_HI] →
      t.reg b = s.reg b) ∧ (∀ o, o ≠ 0x104 → o ≠ 0x118 → t.cfgReg o = s.cfgReg o) ∧
    t = { s with regs := t.regs, hif := { s.hif with cfg := t.hif.cfg }, hlth := t.hlth, snap := t.snap, counters := t.counters,
                 out := t.out }
  (∀ (s : State) (a len : Nat) (data : List (BitVec 32 × BitVec 4)), (∀ i, i < len → reaches s (4 * ((a + i) / 4))) →
    barFits a len = true → completes (.barAccess .read a len data) s fun t =>
      (∃ l : List (BitVec 32), l.length = (a + len - 1) / 4 + 1 - a / 4 ∧
        t.out = s.out ++ l.zipIdx.map (fun x => Out.readData (4 * (a / 4 + x.2)) x.1)) ∧
      t = { s with hif := { s.hif with hiLatch := t.hif.hiLatch }, out := t.out }) ∧
  (∀ (s : State) (a len : Nat) (data : List (BitVec 32 × BitVec 4)), s.barRefused = false → a + len ≤ 2 ^ 26 →
    barFits a len = true → data.length = (a + len - 1) / 4 + 1 - a / 4 →
    completes (.barAccess .write a len data) s fun t =>
      t = data.zipIdx.foldl (fun (s : State) q => s.after (exec (.registerWrite (4 * (a / 4 + q.2)) q.1.1 q.1.2))) s) ∧
  (∀ (s : State) (a len : Nat) (data : List (BitVec 32 × BitVec 4)), s.barRefused = false → s.rd Reg.HIF_ERR_VALID = 0 →
    barFits a len = false →
    completes (.barAccess .read a len data) s fun t => recorded s t 15 ∧ t.out = s.out ++ [Out.completerAbort a]) ∧
  (∀ (s : State) (a len : Nat) (data : List (BitVec 32 × BitVec 4)), s.barRefused = false → s.rd Reg.HIF_ERR_VALID = 0 →
    barFits a len = false → completes (.barAccess .write a len data) s fun t => recorded s t 15 ∧ t.out = s.out) ∧
  (∀ (s : State) (a len : Nat) (data : List (BitVec 32 × BitVec 4)) (k : BarKind), k = .locked ∨ k = .atomic →
    s.barRefused = false → s.rd Reg.HIF_ERR_VALID = 0 →
    completes (.barAccess k a len data) s fun t => recorded s t 20 ∧ t.out = s.out ++ [Out.unsupportedRequest a]) ∧
  ∀ (s : State) (a len : Nat) (data : List (BitVec 32 × BitVec 4)) (k : BarKind), s.hif.d3hot = true ∨ s.rd Reg.PWR_STATUS_STATE = 4 →
    completes (.barAccess k a len data) s fun t => t = { s with out := s.out ++ [Out.unsupportedRequest a] }

/-- R73, R74, R77, R83, R86, R104, R113: the way of a command slot from the poll to its acceptance. -/
def Obligations.CommandSlotsArePolledTakenAndAccepted : Prop :=
  (∀ (s : State) (due : List Nat), (∀ c ∈ due, s.untranslated false (pagesOf (s.tagAddr c (s.pollTag c)) 64) = []) →
    (∃ c ∈ due, s.pollable c = true) →
    completes (.commandRingPoll due) s fun t => ∃ c ∈ due, s.pollable c = true ∧ (t.cring c).polling = true ∧
      t.out = s.out ++ [Out.pollRead c (s.slotIndex c (s.pollTag c)) (s.tlp (s.tagAddr c (s.pollTag c)))] ∧
      t = { s with hif := t.hif, out := t.out }) ∧
  (∀ (s : State) (c : Nat) (w : BitVec 512), c < 16 → (s.cring c).polling = true → (s.cring c).wait = none →
    slotTag w ≠ s.expTag c →
    completes (.slotReadCompletion c w) s fun t => (t.cring c).polling = false ∧ (t.cring c).wait = none ∧
      t.expTag c = s.expTag c ∧ t = { s with regs := t.regs, hif := t.hif }) ∧
  (∀ (s : State) (c : Nat) (w : BitVec 512) (x : WaitSlot), c < 16 → (s.cring c).polling = true → (s.cring c).wait = some x →
    completes (.slotReadCompletion c w) s fun t => (t.cring c).polling = false ∧ (t.cring c).wait = some x ∧
      t.expTag c = s.expTag c ∧ t = { s with regs := t.regs, hif := t.hif }) ∧
  (∀ (s : State) (c : Nat) (w : BitVec 512), c < 16 → (s.cring c).polling = true → (s.cring c).wait = none →
    slotTag w = s.expTag c → slotEcho w ≠ slotTag w → completes (.slotReadCompletion c w) s fun t =>
      t = s.setCring c { s.cring c with polling := false, torn := some 0 }) ∧
  (∀ (s : State) (c : Nat) (w : BitVec 512), c < 16 → (s.cring c).polling = true → (s.cring c).wait = none →
    slotTag w = s.expTag c → slotEcho w = slotTag w → s.entryFree = true → s.slotCheck w = none → completes (.slotReadCompletion c w) s fun t =>
      (t.cring c).wait = some { slot := w } ∧ (t.cring c).polling = false ∧ t.expTag c = s.expTag c ∧
      t = { s with regs := t.regs, hif := t.hif }) ∧
  (∀ (s : State) (c : Nat) (w : BitVec 512) (code d0 d1 : Nat), c < 16 → (s.cring c).polling = true →
    (s.cring c).wait = none → slotTag w = s.expTag c → slotEcho w = slotTag w → s.entryFree = true →
    s.slotCheck w = some (code, d0, d1) →
    completes (.slotReadCompletion c w) s fun t =>
      (∃ p ∈ (t.pring (s.rd (Reg.HIF_CRING_CFG_PRING_ACK c))).ready, p.ty = 0x12 ∧ p.err = code ∧ p.key = .refusal c ∧
        p.job = slotJob w) ∧
      t.expTag c = (s.expTag c + 1) % 2 ^ 32 ∧ (t.cring c).wait = (s.cring c).wait ∧ t.jrnl = s.jrnl) ∧
  (∀ (s : State) (c n : Nat) (w : BitVec 512), c < 16 → (s.cring c).torn = some n → (s.cring c).wait = none →
    slotTag w = s.expTag c → slotEcho w ≠ slotTag w → n + 1 < 4 → completes (.slotReread c w) s fun t =>
      t = s.setCring c { s.cring c with polling := false, torn := some (n + 1) }) ∧
  (∀ (s : State) (c n : Nat) (w : BitVec 512), c < 16 → (s.cring c).torn = some n → (s.cring c).wait = none →
    slotTag w = s.expTag c → slotEcho w ≠ slotTag w → 3 ≤ n → completes (.slotReread c w) s fun t =>
      (∃ p ∈ (t.pring (s.rd (Reg.HIF_CRING_CFG_PRING_ACK c))).ready, p.ty = 0x12 ∧ p.err = 0x0105 ∧ p.key = .refusal c) ∧
      t.expTag c = (s.expTag c + 1) % 2 ^ 32 ∧ (t.cring c).torn = none ∧ t.jrnl = s.jrnl) ∧
  (∀ (s : State) (c consumed : Nat) (w : WaitSlot), c < 16 → (s.cring c).wait = some w → 1 ≤ s.cState c → s.cState c ≤ 4 →
    s.jrnl.reachable = true → s.entryFree = true → s.logRoom = true →
    s.pState (s.rd (Reg.HIF_CRING_CFG_PRING_ACK c)) = 1 → s.ringSeq (s.rd (Reg.HIF_CRING_CFG_PRING_ACK c)) ≠ 0 →
    (s.pring (s.rd (Reg.HIF_CRING_CFG_PRING_ACK c))).mid = none →
    s.refusalWaits c (s.rd (Reg.HIF_CRING_CFG_PRING_ACK c)) = false → s.acceptXlate (s.rd (Reg.HIF_CRING_CFG_PRING_ACK c)) = [] →
    (s.pring (s.rd (Reg.HIF_CRING_CFG_PRING_ACK c))).cons.isSome = true →
    1 ≤ s.freeBlocks (s.rd (Reg.HIF_CRING_CFG_PRING_ACK c)) →
    completes (.slotAccept c consumed) s fun t => (t.cring c).wait = none ∧ t.jrnl.nextIdx = (s.jrnl.nextIdx + 1) % 2 ^ 32 ∧
      ∃ d, t.jrnl.cmds = s.jrnl.cmds ++ [d] ∧ d.jidx = s.jrnl.nextIdx ∧ d.slot = w.slot ∧ d.ring = c ∧ d.ct = s.now ∧
        d.ended = false) ∧
  ∀ (s : State) (c : Nat) (w : BitVec 32), c < 16 → reaches s (Reg.HIF_CRING_SEQ0 c) → s.cState c = 0 →
    completes (.hifCringSeq0Write c w) s fun t => t.reg (Reg.HIF_CRING_SEQ0 c) = w ∧ t.reg (Reg.HIF_CRING_NEXT c) = w ∧
      onlyRegs [Reg.HIF_CRING_SEQ0 c, Reg.HIF_CRING_NEXT c] s t

/-- R102 to R107: the states of the rings of both kinds.  When an enable reads the consumer record is the model's choice (log entry 12). -/
def Obligations.RingsEnableDrainAndStop : Prop :=
  (∀ (s : State) (c : Nat) (w : BitVec 32), c < 16 → reaches s (Reg.HIF_CRING_CFG c) → s.cState c = 0 →
    s.rd Reg.HIF_JRNL_CFG_ENABLE = 1 → s.rd Reg.HIF_JRNL_CFG_DRAINING = 0 → 4 ≤ bitsOf w.toNat 0 5 → bitsOf w.toNat 0 5 ≤ 16 →
    1 ≤ s.rd (Reg.HIF_CRING_SEQ0_SEQ0 c) → s.rd (Reg.HIF_CRING_SEQ0_SEQ0 c) + 2 ^ bitsOf w.toNat 0 5 ≤ 2 ^ 32 →
    completes (.cringEnable c w) s fun t => t.cState c = 1 ∧ t.rd (Reg.HIF_CRING_CFG_ENABLE c) = 1 ∧
      t.rd (Reg.HIF_CRING_CFG_LOG2_SLOTS c) = bitsOf w.toNat 0 5 ∧ t.rd (Reg.HIF_CRING_CFG_PRING_ACK c) = bitsOf w.toNat 8 6 ∧
      t.rd (Reg.HIF_CRING_STATUS_INTERVAL c) = s.pollFast c ∧ t.expTag c = s.expTag c ∧
      (∀ a, a ≠ Reg.HIF_CRING_CFG c → a ≠ Reg.HIF_CRING_STATUS c → t.reg a = s.reg a) ∧ t = { s with regs := t.regs, hif := t.hif }) ∧
  (∀ (s : State) (c : Nat) (w : BitVec 32), c < 16 → reaches s (Reg.HIF_CRING_CFG c) → s.cState c = 0 →
    bitsOf w.toNat 0 5 < 4 ∨ 16 < bitsOf w.toNat 0 5 ∨ s.rd (Reg.HIF_CRING_SEQ0_SEQ0 c) = 0 ∨
      2 ^ 32 < s.rd (Reg.HIF_CRING_SEQ0_SEQ0 c) + 2 ^ bitsOf w.toNat 0 5 ∨ s.rd Reg.HIF_JRNL_CFG_ENABLE = 0 ∨
      s.rd Reg.HIF_JRNL_CFG_DRAINING = 1 →
    completes (.cringEnable c w) s fun t => t.cState c = 0 ∧ t.rd Reg.HIF_ERR_VALID = 1) ∧
  (∀ (s : State) (c : Nat) (w : BitVec 32), c < 16 → reaches s (Reg.HIF_CRING_CFG c) → s.cState c = 3 →
    bitsOf w.toNat 0 5 = s.rd (Reg.HIF_CRING_CFG_LOG2_SLOTS c) → bitsOf w.toNat 8 6 = s.rd (Reg.HIF_CRING_CFG_PRING_ACK c) →
    completes (.cringEnable c w) s fun t => t.cState c = 4 ∧ t.rd (Reg.HIF_CRING_CFG_ENABLE c) = 1 ∧
      onlyRegs [Reg.HIF_CRING_CFG c, Reg.HIF_CRING_STATUS c] s t) ∧
  (∀ (s : State) (c : Nat) (w : BitVec 32), c < 16 → reaches s (Reg.HIF_CRING_CFG c) → 1 ≤ s.cState c → s.cState c ≤ 5 →
    bitsOf w.toNat 0 5 = s.rd (Reg.HIF_CRING_CFG_LOG2_SLOTS c) → bitsOf w.toNat 8 6 = s.rd (Reg.HIF_CRING_CFG_PRING_ACK c) →
    completes (.cringDisable c w) s fun t => t.cState c = (if s.cState c = 5 then 0 else 3) ∧
      t.rd (Reg.HIF_CRING_CFG_ENABLE c) = 0 ∧ onlyRegs [Reg.HIF_CRING_CFG c, Reg.HIF_CRING_STATUS c] s t) ∧
  (∀ (s : State) (c : Nat), c < 16 → s.cringQuiet c = true → s.cState c = 3 →
    completes (.cringLehrEnd c) s fun t => t.cState c = 0 ∧ onlyRegs [Reg.HIF_CRING_STATUS c] s t) ∧
  (∀ (s : State) (c : Nat), c < 16 → s.cringQuiet c = true → s.cState c = 4 →
    completes (.cringLehrEnd c) s fun t => t.cState c = 1 ∧ t.rd (Reg.HIF_CRING_CFG_ENABLE c) = 1 ∧ t.expTag c = s.expTag c ∧
      (∀ a, a ≠ Reg.HIF_CRING_CFG c → a ≠ Reg.HIF_CRING_STATUS c → t.reg a = s.reg a) ∧ t = { s with regs := t.regs, hif := t.hif }) ∧
  (∀ (s : State) (m consumed : Nat) (w : BitVec 32), m < 64 → reaches s (Reg.HIF_PRING_CFG m) → s.pState m = 0 →
    6 ≤ bitsOf w.toNat 0 5 → bitsOf w.toNat 0 5 ≤ 20 → s.ringSeq m ≠ 0 → consumed ≤ s.produced m →
    s.produced m ≤ consumed + 2 ^ bitsOf w.toNat 0 5 → s.untranslated false (pagesOf (s.consAddr m) 8) = [] →
    completes (.pringEnable m w consumed) s fun t => t.pState m = 1 ∧ t.rd (Reg.HIF_PRING_CFG_ENABLE m) = 1 ∧
      t.rd (Reg.HIF_PRING_CFG_LOG2_BLOCKS m) = bitsOf w.toNat 0 5 ∧ t.rd (Reg.HIF_PRING_CFG_VECTOR m) = bitsOf w.toNat 8 8 ∧
      (t.pring m).cons = some consumed ∧ (t.pring m).ready = (s.pring m).ready ∧
      t.out = s.out ++ [Out.consRead m (s.tlp (s.consAddr m))] ∧
      (∀ a, a ≠ Reg.HIF_PRING_CFG m → a ≠ Reg.HIF_PRING_STATUS m → t.reg a = s.reg a) ∧
      t = { s with regs := t.regs, hif := t.hif, out := t.out }) ∧
  (∀ (s : State) (m consumed : Nat) (w : BitVec 32), m < 64 → reaches s (Reg.HIF_PRING_CFG m) → s.pState m = 0 →
    bitsOf w.toNat 0 5 < 6 ∨ 20 < bitsOf w.toNat 0 5 ∨ s.ringSeq m = 0 →
    completes (.pringEnable m w consumed) s fun t => t.pState m = 0 ∧ t.rd Reg.HIF_ERR_VALID = 1) ∧
  (∀ (s : State) (m consumed : Nat) (w : BitVec 32), m < 64 → reaches s (Reg.HIF_PRING_CFG m) → s.pState m = 3 →
    bitsOf w.toNat 0 5 = s.rd (Reg.HIF_PRING_CFG_LOG2_BLOCKS m) → bitsOf w.toNat 8 8 = s.rd (Reg.HIF_PRING_CFG_VECTOR m) →
    completes (.pringEnable m w consumed) s fun t => t.pState m = 4 ∧ t.rd (Reg.HIF_PRING_CFG_ENABLE m) = 1 ∧
      onlyRegs [Reg.HIF_PRING_CFG m, Reg.HIF_PRING_STATUS m] s t) ∧
  (∀ (s : State) (m : Nat) (w : BitVec 32), m < 64 → reaches s (Reg.HIF_PRING_CFG m) →
    s.pState m = 1 ∨ s.pState m = 3 ∨ s.pState m = 4 ∨ s.pState m = 5 →
    bitsOf w.toNat 0 5 = s.rd (Reg.HIF_PRING_CFG_LOG2_BLOCKS m) → bitsOf w.toNat 8 8 = s.rd (Reg.HIF_PRING_CFG_VECTOR m) →
    completes (.pringDisable m w) s fun t => t.pState m = (if s.pState m = 5 then 0 else 3) ∧
      t.rd (Reg.HIF_PRING_CFG_ENABLE m) = 0 ∧ onlyRegs [Reg.HIF_PRING_CFG m, Reg.HIF_PRING_STATUS m] s t) ∧
  (∀ (s : State) (m : Nat), m < 64 → s.pState m = 3 →
    completes (.pringLehrEnd m) s fun t => t.pState m = 0 ∧ onlyRegs [Reg.HIF_PRING_STATUS m] s t) ∧
  ∀ (s : State) (m : Nat), m < 64 → s.pState m = 4 → completes (.pringLehrEnd m) s fun t =>
    t.pState m = 1 ∧ t.rd (Reg.HIF_PRING_CFG_ENABLE m) = 1 ∧ (t.pring m).ready = (s.pring m).ready ∧
      (∀ a, a ≠ Reg.HIF_PRING_CFG m → a ≠ Reg.HIF_PRING_STATUS m → t.reg a = s.reg a) ∧ t = { s with regs := t.regs, hif := t.hif }

/-- R69, R71, R81: the commands that only answer. -/
def Obligations.NopFenceAndStatReqEnd : Prop :=
  (∀ (s : State) (j : Nat) (c : Cmd), s.running j 0x01 = some c →
    completes (.nop j) s fun t => ends t c 0 ∧ t = { s with hif := t.hif, jrnl := t.jrnl }) ∧
  (∀ (s : State) (j : Nat) (c : Cmd), s.running j 0x02 = some c →
    (∀ d ∈ s.jrnl.cmds, d.ring = c.ring → seqBefore d.jidx j = false) →
    completes (.fence j) s fun t => ends t c 0 ∧ t = { s with hif := t.hif, jrnl := t.jrnl }) ∧
  (∀ (s : State) (j : Nat) (c d : Cmd), s.running j 0x02 = some c → d ∈ s.jrnl.cmds → d.ring = c.ring → seqBefore d.jidx j = true →
    exec (.fence j) s = .next s) ∧
  ∀ (s : State) (j : Nat) (c : Cmd), s.running j 0x40 = some c →
    completes (.statReq j) s fun t => ends t c 0 ∧ t = { s with hif := t.hif, jrnl := t.jrnl } ∧
      ∀ p ∈ statPieces (cmdPn c 0x13 s.now) (slotParam c.slot % 2 ^ 16) 0 false (statOrder (s.statEntries (slotParam c.slot % 2 ^ 16))),
        p ∈ (t.pring (s.ackRing c)).ready

/-- R299 to R304: PROG_LOAD, PROG_LOAD_END, PROG_UNLOAD and PROG_UNLOAD_DRAIN_END. -/
def Obligations.ProgramsLoadAndUnload : Prop :=
  let others := fun (p : Nat) (s t : State) => ∀ k, k < 32 → k ≠ p → t.reg (Reg.GLB_PROG_STATUS k) = s.reg (Reg.GLB_PROG_STATUS k)
  (∀ (s : State) (j : Nat) (c : Cmd) (image : List Nat), s.running j 0x10 = some c → c.waiting = false →
    image.length = slotLength c.slot → (s.fetchedObj c).2 = true → s.olderOn c (slotParam c.slot % 32) [0x10, 0x11] = [] →
    s.progState (slotParam c.slot % 32) = 0 →
    completes (.progLoad j image) s fun t => t.progState (slotParam c.slot % 32) = 1 ∧
      (t.prog (slotParam c.slot % 32)).loading =
        some (j, checkImage (s.loadEnv (slotParam c.slot % 32)) image, image) ∧
      others (slotParam c.slot % 32) s t ∧
      t = { s with regs := t.regs, hif := t.hif, progs := t.progs, jrnl := t.jrnl, out := t.out }) ∧
  (∀ (s : State) (j : Nat) (c : Cmd) (image : List Nat), s.running j 0x10 = some c → c.waiting = false →
    image.length = slotLength c.slot → (s.fetchedObj c).2 = true → s.olderOn c (slotParam c.slot % 32) [0x10, 0x11] = [] →
    2 ≤ s.progState (slotParam c.slot % 32) →
    completes (.progLoad j image) s fun t => waitsOn t (s.ackRing c) 0x12 j 0x0509 ∧ ends t c 0x0509 ∧
      t.progState (slotParam c.slot % 32) = s.progState (slotParam c.slot % 32) ∧ t.progs = s.progs) ∧
  (∀ (s : State) (p j : Nat) (c : Cmd) (image : List Nat), p < 32 → (s.prog p).loading = some (j, none, image) → s.cmd? j = some c →
    completes (.progLoadEnd p) s fun t => t.progState p = 2 ∧ t.rd (Reg.GLB_PROG_STATUS_LEVEL p) = (s.prog p).level % 2 ^ 4 ∧
      ends t c 0 ∧ (t.prog p).loading = none ∧ (t.prog p).words = (s.prog p).words ∧ others p s t) ∧
  (∀ (s : State) (p j code d0 d1 : Nat) (c : Cmd) (image : List Nat), p < 32 → (s.prog p).loading = some (j, some (code, d0, d1), image) →
    s.cmd? j = some c →
    completes (.progLoadEnd p) s fun t => t.progState p = 0 ∧ waitsOn t (s.ackRing c) 0x12 j code ∧ ends t c code ∧
      t.prog p = {} ∧ others p s t) ∧
  (∀ (s : State) (j : Nat) (c : Cmd), s.running j 0x11 = some c → c.waiting = false →
    s.olderOn c (slotParam c.slot % 32) [0x10, 0x11] = [] → s.progState (slotParam c.slot % 32) = 0 →
    completes (.progUnload j) s fun t => ends t c 0x050A ∧ t.progs = s.progs ∧ t.progState (slotParam c.slot % 32) = 0) ∧
  (∀ (s : State) (j : Nat) (c : Cmd), s.running j 0x11 = some c → c.waiting = false →
    s.olderOn c (slotParam c.slot % 32) [0x10, 0x11] = [] → s.progState (slotParam c.slot % 32) = 2 →
    completes (.progUnload j) s fun t => t.progState (slotParam c.slot % 32) = 3 ∧
      (t.prog (slotParam c.slot % 32)).unloading = some j ∧ others (slotParam c.slot % 32) s t ∧
      t = { s with regs := t.regs, progs := t.progs, jrnl := t.jrnl }) ∧
  (∀ (s : State) (p j : Nat) (c : Cmd), p < 32 → (s.prog p).unloading = some j → s.cmd? j = some c → s.progFree c p = true →
    (s.prog p).pendLoad = none →
    completes (.progUnloadDrainEnd p) s fun t => t.progState p = 0 ∧ t.rd (Reg.GLB_PROG_STATUS_LEVEL p) = 0 ∧ t.prog p = {} ∧ ends t c 0 ∧
      others p s t) ∧
  ∀ (s : State) (p j k : Nat) (c : Cmd) (image : List Nat), p < 32 → (s.prog p).unloading = some j → s.cmd? j = some c →
    s.progFree c p = true → (s.prog p).pendLoad = some (k, image) →
    completes (.progUnloadDrainEnd p) s fun t => t.progState p = 1 ∧ waitsOn t (s.ackRing c) 0x11 j 0 ∧ others p s t ∧
      (t.prog p).unloading = none

/-- R116, R117, R127, R130, R134: the journal's enable, disable, drain and recovery. -/
def Obligations.JournalEnablesDrainsAndRecovers : Prop :=
  let good := fun (w : BitVec 32) => 10 ≤ bitsOf w.toNat 8 5 ∧ bitsOf w.toNat 8 5 ≤ 22 ∧ 8 ≤ bitsOf w.toNat 0 5 ∧ bitsOf w.toNat 0 5 ≤ 16
  (∀ (s : State) (w : BitVec 32), reaches s Reg.HIF_JRNL_CFG → s.rd Reg.HIF_JRNL_CFG_ENABLE = 0 → s.rd Reg.HIF_JRNL_CFG_DRAINING = 0 →
    good w → completes (.jrnlEnable w) s fun t => t.rd Reg.HIF_JRNL_CFG_ENABLE = 1 ∧ t.rd Reg.HIF_JRNL_CFG_RECOVER = 0 ∧
      t.rd Reg.HIF_JRNL_CFG_LOG2_EMIT = bitsOf w.toNat 8 5 ∧ t.rd Reg.HIF_JRNL_CFG_LOG2_ENTRIES = bitsOf w.toNat 0 5 ∧
      t.rd Reg.HIF_STATUS_JRNL_OK = 1 ∧ t.rd Reg.HIF_JRNL_CFG_MIRROR_VALID = 1 ∧ t.jrnl.entries = [] ∧ t.jrnl.log = [] ∧
      t.jrnl.nextIdx = 0 ∧ (∀ a, a ≠ Reg.HIF_JRNL_CFG → a ≠ Reg.HIF_STATUS → t.reg a = s.reg a) ∧
      t = { s with regs := t.regs, jrnl := t.jrnl }) ∧
  (∀ (s : State) (w : BitVec 32), reaches s Reg.HIF_JRNL_CFG → s.rd Reg.HIF_JRNL_CFG_ENABLE = 0 → s.rd Reg.HIF_JRNL_CFG_DRAINING = 0 →
    ¬good w → completes (.jrnlEnable w) s fun t => t.rd Reg.HIF_JRNL_CFG_ENABLE = 0 ∧ t.rd Reg.HIF_ERR_VALID = 1 ∧ t.jrnl = s.jrnl) ∧
  (∀ (s : State) (w : BitVec 32), reaches s Reg.HIF_JRNL_CFG → s.rd Reg.HIF_JRNL_CFG_DRAINING = 1 →
    bitsOf w.toNat 8 5 = s.rd Reg.HIF_JRNL_CFG_LOG2_EMIT → bitsOf w.toNat 0 5 = s.rd Reg.HIF_JRNL_CFG_LOG2_ENTRIES →
    completes (.jrnlEnable w) s fun t => t = { s with jrnl := { s.jrnl with latched := true } }) ∧
  (∀ (s : State) (w : BitVec 32) (h : Option (List (BitVec 1024) × List (BitVec 128))), reaches s Reg.HIF_JRNL_CFG →
    s.rd Reg.HIF_JRNL_CFG_ENABLE = 0 → s.rd Reg.HIF_JRNL_CFG_DRAINING = 0 → good w → s.rd Reg.HIF_JRNL_CFG_MIRROR_VALID = 1 →
    completes (.jrnlRecover w h) s fun t => t.rd Reg.HIF_JRNL_CFG_RECOVERING = 1 ∧ t.rd Reg.HIF_STATUS_JRNL_OK = 1 ∧
      t.jrnl.entries = s.jrnl.entries ∧ t.jrnl.cmds.length = (s.jrnl.entries.filter (fun e => e.2.live)).length ∧
      t = { s with regs := t.regs, hif := t.hif, jrnl := t.jrnl, streams := t.streams, out := t.out }) ∧
  (∀ (s : State) (w : BitVec 32), reaches s Reg.HIF_JRNL_CFG → (∀ c, c < 16 → s.cState c = 0) → s.rd Reg.HIF_JRNL_CFG_ENABLE = 1 →
    bitsOf w.toNat 8 5 = s.rd Reg.HIF_JRNL_CFG_LOG2_EMIT → bitsOf w.toNat 0 5 = s.rd Reg.HIF_JRNL_CFG_LOG2_ENTRIES →
    completes (.jrnlDisable w) s fun t => t.rd Reg.HIF_JRNL_CFG_ENABLE = 0 ∧ t.rd Reg.HIF_JRNL_CFG_DRAINING = 1 ∧
      t.rd Reg.HIF_STATUS_JRNL_OK = 0 ∧ onlyRegs [Reg.HIF_JRNL_CFG, Reg.HIF_STATUS] s t) ∧
  (∀ (s : State) (w : BitVec 32) (c : Nat), reaches s Reg.HIF_JRNL_CFG → c < 16 → s.cState c ≠ 0 →
    completes (.jrnlDisable w) s fun t => t.reg Reg.HIF_JRNL_CFG = s.reg Reg.HIF_JRNL_CFG ∧ t.rd Reg.HIF_ERR_VALID = 1 ∧ t.jrnl = s.jrnl) ∧
  (∀ s : State, s.rd Reg.HIF_JRNL_CFG_DRAINING = 1 → s.jrnl.entries.all (fun e => e.2.st != .accepted) = true →
    completes .jrnlDrainEnd s fun t => t.rd Reg.HIF_JRNL_CFG_DRAINING = 0 ∧ t.jrnl.latched = false ∧
      t.rd Reg.HIF_JRNL_CFG_ENABLE = (if s.jrnl.latched then 1 else s.rd Reg.HIF_JRNL_CFG_ENABLE) ∧ t.jrnl.entries = s.jrnl.entries ∧
      t = { s with regs := t.regs, jrnl := { s.jrnl with latched := false } }) ∧
  (∀ s : State, s.rd Reg.HIF_JRNL_CFG_RECOVERING = 1 → completes .recoveryEnd s fun t => t.rd Reg.HIF_JRNL_CFG_RECOVERING = 0 ∧
    t.jrnl = s.jrnl ∧ t = { s with regs := t.regs, hif := t.hif }) ∧
  ∀ s : State, s.jrnl.rebuilding = true → completes .mirrorRebuildDone s fun t => t.rd Reg.HIF_JRNL_CFG_MIRROR_VALID = 1 ∧
    t = { s with regs := t.regs, jrnl := { s.jrnl with rebuilding := false } } ∧ ∀ a, a ≠ Reg.HIF_JRNL_CFG → t.reg a = s.reg a

/-- The frame of every command over the parts of the state: what `mayChange` does not list stays (the table is the model's own). -/
def Obligations.EveryCommandChangesOnlyItsParts : Prop :=
  ∀ (i : Instr) (s t : State), exec i s = .next t → ∀ p : Part, p ∉ mayChange i → p.same s t

/-- R35, R38, R87 to R101: writing pennants, the consumer record of a full ring, and MSI-X messages. -/
def Obligations.PennantsMessagesAndRereads : Prop :=
  (∀ (s : State) (m consumed : Nat) (p : Pn), m < 64 → s.pState m = 1 → s.nextPn m = some p →
    p.key = .device ∨ (∃ c, p.key = .refusal c) → p.rerun = false → s.needXlate m (1 + p.exts.length) p = [] → (s.pring m).cons.isSome = true →
    1 + p.exts.length ≤ s.freeBlocks m → s.ringSeq m ≠ 0 → s.ringSeq m + 1 < 2 ^ 64 → s.produced m + 1 + p.exts.length < 2 ^ 64 →
    completes (.pennantWrite m consumed) s fun t => t.ringSeq m = s.ringSeq m + 1 ∧ t.produced m = s.produced m + 1 + p.exts.length ∧
      (t.pring m).ready = (s.pring m).ready.erase p ∧
      t.hif.svcQueue = (if p ∈ (s.pring m).ready then s.hif.svcQueue else s.hif.svcQueue.tail) ∧
      (∃ l, t.out = s.out ++ p.exts.zipIdx.map (fun (x, i) => Out.extBlock m ((s.produced m + 1 + i) % s.blocks m) (BitVec.ofNat 512 x)
            (s.tlp (s.blockAddr m ((s.produced m + 1 + i) % s.blocks m)))) ++
          [Out.header m (s.produced m % s.blocks m) (header (s.rd Reg.LNK_TOPO_MY_DEV) m (s.ringSeq m) p.flags p.body p)
            (s.tlp (s.blockAddr m (s.produced m % s.blocks m)))] ++ l ∧
        ∀ o ∈ l, ∃ v a d, o = Out.msix v a d) ∧
      (∀ a, a ≠ Reg.HIF_PRING_SEQ_LO m → a ≠ Reg.HIF_PRING_SEQ_HI m → a ≠ Reg.HIF_PRING_PROD_LO m → a ≠ Reg.HIF_PRING_PROD_HI m →
        (∀ v, a ≠ Reg.MSIX_PBA v) → t.reg a = s.reg a) ∧ t = { s with regs := t.regs, hif := t.hif, out := t.out }) ∧
  (∀ (s : State) (m consumed n : Nat), m < 64 → s.pState m = 1 → (s.pring m).stalled = some n → s.consBad m consumed = false →
    s.untranslated false (pagesOf (s.consAddr m) 8) = [] →
    completes (.consumerRecordReread m consumed) s fun t => (t.pring m).cons = some consumed ∧
      (t.pring m).stalled = (if n ≤ s.blocks m - (s.produced m - consumed) then none else some n) ∧
      (t.pring m).ready = (s.pring m).ready ∧ t.out = s.out ++ [Out.consRead m (s.tlp (s.consAddr m))] ∧
      t = { s with hif := t.hif, out := t.out }) ∧
  (∀ (s : State) (m consumed n : Nat), m < 64 → s.pState m = 1 → (s.pring m).stalled = some n → s.consBad m consumed = true →
    s.untranslated false (pagesOf (s.consAddr m) 8) = [] →
    completes (.consumerRecordReread m consumed) s fun t => t.pState m = 5 ∧ t.rd Reg.HIF_ERR_VALID = 1 ∧ t.produced m = s.produced m) ∧
  (∀ (s : State) (m v : Nat), m < 64 → v = s.rd (Reg.HIF_PRING_CFG_VECTOR m) → (s.pring m).timer = true → 0 < (s.pring m).unann →
    completes (.msixTimerExpiry m) s fun t => (t.pring m).unann = 0 ∧ (t.pring m).timer = false ∧
      (if (s.reg (Reg.MSIX_CTRL v)).toNat % 2 = 1 then
        bitsOf (t.reg (Reg.MSIX_PBA (v / 32))).toNat (v % 32) 1 = 1 ∧ t.out = s.out ∧ onlyRegs [Reg.MSIX_PBA (v / 32)] { s with hif := t.hif } t
      else t.out = s.out ++ [s.msixOut v] ∧ t = { s with hif := t.hif, out := t.out })) ∧
  ∀ (s : State) (v : Nat), v < 256 → reaches s (Reg.MSIX_CTRL v) →
    completes (.msixVectorUnmask v) s fun t => bitsOf (t.reg (Reg.MSIX_CTRL v)).toNat 0 1 = 0 ∧
      bitsOf (t.reg (Reg.MSIX_PBA (v / 32))).toNat (v % 32) 1 = 0 ∧
      t.out = s.out ++ (if bitsOf (s.reg (Reg.MSIX_PBA (v / 32))).toNat (v % 32) 1 = 1 then [s.msixOut v] else []) ∧
      onlyRegs [Reg.MSIX_CTRL v, Reg.MSIX_PBA (v / 32)] { s with out := t.out } t

/-- R35, R87, R88, R90, R93: a pennant of any kind takes the next RING_SEQ of its ring and the next blocks. -/
def Obligations.EveryPennantTakesTheNextRingSeqAndBlocks : Prop :=
∀ (s : State) (m consumed : Nat) (p : Pn), m < 64 → s.pState m = 1 → s.nextPn m = some p → s.matchRec p m = none →
    s.logStalls p = false → s.needXlate m (1 + p.exts.length) p = [] → (s.pring m).cons.isSome = true →
    1 + p.exts.length ≤ s.freeBlocks m → s.ringSeq m ≠ 0 → s.ringSeq m + 1 < 2 ^ 64 → s.produced m + 1 + p.exts.length < 2 ^ 64 →
    completes (.pennantWrite m consumed) s fun t => t.ringSeq m = s.ringSeq m + 1 ∧ t.produced m = s.produced m + 1 + p.exts.length ∧
      ∃ fl body, (∀ k, k ≠ 7 → k ≠ 9 → fl.testBit k = p.flags.testBit k) ∧
        Out.header m (s.produced m % s.blocks m) (header (s.rd Reg.LNK_TOPO_MY_DEV) m (s.ringSeq m) fl body p)
          (s.tlp (s.blockAddr m (s.produced m % s.blocks m))) ∈ t.out

/-- R50, R51, R63 to R65, R108, R109, R750: address translation, host reads that fail, and the PCIe link. -/
def Obligations.TranslationsFailedReadsAndTheLink : Prop :=
  (∀ (s : State) (tag page npages : Nat), s.hif.invals.length < 32 → completes (.atsInvalidateRequest tag page npages) s fun t =>
    (∀ e ∈ t.hif.atc, e ∈ s.hif.atc ∧ ¬(page ≤ e.page ∧ e.page < page + npages)) ∧
    (∀ e ∈ s.hif.atc, ¬(page ≤ e.page ∧ e.page < page + npages) → e ∈ t.hif.atc) ∧
    (∀ p ∈ s.hif.xlate, page ≤ p → p < page + npages → p ∈ t.hif.xlateVoid) ∧ t.hif.xlate = s.hif.xlate ∧ t = { s with hif := t.hif }) ∧
  (∀ (s : State) (tag : Nat) (i : Inval), s.hif.invals.find? (fun i => i.tag == tag) = some i →
    completes (.invalidateCompletion tag) s fun t =>
      if s.atsOn = true ∧ s.usesPages i.page i.npages = true then t = s
      else t.out = s.out ++ [.invalDone tag] ∧ t.reg Reg.HIF_ATS_INVAL = s.reg Reg.HIF_ATS_INVAL + 1 ∧
        (∀ x ∈ t.hif.invals, x.tag ≠ tag) ∧ onlyRegs [Reg.HIF_ATS_INVAL] { s with hif := t.hif, out := t.out } t) ∧
  (∀ (s : State) (acc : HostAccess) (addr p : Nat) (w : Bool), s.atsOn = true → s.hif.xlate.contains (addr / 4096) = true →
    s.hif.xlateVoid.contains (addr / 4096) = false → (accWrites acc = true → w = true) →
    completes (.atsTranslationCompletion acc addr (some p) w) s fun t => ({ page := addr / 4096, phys := p, write := w } : AtcEntry) ∈ t.hif.atc ∧
      (addr / 4096 ∉ t.hif.xlate) ∧
      (∀ q ∈ s.jrnl.cmds, ∀ r ∈ q.reads, r.2.2 = [addr / 4096] → ∃ d ∈ t.jrnl.cmds, d.jidx = q.jidx ∧ (r.1, r.2.1, []) ∈ d.reads) ∧
      t = { s with hif := t.hif, jrnl := t.jrnl, out := t.out }) ∧
  (∀ (s : State) (acc : HostAccess) (addr p : Nat), s.atsOn = true → s.hif.xlate.contains (addr / 4096) = true →
    s.hif.xlateVoid.contains (addr / 4096) = true →
    completes (.atsTranslationCompletion acc addr (some p) true) s fun t => t.hif.atc = s.hif.atc) ∧
  (∀ (s : State) (c addr : Nat) (w : Bool), c < 16 → s.atsOn = true → s.hif.xlate.contains (addr / 4096) = true →
    1 ≤ s.cState c → s.cState c ≤ 4 →
    completes (.atsTranslationCompletion (.slot c) addr none w) s fun t => t.cState c = 5 ∧ t.rd Reg.HIF_ERR_VALID = 1) ∧
  (∀ (s : State) (m addr p : Nat), m < 64 → s.atsOn = true → s.hif.xlate.contains (addr / 4096) = true → s.pringUsed m = true →
    completes (.atsTranslationCompletion (.pennant m) addr (some p) false) s fun t => t.pState m = 5 ∧ t.rd Reg.HIF_ERR_VALID = 1) ∧
  (∀ (s : State) (c addr : Nat), c < 16 → s.readsNow (.slot c) = true → 1 ≤ s.cState c → s.cState c ≤ 4 →
    completes (.hostReadFail (.slot c) addr) s fun t => t.cState c = 5 ∧ t.rd Reg.HIF_ERR_VALID = 1 ∧ t.expTag c = s.expTag c) ∧
  (∀ (s : State) (m addr : Nat), m < 64 → s.pringUsed m = true →
    completes (.hostReadFail (.consumer m) addr) s fun t => t.pState m = 5 ∧ t.rd Reg.HIF_ERR_VALID = 1 ∧ t.produced m = s.produced m) ∧
  (∀ (s : State) (acc : HostAccess) (addr : Nat), s.readsNow acc = true → completes (.poisonReread acc addr true) s fun t =>
    (∀ q ∈ t.hif.poison, ¬(q.1 = acc ∧ q.2.1 = addr)) ∧ t = { s with hif := t.hif }) ∧
  (∀ (s : State) (acc : HostAccess) (addr : Nat), s.readsNow acc = true →
    s.hif.poison.find? (fun q => q.1 == acc && q.2.1 == addr) = none → completes (.poisonReread acc addr false) s fun t =>
    (acc, addr, 1) ∈ t.hif.poison ∧ bitsOf (t.cfgReg 0x104).toNat 12 1 = 1 ∧ t = { s with hif := t.hif }) ∧
  (∀ (s : State) (c addr : Nat), c < 16 → s.readsNow (.slot c) = true → 1 ≤ s.cState c → s.cState c ≤ 4 →
    s.hif.poison.find? (fun q => q.1 == .slot c && q.2.1 == addr) = some (.slot c, addr, 2) →
    completes (.poisonReread (.slot c) addr false) s fun t => t.cState c = 5 ∧ t.rd Reg.HIF_ERR_VALID = 1) ∧
  (∀ (s : State) (lane : Nat), lane < 16 → lane ∉ s.hif.lanesBad → s.rd Reg.HIF_STATUS_LINK_UP = 1 →
    completes (.pcieLaneFailure lane) s fun t => lane ∈ t.hif.lanesBad ∧
      t.rd Reg.HIF_STATUS_LINK_WIDTH = min (s.rd Reg.HIF_STATUS_LINK_WIDTH) (pcieWidth (s.hif.lanesBad ++ [lane])) ∧
      (t.rd Reg.HIF_STATUS_LINK_UP = 0 ↔ min (s.rd Reg.HIF_STATUS_LINK_WIDTH) (pcieWidth (s.hif.lanesBad ++ [lane])) = 0) ∧
      onlyRegs [Reg.HIF_STATUS] { s with hif := t.hif } t) ∧
  ∀ (s : State) (speed width : Nat), s.pwr.pwrGood = true → s.pwr.perstN = true → 1 ≤ speed → speed ≤ 5 → width ∈ [16, 8, 4, 1] →
    width ≤ pcieWidth s.hif.lanesBad → completes (.pcieLinkUp speed width) s fun t => t.rd Reg.HIF_STATUS_LINK_UP = 1 ∧
      t.rd Reg.HIF_STATUS_LINK_SPEED = speed ∧ t.rd Reg.HIF_STATUS_LINK_WIDTH = width ∧ onlyRegs [Reg.HIF_STATUS] s t

/-- R21, R26, R142 to R158, R302: the commands of a stream. -/
def Obligations.StreamsOpenBindCloseAndTakeAccessUnits : Prop :=
  (∀ (s : State) (j e st : Nat) (c : Cmd) (k : BitVec 512), s.running j 0x20 = some c → st = slotStream c.slot → c.replay = false →
    (s.fetchedObj c).2 = true → s.strm st = 0 → s.earlierOf c [0x20, 0x22] = false → s.openStep1 k.toNat false = none →
    s.openStep2 k.toNat st = true → ¬(kSrc k.toNat = 1 ∧ kFps k.toNat = 0) → s.place k.toNat = some e → e < 8 →
    (s.commit (commitBufs k.toNat)).isSome = true →
    completes (.streamOpen j k) s fun t => t.strm st = 1 ∧ t.strmEngine st = e ∧ t.rd (Reg.DEC_STRM_STATE_CODEC st) = kCodec k.toNat % 2 ^ 4 ∧
      (t.stream st).contract = some k ∧ (t.stream st).openJidx = some j ∧ (t.stream st).bind = none ∧ (t.stream st).nextFrame = 0 ∧
      ends t c 0) ∧
  (∀ (s : State) (j st off v : Nat) (c : Cmd) (k : BitVec 512), s.running j 0x20 = some c → st = slotStream c.slot → c.replay = false →
    (s.fetchedObj c).2 = true → s.strm st = 0 → s.earlierOf c [0x20, 0x22] = false → s.openStep1 k.toNat false = some (off, v) →
    completes (.streamOpen j k) s fun t => t.strm st = 0 ∧ (t.stream st).contract = (s.stream st).contract ∧
      t.rd (Reg.DEC_STRM_ERR_VALID st) = 1 ∧ ends t c 0x0201) ∧
  (∀ (s : State) (j st : Nat) (c : Cmd) (k : BitVec 512), s.running j 0x20 = some c → st = slotStream c.slot → c.replay = false →
    (s.fetchedObj c).2 = true → s.strm st = 3 →
    completes (.streamOpen j k) s fun t => t.strm st = 4 ∧ (t.stream st).waitOpen = some (j, k) ∧
      onlyRegs [Reg.DEC_STRM_STATE st] { s with streams := t.streams, jrnl := t.jrnl, hif := t.hif, out := t.out } t) ∧
  (∀ (s s1 : State) (j st : Nat) (c : Cmd), s.running j 0x21 = some c → st = slotStream c.slot →
    s.earlierOf c [0x20, 0x21, 0x22, 0x30] = false → s.strm st ≠ 0 → c.replay = false → s.progUse c (paramProg c.slot) = .use →
    s.routeKind c.slot = some true → s.sgsBind st (paramProg c.slot) (paramRoute c.slot) (paramSvc c.slot) = (s1, none) →
    completes (.streamBind j) s fun t => ends t c 0 ∧
      (t.stream st).bind = some { prog := paramProg c.slot, route := paramRoute c.slot, svc := paramSvc c.slot }) ∧
  (∀ (s : State) (j : Nat) (c : Cmd), s.running j 0x21 = some c → s.earlierOf c [0x20, 0x21, 0x22, 0x30] = false →
    s.strm (slotStream c.slot) ≠ 0 → c.replay = false → s.progUse c (paramProg c.slot) = .gone →
    completes (.streamBind j) s fun t => ends t c 0x050A ∧ waitsOn t (s.ackRing c) 0x12 j 0x050A ∧ t.streams = s.streams) ∧
  (∀ (s : State) (j : Nat) (c : Cmd), s.running j 0x21 = some c → s.earlierOf c [0x20, 0x21, 0x22, 0x30] = false →
    s.strm (slotStream c.slot) = 0 →
    completes (.streamBind j) s fun t => ends t c (s.stream (slotStream c.slot)).failCode ∧ t.streams = s.streams) ∧
  (∀ (s : State) (j st : Nat) (c : Cmd), s.running j 0x22 = some c → st = slotStream c.slot → c.waiting = false →
    s.earlierOf c [0x20, 0x21, 0x22, 0x30] = false → s.strm st = 1 →
    completes (.streamClose j) s fun t => t.strm st = 3 ∧ (t.stream st).closing = some j ∧
      (∃ d, t.cmd? j = some d ∧ d.waiting = true ∧ d.ended = false)) ∧
  (∀ (s : State) (st : Nat) (c : Cmd), st < 128 → c.ring < 16 → (s.stream st).closing.bind s.cmd? = some c → s.streamDrained st = true →
    (s.stream st).waitOpen = none → completes (.streamCloseDrainEnd st) s fun t => t.strm st = 0 ∧ (t.stream st).contract = none ∧
      (t.stream st).bind = none ∧ t.reg (Reg.DEC_STRM_DIMS st) = 0 ∧ ends t c 0) ∧
  (∀ (s : State) (j st : Nat) (c : Cmd) (b : Binding), s.running j 0x30 = some c → st = slotStream c.slot → c.waiting = false →
    s.earlierOf c [0x20, 0x21, 0x30] = false → c.replay = false → c.fseq = none → (s.stream st).haltCode = 0 → s.strm st = 1 →
    s.lateCheck c st = none → (s.stream st).bind = some b →
    completes (.auSubmit j) s fun t => (t.stream st).nextFrame = ((s.stream st).nextFrame + 1) % 2 ^ 32 ∧
      (∃ f, (t.stream st).frames = (s.stream st).frames ++ [f] ∧ f.seq = (s.stream st).nextFrame ∧ f.au = some j ∧ f.ready = false ∧
        f.bytes = slotLength c.slot ∧ f.bind = b) ∧
      (∃ x, t.jobs = s.jobs ++ [x] ∧ x.kind = .frame st (s.stream st).nextFrame (some j)) ∧ t.regs = s.regs) ∧
  (∀ (s : State) (j : Nat) (c : Cmd), s.running j 0x30 = some c → c.waiting = false → s.earlierOf c [0x20, 0x21, 0x30] = false →
    c.replay = false → (s.stream (slotStream c.slot)).haltCode ≠ 0 →
    completes (.auSubmit j) s fun t => ends t c 0x0209 ∧ t.streams = s.streams) ∧
  (∀ (s : State) (j : Nat) (c : Cmd), s.running j 0x30 = some c → c.waiting = false → s.earlierOf c [0x20, 0x21, 0x30] = false →
    c.replay = false → (s.stream (slotStream c.slot)).haltCode = 0 → s.strm (slotStream c.slot) = 0 →
    completes (.auSubmit j) s fun t => ends t c (s.stream (slotStream c.slot)).failCode ∧ t.streams = s.streams) ∧
  ∀ (s s1 : State) (st seq : Nat) (f : Frame) (x : Job) (l : List Nat), (s.stream st).frames.find? (fun f => f.seq == seq) = some f →
    s.frameJob? st seq = some x → f.au.isSome = true → f.ready = false → (s.auFetched f).2 = true →
    (s.auFetched f).1.draw 4 (poolFit f.bytes).1 (poolFit f.bytes).2 f.bind.svc x.ticket false = (s1, some l) →
    completes (.auFetchDone st seq) s fun t => ∃ g, (t.stream st).frames.find? (fun f => f.seq == seq) = some g ∧ g.ready = true ∧
      g.bufs = some ((poolFit f.bytes).1, l) ∧ t.jobs = s.jobs

/-- R21, R278, R292, R302, R305, R309, R382, R383, R559, R575, R613: the jobs of commands and the start of jobs. -/
def Obligations.JobCommandsMakeStartAndGrantJobs : Prop :=
  (∀ (s : State) (j : Nat) (c : Cmd) (b : List Nat), s.running j 0x31 = some c → c.waiting = false → b.length = slotLength c.slot →
    (s.fetchedObj c).2 = true → s.progUse c (paramProg c.slot) = .use → s.routeKind c.slot = some false →
    ((s.prog (paramProg c.slot)).routeWords (paramRoute c.slot)).any (fun v => wOpc v == 0x4F) = false →
    blockBad b 64 (slotLength c.slot) (fun h => bitsOf h 0 488 == 0) = none →
    completes (.jobRun j b) s fun t => (∃ x ∈ t.jobs, x.kind = .cmd j ∧ x.prog = paramProg c.slot ∧ x.route = paramRoute c.slot ∧
        x.svc = paramSvc c.slot ∧ x.jobId = slotJob c.slot ∧ x.count = some (bitsOf (ofBytes (b.take 64)) 488 16) ∧
        x.started = false ∧ x.adapt = none) ∧ t.jobs.length = s.jobs.length + 1 ∧ (∃ d, t.cmd? j = some d ∧ d.waiting = true) ∧
      t.regs = s.regs) ∧
  (∀ (s : State) (j : Nat) (c : Cmd) (b : List Nat), s.running j 0x31 = some c → c.waiting = false → b.length = slotLength c.slot →
    (s.fetchedObj c).2 = true → s.progUse c (paramProg c.slot) = .gone →
    completes (.jobRun j b) s fun t => ends t c 0x050A ∧ waitsOn t (s.ackRing c) 0x12 j 0x050A ∧ t.jobs = s.jobs) ∧
  (∀ (s : State) (j d : Nat) (c : Cmd) (b : List Nat), s.running j 0x31 = some c → c.waiting = false → b.length = slotLength c.slot →
    (s.fetchedObj c).2 = true → s.progUse c (paramProg c.slot) = .use → s.routeKind c.slot = some false →
    ((s.prog (paramProg c.slot)).routeWords (paramRoute c.slot)).any (fun v => wOpc v == 0x4F) = false →
    blockBad b 64 (slotLength c.slot) (fun h => bitsOf h 0 488 == 0) = some d →
    completes (.jobRun j b) s fun t => ends t c 0x050C ∧ waitsOn t (s.ackRing c) 0x12 j 0x050C ∧ t.jobs = s.jobs) ∧
  (∀ (s : State) (j : Nat) (c : Cmd) (b : List Nat), s.running j 0x32 = some c → c.waiting = false → b.length = slotLength c.slot →
    (s.fetchedObj c).2 = true → s.progUse c (paramProg c.slot) = .use → s.routeKind c.slot = some false → paramSvc c.slot = 3 →
    blockBad b 128 (slotLength c.slot) (adaptOk s.reachable.length) = none →
    completes (.adaptRun j b) s fun t => (∃ x ∈ t.jobs, x.kind = .cmd j ∧ x.prog = paramProg c.slot ∧ x.route = paramRoute c.slot ∧
        x.svc = 3 ∧ x.count = some (bitsOf (ofBytes (b.take 128)) 1000 16) ∧ x.adapt = some (ofBytes (b.take 128)) ∧
        x.started = false) ∧ t.jobs.length = s.jobs.length + 1 ∧ (∃ d, t.cmd? j = some d ∧ d.waiting = true) ∧ t.regs = s.regs) ∧
  (∀ (s : State) (job st n : Nat) (au : Option Nat) (j : Job), s.job? job = some j → j.kind = .frame st n au → j.started = false →
    j.adapt = none → s.bindHolds st n = false → s.sched.saving = false → s.rd Reg.SCHED_STATUS_SAVED_ALL = 0 →
    s.hbm.badProgs.find? (fun q => q.1 == j.prog) = none →
    completes (.jobStart job) s fun t => ∃ x, t.job? job = some x ∧ x.started = true ∧ x.home = j.home ∧ x.nodes = j.nodes ∧
      x.kind = j.kind) ∧
  (∀ (s t1 : State) (job : Nat) (j : Job) (l : List (Nat × Nat × List Nat)), s.job? job = some j → j.started = true → j.plan = none →
    s.jobs.all (fun k => !(k.started && k.plan.isNone && olderTicket s.ticketNow k.ticket j.ticket)) = true →
    s.copiesLeft j = true → s.drawPlan j (s.planEntries j) = some (t1, l) →
    completes (.jobPlanGrant job) s fun t => (∃ x, t.job? job = some x ∧ x = { j with plan := some l, nodes := x.nodes }) ∧
      t = { t1 with jobs := t.jobs }) ∧
  ∀ (s : State) (job : Nat) (j : Job), s.job? job = some j → j.started = true → j.plan = none →
    s.jobs.all (fun k => !(k.started && k.plan.isNone && olderTicket s.ticketNow k.ticket j.ticket)) = true →
    s.copiesLeft j = false ∨ s.drawPlan j (s.planEntries j) = none → completes (.jobPlanGrant job) s fun t => t = s

/-- R237, R256, R270, R283 to R285, R293, R347, R387, R391, R424: the nodes that are no tile jobs. -/
def Obligations.RouteNodesRunAndCommit : Prop :=
  (∀ (s : State) (job node n : Nat) (data : List Nat) (j : Job) (w a g : Nat), s.nodeFor job node 0x10 = some (j, w) →
    openBeside s j node → gaFrom w ≠ 0 → j.operands[gaSeg w]? = some (a, g) →
    n = (if gaLength w = 0 then g - gaOffset w else gaLength w) → gaOffset w + n ≤ g →
    (∀ e, (s.prog j.prog).plan[wPlan w]? = some e → n ≤ planSize e) → ((s.prog j.prog).plan[wPlan w]?).isSome = true →
    (s.operandRead j w n).2 = true →
    completes (.gather job node data) s fun t => nodeDone t job node (.bytes ((padTo n 0 (data.map (· % 256))).take n))) ∧
  (∀ (s : State) (job node n : Nat) (data : List Nat) (j : Job) (w : Nat), s.nodeFor job node 0x10 = some (j, w) →
    openBeside s j node → gaFrom w = 0 → n = (if gaLength w = 0 then (s.segOf j (gaSeg w)).length - gaOffset w else gaLength w) →
    gaOffset w + n ≤ (s.segOf j (gaSeg w)).length →
    (∀ e, (s.prog j.prog).plan[wPlan w]? = some e → n ≤ planSize e) → ((s.prog j.prog).plan[wPlan w]?).isSome = true →
    completes (.gather job node data) s fun t => nodeDone t job node (.bytes (((s.segOf j (gaSeg w)).drop (gaOffset w)).take n))) ∧
  (∀ (s : State) (job node : Nat) (data : List Nat) (j : Job) (w a g : Nat), s.nodeFor job node 0x10 = some (j, w) →
    gaFrom w ≠ 0 → j.operands[gaSeg w]? = some (a, g) → gaLength w ≠ 0 → g < gaOffset w + gaLength w →
    completes (.gather job node data) s fun t => t.job? job = none) ∧
  (∀ (s : State) (job node : Nat) (j : Job) (w : Nat) (p : Pic), s.nodeFor job node 0x20 = some (j, w) → openBeside s j node →
    s.dec.pics.find? (fun p => p.stream == j.stream && p.frame.seq == j.frameSeq) = some p →
    completes (.decode job node) s fun t => nodeDone t job node (.map (cdiv p.w 16) (cdiv p.h 16) p.cells p.noPrev)) ∧
  (∀ (s : State) (job node : Nat) (j : Job) (w d : Nat) (p : Pic) (x : Sample), s.nodeFor job node 0x21 = some (j, w) →
    d = s.descOf j.prog (shpDesc w) → s.sched.saving = false → s.picOfFrame j.stream j.frameSeq = some p → p.done = true →
    p.unusable = false → s.samplesOf (j.nodeKey node) j.stream j.frameSeq = [x] → x.rcd.objIndex = 0xFFFF → x.standIn = false →
    x.px = [] → x.data = [] → layOut d ((shapeRows d p.pix (shapeWindow d p.w p.h) 0 (shTH d)).map (fun q => q.map (·.1))) ≠ [] →
    completes (.shape job node) s fun t =>
      (∃ y, t.samplesOf (j.nodeKey node) j.stream j.frameSeq = [y] ∧ y.rcd = x.rcd ∧
        y.data = layOut d ((shapeRows d p.pix (shapeWindow d p.w p.h) 0 (shTH d)).map (fun q => q.map (·.1)))) ∧
      ∃ k, t.job? job = some k ∧ (k.node node).ran = true ∧ (k.node node).committed = (j.node node).committed) ∧
  (∀ (s : State) (job node : Nat) (j : Job) (w : Nat) (l : List (Nat × Box)) (p : Pic),
    s.nodeFor job node 0x22 = some (j, w) → j.boxes w = some l → s.donePic j.stream j.frameSeq = some p → (j.node node).queued = true →
    s.sched.saving = false → completes (.cropResize job node) s fun t => (∃ k, t.job? job = some k ∧ (k.node node).ran = true) ∧
      t = { s.fillCrops j node w p l with jobs := t.jobs }) ∧
  (∀ (s : State) (job node : Nat) (j : Job) (w : Nat), s.nodeFor job node 0x68 = some (j, w) → openBeside s j node →
    (j.node (emSrc w)).committed = true → completes (.emit job node) s fun t => nodeDone t job node .none ∧
      ∀ p ∈ s.emitPns j node w, p ∈ (t.pring (emRing w)).ready) ∧
  (∀ (s : State) (job node : Nat) (j : Job) (w : Nat), s.nodeFor job node 0x44 = some (j, w) →
    completes (.tblLoad job node) s fun t => (job, node) ∈ t.tbl.loads ∧ t.tbl.gen = s.tbl.gen ∧
      (∃ k, t.job? job = some k ∧ (k.node node).ran = true ∧ (k.node node).committed = (j.node node).committed) ∧
      t = { s with regs := t.regs, tbl := t.tbl, jobs := t.jobs }) ∧
  (∀ (s : State) (job node w : Nat) (rest : List (Nat × Nat)) (j : Job), s.tbl.loads = (job, node) :: rest → s.job? job = some j →
    s.jobWord j node = some w → s.oldBound = false → s.tblEarlier job node = false → openBeside s j node →
    completes .tblSwitch s fun t => t.tbl.gen = s.tbl.gen + 1 ∧ t.tbl.loads = rest ∧ nodeDone t job node .none ∧
      (if (s.tbl.gen + 1) % 2 = 0
        then t.tbl.bank0 = imageSlots (s.segOf j (gaSeg w)) (s.bankOf s.tbl.gen) ∧ t.tbl.bank1 = s.tbl.bank1
        else t.tbl.bank1 = imageSlots (s.segOf j (gaSeg w)) (s.bankOf s.tbl.gen) ∧ t.tbl.bank0 = s.tbl.bank0)) ∧
  ∀ (s : State) (job node : Nat) (j : Job) (w h : Nat), s.nodeFor job node 0x4F = some (j, w) → j.adapt = some h → openBeside s j node →
    (wordSrcs w).all (fun q => (j.node q.2).committed) = true →
    completes (.optStep job node) s fun t => nodeDone t job node .none ∧
      (∃ k, t.job? job = some k ∧ (k.shadow.map (·.1)).head? = some (opSeg w) ∧
        (k.shadow.tail = j.shadow.filter (fun q => q.1 != opSeg w))) ∧
      (t.prog j.prog).segs = (s.prog j.prog).segs ∧ ((t.prog j.prog).opt.map (·.1)).head? = some (opPlan w)

/-- R278, R288 to R291, R337, R338, R346: a core node's instruction runs over its grid, or faults. -/
def Obligations.CoreNodesRunOverTheirGrid : Prop :=
  let plan := fun (s : State) (j : Job) (w : Nat) => ((s.prog j.prog).plan[wPlan w]?.map planSize).getD 0
  let runs := fun (i : Nat → Nat → Instr) (opc : Nat) =>
    (∀ (s : State) (job node : Nat) (j : Job) (w d : Nat) (q : Srcs) (k : Nat × List SampleRec × List Nat) (g : Grid),
      s.nodeFor job node opc = some (j, w) → (coreSrcs w).all (fun r => s.srcReady j r.2 (r.1 == 64)) = true →
      s.tblReady j node opc = true → d = s.descOf j.prog (wDesc w) → q = j.srcs w → k = j.sampling w d q →
      g = gridOf w d (rowsM d k.1) k.1 → roiOver w d (j.node (wA w)).count q = none →
      nodeFault w d (rowsM d k.1) k.1 (plan s j w) q = none → s.gateOf j node = none →
      (∀ m, inputAbsent w d g (j.sampleOf w d) q m = false) → 0 < g.count → (j.node node).passed = [] → (j.node node).committed = false →
      completes (i job node) s fun t => ∃ l, t.job? job = some l ∧ (l.node node).ran = true ∧ (l.node node).committed = false ∧
        (l.node node).grid = some g ∧ (l.node node).count = k.1 ∧ (l.node node).recs = k.2.1 ∧ (l.node node).gated = [] ∧
        (l.node node).out = (s.calcNode (j.setNode node { j.node node with ran := true, queued := true, count := k.1, recs := k.2.1
                                                                           own := k.2.2, grid := some g, gated := []
                                                                           unready := List.range g.count }) node w).out) ∧
    (∀ (s : State) (job node : Nat) (j : Job) (w d : Nat) (q : Srcs) (k : Nat × List SampleRec × List Nat) (f : Nat × Nat × Nat),
      s.nodeFor job node opc = some (j, w) → (coreSrcs w).all (fun r => s.srcReady j r.2 (r.1 == 64)) = true →
      s.tblReady j node opc = true → d = s.descOf j.prog (wDesc w) → q = j.srcs w → k = j.sampling w d q →
      roiOver w d (j.node (wA w)).count q = none → nodeFault w d (rowsM d k.1) k.1 (plan s j w) q = some f →
      completes (i job node) s fun t => t.job? job = none) ∧
    (∀ (s : State) (job node : Nat) (j : Job) (w d : Nat) (q : Srcs) (f : Nat),
      s.nodeFor job node opc = some (j, w) → (coreSrcs w).all (fun r => s.srcReady j r.2 (r.1 == 64)) = true →
      s.tblReady j node opc = true → d = s.descOf j.prog (wDesc w) → q = j.srcs w → roiOver w d (j.node (wA w)).count q = some f →
      completes (i job node) s fun t => t.job? job = none)
  runs .matmul 0x30 ∧ runs .conv 0x34 ∧ runs .convDw 0x35 ∧ runs .convFft 0x36 ∧ runs .pool 0x37 ∧ runs .argmaxC 0x38 ∧
    runs .roiAlign 0x39 ∧ runs .vec 0x40 ∧ runs .rowstat 0x41 ∧ runs .softmax 0x42 ∧ runs .norm 0x43 ∧ runs .chain 0x48

/-- R327, R346, R423, R536 to R539: placement, issue, staging and commit of tile jobs. -/
def Obligations.TilesArePlacedIssuedStagedAndCommitted : Prop :=
  (∀ (s : State) (svc c : Nat) (tj : TileJob), s.classNext = some svc → s.sched.saving = false → s.nextOf svc = some (tj, c) →
    completes (.tileJobPlacement svc) s fun t => (t.core c).placed = (s.core c).placed ++ [tj] ∧ (t.core c).runs = (s.core c).runs ∧
      t.sched = { s.sched with ready := s.sched.ready.erase tj } ∧ t.jobs = s.jobs) ∧
  (∀ (s : State) (core b ch : Nat) (split : Bool) (tj : TileJob) (j : Job), s.coreState core < 2 → tj ∈ (s.core core).placed →
    s.issueNeeds core tj = some (b, split, ch) → s.job? tj.job = some j →
    (∀ u ∈ (s.core core).placed, (s.issueNeeds core u).isSome = true → u ≠ tj →
      olderTicket s.ticketNow tj.ticket u.ticket = true ∧ olderTicket s.ticketNow u.ticket tj.ticket = false) →
    completes (.tileIssue core) s fun t => (∃ r, (t.core core).runs = (s.core core).runs ++ [r] ∧ r.tj = tj ∧ r.blocks = b ∧
        r.chunks = ch ∧ r.drained = []) ∧ (t.core core).placed = (s.core core).placed.erase tj ∧ (t.core core).cls = some tj.svc ∧
      t.sched = s.sched ∧ ∃ k, t.job? tj.job = some k ∧ (k.node tj.node).gen = some ((j.node tj.node).gen.getD s.tbl.gen)) ∧
  (∀ (s : State) (core chunk : Nat) (r : RunTile) (l1 l2 : List RunTile), (s.core core).runs = l1 ++ r :: l2 →
    chunk < r.chunks → chunk ∉ r.staged → (∀ q ∈ l1, q.chunks ≤ chunk ∨ chunk ∈ q.staged) →
    completes (.chunkStaged core chunk) s fun t =>
      (t.core core) = { s.core core with runs := l1 ++ { r with staged := r.staged ++ [chunk] } :: l2 } ∧
      t = { s with cores := t.cores } ∧ ∀ c, c ≠ core → t.core c = s.core c) ∧
  ∀ (s : State) (core : Nat) (r : RunTile) (j : Job) (w v : Nat) (g : Grid), (s.core core).runs.find? s.tileDone = some r →
    s.job? r.tj.job = some j → s.coreWord j r.tj.node = some w → s.jobWord j r.tj.node = some v → wOpc v ≠ 0x55 →
    (j.node r.tj.node).grid = some g → (j.node r.tj.node).committed = false → openBeside s j r.tj.node →
    completes (.tileCommit core) s fun t => (t.core core).runs = (s.core core).runs.erase r ∧ ∃ k, t.job? r.tj.job = some k ∧
      (k.node r.tj.node).passed = (j.node r.tj.node).passed ++ [(r.tj.pass, r.tj.tile)] ∧
      (k.node r.tj.node).grid = some g ∧ (k.node r.tj.node).committed = (k.node r.tj.node).finished g

/-- R328, R342 to R345, R401, R425, R411, R449, R450, R458, R477: rows, check runs, folds, later passes, spectra and steps. -/
def Obligations.RowsDrainAndNodesFoldAndStep : Prop :=
  (∀ (s u : State) (core row lane : Nat) (flip : BitVec 32) (r : RunTile),
    (s.core core).runs.find? (fun r => s.drains r row) = some r →
    u = { s with tbl := { s.tbl with suspect := s.tbl.suspect.erase core } } →
    u.rowCheck core r row lane flip.toNat = .pass ∨ u.rowCheck core r row lane flip.toNat = .excluded →
    completes (.drainRow core row lane flip false) s fun t =>
      { r.upset row lane flip.toNat with drained := r.drained ++ [row] } ∈ (t.core core).runs ∧
      (t.core core).runs.length = (s.core core).runs.length ∧
      (u.rowCheck core r row lane flip.toNat = .pass → t = { u with cores := t.cores }) ∧
      (u.rowCheck core r row lane flip.toNat = .excluded → t.rd (Reg.CORE_LRW_STICKY_CK_EXCLUDED core) = 1 ∧
        t = { u with cores := t.cores, regs := t.regs, counters := t.counters })) ∧
  (∀ (s u : State) (core row lane : Nat) (flip : BitVec 32) (r : RunTile) (found : Option Nat),
    (s.core core).runs.find? (fun r => s.drains r row) = some r →
    u = { s with tbl := { s.tbl with suspect := s.tbl.suspect.erase core } } →
    u.rowCheck core r row lane flip.toNat = .fail found →
    completes (.drainRow core row lane flip false) s fun t =>
      (t.core core).checks = (s.core core).checks ++ [(r.tj, r.inject)] ∧ t.jobs = s.jobs) ∧
  (∀ (s : State) (core row lane : Nat) (flip : BitVec 32) (r : RunTile), core < 64 →
    (s.core core).runs.find? (fun r => s.drains r row) = some r →
    completes (.drainRow core row lane flip true) s fun t =>
      if core ∈ s.tbl.suspect then t.coreState core = 5 ∧ (t.core core).runs = [] ∧ (t.core core).placed = []
      else t.tbl = { s.tbl with suspect := s.tbl.suspect ++ [core] } ∧ t.jobs = s.jobs) ∧
  (∀ (s : State) (core : Nat) (q : TileJob × Bool) (l : List (TileJob × Bool)), (s.core core).checks = q :: l →
    completes (.checkRunDone core true) s fun t => t.core core = { s.core core with checks := l } ∧
      t.rd (Reg.CORE_LRW_STICKY_CK_RETRY core) = 1 ∧ t.coreState core = s.coreState core ∧
      t = { s with regs := t.regs, cores := t.cores }) ∧
  (∀ (s : State) (core : Nat) (q : TileJob) (l : List (TileJob × Bool)), (s.core core).checks = (q, true) :: l →
    completes (.checkRunDone core false) s fun t => t.core core = { s.core core with checks := l } ∧
      t.coreState core = s.coreState core) ∧
  (∀ (s : State) (core : Nat) (q : TileJob) (l : List (TileJob × Bool)), core < 64 → (s.core core).checks = (q, false) :: l →
    completes (.checkRunDone core false) s fun t => t.coreState core = 5 ∧ (t.core core).runs = [] ∧ (t.core core).placed = [] ∧
      (t.core core).holds = [] ∧ (t.core core).checks = []) ∧
  (∀ (s : State) (job node : Nat) (j : Job) (g : Grid) (w : Nat), s.job? job = some j → (j.node node).grid = some g →
    s.jobWord j node = some w → wOpc w ≠ 0x55 → g.fold = true → (j.node node).committed = false → openBeside s j node →
    completes (.foldJob job node) s fun t => ∃ k, t.job? job = some k ∧
      (k.node node).folded = (j.node node).folded ++
        (j.node node).foldable g (wOpc w == 0x41 && mvLayout (s.descOf j.prog (wDesc w)) == 1) ∧
      (k.node node).committed = (k.node node).finished g) ∧
  (∀ (s : State) (job node : Nat) (j : Job) (g : Grid) (w : Nat), s.job? job = some j → (j.node node).grid = some g →
    s.coreWord j node = some w → completes (.secondPassIssue job node) s fun t =>
      (∀ p i k, (p, i) ∈ (j.node node).folded → p + 1 < g.passes → (p + 1, i) ∉ (j.node node).issued → k < g.nb →
        g.tile i k ∉ (j.node node).gated → ∃ tj ∈ t.sched.ready, tj.job = job ∧ tj.node = node ∧ tj.pass = p + 1 ∧
          tj.tile = g.tile i k ∧ tj.marver = true) ∧ (∀ tj ∈ s.sched.ready, tj ∈ t.sched.ready) ∧
      ∃ l, t.job? job = some l ∧ (∀ p i, (p, i) ∈ (j.node node).folded → p + 1 < g.passes → (p + 1, i) ∈ (l.node node).issued)) ∧
  (∀ (s : State) (job node channel : Nat) (j : Job) (g : Grid) (w : Nat), s.job? job = some j → (j.node node).grid = some g →
    s.jobWord j node = some w → wOpc w ≠ 0x55 → channel < g.spectra → channel ∉ (j.node node).spectra →
    (j.node node).committed = false → openBeside s j node → completes (.spectrumJob job node channel) s fun t =>
      ∃ k, t.job? job = some k ∧ (k.node node).spectra = (j.node node).spectra ++ [channel] ∧
        (k.node node).committed = (k.node node).finished g) ∧
  ∀ (s : State) (job node blk c done : Nat) (j : Job) (g : Grid) (w : Nat) (mine : RunTile → Bool),
    mine = (fun r => r.tj.job == job && r.tj.node == node && r.tj.group == blk) → s.job? job = some j →
    (j.node node).grid = some g → s.jobWord j node = some w → wOpc w = 0x48 →
    (List.range 64).find? (fun c => (s.core c).runs.any mine) = some c →
    (((j.node node).steps.find? (fun q => q.1 == blk)).map (·.2)).getD 0 = done → done < g.steps →
    (s.core c).runs.any (fun r => mine r && (r.chunks == 0 || r.staged.contains done) && (List.range r.tj.rows).all (fun k => r.drained.contains k)) = true →
    completes (.chainStepCommit job node blk) s fun t =>
      (∃ k, t.job? job = some k ∧ (k.node node).steps.find? (fun q => q.1 == blk) = some (blk, done + 1)) ∧
      (done + 1 < g.steps → ∀ r ∈ (t.core c).runs, mine r = true → r.drained = []) ∧ t.sched = s.sched

/-- R345, R348, R351, R435: the control registers of a core. -/
def Obligations.CoreControlsTakeEffect : Prop :=
  (∀ (s : State) (c : Nat), c < 64 → reaches s (Reg.CORE_LRW_CTRL c) → completes (.ckInject c) s fun t =>
    t.rd (Reg.CORE_LRW_CTRL_CK_INJECT c) = 1 ∧ onlyRegs [Reg.CORE_LRW_CTRL c] s t) ∧
  (∀ (s : State) (c : Nat), c < 64 → reaches s (Reg.CORE_LRW_CTRL c) → s.coreState c < 2 → s.needsSave c = false →
    (s.core c).runs = [] → (s.core c).saving = none → completes (.coreOffline c) s fun t => t.coreState c = 4 ∧
      t.rd (Reg.CORE_LRW_CTRL_OFFLINE c) = 1 ∧ (t.core c).placed = [] ∧ (t.core c).runs = [] ∧ t.jobs = s.jobs) ∧
  (∀ (s : State) (c : Nat), c < 64 → reaches s (Reg.CORE_LRW_CTRL c) → s.coreState c < 2 → s.needsSave c = false →
    (s.core c).runs ≠ [] → (∀ r ∈ (s.core c).runs, s.runsOn c r = true) → completes (.coreOffline c) s fun t =>
      t.coreState c = 2 ∧ t.rd (Reg.CORE_LRW_CTRL_OFFLINE c) = 1 ∧ (t.core c).placed = [] ∧
      (t.core c).runs = (s.core c).runs ∧ (t.core c).lehr = 1) ∧
  (∀ (s : State) (c : Nat), c < 64 → reaches s (Reg.CORE_LRW_CTRL c) → s.coreState c = 4 → completes (.coreOnline c) s fun t =>
    t.coreState c = (if (s.core c).runs.isEmpty then 0 else 1) ∧ t.rd (Reg.CORE_LRW_CTRL_OFFLINE c) = 0 ∧ t = { s with regs := t.regs }) ∧
  (∀ (s : State) (c : Nat), c < 64 → reaches s (Reg.CORE_LRW_CTRL c) → s.coreState c = 2 →
    s.rd (Reg.CORE_LRW_CTRL_OFFLINE c) = 1 → (s.core c).lehr = 1 → completes (.coreOnline c) s fun t =>
      t.coreState c = 3 ∧ t.rd (Reg.CORE_LRW_CTRL_OFFLINE c) = 0 ∧ onlyRegs [Reg.CORE_LRW_CTRL c, Reg.CORE_LRW_STATUS c] s t) ∧
  ∀ (s : State) (c slot seg : Nat), c < 64 → reaches s (Reg.CORE_MRV_PROBE_CFG c) → slot = s.rd (Reg.CORE_MRV_PROBE_CFG_SLOT c) →
    seg = s.rd (Reg.CORE_MRV_PROBE_CFG_SEG c) → slot < 12 → completes (.mrvProbe c) s fun t =>
      let bank := s.bankOf (s.tbl.gen + s.rd (Reg.CORE_MRV_PROBE_CFG_SHADOW c))
      t.reg (Reg.CORE_MRV_PROBE_Y c) = BitVec.ofNat 32 (evalSlot bank slot (s.reg (Reg.CORE_MRV_PROBE_X c)).toNat) ∧
      t.reg (Reg.CORE_MRV_PROBE_C0 c) = BitVec.ofNat 32 (slotCoef bank slot seg).1 ∧
      t.reg (Reg.CORE_MRV_PROBE_C1 c) = BitVec.ofNat 32 (slotCoef bank slot seg).2.1 ∧
      t.reg (Reg.CORE_MRV_PROBE_C2 c) = BitVec.ofNat 32 (slotCoef bank slot seg).2.2 ∧
      t.rd (Reg.CORE_MRV_PROBE_CFG_DONE c) = 1 ∧ t.rd (Reg.CORE_MRV_PROBE_CFG_GO c) = 0 ∧ t = { s with regs := t.regs }

/-- R349, R550 to R554, R556: pre-emption, its retry, the end of a save and the restore. -/
def Obligations.CoresAreTakenSavedAndGivenBack : Prop :=
  let taken := fun (t : State) (c : Nat) (tj : TileJob) => t.coreState c = 2 ∧ (t.core c).lehr = 2 ∧ (t.core c).wants = some tj ∧
    (t.core c).placed = [] ∧ (t.core c).saving.isSome = true
  (∀ (s s1 : State) (svc c : Nat) (tj : TileJob) (k : SavedCtx), svc ∉ s.sched.retry → s.sched.saving = false →
    s.stuckTile svc = some tj → s.victim svc = some c → s.drawCtx c = (s1, some (some k)) →
    completes (.preemptionDecision svc) s fun t => taken t c tj) ∧
  (∀ (s : State) (svc c : Nat) (tj : TileJob), svc ∉ s.sched.retry → s.sched.saving = false →
    s.stuckTile svc = some tj → s.victim svc = some c → s.needsSave c = false → (∃ r ∈ (s.core c).runs, s.runsOn c r = true) →
    completes (.preemptionDecision svc) s fun t => t.coreState c = 2 ∧ (t.core c).lehr = 2 ∧ (t.core c).wants = some tj ∧
      (t.core c).placed = [] ∧ (t.core c).saving = none) ∧
  (∀ (s : State) (svc : Nat), svc ∈ s.sched.retry ∨ s.stuckTile svc = none ∨ s.victim svc = none →
    completes (.preemptionDecision svc) s fun t => t = s) ∧
  (∀ (s s1 : State) (svc c : Nat) (tj : TileJob), svc ∉ s.sched.retry → s.sched.saving = false →
    s.stuckTile svc = some tj → s.victim svc = some c → s.drawCtx c = (s1, none) →
    completes (.preemptionDecision svc) s fun t => t.sched = { s1.sched with retry := svc :: s1.sched.retry } ∧ t.cores = s1.cores) ∧
  (∀ (s u : State) (svc : Nat), svc ∈ s.sched.retry →
    u = { s with sched := { s.sched with retry := s.sched.retry.filter (fun c => c != svc) } } →
    completes (.saveAreaRetry svc) s fun t =>
      (u.stuckTile svc = none → t = u) ∧
      (∀ tj c s1 k, s.sched.saving = false → u.stuckTile svc = some tj → u.victim svc = some c →
        u.drawCtx c = (s1, some (some k)) → taken t c tj)) ∧
  (∀ (s : State) (c cycles : Nat) (k : SavedCtx), (s.core c).saving = some k → (s.core c).runs = [] → (s.core c).holds ≠ [] →
    completes (.contextSaveDone c cycles) s fun t => (t.core c).saving = none ∧
      ∃ k2 ∈ t.sched.saved, k2.area = k.area ∧ k2.job = k.job ∧ k2.svc = k.svc ∧ k2.holds = (s.core c).holds ∧
        k2.tags = (s.core c).tags) ∧
  (∀ (s : State) (c svc block row lane : Nat) (flip : BitVec 32) (k : SavedCtx), s.sched.saving = false → s.classNext = some svc →
    s.nextCtx svc = some k → s.ctxFits k c = true → k.sumsHold block row lane flip.toNat = true →
    completes (.contextRestore c block row lane flip false) s fun t => (t.core c).holds = (s.core c).holds ++ k.holds ∧
      (t.core c).placed = (s.core c).placed ++ k.unfinished ∧ (t.core c).runs = (s.core c).runs ∧
      (t.core c).cls = some k.svc ∧ t.sched.saved = s.sched.saved.erase k) ∧
  ∀ (s : State) (c svc block row lane : Nat) (flip : BitVec 32) (bad : Bool) (k : SavedCtx), c < 64 → s.sched.saving = false →
    s.classNext = some svc → s.nextCtx svc = some k → s.ctxFits k c = true →
    (bad = true ∨ k.sumsHold block row lane flip.toNat = false) →
    completes (.contextRestore c block row lane flip bad) s fun t =>
      (if k.sumsHold block row lane flip.toNat = false then t.rd (Reg.CORE_LRW_ERR_VALID c) = 1 else t.rd Reg.SCHED_ERR_VALID = 1)

/-- R543, R546, R547, R561, R563: guards, class enables, starvation and the fabric's grants. -/
def Obligations.ClassesAndArbitersFollowTheirControls : Prop :=
  let ok := fun (l : List Guards) => l.all (fun g => decide (1 ≤ g.share) && decide (g.share ≤ 16)) = true ∧
    sumNat (l.map (·.share)) = 16 ∧ disjoint4 (l.map (·.ways)) = true ∧ disjoint4 (l.map (·.pch)) = true
  (∀ s : State, reaches s Reg.SCHED_CLS_COMMIT → ok s.staged → completes .schedClsCommit s fun t =>
    t.sched = { s.sched with guards := some s.staged } ∧ t.rd Reg.SCHED_CLS_COMMIT_FAILED = 0) ∧
  (∀ s : State, reaches s Reg.SCHED_CLS_COMMIT → ¬ok s.staged → completes .schedClsCommit s fun t =>
    t.sched = s.sched ∧ t.rd Reg.SCHED_CLS_COMMIT_FAILED = 1 ∧ t.rd Reg.SCHED_ERR_VALID = 1) ∧
  (∀ (s : State) (svc st : Nat) (w : BitVec 32), svc < 4 → reaches s (Reg.SCHED_CLS_CFG svc) →
    st = s.rd (Reg.SCHED_CLS_CFG_STATE svc) → (bitsOf w.toNat 31 1 = 0 → st = 1 →
      ∀ c, c < 64 → s.issues svc c = false ∧ ∀ tj ∈ (s.core c).placed, tj.svc ≠ svc) →
    completes (.classEnable svc w) s fun t =>
      t.rd (Reg.SCHED_CLS_CFG_STATE svc) = (if bitsOf w.toNat 31 1 = 1 then (if st = 0 then 1 else if st = 2 then 3 else st)
        else if st = 1 ∨ st = 3 then 2 else st) ∧
      t.rd (Reg.SCHED_CLS_CFG_SHARE svc) = bitsOf w.toNat 0 5 ∧ t.rd (Reg.SCHED_CLS_CFG_ENABLE svc) = bitsOf w.toNat 31 1 ∧
      t = { s with regs := t.regs }) ∧
  (∀ (s : State) (svc : Nat), svc < 4 → (s.rd (Reg.SCHED_CLS_CFG_STATE svc) = 2 ∨ s.rd (Reg.SCHED_CLS_CFG_STATE svc) = 3) →
    (∀ c, c < 64 → s.issues svc c = false ∧ ¬((s.core c).cls = some svc ∧ (s.core c).lehr = 3 ∧ (s.coreState c = 2 ∨ s.coreState c = 3))) →
    completes (.classLehrEnd svc) s fun t =>
      t.rd (Reg.SCHED_CLS_CFG_STATE svc) = (if s.rd (Reg.SCHED_CLS_CFG_STATE svc) = 2 then 0 else 1) ∧
      onlyRegs [Reg.SCHED_CLS_CFG svc] s t) ∧
  (∀ (s : State) (svc : Nat) (tj : TileJob), s.rd Reg.SCHED_STARVE_STARVE_MS ≠ 0 → tj ∈ s.sched.ready → tj.svc = svc →
    tj.starved = false → s.rd Reg.SCHED_STARVE_STARVE_MS * 10 ^ 6 < s.time.mono - tj.since → completes (.starveCheck svc) s fun t =>
      t.rd Reg.SCHED_ERR_VALID = 1 ∧ (s.rd Reg.SCHED_ERR_VALID = 0 → t.rd Reg.SCHED_ERR_CODE = 0x0604) ∧
      (∀ u ∈ t.sched.ready, u.svc = svc → s.rd Reg.SCHED_STARVE_STARVE_MS * 10 ^ 6 < s.time.mono - u.since → u.starved = true) ∧
      t.sched.ready.length = s.sched.ready.length) ∧
  (∀ (s : State) (svc : Nat), svc < 4 → reaches s (Reg.SCHED_CLS_MAXWAIT svc) → completes (.maxwaitClear svc) s fun t =>
    t.rd (Reg.SCHED_CLS_MAXWAIT_US svc) = 0 ∧ onlyRegs [Reg.SCHED_CLS_MAXWAIT svc] s t) ∧
  (∀ (s : State) (heads : List FabHead), heads ≠ [] → completes (.fabricRequestGrant heads) s fun t =>
    (∃ h ∈ heads, t.out = s.out ++ [Out.grant h.leaf h.port h.ticket]) ∧ t.regs = s.regs ∧ t.jobs = s.jobs) ∧
  ∀ (s : State) (a b : FabHead), a.leaf = b.leaf → olderTicket s.ticketNow a.ticket b.ticket = true → s.sched.arb.heads = [] →
    completes (.fabricRequestGrant [a, b]) s fun t => t.out = s.out ++ [Out.grant a.leaf a.port a.ticket]

/-- R568 to R573, R577 to R583: the pools. -/
def Obligations.PoolsGrantFreeAndFollowTheirControls : Prop :=
  (∀ (s : State) (o c n svc ticket : Nat), s.mayDraw o c n ticket (!failingOwner o) = true →
    completes (.poolDraw o c n svc ticket) s fun t =>
      t = ((if failingOwner o = true then s else s.tieWon o c ticket).drawNow o c n svc).1) ∧
  (∀ (s : State) (o c n svc ticket : Nat), failingOwner o = true → s.mayDraw o c n ticket false = false →
    completes (.poolDraw o c n svc ticket) s fun t => t.pools = s.pools ∧ t.hbm = s.hbm ∧ t.rd Reg.POOL_ERR_VALID = 1 ∧
      (s.rd Reg.POOL_ERR_VALID = 0 → t.rd Reg.POOL_ERR_CODE = 0x0D03)) ∧
  (∀ (s : State) (o c n svc ticket : Nat), failingOwner o = false → s.mayDraw o c n ticket true = false →
    completes (.poolDraw o c n svc ticket) s fun t =>
      (t.poolC c).stalled = (s.poolC c).stalled ++ [{ owner := o, n := n, svc := svc, ticket := ticket }] ∧
      (t.poolC c).held = (s.poolC c).held ∧ (t.poolC c).cache = (s.poolC c).cache) ∧
  (∀ (s : State) (c : Nat) (d : Draw), s.nextStalled c = some d → s.poolState c = 1 → completes (.stalledDrawGrant c) s fun t =>
      t = (((s.setPool c { s.poolC c with stalled := (s.poolC c).stalled.erase d }).tieWon d.owner c d.ticket).drawNow d.owner c d.n d.svc).1) ∧
  (∀ (s : State) (c : Nat), s.nextStalled c = none ∨ s.poolState c ≠ 1 → completes (.stalledDrawGrant c) s fun t => t = s) ∧
  (∀ (s : State) (c i o : Nat), tget (fun _ => none) (s.poolC c).held i = some o → i < s.rd (Reg.POOL_CLS_COUNT_COUNT c) →
    i ∉ (s.poolC c).withdraw → (s.poolC c).cache.length < 384 → s.rd (Reg.POOL_CLS_CFG_MODE c) = 0 → c < 8 → o < 32 →
    completes (.poolFree c i) s fun t => (t.poolC c).cache = i :: (s.poolC c).cache ∧
      tget (fun _ => none) (t.poolC c).held i = none ∧ t.jobs = s.jobs) ∧
  (∀ (s : State) (c i : Nat), tget (fun _ => none) (s.poolC c).held i = none → completes (.poolFree c i) s fun t =>
    t.pools = s.pools ∧ t.rd Reg.POOL_ERR_VALID = 1 ∧ (s.rd Reg.POOL_ERR_VALID = 0 → t.rd Reg.POOL_ERR_CODE = 0x0D04)) ∧
  (∀ (s : State) (c : Nat) (values : List Nat), (s.poolC c).cache.length < 128 → (runsTake 256 (s.poolStore c)).1 ≠ [] →
    values = (runsTake 256 (s.poolStore c)).1 → s.rd (Reg.POOL_CLS_CFG_MODE c) = 0 → (∀ i ∈ values, i < s.rd (Reg.POOL_CLS_COUNT_COUNT c)) →
    (∀ i ∈ values, tget (fun _ => none) (s.poolC c).held i = none) → completes (.poolRefill c values) s fun t =>
      (t.poolC c).held = (s.poolC c).held ∧ (t.poolC c).store = some (runsTake 256 (s.poolStore c)).2 ∧
      (t.poolC c).cache = (s.poolC c).cache ++ values) ∧
  (∀ (s u : State) (c : Nat) (w : BitVec 32), c < 8 → reaches s (Reg.POOL_CLS_CFG c) → u = s.poolCfgMode c w → u.poolState c = 0 →
    u.carveOk c = true → completes (.poolEnable c w) s fun t => (t.poolC c).held = [] ∧ (t.poolC c).cache = [] ∧
      t.poolState c = 1 ∧ t.rd (Reg.POOL_CLS_CFG_ENABLE c) = 1 ∧
      t.poolF c = s.rd (Reg.POOL_CLS_COUNT_COUNT c)) ∧
  (∀ (s : State) (c : Nat) (w : BitVec 32), c < 8 → reaches s (Reg.POOL_CLS_CFG c) → s.poolState c = 2 →
    completes (.poolEnable c w) s fun t => t.poolState c = 3 ∧ t.rd (Reg.POOL_CLS_CFG_ENABLE c) = 1 ∧ t.pools = s.pools) ∧
  (∀ (s : State) (c : Nat) (w : BitVec 32), c < 8 → reaches s (Reg.POOL_CLS_CFG c) → (s.poolState c = 1 ∨ s.poolState c = 3) →
    completes (.poolDisable c w) s fun t => t.poolState c = 2 ∧ t.rd (Reg.POOL_CLS_CFG_ENABLE c) = 0 ∧ t.pools = s.pools) ∧
  (∀ (s : State) (c : Nat), c < 8 → (s.poolC c).held = [] → (s.poolState c = 2 ∨ s.poolState c = 3) →
    completes (.poolLehrEnd c) s fun t => t.poolState c = s.poolState c - 2 ∧
      (s.poolState c = 2 → (t.poolC c).cache = []) ∧ (s.poolState c = 3 → t.pools = s.pools)) ∧
  (∀ (s : State) (o c : Nat) (w : BitVec 32), o < 32 → c < 8 → reaches s (Reg.POOL_OWN_RES o c) →
    completes (.poolResWrite o c w) s fun t =>
      (bitsOf w.toNat 0 21 - s.poolHeld o c ≤ s.poolH c + (s.poolRes o c - s.poolHeld o c) → s.poolCommit o c ≤ bitsOf w.toNat 0 21 →
        t.poolRes o c = bitsOf w.toNat 0 21) ∧
      (¬(bitsOf w.toNat 0 21 - s.poolHeld o c ≤ s.poolH c + (s.poolRes o c - s.poolHeld o c) ∧ s.poolCommit o c ≤ bitsOf w.toNat 0 21) →
        t.poolRes o c = s.poolRes o c ∧ t.rd Reg.POOL_ERR_VALID = 1)) ∧
  ∀ (s : State) (c : Nat) (w : BitVec 32), c < 8 → reaches s (Reg.POOL_CLS_THRESH c) → completes (.poolThreshWrite c w) s fun t =>
    t.reg (Reg.POOL_CLS_THRESH c) = (if s.threshOk c (16 * bitsOf w.toNat 0 16) (16 * bitsOf w.toNat 16 16) = true then w
      else s.reg (Reg.POOL_CLS_THRESH c)) ∧
    (s.threshOk c (16 * bitsOf w.toNat 0 16) (16 * bitsOf w.toNat 16 16) = false → t.rd Reg.POOL_ERR_VALID = 1)

/-- R697, R698, R701, R706, R717, R737: power-on resets, the boot and its end. -/
def Obligations.PowerOnResetClearsAndTheBootFollows : Prop :=
  let blank := fun (t : State) => t.hif = State.reset.hif ∧ t.jrnl = State.reset.jrnl ∧ t.streams = [] ∧ t.dec = State.reset.dec ∧
    t.net = State.reset.net ∧ t.shp = State.reset.shp ∧ t.sgs = State.reset.sgs ∧ t.progs = [] ∧ t.tbl = State.reset.tbl ∧
    t.jobs = [] ∧ t.cores = [] ∧ t.sched = State.reset.sched ∧ t.pools = State.reset.pools ∧ t.mem = State.reset.mem ∧
    t.lnk = State.reset.lnk
  let kept := fun (s t : State) => t.sec.lc = (s.sec.busy.map fun n => [n, n, n]).getD s.sec.lc ∧
    t.sec.seed = s.sec.seed ∧ t.sec.endorsement = s.sec.endorsement ∧ t.pwr.inReset = some .powerOn ∧
    t.pwr.perstN = s.pwr.perstN ∧ t.pwr.rstWarmN = s.pwr.rstWarmN
  (∀ (s : State), s.hbm.retired = [] →
    completes .pwrGoodFall s (fun t => blank t ∧ kept s t ∧ (∀ f ∈ fuseFields, t.rd f = s.rd f) ∧ t.pwr.pwrGood = false ∧
      t.pwr.rstPorN = s.pwr.rstPorN ∧ t.counters = []) ∧
    completes .rstPorNLow s (fun t => blank t ∧ kept s t ∧ (∀ f ∈ fuseFields, t.rd f = s.rd f) ∧ t.pwr.rstPorN = false ∧
      t.pwr.pwrGood = s.pwr.pwrGood ∧ t.counters = []) ∧
    completes .vddAonLoss s (fun t => blank t ∧ kept s t ∧ (∀ f ∈ fuseFields, t.rd f = s.rd f) ∧ t.pwr.pwrGood = false ∧
      t.counters = [] ∧ t.rd Reg.SEC_TAMPER_LATCHED = 0)) ∧
  (∀ (s : State) (m : Bool) (board : List Nat), s.hbm.retired = [] → s.pwr.rstPorN = true → s.pwr.tripped = false →
    completes (.pwrGoodRise m board) s fun t => blank t ∧ kept s t ∧ t.pwr.pwrGood = true ∧ t.pwr.testMode = m ∧
      t.pwr.booting = true ∧ t.hlth.testing.length = 76 ∧ (t.pwr.romService = true ↔ t.lifecycle = 4)) ∧
  (∀ (s : State) (board : List Nat), s.pwr.rstPorN = false → s.pwr.pwrGood = true → s.pwr.tripped = false →
    completes (.rstPorNRise board) s fun t => t.pwr.rstPorN = true ∧ t.pwr.booting = true ∧ t.hlth.testing.length = 76 ∧
      (t.pwr.romService = true ↔ t.lifecycle = 4) ∧ t.jobs = s.jobs ∧ t.streams = s.streams) ∧
  ∀ (s : State), s.pwr.inReset = some .powerOn → s.pwr.booting = true → s.pwr.fwRunning = true → s.pwr.firstPlan = true →
    s.hlth.testing = [] → s.rd (Reg.HBM_STK_TRAIN_TRAIN_OK 0) = 1 → s.rd (Reg.HBM_STK_TRAIN_TRAIN_OK 1) = 1 →
    s.pwr.testMode = false → completes .ready s fun t => t.rd Reg.PWR_STATUS_READY = 1 ∧ t.pwr.inReset = none ∧
      t = { s.wr Reg.PWR_STATUS_READY 1 with pwr := { s.pwr with inReset := none } }

/-- R697, R698, R700, R704, R737: resets other than power-on, their ranking and their end. -/
def Obligations.ResetsDiscardWorkAndAreRanked : Prop :=
  let begun := fun (t : State) (k : ResetKind) (last : Nat) => t.pwr.inReset = some k ∧ t.rd Reg.PWR_STATUS_LAST_RESET = last ∧
    t.jrnl.cmds = []
  let active := fun (t : State) => t.rd Reg.PWR_STATUS_STATE = 0 ∧ t.hif.d3hot = false
  (∀ (s : State) (q : ResetKind), s.pwr.inReset = some q → q ≠ .fw →
    completes .fwWatchdogExpiry s (fun t => t = s) ∧
    completes .rstWarmNFall s (fun t => t = { s with pwr := { s.pwr with rstWarmN := false } })) ∧
  (∀ (s : State) (q : ResetKind), s.pwr.inReset = some q → q ≠ .fw → q ≠ .warm →
    completes .functionLevelReset s (fun t => t = s)) ∧
  (∀ (s : State), s.pwr.inReset = none →
    completes .rstWarmNFall s (fun t => begun t .warm 1 ∧ active t ∧ t.pwr.rstWarmN = false) ∧
    completes .pcieHotReset s (fun t => begun t .hot 2 ∧ active t ∧ t.rd Reg.HIF_STATUS_LINK_UP = 0) ∧
    completes .functionLevelReset s (fun t => begun t .flr 3 ∧ active t) ∧
    (s.pwr.pwrGood = true → completes .perstAssert s (fun t => begun t .hot 5 ∧ active t ∧ t.rd Reg.HIF_STATUS_LINK_UP = 0 ∧
      t.pwr.perstN = false)) ∧
    (s.rd Reg.PWR_STATUS_STATE ≠ 4 → completes .fwWatchdogExpiry s (fun t => begun t .fw 4))) ∧
  (∀ (s : State) (w : BitVec 32), reaches s Reg.PWR_RESET → s.pwr.inReset = none → bitsOf w.toNat 24 8 = 0xA5 →
    (bitsOf w.toNat 1 1 = 1 → completes (.pwrResetWarm w) s (fun t => begun t .warm 1 ∧ active t)) ∧
    (bitsOf w.toNat 0 1 = 1 → bitsOf w.toNat 1 1 = 0 → completes (.pwrResetFw w) s (fun t => begun t .fw 4))) ∧
  (∀ (s : State), completes .rstWarmNRise s (fun t => t = { s with pwr := { s.pwr with rstWarmN := true } }) ∧
    completes .perstDeassert s (fun t => t = { s with pwr := { s.pwr with perstN := true } })) ∧
  ∀ (s : State) (k : ResetKind) (host : Option (List (BitVec 1024) × List (BitVec 128))), s.pwr.inReset = some k → k ≠ .powerOn →
    (k = .warm → s.pwr.rstWarmN = true) → completes (.resetIntervalEnd host) s fun t => t.pwr.inReset = none

/-- R559, R560, R682, R685 to R696: power states, clocks, rails, throttling and the trip. -/
def Obligations.PowerStatesClocksAndRails : Prop :=
  (∀ (s : State), s.furlIdle = true → completes .furlIdleExpiry s (fun t => t = s.wr Reg.PWR_STATUS_STATE 1)) ∧
  (∀ (s : State), s.pwr.stowing = false →
    (s.rd Reg.PWR_STATUS_STATE = 1 → completes .furlLehrEnd s (fun t => t.rd Reg.PWR_STATUS_STATE = 3) ∧
      completes .wakeEvent s (fun t => t.rd Reg.PWR_STATUS_STATE = 2)) ∧
    (s.rd Reg.PWR_STATUS_STATE = 2 → completes .furlLehrEnd s (fun t => t.rd Reg.PWR_STATUS_STATE = 0)) ∧
    (s.rd Reg.PWR_STATUS_STATE = 3 → completes .wakeEvent s (fun t => t.rd Reg.PWR_STATUS_STATE = 0 ∧
      t.rd Reg.PWR_WAKES_COUNT = (s.rd Reg.PWR_WAKES_COUNT + 1) % 2 ^ 32))) ∧
  (∀ (s : State), reaches s Reg.SCHED_CTRL →
    (s.rd Reg.SCHED_STATUS_SAVED_ALL = 0 → s.sched.saving = false → completes .saveAll s fun t =>
      t.rd Reg.SCHED_CTRL_SAVE_ALL = 1 ∧ ∀ c, c < 16 → s.rd (Reg.HIF_CRING_STATUS_STATE c) = 1 → t.rd (Reg.HIF_CRING_STATUS_STATE c) = 3) ∧
    (s.rd Reg.SCHED_STATUS_SAVED_ALL = 1 → s.sched.resuming = false → completes .resumeAll s fun t =>
      t.sched = { s.sched with resuming := true } ∧ t.rd Reg.SCHED_CTRL_RESUME_ALL = 1)) ∧
  (∀ (s : State), s.sched.saving = true → s.allStopped = true → s.rd Reg.SCHED_STATUS_SAVED_ALL = 0 → s.pwr.stowing = false →
    completes .saveAllComplete s fun t => t.rd Reg.SCHED_STATUS_SAVED_ALL = 1 ∧ t.rd Reg.SCHED_CTRL_SAVE_ALL = 0 ∧ t.sched = s.sched) ∧
  (∀ (s : State), s.sched.resuming = true → completes .resumeAllComplete s fun t =>
    t.rd Reg.SCHED_STATUS_SAVED_ALL = 0 ∧ t.rd Reg.SCHED_CTRL_RESUME_ALL = 0 ∧ t.pwr.savedRings = []) ∧
  (∀ (s : State), s.hif.d3hot = false → s.pwr.inReset = none → s.rd Reg.PWR_STATUS_STATE = 0 →
    s.rd Reg.SCHED_STATUS_SAVED_ALL = 0 → completes .d3hotWrite s fun t =>
      t.hif.d3hot = true ∧ t.pwr.stowing = true ∧ t.rd Reg.PWR_STATUS_STATE = 1 ∧
      t.pwr.savedRings = (List.range 16).map (fun c => (c, s.rd (Reg.HIF_CRING_STATUS_STATE c)))) ∧
  (∀ (s : State), s.hif.d3hot = true →
    (s.rd Reg.PWR_STATUS_STATE = 1 → completes .d0Write s fun t => t = s.wr Reg.PWR_STATUS_STATE 2) ∧
    (s.rd Reg.PWR_STATUS_STATE = 4 → completes .d0Write s fun t => t.hif.d3hot = false ∧ t.rd Reg.PWR_STATUS_STATE = 5 ∧
      (s.rd Reg.SCHED_STATUS_SAVED_ALL = 1 → s.sched.resuming = false → t.sched.resuming = true))) ∧
  (∀ (s : State) (b : Nat), b < 20 →
    (s.clockBusy b = false → completes (.clockGate b) s fun t => t = s.wr ⟨Reg.PWR_CLK_ON, b, 1⟩ 0) ∧
    (s.rd Reg.PWR_STATUS_STATE ≠ 3 → s.rd Reg.PWR_STATUS_STATE ≠ 4 →
      completes (.clockStart b) s fun t => t = s.wr ⟨Reg.PWR_CLK_ON, b, 1⟩ 1)) ∧
  (∀ (s : State) (r cur mv : Nat), r < 12 → cur < 2 ^ 16 → mv < 2 ^ 10 →
    completes (.railReadback r none) s (fun t => t = s.wr Reg.PWR_EVENT_AVS_FAULT 1) ∧
    completes (.railReadback r (some (cur, mv))) s (fun t => t.rd (Reg.PWR_RAIL_CURRENT r) = cur ∧ t.rd (Reg.PWR_RAIL_MV r) = mv)) ∧
  (∀ (s : State) (r c : Nat), tget (fun _ => none) s.pwr.railBad r = some c → c + 10 ^ 6 ≤ s.time.mono →
    completes (.railFault r) s fun t => t.rd Reg.PWR_EVENT_RAIL_FAULT = 1) ∧
  (∀ (s : State) (tj : Int) (l : List Nat), l = (s.powerNow :: s.pwr.powers).take 10 → s.rd Reg.PWR_THROTTLE_DUTY ≤ 1024 →
    completes (.throttleStep tj) s fun t => t.pwr.powers = l ∧ t.rd Reg.PWR_POWER_POWER_W = averageW l % 2 ^ 10 ∧
      (16 < s.rd Reg.PWR_THROTTLE_DUTY → s.rd Reg.PWR_CAP_CAP_W < averageW l →
        t.rd Reg.PWR_THROTTLE_DUTY = s.rd Reg.PWR_THROTTLE_DUTY - 16 ∧ t.rd Reg.PWR_EVENT_CAP_THROTTLE = 1) ∧
      (16 < s.rd Reg.PWR_THROTTLE_DUTY → (s.rd Reg.PWR_CAP_TJ_MAX_C : Int) - 5 ≤ tj →
        t.rd Reg.PWR_THROTTLE_DUTY = s.rd Reg.PWR_THROTTLE_DUTY - 16 ∧ t.rd Reg.PWR_EVENT_TJ_THROTTLE = 1) ∧
      (averageW l + 10 < s.rd Reg.PWR_CAP_CAP_W → tj < (s.rd Reg.PWR_CAP_TJ_MAX_C : Int) - 8 →
        t.rd Reg.PWR_THROTTLE_DUTY = min 1024 (s.rd Reg.PWR_THROTTLE_DUTY + 16))) ∧
  ∀ (s : State), completes .thermalTrip s fun t => t.pwr.inReset = some .powerOn ∧ t.pwr.tripped = true ∧ t.sec.key = none

/-- R148 to R155, R171, R185 to R188, R240: the life of a picture on its engine, and engines that leave and return. -/
def Obligations.PicturesPassThroughTheirEngine : Prop :=
  (∀ (s s0 u : State) (e st : Nat) (f : Frame) (i : PicInfo) (j : Job) (act : Option SeqClaim) (whole : Bool) (p : Pic)
    (b : (Nat × List Nat) × Option (Nat × List Nat)), e < 8 → st < 128 →
    s.mayChoose e = true → s.pickOf e = some (st, f) → s.isLive st = false → f.discont = false →
    whole = (i.complete && !f.oversize) → (whole = true → s.claimOf st i = none) → act = (s.stream st).seqHdr →
    (∀ q, act = some q → (if whole = true then sparseRun (s.rd (Reg.DEC_STRM_SPARSE_RUN st)) i q (s.hasRef st)
      else s.rd (Reg.DEC_STRM_SPARSE_RUN st)) < 8) → s.frameJob? st f.seq = some j → s0 = s.popFrame st →
    p = s0.picOf st f i act (act.isNone || !whole) false →
    s0.drawPic f j.ticket (picNeeds p (s0.keepsPicture f.bind) act).1 (picNeeds p (s0.keepsPicture f.bind) act).2 = some (u, b) →
    completes (.decPictureChoice e i) s fun t => t.engineSt e = 1 ∧ (t.stream st).frames = (s.stream st).frames.tail ∧
      ∃ q, (if (s.engine e).cur.isNone = true then (t.engine e).cur = some q
          else (t.engine e).chosen = some q ∧ (t.engine e).cur = (s.engine e).cur) ∧
        q.stream = st ∧ q.frame = f ∧ q.empty = (act.isNone || !whole) ∧ q.mapBuf = some b.1 ∧ q.copyBuf = b.2) ∧
  (∀ (s : State) (e failed resync misses : Nat) (cells : List RawCell) (rows : Planes) (p : Pic), (s.engine e).cur = some p →
    p.empty = false → p.rowsDone < p.nRows → s.sched.saving = false →
    ¬(p.refOnly = false ∧ (0 < p.rowsDone ∨ p.nRows = 1) ∧
      ((s.streamRows p).shp.stalled.contains e = true ∨ (s.streamRows p).shp.rowStall.contains e = true)) →
    completes (.decBlockRowDone e cells rows failed resync misses) s fun t =>
      ∃ q, (t.engine e).cur = some q ∧ q = p.passRow (kCodec (s.stream p.stream).k) cells rows ∧ q.rowsDone = p.rowsDone + 1 ∧
        q.rowsPassed = (if p.rowsDone + 1 = p.nRows then p.nRows else p.rowsDone) ∧
        q.cells.length + q.held.1.length = p.cells.length + p.held.1.length + cdiv p.w 16 * p.cellRows p.rowsDone ∧
        (p.rowsDone + 1 = p.nRows → q.held.1 = []) ∧ q.frame = p.frame ∧ q.stream = p.stream) ∧
  (∀ (s : State) (e failed resync misses : Nat) (cells : List RawCell) (rows : Planes) (p : Pic), (s.engine e).cur = some p →
    p.empty = false → p.rowsDone < p.nRows → s.sched.saving = false → p.refOnly = false → (0 < p.rowsDone ∨ p.nRows = 1) →
    ((s.streamRows p).shp.stalled.contains e = true ∨ (s.streamRows p).shp.rowStall.contains e = true) →
    completes (.decBlockRowDone e cells rows failed resync misses) s fun t => (t.engine e).cur = some p) ∧
  (∀ (s : State) (e : Nat) (p : Pic), e < 8 → (s.engine e).cur = some p → (p.empty = true ∨ p.nRows ≤ p.rowsDone) →
    s.sched.saving = false → p.refOnly = false → (s.engine e).chosen = none → s.engineSt e = 1 →
    completes (.decPictureDone e) s fun t =>
      (t.engine e).cur = none ∧ t.engineSt e = 0 ∧
      ∃ q, t.dec.pics = s.dec.pics ++ [q] ∧ q.frame = p.frame ∧ q.stream = p.stream ∧ q.done = true ∧
        q.concealed = (p.empty || decide (0 < p.concealedCells))) ∧
  (∀ (s : State) (e : Nat), e < 8 → reaches s (Reg.DEC_CTRL e) →
    (s.engineSt e = 1 → (s.engine e).cur.isSome = true → completes (.decOffline e) s fun t =>
      t.engineSt e = 2 ∧ t.rd (Reg.DEC_CTRL_OFFLINE e) = 1 ∧ t.dec = s.dec) ∧
    (s.engineSt e = 0 → (s.engine e).cur = none → (∀ n, n < 128 → s.strm n = 0 ∨ s.strmEngine n ≠ e) →
      completes (.decOffline e) s fun t => t.engineSt e = 4 ∧ t.rd (Reg.DEC_CTRL_OFFLINE e) = 1) ∧
    (∀ n, n < 128 → s.engineSt e = 0 → (s.engine e).cur = none → s.strm n ≠ 0 → s.strmEngine n = e →
      completes (.decOffline e) s fun t => t.strm n = 5 ∧ t.engineSt e = 2 ∧ t.rd (Reg.DEC_CTRL_OFFLINE e) = 1) ∧
    (s.engineSt e = 2 → completes (.decOnline e) s fun t => t.engineSt e = 3 ∧ t.rd (Reg.DEC_CTRL_OFFLINE e) = 0) ∧
    (s.engineSt e = 4 → completes (.decOnline e) s fun t => t.engineSt e = 0 ∧ t.rd (Reg.DEC_CTRL_OFFLINE e) = 0)) ∧
  ∀ (s : State) (st e : Nat), st < 128 → e < 8 → (s.stream st).movingTo = some e → s.strm st = 5 → (s.stream st).prior < 8 →
    completes (.decMoveDone st) s fun t => t.strm st = (s.stream st).prior ∧ t.strmEngine st = e ∧ (t.stream st).movingTo = none

/-- R190 to R204, R212: ports and flows. -/
def Obligations.EthernetPortsAndFlowsFollowTheirEvents : Prop :=
  (∀ (s : State) (p : Nat) (w : BitVec 32), p < 2 → reaches s (Reg.NET_PORT_CFG p) →
    (s.rd (Reg.NET_PORT_CFG_ENABLE p) = 0 → bitsOf w.toNat 31 1 = 1 → completes (.netPortEnable p w) s fun t =>
      (t.ethPort p).negotiating = true ∧ t.rd (Reg.NET_PORT_CFG_ENABLE p) = 1 ∧ t.rd (Reg.NET_PORT_CFG_MODES p) = bitsOf w.toNat 0 3) ∧
    (s.rd (Reg.NET_PORT_CFG_ENABLE p) = 1 → bitsOf w.toNat 31 1 = 0 → completes (.netPortEnable p w) s fun t =>
      (t.ethPort p).negotiating = false ∧ t.rd (Reg.NET_PORT_CFG_ENABLE p) = 0 ∧ t.rd (Reg.NET_PORT_STATUS_LINK_UP p) = 0)) ∧
  (∀ (s : State) (p partner : Nat), p < 2 → (s.ethPort p).negotiating = true →
    (∀ m, m < 3 → (s.advertised p).find? (fun m => bitsOf partner m 1 == 1) = some m → completes (.autonegComplete p partner) s fun t =>
      t.rd (Reg.NET_PORT_STATUS_LINK_UP p) = 1 ∧ t.rd (Reg.NET_PORT_STATUS_MODE p) = m + 1 ∧ (t.ethPort p).negotiating = false) ∧
    ((s.advertised p).find? (fun m => bitsOf partner m 1 == 1) = none → completes (.autonegComplete p partner) s fun t =>
      t.net = s.net ∧ t.rd Reg.NET_ERR_VALID = 1)) ∧
  (∀ (s : State) (p l : Nat), p < 2 → l ∉ (s.ethPort p).lanesBad →
    (bitsOf (s.ethPort p).inUse l 1 = 1 → completes (.netLaneFailure p l) s fun t => t.rd (Reg.NET_PORT_STATUS_LINK_UP p) = 0 ∧
      (t.ethPort p).lanesBad = l :: (s.ethPort p).lanesBad ∧ (t.ethPort p).negotiating = true) ∧
    (bitsOf (s.ethPort p).inUse l 1 = 0 → completes (.netLaneFailure p l) s fun t =>
      t.rd (Reg.NET_PORT_STATUS_LINK_UP p) = s.rd (Reg.NET_PORT_STATUS_LINK_UP p) ∧
      (t.ethPort p).lanesBad = l :: (s.ethPort p).lanesBad)) ∧
  (∀ (s : State) (p lat : Nat), p < 2 → lat < 2 ^ 16 → s.rd (Reg.NET_PORT_STATUS_LINK_UP p) = 1 →
    completes (.netLinkLost p) s (fun t => t.rd (Reg.NET_PORT_STATUS_LINK_UP p) = 0 ∧ (t.ethPort p).negotiating = true) ∧
    completes (.latencyCalibrationDone p lat) s (fun t => t.rd (Reg.NET_PORT_TS_LAT_LAT p) = lat ∧
      (if s.pwr.inReset = some .fw then p ∈ t.pwr.tsHeld ∧
        t.rd (Reg.NET_PORT_STATUS_TS_HW p) = s.rd (Reg.NET_PORT_STATUS_TS_HW p)
      else t.rd (Reg.NET_PORT_STATUS_TS_HW p) = 1))) ∧
  (∀ (s : State) (f : Nat) (w : BitVec 32), f < 32 → reaches s (Reg.NET_FLOW_CFG f) →
    (s.flowSt f = 0 → (s.flowCfg f w).flowOk f = true → completes (.flowEnable f w) s fun t => t.flowSt f = 1 ∧
      t.rd (Reg.NET_FLOW_CFG_ENABLE f) = 1 ∧ (t.flow f).ssrc = none) ∧
    (s.flowSt f = 5 → completes (.flowEnable f w) s fun t => t.flowSt f = 6 ∧ t.rd (Reg.NET_FLOW_CFG_ENABLE f) = 1) ∧
    (1 ≤ s.flowSt f → s.flowSt f ≤ 4 → completes (.flowDisable f w) s fun t => t.flowSt f = 5 ∧
      t.rd (Reg.NET_FLOW_CFG_ENABLE f) = 0 ∧ (t.flow f).cur = none)) ∧
  (∀ (s : State) (f : Nat), f < 32 →
    (s.flowSt f = 5 → completes (.flowLehrEnd f) s fun t => t.flowSt f = 0) ∧
    (s.flowSt f = 6 → completes (.flowLehrEnd f) s fun t => t.flowSt f = 1)) ∧
  (∀ (s : State) (f c : Nat) (b : Bool), (b, c) ∈ (s.flow f).report2 → c + 10 ^ 9 ≤ s.time.mono →
    completes (.igmpReportTimer f b) s fun t => (t.flow f).report2 = (s.flow f).report2.filter (fun q => q.1 != b) ∧ t.regs = s.regs) ∧
  (∀ (s : State) (f n c : Nat), (n, c) ∈ (s.flow f).missing →
    c + max 1 (s.rd (Reg.NET_FLOW_CFG_MERGE_WIN f)) * 1000 ≤ s.time.mono → completes (.mergeWindowExpiry f n) s fun t =>
    n ∈ (t.flow f).lost ∧ ∀ m ∈ (t.flow f).missing, m.1 ≠ n) ∧
  (∀ (s : State) (f : Nat) (b : Bool) (v c : Nat), ((s.flow f).path b).ssrcAlt = some (v, c) → c + 10 ^ 8 ≤ s.time.mono →
    completes (.ssrcAdopt f b) s fun t => (t.flow f).ssrc = some v ∧ (t.flow f).discont = true ∧ (t.flow f).missing = []) ∧
  ∀ (s : State) (f : Nat), f < 32 → 1 ≤ s.flowSt f → s.flowSt f ≤ 3 →
    (∀ b : Bool, (b = false ∨ s.rd (Reg.NET_FLOW_CFG_MERGE f) = 1) → s.rd (Reg.NET_FLOW_SILENT_PATH_LOSS_MS f) ≠ 0 →
      ((s.flow f).path b).lastAt + s.rd (Reg.NET_FLOW_SILENT_PATH_LOSS_MS f) * 10 ^ 6 ≤ s.time.mono →
      completes (.pathLoss f b) s fun t => t.flowSt f = 3 ∧ ((t.flow f).path b).down = true ∧
        t.rd (if b then Reg.NET_FLOW_STATUS_PATH_B_UP f else Reg.NET_FLOW_STATUS_PATH_A_UP f) = 0) ∧
    (s.rd (Reg.NET_FLOW_SILENT_SILENT_MS f) ≠ 0 →
      (∀ q ∈ s.paths f, ((s.flow f).path q.1).lastAt + s.rd (Reg.NET_FLOW_SILENT_SILENT_MS f) * 10 ^ 6 ≤ s.time.mono) →
      completes (.netSilent f) s fun t =>
      t.flowSt f = 4 ∧ t.rd (Reg.NET_FLOW_STATUS_PATH_A_UP f) = 0 ∧ t.rd (Reg.NET_FLOW_STATUS_PATH_B_UP f) = 0)

/-- R192 to R200, R205, R212 to R230: frames on the wire, PTP, the servo, the clock and its pins. -/
def Obligations.FramesOnTheWireAndTheClock : Prop :=
  (∀ (s : State) (port : Nat) (fr : EthFrame), port < 2 → s.rd (Reg.NET_PORT_STATUS_LINK_UP port) = 1 → s.held = false →
    s.rd Reg.PWR_STATUS_STATE ≠ 4 →
    (∀ (f : Nat) (b : Bool) (dst src : BitVec 32) (udp : Nat) (r : RtpPkt), f < 32 → fr.len ≤ 9022 → fr.fcsOk = true →
      s.tagOk port fr.vlan = true → fr.kind = .udp dst src udp r → s.matchFlow port dst src udp = some (f, b) →
      ((s.flowStream f).isSome = true → s.rd (Reg.NET_FLOW_CFG_PT_CHECK f) = 0 → (s.flow f).ssrc = none → s.payloadBad f r = false →
        completes (.ethFrameReceive port fr) s fun t => (t.flow f).ssrc = some r.ssrc ∧
          t.rd (if b then Reg.NET_FLOW_STATUS_PATH_B_UP f else Reg.NET_FLOW_STATUS_PATH_A_UP f) = 1) ∧
      (s.flowStream f = none → completes (.ethFrameReceive port fr) s fun t =>
        t.rd (Reg.NET_PORT_DISCARDS_COUNT port) = (s.rd (Reg.NET_PORT_DISCARDS_COUNT port) + 1) % 2 ^ 32 ∧
          t.rd (if b then Reg.NET_FLOW_STATUS_PATH_B_UP f else Reg.NET_FLOW_STATUS_PATH_A_UP f) = 1)) ∧
    ((9022 < fr.len ∨ fr.fcsOk = false ∨ s.tagOk port fr.vlan = false ∨
        ∃ (dst src : BitVec 32) (udp : Nat) (r : RtpPkt), fr.kind = .udp dst src udp r ∧ s.matchFlow port dst src udp = none) →
      completes (.ethFrameReceive port fr) s fun t =>
        t.rd (Reg.NET_PORT_DISCARDS_COUNT port) = (s.rd (Reg.NET_PORT_DISCARDS_COUNT port) + 1) % 2 ^ 32 ∧
        onlyRegs [Reg.NET_PORT_DISCARDS port] s t)) ∧
  (∀ (s : State) (f st n : Nat) (q : Frame), s.openFrame f = some (st, n) →
    (s.stream st).frames.find? (fun q => q.seq == n) = some q → s.staleBound st < s.time.mono - q.mono →
    completes (.frameStaleClose f) s fun t => (t.flow f).cur = none) ∧
  (∀ (s : State) (f st n : Nat) (q : Frame) (l : List (Nat × Nat)), (s.flow f).swWait = (st, n) :: l →
    (s.stream st).frames.find? (fun q => q.seq == n) = some q →
    completes (.swTimestampInterrupt f) s fun t => (t.flow f).swWait = l ∧
      (t.stream st).frames.find? (fun q => q.seq == n) = some { q with ct := { s.now with sub := 0 }, mono := s.time.mono, flags := 8 }) ∧
  (∀ (s : State) (a : Announce), s.ptpListens a.port = true → a.domain = s.rd Reg.TIME_CTRL_DOMAIN →
    completes (.ptpAnnounce a) s fun t => t.time.gm = (bestMaster t.validMasters).map (·.gm) ∧
      t.time.masters = s.time.masters.filter (fun x => x.port != a.port || x.identity != a.identity) ++
        [{ port := a.port, identity := a.identity, gm := a.gm, rank := a.rank, steps := a.steps, domain := a.domain
           interval := a.interval, heard := s.time.mono }]) ∧
  (∀ (s : State) (m : PtpMaster), bestMaster s.validMasters = some m → m.heard + 3 * m.interval ≤ s.time.mono →
    completes .announceReceiptTimeout s fun t =>
    t.time.masters = s.time.masters.filter (fun x => x != m) ∧ t.time.gm = (bestMaster t.validMasters).map (·.gm)) ∧
  (∀ (s : State) (port dom : Nat) (t1 t2 corr delay : Int), s.ptpSyncs port = true → dom = s.rd Reg.TIME_CTRL_DOMAIN →
    (s.rd Reg.TIME_CTRL_SERVO_EN = 0 → completes (.ptpSync port dom t1 t2 corr) s fun t => t.time.lastSync = some s.time.mono ∧
      t.reg Reg.TIME_OFFSET = BitVec.ofInt 32 (clampInt (-2147483648) 2147483647 ((t2 - t1) - s.time.meanDelay - corr))) ∧
    (s.rd Reg.TIME_CTRL_SERVO_EN = 1 → s.servo = 0 → completes (.ptpSync port dom t1 t2 corr) s fun t => t.servo = 1 ∧
      t.time.lastSync = some s.time.mono) ∧
    completes (.ptpDelayResp port dom delay) s (fun t => t.time.delays = (delay :: s.time.delays).take 8 ∧
      t.time.meanDelay = rneDiv (t.time.delays.foldl (· + ·) 0) t.time.delays.length ∧
      t.reg Reg.TIME_PATH_DELAY = BitVec.ofInt 32 t.time.meanDelay) ∧
    completes (.delayReqTimer port) s (fun t => t = { s with out := s.out ++ [.delayReq port (s.reg (Reg.NET_PORT_IPV4 port))
      (s.rd (Reg.NET_PORT_CFG_VLAN_ID port)) (s.rd (Reg.NET_PORT_CFG_PTP_DSCP port))] })) ∧
  (∀ (s : State) (c : Nat), s.time.lastSync = some c → (s.servo = 1 ∨ s.servo = 2) →
    c + s.rd Reg.TIME_SERVO_HOLD_HOLDOVER_MS * 10 ^ 6 ≤ s.time.mono → completes .servoHoldover s fun t => t.servo = 3) ∧
  (∀ (s : State), reaches s Reg.TIME_CTRL →
    completes (.servoEnWrite false) s (fun t => t.servo = 4 ∧ t.rd Reg.TIME_CTRL_SERVO_EN = 0) ∧
    (s.servo = 4 → completes (.servoEnWrite true) s fun t => t.servo = 0 ∧ t.rd Reg.TIME_CTRL_SERVO_EN = 1) ∧
    (s.servo = 0 ∨ s.servo = 4 → completes .step s fun t => t = { s with time := { s.time with step := some .toSet } }) ∧
    (s.servo ≠ 0 → s.servo ≠ 4 → completes .step s fun t => t.time = s.time ∧ t.rd Reg.TIME_ERR_VALID = 1)) ∧
  (∀ (s : State), s.time.step = some .toSet → (s.reg Reg.TIME_SET_NS).toNat < 10 ^ 9 → completes .clockStepLoad s fun t =>
    t.time.step = none ∧ t.time.mono = s.time.mono + 40 ∧ t.rd Reg.TIME_STATUS_VALID = 1 ∧
    t.time.sec = s.rd64 Reg.TIME_SET_SEC_LO Reg.TIME_SET_SEC_HI ∧ t.time.ns = (s.reg Reg.TIME_SET_NS).toNat ∧ t.time.frac = 0) ∧
  (∀ (s : State) (w : BitVec 32), reaches s Reg.TIME_RATE → completes (.timeRateWrite w) s fun t => t.reg Reg.TIME_RATE = w ∧
    t.time.incr = (40 * 2 ^ 64 + rneDiv (40 * 2 ^ 52 * w.toInt) (10 ^ 9)).toNat) ∧
  (∀ (s : State) (k : Nat) (w : BitVec 32), k < 4 → reaches s (Reg.TIME_TPO_CFG k) → bitsOf w.toNat 31 1 = 1 →
    (s.time.step ≠ none → completes (.tpOutArm k w) s fun t => k ∈ t.time.arms ∧ t.tpoNext k = none) ∧
    (s.time.step = none → bitsOf w.toNat 29 2 = 1 → s.armBad k 1 = false → completes (.tpOutArm k w) s fun t =>
      if s.clockNs + 2000 ≤ s.tpoStart k then t.tpoNext k = some (s.tpoStart k)
      else t.tpoNext k = none ∧ t.rd (Reg.TIME_TPO_CFG_MISSED k) = 1 ∧ t.rd (Reg.TIME_TPO_CFG_ARM k) = 0) ∧
    (s.time.step = none → bitsOf w.toNat 29 2 = 2 → s.armBad k 2 = false → completes (.tpOutArm k w) s fun t =>
      t.tpoNext k = some (gridFrom (s.tpoStart k) (s.reg (Reg.TIME_TPO_PERIOD k)).toNat (s.clockNs + 2000)))) ∧
  (∀ (s : State) (k c : Nat), k < 4 → s.tpoNext k = some c → c ≤ s.clockNs → completes (.tpOutPulse k) s fun t =>
      (if s.rd (Reg.TIME_TPO_CFG_MODE k) = 2 then t.tpoNext k = some (c + (s.reg (Reg.TIME_TPO_PERIOD k)).toNat)
        else t.tpoNext k = none ∧ t.rd (Reg.TIME_TPO_CFG_ARM k) = 0) ∧
      t.out = (if s.held = true ∨ s.tpGated k = true then s.out
        else s.out ++ [.pulse k (s.rd (Reg.TIME_TPO_CFG_POLARITY k) == 0) (s.reg (Reg.TIME_TPO_WIDTH k)).toNat])) ∧
  (∀ (s : State) (i : Nat) (rising : Bool) (ago : Nat), i < 2 → s.rd (Reg.TIME_TPI_CFG_ENABLE i) = 1 →
    (s.rd (Reg.TIME_TPI_CFG_EDGE i) = 3 ∨ s.rd (Reg.TIME_TPI_CFG_EDGE i) = (if rising then 1 else 2)) → s.edgeCounts i ago = true →
    completes (.tpInEdge i rising ago) s fun t =>
      t.rd (Reg.TIME_TPI_COUNT_COUNT i) = (s.rd (Reg.TIME_TPI_COUNT_COUNT i) + 1) % 2 ^ 32 ∧
      t.reg (Reg.TIME_TPI_NS i) = BitVec.ofNat 32 ((s.clockNs - ago) % 10 ^ 9)) ∧
  ∀ (s : State) (p : Nat), p = s.rd Reg.TIME_CTRL_STATUS_PERIOD * 10 ^ 6 → p ≠ 0 → s.time.lastStatus + p ≤ s.time.mono →
    completes .statusPeriodTimer s fun t => t.time.lastStatus = s.time.mono / p * p

/-- R240, R252 to R258, R261, R266, R268: slots, samples and batches of the shapers. -/
def Obligations.ShapersFillAndDispatchBatches : Prop :=
  (∀ (s : State) (st n node w e d : Nat) (j : Job) (p : Pic), s.frameJob? st n = some j → j.stream = st → j.frameSeq = n →
    s.jobWord j node = some w → wOpc w = 0x21 → s.picOfFrame st n = some p → d = s.descOf j.prog (shpDesc w) →
    (shAngle d = 0 ∨ p.done = true) → s.sched.saving = false → s.samplesOf (j.nodeKey node) st n = [] →
    (j.node node).committed = false → s.slotsInOrder j node = true → e = s.strmEngine st → e < 8 →
    (∀ b : Batch, s.shp.batches.find? (fun b => b.key == j.nodeKey node && b.shp == e && b.svc == j.svc && b.closed.isNone) = some b →
      completes (.shpSampleSlot st n node) s fun t => ∃ b2 ∈ t.shp.batches, b2.key = b.key ∧ b2.seq = b.seq ∧
        b2.samples.take b.samples.length = b.samples ∧ b2.samples.length = b.samples.length + 1 ∧
        (∃ x, b2.samples.getLast? = some x ∧ x.rcd.stream = st ∧ x.rcd.frame = n ∧ x.rcd.slot = b.samples.length ∧
          (s.rd (Reg.SHP_CTRL_TEST_STANDIN e) = 1 → x.standIn = true) ∧
          (s.rd (Reg.SHP_CTRL_TEST_STANDIN e) = 0 → p.unusable = false → x.standIn = false)) ∧
        (b2.closed = if b.samples.length + 1 = shpBatchN w then some 0 else none)) ∧
    (s.shp.batches.find? (fun b => b.key == j.nodeKey node && b.shp == e && b.svc == j.svc && b.closed.isNone) = none →
      (s.openBatch (j.nodeKey node) e j.svc (shpBatchN w) (shpDest w) (shBytes d) j.ticket).2 = none →
      completes (.shpSampleSlot st n node) s fun t => t.shp.batches = s.shp.batches ∧ e ∈ t.shp.stalled)) ∧
  (∀ (s : State) (st n node obj w : Nat) (j : Job) (x : Sample), s.frameJob? st n = some j → s.jobWord j node = some w →
    (s.samplesOf (j.nodeKey node) st n).find? (isSample st n obj) = some x → x.data ≠ [] → x.complete = false →
    completes (.shpSampleDone st n node obj) s fun t => ∃ b ∈ t.shp.batches, b.key = j.nodeKey node ∧
      ∃ y ∈ b.samples, isSample st n obj y = true ∧ y.complete = true ∧ y.data = x.data ∧ (x.standIn = true → y.rcd.sflags % 2 = 1)) ∧
  (∀ (s : State) (job node : Nat) (j : Job) (w : Nat) (p : Pic) (l : List (Nat × Box)), s.nodeFor job node 0x22 = some (j, w) →
    j.boxes w = some l → s.donePic j.stream j.frameSeq = some p → (j.node node).queued = false → s.slotsInOrder j node = true →
    s.sched.saving = false →
    (l = [] → openBeside s j node → completes (.boxListArrival job node) s fun t =>
      nodeDone t job node (.batch (s.strmEngine j.stream) 0 [])) ∧
    (l ≠ [] → l.length ≤ shMaxBoxes (s.descOf j.prog (shpDesc w)) →
      (s.cropSlots j node w (s.descOf j.prog (shpDesc w)) l).isSome = true →
      completes (.boxListArrival job node) s fun t => ∃ q, t.job? job = some q ∧
        (q.node node).queued = true ∧ (q.node node).count = l.length)) ∧
  (∀ (s : State) (e node svc wait : Nat) (b : Batch), b ∈ s.shp.batches → b.shp = e → b.key.node = node → b.svc = svc →
    b.closed = none → wait = shWait (s.descOf b.key.prog (shpDesc (((s.prog b.key.prog).routeWords b.key.route).getD node 0))) →
    wait ≠ 0 → b.first + wait * 1000 ≤ s.time.mono →
    completes (.batchWaitExpiry e node svc) s fun t => { b with closed := some 1 } ∈ t.shp.batches ∧ t.shp.kept = s.shp.kept) ∧
  (∀ (s : State) (e : Nat), e < 8 → reaches s (Reg.SHP_CTRL e) →
    completes (.flush e) s (fun t => (∀ b ∈ s.shp.batches, b.shp = e → b.closed = none → { b with closed := some 2 } ∈ t.shp.batches) ∧
      t.shp.batches.length = s.shp.batches.length ∧ ∀ b ∈ s.shp.batches, b.shp ≠ e → b ∈ t.shp.batches) ∧
    completes (.testStandin e) s (fun t => t = s.wr (Reg.SHP_CTRL_TEST_STANDIN e) 1)) ∧
  ∀ (s : State) (e node svc : Nat) (b : Batch), e < 8 →
    s.shp.batches.find? (fun b => b.shp == e && b.key.node == node && b.svc == svc && b.closed.isSome && !b.dispatched &&
      b.samples.all (fun x => x.complete) && !s.earlierBatch b) = some b →
    completes (.batchDispatch e node svc) s fun t =>
      t.rd (Reg.SHP_BATCHES_COUNT e) = (s.rd (Reg.SHP_BATCHES_COUNT e) + 1) % 2 ^ 32 ∧
      (b.samples.length < b.n → t.rd (Reg.SHP_SHORT_COUNT e) = (s.rd (Reg.SHP_SHORT_COUNT e) + 1) % 2 ^ 32) ∧
      ∀ (x : Sample) (j : Job), b.samples = [x] → x.rcd.objIndex = 0xFFFF → s.frameJob? x.rcd.stream x.rcd.frame = some j →
        s.job? j.id = some j → (j.node node).committed = false → j.nodeKey node = b.key → openBeside s j node →
        nodeDone t j.id node (.batch e b.seq [s.gateSample b.key x])

/-- R487 to R491, R532: operations of the set and graph stations, and stations that leave and return. -/
def Obligations.StationOperationsStartCommitAndMove : Prop :=
  let runs := fun (i : Nat → Nat → Instr) (opc : Nat) => ∀ (s : State) (job node w k : Nat) (j : Job),
    s.nodeFor job node opc = some (j, w) → s.sched.saving = false → s.opStation j node = some k →
    s.sgs.ops.any (fun o => o.station == k && o.unit == sgsUnit opc) = false →
    (s.readyOps k (sgsUnit opc)).all (fun q => (q.1.id == job && q.2 == node) || opBefore s.ticketNow (j, node) q) = true →
    s.sgsReady j node w = true → s.sgsFault j node w = none → completes (i job node) s fun t =>
      t.sgs.ops = s.sgs.ops ++ [{ station := k, unit := sgsUnit opc, job := job, node := node }] ∧
      ∃ q, t.job? job = some q ∧ (q.node node).ran = true ∧ (q.node node).committed = (j.node node).committed
  (runs .boxes 0x50 ∧ runs .nms 0x51 ∧ runs .topk 0x52 ∧ runs .iou 0x53 ∧ runs .hset 0x54 ∧ runs .knn 0x55 ∧ runs .assign 0x56 ∧
    runs .track 0x57) ∧
  (∀ (s u : State) (k w : Nat) (o : SgsOp) (j : Job), s.sgs.ops.find? (fun o => o.station == k && s.opDone o) = some o →
    u = { s with sgs := { s.sgs with ops := s.sgs.ops.erase o } } → s.job? o.job = some j → s.jobWord j o.node = some w →
    openBeside s j o.node → completes (.sgsOperationCommit k) s fun t =>
      ∃ q, t.job? o.job = some q ∧ (q.node o.node).committed = true ∧ (q.node o.node).out = (u.sgsCalc j o.node w).out) ∧
  (∀ (s : State) (k : Nat), k < 4 → reaches s (Reg.SGS_CTRL k) →
    (s.stationSt k < 2 → completes (.sgsOffline k true) s fun t => t.rd (Reg.SGS_CTRL_OFFLINE k) = 1 ∧
      (t.stationSt k = 2 ∨ t.stationSt k = 4)) ∧
    (s.stationSt k = 2 → completes (.sgsOffline k false) s fun t => t.rd (Reg.SGS_CTRL_OFFLINE k) = 0 ∧ t.stationSt k = 3) ∧
    (s.stationSt k = 4 → s.sgs.ops = [] → completes (.sgsOffline k false) s fun t => t.rd (Reg.SGS_CTRL_OFFLINE k) = 0 ∧
      t.stationSt k = 0)) ∧
  ∀ (s : State) (st k : Nat), st < 128 → k < 4 → (s.sgsStream st).movingTo = some k → s.sgsSt st = 2 →
    (∀ o ∈ s.sgs.ops, o.station ≠ s.sgsStation st) →
    (s.sgsStream st).trk.tracks.length ≤ s.trkFree k → completes (.sgsMoveDone st) s fun t =>
      t.sgsSt st = 1 ∧ t.sgsStation st = k ∧ (t.sgsStream st).movingTo = none ∧
      (t.sgsStream st).trk.tracks = (s.sgsStream st).trk.tracks

/-- R461, R557, R639 to R647, R686: transfers between devices. -/
def Obligations.TilesCrossBetweenDevices : Prop :=
  (∀ (s : State) (job node w : Nat) (j : Job) (g : Grid) (q : Tensor), s.job? job = some j → s.jobWord j node = some w →
    wOpc w = 0x60 → j.started = true → j.plan.isSome = true → (j.node node).committed = false → xfDev w ∈ s.reachable →
    (j.node (xfSrc w)).grid = some g → (j.node (xfSrc w)).out = .tensor q → g.fold = false → (j.node (xfSrc w)).committed = false →
    completes (.xfrSend job node) s fun t => ∃ k, t.job? job = some k ∧ (k.node node).ran = true ∧ (k.node node).committed = false ∧
      ∀ p ∈ (j.node (xfSrc w)).passed, p.1 + 1 = g.passes → (0, p.2) ∈ (k.node node).passed ∧
        ((0, p.2) ∉ (j.node node).passed → ∀ (m : TileMsg) (r : Nat), m = (s.tileMsg j (xfSrc w) w g q p.2).1 →
          s.routePort m.dst m.id.tile = some r → Out.tile r m ∈ t.out)) ∧
  (∀ (s : State) (job node w : Nat) (j : Job), s.nodeFor job node 0x61 = some (j, w) → xfDev w ∈ s.reachable →
    s.lnk.heldTiles = [] → openBeside s j node → completes (.xfrRecv job node) s fun t => ∃ k, t.job? job = some k ∧
      (k.node node).ran = true ∧ (k.node node).grid = some (recvGrid (s.descOf j.prog (xfSrc w)) (j.count.getD 1))) ∧
  (∀ (s : State) (job node w : Nat) (j : Job) (q : Tensor), s.nodeFor job node 0x62 = some (j, w) →
    (j.node (xfSrc w)).committed = true → (j.node (xfSrc w)).out = .tensor q →
    (∀ d ∈ s.collRing (xfGroup w), d ∈ s.reachable) → s.lnk.early = [] → completes (.xfrColl job node) s fun t =>
      (∃ k, t.job? job = some k ∧ (k.node node).ran = true) ∧
      ∃ c ∈ t.lnk.colls, c.job = job ∧ c.node = node ∧ c.channel = xfChannel w ∧ c.own = q.rows.flatten ∧ c.stored = []) ∧
  (∀ (s0 s : State) (dev : Nat) (tile : TileId) (q : SentTile), s = s0.wakeUp → s.sentOf dev tile = some q →
    completes (.receipt dev tile 0) s0 (fun t => t = { s with lnk := t.lnk } ∧ ∃ x ∈ t.lnk.sent, x.msg = q.msg ∧ x.receipt = true) ∧
    (∀ j w, s.job? q.job = some j → s.jobWord j q.node = some w → (j.node (xfSrc w)).committed = false →
      completes (.releaseTile dev tile) s0 fun t => t.lnk.sent = s.lnk.sent.erase q ∧
        ∃ k, t.job? q.job = some k ∧ (k.node q.node).sending = (j.node q.node).sending.erase q.msg.id.tile)) ∧
  (∀ (s : State) (dev : Nat) (tile : TileId) (q : SentTile) (p : Nat), s.sentOf dev tile = some q → q.receipt = false → q.sends < 4 →
    q.at_ + max 1 (s.rd Reg.LNK_TIMERS_ACK_US) * 1000 ≤ s.time.mono → s.routePort q.msg.dst q.msg.id.tile = some p →
    completes (.ackTimeout dev tile) s fun t => Out.tile p q.msg ∈ t.out ∧ ∃ x ∈ t.lnk.sent, x.msg = q.msg ∧ x.sends = q.sends + 1) ∧
  (∀ (s : State) (dev : Nat) (lost : Nat), dev ∉ s.reachable → (∃ x ∈ s.lnk.sent, x.msg.dst = dev ∧ x.receipt = true) →
    (dev, lost) ∈ s.lnk.lostAt → lost + s.rd Reg.LNK_TIMERS_REJOIN_MS * 10 ^ 6 ≤ s.time.mono →
    completes (.rejoinTimeout dev) s fun t =>
      (∀ x ∈ t.lnk.sent, x ∈ s.lnk.sent ∧ ¬ (x.msg.dst = dev ∧ x.receipt = true)) ∧
      ((∀ x ∈ s.lnk.sent, s.job? x.job = none) → ∀ x ∈ s.lnk.sent, x.msg.dst ≠ dev → x ∈ t.lnk.sent)) ∧
  (∀ (s0 s u : State) (port : Nat) (m : TileMsg) (q : Nat × Nat × Nat × Nat) (f : Nat × Nat) (l : List Nat), s = s0.wakeUp →
    m.dst = s.myDev → s.taken? m.id = false → m.id ∉ s.lnk.superseded → s.recvFor m.id.src m.id.channel = some q → q.2.2.1 ≠ 0 →
    f = poolFit (max 1 (m.rows * cdiv (m.cols * (if m.wire = 1 then 8 else fmtBits (xfOfmt q.2.2.2))) 8 + m.scales.length)) →
    s.draw 7 f.1 f.2 m.svc s.ticketNow true = (u, some l) →
    (∀ j ∈ s.jobs, j.prog = q.1 → j.route = q.2.1 → s.tileFor j m.id = false) → completes (.tileArrival port m) s0 fun t =>
      (∃ h ∈ t.lnk.heldTiles, h.msg = m ∧ h.job = none ∧ h.port = port ∧ h.bufs = (f.1, l)) ∧ Out.receipt m.id.src m.id 0 ∈ t.out) ∧
  (∀ (s : State) (tile : TileId) (h : HeldTile), s.lnk.heldTiles.find? (fun h => h.msg.id == tile && h.job.isNone) = some h →
    h.at_ + s.rd Reg.LNK_ORPHAN_MS_ORPHAN_MS * 10 ^ 6 ≤ s.time.mono →
    completes (.orphanTimeout tile) s fun t => t.lnk.heldTiles = s.lnk.heldTiles.erase h ∧ Out.release h.msg.id.src h.msg.id ∈ t.out) ∧
  (∀ (s : State) (job node w : Nat) (j : Job) (g : Grid) (q : Tensor), s.job? job = some j → s.jobWord j node = some w →
    (j.node node).grid = some g → (j.node node).out = .tensor q → wOpc w = 0x61 → xfFallback w = true → (j.node node).committed = false →
    s.halfStale j = true → openBeside s j node → completes (.fallbackTimeout job node) s fun t => ∃ k, t.job? job = some k ∧
      k.flags = j.flags ||| 4 ∧ (k.node node).committed = true) ∧
  (∀ (s : State) (c tag : Nat) (q : RemoteTag), (s.core c).saving = none → q ∈ (s.core c).tags → q.tag = tag → q.arrived = false →
    q.parked = false → s.remoteHere q.tj = true → completes (.remoteResponse c tag) s fun t =>
      (∃ r ∈ (t.core c).tags, r.tag = tag ∧ r.arrived = true) ∧ (t.core c).tags.length = (s.core c).tags.length) ∧
  ∀ (s0 s : State) (port : Nat) (k : CollChunk) (c : Coll), s = s0.wakeUp → s.coll? k.job k.step k.channel = some c → k.reduce = false →
    (∀ q ∈ c.stored, q.1 ≠ k.chunk) → c.stored.length + 1 < (s.collRing c.group).length →
    completes (.collectiveChunkArrival port k) s0 fun t =>
      { c with stored := c.stored ++ [(k.chunk, fromWire k.data k.scales)] } ∈ t.lnk.colls

/-- R629 to R636, R648 to R651, R686: Ranlink ports, flits, credits and topology. -/
def Obligations.RanlinkPortsFollowTheirEvents : Prop :=
  (∀ (s : State) (w : BitVec 32), reaches s Reg.LNK_TOPO → (∀ p, p < 4 → s.portSt p = 0) →
    topoOk (bitsOf w.toNat 30 2) (bitsOf w.toNat 27 3 + 1) (bitsOf w.toNat 24 3) = true → completes (.lnkTopoWrite w) s fun t =>
      t.topoKind = bitsOf w.toNat 30 2 ∧ t.nDev = bitsOf w.toNat 27 3 + 1 ∧ t.myDev = bitsOf w.toNat 24 3 ∧ t.lnk.links = []) ∧
  (∀ (s : State) (p : Nat) (w : BitVec 32), p < 4 → reaches s (Reg.LNK_PORT_CFG p) → bitsOf w.toNat 0 2 ≠ 3 →
    (bitsOf w.toNat 31 1 = 1 → s.portSt p = 0 → completes (.lnkPortEnable p w) s fun t => t.portSt p = 1 ∧
      t.rd (Reg.LNK_PORT_CFG_ENABLE p) = 1 ∧ t.rd (Reg.LNK_PORT_CFG_MIN_WIDTH p) = bitsOf w.toNat 0 2) ∧
    (bitsOf w.toNat 31 1 = 0 → s.portSt p = 1 → completes (.lnkPortEnable p w) s fun t => t.portSt p = 0 ∧
      t.rd (Reg.LNK_PORT_CFG_ENABLE p) = 0)) ∧
  (∀ (s : State) (p : Nat), p < 4 → s.portSt p = 5 → (s.lport p).back0 = 0 → (s.lport p).back1 = 0 → (s.lport p).back2 = 0 →
    (s.lport p).back30 = 0 → (s.lport p).back31 = 0 → completes (.lnkPortLehrEnd p) s fun t => t.portSt p = 0) ∧
  (∀ (s : State) (p width lanes : Nat) (q : PeerId), p < 4 → q.dev < 8 → q.port < 4 → s.portSt p = 1 →
    widthOk (s.rd (Reg.LNK_PORT_CFG_MIN_WIDTH p)) (min width (pairWidth lanes)) = true → q.kind = s.topoKind → q.ndev = s.nDev →
    wiredTo s.topoKind s.nDev s.myDev p = some (q.dev, q.port) → completes (.portTrainingDone p width q lanes) s fun t =>
      t.portSt p = 2 ∧ t.rd (Reg.LNK_PORT_STATUS_PEER_DEV p) = q.dev ∧ t.rd (Reg.LNK_PORT_STATUS_PEER_PORT p) = q.port ∧
      ((s.lport p).back1 = 0 → t.rd (Reg.LNK_PORT_CREDITS_TILE p) = 512)) ∧
  (∀ (s : State) (p l lanes : Nat), p < 4 → l < 8 → l ∉ (s.lport p).lanesBad → s.portSt p = 2 →
    lanes = s.rd (Reg.LNK_PORT_STATUS_LANES_OK p) → pairWidth (lanes - (if bitsOf lanes l 1 = 1 then 2 ^ l else 0)) ≠ 0 →
    completes (.lnkLaneFailure p l) s fun t => t.portSt p = 3 ∧ (t.lport p).lanesBad = (s.lport p).lanesBad ++ [l]) ∧
  (∀ (s : State) (p : Nat), p < 4 → s.portSt p = 2 → completes (.portDown p) s fun t => t.portSt p = 4) ∧
  (∀ (s0 s : State) (p dst tile h q : Nat), s = s0.wakeUp → s.portSt p = 2 → dst ≠ s.myDev → s.routePort dst tile = some q →
    completes (.flitReceive p true dst tile h) s0 fun t => Out.credits p h 1 ∈ t.out ∧ t.jobs = s.jobs) ∧
  (∀ (s : State) (p flit : Nat), p < 4 → s.portSt p = 2 → (s.lport p).flit = none → completes (.replayRequest p flit) s fun t =>
    (t.lport p).flit = some (flit, 1) ∧ Out.replay p ∈ t.out ∧
    t.rd (Reg.LNK_PORT_REPLAYS_COUNT p) = (s.rd (Reg.LNK_PORT_REPLAYS_COUNT p) + 1) % 2 ^ 32) ∧
  (∀ (s : State) (p n : Nat), p < 4 → (s.lport p).back1 = 0 → completes (.creditReturn p 1 0 n) s fun t =>
    t.rd (Reg.LNK_PORT_CREDITS_TILE p) = min 512 (s.rd (Reg.LNK_PORT_CREDITS_TILE p) + n)) ∧
  (∀ (s0 s : State) (dev ports : Nat), s = s0.wakeUp → dev < s.nDev → dev ≠ s.myDev → completes (.topologyUpdate dev ports) s0 fun t =>
    tget (fun _ => none) t.lnk.links dev = some (ports % 16)) ∧
  ∀ (s : State) (p dev q : Nat) (x : SentTile), s.portSt p = 2 → dev ≠ s.myDev → dev ∈ s.reachable →
    s.lnk.sent.filter (fun t => t.msg.dst == dev) = [x] → s.routePort x.msg.dst x.msg.id.tile = some q →
    completes (.peerRejoin p dev) s fun t => Out.tile q x.msg ∈ t.out ∧
      ∃ y ∈ t.lnk.sent, y.msg = x.msg ∧ y.receipt = false ∧ y.sends = 1

/-- R587, R588, R591, R592: station buffers, on-chip errors and the wipe of the secure SRAM. -/
def Obligations.MemoriesAllocatePassWaysAndCountErrors : Prop :=
  (∀ (s : State) (k svc bytes job : Nat), k < 8 →
    let room := sumNat (((List.range 16).filter (fun w => bitsOf (s.guard svc).ways w 1 == 1)).map (s.stationBuf k).linesFree)
    ((s.job? job).isSome = true → cdiv bytes 64 ≤ room → completes (.sbPinnedAlloc k svc bytes job) s fun t =>
      ∃ p, (t.stationBuf k).pinned = (s.stationBuf k).pinned ++ [p] ∧ p.svc = svc ∧ p.holder = .job job ∧ p.lines = cdiv bytes 64 ∧
        (t.stationBuf k).moving = (s.stationBuf k).moving) ∧
    (room < cdiv bytes 64 → completes (.sbPinnedAlloc k svc bytes job) s fun t => t = s)) ∧
  (∀ (s : State) (k way n line : Nat) (old : List Nat) (acc : List PortAccess), k < 8 → (s.stationBuf k).moving.find? (fun q => q.1 == way) = some (way, n) → 0 < n →
    (s.stationBuf k).pinned = [] → completes (.wayLinePass k way line old acc) s fun t =>
      (t.stationBuf k).moving.find? (fun q => q.1 == way) = (if n = 1 then none else some (way, n - 1)) ∧ (t.stationBuf k).pinned = []) ∧
  (∀ (s : State) (kind inst line : Nat) (owner : Option Nat), completes (.onChipEccError kind inst line owner true) s fun t =>
    t.rd Reg.MEM_ECC_CORR_COUNT = (s.rd Reg.MEM_ECC_CORR_COUNT + 1) % 2 ^ 32 ∧ onlyRegs [Reg.MEM_ECC_CORR] s t) ∧
  (∀ (s : State) (kind inst line : Nat) (owner : Option Nat), completes (.onChipEccError kind inst line owner false) s fun t =>
    t.rd Reg.MEM_ECC_UNCORR_COUNT = (s.rd Reg.MEM_ECC_UNCORR_COUNT + 1) % 2 ^ 32 ∧
    (5 < kind → t.sec = s.sec ∧ t.mem = s.mem ∧ t.jobs = s.jobs) ∧
    (kind = 5 → t.sec.key = none ∧ t.rd Reg.SEC_STATUS_KEY_READY = 0 ∧ t.sec.seed = s.sec.seed ∧ t.sec.lc = s.sec.lc)) ∧
  ∀ s : State, s.rd Reg.MEM_SECURE_STATUS_WIPING = 1 → completes .secureSramWipeDone s fun t =>
    t.rd Reg.MEM_SECURE_STATUS_WIPING = 0 ∧ t.sec.key = none ∧
    t.rd Reg.MEM_SECURE_STATUS_WIPES = (s.rd Reg.MEM_SECURE_STATUS_WIPES + 1) % 2 ^ 16 ∧
    t.rd Reg.MEM_SECURE_STATUS_LAST_CAUSE = s.rd Reg.MEM_SECURE_STATUS_LAST_CAUSE ∧
    t.sec.seed = s.sec.seed ∧ t.sec.lc = s.sec.lc

/-- R603 to R613, R624: requests, refresh, temperature, training and poison of the HBM. -/
def Obligations.HbmServesRefreshesTrainsAndPoisons : Prop :=
  (∀ (s : State) (p sym : Nat) (parity : Bool), 0 < (s.pchan p).postponed → (s.pchan p).urgent = false →
    completes (.hbmRequestIssue p [] parity sym) s fun t =>
      (t.pchan p).postponed = 0 ∧ (t.pchan p).openRows = [] ∧ (t.pchan p).queue = (s.pchan p).queue ∧ t.regs = s.regs) ∧
  (∀ (s : State) (p sym : Nat) (parity : Bool), (s.pchan p).postponed = 0 → (s.pchan p).queue = [] → (s.pchan p).pulled < 4 →
    completes (.hbmRequestIssue p [] parity sym) s fun t =>
      (t.pchan p).pulled = (s.pchan p).pulled + 1 ∧ (t.pchan p).openRows = [] ∧ t.regs = s.regs) ∧
  (∀ (s : State) (p sym : Nat) (r : HbmReq), (s.pchan p).postponed = 0 → (s.pchan p).queue = [r] → r.req.port < 24 →
    r.req.rank < 6 →
    completes (.hbmRequestIssue p [] false sym) s (fun t =>
      (t.pchan p).queue = [] ∧ (r.req.rank, r.req.bank, r.req.row) ∈ (t.pchan p).openRows ∧
      Out.hbm p r.req.line r.req.row r.req.write ∈ t.out ∧ t.rd (Reg.HBM_PORT_MAXLAT_NS r.req.port) =
        max (s.rd (Reg.HBM_PORT_MAXLAT_NS r.req.port)) (min (s.time.mono - r.at_) (2 ^ 31 - 1))) ∧
    completes (.hbmRequestIssue p [] true sym) s (fun t => (t.pchan p).queue = [r] ∧ t.out = s.out ∧ t.regs = s.regs)) ∧
  (∀ (s : State) (p i u : Nat) (r : HbmReq), (s.pchan p).queue[i]? = some r → r.req.port < 24 →
    u = urgencyOf r.target (s.time.mono - r.at_) →
    (r.req.kind = 1 → completes (.urgencyRise p i) s fun t => t = s) ∧
    (r.req.kind ≠ 1 → r.urgency < u → completes (.urgencyRise p i) s fun t =>
      (t.pchan p).queue = (s.pchan p).queue.set i { r with urgency := u } ∧
      t.rd (Reg.HBM_PORT_URG3_COUNT r.req.port) =
        (s.rd (Reg.HBM_PORT_URG3_COUNT r.req.port) + (if u = 3 then 1 else 0)) % 2 ^ 32)) ∧
  (∀ (s : State) (p : Nat), p < 64 → completes (.refresh p) s fun t =>
    t.rd (Reg.HBM_STK_REF_REF_INT_NS (p / 32)) = (if s.rd (Reg.HBM_STK_TEMP_DOUBLE (p / 32)) = 1 then 1950 else 3900) ∧
    (t.pchan p).queue = (s.pchan p).queue ∧ (t.pchan p).pulled = (s.pchan p).pulled - 1 ∧
    (t.pchan p).postponed = (if 0 < (s.pchan p).pulled then (s.pchan p).postponed
      else if (s.pchan p).urgent = true ∧ (s.pchan p).postponed < 4 then (s.pchan p).postponed + 1 else 0)) ∧
  (∀ (s : State) (k : Nat) (c : Int), k < 2 → completes (.hbmTempReading k c) s fun t =>
    t.rd (Reg.HBM_STK_TEMP_TEMP_C k) = (c % 256).toNat ∧ t.rd (Reg.HBM_STK_TEMP_HOT k) = (if 95 ≤ c then 1 else 0) ∧
    t.rd (Reg.HBM_STK_TEMP_DOUBLE k) =
      (if 85 ≤ c then 1 else if c < 80 then 0 else s.rd (Reg.HBM_STK_TEMP_DOUBLE k)) ∧
    (95 ≤ c → k ∈ t.pwr.hbmHalf ∧ t.rd Reg.PWR_EVENT_HBM_THROTTLE = 1) ∧ (c < 90 → k ∉ t.pwr.hbmHalf)) ∧
  (∀ (s : State) (k p : Nat), k < 2 →
    (s.rd (Reg.HBM_STK_TRAIN_TRAIN_OK k) = 0 → completes (.hbmTrainingDone k p true) s fun t =>
      t.rd (Reg.HBM_STK_TRAIN_TRAIN_OK k) = 1 ∧ onlyRegs [Reg.HBM_STK_TRAIN k] s t) ∧
    (s.rd (Reg.HBM_STK_TRAIN_TRAIN_OK k) = 0 → completes (.hbmTrainingDone k p false) s fun t =>
      t.rd (Reg.HBM_STK_TRAIN_TRAIN_OK k) = 0) ∧
    ∀ ok, s.rd (Reg.HBM_STK_TRAIN_TRAIN_OK k) = 1 → completes (.hbmTrainingDone k p ok) s fun t =>
      t.rd (Reg.HBM_STK_TRAIN_TRAIN_OK k) = 1 ∧
      t.rd (Reg.HBM_STK_TRAIN_RETRAINS k) = (s.rd (Reg.HBM_STK_TRAIN_RETRAINS k) + 1) % 2 ^ 8 ∧
      t.rd (Reg.HBM_STK_TRAIN_RETRAIN_FAIL k) = (if ok = true then s.rd (Reg.HBM_STK_TRAIN_RETRAIN_FAIL k)
        else min 255 (s.rd (Reg.HBM_STK_TRAIN_RETRAIN_FAIL k) + 1))) ∧
  (∀ (s : State) (p : Nat), completes (.dqTracking p) s fun t => t = s) ∧
  (∀ (s : State) (r line sym : Nat), r < 6 → s.rd Reg.HBM_CTRL_SCRUB_EN = 1 → s.rd Reg.PWR_STATUS_STATE < 3 → line ∉ s.hbm.poison →
    (sym = 0 → completes (.patrolScrub r line sym) s fun t => t = s) ∧
    (0 < sym → sym ≤ 3 → completes (.patrolScrub r line sym) s fun t =>
      t.rd (Reg.HBM_RNK_CE_TOTAL_COUNT r) = (s.rd (Reg.HBM_RNK_CE_TOTAL_COUNT r) + 1) % 2 ^ 32 ∧ t.hbm.poison = s.hbm.poison) ∧
    (3 < sym → completes (.patrolScrub r line sym) s fun t =>
      t.hbm.poison = s.hbm.poison ++ [line] ∧ r ∈ t.hbm.ueRanks ∧
      t.rd (Reg.HBM_RNK_UE_COUNT r) = (s.rd (Reg.HBM_RNK_UE_COUNT r) + 1) % 2 ^ 32 ∧
      t.rd Reg.HBM_POISONED_COUNT = (s.hbm.poison.length + 1) % 2 ^ 32)) ∧
  (∀ (s : State) (line : Nat),
    (∀ reader who, line ∉ s.hbm.poison → completes (.hbmPoisonRead line reader who) s fun t => t = s) ∧
    (∀ who, line ∈ s.hbm.poison → completes (.hbmPoisonRead line 1 who) s fun t => (t.stream who).rebuild = true) ∧
    ∀ who, line ∈ s.hbm.poison → completes (.hbmPoisonRead line 2 who) s fun t =>
      t.rd Reg.HIF_JRNL_CFG_MIRROR_VALID = 0 ∧ t.jrnl.rebuilding = true ∧ t.hbm.poison = s.hbm.poison) ∧
  ∀ (s : State) (p : Nat), p < 24 → reaches s (Reg.HBM_PORT_MAXLAT p) → completes (.hbmPortMaxlatClear p) s fun t =>
    t.rd (Reg.HBM_PORT_MAXLAT_NS p) = 0 ∧ onlyRegs [Reg.HBM_PORT_MAXLAT p] s t

/-- R601, R614 to R620, R624: the retirement of ranks and the moves it starts. -/
def Obligations.RanksRetireMigrateAndDrain : Prop :=
  (∀ (s : State) (r cause : Nat), r < 5 → s.retireDue r cause = true → s.rankState r = 0 →
    (∀ k, k < r → s.rankState k < 2 → s.dueCause k = none) →
    (s.hbm.retired = [] → completes (.rankRetire r cause) s fun t =>
      t.rankState r = 2 ∧ t.rankState 5 = 0 ∧ t.rd (Reg.HBM_RNK_STATE_TARGET r) = 5 ∧ t.rd (Reg.HBM_RNK_STATE_CAUSE r) = (if cause = 4 then (s.dueCause r).getD 4 else cause) ∧
      t.hbm.retired = [r] ∧ t.rd (Reg.HBM_RNK_CTRL_RETIRE r) = 0 ∧ t.rd Reg.HBM_STATUS_SPARE_AVAIL = 0 ∧
      t.rd Reg.HBM_STATUS_MIGRATING = 1 ∧ t.rd Reg.HBM_STATUS_USABLE_GIB = s.rd Reg.HBM_STATUS_USABLE_GIB) ∧
    (s.hbm.retired.length = 1 → completes (.rankRetire r cause) s fun t =>
      t.rankState r = 4 ∧ t.rd (Reg.HBM_RNK_STATE_CAUSE r) = (if cause = 4 then (s.dueCause r).getD 4 else cause) ∧ t.hbm.retired = s.hbm.retired ++ [r] ∧
      t.rd (Reg.HBM_RNK_CTRL_RETIRE r) = 0 ∧ t.rd Reg.HBM_STATUS_RETIRED = 2 ∧ t.rd Reg.HBM_STATUS_USABLE_GIB = 32) ∧
    (2 ≤ s.hbm.retired.length → completes (.rankRetire r cause) s fun t =>
      t.rankState r = 0 ∧ t.hbm.retired = s.hbm.retired ∧ t.rd (Reg.HBM_RNK_CTRL_RETIRE r) = 0)) ∧
  (∀ (s : State) (r : Nat), r < 6 → reaches s (Reg.HBM_RNK_CTRL r) →
    (s.rankState r < 2 → completes (.retire r) s fun t =>
      t.rd (Reg.HBM_RNK_CTRL_RETIRE r) = 1 ∧ onlyRegs [Reg.HBM_RNK_CTRL r] s t) ∧
    (2 ≤ s.rankState r → completes (.retire r) s fun t => t = s)) ∧
  (∀ (s : State) (r : Nat), r < 6 → s.rankState r = 2 → s.moveLeft r = 0 → (∀ k, k < r → s.rankState k = 2 → s.moveLeft k ≠ 0) →
    completes .migrationDone s fun t =>
    t.rankState r = 3 ∧ (∀ k, k < 6 → k ≠ r → t.rankState k = s.rankState k) ∧ t.hbm.retired = s.hbm.retired) ∧
  (∀ (s : State) (r : Nat), r < 6 → s.rankState r = 4 →
    ((s.poolC 7).withdraw = [] → s.moveLeft r = 0 → completes (.rankDrainDone r) s fun t =>
      t.rankState r = 3 ∧ (∀ k, k < 6 → k ≠ r → t.rankState k = s.rankState k) ∧ t.hbm.retired = s.hbm.retired) ∧
    ((s.poolC 7).withdraw ≠ [] ∨ s.moveLeft r ≠ 0 → completes (.rankDrainDone r) s fun t => t = s)) ∧
  ∀ (s : State) (f : Nat) (q : Nat × FrameEnt), s.hbm.copying.find? (fun q => q.1 == f) = some q →
    completes (.frameReplaceCopyDone f) s fun t => t.hbm.copying = s.hbm.copying.erase q ∧ t.regs = s.regs ∧ t.hbm.frames = s.hbm.frames

/-- R618: a spare that meets a condition of R614 becomes RETIRED with no copy; it counts as the first retirement, capacity stays, and
no spare remains. -/
def Obligations.ASpareRetiresWithNoCopy : Prop :=
  ∀ (s : State) (r cause : Nat), r < 6 → s.rankState r = 1 → s.retireDue r cause = true → s.hbm.retired = [] →
    (∀ k, k < r → s.rankState k < 2 → s.dueCause k = none) →
    completes (.rankRetire r cause) s fun t =>
      t.rankState r = 3 ∧ t.hbm.retired = [r] ∧ t.rd Reg.HBM_STATUS_RETIRED = 1 ∧ t.rd Reg.HBM_STATUS_SPARE_AVAIL = 0 ∧
      t.rd Reg.HBM_STATUS_USABLE_GIB = s.rd Reg.HBM_STATUS_USABLE_GIB ∧
      (∀ k, k < 6 → t.rd (Reg.HBM_RNK_STATE_TARGET k) = s.rd (Reg.HBM_RNK_STATE_TARGET k) ∧ (k ≠ r → t.rankState k = s.rankState k)) ∧
      t.hbm.frames = s.hbm.frames ∧ t.hbm.slots = s.hbm.slots ∧ t.hbm.copying = s.hbm.copying ∧
      ((∀ k, k < 6 → s.rankState k ≠ 2 ∧ s.rankState k ≠ 4) → t.rd Reg.HBM_STATUS_MIGRATING = 0)

/-- R657, R659, R661, R662, R666: the record file, fences and self-tests. -/
def Obligations.RecordsFencesAndSelfTests : Prop :=
  let recAt := fun (s : State) (e : Nat) => tget (fun _ => ({} : Rec)) s.hlth.recs e
  (∀ (s : State) (e : Nat), e < 128 → reaches s (0x1E01000 + 0x20 * e) → completes (.recordEntryClear e) s fun t =>
    recAt t e = {} ∧ (∀ k, k ≠ e → recAt t k = recAt s k) ∧ t.hlth.recFull = false) ∧
  (∀ s : State, reaches s Reg.HLTH_CTRL → completes .clearAll s fun t =>
    (∀ k, recAt t k = {}) ∧ t.rd Reg.HLTH_REC_USED_USED = 0 ∧ t.rd Reg.HLTH_REC_SUMMARY_CLASSES = 0 ∧
    onlyRegs [Reg.HLTH_REC_USED, Reg.HLTH_REC_SUMMARY] { s with hlth := t.hlth } t) ∧
  (∀ (s : State) (kind unit : Nat), unit < unitCount kind →
    (s.rd Reg.HLTH_HANG_HANG_US = 0 → completes (.hangDetection kind unit) s fun t => t = s) ∧
    (s.rd Reg.HLTH_HANG_HANG_US ≠ 0 → s.hasWork kind unit = true → completes (.hangDetection kind unit) s fun t =>
      t.isFenced kind unit = true)) ∧
  (∀ (s : State) (w : BitVec 32) (kind unit : Nat), reaches s Reg.HLTH_UNFENCE → kind = bitsOf w.toNat 8 2 → unit = bitsOf w.toNat 0 6 →
    unit < unitCount kind →
    (s.isFenced kind unit = false → completes (.hlthUnfence w) s fun t => t = s) ∧
    (s.isFenced kind unit = true → completes (.hlthUnfence w) s fun t =>
      ({ kind := kind, unit := unit } : UnitId) ∈ t.hlth.testing ∧ t = { s with hlth := { s.hlth with testing := t.hlth.testing } })) ∧
  ∀ (s : State) (kind unit : Nat), unit < unitCount kind → ({ kind := kind, unit := unit } : UnitId) ∈ s.hlth.testing →
    (kind = 0 → s.rd (Reg.HLTH_GRP_SET_EXHAUSTED (unit / 8)) = 0) →
    (s.isFenced kind unit = true → completes (.selfTestDone kind unit 0) s fun t => t.isFenced kind unit = false) ∧
    (s.isFenced kind unit = false → completes (.selfTestDone kind unit 0) s fun t =>
      t = { s with hlth := { s.hlth with testing := s.hlth.testing.erase { kind := kind, unit := unit } } }) ∧
    ∀ n, n ≠ 0 → completes (.selfTestDone kind unit n) s fun t => t.isFenced kind unit = true

/-- R667 to R672: margin plans. -/
def Obligations.MarginPlansFallDueRunAndEnd : Prop :=
  (∀ s : State, s.planSt = 0 →
    let due := max 1 (s.rd Reg.HLTH_PLAN_CFG_INTERVAL_H) * 3600 * 10 ^ 9
    let passed := s.time.mono - s.rd64 Reg.HLTH_PLAN_LAST_LO Reg.HLTH_PLAN_LAST_HI
    (due ≤ passed → completes .marginPlanDue s fun t => t.planSt = (if s.rd Reg.PWR_STATUS_STATE = 3 then 2 else 1) ∧
      (s.rd Reg.PWR_STATUS_STATE = 0 → t.hlth.planDue = s.time.mono ∧ onlyRegs [Reg.HLTH_STATUS] { s with hlth := t.hlth } t)) ∧
    (passed < due → completes .marginPlanDue s fun t => t = s)) ∧
  (∀ s : State, s.planSt = 1 →
    (s.rd Reg.SCHED_STATUS_FREE_CORES = 64 → s.sched.ready = [] → completes .idleMoment s fun t => t.planSt = 2 ∧
      t.rd Reg.HLTH_CTRL_PLAN_NOW = 0 ∧ t.hlth.measured = []) ∧
    (s.rd Reg.SCHED_STATUS_FREE_CORES ≠ 64 → completes .idleMoment s fun t => t = s) ∧
    (s.hlth.planDue + s.rd Reg.HLTH_PLAN_CFG_DEFER_H * 3600 * 10 ^ 9 ≤ s.time.mono → completes .planForced s fun t => t.planSt = 2 ∧ t.rd Reg.HLTH_CTRL_PLAN_NOW = 0 ∧ t.hlth.measured = [] ∧
      t.counter 0x0E03 0 = (s.counter 0x0E03 0 + 1) % 2 ^ 64)) ∧
  (∀ s : State, reaches s Reg.HLTH_CTRL → completes .planNow s fun t =>
    t.rd Reg.HLTH_CTRL_PLAN_NOW = 1 ∧ onlyRegs [Reg.HLTH_CTRL, Reg.HLTH_STATUS] { s with hlth := t.hlth } t ∧
    t.planSt = (if s.planSt = 0 then 1 else if s.planSt = 2 then 3 else s.planSt)) ∧
  (∀ (s : State) (m a b : Nat), m < 48 → 2 ≤ s.planSt →
    (a = 0 ∨ b = 0 → completes (.ageingMeasurementDone m a b) s fun t => t.rd (Reg.HLTH_AGE_MON_VALID m) = 0 ∧
      m ∈ t.hlth.measured ∧ t.planSt = s.planSt) ∧
    (0 < a → 0 < b → 1000 * b ≤ 1001 * a → completes (.ageingMeasurementDone m a b) s fun t =>
      t.rd (Reg.HLTH_AGE_MON_VALID m) = 1 ∧ t.rd (Reg.HLTH_AGE_MON_PPM m) = (degradation a b % 2 ^ 31).toNat ∧
      t.hlth.measured = s.hlth.measured ++ [m] ∧ tget (fun _ => none) t.hlth.monitors m = some (degradation a b))) ∧
  ∀ s : State, (∀ m, m < 48 → m ∈ s.hlth.measured) →
    (s.planSt = 2 → completes .marginPlanEnd s fun t => t.planSt = 0 ∧ t.pwr.firstPlan = true ∧ Out.retrain ∈ t.out) ∧
    (s.planSt = 3 → completes .marginPlanEnd s fun t => t.planSt = 2 ∧ t.hlth.measured = [] ∧ t.pwr.firstPlan = true)

/-- R674 to R676: hoist sources and the arming of the snapshot. -/
def Obligations.HoistsLatchWhileArmed : Prop :=
  let latched := fun (s t : State) (bit : Nat) => t.rd Reg.SNAP_CTRL_ARM = 0 ∧ t.rd Reg.SNAP_STATUS_HELD = 1 ∧
    t.rd Reg.SNAP_STATUS_SOURCE = 2 ^ bit ∧ t.snap.heldMono = s.time.mono ∧
    t.rd64 Reg.SNAP_AT_MONO_LO Reg.SNAP_AT_MONO_HI = s.time.mono % 2 ^ 64
  let missed := fun (s t : State) => t.rd Reg.SNAP_MISSED_COUNT = (s.rd Reg.SNAP_MISSED_COUNT + 1) % 2 ^ 32 ∧
    t.counter 0x0E06 0 = (s.counter 0x0E06 0 + 1) % 2 ^ 64 ∧ (s.rd Reg.PWR_STATUS_STATE = 0 → onlyRegs [Reg.SNAP_MISSED]
      { s with counters := t.counters, snap := { s.snap with lastEdge := t.snap.lastEdge } } t)
  (∀ s : State, reaches s Reg.SNAP_CTRL →
    (s.rd Reg.SNAP_CTRL_ARM = 1 → s.snap.armMono ≠ some s.time.mono → completes .hoist s fun t => latched s t 0) ∧
    (s.rd Reg.SNAP_CTRL_ARM = 0 → s.rd Reg.SNAP_STATUS_HELD = 0 → completes .hoist s fun t => missed s t)) ∧
  (∀ (s : State) (rising : Bool) (ago : Nat),
    (s.rd Reg.SNAP_CTRL_SRC_PIN = 1 →
      (s.rd Reg.SNAP_PIN_CFG_EDGE = 3 ∨ s.rd Reg.SNAP_PIN_CFG_EDGE = (if rising then 1 else 2)) → s.snapEdgeCounts ago = true →
      (s.rd Reg.SNAP_CTRL_ARM = 1 → s.snap.armMono ≠ some s.time.mono → completes (.snapInEdge rising ago) s fun t => latched s t 1) ∧
      (s.rd Reg.SNAP_CTRL_ARM = 0 → s.rd Reg.SNAP_STATUS_HELD = 0 → completes (.snapInEdge rising ago) s fun t => missed s t)) ∧
    (s.rd Reg.SNAP_CTRL_SRC_PIN = 0 → completes (.snapInEdge rising ago) s fun t => t = s)) ∧
  (∀ s : State,
    (s.rd Reg.SNAP_CTRL_SRC_TIME = 1 → s.snapTime ≤ s.time.sec * 10 ^ 9 + s.time.ns →
      (s.rd Reg.SNAP_CTRL_ARM = 1 → s.snap.armMono ≠ some s.time.mono → completes .snapTimeMatch s fun t => latched s t 3) ∧
      (s.rd Reg.SNAP_CTRL_ARM = 0 → s.rd Reg.SNAP_STATUS_HELD = 0 → completes .snapTimeMatch s fun t => missed s t)) ∧
    (s.rd Reg.SNAP_CTRL_SRC_TIME = 0 → completes .snapTimeMatch s fun t => t = s)) ∧
  ∀ s : State, reaches s Reg.SNAP_CTRL → completes .snapArm s fun t =>
    t.rd Reg.SNAP_CTRL_ARM = 1 ∧ t.rd Reg.SNAP_STATUS_HELD = 0 ∧ t.rd Reg.SNAP_STATUS_SOURCE = 0 ∧ t.reg Reg.SNAP_CAUSE = 0 ∧
    t.snap.armMono = some s.time.mono ∧ t.snap.window = s.snap.window

/-- R707 to R711, R713: the lifecycle commands. -/
def Obligations.LifecycleCommandsFollowTheirTable : Prop :=
  let fails := fun (t : State) (code : Nat) => t.rd Reg.SEC_LC_STATUS_STATE = 3 ∧ t.rd Reg.SEC_LC_STATUS_RESULT = code
  let succeeds := fun (t : State) => t.rd Reg.SEC_LC_STATUS_STATE = 2 ∧ t.rd Reg.SEC_LC_STATUS_RESULT = 0
  let burns := fun (s t : State) (new : Nat) => t.rd Reg.SEC_LC_STATUS_STATE = 1 ∧ t.sec.busy = some new ∧
    t.sec.lc = s.sec.lc.set 0 new ∧ t.sec.endorsement = s.sec.endorsement
  let legal : State → Nat → List (Instr × Bool) := fun s k => [(.challenge, s.lifecycle != 4), (.provision, s.lifecycle == 0),
    (.endorse, s.lifecycle == 1 && s.sec.endorsement.isNone), (.production, s.lifecycle == 1 && s.sec.endorsement.isSome),
    (.returnCmd, s.lifecycle == 2), (.terminate, s.lifecycle != 4),
    (.revoke k, s.lifecycle != 4 && decide (k < 3) && (s.rd Reg.SEC_KEYSLOTS_REVOKED ||| 2 ^ k) % 4 != 3)]
  (∀ (s : State) (i : Instr), reaches s Reg.SEC_LC_CMD → s.rd Reg.SEC_LC_STATUS_STATE = 1 →
    i ∈ [.challenge, .provision, .endorse, .production, .returnCmd, .terminate, .revoke 0, .revoke 1, .revoke 2] →
      completes i s fun t => t.sec = s.sec ∧ t.rd Reg.SEC_LC_STATUS_STATE = 1) ∧
  ∀ s : State, reaches s Reg.SEC_LC_CMD → s.rd Reg.SEC_LC_STATUS_STATE ≠ 1 →
    (s.lifecycle ≠ 4 → completes .challenge s fun t => succeeds t ∧ t.sec.challengeOk = true ∧ t.sec.draws = s.sec.draws + 1 ∧
      t.regBytes (Reg.SEC_CHALLENGE 0) 8 = bytesOf 32 (Config.randomChallenge s.sec.draws).toNat ∧ t.sec.lc = s.sec.lc) ∧
    (∀ (k : Nat) (i : Instr), (i, false) ∈ legal s k → completes i s fun t => fails t 0x0F0A ∧ t.sec = s.sec) ∧
    (∀ i : Instr, i ∈ [.provision, .production, .returnCmd, .terminate] → (i, true) ∈ legal s 0 → s.lcQuiet = false →
      completes i s fun t => fails t 0x0F09 ∧ t.sec = s.sec) ∧
    (∀ (i : Instr) (op lc : Nat), (i, op, lc) ∈ [(.provision, 2, 0), (.returnCmd, 5, 2), (.terminate, 6, 2)] → s.lifecycle = lc →
      s.lcQuiet = true → s.tokenOk op 0 = false → completes i s fun t =>
        fails t 0x0F08 ∧ t.sec = { s.sec with challengeOk := false }) ∧
    (s.lifecycle = 0 → s.lcQuiet = true → s.tokenOk 2 0 = true → completes .provision s fun t =>
      burns s t 1 ∧ t.sec.seed = some (Config.randomSeed s.sec.draws) ∧ t.sec.challengeOk = false) ∧
    (∀ k, s.lifecycle = 1 → s.sec.endorsement = none → s.endorseSlot = some k → completes .endorse s fun t =>
      succeeds t ∧ (∃ g, t.sec.endorsement = some (g, k)) ∧ t.rd Reg.SEC_STATUS_ENDORSED = 1 ∧ t.sec.lc = s.sec.lc) ∧
    (s.lifecycle = 1 → s.sec.endorsement = none → s.endorseSlot = none → completes .endorse s fun t =>
      fails t 0x0F08 ∧ t.sec = s.sec) ∧
    (s.lifecycle = 1 → s.sec.endorsement.isSome = true → s.lcQuiet = true → completes .production s fun t => burns s t 2) ∧
    (s.lifecycle = 2 → s.lcQuiet = true → s.tokenOk 5 0 = true → completes .returnCmd s fun t =>
      burns s t 3 ∧ t.sec.challengeOk = false ∧ t.sec.seed = s.sec.seed) ∧
    (s.lifecycle ≠ 4 → (s.lifecycle = 2 → s.tokenOk 6 0 = true) → s.lcQuiet = true → completes .terminate s fun t =>
      burns s t 4 ∧ t.sec.seed = some (BitVec.allOnes 256)) ∧
    (∀ k, k < 3 → s.lifecycle ≠ 4 →
      ((s.rd Reg.SEC_KEYSLOTS_REVOKED ||| 2 ^ k) % 4 ≠ 3 → s.tokenOk 7 k = true → completes (.revoke k) s fun t =>
        succeeds t ∧ t.rd Reg.SEC_KEYSLOTS_REVOKED = s.rd Reg.SEC_KEYSLOTS_REVOKED ||| 2 ^ k ∧ t.sec.challengeOk = false) ∧
      ((s.rd Reg.SEC_KEYSLOTS_REVOKED ||| 2 ^ k) % 4 ≠ 3 → s.tokenOk 7 k = false → completes (.revoke k) s fun t =>
        fails t 0x0F08 ∧ t.rd Reg.SEC_KEYSLOTS_REVOKED = s.rd Reg.SEC_KEYSLOTS_REVOKED ∧ t.sec = { s.sec with challengeOk := false })) ∧
    ∀ n, n ≤ 4 → s.sec.busy = some n → completes .lcCommandDone s fun t =>
      succeeds t ∧ t.sec.lc = [n, n, n] ∧ t.lifecycle = n ∧ t.rd Reg.SEC_STATUS_LIFECYCLE = n ∧ t.sec.busy = none ∧ t.sec.key = none ∧
      t.rd Reg.MEM_SECURE_STATUS_WIPING = 1

/-- R712 to R724: keys, signing requests, verified boot and tamper events. -/
def Obligations.SigningBootAndTamper : Prop :=
  (∀ s : State, s.sec.reDeriving = true → s.rd Reg.MEM_SECURE_STATUS_WIPING = 0 → completes .keyDerivationDone s fun t =>
    t.sec = { s.sec with key := s.identityKey, reDeriving := false } ∧
    t.rd Reg.SEC_STATUS_KEY_READY = (if s.identityKey.isSome = true then 1 else 0) ∧ onlyRegs [Reg.SEC_STATUS] { s with sec := t.sec } t) ∧
  (∀ s : State, reaches s Reg.SEC_CTRL →
    (s.sec.quoteReq.isSome = true → completes .quoteGo s fun t => t = s) ∧
    (s.sec.burgeeReq.isSome = true → completes .burgeeGo s fun t => t = s) ∧
    (s.sec.quoteReq = none → s.sec.key.isSome = true → completes .quoteGo s fun t =>
      t.rd Reg.SEC_CTRL_QUOTE_GO = 1 ∧ t.rd Reg.SEC_STATUS_QUOTE_DONE = 0 ∧ onlyRegs [Reg.SEC_CTRL, Reg.SEC_STATUS] { s with sec := t.sec } t ∧
      ∃ q, t.sec = { s.sec with quoteReq := some q } ∧ q.nonce = s.nonce ∧ q.mono = s.time.mono) ∧
    (s.sec.burgeeReq = none → s.sec.key.isSome = true → completes .burgeeGo s fun t =>
      t.rd Reg.SEC_CTRL_BURGEE_GO = 1 ∧ t.rd Reg.SEC_STATUS_BURGEE_DONE = 0 ∧ onlyRegs [Reg.SEC_CTRL, Reg.SEC_STATUS] { s with sec := t.sec } t ∧
      ∃ q, t.sec = { s.sec with burgeeReq := some q } ∧ q.nonce = s.nonce ∧ q.mono = s.time.mono) ∧
    (s.sec.quoteReq = none → s.sec.key = none → s.sec.reDeriving = false → completes .quoteGo s fun t =>
      t.rd Reg.SEC_CTRL_QUOTE_GO = 0 ∧ t.rd Reg.SEC_STATUS_QUOTE_DONE = 0 ∧ t.sec = s.sec) ∧
    (s.sec.burgeeReq = none → s.sec.key = none → s.sec.reDeriving = false → completes .burgeeGo s fun t =>
      t.rd Reg.SEC_CTRL_BURGEE_GO = 0 ∧ t.rd Reg.SEC_STATUS_BURGEE_DONE = 0 ∧ t.sec = s.sec)) ∧
  (∀ s : State, s.sec.key.isSome = true →
    (s.sec.quoteReq.isSome = true → completes .quoteDone s fun t => t.sec.quotes = s.sec.quotes + 1 ∧ t.sec.quoteReq = none ∧
      t.rd Reg.SEC_CTRL_QUOTE_GO = 0 ∧ t.rd Reg.SEC_STATUS_QUOTE_DONE = 1 ∧ t.sec.key = s.sec.key) ∧
    (s.sec.burgeeReq.isSome = true → s.sec.quoteReq = none → completes .burgeeDone s fun t => t.sec.burgeeReq = none ∧
      t.rd Reg.SEC_CTRL_BURGEE_GO = 0 ∧ t.rd Reg.SEC_STATUS_BURGEE_DONE = 1 ∧ t.sec.key = s.sec.key)) ∧
  (∀ (s : State) (key : Nat), reaches s Reg.SEC_CTRL →
    (key = 0xA5 → s.rd Reg.SEC_STATUS_SVN_FUSE < s.rd Reg.SEC_STATUS_SVN_RUN → completes (.svnCommit key) s fun t =>
      t.rd Reg.SEC_STATUS_SVN_FUSE = s.rd Reg.SEC_STATUS_SVN_RUN ∧ onlyRegs [Reg.SEC_STATUS] s t) ∧
    (key ≠ 0xA5 ∨ s.rd Reg.SEC_STATUS_SVN_RUN ≤ s.rd Reg.SEC_STATUS_SVN_FUSE → completes (.svnCommit key) s fun t => t = s)) ∧
  (∀ s : State, reaches s Reg.SEC_CTRL →
    (s.pwr.romService = true → s.lifecycle ≠ 4 → completes .recovGo s fun t => t.rd Reg.SEC_CTRL_RECOV_GO = 1 ∧ onlyRegs [Reg.SEC_CTRL] s t) ∧
    (s.pwr.romService = false ∨ s.lifecycle = 4 → completes .recovGo s fun t => t = s)) ∧
  (∀ (s : State) (image : Nat) (data d : List Nat), image < 3 → s.imageDue = some image →
    d = (if image = 2 then data.take (s.rd Reg.SEC_RECOV_LEN_LENGTH) else data) →
    ((s.wr Reg.SEC_CTRL_RECOV_GO 0).imageCheck d = none → completes (.imageVerifyDone image data) s fun t =>
      t.pwr.fwRunning = true ∧ t.pwr.romService = false ∧ t.rd Reg.SEC_BOOT_IMAGE = image) ∧
    (d.length < 256 → completes (.imageVerifyDone image data) s fun t =>
      t.rd Reg.SEC_BOOT_FAIL_CODE = 0x0F01 ∧ t.pwr.fwRunning = s.pwr.fwRunning ∧ (image < 2 → t.sec.badImages = image + 1) ∧
      t.pwr.romService = (if image = 1 then true else s.pwr.romService))) ∧
  (∀ (s : State) (source rail : Nat),
    (bitsOf (s.rd Reg.SEC_TAMPER_EN_EN) source 1 = 0 → completes (.tamperEvent source rail) s fun t => t = s) ∧
    (bitsOf (s.rd Reg.SEC_TAMPER_EN_EN) source 1 = 1 → completes (.tamperEvent source rail) s fun t =>
      t.rd Reg.SEC_TAMPER_LATCHED = 1 ∧ t.rd Reg.SEC_TAMPER_SOURCES = s.rd Reg.SEC_TAMPER_SOURCES ||| 2 ^ source ∧
      t.rd Reg.SEC_STATUS_KEY_READY = 0 ∧ t.rd Reg.MEM_SECURE_STATUS_WIPING = 1 ∧ t.sec.key = none ∧ t.sec.tampered = true ∧
      t.sec.reDeriving = false ∧ t.jobs = s.jobs)) ∧
  ∀ (s : State) (w : BitVec 32), reaches s Reg.SEC_TAMPER_CLR →
    (bitsOf w.toNat 24 8 = 0xA5 → bitsOf w.toNat 0 1 = 1 → completes (.secTamperClr w) s fun t =>
      t.rd Reg.SEC_TAMPER_LATCHED = 0 ∧ t.rd Reg.SEC_TAMPER_RAIL = 0xFF ∧ t.rd Reg.SEC_TAMPER_SOURCES = 0 ∧ onlyRegs [Reg.SEC_TAMPER] s t) ∧
    (bitsOf w.toNat 24 8 ≠ 0xA5 → completes (.secTamperClr w) s fun t => t = s)
end

