-- ==== Sys2Proof/Laws/Bits.lean ====
section
/-! SUPPORT. What a bit field reads after a field of the same word is replaced. -/

set_option Elab.async false

namespace Sys2Proof.Machine

theorem bitsOf_eq (x lo w : Nat) : bitsOf x lo w = x / 2 ^ lo % 2 ^ w := by
  simp [bitsOf, Nat.shiftRight_eq_div_pow]

theorem bitsOf_lt (x lo w : Nat) : bitsOf x lo w < 2 ^ w := by
  rw [bitsOf_eq]; exact Nat.mod_lt _ (Nat.two_pow_pos w)

theorem putBits_eq (x lo w v : Nat) :
    putBits x lo w v = (x / 2 ^ (lo + w) * 2 ^ w + v % 2 ^ w) * 2 ^ lo + x % 2 ^ lo := by
  simp only [putBits, Nat.shiftRight_eq_div_pow, Nat.shiftLeft_eq, Nat.add_mul]
  rw [Nat.mul_assoc, ← Nat.pow_add, Nat.add_comm w lo]

theorem putBits_div_lo (x lo w v : Nat) : putBits x lo w v / 2 ^ lo = x / 2 ^ (lo + w) * 2 ^ w + v % 2 ^ w := by
  rw [putBits_eq, Nat.add_comm, Nat.add_mul_div_right _ _ (Nat.two_pow_pos lo),
    Nat.div_eq_of_lt (Nat.mod_lt _ (Nat.two_pow_pos lo)), Nat.zero_add]

theorem putBits_mod_lo (x lo w v : Nat) : putBits x lo w v % 2 ^ lo = x % 2 ^ lo := by
  rw [putBits_eq, Nat.add_comm, Nat.add_mul_mod_self_right, Nat.mod_mod]

theorem putBits_div_hi (x lo w v : Nat) : putBits x lo w v / 2 ^ (lo + w) = x / 2 ^ (lo + w) := by
  rw [Nat.pow_add, ← Nat.div_div_eq_div_mul, putBits_div_lo, Nat.add_comm, Nat.add_mul_div_right _ _ (Nat.two_pow_pos w),
    Nat.div_eq_of_lt (Nat.mod_lt _ (Nat.two_pow_pos w)), Nat.zero_add, Nat.pow_add]

/-- The replaced field reads the value written, cut to its width. -/
theorem bitsOf_putBits_same (x lo w v : Nat) : bitsOf (putBits x lo w v) lo w = v % 2 ^ w := by
  rw [bitsOf_eq, putBits_div_lo, Nat.add_comm, Nat.add_mul_mod_self_right, Nat.mod_mod]

/-- A field that lies wholly above or below keeps its value. -/
theorem bitsOf_putBits_other (x lo w v lo2 w2 : Nat) (h : lo2 + w2 ≤ lo ∨ lo + w ≤ lo2) :
    bitsOf (putBits x lo w v) lo2 w2 = bitsOf x lo2 w2 := by
  rw [bitsOf_eq, bitsOf_eq]
  rcases h with h | h
  · have key : ∀ y : Nat, y / 2 ^ lo2 % 2 ^ w2 = (y % 2 ^ lo) / 2 ^ lo2 % 2 ^ w2 := by
      intro y
      have e : lo = lo2 + (w2 + (lo - lo2 - w2)) := by omega
      rw [e, Nat.pow_add 2 lo2, Nat.mod_mul_right_div_self, Nat.pow_add, Nat.mod_mul_right_mod]
    rw [key, putBits_mod_lo, ← key]
  · have key : ∀ y : Nat, y / 2 ^ lo2 = y / 2 ^ (lo + w) / 2 ^ (lo2 - (lo + w)) := by
      intro y
      rw [Nat.div_div_eq_div_mul, ← Nat.pow_add]
      congr 2
      omega
    rw [key, putBits_div_hi, ← key]

theorem putBits_lt (x lo w v n : Nat) (hx : x < 2 ^ n) (h : lo + w ≤ n) : putBits x lo w v < 2 ^ n := by
  have e : n = (n - (lo + w)) + (lo + w) := by omega
  rw [e, Nat.pow_add, ← Nat.div_lt_iff_lt_mul (Nat.two_pow_pos (lo + w)), putBits_div_hi,
    Nat.div_lt_iff_lt_mul (Nat.two_pow_pos (lo + w)), ← Nat.pow_add, ← e]
  exact hx

end Sys2Proof.Machine
end

