-- ==== Sys2Proof/Laws/Tbl.lean ====
section
/-! SUPPORT. What a sparse table reads after a write, and that a write keeps its canonical form. -/

set_option Elab.async false

namespace Sys2Proof.Machine

variable {α : Type}

@[simp] theorem tget_nil (d : Nat → α) (i : Nat) : tget d [] i = d i := rfl

theorem tget_cons (d : Nat → α) (k : Nat) (v : α) (t : Tbl α) (i : Nat) :
    tget d ((k, v) :: t) i = if k = i then v else tget d t i := rfl

theorem tget_tput_same (d : Nat → α) (t : Tbl α) (i : Nat) (x : α) : tget d (tput t i x) i = x := by
  induction t with
  | nil => simp [tput, tget]
  | cons p t ih =>
    obtain ⟨k, v⟩ := p
    unfold tput
    split
    · simp [tget]
    · split <;> simp_all [tget]

theorem tget_tput_other (d : Nat → α) (t : Tbl α) (i j : Nat) (x : α) (h : j ≠ i) :
    tget d (tput t i x) j = tget d t j := by
  induction t with
  | nil => simp [tput, tget, Ne.symm h]
  | cons p t ih =>
    obtain ⟨k, v⟩ := p
    unfold tput
    split
    · simp_all [tget, Ne.symm h]
    · split <;> simp_all [tget, Ne.symm h]

theorem tget_tdel_same (d : Nat → α) (t : Tbl α) (i : Nat) : tget d (tdel t i) i = d i := by
  induction t with
  | nil => rfl
  | cons p t ih =>
    obtain ⟨k, v⟩ := p
    unfold tdel
    split <;> simp_all [tget]

theorem tget_tdel_other (d : Nat → α) (t : Tbl α) (i j : Nat) (h : j ≠ i) : tget d (tdel t i) j = tget d t j := by
  induction t with
  | nil => rfl
  | cons p t ih =>
    obtain ⟨k, v⟩ := p
    unfold tdel
    split <;> simp_all [tget, Ne.symm h]

/-- A read after a write to the same index gives the value written. -/
@[simp] theorem tget_tset_same [DecidableEq α] (d : Nat → α) (t : Tbl α) (i : Nat) (x : α) :
    tget d (tset d t i x) i = x := by
  unfold tset
  split
  · rw [tget_tdel_same]; exact (by assumption : x = d i).symm
  · exact tget_tput_same d t i x

/-- A write leaves every other index alone. -/
theorem tget_tset_other [DecidableEq α] (d : Nat → α) (t : Tbl α) (i j : Nat) (x : α) (h : j ≠ i) :
    tget d (tset d t i x) j = tget d t j := by
  unfold tset
  split
  · exact tget_tdel_other d t i j h
  · exact tget_tput_other d t i j x h

/-- A read after a write, at any index. -/
theorem tget_tset [DecidableEq α] (d : Nat → α) (t : Tbl α) (i j : Nat) (x : α) :
    tget d (tset d t i x) j = if j = i then x else tget d t j := by
  by_cases h : j = i
  · subst h; simp
  · rw [if_neg h]; exact tget_tset_other d t i j x h

theorem twfFrom_weaken [DecidableEq α] (d : Nat → α) (t : Tbl α) {a b : Nat} (hab : a ≤ b) (h : twfFrom d b t = true) :
    twfFrom d a t = true := by
  cases t with
  | nil => rfl
  | cons p t =>
    obtain ⟨k, v⟩ := p
    simp only [twfFrom, Bool.and_eq_true, decide_eq_true_eq] at h ⊢
    exact ⟨⟨by omega, h.1.2⟩, h.2⟩

theorem tdel_wf [DecidableEq α] (d : Nat → α) (i : Nat) (t : Tbl α) :
    ∀ b, twfFrom d b t = true → twfFrom d b (tdel t i) = true := by
  induction t with
  | nil => intro b h; exact h
  | cons p t ih =>
    obtain ⟨k, v⟩ := p
    intro b h
    simp only [twfFrom, Bool.and_eq_true, decide_eq_true_eq] at h
    unfold tdel
    split
    · exact twfFrom_weaken d _ (by omega) (ih (k + 1) h.2)
    · simp only [twfFrom, Bool.and_eq_true, decide_eq_true_eq]
      exact ⟨h.1, ih (k + 1) h.2⟩

theorem tput_wf [DecidableEq α] (d : Nat → α) (i : Nat) (x : α) (hx : x ≠ d i) (t : Tbl α) :
    ∀ b, b ≤ i → twfFrom d b t = true → twfFrom d b (tput t i x) = true := by
  induction t with
  | nil => intro b hb _; simp [tput, twfFrom, hb, hx]
  | cons p t ih =>
    obtain ⟨k, v⟩ := p
    intro b hb h
    simp only [twfFrom, Bool.and_eq_true, decide_eq_true_eq] at h
    unfold tput
    split
    · rename_i hk
      subst hk
      simp only [twfFrom, Bool.and_eq_true, decide_eq_true_eq]
      exact ⟨⟨h.1.1, hx⟩, h.2⟩
    · split
      · simp only [twfFrom, Bool.and_eq_true, decide_eq_true_eq]
        exact ⟨⟨hb, hx⟩, ⟨by omega, h.1.2⟩, h.2⟩
      · simp only [twfFrom, Bool.and_eq_true, decide_eq_true_eq]
        exact ⟨h.1, ih (k + 1) (by omega) h.2⟩

/-- A write keeps the canonical form. -/
theorem tset_wf [DecidableEq α] (d : Nat → α) (t : Tbl α) (i : Nat) (x : α) (h : twf d t = true) :
    twf d (tset d t i x) = true := by
  unfold tset
  split
  · exact tdel_wf d i t 0 h
  · exact tput_wf d i x (by assumption) t 0 (Nat.zero_le i) h

theorem filter_wf [DecidableEq α] (d : Nat → α) (p : Nat × α → Bool) (t : Tbl α) :
    ∀ b, twfFrom d b t = true → twfFrom d b (t.filter p) = true := by
  induction t with
  | nil => intro b h; exact h
  | cons q t ih =>
    obtain ⟨k, v⟩ := q
    intro b h
    simp only [twfFrom, Bool.and_eq_true, decide_eq_true_eq] at h
    rw [List.filter_cons]
    split
    · simp only [twfFrom, Bool.and_eq_true, decide_eq_true_eq]
      exact ⟨h.1, ih (k + 1) h.2⟩
    · exact twfFrom_weaken d _ (by omega) (ih (k + 1) h.2)

end Sys2Proof.Machine
end

