-- ==== Sys2Proof/Laws/Reg.lean ====
section
/-! SUPPORT. Registers and counters: what a read gives after a write, what a write leaves alone, and that each keeps the canonical
form of its table. -/

set_option Elab.async false

namespace Sys2Proof.Machine

/-- What holds of both branches. -/
theorem ite_both {α : Type} {P : α → Prop} {c : Prop} [Decidable c] {a b : α} (ha : P a) (hb : P b) : P (if c then a else b) := by
  split
  · exact ha
  · exact hb

/-! ### Whole registers -/

@[simp] theorem reg_setReg_same (s : State) (a : Nat) (v : BitVec 32) : (s.setReg a v).reg a = v := by
  simp [State.reg, State.setReg]

theorem reg_setReg_other (s : State) (a b : Nat) (v : BitVec 32) (h : b ≠ a) : (s.setReg a v).reg b = s.reg b := by
  simp only [State.reg, State.setReg]
  exact tget_tset_other _ _ _ _ _ h

theorem reg_setReg (s : State) (a b : Nat) (v : BitVec 32) :
    (s.setReg a v).reg b = if b = a then v else s.reg b := by
  simp only [State.reg, State.setReg]
  exact tget_tset _ _ _ _ _

/-- Storing a register changes the register file alone. -/
theorem setReg_eq (s : State) (a : Nat) (v : BitVec 32) : s.setReg a v = { s with regs := tset regReset s.regs a v } := rfl

/-! ### Fields -/

theorem reg_wr_other (s : State) (f : RegField) (v b : Nat) (h : b ≠ f.addr) : (s.wr f v).reg b = s.reg b :=
  reg_setReg_other _ _ _ _ h

/-- A field reads what was stored in it, cut to its width. -/
theorem rd_wr_same (s : State) (f : RegField) (v : Nat) (h : f.lo + f.w ≤ 32) : (s.wr f v).rd f = v % 2 ^ f.w := by
  have hl : putBits (s.reg f.addr).toNat f.lo f.w v < 2 ^ 32 := putBits_lt _ _ _ _ _ (s.reg f.addr).isLt h
  simp only [State.rd, State.wr, reg_setReg_same, BitVec.toNat_ofNat]
  rw [Nat.mod_eq_of_lt hl, bitsOf_putBits_same]

/-- A field of another register keeps its value. -/
theorem rd_wr_reg (s : State) (f g : RegField) (v : Nat) (h : g.addr ≠ f.addr) : (s.wr f v).rd g = s.rd g := by
  simp only [State.rd, reg_wr_other s f v g.addr h]

/-- Another field of the same register keeps its value. -/
theorem rd_wr_field (s : State) (f g : RegField) (v : Nat) (ha : g.addr = f.addr) (hw : f.lo + f.w ≤ 32)
    (h : g.lo + g.w ≤ f.lo ∨ f.lo + f.w ≤ g.lo) : (s.wr f v).rd g = s.rd g := by
  have hl : putBits (s.reg f.addr).toNat f.lo f.w v < 2 ^ 32 := putBits_lt _ _ _ _ _ (s.reg f.addr).isLt hw
  simp only [State.rd, State.wr, ha, reg_setReg_same, BitVec.toNat_ofNat]
  rw [Nat.mod_eq_of_lt hl, bitsOf_putBits_other _ _ _ _ _ _ h]

/-- A field that a store does not touch keeps its value. -/
theorem rd_wr_other (s : State) (f g : RegField) (v : Nat) (hw : f.lo + f.w ≤ 32)
    (h : g.addr ≠ f.addr ∨ g.lo + g.w ≤ f.lo ∨ f.lo + f.w ≤ g.lo) : (s.wr f v).rd g = s.rd g := by
  by_cases ha : g.addr = f.addr
  · exact rd_wr_field s f g v ha hw (h.resolve_left (fun hn => hn ha))
  · exact rd_wr_reg s f g v ha

theorem rd_setReg_same (s : State) (f : RegField) (v : BitVec 32) : (s.setReg f.addr v).rd f = bitsOf v.toNat f.lo f.w := by
  simp [State.rd]

theorem rd_setReg_other (s : State) (a : Nat) (f : RegField) (v : BitVec 32) (h : f.addr ≠ a) :
    (s.setReg a v).rd f = s.rd f := by
  simp only [State.rd, reg_setReg_other s a f.addr v h]

theorem rd_lt (s : State) (f : RegField) : s.rd f < 2 ^ f.w := bitsOf_lt _ _ _

theorem rd_bump_same (s : State) (f : RegField) (n : Nat) (h : f.lo + f.w ≤ 32) :
    (s.bump f n).rd f = (s.rd f + n) % 2 ^ f.w := rd_wr_same s f _ h

theorem rd_bump_other (s : State) (f g : RegField) (n : Nat) (hw : f.lo + f.w ≤ 32)
    (h : g.addr ≠ f.addr ∨ g.lo + g.w ≤ f.lo ∨ f.lo + f.w ≤ g.lo) : (s.bump f n).rd g = s.rd g :=
  rd_wr_other s f g _ hw h

/-! ### Counters -/

theorem counter_cnt_same (s : State) (id scope n : Nat) :
    (s.cnt id scope n).counter id scope = (s.counter id scope + n) % 2 ^ 64 := by
  simp [State.counter, State.cnt]

theorem counter_cnt_other (s : State) (id scope n i sc : Nat) (h : i * 2 ^ 32 + sc ≠ id * 2 ^ 32 + scope) :
    (s.cnt id scope n).counter i sc = s.counter i sc := by
  simp only [State.counter, State.cnt]
  exact tget_tset_other _ _ _ _ _ h

@[simp] theorem counter_setReg (s : State) (a : Nat) (v : BitVec 32) (i sc : Nat) :
    (s.setReg a v).counter i sc = s.counter i sc := by rfl

@[simp] theorem counter_wr (s : State) (f : RegField) (v i sc : Nat) : (s.wr f v).counter i sc = s.counter i sc := by rfl

@[simp] theorem counter_bump (s : State) (f : RegField) (v i sc : Nat) : (s.bump f v).counter i sc = s.counter i sc := by rfl

@[simp] theorem reg_cnt (s : State) (id scope n a : Nat) : (s.cnt id scope n).reg a = s.reg a := by rfl

@[simp] theorem rd_cnt (s : State) (id scope n : Nat) (f : RegField) : (s.cnt id scope n).rd f = s.rd f := by rfl

@[simp] theorem reg_post (s : State) (o : Out) (a : Nat) : (s.post o).reg a = s.reg a := by rfl

@[simp] theorem rd_post (s : State) (o : Out) (f : RegField) : (s.post o).rd f = s.rd f := by rfl

end Sys2Proof.Machine
end

