-- ==== Sys2Proof/Laws/State.lean ====
section
/-! SUPPORT. The fields of a state after each named update: the fields the update does not touch, and what the touched table reads. -/

set_option Elab.async false

namespace Sys2Proof.Machine

/-! ### setReg -/

@[simp] theorem State.setReg_hif (s : State) (a : Nat) (v : BitVec 32) : (s.setReg a v).hif = s.hif := by rfl
@[simp] theorem State.setReg_jrnl (s : State) (a : Nat) (v : BitVec 32) : (s.setReg a v).jrnl = s.jrnl := by rfl
@[simp] theorem State.setReg_hlth (s : State) (a : Nat) (v : BitVec 32) : (s.setReg a v).hlth = s.hlth := by rfl
@[simp] theorem State.setReg_snap (s : State) (a : Nat) (v : BitVec 32) : (s.setReg a v).snap = s.snap := by rfl
@[simp] theorem State.setReg_time (s : State) (a : Nat) (v : BitVec 32) : (s.setReg a v).time = s.time := by rfl
@[simp] theorem State.setReg_streams (s : State) (a : Nat) (v : BitVec 32) : (s.setReg a v).streams = s.streams := by rfl
@[simp] theorem State.setReg_dec (s : State) (a : Nat) (v : BitVec 32) : (s.setReg a v).dec = s.dec := by rfl
@[simp] theorem State.setReg_net (s : State) (a : Nat) (v : BitVec 32) : (s.setReg a v).net = s.net := by rfl
@[simp] theorem State.setReg_shp (s : State) (a : Nat) (v : BitVec 32) : (s.setReg a v).shp = s.shp := by rfl
@[simp] theorem State.setReg_sgs (s : State) (a : Nat) (v : BitVec 32) : (s.setReg a v).sgs = s.sgs := by rfl
@[simp] theorem State.setReg_progs (s : State) (a : Nat) (v : BitVec 32) : (s.setReg a v).progs = s.progs := by rfl
@[simp] theorem State.setReg_tbl (s : State) (a : Nat) (v : BitVec 32) : (s.setReg a v).tbl = s.tbl := by rfl
@[simp] theorem State.setReg_jobs (s : State) (a : Nat) (v : BitVec 32) : (s.setReg a v).jobs = s.jobs := by rfl
@[simp] theorem State.setReg_nextJob (s : State) (a : Nat) (v : BitVec 32) : (s.setReg a v).nextJob = s.nextJob := by rfl
@[simp] theorem State.setReg_cores (s : State) (a : Nat) (v : BitVec 32) : (s.setReg a v).cores = s.cores := by rfl
@[simp] theorem State.setReg_sched (s : State) (a : Nat) (v : BitVec 32) : (s.setReg a v).sched = s.sched := by rfl
@[simp] theorem State.setReg_pools (s : State) (a : Nat) (v : BitVec 32) : (s.setReg a v).pools = s.pools := by rfl
@[simp] theorem State.setReg_mem (s : State) (a : Nat) (v : BitVec 32) : (s.setReg a v).mem = s.mem := by rfl
@[simp] theorem State.setReg_hbm (s : State) (a : Nat) (v : BitVec 32) : (s.setReg a v).hbm = s.hbm := by rfl
@[simp] theorem State.setReg_lnk (s : State) (a : Nat) (v : BitVec 32) : (s.setReg a v).lnk = s.lnk := by rfl
@[simp] theorem State.setReg_pwr (s : State) (a : Nat) (v : BitVec 32) : (s.setReg a v).pwr = s.pwr := by rfl
@[simp] theorem State.setReg_sec (s : State) (a : Nat) (v : BitVec 32) : (s.setReg a v).sec = s.sec := by rfl
@[simp] theorem State.setReg_counters (s : State) (a : Nat) (v : BitVec 32) : (s.setReg a v).counters = s.counters := by rfl
@[simp] theorem State.setReg_free (s : State) (a : Nat) (v : BitVec 32) : (s.setReg a v).free = s.free := by rfl
@[simp] theorem State.setReg_out (s : State) (a : Nat) (v : BitVec 32) : (s.setReg a v).out = s.out := by rfl
@[simp] theorem State.setReg_pending (s : State) (a : Nat) (v : BitVec 32) : (s.setReg a v).pending = s.pending := by rfl

/-! ### wr -/

@[simp] theorem State.wr_hif (s : State) (f : RegField) (v : Nat) : (s.wr f v).hif = s.hif := by rfl
@[simp] theorem State.wr_jrnl (s : State) (f : RegField) (v : Nat) : (s.wr f v).jrnl = s.jrnl := by rfl
@[simp] theorem State.wr_hlth (s : State) (f : RegField) (v : Nat) : (s.wr f v).hlth = s.hlth := by rfl
@[simp] theorem State.wr_snap (s : State) (f : RegField) (v : Nat) : (s.wr f v).snap = s.snap := by rfl
@[simp] theorem State.wr_time (s : State) (f : RegField) (v : Nat) : (s.wr f v).time = s.time := by rfl
@[simp] theorem State.wr_streams (s : State) (f : RegField) (v : Nat) : (s.wr f v).streams = s.streams := by rfl
@[simp] theorem State.wr_dec (s : State) (f : RegField) (v : Nat) : (s.wr f v).dec = s.dec := by rfl
@[simp] theorem State.wr_net (s : State) (f : RegField) (v : Nat) : (s.wr f v).net = s.net := by rfl
@[simp] theorem State.wr_shp (s : State) (f : RegField) (v : Nat) : (s.wr f v).shp = s.shp := by rfl
@[simp] theorem State.wr_sgs (s : State) (f : RegField) (v : Nat) : (s.wr f v).sgs = s.sgs := by rfl
@[simp] theorem State.wr_progs (s : State) (f : RegField) (v : Nat) : (s.wr f v).progs = s.progs := by rfl
@[simp] theorem State.wr_tbl (s : State) (f : RegField) (v : Nat) : (s.wr f v).tbl = s.tbl := by rfl
@[simp] theorem State.wr_jobs (s : State) (f : RegField) (v : Nat) : (s.wr f v).jobs = s.jobs := by rfl
@[simp] theorem State.wr_nextJob (s : State) (f : RegField) (v : Nat) : (s.wr f v).nextJob = s.nextJob := by rfl
@[simp] theorem State.wr_cores (s : State) (f : RegField) (v : Nat) : (s.wr f v).cores = s.cores := by rfl
@[simp] theorem State.wr_sched (s : State) (f : RegField) (v : Nat) : (s.wr f v).sched = s.sched := by rfl
@[simp] theorem State.wr_pools (s : State) (f : RegField) (v : Nat) : (s.wr f v).pools = s.pools := by rfl
@[simp] theorem State.wr_mem (s : State) (f : RegField) (v : Nat) : (s.wr f v).mem = s.mem := by rfl
@[simp] theorem State.wr_hbm (s : State) (f : RegField) (v : Nat) : (s.wr f v).hbm = s.hbm := by rfl
@[simp] theorem State.wr_lnk (s : State) (f : RegField) (v : Nat) : (s.wr f v).lnk = s.lnk := by rfl
@[simp] theorem State.wr_pwr (s : State) (f : RegField) (v : Nat) : (s.wr f v).pwr = s.pwr := by rfl
@[simp] theorem State.wr_sec (s : State) (f : RegField) (v : Nat) : (s.wr f v).sec = s.sec := by rfl
@[simp] theorem State.wr_counters (s : State) (f : RegField) (v : Nat) : (s.wr f v).counters = s.counters := by rfl
@[simp] theorem State.wr_free (s : State) (f : RegField) (v : Nat) : (s.wr f v).free = s.free := by rfl
@[simp] theorem State.wr_out (s : State) (f : RegField) (v : Nat) : (s.wr f v).out = s.out := by rfl
@[simp] theorem State.wr_pending (s : State) (f : RegField) (v : Nat) : (s.wr f v).pending = s.pending := by rfl

/-! ### bump -/

@[simp] theorem State.bump_hif (s : State) (f : RegField) (n : Nat) : (s.bump f n).hif = s.hif := by rfl
@[simp] theorem State.bump_jrnl (s : State) (f : RegField) (n : Nat) : (s.bump f n).jrnl = s.jrnl := by rfl
@[simp] theorem State.bump_hlth (s : State) (f : RegField) (n : Nat) : (s.bump f n).hlth = s.hlth := by rfl
@[simp] theorem State.bump_snap (s : State) (f : RegField) (n : Nat) : (s.bump f n).snap = s.snap := by rfl
@[simp] theorem State.bump_time (s : State) (f : RegField) (n : Nat) : (s.bump f n).time = s.time := by rfl
@[simp] theorem State.bump_streams (s : State) (f : RegField) (n : Nat) : (s.bump f n).streams = s.streams := by rfl
@[simp] theorem State.bump_dec (s : State) (f : RegField) (n : Nat) : (s.bump f n).dec = s.dec := by rfl
@[simp] theorem State.bump_net (s : State) (f : RegField) (n : Nat) : (s.bump f n).net = s.net := by rfl
@[simp] theorem State.bump_shp (s : State) (f : RegField) (n : Nat) : (s.bump f n).shp = s.shp := by rfl
@[simp] theorem State.bump_sgs (s : State) (f : RegField) (n : Nat) : (s.bump f n).sgs = s.sgs := by rfl
@[simp] theorem State.bump_progs (s : State) (f : RegField) (n : Nat) : (s.bump f n).progs = s.progs := by rfl
@[simp] theorem State.bump_tbl (s : State) (f : RegField) (n : Nat) : (s.bump f n).tbl = s.tbl := by rfl
@[simp] theorem State.bump_jobs (s : State) (f : RegField) (n : Nat) : (s.bump f n).jobs = s.jobs := by rfl
@[simp] theorem State.bump_nextJob (s : State) (f : RegField) (n : Nat) : (s.bump f n).nextJob = s.nextJob := by rfl
@[simp] theorem State.bump_cores (s : State) (f : RegField) (n : Nat) : (s.bump f n).cores = s.cores := by rfl
@[simp] theorem State.bump_sched (s : State) (f : RegField) (n : Nat) : (s.bump f n).sched = s.sched := by rfl
@[simp] theorem State.bump_pools (s : State) (f : RegField) (n : Nat) : (s.bump f n).pools = s.pools := by rfl
@[simp] theorem State.bump_mem (s : State) (f : RegField) (n : Nat) : (s.bump f n).mem = s.mem := by rfl
@[simp] theorem State.bump_hbm (s : State) (f : RegField) (n : Nat) : (s.bump f n).hbm = s.hbm := by rfl
@[simp] theorem State.bump_lnk (s : State) (f : RegField) (n : Nat) : (s.bump f n).lnk = s.lnk := by rfl
@[simp] theorem State.bump_pwr (s : State) (f : RegField) (n : Nat) : (s.bump f n).pwr = s.pwr := by rfl
@[simp] theorem State.bump_sec (s : State) (f : RegField) (n : Nat) : (s.bump f n).sec = s.sec := by rfl
@[simp] theorem State.bump_counters (s : State) (f : RegField) (n : Nat) : (s.bump f n).counters = s.counters := by rfl
@[simp] theorem State.bump_free (s : State) (f : RegField) (n : Nat) : (s.bump f n).free = s.free := by rfl
@[simp] theorem State.bump_out (s : State) (f : RegField) (n : Nat) : (s.bump f n).out = s.out := by rfl
@[simp] theorem State.bump_pending (s : State) (f : RegField) (n : Nat) : (s.bump f n).pending = s.pending := by rfl

/-! ### wr64 -/

@[simp] theorem State.wr64_hif (s : State) (lo hi v : Nat) : (s.wr64 lo hi v).hif = s.hif := by rfl
@[simp] theorem State.wr64_jrnl (s : State) (lo hi v : Nat) : (s.wr64 lo hi v).jrnl = s.jrnl := by rfl
@[simp] theorem State.wr64_hlth (s : State) (lo hi v : Nat) : (s.wr64 lo hi v).hlth = s.hlth := by rfl
@[simp] theorem State.wr64_snap (s : State) (lo hi v : Nat) : (s.wr64 lo hi v).snap = s.snap := by rfl
@[simp] theorem State.wr64_time (s : State) (lo hi v : Nat) : (s.wr64 lo hi v).time = s.time := by rfl
@[simp] theorem State.wr64_streams (s : State) (lo hi v : Nat) : (s.wr64 lo hi v).streams = s.streams := by rfl
@[simp] theorem State.wr64_dec (s : State) (lo hi v : Nat) : (s.wr64 lo hi v).dec = s.dec := by rfl
@[simp] theorem State.wr64_net (s : State) (lo hi v : Nat) : (s.wr64 lo hi v).net = s.net := by rfl
@[simp] theorem State.wr64_shp (s : State) (lo hi v : Nat) : (s.wr64 lo hi v).shp = s.shp := by rfl
@[simp] theorem State.wr64_sgs (s : State) (lo hi v : Nat) : (s.wr64 lo hi v).sgs = s.sgs := by rfl
@[simp] theorem State.wr64_progs (s : State) (lo hi v : Nat) : (s.wr64 lo hi v).progs = s.progs := by rfl
@[simp] theorem State.wr64_tbl (s : State) (lo hi v : Nat) : (s.wr64 lo hi v).tbl = s.tbl := by rfl
@[simp] theorem State.wr64_jobs (s : State) (lo hi v : Nat) : (s.wr64 lo hi v).jobs = s.jobs := by rfl
@[simp] theorem State.wr64_nextJob (s : State) (lo hi v : Nat) : (s.wr64 lo hi v).nextJob = s.nextJob := by rfl
@[simp] theorem State.wr64_cores (s : State) (lo hi v : Nat) : (s.wr64 lo hi v).cores = s.cores := by rfl
@[simp] theorem State.wr64_sched (s : State) (lo hi v : Nat) : (s.wr64 lo hi v).sched = s.sched := by rfl
@[simp] theorem State.wr64_pools (s : State) (lo hi v : Nat) : (s.wr64 lo hi v).pools = s.pools := by rfl
@[simp] theorem State.wr64_mem (s : State) (lo hi v : Nat) : (s.wr64 lo hi v).mem = s.mem := by rfl
@[simp] theorem State.wr64_hbm (s : State) (lo hi v : Nat) : (s.wr64 lo hi v).hbm = s.hbm := by rfl
@[simp] theorem State.wr64_lnk (s : State) (lo hi v : Nat) : (s.wr64 lo hi v).lnk = s.lnk := by rfl
@[simp] theorem State.wr64_pwr (s : State) (lo hi v : Nat) : (s.wr64 lo hi v).pwr = s.pwr := by rfl
@[simp] theorem State.wr64_sec (s : State) (lo hi v : Nat) : (s.wr64 lo hi v).sec = s.sec := by rfl
@[simp] theorem State.wr64_counters (s : State) (lo hi v : Nat) : (s.wr64 lo hi v).counters = s.counters := by rfl
@[simp] theorem State.wr64_free (s : State) (lo hi v : Nat) : (s.wr64 lo hi v).free = s.free := by rfl
@[simp] theorem State.wr64_out (s : State) (lo hi v : Nat) : (s.wr64 lo hi v).out = s.out := by rfl
@[simp] theorem State.wr64_pending (s : State) (lo hi v : Nat) : (s.wr64 lo hi v).pending = s.pending := by rfl

/-! ### cnt -/

@[simp] theorem State.cnt_regs (s : State) (i sc n : Nat) : (s.cnt i sc n).regs = s.regs := by rfl
@[simp] theorem State.cnt_hif (s : State) (i sc n : Nat) : (s.cnt i sc n).hif = s.hif := by rfl
@[simp] theorem State.cnt_jrnl (s : State) (i sc n : Nat) : (s.cnt i sc n).jrnl = s.jrnl := by rfl
@[simp] theorem State.cnt_hlth (s : State) (i sc n : Nat) : (s.cnt i sc n).hlth = s.hlth := by rfl
@[simp] theorem State.cnt_snap (s : State) (i sc n : Nat) : (s.cnt i sc n).snap = s.snap := by rfl
@[simp] theorem State.cnt_time (s : State) (i sc n : Nat) : (s.cnt i sc n).time = s.time := by rfl
@[simp] theorem State.cnt_streams (s : State) (i sc n : Nat) : (s.cnt i sc n).streams = s.streams := by rfl
@[simp] theorem State.cnt_dec (s : State) (i sc n : Nat) : (s.cnt i sc n).dec = s.dec := by rfl
@[simp] theorem State.cnt_net (s : State) (i sc n : Nat) : (s.cnt i sc n).net = s.net := by rfl
@[simp] theorem State.cnt_shp (s : State) (i sc n : Nat) : (s.cnt i sc n).shp = s.shp := by rfl
@[simp] theorem State.cnt_sgs (s : State) (i sc n : Nat) : (s.cnt i sc n).sgs = s.sgs := by rfl
@[simp] theorem State.cnt_progs (s : State) (i sc n : Nat) : (s.cnt i sc n).progs = s.progs := by rfl
@[simp] theorem State.cnt_tbl (s : State) (i sc n : Nat) : (s.cnt i sc n).tbl = s.tbl := by rfl
@[simp] theorem State.cnt_jobs (s : State) (i sc n : Nat) : (s.cnt i sc n).jobs = s.jobs := by rfl
@[simp] theorem State.cnt_nextJob (s : State) (i sc n : Nat) : (s.cnt i sc n).nextJob = s.nextJob := by rfl
@[simp] theorem State.cnt_cores (s : State) (i sc n : Nat) : (s.cnt i sc n).cores = s.cores := by rfl
@[simp] theorem State.cnt_sched (s : State) (i sc n : Nat) : (s.cnt i sc n).sched = s.sched := by rfl
@[simp] theorem State.cnt_pools (s : State) (i sc n : Nat) : (s.cnt i sc n).pools = s.pools := by rfl
@[simp] theorem State.cnt_mem (s : State) (i sc n : Nat) : (s.cnt i sc n).mem = s.mem := by rfl
@[simp] theorem State.cnt_hbm (s : State) (i sc n : Nat) : (s.cnt i sc n).hbm = s.hbm := by rfl
@[simp] theorem State.cnt_lnk (s : State) (i sc n : Nat) : (s.cnt i sc n).lnk = s.lnk := by rfl
@[simp] theorem State.cnt_pwr (s : State) (i sc n : Nat) : (s.cnt i sc n).pwr = s.pwr := by rfl
@[simp] theorem State.cnt_sec (s : State) (i sc n : Nat) : (s.cnt i sc n).sec = s.sec := by rfl
@[simp] theorem State.cnt_free (s : State) (i sc n : Nat) : (s.cnt i sc n).free = s.free := by rfl
@[simp] theorem State.cnt_out (s : State) (i sc n : Nat) : (s.cnt i sc n).out = s.out := by rfl
@[simp] theorem State.cnt_pending (s : State) (i sc n : Nat) : (s.cnt i sc n).pending = s.pending := by rfl

/-! ### setCnt -/

@[simp] theorem State.setCnt_regs (s : State) (i sc v : Nat) : (s.setCnt i sc v).regs = s.regs := by rfl
@[simp] theorem State.setCnt_hif (s : State) (i sc v : Nat) : (s.setCnt i sc v).hif = s.hif := by rfl
@[simp] theorem State.setCnt_jrnl (s : State) (i sc v : Nat) : (s.setCnt i sc v).jrnl = s.jrnl := by rfl
@[simp] theorem State.setCnt_hlth (s : State) (i sc v : Nat) : (s.setCnt i sc v).hlth = s.hlth := by rfl
@[simp] theorem State.setCnt_snap (s : State) (i sc v : Nat) : (s.setCnt i sc v).snap = s.snap := by rfl
@[simp] theorem State.setCnt_time (s : State) (i sc v : Nat) : (s.setCnt i sc v).time = s.time := by rfl
@[simp] theorem State.setCnt_streams (s : State) (i sc v : Nat) : (s.setCnt i sc v).streams = s.streams := by rfl
@[simp] theorem State.setCnt_dec (s : State) (i sc v : Nat) : (s.setCnt i sc v).dec = s.dec := by rfl
@[simp] theorem State.setCnt_net (s : State) (i sc v : Nat) : (s.setCnt i sc v).net = s.net := by rfl
@[simp] theorem State.setCnt_shp (s : State) (i sc v : Nat) : (s.setCnt i sc v).shp = s.shp := by rfl
@[simp] theorem State.setCnt_sgs (s : State) (i sc v : Nat) : (s.setCnt i sc v).sgs = s.sgs := by rfl
@[simp] theorem State.setCnt_progs (s : State) (i sc v : Nat) : (s.setCnt i sc v).progs = s.progs := by rfl
@[simp] theorem State.setCnt_tbl (s : State) (i sc v : Nat) : (s.setCnt i sc v).tbl = s.tbl := by rfl
@[simp] theorem State.setCnt_jobs (s : State) (i sc v : Nat) : (s.setCnt i sc v).jobs = s.jobs := by rfl
@[simp] theorem State.setCnt_nextJob (s : State) (i sc v : Nat) : (s.setCnt i sc v).nextJob = s.nextJob := by rfl
@[simp] theorem State.setCnt_cores (s : State) (i sc v : Nat) : (s.setCnt i sc v).cores = s.cores := by rfl
@[simp] theorem State.setCnt_sched (s : State) (i sc v : Nat) : (s.setCnt i sc v).sched = s.sched := by rfl
@[simp] theorem State.setCnt_pools (s : State) (i sc v : Nat) : (s.setCnt i sc v).pools = s.pools := by rfl
@[simp] theorem State.setCnt_mem (s : State) (i sc v : Nat) : (s.setCnt i sc v).mem = s.mem := by rfl
@[simp] theorem State.setCnt_hbm (s : State) (i sc v : Nat) : (s.setCnt i sc v).hbm = s.hbm := by rfl
@[simp] theorem State.setCnt_lnk (s : State) (i sc v : Nat) : (s.setCnt i sc v).lnk = s.lnk := by rfl
@[simp] theorem State.setCnt_pwr (s : State) (i sc v : Nat) : (s.setCnt i sc v).pwr = s.pwr := by rfl
@[simp] theorem State.setCnt_sec (s : State) (i sc v : Nat) : (s.setCnt i sc v).sec = s.sec := by rfl
@[simp] theorem State.setCnt_free (s : State) (i sc v : Nat) : (s.setCnt i sc v).free = s.free := by rfl
@[simp] theorem State.setCnt_out (s : State) (i sc v : Nat) : (s.setCnt i sc v).out = s.out := by rfl
@[simp] theorem State.setCnt_pending (s : State) (i sc v : Nat) : (s.setCnt i sc v).pending = s.pending := by rfl
@[simp] theorem State.setCnt_reg (s : State) (i sc v : Nat) (k : Nat) : (s.setCnt i sc v).reg k = s.reg k := by rfl
@[simp] theorem State.setCnt_rd (s : State) (i sc v : Nat) (g : RegField) : (s.setCnt i sc v).rd g = s.rd g := by rfl

/-! ### post -/

@[simp] theorem State.post_regs (s : State) (o : Out) : (s.post o).regs = s.regs := by rfl
@[simp] theorem State.post_hif (s : State) (o : Out) : (s.post o).hif = s.hif := by rfl
@[simp] theorem State.post_jrnl (s : State) (o : Out) : (s.post o).jrnl = s.jrnl := by rfl
@[simp] theorem State.post_hlth (s : State) (o : Out) : (s.post o).hlth = s.hlth := by rfl
@[simp] theorem State.post_snap (s : State) (o : Out) : (s.post o).snap = s.snap := by rfl
@[simp] theorem State.post_time (s : State) (o : Out) : (s.post o).time = s.time := by rfl
@[simp] theorem State.post_streams (s : State) (o : Out) : (s.post o).streams = s.streams := by rfl
@[simp] theorem State.post_dec (s : State) (o : Out) : (s.post o).dec = s.dec := by rfl
@[simp] theorem State.post_net (s : State) (o : Out) : (s.post o).net = s.net := by rfl
@[simp] theorem State.post_shp (s : State) (o : Out) : (s.post o).shp = s.shp := by rfl
@[simp] theorem State.post_sgs (s : State) (o : Out) : (s.post o).sgs = s.sgs := by rfl
@[simp] theorem State.post_progs (s : State) (o : Out) : (s.post o).progs = s.progs := by rfl
@[simp] theorem State.post_tbl (s : State) (o : Out) : (s.post o).tbl = s.tbl := by rfl
@[simp] theorem State.post_jobs (s : State) (o : Out) : (s.post o).jobs = s.jobs := by rfl
@[simp] theorem State.post_nextJob (s : State) (o : Out) : (s.post o).nextJob = s.nextJob := by rfl
@[simp] theorem State.post_cores (s : State) (o : Out) : (s.post o).cores = s.cores := by rfl
@[simp] theorem State.post_sched (s : State) (o : Out) : (s.post o).sched = s.sched := by rfl
@[simp] theorem State.post_pools (s : State) (o : Out) : (s.post o).pools = s.pools := by rfl
@[simp] theorem State.post_mem (s : State) (o : Out) : (s.post o).mem = s.mem := by rfl
@[simp] theorem State.post_hbm (s : State) (o : Out) : (s.post o).hbm = s.hbm := by rfl
@[simp] theorem State.post_lnk (s : State) (o : Out) : (s.post o).lnk = s.lnk := by rfl
@[simp] theorem State.post_pwr (s : State) (o : Out) : (s.post o).pwr = s.pwr := by rfl
@[simp] theorem State.post_sec (s : State) (o : Out) : (s.post o).sec = s.sec := by rfl
@[simp] theorem State.post_counters (s : State) (o : Out) : (s.post o).counters = s.counters := by rfl
@[simp] theorem State.post_free (s : State) (o : Out) : (s.post o).free = s.free := by rfl
@[simp] theorem State.post_pending (s : State) (o : Out) : (s.post o).pending = s.pending := by rfl

/-! ### setCring -/

@[simp] theorem State.setCring_regs (s : State) (c : Nat) (x : CRing) : (s.setCring c x).regs = s.regs := by rfl
@[simp] theorem State.setCring_jrnl (s : State) (c : Nat) (x : CRing) : (s.setCring c x).jrnl = s.jrnl := by rfl
@[simp] theorem State.setCring_hlth (s : State) (c : Nat) (x : CRing) : (s.setCring c x).hlth = s.hlth := by rfl
@[simp] theorem State.setCring_snap (s : State) (c : Nat) (x : CRing) : (s.setCring c x).snap = s.snap := by rfl
@[simp] theorem State.setCring_time (s : State) (c : Nat) (x : CRing) : (s.setCring c x).time = s.time := by rfl
@[simp] theorem State.setCring_streams (s : State) (c : Nat) (x : CRing) : (s.setCring c x).streams = s.streams := by rfl
@[simp] theorem State.setCring_dec (s : State) (c : Nat) (x : CRing) : (s.setCring c x).dec = s.dec := by rfl
@[simp] theorem State.setCring_net (s : State) (c : Nat) (x : CRing) : (s.setCring c x).net = s.net := by rfl
@[simp] theorem State.setCring_shp (s : State) (c : Nat) (x : CRing) : (s.setCring c x).shp = s.shp := by rfl
@[simp] theorem State.setCring_sgs (s : State) (c : Nat) (x : CRing) : (s.setCring c x).sgs = s.sgs := by rfl
@[simp] theorem State.setCring_progs (s : State) (c : Nat) (x : CRing) : (s.setCring c x).progs = s.progs := by rfl
@[simp] theorem State.setCring_tbl (s : State) (c : Nat) (x : CRing) : (s.setCring c x).tbl = s.tbl := by rfl
@[simp] theorem State.setCring_jobs (s : State) (c : Nat) (x : CRing) : (s.setCring c x).jobs = s.jobs := by rfl
@[simp] theorem State.setCring_nextJob (s : State) (c : Nat) (x : CRing) : (s.setCring c x).nextJob = s.nextJob := by rfl
@[simp] theorem State.setCring_cores (s : State) (c : Nat) (x : CRing) : (s.setCring c x).cores = s.cores := by rfl
@[simp] theorem State.setCring_sched (s : State) (c : Nat) (x : CRing) : (s.setCring c x).sched = s.sched := by rfl
@[simp] theorem State.setCring_pools (s : State) (c : Nat) (x : CRing) : (s.setCring c x).pools = s.pools := by rfl
@[simp] theorem State.setCring_mem (s : State) (c : Nat) (x : CRing) : (s.setCring c x).mem = s.mem := by rfl
@[simp] theorem State.setCring_hbm (s : State) (c : Nat) (x : CRing) : (s.setCring c x).hbm = s.hbm := by rfl
@[simp] theorem State.setCring_lnk (s : State) (c : Nat) (x : CRing) : (s.setCring c x).lnk = s.lnk := by rfl
@[simp] theorem State.setCring_pwr (s : State) (c : Nat) (x : CRing) : (s.setCring c x).pwr = s.pwr := by rfl
@[simp] theorem State.setCring_sec (s : State) (c : Nat) (x : CRing) : (s.setCring c x).sec = s.sec := by rfl
@[simp] theorem State.setCring_counters (s : State) (c : Nat) (x : CRing) : (s.setCring c x).counters = s.counters := by rfl
@[simp] theorem State.setCring_free (s : State) (c : Nat) (x : CRing) : (s.setCring c x).free = s.free := by rfl
@[simp] theorem State.setCring_out (s : State) (c : Nat) (x : CRing) : (s.setCring c x).out = s.out := by rfl
@[simp] theorem State.setCring_pending (s : State) (c : Nat) (x : CRing) : (s.setCring c x).pending = s.pending := by rfl
@[simp] theorem State.setCring_reg (s : State) (c : Nat) (x : CRing) (k : Nat) : (s.setCring c x).reg k = s.reg k := by rfl
@[simp] theorem State.setCring_rd (s : State) (c : Nat) (x : CRing) (g : RegField) : (s.setCring c x).rd g = s.rd g := by rfl

/-! ### setPring -/

@[simp] theorem State.setPring_regs (s : State) (m : Nat) (x : PRing) : (s.setPring m x).regs = s.regs := by rfl
@[simp] theorem State.setPring_jrnl (s : State) (m : Nat) (x : PRing) : (s.setPring m x).jrnl = s.jrnl := by rfl
@[simp] theorem State.setPring_hlth (s : State) (m : Nat) (x : PRing) : (s.setPring m x).hlth = s.hlth := by rfl
@[simp] theorem State.setPring_snap (s : State) (m : Nat) (x : PRing) : (s.setPring m x).snap = s.snap := by rfl
@[simp] theorem State.setPring_time (s : State) (m : Nat) (x : PRing) : (s.setPring m x).time = s.time := by rfl
@[simp] theorem State.setPring_streams (s : State) (m : Nat) (x : PRing) : (s.setPring m x).streams = s.streams := by rfl
@[simp] theorem State.setPring_dec (s : State) (m : Nat) (x : PRing) : (s.setPring m x).dec = s.dec := by rfl
@[simp] theorem State.setPring_net (s : State) (m : Nat) (x : PRing) : (s.setPring m x).net = s.net := by rfl
@[simp] theorem State.setPring_shp (s : State) (m : Nat) (x : PRing) : (s.setPring m x).shp = s.shp := by rfl
@[simp] theorem State.setPring_sgs (s : State) (m : Nat) (x : PRing) : (s.setPring m x).sgs = s.sgs := by rfl
@[simp] theorem State.setPring_progs (s : State) (m : Nat) (x : PRing) : (s.setPring m x).progs = s.progs := by rfl
@[simp] theorem State.setPring_tbl (s : State) (m : Nat) (x : PRing) : (s.setPring m x).tbl = s.tbl := by rfl
@[simp] theorem State.setPring_jobs (s : State) (m : Nat) (x : PRing) : (s.setPring m x).jobs = s.jobs := by rfl
@[simp] theorem State.setPring_nextJob (s : State) (m : Nat) (x : PRing) : (s.setPring m x).nextJob = s.nextJob := by rfl
@[simp] theorem State.setPring_cores (s : State) (m : Nat) (x : PRing) : (s.setPring m x).cores = s.cores := by rfl
@[simp] theorem State.setPring_sched (s : State) (m : Nat) (x : PRing) : (s.setPring m x).sched = s.sched := by rfl
@[simp] theorem State.setPring_pools (s : State) (m : Nat) (x : PRing) : (s.setPring m x).pools = s.pools := by rfl
@[simp] theorem State.setPring_mem (s : State) (m : Nat) (x : PRing) : (s.setPring m x).mem = s.mem := by rfl
@[simp] theorem State.setPring_hbm (s : State) (m : Nat) (x : PRing) : (s.setPring m x).hbm = s.hbm := by rfl
@[simp] theorem State.setPring_lnk (s : State) (m : Nat) (x : PRing) : (s.setPring m x).lnk = s.lnk := by rfl
@[simp] theorem State.setPring_pwr (s : State) (m : Nat) (x : PRing) : (s.setPring m x).pwr = s.pwr := by rfl
@[simp] theorem State.setPring_sec (s : State) (m : Nat) (x : PRing) : (s.setPring m x).sec = s.sec := by rfl
@[simp] theorem State.setPring_counters (s : State) (m : Nat) (x : PRing) : (s.setPring m x).counters = s.counters := by rfl
@[simp] theorem State.setPring_free (s : State) (m : Nat) (x : PRing) : (s.setPring m x).free = s.free := by rfl
@[simp] theorem State.setPring_out (s : State) (m : Nat) (x : PRing) : (s.setPring m x).out = s.out := by rfl
@[simp] theorem State.setPring_pending (s : State) (m : Nat) (x : PRing) : (s.setPring m x).pending = s.pending := by rfl
@[simp] theorem State.setPring_reg (s : State) (m : Nat) (x : PRing) (k : Nat) : (s.setPring m x).reg k = s.reg k := by rfl
@[simp] theorem State.setPring_rd (s : State) (m : Nat) (x : PRing) (g : RegField) : (s.setPring m x).rd g = s.rd g := by rfl

/-! ### sendTo -/

@[simp] theorem State.sendTo_regs (s : State) (m : Nat) (p : Pn) : (s.sendTo m p).regs = s.regs := by rfl
@[simp] theorem State.sendTo_jrnl (s : State) (m : Nat) (p : Pn) : (s.sendTo m p).jrnl = s.jrnl := by rfl
@[simp] theorem State.sendTo_hlth (s : State) (m : Nat) (p : Pn) : (s.sendTo m p).hlth = s.hlth := by rfl
@[simp] theorem State.sendTo_snap (s : State) (m : Nat) (p : Pn) : (s.sendTo m p).snap = s.snap := by rfl
@[simp] theorem State.sendTo_time (s : State) (m : Nat) (p : Pn) : (s.sendTo m p).time = s.time := by rfl
@[simp] theorem State.sendTo_streams (s : State) (m : Nat) (p : Pn) : (s.sendTo m p).streams = s.streams := by rfl
@[simp] theorem State.sendTo_dec (s : State) (m : Nat) (p : Pn) : (s.sendTo m p).dec = s.dec := by rfl
@[simp] theorem State.sendTo_net (s : State) (m : Nat) (p : Pn) : (s.sendTo m p).net = s.net := by rfl
@[simp] theorem State.sendTo_shp (s : State) (m : Nat) (p : Pn) : (s.sendTo m p).shp = s.shp := by rfl
@[simp] theorem State.sendTo_sgs (s : State) (m : Nat) (p : Pn) : (s.sendTo m p).sgs = s.sgs := by rfl
@[simp] theorem State.sendTo_progs (s : State) (m : Nat) (p : Pn) : (s.sendTo m p).progs = s.progs := by rfl
@[simp] theorem State.sendTo_tbl (s : State) (m : Nat) (p : Pn) : (s.sendTo m p).tbl = s.tbl := by rfl
@[simp] theorem State.sendTo_jobs (s : State) (m : Nat) (p : Pn) : (s.sendTo m p).jobs = s.jobs := by rfl
@[simp] theorem State.sendTo_nextJob (s : State) (m : Nat) (p : Pn) : (s.sendTo m p).nextJob = s.nextJob := by rfl
@[simp] theorem State.sendTo_cores (s : State) (m : Nat) (p : Pn) : (s.sendTo m p).cores = s.cores := by rfl
@[simp] theorem State.sendTo_sched (s : State) (m : Nat) (p : Pn) : (s.sendTo m p).sched = s.sched := by rfl
@[simp] theorem State.sendTo_pools (s : State) (m : Nat) (p : Pn) : (s.sendTo m p).pools = s.pools := by rfl
@[simp] theorem State.sendTo_mem (s : State) (m : Nat) (p : Pn) : (s.sendTo m p).mem = s.mem := by rfl
@[simp] theorem State.sendTo_hbm (s : State) (m : Nat) (p : Pn) : (s.sendTo m p).hbm = s.hbm := by rfl
@[simp] theorem State.sendTo_lnk (s : State) (m : Nat) (p : Pn) : (s.sendTo m p).lnk = s.lnk := by rfl
@[simp] theorem State.sendTo_pwr (s : State) (m : Nat) (p : Pn) : (s.sendTo m p).pwr = s.pwr := by rfl
@[simp] theorem State.sendTo_sec (s : State) (m : Nat) (p : Pn) : (s.sendTo m p).sec = s.sec := by rfl
@[simp] theorem State.sendTo_counters (s : State) (m : Nat) (p : Pn) : (s.sendTo m p).counters = s.counters := by rfl
@[simp] theorem State.sendTo_free (s : State) (m : Nat) (p : Pn) : (s.sendTo m p).free = s.free := by rfl
@[simp] theorem State.sendTo_out (s : State) (m : Nat) (p : Pn) : (s.sendTo m p).out = s.out := by rfl
@[simp] theorem State.sendTo_pending (s : State) (m : Nat) (p : Pn) : (s.sendTo m p).pending = s.pending := by rfl
@[simp] theorem State.sendTo_reg (s : State) (m : Nat) (p : Pn) (k : Nat) : (s.sendTo m p).reg k = s.reg k := by rfl
@[simp] theorem State.sendTo_rd (s : State) (m : Nat) (p : Pn) (g : RegField) : (s.sendTo m p).rd g = s.rd g := by rfl

/-! ### setStream -/

@[simp] theorem State.setStream_regs (s : State) (n : Nat) (x : Stream) : (s.setStream n x).regs = s.regs := by rfl
@[simp] theorem State.setStream_hif (s : State) (n : Nat) (x : Stream) : (s.setStream n x).hif = s.hif := by rfl
@[simp] theorem State.setStream_jrnl (s : State) (n : Nat) (x : Stream) : (s.setStream n x).jrnl = s.jrnl := by rfl
@[simp] theorem State.setStream_hlth (s : State) (n : Nat) (x : Stream) : (s.setStream n x).hlth = s.hlth := by rfl
@[simp] theorem State.setStream_snap (s : State) (n : Nat) (x : Stream) : (s.setStream n x).snap = s.snap := by rfl
@[simp] theorem State.setStream_time (s : State) (n : Nat) (x : Stream) : (s.setStream n x).time = s.time := by rfl
@[simp] theorem State.setStream_dec (s : State) (n : Nat) (x : Stream) : (s.setStream n x).dec = s.dec := by rfl
@[simp] theorem State.setStream_net (s : State) (n : Nat) (x : Stream) : (s.setStream n x).net = s.net := by rfl
@[simp] theorem State.setStream_shp (s : State) (n : Nat) (x : Stream) : (s.setStream n x).shp = s.shp := by rfl
@[simp] theorem State.setStream_sgs (s : State) (n : Nat) (x : Stream) : (s.setStream n x).sgs = s.sgs := by rfl
@[simp] theorem State.setStream_progs (s : State) (n : Nat) (x : Stream) : (s.setStream n x).progs = s.progs := by rfl
@[simp] theorem State.setStream_tbl (s : State) (n : Nat) (x : Stream) : (s.setStream n x).tbl = s.tbl := by rfl
@[simp] theorem State.setStream_jobs (s : State) (n : Nat) (x : Stream) : (s.setStream n x).jobs = s.jobs := by rfl
@[simp] theorem State.setStream_nextJob (s : State) (n : Nat) (x : Stream) : (s.setStream n x).nextJob = s.nextJob := by rfl
@[simp] theorem State.setStream_cores (s : State) (n : Nat) (x : Stream) : (s.setStream n x).cores = s.cores := by rfl
@[simp] theorem State.setStream_sched (s : State) (n : Nat) (x : Stream) : (s.setStream n x).sched = s.sched := by rfl
@[simp] theorem State.setStream_pools (s : State) (n : Nat) (x : Stream) : (s.setStream n x).pools = s.pools := by rfl
@[simp] theorem State.setStream_mem (s : State) (n : Nat) (x : Stream) : (s.setStream n x).mem = s.mem := by rfl
@[simp] theorem State.setStream_hbm (s : State) (n : Nat) (x : Stream) : (s.setStream n x).hbm = s.hbm := by rfl
@[simp] theorem State.setStream_lnk (s : State) (n : Nat) (x : Stream) : (s.setStream n x).lnk = s.lnk := by rfl
@[simp] theorem State.setStream_pwr (s : State) (n : Nat) (x : Stream) : (s.setStream n x).pwr = s.pwr := by rfl
@[simp] theorem State.setStream_sec (s : State) (n : Nat) (x : Stream) : (s.setStream n x).sec = s.sec := by rfl
@[simp] theorem State.setStream_counters (s : State) (n : Nat) (x : Stream) : (s.setStream n x).counters = s.counters := by rfl
@[simp] theorem State.setStream_free (s : State) (n : Nat) (x : Stream) : (s.setStream n x).free = s.free := by rfl
@[simp] theorem State.setStream_out (s : State) (n : Nat) (x : Stream) : (s.setStream n x).out = s.out := by rfl
@[simp] theorem State.setStream_pending (s : State) (n : Nat) (x : Stream) : (s.setStream n x).pending = s.pending := by rfl
@[simp] theorem State.setStream_reg (s : State) (n : Nat) (x : Stream) (k : Nat) : (s.setStream n x).reg k = s.reg k := by rfl
@[simp] theorem State.setStream_rd (s : State) (n : Nat) (x : Stream) (g : RegField) : (s.setStream n x).rd g = s.rd g := by rfl

/-! ### setEngine -/

@[simp] theorem State.setEngine_regs (s : State) (e : Nat) (x : Engine) : (s.setEngine e x).regs = s.regs := by rfl
@[simp] theorem State.setEngine_hif (s : State) (e : Nat) (x : Engine) : (s.setEngine e x).hif = s.hif := by rfl
@[simp] theorem State.setEngine_jrnl (s : State) (e : Nat) (x : Engine) : (s.setEngine e x).jrnl = s.jrnl := by rfl
@[simp] theorem State.setEngine_hlth (s : State) (e : Nat) (x : Engine) : (s.setEngine e x).hlth = s.hlth := by rfl
@[simp] theorem State.setEngine_snap (s : State) (e : Nat) (x : Engine) : (s.setEngine e x).snap = s.snap := by rfl
@[simp] theorem State.setEngine_time (s : State) (e : Nat) (x : Engine) : (s.setEngine e x).time = s.time := by rfl
@[simp] theorem State.setEngine_streams (s : State) (e : Nat) (x : Engine) : (s.setEngine e x).streams = s.streams := by rfl
@[simp] theorem State.setEngine_net (s : State) (e : Nat) (x : Engine) : (s.setEngine e x).net = s.net := by rfl
@[simp] theorem State.setEngine_shp (s : State) (e : Nat) (x : Engine) : (s.setEngine e x).shp = s.shp := by rfl
@[simp] theorem State.setEngine_sgs (s : State) (e : Nat) (x : Engine) : (s.setEngine e x).sgs = s.sgs := by rfl
@[simp] theorem State.setEngine_progs (s : State) (e : Nat) (x : Engine) : (s.setEngine e x).progs = s.progs := by rfl
@[simp] theorem State.setEngine_tbl (s : State) (e : Nat) (x : Engine) : (s.setEngine e x).tbl = s.tbl := by rfl
@[simp] theorem State.setEngine_jobs (s : State) (e : Nat) (x : Engine) : (s.setEngine e x).jobs = s.jobs := by rfl
@[simp] theorem State.setEngine_nextJob (s : State) (e : Nat) (x : Engine) : (s.setEngine e x).nextJob = s.nextJob := by rfl
@[simp] theorem State.setEngine_cores (s : State) (e : Nat) (x : Engine) : (s.setEngine e x).cores = s.cores := by rfl
@[simp] theorem State.setEngine_sched (s : State) (e : Nat) (x : Engine) : (s.setEngine e x).sched = s.sched := by rfl
@[simp] theorem State.setEngine_pools (s : State) (e : Nat) (x : Engine) : (s.setEngine e x).pools = s.pools := by rfl
@[simp] theorem State.setEngine_mem (s : State) (e : Nat) (x : Engine) : (s.setEngine e x).mem = s.mem := by rfl
@[simp] theorem State.setEngine_hbm (s : State) (e : Nat) (x : Engine) : (s.setEngine e x).hbm = s.hbm := by rfl
@[simp] theorem State.setEngine_lnk (s : State) (e : Nat) (x : Engine) : (s.setEngine e x).lnk = s.lnk := by rfl
@[simp] theorem State.setEngine_pwr (s : State) (e : Nat) (x : Engine) : (s.setEngine e x).pwr = s.pwr := by rfl
@[simp] theorem State.setEngine_sec (s : State) (e : Nat) (x : Engine) : (s.setEngine e x).sec = s.sec := by rfl
@[simp] theorem State.setEngine_counters (s : State) (e : Nat) (x : Engine) : (s.setEngine e x).counters = s.counters := by rfl
@[simp] theorem State.setEngine_free (s : State) (e : Nat) (x : Engine) : (s.setEngine e x).free = s.free := by rfl
@[simp] theorem State.setEngine_out (s : State) (e : Nat) (x : Engine) : (s.setEngine e x).out = s.out := by rfl
@[simp] theorem State.setEngine_pending (s : State) (e : Nat) (x : Engine) : (s.setEngine e x).pending = s.pending := by rfl
@[simp] theorem State.setEngine_reg (s : State) (e : Nat) (x : Engine) (k : Nat) : (s.setEngine e x).reg k = s.reg k := by rfl
@[simp] theorem State.setEngine_rd (s : State) (e : Nat) (x : Engine) (g : RegField) : (s.setEngine e x).rd g = s.rd g := by rfl

/-! ### setFlow -/

@[simp] theorem State.setFlow_regs (s : State) (f : Nat) (x : Flow) : (s.setFlow f x).regs = s.regs := by rfl
@[simp] theorem State.setFlow_hif (s : State) (f : Nat) (x : Flow) : (s.setFlow f x).hif = s.hif := by rfl
@[simp] theorem State.setFlow_jrnl (s : State) (f : Nat) (x : Flow) : (s.setFlow f x).jrnl = s.jrnl := by rfl
@[simp] theorem State.setFlow_hlth (s : State) (f : Nat) (x : Flow) : (s.setFlow f x).hlth = s.hlth := by rfl
@[simp] theorem State.setFlow_snap (s : State) (f : Nat) (x : Flow) : (s.setFlow f x).snap = s.snap := by rfl
@[simp] theorem State.setFlow_time (s : State) (f : Nat) (x : Flow) : (s.setFlow f x).time = s.time := by rfl
@[simp] theorem State.setFlow_streams (s : State) (f : Nat) (x : Flow) : (s.setFlow f x).streams = s.streams := by rfl
@[simp] theorem State.setFlow_dec (s : State) (f : Nat) (x : Flow) : (s.setFlow f x).dec = s.dec := by rfl
@[simp] theorem State.setFlow_shp (s : State) (f : Nat) (x : Flow) : (s.setFlow f x).shp = s.shp := by rfl
@[simp] theorem State.setFlow_sgs (s : State) (f : Nat) (x : Flow) : (s.setFlow f x).sgs = s.sgs := by rfl
@[simp] theorem State.setFlow_progs (s : State) (f : Nat) (x : Flow) : (s.setFlow f x).progs = s.progs := by rfl
@[simp] theorem State.setFlow_tbl (s : State) (f : Nat) (x : Flow) : (s.setFlow f x).tbl = s.tbl := by rfl
@[simp] theorem State.setFlow_jobs (s : State) (f : Nat) (x : Flow) : (s.setFlow f x).jobs = s.jobs := by rfl
@[simp] theorem State.setFlow_nextJob (s : State) (f : Nat) (x : Flow) : (s.setFlow f x).nextJob = s.nextJob := by rfl
@[simp] theorem State.setFlow_cores (s : State) (f : Nat) (x : Flow) : (s.setFlow f x).cores = s.cores := by rfl
@[simp] theorem State.setFlow_sched (s : State) (f : Nat) (x : Flow) : (s.setFlow f x).sched = s.sched := by rfl
@[simp] theorem State.setFlow_pools (s : State) (f : Nat) (x : Flow) : (s.setFlow f x).pools = s.pools := by rfl
@[simp] theorem State.setFlow_mem (s : State) (f : Nat) (x : Flow) : (s.setFlow f x).mem = s.mem := by rfl
@[simp] theorem State.setFlow_hbm (s : State) (f : Nat) (x : Flow) : (s.setFlow f x).hbm = s.hbm := by rfl
@[simp] theorem State.setFlow_lnk (s : State) (f : Nat) (x : Flow) : (s.setFlow f x).lnk = s.lnk := by rfl
@[simp] theorem State.setFlow_pwr (s : State) (f : Nat) (x : Flow) : (s.setFlow f x).pwr = s.pwr := by rfl
@[simp] theorem State.setFlow_sec (s : State) (f : Nat) (x : Flow) : (s.setFlow f x).sec = s.sec := by rfl
@[simp] theorem State.setFlow_counters (s : State) (f : Nat) (x : Flow) : (s.setFlow f x).counters = s.counters := by rfl
@[simp] theorem State.setFlow_free (s : State) (f : Nat) (x : Flow) : (s.setFlow f x).free = s.free := by rfl
@[simp] theorem State.setFlow_out (s : State) (f : Nat) (x : Flow) : (s.setFlow f x).out = s.out := by rfl
@[simp] theorem State.setFlow_pending (s : State) (f : Nat) (x : Flow) : (s.setFlow f x).pending = s.pending := by rfl
@[simp] theorem State.setFlow_reg (s : State) (f : Nat) (x : Flow) (k : Nat) : (s.setFlow f x).reg k = s.reg k := by rfl
@[simp] theorem State.setFlow_rd (s : State) (f : Nat) (x : Flow) (g : RegField) : (s.setFlow f x).rd g = s.rd g := by rfl

/-! ### setProg -/

@[simp] theorem State.setProg_regs (s : State) (p : Nat) (x : Prog) : (s.setProg p x).regs = s.regs := by rfl
@[simp] theorem State.setProg_hif (s : State) (p : Nat) (x : Prog) : (s.setProg p x).hif = s.hif := by rfl
@[simp] theorem State.setProg_jrnl (s : State) (p : Nat) (x : Prog) : (s.setProg p x).jrnl = s.jrnl := by rfl
@[simp] theorem State.setProg_hlth (s : State) (p : Nat) (x : Prog) : (s.setProg p x).hlth = s.hlth := by rfl
@[simp] theorem State.setProg_snap (s : State) (p : Nat) (x : Prog) : (s.setProg p x).snap = s.snap := by rfl
@[simp] theorem State.setProg_time (s : State) (p : Nat) (x : Prog) : (s.setProg p x).time = s.time := by rfl
@[simp] theorem State.setProg_streams (s : State) (p : Nat) (x : Prog) : (s.setProg p x).streams = s.streams := by rfl
@[simp] theorem State.setProg_dec (s : State) (p : Nat) (x : Prog) : (s.setProg p x).dec = s.dec := by rfl
@[simp] theorem State.setProg_net (s : State) (p : Nat) (x : Prog) : (s.setProg p x).net = s.net := by rfl
@[simp] theorem State.setProg_shp (s : State) (p : Nat) (x : Prog) : (s.setProg p x).shp = s.shp := by rfl
@[simp] theorem State.setProg_sgs (s : State) (p : Nat) (x : Prog) : (s.setProg p x).sgs = s.sgs := by rfl
@[simp] theorem State.setProg_tbl (s : State) (p : Nat) (x : Prog) : (s.setProg p x).tbl = s.tbl := by rfl
@[simp] theorem State.setProg_jobs (s : State) (p : Nat) (x : Prog) : (s.setProg p x).jobs = s.jobs := by rfl
@[simp] theorem State.setProg_nextJob (s : State) (p : Nat) (x : Prog) : (s.setProg p x).nextJob = s.nextJob := by rfl
@[simp] theorem State.setProg_cores (s : State) (p : Nat) (x : Prog) : (s.setProg p x).cores = s.cores := by rfl
@[simp] theorem State.setProg_sched (s : State) (p : Nat) (x : Prog) : (s.setProg p x).sched = s.sched := by rfl
@[simp] theorem State.setProg_pools (s : State) (p : Nat) (x : Prog) : (s.setProg p x).pools = s.pools := by rfl
@[simp] theorem State.setProg_mem (s : State) (p : Nat) (x : Prog) : (s.setProg p x).mem = s.mem := by rfl
@[simp] theorem State.setProg_hbm (s : State) (p : Nat) (x : Prog) : (s.setProg p x).hbm = s.hbm := by rfl
@[simp] theorem State.setProg_lnk (s : State) (p : Nat) (x : Prog) : (s.setProg p x).lnk = s.lnk := by rfl
@[simp] theorem State.setProg_pwr (s : State) (p : Nat) (x : Prog) : (s.setProg p x).pwr = s.pwr := by rfl
@[simp] theorem State.setProg_sec (s : State) (p : Nat) (x : Prog) : (s.setProg p x).sec = s.sec := by rfl
@[simp] theorem State.setProg_counters (s : State) (p : Nat) (x : Prog) : (s.setProg p x).counters = s.counters := by rfl
@[simp] theorem State.setProg_free (s : State) (p : Nat) (x : Prog) : (s.setProg p x).free = s.free := by rfl
@[simp] theorem State.setProg_out (s : State) (p : Nat) (x : Prog) : (s.setProg p x).out = s.out := by rfl
@[simp] theorem State.setProg_pending (s : State) (p : Nat) (x : Prog) : (s.setProg p x).pending = s.pending := by rfl
@[simp] theorem State.setProg_reg (s : State) (p : Nat) (x : Prog) (k : Nat) : (s.setProg p x).reg k = s.reg k := by rfl
@[simp] theorem State.setProg_rd (s : State) (p : Nat) (x : Prog) (g : RegField) : (s.setProg p x).rd g = s.rd g := by rfl

/-! ### setPool -/

@[simp] theorem State.setPool_regs (s : State) (c : Nat) (x : PoolCls) : (s.setPool c x).regs = s.regs := by rfl
@[simp] theorem State.setPool_hif (s : State) (c : Nat) (x : PoolCls) : (s.setPool c x).hif = s.hif := by rfl
@[simp] theorem State.setPool_jrnl (s : State) (c : Nat) (x : PoolCls) : (s.setPool c x).jrnl = s.jrnl := by rfl
@[simp] theorem State.setPool_hlth (s : State) (c : Nat) (x : PoolCls) : (s.setPool c x).hlth = s.hlth := by rfl
@[simp] theorem State.setPool_snap (s : State) (c : Nat) (x : PoolCls) : (s.setPool c x).snap = s.snap := by rfl
@[simp] theorem State.setPool_time (s : State) (c : Nat) (x : PoolCls) : (s.setPool c x).time = s.time := by rfl
@[simp] theorem State.setPool_streams (s : State) (c : Nat) (x : PoolCls) : (s.setPool c x).streams = s.streams := by rfl
@[simp] theorem State.setPool_dec (s : State) (c : Nat) (x : PoolCls) : (s.setPool c x).dec = s.dec := by rfl
@[simp] theorem State.setPool_net (s : State) (c : Nat) (x : PoolCls) : (s.setPool c x).net = s.net := by rfl
@[simp] theorem State.setPool_shp (s : State) (c : Nat) (x : PoolCls) : (s.setPool c x).shp = s.shp := by rfl
@[simp] theorem State.setPool_sgs (s : State) (c : Nat) (x : PoolCls) : (s.setPool c x).sgs = s.sgs := by rfl
@[simp] theorem State.setPool_progs (s : State) (c : Nat) (x : PoolCls) : (s.setPool c x).progs = s.progs := by rfl
@[simp] theorem State.setPool_tbl (s : State) (c : Nat) (x : PoolCls) : (s.setPool c x).tbl = s.tbl := by rfl
@[simp] theorem State.setPool_jobs (s : State) (c : Nat) (x : PoolCls) : (s.setPool c x).jobs = s.jobs := by rfl
@[simp] theorem State.setPool_nextJob (s : State) (c : Nat) (x : PoolCls) : (s.setPool c x).nextJob = s.nextJob := by rfl
@[simp] theorem State.setPool_cores (s : State) (c : Nat) (x : PoolCls) : (s.setPool c x).cores = s.cores := by rfl
@[simp] theorem State.setPool_sched (s : State) (c : Nat) (x : PoolCls) : (s.setPool c x).sched = s.sched := by rfl
@[simp] theorem State.setPool_mem (s : State) (c : Nat) (x : PoolCls) : (s.setPool c x).mem = s.mem := by rfl
@[simp] theorem State.setPool_hbm (s : State) (c : Nat) (x : PoolCls) : (s.setPool c x).hbm = s.hbm := by rfl
@[simp] theorem State.setPool_lnk (s : State) (c : Nat) (x : PoolCls) : (s.setPool c x).lnk = s.lnk := by rfl
@[simp] theorem State.setPool_pwr (s : State) (c : Nat) (x : PoolCls) : (s.setPool c x).pwr = s.pwr := by rfl
@[simp] theorem State.setPool_sec (s : State) (c : Nat) (x : PoolCls) : (s.setPool c x).sec = s.sec := by rfl
@[simp] theorem State.setPool_counters (s : State) (c : Nat) (x : PoolCls) : (s.setPool c x).counters = s.counters := by rfl
@[simp] theorem State.setPool_free (s : State) (c : Nat) (x : PoolCls) : (s.setPool c x).free = s.free := by rfl
@[simp] theorem State.setPool_out (s : State) (c : Nat) (x : PoolCls) : (s.setPool c x).out = s.out := by rfl
@[simp] theorem State.setPool_pending (s : State) (c : Nat) (x : PoolCls) : (s.setPool c x).pending = s.pending := by rfl
@[simp] theorem State.setPool_reg (s : State) (c : Nat) (x : PoolCls) (k : Nat) : (s.setPool c x).reg k = s.reg k := by rfl
@[simp] theorem State.setPool_rd (s : State) (c : Nat) (x : PoolCls) (g : RegField) : (s.setPool c x).rd g = s.rd g := by rfl

/-! ### setSgs -/

@[simp] theorem State.setSgs_regs (s : State) (n : Nat) (x : SgsStream) : (s.setSgs n x).regs = s.regs := by rfl
@[simp] theorem State.setSgs_hif (s : State) (n : Nat) (x : SgsStream) : (s.setSgs n x).hif = s.hif := by rfl
@[simp] theorem State.setSgs_jrnl (s : State) (n : Nat) (x : SgsStream) : (s.setSgs n x).jrnl = s.jrnl := by rfl
@[simp] theorem State.setSgs_hlth (s : State) (n : Nat) (x : SgsStream) : (s.setSgs n x).hlth = s.hlth := by rfl
@[simp] theorem State.setSgs_snap (s : State) (n : Nat) (x : SgsStream) : (s.setSgs n x).snap = s.snap := by rfl
@[simp] theorem State.setSgs_time (s : State) (n : Nat) (x : SgsStream) : (s.setSgs n x).time = s.time := by rfl
@[simp] theorem State.setSgs_streams (s : State) (n : Nat) (x : SgsStream) : (s.setSgs n x).streams = s.streams := by rfl
@[simp] theorem State.setSgs_dec (s : State) (n : Nat) (x : SgsStream) : (s.setSgs n x).dec = s.dec := by rfl
@[simp] theorem State.setSgs_net (s : State) (n : Nat) (x : SgsStream) : (s.setSgs n x).net = s.net := by rfl
@[simp] theorem State.setSgs_shp (s : State) (n : Nat) (x : SgsStream) : (s.setSgs n x).shp = s.shp := by rfl
@[simp] theorem State.setSgs_progs (s : State) (n : Nat) (x : SgsStream) : (s.setSgs n x).progs = s.progs := by rfl
@[simp] theorem State.setSgs_tbl (s : State) (n : Nat) (x : SgsStream) : (s.setSgs n x).tbl = s.tbl := by rfl
@[simp] theorem State.setSgs_jobs (s : State) (n : Nat) (x : SgsStream) : (s.setSgs n x).jobs = s.jobs := by rfl
@[simp] theorem State.setSgs_nextJob (s : State) (n : Nat) (x : SgsStream) : (s.setSgs n x).nextJob = s.nextJob := by rfl
@[simp] theorem State.setSgs_cores (s : State) (n : Nat) (x : SgsStream) : (s.setSgs n x).cores = s.cores := by rfl
@[simp] theorem State.setSgs_sched (s : State) (n : Nat) (x : SgsStream) : (s.setSgs n x).sched = s.sched := by rfl
@[simp] theorem State.setSgs_pools (s : State) (n : Nat) (x : SgsStream) : (s.setSgs n x).pools = s.pools := by rfl
@[simp] theorem State.setSgs_mem (s : State) (n : Nat) (x : SgsStream) : (s.setSgs n x).mem = s.mem := by rfl
@[simp] theorem State.setSgs_hbm (s : State) (n : Nat) (x : SgsStream) : (s.setSgs n x).hbm = s.hbm := by rfl
@[simp] theorem State.setSgs_lnk (s : State) (n : Nat) (x : SgsStream) : (s.setSgs n x).lnk = s.lnk := by rfl
@[simp] theorem State.setSgs_pwr (s : State) (n : Nat) (x : SgsStream) : (s.setSgs n x).pwr = s.pwr := by rfl
@[simp] theorem State.setSgs_sec (s : State) (n : Nat) (x : SgsStream) : (s.setSgs n x).sec = s.sec := by rfl
@[simp] theorem State.setSgs_counters (s : State) (n : Nat) (x : SgsStream) : (s.setSgs n x).counters = s.counters := by rfl
@[simp] theorem State.setSgs_free (s : State) (n : Nat) (x : SgsStream) : (s.setSgs n x).free = s.free := by rfl
@[simp] theorem State.setSgs_out (s : State) (n : Nat) (x : SgsStream) : (s.setSgs n x).out = s.out := by rfl
@[simp] theorem State.setSgs_pending (s : State) (n : Nat) (x : SgsStream) : (s.setSgs n x).pending = s.pending := by rfl
@[simp] theorem State.setSgs_reg (s : State) (n : Nat) (x : SgsStream) (k : Nat) : (s.setSgs n x).reg k = s.reg k := by rfl
@[simp] theorem State.setSgs_rd (s : State) (n : Nat) (x : SgsStream) (g : RegField) : (s.setSgs n x).rd g = s.rd g := by rfl

/-! ### setCore -/

@[simp] theorem State.setCore_regs (s : State) (c : Nat) (x : Core) : (s.setCore c x).regs = s.regs := by rfl
@[simp] theorem State.setCore_hif (s : State) (c : Nat) (x : Core) : (s.setCore c x).hif = s.hif := by rfl
@[simp] theorem State.setCore_jrnl (s : State) (c : Nat) (x : Core) : (s.setCore c x).jrnl = s.jrnl := by rfl
@[simp] theorem State.setCore_hlth (s : State) (c : Nat) (x : Core) : (s.setCore c x).hlth = s.hlth := by rfl
@[simp] theorem State.setCore_snap (s : State) (c : Nat) (x : Core) : (s.setCore c x).snap = s.snap := by rfl
@[simp] theorem State.setCore_time (s : State) (c : Nat) (x : Core) : (s.setCore c x).time = s.time := by rfl
@[simp] theorem State.setCore_streams (s : State) (c : Nat) (x : Core) : (s.setCore c x).streams = s.streams := by rfl
@[simp] theorem State.setCore_dec (s : State) (c : Nat) (x : Core) : (s.setCore c x).dec = s.dec := by rfl
@[simp] theorem State.setCore_net (s : State) (c : Nat) (x : Core) : (s.setCore c x).net = s.net := by rfl
@[simp] theorem State.setCore_shp (s : State) (c : Nat) (x : Core) : (s.setCore c x).shp = s.shp := by rfl
@[simp] theorem State.setCore_sgs (s : State) (c : Nat) (x : Core) : (s.setCore c x).sgs = s.sgs := by rfl
@[simp] theorem State.setCore_progs (s : State) (c : Nat) (x : Core) : (s.setCore c x).progs = s.progs := by rfl
@[simp] theorem State.setCore_tbl (s : State) (c : Nat) (x : Core) : (s.setCore c x).tbl = s.tbl := by rfl
@[simp] theorem State.setCore_jobs (s : State) (c : Nat) (x : Core) : (s.setCore c x).jobs = s.jobs := by rfl
@[simp] theorem State.setCore_nextJob (s : State) (c : Nat) (x : Core) : (s.setCore c x).nextJob = s.nextJob := by rfl
@[simp] theorem State.setCore_sched (s : State) (c : Nat) (x : Core) : (s.setCore c x).sched = s.sched := by rfl
@[simp] theorem State.setCore_pools (s : State) (c : Nat) (x : Core) : (s.setCore c x).pools = s.pools := by rfl
@[simp] theorem State.setCore_mem (s : State) (c : Nat) (x : Core) : (s.setCore c x).mem = s.mem := by rfl
@[simp] theorem State.setCore_hbm (s : State) (c : Nat) (x : Core) : (s.setCore c x).hbm = s.hbm := by rfl
@[simp] theorem State.setCore_lnk (s : State) (c : Nat) (x : Core) : (s.setCore c x).lnk = s.lnk := by rfl
@[simp] theorem State.setCore_pwr (s : State) (c : Nat) (x : Core) : (s.setCore c x).pwr = s.pwr := by rfl
@[simp] theorem State.setCore_sec (s : State) (c : Nat) (x : Core) : (s.setCore c x).sec = s.sec := by rfl
@[simp] theorem State.setCore_counters (s : State) (c : Nat) (x : Core) : (s.setCore c x).counters = s.counters := by rfl
@[simp] theorem State.setCore_free (s : State) (c : Nat) (x : Core) : (s.setCore c x).free = s.free := by rfl
@[simp] theorem State.setCore_out (s : State) (c : Nat) (x : Core) : (s.setCore c x).out = s.out := by rfl
@[simp] theorem State.setCore_pending (s : State) (c : Nat) (x : Core) : (s.setCore c x).pending = s.pending := by rfl
@[simp] theorem State.setCore_reg (s : State) (c : Nat) (x : Core) (k : Nat) : (s.setCore c x).reg k = s.reg k := by rfl
@[simp] theorem State.setCore_rd (s : State) (c : Nat) (x : Core) (g : RegField) : (s.setCore c x).rd g = s.rd g := by rfl

/-! ### setEthPort -/

@[simp] theorem State.setEthPort_regs (s : State) (p : Nat) (x : EthPort) : (s.setEthPort p x).regs = s.regs := by rfl
@[simp] theorem State.setEthPort_hif (s : State) (p : Nat) (x : EthPort) : (s.setEthPort p x).hif = s.hif := by rfl
@[simp] theorem State.setEthPort_jrnl (s : State) (p : Nat) (x : EthPort) : (s.setEthPort p x).jrnl = s.jrnl := by rfl
@[simp] theorem State.setEthPort_hlth (s : State) (p : Nat) (x : EthPort) : (s.setEthPort p x).hlth = s.hlth := by rfl
@[simp] theorem State.setEthPort_snap (s : State) (p : Nat) (x : EthPort) : (s.setEthPort p x).snap = s.snap := by rfl
@[simp] theorem State.setEthPort_time (s : State) (p : Nat) (x : EthPort) : (s.setEthPort p x).time = s.time := by rfl
@[simp] theorem State.setEthPort_streams (s : State) (p : Nat) (x : EthPort) : (s.setEthPort p x).streams = s.streams := by rfl
@[simp] theorem State.setEthPort_dec (s : State) (p : Nat) (x : EthPort) : (s.setEthPort p x).dec = s.dec := by rfl
@[simp] theorem State.setEthPort_shp (s : State) (p : Nat) (x : EthPort) : (s.setEthPort p x).shp = s.shp := by rfl
@[simp] theorem State.setEthPort_sgs (s : State) (p : Nat) (x : EthPort) : (s.setEthPort p x).sgs = s.sgs := by rfl
@[simp] theorem State.setEthPort_progs (s : State) (p : Nat) (x : EthPort) : (s.setEthPort p x).progs = s.progs := by rfl
@[simp] theorem State.setEthPort_tbl (s : State) (p : Nat) (x : EthPort) : (s.setEthPort p x).tbl = s.tbl := by rfl
@[simp] theorem State.setEthPort_jobs (s : State) (p : Nat) (x : EthPort) : (s.setEthPort p x).jobs = s.jobs := by rfl
@[simp] theorem State.setEthPort_nextJob (s : State) (p : Nat) (x : EthPort) : (s.setEthPort p x).nextJob = s.nextJob := by rfl
@[simp] theorem State.setEthPort_cores (s : State) (p : Nat) (x : EthPort) : (s.setEthPort p x).cores = s.cores := by rfl
@[simp] theorem State.setEthPort_sched (s : State) (p : Nat) (x : EthPort) : (s.setEthPort p x).sched = s.sched := by rfl
@[simp] theorem State.setEthPort_pools (s : State) (p : Nat) (x : EthPort) : (s.setEthPort p x).pools = s.pools := by rfl
@[simp] theorem State.setEthPort_mem (s : State) (p : Nat) (x : EthPort) : (s.setEthPort p x).mem = s.mem := by rfl
@[simp] theorem State.setEthPort_hbm (s : State) (p : Nat) (x : EthPort) : (s.setEthPort p x).hbm = s.hbm := by rfl
@[simp] theorem State.setEthPort_lnk (s : State) (p : Nat) (x : EthPort) : (s.setEthPort p x).lnk = s.lnk := by rfl
@[simp] theorem State.setEthPort_pwr (s : State) (p : Nat) (x : EthPort) : (s.setEthPort p x).pwr = s.pwr := by rfl
@[simp] theorem State.setEthPort_sec (s : State) (p : Nat) (x : EthPort) : (s.setEthPort p x).sec = s.sec := by rfl
@[simp] theorem State.setEthPort_counters (s : State) (p : Nat) (x : EthPort) : (s.setEthPort p x).counters = s.counters := by rfl
@[simp] theorem State.setEthPort_free (s : State) (p : Nat) (x : EthPort) : (s.setEthPort p x).free = s.free := by rfl
@[simp] theorem State.setEthPort_out (s : State) (p : Nat) (x : EthPort) : (s.setEthPort p x).out = s.out := by rfl
@[simp] theorem State.setEthPort_pending (s : State) (p : Nat) (x : EthPort) : (s.setEthPort p x).pending = s.pending := by rfl
@[simp] theorem State.setEthPort_reg (s : State) (p : Nat) (x : EthPort) (k : Nat) : (s.setEthPort p x).reg k = s.reg k := by rfl
@[simp] theorem State.setEthPort_rd (s : State) (p : Nat) (x : EthPort) (g : RegField) : (s.setEthPort p x).rd g = s.rd g := by rfl

/-! ### setLport -/

@[simp] theorem State.setLport_regs (s : State) (p : Nat) (x : LnkPort) : (s.setLport p x).regs = s.regs := by rfl
@[simp] theorem State.setLport_hif (s : State) (p : Nat) (x : LnkPort) : (s.setLport p x).hif = s.hif := by rfl
@[simp] theorem State.setLport_jrnl (s : State) (p : Nat) (x : LnkPort) : (s.setLport p x).jrnl = s.jrnl := by rfl
@[simp] theorem State.setLport_hlth (s : State) (p : Nat) (x : LnkPort) : (s.setLport p x).hlth = s.hlth := by rfl
@[simp] theorem State.setLport_snap (s : State) (p : Nat) (x : LnkPort) : (s.setLport p x).snap = s.snap := by rfl
@[simp] theorem State.setLport_time (s : State) (p : Nat) (x : LnkPort) : (s.setLport p x).time = s.time := by rfl
@[simp] theorem State.setLport_streams (s : State) (p : Nat) (x : LnkPort) : (s.setLport p x).streams = s.streams := by rfl
@[simp] theorem State.setLport_dec (s : State) (p : Nat) (x : LnkPort) : (s.setLport p x).dec = s.dec := by rfl
@[simp] theorem State.setLport_net (s : State) (p : Nat) (x : LnkPort) : (s.setLport p x).net = s.net := by rfl
@[simp] theorem State.setLport_shp (s : State) (p : Nat) (x : LnkPort) : (s.setLport p x).shp = s.shp := by rfl
@[simp] theorem State.setLport_sgs (s : State) (p : Nat) (x : LnkPort) : (s.setLport p x).sgs = s.sgs := by rfl
@[simp] theorem State.setLport_progs (s : State) (p : Nat) (x : LnkPort) : (s.setLport p x).progs = s.progs := by rfl
@[simp] theorem State.setLport_tbl (s : State) (p : Nat) (x : LnkPort) : (s.setLport p x).tbl = s.tbl := by rfl
@[simp] theorem State.setLport_jobs (s : State) (p : Nat) (x : LnkPort) : (s.setLport p x).jobs = s.jobs := by rfl
@[simp] theorem State.setLport_nextJob (s : State) (p : Nat) (x : LnkPort) : (s.setLport p x).nextJob = s.nextJob := by rfl
@[simp] theorem State.setLport_cores (s : State) (p : Nat) (x : LnkPort) : (s.setLport p x).cores = s.cores := by rfl
@[simp] theorem State.setLport_sched (s : State) (p : Nat) (x : LnkPort) : (s.setLport p x).sched = s.sched := by rfl
@[simp] theorem State.setLport_pools (s : State) (p : Nat) (x : LnkPort) : (s.setLport p x).pools = s.pools := by rfl
@[simp] theorem State.setLport_mem (s : State) (p : Nat) (x : LnkPort) : (s.setLport p x).mem = s.mem := by rfl
@[simp] theorem State.setLport_hbm (s : State) (p : Nat) (x : LnkPort) : (s.setLport p x).hbm = s.hbm := by rfl
@[simp] theorem State.setLport_pwr (s : State) (p : Nat) (x : LnkPort) : (s.setLport p x).pwr = s.pwr := by rfl
@[simp] theorem State.setLport_sec (s : State) (p : Nat) (x : LnkPort) : (s.setLport p x).sec = s.sec := by rfl
@[simp] theorem State.setLport_counters (s : State) (p : Nat) (x : LnkPort) : (s.setLport p x).counters = s.counters := by rfl
@[simp] theorem State.setLport_free (s : State) (p : Nat) (x : LnkPort) : (s.setLport p x).free = s.free := by rfl
@[simp] theorem State.setLport_out (s : State) (p : Nat) (x : LnkPort) : (s.setLport p x).out = s.out := by rfl
@[simp] theorem State.setLport_pending (s : State) (p : Nat) (x : LnkPort) : (s.setLport p x).pending = s.pending := by rfl
@[simp] theorem State.setLport_reg (s : State) (p : Nat) (x : LnkPort) (k : Nat) : (s.setLport p x).reg k = s.reg k := by rfl
@[simp] theorem State.setLport_rd (s : State) (p : Nat) (x : LnkPort) (g : RegField) : (s.setLport p x).rd g = s.rd g := by rfl

/-! ### setPchan -/

@[simp] theorem State.setPchan_regs (s : State) (p : Nat) (x : PChan) : (s.setPchan p x).regs = s.regs := by rfl
@[simp] theorem State.setPchan_hif (s : State) (p : Nat) (x : PChan) : (s.setPchan p x).hif = s.hif := by rfl
@[simp] theorem State.setPchan_jrnl (s : State) (p : Nat) (x : PChan) : (s.setPchan p x).jrnl = s.jrnl := by rfl
@[simp] theorem State.setPchan_hlth (s : State) (p : Nat) (x : PChan) : (s.setPchan p x).hlth = s.hlth := by rfl
@[simp] theorem State.setPchan_snap (s : State) (p : Nat) (x : PChan) : (s.setPchan p x).snap = s.snap := by rfl
@[simp] theorem State.setPchan_time (s : State) (p : Nat) (x : PChan) : (s.setPchan p x).time = s.time := by rfl
@[simp] theorem State.setPchan_streams (s : State) (p : Nat) (x : PChan) : (s.setPchan p x).streams = s.streams := by rfl
@[simp] theorem State.setPchan_dec (s : State) (p : Nat) (x : PChan) : (s.setPchan p x).dec = s.dec := by rfl
@[simp] theorem State.setPchan_net (s : State) (p : Nat) (x : PChan) : (s.setPchan p x).net = s.net := by rfl
@[simp] theorem State.setPchan_shp (s : State) (p : Nat) (x : PChan) : (s.setPchan p x).shp = s.shp := by rfl
@[simp] theorem State.setPchan_sgs (s : State) (p : Nat) (x : PChan) : (s.setPchan p x).sgs = s.sgs := by rfl
@[simp] theorem State.setPchan_progs (s : State) (p : Nat) (x : PChan) : (s.setPchan p x).progs = s.progs := by rfl
@[simp] theorem State.setPchan_tbl (s : State) (p : Nat) (x : PChan) : (s.setPchan p x).tbl = s.tbl := by rfl
@[simp] theorem State.setPchan_jobs (s : State) (p : Nat) (x : PChan) : (s.setPchan p x).jobs = s.jobs := by rfl
@[simp] theorem State.setPchan_nextJob (s : State) (p : Nat) (x : PChan) : (s.setPchan p x).nextJob = s.nextJob := by rfl
@[simp] theorem State.setPchan_cores (s : State) (p : Nat) (x : PChan) : (s.setPchan p x).cores = s.cores := by rfl
@[simp] theorem State.setPchan_sched (s : State) (p : Nat) (x : PChan) : (s.setPchan p x).sched = s.sched := by rfl
@[simp] theorem State.setPchan_pools (s : State) (p : Nat) (x : PChan) : (s.setPchan p x).pools = s.pools := by rfl
@[simp] theorem State.setPchan_mem (s : State) (p : Nat) (x : PChan) : (s.setPchan p x).mem = s.mem := by rfl
@[simp] theorem State.setPchan_lnk (s : State) (p : Nat) (x : PChan) : (s.setPchan p x).lnk = s.lnk := by rfl
@[simp] theorem State.setPchan_pwr (s : State) (p : Nat) (x : PChan) : (s.setPchan p x).pwr = s.pwr := by rfl
@[simp] theorem State.setPchan_sec (s : State) (p : Nat) (x : PChan) : (s.setPchan p x).sec = s.sec := by rfl
@[simp] theorem State.setPchan_counters (s : State) (p : Nat) (x : PChan) : (s.setPchan p x).counters = s.counters := by rfl
@[simp] theorem State.setPchan_free (s : State) (p : Nat) (x : PChan) : (s.setPchan p x).free = s.free := by rfl
@[simp] theorem State.setPchan_out (s : State) (p : Nat) (x : PChan) : (s.setPchan p x).out = s.out := by rfl
@[simp] theorem State.setPchan_pending (s : State) (p : Nat) (x : PChan) : (s.setPchan p x).pending = s.pending := by rfl
@[simp] theorem State.setPchan_reg (s : State) (p : Nat) (x : PChan) (k : Nat) : (s.setPchan p x).reg k = s.reg k := by rfl
@[simp] theorem State.setPchan_rd (s : State) (p : Nat) (x : PChan) (g : RegField) : (s.setPchan p x).rd g = s.rd g := by rfl

/-! ### setStationBuf -/

@[simp] theorem State.setStationBuf_regs (s : State) (k : Nat) (x : StationBuf) : (s.setStationBuf k x).regs = s.regs := by rfl
@[simp] theorem State.setStationBuf_hif (s : State) (k : Nat) (x : StationBuf) : (s.setStationBuf k x).hif = s.hif := by rfl
@[simp] theorem State.setStationBuf_jrnl (s : State) (k : Nat) (x : StationBuf) : (s.setStationBuf k x).jrnl = s.jrnl := by rfl
@[simp] theorem State.setStationBuf_hlth (s : State) (k : Nat) (x : StationBuf) : (s.setStationBuf k x).hlth = s.hlth := by rfl
@[simp] theorem State.setStationBuf_snap (s : State) (k : Nat) (x : StationBuf) : (s.setStationBuf k x).snap = s.snap := by rfl
@[simp] theorem State.setStationBuf_time (s : State) (k : Nat) (x : StationBuf) : (s.setStationBuf k x).time = s.time := by rfl
@[simp] theorem State.setStationBuf_streams (s : State) (k : Nat) (x : StationBuf) : (s.setStationBuf k x).streams = s.streams := by rfl
@[simp] theorem State.setStationBuf_dec (s : State) (k : Nat) (x : StationBuf) : (s.setStationBuf k x).dec = s.dec := by rfl
@[simp] theorem State.setStationBuf_net (s : State) (k : Nat) (x : StationBuf) : (s.setStationBuf k x).net = s.net := by rfl
@[simp] theorem State.setStationBuf_shp (s : State) (k : Nat) (x : StationBuf) : (s.setStationBuf k x).shp = s.shp := by rfl
@[simp] theorem State.setStationBuf_sgs (s : State) (k : Nat) (x : StationBuf) : (s.setStationBuf k x).sgs = s.sgs := by rfl
@[simp] theorem State.setStationBuf_progs (s : State) (k : Nat) (x : StationBuf) : (s.setStationBuf k x).progs = s.progs := by rfl
@[simp] theorem State.setStationBuf_tbl (s : State) (k : Nat) (x : StationBuf) : (s.setStationBuf k x).tbl = s.tbl := by rfl
@[simp] theorem State.setStationBuf_jobs (s : State) (k : Nat) (x : StationBuf) : (s.setStationBuf k x).jobs = s.jobs := by rfl
@[simp] theorem State.setStationBuf_nextJob (s : State) (k : Nat) (x : StationBuf) : (s.setStationBuf k x).nextJob = s.nextJob := by rfl
@[simp] theorem State.setStationBuf_cores (s : State) (k : Nat) (x : StationBuf) : (s.setStationBuf k x).cores = s.cores := by rfl
@[simp] theorem State.setStationBuf_sched (s : State) (k : Nat) (x : StationBuf) : (s.setStationBuf k x).sched = s.sched := by rfl
@[simp] theorem State.setStationBuf_pools (s : State) (k : Nat) (x : StationBuf) : (s.setStationBuf k x).pools = s.pools := by rfl
@[simp] theorem State.setStationBuf_hbm (s : State) (k : Nat) (x : StationBuf) : (s.setStationBuf k x).hbm = s.hbm := by rfl
@[simp] theorem State.setStationBuf_lnk (s : State) (k : Nat) (x : StationBuf) : (s.setStationBuf k x).lnk = s.lnk := by rfl
@[simp] theorem State.setStationBuf_pwr (s : State) (k : Nat) (x : StationBuf) : (s.setStationBuf k x).pwr = s.pwr := by rfl
@[simp] theorem State.setStationBuf_sec (s : State) (k : Nat) (x : StationBuf) : (s.setStationBuf k x).sec = s.sec := by rfl
@[simp] theorem State.setStationBuf_counters (s : State) (k : Nat) (x : StationBuf) : (s.setStationBuf k x).counters = s.counters := by rfl
@[simp] theorem State.setStationBuf_free (s : State) (k : Nat) (x : StationBuf) : (s.setStationBuf k x).free = s.free := by rfl
@[simp] theorem State.setStationBuf_out (s : State) (k : Nat) (x : StationBuf) : (s.setStationBuf k x).out = s.out := by rfl
@[simp] theorem State.setStationBuf_pending (s : State) (k : Nat) (x : StationBuf) : (s.setStationBuf k x).pending = s.pending := by rfl
@[simp] theorem State.setStationBuf_reg (s : State) (k : Nat) (x : StationBuf) (k : Nat) : (s.setStationBuf k x).reg k = s.reg k := by rfl
@[simp] theorem State.setStationBuf_rd (s : State) (k : Nat) (x : StationBuf) (g : RegField) : (s.setStationBuf k x).rd g = s.rd g := by rfl

/-! ### setTpoNext -/

@[simp] theorem State.setTpoNext_regs (s : State) (k : Nat) (x : Option Nat) : (s.setTpoNext k x).regs = s.regs := by rfl
@[simp] theorem State.setTpoNext_hif (s : State) (k : Nat) (x : Option Nat) : (s.setTpoNext k x).hif = s.hif := by rfl
@[simp] theorem State.setTpoNext_jrnl (s : State) (k : Nat) (x : Option Nat) : (s.setTpoNext k x).jrnl = s.jrnl := by rfl
@[simp] theorem State.setTpoNext_hlth (s : State) (k : Nat) (x : Option Nat) : (s.setTpoNext k x).hlth = s.hlth := by rfl
@[simp] theorem State.setTpoNext_snap (s : State) (k : Nat) (x : Option Nat) : (s.setTpoNext k x).snap = s.snap := by rfl
@[simp] theorem State.setTpoNext_streams (s : State) (k : Nat) (x : Option Nat) : (s.setTpoNext k x).streams = s.streams := by rfl
@[simp] theorem State.setTpoNext_dec (s : State) (k : Nat) (x : Option Nat) : (s.setTpoNext k x).dec = s.dec := by rfl
@[simp] theorem State.setTpoNext_net (s : State) (k : Nat) (x : Option Nat) : (s.setTpoNext k x).net = s.net := by rfl
@[simp] theorem State.setTpoNext_shp (s : State) (k : Nat) (x : Option Nat) : (s.setTpoNext k x).shp = s.shp := by rfl
@[simp] theorem State.setTpoNext_sgs (s : State) (k : Nat) (x : Option Nat) : (s.setTpoNext k x).sgs = s.sgs := by rfl
@[simp] theorem State.setTpoNext_progs (s : State) (k : Nat) (x : Option Nat) : (s.setTpoNext k x).progs = s.progs := by rfl
@[simp] theorem State.setTpoNext_tbl (s : State) (k : Nat) (x : Option Nat) : (s.setTpoNext k x).tbl = s.tbl := by rfl
@[simp] theorem State.setTpoNext_jobs (s : State) (k : Nat) (x : Option Nat) : (s.setTpoNext k x).jobs = s.jobs := by rfl
@[simp] theorem State.setTpoNext_nextJob (s : State) (k : Nat) (x : Option Nat) : (s.setTpoNext k x).nextJob = s.nextJob := by rfl
@[simp] theorem State.setTpoNext_cores (s : State) (k : Nat) (x : Option Nat) : (s.setTpoNext k x).cores = s.cores := by rfl
@[simp] theorem State.setTpoNext_sched (s : State) (k : Nat) (x : Option Nat) : (s.setTpoNext k x).sched = s.sched := by rfl
@[simp] theorem State.setTpoNext_pools (s : State) (k : Nat) (x : Option Nat) : (s.setTpoNext k x).pools = s.pools := by rfl
@[simp] theorem State.setTpoNext_mem (s : State) (k : Nat) (x : Option Nat) : (s.setTpoNext k x).mem = s.mem := by rfl
@[simp] theorem State.setTpoNext_hbm (s : State) (k : Nat) (x : Option Nat) : (s.setTpoNext k x).hbm = s.hbm := by rfl
@[simp] theorem State.setTpoNext_lnk (s : State) (k : Nat) (x : Option Nat) : (s.setTpoNext k x).lnk = s.lnk := by rfl
@[simp] theorem State.setTpoNext_pwr (s : State) (k : Nat) (x : Option Nat) : (s.setTpoNext k x).pwr = s.pwr := by rfl
@[simp] theorem State.setTpoNext_sec (s : State) (k : Nat) (x : Option Nat) : (s.setTpoNext k x).sec = s.sec := by rfl
@[simp] theorem State.setTpoNext_counters (s : State) (k : Nat) (x : Option Nat) : (s.setTpoNext k x).counters = s.counters := by rfl
@[simp] theorem State.setTpoNext_free (s : State) (k : Nat) (x : Option Nat) : (s.setTpoNext k x).free = s.free := by rfl
@[simp] theorem State.setTpoNext_out (s : State) (k : Nat) (x : Option Nat) : (s.setTpoNext k x).out = s.out := by rfl
@[simp] theorem State.setTpoNext_pending (s : State) (k : Nat) (x : Option Nat) : (s.setTpoNext k x).pending = s.pending := by rfl
@[simp] theorem State.setTpoNext_reg (s : State) (k : Nat) (x : Option Nat) (k : Nat) : (s.setTpoNext k x).reg k = s.reg k := by rfl
@[simp] theorem State.setTpoNext_rd (s : State) (k : Nat) (x : Option Nat) (g : RegField) : (s.setTpoNext k x).rd g = s.rd g := by rfl

/-! ### updCmd -/

@[simp] theorem State.updCmd_regs (s : State) (j : Nat) (f : Cmd → Cmd) : (s.updCmd j f).regs = s.regs := by rfl
@[simp] theorem State.updCmd_hif (s : State) (j : Nat) (f : Cmd → Cmd) : (s.updCmd j f).hif = s.hif := by rfl
@[simp] theorem State.updCmd_hlth (s : State) (j : Nat) (f : Cmd → Cmd) : (s.updCmd j f).hlth = s.hlth := by rfl
@[simp] theorem State.updCmd_snap (s : State) (j : Nat) (f : Cmd → Cmd) : (s.updCmd j f).snap = s.snap := by rfl
@[simp] theorem State.updCmd_time (s : State) (j : Nat) (f : Cmd → Cmd) : (s.updCmd j f).time = s.time := by rfl
@[simp] theorem State.updCmd_streams (s : State) (j : Nat) (f : Cmd → Cmd) : (s.updCmd j f).streams = s.streams := by rfl
@[simp] theorem State.updCmd_dec (s : State) (j : Nat) (f : Cmd → Cmd) : (s.updCmd j f).dec = s.dec := by rfl
@[simp] theorem State.updCmd_net (s : State) (j : Nat) (f : Cmd → Cmd) : (s.updCmd j f).net = s.net := by rfl
@[simp] theorem State.updCmd_shp (s : State) (j : Nat) (f : Cmd → Cmd) : (s.updCmd j f).shp = s.shp := by rfl
@[simp] theorem State.updCmd_sgs (s : State) (j : Nat) (f : Cmd → Cmd) : (s.updCmd j f).sgs = s.sgs := by rfl
@[simp] theorem State.updCmd_progs (s : State) (j : Nat) (f : Cmd → Cmd) : (s.updCmd j f).progs = s.progs := by rfl
@[simp] theorem State.updCmd_tbl (s : State) (j : Nat) (f : Cmd → Cmd) : (s.updCmd j f).tbl = s.tbl := by rfl
@[simp] theorem State.updCmd_jobs (s : State) (j : Nat) (f : Cmd → Cmd) : (s.updCmd j f).jobs = s.jobs := by rfl
@[simp] theorem State.updCmd_nextJob (s : State) (j : Nat) (f : Cmd → Cmd) : (s.updCmd j f).nextJob = s.nextJob := by rfl
@[simp] theorem State.updCmd_cores (s : State) (j : Nat) (f : Cmd → Cmd) : (s.updCmd j f).cores = s.cores := by rfl
@[simp] theorem State.updCmd_sched (s : State) (j : Nat) (f : Cmd → Cmd) : (s.updCmd j f).sched = s.sched := by rfl
@[simp] theorem State.updCmd_pools (s : State) (j : Nat) (f : Cmd → Cmd) : (s.updCmd j f).pools = s.pools := by rfl
@[simp] theorem State.updCmd_mem (s : State) (j : Nat) (f : Cmd → Cmd) : (s.updCmd j f).mem = s.mem := by rfl
@[simp] theorem State.updCmd_hbm (s : State) (j : Nat) (f : Cmd → Cmd) : (s.updCmd j f).hbm = s.hbm := by rfl
@[simp] theorem State.updCmd_lnk (s : State) (j : Nat) (f : Cmd → Cmd) : (s.updCmd j f).lnk = s.lnk := by rfl
@[simp] theorem State.updCmd_pwr (s : State) (j : Nat) (f : Cmd → Cmd) : (s.updCmd j f).pwr = s.pwr := by rfl
@[simp] theorem State.updCmd_sec (s : State) (j : Nat) (f : Cmd → Cmd) : (s.updCmd j f).sec = s.sec := by rfl
@[simp] theorem State.updCmd_counters (s : State) (j : Nat) (f : Cmd → Cmd) : (s.updCmd j f).counters = s.counters := by rfl
@[simp] theorem State.updCmd_free (s : State) (j : Nat) (f : Cmd → Cmd) : (s.updCmd j f).free = s.free := by rfl
@[simp] theorem State.updCmd_out (s : State) (j : Nat) (f : Cmd → Cmd) : (s.updCmd j f).out = s.out := by rfl
@[simp] theorem State.updCmd_pending (s : State) (j : Nat) (f : Cmd → Cmd) : (s.updCmd j f).pending = s.pending := by rfl
@[simp] theorem State.updCmd_reg (s : State) (j : Nat) (f : Cmd → Cmd) (k : Nat) : (s.updCmd j f).reg k = s.reg k := by rfl
@[simp] theorem State.updCmd_rd (s : State) (j : Nat) (f : Cmd → Cmd) (g : RegField) : (s.updCmd j f).rd g = s.rd g := by rfl

/-! ### updJob -/

@[simp] theorem State.updJob_regs (s : State) (j : Nat) (f : Job → Job) : (s.updJob j f).regs = s.regs := by rfl
@[simp] theorem State.updJob_hif (s : State) (j : Nat) (f : Job → Job) : (s.updJob j f).hif = s.hif := by rfl
@[simp] theorem State.updJob_jrnl (s : State) (j : Nat) (f : Job → Job) : (s.updJob j f).jrnl = s.jrnl := by rfl
@[simp] theorem State.updJob_hlth (s : State) (j : Nat) (f : Job → Job) : (s.updJob j f).hlth = s.hlth := by rfl
@[simp] theorem State.updJob_snap (s : State) (j : Nat) (f : Job → Job) : (s.updJob j f).snap = s.snap := by rfl
@[simp] theorem State.updJob_time (s : State) (j : Nat) (f : Job → Job) : (s.updJob j f).time = s.time := by rfl
@[simp] theorem State.updJob_streams (s : State) (j : Nat) (f : Job → Job) : (s.updJob j f).streams = s.streams := by rfl
@[simp] theorem State.updJob_dec (s : State) (j : Nat) (f : Job → Job) : (s.updJob j f).dec = s.dec := by rfl
@[simp] theorem State.updJob_net (s : State) (j : Nat) (f : Job → Job) : (s.updJob j f).net = s.net := by rfl
@[simp] theorem State.updJob_shp (s : State) (j : Nat) (f : Job → Job) : (s.updJob j f).shp = s.shp := by rfl
@[simp] theorem State.updJob_sgs (s : State) (j : Nat) (f : Job → Job) : (s.updJob j f).sgs = s.sgs := by rfl
@[simp] theorem State.updJob_progs (s : State) (j : Nat) (f : Job → Job) : (s.updJob j f).progs = s.progs := by rfl
@[simp] theorem State.updJob_tbl (s : State) (j : Nat) (f : Job → Job) : (s.updJob j f).tbl = s.tbl := by rfl
@[simp] theorem State.updJob_nextJob (s : State) (j : Nat) (f : Job → Job) : (s.updJob j f).nextJob = s.nextJob := by rfl
@[simp] theorem State.updJob_cores (s : State) (j : Nat) (f : Job → Job) : (s.updJob j f).cores = s.cores := by rfl
@[simp] theorem State.updJob_sched (s : State) (j : Nat) (f : Job → Job) : (s.updJob j f).sched = s.sched := by rfl
@[simp] theorem State.updJob_pools (s : State) (j : Nat) (f : Job → Job) : (s.updJob j f).pools = s.pools := by rfl
@[simp] theorem State.updJob_mem (s : State) (j : Nat) (f : Job → Job) : (s.updJob j f).mem = s.mem := by rfl
@[simp] theorem State.updJob_hbm (s : State) (j : Nat) (f : Job → Job) : (s.updJob j f).hbm = s.hbm := by rfl
@[simp] theorem State.updJob_lnk (s : State) (j : Nat) (f : Job → Job) : (s.updJob j f).lnk = s.lnk := by rfl
@[simp] theorem State.updJob_pwr (s : State) (j : Nat) (f : Job → Job) : (s.updJob j f).pwr = s.pwr := by rfl
@[simp] theorem State.updJob_sec (s : State) (j : Nat) (f : Job → Job) : (s.updJob j f).sec = s.sec := by rfl
@[simp] theorem State.updJob_counters (s : State) (j : Nat) (f : Job → Job) : (s.updJob j f).counters = s.counters := by rfl
@[simp] theorem State.updJob_free (s : State) (j : Nat) (f : Job → Job) : (s.updJob j f).free = s.free := by rfl
@[simp] theorem State.updJob_out (s : State) (j : Nat) (f : Job → Job) : (s.updJob j f).out = s.out := by rfl
@[simp] theorem State.updJob_pending (s : State) (j : Nat) (f : Job → Job) : (s.updJob j f).pending = s.pending := by rfl
@[simp] theorem State.updJob_reg (s : State) (j : Nat) (f : Job → Job) (k : Nat) : (s.updJob j f).reg k = s.reg k := by rfl
@[simp] theorem State.updJob_rd (s : State) (j : Nat) (f : Job → Job) (g : RegField) : (s.updJob j f).rd g = s.rd g := by rfl

/-! ### Tables of elements -/

@[simp] theorem State.cring_setCring (s : State) (i : Nat) (x : CRing) : (s.setCring i x).cring i = x := by
  simp [State.cring, State.setCring]
theorem State.cring_setCring_other (s : State) (i j : Nat) (x : CRing) (h : j ≠ i) : (s.setCring i x).cring j = s.cring j := by
  simp only [State.cring, State.setCring]
  exact tget_tset_other _ _ _ _ _ h
@[simp] theorem State.cring_setReg (s : State) (a : Nat) (v : BitVec 32) (k : Nat) : (s.setReg a v).cring k = s.cring k := by rfl
@[simp] theorem State.cring_wr (s : State) (f : RegField) (v : Nat) (k : Nat) : (s.wr f v).cring k = s.cring k := by rfl
@[simp] theorem State.cring_bump (s : State) (f : RegField) (n : Nat) (k : Nat) : (s.bump f n).cring k = s.cring k := by rfl
@[simp] theorem State.cring_cnt (s : State) (i sc n : Nat) (k : Nat) : (s.cnt i sc n).cring k = s.cring k := by rfl
@[simp] theorem State.cring_post (s : State) (o : Out) (k : Nat) : (s.post o).cring k = s.cring k := by rfl

@[simp] theorem State.pring_setPring (s : State) (i : Nat) (x : PRing) : (s.setPring i x).pring i = x := by
  simp [State.pring, State.setPring]
theorem State.pring_setPring_other (s : State) (i j : Nat) (x : PRing) (h : j ≠ i) : (s.setPring i x).pring j = s.pring j := by
  simp only [State.pring, State.setPring]
  exact tget_tset_other _ _ _ _ _ h
@[simp] theorem State.pring_setReg (s : State) (a : Nat) (v : BitVec 32) (k : Nat) : (s.setReg a v).pring k = s.pring k := by rfl
@[simp] theorem State.pring_wr (s : State) (f : RegField) (v : Nat) (k : Nat) : (s.wr f v).pring k = s.pring k := by rfl
@[simp] theorem State.pring_bump (s : State) (f : RegField) (n : Nat) (k : Nat) : (s.bump f n).pring k = s.pring k := by rfl
@[simp] theorem State.pring_cnt (s : State) (i sc n : Nat) (k : Nat) : (s.cnt i sc n).pring k = s.pring k := by rfl
@[simp] theorem State.pring_post (s : State) (o : Out) (k : Nat) : (s.post o).pring k = s.pring k := by rfl

@[simp] theorem State.stream_setStream (s : State) (i : Nat) (x : Stream) : (s.setStream i x).stream i = x := by
  simp [State.stream, State.setStream]
theorem State.stream_setStream_other (s : State) (i j : Nat) (x : Stream) (h : j ≠ i) : (s.setStream i x).stream j = s.stream j := by
  simp only [State.stream, State.setStream]
  exact tget_tset_other _ _ _ _ _ h
@[simp] theorem State.stream_setReg (s : State) (a : Nat) (v : BitVec 32) (k : Nat) : (s.setReg a v).stream k = s.stream k := by rfl
@[simp] theorem State.stream_wr (s : State) (f : RegField) (v : Nat) (k : Nat) : (s.wr f v).stream k = s.stream k := by rfl
@[simp] theorem State.stream_bump (s : State) (f : RegField) (n : Nat) (k : Nat) : (s.bump f n).stream k = s.stream k := by rfl
@[simp] theorem State.stream_cnt (s : State) (i sc n : Nat) (k : Nat) : (s.cnt i sc n).stream k = s.stream k := by rfl
@[simp] theorem State.stream_post (s : State) (o : Out) (k : Nat) : (s.post o).stream k = s.stream k := by rfl

@[simp] theorem State.engine_setEngine (s : State) (i : Nat) (x : Engine) : (s.setEngine i x).engine i = x := by
  simp [State.engine, State.setEngine]
theorem State.engine_setEngine_other (s : State) (i j : Nat) (x : Engine) (h : j ≠ i) : (s.setEngine i x).engine j = s.engine j := by
  simp only [State.engine, State.setEngine]
  exact tget_tset_other _ _ _ _ _ h
@[simp] theorem State.engine_setReg (s : State) (a : Nat) (v : BitVec 32) (k : Nat) : (s.setReg a v).engine k = s.engine k := by rfl
@[simp] theorem State.engine_wr (s : State) (f : RegField) (v : Nat) (k : Nat) : (s.wr f v).engine k = s.engine k := by rfl
@[simp] theorem State.engine_bump (s : State) (f : RegField) (n : Nat) (k : Nat) : (s.bump f n).engine k = s.engine k := by rfl
@[simp] theorem State.engine_cnt (s : State) (i sc n : Nat) (k : Nat) : (s.cnt i sc n).engine k = s.engine k := by rfl
@[simp] theorem State.engine_post (s : State) (o : Out) (k : Nat) : (s.post o).engine k = s.engine k := by rfl

@[simp] theorem State.flow_setFlow (s : State) (i : Nat) (x : Flow) : (s.setFlow i x).flow i = x := by
  simp [State.flow, State.setFlow]
theorem State.flow_setFlow_other (s : State) (i j : Nat) (x : Flow) (h : j ≠ i) : (s.setFlow i x).flow j = s.flow j := by
  simp only [State.flow, State.setFlow]
  exact tget_tset_other _ _ _ _ _ h
@[simp] theorem State.flow_setReg (s : State) (a : Nat) (v : BitVec 32) (k : Nat) : (s.setReg a v).flow k = s.flow k := by rfl
@[simp] theorem State.flow_wr (s : State) (f : RegField) (v : Nat) (k : Nat) : (s.wr f v).flow k = s.flow k := by rfl
@[simp] theorem State.flow_bump (s : State) (f : RegField) (n : Nat) (k : Nat) : (s.bump f n).flow k = s.flow k := by rfl
@[simp] theorem State.flow_cnt (s : State) (i sc n : Nat) (k : Nat) : (s.cnt i sc n).flow k = s.flow k := by rfl
@[simp] theorem State.flow_post (s : State) (o : Out) (k : Nat) : (s.post o).flow k = s.flow k := by rfl

@[simp] theorem State.prog_setProg (s : State) (i : Nat) (x : Prog) : (s.setProg i x).prog i = x := by
  simp [State.prog, State.setProg]
theorem State.prog_setProg_other (s : State) (i j : Nat) (x : Prog) (h : j ≠ i) : (s.setProg i x).prog j = s.prog j := by
  simp only [State.prog, State.setProg]
  exact tget_tset_other _ _ _ _ _ h
@[simp] theorem State.prog_setReg (s : State) (a : Nat) (v : BitVec 32) (k : Nat) : (s.setReg a v).prog k = s.prog k := by rfl
@[simp] theorem State.prog_wr (s : State) (f : RegField) (v : Nat) (k : Nat) : (s.wr f v).prog k = s.prog k := by rfl
@[simp] theorem State.prog_bump (s : State) (f : RegField) (n : Nat) (k : Nat) : (s.bump f n).prog k = s.prog k := by rfl
@[simp] theorem State.prog_cnt (s : State) (i sc n : Nat) (k : Nat) : (s.cnt i sc n).prog k = s.prog k := by rfl
@[simp] theorem State.prog_post (s : State) (o : Out) (k : Nat) : (s.post o).prog k = s.prog k := by rfl

@[simp] theorem State.poolC_setPool (s : State) (i : Nat) (x : PoolCls) : (s.setPool i x).poolC i = x := by
  simp [State.poolC, State.setPool]
theorem State.poolC_setPool_other (s : State) (i j : Nat) (x : PoolCls) (h : j ≠ i) : (s.setPool i x).poolC j = s.poolC j := by
  simp only [State.poolC, State.setPool]
  exact tget_tset_other _ _ _ _ _ h
@[simp] theorem State.poolC_setReg (s : State) (a : Nat) (v : BitVec 32) (k : Nat) : (s.setReg a v).poolC k = s.poolC k := by rfl
@[simp] theorem State.poolC_wr (s : State) (f : RegField) (v : Nat) (k : Nat) : (s.wr f v).poolC k = s.poolC k := by rfl
@[simp] theorem State.poolC_bump (s : State) (f : RegField) (n : Nat) (k : Nat) : (s.bump f n).poolC k = s.poolC k := by rfl
@[simp] theorem State.poolC_cnt (s : State) (i sc n : Nat) (k : Nat) : (s.cnt i sc n).poolC k = s.poolC k := by rfl
@[simp] theorem State.poolC_post (s : State) (o : Out) (k : Nat) : (s.post o).poolC k = s.poolC k := by rfl

@[simp] theorem State.sgsStream_setSgs (s : State) (i : Nat) (x : SgsStream) : (s.setSgs i x).sgsStream i = x := by
  simp [State.sgsStream, State.setSgs]
theorem State.sgsStream_setSgs_other (s : State) (i j : Nat) (x : SgsStream) (h : j ≠ i) : (s.setSgs i x).sgsStream j = s.sgsStream j := by
  simp only [State.sgsStream, State.setSgs]
  exact tget_tset_other _ _ _ _ _ h
@[simp] theorem State.sgsStream_setReg (s : State) (a : Nat) (v : BitVec 32) (k : Nat) : (s.setReg a v).sgsStream k = s.sgsStream k := by rfl
@[simp] theorem State.sgsStream_wr (s : State) (f : RegField) (v : Nat) (k : Nat) : (s.wr f v).sgsStream k = s.sgsStream k := by rfl
@[simp] theorem State.sgsStream_bump (s : State) (f : RegField) (n : Nat) (k : Nat) : (s.bump f n).sgsStream k = s.sgsStream k := by rfl
@[simp] theorem State.sgsStream_cnt (s : State) (i sc n : Nat) (k : Nat) : (s.cnt i sc n).sgsStream k = s.sgsStream k := by rfl
@[simp] theorem State.sgsStream_post (s : State) (o : Out) (k : Nat) : (s.post o).sgsStream k = s.sgsStream k := by rfl

@[simp] theorem State.core_setCore (s : State) (i : Nat) (x : Core) : (s.setCore i x).core i = x := by
  simp [State.core, State.setCore]
theorem State.core_setCore_other (s : State) (i j : Nat) (x : Core) (h : j ≠ i) : (s.setCore i x).core j = s.core j := by
  simp only [State.core, State.setCore]
  exact tget_tset_other _ _ _ _ _ h
@[simp] theorem State.core_setReg (s : State) (a : Nat) (v : BitVec 32) (k : Nat) : (s.setReg a v).core k = s.core k := by rfl
@[simp] theorem State.core_wr (s : State) (f : RegField) (v : Nat) (k : Nat) : (s.wr f v).core k = s.core k := by rfl
@[simp] theorem State.core_bump (s : State) (f : RegField) (n : Nat) (k : Nat) : (s.bump f n).core k = s.core k := by rfl
@[simp] theorem State.core_cnt (s : State) (i sc n : Nat) (k : Nat) : (s.cnt i sc n).core k = s.core k := by rfl
@[simp] theorem State.core_post (s : State) (o : Out) (k : Nat) : (s.post o).core k = s.core k := by rfl

@[simp] theorem State.ethPort_setEthPort (s : State) (i : Nat) (x : EthPort) : (s.setEthPort i x).ethPort i = x := by
  simp [State.ethPort, State.setEthPort]
theorem State.ethPort_setEthPort_other (s : State) (i j : Nat) (x : EthPort) (h : j ≠ i) : (s.setEthPort i x).ethPort j = s.ethPort j := by
  simp only [State.ethPort, State.setEthPort]
  exact tget_tset_other _ _ _ _ _ h
@[simp] theorem State.ethPort_setReg (s : State) (a : Nat) (v : BitVec 32) (k : Nat) : (s.setReg a v).ethPort k = s.ethPort k := by rfl
@[simp] theorem State.ethPort_wr (s : State) (f : RegField) (v : Nat) (k : Nat) : (s.wr f v).ethPort k = s.ethPort k := by rfl
@[simp] theorem State.ethPort_bump (s : State) (f : RegField) (n : Nat) (k : Nat) : (s.bump f n).ethPort k = s.ethPort k := by rfl
@[simp] theorem State.ethPort_cnt (s : State) (i sc n : Nat) (k : Nat) : (s.cnt i sc n).ethPort k = s.ethPort k := by rfl
@[simp] theorem State.ethPort_post (s : State) (o : Out) (k : Nat) : (s.post o).ethPort k = s.ethPort k := by rfl

@[simp] theorem State.lport_setLport (s : State) (i : Nat) (x : LnkPort) : (s.setLport i x).lport i = x := by
  simp [State.lport, State.setLport]
theorem State.lport_setLport_other (s : State) (i j : Nat) (x : LnkPort) (h : j ≠ i) : (s.setLport i x).lport j = s.lport j := by
  simp only [State.lport, State.setLport]
  exact tget_tset_other _ _ _ _ _ h
@[simp] theorem State.lport_setReg (s : State) (a : Nat) (v : BitVec 32) (k : Nat) : (s.setReg a v).lport k = s.lport k := by rfl
@[simp] theorem State.lport_wr (s : State) (f : RegField) (v : Nat) (k : Nat) : (s.wr f v).lport k = s.lport k := by rfl
@[simp] theorem State.lport_bump (s : State) (f : RegField) (n : Nat) (k : Nat) : (s.bump f n).lport k = s.lport k := by rfl
@[simp] theorem State.lport_cnt (s : State) (i sc n : Nat) (k : Nat) : (s.cnt i sc n).lport k = s.lport k := by rfl
@[simp] theorem State.lport_post (s : State) (o : Out) (k : Nat) : (s.post o).lport k = s.lport k := by rfl

@[simp] theorem State.pchan_setPchan (s : State) (i : Nat) (x : PChan) : (s.setPchan i x).pchan i = x := by
  simp [State.pchan, State.setPchan]
theorem State.pchan_setPchan_other (s : State) (i j : Nat) (x : PChan) (h : j ≠ i) : (s.setPchan i x).pchan j = s.pchan j := by
  simp only [State.pchan, State.setPchan]
  exact tget_tset_other _ _ _ _ _ h
@[simp] theorem State.pchan_setReg (s : State) (a : Nat) (v : BitVec 32) (k : Nat) : (s.setReg a v).pchan k = s.pchan k := by rfl
@[simp] theorem State.pchan_wr (s : State) (f : RegField) (v : Nat) (k : Nat) : (s.wr f v).pchan k = s.pchan k := by rfl
@[simp] theorem State.pchan_bump (s : State) (f : RegField) (n : Nat) (k : Nat) : (s.bump f n).pchan k = s.pchan k := by rfl
@[simp] theorem State.pchan_cnt (s : State) (i sc n : Nat) (k : Nat) : (s.cnt i sc n).pchan k = s.pchan k := by rfl
@[simp] theorem State.pchan_post (s : State) (o : Out) (k : Nat) : (s.post o).pchan k = s.pchan k := by rfl

@[simp] theorem State.stationBuf_setStationBuf (s : State) (i : Nat) (x : StationBuf) : (s.setStationBuf i x).stationBuf i = x := by
  simp [State.stationBuf, State.setStationBuf]
theorem State.stationBuf_setStationBuf_other (s : State) (i j : Nat) (x : StationBuf) (h : j ≠ i) : (s.setStationBuf i x).stationBuf j = s.stationBuf j := by
  simp only [State.stationBuf, State.setStationBuf]
  exact tget_tset_other _ _ _ _ _ h
@[simp] theorem State.stationBuf_setReg (s : State) (a : Nat) (v : BitVec 32) (k : Nat) : (s.setReg a v).stationBuf k = s.stationBuf k := by rfl
@[simp] theorem State.stationBuf_wr (s : State) (f : RegField) (v : Nat) (k : Nat) : (s.wr f v).stationBuf k = s.stationBuf k := by rfl
@[simp] theorem State.stationBuf_bump (s : State) (f : RegField) (n : Nat) (k : Nat) : (s.bump f n).stationBuf k = s.stationBuf k := by rfl
@[simp] theorem State.stationBuf_cnt (s : State) (i sc n : Nat) (k : Nat) : (s.cnt i sc n).stationBuf k = s.stationBuf k := by rfl
@[simp] theorem State.stationBuf_post (s : State) (o : Out) (k : Nat) : (s.post o).stationBuf k = s.stationBuf k := by rfl

@[simp] theorem State.tpoNext_setTpoNext (s : State) (i : Nat) (x : Option Nat) : (s.setTpoNext i x).tpoNext i = x := by
  simp [State.tpoNext, State.setTpoNext]
theorem State.tpoNext_setTpoNext_other (s : State) (i j : Nat) (x : Option Nat) (h : j ≠ i) : (s.setTpoNext i x).tpoNext j = s.tpoNext j := by
  simp only [State.tpoNext, State.setTpoNext]
  exact tget_tset_other _ _ _ _ _ h
@[simp] theorem State.tpoNext_setReg (s : State) (a : Nat) (v : BitVec 32) (k : Nat) : (s.setReg a v).tpoNext k = s.tpoNext k := by rfl
@[simp] theorem State.tpoNext_wr (s : State) (f : RegField) (v : Nat) (k : Nat) : (s.wr f v).tpoNext k = s.tpoNext k := by rfl
@[simp] theorem State.tpoNext_bump (s : State) (f : RegField) (n : Nat) (k : Nat) : (s.bump f n).tpoNext k = s.tpoNext k := by rfl
@[simp] theorem State.tpoNext_cnt (s : State) (i sc n : Nat) (k : Nat) : (s.cnt i sc n).tpoNext k = s.tpoNext k := by rfl
@[simp] theorem State.tpoNext_post (s : State) (o : Out) (k : Nat) : (s.post o).tpoNext k = s.tpoNext k := by rfl

end Sys2Proof.Machine
end

