-- ==== Sys2Proof/Laws/Cmd.lean ====
section
/-! SUPPORT. Accepted commands: what `running` says, what changing a command does, and what posting its ERROR and its DONE does. -/

set_option Elab.async false

namespace Sys2Proof.Machine

theorem find_updFirst {α : Type} (p : α → Bool) (f : α → α) (hf : ∀ x, p x = true → p (f x) = true) (l : List α) :
    (updFirst p f l).find? p = (l.find? p).map f := by
  induction l with
  | nil => rfl
  | cons x l ih =>
    by_cases h : p x = true
    · simp [updFirst, h, hf x h]
    · simp [updFirst, h, ih]

/-- A running command is the accepted one with its JOURNAL_INDEX, and it has not ended. -/
theorem cmd_of_running {s : State} {j op : Nat} {c : Cmd} (h : s.running j op = some c) :
    s.cmd? j = some c ∧ c.jidx = j ∧ c.ended = false ∧ slotOpcode c.slot = op := by
  unfold State.running at h
  split at h
  · split at h
    · cases h
      rename_i c hc hp
      refine ⟨hc, ?_, hp.2, hp.1⟩
      have := List.find?_some hc
      simpa using this
    · cases h
  · cases h

theorem cmd_updCmd (s : State) (j : Nat) (f : Cmd → Cmd) (hf : ∀ c, c.jidx = j → (f c).jidx = j) :
    (s.updCmd j f).cmd? j = (s.cmd? j).map f := by
  unfold State.updCmd State.cmd?
  exact find_updFirst _ _ (fun x hx => by simpa using hf x (by simpa using hx)) _

theorem mem_insPn (p : Pn) (l : List Pn) : p ∈ insPn p l := by
  induction l with
  | nil => simp [insPn]
  | cons x l ih =>
    unfold insPn
    split
    · simp
    · simp [ih]

theorem mem_insPn_of (p q : Pn) (l : List Pn) (h : q ∈ l) : q ∈ insPn p l := by
  induction l with
  | nil => cases h
  | cons x l ih =>
    unfold insPn
    split
    · exact List.mem_cons_of_mem _ h
    · rcases List.mem_cons.mp h with rfl | h
      · exact List.mem_cons_self ..
      · exact List.mem_cons_of_mem _ (ih h)

@[simp] theorem pring_setPring_same (s : State) (m : Nat) (x : PRing) : (s.setPring m x).pring m = x := by
  simp [State.pring, State.setPring]

theorem pring_setPring_other (s : State) (m n : Nat) (x : PRing) (h : n ≠ m) : (s.setPring m x).pring n = s.pring n := by
  simp only [State.pring, State.setPring]
  exact tget_tset_other _ _ _ _ _ h

@[simp] theorem ready_sendTo_same (s : State) (m : Nat) (p : Pn) : ((s.sendTo m p).pring m).ready = insPn p (s.pring m).ready := by
  simp [State.sendTo]

/-- What a ring holds it still holds after another pennant became ready. -/
theorem mem_sendTo (s : State) (m n : Nat) (p q : Pn) (h : q ∈ (s.pring n).ready) : q ∈ ((s.sendTo m p).pring n).ready := by
  by_cases e : n = m
  · subst e
    rw [ready_sendTo_same]
    exact mem_insPn_of _ _ _ h
  · unfold State.sendTo
    rw [pring_setPring_other _ _ _ _ e]
    exact h

theorem sendTo_eq (s : State) (m : Nat) (p : Pn) : s.sendTo m p = { s with hif := (s.sendTo m p).hif } := rfl

theorem done_eq (s : State) (c : Cmd) (code : Nat) :
    s.done c code = { s with hif := (s.done c code).hif, jrnl := (s.done c code).jrnl } := rfl

theorem done_cmds (s : State) (c : Cmd) (code : Nat) :
    (s.done c code).jrnl = { s.jrnl with cmds := (s.done c code).jrnl.cmds } := rfl

theorem waitsOn_sendTo_same (s : State) (m : Nat) (p : Pn) (ty j code : Nat) (h1 : p.ty = ty) (h2 : p.key = .cmd j)
    (h3 : p.err = code) : waitsOn (s.sendTo m p) m ty j code :=
  ⟨p, by rw [ready_sendTo_same]; exact mem_insPn _ _, h1, h3, h2⟩

theorem waitsOn_sendTo (s : State) (m n : Nat) (p : Pn) (ty j code : Nat) (h : waitsOn s n ty j code) :
    waitsOn (s.sendTo m p) n ty j code := by
  obtain ⟨q, hq, h⟩ := h
  exact ⟨q, mem_sendTo _ _ _ _ _ hq, h⟩

/-- Posting the DONE of an accepted command ends it. -/
theorem done_ends {s : State} {c d : Cmd} (code : Nat) (h : s.cmd? c.jidx = some d) : ends (s.done c code) c code := by
  constructor
  · exact waitsOn_sendTo_same _ _ _ _ _ _ rfl rfl rfl
  · refine Exists.intro { d with ended := true, waiting := false } ⟨?_, rfl⟩
    refine (cmd_updCmd s c.jidx (fun c => { c with ended := true, waiting := false }) (fun c h => h)).trans ?_
    rw [h]
    rfl

theorem cmdError_waits (s : State) (c : Cmd) (ring code d0 d1 : Nat) (ct : Option Stamp) :
    waitsOn (s.cmdError c ring code d0 d1 ct) ring 0x12 c.jidx code :=
  waitsOn_sendTo_same _ _ _ _ _ _ rfl rfl rfl

/-- Failing a command posts its ERROR on a ring, and ends it with the same code (R142, R299). -/
theorem failCmd_waits (s : State) (c : Cmd) (ring code d0 d1 : Nat) :
    waitsOn (s.failCmd c ring code d0 d1) ring 0x12 c.jidx code :=
  waitsOn_sendTo _ _ _ _ _ _ _ (cmdError_waits s c ring code d0 d1 none)

theorem failCmd_ends {s : State} {c d : Cmd} (ring code d0 d1 : Nat) (h : s.cmd? c.jidx = some d) :
    ends (s.failCmd c ring code d0 d1) c code := done_ends code (d := d) (by exact h)

theorem failCmd_eq (s : State) (c : Cmd) (ring code d0 d1 : Nat) :
    s.failCmd c ring code d0 d1 =
      { s with hif := (s.failCmd c ring code d0 d1).hif, jrnl := (s.failCmd c ring code d0 d1).jrnl } := rfl

/-- The state after some reads of a command's data differs from `s` at most in the reads that accepted commands have under way, in the
translations that are asked for, and in what was sent out. -/
structure ReadsOnly (s t : State) : Prop where
  eq : t = { s with hif := { s.hif with xlate := t.hif.xlate }, jrnl := { s.jrnl with cmds := t.jrnl.cmds }, out := t.out }
  cmd : ∀ j, ∃ l, t.cmd? j = (s.cmd? j).map (fun d => { d with reads := l })

theorem ReadsOnly.refl (s : State) : ReadsOnly s s :=
  ⟨rfl, fun j => by
    cases h : s.cmd? j with
    | none => exact ⟨[], rfl⟩
    | some d => exact ⟨d.reads, rfl⟩⟩

theorem ReadsOnly.trans {s t u : State} (h : ReadsOnly s t) (k : ReadsOnly t u) : ReadsOnly s u := by
  refine ⟨?_, fun j => ?_⟩
  · rw [k.eq, h.eq]
  · obtain ⟨l, hl⟩ := h.cmd j
    obtain ⟨m, hm⟩ := k.cmd j
    refine ⟨m, ?_⟩
    rw [hm, hl]
    cases s.cmd? j <;> rfl

theorem ReadsOnly.post (s : State) (o : Out) : ReadsOnly s (s.post o) :=
  ⟨rfl, (ReadsOnly.refl s).cmd⟩

theorem ReadsOnly.foldl {α : Type} {f : State → α → State} (hf : ∀ s x, ReadsOnly s (f s x)) (l : List α) (s : State) :
    ReadsOnly s (l.foldl f s) := by
  induction l generalizing s with
  | nil => exact ReadsOnly.refl s
  | cons x l ih => exact (hf s x).trans (ih _)

theorem askXlate_reads (s : State) (l : List Nat) : ReadsOnly s (s.askXlate l) := by
  refine ReadsOnly.foldl (fun s p => ?_) l s
  split
  · exact ReadsOnly.refl s
  · exact ⟨rfl, (ReadsOnly.refl s).cmd⟩

theorem issueRead_reads (s : State) (j a n : Nat) (r : Bool) : ReadsOnly s (s.issueRead j a n r) :=
  ReadsOnly.foldl (fun s _ => ReadsOnly.post s _) _ s

theorem updReads_reads (s : State) (j : Nat) (f : List (Nat × Nat × List Nat) → List (Nat × Nat × List Nat)) :
    ReadsOnly s (s.updCmd j (fun c => { c with reads := f c.reads })) := by
  refine ⟨rfl, fun k => ?_⟩
  by_cases h : k = j
  · subst h
    rw [cmd_updCmd s k (fun c => { c with reads := f c.reads }) (fun _ h => h)]
    cases hc : s.cmd? k with
    | none => exact ⟨[], rfl⟩
    | some d => exact ⟨f d.reads, rfl⟩
  · have : (s.updCmd j (fun c => { c with reads := f c.reads })).cmd? k = s.cmd? k := by
      unfold State.updCmd State.cmd?
      show List.find? _ (updFirst _ _ _) = _
      generalize s.jrnl.cmds = l
      induction l with
      | nil => rfl
      | cons x l ih =>
        unfold updFirst
        split
        · rename_i hx
          have hx : x.jidx = j := by simpa using hx
          have : (x.jidx == k) = false := by rw [hx]; simpa using fun e => h e.symm
          simp [List.find?, this]
        · simp only [List.find?]
          split
          · rfl
          · exact ih
    rw [this]
    exact (ReadsOnly.refl s).cmd k

theorem startRead_reads (s : State) (c : Cmd) (a n : Nat) (r : Bool) : ReadsOnly s (s.startRead c a n r) := by
  unfold State.startRead
  simp only
  split
  · exact (updReads_reads s _ (fun l => l ++ [(a, n, s.untranslated false (pagesOf a n))])).trans (issueRead_reads _ _ _ _ _)
  · exact (updReads_reads s _ (fun l => l ++ [(a, n, s.untranslated false (pagesOf a n))])).trans (askXlate_reads _ _)

theorem fetched_reads (s : State) (c : Cmd) (l : List (Nat × Nat)) (r : Bool) : ReadsOnly s (s.fetched c l r).1 := by
  unfold State.fetched
  simp only
  generalize List.filter _ l = m
  have h : ReadsOnly s (m.foldl (fun s q => s.startRead c q.1 q.2 r) s) := ReadsOnly.foldl (fun s q => startRead_reads s c _ _ _) m s
  split
  · split
    · exact h
    · exact h.trans (updReads_reads _ _ (fun _ => []))
  · simp only [Bool.false_eq_true, if_false]
    exact h.trans (updReads_reads _ _ (fun _ => []))

end Sys2Proof.Machine
end

