-- ==== Sys2Proof/Laws/Ops.lean ====
section
/-! SUPPORT. What the shared operations can do: BAR0 accesses, the recording of errors and of events, the hoist, device-level pennants and
the end of a command. -/

set_option Elab.async false

namespace Sys2Proof.Machine

/-! ### BAR0 -/

theorem barRefused_of_reaches {s : State} {a : Nat} (h : reaches s a) : s.barRefused = false := by
  simp [State.barRefused, h.1, h.2.1]

theorem touch_of_reaches {s : State} {a : Nat} (h : reaches s a) : s.touch a = s := by
  unfold State.touch State.wakeUp
  rw [h.2.1]
  split
  · split <;> rfl
  · rfl

/-- An access that the V96 serves goes straight to its block. -/
theorem bar_of_reaches {s : State} {a : Nat} (h : reaches s a) (k : State → Host.Outcome State Fault Refusal) :
    s.bar a k = k s := by
  unfold State.bar
  rw [barRefused_of_reaches h, h.2.2, touch_of_reaches h]
  simp

/-- In D3hot or STOWED an access completes with Unsupported Request. -/
theorem bar_of_refused {s : State} {a : Nat} (h : s.barRefused = true) (k : State → Host.Outcome State Fault Refusal) :
    s.bar a k = .next (s.post (Out.unsupportedRequest a)) := by
  simp [State.bar, h]

/-- A write to a block that is not served is discarded. -/
theorem bar_of_not_served {s : State} {a : Nat} (h : s.barRefused = false) (hs : s.served a = false)
    (k : State → Host.Outcome State Fault Refusal) : s.bar a k = .next s := by
  simp [State.bar, h, hs]

/-! ### Error registers -/

theorem reg_setErr_other (s : State) (a b : Nat) (o : Bool) (i : Nat × Nat × Nat) (c : Nat) (h : b ≠ a) :
    (s.setErr a o i c).reg b = s.reg b := by
  unfold State.setErr
  exact ite_both (P := fun t : State => t.reg b = s.reg b) (reg_setReg_other _ _ _ _ h)
    (ite_both (P := fun t : State => t.reg b = s.reg b) (reg_setReg_other _ _ _ _ h) rfl)

theorem rd_setErr_other (s : State) (a : Nat) (o : Bool) (i : Nat × Nat × Nat) (c : Nat) (g : RegField) (h : g.addr ≠ a) :
    (s.setErr a o i c).rd g = s.rd g := by
  simp only [State.rd, reg_setErr_other _ _ _ _ _ _ h]

/-- The first error is kept with its code (R14): 16 bits of code, an instance field above them and below VALID. -/
theorem rd_setErr_code (s : State) (a : Nat) (o : Bool) (i : Nat × Nat × Nat) (c : Nat) (hi : 16 ≤ i.1) (hw : i.1 + i.2.1 ≤ 30)
    (hv : s.rd ⟨a, 31, 1⟩ = 0) : (s.setErr a o i c).rd ⟨a, 0, 16⟩ = c % 2 ^ 16 := by
  obtain ⟨lo, w, v⟩ := i
  simp only at hi hw
  have hv' : bitsOf (s.reg a).toNat 31 1 = 0 := hv
  unfold State.setErr
  simp only [hv', if_true, State.rd, reg_setReg_same, packBits, BitVec.toNat_ofNat, bitsOf_eq, Nat.shiftLeft_eq]
  have e : lo = 16 + (lo - 16) := by omega
  have h16 : (2 : Nat) ^ lo = 2 ^ 16 * 2 ^ (lo - 16) := by rw [← Nat.pow_add, ← e]
  rw [h16]
  have key : ∀ p q r : Nat, (p * 2 ^ 31 + (q * 2 ^ 30 + (r * (2 ^ 16 * 2 ^ (lo - 16)) + (c % 2 ^ 16 * 2 ^ 0 + 0)))) % 2 ^ 32 / 2 ^ 0
      % 2 ^ 16 = c % 2 ^ 16 := by
    intro p q r
    have hr : r * (2 ^ 16 * 2 ^ (lo - 16)) = 2 ^ 16 * (r * 2 ^ (lo - 16)) := by
      rw [← Nat.mul_assoc, Nat.mul_comm r, Nat.mul_assoc]
    rw [hr]
    omega
  exact key _ _ _

theorem setErr_eq (s : State) (a : Nat) (o : Bool) (i : Nat × Nat × Nat) (c : Nat) :
    s.setErr a o i c = { s with regs := (s.setErr a o i c).regs } := by
  unfold State.setErr
  exact ite_both (P := fun t : State => t = { s with regs := t.regs }) rfl
    (ite_both (P := fun t : State => t = { s with regs := t.regs }) rfl rfl)

@[simp] theorem setErr_hif (s : State) (a : Nat) (o : Bool) (i : Nat × Nat × Nat) (c : Nat) :
    (s.setErr a o i c).hif = s.hif := by
  rw [setErr_eq]

@[simp] theorem setErr_jrnl (s : State) (a : Nat) (o : Bool) (i : Nat × Nat × Nat) (c : Nat) :
    (s.setErr a o i c).jrnl = s.jrnl := by
  rw [setErr_eq]

@[simp] theorem setErr_hlth (s : State) (a : Nat) (o : Bool) (i : Nat × Nat × Nat) (c : Nat) :
    (s.setErr a o i c).hlth = s.hlth := by
  rw [setErr_eq]

@[simp] theorem setErr_snap (s : State) (a : Nat) (o : Bool) (i : Nat × Nat × Nat) (c : Nat) :
    (s.setErr a o i c).snap = s.snap := by
  rw [setErr_eq]

@[simp] theorem setErr_time (s : State) (a : Nat) (o : Bool) (i : Nat × Nat × Nat) (c : Nat) :
    (s.setErr a o i c).time = s.time := by
  rw [setErr_eq]

@[simp] theorem setErr_streams (s : State) (a : Nat) (o : Bool) (i : Nat × Nat × Nat) (c : Nat) :
    (s.setErr a o i c).streams = s.streams := by
  rw [setErr_eq]

@[simp] theorem setErr_dec (s : State) (a : Nat) (o : Bool) (i : Nat × Nat × Nat) (c : Nat) :
    (s.setErr a o i c).dec = s.dec := by
  rw [setErr_eq]

@[simp] theorem setErr_net (s : State) (a : Nat) (o : Bool) (i : Nat × Nat × Nat) (c : Nat) :
    (s.setErr a o i c).net = s.net := by
  rw [setErr_eq]

@[simp] theorem setErr_shp (s : State) (a : Nat) (o : Bool) (i : Nat × Nat × Nat) (c : Nat) :
    (s.setErr a o i c).shp = s.shp := by
  rw [setErr_eq]

@[simp] theorem setErr_sgs (s : State) (a : Nat) (o : Bool) (i : Nat × Nat × Nat) (c : Nat) :
    (s.setErr a o i c).sgs = s.sgs := by
  rw [setErr_eq]

@[simp] theorem setErr_progs (s : State) (a : Nat) (o : Bool) (i : Nat × Nat × Nat) (c : Nat) :
    (s.setErr a o i c).progs = s.progs := by
  rw [setErr_eq]

@[simp] theorem setErr_tbl (s : State) (a : Nat) (o : Bool) (i : Nat × Nat × Nat) (c : Nat) :
    (s.setErr a o i c).tbl = s.tbl := by
  rw [setErr_eq]

@[simp] theorem setErr_jobs (s : State) (a : Nat) (o : Bool) (i : Nat × Nat × Nat) (c : Nat) :
    (s.setErr a o i c).jobs = s.jobs := by
  rw [setErr_eq]

@[simp] theorem setErr_nextJob (s : State) (a : Nat) (o : Bool) (i : Nat × Nat × Nat) (c : Nat) :
    (s.setErr a o i c).nextJob = s.nextJob := by
  rw [setErr_eq]

@[simp] theorem setErr_cores (s : State) (a : Nat) (o : Bool) (i : Nat × Nat × Nat) (c : Nat) :
    (s.setErr a o i c).cores = s.cores := by
  rw [setErr_eq]

@[simp] theorem setErr_sched (s : State) (a : Nat) (o : Bool) (i : Nat × Nat × Nat) (c : Nat) :
    (s.setErr a o i c).sched = s.sched := by
  rw [setErr_eq]

@[simp] theorem setErr_pools (s : State) (a : Nat) (o : Bool) (i : Nat × Nat × Nat) (c : Nat) :
    (s.setErr a o i c).pools = s.pools := by
  rw [setErr_eq]

@[simp] theorem setErr_mem (s : State) (a : Nat) (o : Bool) (i : Nat × Nat × Nat) (c : Nat) :
    (s.setErr a o i c).mem = s.mem := by
  rw [setErr_eq]

@[simp] theorem setErr_hbm (s : State) (a : Nat) (o : Bool) (i : Nat × Nat × Nat) (c : Nat) :
    (s.setErr a o i c).hbm = s.hbm := by
  rw [setErr_eq]

@[simp] theorem setErr_lnk (s : State) (a : Nat) (o : Bool) (i : Nat × Nat × Nat) (c : Nat) :
    (s.setErr a o i c).lnk = s.lnk := by
  rw [setErr_eq]

@[simp] theorem setErr_pwr (s : State) (a : Nat) (o : Bool) (i : Nat × Nat × Nat) (c : Nat) :
    (s.setErr a o i c).pwr = s.pwr := by
  rw [setErr_eq]

@[simp] theorem setErr_sec (s : State) (a : Nat) (o : Bool) (i : Nat × Nat × Nat) (c : Nat) :
    (s.setErr a o i c).sec = s.sec := by
  rw [setErr_eq]

@[simp] theorem setErr_counters (s : State) (a : Nat) (o : Bool) (i : Nat × Nat × Nat) (c : Nat) :
    (s.setErr a o i c).counters = s.counters := by
  rw [setErr_eq]

@[simp] theorem setErr_free (s : State) (a : Nat) (o : Bool) (i : Nat × Nat × Nat) (c : Nat) :
    (s.setErr a o i c).free = s.free := by
  rw [setErr_eq]

@[simp] theorem setErr_out (s : State) (a : Nat) (o : Bool) (i : Nat × Nat × Nat) (c : Nat) :
    (s.setErr a o i c).out = s.out := by
  rw [setErr_eq]

@[simp] theorem setErr_pending (s : State) (a : Nat) (o : Bool) (i : Nat × Nat × Nat) (c : Nat) :
    (s.setErr a o i c).pending = s.pending := by
  rw [setErr_eq]

/-! ### The hoist and the record file -/

/-- From `s` to `t` only HLTH's and SNAP's registers, the record file, the snapshot and counters may differ. -/
structure Notes (s t : State) : Prop where
  eq : t = { s with regs := t.regs, hlth := t.hlth, snap := t.snap, counters := t.counters }
  reg : ∀ a, a / 0x100000 ≠ 0x1E → a / 0x100000 ≠ 0x1F → t.reg a = s.reg a

theorem Notes.refl (s : State) : Notes s s := ⟨rfl, fun _ _ _ => rfl⟩

theorem Notes.trans {s t u : State} (h : Notes s t) (k : Notes t u) : Notes s u := by
  refine ⟨?_, fun a h1 h2 => (k.reg a h1 h2).trans (h.reg a h1 h2)⟩
  have h2 := k.eq
  rw [h.eq] at h2
  exact h2

theorem Notes.ite {s a b : State} {c : Prop} [Decidable c] (ha : Notes s a) (hb : Notes s b) : Notes s (if c then a else b) := by
  split
  · exact ha
  · exact hb

theorem Notes.setReg {s t : State} (h : Notes s t) (a : Nat) (v : BitVec 32) (ha : a / 0x100000 = 0x1E ∨ a / 0x100000 = 0x1F) :
    Notes s (t.setReg a v) :=
  h.trans ⟨rfl, fun b h1 h2 => reg_setReg_other t a b v (fun e => by subst e; exact ha.elim h1 h2)⟩

theorem Notes.wr {s t : State} (h : Notes s t) (f : RegField) (v : Nat) (ha : f.addr / 0x100000 = 0x1E ∨ f.addr / 0x100000 = 0x1F) :
    Notes s (t.wr f v) := h.setReg _ _ ha

theorem Notes.cnt {s t : State} (h : Notes s t) (i sc n : Nat) : Notes s (t.cnt i sc n) := h.trans ⟨rfl, fun _ _ _ => rfl⟩

/-- The record file or the snapshot takes a new value. -/
theorem Notes.upd {s t : State} (h : Notes s t) (x : Hlth) (y : Snap) : Notes s { t with hlth := x, snap := y } :=
  h.trans ⟨rfl, fun _ _ _ => rfl⟩

theorem hoist_notes {s t : State} (h : Notes s t) (bit code node : Nat) : Notes s (t.hoist bit code node) := by
  unfold State.hoist
  refine Notes.ite ?_ (Notes.ite (Notes.ite ?_ ?_) ?_)
  · refine Notes.cnt ?_ _ _ _
    repeat' first
      | refine Notes.wr ?_ _ _ (by decide)
      | refine Notes.setReg ?_ _ _ (by decide)
    exact h.upd t.hlth _
  · exact h.wr _ _ (by decide)
  · exact Notes.wr (Notes.wr (h.wr _ _ (by decide)) _ _ (by decide)) _ _ (by decide)
  · exact Notes.cnt (h.wr _ _ (by decide)) _ _ _

theorem setErr_notes {s t : State} (h : Notes s t) (a : Nat) (o : Bool) (i : Nat × Nat × Nat) (c : Nat)
    (ha : a / 0x100000 = 0x1E ∨ a / 0x100000 = 0x1F) : Notes s (t.setErr a o i c) := by
  unfold State.setErr
  exact Notes.ite (h.setReg _ _ ha) (Notes.ite (h.setReg _ _ ha) h)

theorem recSummary_notes {s t : State} (h : Notes s t) : Notes s t.recSummary := by
  unfold State.recSummary
  exact Notes.wr (h.wr _ _ (by decide)) _ _ (by decide)

/-- Filing an event notes it: it changes HLTH's and SNAP's registers, the record file, the snapshot and counters alone. -/
theorem file_notes {s t : State} (h : Notes s t) (b : Blk) (i c d0 d1 : Nat) : Notes s (t.file b i c d0 d1) := by
  unfold State.file
  refine Notes.ite (hoist_notes (recSummary_notes ?_) _ _ _) (recSummary_notes ?_) <;>
  · split
    · exact h.upd _ t.snap
    · split
      · exact (h.upd _ t.snap).upd _ t.snap
      · refine Notes.ite (Notes.cnt (h.wr _ _ (by decide)) _ _ _) ?_
        exact (setErr_notes (Notes.cnt (h.wr _ _ (by decide)) _ _ _) _ _ _ _ (by decide)).upd _ _

theorem reg_file (s : State) (b : Blk) (i c d0 d1 a : Nat) (h1 : a / 0x100000 ≠ 0x1E) (h2 : a / 0x100000 ≠ 0x1F) :
    (s.file b i c d0 d1).reg a = s.reg a := (file_notes (Notes.refl s) b i c d0 d1).reg a h1 h2

theorem rd_file (s : State) (b : Blk) (i c d0 d1 : Nat) (g : RegField) (h1 : g.addr / 0x100000 ≠ 0x1E)
    (h2 : g.addr / 0x100000 ≠ 0x1F) : (s.file b i c d0 d1).rd g = s.rd g := by
  simp only [State.rd, reg_file s b i c d0 d1 g.addr h1 h2]

@[simp] theorem file_hif (s : State) (b : Blk) (i c d0 d1 : Nat) : (s.file b i c d0 d1).hif = s.hif := by
  rw [(file_notes (Notes.refl s) b i c d0 d1).eq]

@[simp] theorem file_jrnl (s : State) (b : Blk) (i c d0 d1 : Nat) : (s.file b i c d0 d1).jrnl = s.jrnl := by
  rw [(file_notes (Notes.refl s) b i c d0 d1).eq]

@[simp] theorem file_time (s : State) (b : Blk) (i c d0 d1 : Nat) : (s.file b i c d0 d1).time = s.time := by
  rw [(file_notes (Notes.refl s) b i c d0 d1).eq]

@[simp] theorem file_streams (s : State) (b : Blk) (i c d0 d1 : Nat) : (s.file b i c d0 d1).streams = s.streams := by
  rw [(file_notes (Notes.refl s) b i c d0 d1).eq]

@[simp] theorem file_dec (s : State) (b : Blk) (i c d0 d1 : Nat) : (s.file b i c d0 d1).dec = s.dec := by
  rw [(file_notes (Notes.refl s) b i c d0 d1).eq]

@[simp] theorem file_net (s : State) (b : Blk) (i c d0 d1 : Nat) : (s.file b i c d0 d1).net = s.net := by
  rw [(file_notes (Notes.refl s) b i c d0 d1).eq]

@[simp] theorem file_shp (s : State) (b : Blk) (i c d0 d1 : Nat) : (s.file b i c d0 d1).shp = s.shp := by
  rw [(file_notes (Notes.refl s) b i c d0 d1).eq]

@[simp] theorem file_sgs (s : State) (b : Blk) (i c d0 d1 : Nat) : (s.file b i c d0 d1).sgs = s.sgs := by
  rw [(file_notes (Notes.refl s) b i c d0 d1).eq]

@[simp] theorem file_progs (s : State) (b : Blk) (i c d0 d1 : Nat) : (s.file b i c d0 d1).progs = s.progs := by
  rw [(file_notes (Notes.refl s) b i c d0 d1).eq]

@[simp] theorem file_tbl (s : State) (b : Blk) (i c d0 d1 : Nat) : (s.file b i c d0 d1).tbl = s.tbl := by
  rw [(file_notes (Notes.refl s) b i c d0 d1).eq]

@[simp] theorem file_jobs (s : State) (b : Blk) (i c d0 d1 : Nat) : (s.file b i c d0 d1).jobs = s.jobs := by
  rw [(file_notes (Notes.refl s) b i c d0 d1).eq]

@[simp] theorem file_nextJob (s : State) (b : Blk) (i c d0 d1 : Nat) : (s.file b i c d0 d1).nextJob = s.nextJob := by
  rw [(file_notes (Notes.refl s) b i c d0 d1).eq]

@[simp] theorem file_cores (s : State) (b : Blk) (i c d0 d1 : Nat) : (s.file b i c d0 d1).cores = s.cores := by
  rw [(file_notes (Notes.refl s) b i c d0 d1).eq]

@[simp] theorem file_sched (s : State) (b : Blk) (i c d0 d1 : Nat) : (s.file b i c d0 d1).sched = s.sched := by
  rw [(file_notes (Notes.refl s) b i c d0 d1).eq]

@[simp] theorem file_pools (s : State) (b : Blk) (i c d0 d1 : Nat) : (s.file b i c d0 d1).pools = s.pools := by
  rw [(file_notes (Notes.refl s) b i c d0 d1).eq]

@[simp] theorem file_mem (s : State) (b : Blk) (i c d0 d1 : Nat) : (s.file b i c d0 d1).mem = s.mem := by
  rw [(file_notes (Notes.refl s) b i c d0 d1).eq]

@[simp] theorem file_hbm (s : State) (b : Blk) (i c d0 d1 : Nat) : (s.file b i c d0 d1).hbm = s.hbm := by
  rw [(file_notes (Notes.refl s) b i c d0 d1).eq]

@[simp] theorem file_lnk (s : State) (b : Blk) (i c d0 d1 : Nat) : (s.file b i c d0 d1).lnk = s.lnk := by
  rw [(file_notes (Notes.refl s) b i c d0 d1).eq]

@[simp] theorem file_pwr (s : State) (b : Blk) (i c d0 d1 : Nat) : (s.file b i c d0 d1).pwr = s.pwr := by
  rw [(file_notes (Notes.refl s) b i c d0 d1).eq]

@[simp] theorem file_sec (s : State) (b : Blk) (i c d0 d1 : Nat) : (s.file b i c d0 d1).sec = s.sec := by
  rw [(file_notes (Notes.refl s) b i c d0 d1).eq]

@[simp] theorem file_free (s : State) (b : Blk) (i c d0 d1 : Nat) : (s.file b i c d0 d1).free = s.free := by
  rw [(file_notes (Notes.refl s) b i c d0 d1).eq]

@[simp] theorem file_out (s : State) (b : Blk) (i c d0 d1 : Nat) : (s.file b i c d0 d1).out = s.out := by
  rw [(file_notes (Notes.refl s) b i c d0 d1).eq]

@[simp] theorem file_pending (s : State) (b : Blk) (i c d0 d1 : Nat) : (s.file b i c d0 d1).pending = s.pending := by
  rw [(file_notes (Notes.refl s) b i c d0 d1).eq]

/-! ### Device-level pennants -/

/-- A device-level pennant changes HIF's rings or its staging queue, or the count of lost ones. -/
theorem sendSvc_eq (s : State) (p : Pn) : s.sendSvc p = { s with regs := (s.sendSvc p).regs, hif := (s.sendSvc p).hif } := by
  unfold State.sendSvc
  exact ite_both (P := fun t : State => t = { s with regs := t.regs, hif := t.hif }) rfl rfl

theorem reg_sendSvc (s : State) (p : Pn) (a : Nat) (h : a ≠ Reg.HIF_SVC_LOST) : (s.sendSvc p).reg a = s.reg a := by
  unfold State.sendSvc
  exact ite_both (P := fun t : State => t.reg a = s.reg a) rfl (reg_wr_other _ _ _ _ h)

theorem rd_sendSvc (s : State) (p : Pn) (g : RegField) (h : g.addr ≠ Reg.HIF_SVC_LOST) : (s.sendSvc p).rd g = s.rd g := by
  simp only [State.rd, reg_sendSvc s p g.addr h]

theorem reg_devError (s : State) (c d0 d1 stn i a : Nat) (h : a ≠ Reg.HIF_SVC_LOST) : (s.devError c d0 d1 stn i).reg a = s.reg a :=
  reg_sendSvc _ _ _ h

theorem rd_devError (s : State) (c d0 d1 stn i : Nat) (g : RegField) (h : g.addr ≠ Reg.HIF_SVC_LOST) :
    (s.devError c d0 d1 stn i).rd g = s.rd g := rd_sendSvc _ _ _ h

@[simp] theorem sendSvc_jrnl (s : State) (p : Pn) : (s.sendSvc p).jrnl = s.jrnl := by
  rw [sendSvc_eq]

@[simp] theorem devError_jrnl (s : State) (c d0 d1 stn i : Nat) : (s.devError c d0 d1 stn i).jrnl = s.jrnl := by
  simp [State.devError]

@[simp] theorem sendSvc_hlth (s : State) (p : Pn) : (s.sendSvc p).hlth = s.hlth := by
  rw [sendSvc_eq]

@[simp] theorem devError_hlth (s : State) (c d0 d1 stn i : Nat) : (s.devError c d0 d1 stn i).hlth = s.hlth := by
  simp [State.devError]

@[simp] theorem sendSvc_snap (s : State) (p : Pn) : (s.sendSvc p).snap = s.snap := by
  rw [sendSvc_eq]

@[simp] theorem devError_snap (s : State) (c d0 d1 stn i : Nat) : (s.devError c d0 d1 stn i).snap = s.snap := by
  simp [State.devError]

@[simp] theorem sendSvc_time (s : State) (p : Pn) : (s.sendSvc p).time = s.time := by
  rw [sendSvc_eq]

@[simp] theorem devError_time (s : State) (c d0 d1 stn i : Nat) : (s.devError c d0 d1 stn i).time = s.time := by
  simp [State.devError]

@[simp] theorem sendSvc_streams (s : State) (p : Pn) : (s.sendSvc p).streams = s.streams := by
  rw [sendSvc_eq]

@[simp] theorem devError_streams (s : State) (c d0 d1 stn i : Nat) : (s.devError c d0 d1 stn i).streams = s.streams := by
  simp [State.devError]

@[simp] theorem sendSvc_dec (s : State) (p : Pn) : (s.sendSvc p).dec = s.dec := by
  rw [sendSvc_eq]

@[simp] theorem devError_dec (s : State) (c d0 d1 stn i : Nat) : (s.devError c d0 d1 stn i).dec = s.dec := by
  simp [State.devError]

@[simp] theorem sendSvc_net (s : State) (p : Pn) : (s.sendSvc p).net = s.net := by
  rw [sendSvc_eq]

@[simp] theorem devError_net (s : State) (c d0 d1 stn i : Nat) : (s.devError c d0 d1 stn i).net = s.net := by
  simp [State.devError]

@[simp] theorem sendSvc_shp (s : State) (p : Pn) : (s.sendSvc p).shp = s.shp := by
  rw [sendSvc_eq]

@[simp] theorem devError_shp (s : State) (c d0 d1 stn i : Nat) : (s.devError c d0 d1 stn i).shp = s.shp := by
  simp [State.devError]

@[simp] theorem sendSvc_sgs (s : State) (p : Pn) : (s.sendSvc p).sgs = s.sgs := by
  rw [sendSvc_eq]

@[simp] theorem devError_sgs (s : State) (c d0 d1 stn i : Nat) : (s.devError c d0 d1 stn i).sgs = s.sgs := by
  simp [State.devError]

@[simp] theorem sendSvc_progs (s : State) (p : Pn) : (s.sendSvc p).progs = s.progs := by
  rw [sendSvc_eq]

@[simp] theorem devError_progs (s : State) (c d0 d1 stn i : Nat) : (s.devError c d0 d1 stn i).progs = s.progs := by
  simp [State.devError]

@[simp] theorem sendSvc_tbl (s : State) (p : Pn) : (s.sendSvc p).tbl = s.tbl := by
  rw [sendSvc_eq]

@[simp] theorem devError_tbl (s : State) (c d0 d1 stn i : Nat) : (s.devError c d0 d1 stn i).tbl = s.tbl := by
  simp [State.devError]

@[simp] theorem sendSvc_jobs (s : State) (p : Pn) : (s.sendSvc p).jobs = s.jobs := by
  rw [sendSvc_eq]

@[simp] theorem devError_jobs (s : State) (c d0 d1 stn i : Nat) : (s.devError c d0 d1 stn i).jobs = s.jobs := by
  simp [State.devError]

@[simp] theorem sendSvc_nextJob (s : State) (p : Pn) : (s.sendSvc p).nextJob = s.nextJob := by
  rw [sendSvc_eq]

@[simp] theorem devError_nextJob (s : State) (c d0 d1 stn i : Nat) : (s.devError c d0 d1 stn i).nextJob = s.nextJob := by
  simp [State.devError]

@[simp] theorem sendSvc_cores (s : State) (p : Pn) : (s.sendSvc p).cores = s.cores := by
  rw [sendSvc_eq]

@[simp] theorem devError_cores (s : State) (c d0 d1 stn i : Nat) : (s.devError c d0 d1 stn i).cores = s.cores := by
  simp [State.devError]

@[simp] theorem sendSvc_sched (s : State) (p : Pn) : (s.sendSvc p).sched = s.sched := by
  rw [sendSvc_eq]

@[simp] theorem devError_sched (s : State) (c d0 d1 stn i : Nat) : (s.devError c d0 d1 stn i).sched = s.sched := by
  simp [State.devError]

@[simp] theorem sendSvc_pools (s : State) (p : Pn) : (s.sendSvc p).pools = s.pools := by
  rw [sendSvc_eq]

@[simp] theorem devError_pools (s : State) (c d0 d1 stn i : Nat) : (s.devError c d0 d1 stn i).pools = s.pools := by
  simp [State.devError]

@[simp] theorem sendSvc_mem (s : State) (p : Pn) : (s.sendSvc p).mem = s.mem := by
  rw [sendSvc_eq]

@[simp] theorem devError_mem (s : State) (c d0 d1 stn i : Nat) : (s.devError c d0 d1 stn i).mem = s.mem := by
  simp [State.devError]

@[simp] theorem sendSvc_hbm (s : State) (p : Pn) : (s.sendSvc p).hbm = s.hbm := by
  rw [sendSvc_eq]

@[simp] theorem devError_hbm (s : State) (c d0 d1 stn i : Nat) : (s.devError c d0 d1 stn i).hbm = s.hbm := by
  simp [State.devError]

@[simp] theorem sendSvc_lnk (s : State) (p : Pn) : (s.sendSvc p).lnk = s.lnk := by
  rw [sendSvc_eq]

@[simp] theorem devError_lnk (s : State) (c d0 d1 stn i : Nat) : (s.devError c d0 d1 stn i).lnk = s.lnk := by
  simp [State.devError]

@[simp] theorem sendSvc_pwr (s : State) (p : Pn) : (s.sendSvc p).pwr = s.pwr := by
  rw [sendSvc_eq]

@[simp] theorem devError_pwr (s : State) (c d0 d1 stn i : Nat) : (s.devError c d0 d1 stn i).pwr = s.pwr := by
  simp [State.devError]

@[simp] theorem sendSvc_sec (s : State) (p : Pn) : (s.sendSvc p).sec = s.sec := by
  rw [sendSvc_eq]

@[simp] theorem devError_sec (s : State) (c d0 d1 stn i : Nat) : (s.devError c d0 d1 stn i).sec = s.sec := by
  simp [State.devError]

@[simp] theorem sendSvc_counters (s : State) (p : Pn) : (s.sendSvc p).counters = s.counters := by
  rw [sendSvc_eq]

@[simp] theorem devError_counters (s : State) (c d0 d1 stn i : Nat) : (s.devError c d0 d1 stn i).counters = s.counters := by
  simp [State.devError]

@[simp] theorem sendSvc_free (s : State) (p : Pn) : (s.sendSvc p).free = s.free := by
  rw [sendSvc_eq]

@[simp] theorem devError_free (s : State) (c d0 d1 stn i : Nat) : (s.devError c d0 d1 stn i).free = s.free := by
  simp [State.devError]

@[simp] theorem sendSvc_out (s : State) (p : Pn) : (s.sendSvc p).out = s.out := by
  rw [sendSvc_eq]

@[simp] theorem devError_out (s : State) (c d0 d1 stn i : Nat) : (s.devError c d0 d1 stn i).out = s.out := by
  simp [State.devError]

@[simp] theorem sendSvc_pending (s : State) (p : Pn) : (s.sendSvc p).pending = s.pending := by
  rw [sendSvc_eq]

@[simp] theorem devError_pending (s : State) (c d0 d1 stn i : Nat) : (s.devError c d0 d1 stn i).pending = s.pending := by
  simp [State.devError]

end Sys2Proof.Machine
end

