-- ==== Sys2Proof/Laws/Err.lean ====
section
/-! SUPPORT. Recording an error: from `s` to `t` only the registers of a list, HLTH's and SNAP's registers, the record file, the snapshot
and counters may differ. -/

set_option Elab.async false

namespace Sys2Proof.Machine

structure Records (l : List Nat) (s t : State) : Prop where
  eq : t = { s with regs := t.regs, hlth := t.hlth, snap := t.snap, counters := t.counters }
  reg : ∀ a, a / 0x100000 ≠ 0x1E → a / 0x100000 ≠ 0x1F → a ∉ l → t.reg a = s.reg a

theorem Records.rd {l : List Nat} {s t : State} (h : Records l s t) (f : RegField) (h1 : f.addr / 0x100000 ≠ 0x1E)
    (h2 : f.addr / 0x100000 ≠ 0x1F) (h3 : f.addr ∉ l) : t.rd f = s.rd f := by
  simp only [State.rd, h.reg f.addr h1 h2 h3]

theorem Records.hif {l : List Nat} {s t : State} (h : Records l s t) : t.hif = s.hif := by rw [h.eq]
theorem Records.jrnl {l : List Nat} {s t : State} (h : Records l s t) : t.jrnl = s.jrnl := by rw [h.eq]
theorem Records.time {l : List Nat} {s t : State} (h : Records l s t) : t.time = s.time := by rw [h.eq]
theorem Records.streams {l : List Nat} {s t : State} (h : Records l s t) : t.streams = s.streams := by rw [h.eq]
theorem Records.dec {l : List Nat} {s t : State} (h : Records l s t) : t.dec = s.dec := by rw [h.eq]
theorem Records.net {l : List Nat} {s t : State} (h : Records l s t) : t.net = s.net := by rw [h.eq]
theorem Records.shp {l : List Nat} {s t : State} (h : Records l s t) : t.shp = s.shp := by rw [h.eq]
theorem Records.sgs {l : List Nat} {s t : State} (h : Records l s t) : t.sgs = s.sgs := by rw [h.eq]
theorem Records.progs {l : List Nat} {s t : State} (h : Records l s t) : t.progs = s.progs := by rw [h.eq]
theorem Records.tbl {l : List Nat} {s t : State} (h : Records l s t) : t.tbl = s.tbl := by rw [h.eq]
theorem Records.jobs {l : List Nat} {s t : State} (h : Records l s t) : t.jobs = s.jobs := by rw [h.eq]
theorem Records.nextJob {l : List Nat} {s t : State} (h : Records l s t) : t.nextJob = s.nextJob := by rw [h.eq]
theorem Records.cores {l : List Nat} {s t : State} (h : Records l s t) : t.cores = s.cores := by rw [h.eq]
theorem Records.sched {l : List Nat} {s t : State} (h : Records l s t) : t.sched = s.sched := by rw [h.eq]
theorem Records.pools {l : List Nat} {s t : State} (h : Records l s t) : t.pools = s.pools := by rw [h.eq]
theorem Records.mem {l : List Nat} {s t : State} (h : Records l s t) : t.mem = s.mem := by rw [h.eq]
theorem Records.hbm {l : List Nat} {s t : State} (h : Records l s t) : t.hbm = s.hbm := by rw [h.eq]
theorem Records.lnk {l : List Nat} {s t : State} (h : Records l s t) : t.lnk = s.lnk := by rw [h.eq]
theorem Records.pwr {l : List Nat} {s t : State} (h : Records l s t) : t.pwr = s.pwr := by rw [h.eq]
theorem Records.sec {l : List Nat} {s t : State} (h : Records l s t) : t.sec = s.sec := by rw [h.eq]
theorem Records.free {l : List Nat} {s t : State} (h : Records l s t) : t.free = s.free := by rw [h.eq]
theorem Records.out {l : List Nat} {s t : State} (h : Records l s t) : t.out = s.out := by rw [h.eq]
theorem Records.pending {l : List Nat} {s t : State} (h : Records l s t) : t.pending = s.pending := by rw [h.eq]

theorem Records.of_notes {s t : State} (h : Notes s t) : Records [] s t := ⟨h.eq, fun a h1 h2 _ => h.reg a h1 h2⟩

theorem Records.trans {l m : List Nat} {s t u : State} (h : Records l s t) (k : Records m t u) : Records (l ++ m) s u := by
  refine ⟨?_, fun a h1 h2 h3 => ?_⟩
  · have h2 := k.eq
    rw [h.eq] at h2
    exact h2
  · rw [List.mem_append, not_or] at h3
    exact (k.reg a h1 h2 h3.2).trans (h.reg a h1 h2 h3.1)

theorem Records.mono {l m : List Nat} {s t : State} (h : Records l s t) (hm : ∀ a, a ∈ l → a ∈ m) : Records m s t :=
  ⟨h.eq, fun a h1 h2 h3 => h.reg a h1 h2 (fun ha => h3 (hm a ha))⟩

theorem setErr_records (s : State) (a : Nat) (o : Bool) (i : Nat × Nat × Nat) (c : Nat) : Records [a] s (s.setErr a o i c) := by
  refine ⟨?_, fun b _ _ h => reg_setErr_other _ _ _ _ _ _ (by simpa using h)⟩
  have := setErr_eq s a o i c
  rw [this]

/-- Recording an error leaves VALID 1 (R14). -/
theorem rd_setErr_valid (s : State) (a : Nat) (o : Bool) (i : Nat × Nat × Nat) (c : Nat) (hw : i.1 + i.2.1 ≤ 30)
    (hi : 16 ≤ i.1 ∨ i.2.1 = 0) : (s.setErr a o i c).rd ⟨a, 31, 1⟩ = 1 := by
  obtain ⟨lo, w, v⟩ := i
  have h1 : ∀ x : Nat, bitsOf x 31 1 = 0 ∨ bitsOf x 31 1 = 1 := fun x => by have := bitsOf_lt x 31 1; omega
  unfold State.setErr
  simp only
  split
  · simp only [State.rd, reg_setReg_same, packBits, BitVec.toNat_ofNat, bitsOf_eq, Nat.shiftLeft_eq]
    simp only at hw hi
    have hlt : v % 2 ^ w * 2 ^ lo + 2 ^ 16 ≤ 2 ^ 30 := by
      rcases hi with hi | hi
      · have a1 : v % 2 ^ w + 1 ≤ 2 ^ w := Nat.mod_lt _ (Nat.two_pow_pos w)
        have a2 : (v % 2 ^ w + 1) * 2 ^ lo ≤ 2 ^ w * 2 ^ lo := Nat.mul_le_mul_right _ a1
        rw [← Nat.pow_add, Nat.add_comm w lo, Nat.add_mul, Nat.one_mul] at a2
        have a3 : (2 : Nat) ^ (lo + w) ≤ 2 ^ 30 := Nat.pow_le_pow_right (by decide) hw
        have a4 : (2 : Nat) ^ 16 ≤ 2 ^ lo := Nat.pow_le_pow_right (by decide) hi
        omega
      · subst hi
        rw [Nat.pow_zero, Nat.mod_one, Nat.zero_mul]
        decide
    have hc : c % 2 ^ 16 < 2 ^ 16 := Nat.mod_lt _ (by decide)
    generalize v % 2 ^ w * 2 ^ lo = x at hlt ⊢
    generalize c % 2 ^ 16 = y at hc ⊢
    omega
  · rename_i hv
    have hv : bitsOf (s.reg a).toNat 31 1 = 1 := (h1 _).resolve_left hv
    split
    · show bitsOf ((s.setReg a _).reg a).toNat 31 1 = 1
      rw [reg_setReg_same, BitVec.toNat_ofNat, Nat.mod_eq_of_lt (putBits_lt _ _ _ _ _ (s.reg a).isLt (by decide)),
        bitsOf_putBits_other _ _ _ _ _ _ (by decide)]
      exact hv
    · exact hv

theorem file_records (s : State) (b : Blk) (i c d0 d1 : Nat) : Records [] s (s.file b i c d0 d1) :=
  .of_notes (file_notes (Notes.refl s) b i c d0 d1)

theorem hifErr_records (s : State) (code ring addr d0 d1 : Nat) :
    Records [Reg.HIF_ERR, Reg.HIF_ERR_ADDR_LO, Reg.HIF_ERR_ADDR_HI] s (s.hifErr code ring addr d0 d1) := by
  unfold State.hifErr
  refine ((setErr_records s Reg.HIF_ERR true (16, 7, ring) code).trans (m := [Reg.HIF_ERR_ADDR_LO, Reg.HIF_ERR_ADDR_HI]) ?_).trans
    (m := []) (file_records _ _ _ _ _ _)
  split
  · refine ⟨rfl, fun a _ _ h => ?_⟩
    simp only [List.mem_cons, List.not_mem_nil, or_false, not_or] at h
    unfold State.wr64
    rw [reg_setReg_other _ _ _ _ h.2, reg_setReg_other _ _ _ _ h.1]
  · exact ⟨rfl, fun _ _ _ _ => rfl⟩

theorem hbmErr_records (s : State) (wh code d0 d1 : Nat) : Records [Reg.HBM_ERR] s (s.hbmErr wh code d0 d1) := by
  unfold State.hbmErr
  exact (setErr_records s _ _ _ _).trans (m := []) (file_records _ _ _ _ _ _)

theorem lnkErr_records (s : State) (wh code d0 d1 : Nat) : Records [Reg.LNK_ERR] s (s.lnkErr wh code d0 d1) := by
  unfold State.lnkErr
  exact (setErr_records s _ _ _ _).trans (m := []) (file_records _ _ _ _ _ _)

theorem poolErr_records (s : State) (code wh d0 d1 : Nat) : Records [Reg.POOL_ERR] s (s.poolErr code wh d0 d1) := by
  unfold State.poolErr
  exact (setErr_records s _ _ _ _).trans (m := []) (file_records _ _ _ _ _ _)

theorem schedErr_records (s : State) (code wh i : Nat) : Records [Reg.SCHED_ERR] s (s.schedErr code wh i) := by
  unfold State.schedErr
  exact (setErr_records s _ _ _ _).trans (m := []) (file_records _ _ _ _ _ _)

theorem secErr_records (s : State) (code : Nat) : Records [Reg.SEC_ERR] s (s.secErr code) := by
  unfold State.secErr
  exact (setErr_records s _ _ _ _).trans (m := []) (file_records _ _ _ _ _ _)

theorem shpErr_records (s : State) (e st code d0 d1 : Nat) : Records [Reg.SHP_ERR e] s (s.shpErr e st code d0 d1) := by
  unfold State.shpErr
  exact (setErr_records s _ _ _ _).trans (m := []) (file_records _ _ _ _ _ _)

theorem hlthErr_records (s : State) (i code d0 d1 : Nat) : Records [Reg.HLTH_ERR] s (s.hlthErr i code d0 d1) := by
  unfold State.hlthErr
  exact (setErr_records s _ _ _ _).trans (m := []) (file_records _ _ _ _ _ _)

theorem timeErr_records (s : State) (code d0 d1 : Nat) : Records [Reg.TIME_ERR] s (s.timeErr code d0 d1) := by
  unfold State.timeErr
  exact (setErr_records s _ _ _ _).trans (m := []) (file_records _ _ _ _ _ _)

theorem coreErr_records (s : State) (c code : Nat) (m : Bool) (d0 d1 : Nat) : Records [if m then Reg.CORE_MRV_ERR c else Reg.CORE_LRW_ERR c] s (s.coreErr c code m d0 d1) := by
  unfold State.coreErr
  exact (setErr_records s _ _ _ _).trans (m := []) (file_records _ _ _ _ _ _)

theorem rd_hifErr_valid (s : State) (code ring addr d0 d1 : Nat) : (s.hifErr code ring addr d0 d1).rd Reg.HIF_ERR_VALID = 1 := by
  unfold State.hifErr
  simp only
  rw [rd_file _ _ _ _ _ _ _ (by decide) (by decide)]
  have h : (s.setErr Reg.HIF_ERR true (16, 7, ring) code).rd Reg.HIF_ERR_VALID = 1 :=
    rd_setErr_valid s Reg.HIF_ERR true (16, 7, ring) code (by simp) (by simp)
  refine ite_both (P := fun t : State => t.rd Reg.HIF_ERR_VALID = 1) ?_ h
  unfold State.wr64
  rw [rd_setReg_other _ _ _ _ (by decide), rd_setReg_other _ _ _ _ (by decide)]
  exact h

theorem decErr_records (s : State) (st code d0 d1 : Nat) :
    Records [Reg.DEC_STRM_ERR st, Reg.DEC_ERR (s.strmEngine st)] s
      (s.decErr st code d0 d1) := by
  have h : ∀ (t : State) (e : Nat), Records [Reg.DEC_STRM_ERR st] s t → Records [Reg.DEC_STRM_ERR st, Reg.DEC_ERR e] s
      ((t.setErr (Reg.DEC_ERR e) true (16, 8, st) code).file .dec st code d0 d1) := fun t e ht =>
    (ht.trans (setErr_records t _ _ _ _)).trans (m := []) (file_records _ _ _ _ _ _)
  exact h (s.setErr (Reg.DEC_STRM_ERR st) false (0, 0, 0) code)
    (s.strmEngine st) (setErr_records _ _ _ _ _)

theorem netErr_records (s : State) (code wh d0 d1 : Nat) :
    Records [Reg.NET_FLOW_ERR wh, Reg.NET_ERR] s (s.netErr code wh d0 d1) := by
  unfold State.netErr
  refine ((?_ : Records [Reg.NET_FLOW_ERR wh] s _).trans (setErr_records _ _ _ _ _)).trans (m := []) (file_records _ _ _ _ _ _)
  split
  · exact setErr_records _ _ _ _ _
  · exact ⟨rfl, fun _ _ _ _ => rfl⟩

theorem sgsErr_records (s : State) (k : Nat) (st : Option Nat) (code d0 d1 : Nat) :
    Records [Reg.SGS_ERR k, Reg.SGS_STRM_ERR (st.getD 0)] s (s.sgsErr k st code d0 d1) := by
  unfold State.sgsErr
  have h1 := setErr_records s (Reg.SGS_ERR k) true (16, 8, st.getD 0xFF) code
  cases st with
  | none => exact (h1.trans (m := []) (file_records _ .sgs k code d0 d1)).mono (by simp)
  | some n =>
    exact (h1.trans (setErr_records _ (Reg.SGS_STRM_ERR n) false (0, 0, 0) code)).trans (m := []) (file_records _ .sgs k code d0 d1)

end Sys2Proof.Machine
end

