-- ==== Sys2Proof/Laws/Keep.lean ====
section
/-! SUPPORT. `Keeps s t`: what every operation of the machine keeps, whatever it does: the queue of waiting commands, the canonical
form of the tables, and the final lifecycle state. -/

set_option Elab.async false
set_option linter.unusedTactic false
set_option linter.unreachableTactic false

namespace Sys2Proof

theorem Part.same_refl (p : Part) (s : Machine.State) : p.same s s := by cases p <;> rfl

theorem Part.same_trans (p : Part) {s t u : Machine.State} (h : p.same s t) (k : p.same t u) : p.same s u := by
  cases p <;> exact Eq.trans k h

end Sys2Proof

namespace Sys2Proof.Machine

/-- From `s` to `t` only parts whose bit is in the mask may differ. -/
structure Differ (m : Nat) (s t : State) : Prop where
  same : ∀ p : Part, m.testBit p.bit = false → p.same s t

/-- From `s` to `t` the queue is untouched, canonical tables stay canonical, TERMINATED stays TERMINATED, and only the parts of the
mask `L` may differ. -/
structure Keeps (L : Nat) (s t : State) : Prop where
  pending : t.pending = s.pending
  canon : canonical s → canonical t
  term : terminated s → terminated t
  parts : Differ L s t

/-- An outcome that is a next state and keeps what `Keeps` says. -/
structure KeepsO (L : Nat) (s : State) (o : Host.Outcome State Fault Refusal) : Prop where
  goesOn : ∃ t, o = .next t
  next : ∀ t, o = .next t → Keeps L s t

/-- A mask within a mask within a mask. -/
theorem lor_sub {g m L : Nat} (h : m ||| L = L) (k : g ||| m = m) : g ||| L = L := by
  rw [← h, ← Nat.or_assoc, k]

theorem Differ.mono {m L : Nat} {s t : State} (hL : m ||| L = L) (h : Differ m s t) : Differ L s t := by
  refine ⟨fun p hp => h.same p ?_⟩
  rw [← hL, Nat.testBit_or, Bool.or_eq_false_iff] at hp
  exact hp.1

theorem Differ.trans {L : Nat} {s t u : State} (h : Differ L s t) (k : Differ L t u) : Differ L s u :=
  ⟨fun p hp => p.same_trans (h.same p hp) (k.same p hp)⟩

theorem Keeps.refl {L : Nat} (s : State) : Keeps L s s := ⟨rfl, id, id, ⟨fun p _ => p.same_refl s⟩⟩

theorem Keeps.trans {L : Nat} {s t u : State} (h : Keeps L s t) (k : Keeps L t u) : Keeps L s u :=
  ⟨k.pending.trans h.pending, k.canon ∘ h.canon, k.term ∘ h.term, h.parts.trans k.parts⟩

theorem Keeps.ite {L : Nat} {s a b : State} {c : Prop} [Decidable c] (ha : c → Keeps L s a) (hb : ¬c → Keeps L s b) :
    Keeps L s (if c then a else b) := by
  split
  · exact ha (by assumption)
  · exact hb (by assumption)

theorem KeepsO.ite {L : Nat} {s : State} {a b : Host.Outcome State Fault Refusal} {c : Prop} [Decidable c] (ha : c → KeepsO L s a)
    (hb : ¬c → KeepsO L s b) : KeepsO L s (if c then a else b) := by
  split
  · exact ha (by assumption)
  · exact hb (by assumption)

theorem KeepsO.of_next {L : Nat} {s t : State} (h : Keeps L s t) : KeepsO L s (.next t) := by
  refine ⟨⟨t, rfl⟩, fun u hu => ?_⟩
  cases hu
  exact h

theorem KeepsO.trans {L : Nat} {s t : State} {o : Host.Outcome State Fault Refusal} (h : Keeps L s t) (k : KeepsO L t o) : KeepsO L s o :=
  ⟨k.goesOn, fun u hu => h.trans (k.next u hu)⟩

/-- A fold of an operation that keeps. -/
theorem Keeps.foldl {L : Nat} {α : Type} {s s0 : State} {f : State → α → State} {l : List α} (h0 : Keeps L s s0)
    (h : ∀ t x, Keeps L s t → Keeps L s (f t x)) : Keeps L s (l.foldl f s0) := by
  induction l generalizing s0 with
  | nil => exact h0
  | cons x l ih => exact ih (h s0 x h0)

/-- A fold that carries something beside the state. -/
theorem Keeps.foldl_fst {L : Nat} {α β : Type} {s : State} {p0 : State × β} {f : State × β → α → State × β} {l : List α}
    (h0 : Keeps L s p0.1) (h : ∀ p x, Keeps L s p.1 → Keeps L s (f p x).1) : Keeps L s (l.foldl f p0).1 := by
  induction l generalizing p0 with
  | nil => exact h0
  | cons x l ih => exact ih (h p0 x h0)

/-- An operation that may give nothing. -/
theorem Keeps.getD {L : Nat} {s d : State} {o : Option State} (hd : Keeps L s d) (h : ∀ t, o = some t → Keeps L s t) :
    Keeps L s (o.getD d) := by
  cases o with
  | none => exact hd
  | some t => exact h t rfl

/-- The first part of a pair. -/
theorem Keeps.of_fst {L : Nat} {β : Type} {s t : State} {x : β} {p : State × β} (h : Keeps L s p.1) (e : p = (t, x)) : Keeps L s t := by
  subst e; exact h

/-- An update of fields that hold neither a table of `canonical`, nor the fuses, nor the queue. -/
theorem Keeps.upd {L m : Nat} {s t : State}
    {a1 a2 a3 a4 a5 a6 a7 a8 a9 a10 a11 a12 a13 a14 a15 a16 a17 a18 a19 a20 a21 a22 a23}
    (hL : m ||| L = L) (h : Keeps L s t)
    (h1 : m.testBit 1 = true ∨ a1 = t.hif := by first | exact .inl rfl | exact .inr rfl)
    (h2 : m.testBit 2 = true ∨ a2 = t.jrnl := by first | exact .inl rfl | exact .inr rfl)
    (h3 : m.testBit 3 = true ∨ a3 = t.hlth := by first | exact .inl rfl | exact .inr rfl)
    (h4 : m.testBit 4 = true ∨ a4 = t.snap := by first | exact .inl rfl | exact .inr rfl)
    (h5 : m.testBit 5 = true ∨ a5 = t.time := by first | exact .inl rfl | exact .inr rfl)
    (h6 : m.testBit 6 = true ∨ a6 = t.streams := by first | exact .inl rfl | exact .inr rfl)
    (h7 : m.testBit 7 = true ∨ a7 = t.dec := by first | exact .inl rfl | exact .inr rfl)
    (h8 : m.testBit 8 = true ∨ a8 = t.net := by first | exact .inl rfl | exact .inr rfl)
    (h9 : m.testBit 9 = true ∨ a9 = t.shp := by first | exact .inl rfl | exact .inr rfl)
    (h10 : m.testBit 10 = true ∨ a10 = t.sgs := by first | exact .inl rfl | exact .inr rfl)
    (h11 : m.testBit 11 = true ∨ a11 = t.progs := by first | exact .inl rfl | exact .inr rfl)
    (h12 : m.testBit 12 = true ∨ a12 = t.tbl := by first | exact .inl rfl | exact .inr rfl)
    (h13 : m.testBit 13 = true ∨ a13 = t.jobs := by first | exact .inl rfl | exact .inr rfl)
    (h14 : m.testBit 14 = true ∨ a14 = t.nextJob := by first | exact .inl rfl | exact .inr rfl)
    (h15 : m.testBit 15 = true ∨ a15 = t.cores := by first | exact .inl rfl | exact .inr rfl)
    (h16 : m.testBit 16 = true ∨ a16 = t.sched := by first | exact .inl rfl | exact .inr rfl)
    (h17 : m.testBit 17 = true ∨ a17 = t.pools := by first | exact .inl rfl | exact .inr rfl)
    (h18 : m.testBit 18 = true ∨ a18 = t.mem := by first | exact .inl rfl | exact .inr rfl)
    (h19 : m.testBit 19 = true ∨ a19 = t.hbm := by first | exact .inl rfl | exact .inr rfl)
    (h20 : m.testBit 20 = true ∨ a20 = t.lnk := by first | exact .inl rfl | exact .inr rfl)
    (h21 : m.testBit 21 = true ∨ a21 = t.pwr := by first | exact .inl rfl | exact .inr rfl)
    (h24 : m.testBit 24 = true ∨ a22 = t.free := by first | exact .inl rfl | exact .inr rfl)
    (h25 : m.testBit 25 = true ∨ a23 = t.out := by first | exact .inl rfl | exact .inr rfl) :
    Keeps L s ⟨t.regs, a1, a2, a3, a4, a5, a6, a7, a8, a9, a10, a11, a12, a13, a14, a15, a16, a17, a18, a19, a20, a21, t.sec,
      t.counters, a22, a23, t.pending⟩ := by
  refine h.trans ⟨rfl, id, id, Differ.mono hL ⟨fun p hp => ?_⟩⟩
  cases p with
  | hif => exact h1.resolve_left (ne_true_of_eq_false hp)
  | jrnl => exact h2.resolve_left (ne_true_of_eq_false hp)
  | hlth => exact h3.resolve_left (ne_true_of_eq_false hp)
  | snap => exact h4.resolve_left (ne_true_of_eq_false hp)
  | time => exact h5.resolve_left (ne_true_of_eq_false hp)
  | streams => exact h6.resolve_left (ne_true_of_eq_false hp)
  | dec => exact h7.resolve_left (ne_true_of_eq_false hp)
  | net => exact h8.resolve_left (ne_true_of_eq_false hp)
  | shp => exact h9.resolve_left (ne_true_of_eq_false hp)
  | sgs => exact h10.resolve_left (ne_true_of_eq_false hp)
  | progs => exact h11.resolve_left (ne_true_of_eq_false hp)
  | tbl => exact h12.resolve_left (ne_true_of_eq_false hp)
  | jobs => exact h13.resolve_left (ne_true_of_eq_false hp)
  | nextJob => exact h14.resolve_left (ne_true_of_eq_false hp)
  | cores => exact h15.resolve_left (ne_true_of_eq_false hp)
  | sched => exact h16.resolve_left (ne_true_of_eq_false hp)
  | pools => exact h17.resolve_left (ne_true_of_eq_false hp)
  | mem => exact h18.resolve_left (ne_true_of_eq_false hp)
  | hbm => exact h19.resolve_left (ne_true_of_eq_false hp)
  | lnk => exact h20.resolve_left (ne_true_of_eq_false hp)
  | pwr => exact h21.resolve_left (ne_true_of_eq_false hp)
  | free => exact h24.resolve_left (ne_true_of_eq_false hp)
  | out => exact h25.resolve_left (ne_true_of_eq_false hp)
  | regs | sec | counters => rfl

/-- An update of SEC that leaves the lifecycle fuses and the running lifecycle command. -/
theorem Keeps.updSec {L m : Nat} {s t : State}
    {a1 a2 a3 a4 a5 a6 a7 a8 a9 a10 a11 a12 a13 a14 a15 a16 a17 a18 a19 a20 a21 a22 a23}
    {b1 b2 b3 b4 b5 b6 b7 b8 b9 b10 b11 b12 b13}
    (hL : m ||| L = L) (h : Keeps L s t) (h22 : m.testBit 22 = true := by exact rfl)
    (h1 : m.testBit 1 = true ∨ a1 = t.hif := by first | exact .inl rfl | exact .inr rfl)
    (h2 : m.testBit 2 = true ∨ a2 = t.jrnl := by first | exact .inl rfl | exact .inr rfl)
    (h3 : m.testBit 3 = true ∨ a3 = t.hlth := by first | exact .inl rfl | exact .inr rfl)
    (h4 : m.testBit 4 = true ∨ a4 = t.snap := by first | exact .inl rfl | exact .inr rfl)
    (h5 : m.testBit 5 = true ∨ a5 = t.time := by first | exact .inl rfl | exact .inr rfl)
    (h6 : m.testBit 6 = true ∨ a6 = t.streams := by first | exact .inl rfl | exact .inr rfl)
    (h7 : m.testBit 7 = true ∨ a7 = t.dec := by first | exact .inl rfl | exact .inr rfl)
    (h8 : m.testBit 8 = true ∨ a8 = t.net := by first | exact .inl rfl | exact .inr rfl)
    (h9 : m.testBit 9 = true ∨ a9 = t.shp := by first | exact .inl rfl | exact .inr rfl)
    (h10 : m.testBit 10 = true ∨ a10 = t.sgs := by first | exact .inl rfl | exact .inr rfl)
    (h11 : m.testBit 11 = true ∨ a11 = t.progs := by first | exact .inl rfl | exact .inr rfl)
    (h12 : m.testBit 12 = true ∨ a12 = t.tbl := by first | exact .inl rfl | exact .inr rfl)
    (h13 : m.testBit 13 = true ∨ a13 = t.jobs := by first | exact .inl rfl | exact .inr rfl)
    (h14 : m.testBit 14 = true ∨ a14 = t.nextJob := by first | exact .inl rfl | exact .inr rfl)
    (h15 : m.testBit 15 = true ∨ a15 = t.cores := by first | exact .inl rfl | exact .inr rfl)
    (h16 : m.testBit 16 = true ∨ a16 = t.sched := by first | exact .inl rfl | exact .inr rfl)
    (h17 : m.testBit 17 = true ∨ a17 = t.pools := by first | exact .inl rfl | exact .inr rfl)
    (h18 : m.testBit 18 = true ∨ a18 = t.mem := by first | exact .inl rfl | exact .inr rfl)
    (h19 : m.testBit 19 = true ∨ a19 = t.hbm := by first | exact .inl rfl | exact .inr rfl)
    (h20 : m.testBit 20 = true ∨ a20 = t.lnk := by first | exact .inl rfl | exact .inr rfl)
    (h21 : m.testBit 21 = true ∨ a21 = t.pwr := by first | exact .inl rfl | exact .inr rfl)
    (h24 : m.testBit 24 = true ∨ a22 = t.free := by first | exact .inl rfl | exact .inr rfl)
    (h25 : m.testBit 25 = true ∨ a23 = t.out := by first | exact .inl rfl | exact .inr rfl) :
    Keeps L s ⟨t.regs, a1, a2, a3, a4, a5, a6, a7, a8, a9, a10, a11, a12, a13, a14, a15, a16, a17, a18, a19, a20, a21,
      ⟨t.sec.lc, b1, b2, b3, b4, b5, b6, b7, t.sec.busy, b8, b9, b10, b11, b12, b13⟩, t.counters, a22, a23, t.pending⟩ := by
  refine h.trans ⟨rfl, id, id, Differ.mono hL ⟨fun p hp => ?_⟩⟩
  cases p with
  | hif => exact h1.resolve_left (ne_true_of_eq_false hp)
  | jrnl => exact h2.resolve_left (ne_true_of_eq_false hp)
  | hlth => exact h3.resolve_left (ne_true_of_eq_false hp)
  | snap => exact h4.resolve_left (ne_true_of_eq_false hp)
  | time => exact h5.resolve_left (ne_true_of_eq_false hp)
  | streams => exact h6.resolve_left (ne_true_of_eq_false hp)
  | dec => exact h7.resolve_left (ne_true_of_eq_false hp)
  | net => exact h8.resolve_left (ne_true_of_eq_false hp)
  | shp => exact h9.resolve_left (ne_true_of_eq_false hp)
  | sgs => exact h10.resolve_left (ne_true_of_eq_false hp)
  | progs => exact h11.resolve_left (ne_true_of_eq_false hp)
  | tbl => exact h12.resolve_left (ne_true_of_eq_false hp)
  | jobs => exact h13.resolve_left (ne_true_of_eq_false hp)
  | nextJob => exact h14.resolve_left (ne_true_of_eq_false hp)
  | cores => exact h15.resolve_left (ne_true_of_eq_false hp)
  | sched => exact h16.resolve_left (ne_true_of_eq_false hp)
  | pools => exact h17.resolve_left (ne_true_of_eq_false hp)
  | mem => exact h18.resolve_left (ne_true_of_eq_false hp)
  | hbm => exact h19.resolve_left (ne_true_of_eq_false hp)
  | lnk => exact h20.resolve_left (ne_true_of_eq_false hp)
  | pwr => exact h21.resolve_left (ne_true_of_eq_false hp)
  | free => exact h24.resolve_left (ne_true_of_eq_false hp)
  | out => exact h25.resolve_left (ne_true_of_eq_false hp)
  | sec => exact absurd h22 (ne_true_of_eq_false hp)
  | regs | counters => rfl

/-- Storing a register. -/
theorem State.setReg_keeps {L : Nat} {r : State} (s : State) (a : Nat) (v : BitVec 32) (hL : 1 ||| L = L) (h : Keeps L r s) :
    Keeps L r (s.setReg a v) :=
  h.trans ⟨rfl, fun h => ⟨tset_wf _ _ _ _ h.1, h.2⟩, id, Differ.mono hL ⟨fun p hp => by
    cases p <;> first | exact absurd hp (by decide) | exact rfl⟩⟩

theorem State.cnt_keeps {L : Nat} {r : State} (s : State) (id_ scope n : Nat) (hL : 8388608 ||| L = L) (h : Keeps L r s) :
    Keeps L r (s.cnt id_ scope n) :=
  h.trans ⟨rfl, fun h => ⟨h.1, tset_wf _ _ _ _ h.2⟩, fun h => h, Differ.mono hL ⟨fun p hp => by
    cases p <;> first | exact absurd hp (by decide) | exact rfl⟩⟩

theorem State.setCnt_keeps {L : Nat} {r : State} (s : State) (id_ scope v : Nat) (hL : 8388608 ||| L = L) (h : Keeps L r s) :
    Keeps L r (s.setCnt id_ scope v) :=
  h.trans ⟨rfl, fun h => ⟨h.1, tset_wf _ _ _ _ h.2⟩, fun h => h, Differ.mono hL ⟨fun p hp => by
    cases p <;> first | exact absurd hp (by decide) | exact rfl⟩⟩

end Sys2Proof.Machine
end

