-- ==== Sys2Proof/Laws/KeepOps.lean ====
section
/-! SUPPORT. Every operation of Machine/Ops.lean keeps what `Keeps` says. -/

set_option Elab.async false

namespace Sys2Proof.Machine

theorem State.post_keeps {L : Nat} {u : State} (s : State) (o : Out) (hL : 33554432 ||| L = L) (hu : Keeps L u s) :
    Keeps L u (State.post s o) := by
  unfold State.post
  try dsimp only
  repeat' first
    | with_reducible assumption
    | refine Keeps.upd hL ?_

theorem State.latch_keeps {L : Nat} {u : State} (s : State) (a : Nat) (hL : 2 ||| L = L) (hu : Keeps L u s) :
    Keeps L u (State.latch s a) := by
  unfold State.latch
  try dsimp only
  repeat' first
    | with_reducible assumption
    | refine Keeps.upd hL ?_

theorem State.wr_keeps {L : Nat} {u : State} (s : State) (f : RegField) (v : Nat) (hL : 1 ||| L = L) (hu : Keeps L u s) :
    Keeps L u (State.wr s f v) := by
  unfold State.wr
  try dsimp only
  repeat' first
    | with_reducible assumption
    | exact lor_sub hL rfl
    | with_reducible apply State.setReg_keeps

theorem State.bump_keeps {L : Nat} {u : State} (s : State) (f : RegField) (n : optParam Nat 1) (hL : 1 ||| L = L) (hu : Keeps L u s) :
    Keeps L u (State.bump s f n) := by
  unfold State.bump
  try dsimp only
  repeat' first
    | with_reducible assumption
    | exact lor_sub hL rfl
    | with_reducible apply State.wr_keeps

theorem State.unfurl_keeps {L : Nat} {u : State} (s : State) (hL : 1 ||| L = L) (hu : Keeps L u s) :
    Keeps L u (State.unfurl s) := by
  unfold State.unfurl
  try dsimp only
  repeat' first
    | with_reducible assumption
    | exact lor_sub hL rfl
    | with_reducible apply State.bump_keeps
    | with_reducible apply State.wr_keeps

theorem State.wakeUp_keeps {L : Nat} {u : State} (s : State) (hL : 1 ||| L = L) (hu : Keeps L u s) :
    Keeps L u (State.wakeUp s) := by
  unfold State.wakeUp
  try dsimp only
  repeat' first
    | with_reducible assumption
    | exact lor_sub hL rfl
    | with_reducible apply Keeps.ite <;> intro _
    | with_reducible apply State.wr_keeps
    | with_reducible apply State.unfurl_keeps
    | split

theorem State.touch_keeps {L : Nat} {u : State} (s : State) (a : Nat) (hL : 1 ||| L = L) (hu : Keeps L u s) :
    Keeps L u (State.touch s a) := by
  unfold State.touch
  try dsimp only
  repeat' first
    | with_reducible assumption
    | exact lor_sub hL rfl
    | with_reducible apply Keeps.ite <;> intro _
    | with_reducible apply State.wakeUp_keeps
    | split

theorem State.setErr_keeps {L : Nat} {u : State} (s : State) (a : Nat) (ovf : Bool) (inst : Nat × Nat × Nat) (code : Nat) (hL : 1 ||| L = L) (hu : Keeps L u s) :
    Keeps L u (State.setErr s a ovf inst code) := by
  unfold State.setErr
  try dsimp only
  repeat' first
    | with_reducible assumption
    | exact lor_sub hL rfl
    | with_reducible apply Keeps.ite <;> intro _
    | with_reducible apply State.setReg_keeps
    | split

theorem State.wr64_keeps {L : Nat} {u : State} (s : State) (lo : Nat) (hi : Nat) (v : Nat) (hL : 1 ||| L = L) (hu : Keeps L u s) :
    Keeps L u (State.wr64 s lo hi v) := by
  unfold State.wr64
  try dsimp only
  repeat' first
    | with_reducible assumption
    | exact lor_sub hL rfl
    | with_reducible apply State.setReg_keeps

theorem State.recSummary_keeps {L : Nat} {u : State} (s : State) (hL : 1 ||| L = L) (hu : Keeps L u s) :
    Keeps L u (State.recSummary s) := by
  unfold State.recSummary
  try dsimp only
  repeat' first
    | with_reducible assumption
    | exact lor_sub hL rfl
    | with_reducible apply State.wr_keeps
    | with_reducible apply Keeps.foldl
    | with_reducible apply Keeps.foldl_fst
    | intro _ _ _

theorem State.hoist_keeps {L : Nat} {u : State} (s : State) (bit : Nat) (code : Nat) (node : Nat) (hL : 8388625 ||| L = L) (hu : Keeps L u s) :
    Keeps L u (State.hoist s bit code node) := by
  unfold State.hoist
  try dsimp only
  repeat' first
    | with_reducible assumption
    | exact lor_sub hL rfl
    | with_reducible apply Keeps.ite <;> intro _
    | with_reducible apply State.wr_keeps
    | with_reducible apply State.setReg_keeps
    | with_reducible apply State.cnt_keeps
    | with_reducible apply State.bump_keeps
    | with_reducible apply Keeps.foldl
    | with_reducible apply Keeps.foldl_fst
    | intro _ _ _
    | split
    | refine Keeps.upd hL ?_

theorem State.file_keeps {L : Nat} {u : State} (s : State) (blk : Blk) (inst : Nat) (code : Nat) (d0 : optParam Nat 0) (d1 : optParam Nat 0) (hL : 8388633 ||| L = L) (hu : Keeps L u s) :
    Keeps L u (State.file s blk inst code d0 d1) := by
  unfold State.file
  try dsimp only
  repeat' first
    | with_reducible assumption
    | exact lor_sub hL rfl
    | with_reducible apply Keeps.ite <;> intro _
    | with_reducible apply State.cnt_keeps
    | with_reducible apply State.bump_keeps
    | with_reducible apply State.setErr_keeps
    | with_reducible apply State.recSummary_keeps
    | with_reducible apply State.hoist_keeps
    | split
    | refine Keeps.upd hL ?_

theorem State.bar_keeps {L : Nat} {u : State} (s : State) (a : Nat) (k : State → Host.Outcome State Fault Refusal) (hL : 33554433 ||| L = L) (hu : Keeps L u s) (hk : ∀ t, Keeps L u t → KeepsO L u (k t)) :
    KeepsO L u (State.bar s a k) := by
  unfold State.bar
  try dsimp only
  repeat' first
    | with_reducible assumption
    | with_reducible apply hk
    | exact lor_sub hL rfl
    | with_reducible apply KeepsO.of_next
    | with_reducible apply KeepsO.ite <;> intro _
    | with_reducible apply Keeps.ite <;> intro _
    | with_reducible apply State.post_keeps
    | with_reducible apply State.touch_keeps
    | split

theorem State.setPring_keeps {L : Nat} {u : State} (s : State) (m : Nat) (x : PRing) (hL : 2 ||| L = L) (hu : Keeps L u s) :
    Keeps L u (State.setPring s m x) := by
  unfold State.setPring
  try dsimp only
  repeat' first
    | with_reducible assumption
    | refine Keeps.upd hL ?_

theorem State.sendTo_keeps {L : Nat} {u : State} (s : State) (ring : Nat) (p : Pn) (hL : 2 ||| L = L) (hu : Keeps L u s) :
    Keeps L u (State.sendTo s ring p) := by
  unfold State.sendTo
  try dsimp only
  repeat' first
    | with_reducible assumption
    | exact lor_sub hL rfl
    | with_reducible apply State.setPring_keeps

theorem State.setStream_keeps {L : Nat} {u : State} (s : State) (n : Nat) (x : Stream) (hL : 64 ||| L = L) (hu : Keeps L u s) :
    Keeps L u (State.setStream s n x) := by
  unfold State.setStream
  try dsimp only
  repeat' first
    | with_reducible assumption
    | refine Keeps.upd hL ?_

theorem State.setCring_keeps {L : Nat} {u : State} (s : State) (c : Nat) (x : CRing) (hL : 2 ||| L = L) (hu : Keeps L u s) :
    Keeps L u (State.setCring s c x) := by
  unfold State.setCring
  try dsimp only
  repeat' first
    | with_reducible assumption
    | refine Keeps.upd hL ?_

theorem State.sendSvc_keeps {L : Nat} {u : State} (s : State) (p : Pn) (hL : 3 ||| L = L) (hu : Keeps L u s) :
    Keeps L u (State.sendSvc s p) := by
  unfold State.sendSvc
  try dsimp only
  repeat' first
    | with_reducible assumption
    | exact lor_sub hL rfl
    | with_reducible apply Keeps.ite <;> intro _
    | with_reducible apply State.bump_keeps
    | split
    | refine Keeps.upd hL ?_

theorem State.askXlate_keeps {L : Nat} {u : State} (s : State) (pages : List Nat) (hL : 33554434 ||| L = L) (hu : Keeps L u s) :
    Keeps L u (State.askXlate s pages) := by
  unfold State.askXlate
  try dsimp only
  repeat' first
    | with_reducible assumption
    | with_reducible apply Keeps.ite <;> intro _
    | with_reducible apply Keeps.foldl
    | with_reducible apply Keeps.foldl_fst
    | intro _ _ _
    | split
    | refine Keeps.upd hL ?_

theorem State.devError_keeps {L : Nat} {u : State} (s : State) (code : Nat) (d0 : Nat) (d1 : Nat) (stn : optParam Nat 9) (inst : optParam Nat 255) (hL : 3 ||| L = L) (hu : Keeps L u s) :
    Keeps L u (State.devError s code d0 d1 stn inst) := by
  unfold State.devError
  try dsimp only
  repeat' first
    | with_reducible assumption
    | exact lor_sub hL rfl
    | with_reducible apply State.sendSvc_keeps

theorem State.setFlow_keeps {L : Nat} {u : State} (s : State) (f : Nat) (x : Flow) (hL : 256 ||| L = L) (hu : Keeps L u s) :
    Keeps L u (State.setFlow s f x) := by
  unfold State.setFlow
  try dsimp only
  repeat' first
    | with_reducible assumption
    | refine Keeps.upd hL ?_

theorem State.setPool_keeps {L : Nat} {u : State} (s : State) (c : Nat) (x : PoolCls) (hL : 131072 ||| L = L) (hu : Keeps L u s) :
    Keeps L u (State.setPool s c x) := by
  unfold State.setPool
  try dsimp only
  repeat' first
    | with_reducible assumption
    | refine Keeps.upd hL ?_

theorem State.updCmd_keeps {L : Nat} {u : State} (s : State) (j : Nat) (f : Cmd → Cmd) (hL : 4 ||| L = L) (hu : Keeps L u s) :
    Keeps L u (State.updCmd s j f) := by
  unfold State.updCmd
  try dsimp only
  repeat' first
    | with_reducible assumption
    | refine Keeps.upd hL ?_

theorem State.done_keeps {L : Nat} {u : State} (s : State) (c : Cmd) (code : optParam Nat 0) (hL : 6 ||| L = L) (hu : Keeps L u s) :
    Keeps L u (State.done s c code) := by
  unfold State.done
  try dsimp only
  repeat' first
    | with_reducible assumption
    | exact lor_sub hL rfl
    | with_reducible apply State.sendTo_keeps
    | with_reducible apply State.updCmd_keeps

theorem State.setProg_keeps {L : Nat} {u : State} (s : State) (p : Nat) (x : Prog) (hL : 2048 ||| L = L) (hu : Keeps L u s) :
    Keeps L u (State.setProg s p x) := by
  unfold State.setProg
  try dsimp only
  repeat' first
    | with_reducible assumption
    | refine Keeps.upd hL ?_

theorem State.setSgs_keeps {L : Nat} {u : State} (s : State) (n : Nat) (x : SgsStream) (hL : 1024 ||| L = L) (hu : Keeps L u s) :
    Keeps L u (State.setSgs s n x) := by
  unfold State.setSgs
  try dsimp only
  repeat' first
    | with_reducible assumption
    | refine Keeps.upd hL ?_

theorem State.setCfg_keeps {L : Nat} {u : State} (s : State) (off : Nat) (v : BitVec 32) (hL : 2 ||| L = L) (hu : Keeps L u s) :
    Keeps L u (State.setCfg s off v) := by
  unfold State.setCfg
  try dsimp only
  repeat' first
    | with_reducible assumption
    | refine Keeps.upd hL ?_

theorem State.aer_keeps {L : Nat} {u : State} (s : State) (bit : Nat) (hL : 2 ||| L = L) (hu : Keeps L u s) :
    Keeps L u (State.aer s bit) := by
  unfold State.aer
  try dsimp only
  repeat' first
    | with_reducible assumption
    | exact lor_sub hL rfl
    | with_reducible apply Keeps.ite <;> intro _
    | with_reducible apply State.setCfg_keeps
    | split

theorem State.cmdError_keeps {L : Nat} {u : State} (s : State) (c : Cmd) (ring : Nat) (code : Nat) (d0 : Nat) (d1 : Nat) (ct : optParam (Option Stamp) Option.none) (hL : 2 ||| L = L) (hu : Keeps L u s) :
    Keeps L u (State.cmdError s c ring code d0 d1 ct) := by
  unfold State.cmdError
  try dsimp only
  repeat' first
    | with_reducible assumption
    | exact lor_sub hL rfl
    | with_reducible apply State.sendTo_keeps

theorem State.failCmd_keeps {L : Nat} {u : State} (s : State) (c : Cmd) (ring : Nat) (code : Nat) (d0 : Nat) (d1 : Nat) (hL : 6 ||| L = L) (hu : Keeps L u s) :
    Keeps L u (State.failCmd s c ring code d0 d1) := by
  unfold State.failCmd
  try dsimp only
  repeat' first
    | with_reducible assumption
    | exact lor_sub hL rfl
    | with_reducible apply State.done_keeps
    | with_reducible apply State.cmdError_keeps

theorem State.issueRead_keeps {L : Nat} {u : State} (s : State) (jidx : Nat) (addr : Nat) (len : Nat) (relaxed : Bool) (hL : 33554432 ||| L = L) (hu : Keeps L u s) :
    Keeps L u (State.issueRead s jidx addr len relaxed) := by
  unfold State.issueRead
  try dsimp only
  repeat' first
    | with_reducible assumption
    | exact lor_sub hL rfl
    | with_reducible apply State.post_keeps
    | with_reducible apply Keeps.foldl
    | with_reducible apply Keeps.foldl_fst
    | intro _ _ _

theorem State.startRead_keeps {L : Nat} {u : State} (s : State) (c : Cmd) (addr : Nat) (len : Nat) (relaxed : Bool) (hL : 33554438 ||| L = L) (hu : Keeps L u s) :
    Keeps L u (State.startRead s c addr len relaxed) := by
  unfold State.startRead
  try dsimp only
  repeat' first
    | with_reducible assumption
    | exact lor_sub hL rfl
    | with_reducible apply Keeps.ite <;> intro _
    | with_reducible apply State.updCmd_keeps
    | with_reducible apply State.issueRead_keeps
    | with_reducible apply State.askXlate_keeps
    | split

theorem State.fetched_keeps {L : Nat} {u : State} (s : State) (c : Cmd) (parts : List (Nat × Nat)) (relaxed : Bool) (hL : 33554438 ||| L = L) (hu : Keeps L u s) :
    Keeps L u (State.fetched s c parts relaxed).1 := by
  unfold State.fetched
  try dsimp only
  repeat' first
    | with_reducible assumption
    | exact lor_sub hL rfl
    | with_reducible apply Keeps.ite <;> intro _
    | with_reducible apply State.startRead_keeps
    | with_reducible apply State.updCmd_keeps
    | with_reducible apply Keeps.foldl
    | with_reducible apply Keeps.foldl_fst
    | intro _ _ _
    | split

theorem State.fetchedObj_keeps {L : Nat} {u : State} (s : State) (c : Cmd) (hL : 33554438 ||| L = L) (hu : Keeps L u s) :
    Keeps L u (State.fetchedObj s c).1 := by
  unfold State.fetchedObj
  try dsimp only
  repeat' first
    | with_reducible assumption
    | exact lor_sub hL rfl
    | with_reducible apply State.fetched_keeps
    | refine Keeps.of_fst (State.fetched_keeps _ _ _ _ ?_ ?_) (by with_reducible assumption)

theorem State.setEngine_keeps {L : Nat} {u : State} (s : State) (e : Nat) (x : Engine) (hL : 128 ||| L = L) (hu : Keeps L u s) :
    Keeps L u (State.setEngine s e x) := by
  unfold State.setEngine
  try dsimp only
  repeat' first
    | with_reducible assumption
    | refine Keeps.upd hL ?_

theorem State.xlated_keeps {L : Nat} {u : State} (s : State) (page : Nat) (hL : 33554436 ||| L = L) (hu : Keeps L u s) :
    Keeps L u (State.xlated s page) := by
  unfold State.xlated
  try dsimp only
  repeat' first
    | with_reducible assumption
    | exact lor_sub hL rfl
    | with_reducible apply State.issueRead_keeps
    | with_reducible apply Keeps.foldl
    | with_reducible apply Keeps.foldl_fst
    | intro _ _ _
    | refine Keeps.upd hL ?_

theorem State.bumpSat_keeps {L : Nat} {u : State} (s : State) (f : RegField) (hL : 1 ||| L = L) (hu : Keeps L u s) :
    Keeps L u (State.bumpSat s f) := by
  unfold State.bumpSat
  try dsimp only
  repeat' first
    | with_reducible assumption
    | exact lor_sub hL rfl
    | with_reducible apply Keeps.ite <;> intro _
    | with_reducible apply State.wr_keeps
    | split

theorem State.fresh_keeps {L : Nat} {u : State} (s : State) (hL : 16777216 ||| L = L) (hu : Keeps L u s) :
    Keeps L u (State.fresh s).1 := by
  unfold State.fresh
  try dsimp only
  repeat' first
    | with_reducible assumption
    | refine Keeps.upd hL ?_

end Sys2Proof.Machine
end

