-- ==== Sys2Proof/Laws/KeepPlace.lean ====
section
/-! SUPPORT. Every operation of Machine/Place.lean keeps what `Keeps` says. -/

set_option Elab.async false

namespace Sys2Proof.Machine

theorem State.setSlots_keeps {L : Nat} {u : State} (s : State) (p : Nat) (l : List (Nat × Nat)) (hL : 524288 ||| L = L) (hu : Keeps L u s) :
    Keeps L u (State.setSlots s p l) := by
  unfold State.setSlots
  try dsimp only
  repeat' first
    | with_reducible assumption
    | refine Keeps.upd hL ?_

theorem State.takeSlots_keeps {L : Nat} {u : State} (s : State) (p : Nat) (n : Nat) (hL : 524288 ||| L = L) (hu : Keeps L u s) :
    Keeps L u (State.takeSlots s p n).1 := by
  unfold State.takeSlots
  try dsimp only
  repeat' first
    | with_reducible assumption
    | exact lor_sub hL rfl
    | with_reducible apply State.setSlots_keeps
    | with_reducible apply Keeps.foldl
    | with_reducible apply Keeps.foldl_fst
    | intro _ _ _

theorem State.placeFrame_keeps {L : Nat} {u : State} (s : State) (svc : Nat) (f : Nat) (hL : 8912896 ||| L = L) (hu : Keeps L u s) :
    Keeps L u (State.placeFrame s svc f) := by
  unfold State.placeFrame
  try dsimp only
  repeat' first
    | with_reducible assumption
    | exact lor_sub hL rfl
    | with_reducible apply Keeps.ite <;> intro _
    | with_reducible apply State.takeSlots_keeps
    | refine Keeps.of_fst (State.takeSlots_keeps _ _ _ ?_ ?_) (by with_reducible assumption)
    | with_reducible apply State.cnt_keeps
    | with_reducible apply Keeps.foldl
    | with_reducible apply Keeps.foldl_fst
    | intro _ _ _
    | split
    | refine Keeps.upd hL ?_

theorem State.placeBuffer_keeps {L : Nat} {u : State} (s : State) (svc : Nat) (cls : Nat) (index : Nat) (hL : 8912896 ||| L = L) (hu : Keeps L u s) :
    Keeps L u (State.placeBuffer s svc cls index) := by
  unfold State.placeBuffer
  try dsimp only
  repeat' first
    | with_reducible assumption
    | exact lor_sub hL rfl
    | with_reducible apply Keeps.ite <;> intro _
    | with_reducible apply State.placeFrame_keeps
    | with_reducible apply Keeps.foldl
    | with_reducible apply Keeps.foldl_fst
    | intro _ _ _
    | split

theorem State.freeEntry_keeps {L : Nat} {u : State} (s : State) (e : FrameEnt) (hL : 524288 ||| L = L) (hu : Keeps L u s) :
    Keeps L u (State.freeEntry s e) := by
  unfold State.freeEntry
  try dsimp only
  repeat' first
    | with_reducible assumption
    | exact lor_sub hL rfl
    | with_reducible apply State.setSlots_keeps
    | with_reducible apply Keeps.foldl
    | with_reducible apply Keeps.foldl_fst
    | intro _ _ _

theorem State.unplace_keeps {L : Nat} {u : State} (s : State) (f : Nat) (hL : 524288 ||| L = L) (hu : Keeps L u s) :
    Keeps L u (State.unplace s f) := by
  unfold State.unplace
  try dsimp only
  repeat' first
    | with_reducible assumption
    | exact lor_sub hL rfl
    | with_reducible apply State.freeEntry_keeps
    | split
    | refine Keeps.upd hL ?_

end Sys2Proof.Machine
end

