-- ==== Sys2Proof/Laws/KeepPool.lean ====
section
/-! SUPPORT. Every operation of Machine/Pool.lean keeps what `Keeps` says. -/

set_option Elab.async false

namespace Sys2Proof.Machine

theorem State.refillOwn_keeps {L : Nat} {u : State} (s : State) (c : Nat) (hL : 131072 ||| L = L) (hu : Keeps L u s) :
    Keeps L u (State.refillOwn s c) := by
  unfold State.refillOwn
  try dsimp only
  repeat' first
    | with_reducible assumption
    | exact lor_sub hL rfl
    | with_reducible apply State.setPool_keeps

theorem State.drawOne_keeps {L : Nat} {u : State} (s : State) (o : Nat) (c : Nat) (svc : Nat) (hL : 9043968 ||| L = L) (hu : Keeps L u s) :
    Keeps L u (State.drawOne s o c svc).1 := by
  unfold State.drawOne
  try dsimp only
  repeat' first
    | with_reducible assumption
    | exact lor_sub hL rfl
    | with_reducible apply Keeps.ite <;> intro _
    | with_reducible apply State.cnt_keeps
    | with_reducible apply State.refillOwn_keeps
    | with_reducible apply State.setPool_keeps
    | with_reducible apply State.placeBuffer_keeps
    | split

theorem State.peak_keeps {L : Nat} {u : State} (s : State) (scope : Nat) (v : Nat) (hL : 8388608 ||| L = L) (hu : Keeps L u s) :
    Keeps L u (State.peak s scope v) := by
  unfold State.peak
  try dsimp only
  repeat' first
    | with_reducible assumption
    | exact lor_sub hL rfl
    | with_reducible apply State.setCnt_keeps

theorem State.poolErr_keeps {L : Nat} {u : State} (s : State) (code : Nat) (wh : Nat) (d0 : optParam Nat 0) (d1 : optParam Nat 0) (hL : 8388633 ||| L = L) (hu : Keeps L u s) :
    Keeps L u (State.poolErr s code wh d0 d1) := by
  unfold State.poolErr
  try dsimp only
  repeat' first
    | with_reducible assumption
    | exact lor_sub hL rfl
    | with_reducible apply State.file_keeps
    | with_reducible apply State.setErr_keeps

theorem State.poolNote_keeps {L : Nat} {u : State} (s : State) (c : Nat) (hL : 8519707 ||| L = L) (hu : Keeps L u s) :
    Keeps L u (State.poolNote s c) := by
  unfold State.poolNote
  try dsimp only
  repeat' first
    | with_reducible assumption
    | exact lor_sub hL rfl
    | with_reducible apply Keeps.ite <;> intro _
    | with_reducible apply State.wr_keeps
    | with_reducible apply State.setReg_keeps
    | with_reducible apply State.poolErr_keeps
    | with_reducible apply State.cnt_keeps
    | with_reducible apply State.devError_keeps
    | with_reducible apply State.setPool_keeps
    | split

theorem State.drawNow_keeps {L : Nat} {u : State} (s : State) (o : Nat) (c : Nat) (n : Nat) (svc : Nat) (hL : 9043995 ||| L = L) (hu : Keeps L u s) :
    Keeps L u (State.drawNow s o c n svc).1 := by
  unfold State.drawNow
  try dsimp only
  repeat' first
    | with_reducible assumption
    | exact lor_sub hL rfl
    | with_reducible apply State.drawOne_keeps
    | refine Keeps.of_fst (State.drawOne_keeps _ _ _ _ ?_ ?_) (by with_reducible assumption)
    | with_reducible apply State.wr_keeps
    | with_reducible apply State.cnt_keeps
    | with_reducible apply State.peak_keeps
    | with_reducible apply State.poolNote_keeps
    | with_reducible apply Keeps.foldl
    | with_reducible apply Keeps.foldl_fst
    | intro _ _ _

theorem State.tieWon_keeps {L : Nat} {u : State} (s : State) (o : Nat) (c : Nat) (ticket : Nat) (hL : 131072 ||| L = L) (hu : Keeps L u s) :
    Keeps L u (State.tieWon s o c ticket) := by
  unfold State.tieWon
  try dsimp only
  repeat' first
    | with_reducible assumption
    | exact lor_sub hL rfl
    | with_reducible apply Keeps.ite <;> intro _
    | with_reducible apply State.setPool_keeps
    | split

theorem State.draw_keeps {L : Nat} {u : State} (s : State) (o : Nat) (c : Nat) (n : Nat) (svc : Nat) (ticket : Nat) (fails : Bool) (hL : 9043995 ||| L = L) (hu : Keeps L u s) :
    Keeps L u (State.draw s o c n svc ticket fails).1 := by
  unfold State.draw
  try dsimp only
  repeat' first
    | with_reducible assumption
    | exact lor_sub hL rfl
    | with_reducible apply Keeps.ite <;> intro _
    | with_reducible apply State.drawNow_keeps
    | refine Keeps.of_fst (State.drawNow_keeps _ _ _ _ _ ?_ ?_) (by with_reducible assumption)
    | with_reducible apply State.tieWon_keeps
    | with_reducible apply State.poolErr_keeps
    | with_reducible apply State.cnt_keeps
    | split

theorem State.poolCfgMode_keeps {L : Nat} {u : State} (s : State) (c : Nat) (w : BitVec 32) (hL : 8388633 ||| L = L) (hu : Keeps L u s) :
    Keeps L u (State.poolCfgMode s c w) := by
  unfold State.poolCfgMode
  try dsimp only
  repeat' first
    | with_reducible assumption
    | exact lor_sub hL rfl
    | with_reducible apply Keeps.ite <;> intro _
    | with_reducible apply State.wr_keeps
    | with_reducible apply State.poolErr_keeps
    | split

theorem State.listHead_keeps {L : Nat} {u : State} (s : State) (c : Nat) (hL : 1 ||| L = L) (hu : Keeps L u s) :
    Keeps L u (State.listHead s c) := by
  unfold State.listHead
  try dsimp only
  repeat' first
    | with_reducible assumption
    | exact lor_sub hL rfl
    | with_reducible apply Keeps.ite <;> intro _
    | with_reducible apply State.wr64_keeps
    | split

theorem execPoolEnable_keeps {L : Nat} {u : State} (cls : Nat) (w : BitVec 32) (s : State) (hL : 42074139 ||| L = L) (hu : Keeps L u s) :
    KeepsO L u (execPoolEnable cls w s) := by
  unfold execPoolEnable
  try dsimp only
  repeat' first
    | with_reducible assumption
    | exact lor_sub hL rfl
    | with_reducible apply KeepsO.of_next
    | with_reducible apply KeepsO.ite <;> intro _
    | with_reducible apply Keeps.ite <;> intro _
    | with_reducible apply State.bar_keeps
    | refine (State.bar_keeps _ _ _ ?_ ?_ ?_).next _ (by with_reducible assumption)
    | with_reducible apply State.poolCfgMode_keeps
    | with_reducible apply State.setPool_keeps
    | with_reducible apply State.wr_keeps
    | with_reducible apply State.poolNote_keeps
    | with_reducible apply State.listHead_keeps
    | with_reducible apply State.poolErr_keeps
    | intro _ _
    | intro _
    | split

theorem execPoolDisable_keeps {L : Nat} {u : State} (cls : Nat) (w : BitVec 32) (s : State) (hL : 41943065 ||| L = L) (hu : Keeps L u s) :
    KeepsO L u (execPoolDisable cls w s) := by
  unfold execPoolDisable
  try dsimp only
  repeat' first
    | with_reducible assumption
    | exact lor_sub hL rfl
    | with_reducible apply KeepsO.of_next
    | with_reducible apply KeepsO.ite <;> intro _
    | with_reducible apply Keeps.ite <;> intro _
    | with_reducible apply State.bar_keeps
    | refine (State.bar_keeps _ _ _ ?_ ?_ ?_).next _ (by with_reducible assumption)
    | with_reducible apply State.wr_keeps
    | with_reducible apply State.poolCfgMode_keeps
    | intro _ _
    | intro _
    | split

theorem execPoolThreshWrite_keeps {L : Nat} {u : State} (cls : Nat) (w : BitVec 32) (s : State) (hL : 42074139 ||| L = L) (hu : Keeps L u s) :
    KeepsO L u (execPoolThreshWrite cls w s) := by
  unfold execPoolThreshWrite
  try dsimp only
  repeat' first
    | with_reducible assumption
    | exact lor_sub hL rfl
    | with_reducible apply KeepsO.of_next
    | with_reducible apply KeepsO.ite <;> intro _
    | with_reducible apply Keeps.ite <;> intro _
    | with_reducible apply State.bar_keeps
    | refine (State.bar_keeps _ _ _ ?_ ?_ ?_).next _ (by with_reducible assumption)
    | with_reducible apply State.poolNote_keeps
    | with_reducible apply State.setReg_keeps
    | with_reducible apply State.poolErr_keeps
    | intro _ _
    | intro _
    | split

theorem execPoolResWrite_keeps {L : Nat} {u : State} (owner : Nat) (cls : Nat) (w : BitVec 32) (s : State) (hL : 42074139 ||| L = L) (hu : Keeps L u s) :
    KeepsO L u (execPoolResWrite owner cls w s) := by
  unfold execPoolResWrite
  try dsimp only
  repeat' first
    | with_reducible assumption
    | exact lor_sub hL rfl
    | with_reducible apply KeepsO.of_next
    | with_reducible apply KeepsO.ite <;> intro _
    | with_reducible apply Keeps.ite <;> intro _
    | with_reducible apply State.bar_keeps
    | refine (State.bar_keeps _ _ _ ?_ ?_ ?_).next _ (by with_reducible assumption)
    | with_reducible apply State.poolNote_keeps
    | with_reducible apply State.wr_keeps
    | with_reducible apply State.poolErr_keeps
    | intro _ _
    | intro _
    | split

theorem State.poolCut_keeps {L : Nat} {u : State} (s : State) (c : Nat) (a2 : Nat) (hL : 1 ||| L = L) (hu : Keeps L u s) :
    Keeps L u (State.poolCut s c a2) := by
  induction a2 generalizing s with
  | zero =>
    unfold State.poolCut
    try dsimp only
    repeat' first
      | with_reducible assumption
      | exact lor_sub hL rfl
      | with_reducible apply Keeps.ite <;> intro _
      | with_reducible apply State.wr_keeps
      | split
  | succ _ ih =>
    unfold State.poolCut
    try dsimp only
    repeat' first
      | with_reducible assumption
      | exact lor_sub hL rfl
      | with_reducible apply Keeps.ite <;> intro _
      | with_reducible apply State.wr_keeps
      | with_reducible apply ih
      | split

theorem State.poolShrink_keeps {L : Nat} {u : State} (s : State) (c : Nat) (hL : 8388633 ||| L = L) (hu : Keeps L u s) :
    Keeps L u (State.poolShrink s c) := by
  unfold State.poolShrink
  try dsimp only
  repeat' first
    | with_reducible assumption
    | exact lor_sub hL rfl
    | with_reducible apply Keeps.ite <;> intro _
    | with_reducible apply State.poolCut_keeps
    | with_reducible apply State.poolErr_keeps
    | split

theorem State.spill_keeps {L : Nat} {u : State} (s : State) (c : Nat) (hL : 131072 ||| L = L) (hu : Keeps L u s) :
    Keeps L u (State.spill s c) := by
  unfold State.spill
  try dsimp only
  repeat' first
    | with_reducible assumption
    | exact lor_sub hL rfl
    | with_reducible apply Keeps.ite <;> intro _
    | with_reducible apply State.setPool_keeps
    | with_reducible apply Keeps.foldl
    | with_reducible apply Keeps.foldl_fst
    | intro _ _ _
    | split

theorem State.free1_keeps {L : Nat} {u : State} (s : State) (c : Nat) (i : Nat) (hL : 9043995 ||| L = L) (hu : Keeps L u s) :
    Keeps L u (State.free1 s c i) := by
  unfold State.free1
  try dsimp only
  repeat' first
    | with_reducible assumption
    | exact lor_sub hL rfl
    | with_reducible apply Keeps.ite <;> intro _
    | with_reducible apply State.devError_keeps
    | with_reducible apply State.poolErr_keeps
    | with_reducible apply State.cnt_keeps
    | with_reducible apply State.wr_keeps
    | with_reducible apply State.setPool_keeps
    | with_reducible apply State.poolShrink_keeps
    | with_reducible apply State.bump_keeps
    | with_reducible apply State.poolNote_keeps
    | with_reducible apply State.unplace_keeps
    | with_reducible apply State.listHead_keeps
    | with_reducible apply State.spill_keeps
    | with_reducible apply Keeps.foldl
    | with_reducible apply Keeps.foldl_fst
    | intro _ _ _
    | split

theorem State.freeAll_keeps {L : Nat} {u : State} (s : State) (c : Nat) (l : List Nat) (hL : 9043995 ||| L = L) (hu : Keeps L u s) :
    Keeps L u (State.freeAll s c l) := by
  unfold State.freeAll
  try dsimp only
  repeat' first
    | with_reducible assumption
    | exact lor_sub hL rfl
    | with_reducible apply State.free1_keeps
    | with_reducible apply Keeps.foldl
    | with_reducible apply Keeps.foldl_fst
    | intro _ _ _

theorem State.uncommit_keeps {L : Nat} {u : State} (s : State) (n : Nat) (hL : 1 ||| L = L) (hu : Keeps L u s) :
    Keeps L u (State.uncommit s n) := by
  unfold State.uncommit
  try dsimp only
  repeat' first
    | with_reducible assumption
    | exact lor_sub hL rfl
    | with_reducible apply State.wr_keeps

theorem State.commit_keeps {L : Nat} {u : State} (s : State) (n : Nat) (hL : 1 ||| L = L) (hu : Keeps L u s) :
    ∀ t, State.commit s n = some t → Keeps L u t := by
  intro t e
  unfold State.commit at e
  try dsimp only at e
  repeat' first
    | split at e
    | cases e
    | with_reducible assumption
    | exact lor_sub hL rfl
    | with_reducible apply Keeps.ite <;> intro _
    | with_reducible apply State.wr_keeps
    | split

theorem execPoolDraw_keeps {L : Nat} {u : State} (owner : Nat) (cls : Nat) (n : Nat) (svc : Nat) (ticket : Nat) (s : State) (hL : 9043995 ||| L = L) (hu : Keeps L u s) :
    KeepsO L u (execPoolDraw owner cls n svc ticket s) := by
  unfold execPoolDraw
  try dsimp only
  repeat' first
    | with_reducible assumption
    | exact lor_sub hL rfl
    | with_reducible apply KeepsO.of_next
    | with_reducible apply KeepsO.ite <;> intro _
    | with_reducible apply Keeps.ite <;> intro _
    | with_reducible apply State.draw_keeps
    | refine Keeps.of_fst (State.draw_keeps _ _ _ _ _ _ _ ?_ ?_) (by with_reducible assumption)
    | with_reducible apply State.setPool_keeps
    | with_reducible apply State.poolNote_keeps
    | with_reducible apply State.cnt_keeps
    | split

theorem execStalledDrawGrant_keeps {L : Nat} {u : State} (cls : Nat) (s : State) (hL : 9043995 ||| L = L) (hu : Keeps L u s) :
    KeepsO L u (execStalledDrawGrant cls s) := by
  unfold execStalledDrawGrant
  try dsimp only
  repeat' first
    | with_reducible assumption
    | exact lor_sub hL rfl
    | with_reducible apply KeepsO.of_next
    | with_reducible apply KeepsO.ite <;> intro _
    | with_reducible apply Keeps.ite <;> intro _
    | with_reducible apply State.tieWon_keeps
    | with_reducible apply State.setPool_keeps
    | with_reducible apply State.drawNow_keeps
    | refine Keeps.of_fst (State.drawNow_keeps _ _ _ _ _ ?_ ?_) (by with_reducible assumption)
    | split

theorem execPoolFree_keeps {L : Nat} {u : State} (cls : Nat) (index : Nat) (s : State) (hL : 9043995 ||| L = L) (hu : Keeps L u s) :
    KeepsO L u (execPoolFree cls index s) := by
  unfold execPoolFree
  try dsimp only
  repeat' first
    | with_reducible assumption
    | exact lor_sub hL rfl
    | with_reducible apply KeepsO.of_next
    | with_reducible apply State.free1_keeps

theorem State.refillLinks_keeps {L : Nat} {u : State} (c : Nat) (a1 : State) (a2 : List Nat) (hL : 8519707 ||| L = L) (hu : Keeps L u a1) :
    Keeps L u (State.refillLinks c a1 a2) := by
  induction a2 generalizing a1 with
  | nil =>
    unfold State.refillLinks
    try dsimp only
    repeat' first
      | with_reducible assumption
      | exact lor_sub hL rfl
      | with_reducible apply Keeps.ite <;> intro _
      | with_reducible apply State.setPool_keeps
      | with_reducible apply State.devError_keeps
      | with_reducible apply State.poolErr_keeps
      | with_reducible apply State.wr_keeps
      | split
  | cons _ _ ih =>
    unfold State.refillLinks
    try dsimp only
    repeat' first
      | with_reducible assumption
      | exact lor_sub hL rfl
      | with_reducible apply Keeps.ite <;> intro _
      | with_reducible apply State.setPool_keeps
      | with_reducible apply State.devError_keeps
      | with_reducible apply State.poolErr_keeps
      | with_reducible apply State.wr_keeps
      | with_reducible apply ih
      | split

theorem State.refillIndex_keeps {L : Nat} {u : State} (c : Nat) (s : State) (v : Nat) (hL : 8519707 ||| L = L) (hu : Keeps L u s) :
    Keeps L u (State.refillIndex c s v) := by
  unfold State.refillIndex
  try dsimp only
  repeat' first
    | with_reducible assumption
    | exact lor_sub hL rfl
    | with_reducible apply Keeps.ite <;> intro _
    | with_reducible apply State.setPool_keeps
    | with_reducible apply State.devError_keeps
    | with_reducible apply State.poolErr_keeps
    | with_reducible apply State.wr_keeps
    | split

theorem execPoolRefill_keeps {L : Nat} {u : State} (cls : Nat) (values : List Nat) (s : State) (hL : 8519707 ||| L = L) (hu : Keeps L u s) :
    KeepsO L u (execPoolRefill cls values s) := by
  unfold execPoolRefill
  try dsimp only
  repeat' first
    | with_reducible assumption
    | exact lor_sub hL rfl
    | with_reducible apply KeepsO.of_next
    | with_reducible apply KeepsO.ite <;> intro _
    | with_reducible apply Keeps.ite <;> intro _
    | with_reducible apply State.setPool_keeps
    | with_reducible apply State.refillLinks_keeps
    | with_reducible apply State.refillIndex_keeps
    | with_reducible apply State.poolNote_keeps
    | with_reducible apply State.listHead_keeps
    | with_reducible apply Keeps.foldl
    | with_reducible apply Keeps.foldl_fst
    | intro _ _ _
    | split

theorem execPoolLehrEnd_keeps {L : Nat} {u : State} (cls : Nat) (s : State) (hL : 8519707 ||| L = L) (hu : Keeps L u s) :
    KeepsO L u (execPoolLehrEnd cls s) := by
  unfold execPoolLehrEnd
  try dsimp only
  repeat' first
    | with_reducible assumption
    | exact lor_sub hL rfl
    | with_reducible apply KeepsO.of_next
    | with_reducible apply KeepsO.ite <;> intro _
    | with_reducible apply Keeps.ite <;> intro _
    | with_reducible apply State.wr_keeps
    | with_reducible apply State.poolNote_keeps
    | with_reducible apply State.setPool_keeps
    | with_reducible apply Keeps.foldl
    | with_reducible apply Keeps.foldl_fst
    | intro _ _ _
    | split

end Sys2Proof.Machine
end

