-- ==== Sys2Proof/Laws/KeepRing.lean ====
section
/-! SUPPORT. Every operation of Machine/Ring.lean keeps what `Keeps` says. -/

set_option Elab.async false

namespace Sys2Proof.Machine

theorem State.setPortSt_keeps {L : Nat} {u : State} (s : State) (p : Nat) (v : Nat) (hL : 1 ||| L = L) (hu : Keeps L u s) :
    Keeps L u (State.setPortSt s p v) := by
  unfold State.setPortSt
  try dsimp only
  repeat' first
    | with_reducible assumption
    | exact lor_sub hL rfl
    | with_reducible apply State.wr_keeps

theorem State.setLport_keeps {L : Nat} {u : State} (s : State) (p : Nat) (x : LnkPort) (hL : 1048576 ||| L = L) (hu : Keeps L u s) :
    Keeps L u (State.setLport s p x) := by
  unfold State.setLport
  try dsimp only
  repeat' first
    | with_reducible assumption
    | refine Keeps.upd hL ?_

theorem State.txFlits_keeps {L : Nat} {u : State} (s : State) (p : Nat) (n : Nat) (hL : 1 ||| L = L) (hu : Keeps L u s) :
    Keeps L u (State.txFlits s p n) := by
  unfold State.txFlits
  try dsimp only
  repeat' first
    | with_reducible assumption
    | exact lor_sub hL rfl
    | with_reducible apply State.wr64_keeps

theorem State.drainPort_keeps {L : Nat} {u : State} (s : State) (p : Nat) (hL : 1048577 ||| L = L) (hu : Keeps L u s) :
    Keeps L u (State.drainPort s p) := by
  unfold State.drainPort
  try dsimp only
  repeat' first
    | with_reducible assumption
    | exact lor_sub hL rfl
    | with_reducible apply State.setLport_keeps
    | with_reducible apply State.wr_keeps
    | with_reducible apply State.txFlits_keeps

theorem State.sendFlits_keeps {L : Nat} {u : State} (s : State) (p : Nat) (halyard : Nat) (n : Nat) (hL : 1048577 ||| L = L) (hu : Keeps L u s) :
    Keeps L u (State.sendFlits s p halyard n) := by
  unfold State.sendFlits
  try dsimp only
  repeat' first
    | with_reducible assumption
    | exact lor_sub hL rfl
    | with_reducible apply State.drainPort_keeps
    | with_reducible apply State.setLport_keeps
    | split

theorem State.answerTile_keeps {L : Nat} {u : State} (s : State) (dev : Nat) (tile : Nat) (o : Out) (hL : 34603009 ||| L = L) (hu : Keeps L u s) :
    Keeps L u (State.answerTile s dev tile o) := by
  unfold State.answerTile
  try dsimp only
  repeat' first
    | with_reducible assumption
    | exact lor_sub hL rfl
    | with_reducible apply State.sendFlits_keeps
    | with_reducible apply State.post_keeps
    | split

end Sys2Proof.Machine
end

