-- ==== Sys2Proof/Laws/KeepJob.lean ====
section
/-! SUPPORT. Every operation of Machine/Job.lean keeps what `Keeps` says. -/

set_option Elab.async false

namespace Sys2Proof.Machine

theorem State.updJob_keeps {L : Nat} {u : State} (s : State) (id : Nat) (f : Job → Job) (hL : 8192 ||| L = L) (hu : Keeps L u s) :
    Keeps L u (State.updJob s id f) := by
  unfold State.updJob
  try dsimp only
  repeat' first
    | with_reducible assumption
    | refine Keeps.upd hL ?_

theorem State.updNode_keeps {L : Nat} {u : State} (s : State) (id : Nat) (n : Nat) (f : NodeSt → NodeSt) (hL : 8192 ||| L = L) (hu : Keeps L u s) :
    Keeps L u (State.updNode s id n f) := by
  unfold State.updNode
  try dsimp only
  repeat' first
    | with_reducible assumption
    | exact lor_sub hL rfl
    | with_reducible apply State.updJob_keeps

theorem State.sbNote_keeps {L : Nat} {u : State} (s : State) (k : Nat) (hL : 1 ||| L = L) (hu : Keeps L u s) :
    Keeps L u (State.sbNote s k) := by
  unfold State.sbNote
  try dsimp only
  repeat' first
    | with_reducible assumption
    | exact lor_sub hL rfl
    | with_reducible apply State.wr_keeps

theorem State.setStationBuf_keeps {L : Nat} {u : State} (s : State) (k : Nat) (b : StationBuf) (hL : 262144 ||| L = L) (hu : Keeps L u s) :
    Keeps L u (State.setStationBuf s k b) := by
  unfold State.setStationBuf
  try dsimp only
  repeat' first
    | with_reducible assumption
    | refine Keeps.upd hL ?_

theorem State.dropTiles_keeps {L : Nat} {u : State} (s : State) (id : Nat) (hL : 9142299 ||| L = L) (hu : Keeps L u s) :
    Keeps L u (State.dropTiles s id) := by
  unfold State.dropTiles
  try dsimp only
  repeat' first
    | with_reducible assumption
    | exact lor_sub hL rfl
    | with_reducible apply State.free1_keeps
    | with_reducible apply Keeps.foldl
    | with_reducible apply Keeps.foldl_fst
    | intro _ _ _
    | split
    | refine Keeps.upd hL ?_

theorem State.sendErr_keeps {L : Nat} {u : State} (s : State) (j : Job) (p : Pn) (hL : 3 ||| L = L) (hu : Keeps L u s) :
    Keeps L u (State.sendErr s j p) := by
  unfold State.sendErr
  try dsimp only
  repeat' first
    | with_reducible assumption
    | exact lor_sub hL rfl
    | with_reducible apply State.sendTo_keeps
    | with_reducible apply State.sendSvc_keeps
    | split

theorem State.releaseTile_keeps {L : Nat} {u : State} (s : State) (h : HeldTile) (hL : 43647003 ||| L = L) (hu : Keeps L u s) :
    Keeps L u (State.releaseTile s h) := by
  unfold State.releaseTile
  try dsimp only
  repeat' first
    | with_reducible assumption
    | exact lor_sub hL rfl
    | with_reducible apply State.answerTile_keeps
    | with_reducible apply State.freeAll_keeps
    | refine Keeps.upd hL ?_

theorem State.lnkEnd_keeps {L : Nat} {u : State} (s : State) (j : Job) (hL : 43647003 ||| L = L) (hu : Keeps L u s) :
    Keeps L u (State.lnkEnd s j) := by
  unfold State.lnkEnd
  try dsimp only
  repeat' first
    | with_reducible assumption
    | exact lor_sub hL rfl
    | with_reducible apply Keeps.ite <;> intro _
    | with_reducible apply State.releaseTile_keeps
    | with_reducible apply Keeps.foldl
    | with_reducible apply Keeps.foldl_fst
    | intro _ _ _
    | split
    | refine Keeps.upd hL ?_

theorem State.unpinIf_keeps {L : Nat} {u : State} (s : State) (p : PinFor → Bool) (hL : 262145 ||| L = L) (hu : Keeps L u s) :
    Keeps L u (State.unpinIf s p) := by
  unfold State.unpinIf
  try dsimp only
  repeat' first
    | with_reducible assumption
    | exact lor_sub hL rfl
    | with_reducible apply Keeps.ite <;> intro _
    | with_reducible apply State.sbNote_keeps
    | with_reducible apply State.setStationBuf_keeps
    | with_reducible apply Keeps.foldl
    | with_reducible apply Keeps.foldl_fst
    | intro _ _ _
    | split

theorem State.unpin_keeps {L : Nat} {u : State} (s : State) (id : Nat) (hL : 262145 ||| L = L) (hu : Keeps L u s) :
    Keeps L u (State.unpin s id) := by
  unfold State.unpin
  try dsimp only
  repeat' first
    | with_reducible assumption
    | exact lor_sub hL rfl
    | with_reducible apply State.unpinIf_keeps

theorem State.retirePlans_keeps {L : Nat} {u : State} (s : State) (hL : 9109531 ||| L = L) (hu : Keeps L u s) :
    Keeps L u (State.retirePlans s) := by
  unfold State.retirePlans
  try dsimp only
  repeat' first
    | with_reducible assumption
    | exact lor_sub hL rfl
    | with_reducible apply State.freeAll_keeps
    | with_reducible apply Keeps.foldl
    | with_reducible apply Keeps.foldl_fst
    | intro _ _ _
    | refine Keeps.upd hL ?_

theorem State.retire_keeps {L : Nat} {u : State} (s : State) (j : Job) (early : Bool) (hL : 9117723 ||| L = L) (hu : Keeps L u s) :
    Keeps L u (State.retire s j early) := by
  unfold State.retire
  try dsimp only
  repeat' first
    | with_reducible assumption
    | exact lor_sub hL rfl
    | with_reducible apply Keeps.ite <;> intro _
    | with_reducible apply State.updJob_keeps
    | with_reducible apply State.retirePlans_keeps
    | split
    | refine Keeps.upd hL ?_

theorem State.freePlan_keeps {L : Nat} {u : State} (s : State) (j : Job) (hL : 9117723 ||| L = L) (hu : Keeps L u s) :
    Keeps L u (State.freePlan s j) := by
  unfold State.freePlan
  try dsimp only
  repeat' first
    | with_reducible assumption
    | exact lor_sub hL rfl
    | with_reducible apply State.retire_keeps

theorem State.freeBatch_keeps {L : Nat} {u : State} (s : State) (b : Batch) (hL : 9306139 ||| L = L) (hu : Keeps L u s) :
    Keeps L u (State.freeBatch s b) := by
  unfold State.freeBatch
  try dsimp only
  repeat' first
    | with_reducible assumption
    | exact lor_sub hL rfl
    | with_reducible apply State.unpinIf_keeps
    | with_reducible apply State.freeAll_keeps
    | split

theorem State.pruneBatches_keeps {L : Nat} {u : State} (s : State) (hL : 9306651 ||| L = L) (hu : Keeps L u s) :
    Keeps L u (State.pruneBatches s) := by
  unfold State.pruneBatches
  try dsimp only
  repeat' first
    | with_reducible assumption
    | exact lor_sub hL rfl
    | with_reducible apply State.freeBatch_keeps
    | with_reducible apply Keeps.foldl
    | with_reducible apply Keeps.foldl_fst
    | intro _ _ _
    | refine Keeps.upd hL ?_

theorem State.settleCks_keeps {L : Nat} {u : State} (s : State) (st : Nat) (a2 : List Ckpt) (hL : 9044059 ||| L = L) (hu : Keeps L u s) :
    Keeps L u (State.settleCks s st a2) := by
  induction a2 generalizing s with
  | nil =>
    unfold State.settleCks
    try dsimp only
    repeat' first
      | with_reducible assumption
      | exact lor_sub hL rfl
      | with_reducible apply Keeps.ite <;> intro _
      | with_reducible apply State.draw_keeps
      | refine Keeps.of_fst (State.draw_keeps _ _ _ _ _ _ _ ?_ ?_) (by with_reducible assumption)
      | with_reducible apply State.free1_keeps
      | with_reducible apply State.setStream_keeps
      | split
  | cons _ _ ih =>
    unfold State.settleCks
    try dsimp only
    repeat' first
      | with_reducible assumption
      | exact lor_sub hL rfl
      | with_reducible apply Keeps.ite <;> intro _
      | with_reducible apply State.draw_keeps
      | refine Keeps.of_fst (State.draw_keeps _ _ _ _ _ _ _ ?_ ?_) (by with_reducible assumption)
      | with_reducible apply State.free1_keeps
      | with_reducible apply State.setStream_keeps
      | with_reducible apply ih
      | split

theorem State.settle_keeps {L : Nat} {u : State} (s : State) (st : Nat) (hL : 9044059 ||| L = L) (hu : Keeps L u s) :
    Keeps L u (State.settle s st) := by
  unfold State.settle
  try dsimp only
  repeat' first
    | with_reducible assumption
    | exact lor_sub hL rfl
    | with_reducible apply State.settleCks_keeps

theorem State.dropRows_keeps {L : Nat} {u : State} (s : State) (st : Nat) (n : Nat) (hL : 262145 ||| L = L) (hu : Keeps L u s) :
    Keeps L u (State.dropRows s st n) := by
  unfold State.dropRows
  try dsimp only
  repeat' first
    | with_reducible assumption
    | exact lor_sub hL rfl
    | with_reducible apply State.unpinIf_keeps
    | split

theorem State.dropPic_keeps {L : Nat} {u : State} (s : State) (st : Nat) (n : Nat) (hL : 9306267 ||| L = L) (hu : Keeps L u s) :
    Keeps L u (State.dropPic s st n) := by
  unfold State.dropPic
  try dsimp only
  repeat' first
    | with_reducible assumption
    | exact lor_sub hL rfl
    | with_reducible apply State.dropRows_keeps
    | with_reducible apply State.freeAll_keeps
    | with_reducible apply Keeps.foldl
    | with_reducible apply Keeps.foldl_fst
    | intro _ _ _
    | split
    | refine Keeps.upd hL ?_

theorem State.endJob_keeps {L : Nat} {u : State} (s : State) (j : Job) (hL : 43983583 ||| L = L) (hu : Keeps L u s) :
    Keeps L u (State.endJob s j) := by
  unfold State.endJob
  try dsimp only
  repeat' first
    | with_reducible assumption
    | exact lor_sub hL rfl
    | with_reducible apply Keeps.ite <;> intro _
    | with_reducible apply State.lnkEnd_keeps
    | with_reducible apply State.unpin_keeps
    | with_reducible apply State.freeAll_keeps
    | with_reducible apply State.freePlan_keeps
    | with_reducible apply State.done_keeps
    | with_reducible apply State.pruneBatches_keeps
    | with_reducible apply State.settle_keeps
    | with_reducible apply State.dropPic_keeps
    | with_reducible apply Keeps.foldl
    | with_reducible apply Keeps.foldl_fst
    | intro _ _ _
    | split
    | refine Keeps.upd hL ?_

theorem State.adaptFail_keeps {L : Nat} {u : State} (s : State) (j : Job) (hL : 2048 ||| L = L) (hu : Keeps L u s) :
    Keeps L u (State.adaptFail s j) := by
  unfold State.adaptFail
  try dsimp only
  repeat' first
    | with_reducible assumption
    | exact lor_sub hL rfl
    | with_reducible apply State.setProg_keeps
    | split

theorem State.faultJob_keeps {L : Nat} {u : State} (s : State) (j : Job) (node : Nat) (code : Nat) (d0 : Nat) (d1 : Nat) (hL : 44019423 ||| L = L) (hu : Keeps L u s) :
    Keeps L u (State.faultJob s j node code d0 d1) := by
  unfold State.faultJob
  try dsimp only
  repeat' first
    | with_reducible assumption
    | exact lor_sub hL rfl
    | with_reducible apply Keeps.ite <;> intro _
    | with_reducible apply State.dropTiles_keeps
    | with_reducible apply State.file_keeps
    | with_reducible apply State.sendErr_keeps
    | with_reducible apply State.hoist_keeps
    | with_reducible apply State.endJob_keeps
    | with_reducible apply State.adaptFail_keeps
    | split
    | refine Keeps.upd hL ?_

theorem State.gapBefore_keeps {L : Nat} {u : State} (s : State) (st : Nat) (prog : Nat) (route : Nat) (n : Nat) (hL : 2 ||| L = L) (hu : Keeps L u s) :
    Keeps L u (State.gapBefore s st prog route n) := by
  unfold State.gapBefore
  try dsimp only
  repeat' first
    | with_reducible assumption
    | with_reducible apply Keeps.foldl
    | with_reducible apply Keeps.foldl_fst
    | intro _ _ _
    | refine Keeps.upd hL ?_

theorem State.markGap_keeps {L : Nat} {u : State} (s : State) (st : Nat) (prog : Nat) (route : Nat) (n : Nat) (hL : 2 ||| L = L) (hu : Keeps L u s) :
    Keeps L u (State.markGap s st prog route n) := by
  unfold State.markGap
  try dsimp only
  repeat' first
    | with_reducible assumption
    | exact lor_sub hL rfl
    | with_reducible apply State.gapBefore_keeps

theorem State.dropKept_keeps {L : Nat} {u : State} (s : State) (st : Nat) (hL : 9044507 ||| L = L) (hu : Keeps L u s) :
    Keeps L u (State.dropKept s st) := by
  unfold State.dropKept
  try dsimp only
  repeat' first
    | with_reducible assumption
    | exact lor_sub hL rfl
    | with_reducible apply State.freeAll_keeps
    | with_reducible apply Keeps.foldl
    | with_reducible apply Keeps.foldl_fst
    | intro _ _ _
    | refine Keeps.upd hL ?_

theorem State.addJob_keeps {L : Nat} {u : State} (s : State) (j : Job) (hL : 24576 ||| L = L) (hu : Keeps L u s) :
    Keeps L u (State.addJob s j) := by
  unfold State.addJob
  try dsimp only
  repeat' first
    | with_reducible assumption
    | refine Keeps.upd hL ?_

theorem State.decErr_keeps {L : Nat} {u : State} (s : State) (st : Nat) (code : Nat) (d0 : optParam Nat 0) (d1 : optParam Nat 0) (hL : 8388633 ||| L = L) (hu : Keeps L u s) :
    Keeps L u (State.decErr s st code d0 d1) := by
  unfold State.decErr
  try dsimp only
  repeat' first
    | with_reducible assumption
    | exact lor_sub hL rfl
    | with_reducible apply State.setErr_keeps
    | with_reducible apply State.file_keeps

theorem State.adaptEnd_keeps {L : Nat} {u : State} (s : State) (j : Job) (hL : 65536 ||| L = L) (hu : Keeps L u s) :
    Keeps L u (State.adaptEnd s j) := by
  unfold State.adaptEnd
  try dsimp only
  repeat' first
    | with_reducible assumption
    | split
    | refine Keeps.upd hL ?_

theorem State.tryEnd_keeps {L : Nat} {u : State} (s : State) (id : Nat) (hL : 43983583 ||| L = L) (hu : Keeps L u s) :
    Keeps L u (State.tryEnd s id) := by
  unfold State.tryEnd
  try dsimp only
  repeat' first
    | with_reducible assumption
    | exact lor_sub hL rfl
    | with_reducible apply Keeps.ite <;> intro _
    | with_reducible apply State.endJob_keeps
    | with_reducible apply State.updJob_keeps
    | with_reducible apply State.adaptEnd_keeps
    | split

theorem State.seatNodes_keeps {L : Nat} {u : State} (s : State) (id : Nat) (hL : 8192 ||| L = L) (hu : Keeps L u s) :
    Keeps L u (State.seatNodes s id) := by
  unfold State.seatNodes
  try dsimp only
  repeat' first
    | with_reducible assumption
    | exact lor_sub hL rfl
    | with_reducible apply Keeps.ite <;> intro _
    | with_reducible apply State.updNode_keeps
    | with_reducible apply Keeps.foldl
    | with_reducible apply Keeps.foldl_fst
    | intro _ _ _
    | split

theorem State.releasePlan_keeps {L : Nat} {u : State} (s : State) (id : Nat) (hL : 9117723 ||| L = L) (hu : Keeps L u s) :
    Keeps L u (State.releasePlan s id) := by
  unfold State.releasePlan
  try dsimp only
  repeat' first
    | with_reducible assumption
    | exact lor_sub hL rfl
    | with_reducible apply Keeps.ite <;> intro _
    | with_reducible apply State.retire_keeps
    | split

theorem State.releaseWhole_keeps {L : Nat} {u : State} (s : State) (id : Nat) (hL : 43647003 ||| L = L) (hu : Keeps L u s) :
    Keeps L u (State.releaseWhole s id) := by
  unfold State.releaseWhole
  try dsimp only
  repeat' first
    | with_reducible assumption
    | exact lor_sub hL rfl
    | with_reducible apply Keeps.ite <;> intro _
    | with_reducible apply State.releaseTile_keeps
    | with_reducible apply Keeps.foldl
    | with_reducible apply Keeps.foldl_fst
    | intro _ _ _
    | split

theorem State.releasePic_keeps {L : Nat} {u : State} (s : State) (id : Nat) (hL : 9044123 ||| L = L) (hu : Keeps L u s) :
    Keeps L u (State.releasePic s id) := by
  unfold State.releasePic
  try dsimp only
  repeat' first
    | with_reducible assumption
    | exact lor_sub hL rfl
    | with_reducible apply Keeps.ite <;> intro _
    | with_reducible apply State.freeAll_keeps
    | with_reducible apply Keeps.foldl
    | with_reducible apply Keeps.foldl_fst
    | intro _ _ _
    | split
    | refine Keeps.upd hL ?_

theorem State.commitNode_keeps {L : Nat} {u : State} (s : State) (id : Nat) (n : Nat) (out : NodeOut) (hL : 43983583 ||| L = L) (hu : Keeps L u s) :
    Keeps L u (State.commitNode s id n out) := by
  unfold State.commitNode
  try dsimp only
  repeat' first
    | with_reducible assumption
    | exact lor_sub hL rfl
    | with_reducible apply Keeps.ite <;> intro _
    | with_reducible apply State.tryEnd_keeps
    | with_reducible apply State.seatNodes_keeps
    | with_reducible apply State.releasePlan_keeps
    | with_reducible apply State.releaseWhole_keeps
    | with_reducible apply State.releasePic_keeps
    | with_reducible apply State.updNode_keeps
    | split

theorem State.applySwap_keeps {L : Nat} {u : State} (s : State) (i : Nat) (hL : 75776 ||| L = L) (hu : Keeps L u s) :
    Keeps L u (State.applySwap s i) := by
  unfold State.applySwap
  try dsimp only
  repeat' first
    | with_reducible assumption
    | exact lor_sub hL rfl
    | with_reducible apply Keeps.ite <;> intro _
    | with_reducible apply State.setProg_keeps
    | with_reducible apply Keeps.foldl
    | with_reducible apply Keeps.foldl_fst
    | intro _ _ _
    | split
    | refine Keeps.upd hL ?_

theorem State.pin_keeps {L : Nat} {u : State} (s : State) (cluster : Nat) (svc : Nat) (bytes : Nat) (h : PinFor) (hL : 262145 ||| L = L) (hu : Keeps L u s) :
    ∀ t, State.pin s cluster svc bytes h = some t → Keeps L u t := by
  intro t e
  unfold State.pin at e
  try dsimp only at e
  repeat' first
    | split at e
    | cases e
    | with_reducible assumption
    | exact lor_sub hL rfl
    | with_reducible apply Keeps.ite <;> intro _
    | with_reducible apply State.sbNote_keeps
    | with_reducible apply State.setStationBuf_keeps
    | split

theorem State.poisonJob_keeps {L : Nat} {u : State} (s : State) (j : Job) (line : Nat) (hL : 44019423 ||| L = L) (hu : Keeps L u s) :
    Keeps L u (State.poisonJob s j line) := by
  unfold State.poisonJob
  try dsimp only
  repeat' first
    | with_reducible assumption
    | exact lor_sub hL rfl
    | with_reducible apply State.faultJob_keeps

end Sys2Proof.Machine
end

