-- ==== Sys2Proof/Laws/KeepShp.lean ====
section
/-! SUPPORT. Every operation of Machine/Shp.lean keeps what `Keeps` says. -/

set_option Elab.async false

namespace Sys2Proof.Machine

theorem State.shpNote_keeps {L : Nat} {u : State} (s : State) (e : Nat) (hL : 1 ||| L = L) (hu : Keeps L u s) :
    Keeps L u (State.shpNote s e) := by
  unfold State.shpNote
  try dsimp only
  repeat' first
    | with_reducible assumption
    | exact lor_sub hL rfl
    | with_reducible apply Keeps.ite <;> intro _
    | with_reducible apply State.wr_keeps
    | with_reducible apply Keeps.foldl
    | with_reducible apply Keeps.foldl_fst
    | intro _ _ _
    | split

theorem execTestStandin_keeps {L : Nat} {u : State} (shaper : Nat) (s : State) (hL : 33554433 ||| L = L) (hu : Keeps L u s) :
    KeepsO L u (execTestStandin shaper s) := by
  unfold execTestStandin
  try dsimp only
  repeat' first
    | with_reducible assumption
    | exact lor_sub hL rfl
    | with_reducible apply KeepsO.of_next
    | with_reducible apply State.bar_keeps
    | refine (State.bar_keeps _ _ _ ?_ ?_ ?_).next _ (by with_reducible assumption)
    | with_reducible apply State.wr_keeps
    | intro _ _
    | intro _

theorem State.updBatches_keeps {L : Nat} {u : State} (s : State) (p : Batch → Bool) (f : Batch → Batch) (hL : 512 ||| L = L) (hu : Keeps L u s) :
    Keeps L u (State.updBatches s p f) := by
  unfold State.updBatches
  try dsimp only
  repeat' first
    | with_reducible assumption
    | with_reducible apply Keeps.ite <;> intro _
    | split
    | refine Keeps.upd hL ?_

theorem State.closeBatches_keeps {L : Nat} {u : State} (s : State) (p : Batch → Bool) (cause : Nat) (hL : 512 ||| L = L) (hu : Keeps L u s) :
    Keeps L u (State.closeBatches s p cause) := by
  unfold State.closeBatches
  try dsimp only
  repeat' first
    | with_reducible assumption
    | exact lor_sub hL rfl
    | with_reducible apply State.updBatches_keeps

theorem execFlush_keeps {L : Nat} {u : State} (shaper : Nat) (s : State) (hL : 33554945 ||| L = L) (hu : Keeps L u s) :
    KeepsO L u (execFlush shaper s) := by
  unfold execFlush
  try dsimp only
  repeat' first
    | with_reducible assumption
    | exact lor_sub hL rfl
    | with_reducible apply KeepsO.of_next
    | with_reducible apply State.bar_keeps
    | refine (State.bar_keeps _ _ _ ?_ ?_ ?_).next _ (by with_reducible assumption)
    | with_reducible apply State.shpNote_keeps
    | with_reducible apply State.closeBatches_keeps
    | intro _ _
    | intro _

theorem State.closeStream_keeps {L : Nat} {u : State} (s : State) (st : Nat) (hL : 513 ||| L = L) (hu : Keeps L u s) :
    Keeps L u (State.closeStream s st) := by
  unfold State.closeStream
  try dsimp only
  repeat' first
    | with_reducible assumption
    | exact lor_sub hL rfl
    | with_reducible apply State.closeBatches_keeps
    | with_reducible apply State.shpNote_keeps
    | with_reducible apply Keeps.foldl
    | with_reducible apply Keeps.foldl_fst
    | intro _ _ _

theorem State.standIn_keeps {L : Nat} {u : State} (s : State) (e : Nat) (k : NodeKey) (keep : Bool) (d : Nat) (x : Sample) (hL : 8388609 ||| L = L) (hu : Keeps L u s) :
    Keeps L u (State.standIn s e k keep d x).1 := by
  unfold State.standIn
  try dsimp only
  repeat' first
    | with_reducible assumption
    | exact lor_sub hL rfl
    | with_reducible apply Keeps.ite <;> intro _
    | with_reducible apply State.bump_keeps
    | with_reducible apply State.cnt_keeps
    | split

theorem State.updSamples_keeps {L : Nat} {u : State} (s : State) (k : NodeKey) (p : Sample → Bool) (f : Sample → Sample) (hL : 512 ||| L = L) (hu : Keeps L u s) :
    Keeps L u (State.updSamples s k p f) := by
  unfold State.updSamples
  try dsimp only
  repeat' first
    | with_reducible assumption
    | exact lor_sub hL rfl
    | with_reducible apply Keeps.ite <;> intro _
    | with_reducible apply State.updBatches_keeps
    | split

theorem State.numCount_keeps {L : Nat} {u : State} (s : State) (scope : Nat) (c : NumCnt) (hL : 8388608 ||| L = L) (hu : Keeps L u s) :
    Keeps L u (State.numCount s scope c) := by
  unfold State.numCount
  try dsimp only
  repeat' first
    | with_reducible assumption
    | exact lor_sub hL rfl
    | with_reducible apply Keeps.ite <;> intro _
    | with_reducible apply State.cnt_keeps
    | with_reducible apply Keeps.foldl
    | with_reducible apply Keeps.foldl_fst
    | intro _ _ _
    | split

theorem State.rowRoom_keeps {L : Nat} {u : State} (s : State) (e : Nat) (ok : Bool) (hL : 513 ||| L = L) (hu : Keeps L u s) :
    Keeps L u (State.rowRoom s e ok) := by
  unfold State.rowRoom
  try dsimp only
  repeat' first
    | with_reducible assumption
    | exact lor_sub hL rfl
    | with_reducible apply Keeps.ite <;> intro _
    | with_reducible apply State.shpNote_keeps
    | with_reducible apply State.bump_keeps
    | split
    | refine Keeps.upd hL ?_

theorem State.shapeOn_keeps {L : Nat} {u : State} (s : State) (j : Job) (node : Nat) (w : Nat) (p : Pic) (x : Sample) (hL : 8651265 ||| L = L) (hu : Keeps L u s) :
    Keeps L u (State.shapeOn s j node w p x) := by
  unfold State.shapeOn
  try dsimp only
  repeat' first
    | with_reducible assumption
    | exact lor_sub hL rfl
    | with_reducible apply Keeps.ite <;> intro _
    | with_reducible apply State.updSamples_keeps
    | with_reducible apply State.numCount_keeps
    | with_reducible apply State.unpinIf_keeps
    | with_reducible apply State.rowRoom_keeps
    | refine State.pin_keeps _ _ _ _ _ ?_ ?_ _ (by with_reducible assumption)
    | with_reducible apply Keeps.foldl
    | with_reducible apply Keeps.foldl_fst
    | intro _ _ _
    | split

theorem State.fillShape_keeps {L : Nat} {u : State} (s : State) (j : Job) (node : Nat) (w : Nat) (hL : 8651265 ||| L = L) (hu : Keeps L u s) :
    Keeps L u (State.fillShape s j node w) := by
  unfold State.fillShape
  try dsimp only
  repeat' first
    | with_reducible assumption
    | exact lor_sub hL rfl
    | with_reducible apply Keeps.ite <;> intro _
    | with_reducible apply State.standIn_keeps
    | refine Keeps.of_fst (State.standIn_keeps _ _ _ _ _ _ ?_ ?_) (by with_reducible assumption)
    | with_reducible apply State.unpinIf_keeps
    | with_reducible apply State.updSamples_keeps
    | with_reducible apply State.shapeOn_keeps
    | split

theorem State.streamRows_keeps {L : Nat} {u : State} (s : State) (p : Pic) (hL : 8651265 ||| L = L) (hu : Keeps L u s) :
    Keeps L u (State.streamRows s p) := by
  unfold State.streamRows
  try dsimp only
  repeat' first
    | with_reducible assumption
    | exact lor_sub hL rfl
    | with_reducible apply Keeps.ite <;> intro _
    | with_reducible apply State.fillShape_keeps
    | with_reducible apply Keeps.foldl
    | with_reducible apply Keeps.foldl_fst
    | intro _ _ _
    | split

theorem State.countRow_keeps {L : Nat} {u : State} (s : State) (st : Nat) (failed : Nat) (resync : Nat) (hL : 8388633 ||| L = L) (hu : Keeps L u s) :
    Keeps L u (State.countRow s st failed resync) := by
  unfold State.countRow
  try dsimp only
  repeat' first
    | with_reducible assumption
    | exact lor_sub hL rfl
    | with_reducible apply Keeps.ite <;> intro _
    | with_reducible apply State.cnt_keeps
    | with_reducible apply State.decErr_keeps
    | with_reducible apply State.bump_keeps
    | split

theorem execDecBlockRowDone_keeps {L : Nat} {u : State} (engine : Nat) (cells : List RawCell) (rows : Planes) (failed : Nat) (resync : Nat) (misses : Nat) (s : State) (hL : 8651417 ||| L = L) (hu : Keeps L u s) :
    KeepsO L u (execDecBlockRowDone engine cells rows failed resync misses s) := by
  unfold execDecBlockRowDone
  try dsimp only
  repeat' first
    | with_reducible assumption
    | exact lor_sub hL rfl
    | with_reducible apply KeepsO.of_next
    | with_reducible apply KeepsO.ite <;> intro _
    | with_reducible apply Keeps.ite <;> intro _
    | with_reducible apply State.streamRows_keeps
    | with_reducible apply State.countRow_keeps
    | with_reducible apply State.setEngine_keeps
    | with_reducible apply State.bump_keeps
    | split

theorem State.useSeq_keeps {L : Nat} {u : State} (s : State) (k : NodeKey) (e : Nat) (svc : Nat) (hL : 512 ||| L = L) (hu : Keeps L u s) :
    Keeps L u (State.useSeq s k e svc) := by
  unfold State.useSeq
  try dsimp only
  repeat' first
    | with_reducible assumption
    | refine Keeps.upd hL ?_

theorem State.openBatch_keeps {L : Nat} {u : State} (s : State) (k : NodeKey) (e : Nat) (svc : Nat) (n : Nat) (dest : Nat) (bytes : Nat) (ticket : Nat) (hL : 9306651 ||| L = L) (hu : Keeps L u s) :
    Keeps L u (State.openBatch s k e svc n dest bytes ticket).1 := by
  unfold State.openBatch
  try dsimp only
  repeat' first
    | with_reducible assumption
    | exact lor_sub hL rfl
    | with_reducible apply Keeps.ite <;> intro _
    | with_reducible apply State.draw_keeps
    | refine Keeps.of_fst (State.draw_keeps _ _ _ _ _ _ _ ?_ ?_) (by with_reducible assumption)
    | with_reducible apply State.useSeq_keeps
    | refine State.pin_keeps _ _ _ _ _ ?_ ?_ _ (by with_reducible assumption)
    | split

theorem State.takeSlotIn_keeps {L : Nat} {u : State} (s : State) (k : NodeKey) (e : Nat) (svc : Nat) (n : Nat) (dest : Nat) (bytes : Nat) (ticket : Nat) (x : Sample) (hL : 9306651 ||| L = L) (hu : Keeps L u s) :
    ∀ t, State.takeSlotIn s k e svc n dest bytes ticket x = some t → Keeps L u t := by
  intro t e
  unfold State.takeSlotIn at e
  try dsimp only at e
  repeat' first
    | split at e
    | cases e
    | with_reducible assumption
    | exact lor_sub hL rfl
    | with_reducible apply Keeps.ite <;> intro _
    | with_reducible apply State.shpNote_keeps
    | with_reducible apply State.openBatch_keeps
    | refine Keeps.of_fst (State.openBatch_keeps _ _ _ _ _ _ _ _ ?_ ?_) (by with_reducible assumption)
    | split
    | refine Keeps.upd hL ?_

theorem State.shpStall_keeps {L : Nat} {u : State} (s : State) (e : Nat) (hL : 513 ||| L = L) (hu : Keeps L u s) :
    Keeps L u (State.shpStall s e) := by
  unfold State.shpStall
  try dsimp only
  repeat' first
    | with_reducible assumption
    | exact lor_sub hL rfl
    | with_reducible apply Keeps.ite <;> intro _
    | with_reducible apply State.shpNote_keeps
    | with_reducible apply State.bump_keeps
    | split
    | refine Keeps.upd hL ?_

theorem execShpSampleSlot_keeps {L : Nat} {u : State} (stream : Nat) (seq : Nat) (node : Nat) (s : State) (hL : 9306651 ||| L = L) (hu : Keeps L u s) :
    KeepsO L u (execShpSampleSlot stream seq node s) := by
  unfold execShpSampleSlot
  try dsimp only
  repeat' first
    | with_reducible assumption
    | exact lor_sub hL rfl
    | with_reducible apply KeepsO.of_next
    | with_reducible apply KeepsO.ite <;> intro _
    | with_reducible apply Keeps.ite <;> intro _
    | refine State.takeSlotIn_keeps _ _ _ _ _ _ _ _ _ ?_ ?_ _ (by with_reducible assumption)
    | with_reducible apply State.shpStall_keeps
    | with_reducible apply State.wr_keeps
    | with_reducible apply State.fillShape_keeps
    | split

theorem State.keepInCk_keeps {L : Nat} {u : State} (s : State) (q : Kept) (hL : 64 ||| L = L) (hu : Keeps L u s) :
    Keeps L u (State.keepInCk s q) := by
  unfold State.keepInCk
  try dsimp only
  repeat' first
    | with_reducible assumption
    | exact lor_sub hL rfl
    | with_reducible apply Keeps.ite <;> intro _
    | with_reducible apply State.setStream_keeps
    | split

theorem State.shpErr_keeps {L : Nat} {u : State} (s : State) (e : Nat) (st : Nat) (code : Nat) (d0 : optParam Nat 0) (d1 : optParam Nat 0) (hL : 8388633 ||| L = L) (hu : Keeps L u s) :
    Keeps L u (State.shpErr s e st code d0 d1) := by
  unfold State.shpErr
  try dsimp only
  repeat' first
    | with_reducible assumption
    | exact lor_sub hL rfl
    | with_reducible apply State.file_keeps
    | with_reducible apply State.setErr_keeps

theorem State.keepSample_keeps {L : Nat} {u : State} (s : State) (e : Nat) (k : NodeKey) (x : Sample) (bytes : Nat) (ticket : Nat) (hL : 9044571 ||| L = L) (hu : Keeps L u s) :
    Keeps L u (State.keepSample s e k x bytes ticket) := by
  unfold State.keepSample
  try dsimp only
  repeat' first
    | with_reducible assumption
    | exact lor_sub hL rfl
    | with_reducible apply State.freeAll_keeps
    | with_reducible apply State.draw_keeps
    | refine Keeps.of_fst (State.draw_keeps _ _ _ _ _ _ _ ?_ ?_) (by with_reducible assumption)
    | with_reducible apply State.keepInCk_keeps
    | with_reducible apply State.shpErr_keeps
    | split
    | refine Keeps.upd hL ?_

theorem execShpSampleDone_keeps {L : Nat} {u : State} (stream : Nat) (seq : Nat) (node : Nat) (objIndex : Nat) (s : State) (hL : 9052763 ||| L = L) (hu : Keeps L u s) :
    KeepsO L u (execShpSampleDone stream seq node objIndex s) := by
  unfold execShpSampleDone
  try dsimp only
  repeat' first
    | with_reducible assumption
    | exact lor_sub hL rfl
    | with_reducible apply KeepsO.of_next
    | with_reducible apply KeepsO.ite <;> intro _
    | with_reducible apply Keeps.ite <;> intro _
    | with_reducible apply State.updJob_keeps
    | with_reducible apply State.updSamples_keeps
    | with_reducible apply State.wr64_keeps
    | with_reducible apply State.cnt_keeps
    | with_reducible apply State.keepSample_keeps
    | with_reducible apply State.shpNote_keeps
    | split

theorem State.cropSlots_keeps {L : Nat} {u : State} (s : State) (j : Job) (node : Nat) (w : Nat) (d : Nat) (a5 : List (Nat × Box)) (hL : 9306651 ||| L = L) (hu : Keeps L u s) :
    ∀ t, State.cropSlots s j node w d a5 = some t → Keeps L u t := by
  induction a5 generalizing s with
  | nil =>
    intro t e
    unfold State.cropSlots at e
    try dsimp only at e
    repeat' first
      | split at e
      | cases e
      | with_reducible assumption
      | exact lor_sub hL rfl
      | with_reducible apply Keeps.ite <;> intro _
      | refine State.takeSlotIn_keeps _ _ _ _ _ _ _ _ _ ?_ ?_ _ (by with_reducible assumption)
      | split
  | cons _ _ ih =>
    intro t e
    unfold State.cropSlots at e
    try dsimp only at e
    repeat' first
      | split at e
      | cases e
      | with_reducible assumption
      | exact lor_sub hL rfl
      | with_reducible apply Keeps.ite <;> intro _
      | refine State.takeSlotIn_keeps _ _ _ _ _ _ _ _ _ ?_ ?_ _ (by with_reducible assumption)
      | refine ih _ ?_ _ (by with_reducible assumption)
      | split

theorem execBoxListArrival_keeps {L : Nat} {u : State} (job : Nat) (node : Nat) (s : State) (hL : 44019423 ||| L = L) (hu : Keeps L u s) :
    KeepsO L u (execBoxListArrival job node s) := by
  unfold execBoxListArrival
  try dsimp only
  repeat' first
    | with_reducible assumption
    | exact lor_sub hL rfl
    | with_reducible apply KeepsO.of_next
    | with_reducible apply KeepsO.ite <;> intro _
    | with_reducible apply Keeps.ite <;> intro _
    | with_reducible apply State.faultJob_keeps
    | with_reducible apply State.commitNode_keeps
    | refine State.cropSlots_keeps _ _ _ _ _ _ ?_ ?_ _ (by with_reducible assumption)
    | with_reducible apply State.shpStall_keeps
    | with_reducible apply State.shpErr_keeps
    | with_reducible apply State.cnt_keeps
    | with_reducible apply State.updNode_keeps
    | split

theorem execBatchWaitExpiry_keeps {L : Nat} {u : State} (shaper : Nat) (node : Nat) (svc : Nat) (s : State) (hL : 513 ||| L = L) (hu : Keeps L u s) :
    KeepsO L u (execBatchWaitExpiry shaper node svc s) := by
  unfold execBatchWaitExpiry
  try dsimp only
  repeat' first
    | with_reducible assumption
    | exact lor_sub hL rfl
    | with_reducible apply KeepsO.of_next
    | with_reducible apply State.shpNote_keeps
    | with_reducible apply State.closeBatches_keeps

theorem State.deliver_keeps {L : Nat} {u : State} (s : State) (b : Batch) (hL : 43983583 ||| L = L) (hu : Keeps L u s) :
    Keeps L u (State.deliver s b) := by
  unfold State.deliver
  try dsimp only
  repeat' first
    | with_reducible assumption
    | exact lor_sub hL rfl
    | with_reducible apply Keeps.ite <;> intro _
    | with_reducible apply State.updNode_keeps
    | with_reducible apply State.commitNode_keeps
    | with_reducible apply Keeps.foldl
    | with_reducible apply Keeps.foldl_fst
    | intro _ _ _
    | split

theorem execBatchDispatch_keeps {L : Nat} {u : State} (shaper : Nat) (node : Nat) (svc : Nat) (s : State) (hL : 43983583 ||| L = L) (hu : Keeps L u s) :
    KeepsO L u (execBatchDispatch shaper node svc s) := by
  unfold execBatchDispatch
  try dsimp only
  repeat' first
    | with_reducible assumption
    | exact lor_sub hL rfl
    | with_reducible apply KeepsO.of_next
    | with_reducible apply KeepsO.ite <;> intro _
    | with_reducible apply Keeps.ite <;> intro _
    | with_reducible apply State.updBatches_keeps
    | with_reducible apply State.bump_keeps
    | with_reducible apply State.shpNote_keeps
    | with_reducible apply State.deliver_keeps
    | split

theorem execShape_keeps {L : Nat} {u : State} (job : Nat) (node : Nat) (s : State) (hL : 8659457 ||| L = L) (hu : Keeps L u s) :
    KeepsO L u (execShape job node s) := by
  unfold execShape
  try dsimp only
  repeat' first
    | with_reducible assumption
    | exact lor_sub hL rfl
    | with_reducible apply KeepsO.of_next
    | with_reducible apply KeepsO.ite <;> intro _
    | with_reducible apply Keeps.ite <;> intro _
    | with_reducible apply State.fillShape_keeps
    | with_reducible apply State.updNode_keeps
    | split

theorem State.fillCrop_keeps {L : Nat} {u : State} (s : State) (j : Job) (node : Nat) (d : Nat) (p : Pic) (q : Nat × Box) (hL : 8389145 ||| L = L) (hu : Keeps L u s) :
    Keeps L u (State.fillCrop s j node d p q) := by
  unfold State.fillCrop
  try dsimp only
  repeat' first
    | with_reducible assumption
    | exact lor_sub hL rfl
    | with_reducible apply Keeps.ite <;> intro _
    | with_reducible apply State.updSamples_keeps
    | with_reducible apply State.bump_keeps
    | with_reducible apply State.cnt_keeps
    | with_reducible apply State.shpErr_keeps
    | with_reducible apply State.numCount_keeps
    | split

theorem State.fillCrops_keeps {L : Nat} {u : State} (s : State) (j : Job) (node : Nat) (w : Nat) (p : Pic) (l : List (Nat × Box)) (hL : 8389145 ||| L = L) (hu : Keeps L u s) :
    Keeps L u (State.fillCrops s j node w p l) := by
  unfold State.fillCrops
  try dsimp only
  repeat' first
    | with_reducible assumption
    | exact lor_sub hL rfl
    | with_reducible apply State.fillCrop_keeps
    | with_reducible apply Keeps.foldl
    | with_reducible apply Keeps.foldl_fst
    | intro _ _ _

theorem execCropResize_keeps {L : Nat} {u : State} (job : Nat) (node : Nat) (s : State) (hL : 8397337 ||| L = L) (hu : Keeps L u s) :
    KeepsO L u (execCropResize job node s) := by
  unfold execCropResize
  try dsimp only
  repeat' first
    | with_reducible assumption
    | exact lor_sub hL rfl
    | with_reducible apply KeepsO.of_next
    | with_reducible apply KeepsO.ite <;> intro _
    | with_reducible apply Keeps.ite <;> intro _
    | with_reducible apply State.updNode_keeps
    | with_reducible apply State.fillCrops_keeps
    | split

end Sys2Proof.Machine
end

