-- ==== Sys2Proof/Laws/KeepTile.lean ====
section
/-! SUPPORT. Every operation of Machine/Tile.lean keeps what `Keeps` says. -/

set_option Elab.async false

namespace Sys2Proof.Machine

theorem State.schedNote_keeps {L : Nat} {u : State} (s : State) (hL : 1 ||| L = L) (hu : Keeps L u s) :
    Keeps L u (State.schedNote s) := by
  unfold State.schedNote
  try dsimp only
  repeat' first
    | with_reducible assumption
    | exact lor_sub hL rfl
    | with_reducible apply Keeps.ite <;> intro _
    | with_reducible apply State.wr_keeps
    | with_reducible apply Keeps.foldl
    | with_reducible apply Keeps.foldl_fst
    | intro _ _ _
    | split

theorem State.coreNote_keeps {L : Nat} {u : State} (s : State) (c : Nat) (hL : 1 ||| L = L) (hu : Keeps L u s) :
    Keeps L u (State.coreNote s c) := by
  unfold State.coreNote
  try dsimp only
  repeat' first
    | with_reducible assumption
    | exact lor_sub hL rfl
    | with_reducible apply Keeps.ite <;> intro _
    | with_reducible apply State.wr_keeps
    | split

theorem State.note_keeps {L : Nat} {u : State} (s : State) (c : Nat) (hL : 1 ||| L = L) (hu : Keeps L u s) :
    Keeps L u (State.note s c) := by
  unfold State.note
  try dsimp only
  repeat' first
    | with_reducible assumption
    | exact lor_sub hL rfl
    | with_reducible apply State.schedNote_keeps
    | with_reducible apply State.coreNote_keeps

theorem State.setCore_keeps {L : Nat} {u : State} (s : State) (c : Nat) (x : Core) (hL : 32768 ||| L = L) (hu : Keeps L u s) :
    Keeps L u (State.setCore s c x) := by
  unfold State.setCore
  try dsimp only
  repeat' first
    | with_reducible assumption
    | refine Keeps.upd hL ?_

theorem State.maxWait_keeps {L : Nat} {u : State} (s : State) (t : TileJob) (hL : 1 ||| L = L) (hu : Keeps L u s) :
    Keeps L u (State.maxWait s t) := by
  unfold State.maxWait
  try dsimp only
  repeat' first
    | with_reducible assumption
    | exact lor_sub hL rfl
    | with_reducible apply Keeps.ite <;> intro _
    | with_reducible apply State.wr_keeps
    | split

theorem State.placeTile_keeps {L : Nat} {u : State} (s : State) (t : TileJob) (c : Nat) (hL : 8486913 ||| L = L) (hu : Keeps L u s) :
    Keeps L u (State.placeTile s t c) := by
  unfold State.placeTile
  try dsimp only
  repeat' first
    | with_reducible assumption
    | exact lor_sub hL rfl
    | with_reducible apply Keeps.ite <;> intro _
    | with_reducible apply State.cnt_keeps
    | with_reducible apply State.maxWait_keeps
    | with_reducible apply State.setCore_keeps
    | split
    | refine Keeps.upd hL ?_

theorem State.backIdle_keeps {L : Nat} {u : State} (s : State) (c : Nat) (hL : 8486913 ||| L = L) (hu : Keeps L u s) :
    Keeps L u (State.backIdle s c) := by
  unfold State.backIdle
  try dsimp only
  repeat' first
    | with_reducible assumption
    | exact lor_sub hL rfl
    | with_reducible apply Keeps.ite <;> intro _
    | with_reducible apply State.wr_keeps
    | with_reducible apply State.setCore_keeps
    | with_reducible apply State.placeTile_keeps
    | split

theorem State.stopEnd_keeps {L : Nat} {u : State} (s : State) (c : Nat) (hL : 8486913 ||| L = L) (hu : Keeps L u s) :
    Keeps L u (State.stopEnd s c) := by
  unfold State.stopEnd
  try dsimp only
  repeat' first
    | with_reducible assumption
    | exact lor_sub hL rfl
    | with_reducible apply Keeps.ite <;> intro _
    | with_reducible apply State.wr_keeps
    | with_reducible apply State.setCore_keeps
    | with_reducible apply State.backIdle_keeps
    | split

theorem State.wakeNode_keeps {L : Nat} {u : State} (s : State) (id : Nat) (n : Nat) (hL : 73728 ||| L = L) (hu : Keeps L u s) :
    Keeps L u (State.wakeNode s id n) := by
  unfold State.wakeNode
  try dsimp only
  repeat' first
    | with_reducible assumption
    | exact lor_sub hL rfl
    | with_reducible apply Keeps.ite <;> intro _
    | with_reducible apply State.updNode_keeps
    | split
    | refine Keeps.upd hL ?_

theorem State.wake_keeps {L : Nat} {u : State} (s : State) (id : Nat) (hL : 73729 ||| L = L) (hu : Keeps L u s) :
    Keeps L u (State.wake s id) := by
  unfold State.wake
  try dsimp only
  repeat' first
    | with_reducible assumption
    | exact lor_sub hL rfl
    | with_reducible apply State.schedNote_keeps
    | with_reducible apply State.wakeNode_keeps
    | with_reducible apply Keeps.foldl
    | with_reducible apply Keeps.foldl_fst
    | intro _ _ _
    | split

theorem State.roiCounts_keeps {L : Nat} {u : State} (s : State) (j : Job) (w : Nat) (d : Nat) (x : Srcs) (hL : 8388608 ||| L = L) (hu : Keeps L u s) :
    Keeps L u (State.roiCounts s j w d x) := by
  unfold State.roiCounts
  try dsimp only
  repeat' first
    | with_reducible assumption
    | exact lor_sub hL rfl
    | with_reducible apply Keeps.ite <;> intro _
    | with_reducible apply State.cnt_keeps
    | with_reducible apply Keeps.foldl
    | with_reducible apply Keeps.foldl_fst
    | intro _ _ _
    | split

theorem State.finishNode_keeps {L : Nat} {u : State} (s : State) (id : Nat) (n : Nat) (hL : 43983583 ||| L = L) (hu : Keeps L u s) :
    Keeps L u (State.finishNode s id n) := by
  unfold State.finishNode
  try dsimp only
  repeat' first
    | with_reducible assumption
    | exact lor_sub hL rfl
    | with_reducible apply Keeps.ite <;> intro _
    | with_reducible apply State.wake_keeps
    | with_reducible apply State.commitNode_keeps
    | split

theorem State.runNode_keeps {L : Nat} {u : State} (s : State) (id : Nat) (n : Nat) (opc : Nat) (hL : 44019423 ||| L = L) (hu : Keeps L u s) :
    Keeps L u (State.runNode s id n opc) := by
  unfold State.runNode
  try dsimp only
  repeat' first
    | with_reducible assumption
    | exact lor_sub hL rfl
    | with_reducible apply Keeps.ite <;> intro _
    | with_reducible apply State.faultJob_keeps
    | with_reducible apply State.updNode_keeps
    | with_reducible apply State.roiCounts_keeps
    | with_reducible apply State.setStream_keeps
    | with_reducible apply State.finishNode_keeps
    | with_reducible apply State.wake_keeps
    | with_reducible apply State.releasePic_keeps
    | split

theorem execMatmul_keeps {L : Nat} {u : State} (job : Nat) (node : Nat) (s : State) (hL : 44019423 ||| L = L) (hu : Keeps L u s) :
    KeepsO L u (execMatmul job node s) := by
  unfold execMatmul
  try dsimp only
  repeat' first
    | with_reducible assumption
    | exact lor_sub hL rfl
    | with_reducible apply KeepsO.of_next
    | with_reducible apply State.runNode_keeps

theorem execVec_keeps {L : Nat} {u : State} (job : Nat) (node : Nat) (s : State) (hL : 44019423 ||| L = L) (hu : Keeps L u s) :
    KeepsO L u (execVec job node s) := by
  unfold execVec
  try dsimp only
  repeat' first
    | with_reducible assumption
    | exact lor_sub hL rfl
    | with_reducible apply KeepsO.of_next
    | with_reducible apply State.runNode_keeps

theorem execRowstat_keeps {L : Nat} {u : State} (job : Nat) (node : Nat) (s : State) (hL : 44019423 ||| L = L) (hu : Keeps L u s) :
    KeepsO L u (execRowstat job node s) := by
  unfold execRowstat
  try dsimp only
  repeat' first
    | with_reducible assumption
    | exact lor_sub hL rfl
    | with_reducible apply KeepsO.of_next
    | with_reducible apply State.runNode_keeps

theorem execSoftmax_keeps {L : Nat} {u : State} (job : Nat) (node : Nat) (s : State) (hL : 44019423 ||| L = L) (hu : Keeps L u s) :
    KeepsO L u (execSoftmax job node s) := by
  unfold execSoftmax
  try dsimp only
  repeat' first
    | with_reducible assumption
    | exact lor_sub hL rfl
    | with_reducible apply KeepsO.of_next
    | with_reducible apply State.runNode_keeps

theorem execNorm_keeps {L : Nat} {u : State} (job : Nat) (node : Nat) (s : State) (hL : 44019423 ||| L = L) (hu : Keeps L u s) :
    KeepsO L u (execNorm job node s) := by
  unfold execNorm
  try dsimp only
  repeat' first
    | with_reducible assumption
    | exact lor_sub hL rfl
    | with_reducible apply KeepsO.of_next
    | with_reducible apply State.runNode_keeps

theorem execChain_keeps {L : Nat} {u : State} (job : Nat) (node : Nat) (s : State) (hL : 44019423 ||| L = L) (hu : Keeps L u s) :
    KeepsO L u (execChain job node s) := by
  unfold execChain
  try dsimp only
  repeat' first
    | with_reducible assumption
    | exact lor_sub hL rfl
    | with_reducible apply KeepsO.of_next
    | with_reducible apply State.runNode_keeps

theorem State.noteHits_keeps {L : Nat} {u : State} (s : State) (r : RunTile) (w : Nat) (d : Nat) (g : Grid) (hL : 16785408 ||| L = L) (hu : Keeps L u s) :
    Keeps L u (State.noteHits s r w d g) := by
  unfold State.noteHits
  try dsimp only
  repeat' first
    | with_reducible assumption
    | exact lor_sub hL rfl
    | with_reducible apply Keeps.ite <;> intro _
    | with_reducible apply State.updNode_keeps
    | split
    | refine Keeps.upd hL ?_

theorem execChainStepCommit_keeps {L : Nat} {u : State} (job : Nat) (node : Nat) (rowBlock : Nat) (s : State) (hL : 25206784 ||| L = L) (hu : Keeps L u s) :
    KeepsO L u (execChainStepCommit job node rowBlock s) := by
  unfold execChainStepCommit
  try dsimp only
  repeat' first
    | with_reducible assumption
    | exact lor_sub hL rfl
    | with_reducible apply KeepsO.of_next
    | with_reducible apply KeepsO.ite <;> intro _
    | with_reducible apply Keeps.ite <;> intro _
    | with_reducible apply State.updNode_keeps
    | with_reducible apply State.cnt_keeps
    | with_reducible apply State.setCore_keeps
    | with_reducible apply State.noteHits_keeps
    | with_reducible apply Keeps.foldl
    | with_reducible apply Keeps.foldl_fst
    | intro _ _ _
    | split

theorem execConv_keeps {L : Nat} {u : State} (job : Nat) (node : Nat) (s : State) (hL : 44019423 ||| L = L) (hu : Keeps L u s) :
    KeepsO L u (execConv job node s) := by
  unfold execConv
  try dsimp only
  repeat' first
    | with_reducible assumption
    | exact lor_sub hL rfl
    | with_reducible apply KeepsO.of_next
    | with_reducible apply State.runNode_keeps

theorem execConvDw_keeps {L : Nat} {u : State} (job : Nat) (node : Nat) (s : State) (hL : 44019423 ||| L = L) (hu : Keeps L u s) :
    KeepsO L u (execConvDw job node s) := by
  unfold execConvDw
  try dsimp only
  repeat' first
    | with_reducible assumption
    | exact lor_sub hL rfl
    | with_reducible apply KeepsO.of_next
    | with_reducible apply State.runNode_keeps

theorem execConvFft_keeps {L : Nat} {u : State} (job : Nat) (node : Nat) (s : State) (hL : 44019423 ||| L = L) (hu : Keeps L u s) :
    KeepsO L u (execConvFft job node s) := by
  unfold execConvFft
  try dsimp only
  repeat' first
    | with_reducible assumption
    | exact lor_sub hL rfl
    | with_reducible apply KeepsO.of_next
    | with_reducible apply State.runNode_keeps

theorem execSpectrumJob_keeps {L : Nat} {u : State} (job : Nat) (node : Nat) (channel : Nat) (s : State) (hL : 43983583 ||| L = L) (hu : Keeps L u s) :
    KeepsO L u (execSpectrumJob job node channel s) := by
  unfold execSpectrumJob
  try dsimp only
  repeat' first
    | with_reducible assumption
    | exact lor_sub hL rfl
    | with_reducible apply KeepsO.of_next
    | with_reducible apply KeepsO.ite <;> intro _
    | with_reducible apply Keeps.ite <;> intro _
    | with_reducible apply State.finishNode_keeps
    | with_reducible apply State.wake_keeps
    | with_reducible apply State.updNode_keeps
    | split

theorem execPool_keeps {L : Nat} {u : State} (job : Nat) (node : Nat) (s : State) (hL : 44019423 ||| L = L) (hu : Keeps L u s) :
    KeepsO L u (execPool job node s) := by
  unfold execPool
  try dsimp only
  repeat' first
    | with_reducible assumption
    | exact lor_sub hL rfl
    | with_reducible apply KeepsO.of_next
    | with_reducible apply State.runNode_keeps

theorem execArgmaxC_keeps {L : Nat} {u : State} (job : Nat) (node : Nat) (s : State) (hL : 44019423 ||| L = L) (hu : Keeps L u s) :
    KeepsO L u (execArgmaxC job node s) := by
  unfold execArgmaxC
  try dsimp only
  repeat' first
    | with_reducible assumption
    | exact lor_sub hL rfl
    | with_reducible apply KeepsO.of_next
    | with_reducible apply State.runNode_keeps

theorem execRoiAlign_keeps {L : Nat} {u : State} (job : Nat) (node : Nat) (s : State) (hL : 44019423 ||| L = L) (hu : Keeps L u s) :
    KeepsO L u (execRoiAlign job node s) := by
  unfold execRoiAlign
  try dsimp only
  repeat' first
    | with_reducible assumption
    | exact lor_sub hL rfl
    | with_reducible apply KeepsO.of_next
    | with_reducible apply State.runNode_keeps

theorem execTileJobPlacement_keeps {L : Nat} {u : State} (svc : Nat) (s : State) (hL : 8486913 ||| L = L) (hu : Keeps L u s) :
    KeepsO L u (execTileJobPlacement svc s) := by
  unfold execTileJobPlacement
  try dsimp only
  repeat' first
    | with_reducible assumption
    | exact lor_sub hL rfl
    | with_reducible apply KeepsO.of_next
    | with_reducible apply KeepsO.ite <;> intro _
    | with_reducible apply Keeps.ite <;> intro _
    | with_reducible apply State.note_keeps
    | with_reducible apply State.placeTile_keeps
    | split

theorem State.loadScales_keeps {L : Nat} {u : State} (s : State) (c : Nat) (slot : Nat) (w : Nat) (n : Nat) (j : Nat) (o : NodeOut) (hL : 1 ||| L = L) (hu : Keeps L u s) :
    Keeps L u (State.loadScales s c slot w n j o) := by
  unfold State.loadScales
  try dsimp only
  repeat' first
    | with_reducible assumption
    | exact lor_sub hL rfl
    | with_reducible apply State.setReg_keeps
    | with_reducible apply Keeps.foldl
    | with_reducible apply Keeps.foldl_fst
    | intro _ _ _

theorem execTileIssue_keeps {L : Nat} {u : State} (core : Nat) (s : State) (hL : 8429569 ||| L = L) (hu : Keeps L u s) :
    KeepsO L u (execTileIssue core s) := by
  unfold execTileIssue
  try dsimp only
  repeat' first
    | with_reducible assumption
    | exact lor_sub hL rfl
    | with_reducible apply KeepsO.of_next
    | with_reducible apply KeepsO.ite <;> intro _
    | with_reducible apply Keeps.ite <;> intro _
    | with_reducible apply State.setCore_keeps
    | with_reducible apply State.wr_keeps
    | with_reducible apply State.bump_keeps
    | with_reducible apply State.cnt_keeps
    | with_reducible apply State.updNode_keeps
    | with_reducible apply State.loadScales_keeps
    | with_reducible apply State.note_keeps
    | with_reducible apply Keeps.foldl
    | with_reducible apply Keeps.foldl_fst
    | intro _ _ _
    | split

theorem execChunkStaged_keeps {L : Nat} {u : State} (core : Nat) (chunk : Nat) (s : State) (hL : 32768 ||| L = L) (hu : Keeps L u s) :
    KeepsO L u (execChunkStaged core chunk s) := by
  unfold execChunkStaged
  try dsimp only
  repeat' first
    | with_reducible assumption
    | exact lor_sub hL rfl
    | with_reducible apply KeepsO.of_next
    | with_reducible apply State.setCore_keeps

theorem State.coreErr_keeps {L : Nat} {u : State} (s : State) (c : Nat) (code : Nat) (marver : Bool) (d0 : optParam Nat 0) (d1 : optParam Nat 0) (hL : 8388633 ||| L = L) (hu : Keeps L u s) :
    Keeps L u (State.coreErr s c code marver d0 d1) := by
  unfold State.coreErr
  try dsimp only
  repeat' first
    | with_reducible assumption
    | exact lor_sub hL rfl
    | with_reducible apply Keeps.ite <;> intro _
    | with_reducible apply State.file_keeps
    | with_reducible apply State.setErr_keeps
    | split

theorem State.add64_keeps {L : Nat} {u : State} (s : State) (lo : Nat) (hi : Nat) (n : Nat) (hL : 1 ||| L = L) (hu : Keeps L u s) :
    Keeps L u (State.add64 s lo hi n) := by
  unfold State.add64
  try dsimp only
  repeat' first
    | with_reducible assumption
    | exact lor_sub hL rfl
    | with_reducible apply State.wr64_keeps

theorem State.cycleCount_keeps {L : Nat} {u : State} (s : State) (c : Nat) (w : Nat) (d : Nat) (g : Grid) (t : TileJob) (resc : Nat) (hL : 1 ||| L = L) (hu : Keeps L u s) :
    Keeps L u (State.cycleCount s c w d g t resc) := by
  unfold State.cycleCount
  try dsimp only
  repeat' first
    | with_reducible assumption
    | exact lor_sub hL rfl
    | with_reducible apply Keeps.ite <;> intro _
    | with_reducible apply State.add64_keeps
    | split

theorem State.mrvCount_keeps {L : Nat} {u : State} (s : State) (c : Nat) (n : NumCnt) (hL : 8388609 ||| L = L) (hu : Keeps L u s) :
    Keeps L u (State.mrvCount s c n) := by
  unfold State.mrvCount
  try dsimp only
  repeat' first
    | with_reducible assumption
    | exact lor_sub hL rfl
    | with_reducible apply Keeps.ite <;> intro _
    | with_reducible apply State.wr_keeps
    | with_reducible apply State.cnt_keeps
    | split

theorem State.dropHold_keeps {L : Nat} {u : State} (s : State) (c : Nat) (t : TileJob) (x : NodeSt) (g : Grid) (hL : 8421376 ||| L = L) (hu : Keeps L u s) :
    Keeps L u (State.dropHold s c t x g) := by
  unfold State.dropHold
  try dsimp only
  repeat' first
    | with_reducible assumption
    | exact lor_sub hL rfl
    | with_reducible apply Keeps.ite <;> intro _
    | with_reducible apply State.setCore_keeps
    | with_reducible apply State.cnt_keeps
    | split

theorem State.releaseRead_keeps {L : Nat} {u : State} (s : State) (id : Nat) (hL : 43647003 ||| L = L) (hu : Keeps L u s) :
    Keeps L u (State.releaseRead s id) := by
  unfold State.releaseRead
  try dsimp only
  repeat' first
    | with_reducible assumption
    | exact lor_sub hL rfl
    | with_reducible apply State.releaseTile_keeps
    | with_reducible apply Keeps.foldl
    | with_reducible apply Keeps.foldl_fst
    | intro _ _ _
    | split

theorem State.commitTile_keeps {L : Nat} {u : State} (s : State) (c : Nat) (r : RunTile) (hL : 60793567 ||| L = L) (hu : Keeps L u s) :
    Keeps L u (State.commitTile s c r) := by
  unfold State.commitTile
  try dsimp only
  repeat' first
    | with_reducible assumption
    | exact lor_sub hL rfl
    | with_reducible apply Keeps.ite <;> intro _
    | with_reducible apply State.setCore_keeps
    | with_reducible apply State.bump_keeps
    | with_reducible apply State.cnt_keeps
    | with_reducible apply State.cycleCount_keeps
    | with_reducible apply State.mrvCount_keeps
    | with_reducible apply State.numCount_keeps
    | with_reducible apply State.noteHits_keeps
    | with_reducible apply State.updNode_keeps
    | with_reducible apply State.dropHold_keeps
    | with_reducible apply State.releaseRead_keeps
    | with_reducible apply State.finishNode_keeps
    | with_reducible apply State.wake_keeps
    | split

theorem execTileCommit_keeps {L : Nat} {u : State} (core : Nat) (s : State) (hL : 60793567 ||| L = L) (hu : Keeps L u s) :
    KeepsO L u (execTileCommit core s) := by
  unfold execTileCommit
  try dsimp only
  repeat' first
    | with_reducible assumption
    | exact lor_sub hL rfl
    | with_reducible apply KeepsO.of_next
    | with_reducible apply State.note_keeps
    | with_reducible apply State.stopEnd_keeps
    | with_reducible apply State.commitTile_keeps
    | split

theorem execFoldJob_keeps {L : Nat} {u : State} (job : Nat) (node : Nat) (s : State) (hL : 43983583 ||| L = L) (hu : Keeps L u s) :
    KeepsO L u (execFoldJob job node s) := by
  unfold execFoldJob
  try dsimp only
  repeat' first
    | with_reducible assumption
    | exact lor_sub hL rfl
    | with_reducible apply KeepsO.of_next
    | with_reducible apply KeepsO.ite <;> intro _
    | with_reducible apply Keeps.ite <;> intro _
    | with_reducible apply State.finishNode_keeps
    | with_reducible apply State.updNode_keeps
    | split

theorem execSecondPassIssue_keeps {L : Nat} {u : State} (job : Nat) (node : Nat) (s : State) (hL : 73729 ||| L = L) (hu : Keeps L u s) :
    KeepsO L u (execSecondPassIssue job node s) := by
  unfold execSecondPassIssue
  try dsimp only
  repeat' first
    | with_reducible assumption
    | exact lor_sub hL rfl
    | with_reducible apply KeepsO.of_next
    | with_reducible apply KeepsO.ite <;> intro _
    | with_reducible apply Keeps.ite <;> intro _
    | with_reducible apply State.updNode_keeps
    | with_reducible apply State.schedNote_keeps
    | split
    | refine Keeps.upd hL ?_

end Sys2Proof.Machine
end

