-- ==== Sys2Proof/Laws/Job.lean ====
section
/-! SUPPORT. Jobs and their nodes: what changing a node, waking tile jobs, committing a node and ending a job do to the jobs in flight. -/

set_option Elab.async false

namespace Sys2Proof.Machine

theorem job_of {s t : State} (h : t.jobs = s.jobs) (id : Nat) : t.job? id = s.job? id := by unfold State.job?; rw [h]

theorem id_of_job {s : State} {id : Nat} {j : Job} (h : s.job? id = some j) : j.id = id := by
  simpa using List.find?_some h

theorem job_updJob (s : State) (id : Nat) (f : Job → Job) (hf : ∀ j, j.id = id → (f j).id = id) :
    (s.updJob id f).job? id = (s.job? id).map f := by
  unfold State.updJob State.job?
  exact find_updFirst _ _ (fun x hx => by simpa using hf x (by simpa using hx)) _

@[simp] theorem node_setNode_same (j : Job) (n : Nat) (x : NodeSt) : (j.setNode n x).node n = x := by
  simp [Job.node, Job.setNode]

theorem node_setNode_other (j : Job) (n m : Nat) (x : NodeSt) (h : m ≠ n) : (j.setNode n x).node m = j.node m := by
  simp only [Job.node, Job.setNode]
  exact tget_tset_other _ _ _ _ _ h

theorem job_updNode (s : State) (id n : Nat) (f : NodeSt → NodeSt) :
    (s.updNode id n f).job? id = (s.job? id).map (fun j => j.setNode n (f (j.node n))) :=
  job_updJob s id _ (fun _ h => h)

/-- From `j` to `k` at most the lists of tile jobs that are not yet ready differ. -/
structure SameWork (j k : Job) : Prop where
  eq : k = { j with nodes := k.nodes }
  node : ∀ n, k.node n = { j.node n with unready := (k.node n).unready }

theorem SameWork.refl (j : Job) : SameWork j j := ⟨rfl, fun _ => rfl⟩

theorem SameWork.trans {j k l : Job} (h : SameWork j k) (g : SameWork k l) : SameWork j l :=
  ⟨by rw [g.eq, h.eq], fun n => by rw [g.node n, h.node n]⟩

/-- The job, when it is in flight, stays so with the same work. -/
def KeepsWork (id : Nat) (s t : State) : Prop := ∀ j, s.job? id = some j → ∃ k, t.job? id = some k ∧ SameWork j k

theorem KeepsWork.refl (id : Nat) (s : State) : KeepsWork id s s := fun j h => ⟨j, h, SameWork.refl j⟩

theorem KeepsWork.trans {id : Nat} {s t u : State} (h : KeepsWork id s t) (g : KeepsWork id t u) : KeepsWork id s u := by
  intro j hj
  obtain ⟨k, hk, a⟩ := h j hj
  obtain ⟨l, hl, b⟩ := g k hk
  exact ⟨l, hl, a.trans b⟩

theorem KeepsWork.of_jobs (id : Nat) {s t : State} (h : t.jobs = s.jobs) : KeepsWork id s t :=
  fun j hj => ⟨j, (job_of h id).trans hj, SameWork.refl j⟩

theorem wakeNode_work (s : State) (id n : Nat) : KeepsWork id s (s.wakeNode id n) := by
  intro j hj
  unfold State.wakeNode
  rw [hj]
  simp only
  split
  · rename_i g w hg hw
    split
    · exact ⟨j, hj, SameWork.refl j⟩
    · generalize hgo : (j.node n).unready.filter (fun t => j.tileReady w (s.coreDesc j n w) (j.node n) g t) = go
      refine ⟨j.setNode n { j.node n with unready := (j.node n).unready.filter (fun t => !go.contains t) }, ?_, rfl, fun m => ?_⟩
      · refine (job_of (s := s.updNode id n (fun x => { x with unready := x.unready.filter (fun t => !go.contains t) }))
          (by rfl) id).trans ((job_updNode s id n _).trans ?_)
        rw [hj]
        rfl
      · by_cases h : m = n
        · subst h
          rw [node_setNode_same]
        · rw [node_setNode_other _ _ _ _ h]
  · exact ⟨j, hj, SameWork.refl j⟩

theorem wake_work (s : State) (id : Nat) : KeepsWork id s (s.wake id) := by
  unfold State.wake
  split
  · exact KeepsWork.refl id s
  · rename_i j hj
    have h : ∀ (l : List Nat) (t : State), KeepsWork id t (l.foldl (fun s n => s.wakeNode id n) t) := by
      intro l
      induction l with
      | nil => exact fun t => KeepsWork.refl id t
      | cons n l ih => exact fun t => (wakeNode_work t id n).trans (ih _)
    refine (h (j.nodes.map (·.1)) s).trans (KeepsWork.of_jobs id ?_)
    exact (State.schedNote_keeps (L := 1) _ (by decide) (Keeps.refl _)).parts.same .jobs (by decide)

/-- A job that has a node still open does not end. -/
theorem tryEnd_open {s : State} {id k : Nat} {j : Job} (h : s.job? id = some j)
    (hk : k < ((s.prog j.prog).routeWords j.route).length) (ho : (j.node k).committed = false) : s.tryEnd id = s := by
  unfold State.tryEnd
  rw [h]
  dsimp only
  rw [if_neg]
  intro hd
  unfold State.jobDone at hd
  simp only [List.all_eq_true, List.mem_range, Bool.and_eq_true] at hd
  have := (hd k hk).1
  rw [ho] at this
  cases this

theorem job_filter (l : List Job) (id : Nat) : (l.filter (fun x => x.id != id)).find? (fun j => j.id == id) = none := by
  rw [List.find?_eq_none]
  intro x hx
  simp only [List.mem_filter, bne_iff_ne, ne_eq] at hx
  simpa using hx.2

/-- A job that ends is in flight no more. -/
theorem endJob_gone (s : State) (j : Job) : (s.endJob j).job? j.id = none := by
  unfold State.endJob
  simp only
  generalize (State.freePlan _ j) = a
  have h0 : ({ a with jobs := a.jobs.filter (fun x => x.id != j.id) } : State).job? j.id = none := job_filter _ _
  generalize ({ a with jobs := a.jobs.filter (fun x => x.id != j.id) } : State) = b at *
  have h2 : ∀ (c : State) (st n : Nat), c.jobs = b.jobs → (((c.dropPic st n).settle st).pruneBatches).job? j.id = none :=
    fun c st n hc => (job_of (((State.pruneBatches_keeps (L := 67100671) _ (by decide) (State.settle_keeps (L := 67100671) _ st
      (by decide) (State.dropPic_keeps (L := 67100671) c st n (by decide) (Keeps.refl _)))).parts.same .jobs (by decide)).trans hc)
        _).trans h0
  have h3 : ∀ c : State, c.jobs = b.jobs → c.job? j.id = none := fun c hc => (job_of hc _).trans h0
  split
  · apply h2
    split
    · split
      · split <;> rfl
      · rfl
    · rfl
  · apply h3
    split
    · split
      · split <;> rfl
      · rfl
    · rfl

/-- A job whose node faults ends (R338). -/
theorem faultJob_gone (s : State) (j : Job) (node code d0 d1 : Nat) : (s.faultJob j node code d0 d1).job? j.id = none := by
  unfold State.faultJob
  exact endJob_gone _ { j with fault := some (node, code) }

end Sys2Proof.Machine
end

