-- ==== Sys2Proof/Laws/KeepDec.lean ====
section
/-! SUPPORT. Every operation of Machine/Dec.lean keeps what `Keeps` says. -/

set_option Elab.async false

namespace Sys2Proof.Machine

theorem State.freeFrame_keeps {L : Nat} {u : State} (s : State) (f : Frame) (hL : 9043995 ||| L = L) (hu : Keeps L u s) :
    Keeps L u (State.freeFrame s f) := by
  unfold State.freeFrame
  try dsimp only
  repeat' first
    | with_reducible assumption
    | exact lor_sub hL rfl
    | with_reducible apply State.freeAll_keeps
    | split

theorem State.dropJob_keeps {L : Nat} {u : State} (s : State) (st : Nat) (seq : Nat) (hL : 44015771 ||| L = L) (hu : Keeps L u s) :
    Keeps L u (State.dropJob s st seq) := by
  unfold State.dropJob
  try dsimp only
  repeat' first
    | with_reducible assumption
    | exact lor_sub hL rfl
    | with_reducible apply State.dropPic_keeps
    | with_reducible apply State.dropTiles_keeps
    | with_reducible apply State.lnkEnd_keeps
    | with_reducible apply State.freePlan_keeps
    | split
    | refine Keeps.upd hL ?_

theorem State.loseLive_keeps {L : Nat} {u : State} (s : State) (st : Nat) (f : Frame) (hL : 44015835 ||| L = L) (hu : Keeps L u s) :
    Keeps L u (State.loseLive s st f) := by
  unfold State.loseLive
  try dsimp only
  repeat' first
    | with_reducible assumption
    | exact lor_sub hL rfl
    | with_reducible apply State.settle_keeps
    | with_reducible apply State.markGap_keeps
    | with_reducible apply State.dropJob_keeps

theorem State.freeOld_keeps {L : Nat} {u : State} (s : State) (st : Nat) (hL : 9044059 ||| L = L) (hu : Keeps L u s) :
    Keeps L u (State.freeOld s st) := by
  unfold State.freeOld
  try dsimp only
  repeat' first
    | with_reducible assumption
    | exact lor_sub hL rfl
    | with_reducible apply Keeps.ite <;> intro _
    | with_reducible apply State.setStream_keeps
    | with_reducible apply State.freeAll_keeps
    | split

theorem State.resumeDec_keeps {L : Nat} {u : State} (s : State) (st : Nat) (hL : 65 ||| L = L) (hu : Keeps L u s) :
    Keeps L u (State.resumeDec s st) := by
  unfold State.resumeDec
  try dsimp only
  repeat' first
    | with_reducible assumption
    | exact lor_sub hL rfl
    | with_reducible apply Keeps.ite <;> intro _
    | with_reducible apply State.setStream_keeps
    | with_reducible apply State.wr_keeps
    | with_reducible apply State.setReg_keeps
    | split

theorem State.engineNote_keeps {L : Nat} {u : State} (s : State) (e : Nat) (hL : 1 ||| L = L) (hu : Keeps L u s) :
    Keeps L u (State.engineNote s e) := by
  unfold State.engineNote
  try dsimp only
  repeat' first
    | with_reducible assumption
    | exact lor_sub hL rfl
    | with_reducible apply Keeps.ite <;> intro _
    | with_reducible apply State.wr_keeps
    | split

theorem State.enginesNote_keeps {L : Nat} {u : State} (s : State) (hL : 1 ||| L = L) (hu : Keeps L u s) :
    Keeps L u (State.enginesNote s) := by
  unfold State.enginesNote
  try dsimp only
  repeat' first
    | with_reducible assumption
    | exact lor_sub hL rfl
    | with_reducible apply State.engineNote_keeps
    | with_reducible apply Keeps.foldl
    | with_reducible apply Keeps.foldl_fst
    | intro _ _ _

theorem State.setEngineSt_keeps {L : Nat} {u : State} (s : State) (e : Nat) (v : Nat) (hL : 1 ||| L = L) (hu : Keeps L u s) :
    Keeps L u (State.setEngineSt s e v) := by
  unfold State.setEngineSt
  try dsimp only
  repeat' first
    | with_reducible assumption
    | exact lor_sub hL rfl
    | with_reducible apply Keeps.ite <;> intro _
    | with_reducible apply State.wr_keeps
    | split

theorem State.movesDone_keeps {L : Nat} {u : State} (s : State) (e : Nat) (hL : 1 ||| L = L) (hu : Keeps L u s) :
    Keeps L u (State.movesDone s e) := by
  unfold State.movesDone
  try dsimp only
  repeat' first
    | with_reducible assumption
    | exact lor_sub hL rfl
    | with_reducible apply Keeps.ite <;> intro _
    | with_reducible apply State.setEngineSt_keeps
    | split

theorem State.placeMove_keeps {L : Nat} {u : State} (s : State) (st : Nat) (hL : 64 ||| L = L) (hu : Keeps L u s) :
    Keeps L u (State.placeMove s st) := by
  unfold State.placeMove
  try dsimp only
  repeat' first
    | with_reducible assumption
    | exact lor_sub hL rfl
    | with_reducible apply State.setStream_keeps
    | split

theorem State.beginMoves_keeps {L : Nat} {u : State} (s : State) (e : Nat) (hL : 65 ||| L = L) (hu : Keeps L u s) :
    Keeps L u (State.beginMoves s e) := by
  unfold State.beginMoves
  try dsimp only
  repeat' first
    | with_reducible assumption
    | exact lor_sub hL rfl
    | with_reducible apply State.setStream_keeps
    | with_reducible apply State.placeMove_keeps
    | with_reducible apply State.wr_keeps
    | with_reducible apply Keeps.foldl
    | with_reducible apply Keeps.foldl_fst
    | intro _ _ _

theorem execDecOffline_keeps {L : Nat} {u : State} (engine : Nat) (s : State) (hL : 33554497 ||| L = L) (hu : Keeps L u s) :
    KeepsO L u (execDecOffline engine s) := by
  unfold execDecOffline
  try dsimp only
  repeat' first
    | with_reducible assumption
    | exact lor_sub hL rfl
    | with_reducible apply KeepsO.of_next
    | with_reducible apply KeepsO.ite <;> intro _
    | with_reducible apply Keeps.ite <;> intro _
    | with_reducible apply State.bar_keeps
    | refine (State.bar_keeps _ _ _ ?_ ?_ ?_).next _ (by with_reducible assumption)
    | with_reducible apply State.wr_keeps
    | with_reducible apply State.setEngineSt_keeps
    | with_reducible apply State.movesDone_keeps
    | with_reducible apply State.beginMoves_keeps
    | intro _ _
    | intro _
    | split

theorem State.placeWaiting_keeps {L : Nat} {u : State} (s : State) (hL : 64 ||| L = L) (hu : Keeps L u s) :
    Keeps L u (State.placeWaiting s) := by
  unfold State.placeWaiting
  try dsimp only
  repeat' first
    | with_reducible assumption
    | exact lor_sub hL rfl
    | with_reducible apply State.placeMove_keeps
    | with_reducible apply Keeps.foldl
    | with_reducible apply Keeps.foldl_fst
    | intro _ _ _

theorem execDecOnline_keeps {L : Nat} {u : State} (engine : Nat) (s : State) (hL : 33554497 ||| L = L) (hu : Keeps L u s) :
    KeepsO L u (execDecOnline engine s) := by
  unfold execDecOnline
  try dsimp only
  repeat' first
    | with_reducible assumption
    | exact lor_sub hL rfl
    | with_reducible apply KeepsO.of_next
    | with_reducible apply KeepsO.ite <;> intro _
    | with_reducible apply Keeps.ite <;> intro _
    | with_reducible apply State.bar_keeps
    | refine (State.bar_keeps _ _ _ ?_ ?_ ?_).next _ (by with_reducible assumption)
    | with_reducible apply State.wr_keeps
    | with_reducible apply State.setEngineSt_keeps
    | with_reducible apply State.placeWaiting_keeps
    | intro _ _
    | intro _
    | split

theorem State.failDec_keeps {L : Nat} {u : State} (s : State) (c : Cmd) (st : Nat) (ring : Nat) (code : Nat) (d0 : Nat) (d1 : Nat) (hL : 8388639 ||| L = L) (hu : Keeps L u s) :
    Keeps L u (State.failDec s c st ring code d0 d1) := by
  unfold State.failDec
  try dsimp only
  repeat' first
    | with_reducible assumption
    | exact lor_sub hL rfl
    | with_reducible apply State.file_keeps
    | with_reducible apply State.setErr_keeps
    | with_reducible apply State.done_keeps
    | with_reducible apply State.sendTo_keeps

theorem State.freeRefs_keeps {L : Nat} {u : State} (s : State) (st : Nat) (hL : 9044059 ||| L = L) (hu : Keeps L u s) :
    Keeps L u (State.freeRefs s st) := by
  unfold State.freeRefs
  try dsimp only
  repeat' first
    | with_reducible assumption
    | exact lor_sub hL rfl
    | with_reducible apply State.setStream_keeps
    | with_reducible apply State.uncommit_keeps
    | with_reducible apply State.freeAll_keeps

theorem State.openFails_keeps {L : Nat} {u : State} (s : State) (c : Cmd) (st : Nat) (k : Nat) (code : Nat) (d0 : Nat) (d1 : Nat) (hL : 8388703 ||| L = L) (hu : Keeps L u s) :
    Keeps L u (State.openFails s c st k code d0 d1) := by
  unfold State.openFails
  try dsimp only
  repeat' first
    | with_reducible assumption
    | exact lor_sub hL rfl
    | with_reducible apply Keeps.ite <;> intro _
    | with_reducible apply State.setStream_keeps
    | with_reducible apply State.failDec_keeps
    | split

theorem State.newOpening_keeps {L : Nat} {u : State} (s : State) (st : Nat) (hL : 4 ||| L = L) (hu : Keeps L u s) :
    Keeps L u (State.newOpening s st) := by
  unfold State.newOpening
  try dsimp only
  repeat' first
    | with_reducible assumption
    | with_reducible apply Keeps.ite <;> intro _
    | split
    | refine Keeps.upd hL ?_

theorem State.restartCounters_keeps {L : Nat} {u : State} (s : State) (st : Nat) (live : Bool) (hL : 8388609 ||| L = L) (hu : Keeps L u s) :
    Keeps L u (State.restartCounters s st live) := by
  unfold State.restartCounters
  try dsimp only
  repeat' first
    | with_reducible assumption
    | exact lor_sub hL rfl
    | with_reducible apply Keeps.ite <;> intro _
    | with_reducible apply State.setCnt_keeps
    | with_reducible apply State.setReg_keeps
    | with_reducible apply Keeps.foldl
    | with_reducible apply Keeps.foldl_fst
    | intro _ _ _
    | split

theorem State.openOn_keeps {L : Nat} {u : State} (s : State) (c : Cmd) (st : Nat) (e : Nat) (contract : BitVec 512) (hL : 9044831 ||| L = L) (hu : Keeps L u s) :
    Keeps L u (State.openOn s c st e contract) := by
  unfold State.openOn
  try dsimp only
  repeat' first
    | with_reducible assumption
    | exact lor_sub hL rfl
    | with_reducible apply Keeps.ite <;> intro _
    | with_reducible apply State.newOpening_keeps
    | with_reducible apply State.restartCounters_keeps
    | with_reducible apply State.setStream_keeps
    | with_reducible apply State.dropKept_keeps
    | with_reducible apply State.wr_keeps
    | with_reducible apply State.setFlow_keeps
    | with_reducible apply State.done_keeps
    | with_reducible apply State.enginesNote_keeps
    | split

theorem State.openStream_keeps {L : Nat} {u : State} (s : State) (c : Cmd) (st : Nat) (contract : BitVec 512) (hL : 9044831 ||| L = L) (hu : Keeps L u s) :
    Keeps L u (State.openStream s c st contract) := by
  unfold State.openStream
  try dsimp only
  repeat' first
    | with_reducible assumption
    | exact lor_sub hL rfl
    | with_reducible apply Keeps.ite <;> intro _
    | with_reducible apply State.openFails_keeps
    | refine State.commit_keeps _ _ ?_ ?_ _ (by with_reducible assumption)
    | with_reducible apply State.openOn_keeps
    | split

theorem State.noteFseq_keeps {L : Nat} {u : State} (s : State) (j : Nat) (st : Nat) (seq : Nat) (hL : 4 ||| L = L) (hu : Keeps L u s) :
    Keeps L u (State.noteFseq s j st seq) := by
  unfold State.noteFseq
  try dsimp only
  repeat' first
    | with_reducible assumption
    | with_reducible apply Keeps.ite <;> intro _
    | split
    | refine Keeps.upd hL ?_

theorem State.noteRap_keeps {L : Nat} {u : State} (s : State) (j : Nat) (hL : 4 ||| L = L) (hu : Keeps L u s) :
    Keeps L u (State.noteRap s j) := by
  unfold State.noteRap
  try dsimp only
  repeat' first
    | with_reducible assumption
    | exact lor_sub hL rfl
    | with_reducible apply Keeps.ite <;> intro _
    | with_reducible apply State.updCmd_keeps
    | split
    | refine Keeps.upd hL ?_

theorem execStreamOpen_keeps {L : Nat} {u : State} (jidx : Nat) (contract : BitVec 512) (s : State) (hL : 42599263 ||| L = L) (hu : Keeps L u s) :
    KeepsO L u (execStreamOpen jidx contract s) := by
  unfold execStreamOpen
  try dsimp only
  repeat' first
    | with_reducible assumption
    | exact lor_sub hL rfl
    | with_reducible apply KeepsO.of_next
    | with_reducible apply KeepsO.ite <;> intro _
    | with_reducible apply Keeps.ite <;> intro _
    | with_reducible apply State.done_keeps
    | with_reducible apply State.fetchedObj_keeps
    | refine Keeps.of_fst (State.fetchedObj_keeps _ _ ?_ ?_) (by with_reducible assumption)
    | with_reducible apply State.setStream_keeps
    | with_reducible apply State.wr_keeps
    | with_reducible apply State.openStream_keeps
    | split

theorem State.takeFrame_keeps {L : Nat} {u : State} (s : State) (st : Nat) (f : Frame) (a3 : Option Nat) (job : Nat) (name : Nat × Nat × Nat) (hL : 24644 ||| L = L) (hu : Keeps L u s) :
    Keeps L u (State.takeFrame s st f a3 job name) := by
  unfold State.takeFrame
  try dsimp only
  repeat' first
    | with_reducible assumption
    | exact lor_sub hL rfl
    | with_reducible apply State.setStream_keeps
    | with_reducible apply State.noteFseq_keeps
    | with_reducible apply State.addJob_keeps
    | split

theorem execAuSubmit_keeps {L : Nat} {u : State} (jidx : Nat) (s : State) (hL : 41967711 ||| L = L) (hu : Keeps L u s) :
    KeepsO L u (execAuSubmit jidx s) := by
  unfold execAuSubmit
  try dsimp only
  repeat' first
    | with_reducible assumption
    | exact lor_sub hL rfl
    | with_reducible apply KeepsO.of_next
    | with_reducible apply KeepsO.ite <;> intro _
    | with_reducible apply Keeps.ite <;> intro _
    | with_reducible apply State.done_keeps
    | with_reducible apply State.failDec_keeps
    | with_reducible apply State.failCmd_keeps
    | with_reducible apply State.updCmd_keeps
    | with_reducible apply State.takeFrame_keeps
    | with_reducible apply State.startRead_keeps
    | split

theorem State.auFetched_keeps {L : Nat} {u : State} (s : State) (f : Frame) (hL : 33554438 ||| L = L) (hu : Keeps L u s) :
    Keeps L u (State.auFetched s f).1 := by
  unfold State.auFetched
  try dsimp only
  repeat' first
    | with_reducible assumption
    | exact lor_sub hL rfl
    | with_reducible apply State.fetched_keeps
    | refine Keeps.of_fst (State.fetched_keeps _ _ _ _ ?_ ?_) (by with_reducible assumption)
    | split

theorem execAuFetchDone_keeps {L : Nat} {u : State} (stream : Nat) (seq : Nat) (s : State) (hL : 42598495 ||| L = L) (hu : Keeps L u s) :
    KeepsO L u (execAuFetchDone stream seq s) := by
  unfold execAuFetchDone
  try dsimp only
  repeat' first
    | with_reducible assumption
    | exact lor_sub hL rfl
    | with_reducible apply KeepsO.of_next
    | with_reducible apply KeepsO.ite <;> intro _
    | with_reducible apply Keeps.ite <;> intro _
    | with_reducible apply State.auFetched_keeps
    | refine Keeps.of_fst (State.auFetched_keeps _ _ ?_ ?_) (by with_reducible assumption)
    | with_reducible apply State.draw_keeps
    | refine Keeps.of_fst (State.draw_keeps _ _ _ _ _ _ _ ?_ ?_) (by with_reducible assumption)
    | with_reducible apply State.setStream_keeps
    | split

theorem State.dropLive_keeps {L : Nat} {u : State} (s : State) (st : Nat) (f : Frame) (hL : 44015835 ||| L = L) (hu : Keeps L u s) :
    Keeps L u (State.dropLive s st f) := by
  unfold State.dropLive
  try dsimp only
  repeat' first
    | with_reducible assumption
    | exact lor_sub hL rfl
    | with_reducible apply State.loseLive_keeps
    | with_reducible apply State.cnt_keeps

theorem State.frameError_keeps {L : Nat} {u : State} (s : State) (st : Nat) (f : Frame) (code : Nat) (d0 : Nat) (d1 : Nat) (hL : 2 ||| L = L) (hu : Keeps L u s) :
    Keeps L u (State.frameError s st f code d0 d1) := by
  unfold State.frameError
  try dsimp only
  repeat' first
    | with_reducible assumption
    | exact lor_sub hL rfl
    | with_reducible apply State.sendTo_keeps
    | split

theorem State.auDone_keeps {L : Nat} {u : State} (s : State) (f : Frame) (code : Nat) (hL : 6 ||| L = L) (hu : Keeps L u s) :
    Keeps L u (State.auDone s f code) := by
  unfold State.auDone
  try dsimp only
  repeat' first
    | with_reducible assumption
    | exact lor_sub hL rfl
    | with_reducible apply State.done_keeps
    | split

theorem State.haltQueued_keeps {L : Nat} {u : State} (s : State) (st : Nat) (f : Frame) (code : Nat) (hL : 44015775 ||| L = L) (hu : Keeps L u s) :
    Keeps L u (State.haltQueued s st f code) := by
  unfold State.haltQueued
  try dsimp only
  repeat' first
    | with_reducible assumption
    | exact lor_sub hL rfl
    | with_reducible apply State.setErr_keeps
    | with_reducible apply State.auDone_keeps
    | with_reducible apply State.freeFrame_keeps
    | with_reducible apply State.dropJob_keeps
    | with_reducible apply State.frameError_keeps
    | with_reducible apply State.file_keeps

theorem State.haltStream_keeps {L : Nat} {u : State} (s : State) (st : Nat) (f : Frame) (code : Nat) (d0 : Nat) (d1 : Nat) (hL : 44015839 ||| L = L) (hu : Keeps L u s) :
    Keeps L u (State.haltStream s st f code d0 d1) := by
  unfold State.haltStream
  try dsimp only
  repeat' first
    | with_reducible assumption
    | exact lor_sub hL rfl
    | with_reducible apply Keeps.ite <;> intro _
    | with_reducible apply State.freeRefs_keeps
    | with_reducible apply State.freeFrame_keeps
    | with_reducible apply State.dropJob_keeps
    | with_reducible apply State.frameError_keeps
    | with_reducible apply State.decErr_keeps
    | with_reducible apply State.setReg_keeps
    | with_reducible apply State.wr_keeps
    | with_reducible apply State.setStream_keeps
    | with_reducible apply State.haltQueued_keeps
    | with_reducible apply State.auDone_keeps
    | with_reducible apply Keeps.foldl
    | with_reducible apply Keeps.foldl_fst
    | intro _ _ _
    | split

theorem State.activate_keeps {L : Nat} {u : State} (s : State) (st : Nat) (svc : Nat) (ticket : Nat) (i : PicInfo) (q : SeqClaim) (hL : 9044059 ||| L = L) (hu : Keeps L u s) :
    ∀ t, State.activate s st svc ticket i q = some t → Keeps L u t := by
  intro t e
  unfold State.activate at e
  try dsimp only at e
  repeat' first
    | split at e
    | cases e
    | with_reducible assumption
    | exact lor_sub hL rfl
    | with_reducible apply Keeps.ite <;> intro _
    | with_reducible apply State.freeOld_keeps
    | with_reducible apply State.setStream_keeps
    | with_reducible apply State.draw_keeps
    | refine Keeps.of_fst (State.draw_keeps _ _ _ _ _ _ _ ?_ ?_) (by with_reducible assumption)
    | with_reducible apply State.wr_keeps
    | split

theorem State.drawPic_keeps {L : Nat} {u : State} (s : State) (f : Frame) (ticket : Nat) (mapBytes : Nat) (copies : Nat) (hL : 9043995 ||| L = L) (hu : Keeps L u s) :
    ∀ t x, State.drawPic s f ticket mapBytes copies = some (t, x) → Keeps L u t := by
  intro t x e
  have h1 : ∀ c n, Keeps L u (s.drawNow 2 c n f.bind.svc).1 := fun c n => State.drawNow_keeps _ _ _ _ _ (lor_sub hL rfl) hu
  unfold State.drawPic at e
  dsimp only at e
  split at e
  · exact absurd e (by simp)
  · split at e
    · simp only [Option.some.injEq, Prod.mk.injEq] at e
      exact e.1 ▸ h1 _ _
    · split at e
      · exact absurd e (by simp)
      · simp only [Option.some.injEq, Prod.mk.injEq] at e
        exact e.1 ▸ State.drawNow_keeps _ _ _ _ _ (lor_sub hL rfl) (h1 _ _)

theorem State.engage_keeps {L : Nat} {u : State} (s : State) (e : Nat) (p : Pic) (hL : 129 ||| L = L) (hu : Keeps L u s) :
    Keeps L u (State.engage s e p) := by
  unfold State.engage
  try dsimp only
  repeat' first
    | with_reducible assumption
    | exact lor_sub hL rfl
    | with_reducible apply Keeps.ite <;> intro _
    | with_reducible apply State.setEngine_keeps
    | with_reducible apply State.wr_keeps
    | with_reducible apply State.setEngineSt_keeps
    | split

theorem State.popFrame_keeps {L : Nat} {u : State} (s : State) (st : Nat) (hL : 64 ||| L = L) (hu : Keeps L u s) :
    Keeps L u (State.popFrame s st) := by
  unfold State.popFrame
  try dsimp only
  repeat' first
    | with_reducible assumption
    | exact lor_sub hL rfl
    | with_reducible apply State.setStream_keeps

theorem State.discont_keeps {L : Nat} {u : State} (s : State) (st : Nat) (f : Frame) (hL : 9045595 ||| L = L) (hu : Keeps L u s) :
    Keeps L u (State.discont s st f) := by
  unfold State.discont
  try dsimp only
  repeat' first
    | with_reducible assumption
    | exact lor_sub hL rfl
    | with_reducible apply Keeps.ite <;> intro _
    | with_reducible apply State.setStream_keeps
    | with_reducible apply State.dropKept_keeps
    | with_reducible apply State.setSgs_keeps
    | split

theorem State.beginPic_keeps {L : Nat} {u : State} (s : State) (e : Nat) (st : Nat) (f : Frame) (p : Pic) (run : Nat) (hL : 197 ||| L = L) (hu : Keeps L u s) :
    Keeps L u (State.beginPic s e st f p run) := by
  unfold State.beginPic
  try dsimp only
  repeat' first
    | with_reducible assumption
    | exact lor_sub hL rfl
    | with_reducible apply Keeps.ite <;> intro _
    | with_reducible apply State.wr_keeps
    | with_reducible apply State.setStream_keeps
    | with_reducible apply State.noteRap_keeps
    | with_reducible apply State.engage_keeps
    | split

theorem State.haltPic_keeps {L : Nat} {u : State} (s : State) (st : Nat) (f : Frame) (late : Bool) (code : Nat) (d0 : Nat) (d1 : Nat) (hL : 44015839 ||| L = L) (hu : Keeps L u s) :
    Keeps L u (State.haltPic s st f late code d0 d1) := by
  unfold State.haltPic
  try dsimp only
  repeat' first
    | with_reducible assumption
    | exact lor_sub hL rfl
    | with_reducible apply Keeps.ite <;> intro _
    | with_reducible apply State.haltStream_keeps
    | with_reducible apply State.cnt_keeps
    | split

theorem State.launch_keeps {L : Nat} {u : State} (s : State) (e : Nat) (st : Nat) (f : Frame) (i : PicInfo) (act : Option SeqClaim) (empty : Bool) (late : Bool) (run : Nat) (hL : 44015839 ||| L = L) (hu : Keeps L u s) :
    ∀ t, State.launch s e st f i act empty late run = some t → Keeps L u t := by
  intro t e
  unfold State.launch at e
  try dsimp only at e
  repeat' first
    | split at e
    | cases e
    | with_reducible assumption
    | exact lor_sub hL rfl
    | with_reducible apply Keeps.ite <;> intro _
    | with_reducible apply State.dropLive_keeps
    | with_reducible apply State.beginPic_keeps
    | refine State.drawPic_keeps _ _ _ _ _ ?_ ?_ _ _ (by with_reducible assumption)
    | split

theorem State.activateClaim_keeps {L : Nat} {u : State} (s : State) (st : Nat) (f : Frame) (i : PicInfo) (claim : Option SeqClaim) (hL : 9044059 ||| L = L) (hu : Keeps L u s) :
    ∀ t, State.activateClaim s st f i claim = some t → Keeps L u t := by
  intro t e
  unfold State.activateClaim at e
  try dsimp only at e
  repeat' first
    | split at e
    | cases e
    | with_reducible assumption
    | exact lor_sub hL rfl
    | refine State.activate_keeps _ _ _ _ _ _ ?_ ?_ _ (by with_reducible assumption)
    | split

theorem State.startPic_keeps {L : Nat} {u : State} (s : State) (e : Nat) (st : Nat) (f : Frame) (i : PicInfo) (hL : 44017375 ||| L = L) (hu : Keeps L u s) :
    Keeps L u (State.startPic s e st f i) := by
  unfold State.startPic
  try dsimp only
  repeat' first
    | with_reducible assumption
    | exact lor_sub hL rfl
    | with_reducible apply Keeps.ite <;> intro _
    | with_reducible apply State.discont_keeps
    | with_reducible apply State.popFrame_keeps
    | with_reducible apply State.freeFrame_keeps
    | with_reducible apply State.dropLive_keeps
    | with_reducible apply State.haltPic_keeps
    | refine State.activateClaim_keeps _ _ _ _ _ ?_ ?_ _ (by with_reducible assumption)
    | refine State.launch_keeps _ _ _ _ _ _ _ _ _ ?_ ?_ _ (by with_reducible assumption)
    | with_reducible apply Keeps.getD
    | intro _ _
    | split

theorem execDecPictureChoice_keeps {L : Nat} {u : State} (engine : Nat) (info : PicInfo) (s : State) (hL : 44017375 ||| L = L) (hu : Keeps L u s) :
    KeepsO L u (execDecPictureChoice engine info s) := by
  unfold execDecPictureChoice
  try dsimp only
  repeat' first
    | with_reducible assumption
    | exact lor_sub hL rfl
    | with_reducible apply KeepsO.of_next
    | with_reducible apply KeepsO.ite <;> intro _
    | with_reducible apply Keeps.ite <;> intro _
    | with_reducible apply State.startPic_keeps
    | split

theorem State.countPic_keeps {L : Nat} {u : State} (s : State) (e : Nat) (p : Pic) (concealed : Bool) (tainted : Bool) (unusable : Bool) (hL : 8388609 ||| L = L) (hu : Keeps L u s) :
    Keeps L u (State.countPic s e p concealed tainted unusable) := by
  unfold State.countPic
  try dsimp only
  repeat' first
    | with_reducible assumption
    | exact lor_sub hL rfl
    | with_reducible apply Keeps.ite <;> intro _
    | with_reducible apply State.cnt_keeps
    | with_reducible apply State.wr64_keeps
    | with_reducible apply State.bump_keeps
    | split

theorem State.reshape_keeps {L : Nat} {u : State} (s : State) (st : Nat) (n : Nat) (hL : 512 ||| L = L) (hu : Keeps L u s) :
    Keeps L u (State.reshape s st n) := by
  unfold State.reshape
  try dsimp only
  repeat' first
    | with_reducible assumption
    | with_reducible apply Keeps.ite <;> intro _
    | split
    | refine Keeps.upd hL ?_

theorem State.undoPic_keeps {L : Nat} {u : State} (s : State) (p : Pic) (hL : 9044571 ||| L = L) (hu : Keeps L u s) :
    Keeps L u (State.undoPic s p) := by
  unfold State.undoPic
  try dsimp only
  repeat' first
    | with_reducible assumption
    | exact lor_sub hL rfl
    | with_reducible apply Keeps.ite <;> intro _
    | with_reducible apply State.freeAll_keeps
    | with_reducible apply State.reshape_keeps
    | with_reducible apply State.resumeDec_keeps
    | with_reducible apply State.setStream_keeps
    | with_reducible apply Keeps.foldl
    | with_reducible apply Keeps.foldl_fst
    | intro _ _ _
    | split

theorem State.nextPic_keeps {L : Nat} {u : State} (s : State) (e : Nat) (hL : 9044699 ||| L = L) (hu : Keeps L u s) :
    Keeps L u (State.nextPic s e) := by
  unfold State.nextPic
  try dsimp only
  repeat' first
    | with_reducible assumption
    | exact lor_sub hL rfl
    | with_reducible apply Keeps.ite <;> intro _
    | with_reducible apply State.wr_keeps
    | with_reducible apply State.setEngine_keeps
    | with_reducible apply State.movesDone_keeps
    | with_reducible apply State.beginMoves_keeps
    | with_reducible apply State.undoPic_keeps
    | with_reducible apply State.setEngineSt_keeps
    | with_reducible apply State.engage_keeps
    | split

theorem State.noteDone_keeps {L : Nat} {u : State} (s : State) (p : Pic) (concealed : Bool) (tainted : Bool) (hL : 9044059 ||| L = L) (hu : Keeps L u s) :
    Keeps L u (State.noteDone s p concealed tainted) := by
  unfold State.noteDone
  try dsimp only
  repeat' first
    | with_reducible assumption
    | exact lor_sub hL rfl
    | with_reducible apply Keeps.ite <;> intro _
    | with_reducible apply State.freeOld_keeps
    | with_reducible apply State.setStream_keeps
    | split

theorem execDecPictureDone_keeps {L : Nat} {u : State} (engine : Nat) (s : State) (hL : 9052891 ||| L = L) (hu : Keeps L u s) :
    KeepsO L u (execDecPictureDone engine s) := by
  unfold execDecPictureDone
  try dsimp only
  repeat' first
    | with_reducible assumption
    | exact lor_sub hL rfl
    | with_reducible apply KeepsO.of_next
    | with_reducible apply KeepsO.ite <;> intro _
    | with_reducible apply Keeps.ite <;> intro _
    | with_reducible apply State.countPic_keeps
    | with_reducible apply State.decErr_keeps
    | with_reducible apply State.noteDone_keeps
    | with_reducible apply State.freeFrame_keeps
    | with_reducible apply State.setEngine_keeps
    | with_reducible apply State.setStream_keeps
    | with_reducible apply State.updJob_keeps
    | with_reducible apply State.settle_keeps
    | with_reducible apply State.nextPic_keeps
    | split
    | refine Keeps.upd hL ?_

theorem execDecode_keeps {L : Nat} {u : State} (job : Nat) (node : Nat) (s : State) (hL : 43983583 ||| L = L) (hu : Keeps L u s) :
    KeepsO L u (execDecode job node s) := by
  unfold execDecode
  try dsimp only
  repeat' first
    | with_reducible assumption
    | exact lor_sub hL rfl
    | with_reducible apply KeepsO.of_next
    | with_reducible apply KeepsO.ite <;> intro _
    | with_reducible apply Keeps.ite <;> intro _
    | with_reducible apply State.cnt_keeps
    | with_reducible apply State.commitNode_keeps
    | split

end Sys2Proof.Machine
end

