-- ==== Sys2Proof/Laws/KeepStop.lean ====
section
/-! SUPPORT. Every operation of Machine/Stop.lean keeps what `Keeps` says. -/

set_option Elab.async false

namespace Sys2Proof.Machine

theorem State.drawCtx_keeps {L : Nat} {u : State} (s : State) (c : Nat) (hL : 9043995 ||| L = L) (hu : Keeps L u s) :
    Keeps L u (State.drawCtx s c).1 := by
  unfold State.drawCtx
  try dsimp only
  repeat' first
    | with_reducible assumption
    | exact lor_sub hL rfl
    | with_reducible apply Keeps.ite <;> intro _
    | with_reducible apply State.draw_keeps
    | refine Keeps.of_fst (State.draw_keeps _ _ _ _ _ _ _ ?_ ?_) (by with_reducible assumption)
    | split

theorem State.discardRuns_keeps {L : Nat} {u : State} (s : State) (c : Nat) (l : List RunTile) (hL : 8421377 ||| L = L) (hu : Keeps L u s) :
    Keeps L u (State.discardRuns s c l) := by
  unfold State.discardRuns
  try dsimp only
  repeat' first
    | with_reducible assumption
    | exact lor_sub hL rfl
    | with_reducible apply Keeps.ite <;> intro _
    | with_reducible apply State.setCore_keeps
    | with_reducible apply State.bump_keeps
    | with_reducible apply State.cnt_keeps
    | split

theorem State.requeue_keeps {L : Nat} {u : State} (s : State) (l : List TileJob) (hL : 65536 ||| L = L) (hu : Keeps L u s) :
    Keeps L u (State.requeue s l) := by
  unfold State.requeue
  try dsimp only
  repeat' first
    | with_reducible assumption
    | refine Keeps.upd hL ?_

theorem State.enterLehr_keeps {L : Nat} {u : State} (s : State) (c : Nat) (why : Nat) (ctx : Option SavedCtx) (wants : Option TileJob) (hL : 8486913 ||| L = L) (hu : Keeps L u s) :
    Keeps L u (State.enterLehr s c why ctx wants) := by
  unfold State.enterLehr
  try dsimp only
  repeat' first
    | with_reducible assumption
    | exact lor_sub hL rfl
    | with_reducible apply Keeps.ite <;> intro _
    | with_reducible apply State.discardRuns_keeps
    | with_reducible apply State.setCore_keeps
    | with_reducible apply State.requeue_keeps
    | with_reducible apply State.wr_keeps
    | split

theorem State.loseTiles_keeps {L : Nat} {u : State} (s : State) (l : List (Nat × Nat × Nat × Nat)) (hL : 73728 ||| L = L) (hu : Keeps L u s) :
    Keeps L u (State.loseTiles s l) := by
  unfold State.loseTiles
  try dsimp only
  repeat' first
    | with_reducible assumption
    | exact lor_sub hL rfl
    | with_reducible apply State.requeue_keeps
    | with_reducible apply State.updNode_keeps
    | with_reducible apply Keeps.foldl
    | with_reducible apply Keeps.foldl_fst
    | intro _ _ _
    | split

theorem State.restartGroup_keeps {L : Nat} {u : State} (s : State) (h : Hold) (hL : 73728 ||| L = L) (hu : Keeps L u s) :
    Keeps L u (State.restartGroup s h) := by
  unfold State.restartGroup
  try dsimp only
  repeat' first
    | with_reducible assumption
    | exact lor_sub hL rfl
    | with_reducible apply Keeps.ite <;> intro _
    | with_reducible apply State.updNode_keeps
    | with_reducible apply State.requeue_keeps
    | split
    | refine Keeps.upd hL ?_

theorem State.stopCore_keeps {L : Nat} {u : State} (s : State) (c : Nat) (why : Nat) (hL : 9150491 ||| L = L) (hu : Keeps L u s) :
    Keeps L u (State.stopCore s c why) := by
  unfold State.stopCore
  try dsimp only
  repeat' first
    | with_reducible assumption
    | exact lor_sub hL rfl
    | with_reducible apply State.drawCtx_keeps
    | refine Keeps.of_fst (State.drawCtx_keeps _ _ ?_ ?_) (by with_reducible assumption)
    | with_reducible apply State.note_keeps
    | with_reducible apply State.stopEnd_keeps
    | with_reducible apply State.enterLehr_keeps
    | with_reducible apply State.file_keeps
    | with_reducible apply State.setErr_keeps
    | with_reducible apply State.discardRuns_keeps
    | with_reducible apply State.requeue_keeps
    | with_reducible apply State.setCore_keeps
    | with_reducible apply State.loseTiles_keeps
    | with_reducible apply State.restartGroup_keeps
    | with_reducible apply Keeps.foldl
    | with_reducible apply Keeps.foldl_fst
    | intro _ _ _
    | split

theorem State.hlthErr_keeps {L : Nat} {u : State} (s : State) (inst : Nat) (code : Nat) (d0 : optParam Nat 0) (d1 : optParam Nat 0) (hL : 8388633 ||| L = L) (hu : Keeps L u s) :
    Keeps L u (State.hlthErr s inst code d0 d1) := by
  unfold State.hlthErr
  try dsimp only
  repeat' first
    | with_reducible assumption
    | exact lor_sub hL rfl
    | with_reducible apply State.file_keeps
    | with_reducible apply State.setErr_keeps

theorem State.fenceFiled_keeps {L : Nat} {u : State} (s : State) (kind : Nat) (unit : Nat) (code : Nat) (own : Bool) (hL : 8388635 ||| L = L) (hu : Keeps L u s) :
    Keeps L u (State.fenceFiled s kind unit code own) := by
  unfold State.fenceFiled
  try dsimp only
  repeat' first
    | with_reducible assumption
    | exact lor_sub hL rfl
    | with_reducible apply Keeps.ite <;> intro _
    | with_reducible apply State.cnt_keeps
    | with_reducible apply State.devError_keeps
    | with_reducible apply State.hlthErr_keeps
    | split

theorem State.fenceNote_keeps {L : Nat} {u : State} (s : State) (hL : 8388635 ||| L = L) (hu : Keeps L u s) :
    Keeps L u (State.fenceNote s) := by
  unfold State.fenceNote
  try dsimp only
  repeat' first
    | with_reducible assumption
    | exact lor_sub hL rfl
    | with_reducible apply Keeps.ite <;> intro _
    | with_reducible apply State.wr_keeps
    | with_reducible apply State.setReg_keeps
    | with_reducible apply State.devError_keeps
    | with_reducible apply State.hlthErr_keeps
    | split
    | refine Keeps.upd hL ?_

theorem State.fenceCore_keeps {L : Nat} {u : State} (s : State) (c : Nat) (hL : 9150491 ||| L = L) (hu : Keeps L u s) :
    Keeps L u (State.fenceCore s c) := by
  unfold State.fenceCore
  try dsimp only
  repeat' first
    | with_reducible assumption
    | exact lor_sub hL rfl
    | with_reducible apply State.discardRuns_keeps
    | with_reducible apply State.setCore_keeps
    | with_reducible apply State.free1_keeps
    | with_reducible apply State.requeue_keeps
    | with_reducible apply State.wr_keeps
    | with_reducible apply State.loseTiles_keeps
    | with_reducible apply State.restartGroup_keeps
    | with_reducible apply State.note_keeps
    | with_reducible apply State.fenceNote_keeps
    | with_reducible apply Keeps.foldl
    | with_reducible apply Keeps.foldl_fst
    | intro _ _ _
    | split

theorem State.rerunJob_keeps {L : Nat} {u : State} (s : State) (id : Nat) (hL : 10200091 ||| L = L) (hu : Keeps L u s) :
    Keeps L u (State.rerunJob s id) := by
  unfold State.rerunJob
  try dsimp only
  repeat' first
    | with_reducible assumption
    | exact lor_sub hL rfl
    | with_reducible apply Keeps.ite <;> intro _
    | with_reducible apply State.dropTiles_keeps
    | with_reducible apply State.freeAll_keeps
    | with_reducible apply State.updJob_keeps
    | with_reducible apply Keeps.foldl
    | with_reducible apply Keeps.foldl_fst
    | intro _ _ _
    | split
    | refine Keeps.upd hL ?_

end Sys2Proof.Machine
end

