-- ==== Sys2Proof/Laws/KeepDrain.lean ====
section
/-! SUPPORT. Every operation of Machine/Drain.lean keeps what `Keeps` says. -/

set_option Elab.async false

namespace Sys2Proof.Machine

theorem execCkInject_keeps {L : Nat} {u : State} (core : Nat) (s : State) (hL : 33554433 ||| L = L) (hu : Keeps L u s) :
    KeepsO L u (execCkInject core s) := by
  unfold execCkInject
  try dsimp only
  repeat' first
    | with_reducible assumption
    | exact lor_sub hL rfl
    | with_reducible apply KeepsO.of_next
    | with_reducible apply State.bar_keeps
    | refine (State.bar_keeps _ _ _ ?_ ?_ ?_).next _ (by with_reducible assumption)
    | with_reducible apply State.wr_keeps
    | intro _ _
    | intro _

theorem execCoreOffline_keeps {L : Nat} {u : State} (core : Nat) (s : State) (hL : 42704923 ||| L = L) (hu : Keeps L u s) :
    KeepsO L u (execCoreOffline core s) := by
  unfold execCoreOffline
  try dsimp only
  repeat' first
    | with_reducible assumption
    | exact lor_sub hL rfl
    | with_reducible apply KeepsO.of_next
    | with_reducible apply KeepsO.ite <;> intro _
    | with_reducible apply Keeps.ite <;> intro _
    | with_reducible apply State.bar_keeps
    | refine (State.bar_keeps _ _ _ ?_ ?_ ?_).next _ (by with_reducible assumption)
    | with_reducible apply State.wr_keeps
    | with_reducible apply State.stopCore_keeps
    | with_reducible apply State.setCore_keeps
    | intro _ _
    | intro _
    | split

theorem execCoreOnline_keeps {L : Nat} {u : State} (core : Nat) (s : State) (hL : 33554433 ||| L = L) (hu : Keeps L u s) :
    KeepsO L u (execCoreOnline core s) := by
  unfold execCoreOnline
  try dsimp only
  repeat' first
    | with_reducible assumption
    | exact lor_sub hL rfl
    | with_reducible apply KeepsO.of_next
    | with_reducible apply KeepsO.ite <;> intro _
    | with_reducible apply Keeps.ite <;> intro _
    | with_reducible apply State.bar_keeps
    | refine (State.bar_keeps _ _ _ ?_ ?_ ?_).next _ (by with_reducible assumption)
    | with_reducible apply State.wr_keeps
    | with_reducible apply State.note_keeps
    | intro _ _
    | intro _
    | split

theorem execMrvProbe_keeps {L : Nat} {u : State} (core : Nat) (s : State) (hL : 33554433 ||| L = L) (hu : Keeps L u s) :
    KeepsO L u (execMrvProbe core s) := by
  unfold execMrvProbe
  try dsimp only
  repeat' first
    | with_reducible assumption
    | exact lor_sub hL rfl
    | with_reducible apply KeepsO.of_next
    | with_reducible apply KeepsO.ite <;> intro _
    | with_reducible apply Keeps.ite <;> intro _
    | with_reducible apply State.bar_keeps
    | refine (State.bar_keeps _ _ _ ?_ ?_ ?_).next _ (by with_reducible assumption)
    | with_reducible apply State.setReg_keeps
    | with_reducible apply State.wr_keeps
    | intro _ _
    | intro _
    | split

theorem State.moveTile_keeps {L : Nat} {u : State} (s : State) (c : Nat) (r : RunTile) (hL : 98304 ||| L = L) (hu : Keeps L u s) :
    Keeps L u (State.moveTile s c r) := by
  unfold State.moveTile
  try dsimp only
  repeat' first
    | with_reducible assumption
    | exact lor_sub hL rfl
    | with_reducible apply State.setCore_keeps
    | with_reducible apply State.requeue_keeps

theorem State.tblParity_keeps {L : Nat} {u : State} (s : State) (c : Nat) (r : RunTile) (hL : 9154587 ||| L = L) (hu : Keeps L u s) :
    Keeps L u (State.tblParity s c r) := by
  unfold State.tblParity
  try dsimp only
  repeat' first
    | with_reducible assumption
    | exact lor_sub hL rfl
    | with_reducible apply Keeps.ite <;> intro _
    | with_reducible apply State.cnt_keeps
    | with_reducible apply State.coreErr_keeps
    | with_reducible apply State.moveTile_keeps
    | with_reducible apply State.fenceFiled_keeps
    | with_reducible apply State.fenceCore_keeps
    | split
    | refine Keeps.upd hL ?_

theorem State.failTile_keeps {L : Nat} {u : State} (s : State) (c : Nat) (r : RunTile) (row : Nat) (lane : Option Nat) (hL : 8486937 ||| L = L) (hu : Keeps L u s) :
    Keeps L u (State.failTile s c r row lane) := by
  unfold State.failTile
  try dsimp only
  repeat' first
    | with_reducible assumption
    | exact lor_sub hL rfl
    | with_reducible apply Keeps.ite <;> intro _
    | with_reducible apply State.cnt_keeps
    | with_reducible apply State.coreErr_keeps
    | with_reducible apply State.moveTile_keeps
    | with_reducible apply State.bump_keeps
    | with_reducible apply State.wr_keeps
    | with_reducible apply State.setCore_keeps
    | split

theorem execDrainRow_keeps {L : Nat} {u : State} (core : Nat) (row : Nat) (lane : Nat) (flip : BitVec 32) (parity : Bool) (s : State) (hL : 9154587 ||| L = L) (hu : Keeps L u s) :
    KeepsO L u (execDrainRow core row lane flip parity s) := by
  unfold execDrainRow
  try dsimp only
  repeat' first
    | with_reducible assumption
    | exact lor_sub hL rfl
    | with_reducible apply KeepsO.of_next
    | with_reducible apply KeepsO.ite <;> intro _
    | with_reducible apply Keeps.ite <;> intro _
    | with_reducible apply State.note_keeps
    | with_reducible apply State.stopEnd_keeps
    | with_reducible apply State.tblParity_keeps
    | with_reducible apply State.setCore_keeps
    | with_reducible apply State.wr_keeps
    | with_reducible apply State.cnt_keeps
    | with_reducible apply State.failTile_keeps
    | split
    | refine Keeps.upd hL ?_

theorem execCheckRunDone_keeps {L : Nat} {u : State} (core : Nat) (pass : Bool) (s : State) (hL : 9150491 ||| L = L) (hu : Keeps L u s) :
    KeepsO L u (execCheckRunDone core pass s) := by
  unfold execCheckRunDone
  try dsimp only
  repeat' first
    | with_reducible assumption
    | exact lor_sub hL rfl
    | with_reducible apply KeepsO.of_next
    | with_reducible apply KeepsO.ite <;> intro _
    | with_reducible apply Keeps.ite <;> intro _
    | with_reducible apply State.setCore_keeps
    | with_reducible apply State.wr_keeps
    | with_reducible apply State.bump_keeps
    | with_reducible apply State.cnt_keeps
    | with_reducible apply State.devError_keeps
    | with_reducible apply State.coreErr_keeps
    | with_reducible apply State.fenceFiled_keeps
    | with_reducible apply State.fenceCore_keeps
    | split

end Sys2Proof.Machine
end

