-- ==== Sys2Proof/Laws/KeepEgr.lean ====
section
/-! SUPPORT. Every operation of Machine/Egr.lean keeps what `Keeps` says. -/

set_option Elab.async false

namespace Sys2Proof.Machine

theorem State.hifErr_keeps {L : Nat} {u : State} (s : State) (code : Nat) (ring : Nat) (addr : Nat) (d0 : Nat) (d1 : Nat) (hL : 8388633 ||| L = L) (hu : Keeps L u s) :
    Keeps L u (State.hifErr s code ring addr d0 d1) := by
  unfold State.hifErr
  try dsimp only
  repeat' first
    | with_reducible assumption
    | exact lor_sub hL rfl
    | with_reducible apply Keeps.ite <;> intro _
    | with_reducible apply State.setErr_keeps
    | with_reducible apply State.wr64_keeps
    | with_reducible apply State.file_keeps
    | split

theorem State.postRec_keeps {L : Nat} {u : State} (s : State) (pos : Nat) (hL : 33554432 ||| L = L) (hu : Keeps L u s) :
    Keeps L u (State.postRec s pos) := by
  unfold State.postRec
  try dsimp only
  repeat' first
    | with_reducible assumption
    | exact lor_sub hL rfl
    | with_reducible apply State.post_keeps
    | split

theorem State.dropPoison_keeps {L : Nat} {u : State} (s : State) (p : HostAccess → Bool) (hL : 2 ||| L = L) (hu : Keeps L u s) :
    Keeps L u (State.dropPoison s p) := by
  unfold State.dropPoison
  try dsimp only
  repeat' first
    | with_reducible assumption
    | refine Keeps.upd hL ?_

theorem State.haltCring_keeps {L : Nat} {u : State} (s : State) (c : Nat) (code : Nat) (addr : Nat) (d0 : Nat) (d1 : Nat) (hL : 8388635 ||| L = L) (hu : Keeps L u s) :
    Keeps L u (State.haltCring s c code addr d0 d1) := by
  unfold State.haltCring
  try dsimp only
  repeat' first
    | with_reducible assumption
    | exact lor_sub hL rfl
    | with_reducible apply State.hifErr_keeps
    | with_reducible apply State.setErr_keeps
    | with_reducible apply State.dropPoison_keeps
    | with_reducible apply State.setCring_keeps
    | with_reducible apply State.wr_keeps
    | with_reducible apply State.sendSvc_keeps

theorem State.journalLost_keeps {L : Nat} {u : State} (s : State) (j : Nat) (addr : Nat) (hL : 8388639 ||| L = L) (hu : Keeps L u s) :
    Keeps L u (State.journalLost s j addr) := by
  unfold State.journalLost
  try dsimp only
  repeat' first
    | with_reducible assumption
    | exact lor_sub hL rfl
    | with_reducible apply Keeps.ite <;> intro _
    | with_reducible apply State.hifErr_keeps
    | with_reducible apply State.haltCring_keeps
    | with_reducible apply State.dropPoison_keeps
    | with_reducible apply State.wr_keeps
    | with_reducible apply Keeps.foldl
    | with_reducible apply Keeps.foldl_fst
    | intro _ _ _
    | split
    | refine Keeps.upd hL ?_

theorem State.haltPring_keeps {L : Nat} {u : State} (s : State) (m : Nat) (code : Nat) (addr : Nat) (d0 : Nat) (d1 : Nat) (hL : 8388635 ||| L = L) (hu : Keeps L u s) :
    Keeps L u (State.haltPring s m code addr d0 d1) := by
  unfold State.haltPring
  try dsimp only
  repeat' first
    | with_reducible assumption
    | exact lor_sub hL rfl
    | with_reducible apply Keeps.ite <;> intro _
    | with_reducible apply State.hifErr_keeps
    | with_reducible apply State.setErr_keeps
    | with_reducible apply State.dropPoison_keeps
    | with_reducible apply State.wr_keeps
    | with_reducible apply State.devError_keeps
    | split

theorem State.putEntry_keeps {L : Nat} {u : State} (s : State) (e : Entry) (hL : 33554436 ||| L = L) (hu : Keeps L u s) :
    Keeps L u (State.putEntry s e) := by
  unfold State.putEntry
  try dsimp only
  repeat' first
    | with_reducible assumption
    | refine Keeps.upd hL ?_

theorem State.tellGaps_keeps {L : Nat} {u : State} (s : State) (st : Nat) (m : Nat) (n : Nat) (hL : 2 ||| L = L) (hu : Keeps L u s) :
    Keeps L u (State.tellGaps s st m n) := by
  unfold State.tellGaps
  try dsimp only
  repeat' first
    | with_reducible assumption
    | refine Keeps.upd hL ?_

theorem State.countOrdinal_keeps {L : Nat} {u : State} (s : State) (k : Bool × Nat × Nat × Nat) (hL : 4 ||| L = L) (hu : Keeps L u s) :
    Keeps L u (State.countOrdinal s k) := by
  unfold State.countOrdinal
  try dsimp only
  repeat' first
    | with_reducible assumption
    | with_reducible apply Keeps.ite <;> intro _
    | split
    | refine Keeps.upd hL ?_

theorem State.emitRecord_keeps {L : Nat} {u : State} (s : State) (p : Pn) (ring : Nat) (ringSeq : Nat) (hL : 33554436 ||| L = L) (hu : Keeps L u s) :
    Keeps L u (State.emitRecord s p ring ringSeq) := by
  unfold State.emitRecord
  try dsimp only
  repeat' first
    | with_reducible assumption
    | exact lor_sub hL rfl
    | with_reducible apply Keeps.ite <;> intro _
    | with_reducible apply State.countOrdinal_keeps
    | with_reducible apply State.postRec_keeps
    | split
    | refine Keeps.upd hL ?_

theorem State.releaseHeld_keeps {L : Nat} {u : State} (s : State) (stream : Nat) (j : Nat) (hL : 33554436 ||| L = L) (hu : Keeps L u s) :
    Keeps L u (State.releaseHeld s stream j) := by
  unfold State.releaseHeld
  try dsimp only
  repeat' first
    | with_reducible assumption
    | exact lor_sub hL rfl
    | with_reducible apply State.putEntry_keeps
    | with_reducible apply Keeps.foldl
    | with_reducible apply Keeps.foldl_fst
    | intro _ _ _

theorem State.releaseEntry_keeps {L : Nat} {u : State} (s : State) (j : Nat) (hL : 33554436 ||| L = L) (hu : Keeps L u s) :
    Keeps L u (State.releaseEntry s j) := by
  unfold State.releaseEntry
  try dsimp only
  repeat' first
    | with_reducible assumption
    | exact lor_sub hL rfl
    | with_reducible apply Keeps.ite <;> intro _
    | with_reducible apply State.putEntry_keeps
    | split

theorem State.rewriteEntry_keeps {L : Nat} {u : State} (s : State) (c : Cmd) (seq : Nat) (err : Nat) (hL : 33554436 ||| L = L) (hu : Keeps L u s) :
    Keeps L u (State.rewriteEntry s c seq err) := by
  unfold State.rewriteEntry
  try dsimp only
  repeat' first
    | with_reducible assumption
    | exact lor_sub hL rfl
    | with_reducible apply Keeps.ite <;> intro _
    | with_reducible apply State.putEntry_keeps
    | with_reducible apply State.releaseHeld_keeps
    | with_reducible apply State.releaseEntry_keeps
    | split

theorem State.finish_keeps {L : Nat} {u : State} (s : State) (p : Pn) (seq : Nat) (hL : 33554436 ||| L = L) (hu : Keeps L u s) :
    Keeps L u (State.finish s p seq) := by
  unfold State.finish
  try dsimp only
  repeat' first
    | with_reducible assumption
    | exact lor_sub hL rfl
    | with_reducible apply Keeps.ite <;> intro _
    | with_reducible apply State.rewriteEntry_keeps
    | split
    | refine Keeps.upd hL ?_

theorem State.postBlocks_keeps {L : Nat} {u : State} (s : State) (m : Nat) (hdr : BitVec 512) (exts : List Nat) (hL : 33554432 ||| L = L) (hu : Keeps L u s) :
    Keeps L u (State.postBlocks s m hdr exts) := by
  unfold State.postBlocks
  try dsimp only
  repeat' first
    | with_reducible assumption
    | split
    | refine Keeps.upd hL ?_

theorem State.advanceRing_keeps {L : Nat} {u : State} (s : State) (m : Nat) (b : Nat) (hL : 1 ||| L = L) (hu : Keeps L u s) :
    Keeps L u (State.advanceRing s m b) := by
  unfold State.advanceRing
  try dsimp only
  repeat' first
    | with_reducible assumption
    | exact lor_sub hL rfl
    | with_reducible apply State.wr64_keeps

theorem State.message_keeps {L : Nat} {u : State} (s : State) (v : Nat) (hL : 33554435 ||| L = L) (hu : Keeps L u s) :
    Keeps L u (State.message s v) := by
  unfold State.message
  try dsimp only
  repeat' first
    | with_reducible assumption
    | exact lor_sub hL rfl
    | with_reducible apply Keeps.ite <;> intro _
    | with_reducible apply State.setPring_keeps
    | with_reducible apply State.setReg_keeps
    | with_reducible apply State.post_keeps
    | with_reducible apply Keeps.foldl
    | with_reducible apply Keeps.foldl_fst
    | intro _ _ _
    | split

theorem State.announce_keeps {L : Nat} {u : State} (s : State) (ring : Nat) (isError : Bool) (hL : 33554435 ||| L = L) (hu : Keeps L u s) :
    Keeps L u (State.announce s ring isError) := by
  unfold State.announce
  try dsimp only
  repeat' first
    | with_reducible assumption
    | exact lor_sub hL rfl
    | with_reducible apply Keeps.ite <;> intro _
    | with_reducible apply State.setPring_keeps
    | with_reducible apply State.message_keeps
    | split

theorem State.writePn_keeps {L : Nat} {u : State} (s : State) (m : Nat) (p : Pn) (replayed : Bool) (hL : 33554439 ||| L = L) (hu : Keeps L u s) :
    Keeps L u (State.writePn s m p replayed) := by
  unfold State.writePn
  try dsimp only
  repeat' first
    | with_reducible assumption
    | exact lor_sub hL rfl
    | with_reducible apply Keeps.ite <;> intro _
    | with_reducible apply State.tellGaps_keeps
    | with_reducible apply State.emitRecord_keeps
    | with_reducible apply State.finish_keeps
    | with_reducible apply State.updCmd_keeps
    | with_reducible apply State.postBlocks_keeps
    | with_reducible apply State.advanceRing_keeps
    | with_reducible apply State.setPring_keeps
    | with_reducible apply State.announce_keeps
    | split

theorem State.endStall_keeps {L : Nat} {u : State} (s : State) (m : Nat) (hL : 2 ||| L = L) (hu : Keeps L u s) :
    Keeps L u (State.endStall s m) := by
  unfold State.endStall
  try dsimp only
  repeat' first
    | with_reducible assumption
    | exact lor_sub hL rfl
    | with_reducible apply Keeps.ite <;> intro _
    | with_reducible apply State.setPring_keeps
    | split

theorem State.room_keeps {L : Nat} {u : State} (s : State) (m b consumed : Nat) (hL : 41943067 ||| L = L) (h : Keeps L u s) (t : State)
    (e : s.room m b consumed = .room t ∨ s.room m b consumed = .full t ∨ s.room m b consumed = .halted t) : Keeps L u t := by
  unfold State.room at e
  repeat' first
    | split at e
    | (simp only [Room.room.injEq, Room.full.injEq, Room.halted.injEq, reduceCtorEq, or_false, false_or] at e; subst e)
    | with_reducible assumption
    | with_reducible apply State.haltPring_keeps
    | with_reducible apply State.setPring_keeps
    | with_reducible apply State.bump_keeps
    | with_reducible apply State.endStall_keeps
    | with_reducible apply State.post_keeps
    | exact lor_sub hL rfl
    | dsimp only at e

theorem State.suppress_keeps {L : Nat} {u : State} (s : State) (ring : Nat) (p : Pn) (r : EmitRec) (hL : 33554438 ||| L = L) (hu : Keeps L u s) :
    Keeps L u (State.suppress s ring p r) := by
  unfold State.suppress
  try dsimp only
  repeat' first
    | with_reducible assumption
    | exact lor_sub hL rfl
    | with_reducible apply Keeps.ite <;> intro _
    | with_reducible apply State.setPring_keeps
    | with_reducible apply State.countOrdinal_keeps
    | with_reducible apply State.updCmd_keeps
    | with_reducible apply State.finish_keeps
    | split

end Sys2Proof.Machine
end

