-- ==== Sys2Proof/Laws/KeepHbm.lean ====
section
/-! SUPPORT. Every operation of Machine/Hbm.lean keeps what `Keeps` says. -/

set_option Elab.async false

namespace Sys2Proof.Machine

theorem State.countMoves_keeps {L : Nat} {u : State} (s : State) (hL : 524288 ||| L = L) (hu : Keeps L u s) :
    Keeps L u (State.countMoves s) := by
  unfold State.countMoves
  try dsimp only
  repeat' first
    | with_reducible assumption
    | refine Keeps.upd hL ?_

theorem execRetire_keeps {L : Nat} {u : State} (rank : Nat) (s : State) (hL : 33554433 ||| L = L) (hu : Keeps L u s) :
    KeepsO L u (execRetire rank s) := by
  unfold execRetire
  try dsimp only
  repeat' first
    | with_reducible assumption
    | exact lor_sub hL rfl
    | with_reducible apply KeepsO.of_next
    | with_reducible apply KeepsO.ite <;> intro _
    | with_reducible apply Keeps.ite <;> intro _
    | with_reducible apply State.bar_keeps
    | refine (State.bar_keeps _ _ _ ?_ ?_ ?_).next _ (by with_reducible assumption)
    | with_reducible apply State.wr_keeps
    | intro _ _
    | intro _
    | split

theorem execHbmPortMaxlatClear_keeps {L : Nat} {u : State} (port : Nat) (s : State) (hL : 33554433 ||| L = L) (hu : Keeps L u s) :
    KeepsO L u (execHbmPortMaxlatClear port s) := by
  unfold execHbmPortMaxlatClear
  try dsimp only
  repeat' first
    | with_reducible assumption
    | exact lor_sub hL rfl
    | with_reducible apply KeepsO.of_next
    | with_reducible apply State.bar_keeps
    | refine (State.bar_keeps _ _ _ ?_ ?_ ?_).next _ (by with_reducible assumption)
    | with_reducible apply State.wr_keeps
    | intro _ _
    | intro _

theorem State.setPchan_keeps {L : Nat} {u : State} (s : State) (p : Nat) (x : PChan) (hL : 524288 ||| L = L) (hu : Keeps L u s) :
    Keeps L u (State.setPchan s p x) := by
  unfold State.setPchan
  try dsimp only
  repeat' first
    | with_reducible assumption
    | refine Keeps.upd hL ?_

theorem State.hbmNote_keeps {L : Nat} {u : State} (s : State) (hL : 1 ||| L = L) (hu : Keeps L u s) :
    Keeps L u (State.hbmNote s) := by
  unfold State.hbmNote
  try dsimp only
  repeat' first
    | with_reducible assumption
    | exact lor_sub hL rfl
    | with_reducible apply Keeps.ite <;> intro _
    | with_reducible apply State.wr_keeps
    | split

theorem State.moveFree_keeps {L : Nat} {u : State} (s : State) (r : Nat) (hL : 524288 ||| L = L) (hu : Keeps L u s) :
    Keeps L u (State.moveFree s r) := by
  unfold State.moveFree
  try dsimp only
  repeat' first
    | with_reducible assumption
    | exact lor_sub hL rfl
    | with_reducible apply State.setSlots_keeps
    | with_reducible apply Keeps.foldl
    | with_reducible apply Keeps.foldl_fst
    | intro _ _ _

theorem State.withdrawTop_keeps {L : Nat} {u : State} (s : State) (hL : 9043995 ||| L = L) (hu : Keeps L u s) :
    Keeps L u (State.withdrawTop s) := by
  unfold State.withdrawTop
  try dsimp only
  repeat' first
    | with_reducible assumption
    | exact lor_sub hL rfl
    | with_reducible apply Keeps.ite <;> intro _
    | with_reducible apply State.setPool_keeps
    | with_reducible apply State.bump_keeps
    | with_reducible apply State.wr_keeps
    | with_reducible apply State.poolShrink_keeps
    | with_reducible apply State.poolNote_keeps
    | with_reducible apply State.unplace_keeps
    | with_reducible apply Keeps.foldl
    | with_reducible apply Keeps.foldl_fst
    | intro _ _ _
    | split

theorem State.urgent3_keeps {L : Nat} {u : State} (s : State) (rank : Nat) (port : Nat) (hL : 8388609 ||| L = L) (hu : Keeps L u s) :
    Keeps L u (State.urgent3 s rank port) := by
  unfold State.urgent3
  try dsimp only
  repeat' first
    | with_reducible assumption
    | exact lor_sub hL rfl
    | with_reducible apply State.bump_keeps
    | with_reducible apply State.cnt_keeps

theorem State.hbmArrive_keeps {L : Nat} {u : State} (pch : Nat) (s : State) (a : HbmArr) (hL : 8912897 ||| L = L) (hu : Keeps L u s) :
    Keeps L u (State.hbmArrive pch s a) := by
  unfold State.hbmArrive
  try dsimp only
  repeat' first
    | with_reducible assumption
    | exact lor_sub hL rfl
    | with_reducible apply Keeps.ite <;> intro _
    | with_reducible apply State.setPchan_keeps
    | with_reducible apply State.urgent3_keeps
    | split

theorem State.doRefresh_keeps {L : Nat} {u : State} (s : State) (pch : Nat) (hL : 524288 ||| L = L) (hu : Keeps L u s) :
    Keeps L u (State.doRefresh s pch) := by
  unfold State.doRefresh
  try dsimp only
  repeat' first
    | with_reducible assumption
    | exact lor_sub hL rfl
    | with_reducible apply State.setPchan_keeps

theorem State.parityFails_keeps {L : Nat} {u : State} (s : State) (rank : Nat) (hL : 8912896 ||| L = L) (hu : Keeps L u s) :
    Keeps L u (State.parityFails s rank) := by
  unfold State.parityFails
  try dsimp only
  repeat' first
    | with_reducible assumption
    | exact lor_sub hL rfl
    | with_reducible apply State.cnt_keeps
    | refine Keeps.upd hL ?_

theorem State.cleanLine_keeps {L : Nat} {u : State} (s : State) (line : Nat) (hL : 524289 ||| L = L) (hu : Keeps L u s) :
    Keeps L u (State.cleanLine s line) := by
  unfold State.cleanLine
  try dsimp only
  repeat' first
    | with_reducible assumption
    | exact lor_sub hL rfl
    | with_reducible apply Keeps.ite <;> intro _
    | with_reducible apply State.wr_keeps
    | split
    | refine Keeps.upd hL ?_

theorem State.correctLine_keeps {L : Nat} {u : State} (s : State) (rank : Nat) (hL : 8912897 ||| L = L) (hu : Keeps L u s) :
    Keeps L u (State.correctLine s rank) := by
  unfold State.correctLine
  try dsimp only
  repeat' first
    | with_reducible assumption
    | exact lor_sub hL rfl
    | with_reducible apply State.bump_keeps
    | with_reducible apply State.wr_keeps
    | with_reducible apply State.cnt_keeps
    | refine Keeps.upd hL ?_

theorem State.hbmErr_keeps {L : Nat} {u : State} (s : State) (wh : Nat) (code : Nat) (d0 : optParam Nat 0) (d1 : optParam Nat 0) (hL : 8388633 ||| L = L) (hu : Keeps L u s) :
    Keeps L u (State.hbmErr s wh code d0 d1) := by
  unfold State.hbmErr
  try dsimp only
  repeat' first
    | with_reducible assumption
    | exact lor_sub hL rfl
    | with_reducible apply State.file_keeps
    | with_reducible apply State.setErr_keeps

theorem State.poisonLine_keeps {L : Nat} {u : State} (s : State) (rank : Nat) (line : Nat) (hL : 8912921 ||| L = L) (hu : Keeps L u s) :
    Keeps L u (State.poisonLine s rank line) := by
  unfold State.poisonLine
  try dsimp only
  repeat' first
    | with_reducible assumption
    | exact lor_sub hL rfl
    | with_reducible apply Keeps.ite <;> intro _
    | with_reducible apply State.bump_keeps
    | with_reducible apply State.cnt_keeps
    | with_reducible apply State.hbmErr_keeps
    | with_reducible apply State.wr_keeps
    | split
    | refine Keeps.upd hL ?_

theorem State.readLine_keeps {L : Nat} {u : State} (s : State) (rank : Nat) (line : Nat) (symbols : Nat) (hL : 8912921 ||| L = L) (hu : Keeps L u s) :
    Keeps L u (State.readLine s rank line symbols) := by
  unfold State.readLine
  try dsimp only
  repeat' first
    | with_reducible assumption
    | exact lor_sub hL rfl
    | with_reducible apply Keeps.ite <;> intro _
    | with_reducible apply State.correctLine_keeps
    | with_reducible apply State.poisonLine_keeps
    | split

theorem State.hbmIssue_keeps {L : Nat} {u : State} (s : State) (pch : Nat) (r : HbmReq) (i : Nat) (symbols : Nat) (hL : 42467353 ||| L = L) (hu : Keeps L u s) :
    Keeps L u (State.hbmIssue s pch r i symbols) := by
  unfold State.hbmIssue
  try dsimp only
  repeat' first
    | with_reducible assumption
    | exact lor_sub hL rfl
    | with_reducible apply Keeps.ite <;> intro _
    | with_reducible apply State.post_keeps
    | with_reducible apply State.setPchan_keeps
    | with_reducible apply State.wr_keeps
    | with_reducible apply State.cleanLine_keeps
    | with_reducible apply State.readLine_keeps
    | split
    | refine Keeps.upd hL ?_

theorem execHbmRequestIssue_keeps {L : Nat} {u : State} (pch : Nat) (arrivals : List HbmArr) (parity : Bool) (symbols : Nat) (s : State) (hL : 42467353 ||| L = L) (hu : Keeps L u s) :
    KeepsO L u (execHbmRequestIssue pch arrivals parity symbols s) := by
  unfold execHbmRequestIssue
  try dsimp only
  repeat' first
    | with_reducible assumption
    | exact lor_sub hL rfl
    | with_reducible apply KeepsO.of_next
    | with_reducible apply KeepsO.ite <;> intro _
    | with_reducible apply Keeps.ite <;> intro _
    | with_reducible apply State.hbmArrive_keeps
    | with_reducible apply State.doRefresh_keeps
    | with_reducible apply State.setPchan_keeps
    | with_reducible apply State.parityFails_keeps
    | with_reducible apply State.hbmIssue_keeps
    | with_reducible apply Keeps.foldl
    | with_reducible apply Keeps.foldl_fst
    | intro _ _ _
    | split

theorem State.loseIndices_keeps {L : Nat} {u : State} (s : State) (c : Nat) (hL : 8519707 ||| L = L) (hu : Keeps L u s) :
    Keeps L u (State.loseIndices s c) := by
  unfold State.loseIndices
  try dsimp only
  repeat' first
    | with_reducible assumption
    | exact lor_sub hL rfl
    | with_reducible apply Keeps.ite <;> intro _
    | with_reducible apply State.poolNote_keeps
    | with_reducible apply State.devError_keeps
    | with_reducible apply State.poolErr_keeps
    | with_reducible apply State.wr_keeps
    | with_reducible apply State.setPool_keeps
    | with_reducible apply Keeps.foldl
    | with_reducible apply Keeps.foldl_fst
    | intro _ _ _
    | split

theorem execHbmPoisonRead_keeps {L : Nat} {u : State} (line : Nat) (reader : Nat) (who : Nat) (s : State) (hL : 44019423 ||| L = L) (hu : Keeps L u s) :
    KeepsO L u (execHbmPoisonRead line reader who s) := by
  unfold execHbmPoisonRead
  try dsimp only
  repeat' first
    | with_reducible assumption
    | exact lor_sub hL rfl
    | with_reducible apply KeepsO.of_next
    | with_reducible apply KeepsO.ite <;> intro _
    | with_reducible apply Keeps.ite <;> intro _
    | with_reducible apply State.hbmErr_keeps
    | with_reducible apply State.cnt_keeps
    | with_reducible apply State.rerunJob_keeps
    | with_reducible apply State.devError_keeps
    | with_reducible apply State.setStream_keeps
    | with_reducible apply State.wr_keeps
    | with_reducible apply State.poisonJob_keeps
    | with_reducible apply State.cleanLine_keeps
    | with_reducible apply State.loseIndices_keeps
    | with_reducible apply Keeps.foldl
    | with_reducible apply Keeps.foldl_fst
    | intro _ _ _
    | split
    | refine Keeps.upd hL ?_

theorem execUrgencyRise_keeps {L : Nat} {u : State} (pch : Nat) (pos : Nat) (s : State) (hL : 8912897 ||| L = L) (hu : Keeps L u s) :
    KeepsO L u (execUrgencyRise pch pos s) := by
  unfold execUrgencyRise
  try dsimp only
  repeat' first
    | with_reducible assumption
    | exact lor_sub hL rfl
    | with_reducible apply KeepsO.of_next
    | with_reducible apply KeepsO.ite <;> intro _
    | with_reducible apply Keeps.ite <;> intro _
    | with_reducible apply State.setPchan_keeps
    | with_reducible apply State.urgent3_keeps
    | split

theorem execRefresh_keeps {L : Nat} {u : State} (pch : Nat) (s : State) (hL : 524289 ||| L = L) (hu : Keeps L u s) :
    KeepsO L u (execRefresh pch s) := by
  unfold execRefresh
  try dsimp only
  repeat' first
    | with_reducible assumption
    | exact lor_sub hL rfl
    | with_reducible apply KeepsO.of_next
    | with_reducible apply KeepsO.ite <;> intro _
    | with_reducible apply Keeps.ite <;> intro _
    | with_reducible apply State.wr_keeps
    | with_reducible apply State.setPchan_keeps
    | with_reducible apply State.doRefresh_keeps
    | split

theorem State.countDoubled_keeps {L : Nat} {u : State} (s : State) (t : Nat) (hL : 8912896 ||| L = L) (hu : Keeps L u s) :
    Keeps L u (State.countDoubled s t) := by
  unfold State.countDoubled
  try dsimp only
  repeat' first
    | with_reducible assumption
    | exact lor_sub hL rfl
    | with_reducible apply Keeps.ite <;> intro _
    | with_reducible apply State.cnt_keeps
    | split
    | refine Keeps.upd hL ?_

theorem execHbmTempReading_keeps {L : Nat} {u : State} (stack : Nat) (temp : Int) (s : State) (hL : 11010073 ||| L = L) (hu : Keeps L u s) :
    KeepsO L u (execHbmTempReading stack temp s) := by
  unfold execHbmTempReading
  try dsimp only
  repeat' first
    | with_reducible assumption
    | exact lor_sub hL rfl
    | with_reducible apply KeepsO.of_next
    | with_reducible apply KeepsO.ite <;> intro _
    | with_reducible apply Keeps.ite <;> intro _
    | with_reducible apply State.wr_keeps
    | with_reducible apply State.countDoubled_keeps
    | with_reducible apply State.hbmErr_keeps
    | refine Keeps.upd hL ?_
    | split

theorem execHbmTrainingDone_keeps {L : Nat} {u : State} (stack : Nat) (pch : Nat) (ok : Bool) (s : State) (hL : 8388635 ||| L = L) (hu : Keeps L u s) :
    KeepsO L u (execHbmTrainingDone stack pch ok s) := by
  unfold execHbmTrainingDone
  try dsimp only
  repeat' first
    | with_reducible assumption
    | exact lor_sub hL rfl
    | with_reducible apply KeepsO.of_next
    | with_reducible apply KeepsO.ite <;> intro _
    | with_reducible apply Keeps.ite <;> intro _
    | with_reducible apply State.bump_keeps
    | with_reducible apply State.bumpSat_keeps
    | with_reducible apply State.wr_keeps
    | with_reducible apply State.devError_keeps
    | with_reducible apply State.hbmErr_keeps
    | split

theorem execDqTracking_keeps {L : Nat} {u : State} (a0 : Nat) (s : State) (hL : 0 ||| L = L) (hu : Keeps L u s) :
    KeepsO L u (execDqTracking a0 s) := by
  unfold execDqTracking
  try dsimp only
  repeat' first
    | with_reducible assumption
    | with_reducible apply KeepsO.of_next

theorem execPatrolScrub_keeps {L : Nat} {u : State} (rank : Nat) (line : Nat) (symbols : Nat) (s : State) (hL : 8912921 ||| L = L) (hu : Keeps L u s) :
    KeepsO L u (execPatrolScrub rank line symbols s) := by
  unfold execPatrolScrub
  try dsimp only
  repeat' first
    | with_reducible assumption
    | exact lor_sub hL rfl
    | with_reducible apply KeepsO.of_next
    | with_reducible apply KeepsO.ite <;> intro _
    | with_reducible apply Keeps.ite <;> intro _
    | with_reducible apply State.readLine_keeps
    | split

theorem execFrameReplaceCopyDone_keeps {L : Nat} {u : State} (frame : Nat) (s : State) (hL : 524288 ||| L = L) (hu : Keeps L u s) :
    KeepsO L u (execFrameReplaceCopyDone frame s) := by
  unfold execFrameReplaceCopyDone
  try dsimp only
  repeat' first
    | with_reducible assumption
    | exact lor_sub hL rfl
    | with_reducible apply KeepsO.of_next
    | with_reducible apply State.freeEntry_keeps
    | split
    | refine Keeps.upd hL ?_

theorem State.setMove_keeps {L : Nat} {u : State} (s : State) (r : Nat) (on : Bool) (hL : 524288 ||| L = L) (hu : Keeps L u s) :
    Keeps L u (State.setMove s r on) := by
  unfold State.setMove
  try dsimp only
  repeat' first
    | with_reducible assumption
    | with_reducible apply Keeps.ite <;> intro _
    | split
    | refine Keeps.upd hL ?_

theorem State.retireRank_keeps {L : Nat} {u : State} (s : State) (r : Nat) (cause : Nat) (hL : 9043995 ||| L = L) (hu : Keeps L u s) :
    Keeps L u (State.retireRank s r cause) := by
  unfold State.retireRank
  try dsimp only
  repeat' first
    | with_reducible assumption
    | exact lor_sub hL rfl
    | with_reducible apply Keeps.ite <;> intro _
    | with_reducible apply State.wr_keeps
    | with_reducible apply State.devError_keeps
    | with_reducible apply State.hbmErr_keeps
    | with_reducible apply State.hbmNote_keeps
    | with_reducible apply State.setMove_keeps
    | with_reducible apply State.moveFree_keeps
    | with_reducible apply State.withdrawTop_keeps
    | split
    | refine Keeps.upd hL ?_

theorem State.retireNow_keeps {L : Nat} {u : State} (s : State) (rank : Nat) (cause : Nat) (hL : 9043995 ||| L = L) (hu : Keeps L u s) :
    Keeps L u (State.retireNow s rank cause) := by
  unfold State.retireNow
  try dsimp only
  repeat' first
    | with_reducible assumption
    | exact lor_sub hL rfl
    | with_reducible apply Keeps.ite <;> intro _
    | with_reducible apply State.wr_keeps
    | with_reducible apply State.devError_keeps
    | with_reducible apply State.hbmErr_keeps
    | with_reducible apply State.retireRank_keeps
    | split
    | refine Keeps.upd hL ?_

theorem execRankRetire_keeps {L : Nat} {u : State} (rank : Nat) (cause : Nat) (s : State) (hL : 9043995 ||| L = L) (hu : Keeps L u s) :
    KeepsO L u (execRankRetire rank cause s) := by
  unfold execRankRetire
  try dsimp only
  repeat' first
    | with_reducible assumption
    | exact lor_sub hL rfl
    | with_reducible apply KeepsO.of_next
    | with_reducible apply KeepsO.ite <;> intro _
    | with_reducible apply Keeps.ite <;> intro _
    | with_reducible apply State.retireNow_keeps
    | with_reducible apply Keeps.foldl
    | with_reducible apply Keeps.foldl_fst
    | intro _ _ _
    | split

theorem execMigrationDone_keeps {L : Nat} {u : State} (s : State) (hL : 524289 ||| L = L) (hu : Keeps L u s) :
    KeepsO L u (execMigrationDone s) := by
  unfold execMigrationDone
  try dsimp only
  repeat' first
    | with_reducible assumption
    | exact lor_sub hL rfl
    | with_reducible apply KeepsO.of_next
    | with_reducible apply State.hbmNote_keeps
    | with_reducible apply State.wr_keeps
    | with_reducible apply State.setMove_keeps
    | split
    | refine Keeps.upd hL ?_

theorem State.moveSlot_keeps {L : Nat} {u : State} (s : State) (r : Nat) (k : Nat) (hL : 524288 ||| L = L) (hu : Keeps L u s) :
    Keeps L u (State.moveSlot s r k).1 := by
  unfold State.moveSlot
  try dsimp only
  repeat' first
    | with_reducible assumption
    | exact lor_sub hL rfl
    | with_reducible apply Keeps.ite <;> intro _
    | with_reducible apply State.takeSlots_keeps
    | refine Keeps.of_fst (State.takeSlots_keeps _ _ _ ?_ ?_) (by with_reducible assumption)
    | split

theorem State.drainFrame_keeps {L : Nat} {u : State} (r : Nat) (s : State) (f : Nat × Option FrameEnt) (hL : 524288 ||| L = L) (hu : Keeps L u s) :
    Keeps L u (State.drainFrame r s f) := by
  unfold State.drainFrame
  try dsimp only
  repeat' first
    | with_reducible assumption
    | exact lor_sub hL rfl
    | with_reducible apply State.moveSlot_keeps
    | refine Keeps.of_fst (State.moveSlot_keeps _ _ _ ?_ ?_) (by with_reducible assumption)
    | with_reducible apply Keeps.foldl
    | with_reducible apply Keeps.foldl_fst
    | intro _ _ _
    | split
    | refine Keeps.upd hL ?_

theorem State.drainBoot_keeps {L : Nat} {u : State} (s : State) (r : Nat) (hL : 524288 ||| L = L) (hu : Keeps L u s) :
    Keeps L u (State.drainBoot s r) := by
  unfold State.drainBoot
  try dsimp only
  repeat' first
    | with_reducible assumption
    | exact lor_sub hL rfl
    | with_reducible apply Keeps.ite <;> intro _
    | with_reducible apply State.takeSlots_keeps
    | refine Keeps.of_fst (State.takeSlots_keeps _ _ _ ?_ ?_) (by with_reducible assumption)
    | with_reducible apply Keeps.foldl
    | with_reducible apply Keeps.foldl_fst
    | intro _ _ _
    | split

theorem execRankDrainDone_keeps {L : Nat} {u : State} (rank : Nat) (s : State) (hL : 524289 ||| L = L) (hu : Keeps L u s) :
    KeepsO L u (execRankDrainDone rank s) := by
  unfold execRankDrainDone
  try dsimp only
  repeat' first
    | with_reducible assumption
    | exact lor_sub hL rfl
    | with_reducible apply KeepsO.of_next
    | with_reducible apply KeepsO.ite <;> intro _
    | with_reducible apply Keeps.ite <;> intro _
    | with_reducible apply State.drainFrame_keeps
    | with_reducible apply State.drainBoot_keeps
    | with_reducible apply State.hbmNote_keeps
    | with_reducible apply State.wr_keeps
    | with_reducible apply State.setMove_keeps
    | with_reducible apply Keeps.foldl
    | with_reducible apply Keeps.foldl_fst
    | intro _ _ _
    | split

end Sys2Proof.Machine
end

