-- ==== Sys2Proof/Laws/KeepHif.lean ====
section
/-! SUPPORT. Every operation of Machine/Hif.lean keeps what `Keeps` says. -/

set_option Elab.async false

namespace Sys2Proof.Machine

theorem State.cfgField_keeps {L : Nat} {u : State} (s : State) (writable : Bool) (f : RegField) (w : BitVec 32) (hL : 1 ||| L = L) (hu : Keeps L u s) :
    Keeps L u (State.cfgField s writable f w).1 := by
  unfold State.cfgField
  try dsimp only
  repeat' first
    | with_reducible assumption
    | exact lor_sub hL rfl
    | with_reducible apply Keeps.ite <;> intro _
    | with_reducible apply State.wr_keeps
    | split

theorem State.cfgWrite_keeps {L : Nat} {u : State} (s : State) (writable : Bool) (fs : List RegField) (w : BitVec 32) (ring : Nat) (addr : Nat) (hL : 8388633 ||| L = L) (hu : Keeps L u s) :
    Keeps L u (State.cfgWrite s writable fs w ring addr) := by
  unfold State.cfgWrite
  try dsimp only
  repeat' first
    | with_reducible assumption
    | exact lor_sub hL rfl
    | with_reducible apply Keeps.ite <;> intro _
    | with_reducible apply State.cfgField_keeps
    | refine Keeps.of_fst (State.cfgField_keeps _ _ _ _ ?_ ?_) (by with_reducible assumption)
    | with_reducible apply State.hifErr_keeps
    | with_reducible apply Keeps.foldl
    | with_reducible apply Keeps.foldl_fst
    | intro _ _ _
    | split

theorem State.cringCfg_keeps {L : Nat} {u : State} (s : State) (c : Nat) (w : BitVec 32) (hL : 8388633 ||| L = L) (hu : Keeps L u s) :
    Keeps L u (State.cringCfg s c w) := by
  unfold State.cringCfg
  try dsimp only
  repeat' first
    | with_reducible assumption
    | exact lor_sub hL rfl
    | with_reducible apply State.cfgWrite_keeps

theorem State.cringStart_keeps {L : Nat} {u : State} (s : State) (c : Nat) (hL : 3 ||| L = L) (hu : Keeps L u s) :
    Keeps L u (State.cringStart s c) := by
  unfold State.cringStart
  try dsimp only
  repeat' first
    | with_reducible assumption
    | exact lor_sub hL rfl
    | with_reducible apply State.wr_keeps
    | with_reducible apply State.setCring_keeps

theorem execCringEnable_keeps {L : Nat} {u : State} (ring : Nat) (w : BitVec 32) (s : State) (hL : 41943067 ||| L = L) (hu : Keeps L u s) :
    KeepsO L u (execCringEnable ring w s) := by
  unfold execCringEnable
  try dsimp only
  repeat' first
    | with_reducible assumption
    | exact lor_sub hL rfl
    | with_reducible apply KeepsO.of_next
    | with_reducible apply KeepsO.ite <;> intro _
    | with_reducible apply Keeps.ite <;> intro _
    | with_reducible apply State.bar_keeps
    | refine (State.bar_keeps _ _ _ ?_ ?_ ?_).next _ (by with_reducible assumption)
    | with_reducible apply State.cringCfg_keeps
    | with_reducible apply State.cringStart_keeps
    | with_reducible apply State.hifErr_keeps
    | with_reducible apply State.wr_keeps
    | intro _ _
    | intro _
    | split

theorem execCringDisable_keeps {L : Nat} {u : State} (ring : Nat) (w : BitVec 32) (s : State) (hL : 41943065 ||| L = L) (hu : Keeps L u s) :
    KeepsO L u (execCringDisable ring w s) := by
  unfold execCringDisable
  try dsimp only
  repeat' first
    | with_reducible assumption
    | exact lor_sub hL rfl
    | with_reducible apply KeepsO.of_next
    | with_reducible apply KeepsO.ite <;> intro _
    | with_reducible apply Keeps.ite <;> intro _
    | with_reducible apply State.bar_keeps
    | refine (State.bar_keeps _ _ _ ?_ ?_ ?_).next _ (by with_reducible assumption)
    | with_reducible apply State.cringCfg_keeps
    | with_reducible apply State.wr_keeps
    | intro _ _
    | intro _
    | split

theorem execHifCringSeq0Write_keeps {L : Nat} {u : State} (ring : Nat) (w : BitVec 32) (s : State) (hL : 41943065 ||| L = L) (hu : Keeps L u s) :
    KeepsO L u (execHifCringSeq0Write ring w s) := by
  unfold execHifCringSeq0Write
  try dsimp only
  repeat' first
    | with_reducible assumption
    | exact lor_sub hL rfl
    | with_reducible apply KeepsO.of_next
    | with_reducible apply KeepsO.ite <;> intro _
    | with_reducible apply Keeps.ite <;> intro _
    | with_reducible apply State.bar_keeps
    | refine (State.bar_keeps _ _ _ ?_ ?_ ?_).next _ (by with_reducible assumption)
    | with_reducible apply State.cfgWrite_keeps
    | with_reducible apply State.setReg_keeps
    | intro _ _
    | intro _
    | split

theorem State.pringCfg_keeps {L : Nat} {u : State} (s : State) (m : Nat) (w : BitVec 32) (hL : 8388633 ||| L = L) (hu : Keeps L u s) :
    Keeps L u (State.pringCfg s m w) := by
  unfold State.pringCfg
  try dsimp only
  repeat' first
    | with_reducible assumption
    | exact lor_sub hL rfl
    | with_reducible apply State.cfgWrite_keeps

theorem State.pringUp_keeps {L : Nat} {u : State} (s : State) (m : Nat) (hL : 3 ||| L = L) (hu : Keeps L u s) :
    Keeps L u (State.pringUp s m) := by
  unfold State.pringUp
  try dsimp only
  repeat' first
    | with_reducible assumption
    | exact lor_sub hL rfl
    | with_reducible apply State.setPring_keeps
    | with_reducible apply State.wr_keeps

theorem State.pringStart_keeps {L : Nat} {u : State} (s : State) (m : Nat) (consumed : Nat) (hL : 41943067 ||| L = L) (hu : Keeps L u s) :
    Keeps L u (State.pringStart s m consumed) := by
  unfold State.pringStart
  try dsimp only
  repeat' first
    | with_reducible assumption
    | exact lor_sub hL rfl
    | with_reducible apply Keeps.ite <;> intro _
    | with_reducible apply State.pringUp_keeps
    | with_reducible apply State.askXlate_keeps
    | with_reducible apply State.post_keeps
    | with_reducible apply State.haltPring_keeps
    | with_reducible apply State.setPring_keeps
    | split

theorem execPringEnable_keeps {L : Nat} {u : State} (ring : Nat) (w : BitVec 32) (consumed : Nat) (s : State) (hL : 41943067 ||| L = L) (hu : Keeps L u s) :
    KeepsO L u (execPringEnable ring w consumed s) := by
  unfold execPringEnable
  try dsimp only
  repeat' first
    | with_reducible assumption
    | exact lor_sub hL rfl
    | with_reducible apply KeepsO.of_next
    | with_reducible apply KeepsO.ite <;> intro _
    | with_reducible apply Keeps.ite <;> intro _
    | with_reducible apply State.bar_keeps
    | refine (State.bar_keeps _ _ _ ?_ ?_ ?_).next _ (by with_reducible assumption)
    | with_reducible apply State.pringCfg_keeps
    | with_reducible apply State.pringStart_keeps
    | with_reducible apply State.hifErr_keeps
    | with_reducible apply State.wr_keeps
    | intro _ _
    | intro _
    | split

theorem execPringDisable_keeps {L : Nat} {u : State} (ring : Nat) (w : BitVec 32) (s : State) (hL : 41943065 ||| L = L) (hu : Keeps L u s) :
    KeepsO L u (execPringDisable ring w s) := by
  unfold execPringDisable
  try dsimp only
  repeat' first
    | with_reducible assumption
    | exact lor_sub hL rfl
    | with_reducible apply KeepsO.of_next
    | with_reducible apply KeepsO.ite <;> intro _
    | with_reducible apply Keeps.ite <;> intro _
    | with_reducible apply State.bar_keeps
    | refine (State.bar_keeps _ _ _ ?_ ?_ ?_).next _ (by with_reducible assumption)
    | with_reducible apply State.pringCfg_keeps
    | with_reducible apply State.wr_keeps
    | intro _ _
    | intro _
    | split

theorem execMsixVectorUnmask_keeps {L : Nat} {u : State} (vector : Nat) (s : State) (hL : 33554433 ||| L = L) (hu : Keeps L u s) :
    KeepsO L u (execMsixVectorUnmask vector s) := by
  unfold execMsixVectorUnmask
  try dsimp only
  repeat' first
    | with_reducible assumption
    | exact lor_sub hL rfl
    | with_reducible apply KeepsO.of_next
    | with_reducible apply KeepsO.ite <;> intro _
    | with_reducible apply Keeps.ite <;> intro _
    | with_reducible apply State.bar_keeps
    | refine (State.bar_keeps _ _ _ ?_ ?_ ?_).next _ (by with_reducible assumption)
    | with_reducible apply State.setReg_keeps
    | with_reducible apply State.post_keeps
    | intro _ _
    | intro _
    | split

theorem execCommandRingPoll_keeps {L : Nat} {u : State} (due : List Nat) (s : State) (hL : 33554434 ||| L = L) (hu : Keeps L u s) :
    KeepsO L u (execCommandRingPoll due s) := by
  unfold execCommandRingPoll
  try dsimp only
  repeat' first
    | with_reducible assumption
    | exact lor_sub hL rfl
    | with_reducible apply KeepsO.of_next
    | with_reducible apply KeepsO.ite <;> intro _
    | with_reducible apply Keeps.ite <;> intro _
    | with_reducible apply State.askXlate_keeps
    | with_reducible apply State.post_keeps
    | with_reducible apply State.setCring_keeps
    | split
    | refine Keeps.upd hL ?_

theorem State.busyRing_keeps {L : Nat} {u : State} (s : State) (c : Nat) (hL : 3 ||| L = L) (hu : Keeps L u s) :
    Keeps L u (State.busyRing s c) := by
  unfold State.busyRing
  try dsimp only
  repeat' first
    | with_reducible assumption
    | exact lor_sub hL rfl
    | with_reducible apply Keeps.ite <;> intro _
    | with_reducible apply State.wr_keeps
    | with_reducible apply State.setCring_keeps
    | split

theorem State.emptyPoll_keeps {L : Nat} {u : State} (s : State) (c : Nat) (hL : 3 ||| L = L) (hu : Keeps L u s) :
    Keeps L u (State.emptyPoll s c) := by
  unfold State.emptyPoll
  try dsimp only
  repeat' first
    | with_reducible assumption
    | exact lor_sub hL rfl
    | with_reducible apply Keeps.ite <;> intro _
    | with_reducible apply State.setCring_keeps
    | with_reducible apply State.wr_keeps
    | split

theorem State.advanceTag_keeps {L : Nat} {u : State} (s : State) (c : Nat) (hL : 1 ||| L = L) (hu : Keeps L u s) :
    Keeps L u (State.advanceTag s c) := by
  unfold State.advanceTag
  try dsimp only
  repeat' first
    | with_reducible assumption
    | exact lor_sub hL rfl
    | with_reducible apply State.wr_keeps

theorem State.refuse_keeps {L : Nat} {u : State} (s : State) (c : Nat) (w : BitVec 512) (code : Nat) (d0 : Nat) (d1 : Nat) (hL : 8388635 ||| L = L) (hu : Keeps L u s) :
    Keeps L u (State.refuse s c w code d0 d1) := by
  unfold State.refuse
  try dsimp only
  repeat' first
    | with_reducible assumption
    | exact lor_sub hL rfl
    | with_reducible apply State.hifErr_keeps
    | with_reducible apply State.setErr_keeps
    | with_reducible apply State.sendTo_keeps
    | with_reducible apply State.advanceTag_keeps
    | with_reducible apply State.busyRing_keeps

theorem State.takeSlot_keeps {L : Nat} {u : State} (s : State) (c : Nat) (w : BitVec 512) (hL : 8388635 ||| L = L) (hu : Keeps L u s) :
    Keeps L u (State.takeSlot s c w) := by
  unfold State.takeSlot
  try dsimp only
  repeat' first
    | with_reducible assumption
    | exact lor_sub hL rfl
    | with_reducible apply Keeps.ite <;> intro _
    | with_reducible apply State.busyRing_keeps
    | with_reducible apply State.refuse_keeps
    | with_reducible apply State.wakeUp_keeps
    | with_reducible apply State.setCring_keeps
    | split

theorem State.slotRead_keeps {L : Nat} {u : State} (s : State) (c : Nat) (w : BitVec 512) (rereads : Nat) (hL : 8388635 ||| L = L) (hu : Keeps L u s) :
    Keeps L u (State.slotRead s c w rereads) := by
  unfold State.slotRead
  try dsimp only
  repeat' first
    | with_reducible assumption
    | exact lor_sub hL rfl
    | with_reducible apply Keeps.ite <;> intro _
    | with_reducible apply State.busyRing_keeps
    | with_reducible apply State.emptyPoll_keeps
    | with_reducible apply State.takeSlot_keeps
    | with_reducible apply State.refuse_keeps
    | with_reducible apply State.setCring_keeps
    | split

theorem execSlotReadCompletion_keeps {L : Nat} {u : State} (ring : Nat) (slot : BitVec 512) (s : State) (hL : 8388635 ||| L = L) (hu : Keeps L u s) :
    KeepsO L u (execSlotReadCompletion ring slot s) := by
  unfold execSlotReadCompletion
  try dsimp only
  repeat' first
    | with_reducible assumption
    | exact lor_sub hL rfl
    | with_reducible apply KeepsO.of_next
    | with_reducible apply KeepsO.ite <;> intro _
    | with_reducible apply Keeps.ite <;> intro _
    | with_reducible apply State.slotRead_keeps
    | split

theorem execSlotReread_keeps {L : Nat} {u : State} (ring : Nat) (slot : BitVec 512) (s : State) (hL : 8388635 ||| L = L) (hu : Keeps L u s) :
    KeepsO L u (execSlotReread ring slot s) := by
  unfold execSlotReread
  try dsimp only
  repeat' first
    | with_reducible assumption
    | exact lor_sub hL rfl
    | with_reducible apply KeepsO.of_next
    | with_reducible apply State.slotRead_keeps
    | split

theorem State.noteOpen_keeps {L : Nat} {u : State} (s : State) (w : BitVec 512) (hL : 64 ||| L = L) (hu : Keeps L u s) :
    Keeps L u (State.noteOpen s w) := by
  unfold State.noteOpen
  try dsimp only
  repeat' first
    | with_reducible assumption
    | exact lor_sub hL rfl
    | with_reducible apply Keeps.ite <;> intro _
    | with_reducible apply State.setStream_keeps
    | split

theorem State.accept_keeps {L : Nat} {u : State} (s : State) (c : Nat) (m : Nat) (w : BitVec 512) (hL : 33554503 ||| L = L) (hu : Keeps L u s) :
    Keeps L u (State.accept s c m w) := by
  unfold State.accept
  try dsimp only
  repeat' first
    | with_reducible assumption
    | exact lor_sub hL rfl
    | with_reducible apply Keeps.ite <;> intro _
    | with_reducible apply State.putEntry_keeps
    | with_reducible apply State.writePn_keeps
    | with_reducible apply State.advanceTag_keeps
    | with_reducible apply State.bump_keeps
    | with_reducible apply State.noteOpen_keeps
    | with_reducible apply State.setCring_keeps
    | split
    | refine Keeps.upd hL ?_

theorem execSlotAccept_keeps {L : Nat} {u : State} (ring : Nat) (consumed : Nat) (s : State) (hL : 41943135 ||| L = L) (hu : Keeps L u s) :
    KeepsO L u (execSlotAccept ring consumed s) := by
  unfold execSlotAccept
  try dsimp only
  repeat' first
    | with_reducible assumption
    | exact lor_sub hL rfl
    | with_reducible apply KeepsO.of_next
    | with_reducible apply KeepsO.ite <;> intro _
    | with_reducible apply Keeps.ite <;> intro _
    | with_reducible apply State.askXlate_keeps
    | with_reducible apply State.accept_keeps
    | refine State.room_keeps _ _ _ _ ?_ ?_ _ (.inl (by with_reducible assumption))
    | refine State.room_keeps _ _ _ _ ?_ ?_ _ (.inr (.inl (by with_reducible assumption)))
    | refine State.room_keeps _ _ _ _ ?_ ?_ _ (.inr (.inr (by with_reducible assumption)))
    | split

theorem execNop_keeps {L : Nat} {u : State} (jidx : Nat) (s : State) (hL : 6 ||| L = L) (hu : Keeps L u s) :
    KeepsO L u (execNop jidx s) := by
  unfold execNop
  try dsimp only
  repeat' first
    | with_reducible assumption
    | exact lor_sub hL rfl
    | with_reducible apply KeepsO.of_next
    | with_reducible apply State.done_keeps
    | split

theorem execFence_keeps {L : Nat} {u : State} (jidx : Nat) (s : State) (hL : 6 ||| L = L) (hu : Keeps L u s) :
    KeepsO L u (execFence jidx s) := by
  unfold execFence
  try dsimp only
  repeat' first
    | with_reducible assumption
    | exact lor_sub hL rfl
    | with_reducible apply KeepsO.of_next
    | with_reducible apply KeepsO.ite <;> intro _
    | with_reducible apply Keeps.ite <;> intro _
    | with_reducible apply State.done_keeps
    | split

theorem execMsixTimerExpiry_keeps {L : Nat} {u : State} (ring : Nat) (s : State) (hL : 33554435 ||| L = L) (hu : Keeps L u s) :
    KeepsO L u (execMsixTimerExpiry ring s) := by
  unfold execMsixTimerExpiry
  try dsimp only
  repeat' first
    | with_reducible assumption
    | exact lor_sub hL rfl
    | with_reducible apply KeepsO.of_next
    | with_reducible apply KeepsO.ite <;> intro _
    | with_reducible apply Keeps.ite <;> intro _
    | with_reducible apply State.message_keeps
    | split

theorem execCringLehrEnd_keeps {L : Nat} {u : State} (ring : Nat) (s : State) (hL : 3 ||| L = L) (hu : Keeps L u s) :
    KeepsO L u (execCringLehrEnd ring s) := by
  unfold execCringLehrEnd
  try dsimp only
  repeat' first
    | with_reducible assumption
    | exact lor_sub hL rfl
    | with_reducible apply KeepsO.of_next
    | with_reducible apply KeepsO.ite <;> intro _
    | with_reducible apply Keeps.ite <;> intro _
    | with_reducible apply State.wr_keeps
    | with_reducible apply State.cringStart_keeps
    | split

theorem execPringLehrEnd_keeps {L : Nat} {u : State} (ring : Nat) (s : State) (hL : 3 ||| L = L) (hu : Keeps L u s) :
    KeepsO L u (execPringLehrEnd ring s) := by
  unfold execPringLehrEnd
  try dsimp only
  repeat' first
    | with_reducible assumption
    | exact lor_sub hL rfl
    | with_reducible apply KeepsO.of_next
    | with_reducible apply KeepsO.ite <;> intro _
    | with_reducible apply Keeps.ite <;> intro _
    | with_reducible apply State.wr_keeps
    | with_reducible apply State.pringUp_keeps
    | split

theorem execAtsInvalidateRequest_keeps {L : Nat} {u : State} (tag : Nat) (page : Nat) (npages : Nat) (s : State) (hL : 2 ||| L = L) (hu : Keeps L u s) :
    KeepsO L u (execAtsInvalidateRequest tag page npages s) := by
  unfold execAtsInvalidateRequest
  try dsimp only
  repeat' first
    | with_reducible assumption
    | with_reducible apply KeepsO.of_next
    | with_reducible apply KeepsO.ite <;> intro _
    | with_reducible apply Keeps.ite <;> intro _
    | split
    | refine Keeps.upd hL ?_

theorem execInvalidateCompletion_keeps {L : Nat} {u : State} (tag : Nat) (s : State) (hL : 33554435 ||| L = L) (hu : Keeps L u s) :
    KeepsO L u (execInvalidateCompletion tag s) := by
  unfold execInvalidateCompletion
  try dsimp only
  repeat' first
    | with_reducible assumption
    | exact lor_sub hL rfl
    | with_reducible apply KeepsO.of_next
    | with_reducible apply KeepsO.ite <;> intro _
    | with_reducible apply Keeps.ite <;> intro _
    | with_reducible apply State.post_keeps
    | with_reducible apply State.setReg_keeps
    | split
    | refine Keeps.upd hL ?_

theorem execPcieLaneFailure_keeps {L : Nat} {u : State} (lane : Nat) (s : State) (hL : 3 ||| L = L) (hu : Keeps L u s) :
    KeepsO L u (execPcieLaneFailure lane s) := by
  unfold execPcieLaneFailure
  try dsimp only
  repeat' first
    | with_reducible assumption
    | exact lor_sub hL rfl
    | with_reducible apply KeepsO.of_next
    | with_reducible apply KeepsO.ite <;> intro _
    | with_reducible apply Keeps.ite <;> intro _
    | with_reducible apply State.wr_keeps
    | split
    | refine Keeps.upd hL ?_

theorem execPcieLinkUp_keeps {L : Nat} {u : State} (speed : Nat) (width : Nat) (s : State) (hL : 1 ||| L = L) (hu : Keeps L u s) :
    KeepsO L u (execPcieLinkUp speed width s) := by
  unfold execPcieLinkUp
  try dsimp only
  repeat' first
    | with_reducible assumption
    | exact lor_sub hL rfl
    | with_reducible apply KeepsO.of_next
    | with_reducible apply KeepsO.ite <;> intro _
    | with_reducible apply Keeps.ite <;> intro _
    | with_reducible apply State.wr_keeps
    | split

end Sys2Proof.Machine
end

