-- ==== Sys2Proof/Laws/KeepSgs.lean ====
section
/-! SUPPORT. Every operation of Machine/Sgs.lean keeps what `Keeps` says. -/

set_option Elab.async false

namespace Sys2Proof.Machine

theorem State.dropOp_keeps {L : Nat} {u : State} (s : State) (o : SgsOp) (hL : 107520 ||| L = L) (hu : Keeps L u s) :
    Keeps L u (State.dropOp s o) := by
  unfold State.dropOp
  try dsimp only
  repeat' first
    | with_reducible assumption
    | exact lor_sub hL rfl
    | with_reducible apply State.updNode_keeps
    | refine Keeps.upd hL ?_

theorem State.dropOps_keeps {L : Nat} {u : State} (s : State) (k : Nat) (units : List Nat) (hL : 107520 ||| L = L) (hu : Keeps L u s) :
    Keeps L u (State.dropOps s k units) := by
  unfold State.dropOps
  try dsimp only
  repeat' first
    | with_reducible assumption
    | exact lor_sub hL rfl
    | with_reducible apply State.dropOp_keeps
    | with_reducible apply Keeps.foldl
    | with_reducible apply Keeps.foldl_fst
    | intro _ _ _

theorem State.sgsStrmNote_keeps {L : Nat} {u : State} (s : State) (st : Nat) (hL : 1 ||| L = L) (hu : Keeps L u s) :
    Keeps L u (State.sgsStrmNote s st) := by
  unfold State.sgsStrmNote
  try dsimp only
  repeat' first
    | with_reducible assumption
    | exact lor_sub hL rfl
    | with_reducible apply State.wr_keeps

theorem State.sgsRetarget_keeps {L : Nat} {u : State} (s : State) (hL : 1024 ||| L = L) (hu : Keeps L u s) :
    Keeps L u (State.sgsRetarget s) := by
  unfold State.sgsRetarget
  try dsimp only
  repeat' first
    | with_reducible assumption
    | exact lor_sub hL rfl
    | with_reducible apply Keeps.ite <;> intro _
    | with_reducible apply State.setSgs_keeps
    | with_reducible apply Keeps.foldl
    | with_reducible apply Keeps.foldl_fst
    | intro _ _ _
    | split

theorem State.sgsLehrEnd_keeps {L : Nat} {u : State} (s : State) (k : Nat) (hL : 1025 ||| L = L) (hu : Keeps L u s) :
    Keeps L u (State.sgsLehrEnd s k) := by
  unfold State.sgsLehrEnd
  try dsimp only
  repeat' first
    | with_reducible assumption
    | exact lor_sub hL rfl
    | with_reducible apply Keeps.ite <;> intro _
    | with_reducible apply State.wr_keeps
    | with_reducible apply State.sgsRetarget_keeps
    | split

theorem State.stationNote_keeps {L : Nat} {u : State} (s : State) (k : Nat) (hL : 1 ||| L = L) (hu : Keeps L u s) :
    Keeps L u (State.stationNote s k) := by
  unfold State.stationNote
  try dsimp only
  repeat' first
    | with_reducible assumption
    | exact lor_sub hL rfl
    | with_reducible apply Keeps.ite <;> intro _
    | with_reducible apply State.wr_keeps
    | split

theorem State.stationsNote_keeps {L : Nat} {u : State} (s : State) (hL : 1 ||| L = L) (hu : Keeps L u s) :
    Keeps L u (State.stationsNote s) := by
  unfold State.stationsNote
  try dsimp only
  repeat' first
    | with_reducible assumption
    | exact lor_sub hL rfl
    | with_reducible apply State.stationNote_keeps
    | with_reducible apply Keeps.foldl
    | with_reducible apply Keeps.foldl_fst
    | intro _ _ _

theorem State.sgsMoves_keeps {L : Nat} {u : State} (s : State) (k : Nat) (hL : 1025 ||| L = L) (hu : Keeps L u s) :
    Keeps L u (State.sgsMoves s k) := by
  unfold State.sgsMoves
  try dsimp only
  repeat' first
    | with_reducible assumption
    | exact lor_sub hL rfl
    | with_reducible apply Keeps.ite <;> intro _
    | with_reducible apply State.wr_keeps
    | with_reducible apply State.setSgs_keeps
    | with_reducible apply Keeps.foldl
    | with_reducible apply Keeps.foldl_fst
    | intro _ _ _
    | split

theorem execSgsOffline_keeps {L : Nat} {u : State} (station : Nat) (off : Bool) (s : State) (hL : 33661953 ||| L = L) (hu : Keeps L u s) :
    KeepsO L u (execSgsOffline station off s) := by
  unfold execSgsOffline
  try dsimp only
  repeat' first
    | with_reducible assumption
    | exact lor_sub hL rfl
    | with_reducible apply KeepsO.of_next
    | with_reducible apply KeepsO.ite <;> intro _
    | with_reducible apply Keeps.ite <;> intro _
    | with_reducible apply State.bar_keeps
    | refine (State.bar_keeps _ _ _ ?_ ?_ ?_).next _ (by with_reducible assumption)
    | with_reducible apply State.wr_keeps
    | with_reducible apply State.stationNote_keeps
    | with_reducible apply State.sgsLehrEnd_keeps
    | with_reducible apply State.sgsMoves_keeps
    | with_reducible apply State.dropOps_keeps
    | with_reducible apply State.sgsRetarget_keeps
    | intro _ _
    | intro _
    | split

theorem State.sgsErr_keeps {L : Nat} {u : State} (s : State) (k : Nat) (st : Option Nat) (code : Nat) (d0 : optParam Nat 0) (d1 : optParam Nat 0) (hL : 8388633 ||| L = L) (hu : Keeps L u s) :
    Keeps L u (State.sgsErr s k st code d0 d1) := by
  unfold State.sgsErr
  try dsimp only
  repeat' first
    | with_reducible assumption
    | exact lor_sub hL rfl
    | with_reducible apply State.setErr_keeps
    | with_reducible apply State.file_keeps
    | split

theorem State.drawSgs_keeps {L : Nat} {u : State} (s : State) (svc : Nat) (l : List (Nat × Nat × Nat)) (hL : 9043995 ||| L = L) (hu : Keeps L u s) :
    Keeps L u (State.drawSgs s svc l).1 := by
  induction l generalizing s with
  | nil =>
    unfold State.drawSgs
    try dsimp only
    repeat' first
      | with_reducible assumption
      | exact lor_sub hL rfl
      | with_reducible apply State.draw_keeps
      | refine Keeps.of_fst (State.draw_keeps _ _ _ _ _ _ _ ?_ ?_) (by with_reducible assumption)
      | with_reducible apply State.freeAll_keeps
      | split
  | cons _ _ ih =>
    unfold State.drawSgs
    try dsimp only
    repeat' first
      | with_reducible assumption
      | exact lor_sub hL rfl
      | with_reducible apply State.draw_keeps
      | refine Keeps.of_fst (State.draw_keeps _ _ _ _ _ _ _ ?_ ?_) (by with_reducible assumption)
      | with_reducible apply State.freeAll_keeps
      | with_reducible apply ih
      | refine Keeps.of_fst (ih _ ?_) (by with_reducible assumption)
      | split

theorem State.sgsRelease_keeps {L : Nat} {u : State} (s : State) (st : Nat) (hL : 9045019 ||| L = L) (hu : Keeps L u s) :
    Keeps L u (State.sgsRelease s st) := by
  unfold State.sgsRelease
  try dsimp only
  repeat' first
    | with_reducible assumption
    | exact lor_sub hL rfl
    | with_reducible apply Keeps.ite <;> intro _
    | with_reducible apply State.cnt_keeps
    | with_reducible apply State.freeAll_keeps
    | with_reducible apply State.setReg_keeps
    | with_reducible apply State.setSgs_keeps
    | with_reducible apply State.stationsNote_keeps
    | with_reducible apply State.sgsStrmNote_keeps
    | with_reducible apply Keeps.foldl
    | with_reducible apply Keeps.foldl_fst
    | intro _ _ _
    | split

theorem State.sgsBind_keeps {L : Nat} {u : State} (s : State) (st : Nat) (prog : Nat) (route : Nat) (svc : Nat) (hL : 9045083 ||| L = L) (hu : Keeps L u s) :
    Keeps L u (State.sgsBind s st prog route svc).1 := by
  unfold State.sgsBind
  try dsimp only
  repeat' first
    | with_reducible assumption
    | exact lor_sub hL rfl
    | with_reducible apply Keeps.ite <;> intro _
    | with_reducible apply State.sgsErr_keeps
    | with_reducible apply State.drawSgs_keeps
    | refine Keeps.of_fst (State.drawSgs_keeps _ _ _ ?_ ?_) (by with_reducible assumption)
    | with_reducible apply State.sgsRelease_keeps
    | with_reducible apply State.wr_keeps
    | with_reducible apply State.setSgs_keeps
    | with_reducible apply State.setCnt_keeps
    | with_reducible apply State.setStream_keeps
    | with_reducible apply State.stationsNote_keeps
    | with_reducible apply State.sgsStrmNote_keeps
    | with_reducible apply Keeps.foldl
    | with_reducible apply Keeps.foldl_fst
    | intro _ _ _
    | split

theorem State.knnTiles_keeps {L : Nat} {u : State} (s : State) (j : Job) (n : Nat) (k : Nat) (hL : 8462337 ||| L = L) (hu : Keeps L u s) :
    Keeps L u (State.knnTiles s j n k) := by
  unfold State.knnTiles
  try dsimp only
  repeat' first
    | with_reducible assumption
    | exact lor_sub hL rfl
    | with_reducible apply State.updNode_keeps
    | with_reducible apply State.wake_keeps
    | with_reducible apply State.bump_keeps
    | with_reducible apply State.cnt_keeps
    | split

theorem State.startOp_keeps {L : Nat} {u : State} (s : State) (id : Nat) (n : Nat) (opc : Nat) (hL : 44019423 ||| L = L) (hu : Keeps L u s) :
    Keeps L u (State.startOp s id n opc) := by
  unfold State.startOp
  try dsimp only
  repeat' first
    | with_reducible assumption
    | exact lor_sub hL rfl
    | with_reducible apply Keeps.ite <;> intro _
    | with_reducible apply State.faultJob_keeps
    | with_reducible apply State.updNode_keeps
    | with_reducible apply State.stationNote_keeps
    | with_reducible apply State.knnTiles_keeps
    | with_reducible apply Keeps.foldl
    | with_reducible apply Keeps.foldl_fst
    | intro _ _ _
    | split
    | refine Keeps.upd hL ?_

theorem execBoxes_keeps {L : Nat} {u : State} (job : Nat) (node : Nat) (s : State) (hL : 44019423 ||| L = L) (hu : Keeps L u s) :
    KeepsO L u (execBoxes job node s) := by
  unfold execBoxes
  try dsimp only
  repeat' first
    | with_reducible assumption
    | exact lor_sub hL rfl
    | with_reducible apply KeepsO.of_next
    | with_reducible apply State.startOp_keeps

theorem execNms_keeps {L : Nat} {u : State} (job : Nat) (node : Nat) (s : State) (hL : 44019423 ||| L = L) (hu : Keeps L u s) :
    KeepsO L u (execNms job node s) := by
  unfold execNms
  try dsimp only
  repeat' first
    | with_reducible assumption
    | exact lor_sub hL rfl
    | with_reducible apply KeepsO.of_next
    | with_reducible apply State.startOp_keeps

theorem execTopk_keeps {L : Nat} {u : State} (job : Nat) (node : Nat) (s : State) (hL : 44019423 ||| L = L) (hu : Keeps L u s) :
    KeepsO L u (execTopk job node s) := by
  unfold execTopk
  try dsimp only
  repeat' first
    | with_reducible assumption
    | exact lor_sub hL rfl
    | with_reducible apply KeepsO.of_next
    | with_reducible apply State.startOp_keeps

theorem execIou_keeps {L : Nat} {u : State} (job : Nat) (node : Nat) (s : State) (hL : 44019423 ||| L = L) (hu : Keeps L u s) :
    KeepsO L u (execIou job node s) := by
  unfold execIou
  try dsimp only
  repeat' first
    | with_reducible assumption
    | exact lor_sub hL rfl
    | with_reducible apply KeepsO.of_next
    | with_reducible apply State.startOp_keeps

theorem execHset_keeps {L : Nat} {u : State} (job : Nat) (node : Nat) (s : State) (hL : 44019423 ||| L = L) (hu : Keeps L u s) :
    KeepsO L u (execHset job node s) := by
  unfold execHset
  try dsimp only
  repeat' first
    | with_reducible assumption
    | exact lor_sub hL rfl
    | with_reducible apply KeepsO.of_next
    | with_reducible apply State.startOp_keeps

theorem execKnn_keeps {L : Nat} {u : State} (job : Nat) (node : Nat) (s : State) (hL : 44019423 ||| L = L) (hu : Keeps L u s) :
    KeepsO L u (execKnn job node s) := by
  unfold execKnn
  try dsimp only
  repeat' first
    | with_reducible assumption
    | exact lor_sub hL rfl
    | with_reducible apply KeepsO.of_next
    | with_reducible apply State.startOp_keeps

theorem execAssign_keeps {L : Nat} {u : State} (job : Nat) (node : Nat) (s : State) (hL : 44019423 ||| L = L) (hu : Keeps L u s) :
    KeepsO L u (execAssign job node s) := by
  unfold execAssign
  try dsimp only
  repeat' first
    | with_reducible assumption
    | exact lor_sub hL rfl
    | with_reducible apply KeepsO.of_next
    | with_reducible apply State.startOp_keeps

theorem execTrack_keeps {L : Nat} {u : State} (job : Nat) (node : Nat) (s : State) (hL : 44019423 ||| L = L) (hu : Keeps L u s) :
    KeepsO L u (execTrack job node s) := by
  unfold execTrack
  try dsimp only
  repeat' first
    | with_reducible assumption
    | exact lor_sub hL rfl
    | with_reducible apply KeepsO.of_next
    | with_reducible apply State.startOp_keeps

theorem State.sgsCount_keeps {L : Nat} {u : State} (s : State) (j : Job) (k : Nat) (r : SgsRes) (hL : 8388633 ||| L = L) (hu : Keeps L u s) :
    Keeps L u (State.sgsCount s j k r) := by
  have ha : ∀ (t : State) (i n sc : Nat), Keeps L u t → Keeps L u (if n = 0 then t else t.cnt i sc n) :=
    fun t i n sc ht => Keeps.ite (fun _ => ht) (fun _ => State.cnt_keeps _ _ _ _ (lor_sub hL rfl) ht)
  have he : ∀ (t : State) (b : Bool) (st : Option Nat) (code : Nat), Keeps L u t → Keeps L u (if b then t.sgsErr k st code else t) :=
    fun t b st code ht => Keeps.ite (fun _ => State.sgsErr_keeps _ _ _ _ _ _ (lor_sub hL rfl) ht) (fun _ => ht)
  unfold State.sgsCount
  refine he _ _ _ _ (he _ _ _ _ (he _ _ _ _ (he _ _ _ _ (Keeps.ite (fun _ => ?_) (fun _ => ?_)))))
  · exact State.bump_keeps _ _ _ (lor_sub hL rfl) (State.cnt_keeps _ _ _ _ (lor_sub hL rfl) (ha _ _ _ _ (ha _ _ _ _ (ha _ _ _ _ (ha _ _ _ _ (ha _ _ _ _ (ha _ _ _ _
      (ha _ _ _ _ (ha _ _ _ _ hu)))))))))
  · exact ha _ _ _ _ (ha _ _ _ _ (ha _ _ _ _ (ha _ _ _ _ (ha _ _ _ _ (ha _ _ _ _ (ha _ _ _ _ (ha _ _ _ _ hu)))))))

theorem State.ckSgs_keeps {L : Nat} {u : State} (s : State) (st : Nat) (n : Nat) (part : SgsPart) (hL : 64 ||| L = L) (hu : Keeps L u s) :
    Keeps L u (State.ckSgs s st n part) := by
  unfold State.ckSgs
  try dsimp only
  repeat' first
    | with_reducible assumption
    | exact lor_sub hL rfl
    | with_reducible apply State.setStream_keeps

theorem State.sgsApply_keeps {L : Nat} {u : State} (s : State) (j : Job) (n : Nat) (r : SgsRes) (hL : 9281 ||| L = L) (hu : Keeps L u s) :
    Keeps L u (State.sgsApply s j n r) := by
  unfold State.sgsApply
  try dsimp only
  repeat' first
    | with_reducible assumption
    | exact lor_sub hL rfl
    | with_reducible apply Keeps.ite <;> intro _
    | with_reducible apply State.sgsStrmNote_keeps
    | with_reducible apply State.ckSgs_keeps
    | with_reducible apply State.setSgs_keeps
    | with_reducible apply State.updJob_keeps
    | split

theorem execSgsOperationCommit_keeps {L : Nat} {u : State} (station : Nat) (s : State) (hL : 43984607 ||| L = L) (hu : Keeps L u s) :
    KeepsO L u (execSgsOperationCommit station s) := by
  unfold execSgsOperationCommit
  try dsimp only
  repeat' first
    | with_reducible assumption
    | exact lor_sub hL rfl
    | with_reducible apply KeepsO.of_next
    | with_reducible apply State.sgsLehrEnd_keeps
    | with_reducible apply State.stationNote_keeps
    | with_reducible apply State.sgsCount_keeps
    | with_reducible apply State.sgsApply_keeps
    | with_reducible apply State.add64_keeps
    | with_reducible apply State.wake_keeps
    | with_reducible apply State.commitNode_keeps
    | split
    | refine Keeps.upd hL ?_

theorem execSgsMoveDone_keeps {L : Nat} {u : State} (stream : Nat) (s : State) (hL : 8389659 ||| L = L) (hu : Keeps L u s) :
    KeepsO L u (execSgsMoveDone stream s) := by
  unfold execSgsMoveDone
  try dsimp only
  repeat' first
    | with_reducible assumption
    | exact lor_sub hL rfl
    | with_reducible apply KeepsO.of_next
    | with_reducible apply KeepsO.ite <;> intro _
    | with_reducible apply Keeps.ite <;> intro _
    | with_reducible apply State.setSgs_keeps
    | with_reducible apply State.wr_keeps
    | with_reducible apply State.devError_keeps
    | with_reducible apply State.sgsErr_keeps
    | with_reducible apply State.cnt_keeps
    | with_reducible apply State.sgsLehrEnd_keeps
    | with_reducible apply State.stationsNote_keeps
    | with_reducible apply State.sgsStrmNote_keeps
    | split

theorem State.fenceStation_keeps {L : Nat} {u : State} (s : State) (k : Nat) (hL : 107521 ||| L = L) (hu : Keeps L u s) :
    Keeps L u (State.fenceStation s k) := by
  unfold State.fenceStation
  try dsimp only
  repeat' first
    | with_reducible assumption
    | exact lor_sub hL rfl
    | with_reducible apply State.stationNote_keeps
    | with_reducible apply State.sgsMoves_keeps
    | with_reducible apply State.wr_keeps
    | with_reducible apply State.dropOps_keeps

end Sys2Proof.Machine
end

