-- ==== Sys2Proof/Laws/KeepMem.lean ====
section
/-! SUPPORT. Every operation of Machine/Mem.lean keeps what `Keeps` says. -/

set_option Elab.async false

namespace Sys2Proof.Machine

theorem execSbPinnedAlloc_keeps {L : Nat} {u : State} (cluster : Nat) (svc : Nat) (bytes : Nat) (job : Nat) (s : State) (hL : 262145 ||| L = L) (hu : Keeps L u s) :
    KeepsO L u (execSbPinnedAlloc cluster svc bytes job s) := by
  unfold execSbPinnedAlloc
  try dsimp only
  repeat' first
    | with_reducible assumption
    | exact lor_sub hL rfl
    | with_reducible apply KeepsO.of_next
    | with_reducible apply KeepsO.ite <;> intro _
    | with_reducible apply Keeps.ite <;> intro _
    | refine State.pin_keeps _ _ _ _ _ ?_ ?_ _ (by with_reducible assumption)
    | with_reducible apply Keeps.getD
    | intro _ _
    | split

theorem State.lineCycle_keeps {L : Nat} {u : State} (s : State) (cluster : Nat) (line : Nat) (acc : List PortAccess) (old : List Nat) (hL : 33554433 ||| L = L) (hu : Keeps L u s) :
    Keeps L u (State.lineCycle s cluster line acc old).1 := by
  unfold State.lineCycle
  try dsimp only
  repeat' first
    | with_reducible assumption
    | exact lor_sub hL rfl
    | with_reducible apply Keeps.ite <;> intro _
    | with_reducible apply State.bump_keeps
    | with_reducible apply State.post_keeps
    | with_reducible apply Keeps.foldl
    | with_reducible apply Keeps.foldl_fst
    | intro _ _ _
    | split

theorem execWayLinePass_keeps {L : Nat} {u : State} (cluster : Nat) (way : Nat) (line : Nat) (old : List Nat) (acc : List PortAccess) (s : State) (hL : 33816577 ||| L = L) (hu : Keeps L u s) :
    KeepsO L u (execWayLinePass cluster way line old acc s) := by
  unfold execWayLinePass
  try dsimp only
  repeat' first
    | with_reducible assumption
    | exact lor_sub hL rfl
    | with_reducible apply KeepsO.of_next
    | with_reducible apply KeepsO.ite <;> intro _
    | with_reducible apply Keeps.ite <;> intro _
    | with_reducible apply State.lineCycle_keeps
    | refine Keeps.of_fst (State.lineCycle_keeps _ _ _ _ _ ?_ ?_) (by with_reducible assumption)
    | with_reducible apply State.post_keeps
    | with_reducible apply State.sbNote_keeps
    | with_reducible apply State.setStationBuf_keeps
    | split

theorem State.fenceEngine_keeps {L : Nat} {u : State} (s : State) (e : Nat) (hL : 9044699 ||| L = L) (hu : Keeps L u s) :
    Keeps L u (State.fenceEngine s e) := by
  unfold State.fenceEngine
  try dsimp only
  repeat' first
    | with_reducible assumption
    | exact lor_sub hL rfl
    | with_reducible apply State.wr_keeps
    | with_reducible apply State.setEngine_keeps
    | with_reducible apply State.undoPic_keeps
    | with_reducible apply State.setEngineSt_keeps
    | with_reducible apply State.enginesNote_keeps
    | with_reducible apply State.beginMoves_keeps
    | split

theorem State.fenceUnit_keeps {L : Nat} {u : State} (s : State) (kind : Nat) (unit : Nat) (code : Nat) (own : Bool) (hL : 9152219 ||| L = L) (hu : Keeps L u s) :
    Keeps L u (State.fenceUnit s kind unit code own) := by
  unfold State.fenceUnit
  try dsimp only
  repeat' first
    | with_reducible assumption
    | exact lor_sub hL rfl
    | with_reducible apply Keeps.ite <;> intro _
    | with_reducible apply State.fenceFiled_keeps
    | with_reducible apply State.fenceCore_keeps
    | with_reducible apply State.fenceEngine_keeps
    | with_reducible apply State.wr_keeps
    | with_reducible apply State.fenceStation_keeps
    | split

theorem State.coreMemError_keeps {L : Nat} {u : State} (s : State) (c : Nat) (hL : 9152219 ||| L = L) (hu : Keeps L u s) :
    Keeps L u (State.coreMemError s c) := by
  unfold State.coreMemError
  try dsimp only
  repeat' first
    | with_reducible assumption
    | exact lor_sub hL rfl
    | with_reducible apply Keeps.ite <;> intro _
    | with_reducible apply State.fenceUnit_keeps
    | with_reducible apply State.note_keeps
    | with_reducible apply State.stopEnd_keeps
    | with_reducible apply State.moveTile_keeps
    | split
    | refine Keeps.upd hL ?_

theorem State.unitError_keeps {L : Nat} {u : State} (s : State) (kind : Nat) (unit : Nat) (hL : 8 ||| L = L) (hu : Keeps L u s) :
    Keeps L u (State.unitError s kind unit).1 := by
  unfold State.unitError
  try dsimp only
  repeat' first
    | with_reducible assumption
    | refine Keeps.upd hL ?_

theorem State.redoPic_keeps {L : Nat} {u : State} (s : State) (e : Nat) (hL : 640 ||| L = L) (hu : Keeps L u s) :
    Keeps L u (State.redoPic s e) := by
  unfold State.redoPic
  try dsimp only
  repeat' first
    | with_reducible assumption
    | exact lor_sub hL rfl
    | with_reducible apply State.setEngine_keeps
    | with_reducible apply State.reshape_keeps
    | split

theorem State.keyLost_keeps {L : Nat} {u : State} (s : State) (hL : 12582937 ||| L = L) (hu : Keeps L u s) :
    Keeps L u (State.keyLost s) := by
  unfold State.keyLost
  try dsimp only
  repeat' first
    | with_reducible assumption
    | exact lor_sub hL rfl
    | with_reducible apply State.wr_keeps
    | with_reducible apply State.file_keeps
    | with_reducible apply State.setErr_keeps
    | refine Keeps.updSec hL ?_
    | refine Keeps.upd hL ?_

theorem execOnChipEccError_keeps {L : Nat} {u : State} (kind : Nat) (inst : Nat) (line : Nat) (owner : Option Nat) (correctable : Bool) (s : State) (hL : 14395099 ||| L = L) (hu : Keeps L u s) :
    KeepsO L u (execOnChipEccError kind inst line owner correctable s) := by
  unfold execOnChipEccError
  try dsimp only
  repeat' first
    | with_reducible assumption
    | exact lor_sub hL rfl
    | with_reducible apply KeepsO.of_next
    | with_reducible apply KeepsO.ite <;> intro _
    | with_reducible apply Keeps.ite <;> intro _
    | with_reducible apply State.bump_keeps
    | with_reducible apply State.setErr_keeps
    | with_reducible apply State.devError_keeps
    | with_reducible apply State.file_keeps
    | with_reducible apply State.coreMemError_keeps
    | with_reducible apply State.rerunJob_keeps
    | with_reducible apply State.unitError_keeps
    | refine Keeps.of_fst (State.unitError_keeps _ _ _ ?_ ?_) (by with_reducible assumption)
    | with_reducible apply State.fenceUnit_keeps
    | with_reducible apply State.redoPic_keeps
    | with_reducible apply State.keyLost_keeps
    | split

theorem execSecureSramWipeDone_keeps {L : Nat} {u : State} (s : State) (hL : 4194305 ||| L = L) (hu : Keeps L u s) :
    KeepsO L u (execSecureSramWipeDone s) := by
  unfold execSecureSramWipeDone
  try dsimp only
  repeat' first
    | with_reducible assumption
    | exact lor_sub hL rfl
    | with_reducible apply KeepsO.of_next
    | with_reducible apply KeepsO.ite <;> intro _
    | with_reducible apply Keeps.ite <;> intro _
    | with_reducible apply State.bump_keeps
    | with_reducible apply State.wr_keeps
    | split
    | refine Keeps.updSec hL ?_
    | refine Keeps.upd hL ?_

theorem State.startWipe_keeps {L : Nat} {u : State} (s : State) (cause : Nat) (hL : 4194305 ||| L = L) (hu : Keeps L u s) :
    Keeps L u (State.startWipe s cause) := by
  unfold State.startWipe
  try dsimp only
  repeat' first
    | with_reducible assumption
    | exact lor_sub hL rfl
    | with_reducible apply Keeps.ite <;> intro _
    | with_reducible apply State.wr_keeps
    | split
    | refine Keeps.updSec hL ?_
    | refine Keeps.upd hL ?_

end Sys2Proof.Machine
end

