-- ==== Sys2Proof/Laws/KeepHlth.lean ====
section
/-! SUPPORT. Every operation of Machine/Hlth.lean keeps what `Keeps` says. -/

set_option Elab.async false

namespace Sys2Proof.Machine

theorem execClearAll_keeps {L : Nat} {u : State} (s : State) (hL : 33554441 ||| L = L) (hu : Keeps L u s) :
    KeepsO L u (execClearAll s) := by
  unfold execClearAll
  try dsimp only
  repeat' first
    | with_reducible assumption
    | exact lor_sub hL rfl
    | with_reducible apply KeepsO.of_next
    | with_reducible apply State.bar_keeps
    | refine (State.bar_keeps _ _ _ ?_ ?_ ?_).next _ (by with_reducible assumption)
    | with_reducible apply State.recSummary_keeps
    | intro _ _
    | intro _
    | refine Keeps.upd hL ?_

theorem State.planFalls_keeps {L : Nat} {u : State} (s : State) (hL : 9 ||| L = L) (hu : Keeps L u s) :
    Keeps L u (State.planFalls s) := by
  unfold State.planFalls
  try dsimp only
  repeat' first
    | with_reducible assumption
    | exact lor_sub hL rfl
    | with_reducible apply State.wr_keeps
    | refine Keeps.upd hL ?_

theorem execPlanNow_keeps {L : Nat} {u : State} (s : State) (hL : 33554441 ||| L = L) (hu : Keeps L u s) :
    KeepsO L u (execPlanNow s) := by
  unfold execPlanNow
  try dsimp only
  repeat' first
    | with_reducible assumption
    | exact lor_sub hL rfl
    | with_reducible apply KeepsO.of_next
    | with_reducible apply State.bar_keeps
    | refine (State.bar_keeps _ _ _ ?_ ?_ ?_).next _ (by with_reducible assumption)
    | with_reducible apply State.wr_keeps
    | with_reducible apply State.planFalls_keeps
    | intro _ _
    | intro _
    | split

theorem execHlthUnfence_keeps {L : Nat} {u : State} (w : BitVec 32) (s : State) (hL : 33554441 ||| L = L) (hu : Keeps L u s) :
    KeepsO L u (execHlthUnfence w s) := by
  unfold execHlthUnfence
  try dsimp only
  repeat' first
    | with_reducible assumption
    | exact lor_sub hL rfl
    | with_reducible apply KeepsO.of_next
    | with_reducible apply KeepsO.ite <;> intro _
    | with_reducible apply Keeps.ite <;> intro _
    | with_reducible apply State.bar_keeps
    | refine (State.bar_keeps _ _ _ ?_ ?_ ?_).next _ (by with_reducible assumption)
    | intro _ _
    | intro _
    | split
    | refine Keeps.upd hL ?_

theorem execRecordEntryClear_keeps {L : Nat} {u : State} (entry : Nat) (s : State) (hL : 33554441 ||| L = L) (hu : Keeps L u s) :
    KeepsO L u (execRecordEntryClear entry s) := by
  unfold execRecordEntryClear
  try dsimp only
  repeat' first
    | with_reducible assumption
    | exact lor_sub hL rfl
    | with_reducible apply KeepsO.of_next
    | with_reducible apply State.bar_keeps
    | refine (State.bar_keeps _ _ _ ?_ ?_ ?_).next _ (by with_reducible assumption)
    | with_reducible apply State.recSummary_keeps
    | intro _ _
    | intro _
    | refine Keeps.upd hL ?_

theorem State.planStart_keeps {L : Nat} {u : State} (s : State) (hL : 9 ||| L = L) (hu : Keeps L u s) :
    Keeps L u (State.planStart s) := by
  unfold State.planStart
  try dsimp only
  repeat' first
    | with_reducible assumption
    | exact lor_sub hL rfl
    | with_reducible apply State.wr_keeps
    | refine Keeps.upd hL ?_

theorem execHangDetection_keeps {L : Nat} {u : State} (kind : Nat) (unit : Nat) (s : State) (hL : 9152219 ||| L = L) (hu : Keeps L u s) :
    KeepsO L u (execHangDetection kind unit s) := by
  unfold execHangDetection
  try dsimp only
  repeat' first
    | with_reducible assumption
    | exact lor_sub hL rfl
    | with_reducible apply KeepsO.of_next
    | with_reducible apply KeepsO.ite <;> intro _
    | with_reducible apply Keeps.ite <;> intro _
    | with_reducible apply State.fenceUnit_keeps
    | with_reducible apply State.hlthErr_keeps
    | with_reducible apply State.cnt_keeps
    | split

theorem State.unfence_keeps {L : Nat} {u : State} (s : State) (kind : Nat) (unit : Nat) (hL : 8389723 ||| L = L) (hu : Keeps L u s) :
    Keeps L u (State.unfence s kind unit) := by
  unfold State.unfence
  try dsimp only
  repeat' first
    | with_reducible assumption
    | exact lor_sub hL rfl
    | with_reducible apply State.note_keeps
    | with_reducible apply State.fenceNote_keeps
    | with_reducible apply State.wr_keeps
    | with_reducible apply State.enginesNote_keeps
    | with_reducible apply State.placeWaiting_keeps
    | with_reducible apply State.setEngineSt_keeps
    | with_reducible apply State.stationNote_keeps
    | with_reducible apply State.sgsRetarget_keeps
    | split

theorem State.testFails_keeps {L : Nat} {u : State} (s : State) (kind : Nat) (unit : Nat) (failing : Nat) (hL : 8388635 ||| L = L) (hu : Keeps L u s) :
    Keeps L u (State.testFails s kind unit failing) := by
  unfold State.testFails
  try dsimp only
  repeat' first
    | with_reducible assumption
    | exact lor_sub hL rfl
    | with_reducible apply State.devError_keeps
    | with_reducible apply State.hlthErr_keeps

theorem execSelfTestDone_keeps {L : Nat} {u : State} (kind : Nat) (unit : Nat) (failing : Nat) (s : State) (hL : 9152219 ||| L = L) (hu : Keeps L u s) :
    KeepsO L u (execSelfTestDone kind unit failing s) := by
  unfold execSelfTestDone
  try dsimp only
  repeat' first
    | with_reducible assumption
    | exact lor_sub hL rfl
    | with_reducible apply KeepsO.of_next
    | with_reducible apply KeepsO.ite <;> intro _
    | with_reducible apply Keeps.ite <;> intro _
    | with_reducible apply State.unfence_keeps
    | with_reducible apply State.testFails_keeps
    | with_reducible apply State.fenceUnit_keeps
    | split
    | refine Keeps.upd hL ?_

theorem execMarginPlanDue_keeps {L : Nat} {u : State} (s : State) (hL : 9 ||| L = L) (hu : Keeps L u s) :
    KeepsO L u (execMarginPlanDue s) := by
  unfold execMarginPlanDue
  try dsimp only
  repeat' first
    | with_reducible assumption
    | exact lor_sub hL rfl
    | with_reducible apply KeepsO.of_next
    | with_reducible apply KeepsO.ite <;> intro _
    | with_reducible apply Keeps.ite <;> intro _
    | with_reducible apply State.planStart_keeps
    | with_reducible apply State.wakeUp_keeps
    | with_reducible apply State.planFalls_keeps
    | split

theorem execIdleMoment_keeps {L : Nat} {u : State} (s : State) (hL : 9 ||| L = L) (hu : Keeps L u s) :
    KeepsO L u (execIdleMoment s) := by
  unfold execIdleMoment
  try dsimp only
  repeat' first
    | with_reducible assumption
    | exact lor_sub hL rfl
    | with_reducible apply KeepsO.of_next
    | with_reducible apply KeepsO.ite <;> intro _
    | with_reducible apply Keeps.ite <;> intro _
    | with_reducible apply State.planStart_keeps
    | split

theorem execPlanForced_keeps {L : Nat} {u : State} (s : State) (hL : 8388617 ||| L = L) (hu : Keeps L u s) :
    KeepsO L u (execPlanForced s) := by
  unfold execPlanForced
  try dsimp only
  repeat' first
    | with_reducible assumption
    | exact lor_sub hL rfl
    | with_reducible apply KeepsO.of_next
    | with_reducible apply KeepsO.ite <;> intro _
    | with_reducible apply Keeps.ite <;> intro _
    | with_reducible apply State.cnt_keeps
    | with_reducible apply State.planStart_keeps
    | split

theorem execAgeingMeasurementDone_keeps {L : Nat} {u : State} (monitor : Nat) (fresh : Nat) (stressed : Nat) (s : State) (hL : 8388633 ||| L = L) (hu : Keeps L u s) :
    KeepsO L u (execAgeingMeasurementDone monitor fresh stressed s) := by
  unfold execAgeingMeasurementDone
  try dsimp only
  repeat' first
    | with_reducible assumption
    | exact lor_sub hL rfl
    | with_reducible apply KeepsO.of_next
    | with_reducible apply KeepsO.ite <;> intro _
    | with_reducible apply Keeps.ite <;> intro _
    | with_reducible apply State.hlthErr_keeps
    | with_reducible apply State.wr_keeps
    | split
    | refine Keeps.upd hL ?_

theorem State.planApply_keeps {L : Nat} {u : State} (s : State) (g : Nat) (hL : 42706651 ||| L = L) (hu : Keeps L u s) :
    Keeps L u (State.planApply s g) := by
  unfold State.planApply
  try dsimp only
  repeat' first
    | with_reducible assumption
    | exact lor_sub hL rfl
    | with_reducible apply Keeps.ite <;> intro _
    | with_reducible apply State.post_keeps
    | with_reducible apply State.wr_keeps
    | with_reducible apply State.stopCore_keeps
    | with_reducible apply State.devError_keeps
    | with_reducible apply State.hlthErr_keeps
    | with_reducible apply State.fenceUnit_keeps
    | with_reducible apply Keeps.foldl
    | with_reducible apply Keeps.foldl_fst
    | intro _ _ _
    | split

theorem execMarginPlanEnd_keeps {L : Nat} {u : State} (s : State) (hL : 44803803 ||| L = L) (hu : Keeps L u s) :
    KeepsO L u (execMarginPlanEnd s) := by
  unfold execMarginPlanEnd
  try dsimp only
  repeat' first
    | with_reducible assumption
    | exact lor_sub hL rfl
    | with_reducible apply KeepsO.of_next
    | with_reducible apply KeepsO.ite <;> intro _
    | with_reducible apply Keeps.ite <;> intro _
    | with_reducible apply State.planApply_keeps
    | with_reducible apply State.cnt_keeps
    | with_reducible apply State.wr64_keeps
    | with_reducible apply State.wr_keeps
    | with_reducible apply State.post_keeps
    | with_reducible apply State.sendTo_keeps
    | with_reducible apply State.planStart_keeps
    | with_reducible apply Keeps.foldl
    | with_reducible apply Keeps.foldl_fst
    | intro _ _ _
    | split
    | refine Keeps.upd hL ?_

end Sys2Proof.Machine
end

