-- ==== Sys2Proof/Laws/KeepJrnl.lean ====
section
/-! SUPPORT. Every operation of Machine/Jrnl.lean keeps what `Keeps` says. -/

set_option Elab.async false

namespace Sys2Proof.Machine

theorem State.jrnlCfg_keeps {L : Nat} {u : State} (s : State) (w : BitVec 32) (hL : 8388633 ||| L = L) (hu : Keeps L u s) :
    Keeps L u (State.jrnlCfg s w) := by
  unfold State.jrnlCfg
  try dsimp only
  repeat' first
    | with_reducible assumption
    | exact lor_sub hL rfl
    | with_reducible apply State.cfgWrite_keeps

theorem State.jrnlCfgErr_keeps {L : Nat} {u : State} (s : State) (w : BitVec 32) (hL : 8388633 ||| L = L) (hu : Keeps L u s) :
    Keeps L u (State.jrnlCfgErr s w) := by
  unfold State.jrnlCfgErr
  try dsimp only
  repeat' first
    | with_reducible assumption
    | exact lor_sub hL rfl
    | with_reducible apply State.hifErr_keeps

theorem State.startRecovery_keeps {L : Nat} {u : State} (s : State) (entries : Tbl Entry) (log : List (Nat × EmitRec)) (hL : 33554503 ||| L = L) (hu : Keeps L u s) :
    Keeps L u (State.startRecovery s entries log) := by
  unfold State.startRecovery
  try dsimp only
  repeat' first
    | with_reducible assumption
    | exact lor_sub hL rfl
    | with_reducible apply Keeps.ite <;> intro _
    | with_reducible apply State.setPring_keeps
    | with_reducible apply State.sendTo_keeps
    | with_reducible apply State.setStream_keeps
    | with_reducible apply State.postRec_keeps
    | with_reducible apply State.wr_keeps
    | with_reducible apply Keeps.foldl
    | with_reducible apply Keeps.foldl_fst
    | intro _ _ _
    | split
    | refine Keeps.upd hL ?_

theorem State.recover_keeps {L : Nat} {u : State} (s2 : State) (host : Option (List (BitVec 1024) × List (BitVec 128))) (hL : 41943135 ||| L = L) (hu : Keeps L u s2) :
    Keeps L u (State.recover s2 host) := by
  unfold State.recover
  try dsimp only
  repeat' first
    | with_reducible assumption
    | exact lor_sub hL rfl
    | with_reducible apply Keeps.ite <;> intro _
    | with_reducible apply State.startRecovery_keeps
    | with_reducible apply State.journalLost_keeps
    | with_reducible apply State.wr_keeps
    | with_reducible apply Keeps.foldl
    | with_reducible apply Keeps.foldl_fst
    | intro _ _ _
    | split

theorem execJrnlRecover_keeps {L : Nat} {u : State} (w : BitVec 32) (host : Option (List (BitVec 1024) × List (BitVec 128))) (s : State) (hL : 41943135 ||| L = L) (hu : Keeps L u s) :
    KeepsO L u (execJrnlRecover w host s) := by
  unfold execJrnlRecover
  try dsimp only
  repeat' first
    | with_reducible assumption
    | exact lor_sub hL rfl
    | with_reducible apply KeepsO.of_next
    | with_reducible apply KeepsO.ite <;> intro _
    | with_reducible apply Keeps.ite <;> intro _
    | with_reducible apply State.bar_keeps
    | refine (State.bar_keeps _ _ _ ?_ ?_ ?_).next _ (by with_reducible assumption)
    | with_reducible apply State.jrnlCfg_keeps
    | with_reducible apply State.wr_keeps
    | with_reducible apply State.jrnlCfgErr_keeps
    | with_reducible apply State.recover_keeps
    | intro _ _
    | intro _
    | split
    | refine Keeps.upd hL ?_

theorem execJrnlEnable_keeps {L : Nat} {u : State} (w : BitVec 32) (s : State) (hL : 41943069 ||| L = L) (hu : Keeps L u s) :
    KeepsO L u (execJrnlEnable w s) := by
  unfold execJrnlEnable
  try dsimp only
  repeat' first
    | with_reducible assumption
    | exact lor_sub hL rfl
    | with_reducible apply KeepsO.of_next
    | with_reducible apply KeepsO.ite <;> intro _
    | with_reducible apply Keeps.ite <;> intro _
    | with_reducible apply State.bar_keeps
    | refine (State.bar_keeps _ _ _ ?_ ?_ ?_).next _ (by with_reducible assumption)
    | with_reducible apply State.jrnlCfg_keeps
    | with_reducible apply State.wr_keeps
    | with_reducible apply State.jrnlCfgErr_keeps
    | intro _ _
    | intro _
    | split
    | refine Keeps.upd hL ?_

theorem execJrnlDisable_keeps {L : Nat} {u : State} (w : BitVec 32) (s : State) (hL : 41943069 ||| L = L) (hu : Keeps L u s) :
    KeepsO L u (execJrnlDisable w s) := by
  unfold execJrnlDisable
  try dsimp only
  repeat' first
    | with_reducible assumption
    | exact lor_sub hL rfl
    | with_reducible apply KeepsO.of_next
    | with_reducible apply KeepsO.ite <;> intro _
    | with_reducible apply Keeps.ite <;> intro _
    | with_reducible apply State.bar_keeps
    | refine (State.bar_keeps _ _ _ ?_ ?_ ?_).next _ (by with_reducible assumption)
    | with_reducible apply State.jrnlCfgErr_keeps
    | with_reducible apply State.wr_keeps
    | with_reducible apply State.jrnlCfg_keeps
    | intro _ _
    | intro _
    | split
    | refine Keeps.upd hL ?_

theorem execJrnlDrainEnd_keeps {L : Nat} {u : State} (s : State) (hL : 5 ||| L = L) (hu : Keeps L u s) :
    KeepsO L u (execJrnlDrainEnd s) := by
  unfold execJrnlDrainEnd
  try dsimp only
  repeat' first
    | with_reducible assumption
    | exact lor_sub hL rfl
    | with_reducible apply KeepsO.of_next
    | with_reducible apply KeepsO.ite <;> intro _
    | with_reducible apply Keeps.ite <;> intro _
    | with_reducible apply State.wr_keeps
    | split
    | refine Keeps.upd hL ?_

theorem execRecoveryEnd_keeps {L : Nat} {u : State} (s : State) (hL : 3 ||| L = L) (hu : Keeps L u s) :
    KeepsO L u (execRecoveryEnd s) := by
  unfold execRecoveryEnd
  try dsimp only
  repeat' first
    | with_reducible assumption
    | exact lor_sub hL rfl
    | with_reducible apply KeepsO.of_next
    | with_reducible apply KeepsO.ite <;> intro _
    | with_reducible apply Keeps.ite <;> intro _
    | with_reducible apply State.wr_keeps
    | with_reducible apply State.sendSvc_keeps
    | with_reducible apply Keeps.foldl
    | with_reducible apply Keeps.foldl_fst
    | intro _ _ _
    | split

theorem execMirrorRebuildDone_keeps {L : Nat} {u : State} (s : State) (hL : 5 ||| L = L) (hu : Keeps L u s) :
    KeepsO L u (execMirrorRebuildDone s) := by
  unfold execMirrorRebuildDone
  try dsimp only
  repeat' first
    | with_reducible assumption
    | exact lor_sub hL rfl
    | with_reducible apply KeepsO.of_next
    | with_reducible apply KeepsO.ite <;> intro _
    | with_reducible apply Keeps.ite <;> intro _
    | with_reducible apply State.wr_keeps
    | split
    | refine Keeps.upd hL ?_

end Sys2Proof.Machine
end

