-- ==== Sys2Proof/Laws/KeepHash.lean ====
section
/-! SUPPORT. Every operation of Machine/Hash.lean keeps what `Keeps` says. -/

set_option Elab.async false

namespace Sys2Proof.Machine

theorem State.putBytes_keeps {L : Nat} {u : State} (s : State) (a : Nat) (l : List Nat) (hL : 1 ||| L = L) (hu : Keeps L u s) :
    Keeps L u (State.putBytes s a l) := by
  unfold State.putBytes
  try dsimp only
  repeat' first
    | with_reducible assumption
    | exact lor_sub hL rfl
    | with_reducible apply State.setReg_keeps
    | with_reducible apply Keeps.foldl
    | with_reducible apply Keeps.foldl_fst
    | intro _ _ _

theorem State.cfgExtend_keeps {L : Nat} {u : State} (s : State) (kind : Nat) (item : List Nat) (hL : 1 ||| L = L) (hu : Keeps L u s) :
    Keeps L u (State.cfgExtend s kind item) := by
  unfold State.cfgExtend
  try dsimp only
  repeat' first
    | with_reducible assumption
    | exact lor_sub hL rfl
    | with_reducible apply State.bump_keeps
    | with_reducible apply State.putBytes_keeps

end Sys2Proof.Machine
end

