-- ==== Sys2Proof/Laws/KeepLnk.lean ====
section
/-! SUPPORT. Every operation of Machine/Lnk.lean keeps what `Keeps` says. -/

set_option Elab.async false

namespace Sys2Proof.Machine

theorem State.lnkNote_keeps {L : Nat} {u : State} (s : State) (hL : 1 ||| L = L) (hu : Keeps L u s) :
    Keeps L u (State.lnkNote s) := by
  unfold State.lnkNote
  try dsimp only
  repeat' first
    | with_reducible assumption
    | exact lor_sub hL rfl
    | with_reducible apply Keeps.ite <;> intro _
    | with_reducible apply State.wr_keeps
    | split

theorem State.lnkErr_keeps {L : Nat} {u : State} (s : State) (wh : Nat) (code : Nat) (d0 : optParam Nat 0) (d1 : optParam Nat 0) (hL : 8388633 ||| L = L) (hu : Keeps L u s) :
    Keeps L u (State.lnkErr s wh code d0 d1) := by
  unfold State.lnkErr
  try dsimp only
  repeat' first
    | with_reducible assumption
    | exact lor_sub hL rfl
    | with_reducible apply State.file_keeps
    | with_reducible apply State.setErr_keeps

theorem execLnkTopoWrite_keeps {L : Nat} {u : State} (w : BitVec 32) (s : State) (hL : 42991641 ||| L = L) (hu : Keeps L u s) :
    KeepsO L u (execLnkTopoWrite w s) := by
  unfold execLnkTopoWrite
  try dsimp only
  repeat' first
    | with_reducible assumption
    | exact lor_sub hL rfl
    | with_reducible apply KeepsO.of_next
    | with_reducible apply KeepsO.ite <;> intro _
    | with_reducible apply Keeps.ite <;> intro _
    | with_reducible apply State.bar_keeps
    | refine (State.bar_keeps _ _ _ ?_ ?_ ?_).next _ (by with_reducible assumption)
    | with_reducible apply State.setReg_keeps
    | with_reducible apply State.lnkNote_keeps
    | with_reducible apply State.cfgExtend_keeps
    | with_reducible apply State.lnkErr_keeps
    | intro _ _
    | intro _
    | split
    | refine Keeps.upd hL ?_

theorem State.sendTile_keeps {L : Nat} {u : State} (s : State) (t : SentTile) (again : Bool) (hL : 42991617 ||| L = L) (hu : Keeps L u s) :
    Keeps L u (State.sendTile s t again) := by
  unfold State.sendTile
  try dsimp only
  repeat' first
    | with_reducible assumption
    | exact lor_sub hL rfl
    | with_reducible apply Keeps.ite <;> intro _
    | with_reducible apply State.cnt_keeps
    | with_reducible apply State.post_keeps
    | with_reducible apply State.sendFlits_keeps
    | split
    | refine Keeps.upd hL ?_

theorem State.endUnreachable_keeps {L : Nat} {u : State} (s : State) (dev : Nat) (hL : 44019423 ||| L = L) (hu : Keeps L u s) :
    Keeps L u (State.endUnreachable s dev) := by
  unfold State.endUnreachable
  try dsimp only
  repeat' first
    | with_reducible assumption
    | exact lor_sub hL rfl
    | with_reducible apply Keeps.ite <;> intro _
    | with_reducible apply State.faultJob_keeps
    | with_reducible apply State.setErr_keeps
    | with_reducible apply Keeps.foldl
    | with_reducible apply Keeps.foldl_fst
    | intro _ _ _
    | split

theorem State.rerouted_keeps {L : Nat} {u : State} (s : State) (lost : Bool) (hL : 44019423 ||| L = L) (hu : Keeps L u s) :
    Keeps L u (State.rerouted s lost) := by
  unfold State.rerouted
  try dsimp only
  repeat' first
    | with_reducible assumption
    | exact lor_sub hL rfl
    | with_reducible apply Keeps.ite <;> intro _
    | with_reducible apply State.lnkNote_keeps
    | with_reducible apply State.sendTile_keeps
    | with_reducible apply State.endUnreachable_keeps
    | with_reducible apply Keeps.foldl
    | with_reducible apply Keeps.foldl_fst
    | intro _ _ _
    | split
    | refine Keeps.upd hL ?_

theorem execLnkPortEnable_keeps {L : Nat} {u : State} (port : Nat) (w : BitVec 32) (s : State) (hL : 44019423 ||| L = L) (hu : Keeps L u s) :
    KeepsO L u (execLnkPortEnable port w s) := by
  unfold execLnkPortEnable
  try dsimp only
  repeat' first
    | with_reducible assumption
    | exact lor_sub hL rfl
    | with_reducible apply KeepsO.of_next
    | with_reducible apply KeepsO.ite <;> intro _
    | with_reducible apply Keeps.ite <;> intro _
    | with_reducible apply State.bar_keeps
    | refine (State.bar_keeps _ _ _ ?_ ?_ ?_).next _ (by with_reducible assumption)
    | with_reducible apply State.lnkErr_keeps
    | with_reducible apply State.wr_keeps
    | with_reducible apply State.setPortSt_keeps
    | with_reducible apply State.rerouted_keeps
    | intro _ _
    | intro _
    | split

theorem State.tellTopology_keeps {L : Nat} {u : State} (s : State) (hL : 34603009 ||| L = L) (hu : Keeps L u s) :
    Keeps L u (State.tellTopology s) := by
  unfold State.tellTopology
  try dsimp only
  repeat' first
    | with_reducible assumption
    | exact lor_sub hL rfl
    | with_reducible apply State.sendFlits_keeps
    | with_reducible apply State.post_keeps
    | with_reducible apply Keeps.foldl
    | with_reducible apply Keeps.foldl_fst
    | intro _ _ _

theorem execLnkPortLehrEnd_keeps {L : Nat} {u : State} (port : Nat) (s : State) (hL : 44019423 ||| L = L) (hu : Keeps L u s) :
    KeepsO L u (execLnkPortLehrEnd port s) := by
  unfold execLnkPortLehrEnd
  try dsimp only
  repeat' first
    | with_reducible assumption
    | exact lor_sub hL rfl
    | with_reducible apply KeepsO.of_next
    | with_reducible apply KeepsO.ite <;> intro _
    | with_reducible apply Keeps.ite <;> intro _
    | with_reducible apply State.setLport_keeps
    | with_reducible apply State.wr_keeps
    | with_reducible apply State.setPortSt_keeps
    | with_reducible apply State.rerouted_keeps
    | with_reducible apply State.tellTopology_keeps
    | split

theorem State.portDown_keeps {L : Nat} {u : State} (s : State) (p : Nat) (hL : 44019423 ||| L = L) (hu : Keeps L u s) :
    Keeps L u (State.portDown s p) := by
  unfold State.portDown
  try dsimp only
  repeat' first
    | with_reducible assumption
    | exact lor_sub hL rfl
    | with_reducible apply State.bump_keeps
    | with_reducible apply State.devError_keeps
    | with_reducible apply State.lnkErr_keeps
    | with_reducible apply State.setLport_keeps
    | with_reducible apply State.wr_keeps
    | with_reducible apply State.setPortSt_keeps
    | with_reducible apply State.rerouted_keeps
    | with_reducible apply State.tellTopology_keeps
    | split

theorem execPortTrainingDone_keeps {L : Nat} {u : State} (port : Nat) (width : Nat) (peer : PeerId) (lanesOk : Nat) (s : State) (hL : 44019423 ||| L = L) (hu : Keeps L u s) :
    KeepsO L u (execPortTrainingDone port width peer lanesOk s) := by
  unfold execPortTrainingDone
  try dsimp only
  repeat' first
    | with_reducible assumption
    | exact lor_sub hL rfl
    | with_reducible apply KeepsO.of_next
    | with_reducible apply KeepsO.ite <;> intro _
    | with_reducible apply Keeps.ite <;> intro _
    | with_reducible apply State.wr_keeps
    | with_reducible apply State.portDown_keeps
    | with_reducible apply State.setPortSt_keeps
    | with_reducible apply State.devError_keeps
    | with_reducible apply State.lnkErr_keeps
    | with_reducible apply State.drainPort_keeps
    | with_reducible apply State.lnkNote_keeps
    | with_reducible apply State.rerouted_keeps
    | with_reducible apply State.tellTopology_keeps
    | refine Keeps.upd hL ?_
    | split

theorem execFlitReceive_keeps {L : Nat} {u : State} (port : Nat) (crcOk : Bool) (dst : Nat) (tile : Nat) (halyard : Nat) (s0 : State) (hL : 42991617 ||| L = L) (hu : Keeps L u s0) :
    KeepsO L u (execFlitReceive port crcOk dst tile halyard s0) := by
  unfold execFlitReceive
  try dsimp only
  repeat' first
    | with_reducible assumption
    | exact lor_sub hL rfl
    | with_reducible apply KeepsO.of_next
    | with_reducible apply KeepsO.ite <;> intro _
    | with_reducible apply Keeps.ite <;> intro _
    | with_reducible apply State.wakeUp_keeps
    | with_reducible apply State.post_keeps
    | with_reducible apply State.cnt_keeps
    | with_reducible apply State.sendFlits_keeps
    | split

theorem execReplayRequest_keeps {L : Nat} {u : State} (port : Nat) (flit : Nat) (s : State) (hL : 42991617 ||| L = L) (hu : Keeps L u s) :
    KeepsO L u (execReplayRequest port flit s) := by
  unfold execReplayRequest
  try dsimp only
  repeat' first
    | with_reducible assumption
    | exact lor_sub hL rfl
    | with_reducible apply KeepsO.of_next
    | with_reducible apply KeepsO.ite <;> intro _
    | with_reducible apply Keeps.ite <;> intro _
    | with_reducible apply State.setPortSt_keeps
    | with_reducible apply State.setLport_keeps
    | with_reducible apply State.bump_keeps
    | with_reducible apply State.cnt_keeps
    | with_reducible apply State.post_keeps
    | split

theorem execCreditReturn_keeps {L : Nat} {u : State} (port : Nat) (halyard : Nat) (set : Nat) (n : Nat) (s : State) (hL : 1048577 ||| L = L) (hu : Keeps L u s) :
    KeepsO L u (execCreditReturn port halyard set n s) := by
  unfold execCreditReturn
  try dsimp only
  repeat' first
    | with_reducible assumption
    | exact lor_sub hL rfl
    | with_reducible apply KeepsO.of_next
    | with_reducible apply KeepsO.ite <;> intro _
    | with_reducible apply Keeps.ite <;> intro _
    | with_reducible apply State.wr_keeps
    | with_reducible apply State.drainPort_keeps
    | split

theorem execLnkLaneFailure_keeps {L : Nat} {u : State} (port : Nat) (lane : Nat) (s : State) (hL : 44019423 ||| L = L) (hu : Keeps L u s) :
    KeepsO L u (execLnkLaneFailure port lane s) := by
  unfold execLnkLaneFailure
  try dsimp only
  repeat' first
    | with_reducible assumption
    | exact lor_sub hL rfl
    | with_reducible apply KeepsO.of_next
    | with_reducible apply KeepsO.ite <;> intro _
    | with_reducible apply Keeps.ite <;> intro _
    | with_reducible apply State.wr_keeps
    | with_reducible apply State.setLport_keeps
    | with_reducible apply State.lnkErr_keeps
    | with_reducible apply State.portDown_keeps
    | with_reducible apply State.setPortSt_keeps
    | split

theorem execPortDown_keeps {L : Nat} {u : State} (port : Nat) (s : State) (hL : 44019423 ||| L = L) (hu : Keeps L u s) :
    KeepsO L u (execPortDown port s) := by
  unfold execPortDown
  try dsimp only
  repeat' first
    | with_reducible assumption
    | exact lor_sub hL rfl
    | with_reducible apply KeepsO.of_next
    | with_reducible apply KeepsO.ite <;> intro _
    | with_reducible apply Keeps.ite <;> intro _
    | with_reducible apply State.portDown_keeps
    | split

theorem execTopologyUpdate_keeps {L : Nat} {u : State} (dev : Nat) (ports : Nat) (s0 : State) (hL : 44019423 ||| L = L) (hu : Keeps L u s0) :
    KeepsO L u (execTopologyUpdate dev ports s0) := by
  unfold execTopologyUpdate
  try dsimp only
  repeat' first
    | with_reducible assumption
    | exact lor_sub hL rfl
    | with_reducible apply KeepsO.of_next
    | with_reducible apply KeepsO.ite <;> intro _
    | with_reducible apply Keeps.ite <;> intro _
    | with_reducible apply State.wakeUp_keeps
    | with_reducible apply State.rerouted_keeps
    | split
    | refine Keeps.upd hL ?_

theorem execPeerRejoin_keeps {L : Nat} {u : State} (port : Nat) (dev : Nat) (s : State) (hL : 42991617 ||| L = L) (hu : Keeps L u s) :
    KeepsO L u (execPeerRejoin port dev s) := by
  unfold execPeerRejoin
  try dsimp only
  repeat' first
    | with_reducible assumption
    | exact lor_sub hL rfl
    | with_reducible apply KeepsO.of_next
    | with_reducible apply KeepsO.ite <;> intro _
    | with_reducible apply Keeps.ite <;> intro _
    | with_reducible apply State.sendTile_keeps
    | with_reducible apply Keeps.foldl
    | with_reducible apply Keeps.foldl_fst
    | intro _ _ _
    | split

end Sys2Proof.Machine
end

