-- ==== Sys2Proof/Laws/KeepTime.lean ====
section
/-! SUPPORT. Every operation of Machine/Time.lean keeps what `Keeps` says. -/

set_option Elab.async false

namespace Sys2Proof.Machine

theorem State.timePn_keeps {L : Nat} {u : State} (s : State) (event : Nat) (ct : Stamp) (hL : 3 ||| L = L) (hu : Keeps L u s) :
    Keeps L u (State.timePn s event ct) := by
  unfold State.timePn
  try dsimp only
  repeat' first
    | with_reducible assumption
    | exact lor_sub hL rfl
    | with_reducible apply State.sendSvc_keeps
    | with_reducible apply State.wakeUp_keeps

theorem State.runBmca_keeps {L : Nat} {u : State} (s : State) (hL : 35 ||| L = L) (hu : Keeps L u s) :
    Keeps L u (State.runBmca s) := by
  unfold State.runBmca
  try dsimp only
  repeat' first
    | with_reducible assumption
    | exact lor_sub hL rfl
    | with_reducible apply Keeps.ite <;> intro _
    | with_reducible apply State.wr_keeps
    | with_reducible apply State.timePn_keeps
    | split
    | refine Keeps.upd hL ?_

theorem State.setTpoNext_keeps {L : Nat} {u : State} (s : State) (k : Nat) (t : Option Nat) (hL : 32 ||| L = L) (hu : Keeps L u s) :
    Keeps L u (State.setTpoNext s k t) := by
  unfold State.setTpoNext
  try dsimp only
  repeat' first
    | with_reducible assumption
    | refine Keeps.upd hL ?_

theorem State.timeErr_keeps {L : Nat} {u : State} (s : State) (code : Nat) (d0 : optParam Nat 0) (d1 : optParam Nat 0) (hL : 8388633 ||| L = L) (hu : Keeps L u s) :
    Keeps L u (State.timeErr s code d0 d1) := by
  unfold State.timeErr
  try dsimp only
  repeat' first
    | with_reducible assumption
    | exact lor_sub hL rfl
    | with_reducible apply State.file_keeps
    | with_reducible apply State.setErr_keeps

theorem State.armNow_keeps {L : Nat} {u : State} (s : State) (out : Nat) (hL : 8388665 ||| L = L) (hu : Keeps L u s) :
    Keeps L u (State.armNow s out) := by
  unfold State.armNow
  try dsimp only
  repeat' first
    | with_reducible assumption
    | exact lor_sub hL rfl
    | with_reducible apply Keeps.ite <;> intro _
    | with_reducible apply State.setTpoNext_keeps
    | with_reducible apply State.wr_keeps
    | with_reducible apply State.timeErr_keeps
    | split

theorem execTpOutArm_keeps {L : Nat} {u : State} (out : Nat) (w : BitVec 32) (s : State) (hL : 41943097 ||| L = L) (hu : Keeps L u s) :
    KeepsO L u (execTpOutArm out w s) := by
  unfold execTpOutArm
  try dsimp only
  repeat' first
    | with_reducible assumption
    | exact lor_sub hL rfl
    | with_reducible apply KeepsO.of_next
    | with_reducible apply KeepsO.ite <;> intro _
    | with_reducible apply Keeps.ite <;> intro _
    | with_reducible apply State.bar_keeps
    | refine (State.bar_keeps _ _ _ ?_ ?_ ?_).next _ (by with_reducible assumption)
    | with_reducible apply State.setReg_keeps
    | with_reducible apply State.setTpoNext_keeps
    | with_reducible apply State.armNow_keeps
    | intro _ _
    | intro _
    | split
    | refine Keeps.upd hL ?_

theorem State.toServo_keeps {L : Nat} {u : State} (s : State) (st : Nat) (hL : 3 ||| L = L) (hu : Keeps L u s) :
    Keeps L u (State.toServo s st) := by
  unfold State.toServo
  try dsimp only
  repeat' first
    | with_reducible assumption
    | exact lor_sub hL rfl
    | with_reducible apply Keeps.ite <;> intro _
    | with_reducible apply State.wr_keeps
    | with_reducible apply State.timePn_keeps
    | split

theorem execServoEnWrite_keeps {L : Nat} {u : State} (en : Bool) (s : State) (hL : 33554435 ||| L = L) (hu : Keeps L u s) :
    KeepsO L u (execServoEnWrite en s) := by
  unfold execServoEnWrite
  try dsimp only
  repeat' first
    | with_reducible assumption
    | exact lor_sub hL rfl
    | with_reducible apply KeepsO.of_next
    | with_reducible apply KeepsO.ite <;> intro _
    | with_reducible apply Keeps.ite <;> intro _
    | with_reducible apply State.bar_keeps
    | refine (State.bar_keeps _ _ _ ?_ ?_ ?_).next _ (by with_reducible assumption)
    | with_reducible apply State.wr_keeps
    | with_reducible apply State.toServo_keeps
    | intro _ _
    | intro _
    | split

theorem execStep_keeps {L : Nat} {u : State} (s : State) (hL : 41943097 ||| L = L) (hu : Keeps L u s) :
    KeepsO L u (execStep s) := by
  unfold execStep
  try dsimp only
  repeat' first
    | with_reducible assumption
    | exact lor_sub hL rfl
    | with_reducible apply KeepsO.of_next
    | with_reducible apply KeepsO.ite <;> intro _
    | with_reducible apply Keeps.ite <;> intro _
    | with_reducible apply State.bar_keeps
    | refine (State.bar_keeps _ _ _ ?_ ?_ ?_).next _ (by with_reducible assumption)
    | with_reducible apply State.timeErr_keeps
    | intro _ _
    | intro _
    | split
    | refine Keeps.upd hL ?_

theorem State.timeCtrlWrite_keeps {L : Nat} {u : State} (s : State) (w : BitVec 32) (hL : 41943099 ||| L = L) (hu : Keeps L u s) :
    Keeps L u (State.timeCtrlWrite s w) := by
  unfold State.timeCtrlWrite
  try dsimp only
  repeat' first
    | with_reducible assumption
    | exact lor_sub hL rfl
    | with_reducible apply Keeps.ite <;> intro _
    | with_reducible apply State.setReg_keeps
    | with_reducible apply execServoEnWrite_keeps
    | refine (execServoEnWrite_keeps _ _ ?_ ?_).next _ (by with_reducible assumption)
    | with_reducible apply State.runBmca_keeps
    | with_reducible apply State.toServo_keeps
    | with_reducible apply execStep_keeps
    | refine (execStep_keeps _ ?_ ?_).next _ (by with_reducible assumption)
    | split

theorem State.setRate_keeps {L : Nat} {u : State} (s : State) (w : BitVec 32) (hL : 33 ||| L = L) (hu : Keeps L u s) :
    Keeps L u (State.setRate s w) := by
  unfold State.setRate
  try dsimp only
  repeat' first
    | with_reducible assumption
    | exact lor_sub hL rfl
    | with_reducible apply State.setReg_keeps
    | refine Keeps.upd hL ?_

theorem execTimeRateWrite_keeps {L : Nat} {u : State} (w : BitVec 32) (s : State) (hL : 33554465 ||| L = L) (hu : Keeps L u s) :
    KeepsO L u (execTimeRateWrite w s) := by
  unfold execTimeRateWrite
  try dsimp only
  repeat' first
    | with_reducible assumption
    | exact lor_sub hL rfl
    | with_reducible apply KeepsO.of_next
    | with_reducible apply State.bar_keeps
    | refine (State.bar_keeps _ _ _ ?_ ?_ ?_).next _ (by with_reducible assumption)
    | with_reducible apply State.setRate_keeps
    | intro _ _
    | intro _

theorem execPtpAnnounce_keeps {L : Nat} {u : State} (a : Announce) (s : State) (hL : 35 ||| L = L) (hu : Keeps L u s) :
    KeepsO L u (execPtpAnnounce a s) := by
  unfold execPtpAnnounce
  try dsimp only
  repeat' first
    | with_reducible assumption
    | exact lor_sub hL rfl
    | with_reducible apply KeepsO.of_next
    | with_reducible apply KeepsO.ite <;> intro _
    | with_reducible apply Keeps.ite <;> intro _
    | with_reducible apply State.runBmca_keeps
    | split
    | refine Keeps.upd hL ?_

theorem State.noteOffset_keeps {L : Nat} {u : State} (s : State) (off : Int) (hL : 33 ||| L = L) (hu : Keeps L u s) :
    Keeps L u (State.noteOffset s off) := by
  unfold State.noteOffset
  try dsimp only
  repeat' first
    | with_reducible assumption
    | exact lor_sub hL rfl
    | with_reducible apply State.setReg_keeps
    | refine Keeps.upd hL ?_

theorem State.servoStep_keeps {L : Nat} {u : State} (s : State) (offset : Int) (hL : 32 ||| L = L) (hu : Keeps L u s) :
    Keeps L u (State.servoStep s offset) := by
  unfold State.servoStep
  try dsimp only
  repeat' first
    | with_reducible assumption
    | refine Keeps.upd hL ?_

theorem State.servoUpdate_keeps {L : Nat} {u : State} (s : State) (offset : Int) (intervalNs : Int) (hL : 33 ||| L = L) (hu : Keeps L u s) :
    Keeps L u (State.servoUpdate s offset intervalNs) := by
  unfold State.servoUpdate
  try dsimp only
  repeat' first
    | with_reducible assumption
    | exact lor_sub hL rfl
    | with_reducible apply Keeps.ite <;> intro _
    | with_reducible apply State.setRate_keeps
    | split
    | refine Keeps.upd hL ?_

theorem State.servoOffset_keeps {L : Nat} {u : State} (s : State) (offset : Int) (intervalNs : Int) (hL : 35 ||| L = L) (hu : Keeps L u s) :
    Keeps L u (State.servoOffset s offset intervalNs) := by
  unfold State.servoOffset
  try dsimp only
  repeat' first
    | with_reducible assumption
    | exact lor_sub hL rfl
    | with_reducible apply Keeps.ite <;> intro _
    | with_reducible apply State.servoStep_keeps
    | with_reducible apply State.toServo_keeps
    | with_reducible apply State.servoUpdate_keeps
    | split
    | refine Keeps.upd hL ?_

theorem execPtpSync_keeps {L : Nat} {u : State} (port : Nat) (domain : Nat) (t1 : Int) (t2 : Int) (correction : Int) (s : State) (hL : 35 ||| L = L) (hu : Keeps L u s) :
    KeepsO L u (execPtpSync port domain t1 t2 correction s) := by
  unfold execPtpSync
  try dsimp only
  repeat' first
    | with_reducible assumption
    | exact lor_sub hL rfl
    | with_reducible apply KeepsO.of_next
    | with_reducible apply KeepsO.ite <;> intro _
    | with_reducible apply Keeps.ite <;> intro _
    | with_reducible apply State.noteOffset_keeps
    | with_reducible apply State.servoOffset_keeps
    | split

theorem execPtpDelayResp_keeps {L : Nat} {u : State} (port : Nat) (domain : Nat) (delay : Int) (s : State) (hL : 33 ||| L = L) (hu : Keeps L u s) :
    KeepsO L u (execPtpDelayResp port domain delay s) := by
  unfold execPtpDelayResp
  try dsimp only
  repeat' first
    | with_reducible assumption
    | exact lor_sub hL rfl
    | with_reducible apply KeepsO.of_next
    | with_reducible apply KeepsO.ite <;> intro _
    | with_reducible apply Keeps.ite <;> intro _
    | with_reducible apply State.setReg_keeps
    | with_reducible apply Keeps.foldl
    | with_reducible apply Keeps.foldl_fst
    | intro _ _ _
    | split
    | refine Keeps.upd hL ?_

theorem execDelayReqTimer_keeps {L : Nat} {u : State} (port : Nat) (s : State) (hL : 33554432 ||| L = L) (hu : Keeps L u s) :
    KeepsO L u (execDelayReqTimer port s) := by
  unfold execDelayReqTimer
  try dsimp only
  repeat' first
    | with_reducible assumption
    | exact lor_sub hL rfl
    | with_reducible apply KeepsO.of_next
    | with_reducible apply KeepsO.ite <;> intro _
    | with_reducible apply Keeps.ite <;> intro _
    | with_reducible apply State.post_keeps
    | split

theorem execServoHoldover_keeps {L : Nat} {u : State} (s : State) (hL : 8388667 ||| L = L) (hu : Keeps L u s) :
    KeepsO L u (execServoHoldover s) := by
  unfold execServoHoldover
  try dsimp only
  repeat' first
    | with_reducible assumption
    | exact lor_sub hL rfl
    | with_reducible apply KeepsO.of_next
    | with_reducible apply KeepsO.ite <;> intro _
    | with_reducible apply Keeps.ite <;> intro _
    | with_reducible apply State.setRate_keeps
    | with_reducible apply State.toServo_keeps
    | with_reducible apply State.timeErr_keeps
    | with_reducible apply Keeps.foldl
    | with_reducible apply Keeps.foldl_fst
    | intro _ _ _
    | split

theorem State.tpoStep_keeps {L : Nat} {u : State} (t0 : Nat) (t1 : Nat) (s : State) (k : Nat) (hL : 33 ||| L = L) (hu : Keeps L u s) :
    Keeps L u (State.tpoStep t0 t1 s k) := by
  unfold State.tpoStep
  try dsimp only
  repeat' first
    | with_reducible assumption
    | exact lor_sub hL rfl
    | with_reducible apply Keeps.ite <;> intro _
    | with_reducible apply State.setTpoNext_keeps
    | with_reducible apply State.wr_keeps
    | split

theorem State.loadStep_keeps {L : Nat} {u : State} (s : State) (c : ClockStep) (hL : 8388667 ||| L = L) (hu : Keeps L u s) :
    Keeps L u (State.loadStep s c) := by
  unfold State.loadStep
  try dsimp only
  repeat' first
    | with_reducible assumption
    | exact lor_sub hL rfl
    | with_reducible apply State.timePn_keeps
    | with_reducible apply State.wr_keeps
    | with_reducible apply State.tpoStep_keeps
    | with_reducible apply State.armNow_keeps
    | with_reducible apply Keeps.foldl
    | with_reducible apply Keeps.foldl_fst
    | intro _ _ _
    | split
    | refine Keeps.upd hL ?_

theorem execClockStepLoad_keeps {L : Nat} {u : State} (s : State) (hL : 8388667 ||| L = L) (hu : Keeps L u s) :
    KeepsO L u (execClockStepLoad s) := by
  unfold execClockStepLoad
  try dsimp only
  repeat' first
    | with_reducible assumption
    | exact lor_sub hL rfl
    | with_reducible apply KeepsO.of_next
    | with_reducible apply State.loadStep_keeps
    | split

theorem execTpOutPulse_keeps {L : Nat} {u : State} (out : Nat) (s : State) (hL : 33554465 ||| L = L) (hu : Keeps L u s) :
    KeepsO L u (execTpOutPulse out s) := by
  unfold execTpOutPulse
  try dsimp only
  repeat' first
    | with_reducible assumption
    | exact lor_sub hL rfl
    | with_reducible apply KeepsO.of_next
    | with_reducible apply KeepsO.ite <;> intro _
    | with_reducible apply Keeps.ite <;> intro _
    | with_reducible apply State.post_keeps
    | with_reducible apply State.setTpoNext_keeps
    | with_reducible apply State.wr_keeps
    | split
    | refine Keeps.upd hL ?_

theorem execTpInEdge_keeps {L : Nat} {u : State} (input : Nat) (rising : Bool) (ago : Nat) (s : State) (hL : 8388667 ||| L = L) (hu : Keeps L u s) :
    KeepsO L u (execTpInEdge input rising ago s) := by
  unfold execTpInEdge
  try dsimp only
  repeat' first
    | with_reducible assumption
    | exact lor_sub hL rfl
    | with_reducible apply KeepsO.of_next
    | with_reducible apply KeepsO.ite <;> intro _
    | with_reducible apply Keeps.ite <;> intro _
    | with_reducible apply State.bump_keeps
    | with_reducible apply State.setReg_keeps
    | with_reducible apply State.wr64_keeps
    | with_reducible apply State.timeErr_keeps
    | with_reducible apply State.timePn_keeps
    | split
    | refine Keeps.upd hL ?_

theorem execStatusPeriodTimer_keeps {L : Nat} {u : State} (s : State) (hL : 35 ||| L = L) (hu : Keeps L u s) :
    KeepsO L u (execStatusPeriodTimer s) := by
  unfold execStatusPeriodTimer
  try dsimp only
  repeat' first
    | with_reducible assumption
    | exact lor_sub hL rfl
    | with_reducible apply KeepsO.of_next
    | with_reducible apply KeepsO.ite <;> intro _
    | with_reducible apply Keeps.ite <;> intro _
    | with_reducible apply State.timePn_keeps
    | split
    | refine Keeps.upd hL ?_

theorem execAnnounceReceiptTimeout_keeps {L : Nat} {u : State} (s : State) (hL : 35 ||| L = L) (hu : Keeps L u s) :
    KeepsO L u (execAnnounceReceiptTimeout s) := by
  unfold execAnnounceReceiptTimeout
  try dsimp only
  repeat' first
    | with_reducible assumption
    | exact lor_sub hL rfl
    | with_reducible apply KeepsO.of_next
    | with_reducible apply KeepsO.ite <;> intro _
    | with_reducible apply Keeps.ite <;> intro _
    | with_reducible apply State.runBmca_keeps
    | split
    | refine Keeps.upd hL ?_

theorem State.tick_keeps {L : Nat} {u : State} (s : State) (hL : 8388667 ||| L = L) (hu : Keeps L u s) :
    Keeps L u (State.tick s) := by
  unfold State.tick
  try dsimp only
  repeat' first
    | with_reducible assumption
    | exact lor_sub hL rfl
    | with_reducible apply State.loadStep_keeps
    | split
    | refine Keeps.upd hL ?_

theorem State.tpOutOff_keeps {L : Nat} {u : State} (s : State) (out : Nat) (w : BitVec 32) (hL : 33 ||| L = L) (hu : Keeps L u s) :
    Keeps L u (State.tpOutOff s out w) := by
  unfold State.tpOutOff
  try dsimp only
  repeat' first
    | with_reducible assumption
    | exact lor_sub hL rfl
    | with_reducible apply State.setTpoNext_keeps
    | with_reducible apply State.setReg_keeps

end Sys2Proof.Machine
end

