-- ==== Sys2Proof/Laws/KeepNet.lean ====
section
/-! SUPPORT. Every operation of Machine/Net.lean keeps what `Keeps` says. -/

set_option Elab.async false

namespace Sys2Proof.Machine

theorem State.netErr_keeps {L : Nat} {u : State} (s : State) (code : Nat) (wh : Nat) (d0 : optParam Nat 0) (d1 : optParam Nat 0) (hL : 8388633 ||| L = L) (hu : Keeps L u s) :
    Keeps L u (State.netErr s code wh d0 d1) := by
  unfold State.netErr
  try dsimp only
  repeat' first
    | with_reducible assumption
    | exact lor_sub hL rfl
    | with_reducible apply Keeps.ite <;> intro _
    | with_reducible apply State.setErr_keeps
    | with_reducible apply State.file_keeps
    | split

theorem State.igmpReport_keeps {L : Nat} {u : State} (s : State) (p : Nat) (group : BitVec 32) (source : BitVec 32) (join : Bool) (hL : 33554432 ||| L = L) (hu : Keeps L u s) :
    Keeps L u (State.igmpReport s p group source join) := by
  unfold State.igmpReport
  try dsimp only
  repeat' first
    | with_reducible assumption
    | exact lor_sub hL rfl
    | with_reducible apply Keeps.ite <;> intro _
    | with_reducible apply State.post_keeps
    | split

theorem State.setEthPort_keeps {L : Nat} {u : State} (s : State) (p : Nat) (x : EthPort) (hL : 256 ||| L = L) (hu : Keeps L u s) :
    Keeps L u (State.setEthPort s p x) := by
  unfold State.setEthPort
  try dsimp only
  repeat' first
    | with_reducible assumption
    | refine Keeps.upd hL ?_

theorem State.portPathsDown_keeps {L : Nat} {u : State} (s : State) (p : Nat) (hL : 257 ||| L = L) (hu : Keeps L u s) :
    Keeps L u (State.portPathsDown s p) := by
  unfold State.portPathsDown
  try dsimp only
  repeat' first
    | with_reducible assumption
    | exact lor_sub hL rfl
    | with_reducible apply Keeps.ite <;> intro _
    | with_reducible apply State.setFlow_keeps
    | with_reducible apply State.wr_keeps
    | with_reducible apply Keeps.foldl
    | with_reducible apply Keeps.foldl_fst
    | intro _ _ _
    | split

theorem State.linkDown_keeps {L : Nat} {u : State} (s : State) (p : Nat) (hL : 257 ||| L = L) (hu : Keeps L u s) :
    Keeps L u (State.linkDown s p) := by
  unfold State.linkDown
  try dsimp only
  repeat' first
    | with_reducible assumption
    | exact lor_sub hL rfl
    | with_reducible apply State.wr_keeps
    | with_reducible apply State.portPathsDown_keeps
    | with_reducible apply State.setEthPort_keeps

theorem execNetPortEnable_keeps {L : Nat} {u : State} (port : Nat) (w : BitVec 32) (s : State) (hL : 41943355 ||| L = L) (hu : Keeps L u s) :
    KeepsO L u (execNetPortEnable port w s) := by
  unfold execNetPortEnable
  try dsimp only
  repeat' first
    | with_reducible assumption
    | exact lor_sub hL rfl
    | with_reducible apply KeepsO.of_next
    | with_reducible apply KeepsO.ite <;> intro _
    | with_reducible apply Keeps.ite <;> intro _
    | with_reducible apply State.bar_keeps
    | refine (State.bar_keeps _ _ _ ?_ ?_ ?_).next _ (by with_reducible assumption)
    | with_reducible apply State.wr_keeps
    | with_reducible apply State.netErr_keeps
    | with_reducible apply State.runBmca_keeps
    | with_reducible apply State.igmpReport_keeps
    | with_reducible apply State.setEthPort_keeps
    | with_reducible apply State.linkDown_keeps
    | with_reducible apply Keeps.foldl
    | with_reducible apply Keeps.foldl_fst
    | intro _ _ _
    | intro _ _
    | intro _
    | split

theorem State.flowCfg_keeps {L : Nat} {u : State} (s : State) (f : Nat) (w : BitVec 32) (hL : 8388633 ||| L = L) (hu : Keeps L u s) :
    Keeps L u (State.flowCfg s f w) := by
  unfold State.flowCfg
  try dsimp only
  repeat' first
    | with_reducible assumption
    | exact lor_sub hL rfl
    | with_reducible apply Keeps.ite <;> intro _
    | with_reducible apply State.wr_keeps
    | with_reducible apply State.netErr_keeps
    | with_reducible apply Keeps.foldl
    | with_reducible apply Keeps.foldl_fst
    | intro _ _ _
    | split

theorem State.reportPath_keeps {L : Nat} {u : State} (join : Bool) (s : State) (p : Bool × Nat × BitVec 32 × Nat × BitVec 32) (hL : 33554432 ||| L = L) (hu : Keeps L u s) :
    Keeps L u (State.reportPath join s p) := by
  unfold State.reportPath
  try dsimp only
  repeat' first
    | with_reducible assumption
    | exact lor_sub hL rfl
    | with_reducible apply Keeps.ite <;> intro _
    | with_reducible apply State.igmpReport_keeps
    | split

theorem State.flowStart_keeps {L : Nat} {u : State} (s : State) (f : Nat) (hL : 33554689 ||| L = L) (hu : Keeps L u s) :
    Keeps L u (State.flowStart s f) := by
  unfold State.flowStart
  try dsimp only
  repeat' first
    | with_reducible assumption
    | exact lor_sub hL rfl
    | with_reducible apply State.wr_keeps
    | with_reducible apply State.setFlow_keeps
    | with_reducible apply State.reportPath_keeps
    | with_reducible apply Keeps.foldl
    | with_reducible apply Keeps.foldl_fst
    | intro _ _ _

theorem execFlowEnable_keeps {L : Nat} {u : State} (flow : Nat) (w : BitVec 32) (s : State) (hL : 41943321 ||| L = L) (hu : Keeps L u s) :
    KeepsO L u (execFlowEnable flow w s) := by
  unfold execFlowEnable
  try dsimp only
  repeat' first
    | with_reducible assumption
    | exact lor_sub hL rfl
    | with_reducible apply KeepsO.of_next
    | with_reducible apply KeepsO.ite <;> intro _
    | with_reducible apply Keeps.ite <;> intro _
    | with_reducible apply State.bar_keeps
    | refine (State.bar_keeps _ _ _ ?_ ?_ ?_).next _ (by with_reducible assumption)
    | with_reducible apply State.flowCfg_keeps
    | with_reducible apply State.flowStart_keeps
    | with_reducible apply State.netErr_keeps
    | with_reducible apply State.wr_keeps
    | intro _ _
    | intro _
    | split

theorem State.updFrame_keeps {L : Nat} {u : State} (s : State) (st : Nat) (n : Nat) (g : Frame → Frame) (hL : 64 ||| L = L) (hu : Keeps L u s) :
    Keeps L u (State.updFrame s st n g) := by
  unfold State.updFrame
  try dsimp only
  repeat' first
    | with_reducible assumption
    | exact lor_sub hL rfl
    | with_reducible apply State.setStream_keeps

theorem State.closeFrame_keeps {L : Nat} {u : State} (s : State) (f : Nat) (hL : 320 ||| L = L) (hu : Keeps L u s) :
    Keeps L u (State.closeFrame s f) := by
  unfold State.closeFrame
  try dsimp only
  repeat' first
    | with_reducible assumption
    | exact lor_sub hL rfl
    | with_reducible apply State.setFlow_keeps
    | with_reducible apply State.updFrame_keeps
    | split

theorem execFlowDisable_keeps {L : Nat} {u : State} (flow : Nat) (w : BitVec 32) (s : State) (hL : 41943385 ||| L = L) (hu : Keeps L u s) :
    KeepsO L u (execFlowDisable flow w s) := by
  unfold execFlowDisable
  try dsimp only
  repeat' first
    | with_reducible assumption
    | exact lor_sub hL rfl
    | with_reducible apply KeepsO.of_next
    | with_reducible apply KeepsO.ite <;> intro _
    | with_reducible apply Keeps.ite <;> intro _
    | with_reducible apply State.bar_keeps
    | refine (State.bar_keeps _ _ _ ?_ ?_ ?_).next _ (by with_reducible assumption)
    | with_reducible apply State.wr_keeps
    | with_reducible apply State.flowCfg_keeps
    | with_reducible apply State.closeFrame_keeps
    | with_reducible apply State.reportPath_keeps
    | with_reducible apply State.setFlow_keeps
    | with_reducible apply Keeps.foldl
    | with_reducible apply Keeps.foldl_fst
    | intro _ _ _
    | intro _ _
    | intro _
    | split

theorem State.netLink_keeps {L : Nat} {u : State} (s : State) (p : Nat) (hL : 8388635 ||| L = L) (hu : Keeps L u s) :
    Keeps L u (State.netLink s p) := by
  unfold State.netLink
  try dsimp only
  repeat' first
    | with_reducible assumption
    | exact lor_sub hL rfl
    | with_reducible apply State.devError_keeps
    | with_reducible apply State.netErr_keeps

theorem execAutonegComplete_keeps {L : Nat} {u : State} (port : Nat) (partner : Nat) (s : State) (hL : 8388891 ||| L = L) (hu : Keeps L u s) :
    KeepsO L u (execAutonegComplete port partner s) := by
  unfold execAutonegComplete
  try dsimp only
  repeat' first
    | with_reducible assumption
    | exact lor_sub hL rfl
    | with_reducible apply KeepsO.of_next
    | with_reducible apply KeepsO.ite <;> intro _
    | with_reducible apply Keeps.ite <;> intro _
    | with_reducible apply State.setEthPort_keeps
    | with_reducible apply State.wr_keeps
    | with_reducible apply State.netLink_keeps
    | split

theorem execNetLaneFailure_keeps {L : Nat} {u : State} (port : Nat) (lane : Nat) (s : State) (hL : 8388891 ||| L = L) (hu : Keeps L u s) :
    KeepsO L u (execNetLaneFailure port lane s) := by
  unfold execNetLaneFailure
  try dsimp only
  repeat' first
    | with_reducible assumption
    | exact lor_sub hL rfl
    | with_reducible apply KeepsO.of_next
    | with_reducible apply KeepsO.ite <;> intro _
    | with_reducible apply Keeps.ite <;> intro _
    | with_reducible apply State.wr_keeps
    | with_reducible apply State.setEthPort_keeps
    | with_reducible apply State.netLink_keeps
    | with_reducible apply State.linkDown_keeps
    | split

theorem execLatencyCalibrationDone_keeps {L : Nat} {u : State} (port : Nat) (lat : Nat) (s : State) (hL : 2097153 ||| L = L) (hu : Keeps L u s) :
    KeepsO L u (execLatencyCalibrationDone port lat s) := by
  unfold execLatencyCalibrationDone
  try dsimp only
  repeat' first
    | with_reducible assumption
    | exact lor_sub hL rfl
    | with_reducible apply KeepsO.of_next
    | with_reducible apply KeepsO.ite <;> intro _
    | with_reducible apply Keeps.ite <;> intro _
    | with_reducible apply State.wr_keeps
    | split
    | refine Keeps.upd hL ?_

theorem State.pathUp_keeps {L : Nat} {u : State} (s : State) (f : Nat) (b : Bool) (hL : 257 ||| L = L) (hu : Keeps L u s) :
    Keeps L u (State.pathUp s f b) := by
  unfold State.pathUp
  try dsimp only
  repeat' first
    | with_reducible assumption
    | exact lor_sub hL rfl
    | with_reducible apply Keeps.ite <;> intro _
    | with_reducible apply State.setFlow_keeps
    | with_reducible apply State.wr_keeps
    | split

theorem State.flowCnt_keeps {L : Nat} {u : State} (s : State) (f : Nat) (id : Nat) (n : optParam Nat 1) (hL : 8388608 ||| L = L) (hu : Keeps L u s) :
    Keeps L u (State.flowCnt s f id n) := by
  unfold State.flowCnt
  try dsimp only
  repeat' first
    | with_reducible assumption
    | exact lor_sub hL rfl
    | with_reducible apply Keeps.ite <;> intro _
    | with_reducible apply State.cnt_keeps
    | split

theorem State.payloadError_keeps {L : Nat} {u : State} (s : State) (f : Nat) (hL : 8388633 ||| L = L) (hu : Keeps L u s) :
    Keeps L u (State.payloadError s f) := by
  unfold State.payloadError
  try dsimp only
  repeat' first
    | with_reducible assumption
    | exact lor_sub hL rfl
    | with_reducible apply State.netErr_keeps
    | with_reducible apply State.flowCnt_keeps

theorem State.pathSeq_keeps {L : Nat} {u : State} (s : State) (f : Nat) (b : Bool) (n : Nat) (hL : 8388864 ||| L = L) (hu : Keeps L u s) :
    Keeps L u (State.pathSeq s f b n) := by
  unfold State.pathSeq
  try dsimp only
  repeat' first
    | with_reducible assumption
    | exact lor_sub hL rfl
    | with_reducible apply Keeps.ite <;> intro _
    | with_reducible apply State.setFlow_keeps
    | with_reducible apply State.flowCnt_keeps
    | split

theorem State.noteLead_keeps {L : Nat} {u : State} (s : State) (f : Nat) (b : Bool) (n : Nat) (hL : 257 ||| L = L) (hu : Keeps L u s) :
    Keeps L u (State.noteLead s f b n) := by
  unfold State.noteLead
  try dsimp only
  repeat' first
    | with_reducible assumption
    | exact lor_sub hL rfl
    | with_reducible apply Keeps.ite <;> intro _
    | with_reducible apply State.setFlow_keeps
    | with_reducible apply State.wr_keeps
    | split

theorem State.restamp_keeps {L : Nat} {u : State} (s : State) (st : Nat) (n : Nat) (t : Stamp) (flags : Nat) (hL : 8256 ||| L = L) (hu : Keeps L u s) :
    Keeps L u (State.restamp s st n t flags) := by
  unfold State.restamp
  try dsimp only
  repeat' first
    | with_reducible assumption
    | exact lor_sub hL rfl
    | with_reducible apply State.updFrame_keeps
    | with_reducible apply State.updJob_keeps
    | split

theorem State.preferA_keeps {L : Nat} {u : State} (s : State) (f : Nat) (p : Nat) (b : Bool) (n : Nat) (hL : 8397120 ||| L = L) (hu : Keeps L u s) :
    Keeps L u (State.preferA s f p b n) := by
  unfold State.preferA
  try dsimp only
  repeat' first
    | with_reducible assumption
    | exact lor_sub hL rfl
    | with_reducible apply Keeps.ite <;> intro _
    | with_reducible apply State.setFlow_keeps
    | with_reducible apply State.restamp_keeps
    | with_reducible apply State.flowCnt_keeps
    | split

theorem State.frameOpen_keeps {L : Nat} {u : State} (s : State) (f : Nat) (p : Nat) (ts : Nat) (hL : 8413508 ||| L = L) (hu : Keeps L u s) :
    Keeps L u (State.frameOpen s f p ts) := by
  unfold State.frameOpen
  try dsimp only
  repeat' first
    | with_reducible assumption
    | exact lor_sub hL rfl
    | with_reducible apply Keeps.ite <;> intro _
    | with_reducible apply State.flowCnt_keeps
    | with_reducible apply State.setFlow_keeps
    | with_reducible apply State.takeFrame_keeps
    | split

theorem State.placeParts_keeps {L : Nat} {u : State} (s : State) (f : Nat) (st : Nat) (n : Nat) (k : Nat) (parts : List RtpPart) (hL : 9044059 ||| L = L) (hu : Keeps L u s) :
    Keeps L u (State.placeParts s f st n k parts) := by
  unfold State.placeParts
  try dsimp only
  repeat' first
    | with_reducible assumption
    | exact lor_sub hL rfl
    | with_reducible apply Keeps.ite <;> intro _
    | with_reducible apply State.updFrame_keeps
    | with_reducible apply State.netErr_keeps
    | with_reducible apply State.flowCnt_keeps
    | with_reducible apply State.freeFrame_keeps
    | with_reducible apply State.draw_keeps
    | refine Keeps.of_fst (State.draw_keeps _ _ _ _ _ _ _ ?_ ?_) (by with_reducible assumption)
    | split

theorem State.packetIn_keeps {L : Nat} {u : State} (s : State) (f : Nat) (p : Nat) (k : Nat) (onB : Bool) (r : RtpPkt) (hL : 9068895 ||| L = L) (hu : Keeps L u s) :
    Keeps L u (State.packetIn s f p k onB r) := by
  unfold State.packetIn
  try dsimp only
  repeat' first
    | with_reducible assumption
    | exact lor_sub hL rfl
    | with_reducible apply Keeps.ite <;> intro _
    | with_reducible apply State.frameOpen_keeps
    | with_reducible apply State.setFlow_keeps
    | with_reducible apply State.payloadError_keeps
    | with_reducible apply State.placeParts_keeps
    | with_reducible apply State.closeFrame_keeps
    | with_reducible apply State.flowCnt_keeps
    | split

theorem State.merge_keeps {L : Nat} {u : State} (s : State) (f : Nat) (p : Nat) (b : Bool) (r : RtpPkt) (hL : 9068895 ||| L = L) (hu : Keeps L u s) :
    Keeps L u (State.merge s f p b r) := by
  unfold State.merge
  try dsimp only
  repeat' first
    | with_reducible assumption
    | exact lor_sub hL rfl
    | with_reducible apply Keeps.ite <;> intro _
    | with_reducible apply State.pathSeq_keeps
    | with_reducible apply State.flowCnt_keeps
    | with_reducible apply State.noteLead_keeps
    | with_reducible apply State.preferA_keeps
    | with_reducible apply State.packetIn_keeps
    | with_reducible apply State.setFlow_keeps
    | split

theorem State.receivePkt_keeps {L : Nat} {u : State} (s : State) (f : Nat) (p : Nat) (b : Bool) (r : RtpPkt) (hL : 9068895 ||| L = L) (hu : Keeps L u s) :
    Keeps L u (State.receivePkt s f p b r) := by
  unfold State.receivePkt
  try dsimp only
  repeat' first
    | with_reducible assumption
    | exact lor_sub hL rfl
    | with_reducible apply Keeps.ite <;> intro _
    | with_reducible apply State.pathUp_keeps
    | with_reducible apply State.flowCnt_keeps
    | with_reducible apply State.payloadError_keeps
    | with_reducible apply State.setFlow_keeps
    | with_reducible apply State.merge_keeps
    | split

theorem State.answerQuery_keeps {L : Nat} {u : State} (s : State) (port : Nat) (hL : 33554432 ||| L = L) (hu : Keeps L u s) :
    Keeps L u (State.answerQuery s port) := by
  unfold State.answerQuery
  try dsimp only
  repeat' first
    | with_reducible assumption
    | exact lor_sub hL rfl
    | with_reducible apply Keeps.ite <;> intro _
    | with_reducible apply State.igmpReport_keeps
    | with_reducible apply State.reportPath_keeps
    | with_reducible apply Keeps.foldl
    | with_reducible apply Keeps.foldl_fst
    | intro _ _ _
    | split

theorem execEthFrameReceive_keeps {L : Nat} {u : State} (port : Nat) (frame : EthFrame) (s : State) (hL : 42623327 ||| L = L) (hu : Keeps L u s) :
    KeepsO L u (execEthFrameReceive port frame s) := by
  unfold execEthFrameReceive
  try dsimp only
  repeat' first
    | with_reducible assumption
    | exact lor_sub hL rfl
    | with_reducible apply KeepsO.of_next
    | with_reducible apply KeepsO.ite <;> intro _
    | with_reducible apply Keeps.ite <;> intro _
    | with_reducible apply State.bump_keeps
    | with_reducible apply State.receivePkt_keeps
    | with_reducible apply State.pathUp_keeps
    | with_reducible apply State.answerQuery_keeps
    | split

theorem execFrameStaleClose_keeps {L : Nat} {u : State} (flow : Nat) (s : State) (hL : 44016091 ||| L = L) (hu : Keeps L u s) :
    KeepsO L u (execFrameStaleClose flow s) := by
  unfold execFrameStaleClose
  try dsimp only
  repeat' first
    | with_reducible assumption
    | exact lor_sub hL rfl
    | with_reducible apply KeepsO.of_next
    | with_reducible apply KeepsO.ite <;> intro _
    | with_reducible apply Keeps.ite <;> intro _
    | with_reducible apply State.updFrame_keeps
    | with_reducible apply State.closeFrame_keeps
    | with_reducible apply State.dropLive_keeps
    | split

theorem execIgmpReportTimer_keeps {L : Nat} {u : State} (flow : Nat) (pathB : Bool) (s : State) (hL : 33554688 ||| L = L) (hu : Keeps L u s) :
    KeepsO L u (execIgmpReportTimer flow pathB s) := by
  unfold execIgmpReportTimer
  try dsimp only
  repeat' first
    | with_reducible assumption
    | exact lor_sub hL rfl
    | with_reducible apply KeepsO.of_next
    | with_reducible apply KeepsO.ite <;> intro _
    | with_reducible apply Keeps.ite <;> intro _
    | with_reducible apply State.setFlow_keeps
    | with_reducible apply State.reportPath_keeps
    | with_reducible apply Keeps.foldl
    | with_reducible apply Keeps.foldl_fst
    | intro _ _ _
    | split

theorem execFlowLehrEnd_keeps {L : Nat} {u : State} (flow : Nat) (s : State) (hL : 33554689 ||| L = L) (hu : Keeps L u s) :
    KeepsO L u (execFlowLehrEnd flow s) := by
  unfold execFlowLehrEnd
  try dsimp only
  repeat' first
    | with_reducible assumption
    | exact lor_sub hL rfl
    | with_reducible apply KeepsO.of_next
    | with_reducible apply KeepsO.ite <;> intro _
    | with_reducible apply Keeps.ite <;> intro _
    | with_reducible apply State.wr_keeps
    | with_reducible apply State.flowStart_keeps
    | split

theorem execMergeWindowExpiry_keeps {L : Nat} {u : State} (flow : Nat) (seq : Nat) (s : State) (hL : 8388864 ||| L = L) (hu : Keeps L u s) :
    KeepsO L u (execMergeWindowExpiry flow seq s) := by
  unfold execMergeWindowExpiry
  try dsimp only
  repeat' first
    | with_reducible assumption
    | exact lor_sub hL rfl
    | with_reducible apply KeepsO.of_next
    | with_reducible apply KeepsO.ite <;> intro _
    | with_reducible apply Keeps.ite <;> intro _
    | with_reducible apply State.setFlow_keeps
    | with_reducible apply State.flowCnt_keeps
    | split

theorem execSsrcAdopt_keeps {L : Nat} {u : State} (flow : Nat) (pathB : Bool) (s : State) (hL : 8388953 ||| L = L) (hu : Keeps L u s) :
    KeepsO L u (execSsrcAdopt flow pathB s) := by
  unfold execSsrcAdopt
  try dsimp only
  repeat' first
    | with_reducible assumption
    | exact lor_sub hL rfl
    | with_reducible apply KeepsO.of_next
    | with_reducible apply KeepsO.ite <;> intro _
    | with_reducible apply Keeps.ite <;> intro _
    | with_reducible apply State.closeFrame_keeps
    | with_reducible apply State.netErr_keeps
    | with_reducible apply State.setFlow_keeps
    | split

theorem State.flowError_keeps {L : Nat} {u : State} (s : State) (f : Nat) (code : Nat) (d1 : Nat) (hL : 2 ||| L = L) (hu : Keeps L u s) :
    Keeps L u (State.flowError s f code d1) := by
  unfold State.flowError
  try dsimp only
  repeat' first
    | with_reducible assumption
    | exact lor_sub hL rfl
    | with_reducible apply State.sendTo_keeps
    | split

theorem execPathLoss_keeps {L : Nat} {u : State} (flow : Nat) (pathB : Bool) (s : State) (hL : 8388891 ||| L = L) (hu : Keeps L u s) :
    KeepsO L u (execPathLoss flow pathB s) := by
  unfold execPathLoss
  try dsimp only
  repeat' first
    | with_reducible assumption
    | exact lor_sub hL rfl
    | with_reducible apply KeepsO.of_next
    | with_reducible apply KeepsO.ite <;> intro _
    | with_reducible apply Keeps.ite <;> intro _
    | with_reducible apply State.setFlow_keeps
    | with_reducible apply State.wr_keeps
    | with_reducible apply State.flowError_keeps
    | with_reducible apply State.netErr_keeps
    | split

theorem execNetSilent_keeps {L : Nat} {u : State} (flow : Nat) (s : State) (hL : 8388891 ||| L = L) (hu : Keeps L u s) :
    KeepsO L u (execNetSilent flow s) := by
  unfold execNetSilent
  try dsimp only
  repeat' first
    | with_reducible assumption
    | exact lor_sub hL rfl
    | with_reducible apply KeepsO.of_next
    | with_reducible apply KeepsO.ite <;> intro _
    | with_reducible apply Keeps.ite <;> intro _
    | with_reducible apply State.setFlow_keeps
    | with_reducible apply State.wr_keeps
    | with_reducible apply State.flowError_keeps
    | with_reducible apply State.netErr_keeps
    | split

theorem execSwTimestampInterrupt_keeps {L : Nat} {u : State} (flow : Nat) (s : State) (hL : 8512 ||| L = L) (hu : Keeps L u s) :
    KeepsO L u (execSwTimestampInterrupt flow s) := by
  unfold execSwTimestampInterrupt
  try dsimp only
  repeat' first
    | with_reducible assumption
    | exact lor_sub hL rfl
    | with_reducible apply KeepsO.of_next
    | with_reducible apply State.setFlow_keeps
    | with_reducible apply State.restamp_keeps
    | split

theorem execNetLinkLost_keeps {L : Nat} {u : State} (port : Nat) (s : State) (hL : 8388891 ||| L = L) (hu : Keeps L u s) :
    KeepsO L u (execNetLinkLost port s) := by
  unfold execNetLinkLost
  try dsimp only
  repeat' first
    | with_reducible assumption
    | exact lor_sub hL rfl
    | with_reducible apply KeepsO.of_next
    | with_reducible apply KeepsO.ite <;> intro _
    | with_reducible apply Keeps.ite <;> intro _
    | with_reducible apply State.netLink_keeps
    | with_reducible apply State.linkDown_keeps
    | with_reducible apply State.setEthPort_keeps
    | split

end Sys2Proof.Machine
end

