-- ==== Sys2Proof/Laws/KeepProg.lean ====
section
/-! SUPPORT. Every operation of Machine/Prog.lean keeps what `Keeps` says. -/

set_option Elab.async false

namespace Sys2Proof.Machine

theorem State.progsNote_keeps {L : Nat} {u : State} (s : State) (hL : 1 ||| L = L) (hu : Keeps L u s) :
    Keeps L u (State.progsNote s) := by
  unfold State.progsNote
  try dsimp only
  repeat' first
    | with_reducible assumption
    | exact lor_sub hL rfl
    | with_reducible apply State.wr_keeps
    | with_reducible apply Keeps.foldl
    | with_reducible apply Keeps.foldl_fst
    | intro _ _ _
    | split

theorem State.loadProg_keeps {L : Nat} {u : State} (s : State) (jidx : Nat) (p : Nat) (image : List Nat) (hL : 2053 ||| L = L) (hu : Keeps L u s) :
    Keeps L u (State.loadProg s jidx p image) := by
  unfold State.loadProg
  try dsimp only
  repeat' first
    | with_reducible assumption
    | exact lor_sub hL rfl
    | with_reducible apply State.updCmd_keeps
    | with_reducible apply State.setProg_keeps
    | with_reducible apply State.wr_keeps
    | split

theorem State.loadFails_keeps {L : Nat} {u : State} (s : State) (c : Cmd) (p : Nat) (code : Nat) (d0 : Nat) (d1 : Nat) (hL : 8388639 ||| L = L) (hu : Keeps L u s) :
    Keeps L u (State.loadFails s c p code d0 d1) := by
  unfold State.loadFails
  try dsimp only
  repeat' first
    | with_reducible assumption
    | exact lor_sub hL rfl
    | with_reducible apply Keeps.ite <;> intro _
    | with_reducible apply State.wr_keeps
    | with_reducible apply State.failCmd_keeps
    | with_reducible apply State.file_keeps
    | split

theorem execProgLoad_keeps {L : Nat} {u : State} (jidx : Nat) (image : List Nat) (s : State) (hL : 41945119 ||| L = L) (hu : Keeps L u s) :
    KeepsO L u (execProgLoad jidx image s) := by
  unfold execProgLoad
  try dsimp only
  repeat' first
    | with_reducible assumption
    | exact lor_sub hL rfl
    | with_reducible apply KeepsO.of_next
    | with_reducible apply KeepsO.ite <;> intro _
    | with_reducible apply Keeps.ite <;> intro _
    | with_reducible apply State.fetchedObj_keeps
    | refine Keeps.of_fst (State.fetchedObj_keeps _ _ ?_ ?_) (by with_reducible assumption)
    | with_reducible apply State.loadProg_keeps
    | with_reducible apply State.loadFails_keeps
    | with_reducible apply State.setProg_keeps
    | with_reducible apply State.wr_keeps
    | split

theorem execProgUnload_keeps {L : Nat} {u : State} (jidx : Nat) (s : State) (hL : 8390687 ||| L = L) (hu : Keeps L u s) :
    KeepsO L u (execProgUnload jidx s) := by
  unfold execProgUnload
  try dsimp only
  repeat' first
    | with_reducible assumption
    | exact lor_sub hL rfl
    | with_reducible apply KeepsO.of_next
    | with_reducible apply KeepsO.ite <;> intro _
    | with_reducible apply Keeps.ite <;> intro _
    | with_reducible apply State.done_keeps
    | with_reducible apply State.file_keeps
    | with_reducible apply State.updCmd_keeps
    | with_reducible apply State.setProg_keeps
    | with_reducible apply State.wr_keeps
    | split

theorem execProgUnloadDrainEnd_keeps {L : Nat} {u : State} (prog : Nat) (s : State) (hL : 526855 ||| L = L) (hu : Keeps L u s) :
    KeepsO L u (execProgUnloadDrainEnd prog s) := by
  unfold execProgUnloadDrainEnd
  try dsimp only
  repeat' first
    | with_reducible assumption
    | exact lor_sub hL rfl
    | with_reducible apply KeepsO.of_next
    | with_reducible apply KeepsO.ite <;> intro _
    | with_reducible apply Keeps.ite <;> intro _
    | with_reducible apply State.wr_keeps
    | with_reducible apply State.setProg_keeps
    | with_reducible apply State.done_keeps
    | with_reducible apply State.loadProg_keeps
    | split
    | refine Keeps.upd hL ?_

theorem execProgLoadEnd_keeps {L : Nat} {u : State} (prog : Nat) (s : State) (hL : 8390687 ||| L = L) (hu : Keeps L u s) :
    KeepsO L u (execProgLoadEnd prog s) := by
  unfold execProgLoadEnd
  try dsimp only
  repeat' first
    | with_reducible assumption
    | exact lor_sub hL rfl
    | with_reducible apply KeepsO.of_next
    | with_reducible apply State.loadFails_keeps
    | with_reducible apply State.wr_keeps
    | with_reducible apply State.setProg_keeps
    | with_reducible apply State.done_keeps
    | with_reducible apply State.cfgExtend_keeps
    | split

end Sys2Proof.Machine
end

