-- ==== Sys2Proof/Laws/KeepSched.lean ====
section
/-! SUPPORT. Every operation of Machine/Sched.lean keeps what `Keeps` says. -/

set_option Elab.async false

namespace Sys2Proof.Machine

theorem State.saveAll_keeps {L : Nat} {u : State} (s : State) (hL : 9151515 ||| L = L) (hu : Keeps L u s) :
    Keeps L u (State.saveAll s) := by
  unfold State.saveAll
  try dsimp only
  repeat' first
    | with_reducible assumption
    | exact lor_sub hL rfl
    | with_reducible apply Keeps.ite <;> intro _
    | with_reducible apply State.wr_keeps
    | with_reducible apply State.dropOps_keeps
    | with_reducible apply State.stopCore_keeps
    | with_reducible apply State.setCore_keeps
    | with_reducible apply Keeps.foldl
    | with_reducible apply Keeps.foldl_fst
    | intro _ _ _
    | split
    | refine Keeps.upd hL ?_

theorem execSaveAll_keeps {L : Nat} {u : State} (s : State) (hL : 42705947 ||| L = L) (hu : Keeps L u s) :
    KeepsO L u (execSaveAll s) := by
  unfold execSaveAll
  try dsimp only
  repeat' first
    | with_reducible assumption
    | exact lor_sub hL rfl
    | with_reducible apply KeepsO.of_next
    | with_reducible apply State.bar_keeps
    | refine (State.bar_keeps _ _ _ ?_ ?_ ?_).next _ (by with_reducible assumption)
    | with_reducible apply State.saveAll_keeps
    | intro _ _
    | intro _

theorem State.resumeAll_keeps {L : Nat} {u : State} (s : State) (hL : 65537 ||| L = L) (hu : Keeps L u s) :
    Keeps L u (State.resumeAll s) := by
  unfold State.resumeAll
  try dsimp only
  repeat' first
    | with_reducible assumption
    | exact lor_sub hL rfl
    | with_reducible apply Keeps.ite <;> intro _
    | with_reducible apply State.wr_keeps
    | split
    | refine Keeps.upd hL ?_

theorem execResumeAll_keeps {L : Nat} {u : State} (s : State) (hL : 33619969 ||| L = L) (hu : Keeps L u s) :
    KeepsO L u (execResumeAll s) := by
  unfold execResumeAll
  try dsimp only
  repeat' first
    | with_reducible assumption
    | exact lor_sub hL rfl
    | with_reducible apply KeepsO.of_next
    | with_reducible apply State.bar_keeps
    | refine (State.bar_keeps _ _ _ ?_ ?_ ?_).next _ (by with_reducible assumption)
    | with_reducible apply State.resumeAll_keeps
    | intro _ _
    | intro _

theorem State.schedErr_keeps {L : Nat} {u : State} (s : State) (code : Nat) (wh : Nat) (inst : Nat) (hL : 8388633 ||| L = L) (hu : Keeps L u s) :
    Keeps L u (State.schedErr s code wh inst) := by
  unfold State.schedErr
  try dsimp only
  repeat' first
    | with_reducible assumption
    | exact lor_sub hL rfl
    | with_reducible apply State.file_keeps
    | with_reducible apply State.setErr_keeps

theorem execSchedClsCommit_keeps {L : Nat} {u : State} (s : State) (hL : 42270745 ||| L = L) (hu : Keeps L u s) :
    KeepsO L u (execSchedClsCommit s) := by
  unfold execSchedClsCommit
  try dsimp only
  repeat' first
    | with_reducible assumption
    | exact lor_sub hL rfl
    | with_reducible apply KeepsO.of_next
    | with_reducible apply KeepsO.ite <;> intro _
    | with_reducible apply Keeps.ite <;> intro _
    | with_reducible apply State.bar_keeps
    | refine (State.bar_keeps _ _ _ ?_ ?_ ?_).next _ (by with_reducible assumption)
    | with_reducible apply State.wr_keeps
    | with_reducible apply State.sbNote_keeps
    | with_reducible apply State.setStationBuf_keeps
    | with_reducible apply State.schedErr_keeps
    | with_reducible apply Keeps.foldl
    | with_reducible apply Keeps.foldl_fst
    | intro _ _ _
    | intro _ _
    | intro _
    | split
    | refine Keeps.upd hL ?_

theorem State.classOff_keeps {L : Nat} {u : State} (s : State) (svc : Nat) (hL : 9150491 ||| L = L) (hu : Keeps L u s) :
    Keeps L u (State.classOff s svc) := by
  unfold State.classOff
  try dsimp only
  repeat' first
    | with_reducible assumption
    | exact lor_sub hL rfl
    | with_reducible apply Keeps.ite <;> intro _
    | with_reducible apply State.schedNote_keeps
    | with_reducible apply State.stopCore_keeps
    | with_reducible apply State.coreNote_keeps
    | with_reducible apply State.requeue_keeps
    | with_reducible apply State.setCore_keeps
    | with_reducible apply Keeps.foldl
    | with_reducible apply Keeps.foldl_fst
    | intro _ _ _
    | split

theorem execClassEnable_keeps {L : Nat} {u : State} (svc : Nat) (w : BitVec 32) (s : State) (hL : 42704923 ||| L = L) (hu : Keeps L u s) :
    KeepsO L u (execClassEnable svc w s) := by
  unfold execClassEnable
  try dsimp only
  repeat' first
    | with_reducible assumption
    | exact lor_sub hL rfl
    | with_reducible apply KeepsO.of_next
    | with_reducible apply KeepsO.ite <;> intro _
    | with_reducible apply Keeps.ite <;> intro _
    | with_reducible apply State.bar_keeps
    | refine (State.bar_keeps _ _ _ ?_ ?_ ?_).next _ (by with_reducible assumption)
    | with_reducible apply State.wr_keeps
    | with_reducible apply State.classOff_keeps
    | intro _ _
    | intro _
    | split

theorem execMaxwaitClear_keeps {L : Nat} {u : State} (svc : Nat) (s : State) (hL : 33554433 ||| L = L) (hu : Keeps L u s) :
    KeepsO L u (execMaxwaitClear svc s) := by
  unfold execMaxwaitClear
  try dsimp only
  repeat' first
    | with_reducible assumption
    | exact lor_sub hL rfl
    | with_reducible apply KeepsO.of_next
    | with_reducible apply State.bar_keeps
    | refine (State.bar_keeps _ _ _ ?_ ?_ ?_).next _ (by with_reducible assumption)
    | with_reducible apply State.wr_keeps
    | intro _ _
    | intro _

theorem State.coreResumes_keeps {L : Nat} {u : State} (s : State) (c : Nat) (hL : 32769 ||| L = L) (hu : Keeps L u s) :
    Keeps L u (State.coreResumes s c) := by
  unfold State.coreResumes
  try dsimp only
  repeat' first
    | with_reducible assumption
    | exact lor_sub hL rfl
    | with_reducible apply Keeps.ite <;> intro _
    | with_reducible apply State.wr_keeps
    | with_reducible apply State.setCore_keeps
    | split

theorem State.ringResumes_keeps {L : Nat} {u : State} (s : State) (c : Nat) (hL : 3 ||| L = L) (hu : Keeps L u s) :
    Keeps L u (State.ringResumes s c) := by
  unfold State.ringResumes
  try dsimp only
  repeat' first
    | with_reducible assumption
    | exact lor_sub hL rfl
    | with_reducible apply Keeps.ite <;> intro _
    | with_reducible apply State.cringStart_keeps
    | split

theorem State.preempt_keeps {L : Nat} {u : State} (s : State) (svc : Nat) (hL : 9142299 ||| L = L) (hu : Keeps L u s) :
    Keeps L u (State.preempt s svc) := by
  unfold State.preempt
  try dsimp only
  repeat' first
    | with_reducible assumption
    | exact lor_sub hL rfl
    | with_reducible apply Keeps.ite <;> intro _
    | with_reducible apply State.drawCtx_keeps
    | refine Keeps.of_fst (State.drawCtx_keeps _ _ ?_ ?_) (by with_reducible assumption)
    | with_reducible apply State.bump_keeps
    | with_reducible apply State.cnt_keeps
    | with_reducible apply State.note_keeps
    | with_reducible apply State.stopEnd_keeps
    | with_reducible apply State.enterLehr_keeps
    | with_reducible apply State.schedErr_keeps
    | split
    | refine Keeps.upd hL ?_

theorem execPreemptionDecision_keeps {L : Nat} {u : State} (svc : Nat) (s : State) (hL : 9142299 ||| L = L) (hu : Keeps L u s) :
    KeepsO L u (execPreemptionDecision svc s) := by
  unfold execPreemptionDecision
  try dsimp only
  repeat' first
    | with_reducible assumption
    | exact lor_sub hL rfl
    | with_reducible apply KeepsO.of_next
    | with_reducible apply KeepsO.ite <;> intro _
    | with_reducible apply Keeps.ite <;> intro _
    | with_reducible apply State.preempt_keeps
    | split

theorem State.unseat_keeps {L : Nat} {u : State} (s : State) (c : Nat) (l : List (Nat × Nat × Nat × Nat)) (hL : 8192 ||| L = L) (hu : Keeps L u s) :
    Keeps L u (State.unseat s c l) := by
  unfold State.unseat
  try dsimp only
  repeat' first
    | with_reducible assumption
    | exact lor_sub hL rfl
    | with_reducible apply State.updNode_keeps
    | with_reducible apply Keeps.foldl
    | with_reducible apply Keeps.foldl_fst
    | intro _ _ _

theorem execContextSaveDone_keeps {L : Nat} {u : State} (core : Nat) (commit : Nat) (s : State) (hL : 25927707 ||| L = L) (hu : Keeps L u s) :
    KeepsO L u (execContextSaveDone core commit s) := by
  unfold execContextSaveDone
  try dsimp only
  repeat' first
    | with_reducible assumption
    | exact lor_sub hL rfl
    | with_reducible apply KeepsO.of_next
    | with_reducible apply KeepsO.ite <;> intro _
    | with_reducible apply Keeps.ite <;> intro _
    | with_reducible apply State.setCore_keeps
    | with_reducible apply State.unseat_keeps
    | with_reducible apply State.free1_keeps
    | with_reducible apply State.bump_keeps
    | with_reducible apply State.cnt_keeps
    | with_reducible apply State.wr_keeps
    | with_reducible apply State.note_keeps
    | with_reducible apply State.stopEnd_keeps
    | split
    | refine Keeps.upd hL ?_

theorem execSaveAreaRetry_keeps {L : Nat} {u : State} (svc : Nat) (s : State) (hL : 9142299 ||| L = L) (hu : Keeps L u s) :
    KeepsO L u (execSaveAreaRetry svc s) := by
  unfold execSaveAreaRetry
  try dsimp only
  repeat' first
    | with_reducible assumption
    | exact lor_sub hL rfl
    | with_reducible apply KeepsO.of_next
    | with_reducible apply KeepsO.ite <;> intro _
    | with_reducible apply Keeps.ite <;> intro _
    | with_reducible apply State.preempt_keeps
    | split
    | refine Keeps.upd hL ?_

theorem State.seat_keeps {L : Nat} {u : State} (s : State) (c : Nat) (l : List (Nat × Nat × Nat × Nat)) (hL : 8192 ||| L = L) (hu : Keeps L u s) :
    Keeps L u (State.seat s c l) := by
  unfold State.seat
  try dsimp only
  repeat' first
    | with_reducible assumption
    | exact lor_sub hL rfl
    | with_reducible apply State.updNode_keeps
    | with_reducible apply Keeps.foldl
    | with_reducible apply Keeps.foldl_fst
    | intro _ _ _

theorem State.restoreCtx_keeps {L : Nat} {u : State} (s : State) (k : SavedCtx) (core : Nat) (hL : 9150491 ||| L = L) (hu : Keeps L u s) :
    Keeps L u (State.restoreCtx s k core) := by
  unfold State.restoreCtx
  try dsimp only
  repeat' first
    | with_reducible assumption
    | exact lor_sub hL rfl
    | with_reducible apply Keeps.ite <;> intro _
    | with_reducible apply State.seat_keeps
    | with_reducible apply State.setCore_keeps
    | with_reducible apply State.free1_keeps
    | with_reducible apply State.cnt_keeps
    | with_reducible apply State.bump_keeps
    | split
    | refine Keeps.upd hL ?_

theorem State.ctxFails_keeps {L : Nat} {u : State} (s : State) (k : SavedCtx) (core : Nat) (sums : Bool) (hL : 10200091 ||| L = L) (hu : Keeps L u s) :
    Keeps L u (State.ctxFails s k core sums) := by
  unfold State.ctxFails
  try dsimp only
  repeat' first
    | with_reducible assumption
    | exact lor_sub hL rfl
    | with_reducible apply Keeps.ite <;> intro _
    | with_reducible apply State.free1_keeps
    | with_reducible apply State.coreErr_keeps
    | with_reducible apply State.schedErr_keeps
    | with_reducible apply State.rerunJob_keeps
    | with_reducible apply Keeps.foldl
    | with_reducible apply Keeps.foldl_fst
    | intro _ _ _
    | split
    | refine Keeps.upd hL ?_

theorem execContextRestore_keeps {L : Nat} {u : State} (core : Nat) (block : Nat) (row : Nat) (lane : Nat) (flip : BitVec 32) (bad : Bool) (s : State) (hL : 10200091 ||| L = L) (hu : Keeps L u s) :
    KeepsO L u (execContextRestore core block row lane flip bad s) := by
  unfold execContextRestore
  try dsimp only
  repeat' first
    | with_reducible assumption
    | exact lor_sub hL rfl
    | with_reducible apply KeepsO.of_next
    | with_reducible apply KeepsO.ite <;> intro _
    | with_reducible apply Keeps.ite <;> intro _
    | with_reducible apply State.note_keeps
    | with_reducible apply State.restoreCtx_keeps
    | with_reducible apply State.ctxFails_keeps
    | split

theorem State.saveAllDone_keeps {L : Nat} {u : State} (s : State) (hL : 1 ||| L = L) (hu : Keeps L u s) :
    Keeps L u (State.saveAllDone s) := by
  unfold State.saveAllDone
  try dsimp only
  repeat' first
    | with_reducible assumption
    | exact lor_sub hL rfl
    | with_reducible apply Keeps.ite <;> intro _
    | with_reducible apply State.wr_keeps
    | split

theorem execClassLehrEnd_keeps {L : Nat} {u : State} (svc : Nat) (s : State) (hL : 1 ||| L = L) (hu : Keeps L u s) :
    KeepsO L u (execClassLehrEnd svc s) := by
  unfold execClassLehrEnd
  try dsimp only
  repeat' first
    | with_reducible assumption
    | exact lor_sub hL rfl
    | with_reducible apply KeepsO.of_next
    | with_reducible apply KeepsO.ite <;> intro _
    | with_reducible apply Keeps.ite <;> intro _
    | with_reducible apply State.wr_keeps
    | split

theorem execStarveCheck_keeps {L : Nat} {u : State} (svc : Nat) (s : State) (hL : 8454169 ||| L = L) (hu : Keeps L u s) :
    KeepsO L u (execStarveCheck svc s) := by
  unfold execStarveCheck
  try dsimp only
  repeat' first
    | with_reducible assumption
    | exact lor_sub hL rfl
    | with_reducible apply KeepsO.of_next
    | with_reducible apply KeepsO.ite <;> intro _
    | with_reducible apply Keeps.ite <;> intro _
    | with_reducible apply State.schedErr_keeps
    | split
    | refine Keeps.upd hL ?_

theorem execFabricRequestGrant_keeps {L : Nat} {u : State} (heads : List FabHead) (s : State) (hL : 42008576 ||| L = L) (hu : Keeps L u s) :
    KeepsO L u (execFabricRequestGrant heads s) := by
  unfold execFabricRequestGrant
  try dsimp only
  repeat' first
    | with_reducible assumption
    | exact lor_sub hL rfl
    | with_reducible apply KeepsO.of_next
    | with_reducible apply KeepsO.ite <;> intro _
    | with_reducible apply Keeps.ite <;> intro _
    | with_reducible apply State.cnt_keeps
    | with_reducible apply State.post_keeps
    | split
    | refine Keeps.upd hL ?_

theorem State.resumeDone_keeps {L : Nat} {u : State} (s : State) (hL : 9150491 ||| L = L) (hu : Keeps L u s) :
    Keeps L u (State.resumeDone s) := by
  unfold State.resumeDone
  try dsimp only
  repeat' first
    | with_reducible assumption
    | exact lor_sub hL rfl
    | with_reducible apply Keeps.ite <;> intro _
    | with_reducible apply State.wr_keeps
    | with_reducible apply State.coreResumes_keeps
    | with_reducible apply State.restoreCtx_keeps
    | with_reducible apply State.coreNote_keeps
    | with_reducible apply State.ringResumes_keeps
    | with_reducible apply State.schedNote_keeps
    | with_reducible apply Keeps.foldl
    | with_reducible apply Keeps.foldl_fst
    | intro _ _ _
    | split
    | refine Keeps.upd hL ?_

end Sys2Proof.Machine
end

