-- ==== Sys2Proof/Laws/KeepSec.lean ====
section
/-! SUPPORT. Every operation of Machine/Sec.lean keeps what `Keeps` says. -/

set_option Elab.async false

namespace Sys2Proof.Machine

theorem State.secErr_keeps {L : Nat} {u : State} (s : State) (code : Nat) (hL : 8388633 ||| L = L) (hu : Keeps L u s) :
    Keeps L u (State.secErr s code) := by
  unfold State.secErr
  try dsimp only
  repeat' first
    | with_reducible assumption
    | exact lor_sub hL rfl
    | with_reducible apply State.file_keeps
    | with_reducible apply State.setErr_keeps

theorem State.lcEnd_keeps {L : Nat} {u : State} (s : State) (code : Nat) (hL : 8388633 ||| L = L) (hu : Keeps L u s) :
    Keeps L u (State.lcEnd s code) := by
  unfold State.lcEnd
  try dsimp only
  repeat' first
    | with_reducible assumption
    | exact lor_sub hL rfl
    | with_reducible apply Keeps.ite <;> intro _
    | with_reducible apply State.wr_keeps
    | with_reducible apply State.secErr_keeps
    | split

theorem State.lcCommand_keeps {L : Nat} {u : State} (s : State) (allowed changes : Bool) (f : State → State) (hL : 8388633 ||| L = L) (hu : Keeps L u s)
    (hf : allowed = true → Keeps L u (f s)) : Keeps L u (s.lcCommand allowed changes f) := by
  unfold State.lcCommand
  refine Keeps.ite (fun _ => State.secErr_keeps _ _ (lor_sub hL rfl) hu) (fun _ => Keeps.ite (fun _ => State.lcEnd_keeps _ _ (lor_sub hL rfl) hu) (fun ha =>
    Keeps.ite (fun _ => State.lcEnd_keeps _ _ (lor_sub hL rfl) hu) (fun _ => hf ?_)))
  simpa using ha

theorem execChallenge_keeps {L : Nat} {u : State} (s : State) (hL : 46137369 ||| L = L) (hu : Keeps L u s) :
    KeepsO L u (execChallenge s) := by
  unfold execChallenge
  try dsimp only
  repeat' first
    | with_reducible assumption
    | exact lor_sub hL rfl
    | with_reducible apply KeepsO.of_next
    | with_reducible apply State.bar_keeps
    | refine (State.bar_keeps _ _ _ ?_ ?_ ?_).next _ (by with_reducible assumption)
    | with_reducible apply State.lcCommand_keeps
    | with_reducible apply State.putBytes_keeps
    | with_reducible apply State.lcEnd_keeps
    | intro _ _
    | intro _
    | refine Keeps.updSec hL ?_
    | refine Keeps.upd hL ?_

theorem State.consume_keeps {L : Nat} {u : State} (s : State) (hL : 4194304 ||| L = L) (hu : Keeps L u s) :
    Keeps L u (State.consume s) := by
  unfold State.consume
  try dsimp only
  repeat' first
    | with_reducible assumption
    | refine Keeps.updSec hL ?_
    | refine Keeps.upd hL ?_

theorem State.withToken_keeps {L : Nat} {u : State} (s : State) (op slot : Nat) (f : State → State) (hL : 12582937 ||| L = L) (hu : Keeps L u s)
    (hf : Keeps L u (f s.consume)) : Keeps L u (s.withToken op slot f) := by
  unfold State.withToken
  exact Keeps.ite (fun _ => hf) (fun _ => State.lcEnd_keeps _ _ (lor_sub hL rfl) (State.consume_keeps _ (lor_sub hL rfl) hu))

/-- The state is not TERMINATED when the lifecycle read from the fuses is another one. -/
theorem not_terminated {s : State} (h : s.lifecycle ≠ 4) : ¬terminated s := by
  intro ht
  apply h
  simp [State.lifecycle, SecSt.lifecycle, ht.1]

/-- A change of the fuses of a state that is not TERMINATED. -/
theorem Keeps.of_not_terminated {L : Nat} {u s t : State} (hu : Keeps L u s) (hn : ¬terminated s) (hp : t.pending = s.pending)
    (hr : t.regs = s.regs) (hc : t.counters = s.counters) (hd : Differ L s t) : Keeps L u t :=
  ⟨hp.trans hu.pending, fun h => ⟨hr ▸ (hu.canon h).1, hc ▸ (hu.canon h).2⟩, fun h => absurd (hu.term h) hn, hu.parts.trans hd⟩

theorem State.lcBurn_keeps {L : Nat} {u : State} (s : State) (new : Nat) (hL : 4194305 ||| L = L) (hu : Keeps L u s) (hn : ¬terminated s) : Keeps L u (s.lcBurn new) := by
  unfold State.lcBurn
  exact State.wr_keeps _ _ _ (lor_sub hL rfl) (State.wr_keeps _ _ _ (lor_sub hL rfl) (hu.of_not_terminated hn rfl rfl rfl (Differ.mono hL (by exact .mk fun p hp => by cases p <;> first | exact absurd hp (by decide) | exact rfl))))

theorem execProvision_keeps {L : Nat} {u : State} (s : State) (hL : 46137369 ||| L = L) (hu : Keeps L u s) : KeepsO L u (execProvision s) := by
  unfold execProvision
  refine State.bar_keeps _ _ _ (lor_sub hL rfl) hu (fun t ht => KeepsO.of_next (State.lcCommand_keeps _ _ _ _ (lor_sub hL rfl) ht (fun ha =>
    State.withToken_keeps _ _ _ _ (lor_sub hL rfl) ht (State.lcBurn_keeps _ _ (lor_sub hL rfl) ((State.consume_keeps _ (lor_sub hL rfl) ht).trans ⟨rfl, id, id, Differ.mono hL (by exact .mk fun p hp => by cases p <;> first | exact absurd hp (by decide) | exact rfl)⟩) ?_))))
  refine not_terminated (fun h => ?_)
  have h4 : t.lifecycle = 4 := h
  simp [h4] at ha

theorem State.lcNote_keeps {L : Nat} {u : State} (s : State) (hL : 1 ||| L = L) (hu : Keeps L u s) :
    Keeps L u (State.lcNote s) := by
  unfold State.lcNote
  try dsimp only
  repeat' first
    | with_reducible assumption
    | exact lor_sub hL rfl
    | with_reducible apply Keeps.ite <;> intro _
    | with_reducible apply State.wr_keeps
    | split

theorem execEndorse_keeps {L : Nat} {u : State} (s : State) (hL : 46137369 ||| L = L) (hu : Keeps L u s) :
    KeepsO L u (execEndorse s) := by
  unfold execEndorse
  try dsimp only
  repeat' first
    | with_reducible assumption
    | exact lor_sub hL rfl
    | with_reducible apply KeepsO.of_next
    | with_reducible apply State.bar_keeps
    | refine (State.bar_keeps _ _ _ ?_ ?_ ?_).next _ (by with_reducible assumption)
    | with_reducible apply State.lcCommand_keeps
    | with_reducible apply State.lcEnd_keeps
    | with_reducible apply State.lcNote_keeps
    | intro _ _
    | intro _
    | split
    | refine Keeps.updSec hL ?_
    | refine Keeps.upd hL ?_

theorem execProduction_keeps {L : Nat} {u : State} (s : State) (hL : 46137369 ||| L = L) (hu : Keeps L u s) : KeepsO L u (execProduction s) := by
  unfold execProduction
  refine State.bar_keeps _ _ _ (lor_sub hL rfl) hu (fun t ht => KeepsO.of_next (State.lcCommand_keeps _ _ _ _ (lor_sub hL rfl) ht (fun ha =>
    State.lcBurn_keeps _ _ (lor_sub hL rfl) ht (not_terminated (fun h4 => ?_)))))
  simp [h4] at ha

theorem execReturnCmd_keeps {L : Nat} {u : State} (s : State) (hL : 46137369 ||| L = L) (hu : Keeps L u s) : KeepsO L u (execReturnCmd s) := by
  unfold execReturnCmd
  refine State.bar_keeps _ _ _ (lor_sub hL rfl) hu (fun t ht => KeepsO.of_next (State.lcCommand_keeps _ _ _ _ (lor_sub hL rfl) ht (fun ha =>
    State.withToken_keeps _ _ _ _ (lor_sub hL rfl) ht (State.lcBurn_keeps _ _ (lor_sub hL rfl) (State.consume_keeps _ (lor_sub hL rfl) ht) ?_))))
  refine not_terminated (fun h => ?_)
  have h4 : t.lifecycle = 4 := h
  simp [h4] at ha

theorem execTerminate_keeps {L : Nat} {u : State} (s : State) (hL : 46137369 ||| L = L) (hu : Keeps L u s) : KeepsO L u (execTerminate s) := by
  unfold execTerminate
  refine State.bar_keeps _ _ _ (lor_sub hL rfl) hu (fun t ht => KeepsO.of_next (State.lcCommand_keeps _ _ _ _ (lor_sub hL rfl) ht (fun ha => ?_)))
  have hn : t.lifecycle ≠ 4 := by simpa using ha
  exact Keeps.ite
    (fun _ => State.withToken_keeps _ _ _ _ (lor_sub hL rfl) ht (State.lcBurn_keeps _ _ (lor_sub hL rfl) ((State.consume_keeps _ (lor_sub hL rfl) ht).trans ⟨rfl, id, id, Differ.mono hL (by exact .mk fun p hp => by cases p <;> first | exact absurd hp (by decide) | exact rfl)⟩)
      (not_terminated hn)))
    (fun _ => State.lcBurn_keeps _ _ (lor_sub hL rfl) (ht.trans ⟨rfl, id, id, Differ.mono hL (by exact .mk fun p hp => by cases p <;> first | exact absurd hp (by decide) | exact rfl)⟩) (not_terminated hn))

theorem execRevoke_keeps {L : Nat} {u : State} (slot : Nat) (s : State) (hL : 46137369 ||| L = L) (hu : Keeps L u s) :
    KeepsO L u (execRevoke slot s) := by
  unfold execRevoke
  try dsimp only
  repeat' first
    | with_reducible assumption
    | exact lor_sub hL rfl
    | with_reducible apply KeepsO.of_next
    | with_reducible apply State.bar_keeps
    | refine (State.bar_keeps _ _ _ ?_ ?_ ?_).next _ (by with_reducible assumption)
    | with_reducible apply State.lcCommand_keeps
    | with_reducible apply State.withToken_keeps
    | with_reducible apply State.lcEnd_keeps
    | with_reducible apply State.wr_keeps
    | with_reducible apply State.consume_keeps
    | intro _ _
    | intro _

theorem State.signGo_keeps {L : Nat} {u : State} (s : State) (go : RegField) (done : RegField) (busy : Bool) (f : State → State) (hL : 8388633 ||| L = L) (hu : Keeps L u s) (hf : ∀ t, Keeps L u t → Keeps L u (f t)) :
    Keeps L u (State.signGo s go done busy f) := by
  unfold State.signGo
  try dsimp only
  repeat' first
    | with_reducible assumption
    | with_reducible apply hf
    | exact lor_sub hL rfl
    | with_reducible apply Keeps.ite <;> intro _
    | with_reducible apply State.wr_keeps
    | with_reducible apply State.secErr_keeps
    | split

theorem execQuoteGo_keeps {L : Nat} {u : State} (s : State) (hL : 46137369 ||| L = L) (hu : Keeps L u s) :
    KeepsO L u (execQuoteGo s) := by
  unfold execQuoteGo
  try dsimp only
  repeat' first
    | with_reducible assumption
    | exact lor_sub hL rfl
    | with_reducible apply KeepsO.of_next
    | with_reducible apply State.bar_keeps
    | refine (State.bar_keeps _ _ _ ?_ ?_ ?_).next _ (by with_reducible assumption)
    | with_reducible apply State.signGo_keeps
    | intro _ _
    | intro _
    | refine Keeps.updSec hL ?_
    | refine Keeps.upd hL ?_

theorem execBurgeeGo_keeps {L : Nat} {u : State} (s : State) (hL : 46137369 ||| L = L) (hu : Keeps L u s) :
    KeepsO L u (execBurgeeGo s) := by
  unfold execBurgeeGo
  try dsimp only
  repeat' first
    | with_reducible assumption
    | exact lor_sub hL rfl
    | with_reducible apply KeepsO.of_next
    | with_reducible apply State.bar_keeps
    | refine (State.bar_keeps _ _ _ ?_ ?_ ?_).next _ (by with_reducible assumption)
    | with_reducible apply State.signGo_keeps
    | intro _ _
    | intro _
    | refine Keeps.updSec hL ?_
    | refine Keeps.upd hL ?_

theorem execSvnCommit_keeps {L : Nat} {u : State} (key : Nat) (s : State) (hL : 33554433 ||| L = L) (hu : Keeps L u s) :
    KeepsO L u (execSvnCommit key s) := by
  unfold execSvnCommit
  try dsimp only
  repeat' first
    | with_reducible assumption
    | exact lor_sub hL rfl
    | with_reducible apply KeepsO.of_next
    | with_reducible apply KeepsO.ite <;> intro _
    | with_reducible apply Keeps.ite <;> intro _
    | with_reducible apply State.bar_keeps
    | refine (State.bar_keeps _ _ _ ?_ ?_ ?_).next _ (by with_reducible assumption)
    | with_reducible apply State.wr_keeps
    | intro _ _
    | intro _
    | split

theorem execRecovGo_keeps {L : Nat} {u : State} (s : State) (hL : 33554433 ||| L = L) (hu : Keeps L u s) :
    KeepsO L u (execRecovGo s) := by
  unfold execRecovGo
  try dsimp only
  repeat' first
    | with_reducible assumption
    | exact lor_sub hL rfl
    | with_reducible apply KeepsO.of_next
    | with_reducible apply KeepsO.ite <;> intro _
    | with_reducible apply Keeps.ite <;> intro _
    | with_reducible apply State.bar_keeps
    | refine (State.bar_keeps _ _ _ ?_ ?_ ?_).next _ (by with_reducible assumption)
    | with_reducible apply State.wr_keeps
    | intro _ _
    | intro _
    | split

theorem execSecTamperClr_keeps {L : Nat} {u : State} (w : BitVec 32) (s : State) (hL : 33554433 ||| L = L) (hu : Keeps L u s) :
    KeepsO L u (execSecTamperClr w s) := by
  unfold execSecTamperClr
  try dsimp only
  repeat' first
    | with_reducible assumption
    | exact lor_sub hL rfl
    | with_reducible apply KeepsO.of_next
    | with_reducible apply KeepsO.ite <;> intro _
    | with_reducible apply Keeps.ite <;> intro _
    | with_reducible apply State.bar_keeps
    | refine (State.bar_keeps _ _ _ ?_ ?_ ?_).next _ (by with_reducible assumption)
    | with_reducible apply State.wr_keeps
    | intro _ _
    | intro _
    | split

theorem State.failSigns_keeps {L : Nat} {u : State} (s : State) (hL : 12582937 ||| L = L) (hu : Keeps L u s) :
    Keeps L u (State.failSigns s) := by
  unfold State.failSigns
  try dsimp only
  repeat' first
    | with_reducible assumption
    | exact lor_sub hL rfl
    | with_reducible apply Keeps.ite <;> intro _
    | with_reducible apply State.secErr_keeps
    | with_reducible apply State.wr_keeps
    | split
    | refine Keeps.updSec hL ?_
    | refine Keeps.upd hL ?_

theorem State.startDerive_keeps {L : Nat} {u : State} (s : State) (hL : 12582937 ||| L = L) (hu : Keeps L u s) : Keeps L u s.startDerive := by
  unfold State.startDerive
  exact State.failSigns_keeps _ (lor_sub hL rfl) ((State.wr_keeps _ _ _ (lor_sub hL rfl) hu).trans ⟨rfl, id, id, Differ.mono hL (by exact .mk fun p hp => by cases p <;> first | exact absurd hp (by decide) | exact rfl)⟩)

theorem State.tamper_keeps {L : Nat} {u : State} (s : State) (source : Nat) (rail : Nat) (hL : 12582939 ||| L = L) (hu : Keeps L u s) :
    Keeps L u (State.tamper s source rail) := by
  unfold State.tamper
  try dsimp only
  repeat' first
    | with_reducible assumption
    | exact lor_sub hL rfl
    | with_reducible apply Keeps.ite <;> intro _
    | with_reducible apply State.wr_keeps
    | with_reducible apply State.startWipe_keeps
    | with_reducible apply State.failSigns_keeps
    | with_reducible apply State.setErr_keeps
    | with_reducible apply State.bumpSat_keeps
    | with_reducible apply State.file_keeps
    | with_reducible apply State.devError_keeps
    | split
    | refine Keeps.updSec hL ?_
    | refine Keeps.upd hL ?_

theorem execLcCommandDone_keeps {L : Nat} {u : State} (s : State) (hL : 12582937 ||| L = L) (hu : Keeps L u s) : KeepsO L u (execLcCommandDone s) := by
  unfold execLcCommandDone
  split
  · exact KeepsO.of_next hu
  · rename_i n hb
    have hn : ¬terminated s := fun h => by
      have := h.2
      rw [hb] at this
      cases this
    exact KeepsO.of_next (State.lcEnd_keeps _ _ (lor_sub hL rfl) (State.startDerive_keeps _ (lor_sub hL rfl) (State.startWipe_keeps _ _ (lor_sub hL rfl) (State.lcNote_keeps _ (lor_sub hL rfl)
      (hu.of_not_terminated hn rfl rfl rfl (Differ.mono hL (by exact .mk fun p hp => by cases p <;> first | exact absurd hp (by decide) | exact rfl)))))))

theorem execKeyDerivationDone_keeps {L : Nat} {u : State} (s : State) (hL : 4194305 ||| L = L) (hu : Keeps L u s) :
    KeepsO L u (execKeyDerivationDone s) := by
  unfold execKeyDerivationDone
  try dsimp only
  repeat' first
    | with_reducible assumption
    | exact lor_sub hL rfl
    | with_reducible apply KeepsO.of_next
    | with_reducible apply KeepsO.ite <;> intro _
    | with_reducible apply Keeps.ite <;> intro _
    | with_reducible apply State.wr_keeps
    | split
    | refine Keeps.updSec hL ?_
    | refine Keeps.upd hL ?_

theorem State.putSigned_keeps {L : Nat} {u : State} (s : State) (a : Nat) (body : Nat) (d : Nat) (hL : 4194305 ||| L = L) (hu : Keeps L u s) :
    Keeps L u (State.putSigned s a body d) := by
  unfold State.putSigned
  try dsimp only
  repeat' first
    | with_reducible assumption
    | exact lor_sub hL rfl
    | with_reducible apply State.putBytes_keeps
    | refine Keeps.updSec hL ?_
    | refine Keeps.upd hL ?_

theorem execBurgeeDone_keeps {L : Nat} {u : State} (s : State) (hL : 4194305 ||| L = L) (hu : Keeps L u s) :
    KeepsO L u (execBurgeeDone s) := by
  unfold execBurgeeDone
  try dsimp only
  repeat' first
    | with_reducible assumption
    | exact lor_sub hL rfl
    | with_reducible apply KeepsO.of_next
    | with_reducible apply KeepsO.ite <;> intro _
    | with_reducible apply Keeps.ite <;> intro _
    | with_reducible apply State.putSigned_keeps
    | with_reducible apply State.wr_keeps
    | split
    | refine Keeps.updSec hL ?_
    | refine Keeps.upd hL ?_

theorem execQuoteDone_keeps {L : Nat} {u : State} (s : State) (hL : 4194305 ||| L = L) (hu : Keeps L u s) :
    KeepsO L u (execQuoteDone s) := by
  unfold execQuoteDone
  try dsimp only
  repeat' first
    | with_reducible assumption
    | exact lor_sub hL rfl
    | with_reducible apply KeepsO.of_next
    | with_reducible apply State.putSigned_keeps
    | with_reducible apply State.wr_keeps
    | split
    | refine Keeps.updSec hL ?_
    | refine Keeps.upd hL ?_

theorem State.startFirmware_keeps {L : Nat} {u : State} (s : State) (image : Nat) (data : List Nat) (hL : 6291457 ||| L = L) (hu : Keeps L u s) :
    Keeps L u (State.startFirmware s image data) := by
  unfold State.startFirmware
  try dsimp only
  repeat' first
    | with_reducible assumption
    | exact lor_sub hL rfl
    | with_reducible apply State.wr_keeps
    | with_reducible apply State.setReg_keeps
    | refine Keeps.updSec hL ?_
    | refine Keeps.upd hL ?_

theorem execImageVerifyDone_keeps {L : Nat} {u : State} (image : Nat) (data : List Nat) (s : State) (hL : 14680089 ||| L = L) (hu : Keeps L u s) :
    KeepsO L u (execImageVerifyDone image data s) := by
  unfold execImageVerifyDone
  try dsimp only
  repeat' first
    | with_reducible assumption
    | exact lor_sub hL rfl
    | with_reducible apply KeepsO.of_next
    | with_reducible apply KeepsO.ite <;> intro _
    | with_reducible apply Keeps.ite <;> intro _
    | with_reducible apply State.wr_keeps
    | with_reducible apply State.startFirmware_keeps
    | with_reducible apply State.secErr_keeps
    | split
    | refine Keeps.updSec hL ?_
    | refine Keeps.upd hL ?_

theorem execTamperEvent_keeps {L : Nat} {u : State} (source : Nat) (rail : Nat) (s : State) (hL : 12582939 ||| L = L) (hu : Keeps L u s) :
    KeepsO L u (execTamperEvent source rail s) := by
  unfold execTamperEvent
  try dsimp only
  repeat' first
    | with_reducible assumption
    | exact lor_sub hL rfl
    | with_reducible apply KeepsO.of_next
    | with_reducible apply State.tamper_keeps

end Sys2Proof.Machine
end

