-- ==== Sys2Proof/Laws/KeepReset.lean ====
section
/-! SUPPORT. Every operation of Machine/Reset.lean keeps what `Keeps` says. -/

set_option Elab.async false

namespace Sys2Proof.Machine

theorem State.hifReset_keeps {L : Nat} {u : State} (s : State) (linkUp : Bool) (hL : 7 ||| L = L) (hu : Keeps L u s) : Keeps L u (s.hifReset linkUp) := by
  unfold State.hifReset
  dsimp only
  have h1 : ∀ (p : Nat × BitVec 32 → Bool) (x : Hif) (y : Jrnl),
      Keeps L u ({ s with regs := s.regs.filter p, hif := x, jrnl := y } : State) := fun p x y =>
    hu.trans ⟨rfl, fun h => ⟨filter_wf _ p _ 0 h.1, h.2⟩, id, Differ.mono hL (by exact .mk fun p hp => by cases p <;> first | exact absurd hp (by decide) | exact rfl)⟩
  refine Keeps.ite (fun _ => ?_) (fun _ => ?_)
  · exact State.wr_keeps _ _ _ (lor_sub hL rfl) (State.wr_keeps _ _ _ (lor_sub hL rfl) (State.wr_keeps _ _ _ (lor_sub hL rfl) (State.wr_keeps _ _ _ (lor_sub hL rfl) (h1 _ _ _))))
  · exact State.wr_keeps _ _ _ (lor_sub hL rfl) (h1 _ _ _)

theorem State.keptBack_keeps {L : Nat} {u : State} (s : State) (st : Nat) (l : List Kept) (hL : 9044507 ||| L = L) (hu : Keeps L u s) :
    Keeps L u (State.keptBack s st l) := by
  unfold State.keptBack
  try dsimp only
  repeat' first
    | with_reducible assumption
    | exact lor_sub hL rfl
    | with_reducible apply Keeps.ite <;> intro _
    | with_reducible apply State.freeAll_keeps
    | with_reducible apply Keeps.foldl
    | with_reducible apply Keeps.foldl_fst
    | intro _ _ _
    | split
    | refine Keeps.upd hL ?_

theorem State.fromCkpt_keeps {L : Nat} {u : State} (s : State) (st : Nat) (keep : List Frame) (next : Nat) (hL : 9044571 ||| L = L) (hu : Keeps L u s) :
    Keeps L u (State.fromCkpt s st keep next) := by
  unfold State.fromCkpt
  try dsimp only
  repeat' first
    | with_reducible assumption
    | exact lor_sub hL rfl
    | with_reducible apply Keeps.ite <;> intro _
    | with_reducible apply State.freeOld_keeps
    | with_reducible apply State.resumeDec_keeps
    | with_reducible apply State.keptBack_keeps
    | with_reducible apply State.setStream_keeps
    | with_reducible apply State.wr_keeps
    | with_reducible apply State.setReg_keeps
    | with_reducible apply State.dropKept_keeps
    | with_reducible apply State.freeAll_keeps
    | split

theorem State.streamBack_keeps {L : Nat} {u : State} (whole : Bool) (s : State) (st : Nat) (hL : 44016347 ||| L = L) (hu : Keeps L u s) :
    Keeps L u (State.streamBack whole s st) := by
  unfold State.streamBack
  try dsimp only
  repeat' first
    | with_reducible assumption
    | exact lor_sub hL rfl
    | with_reducible apply Keeps.ite <;> intro _
    | with_reducible apply State.freeFrame_keeps
    | with_reducible apply State.loseLive_keeps
    | with_reducible apply State.fromCkpt_keeps
    | with_reducible apply State.setStream_keeps
    | with_reducible apply State.wr_keeps
    | with_reducible apply Keeps.foldl
    | with_reducible apply Keeps.foldl_fst
    | intro _ _ _
    | split

theorem State.sgsReset_keeps {L : Nat} {u : State} (s : State) (hL : 1025 ||| L = L) (hu : Keeps L u s) :
    Keeps L u (State.sgsReset s) := by
  unfold State.sgsReset
  try dsimp only
  repeat' first
    | with_reducible assumption
    | exact lor_sub hL rfl
    | with_reducible apply Keeps.ite <;> intro _
    | with_reducible apply State.sgsStrmNote_keeps
    | with_reducible apply State.setSgs_keeps
    | with_reducible apply State.sgsLehrEnd_keeps
    | with_reducible apply State.stationNote_keeps
    | with_reducible apply State.stationsNote_keeps
    | with_reducible apply Keeps.foldl
    | with_reducible apply Keeps.foldl_fst
    | intro _ _ _
    | split
    | refine Keeps.upd hL ?_

theorem State.shpReset_keeps {L : Nat} {u : State} (s : State) (hL : 9306651 ||| L = L) (hu : Keeps L u s) :
    Keeps L u (State.shpReset s) := by
  unfold State.shpReset
  try dsimp only
  repeat' first
    | with_reducible assumption
    | exact lor_sub hL rfl
    | with_reducible apply State.unpinIf_keeps
    | with_reducible apply State.freeBatch_keeps
    | with_reducible apply State.shpNote_keeps
    | with_reducible apply Keeps.foldl
    | with_reducible apply Keeps.foldl_fst
    | intro _ _ _
    | split
    | refine Keeps.upd hL ?_

theorem State.forgetJob_keeps {L : Nat} {u : State} (s : State) (j : Job) (hL : 9306139 ||| L = L) (hu : Keeps L u s) :
    Keeps L u (State.forgetJob s j) := by
  unfold State.forgetJob
  try dsimp only
  repeat' first
    | with_reducible assumption
    | exact lor_sub hL rfl
    | with_reducible apply State.freeAll_keeps
    | with_reducible apply State.unpin_keeps
    | with_reducible apply Keeps.foldl
    | with_reducible apply Keeps.foldl_fst
    | intro _ _ _

theorem State.progReset_keeps {L : Nat} {u : State} (s : State) (p : Nat) (hL : 2049 ||| L = L) (hu : Keeps L u s) :
    Keeps L u (State.progReset s p) := by
  unfold State.progReset
  try dsimp only
  repeat' first
    | with_reducible assumption
    | exact lor_sub hL rfl
    | with_reducible apply State.wr_keeps
    | with_reducible apply State.setProg_keeps
    | split

theorem State.coreReset_keeps {L : Nat} {u : State} (s : State) (c : Nat) (hL : 8486913 ||| L = L) (hu : Keeps L u s) :
    Keeps L u (State.coreReset s c) := by
  unfold State.coreReset
  try dsimp only
  repeat' first
    | with_reducible assumption
    | exact lor_sub hL rfl
    | with_reducible apply Keeps.ite <;> intro _
    | with_reducible apply State.setCore_keeps
    | with_reducible apply State.coreNote_keeps
    | with_reducible apply State.coreResumes_keeps
    | with_reducible apply State.stopEnd_keeps
    | split

theorem State.dropWork_keeps {L : Nat} {u : State} (s : State) (tiles : Bool) (hL : 9418783 ||| L = L) (hu : Keeps L u s) :
    Keeps L u (State.dropWork s tiles) := by
  unfold State.dropWork
  try dsimp only
  repeat' first
    | with_reducible assumption
    | exact lor_sub hL rfl
    | with_reducible apply Keeps.ite <;> intro _
    | with_reducible apply State.forgetJob_keeps
    | with_reducible apply State.freeAll_keeps
    | with_reducible apply State.wr_keeps
    | with_reducible apply State.progReset_keeps
    | with_reducible apply State.poolNote_keeps
    | with_reducible apply State.setPool_keeps
    | with_reducible apply State.setPchan_keeps
    | with_reducible apply State.schedNote_keeps
    | with_reducible apply State.coreReset_keeps
    | with_reducible apply Keeps.foldl
    | with_reducible apply Keeps.foldl_fst
    | intro _ _ _
    | split
    | refine Keeps.upd hL ?_

theorem State.decReset_keeps {L : Nat} {u : State} (s : State) (hL : 9044187 ||| L = L) (hu : Keeps L u s) :
    Keeps L u (State.decReset s) := by
  unfold State.decReset
  try dsimp only
  repeat' first
    | with_reducible assumption
    | exact lor_sub hL rfl
    | with_reducible apply State.freeAll_keeps
    | with_reducible apply State.enginesNote_keeps
    | with_reducible apply State.wr_keeps
    | with_reducible apply State.setEngineSt_keeps
    | with_reducible apply State.movesDone_keeps
    | with_reducible apply State.beginMoves_keeps
    | with_reducible apply Keeps.foldl
    | with_reducible apply Keeps.foldl_fst
    | intro _ _ _
    | split
    | refine Keeps.upd hL ?_

theorem State.ringsReset_keeps {L : Nat} {u : State} (s : State) (hL : 2 ||| L = L) (hu : Keeps L u s) :
    Keeps L u (State.ringsReset s) := by
  unfold State.ringsReset
  try dsimp only
  repeat' first
    | with_reducible assumption
    | exact lor_sub hL rfl
    | with_reducible apply State.setPring_keeps
    | with_reducible apply Keeps.foldl
    | with_reducible apply Keeps.foldl_fst
    | intro _ _ _
    | refine Keeps.upd hL ?_

theorem State.lnkReset_keeps {L : Nat} {u : State} (s : State) (trained : Bool) (hL : 10092571 ||| L = L) (hu : Keeps L u s) :
    Keeps L u (State.lnkReset s trained) := by
  unfold State.lnkReset
  try dsimp only
  repeat' first
    | with_reducible assumption
    | exact lor_sub hL rfl
    | with_reducible apply Keeps.ite <;> intro _
    | with_reducible apply State.setLport_keeps
    | with_reducible apply State.freeAll_keeps
    | with_reducible apply State.lnkNote_keeps
    | with_reducible apply State.wr_keeps
    | with_reducible apply State.setPortSt_keeps
    | with_reducible apply Keeps.foldl
    | with_reducible apply Keeps.foldl_fst
    | intro _ _ _
    | split
    | refine Keeps.upd hL ?_

theorem State.netReset_keeps {L : Nat} {u : State} (s : State) (hL : 256 ||| L = L) (hu : Keeps L u s) :
    Keeps L u (State.netReset s) := by
  unfold State.netReset
  try dsimp only
  repeat' first
    | with_reducible assumption
    | exact lor_sub hL rfl
    | with_reducible apply State.setFlow_keeps
    | with_reducible apply Keeps.foldl
    | with_reducible apply Keeps.foldl_fst
    | intro _ _ _

theorem State.frameJobs_keeps {L : Nat} {u : State} (s : State) (hL : 24576 ||| L = L) (hu : Keeps L u s) :
    Keeps L u (State.frameJobs s) := by
  unfold State.frameJobs
  try dsimp only
  repeat' first
    | with_reducible assumption
    | exact lor_sub hL rfl
    | with_reducible apply Keeps.ite <;> intro _
    | with_reducible apply State.addJob_keeps
    | with_reducible apply Keeps.foldl
    | with_reducible apply Keeps.foldl_fst
    | intro _ _ _
    | split

theorem State.discardWork_keeps {L : Nat} {u : State} (s : State) (fw : Bool) (links : Bool) (hL : 44040159 ||| L = L) (hu : Keeps L u s) :
    Keeps L u (State.discardWork s fw links) := by
  unfold State.discardWork
  try dsimp only
  repeat' first
    | with_reducible assumption
    | exact lor_sub hL rfl
    | with_reducible apply Keeps.ite <;> intro _
    | with_reducible apply State.streamBack_keeps
    | with_reducible apply State.sgsReset_keeps
    | with_reducible apply State.shpReset_keeps
    | with_reducible apply State.dropWork_keeps
    | with_reducible apply State.decReset_keeps
    | with_reducible apply State.ringsReset_keeps
    | with_reducible apply State.lnkReset_keeps
    | with_reducible apply State.netReset_keeps
    | with_reducible apply State.progsNote_keeps
    | with_reducible apply State.frameJobs_keeps
    | with_reducible apply Keeps.foldl
    | with_reducible apply Keeps.foldl_fst
    | intro _ _ _
    | refine Keeps.upd hL ?_
    | split

theorem State.toActive_keeps {L : Nat} {u : State} (s : State) (hL : 2097155 ||| L = L) (hu : Keeps L u s) :
    Keeps L u (State.toActive s) := by
  unfold State.toActive
  try dsimp only
  repeat' first
    | with_reducible assumption
    | exact lor_sub hL rfl
    | with_reducible apply State.wr_keeps
    | refine Keeps.upd hL ?_

theorem State.hotReset_keeps {L : Nat} {u : State} (s : State) (flr : Bool) (hL : 46137311 ||| L = L) (hu : Keeps L u s) :
    Keeps L u (State.hotReset s flr) := by
  unfold State.hotReset
  try dsimp only
  repeat' first
    | with_reducible assumption
    | exact lor_sub hL rfl
    | with_reducible apply State.hifReset_keeps
    | with_reducible apply State.discardWork_keeps
    | with_reducible apply State.toActive_keeps
    | with_reducible apply State.linkDown_keeps
    | with_reducible apply Keeps.foldl
    | with_reducible apply Keeps.foldl_fst
    | intro _ _ _
    | refine Keeps.upd hL ?_

theorem State.ringsBack_keeps {L : Nat} {u : State} (s : State) (hL : 2162691 ||| L = L) (hu : Keeps L u s) :
    Keeps L u (State.ringsBack s) := by
  unfold State.ringsBack
  try dsimp only
  repeat' first
    | with_reducible assumption
    | exact lor_sub hL rfl
    | with_reducible apply Keeps.ite <;> intro _
    | with_reducible apply State.ringResumes_keeps
    | with_reducible apply State.wr_keeps
    | with_reducible apply Keeps.foldl
    | with_reducible apply Keeps.foldl_fst
    | intro _ _ _
    | split
    | refine Keeps.upd hL ?_

theorem State.willRecover_keeps {L : Nat} {u : State} (s : State) (hL : 1 ||| L = L) (hu : Keeps L u s) :
    Keeps L u (State.willRecover s) := by
  unfold State.willRecover
  try dsimp only
  repeat' first
    | with_reducible assumption
    | exact lor_sub hL rfl
    | with_reducible apply Keeps.ite <;> intro _
    | with_reducible apply State.wr_keeps
    | split

theorem State.warmReset_keeps {L : Nat} {u : State} (s : State) (hL : 46137311 ||| L = L) (hu : Keeps L u s) :
    Keeps L u (State.warmReset s) := by
  unfold State.warmReset
  try dsimp only
  repeat' first
    | with_reducible assumption
    | exact lor_sub hL rfl
    | with_reducible apply State.toActive_keeps
    | with_reducible apply State.ringsBack_keeps
    | with_reducible apply State.willRecover_keeps
    | with_reducible apply State.discardWork_keeps

theorem State.fwReset_keeps {L : Nat} {u : State} (s : State) (hL : 46137311 ||| L = L) (hu : Keeps L u s) :
    Keeps L u (State.fwReset s) := by
  unfold State.fwReset
  try dsimp only
  repeat' first
    | with_reducible assumption
    | exact lor_sub hL rfl
    | with_reducible apply Keeps.ite <;> intro _
    | with_reducible apply State.wr_keeps
    | with_reducible apply State.willRecover_keeps
    | with_reducible apply State.discardWork_keeps
    | with_reducible apply State.saveAll_keeps
    | with_reducible apply State.ringsBack_keeps
    | with_reducible apply Keeps.foldl
    | with_reducible apply Keeps.foldl_fst
    | intro _ _ _
    | split
    | refine Keeps.upd hL ?_

theorem State.startReset_keeps {L : Nat} {u : State} (s : State) (k : ResetKind) (last : Nat) (hL : 46137311 ||| L = L) (hu : Keeps L u s) :
    Keeps L u (State.startReset s k last) := by
  unfold State.startReset
  try dsimp only
  repeat' first
    | with_reducible assumption
    | exact lor_sub hL rfl
    | with_reducible apply Keeps.ite <;> intro _
    | with_reducible apply State.wr_keeps
    | with_reducible apply State.hotReset_keeps
    | with_reducible apply State.warmReset_keeps
    | with_reducible apply State.fwReset_keeps
    | split
    | refine Keeps.upd hL ?_

theorem State.rankBack_keeps {L : Nat} {u : State} (s : State) (r : Nat × Nat) (hL : 9043995 ||| L = L) (hu : Keeps L u s) :
    Keeps L u (State.rankBack s r) := by
  unfold State.rankBack
  try dsimp only
  repeat' first
    | with_reducible assumption
    | exact lor_sub hL rfl
    | with_reducible apply Keeps.ite <;> intro _
    | with_reducible apply State.wr_keeps
    | with_reducible apply State.moveFree_keeps
    | with_reducible apply State.withdrawTop_keeps
    | split

theorem State.powerOn_keeps {L : Nat} {u : State} (s : State) (aon : Bool) (hL : 16777215 ||| L = L) (hu : Keeps L u s) : Keeps L u (s.powerOn aon) := by
  unfold State.powerOn
  refine State.lcNote_keeps _ (lor_sub hL rfl) (State.hbmNote_keeps _ (lor_sub hL rfl) (Keeps.foldl (Keeps.foldl ?_ (fun _ _ h => State.wr_keeps _ _ _ (lor_sub hL rfl) h))
    (fun _ _ h => State.rankBack_keeps _ _ (lor_sub hL rfl) h)))
  refine ⟨hu.pending, fun _ => ⟨rfl, rfl⟩, fun h => ?_, hu.parts.trans (Differ.mono hL (by exact .mk fun p hp => by cases p <;> first | exact absurd hp (by decide) | exact rfl))⟩
  have ht := hu.term h
  exact ⟨by simp only [ht.2]; exact ht.1, rfl⟩

theorem State.boot_keeps {L : Nat} {u : State} (s : State) (board : List Nat) (hL : 14680089 ||| L = L) (hu : Keeps L u s) :
    Keeps L u (State.boot s board) := by
  unfold State.boot
  try dsimp only
  repeat' first
    | with_reducible assumption
    | exact lor_sub hL rfl
    | with_reducible apply Keeps.ite <;> intro _
    | with_reducible apply State.cfgExtend_keeps
    | with_reducible apply State.planStart_keeps
    | with_reducible apply State.startDerive_keeps
    | split
    | refine Keeps.upd hL ?_

end Sys2Proof.Machine
end

