-- ==== Sys2Proof/Laws/KeepPwr.lean ====
section
/-! SUPPORT. Every operation of Machine/Pwr.lean keeps what `Keeps` says. -/

set_option Elab.async false

namespace Sys2Proof.Machine

theorem execPwrResetWarm_keeps {L : Nat} {u : State} (w : BitVec 32) (s : State) (hL : 46137311 ||| L = L) (hu : Keeps L u s) :
    KeepsO L u (execPwrResetWarm w s) := by
  unfold execPwrResetWarm
  try dsimp only
  repeat' first
    | with_reducible assumption
    | exact lor_sub hL rfl
    | with_reducible apply KeepsO.of_next
    | with_reducible apply KeepsO.ite <;> intro _
    | with_reducible apply Keeps.ite <;> intro _
    | with_reducible apply State.bar_keeps
    | refine (State.bar_keeps _ _ _ ?_ ?_ ?_).next _ (by with_reducible assumption)
    | with_reducible apply State.startReset_keeps
    | intro _ _
    | intro _
    | split

theorem execPwrResetFw_keeps {L : Nat} {u : State} (w : BitVec 32) (s : State) (hL : 46137311 ||| L = L) (hu : Keeps L u s) :
    KeepsO L u (execPwrResetFw w s) := by
  unfold execPwrResetFw
  try dsimp only
  repeat' first
    | with_reducible assumption
    | exact lor_sub hL rfl
    | with_reducible apply KeepsO.of_next
    | with_reducible apply KeepsO.ite <;> intro _
    | with_reducible apply Keeps.ite <;> intro _
    | with_reducible apply State.bar_keeps
    | refine (State.bar_keeps _ _ _ ?_ ?_ ?_).next _ (by with_reducible assumption)
    | with_reducible apply State.startReset_keeps
    | intro _ _
    | intro _
    | split

theorem State.clocksOff_keeps {L : Nat} {u : State} (s : State) (links : Bool) (hL : 1 ||| L = L) (hu : Keeps L u s) :
    Keeps L u (State.clocksOff s links) := by
  unfold State.clocksOff
  try dsimp only
  repeat' first
    | with_reducible assumption
    | exact lor_sub hL rfl
    | with_reducible apply Keeps.ite <;> intro _
    | with_reducible apply State.setReg_keeps
    | split

theorem State.unstow_keeps {L : Nat} {u : State} (s : State) (hL : 33619971 ||| L = L) (hu : Keeps L u s) :
    Keeps L u (State.unstow s) := by
  unfold State.unstow
  try dsimp only
  repeat' first
    | with_reducible assumption
    | exact lor_sub hL rfl
    | with_reducible apply State.post_keeps
    | with_reducible apply State.resumeAll_keeps
    | with_reducible apply State.wr_keeps
    | with_reducible apply Keeps.foldl
    | with_reducible apply Keeps.foldl_fst
    | intro _ _ _
    | refine Keeps.upd hL ?_

theorem State.stowEnd_keeps {L : Nat} {u : State} (s : State) (hL : 35717379 ||| L = L) (hu : Keeps L u s) :
    Keeps L u (State.stowEnd s) := by
  unfold State.stowEnd
  try dsimp only
  repeat' first
    | with_reducible assumption
    | exact lor_sub hL rfl
    | with_reducible apply Keeps.ite <;> intro _
    | with_reducible apply State.post_keeps
    | with_reducible apply State.clocksOff_keeps
    | with_reducible apply State.setFlow_keeps
    | with_reducible apply State.wr_keeps
    | with_reducible apply State.unstow_keeps
    | with_reducible apply Keeps.foldl
    | with_reducible apply Keeps.foldl_fst
    | intro _ _ _
    | split
    | refine Keeps.upd hL ?_

theorem execD3hotWrite_keeps {L : Nat} {u : State} (s : State) (hL : 44803355 ||| L = L) (hu : Keeps L u s) :
    KeepsO L u (execD3hotWrite s) := by
  unfold execD3hotWrite
  try dsimp only
  repeat' first
    | with_reducible assumption
    | exact lor_sub hL rfl
    | with_reducible apply KeepsO.of_next
    | with_reducible apply KeepsO.ite <;> intro _
    | with_reducible apply Keeps.ite <;> intro _
    | with_reducible apply State.wakeUp_keeps
    | with_reducible apply State.wr_keeps
    | with_reducible apply State.stowEnd_keeps
    | with_reducible apply State.saveAll_keeps
    | split
    | refine Keeps.upd hL ?_

theorem execD0Write_keeps {L : Nat} {u : State} (s : State) (hL : 33619971 ||| L = L) (hu : Keeps L u s) :
    KeepsO L u (execD0Write s) := by
  unfold execD0Write
  try dsimp only
  repeat' first
    | with_reducible assumption
    | exact lor_sub hL rfl
    | with_reducible apply KeepsO.of_next
    | with_reducible apply KeepsO.ite <;> intro _
    | with_reducible apply Keeps.ite <;> intro _
    | with_reducible apply State.wakeUp_keeps
    | with_reducible apply State.unstow_keeps
    | with_reducible apply State.wr_keeps
    | split

theorem execPwrGoodRise_keeps {L : Nat} {u : State} (testMode : Bool) (board : List Nat) (s : State) (hL : 16777215 ||| L = L) (hu : Keeps L u s) :
    KeepsO L u (execPwrGoodRise testMode board s) := by
  unfold execPwrGoodRise
  try dsimp only
  repeat' first
    | with_reducible assumption
    | exact lor_sub hL rfl
    | with_reducible apply KeepsO.of_next
    | with_reducible apply State.powerOn_keeps
    | with_reducible apply State.boot_keeps
    | refine Keeps.upd hL ?_

theorem execPwrGoodFall_keeps {L : Nat} {u : State} (s : State) (hL : 16777215 ||| L = L) (hu : Keeps L u s) :
    KeepsO L u (execPwrGoodFall s) := by
  unfold execPwrGoodFall
  try dsimp only
  repeat' first
    | with_reducible assumption
    | exact lor_sub hL rfl
    | with_reducible apply KeepsO.of_next
    | with_reducible apply State.powerOn_keeps
    | refine Keeps.upd hL ?_

theorem execRstPorNLow_keeps {L : Nat} {u : State} (s : State) (hL : 16777215 ||| L = L) (hu : Keeps L u s) :
    KeepsO L u (execRstPorNLow s) := by
  unfold execRstPorNLow
  try dsimp only
  repeat' first
    | with_reducible assumption
    | exact lor_sub hL rfl
    | with_reducible apply KeepsO.of_next
    | with_reducible apply State.powerOn_keeps
    | refine Keeps.upd hL ?_

theorem execVddAonLoss_keeps {L : Nat} {u : State} (s : State) (hL : 16777215 ||| L = L) (hu : Keeps L u s) :
    KeepsO L u (execVddAonLoss s) := by
  unfold execVddAonLoss
  try dsimp only
  repeat' first
    | with_reducible assumption
    | exact lor_sub hL rfl
    | with_reducible apply KeepsO.of_next
    | with_reducible apply State.powerOn_keeps
    | refine Keeps.upd hL ?_

theorem execRstWarmNFall_keeps {L : Nat} {u : State} (s : State) (hL : 46137311 ||| L = L) (hu : Keeps L u s) :
    KeepsO L u (execRstWarmNFall s) := by
  unfold execRstWarmNFall
  try dsimp only
  repeat' first
    | with_reducible assumption
    | exact lor_sub hL rfl
    | with_reducible apply KeepsO.of_next
    | with_reducible apply State.startReset_keeps
    | refine Keeps.upd hL ?_

theorem execRstWarmNRise_keeps {L : Nat} {u : State} (s : State) (hL : 2097152 ||| L = L) (hu : Keeps L u s) :
    KeepsO L u (execRstWarmNRise s) := by
  unfold execRstWarmNRise
  try dsimp only
  repeat' first
    | with_reducible assumption
    | with_reducible apply KeepsO.of_next
    | refine Keeps.upd hL ?_

theorem execPerstAssert_keeps {L : Nat} {u : State} (s : State) (hL : 46137311 ||| L = L) (hu : Keeps L u s) :
    KeepsO L u (execPerstAssert s) := by
  unfold execPerstAssert
  try dsimp only
  repeat' first
    | with_reducible assumption
    | exact lor_sub hL rfl
    | with_reducible apply KeepsO.of_next
    | with_reducible apply KeepsO.ite <;> intro _
    | with_reducible apply Keeps.ite <;> intro _
    | with_reducible apply State.startReset_keeps
    | with_reducible apply State.wr_keeps
    | split
    | refine Keeps.upd hL ?_

theorem execPerstDeassert_keeps {L : Nat} {u : State} (s : State) (hL : 2097152 ||| L = L) (hu : Keeps L u s) :
    KeepsO L u (execPerstDeassert s) := by
  unfold execPerstDeassert
  try dsimp only
  repeat' first
    | with_reducible assumption
    | with_reducible apply KeepsO.of_next
    | refine Keeps.upd hL ?_

theorem execPcieHotReset_keeps {L : Nat} {u : State} (s : State) (hL : 46137311 ||| L = L) (hu : Keeps L u s) :
    KeepsO L u (execPcieHotReset s) := by
  unfold execPcieHotReset
  try dsimp only
  repeat' first
    | with_reducible assumption
    | exact lor_sub hL rfl
    | with_reducible apply KeepsO.of_next
    | with_reducible apply State.startReset_keeps
    | with_reducible apply State.wr_keeps

theorem execFunctionLevelReset_keeps {L : Nat} {u : State} (s : State) (hL : 46137311 ||| L = L) (hu : Keeps L u s) :
    KeepsO L u (execFunctionLevelReset s) := by
  unfold execFunctionLevelReset
  try dsimp only
  repeat' first
    | with_reducible assumption
    | exact lor_sub hL rfl
    | with_reducible apply KeepsO.of_next
    | with_reducible apply State.startReset_keeps

theorem execFwWatchdogExpiry_keeps {L : Nat} {u : State} (s : State) (hL : 46137311 ||| L = L) (hu : Keeps L u s) :
    KeepsO L u (execFwWatchdogExpiry s) := by
  unfold execFwWatchdogExpiry
  try dsimp only
  repeat' first
    | with_reducible assumption
    | exact lor_sub hL rfl
    | with_reducible apply KeepsO.of_next
    | with_reducible apply State.startReset_keeps

theorem State.rearm_keeps {L : Nat} {u : State} (s : State) (hL : 2097153 ||| L = L) (hu : Keeps L u s) :
    Keeps L u (State.rearm s) := by
  unfold State.rearm
  try dsimp only
  repeat' first
    | with_reducible assumption
    | exact lor_sub hL rfl
    | with_reducible apply Keeps.ite <;> intro _
    | with_reducible apply State.wr_keeps
    | with_reducible apply Keeps.foldl
    | with_reducible apply Keeps.foldl_fst
    | intro _ _ _
    | split
    | refine Keeps.upd hL ?_

theorem State.linksTrain_keeps {L : Nat} {u : State} (s : State) (hL : 257 ||| L = L) (hu : Keeps L u s) :
    Keeps L u (State.linksTrain s) := by
  unfold State.linksTrain
  try dsimp only
  repeat' first
    | with_reducible assumption
    | exact lor_sub hL rfl
    | with_reducible apply Keeps.ite <;> intro _
    | with_reducible apply State.setPortSt_keeps
    | with_reducible apply State.setEthPort_keeps
    | with_reducible apply Keeps.foldl
    | with_reducible apply Keeps.foldl_fst
    | intro _ _ _
    | split

theorem execResetIntervalEnd_keeps {L : Nat} {u : State} (host : Option (List (BitVec 1024) × List (BitVec 128))) (s : State) (hL : 44040543 ||| L = L) (hu : Keeps L u s) :
    KeepsO L u (execResetIntervalEnd host s) := by
  unfold execResetIntervalEnd
  try dsimp only
  repeat' first
    | with_reducible assumption
    | exact lor_sub hL rfl
    | with_reducible apply KeepsO.of_next
    | with_reducible apply KeepsO.ite <;> intro _
    | with_reducible apply Keeps.ite <;> intro _
    | with_reducible apply State.recover_keeps
    | with_reducible apply State.rearm_keeps
    | with_reducible apply State.linksTrain_keeps
    | split
    | refine Keeps.upd hL ?_

theorem execReady_keeps {L : Nat} {u : State} (s : State) (hL : 2097153 ||| L = L) (hu : Keeps L u s) :
    KeepsO L u (execReady s) := by
  unfold execReady
  try dsimp only
  repeat' first
    | with_reducible assumption
    | exact lor_sub hL rfl
    | with_reducible apply KeepsO.of_next
    | with_reducible apply KeepsO.ite <;> intro _
    | with_reducible apply Keeps.ite <;> intro _
    | with_reducible apply State.wr_keeps
    | split
    | refine Keeps.upd hL ?_

theorem execSaveAllComplete_keeps {L : Nat} {u : State} (s : State) (hL : 35717379 ||| L = L) (hu : Keeps L u s) :
    KeepsO L u (execSaveAllComplete s) := by
  unfold execSaveAllComplete
  try dsimp only
  repeat' first
    | with_reducible assumption
    | exact lor_sub hL rfl
    | with_reducible apply KeepsO.of_next
    | with_reducible apply State.stowEnd_keeps
    | with_reducible apply State.saveAllDone_keeps

theorem execFurlIdleExpiry_keeps {L : Nat} {u : State} (s : State) (hL : 1 ||| L = L) (hu : Keeps L u s) :
    KeepsO L u (execFurlIdleExpiry s) := by
  unfold execFurlIdleExpiry
  try dsimp only
  repeat' first
    | with_reducible assumption
    | exact lor_sub hL rfl
    | with_reducible apply KeepsO.of_next
    | with_reducible apply KeepsO.ite <;> intro _
    | with_reducible apply Keeps.ite <;> intro _
    | with_reducible apply State.wr_keeps
    | split

theorem execFurlLehrEnd_keeps {L : Nat} {u : State} (s : State) (hL : 1 ||| L = L) (hu : Keeps L u s) :
    KeepsO L u (execFurlLehrEnd s) := by
  unfold execFurlLehrEnd
  try dsimp only
  repeat' first
    | with_reducible assumption
    | exact lor_sub hL rfl
    | with_reducible apply KeepsO.of_next
    | with_reducible apply KeepsO.ite <;> intro _
    | with_reducible apply Keeps.ite <;> intro _
    | with_reducible apply State.wr_keeps
    | with_reducible apply State.clocksOff_keeps
    | with_reducible apply State.unfurl_keeps
    | split

theorem execWakeEvent_keeps {L : Nat} {u : State} (s : State) (hL : 1 ||| L = L) (hu : Keeps L u s) :
    KeepsO L u (execWakeEvent s) := by
  unfold execWakeEvent
  try dsimp only
  repeat' first
    | with_reducible assumption
    | exact lor_sub hL rfl
    | with_reducible apply KeepsO.of_next
    | with_reducible apply State.wakeUp_keeps

theorem execClockGate_keeps {L : Nat} {u : State} (block : Nat) (s : State) (hL : 1 ||| L = L) (hu : Keeps L u s) :
    KeepsO L u (execClockGate block s) := by
  unfold execClockGate
  try dsimp only
  repeat' first
    | with_reducible assumption
    | exact lor_sub hL rfl
    | with_reducible apply KeepsO.of_next
    | with_reducible apply KeepsO.ite <;> intro _
    | with_reducible apply Keeps.ite <;> intro _
    | with_reducible apply State.wr_keeps
    | split

theorem execClockStart_keeps {L : Nat} {u : State} (block : Nat) (s : State) (hL : 1 ||| L = L) (hu : Keeps L u s) :
    KeepsO L u (execClockStart block s) := by
  unfold execClockStart
  try dsimp only
  repeat' first
    | with_reducible assumption
    | exact lor_sub hL rfl
    | with_reducible apply KeepsO.of_next
    | with_reducible apply KeepsO.ite <;> intro _
    | with_reducible apply Keeps.ite <;> intro _
    | with_reducible apply State.wr_keeps
    | split

theorem execRailReadback_keeps {L : Nat} {u : State} (rail : Nat) (reading : Option (Nat × Nat)) (s : State) (hL : 2097153 ||| L = L) (hu : Keeps L u s) :
    KeepsO L u (execRailReadback rail reading s) := by
  unfold execRailReadback
  try dsimp only
  repeat' first
    | with_reducible assumption
    | exact lor_sub hL rfl
    | with_reducible apply KeepsO.of_next
    | with_reducible apply KeepsO.ite <;> intro _
    | with_reducible apply Keeps.ite <;> intro _
    | with_reducible apply State.wr_keeps
    | split
    | refine Keeps.upd hL ?_

theorem execRailFault_keeps {L : Nat} {u : State} (rail : Nat) (s : State) (hL : 1 ||| L = L) (hu : Keeps L u s) :
    KeepsO L u (execRailFault rail s) := by
  unfold execRailFault
  try dsimp only
  repeat' first
    | with_reducible assumption
    | exact lor_sub hL rfl
    | with_reducible apply KeepsO.of_next
    | with_reducible apply KeepsO.ite <;> intro _
    | with_reducible apply Keeps.ite <;> intro _
    | with_reducible apply State.wr_keeps
    | split

theorem execThrottleStep_keeps {L : Nat} {u : State} (tj : Int) (s : State) (hL : 2097153 ||| L = L) (hu : Keeps L u s) :
    KeepsO L u (execThrottleStep tj s) := by
  unfold execThrottleStep
  try dsimp only
  repeat' first
    | with_reducible assumption
    | exact lor_sub hL rfl
    | with_reducible apply KeepsO.of_next
    | with_reducible apply KeepsO.ite <;> intro _
    | with_reducible apply Keeps.ite <;> intro _
    | with_reducible apply State.wr_keeps
    | split
    | refine Keeps.upd hL ?_

theorem execThermalTrip_keeps {L : Nat} {u : State} (s : State) (hL : 50331647 ||| L = L) (hu : Keeps L u s) :
    KeepsO L u (execThermalTrip s) := by
  unfold execThermalTrip
  try dsimp only
  repeat' first
    | with_reducible assumption
    | exact lor_sub hL rfl
    | with_reducible apply KeepsO.of_next
    | with_reducible apply State.powerOn_keeps
    | with_reducible apply State.post_keeps
    | with_reducible apply State.tamper_keeps
    | refine Keeps.upd hL ?_

theorem execRstPorNRise_keeps {L : Nat} {u : State} (board : List Nat) (s : State) (hL : 14680089 ||| L = L) (hu : Keeps L u s) :
    KeepsO L u (execRstPorNRise board s) := by
  unfold execRstPorNRise
  try dsimp only
  repeat' first
    | with_reducible assumption
    | exact lor_sub hL rfl
    | with_reducible apply KeepsO.of_next
    | with_reducible apply KeepsO.ite <;> intro _
    | with_reducible apply Keeps.ite <;> intro _
    | with_reducible apply State.boot_keeps
    | split
    | refine Keeps.upd hL ?_

theorem execResumeAllComplete_keeps {L : Nat} {u : State} (s : State) (hL : 11247643 ||| L = L) (hu : Keeps L u s) :
    KeepsO L u (execResumeAllComplete s) := by
  unfold execResumeAllComplete
  try dsimp only
  repeat' first
    | with_reducible assumption
    | exact lor_sub hL rfl
    | with_reducible apply KeepsO.of_next
    | with_reducible apply KeepsO.ite <;> intro _
    | with_reducible apply Keeps.ite <;> intro _
    | with_reducible apply State.resumeDone_keeps
    | with_reducible apply State.wr_keeps
    | with_reducible apply Keeps.foldl
    | with_reducible apply Keeps.foldl_fst
    | intro _ _ _
    | split
    | refine Keeps.upd hL ?_

end Sys2Proof.Machine
end

