-- ==== Sys2Proof/Laws/KeepSnap.lean ====
section
/-! SUPPORT. Every operation of Machine/Snap.lean keeps what `Keeps` says. -/

set_option Elab.async false

namespace Sys2Proof.Machine

theorem execSnapArm_keeps {L : Nat} {u : State} (s : State) (hL : 33554449 ||| L = L) (hu : Keeps L u s) :
    KeepsO L u (execSnapArm s) := by
  unfold execSnapArm
  try dsimp only
  repeat' first
    | with_reducible assumption
    | exact lor_sub hL rfl
    | with_reducible apply KeepsO.of_next
    | with_reducible apply State.bar_keeps
    | refine (State.bar_keeps _ _ _ ?_ ?_ ?_).next _ (by with_reducible assumption)
    | with_reducible apply State.setReg_keeps
    | with_reducible apply State.wr_keeps
    | intro _ _
    | intro _
    | refine Keeps.upd hL ?_

theorem execHoist_keeps {L : Nat} {u : State} (s : State) (hL : 41943057 ||| L = L) (hu : Keeps L u s) :
    KeepsO L u (execHoist s) := by
  unfold execHoist
  try dsimp only
  repeat' first
    | with_reducible assumption
    | exact lor_sub hL rfl
    | with_reducible apply KeepsO.of_next
    | with_reducible apply State.bar_keeps
    | refine (State.bar_keeps _ _ _ ?_ ?_ ?_).next _ (by with_reducible assumption)
    | with_reducible apply State.wakeUp_keeps
    | with_reducible apply State.hoist_keeps
    | intro _ _
    | intro _

theorem execSnapInEdge_keeps {L : Nat} {u : State} (rising : Bool) (ago : Nat) (s : State) (hL : 8388625 ||| L = L) (hu : Keeps L u s) :
    KeepsO L u (execSnapInEdge rising ago s) := by
  unfold execSnapInEdge
  try dsimp only
  repeat' first
    | with_reducible assumption
    | exact lor_sub hL rfl
    | with_reducible apply KeepsO.of_next
    | with_reducible apply KeepsO.ite <;> intro _
    | with_reducible apply Keeps.ite <;> intro _
    | with_reducible apply State.wakeUp_keeps
    | with_reducible apply State.hoist_keeps
    | split
    | refine Keeps.upd hL ?_

theorem execSnapTimeMatch_keeps {L : Nat} {u : State} (s : State) (hL : 8388625 ||| L = L) (hu : Keeps L u s) :
    KeepsO L u (execSnapTimeMatch s) := by
  unfold execSnapTimeMatch
  try dsimp only
  repeat' first
    | with_reducible assumption
    | exact lor_sub hL rfl
    | with_reducible apply KeepsO.of_next
    | with_reducible apply KeepsO.ite <;> intro _
    | with_reducible apply Keeps.ite <;> intro _
    | with_reducible apply State.wakeUp_keeps
    | with_reducible apply State.hoist_keeps
    | with_reducible apply State.wr_keeps
    | split

end Sys2Proof.Machine
end

