-- ==== Sys2Proof/Laws/KeepBar.lean ====
section
/-! SUPPORT. Every operation of Machine/Bar.lean keeps what `Keeps` says. -/

set_option Elab.async false

namespace Sys2Proof.Machine

theorem State.busRead_keeps {L : Nat} {u : State} (s : State) (a : Nat) (hL : 33554435 ||| L = L) (hu : Keeps L u s) :
    Keeps L u (State.busRead s a) := by
  unfold State.busRead
  try dsimp only
  repeat' first
    | with_reducible assumption
    | exact lor_sub hL rfl
    | with_reducible apply Keeps.ite <;> intro _
    | with_reducible apply State.post_keeps
    | with_reducible apply State.latch_keeps
    | with_reducible apply State.touch_keeps
    | with_reducible apply Keeps.foldl
    | with_reducible apply Keeps.foldl_fst
    | intro _ _ _
    | split

theorem execLoRegisterRead_keeps {L : Nat} {u : State} (addr : Nat) (s : State) (hL : 33554435 ||| L = L) (hu : Keeps L u s) :
    KeepsO L u (execLoRegisterRead addr s) := by
  unfold execLoRegisterRead
  try dsimp only
  repeat' first
    | with_reducible assumption
    | exact lor_sub hL rfl
    | with_reducible apply KeepsO.of_next
    | with_reducible apply KeepsO.ite <;> intro _
    | with_reducible apply Keeps.ite <;> intro _
    | with_reducible apply State.post_keeps
    | with_reducible apply State.busRead_keeps
    | split

theorem execTimeClkSecLoRead_keeps {L : Nat} {u : State} (s : State) (hL : 33554435 ||| L = L) (hu : Keeps L u s) :
    KeepsO L u (execTimeClkSecLoRead s) := by
  unfold execTimeClkSecLoRead
  try dsimp only
  repeat' first
    | with_reducible assumption
    | exact lor_sub hL rfl
    | with_reducible apply KeepsO.of_next
    | with_reducible apply State.busRead_keeps

theorem execTimeTpiSecLoRead_keeps {L : Nat} {u : State} (input : Nat) (s : State) (hL : 33554435 ||| L = L) (hu : Keeps L u s) :
    KeepsO L u (execTimeTpiSecLoRead input s) := by
  unfold execTimeTpiSecLoRead
  try dsimp only
  repeat' first
    | with_reducible assumption
    | exact lor_sub hL rfl
    | with_reducible apply KeepsO.of_next
    | with_reducible apply State.busRead_keeps

theorem State.plainWrite_keeps {L : Nat} {u : State} (s : State) (a : Nat) (w : BitVec 32) (hL : 1 ||| L = L) (hu : Keeps L u s) :
    Keeps L u (State.plainWrite s a w) := by
  unfold State.plainWrite
  try dsimp only
  repeat' first
    | with_reducible assumption
    | exact lor_sub hL rfl
    | with_reducible apply State.setReg_keeps
    | split

theorem State.after_keeps {L : Nat} {u : State} (s : State) (k : State → Host.Outcome State Fault Refusal) (hL : 0 ||| L = L) (hu : Keeps L u s)
    (hk : ∀ t, Keeps L u t → KeepsO L u (k t)) : Keeps L u (s.after k) := by
  unfold State.after
  split
  · exact (hk s hu).next _ (by assumption)
  · exact hu

theorem State.ifBit_keeps {L : Nat} {u : State} (s : State) (w : BitVec 32) (b : Nat) (k : State → Host.Outcome State Fault Refusal) (hL : 0 ||| L = L) (hu : Keeps L u s) (hk : ∀ t, Keeps L u t → KeepsO L u (k t)) :
    Keeps L u (State.ifBit s w b k) := by
  unfold State.ifBit
  try dsimp only
  repeat' first
    | with_reducible assumption
    | with_reducible apply hk
    | exact lor_sub hL rfl
    | with_reducible apply Keeps.ite <;> intro _
    | with_reducible apply State.after_keeps
    | intro _ _
    | intro _
    | split

theorem State.byBit_keeps {L : Nat} {u : State} (s : State) (w : BitVec 32) (b : Nat) (k1 : State → Host.Outcome State Fault Refusal) (k0 : State → Host.Outcome State Fault Refusal) (hL : 0 ||| L = L) (hu : Keeps L u s) (hk1 : ∀ t, Keeps L u t → KeepsO L u (k1 t)) (hk0 : ∀ t, Keeps L u t → KeepsO L u (k0 t)) :
    Keeps L u (State.byBit s w b k1 k0) := by
  unfold State.byBit
  try dsimp only
  repeat' first
    | with_reducible assumption
    | with_reducible apply hk0
    | with_reducible apply hk1
    | exact lor_sub hL rfl
    | with_reducible apply Keeps.ite <;> intro _
    | with_reducible apply State.after_keeps
    | intro _ _
    | intro _
    | split

theorem State.hifWrite_keeps {L : Nat} {u : State} (s : State) (a : Nat) (w : BitVec 32) (hL : 41943135 ||| L = L) (hu : Keeps L u s) :
    Keeps L u (State.hifWrite s a w) := by
  unfold State.hifWrite
  try dsimp only
  repeat' first
    | with_reducible assumption
    | exact lor_sub hL rfl
    | with_reducible apply Keeps.ite <;> intro _
    | with_reducible apply State.cfgWrite_keeps
    | with_reducible apply State.after_keeps
    | with_reducible apply execJrnlRecover_keeps
    | refine (execJrnlRecover_keeps _ _ _ ?_ ?_).next _ (by with_reducible assumption)
    | with_reducible apply State.byBit_keeps
    | with_reducible apply execJrnlEnable_keeps
    | refine (execJrnlEnable_keeps _ _ ?_ ?_).next _ (by with_reducible assumption)
    | with_reducible apply execJrnlDisable_keeps
    | refine (execJrnlDisable_keeps _ _ ?_ ?_).next _ (by with_reducible assumption)
    | with_reducible apply State.plainWrite_keeps
    | intro _ _
    | intro _
    | split

theorem State.cringWrite_keeps {L : Nat} {u : State} (s : State) (c : Nat) (off : Nat) (a : Nat) (w : BitVec 32) (hL : 41943067 ||| L = L) (hu : Keeps L u s) :
    Keeps L u (State.cringWrite s c off a w) := by
  unfold State.cringWrite
  try dsimp only
  repeat' first
    | with_reducible assumption
    | exact lor_sub hL rfl
    | with_reducible apply State.cfgWrite_keeps
    | with_reducible apply State.byBit_keeps
    | with_reducible apply execCringEnable_keeps
    | refine (execCringEnable_keeps _ _ _ ?_ ?_).next _ (by with_reducible assumption)
    | with_reducible apply execCringDisable_keeps
    | refine (execCringDisable_keeps _ _ _ ?_ ?_).next _ (by with_reducible assumption)
    | with_reducible apply State.after_keeps
    | with_reducible apply execHifCringSeq0Write_keeps
    | refine (execHifCringSeq0Write_keeps _ _ _ ?_ ?_).next _ (by with_reducible assumption)
    | with_reducible apply State.plainWrite_keeps
    | intro _ _
    | intro _
    | split

theorem State.pringWrite_keeps {L : Nat} {u : State} (s : State) (m : Nat) (off : Nat) (a : Nat) (w : BitVec 32) (hL : 41943067 ||| L = L) (hu : Keeps L u s) :
    Keeps L u (State.pringWrite s m off a w) := by
  unfold State.pringWrite
  try dsimp only
  repeat' first
    | with_reducible assumption
    | exact lor_sub hL rfl
    | with_reducible apply Keeps.ite <;> intro _
    | with_reducible apply State.cfgWrite_keeps
    | with_reducible apply State.byBit_keeps
    | with_reducible apply execPringEnable_keeps
    | refine (execPringEnable_keeps _ _ _ _ ?_ ?_).next _ (by with_reducible assumption)
    | with_reducible apply execPringDisable_keeps
    | refine (execPringDisable_keeps _ _ _ ?_ ?_).next _ (by with_reducible assumption)
    | with_reducible apply State.plainWrite_keeps
    | intro _ _
    | intro _
    | split

theorem State.msixWrite_keeps {L : Nat} {u : State} (s : State) (a : Nat) (w : BitVec 32) (hL : 33554433 ||| L = L) (hu : Keeps L u s) :
    Keeps L u (State.msixWrite s a w) := by
  unfold State.msixWrite
  try dsimp only
  repeat' first
    | with_reducible assumption
    | exact lor_sub hL rfl
    | with_reducible apply Keeps.ite <;> intro _
    | with_reducible apply State.plainWrite_keeps
    | with_reducible apply State.after_keeps
    | with_reducible apply execMsixVectorUnmask_keeps
    | refine (execMsixVectorUnmask_keeps _ _ ?_ ?_).next _ (by with_reducible assumption)
    | intro _ _
    | intro _
    | split

theorem State.netWrite_keeps {L : Nat} {u : State} (s : State) (a : Nat) (w : BitVec 32) (hL : 41943419 ||| L = L) (hu : Keeps L u s) :
    Keeps L u (State.netWrite s a w) := by
  unfold State.netWrite
  try dsimp only
  repeat' first
    | with_reducible assumption
    | exact lor_sub hL rfl
    | with_reducible apply Keeps.ite <;> intro _
    | with_reducible apply State.after_keeps
    | with_reducible apply execNetPortEnable_keeps
    | refine (execNetPortEnable_keeps _ _ _ ?_ ?_).next _ (by with_reducible assumption)
    | with_reducible apply State.byBit_keeps
    | with_reducible apply execFlowEnable_keeps
    | refine (execFlowEnable_keeps _ _ _ ?_ ?_).next _ (by with_reducible assumption)
    | with_reducible apply execFlowDisable_keeps
    | refine (execFlowDisable_keeps _ _ _ ?_ ?_).next _ (by with_reducible assumption)
    | with_reducible apply State.plainWrite_keeps
    | with_reducible apply State.netErr_keeps
    | intro _ _
    | intro _
    | split

theorem State.tpoWrite_keeps {L : Nat} {u : State} (s : State) (k : Nat) (a : Nat) (w : BitVec 32) (hL : 41943097 ||| L = L) (hu : Keeps L u s) :
    Keeps L u (State.tpoWrite s k a w) := by
  unfold State.tpoWrite
  try dsimp only
  repeat' first
    | with_reducible assumption
    | exact lor_sub hL rfl
    | with_reducible apply Keeps.ite <;> intro _
    | with_reducible apply State.after_keeps
    | with_reducible apply execTpOutArm_keeps
    | refine (execTpOutArm_keeps _ _ _ ?_ ?_).next _ (by with_reducible assumption)
    | with_reducible apply State.setTpoNext_keeps
    | with_reducible apply State.plainWrite_keeps
    | intro _ _
    | intro _
    | split

theorem State.timeWrite_keeps {L : Nat} {u : State} (s : State) (a : Nat) (w : BitVec 32) (hL : 41943099 ||| L = L) (hu : Keeps L u s) :
    Keeps L u (State.timeWrite s a w) := by
  unfold State.timeWrite
  try dsimp only
  repeat' first
    | with_reducible assumption
    | exact lor_sub hL rfl
    | with_reducible apply Keeps.ite <;> intro _
    | with_reducible apply State.timeCtrlWrite_keeps
    | with_reducible apply State.after_keeps
    | with_reducible apply execTimeRateWrite_keeps
    | refine (execTimeRateWrite_keeps _ _ ?_ ?_).next _ (by with_reducible assumption)
    | with_reducible apply State.timeErr_keeps
    | with_reducible apply State.plainWrite_keeps
    | with_reducible apply State.tpoWrite_keeps
    | intro _ _
    | intro _
    | split

theorem State.coreWrite_keeps {L : Nat} {u : State} (s : State) (c : Nat) (off : Nat) (a : Nat) (w : BitVec 32) (hL : 42704923 ||| L = L) (hu : Keeps L u s) :
    Keeps L u (State.coreWrite s c off a w) := by
  unfold State.coreWrite
  try dsimp only
  repeat' first
    | with_reducible assumption
    | exact lor_sub hL rfl
    | with_reducible apply State.wr_keeps
    | with_reducible apply State.byBit_keeps
    | with_reducible apply State.ifBit_keeps
    | with_reducible apply execCkInject_keeps
    | refine (execCkInject_keeps _ _ ?_ ?_).next _ (by with_reducible assumption)
    | with_reducible apply execCoreOffline_keeps
    | refine (execCoreOffline_keeps _ _ ?_ ?_).next _ (by with_reducible assumption)
    | with_reducible apply execCoreOnline_keeps
    | refine (execCoreOnline_keeps _ _ ?_ ?_).next _ (by with_reducible assumption)
    | with_reducible apply execMrvProbe_keeps
    | refine (execMrvProbe_keeps _ _ ?_ ?_).next _ (by with_reducible assumption)
    | with_reducible apply State.plainWrite_keeps
    | intro _ _
    | intro _
    | split

theorem State.schedWrite_keeps {L : Nat} {u : State} (s : State) (a : Nat) (w : BitVec 32) (hL : 42968091 ||| L = L) (hu : Keeps L u s) :
    Keeps L u (State.schedWrite s a w) := by
  unfold State.schedWrite
  try dsimp only
  repeat' first
    | with_reducible assumption
    | exact lor_sub hL rfl
    | with_reducible apply Keeps.ite <;> intro _
    | with_reducible apply State.ifBit_keeps
    | with_reducible apply execSaveAll_keeps
    | refine (execSaveAll_keeps _ ?_ ?_).next _ (by with_reducible assumption)
    | with_reducible apply execResumeAll_keeps
    | refine (execResumeAll_keeps _ ?_ ?_).next _ (by with_reducible assumption)
    | with_reducible apply State.plainWrite_keeps
    | with_reducible apply execSchedClsCommit_keeps
    | refine (execSchedClsCommit_keeps _ ?_ ?_).next _ (by with_reducible assumption)
    | with_reducible apply State.after_keeps
    | with_reducible apply execClassEnable_keeps
    | refine (execClassEnable_keeps _ _ _ ?_ ?_).next _ (by with_reducible assumption)
    | with_reducible apply execMaxwaitClear_keeps
    | refine (execMaxwaitClear_keeps _ _ ?_ ?_).next _ (by with_reducible assumption)
    | intro _ _
    | intro _
    | split

theorem State.poolWrite_keeps {L : Nat} {u : State} (s : State) (a : Nat) (w : BitVec 32) (hL : 42074139 ||| L = L) (hu : Keeps L u s) :
    Keeps L u (State.poolWrite s a w) := by
  unfold State.poolWrite
  try dsimp only
  repeat' first
    | with_reducible assumption
    | exact lor_sub hL rfl
    | with_reducible apply Keeps.ite <;> intro _
    | with_reducible apply State.byBit_keeps
    | with_reducible apply execPoolEnable_keeps
    | refine (execPoolEnable_keeps _ _ _ ?_ ?_).next _ (by with_reducible assumption)
    | with_reducible apply execPoolDisable_keeps
    | refine (execPoolDisable_keeps _ _ _ ?_ ?_).next _ (by with_reducible assumption)
    | with_reducible apply State.after_keeps
    | with_reducible apply execPoolThreshWrite_keeps
    | refine (execPoolThreshWrite_keeps _ _ _ ?_ ?_).next _ (by with_reducible assumption)
    | with_reducible apply State.poolErr_keeps
    | with_reducible apply State.plainWrite_keeps
    | with_reducible apply execPoolResWrite_keeps
    | refine (execPoolResWrite_keeps _ _ _ _ ?_ ?_).next _ (by with_reducible assumption)
    | intro _ _
    | intro _
    | split

theorem State.hbmWrite_keeps {L : Nat} {u : State} (s : State) (a : Nat) (w : BitVec 32) (hL : 34078721 ||| L = L) (hu : Keeps L u s) :
    Keeps L u (State.hbmWrite s a w) := by
  unfold State.hbmWrite
  try dsimp only
  repeat' first
    | with_reducible assumption
    | exact lor_sub hL rfl
    | with_reducible apply Keeps.ite <;> intro _
    | with_reducible apply State.plainWrite_keeps
    | with_reducible apply State.countMoves_keeps
    | with_reducible apply State.ifBit_keeps
    | with_reducible apply execRetire_keeps
    | refine (execRetire_keeps _ _ ?_ ?_).next _ (by with_reducible assumption)
    | with_reducible apply execHbmPortMaxlatClear_keeps
    | refine (execHbmPortMaxlatClear_keeps _ _ ?_ ?_).next _ (by with_reducible assumption)
    | intro _ _
    | intro _
    | split

theorem State.lnkWrite_keeps {L : Nat} {u : State} (s : State) (a : Nat) (w : BitVec 32) (hL : 44019423 ||| L = L) (hu : Keeps L u s) :
    Keeps L u (State.lnkWrite s a w) := by
  unfold State.lnkWrite
  try dsimp only
  repeat' first
    | with_reducible assumption
    | exact lor_sub hL rfl
    | with_reducible apply Keeps.ite <;> intro _
    | with_reducible apply State.after_keeps
    | with_reducible apply execLnkTopoWrite_keeps
    | refine (execLnkTopoWrite_keeps _ _ ?_ ?_).next _ (by with_reducible assumption)
    | with_reducible apply execLnkPortEnable_keeps
    | refine (execLnkPortEnable_keeps _ _ _ ?_ ?_).next _ (by with_reducible assumption)
    | with_reducible apply State.plainWrite_keeps
    | intro _ _
    | intro _
    | split

theorem State.pwrWrite_keeps {L : Nat} {u : State} (s : State) (a : Nat) (w : BitVec 32) (hL : 46137311 ||| L = L) (hu : Keeps L u s) :
    Keeps L u (State.pwrWrite s a w) := by
  unfold State.pwrWrite
  try dsimp only
  repeat' first
    | with_reducible assumption
    | exact lor_sub hL rfl
    | with_reducible apply Keeps.ite <;> intro _
    | with_reducible apply State.plainWrite_keeps
    | with_reducible apply State.after_keeps
    | with_reducible apply execPwrResetWarm_keeps
    | refine (execPwrResetWarm_keeps _ _ ?_ ?_).next _ (by with_reducible assumption)
    | with_reducible apply execPwrResetFw_keeps
    | refine (execPwrResetFw_keeps _ _ ?_ ?_).next _ (by with_reducible assumption)
    | intro _ _
    | intro _
    | split

theorem State.hlthWrite_keeps {L : Nat} {u : State} (s : State) (a : Nat) (w : BitVec 32) (hL : 33554441 ||| L = L) (hu : Keeps L u s) :
    Keeps L u (State.hlthWrite s a w) := by
  unfold State.hlthWrite
  try dsimp only
  repeat' first
    | with_reducible assumption
    | exact lor_sub hL rfl
    | with_reducible apply Keeps.ite <;> intro _
    | with_reducible apply State.ifBit_keeps
    | with_reducible apply execClearAll_keeps
    | refine (execClearAll_keeps _ ?_ ?_).next _ (by with_reducible assumption)
    | with_reducible apply execPlanNow_keeps
    | refine (execPlanNow_keeps _ ?_ ?_).next _ (by with_reducible assumption)
    | with_reducible apply State.after_keeps
    | with_reducible apply execHlthUnfence_keeps
    | refine (execHlthUnfence_keeps _ _ ?_ ?_).next _ (by with_reducible assumption)
    | with_reducible apply execRecordEntryClear_keeps
    | refine (execRecordEntryClear_keeps _ _ ?_ ?_).next _ (by with_reducible assumption)
    | with_reducible apply State.plainWrite_keeps
    | intro _ _
    | intro _
    | split

theorem State.snapWrite_keeps {L : Nat} {u : State} (s : State) (a : Nat) (w : BitVec 32) (hL : 41943065 ||| L = L) (hu : Keeps L u s) :
    Keeps L u (State.snapWrite s a w) := by
  unfold State.snapWrite
  try dsimp only
  repeat' first
    | with_reducible assumption
    | exact lor_sub hL rfl
    | with_reducible apply Keeps.ite <;> intro _
    | with_reducible apply State.setReg_keeps
    | with_reducible apply State.ifBit_keeps
    | with_reducible apply execSnapArm_keeps
    | refine (execSnapArm_keeps _ ?_ ?_).next _ (by with_reducible assumption)
    | with_reducible apply execHoist_keeps
    | refine (execHoist_keeps _ ?_ ?_).next _ (by with_reducible assumption)
    | with_reducible apply State.file_keeps
    | with_reducible apply State.setErr_keeps
    | with_reducible apply State.plainWrite_keeps
    | intro _ _
    | intro _
    | split

theorem State.lcWrite_keeps {L : Nat} {u : State} (s : State) (w : BitVec 32) (hL : 46137369 ||| L = L) (hu : Keeps L u s) :
    Keeps L u (State.lcWrite s w) := by
  unfold State.lcWrite
  try dsimp only
  repeat' first
    | with_reducible assumption
    | exact lor_sub hL rfl
    | with_reducible apply Keeps.ite <;> intro _
    | with_reducible apply State.after_keeps
    | with_reducible apply execChallenge_keeps
    | refine (execChallenge_keeps _ ?_ ?_).next _ (by with_reducible assumption)
    | with_reducible apply execProvision_keeps
    | refine (execProvision_keeps _ ?_ ?_).next _ (by with_reducible assumption)
    | with_reducible apply execEndorse_keeps
    | refine (execEndorse_keeps _ ?_ ?_).next _ (by with_reducible assumption)
    | with_reducible apply execProduction_keeps
    | refine (execProduction_keeps _ ?_ ?_).next _ (by with_reducible assumption)
    | with_reducible apply execReturnCmd_keeps
    | refine (execReturnCmd_keeps _ ?_ ?_).next _ (by with_reducible assumption)
    | with_reducible apply execTerminate_keeps
    | refine (execTerminate_keeps _ ?_ ?_).next _ (by with_reducible assumption)
    | with_reducible apply execRevoke_keeps
    | refine (execRevoke_keeps _ _ ?_ ?_).next _ (by with_reducible assumption)
    | with_reducible apply State.lcCommand_keeps
    | intro _ _
    | intro _
    | split
    | exact Bool.noConfusion (by assumption : false = true)

theorem State.secWrite_keeps {L : Nat} {u : State} (s : State) (a : Nat) (w : BitVec 32) (hL : 46137369 ||| L = L) (hu : Keeps L u s) :
    Keeps L u (State.secWrite s a w) := by
  unfold State.secWrite
  try dsimp only
  repeat' first
    | with_reducible assumption
    | exact lor_sub hL rfl
    | with_reducible apply Keeps.ite <;> intro _
    | with_reducible apply State.ifBit_keeps
    | with_reducible apply execQuoteGo_keeps
    | refine (execQuoteGo_keeps _ ?_ ?_).next _ (by with_reducible assumption)
    | with_reducible apply execBurgeeGo_keeps
    | refine (execBurgeeGo_keeps _ ?_ ?_).next _ (by with_reducible assumption)
    | with_reducible apply execSvnCommit_keeps
    | refine (execSvnCommit_keeps _ _ ?_ ?_).next _ (by with_reducible assumption)
    | with_reducible apply execRecovGo_keeps
    | refine (execRecovGo_keeps _ ?_ ?_).next _ (by with_reducible assumption)
    | with_reducible apply State.lcWrite_keeps
    | with_reducible apply State.after_keeps
    | with_reducible apply execSecTamperClr_keeps
    | refine (execSecTamperClr_keeps _ _ ?_ ?_).next _ (by with_reducible assumption)
    | with_reducible apply State.plainWrite_keeps
    | intro _ _
    | intro _
    | split

theorem State.regWrite_keeps {L : Nat} {u : State} (s : State) (a : Nat) (w : BitVec 32) (hL : 50331647 ||| L = L) (hu : Keeps L u s) :
    Keeps L u (State.regWrite s a w) := by
  unfold State.regWrite
  try dsimp only
  repeat' first
    | with_reducible assumption
    | exact lor_sub hL rfl
    | with_reducible apply Keeps.ite <;> intro _
    | with_reducible apply State.hifWrite_keeps
    | with_reducible apply State.cringWrite_keeps
    | with_reducible apply State.pringWrite_keeps
    | with_reducible apply State.msixWrite_keeps
    | with_reducible apply State.byBit_keeps
    | with_reducible apply execDecOffline_keeps
    | refine (execDecOffline_keeps _ _ ?_ ?_).next _ (by with_reducible assumption)
    | with_reducible apply execDecOnline_keeps
    | refine (execDecOnline_keeps _ _ ?_ ?_).next _ (by with_reducible assumption)
    | with_reducible apply State.plainWrite_keeps
    | with_reducible apply State.ifBit_keeps
    | with_reducible apply execTestStandin_keeps
    | refine (execTestStandin_keeps _ _ ?_ ?_).next _ (by with_reducible assumption)
    | with_reducible apply execFlush_keeps
    | refine (execFlush_keeps _ _ ?_ ?_).next _ (by with_reducible assumption)
    | with_reducible apply State.netWrite_keeps
    | with_reducible apply State.timeWrite_keeps
    | with_reducible apply State.schedWrite_keeps
    | with_reducible apply State.after_keeps
    | with_reducible apply execSgsOffline_keeps
    | refine (execSgsOffline_keeps _ _ _ ?_ ?_).next _ (by with_reducible assumption)
    | with_reducible apply State.poolWrite_keeps
    | with_reducible apply State.hbmWrite_keeps
    | with_reducible apply State.lnkWrite_keeps
    | with_reducible apply State.pwrWrite_keeps
    | with_reducible apply State.hlthWrite_keeps
    | with_reducible apply State.snapWrite_keeps
    | with_reducible apply State.secWrite_keeps
    | with_reducible apply State.coreWrite_keeps
    | intro _ _
    | intro _
    | split

theorem State.busWrite_keeps {L : Nat} {u : State} (s : State) (addr : Nat) (w : BitVec 32) (be : BitVec 4) (hL : 50331647 ||| L = L) (hu : Keeps L u s) :
    Keeps L u (State.busWrite s addr w be) := by
  unfold State.busWrite
  try dsimp only
  repeat' first
    | with_reducible assumption
    | exact lor_sub hL rfl
    | with_reducible apply KeepsO.of_next
    | with_reducible apply Keeps.ite <;> intro _
    | with_reducible apply State.after_keeps
    | with_reducible apply State.bar_keeps
    | refine (State.bar_keeps _ _ _ ?_ ?_ ?_).next _ (by with_reducible assumption)
    | with_reducible apply State.regWrite_keeps
    | with_reducible apply State.hifErr_keeps
    | intro _ _
    | intro _
    | split

theorem State.cfgSpaceWrite_keeps {L : Nat} {u : State} (s : State) (off : Nat) (w : BitVec 32) (be : BitVec 4) (hL : 44803355 ||| L = L) (hu : Keeps L u s) :
    Keeps L u (State.cfgSpaceWrite s off w be) := by
  unfold State.cfgSpaceWrite
  try dsimp only
  repeat' first
    | with_reducible assumption
    | exact lor_sub hL rfl
    | with_reducible apply Keeps.ite <;> intro _
    | with_reducible apply State.setCfg_keeps
    | with_reducible apply State.after_keeps
    | with_reducible apply execD3hotWrite_keeps
    | refine (execD3hotWrite_keeps _ ?_ ?_).next _ (by with_reducible assumption)
    | with_reducible apply execD0Write_keeps
    | refine (execD0Write_keeps _ ?_ ?_).next _ (by with_reducible assumption)
    | intro _ _
    | intro _
    | split

theorem execRegisterWrite_keeps {L : Nat} {u : State} (addr : Nat) (w : BitVec 32) (be : BitVec 4) (s : State) (hL : 50331647 ||| L = L) (hu : Keeps L u s) :
    KeepsO L u (execRegisterWrite addr w be s) := by
  unfold execRegisterWrite
  try dsimp only
  repeat' first
    | with_reducible assumption
    | exact lor_sub hL rfl
    | with_reducible apply KeepsO.of_next
    | with_reducible apply KeepsO.ite <;> intro _
    | with_reducible apply Keeps.ite <;> intro _
    | with_reducible apply State.cfgSpaceWrite_keeps
    | with_reducible apply State.busWrite_keeps
    | split

theorem execBarAccess_keeps {L : Nat} {u : State} (kind : BarKind) (addr : Nat) (len : Nat) (data : List (BitVec 32 × BitVec 4)) (s : State) (hL : 50331647 ||| L = L) (hu : Keeps L u s) :
    KeepsO L u (execBarAccess kind addr len data s) := by
  unfold execBarAccess
  try dsimp only
  repeat' first
    | with_reducible assumption
    | exact lor_sub hL rfl
    | with_reducible apply KeepsO.of_next
    | with_reducible apply KeepsO.ite <;> intro _
    | with_reducible apply Keeps.ite <;> intro _
    | with_reducible apply State.post_keeps
    | with_reducible apply State.aer_keeps
    | with_reducible apply State.hifErr_keeps
    | with_reducible apply State.busWrite_keeps
    | with_reducible apply State.busRead_keeps
    | with_reducible apply Keeps.foldl
    | with_reducible apply Keeps.foldl_fst
    | intro _ _ _
    | split

theorem execDebugPortAccess_keeps {L : Nat} {u : State} (addr : Nat) (write : Option (BitVec 32)) (s : State) (hL : 50331647 ||| L = L) (hu : Keeps L u s) :
    KeepsO L u (execDebugPortAccess addr write s) := by
  unfold execDebugPortAccess
  try dsimp only
  repeat' first
    | with_reducible assumption
    | exact lor_sub hL rfl
    | with_reducible apply KeepsO.of_next
    | with_reducible apply KeepsO.ite <;> intro _
    | with_reducible apply Keeps.ite <;> intro _
    | with_reducible apply State.regWrite_keeps
    | with_reducible apply State.touch_keeps
    | with_reducible apply State.post_keeps
    | split

end Sys2Proof.Machine
end

