-- ==== Sys2Proof/Laws/KeepStat.lean ====
section
/-! SUPPORT. Every operation of Machine/Stat.lean keeps what `Keeps` says. -/

set_option Elab.async false

namespace Sys2Proof.Machine

theorem State.closeStats_keeps {L : Nat} {u : State} (s : State) (st : Nat) (hL : 2 ||| L = L) (hu : Keeps L u s) :
    Keeps L u (State.closeStats s st) := by
  unfold State.closeStats
  try dsimp only
  repeat' first
    | with_reducible assumption
    | exact lor_sub hL rfl
    | with_reducible apply Keeps.ite <;> intro _
    | with_reducible apply State.sendTo_keeps
    | with_reducible apply Keeps.foldl
    | with_reducible apply Keeps.foldl_fst
    | intro _ _ _
    | split

theorem execStatReq_keeps {L : Nat} {u : State} (jidx : Nat) (s : State) (hL : 6 ||| L = L) (hu : Keeps L u s) :
    KeepsO L u (execStatReq jidx s) := by
  unfold execStatReq
  try dsimp only
  repeat' first
    | with_reducible assumption
    | exact lor_sub hL rfl
    | with_reducible apply KeepsO.of_next
    | with_reducible apply State.done_keeps
    | with_reducible apply State.sendTo_keeps
    | with_reducible apply Keeps.foldl
    | with_reducible apply Keeps.foldl_fst
    | intro _ _ _
    | split

end Sys2Proof.Machine
end

