-- ==== Sys2Proof/Laws/KeepBind.lean ====
section
/-! SUPPORT. Every operation of Machine/Bind.lean keeps what `Keeps` says. -/

set_option Elab.async false

namespace Sys2Proof.Machine

theorem State.failGlb_keeps {L : Nat} {u : State} (s : State) (c : Cmd) (code : Nat) (d0 : Nat) (d1 : Nat) (hL : 8388639 ||| L = L) (hu : Keeps L u s) :
    Keeps L u (State.failGlb s c code d0 d1) := by
  unfold State.failGlb
  try dsimp only
  repeat' first
    | with_reducible assumption
    | exact lor_sub hL rfl
    | with_reducible apply State.failCmd_keeps
    | with_reducible apply State.file_keeps

theorem State.rebind_keeps {L : Nat} {u : State} (s : State) (st : Nat) (mark : Nat) (b : Binding) (hL : 8256 ||| L = L) (hu : Keeps L u s) :
    Keeps L u (State.rebind s st mark b) := by
  unfold State.rebind
  try dsimp only
  repeat' first
    | with_reducible assumption
    | exact lor_sub hL rfl
    | with_reducible apply Keeps.ite <;> intro _
    | with_reducible apply State.setStream_keeps
    | split
    | refine Keeps.upd hL ?_

theorem State.bindStream_keeps {L : Nat} {u : State} (s : State) (c : Cmd) (st : Nat) (hL : 9053279 ||| L = L) (hu : Keeps L u s) :
    Keeps L u (State.bindStream s c st) := by
  unfold State.bindStream
  try dsimp only
  repeat' first
    | with_reducible assumption
    | exact lor_sub hL rfl
    | with_reducible apply Keeps.ite <;> intro _
    | with_reducible apply State.sgsBind_keeps
    | refine Keeps.of_fst (State.sgsBind_keeps _ _ _ _ _ ?_ ?_) (by with_reducible assumption)
    | with_reducible apply State.failCmd_keeps
    | with_reducible apply State.rebind_keeps
    | with_reducible apply State.setStream_keeps
    | with_reducible apply State.gapBefore_keeps
    | with_reducible apply State.done_keeps
    | with_reducible apply State.progsNote_keeps
    | split

theorem execStreamBind_keeps {L : Nat} {u : State} (jidx : Nat) (s : State) (hL : 9053279 ||| L = L) (hu : Keeps L u s) :
    KeepsO L u (execStreamBind jidx s) := by
  unfold execStreamBind
  try dsimp only
  repeat' first
    | with_reducible assumption
    | exact lor_sub hL rfl
    | with_reducible apply KeepsO.of_next
    | with_reducible apply KeepsO.ite <;> intro _
    | with_reducible apply Keeps.ite <;> intro _
    | with_reducible apply State.failDec_keeps
    | with_reducible apply State.done_keeps
    | with_reducible apply State.failGlb_keeps
    | with_reducible apply State.bindStream_keeps
    | split

theorem execStreamClose_keeps {L : Nat} {u : State} (jidx : Nat) (s : State) (hL : 583 ||| L = L) (hu : Keeps L u s) :
    KeepsO L u (execStreamClose jidx s) := by
  unfold execStreamClose
  try dsimp only
  repeat' first
    | with_reducible assumption
    | exact lor_sub hL rfl
    | with_reducible apply KeepsO.of_next
    | with_reducible apply KeepsO.ite <;> intro _
    | with_reducible apply Keeps.ite <;> intro _
    | with_reducible apply State.done_keeps
    | with_reducible apply State.setStream_keeps
    | with_reducible apply State.wr_keeps
    | with_reducible apply State.updCmd_keeps
    | with_reducible apply State.closeStream_keeps
    | split

theorem State.unbindFlow_keeps {L : Nat} {u : State} (s : State) (st : Nat) (hL : 1 ||| L = L) (hu : Keeps L u s) :
    Keeps L u (State.unbindFlow s st) := by
  unfold State.unbindFlow
  try dsimp only
  repeat' first
    | with_reducible assumption
    | exact lor_sub hL rfl
    | with_reducible apply Keeps.ite <;> intro _
    | with_reducible apply State.wr_keeps
    | split

theorem State.closeEnds_keeps {L : Nat} {u : State} (s : State) (st : Nat) (c : Cmd) (hL : 9045599 ||| L = L) (hu : Keeps L u s) :
    Keeps L u (State.closeEnds s st c) := by
  unfold State.closeEnds
  try dsimp only
  repeat' first
    | with_reducible assumption
    | exact lor_sub hL rfl
    | with_reducible apply State.sgsRelease_keeps
    | with_reducible apply State.dropKept_keeps
    | with_reducible apply State.freeRefs_keeps
    | with_reducible apply State.free1_keeps
    | with_reducible apply State.unbindFlow_keeps
    | with_reducible apply State.done_keeps
    | with_reducible apply State.closeStats_keeps
    | with_reducible apply State.progsNote_keeps
    | with_reducible apply State.setStream_keeps
    | with_reducible apply State.enginesNote_keeps
    | with_reducible apply State.setReg_keeps
    | with_reducible apply State.wr_keeps
    | split

theorem execStreamCloseDrainEnd_keeps {L : Nat} {u : State} (stream : Nat) (s : State) (hL : 9045855 ||| L = L) (hu : Keeps L u s) :
    KeepsO L u (execStreamCloseDrainEnd stream s) := by
  unfold execStreamCloseDrainEnd
  try dsimp only
  repeat' first
    | with_reducible assumption
    | exact lor_sub hL rfl
    | with_reducible apply KeepsO.of_next
    | with_reducible apply KeepsO.ite <;> intro _
    | with_reducible apply Keeps.ite <;> intro _
    | with_reducible apply State.closeEnds_keeps
    | with_reducible apply State.openStream_keeps
    | split

theorem execDecMoveDone_keeps {L : Nat} {u : State} (stream : Nat) (s : State) (hL : 8389209 ||| L = L) (hu : Keeps L u s) :
    KeepsO L u (execDecMoveDone stream s) := by
  unfold execDecMoveDone
  try dsimp only
  repeat' first
    | with_reducible assumption
    | exact lor_sub hL rfl
    | with_reducible apply KeepsO.of_next
    | with_reducible apply KeepsO.ite <;> intro _
    | with_reducible apply Keeps.ite <;> intro _
    | with_reducible apply State.setStream_keeps
    | with_reducible apply State.closeStream_keeps
    | with_reducible apply State.wr_keeps
    | with_reducible apply State.enginesNote_keeps
    | with_reducible apply State.decErr_keeps
    | with_reducible apply State.movesDone_keeps
    | split

theorem State.cmdJob_keeps {L : Nat} {u : State} (s : State) (c : Cmd) (hdr : Nat) (count : Nat) (block : List Nat) (adapt : Option Nat) (hL : 24580 ||| L = L) (hu : Keeps L u s) :
    Keeps L u (State.cmdJob s c hdr count block adapt) := by
  unfold State.cmdJob
  try dsimp only
  repeat' first
    | with_reducible assumption
    | exact lor_sub hL rfl
    | with_reducible apply Keeps.ite <;> intro _
    | with_reducible apply State.addJob_keeps
    | with_reducible apply State.updCmd_keeps
    | with_reducible apply State.updJob_keeps
    | split

theorem execJobRun_keeps {L : Nat} {u : State} (jidx : Nat) (block : List Nat) (s : State) (hL : 41967647 ||| L = L) (hu : Keeps L u s) :
    KeepsO L u (execJobRun jidx block s) := by
  unfold execJobRun
  try dsimp only
  repeat' first
    | with_reducible assumption
    | exact lor_sub hL rfl
    | with_reducible apply KeepsO.of_next
    | with_reducible apply KeepsO.ite <;> intro _
    | with_reducible apply Keeps.ite <;> intro _
    | with_reducible apply State.fetchedObj_keeps
    | refine Keeps.of_fst (State.fetchedObj_keeps _ _ ?_ ?_) (by with_reducible assumption)
    | with_reducible apply State.failGlb_keeps
    | with_reducible apply State.cmdJob_keeps
    | split

theorem execAdaptRun_keeps {L : Nat} {u : State} (jidx : Nat) (block : List Nat) (s : State) (hL : 41967647 ||| L = L) (hu : Keeps L u s) :
    KeepsO L u (execAdaptRun jidx block s) := by
  unfold execAdaptRun
  try dsimp only
  repeat' first
    | with_reducible assumption
    | exact lor_sub hL rfl
    | with_reducible apply KeepsO.of_next
    | with_reducible apply KeepsO.ite <;> intro _
    | with_reducible apply Keeps.ite <;> intro _
    | with_reducible apply State.fetchedObj_keeps
    | refine Keeps.of_fst (State.fetchedObj_keeps _ _ ?_ ?_) (by with_reducible assumption)
    | with_reducible apply State.failGlb_keeps
    | with_reducible apply State.cmdJob_keeps
    | split

end Sys2Proof.Machine
end

