-- ==== Sys2Proof/Laws/KeepHostErr.lean ====
section
/-! SUPPORT. Every operation of Machine/HostErr.lean keeps what `Keeps` says. -/

set_option Elab.async false

namespace Sys2Proof.Machine

theorem State.reask_keeps {L : Nat} {u : State} (s : State) (page : Nat) (hL : 33554434 ||| L = L) (hu : Keeps L u s) :
    Keeps L u (State.reask s page) := by
  unfold State.reask
  try dsimp only
  repeat' first
    | with_reducible assumption
    | exact lor_sub hL rfl
    | with_reducible apply Keeps.ite <;> intro _
    | with_reducible apply State.askXlate_keeps
    | split

theorem State.auFails_keeps {L : Nat} {u : State} (s : State) (c : Cmd) (code : Nat) (d0 : Nat) (d1 : Nat) (hL : 44015839 ||| L = L) (hu : Keeps L u s) :
    Keeps L u (State.auFails s c code d0 d1) := by
  unfold State.auFails
  try dsimp only
  repeat' first
    | with_reducible assumption
    | exact lor_sub hL rfl
    | with_reducible apply State.setStream_keeps
    | with_reducible apply State.settle_keeps
    | with_reducible apply State.auDone_keeps
    | with_reducible apply State.freeFrame_keeps
    | with_reducible apply State.dropJob_keeps
    | with_reducible apply State.frameError_keeps
    | split

theorem State.dataFails_keeps {L : Nat} {u : State} (s : State) (c : Cmd) (code : Nat) (d0 : Nat) (d1 : Nat) (hL : 44019423 ||| L = L) (hu : Keeps L u s) :
    Keeps L u (State.dataFails s c code d0 d1) := by
  unfold State.dataFails
  try dsimp only
  repeat' first
    | with_reducible assumption
    | exact lor_sub hL rfl
    | with_reducible apply Keeps.ite <;> intro _
    | with_reducible apply State.auFails_keeps
    | with_reducible apply State.faultJob_keeps
    | with_reducible apply State.loadFails_keeps
    | with_reducible apply State.failCmd_keeps
    | with_reducible apply State.setStream_keeps
    | split

theorem State.hostFails_keeps {L : Nat} {u : State} (s : State) (acc : HostAccess) (addr : Nat) (code : Nat) (hL : 44019423 ||| L = L) (hu : Keeps L u s) :
    Keeps L u (State.hostFails s acc addr code) := by
  unfold State.hostFails
  try dsimp only
  repeat' first
    | with_reducible assumption
    | exact lor_sub hL rfl
    | with_reducible apply Keeps.ite <;> intro _
    | with_reducible apply State.haltCring_keeps
    | with_reducible apply State.haltPring_keeps
    | with_reducible apply State.journalLost_keeps
    | with_reducible apply State.hifErr_keeps
    | with_reducible apply State.dataFails_keeps
    | split

theorem State.cacheXlate_keeps {L : Nat} {u : State} (s : State) (e : AtcEntry) (hL : 2 ||| L = L) (hu : Keeps L u s) :
    Keeps L u (State.cacheXlate s e) := by
  unfold State.cacheXlate
  try dsimp only
  repeat' first
    | with_reducible assumption
    | refine Keeps.upd hL ?_

theorem execAtsTranslationCompletion_keeps {L : Nat} {u : State} (acc : HostAccess) (addr : Nat) (granted : Option Nat) (write : Bool) (s : State) (hL : 44019423 ||| L = L) (hu : Keeps L u s) :
    KeepsO L u (execAtsTranslationCompletion acc addr granted write s) := by
  unfold execAtsTranslationCompletion
  try dsimp only
  repeat' first
    | with_reducible assumption
    | exact lor_sub hL rfl
    | with_reducible apply KeepsO.of_next
    | with_reducible apply KeepsO.ite <;> intro _
    | with_reducible apply Keeps.ite <;> intro _
    | with_reducible apply State.reask_keeps
    | with_reducible apply State.hostFails_keeps
    | with_reducible apply State.xlated_keeps
    | with_reducible apply State.cacheXlate_keeps
    | split
    | refine Keeps.upd hL ?_

theorem execHostReadFail_keeps {L : Nat} {u : State} (acc : HostAccess) (addr : Nat) (s : State) (hL : 44019423 ||| L = L) (hu : Keeps L u s) :
    KeepsO L u (execHostReadFail acc addr s) := by
  unfold execHostReadFail
  try dsimp only
  repeat' first
    | with_reducible assumption
    | exact lor_sub hL rfl
    | with_reducible apply KeepsO.of_next
    | with_reducible apply KeepsO.ite <;> intro _
    | with_reducible apply Keeps.ite <;> intro _
    | with_reducible apply State.hostFails_keeps
    | split

theorem execPoisonReread_keeps {L : Nat} {u : State} (acc : HostAccess) (addr : Nat) (clean : Bool) (s : State) (hL : 44019423 ||| L = L) (hu : Keeps L u s) :
    KeepsO L u (execPoisonReread acc addr clean s) := by
  unfold execPoisonReread
  try dsimp only
  repeat' first
    | with_reducible assumption
    | exact lor_sub hL rfl
    | with_reducible apply KeepsO.of_next
    | with_reducible apply KeepsO.ite <;> intro _
    | with_reducible apply Keeps.ite <;> intro _
    | with_reducible apply State.aer_keeps
    | with_reducible apply State.hostFails_keeps
    | split
    | refine Keeps.upd hL ?_

end Sys2Proof.Machine
end

