-- ==== Sys2Proof/Laws/KeepPnw.lean ====
section
/-! SUPPORT. Every operation of Machine/Pnw.lean keeps what `Keeps` says. -/

set_option Elab.async false

namespace Sys2Proof.Machine

theorem State.afterPn_keeps {L : Nat} {u : State} (s : State) (p : Pn) (hL : 9119835 ||| L = L) (hu : Keeps L u s) :
    Keeps L u (State.afterPn s p) := by
  unfold State.afterPn
  try dsimp only
  repeat' first
    | with_reducible assumption
    | exact lor_sub hL rfl
    | with_reducible apply Keeps.ite <;> intro _
    | with_reducible apply State.retirePlans_keeps
    | with_reducible apply State.applySwap_keeps
    | with_reducible apply State.settle_keeps
    | split

theorem State.takePn_keeps {L : Nat} {u : State} (s : State) (m : Nat) (p : Pn) (hL : 2 ||| L = L) (hu : Keeps L u s) :
    Keeps L u (State.takePn s m p) := by
  unfold State.takePn
  try dsimp only
  repeat' first
    | with_reducible assumption
    | exact lor_sub hL rfl
    | with_reducible apply Keeps.ite <;> intro _
    | with_reducible apply State.setPring_keeps
    | split
    | refine Keeps.upd hL ?_

theorem State.dropRec_keeps {L : Nat} {u : State} (s : State) (i : Nat) (hL : 4 ||| L = L) (hu : Keeps L u s) :
    Keeps L u (State.dropRec s i) := by
  unfold State.dropRec
  try dsimp only
  repeat' first
    | with_reducible assumption
    | refine Keeps.upd hL ?_

theorem State.logStalled_keeps {L : Nat} {u : State} (s : State) (m : Nat) (hL : 3 ||| L = L) (hu : Keeps L u s) :
    Keeps L u (State.logStalled s m) := by
  unfold State.logStalled
  try dsimp only
  repeat' first
    | with_reducible assumption
    | exact lor_sub hL rfl
    | with_reducible apply Keeps.ite <;> intro _
    | with_reducible apply State.bump_keeps
    | with_reducible apply State.setPring_keeps
    | split

theorem State.tryWrite_keeps {L : Nat} {u : State} (s : State) (m : Nat) (p : Pn) (rec : Option Nat) (replayed : Bool) (consumed : Nat) (hL : 42674271 ||| L = L) (hu : Keeps L u s) :
    Keeps L u (State.tryWrite s m p rec replayed consumed) := by
  unfold State.tryWrite
  try dsimp only
  repeat' first
    | with_reducible assumption
    | exact lor_sub hL rfl
    | with_reducible apply Keeps.ite <;> intro _
    | with_reducible apply State.dropRec_keeps
    | with_reducible apply State.logStalled_keeps
    | with_reducible apply State.askXlate_keeps
    | with_reducible apply State.afterPn_keeps
    | with_reducible apply State.writePn_keeps
    | with_reducible apply State.takePn_keeps
    | with_reducible apply State.setPring_keeps
    | refine State.room_keeps _ _ _ _ ?_ ?_ _ (.inl (by with_reducible assumption))
    | refine State.room_keeps _ _ _ _ ?_ ?_ _ (.inr (.inl (by with_reducible assumption)))
    | refine State.room_keeps _ _ _ _ ?_ ?_ _ (.inr (.inr (by with_reducible assumption)))
    | split

theorem execPennantWrite_keeps {L : Nat} {u : State} (ring : Nat) (consumed : Nat) (s : State) (hL : 42674271 ||| L = L) (hu : Keeps L u s) :
    KeepsO L u (execPennantWrite ring consumed s) := by
  unfold execPennantWrite
  try dsimp only
  repeat' first
    | with_reducible assumption
    | exact lor_sub hL rfl
    | with_reducible apply KeepsO.of_next
    | with_reducible apply KeepsO.ite <;> intro _
    | with_reducible apply Keeps.ite <;> intro _
    | with_reducible apply State.afterPn_keeps
    | with_reducible apply State.suppress_keeps
    | with_reducible apply State.takePn_keeps
    | with_reducible apply State.askXlate_keeps
    | with_reducible apply State.tryWrite_keeps
    | split

theorem execConsumerRecordReread_keeps {L : Nat} {u : State} (ring : Nat) (consumed : Nat) (s : State) (hL : 41943067 ||| L = L) (hu : Keeps L u s) :
    KeepsO L u (execConsumerRecordReread ring consumed s) := by
  unfold execConsumerRecordReread
  try dsimp only
  repeat' first
    | with_reducible assumption
    | exact lor_sub hL rfl
    | with_reducible apply KeepsO.of_next
    | with_reducible apply KeepsO.ite <;> intro _
    | with_reducible apply Keeps.ite <;> intro _
    | with_reducible apply State.askXlate_keeps
    | with_reducible apply State.post_keeps
    | with_reducible apply State.haltPring_keeps
    | with_reducible apply State.endStall_keeps
    | with_reducible apply State.setPring_keeps
    | split

end Sys2Proof.Machine
end

