-- ==== Sys2Proof/Laws/KeepRoute.lean ====
section
/-! SUPPORT. Every operation of Machine/Route.lean keeps what `Keeps` says. -/

set_option Elab.async false

namespace Sys2Proof.Machine

theorem State.drawSets_keeps {L : Nat} {u : State} (s : State) (j : Job) (a2 : List (Nat × Nat)) (hL : 9043995 ||| L = L) (hu : Keeps L u s) :
    Keeps L u (State.drawSets s j a2).1 := by
  induction a2 generalizing s with
  | nil =>
    unfold State.drawSets
    try dsimp only
    repeat' first
      | with_reducible assumption
      | exact lor_sub hL rfl
      | with_reducible apply State.draw_keeps
      | refine Keeps.of_fst (State.draw_keeps _ _ _ _ _ _ _ ?_ ?_) (by with_reducible assumption)
      | with_reducible apply State.freeAll_keeps
      | split
  | cons _ _ ih =>
    unfold State.drawSets
    try dsimp only
    repeat' first
      | with_reducible assumption
      | exact lor_sub hL rfl
      | with_reducible apply State.draw_keeps
      | refine Keeps.of_fst (State.draw_keeps _ _ _ _ _ _ _ ?_ ?_) (by with_reducible assumption)
      | with_reducible apply State.freeAll_keeps
      | with_reducible apply ih
      | refine Keeps.of_fst (ih _ ?_) (by with_reducible assumption)
      | split

theorem State.drawPlan_keeps {L : Nat} {u : State} (s : State) (j : Job) (l : List Nat) (hL : 9043995 ||| L = L) (h : Keeps L u s) :
    ∀ t x, s.drawPlan j l = some (t, x) → Keeps L u t := by
  induction l generalizing s with
  | nil =>
    intro t x e
    cases e
    exact h
  | cons i l ih =>
    intro t x e
    unfold State.drawPlan at e
    split at e
    · exact ih s h t x e
    · dsimp only at e
      split at e
      · rename_i s1 b hb
        have h1 : Keeps L u s1 := Keeps.of_fst (State.draw_keeps _ _ _ _ _ _ _ (lor_sub hL rfl) h) hb
        cases hq : s1.drawPlan j l with
        | none => rw [hq] at e; cases e
        | some q =>
          rw [hq] at e
          cases e
          exact ih s1 h1 _ _ hq
      · cases e

theorem State.grantPlan_keeps {L : Nat} {u : State} (s : State) (j : Job) (hL : 9052187 ||| L = L) (hu : Keeps L u s) :
    Keeps L u (State.grantPlan s j) := by
  unfold State.grantPlan
  try dsimp only
  repeat' first
    | with_reducible assumption
    | exact lor_sub hL rfl
    | with_reducible apply Keeps.ite <;> intro _
    | refine State.drawPlan_keeps _ _ _ ?_ ?_ _ _ (by with_reducible assumption)
    | with_reducible apply State.seatNodes_keeps
    | with_reducible apply State.updJob_keeps
    | split

theorem State.startJob_keeps {L : Nat} {u : State} (s : State) (j : Job) (hL : 44019423 ||| L = L) (hu : Keeps L u s) :
    Keeps L u (State.startJob s j) := by
  unfold State.startJob
  try dsimp only
  repeat' first
    | with_reducible assumption
    | exact lor_sub hL rfl
    | with_reducible apply Keeps.ite <;> intro _
    | with_reducible apply State.updJob_keeps
    | with_reducible apply State.drawSets_keeps
    | refine Keeps.of_fst (State.drawSets_keeps _ _ _ ?_ ?_) (by with_reducible assumption)
    | with_reducible apply State.grantPlan_keeps
    | with_reducible apply State.faultJob_keeps
    | split

theorem execJobStart_keeps {L : Nat} {u : State} (job : Nat) (s : State) (hL : 44019423 ||| L = L) (hu : Keeps L u s) :
    KeepsO L u (execJobStart job s) := by
  unfold execJobStart
  try dsimp only
  repeat' first
    | with_reducible assumption
    | exact lor_sub hL rfl
    | with_reducible apply KeepsO.of_next
    | with_reducible apply KeepsO.ite <;> intro _
    | with_reducible apply Keeps.ite <;> intro _
    | with_reducible apply State.startJob_keeps
    | with_reducible apply State.poisonJob_keeps
    | split

theorem execJobPlanGrant_keeps {L : Nat} {u : State} (job : Nat) (s : State) (hL : 9052187 ||| L = L) (hu : Keeps L u s) :
    KeepsO L u (execJobPlanGrant job s) := by
  unfold execJobPlanGrant
  try dsimp only
  repeat' first
    | with_reducible assumption
    | exact lor_sub hL rfl
    | with_reducible apply KeepsO.of_next
    | with_reducible apply KeepsO.ite <;> intro _
    | with_reducible apply Keeps.ite <;> intro _
    | with_reducible apply State.grantPlan_keeps
    | split

theorem State.operandRead_keeps {L : Nat} {u : State} (s : State) (j : Job) (w : Nat) (n : Nat) (hL : 33554438 ||| L = L) (hu : Keeps L u s) :
    Keeps L u (State.operandRead s j w n).1 := by
  unfold State.operandRead
  try dsimp only
  repeat' first
    | with_reducible assumption
    | exact lor_sub hL rfl
    | with_reducible apply Keeps.ite <;> intro _
    | with_reducible apply State.fetched_keeps
    | refine Keeps.of_fst (State.fetched_keeps _ _ _ _ ?_ ?_) (by with_reducible assumption)
    | split

theorem execGather_keeps {L : Nat} {u : State} (job : Nat) (node : Nat) (data : List Nat) (s : State) (hL : 44019423 ||| L = L) (hu : Keeps L u s) :
    KeepsO L u (execGather job node data s) := by
  unfold execGather
  try dsimp only
  repeat' first
    | with_reducible assumption
    | exact lor_sub hL rfl
    | with_reducible apply KeepsO.of_next
    | with_reducible apply KeepsO.ite <;> intro _
    | with_reducible apply Keeps.ite <;> intro _
    | with_reducible apply State.faultJob_keeps
    | with_reducible apply State.operandRead_keeps
    | refine Keeps.of_fst (State.operandRead_keeps _ _ _ _ ?_ ?_) (by with_reducible assumption)
    | with_reducible apply State.updNode_keeps
    | with_reducible apply State.wake_keeps
    | with_reducible apply State.commitNode_keeps
    | split

theorem execEmit_keeps {L : Nat} {u : State} (job : Nat) (node : Nat) (s : State) (hL : 43983583 ||| L = L) (hu : Keeps L u s) :
    KeepsO L u (execEmit job node s) := by
  unfold execEmit
  try dsimp only
  repeat' first
    | with_reducible assumption
    | exact lor_sub hL rfl
    | with_reducible apply KeepsO.of_next
    | with_reducible apply KeepsO.ite <;> intro _
    | with_reducible apply Keeps.ite <;> intro _
    | with_reducible apply State.sendTo_keeps
    | with_reducible apply State.commitNode_keeps
    | with_reducible apply Keeps.foldl
    | with_reducible apply Keeps.foldl_fst
    | intro _ _ _
    | split

theorem State.tblNote_keeps {L : Nat} {u : State} (s : State) (hL : 1 ||| L = L) (hu : Keeps L u s) :
    Keeps L u (State.tblNote s) := by
  unfold State.tblNote
  try dsimp only
  repeat' first
    | with_reducible assumption
    | exact lor_sub hL rfl
    | with_reducible apply Keeps.ite <;> intro _
    | with_reducible apply State.wr_keeps
    | with_reducible apply Keeps.foldl
    | with_reducible apply Keeps.foldl_fst
    | intro _ _ _
    | split

theorem execTblLoad_keeps {L : Nat} {u : State} (job : Nat) (node : Nat) (s : State) (hL : 12289 ||| L = L) (hu : Keeps L u s) :
    KeepsO L u (execTblLoad job node s) := by
  unfold execTblLoad
  try dsimp only
  repeat' first
    | with_reducible assumption
    | exact lor_sub hL rfl
    | with_reducible apply KeepsO.of_next
    | with_reducible apply State.updNode_keeps
    | with_reducible apply State.tblNote_keeps
    | split
    | refine Keeps.upd hL ?_

theorem execTblSwitch_keeps {L : Nat} {u : State} (s : State) (hL : 43987679 ||| L = L) (hu : Keeps L u s) :
    KeepsO L u (execTblSwitch s) := by
  unfold execTblSwitch
  try dsimp only
  repeat' first
    | with_reducible assumption
    | exact lor_sub hL rfl
    | with_reducible apply KeepsO.of_next
    | with_reducible apply KeepsO.ite <;> intro _
    | with_reducible apply Keeps.ite <;> intro _
    | with_reducible apply State.tblNote_keeps
    | with_reducible apply State.cnt_keeps
    | with_reducible apply State.commitNode_keeps
    | with_reducible apply Keeps.foldl
    | with_reducible apply Keeps.foldl_fst
    | intro _ _ _
    | split
    | refine Keeps.upd hL ?_

theorem execOptStep_keeps {L : Nat} {u : State} (job : Nat) (node : Nat) (s : State) (hL : 43985631 ||| L = L) (hu : Keeps L u s) :
    KeepsO L u (execOptStep job node s) := by
  unfold execOptStep
  try dsimp only
  repeat' first
    | with_reducible assumption
    | exact lor_sub hL rfl
    | with_reducible apply KeepsO.of_next
    | with_reducible apply KeepsO.ite <;> intro _
    | with_reducible apply Keeps.ite <;> intro _
    | with_reducible apply State.setProg_keeps
    | with_reducible apply State.updJob_keeps
    | with_reducible apply State.wake_keeps
    | with_reducible apply State.commitNode_keeps
    | split

end Sys2Proof.Machine
end

