-- ==== Sys2Proof/Laws/KeepXfr.lean ====
section
/-! SUPPORT. Every operation of Machine/Xfr.lean keeps what `Keeps` says. -/

set_option Elab.async false

namespace Sys2Proof.Machine

theorem State.sendDone_keeps {L : Nat} {u : State} (s : State) (id : Nat) (n : Nat) (src : Nat) (hL : 43983583 ||| L = L) (hu : Keeps L u s) :
    Keeps L u (State.sendDone s id n src) := by
  unfold State.sendDone
  try dsimp only
  repeat' first
    | with_reducible assumption
    | exact lor_sub hL rfl
    | with_reducible apply Keeps.ite <;> intro _
    | with_reducible apply State.commitNode_keeps
    | split

theorem State.handedOver_keeps {L : Nat} {u : State} (s : State) (id : Nat) (src : Nat) (hL : 8192 ||| L = L) (hu : Keeps L u s) :
    Keeps L u (State.handedOver s id src) := by
  unfold State.handedOver
  try dsimp only
  repeat' first
    | with_reducible assumption
    | exact lor_sub hL rfl
    | with_reducible apply State.updNode_keeps
    | split

theorem execXfrSend_keeps {L : Nat} {u : State} (job : Nat) (node : Nat) (s : State) (hL : 44019423 ||| L = L) (hu : Keeps L u s) :
    KeepsO L u (execXfrSend job node s) := by
  unfold execXfrSend
  try dsimp only
  repeat' first
    | with_reducible assumption
    | exact lor_sub hL rfl
    | with_reducible apply KeepsO.of_next
    | with_reducible apply KeepsO.ite <;> intro _
    | with_reducible apply Keeps.ite <;> intro _
    | with_reducible apply State.faultJob_keeps
    | with_reducible apply State.setErr_keeps
    | with_reducible apply State.sendTile_keeps
    | with_reducible apply State.updNode_keeps
    | with_reducible apply State.sendDone_keeps
    | with_reducible apply State.handedOver_keeps
    | with_reducible apply Keeps.foldl
    | with_reducible apply Keeps.foldl_fst
    | intro _ _ _
    | split

theorem State.recvDone_keeps {L : Nat} {u : State} (s : State) (id : Nat) (n : Nat) (hL : 43983583 ||| L = L) (hu : Keeps L u s) :
    Keeps L u (State.recvDone s id n) := by
  unfold State.recvDone
  try dsimp only
  repeat' first
    | with_reducible assumption
    | exact lor_sub hL rfl
    | with_reducible apply Keeps.ite <;> intro _
    | with_reducible apply State.wake_keeps
    | with_reducible apply State.commitNode_keeps
    | split

theorem State.giveTile_keeps {L : Nat} {u : State} (s : State) (id : Nat) (n : Nat) (h : HeldTile) (hL : 44019423 ||| L = L) (hu : Keeps L u s) :
    Keeps L u (State.giveTile s id n h) := by
  unfold State.giveTile
  try dsimp only
  repeat' first
    | with_reducible assumption
    | exact lor_sub hL rfl
    | with_reducible apply Keeps.ite <;> intro _
    | with_reducible apply State.faultJob_keeps
    | with_reducible apply State.releaseTile_keeps
    | with_reducible apply State.setErr_keeps
    | with_reducible apply State.recvDone_keeps
    | with_reducible apply State.updNode_keeps
    | split
    | refine Keeps.upd hL ?_

theorem execXfrRecv_keeps {L : Nat} {u : State} (job : Nat) (node : Nat) (s : State) (hL : 44019423 ||| L = L) (hu : Keeps L u s) :
    KeepsO L u (execXfrRecv job node s) := by
  unfold execXfrRecv
  try dsimp only
  repeat' first
    | with_reducible assumption
    | exact lor_sub hL rfl
    | with_reducible apply KeepsO.of_next
    | with_reducible apply KeepsO.ite <;> intro _
    | with_reducible apply Keeps.ite <;> intro _
    | with_reducible apply State.faultJob_keeps
    | with_reducible apply State.setErr_keeps
    | with_reducible apply State.updNode_keeps
    | with_reducible apply State.recvDone_keeps
    | with_reducible apply State.giveTile_keeps
    | with_reducible apply Keeps.foldl
    | with_reducible apply Keeps.foldl_fst
    | intro _ _ _
    | split

theorem State.sendChunk_keeps {L : Nat} {u : State} (s : State) (ring : List Nat) (k : CollChunk) (hL : 34603009 ||| L = L) (hu : Keeps L u s) :
    Keeps L u (State.sendChunk s ring k) := by
  unfold State.sendChunk
  try dsimp only
  repeat' first
    | with_reducible assumption
    | exact lor_sub hL rfl
    | with_reducible apply State.post_keeps
    | with_reducible apply State.sendFlits_keeps
    | split

theorem State.collDone_keeps {L : Nat} {u : State} (s : State) (c : Coll) (hL : 43983583 ||| L = L) (hu : Keeps L u s) :
    Keeps L u (State.collDone s c) := by
  unfold State.collDone
  try dsimp only
  repeat' first
    | with_reducible assumption
    | exact lor_sub hL rfl
    | with_reducible apply Keeps.ite <;> intro _
    | with_reducible apply State.wake_keeps
    | with_reducible apply State.commitNode_keeps
    | split
    | refine Keeps.upd hL ?_

theorem State.collStep_keeps {L : Nat} {u : State} (s : State) (c : Coll) (k : CollChunk) (hL : 43983583 ||| L = L) (hu : Keeps L u s) :
    Keeps L u (State.collStep s c k) := by
  unfold State.collStep
  try dsimp only
  repeat' first
    | with_reducible assumption
    | exact lor_sub hL rfl
    | with_reducible apply Keeps.ite <;> intro _
    | with_reducible apply State.collDone_keeps
    | with_reducible apply State.sendChunk_keeps
    | split
    | refine Keeps.upd hL ?_

theorem execXfrColl_keeps {L : Nat} {u : State} (job : Nat) (node : Nat) (s : State) (hL : 44019423 ||| L = L) (hu : Keeps L u s) :
    KeepsO L u (execXfrColl job node s) := by
  unfold execXfrColl
  try dsimp only
  repeat' first
    | with_reducible assumption
    | exact lor_sub hL rfl
    | with_reducible apply KeepsO.of_next
    | with_reducible apply KeepsO.ite <;> intro _
    | with_reducible apply Keeps.ite <;> intro _
    | with_reducible apply State.faultJob_keeps
    | with_reducible apply State.setErr_keeps
    | with_reducible apply State.updNode_keeps
    | with_reducible apply State.sendChunk_keeps
    | with_reducible apply State.collStep_keeps
    | with_reducible apply Keeps.foldl
    | with_reducible apply Keeps.foldl_fst
    | intro _ _ _
    | split
    | refine Keeps.upd hL ?_

theorem execRemoteResponse_keeps {L : Nat} {u : State} (core : Nat) (tag : Nat) (s : State) (hL : 98305 ||| L = L) (hu : Keeps L u s) :
    KeepsO L u (execRemoteResponse core tag s) := by
  unfold execRemoteResponse
  try dsimp only
  repeat' first
    | with_reducible assumption
    | exact lor_sub hL rfl
    | with_reducible apply KeepsO.of_next
    | with_reducible apply KeepsO.ite <;> intro _
    | with_reducible apply Keeps.ite <;> intro _
    | with_reducible apply State.setCore_keeps
    | with_reducible apply State.note_keeps
    | split
    | refine Keeps.upd hL ?_

theorem State.tileCredits_keeps {L : Nat} {u : State} (s : State) (port : Nat) (m : TileMsg) (hL : 33554432 ||| L = L) (hu : Keeps L u s) :
    Keeps L u (State.tileCredits s port m) := by
  unfold State.tileCredits
  try dsimp only
  repeat' first
    | with_reducible assumption
    | exact lor_sub hL rfl
    | with_reducible apply State.post_keeps

theorem State.giveBack_keeps {L : Nat} {u : State} (s : State) (port : Nat) (m : TileMsg) (hL : 34603009 ||| L = L) (hu : Keeps L u s) :
    Keeps L u (State.giveBack s port m) := by
  unfold State.giveBack
  try dsimp only
  repeat' first
    | with_reducible assumption
    | exact lor_sub hL rfl
    | with_reducible apply State.answerTile_keeps
    | with_reducible apply State.tileCredits_keeps

theorem State.takeTile_keeps {L : Nat} {u : State} (s : State) (h : HeldTile) (q : Nat × Nat × Nat × Nat) (hL : 44035807 ||| L = L) (hu : Keeps L u s) :
    Keeps L u (State.takeTile s h q) := by
  unfold State.takeTile
  try dsimp only
  repeat' first
    | with_reducible assumption
    | exact lor_sub hL rfl
    | with_reducible apply Keeps.ite <;> intro _
    | with_reducible apply State.tileCredits_keeps
    | with_reducible apply State.answerTile_keeps
    | with_reducible apply State.giveTile_keeps
    | with_reducible apply State.addJob_keeps
    | split
    | refine Keeps.upd hL ?_

theorem execTileArrival_keeps {L : Nat} {u : State} (port : Nat) (tile : TileMsg) (s0 : State) (hL : 44035807 ||| L = L) (hu : Keeps L u s0) :
    KeepsO L u (execTileArrival port tile s0) := by
  unfold execTileArrival
  try dsimp only
  repeat' first
    | with_reducible assumption
    | exact lor_sub hL rfl
    | with_reducible apply KeepsO.of_next
    | with_reducible apply KeepsO.ite <;> intro _
    | with_reducible apply Keeps.ite <;> intro _
    | with_reducible apply State.wakeUp_keeps
    | with_reducible apply State.giveBack_keeps
    | with_reducible apply State.cnt_keeps
    | with_reducible apply State.answerTile_keeps
    | with_reducible apply State.tileCredits_keeps
    | with_reducible apply State.draw_keeps
    | refine Keeps.of_fst (State.draw_keeps _ _ _ _ _ _ _ ?_ ?_) (by with_reducible assumption)
    | with_reducible apply State.takeTile_keeps
    | split
    | refine Keeps.upd hL ?_

theorem execReceipt_keeps {L : Nat} {u : State} (dev : Nat) (tile : TileId) (code : Nat) (s0 : State) (hL : 44019423 ||| L = L) (hu : Keeps L u s0) :
    KeepsO L u (execReceipt dev tile code s0) := by
  unfold execReceipt
  try dsimp only
  repeat' first
    | with_reducible assumption
    | exact lor_sub hL rfl
    | with_reducible apply KeepsO.of_next
    | with_reducible apply KeepsO.ite <;> intro _
    | with_reducible apply Keeps.ite <;> intro _
    | with_reducible apply State.wakeUp_keeps
    | with_reducible apply State.faultJob_keeps
    | with_reducible apply State.setErr_keeps
    | split
    | refine Keeps.upd hL ?_

theorem execAckTimeout_keeps {L : Nat} {u : State} (dev : Nat) (tile : TileId) (s : State) (hL : 44019423 ||| L = L) (hu : Keeps L u s) :
    KeepsO L u (execAckTimeout dev tile s) := by
  unfold execAckTimeout
  try dsimp only
  repeat' first
    | with_reducible assumption
    | exact lor_sub hL rfl
    | with_reducible apply KeepsO.of_next
    | with_reducible apply KeepsO.ite <;> intro _
    | with_reducible apply Keeps.ite <;> intro _
    | with_reducible apply State.sendTile_keeps
    | with_reducible apply State.faultJob_keeps
    | with_reducible apply State.setErr_keeps
    | split

theorem State.placeFree_keeps {L : Nat} {u : State} (s : State) (t : SentTile) (hL : 43983583 ||| L = L) (hu : Keeps L u s) :
    Keeps L u (State.placeFree s t) := by
  unfold State.placeFree
  try dsimp only
  repeat' first
    | with_reducible assumption
    | exact lor_sub hL rfl
    | with_reducible apply State.updNode_keeps
    | with_reducible apply State.sendDone_keeps
    | split
    | refine Keeps.upd hL ?_

theorem execReleaseTile_keeps {L : Nat} {u : State} (dev : Nat) (tile : TileId) (s0 : State) (hL : 43983583 ||| L = L) (hu : Keeps L u s0) :
    KeepsO L u (execReleaseTile dev tile s0) := by
  unfold execReleaseTile
  try dsimp only
  repeat' first
    | with_reducible assumption
    | exact lor_sub hL rfl
    | with_reducible apply KeepsO.of_next
    | with_reducible apply State.wakeUp_keeps
    | with_reducible apply State.placeFree_keeps
    | split

theorem execRejoinTimeout_keeps {L : Nat} {u : State} (dev : Nat) (s : State) (hL : 43983583 ||| L = L) (hu : Keeps L u s) :
    KeepsO L u (execRejoinTimeout dev s) := by
  unfold execRejoinTimeout
  try dsimp only
  repeat' first
    | with_reducible assumption
    | exact lor_sub hL rfl
    | with_reducible apply KeepsO.of_next
    | with_reducible apply KeepsO.ite <;> intro _
    | with_reducible apply Keeps.ite <;> intro _
    | with_reducible apply State.placeFree_keeps
    | with_reducible apply State.devError_keeps
    | with_reducible apply State.lnkErr_keeps
    | with_reducible apply Keeps.foldl
    | with_reducible apply Keeps.foldl_fst
    | intro _ _ _
    | split

theorem execOrphanTimeout_keeps {L : Nat} {u : State} (tile : TileId) (s : State) (hL : 43647003 ||| L = L) (hu : Keeps L u s) :
    KeepsO L u (execOrphanTimeout tile s) := by
  unfold execOrphanTimeout
  try dsimp only
  repeat' first
    | with_reducible assumption
    | exact lor_sub hL rfl
    | with_reducible apply KeepsO.of_next
    | with_reducible apply KeepsO.ite <;> intro _
    | with_reducible apply Keeps.ite <;> intro _
    | with_reducible apply State.releaseTile_keeps
    | with_reducible apply State.lnkErr_keeps
    | with_reducible apply State.cnt_keeps
    | split

theorem State.fallTile_keeps {L : Nat} {u : State} (s : State) (id : Nat) (n : Nat) (w : Nat) (t : Nat) (hL : 9445376 ||| L = L) (hu : Keeps L u s) :
    Keeps L u (State.fallTile s id n w t) := by
  unfold State.fallTile
  try dsimp only
  repeat' first
    | with_reducible assumption
    | exact lor_sub hL rfl
    | with_reducible apply Keeps.ite <;> intro _
    | with_reducible apply State.updNode_keeps
    | with_reducible apply State.cnt_keeps
    | split
    | refine Keeps.upd hL ?_

theorem execFallbackTimeout_keeps {L : Nat} {u : State} (job : Nat) (node : Nat) (s : State) (hL : 43983583 ||| L = L) (hu : Keeps L u s) :
    KeepsO L u (execFallbackTimeout job node s) := by
  unfold execFallbackTimeout
  try dsimp only
  repeat' first
    | with_reducible assumption
    | exact lor_sub hL rfl
    | with_reducible apply KeepsO.of_next
    | with_reducible apply KeepsO.ite <;> intro _
    | with_reducible apply Keeps.ite <;> intro _
    | with_reducible apply State.updJob_keeps
    | with_reducible apply State.recvDone_keeps
    | with_reducible apply State.fallTile_keeps
    | with_reducible apply Keeps.foldl
    | with_reducible apply Keeps.foldl_fst
    | intro _ _ _
    | split

theorem execCollectiveChunkArrival_keeps {L : Nat} {u : State} (port : Nat) (chunk : CollChunk) (s0 : State) (hL : 43983583 ||| L = L) (hu : Keeps L u s0) :
    KeepsO L u (execCollectiveChunkArrival port chunk s0) := by
  unfold execCollectiveChunkArrival
  try dsimp only
  repeat' first
    | with_reducible assumption
    | exact lor_sub hL rfl
    | with_reducible apply KeepsO.of_next
    | with_reducible apply State.wakeUp_keeps
    | with_reducible apply State.post_keeps
    | with_reducible apply State.collStep_keeps
    | split
    | refine Keeps.upd hL ?_

end Sys2Proof.Machine
end

