-- ==== Sys2Proof/Laws/KeepDispatch.lean ====
section
/-! SUPPORT. Every operation of Machine/Dispatch.lean keeps what `Keeps` says. -/

set_option Elab.async false

namespace Sys2Proof.Machine

/-- Every command, whatever its operands, keeps what `Keeps` says, and changes only the parts `mayChange` lists for it. -/
theorem exec_keeps (i : Instr) (s : State) : KeepsO (maskOf (mayChange i)) s (exec i s) := by
  cases i with
  | commandRingPoll due => exact execCommandRingPoll_keeps (L := 33554434) due s rfl (Keeps.refl s)
  | slotReadCompletion ring slot => exact execSlotReadCompletion_keeps (L := 8388635) ring slot s rfl (Keeps.refl s)
  | slotReread ring slot => exact execSlotReread_keeps (L := 8388635) ring slot s rfl (Keeps.refl s)
  | slotAccept ring consumed => exact execSlotAccept_keeps (L := 41943135) ring consumed s rfl (Keeps.refl s)
  | nop jidx => exact execNop_keeps (L := 6) jidx s rfl (Keeps.refl s)
  | fence jidx => exact execFence_keeps (L := 6) jidx s rfl (Keeps.refl s)
  | progLoad jidx image => exact execProgLoad_keeps (L := 41945119) jidx image s rfl (Keeps.refl s)
  | progUnload jidx => exact execProgUnload_keeps (L := 8390687) jidx s rfl (Keeps.refl s)
  | progUnloadDrainEnd prog => exact execProgUnloadDrainEnd_keeps (L := 526855) prog s rfl (Keeps.refl s)
  | progLoadEnd prog => exact execProgLoadEnd_keeps (L := 8390687) prog s rfl (Keeps.refl s)
  | streamOpen jidx contract => exact execStreamOpen_keeps (L := 42599263) jidx contract s rfl (Keeps.refl s)
  | streamBind jidx => exact execStreamBind_keeps (L := 9053279) jidx s rfl (Keeps.refl s)
  | streamClose jidx => exact execStreamClose_keeps (L := 583) jidx s rfl (Keeps.refl s)
  | streamCloseDrainEnd stream => exact execStreamCloseDrainEnd_keeps (L := 9045855) stream s rfl (Keeps.refl s)
  | auSubmit jidx => exact execAuSubmit_keeps (L := 41967711) jidx s rfl (Keeps.refl s)
  | auFetchDone stream seq => exact execAuFetchDone_keeps (L := 42598495) stream seq s rfl (Keeps.refl s)
  | jobRun jidx block => exact execJobRun_keeps (L := 41967647) jidx block s rfl (Keeps.refl s)
  | adaptRun jidx block => exact execAdaptRun_keeps (L := 41967647) jidx block s rfl (Keeps.refl s)
  | statReq jidx => exact execStatReq_keeps (L := 6) jidx s rfl (Keeps.refl s)
  | pennantWrite ring consumed => exact execPennantWrite_keeps (L := 42674271) ring consumed s rfl (Keeps.refl s)
  | consumerRecordReread ring consumed => exact execConsumerRecordReread_keeps (L := 41943067) ring consumed s rfl (Keeps.refl s)
  | msixTimerExpiry ring => exact execMsixTimerExpiry_keeps (L := 33554435) ring s rfl (Keeps.refl s)
  | msixVectorUnmask vector => exact execMsixVectorUnmask_keeps (L := 33554433) vector s rfl (Keeps.refl s)
  | cringEnable ring w => exact execCringEnable_keeps (L := 41943067) ring w s rfl (Keeps.refl s)
  | cringDisable ring w => exact execCringDisable_keeps (L := 41943065) ring w s rfl (Keeps.refl s)
  | cringLehrEnd ring => exact execCringLehrEnd_keeps (L := 3) ring s rfl (Keeps.refl s)
  | pringEnable ring w consumed => exact execPringEnable_keeps (L := 41943067) ring w consumed s rfl (Keeps.refl s)
  | pringDisable ring w => exact execPringDisable_keeps (L := 41943065) ring w s rfl (Keeps.refl s)
  | pringLehrEnd ring => exact execPringLehrEnd_keeps (L := 3) ring s rfl (Keeps.refl s)
  | hifCringSeq0Write ring w => exact execHifCringSeq0Write_keeps (L := 41943065) ring w s rfl (Keeps.refl s)
  | registerWrite addr w be => exact execRegisterWrite_keeps (L := 50331647) addr w be s rfl (Keeps.refl s)
  | barAccess kind addr len data => exact execBarAccess_keeps (L := 50331647) kind addr len data s rfl (Keeps.refl s)
  | loRegisterRead addr => exact execLoRegisterRead_keeps (L := 33554435) addr s rfl (Keeps.refl s)
  | timeClkSecLoRead => exact execTimeClkSecLoRead_keeps (L := 33554435) s rfl (Keeps.refl s)
  | timeTpiSecLoRead input => exact execTimeTpiSecLoRead_keeps (L := 33554435) input s rfl (Keeps.refl s)
  | atsInvalidateRequest tag page npages => exact execAtsInvalidateRequest_keeps (L := 2) tag page npages s rfl (Keeps.refl s)
  | invalidateCompletion tag => exact execInvalidateCompletion_keeps (L := 33554435) tag s rfl (Keeps.refl s)
  | atsTranslationCompletion acc addr granted write => exact execAtsTranslationCompletion_keeps (L := 44019423) acc addr granted write s rfl (Keeps.refl s)
  | hostReadFail acc addr => exact execHostReadFail_keeps (L := 44019423) acc addr s rfl (Keeps.refl s)
  | poisonReread acc addr clean => exact execPoisonReread_keeps (L := 44019423) acc addr clean s rfl (Keeps.refl s)
  | pcieLaneFailure lane => exact execPcieLaneFailure_keeps (L := 3) lane s rfl (Keeps.refl s)
  | jrnlEnable w => exact execJrnlEnable_keeps (L := 41943069) w s rfl (Keeps.refl s)
  | jrnlRecover w host => exact execJrnlRecover_keeps (L := 41943135) w host s rfl (Keeps.refl s)
  | jrnlDisable w => exact execJrnlDisable_keeps (L := 41943069) w s rfl (Keeps.refl s)
  | jrnlDrainEnd => exact execJrnlDrainEnd_keeps (L := 5) s rfl (Keeps.refl s)
  | recoveryEnd => exact execRecoveryEnd_keeps (L := 3) s rfl (Keeps.refl s)
  | mirrorRebuildDone => exact execMirrorRebuildDone_keeps (L := 5) s rfl (Keeps.refl s)
  | pwrGoodRise testMode board => exact execPwrGoodRise_keeps (L := 16777215) testMode board s rfl (Keeps.refl s)
  | pwrGoodFall => exact execPwrGoodFall_keeps (L := 16777215) s rfl (Keeps.refl s)
  | rstPorNLow => exact execRstPorNLow_keeps (L := 16777215) s rfl (Keeps.refl s)
  | vddAonLoss => exact execVddAonLoss_keeps (L := 16777215) s rfl (Keeps.refl s)
  | rstWarmNFall => exact execRstWarmNFall_keeps (L := 46137311) s rfl (Keeps.refl s)
  | rstWarmNRise => exact execRstWarmNRise_keeps (L := 2097152) s rfl (Keeps.refl s)
  | perstAssert => exact execPerstAssert_keeps (L := 46137311) s rfl (Keeps.refl s)
  | perstDeassert => exact execPerstDeassert_keeps (L := 2097152) s rfl (Keeps.refl s)
  | pcieHotReset => exact execPcieHotReset_keeps (L := 46137311) s rfl (Keeps.refl s)
  | functionLevelReset => exact execFunctionLevelReset_keeps (L := 46137311) s rfl (Keeps.refl s)
  | pwrResetWarm w => exact execPwrResetWarm_keeps (L := 46137311) w s rfl (Keeps.refl s)
  | pwrResetFw w => exact execPwrResetFw_keeps (L := 46137311) w s rfl (Keeps.refl s)
  | fwWatchdogExpiry => exact execFwWatchdogExpiry_keeps (L := 46137311) s rfl (Keeps.refl s)
  | resetIntervalEnd host => exact execResetIntervalEnd_keeps (L := 44040543) host s rfl (Keeps.refl s)
  | ready => exact execReady_keeps (L := 2097153) s rfl (Keeps.refl s)
  | decPictureChoice engine info => exact execDecPictureChoice_keeps (L := 44017375) engine info s rfl (Keeps.refl s)
  | decBlockRowDone engine cells rows failed resync misses => exact execDecBlockRowDone_keeps (L := 8651417) engine cells rows failed resync misses s rfl (Keeps.refl s)
  | decPictureDone engine => exact execDecPictureDone_keeps (L := 9052891) engine s rfl (Keeps.refl s)
  | decOffline engine => exact execDecOffline_keeps (L := 33554497) engine s rfl (Keeps.refl s)
  | decOnline engine => exact execDecOnline_keeps (L := 33554497) engine s rfl (Keeps.refl s)
  | decMoveDone stream => exact execDecMoveDone_keeps (L := 8389209) stream s rfl (Keeps.refl s)
  | netPortEnable port w => exact execNetPortEnable_keeps (L := 41943355) port w s rfl (Keeps.refl s)
  | autonegComplete port partner => exact execAutonegComplete_keeps (L := 8388891) port partner s rfl (Keeps.refl s)
  | netLaneFailure port lane => exact execNetLaneFailure_keeps (L := 8388891) port lane s rfl (Keeps.refl s)
  | latencyCalibrationDone port lat => exact execLatencyCalibrationDone_keeps (L := 2097153) port lat s rfl (Keeps.refl s)
  | ethFrameReceive port frame => exact execEthFrameReceive_keeps (L := 42623327) port frame s rfl (Keeps.refl s)
  | frameStaleClose flow => exact execFrameStaleClose_keeps (L := 44016091) flow s rfl (Keeps.refl s)
  | igmpReportTimer flow pathB => exact execIgmpReportTimer_keeps (L := 33554688) flow pathB s rfl (Keeps.refl s)
  | flowEnable flow w => exact execFlowEnable_keeps (L := 41943321) flow w s rfl (Keeps.refl s)
  | flowDisable flow w => exact execFlowDisable_keeps (L := 41943385) flow w s rfl (Keeps.refl s)
  | flowLehrEnd flow => exact execFlowLehrEnd_keeps (L := 33554689) flow s rfl (Keeps.refl s)
  | mergeWindowExpiry flow seq => exact execMergeWindowExpiry_keeps (L := 8388864) flow seq s rfl (Keeps.refl s)
  | ssrcAdopt flow pathB => exact execSsrcAdopt_keeps (L := 8388953) flow pathB s rfl (Keeps.refl s)
  | pathLoss flow pathB => exact execPathLoss_keeps (L := 8388891) flow pathB s rfl (Keeps.refl s)
  | netSilent flow => exact execNetSilent_keeps (L := 8388891) flow s rfl (Keeps.refl s)
  | swTimestampInterrupt flow => exact execSwTimestampInterrupt_keeps (L := 8512) flow s rfl (Keeps.refl s)
  | ptpAnnounce a => exact execPtpAnnounce_keeps (L := 35) a s rfl (Keeps.refl s)
  | ptpSync port domain t1 t2 correction => exact execPtpSync_keeps (L := 35) port domain t1 t2 correction s rfl (Keeps.refl s)
  | ptpDelayResp port domain delay => exact execPtpDelayResp_keeps (L := 33) port domain delay s rfl (Keeps.refl s)
  | delayReqTimer port => exact execDelayReqTimer_keeps (L := 33554432) port s rfl (Keeps.refl s)
  | servoHoldover => exact execServoHoldover_keeps (L := 8388667) s rfl (Keeps.refl s)
  | servoEnWrite en => exact execServoEnWrite_keeps (L := 33554435) en s rfl (Keeps.refl s)
  | step => exact execStep_keeps (L := 41943097) s rfl (Keeps.refl s)
  | clockStepLoad => exact execClockStepLoad_keeps (L := 8388667) s rfl (Keeps.refl s)
  | timeRateWrite w => exact execTimeRateWrite_keeps (L := 33554465) w s rfl (Keeps.refl s)
  | tpOutArm out w => exact execTpOutArm_keeps (L := 41943097) out w s rfl (Keeps.refl s)
  | tpOutPulse out => exact execTpOutPulse_keeps (L := 33554465) out s rfl (Keeps.refl s)
  | tpInEdge input rising ago => exact execTpInEdge_keeps (L := 8388667) input rising ago s rfl (Keeps.refl s)
  | statusPeriodTimer => exact execStatusPeriodTimer_keeps (L := 35) s rfl (Keeps.refl s)
  | shpSampleSlot stream seq node => exact execShpSampleSlot_keeps (L := 9306651) stream seq node s rfl (Keeps.refl s)
  | shpSampleDone stream seq node objIndex => exact execShpSampleDone_keeps (L := 9052763) stream seq node objIndex s rfl (Keeps.refl s)
  | boxListArrival job node => exact execBoxListArrival_keeps (L := 44019423) job node s rfl (Keeps.refl s)
  | batchWaitExpiry shaper node svc => exact execBatchWaitExpiry_keeps (L := 513) shaper node svc s rfl (Keeps.refl s)
  | flush shaper => exact execFlush_keeps (L := 33554945) shaper s rfl (Keeps.refl s)
  | testStandin shaper => exact execTestStandin_keeps (L := 33554433) shaper s rfl (Keeps.refl s)
  | batchDispatch shaper node svc => exact execBatchDispatch_keeps (L := 43983583) shaper node svc s rfl (Keeps.refl s)
  | jobStart job => exact execJobStart_keeps (L := 44019423) job s rfl (Keeps.refl s)
  | jobPlanGrant job => exact execJobPlanGrant_keeps (L := 9052187) job s rfl (Keeps.refl s)
  | decode job node => exact execDecode_keeps (L := 43983583) job node s rfl (Keeps.refl s)
  | shape job node => exact execShape_keeps (L := 8659457) job node s rfl (Keeps.refl s)
  | cropResize job node => exact execCropResize_keeps (L := 8397337) job node s rfl (Keeps.refl s)
  | gather job node data => exact execGather_keeps (L := 44019423) job node data s rfl (Keeps.refl s)
  | emit job node => exact execEmit_keeps (L := 43983583) job node s rfl (Keeps.refl s)
  | matmul job node => exact execMatmul_keeps (L := 44019423) job node s rfl (Keeps.refl s)
  | vec job node => exact execVec_keeps (L := 44019423) job node s rfl (Keeps.refl s)
  | rowstat job node => exact execRowstat_keeps (L := 44019423) job node s rfl (Keeps.refl s)
  | softmax job node => exact execSoftmax_keeps (L := 44019423) job node s rfl (Keeps.refl s)
  | norm job node => exact execNorm_keeps (L := 44019423) job node s rfl (Keeps.refl s)
  | tblLoad job node => exact execTblLoad_keeps (L := 12289) job node s rfl (Keeps.refl s)
  | tblSwitch => exact execTblSwitch_keeps (L := 43987679) s rfl (Keeps.refl s)
  | chain job node => exact execChain_keeps (L := 44019423) job node s rfl (Keeps.refl s)
  | chainStepCommit job node rowBlock => exact execChainStepCommit_keeps (L := 25206784) job node rowBlock s rfl (Keeps.refl s)
  | optStep job node => exact execOptStep_keeps (L := 43985631) job node s rfl (Keeps.refl s)
  | conv job node => exact execConv_keeps (L := 44019423) job node s rfl (Keeps.refl s)
  | convDw job node => exact execConvDw_keeps (L := 44019423) job node s rfl (Keeps.refl s)
  | convFft job node => exact execConvFft_keeps (L := 44019423) job node s rfl (Keeps.refl s)
  | spectrumJob job node channel => exact execSpectrumJob_keeps (L := 43983583) job node channel s rfl (Keeps.refl s)
  | pool job node => exact execPool_keeps (L := 44019423) job node s rfl (Keeps.refl s)
  | argmaxC job node => exact execArgmaxC_keeps (L := 44019423) job node s rfl (Keeps.refl s)
  | roiAlign job node => exact execRoiAlign_keeps (L := 44019423) job node s rfl (Keeps.refl s)
  | tileJobPlacement svc => exact execTileJobPlacement_keeps (L := 8486913) svc s rfl (Keeps.refl s)
  | tileIssue core => exact execTileIssue_keeps (L := 8429569) core s rfl (Keeps.refl s)
  | chunkStaged core chunk => exact execChunkStaged_keeps (L := 32768) core chunk s rfl (Keeps.refl s)
  | drainRow core row lane flip parity => exact execDrainRow_keeps (L := 9154587) core row lane flip parity s rfl (Keeps.refl s)
  | tileCommit core => exact execTileCommit_keeps (L := 60793567) core s rfl (Keeps.refl s)
  | checkRunDone core pass => exact execCheckRunDone_keeps (L := 9150491) core pass s rfl (Keeps.refl s)
  | foldJob job node => exact execFoldJob_keeps (L := 43983583) job node s rfl (Keeps.refl s)
  | secondPassIssue job node => exact execSecondPassIssue_keeps (L := 73729) job node s rfl (Keeps.refl s)
  | ckInject core => exact execCkInject_keeps (L := 33554433) core s rfl (Keeps.refl s)
  | coreOffline core => exact execCoreOffline_keeps (L := 42704923) core s rfl (Keeps.refl s)
  | coreOnline core => exact execCoreOnline_keeps (L := 33554433) core s rfl (Keeps.refl s)
  | mrvProbe core => exact execMrvProbe_keeps (L := 33554433) core s rfl (Keeps.refl s)
  | boxes job node => exact execBoxes_keeps (L := 44019423) job node s rfl (Keeps.refl s)
  | nms job node => exact execNms_keeps (L := 44019423) job node s rfl (Keeps.refl s)
  | topk job node => exact execTopk_keeps (L := 44019423) job node s rfl (Keeps.refl s)
  | iou job node => exact execIou_keeps (L := 44019423) job node s rfl (Keeps.refl s)
  | hset job node => exact execHset_keeps (L := 44019423) job node s rfl (Keeps.refl s)
  | knn job node => exact execKnn_keeps (L := 44019423) job node s rfl (Keeps.refl s)
  | assign job node => exact execAssign_keeps (L := 44019423) job node s rfl (Keeps.refl s)
  | track job node => exact execTrack_keeps (L := 44019423) job node s rfl (Keeps.refl s)
  | sgsOperationCommit station => exact execSgsOperationCommit_keeps (L := 43984607) station s rfl (Keeps.refl s)
  | sgsOffline station off => exact execSgsOffline_keeps (L := 33661953) station off s rfl (Keeps.refl s)
  | sgsMoveDone stream => exact execSgsMoveDone_keeps (L := 8389659) stream s rfl (Keeps.refl s)
  | xfrSend job node => exact execXfrSend_keeps (L := 44019423) job node s rfl (Keeps.refl s)
  | xfrRecv job node => exact execXfrRecv_keeps (L := 44019423) job node s rfl (Keeps.refl s)
  | xfrColl job node => exact execXfrColl_keeps (L := 44019423) job node s rfl (Keeps.refl s)
  | preemptionDecision svc => exact execPreemptionDecision_keeps (L := 9142299) svc s rfl (Keeps.refl s)
  | contextSaveDone core commit => exact execContextSaveDone_keeps (L := 25927707) core commit s rfl (Keeps.refl s)
  | saveAreaRetry svc => exact execSaveAreaRetry_keeps (L := 9142299) svc s rfl (Keeps.refl s)
  | contextRestore core block row lane flip bad => exact execContextRestore_keeps (L := 10200091) core block row lane flip bad s rfl (Keeps.refl s)
  | remoteResponse core tag => exact execRemoteResponse_keeps (L := 98305) core tag s rfl (Keeps.refl s)
  | saveAll => exact execSaveAll_keeps (L := 42705947) s rfl (Keeps.refl s)
  | saveAllComplete => exact execSaveAllComplete_keeps (L := 35717379) s rfl (Keeps.refl s)
  | resumeAll => exact execResumeAll_keeps (L := 33619969) s rfl (Keeps.refl s)
  | schedClsCommit => exact execSchedClsCommit_keeps (L := 42270745) s rfl (Keeps.refl s)
  | classEnable svc w => exact execClassEnable_keeps (L := 42704923) svc w s rfl (Keeps.refl s)
  | classLehrEnd svc => exact execClassLehrEnd_keeps (L := 1) svc s rfl (Keeps.refl s)
  | starveCheck svc => exact execStarveCheck_keeps (L := 8454169) svc s rfl (Keeps.refl s)
  | maxwaitClear svc => exact execMaxwaitClear_keeps (L := 33554433) svc s rfl (Keeps.refl s)
  | fabricRequestGrant heads => exact execFabricRequestGrant_keeps (L := 42008576) heads s rfl (Keeps.refl s)
  | poolDraw owner cls n svc ticket => exact execPoolDraw_keeps (L := 9043995) owner cls n svc ticket s rfl (Keeps.refl s)
  | stalledDrawGrant cls => exact execStalledDrawGrant_keeps (L := 9043995) cls s rfl (Keeps.refl s)
  | poolFree cls index => exact execPoolFree_keeps (L := 9043995) cls index s rfl (Keeps.refl s)
  | poolRefill cls values => exact execPoolRefill_keeps (L := 8519707) cls values s rfl (Keeps.refl s)
  | poolEnable cls w => exact execPoolEnable_keeps (L := 42074139) cls w s rfl (Keeps.refl s)
  | poolDisable cls w => exact execPoolDisable_keeps (L := 41943065) cls w s rfl (Keeps.refl s)
  | poolLehrEnd cls => exact execPoolLehrEnd_keeps (L := 8519707) cls s rfl (Keeps.refl s)
  | poolResWrite owner cls w => exact execPoolResWrite_keeps (L := 42074139) owner cls w s rfl (Keeps.refl s)
  | poolThreshWrite cls w => exact execPoolThreshWrite_keeps (L := 42074139) cls w s rfl (Keeps.refl s)
  | sbPinnedAlloc cluster svc bytes job => exact execSbPinnedAlloc_keeps (L := 262145) cluster svc bytes job s rfl (Keeps.refl s)
  | wayLinePass cluster way line old acc => exact execWayLinePass_keeps (L := 33816577) cluster way line old acc s rfl (Keeps.refl s)
  | onChipEccError kind inst line owner correctable => exact execOnChipEccError_keeps (L := 14395099) kind inst line owner correctable s rfl (Keeps.refl s)
  | secureSramWipeDone => exact execSecureSramWipeDone_keeps (L := 4194305) s rfl (Keeps.refl s)
  | hbmRequestIssue pch arrivals parity symbols => exact execHbmRequestIssue_keeps (L := 42467353) pch arrivals parity symbols s rfl (Keeps.refl s)
  | hbmPoisonRead line reader who => exact execHbmPoisonRead_keeps (L := 44019423) line reader who s rfl (Keeps.refl s)
  | urgencyRise pch pos => exact execUrgencyRise_keeps (L := 8912897) pch pos s rfl (Keeps.refl s)
  | refresh pch => exact execRefresh_keeps (L := 524289) pch s rfl (Keeps.refl s)
  | hbmTempReading stack temp => exact execHbmTempReading_keeps (L := 11010073) stack temp s rfl (Keeps.refl s)
  | hbmTrainingDone stack pch ok => exact execHbmTrainingDone_keeps (L := 8388635) stack pch ok s rfl (Keeps.refl s)
  | dqTracking pch => exact execDqTracking_keeps (L := 0) pch s rfl (Keeps.refl s)
  | patrolScrub rank line symbols => exact execPatrolScrub_keeps (L := 8912921) rank line symbols s rfl (Keeps.refl s)
  | frameReplaceCopyDone frame => exact execFrameReplaceCopyDone_keeps (L := 524288) frame s rfl (Keeps.refl s)
  | rankRetire rank cause => exact execRankRetire_keeps (L := 9043995) rank cause s rfl (Keeps.refl s)
  | retire rank => exact execRetire_keeps (L := 33554433) rank s rfl (Keeps.refl s)
  | migrationDone => exact execMigrationDone_keeps (L := 524289) s rfl (Keeps.refl s)
  | rankDrainDone rank => exact execRankDrainDone_keeps (L := 524289) rank s rfl (Keeps.refl s)
  | hbmPortMaxlatClear port => exact execHbmPortMaxlatClear_keeps (L := 33554433) port s rfl (Keeps.refl s)
  | lnkTopoWrite w => exact execLnkTopoWrite_keeps (L := 42991641) w s rfl (Keeps.refl s)
  | lnkPortEnable port w => exact execLnkPortEnable_keeps (L := 44019423) port w s rfl (Keeps.refl s)
  | lnkPortLehrEnd port => exact execLnkPortLehrEnd_keeps (L := 44019423) port s rfl (Keeps.refl s)
  | portTrainingDone port width peer lanesOk => exact execPortTrainingDone_keeps (L := 44019423) port width peer lanesOk s rfl (Keeps.refl s)
  | flitReceive port crcOk dst tile halyard => exact execFlitReceive_keeps (L := 42991617) port crcOk dst tile halyard s rfl (Keeps.refl s)
  | replayRequest port flit => exact execReplayRequest_keeps (L := 42991617) port flit s rfl (Keeps.refl s)
  | creditReturn port halyard set n => exact execCreditReturn_keeps (L := 1048577) port halyard set n s rfl (Keeps.refl s)
  | lnkLaneFailure port lane => exact execLnkLaneFailure_keeps (L := 44019423) port lane s rfl (Keeps.refl s)
  | portDown port => exact execPortDown_keeps (L := 44019423) port s rfl (Keeps.refl s)
  | topologyUpdate dev ports => exact execTopologyUpdate_keeps (L := 44019423) dev ports s rfl (Keeps.refl s)
  | tileArrival port tile => exact execTileArrival_keeps (L := 44035807) port tile s rfl (Keeps.refl s)
  | receipt dev tile code => exact execReceipt_keeps (L := 44019423) dev tile code s rfl (Keeps.refl s)
  | ackTimeout dev tile => exact execAckTimeout_keeps (L := 44019423) dev tile s rfl (Keeps.refl s)
  | releaseTile dev tile => exact execReleaseTile_keeps (L := 43983583) dev tile s rfl (Keeps.refl s)
  | rejoinTimeout dev => exact execRejoinTimeout_keeps (L := 43983583) dev s rfl (Keeps.refl s)
  | peerRejoin port dev => exact execPeerRejoin_keeps (L := 42991617) port dev s rfl (Keeps.refl s)
  | orphanTimeout tile => exact execOrphanTimeout_keeps (L := 43647003) tile s rfl (Keeps.refl s)
  | fallbackTimeout job node => exact execFallbackTimeout_keeps (L := 43983583) job node s rfl (Keeps.refl s)
  | recordEntryClear entry => exact execRecordEntryClear_keeps (L := 33554441) entry s rfl (Keeps.refl s)
  | clearAll => exact execClearAll_keeps (L := 33554441) s rfl (Keeps.refl s)
  | hangDetection kind unit => exact execHangDetection_keeps (L := 9152219) kind unit s rfl (Keeps.refl s)
  | hlthUnfence w => exact execHlthUnfence_keeps (L := 33554441) w s rfl (Keeps.refl s)
  | selfTestDone kind unit failing => exact execSelfTestDone_keeps (L := 9152219) kind unit failing s rfl (Keeps.refl s)
  | marginPlanDue => exact execMarginPlanDue_keeps (L := 9) s rfl (Keeps.refl s)
  | idleMoment => exact execIdleMoment_keeps (L := 9) s rfl (Keeps.refl s)
  | planForced => exact execPlanForced_keeps (L := 8388617) s rfl (Keeps.refl s)
  | planNow => exact execPlanNow_keeps (L := 33554441) s rfl (Keeps.refl s)
  | ageingMeasurementDone monitor fresh stressed => exact execAgeingMeasurementDone_keeps (L := 8388633) monitor fresh stressed s rfl (Keeps.refl s)
  | marginPlanEnd => exact execMarginPlanEnd_keeps (L := 44803803) s rfl (Keeps.refl s)
  | hoist => exact execHoist_keeps (L := 41943057) s rfl (Keeps.refl s)
  | snapInEdge rising ago => exact execSnapInEdge_keeps (L := 8388625) rising ago s rfl (Keeps.refl s)
  | snapTimeMatch => exact execSnapTimeMatch_keeps (L := 8388625) s rfl (Keeps.refl s)
  | snapArm => exact execSnapArm_keeps (L := 33554449) s rfl (Keeps.refl s)
  | furlIdleExpiry => exact execFurlIdleExpiry_keeps (L := 1) s rfl (Keeps.refl s)
  | furlLehrEnd => exact execFurlLehrEnd_keeps (L := 1) s rfl (Keeps.refl s)
  | wakeEvent => exact execWakeEvent_keeps (L := 1) s rfl (Keeps.refl s)
  | d3hotWrite => exact execD3hotWrite_keeps (L := 44803355) s rfl (Keeps.refl s)
  | d0Write => exact execD0Write_keeps (L := 33619971) s rfl (Keeps.refl s)
  | clockGate block => exact execClockGate_keeps (L := 1) block s rfl (Keeps.refl s)
  | clockStart block => exact execClockStart_keeps (L := 1) block s rfl (Keeps.refl s)
  | railReadback rail reading => exact execRailReadback_keeps (L := 2097153) rail reading s rfl (Keeps.refl s)
  | railFault rail => exact execRailFault_keeps (L := 1) rail s rfl (Keeps.refl s)
  | throttleStep tj => exact execThrottleStep_keeps (L := 2097153) tj s rfl (Keeps.refl s)
  | thermalTrip => exact execThermalTrip_keeps (L := 50331647) s rfl (Keeps.refl s)
  | challenge => exact execChallenge_keeps (L := 46137369) s rfl (Keeps.refl s)
  | provision => exact execProvision_keeps (L := 46137369) s rfl (Keeps.refl s)
  | endorse => exact execEndorse_keeps (L := 46137369) s rfl (Keeps.refl s)
  | production => exact execProduction_keeps (L := 46137369) s rfl (Keeps.refl s)
  | returnCmd => exact execReturnCmd_keeps (L := 46137369) s rfl (Keeps.refl s)
  | terminate => exact execTerminate_keeps (L := 46137369) s rfl (Keeps.refl s)
  | revoke slot => exact execRevoke_keeps (L := 46137369) slot s rfl (Keeps.refl s)
  | lcCommandDone => exact execLcCommandDone_keeps (L := 12582937) s rfl (Keeps.refl s)
  | keyDerivationDone => exact execKeyDerivationDone_keeps (L := 4194305) s rfl (Keeps.refl s)
  | burgeeGo => exact execBurgeeGo_keeps (L := 46137369) s rfl (Keeps.refl s)
  | burgeeDone => exact execBurgeeDone_keeps (L := 4194305) s rfl (Keeps.refl s)
  | quoteGo => exact execQuoteGo_keeps (L := 46137369) s rfl (Keeps.refl s)
  | quoteDone => exact execQuoteDone_keeps (L := 4194305) s rfl (Keeps.refl s)
  | svnCommit key => exact execSvnCommit_keeps (L := 33554433) key s rfl (Keeps.refl s)
  | recovGo => exact execRecovGo_keeps (L := 33554433) s rfl (Keeps.refl s)
  | imageVerifyDone image data => exact execImageVerifyDone_keeps (L := 14680089) image data s rfl (Keeps.refl s)
  | tamperEvent source rail => exact execTamperEvent_keeps (L := 12582939) source rail s rfl (Keeps.refl s)
  | secTamperClr w => exact execSecTamperClr_keeps (L := 33554433) w s rfl (Keeps.refl s)
  | debugPortAccess addr write => exact execDebugPortAccess_keeps (L := 50331647) addr write s rfl (Keeps.refl s)
  | netLinkLost port => exact execNetLinkLost_keeps (L := 8388891) port s rfl (Keeps.refl s)
  | announceReceiptTimeout => exact execAnnounceReceiptTimeout_keeps (L := 35) s rfl (Keeps.refl s)
  | rstPorNRise board => exact execRstPorNRise_keeps (L := 14680089) board s rfl (Keeps.refl s)
  | resumeAllComplete => exact execResumeAllComplete_keeps (L := 11247643) s rfl (Keeps.refl s)
  | collectiveChunkArrival port chunk => exact execCollectiveChunkArrival_keeps (L := 43983583) port chunk s rfl (Keeps.refl s)
  | pcieLinkUp speed width => exact execPcieLinkUp_keeps (L := 1) speed width s rfl (Keeps.refl s)

end Sys2Proof.Machine
end

