-- ==== Sys2Proof/Laws/Time.lean ====
section
/-! SUPPORT. What one AON tick does to TIME_MONO. -/

set_option Elab.async false

namespace Sys2Proof.Machine

theorem tpoStep_mono (t0 t1 : Nat) (s : State) (k : Nat) : (State.tpoStep t0 t1 s k).time.mono = s.time.mono := by
  unfold State.tpoStep
  split
  · rfl
  · split
    · rfl
    · split
      · rfl
      · rfl

theorem foldl_tpoStep_mono (l : List Nat) (t0 t1 : Nat) (s : State) :
    (l.foldl (State.tpoStep t0 t1) s).time.mono = s.time.mono := by
  induction l generalizing s with
  | nil => rfl
  | cons x l ih => rw [List.foldl_cons, ih, tpoStep_mono]

theorem timeErr_time (s : State) (c d0 d1 : Nat) : (s.timeErr c d0 d1).time = s.time := by
  unfold State.timeErr
  exact (file_time _ _ _ _ _ _).trans (setErr_time _ _ _ _ _)

theorem timePn_time (s : State) (e : Nat) (ct : Stamp) : (s.timePn e ct).time = s.time := by
  exact (State.timePn_keeps (L := 3) s e ct rfl (Keeps.refl s)).parts.same .time (by decide)

theorem armNow_mono (s : State) (k : Nat) : (s.armNow k).time.mono = s.time.mono := by
  unfold State.armNow
  dsimp only
  split
  · rfl
  · split
    · rfl
    · split
      · exact (congrArg Time.mono (timeErr_time _ _ _ _)).trans rfl
      · split
        · split <;> rfl
        · rfl

theorem foldl_armNow_mono (l : List Nat) (s : State) : (l.foldl State.armNow s).time.mono = s.time.mono := by
  induction l generalizing s with
  | nil => rfl
  | cons x l ih => rw [List.foldl_cons, ih, armNow_mono]

/-- Loading a clock step counts one tick in TIME_MONO (R217, R219). -/
theorem loadStep_mono (s : State) (c : ClockStep) : (s.loadStep c).time.mono = s.time.mono + 40 := by
  unfold State.loadStep
  dsimp only
  rw [foldl_armNow_mono]
  dsimp only
  rw [foldl_tpoStep_mono, timePn_time]
  rfl

/-- A tick counts 40 ns in TIME_MONO (R217). -/
theorem tick_mono (s : State) : s.tick.time.mono = s.time.mono + 40 := by
  unfold State.tick
  split
  · exact loadStep_mono _ _
  · rfl

end Sys2Proof.Machine
end

