-- ==== Sys2Proof/Machine/Package.lean ====
section
/-! DEFINITION. The package (chapter 21): ball names (R731), ball groups (R732), SerDes balls (R733), low-speed signals (R734), levels
(R735), clock inputs (R738) and lid temperature (R742).  No command reads them; they say where the pins of the other files stand. -/

set_option Elab.async false

namespace Sys2Proof.Machine

/-! ### Ball names (R731) -/

/-- The 19 letters of row names. -/
def rowLetters : List String :=
  ["A", "B", "C", "D", "E", "F", "G", "H", "J", "K", "L", "M", "N", "P", "T", "U", "V", "W", "Y"]

/-- The name of row i, 1 to 69. -/
def rowName (i : Nat) : String :=
  if i ≤ 19 then rowLetters.getD (i - 1) "" else rowLetters.getD ((i - 20) / 19) "" ++ rowLetters.getD ((i - 20) % 19) ""

/-- A ball, by row and column 1 to 69. -/
structure Ball where
  row : Nat
  col : Nat
  deriving DecidableEq, Repr

/-- The name of a ball. -/
def ballName (b : Ball) : String := rowName b.row ++ toString b.col

/-! ### Ball groups (R732) -/

/-- Groups of balls and their counts. -/
def ballGroups : List (String × Nat) :=
  [("PCIe", 68), ("Ranlink", 128), ("Ethernet", 32), ("SerDes clocks and calibration", 7), ("Low-speed signals", 35), ("Rail sense", 24),
   ("VDD_CL0 to VDD_CL7", 8 * 180), ("VDD_DEC", 160), ("VDD_FAB", 300), ("VDD_HPHY", 90), ("VDD_SD", 120), ("VDDH_SD", 80)] ++
  [("VPP_HBM", 16), ("VDD_HBM", 80), ("VDDQ_HBM", 60), ("VDD_AON", 8), ("VDDIO_18", 12), ("VDD_PLL", 24), ("DNU", 40), ("VSS", 2037)]

/-! ### SerDes balls (R733) -/

/-- A SerDes lane, sending or receiving. -/
inductive SerdesLane where
  | pcie (tx : Bool) (lane : Nat)
  | ranlink (tx : Bool) (port lane : Nat)
  | ethernet (tx : Bool) (port lane : Nat)
  deriving DecidableEq, Repr

/-- The P and the N ball of a lane. -/
def SerdesLane.balls : SerdesLane → Ball × Ball
  | .pcie tx n =>
    let r := if tx then 2 else 5
    ({ row := r, col := 3 + 4 * n }, { row := r, col := 4 + 4 * n })
  | .ranlink tx p l =>
    let k := 8 * (p % 2) + l
    let c := if p < 2 then (if tx then 2 else 5) else (if tx then 68 else 65)
    ({ row := 10 + 3 * k, col := c }, { row := 11 + 3 * k, col := c })
  | .ethernet tx q l =>
    let k := 4 * q + l
    let r := if tx then 68 else 65
    ({ row := r, col := 10 + 4 * k }, { row := r, col := 11 + 4 * k })

/-! ### Low-speed signals (R734, R735) -/

/-- Types of low-speed balls. -/
inductive BallType where
  | in18 | out18 | io18 | od18 | in33 | od33 | clk18 | analogue
  deriving DecidableEq, Repr

/-- Levels of a type in mV: VIL max, VIH min, VOL max, VOH min, none where the table states none (R735). -/
def BallType.levels : BallType → Option Nat × Option Nat × Option Nat × Option Nat
  | .in18 | .clk18 => (some 630, some 1170, none, none)
  | .out18 => (none, none, some 450, some 1350)
  | .io18 => (some 630, some 1170, some 450, some 1350)
  | .od18 | .od33 => (none, none, some 400, none)
  | .in33 => (some 800, some 2000, none, none)
  | .analogue => (none, none, none, none)

/-- Low-speed signals with their balls: name, row, column and type (R734). -/
def lowSpeed : List (String × Nat × Nat × BallType) :=
  [("PERST_N", 4, 66, .in33), ("CLKREQ_N", 4, 67, .od33), ("CLK_25M", 67, 44, .clk18), ("CLK_32K", 67, 46, .clk18),
   ("PWR_GOOD", 67, 48, .in18), ("RST_POR_N", 67, 49, .in18), ("RST_WARM_N", 67, 50, .in18), ("THERMTRIP_N", 67, 51, .od18),
   ("AVS_CLK", 67, 53, .out18), ("AVS_MDATA", 67, 54, .out18), ("AVS_SDATA", 67, 55, .in18), ("FLASH_CLK", 67, 57, .out18)] ++
  [("FLASH_CS_N", 67, 58, .out18), ("FLASH_DQS", 67, 59, .in18)] ++
  (List.range 8).map (fun i => ("FLASH_IO", 67, 60 + i, .io18)) ++ (List.range 4).map (fun k => ("TP_OUT", 69, 44 + k, .out18)) ++
  (List.range 2).map (fun k => ("TP_IN", 69, 49 + k, .in18)) ++
  [("SNAP_IN", 69, 51, .in18), ("DBG_TCK", 69, 53, .in18), ("DBG_TMS", 69, 54, .in18), ("DBG_TDI", 69, 55, .in18),
   ("DBG_TDO", 69, 56, .out18), ("DBG_TRST_N", 69, 57, .in18), ("TEST_MODE", 69, 59, .in18), ("TDIODE_P", 69, 61, .analogue),
   ("TDIODE_N", 69, 62, .analogue)]

/-- The sense pair of rail r (R734). -/
def senseBalls (r : Nat) : Ball × Ball := ({ row := 66, col := 44 + 2 * r }, { row := 66, col := 45 + 2 * r })

/-! ### Clock inputs and lid temperature (R738, R742) -/

/-- Clock inputs: name, frequency in Hz and accuracy in ppm. -/
def clockInputs : List (String × Nat × Nat) :=
  [("CLK_25M", 25000000, 50), ("CLK_32K", 32768, 100), ("PCIE_REFCLK", 100000000, 300), ("SD_REFCLK_A", 156250000, 50),
   ("SD_REFCLK_B", 156250000, 50)]

/-- The lid temperature in m°C that keeps the junction at the throttle point, TJ_MAX_C - 5 °C, at a power in W (R741, R742). -/
def lidLimit (tjMax powerW : Int) : Int := (tjMax - 5) * 1000 - 55 * powerW

/-- What the HBM sensors read at most at a lid temperature in m°C and a power in W (R742). -/
def hbmSensors (lid powerW : Int) : Int := lid + 20 * powerW

end Sys2Proof.Machine
end

