-- ==== Sys2Proof/WellFormed.lean ====
section
/-! DEFINITION. Well-formed commands: the numbers they name are within the counts of the V96. -/

set_option Elab.async false

namespace Sys2Proof

/-- The address of a register access: a dword of BAR0, or of configuration space, which lies from 2^32 on (log entry 10). -/
def addrOk (a : Nat) : Bool := decide ((a < 0x4000000 ∨ (2 ^ 32 ≤ a ∧ a < 2 ^ 32 + 4096)) ∧ a % 4 = 0)

/-- The numbers a command carries name elements that exist: 16 command rings, 64 pennant rings, 256 vectors, 32 programs,
128 streams, 8 engines and shapers, 32 flows, 64 cores, 4 classes and stations, 8 pool classes, 32 owners, 64
pseudo-channels, 6 ranks, 4 Ranlink ports, 8 devices; addresses of registers are aligned. -/
def Instr.wellFormed : Instr → Bool
  | .commandRingPoll due => due.all (fun c => decide (c < 16))
  | .slotReadCompletion ring _ => decide (ring < 16)
  | .slotReread ring _ => decide (ring < 16)
  | .slotAccept ring _ => decide (ring < 16)
  | .nop jidx => decide (jidx < 2 ^ 32)
  | .fence jidx => decide (jidx < 2 ^ 32)
  | .progLoad jidx _ => decide (jidx < 2 ^ 32)
  | .progUnload jidx => decide (jidx < 2 ^ 32)
  | .progUnloadDrainEnd prog => decide (prog < 32)
  | .progLoadEnd prog => decide (prog < 32)
  | .streamOpen jidx _ => decide (jidx < 2 ^ 32)
  | .streamBind jidx => decide (jidx < 2 ^ 32)
  | .streamClose jidx => decide (jidx < 2 ^ 32)
  | .streamCloseDrainEnd stream => decide (stream < 128)
  | .auSubmit jidx => decide (jidx < 2 ^ 32)
  | .auFetchDone stream seq => decide (stream < 128 ∧ seq < 2 ^ 32)
  | .jobRun jidx _ => decide (jidx < 2 ^ 32)
  | .adaptRun jidx _ => decide (jidx < 2 ^ 32)
  | .statReq jidx => decide (jidx < 2 ^ 32)
  | .pennantWrite ring _ => decide (ring < 64)
  | .consumerRecordReread ring _ => decide (ring < 64)
  | .msixTimerExpiry ring => decide (ring < 64)
  | .msixVectorUnmask vector => decide (vector < 256)
  | .cringEnable ring _ => decide (ring < 16)
  | .cringDisable ring _ => decide (ring < 16)
  | .cringLehrEnd ring => decide (ring < 16)
  | .pringEnable ring _ _ => decide (ring < 64)
  | .pringDisable ring _ => decide (ring < 64)
  | .pringLehrEnd ring => decide (ring < 64)
  | .hifCringSeq0Write ring _ => decide (ring < 16)
  | .registerWrite addr _ _ => addrOk addr
  | .barAccess _ _ _ _ => true
  | .loRegisterRead addr => addrOk addr
  | .timeClkSecLoRead => true
  | .timeTpiSecLoRead input => decide (input < 2)
  | .atsInvalidateRequest _ _ _ => true
  | .invalidateCompletion _ => true
  | .atsTranslationCompletion _ _ _ _ => true
  | .hostReadFail _ _ => true
  | .poisonReread _ _ _ => true
  | .pcieLaneFailure lane => decide (lane < 16)
  | .jrnlEnable _ => true
  | .jrnlRecover _ _ => true
  | .jrnlDisable _ => true
  | .jrnlDrainEnd => true
  | .recoveryEnd => true
  | .mirrorRebuildDone => true
  | .pwrGoodRise _ _ => true
  | .pwrGoodFall => true
  | .rstPorNLow => true
  | .vddAonLoss => true
  | .rstWarmNFall => true
  | .rstWarmNRise => true
  | .perstAssert => true
  | .perstDeassert => true
  | .pcieHotReset => true
  | .functionLevelReset => true
  | .pwrResetWarm _ => true
  | .pwrResetFw _ => true
  | .fwWatchdogExpiry => true
  | .resetIntervalEnd _ => true
  | .ready => true
  | .decPictureChoice engine _ => decide (engine < 8)
  | .decBlockRowDone engine _ _ _ _ _ => decide (engine < 8)
  | .decPictureDone engine => decide (engine < 8)
  | .decOffline engine => decide (engine < 8)
  | .decOnline engine => decide (engine < 8)
  | .decMoveDone stream => decide (stream < 128)
  | .netPortEnable port _ => decide (port < 2)
  | .autonegComplete port _ => decide (port < 2)
  | .netLaneFailure port lane => decide (port < 2 ∧ lane < 4)
  | .latencyCalibrationDone port _ => decide (port < 2)
  | .ethFrameReceive port _ => decide (port < 2)
  | .frameStaleClose flow => decide (flow < 32)
  | .igmpReportTimer flow _ => decide (flow < 32)
  | .flowEnable flow _ => decide (flow < 32)
  | .flowDisable flow _ => decide (flow < 32)
  | .flowLehrEnd flow => decide (flow < 32)
  | .mergeWindowExpiry flow seq => decide (flow < 32 ∧ seq < 2 ^ 32)
  | .ssrcAdopt flow _ => decide (flow < 32)
  | .pathLoss flow _ => decide (flow < 32)
  | .netSilent flow => decide (flow < 32)
  | .swTimestampInterrupt flow => decide (flow < 32)
  | .ptpAnnounce _ => true
  | .ptpSync port _ _ _ _ => decide (port < 2)
  | .ptpDelayResp port _ _ => decide (port < 2)
  | .delayReqTimer port => decide (port < 2)
  | .servoHoldover => true
  | .servoEnWrite _ => true
  | .step => true
  | .clockStepLoad => true
  | .timeRateWrite _ => true
  | .tpOutArm out _ => decide (out < 4)
  | .tpOutPulse out => decide (out < 4)
  | .tpInEdge input _ _ => decide (input < 2)
  | .statusPeriodTimer => true
  | .shpSampleSlot stream seq _ => decide (stream < 128 ∧ seq < 2 ^ 32)
  | .shpSampleDone stream seq _ _ => decide (stream < 128 ∧ seq < 2 ^ 32)
  | .boxListArrival _ _ => true
  | .batchWaitExpiry shaper _ svc => decide (shaper < 8 ∧ svc < 4)
  | .flush shaper => decide (shaper < 8)
  | .testStandin shaper => decide (shaper < 8)
  | .batchDispatch shaper _ svc => decide (shaper < 8 ∧ svc < 4)
  | .jobStart _ => true
  | .jobPlanGrant _ => true
  | .decode _ _ => true
  | .shape _ _ => true
  | .cropResize _ _ => true
  | .gather _ _ _ => true
  | .emit _ _ => true
  | .matmul _ _ => true
  | .vec _ _ => true
  | .rowstat _ _ => true
  | .softmax _ _ => true
  | .norm _ _ => true
  | .tblLoad _ _ => true
  | .tblSwitch => true
  | .chain _ _ => true
  | .chainStepCommit _ _ _ => true
  | .optStep _ _ => true
  | .conv _ _ => true
  | .convDw _ _ => true
  | .convFft _ _ => true
  | .spectrumJob _ _ _ => true
  | .pool _ _ => true
  | .argmaxC _ _ => true
  | .roiAlign _ _ => true
  | .tileJobPlacement svc => decide (svc < 4)
  | .tileIssue core => decide (core < 64)
  | .chunkStaged core _ => decide (core < 64)
  | .drainRow core row lane _ _ => decide (core < 64 ∧ row < 512 ∧ lane < 516)
  | .tileCommit core => decide (core < 64)
  | .checkRunDone core _ => decide (core < 64)
  | .foldJob _ _ => true
  | .secondPassIssue _ _ => true
  | .ckInject core => decide (core < 64)
  | .coreOffline core => decide (core < 64)
  | .coreOnline core => decide (core < 64)
  | .mrvProbe core => decide (core < 64)
  | .boxes _ _ => true
  | .nms _ _ => true
  | .topk _ _ => true
  | .iou _ _ => true
  | .hset _ _ => true
  | .knn _ _ => true
  | .assign _ _ => true
  | .track _ _ => true
  | .sgsOperationCommit station => decide (station < 4)
  | .sgsOffline station _ => decide (station < 4)
  | .sgsMoveDone stream => decide (stream < 128)
  | .xfrSend _ _ => true
  | .xfrRecv _ _ => true
  | .xfrColl _ _ => true
  | .preemptionDecision svc => decide (svc < 4)
  | .contextSaveDone core _ => decide (core < 64)
  | .saveAreaRetry svc => decide (svc < 4)
  | .contextRestore core block row lane _ _ => decide (core < 64 ∧ block < 32 ∧ row < 16 ∧ lane < 256)
  | .remoteResponse core _ => decide (core < 64)
  | .saveAll => true
  | .saveAllComplete => true
  | .resumeAll => true
  | .schedClsCommit => true
  | .classEnable svc _ => decide (svc < 4)
  | .classLehrEnd svc => decide (svc < 4)
  | .starveCheck svc => decide (svc < 4)
  | .maxwaitClear svc => decide (svc < 4)
  | .fabricRequestGrant heads => heads.all (fun h => decide (h.svc < 4) && decide (h.ticket < 2 ^ 32))
  | .poolDraw owner cls _ svc _ => decide (owner < 32 ∧ cls < 8 ∧ svc < 4)
  | .stalledDrawGrant cls => decide (cls < 8)
  | .poolFree cls _ => decide (cls < 8)
  | .poolRefill cls _ => decide (cls < 8)
  | .poolEnable cls _ => decide (cls < 8)
  | .poolDisable cls _ => decide (cls < 8)
  | .poolLehrEnd cls => decide (cls < 8)
  | .poolResWrite owner cls _ => decide (owner < 32 ∧ cls < 8)
  | .poolThreshWrite cls _ => decide (cls < 8)
  | .sbPinnedAlloc cluster svc _ _ => decide (cluster < 8) && decide (svc < 4)
  | .wayLinePass cluster way _ old acc => decide (cluster < 8 ∧ way < 16 ∧ (old = [] ∨ old.length = 64)) &&
      acc.all (fun a => decide (a.port < 12) && decide (1 ≤ a.data.length) && decide (a.data.length ≤ 64))
  | .onChipEccError kind _ _ _ _ => decide (kind < 7)
  | .secureSramWipeDone => true
  | .hbmRequestIssue pch _ _ _ => decide (pch < 64)
  | .hbmPoisonRead _ _ _ => true
  | .urgencyRise pch _ => decide (pch < 64)
  | .refresh pch => decide (pch < 64)
  | .hbmTempReading stack _ => decide (stack < 2)
  | .hbmTrainingDone stack pch _ => decide (stack < 2 ∧ pch < 64)
  | .dqTracking pch => decide (pch < 64)
  | .patrolScrub rank _ _ => decide (rank < 6)
  | .frameReplaceCopyDone _ => true
  | .rankRetire rank _ => decide (rank < 6)
  | .retire rank => decide (rank < 6)
  | .migrationDone => true
  | .rankDrainDone rank => decide (rank < 6)
  | .hbmPortMaxlatClear port => decide (port < 24)
  | .lnkTopoWrite _ => true
  | .lnkPortEnable port _ => decide (port < 4)
  | .lnkPortLehrEnd port => decide (port < 4)
  | .portTrainingDone port _ _ _ => decide (port < 4)
  | .flitReceive port _ _ _ _ => decide (port < 4)
  | .replayRequest port _ => decide (port < 4)
  | .creditReturn port _ _ _ => decide (port < 4)
  | .lnkLaneFailure port lane => decide (port < 4 ∧ lane < 8)
  | .portDown port => decide (port < 4)
  | .topologyUpdate dev _ => decide (dev < 8)
  | .tileArrival port _ => decide (port < 4)
  | .receipt dev _ _ => decide (dev < 8)
  | .ackTimeout dev _ => decide (dev < 8)
  | .releaseTile dev _ => decide (dev < 8)
  | .rejoinTimeout dev => decide (dev < 8)
  | .peerRejoin port dev => decide (port < 4 ∧ dev < 8)
  | .orphanTimeout _ => true
  | .fallbackTimeout _ _ => true
  | .recordEntryClear entry => decide (entry < 128)
  | .clearAll => true
  | .hangDetection _ _ => true
  | .hlthUnfence _ => true
  | .selfTestDone _ _ _ => true
  | .marginPlanDue => true
  | .idleMoment => true
  | .planForced => true
  | .planNow => true
  | .ageingMeasurementDone _ _ _ => true
  | .marginPlanEnd => true
  | .hoist => true
  | .snapInEdge .. => true
  | .snapTimeMatch => true
  | .snapArm => true
  | .furlIdleExpiry => true
  | .furlLehrEnd => true
  | .wakeEvent => true
  | .d3hotWrite => true
  | .d0Write => true
  | .clockGate _ => true
  | .clockStart _ => true
  | .railReadback rail _ => decide (rail < 12)
  | .railFault rail => decide (rail < 12)
  | .throttleStep _ => true
  | .thermalTrip => true
  | .challenge => true
  | .provision => true
  | .endorse => true
  | .production => true
  | .returnCmd => true
  | .terminate => true
  | .revoke slot => decide (slot < 3)
  | .lcCommandDone => true
  | .keyDerivationDone => true
  | .burgeeGo => true
  | .burgeeDone => true
  | .quoteGo => true
  | .quoteDone => true
  | .svnCommit _ => true
  | .recovGo => true
  | .imageVerifyDone _ _ => true
  | .tamperEvent source rail => decide (source < 5 ∧ rail ≤ 12)
  | .secTamperClr _ => true
  | .debugPortAccess _ _ => true
  | .netLinkLost port => decide (port < 2)
  | .announceReceiptTimeout => true
  | .rstPorNRise _ => true
  | .resumeAllComplete => true
  | .collectiveChunkArrival port _ => decide (port < 4)
  | .pcieLinkUp _ _ => true

end Sys2Proof
end

