-- ==== Sys2Proof/Tests/Slice0.lean ====
section
/-! SUPPORT. Tests: ill-formed commands are refused, single steps against the spec's own numbers, and for every statement a concrete
state and operands that meet its hypotheses. -/

set_option Elab.async false

namespace Sys2Proof.Tests

open Sys2Proof Sys2Proof.Machine

/-- The state after a reset has ended: as `State.reset`, with no reset in progress. -/
def base : State := { State.reset with pwr := { State.reset.pwr with inReset := none } }

/-- The outcome is a next state. -/
def goes (o : Host.Outcome State Fault Refusal) : Bool :=
  match o with
  | .next _ => true
  | _ => false

theorem next_of {o : Host.Outcome State Fault Refusal} (h : goes o = true) : ∃ t, o = .next t := by
  cases o with
  | next t => exact ⟨t, rfl⟩
  | fault _ => cases h
  | refused _ => cases h

/-- `base` with some register fields written. -/
def regs (l : List (RegField × Nat)) : State := l.foldl (fun s q => s.wr q.1 q.2) base

/-- A command slot: opcode, and further fields. -/
def slot (op : Nat) (l : List (Nat × Nat × Nat)) : BitVec 512 := BitVec.ofNat 512 (packBits ((32, 8, op) :: l))

/-- A command with JOURNAL_INDEX 1 of ring 0, in flight. -/
def cmd (op : Nat) (l : List (Nat × Nat × Nat) := []) : Cmd :=
  { jidx := 1, slot := slot op l, ring := 0, slotIdx := 0, ct := {}, mono := 0 }

/-- A state with some commands in flight. -/
def withCmds (s : State) (l : List Cmd) : State := { s with jrnl := { s.jrnl with cmds := l } }

theorem test_meets_EmptyQueueIsOneTick : State.reset.pending = [] := by decide +kernel

theorem test_meets_AStepTakesExactlyTheFrontCommand : ∃ t, step { State.reset with pending := [.hoist, .wakeEvent] } = .next t :=
  next_of (by decide +kernel)

theorem test_meets_CanonicalTablesStayCanonical : canonical State.reset ∧ ∃ t, step State.reset = .next t := by
  refine ⟨?_, next_of (by decide +kernel)⟩
  simp only [canonical]
  decide +kernel

theorem test_meets_TerminatedIsFinal :
    terminated { State.reset with sec := { State.reset.sec with lc := [4, 4, 4] } } ∧
      ∃ t, step { State.reset with sec := { State.reset.sec with lc := [4, 4, 4] } } = .next t := by
  refine ⟨?_, next_of (by decide +kernel)⟩
  simp only [terminated]
  decide +kernel

theorem test_meets_ReadsLatchTheirPartners :
    (reaches base Reg.TIME_MONO_LO ∧ hiOf Reg.TIME_MONO_LO = some Reg.TIME_MONO_HI ∧ Reg.TIME_MONO_LO < 2 ^ 26) ∧
      (reaches base Reg.TIME_RATE ∧ latchesOf Reg.TIME_RATE = []) ∧ reaches base Reg.TIME_CLK_SEC_LO ∧
      reaches base (Reg.TIME_TPI_SEC_LO 0) ∧ reaches base (Reg.TIME_TPI_SEC_LO 1) ∧
      (base.served Reg.TIME_MONO_HI = true ∧ (base.latch Reg.TIME_MONO_HI).latched Reg.TIME_MONO_HI = some 0) ∧
      base.served Reg.TIME_RATE = true ∧ base.latched Reg.TIME_RATE = none ∧ woMask Reg.TIME_RATE = 0 := by
  simp only [reaches]
  decide +kernel

theorem test_meets_RegisterWritesFollowTheirAccessCodes :
    (reaches base Reg.HIF_CTRL ∧ Reg.HIF_CTRL ∈ [Reg.HIF_CTRL, Reg.HIF_ERR] ∧ (rowOf Reg.HIF_CTRL).isSome = true) ∧
      (reaches base 0xFFFFC ∧ rowOf 0xFFFFC = none ∧ ¬(0x1E01000 ≤ 0xFFFFC ∧ 0xFFFFC < 0x1E02000)) ∧ (0x48 : Nat) ≠ 0x44 ∧ ((7#4) ≠ 15#4 ∧ base.rd Reg.HIF_ERR_VALID = 0) ∧
      base.rd Reg.SEC_STATUS_DEBUG_OPEN = 1 ∧ Reg.HIF_CTRL < 0x4000000 ∧ Reg.HIF_CTRL % 4 = 0 := by
  simp only [reaches]
  decide +kernel

theorem test_meets_BarRequestsAreServedOrTurnedAway :
    ((∀ i, i < 8 → reaches base (4 * ((0x38 + i) / 4))) ∧ barFits 0x38 8 = true) ∧
      (base.barRefused = false ∧ barFits 0x3C 4 = true ∧ base.rd Reg.HIF_ERR_VALID = 0 ∧ barFits 0x3C 8 = false ∧ barFits 0 65 = false ∧
        0x3C + 4 ≤ 2 ^ 26 ∧ [((5#32 : BitVec 32), (15#4 : BitVec 4))].length = (0x3C + 4 - 1) / 4 + 1 - 0x3C / 4) ∧
      ({ base with hif := { base.hif with d3hot := true } }).hif.d3hot = true ∧ (regs [(Reg.PWR_STATUS_STATE, 4)]).rd Reg.PWR_STATUS_STATE = 4 := by
  simp only [reaches]
  decide +kernel

/-- Ring 0 ACTIVE, a poll read outstanding. -/
def polling : State := (regs [(Reg.HIF_CRING_STATUS_STATE 0, 1), (Reg.HIF_CRING_SEQ0_SEQ0 0, 1), (Reg.HIF_CRING_NEXT_NEXT 0, 1),
  (Reg.HIF_PRING_STATUS_STATE 0, 1), (Reg.HIF_PRING_CFG_LOG2_BLOCKS 0, 6)]).setCring 0 { polling := true }

theorem test_meets_CommandSlotsArePolledTakenAndAccepted :
    let empty := slot 0x01 []
    let torn := slot 0x01 [(0, 32, 1)]
    let good := slot 0x01 [(0, 32, 1), (480, 32, 1)]
    let bad := slot 0xFF [(0, 32, 1), (480, 32, 1)]
    let w := (polling.setCring 0 { wait := some { slot := good } }).setPring 0 { cons := some 0 }
    let again := fun n => polling.setCring 0 { torn := some n }
    ((∀ c ∈ [0, 15], (polling.setCring 0 {}).untranslated false (pagesOf ((polling.setCring 0 {}).tagAddr c ((polling.setCring 0 {}).pollTag c)) 64) = []) ∧
        ∃ c ∈ [0, 15], (polling.setCring 0 {}).pollable c = true) ∧
      ((polling.cring 0).polling = true ∧ (polling.cring 0).wait = none ∧ slotTag empty ≠ polling.expTag 0 ∧ slotTag torn = polling.expTag 0 ∧ slotEcho torn ≠ slotTag torn) ∧
      (slotTag good = polling.expTag 0 ∧ slotEcho good = slotTag good ∧ polling.entryFree = true ∧ polling.slotCheck good = none) ∧
      (∃ x ∈ [polling.setCring 0 { polling := true, wait := some { slot := good } }], (x.cring 0).polling = true ∧ (x.cring 0).wait = some { slot := good }) ∧
      (slotTag bad = polling.expTag 0 ∧ slotEcho bad = slotTag bad ∧ polling.slotCheck bad = some (0x0102, 0xFF, 0)) ∧
      (((again 2).cring 0).torn = some 2 ∧ ((again 3).cring 0).torn = some 3 ∧ slotTag torn = (again 3).expTag 0) ∧
      ((w.cring 0).wait = some { slot := good } ∧ 1 ≤ w.cState 0 ∧ w.cState 0 ≤ 4 ∧ w.jrnl.reachable = true ∧ w.entryFree = true ∧ w.logRoom = true ∧
        w.pState (w.rd (Reg.HIF_CRING_CFG_PRING_ACK 0)) = 1 ∧ w.ringSeq (w.rd (Reg.HIF_CRING_CFG_PRING_ACK 0)) ≠ 0 ∧
        (w.pring (w.rd (Reg.HIF_CRING_CFG_PRING_ACK 0))).mid = none ∧ w.acceptXlate (w.rd (Reg.HIF_CRING_CFG_PRING_ACK 0)) = [] ∧
        w.refusalWaits 0 (w.rd (Reg.HIF_CRING_CFG_PRING_ACK 0)) = false ∧ (w.pring (w.rd (Reg.HIF_CRING_CFG_PRING_ACK 0))).cons.isSome = true ∧
        1 ≤ w.freeBlocks (w.rd (Reg.HIF_CRING_CFG_PRING_ACK 0))) ∧
      reaches base (Reg.HIF_CRING_SEQ0 15) ∧ base.cState 15 = 0 := by
  simp only [reaches]
  decide +kernel

theorem test_meets_RingsEnableDrainAndStop :
    let on := regs [(Reg.HIF_JRNL_CFG_ENABLE, 1), (Reg.HIF_CRING_SEQ0_SEQ0 15, 1), (Reg.HIF_PRING_SEQ_LO 63 |> fun a => ⟨a, 0, 32⟩, 1),
      (Reg.HIF_CRING_CFG_LOG2_SLOTS 0, 16), (Reg.HIF_PRING_CFG_LOG2_BLOCKS 0, 20)]
    let cr := fun n => regs [(Reg.HIF_CRING_STATUS_STATE 0, n), (Reg.HIF_CRING_CFG_LOG2_SLOTS 0, 16)]
    let pr := fun n => regs [(Reg.HIF_PRING_STATUS_STATE 0, n), (Reg.HIF_PRING_CFG_LOG2_BLOCKS 0, 20)]
    (reaches on (Reg.HIF_CRING_CFG 15) ∧ on.cState 15 = 0 ∧ on.rd Reg.HIF_JRNL_CFG_ENABLE = 1 ∧ on.rd Reg.HIF_JRNL_CFG_DRAINING = 0 ∧
        bitsOf (4#32).toNat 0 5 = 4 ∧ 1 ≤ on.rd (Reg.HIF_CRING_SEQ0_SEQ0 15) ∧ on.rd (Reg.HIF_CRING_SEQ0_SEQ0 15) + 2 ^ 4 ≤ 2 ^ 32) ∧
      (reaches base (Reg.HIF_CRING_CFG 0) ∧ base.cState 0 = 0 ∧ bitsOf (3#32).toNat 0 5 < 4 ∧ 16 < bitsOf (17#32).toNat 0 5) ∧
      ((∀ n ∈ [1, 2, 3, 4, 5], reaches (cr n) (Reg.HIF_CRING_CFG 0) ∧ (cr n).cState 0 = n ∧ (cr n).cringQuiet 0 = true ∧
        bitsOf (16#32).toNat 0 5 = (cr n).rd (Reg.HIF_CRING_CFG_LOG2_SLOTS 0) ∧
        bitsOf (16#32).toNat 8 6 = (cr n).rd (Reg.HIF_CRING_CFG_PRING_ACK 0))) ∧
      (reaches on (Reg.HIF_PRING_CFG 63) ∧ on.pState 63 = 0 ∧ on.ringSeq 63 ≠ 0 ∧ 0 ≤ on.produced 63 ∧ on.produced 63 ≤ 0 + 2 ^ 6 ∧
        bitsOf (6#32).toNat 0 5 = 6 ∧ on.untranslated false (pagesOf (on.consAddr 63) 8) = []) ∧
      (reaches base (Reg.HIF_PRING_CFG 0) ∧ base.pState 0 = 0 ∧ bitsOf (5#32).toNat 0 5 < 6 ∧ 20 < bitsOf (21#32).toNat 0 5) ∧
      ∀ n ∈ [1, 3, 4, 5], reaches (pr n) (Reg.HIF_PRING_CFG 0) ∧ (pr n).pState 0 = n ∧
        bitsOf (20#32).toNat 0 5 = (pr n).rd (Reg.HIF_PRING_CFG_LOG2_BLOCKS 0) ∧
        bitsOf (20#32).toNat 8 8 = (pr n).rd (Reg.HIF_PRING_CFG_VECTOR 0) := by
  simp only [reaches]
  decide +kernel

theorem test_meets_NopFenceAndStatReqEnd :
    (withCmds base [cmd 0x01]).running 1 0x01 = some (cmd 0x01) ∧
      ((withCmds base [cmd 0x02]).running 1 0x02 = some (cmd 0x02) ∧ ∀ d ∈ [cmd 0x02], d.ring = 0 → seqBefore d.jidx 1 = false) ∧
      ((withCmds base [{ cmd 0x01 with jidx := 0 }, cmd 0x02]).running 1 0x02 = some (cmd 0x02) ∧ seqBefore 0 1 = true) ∧
      (withCmds base [cmd 0x40]).running 1 0x40 = some (cmd 0x40) := by
  decide +kernel

theorem test_meets_ProgramsLoadAndUnload :
    let load := withCmds base [cmd 0x10 [(192, 32, 4)]]
    let st := fun n => (load.wr (Reg.GLB_PROG_STATUS_STATE 0) n)
    let unl := fun n => ((withCmds base [cmd 0x11]).wr (Reg.GLB_PROG_STATUS_STATE 0) n)
    let got := fun x => load.setProg 31 { loading := some (1, x, [1, 2, 3, 4]) }
    let gone := fun x => (withCmds base [cmd 0x11]).setProg 31 { unloading := some 1, pendLoad := x }
    (load.running 1 0x10 = some (cmd 0x10 [(192, 32, 4)]) ∧ (cmd 0x10).waiting = false ∧ (load.fetchedObj (cmd 0x10 [(192, 32, 4)])).2 = true ∧ [1, 2, 3, 4].length = slotLength (cmd 0x10 [(192, 32, 4)]).slot ∧
        load.olderOn (cmd 0x10 [(192, 32, 4)]) 0 [0x10, 0x11] = [] ∧ load.progState 0 = 0) ∧
      ((st 2).running 1 0x10 = some (cmd 0x10 [(192, 32, 4)]) ∧ ((st 2).fetchedObj (cmd 0x10 [(192, 32, 4)])).2 = true ∧
        (st 2).olderOn (cmd 0x10 [(192, 32, 4)]) 0 [0x10, 0x11] = [] ∧ 2 ≤ (st 2).progState 0) ∧
      (((got none).prog 31).loading = some (1, none, [1, 2, 3, 4]) ∧ (got none).cmd? 1 = some (cmd 0x10 [(192, 32, 4)])) ∧
      ((got (some (0x0502, 0, 0))).prog 31).loading = some (1, some (0x0502, 0, 0), [1, 2, 3, 4]) ∧
      (∀ n ∈ [0, 2], (unl n).running 1 0x11 = some (cmd 0x11) ∧ (cmd 0x11).waiting = false ∧ (unl n).olderOn (cmd 0x11) 0 [0x10, 0x11] = [] ∧ (unl n).progState 0 = n) ∧
      ∀ x ∈ [none, some (2, [1])], ((gone x).prog 31).unloading = some 1 ∧ (gone x).cmd? 1 = some (cmd 0x11) ∧
        (gone x).progFree (cmd 0x11) 31 = true ∧ ((gone x).prog 31).pendLoad = x := by
  dsimp only
  repeat' apply And.intro
  all_goals decide +kernel

theorem test_meets_JournalEnablesDrainsAndRecovers :
    let lo : BitVec 32 := BitVec.ofNat 32 (packBits [(8, 5, 10), (0, 5, 8)])
    let hi : BitVec 32 := BitVec.ofNat 32 (packBits [(8, 5, 22), (0, 5, 16)])
    let dr := regs [(Reg.HIF_JRNL_CFG_DRAINING, 1), (Reg.HIF_JRNL_CFG_LOG2_EMIT, 10), (Reg.HIF_JRNL_CFG_LOG2_ENTRIES, 8)]
    let on := regs [(Reg.HIF_JRNL_CFG_ENABLE, 1), (Reg.HIF_JRNL_CFG_LOG2_EMIT, 10), (Reg.HIF_JRNL_CFG_LOG2_ENTRIES, 8)]
    (reaches base Reg.HIF_JRNL_CFG ∧ base.rd Reg.HIF_JRNL_CFG_ENABLE = 0 ∧ base.rd Reg.HIF_JRNL_CFG_DRAINING = 0 ∧
        bitsOf lo.toNat 8 5 = 10 ∧ bitsOf lo.toNat 0 5 = 8 ∧ bitsOf hi.toNat 8 5 = 22 ∧ bitsOf hi.toNat 0 5 = 16 ∧
        bitsOf (0#32).toNat 8 5 < 10) ∧
      (reaches dr Reg.HIF_JRNL_CFG ∧ dr.rd Reg.HIF_JRNL_CFG_DRAINING = 1 ∧ bitsOf lo.toNat 8 5 = dr.rd Reg.HIF_JRNL_CFG_LOG2_EMIT ∧
        bitsOf lo.toNat 0 5 = dr.rd Reg.HIF_JRNL_CFG_LOG2_ENTRIES ∧ dr.jrnl.entries.all (fun e => e.2.st != .accepted) = true) ∧
      (reaches (regs [(Reg.HIF_JRNL_CFG_MIRROR_VALID, 1)]) Reg.HIF_JRNL_CFG ∧
        (regs [(Reg.HIF_JRNL_CFG_MIRROR_VALID, 1)]).rd Reg.HIF_JRNL_CFG_MIRROR_VALID = 1) ∧
      (reaches on Reg.HIF_JRNL_CFG ∧ (∀ c, c < 16 → on.cState c = 0) ∧ on.rd Reg.HIF_JRNL_CFG_ENABLE = 1 ∧
        bitsOf lo.toNat 8 5 = on.rd Reg.HIF_JRNL_CFG_LOG2_EMIT ∧ bitsOf lo.toNat 0 5 = on.rd Reg.HIF_JRNL_CFG_LOG2_ENTRIES) ∧
      (reaches polling Reg.HIF_JRNL_CFG ∧ polling.cState 0 ≠ 0) ∧
      (regs [(Reg.HIF_JRNL_CFG_RECOVERING, 1)]).rd Reg.HIF_JRNL_CFG_RECOVERING = 1 ∧
      ({ base with jrnl := { base.jrnl with rebuilding := true } }).jrnl.rebuilding = true := by
  simp only [reaches]
  decide +kernel

theorem test_meets_EveryCommandChangesOnlyItsParts : (∃ t, exec .hoist base = .next t) ∧ Part.jobs ∉ mayChange .hoist := by
  exact ⟨next_of (by decide +kernel), by decide +kernel⟩

theorem test_meets_PennantsMessagesAndRereads :
    let dev : Pn := { ty := 0x12, exts := [1] }
    let ref : Pn := { ty := 0x12, key := .refusal 0 }
    let on := regs [(Reg.HIF_PRING_STATUS_STATE 0, 1), (Reg.HIF_PRING_CFG_LOG2_BLOCKS 0, 6)]
    let s := fun p => on.setPring 0 { ready := [p], cons := some 0 }
    let full := on.setPring 0 { stalled := some 2, cons := some 0 }
    let due := base.setPring 63 { timer := true, unann := 1 }
    (∀ p ∈ [dev, ref], (s p).pState 0 = 1 ∧ (s p).nextPn 0 = some p ∧ p.rerun = false ∧ (s p).needXlate 0 (1 + p.exts.length) p = [] ∧
        ((s p).pring 0).cons.isSome = true ∧ 1 + p.exts.length ≤ (s p).freeBlocks 0 ∧ (s p).ringSeq 0 ≠ 0 ∧
        (s p).ringSeq 0 + 1 < 2 ^ 64 ∧ (s p).produced 0 + 1 + p.exts.length < 2 ^ 64) ∧
      (full.pState 0 = 1 ∧ (full.pring 0).stalled = some 2 ∧ full.consBad 0 0 = false ∧ full.consBad 0 1 = true ∧
        full.untranslated false (pagesOf (full.consAddr 0) 8) = []) ∧
      ((due.pring 63).timer = true ∧ 0 < (due.pring 63).unann) ∧ reaches base (Reg.MSIX_CTRL 255) := by
  simp only [reaches]
  decide +kernel

theorem test_meets_EveryPennantTakesTheNextRingSeqAndBlocks :
    let p : Pn := { ty := 0x01, key := .frame 0 5 none, exts := [1] }
    let s := (regs [(Reg.HIF_PRING_STATUS_STATE 0, 1), (Reg.HIF_PRING_CFG_LOG2_BLOCKS 0, 6)]).setPring 0 { ready := [p], cons := some 0 }
    s.pState 0 = 1 ∧ s.nextPn 0 = some p ∧ s.matchRec p 0 = none ∧ s.logStalls p = false ∧ s.needXlate 0 2 p = [] ∧
      (s.pring 0).cons.isSome = true ∧ 2 ≤ s.freeBlocks 0 ∧ s.ringSeq 0 ≠ 0 ∧ s.ringSeq 0 + 1 < 2 ^ 64 ∧ s.produced 0 + 2 < 2 ^ 64 := by
  decide +kernel


/-- An instruction word: its OPC and further fields. -/
def word (opc : Nat) (l : List (Nat × Nat × Nat)) : BitVec 128 := BitVec.ofNat 128 (packBits ((116, 8, opc) :: l))

/-- A program of one route. -/
def prog1 (ws : List (BitVec 128)) (plan : List (BitVec 128) := []) (descs : List (BitVec 512) := []) : Prog :=
  { routes := [(0, ws.length)], words := ws, plan := plan, descs := descs }

/-- A started job of route 0 of program 0. -/
def job1 : Job := { id := 1, kind := .frame 0 0 none, prog := 0, route := 0, svc := 0, ticket := 5, started := true, plan := some [] }

/-- Program 0 loaded, and one job. -/
def withJob (s : State) (p : Prog) (j : Job) : State := { (s.setProg 0 p).wr (Reg.GLB_PROG_STATUS_STATE 0) 2 with jobs := [j] }

theorem test_meets_TranslationsFailedReadsAndTheLink :
    let ats := { regs [(Reg.HIF_CTRL_ATS_USE, 1), (Reg.HIF_CRING_STATUS_STATE 15, 1), (Reg.HIF_PRING_STATUS_STATE 63, 1)] with
      hif := { (base.setCfg 0x15C 0x80000000).hif with xlate := [0], invals := [{ tag := 7, page := 1, npages := 1 }] } }
    let poll := fun n => ((regs [(Reg.HIF_CRING_STATUS_STATE 0, n)]).setCring 0 { polling := true })
    let up := regs [(Reg.HIF_STATUS_LINK_UP, 1), (Reg.HIF_STATUS_LINK_WIDTH, 16)]
    let on : State := { base with pwr := { base.pwr with pwrGood := true, perstN := true } }
    (ats.hif.invals.length < 32) ∧
      (ats.hif.invals.find? (fun i => i.tag == 7) = some { tag := 7, page := 1, npages := 1 } ∧
        let p := ats.setCring 0 { polling := true }
        p.hif.invals.find? (fun i => i.tag == 7) = some { tag := 7, page := 1, npages := 1 } ∧ (p.cring 0).polling = true ∧ p.atsOn = true ∧
        p.usesPages 1 1 = false ∧ p.usesPages 0 1 = true) ∧
      (ats.atsOn = true ∧ ats.hif.xlate.contains (4095 / 4096) = true ∧ ats.hif.xlateVoid.contains (4095 / 4096) = false ∧ ats.cState 15 = 1 ∧ ats.pringUsed 63 = true ∧
        ({ ats with hif := { ats.hif with xlateVoid := [0] } } : State).hif.xlateVoid.contains 0 = true) ∧
      (∀ n ∈ [1, 2, 3, 4], (poll n).readsNow (.slot 0) = true ∧ (poll n).cState 0 = n) ∧
      ({ poll 1 with hif := { (poll 1).hif with poison := [(.slot 0, 64, 2)] } } : State).readsNow (.slot 0) = true ∧
      ((poll 1).readsNow (.slot 0) = true ∧ (poll 1).hif.poison = []) ∧
      (15 ∉ up.hif.lanesBad ∧ up.rd Reg.HIF_STATUS_LINK_UP = 1) ∧
      on.pwr.pwrGood = true ∧ on.pwr.perstN = true ∧ 16 ≤ pcieWidth on.hif.lanesBad := by
  decide +kernel

/-- The smallest stream contract: codec 1, profile 0, 16 by 16 samples, on demand. -/
def contract1 : BitVec 512 := BitVec.ofNat 512 (packBits [(212, 4, 1), (272, 16, 16), (256, 16, 16), (320, 32, 1), (352, 32, 1)])

/-- Pennant ring 0 ACTIVE, the decoded-picture pool reserved, and stream 0 in a state, with one command. -/
def strm (n : Nat) (c : Cmd) (x : Stream := {}) : State :=
  (withCmds (regs [(Reg.HIF_PRING_STATUS_STATE 0, 1), (Reg.POOL_OWN_RES_RES 1 7, 64), (Reg.DEC_STRM_STATE_STATE 0, n),
    (Reg.GLB_PROG_STATUS_STATE 0, 2)]) [c]).setStream 0 x

theorem test_meets_StreamsOpenBindCloseAndTakeAccessUnits :
    let k := contract1.toNat
    let bnd : Binding := { prog := 0, route := 0, svc := 0 }
    let o := strm 0 (cmd 0x20)
    let b := (strm 1 (cmd 0x21)).setProg 0 (prog1 [word 0x20 []])
    let gone := (strm 1 (cmd 0x21)).wr (Reg.GLB_PROG_STATUS_STATE 0) 0
    let cl := strm 1 (cmd 0x22)
    let fin := strm 3 { cmd 0x22 with waiting := true } { closing := some 1 }
    let au := fun n => strm n (cmd 0x30) { bind := some bnd }
    let fr : Frame := { seq := 9, au := some 1, ct := {}, mono := 0, pts := 0, bytes := 4096, bind := bnd }
    let got := { strm 1 (cmd 0x30) { frames := [fr] } with jobs := [{ job1 with kind := .frame 0 9 (some 1) }] }
    (o.running 1 0x20 = some (cmd 0x20) ∧ (cmd 0x20).replay = false ∧ (o.fetchedObj (cmd 0x20)).2 = true ∧ slotStream (cmd 0x20).slot = 0 ∧ o.strm 0 = 0 ∧ o.earlierOf (cmd 0x20) [0x20, 0x22] = false ∧
        o.openStep1 k false = none ∧ o.openStep2 k 0 = true ∧ ¬(kSrc k = 1 ∧ kFps k = 0) ∧ o.place k = some 0 ∧
        (o.commit (commitBufs k)).isSome = true) ∧
      (o.openStep1 0 false = some (320, 0)) ∧ ((strm 3 (cmd 0x20)).running 1 0x20 = some (cmd 0x20) ∧ (strm 3 (cmd 0x20)).strm 0 = 3 ∧
        ((strm 3 (cmd 0x20)).fetchedObj (cmd 0x20)).2 = true) ∧
      (b.running 1 0x21 = some (cmd 0x21) ∧ b.earlierOf (cmd 0x21) [0x20, 0x21, 0x22, 0x30] = false ∧ b.strm 0 ≠ 0 ∧
        b.progUse (cmd 0x21) 0 = .use ∧ b.routeKind (cmd 0x21).slot = some true ∧ (b.sgsBind 0 0 0 0).2 = none) ∧
      (gone.running 1 0x21 = some (cmd 0x21) ∧ gone.earlierOf (cmd 0x21) [0x20, 0x21, 0x22, 0x30] = false ∧
        gone.strm (slotStream (cmd 0x21).slot) ≠ 0 ∧ gone.progUse (cmd 0x21) (paramProg (cmd 0x21).slot) = .gone) ∧
      (let z := strm 0 (cmd 0x21); z.running 1 0x21 = some (cmd 0x21) ∧ z.earlierOf (cmd 0x21) [0x20, 0x21, 0x22, 0x30] = false ∧ z.strm 0 = 0) ∧
      (cl.running 1 0x22 = some (cmd 0x22) ∧ (cmd 0x22).waiting = false ∧ cl.earlierOf (cmd 0x22) [0x20, 0x21, 0x22, 0x30] = false ∧ cl.strm 0 = 1) ∧
      ((fin.stream 0).closing.bind fin.cmd? = some { cmd 0x22 with waiting := true } ∧ fin.streamDrained 0 = true ∧
        (fin.stream 0).waitOpen = none) ∧
      (∀ n ∈ [0, 1], (au n).running 1 0x30 = some (cmd 0x30) ∧ (au n).earlierOf (cmd 0x30) [0x20, 0x21, 0x30] = false ∧
        (au n).strm (slotStream (cmd 0x30).slot) = n ∧ ((au n).stream 0).bind = some bnd ∧ ((au n).stream 0).haltCode = 0 ∧
        (cmd 0x30).fseq = none ∧ (au n).lateCheck (cmd 0x30) 0 = none) ∧
      (let h := strm 2 (cmd 0x30) { haltCode := 0x0203 }; h.running 1 0x30 = some (cmd 0x30) ∧
        h.earlierOf (cmd 0x30) [0x20, 0x21, 0x30] = false ∧ (h.stream (slotStream (cmd 0x30).slot)).haltCode ≠ 0) ∧
      (got.stream 0).frames.find? (fun f => f.seq == 9) = some fr ∧ (got.frameJob? 0 9).isSome = true ∧ fr.ready = false ∧
      (got.auFetched fr).2 = true ∧ ((got.auFetched fr).1.draw 4 (poolFit 4096).1 (poolFit 4096).2 0 5 false).2.isSome = true := by
  decide +kernel

theorem test_meets_JobCommandsMakeStartAndGrantJobs :
    let c := cmd 0x31 [(192, 32, 64)]
    let blk := List.replicate 64 0
    let bad := List.replicate 63 0 ++ [65]
    let ok := (withCmds (base.wr (Reg.GLB_PROG_STATUS_STATE 0) 2) [c]).setProg 0 (prog1 [word 0x30 []])
    let d := cmd 0x32 [(192, 32, 128), (112, 2, 3)]
    let h := packBits [(984, 16, 1), (980, 4, 1), (848, 32, 0x3F800000)]
    let ablk := (List.range 128).map (fun i => bitsOf h (8 * i) 8)
    let ad := (withCmds (base.wr (Reg.GLB_PROG_STATUS_STATE 0) 2) [d]).setProg 0 (prog1 [word 0x30 []])
    let gone := withCmds base [c]
    let st := withJob base (prog1 [word 0x20 []]) { job1 with started := false, plan := none }
    let pl := fun owner => BitVec.ofNat 128 (packBits [(88, 40, 4096), (86, 2, 2), (81, 5, owner), (76, 5, 1)])
    let w := fun f => withJob f (prog1 [word 0x30 []] [pl 6]) { job1 with plan := none }
    let dry := w ((List.range 8).foldl (fun s n => s.setReg (Reg.POOL_CLS_FREE n) 0) base)
    (ok.running 1 0x31 = some c ∧ c.waiting = false ∧ (ok.fetchedObj c).2 = true ∧ blk.length = slotLength c.slot ∧ ok.progUse c (paramProg c.slot) = .use ∧
        ok.routeKind c.slot = some false ∧
        ((ok.prog (paramProg c.slot)).routeWords (paramRoute c.slot)).any (fun v => wOpc v == 0x4F) = false ∧
        blockBad blk 64 (slotLength c.slot) (fun h => bitsOf h 0 488 == 0) = none ∧ bad.length = slotLength c.slot ∧
        blockBad bad 64 (slotLength c.slot) (fun h => bitsOf h 0 488 == 0) = some 0xFFFFFFFF) ∧
      (gone.running 1 0x31 = some c ∧ (gone.fetchedObj c).2 = true ∧ gone.progUse c (paramProg c.slot) = .gone) ∧
      (ad.running 1 0x32 = some d ∧ d.waiting = false ∧ (ad.fetchedObj d).2 = true ∧ ablk.length = slotLength d.slot ∧ ad.progUse d (paramProg d.slot) = .use ∧
        ad.routeKind d.slot = some false ∧ paramSvc d.slot = 3 ∧ blockBad ablk 128 (slotLength d.slot) (adaptOk ad.reachable.length) = none) ∧
      ((st.job? 1).map (·.kind) = some (.frame 0 0 none) ∧ (st.job? 1).map (·.started) = some false ∧ (st.job? 1).map (·.adapt) = some none ∧
        st.bindHolds 0 0 = false ∧ st.sched.saving = false ∧ st.rd Reg.SCHED_STATUS_SAVED_ALL = 0 ∧ st.hbm.badProgs = []) ∧
      (∀ x ∈ [w base, dry], (x.job? 1) = some { job1 with plan := none } ∧
        x.jobs.all (fun k => !(k.started && k.plan.isNone && olderTicket x.ticketNow k.ticket 5)) = true) ∧
      (w base).copiesLeft { job1 with plan := none } = true ∧
      ((w base).drawPlan { job1 with plan := none } ((w base).planEntries { job1 with plan := none })).isSome = true ∧
      (dry.drawPlan { job1 with plan := none } (dry.planEntries { job1 with plan := none })).isNone = true := by
  decide +kernel

/-- The route of a job has another node that is not committed, as `openBeside` says, and that node is `k`. -/
def beside (s : State) (j : Job) (node k : Nat) : Bool :=
  decide (k < ((s.prog j.prog).routeWords j.route).length) && decide (k ≠ node) && !(j.node k).committed

theorem openBeside_of {s : State} {j : Job} {node k : Nat} (h : beside s j node k = true) : openBeside s j node := by
  simp only [beside, Bool.and_eq_true, decide_eq_true_eq, Bool.not_eq_true'] at h
  exact ⟨k, h.1.1, h.1.2, h.2⟩

/-- A plan entry of some bytes. -/
def plan1 (n : Nat) : BitVec 128 := BitVec.ofNat 128 (packBits [(88, 40, n)])

/-- A decoded picture of frame 0 of stream 0, and its sample in a batch of node 0. -/
def pic0 : Pic :=
  { stream := 0, frame := { seq := 0, au := none, ct := {}, mono := 0, pts := 0, bind := { prog := 0, route := 0, svc := 0 } }, info := {}
    w := 16, h := 16, done := true }

def sample0 : Sample := { rcd := { stream := 0, svc := 0, frame := 0, pts := 0, ct := {} }, data := [0] }

def batch0 : Batch := { key := { prog := 0, route := 0, node := 0 }, shp := 0, svc := 0, seq := 0, n := 1, samples := [sample0] }

theorem test_meets_RouteNodesRunAndCommit :
    let two := fun w => prog1 [w, word 0x68 []] [plan1 16]
    let ga := word 0x10 [(78, 2, 1), (0, 32, 16)]
    let jg := { job1 with operands := [(0, 16)] }
    let js := { job1 with operands := [(0, 15)] }
    let sg := withJob base (two ga) jg
    let ss := withJob base (two ga) js
    let dec := { withJob base (two (word 0x20 [])) job1 with dec := { base.dec with pics := [pic0] } }
    let sd : BitVec 512 := BitVec.ofNat 512 (packBits [(240, 16, 1), (224, 16, 1)])
    let sj := { pic0 with w := 1, h := 1, pix := { w := 1, h := 1, chroma := 0 } }
    let s0 := { sample0 with data := [] }
    let shp := { withJob base (prog1 [word 0x21 [], word 0x68 []] [] [sd]) job1 with
      dec := { base.dec with pics := [sj] }, shp := { base.shp with batches := [{ batch0 with samples := [s0] }] } }
    let g0 := word 0x10 [(0, 32, 1)]
    let sq := withJob base { two g0 with segs := [{ kind := 0, data := [7] }] } job1
    let jc := (job1.setNode 0 { queued := true }).setNode 1 { committed := true, out := .lists { lists := [[]] }, own := [0] }
    let crop := { withJob base (prog1 [word 0x22 [(48, 16, 1), (64, 16, 1)], word 0x50 []]) jc with dec := { base.dec with pics := [pic0] } }
    let je := job1.setNode 0 { committed := true, out := .bytes [0] }
    let em := withJob base (prog1 [word 0x50 [], word 0x68 [(80, 16, 0)], word 0x50 []]) je
    let tl := withJob base (two (word 0x44 [])) job1
    let tw := { tl with tbl := { base.tbl with gen := 1, loads := [(1, 0)] } }
    let jo := { (job1.setNode 1 { committed := true, out := .tensor { fmt := 9, cols := 1, rows := [[0]], unit := 1 } }) with adapt := some 0 }
    let os := withJob base (prog1 [word 0x4F [(64, 16, 1), (48, 16, 0xFFFF)], word 0x50 [], word 0x50 []]) jo
    (sg.nodeFor 1 0 0x10 = some (jg, ga.toNat) ∧ beside sg jg 0 1 = true ∧ gaFrom ga.toNat ≠ 0 ∧ jg.operands[gaSeg ga.toNat]? = some (0, 16) ∧
        gaOffset ga.toNat + 16 ≤ 16 ∧ 16 = (if gaLength ga.toNat = 0 then 16 - gaOffset ga.toNat else gaLength ga.toNat) ∧
        (sg.prog 0).plan[wPlan ga.toNat]? = some (plan1 16) ∧ 16 ≤ planSize (plan1 16) ∧ (sg.operandRead jg ga.toNat 16).2 = true) ∧
      (sq.nodeFor 1 0 0x10 = some (job1, g0.toNat) ∧ beside sq job1 0 1 = true ∧ gaFrom g0.toNat = 0 ∧
        gaOffset g0.toNat + 1 ≤ (sq.segOf job1 (gaSeg g0.toNat)).length ∧ gaLength g0.toNat = 1 ∧
        (sq.prog 0).plan[wPlan g0.toNat]? = some (plan1 16)) ∧
      (ss.nodeFor 1 0 0x10 = some (js, ga.toNat) ∧ js.operands[gaSeg ga.toNat]? = some (0, 15) ∧ gaLength ga.toNat ≠ 0 ∧ 15 < gaOffset ga.toNat + gaLength ga.toNat) ∧
      (dec.nodeFor 1 0 0x20 = some (job1, (word 0x20 []).toNat) ∧ beside dec job1 0 1 = true ∧
        dec.dec.pics.find? (fun p => p.stream == job1.stream && p.frame.seq == job1.frameSeq) = some pic0) ∧
      (shp.nodeFor 1 0 0x21 = some (job1, (word 0x21 []).toNat) ∧ shp.descOf 0 (shpDesc (word 0x21 []).toNat) = sd.toNat ∧
        shp.sched.saving = false ∧ shp.picOfFrame 0 0 = some sj ∧ sj.done = true ∧ sj.unusable = false ∧
        shp.samplesOf (job1.nodeKey 0) 0 0 = [s0] ∧ s0.rcd.objIndex = 0xFFFF ∧ s0.standIn = false ∧ s0.px = [] ∧ s0.data = [] ∧
        layOut sd.toNat ((shapeRows sd.toNat sj.pix (shapeWindow sd.toNat 1 1) 0 (shTH sd.toNat)).map (fun q => q.map (·.1))) ≠ []) ∧
      (crop.nodeFor 1 0 0x22 = some (jc, (word 0x22 [(48, 16, 1), (64, 16, 1)]).toNat) ∧
        jc.boxes (word 0x22 [(48, 16, 1), (64, 16, 1)]).toNat = some [] ∧ crop.donePic jc.stream jc.frameSeq = some pic0 ∧
        (jc.node 0).queued = true ∧ crop.sched.saving = false) ∧
      (em.nodeFor 1 1 0x68 = some (je, (word 0x68 [(80, 16, 0)]).toNat) ∧ beside em je 1 2 = true ∧
        (je.node (emSrc (word 0x68 [(80, 16, 0)]).toNat)).committed = true) ∧
      (tl.nodeFor 1 0 0x44 = some (job1, (word 0x44 []).toNat)) ∧
      (tw.tbl.loads = [(1, 0)] ∧ tw.job? 1 = some job1 ∧ tw.oldBound = false ∧ tw.tblEarlier 1 0 = false ∧ beside tw job1 0 1 = true) ∧
      os.nodeFor 1 0 0x4F = some (jo, (word 0x4F [(64, 16, 1), (48, 16, 0xFFFF)]).toNat) ∧ jo.adapt = some 0 ∧ beside os jo 0 2 = true ∧
      (wordSrcs (word 0x4F [(64, 16, 1), (48, 16, 0xFFFF)]).toNat).all (fun q => (jo.node q.2).committed) = true := by
  dsimp only
  repeat' apply And.intro
  all_goals decide +kernel

/-- A job whose node 0 is a core node over the outputs of node 1. -/
def coreJob : Job :=
  job1.setNode 1 { ran := true, committed := true
                   out := .tensor { fmt := 9, cols := 4096, rows := List.replicate 16 [], unit := 16 } }

/-- One row, one column, a picture of one pixel, and the statistics of a ROWSTAT. -/
def desc1 (stat : Nat) : BitVec 512 := BitVec.ofNat 512 (packBits [(416, 32, 1), (392, 24, 1), (112, 16, 1), (96, 16, 1), (220, 1, stat)])

/-- The hypotheses of a core node that runs, and of one that faults, on node 0 with an opcode. -/
def coreMeets (opc : Nat) : Bool :=
  let wd := word opc [(64, 16, 1), (48, 16, 1), (32, 16, 0xFFFF), (16, 16, 0xFFFF)]
  let w := wd.toNat
  let ds := desc1 (if opc = 0x41 then 1 else 0)
  let d := ds.toNat
  let meets := fun (size : Nat) =>
    let s := withJob base (prog1 [wd, word 0x10 []] [plan1 size] [ds]) coreJob
    let q := coreJob.srcs w
    let k := coreJob.sampling w d q
    let g := gridOf w d (rowsM d k.1) k.1
    let pl := (((s.prog 0).plan[wPlan w]?).map planSize).getD 0
    decide (s.nodeFor 1 0 opc = some (coreJob, w)) && (coreSrcs w).all (fun r => s.srcReady coreJob r.2 (r.1 == 64)) &&
      s.tblReady coreJob 0 opc && decide (s.descOf 0 (wDesc w) = d) && (roiOver w d (coreJob.node (wA w)).count q).isNone &&
      (if size = 0 then (nodeFault w d (rowsM d k.1) k.1 pl q).isSome
       else (nodeFault w d (rowsM d k.1) k.1 pl q).isNone && (s.gateOf coreJob 0).isNone && decide (0 < g.count) &&
        (List.range g.mb).all (fun m => !inputAbsent w d g (coreJob.sampleOf w d) q m))
  meets 0 && meets (2 ^ 30)

theorem test_meets_CoreNodesRunOverTheirGrid :
    [0x30, 0x34, 0x35, 0x36, 0x37, 0x38, 0x39, 0x40, 0x41, 0x42, 0x43, 0x48].all coreMeets = true ∧
      (∀ (w d : Nat) (g : Grid) (f : Nat → Nat) (q : Srcs) (t : Tensor) (m : Nat), q.a = .tensor t → t.absent = [] →
        inputAbsent w d g f q m = false) ∧
      (let w := (word 0x39 [(64, 16, 1), (48, 16, 1), (32, 16, 0xFFFF), (16, 16, 0xFFFF)]).toNat
       (roiOver w (desc1 0).toNat 1 { (coreJob.srcs w) with b := .lists { lists := [[0], [0]] } }).isSome = true) := by
  refine ⟨by decide +kernel, fun w d g f q t m h ha => ?_, by decide +kernel⟩
  simp [inputAbsent, allAbsent, h, ha]

/-- A tile job of node 0 of job 1. -/
def tile0 : TileJob := { job := 1, node := 0, tile := 0, svc := 0, ticket := 5, rows := 1 }

/-- A grid of one tile. -/
def grid1 : Grid := { m := 1, n := 1, tm := 1, mb := 1, nb := 1 }

/-- Job 1 with a core node of an opcode whose instruction has run, a grid, and a second node; classes 0 and 1 enabled. -/
def running (opc : Nat) (x : NodeSt) (c : Core := {}) : State :=
  (withJob (regs [(Reg.SCHED_CLS_CFG_STATE 0, 1), (Reg.SCHED_CLS_CFG_SHARE 0, 4), (Reg.CORE_LRW_CK_CFG_CK_EN 0, 1)])
    (prog1 [word opc [(64, 16, 1), (48, 16, 1), (32, 16, 0xFFFF), (16, 16, 0xFFFF)], word 0x10 []] [plan1 1024] [desc1 0])
    (job1.setNode 0 { x with ran := true })).setCore 0 c

theorem test_meets_TilesArePlacedIssuedStagedAndCommitted :
    let x : NodeSt := { grid := some grid1 }
    let j := job1.setNode 0 { x with ran := true }
    let rdy := { running 0x30 x with sched := { base.sched with ready := [tile0] } }
    let pl := running 0x30 x { placed := [tile0] }
    let run : RunTile := { tj := tile0, blocks := 1, chunks := 1 }
    let st := running 0x30 x { runs := [run] }
    let fin := { run with staged := [0], drained := [0] }
    let cm := running 0x30 x { runs := [fin] }
    let w := (word 0x30 [(64, 16, 1), (48, 16, 1), (32, 16, 0xFFFF), (16, 16, 0xFFFF)]).toNat
    (rdy.classNext = some 0 ∧ rdy.sched.saving = false ∧ rdy.nextOf 0 = some (tile0, 0)) ∧
      (pl.coreState 0 < 2 ∧ (pl.core 0).placed = [tile0] ∧ (pl.issueNeeds 0 tile0).isSome = true ∧ pl.job? 1 = some j) ∧
      ((st.core 0).runs = [] ++ run :: [] ∧ 0 < run.chunks ∧ 0 ∉ run.staged) ∧
      (cm.core 0).runs.find? cm.tileDone = some fin ∧ cm.job? 1 = some j ∧ cm.coreWord j 0 = some w ∧ cm.jobWord j 0 = some w ∧
      wOpc w ≠ 0x55 ∧ (j.node 0).grid = some grid1 ∧ (j.node 0).committed = false ∧ beside cm j 0 1 = true := by
  decide +kernel

theorem test_meets_RowsDrainAndNodesFoldAndStep :
    let run : RunTile := { tj := { tile0 with marver := true }, blocks := 1 }
    let dr := running 0x40 { grid := some grid1 } { runs := [run] }
    let bad : RunTile := { tj := tile0, blocks := 1, chunks := 1, staged := [0] }
    let g := { grid1 with steps := 2 }
    let ch := fun l => running 0x48 { grid := some g, steps := [(0, 0)] } { runs := [{ bad with drained := l }] }
    let inj := running 0x30 { grid := some grid1 } { runs := [{ bad with inject := true }] }
    let ck := fun l => running 0x30 {} { checks := l }
    let fg := { grid1 with fold := true, passes := 2 }
    let x : NodeSt := { grid := some fg, folded := [(0, 0)] }
    let fo := running 0x30 x
    let j := job1.setNode 0 { x with ran := true }
    let sp : NodeSt := { grid := some { grid1 with spectra := 1 } }
    let jp := job1.setNode 0 { sp with ran := true }
    let sc := running 0x36 sp
    let jc := job1.setNode 0 { grid := some g, steps := [(0, 0)], ran := true }
    let wd := fun opc => (word opc [(64, 16, 1), (48, 16, 1), (32, 16, 0xFFFF), (16, 16, 0xFFFF)]).toNat
    ((dr.core 0).runs.find? (fun r => dr.drains r 0) = some run ∧
        { dr with tbl := { dr.tbl with suspect := dr.tbl.suspect.erase 0 } }.rowCheck 0 run 0 1 0 = .pass) ∧
      ((inj.core 0).runs.find? (fun r => inj.drains r 0) = some { bad with inject := true } ∧
        { inj with tbl := { inj.tbl with suspect := inj.tbl.suspect.erase 0 } }.rowCheck 0 { bad with inject := true } 0 1 0 = .fail (some 0)) ∧
      (∀ b ∈ [true, false], ((ck [(tile0, b)]).core 0).checks = [(tile0, b)]) ∧
      (fo.job? 1 = some j ∧ (j.node 0).grid = some fg ∧ fo.jobWord j 0 = some (wd 0x30) ∧ wOpc (wd 0x30) ≠ 0x55 ∧ fg.fold = true ∧
        (j.node 0).committed = false ∧ beside fo j 0 1 = true ∧ fo.coreWord j 0 = some (wd 0x30) ∧
        (0, 0) ∈ (j.node 0).folded ∧ 0 + 1 < fg.passes ∧ (1, 0) ∉ (j.node 0).issued ∧ fg.tile 0 0 ∉ (j.node 0).gated) ∧
      (sc.job? 1 = some jp ∧ (jp.node 0).grid = some { grid1 with spectra := 1 } ∧ sc.jobWord jp 0 = some (wd 0x36) ∧
        0 ∉ (jp.node 0).spectra ∧ beside sc jp 0 1 = true) ∧
      ((ch [0]).job? 1 = some jc ∧ (jc.node 0).grid = some g ∧ (ch [0]).jobWord jc 0 = some (wd 0x48) ∧ wOpc (wd 0x48) = 0x48 ∧
        (List.range 64).find? (fun c => ((ch [0]).core c).runs.any (fun r => r.tj.job == 1 && r.tj.node == 0 && r.tj.group == 0)) = some 0 ∧
        ((jc.node 0).steps.find? (fun q => q.1 == 0)).map (·.2) = some 0 ∧ 0 < g.steps ∧
        ((ch [0]).core 0).runs.any (fun r => (r.tj.job == 1 && r.tj.node == 0 && r.tj.group == 0) && r.staged.contains 0 &&
          (List.range r.tj.rows).all (fun k => r.drained.contains k)) = true) := by
  dsimp only
  repeat' apply And.intro
  all_goals decide +kernel

theorem test_meets_CoreControlsTakeEffect :
    let at_ := fun n => regs [(Reg.CORE_LRW_STATUS_STATE 63, n), (Reg.CORE_LRW_CTRL_OFFLINE 63, 1), (Reg.CORE_MRV_PROBE_CFG_SLOT 63, 11),
      (Reg.CORE_MRV_PROBE_CFG_SEG 63, 63)]
    let busy := (at_ 1).setCore 63 { runs := [{ tj := { tile0 with marver := true }, blocks := 1 }] }
    (∀ n ∈ [0, 1, 2, 4], reaches (at_ n) (Reg.CORE_LRW_CTRL 63) ∧ (at_ n).coreState 63 = n) ∧
      ((at_ 1).needsSave 63 = false ∧ ((at_ 1).core 63).runs = [] ∧ ((at_ 1).core 63).saving = none) ∧
      (reaches busy (Reg.CORE_LRW_CTRL 63) ∧ busy.coreState 63 = 1 ∧ busy.needsSave 63 = false ∧ (busy.core 63).runs ≠ [] ∧
        ∀ r ∈ (busy.core 63).runs, busy.runsOn 63 r = true) ∧
      ((at_ 2).setCore 63 { lehr := 1 }).rd (Reg.CORE_LRW_CTRL_OFFLINE 63) = 1 ∧
      reaches (at_ 0) (Reg.CORE_MRV_PROBE_CFG 63) ∧ (at_ 0).rd (Reg.CORE_MRV_PROBE_CFG_SLOT 63) = 11 := by
  simp only [reaches]
  decide +kernel

/-- Core 0 runs a tile of class 1 and has one placed, so that a tile of class 0 finds no free core; the others are OFFLINE. -/
def full (free : Nat) (x : Core) (sc : Sched) : State :=
  let s := (List.range 63).foldl (fun s c => s.wr (Reg.CORE_LRW_STATUS_STATE (c + 1)) 4)
    ((regs [(Reg.SCHED_CLS_CFG_STATE 0, 1), (Reg.SCHED_CLS_CFG_STATE 1, 1), (Reg.CORE_LRW_STATUS_STATE 0, 1),
      (Reg.SCHED_CLU_CFG_PLACE_WIN 0, 1), (Reg.POOL_OWN_RES_RES 0 7, 4)]).setReg (Reg.POOL_CLS_FREE 7) (BitVec.ofNat 32 free))
  { (withJob s (prog1 [word 0x30 [(64, 64, 0xFFFFFFFFFFFFFFFF)]]) job1).setCore 0 x with sched := sc }

theorem test_meets_CoresAreTakenSavedAndGivenBack :
    let t1 : TileJob := { tile0 with svc := 1, ticket := 9 }
    let h : Hold := { job := 1, node := 0, group := 1, blocks := 1 }
    let x : Core := { placed := [t1], runs := [{ tj := t1, blocks := 1 }], holds := [h], cls := some 1 }
    let k : SavedCtx := { core := 0, job := 1, svc := 0, ticket := 5, holds := [h], scaleSlots := [], tags := [], unfinished := [tile0], area := 0 }
    let s := full 8 x { ready := [tile0] }
    let r := full 8 x { ready := [tile0], retry := [0] }
    let u := { r with sched := { r.sched with retry := r.sched.retry.filter (fun c => c != 0) } }
    let q := { k with blocks := [{ rows := [[1]], sums := [saveSum [1]] }] }
    let n := full 8 { x with holds := [] } { ready := [tile0] }
    let b := (List.range 32).foldl (fun s o => s.wr (Reg.POOL_OWN_RES_RES o 7) 0) (full 0 x { ready := [tile0] })
    let e := full 8 { holds := [h], saving := some k } {}
    let v := full 8 {} { saved := [k] }
    (0 ∉ s.sched.retry ∧ s.stuckTile 0 = some tile0 ∧ s.victim 0 = some 0 ∧ ((s.drawCtx 0).2.map Option.isSome) = some true) ∧
      (b.stuckTile 0 = some tile0 ∧ b.victim 0 = some 0 ∧ (b.drawCtx 0).2 = none) ∧
      (0 ∈ r.sched.retry ∧ u.stuckTile 0 = some tile0 ∧ u.victim 0 = some 0 ∧ ((u.drawCtx 0).2.map Option.isSome) = some true) ∧
      ((e.core 0).saving = some k ∧ (e.core 0).runs = [] ∧ (e.core 0).holds ≠ []) ∧
      v.sched.saving = false ∧ v.classNext = some 0 ∧ v.nextCtx 0 = some k ∧ v.ctxFits k 0 = true ∧ q.sumsHold 0 0 0 0 = true ∧ q.sumsHold 0 0 0 1 = false ∧
      (n.stuckTile 0 = some tile0 ∧ n.victim 0 = some 0 ∧ n.needsSave 0 = false ∧ ∃ r ∈ (n.core 0).runs, n.runsOn 0 r = true) := by
  decide +kernel

theorem test_meets_ClassesAndArbitersFollowTheirControls :
    let bad := regs [(Reg.SCHED_CLS_CFG_SHARE 0, 0)]
    let cls := fun n => regs [(Reg.SCHED_CLS_CFG_STATE 3, n)]
    let late := { regs [(Reg.SCHED_STARVE_STARVE_MS, 1)] with sched := { base.sched with ready := [tile0] }, time := { base.time with mono := 10 ^ 6 + 1 } }
    let a : FabHead := { leaf := 0, port := 0, svc := 0, ticket := 1 }
    let b : FabHead := { leaf := 0, port := 1, svc := 0, ticket := 0 }
    (reaches base Reg.SCHED_CLS_COMMIT ∧ base.staged.all (fun g => decide (1 ≤ g.share) && decide (g.share ≤ 16)) = true ∧
        sumNat (base.staged.map (·.share)) = 16 ∧ disjoint4 (base.staged.map (·.ways)) = true ∧ disjoint4 (base.staged.map (·.pch)) = true) ∧
      (reaches bad Reg.SCHED_CLS_COMMIT ∧ bad.staged.all (fun g => decide (1 ≤ g.share) && decide (g.share ≤ 16)) = false) ∧
      (∀ n ∈ [0, 1, 2, 3], reaches (cls n) (Reg.SCHED_CLS_CFG 3) ∧ (cls n).rd (Reg.SCHED_CLS_CFG_STATE 3) = n ∧
        ∀ c, c < 64 → (cls n).issues 3 c = false ∧ ((cls n).core c).placed = [] ∧ ((cls n).core c).cls = none) ∧
      (late.rd Reg.SCHED_STARVE_STARVE_MS ≠ 0 ∧ tile0 ∈ late.sched.ready ∧ tile0.starved = false ∧
        late.rd Reg.SCHED_STARVE_STARVE_MS * 10 ^ 6 < late.time.mono - tile0.since) ∧
      reaches base (Reg.SCHED_CLS_MAXWAIT 3) ∧
      a.leaf = b.leaf ∧ a.port ≠ b.port ∧ olderTicket base.ticketNow a.ticket b.ticket = true ∧ base.sched.arb.heads = [] := by
  simp only [reaches]
  decide +kernel

theorem test_meets_PoolsGrantFreeAndFollowTheirControls :
    let dry := (List.range 32).foldl (fun s o => s.wr (Reg.POOL_OWN_RES_RES o 7) 0) (base.setReg (Reg.POOL_CLS_FREE 7) 0)
    let d : Draw := { owner := 1, n := 1, svc := 0, ticket := 5 }
    let held := base.setPool 7 { held := [(0, some 31)], stalled := [d] }
    let st := fun n => regs [(Reg.POOL_CLS_STATUS_STATE 7, n)]
    (base.mayDraw 31 7 1 5 (!failingOwner 31) = true ∧ dry.mayDraw 0 7 1 5 false = false ∧ failingOwner 0 = true ∧
        dry.mayDraw 1 7 1 5 true = false ∧ failingOwner 1 = false) ∧
      (held.nextStalled 7 = some d ∧ held.poolState 7 = 1 ∧ base.nextStalled 7 = none) ∧
      (tget (fun _ => none) (held.poolC 7).held 0 = some 31 ∧ 0 < held.rd (Reg.POOL_CLS_COUNT_COUNT 7) ∧ 0 ∉ (held.poolC 7).withdraw ∧
        (held.poolC 7).cache.length < 384 ∧ held.rd (Reg.POOL_CLS_CFG_MODE 7) = 0 ∧ tget (fun _ => none) (held.poolC 7).held 1 = none) ∧
      ((base.poolC 7).cache.length < 128 ∧ (runsTake 256 (base.poolStore 7)).1 ≠ [] ∧ base.rd (Reg.POOL_CLS_CFG_MODE 7) = 0 ∧
        (∀ i ∈ (runsTake 256 (base.poolStore 7)).1, i < base.rd (Reg.POOL_CLS_COUNT_COUNT 7)) ∧
        ∀ i ∈ (runsTake 256 (base.poolStore 7)).1, tget (fun _ => none) (base.poolC 7).held i = none) ∧
      (reaches (st 0) (Reg.POOL_CLS_CFG 7) ∧ ((st 0).poolCfgMode 7 0).poolState 7 = 0 ∧ ((st 0).poolCfgMode 7 0).carveOk 7 = true) ∧
      (∀ n ∈ [1, 2, 3], reaches (st n) (Reg.POOL_CLS_CFG 7) ∧ (st n).poolState 7 = n ∧ ((st n).poolC 7).held = []) ∧
      (reaches base (Reg.POOL_OWN_RES 31 7) ∧ bitsOf (0#32).toNat 0 21 - base.poolHeld 31 7 ≤ base.poolH 7 + (base.poolRes 31 7 - base.poolHeld 31 7) ∧
        base.poolCommit 31 7 ≤ bitsOf (0#32).toNat 0 21 ∧
        base.poolH 7 + (base.poolRes 31 7 - base.poolHeld 31 7) < bitsOf (0x1FFFFF#32).toNat 0 21 - base.poolHeld 31 7) ∧
      reaches base (Reg.POOL_CLS_THRESH 7) ∧ base.threshOk 7 0 0 = true ∧ base.threshOk 7 16 0 = false := by
  simp only [reaches]
  decide +kernel

theorem test_meets_PowerOnResetClearsAndTheBootFollows :
    let up : State := { State.reset with pwr := { State.reset.pwr with rstPorN := false, pwrGood := true } }
    let rdy : State := { State.reset with pwr := { State.reset.pwr with booting := true, fwRunning := true, firstPlan := true } }
    let ok := (rdy.wr (Reg.HBM_STK_TRAIN_TRAIN_OK 0) 1).wr (Reg.HBM_STK_TRAIN_TRAIN_OK 1) 1
    (State.reset.hbm.retired = [] ∧ State.reset.pwr.rstPorN = true ∧ State.reset.pwr.tripped = false) ∧
      (up.pwr.rstPorN = false ∧ up.pwr.pwrGood = true ∧ up.pwr.tripped = false) ∧
      ok.pwr.inReset = some .powerOn ∧ ok.pwr.booting = true ∧ ok.pwr.fwRunning = true ∧ ok.pwr.firstPlan = true ∧ ok.hlth.testing = [] ∧
      ok.rd (Reg.HBM_STK_TRAIN_TRAIN_OK 0) = 1 ∧ ok.rd (Reg.HBM_STK_TRAIN_TRAIN_OK 1) = 1 ∧ ok.pwr.testMode = false := by
  decide +kernel

theorem test_meets_ResetsDiscardWorkAndAreRanked :
    let st : ResetKind → State := fun k => { base with pwr := { base.pwr with inReset := some k } }
    let good : State := { base with pwr := { base.pwr with pwrGood := true } }
    ((st .warm).pwr.inReset = some .warm ∧ ResetKind.warm ≠ .fw ∧ (st .hot).pwr.inReset = some .hot ∧ ResetKind.hot ≠ .warm) ∧
      (good.pwr.inReset = none ∧ good.pwr.pwrGood = true ∧ good.rd Reg.PWR_STATUS_STATE ≠ 4) ∧
      (reaches base Reg.PWR_RESET ∧ bitsOf (0xA5000002#32).toNat 24 8 = 0xA5 ∧ bitsOf (0xA5000002#32).toNat 1 1 = 1 ∧
        bitsOf (0xA5000001#32).toNat 24 8 = 0xA5 ∧ bitsOf (0xA5000001#32).toNat 0 1 = 1 ∧ bitsOf (0xA5000001#32).toNat 1 1 = 0) ∧
      ∀ k ∈ [ResetKind.warm, .fw], (st k).pwr.inReset = some k ∧ k ≠ .powerOn ∧ (st k).pwr.rstWarmN = true := by
  simp only [reaches]
  decide +kernel

theorem test_meets_PowerStatesClocksAndRails :
    let pw := fun n => regs [(Reg.PWR_STATUS_STATE, n)]
    let sa : State := { base with sched := { base.sched with saving := true } }
    let d3 : State := { sa with hif := { base.hif with d3hot := true } }
    let sv := regs [(Reg.SCHED_STATUS_SAVED_ALL, 1)]
    let rf : State := { base with pwr := { base.pwr with railBad := [(11, some 0)] }, time := { base.time with mono := 10 ^ 6 } }
    let d0 : State := { base with hif := { base.hif with d3hot := true } }
    ((regs [(Reg.PWR_CTRL_FURL_EN, 1)]).furlIdle = true) ∧ (∀ n ∈ [1, 2, 3], (pw n).pwr.stowing = false ∧ (pw n).rd Reg.PWR_STATUS_STATE = n) ∧
      (reaches base Reg.SCHED_CTRL ∧ base.rd Reg.SCHED_STATUS_SAVED_ALL = 0 ∧ base.sched.saving = false ∧ reaches sv Reg.SCHED_CTRL ∧
        sv.rd Reg.SCHED_STATUS_SAVED_ALL = 1 ∧ sv.sched.resuming = false) ∧
      (sa.sched.saving = true ∧ sa.allStopped = true ∧ sa.rd Reg.SCHED_STATUS_SAVED_ALL = 0 ∧ sa.pwr.stowing = false ∧
        sa.hif.d3hot = false ∧ sa.pwr.inReset = none ∧ sa.rd Reg.PWR_STATUS_STATE = 0) ∧
      ({ base with sched := { base.sched with resuming := true } }).sched.resuming = true ∧
      (∀ n ∈ [1, 4], (d3.wr Reg.PWR_STATUS_STATE n).hif.d3hot = true ∧ (d3.wr Reg.PWR_STATUS_STATE n).rd Reg.PWR_STATUS_STATE = n) ∧
      (∀ b ∈ [0, 7, 8, 15, 16, 17, 18, 19], base.clockBusy b = false) ∧ base.rd Reg.PWR_STATUS_STATE = 0 ∧
      (tget (fun _ => none) rf.pwr.railBad 11 = some 0 ∧ 0 + 10 ^ 6 ≤ rf.time.mono) ∧
      (d0.wr Reg.PWR_STATUS_STATE 4).rd Reg.SCHED_STATUS_SAVED_ALL = 0 := by
  simp only [reaches]
  decide +kernel

/-- The rails read nothing, and the nine sums before are `n` mW each; the allowance for the other rails is what it is. -/
def metered (n duty : Nat) : State :=
  { base with regs := [(Reg.PWR_CAP, BitVec.ofNat 32 (packBits [(0, 10, 1023), (16, 8, 105)])), (Reg.PWR_THROTTLE, BitVec.ofNat 32 duty)]
              pwr := { base.pwr with powers := List.replicate 9 n } }

theorem averageW_replicate (x c : Nat) : averageW ((x :: List.replicate 9 c).take 10) = (x + 9 * c) / 10000 := by
  have h : sumNat (x :: List.replicate 9 c) = x + 9 * c := by
    simp only [sumNat, List.replicate, List.foldl]
    omega
  show sumNat (x :: List.replicate 9 c) / (1000 * 10) = _
  rw [h]

theorem metered_powers (n d : Nat) : (metered n d).pwr.powers = List.replicate 9 n := rfl

theorem metered_powerNow : (metered 0 1024).powerNow = Config.railAllowance := by
  have h : sumNat ((List.range 12).map (fun r =>
      (metered 0 1024).rd (Reg.PWR_RAIL_CURRENT r) * (metered 0 1024).rd (Reg.PWR_RAIL_MV r) / 10)) = 0 := by decide +kernel
  rw [State.powerNow, h, Nat.zero_add]

theorem metered_under (h : Config.railAllowance < 5000000) :
    averageW (((metered 0 1024).powerNow :: (metered 0 1024).pwr.powers).take 10) + 10 < 1023 := by
  rw [metered_powers, averageW_replicate, metered_powerNow]
  have : (Config.railAllowance + 9 * 0) / 10000 < 500 := by
    rw [Nat.div_lt_iff_lt_mul (by decide)]
    exact h
  exact Nat.lt_trans (Nat.add_lt_add_right this 10) (by decide)

theorem metered_above (x : Nat) : 1023 < averageW ((x :: List.replicate 9 2000000).take 10) := by
  rw [averageW_replicate]
  omega

theorem metered_over : 1023 < averageW (((metered 2000000 17).powerNow :: (metered 2000000 17).pwr.powers).take 10) := by
  rw [metered_powers]
  exact metered_above _

theorem test_meets_PowerStatesClocksAndRails_throttle :
    ((metered 2000000 17).rd Reg.PWR_CAP_CAP_W = 1023 ∧ (metered 2000000 17).rd Reg.PWR_THROTTLE_DUTY = 17 ∧
        (metered 0 1024).rd Reg.PWR_THROTTLE_DUTY = 1024 ∧ (metered 0 1024).rd Reg.PWR_CAP_TJ_MAX_C = 105) ∧
      1023 < averageW (((metered 2000000 17).powerNow :: (metered 2000000 17).pwr.powers).take 10) ∧
      (Config.railAllowance < 5000000 → averageW (((metered 0 1024).powerNow :: (metered 0 1024).pwr.powers).take 10) + 10 < 1023) :=
  ⟨by decide +kernel, metered_over, metered_under⟩

theorem test_meets_PicturesPassThroughTheirEngine :
    let f : Frame := { pic0.frame with ready := true, au := some 1 }
    let hdr : SeqClaim := { width := 16, height := 16, codedW := 16, codedH := 16, dpb := 0, profileInd := 0, profileOk := true, chroma := 1,
                            depth := 8, level := 0, tool := 0 }
    let ch := fun (q : Option SeqClaim) =>
      ({ (regs [(Reg.DEC_STRM_STATE_STATE 127, 1), (Reg.DEC_STRM_STATE_ENGINE 127, 7), (Reg.DEC_STRM_SPARSE_RUN 127, 6)]).setStream 127
          { frames := [f], contract := some contract1, bind := some f.bind, seqHdr := q } with
        jobs := [{ job1 with kind := .frame 127 0 (some 1), stream := 127 }] } : State)
    let goodChoice := fun (q : Option SeqClaim) =>
      let p := ((ch q).popFrame 127).picOf 127 f {} q q.isNone false
      let n := picNeeds p (((ch q).popFrame 127).keepsPicture f.bind) q
      (ch q).mayChoose 7 = true ∧ (ch q).pickOf 7 = some (127, f) ∧ (ch q).isLive 127 = false ∧ f.discont = false ∧ f.oversize = false ∧
        (ch q).claimOf 127 {} = none ∧ q = ((ch q).stream 127).seqHdr ∧ ((ch q).frameJob? 127 0).isSome = true ∧
        (((ch q).popFrame 127).drawPic f 5 n.1 n.2).isSome = true
    let p0 : Pic := { pic0 with done := false }
    let p1 : Pic := { p0 with rowsDone := 1 }
    let en := fun (p : Pic) => (regs [(Reg.DEC_STATUS_STATE 7, 1)]).setEngine 7 { cur := some p }
    let held : State := { en p0 with shp := { base.shp with stalled := [7] } }
    let st := fun n => regs [(Reg.DEC_STATUS_STATE 7, n)]
    let mine := (regs [(Reg.DEC_STRM_STATE_STATE 127, 3), (Reg.DEC_STRM_STATE_ENGINE 127, 7)])
    let mv := (regs [(Reg.DEC_STRM_STATE_STATE 127, 5)]).setStream 127 { movingTo := some 7, prior := 4 }
    (goodChoice none ∧ goodChoice (some hdr) ∧ sparseRun ((ch (some hdr)).rd (Reg.DEC_STRM_SPARSE_RUN 127)) {} hdr ((ch (some hdr)).hasRef 127) < 8) ∧
      (((en p0).engine 7).cur = some p0 ∧ p0.empty = false ∧ p0.rowsDone < p0.nRows ∧ (en p0).sched.saving = false ∧
        ¬(((en p0).streamRows p0).shp.stalled.contains 7 = true ∨ ((en p0).streamRows p0).shp.rowStall.contains 7 = true)) ∧
      ((held.engine 7).cur = some p0 ∧ p0.refOnly = false ∧ p0.nRows = 1 ∧ (held.streamRows p0).shp.stalled.contains 7 = true) ∧
      (((en p1).engine 7).cur = some p1 ∧ p1.nRows ≤ p1.rowsDone ∧ p1.refOnly = false ∧ ((en p1).engine 7).chosen = none ∧
        (en p1).engineSt 7 = 1 ∧ reaches (en p1) (Reg.DEC_CTRL 7)) ∧
      (∀ n ∈ [0, 2, 4], reaches (st n) (Reg.DEC_CTRL 7) ∧ (st n).engineSt 7 = n ∧ ((st n).engine 7).cur = none ∧ ∀ k, k < 128 → (st n).strm k = 0) ∧
      (mine.engineSt 7 = 0 ∧ (mine.engine 7).cur = none ∧ mine.strm 127 ≠ 0 ∧ mine.strmEngine 127 = 7 ∧ reaches mine (Reg.DEC_CTRL 7)) ∧
      (mv.stream 127).movingTo = some 7 ∧ mv.strm 127 = 5 ∧ (mv.stream 127).prior < 8 := by
  dsimp only
  simp only [reaches]
  repeat' apply And.intro
  all_goals decide +kernel

theorem test_meets_EthernetPortsAndFlowsFollowTheirEvents :
    let pt := fun n => regs [(Reg.NET_PORT_CFG_ENABLE 1, n), (Reg.NET_PORT_CFG_MODES 1, 7), (Reg.NET_PORT_STATUS_LINK_UP 1, 1)]
    let neg := (pt 1).setEthPort 1 { negotiating := true }
    let use := (pt 1).setEthPort 1 { inUse := 15 }
    let fw : State := { pt 1 with pwr := { base.pwr with inReset := some .fw } }
    let fl := fun n => ({ (regs [(Reg.NET_FLOW_STATUS_STATE 31, n), (Reg.NET_FLOW_CFG_MERGE 31, 1), (Reg.NET_FLOW_CFG_MERGE_WIN 31, 2),
      (Reg.NET_FLOW_SILENT_PATH_LOSS_MS 31, 1), (Reg.NET_FLOW_SILENT_SILENT_MS 31, 1000)]).setFlow 31
        { report2 := [(true, 0)], missing := [(65535, 10 ^ 9 - 2000)], pathA := { ssrcAlt := some (7, 9 * 10 ^ 8) },
          pathB := { lastAt := 0 } } with time := { base.time with mono := 10 ^ 9 } } : State)
    (∀ n ∈ [0, 1], reaches (pt n) (Reg.NET_PORT_CFG 1) ∧ (pt n).rd (Reg.NET_PORT_CFG_ENABLE 1) = n) ∧
      ((neg.ethPort 1).negotiating = true ∧ (neg.advertised 1).find? (fun m => bitsOf 7 m 1 == 1) = some 0 ∧
        (neg.advertised 1).find? (fun m => bitsOf 0 m 1 == 1) = none) ∧
      (3 ∉ (use.ethPort 1).lanesBad ∧ bitsOf (use.ethPort 1).inUse 3 1 = 1 ∧ ((pt 1).ethPort 1).inUse = 0) ∧
      ((pt 1).rd (Reg.NET_PORT_STATUS_LINK_UP 1) = 1 ∧ fw.rd (Reg.NET_PORT_STATUS_LINK_UP 1) = 1 ∧ fw.pwr.inReset = some .fw) ∧
      (∀ n ∈ [0, 1, 2, 3, 4, 5, 6], reaches (fl n) (Reg.NET_FLOW_CFG 31) ∧ (fl n).flowSt 31 = n) ∧
      ((fl 0).flowCfg 31 0).flowOk 31 = true ∧
      ((true, 0) ∈ ((fl 1).flow 31).report2 ∧ 0 + 10 ^ 9 ≤ (fl 1).time.mono) ∧
      ((65535, 10 ^ 9 - 2000) ∈ ((fl 1).flow 31).missing ∧
        (10 ^ 9 - 2000) + max 1 ((fl 1).rd (Reg.NET_FLOW_CFG_MERGE_WIN 31)) * 1000 ≤ (fl 1).time.mono) ∧
      ((((fl 1).flow 31).path false).ssrcAlt = some (7, 9 * 10 ^ 8) ∧ 9 * 10 ^ 8 + 10 ^ 8 ≤ (fl 1).time.mono) ∧
      ((fl 1).rd (Reg.NET_FLOW_CFG_MERGE 31) = 1 ∧ (fl 1).rd (Reg.NET_FLOW_SILENT_PATH_LOSS_MS 31) ≠ 0 ∧
        ∀ b : Bool, (((fl 1).flow 31).path b).lastAt + (fl 1).rd (Reg.NET_FLOW_SILENT_PATH_LOSS_MS 31) * 10 ^ 6 ≤ (fl 1).time.mono) ∧
      (fl 1).rd (Reg.NET_FLOW_SILENT_SILENT_MS 31) ≠ 0 ∧
      ∀ q ∈ (fl 1).paths 31, (((fl 1).flow 31).path q.1).lastAt + (fl 1).rd (Reg.NET_FLOW_SILENT_SILENT_MS 31) * 10 ^ 6 ≤ (fl 1).time.mono := by
  dsimp only
  simp only [reaches]
  repeat' apply And.intro
  all_goals decide +kernel

theorem test_meets_FramesOnTheWireAndTheClock :
    let rtp : RtpPkt := { pt := 96, ssrc := 7, seq := 65535, ts := 0, marker := false, parts := [{ len := 100 }] }
    let fr : EthFrame := { len := 9022, fcsOk := true, vlan := none, kind := .udp 0xE0000001 0x0A000001 5000 rtp }
    let net := fun bound => regs [(Reg.NET_PORT_STATUS_LINK_UP 1, 1), (Reg.NET_FLOW_STATUS_STATE 31, 1), (Reg.NET_FLOW_CFG_PORT_A 31, 1),
      (⟨Reg.NET_FLOW_DST_A 31, 0, 32⟩, 0xE0000001), (Reg.NET_FLOW_UDP_UDP_A 31, 5000), (Reg.NET_FLOW_STATUS_BOUND 31, bound)]
    let q : Frame := { pic0.frame with seq := 3 }
    let opn : State := { ((regs [(Reg.NET_FLOW_STATUS_BOUND 31, 1)]).setFlow 31 { cur := some (0, some 3), swWait := [(0, 3)] }).setStream 0
      { frames := [q] } with time := { base.time with mono := 40 * 10 ^ 6 + 1 } }
    let m : PtpMaster := { port := 1, identity := 2, gm := 3, rank := 4, steps := 0, domain := 0, interval := 10 ^ 6, heard := 0 }
    let a : Announce := { port := 1, identity := 2, gm := 3, rank := 4, steps := 0, domain := 0, interval := 10 ^ 6 }
    let ptp := fun en sv =>
      ({ regs [(Reg.TIME_CTRL_DOMAIN, 0), (Reg.TIME_CTRL_PTP_EN, 1), (Reg.NET_PORT_CFG_PTP_EN 1, 1), (Reg.TIME_STATUS_PTP_PORT, 1),
        (Reg.TIME_CTRL_SERVO_EN, en), (Reg.TIME_STATUS_SERVO_STATE, sv), (Reg.TIME_SERVO_HOLD_HOLDOVER_MS, 3),
        (Reg.TIME_CTRL_STATUS_PERIOD, 3)] with
        time := { base.time with masters := [m], gm := some 3, lastSync := some 0, mono := 3 * 10 ^ 6 } } : State)
    ((net 1).rd (Reg.NET_PORT_STATUS_LINK_UP 1) = 1 ∧ (net 1).held = false ∧ (net 1).rd Reg.PWR_STATUS_STATE ≠ 4 ∧ fr.len ≤ 9022 ∧
        (net 1).tagOk 1 fr.vlan = true ∧ (net 1).matchFlow 1 0xE0000001 0x0A000001 5000 = some (31, false) ∧
        ((net 1).flowStream 31).isSome = true ∧ (net 1).rd (Reg.NET_FLOW_CFG_PT_CHECK 31) = 0 ∧ ((net 1).flow 31).ssrc = none ∧
        (net 1).payloadBad 31 rtp = false) ∧
      ((net 0).matchFlow 1 0xE0000001 0x0A000001 5000 = some (31, false) ∧ (net 0).flowStream 31 = none ∧
        (net 0).tagOk 1 (some 5) = false ∧ (net 0).matchFlow 0 0xE0000001 0x0A000001 5000 = none) ∧
      (opn.openFrame 31 = some (0, 3) ∧ (opn.stream 0).frames.find? (fun q => q.seq == 3) = some q ∧
        opn.staleBound 0 < opn.time.mono - q.mono ∧ (opn.flow 31).swWait = [(0, 3)]) ∧
      ((ptp 0 0).ptpListens 1 = true ∧ a.domain = (ptp 0 0).rd Reg.TIME_CTRL_DOMAIN ∧ bestMaster (ptp 0 0).validMasters = some m ∧
        m.heard + 3 * m.interval ≤ (ptp 0 0).time.mono) ∧
      ((ptp 0 0).ptpSyncs 1 = true ∧ 0 = (ptp 0 0).rd Reg.TIME_CTRL_DOMAIN ∧ (ptp 0 0).rd Reg.TIME_CTRL_SERVO_EN = 0 ∧
        (ptp 1 0).ptpSyncs 1 = true ∧ (ptp 1 0).rd Reg.TIME_CTRL_SERVO_EN = 1 ∧ (ptp 1 0).servo = 0) ∧
      (∀ n ∈ [1, 2], (ptp 1 n).time.lastSync = some 0 ∧ (ptp 1 n).servo = n ∧
        0 + (ptp 1 n).rd Reg.TIME_SERVO_HOLD_HOLDOVER_MS * 10 ^ 6 ≤ (ptp 1 n).time.mono) ∧
      (∀ n ∈ [0, 3, 4], reaches (ptp 0 n) Reg.TIME_CTRL ∧ (ptp 0 n).servo = n) ∧
      ((ptp 0 0).rd Reg.TIME_CTRL_STATUS_PERIOD * 10 ^ 6 ≠ 0 ∧
        (ptp 0 0).time.lastStatus + (ptp 0 0).rd Reg.TIME_CTRL_STATUS_PERIOD * 10 ^ 6 ≤ (ptp 0 0).time.mono) := by
  dsimp only
  simp only [reaches]
  repeat' apply And.intro
  all_goals decide +kernel

theorem test_meets_FramesOnTheWireAndTheClock_pins :
    let ld : State := { base with time := { base.time with step := some .toSet } }
    let tpo := fun ns => regs [(⟨Reg.TIME_TPO_WIDTH 3, 0, 32⟩, 10), (⟨Reg.TIME_TPO_PERIOD 3, 0, 32⟩, 100), (⟨Reg.TIME_TPO_NS 3, 0, 32⟩, ns),
      (Reg.TIME_TPO_CFG_MODE 3, 1), (Reg.TIME_TPI_CFG_ENABLE 1, 1), (Reg.TIME_TPI_CFG_EDGE 1, 3), (Reg.TIME_TPI_CFG_FILT 1, 2)]
    let due := (tpo 0).setTpoNext 3 (some 0)
    (ld.time.step = some .toSet ∧ (ld.reg Reg.TIME_SET_NS).toNat < 10 ^ 9) ∧ reaches base Reg.TIME_RATE ∧
      (reaches ld (Reg.TIME_TPO_CFG 3) ∧ reaches (tpo 2000) (Reg.TIME_TPO_CFG 3) ∧ bitsOf (0xA0000000#32).toNat 31 1 = 1 ∧
        bitsOf (0xA0000000#32).toNat 29 2 = 1 ∧ bitsOf (0xC0000000#32).toNat 31 1 = 1 ∧ bitsOf (0xC0000000#32).toNat 29 2 = 2 ∧
        (tpo 2000).time.step = none ∧ (tpo 2000).armBad 3 1 = false ∧ (tpo 2000).armBad 3 2 = false ∧
        (tpo 2000).clockNs + 2000 ≤ (tpo 2000).tpoStart 3 ∧ ¬(tpo 1999).clockNs + 2000 ≤ (tpo 1999).tpoStart 3) ∧
      (due.tpoNext 3 = some 0 ∧ 0 ≤ due.clockNs ∧ due.held = false ∧ due.tpGated 3 = false) ∧
      ((tpo 0).rd (Reg.TIME_TPI_CFG_ENABLE 1) = 1 ∧ (tpo 0).rd (Reg.TIME_TPI_CFG_EDGE 1) = 3 ∧ (tpo 0).edgeCounts 1 80 = true) := by
  dsimp only
  simp only [reaches]
  repeat' apply And.intro
  all_goals decide +kernel

theorem test_meets_ShapersFillAndDispatchBatches :
    let ws := [word 0x21 [(56, 8, 2)], word 0x22 [(48, 16, 2), (40, 8, 2)], word 0x50 [], word 0x50 []]
    let ds := BitVec.ofNat 512 (packBits [(256, 16, 1), (132, 12, 1)])
    let st := fun (j : Job) (l : List Batch) => ({ withJob base (prog1 ws [] [ds]) j with
      dec := { base.dec with pics := [pic0] }, shp := { base.shp with batches := l }, time := { base.time with mono := 1000 } } : State)
    let bx := packBits [(32, 16, 64), (48, 16, 64)]
    let jb := fun (l : List Nat) => job1.setNode 2 { committed := true, out := .lists { lists := [l] }, own := [0] }
    let jw := (word 0x22 [(48, 16, 2), (40, 8, 2)]).toNat
    let e : Batch := { batch0 with samples := [], n := 2 }
    let c : Batch := { batch0 with n := 2, closed := some 1, samples := [{ sample0 with complete := true }] }
    let x : Sample := { sample0 with rcd := { sample0.rcd with objIndex := 5 } }
    let far := withJob base (prog1 [word 0x21 [(56, 8, 255), (54, 2, 1)]] [] [BitVec.ofNat 512 (packBits [(16, 16, 8191), (0, 16, 8191)])]) job1
    ((st job1 [e]).frameJob? 0 0 = some job1 ∧ (st job1 [e]).jobWord job1 0 = some (word 0x21 [(56, 8, 2)]).toNat ∧
        (st job1 [e]).picOfFrame 0 0 = some pic0 ∧ pic0.done = true ∧ pic0.unusable = false ∧ (st job1 [e]).sched.saving = false ∧
        (st job1 [e]).samplesOf (job1.nodeKey 0) 0 0 = [] ∧
        (job1.node 0).committed = false ∧ (st job1 [e]).slotsInOrder job1 0 = true ∧ (st job1 [e]).strmEngine 0 = 0 ∧
        (st job1 [e]).rd (Reg.SHP_CTRL_TEST_STANDIN 0) = 0 ∧
        (st job1 [e]).shp.batches.find? (fun b => b.key == job1.nodeKey 0 && b.shp == 0 && b.svc == job1.svc && b.closed.isNone) = some e) ∧
      (far.shp.batches = [] ∧ (far.openBatch (job1.nodeKey 0) 0 0 255 1 (8191 * 8191 * 16) 5).2 = none) ∧
      (((st job1 [{ batch0 with samples := [x] }]).samplesOf (job1.nodeKey 0) 0 0).find? (isSample 0 0 5) = some x ∧ x.data ≠ [] ∧
        x.complete = false) ∧
      ((st (jb []) []).nodeFor 1 1 0x22 = some (jb [], jw) ∧ (jb []).boxes jw = some [] ∧ (st (jb []) []).sched.saving = false ∧
        (st (jb []) []).donePic 0 0 = some pic0 ∧ ((jb []).node 1).queued = false ∧ (st (jb []) []).slotsInOrder (jb []) 1 = true ∧
        beside (st (jb []) []) (jb []) 1 0 = true) ∧
      ((st (jb [bx]) []).nodeFor 1 1 0x22 = some (jb [bx], jw) ∧ (jb [bx]).boxes jw = some [(0, boxOf bx)] ∧
        (st (jb [bx]) []).donePic 0 0 = some pic0 ∧ 1 ≤ shMaxBoxes ((st (jb [bx]) []).descOf 0 (shpDesc jw)) ∧
        ((st (jb [bx]) []).cropSlots (jb [bx]) 1 jw ((st (jb [bx]) []).descOf 0 (shpDesc jw)) [(0, boxOf bx)]).isSome = true) ∧
      (let s := st job1 [e]
       let wait := shWait (s.descOf 0 (shpDesc (((s.prog 0).routeWords 0).getD 0 0)))
       e ∈ s.shp.batches ∧ e.closed = none ∧ wait ≠ 0 ∧ e.first + wait * 1000 ≤ s.time.mono) ∧
      reaches base (Reg.SHP_CTRL 7) ∧
      ((st job1 [c]).shp.batches.find? (fun b => b.shp == 0 && b.key.node == 0 && b.svc == 0 && b.closed.isSome && !b.dispatched &&
        b.samples.all (fun x => x.complete) && !(st job1 [c]).earlierBatch b) = some c ∧ c.samples.length < c.n ∧
        c.samples = [{ sample0 with complete := true }] ∧ sample0.rcd.objIndex = 0xFFFF ∧ (st job1 [c]).job? 1 = some job1 ∧
        job1.nodeKey 0 = c.key ∧ beside (st job1 [c]) job1 0 1 = true) := by
  dsimp only
  simp only [reaches]
  repeat' apply And.intro
  all_goals decide +kernel

/-- A job of a command whose node 0 is an operation of a station over the output of node 1: what `test_meets_Station…` asks of it. -/
def stationMeets (opc : Nat) : Bool :=
  let w := word opc [(64, 16, 1), (48, 16, 1), (32, 16, if opc = 0x57 then 0xFFFF else 1)]
  let a : NodeOut := if opc = 0x50 ∨ opc = 0x55 then .tensor { fmt := 9, cols := 16, rows := [], unit := 0 } else .lists { lists := [[]] }
  let j := { job1 with kind := .frame 0 0 none }.setNode 1 { committed := true, out := a, own := [0] }
  let s := withJob (regs [(Reg.SGS_STRM_STATE_STATE 0, 1)]) (prog1 [w, word 0x10 []] [plan1 65536] [0]) j
  decide (s.nodeFor 1 0 opc = some (j, w.toNat)) && decide (s.opStation j 0 = some 0) &&
    !(s.sgs.ops.any (fun o => o.station == 0 && o.unit == sgsUnit opc)) &&
    (s.readyOps 0 (sgsUnit opc)).all (fun q => (q.1.id == 1 && q.2 == 0) || opBefore s.ticketNow (j, 0) q) && s.sgsReady j 0 w.toNat &&
    decide (s.sgsFault j 0 w.toNat = none)

theorem test_meets_StationOperationsStartCommitAndMove :
    let o : SgsOp := { station := 3, unit := 0, job := 1, node := 0 }
    let s := withJob base (prog1 [word 0x51 [], word 0x10 []]) job1
    let t : State := { s with sgs := { base.sgs with ops := [o] } }
    let st := fun n => regs [(Reg.SGS_STATUS_STATE 3, n)]
    let mv := (regs [(Reg.SGS_STRM_STATE_STATE 127, 2)]).setSgs 127 { movingTo := some 3 }
    [0x50, 0x51, 0x52, 0x53, 0x54, 0x55, 0x56, 0x57].all stationMeets = true ∧
      (t.sgs.ops.find? (fun o => o.station == 3 && t.opDone o) = some o ∧ t.job? 1 = some job1 ∧
        t.jobWord job1 0 = some (word 0x51 []).toNat ∧ beside t job1 0 1 = true) ∧
      (∀ n ∈ [0, 1, 2, 4], reaches (st n) (Reg.SGS_CTRL 3) ∧ (st n).stationSt 3 = n ∧ (st n).sgs.ops = []) ∧
      (mv.sgsStream 127).movingTo = some 3 ∧ mv.sgsSt 127 = 2 ∧ (∀ o ∈ mv.sgs.ops, o.station ≠ mv.sgsStation 127) ∧
      (mv.sgsStream 127).trk.tracks.length ≤ mv.trkFree 3 := by
  simp only [reaches]
  decide +kernel

theorem test_meets_TilesCrossBetweenDevices :
    let duo := regs [(Reg.LNK_TOPO_KIND, 1), (Reg.LNK_TOPO_NDEV_M1, 1), (Reg.LNK_PORT_STATUS_STATE 0, 2)]
    let xf := fun opc l => word opc ([(80, 16, 1), (61, 3, 1), (44, 8, 1)] ++ l)
    let tn : Tensor := { fmt := 9, cols := 1, rows := [[0]], unit := 1 }
    let js := job1.setNode 1 { grid := some grid1, out := .tensor tn, passed := [(0, 0)] }
    let se := withJob duo (prog1 [xf 0x60 [], word 0x30 []] [] [0, desc1 0]) js
    let rc := withJob duo (prog1 [xf 0x61 [(52, 1, 1)], word 0x30 []] [] [0, desc1 0]) job1
    let jf := job1.setNode 0 { grid := some grid1, ran := true, remote := true, out := .tensor tn }
    let fb : State := { withJob duo (prog1 [xf 0x61 [(52, 1, 1)], word 0x30 []]) jf with
      dec := { base.dec with pics := [pic0] }, time := { base.time with mono := 20 * 10 ^ 6 + 1 } }
    let jc := job1.setNode 1 { committed := true, out := .tensor tn }
    let co := withJob duo (prog1 [xf 0x62 [], word 0x30 []]) jc
    let id : TileId := { src := 0, channel := 0, kind := 0, owner := 0, stream := 0, keySeq := 9, step := 0, tile := 0 }
    let m : TileMsg := { id := id, dst := 1, mb := 1, nb := 1, rows := 1, cols := 1, svc := 0, pts := 0, ctSec := 0, ctNs := 0, ctSub := 0
                         flags := 0, wire := 0, data := [0] }
    let x : SentTile := { msg := m, job := 1, node := 0, flits := 1, port := 0 }
    let sn : State := { (se.wr Reg.LNK_TIMERS_ACK_US 7) with lnk := { se.lnk with sent := [x] }, time := { base.time with mono := 7000 } }
    let lost : LnkSt := { base.lnk with sent := [{ x with receipt := true }], lostAt := [(1, 0)] }
    let gone : State := { (base.wr Reg.LNK_TIMERS_REJOIN_MS 1) with lnk := lost, time := { base.time with mono := 10 ^ 6 } }
    let mi := { m with id := { id with src := 1, owner := 1 }, dst := 0 }
    let h : HeldTile := { msg := mi, job := none, port := 0, bufs := (0, []) }
    let orp : State := { (duo.wr Reg.LNK_ORPHAN_MS_ORPHAN_MS 1) with lnk := { base.lnk with heldTiles := [h] }, time := { base.time with mono := 10 ^ 6 } }
    let tag : RemoteTag := { tag := 63, tj := { tile0 with node := 1 } }
    let jr := (job1.setNode 0 { committed := true, remote := true }).setNode 1 { grid := some grid1 }
    let rr := (withJob duo (prog1 [xf 0x61 [], word 0x30 [(64, 16, 0), (48, 16, 0), (32, 16, 0xFFFF), (16, 16, 0xFFFF)]]) jr).setCore 63 { tags := [tag] }
    let c : Coll := { job := 1, node := 0, jobId := 4, step := 0, channel := 2, group := 3, cols := 1, unit := 1, own := [0] }
    let cl := { duo with lnk := { base.lnk with colls := [c] } }
    (se.rd Reg.PWR_STATUS_STATE = 0 ∧ js.started = true ∧ js.plan.isSome = true ∧ wOpc (xf 0x60 []).toNat = 0x60 ∧ se.job? 1 = some js ∧ se.jobWord js 0 = some (xf 0x60 []).toNat ∧ (js.node 0).committed = false ∧ xfDev (xf 0x60 []).toNat ∈ se.reachable ∧
        (js.node (xfSrc (xf 0x60 []).toNat)).grid = some grid1 ∧ (js.node 1).out = .tensor tn ∧ (js.node 1).committed = false ∧ grid1.fold = false ∧ (0, 0) ∈ (js.node 1).passed ∧ 0 + 1 = grid1.passes ∧ (0, 0) ∉ (js.node 0).passed ∧
        (se.routePort 1 0).isSome = true) ∧
      (rc.nodeFor 1 0 0x61 = some (job1, (xf 0x61 [(52, 1, 1)]).toNat) ∧ 1 ∈ rc.reachable ∧ rc.lnk.heldTiles = [] ∧ beside rc job1 0 1 = true) ∧
      (co.nodeFor 1 0 0x62 = some (jc, (xf 0x62 []).toNat) ∧ (jc.node (xfSrc (xf 0x62 []).toNat)).committed = true ∧
        (∀ d ∈ co.collRing (xfGroup (xf 0x62 []).toNat), d ∈ co.reachable) ∧ co.lnk.early = []) ∧
      (sn.sentOf 1 id = some x ∧ x.receipt = false ∧ x.sends < 4 ∧ x.at_ + max 1 (sn.rd Reg.LNK_TIMERS_ACK_US) * 1000 ≤ sn.time.mono ∧ sn.routePort x.msg.dst x.msg.id.tile = some 0 ∧ sn.job? x.job = some js ∧
        sn.jobWord js x.node = some (xf 0x60 []).toNat ∧ (js.node (xfSrc (xf 0x60 []).toNat)).committed = false) ∧
      (1 ∉ gone.reachable ∧ (∃ y ∈ gone.lnk.sent, y.msg.dst = 1 ∧ y.receipt = true) ∧ (1, 0) ∈ gone.lnk.lostAt ∧
        0 + gone.rd Reg.LNK_TIMERS_REJOIN_MS * 10 ^ 6 ≤ gone.time.mono ∧ ∀ y ∈ gone.lnk.sent, gone.job? y.job = none) ∧
      (orp.lnk.heldTiles.find? (fun h => h.msg.id == mi.id && h.job.isNone) = some h ∧
        h.at_ + orp.rd Reg.LNK_ORPHAN_MS_ORPHAN_MS * 10 ^ 6 ≤ orp.time.mono) ∧
      (fb.job? 1 = some jf ∧ fb.jobWord jf 0 = some (xf 0x61 [(52, 1, 1)]).toNat ∧ (jf.node 0).grid = some grid1 ∧
        xfFallback (xf 0x61 [(52, 1, 1)]).toNat = true ∧ wOpc (xf 0x61 [(52, 1, 1)]).toNat = 0x61 ∧ (jf.node 0).out = .tensor tn ∧
        (jf.node 0).committed = false ∧ fb.halfStale jf = true ∧ beside fb jf 0 1 = true) ∧
      ((rr.core 63).saving = none ∧ tag ∈ (rr.core 63).tags ∧ tag.tag = 63 ∧ tag.arrived = false ∧ tag.parked = false ∧ rr.remoteHere tag.tj = true) ∧
      cl.coll? 4 0 2 = some c ∧ (∀ q ∈ c.stored, q.1 ≠ 0) ∧ c.stored.length + 1 < (cl.collRing c.group).length := by
  dsimp only
  repeat' apply And.intro
  all_goals decide +kernel

/-- A tile of another device that arrives for a receive node which is not node 0 of its route. -/
theorem test_meets_TilesCrossBetweenDevices_arrival :
    let duo := regs [(Reg.LNK_TOPO_KIND, 1), (Reg.LNK_TOPO_NDEV_M1, 1), (Reg.LNK_PORT_STATUS_STATE 0, 2), (Reg.POOL_OWN_RES_RES 7 0, 4)]
    let s := withJob duo (prog1 [word 0x20 [], word 0x61 [(61, 3, 1)]]) job1
    let id : TileId := { src := 1, channel := 0, kind := 0, owner := 1, stream := 0, keySeq := 9, step := 0, tile := 0 }
    let m : TileMsg := { id := id, dst := 0, mb := 1, nb := 1, rows := 1, cols := 1, svc := 0, pts := 0, ctSec := 0, ctNs := 0, ctSub := 0
                         flags := 0, wire := 0, data := [0] }
    s.rd Reg.PWR_STATUS_STATE = 0 ∧ m.dst = s.myDev ∧ s.taken? m.id = false ∧ m.id ∉ s.lnk.superseded ∧ (s.recvFor 1 0).map (·.2.2.1) = some 1 ∧
      (let f := poolFit (max 1 (m.rows * cdiv (m.cols * fmtBits (xfOfmt (word 0x61 [(61, 3, 1)]).toNat)) 8 + m.scales.length))
       (s.draw 7 f.1 f.2 m.svc s.ticketNow true).2.isSome = true) ∧
      ∀ j ∈ s.jobs, j.prog = 0 → j.route = 0 → s.tileFor j m.id = false := by
  decide +kernel

theorem test_meets_RanlinkPortsFollowTheirEvents :
    let at_ := fun n => regs [(Reg.LNK_TOPO_KIND, 2), (Reg.LNK_TOPO_NDEV_M1, 7), (Reg.LNK_TOPO_MY_DEV, 7), (Reg.LNK_PORT_STATUS_STATE 3, n),
      (Reg.LNK_PORT_STATUS_LANES_OK 3, 255)]
    let m : TileMsg := { id := { src := 7, channel := 0, kind := 0, owner := 7, stream := 0, keySeq := 9, step := 0, tile := 0 }, dst := 6, mb := 1, nb := 1
                         rows := 1, cols := 1, svc := 0, pts := 0, ctSec := 0, ctNs := 0, ctSub := 0, flags := 0, wire := 0, data := [0] }
    let x : SentTile := { msg := m, job := 1, node := 0, flits := 1, port := 3 }
    let sn := { at_ 2 with lnk := { base.lnk with sent := [x] } }
    (reaches base Reg.LNK_TOPO ∧ (∀ p, p < 4 → base.portSt p = 0) ∧
        topoOk (bitsOf (0xBF000000#32).toNat 30 2) (bitsOf (0xBF000000#32).toNat 27 3 + 1) (bitsOf (0xBF000000#32).toNat 24 3) = true) ∧
      (∀ n ∈ [0, 1, 2, 5], bitsOf (0x80000002#32).toNat 31 1 = 1 ∧ bitsOf (2#32).toNat 31 1 = 0 ∧ reaches (at_ n) (Reg.LNK_PORT_CFG 3) ∧ (at_ n).portSt 3 = n) ∧ bitsOf (0x80000002#32).toNat 0 2 ≠ 3 ∧
      (((at_ 5).lport 3).back0 = 0 ∧ ((at_ 5).lport 3).back1 = 0 ∧ ((at_ 5).lport 3).back2 = 0 ∧ ((at_ 5).lport 3).back30 = 0 ∧ ((at_ 5).lport 3).back31 = 0) ∧
      (widthOk ((at_ 1).rd (Reg.LNK_PORT_CFG_MIN_WIDTH 3)) (min 2 (pairWidth 3)) = true ∧
        wiredTo (at_ 1).topoKind (at_ 1).nDev (at_ 1).myDev 3 = some (6, 2)) ∧
      (7 ∉ ((at_ 2).lport 3).lanesBad ∧ (at_ 2).rd (Reg.LNK_PORT_STATUS_LANES_OK 3) = 255 ∧
        pairWidth (255 - (if bitsOf 255 7 1 = 1 then 2 ^ 7 else 0)) ≠ 0) ∧
      (6 ≠ (at_ 2).myDev ∧ (at_ 2).routePort 6 0 = some 3 ∧ ((at_ 2).lport 3).flit = none ∧ 6 < (at_ 2).nDev ∧
        (at_ 2).rd Reg.PWR_STATUS_STATE = 0) ∧
      6 ∈ sn.reachable ∧ sn.lnk.sent.filter (fun t => t.msg.dst == 6) = [x] ∧ sn.routePort x.msg.dst x.msg.id.tile = some 3 := by
  dsimp only
  simp only [reaches]
  repeat' apply And.intro
  all_goals decide +kernel

theorem test_meets_MemoriesAllocatePassWaysAndCountErrors :
    let s := withJob base (prog1 [word 0x30 []]) job1
    let mv := fun n => base.setStationBuf 7 { moving := [(15, n)] }
    let room := sumNat (((List.range 16).filter (fun w => bitsOf (s.guard 0).ways w 1 == 1)).map (s.stationBuf 7).linesFree)
    ((s.job? 1).isSome = true ∧ cdiv (64 * room) 64 ≤ room ∧ room < cdiv (64 * room + 1) 64) ∧
      (∀ n ∈ [1, 2], ((mv n).stationBuf 7).moving.find? (fun q => q.1 == 15) = some (15, n) ∧ 0 < n ∧ ((mv n).stationBuf 7).pinned = []) ∧
      (regs [(Reg.MEM_SECURE_STATUS_WIPING, 1)]).rd Reg.MEM_SECURE_STATUS_WIPING = 1 := by
  decide +kernel

theorem test_meets_HbmServesRefreshesTrainsAndPoisons :
    let r : HbmReq := { req := { port := 23, line := 9, write := false, rank := 5, bank := 0, row := 0, ticket := 0 }, target := 100 }
    let ch := fun (c : PChan) => base.setPchan 63 c
    let q : Nat → State := fun n => { ch { queue := [{ r with req := { r.req with kind := n } }] } with time := { base.time with mono := 50 } }
    let tr := fun n => regs [(Reg.HBM_STK_TRAIN_TRAIN_OK 1, n), (Reg.HBM_CTRL_SCRUB_EN, 1)]
    let bad : State := { tr 1 with hbm := { base.hbm with poison := [9] } }
    (0 < ((ch { postponed := 1 }).pchan 63).postponed ∧ ((ch { postponed := 1 }).pchan 63).urgent = false) ∧
      (((ch { pulled := 3 }).pchan 63).postponed = 0 ∧ ((ch { pulled := 3 }).pchan 63).queue = [] ∧ ((ch { pulled := 3 }).pchan 63).pulled < 4) ∧
      (((q 0).pchan 63).postponed = 0 ∧ ((q 0).pchan 63).queue = [r] ∧ r.req.port < 24 ∧ r.req.rank < 6) ∧
      (∀ n ∈ [0, 1, 2], ((q n).pchan 63).queue[0]? = some { r with req := { r.req with kind := n } } ∧
        urgencyOf r.target ((q n).time.mono - r.at_) = 1) ∧ r.urgency < 1 ∧ urgencyOf 100 49 = 0 ∧ urgencyOf 100 75 = 2 ∧ urgencyOf 100 100 = 3 ∧
      (∀ n ∈ [0, 1], (tr n).rd (Reg.HBM_STK_TRAIN_TRAIN_OK 1) = n) ∧
      ((tr 1).rd Reg.HBM_CTRL_SCRUB_EN = 1 ∧ (tr 1).rd Reg.PWR_STATUS_STATE < 3 ∧ 9 ∉ (tr 1).hbm.poison) ∧ 9 ∈ bad.hbm.poison ∧
      reaches base (Reg.HBM_PORT_MAXLAT 23) := by
  simp only [reaches]
  decide +kernel

theorem test_meets_RanksRetireMigrateAndDrain :
    let st : Nat → List Nat → State := fun n l => { regs [(Reg.HBM_RNK_STATE_STATE 4, n), (Reg.HBM_RNK_CTRL_RETIRE 4, 1)] with hbm := { base.hbm with retired := l } }
    let wd := (st 4 [0]).setPool 7 { withdraw := [3] }
    let go : State := { st 4 [] with hbm := { base.hbm with moves := [(4, some (0, 0))] } }
    let e : Nat × FrameEnt := (7, { slots := [] })
    (∀ l ∈ [[], [0], [0, 1]], (st 0 l).retireDue 4 4 = true ∧ (st 0 l).rankState 4 = 0 ∧ (st 0 l).hbm.retired = l ∧
        ∀ k, k < 4 → (st 0 l).dueCause k = none) ∧
      (∀ n ∈ [0, 2], reaches (st n []) (Reg.HBM_RNK_CTRL 4) ∧ (st n []).rankState 4 = n) ∧
      ((st 2 []).rankState 4 = 2 ∧ (st 2 []).moveLeft 4 = 0 ∧ ∀ k, k < 4 → (st 2 []).rankState k ≠ 2) ∧
      ((st 4 []).rankState 4 = 4 ∧ ((st 4 []).poolC 7).withdraw = [] ∧ (st 4 []).moveLeft 4 = 0 ∧ wd.rankState 4 = 4 ∧
        (wd.poolC 7).withdraw ≠ [] ∧ go.rankState 4 = 4 ∧ go.moveLeft 4 ≠ 0) ∧
      ({ base with hbm := { base.hbm with copying := [e] } }).hbm.copying.find? (fun q => q.1 == 7) = some e := by
  simp only [reaches]
  decide +kernel

theorem test_meets_ASpareRetiresWithNoCopy :
    let s := regs [(Reg.HBM_RNK_CTRL_RETIRE 5, 1)]
    s.rankState 5 = 1 ∧ s.retireDue 5 4 = true ∧ s.hbm.retired = [] ∧ (∀ k, k < 5 → s.rankState k < 2 ∧ s.dueCause k = none) ∧
      ∀ k, k < 6 → s.rankState k ≠ 2 ∧ s.rankState k ≠ 4 := by
  decide +kernel

theorem test_meets_RecordsFencesAndSelfTests :
    let fen := regs [(Reg.DEC_STATUS_STATE 7, 5), (Reg.CORE_LRW_STATUS_STATE 63, 5), (Reg.SGS_STATUS_STATE 3, 5)]
    let busy := (regs [(Reg.HLTH_HANG_HANG_US, 1), (Reg.DEC_STATUS_STATE 7, 1), (Reg.PWR_CLK_ON_DEC, 255)]).setEngine 7 { cur := some pic0 }
    let te : State → State := fun s => { s with regs := (Reg.HLTH_GRP_SET 7, 0) :: s.regs, hlth := { s.hlth with testing := [⟨0, 63⟩, ⟨1, 7⟩, ⟨2, 3⟩] } }
    (reaches base (0x1E01000 + 0x20 * 127) ∧ reaches base Reg.HLTH_CTRL) ∧
      (7 < unitCount 1 ∧ (regs [(Reg.HLTH_HANG_HANG_US, 0)]).rd Reg.HLTH_HANG_HANG_US = 0 ∧ busy.rd Reg.HLTH_HANG_HANG_US ≠ 0 ∧ busy.hasWork 1 7 = true) ∧
      (reaches fen Reg.HLTH_UNFENCE ∧ bitsOf (0x107#32).toNat 8 2 = 1 ∧ bitsOf (0x107#32).toNat 0 6 = 7 ∧ fen.isFenced 1 7 = true ∧
        reaches base Reg.HLTH_UNFENCE ∧ base.isFenced 1 7 = false) ∧
      ∀ u ∈ [(0, 63), (1, 7), (2, 3)], u.2 < unitCount u.1 ∧ ({ kind := u.1, unit := u.2 } : UnitId) ∈ (te fen).hlth.testing ∧
        (te fen).isFenced u.1 u.2 = true ∧ (te base).isFenced u.1 u.2 = false ∧ (u.1 = 0 → (te fen).rd (Reg.HLTH_GRP_SET_EXHAUSTED (u.2 / 8)) = 0) := by
  simp only [reaches]
  decide +kernel

theorem test_meets_MarginPlansFallDueRunAndEnd :
    let st : Nat → State := fun n => { regs [(Reg.HLTH_STATUS_PLAN, n), (Reg.SCHED_STATUS_FREE_CORES, 64), (Reg.HLTH_PLAN_CFG_INTERVAL_H, 1),
        (Reg.HLTH_PLAN_CFG_DEFER_H, 1)] with
      time := { base.time with mono := 3600 * 10 ^ 9 }, hlth := { base.hlth with measured := List.range 48 } }
    let busy := regs [(Reg.HLTH_STATUS_PLAN, 1), (Reg.SCHED_STATUS_FREE_CORES, 63)]
    (∀ n ∈ [0, 1, 2, 3], (st n).planSt = n) ∧ (st 0).rd Reg.PWR_STATUS_STATE = 0 ∧
      (max 1 ((st 0).rd Reg.HLTH_PLAN_CFG_INTERVAL_H) * 3600 * 10 ^ 9 ≤ (st 0).time.mono - (st 0).rd64 Reg.HLTH_PLAN_LAST_LO Reg.HLTH_PLAN_LAST_HI) ∧
      (base.planSt = 0 ∧ base.time.mono - base.rd64 Reg.HLTH_PLAN_LAST_LO Reg.HLTH_PLAN_LAST_HI < max 1 (base.rd Reg.HLTH_PLAN_CFG_INTERVAL_H) * 3600 * 10 ^ 9) ∧
      ((st 1).rd Reg.SCHED_STATUS_FREE_CORES = 64 ∧ (st 1).sched.ready = [] ∧ busy.planSt = 1 ∧ busy.rd Reg.SCHED_STATUS_FREE_CORES ≠ 64) ∧
      ((st 1).hlth.planDue + (st 1).rd Reg.HLTH_PLAN_CFG_DEFER_H * 3600 * 10 ^ 9 ≤ (st 1).time.mono) ∧
      reaches (st 2) Reg.HLTH_CTRL ∧ 1000 * 1001 ≤ 1001 * 1000 ∧ (∀ m, m < 48 → m ∈ (st 2).hlth.measured) := by
  simp only [reaches]
  decide +kernel

theorem test_meets_HoistsLatchWhileArmed :
    let st : Nat → Nat → Nat → State := fun arm e on =>
      { regs [(Reg.SNAP_CTRL_ARM, arm), (Reg.SNAP_PIN_CFG_EDGE, e), (Reg.SNAP_PIN_CFG_FILT, 1), (Reg.SNAP_CTRL_SRC_PIN, on), (Reg.SNAP_CTRL_SRC_TIME, on)] with
        snap := { base.snap with armMono := some 0 }, time := { base.time with mono := 40 } }
    (∀ arm ∈ [0, 1], reaches (st arm 0 1) Reg.SNAP_CTRL ∧ (st arm 0 1).rd Reg.SNAP_CTRL_ARM = arm ∧ (st arm 0 1).rd Reg.SNAP_STATUS_HELD = 0 ∧
        (st arm 0 1).snap.armMono ≠ some (st arm 0 1).time.mono ∧ (st arm 0 1).rd Reg.PWR_STATUS_STATE = 0) ∧
      (∀ arm ∈ [0, 1], ∀ e ∈ [1, 2, 3], (st arm e 1).rd Reg.SNAP_CTRL_SRC_PIN = 1 ∧ (st arm e 1).rd Reg.SNAP_PIN_CFG_EDGE = e ∧
        (st arm e 1).rd Reg.SNAP_CTRL_ARM = arm ∧ (st arm e 1).snapEdgeCounts 40 = true) ∧
      ((st 1 1 0).rd Reg.SNAP_CTRL_SRC_PIN = 0 ∧ (st 1 1 0).rd Reg.SNAP_CTRL_SRC_TIME = 0) ∧
      (st 1 1 1).rd Reg.SNAP_CTRL_SRC_TIME = 1 ∧ (st 1 1 1).snapTime ≤ (st 1 1 1).time.sec * 10 ^ 9 + (st 1 1 1).time.ns := by
  simp only [reaches]
  decide +kernel

/-- The public key whose SM3 hash the fuses of key slot 0 hold in the tests of signed commands (the private key is 1). -/
def keyX : Nat := 0x32C4AE2C1F1981195F9904466A39C9948FE30BBFF2660BE1715A4589334C74C7
def keyY : Nat := 0xBC3736A2F4F6779C59BDCEE36B692153D0A9877CC62A474002DF32E52139F0A0
def keyHash : BitVec 256 := 0xC33CCB2DA315AC5D82B432AA0CB97BF31CA3CFC2F6A716437E0D872F99BC67E9

/-- A token, endorsement or image header: its fields, under that key's signature (r, s). -/
def signed (l : List (Nat × Nat × Nat)) (r s : Nat) : Nat := packBits ([(768, 256, keyX), (512, 256, keyY), (256, 256, r), (0, 256, s)] ++ l)

/-- The token of a lifecycle command for serial number 1 and challenge 0. -/
def tokenOf (op slot r s : Nat) : Nat := signed [(1504, 32, 0x44544B31), (1500, 4, op), (1498, 2, slot), (1408, 64, 1)] r s

/-- A lifecycle state, with serial number 1, a token and an endorsement in their registers, and challenge 0 written. -/
def lcState (lc token endorsement : Nat) : State :=
  let put := fun (a n v : Nat) => (List.range n).map (fun i => (a + 4 * i, BitVec.ofNat 32 (v >>> (32 * i))))
  { base with
    regs := (Reg.GLB_SERIAL_LO, 1) :: (Reg.GLB_SERIAL_HI, 0) :: (put (Reg.SEC_TOKEN 0) 48 token ++ put (Reg.SEC_ENDORSE 0) 32 endorsement)
    sec := { base.sec with lc := [lc, lc, lc], challengeOk := true, key := some 9 } }

theorem test_meets_LifecycleCommandsFollowTheirTable :
    let busy := (lcState 0 0 0).wr Reg.SEC_LC_STATUS_STATE 1
    let work := { lcState 1 0 0 with jobs := [job1] }
    let end_ : State := { lcState 1 0 0 with sec := { (lcState 1 0 0).sec with endorsement := some (0, 1) } }
    let burn : State := { busy with sec := { busy.sec with busy := some 4 } }
    let rev := (lcState 0 0 0).wr Reg.SEC_KEYSLOTS_REVOKED 1
    (reaches busy Reg.SEC_LC_CMD ∧ busy.rd Reg.SEC_LC_STATUS_STATE = 1) ∧
      (∀ n ∈ [0, 1, 2, 3, 4], reaches (lcState n 0 0) Reg.SEC_LC_CMD ∧ (lcState n 0 0).rd Reg.SEC_LC_STATUS_STATE ≠ 1 ∧ (lcState n 0 0).lifecycle = n ∧
        (lcState n 0 0).lcQuiet = true) ∧
      (reaches work Reg.SEC_LC_CMD ∧ work.lcQuiet = false ∧ work.lifecycle = 1) ∧
      ((lcState 1 0 0).sec.endorsement = none ∧ (lcState 1 0 0).endorseSlot = none) ∧
      (end_.sec.endorsement.isSome = true ∧ end_.lcQuiet = true ∧ end_.lifecycle = 1) ∧
      ((rev.rd Reg.SEC_KEYSLOTS_REVOKED ||| 2 ^ 1) % 4 = 3 ∧ reaches rev Reg.SEC_LC_CMD ∧ burn.sec.busy = some 4) := by
  simp only [reaches]
  decide +kernel

/-- A token whose signature verifies is accepted when slot 0 holds the key's hash. -/
theorem tokenOk_of {s : State} {op slot tok : Nat} (h : Config.fuseKeyHash 0 = keyHash)
    (hl : s.regBytes (Reg.SEC_TOKEN 0) 48 = bytesOf 192 tok)
    (hk : BitVec.ofNat 256 (ofBytes (sm3 (((bytesOf 192 tok).drop 64).take 64))) = keyHash)
    (hf : (bitsOf (s.rd Reg.SEC_KEYSLOTS_REVOKED) 0 1 == 0 && bitsOf (ofBytes (bytesOf 192 tok)) 1504 32 == 0x44544B31 &&
      bitsOf (ofBytes (bytesOf 192 tok)) 1500 4 == op && bitsOf (ofBytes (bytesOf 192 tok)) 1498 2 == slot &&
      bitsOf (ofBytes (bytesOf 192 tok)) 1472 26 == 0 &&
      bitsOf (ofBytes (bytesOf 192 tok)) 1408 64 == s.rd64 Reg.GLB_SERIAL_LO Reg.GLB_SERIAL_HI && s.sec.challengeOk &&
      bitsOf (ofBytes (bytesOf 192 tok)) 1152 256 == ofBytes (s.regBytes (Reg.SEC_CHALLENGE 0) 8) &&
      bitsOf (ofBytes (bytesOf 192 tok)) 1024 128 == 0) = true)
    (v : sm2Verify (bitsOf (ofBytes (bytesOf 192 tok)) 768 256, bitsOf (ofBytes (bytesOf 192 tok)) 512 256) ((bytesOf 192 tok).drop 64)
      (bitsOf (ofBytes (bytesOf 192 tok)) 256 256) (bitsOf (ofBytes (bytesOf 192 tok)) 0 256) = true) : s.tokenOk op slot = true := by
  unfold State.tokenOk
  simp only [hl, hk, h, v]
  simp only [Bool.and_eq_true] at hf ⊢
  simp [hf]

/-- The signature of a token, an endorsement or an image, as its bits hold it. -/
def signedOk (v n : Nat) : Prop :=
  sm2Verify (bitsOf (ofBytes (bytesOf n v)) 768 256, bitsOf (ofBytes (bytesOf n v)) 512 256) ((bytesOf n v).drop 64)
    (bitsOf (ofBytes (bytesOf n v)) 256 256) (bitsOf (ofBytes (bytesOf n v)) 0 256) = true

/-- Tokens of PROVISION, RETURN and REVOKE for slot 1. -/
def token2 : Nat := tokenOf 2 0 0x7068AD888A976328CF6CDC00651FD9AE53E3A54A1BB6A05F2FC4B42EB32C53E8 0x47CBA93B3AB44E6B984991FFCD7013288F101D108307B26611FB9FED435476A1
def token5 : Nat := tokenOf 5 0 0x49F5EB471478EF26AC12F5FD5919A025FD887CDC5395370DE317E37B12A22FB0 0x5B050A5BF5C3886CA9F6850153732FECBA3DB1476718670EB8520847139988BD
def token7 : Nat := tokenOf 7 1 0x4DA8DE162997FBE8CA4B71F1D96F264E0662F0D24BAFFCFD45C8849ED5602377 0xD92B90F3EB34020B9ADA470713486CD86ED26701FBEE06ACB0D7B1B9CF252F6B

/-- The clauses whose token is accepted: the fuse hash of slot 0 is a constant of `Config` with no body (log entry 50), so the key
that it holds has to be named, and the signatures of RETURN and REVOKE are taken to verify as that of PROVISION does below. -/
theorem test_meets_LifecycleCommandsFollowTheirTable_token (h : Config.fuseKeyHash 0 = keyHash) :
    (∀ q ∈ [(0, token2), (2, token5), (2, token7)], let s := lcState q.1 q.2 0
      reaches s Reg.SEC_LC_CMD ∧ s.rd Reg.SEC_LC_STATUS_STATE ≠ 1 ∧ s.lifecycle = q.1 ∧ s.lcQuiet = true ∧
        (s.rd Reg.SEC_KEYSLOTS_REVOKED ||| 2 ^ 1) % 4 ≠ 3) ∧
    (signedOk token2 192 → (lcState 0 token2 0).tokenOk 2 0 = true) ∧ (signedOk token5 192 → (lcState 2 token5 0).tokenOk 5 0 = true) ∧
      (signedOk token7 192 → (lcState 2 token7 0).tokenOk 7 1 = true) := by
  refine ⟨by simp only [reaches]; decide +kernel, fun v => ?_, fun v => ?_, fun v => ?_⟩
  · exact tokenOk_of (tok := token2) h (by decide +kernel) (by decide +kernel) (by decide +kernel) v
  · exact tokenOk_of (tok := token5) h (by decide +kernel) (by decide +kernel) (by decide +kernel) v
  · exact tokenOk_of (tok := token7) h (by decide +kernel) (by decide +kernel) (by decide +kernel) v

theorem test_signature_of_a_provision_token_verifies : signedOk token2 192 := by
  unfold signedOk
  rw [show bitsOf (ofBytes (bytesOf 192 token2)) 768 256 = keyX by decide +kernel,
    show bitsOf (ofBytes (bytesOf 192 token2)) 512 256 = keyY by decide +kernel,
    show bitsOf (ofBytes (bytesOf 192 token2)) 256 256 = 0x7068AD888A976328CF6CDC00651FD9AE53E3A54A1BB6A05F2FC4B42EB32C53E8 by decide +kernel,
    show bitsOf (ofBytes (bytesOf 192 token2)) 0 256 = 0x47CBA93B3AB44E6B984991FFCD7013288F101D108307B26611FB9FED435476A1 by decide +kernel,
    show (bytesOf 192 token2).drop 64 = bytesOf 128 0x44544B3120000000000000000000000100000000000000000000000000000000000000000000000000000000000000000000000000000000000000000000000032C4AE2C1F1981195F9904466A39C9948FE30BBFF2660BE1715A4589334C74C7BC3736A2F4F6779C59BDCEE36B692153D0A9877CC62A474002DF32E52139F0A0 by decide +kernel]
  decide +kernel

theorem test_meets_LifecycleCommandsFollowTheirTable_no_token : (lcState 0 0 0).tokenOk 2 0 = false := by
  unfold State.tokenOk
  simp only [show (bitsOf (ofBytes ((lcState 0 0 0).regBytes (Reg.SEC_TOKEN 0) 48)) 1504 32 == 0x44544B31) = false by decide +kernel,
    Bool.and_false, Bool.false_and]

/-- An endorsement of the identity key 9 of serial number 1, taken to verify. -/
def endorse0 : Nat := signed [] 0xB5568AA5B365ACF909DC3DD86FC432395A699A9218A6DDBC2D098195E37359AA 0x2554BAACA64D29837B11E113C81DE6E30BCD226C848F93B793593939AB30F3C0

theorem test_meets_LifecycleCommandsFollowTheirTable_endorse (h : Config.fuseKeyHash 0 = keyHash)
    (v : sm2Verify (keyX, keyY) (bytesOf 8 1 ++ bytesOf 64 ((sm2Public 9).1 * 2 ^ 256 + (sm2Public 9).2)) (bitsOf endorse0 256 256) (bitsOf endorse0 0 256) = true) :
    (reaches (lcState 1 0 endorse0) Reg.SEC_LC_CMD ∧ (lcState 1 0 endorse0).rd Reg.SEC_LC_STATUS_STATE ≠ 1 ∧
      (lcState 1 0 endorse0).lifecycle = 1 ∧ (lcState 1 0 endorse0).sec.endorsement = none) ∧
    (lcState 1 0 endorse0).endorseSlot = some 0 := by
  refine ⟨by simp only [reaches]; decide +kernel, ?_⟩
  unfold State.endorseSlot
  simp only [show (lcState 1 0 endorse0).sec.key = some 9 by decide +kernel,
    show (lcState 1 0 endorse0).regBytes (Reg.SEC_ENDORSE 0) 32 = bytesOf 128 endorse0 by decide +kernel,
    show (lcState 1 0 endorse0).rd64 Reg.GLB_SERIAL_LO Reg.GLB_SERIAL_HI = 1 by decide +kernel,
    show (lcState 1 0 endorse0).rd Reg.SEC_KEYSLOTS_REVOKED = 0 by decide +kernel,
    show ofBytes (bytesOf 128 endorse0) = endorse0 by decide +kernel,
    show bitsOf endorse0 768 256 = keyX by decide +kernel, show bitsOf endorse0 512 256 = keyY by decide +kernel,
    show BitVec.ofNat 256 (ofBytes (sm3 ((bytesOf 128 endorse0).drop 64))) = keyHash by decide +kernel, v, if_true, List.find?, h]
  rfl

/-- An image of its header alone, taken to verify. -/
def image0 : Nat := signed [(2016, 32, 0x44465731), (2008, 8, 1), (1968, 32, 256)] 0xB7183947232ACE4315D27C2802BDEDFCEAC7624B3308103FD258DDAC4AE4917E 0x2473E35BEE6A98DE7516C1EBFEA10901439E3E8FF75EFA75C0B18B2E777857D6

theorem test_meets_SigningBootAndTamper_image (h : Config.fuseKeyHash 0 = keyHash)
    (v : sm2Verify (keyX, keyY) ((bytesOf 256 image0).drop 64) (bitsOf image0 256 256) (bitsOf image0 0 256) = true) :
    let s : State := { base with pwr := { base.pwr with booting := true } }
    s.imageDue = some 0 ∧ (s.wr Reg.SEC_CTRL_RECOV_GO 0).imageCheck (bytesOf 256 image0) = none := by
  refine ⟨by decide +kernel, ?_⟩
  unfold State.imageCheck
  simp only [show (bytesOf 256 image0).take 256 = bytesOf 256 image0 by decide +kernel, show ofBytes (bytesOf 256 image0) = image0 by decide +kernel,
    show bitsOf image0 768 256 = keyX by decide +kernel, show bitsOf image0 512 256 = keyY by decide +kernel,
    show bitsOf image0 2006 2 = 0 by decide +kernel, show bitsOf image0 2016 32 = 0x44465731 by decide +kernel,
    show bitsOf image0 2008 8 = 1 by decide +kernel, show bitsOf image0 1968 32 = 256 by decide +kernel,
    show bitsOf image0 1024 912 = 0 by decide +kernel, show bitsOf image0 2000 6 = 0 by decide +kernel,
    show (bytesOf 256 image0).length = 256 by decide +kernel,
    show BitVec.ofNat 256 (ofBytes (sm3 (((bytesOf 256 image0).drop 64).take 64))) = keyHash by decide +kernel, h, v]
  decide +kernel

theorem test_meets_SigningBootAndTamper :
    let der : State := { base with sec := { base.sec with reDeriving := true } }
    let key : State := { base with sec := { base.sec with key := some 9 } }
    let bth : State := { key with sec := { key.sec with quoteReq := some { nonce := 0, mono := 0 } } }
    let bur : State := { key with sec := { key.sec with burgeeReq := some { nonce := 0, mono := 0 } } }
    let svn := regs [(Reg.SEC_STATUS_SVN_RUN, 63)]
    let rom : State := { base with pwr := { base.pwr with romService := true } }
    let boot : Nat → State := fun n => { base with pwr := { base.pwr with booting := true }, sec := { base.sec with badImages := n } }
    let tam := regs [(Reg.SEC_TAMPER_EN_EN, 0x10)]
    (der.sec.reDeriving = true ∧ der.rd Reg.MEM_SECURE_STATUS_WIPING = 0) ∧
      (∀ s ∈ [base, key, bth, bur, svn, rom], reaches s Reg.SEC_CTRL) ∧
      (bth.sec.quoteReq.isSome = true ∧ bur.sec.burgeeReq.isSome = true ∧ key.sec.quoteReq = none ∧ key.sec.burgeeReq = none ∧
        key.sec.key.isSome = true ∧ bth.sec.key.isSome = true ∧ bur.sec.key.isSome = true ∧ bur.sec.quoteReq = none) ∧
      (base.sec.quoteReq = none ∧ base.sec.key = none ∧ base.sec.reDeriving = false) ∧
      (svn.rd Reg.SEC_STATUS_SVN_FUSE < svn.rd Reg.SEC_STATUS_SVN_RUN ∧ base.rd Reg.SEC_STATUS_SVN_RUN ≤ base.rd Reg.SEC_STATUS_SVN_FUSE) ∧
      (rom.pwr.romService = true ∧ rom.lifecycle ≠ 4 ∧ base.pwr.romService = false) ∧
      (∀ n ∈ [0, 1], (boot n).imageDue = some n) ∧ ([] : List Nat).length < 256 ∧
      (bitsOf (tam.rd Reg.SEC_TAMPER_EN_EN) 3 1 = 0 ∧ bitsOf (tam.rd Reg.SEC_TAMPER_EN_EN) 4 1 = 1) ∧
      reaches base Reg.SEC_TAMPER_CLR ∧ bitsOf (0xA5000001#32).toNat 24 8 = 0xA5 ∧ bitsOf (0xA5000001#32).toNat 0 1 = 1 ∧
      bitsOf (1#32).toNat 24 8 ≠ 0xA5 := by
  simp only [reaches]
  decide +kernel

/-! Ill-formed commands, one for each number a command names: the check refuses every one. -/

theorem test_ill_formed_host_refused :
    [Instr.commandRingPoll [0, 16], .slotReadCompletion 16 0, .slotReread 16 0, .slotAccept 16 0, .nop (2 ^ 32),
     .fence (2 ^ 32), .progLoad (2 ^ 32) [], .progUnload (2 ^ 32), .progUnloadDrainEnd 32, .progLoadEnd 32,
     .streamOpen (2 ^ 32) 0, .streamBind (2 ^ 32), .streamClose (2 ^ 32), .streamCloseDrainEnd 128, .auSubmit (2 ^ 32),
     .auFetchDone 128 0, .auFetchDone 0 (2 ^ 32), .jobRun (2 ^ 32) [], .adaptRun (2 ^ 32) [], .statReq (2 ^ 32),
     .pennantWrite 64 0, .consumerRecordReread 64 0, .msixTimerExpiry 64, .msixVectorUnmask 256, .cringEnable 16 0,
     .cringDisable 16 0, .cringLehrEnd 16, .pringEnable 64 0 0, .pringDisable 64 0, .pringLehrEnd 64,
     .hifCringSeq0Write 16 0, .registerWrite 2 0 15, .registerWrite 0x4000000 0 15, .loRegisterRead 2,
     .loRegisterRead 0x4000000, .timeTpiSecLoRead 2, .pcieLaneFailure 16].all (fun i => !i.wellFormed) = true := by
  decide

theorem test_ill_formed_stream_refused :
    [Instr.decBlockRowDone 8 [] {} 0 0 0, .decPictureDone 8, .decOffline 8, .decOnline 8, .decMoveDone 128,
     .netPortEnable 2 0, .autonegComplete 2 0, .netLaneFailure 2 0, .netLaneFailure 0 4, .latencyCalibrationDone 2 0,
     .frameStaleClose 32, .igmpReportTimer 32 true, .flowEnable 32 0, .flowDisable 32 0, .flowLehrEnd 32,
     .mergeWindowExpiry 32 0, .mergeWindowExpiry 0 (2 ^ 32), .ssrcAdopt 32 true, .pathLoss 32 true, .netSilent 32,
     .swTimestampInterrupt 32, .ptpSync 2 0 0 0 0, .ptpDelayResp 2 0 0, .delayReqTimer 2, .tpOutArm 4 0, .tpOutPulse 4,
     .tpInEdge 2 true 0, .shpSampleSlot 128 0 0, .shpSampleSlot 0 (2 ^ 32) 0, .shpSampleDone 128 0 0 0,
     .shpSampleDone 0 (2 ^ 32) 0 0, .batchWaitExpiry 8 0 0, .batchWaitExpiry 0 0 4, .flush 8, .testStandin 8,
     .batchDispatch 8 0 0, .batchDispatch 0 0 4, .netLinkLost 2].all (fun i => !i.wellFormed) = true := by
  decide

theorem test_ill_formed_compute_refused :
    [Instr.tileJobPlacement 4, .tileIssue 64, .chunkStaged 64 0, .drainRow 64 0 0 0 false, .tileCommit 64,
     .checkRunDone 64 true, .ckInject 64, .coreOffline 64, .coreOnline 64, .mrvProbe 64, .sgsOperationCommit 4,
     .sgsOffline 4 true, .sgsMoveDone 128, .preemptionDecision 4, .contextSaveDone 64 0, .saveAreaRetry 4,
     .contextRestore 64 0 0 0 0 false, .remoteResponse 64 0, .classEnable 4 0, .classLehrEnd 4, .starveCheck 4, .maxwaitClear 4,
     .fabricRequestGrant [{ leaf := 0, port := 0, svc := 4, ticket := 0 }],
     .fabricRequestGrant [{ leaf := 0, port := 0, svc := 0, ticket := 2 ^ 32 }]].all (fun i => !i.wellFormed) = true := by
  decide

theorem test_ill_formed_memory_refused :
    [Instr.poolDraw 32 0 1 0 0, .poolDraw 0 8 1 0 0, .poolDraw 0 0 1 4 0, .stalledDrawGrant 8, .poolFree 8 0,
     .poolRefill 8 [], .poolEnable 8 0, .poolDisable 8 0, .poolLehrEnd 8, .poolResWrite 32 0 0, .poolResWrite 0 8 0,
     .poolThreshWrite 8 0, .sbPinnedAlloc 8 0 0 0, .sbPinnedAlloc 0 4 0 0, .wayLinePass 8 0 0 [] [], .wayLinePass 0 16 0 [] [],
     .onChipEccError 7 0 0 none true, .hbmRequestIssue 64 [] false 0, .urgencyRise 64 0, .refresh 64,
     .hbmTempReading 2 0, .hbmTrainingDone 2 0 true, .hbmTrainingDone 0 64 true, .dqTracking 64, .patrolScrub 6 0 0,
     .rankRetire 6 0, .retire 6, .rankDrainDone 6, .hbmPortMaxlatClear 24].all (fun i => !i.wellFormed) = true := by
  decide

theorem test_ill_formed_link_refused :
    [Instr.lnkPortEnable 4 0, .lnkPortLehrEnd 4, .portTrainingDone 4 0 { dev := 0, port := 0, kind := 1, ndev := 2 } 0, .flitReceive 4 true 0 0 0,
     .replayRequest 4 0, .creditReturn 4 0 0 0, .lnkLaneFailure 4 0, .lnkLaneFailure 0 8, .portDown 4,
     .topologyUpdate 8 0, .rejoinTimeout 8, .peerRejoin 4 0, .peerRejoin 0 8, .recordEntryClear 128,
     .railReadback 12 none, .railFault 12, .revoke 3, .tamperEvent 5 0, .tamperEvent 0 13].all
      (fun i => !i.wellFormed) = true := by
  decide

/-- Commands that carry a record, each with a number one past its last. -/
theorem test_ill_formed_record_refused (p : PicInfo) (f : EthFrame) (t : TileId) (m : TileMsg) (c : CollChunk) :
    ((Instr.decPictureChoice 8 p).wellFormed || (Instr.ethFrameReceive 2 f).wellFormed || (Instr.receipt 8 t 0).wellFormed ||
      (Instr.ackTimeout 8 t).wellFormed || (Instr.releaseTile 8 t).wellFormed || (Instr.tileArrival 4 m).wellFormed ||
      (Instr.collectiveChunkArrival 4 c).wellFormed) = false := rfl

/-- The last number of each kind is accepted. -/
theorem test_last_numbers_well_formed :
    [Instr.commandRingPoll [15], .slotAccept 15 0, .nop (2 ^ 32 - 1), .progLoadEnd 31, .streamCloseDrainEnd 127,
     .auFetchDone 127 (2 ^ 32 - 1), .pennantWrite 63 0, .msixVectorUnmask 255, .registerWrite 0x3FFFFFC 0 15,
     .timeTpiSecLoRead 1, .pcieLaneFailure 15, .decOffline 7, .netLaneFailure 1 3, .flowEnable 31 0, .tpOutArm 3 0,
     .batchWaitExpiry 7 0 3, .tileIssue 63, .sgsOperationCommit 3, .poolDraw 31 7 1 3 0, .wayLinePass 7 15 0 [] [],
     .onChipEccError 6 0 0 none true, .hbmTrainingDone 1 63 true, .retire 5, .hbmPortMaxlatClear 23, .lnkLaneFailure 3 7,
     .peerRejoin 3 7, .recordEntryClear 127, .railFault 11, .revoke 2, .tamperEvent 4 12].all Instr.wellFormed = true := by
  decide

/-- The opcode table gives no row any bits, so no word spells a command. -/
theorem test_no_word_spells_a_command (nbits w : Nat) : decodeTableWord nbits w = none := rfl


/-- R731 and the example of R733: row names, and the balls of lane 5 of Ranlink port 1. -/
theorem test_ball_names :
    [1, 2, 19, 20, 38, 39, 49, 50, 69].map rowName = ["A", "B", "Y", "AA", "AY", "BA", "BL", "BM", "CM"] ∧
      ballName (SerdesLane.ranlink true 1 5).balls.1 = "BL2" ∧ ballName (SerdesLane.ranlink true 1 5).balls.2 = "BM2" ∧
      ballName (SerdesLane.ranlink false 1 5).balls.1 = "BL5" ∧ ballName (SerdesLane.ranlink false 1 5).balls.2 = "BM5" := by
  decide

/-- R732: the groups account for every ball of the 69 × 69 array. -/
theorem test_ball_groups_fill_the_package : (ballGroups.map Prod.snd).sum = 69 * 69 := by
  decide

/-- R742's example, in thousandths of a degree: grade C at 340 W. -/
theorem test_lid_limit_of_a_grade_c_part : lidLimit 100 340 = 76300 ∧ hbmSensors 76300 340 = 83100 := by
  decide
end Sys2Proof.Tests
end

section
/-! SUPPORT. What holds of every step and of every command, whatever it is: each follows from `exec_keeps` and `State.tick_keeps`. -/

set_option Elab.async false

namespace Sys2Proof

open Machine

/-! ### The canonical form of the tables -/

/-- A command that answers a next state keeps the canonical form. -/
theorem exec_canonical {i : Instr} {s t : Machine.State} (h : exec i s = .next t) (hs : canonical s) : canonical t :=
  ((exec_keeps i s).next t h).canon hs

/-- A tick of the always-on domain keeps the canonical form. -/
theorem tick_canonical {s : Machine.State} (hs : canonical s) : canonical s.tick :=
  (State.tick_keeps (L := 8388667) s rfl (Keeps.refl s)).canon hs

/-- Settles O5: a step is a tick or the command at the front of the queue, and the queue is no part of the tables. -/
theorem canonicalTablesStayCanonical : Obligations.CanonicalTablesStayCanonical := by
  intro s t hs hstep
  unfold step at hstep
  split at hstep
  case h_1 =>
    cases hstep
    exact tick_canonical hs
  case h_2 c rest _ => exact exec_canonical hstep (s := { s with pending := rest }) hs

/-! ### The parts a command may change -/

/-- Two parts of the same number are the same part. -/
theorem Part.bit_inj {p q : Part} : p.bit = q.bit ↔ p = q := by
  cases p <;> cases q <;> decide

/-- The mask of a list of parts has the bit of a part exactly when the list holds the part. -/
theorem testBit_maskOf (l : List Part) (p : Part) : (maskOf l).testBit p.bit = decide (p ∈ l) := by
  induction l with
  | nil => simp [maskOf]
  | cons q l ih =>
    have hcons : maskOf (q :: l) = 2 ^ q.bit ||| maskOf l := rfl
    simp [hcons, Nat.testBit_or, Nat.testBit_two_pow, ih, Part.bit_inj, eq_comm (a := q)]

/-- Settles O16: `exec_keeps` bounds what differs by the mask of `mayChange`, whose bits are the listed parts. -/
theorem everyCommandChangesOnlyItsParts : Obligations.EveryCommandChangesOnlyItsParts := by
  intro i s t h p hp
  refine ((exec_keeps i s).next t h).parts.same p ?_
  rw [testBit_maskOf]
  exact decide_eq_false hp

end Sys2Proof
end

section
/-! SUPPORT. The state right after power-on reset: it lists no register, so that every register reads its table's reset value. -/

set_option Elab.async false

namespace Sys2Proof

open Machine

/-- At power-on reset a register reads its table's reset value (R11, R748). -/
theorem reg_reset (a : Nat) : State.reset.reg a = regReset a := rfl

/-- Empty tables are canonical. -/
theorem canonical_reset : canonical State.reset := ⟨rfl, rfl⟩

/-- Settles O7: the tables are empty, and each state field is looked up in the reset values of its register's table. -/
theorem stateAfterPowerOnReset : Obligations.StateAfterPowerOnReset := by
  refine ⟨canonical_reset, rfl, reg_reset, ?cring, ?pring, ?stream, ?flow, ?pool, rfl, rfl, ?ready⟩
  case cring => decide +kernel
  case pring => decide +kernel
  case stream => decide +kernel
  case flow => decide +kernel
  case pool => decide +kernel
  case ready => decide +kernel

end Sys2Proof
end

section
/-! SUPPORT. The bits of a layout: what each bit of `packBits` and of a register's mask is when the fields stand from high to low. -/

set_option Elab.async false

namespace Sys2Proof.Machine

/-! ### Bits of a layout -/

/-- The bit of a number made of a high part and a low part. -/
theorem testBit_shiftLeft_add {x lo y : Nat} (hy : y < 2 ^ lo) (k : Nat) :
    (x <<< lo + y).testBit k = if k < lo then y.testBit k else x.testBit (k - lo) := by
  rw [Nat.shiftLeft_eq, Nat.mul_comm, Nat.testBit_two_pow_mul_add x hy]

/-- A layout fits below the end of its highest field, its fields standing from high to low. -/
theorem packBits_lt {l : List (Nat × Nat × Nat)} {n : Nat} (hl : l.Pairwise fun f g => g.1 + g.2.1 ≤ f.1)
    (hn : ∀ f ∈ l, f.1 + f.2.1 ≤ n) : packBits l < 2 ^ n := by
  induction l generalizing n with
  | nil => exact Nat.two_pow_pos n
  | cons f l ih =>
    obtain ⟨lo, w, v⟩ := f
    obtain ⟨hbelow, hl⟩ := List.pairwise_cons.mp hl
    have hrest : packBits l < 2 ^ lo := ih hl hbelow
    have hfit : lo + w ≤ n := hn _ List.mem_cons_self
    refine Nat.lt_pow_two_of_testBit _ fun k hk => ?_
    rw [packBits, testBit_shiftLeft_add hrest, if_neg (by omega), Nat.testBit_mod_two_pow]
    simp only [Bool.and_eq_false_iff, decide_eq_false_iff_not]
    omega

/-- A bit of a field of a layout is the bit of the field's value. -/
theorem testBit_packBits {l : List (Nat × Nat × Nat)} {lo w v k : Nat} (hl : l.Pairwise fun f g => g.1 + g.2.1 ≤ f.1)
    (hf : (lo, w, v) ∈ l) (h1 : lo ≤ k) (h2 : k < lo + w) : (packBits l).testBit k = v.testBit (k - lo) := by
  induction l with
  | nil => cases hf
  | cons f l ih =>
    obtain ⟨hbelow, hl⟩ := List.pairwise_cons.mp hl
    have hrest : packBits l < 2 ^ f.1 := packBits_lt hl hbelow
    rw [packBits, testBit_shiftLeft_add hrest]
    rcases List.mem_cons.mp hf with rfl | hmem
    · have hw : k - lo < w := by omega
      rw [if_neg (by omega), Nat.testBit_mod_two_pow]
      simp [hw]
    · have hk : k < f.1 := Nat.lt_of_lt_of_le h2 (hbelow _ hmem)
      rw [if_pos hk, ih hl hmem]

/-! ### The masks of a register -/

/-- The fields of a register stand from high to low, within its 32 bits. -/
def RegRow.laidOut (r : RegRow) : Prop :=
  (r.fields.Pairwise fun f g => g.lo + g.w ≤ f.lo) ∧ ∀ f ∈ r.fields, f.lo + f.w ≤ 32

/-- A mask has all bits of each field of its access codes, and no bit of another field. -/
theorem RegRow.mask_eq (r : RegRow) (p : Acc → Bool) :
    r.mask p = packBits (r.fields.map fun f => (f.lo, f.w, if p f.acc then 2 ^ f.w - 1 else 0)) := by
  unfold RegRow.mask
  induction r.fields with
  | nil => rfl
  | cons f l ih => by_cases h : p f.acc <;> simp [h, packBits, ih]

/-- A bit of a field is in a mask exactly when the mask takes the field's access code. -/
theorem RegRow.testBit_mask {r : RegRow} (hr : r.laidOut) (p : Acc → Bool) {f : FieldRow} (hf : f ∈ r.fields) {k : Nat}
    (h1 : f.lo ≤ k) (h2 : k < f.lo + f.w) : (r.mask p).testBit k = p f.acc := by
  have hk : k - f.lo < f.w := by omega
  have hmem : (f.lo, f.w, if p f.acc then 2 ^ f.w - 1 else 0) ∈
      r.fields.map fun f => (f.lo, f.w, if p f.acc then 2 ^ f.w - 1 else 0) := List.mem_map.mpr ⟨f, hf, rfl⟩
  rw [r.mask_eq, testBit_packBits (List.pairwise_map.mpr hr.1) hmem h1 h2]
  cases p f.acc <;> simp [Nat.testBit_two_pow_sub_one, hk]

/-- Every register of the tables is laid out from high to low. -/
theorem rowsAt_laidOut (a : Nat) : ∀ r ∈ rowsAt a, r.laidOut := by
  unfold rowsAt
  dsimp only
  repeat' apply ite_both (P := fun rows : List RegRow => ∀ r ∈ rows, r.laidOut)
  all_goals
    unfold RegRow.laidOut
    decide +kernel

theorem laidOut_of_rowOf {a : Nat} {r : RegRow} (h : rowOf a = some r) : r.laidOut := by
  unfold rowOf at h
  exact rowsAt_laidOut a r (List.mem_of_find?_eq_some h)

/-! ### What a write by access codes leaves in a register -/

/-- What an access code makes of a bit that holds `old` when `new` is written (R12). -/
def Acc.written (c : Acc) (old new : Bool) : Bool :=
  match c with
  | .rw => new
  | .ro => old
  | .wo => old
  | .w1c => old && !new
  | .st => old && !new
  | .w1s => old || new

/-- The register is an error register: VALID, its bit 31, is a sticky bit (R14). -/
def RegRow.hasValid (r : RegRow) : Prop := ∃ f ∈ r.fields, f.lo = 31 ∧ f.acc = .st

theorem bitsOf_one_eq_one_iff (x b : Nat) : bitsOf x b 1 = 1 ↔ x.testBit b = true := by
  rw [bitsOf_eq, Nat.testBit_eq_decide_div_mod_eq, decide_eq_true_iff, Nat.pow_one]

theorem RegRow.hasValid_iff (r : RegRow) : r.fields.any (fun f => f.lo == 31 && f.acc == .st) = true ↔ r.hasValid := by
  simp [RegRow.hasValid, List.any_eq_true]

/-- A write of 1 to VALID of an error register clears it whole (R14). -/
theorem RegRow.written_of_clears {r : RegRow} {w : Nat} (old : Nat) (h : r.hasValid ∧ w.testBit 31 = true) :
    r.written old w = 0 := by
  unfold RegRow.written
  exact if_pos ⟨r.hasValid_iff.mpr h.1, (bitsOf_one_eq_one_iff w 31).mpr h.2⟩

/-- Any other write acts on each bit by its field's access code (R12). -/
theorem RegRow.testBit_written {r : RegRow} (hr : r.laidOut) {w : Nat} (old : Nat) (h : ¬(r.hasValid ∧ w.testBit 31 = true))
    {f : FieldRow} (hf : f ∈ r.fields) {k : Nat} (h1 : f.lo ≤ k) (h2 : k < f.lo + f.w) :
    (r.written old w).testBit k = f.acc.written (old.testBit k) (w.testBit k) := by
  have hk : k < 32 := Nat.lt_of_lt_of_le h2 (hr.2 f hf)
  have hne : ¬(r.fields.any (fun f => f.lo == 31 && f.acc == .st) = true ∧ bitsOf w 31 1 = 1) := by
    rwa [r.hasValid_iff, bitsOf_one_eq_one_iff]
  unfold RegRow.written
  simp only [if_neg hne, Nat.testBit_or, Nat.testBit_and, Nat.testBit_xor, Nat.testBit_two_pow_sub_one, hk,
    RegRow.testBit_mask hr _ hf h1 h2]
  cases f.acc <;> simp [Acc.written, beq_eq_decide]

/-! ### Writes to registers that act by their access codes alone -/

/-- From `s` to `t` the word `w` is written to the register at `a` by the access codes of its fields. -/
structure WrittenByCodes (a : Nat) (w : BitVec 32) (s t : State) : Prop where
  only : onlyRegs [a] s t
  clears : ∀ {r}, rowOf a = some r → r.hasValid ∧ w.getLsbD 31 = true → t.reg a = 0
  bits : ∀ {r}, rowOf a = some r → ¬(r.hasValid ∧ w.getLsbD 31 = true) → ∀ f ∈ r.fields, ∀ k, f.lo ≤ k → k < f.lo + f.w →
    (t.reg a).getLsbD k = f.acc.written ((s.reg a).getLsbD k) (w.getLsbD k)

/-- A write where no register lies changes nothing (R17). -/
theorem plainWrite_of_no_register (s : State) {a : Nat} (w : BitVec 32) (h : rowOf a = none) : s.plainWrite a w = s := by
  unfold State.plainWrite
  rw [h]

theorem plainWrite_of_register (s : State) {a : Nat} (w : BitVec 32) {r : RegRow} (h : rowOf a = some r) :
    s.plainWrite a w = s.setReg a (BitVec.ofNat 32 (r.written (s.reg a).toNat w.toNat)) := by
  unfold State.plainWrite
  rw [h]

theorem plainWrite_onlyRegs (s : State) (a : Nat) (w : BitVec 32) : onlyRegs [a] s (s.plainWrite a w) := by
  cases h : rowOf a with
  | none => rw [plainWrite_of_no_register s w h]; exact ⟨rfl, fun _ _ => rfl⟩
  | some r =>
    rw [plainWrite_of_register s w h]
    exact ⟨rfl, fun b hb => reg_setReg_other s a b _ (List.ne_of_not_mem_cons hb)⟩

theorem plainWrite_writtenByCodes (s : State) (a : Nat) (w : BitVec 32) : WrittenByCodes a w s (s.plainWrite a w) where
  only := plainWrite_onlyRegs s a w
  clears := fun hr hv => by
    rw [plainWrite_of_register s w hr, reg_setReg_same, RegRow.written_of_clears _ hv]
    rfl
  bits := fun hr hv f hf k h1 h2 => by
    have hlaid := laidOut_of_rowOf hr
    have hk : k < 32 := Nat.lt_of_lt_of_le h2 (hlaid.2 f hf)
    rw [plainWrite_of_register s w hr, reg_setReg_same, BitVec.getLsbD_ofNat, RegRow.testBit_written hlaid _ hv hf h1 h2]
    simp [hk, BitVec.testBit_toNat]

/-- The registers the claim on access codes speaks of: the GLB and the MEM window, and configuration registers of HIF, TIME, HLTH, SNAP
and SEC that no command of their own answers. -/
def actsByCodes (a : Nat) : Prop :=
  a / 0x100000 = 0x00 ∨ a / 0x100000 = 0x1A ∨
    a ∈ [Reg.HIF_CTRL, Reg.HIF_ERR, Reg.HIF_STATUS, Reg.TIME_ERR, Reg.TIME_SERVO_KP, Reg.TIME_SERVO_KI, Reg.TIME_SERVO_THR,
      Reg.TIME_SERVO_HOLD, Reg.TIME_SET_SEC_LO, Reg.TIME_SET_SEC_HI, Reg.HLTH_ERR, Reg.HLTH_HANG, Reg.SNAP_ERR, Reg.SEC_ERR]

/-- A dword write where no register lies, outside the record file, changes nothing (R17). -/
theorem regWrite_of_no_register (s : State) {a : Nat} (w : BitVec 32) (h : rowOf a = none)
    (hrec : ¬(0x1E01000 ≤ a ∧ a < 0x1E02000)) : s.regWrite a w = s := by
  unfold State.regWrite
  exact if_pos ⟨hrec, by rw [h]; rfl⟩

theorem regWrite_of_actsByCodes (s : State) {a : Nat} (w : BitVec 32) (h : actsByCodes a) : s.regWrite a w = s.plainWrite a w := by
  have hrec : ¬(0x1E01000 ≤ a ∧ a < 0x1E02000) := by
    rcases h with h | h | h
    · omega
    · omega
    · revert a; decide
  by_cases hrow : rowOf a = none
  · rw [regWrite_of_no_register s w hrow hrec, plainWrite_of_no_register s w hrow]
  have hreg : ¬(¬(0x1E01000 ≤ a ∧ a < 0x1E02000) ∧ (rowOf a).isNone = true) := fun hn => hrow (Option.isNone_iff_eq_none.mp hn.2)
  unfold State.regWrite
  rw [if_neg hreg]
  rcases h with h | h | h
  · rw [if_neg (by omega), if_neg (by omega), if_neg (by omega), h]
    rfl
  · rw [if_neg (by omega), if_neg (by omega), if_neg (by omega), h]
    rfl
  · simp only [List.mem_cons, List.not_mem_nil, or_false] at h
    rcases h with rfl | rfl | rfl | rfl | rfl | rfl | rfl | rfl | rfl | rfl | rfl | rfl | rfl | rfl <;> rfl

end Sys2Proof.Machine
end

section
/-! SUPPORT. REGISTER_WRITE and the debug port: the bits a write sets and clears, and what it leaves alone. -/

set_option Elab.async false

namespace Sys2Proof.Machine

/-! ### The error record of an access -/

/-- A pair of registers reads the 64-bit value stored in it. -/
theorem rd64_wr64_same (s : State) {lo hi : Nat} (v : Nat) (h : lo ≠ hi) : (s.wr64 lo hi v).rd64 lo hi = v % 2 ^ 64 := by
  unfold State.rd64 State.wr64
  rw [reg_setReg_other _ _ _ _ h, reg_setReg_same, reg_setReg_same, BitVec.toNat_ofNat, BitVec.toNat_ofNat]
  omega

/-- The first error of HIF_ERR is kept with its code (R14, R106). -/
theorem rd_hifErr_code (s : State) (code ring addr d0 d1 : Nat) (h : s.rd Reg.HIF_ERR_VALID = 0) :
    (s.hifErr code ring addr d0 d1).rd Reg.HIF_ERR_CODE = code % 2 ^ 16 := by
  unfold State.hifErr
  rw [rd_file _ _ _ _ _ _ _ (by decide) (by decide)]
  simp only [h, if_true]
  unfold State.wr64
  rw [rd_setReg_other _ _ _ _ (by decide), rd_setReg_other _ _ _ _ (by decide)]
  exact rd_setErr_code s Reg.HIF_ERR true (16, 7, ring) code (Nat.le_refl 16) (by simp) h

/-- The first error of HIF_ERR is kept with its address (R14, R106). -/
theorem rd64_hifErr_addr (s : State) (code ring addr d0 d1 : Nat) (h : s.rd Reg.HIF_ERR_VALID = 0) :
    (s.hifErr code ring addr d0 d1).rd64 Reg.HIF_ERR_ADDR_LO Reg.HIF_ERR_ADDR_HI = addr % 2 ^ 64 := by
  unfold State.hifErr State.rd64
  rw [reg_file _ _ _ _ _ _ _ (by decide) (by decide), reg_file _ _ _ _ _ _ _ (by decide) (by decide)]
  simp only [h, if_true]
  exact rd64_wr64_same _ addr (by decide)

/-! ### REGISTER_WRITE and the debug port at a served address -/

/-- REGISTER_WRITE at a served address of BAR0: the register write, or the record of partial byte enables (R58, R60). -/
theorem exec_registerWrite_of_reaches {s : State} {a : Nat} (ha : a < 2 ^ 26) (h : reaches s a) (w : BitVec 32) (be : BitVec 4) :
    exec (.registerWrite a w be) s = .next (if be = 15#4 then s.regWrite a w else s.hifErr 0x010B 63 a a 4) := by
  have hcfg : isCfg a = false := decide_eq_false (by unfold cfgBase; omega)
  show execRegisterWrite a w be s = _
  unfold execRegisterWrite State.busWrite State.after
  dsimp only
  rw [hcfg, bar_of_reaches h]
  rfl

/-- A debug write at a served address is the register write (R726). -/
theorem exec_debugWrite_of_reaches {s : State} {a : Nat} (hopen : s.rd Reg.SEC_STATUS_DEBUG_OPEN = 1) (ha : a < 0x4000000)
    (h4 : a % 4 = 0) (h : reaches s a) (w : BitVec 32) : exec (.debugPortAccess a (some w)) s = .next (s.regWrite a w) := by
  show execDebugPortAccess a (some w) s = _
  unfold execDebugPortAccess
  have ⟨_, _, hserved⟩ := h
  rw [if_pos ⟨hopen, ha, h4⟩]
  simp only [hserved, if_true, touch_of_reaches h]

/-- A debug read answers the register (R726). -/
theorem exec_debugRead {s : State} {a : Nat} (hopen : s.rd Reg.SEC_STATUS_DEBUG_OPEN = 1) (ha : a < 0x4000000) (h4 : a % 4 = 0) :
    exec (.debugPortAccess a none) s = .next (s.post (.debug a (s.read a))) :=
  if_pos ⟨hopen, ha, h4⟩

/-! ### Configuration space -/

theorem cfgReg_setCfg_same (s : State) (off : Nat) (v : BitVec 32) : (s.setCfg off v).cfgReg off = v :=
  tget_tset_same _ _ _ _

theorem cfgReg_setCfg_other (s : State) {off o : Nat} (v : BitVec 32) (h : o ≠ off) : (s.setCfg off v).cfgReg o = s.cfgReg o :=
  tget_tset_other _ _ _ _ _ h

/-- A bit is in the mask of byte enables exactly when its byte is enabled. -/
theorem testBit_beMask (be : BitVec 4) {k : Nat} (hk : k < 32) : (beMask be).testBit k = be.getLsbD (k / 8) := by
  revert be k
  decide

/-- REGISTER_WRITE to a dword of configuration space. -/
theorem exec_registerWrite_cfg (s : State) (off : Nat) (w : BitVec 32) (be : BitVec 4) :
    exec (.registerWrite (cfgBase + off) w be) s = .next (s.cfgSpaceWrite off w be) := by
  have hcfg : isCfg (cfgBase + off) = true := decide_eq_true (Nat.le_add_right _ _)
  show execRegisterWrite _ w be s = _
  unfold execRegisterWrite
  rw [hcfg, if_pos rfl, Nat.add_sub_cancel_left]

/-- The word a write to configuration space leaves: the writable bits of the enabled bytes, the write-1-to-clear bits cleared (R53). -/
def cfgWritten (r : CfgRow) (old w : Nat) (be : BitVec 4) : Nat :=
  (old &&& ((2 ^ 32 - 1) ^^^ (r.rw &&& beMask be)) &&& ((2 ^ 32 - 1) ^^^ (r.w1c &&& beMask be &&& w))) ||| (w &&& r.rw &&& beMask be)

/-- A write to a dword of configuration space other than the power-management status stores one word. -/
theorem cfgSpaceWrite_eq (s : State) {off : Nat} (w : BitVec 32) (be : BitVec 4) (h : off ≠ 0x44) :
    s.cfgSpaceWrite off w be = s.setCfg off (BitVec.ofNat 32 (cfgWritten (cfgRow off) (s.cfgReg off).toNat w.toNat be)) :=
  if_neg fun hc => h hc.1

/-- One bit of `cfgWritten`, by its byte enable, whether it is writable, whether a 1 clears it, the new and the old bit. -/
theorem cfgWritten_bit : ∀ enabled rw w1c new old : Bool,
    (old && (true ^^ (rw && enabled)) && (true ^^ (w1c && enabled && new)) || new && rw && enabled) =
      if enabled = true ∧ rw = true then new else if enabled = true ∧ w1c = true ∧ new = true then false else old := by
  decide

theorem testBit_cfgWritten (r : CfgRow) (old w : Nat) (be : BitVec 4) {k : Nat} (hk : k < 32) :
    (cfgWritten r old w be).testBit k =
      if be.getLsbD (k / 8) = true ∧ r.rw.testBit k = true then w.testBit k
      else if be.getLsbD (k / 8) = true ∧ r.w1c.testBit k = true ∧ w.testBit k = true then false
      else old.testBit k := by
  unfold cfgWritten
  simp only [Nat.testBit_or, Nat.testBit_and, Nat.testBit_xor, Nat.testBit_two_pow_sub_one, hk, decide_true, testBit_beMask be hk]
  exact cfgWritten_bit _ _ _ _ _

end Sys2Proof.Machine
end

section
/-! SUPPORT. The claim on the access codes of register writes. -/

set_option Elab.async false

namespace Sys2Proof

open Machine

/-- Settles O9: a served write reaches `plainWrite`, whose word is `RegRow.written` bit by bit; configuration space has `cfgWritten`. -/
theorem registerWritesFollowTheirAccessCodes : Obligations.RegisterWritesFollowTheirAccessCodes := by
  unfold Obligations.RegisterWritesFollowTheirAccessCodes
  intro plain written
  have hwritten : ∀ s a w, plain a → written a w s (s.regWrite a w) := by
    intro s a w ha
    rw [regWrite_of_actsByCodes s w ha]
    obtain ⟨honly, hclears, hbits⟩ := plainWrite_writtenByCodes s a w
    refine ⟨honly, fun r hr => ⟨hclears hr, fun hv f hf k h1 h2 => (hbits hr hv f hf k h1 h2).trans ?_⟩⟩
    cases f.acc <;> rfl
  refine ⟨?_, ?_, ?_, ?_, ?_, ?_⟩
  · intro s a w ha h hplain
    exact ⟨_, exec_registerWrite_of_reaches ha h w 15#4, hwritten s a w hplain⟩
  · intro s a w ha h hrow hrec
    exact ⟨_, exec_registerWrite_of_reaches ha h w 15#4, regWrite_of_no_register s w hrow hrec⟩
  · intro s a w be ha h hbe hvalid
    obtain ⟨heq, hreg⟩ := hifErr_records s 0x010B 63 a a 4
    refine ⟨_, exec_registerWrite_of_reaches ha h w be, ?_⟩
    rw [if_neg hbe]
    exact ⟨rd_hifErr_code s _ _ _ _ _ hvalid, rd64_hifErr_addr s _ _ _ _ _ hvalid, hreg, heq⟩
  · intro s a w hopen ha h4 h hplain
    exact ⟨_, exec_debugWrite_of_reaches hopen ha h4 h w, hwritten s a w hplain⟩
  · intro s off w be hoff
    refine ⟨_, exec_registerWrite_cfg s off w be, ?_⟩
    rw [cfgSpaceWrite_eq s w be hoff]
    refine ⟨fun k hk => ?_, fun o ho => cfgReg_setCfg_other s _ ho, rfl⟩
    rw [cfgReg_setCfg_same, BitVec.getLsbD_ofNat, testBit_cfgWritten _ _ _ _ hk]
    simp [hk, BitVec.testBit_toNat]
  · intro s a hopen ha h4
    exact ⟨_, exec_debugRead hopen ha h4, rfl⟩

end Sys2Proof
end

section
/-! SUPPORT. The parts a state shares with another, and what the messages of MSI-X and the announcement of a pennant do. -/

set_option Elab.async false

namespace Sys2Proof.Machine

/-! ### States by their parts -/

/-- Two states whose parts and queues are the same are the same. -/
theorem eq_of_same_parts {s t : State} (h : ∀ p : Part, p.same s t) (hq : t.pending = s.pending) : t = s := by
  obtain ⟨⟩ := s
  obtain ⟨⟩ := t
  have hparts := And.intro (h .regs) <| And.intro (h .hif) <| And.intro (h .jrnl) <| And.intro (h .hlth) <| And.intro (h .snap) <|
    And.intro (h .time) <| And.intro (h .streams) <| And.intro (h .dec) <| And.intro (h .net) <| And.intro (h .shp) <|
    And.intro (h .sgs) <| And.intro (h .progs) <| And.intro (h .tbl) <| And.intro (h .jobs) <| And.intro (h .nextJob) <|
    And.intro (h .cores) <| And.intro (h .sched) <| And.intro (h .pools) <| And.intro (h .mem) <| And.intro (h .hbm) <|
    And.intro (h .lnk) <| And.intro (h .pwr) <| And.intro (h .sec) <| And.intro (h .counters) <| And.intro (h .free) (h .out)
  simp only [Part.same] at hparts hq
  simp only [hparts, hq]

/-- What keeps all but registers, HIF and what was sent out changes these alone. -/
theorem Keeps.eq_regs_hif_out {s t : State} (h : Keeps 33554435 s t) : t = { s with regs := t.regs, hif := t.hif, out := t.out } := by
  refine eq_of_same_parts (fun p => ?_) h.pending
  have hsame := h.parts.same p
  cases p with
  | regs | hif | out => rfl
  | _ => exact hsame rfl

/-! ### Changes of the pennant rings alone -/

/-- From `s` to `t` only the state of the pennant rings, the queue of device-level pennants and the gaps may differ. -/
structure RingsOnly (s t : State) : Prop where
  eq : t = { s with hif := { s.hif with prings := t.hif.prings, svcQueue := t.hif.svcQueue, gaps := t.hif.gaps } }

theorem RingsOnly.refl (s : State) : RingsOnly s s := ⟨rfl⟩

theorem RingsOnly.trans {s t u : State} (h : RingsOnly s t) (k : RingsOnly t u) : RingsOnly s u := by
  have hu := k.eq
  rw [h.eq] at hu
  exact ⟨hu⟩

theorem RingsOnly.setPring (s : State) (m : Nat) (x : PRing) : RingsOnly s (s.setPring m x) := ⟨rfl⟩

theorem RingsOnly.out {s t : State} (h : RingsOnly s t) : t.out = s.out := by rw [h.eq]

/-- Registers, configuration space and cached translations are the same, and with them what addresses a request to host memory. -/
structure SameAddressing (s t : State) : Prop where
  regs : t.regs = s.regs
  atc : t.hif.atc = s.hif.atc
  cfg : t.hif.cfg = s.hif.cfg

theorem SameAddressing.trans {s t u : State} (h : SameAddressing s t) (k : SameAddressing t u) : SameAddressing s u :=
  ⟨k.regs.trans h.regs, k.atc.trans h.atc, k.cfg.trans h.cfg⟩

theorem RingsOnly.addressing {s t : State} (h : RingsOnly s t) : SameAddressing s t := by
  rw [h.eq]
  exact ⟨rfl, rfl, rfl⟩

theorem SameAddressing.reg {s t : State} (h : SameAddressing s t) (a : Nat) : t.reg a = s.reg a := by
  unfold State.reg
  rw [h.regs]

theorem SameAddressing.rd {s t : State} (h : SameAddressing s t) (f : RegField) : t.rd f = s.rd f := by
  unfold State.rd
  rw [h.reg]

theorem SameAddressing.rd64 {s t : State} (h : SameAddressing s t) (lo hi : Nat) : t.rd64 lo hi = s.rd64 lo hi := by
  unfold State.rd64
  rw [h.reg, h.reg]

theorem SameAddressing.tlp {s t : State} (h : SameAddressing s t) (a : Nat) : t.tlp a = s.tlp a := by
  unfold State.tlp State.atsOn State.atsEnable State.cfgReg
  rw [h.atc, h.cfg, h.rd]

theorem SameAddressing.blocks {s t : State} (h : SameAddressing s t) (m : Nat) : t.blocks m = s.blocks m := by
  unfold State.blocks
  rw [h.rd]

theorem SameAddressing.ringSeq {s t : State} (h : SameAddressing s t) (m : Nat) : t.ringSeq m = s.ringSeq m := h.rd64 _ _
theorem SameAddressing.produced {s t : State} (h : SameAddressing s t) (m : Nat) : t.produced m = s.produced m := h.rd64 _ _

theorem SameAddressing.blockAddr {s t : State} (h : SameAddressing s t) (m b : Nat) : t.blockAddr m b = s.blockAddr m b := by
  unfold State.blockAddr
  rw [h.rd64]

theorem SameAddressing.msixOut {s t : State} (h : SameAddressing s t) (v : Nat) : t.msixOut v = s.msixOut v := by
  unfold State.msixOut
  rw [h.rd64, h.reg]

/-! ### The messages of MSI-X (R99 to R101) -/

/-- The unannounced count and the timer of a ring clear when it names the vector (R100). -/
def State.clearUnann (v : Nat) (s : State) (m : Nat) : State :=
  if s.rd (Reg.HIF_PRING_CFG_VECTOR m) = v then s.setPring m { s.pring m with unann := 0, timer := false } else s

/-- The unannounced counts and timers of the rings of a list clear when they name the vector (R100). -/
def State.clearUnanns (v : Nat) (l : List Nat) (s : State) : State := l.foldl (State.clearUnann v) s

theorem clearUnann_rings (v : Nat) (s : State) (m : Nat) : RingsOnly s (s.clearUnann v m) := by
  unfold State.clearUnann
  exact ite_both (P := RingsOnly s) (.setPring s m _) (.refl s)

theorem clearUnanns_rings (v : Nat) (l : List Nat) (s : State) : RingsOnly s (s.clearUnanns v l) := by
  induction l generalizing s with
  | nil => exact .refl s
  | cons m l ih => exact (clearUnann_rings v s m).trans (ih _)

/-- What a ring holds when the counts of the rings of a vector have cleared. -/
def PRing.told (x : PRing) (due : Prop) [Decidable due] : PRing := if due then { x with unann := 0, timer := false } else x

theorem pring_clearUnann (v : Nat) (s : State) (m n : Nat) :
    (s.clearUnann v m).pring n = (s.pring n).told (n = m ∧ s.rd (Reg.HIF_PRING_CFG_VECTOR m) = v) := by
  unfold State.clearUnann PRing.told
  by_cases hv : s.rd (Reg.HIF_PRING_CFG_VECTOR m) = v
  · by_cases hn : n = m
    · subst hn; simp [hv]
    · simp [hv, hn, pring_setPring_other]
  · simp [hv]

theorem pring_clearUnanns (v : Nat) (l : List Nat) (s : State) (n : Nat) :
    (s.clearUnanns v l).pring n = (s.pring n).told (n ∈ l ∧ s.rd (Reg.HIF_PRING_CFG_VECTOR n) = v) := by
  induction l generalizing s with
  | nil => simp [State.clearUnanns, PRing.told]
  | cons m l ih =>
    have hcons : s.clearUnanns v (m :: l) = (s.clearUnann v m).clearUnanns v l := rfl
    rw [hcons, ih, (clearUnann_rings v s m).addressing.rd, pring_clearUnann]
    unfold PRing.told
    by_cases hv : s.rd (Reg.HIF_PRING_CFG_VECTOR n) = v
    · by_cases hn : n = m
      · subst hn; simp [hv]
      · simp [hv, hn]
    · by_cases hn : n = m
      · subst hn; simp [hv]
      · simp [hv, hn]

theorem ready_told (x : PRing) (due : Prop) [Decidable due] : (x.told due).ready = x.ready := by
  unfold PRing.told
  exact ite_both (P := fun y : PRing => y.ready = x.ready) rfl rfl

theorem clearUnanns_svcQueue (v : Nat) (l : List Nat) (s : State) : (s.clearUnanns v l).hif.svcQueue = s.hif.svcQueue := by
  induction l generalizing s with
  | nil => rfl
  | cons m l ih =>
    refine (ih _).trans ?_
    unfold State.clearUnann
    exact ite_both (P := fun t : State => t.hif.svcQueue = s.hif.svcQueue) rfl rfl

/-- A message that falls due clears the counts of the rings of its vector, and then sets the PBA bit of a masked vector or is posted
(R100, R101). -/
theorem message_eq (s : State) (v : Nat) :
    s.message v =
      if (s.reg (Reg.MSIX_CTRL v)).toNat % 2 = 1 then
        (s.clearUnanns v (List.range 64)).setReg (Reg.MSIX_PBA (v / 32))
          (BitVec.ofNat 32 ((s.reg (Reg.MSIX_PBA (v / 32))).toNat ||| 2 ^ (v % 32)))
      else (s.clearUnanns v (List.range 64)).post (s.msixOut v) := by
  have h := clearUnanns_rings v (List.range 64) s
  rw [← h.addressing.reg, ← h.addressing.reg, ← h.addressing.msixOut]
  rfl

/-- From `s` to `t` at most a message of MSI-X fell due: the ready pennants stay, registers change in the PBA alone, and only messages
go out. -/
structure Announces (s t : State) : Prop where
  keeps : Keeps 33554435 s t
  ready : ∀ m, (t.pring m).ready = (s.pring m).ready
  svcQueue : t.hif.svcQueue = s.hif.svcQueue
  reg : ∀ a, (∀ v, a ≠ Reg.MSIX_PBA v) → t.reg a = s.reg a
  out : ∃ l, t.out = s.out ++ l ∧ ∀ o ∈ l, ∃ v a d, o = Out.msix v a d

theorem message_announces (s : State) (v : Nat) : Announces s (s.message v) where
  keeps := State.message_keeps s v rfl (Keeps.refl s)
  ready := fun m => by
    rw [message_eq]
    have h : ((s.clearUnanns v (List.range 64)).pring m).ready = (s.pring m).ready := by rw [pring_clearUnanns, ready_told]
    split <;> exact h
  svcQueue := by
    rw [message_eq]
    have h := clearUnanns_svcQueue v (List.range 64) s
    split <;> exact h
  reg := fun a ha => by
    rw [message_eq]
    have h := (clearUnanns_rings v (List.range 64) s).addressing.reg a
    exact ite_both (P := fun t : State => t.reg a = s.reg a) ((reg_setReg_other _ _ _ _ (ha _)).trans h) h
  out := by
    rw [message_eq]
    have h := (clearUnanns_rings v (List.range 64) s).out
    split
    · exact ⟨[], h.trans (List.append_nil _).symm, by simp⟩
    · exact ⟨[s.msixOut v], by rw [← h]; rfl, by simp [State.msixOut]⟩

theorem Announces.refl (s : State) : Announces s s where
  keeps := Keeps.refl s
  ready := fun _ => rfl
  svcQueue := rfl
  reg := fun _ _ => rfl
  out := ⟨[], (List.append_nil _).symm, by simp⟩

theorem Announces.trans {s t u : State} (h : Announces s t) (k : Announces t u) : Announces s u where
  keeps := h.keeps.trans k.keeps
  ready := fun m => (k.ready m).trans (h.ready m)
  svcQueue := k.svcQueue.trans h.svcQueue
  reg := fun a ha => (k.reg a ha).trans (h.reg a ha)
  out := by
    obtain ⟨l, hl, hmsix⟩ := h.out
    obtain ⟨l', hl', hmsix'⟩ := k.out
    refine ⟨l ++ l', by rw [hl', hl, List.append_assoc], fun o ho => ?_⟩
    exact (List.mem_append.mp ho).elim (hmsix o) (hmsix' o)

/-- A ring whose counts change announces nothing. -/
theorem Announces.setPring (s : State) (m : Nat) {x : PRing} (hx : x.ready = (s.pring m).ready) : Announces s (s.setPring m x) where
  keeps := State.setPring_keeps s m x rfl (Keeps.refl s)
  ready := fun n => by
    by_cases hn : n = m
    · rw [hn, pring_setPring_same, hx]
    · rw [pring_setPring_other _ _ _ _ hn]
  svcQueue := rfl
  reg := fun _ _ => rfl
  out := ⟨[], (List.append_nil _).symm, by simp⟩

/-- Counting a pennant that was written announces at most one message (R99). -/
theorem announce_announces (s : State) (m : Nat) (isError : Bool) : Announces s (s.announce m isError) := by
  unfold State.announce
  refine ite_both (P := Announces s) (Announces.trans ?_ (message_announces _ _)) ?_ <;> exact .setPring s m rfl

theorem Announces.rd64 {s t : State} (h : Announces s t) {lo hi : Nat} (hlo : ∀ v, lo ≠ Reg.MSIX_PBA v)
    (hhi : ∀ v, hi ≠ Reg.MSIX_PBA v) : t.rd64 lo hi = s.rd64 lo hi := by
  unfold State.rd64
  rw [h.reg lo hlo, h.reg hi hhi]

/-! ### Writing a pennant (R88, R93) -/

/-- The emit record and the journal's part of the writing of a pennant (R119, R122). -/
def State.recordPn (s : State) (m : Nat) (p : Pn) : State :=
  let s0 := match p.key with
    | .frame st n _ => s.tellGaps st m n
    | _ => s
  let s1 := s0.emitRecord p m (s.ringSeq m)
  if p.final then s1.finish p (s.ringSeq m) else
    match pnCmd p with
    | some j => if p.ty = 0x10 then s1 else s1.updCmd j (fun c => { c with records := c.records + 1 })
    | none => s1

/-- The flags that a pennant is written with: SEQ_GAP for the gaps that its frame follows, and REPLAYED (R30, R40). -/
def State.writtenFlags (s : State) (m : Nat) (p : Pn) (replayed : Bool) : Nat :=
  let gap := match p.key with
    | .frame st n _ => !(s.gapsTo st m n).isEmpty
    | _ => false
  p.flags ||| (if gap then 2 ^ 7 else 0) ||| (if replayed then 2 ^ 9 else 0)

/-- The header that a pennant is written with (R35). -/
def State.writtenHeader (s : State) (m : Nat) (p : Pn) (replayed : Bool) : BitVec 512 :=
  header (s.rd Reg.LNK_TOPO_MY_DEV) m (s.ringSeq m) (s.writtenFlags m p replayed) (s.finalBody p) p

/-- A rewritten pennant is counted (R127). -/
def State.countRewritten (s : State) (m : Nat) (replayed : Bool) : State :=
  if replayed then s.setPring m { s.pring m with rewritten := (s.pring m).rewritten + 1 } else s

theorem writePn_eq (s : State) (m : Nat) (p : Pn) (replayed : Bool) :
    s.writePn m p replayed = (((((s.recordPn m p).postBlocks m (s.writtenHeader m p replayed) p.exts).advanceRing m
      (1 + p.exts.length)).countRewritten m replayed).announce m (decide (p.ty = 0x12))) := rfl

theorem countRewritten_announces (s : State) (m : Nat) (replayed : Bool) : Announces s (s.countRewritten m replayed) := by
  unfold State.countRewritten
  exact ite_both (P := Announces s) (.setPring s m rfl) (.refl s)

/-- A pair of registers that neither half of another pair names keeps its value. -/
theorem rd64_wr64_other (s : State) {lo hi lo' hi' : Nat} (v : Nat) (h1 : lo' ≠ lo) (h2 : lo' ≠ hi) (h3 : hi' ≠ lo)
    (h4 : hi' ≠ hi) :
    (s.wr64 lo hi v).rd64 lo' hi' = s.rd64 lo' hi' := by
  unfold State.rd64 State.wr64
  rw [reg_setReg_other _ _ _ _ h2, reg_setReg_other _ _ _ _ h1, reg_setReg_other _ _ _ _ h4, reg_setReg_other _ _ _ _ h3]

theorem reg_wr64_other (s : State) {lo hi a : Nat} (v : Nat) (h1 : a ≠ lo) (h2 : a ≠ hi) : (s.wr64 lo hi v).reg a = s.reg a := by
  unfold State.wr64
  rw [reg_setReg_other _ _ _ _ h2, reg_setReg_other _ _ _ _ h1]

/-- The ring takes its next RING_SEQ (R38, R90). -/
theorem ringSeq_advanceRing (s : State) (m b : Nat) : (s.advanceRing m b).ringSeq m = (s.ringSeq m + 1) % 2 ^ 64 := by
  unfold State.advanceRing
  refine (rd64_wr64_other _ _ ?_ ?_ ?_ ?_).trans (rd64_wr64_same s _ ?_) <;>
    simp only [Reg.HIF_PRING_SEQ_LO, Reg.HIF_PRING_SEQ_HI, Reg.HIF_PRING_PROD_LO, Reg.HIF_PRING_PROD_HI] <;> omega

/-- PRODUCED rises by the blocks of the pennant (R93). -/
theorem produced_advanceRing (s : State) (m b : Nat) : (s.advanceRing m b).produced m = (s.produced m + b) % 2 ^ 64 := by
  unfold State.advanceRing
  refine rd64_wr64_same _ _ ?_
  simp only [Reg.HIF_PRING_PROD_LO, Reg.HIF_PRING_PROD_HI]
  omega

theorem reg_advanceRing (s : State) (m b : Nat) {a : Nat} (h1 : a ≠ Reg.HIF_PRING_SEQ_LO m) (h2 : a ≠ Reg.HIF_PRING_SEQ_HI m)
    (h3 : a ≠ Reg.HIF_PRING_PROD_LO m) (h4 : a ≠ Reg.HIF_PRING_PROD_HI m) : (s.advanceRing m b).reg a = s.reg a := by
  unfold State.advanceRing
  rw [reg_wr64_other _ _ h3 h4, reg_wr64_other _ _ h1 h2]

/-- A pennant whose blocks are posted, before the ring moves on (R88). -/
def State.postPn (s : State) (m : Nat) (p : Pn) (replayed : Bool) : State :=
  (s.recordPn m p).postBlocks m (s.writtenHeader m p replayed) p.exts

/-- After the blocks of a pennant are posted the ring moves on, and at most a message is announced (R88, R93, R99). -/
theorem writePn_announces (s : State) (m : Nat) (p : Pn) (replayed : Bool) :
    Announces ((s.postPn m p replayed).advanceRing m (1 + p.exts.length)) (s.writePn m p replayed) := by
  rw [writePn_eq]
  exact (countRewritten_announces _ m replayed).trans (announce_announces _ m _)

/-- A pennant ring's registers lie in the HIF window, away from the PBA of MSI-X. -/
theorem ne_MSIX_PBA {a : Nat} (h : a < 0x200000) (v : Nat) : a ≠ Reg.MSIX_PBA v := by
  simp only [Reg.MSIX_PBA]
  omega

/-! ### What a written pennant leaves -/

theorem Keeps.addressing {L : Nat} {s t : State} (h : Keeps L s t) (hregs : L.testBit 0 = false) (hhif : L.testBit 1 = false) :
    SameAddressing s t := by
  have hr : t.regs = s.regs := h.parts.same .regs hregs
  have hh : t.hif = s.hif := h.parts.same .hif hhif
  exact ⟨hr, by rw [hh], by rw [hh]⟩

theorem emitRecord_addressing (s : State) (p : Pn) (m seq : Nat) : SameAddressing s (s.emitRecord p m seq) :=
  (State.emitRecord_keeps (L := 33554436) s p m seq rfl (Keeps.refl s)).addressing rfl rfl

theorem finish_addressing (s : State) (p : Pn) (seq : Nat) : SameAddressing s (s.finish p seq) :=
  (State.finish_keeps (L := 33554436) s p seq rfl (Keeps.refl s)).addressing rfl rfl

theorem tellGaps_addressing (s : State) (st m n : Nat) : SameAddressing s (s.tellGaps st m n) := ⟨rfl, rfl, rfl⟩

/-- The journal's part of a pennant leaves what addresses a request. -/
theorem recordPn_addressing (s : State) (m : Nat) (p : Pn) : SameAddressing s (s.recordPn m p) := by
  have hgap : SameAddressing s (match p.key with | .frame st n _ => s.tellGaps st m n | _ => s) := by
    split
    · exact tellGaps_addressing s _ m _
    · exact ⟨rfl, rfl, rfl⟩
  have hemit := hgap.trans (emitRecord_addressing _ p m (s.ringSeq m))
  unfold State.recordPn
  dsimp only
  split
  · exact hemit.trans (finish_addressing _ p _)
  · split
    · exact ite_both (P := SameAddressing s) hemit (hemit.trans ⟨rfl, rfl, rfl⟩)
    · exact hemit

/-- A pennant without a command or frame has nothing to record in the journal (R122). -/
theorem recordPn_of_no_key {s : State} {m : Nat} {p : Pn} (h : p.key = .device ∨ ∃ c, p.key = .refusal c) : s.recordPn m p = s := by
  unfold State.recordPn State.emitRecord State.finish pnKey pnCmd
  rcases h with h | ⟨c, h⟩ <;> simp [h]

theorem postPn_addressing (s : State) (m : Nat) (p : Pn) (replayed : Bool) : SameAddressing s (s.postPn m p replayed) :=
  (recordPn_addressing s m p).trans ⟨rfl, rfl, rfl⟩

/-- The header is posted at block PRODUCED modulo the ring (R87, R88). -/
theorem header_mem_postPn (s : State) (m : Nat) (p : Pn) (replayed : Bool) :
    Out.header m (s.produced m % s.blocks m) (s.writtenHeader m p replayed) (s.tlp (s.blockAddr m (s.produced m % s.blocks m))) ∈
      (s.postPn m p replayed).out := by
  have h := recordPn_addressing s m p
  rw [← h.tlp, ← h.blockAddr, ← h.produced, ← h.blocks]
  exact List.mem_append_right _ List.mem_cons_self

/-- Only the flags SEQ_GAP and REPLAYED are added when a pennant is written (R30, R40). -/
theorem testBit_writtenFlags (s : State) (m : Nat) (p : Pn) (replayed : Bool) {k : Nat} (h7 : k ≠ 7) (h9 : k ≠ 9) :
    (s.writtenFlags m p replayed).testBit k = p.flags.testBit k := by
  have hflag : ∀ (b : Bool) (n : Nat), k ≠ n → (if b then 2 ^ n else 0).testBit k = false := fun b n hn => by
    cases b
    · exact Nat.zero_testBit k
    · exact Nat.testBit_two_pow_of_ne hn.symm
  unfold State.writtenFlags
  simp only [Nat.testBit_or, hflag _ _ h7, hflag _ _ h9, Bool.or_false]

theorem Announces.ringSeq {s t : State} (h : Announces s t) {m : Nat} (hm : m < 64) : t.ringSeq m = s.ringSeq m := by
  refine h.rd64 (ne_MSIX_PBA ?_) (ne_MSIX_PBA ?_) <;> simp only [Reg.HIF_PRING_SEQ_LO, Reg.HIF_PRING_SEQ_HI] <;> omega

theorem Announces.produced {s t : State} (h : Announces s t) {m : Nat} (hm : m < 64) : t.produced m = s.produced m := by
  refine h.rd64 (ne_MSIX_PBA ?_) (ne_MSIX_PBA ?_) <;> simp only [Reg.HIF_PRING_PROD_LO, Reg.HIF_PRING_PROD_HI] <;> omega

/-- Writing a pennant gives its ring the next RING_SEQ (R38, R90). -/
theorem ringSeq_writePn (s : State) {m : Nat} (p : Pn) (replayed : Bool) (hm : m < 64) :
    (s.writePn m p replayed).ringSeq m = (s.ringSeq m + 1) % 2 ^ 64 := by
  rw [(writePn_announces s m p replayed).ringSeq hm, ringSeq_advanceRing, (postPn_addressing s m p replayed).ringSeq]

/-- Writing a pennant raises PRODUCED by its blocks (R93). -/
theorem produced_writePn (s : State) {m : Nat} (p : Pn) (replayed : Bool) (hm : m < 64) :
    (s.writePn m p replayed).produced m = (s.produced m + (1 + p.exts.length)) % 2 ^ 64 := by
  rw [(writePn_announces s m p replayed).produced hm, produced_advanceRing, (postPn_addressing s m p replayed).produced]

/-- What was posted before the ring moved on stays, and only messages follow it. -/
theorem out_writePn (s : State) (m : Nat) (p : Pn) (replayed : Bool) :
    ∃ l, (s.writePn m p replayed).out = (s.postPn m p replayed).out ++ l ∧ ∀ o ∈ l, ∃ v a d, o = Out.msix v a d :=
  (writePn_announces s m p replayed).out

/-! ### EGR takes the next pennant (R93 to R97) -/

/-- A ring that has room: an episode of a full ring or of a full emit log is over (R94, R123). -/
def State.ringReady (s : State) (m : Nat) : State := (s.endStall m).setPring m { (s.endStall m).pring m with logStall := false }

theorem endStall_rings (s : State) (m : Nat) : RingsOnly s (s.endStall m) := by
  unfold State.endStall
  split
  · exact ite_both (P := RingsOnly s) (.setPring s m _) (.refl s)
  · exact .refl s

theorem ready_endStall (s : State) (m : Nat) : ((s.endStall m).pring m).ready = (s.pring m).ready := by
  unfold State.endStall
  split
  · refine ite_both (P := fun t : State => (t.pring m).ready = (s.pring m).ready) ?_ rfl
    rw [pring_setPring_same]
  · rfl

theorem endStall_svcQueue (s : State) (m : Nat) : (s.endStall m).hif.svcQueue = s.hif.svcQueue := by
  unfold State.endStall
  split
  · exact ite_both (P := fun t : State => t.hif.svcQueue = s.hif.svcQueue) rfl rfl
  · rfl

theorem ringReady_rings (s : State) (m : Nat) : RingsOnly s (s.ringReady m) := (endStall_rings s m).trans (.setPring _ m _)

theorem ready_ringReady (s : State) (m : Nat) : ((s.ringReady m).pring m).ready = (s.pring m).ready := by
  unfold State.ringReady
  rw [pring_setPring_same]
  exact ready_endStall s m

theorem takePn_rings (s : State) (m : Nat) (p : Pn) : RingsOnly s (s.takePn m p) := by
  unfold State.takePn
  exact RingsOnly.trans (ite_both (P := RingsOnly s) (.refl s) ⟨rfl⟩) (.setPring _ m _)

theorem ready_takePn (s : State) (m : Nat) (p : Pn) : ((s.takePn m p).pring m).ready = (s.pring m).ready.erase p := by
  unfold State.takePn
  rw [pring_setPring_same]

theorem takePn_svcQueue (s : State) (m : Nat) (p : Pn) :
    (s.takePn m p).hif.svcQueue = if p ∈ (s.pring m).ready then s.hif.svcQueue else s.hif.svcQueue.tail := by
  unfold State.takePn
  by_cases h : p ∈ (s.pring m).ready <;> simp [h, State.setPring]

/-- The pennant leaves the ones that wait on a ring that has room for it. -/
def State.takenPn (s : State) (m : Nat) (p : Pn) : State := (s.ringReady m).takePn m p

theorem takenPn_rings (s : State) (m : Nat) (p : Pn) : RingsOnly s (s.takenPn m p) :=
  (ringReady_rings s m).trans (takePn_rings _ m p)

theorem ready_takenPn (s : State) (m : Nat) (p : Pn) : ((s.takenPn m p).pring m).ready = (s.pring m).ready.erase p := by
  unfold State.takenPn
  rw [ready_takePn, ready_ringReady]

theorem takenPn_svcQueue (s : State) (m : Nat) (p : Pn) :
    (s.takenPn m p).hif.svcQueue = if p ∈ (s.pring m).ready then s.hif.svcQueue else s.hif.svcQueue.tail := by
  have h : (s.ringReady m).hif.svcQueue = s.hif.svcQueue := endStall_svcQueue s m
  unfold State.takenPn
  rw [takePn_svcQueue, ready_ringReady, h]

/-- A ring may take a pennant now: it is ACTIVE with a RING_SEQ to give, the emit log has a position for the record, every address is
translated, and the last CONSUMED leaves room (R63, R90, R93, R96, R123). -/
structure MayWrite (s : State) (m : Nat) (p : Pn) : Prop where
  active : s.pState m = 1
  seq : s.ringSeq m ≠ 0
  log : s.logStalls p = false
  xlated : s.needXlate m (1 + p.exts.length) p = []
  read : (s.pring m).cons.isSome = true
  room : 1 + p.exts.length ≤ s.freeBlocks m

theorem room_of_mayWrite {s : State} {m : Nat} {p : Pn} (h : MayWrite s m p) (consumed : Nat) :
    s.room m (1 + p.exts.length) consumed = .room (s.endStall m) := by
  have hread := h.read
  have hroom := h.room
  have hneed : s.consNeeded m (1 + p.exts.length) = false := by
    unfold State.consNeeded
    rw [Option.isNone_eq_false_iff.mpr hread, Bool.false_or]
    exact decide_eq_false (by omega)
  unfold State.room
  exact if_pos hneed

/-- A pennant that may be written is taken and written as new (R88, R93). -/
theorem tryWrite_of_mayWrite {s : State} {m : Nat} {p : Pn} (h : MayWrite s m p) (replayed : Bool) (consumed : Nat) :
    s.tryWrite m p none replayed consumed = ((s.takenPn m p).writePn m p replayed).afterPn p := by
  have hactive : s.rd (Reg.HIF_PRING_STATUS_STATE m) = 1 := h.active
  unfold State.tryWrite
  dsimp only
  rw [if_pos ⟨hactive, h.seq⟩, h.log, h.xlated, room_of_mayWrite h]
  rfl

/-- PENNANT_WRITE of the next pennant, with no emit record of a run before (R88, R93, R125). -/
theorem exec_pennantWrite_new {s : State} {m : Nat} {p : Pn} (hnext : s.nextPn m = some p) (hrec : s.matchRec p m = none)
    (h : MayWrite s m p) (consumed : Nat) :
    exec (.pennantWrite m consumed) s = .next (((s.takenPn m p).writePn m p (s.isReplay p)).afterPn p) := by
  show execPennantWrite m consumed s = _
  unfold execPennantWrite
  simp only [hnext, hrec, tryWrite_of_mayWrite h]

end Sys2Proof.Machine
end

section
/-! SUPPORT. The registers that the pools change: drawing and freeing buffers leave every register below the pools' window alone but the
count of lost device-level pennants. -/

set_option Elab.async false

namespace Sys2Proof.Machine

/-- Registers below the window of the pools are the same, the count of lost device-level pennants aside. -/
structure SameLowRegs (s t : State) : Prop where
  reg : ∀ a, a < 0x1900000 → a ≠ Reg.HIF_SVC_LOST → t.reg a = s.reg a

theorem SameLowRegs.refl (s : State) : SameLowRegs s s := ⟨fun _ _ _ => rfl⟩

theorem SameLowRegs.trans {s t u : State} (h : SameLowRegs s t) (k : SameLowRegs t u) : SameLowRegs s u :=
  ⟨fun a h1 h2 => (k.reg a h1 h2).trans (h.reg a h1 h2)⟩

theorem SameLowRegs.foldl {α : Type} {f : State → α → State} (hf : ∀ s x, SameLowRegs s (f s x)) (l : List α) (s : State) :
    SameLowRegs s (l.foldl f s) := by
  induction l generalizing s with
  | nil => exact .refl s
  | cons x l ih => exact (hf s x).trans (ih _)

theorem SameLowRegs.setReg {s t : State} (h : SameLowRegs s t) {a : Nat} (v : BitVec 32) (ha : 0x1900000 ≤ a) :
    SameLowRegs s (t.setReg a v) :=
  h.trans ⟨fun b hb _ => reg_setReg_other t a b v (by omega)⟩

theorem SameLowRegs.wr {s t : State} (h : SameLowRegs s t) {f : RegField} (v : Nat) (hf : 0x1900000 ≤ f.addr) :
    SameLowRegs s (t.wr f v) := h.setReg _ hf

theorem SameLowRegs.of_regs {s t : State} (h : t.regs = s.regs) : SameLowRegs s t := ⟨fun a _ _ => by
  unfold State.reg
  rw [h]⟩

/-- An operation that keeps the register file. -/
theorem Keeps.lowRegs {L : Nat} {s t : State} (h : Keeps L s t) (hregs : L.testBit 0 = false) : SameLowRegs s t :=
  .of_regs (h.parts.same .regs hregs)

theorem SameLowRegs.setPool {s t : State} (h : SameLowRegs s t) (c : Nat) (x : PoolCls) : SameLowRegs s (t.setPool c x) :=
  h.trans (.of_regs rfl)

theorem SameLowRegs.cnt {s t : State} (h : SameLowRegs s t) (id scope n : Nat) : SameLowRegs s (t.cnt id scope n) :=
  h.trans (.of_regs rfl)

theorem SameLowRegs.setCnt {s t : State} (h : SameLowRegs s t) (id scope v : Nat) : SameLowRegs s (t.setCnt id scope v) :=
  h.trans (.of_regs rfl)

theorem SameLowRegs.setStream {s t : State} (h : SameLowRegs s t) (st : Nat) (x : Stream) : SameLowRegs s (t.setStream st x) :=
  h.trans (.of_regs rfl)

theorem SameLowRegs.poolErr {s t : State} (h : SameLowRegs s t) (code wh d0 d1 : Nat) : SameLowRegs s (t.poolErr code wh d0 d1) :=
  h.trans ⟨fun a h1 _ =>
    (poolErr_records t code wh d0 d1).reg a (by omega) (by omega) (by simp only [List.mem_singleton, Reg.POOL_ERR]; omega)⟩

theorem SameLowRegs.devError {s t : State} (h : SameLowRegs s t) (code d0 d1 : Nat) : SameLowRegs s (t.devError code d0 d1) :=
  h.trans ⟨fun a _ h2 => reg_devError t code d0 d1 9 0xFF a h2⟩

/-- The registers and events that follow the counts of a class (R576). -/
theorem SameLowRegs.poolNote {s t : State} (h : SameLowRegs s t) (c : Nat) : SameLowRegs s (t.poolNote c) := by
  have hclass : 0x1900000 ≤ Reg.POOL_CLS_HEADROOM c ∧ 0x1900000 ≤ Reg.POOL_CLS_STATUS c ∧ 0x1900000 ≤ Reg.POOL_CLS_WAITERS c := by
    simp only [Reg.POOL_CLS_HEADROOM, Reg.POOL_CLS_STATUS, Reg.POOL_CLS_WAITERS]
    omega
  obtain ⟨hhead, hstatus, hwaiters⟩ := hclass
  unfold State.poolNote
  dsimp only
  split
  · refine ((((((((h.setReg _ hhead).wr _ ?_).wr _ ?_).wr _ ?_).wr _ ?_).cnt _ _ _).poolErr _ _ _ _).setPool _ _).devError _ _ _ <;>
      assumption
  · split
    · refine ((((h.setReg _ hhead).wr _ ?_).wr _ ?_).wr _ ?_).setPool _ _ <;> assumption
    · refine (((h.setReg _ hhead).wr _ ?_).wr _ ?_).wr _ ?_ <;> assumption

theorem poolCut_lowRegs (s : State) (c n : Nat) : SameLowRegs s (s.poolCut c n) := by
  induction n generalizing s with
  | zero => exact .refl s
  | succ o ih =>
    unfold State.poolCut
    refine ite_both (P := SameLowRegs s) (.refl s) (((SameLowRegs.refl s).wr _ ?_).trans (ih _))
    simp only [Reg.POOL_OWN_RES]
    omega

theorem SameLowRegs.poolShrink {s t : State} (h : SameLowRegs s t) (c : Nat) : SameLowRegs s (t.poolShrink c) := by
  unfold State.poolShrink
  exact ite_both (P := SameLowRegs s) ((h.poolErr _ _ _ _).trans (poolCut_lowRegs _ c 32)) h

theorem SameLowRegs.listHead {s t : State} (h : SameLowRegs s t) (c : Nat) : SameLowRegs s (t.listHead c) := by
  unfold State.listHead State.wr64
  refine ite_both (P := SameLowRegs s) ((h.setReg _ ?_).setReg _ ?_) h
  · simp only [Reg.POOL_CLS_HEAD_LO]; omega
  · simp only [Reg.POOL_CLS_HEAD_HI]; omega

theorem SameLowRegs.spill {s t : State} (h : SameLowRegs s t) (c : Nat) : SameLowRegs s (t.spill c) :=
  h.trans ((State.spill_keeps (L := 131072) t c rfl (Keeps.refl t)).lowRegs rfl)

theorem unplace_lowRegs (s : State) (f : Nat) : SameLowRegs s (s.unplace f) :=
  (State.unplace_keeps (L := 524288) s f rfl (Keeps.refl s)).lowRegs rfl

/-- A buffer that is freed (R581, R585). -/
theorem free1_lowRegs (s : State) (c i : Nat) : SameLowRegs s (s.free1 c i) := by
  unfold State.free1
  dsimp only
  split
  · exact ((SameLowRegs.refl s).poolErr _ _ _ _).devError _ _ _
  next o _ =>
    have hheld : 0x1900000 ≤ Reg.POOL_OWN_HELD o c := by simp only [Reg.POOL_OWN_HELD]; omega
    split
    case isTrue =>
      refine SameLowRegs.poolNote (SameLowRegs.trans (t := State.poolShrink _ c) ?_ (.foldl (fun s f => unplace_lowRegs s f) _ _)) c
      refine SameLowRegs.poolShrink (.wr (.wr (.setPool (.cnt (.cnt (.wr (.refl s) _ hheld) _ _ _) _ _ _) _ _) _ ?_) _ ?_) c
      · simp only [Reg.POOL_CLS_COUNT]; omega
      · simp only [Reg.POOL_CLS_WITHDRAWN]; omega
    case isFalse =>
      refine .poolNote (.listHead (.spill (.wr (.setPool (.cnt (.cnt (.wr (.refl s) _ hheld) _ _ _) _ _ _) _ _) _ ?_) c) c) c
      simp only [Reg.POOL_CLS_FREE]
      omega

theorem freeAll_lowRegs (s : State) (c : Nat) (l : List Nat) : SameLowRegs s (s.freeAll c l) :=
  .foldl (fun s i => free1_lowRegs s c i) l s

theorem drawOne_lowRegs (s : State) (o c svc : Nat) : SameLowRegs s (s.drawOne o c svc).1 :=
  (State.drawOne_keeps (L := 9043968) s o c svc rfl (Keeps.refl s)).lowRegs rfl

theorem drawNow_lowRegs (s : State) (o c n svc : Nat) : SameLowRegs s (s.drawNow o c n svc).1 := by
  have hdraws : ∀ (l : List Nat) (x : State × List Nat), SameLowRegs x.1 (l.foldl (fun (x : State × List Nat) _ =>
      ((x.1.drawOne o c svc).1, x.2 ++ (x.1.drawOne o c svc).2.toList)) x).1 := fun l => by
    induction l with
    | nil => exact fun x => .refl x.1
    | cons _ l ih => exact fun x => (drawOne_lowRegs x.1 o c svc).trans (ih (_, _))
  have hdrawn := hdraws (List.range n) (s, [])
  unfold State.drawNow State.peak
  dsimp only
  generalize List.foldl _ (s, []) (List.range n) = r at hdrawn
  refine .poolNote (.setCnt (.setCnt (.cnt (.cnt (.wr (.wr hdrawn _ ?_) _ ?_) _ _ _) _ _ _) _ _ _) _ _ _) c
  · simp only [Reg.POOL_CLS_FREE]; omega
  · simp only [Reg.POOL_OWN_HELD]; omega

theorem tieWon_lowRegs (s : State) (o c ticket : Nat) : SameLowRegs s (s.tieWon o c ticket) :=
  (State.tieWon_keeps (L := 131072) s o c ticket rfl (Keeps.refl s)).lowRegs rfl

/-- A draw, granted or refused (R569, R571). -/
theorem draw_lowRegs (s : State) (o c n svc ticket : Nat) (fails : Bool) : SameLowRegs s (s.draw o c n svc ticket fails).1 := by
  have htie : SameLowRegs s (if fails then s else s.tieWon o c ticket) :=
    ite_both (P := SameLowRegs s) (.refl s) (tieWon_lowRegs s o c ticket)
  unfold State.draw
  split
  · dsimp only
    exact htie.trans (drawNow_lowRegs _ o c n svc)
  · split
    · dsimp only
      exact .poolErr (.cnt (.cnt (.refl s) _ _ _) _ _ _) _ _ _ _
    · exact .refl s

/-- Plan copies that return to their pools (R575). -/
theorem retirePlans_lowRegs (s : State) : SameLowRegs s s.retirePlans := by
  have hfree : ∀ (l : List Retired) (t : State), SameLowRegs t (l.foldl (fun s r => s.freeAll r.cls r.bufs) t) :=
    SameLowRegs.foldl fun s r => freeAll_lowRegs s r.cls r.bufs
  unfold State.retirePlans
  dsimp only
  refine SameLowRegs.trans ?_ (hfree _ _)
  exact .of_regs rfl

/-- A stream's checkpoint takes the parts whose pennants are posted (R160). -/
theorem settleCks_lowRegs (s : State) (st : Nat) (l : List Ckpt) : SameLowRegs s (s.settleCks st l) := by
  induction l generalizing s with
  | nil => exact .refl s
  | cons k l ih =>
    have hdraw := draw_lowRegs s 9 6 1 2 s.ticketNow true
    unfold State.settleCks
    split
    · dsimp only
      split
      next heq =>
        rw [heq] at hdraw
        refine .trans (.setStream ?_ _ _) (ih _)
        split
        · split
          · exact hdraw.trans (free1_lowRegs _ 6 _)
          · exact hdraw
        · exact hdraw
      next heq =>
        rw [heq] at hdraw
        exact .trans (.setStream hdraw _ _) (ih _)
    · exact .refl s

/-- What follows a pennant that was written (R160, R391, R575). -/
theorem afterPn_lowRegs (s : State) (p : Pn) : SameLowRegs s (s.afterPn p) := by
  have hswap : ∀ i, SameLowRegs s (s.applySwap i) := fun i =>
    (State.applySwap_keeps (L := 75776) s i rfl (Keeps.refl s)).lowRegs rfl
  have hsettle : ∀ st, SameLowRegs s (s.settle st) := fun st => settleCks_lowRegs s st _
  unfold State.afterPn
  split
  · exact SameLowRegs.trans (ite_both (P := SameLowRegs s) (hswap _) (.refl s)) (retirePlans_lowRegs _)
  · exact (hsettle _).trans (retirePlans_lowRegs _)
  · exact .refl s

theorem SameLowRegs.rd64 {s t : State} (h : SameLowRegs s t) {lo hi : Nat} (h1 : lo < 0x1900000) (h2 : lo ≠ Reg.HIF_SVC_LOST)
    (h3 : hi < 0x1900000) (h4 : hi ≠ Reg.HIF_SVC_LOST) : t.rd64 lo hi = s.rd64 lo hi := by
  unfold State.rd64
  rw [h.reg lo h1 h2, h.reg hi h3 h4]

/-- What follows a pennant leaves the counts of its ring. -/
theorem ringSeq_afterPn (s : State) (p : Pn) {m : Nat} (hm : m < 64) : (s.afterPn p).ringSeq m = s.ringSeq m := by
  refine (afterPn_lowRegs s p).rd64 ?_ ?_ ?_ ?_ <;>
    simp only [Reg.HIF_PRING_SEQ_LO, Reg.HIF_PRING_SEQ_HI, Reg.HIF_SVC_LOST] <;> omega

theorem produced_afterPn (s : State) (p : Pn) {m : Nat} (hm : m < 64) : (s.afterPn p).produced m = s.produced m := by
  refine (afterPn_lowRegs s p).rd64 ?_ ?_ ?_ ?_ <;>
    simp only [Reg.HIF_PRING_PROD_LO, Reg.HIF_PRING_PROD_HI, Reg.HIF_SVC_LOST] <;> omega

end Sys2Proof.Machine
end

section
/-! SUPPORT. A pennant without a command or frame, a pennant ring that halts, and the vectors of MSI-X. -/

set_option Elab.async false

namespace Sys2Proof.Machine

/-! ### Pennants without a command or frame -/

/-- A pennant that no command and no frame owns (R97, R123). -/
def Pn.deviceLevel (p : Pn) : Prop := p.key = .device ∨ ∃ c, p.key = .refusal c

theorem pnKey_of_deviceLevel {p : Pn} (h : p.deviceLevel) : pnKey p = none := by
  unfold pnKey
  rcases h with h | ⟨c, h⟩ <;> rw [h]

theorem pnCmd_of_deviceLevel {p : Pn} (h : p.deviceLevel) : pnCmd p = none := by
  unfold pnCmd
  rcases h with h | ⟨c, h⟩ <;> rw [h]

theorem logStalls_of_deviceLevel (s : State) {p : Pn} (h : p.deviceLevel) : s.logStalls p = false := by
  unfold State.logStalls
  rw [pnKey_of_deviceLevel h]
  simp

theorem matchRec_of_deviceLevel (s : State) {p : Pn} (h : p.deviceLevel) (m : Nat) : s.matchRec p m = none := by
  unfold State.matchRec
  rw [pnKey_of_deviceLevel h]

theorem isReplay_of_deviceLevel (s : State) {p : Pn} (h : p.deviceLevel) (hfirst : p.rerun = false) : s.isReplay p = false := by
  unfold State.isReplay
  rcases h with h | ⟨c, h⟩ <;> rw [h, hfirst] <;> rfl

theorem afterPn_of_deviceLevel (s : State) {p : Pn} (h : p.deviceLevel) : s.afterPn p = s := by
  unfold State.afterPn
  rcases h with h | ⟨c, h⟩ <;> rw [h]

theorem finalBody_of_deviceLevel (s : State) {p : Pn} (h : p.deviceLevel) : s.finalBody p = p.body := by
  unfold State.finalBody
  rw [pnCmd_of_deviceLevel h]
  exact ite_both (P := fun b : Nat => b = p.body) rfl rfl

theorem writtenFlags_of_deviceLevel (s : State) {p : Pn} (h : p.deviceLevel) (m : Nat) : s.writtenFlags m p false = p.flags := by
  unfold State.writtenFlags
  rcases h with h | ⟨c, h⟩ <;> rw [h] <;> simp

/-- Such a pennant is posted as it stands: there is nothing to record in the journal. -/
theorem postPn_of_deviceLevel (s : State) {p : Pn} (h : p.deviceLevel) (m : Nat) :
    s.postPn m p false =
      s.postBlocks m (header (s.rd Reg.LNK_TOPO_MY_DEV) m (s.ringSeq m) p.flags p.body p) p.exts := by
  unfold State.postPn State.writtenHeader
  rw [recordPn_of_no_key h, writtenFlags_of_deviceLevel s h, finalBody_of_deviceLevel s h]

theorem posted_hif_of_deviceLevel (s : State) {p : Pn} (h : p.deviceLevel) (m : Nat) :
    ((s.postPn m p false).advanceRing m (1 + p.exts.length)).hif = s.hif := by
  rw [postPn_of_deviceLevel s h]
  exact (State.advanceRing_keeps (L := 33554433) _ m _ rfl (State.postBlocks_keeps s m _ _ rfl (Keeps.refl s))).parts.same .hif rfl

/-- What writing a pennant leaves alone when there is nothing to record in the journal. -/
theorem writePn_keeps_of_deviceLevel (s : State) {p : Pn} (h : p.deviceLevel) (m : Nat) :
    Keeps 33554435 s (s.writePn m p false) := by
  refine Keeps.trans ?_ (writePn_announces s m p false).keeps
  rw [postPn_of_deviceLevel s h]
  exact State.advanceRing_keeps _ m _ rfl (State.postBlocks_keeps s m _ _ rfl (Keeps.refl s))

theorem takenPn_keeps (s : State) (m : Nat) (p : Pn) : Keeps 33554435 s (s.takenPn m p) :=
  State.takePn_keeps _ m p rfl (State.setPring_keeps _ m _ rfl (State.endStall_keeps s m rfl (Keeps.refl s)))

/-! ### A pennant ring that halts (R95) -/

/-- The registers that the halt of a pennant ring changes outside HLTH and SNAP (R95, R106, R109). -/
def haltRegs (m : Nat) : List Nat :=
  [Reg.HIF_PRING_ERR m, Reg.HIF_ERR, Reg.HIF_ERR_ADDR_LO, Reg.HIF_ERR_ADDR_HI, Reg.HIF_PRING_STATUS m, Reg.HIF_SVC_LOST]

/-- The last steps of a halt: STATE reads 5, the re-reads end, and the event may take a pennant of its own. -/
theorem haltPring_last (s : State) (m code addr d0 d1 : Nat) {f : RegField} (hf : f.addr ≠ Reg.HIF_SVC_LOST) :
    (s.haltPring m code addr d0 d1).rd f =
      (((s.setErr (Reg.HIF_PRING_ERR m) false (0, 0, 0) code).hifErr code (64 + m) addr d0 d1).wr
        (Reg.HIF_PRING_STATUS_STATE m) 5).rd f := by
  unfold State.haltPring
  exact ite_both (P := fun t : State => t.rd f = _) rfl (by
    unfold State.rd
    rw [reg_devError _ _ _ _ _ _ _ hf]
    rfl)

/-- A ring that halts is HALTED (R95). -/
theorem pState_haltPring (s : State) {m : Nat} (code addr d0 d1 : Nat) : (s.haltPring m code addr d0 d1).pState m = 5 := by
  unfold State.pState
  rw [haltPring_last _ _ _ _ _ _ (by simp only [Reg.HIF_PRING_STATUS, Reg.HIF_SVC_LOST]; omega),
    rd_wr_same _ _ _ (show 0 + 3 ≤ 32 by decide)]
  rfl

/-- The halt of a ring is in HIF_ERR (R106, R109). -/
theorem rd_haltPring_valid (s : State) (m code addr d0 d1 : Nat) : (s.haltPring m code addr d0 d1).rd Reg.HIF_ERR_VALID = 1 := by
  rw [haltPring_last _ _ _ _ _ _ (by decide), rd_wr_reg _ _ _ _ (by simp only [Reg.HIF_ERR, Reg.HIF_PRING_STATUS]; omega)]
  exact rd_hifErr_valid _ _ _ _ _ _

theorem reg_haltPring (s : State) {m : Nat} (code addr d0 d1 : Nat) {a : Nat} (h1 : a / 0x100000 ≠ 0x1E) (h2 : a / 0x100000 ≠ 0x1F)
    (h3 : a ∉ haltRegs m) : (s.haltPring m code addr d0 d1).reg a = s.reg a := by
  simp only [haltRegs, List.mem_cons, List.not_mem_nil, or_false, not_or] at h3
  obtain ⟨hring, herr, hlo, hhi, hstatus, hlost⟩ := h3
  have hrecorded : (((s.setErr (Reg.HIF_PRING_ERR m) false (0, 0, 0) code).hifErr code (64 + m) addr d0 d1).wr
      (Reg.HIF_PRING_STATUS_STATE m) 5).reg a = s.reg a := by
    rw [reg_wr_other _ _ _ _ hstatus, (hifErr_records _ _ _ _ _ _).reg a h1 h2 (by simp [herr, hlo, hhi]),
      reg_setErr_other _ _ _ _ _ _ hring]
  unfold State.haltPring
  refine ite_both (P := fun t : State => t.reg a = s.reg a) hrecorded ?_
  rw [reg_devError _ _ _ _ _ _ _ hlost]
  exact hrecorded

/-- A ring that halts keeps PRODUCED (R95). -/
theorem produced_haltPring (s : State) {m : Nat} (code addr d0 d1 : Nat) (hm : m < 64) :
    (s.haltPring m code addr d0 d1).produced m = s.produced m := by
  have hother : ∀ a, a = Reg.HIF_PRING_PROD_LO m ∨ a = Reg.HIF_PRING_PROD_HI m →
      (s.haltPring m code addr d0 d1).reg a = s.reg a := fun a ha => by
    simp only [Reg.HIF_PRING_PROD_LO, Reg.HIF_PRING_PROD_HI] at ha
    refine reg_haltPring s code addr d0 d1 (by omega) (by omega) ?_
    simp only [haltRegs, List.mem_cons, List.not_mem_nil, or_false, Reg.HIF_PRING_ERR, Reg.HIF_ERR, Reg.HIF_ERR_ADDR_LO,
      Reg.HIF_ERR_ADDR_HI, Reg.HIF_PRING_STATUS, Reg.HIF_SVC_LOST]
    omega
  unfold State.produced State.rd64
  rw [hother _ (.inl rfl), hother _ (.inr rfl)]

/-! ### The re-read of a full ring's consumer record (R94, R95) -/

/-- A re-read whose page is translated reads the record, and the ring halts on a bad value or goes on. -/
theorem exec_consumerRecordReread {s : State} {m n : Nat} (consumed : Nat) (hactive : s.pState m = 1)
    (hstalled : (s.pring m).stalled = some n) (hxlated : s.untranslated false (pagesOf (s.consAddr m) 8) = []) :
    exec (.consumerRecordReread m consumed) s =
      .next (if s.consBad m consumed then
          (s.post (.consRead m (s.tlp (s.consAddr m)))).haltPring m 0x0109 (s.consAddr m) consumed (s.produced m)
        else ((s.post (.consRead m (s.tlp (s.consAddr m)))).setPring m { s.pring m with cons := some consumed }).endStall m) := by
  have hactive' : s.rd (Reg.HIF_PRING_STATUS_STATE m) = 1 := hactive
  show execConsumerRecordReread m consumed s = _
  unfold execConsumerRecordReread
  rw [if_pos ⟨by rw [hstalled]; rfl, hactive'⟩, hxlated]
  simp only [List.isEmpty_nil, Bool.not_true, Bool.false_eq_true, if_false, apply_ite Host.Outcome.next]
  rfl

/-- The episode of a full ring ends exactly when the blocks it waits for are free (R94). -/
theorem endStall_of_stalled {s : State} {m n : Nat} (h : (s.pring m).stalled = some n) :
    s.endStall m = if n ≤ s.freeBlocks m then s.setPring m { s.pring m with stalled := none } else s := by
  unfold State.endStall
  rw [h]

/-! ### Vectors (R99 to R101) -/

theorem told_of_due (x : PRing) {due : Prop} [Decidable due] (h : due) : x.told due = { x with unann := 0, timer := false } := if_pos h

/-- A masked vector's PBA bit is set (R101). -/
theorem pbaBit_set (x : BitVec 32) {k : Nat} (hk : k < 32) : bitsOf (BitVec.ofNat 32 (x.toNat ||| 2 ^ k)).toNat k 1 = 1 := by
  have hlt : x.toNat ||| 2 ^ k < 2 ^ 32 := Nat.or_lt_two_pow x.isLt (Nat.pow_lt_pow_right (by decide) hk)
  rw [bitsOf_one_eq_one_iff, BitVec.toNat_ofNat, Nat.mod_eq_of_lt hlt, Nat.testBit_or, Nat.testBit_two_pow_self, Bool.or_true]

/-- A bit of a register that was written with 0 reads 0. -/
theorem bit_cleared (x : BitVec 32) {k : Nat} (hk : k < 32) : bitsOf (BitVec.ofNat 32 (putBits x.toNat k 1 0)).toNat k 1 = 0 := by
  rw [BitVec.toNat_ofNat, Nat.mod_eq_of_lt (putBits_lt _ _ _ _ _ x.isLt hk), bitsOf_putBits_same]
  rfl

/-- The mask of a vector is clear (R101). -/
def State.unmasked (s : State) (v : Nat) : State :=
  s.setReg (Reg.MSIX_CTRL v) (BitVec.ofNat 32 (putBits (s.reg (Reg.MSIX_CTRL v)).toNat 0 1 0))

/-- The mask of a vector is no part of its message. -/
theorem msixOut_unmasked (s : State) (v : Nat) : (s.unmasked v).msixOut v = s.msixOut v := by
  unfold State.unmasked State.msixOut State.rd64
  rw [reg_setReg_other, reg_setReg_other, reg_setReg_other] <;>
    simp only [Reg.MSIX_ADDR_LO, Reg.MSIX_ADDR_HI, Reg.MSIX_DATA, Reg.MSIX_CTRL] <;> omega

/-- Unmasking a vector sends its message once when the PBA bit is set, and clears the bit (R101). -/
theorem exec_msixVectorUnmask {s : State} {v : Nat} (h : reaches s (Reg.MSIX_CTRL v)) :
    exec (.msixVectorUnmask v) s =
      .next (if bitsOf (s.reg (Reg.MSIX_PBA (v / 32))).toNat (v % 32) 1 = 1 then
          ((s.unmasked v).setReg (Reg.MSIX_PBA (v / 32))
            (BitVec.ofNat 32 (putBits (s.reg (Reg.MSIX_PBA (v / 32))).toNat (v % 32) 1 0))).post (s.msixOut v)
        else s.unmasked v) := by
  have hpba : (s.unmasked v).reg (Reg.MSIX_PBA (v / 32)) = s.reg (Reg.MSIX_PBA (v / 32)) :=
    reg_setReg_other _ _ _ _ (by simp only [Reg.MSIX_CTRL, Reg.MSIX_PBA]; omega)
  show execMsixVectorUnmask v s = _
  unfold execMsixVectorUnmask
  rw [bar_of_reaches h, ← msixOut_unmasked, ← hpba, apply_ite Host.Outcome.next]
  rfl

end Sys2Proof.Machine
end

section
/-! SUPPORT. The claim on pennants, re-reads of the consumer record and MSI-X. -/

set_option Elab.async false

namespace Sys2Proof

open Machine

/-- Settles O17: a pennant without a command or frame is posted as it stands, and each other event is one of three small updates. -/
theorem pennantsMessagesAndRereads : Obligations.PennantsMessagesAndRereads := by
  unfold Obligations.PennantsMessagesAndRereads
  refine ⟨?pennant, ?goesOn, ?halts, ?timer, ?unmask⟩
  case pennant =>
    intro s m consumed p hm hactive hnext hkey hrerun hxlated hread hroom hseq hseqlt hprodlt
    have hwrite : MayWrite s m p := ⟨hactive, hseq, logStalls_of_deviceLevel s hkey, hxlated, hread, hroom⟩
    have hsame := (takenPn_rings s m p).addressing
    have hannounces := writePn_announces (s.takenPn m p) m p false
    have hexec := exec_pennantWrite_new hnext (matchRec_of_deviceLevel s hkey m) hwrite consumed
    rw [afterPn_of_deviceLevel _ hkey, isReplay_of_deviceLevel s hkey hrerun] at hexec
    have hif_posted := posted_hif_of_deviceLevel (s.takenPn m p) hkey m
    refine ⟨_, hexec, ?_, ?_, ?_, ?_, ?_, ?_, ?_⟩
    · rw [ringSeq_writePn _ p _ hm, hsame.ringSeq, Nat.mod_eq_of_lt hseqlt]
    · rw [produced_writePn _ p _ hm, hsame.produced, Nat.mod_eq_of_lt (by omega), Nat.add_assoc]
    · rw [hannounces.ready, ← ready_takenPn]
      unfold State.pring
      rw [hif_posted]
    · rw [hannounces.svcQueue, ← takenPn_svcQueue, hif_posted]
    · obtain ⟨l, hl, hmsix⟩ := out_writePn (s.takenPn m p) m p false
      refine ⟨l, ?_, hmsix⟩
      rw [hl, postPn_of_deviceLevel _ hkey]
      unfold State.postBlocks
      simp only [hsame.tlp, hsame.blockAddr, hsame.produced, hsame.blocks, hsame.rd, hsame.ringSeq, (takenPn_rings s m p).out]
    · intro a h1 h2 h3 h4 hpba
      rw [hannounces.reg a hpba, reg_advanceRing _ _ _ h1 h2 h3 h4, (postPn_addressing _ m p false).reg, hsame.reg]
    · exact ((takenPn_keeps s m p).trans (writePn_keeps_of_deviceLevel _ hkey m)).eq_regs_hif_out
  case goesOn =>
    intro s m consumed n hm hactive hstalled hgood hxlated
    have hexec := exec_consumerRecordReread consumed hactive hstalled hxlated
    have hring : (((s.post (.consRead m (s.tlp (s.consAddr m)))).setPring m { s.pring m with cons := some consumed }).pring m) =
        { s.pring m with cons := some consumed } := pring_setPring_same _ _ _
    rw [hgood, if_neg Bool.false_ne_true, endStall_of_stalled (n := n) (by rw [hring]; exact hstalled)] at hexec
    have hfree : ((s.post (.consRead m (s.tlp (s.consAddr m)))).setPring m { s.pring m with cons := some consumed }).freeBlocks m =
        s.blocks m - (s.produced m - consumed) := by
      unfold State.freeBlocks
      rw [hring]
      rfl
    rw [hfree, hring] at hexec
    refine ⟨_, hexec, ?_⟩
    split
    · rw [pring_setPring_same]
      exact ⟨rfl, rfl, rfl, rfl, rfl⟩
    · rw [hring]
      exact ⟨rfl, hstalled, rfl, rfl, rfl⟩
  case halts =>
    intro s m consumed n hm hactive hstalled hbad hxlated
    have hexec := exec_consumerRecordReread consumed hactive hstalled hxlated
    rw [hbad, if_pos rfl] at hexec
    exact ⟨_, hexec, pState_haltPring _ _ _ _ _, rd_haltPring_valid _ _ _ _ _ _, produced_haltPring _ _ _ _ _ hm⟩
  case timer =>
    intro s m v hm hv htimer hcount
    have hexec : exec (.msixTimerExpiry m) s = .next (s.message v) := by rw [hv]; exact if_pos ⟨htimer, hcount⟩
    have hrings := clearUnanns_rings v (List.range 64) s
    have hring : (s.clearUnanns v (List.range 64)).pring m = { s.pring m with unann := 0, timer := false } := by
      rw [pring_clearUnanns, told_of_due _ ⟨List.mem_range.mpr hm, hv.symm⟩]
    refine ⟨_, hexec, ?_⟩
    rw [message_eq]
    split
    · refine ⟨congrArg PRing.unann hring, congrArg PRing.timer hring, ?_, hrings.out, ?_, fun a ha => ?_⟩
      · rw [reg_setReg_same]
        exact pbaBit_set _ (Nat.mod_lt _ (by decide))
      · unfold State.setReg
        rw [hrings.eq]
      · rw [reg_setReg_other _ _ _ _ (by simpa using ha)]
        exact hrings.addressing.reg a
    · refine ⟨congrArg PRing.unann hring, congrArg PRing.timer hring, ?_, ?_⟩
      · rw [← hrings.out]
        rfl
      · unfold State.post
        rw [hrings.eq]
  case unmask =>
    intro s v hv hreaches
    have hctrl : Reg.MSIX_CTRL v ≠ Reg.MSIX_PBA (v / 32) := by simp only [Reg.MSIX_CTRL, Reg.MSIX_PBA]; omega
    have hcleared : bitsOf ((s.unmasked v).reg (Reg.MSIX_CTRL v)).toNat 0 1 = 0 := by
      unfold State.unmasked
      rw [reg_setReg_same]
      exact bit_cleared _ (by decide)
    have hpba : (s.unmasked v).reg (Reg.MSIX_PBA (v / 32)) = s.reg (Reg.MSIX_PBA (v / 32)) := reg_setReg_other _ _ _ _ hctrl.symm
    have hother : ∀ a, a ∉ [Reg.MSIX_CTRL v, Reg.MSIX_PBA (v / 32)] → (s.unmasked v).reg a = s.reg a := fun a ha =>
      reg_setReg_other _ _ _ _ (List.ne_of_not_mem_cons ha)
    refine ⟨_, exec_msixVectorUnmask hreaches, ?_⟩
    split
    · refine ⟨?_, ?_, rfl, rfl, fun a ha => ?_⟩
      · show bitsOf (((s.unmasked v).setReg _ _).reg _).toNat 0 1 = 0
        rw [reg_setReg_other _ _ _ _ hctrl]
        exact hcleared
      · show bitsOf (((s.unmasked v).setReg _ _).reg _).toNat (v % 32) 1 = 0
        rw [reg_setReg_same]
        exact bit_cleared _ (Nat.mod_lt _ (by decide))
      · show ((s.unmasked v).setReg _ _).reg a = s.reg a
        have hne : a ≠ Reg.MSIX_PBA (v / 32) := List.ne_of_not_mem_cons (List.not_mem_of_not_mem_cons ha)
        rw [reg_setReg_other _ _ _ _ hne]
        exact hother a ha
    · next hbit =>
      refine ⟨hcleared, ?_, (List.append_nil _).symm, rfl, hother⟩
      rw [hpba]
      have := bitsOf_lt (s.reg (Reg.MSIX_PBA (v / 32))).toNat (v % 32) 1
      omega

end Sys2Proof
end

section
/-! SUPPORT. The claim on a pennant of any kind. -/

set_option Elab.async false

namespace Sys2Proof

open Machine

/-- Settles O18: the pennant is written from the state that took it, and what follows it leaves the ring's registers and what was posted. -/
theorem everyPennantTakesTheNextRingSeqAndBlocks : Obligations.EveryPennantTakesTheNextRingSeqAndBlocks := by
  unfold Obligations.EveryPennantTakesTheNextRingSeqAndBlocks
  intro s m consumed p hm hactive hnext hrec hlog hxlated hread hroom hseq hseqlt hprodlt
  have hwrite : MayWrite s m p := ⟨hactive, hseq, hlog, hxlated, hread, hroom⟩
  have hsame := (takenPn_rings s m p).addressing
  have hout : (((s.takenPn m p).writePn m p (s.isReplay p)).afterPn p).out = ((s.takenPn m p).writePn m p (s.isReplay p)).out :=
    (State.afterPn_keeps (L := 9119835) _ p rfl (Keeps.refl _)).parts.same .out rfl
  obtain ⟨l, hposted, -⟩ := out_writePn (s.takenPn m p) m p (s.isReplay p)
  refine ⟨_, exec_pennantWrite_new hnext hrec hwrite consumed, ?_, ?_,
    (s.takenPn m p).writtenFlags m p (s.isReplay p), (s.takenPn m p).finalBody p, fun k h7 h9 => testBit_writtenFlags _ m p _ h7 h9, ?_⟩
  · rw [ringSeq_afterPn _ p hm, ringSeq_writePn _ p _ hm, hsame.ringSeq, Nat.mod_eq_of_lt hseqlt]
  · rw [produced_afterPn _ p hm, produced_writePn _ p _ hm, hsame.produced, Nat.mod_eq_of_lt (by omega), Nat.add_assoc]
  · have hmem := header_mem_postPn (s.takenPn m p) m p (s.isReplay p)
    rw [hsame.tlp, hsame.blockAddr, hsame.produced, hsame.blocks] at hmem
    unfold State.writtenHeader at hmem
    rw [hsame.rd, hsame.ringSeq] at hmem
    rw [hout, hposted]
    exact List.mem_append_left l hmem

end Sys2Proof
end

section
/-! SUPPORT. The job a command adds, and a job that starts and draws its plan copies. -/

set_option Elab.async false

namespace Sys2Proof.Machine

/-! ### The job of a command (R278, R305) -/

theorem length_updFirst {α : Type} (p : α → Bool) (f : α → α) (l : List α) : (updFirst p f l).length = l.length := by
  induction l with
  | nil => rfl
  | cons x l ih =>
    unfold updFirst
    split
    · rfl
    · exact congrArg (· + 1) ih

/-- An element stays, unless it is the one that was changed. -/
theorem mem_updFirst {α : Type} (p : α → Bool) (f : α → α) {x : α} {l : List α} (h : x ∈ l) :
    x ∈ updFirst p f l ∨ f x ∈ updFirst p f l := by
  induction l with
  | nil => exact absurd h List.not_mem_nil
  | cons y l ih =>
    unfold updFirst
    rcases List.mem_cons.mp h with rfl | h <;> split
    · exact .inr List.mem_cons_self
    · exact .inl List.mem_cons_self
    · exact .inl (List.mem_cons_of_mem _ h)
    · exact (ih h).imp (List.mem_cons_of_mem _) (List.mem_cons_of_mem _)

/-- The job that a command asks for, with its COUNT and its adaptation block (R278, R305, R382). -/
structure Job.AskedBy (x : Job) (c : Cmd) (count : Nat) (adapt : Option Nat) : Prop where
  kind : x.kind = .cmd c.jidx
  prog : x.prog = paramProg c.slot
  route : x.route = paramRoute c.slot
  svc : x.svc = paramSvc c.slot
  jobId : x.jobId = slotJob c.slot
  count : x.count = some count
  started : x.started = false
  adapt : x.adapt = adapt

theorem cmdJob_job (s : State) (c : Cmd) (hdr count : Nat) (block : List Nat) (adapt : Option Nat) :
    ∃ x ∈ (s.cmdJob c hdr count block adapt).jobs, x.AskedBy c count adapt := by
  unfold State.cmdJob
  dsimp only
  generalize hj : Job.mk .. = j
  have hasked : Job.AskedBy { j with id := s.nextJob, ticket := s.ticketNow } c count adapt := by
    subst hj
    exact ⟨rfl, rfl, rfl, rfl, rfl, rfl, rfl, rfl⟩
  have hadded : { j with id := s.nextJob, ticket := s.ticketNow } ∈ (s.addJob j).jobs := List.mem_append_right _ List.mem_cons_self
  rcases mem_updFirst (fun j => j.id == s.nextJob) (fun j => if c.replay then j else { j with ticket := c.mono / 40 % 2 ^ 32 }) hadded
    with h | h
  · exact ⟨_, h, hasked⟩
  · refine ⟨_, h, ?_⟩
    obtain ⟨hkind, hprog, hroute, hsvc, hjobId, hcount, hstarted, hadapt⟩ := hasked
    exact ite_both (P := fun x : Job => x.AskedBy c count adapt) ⟨hkind, hprog, hroute, hsvc, hjobId, hcount, hstarted, hadapt⟩
      ⟨hkind, hprog, hroute, hsvc, hjobId, hcount, hstarted, hadapt⟩

theorem length_cmdJob (s : State) (c : Cmd) (hdr count : Nat) (block : List Nat) (adapt : Option Nat) :
    (s.cmdJob c hdr count block adapt).jobs.length = s.jobs.length + 1 :=
  (length_updFirst _ _ _).trans List.length_append

/-- The command of the job waits for it. -/
theorem cmdJob_waiting {s : State} {c d : Cmd} (hdr count : Nat) (block : List Nat) (adapt : Option Nat) (h : s.cmd? c.jidx = some d) :
    ∃ e, (s.cmdJob c hdr count block adapt).cmd? c.jidx = some e ∧ e.waiting = true := by
  refine ⟨{ d with waiting := true }, ?_, rfl⟩
  have hupd := cmd_updCmd s c.jidx (fun c => { c with waiting := true }) (fun _ h => h)
  rw [h] at hupd
  exact hupd

/-- The object of a command is read (R69). -/
theorem fetchedObj_done {s : State} {c : Cmd} (h : (s.fetchedObj c).2 = true) :
    ∃ s1, s.fetchedObj c = (s1, true) ∧ ReadsOnly s s1 :=
  ⟨_, Prod.ext rfl h, fetched_reads s c _ _⟩

theorem ReadsOnly.jobs {s t : State} (h : ReadsOnly s t) : t.jobs = s.jobs := by rw [h.eq]
theorem ReadsOnly.regs {s t : State} (h : ReadsOnly s t) : t.regs = s.regs := by rw [h.eq]
theorem ReadsOnly.streams {s t : State} (h : ReadsOnly s t) : t.streams = s.streams := by rw [h.eq]

theorem ReadsOnly.ackRing {s t : State} (h : ReadsOnly s t) (c : Cmd) : t.ackRing c = s.ackRing c := by
  unfold State.ackRing State.rd State.reg
  rw [h.regs]

theorem ReadsOnly.cmd_some {s t : State} (h : ReadsOnly s t) {j : Nat} {c : Cmd} (hc : s.cmd? j = some c) : ∃ d, t.cmd? j = some d := by
  obtain ⟨l, hl⟩ := h.cmd j
  rw [hc] at hl
  exact ⟨_, hl⟩

/-! ### A command of the programming model that fails (R309) -/

theorem failGlb_ends {s : State} {c d : Cmd} (code d0 d1 : Nat) (h : s.cmd? c.jidx = some d) :
    ends (s.failGlb c code d0 d1) c code := by
  refine failCmd_ends (d := d) _ code d0 d1 ?_
  unfold State.cmd?
  rw [(file_records s .glb 0xFFFF code d0 d1).jrnl]
  exact h

theorem failGlb_waits (s : State) (c : Cmd) (code d0 d1 : Nat) :
    waitsOn (s.failGlb c code d0 d1) (s.ackRing c) 0x12 c.jidx code := failCmd_waits _ c _ code d0 d1

theorem failGlb_jobs (s : State) (c : Cmd) (code d0 d1 : Nat) : (s.failGlb c code d0 d1).jobs = s.jobs := by
  unfold State.failGlb
  rw [failCmd_eq]
  exact (file_records s .glb 0xFFFF code d0 d1).jobs

theorem failGlb_streams (s : State) (c : Cmd) (code d0 d1 : Nat) : (s.failGlb c code d0 d1).streams = s.streams := by
  unfold State.failGlb
  rw [failCmd_eq]
  exact (file_records s .glb 0xFFFF code d0 d1).streams

/-! ### A job that draws its plan copies (R292, R575) -/

/-- Drawing plan copies leaves the jobs. -/
theorem drawPlan_jobs {s t : State} {j : Job} {l : List Nat} {q : List (Nat × Nat × List Nat)} (h : s.drawPlan j l = some (t, q)) :
    t.jobs = s.jobs :=
  (State.drawPlan_keeps (L := 9043995) s j l rfl (Keeps.refl s) t q h).parts.same .jobs rfl

/-- From `s` to `t` only nodes of the job `id` may differ. -/
structure NodesOnly (id : Nat) (s t : State) : Prop where
  eq : t = { s with jobs := t.jobs }
  job : ∀ j, s.job? id = some j → ∃ l, t.job? id = some { j with nodes := l }

theorem NodesOnly.refl (id : Nat) (s : State) : NodesOnly id s s := ⟨rfl, fun j h => ⟨j.nodes, h⟩⟩

theorem NodesOnly.trans {id : Nat} {s t u : State} (h : NodesOnly id s t) (k : NodesOnly id t u) : NodesOnly id s u := by
  refine ⟨?_, fun j hj => ?_⟩
  · have hu := k.eq
    rw [h.eq] at hu
    exact hu
  · obtain ⟨l, hl⟩ := h.job j hj
    exact k.job { j with nodes := l } hl

theorem NodesOnly.foldl {α : Type} {id : Nat} {f : State → α → State} (hf : ∀ s x, NodesOnly id s (f s x)) (l : List α)
    (s : State) : NodesOnly id s (l.foldl f s) := by
  induction l generalizing s with
  | nil => exact .refl id s
  | cons x l ih => exact (hf s x).trans (ih _)

theorem updNode_nodesOnly (s : State) (id n : Nat) (f : NodeSt → NodeSt) : NodesOnly id s (s.updNode id n f) := by
  refine ⟨rfl, fun j h => ?_⟩
  rw [job_updNode, h]
  exact ⟨_, rfl⟩

/-- Giving the SGS nodes of a job their stations changes nodes of the job alone (R488). -/
theorem seatNodes_nodesOnly (s : State) (id : Nat) : NodesOnly id s (s.seatNodes id) := by
  unfold State.seatNodes
  split
  · exact .refl id s
  · refine ite_both (P := NodesOnly id s) (.refl id s) (NodesOnly.foldl (fun t q => ?_) _ s)
    exact ite_both (P := NodesOnly id t) (updNode_nodesOnly t id _ _) (.refl id t)

/-- A frame's job has no node that waits for a station of its own. -/
theorem seatNodes_of_frame {s : State} {id : Nat} {j : Job} (h : s.job? id = some j) (hframe : j.frameOf.isSome = true) :
    s.seatNodes id = s := by
  unfold State.seatNodes
  rw [h]
  exact if_pos hframe

theorem job_planned {s : State} {id : Nat} {j : Job} (l : List (Nat × Nat × List Nat)) (h : s.job? id = some j) :
    (s.updJob id (fun j => { j with plan := some l })).job? id = some { j with plan := some l } :=
  (job_updJob s id (fun j => { j with plan := some l }) (fun _ h => h)).trans (by rw [h]; rfl)

theorem grantPlan_of_drawn {s t : State} {j : Job} {l : List (Nat × Nat × List Nat)} (hleft : s.copiesLeft j = true)
    (hdrawn : s.drawPlan j (s.planEntries j) = some (t, l)) :
    s.grantPlan j = (t.updJob j.id (fun j => { j with plan := some l })).seatNodes j.id := by
  unfold State.grantPlan
  rw [if_pos hleft, hdrawn]

theorem grantPlan_of_not_drawn {s : State} {j : Job} (h : s.copiesLeft j = false ∨ s.drawPlan j (s.planEntries j) = none) :
    s.grantPlan j = s := by
  unfold State.grantPlan
  rcases h with h | h
  · rw [h]; rfl
  · rw [h]; exact ite_both (P := fun t : State => t = s) rfl rfl

/-- A job of a frame that draws its copies, or waits for them, is the same but for the copies. -/
theorem job_grantPlan_of_frame {s : State} {id : Nat} {j : Job} (k : Job) (hk : k.id = id) (h : s.job? id = some j)
    (hframe : j.frameOf.isSome = true) : ∃ p, (s.grantPlan k).job? id = some { j with plan := p } := by
  subst hk
  by_cases hno : s.copiesLeft k = false ∨ s.drawPlan k (s.planEntries k) = none
  · rw [grantPlan_of_not_drawn hno]
    exact ⟨j.plan, h⟩
  · obtain ⟨hleft, hdrawn⟩ := not_or.mp hno
    obtain ⟨⟨t, l⟩, hdrawn⟩ := Option.ne_none_iff_exists'.mp hdrawn
    have hjob := job_planned l ((job_of (drawPlan_jobs hdrawn) k.id).trans h)
    rw [grantPlan_of_drawn (Bool.eq_true_of_not_eq_false hleft) hdrawn, seatNodes_of_frame hjob hframe]
    exact ⟨some l, hjob⟩

/-! ### The commands, step by step -/

/-- JOB_RUN with its block read, of a program that is absent (R302). -/
theorem exec_jobRun_gone {s s1 : State} {j : Nat} {c : Cmd} {b : List Nat} (hrun : s.running j 0x31 = some c)
    (hwaits : c.waiting = false) (hlen : b.length = slotLength c.slot) (hread : s.fetchedObj c = (s1, true))
    (huse : s.progUse c (paramProg c.slot) = .gone) :
    exec (.jobRun j b) s = .next (s1.failGlb c 0x050A (paramProg c.slot) 0x31) := by
  show execJobRun j b s = _
  unfold execJobRun
  simp only [hrun, hwaits, hlen, hread, huse, Bool.false_eq_true, ne_eq, not_true_eq_false, or_self, if_false]

/-- JOB_RUN with a valid block, of a usable program with a job route that holds no OPT_STEP (R305, R386). -/
theorem exec_jobRun_valid {s s1 : State} {j : Nat} {c : Cmd} {b : List Nat} (hrun : s.running j 0x31 = some c)
    (hwaits : c.waiting = false) (hlen : b.length = slotLength c.slot) (hread : s.fetchedObj c = (s1, true))
    (huse : s.progUse c (paramProg c.slot) = .use) (hkind : s.routeKind c.slot = some false)
    (hopt : ((s.prog (paramProg c.slot)).routeWords (paramRoute c.slot)).any (fun v => wOpc v == 0x4F) = false)
    (hblock : blockBad b 64 (slotLength c.slot) (fun h => bitsOf h 0 488 == 0) = none) :
    exec (.jobRun j b) s = .next (s1.cmdJob c 64 (bitsOf (ofBytes (b.take 64)) 488 16) b none) := by
  show execJobRun j b s = _
  unfold execJobRun
  simp only [hrun, hwaits, hlen, hread, huse, hkind, hopt, hblock, Bool.false_eq_true, ne_eq, not_true_eq_false, or_self, if_false]

/-- JOB_RUN with an invalid block of such a program (R305, R309). -/
theorem exec_jobRun_invalid {s s1 : State} {j d : Nat} {c : Cmd} {b : List Nat} (hrun : s.running j 0x31 = some c)
    (hwaits : c.waiting = false) (hlen : b.length = slotLength c.slot) (hread : s.fetchedObj c = (s1, true))
    (huse : s.progUse c (paramProg c.slot) = .use) (hkind : s.routeKind c.slot = some false)
    (hopt : ((s.prog (paramProg c.slot)).routeWords (paramRoute c.slot)).any (fun v => wOpc v == 0x4F) = false)
    (hblock : blockBad b 64 (slotLength c.slot) (fun h => bitsOf h 0 488 == 0) = some d) :
    exec (.jobRun j b) s = .next (s1.failGlb c 0x050C d (slotLength c.slot)) := by
  show execJobRun j b s = _
  unfold execJobRun
  simp only [hrun, hwaits, hlen, hread, huse, hkind, hopt, hblock, Bool.false_eq_true, ne_eq, not_true_eq_false, or_self, if_false]

/-- ADAPT_RUN with a valid block, of class 3 and of a usable program with a job route (R382, R383). -/
theorem exec_adaptRun_use {s s1 : State} {j : Nat} {c : Cmd} {b : List Nat} (hrun : s.running j 0x32 = some c)
    (hwaits : c.waiting = false) (hlen : b.length = slotLength c.slot) (hread : s.fetchedObj c = (s1, true))
    (huse : s.progUse c (paramProg c.slot) = .use) (hkind : s.routeKind c.slot = some false) (hsvc : paramSvc c.slot = 3)
    (hblock : blockBad b 128 (slotLength c.slot) (adaptOk s.reachable.length) = none) :
    exec (.adaptRun j b) s =
      .next (s1.cmdJob c 128 (bitsOf (ofBytes (b.take 128)) 1000 16) b (some (ofBytes (b.take 128)))) := by
  show execAdaptRun j b s = _
  unfold execAdaptRun
  simp only [hrun, hwaits, hlen, hread, huse, hkind, hsvc, hblock, Bool.false_eq_true, ne_eq, not_true_eq_false, or_self, if_false]

/-- JOB_START of a frame's job that may start (R278). -/
theorem exec_jobStart_frame {s : State} {job st n : Nat} {au : Option Nat} {j : Job} (hjob : s.job? job = some j)
    (hkind : j.kind = .frame st n au) (hstarted : j.started = false) (hadapt : j.adapt = none) (hheld : s.bindHolds st n = false)
    (hsaving : s.sched.saving = false) (hsaved : s.rd Reg.SCHED_STATUS_SAVED_ALL = 0)
    (hgood : s.hbm.badProgs.find? (fun q => q.1 == j.prog) = none) : exec (.jobStart job) s = .next (s.startJob j) := by
  show execJobStart job s = _
  unfold execJobStart
  simp only [hjob, hkind, hstarted, hadapt, hheld, hsaving, hsaved, hgood, Option.isSome_none, Bool.false_and, and_self, if_true]

theorem startJob_of_frame {s : State} {j : Job} {st n : Nat} {au : Option Nat} (hkind : j.kind = .frame st n au) :
    s.startJob j = (s.updJob j.id (fun k => { k with started := true, home := j.home })).grantPlan { j with started := true } := by
  unfold State.startJob
  simp only [hkind]
  rfl

/-- JOB_PLAN_GRANT of the waiting job with the oldest ticket (R575). -/
theorem exec_jobPlanGrant_first {s : State} {job : Nat} {j : Job} (hjob : s.job? job = some j) (hstarted : j.started = true)
    (hplan : j.plan = none)
    (hfirst : s.jobs.all (fun k => !(k.started && k.plan.isNone && olderTicket s.ticketNow k.ticket j.ticket)) = true) :
    exec (.jobPlanGrant job) s = .next (s.grantPlan j) := by
  show execJobPlanGrant job s = _
  unfold execJobPlanGrant
  rw [hjob]
  exact if_pos ⟨hstarted, by rw [hplan]; rfl, hfirst⟩

end Sys2Proof.Machine
end

section
/-! SUPPORT. The claim on the jobs of commands and the start of jobs. -/

set_option Elab.async false

namespace Sys2Proof

open Machine

/-- Settles O21: a command's job is the one `AskedBy` it, and a granted job differs in its plan copies and in nodes given a station. -/
theorem jobCommandsMakeStartAndGrantJobs : Obligations.JobCommandsMakeStartAndGrantJobs := by
  unfold Obligations.JobCommandsMakeStartAndGrantJobs
  refine ⟨?run, ?runGone, ?runInvalid, ?adapt, ?start, ?grant, ?noGrant⟩
  case run =>
    intro s j c b hrun hwaits hlen hread huse hkind hopt hblock
    obtain ⟨hcmd, rfl, -, -⟩ := cmd_of_running hrun
    obtain ⟨s1, hfetched, hreads⟩ := fetchedObj_done hread
    obtain ⟨d, hd⟩ := hreads.cmd_some hcmd
    obtain ⟨x, hx, hasked⟩ := cmdJob_job s1 c 64 (bitsOf (ofBytes (b.take 64)) 488 16) b none
    refine ⟨_, exec_jobRun_valid hrun hwaits hlen hfetched huse hkind hopt hblock, ⟨x, hx, hasked.kind, hasked.prog,
      hasked.route, hasked.svc, hasked.jobId, hasked.count, hasked.started, hasked.adapt⟩, ?_, cmdJob_waiting _ _ _ _ hd, hreads.regs⟩
    rw [length_cmdJob, hreads.jobs]
  case runGone =>
    intro s j c b hrun hwaits hlen hread huse
    obtain ⟨hcmd, rfl, -, -⟩ := cmd_of_running hrun
    obtain ⟨s1, hfetched, hreads⟩ := fetchedObj_done hread
    obtain ⟨d, hd⟩ := hreads.cmd_some hcmd
    refine ⟨_, exec_jobRun_gone hrun hwaits hlen hfetched huse, failGlb_ends _ _ _ hd, ?_, (failGlb_jobs _ _ _ _ _).trans hreads.jobs⟩
    rw [← hreads.ackRing]
    exact failGlb_waits _ _ _ _ _
  case runInvalid =>
    intro s j v c b hrun hwaits hlen hread huse hkind hopt hblock
    obtain ⟨hcmd, rfl, -, -⟩ := cmd_of_running hrun
    obtain ⟨s1, hfetched, hreads⟩ := fetchedObj_done hread
    obtain ⟨d, hd⟩ := hreads.cmd_some hcmd
    refine ⟨_, exec_jobRun_invalid hrun hwaits hlen hfetched huse hkind hopt hblock, failGlb_ends _ _ _ hd, ?_,
      (failGlb_jobs _ _ _ _ _).trans hreads.jobs⟩
    rw [← hreads.ackRing]
    exact failGlb_waits _ _ _ _ _
  case adapt =>
    intro s j c b hrun hwaits hlen hread huse hkind hsvc hblock
    obtain ⟨hcmd, rfl, -, -⟩ := cmd_of_running hrun
    obtain ⟨s1, hfetched, hreads⟩ := fetchedObj_done hread
    obtain ⟨d, hd⟩ := hreads.cmd_some hcmd
    obtain ⟨x, hx, hasked⟩ :=
      cmdJob_job s1 c 128 (bitsOf (ofBytes (b.take 128)) 1000 16) b (some (ofBytes (b.take 128)))
    refine ⟨_, exec_adaptRun_use hrun hwaits hlen hfetched huse hkind hsvc hblock, ⟨x, hx, hasked.kind, hasked.prog, hasked.route,
      hasked.svc.trans hsvc, hasked.count, hasked.adapt, hasked.started⟩, ?_, cmdJob_waiting _ _ _ _ hd, hreads.regs⟩
    rw [length_cmdJob, hreads.jobs]
  case start =>
    intro s job st n au j hjob hkind hstarted hadapt hheld hsaving hsaved hgood
    have hframe : j.frameOf.isSome = true := by unfold Job.frameOf; rw [hkind]; rfl
    obtain rfl := id_of_job hjob
    have hstart : (s.updJob j.id (fun k => { k with started := true, home := j.home })).job? j.id = some { j with started := true } :=
      (job_updJob s j.id (fun k => { k with started := true, home := j.home }) (fun _ h => h)).trans (by rw [hjob]; rfl)
    obtain ⟨p, hgranted⟩ := job_grantPlan_of_frame { j with started := true } rfl hstart hframe
    have hexec := exec_jobStart_frame hjob hkind hstarted hadapt hheld hsaving hsaved hgood
    rw [startJob_of_frame hkind] at hexec
    exact ⟨_, hexec, _, hgranted, rfl, rfl, rfl, rfl⟩
  case grant =>
    intro s t1 job j l hjob hstarted hplan hfirst hleft hdrawn
    have hexec := exec_jobPlanGrant_first hjob hstarted hplan hfirst
    rw [grantPlan_of_drawn hleft hdrawn, id_of_job hjob] at hexec
    have hnodes := seatNodes_nodesOnly (t1.updJob job (fun j => { j with plan := some l })) job
    obtain ⟨m, hm⟩ := hnodes.job _ (job_planned l ((job_of (drawPlan_jobs hdrawn) job).trans hjob))
    exact ⟨_, hexec, ⟨_, hm, rfl⟩, hnodes.eq⟩
  case noGrant =>
    intro s job j hjob hstarted hplan hfirst hnone
    exact ⟨_, exec_jobPlanGrant_first hjob hstarted hplan hfirst, grantPlan_of_not_drawn hnone⟩

end Sys2Proof
end

section
/-! SUPPORT. The registers of the command rings and of the streams, and the steps that open, bind and close a stream. -/

set_option Elab.async false

namespace Sys2Proof.Machine

/-! ### The registers of the host interface and of the streams -/

/-- A register of the host interface, or one of a stream in DEC. -/
def isStreamReg (a : Nat) : Prop := a / 0x100000 = 1 ∨ 0x408000 ≤ a ∧ a < 0x40A000

/-- The registers of the host interface and of the streams in DEC are the same. -/
structure SameStreamRegs (s t : State) : Prop where
  reg : ∀ a, isStreamReg a → t.reg a = s.reg a

theorem SameStreamRegs.refl (s : State) : SameStreamRegs s s := ⟨fun _ _ => rfl⟩

theorem SameStreamRegs.trans {s t u : State} (h : SameStreamRegs s t) (k : SameStreamRegs t u) : SameStreamRegs s u :=
  ⟨fun a ha => (k.reg a ha).trans (h.reg a ha)⟩

theorem SameStreamRegs.of_regs {s t : State} (h : t.regs = s.regs) : SameStreamRegs s t := ⟨fun a _ => by
  unfold State.reg
  rw [h]⟩

theorem SameStreamRegs.wr {s t : State} (h : SameStreamRegs s t) {f : RegField} (v : Nat) (hf : ¬isStreamReg f.addr) :
    SameStreamRegs s (t.wr f v) :=
  h.trans ⟨fun a ha => reg_wr_other t f v a fun e => hf (e ▸ ha)⟩

theorem SameStreamRegs.setStream {s t : State} (h : SameStreamRegs s t) (st : Nat) (x : Stream) : SameStreamRegs s (t.setStream st x) :=
  h.trans (.of_regs rfl)

theorem SameStreamRegs.foldl {α : Type} {f : State → α → State} (l : List α) (hf : ∀ s, ∀ x ∈ l, SameStreamRegs s (f s x))
    (s : State) : SameStreamRegs s (l.foldl f s) := by
  induction l generalizing s with
  | nil => exact .refl s
  | cons x l ih => exact (hf s x List.mem_cons_self).trans (ih (fun s y hy => hf s y (List.mem_cons_of_mem x hy)) _)

theorem SameStreamRegs.rd {s t : State} (h : SameStreamRegs s t) {f : RegField} (hf : isStreamReg f.addr) : t.rd f = s.rd f := by
  unfold State.rd
  rw [h.reg _ hf]

theorem isStreamReg_strmState {st : Nat} (h : st < 128) : isStreamReg (Reg.DEC_STRM_STATE st) := by
  simp only [isStreamReg, Reg.DEC_STRM_STATE]
  omega

theorem isStreamReg_strmDims {st : Nat} (h : st < 128) : isStreamReg (Reg.DEC_STRM_DIMS st) := by
  simp only [isStreamReg, Reg.DEC_STRM_DIMS]
  omega

theorem SameStreamRegs.strm {s t : State} (h : SameStreamRegs s t) {st : Nat} (hst : st < 128) : t.strm st = s.strm st :=
  h.rd (isStreamReg_strmState hst)

theorem SameStreamRegs.ackRing {s t : State} (h : SameStreamRegs s t) {c : Cmd} (hc : c.ring < 16) : t.ackRing c = s.ackRing c :=
  h.rd (by simp only [isStreamReg, Reg.HIF_CRING_CFG]; omega)

theorem slotStream_lt (w : BitVec 512) : slotStream w < 128 := bitsOf_lt _ _ _

/-! ### The registers that follow placements, bindings and batches -/

theorem enginesNote_streamRegs (s : State) : SameStreamRegs s s.enginesNote := by
  have hengine : ∀ e,
      ¬isStreamReg (Reg.DEC_RES_PIX e) ∧ ¬isStreamReg (Reg.DEC_RES_BITS e) ∧ ¬isStreamReg (Reg.DEC_STATUS e) := fun e => by
    simp only [isStreamReg, Reg.DEC_RES_PIX, Reg.DEC_RES_BITS, Reg.DEC_STATUS]
    omega
  refine SameStreamRegs.foldl _ (fun s e _ => ?_) s
  obtain ⟨hpix, hbits, hstatus⟩ := hengine e
  unfold State.engineNote
  dsimp only
  split
  · exact .wr (.wr (.wr (.wr (.refl s) _ hpix) _ hbits) _ hstatus) _ hstatus
  · exact .wr (.wr (.wr (.refl s) _ hpix) _ hbits) _ hstatus

theorem progsNote_streamRegs (s : State) : SameStreamRegs s s.progsNote := by
  refine SameStreamRegs.foldl _ (fun t p hp => .wr (.refl t) _ ?_) s
  have := List.mem_range.mp hp
  simp only [isStreamReg, Reg.GLB_PROG_STATUS]
  omega

theorem shpNote_streamRegs (s : State) (e : Nat) : SameStreamRegs s (s.shpNote e) := by
  have hshaper : ¬isStreamReg (Reg.SHP_STATUS e) := by
    simp only [isStreamReg, Reg.SHP_STATUS]
    omega
  unfold State.shpNote
  dsimp only
  split
  · exact .wr (.refl s) _ hshaper
  · split
    · exact .wr (.wr (.refl s) _ hshaper) _ hshaper
    · split <;> exact .wr (.wr (.refl s) _ hshaper) _ hshaper

theorem closeStream_streamRegs (s : State) (st : Nat) : SameStreamRegs s (s.closeStream st) := by
  have hclose : SameStreamRegs s (s.closeBatches (fun b => b.samples.any (fun x => x.rcd.stream == st)) 3) :=
    .of_regs ((State.closeBatches_keeps (L := 512) s _ 3 rfl (Keeps.refl s)).parts.same .regs rfl)
  exact hclose.trans (.foldl _ (fun t e _ => shpNote_streamRegs t e) _)

theorem unbindFlow_streamRegs (s : State) (st : Nat) : SameStreamRegs s (s.unbindFlow st) := by
  have hflow : ∀ f, ¬isStreamReg (Reg.NET_FLOW_STATUS f) := fun f => by
    simp only [isStreamReg, Reg.NET_FLOW_STATUS]
    omega
  unfold State.unbindFlow
  dsimp only
  split
  · exact ((SameStreamRegs.refl s).wr _ (hflow _)).wr _ (hflow _)
  · exact .refl s


/-! ### A command that has ended stays ended -/

/-- What keeps HIF, the journal and the command's ring keeps the end of a command. -/
theorem ends_of_same {s t : State} {c : Cmd} {code : Nat} (h : ends s c code) (hhif : t.hif = s.hif) (hjrnl : t.jrnl = s.jrnl)
    (hring : t.ackRing c = s.ackRing c) : ends t c code := by
  unfold ends waitsOn State.pring State.cmd? at h ⊢
  rw [hhif, hjrnl, hring]
  exact h

theorem cmd_of_jrnl {s t : State} (h : t.jrnl = s.jrnl) (j : Nat) : t.cmd? j = s.cmd? j := by
  unfold State.cmd?
  rw [h]

theorem stream_of_streams {s t : State} (h : t.streams = s.streams) (st : Nat) : t.stream st = s.stream st := by
  unfold State.stream
  rw [h]

theorem done_regs (s : State) (c : Cmd) (code : Nat) : (s.done c code).regs = s.regs := rfl
theorem stream_done (s : State) (c : Cmd) (code st : Nat) : (s.done c code).stream st = s.stream st := rfl

/-! ### A command of DEC that fails (R142, R150, R151) -/

theorem failDec_ends {s : State} {c d : Cmd} (st ring code d0 d1 : Nat) (h : s.cmd? c.jidx = some d) :
    ends (s.failDec c st ring code d0 d1) c code := by
  refine done_ends (d := d) code ?_
  refine (cmd_of_jrnl ?_ c.jidx).trans h
  exact (file_records _ .dec st code d0 d1).jrnl.trans (setErr_jrnl _ _ _ _ _)

theorem failDec_streams (s : State) (c : Cmd) (st ring code d0 d1 : Nat) : (s.failDec c st ring code d0 d1).streams = s.streams :=
  (State.failDec_keeps (L := 8388639) s c st ring code d0 d1 rfl (Keeps.refl s)).parts.same .streams rfl

/-- The failure is in the stream's error register (R189). -/
theorem failDec_valid (s : State) (c : Cmd) {st : Nat} (ring code d0 d1 : Nat) (hst : st < 128) :
    (s.failDec c st ring code d0 d1).rd (Reg.DEC_STRM_ERR_VALID st) = 1 := by
  refine (rd_file _ .dec st code d0 d1 (Reg.DEC_STRM_ERR_VALID st) ?_ ?_).trans
    (rd_setErr_valid s (Reg.DEC_STRM_ERR st) false (0, 0, 0) code (by decide) (by decide)) <;>
    simp only [Reg.DEC_STRM_ERR] <;> omega

theorem failDec_strm (s : State) (c : Cmd) {st : Nat} (ring code d0 d1 : Nat) (hst : st < 128) :
    (s.failDec c st ring code d0 d1).strm st = s.strm st := by
  refine (rd_file _ .dec st code d0 d1 (Reg.DEC_STRM_STATE_STATE st) ?_ ?_).trans ?_
  · simp only [Reg.DEC_STRM_STATE]; omega
  · simp only [Reg.DEC_STRM_STATE]; omega
  · unfold State.strm State.rd
    rw [reg_setErr_other _ _ _ _ _ _ (by simp only [Reg.DEC_STRM_STATE, Reg.DEC_STRM_ERR]; omega)]

/-! ### STREAM_OPEN (R142 to R146) -/

theorem ReadsOnly.reg {s t : State} (h : ReadsOnly s t) (a : Nat) : t.reg a = s.reg a := by
  unfold State.reg
  rw [h.regs]

theorem ReadsOnly.strm {s t : State} (h : ReadsOnly s t) (st : Nat) : t.strm st = s.strm st := by
  unfold State.strm State.rd
  rw [h.reg]

theorem ReadsOnly.stream {s t : State} (h : ReadsOnly s t) (st : Nat) : t.stream st = s.stream st := stream_of_streams h.streams st

theorem ReadsOnly.openStep1 {s t : State} (h : ReadsOnly s t) (k : Nat) (r : Bool) : t.openStep1 k r = s.openStep1 k r := by
  rw [h.eq]
  rfl

theorem ReadsOnly.openStep2 {s t : State} (h : ReadsOnly s t) (k st : Nat) : t.openStep2 k st = s.openStep2 k st := by
  rw [h.eq]
  rfl

theorem ReadsOnly.place {s t : State} (h : ReadsOnly s t) (k : Nat) : t.place k = s.place k := by
  have hplaced : ∀ e, t.onEngine e = s.onEngine e := fun e => by
    simp only [State.onEngine, State.homeEngine, State.strmEngine, State.rd, h.strm, h.reg, h.stream]
  have hpix : t.enginePix = s.enginePix := funext fun e => by simp only [State.enginePix, hplaced, h.stream]
  have hbits : t.engineBits = s.engineBits := funext fun e => by simp only [State.engineBits, hplaced, h.stream]
  have hup : t.engineUp = s.engineUp := funext fun e => by simp only [State.engineUp, State.engineSt, State.rd, h.reg]
  simp only [State.place, State.roomiest, hplaced, hpix, hbits, hup, h.stream]

/-- A commitment is granted when it stays within the reserve (R572). -/
theorem commit_isSome_iff (s : State) (n : Nat) : (s.commit n).isSome = true ↔ s.poolCommit 1 7 + n ≤ s.poolRes 1 7 := by
  unfold State.commit
  split
  next h => exact iff_of_true rfl h
  next h => exact iff_of_false Bool.false_ne_true h

theorem ReadsOnly.commit {s t : State} (h : ReadsOnly s t) {n : Nat} (hgranted : (s.commit n).isSome = true) :
    (t.commit n).isSome = true := by
  rw [commit_isSome_iff] at hgranted ⊢
  simp only [State.poolCommit, State.poolRes, State.rd, h.reg] at hgranted ⊢
  exact hgranted

/-- The stream's new opening, before its registers follow (R26, R122, R142, R184). -/
def State.opening (s : State) (c : Cmd) (st : Nat) (contract : BitVec 512) : State :=
  (((if c.replay then s else s.newOpening st).dropKept st).setStream st
    { nextFrame := if c.replay && kSrc contract.toNat == 1 then s.resumeSeq st else 0, isOpen := (s.stream st).isOpen
      contract := some contract, openJidx := some c.jidx, openJob := slotJob c.slot, openName := cmdName c
      committed := commitBufs contract.toNat }).restartCounters st (kSrc contract.toNat == 1)

/-- The stream is OPEN on an engine with a codec (R185). -/
def State.placed (s : State) (st e codec : Nat) : State :=
  ((s.wr (Reg.DEC_STRM_STATE_STATE st) 1).wr (Reg.DEC_STRM_STATE_ENGINE st) e).wr (Reg.DEC_STRM_STATE_CODEC st) codec

/-- A live stream takes its flow (R197). -/
def State.flowTaken (s : State) (st k : Nat) : State :=
  if kSrc k == 1 then
    ((s.wr (Reg.NET_FLOW_STATUS_BOUND (kFlow k)) 1).wr (Reg.NET_FLOW_STATUS_STREAM (kFlow k)) st).setFlow
      (kFlow k) (s.flow (kFlow k)).afresh
  else s

theorem openOn_eq (s : State) (c : Cmd) (st e : Nat) (contract : BitVec 512) :
    s.openOn c st e contract =
      (((s.opening c st contract).placed st e (kCodec contract.toNat)).flowTaken st contract.toNat).enginesNote.done c := rfl

theorem flowTaken_keeps (s : State) (st k : Nat) : Keeps 257 s (s.flowTaken st k) := by
  unfold State.flowTaken
  exact ite_both (P := Keeps 257 s)
    (State.setFlow_keeps _ _ _ rfl (State.wr_keeps _ _ _ rfl (State.wr_keeps s _ _ rfl (Keeps.refl s)))) (Keeps.refl s)

theorem flowTaken_streamRegs (s : State) (st k : Nat) : SameStreamRegs s (s.flowTaken st k) := by
  have hflow : ¬isStreamReg (Reg.NET_FLOW_STATUS (kFlow k)) := by
    simp only [isStreamReg, Reg.NET_FLOW_STATUS]
    omega
  unfold State.flowTaken
  split
  · exact .trans (.wr (.wr (.refl s) _ hflow) _ hflow) (.of_regs rfl)
  · exact .refl s

theorem cmd_opening (s : State) (c : Cmd) (st : Nat) (contract : BitVec 512) (j : Nat) :
    (s.opening c st contract).cmd? j = s.cmd? j := by
  have hnew : (if c.replay then s else s.newOpening st).cmd? j = s.cmd? j := ite_both (P := fun t : State => t.cmd? j = s.cmd? j) rfl rfl
  refine Eq.trans (cmd_of_jrnl ?_ j) hnew
  exact (State.restartCounters_keeps (L := 9044571) _ st _ rfl
    (State.setStream_keeps _ st _ rfl (State.dropKept_keeps _ st rfl (Keeps.refl _)))).parts.same .jrnl rfl

/-- The context of a stream that opens anew (R142, R158): no binding, no frame, FRAME_SEQ 0. -/
theorem stream_opening (s : State) {c : Cmd} (st : Nat) (contract : BitVec 512) (h : c.replay = false) :
    (s.opening c st contract).stream st =
      { isOpen := (s.stream st).isOpen, contract := some contract, openJidx := some c.jidx, openJob := slotJob c.slot
        openName := cmdName c, committed := commitBufs contract.toNat } := by
  unfold State.opening
  rw [stream_of_streams ((State.restartCounters_keeps (L := 8388609) _ st _ rfl (Keeps.refl _)).parts.same .streams rfl), h]
  exact State.stream_setStream _ _ _

/-- The fields of the stream's state register once it is placed (R185). -/
theorem rd_placed (s : State) (st e codec : Nat) :
    (s.placed st e codec).rd (Reg.DEC_STRM_STATE_STATE st) = 1 ∧ (s.placed st e codec).rd (Reg.DEC_STRM_STATE_ENGINE st) = e % 2 ^ 3 ∧
      (s.placed st e codec).rd (Reg.DEC_STRM_STATE_CODEC st) = codec % 2 ^ 4 := by
  unfold State.placed
  refine ⟨?_, ?_, rd_wr_same _ _ _ (show 4 + 4 ≤ 32 by decide)⟩
  · rw [rd_wr_field _ (Reg.DEC_STRM_STATE_CODEC st) (Reg.DEC_STRM_STATE_STATE st) _ rfl (show 4 + 4 ≤ 32 by decide)
        (.inl (show 0 + 3 ≤ 4 by decide)),
      rd_wr_field _ (Reg.DEC_STRM_STATE_ENGINE st) (Reg.DEC_STRM_STATE_STATE st) _ rfl (show 16 + 3 ≤ 32 by decide)
        (.inl (show 0 + 3 ≤ 16 by decide)), rd_wr_same _ _ _ (show 0 + 3 ≤ 32 by decide)]
    rfl
  · rw [rd_wr_field _ (Reg.DEC_STRM_STATE_CODEC st) (Reg.DEC_STRM_STATE_ENGINE st) _ rfl (show 4 + 4 ≤ 32 by decide)
        (.inr (show 4 + 4 ≤ 16 by decide)), rd_wr_same _ _ _ (show 16 + 3 ≤ 32 by decide)]

theorem openOn_streamRegs (s : State) (c : Cmd) (st e : Nat) (contract : BitVec 512) :
    SameStreamRegs ((s.opening c st contract).placed st e (kCodec contract.toNat)) (s.openOn c st e contract) := by
  rw [openOn_eq]
  exact ((flowTaken_streamRegs _ st _).trans (enginesNote_streamRegs _)).trans (.of_regs (done_regs _ c 0))

/-- What follows a stream's new opening leaves all but registers and the flow. -/
theorem noted_keeps (s : State) (st e codec k : Nat) : Keeps 257 s (((s.placed st e codec).flowTaken st k).enginesNote) := by
  have hplaced : Keeps 257 s (s.placed st e codec) :=
    State.wr_keeps _ _ _ rfl (State.wr_keeps _ _ _ rfl (State.wr_keeps s _ _ rfl (Keeps.refl s)))
  exact State.enginesNote_keeps _ rfl (hplaced.trans (flowTaken_keeps _ st k))

theorem stream_openOn (s : State) (c : Cmd) (st e : Nat) (contract : BitVec 512) :
    (s.openOn c st e contract).stream st = (s.opening c st contract).stream st := by
  rw [openOn_eq, stream_done, stream_of_streams ((noted_keeps _ st e _ _).parts.same .streams rfl)]

theorem openOn_ends {s : State} {c d : Cmd} (st e : Nat) (contract : BitVec 512) (h : s.cmd? c.jidx = some d) :
    ends (s.openOn c st e contract) c 0 := by
  rw [openOn_eq]
  refine done_ends (d := d) 0 ?_
  rw [cmd_of_jrnl ((noted_keeps _ st e _ _).parts.same .jrnl rfl), cmd_opening]
  exact h

theorem openStream_of_placed {s t : State} {c : Cmd} {st e : Nat} {k : BitVec 512} (h1 : s.openStep1 k.toNat c.replay = none)
    (h2 : s.openStep2 k.toNat st = true) (hrate : ¬(kSrc k.toNat = 1 ∧ kFps k.toNat = 0)) (hplace : s.place k.toNat = some e)
    (hcommit : s.commit (commitBufs k.toNat) = some t) : s.openStream c st k = t.openOn c st e k := by
  unfold State.openStream
  simp only [h1, h2, hrate, hplace, hcommit, Bool.true_eq_false, if_false]

theorem openStream_of_step1 {s : State} {c : Cmd} {st off v : Nat} {k : BitVec 512} (h1 : s.openStep1 k.toNat c.replay = some (off, v)) :
    s.openStream c st k = s.openFails c st k.toNat 0x0201 off v := by
  unfold State.openStream
  simp only [h1]

/-- STREAM_OPEN of a CLOSED stream, its contract read, behind no earlier open or close of its stream (R142). -/
theorem exec_streamOpen_closed {s s1 : State} {j : Nat} {c : Cmd} {k : BitVec 512} (hrun : s.running j 0x20 = some c)
    (hreplay : c.replay = false) (hread : s.fetchedObj c = (s1, true)) (hclosed : s.strm (slotStream c.slot) = 0)
    (hfirst : s.earlierOf c [0x20, 0x22] = false) :
    exec (.streamOpen j k) s = .next (s1.openStream c (slotStream c.slot) k) := by
  show execStreamOpen j k s = _
  unfold execStreamOpen
  simp only [hrun, hreplay, hread, hclosed, hfirst, Bool.false_eq_true, false_and, if_false, Nat.reduceEqDiff, and_self, if_true]

/-- STREAM_OPEN of a stream in lehr waits for its close (R146). -/
theorem exec_streamOpen_lehr {s s1 : State} {j : Nat} {c : Cmd} {k : BitVec 512} (hrun : s.running j 0x20 = some c)
    (hreplay : c.replay = false) (hread : s.fetchedObj c = (s1, true)) (hlehr : s.strm (slotStream c.slot) = 3) :
    exec (.streamOpen j k) s = .next ((s1.wr (Reg.DEC_STRM_STATE_STATE (slotStream c.slot)) 4).setStream (slotStream c.slot)
      { s1.stream (slotStream c.slot) with waitOpen := some (j, k) }) := by
  show execStreamOpen j k s = _
  unfold execStreamOpen
  simp only [hrun, hreplay, hread, hlehr, Bool.false_eq_true, false_and, if_false, if_true]

/-- What an open that fails leaves of the stream (R142). -/
theorem openFails_contract (s : State) (c : Cmd) (st k code d0 d1 : Nat) :
    ((s.openFails c st k code d0 d1).stream st).contract = (s.stream st).contract := by
  unfold State.openFails
  rw [stream_of_streams (failDec_streams _ _ _ _ _ _ _)]
  rw [State.stream_setStream]

/-! ### STREAM_BIND (R21, R302) -/

theorem stream_rebind (s : State) (st mark : Nat) (b : Binding) : ((s.rebind st mark b).stream st).bind = some b :=
  congrArg Stream.bind (State.stream_setStream _ _ _)

theorem exec_streamBind_use {s : State} {j : Nat} {c : Cmd} (hrun : s.running j 0x21 = some c)
    (hfirst : s.earlierOf c [0x20, 0x21, 0x22, 0x30] = false) (hopen : s.strm (slotStream c.slot) ≠ 0) (hreplay : c.replay = false)
    (huse : s.progUse c (paramProg c.slot) = .use) (hkind : s.routeKind c.slot = some true) :
    exec (.streamBind j) s = .next (s.bindStream c (slotStream c.slot)) := by
  show execStreamBind j s = _
  unfold execStreamBind
  simp only [hrun, hfirst, hopen, hreplay, huse, hkind, Bool.false_eq_true, false_and, if_false, if_true]

theorem exec_streamBind_gone {s : State} {j : Nat} {c : Cmd} (hrun : s.running j 0x21 = some c)
    (hfirst : s.earlierOf c [0x20, 0x21, 0x22, 0x30] = false) (hopen : s.strm (slotStream c.slot) ≠ 0) (hreplay : c.replay = false)
    (huse : s.progUse c (paramProg c.slot) = .gone) :
    exec (.streamBind j) s = .next (s.failGlb c 0x050A (paramProg c.slot) 0x21) := by
  show execStreamBind j s = _
  unfold execStreamBind
  simp only [hrun, hfirst, hopen, hreplay, huse, Bool.false_eq_true, false_and, if_false]

theorem exec_streamBind_closed {s : State} {j : Nat} {c : Cmd} (hrun : s.running j 0x21 = some c)
    (hfirst : s.earlierOf c [0x20, 0x21, 0x22, 0x30] = false) (hclosed : s.strm (slotStream c.slot) = 0) :
    exec (.streamBind j) s = .next (s.failDec c (slotStream c.slot) (s.stream (slotStream c.slot)).failRing
      (s.stream (slotStream c.slot)).failCode (s.stream (slotStream c.slot)).failD0 (s.stream (slotStream c.slot)).failD1) := by
  show execStreamBind j s = _
  unfold execStreamBind
  simp only [hrun, hfirst, hclosed, Bool.false_eq_true, if_false, if_true]

/-- The binding that a STREAM_BIND asks for. -/
def askedBinding (c : Cmd) : Binding := { prog := paramProg c.slot, route := paramRoute c.slot, svc := paramSvc c.slot }

/-- The binding takes effect, from the first frame on that it covers (R21). -/
def State.bound (s : State) (c : Cmd) (st : Nat) : State :=
  match (s.stream st).bind with
  | some _ => s.rebind st c.mark (askedBinding c)
  | none =>
    let t := s.setStream st { s.stream st with bind := some (askedBinding c) }
    if c.replay && s.isLive st then t.gapBefore st (paramProg c.slot) (paramRoute c.slot) (s.stream st).nextFrame else t

/-- A binding that SGS admits becomes the stream's, and its command ends (R21, R302, R488). -/
theorem bindStream_admitted {s s1 : State} {c : Cmd} {st : Nat}
    (hadmitted : s.sgsBind st (paramProg c.slot) (paramRoute c.slot) (paramSvc c.slot) = (s1, none)) :
    s.bindStream c st = (s1.bound c st).progsNote.done c := by
  unfold State.bindStream
  dsimp only
  rw [hadmitted]
  rfl

theorem bound_jrnl (s : State) (c : Cmd) (st : Nat) : (s.bound c st).jrnl = s.jrnl := by
  unfold State.bound
  split
  · rfl
  · exact ite_both (P := fun t : State => t.jrnl = s.jrnl)
      ((State.gapBefore_keeps (L := 66) _ st _ _ _ rfl (State.setStream_keeps s st _ rfl (Keeps.refl s))).parts.same .jrnl rfl) rfl

theorem bind_bound (s : State) (c : Cmd) (st : Nat) : ((s.bound c st).stream st).bind = some (askedBinding c) := by
  unfold State.bound
  split
  · exact stream_rebind s st _ _
  · have hset : ((s.setStream st { s.stream st with bind := some (askedBinding c) }).stream st).bind = some (askedBinding c) := by
      rw [State.stream_setStream]
    refine ite_both (P := fun t : State => (t.stream st).bind = some (askedBinding c)) ?_ hset
    rw [stream_of_streams ((State.gapBefore_keeps (L := 2) _ st _ _ _ rfl (Keeps.refl _)).parts.same .streams rfl)]
    exact hset

theorem progsNote_done_ends {t : State} {c d : Cmd} (h : t.cmd? c.jidx = some d) : ends (t.progsNote.done c) c 0 :=
  done_ends (d := d) 0 ((cmd_of_jrnl ((State.progsNote_keeps (L := 1) t rfl (Keeps.refl t)).parts.same .jrnl rfl) _).trans h)

theorem stream_progsNote_done (t : State) (c : Cmd) (st : Nat) : (t.progsNote.done c).stream st = t.stream st := by
  rw [stream_done, stream_of_streams ((State.progsNote_keeps (L := 1) t rfl (Keeps.refl t)).parts.same .streams rfl)]

/-! ### STREAM_CLOSE and the end of its drain (R145) -/

/-- The stream is in lehr for a close (R145). -/
def State.intoLehr (s : State) (st j : Nat) : State :=
  (s.setStream st { s.stream st with closing := some j, prior := 3 }).wr (Reg.DEC_STRM_STATE_STATE st) 3

theorem exec_streamClose_open {s : State} {j : Nat} {c : Cmd} (hrun : s.running j 0x22 = some c) (hwaits : c.waiting = false)
    (hfirst : s.earlierOf c [0x20, 0x21, 0x22, 0x30] = false) (hopen : s.strm (slotStream c.slot) = 1) :
    exec (.streamClose j) s = .next (((s.intoLehr (slotStream c.slot) j).closeStream (slotStream c.slot)).updCmd j
      (fun d => { d with waiting := true, opened := (s.stream (slotStream c.slot)).openJidx })) := by
  show execStreamClose j s = _
  unfold execStreamClose
  rw [hrun]
  dsimp only
  rw [if_neg (by simp [hwaits, hfirst]), if_neg (by simp [hopen]), if_neg (by simp [hopen])]
  rfl

theorem strm_intoLehr (s : State) (st j : Nat) : (s.intoLehr st j).strm st = 3 := rd_wr_same _ _ _ (show 0 + 3 ≤ 32 by decide)

theorem closing_intoLehr (s : State) (st j : Nat) : ((s.intoLehr st j).stream st).closing = some j :=
  congrArg Stream.closing (State.stream_setStream s st _)

/-- While the batches of a stream close, it keeps its state and context, and commands stay (R257). -/
theorem closeStream_keeps_stream (s : State) {st : Nat} (hst : st < 128) :
    (s.closeStream st).strm st = s.strm st ∧ (s.closeStream st).stream st = s.stream st ∧ (s.closeStream st).jrnl = s.jrnl := by
  have hkeeps := State.closeStream_keeps (L := 513) s st rfl (Keeps.refl s)
  exact ⟨(closeStream_streamRegs s st).strm hst, stream_of_streams (hkeeps.parts.same .streams rfl) st, hkeeps.parts.same .jrnl rfl⟩

theorem strm_updCmd (s : State) (j : Nat) (f : Cmd → Cmd) (st : Nat) : (s.updCmd j f).strm st = s.strm st := rfl
theorem stream_updCmd (s : State) (j : Nat) (f : Cmd → Cmd) (st : Nat) : (s.updCmd j f).stream st = s.stream st := rfl

/-- The command of a JOURNAL_INDEX carries it. -/
theorem jidx_of_cmd {s : State} {j : Nat} {c : Cmd} (h : s.cmd? j = some c) : c.jidx = j := by
  simpa using List.find?_some h

/-- The stream has left every block, and the DONE of its close waits (R145). -/
def State.closeDone (s : State) (st : Nat) (c : Cmd) : State :=
  ((match (s.stream st).ckpt with
    | some { buf := some b, .. } => (((s.freeRefs st).dropKept st).sgsRelease st).free1 6 b
    | _ => ((s.freeRefs st).dropKept st).sgsRelease st).closeStats st).done c

/-- The registers and the context of a stream whose close has ended (R145, R185). -/
def State.leftBehind (s : State) (st : Nat) (isOpen : Bool) : State :=
  (((((s.unbindFlow st).setStream st { isOpen := isOpen }).progsNote).wr (Reg.DEC_STRM_STATE_STATE st) 0).setReg
    (Reg.DEC_STRM_DIMS st) 0).enginesNote

theorem closeEnds_eq (s : State) (st : Nat) (c : Cmd) : s.closeEnds st c = (s.closeDone st c).leftBehind st (s.stream st).isOpen := rfl

theorem closeDone_ends {s : State} {c d : Cmd} (st : Nat) (h : s.cmd? c.jidx = some d) : ends (s.closeDone st c) c 0 := by
  have hleft : Keeps 9045595 s (((s.freeRefs st).dropKept st).sgsRelease st) :=
    State.sgsRelease_keeps _ st rfl (State.dropKept_keeps _ st rfl (State.freeRefs_keeps s st rfl (Keeps.refl s)))
  have hckpt : Keeps 9045595 s (match (s.stream st).ckpt with
      | some { buf := some b, .. } => (((s.freeRefs st).dropKept st).sgsRelease st).free1 6 b
      | _ => ((s.freeRefs st).dropKept st).sgsRelease st) := by
    split
    · exact State.free1_keeps _ 6 _ rfl hleft
    · exact hleft
  refine done_ends (d := d) 0 ((cmd_of_jrnl ?_ c.jidx).trans h)
  exact (State.closeStats_keeps _ st rfl hckpt).parts.same .jrnl rfl

theorem leftBehind_keeps (s : State) (st : Nat) (isOpen : Bool) : Keeps 65 s (s.leftBehind st isOpen) :=
  State.enginesNote_keeps _ rfl (State.setReg_keeps _ _ _ rfl (State.wr_keeps _ _ _ rfl (State.progsNote_keeps _ rfl
    (State.setStream_keeps _ st _ rfl (State.unbindFlow_keeps s st rfl (Keeps.refl s))))))

theorem stream_leftBehind (s : State) (st : Nat) (isOpen : Bool) : (s.leftBehind st isOpen).stream st = { isOpen := isOpen } := by
  have hnoted : Keeps 1 ((s.unbindFlow st).setStream st { isOpen := isOpen }) (s.leftBehind st isOpen) :=
    State.enginesNote_keeps _ rfl (State.setReg_keeps _ _ _ rfl (State.wr_keeps _ _ _ rfl (State.progsNote_keeps _ rfl (Keeps.refl _))))
  rw [stream_of_streams (hnoted.parts.same .streams rfl), State.stream_setStream]

theorem strm_leftBehind (s : State) {st : Nat} (isOpen : Bool) (hst : st < 128) : (s.leftBehind st isOpen).strm st = 0 := by
  unfold State.leftBehind
  rw [(enginesNote_streamRegs _).strm hst]
  unfold State.strm
  rw [rd_setReg_other _ _ _ _ (by simp only [Reg.DEC_STRM_STATE, Reg.DEC_STRM_DIMS]; omega), rd_wr_same _ _ _ (show 0 + 3 ≤ 32 by decide)]
  rfl

theorem dims_leftBehind (s : State) {st : Nat} (isOpen : Bool) (hst : st < 128) :
    (s.leftBehind st isOpen).reg (Reg.DEC_STRM_DIMS st) = 0 := by
  unfold State.leftBehind
  rw [(enginesNote_streamRegs _).reg _ (isStreamReg_strmDims hst), reg_setReg_same]

theorem ackRing_leftBehind (s : State) (st : Nat) (isOpen : Bool) {c : Cmd} (hc : c.ring < 16) :
    (s.leftBehind st isOpen).ackRing c = s.ackRing c := by
  have hnoted : SameStreamRegs s ((s.unbindFlow st).setStream st { isOpen := isOpen }).progsNote :=
    ((unbindFlow_streamRegs s st).setStream st _).trans (progsNote_streamRegs _)
  unfold State.leftBehind
  rw [(enginesNote_streamRegs _).ackRing hc, ← hnoted.ackRing hc]
  unfold State.ackRing
  rw [rd_setReg_other _ _ _ _ (by simp only [Reg.HIF_CRING_CFG, Reg.DEC_STRM_DIMS]; omega),
    rd_wr_reg _ _ _ _ (by simp only [Reg.HIF_CRING_CFG, Reg.DEC_STRM_STATE]; omega)]

theorem exec_streamCloseDrainEnd {s : State} {st : Nat} {c : Cmd} (hclosing : (s.stream st).closing.bind s.cmd? = some c)
    (hdrained : s.streamDrained st = true) (hopen : (s.stream st).waitOpen = none) :
    exec (.streamCloseDrainEnd st) s = .next (s.closeEnds st c) := by
  show execStreamCloseDrainEnd st s = _
  unfold execStreamCloseDrainEnd
  simp only [hclosing, hdrained, hopen, if_true]

/-! ### Access units (R26, R147, R155) -/

/-- AU_SUBMIT in its turn, not replayed (R70, R147): what decides its outcome. -/
structure SubmitsNow (s : State) (j : Nat) (c : Cmd) : Prop where
  run : s.running j 0x30 = some c
  waits : c.waiting = false
  first : s.earlierOf c [0x20, 0x21, 0x30] = false
  replay : c.replay = false

theorem exec_auSubmit_halted {s : State} {j : Nat} {c : Cmd} (h : SubmitsNow s j c)
    (hhalt : (s.stream (slotStream c.slot)).haltCode ≠ 0) :
    exec (.auSubmit j) s = .next (s.failDec c (slotStream c.slot) (s.errPring (slotStream c.slot)) 0x0209 (slotStream c.slot)
      (s.stream (slotStream c.slot)).haltCode) := by
  obtain ⟨hrun, hwaits, hfirst, hreplay⟩ := h
  show execAuSubmit j s = _
  unfold execAuSubmit
  simp only [hrun, hwaits, hfirst, hreplay, hhalt, Bool.false_eq_true, or_self, false_and, ne_eq, not_false_eq_true, if_false, if_true]

theorem exec_auSubmit_closed {s : State} {j : Nat} {c : Cmd} (h : SubmitsNow s j c) (hrunning : (s.stream (slotStream c.slot)).haltCode = 0)
    (hclosed : s.strm (slotStream c.slot) = 0) :
    exec (.auSubmit j) s = .next (s.failDec c (slotStream c.slot) (s.stream (slotStream c.slot)).failRing
      (s.stream (slotStream c.slot)).failCode (s.stream (slotStream c.slot)).failD0 (s.stream (slotStream c.slot)).failD1) := by
  obtain ⟨hrun, hwaits, hfirst, hreplay⟩ := h
  show execAuSubmit j s = _
  unfold execAuSubmit
  simp only [hrun, hwaits, hfirst, hreplay, hrunning, hclosed, Bool.false_eq_true, or_self, false_and, ne_eq, not_true_eq_false, if_false,
    if_true]

/-- The frame of an access unit, before it takes its FRAME_SEQ (R26, R147). -/
def submittedFrame (j : Nat) (c : Cmd) (b : Binding) : Frame :=
  { seq := 0, au := some j
    ct := if slotHostTs c.slot = 1 then { sec := slotCtSec c.slot, ns := slotCtNs c.slot } else c.ct
    mono := c.mono, pts := slotPts c.slot, flags := slotHostTs c.slot * 2 ^ 8, bytes := slotLength c.slot
    discont := slotDiscont c.slot == 1, eos := slotEos c.slot == 1, bind := b }

theorem exec_auSubmit_bound {s : State} {j : Nat} {c : Cmd} {b : Binding} (h : SubmitsNow s j c)
    (hrunning : (s.stream (slotStream c.slot)).haltCode = 0) (hopen : s.strm (slotStream c.slot) = 1)
    (hlate : s.lateCheck c (slotStream c.slot) = none) (hbound : (s.stream (slotStream c.slot)).bind = some b) :
    exec (.auSubmit j) s = .next (((s.takeFrame (slotStream c.slot) (submittedFrame j c b) c.fseq (slotJob c.slot) (cmdName c)).updCmd j
      (fun c => { c with waiting := true })).startRead c (slotAddr c.slot) (slotLength c.slot) (relaxable 0x30 true)) := by
  obtain ⟨hrun, hwaits, hfirst, hreplay⟩ := h
  show execAuSubmit j s = _
  unfold execAuSubmit
  simp only [hrun, hwaits, hfirst, hreplay, hrunning, hopen, hlate, hbound, Bool.false_eq_true, or_self, false_and, ne_eq,
    not_true_eq_false, Nat.reduceEqDiff, if_false]
  rfl

theorem stream_addJob (s : State) (j : Job) (st : Nat) : (s.addJob j).stream st = s.stream st := rfl
theorem stream_noteFseq (s : State) (j st seq n : Nat) : (s.noteFseq j st seq).stream n = s.stream n := rfl

/-- A frame that takes the next FRAME_SEQ of its stream joins the stream's frames (R26). -/
theorem stream_takeFrame (s : State) (st : Nat) (f : Frame) (job : Nat) (name : Nat × Nat × Nat) :
    (s.takeFrame st f none job name).stream st =
      { s.stream st with
        nextFrame := ((s.stream st).nextFrame + 1) % 2 ^ 32
        frames := (s.stream st).frames ++ [{ f with seq := (s.stream st).nextFrame }] } := by
  unfold State.takeFrame
  dsimp only
  rw [stream_addJob]
  split
  · rw [stream_noteFseq, State.stream_setStream]
    rfl
  · rw [State.stream_setStream]
    rfl

/-- The frame's job follows the jobs there are (R26, R278). -/
theorem jobs_takeFrame (s : State) (st : Nat) (f : Frame) (job : Nat) (name : Nat × Nat × Nat) :
    ∃ x, (s.takeFrame st f none job name).jobs = s.jobs ++ [x] ∧ x.kind = .frame st (s.stream st).nextFrame f.au := by
  unfold State.takeFrame
  dsimp only
  split
  · exact ⟨_, rfl, rfl⟩
  · exact ⟨_, rfl, rfl⟩

/-- A frame whose access unit lies in buffers (R155). -/
def Frame.fetchedIn (f : Frame) (bufs : Nat × List Nat) : Frame := { f with ready := true, bufs := some bufs }

theorem exec_auFetchDone_drawn {s s1 : State} {st seq : Nat} {f : Frame} {x : Job} {l : List Nat}
    (hframe : (s.stream st).frames.find? (fun f => f.seq == seq) = some f) (hjob : s.frameJob? st seq = some x) (hau : f.au.isSome = true)
    (hready : f.ready = false) (hread : (s.auFetched f).2 = true)
    (hdrawn : (s.auFetched f).1.draw 4 (poolFit f.bytes).1 (poolFit f.bytes).2 f.bind.svc x.ticket false = (s1, some l)) :
    exec (.auFetchDone st seq) s = .next (s1.setStream st { s1.stream st with
      frames := updFirst (fun f => f.seq == seq) (fun g => g.fetchedIn ((poolFit f.bytes).1, l)) (s1.stream st).frames }) := by
  show execAuFetchDone st seq s = _
  unfold execAuFetchDone
  rw [hframe, hjob]
  dsimp only
  rw [if_pos ⟨hau, hready⟩]
  generalize s.auFetched f = r at hread hdrawn
  obtain ⟨s0, isRead⟩ := r
  subst hread
  dsimp only at hdrawn ⊢
  rw [hdrawn]
  rfl

/-- The read of an access unit and the draw of its buffers leave streams and jobs. -/
theorem auFetched_draw_keeps (s : State) (f : Frame) (o c n svc ticket : Nat) (fails : Bool) :
    Keeps 42598431 s ((s.auFetched f).1.draw o c n svc ticket fails).1 :=
  State.draw_keeps _ o c n svc ticket fails rfl (State.auFetched_keeps s f rfl (Keeps.refl s))

end Sys2Proof.Machine
end

section
/-! SUPPORT. The claim on the commands of a stream. -/

set_option Elab.async false

namespace Sys2Proof

open Machine

/-- Settles O20: each command takes one branch, and what follows it leaves the stream's registers, context and the command's end. -/
theorem streamsOpenBindCloseAndTakeAccessUnits : Obligations.StreamsOpenBindCloseAndTakeAccessUnits := by
  unfold Obligations.StreamsOpenBindCloseAndTakeAccessUnits
  refine ⟨?openOk, ?openRefused, ?openLehr, ?bindOk, ?bindGone, ?bindClosed, ?close, ?drainEnd, ?submit, ?submitHalted, ?submitClosed,
    ?fetchDone⟩
  case openOk =>
    intro s j e st c k hrun hst hreplay hread hclosed hfirst h1 h2 hrate hplace he hcommit
    subst hst
    obtain ⟨hcmd, rfl, -, -⟩ := cmd_of_running hrun
    obtain ⟨s1, hfetched, hreads⟩ := fetchedObj_done hread
    obtain ⟨d, hd⟩ := hreads.cmd_some hcmd
    obtain ⟨s2, hs2⟩ := Option.isSome_iff_exists.mp (hreads.commit hcommit)
    have hjrnl : s2.jrnl = s1.jrnl := (State.commit_keeps (L := 1) s1 _ rfl (Keeps.refl s1) s2 hs2).parts.same .jrnl rfl
    have hexec := exec_streamOpen_closed (k := k) hrun hreplay hfetched hclosed hfirst
    rw [openStream_of_placed (by rw [hreads.openStep1, hreplay]; exact h1) (by rw [hreads.openStep2]; exact h2) hrate
      (by rw [hreads.place]; exact hplace) hs2] at hexec
    have hstate := isStreamReg_strmState (slotStream_lt c.slot)
    have hregs := openOn_streamRegs s2 c (slotStream c.slot) e k
    obtain ⟨hopen, hengine, hcodec⟩ := rd_placed (s2.opening c (slotStream c.slot) k) (slotStream c.slot) e (kCodec k.toNat)
    have hstream := (stream_openOn s2 c (slotStream c.slot) e k).trans (stream_opening s2 (slotStream c.slot) k hreplay)
    refine ⟨_, hexec, (hregs.rd hstate).trans hopen, ?_, (hregs.rd hstate).trans hcodec, ?_, ?_, ?_, ?_,
      openOn_ends _ _ _ ((cmd_of_jrnl hjrnl _).trans hd)⟩
    · exact ((hregs.rd hstate).trans hengine).trans (Nat.mod_eq_of_lt he)
    all_goals rw [hstream]
  case openRefused =>
    intro s j st off v c k hrun hst hreplay hread hclosed hfirst h1
    subst hst
    obtain ⟨hcmd, rfl, -, -⟩ := cmd_of_running hrun
    obtain ⟨s1, hfetched, hreads⟩ := fetchedObj_done hread
    obtain ⟨d, hd⟩ := hreads.cmd_some hcmd
    have hexec := exec_streamOpen_closed (k := k) hrun hreplay hfetched hclosed hfirst
    rw [openStream_of_step1 (by rw [hreads.openStep1, hreplay]; exact h1)] at hexec
    refine ⟨_, hexec, ?_, ?_, ?_, ?_⟩
    · exact (failDec_strm _ c _ _ _ _ (slotStream_lt c.slot)).trans ((hreads.strm _).trans hclosed)
    · rw [openFails_contract, hreads.stream]
    · exact failDec_valid _ c _ _ _ _ (slotStream_lt c.slot)
    · exact failDec_ends _ _ _ _ _ hd
  case openLehr =>
    intro s j st c k hrun hst hreplay hread hlehr
    subst hst
    obtain ⟨s1, hfetched, hreads⟩ := fetchedObj_done hread
    refine ⟨_, exec_streamOpen_lehr hrun hreplay hfetched hlehr, ?_, ?_, ?_, fun a ha => ?_⟩
    · exact rd_wr_same _ _ _ (show 0 + 3 ≤ 32 by decide)
    · rw [State.stream_setStream]
    · rw [hreads.eq]
      rfl
    · exact (reg_wr_other _ _ _ _ (List.ne_of_not_mem_cons ha)).trans (hreads.reg a)
  case bindOk =>
    intro s s1 j st c hrun hst hfirst hopen hreplay huse hkind hadmitted
    subst hst
    obtain ⟨hcmd, rfl, -, -⟩ := cmd_of_running hrun
    have hexec := exec_streamBind_use hrun hfirst hopen hreplay huse hkind
    rw [bindStream_admitted hadmitted] at hexec
    have hkeeps := State.sgsBind_keeps (L := 9045083) s (slotStream c.slot) (paramProg c.slot) (paramRoute c.slot) (paramSvc c.slot) rfl
      (Keeps.refl s)
    rw [hadmitted] at hkeeps
    refine ⟨_, hexec, progsNote_done_ends (d := c) ?_, ?_⟩
    · rw [cmd_of_jrnl (bound_jrnl s1 c _), cmd_of_jrnl (hkeeps.parts.same .jrnl rfl)]
      exact hcmd
    · rw [stream_progsNote_done]
      exact bind_bound s1 c _
  case bindGone =>
    intro s j c hrun hfirst hopen hreplay huse
    obtain ⟨hcmd, rfl, -, -⟩ := cmd_of_running hrun
    exact ⟨_, exec_streamBind_gone hrun hfirst hopen hreplay huse, failGlb_ends _ _ _ hcmd, failGlb_waits _ _ _ _ _,
      failGlb_streams _ _ _ _ _⟩
  case bindClosed =>
    intro s j c hrun hfirst hclosed
    obtain ⟨hcmd, rfl, -, -⟩ := cmd_of_running hrun
    exact ⟨_, exec_streamBind_closed hrun hfirst hclosed, failDec_ends _ _ _ _ _ hcmd, failDec_streams _ _ _ _ _ _ _⟩
  case close =>
    intro s j st c hrun hst hwaits hfirst hopen
    subst hst
    obtain ⟨hcmd, rfl, hended, -⟩ := cmd_of_running hrun
    obtain ⟨hstrm, hstream, hjrnl⟩ := closeStream_keeps_stream (s.intoLehr (slotStream c.slot) c.jidx) (slotStream_lt c.slot)
    refine ⟨_, exec_streamClose_open hrun hwaits hfirst hopen, ?_, ?_,
      { c with waiting := true, opened := (s.stream (slotStream c.slot)).openJidx }, ?_, rfl, hended⟩
    · rw [strm_updCmd, hstrm, strm_intoLehr]
    · rw [stream_updCmd, hstream, closing_intoLehr]
    · refine (cmd_updCmd _ _ (fun d => { d with waiting := true, opened := (s.stream (slotStream c.slot)).openJidx })
        (fun _ h => h)).trans ?_
      rw [cmd_of_jrnl hjrnl]
      exact congrArg (Option.map _) hcmd
  case drainEnd =>
    intro s st c hst hring hclosing hdrained hopen
    obtain ⟨j, -, hcmd⟩ := Option.bind_eq_some_iff.mp hclosing
    obtain rfl := jidx_of_cmd hcmd
    have hexec := exec_streamCloseDrainEnd hclosing hdrained hopen
    rw [closeEnds_eq] at hexec
    have hkeeps := leftBehind_keeps (s.closeDone st c) st (s.stream st).isOpen
    refine ⟨_, hexec, strm_leftBehind _ _ hst, ?_, ?_, dims_leftBehind _ _ hst, ends_of_same (closeDone_ends st hcmd)
      (hkeeps.parts.same .hif rfl) (hkeeps.parts.same .jrnl rfl) (ackRing_leftBehind _ _ _ hring)⟩
    all_goals rw [stream_leftBehind]
  case submit =>
    intro s j st c b hrun hst hwaits hfirst hreplay hfseq hrunning hopen hlate hbound
    subst hst
    have hexec := exec_auSubmit_bound ⟨hrun, hwaits, hfirst, hreplay⟩ hrunning hopen hlate hbound
    rw [hfseq] at hexec
    have hreads := startRead_reads ((s.takeFrame (slotStream c.slot) (submittedFrame j c b) none (slotJob c.slot) (cmdName c)).updCmd j
      (fun c => { c with waiting := true })) c (slotAddr c.slot) (slotLength c.slot) (relaxable 0x30 true)
    have hstream := (hreads.stream (slotStream c.slot)).trans
      (stream_takeFrame s (slotStream c.slot) (submittedFrame j c b) (slotJob c.slot) (cmdName c))
    obtain ⟨x, hjobs, hkind⟩ := jobs_takeFrame s (slotStream c.slot) (submittedFrame j c b) (slotJob c.slot) (cmdName c)
    have hregs := State.takeFrame_keeps (L := 24644) s (slotStream c.slot) (submittedFrame j c b) none (slotJob c.slot) (cmdName c) rfl
      (Keeps.refl s)
    refine ⟨_, hexec, ?_,
      ⟨{ submittedFrame j c b with seq := (s.stream (slotStream c.slot)).nextFrame }, ?_, rfl, rfl, rfl, rfl, rfl⟩,
      ⟨x, hreads.jobs.trans hjobs, hkind⟩, hreads.regs.trans (hregs.parts.same .regs rfl)⟩
    all_goals rw [hstream]
  case submitHalted =>
    intro s j c hrun hwaits hfirst hreplay hhalt
    obtain ⟨hcmd, rfl, -, -⟩ := cmd_of_running hrun
    exact ⟨_, exec_auSubmit_halted ⟨hrun, hwaits, hfirst, hreplay⟩ hhalt, failDec_ends _ _ _ _ _ hcmd,
      failDec_streams _ _ _ _ _ _ _⟩
  case submitClosed =>
    intro s j c hrun hwaits hfirst hreplay hrunning hclosed
    obtain ⟨hcmd, rfl, -, -⟩ := cmd_of_running hrun
    exact ⟨_, exec_auSubmit_closed ⟨hrun, hwaits, hfirst, hreplay⟩ hrunning hclosed, failDec_ends _ _ _ _ _ hcmd,
      failDec_streams _ _ _ _ _ _ _⟩
  case fetchDone =>
    intro s s1 st seq f x l hframe hjob hau hready hread hdrawn
    have hkeeps := auFetched_draw_keeps s f 4 (poolFit f.bytes).1 (poolFit f.bytes).2 f.bind.svc x.ticket false
    rw [hdrawn] at hkeeps
    refine ⟨_, exec_auFetchDone_drawn hframe hjob hau hready hread hdrawn,
      f.fetchedIn ((poolFit f.bytes).1, l), ?_, rfl, rfl, hkeeps.parts.same .jobs rfl⟩
    rw [State.stream_setStream]
    dsimp only
    rw [find_updFirst (fun f : Frame => f.seq == seq) (fun g : Frame => g.fetchedIn ((poolFit f.bytes).1, l)) (fun _ h => h),
      stream_of_streams (hkeeps.parts.same .streams rfl), hframe]
    rfl

end Sys2Proof
end

section
/-! SUPPORT. Reads of BAR0: what a read latches, and what a latch leaves alone. -/

set_option Elab.async false

namespace Sys2Proof.Machine

/-! ### Latches (R62) -/

/-- From `s` to `t` only the latched values may differ. -/
structure LatchOnly (s t : State) : Prop where
  eq : t = { s with hif := { s.hif with hiLatch := t.hif.hiLatch } }

theorem LatchOnly.refl (s : State) : LatchOnly s s := ⟨rfl⟩

theorem LatchOnly.trans {s t u : State} (h : LatchOnly s t) (k : LatchOnly t u) : LatchOnly s u := by
  have hu := k.eq
  rw [h.eq] at hu
  exact ⟨hu⟩

theorem latch_only (s : State) (a : Nat) : LatchOnly s (s.latch a) := ⟨rfl⟩

theorem latches_only (l : List Nat) (s : State) : LatchOnly s (l.foldl State.latch s) := by
  induction l generalizing s with
  | nil => exact .refl s
  | cons a l ih => exact (latch_only s a).trans (ih _)

/-- What a register presently holds does not depend on what is latched. -/
theorem LatchOnly.view {s t : State} (h : LatchOnly s t) (a : Nat) : t.view a = s.view a := by
  rw [h.eq]
  rfl

theorem LatchOnly.served {s t : State} (h : LatchOnly s t) (a : Nat) : t.served a = s.served a := by
  rw [h.eq]
  rfl

theorem latched_latch (s : State) (a b : Nat) : (s.latch a).latched b = if b = a then some (s.view a) else s.latched b :=
  tget_tset (fun _ => none) s.hif.hiLatch a b (some (s.view a))

/-- After a list of latches each register of the list holds its present value, and every other latch is as before. -/
theorem latched_latches (l : List Nat) (s : State) (b : Nat) :
    (l.foldl State.latch s).latched b = if b ∈ l then some (s.view b) else s.latched b := by
  induction l generalizing s with
  | nil => simp
  | cons a l ih =>
    rw [List.foldl_cons, ih, (latch_only s a).view, latched_latch]
    by_cases hl : b ∈ l
    · simp [hl]
    · by_cases ha : b = a
      · subst ha; simp
      · simp [hl, ha]

/-- A latch of other registers does not change what a register reads. -/
theorem read_latches {l : List Nat} {a : Nat} (h : a ∉ l) (s : State) : (l.foldl State.latch s).read a = s.read a := by
  have honly := latches_only l s
  unfold State.read
  rw [honly.served, honly.view, latched_latches, if_neg h]

/-! ### Reads (R59, R62, R218, R234) -/

/-- A served read latches its partners and answers the register. -/
theorem busRead_of_reaches {s : State} {a : Nat} (h : reaches s a) (hself : a ∉ latchesOf a) :
    s.busRead a = ((latchesOf a).foldl State.latch s).post (.readData a (s.read a)) := by
  have ⟨_, _, hserved⟩ := h
  unfold State.busRead
  rw [barRefused_of_reaches h, hserved, touch_of_reaches h]
  simp only [Bool.false_eq_true, if_false, Bool.true_eq_false, read_latches hself]

/-- The state after a served read that latches the registers of a list. -/
structure ReadLatching (l : List Nat) (a : Nat) (s t : State) : Prop where
  latched : ∀ b, b ∈ l → t.latched b = some (s.view b)
  other : ∀ b, b ∉ l → t.latched b = s.latched b
  out : t.out = s.out ++ [Out.readData a (s.read a)]
  eq : t = { s with hif := { s.hif with hiLatch := t.hif.hiLatch }, out := t.out }

theorem busRead_latching {s : State} {a : Nat} (h : reaches s a) (hself : a ∉ latchesOf a) :
    ReadLatching (latchesOf a) a s (s.busRead a) := by
  have honly := latches_only (latchesOf a) s
  have hlatched : ∀ b, (s.busRead a).latched b = if b ∈ latchesOf a then some (s.view b) else s.latched b := fun b => by
    rw [busRead_of_reaches h hself]
    exact latched_latches _ s b
  refine ⟨fun b hb => by rw [hlatched, if_pos hb], fun b hb => by rw [hlatched, if_neg hb], ?_, ?_⟩
  · rw [busRead_of_reaches h hself]
    show ((latchesOf a).foldl State.latch s).out ++ _ = _
    rw [honly.eq]
  · rw [busRead_of_reaches h hself]
    unfold State.post
    rw [honly.eq]

theorem exec_loRegisterRead {a : Nat} (ha : a < 2 ^ 26) (s : State) : exec (.loRegisterRead a) s = .next (s.busRead a) := by
  have hcfg : isCfg a = false := decide_eq_false (by unfold cfgBase; omega)
  show execLoRegisterRead a s = _
  unfold execLoRegisterRead
  rw [hcfg]
  rfl

/-- A read of configuration space answers its dword (log entry 10). -/
theorem exec_loRegisterRead_cfg (s : State) (off : Nat) :
    exec (.loRegisterRead (cfgBase + off)) s = .next (s.post (.readData (cfgBase + off) (s.cfgView off))) := by
  have hcfg : isCfg (cfgBase + off) = true := decide_eq_true (Nat.le_add_right _ _)
  show execLoRegisterRead _ s = _
  unfold execLoRegisterRead
  rw [hcfg, if_pos rfl, Nat.add_sub_cancel_left]

/-! ### Which registers a read latches -/

/-- The partner of a _LO register is the next word. -/
theorem eq_of_hiOf {a h : Nat} (hh : hiOf a = some h) : h = a + 4 := by
  unfold hiOf at hh
  simp only [Option.ite_none_right_eq_some, Option.some.injEq] at hh
  exact hh.2.symm

/-- A _LO register of the table latches its partner alone: neither the clock nor an input's time stamp is among them. -/
theorem latchesOf_of_hiOf {a h : Nat} (hh : hiOf a = some h) : latchesOf a = [h] := by
  have hclk : a ≠ Reg.TIME_CLK_SEC_LO := fun e => by
    have hnone : hiOf Reg.TIME_CLK_SEC_LO = none := by decide +kernel
    rw [e, hnone] at hh
    cases hh
  have htpi : elemAt (Reg.TIME_TPI_SEC_LO 0) 2 0x20 a = none := by
    unfold elemAt
    refine if_neg fun ⟨hle, hmod, hlt⟩ => ?_
    have hcases : a = Reg.TIME_TPI_SEC_LO 0 ∨ a = Reg.TIME_TPI_SEC_LO 1 := by
      simp only [Reg.TIME_TPI_SEC_LO] at hle hmod hlt ⊢
      omega
    have hnone : hiOf (Reg.TIME_TPI_SEC_LO 0) = none ∧ hiOf (Reg.TIME_TPI_SEC_LO 1) = none := by decide +kernel
    rcases hcases with e | e
    · rw [e, hnone.1] at hh; cases hh
    · rw [e, hnone.2] at hh; cases hh
  unfold latchesOf
  rw [if_neg hclk, htpi, hh]
  rfl

theorem latchesOf_clock : latchesOf Reg.TIME_CLK_SEC_LO = [Reg.TIME_CLK_SEC_HI, Reg.TIME_CLK_NS, Reg.TIME_CLK_FRAC] := if_pos rfl

theorem latchesOf_tpi {i : Nat} (hi : i < 2) :
    latchesOf (Reg.TIME_TPI_SEC_LO i) = [Reg.TIME_TPI_SEC_HI i, Reg.TIME_TPI_NS i] := by
  have hcases : i = 0 ∨ i = 1 := by omega
  rcases hcases with rfl | rfl <;> decide +kernel

end Sys2Proof.Machine
end

section
/-! SUPPORT. The claim on reads and latches. -/

set_option Elab.async false

namespace Sys2Proof

open Machine

/-- Settles O8: a served read is the latches of its list and the answer, and the lists come from the register table. -/
theorem readsLatchTheirPartners : Obligations.ReadsLatchTheirPartners := by
  unfold Obligations.ReadsLatchTheirPartners
  refine ⟨?partner, ?plain, ?cfg, ?clock, ?input, ?latched, ?unlatched⟩
  case partner =>
    intro s a h ha hreaches hhi
    have hlist := latchesOf_of_hiOf hhi
    have hread := busRead_latching hreaches (by rw [hlist, eq_of_hiOf hhi]; simp)
    rw [hlist] at hread
    exact ⟨_, exec_loRegisterRead ha s, hread.latched h (List.mem_singleton_self h),
      fun b hb => hread.other b (by simpa using hb), hread.out, hread.eq⟩
  case plain =>
    intro s a ha hreaches hnone
    refine ⟨_, exec_loRegisterRead ha s, ?_⟩
    rw [busRead_of_reaches hreaches (by simp [hnone]), hnone]
    rfl
  case cfg => exact fun s off => ⟨_, exec_loRegisterRead_cfg s off, rfl⟩
  case clock =>
    intro s hreaches
    have hread := busRead_latching hreaches (by rw [latchesOf_clock]; decide)
    rw [latchesOf_clock] at hread
    exact ⟨_, rfl, hread.latched _ (by simp), hread.latched _ (by simp), hread.latched _ (by simp), hread.other, hread.out, hread.eq⟩
  case input =>
    intro s i hi hreaches
    have hlist := latchesOf_tpi hi
    have hself : Reg.TIME_TPI_SEC_LO i ∉ [Reg.TIME_TPI_SEC_HI i, Reg.TIME_TPI_NS i] := by
      simp [Reg.TIME_TPI_SEC_LO, Reg.TIME_TPI_SEC_HI, Reg.TIME_TPI_NS]
    have hread := busRead_latching hreaches (hlist ▸ hself)
    rw [hlist] at hread
    exact ⟨_, rfl, hread.latched _ (by simp), hread.latched _ (by simp), hread.other, hread.out, hread.eq⟩
  case latched =>
    intro s a v hserved hlatched
    unfold State.read
    rw [hserved, hlatched]
    rfl
  case unlatched =>
    intro s a hserved hnone hwo
    unfold State.read
    rw [hserved, hnone, hwo]
    rfl

end Sys2Proof
end

section
/-! SUPPORT. The commands that only answer, and the pieces of a result that become ready on one ring. -/

set_option Elab.async false

namespace Sys2Proof.Machine

/-! ### Pennants of one result -/

/-- Pennants become ready on a ring one after another. -/
def State.sendAll (s : State) (m : Nat) (l : List Pn) : State := l.foldl (fun s p => s.sendTo m p) s

/-- Pennants that become ready change the pennant rings alone. -/
theorem sendAll_rings (s : State) (m : Nat) (l : List Pn) : RingsOnly s (s.sendAll m l) := by
  induction l generalizing s with
  | nil => exact .refl s
  | cons p l ih => exact (RingsOnly.setPring s m _).trans (ih _)

/-- What waits on a ring still waits there after others became ready. -/
theorem mem_sendAll_of (s : State) (m n : Nat) (l : List Pn) {q : Pn} (h : q ∈ (s.pring n).ready) :
    q ∈ ((s.sendAll m l).pring n).ready := by
  induction l generalizing s with
  | nil => exact h
  | cons p l ih => exact ih _ (mem_sendTo s m n p q h)

/-- Each of the pennants waits on the ring. -/
theorem mem_sendAll (s : State) (m : Nat) {l : List Pn} {p : Pn} (h : p ∈ l) : p ∈ ((s.sendAll m l).pring m).ready := by
  induction l generalizing s with
  | nil => cases h
  | cons q l ih =>
    rcases List.mem_cons.mp h with rfl | h
    · exact mem_sendAll_of _ m m l (by rw [ready_sendTo_same]; exact mem_insPn _ _)
    · exact ih _ h

/-- A ring that is looked up again for each pennant is the same ring each time. -/
theorem foldl_sendTo_ackRing (s : State) (c : Cmd) (l : List Pn) :
    l.foldl (fun s p => s.sendTo (s.ackRing c) p) s = s.sendAll (s.ackRing c) l := by
  induction l generalizing s with
  | nil => rfl
  | cons p l ih => exact ih (s.sendTo (s.ackRing c) p)

theorem jrnl_sendAll (s : State) (m : Nat) (l : List Pn) : (s.sendAll m l).jrnl = s.jrnl := by
  rw [(sendAll_rings s m l).eq]

/-- The DONE of a command leaves what waits on the rings. -/
theorem mem_done (s : State) (c : Cmd) (code n : Nat) {q : Pn} (h : q ∈ (s.pring n).ready) : q ∈ ((s.done c code).pring n).ready :=
  mem_sendTo _ _ _ _ _ h

/-! ### NOP, FENCE and STAT_REQ (R69, R71, R81) -/

theorem exec_nop {s : State} {j : Nat} {c : Cmd} (h : s.running j 0x01 = some c) : exec (.nop j) s = .next (s.done c) := by
  show execNop j s = _
  unfold execNop
  rw [h]

/-- An earlier accepted command of the ring has not ended (R69, R81). -/
def State.fenced (s : State) (c : Cmd) : Bool := s.jrnl.cmds.any (fun d => d.ring == c.ring && seqBefore d.jidx c.jidx)

theorem fenced_iff (s : State) (c : Cmd) :
    s.fenced c = true ↔ ∃ d ∈ s.jrnl.cmds, d.ring = c.ring ∧ seqBefore d.jidx c.jidx = true := by
  simp [State.fenced, List.any_eq_true]

theorem exec_fence {s : State} {j : Nat} {c : Cmd} (h : s.running j 0x02 = some c) :
    exec (.fence j) s = .next (if s.fenced c = true then s else s.done c) := by
  show execFence j s = _
  unfold execFence
  rw [h, apply_ite Host.Outcome.next]
  rfl

/-- The pieces of the result that a STAT_REQ asks for (R71). -/
def State.statAnswer (s : State) (c : Cmd) : List Pn :=
  statPieces (cmdPn c 0x13 s.now) (slotParam c.slot % 2 ^ 16) 0 false (statOrder (s.statEntries (slotParam c.slot % 2 ^ 16)))

theorem exec_statReq {s : State} {j : Nat} {c : Cmd} (h : s.running j 0x40 = some c) :
    exec (.statReq j) s = .next ((s.sendAll (s.ackRing c) (s.statAnswer c)).done c) := by
  show execStatReq j s = _
  unfold execStatReq
  rw [h, ← foldl_sendTo_ackRing]
  rfl

end Sys2Proof.Machine
end

section
/-! SUPPORT. The claim on NOP, FENCE and STAT_REQ. -/

set_option Elab.async false

namespace Sys2Proof

open Machine

/-- Settles O13: each of the three ends by the DONE of the command, a FENCE behind no other, a STAT_REQ behind its pieces. -/
theorem nopFenceAndStatReqEnd : Obligations.NopFenceAndStatReqEnd := by
  unfold Obligations.NopFenceAndStatReqEnd
  refine ⟨?nop, ?fenceEnds, ?fenceWaits, ?stat⟩
  case nop =>
    intro s j c hrun
    obtain ⟨hcmd, rfl, -, -⟩ := cmd_of_running hrun
    exact ⟨_, exec_nop hrun, done_ends 0 hcmd, done_eq s c 0⟩
  case fenceEnds =>
    intro s j c hrun hlast
    obtain ⟨hcmd, rfl, -, -⟩ := cmd_of_running hrun
    have hfree : ¬s.fenced c = true := by
      rw [fenced_iff]
      rintro ⟨d, hd, hring, hbefore⟩
      rw [hlast d hd hring] at hbefore
      cases hbefore
    refine ⟨_, exec_fence hrun, ?_⟩
    rw [if_neg hfree]
    exact ⟨done_ends 0 hcmd, done_eq s c 0⟩
  case fenceWaits =>
    intro s j c d hrun hd hring hbefore
    obtain ⟨-, rfl, -, -⟩ := cmd_of_running hrun
    rw [exec_fence hrun, if_pos ((fenced_iff s c).mpr ⟨d, hd, hring, hbefore⟩)]
  case stat =>
    intro s j c hrun
    obtain ⟨hcmd, rfl, -, -⟩ := cmd_of_running hrun
    have hrings := sendAll_rings s (s.ackRing c) (s.statAnswer c)
    refine ⟨_, exec_statReq hrun, done_ends 0 (d := c) ?_, ?_, fun p hp => mem_done _ c 0 _ (mem_sendAll s _ hp)⟩
    · rw [cmd_of_jrnl (jrnl_sendAll s _ _), hcmd]
    · rw [done_eq, hrings.eq]

end Sys2Proof
end

section
/-! SUPPORT. Whole requests of BAR0: those that are served dword by dword, and those that are turned away. -/

set_option Elab.async false

namespace Sys2Proof.Machine

/-! ### Requests that are served (R58) -/

/-- From `s` to `t` registers were read: only the latched values and what was sent out may differ. -/
structure ReadsRegs (s t : State) : Prop where
  eq : t = { s with hif := { s.hif with hiLatch := t.hif.hiLatch }, out := t.out }

theorem ReadsRegs.trans {s t u : State} (h : ReadsRegs s t) (k : ReadsRegs t u) : ReadsRegs s u := by
  have hu := k.eq
  rw [h.eq] at hu
  exact ⟨hu⟩

/-- Reads of registers do not change what is served. -/
theorem ReadsRegs.reaches {s t : State} (h : ReadsRegs s t) {a : Nat} (ha : reaches s a) : reaches t a := by
  rw [h.eq]
  exact ha

/-- A served read answers a value, after its latches. -/
theorem busRead_answers {s : State} {a : Nat} (h : reaches s a) :
    ∃ v, (s.busRead a).out = s.out ++ [Out.readData a v] ∧ ReadsRegs s (s.busRead a) := by
  have ⟨_, _, hserved⟩ := h
  have honly := latches_only (latchesOf a) s
  have hread : ∃ v, s.busRead a = ((latchesOf a).foldl State.latch s).post (.readData a v) := by
    unfold State.busRead
    rw [barRefused_of_reaches h, hserved, touch_of_reaches h]
    exact ⟨_, rfl⟩
  obtain ⟨v, hv⟩ := hread
  rw [hv]
  unfold State.post
  exact ⟨v, by rw [honly.eq], ⟨by rw [honly.eq]⟩⟩

/-- The dwords of a request, from dword `d` on, are read in ascending order. -/
def State.readDwords (s : State) (d n : Nat) : State := (List.range n).foldl (fun (s : State) i => s.busRead (4 * (d + i))) s

theorem readDwords_succ (s : State) (d n : Nat) : s.readDwords d (n + 1) = (s.readDwords d n).busRead (4 * (d + n)) := by
  unfold State.readDwords
  rw [List.range_succ, List.foldl_append]
  rfl

/-- Served dwords answer one value each. -/
theorem readDwords_answers {s : State} {d n : Nat} (h : ∀ k, k < n → reaches s (4 * (d + k))) :
    ∃ l : List (BitVec 32), l.length = n ∧
      (s.readDwords d n).out = s.out ++ l.zipIdx.map (fun x => Out.readData (4 * (d + x.2)) x.1) ∧ ReadsRegs s (s.readDwords d n) := by
  induction n with
  | zero => exact ⟨[], rfl, (List.append_nil _).symm, ⟨rfl⟩⟩
  | succ n ih =>
    obtain ⟨l, hlen, hout, hreads⟩ := ih fun k hk => h k (by omega)
    obtain ⟨v, hv, hlast⟩ := busRead_answers (hreads.reaches (h n (by omega)))
    refine ⟨l ++ [v], by simp [hlen], ?_, ?_⟩
    · rw [readDwords_succ, hv, hout]
      simp [List.zipIdx_append, hlen]
    · rw [readDwords_succ]
      exact hreads.trans hlast

/-- A dword that a request touches holds one of its bytes. -/
theorem dword_of_request {a len k : Nat} (h : barFits a len = true) (hk : k < barDwords a len) :
    ∃ i, i < len ∧ (a + i) / 4 = a / 4 + k := by
  have hlen : 1 ≤ len ∧ len ≤ 64 ∧ a / 64 = (a + len - 1) / 64 := of_decide_eq_true h
  unfold barDwords at hk
  by_cases h0 : k = 0
  · exact ⟨0, by omega, by omega⟩
  · exact ⟨4 * (a / 4 + k) - a, by omega, by omega⟩

/-- A dword write to BAR0 is REGISTER_WRITE. -/
theorem busWrite_eq_exec {a : Nat} (ha : a < 2 ^ 26) (s : State) (w : BitVec 32) (be : BitVec 4) :
    s.busWrite a w be = s.after (exec (.registerWrite a w be)) := by
  have hcfg : isCfg a = false := decide_eq_false (by unfold cfgBase; omega)
  show _ = s.after (execRegisterWrite a w be)
  unfold execRegisterWrite
  rw [hcfg]
  rfl

theorem exec_barAccess_read_fits {s : State} {a len : Nat} (hrefused : s.barRefused = false) (hfits : barFits a len = true)
    (data : List (BitVec 32 × BitVec 4)) : exec (.barAccess .read a len data) s = .next (s.readDwords (a / 4) (barDwords a len)) := by
  show execBarAccess .read a len data s = _
  unfold execBarAccess
  rw [hrefused, hfits]
  rfl

theorem exec_barAccess_write_fits {s : State} {a len : Nat} (hrefused : s.barRefused = false) (hfits : barFits a len = true)
    {data : List (BitVec 32 × BitVec 4)} (hdata : data.length = barDwords a len) :
    exec (.barAccess .write a len data) s =
      .next (data.zipIdx.foldl (fun (s : State) q => s.busWrite (4 * (a / 4 + q.2)) q.1.1 q.1.2) s) := by
  show execBarAccess .write a len data s = _
  unfold execBarAccess
  rw [hrefused, hfits, ← hdata, List.take_length]
  rfl

/-! ### Requests that are turned away (R61, R746) -/

/-- A request that is turned away is recorded in HIF_ERR and logged by AER (R61). -/
def State.turnAway (s : State) (a len bit : Nat) : State := (s.hifErr 0x010B 63 a a len).aer bit

theorem aer_eq (s : State) (bit : Nat) : s.aer bit = { s with hif := { s.hif with cfg := (s.aer bit).hif.cfg } } := by
  unfold State.aer
  dsimp only
  split <;> rfl

/-- AER sets the error's bit in its status and keeps the others (R54). -/
theorem cfgReg_aer (s : State) (bit : Nat) : (s.aer bit).cfgReg 0x104 = BitVec.ofNat 32 ((s.cfgReg 0x104).toNat ||| 2 ^ bit) :=
  cfgReg_setCfg_same _ _ _

theorem cfgReg_aer_bit (s : State) {bit : Nat} (hbit : bit < 32) : ((s.aer bit).cfgReg 0x104).getLsbD bit = true := by
  rw [cfgReg_aer, BitVec.getLsbD_ofNat, Nat.testBit_or, Nat.testBit_two_pow_self]
  simp [hbit]

theorem cfgReg_aer_other (s : State) (bit : Nat) {o : Nat} (h1 : o ≠ 0x104) (h2 : o ≠ 0x118) : (s.aer bit).cfgReg o = s.cfgReg o := by
  unfold State.aer
  rw [cfgReg_setCfg_other _ _ h1]
  exact ite_both (P := fun t : State => t.cfgReg o = s.cfgReg o) (cfgReg_setCfg_other _ _ h2) rfl

theorem reg_aer (s : State) (bit a : Nat) : (s.aer bit).reg a = s.reg a := by
  rw [aer_eq]
  rfl

/-- What turning a request away records, and what it leaves alone. -/
structure TurnedAway (bit : Nat) (s t : State) : Prop where
  code : t.rd Reg.HIF_ERR_CODE = 0x010B
  logged : (t.cfgReg 0x104).getLsbD bit = true
  reg : ∀ b, b / 0x100000 ≠ 0x1E → b / 0x100000 ≠ 0x1F → b ∉ [Reg.HIF_ERR, Reg.HIF_ERR_ADDR_LO, Reg.HIF_ERR_ADDR_HI] →
    t.reg b = s.reg b
  cfg : ∀ o, o ≠ 0x104 → o ≠ 0x118 → t.cfgReg o = s.cfgReg o
  eq : t = { s with regs := t.regs, hif := { s.hif with cfg := t.hif.cfg }, hlth := t.hlth, snap := t.snap, counters := t.counters,
                    out := t.out }

theorem turnAway_turnedAway {s : State} (hfirst : s.rd Reg.HIF_ERR_VALID = 0) (a len : Nat) {bit : Nat} (hbit : bit < 32) :
    TurnedAway bit s (s.turnAway a len bit) where
  code := by
    unfold State.turnAway State.rd
    rw [reg_aer]
    exact rd_hifErr_code s 0x010B 63 a a len hfirst
  logged := cfgReg_aer_bit _ hbit
  reg := fun b h1 h2 h3 => (reg_aer _ bit b).trans ((hifErr_records s 0x010B 63 a a len).reg b h1 h2 h3)
  cfg := fun o h1 h2 => by
    unfold State.turnAway
    rw [cfgReg_aer_other _ _ h1 h2]
    unfold State.cfgReg
    rw [(hifErr_records s 0x010B 63 a a len).hif]
  eq := by
    unfold State.turnAway
    rw [aer_eq, (hifErr_records s 0x010B 63 a a len).eq]

theorem TurnedAway.post {bit : Nat} {s t : State} (h : TurnedAway bit s t) (o : Out) : TurnedAway bit s (t.post o) where
  code := h.code
  logged := h.logged
  reg := h.reg
  cfg := h.cfg
  eq := by
    unfold State.post
    rw [h.eq]

theorem turnAway_out (s : State) (a len bit : Nat) : (s.turnAway a len bit).out = s.out := by
  unfold State.turnAway
  rw [aer_eq]
  exact (hifErr_records s 0x010B 63 a a len).out

theorem exec_barAccess_read_unfit {s : State} {a len : Nat} (hrefused : s.barRefused = false) (hfits : barFits a len = false)
    (data : List (BitVec 32 × BitVec 4)) :
    exec (.barAccess .read a len data) s = .next ((s.turnAway a len 15).post (.completerAbort a)) := by
  show execBarAccess .read a len data s = _
  unfold execBarAccess
  rw [hrefused, hfits]
  rfl

theorem exec_barAccess_write_unfit {s : State} {a len : Nat} (hrefused : s.barRefused = false) (hfits : barFits a len = false)
    (data : List (BitVec 32 × BitVec 4)) : exec (.barAccess .write a len data) s = .next (s.turnAway a len 15) := by
  show execBarAccess .write a len data s = _
  unfold execBarAccess
  rw [hrefused, hfits]
  rfl

/-- Locked requests and AtomicOps are turned away whatever their length (R61). -/
theorem exec_barAccess_unsupported {s : State} {k : BarKind} (hk : k = .locked ∨ k = .atomic) (hrefused : s.barRefused = false)
    (a len : Nat) (data : List (BitVec 32 × BitVec 4)) :
    exec (.barAccess k a len data) s = .next ((s.turnAway a len 20).post (.unsupportedRequest a)) := by
  show execBarAccess k a len data s = _
  unfold execBarAccess
  rw [hrefused]
  rcases hk with rfl | rfl <;> rfl

/-- In D3hot and in STOWED every request completes with Unsupported Request (R746). -/
theorem exec_barAccess_refused {s : State} (h : s.barRefused = true) (k : BarKind) (a len : Nat)
    (data : List (BitVec 32 × BitVec 4)) : exec (.barAccess k a len data) s = .next (s.post (.unsupportedRequest a)) :=
  if_pos h

end Sys2Proof.Machine
end

section
/-! SUPPORT. The claim on whole requests of BAR0. -/

set_option Elab.async false

namespace Sys2Proof

open Machine

/-- Settles O10: a fitting request is the reads or REGISTER_WRITEs of its dwords, any other is `turnAway` or refused outright. -/
theorem barRequestsAreServedOrTurnedAway : Obligations.BarRequestsAreServedOrTurnedAway := by
  unfold Obligations.BarRequestsAreServedOrTurnedAway
  intro recorded
  have hrecorded : ∀ {s t : State} {bit : Nat}, TurnedAway bit s t → recorded s t bit := fun h =>
    ⟨h.code, h.logged, h.reg, h.cfg, h.eq⟩
  refine ⟨?read, ?write, ?readUnfit, ?writeUnfit, ?unsupported, ?refused⟩
  case read =>
    intro s a len data hreaches hfits
    have hlen : 1 ≤ len := (of_decide_eq_true hfits).1
    obtain ⟨l, hl, hout, hreads⟩ := readDwords_answers (s := s) (d := a / 4) (n := barDwords a len) fun k hk => by
      obtain ⟨i, hi, hdword⟩ := dword_of_request hfits hk
      rw [← hdword]
      exact hreaches i hi
    exact ⟨_, exec_barAccess_read_fits (barRefused_of_reaches (hreaches 0 hlen)) hfits data, ⟨l, hl, hout⟩, hreads.eq⟩
  case write =>
    intro s a len data hrefused hrange hfits hdata
    have hlen : 1 ≤ len := (of_decide_eq_true hfits).1
    refine ⟨_, exec_barAccess_write_fits hrefused hfits hdata, List.foldl_ext _ _ _ fun t q hq => ?_⟩
    have hlt : q.2 < data.length := List.snd_lt_of_mem_zipIdx hq
    exact busWrite_eq_exec (by omega) t q.1.1 q.1.2
  case readUnfit =>
    intro s a len data hrefused hfirst hfits
    refine ⟨_, exec_barAccess_read_unfit hrefused hfits data, hrecorded ((turnAway_turnedAway hfirst a len (by decide)).post _), ?_⟩
    exact congrArg (· ++ [Out.completerAbort a]) (turnAway_out s a len 15)
  case writeUnfit =>
    intro s a len data hrefused hfirst hfits
    exact ⟨_, exec_barAccess_write_unfit hrefused hfits data, hrecorded (turnAway_turnedAway hfirst a len (by decide)),
      turnAway_out s a len 15⟩
  case unsupported =>
    intro s a len data k hk hrefused hfirst
    refine ⟨_, exec_barAccess_unsupported hk hrefused a len data, hrecorded ((turnAway_turnedAway hfirst a len (by decide)).post _), ?_⟩
    exact congrArg (· ++ [Out.unsupportedRequest a]) (turnAway_out s a len 20)
  case refused =>
    intro s a len data k h
    have hrefused : s.barRefused = true := by
      rcases h with h | h <;> simp [State.barRefused, h]
    exact ⟨_, exec_barAccess_refused hrefused k a len data, rfl⟩

end Sys2Proof
end

section
/-! SUPPORT. The rings' configuration writes, enables, disables and drains, operation by operation. -/

set_option Elab.async false

namespace Sys2Proof.Machine

/-! ### Changes of some registers -/

/-- From `s` to `t` only the registers of a list, and HIF's own data, may differ. -/
structure RegsHif (l : List Nat) (s t : State) : Prop where
  eq : t = { s with regs := t.regs, hif := t.hif }
  reg : ∀ a, a ∉ l → t.reg a = s.reg a

theorem RegsHif.refl (l : List Nat) (s : State) : RegsHif l s s := ⟨rfl, fun _ _ => rfl⟩

theorem RegsHif.trans {l : List Nat} {s t u : State} (h : RegsHif l s t) (k : RegsHif l t u) : RegsHif l s u := by
  refine ⟨?_, fun a ha => (k.reg a ha).trans (h.reg a ha)⟩
  have hu := k.eq
  rw [h.eq] at hu
  exact hu

theorem RegsHif.wr {l : List Nat} {s t : State} (h : RegsHif l s t) {f : RegField} (v : Nat) (hf : f.addr ∈ l) :
    RegsHif l s (t.wr f v) :=
  h.trans ⟨rfl, fun a ha => reg_wr_other t f v a fun e => ha (e ▸ hf)⟩

theorem RegsHif.setCring {l : List Nat} {s t : State} (h : RegsHif l s t) (c : Nat) (x : CRing) : RegsHif l s (t.setCring c x) :=
  h.trans ⟨rfl, fun _ _ => rfl⟩

theorem RegsHif.setPring {l : List Nat} {s t : State} (h : RegsHif l s t) (m : Nat) (x : PRing) : RegsHif l s (t.setPring m x) :=
  h.trans ⟨rfl, fun _ _ => rfl⟩

theorem RegsHif.rd {l : List Nat} {s t : State} (h : RegsHif l s t) {f : RegField} (hf : f.addr ∉ l) : t.rd f = s.rd f := by
  unfold State.rd
  rw [h.reg _ hf]

theorem RegsHif.rd64 {l : List Nat} {s t : State} (h : RegsHif l s t) {lo hi : Nat} (hlo : lo ∉ l) (hhi : hi ∉ l) :
    t.rd64 lo hi = s.rd64 lo hi := by
  unfold State.rd64
  rw [h.reg _ hlo, h.reg _ hhi]

/-- Where HIF's own data stay, only the registers differ. -/
theorem RegsHif.onlyRegs {l : List Nat} {s t : State} (h : RegsHif l s t) (hhif : t.hif = s.hif) : onlyRegs l s t := by
  refine ⟨?_, h.reg⟩
  have ht := h.eq
  rw [hhif] at ht
  exact ht

/-! ### Configuration fields (R104) -/

/-- Configuration fields take the values that a written word carries. -/
def State.putFields (s : State) (fs : List RegField) (w : BitVec 32) : State :=
  fs.foldl (fun s f => s.wr f (bitsOf w.toNat f.lo f.w)) s

/-- While the owner is DISABLED the fields take their values, and nothing is recorded (R104). -/
theorem cfgWrite_writable (s : State) (fs : List RegField) (w : BitVec 32) (ring addr : Nat) :
    s.cfgWrite true fs w ring addr = s.putFields fs w := by
  have hfold : fs.foldl (fun (x : State × Bool) f =>
      ((x.1.cfgField true f w).1, x.2 || (x.1.cfgField true f w).2)) (s, false) = (s.putFields fs w, false) := by
    induction fs generalizing s with
    | nil => rfl
    | cons f fs ih => exact ih (s.wr f (bitsOf w.toNat f.lo f.w))
  unfold State.cfgWrite
  dsimp only
  rw [hfold]
  rfl

/-- A write that carries the current values changes and records nothing (R104). -/
theorem cfgWrite_current {s : State} {fs : List RegField} {w : BitVec 32} (h : ∀ f ∈ fs, s.rd f = bitsOf w.toNat f.lo f.w)
    (ring addr : Nat) : s.cfgWrite false fs w ring addr = s := by
  have hfold : fs.foldl (fun (x : State × Bool) f =>
      ((x.1.cfgField false f w).1, x.2 || (x.1.cfgField false f w).2)) (s, false) = (s, false) := by
    induction fs with
    | nil => rfl
    | cons f fs ih =>
      have hf : s.cfgField false f w = (s, false) := by simp [State.cfgField, h f List.mem_cons_self]
      rw [List.foldl_cons, hf]
      exact ih fun g hg => h g (List.mem_cons_of_mem _ hg)
  unfold State.cfgWrite
  dsimp only
  rw [hfold]
  rfl

/-! ### Command rings -/

/-- A DISABLED command ring takes the configuration that is written. -/
def State.cringTake (s : State) (c : Nat) (w : BitVec 32) : State :=
  s.putFields [Reg.HIF_CRING_CFG_PRING_ACK c, Reg.HIF_CRING_CFG_LOG2_SLOTS c] w

theorem cringCfg_disabled {s : State} {c : Nat} (h : s.cState c = 0) (w : BitVec 32) : s.cringCfg c w = s.cringTake c w := by
  unfold State.cringCfg
  rw [h]
  exact cfgWrite_writable s _ w c _

theorem cringCfg_current {s : State} {c : Nat} {w : BitVec 32} (h : s.cState c ≠ 0)
    (hslots : bitsOf w.toNat 0 5 = s.rd (Reg.HIF_CRING_CFG_LOG2_SLOTS c))
    (hack : bitsOf w.toNat 8 6 = s.rd (Reg.HIF_CRING_CFG_PRING_ACK c)) : s.cringCfg c w = s := by
  unfold State.cringCfg
  rw [decide_eq_false h]
  exact cfgWrite_current (by simp [hslots, hack]) c _

/-- What taking a configuration leaves alone. -/
theorem cringTake_regs (s : State) (c : Nat) (w : BitVec 32) : RegsHif [Reg.HIF_CRING_CFG c, Reg.HIF_CRING_STATUS c] s (s.cringTake c w) :=
  ((RegsHif.refl _ s).wr _ (by simp)).wr _ (by simp)

theorem cState_cringTake (s : State) (c : Nat) (w : BitVec 32) : (s.cringTake c w).cState c = s.cState c := by
  simp [State.cringTake, State.putFields, State.cState, rd_wr_other]

theorem slots_cringTake (s : State) (c : Nat) (w : BitVec 32) :
    (s.cringTake c w).rd (Reg.HIF_CRING_CFG_LOG2_SLOTS c) = bitsOf w.toNat 0 5 := by
  have hlt : bitsOf w.toNat 0 5 < 32 := bitsOf_lt _ _ _
  simp [State.cringTake, State.putFields, rd_wr_same, Nat.mod_eq_of_lt hlt]

theorem ack_cringTake (s : State) (c : Nat) (w : BitVec 32) :
    (s.cringTake c w).rd (Reg.HIF_CRING_CFG_PRING_ACK c) = bitsOf w.toNat 8 6 := by
  have hlt : bitsOf w.toNat 8 6 < 64 := bitsOf_lt _ _ _
  simp [State.cringTake, State.putFields, rd_wr_same, rd_wr_other, Nat.mod_eq_of_lt hlt]

/-- A command ring's own configuration and status words are neither the journal's configuration nor another word of a command ring. -/
theorem not_mem_cringWords {a c : Nat} (h : a < 0x101000 ∨ a % 0x40 ≠ 0x08 ∧ a % 0x40 ≠ 0x1C) :
    a ∉ [Reg.HIF_CRING_CFG c, Reg.HIF_CRING_STATUS c] := by
  simp only [List.mem_cons, List.not_mem_nil, or_false, Reg.HIF_CRING_CFG, Reg.HIF_CRING_STATUS]
  omega

/-- The configuration that an enable takes is legal by what the word carries and the rest of the registers (R106, R107). -/
theorem cringOk_cringTake_iff (s : State) (c : Nat) (w : BitVec 32) :
    (s.cringTake c w).cringOk c = true ↔ s.rd Reg.HIF_JRNL_CFG_ENABLE = 1 ∧ s.rd Reg.HIF_JRNL_CFG_DRAINING = 0 ∧
      4 ≤ bitsOf w.toNat 0 5 ∧ bitsOf w.toNat 0 5 ≤ 16 ∧ 1 ≤ s.rd (Reg.HIF_CRING_SEQ0_SEQ0 c) ∧
      s.rd (Reg.HIF_CRING_SEQ0_SEQ0 c) + 2 ^ bitsOf w.toNat 0 5 ≤ 2 ^ 32 := by
  have hregs := cringTake_regs s c w
  have hseq0 : (s.cringTake c w).rd (Reg.HIF_CRING_SEQ0_SEQ0 c) = s.rd (Reg.HIF_CRING_SEQ0_SEQ0 c) :=
    hregs.rd (not_mem_cringWords (by simp only [Reg.HIF_CRING_SEQ0]; omega))
  unfold State.cringOk
  simp only [decide_eq_true_eq]
  rw [hregs.rd (f := Reg.HIF_JRNL_CFG_ENABLE) (not_mem_cringWords (by decide)),
    hregs.rd (f := Reg.HIF_JRNL_CFG_DRAINING) (not_mem_cringWords (by decide)), hseq0, slots_cringTake]

/-- What the start of polling leaves alone. -/
theorem cringStart_regs (s : State) (c : Nat) : RegsHif [Reg.HIF_CRING_CFG c, Reg.HIF_CRING_STATUS c] s (s.cringStart c) :=
  ((((RegsHif.refl _ s).wr _ (by simp)).wr _ (by simp)).wr _ (by simp)).setCring c {}

theorem cState_cringStart (s : State) (c : Nat) : (s.cringStart c).cState c = 1 := by
  simp [State.cringStart, State.cState, rd_wr_same, rd_wr_other]

theorem enable_cringStart (s : State) (c : Nat) : (s.cringStart c).rd (Reg.HIF_CRING_CFG_ENABLE c) = 1 := by
  simp [State.cringStart, rd_wr_same, rd_wr_other]

/-- Starting keeps the configuration's other fields. -/
theorem slots_cringStart (s : State) (c : Nat) :
    (s.cringStart c).rd (Reg.HIF_CRING_CFG_LOG2_SLOTS c) = s.rd (Reg.HIF_CRING_CFG_LOG2_SLOTS c) := by
  simp [State.cringStart, rd_wr_other]

theorem ack_cringStart (s : State) (c : Nat) :
    (s.cringStart c).rd (Reg.HIF_CRING_CFG_PRING_ACK c) = s.rd (Reg.HIF_CRING_CFG_PRING_ACK c) := by
  simp [State.cringStart, rd_wr_other]

theorem pollFast_lt (s : State) (c : Nat) : s.pollFast c < 2 ^ 16 := by
  have hlt : s.rd (Reg.HIF_CRING_POLL_POLL_FAST c) < 2 ^ 8 := rd_lt s _
  unfold State.pollFast
  omega

theorem RegsHif.pollFast {s t : State} {c : Nat} (h : RegsHif [Reg.HIF_CRING_CFG c, Reg.HIF_CRING_STATUS c] s t) :
    t.pollFast c = s.pollFast c := by
  unfold State.pollFast
  rw [h.rd (not_mem_cringWords (by simp only [Reg.HIF_CRING_POLL]; omega))]

/-- The expected tag is another word of the ring. -/
theorem RegsHif.expTag {s t : State} {c : Nat} (h : RegsHif [Reg.HIF_CRING_CFG c, Reg.HIF_CRING_STATUS c] s t) :
    t.expTag c = s.expTag c :=
  h.rd (not_mem_cringWords (by simp only [Reg.HIF_CRING_NEXT]; omega))

/-- Polling starts at the interval POLL_FAST (R104). -/
theorem interval_cringStart (s : State) (c : Nat) : (s.cringStart c).rd (Reg.HIF_CRING_STATUS_INTERVAL c) = s.pollFast c := by
  have hpoll : ((s.wr (Reg.HIF_CRING_CFG_ENABLE c) 1).wr (Reg.HIF_CRING_STATUS_STATE c) 1).pollFast c = s.pollFast c :=
    RegsHif.pollFast (((RegsHif.refl _ s).wr _ (by simp)).wr _ (by simp))
  have hlt := pollFast_lt s c
  unfold State.cringStart
  dsimp only
  rw [hpoll, State.setCring_rd, rd_wr_same _ _ _ (show 16 + 16 ≤ 32 by decide)]
  exact Nat.mod_eq_of_lt hlt

theorem exec_cringEnable_disabled {s : State} {c : Nat} (hreaches : reaches s (Reg.HIF_CRING_CFG c)) (hstate : s.cState c = 0)
    (w : BitVec 32) :
    exec (.cringEnable c w) s = .next (if (s.cringTake c w).cringOk c = true then (s.cringTake c w).cringStart c
      else (s.cringTake c w).hifErr 0x010A c (Reg.HIF_CRING_CFG c) (Reg.HIF_CRING_CFG c) w.toNat) := by
  show execCringEnable c w s = _
  unfold execCringEnable
  rw [bar_of_reaches hreaches, cringCfg_disabled hstate]
  dsimp only
  rw [cState_cringTake, hstate, if_pos rfl, apply_ite Host.Outcome.next]

/-- ENABLE and STATE of a command ring take new values. -/
def State.cringMove (s : State) (c en st : Nat) : State := (s.wr (Reg.HIF_CRING_CFG_ENABLE c) en).wr (Reg.HIF_CRING_STATUS_STATE c) st

theorem cringMove_regs (s : State) (c en st : Nat) :
    onlyRegs [Reg.HIF_CRING_CFG c, Reg.HIF_CRING_STATUS c] s (s.cringMove c en st) :=
  RegsHif.onlyRegs (((RegsHif.refl _ s).wr _ (by simp)).wr _ (by simp)) rfl

theorem cState_cringMove (s : State) (c en : Nat) {st : Nat} (h : st < 8) : (s.cringMove c en st).cState c = st := by
  simp [State.cringMove, State.cState, rd_wr_same, Nat.mod_eq_of_lt h]

theorem enable_cringMove (s : State) (c st : Nat) {en : Nat} (h : en < 2) : (s.cringMove c en st).rd (Reg.HIF_CRING_CFG_ENABLE c) = en := by
  simp [State.cringMove, rd_wr_same, rd_wr_other, Nat.mod_eq_of_lt h]

/-- An enable that finds the ring draining with its configuration is latched (R103). -/
theorem exec_cringEnable_draining {s : State} {c : Nat} (hreaches : reaches s (Reg.HIF_CRING_CFG c)) (hstate : s.cState c = 3)
    {w : BitVec 32} (hslots : bitsOf w.toNat 0 5 = s.rd (Reg.HIF_CRING_CFG_LOG2_SLOTS c))
    (hack : bitsOf w.toNat 8 6 = s.rd (Reg.HIF_CRING_CFG_PRING_ACK c)) :
    exec (.cringEnable c w) s = .next (s.cringMove c 1 4) := by
  show execCringEnable c w s = _
  unfold execCringEnable
  rw [bar_of_reaches hreaches, cringCfg_current (by omega) hslots hack]
  dsimp only
  rw [hstate]
  rfl

/-- A disable that carries the configuration ends polling: a halted ring is DISABLED, any other in use drains (R102). -/
theorem exec_cringDisable_used {s : State} {c : Nat} (hreaches : reaches s (Reg.HIF_CRING_CFG c)) (hlo : 1 ≤ s.cState c)
    (hhi : s.cState c ≤ 5) {w : BitVec 32} (hslots : bitsOf w.toNat 0 5 = s.rd (Reg.HIF_CRING_CFG_LOG2_SLOTS c))
    (hack : bitsOf w.toNat 8 6 = s.rd (Reg.HIF_CRING_CFG_PRING_ACK c)) :
    exec (.cringDisable c w) s = .next (if s.cState c = 3 then s.wr (Reg.HIF_CRING_CFG_ENABLE c) 0
      else s.cringMove c 0 (if s.cState c = 5 then 0 else 3)) := by
  show execCringDisable c w s = _
  unfold execCringDisable
  rw [bar_of_reaches hreaches, cringCfg_current (by omega) hslots hack]
  dsimp only
  have hcases : s.cState c = 1 ∨ s.cState c = 2 ∨ s.cState c = 3 ∨ s.cState c = 4 ∨ s.cState c = 5 := by omega
  rcases hcases with h | h | h | h | h <;> rw [h] <;> rfl

theorem exec_cringLehrEnd_draining {s : State} {c : Nat} (hquiet : s.cringQuiet c = true) (hstate : s.cState c = 3) :
    exec (.cringLehrEnd c) s = .next ((s.wr (Reg.HIF_CRING_STATUS_STATE c) 0).wr (Reg.HIF_CRING_STATUS_INTERVAL c) 0) := by
  show execCringLehrEnd c s = _
  unfold execCringLehrEnd
  rw [hquiet, hstate]
  rfl

theorem exec_cringLehrEnd_latched {s : State} {c : Nat} (hquiet : s.cringQuiet c = true) (hstate : s.cState c = 4) :
    exec (.cringLehrEnd c) s = .next (s.cringStart c) := by
  show execCringLehrEnd c s = _
  unfold execCringLehrEnd
  rw [hquiet, hstate]
  rfl

/-! ### Pennant rings -/

/-- A DISABLED pennant ring takes the configuration that is written. -/
def State.pringTake (s : State) (m : Nat) (w : BitVec 32) : State :=
  s.putFields [Reg.HIF_PRING_CFG_VECTOR m, Reg.HIF_PRING_CFG_LOG2_BLOCKS m] w

theorem pringCfg_disabled {s : State} {m : Nat} (h : s.pState m = 0) (w : BitVec 32) : s.pringCfg m w = s.pringTake m w := by
  unfold State.pringCfg
  rw [h]
  exact cfgWrite_writable s _ w (64 + m) _

theorem pringCfg_current {s : State} {m : Nat} {w : BitVec 32} (h : s.pState m ≠ 0)
    (hblocks : bitsOf w.toNat 0 5 = s.rd (Reg.HIF_PRING_CFG_LOG2_BLOCKS m))
    (hvector : bitsOf w.toNat 8 8 = s.rd (Reg.HIF_PRING_CFG_VECTOR m)) : s.pringCfg m w = s := by
  unfold State.pringCfg
  rw [decide_eq_false h]
  exact cfgWrite_current (by simp [hblocks, hvector]) (64 + m) _

theorem pringTake_regs (s : State) (m : Nat) (w : BitVec 32) : RegsHif [Reg.HIF_PRING_CFG m, Reg.HIF_PRING_STATUS m] s (s.pringTake m w) :=
  ((RegsHif.refl _ s).wr _ (by simp)).wr _ (by simp)

theorem pring_pringTake (s : State) (m n : Nat) (w : BitVec 32) : (s.pringTake m w).pring n = s.pring n := rfl

theorem pState_pringTake (s : State) (m : Nat) (w : BitVec 32) : (s.pringTake m w).pState m = s.pState m := by
  simp [State.pringTake, State.putFields, State.pState, rd_wr_other]

theorem blocks_pringTake (s : State) (m : Nat) (w : BitVec 32) :
    (s.pringTake m w).rd (Reg.HIF_PRING_CFG_LOG2_BLOCKS m) = bitsOf w.toNat 0 5 := by
  have hlt : bitsOf w.toNat 0 5 < 32 := bitsOf_lt _ _ _
  simp [State.pringTake, State.putFields, rd_wr_same, Nat.mod_eq_of_lt hlt]

theorem vector_pringTake (s : State) (m : Nat) (w : BitVec 32) :
    (s.pringTake m w).rd (Reg.HIF_PRING_CFG_VECTOR m) = bitsOf w.toNat 8 8 := by
  have hlt : bitsOf w.toNat 8 8 < 256 := bitsOf_lt _ _ _
  simp [State.pringTake, State.putFields, rd_wr_same, rd_wr_other, Nat.mod_eq_of_lt hlt]

/-- A pennant ring's own configuration and status words are no word of the endpoint's global registers, nor another word of the ring. -/
theorem not_mem_pringWords {a m : Nat} (h : a < 0x102000 ∨ a % 0x40 ≠ 0x08 ∧ a % 0x40 ≠ 0x20) :
    a ∉ [Reg.HIF_PRING_CFG m, Reg.HIF_PRING_STATUS m] := by
  simp only [List.mem_cons, List.not_mem_nil, or_false, Reg.HIF_PRING_CFG, Reg.HIF_PRING_STATUS]
  omega

theorem RegsHif.ringSeq {s t : State} {m : Nat} (h : RegsHif [Reg.HIF_PRING_CFG m, Reg.HIF_PRING_STATUS m] s t) :
    t.ringSeq m = s.ringSeq m :=
  h.rd64 (not_mem_pringWords (by simp only [Reg.HIF_PRING_SEQ_LO]; omega)) (not_mem_pringWords (by simp only [Reg.HIF_PRING_SEQ_HI]; omega))

theorem RegsHif.produced {s t : State} {m : Nat} (h : RegsHif [Reg.HIF_PRING_CFG m, Reg.HIF_PRING_STATUS m] s t) :
    t.produced m = s.produced m :=
  h.rd64 (not_mem_pringWords (by simp only [Reg.HIF_PRING_PROD_LO]; omega))
    (not_mem_pringWords (by simp only [Reg.HIF_PRING_PROD_HI]; omega))

theorem RegsHif.consAddr {s t : State} {m : Nat} (h : RegsHif [Reg.HIF_PRING_CFG m, Reg.HIF_PRING_STATUS m] s t) :
    t.consAddr m = s.consAddr m :=
  h.rd64 (not_mem_pringWords (by simp only [Reg.HIF_PRING_CONS_LO]; omega))
    (not_mem_pringWords (by simp only [Reg.HIF_PRING_CONS_HI]; omega))

/-- What addresses a read of host memory is the same: configuration space, cached translations and ATS_USE. -/
structure SameXlate (s t : State) : Prop where
  atc : t.hif.atc = s.hif.atc
  cfg : t.hif.cfg = s.hif.cfg
  use : t.rd Reg.HIF_CTRL_ATS_USE = s.rd Reg.HIF_CTRL_ATS_USE

theorem SameXlate.refl (s : State) : SameXlate s s := ⟨rfl, rfl, rfl⟩

theorem SameXlate.trans {s t u : State} (h : SameXlate s t) (k : SameXlate t u) : SameXlate s u :=
  ⟨k.atc.trans h.atc, k.cfg.trans h.cfg, k.use.trans h.use⟩

theorem SameXlate.wr {s t : State} (h : SameXlate s t) {f : RegField} (v : Nat) (hf : f.addr ≠ Reg.HIF_CTRL) : SameXlate s (t.wr f v) :=
  h.trans ⟨rfl, rfl, rd_wr_reg t f _ v hf.symm⟩

theorem SameXlate.setPring {s t : State} (h : SameXlate s t) (m : Nat) (x : PRing) : SameXlate s (t.setPring m x) :=
  h.trans ⟨rfl, rfl, rfl⟩

theorem SameXlate.atsOn {s t : State} (h : SameXlate s t) : t.atsOn = s.atsOn := by
  unfold State.atsOn State.atsEnable State.cfgReg
  rw [h.cfg, h.use]

theorem SameXlate.tlp {s t : State} (h : SameXlate s t) (a : Nat) : t.tlp a = s.tlp a := by
  unfold State.tlp
  rw [h.atsOn, h.atc]

theorem SameXlate.untranslated {s t : State} (h : SameXlate s t) (write : Bool) (pages : List Nat) :
    t.untranslated write pages = s.untranslated write pages := by
  unfold State.untranslated
  rw [h.atsOn, h.atc]

/-- What a pennant ring that becomes ACTIVE leaves alone. -/
theorem pringUp_regs (s : State) (m : Nat) : RegsHif [Reg.HIF_PRING_CFG m, Reg.HIF_PRING_STATUS m] s (s.pringUp m) :=
  (((RegsHif.refl _ s).wr _ (by simp)).wr _ (by simp)).setPring m _

/-- A ring that becomes ACTIVE keeps what addresses reads of host memory. -/
theorem pringUp_xlate (s : State) (m : Nat) : SameXlate s (s.pringUp m) :=
  (((SameXlate.refl s).wr 1 (by simp only [Reg.HIF_PRING_CFG, Reg.HIF_CTRL]; omega)).wr 1
    (by simp only [Reg.HIF_PRING_STATUS, Reg.HIF_CTRL]; omega)).setPring m _

theorem pringTake_xlate (s : State) (m : Nat) (w : BitVec 32) : SameXlate s (s.pringTake m w) :=
  ((SameXlate.refl s).wr _ (by simp only [Reg.HIF_PRING_CFG, Reg.HIF_CTRL]; omega)).wr _
    (by simp only [Reg.HIF_PRING_CFG, Reg.HIF_CTRL]; omega)

theorem pring_pringUp (s : State) (m : Nat) :
    (s.pringUp m).pring m = { s.pring m with cons := none, stalled := none, logStall := false } := pring_setPring_same _ _ _

theorem pState_pringUp (s : State) (m : Nat) : (s.pringUp m).pState m = 1 := by
  simp [State.pringUp, State.pState, rd_wr_same]

theorem enable_pringUp (s : State) (m : Nat) : (s.pringUp m).rd (Reg.HIF_PRING_CFG_ENABLE m) = 1 := by
  simp [State.pringUp, rd_wr_same, rd_wr_other]

theorem blocks_pringUp (s : State) (m : Nat) :
    (s.pringUp m).rd (Reg.HIF_PRING_CFG_LOG2_BLOCKS m) = s.rd (Reg.HIF_PRING_CFG_LOG2_BLOCKS m) := by
  simp [State.pringUp, rd_wr_other]

theorem vector_pringUp (s : State) (m : Nat) : (s.pringUp m).rd (Reg.HIF_PRING_CFG_VECTOR m) = s.rd (Reg.HIF_PRING_CFG_VECTOR m) := by
  simp [State.pringUp, rd_wr_other]

/-- A ring that is up takes a first value of its consumer record. -/
def State.firstCons (s : State) (m consumed : Nat) : State :=
  (s.post (.consRead m (s.tlp (s.consAddr m)))).setPring m { s.pring m with cons := some consumed }

/-- Taking CONSUMED reads the record and changes no register. -/
theorem firstCons_spec (s : State) (m consumed : Nat) :
    (∀ a, (s.firstCons m consumed).reg a = s.reg a) ∧ (s.firstCons m consumed).pring m = { s.pring m with cons := some consumed } ∧
      (s.firstCons m consumed).out = s.out ++ [Out.consRead m (s.tlp (s.consAddr m))] ∧
      s.firstCons m consumed = { s with hif := (s.firstCons m consumed).hif, out := (s.firstCons m consumed).out } :=
  ⟨fun _ => rfl, pring_setPring_same _ _ _, rfl, rfl⟩

/-- The first read of CONSUMED by a ring that is up, as the enable makes it (R95; log entry 12). -/
def State.readFirstCons (s1 : State) (m consumed : Nat) : State :=
  let pages := s1.untranslated false (pagesOf (s1.consAddr m) 8)
  if !pages.isEmpty then s1.askXlate pages
  else
    let s2 := s1.post (.consRead m (s1.tlp (s1.consAddr m)))
    if s2.consBad m consumed = true then s2.haltPring m 0x0109 (s2.consAddr m) consumed (s2.produced m)
    else s2.setPring m { s2.pring m with cons := some consumed }

theorem pringStart_eq (s : State) (m consumed : Nat) : s.pringStart m consumed = (s.pringUp m).readFirstCons m consumed := rfl

theorem consBad_post (s : State) (o : Out) (m v : Nat) : (s.post o).consBad m v = s.consBad m v := rfl

/-- A consumer record that can be read and holds a good value is taken. -/
theorem readFirstCons_of_good {s : State} {m consumed : Nat} (hxlated : s.untranslated false (pagesOf (s.consAddr m) 8) = [])
    (hgood : s.consBad m consumed = false) : s.readFirstCons m consumed = s.firstCons m consumed := by
  unfold State.readFirstCons
  dsimp only
  rw [hxlated, consBad_post, hgood]
  rfl

/-- Before the first read since the enable, CONSUMED is good from PRODUCED less the ring size up to PRODUCED (R95). -/
theorem consBad_of_unread {s : State} {m consumed : Nat} (hunread : (s.pring m).cons = none) (hhi : consumed ≤ s.produced m)
    (hlo : s.produced m ≤ consumed + s.blocks m) : s.consBad m consumed = false := by
  unfold State.consBad
  simp only [hunread, Bool.or_false, Bool.or_eq_false_iff, decide_eq_false_iff_not]
  omega

theorem exec_pringEnable_disabled {s : State} {m : Nat} (hreaches : reaches s (Reg.HIF_PRING_CFG m)) (hstate : s.pState m = 0)
    (w : BitVec 32) (consumed : Nat) :
    exec (.pringEnable m w consumed) s =
      .next (if 6 ≤ bitsOf w.toNat 0 5 ∧ bitsOf w.toNat 0 5 ≤ 20 ∧ s.ringSeq m ≠ 0 then (s.pringTake m w).pringStart m consumed
        else (s.pringTake m w).hifErr 0x010A (64 + m) (Reg.HIF_PRING_CFG m) (Reg.HIF_PRING_CFG m) w.toNat) := by
  show execPringEnable m w consumed s = _
  unfold execPringEnable
  rw [bar_of_reaches hreaches, pringCfg_disabled hstate]
  dsimp only
  rw [pState_pringTake, hstate, blocks_pringTake, (pringTake_regs s m w).ringSeq, if_pos rfl, apply_ite Host.Outcome.next]

/-- ENABLE and STATE of a pennant ring take new values. -/
def State.pringMove (s : State) (m en st : Nat) : State := (s.wr (Reg.HIF_PRING_CFG_ENABLE m) en).wr (Reg.HIF_PRING_STATUS_STATE m) st

theorem pringMove_regs (s : State) (m en st : Nat) :
    onlyRegs [Reg.HIF_PRING_CFG m, Reg.HIF_PRING_STATUS m] s (s.pringMove m en st) :=
  RegsHif.onlyRegs (((RegsHif.refl _ s).wr _ (by simp)).wr _ (by simp)) rfl

theorem pState_pringMove (s : State) (m en : Nat) {st : Nat} (h : st < 8) : (s.pringMove m en st).pState m = st := by
  simp [State.pringMove, State.pState, rd_wr_same, Nat.mod_eq_of_lt h]

theorem enable_pringMove (s : State) (m st : Nat) {en : Nat} (h : en < 2) : (s.pringMove m en st).rd (Reg.HIF_PRING_CFG_ENABLE m) = en := by
  simp [State.pringMove, rd_wr_same, rd_wr_other, Nat.mod_eq_of_lt h]

theorem exec_pringEnable_draining {s : State} {m : Nat} (hreaches : reaches s (Reg.HIF_PRING_CFG m)) (hstate : s.pState m = 3)
    {w : BitVec 32} (hblocks : bitsOf w.toNat 0 5 = s.rd (Reg.HIF_PRING_CFG_LOG2_BLOCKS m))
    (hvector : bitsOf w.toNat 8 8 = s.rd (Reg.HIF_PRING_CFG_VECTOR m)) (consumed : Nat) :
    exec (.pringEnable m w consumed) s = .next (s.pringMove m 1 4) := by
  show execPringEnable m w consumed s = _
  unfold execPringEnable
  rw [bar_of_reaches hreaches, pringCfg_current (by omega) hblocks hvector]
  dsimp only
  rw [hstate]
  rfl

theorem exec_pringDisable_used {s : State} {m : Nat} (hreaches : reaches s (Reg.HIF_PRING_CFG m))
    (hstate : s.pState m = 1 ∨ s.pState m = 3 ∨ s.pState m = 4 ∨ s.pState m = 5) {w : BitVec 32}
    (hblocks : bitsOf w.toNat 0 5 = s.rd (Reg.HIF_PRING_CFG_LOG2_BLOCKS m))
    (hvector : bitsOf w.toNat 8 8 = s.rd (Reg.HIF_PRING_CFG_VECTOR m)) :
    exec (.pringDisable m w) s = .next (if s.pState m = 3 then s.wr (Reg.HIF_PRING_CFG_ENABLE m) 0
      else s.pringMove m 0 (if s.pState m = 5 then 0 else 3)) := by
  show execPringDisable m w s = _
  unfold execPringDisable
  rw [bar_of_reaches hreaches, pringCfg_current (by omega) hblocks hvector]
  dsimp only
  rcases hstate with h | h | h | h <;> rw [h] <;> rfl

theorem exec_pringLehrEnd_draining {s : State} {m : Nat} (hstate : s.pState m = 3) :
    exec (.pringLehrEnd m) s = .next (s.wr (Reg.HIF_PRING_STATUS_STATE m) 0) := if_pos hstate

theorem exec_pringLehrEnd_latched {s : State} {m : Nat} (hstate : s.pState m = 4) :
    exec (.pringLehrEnd m) s = .next (s.pringUp m) := by
  show execPringLehrEnd m s = _
  unfold execPringLehrEnd
  rw [hstate]
  rfl

end Sys2Proof.Machine
end

section
/-! SUPPORT. The claim on the states of the rings. -/

set_option Elab.async false

namespace Sys2Proof

open Machine

/-- Settles O12: an enable is the taking of the configuration and the start, a latched enable or a disable is a move of ENABLE and STATE. -/
theorem ringsEnableDrainAndStop : Obligations.RingsEnableDrainAndStop := by
  unfold Obligations.RingsEnableDrainAndStop
  refine ⟨?cEnable, ?cIllegal, ?cLatch, ?cDisable, ?cDrained, ?cRestart, ?pEnable, ?pIllegal, ?pLatch, ?pDisable, ?pDrained, ?pRestart⟩
  case cEnable =>
    intro s c w hc hreaches hstate henable hdraining h4 h16 h1 hroom
    have hok := (cringOk_cringTake_iff s c w).mpr ⟨henable, hdraining, h4, h16, h1, hroom⟩
    have hregs := (cringTake_regs s c w).trans (cringStart_regs (s.cringTake c w) c)
    refine ⟨_, exec_cringEnable_disabled hreaches hstate w, ?_⟩
    rw [if_pos hok]
    exact ⟨cState_cringStart _ c, enable_cringStart _ c, (slots_cringStart _ c).trans (slots_cringTake s c w),
      (ack_cringStart _ c).trans (ack_cringTake s c w), (interval_cringStart _ c).trans (cringTake_regs s c w).pollFast,
      hregs.expTag, fun a h1 h2 => hregs.reg a (by simp [h1, h2]), hregs.eq⟩
  case cIllegal =>
    intro s c w hc hreaches hstate hbad
    have hnot : ¬(s.cringTake c w).cringOk c = true := by
      rw [cringOk_cringTake_iff]
      rintro ⟨henable, hdraining, h4, h16, h1, hroom⟩
      omega
    refine ⟨_, exec_cringEnable_disabled hreaches hstate w, ?_⟩
    rw [if_neg hnot]
    refine ⟨?_, rd_hifErr_valid _ _ _ _ _ _⟩
    rw [← hstate, ← cState_cringTake s c w]
    exact (hifErr_records _ _ _ _ _ _).rd _ (by simp only [Reg.HIF_CRING_STATUS]; omega) (by simp only [Reg.HIF_CRING_STATUS]; omega)
      (by simp only [List.mem_cons, List.not_mem_nil, or_false, Reg.HIF_CRING_STATUS, Reg.HIF_ERR,
        Reg.HIF_ERR_ADDR_LO, Reg.HIF_ERR_ADDR_HI]; omega)
  case cLatch =>
    intro s c w hc hreaches hstate hslots hack
    exact ⟨_, exec_cringEnable_draining hreaches hstate hslots hack, cState_cringMove s c 1 (by decide),
      enable_cringMove s c 4 (by decide), cringMove_regs s c 1 4⟩
  case cDisable =>
    intro s c w hc hreaches hlo hhi hslots hack
    refine ⟨_, exec_cringDisable_used hreaches hlo hhi hslots hack, ?_⟩
    by_cases h3 : s.cState c = 3
    · rw [if_pos h3, if_neg (by omega)]
      refine ⟨?_, rd_wr_same _ _ _ (show 31 + 1 ≤ 32 by decide),
        RegsHif.onlyRegs ((RegsHif.refl _ s).wr _ (by simp)) rfl⟩
      exact (rd_wr_reg _ _ _ _ (by simp only [Reg.HIF_CRING_STATUS, Reg.HIF_CRING_CFG]; omega)).trans h3
    · rw [if_neg h3]
      exact ⟨cState_cringMove s c 0 (by split <;> decide), enable_cringMove s c _ (by decide), cringMove_regs s c 0 _⟩
  case cDrained =>
    intro s c hc hquiet hstate
    refine ⟨_, exec_cringLehrEnd_draining hquiet hstate, ?_,
      RegsHif.onlyRegs (((RegsHif.refl _ s).wr _ (by simp)).wr _ (by simp)) rfl⟩
    simp [State.cState, rd_wr_same, rd_wr_other]
  case cRestart =>
    intro s c hc hquiet hstate
    have hregs := cringStart_regs s c
    exact ⟨_, exec_cringLehrEnd_latched hquiet hstate, cState_cringStart s c, enable_cringStart s c, hregs.expTag,
      fun a h1 h2 => hregs.reg a (by simp [h1, h2]), hregs.eq⟩
  case pEnable =>
    intro s m consumed w hm hreaches hstate h6 h20 hseq hhi hlo hxlated
    have hregs := (pringTake_regs s m w).trans (pringUp_regs (s.pringTake m w) m)
    have hxlate : SameXlate s ((s.pringTake m w).pringUp m) := (pringTake_xlate s m w).trans (pringUp_xlate _ m)
    have hblocks : ((s.pringTake m w).pringUp m).blocks m = 2 ^ bitsOf w.toNat 0 5 := by
      unfold State.blocks
      rw [blocks_pringUp, blocks_pringTake]
    have hgood : ((s.pringTake m w).pringUp m).consBad m consumed = false :=
      consBad_of_unread (congrArg PRing.cons (pring_pringUp _ m)) (by rw [hregs.produced]; exact hhi)
        (by rw [hregs.produced, hblocks]; exact hlo)
    have hexec := exec_pringEnable_disabled hreaches hstate w consumed
    rw [if_pos ⟨h6, h20, hseq⟩, pringStart_eq,
      readFirstCons_of_good (by rw [hxlate.untranslated, hregs.consAddr]; exact hxlated) hgood] at hexec
    obtain ⟨hreg, hpring, hout, heq⟩ := firstCons_spec ((s.pringTake m w).pringUp m) m consumed
    have hrd : ∀ f : RegField, (((s.pringTake m w).pringUp m).firstCons m consumed).rd f = ((s.pringTake m w).pringUp m).rd f :=
      fun f => by unfold State.rd; rw [hreg]
    refine ⟨_, hexec, (hrd _).trans (pState_pringUp _ m), (hrd _).trans (enable_pringUp _ m),
      (hrd _).trans ((blocks_pringUp _ m).trans (blocks_pringTake s m w)),
      (hrd _).trans ((vector_pringUp _ m).trans (vector_pringTake s m w)), ?_, ?_, ?_,
      fun a h1 h2 => (hreg a).trans (hregs.reg a (by simp [h1, h2])), ?_⟩
    · rw [hpring]
    · rw [hpring, pring_pringUp, pring_pringTake]
    · rw [hout, hxlate.tlp, hregs.consAddr, hregs.eq]
    · rw [heq, hregs.eq]
  case pIllegal =>
    intro s m consumed w hm hreaches hstate hbad
    refine ⟨_, exec_pringEnable_disabled hreaches hstate w consumed, ?_⟩
    rw [if_neg (by omega)]
    refine ⟨?_, rd_hifErr_valid _ _ _ _ _ _⟩
    rw [← hstate, ← pState_pringTake s m w]
    exact (hifErr_records _ _ _ _ _ _).rd _ (by simp only [Reg.HIF_PRING_STATUS]; omega) (by simp only [Reg.HIF_PRING_STATUS]; omega)
      (by simp only [List.mem_cons, List.not_mem_nil, or_false, Reg.HIF_PRING_STATUS, Reg.HIF_ERR,
        Reg.HIF_ERR_ADDR_LO, Reg.HIF_ERR_ADDR_HI]; omega)
  case pLatch =>
    intro s m consumed w hm hreaches hstate hblocks hvector
    exact ⟨_, exec_pringEnable_draining hreaches hstate hblocks hvector consumed, pState_pringMove s m 1 (by decide),
      enable_pringMove s m 4 (by decide), pringMove_regs s m 1 4⟩
  case pDisable =>
    intro s m w hm hreaches hstate hblocks hvector
    refine ⟨_, exec_pringDisable_used hreaches hstate hblocks hvector, ?_⟩
    by_cases h3 : s.pState m = 3
    · rw [if_pos h3, if_neg (by omega)]
      refine ⟨?_, rd_wr_same _ _ _ (show 31 + 1 ≤ 32 by decide),
        RegsHif.onlyRegs ((RegsHif.refl _ s).wr _ (by simp)) rfl⟩
      exact (rd_wr_reg _ _ _ _ (by simp only [Reg.HIF_PRING_STATUS, Reg.HIF_PRING_CFG]; omega)).trans h3
    · rw [if_neg h3]
      exact ⟨pState_pringMove s m 0 (by split <;> decide), enable_pringMove s m _ (by decide), pringMove_regs s m 0 _⟩
  case pDrained =>
    intro s m hm hstate
    exact ⟨_, exec_pringLehrEnd_draining hstate, rd_wr_same _ _ _ (show 0 + 3 ≤ 32 by decide),
      RegsHif.onlyRegs ((RegsHif.refl _ s).wr _ (by simp)) rfl⟩
  case pRestart =>
    intro s m hm hstate
    have hregs := pringUp_regs s m
    refine ⟨_, exec_pringLehrEnd_latched hstate, pState_pringUp s m, enable_pringUp s m, ?_,
      fun a h1 h2 => hregs.reg a (by simp [h1, h2]), hregs.eq⟩
    rw [pring_pringUp]

end Sys2Proof
end

section
/-! SUPPORT. Command slots: the poll, what a read of a slot finds, the refusal of a slot, and its acceptance. -/

set_option Elab.async false

namespace Sys2Proof.Machine

/-! ### The poll (R83, R86) -/

/-- The smallest element of a list is one of its elements. -/
theorem mem_of_minBy? {α : Type} {key : α → Nat} {l : List α} {x : α} (h : minBy? key l = some x) : x ∈ l := by
  induction l generalizing x with
  | nil => cases h
  | cons a l ih =>
    unfold minBy? at h
    split at h
    · cases h
      exact List.mem_cons_self
    · next y hy =>
      split at h <;> cases h
      · exact List.mem_cons_of_mem _ (ih hy)
      · exact List.mem_cons_self

/-- A list with an element has a smallest one. -/
theorem minBy?_of_mem {α : Type} (key : α → Nat) {l : List α} {x : α} (h : x ∈ l) : ∃ y, minBy? key l = some y := by
  cases l with
  | nil => cases h
  | cons a l =>
    unfold minBy?
    split
    · exact ⟨_, rfl⟩
    · split <;> exact ⟨_, rfl⟩

/-- The pointer of the rotation takes a value (R86). -/
def State.setRotation (s : State) (p : Nat) : State := { s with hif := { s.hif with rrPoll := p } }

/-- One due ring's next slot is read, and marked outstanding (R83). -/
def State.pollRing (s : State) (c : Nat) : State :=
  (s.setCring c { s.cring c with polling := true }).post
    (.pollRead c (s.slotIndex c (s.pollTag c)) (s.tlp (s.tagAddr c (s.pollTag c))))

/-- A poll reads a slot of the due ring that the rotation chooses; whether the pointer moves depends on a tie (R86). -/
theorem exec_commandRingPoll {s : State} {due : List Nat}
    (hxlated : ∀ c ∈ due, s.untranslated false (pagesOf (s.tagAddr c (s.pollTag c)) 64) = [])
    (hdue : ∃ c ∈ due, s.pollable c = true) :
    ∃ c ∈ due, s.pollable c = true ∧ ∃ p, exec (.commandRingPoll due) s = .next ((s.setRotation p).pollRing c) := by
  obtain ⟨c0, hc0, hpoll0⟩ := hdue
  obtain ⟨c, hfirst⟩ := minBy?_of_mem (fun c => (c + 16 - s.hif.rrPoll) % 16) (List.mem_filter.mpr ⟨hc0, hpoll0⟩)
  obtain ⟨hc, hpoll⟩ := List.mem_filter.mp (mem_of_minBy? hfirst)
  have hrot : ∃ p, (if 2 ≤ (due.filter s.pollable).length then { s with hif := { s.hif with rrPoll := (c + 1) % 16 } } else s) =
      s.setRotation p := by
    split
    · exact ⟨_, rfl⟩
    · exact ⟨s.hif.rrPoll, rfl⟩
  obtain ⟨p, hp⟩ := hrot
  have hnone : (s.setRotation p).untranslated false (pagesOf ((s.setRotation p).tagAddr c ((s.setRotation p).pollTag c)) 64) = [] :=
    hxlated c hc
  refine ⟨c, hc, hpoll, p, ?_⟩
  show execCommandRingPoll due s = _
  unfold execCommandRingPoll rotFirst
  dsimp only
  rw [hfirst]
  dsimp only
  rw [hp, hnone]
  rfl

/-! ### A command ring's next turn -/

theorem RegsHif.mono {l m : List Nat} {s t : State} (h : RegsHif l s t) (hm : ∀ a ∈ l, a ∈ m) : RegsHif m s t :=
  ⟨h.eq, fun a ha => h.reg a fun hl => ha (hm a hl)⟩

/-- From `s` to `t` a command ring goes on from `x`: of the registers its status alone may differ, and the pennant rings are the same. -/
structure RingTurns (c : Nat) (x : CRing) (s t : State) : Prop where
  regs : RegsHif [Reg.HIF_CRING_STATUS c] s t
  cring : t.cring c = x
  pring : ∀ m, t.pring m = s.pring m

theorem RingTurns.expTag {c : Nat} {x : CRing} {s t : State} (h : RingTurns c x s t) : t.expTag c = s.expTag c :=
  h.regs.rd (by simp [Reg.HIF_CRING_NEXT, Reg.HIF_CRING_STATUS])

theorem RingTurns.setCring (s : State) (c : Nat) (x : CRing) : RingTurns c x s (s.setCring c x) :=
  ⟨(RegsHif.refl _ s).setCring c x, State.cring_setCring s c x, fun _ => rfl⟩

/-- A register write to the status of the ring, before or after the ring takes its data. -/
theorem RingTurns.wr {c : Nat} {x : CRing} {s t : State} (h : RingTurns c x s t) {f : RegField} (v : Nat)
    (hf : f.addr = Reg.HIF_CRING_STATUS c) : RingTurns c x s (t.wr f v) :=
  ⟨h.regs.wr v (by simp [hf]), (State.cring_wr t f v c).trans h.cring, fun m => (State.pring_wr t f v m).trans (h.pring m)⟩

theorem RingTurns.trans {c : Nat} {x y : CRing} {s t u : State} (h : RingTurns c x s t) (k : RingTurns c y t u) : RingTurns c y s u :=
  ⟨h.regs.trans k.regs, k.cring, fun m => (k.pring m).trans (h.pring m)⟩

theorem RingTurns.refl (c : Nat) (s : State) : RingTurns c (s.cring c) s s := ⟨RegsHif.refl _ s, rfl, fun _ => rfl⟩

/-- A ring whose slot was taken, refused, or cannot be taken yet polls again at once (R83, R114). -/
def CRing.again (x : CRing) : CRing := { x with polling := false, torn := none, idleUs := 0, atOnce := true }

theorem busyRing_turns (s : State) (c : Nat) : RingTurns c (s.cring c).again s (s.busyRing c) := by
  have hactive : RingTurns c (s.cring c) s (if s.cState c = 2 then s.wr (Reg.HIF_CRING_STATUS_STATE c) 1 else s) :=
    ite_both (P := RingTurns c (s.cring c) s) ((RingTurns.refl c s).wr _ rfl) (RingTurns.refl c s)
  unfold State.busyRing
  dsimp only
  generalize (if s.cState c = 2 then s.wr (Reg.HIF_CRING_STATUS_STATE c) 1 else s) = t at hactive
  have hwr := hactive.wr (f := Reg.HIF_CRING_STATUS_INTERVAL c) (t.pollFast c) rfl
  rw [← hwr.cring]
  exact hwr.trans (RingTurns.setCring _ c _)

/-- An empty poll leaves no read outstanding and no torn slot (R83). -/
theorem emptyPoll_turns (s : State) (c : Nat) :
    ∃ x : CRing, x.polling = false ∧ x.wait = (s.cring c).wait ∧ RingTurns c x s (s.emptyPoll c) := by
  unfold State.emptyPoll
  dsimp only
  have hset := fun v x => ((RingTurns.refl c s).wr (f := Reg.HIF_CRING_STATUS_INTERVAL c) v rfl).trans (RingTurns.setCring _ c x)
  exact ⟨{ s.cring c with polling := false, torn := none, idleUs := _, atOnce := false }, rfl, rfl,
    ite_both (P := RingTurns c _ s) ((hset _ _).wr _ rfl) (hset _ _)⟩

/-! ### What a read of a slot finds (R73, R74, R77) -/

/-- A wake event changes the power state and its count alone (R686). -/
theorem wakeUp_regs (s : State) : RegsHif [Reg.PWR_STATUS, Reg.PWR_WAKES] s s.wakeUp := by
  unfold State.wakeUp
  split
  · exact RegsHif.refl _ s
  · split
    · exact (RegsHif.refl _ s).wr 2 (by simp)
    · exact ((RegsHif.refl _ s).wr 0 (by simp)).wr _ (by simp)
    · exact RegsHif.refl _ s

theorem wakeUp_hif (s : State) : s.wakeUp.hif = s.hif := by
  unfold State.wakeUp State.unfurl
  split
  · rfl
  · split
    · exact State.wr_hif s _ 2
    · exact (State.bump_hif _ _ 1).trans (State.wr_hif s _ 0)
    · rfl

theorem cring_wakeUp (s : State) (c : Nat) : s.wakeUp.cring c = s.cring c := by
  unfold State.cring
  rw [wakeUp_hif]

/-- The power state is no word of a command ring. -/
theorem not_mem_power {a : Nat} (h : a < 0x1D00000) : a ∉ [Reg.PWR_STATUS, Reg.PWR_WAKES] := by
  simp only [List.mem_cons, List.not_mem_nil, or_false, Reg.PWR_STATUS, Reg.PWR_WAKES]
  omega

theorem expTag_wakeUp (s : State) {c : Nat} (hc : c < 16) : s.wakeUp.expTag c = s.expTag c :=
  (wakeUp_regs s).rd (not_mem_power (by simp only [Reg.HIF_CRING_NEXT]; omega))

theorem slotRead_busy {s : State} {c : Nat} {x : WaitSlot} (hwait : (s.cring c).wait = some x) (w : BitVec 512) (n : Nat) :
    s.slotRead c w n = s.busyRing c := by
  unfold State.slotRead
  rw [hwait]
  rfl

theorem slotRead_empty {s : State} {c : Nat} {w : BitVec 512} (hwait : (s.cring c).wait = none) (htag : slotTag w ≠ s.expTag c)
    (n : Nat) : s.slotRead c w n = s.emptyPoll c := by
  unfold State.slotRead
  rw [hwait]
  exact if_pos htag

theorem slotRead_torn {s : State} {c n : Nat} {w : BitVec 512} (hwait : (s.cring c).wait = none) (htag : slotTag w = s.expTag c)
    (hecho : slotEcho w ≠ slotTag w) (hn : n < 4) :
    s.slotRead c w n = s.setCring c { s.cring c with polling := false, torn := some n } := by
  unfold State.slotRead
  rw [hwait, if_neg (by simp), if_neg (not_not_intro htag), if_neg hecho, if_neg (by omega)]

theorem slotRead_given_up {s : State} {c n : Nat} {w : BitVec 512} (hwait : (s.cring c).wait = none) (htag : slotTag w = s.expTag c)
    (hecho : slotEcho w ≠ slotTag w) (hn : 4 ≤ n) : s.slotRead c w n = s.refuse c w 0x0105 (slotTag w) (slotEcho w) := by
  unfold State.slotRead
  rw [hwait, if_neg (by simp), if_neg (not_not_intro htag), if_neg hecho, if_pos hn]

theorem slotRead_good {s : State} {c n : Nat} {w : BitVec 512} (hwait : (s.cring c).wait = none) (htag : slotTag w = s.expTag c)
    (hecho : slotEcho w = slotTag w) : s.slotRead c w n = s.takeSlot c w := by
  unfold State.slotRead
  rw [hwait, if_neg (by simp), if_neg (not_not_intro htag), if_pos hecho]

/-- A slot that passes its checks waits for its acceptance (R113). -/
theorem takeSlot_checked {s : State} {c : Nat} {w : BitVec 512} (hfree : s.entryFree = true) (hcheck : s.slotCheck w = none) :
    s.takeSlot c w = (s.wakeUp.busyRing c).setCring c { (s.wakeUp.busyRing c).cring c with wait := some { slot := w } } := by
  unfold State.takeSlot
  rw [hfree, hcheck]
  rfl

/-- A slot that fails a check is refused (R77). -/
theorem takeSlot_refused {s : State} {c code d0 d1 : Nat} {w : BitVec 512} (hfree : s.entryFree = true)
    (hcheck : s.slotCheck w = some (code, d0, d1)) : s.takeSlot c w = s.wakeUp.refuse c w code d0 d1 := by
  unfold State.takeSlot
  rw [hfree, hcheck]
  rfl

theorem exec_slotReadCompletion {s : State} {c : Nat} (hpolling : (s.cring c).polling = true) (w : BitVec 512) :
    exec (.slotReadCompletion c w) s = .next (s.slotRead c w 0) := if_pos hpolling

theorem exec_slotReread {s : State} {c n : Nat} (htorn : (s.cring c).torn = some n) (w : BitVec 512) :
    exec (.slotReread c w) s = .next (s.slotRead c w (n + 1)) := by
  show execSlotReread c w s = _
  unfold execSlotReread
  rw [htorn]

/-! ### A refused slot (R77, R79) -/

/-- The ERROR of a refused slot. -/
def State.refusalPn (s : State) (c : Nat) (w : BitVec 512) (code d0 d1 tag idx : Nat) : Pn :=
  { ty := 0x12, stream := slotPnStream w, job := slotJob w, ct := s.now, err := code, key := .refusal c, ticket := s.ticketNow,
    body := errBody (some (tag, idx, c)) d0 d1 }

/-- The refusal in the error registers of the ring and of HIF (R106). -/
def State.recordRefusal (s : State) (c code d0 d1 : Nat) : State :=
  (s.setErr (Reg.HIF_CRING_ERR c) false (0, 0, 0) code).hifErr code c (s.slotAddr c) d0 d1

theorem recordRefusal_records (s : State) (c code d0 d1 : Nat) :
    Records [Reg.HIF_CRING_ERR c, Reg.HIF_ERR, Reg.HIF_ERR_ADDR_LO, Reg.HIF_ERR_ADDR_HI] s (s.recordRefusal c code d0 d1) :=
  (setErr_records s _ _ _ _).trans (hifErr_records _ _ _ _ _ _)

theorem rd_recordRefusal (s : State) {c : Nat} (code d0 d1 : Nat) (hc : c < 16) {f : RegField}
    (hf : f.addr = Reg.HIF_CRING_CFG c ∨ f.addr = Reg.HIF_CRING_NEXT c) : (s.recordRefusal c code d0 d1).rd f = s.rd f := by
  simp only [Reg.HIF_CRING_CFG, Reg.HIF_CRING_NEXT] at hf
  refine (recordRefusal_records s c code d0 d1).rd f (by omega) (by omega) ?_
  simp only [List.mem_cons, List.not_mem_nil, or_false, Reg.HIF_CRING_ERR, Reg.HIF_ERR, Reg.HIF_ERR_ADDR_LO, Reg.HIF_ERR_ADDR_HI]
  omega

theorem refuse_eq (s : State) (c : Nat) (w : BitVec 512) (code d0 d1 : Nat) :
    s.refuse c w code d0 d1 = ((((s.recordRefusal c code d0 d1).sendTo
      ((s.recordRefusal c code d0 d1).rd (Reg.HIF_CRING_CFG_PRING_ACK c))
      ((s.recordRefusal c code d0 d1).refusalPn c w code d0 d1 (s.expTag c) (s.slotIndex c (s.expTag c)))).busyRing c).advanceTag c) := rfl

/-- What a refusal leaves: its ERROR on PRING_ACK, the next expected tag, and a ring that polls again (R77, R79). -/
structure Refused (c : Nat) (w : BitVec 512) (code : Nat) (s t : State) : Prop where
  error : ∃ p ∈ (t.pring (s.rd (Reg.HIF_CRING_CFG_PRING_ACK c))).ready, p.ty = 0x12 ∧ p.err = code ∧
    p.key = .refusal c ∧ p.job = slotJob w
  tag : t.expTag c = (s.expTag c + 1) % 2 ^ 32
  cring : t.cring c = (s.cring c).again
  jrnl : t.jrnl = s.jrnl

theorem refuse_refused (s : State) {c : Nat} (w : BitVec 512) (code d0 d1 : Nat) (hc : c < 16) :
    Refused c w code s (s.refuse c w code d0 d1) := by
  have hack := rd_recordRefusal s code d0 d1 hc (f := Reg.HIF_CRING_CFG_PRING_ACK c) (.inl rfl)
  have htag : (s.recordRefusal c code d0 d1).expTag c = s.expTag c := rd_recordRefusal s code d0 d1 hc (.inr rfl)
  have hcring : (s.recordRefusal c code d0 d1).cring c = s.cring c := by
    unfold State.cring
    rw [(recordRefusal_records s c code d0 d1).hif]
  refine ⟨?_, ?_, ?_, (State.refuse_keeps (L := 8388635) s c w code d0 d1 rfl (Keeps.refl s)).parts.same .jrnl rfl⟩
  all_goals
    rw [refuse_eq, hack]
    generalize s.recordRefusal c code d0 d1 = u at htag hcring ⊢
  · refine ⟨u.refusalPn c w code d0 d1 (s.expTag c) (s.slotIndex c (s.expTag c)), ?_, rfl, rfl, rfl, rfl⟩
    unfold State.advanceTag
    rw [State.pring_wr, (busyRing_turns _ c).pring, ready_sendTo_same]
    exact mem_insPn _ _
  · rw [← htag]
    unfold State.advanceTag
    rw [(busyRing_turns _ c).expTag]
    exact rd_wr_same _ _ _ (show 0 + 32 ≤ 32 by decide)
  · rw [← hcring]
    unfold State.advanceTag
    rw [State.cring_wr, (busyRing_turns _ c).cring]
    rfl

/-! ### Acceptance (R113) -/

/-- With enough free blocks by the last CONSUMED there is room, and the record is not read (R93). -/
theorem room_of_free {s : State} {m b : Nat} (hread : (s.pring m).cons.isSome = true) (hfree : b ≤ s.freeBlocks m) (consumed : Nat) :
    s.room m b consumed = .room (s.endStall m) := by
  have hneed : s.consNeeded m b = false := by
    unfold State.consNeeded
    rw [Option.isNone_eq_false_iff.mpr hread, Bool.false_or]
    exact decide_eq_false (by omega)
  unfold State.room
  exact if_pos hneed

theorem exec_slotAccept {s : State} {c : Nat} {w : WaitSlot} (hwait : (s.cring c).wait = some w)
    (hmay : s.mayAccept c (s.rd (Reg.HIF_CRING_CFG_PRING_ACK c)) = true)
    (hxlated : s.acceptXlate (s.rd (Reg.HIF_CRING_CFG_PRING_ACK c)) = [])
    (hread : (s.pring (s.rd (Reg.HIF_CRING_CFG_PRING_ACK c))).cons.isSome = true)
    (hfree : 1 ≤ s.freeBlocks (s.rd (Reg.HIF_CRING_CFG_PRING_ACK c))) (consumed : Nat) :
    exec (.slotAccept c consumed) s = .next ((s.endStall (s.rd (Reg.HIF_CRING_CFG_PRING_ACK c))).accept c
      (s.rd (Reg.HIF_CRING_CFG_PRING_ACK c)) w.slot) := by
  show execSlotAccept c consumed s = _
  unfold execSlotAccept
  rw [hwait]
  dsimp only
  rw [hmay, hxlated, room_of_free hread hfree]
  rfl

/-- The emit record of a pennant leaves the accepted commands and the next JOURNAL_INDEX. -/
theorem emitRecord_cmds (s : State) (p : Pn) (m seq : Nat) :
    (s.emitRecord p m seq).jrnl.cmds = s.jrnl.cmds ∧ (s.emitRecord p m seq).jrnl.nextIdx = s.jrnl.nextIdx := by
  unfold State.emitRecord
  split
  · exact ⟨rfl, rfl⟩
  · dsimp only
    split <;> exact ⟨rfl, rfl⟩

/-- Writing an ACCEPT leaves the accepted commands and the next JOURNAL_INDEX. -/
theorem writePn_accept_cmds {s : State} {p : Pn} (hkey : ∃ j, p.key = .cmd j) (hty : p.ty = 0x10) (hfinal : p.final = false) (m : Nat)
    (replayed : Bool) : (s.writePn m p replayed).jrnl.cmds = s.jrnl.cmds ∧ (s.writePn m p replayed).jrnl.nextIdx = s.jrnl.nextIdx := by
  obtain ⟨j, hkey⟩ := hkey
  have hrecord : s.recordPn m p = s.emitRecord p m (s.ringSeq m) := by
    unfold State.recordPn pnCmd
    simp [hkey, hty, hfinal]
  have hposted : Keeps 33554433 (s.recordPn m p) ((s.postPn m p replayed).advanceRing m (1 + p.exts.length)) :=
    State.advanceRing_keeps _ m _ rfl (State.postBlocks_keeps _ m _ _ rfl (Keeps.refl _))
  have hjrnl : (s.writePn m p replayed).jrnl = (s.recordPn m p).jrnl :=
    ((writePn_announces s m p replayed).keeps.parts.same .jrnl rfl).trans (hposted.parts.same .jrnl rfl)
  rw [hjrnl, hrecord]
  exact emitRecord_cmds s p m _

/-- The accepted command (R70, R105). -/
def State.acceptedCmd (s : State) (c : Nat) (w : BitVec 512) : Cmd :=
  { jidx := s.jrnl.nextIdx, slot := w, ring := c, slotIdx := s.slotIndex c (slotTag w), ct := s.now, mono := s.time.mono,
    mark := if slotOpcode w = 0x21 then (s.stream (slotStream w)).nextFrame else 0 }

/-- The entry of an accepted command (R118). -/
def State.acceptedEntry (s : State) (c m : Nat) (w : BitVec 512) : Entry :=
  { st := .accepted, jidx := s.jrnl.nextIdx, slot := w, ring := c, slotIdx := s.slotIndex c (slotTag w), acceptSeq := s.ringSeq m }

/-- The command joins the accepted ones under the next JOURNAL_INDEX, and its entry is written (R113, R118). -/
def State.journaled (s : State) (c m : Nat) (w : BitVec 512) : State :=
  { s.putEntry (s.acceptedEntry c m w) with
    jrnl := { (s.putEntry (s.acceptedEntry c m w)).jrnl with
      cmds := s.jrnl.cmds ++ [s.acceptedCmd c w], nextIdx := (s.jrnl.nextIdx + 1) % 2 ^ 32 } }

/-- The ACCEPT of a command (R78). -/
def State.acceptPn (s : State) (c : Nat) (w : BitVec 512) : Pn :=
  { cmdPn (s.acceptedCmd c w) 0x10 s.now with
    body := packBits [(96, 32, slotTag w), (64, 32, s.jrnl.nextIdx), (48, 16, s.slotIndex c (slotTag w)), (44, 4, c)] }

/-- After its ACCEPT the ring counts the command and goes on to the next tag (R72, R113). -/
def State.acceptedOn (s : State) (c : Nat) (w : BitVec 512) : State :=
  ((s.noteOpen w).bump (Reg.HIF_CRING_ACCEPTED_COUNT c)).advanceTag c

theorem accept_eq (s : State) (c m : Nat) (w : BitVec 512) :
    s.accept c m w = (((s.journaled c m w).writePn m (s.acceptPn c w) false).acceptedOn c w).setCring c
      { (((s.journaled c m w).writePn m (s.acceptPn c w) false).acceptedOn c w).cring c with
        wait := none, idleUs := 0, atOnce := true } := rfl

theorem acceptedOn_jrnl (s : State) (c : Nat) (w : BitVec 512) : (s.acceptedOn c w).jrnl = s.jrnl :=
  (State.advanceTag_keeps (L := 65) _ c rfl (State.bump_keeps _ _ _ rfl (State.noteOpen_keeps s w rfl (Keeps.refl s)))).parts.same .jrnl rfl

/-- What an acceptance does: the slot no longer waits, and the command joins the running ones under the next JOURNAL_INDEX. -/
theorem accept_spec (s : State) (c m : Nat) (w : BitVec 512) :
    ((s.accept c m w).cring c).wait = none ∧ (s.accept c m w).jrnl.nextIdx = (s.jrnl.nextIdx + 1) % 2 ^ 32 ∧
      (s.accept c m w).jrnl.cmds = s.jrnl.cmds ++ [s.acceptedCmd c w] := by
  obtain ⟨hcmds, hidx⟩ := writePn_accept_cmds (s := s.journaled c m w) (p := s.acceptPn c w) ⟨_, rfl⟩ rfl rfl m false
  rw [accept_eq]
  refine ⟨?_, ?_, ?_⟩
  · rw [State.cring_setCring]
  · rw [State.setCring_jrnl, acceptedOn_jrnl, hidx]
    rfl
  · rw [State.setCring_jrnl, acceptedOn_jrnl, hcmds]
    rfl

/-! ### SEQ0 (R104) -/

theorem exec_hifCringSeq0Write {s : State} {c : Nat} (hreaches : reaches s (Reg.HIF_CRING_SEQ0 c)) (hstate : s.cState c = 0)
    (w : BitVec 32) :
    exec (.hifCringSeq0Write c w) s = .next ((s.putFields [Reg.HIF_CRING_SEQ0_SEQ0 c] w).setReg (Reg.HIF_CRING_NEXT c) w) := by
  show execHifCringSeq0Write c w s = _
  unfold execHifCringSeq0Write
  rw [bar_of_reaches hreaches]
  dsimp only
  rw [hstate, if_pos rfl]
  exact congrArg (fun t : State => Host.Outcome.next (t.setReg (Reg.HIF_CRING_NEXT c) w)) (cfgWrite_writable s _ w c _)

/-- A field of 32 bits is the whole register. -/
theorem reg_wr_whole (s : State) (a : Nat) (w : BitVec 32) : (s.wr ⟨a, 0, 32⟩ (bitsOf w.toNat 0 32)).reg a = w := by
  have hput : ∀ x v : Nat, v < 2 ^ 32 → putBits x 0 32 v % 2 ^ 32 = v := fun x v hv => by
    rw [putBits_eq, Nat.zero_add]
    omega
  have hfield : bitsOf w.toNat 0 32 = w.toNat := by
    rw [bitsOf_eq, Nat.pow_zero, Nat.div_one, Nat.mod_eq_of_lt w.isLt]
  unfold State.wr
  rw [reg_setReg_same, hfield]
  exact BitVec.eq_of_toNat_eq (by rw [BitVec.toNat_ofNat]; exact hput _ _ w.isLt)

end Sys2Proof.Machine
end

section
/-! SUPPORT. The claim on the way of a command slot. -/

set_option Elab.async false

namespace Sys2Proof

open Machine

/-- Settles O11: what a read finds decides between an empty poll, a torn slot, a refusal and a waiting slot, and each is one operation. -/
theorem commandSlotsArePolledTakenAndAccepted : Obligations.CommandSlotsArePolledTakenAndAccepted := by
  unfold Obligations.CommandSlotsArePolledTakenAndAccepted
  refine ⟨?poll, ?empty, ?busy, ?torn, ?good, ?refused, ?again, ?givenUp, ?accept, ?seq0⟩
  case poll =>
    intro s due hxlated hdue
    obtain ⟨c, hc, hpoll, p, hexec⟩ := exec_commandRingPoll hxlated hdue
    refine ⟨_, hexec, c, hc, hpoll, ?_, rfl, rfl⟩
    unfold State.pollRing
    rw [State.cring_post, State.cring_setCring]
  case empty =>
    intro s c w hc hpolling hwait htag
    obtain ⟨x, hx, hxwait, hturn⟩ := emptyPoll_turns s c
    have hexec := exec_slotReadCompletion hpolling w
    rw [slotRead_empty hwait htag] at hexec
    exact ⟨_, hexec, (congrArg CRing.polling hturn.cring).trans hx, (congrArg CRing.wait hturn.cring).trans (hxwait.trans hwait),
      hturn.expTag, hturn.regs.eq⟩
  case busy =>
    intro s c w x hc hpolling hwait
    have hturn := busyRing_turns s c
    have hexec := exec_slotReadCompletion hpolling w
    rw [slotRead_busy hwait] at hexec
    exact ⟨_, hexec, congrArg CRing.polling hturn.cring, (congrArg CRing.wait hturn.cring).trans hwait, hturn.expTag, hturn.regs.eq⟩
  case torn =>
    intro s c w hc hpolling hwait htag hecho
    exact ⟨_, exec_slotReadCompletion hpolling w, slotRead_torn hwait htag hecho (by decide)⟩
  case good =>
    intro s c w hc hpolling hwait htag hecho hfree hcheck
    have hbusy := busyRing_turns s.wakeUp c
    have hturn := hbusy.trans (RingTurns.setCring _ c { (s.wakeUp.busyRing c).cring c with wait := some { slot := w } })
    have hregs := (wakeUp_regs s).mono (m := [Reg.PWR_STATUS, Reg.PWR_WAKES, Reg.HIF_CRING_STATUS c]) (by simp)
    have hexec := exec_slotReadCompletion hpolling w
    rw [slotRead_good hwait htag hecho, takeSlot_checked hfree hcheck] at hexec
    exact ⟨_, hexec, congrArg CRing.wait hturn.cring, (congrArg CRing.polling hturn.cring).trans (congrArg CRing.polling hbusy.cring),
      hturn.expTag.trans (expTag_wakeUp s hc), (hregs.trans (hturn.regs.mono (by simp))).eq⟩
  case refused =>
    intro s c w code d0 d1 hc hpolling hwait htag hecho hfree hcheck
    have hrefused := refuse_refused s.wakeUp w code d0 d1 hc
    have hack : s.wakeUp.rd (Reg.HIF_CRING_CFG_PRING_ACK c) = s.rd (Reg.HIF_CRING_CFG_PRING_ACK c) :=
      (wakeUp_regs s).rd (not_mem_power (by simp only [Reg.HIF_CRING_CFG]; omega))
    have hexec := exec_slotReadCompletion hpolling w
    rw [slotRead_good hwait htag hecho, takeSlot_refused hfree hcheck] at hexec
    refine ⟨_, hexec, hack ▸ hrefused.error, ?_, ?_,
      hrefused.jrnl.trans ((State.wakeUp_keeps (L := 1) s rfl (Keeps.refl s)).parts.same .jrnl rfl)⟩
    · rw [hrefused.tag, expTag_wakeUp s hc]
    · rw [hrefused.cring, cring_wakeUp]
      rfl
  case again =>
    intro s c n w hc htorn hwait htag hecho hn
    exact ⟨_, exec_slotReread htorn w, slotRead_torn hwait htag hecho hn⟩
  case givenUp =>
    intro s c n w hc htorn hwait htag hecho hn
    have hrefused := refuse_refused s w 0x0105 (slotTag w) (slotEcho w) hc
    obtain ⟨p, hp, hty, herr, hkey, -⟩ := hrefused.error
    have hexec := exec_slotReread htorn w
    rw [slotRead_given_up hwait htag hecho (by omega)] at hexec
    exact ⟨_, hexec, ⟨p, hp, hty, herr, hkey⟩, hrefused.tag, congrArg CRing.torn hrefused.cring, hrefused.jrnl⟩
  case accept =>
    intro s c consumed w hc hwait hlo hhi hreach hfree hlog hactive hseq hmid hrefusal hxlated hread hroom
    have hmay : s.mayAccept c (s.rd (Reg.HIF_CRING_CFG_PRING_ACK c)) = true := by
      have hactive' : s.rd (Reg.HIF_PRING_STATUS_STATE (s.rd (Reg.HIF_CRING_CFG_PRING_ACK c))) = 1 := hactive
      unfold State.mayAccept
      simp [hlo, hhi, hreach, hfree, hlog, hactive', hseq, hmid, hrefusal]
    have hexec := exec_slotAccept hwait hmay hxlated hread hroom consumed
    generalize s.rd (Reg.HIF_CRING_CFG_PRING_ACK c) = m at hexec
    obtain ⟨hnone, hidx, hcmds⟩ := accept_spec (s.endStall m) c m w.slot
    have hsame := (endStall_rings s m).eq
    refine ⟨_, hexec, hnone, ?_, (s.endStall m).acceptedCmd c w.slot, ?_, ?_, rfl, rfl, ?_, rfl⟩
    · rw [hidx, hsame]
    · rw [hcmds, hsame]
    · exact congrArg (·.jrnl.nextIdx) hsame
    · show (s.endStall m).now = s.now
      rw [hsame]
      rfl
  case seq0 =>
    intro s c w hc hreaches hstate
    have hne : Reg.HIF_CRING_SEQ0 c ≠ Reg.HIF_CRING_NEXT c := by simp only [Reg.HIF_CRING_SEQ0, Reg.HIF_CRING_NEXT]; omega
    refine ⟨_, exec_hifCringSeq0Write hreaches hstate w, ?_, reg_setReg_same _ _ _, rfl, fun a ha => ?_⟩
    · rw [reg_setReg_other _ _ _ _ hne]
      exact reg_wr_whole s _ w
    · simp only [List.mem_cons, List.not_mem_nil, or_false, not_or] at ha
      rw [reg_setReg_other _ _ _ _ ha.2]
      exact reg_wr_other s _ _ _ ha.1

end Sys2Proof
end

section
/-! SUPPORT. Address translation, host reads that fail or are poisoned, and the PCIe link. -/

set_option Elab.async false

namespace Sys2Proof.Machine

/-! ### Invalidations (R64) -/

theorem covers_iff (page npages p : Nat) : covers page npages p = true ↔ page ≤ p ∧ p < page + npages := decide_eq_true_iff

/-- An invalidation drops the entries it covers, and voids the translations in flight that it covers. -/
def State.invalidated (s : State) (tag page npages : Nat) : State :=
  { s with hif := { s.hif with
    atc := s.hif.atc.filter (fun e => !covers page npages e.page)
    xlateVoid := s.hif.xlateVoid ++ s.hif.xlate.filter (fun p => covers page npages p && !s.hif.xlateVoid.contains p)
    invals := s.hif.invals ++ [{ tag := tag, page := page, npages := npages }] } }

theorem exec_atsInvalidateRequest {s : State} (h : s.hif.invals.length < 32) (tag page npages : Nat) :
    exec (.atsInvalidateRequest tag page npages) s = .next (s.invalidated tag page npages) := if_pos h

theorem mem_atc_invalidated (s : State) (tag page npages : Nat) (e : AtcEntry) :
    e ∈ (s.invalidated tag page npages).hif.atc ↔ e ∈ s.hif.atc ∧ ¬(page ≤ e.page ∧ e.page < page + npages) := by
  simp [State.invalidated, List.mem_filter, ← covers_iff]

/-- A covered translation in flight is void. -/
theorem mem_void_invalidated (s : State) (tag : Nat) {page npages p : Nat} (hp : p ∈ s.hif.xlate)
    (hlo : page ≤ p) (hhi : p < page + npages) :
    p ∈ (s.invalidated tag page npages).hif.xlateVoid := by
  have hcovers : covers page npages p = true := (covers_iff page npages p).mpr ⟨hlo, hhi⟩
  by_cases hvoid : p ∈ s.hif.xlateVoid
  · exact List.mem_append_left _ hvoid
  · exact List.mem_append_right _ (List.mem_filter.mpr ⟨hp, by simp [hcovers, hvoid]⟩)

/-- A completed invalidation is no longer in progress, and is counted. -/
def State.invalEnds (s : State) (tag : Nat) : State :=
  (({ s with hif := { s.hif with invals := s.hif.invals.filter (fun x => x.tag != tag) } } : State).setReg
    Reg.HIF_ATS_INVAL (s.reg Reg.HIF_ATS_INVAL + 1)).post (.invalDone tag)

theorem exec_invalidateCompletion {s : State} {tag : Nat} {i : Inval} (h : s.hif.invals.find? (fun i => i.tag == tag) = some i) :
    exec (.invalidateCompletion tag) s =
      .next (if s.atsOn = true ∧ s.usesPages i.page i.npages = true then s else s.invalEnds tag) := by
  show execInvalidateCompletion tag s = _
  unfold execInvalidateCompletion
  rw [h]
  simp only [Bool.and_eq_true]
  exact (apply_ite Host.Outcome.next _ _ _).symm

/-! ### Requests for data that go out (R57, R63) -/

/-- From `s` to `t` only what was sent out may differ. -/
structure OutOnly (s t : State) : Prop where
  eq : t = { s with out := t.out }

theorem OutOnly.refl (s : State) : OutOnly s s := ⟨rfl⟩

theorem OutOnly.trans {s t u : State} (h : OutOnly s t) (k : OutOnly t u) : OutOnly s u := by
  have hu := k.eq
  rw [h.eq] at hu
  exact ⟨hu⟩

theorem OutOnly.foldl {α : Type} {f : State → α → State} (hf : ∀ s x, OutOnly s (f s x)) (l : List α) (s : State) :
    OutOnly s (l.foldl f s) := by
  induction l generalizing s with
  | nil => exact .refl s
  | cons x l ih => exact (hf s x).trans (ih _)

theorem issueRead_out (s : State) (j a n : Nat) (r : Bool) : OutOnly s (s.issueRead j a n r) :=
  OutOnly.foldl (fun _ _ => ⟨rfl⟩) _ s

/-- A read waits for one page less. -/
def Cmd.pageCame (c : Cmd) (page : Nat) : Cmd := { c with reads := c.reads.map (fun r => (r.1, r.2.1, r.2.2.erase page)) }

/-- A translated page is awaited by no read any more; the reads that waited for nothing else go out. -/
theorem xlated_out (s : State) (page : Nat) :
    OutOnly { s with jrnl := { s.jrnl with cmds := s.jrnl.cmds.map (·.pageCame page) } } (s.xlated page) :=
  OutOnly.foldl (fun s _ => issueRead_out s _ _ _ _) _ _

theorem mem_reads_pageCame {c : Cmd} {page : Nat} {r : Nat × Nat × List Nat} (hr : r ∈ c.reads) (hpages : r.2.2 = [page]) :
    (r.1, r.2.1, []) ∈ (c.pageCame page).reads :=
  List.mem_map.mpr ⟨r, hr, by rw [hpages, List.erase_cons_head]⟩

/-! ### Translations that come back (R63 to R65) -/

/-- The translation of a page is no longer in flight. -/
def State.landed (s : State) (page : Nat) : State :=
  { s with hif := { s.hif with
      xlate := s.hif.xlate.filter (fun p => p != page), xlateVoid := s.hif.xlateVoid.filter (fun p => p != page) } }

theorem mem_drop_append_singleton {α : Type} (l : List α) (e : α) {n : Nat} (hn : 0 < n) :
    e ∈ (l ++ [e]).drop ((l ++ [e]).length - n) := by
  rw [List.drop_append_of_le_length (by rw [List.length_append, List.length_singleton]; omega)]
  exact List.mem_append_right _ (List.mem_singleton_self e)

theorem atc_cacheXlate (s : State) (e : AtcEntry) :
    (s.cacheXlate e).hif.atc = (s.hif.atc.filter (fun x => x.page != e.page) ++ [e]).drop
      ((s.hif.atc.filter (fun x => x.page != e.page) ++ [e]).length - 2048) := by
  unfold State.cacheXlate
  with_reducible rfl

/-- The newest entry of the cache is in it (R63). -/
theorem mem_cacheXlate (s : State) (e : AtcEntry) : e ∈ (s.cacheXlate e).hif.atc := by
  rw [atc_cacheXlate]
  exact mem_drop_append_singleton _ e (by decide)

theorem xlated_hif (s : State) (page : Nat) : (s.xlated page).hif = s.hif := by
  rw [(xlated_out s page).eq]

theorem xlated_cmds (s : State) (page : Nat) : (s.xlated page).jrnl.cmds = s.jrnl.cmds.map (·.pageCame page) := by
  rw [(xlated_out s page).eq]

theorem exec_atsTranslation_granted {s : State} {acc : HostAccess} {addr : Nat} {w : Bool} (hon : s.atsOn = true)
    (hflight : s.hif.xlate.contains (addr / 4096) = true) (hvoid : s.hif.xlateVoid.contains (addr / 4096) = false)
    (hperm : accWrites acc = true → w = true) (p : Nat) :
    exec (.atsTranslationCompletion acc addr (some p) w) s =
      .next (((s.landed (addr / 4096)).cacheXlate { page := addr / 4096, phys := p, write := w }).xlated (addr / 4096)) := by
  have hperm' : ¬(accWrites acc = true ∧ w = false) := fun ⟨ha, hw⟩ => by rw [hperm ha] at hw; cases hw
  show execAtsTranslationCompletion acc addr (some p) w s = _
  unfold execAtsTranslationCompletion
  dsimp only
  rw [if_pos ⟨hon, hflight⟩, if_neg hperm', hvoid]
  rfl

theorem exec_atsTranslation_void {s : State} {addr : Nat} (hon : s.atsOn = true) (hflight : s.hif.xlate.contains (addr / 4096) = true)
    (hvoid : s.hif.xlateVoid.contains (addr / 4096) = true) (acc : HostAccess) (p : Nat) :
    exec (.atsTranslationCompletion acc addr (some p) true) s = .next ((s.landed (addr / 4096)).reask (addr / 4096)) := by
  show execAtsTranslationCompletion acc addr (some p) true s = _
  unfold execAtsTranslationCompletion
  dsimp only
  rw [if_pos ⟨hon, hflight⟩, if_neg (by simp), hvoid]
  rfl

theorem exec_atsTranslation_refused {s : State} {addr : Nat} (hon : s.atsOn = true)
    (hflight : s.hif.xlate.contains (addr / 4096) = true) (acc : HostAccess) (w : Bool) :
    exec (.atsTranslationCompletion acc addr none w) s =
      .next (((s.landed (addr / 4096)).hostFails acc addr 0x0108).reask (addr / 4096)) := if_pos ⟨hon, hflight⟩

/-- A translation without write permission is a fault for an access that writes (R65). -/
theorem exec_atsTranslation_readonly {s : State} {acc : HostAccess} {addr : Nat} (hon : s.atsOn = true)
    (hflight : s.hif.xlate.contains (addr / 4096) = true) (hwrites : accWrites acc = true) (p : Nat) :
    exec (.atsTranslationCompletion acc addr (some p) false) s =
      .next (((s.landed (addr / 4096)).hostFails acc addr 0x0108).reask (addr / 4096)) := by
  show execAtsTranslationCompletion acc addr (some p) false s = _
  unfold execAtsTranslationCompletion
  dsimp only
  rw [if_pos ⟨hon, hflight⟩, if_pos ⟨hwrites, rfl⟩]
  rfl

/-- Asking for a page again changes no command, no register and no entry of the cache. -/
theorem reask_reads (s : State) (page : Nat) : ReadsOnly s (s.reask page) := by
  unfold State.reask
  exact ite_both (P := ReadsOnly s) (askXlate_reads s [page]) (.refl s)

theorem rd_reask (s : State) (page : Nat) (f : RegField) : (s.reask page).rd f = s.rd f := by
  unfold State.rd
  rw [(reask_reads s page).reg]

/-! ### Halts (R65, R95, R109) -/

/-- The halt in the error registers of the ring and of HIF (R106, R109). -/
def State.recordHalt (s : State) (c code addr d0 d1 : Nat) : State :=
  (s.setErr (Reg.HIF_CRING_ERR c) false (0, 0, 0) code).hifErr code c addr d0 d1

theorem recordHalt_records (s : State) (c code addr d0 d1 : Nat) :
    Records [Reg.HIF_CRING_ERR c, Reg.HIF_ERR, Reg.HIF_ERR_ADDR_LO, Reg.HIF_ERR_ADDR_HI] s (s.recordHalt c code addr d0 d1) :=
  (setErr_records s _ _ _ _).trans (hifErr_records _ _ _ _ _ _)

/-- A halt leaves STATE 5; the ERROR it sends changes at most the count of lost ones. -/
theorem rd_haltCring (s : State) (c code addr d0 d1 : Nat) {f : RegField} (hf : f.addr ≠ Reg.HIF_SVC_LOST) :
    (s.haltCring c code addr d0 d1).rd f = ((s.recordHalt c code addr d0 d1).wr (Reg.HIF_CRING_STATUS_STATE c) 5).rd f := by
  unfold State.haltCring
  dsimp only
  rw [rd_sendSvc _ _ _ hf]
  rfl

/-- What the halt of a command ring leaves: HALTED, an error in HIF_ERR, and its expected tag. -/
structure CringHalted (c : Nat) (s t : State) : Prop where
  state : t.cState c = 5
  valid : t.rd Reg.HIF_ERR_VALID = 1
  tag : t.expTag c = s.expTag c

theorem haltCring_halted (s : State) {c : Nat} (code addr d0 d1 : Nat) (hc : c < 16) : CringHalted c s (s.haltCring c code addr d0 d1) where
  state := by
    unfold State.cState
    rw [rd_haltCring _ _ _ _ _ _ (by simp only [Reg.HIF_CRING_STATUS, Reg.HIF_SVC_LOST]; omega)]
    exact rd_wr_same _ _ _ (show 0 + 3 ≤ 32 by decide)
  valid := by
    rw [rd_haltCring _ _ _ _ _ _ (by decide), rd_wr_reg _ _ _ _ (by simp only [Reg.HIF_ERR, Reg.HIF_CRING_STATUS]; omega)]
    exact rd_hifErr_valid _ _ _ _ _ _
  tag := by
    unfold State.expTag
    rw [rd_haltCring _ _ _ _ _ _ (by simp only [Reg.HIF_CRING_NEXT, Reg.HIF_SVC_LOST]; omega),
      rd_wr_reg _ _ _ _ (by simp only [Reg.HIF_CRING_NEXT, Reg.HIF_CRING_STATUS]; omega)]
    refine (recordHalt_records s c code addr d0 d1).rd _ (by simp only [Reg.HIF_CRING_NEXT]; omega)
      (by simp only [Reg.HIF_CRING_NEXT]; omega) ?_
    simp only [List.mem_cons, List.not_mem_nil, or_false, Reg.HIF_CRING_NEXT, Reg.HIF_CRING_ERR, Reg.HIF_ERR, Reg.HIF_ERR_ADDR_LO,
      Reg.HIF_ERR_ADDR_HI]
    omega

/-- A failed read of a slot halts a ring in use (R109). -/
theorem hostFails_slot {s : State} {c : Nat} (hc : c < 16) (hlo : 1 ≤ s.cState c) (hhi : s.cState c ≤ 4) (addr code : Nat) :
    CringHalted c s (s.hostFails (.slot c) addr code) := by
  have hhalt : s.hostFails (.slot c) addr code = s.haltCring c code addr (addr % 2 ^ 32) (addr / 2 ^ 32) := if_pos ⟨hlo, hhi⟩
  rw [hhalt]
  exact haltCring_halted s _ _ _ _ hc

theorem hostFails_consumer {s : State} {m : Nat} (hused : s.pringUsed m = true) (addr code : Nat) :
    s.hostFails (.consumer m) addr code = s.haltPring m code addr (addr % 2 ^ 32) (addr / 2 ^ 32) := if_pos hused

theorem hostFails_pennant {s : State} {m : Nat} (hused : s.pringUsed m = true) (addr code : Nat) :
    s.hostFails (.pennant m) addr code = s.haltPring m code addr (addr % 2 ^ 32) (addr / 2 ^ 32) := if_pos hused

theorem exec_hostReadFail {s : State} {acc : HostAccess} (h : s.readsNow acc = true) (addr : Nat) :
    exec (.hostReadFail acc addr) s = .next (s.hostFails acc addr 0x0106) := if_pos h

/-! ### Poisoned reads (R750) -/

/-- The poisoned reads but for those of one access at one address. -/
def State.poisonRest (s : State) (acc : HostAccess) (addr : Nat) : List (HostAccess × Nat × Nat) :=
  s.hif.poison.filter (fun q => !(q.1 == acc && q.2.1 == addr))

/-- The re-reads made of a poisoned read. -/
def State.poisonCount (s : State) (acc : HostAccess) (addr : Nat) : Nat :=
  match s.hif.poison.find? (fun q => q.1 == acc && q.2.1 == addr) with
  | some q => q.2.2
  | none => 0

/-- The count of a poisoned read ends, and AER logs a Poisoned TLP Received. -/
def State.poisonLogged (s : State) (acc : HostAccess) (addr : Nat) : State :=
  ({ s with hif := { s.hif with poison := s.poisonRest acc addr } } : State).aer 12

theorem exec_poisonReread {s : State} {acc : HostAccess} (h : s.readsNow acc = true) (addr : Nat) (clean : Bool) :
    exec (.poisonReread acc addr clean) s = .next (
      if clean = true then s.poisonLogged acc addr
      else if s.poisonCount acc addr + 1 < 3 then
        { s.poisonLogged acc addr with hif := { (s.poisonLogged acc addr).hif with
            poison := s.poisonRest acc addr ++ [(acc, addr, s.poisonCount acc addr + 1)] } }
      else (s.poisonLogged acc addr).hostFails acc addr 0x0107) := by
  rw [apply_ite Host.Outcome.next, apply_ite Host.Outcome.next]
  exact if_pos h

theorem poisonLogged_eq (s : State) (acc : HostAccess) (addr : Nat) :
    s.poisonLogged acc addr =
      { s with hif := { s.hif with poison := s.poisonRest acc addr, cfg := (s.poisonLogged acc addr).hif.cfg } } :=
  aer_eq _ 12

theorem cState_poisonLogged (s : State) (acc : HostAccess) (addr c : Nat) : (s.poisonLogged acc addr).cState c = s.cState c := by
  unfold State.cState State.rd State.poisonLogged
  rw [reg_aer]
  rfl

/-- No poisoned read of the access at the address is left. -/
theorem not_mem_poisonRest {s : State} {acc : HostAccess} {addr : Nat} {q : HostAccess × Nat × Nat} (h : q ∈ s.poisonRest acc addr) :
    ¬(q.1 = acc ∧ q.2.1 = addr) := by
  have hq := (List.mem_filter.mp h).2
  rintro ⟨hacc, haddr⟩
  simp [hacc, haddr] at hq

/-! ### The PCIe link (R50, R51) -/

/-- A lane has failed. -/
def State.laneLost (s : State) (lane : Nat) : State := { s with hif := { s.hif with lanesBad := s.hif.lanesBad ++ [lane] } }

/-- The link at a width; with none it is down (R51). -/
def State.linkAt (s : State) (w : Nat) : State :=
  if w = 0 then ((s.wr Reg.HIF_STATUS_LINK_WIDTH w).wr Reg.HIF_STATUS_LINK_UP 0).wr Reg.HIF_STATUS_LINK_SPEED 0
  else s.wr Reg.HIF_STATUS_LINK_WIDTH w

theorem exec_pcieLaneFailure {s : State} {lane : Nat} (hlane : lane < 16) (hgood : lane ∉ s.hif.lanesBad)
    (hup : s.rd Reg.HIF_STATUS_LINK_UP = 1) :
    exec (.pcieLaneFailure lane) s =
      .next ((s.laneLost lane).linkAt (min (s.rd Reg.HIF_STATUS_LINK_WIDTH) (pcieWidth (s.hif.lanesBad ++ [lane])))) := by
  have hup' : (s.laneLost lane).rd Reg.HIF_STATUS_LINK_UP = 1 := hup
  unfold State.linkAt
  rw [apply_ite Host.Outcome.next]
  show execPcieLaneFailure lane s = _
  unfold execPcieLaneFailure
  rw [if_pos ⟨hlane, by simpa using hgood⟩]
  exact if_pos hup'

/-- What the link at a width shows: its width, and whether it is up. -/
theorem linkAt_spec {s : State} {w : Nat} (hw : w < 32) (hup : s.rd Reg.HIF_STATUS_LINK_UP = 1) :
    (s.linkAt w).rd Reg.HIF_STATUS_LINK_WIDTH = w ∧ ((s.linkAt w).rd Reg.HIF_STATUS_LINK_UP = 0 ↔ w = 0) ∧
      onlyRegs [Reg.HIF_STATUS] s (s.linkAt w) := by
  have hwidth : RegsHif [Reg.HIF_STATUS] s (s.wr Reg.HIF_STATUS_LINK_WIDTH w) := (RegsHif.refl _ s).wr w (by simp)
  unfold State.linkAt
  by_cases h0 : w = 0
  · rw [if_pos h0]
    refine ⟨?_, ?_, ((hwidth.wr 0 (by simp)).wr 0 (by simp)).onlyRegs rfl⟩
    · simp [rd_wr_same, rd_wr_other, Nat.mod_eq_of_lt hw]
    · simp [rd_wr_same, rd_wr_other, h0]
  · rw [if_neg h0]
    refine ⟨?_, ?_, hwidth.onlyRegs rfl⟩
    · simp [rd_wr_same, Nat.mod_eq_of_lt hw]
    · simp [rd_wr_other, hup, h0]

/-- Training completes at a speed and a width (R50). -/
def State.linkTrained (s : State) (speed width : Nat) : State :=
  ((s.wr Reg.HIF_STATUS_LINK_UP 1).wr Reg.HIF_STATUS_LINK_SPEED speed).wr Reg.HIF_STATUS_LINK_WIDTH width

theorem exec_pcieLinkUp {s : State} {speed width : Nat} (hpower : s.pwr.pwrGood = true) (hperst : s.pwr.perstN = true) (h1 : 1 ≤ speed)
    (h5 : speed ≤ 5) (hwidth : width ∈ [16, 8, 4, 1]) (hlanes : width ≤ pcieWidth s.hif.lanesBad) :
    exec (.pcieLinkUp speed width) s = .next (s.linkTrained speed width) :=
  if_pos ⟨hpower, hperst, h1, h5, List.contains_iff_mem.mpr hwidth, hlanes⟩

end Sys2Proof.Machine
end

section
/-! SUPPORT. The claim on translations, failed reads and the link. -/

set_option Elab.async false

namespace Sys2Proof

open Machine

/-- Settles O19: translations come and go in the lists of HIF, a failed access ends in the halt of its ring,
and the link is one register. -/
theorem translationsFailedReadsAndTheLink : Obligations.TranslationsFailedReadsAndTheLink := by
  unfold Obligations.TranslationsFailedReadsAndTheLink
  refine ⟨?invalidate, ?complete, ?granted, ?void, ?slotRefused, ?readonly, ?slotFails, ?consumerFails, ?clean, ?poisoned, ?third, ?lane,
    ?linkUp⟩
  case invalidate =>
    intro s tag page npages hroom
    exact ⟨_, exec_atsInvalidateRequest hroom tag page npages, fun e he => (mem_atc_invalidated s tag page npages e).mp he,
      fun e he hout => (mem_atc_invalidated s tag page npages e).mpr ⟨he, hout⟩,
      fun p hp hlo hhi => mem_void_invalidated s tag hp hlo hhi, rfl, rfl⟩
  case complete =>
    intro s tag i hfind
    refine ⟨_, exec_invalidateCompletion hfind, ?_⟩
    split
    · rfl
    · refine ⟨rfl, reg_setReg_same _ _ _, fun x hx => ?_, rfl, fun a ha => reg_setReg_other _ _ _ _ (by simpa using ha)⟩
      simpa using (List.mem_filter.mp hx).2
  case granted =>
    intro s acc addr p w hon hflight hvoid hperm
    refine ⟨_, exec_atsTranslation_granted hon hflight hvoid hperm p, ?_, ?_, fun q hq r hr hpages => ?_, ?_⟩
    · rw [xlated_hif]
      exact mem_cacheXlate _ _
    · rw [xlated_hif]
      simp [State.cacheXlate, State.landed]
    · rw [xlated_cmds]
      exact ⟨q.pageCame (addr / 4096), List.mem_map_of_mem hq, rfl, mem_reads_pageCame hr hpages⟩
    · rw [(xlated_out _ _).eq]
      simp only [State.cacheXlate, State.landed]
  case void =>
    intro s acc addr p hon hflight hvoid
    refine ⟨_, exec_atsTranslation_void hon hflight hvoid acc p, ?_⟩
    rw [(reask_reads _ _).eq]
    rfl
  case slotRefused =>
    intro s c addr w hc hon hflight hlo hhi
    have hhalted := hostFails_slot (s := s.landed (addr / 4096)) hc hlo hhi addr 0x0108
    exact ⟨_, exec_atsTranslation_refused hon hflight (.slot c) w, (rd_reask _ _ _).trans hhalted.state,
      (rd_reask _ _ _).trans hhalted.valid⟩
  case readonly =>
    intro s m addr p hm hon hflight hused
    have hfails := hostFails_pennant (s := s.landed (addr / 4096)) hused addr 0x0108
    refine ⟨_, exec_atsTranslation_readonly hon hflight rfl p, ?_⟩
    rw [hfails]
    exact ⟨(rd_reask _ _ _).trans (pState_haltPring _ _ _ _ _), (rd_reask _ _ _).trans (rd_haltPring_valid _ _ _ _ _ _)⟩
  case slotFails =>
    intro s c addr hc hreads hlo hhi
    have hhalted := hostFails_slot hc hlo hhi addr 0x0106
    exact ⟨_, exec_hostReadFail hreads addr, hhalted.state, hhalted.valid, hhalted.tag⟩
  case consumerFails =>
    intro s m addr hm hused
    have hexec := exec_hostReadFail (acc := .consumer m) hused addr
    rw [hostFails_consumer hused] at hexec
    exact ⟨_, hexec, pState_haltPring _ _ _ _ _, rd_haltPring_valid _ _ _ _ _ _, produced_haltPring _ _ _ _ _ hm⟩
  case clean =>
    intro s acc addr hreads
    have hexec := exec_poisonReread hreads addr true
    rw [if_pos rfl] at hexec
    have hlogged := poisonLogged_eq s acc addr
    refine ⟨_, hexec, fun q hq => ?_, ?_⟩
    · rw [hlogged] at hq
      exact not_mem_poisonRest hq
    · rw [hlogged]
  case poisoned =>
    intro s acc addr hreads hfirst
    have hcount : s.poisonCount acc addr = 0 := by
      unfold State.poisonCount
      rw [hfirst]
    have hexec := exec_poisonReread hreads addr false
    rw [if_neg Bool.false_ne_true, hcount, if_pos (by decide)] at hexec
    refine ⟨_, hexec, List.mem_append_right _ (List.mem_singleton_self _), ?_, ?_⟩
    · rw [bitsOf_one_eq_one_iff, BitVec.testBit_toNat]
      exact cfgReg_aer_bit _ (by decide)
    · rw [poisonLogged_eq]
  case third =>
    intro s c addr hc hreads hlo hhi hsecond
    have hcount : s.poisonCount (.slot c) addr = 2 := by
      unfold State.poisonCount
      rw [hsecond]
    have hexec := exec_poisonReread hreads addr false
    rw [if_neg Bool.false_ne_true, hcount, if_neg (by decide)] at hexec
    have hstate := cState_poisonLogged s (.slot c) addr c
    have hhalted := hostFails_slot (s := s.poisonLogged (.slot c) addr) hc (by omega) (by omega) addr 0x0107
    exact ⟨_, hexec, hhalted.state, hhalted.valid⟩
  case lane =>
    intro s lane hlane hgood hup
    have hwidth : s.rd Reg.HIF_STATUS_LINK_WIDTH < 2 ^ 5 := rd_lt s _
    obtain ⟨hshown, hdown, honly⟩ := linkAt_spec (s := s.laneLost lane)
      (w := min (s.rd Reg.HIF_STATUS_LINK_WIDTH) (pcieWidth (s.hif.lanesBad ++ [lane]))) (by omega) hup
    have hhif : ((s.laneLost lane).linkAt (min (s.rd Reg.HIF_STATUS_LINK_WIDTH) (pcieWidth (s.hif.lanesBad ++ [lane])))).hif =
        (s.laneLost lane).hif := by rw [honly.1]
    refine ⟨_, exec_pcieLaneFailure hlane hgood hup, ?_, hshown, hdown, ?_⟩
    · rw [hhif]
      exact List.mem_append_right _ (List.mem_singleton_self lane)
    · rw [hhif]
      exact honly
  case linkUp =>
    intro s speed width hpower hperst h1 h5 hwidth hlanes
    have hspeed : speed < 16 := by omega
    have hwide : width < 32 := by
      simp only [List.mem_cons, List.not_mem_nil, or_false] at hwidth
      omega
    refine ⟨_, exec_pcieLinkUp hpower hperst h1 h5 hwidth hlanes, ?_, ?_, ?_,
      ((((RegsHif.refl _ s).wr _ (by simp)).wr _ (by simp)).wr _ (by simp)).onlyRegs rfl⟩
    · simp [State.linkTrained, rd_wr_same, rd_wr_other]
    · simp [State.linkTrained, rd_wr_same, rd_wr_other, Nat.mod_eq_of_lt hspeed]
    · simp [State.linkTrained, rd_wr_same, Nat.mod_eq_of_lt hwide]

end Sys2Proof
end

section
/-! SUPPORT. The journal's configuration, enable, disable, recovery and drain, operation by operation. -/

set_option Elab.async false

namespace Sys2Proof.Machine

/-! ### The configuration of the journal (R115, R116) -/

/-- The sizes that a written word carries are in range (R115, R116). -/
def legalSizes (w : BitVec 32) : Prop :=
  10 ≤ bitsOf w.toNat 8 5 ∧ bitsOf w.toNat 8 5 ≤ 22 ∧ 8 ≤ bitsOf w.toNat 0 5 ∧ bitsOf w.toNat 0 5 ≤ 16

/-- A journal out of use takes the sizes that are written. -/
def State.jrnlTake (s : State) (w : BitVec 32) : State :=
  s.putFields [Reg.HIF_JRNL_CFG_LOG2_EMIT, Reg.HIF_JRNL_CFG_LOG2_ENTRIES] w

theorem jrnlCfg_unused {s : State} (henable : s.rd Reg.HIF_JRNL_CFG_ENABLE = 0) (hdraining : s.rd Reg.HIF_JRNL_CFG_DRAINING = 0)
    (w : BitVec 32) : s.jrnlCfg w = s.jrnlTake w := by
  have hunused : s.jInUse = false := decide_eq_false (by omega)
  unfold State.jrnlCfg
  rw [hunused]
  exact cfgWrite_writable s _ w 63 _

theorem jrnlCfg_current {s : State} {w : BitVec 32} (hused : s.rd Reg.HIF_JRNL_CFG_ENABLE = 1 ∨ s.rd Reg.HIF_JRNL_CFG_DRAINING = 1)
    (hemit : bitsOf w.toNat 8 5 = s.rd Reg.HIF_JRNL_CFG_LOG2_EMIT)
    (hentries : bitsOf w.toNat 0 5 = s.rd Reg.HIF_JRNL_CFG_LOG2_ENTRIES) : s.jrnlCfg w = s := by
  have hinuse : s.jInUse = true := decide_eq_true hused
  unfold State.jrnlCfg
  rw [hinuse]
  exact cfgWrite_current (by simp [hemit, hentries]) 63 _

theorem RegsHif.jrnl {l : List Nat} {s t : State} (h : RegsHif l s t) : t.jrnl = s.jrnl := by rw [h.eq]

theorem jrnlTake_regs (s : State) (w : BitVec 32) : RegsHif [Reg.HIF_JRNL_CFG, Reg.HIF_STATUS] s (s.jrnlTake w) :=
  ((RegsHif.refl _ s).wr _ (by simp)).wr _ (by simp)

/-- Taking the sizes keeps the bits of the word above them. -/
theorem rd_jrnlTake_high (s : State) (w : BitVec 32) {lo n : Nat} (h : 13 ≤ lo) :
    (s.jrnlTake w).rd ⟨Reg.HIF_JRNL_CFG, lo, n⟩ = s.rd ⟨Reg.HIF_JRNL_CFG, lo, n⟩ := by
  show ((s.wr _ _).wr _ _).rd _ = _
  rw [rd_wr_other _ _ _ _ (by decide) (.inr (.inr (show 0 + 5 ≤ lo by omega))),
    rd_wr_other _ _ _ _ (by decide) (.inr (.inr (show 8 + 5 ≤ lo by omega)))]

theorem emit_jrnlTake (s : State) (w : BitVec 32) : (s.jrnlTake w).rd Reg.HIF_JRNL_CFG_LOG2_EMIT = bitsOf w.toNat 8 5 := by
  have hlt : bitsOf w.toNat 8 5 < 32 := bitsOf_lt _ _ _
  simp [State.jrnlTake, State.putFields, rd_wr_same, rd_wr_other, Nat.mod_eq_of_lt hlt]

theorem entries_jrnlTake (s : State) (w : BitVec 32) : (s.jrnlTake w).rd Reg.HIF_JRNL_CFG_LOG2_ENTRIES = bitsOf w.toNat 0 5 := by
  have hlt : bitsOf w.toNat 0 5 < 32 := bitsOf_lt _ _ _
  simp [State.jrnlTake, State.putFields, rd_wr_same, Nat.mod_eq_of_lt hlt]

/-- The sizes that an enable takes are legal by the word alone. -/
theorem jrnlOk_jrnlTake_iff (s : State) (w : BitVec 32) : (s.jrnlTake w).jrnlOk = true ↔ legalSizes w := by
  unfold State.jrnlOk legalSizes
  simp only [decide_eq_true_eq]
  rw [emit_jrnlTake, entries_jrnlTake]

/-- A refused write of the journal's configuration leaves the configuration and the journal. -/
theorem jrnlCfgErr_spec (s : State) (w : BitVec 32) :
    (s.jrnlCfgErr w).reg Reg.HIF_JRNL_CFG = s.reg Reg.HIF_JRNL_CFG ∧ (s.jrnlCfgErr w).rd Reg.HIF_ERR_VALID = 1 ∧
      (s.jrnlCfgErr w).jrnl = s.jrnl := by
  have hrecords := hifErr_records s 0x010A 63 Reg.HIF_JRNL_CFG Reg.HIF_JRNL_CFG w.toNat
  exact ⟨hrecords.reg _ (by decide) (by decide) (by decide), rd_hifErr_valid _ _ _ _ _ _, hrecords.jrnl⟩

/-! ### Enables with RECOVER 0 and 1 (R116 to R118) -/

/-- The journal holds nothing, and no enable is latched. -/
def State.emptyJrnl (s : State) : State :=
  { s with jrnl := { s.jrnl with
      entries := [], nextIdx := 0, log := [], logPos := 0, ordinals := [], latched := false, reachable := true
      breached := false, rebuilding := false, reexecuted := 0 } }

/-- The journal comes into use with an enable that asks for no recovery. -/
def State.jrnlUp (s : State) : State :=
  (((s.wr Reg.HIF_JRNL_CFG_ENABLE 1).wr Reg.HIF_JRNL_CFG_RECOVER 0).wr Reg.HIF_JRNL_CFG_MIRROR_VALID 1).wr Reg.HIF_STATUS_JRNL_OK 1

theorem jrnlUp_regs (s : State) : RegsHif [Reg.HIF_JRNL_CFG, Reg.HIF_STATUS] s s.jrnlUp :=
  ((((RegsHif.refl _ s).wr _ (by simp)).wr _ (by simp)).wr _ (by simp)).wr _ (by simp)

/-- What a journal that comes into use shows. -/
theorem rd_jrnlUp (s : State) :
    s.jrnlUp.rd Reg.HIF_JRNL_CFG_ENABLE = 1 ∧ s.jrnlUp.rd Reg.HIF_JRNL_CFG_RECOVER = 0 ∧
      s.jrnlUp.rd Reg.HIF_JRNL_CFG_LOG2_EMIT = s.rd Reg.HIF_JRNL_CFG_LOG2_EMIT ∧
      s.jrnlUp.rd Reg.HIF_JRNL_CFG_LOG2_ENTRIES = s.rd Reg.HIF_JRNL_CFG_LOG2_ENTRIES ∧
      s.jrnlUp.rd Reg.HIF_STATUS_JRNL_OK = 1 ∧ s.jrnlUp.rd Reg.HIF_JRNL_CFG_MIRROR_VALID = 1 := by
  unfold State.jrnlUp
  simp [rd_wr_same, rd_wr_other]

/-- A journal that is enabled with RECOVER 1. -/
def State.jrnlReopened (s : State) (w : BitVec 32) : State :=
  ((s.jrnlTake w).wr Reg.HIF_JRNL_CFG_ENABLE 1).wr Reg.HIF_JRNL_CFG_RECOVER 1

theorem jrnlReopened_regs (s : State) (w : BitVec 32) : RegsHif [Reg.HIF_JRNL_CFG, Reg.HIF_STATUS] s (s.jrnlReopened w) :=
  ((jrnlTake_regs s w).wr _ (by simp)).wr _ (by simp)

theorem enable_jrnlReopened (s : State) (w : BitVec 32) : (s.jrnlReopened w).rd Reg.HIF_JRNL_CFG_ENABLE = 1 := by
  simp [State.jrnlReopened, rd_wr_same, rd_wr_other]

theorem mirror_jrnlReopened (s : State) (w : BitVec 32) :
    (s.jrnlReopened w).rd Reg.HIF_JRNL_CFG_MIRROR_VALID = s.rd Reg.HIF_JRNL_CFG_MIRROR_VALID := by
  unfold State.jrnlReopened
  rw [rd_wr_other _ _ _ _ (by decide) (by decide), rd_wr_other _ _ _ _ (by decide) (by decide), rd_jrnlTake_high s w (by decide)]

section Unused

variable {s : State} (hreaches : reaches s Reg.HIF_JRNL_CFG) (henable : s.rd Reg.HIF_JRNL_CFG_ENABLE = 0)
  (hdraining : s.rd Reg.HIF_JRNL_CFG_DRAINING = 0) {w : BitVec 32}
include hreaches henable hdraining

theorem exec_jrnlEnable_unused :
    exec (.jrnlEnable w) s = .next (if (s.jrnlTake w).jrnlOk = true then (s.emptyJrnl.jrnlTake w).jrnlUp
      else ((s.jrnlTake w).wr Reg.HIF_JRNL_CFG_RECOVER 0).jrnlCfgErr w) := by
  show execJrnlEnable w s = _
  unfold execJrnlEnable
  rw [bar_of_reaches hreaches, jrnlCfg_unused henable hdraining]
  dsimp only
  rw [rd_jrnlTake_high s w (by decide), rd_jrnlTake_high s w (by decide), hdraining, henable]
  cases (s.jrnlTake w).jrnlOk <;> rfl

/-- With the sizes in range JRNL_RECOVER recovers (R118, R130). -/
theorem exec_jrnlRecover_unused (hlegal : legalSizes w) (host : Option (List (BitVec 1024) × List (BitVec 128))) :
    exec (.jrnlRecover w host) s = .next ((s.jrnlReopened w).recover host) := by
  show execJrnlRecover w host s = _
  unfold execJrnlRecover
  rw [bar_of_reaches hreaches, jrnlCfg_unused henable hdraining]
  dsimp only
  rw [rd_jrnlTake_high s w (by decide), rd_jrnlTake_high s w (by decide), hdraining, henable, (jrnlOk_jrnlTake_iff s w).mpr hlegal]
  rfl

end Unused

/-- An enable that finds the journal draining with its sizes is latched (R116). -/
theorem exec_jrnlEnable_draining {s : State} (hreaches : reaches s Reg.HIF_JRNL_CFG) (hdraining : s.rd Reg.HIF_JRNL_CFG_DRAINING = 1)
    {w : BitVec 32} (hemit : bitsOf w.toNat 8 5 = s.rd Reg.HIF_JRNL_CFG_LOG2_EMIT)
    (hentries : bitsOf w.toNat 0 5 = s.rd Reg.HIF_JRNL_CFG_LOG2_ENTRIES) :
    exec (.jrnlEnable w) s = .next { s with jrnl := { s.jrnl with latched := true } } := by
  show execJrnlEnable w s = _
  unfold execJrnlEnable
  rw [bar_of_reaches hreaches, jrnlCfg_current (.inr hdraining) hemit hentries]
  exact if_pos hdraining

/-! ### Recovery (R123, R130, R751) -/

theorem insBy_perm {α : Type} (le : α → α → Bool) (x : α) (l : List α) : (insBy le x l).Perm (x :: l) := by
  induction l with
  | nil => exact .refl _
  | cons y l ih =>
    unfold insBy
    split
    · exact .refl _
    · exact (ih.cons y).trans (.swap x y l)

theorem sortBy_perm {α : Type} (le : α → α → Bool) (l : List α) : (sortBy le l).Perm l := by
  induction l with
  | nil => exact .refl _
  | cons x l ih => exact (insBy_perm le x _).trans (ih.cons x)

/-- The journal that a recovery makes of entries and a log: its entries that are live are commands again, and the log is packed. -/
def State.restoredJrnl (s : State) (entries : Tbl Entry) (log : List (Nat × EmitRec)) : Jrnl :=
  let es := entries.map (·.2)
  let packed := packLog es (log.map (·.2))
  let live := sortBy (fun a b => a.jidx == b.jidx || seqBefore a.jidx b.jidx) (es.filter Entry.live)
  { s.jrnl with
    entries := entries
    nextIdx := match latestIdx es with | some j => (j + 1) % 2 ^ 32 | none => 0
    log := packed.zipIdx.map (fun (r, i) => (i, some r))
    logPos := packed.length % s.logSize, ordinals := [], cmds := live.map (recoverCmd s es), reexecuted := live.length
    reachable := true }

/-- A recovery re-executes as many commands as entries are live (R130). -/
theorem length_cmds_restoredJrnl (s : State) (entries : Tbl Entry) (log : List (Nat × EmitRec)) :
    (s.restoredJrnl entries log).cmds.length = (entries.filter (fun e => e.2.live)).length := by
  have hlive : ((entries.map (·.2)).filter Entry.live).length = (entries.filter (fun e => e.2.live)).length := by
    rw [List.filter_map, List.length_map]
    rfl
  rw [← hlive, ← (sortBy_perm (fun a b : Entry => a.jidx == b.jidx || seqBefore a.jidx b.jidx) _).length_eq]
  exact List.length_map _

/-- Once the journal is restored, the rings, the ACCEPTs, the streams and the posted log change HIF, the streams and what was sent out
alone; the two flags follow. -/
theorem startRecovery_eq (s : State) (entries : Tbl Entry) (log : List (Nat × EmitRec)) :
    ∃ u, Keeps 33554498 { s with jrnl := s.restoredJrnl entries log } u ∧
      s.startRecovery entries log =
        (u.wr Reg.HIF_JRNL_CFG_RECOVERING 1).wr Reg.HIF_STATUS_JRNL_OK (u.rd Reg.HIF_JRNL_CFG_ENABLE) := by
  refine ⟨_, ?_, rfl⟩
  refine Keeps.foldl (Keeps.foldl (Keeps.foldl (Keeps.foldl (Keeps.refl _) ?rings) ?accepts) ?streams) ?records
  case rings => exact fun t m ht => State.setPring_keeps t m _ rfl ht
  case accepts => exact fun t c ht => State.sendTo_keeps t _ _ rfl ht
  case streams =>
    exact fun t c ht => Keeps.ite (fun _ => State.setStream_keeps t _ _ rfl ht) fun _ =>
      Keeps.ite (fun _ => State.setStream_keeps t _ _ rfl ht) fun _ => ht
  case records => exact fun t i ht => State.postRec_keeps t i rfl ht

/-- What a recovery leaves: RECOVERING, JRNL_OK as ENABLE, and the restored journal. -/
theorem startRecovery_spec (s : State) (entries : Tbl Entry) (log : List (Nat × EmitRec)) :
    (s.startRecovery entries log).rd Reg.HIF_JRNL_CFG_RECOVERING = 1 ∧
      (s.startRecovery entries log).rd Reg.HIF_STATUS_JRNL_OK = s.rd Reg.HIF_JRNL_CFG_ENABLE ∧
      (s.startRecovery entries log).jrnl = s.restoredJrnl entries log := by
  obtain ⟨u, hkeeps, heq⟩ := startRecovery_eq s entries log
  have hregs : u.regs = s.regs := hkeeps.parts.same .regs rfl
  have hjrnl : u.jrnl = s.restoredJrnl entries log := hkeeps.parts.same .jrnl rfl
  have henable : u.rd Reg.HIF_JRNL_CFG_ENABLE = s.rd Reg.HIF_JRNL_CFG_ENABLE := by
    unfold State.rd State.reg
    rw [hregs]
  have hlt : s.rd Reg.HIF_JRNL_CFG_ENABLE < 2 := rd_lt s _
  rw [heq, henable]
  refine ⟨?_, ?_, ?_⟩
  · simp [rd_wr_same, rd_wr_other]
  · simp [rd_wr_same, Nat.mod_eq_of_lt hlt]
  · rw [State.wr_jrnl, State.wr_jrnl, hjrnl]

/-- What keeps all but registers, HIF, the journal, the streams and what was sent out changes these alone. -/
theorem Keeps.eq_recovery {s t : State} (h : Keeps 33554503 s t) :
    t = { s with regs := t.regs, hif := t.hif, jrnl := t.jrnl, streams := t.streams, out := t.out } := by
  refine eq_of_same_parts (fun p => ?_) h.pending
  have hsame := h.parts.same p
  cases p with
  | regs | hif | jrnl | streams | out => rfl
  | _ => exact hsame rfl

/-- A journal that recovers from its valid mirror, enabled with the sizes of a word. -/
def State.mirrorRecovered (s : State) (w : BitVec 32) : State := (s.jrnlReopened w).startRecovery s.jrnl.entries s.mirrorLog

/-- A recovery from the mirror keeps the entries, and each live one is a command again. -/
theorem mirrorRecovered_spec (s : State) (w : BitVec 32) :
    (s.mirrorRecovered w).rd Reg.HIF_JRNL_CFG_RECOVERING = 1 ∧ (s.mirrorRecovered w).rd Reg.HIF_STATUS_JRNL_OK = 1 ∧
      (s.mirrorRecovered w).jrnl.entries = s.jrnl.entries ∧
      (s.mirrorRecovered w).jrnl.cmds.length = (s.jrnl.entries.filter (fun e => e.2.live)).length := by
  obtain ⟨hrecovering, hok, hjrnl⟩ := startRecovery_spec (s.jrnlReopened w) s.jrnl.entries s.mirrorLog
  unfold State.mirrorRecovered
  rw [hjrnl]
  exact ⟨hrecovering, hok.trans (enable_jrnlReopened s w), rfl, length_cmds_restoredJrnl _ _ _⟩

theorem mirrorRecovered_eq (s : State) (w : BitVec 32) :
    s.mirrorRecovered w = { s with regs := (s.mirrorRecovered w).regs, hif := (s.mirrorRecovered w).hif, jrnl := (s.mirrorRecovered w).jrnl,
                                   streams := (s.mirrorRecovered w).streams, out := (s.mirrorRecovered w).out } :=
  (State.startRecovery_keeps _ _ _ rfl (State.wr_keeps _ _ _ rfl (State.wr_keeps _ _ _ rfl
    (State.wr_keeps _ _ _ rfl (State.wr_keeps _ _ _ rfl (Keeps.refl s)))))).eq_recovery

theorem exec_jrnlRecover_mirror {s : State} (hreaches : reaches s Reg.HIF_JRNL_CFG) (henable : s.rd Reg.HIF_JRNL_CFG_ENABLE = 0)
    (hdraining : s.rd Reg.HIF_JRNL_CFG_DRAINING = 0) {w : BitVec 32} (hlegal : legalSizes w)
    (hmirror : s.rd Reg.HIF_JRNL_CFG_MIRROR_VALID = 1) (host : Option (List (BitVec 1024) × List (BitVec 128))) :
    exec (.jrnlRecover w host) s = .next (s.mirrorRecovered w) := by
  rw [exec_jrnlRecover_unused hreaches henable hdraining hlegal]
  unfold State.recover State.mirrorRecovered State.mirrorLog
  rw [if_pos ((mirror_jrnlReopened s w).trans hmirror), (jrnlReopened_regs s w).jrnl]

/-! ### JRNL_DISABLE and the end of the drain (R116) -/

/-- A journal in use begins to drain, RECOVER as the word says. -/
def State.jrnlDrains (s : State) (w : BitVec 32) : State :=
  (((s.wr Reg.HIF_JRNL_CFG_RECOVER (bitsOf w.toNat 30 1)).wr Reg.HIF_JRNL_CFG_ENABLE 0).wr Reg.HIF_JRNL_CFG_DRAINING 1).wr
    Reg.HIF_STATUS_JRNL_OK 0

theorem jrnlDrains_onlyRegs (s : State) (w : BitVec 32) : onlyRegs [Reg.HIF_JRNL_CFG, Reg.HIF_STATUS] s (s.jrnlDrains w) :=
  RegsHif.onlyRegs (((((RegsHif.refl _ s).wr _ (by simp)).wr _ (by simp)).wr _ (by simp)).wr _ (by simp))
    (by simp [State.jrnlDrains])

theorem rd_jrnlDrains (s : State) (w : BitVec 32) :
    (s.jrnlDrains w).rd Reg.HIF_JRNL_CFG_ENABLE = 0 ∧ (s.jrnlDrains w).rd Reg.HIF_JRNL_CFG_DRAINING = 1 ∧
      (s.jrnlDrains w).rd Reg.HIF_STATUS_JRNL_OK = 0 := by
  unfold State.jrnlDrains
  simp [rd_wr_same, rd_wr_other]

theorem exec_jrnlDisable_used {s : State} (hreaches : reaches s Reg.HIF_JRNL_CFG) (hrings : ∀ c, c < 16 → s.cState c = 0)
    (henable : s.rd Reg.HIF_JRNL_CFG_ENABLE = 1) {w : BitVec 32} (hemit : bitsOf w.toNat 8 5 = s.rd Reg.HIF_JRNL_CFG_LOG2_EMIT)
    (hentries : bitsOf w.toNat 0 5 = s.rd Reg.HIF_JRNL_CFG_LOG2_ENTRIES) :
    exec (.jrnlDisable w) s = .next (s.jrnlDrains w) := by
  have hdisabled : ¬(List.range 16).any (fun c => s.cState c != 0) = true := by
    simpa using hrings
  have hstill : (s.wr Reg.HIF_JRNL_CFG_RECOVER (bitsOf w.toNat 30 1)).rd Reg.HIF_JRNL_CFG_ENABLE = 1 := by
    rw [rd_wr_other _ _ _ _ (by decide) (by decide), henable]
  show execJrnlDisable w s = _
  unfold execJrnlDisable
  rw [bar_of_reaches hreaches, if_neg hdisabled, jrnlCfg_current (.inl henable) hemit hentries]
  exact if_pos hstill

/-- A disable while a command ring is in use is refused (R116). -/
theorem exec_jrnlDisable_refused {s : State} {c : Nat} (hreaches : reaches s Reg.HIF_JRNL_CFG) (hc : c < 16) (hring : s.cState c ≠ 0)
    (w : BitVec 32) : exec (.jrnlDisable w) s = .next (s.jrnlCfgErr w) := by
  show execJrnlDisable w s = _
  unfold execJrnlDisable
  rw [bar_of_reaches hreaches]
  exact if_pos (List.any_eq_true.mpr ⟨c, List.mem_range.mpr hc, by simpa using hring⟩)

/-- A store to a register and a change of the journal commute. -/
theorem wr_withJrnl (s : State) (j : Jrnl) (f : RegField) (v : Nat) :
    ({ s with jrnl := j } : State).wr f v = { s.wr f v with jrnl := j } := rfl

/-- No enable is latched. -/
def State.unlatched (s : State) : State := { s with jrnl := { s.jrnl with latched := false } }

/-- A drain that ends with an enable latched: the journal is in use as before. -/
def State.jrnlResumes (s : State) : State :=
  ((s.unlatched.wr Reg.HIF_JRNL_CFG_DRAINING 0).wr Reg.HIF_JRNL_CFG_ENABLE 1).wr Reg.HIF_STATUS_JRNL_OK (if s.jrnl.reachable then 1 else 0)

theorem jrnlResumes_regs (s : State) : RegsHif [Reg.HIF_JRNL_CFG, Reg.HIF_STATUS] s.unlatched s.jrnlResumes :=
  (((RegsHif.refl _ _).wr _ (by simp)).wr _ (by simp)).wr _ (by simp)

theorem rd_jrnlResumes (s : State) :
    s.jrnlResumes.rd Reg.HIF_JRNL_CFG_DRAINING = 0 ∧ s.jrnlResumes.rd Reg.HIF_JRNL_CFG_ENABLE = 1 := by
  unfold State.jrnlResumes
  simp [rd_wr_same, rd_wr_other]

section Drained

variable {s : State} (hdraining : s.rd Reg.HIF_JRNL_CFG_DRAINING = 1)
  (hnone : s.jrnl.entries.all (fun e => e.2.st != .accepted) = true)
include hdraining hnone

theorem exec_jrnlDrainEnd_unlatched (hlatched : s.jrnl.latched = false) :
    exec .jrnlDrainEnd s = .next (s.wr Reg.HIF_JRNL_CFG_DRAINING 0) := by
  show execJrnlDrainEnd s = _
  unfold execJrnlDrainEnd
  rw [if_pos ⟨hdraining, hnone⟩]
  dsimp only
  rw [State.wr_jrnl, if_neg (ne_true_of_eq_false hlatched)]

theorem exec_jrnlDrainEnd_latched (hlatched : s.jrnl.latched = true) : exec .jrnlDrainEnd s = .next s.jrnlResumes := by
  show execJrnlDrainEnd s = _
  unfold execJrnlDrainEnd
  rw [if_pos ⟨hdraining, hnone⟩]
  dsimp only
  rw [State.wr_jrnl, if_pos hlatched]
  unfold State.jrnlResumes State.unlatched
  rw [wr_withJrnl s { s.jrnl with latched := false }, wr_withJrnl _ { s.jrnl with latched := false },
    wr_withJrnl _ { s.jrnl with latched := false }]

end Drained

/-! ### RECOVERY_END and MIRROR_REBUILD_DONE (R127, R134) -/

theorem sendSvc_regsHif (s : State) (p : Pn) : RegsHif [Reg.HIF_SVC_LOST] s (s.sendSvc p) :=
  ⟨sendSvc_eq s p, fun a ha => reg_sendSvc s p a (List.ne_of_not_mem_cons ha)⟩

theorem RegsHif.foldl {α : Type} {l : List Nat} {f : State → α → State} (hf : ∀ s x, RegsHif l s (f s x)) (xs : List α) (s : State) :
    RegsHif l s (xs.foldl f s) := by
  induction xs generalizing s with
  | nil => exact .refl l s
  | cons x xs ih => exact (hf s x).trans (ih _)

/-- The end of a recovery sends the pieces of the RECOVERY STAT, and RECOVERING clears. -/
theorem exec_recoveryEnd {s : State} (h : s.rd Reg.HIF_JRNL_CFG_RECOVERING = 1) :
    ∃ ps : List Pn, exec .recoveryEnd s = .next ((ps.foldl State.sendSvc s).wr Reg.HIF_JRNL_CFG_RECOVERING 0) :=
  ⟨_, if_pos h⟩

/-- The mirror is valid again. -/
def State.mirrorRebuilt (s : State) : State :=
  ({ s with jrnl := { s.jrnl with rebuilding := false } } : State).wr Reg.HIF_JRNL_CFG_MIRROR_VALID 1

theorem exec_mirrorRebuildDone {s : State} (h : s.jrnl.rebuilding = true) : exec .mirrorRebuildDone s = .next s.mirrorRebuilt := if_pos h

end Sys2Proof.Machine
end

section
/-! SUPPORT. The claim on the journal's enable, drain and recovery. -/

set_option Elab.async false

namespace Sys2Proof

open Machine

/-- Settles O15: each command's next state is a few writes to HIF_JRNL_CFG and HIF_STATUS beside one change of the journal; a recovery
keeps the registers from the restoring of the journal up to its two flags. -/
theorem journalEnablesDrainsAndRecovers : Obligations.JournalEnablesDrainsAndRecovers := by
  unfold Obligations.JournalEnablesDrainsAndRecovers
  intro good
  refine ⟨?empty, ?illegal, ?latch, ?recover, ?disable, ?refused, ?drained, ?recovered, ?rebuilt⟩
  case empty =>
    intro s w hreaches henable hdraining hgood
    have hexec := exec_jrnlEnable_unused hreaches henable hdraining (w := w)
    rw [if_pos ((jrnlOk_jrnlTake_iff s w).mpr hgood)] at hexec
    obtain ⟨hon, hrecover, hemit, hentries, hok, hmirror⟩ := rd_jrnlUp (s.emptyJrnl.jrnlTake w)
    have hregs := (jrnlTake_regs s.emptyJrnl w).trans (jrnlUp_regs _)
    refine ⟨_, hexec, hon, hrecover, hemit.trans (emit_jrnlTake _ w), hentries.trans (entries_jrnlTake _ w), hok, hmirror, ?_⟩
    rw [hregs.jrnl]
    have honly := hregs.onlyRegs (by simp [State.jrnlUp, State.jrnlTake, State.putFields])
    exact ⟨rfl, rfl, rfl, fun a h1 h2 => hregs.reg a (by simp [h1, h2]), honly.1⟩
  case illegal =>
    intro s w hreaches henable hdraining hbad
    have hexec := exec_jrnlEnable_unused hreaches henable hdraining (w := w)
    rw [if_neg (mt (jrnlOk_jrnlTake_iff s w).mp hbad)] at hexec
    obtain ⟨hreg, hvalid, hjrnl⟩ := jrnlCfgErr_spec ((s.jrnlTake w).wr Reg.HIF_JRNL_CFG_RECOVER 0) w
    refine ⟨_, hexec, ?_, hvalid, hjrnl⟩
    unfold State.rd
    rw [hreg]
    exact ((rd_wr_other _ _ _ _ (by decide) (by decide)).trans (rd_jrnlTake_high s w (by decide))).trans henable
  case latch =>
    intro s w hreaches hdraining hemit hentries
    exact ⟨_, exec_jrnlEnable_draining hreaches hdraining hemit hentries, rfl⟩
  case recover =>
    intro s w host hreaches henable hdraining hgood hmirror
    obtain ⟨hrecovering, hok, hentries, hcmds⟩ := mirrorRecovered_spec s w
    exact ⟨_, exec_jrnlRecover_mirror hreaches henable hdraining hgood hmirror host, hrecovering, hok, hentries, hcmds,
      mirrorRecovered_eq s w⟩
  case disable =>
    intro s w hreaches hrings henable hemit hentries
    obtain ⟨hoff, hdrains, hok⟩ := rd_jrnlDrains s w
    exact ⟨_, exec_jrnlDisable_used hreaches hrings henable hemit hentries, hoff, hdrains, hok, jrnlDrains_onlyRegs s w⟩
  case refused =>
    intro s w c hreaches hc hring
    exact ⟨_, exec_jrnlDisable_refused hreaches hc hring w, jrnlCfgErr_spec s w⟩
  case drained =>
    intro s hdraining hnone
    cases hlatched : s.jrnl.latched with
    | false =>
      have hsame : { s.jrnl with latched := false } = s.jrnl := by rw [← hlatched]
      refine ⟨_, exec_jrnlDrainEnd_unlatched hdraining hnone hlatched, rd_wr_same _ _ _ (by decide), hlatched,
        rd_wr_other _ _ _ _ (by decide) (by decide), rfl, ?_⟩
      rw [hsame]
      rfl
    | true =>
      obtain ⟨hended, hon⟩ := rd_jrnlResumes s
      refine ⟨_, exec_jrnlDrainEnd_latched hdraining hnone hlatched, hended, ?_⟩
      rw [(jrnlResumes_regs s).jrnl]
      exact ⟨rfl, hon, rfl, ((jrnlResumes_regs s).onlyRegs (by simp [State.jrnlResumes, State.unlatched])).1⟩
  case recovered =>
    intro s hrecovering
    obtain ⟨ps, hexec⟩ := exec_recoveryEnd hrecovering
    have hregs : RegsHif [Reg.HIF_SVC_LOST, Reg.HIF_JRNL_CFG] s ((ps.foldl State.sendSvc s).wr Reg.HIF_JRNL_CFG_RECOVERING 0) :=
      ((RegsHif.foldl sendSvc_regsHif ps s).mono (by simp)).wr 0 (by simp)
    exact ⟨_, hexec, rd_wr_same _ _ _ (by decide), hregs.jrnl, hregs.eq⟩
  case rebuilt =>
    intro s hrebuilding
    exact ⟨_, exec_mirrorRebuildDone hrebuilding, rd_wr_same _ _ _ (show 29 + 1 ≤ 32 by decide), rfl, fun a ha => reg_wr_other _ _ 1 a ha⟩

end Sys2Proof
end

section
/-! SUPPORT. Committing a node of a job that has another node still open: the job stays in flight with the output, and the pennants that
wait on the rings stay. -/

set_option Elab.async false

namespace Sys2Proof.Machine

/-! ### The pennant rings -/

/-- The pennant rings are the same. -/
structure SameRings (s t : State) : Prop where
  prings : t.hif.prings = s.hif.prings

theorem SameRings.refl (s : State) : SameRings s s := ⟨rfl⟩

theorem SameRings.trans {s t u : State} (h : SameRings s t) (k : SameRings t u) : SameRings s u := ⟨k.prings.trans h.prings⟩

theorem SameRings.of_hif {s t u : State} (h : SameRings s t) (hif : u.hif = t.hif) : SameRings s u := ⟨by rw [hif, h.prings]⟩

/-- An operation that keeps the host interface. -/
theorem SameRings.keeps {L : Nat} {s t u : State} (h : SameRings s t) (k : Keeps L t u) (hhif : L.testBit 1 = false) : SameRings s u :=
  h.of_hif (k.parts.same .hif hhif)

theorem SameRings.foldl {α : Type} {s t : State} {f : State → α → State} (h : SameRings s t) (hf : ∀ u x, SameRings u (f u x))
    (l : List α) : SameRings s (l.foldl f t) := by
  induction l generalizing t with
  | nil => exact h
  | cons x l ih => exact ih (h.trans (hf t x))

theorem SameRings.pring {s t : State} (h : SameRings s t) (m : Nat) : t.pring m = s.pring m := by
  unfold State.pring
  rw [h.prings]

/-- A device-level pennant joins the queue of the service ring, and no ring (R97). -/
theorem SameRings.sendSvc {s t : State} (h : SameRings s t) (p : Pn) : SameRings s (t.sendSvc p) := by
  unfold State.sendSvc
  exact ite_both (P := SameRings s) ⟨h.prings⟩ ⟨h.prings⟩

theorem SameRings.devError {s t : State} (h : SameRings s t) (code d0 d1 : Nat) : SameRings s (t.devError code d0 d1) := h.sendSvc _

theorem SameRings.poolErr {s t : State} (h : SameRings s t) (code wh d0 d1 : Nat) : SameRings s (t.poolErr code wh d0 d1) :=
  h.of_hif (poolErr_records t code wh d0 d1).hif

theorem SameRings.setPool {s t : State} (h : SameRings s t) (c : Nat) (x : PoolCls) : SameRings s (t.setPool c x) := ⟨h.prings⟩

theorem SameRings.cnt {s t : State} (h : SameRings s t) (id scope n : Nat) : SameRings s (t.cnt id scope n) := ⟨h.prings⟩

theorem SameRings.setReg {s t : State} (h : SameRings s t) (a : Nat) (v : BitVec 32) : SameRings s (t.setReg a v) := ⟨h.prings⟩

theorem SameRings.wr {s t : State} (h : SameRings s t) (f : RegField) (v : Nat) : SameRings s (t.wr f v) := ⟨h.prings⟩

theorem SameRings.poolNote {s t : State} (h : SameRings s t) (c : Nat) : SameRings s (t.poolNote c) := by
  unfold State.poolNote
  dsimp only
  have hnoted := fun a b d e f g => (((h.setReg a b).wr d e).wr f g).wr
  split
  · exact ((((hnoted _ _ _ _ _ _ _ _).wr _ _).cnt _ _ _).poolErr _ _ _ _).setPool _ _ |>.devError _ _ _
  · split
    · exact (hnoted _ _ _ _ _ _ _ _).setPool _ _
    · exact hnoted _ _ _ _ _ _ _ _

/-- A buffer that is freed leaves the pennants that wait (R581). -/
theorem free1_rings (s : State) (c i : Nat) : SameRings s (s.free1 c i) := by
  unfold State.free1
  dsimp only
  split
  · exact ((SameRings.refl s).poolErr _ _ _ _).devError _ _ _
  · have hcounted := fun f v a b n d e g => (((SameRings.refl s).wr f v).cnt a b n).cnt d e g
    split
    · refine .poolNote (.foldl (.keeps (.wr (.wr ((hcounted _ _ _ _ _ _ _ _).setPool _ _) _ _) _ _)
        (State.poolShrink_keeps (L := 8388633) _ c rfl (.refl _)) rfl) (fun t f => ?_) _) c
      exact (SameRings.refl t).keeps (State.unplace_keeps (L := 524288) t f rfl (.refl t)) rfl
    · exact .poolNote (.keeps (.keeps (.wr ((hcounted _ _ _ _ _ _ _ _).setPool _ _) _ _)
        (State.spill_keeps (L := 131072) _ c rfl (.refl _)) rfl) (State.listHead_keeps (L := 1) _ c rfl (.refl _)) rfl) c

theorem SameRings.freeAll {s t : State} (h : SameRings s t) (c : Nat) (l : List Nat) : SameRings s (t.freeAll c l) :=
  h.foldl (fun t i => free1_rings t c i) l

/-! ### What the end of a node's work leaves (R175, R575, R641) -/

theorem SameRings.releasePic {s t : State} (h : SameRings s t) (id : Nat) : SameRings s (t.releasePic id) := by
  unfold State.releasePic
  dsimp only
  split
  · exact h
  · split
    · split
      · exact h
      · refine ite_both (P := SameRings s) h (SameRings.foldl ?_ ?_ _)
        · exact ⟨h.prings⟩
        · exact fun u b => (SameRings.refl u).freeAll b.1 b.2
    · exact h

theorem SameRings.releaseTile {s t : State} (h : SameRings s t) (x : HeldTile) : SameRings s (t.releaseTile x) := by
  unfold State.releaseTile
  dsimp only
  refine SameRings.keeps (SameRings.freeAll ?_ x.bufs.1 x.bufs.2) (State.answerTile_keeps (L := 34603009) _ _ _ _ rfl (.refl _)) rfl
  exact ⟨h.prings⟩

theorem SameRings.releaseWhole {s t : State} (h : SameRings s t) (id : Nat) : SameRings s (t.releaseWhole id) := by
  unfold State.releaseWhole
  split
  · exact h
  · refine h.foldl (fun u x => ?_) _
    dsimp only
    split
    · exact .refl u
    · exact ite_both (P := SameRings u) ((SameRings.refl u).releaseTile x) (.refl u)

theorem SameRings.retirePlans {s t : State} (h : SameRings s t) : SameRings s t.retirePlans := by
  unfold State.retirePlans
  refine SameRings.foldl ?_ ?_ _
  · exact ⟨h.prings⟩
  · exact fun u r => (SameRings.refl u).freeAll r.cls r.bufs

theorem SameRings.releasePlan {s t : State} (h : SameRings s t) (id : Nat) : SameRings s (t.releasePlan id) := by
  unfold State.releasePlan
  split
  · exact h
  · refine ite_both (P := SameRings s) h ?_
    unfold State.retire
    dsimp only
    split
    · exact h
    · refine ite_both (P := SameRings s) h (.retirePlans ?_)
      exact ⟨h.prings⟩

/-- From `j` to `k` at most plan copies, the stations of nodes and the lists of tile jobs that are not yet ready differ. -/
structure SameResults (j k : Job) : Prop where
  eq : k = { j with nodes := k.nodes, plan := k.plan }
  node : ∀ n, k.node n = { j.node n with station := (k.node n).station, unready := (k.node n).unready }

theorem SameResults.refl (j : Job) : SameResults j j := ⟨rfl, fun _ => rfl⟩

theorem SameResults.trans {j k l : Job} (h : SameResults j k) (g : SameResults k l) : SameResults j l :=
  ⟨by rw [g.eq, h.eq], fun n => by rw [g.node n, h.node n]⟩

theorem SameWork.results {j k : Job} (h : SameWork j k) : SameResults j k :=
  ⟨by rw [h.eq], fun n => by rw [h.node n]⟩

theorem SameResults.ran {j k : Job} (h : SameResults j k) (n : Nat) : (k.node n).ran = (j.node n).ran := by rw [h.node n]
theorem SameResults.committed {j k : Job} (h : SameResults j k) (n : Nat) : (k.node n).committed = (j.node n).committed := by rw [h.node n]
theorem SameResults.out {j k : Job} (h : SameResults j k) (n : Nat) : (k.node n).out = (j.node n).out := by rw [h.node n]
theorem SameResults.prog {j k : Job} (h : SameResults j k) : k.prog = j.prog := by rw [h.eq]
theorem SameResults.route {j k : Job} (h : SameResults j k) : k.route = j.route := by rw [h.eq]
theorem SameResults.shadow {j k : Job} (h : SameResults j k) : k.shadow = j.shadow := by rw [h.eq]

/-- The job, when it is in flight, stays so with the same results. -/
def KeepsResults (id : Nat) (s t : State) : Prop := ∀ j, s.job? id = some j → ∃ k, t.job? id = some k ∧ SameResults j k

theorem KeepsResults.refl (id : Nat) (s : State) : KeepsResults id s s := fun j h => ⟨j, h, SameResults.refl j⟩

theorem KeepsResults.trans {id : Nat} {s t u : State} (h : KeepsResults id s t) (g : KeepsResults id t u) : KeepsResults id s u := by
  intro j hj
  obtain ⟨k, hk, hjk⟩ := h j hj
  obtain ⟨l, hl, hkl⟩ := g k hk
  exact ⟨l, hl, hjk.trans hkl⟩

theorem KeepsResults.of_jobs (id : Nat) {s t : State} (h : t.jobs = s.jobs) : KeepsResults id s t :=
  fun j hj => ⟨j, (job_of h id).trans hj, SameResults.refl j⟩

/-- An operation that keeps the jobs. -/
theorem KeepsResults.keeps {L id : Nat} {s t u : State} (h : KeepsResults id s t) (k : Keeps L t u) (hjobs : L.testBit 13 = false) :
    KeepsResults id s u := h.trans (.of_jobs id (k.parts.same .jobs hjobs))

theorem KeepsWork.results {id : Nat} {s t : State} (h : KeepsWork id s t) : KeepsResults id s t := by
  intro j hj
  obtain ⟨k, hk, hjk⟩ := h j hj
  exact ⟨k, hk, hjk.results⟩

theorem KeepsResults.foldl {α : Type} {id : Nat} {f : State → α → State} (hf : ∀ s x, KeepsResults id s (f s x)) (l : List α)
    (s : State) : KeepsResults id s (l.foldl f s) := by
  induction l generalizing s with
  | nil => exact .refl id s
  | cons x l ih => exact (hf s x).trans (ih _)

/-- Plan copies that no node reads any more leave the job, and nothing else of it (R575). -/
theorem releasePlan_results (s : State) (id : Nat) : KeepsResults id s (s.releasePlan id) := by
  unfold State.releasePlan
  split
  · exact .refl id s
  next j hj =>
    refine ite_both (P := KeepsResults id s) (.refl id s) ?_
    obtain rfl := id_of_job hj
    unfold State.retire
    dsimp only
    split
    · exact .refl _ s
    next l _ =>
      refine ite_both (P := KeepsResults j.id s) (.refl _ s) (KeepsResults.keeps ?_ (State.retirePlans_keeps (L := 9109531) _ rfl (.refl _)) rfl)
      intro x hx
      exact ⟨_, job_planned _ hx, rfl, fun _ => rfl⟩

/-- The SGS nodes that have become ready take their stations, and nothing else changes (R488). -/
theorem seatNodes_results (s : State) (id : Nat) : KeepsResults id s (s.seatNodes id) := by
  unfold State.seatNodes
  split
  · exact .refl id s
  · refine ite_both (P := KeepsResults id s) (.refl id s) (.foldl (fun t q => ?_) _ s)
    refine ite_both (P := KeepsResults id t) (fun x hx => ?_) (.refl id t)
    refine ⟨_, (job_updNode t id q.2 _).trans (congrArg _ hx), rfl, fun n => ?_⟩
    by_cases hn : n = q.2
    · subst hn
      rw [node_setNode_same]
    · rw [node_setNode_other _ _ _ _ hn]

/-! ### Committing a node (R347) -/

/-- What follows the commit of a node of the job, but for the end of the job. -/
def State.released (s : State) (id : Nat) : State := (((s.releasePic id).releaseWhole id).releasePlan id).seatNodes id

theorem released_results (s : State) (id : Nat) : KeepsResults id s (s.released id) := by
  have hpic := (KeepsResults.refl id s).keeps (State.releasePic_keeps (L := 9044123) s id rfl (.refl s)) rfl
  have hwhole := hpic.keeps (State.releaseWhole_keeps (L := 43647003) _ id rfl (.refl _)) rfl
  exact (hwhole.trans (releasePlan_results _ id)).trans (seatNodes_results _ id)

theorem SameRings.released {s t : State} (h : SameRings s t) (id : Nat) : SameRings s (t.released id) :=
  (((h.releasePic id).releaseWhole id).releasePlan id).keeps (State.seatNodes_keeps (L := 8192) _ id rfl (.refl _)) rfl

/-- What follows the commit changes no program. -/
theorem released_progs (s : State) (id : Nat) : (s.released id).progs = s.progs := by
  have hpic := State.releasePic_keeps (L := 43720923) s id rfl (.refl s)
  have hplan := State.releasePlan_keeps (L := 43720923) _ id rfl (State.releaseWhole_keeps (L := 43720923) _ id rfl hpic)
  exact (State.seatNodes_keeps (L := 43720923) _ id rfl hplan).parts.same .progs rfl

/-- An open node stays open while another node of the job changes. -/
theorem openBeside_setNode {s t : State} {j : Job} {n : Nat} (h : openBeside s j n) (hprogs : t.progs = s.progs) (x : NodeSt) :
    openBeside t (j.setNode n x) n := by
  obtain ⟨m, hm, hne, hopen⟩ := h
  refine ⟨m, ?_, hne, ?_⟩
  · unfold State.prog
    rw [hprogs]
    exact hm
  · rw [node_setNode_other _ _ _ _ hne]
    exact hopen

/-- A node's output is committed while another node of the job is open: the job stays in flight with that output (R278, R347). -/
theorem commitNode_open {s : State} {id n : Nat} {j : Job} (out : NodeOut) (h : s.job? id = some j) (hopen : openBeside s j n) :
    SameRings s (s.commitNode id n out) ∧ ∃ k on, (s.commitNode id n out).job? id = some k ∧
      SameResults (j.setNode n { j.node n with ran := true, committed := true, out := out, on := on }) k := by
  obtain ⟨m, hm, hne, hno⟩ := hopen
  unfold State.commitNode
  rw [h]
  dsimp only
  generalize (if (j.node n).grid.isNone && s.inStore j n then [(0, 0, s.storeCore j)] else (j.node n).on) = on
  generalize ht : s.updNode id n (fun x => { x with ran := true, committed := true, out := out, on := on }) = t
  have hjob : t.job? id = some (j.setNode n { j.node n with ran := true, committed := true, out := out, on := on }) := by
    rw [← ht, job_updNode, h]
    rfl
  obtain ⟨k, hk, hsame⟩ := released_results t id _ hjob
  have hend : (t.released id).tryEnd id = t.released id := by
    refine tryEnd_open hk (k := m) ?_ ?_
    · unfold State.prog
      rw [released_progs, hsame.prog, hsame.route, ← ht]
      exact hm
    · rw [hsame.committed, node_setNode_other _ _ _ _ hne]
      exact hno
  change SameRings s ((t.released id).tryEnd id) ∧ ∃ k on, ((t.released id).tryEnd id).job? id = some k ∧ _
  rw [hend]
  exact ⟨.released (by rw [← ht]; exact ⟨rfl⟩) id, k, on, hk, hsame⟩

end Sys2Proof.Machine
end

section
/-! SUPPORT. The nodes that are no tile jobs: GATHER, DECODE, SHAPE, CROP_RESIZE, EMIT, TBL_LOAD, TBL_SWITCH and OPT_STEP. -/

set_option Elab.async false

namespace Sys2Proof.Machine

/-! ### Nodes that have committed -/

theorem job_of_nodeFor {s : State} {id node opc : Nat} {j : Job} {w : Nat} (h : s.nodeFor id node opc = some (j, w)) :
    s.job? id = some j := by
  unfold State.nodeFor at h
  split at h
  · cases h
  next k hk =>
    split at h
    · cases h
    · split at h
      · cases h
        exact hk
      · cases h

theorem openBeside_of_progs {s t : State} {j : Job} {n : Nat} (h : openBeside s j n) (hprogs : t.progs = s.progs) : openBeside t j n := by
  unfold openBeside State.prog
  rw [hprogs]
  exact h

theorem nodeDone_of_jobs {s t : State} {id n : Nat} {out : NodeOut} (h : nodeDone s id n out) (hjobs : t.jobs = s.jobs) :
    nodeDone t id n out := by
  obtain ⟨j, hj, hdone⟩ := h
  exact ⟨j, (job_of hjobs id).trans hj, hdone⟩

theorem nodeDone_of_results {s t : State} {id n : Nat} {out : NodeOut} (h : nodeDone s id n out) (hsame : KeepsResults id s t) :
    nodeDone t id n out := by
  obtain ⟨j, hj, hran, hcommitted, hout⟩ := h
  obtain ⟨k, hk, hjk⟩ := hsame j hj
  exact ⟨k, hk, (hjk.ran n).trans hran, (hjk.committed n).trans hcommitted, (hjk.out n).trans hout⟩

/-- The commit of a node beside an open one (R347). -/
theorem commitNode_nodeDone {s : State} {id n : Nat} {j : Job} (out : NodeOut) (h : s.job? id = some j) (hopen : openBeside s j n) :
    nodeDone (s.commitNode id n out) id n out := by
  obtain ⟨-, k, on, hk, hsame⟩ := commitNode_open out h hopen
  refine ⟨k, hk, ?_, ?_, ?_⟩
  · rw [hsame.ran, node_setNode_same]
  · rw [hsame.committed, node_setNode_same]
  · rw [hsame.out, node_setNode_same]

/-! ### GATHER (R283, R284) -/

/-- GATHER commits its bytes: COUNT samples, all the job's own. -/
def State.gathered (s : State) (j : Job) (job node : Nat) (bytes : List Nat) : State :=
  ((s.updNode job node (fun x => { x with count := j.count.getD 1, own := List.range (j.count.getD 1) })).commitNode job node
    (.bytes bytes)).wake job

theorem gathered_nodeDone {s : State} {j : Job} {job node : Nat} (bytes : List Nat) (h : s.job? job = some j)
    (hopen : openBeside s j node) : nodeDone (s.gathered j job node bytes) job node (.bytes bytes) := by
  refine nodeDone_of_results (commitNode_nodeDone (.bytes bytes)
    (j := j.setNode node { j.node node with count := j.count.getD 1, own := List.range (j.count.getD 1) }) ?_ ?_) (wake_work _ job).results
  · rw [job_updNode, h]
    rfl
  · exact openBeside_setNode hopen rfl _

/-- A program segment is read without a request to host memory (R283). -/
theorem operandRead_segment (s : State) (j : Job) {w : Nat} (n : Nat) (hfrom : gaFrom w = 0) : s.operandRead j w n = (s, true) := by
  unfold State.operandRead
  split
  · split
    · exact if_pos (.inl hfrom)
    · rfl
  · rfl

theorem exec_gather_operand {s : State} {job node n : Nat} {j : Job} {w a g : Nat} {e : BitVec 128} (data : List Nat)
    (hnode : s.nodeFor job node 0x10 = some (j, w)) (hfrom : gaFrom w ≠ 0) (hoperand : j.operands[gaSeg w]? = some (a, g))
    (hn : n = if gaLength w = 0 then g - gaOffset w else gaLength w) (hfits : gaOffset w + n ≤ g)
    (hentry : (s.prog j.prog).plan[wPlan w]? = some e) (hplan : n ≤ planSize e) (hread : (s.operandRead j w n).2 = true) :
    exec (.gather job node data) s =
      .next ((s.operandRead j w n).1.gathered j job node ((padTo n 0 (data.map (· % 256))).take n)) := by
  show execGather job node data s = _
  have hread : s.operandRead j w n = ((s.operandRead j w n).1, true) := Prod.ext rfl hread
  unfold execGather
  rw [hnode]
  dsimp only
  rw [if_neg hfrom, hoperand]
  dsimp only
  rw [← hn, hentry]
  dsimp only
  rw [if_neg (by omega), hread]
  dsimp only
  rw [if_neg hfrom]
  rfl

theorem exec_gather_segment {s : State} {job node n : Nat} {j : Job} {w : Nat} {e : BitVec 128} (data : List Nat)
    (hnode : s.nodeFor job node 0x10 = some (j, w)) (hfrom : gaFrom w = 0)
    (hn : n = if gaLength w = 0 then (s.segOf j (gaSeg w)).length - gaOffset w else gaLength w)
    (hfits : gaOffset w + n ≤ (s.segOf j (gaSeg w)).length) (hentry : (s.prog j.prog).plan[wPlan w]? = some e) (hplan : n ≤ planSize e) :
    exec (.gather job node data) s = .next (s.gathered j job node (((s.segOf j (gaSeg w)).drop (gaOffset w)).take n)) := by
  show execGather job node data s = _
  unfold execGather
  rw [hnode]
  dsimp only
  rw [if_pos hfrom, ← hn, hentry]
  dsimp only
  rw [if_neg (by omega), operandRead_segment s j n hfrom]
  dsimp only
  rw [if_pos hfrom]
  rfl

/-- An operand shorter than what GATHER takes of it (R284). -/
theorem exec_gather_short {s : State} {job node : Nat} {j : Job} {w a g : Nat} (data : List Nat)
    (hnode : s.nodeFor job node 0x10 = some (j, w)) (hfrom : gaFrom w ≠ 0) (hoperand : j.operands[gaSeg w]? = some (a, g))
    (hlength : gaLength w ≠ 0) (hshort : g < gaOffset w + gaLength w) :
    exec (.gather job node data) s = .next (s.faultJob j node 0x050C (gaSeg w) g) := by
  show execGather job node data s = _
  unfold execGather
  rw [hnode]
  dsimp only
  rw [if_neg hfrom, if_neg hlength, hoperand]
  exact if_pos (.inl hshort)

/-! ### DECODE (R182) -/

/-- DECODE counts the cells that gating leaves out, if any, and commits the activity map. -/
theorem exec_decode_commits {s : State} {job node : Nat} {j : Job} {w : Nat} {p : Pic} (hnode : s.nodeFor job node 0x20 = some (j, w))
    (hpic : s.dec.pics.find? (fun p => p.stream == j.stream && p.frame.seq == j.frameSeq) = some p) :
    ∃ t : State, t.jobs = s.jobs ∧ t.progs = s.progs ∧
      exec (.decode job node) s = .next (t.commitNode job node (.map (cdiv p.w 16) (cdiv p.h 16) p.cells p.noPrev)) := by
  show ∃ t : State, t.jobs = s.jobs ∧ t.progs = s.progs ∧ execDecode job node s = _
  unfold execDecode
  rw [hnode]
  dsimp only
  rw [hpic]
  refine ⟨_, ?_, ?_, rfl⟩
  · exact ite_both (P := fun t : State => t.jobs = s.jobs) rfl rfl
  · exact ite_both (P := fun t : State => t.progs = s.progs) rfl rfl

/-! ### SHAPE (R237, R256) -/

theorem samplesOf_of_batches {s t : State} (h : t.shp.batches = s.shp.batches) (k : NodeKey) (st seq : Nat) :
    t.samplesOf k st seq = s.samplesOf k st seq := by
  unfold State.samplesOf
  rw [h]

/-- A change of samples that keeps their records changes them where they lie. -/
theorem samplesOf_updSamples (s : State) (k : NodeKey) (st seq : Nat) (p : Sample → Bool) {f : Sample → Sample}
    (hf : ∀ x, (f x).rcd = x.rcd) :
    (s.updSamples k p f).samplesOf k st seq = (s.samplesOf k st seq).map (fun x => if p x then f x else x) := by
  have hrcd : ∀ x : Sample, (if p x then f x else x).rcd = x.rcd := fun x => ite_both (P := fun y : Sample => y.rcd = x.rcd) (hf x) rfl
  have hkey : ∀ b : Batch, ((if b.key == k then { b with samples := b.samples.map fun x => if p x then f x else x } else b).key == k)
      = (b.key == k) := fun b => by split <;> rfl
  unfold State.samplesOf State.updSamples State.updBatches
  dsimp only
  rw [List.filter_map, List.flatMap_map, List.map_flatMap]
  simp only [Function.comp_def, hkey]
  refine List.flatMap_congr fun b hb => ?_
  rw [if_pos (List.mem_filter.mp hb).2, List.filter_map]
  simp only [Function.comp_def, hrcd]

theorem rowRoom_batches (s : State) (e : Nat) (ok : Bool) : (s.rowRoom e ok).shp.batches = s.shp.batches := by
  have hnote : ∀ t : State, (t.shpNote e).shp.batches = t.shp.batches := fun t => by
    rw [show (t.shpNote e).shp = t.shp from (State.shpNote_keeps (L := 1) t e rfl (.refl t)).parts.same .shp rfl]
  unfold State.rowRoom
  refine ite_both (P := fun t : State => t.shp.batches = s.shp.batches) ?_ ?_
  · exact ite_both (P := fun t : State => t.shp.batches = s.shp.batches) (hnote _) rfl
  · exact ite_both (P := fun t : State => t.shp.batches = s.shp.batches) rfl (hnote _)

/-- The values of the output rows of a decoded picture (R237, R243 to R250). -/
def shapedRows (d : Nat) (p : Pic) : List (List Nat) :=
  (shapeRows d p.pix (shapeWindow d p.w p.h) 0 (shTH d)).map (fun q => q.map (·.1))

/-- A sample of a decoded picture from which nothing is shaped takes all its values at once (R237). -/
theorem samplesOf_shapeOn {s : State} {j : Job} {node w d : Nat} {p : Pic} {x : Sample}
    (hd : d = s.descOf j.prog (shpDesc w)) (hdone : p.done = true) (hpx : x.px = [])
    (honly : s.samplesOf (j.nodeKey node) j.stream j.frameSeq = [x]) (hobj : x.rcd.objIndex = 0xFFFF) :
    ∃ y, (s.shapeOn j node w p x).samplesOf (j.nodeKey node) j.stream j.frameSeq = [y] ∧ y.rcd = x.rcd ∧
      y.data = layOut d (shapedRows d p) := by
  have hmine : isSample j.stream j.frameSeq 0xFFFF x = true := by
    have hx : x ∈ s.samplesOf (j.nodeKey node) j.stream j.frameSeq := by rw [honly]; exact List.mem_singleton_self x
    unfold State.samplesOf at hx
    obtain ⟨b, -, hx⟩ := List.mem_flatMap.mp hx
    have hrcd := (List.mem_filter.mp hx).2
    unfold isSample
    rw [hrcd, hobj]
    rfl
  have hcounted : ∀ scope c, (s.numCount scope c).samplesOf (j.nodeKey node) j.stream j.frameSeq = [x] := fun scope c => by
    have hshp : (s.numCount scope c).shp = s.shp := (State.numCount_keeps (L := 8388608) s scope c rfl (.refl s)).parts.same .shp rfl
    exact (samplesOf_of_batches (by rw [hshp]) _ _ _).trans honly
  have hunpinned : ∀ (t : State) r, (t.unpinIf r).shp.batches = t.shp.batches := fun t r => by
    rw [show (t.unpinIf r).shp = t.shp from (State.unpinIf_keeps (L := 262145) t r rfl (.refl t)).parts.same .shp rfl]
  unfold State.shapeOn
  simp only [hdone, hpx, if_true, true_or, List.length_nil, Nat.zero_div, List.nil_append]
  rw [← hd]
  refine ⟨{ x with px := shapedRows d p, data := layOut d (shapedRows d p) }, ?_, rfl, rfl⟩
  rw [samplesOf_of_batches (rowRoom_batches _ _ _), samplesOf_of_batches (hunpinned _ _)]
  refine (samplesOf_updSamples (f := fun x => { x with px := shapedRows d p, data := layOut d (shapedRows d p) }) _ _ _ _ _
    fun _ => rfl).trans ?_
  rw [hcounted, List.map_singleton, if_pos hmine]

/-- SHAPE of a decoded picture from which nothing of the sample is shaped. -/
theorem exec_shape_whole {s : State} {job node : Nat} {j : Job} {w : Nat} {p : Pic} {x : Sample}
    (hnode : s.nodeFor job node 0x21 = some (j, w)) (hsaving : s.sched.saving = false)
    (hpic : s.picOfFrame j.stream j.frameSeq = some p) (hdone : p.done = true) (husable : p.unusable = false)
    (honly : s.samplesOf (j.nodeKey node) j.stream j.frameSeq = [x]) (hgood : x.standIn = false) (hdata : x.data = [])
    (hfull : ((s.shapeOn j node w p x).samplesOf (j.nodeKey node) j.stream j.frameSeq).any (fun x => !x.data.isEmpty) = true) :
    exec (.shape job node) s = .next ((s.shapeOn j node w p x).updNode job node (fun n => { n with ran := true, queued := true })) := by
  have hfill : s.fillShape j node w = s.shapeOn j node w p x := by
    unfold State.fillShape
    dsimp only
    rw [hpic, honly]
    dsimp only [List.head?_cons]
    rw [if_neg (by simp [hdata]), if_neg (by simp [husable, hgood]), if_pos (.inr hdone)]
  show execShape job node s = _
  unfold execShape
  rw [hnode]
  dsimp only
  rw [hsaving, hfill]
  exact congrArg _ (if_pos hfull)

/-! ### CROP_RESIZE (R251, R270) -/

theorem exec_cropResize_fills {s : State} {job node : Nat} {j : Job} {w : Nat} {l : List (Nat × Box)} {p : Pic}
    (hnode : s.nodeFor job node 0x22 = some (j, w)) (hboxes : j.boxes w = some l) (hpic : s.donePic j.stream j.frameSeq = some p)
    (hqueued : (j.node node).queued = true) (hsaving : s.sched.saving = false) :
    exec (.cropResize job node) s = .next ((s.fillCrops j node w p l).updNode job node (fun n => { n with ran := true })) := by
  show execCropResize job node s = _
  unfold execCropResize
  rw [hnode]
  dsimp only
  rw [hboxes, hpic]
  exact if_pos ⟨hqueued, hsaving⟩

/-- A node changes, and what is read of it after. -/
theorem job_updNode_some {s : State} {id n : Nat} {j : Job} (f : NodeSt → NodeSt) (h : s.job? id = some j) :
    ∃ k, (s.updNode id n f).job? id = some k ∧ k.node n = f (j.node n) :=
  ⟨_, (job_updNode s id n f).trans (congrArg _ h), node_setNode_same _ _ _⟩

/-! ### EMIT (R285) -/

theorem exec_emit_committed {s : State} {job node : Nat} {j : Job} {w : Nat} (hnode : s.nodeFor job node 0x68 = some (j, w))
    (hsource : (j.node (emSrc w)).committed = true) :
    exec (.emit job node) s = .next ((s.sendAll (emRing w) (s.emitPns j node w)).commitNode job node .none) := by
  show execEmit job node s = _
  unfold execEmit
  rw [hnode]
  exact if_pos hsource

/-! ### TBL_LOAD and TBL_SWITCH (R422 to R424) -/

/-- An operation that keeps all but the registers. -/
theorem Keeps.eq_regs {s t : State} (h : Keeps 1 s t) : t = { s with regs := t.regs } := by
  refine eq_of_same_parts (fun p => ?_) h.pending
  have hsame := h.parts.same p
  cases p with
  | regs => rfl
  | _ => exact hsame rfl

theorem tblNote_eq (s : State) : s.tblNote = { s with regs := s.tblNote.regs } := (State.tblNote_keeps s rfl (.refl s)).eq_regs

/-- TBL_LOAD takes its place among the loads that wait for their switch. -/
def State.loadQueued (s : State) (job node : Nat) : State :=
  { s.updNode job node (fun x => { x with ran := true }) with
    tbl := { s.tbl with
      loads := insBy (fun (a b : Nat × Nat) => decide (a.1 < b.1) || (a.1 == b.1 && decide (a.2 < b.2))) (job, node) s.tbl.loads } }

theorem exec_tblLoad_queues {s : State} {job node : Nat} {j : Job} {w : Nat} (hnode : s.nodeFor job node 0x44 = some (j, w)) :
    exec (.tblLoad job node) s = .next (s.loadQueued job node).tblNote := by
  show execTblLoad job node s = _
  unfold execTblLoad
  rw [hnode]
  rfl

theorem mem_loadQueued (s : State) (job node : Nat) : (job, node) ∈ (s.loadQueued job node).tbl.loads :=
  (insBy_perm _ _ _).mem_iff.mpr List.mem_cons_self

/-- Counting a switch of the tables on every core changes the counters alone. -/
theorem foldl_cnt_eq (l : List Nat) (id : Nat) (s : State) :
    l.foldl (fun s c => s.cnt id c) s = { s with counters := (l.foldl (fun s c => s.cnt id c) s).counters } := by
  induction l generalizing s with
  | nil => rfl
  | cons c l ih => exact ih (s.cnt id c)

/-- The tables once the bank that is not in use is written and the generation advances (R424). -/
def TblSt.switched (t : TblSt) (rest : List (Nat × Nat)) (bank : List UserSlot) : TblSt :=
  if (t.gen + 1) % 2 = 0 then { t with loads := rest, gen := t.gen + 1, bank0 := bank }
  else { t with loads := rest, gen := t.gen + 1, bank1 := bank }

theorem TblSt.switched_gen (t : TblSt) (rest : List (Nat × Nat)) (bank : List UserSlot) : (t.switched rest bank).gen = t.gen + 1 := by
  unfold TblSt.switched
  exact ite_both (P := fun u : TblSt => u.gen = t.gen + 1) rfl rfl

theorem TblSt.switched_loads (t : TblSt) (rest : List (Nat × Nat)) (bank : List UserSlot) : (t.switched rest bank).loads = rest := by
  unfold TblSt.switched
  exact ite_both (P := fun u : TblSt => u.loads = rest) rfl rfl

theorem TblSt.switched_banks (t : TblSt) (rest : List (Nat × Nat)) (bank : List UserSlot) :
    if (t.gen + 1) % 2 = 0 then (t.switched rest bank).bank0 = bank ∧ (t.switched rest bank).bank1 = t.bank1
    else (t.switched rest bank).bank1 = bank ∧ (t.switched rest bank).bank0 = t.bank0 := by
  unfold TblSt.switched
  split <;> exact ⟨rfl, rfl⟩

/-- The state with the switched tables, counted on every core. -/
def State.tblSwitched (s : State) (rest : List (Nat × Nat)) (bank : List UserSlot) : State :=
  (List.range 64).foldl (fun s c => s.cnt 0x0904 c) { s with tbl := s.tbl.switched rest bank }

theorem tblSwitched_eq (s : State) (rest : List (Nat × Nat)) (bank : List UserSlot) :
    s.tblSwitched rest bank = { s with tbl := s.tbl.switched rest bank, counters := (s.tblSwitched rest bank).counters } :=
  foldl_cnt_eq _ _ _

theorem exec_tblSwitch_switches {s : State} {job node w : Nat} {rest : List (Nat × Nat)} {j : Job}
    (hloads : s.tbl.loads = (job, node) :: rest) (hjob : s.job? job = some j) (hword : s.jobWord j node = some w)
    (hold : s.oldBound = false) (hearlier : s.tblEarlier job node = false) :
    exec .tblSwitch s =
      .next (((s.tblSwitched rest (imageSlots (s.segOf j (gaSeg w)) (s.bankOf s.tbl.gen))).commitNode job node .none).tblNote) := by
  show execTblSwitch s = _
  unfold execTblSwitch
  rw [hloads]
  dsimp only
  rw [hjob, hold, hearlier]
  dsimp only
  rw [hword]
  rfl

/-! ### OPT_STEP (R387, R391, R392) -/

/-- The optimiser's new state is the program's, and the segment's new contents are the job's shadow copy (R391). -/
def State.stepped (s : State) (j : Job) (job w : Nat) (r : OptSt) (data : List Nat) : State :=
  let p := s.prog j.prog
  (s.setProg j.prog { p with
    optOld := some (p.optOld.getD p.opt)
    opt := (opPlan w, r) :: p.opt.filter (fun q => q.1 != opPlan w) }).updJob job
      (fun j => { j with shadow := (opSeg w, data) :: j.shadow.filter (fun q => q.1 != opSeg w) })

theorem exec_optStep_steps {s : State} {job node : Nat} {j : Job} {w h : Nat} (hnode : s.nodeFor job node 0x4F = some (j, w))
    (hadapt : j.adapt = some h) (hsources : (wordSrcs w).all (fun q => (j.node q.2).committed) = true) :
    ∃ r data, exec (.optStep job node) s = .next (((s.stepped j job w r data).commitNode job node .none).wake job) := by
  show ∃ r data, execOptStep job node s = _
  unfold execOptStep
  rw [hnode]
  dsimp only
  rw [hadapt]
  dsimp only
  rw [if_pos hsources]
  exact ⟨_, _, rfl⟩

theorem job_stepped {s : State} {j : Job} {job : Nat} (w : Nat) (r : OptSt) (data : List Nat) (h : s.job? job = some j) :
    (s.stepped j job w r data).job? job =
      some { j with shadow := (opSeg w, data) :: j.shadow.filter (fun q => q.1 != opSeg w) } := by
  unfold State.stepped
  refine (job_updJob _ job (fun j => { j with shadow := (opSeg w, data) :: j.shadow.filter (fun q => q.1 != opSeg w) })
    fun _ h => h).trans ?_
  rw [job_of (s := s) (by rfl) job, h]
  rfl

theorem prog_stepped (s : State) (j : Job) (job w : Nat) (r : OptSt) (data : List Nat) :
    (s.stepped j job w r data).prog j.prog = { s.prog j.prog with
      optOld := some ((s.prog j.prog).optOld.getD (s.prog j.prog).opt)
      opt := (opPlan w, r) :: (s.prog j.prog).opt.filter (fun q => q.1 != opPlan w) } :=
  State.prog_setProg s j.prog _

/-- A step of the optimiser leaves the program's routes, and with them the open nodes. -/
theorem openBeside_stepped {s : State} {j : Job} {node : Nat} (job w : Nat) (r : OptSt) (data : List Nat) (h : openBeside s j node) :
    openBeside (s.stepped j job w r data) { j with shadow := (opSeg w, data) :: j.shadow.filter (fun q => q.1 != opSeg w) } node := by
  unfold openBeside
  rw [prog_stepped]
  exact h

end Sys2Proof.Machine
end

section
/-! SUPPORT. The claim on the nodes that are no tile jobs. -/

set_option Elab.async false

namespace Sys2Proof

open Machine

/-- Settles O22: each clause runs its node by that node's `exec_` lemma; a commit beside an open node is `commitNode_open`, which keeps the
job, its output and the pennants that wait. -/
theorem routeNodesRunAndCommit : Obligations.RouteNodesRunAndCommit := by
  refine ⟨?operand, ?segment, ?short, ?decode, ?shape, ?crop, ?emit, ?load, ?switch, ?step⟩
  case operand =>
    intro s job node n data j w a g hnode hopen hfrom hoperand hn hfits hplan hentry hread
    obtain ⟨e, hentry⟩ := Option.isSome_iff_exists.mp hentry
    have hkeeps := State.operandRead_keeps (L := 33554438) s j w n rfl (.refl s)
    refine ⟨_, exec_gather_operand data hnode hfrom hoperand hn hfits hentry (hplan e hentry) hread, gathered_nodeDone _ ?_ ?_⟩
    · exact (job_of (hkeeps.parts.same .jobs rfl) job).trans (job_of_nodeFor hnode)
    · exact openBeside_of_progs hopen (hkeeps.parts.same .progs rfl)
  case segment =>
    intro s job node n data j w hnode hopen hfrom hn hfits hplan hentry
    obtain ⟨e, hentry⟩ := Option.isSome_iff_exists.mp hentry
    exact ⟨_, exec_gather_segment data hnode hfrom hn hfits hentry (hplan e hentry), gathered_nodeDone _ (job_of_nodeFor hnode) hopen⟩
  case short =>
    intro s job node data j w a g hnode hfrom hoperand hlength hshort
    have hid := id_of_job (job_of_nodeFor hnode)
    exact ⟨_, exec_gather_short data hnode hfrom hoperand hlength hshort, hid ▸ faultJob_gone s j node _ _ _⟩
  case decode =>
    intro s job node j w p hnode hopen hpic
    obtain ⟨t, hjobs, hprogs, hexec⟩ := exec_decode_commits hnode hpic
    exact ⟨_, hexec, commitNode_nodeDone _ ((job_of hjobs job).trans (job_of_nodeFor hnode)) (openBeside_of_progs hopen hprogs)⟩
  case shape =>
    intro s job node j w d p x hnode hd hsaving hpic hdone husable honly hobj hgood hpx hdata hlaid
    obtain ⟨y, hy, hrcd, hvalues⟩ := samplesOf_shapeOn (w := w) hd hdone hpx honly hobj
    have hfull : ((s.shapeOn j node w p x).samplesOf (j.nodeKey node) j.stream j.frameSeq).any (fun x => !x.data.isEmpty) = true := by
      rw [hy]
      simpa [hvalues, shapedRows] using hlaid
    have hjobs : (s.shapeOn j node w p x).jobs = s.jobs :=
      (State.shapeOn_keeps (L := 8651265) s j node w p x rfl (.refl s)).parts.same .jobs rfl
    refine ⟨_, exec_shape_whole hnode hsaving hpic hdone husable honly hgood hdata hfull, ⟨y, hy, hrcd, hvalues⟩, ?_⟩
    obtain ⟨k, hk, hrun⟩ := job_updNode_some (n := node) (fun n => { n with ran := true, queued := true })
      ((job_of hjobs job).trans (job_of_nodeFor hnode))
    exact ⟨k, hk, by rw [hrun], by rw [hrun]⟩
  case crop =>
    intro s job node j w l p hnode hboxes hpic hqueued hsaving
    have hjobs : (s.fillCrops j node w p l).jobs = s.jobs :=
      (State.fillCrops_keeps (L := 8389145) s j node w p l rfl (.refl s)).parts.same .jobs rfl
    obtain ⟨k, hk, hrun⟩ := job_updNode_some (n := node) (fun n => { n with ran := true })
      ((job_of hjobs job).trans (job_of_nodeFor hnode))
    exact ⟨_, exec_cropResize_fills hnode hboxes hpic hqueued hsaving, ⟨k, hk, by rw [hrun]⟩, rfl⟩
  case emit =>
    intro s job node j w hnode hopen hsource
    have hsent := (sendAll_rings s (emRing w) (s.emitPns j node w)).eq
    have hjob : (s.sendAll (emRing w) (s.emitPns j node w)).job? job = some j :=
      (job_of (by rw [hsent]) job).trans (job_of_nodeFor hnode)
    have hopen := openBeside_of_progs hopen (t := s.sendAll (emRing w) (s.emitPns j node w)) (by rw [hsent])
    refine ⟨_, exec_emit_committed hnode hsource, commitNode_nodeDone .none hjob hopen, fun p hp => ?_⟩
    rw [(commitNode_open .none hjob hopen).1.pring]
    exact mem_sendAll s _ hp
  case load =>
    intro s job node j w hnode
    obtain ⟨k, hk, hrun⟩ := job_updNode_some (n := node) (fun x => { x with ran := true }) (job_of_nodeFor hnode)
    have hjobs : (s.loadQueued job node).tblNote.jobs = (s.updNode job node (fun x => { x with ran := true })).jobs := by
      rw [tblNote_eq]
      rfl
    refine ⟨_, exec_tblLoad_queues hnode, ?_, ?_, ⟨k, (job_of hjobs job).trans hk, by rw [hrun], by rw [hrun]⟩, ?_⟩
    · rw [tblNote_eq]
      exact mem_loadQueued s job node
    all_goals
      rw [tblNote_eq]
      generalize (s.loadQueued job node).tblNote.regs = regs
      rfl
  case switch =>
    intro s job node w rest j hloads hjob hword hold hearlier hopen
    refine ⟨_, exec_tblSwitch_switches hloads hjob hword hold hearlier, ?_⟩
    generalize imageSlots (s.segOf j (gaSeg w)) (s.bankOf s.tbl.gen) = bank
    have hswitched := tblSwitched_eq s rest bank
    generalize s.tblSwitched rest bank = u at hswitched
    have hdone : nodeDone (u.commitNode job node .none) job node .none :=
      commitNode_nodeDone .none ((job_of (by rw [hswitched]) job).trans hjob) (openBeside_of_progs hopen (by rw [hswitched]))
    have htbl : (u.commitNode job node .none).tblNote.tbl = s.tbl.switched rest bank := by
      have hcommit := (State.commitNode_keeps (L := 43983583) u job node .none rfl (.refl u)).parts.same .tbl rfl
      rw [tblNote_eq]
      exact hcommit.trans (by rw [hswitched])
    rw [htbl]
    exact ⟨s.tbl.switched_gen rest bank, s.tbl.switched_loads rest bank, nodeDone_of_jobs hdone (by rw [tblNote_eq]),
      s.tbl.switched_banks rest bank⟩
  case step =>
    intro s job node j w h hnode hadapt hopen hsources
    obtain ⟨r, data, hexec⟩ := exec_optStep_steps hnode hadapt hsources
    have hjob := job_stepped w r data (job_of_nodeFor hnode)
    have hopen := openBeside_stepped job w r data hopen
    have hprog := prog_stepped s j job w r data
    generalize s.stepped j job w r data = u at *
    refine ⟨_, hexec, nodeDone_of_results (commitNode_nodeDone .none hjob hopen) (wake_work _ job).results, ?_, ?_⟩
    · obtain ⟨-, k, on, hk, hsame⟩ := commitNode_open .none hjob hopen
      obtain ⟨l, hl, hwork⟩ := (wake_work _ job).results k hk
      refine ⟨l, hl, ?_⟩
      rw [(hsame.trans hwork).shadow]
      exact ⟨rfl, rfl⟩
    · have hprogs : ((u.commitNode job node .none).wake job).prog j.prog = u.prog j.prog := by
        have hcommit := State.commitNode_keeps (L := 43983583) u job node .none rfl (.refl u)
        unfold State.prog
        rw [(State.wake_keeps (L := 43983583) _ job rfl hcommit).parts.same .progs rfl]
      rw [hprogs, hprog]
      exact ⟨rfl, rfl⟩

end Sys2Proof
end

section
/-! SUPPORT. The claim on pictures and engines fails: an engine whose STATE reads IDLE while it decodes a picture. -/

set_option Elab.async false

namespace Sys2Proof

open Machine

/-- What an engine that may choose does with the picture ranked first (R154, R155). -/
theorem exec_decPictureChoice_picked {s : State} {e st : Nat} {f : Frame} (i : PicInfo) (hmay : s.mayChoose e = true)
    (hpick : s.pickOf e = some (st, f)) : exec (.decPictureChoice e i) s = .next (s.startPic e st f i) := by
  show execDecPictureChoice e i s = _
  unfold execDecPictureChoice
  rw [if_pos hmay, hpick]

/-- What is claimed of a command that completes holds of the state it leads to. -/
theorem of_completes {i : Instr} {s t : State} {P : State → Prop} (h : completes i s P) (hexec : exec i s = .next t) : P t := by
  obtain ⟨u, hu, hP⟩ := h
  cases hexec.symm.trans hu
  exact hP

/-- An access unit of the host, ready to be decoded (R147, R155). -/
def readyFrame : Frame :=
  { seq := 0, au := some 1, ct := {}, mono := 0, pts := 0, bind := { prog := 0, route := 0, svc := 0 }, ready := true }

/-- The job of that access unit, of stream 127. -/
def readyJob : Job :=
  { id := 1, kind := .frame 127 0 (some 1), prog := 0, route := 0, svc := 0, ticket := 5, started := true, plan := some [], stream := 127 }

/-- A stream contract of CODEC 1, for pictures of 16 by 16 samples on demand (R141). -/
def smallContract : BitVec 512 := BitVec.ofNat 512 (packBits [(212, 4, 1), (272, 16, 16), (256, 16, 16), (320, 32, 1), (352, 32, 1)])

/-- Stream 127 is OPEN on engine 7 and offers its access unit; no sequence of it is active. -/
def offering : State :=
  { ((State.reset.wr (Reg.DEC_STRM_STATE_STATE 127) 1).wr (Reg.DEC_STRM_STATE_ENGINE 127) 7).setStream 127
      { frames := [readyFrame], contract := some smallContract, bind := some readyFrame.bind } with jobs := [readyJob] }

/-- Engine 7 decodes another picture, whose only block row is done, and yet its STATE (R185) reads 0, IDLE: `State.mayChoose` takes such
an engine, since it asks only that STATE is 0 or 1. -/
def idleYetDecoding : State :=
  offering.setEngine 7 { cur := some { stream := 0, frame := { readyFrame with au := none }, info := {}, w := 16, h := 16, rowsDone := 1 } }

/-- The picture of that access unit, of which nothing is decoded since no sequence is active (R148). -/
def readyPic : Pic := (idleYetDecoding.popFrame 127).picOf 127 readyFrame {} none true false

/-- Refutes O33: in `idleYetDecoding` the access unit becomes the next picture of engine 7, whose STATE stays 0, where the statement has
it 1.  `State.engage` sets STATE only when the engine has no current picture, and no hypothesis of the statement keeps STATE 0 and a
current picture apart: what is missing is that an engine with a current picture reads STATE 1. -/
theorem not_picturesPassThroughTheirEngine : ¬ Obligations.PicturesPassThroughTheirEngine := by
  unfold Obligations.PicturesPassThroughTheirEngine
  rintro ⟨hchoice, -⟩
  have hdraws : ((idleYetDecoding.popFrame 127).drawPic readyFrame readyJob.ticket
      (picNeeds readyPic ((idleYetDecoding.popFrame 127).keepsPicture readyFrame.bind) none).1
      (picNeeds readyPic ((idleYetDecoding.popFrame 127).keepsPicture readyFrame.bind) none).2).isSome = true := by decide +kernel
  obtain ⟨⟨u, b⟩, hdrawn⟩ := Option.isSome_iff_exists.mp hdraws
  have hmay : idleYetDecoding.mayChoose 7 = true := by decide +kernel
  have hpick : idleYetDecoding.pickOf 7 = some (127, readyFrame) := by decide +kernel
  have hclaims := hchoice idleYetDecoding (idleYetDecoding.popFrame 127) u 7 127 readyFrame {} readyJob none true readyPic b (by decide)
    (by decide) hmay hpick (by decide +kernel) rfl rfl (fun _ => by decide +kernel) (by decide +kernel) (fun _ h => nomatch h)
    (by decide +kernel) rfl rfl hdrawn
  have hbusy := (of_completes hclaims (exec_decPictureChoice_picked {} hmay hpick)).1
  have hidle : (idleYetDecoding.startPic 7 127 readyFrame {}).engineSt 7 = 0 := by decide +kernel
  exact absurd (hidle.symm.trans hbusy) (by decide)

end Sys2Proof
end

section
/-! SUPPORT. The claim on a step of an empty queue. -/

set_option Elab.async false

namespace Sys2Proof

open Machine

/-- Settles O2: the step is `State.tick`, which counts 40 ns and, with no clock step waiting, only moves the clock on. -/
theorem emptyQueueIsOneTick : Obligations.EmptyQueueIsOneTick := by
  unfold Obligations.EmptyQueueIsOneTick
  intro s hempty
  have hstep : step s = .next s.tick := by simp only [step, hempty]
  refine ⟨s.tick, hstep, tick_mono s, fun hnone => ?_⟩
  simp only [State.tick, hnone]

end Sys2Proof
end

section
/-! SUPPORT. The registers of ingest and device time: which operations leave them alone, and what a register reads after its configuration
fields are written. -/

set_option Elab.async false

namespace Sys2Proof.Machine

/-! ### Operations that touch no register of ingest or device time -/

theorem file_lowRegs (s : State) (b : Blk) (i c d0 d1 : Nat) : SameLowRegs s (s.file b i c d0 d1) :=
  ⟨fun a ha _ => reg_file s b i c d0 d1 a (by omega) (by omega)⟩

theorem sendSvc_lowRegs (s : State) (p : Pn) : SameLowRegs s (s.sendSvc p) := ⟨fun a _ ha => reg_sendSvc s p a ha⟩

theorem wakeUp_lowRegs (s : State) : SameLowRegs s s.wakeUp := ⟨fun a ha _ => (wakeUp_regs s).reg a (not_mem_power (by omega))⟩

theorem timePn_lowRegs (s : State) (e : Nat) (ct : Stamp) : SameLowRegs s (s.timePn e ct) :=
  (wakeUp_lowRegs s).trans (sendSvc_lowRegs _ _)

/-- The registers of the Ethernet ports, the flows and device time, but for the error records, the measured skews and TIME_STATUS. -/
def isIngestReg (a : Nat) : Prop :=
  0x600100 ≤ a ∧ a < 0x800000 ∧ a ≠ Reg.TIME_STATUS ∧ a ≠ Reg.TIME_ERR ∧ (a < 0x601000 ∨ 0x601800 ≤ a ∨ a % 0x40 < 0x28)

/-- The registers of ingest and device time that `isIngestReg` names are the same. -/
structure SameIngestRegs (s t : State) : Prop where
  reg : ∀ a, isIngestReg a → t.reg a = s.reg a

theorem SameIngestRegs.refl (s : State) : SameIngestRegs s s := ⟨fun _ _ => rfl⟩

theorem SameIngestRegs.trans {s t u : State} (h : SameIngestRegs s t) (k : SameIngestRegs t u) : SameIngestRegs s u :=
  ⟨fun a ha => (k.reg a ha).trans (h.reg a ha)⟩

theorem SameIngestRegs.of_regs {s t : State} (h : t.regs = s.regs) : SameIngestRegs s t := ⟨fun a _ => by
  unfold State.reg
  rw [h]⟩

theorem SameIngestRegs.of_lowRegs {s t : State} (h : SameLowRegs s t) : SameIngestRegs s t := ⟨fun a ha => by
  obtain ⟨hlo, hhi, -⟩ := ha
  refine h.reg a (by omega) ?_
  simp only [Reg.HIF_SVC_LOST]
  omega⟩

theorem SameIngestRegs.setReg {s t : State} (h : SameIngestRegs s t) {a : Nat} (v : BitVec 32) (ha : ¬isIngestReg a) :
    SameIngestRegs s (t.setReg a v) :=
  h.trans ⟨fun b hb => reg_setReg_other t a b v fun e => ha (e ▸ hb)⟩

theorem SameIngestRegs.rd {s t : State} (h : SameIngestRegs s t) {f : RegField} (hf : isIngestReg f.addr) : t.rd f = s.rd f := by
  unfold State.rd
  rw [h.reg _ hf]

theorem setErr_ingestRegs (s : State) {a : Nat} (o : Bool) (i : Nat × Nat × Nat) (c : Nat) (ha : ¬isIngestReg a) :
    SameIngestRegs s (s.setErr a o i c) :=
  ⟨fun b hb => reg_setErr_other s a b o i c fun e => ha (e ▸ hb)⟩

/-- An ingest error is recorded in NET_ERR and, of a flow, in NET_FLOW_ERR (R235). -/
theorem netErr_ingestRegs (s : State) (code wh d0 d1 : Nat) : SameIngestRegs s (s.netErr code wh d0 d1) := by
  unfold State.netErr
  refine (SameIngestRegs.trans (t := if wh < 32 then s.setErr (Reg.NET_FLOW_ERR wh) false (0, 0, 0) code else s) ?_
    (setErr_ingestRegs _ true (16, 6, wh) code fun h => absurd h.1 (by decide))).trans (.of_lowRegs (file_lowRegs _ _ _ _ _ _))
  split
  · refine setErr_ingestRegs _ _ _ _ fun h => ?_
    obtain ⟨-, -, -, -, h⟩ := h
    simp only [Reg.NET_FLOW_ERR] at h
    omega
  · exact .refl s

theorem timeErr_ingestRegs (s : State) (code d0 d1 : Nat) : SameIngestRegs s (s.timeErr code d0 d1) :=
  (setErr_ingestRegs s false (0, 0, 0) code fun h => h.2.2.2.1 rfl).trans (.of_lowRegs (file_lowRegs _ _ _ _ _ _))

theorem toServo_ingestRegs (s : State) (st : Nat) : SameIngestRegs s (s.toServo st) := by
  unfold State.toServo
  exact ite_both (P := SameIngestRegs s) (.refl s)
    (((SameIngestRegs.refl s).setReg _ fun h => h.2.2.1 rfl).trans (.of_lowRegs (timePn_lowRegs _ _ _)))

/-- TIME_STATUS names the port of the best master (R222). -/
def State.masterPort (s : State) : State :=
  match bestMaster s.validMasters with
  | some m => s.wr Reg.TIME_STATUS_PTP_PORT m.port
  | none => s

/-- Another grandmaster is taken. -/
def State.withGm (s : State) (gm : Option Nat) : State := { s with time := { s.time with gm := gm } }

theorem runBmca_eq (s : State) :
    s.runBmca = if (bestMaster s.validMasters).map (·.gm) = s.time.gm then s.masterPort
      else (s.masterPort.withGm ((bestMaster s.validMasters).map (·.gm))).timePn 4
        (s.masterPort.withGm ((bestMaster s.validMasters).map (·.gm))).now := rfl

theorem masterPort_regsHif (s : State) : RegsHif [Reg.TIME_STATUS] s s.masterPort := by
  unfold State.masterPort
  split
  · exact (RegsHif.refl _ s).wr _ List.mem_cons_self
  · exact .refl _ s

/-- The best master algorithm changes TIME_STATUS and sends a pennant (R222). -/
theorem runBmca_ingestRegs (s : State) : SameIngestRegs s s.runBmca := by
  have hport : SameIngestRegs s s.masterPort :=
    ⟨fun a ha => (masterPort_regsHif s).reg a fun h => ha.2.2.1 (List.mem_singleton.mp h)⟩
  rw [runBmca_eq]
  have hgm : SameIngestRegs s (s.masterPort.withGm ((bestMaster s.validMasters).map (·.gm))) := hport.trans (.of_regs rfl)
  exact ite_both hport (hgm.trans (.of_lowRegs (timePn_lowRegs _ _ _)))

theorem isIngestReg_port {a p : Nat} (hp : p < 2) (h : a = Reg.NET_PORT_CFG p ∨ a = Reg.NET_PORT_STATUS p) : isIngestReg a := by
  simp only [Reg.NET_PORT_CFG, Reg.NET_PORT_STATUS] at h
  simp only [isIngestReg, Reg.TIME_STATUS, Reg.TIME_ERR]
  omega

theorem isIngestReg_flow {a f : Nat} (hf : f < 32) (h : a = Reg.NET_FLOW_CFG f ∨ a = Reg.NET_FLOW_STATUS f) : isIngestReg a := by
  simp only [Reg.NET_FLOW_CFG, Reg.NET_FLOW_STATUS] at h
  simp only [isIngestReg, Reg.TIME_STATUS, Reg.TIME_ERR]
  omega

/-! ### Fields of one write -/

/-- A part of a register reads what was stored in it, cut to its width. -/
@[simp] theorem rd_wr_part_same (s : State) (a v : Nat) {lo w : Nat} (h : lo + w ≤ 32) : (s.wr ⟨a, lo, w⟩ v).rd ⟨a, lo, w⟩ = v % 2 ^ w :=
  rd_wr_same s _ v h

/-- A part of a register keeps its value when one beside it is stored. -/
@[simp] theorem rd_wr_part_other (s : State) (a v : Nat) {lo w lo2 w2 : Nat} (h : lo + w ≤ 32) (hbeside : lo2 + w2 ≤ lo ∨ lo + w ≤ lo2) :
    (s.wr ⟨a, lo, w⟩ v).rd ⟨a, lo2, w2⟩ = s.rd ⟨a, lo2, w2⟩ := rd_wr_other s _ _ v h (.inr hbeside)

/-- A field that lies beside all the written ones keeps its value. -/
theorem rd_putFields_other {fs : List RegField} {g : RegField}
    (h : ∀ f ∈ fs, f.lo + f.w ≤ 32 ∧ (g.addr ≠ f.addr ∨ g.lo + g.w ≤ f.lo ∨ f.lo + f.w ≤ g.lo)) (s : State) (w : BitVec 32) :
    (s.putFields fs w).rd g = s.rd g := by
  induction fs generalizing s with
  | nil => rfl
  | cons f fs ih =>
    obtain ⟨hw, hbeside⟩ := h f List.mem_cons_self
    exact (ih (fun x hx => h x (List.mem_cons_of_mem f hx)) _).trans (rd_wr_other s f g _ hw hbeside)

/-- The first field of a write reads what was written, when the others lie beside it. -/
theorem rd_putFields_first {fs : List RegField} {f : RegField} (hf : f.lo + f.w ≤ 32)
    (h : ∀ x ∈ fs, x.lo + x.w ≤ 32 ∧ (f.addr ≠ x.addr ∨ f.lo + f.w ≤ x.lo ∨ x.lo + x.w ≤ f.lo)) (s : State) (w : BitVec 32) :
    (s.putFields (f :: fs) w).rd f = bitsOf w.toNat f.lo f.w := by
  have hrest := rd_putFields_other h (s.wr f (bitsOf w.toNat f.lo f.w)) w
  exact hrest.trans ((rd_wr_same s f _ hf).trans (Nat.mod_eq_of_lt (bitsOf_lt _ _ _)))

/-! ### Ports and flows behind the registers -/

theorem flow_of_net {s t : State} (h : t.net = s.net) (f : Nat) : t.flow f = s.flow f := by
  unfold State.flow
  rw [h]

theorem ethPort_of_net {s t : State} (h : t.net = s.net) (p : Nat) : t.ethPort p = s.ethPort p := by
  unfold State.ethPort
  rw [h]

theorem netErr_net (s : State) (code wh d0 d1 : Nat) : (s.netErr code wh d0 d1).net = s.net := (netErr_records s code wh d0 d1).net

end Sys2Proof.Machine
end

section
/-! SUPPORT. The Ethernet ports: the write of NET_PORT_CFG, and a link that comes up and goes down. -/

set_option Elab.async false

namespace Sys2Proof.Machine

/-! ### A link that goes down (R191, R235) -/

/-- The Ethernet ports and the registers below those of the flows are the same. -/
structure FlowsOnly (s t : State) : Prop where
  ports : t.net.ports = s.net.ports
  reg : ∀ a, a < 0x601000 → t.reg a = s.reg a

theorem FlowsOnly.refl (s : State) : FlowsOnly s s := ⟨rfl, fun _ _ => rfl⟩

theorem FlowsOnly.setFlow {s t : State} (h : FlowsOnly s t) (f : Nat) (x : Flow) : FlowsOnly s (t.setFlow f x) := ⟨h.ports, h.reg⟩

theorem FlowsOnly.wr {s t : State} (h : FlowsOnly s t) {f : RegField} (v : Nat) (hf : 0x601000 ≤ f.addr) : FlowsOnly s (t.wr f v) :=
  ⟨h.ports, fun a ha => (reg_wr_other t f v a (by omega)).trans (h.reg a ha)⟩

theorem flowStatus_high (f : Nat) : 0x601000 ≤ Reg.NET_FLOW_STATUS f := by
  simp only [Reg.NET_FLOW_STATUS]
  omega

theorem portPathsDown_flowsOnly (s : State) (p : Nat) : FlowsOnly s (s.portPathsDown p) := by
  unfold State.portPathsDown
  refine List.foldlRecOn _ _ (FlowsOnly.refl s) fun t ht f _ => ?_
  dsimp only
  refine ite_both ht ?_
  have hstatus := flowStatus_high f
  have hflow := ht.setFlow f { t.flow f with
    pathA := if t.rd (Reg.NET_FLOW_CFG_PORT_A f) = p then { (t.flow f).pathA with down := true } else (t.flow f).pathA
    pathB := if t.rd (Reg.NET_FLOW_CFG_MERGE f) = 1 ∧ t.rd (Reg.NET_FLOW_CFG_PORT_B f) = p then { (t.flow f).pathB with down := true }
      else (t.flow f).pathB }
  have hA := ite_both (P := FlowsOnly s) (c := t.rd (Reg.NET_FLOW_CFG_PORT_A f) = p)
    (hflow.wr (f := Reg.NET_FLOW_STATUS_PATH_A_UP f) 0 hstatus) hflow
  have hB := ite_both (P := FlowsOnly s) (c := t.rd (Reg.NET_FLOW_CFG_MERGE f) = 1 ∧ t.rd (Reg.NET_FLOW_CFG_PORT_B f) = p)
    (hA.wr (f := Reg.NET_FLOW_STATUS_PATH_B_UP f) 0 hstatus) hA
  exact ite_both (hB.wr (f := Reg.NET_FLOW_STATUS_STATE f) 3 hstatus) hB

/-- What is left of a port whose link is down. -/
structure Down (p : Nat) (s t : State) : Prop where
  linkUp : t.rd (Reg.NET_PORT_STATUS_LINK_UP p) = 0
  port : t.ethPort p = { s.ethPort p with inUse := 0 }
  reg : ∀ a, a < 0x601000 → a ≠ Reg.NET_PORT_STATUS p → t.reg a = s.reg a

/-- The port's own registers and lanes say that its link is down. -/
def State.linkOff (s : State) (p : Nat) : State :=
  (((s.wr (Reg.NET_PORT_STATUS_LINK_UP p) 0).wr (Reg.NET_PORT_STATUS_MODE p) 0).wr (Reg.NET_PORT_STATUS_TS_HW p) 0).setEthPort p
    { s.ethPort p with inUse := 0 }

theorem linkDown_eq (s : State) (p : Nat) : s.linkDown p = (s.linkOff p).portPathsDown p := rfl

theorem rd_linkOff_linkUp (s : State) (p : Nat) : (s.linkOff p).rd (Reg.NET_PORT_STATUS_LINK_UP p) = 0 := by
  simp [State.linkOff]

theorem ethPort_linkOff (s : State) (p : Nat) : (s.linkOff p).ethPort p = { s.ethPort p with inUse := 0 } :=
  State.ethPort_setEthPort _ p _

theorem reg_linkOff (s : State) {p a : Nat} (h : a ≠ Reg.NET_PORT_STATUS p) : (s.linkOff p).reg a = s.reg a := by
  unfold State.linkOff
  rw [State.setEthPort_reg, reg_wr_other _ _ _ _ h, reg_wr_other _ _ _ _ h, reg_wr_other _ _ _ _ h]

theorem linkDown_down (s : State) {p : Nat} (hp : p < 2) : Down p s (s.linkDown p) := by
  obtain ⟨hports, hreg⟩ := portPathsDown_flowsOnly (s.linkOff p) p
  rw [← linkDown_eq] at hports hreg
  refine ⟨?_, ?_, fun a ha hne => (hreg a ha).trans (reg_linkOff s hne)⟩
  · refine Eq.trans ?_ (rd_linkOff_linkUp s p)
    unfold State.rd
    rw [hreg]
    simp only [Reg.NET_PORT_STATUS]
    omega
  · rw [← ethPort_linkOff]
    unfold State.ethPort
    rw [hports]

theorem netLink_net (s : State) (p : Nat) : (s.netLink p).net = s.net :=
  (State.netLink_keeps (L := 8388635) s p rfl (Keeps.refl s)).parts.same .net rfl

theorem netLink_ingestRegs (s : State) (p : Nat) : SameIngestRegs s (s.netLink p) :=
  (netErr_ingestRegs s _ _ _ _).trans (.of_lowRegs (sendSvc_lowRegs _ _))

theorem rd_netErr_valid (s : State) (code wh d0 d1 : Nat) : (s.netErr code wh d0 d1).rd Reg.NET_ERR_VALID = 1 :=
  (rd_file _ _ _ _ _ _ _ (by decide) (by decide)).trans
    (rd_setErr_valid _ Reg.NET_ERR true (16, 6, wh) code (show 16 + 6 ≤ 30 by decide) (.inl (show 16 ≤ 16 by decide)))

theorem rd_netLink_valid (s : State) (p : Nat) : (s.netLink p).rd Reg.NET_ERR_VALID = 1 :=
  (rd_devError _ _ _ _ _ _ _ (by decide)).trans (rd_netErr_valid s _ _ _ _)

/-- A port that loses its link negotiates again, and NET_LINK is recorded. -/
def State.linkLost (s : State) (p : Nat) (x : EthPort) : State := ((s.setEthPort p { x with negotiating := true }).linkDown p).netLink p

theorem linkLost_spec (s : State) {p : Nat} (x : EthPort) (hp : p < 2) :
    (s.linkLost p x).rd (Reg.NET_PORT_STATUS_LINK_UP p) = 0 ∧ (s.linkLost p x).ethPort p = { x with negotiating := true, inUse := 0 } := by
  have hdown := linkDown_down (s.setEthPort p { x with negotiating := true }) hp
  have hport := hdown.port
  rw [State.ethPort_setEthPort] at hport
  exact ⟨((netLink_ingestRegs _ p).rd (isIngestReg_port hp (.inr rfl))).trans hdown.linkUp,
    (ethPort_of_net (netLink_net _ p) p).trans hport⟩

/-! ### The write of NET_PORT_CFG (R190, R193) -/

/-- The fields of NET_PORT_CFG but MODES. -/
def portFields (p : Nat) : List RegField :=
  [Reg.NET_PORT_CFG_ENABLE p, Reg.NET_PORT_CFG_FORCE_SW p, Reg.NET_PORT_CFG_PTP_EN p, Reg.NET_PORT_CFG_IGMP_EN p,
    Reg.NET_PORT_CFG_VLAN_ID p, Reg.NET_PORT_CFG_PTP_DSCP p]

/-- The fields take their values; MODES does so while ENABLE is 0, else another value is recorded as NET_CFG. -/
def State.portTake (s : State) (p : Nat) (w : BitVec 32) : State :=
  if s.rd (Reg.NET_PORT_CFG_ENABLE p) = 0 then (s.putFields (portFields p) w).wr (Reg.NET_PORT_CFG_MODES p) (bitsOf w.toNat 0 3)
  else if bitsOf w.toNat 0 3 ≠ s.rd (Reg.NET_PORT_CFG_MODES p) then (s.putFields (portFields p) w).netErr 0x0301 (32 + p)
  else s.putFields (portFields p) w

/-- A change of PTP_EN joins or leaves the PTP group, and the best master is chosen again. -/
def State.portPtp (s : State) (p before after : Nat) : State :=
  if before = after then s else (s.igmpReport p ptpGroup 0 (after == 1)).runBmca

/-- What a write of NET_PORT_CFG does before the port starts or stops. -/
def State.portCfg (s : State) (p : Nat) (w : BitVec 32) : State :=
  (s.portTake p w).portPtp p (s.rd (Reg.NET_PORT_CFG_PTP_EN p)) (bitsOf w.toNat 29 1)

theorem exec_netPortEnable_starts {s : State} {p : Nat} {w : BitVec 32} (h : reaches s (Reg.NET_PORT_CFG p))
    (hoff : s.rd (Reg.NET_PORT_CFG_ENABLE p) = 0) (hon : bitsOf w.toNat 31 1 = 1) :
    exec (.netPortEnable p w) s = .next (((s.portCfg p w).setEthPort p { (s.portCfg p w).ethPort p with negotiating := true }).wr
      (Reg.NET_PORT_STATUS_LANES_OK p) ((s.portCfg p w).ethPort p).lanesOk) := by
  show execNetPortEnable p w s = _
  unfold execNetPortEnable
  rw [bar_of_reaches h]
  exact if_pos ⟨hoff, hon⟩

theorem exec_netPortEnable_stops {s : State} {p : Nat} {w : BitVec 32} (h : reaches s (Reg.NET_PORT_CFG p))
    (hon : s.rd (Reg.NET_PORT_CFG_ENABLE p) = 1) (hoff : bitsOf w.toNat 31 1 = 0) :
    exec (.netPortEnable p w) s =
      .next (((s.portCfg p w).setEthPort p { (s.portCfg p w).ethPort p with negotiating := false }).linkDown p) := by
  have hstart : ¬(s.rd (Reg.NET_PORT_CFG_ENABLE p) = 0 ∧ bitsOf w.toNat 31 1 = 1) := by omega
  show execNetPortEnable p w s = _
  unfold execNetPortEnable
  rw [bar_of_reaches h]
  exact (if_neg hstart).trans (if_pos ⟨hon, hoff⟩)

theorem igmpReport_regs (s : State) (p : Nat) (group source : BitVec 32) (join : Bool) :
    (s.igmpReport p group source join).regs = s.regs := by
  unfold State.igmpReport
  exact ite_both (P := fun t : State => t.regs = s.regs) rfl rfl

theorem portPtp_ingestRegs (s : State) (p before after : Nat) : SameIngestRegs s (s.portPtp p before after) := by
  unfold State.portPtp
  exact ite_both (.refl s) ((SameIngestRegs.of_regs (igmpReport_regs _ _ _ _ _)).trans (runBmca_ingestRegs _))

theorem enable_putFields (s : State) (p : Nat) (w : BitVec 32) :
    (s.putFields (portFields p) w).rd (Reg.NET_PORT_CFG_ENABLE p) = bitsOf w.toNat 31 1 :=
  rd_putFields_first (show 31 + 1 ≤ 32 by decide) (by simp) s w

theorem enable_portCfg (s : State) {p : Nat} (w : BitVec 32) (hp : p < 2) :
    (s.portCfg p w).rd (Reg.NET_PORT_CFG_ENABLE p) = bitsOf w.toNat 31 1 := by
  refine ((portPtp_ingestRegs _ p _ _).rd (isIngestReg_port hp (.inl rfl))).trans ?_
  have hfields := enable_putFields s p w
  unfold State.portTake
  split
  · exact (rd_wr_part_other _ _ _ (by decide) (by decide)).trans hfields
  · split
    · exact ((netErr_ingestRegs _ _ _ _ _).rd (isIngestReg_port hp (.inl rfl))).trans hfields
    · exact hfields

theorem modes_portCfg {s : State} {p : Nat} (w : BitVec 32) (hp : p < 2) (hoff : s.rd (Reg.NET_PORT_CFG_ENABLE p) = 0) :
    (s.portCfg p w).rd (Reg.NET_PORT_CFG_MODES p) = bitsOf w.toNat 0 3 := by
  refine ((portPtp_ingestRegs _ p _ _).rd (isIngestReg_port hp (.inl rfl))).trans ?_
  unfold State.portTake
  rw [if_pos hoff]
  exact (rd_wr_part_same _ _ _ (by decide)).trans (Nat.mod_eq_of_lt (bitsOf_lt _ _ _))

end Sys2Proof.Machine
end

section
/-! SUPPORT. The flows: their configuration, the way to WAITING and back to DISABLED, and the paths that fall silent. -/

set_option Elab.async false

namespace Sys2Proof.Machine

/-! ### Enable and disable (R193, R196, R198) -/

/-- The write of a flow's other fields leaves its STATE. -/
theorem flowSt_flowCfg (s : State) {f : Nat} (w : BitVec 32) (hf : f < 32) : (s.flowCfg f w).flowSt f = s.flowSt f := by
  unfold State.flowCfg
  split
  · refine rd_putFields_other (fun r hr => ?_) s w
    simp only [flowFields, List.mem_cons, List.not_mem_nil, or_false] at hr
    rcases hr with rfl | rfl | rfl | rfl | rfl | rfl | rfl <;> simp
  · exact ite_both (P := fun t : State => t.flowSt f = s.flowSt f)
      ((netErr_ingestRegs _ _ _ _ _).rd (isIngestReg_flow hf (.inr rfl))) rfl

/-- Only what was sent out differs. -/
theorem reportPath_out (join : Bool) (s : State) (q : Bool × Nat × BitVec 32 × Nat × BitVec 32) : OutOnly s (State.reportPath join s q) := by
  unfold State.reportPath State.igmpReport
  exact ite_both (ite_both ⟨rfl⟩ (.refl s)) (.refl s)

theorem reportPaths_out (join : Bool) (l : List (Bool × Nat × BitVec 32 × Nat × BitVec 32)) (s : State) :
    OutOnly s (l.foldl (State.reportPath join) s) := OutOnly.foldl (reportPath_out join) l s

theorem OutOnly.regs {s t : State} (h : OutOnly s t) : t.regs = s.regs := by rw [h.eq]
theorem OutOnly.net {s t : State} (h : OutOnly s t) : t.net = s.net := by rw [h.eq]
theorem OutOnly.flow {s t : State} (h : OutOnly s t) (f : Nat) : t.flow f = s.flow f := flow_of_net h.net f
theorem OutOnly.rd {s t : State} (h : OutOnly s t) (g : RegField) : t.rd g = s.rd g := by
  unfold State.rd State.reg
  rw [h.regs]

/-- The flow of a stream's live ingest as it waits for its first packet: no SSRC, and each path's second report due. -/
theorem flowStart_spec (s : State) (f : Nat) :
    (s.flowStart f).flowSt f = 1 ∧ (s.flowStart f).rd (Reg.NET_FLOW_CFG_ENABLE f) = 1 ∧ ((s.flowStart f).flow f).ssrc = none := by
  unfold State.flowStart State.flowSt
  simp only
  generalize hs2 : State.setFlow _ f _ = s2
  have hout := reportPaths_out true (s2.paths f) s2
  rw [hout.rd, hout.rd, hout.flow, ← hs2]
  rw [State.setFlow_rd, State.setFlow_rd, State.flow_setFlow]
  refine ⟨rd_wr_part_same _ _ 1 (by decide), (rd_wr_other _ _ _ 1 (show 0 + 3 ≤ 32 by decide) (.inl ?_)).trans
    (rd_wr_part_same _ _ 1 (by decide)), rfl⟩
  simp

theorem exec_flowEnable_disabled {s : State} {f : Nat} {w : BitVec 32} (h : reaches s (Reg.NET_FLOW_CFG f)) (hf : f < 32)
    (hstate : s.flowSt f = 0) (hok : (s.flowCfg f w).flowOk f = true) :
    exec (.flowEnable f w) s = .next ((s.flowCfg f w).flowStart f) := by
  show execFlowEnable f w s = _
  unfold execFlowEnable
  rw [bar_of_reaches h]
  exact (if_pos ((flowSt_flowCfg s w hf).trans hstate)).trans (if_pos hok)

theorem exec_flowEnable_lehr {s : State} {f : Nat} {w : BitVec 32} (h : reaches s (Reg.NET_FLOW_CFG f)) (hf : f < 32)
    (hstate : s.flowSt f = 5) :
    exec (.flowEnable f w) s =
      .next (((s.flowCfg f w).wr (Reg.NET_FLOW_CFG_ENABLE f) 1).wr (Reg.NET_FLOW_STATUS_STATE f) 6) := by
  have hst : (s.flowCfg f w).flowSt f = 5 := (flowSt_flowCfg s w hf).trans hstate
  show execFlowEnable f w s = _
  unfold execFlowEnable
  rw [bar_of_reaches h]
  dsimp only
  rw [hst]
  rfl

theorem closeFrame_spec (s : State) (f : Nat) : (s.closeFrame f).regs = s.regs ∧ ((s.closeFrame f).flow f).cur = none ∧
    ((s.closeFrame f).flow f).ssrc = (s.flow f).ssrc := by
  unfold State.closeFrame
  dsimp only
  split
  · next hcur => exact ⟨rfl, hcur, rfl⟩
  · next ts n hcur =>
    have hset := State.flow_setFlow s f { s.flow f with cur := none, closedTs := (ts :: (s.flow f).closedTs).take 256 }
    split
    · exact ⟨rfl, (congrArg Flow.cur hset :), (congrArg Flow.ssrc hset :)⟩
    · exact ⟨rfl, (congrArg Flow.cur hset :), (congrArg Flow.ssrc hset :)⟩

/-- A flow that stops: its frame closes and its paths leave their groups. -/
def State.flowStop (s : State) (f : Nat) : State :=
  ((s.closeFrame f).paths f).foldl (State.reportPath false) (s.closeFrame f)

theorem exec_flowDisable_running {s : State} {f : Nat} {w : BitVec 32} (h : reaches s (Reg.NET_FLOW_CFG f)) (hf : f < 32)
    (hlo : 1 ≤ s.flowSt f) (hhi : s.flowSt f ≤ 4) (t : State)
    (ht : t = ((s.flowCfg f w).wr (Reg.NET_FLOW_CFG_ENABLE f) 0).flowStop f) :
    exec (.flowDisable f w) s = .next ((t.setFlow f { t.flow f with report2 := [] }).wr (Reg.NET_FLOW_STATUS_STATE f) 5) := by
  have hst : ((s.flowCfg f w).wr (Reg.NET_FLOW_CFG_ENABLE f) 0).flowSt f = s.flowSt f :=
    (rd_wr_other _ _ _ 0 (show 31 + 1 ≤ 32 by decide) (.inl (by simp))).trans (flowSt_flowCfg s w hf)
  subst ht
  show execFlowDisable f w s = _
  unfold execFlowDisable
  rw [bar_of_reaches h]
  exact if_pos (by rw [hst]; exact ⟨hlo, hhi⟩)

theorem flowStop_spec (s : State) (f : Nat) : (s.flowStop f).regs = s.regs ∧ ((s.flowStop f).flow f).cur = none := by
  obtain ⟨hregs, hcur, -⟩ := closeFrame_spec s f
  have hout := reportPaths_out false ((s.closeFrame f).paths f) (s.closeFrame f)
  refine ⟨hout.regs.trans hregs, ?_⟩
  unfold State.flowStop
  rw [hout.flow, hcur]

/-- Both paths of a flow are shown down. -/
def State.pathsOff (s : State) (f : Nat) : State := (s.wr (Reg.NET_FLOW_STATUS_PATH_A_UP f) 0).wr (Reg.NET_FLOW_STATUS_PATH_B_UP f) 0

theorem exec_flowLehrEnd_unlatched {s : State} {f : Nat} (h : s.flowSt f = 5) :
    exec (.flowLehrEnd f) s = .next ((s.pathsOff f).wr (Reg.NET_FLOW_STATUS_STATE f) 0) := if_pos h

theorem exec_flowLehrEnd_latched {s : State} {f : Nat} (h : s.flowSt f = 6) :
    exec (.flowLehrEnd f) s = .next ((s.pathsOff f).flowStart f) := (if_neg (by rw [h]; decide)).trans (if_pos h)

/-! ### Reports, losses and a new SSRC (R193, R200, R202) -/

/-- The second report of a path is no longer due. -/
def State.reported (s : State) (f : Nat) (b : Bool) : State :=
  s.setFlow f { s.flow f with report2 := (s.flow f).report2.filter (fun q => q.1 != b) }

theorem exec_igmpReportTimer_due {s : State} {f c : Nat} {b : Bool} (hmem : (b, c) ∈ (s.flow f).report2)
    (hdue : c + 10 ^ 9 ≤ s.time.mono) :
    exec (.igmpReportTimer f b) s =
      .next ((((s.reported f b).paths f).filter (fun p => p.1 == b)).foldl (State.reportPath true) (s.reported f b)) :=
  if_pos (List.any_eq_true.mpr ⟨(b, c), hmem, by simpa using hdue⟩)

/-- A missing number counts as lost for the flow. -/
def State.numberLost (s : State) (f n : Nat) : State :=
  s.setFlow f { s.flow f with missing := (s.flow f).missing.filter (fun m => m.1 != n), lost := n :: (s.flow f).lost }

theorem exec_mergeWindowExpiry_due {s : State} {f n c : Nat} (hmem : (n, c) ∈ (s.flow f).missing)
    (hdue : c + max 1 (s.rd (Reg.NET_FLOW_CFG_MERGE_WIN f)) * 1000 ≤ s.time.mono) :
    exec (.mergeWindowExpiry f n) s = .next ((s.numberLost f n).flowCnt f 0x0308) :=
  if_pos (List.any_eq_true.mpr ⟨(n, c), hmem, by simpa using hdue⟩)

theorem flowCnt_regs (s : State) (f id n : Nat) : (s.flowCnt f id n).regs = s.regs :=
  (State.flowCnt_keeps (L := 8388608) s f id n rfl (Keeps.refl s)).parts.same .regs rfl

theorem flowCnt_net (s : State) (f id n : Nat) : (s.flowCnt f id n).net = s.net :=
  (State.flowCnt_keeps (L := 8388608) s f id n rfl (Keeps.refl s)).parts.same .net rfl

/-- A flow that takes another SSRC: its frame closes, and its merge begins afresh. -/
def State.adopted (s : State) (f v : Nat) : State :=
  (s.closeFrame f).setFlow f { ((s.closeFrame f).flow f).afresh with
    ssrc := some v, lastPts := ((s.closeFrame f).flow f).lastPts, swWait := ((s.closeFrame f).flow f).swWait }

theorem exec_ssrcAdopt_due {s : State} {f v c : Nat} {b : Bool} (halt : ((s.flow f).path b).ssrcAlt = some (v, c))
    (hdue : c + 10 ^ 8 ≤ s.time.mono) : exec (.ssrcAdopt f b) s = .next ((s.adopted f v).netErr 0x0308 f) := by
  show execSsrcAdopt f b s = _
  unfold execSsrcAdopt
  rw [halt]
  exact if_neg (by omega)

/-! ### Silence (R204) -/

/-- A loss or silence of a flow is recorded, with an ERROR on its stream. -/
def State.flowFails (s : State) (f code d : Nat) : State := (s.netErr code f f d).flowError f code d

theorem flowError_keeps (s : State) (f code d : Nat) : Keeps 2 s (s.flowError f code d) :=
  State.flowError_keeps s f code d rfl (Keeps.refl s)

theorem flowFails_ingestRegs (s : State) (f code d : Nat) : SameIngestRegs s (s.flowFails f code d) :=
  (netErr_ingestRegs s code f f d).trans (.of_regs ((flowError_keeps _ f code d).parts.same .regs rfl))

theorem flowFails_net (s : State) (f code d : Nat) : (s.flowFails f code d).net = s.net :=
  ((flowError_keeps _ f code d).parts.same .net rfl).trans (netErr_net s code f f d)

/-- NET_FLOW_STATUS.PATH_A_UP or PATH_B_UP. -/
def pathUpField (f : Nat) (b : Bool) : RegField := if b then Reg.NET_FLOW_STATUS_PATH_B_UP f else Reg.NET_FLOW_STATUS_PATH_A_UP f

theorem pathUpField_addr (f : Nat) (b : Bool) : (pathUpField f b).addr = Reg.NET_FLOW_STATUS f := by cases b <;> rfl

/-- A path takes a new value in NET_FLOW_STATUS, and then STATE does. -/
theorem rd_pathUpField (s : State) (f : Nat) (b : Bool) {up st : Nat} (hup : up < 2) (hst : st < 8) (t : State)
    (ht : t = (s.wr (pathUpField f b) up).wr (Reg.NET_FLOW_STATUS_STATE f) st) :
    t.rd (pathUpField f b) = up ∧ t.flowSt f = st := by
  subst ht
  refine ⟨?_, (rd_wr_part_same _ _ st (by decide)).trans (Nat.mod_eq_of_lt hst)⟩
  cases b
  · exact ((rd_wr_part_other _ _ st (by decide) (by decide)).trans (rd_wr_part_same s _ up (by decide))).trans (Nat.mod_eq_of_lt hup)
  · exact ((rd_wr_part_other _ _ st (by decide) (by decide)).trans (rd_wr_part_same s _ up (by decide))).trans (Nat.mod_eq_of_lt hup)

/-- A path that is down, and a flow on its other one. -/
def State.pathLost (s : State) (f : Nat) (b : Bool) : State :=
  ((s.setFlow f ((s.flow f).setPath b { (s.flow f).path b with down := true })).wr (pathUpField f b) 0).wr
    (Reg.NET_FLOW_STATUS_STATE f) 3

theorem exec_pathLoss_due {s : State} {f : Nat} {b : Bool} (hlo : 1 ≤ s.flowSt f) (hhi : s.flowSt f ≤ 3)
    (hpath : b = false ∨ s.rd (Reg.NET_FLOW_CFG_MERGE f) = 1) (hon : s.rd (Reg.NET_FLOW_SILENT_PATH_LOSS_MS f) ≠ 0)
    (hdue : ((s.flow f).path b).lastAt + s.rd (Reg.NET_FLOW_SILENT_PATH_LOSS_MS f) * 10 ^ 6 ≤ s.time.mono) :
    exec (.pathLoss f b) s = .next ((s.pathLost f b).flowFails f 0x0303 (if b then 1 else 0)) :=
  if_pos ⟨hon, hlo, hhi, hpath, hdue⟩

theorem path_setPath (x : Flow) (b : Bool) (q : Path) : (x.setPath b q).path b = q := by cases b <;> rfl

/-- A flow whose paths are all silent. -/
def State.silent (s : State) (f : Nat) : State :=
  ((s.setFlow f { s.flow f with
    pathA := { (s.flow f).pathA with down := true }, pathB := { (s.flow f).pathB with down := true } }).pathsOff f).wr
    (Reg.NET_FLOW_STATUS_STATE f) 4

theorem exec_netSilent_due {s : State} {f : Nat} (hlo : 1 ≤ s.flowSt f) (hhi : s.flowSt f ≤ 3)
    (hon : s.rd (Reg.NET_FLOW_SILENT_SILENT_MS f) ≠ 0)
    (hdue : ∀ q ∈ s.paths f, ((s.flow f).path q.1).lastAt + s.rd (Reg.NET_FLOW_SILENT_SILENT_MS f) * 10 ^ 6 ≤ s.time.mono) :
    exec (.netSilent f) s = .next ((s.silent f).flowFails f 0x0304 (s.rd (Reg.NET_FLOW_SILENT_SILENT_MS f))) :=
  if_pos ⟨hon, hlo, hhi, List.all_eq_true.mpr fun q hq => decide_eq_true (hdue q hq)⟩

theorem rd_silent (s : State) (f : Nat) : (s.silent f).flowSt f = 4 ∧ (s.silent f).rd (Reg.NET_FLOW_STATUS_PATH_A_UP f) = 0 ∧
    (s.silent f).rd (Reg.NET_FLOW_STATUS_PATH_B_UP f) = 0 := by
  simp [State.silent, State.pathsOff, State.flowSt]

/-! ### The lanes of a port (R190, R191) -/

/-- The lanes that a mode uses: the lowest healthy ones. -/
def EthPort.lanesFor (x : EthPort) (m : Nat) : Nat :=
  sumNat ((((List.range 4).filter (fun l => !x.lanesBad.contains l)).take (modeLanes m)).map (2 ^ ·))

/-- A port comes up in a mode, and stamps in software until its latency is known. -/
def State.linkAtMode (s : State) (p m : Nat) : State :=
  (((s.setEthPort p { s.ethPort p with negotiating := false, inUse := (s.ethPort p).lanesFor m }).wr
    (Reg.NET_PORT_STATUS_LINK_UP p) 1).wr (Reg.NET_PORT_STATUS_MODE p) (m + 1)).wr (Reg.NET_PORT_STATUS_TS_HW p) 0

theorem exec_autonegComplete_mode {s : State} {p partner m : Nat} (h : (s.ethPort p).negotiating = true)
    (hmode : (s.advertised p).find? (fun m => bitsOf partner m 1 == 1) = some m) :
    exec (.autonegComplete p partner) s = .next (s.linkAtMode p m) := by
  show execAutonegComplete p partner s = _
  unfold execAutonegComplete
  dsimp only
  rw [h, hmode]
  rfl

theorem exec_autonegComplete_none {s : State} {p partner : Nat} (h : (s.ethPort p).negotiating = true)
    (hmode : (s.advertised p).find? (fun m => bitsOf partner m 1 == 1) = none) :
    exec (.autonegComplete p partner) s = .next (s.netLink p) := by
  show execAutonegComplete p partner s = _
  unfold execAutonegComplete
  dsimp only
  rw [h, hmode]
  rfl

theorem linkAtMode_spec (s : State) (p : Nat) {m : Nat} (hm : m < 3) : (s.linkAtMode p m).rd (Reg.NET_PORT_STATUS_LINK_UP p) = 1 ∧
    (s.linkAtMode p m).rd (Reg.NET_PORT_STATUS_MODE p) = m + 1 ∧ ((s.linkAtMode p m).ethPort p).negotiating = false := by
  unfold State.linkAtMode
  simp
  omega

/-- A lane is marked bad. -/
def EthPort.without (x : EthPort) (l : Nat) : EthPort := { x with lanesBad := l :: x.lanesBad }

def State.ethLaneLost (s : State) (p l : Nat) : State :=
  (s.setEthPort p ((s.ethPort p).without l)).wr (Reg.NET_PORT_STATUS_LANES_OK p) ((s.ethPort p).without l).lanesOk

theorem exec_netLaneFailure {s : State} {p l : Nat} (h : l ∉ (s.ethPort p).lanesBad) :
    exec (.netLaneFailure p l) s = if bitsOf (s.ethPort p).inUse l 1 = 1
      then .next ((s.ethLaneLost p l).linkLost p ((s.ethPort p).without l)) else .next (s.ethLaneLost p l) :=
  if_neg (by simpa using h)

theorem exec_netLinkLost {s : State} {p : Nat} (h : s.rd (Reg.NET_PORT_STATUS_LINK_UP p) = 1) :
    exec (.netLinkLost p) s = .next (s.linkLost p (s.ethPort p)) := if_pos h

/-- The receive latency of a port is known; the stamping unit is re-armed at once, or once a firmware reset is over. -/
def State.calibrated (s : State) (p lat : Nat) : State :=
  if s.pwr.inReset = some .fw then
    if s.pwr.tsHeld.contains p then s.wr (Reg.NET_PORT_TS_LAT_LAT p) lat
    else { s.wr (Reg.NET_PORT_TS_LAT_LAT p) lat with pwr := { s.pwr with tsHeld := p :: s.pwr.tsHeld } }
  else (s.wr (Reg.NET_PORT_TS_LAT_LAT p) lat).wr (Reg.NET_PORT_STATUS_TS_HW p) 1

theorem exec_latencyCalibrationDone {s : State} {p : Nat} (h : s.rd (Reg.NET_PORT_STATUS_LINK_UP p) = 1) (lat : Nat) :
    exec (.latencyCalibrationDone p lat) s = .next (s.calibrated p lat) := by
  refine (if_pos h).trans ?_
  unfold State.calibrated
  by_cases hfw : s.pwr.inReset = some .fw
  · exact (if_pos hfw).trans (congrArg Host.Outcome.next (if_pos hfw).symm)
  · exact (if_neg hfw).trans (congrArg Host.Outcome.next (if_neg hfw).symm)

theorem latency_ne_status (p : Nat) : Reg.NET_PORT_TS_LAT p ≠ Reg.NET_PORT_STATUS p := by
  simp only [Reg.NET_PORT_TS_LAT, Reg.NET_PORT_STATUS]
  omega

theorem calibrated_spec (s : State) (p : Nat) {lat : Nat} (hlat : lat < 2 ^ 16) :
    (s.calibrated p lat).rd (Reg.NET_PORT_TS_LAT_LAT p) = lat ∧
    (if s.pwr.inReset = some .fw then p ∈ (s.calibrated p lat).pwr.tsHeld ∧
        (s.calibrated p lat).rd (Reg.NET_PORT_STATUS_TS_HW p) = s.rd (Reg.NET_PORT_STATUS_TS_HW p)
      else (s.calibrated p lat).rd (Reg.NET_PORT_STATUS_TS_HW p) = 1) := by
  have hstored : (s.wr (Reg.NET_PORT_TS_LAT_LAT p) lat).rd (Reg.NET_PORT_TS_LAT_LAT p) = lat :=
    (rd_wr_part_same s _ lat (by decide)).trans (Nat.mod_eq_of_lt hlat)
  have hstatus : (s.wr (Reg.NET_PORT_TS_LAT_LAT p) lat).rd (Reg.NET_PORT_STATUS_TS_HW p) = s.rd (Reg.NET_PORT_STATUS_TS_HW p) :=
    rd_wr_reg s _ _ lat (latency_ne_status p).symm
  unfold State.calibrated
  by_cases hfw : s.pwr.inReset = some .fw
  · rw [if_pos hfw, if_pos hfw]
    split
    · next hheld => exact ⟨hstored, List.contains_iff_mem.mp hheld, hstatus⟩
    · exact ⟨hstored, List.mem_cons_self, hstatus⟩
  · rw [if_neg hfw, if_neg hfw]
    exact ⟨(rd_wr_reg _ _ _ 1 (latency_ne_status p)).trans hstored, rd_wr_part_same _ _ 1 (by decide)⟩

end Sys2Proof.Machine
end

section
/-! SUPPORT. The claim on the Ethernet ports and flows. -/

set_option Elab.async false

namespace Sys2Proof

open Machine

/-- Settles O34: each event's next state is a few writes to its port's or flow's registers; what else happens (a recorded error, a report,
the best master algorithm) keeps those registers. -/
theorem ethernetPortsAndFlowsFollowTheirEvents : Obligations.EthernetPortsAndFlowsFollowTheirEvents := by
  unfold Obligations.EthernetPortsAndFlowsFollowTheirEvents
  refine ⟨?portCfg, ?autoneg, ?lane, ?lost, ?flowCfg, ?lehr, ?report, ?window, ?adopt, ?silence⟩
  case portCfg =>
    intro s p w hp hreaches
    constructor
    · intro hoff hon
      have hstatus : Reg.NET_PORT_CFG p ≠ Reg.NET_PORT_STATUS p := by simp
      exact ⟨_, exec_netPortEnable_starts hreaches hoff hon, congrArg EthPort.negotiating (State.ethPort_setEthPort _ p _),
        ((rd_wr_reg _ _ _ _ hstatus).trans (enable_portCfg s w hp)).trans hon,
        (rd_wr_reg _ _ _ _ hstatus).trans (modes_portCfg w hp hoff)⟩
    · intro hon hoff
      have hdown := linkDown_down ((s.portCfg p w).setEthPort p { (s.portCfg p w).ethPort p with negotiating := false }) hp
      have hport := hdown.port
      rw [State.ethPort_setEthPort] at hport
      refine ⟨_, exec_netPortEnable_stops hreaches hon hoff, congrArg EthPort.negotiating hport, ?_, hdown.linkUp⟩
      refine Eq.trans ?_ ((enable_portCfg s w hp).trans hoff)
      unfold State.rd
      rw [hdown.reg _ (by simp only [Reg.NET_PORT_CFG]; omega) (by simp), State.setEthPort_reg]
  case autoneg =>
    intro s p partner _ hnegotiating
    exact ⟨fun m hm hmode => ⟨_, exec_autonegComplete_mode hnegotiating hmode, linkAtMode_spec s p hm⟩,
      fun hnone => ⟨_, exec_autonegComplete_none hnegotiating hnone, netLink_net s p, rd_netLink_valid s p⟩⟩
  case lane =>
    intro s p l hp hgood
    have hexec := exec_netLaneFailure hgood
    constructor
    · intro huse
      obtain ⟨hup, hport⟩ := linkLost_spec (s.ethLaneLost p l) ((s.ethPort p).without l) hp
      exact ⟨_, hexec.trans (if_pos huse), hup, congrArg EthPort.lanesBad hport, congrArg EthPort.negotiating hport⟩
    · intro hunused
      exact ⟨_, hexec.trans (if_neg (by omega)), rd_wr_part_other _ _ _ (by decide) (by decide),
        congrArg EthPort.lanesBad (State.ethPort_setEthPort s p ((s.ethPort p).without l))⟩
  case lost =>
    intro s p lat hp hlat hup
    obtain ⟨hdown, hport⟩ := linkLost_spec s (s.ethPort p) hp
    exact ⟨⟨_, exec_netLinkLost hup, hdown, congrArg EthPort.negotiating hport⟩,
      ⟨_, exec_latencyCalibrationDone hup lat, calibrated_spec s p hlat⟩⟩
  case flowCfg =>
    intro s f w hf hreaches
    refine ⟨fun hstate hok => ⟨_, exec_flowEnable_disabled hreaches hf hstate hok, flowStart_spec _ f⟩, fun hstate => ?_,
      fun hlo hhi => ?_⟩
    · exact ⟨_, exec_flowEnable_lehr hreaches hf hstate, rd_wr_part_same _ _ 6 (by decide),
        (rd_wr_reg _ _ _ 6 (by simp)).trans (rd_wr_part_same _ _ 1 (by decide))⟩
    · obtain ⟨hregs, hcur⟩ := flowStop_spec ((s.flowCfg f w).wr (Reg.NET_FLOW_CFG_ENABLE f) 0) f
      refine ⟨_, exec_flowDisable_running hreaches hf hlo hhi _ rfl, rd_wr_part_same _ _ 5 (by decide), ?_, ?_⟩
      · rw [rd_wr_reg _ _ _ 5 (by simp), State.setFlow_rd, (SameIngestRegs.of_regs hregs).rd (isIngestReg_flow hf (.inl rfl))]
        exact rd_wr_part_same _ _ 0 (by decide)
      · exact (congrArg Flow.cur (State.flow_setFlow _ f _)).trans hcur
  case lehr =>
    intro s f _
    exact ⟨fun hstate => ⟨_, exec_flowLehrEnd_unlatched hstate, rd_wr_part_same _ _ 0 (by decide)⟩,
      fun hstate => ⟨_, exec_flowLehrEnd_latched hstate, (flowStart_spec _ f).1⟩⟩
  case report =>
    intro s f c b hmem hdue
    have hout := reportPaths_out true (((s.reported f b).paths f).filter (fun p => p.1 == b)) (s.reported f b)
    exact ⟨_, exec_igmpReportTimer_due hmem hdue,
      (congrArg Flow.report2 (hout.flow f)).trans (congrArg Flow.report2 (State.flow_setFlow s f _)), hout.regs⟩
  case window =>
    intro s f n c hmem hdue
    have hflow := (flow_of_net (flowCnt_net (s.numberLost f n) f 0x0308 1) f).trans (State.flow_setFlow s f _)
    refine ⟨_, exec_mergeWindowExpiry_due hmem hdue, ?_, fun m hm => ?_⟩
    · rw [hflow]
      exact List.mem_cons_self
    · rw [hflow] at hm
      simpa using (List.mem_filter.mp hm).2
  case adopt =>
    intro s f b v c halt hdue
    have hflow := (flow_of_net (netErr_net (s.adopted f v) 0x0308 f 0 0) f).trans (State.flow_setFlow _ f _)
    exact ⟨_, exec_ssrcAdopt_due halt hdue, congrArg Flow.ssrc hflow, congrArg Flow.discont hflow, congrArg Flow.missing hflow⟩
  case silence =>
    intro s f hf hlo hhi
    constructor
    · intro b hpath hon hdue
      obtain ⟨hup, hst⟩ := rd_pathUpField (s.setFlow f ((s.flow f).setPath b { (s.flow f).path b with down := true })) f b
        (show 0 < 2 by decide) (show 3 < 8 by decide) (s.pathLost f b) rfl
      have hregs := flowFails_ingestRegs (s.pathLost f b) f 0x0303 (if b then 1 else 0)
      refine ⟨_, exec_pathLoss_due hlo hhi hpath hon hdue, (hregs.rd (isIngestReg_flow hf (.inr rfl))).trans hst, ?_,
        (hregs.rd (isIngestReg_flow hf (.inr (pathUpField_addr f b)))).trans hup⟩
      rw [flow_of_net (flowFails_net _ f _ _), State.pathLost, State.flow_wr, State.flow_wr, State.flow_setFlow, path_setPath]
    · intro hon hdue
      obtain ⟨hst, hA, hB⟩ := rd_silent s f
      have hregs := flowFails_ingestRegs (s.silent f) f 0x0304 (s.rd (Reg.NET_FLOW_SILENT_SILENT_MS f))
      have hrd : ∀ g : RegField, g.addr = Reg.NET_FLOW_STATUS f → _ = (s.silent f).rd g :=
        fun g hg => hregs.rd (isIngestReg_flow hf (.inr hg))
      exact ⟨_, exec_netSilent_due hlo hhi hon hdue, (hrd _ rfl).trans hst, (hrd _ rfl).trans hA, (hrd _ rfl).trans hB⟩

end Sys2Proof
end

section
/-! SUPPORT. Received packets: from the port to the flow, whose SSRC stays through the merge, and the frames in reassembly. -/

set_option Elab.async false

namespace Sys2Proof.Machine

/-! ### What a packet leaves alone on its way into a frame (R199 to R209) -/

/-- The SSRC of flow `f` and the registers that `isIngestReg` names are the same. -/
structure PacketKeeps (f : Nat) (s t : State) : Prop where
  ssrc : (t.flow f).ssrc = (s.flow f).ssrc
  regs : SameIngestRegs s t

theorem PacketKeeps.refl (f : Nat) (s : State) : PacketKeeps f s s := ⟨rfl, .refl s⟩

theorem PacketKeeps.trans {f : Nat} {s t u : State} (h : PacketKeeps f s t) (k : PacketKeeps f t u) : PacketKeeps f s u :=
  ⟨k.ssrc.trans h.ssrc, h.regs.trans k.regs⟩

theorem PacketKeeps.of_net {s t : State} (hnet : t.net = s.net) (hregs : SameIngestRegs s t) (f : Nat) : PacketKeeps f s t :=
  ⟨congrArg Flow.ssrc (flow_of_net hnet f), hregs⟩

/-- An operation of another unit. -/
theorem Keeps.packet {L : Nat} {s t : State} (h : Keeps L s t) (hregs : L.testBit 0 = false) (hnet : L.testBit 8 = false) (f : Nat) :
    PacketKeeps f s t := .of_net (h.parts.same .net hnet) (.of_regs (h.parts.same .regs hregs)) f

theorem PacketKeeps.setFlow {f : Nat} {s t : State} (h : PacketKeeps f s t) {x : Flow} (hx : x.ssrc = (s.flow f).ssrc) :
    PacketKeeps f s (t.setFlow f x) :=
  ⟨(congrArg Flow.ssrc (State.flow_setFlow t f x)).trans hx, h.regs.trans (.of_regs rfl)⟩

/-- A register that `isIngestReg` does not name is stored. -/
theorem PacketKeeps.wr {f : Nat} {s t : State} (h : PacketKeeps f s t) {g : RegField} (v : Nat) (hg : ¬isIngestReg g.addr) :
    PacketKeeps f s (t.wr g v) := ⟨h.ssrc, h.regs.setReg _ hg⟩

theorem PacketKeeps.flowCnt {f : Nat} {s t : State} (h : PacketKeeps f s t) (id n : Nat) : PacketKeeps f s (t.flowCnt f id n) :=
  h.trans ((State.flowCnt_keeps (L := 8388608) t f id n rfl (Keeps.refl t)).packet rfl rfl f)

theorem PacketKeeps.netErr {f : Nat} {s t : State} (h : PacketKeeps f s t) (code wh : Nat) : PacketKeeps f s (t.netErr code wh) :=
  h.trans (.of_net (netErr_net t code wh 0 0) (netErr_ingestRegs t code wh 0 0) f)

theorem PacketKeeps.updFrame {f : Nat} {s t : State} (h : PacketKeeps f s t) (st n : Nat) (g : Frame → Frame) :
    PacketKeeps f s (t.updFrame st n g) :=
  h.trans ((State.updFrame_keeps (L := 64) t st n g rfl (Keeps.refl t)).packet rfl rfl f)

theorem PacketKeeps.payloadError {f : Nat} {s t : State} (h : PacketKeeps f s t) : PacketKeeps f s (t.payloadError f) :=
  (h.flowCnt _ 1).netErr _ _

theorem PacketKeeps.closeFrame {f : Nat} {s t : State} (h : PacketKeeps f s t) : PacketKeeps f s (t.closeFrame f) := by
  obtain ⟨hregs, -, hssrc⟩ := closeFrame_spec t f
  exact h.trans ⟨hssrc, .of_regs hregs⟩

theorem freeFrame_packet (s : State) (q : Frame) (f : Nat) : PacketKeeps f s (s.freeFrame q) := by
  refine .of_net ((State.freeFrame_keeps (L := 9043995) s q rfl (Keeps.refl s)).parts.same .net rfl) ?_ f
  unfold State.freeFrame
  split
  · exact .of_lowRegs (freeAll_lowRegs s _ _)
  · exact .refl s

theorem draw_packet {s t : State} {o c n svc ticket : Nat} {fails : Bool} {l : Option (List Nat)}
    (h : s.draw o c n svc ticket fails = (t, l)) (f : Nat) : PacketKeeps f s t := by
  obtain rfl : (s.draw o c n svc ticket fails).1 = t := congrArg Prod.fst h
  exact .of_net ((State.draw_keeps (L := 9043995) s o c n svc ticket fails rfl (Keeps.refl s)).parts.same .net rfl)
    (.of_lowRegs (draw_lowRegs s o c n svc ticket fails)) f

/-- The parts of a packet are placed, or the frame is dropped as oversize or for want of buffers (R208, R209). -/
theorem placeParts_packet (s : State) (f st n k : Nat) (parts : List RtpPart) : PacketKeeps f s (s.placeParts f st n k parts) := by
  unfold State.placeParts
  dsimp only
  split
  · exact .refl f s
  · next q _ =>
    split
    · exact (PacketKeeps.refl f s).updFrame _ _ _
    · split
      · exact (((freeFrame_packet s q f).flowCnt _ 1).netErr _ _).updFrame _ _ _
      · refine ite_both ((PacketKeeps.refl f s).updFrame _ _ _) ?_
        split
        · next hdraw => exact (draw_packet hdraw f).updFrame _ _ _
        · next hdraw => exact ((draw_packet hdraw f).flowCnt _ 1).netErr _ _

/-- A frame opens (R151, R205 to R212). -/
theorem frameOpen_packet (s : State) (f p ts : Nat) : PacketKeeps f s (s.frameOpen f p ts) := by
  unfold State.frameOpen
  dsimp only
  have hcount := fun n => ((PacketKeeps.refl f s).flowCnt 0x0300 1).flowCnt 0x0302 n
  split
  · exact hcount _
  · split
    · exact ((hcount _).flowCnt _ 1).setFlow (by rfl)
    · refine ite_both ?_ ((hcount _).setFlow (by rfl))
      have htaken := fun (t : State) (st : Nat) (fr : Frame) (job : Nat) (name : Nat × Nat × Nat) =>
        (State.takeFrame_keeps (L := 24644) t st fr none job name rfl (Keeps.refl t)).packet rfl rfl f
      exact ite_both ((((hcount _).trans (htaken _ _ _ _ _)).setFlow (by rfl)).flowCnt _ 1) (((hcount _).trans (htaken _ _ _ _ _)).setFlow (by rfl))

/-- A frame opens for a packet, which is noted as its opener. -/
def State.openFor (s : State) (f p k : Nat) (onB : Bool) (ts : Nat) : State :=
  (s.frameOpen f p ts).setFlow f { (s.frameOpen f p ts).flow f with opener := (k, onB) }

theorem PacketKeeps.openFor {f : Nat} {s t : State} (h : PacketKeeps f s t) (p k : Nat) (onB : Bool) (ts : Nat) :
    PacketKeeps f s (t.openFor f p k onB ts) :=
  (h.trans (frameOpen_packet t f p ts)).setFlow (h.trans (frameOpen_packet t f p ts)).ssrc

/-- A packet's parts go into the open frame, which its marker closes. -/
def State.addPacket (s : State) (f k : Nat) (r : RtpPkt) : State :=
  let s1 := match s.openFrame f with
    | some (st, n) => if s.outOfOrder f st n r then s.payloadError f else s.placeParts f st n k r.parts
    | none => s
  if r.marker then s1.closeFrame f else s1

theorem PacketKeeps.addPacket {f : Nat} {s t : State} (h : PacketKeeps f s t) (k : Nat) (r : RtpPkt) :
    PacketKeeps f s (t.addPacket f k r) := by
  refine h.trans ?_
  have hplaced : PacketKeeps f t (match t.openFrame f with
      | some (st, n) => if t.outOfOrder f st n r then t.payloadError f else t.placeParts f st n k r.parts
      | none => t) := by
    split
    · exact ite_both (PacketKeeps.refl f t).payloadError (placeParts_packet t f _ _ k _)
    · exact .refl f t
  exact ite_both hplaced.closeFrame hplaced

/-- A merged packet joins the open frame, opens the next one, or comes too late (R205, R209). -/
theorem PacketKeeps.packetIn {f : Nat} {s t : State} (h : PacketKeeps f s t) (p k : Nat) (onB : Bool) (r : RtpPkt) :
    PacketKeeps f s (t.packetIn f p k onB r) := by
  unfold State.packetIn
  refine ite_both (h.flowCnt _ 1) ?_
  split
  · refine ite_both (h.addPacket k r) (ite_both ?_ (h.flowCnt _ 1))
    exact (h.closeFrame.openFor p k onB r.ts).addPacket k r
  · exact (h.openFor p k onB r.ts).addPacket k r

theorem setPath_ssrc (x : Flow) (b : Bool) (q : Path) : (x.setPath b q).ssrc = x.ssrc := by cases b <;> rfl

theorem pathSeq_packet (s : State) (f : Nat) (b : Bool) (n : Nat) : PacketKeeps f s (s.pathSeq f b n) := by
  have h := fun q => (PacketKeeps.refl f s).setFlow (setPath_ssrc (s.flow f) b q)
  unfold State.pathSeq
  dsimp only
  split
  · exact h _
  · exact ite_both ((h _).flowCnt _ _) (.refl f s)

theorem noteLead_packet (s : State) {f : Nat} (b : Bool) (n : Nat) (hf : f < 32) : PacketKeeps f s (s.noteLead f b n) := by
  unfold State.noteLead
  dsimp only
  split
  · exact .refl f s
  · refine PacketKeeps.wr ((PacketKeeps.refl f s).setFlow (by rfl)) _ ?_
    simp only [isIngestReg, Reg.NET_FLOW_SKEW]
    omega

theorem preferA_packet (s : State) (f p : Nat) (b : Bool) (n : Nat) : PacketKeeps f s (s.preferA f p b n) := by
  unfold State.preferA
  dsimp only
  refine ite_both ?_ (.refl f s)
  split
  · have hstamped := fun st k t fl => (State.restamp_keeps (L := 8256) s st k t fl rfl (Keeps.refl s)).packet rfl rfl f
    refine ite_both ((PacketKeeps.setFlow ((hstamped _ _ _ _).setFlow (by rfl)) ?_).flowCnt _ 1) ((hstamped _ _ _ _).setFlow (by rfl))
    exact ((hstamped _ _ _ _).setFlow (by rfl)).ssrc
  · exact .refl f s

/-- The merge takes a packet as a duplicate, as late, or into a frame (R201, R202). -/
theorem merge_packet (s : State) {f : Nat} (p : Nat) (b : Bool) (r : RtpPkt) (hf : f < 32) : PacketKeeps f s (s.merge f p b r) := by
  unfold State.merge
  dsimp only
  have hseq := pathSeq_packet s f b
  refine ite_both ((hseq _).flowCnt _ 1) (ite_both ?_ ?_)
  · exact (((hseq _).trans (preferA_packet _ f p b _)).trans (noteLead_packet _ b _ hf)).flowCnt _ 1
  · refine PacketKeeps.packetIn (PacketKeeps.setFlow (hseq _) ?_) p _ b r
    exact (hseq _).ssrc

end Sys2Proof.Machine
end

section
/-! SUPPORT. A frame on the wire: which flow it reaches, and the frames in reassembly that close or wait for a stamp. -/

set_option Elab.async false

namespace Sys2Proof.Machine

/-! ### Reception at a port (R192, R195, R197) -/

/-- The port is up, and the device is neither in a reset nor STOWED. -/
structure State.Hears (s : State) (port : Nat) : Prop where
  up : s.rd (Reg.NET_PORT_STATUS_LINK_UP port) = 1
  running : s.held = false
  awake : s.rd Reg.PWR_STATUS_STATE ≠ 4

/-- A frame is counted as discarded. -/
def State.discarded (s : State) (port : Nat) : State := s.bump (Reg.NET_PORT_DISCARDS_COUNT port)

/-- The length, check sequence or tag of a frame is wrong. -/
def State.badFrame (s : State) (port : Nat) (fr : EthFrame) : Prop :=
  9022 < fr.len ∨ fr.fcsOk = false ∨ s.tagOk port fr.vlan = false

variable {s : State} {port : Nat} {fr : EthFrame}

theorem State.Hears.not_deaf (h : s.Hears port) :
    ¬(s.rd (Reg.NET_PORT_STATUS_LINK_UP port) = 0 ∨ s.held = true ∨ s.rd Reg.PWR_STATUS_STATE = 4) := by
  obtain ⟨hup, hrunning, hawake⟩ := h
  simp [hup, hrunning, hawake]

theorem exec_ethFrameReceive_bad (h : s.Hears port) (hbad : s.badFrame port fr) :
    exec (.ethFrameReceive port fr) s = .next (s.discarded port) :=
  (if_neg h.not_deaf).trans (if_pos hbad)

theorem exec_ethFrameReceive_unmatched {dst src : BitVec 32} {udp : Nat} {r : RtpPkt} (h : s.Hears port)
    (hkind : fr.kind = .udp dst src udp r) (hmatch : s.matchFlow port dst src udp = none) :
    exec (.ethFrameReceive port fr) s = .next (s.discarded port) := by
  show execEthFrameReceive port fr s = _
  unfold execEthFrameReceive
  dsimp only
  rw [if_neg h.not_deaf, hkind]
  dsimp only
  rw [hmatch]
  exact ite_self _

theorem exec_ethFrameReceive_matched {dst src : BitVec 32} {udp f : Nat} {b : Bool} {r : RtpPkt} (h : s.Hears port)
    (hgood : ¬s.badFrame port fr) (hkind : fr.kind = .udp dst src udp r) (hmatch : s.matchFlow port dst src udp = some (f, b)) :
    exec (.ethFrameReceive port fr) s =
      if (s.flowStream f).isSome then .next (s.receivePkt f port b r) else .next ((s.discarded port).pathUp f b) := by
  show execEthFrameReceive port fr s = _
  unfold execEthFrameReceive
  dsimp only
  rw [if_neg h.not_deaf]
  refine (if_neg hgood).trans ?_
  rw [hkind]
  dsimp only
  rw [hmatch]
  rfl

theorem discarded_spec (s : State) (port : Nat) :
    (s.discarded port).rd (Reg.NET_PORT_DISCARDS_COUNT port) = (s.rd (Reg.NET_PORT_DISCARDS_COUNT port) + 1) % 2 ^ 32 ∧
    onlyRegs [Reg.NET_PORT_DISCARDS port] s (s.discarded port) :=
  ⟨rd_bump_same s _ 1 (show 0 + 32 ≤ 32 by decide),
    ((RegsHif.refl [Reg.NET_PORT_DISCARDS port] s).wr (f := Reg.NET_PORT_DISCARDS_COUNT port) _ List.mem_cons_self).onlyRegs rfl⟩

/-! ### A path that receives (R200, R204) -/

theorem pathUp_up (s : State) (f : Nat) (b : Bool) : (s.pathUp f b).rd (pathUpField f b) = 1 :=
  (rd_pathUpField (s.setFlow f ((s.flow f).setPath b { (s.flow f).path b with down := false, lastAt := s.time.mono })) f b
    (show 1 < 2 by decide) (ite_both (P := fun st => st < 8) (by decide) (by decide)) (s.pathUp f b) rfl).1

theorem rd_pathUp_other (s : State) (f : Nat) (b : Bool) {g : RegField} (hg : g.addr ≠ Reg.NET_FLOW_STATUS f) :
    (s.pathUp f b).rd g = s.rd g :=
  (rd_wr_reg _ _ g _ hg).trans (rd_wr_reg _ (pathUpField f b) g _ (pathUpField_addr f b ▸ hg))

theorem pathUp_ssrc (s : State) (f : Nat) (b : Bool) : ((s.pathUp f b).flow f).ssrc = (s.flow f).ssrc :=
  (congrArg Flow.ssrc (State.flow_setFlow s f _)).trans (setPath_ssrc _ b _)

/-- A packet of a path is counted, and the path is up. -/
def State.packetHeard (s : State) (f : Nat) (b : Bool) : State := (s.flowCnt f (if b then 0x0304 else 0x0303)).pathUp f b

/-- A flow takes the SSRC of its first packet. -/
def State.firstSsrc (s : State) (f : Nat) (b : Bool) (v : Nat) : State :=
  (s.packetHeard f b).setFlow f { (s.packetHeard f b).flow f with ssrc := some v }

theorem receivePkt_first {f : Nat} {b : Bool} {r : RtpPkt} (hcheck : s.rd (Reg.NET_FLOW_CFG_PT_CHECK f) = 0)
    (hnone : (s.flow f).ssrc = none) (hgood : s.payloadBad f r = false) :
    s.receivePkt f port b r = (s.firstSsrc f b r.ssrc).merge f port b r := by
  have hssrc : ((s.packetHeard f b).flow f).ssrc = none := by
    rw [State.packetHeard, pathUp_ssrc, flow_of_net (flowCnt_net _ _ _ _), hnone]
  have hpt : (s.packetHeard f b).rd (Reg.NET_FLOW_CFG_PT_CHECK f) = 0 := by
    rw [State.packetHeard, rd_pathUp_other _ _ _ (by simp), State.rd, State.reg, flowCnt_regs]
    exact hcheck
  unfold State.receivePkt
  dsimp only
  rw [← State.packetHeard, hpt, hssrc, hgood]
  rfl

/-- The SSRC of a flow's first packet stays, and its path is up. -/
theorem receivePkt_first_spec {f : Nat} {b : Bool} {r : RtpPkt} (hf : f < 32) (hcheck : s.rd (Reg.NET_FLOW_CFG_PT_CHECK f) = 0)
    (hnone : (s.flow f).ssrc = none) (hgood : s.payloadBad f r = false) :
    ((s.receivePkt f port b r).flow f).ssrc = some r.ssrc ∧ (s.receivePkt f port b r).rd (pathUpField f b) = 1 := by
  rw [receivePkt_first hcheck hnone hgood]
  obtain ⟨hssrc, hregs⟩ := merge_packet (s.firstSsrc f b r.ssrc) port b r hf
  exact ⟨hssrc.trans (congrArg Flow.ssrc (State.flow_setFlow _ f _)),
    (hregs.rd (isIngestReg_flow hf (.inr (pathUpField_addr f b)))).trans (pathUp_up _ f b)⟩

/-! ### Frames in reassembly (R205, R212) -/

/-- The frame in reassembly closes as stale, and its picture is lost. -/
def State.staleClosed (s : State) (f st n : Nat) (q : Frame) : State :=
  ((s.closeFrame f).updFrame st n (fun q => { q with stale := true })).dropLive st q

theorem exec_frameStaleClose_due {f st n : Nat} {q : Frame} (hopen : s.openFrame f = some (st, n))
    (hfind : (s.stream st).frames.find? (fun q => q.seq == n) = some q) (hage : s.staleBound st < s.time.mono - q.mono) :
    exec (.frameStaleClose f) s = .next (s.staleClosed f st n q) := by
  show execFrameStaleClose f s = _
  unfold execFrameStaleClose
  rw [hopen]
  dsimp only
  rw [hfind]
  exact if_pos hage

theorem staleClosed_cur (s : State) (f st n : Nat) (q : Frame) : ((s.staleClosed f st n q).flow f).cur = none := by
  have hnet : (s.staleClosed f st n q).net = (s.closeFrame f).net :=
    (State.dropLive_keeps (L := 44015835) _ st q rfl (Keeps.refl _)).parts.same .net rfl
  rw [flow_of_net hnet]
  exact (closeFrame_spec s f).2.1

/-- A frame with a stamp of the present tick. -/
def Frame.stamped (q : Frame) (t : Stamp) (mono flags : Nat) : Frame := { q with ct := t, mono := mono, flags := flags }

theorem restamp_find (s : State) (st n : Nat) (t : Stamp) (flags : Nat) :
    ((s.restamp st n t flags).stream st).frames.find? (fun q => q.seq == n) =
      ((s.stream st).frames.find? (fun q => q.seq == n)).map fun q => q.stamped t s.time.mono flags := by
  have hstamped : ((s.updFrame st n fun q => q.stamped t s.time.mono flags).stream st).frames.find? (fun q => q.seq == n) =
      ((s.stream st).frames.find? (fun q => q.seq == n)).map fun q => q.stamped t s.time.mono flags := by
    unfold State.updFrame
    rw [State.stream_setStream]
    exact find_updFirst (fun q : Frame => q.seq == n) (fun q => q.stamped t s.time.mono flags) (fun _ h => h) _
  unfold State.restamp
  dsimp only
  split
  · exact hstamped
  · exact hstamped

/-- The oldest waiting frame is stamped in software, and the others go on waiting. -/
def State.swStamped (s : State) (f st n : Nat) (l : List (Nat × Nat)) : State :=
  (s.restamp st n { s.now with sub := 0 } 8).setFlow f { s.flow f with swWait := l }

theorem exec_swTimestampInterrupt_waiting {f st n : Nat} {l : List (Nat × Nat)} (h : (s.flow f).swWait = (st, n) :: l) :
    exec (.swTimestampInterrupt f) s = .next (s.swStamped f st n l) := by
  show execSwTimestampInterrupt f s = _
  unfold execSwTimestampInterrupt
  rw [h]
  rfl

end Sys2Proof.Machine
end

section
/-! SUPPORT. The PTP engine and the servo: the best master, offsets and path delays, and SERVO_STATE. -/

set_option Elab.async false

namespace Sys2Proof.Machine

/-! ### The best master (R221, R222) -/

theorem isIngestReg_timeCtrl : isIngestReg Reg.TIME_CTRL := by
  simp only [isIngestReg]
  decide

/-- The master that an Announce speaks of, heard now. -/
def masterOf (a : Announce) (now : Nat) : PtpMaster :=
  { port := a.port, identity := a.identity, gm := a.gm, rank := a.rank, steps := a.steps, domain := a.domain
    interval := a.interval, heard := now }

/-- Other masters are known. -/
def State.withMasters (s : State) (l : List PtpMaster) : State := { s with time := { s.time with masters := l } }

theorem ptpListens_same {s t : State} (h : SameIngestRegs s t) (p : Nat) : t.ptpListens p = s.ptpListens p := by
  have hctrl : ∀ lo w, t.rd ⟨Reg.TIME_CTRL, lo, w⟩ = s.rd ⟨Reg.TIME_CTRL, lo, w⟩ := fun lo w => h.rd isIngestReg_timeCtrl
  unfold State.ptpListens
  rw [hctrl, hctrl]
  by_cases hp : p < 2
  · rw [h.rd (f := Reg.NET_PORT_CFG_PTP_EN p) (isIngestReg_port hp (.inl rfl))]
  · simp only [hp, false_and, and_false]

theorem validMasters_same {s t : State} (h : SameIngestRegs s t) (hmasters : t.time.masters = s.time.masters) :
    t.validMasters = s.validMasters := by
  unfold State.validMasters
  rw [hmasters, h.rd (f := Reg.TIME_CTRL_DOMAIN) isIngestReg_timeCtrl]
  simp only [ptpListens_same h]

theorem masterPort_time (s : State) : s.masterPort.time = s.time := by
  unfold State.masterPort
  split <;> rfl

/-- The best master's grandmaster is the device's. -/
theorem runBmca_time (s : State) : s.runBmca.time = { s.time with gm := (bestMaster s.validMasters).map (·.gm) } := by
  rw [runBmca_eq]
  split
  · next hsame => rw [masterPort_time, hsame]
  · rw [timePn_time, State.withGm, masterPort_time]

theorem runBmca_spec (s : State) : s.runBmca.time.gm = (bestMaster s.runBmca.validMasters).map (·.gm) ∧
    s.runBmca.time.masters = s.time.masters := by
  have htime := runBmca_time s
  have hmasters : s.runBmca.time.masters = s.time.masters := (congrArg Time.masters htime :)
  exact ⟨validMasters_same (runBmca_ingestRegs s) hmasters ▸ (congrArg Time.gm htime :), hmasters⟩

variable {s : State}

theorem exec_ptpAnnounce_heard {a : Announce} (hlistens : s.ptpListens a.port = true) (hdomain : a.domain = s.rd Reg.TIME_CTRL_DOMAIN) :
    exec (.ptpAnnounce a) s = .next (s.withMasters (s.time.masters.filter (fun x => x.port != a.port || x.identity != a.identity) ++
      [masterOf a s.time.mono])).runBmca := if_pos ⟨hlistens, hdomain⟩

theorem exec_announceReceiptTimeout_due {m : PtpMaster} (hbest : bestMaster s.validMasters = some m)
    (hdue : m.heard + 3 * m.interval ≤ s.time.mono) :
    exec .announceReceiptTimeout s = .next (s.withMasters (s.time.masters.filter fun x => x != m)).runBmca := by
  show execAnnounceReceiptTimeout s = _
  unfold execAnnounceReceiptTimeout
  rw [hbest]
  exact if_neg (by omega)

/-! ### SERVO_STATE (R225) -/

theorem rd_timePn (s : State) (e : Nat) (ct : Stamp) {g : RegField} (hg : g.addr < 0x1900000) (hlost : g.addr ≠ Reg.HIF_SVC_LOST) :
    (s.timePn e ct).rd g = s.rd g := by
  unfold State.rd
  rw [(timePn_lowRegs s e ct).reg _ hg hlost]

theorem servo_toServo (s : State) {st : Nat} (h : st < 16) : (s.toServo st).servo = st := by
  unfold State.toServo
  split
  · assumption
  · exact (rd_timePn _ _ _ (by decide) (by decide)).trans ((rd_wr_part_same s _ st (by decide)).trans (Nat.mod_eq_of_lt h))

theorem toServo_time (s : State) (st : Nat) : (s.toServo st).time = s.time := by
  unfold State.toServo
  exact ite_both (P := fun t : State => t.time = s.time) rfl (timePn_time _ _ _)

theorem exec_servoHoldover_due {c : Nat} (hsync : s.time.lastSync = some c) (hservo : s.servo = 1 ∨ s.servo = 2)
    (hdue : c + s.rd Reg.TIME_SERVO_HOLD_HOLDOVER_MS * 10 ^ 6 ≤ s.time.mono) : ∃ u : State, exec .servoHoldover s = .next (u.toServo 3) := by
  show ∃ u, execServoHoldover s = _
  unfold execServoHoldover
  rw [hsync]
  exact ⟨_, if_pos ⟨hservo, hdue⟩⟩

theorem exec_servoEnWrite_off (h : reaches s Reg.TIME_CTRL) :
    exec (.servoEnWrite false) s = .next ((s.wr Reg.TIME_CTRL_SERVO_EN 0).toServo 4) := by
  show execServoEnWrite false s = _
  unfold execServoEnWrite
  rw [bar_of_reaches h]
  rfl

theorem exec_servoEnWrite_on (h : reaches s Reg.TIME_CTRL) (hmanual : s.servo = 4) :
    exec (.servoEnWrite true) s = .next ((s.wr Reg.TIME_CTRL_SERVO_EN 1).toServo 0) := by
  have hstill : (s.wr Reg.TIME_CTRL_SERVO_EN 1).servo = 4 := (rd_wr_reg s _ _ 1 (by decide)).trans hmanual
  show execServoEnWrite true s = _
  unfold execServoEnWrite
  rw [bar_of_reaches h]
  exact congrArg Host.Outcome.next (if_pos hstill)

/-- SERVO_EN and SERVO_STATE after a write of SERVO_EN that moves the servo. -/
theorem toServo_servoEn (s : State) {en st : Nat} (hen : en < 2) (hst : st < 16) :
    ((s.wr Reg.TIME_CTRL_SERVO_EN en).toServo st).servo = st ∧
    ((s.wr Reg.TIME_CTRL_SERVO_EN en).toServo st).rd Reg.TIME_CTRL_SERVO_EN = en :=
  ⟨servo_toServo _ hst, ((toServo_ingestRegs _ st).rd isIngestReg_timeCtrl).trans
    ((rd_wr_part_same s _ en (by decide)).trans (Nat.mod_eq_of_lt hen))⟩

theorem exec_step_free (h : reaches s Reg.TIME_CTRL) (hservo : s.servo = 0 ∨ s.servo = 4) :
    exec .step s = .next { s with time := { s.time with step := some .toSet } } := by
  show execStep s = _
  unfold execStep
  rw [bar_of_reaches h]
  exact if_pos hservo

theorem exec_step_locked (h : reaches s Reg.TIME_CTRL) (hfree : s.servo ≠ 0) (hmanual : s.servo ≠ 4) :
    exec .step s = .next (s.timeErr 0x0309) := by
  show execStep s = _
  unfold execStep
  rw [bar_of_reaches h]
  exact if_neg (by omega)

theorem rd_timeErr_valid (s : State) (code d0 d1 : Nat) : (s.timeErr code d0 d1).rd Reg.TIME_ERR_VALID = 1 :=
  (rd_file _ _ _ _ _ _ _ (by decide) (by decide)).trans
    (rd_setErr_valid s Reg.TIME_ERR false (0, 0, 0) code (show 0 + 0 ≤ 30 by decide) (.inr rfl))

/-! ### Sync and the path delay (R223, R225) -/

theorem noteOffset_spec (s : State) (off : Int) : (s.noteOffset off).time.lastSync = some s.time.mono ∧
    (s.noteOffset off).reg Reg.TIME_OFFSET = BitVec.ofInt 32 (clampInt (-2147483648) 2147483647 off) :=
  ⟨rfl, reg_setReg_same _ _ _⟩

theorem rd_noteOffset (s : State) (off : Int) {g : RegField} (hg : g.addr ≠ Reg.TIME_OFFSET) : (s.noteOffset off).rd g = s.rd g :=
  rd_setReg_other _ _ g _ hg

/-- The first offset of a free servo starts it (R225). -/
theorem servoOffset_free (h : s.servo = 0) (offset intervalNs : Int) :
    (s.servoOffset offset intervalNs).servo = 1 ∧ (s.servoOffset offset intervalNs).time.lastSync = s.time.lastSync := by
  unfold State.servoOffset
  dsimp only
  rw [if_pos (.inl h)]
  refine ⟨servo_toServo _ (by decide), (congrArg Time.lastSync (toServo_time _ 1)).trans ?_⟩
  exact ite_both (P := fun t : State => t.time.lastSync = s.time.lastSync) rfl rfl

section Sync

variable {port dom : Nat} (hsyncs : s.ptpSyncs port = true) (hdomain : dom = s.rd Reg.TIME_CTRL_DOMAIN)

include hsyncs in
theorem exec_delayReqTimer_taken : exec (.delayReqTimer port) s = .next (s.post (.delayReq port (s.reg (Reg.NET_PORT_IPV4 port))
    (s.rd (Reg.NET_PORT_CFG_VLAN_ID port)) (s.rd (Reg.NET_PORT_CFG_PTP_DSCP port)))) := if_pos hsyncs

/-- The mean of the last path delays is noted in TIME_PATH_DELAY. -/
def State.delayNoted (s : State) (l : List Int) : State :=
  { s with time := { s.time with delays := l, meanDelay := rneDiv (l.foldl (· + ·) 0) l.length } }.setReg Reg.TIME_PATH_DELAY
    (BitVec.ofInt 32 (rneDiv (l.foldl (· + ·) 0) l.length))

include hsyncs hdomain in
theorem exec_ptpDelayResp_taken (delay : Int) :
    exec (.ptpDelayResp port dom delay) s = .next (s.delayNoted ((delay :: s.time.delays).take 8)) := if_pos ⟨hsyncs, hdomain⟩

include hsyncs hdomain in
theorem exec_ptpSync_off (t1 t2 corr : Int) (h : s.rd Reg.TIME_CTRL_SERVO_EN = 0) :
    exec (.ptpSync port dom t1 t2 corr) s = .next (s.noteOffset ((t2 - t1) - s.time.meanDelay - corr)) := by
  have hen := rd_noteOffset s ((t2 - t1) - s.time.meanDelay - corr) (g := Reg.TIME_CTRL_SERVO_EN) (by decide)
  exact (if_pos ⟨hsyncs, hdomain⟩).trans (congrArg Host.Outcome.next (if_neg (by omega)))

include hsyncs hdomain in
theorem exec_ptpSync_on (t1 t2 corr : Int) (h : s.rd Reg.TIME_CTRL_SERVO_EN = 1) : exec (.ptpSync port dom t1 t2 corr) s =
    .next ((s.noteOffset ((t2 - t1) - s.time.meanDelay - corr)).servoOffset ((t2 - t1) - s.time.meanDelay - corr) s.syncInterval) := by
  have hen := rd_noteOffset s ((t2 - t1) - s.time.meanDelay - corr) (g := Reg.TIME_CTRL_SERVO_EN) (by decide)
  exact (if_pos ⟨hsyncs, hdomain⟩).trans (congrArg Host.Outcome.next (if_pos (hen.trans h)))

end Sync

end Sys2Proof.Machine
end

section
/-! SUPPORT. The clock and its pins: a step that is loaded, pulse outputs and event inputs. -/

set_option Elab.async false

namespace Sys2Proof.Machine

/-! ### The load of a clock step (R219) -/

/-- The clock and TIME_STATUS are the same; outputs and arms may differ. -/
structure SameClock (s t : State) : Prop where
  time : t.time = { s.time with outs := t.time.outs, arms := t.time.arms }
  status : t.reg Reg.TIME_STATUS = s.reg Reg.TIME_STATUS

theorem SameClock.refl (s : State) : SameClock s s := ⟨rfl, rfl⟩

theorem SameClock.trans {s t u : State} (h : SameClock s t) (k : SameClock t u) : SameClock s u := by
  refine ⟨?_, k.status.trans h.status⟩
  have ht := h.time
  have hu := k.time
  rw [ht] at hu
  exact hu

theorem SameClock.setTpoNext {s t : State} (h : SameClock s t) (k : Nat) (x : Option Nat) : SameClock s (t.setTpoNext k x) :=
  h.trans ⟨rfl, rfl⟩

theorem SameClock.wr {s t : State} (h : SameClock s t) {f : RegField} (v : Nat) (hf : Reg.TIME_STATUS ≠ f.addr) : SameClock s (t.wr f v) :=
  h.trans ⟨rfl, reg_wr_other t f v _ hf⟩

theorem SameClock.timeErr {s t : State} (h : SameClock s t) (code : Nat) : SameClock s (t.timeErr code) := by
  have htime := timeErr_time t code 0 0
  exact h.trans ⟨by rw [htime], (timeErr_records t code 0 0).reg _ (by decide) (by decide) (by decide)⟩

theorem timePn_sameClock (s : State) (e : Nat) (ct : Stamp) : SameClock s (s.timePn e ct) :=
  ⟨by rw [timePn_time], (timePn_lowRegs s e ct).reg _ (by decide) (by decide)⟩

theorem SameClock.foldl {α : Type} {f : State → α → State} (hf : ∀ s x, SameClock s (f s x)) (l : List α) (s : State) :
    SameClock s (l.foldl f s) :=
  List.foldlRecOn l f (SameClock.refl s) fun t ht x _ => ht.trans (hf t x)

theorem status_ne_tpoCfg (k : Nat) : Reg.TIME_STATUS ≠ Reg.TIME_TPO_CFG k := by
  simp only [Reg.TIME_STATUS, Reg.TIME_TPO_CFG]
  omega

theorem tpoStep_sameClock (t0 t1 : Nat) (s : State) (k : Nat) : SameClock s (State.tpoStep t0 t1 s k) := by
  unfold State.tpoStep
  split
  · exact .refl s
  · exact ite_both ((SameClock.refl s).setTpoNext _ _) (ite_both ((SameClock.refl s).wr _ (status_ne_tpoCfg k)) (.refl s))

theorem armNow_sameClock (s : State) (k : Nat) : SameClock s (s.armNow k) := by
  have hoff : SameClock s ((s.wr (Reg.TIME_TPO_CFG_ARM k) 0).setTpoNext k none) :=
    ((SameClock.refl s).wr _ (status_ne_tpoCfg k)).setTpoNext _ _
  unfold State.armNow
  exact ite_both (.refl s) (ite_both hoff (ite_both (hoff.timeErr _) (ite_both
    (ite_both (hoff.wr _ (status_ne_tpoCfg k)) ((SameClock.refl s).setTpoNext _ _)) ((SameClock.refl s).setTpoNext _ _))))

/-- The value of TIME_SET in units of 2^-64 ns. -/
def State.setValue (s : State) : Nat := (s.rd64 Reg.TIME_SET_SEC_LO Reg.TIME_SET_SEC_HI * 10 ^ 9 + (s.reg Reg.TIME_SET_NS).toNat) * 2 ^ 64

/-- The clock takes the value of TIME_SET in place of a tick. -/
def State.clockSet (s : State) : State :=
  { s with time := { s.time.setTotal s.setValue with step := none, mono := s.time.mono + 40 },
           snap := { s.snap with jump := some (s.clockNs, s.setValue / 2 ^ 64) } }

/-- The new clock is shown valid and announced, and the armed outputs follow it. -/
def State.clockStepped (s : State) : State :=
  let s2 := (s.clockSet.wr Reg.TIME_STATUS_VALID 1).timePn 5 s.clockSet.now
  (List.range 4).foldl (State.tpoStep s.clockNs s2.clockNs) s2

/-- No arm waits for a step. -/
def State.withoutArms (s : State) : State := { s with time := { s.time with arms := [] } }

theorem loadStep_toSet (s : State) :
    s.loadStep .toSet = s.clockStepped.time.arms.foldl State.armNow s.clockStepped.withoutArms := by
  simp only [State.loadStep, State.clockStepped, State.withoutArms, State.clockSet, State.setValue]

theorem clockStepped_sameClock (s : State) : SameClock (s.clockSet.wr Reg.TIME_STATUS_VALID 1) s.clockStepped :=
  (timePn_sameClock _ 5 s.clockSet.now).trans (SameClock.foldl (tpoStep_sameClock _ _) _ _)

theorem withoutArms_sameClock (s : State) : SameClock s s.withoutArms := ⟨rfl, rfl⟩

theorem loadStep_sameClock (s : State) : SameClock (s.clockSet.wr Reg.TIME_STATUS_VALID 1) (s.loadStep .toSet) := by
  rw [loadStep_toSet]
  exact ((clockStepped_sameClock s).trans (withoutArms_sameClock _)).trans (SameClock.foldl armNow_sameClock _ _)

theorem rd64_lt (s : State) (lo hi : Nat) : s.rd64 lo hi < 2 ^ 64 := by
  have hlo := (s.reg lo).isLt
  have hhi := (s.reg hi).isLt
  unfold State.rd64
  omega

theorem setTotal_whole (t : Time) {sec ns : Nat} (hsec : sec < 2 ^ 64) (hns : ns < 10 ^ 9) :
    t.setTotal ((sec * 10 ^ 9 + ns) * 2 ^ 64) = { t with sec := sec, ns := ns, frac := 0 } := by
  have hwhole : (sec * 10 ^ 9 + ns) * 2 ^ 64 / 2 ^ 64 = sec * 10 ^ 9 + ns := Nat.mul_div_cancel _ (by decide)
  have hdiv : (sec * 10 ^ 9 + ns) / 10 ^ 9 % 2 ^ 64 = sec := by omega
  have hmod : (sec * 10 ^ 9 + ns) % 10 ^ 9 = ns := by omega
  unfold Time.setTotal
  dsimp only
  rw [hwhole, hdiv, hmod, Nat.mul_mod_left]

variable {s : State}

theorem exec_clockStepLoad_toSet (h : s.time.step = some .toSet) : exec .clockStepLoad s = .next (s.loadStep .toSet) := by
  show execClockStepLoad s = _
  unfold execClockStepLoad
  rw [h]

/-- A step puts TIME_SET into the clock, valid, with no step waiting. -/
theorem loadStep_spec (hns : (s.reg Reg.TIME_SET_NS).toNat < 10 ^ 9) : (s.loadStep .toSet).time.step = none ∧
    (s.loadStep .toSet).rd Reg.TIME_STATUS_VALID = 1 ∧
    (s.loadStep .toSet).time.sec = s.rd64 Reg.TIME_SET_SEC_LO Reg.TIME_SET_SEC_HI ∧
    (s.loadStep .toSet).time.ns = (s.reg Reg.TIME_SET_NS).toNat ∧ (s.loadStep .toSet).time.frac = 0 := by
  obtain ⟨htime, hstatus⟩ := loadStep_sameClock s
  have hset := setTotal_whole s.time (rd64_lt s Reg.TIME_SET_SEC_LO Reg.TIME_SET_SEC_HI) hns
  have hvalid := rd_wr_part_same s.clockSet Reg.TIME_STATUS (lo := 31) (w := 1) 1 (by decide)
  rw [State.rd, ← hstatus] at hvalid
  refine ⟨(congrArg Time.step htime :), hvalid, ?_, ?_, ?_⟩
  · exact (congrArg Time.sec htime :).trans (congrArg Time.sec hset :)
  · exact (congrArg Time.ns htime :).trans (congrArg Time.ns hset :)
  · exact (congrArg Time.frac htime :).trans (congrArg Time.frac hset :)

theorem exec_timeRateWrite (h : reaches s Reg.TIME_RATE) (w : BitVec 32) : exec (.timeRateWrite w) s = .next (s.setRate w) := by
  show execTimeRateWrite w s = _
  unfold execTimeRateWrite
  rw [bar_of_reaches h]

/-! ### Pulse outputs (R226 to R228) -/

/-- What TIME_TPO_CFG holds after a write with ARM 1: the written ARM, MODE, POLARITY and GATE_LOCK above the flags left. -/
def armWord (w : BitVec 32) (flags : Nat) : BitVec 32 := BitVec.ofNat 32 (packBits [(27, 5, w.toNat >>> 27), (0, 2, flags)])

theorem arm_armWord (w : BitVec 32) (flags : Nat) : bitsOf (armWord w flags).toNat 31 1 = bitsOf w.toNat 31 1 := by
  simp only [armWord, packBits, bitsOf_eq, BitVec.toNat_ofNat, Nat.shiftLeft_eq, Nat.shiftRight_eq_div_pow]
  omega

theorem mode_armWord (w : BitVec 32) (flags : Nat) : bitsOf (armWord w flags).toNat 29 2 = bitsOf w.toNat 29 2 := by
  simp only [armWord, packBits, bitsOf_eq, BitVec.toNat_ofNat, Nat.shiftLeft_eq, Nat.shiftRight_eq_div_pow]
  omega

/-- An output whose TIME_TPO_CFG has been written. -/
def State.tpoWritten (s : State) (k : Nat) (w : BitVec 32) : State :=
  s.setReg (Reg.TIME_TPO_CFG k) (armWord w (bitsOf (s.reg (Reg.TIME_TPO_CFG k)).toNat 0 2 &&& (3 - bitsOf w.toNat 0 2)))

/-- The arm waits for the step. -/
def State.armWaits (s : State) (k : Nat) : State :=
  { s.setTpoNext k none with time := { (s.setTpoNext k none).time with arms := s.time.arms.erase k ++ [k] } }

section Arm

variable {k : Nat} {w : BitVec 32}

theorem exec_tpOutArm_step (h : reaches s (Reg.TIME_TPO_CFG k)) (hstep : s.time.step ≠ none) :
    exec (.tpOutArm k w) s = .next ((s.tpoWritten k w).armWaits k) := by
  have hsome : (s.tpoWritten k w).time.step.isSome = true := Option.isSome_iff_ne_none.mpr hstep
  show execTpOutArm k w s = _
  unfold execTpOutArm
  rw [bar_of_reaches h]
  exact if_pos hsome

theorem exec_tpOutArm_now (h : reaches s (Reg.TIME_TPO_CFG k)) (hstep : s.time.step = none) :
    exec (.tpOutArm k w) s = .next ((s.tpoWritten k w).armNow k) := by
  have hnone : ¬(s.tpoWritten k w).time.step.isSome = true := by simp [State.tpoWritten, hstep]
  show execTpOutArm k w s = _
  unfold execTpOutArm
  rw [bar_of_reaches h]
  exact if_neg hnone

theorem reg_tpoWritten {a : Nat} (ha : a ≠ Reg.TIME_TPO_CFG k) : (s.tpoWritten k w).reg a = s.reg a := reg_setReg_other _ _ _ _ ha

theorem tpoStart_tpoWritten : (s.tpoWritten k w).tpoStart k = s.tpoStart k := by
  unfold State.tpoStart State.rd64
  rw [reg_tpoWritten (by simp), reg_tpoWritten (by simp), reg_tpoWritten (by simp)]

theorem armBad_tpoWritten (mode : Nat) : (s.tpoWritten k w).armBad k mode = s.armBad k mode := by
  unfold State.armBad
  rw [reg_tpoWritten (by simp), reg_tpoWritten (by simp), reg_tpoWritten (by simp)]

theorem arm_tpoWritten : (s.tpoWritten k w).rd (Reg.TIME_TPO_CFG_ARM k) = bitsOf w.toNat 31 1 :=
  (rd_setReg_same s (Reg.TIME_TPO_CFG_ARM k) _).trans (arm_armWord w _)

theorem mode_tpoWritten : (s.tpoWritten k w).rd (Reg.TIME_TPO_CFG_MODE k) = bitsOf w.toNat 29 2 :=
  (rd_setReg_same s (Reg.TIME_TPO_CFG_MODE k) _).trans (mode_armWord w _)

theorem armNow_single (harm : s.rd (Reg.TIME_TPO_CFG_ARM k) = 1) (hmode : s.rd (Reg.TIME_TPO_CFG_MODE k) = 1)
    (hok : s.armBad k 1 = false) : s.armNow k = if s.tpoStart k < s.clockNs + 2000 then
      ((s.wr (Reg.TIME_TPO_CFG_ARM k) 0).setTpoNext k none).wr (Reg.TIME_TPO_CFG_MISSED k) 1
    else s.setTpoNext k (some (s.tpoStart k)) := by
  unfold State.armNow
  dsimp only
  rw [harm, hmode, hok, if_neg Nat.one_ne_zero, if_neg (by decide), if_neg Bool.false_ne_true, if_pos rfl]

theorem armNow_periodic (harm : s.rd (Reg.TIME_TPO_CFG_ARM k) = 1) (hmode : s.rd (Reg.TIME_TPO_CFG_MODE k) = 2)
    (hok : s.armBad k 2 = false) : s.armNow k =
      s.setTpoNext k (some (gridFrom (s.tpoStart k) (s.reg (Reg.TIME_TPO_PERIOD k)).toNat (s.clockNs + 2000))) := by
  unfold State.armNow
  dsimp only
  rw [harm, hmode, hok, if_neg Nat.one_ne_zero, if_neg (by decide), if_neg Bool.false_ne_true, if_neg (by decide)]

/-- A single arm whose start has passed leaves the output off with MISSED. -/
theorem armNow_single_spec (harm : s.rd (Reg.TIME_TPO_CFG_ARM k) = 1) (hmode : s.rd (Reg.TIME_TPO_CFG_MODE k) = 1)
    (hok : s.armBad k 1 = false) :
    if s.clockNs + 2000 ≤ s.tpoStart k then (s.armNow k).tpoNext k = some (s.tpoStart k)
    else (s.armNow k).tpoNext k = none ∧ (s.armNow k).rd (Reg.TIME_TPO_CFG_MISSED k) = 1 ∧
      (s.armNow k).rd (Reg.TIME_TPO_CFG_ARM k) = 0 := by
  rw [armNow_single harm hmode hok]
  by_cases hstart : s.clockNs + 2000 ≤ s.tpoStart k
  · rw [if_pos hstart, if_neg (by omega)]
    exact State.tpoNext_setTpoNext _ _ _
  · rw [if_neg hstart, if_pos (by omega)]
    rw [State.tpoNext_wr, State.tpoNext_setTpoNext]
    exact ⟨rfl, rd_wr_part_same _ _ 1 (by decide), (rd_wr_part_other _ _ 1 (by decide) (by decide)).trans
      ((State.setTpoNext_rd _ k none _).trans (rd_wr_part_same s _ 0 (by decide)))⟩

end Arm

/-- A pulse goes out, unless the output is gated or the device held in a reset. -/
def State.pulsed (s : State) (k : Nat) : State :=
  let s0 : State := { s with time := { s.time with
    pulseEnd := tset (fun _ => 0) s.time.pulseEnd k (s.time.mono + (s.reg (Reg.TIME_TPO_WIDTH k)).toNat) } }
  if s.held = true ∨ s.tpGated k = true then s0
  else s0.post (.pulse k (s.rd (Reg.TIME_TPO_CFG_POLARITY k) == 0) (s.reg (Reg.TIME_TPO_WIDTH k)).toNat)

theorem exec_tpOutPulse_due {k c : Nat} (hnext : s.tpoNext k = some c) (hdue : c ≤ s.clockNs) :
    exec (.tpOutPulse k) s = if s.rd (Reg.TIME_TPO_CFG_MODE k) = 2 then
        .next ((s.pulsed k).setTpoNext k (some (c + (s.reg (Reg.TIME_TPO_PERIOD k)).toNat)))
      else .next (((s.pulsed k).wr (Reg.TIME_TPO_CFG_ARM k) 0).setTpoNext k none) := by
  show execTpOutPulse k s = _
  unfold execTpOutPulse
  rw [hnext]
  exact if_neg (by omega)

theorem pulsed_out (s : State) (k : Nat) : (s.pulsed k).out = if s.held = true ∨ s.tpGated k = true then s.out
    else s.out ++ [.pulse k (s.rd (Reg.TIME_TPO_CFG_POLARITY k) == 0) (s.reg (Reg.TIME_TPO_WIDTH k)).toNat] := by
  unfold State.pulsed
  split <;> rfl

/-! ### Event inputs (R229) -/

/-- An edge is stamped and counted. -/
def State.edgeStamped (s : State) (i ago : Nat) : State :=
  let s0 : State := { s with time := { s.time with
    lastEdge := tset (fun _ => none) s.time.lastEdge i (some (s.time.mono - ago)) } }
  ((s0.wr64 (Reg.TIME_TPI_SEC_LO i) (Reg.TIME_TPI_SEC_HI i) ((s.clockNs - ago) / 10 ^ 9)).setReg (Reg.TIME_TPI_NS i)
    (BitVec.ofNat 32 ((s.clockNs - ago) % 10 ^ 9))).bump (Reg.TIME_TPI_COUNT_COUNT i)

/-- A counted edge is queued as a TIME pennant, or overruns the queue. -/
def State.edgeQueued (s : State) (i : Nat) (full : Prop) [Decidable full] (ct : Stamp) : State :=
  if full then (s.bump (Reg.TIME_TPI_OVERRUN_COUNT i)).timeErr 0x030B else s.timePn (1 + i) ct

theorem exec_tpInEdge_counted {i : Nat} {rising : Bool} {ago : Nat} (hi : i < 2) (hon : s.rd (Reg.TIME_TPI_CFG_ENABLE i) = 1)
    (hedge : s.rd (Reg.TIME_TPI_CFG_EDGE i) = 3 ∨ s.rd (Reg.TIME_TPI_CFG_EDGE i) = (if rising then 1 else 2))
    (hcounts : s.edgeCounts i ago = true) : exec (.tpInEdge i rising ago) s = .next ((s.edgeStamped i ago).edgeQueued i (16 ≤ s.edgeQueue)
      { sec := (s.clockNs - ago) / 10 ^ 9 % 2 ^ 48, ns := (s.clockNs - ago) % 10 ^ 9, sub := 0 }) := by
  have hselected : s.rd (Reg.TIME_TPI_CFG_EDGE i) = 3 ∨ (s.rd (Reg.TIME_TPI_CFG_EDGE i) = 1 ∧ rising = true) ∨
      (s.rd (Reg.TIME_TPI_CFG_EDGE i) = 2 ∧ rising = false) := by
    cases rising <;> simpa using hedge
  exact (if_pos ⟨hi, hon, hselected, hcounts⟩).trans (apply_ite Host.Outcome.next _ _ _).symm

theorem edgeStamped_spec (s : State) (i ago : Nat) :
    (s.edgeStamped i ago).rd (Reg.TIME_TPI_COUNT_COUNT i) = (s.rd (Reg.TIME_TPI_COUNT_COUNT i) + 1) % 2 ^ 32 ∧
    (s.edgeStamped i ago).reg (Reg.TIME_TPI_NS i) = BitVec.ofNat 32 ((s.clockNs - ago) % 10 ^ 9) := by
  constructor
  · refine (rd_bump_same _ _ 1 (show 0 + 32 ≤ 32 by decide)).trans ?_
    rw [rd_setReg_other _ _ _ _ (by simp), State.rd, reg_wr64_other _ _ (by simp) (by simp)]
    rfl
  · exact (reg_wr_other _ _ _ _ (by simp)).trans (reg_setReg_same _ _ _)

theorem edgeQueued_reg (s : State) {i a : Nat} (full : Prop) [Decidable full] (ct : Stamp) (ha : isIngestReg a)
    (hoverrun : a ≠ Reg.TIME_TPI_OVERRUN i) : (s.edgeQueued i full ct).reg a = s.reg a := by
  unfold State.edgeQueued
  split
  · exact ((timeErr_ingestRegs _ 0x030B 0 0).reg a ha).trans (reg_wr_other _ _ _ _ hoverrun)
  · exact (SameIngestRegs.of_lowRegs (timePn_lowRegs s _ ct)).reg a ha

theorem isIngestReg_tpi {i a : Nat} (hi : i < 2) (h : a = Reg.TIME_TPI_COUNT i ∨ a = Reg.TIME_TPI_NS i) : isIngestReg a := by
  simp only [Reg.TIME_TPI_COUNT, Reg.TIME_TPI_NS] at h
  simp only [isIngestReg, Reg.TIME_STATUS, Reg.TIME_ERR]
  omega

/-! ### The status period (R230) -/

theorem exec_statusPeriodTimer_due {p : Nat} (hp : p = s.rd Reg.TIME_CTRL_STATUS_PERIOD * 10 ^ 6) (hon : p ≠ 0)
    (hdue : s.time.lastStatus + p ≤ s.time.mono) :
    exec .statusPeriodTimer s = .next ({ s with time := { s.time with lastStatus := s.time.mono / p * p } }.timePn 0 s.now) := by
  subst hp
  exact if_pos ⟨hon, hdue⟩

end Sys2Proof.Machine
end

section
/-! SUPPORT. The claim on frames and device time. -/

set_option Elab.async false

namespace Sys2Proof

open Machine

/-- Settles O35: a received packet keeps its flow's SSRC through the merge, and each event of device time is a few writes to its own
registers; what else happens (a recorded error, a TIME pennant) keeps those. -/
theorem framesOnTheWireAndTheClock : Obligations.FramesOnTheWireAndTheClock := by
  unfold Obligations.FramesOnTheWireAndTheClock
  refine ⟨?receive, ?stale, ?interrupt, ?announce, ?timeout, ?sync, ?holdover, ?servo, ?load, ?rate, ?arm, ?pulse, ?edge, ?status⟩
  case receive =>
    intro s port fr hport hup hrunning hawake
    have hhears : s.Hears port := ⟨hup, hrunning, hawake⟩
    constructor
    · intro f b dst src udp r hf hlen hfcs htag hkind hmatch
      have hgood : ¬s.badFrame port fr := by simp [State.badFrame, hlen, hfcs, htag]
      have hexec := exec_ethFrameReceive_matched hhears hgood hkind hmatch
      constructor
      · intro hbound hcheck hnone hpayload
        exact ⟨_, hexec.trans (if_pos hbound), receivePkt_first_spec hf hcheck hnone hpayload⟩
      · intro hunbound
        refine ⟨_, hexec.trans (if_neg (by simp [hunbound])), (rd_pathUp_other _ f b ?_).trans (discarded_spec s port).1, pathUp_up _ f b⟩
        simp only [Reg.NET_PORT_DISCARDS, Reg.NET_FLOW_STATUS]
        omega
    · intro hbad
      refine ⟨_, ?_, discarded_spec s port⟩
      rcases hbad with hlen | hfcs | htag | ⟨dst, src, udp, r, hkind, hmatch⟩
      · exact exec_ethFrameReceive_bad hhears (.inl hlen)
      · exact exec_ethFrameReceive_bad hhears (.inr (.inl hfcs))
      · exact exec_ethFrameReceive_bad hhears (.inr (.inr htag))
      · exact exec_ethFrameReceive_unmatched hhears hkind hmatch
  case stale =>
    intro s f st n q hopen hfind hage
    exact ⟨_, exec_frameStaleClose_due hopen hfind hage, staleClosed_cur s f st n q⟩
  case interrupt =>
    intro s f st n q l hwait hfind
    refine ⟨_, exec_swTimestampInterrupt_waiting hwait, congrArg Flow.swWait (State.flow_setFlow _ f _), ?_⟩
    exact (restamp_find s st n _ 8).trans (congrArg (Option.map _) hfind)
  case announce =>
    intro s a hlistens hdomain
    exact ⟨_, exec_ptpAnnounce_heard hlistens hdomain, runBmca_spec _⟩
  case timeout =>
    intro s m hbest hdue
    exact ⟨_, exec_announceReceiptTimeout_due hbest hdue, (runBmca_spec _).symm⟩
  case sync =>
    intro s port dom t1 t2 corr delay hsyncs hdomain
    refine ⟨fun hoff => ⟨_, exec_ptpSync_off hsyncs hdomain t1 t2 corr hoff, noteOffset_spec s _⟩, fun hon hfree => ?_,
      ⟨_, exec_ptpDelayResp_taken hsyncs hdomain delay, rfl, rfl, reg_setReg_same _ _ _⟩,
      ⟨_, exec_delayReqTimer_taken hsyncs, rfl⟩⟩
    obtain ⟨hservo, hsync⟩ := servoOffset_free ((rd_noteOffset s _ (by decide)).trans hfree)
      ((t2 - t1) - s.time.meanDelay - corr) s.syncInterval
    exact ⟨_, exec_ptpSync_on hsyncs hdomain t1 t2 corr hon, hservo, hsync.trans (noteOffset_spec s _).1⟩
  case holdover =>
    intro s c hsync hservo hdue
    obtain ⟨u, hexec⟩ := exec_servoHoldover_due hsync hservo hdue
    exact ⟨_, hexec, servo_toServo u (by decide)⟩
  case servo =>
    intro s hreaches
    exact ⟨⟨_, exec_servoEnWrite_off hreaches, toServo_servoEn s (by decide) (by decide)⟩,
      fun hmanual => ⟨_, exec_servoEnWrite_on hreaches hmanual, toServo_servoEn s (by decide) (by decide)⟩,
      fun hservo => ⟨_, exec_step_free hreaches hservo, rfl⟩,
      fun hfree hmanual => ⟨_, exec_step_locked hreaches hfree hmanual, timeErr_time _ _ _ _, rd_timeErr_valid s _ _ _⟩⟩
  case load =>
    intro s hstep hns
    obtain ⟨hnone, hvalid, hclock⟩ := loadStep_spec hns
    exact ⟨_, exec_clockStepLoad_toSet hstep, hnone, loadStep_mono s .toSet, hvalid, hclock⟩
  case rate =>
    intro s w hreaches
    exact ⟨_, exec_timeRateWrite hreaches w, reg_setReg_same s _ _, rfl⟩
  case arm =>
    intro s k w _ hreaches hw
    have harm := (arm_tpoWritten (s := s) (k := k)).trans hw
    refine ⟨fun hstep => ?_, fun hnone hmode hok => ?_, fun hnone hmode hok => ?_⟩
    · exact ⟨_, exec_tpOutArm_step hreaches hstep, by simp [State.armWaits], State.tpoNext_setTpoNext _ k none⟩
    · have harmed := armNow_single_spec harm (mode_tpoWritten.trans hmode) ((armBad_tpoWritten 1).trans hok)
      rw [tpoStart_tpoWritten] at harmed
      exact ⟨_, exec_tpOutArm_now hreaches hnone, harmed⟩
    · have harmed := armNow_periodic harm (mode_tpoWritten.trans hmode) ((armBad_tpoWritten 2).trans hok)
      rw [tpoStart_tpoWritten, reg_tpoWritten (by simp)] at harmed
      exact ⟨_, exec_tpOutArm_now hreaches hnone, harmed ▸ State.tpoNext_setTpoNext _ k _⟩
  case pulse =>
    intro s k c _ hnext hdue
    have hexec := exec_tpOutPulse_due hnext hdue
    by_cases hmode : s.rd (Reg.TIME_TPO_CFG_MODE k) = 2
    · refine ⟨_, hexec.trans (if_pos hmode), ?_, pulsed_out s k⟩
      rw [if_pos hmode]
      exact State.tpoNext_setTpoNext _ k _
    · refine ⟨_, hexec.trans (if_neg hmode), ?_, pulsed_out s k⟩
      rw [if_neg hmode]
      exact ⟨State.tpoNext_setTpoNext _ k _, (State.setTpoNext_rd _ k none _).trans (rd_wr_part_same _ _ 0 (by decide))⟩
  case edge =>
    intro s i rising ago hi hon hedge hcounts
    obtain ⟨hcount, hns⟩ := edgeStamped_spec s i ago
    refine ⟨_, exec_tpInEdge_counted hi hon hedge hcounts, ?_, ?_⟩
    · rw [State.rd, edgeQueued_reg _ _ _ (isIngestReg_tpi hi (.inl rfl)) (by simp)]
      exact hcount
    · rw [edgeQueued_reg _ _ _ (isIngestReg_tpi hi (.inr rfl)) (by simp)]
      exact hns
  case status =>
    intro s p hp hon hdue
    exact ⟨_, exec_statusPeriodTimer_due hp hon hdue, congrArg Time.lastStatus (timePn_time _ 0 s.now)⟩

end Sys2Proof
end

section
/-! SUPPORT. The registers at the end of a node's work: committing a node, and with it perhaps ending the job, leaves every register below
the pools' window alone but the count of lost device-level pennants. -/

set_option Elab.async false

namespace Sys2Proof.Machine

/-! ### Ranlink and the station buffers (R587, R636, R641) -/

theorem SameLowRegs.wr64 {s t : State} (h : SameLowRegs s t) {lo hi : Nat} (v : Nat) (hlo : 0x1900000 ≤ lo) (hhi : 0x1900000 ≤ hi) :
    SameLowRegs s (t.wr64 lo hi v) := (h.setReg _ hlo).setReg _ hhi

theorem drainPort_lowRegs (s : State) (p : Nat) : SameLowRegs s (s.drainPort p) := by
  have hcredits : 0x1900000 ≤ Reg.LNK_PORT_CREDITS p := by simp only [Reg.LNK_PORT_CREDITS]; omega
  have hfwd : 0x1900000 ≤ Reg.LNK_PORT_FWD p := by simp only [Reg.LNK_PORT_FWD]; omega
  have hlo : 0x1900000 ≤ Reg.LNK_PORT_TX_LO p := by simp only [Reg.LNK_PORT_TX_LO]; omega
  have hhi : 0x1900000 ≤ Reg.LNK_PORT_TX_HI p := by simp only [Reg.LNK_PORT_TX_HI]; omega
  have hport : ∀ x, SameLowRegs s (s.setLport p x) := fun x => .of_regs rfl
  unfold State.drainPort State.txFlits
  exact ((((((hport _).wr _ hcredits).wr _ hcredits).wr _ hfwd).wr _ hfwd).wr _ hcredits).wr64 _ hlo hhi

/-- A RECEIPT or RELEASE on its way to the sender. -/
theorem answerTile_lowRegs (s : State) (dev tile : Nat) (o : Out) : SameLowRegs s (s.answerTile dev tile o) := by
  unfold State.answerTile
  split
  · refine SameLowRegs.trans ?_ (drainPort_lowRegs _ _)
    exact .of_regs rfl
  · exact .of_regs rfl

theorem releaseTile_lowRegs (s : State) (h : HeldTile) : SameLowRegs s (s.releaseTile h) := by
  unfold State.releaseTile
  dsimp only
  refine (SameLowRegs.trans ?_ (freeAll_lowRegs _ h.bufs.1 h.bufs.2)).trans (answerTile_lowRegs _ _ _ _)
  exact .of_regs rfl

theorem SameLowRegs.sbNote {s t : State} (h : SameLowRegs s t) (k : Nat) : SameLowRegs s (t.sbNote k) := by
  unfold State.sbNote
  refine (h.wr _ ?_).wr _ ?_
  · simp only [Reg.MEM_SB_STATUS]; omega
  · simp only [Reg.MEM_SB_PINNED]; omega

theorem unpinIf_lowRegs (s : State) (p : PinFor → Bool) : SameLowRegs s (s.unpinIf p) := by
  refine SameLowRegs.foldl (fun t k => ite_both (P := SameLowRegs t) (.sbNote ?_ k) (.refl t)) _ s
  exact .of_regs rfl

/-! ### What the end of a node's work returns (R175, R239, R575) -/

/-- The buffers of a list, each with its class, return to their pools. -/
theorem freeBufs_lowRegs : ∀ (l : List (Nat × List Nat)) (s : State), SameLowRegs s (l.foldl (fun s b => s.freeAll b.1 b.2) s) :=
  .foldl fun s b => freeAll_lowRegs s b.1 b.2

theorem releasePic_lowRegs (s : State) (id : Nat) : SameLowRegs s (s.releasePic id) := by
  unfold State.releasePic
  dsimp only
  split
  · exact .refl s
  · split
    · split
      · exact .refl s
      · refine ite_both (P := SameLowRegs s) (.refl s) (SameLowRegs.trans ?_ (freeBufs_lowRegs _ _))
        exact .of_regs rfl
    · exact .refl s

theorem releaseWhole_lowRegs (s : State) (id : Nat) : SameLowRegs s (s.releaseWhole id) := by
  unfold State.releaseWhole
  split
  · exact .refl s
  · refine .foldl (fun t x => ?_) _ s
    dsimp only
    split
    · exact .refl t
    · exact ite_both (P := SameLowRegs t) (releaseTile_lowRegs t x) (.refl t)

theorem retire_lowRegs (s : State) (j : Job) (early : Bool) : SameLowRegs s (s.retire j early) := by
  unfold State.retire
  dsimp only
  split
  · exact .refl s
  · refine ite_both (P := SameLowRegs s) (.refl s) (SameLowRegs.trans ?_ (retirePlans_lowRegs _))
    exact .of_regs rfl

theorem releasePlan_lowRegs (s : State) (id : Nat) : SameLowRegs s (s.releasePlan id) := by
  unfold State.releasePlan
  split
  · exact .refl s
  · exact ite_both (P := SameLowRegs s) (.refl s) (retire_lowRegs s _ true)

theorem dropPic_lowRegs (s : State) (st n : Nat) : SameLowRegs s (s.dropPic st n) := by
  have hrows : SameLowRegs s (s.dropRows st n) := unpinIf_lowRegs s _
  have hdec : ∀ (t : State) (x : Dec), SameLowRegs t { t with dec := x } := fun t x => .of_regs rfl
  unfold State.dropPic
  dsimp only
  split
  · exact hrows
  · exact (hrows.trans (hdec _ _)).trans (freeBufs_lowRegs _ _)

theorem freeBatch_lowRegs (s : State) (b : Batch) : SameLowRegs s (s.freeBatch b) := by
  have hpins : SameLowRegs s (s.unpinIf (· == b.holder)) := unpinIf_lowRegs s _
  unfold State.freeBatch
  dsimp only
  split
  · exact hpins.trans (freeAll_lowRegs _ _ _)
  · exact hpins

theorem pruneBatches_lowRegs (s : State) : SameLowRegs s s.pruneBatches := by
  unfold State.pruneBatches
  dsimp only
  refine SameLowRegs.trans ?_ (.foldl freeBatch_lowRegs _ _)
  exact .of_regs rfl

/-! ### The end of a job (R278) -/

theorem lnkEnd_lowRegs (s : State) (j : Job) : SameLowRegs s (s.lnkEnd j) := by
  have hreleased := SameLowRegs.foldl releaseTile_lowRegs (s.lnk.heldTiles.filter fun h => h.job == some j.id) s
  have hlnk : ∀ (t : State) (x : LnkSt), SameLowRegs t { t with lnk := x } := fun t x => .of_regs rfl
  unfold State.lnkEnd
  dsimp only
  split
  · exact ite_both (P := SameLowRegs s) (hreleased.trans (hlnk _ _)) (hreleased.trans (hlnk _ _))
  · exact hreleased.trans (hlnk _ _)

/-- A job that ends: its copies, samples and tiles are given up, and a command's DONE waits. -/
theorem endJob_lowRegs (s : State) (j : Job) : SameLowRegs s (s.endJob j) := by
  have hfree : ∀ (l : List SgsSet) (t : State), SameLowRegs t (l.foldl (fun s x => s.freeAll x.bufs.1 x.bufs.2) t) :=
    .foldl fun t x => freeAll_lowRegs t x.bufs.1 x.bufs.2
  have hplan := (((hfree j.sets s).trans (unpinIf_lowRegs _ (· == .job j.id))).trans (lnkEnd_lowRegs _ j)).trans (retire_lowRegs _ j false)
  have hframe : ∀ (t : State) (st n : Nat), SameLowRegs t ((t.dropPic st n).settle st).pruneBatches := fun t st n =>
    ((dropPic_lowRegs t st n).trans (settleCks_lowRegs _ st _)).trans (pruneBatches_lowRegs _)
  have hdone : ∀ (t : State) (i : Option Nat) (code : Nat), SameLowRegs t (match i with
      | some i =>
        match t.cmd? i with
        | some c => if c.ended then t else t.done c code
        | none => t
      | none => t) := fun t i code => by
    split
    · split
      · exact ite_both (P := SameLowRegs t) (.refl t) (.of_regs rfl)
      · exact .refl t
    · exact .refl t
  have hgone : ∀ (t : State) (l : List Job), SameLowRegs t { t with jobs := l } := fun t l => .of_regs rfl
  have hended := fun l i code => (hplan.trans (hgone _ l)).trans (hdone _ i code)
  unfold State.endJob
  dsimp only
  split
  · exact (hended _ _ _).trans (hframe _ _ _)
  · exact hended _ _ _

theorem tryEnd_lowRegs (s : State) (id : Nat) : SameLowRegs s (s.tryEnd id) := by
  unfold State.tryEnd
  split
  · exact .refl s
  · refine ite_both (P := SameLowRegs s) ?_ (.refl s)
    split
    · exact endJob_lowRegs s _
    · refine ite_both (P := SameLowRegs s) (.of_regs rfl) (SameLowRegs.trans ?_ (endJob_lowRegs _ _))
      exact (State.adaptEnd_keeps (L := 65536) s _ rfl (.refl s)).lowRegs rfl

/-! ### Committing a node (R347) -/

theorem commitNode_lowRegs (s : State) (id n : Nat) (out : NodeOut) : SameLowRegs s (s.commitNode id n out) := by
  have hreleased : ∀ t : State, SameLowRegs t ((((t.releasePic id).releaseWhole id).releasePlan id).seatNodes id) := fun t =>
    (((releasePic_lowRegs t id).trans (releaseWhole_lowRegs _ id)).trans (releasePlan_lowRegs _ id)).trans
      ((State.seatNodes_keeps (L := 8192) _ id rfl (.refl _)).lowRegs rfl)
  unfold State.commitNode
  dsimp only
  refine (SameLowRegs.trans ?_ (hreleased _)).trans (tryEnd_lowRegs _ id)
  exact .of_regs rfl

end Sys2Proof.Machine
end

section
/-! SUPPORT. The input shapers: a sample takes its slot, gets its values and is complete, or the shaper stalls for room. -/

set_option Elab.async false

namespace Sys2Proof.Machine

/-! ### SHP_STATUS (R273) -/

theorem shpNote_eq (s : State) (e : Nat) : s.shpNote e = { s with regs := (s.shpNote e).regs } :=
  (State.shpNote_keeps (L := 1) s e rfl (.refl s)).eq_regs

@[simp] theorem shp_shpNote (s : State) (e : Nat) : (s.shpNote e).shp = s.shp := by rw [shpNote_eq]
@[simp] theorem jobs_shpNote (s : State) (e : Nat) : (s.shpNote e).jobs = s.jobs := by rw [shpNote_eq]
@[simp] theorem dec_shpNote (s : State) (e : Nat) : (s.shpNote e).dec = s.dec := by rw [shpNote_eq]

theorem reg_shpNote (s : State) (e : Nat) {a : Nat} (h : a ≠ Reg.SHP_STATUS e) : (s.shpNote e).reg a = s.reg a := by
  unfold State.shpNote
  dsimp only
  have hopen := fun v => reg_wr_other s (Reg.SHP_STATUS_OPEN e) v a h
  have hstate := fun v w => (reg_wr_other (s.wr (Reg.SHP_STATUS_OPEN e) v) (Reg.SHP_STATUS_STATE e) w a h).trans (hopen v)
  split
  · exact hopen _
  · split
    · exact hstate _ _
    · split <;> exact hstate _ _

theorem rd_shpNote (s : State) (e : Nat) {f : RegField} (h : f.addr ≠ Reg.SHP_STATUS e) : (s.shpNote e).rd f = s.rd f := by
  unfold State.rd
  rw [reg_shpNote s e h]

/-! ### A slot of the open batch (R255 to R257) -/

/-- The sample in a slot. -/
def Sample.inSlot (x : Sample) (k : Nat) : Sample := { x with rcd := { x.rcd with slot := k } }

/-- The batch with one sample more; of `n` samples it is full, and closes. -/
def Batch.withSample (b : Batch) (n : Nat) (x : Sample) : Batch :=
  { b with samples := b.samples ++ [x.inSlot b.samples.length], closed := if b.samples.length + 1 = n then some 0 else none }

/-- The batch with this BATCH_SEQ of a node, shaper and class. -/
def Batch.sameSeq (b q : Batch) : Bool := q.key == b.key && q.shp == b.shp && q.svc == b.svc && q.seq == b.seq

theorem Batch.sameSeq_refl (b : Batch) : b.sameSeq b = true := by simp [Batch.sameSeq]

/-- A sample takes the next slot of the open batch. -/
def State.slotTaken (s : State) (b : Batch) (n : Nat) (x : Sample) : State :=
  ({ s with shp := { s.shp with
    batches := s.shp.batches.map (fun q => if b.sameSeq q then b.withSample n x else q)
    stalled := s.shp.stalled.erase b.shp } } : State).shpNote b.shp

/-- The batch a sample joins: the open one of its node, shaper and class. -/
def State.openBatchFor (s : State) (k : NodeKey) (e svc : Nat) : Option Batch :=
  s.shp.batches.find? (fun b => b.key == k && b.shp == e && b.svc == svc && b.closed.isNone)

theorem takeSlotIn_open {s : State} {k : NodeKey} {e svc : Nat} {b : Batch} (n dest bytes ticket : Nat) (x : Sample)
    (h : s.openBatchFor k e svc = some b) : s.takeSlotIn k e svc n dest bytes ticket x = some (s.slotTaken b n x) := by
  have hb := List.find?_some h
  simp only [Bool.and_eq_true, beq_iff_eq] at hb
  obtain ⟨⟨⟨rfl, rfl⟩, rfl⟩, -⟩ := hb
  unfold State.openBatchFor at h
  unfold State.takeSlotIn
  dsimp only
  rw [h]
  rfl

theorem takeSlotIn_stalls {s : State} {k : NodeKey} {e svc n dest bytes ticket : Nat} (x : Sample) (h : s.openBatchFor k e svc = none)
    (hroom : (s.openBatch k e svc n dest bytes ticket).2 = none) : s.takeSlotIn k e svc n dest bytes ticket x = none := by
  unfold State.openBatchFor at h
  unfold State.takeSlotIn
  dsimp only
  rw [h, show s.openBatch k e svc n dest bytes ticket = ((s.openBatch k e svc n dest bytes ticket).1, none) from Prod.ext rfl hroom]

/-- After a slot is taken every batch is the grown one or an old one, and the grown one is among them. -/
theorem mem_slotTaken {s : State} {b : Batch} (hb : b ∈ s.shp.batches) (n : Nat) (x : Sample) :
    b.withSample n x ∈ (s.slotTaken b n x).shp.batches ∧
      ∀ q ∈ (s.slotTaken b n x).shp.batches, q = b.withSample n x ∨ q ∈ s.shp.batches := by
  unfold State.slotTaken
  rw [shp_shpNote]
  refine ⟨List.mem_map.mpr ⟨b, hb, if_pos b.sameSeq_refl⟩, fun q hq => ?_⟩
  obtain ⟨r, hr, rfl⟩ := List.mem_map.mp hq
  exact ite_both (P := fun q => q = b.withSample n x ∨ q ∈ s.shp.batches) (.inl rfl) (.inr hr)

theorem mem_samplesOf {s : State} {k : NodeKey} {st seq : Nat} {x : Sample} :
    x ∈ s.samplesOf k st seq ↔ ∃ b ∈ s.shp.batches, b.key = k ∧ x ∈ b.samples ∧ x.rcd.stream = st ∧ x.rcd.frame = seq := by
  simp [State.samplesOf, and_assoc]

/-- A frame without samples at the node has its new sample alone there. -/
theorem samplesOf_slotTaken {s : State} {b : Batch} {st seq : Nat} (hb : b ∈ s.shp.batches) (hnone : s.samplesOf b.key st seq = [])
    (n : Nat) (x : Sample) : ∀ z ∈ (s.slotTaken b n x).samplesOf b.key st seq, z = x.inSlot b.samples.length := by
  intro z hz
  obtain ⟨q, hq, hkey, hmem, hmine⟩ := mem_samplesOf.mp hz
  have hold : ∀ r ∈ s.shp.batches, r.key = b.key → z ∉ r.samples := fun r hr hrkey hzr => by
    have : z ∈ s.samplesOf b.key st seq := mem_samplesOf.mpr ⟨r, hr, hrkey, hzr, hmine⟩
    rw [hnone] at this
    cases this
  rcases (mem_slotTaken hb n x).2 q hq with rfl | hq
  · rcases List.mem_append.mp hmem with hmem | hmem
    · exact absurd hmem (hold b hb rfl)
    · exact List.mem_singleton.mp hmem
  · exact absurd hmem (hold q hq hkey)

/-! ### Samples that change (R237, R258) -/

/-- A batch whose samples that satisfy `p` change. -/
def Batch.updSamples (b : Batch) (p : Sample → Bool) (f : Sample → Sample) : Batch :=
  { b with samples := b.samples.map (fun x => if p x then f x else x) }

theorem mem_updSamples {s : State} {b : Batch} (hb : b ∈ s.shp.batches) (p : Sample → Bool) (f : Sample → Sample) :
    b.updSamples p f ∈ (s.updSamples b.key p f).shp.batches :=
  List.mem_map.mpr ⟨b, hb, if_pos (beq_self_eq_true b.key)⟩

theorem updSamples_self (s : State) (k : NodeKey) (p : Sample → Bool) : (s.updSamples k p id).shp.batches = s.shp.batches := by
  simp [State.updSamples, State.updBatches]

/-- The batches that a change of samples leaves depend on the batches before it alone. -/
theorem updSamples_of_batches {s t : State} (h : t.shp.batches = s.shp.batches) (k : NodeKey) (p : Sample → Bool)
    (f : Sample → Sample) : (t.updSamples k p f).shp.batches = (s.updSamples k p f).shp.batches := by
  simp only [State.updSamples, State.updBatches, h]

theorem Keeps.shp {L : Nat} {s t : State} (h : Keeps L s t) (hshp : L.testBit 9 = false) : t.shp = s.shp := h.parts.same .shp hshp

theorem unpinIf_shp (s : State) (p : PinFor → Bool) : (s.unpinIf p).shp = s.shp :=
  (State.unpinIf_keeps (L := 262145) s p rfl (.refl s)).shp rfl

theorem standIn_sample (s : State) (e : Nat) (k : NodeKey) (keep : Bool) (d : Nat) (x : Sample) :
    (s.standIn e k keep d x).2.rcd = { x.rcd with m := (s.standIn e k keep d x).2.rcd.m } ∧
      (s.standIn e k keep d x).2.standIn = true := by
  unfold State.standIn
  dsimp only
  split <;> exact ⟨rfl, rfl⟩

/-- The shaper holds the source rows that it still needs (R237, R240). -/
def State.pinSource (s : State) (e svc held bytes : Nat) (rows : PinFor) : State :=
  if held = 0 then (s.unpinIf (· == rows)).rowRoom e true
  else
    match (s.unpinIf (· == rows)).pin e svc bytes rows with
    | some t => t.rowRoom e true
    | none => (s.unpinIf (· == rows)).rowRoom e false

theorem pinSource_batches (s : State) (e svc held bytes : Nat) (rows : PinFor) :
    (s.pinSource e svc held bytes rows).shp.batches = s.shp.batches := by
  unfold State.pinSource
  split
  · rw [rowRoom_batches, unpinIf_shp]
  · split
    next t hpin => rw [rowRoom_batches, (State.pin_keeps (L := 262145) _ _ _ _ _ rfl (.refl _) t hpin).shp rfl, unpinIf_shp]
    · rw [rowRoom_batches, unpinIf_shp]

theorem shapeOn_eq (s : State) (j : Job) (node w : Nat) (p : Pic) (x : Sample) :
    ∃ scope c px data e held bytes rows, s.shapeOn j node w p x =
      ((s.numCount scope c).updSamples (j.nodeKey node) (isSample j.stream j.frameSeq 0xFFFF)
        (fun x => { x with px := px, data := data })).pinSource e j.svc held bytes rows :=
  ⟨_, _, _, _, _, _, _, _, rfl⟩

/-- Shaping changes the values of the sample alone. -/
theorem shapeOn_batches (s : State) (j : Job) (node w : Nat) (p : Pic) (x : Sample) :
    ∃ px data, (s.shapeOn j node w p x).shp.batches =
      (s.updSamples (j.nodeKey node) (isSample j.stream j.frameSeq 0xFFFF) (fun x => { x with px := px, data := data })).shp.batches := by
  obtain ⟨scope, c, px, data, e, held, bytes, rows, hshape⟩ := shapeOn_eq s j node w p x
  have hcounted := (State.numCount_keeps (L := 8388608) s scope c rfl (.refl s)).shp rfl
  refine ⟨px, data, ?_⟩
  rw [hshape, pinSource_batches]
  exact updSamples_of_batches (congrArg Shp.batches hcounted) _ _ _

/-- Filling a frame's only sample at a node changes that sample: its record but for the map stays, a stand-in stays one, and a sample of
a usable picture does not become one. -/
theorem fillShape_batches {s : State} {j : Job} {node : Nat} {y : Sample} (w : Nat)
    (honly : ∀ z ∈ s.samplesOf (j.nodeKey node) j.stream j.frameSeq, z = y) :
    ∃ f : Sample → Sample, (s.fillShape j node w).shp.batches =
        (s.updSamples (j.nodeKey node) (isSample j.stream j.frameSeq 0xFFFF) f).shp.batches ∧
      (f y).rcd = { y.rcd with m := (f y).rcd.m } ∧ (y.standIn = true → (f y).standIn = true) ∧
      ∀ p, s.picOfFrame j.stream j.frameSeq = some p → p.unusable = false → y.standIn = false → (f y).standIn = false := by
  have hsame := (updSamples_self s (j.nodeKey node) (isSample j.stream j.frameSeq 0xFFFF)).symm
  unfold State.fillShape
  dsimp only
  split
  next p x hpic hx =>
    obtain rfl : x = y := honly x (List.mem_of_mem_head? hx)
    split
    · exact ⟨id, hsame, rfl, id, fun _ _ _ h => h⟩
    · split
      next hstand =>
        split
        · exact ⟨id, hsame, rfl, id, fun _ _ _ h => h⟩
        · generalize s.shaperOf (j.nodeKey node) j.stream j.frameSeq 0xFFFF = e
          obtain ⟨hrcd, hyes⟩ := standIn_sample s e (j.nodeKey node) (shpKeep w) (s.descOf j.prog (shpDesc w)) { x with px := [] }
          have hshp := (State.standIn_keeps (L := 8388609) s e (j.nodeKey node) (shpKeep w) (s.descOf j.prog (shpDesc w))
            { x with px := [] } rfl (.refl s)).shp rfl
          generalize s.standIn e (j.nodeKey node) (shpKeep w) (s.descOf j.prog (shpDesc w)) { x with px := [] } = r at *
          refine ⟨fun _ => r.2, ?_, hrcd, fun _ => hyes, fun p' hp' hgood hno => ?_⟩
          · rw [unpinIf_shp]
            exact updSamples_of_batches (congrArg Shp.batches hshp) _ _ _
          · obtain rfl : p = p' := Option.some.inj (hpic.symm.trans hp')
            simp [hgood, hno] at hstand
      · split
        · obtain ⟨px, data, hshaped⟩ := shapeOn_batches s j node w p x
          exact ⟨_, hshaped, rfl, id, fun _ _ _ h => h⟩
        · exact ⟨id, hsame, rfl, id, fun _ _ _ h => h⟩
  · exact ⟨id, hsame, rfl, id, fun _ _ _ h => h⟩

/-! ### SHP_SAMPLE_SLOT (R256, R266) -/

theorem picOfFrame_of_same {s t : State} {st seq : Nat} (hdec : t.dec = s.dec) (hengine : t.strmEngine st = s.strmEngine st) :
    t.picOfFrame st seq = s.picOfFrame st seq := by
  unfold State.picOfFrame State.engine
  rw [hdec, hengine]

/-- The sample of node `node` of a frame's job is due: it takes its slot as soon as there is room. -/
structure State.SlotDue (s : State) (node : Nat) (j : Job) (w : Nat) (p : Pic) : Prop where
  job : s.frameJob? j.stream j.frameSeq = some j
  word : s.jobWord j node = some w
  opc : wOpc w = 0x21
  pic : s.picOfFrame j.stream j.frameSeq = some p
  rows : shAngle (s.descOf j.prog (shpDesc w)) = 0 ∨ p.done = true
  running : s.sched.saving = false
  fresh : s.samplesOf (j.nodeKey node) j.stream j.frameSeq = []
  uncommitted : (j.node node).committed = false
  order : s.slotsInOrder j node = true

/-- The sample before it has a slot; TEST_STANDIN makes it a stand-in. -/
def State.newSample (s : State) (j : Job) (w : Nat) (p : Pic) : Sample :=
  { rcd := s.record j (affine (s.descOf j.prog (shpDesc w)) (shapeWindow (s.descOf j.prog (shpDesc w)) p.w p.h)) 0xFFFF 0
    standIn := s.rd (Reg.SHP_CTRL_TEST_STANDIN (s.strmEngine j.stream)) == 1 }

/-- TEST_STANDIN is used up. -/
def State.testUsed (s : State) (e : Nat) (test : Bool) : State := if test then s.wr (Reg.SHP_CTRL_TEST_STANDIN e) 0 else s

variable {s : State} {node w : Nat} {j : Job} {p : Pic}

theorem exec_shpSampleSlot_due (h : s.SlotDue node j w p) : exec (.shpSampleSlot j.stream j.frameSeq node) s = .next
    (match s.takeSlotIn (j.nodeKey node) (s.strmEngine j.stream) j.svc (shpBatchN w) (shpDest w)
      (shBytes (s.descOf j.prog (shpDesc w))) j.ticket (s.newSample j w p) with
    | none => s.shpStall (s.strmEngine j.stream)
    | some t => (t.testUsed (s.strmEngine j.stream) (s.newSample j w p).standIn).fillShape j node w) := by
  have hdue : wOpc w = 0x21 ∧ (shAngle (s.descOf j.prog (shpDesc w)) = 0 ∨ p.done = true) ∧ s.sched.saving = false ∧
      (s.samplesOf (j.nodeKey node) j.stream j.frameSeq).isEmpty = true ∧ (j.node node).committed = false ∧
      s.slotsInOrder j node = true := ⟨h.opc, h.rows, h.running, by rw [h.fresh]; rfl, h.uncommitted, h.order⟩
  show execShpSampleSlot j.stream j.frameSeq node s = _
  unfold execShpSampleSlot
  rw [h.job]
  dsimp only
  rw [h.word, h.pic]
  refine (if_pos hdue).trans ?_
  change (match s.takeSlotIn (j.nodeKey node) (s.strmEngine j.stream) j.svc (shpBatchN w) (shpDest w)
    (shBytes (s.descOf j.prog (shpDesc w))) j.ticket (s.newSample j w p) with | none => _ | some t => _) = _
  split <;> rfl

theorem exec_shpSampleSlot_open {b : Batch} (h : s.SlotDue node j w p)
    (hb : s.openBatchFor (j.nodeKey node) (s.strmEngine j.stream) j.svc = some b) :
    exec (.shpSampleSlot j.stream j.frameSeq node) s = .next
      (((s.slotTaken b (shpBatchN w) (s.newSample j w p)).testUsed (s.strmEngine j.stream) (s.newSample j w p).standIn).fillShape
        j node w) := by
  rw [exec_shpSampleSlot_due h, takeSlotIn_open _ _ _ _ _ hb]

theorem exec_shpSampleSlot_stalls (h : s.SlotDue node j w p)
    (hb : s.openBatchFor (j.nodeKey node) (s.strmEngine j.stream) j.svc = none)
    (hroom : (s.openBatch (j.nodeKey node) (s.strmEngine j.stream) j.svc (shpBatchN w) (shpDest w)
      (shBytes (s.descOf j.prog (shpDesc w))) j.ticket).2 = none) :
    exec (.shpSampleSlot j.stream j.frameSeq node) s = .next (s.shpStall (s.strmEngine j.stream)) := by
  rw [exec_shpSampleSlot_due h, takeSlotIn_stalls _ hb hroom]

/-- A stall leaves the batches and is noted (R240). -/
theorem shpStall_spec (s : State) (e : Nat) : (s.shpStall e).shp.batches = s.shp.batches ∧ e ∈ (s.shpStall e).shp.stalled := by
  unfold State.shpStall
  split
  next hstalled => exact ⟨rfl, List.contains_iff_mem.mp hstalled⟩
  · dsimp only
    rw [shp_shpNote]
    exact ⟨rfl, List.mem_cons_self⟩

theorem testUsed_eq (s : State) (e : Nat) (test : Bool) : s.testUsed e test = { s with regs := (s.testUsed e test).regs } :=
  ite_both (P := fun t : State => t = { s with regs := t.regs }) rfl rfl

/-- A slot that is taken touches no picture, and no stream's place. -/
theorem picOfFrame_slotTaken (s : State) (b : Batch) (n : Nat) (x : Sample) (e : Nat) (test : Bool) (st seq : Nat) :
    ((s.slotTaken b n x).testUsed e test).picOfFrame st seq = s.picOfFrame st seq := by
  refine picOfFrame_of_same ?_ ?_
  · rw [testUsed_eq]
    exact dec_shpNote _ _
  · have hstatus : (s.slotTaken b n x).strmEngine st = s.strmEngine st := rd_shpNote _ _ (by
      simp only [Reg.DEC_STRM_STATE, Reg.SHP_STATUS]; omega)
    refine (ite_both (P := fun t : State => t.strmEngine st = (s.slotTaken b n x).strmEngine st) ?_ rfl).trans hstatus
    exact rd_wr_reg _ _ _ _ (by simp only [Reg.DEC_STRM_STATE, Reg.SHP_CTRL]; omega)

/-- The open batch keeps its samples and holds the new one behind them: full, it closes (R255 to R257). -/
theorem sampleSlot_spec {b : Batch} (h : s.SlotDue node j w p)
    (hb : s.openBatchFor (j.nodeKey node) (s.strmEngine j.stream) j.svc = some b) :
    ∃ z : Sample, ({ b with
        samples := b.samples ++ [z], closed := if b.samples.length + 1 = shpBatchN w then some 0 else none } : Batch) ∈
        (((s.slotTaken b (shpBatchN w) (s.newSample j w p)).testUsed (s.strmEngine j.stream) (s.newSample j w p).standIn).fillShape
          j node w).shp.batches ∧
      z.rcd.stream = j.stream ∧ z.rcd.frame = j.frameSeq ∧ z.rcd.slot = b.samples.length ∧
      ((s.newSample j w p).standIn = true → z.standIn = true) ∧
      ((s.newSample j w p).standIn = false → p.unusable = false → z.standIn = false) := by
  have hmem : b ∈ s.shp.batches := List.mem_of_find?_eq_some hb
  have hkey : b.key = j.nodeKey node := by
    have := List.find?_some hb
    simp only [Bool.and_eq_true, beq_iff_eq] at this
    exact this.1.1.1
  have honly := samplesOf_slotTaken hmem (hkey.symm ▸ h.fresh) (shpBatchN w) (s.newSample j w p)
  have hgrown := (mem_slotTaken hmem (shpBatchN w) (s.newSample j w p)).1
  have hpic := picOfFrame_slotTaken s b (shpBatchN w) (s.newSample j w p) (s.strmEngine j.stream) (s.newSample j w p).standIn
    j.stream j.frameSeq
  have hshp : ((s.slotTaken b (shpBatchN w) (s.newSample j w p)).testUsed (s.strmEngine j.stream) (s.newSample j w p).standIn).shp
      = (s.slotTaken b (shpBatchN w) (s.newSample j w p)).shp := by rw [testUsed_eq]
  generalize (s.slotTaken b (shpBatchN w) (s.newSample j w p)).testUsed _ _ = t at *
  generalize s.slotTaken b (shpBatchN w) (s.newSample j w p) = u at *
  rw [hkey] at honly
  obtain ⟨f, hfill, hrcd, hyes, hno⟩ := fillShape_batches (s := t) w
    fun z hz => honly z (samplesOf_of_batches (congrArg Shp.batches hshp) _ _ _ ▸ hz)
  refine ⟨f ((s.newSample j w p).inSlot b.samples.length), ?_, ?_, ?_, ?_, hyes, fun hnew hgood => hno p (hpic.trans h.pic) hgood hnew⟩
  · have hin := mem_updSamples (s := t) (hshp ▸ hgrown) (isSample j.stream j.frameSeq 0xFFFF) f
    rw [hfill]
    have hold : ∀ x ∈ b.samples, (if isSample j.stream j.frameSeq 0xFFFF x then f x else x) = x := fun x hx => by
      refine if_neg fun hx' => ?_
      simp only [isSample, Bool.and_eq_true, beq_iff_eq] at hx'
      have : x ∈ s.samplesOf (j.nodeKey node) j.stream j.frameSeq := mem_samplesOf.mpr ⟨b, hmem, hkey, hx, hx'.1⟩
      rw [h.fresh] at this
      cases this
    have hnew : isSample j.stream j.frameSeq 0xFFFF ((s.newSample j w p).inSlot b.samples.length) = true := by
      simp [isSample, Sample.inSlot, State.newSample, State.record]
    have hgrew : (b.withSample (shpBatchN w) (s.newSample j w p)).updSamples (isSample j.stream j.frameSeq 0xFFFF) f
        = { b with samples := b.samples ++ [f ((s.newSample j w p).inSlot b.samples.length)]
                   closed := if b.samples.length + 1 = shpBatchN w then some 0 else none } := by
      simp only [Batch.updSamples, Batch.withSample, List.map_append, List.map_congr_left hold, List.map_id', List.map_cons,
        List.map_nil, if_pos hnew]
    rw [← hgrew, ← hkey]
    exact hin
  all_goals
    rw [hrcd]
    rfl

/-! ### SHP_SAMPLE_DONE (R258, R261) -/

/-- A good sample that is kept leaves the batches (R263). -/
theorem keepSample_batches (s : State) (e : Nat) (k : NodeKey) (x : Sample) (bytes ticket : Nat) :
    (s.keepSample e k x bytes ticket).shp.batches = s.shp.batches := by
  have hdraw := (State.draw_keeps (L := 9043995) s 5 (poolFit bytes).1 (poolFit bytes).2 x.rcd.svc ticket true rfl (.refl s)).shp rfl
  have hfree : ∀ (t : State) c l, (t.freeAll c l).shp = t.shp := fun t c l =>
    (State.freeAll_keeps (L := 9043995) t c l rfl (.refl t)).shp rfl
  have hck : ∀ (t : State) q, (t.keepInCk q).shp = t.shp := fun t q => (State.keepInCk_keeps (L := 64) t q rfl (.refl t)).shp rfl
  have herr : ∀ (t : State) e st c, (t.shpErr e st c).shp = t.shp := fun t e st c =>
    (State.shpErr_keeps (L := 8388633) t e st c 0 0 rfl (.refl t)).shp rfl
  unfold State.keepSample
  dsimp only
  split
  next t l heq =>
    rw [heq] at hdraw
    rw [hck]
    dsimp only
    split
    · rw [hfree, hdraw]
    · rw [hdraw]
  next t heq =>
    rw [heq] at hdraw
    rw [herr]
    dsimp only
    split
    · rw [hfree, hdraw]
    · rw [hdraw]

/-- The record of a complete sample: bit 0 of its flags marks a stand-in (R261). -/
def Sample.done (x : Sample) (jobFlags : Nat) : Sample :=
  { x with complete := true, rcd := { x.rcd with
    sflags := (if x.standIn then (jobFlags &&& 0xFFD) ||| 1 else jobFlags) ||| (x.rcd.sflags &&& 0x80) } }

theorem sflags_done {x : Sample} (h : x.standIn = true) (jobFlags : Nat) : (x.done jobFlags).rcd.sflags % 2 = 1 := by
  have hbit : (x.done jobFlags).rcd.sflags.testBit 0 = true := by simp [Sample.done, h]
  rwa [Nat.testBit_zero, decide_eq_true_iff] at hbit

theorem exec_shpSampleDone_batches {st n obj : Nat} {x : Sample} (hjob : s.frameJob? st n = some j) (hword : s.jobWord j node = some w)
    (hx : (s.samplesOf (j.nodeKey node) st n).find? (isSample st n obj) = some x) (hdata : x.data ≠ []) (hopen : x.complete = false) :
    ∃ t, exec (.shpSampleDone st n node obj) s = .next t ∧
      t.shp.batches = (s.updSamples (j.nodeKey node) (isSample st n obj) (fun _ => x.done j.flags)).shp.batches := by
  have hdue : ¬(x.data.isEmpty = true ∨ x.complete = true) := by simp [hdata, hopen]
  have hdone := fun (c : Bool) f => updSamples_of_batches (s := s) (t := if c then s.updJob j.id f else s)
    (ite_both (P := fun t : State => t.shp.batches = s.shp.batches) rfl rfl) (j.nodeKey node) (isSample st n obj)
    (fun _ => x.done j.flags)
  have hkept : ∀ (c : Bool) (t : State) e k x bytes ticket,
      (if c then t.keepSample e k x bytes ticket else t).shp.batches = t.shp.batches := fun c t e k x bytes ticket =>
    ite_both (P := fun u : State => u.shp.batches = t.shp.batches) (keepSample_batches t e k x bytes ticket) rfl
  show ∃ t, execShpSampleDone st n node obj s = .next t ∧
    t.shp.batches = (s.updSamples (j.nodeKey node) (isSample st n obj) (fun _ => x.done j.flags)).shp.batches
  unfold execShpSampleDone
  rw [hjob]
  dsimp only
  rw [hword, hx]
  refine ⟨_, if_neg hdue, ?_⟩
  rw [shp_shpNote]
  exact (hkept _ _ _ _ _ _ _).trans (hdone _ _)

end Sys2Proof.Machine
end

section
/-! SUPPORT. The input shapers: the slots of a box list, batches that close, and batches that are dispatched to the jobs of their
samples. -/

set_option Elab.async false

namespace Sys2Proof.Machine

variable {s : State} {j : Job} {node w : Nat} {p : Pic} {l : List (Nat × Box)}

/-! ### BOX_LIST_ARRIVAL (R251 to R253) -/

/-- The slots of a job's boxes are due: the picture is decoded, and earlier frames have theirs. -/
structure State.BoxesDue (s : State) (job node : Nat) (j : Job) (w : Nat) (l : List (Nat × Box)) : Prop where
  word : s.nodeFor job node 0x22 = some (j, w)
  boxes : j.boxes w = some l
  pic : ∃ p, s.donePic j.stream j.frameSeq = some p
  unqueued : (j.node node).queued = false
  order : s.slotsInOrder j node = true
  running : s.sched.saving = false

theorem exec_boxListArrival_empty {job : Nat} (h : s.BoxesDue job node j w []) :
    exec (.boxListArrival job node) s = .next (s.commitNode job node (.batch (s.strmEngine j.stream) 0 [])) := by
  obtain ⟨p, hpic⟩ := h.pic
  show execBoxListArrival job node s = _
  unfold execBoxListArrival
  rw [h.word]
  dsimp only
  rw [h.boxes, hpic]
  dsimp only
  rw [if_neg (by simp [h.unqueued, h.order, h.running]), if_neg (by simp)]
  rfl

theorem exec_boxListArrival_fits {job : Nat} {t : State} (h : s.BoxesDue job node j w l) (hl : l ≠ [])
    (hmax : l.length ≤ shMaxBoxes (s.descOf j.prog (shpDesc w)))
    (hslots : s.cropSlots j node w (s.descOf j.prog (shpDesc w)) l = some t) :
    exec (.boxListArrival job node) s = .next (t.updNode job node (fun n => { n with queued := true, count := l.length })) := by
  obtain ⟨p, hpic⟩ := h.pic
  have hfits : ¬shMaxBoxes (s.descOf j.prog (shpDesc w)) < l.length := Nat.not_lt.mpr hmax
  show execBoxListArrival job node s = _
  unfold execBoxListArrival
  rw [h.word]
  dsimp only
  rw [h.boxes, hpic]
  dsimp only
  rw [if_neg (by simp [h.unqueued, h.order, h.running]), if_neg (fun hover => hfits hover.1),
    if_neg (by simp [List.isEmpty_iff, hl])]
  simp only [if_neg hfits, hslots, if_neg (Nat.lt_irrefl l.length)]

/-- Slots for boxes are taken beside the jobs. -/
theorem cropSlots_jobs {d : Nat} {t : State} (h : s.cropSlots j node w d l = some t) : t.jobs = s.jobs :=
  (State.cropSlots_keeps (L := 9306651) s j node w d l rfl (.refl s) t h).parts.same .jobs rfl

/-! ### Batches that close (R257) -/

/-- A batch closed with a cause. -/
def Batch.closedBy (b : Batch) (cause : Nat) : Batch := { b with closed := some cause }

theorem closeBatches_batches (s : State) (q : Batch → Bool) (cause : Nat) :
    (s.closeBatches q cause).shp.batches = s.shp.batches.map (fun b => if b.closed.isNone && q b then b.closedBy cause else b) := rfl

theorem closeBatches_closes {b : Batch} {q : Batch → Bool} (hb : b ∈ s.shp.batches) (hopen : b.closed = none) (hq : q b = true)
    (cause : Nat) : b.closedBy cause ∈ (s.closeBatches q cause).shp.batches := by
  rw [closeBatches_batches]
  exact List.mem_map.mpr ⟨b, hb, if_pos (by simp [hopen, hq])⟩

theorem closeBatches_leaves {b : Batch} {q : Batch → Bool} (hb : b ∈ s.shp.batches) (hq : q b = false) (cause : Nat) :
    b ∈ (s.closeBatches q cause).shp.batches := by
  rw [closeBatches_batches]
  exact List.mem_map.mpr ⟨b, hb, if_neg (by simp [hq])⟩

/-- BATCH_WAIT of the batch's node, in µs. -/
def State.batchWait (s : State) (b : Batch) (node : Nat) : Nat :=
  shWait (s.descOf b.key.prog (shpDesc (((s.prog b.key.prog).routeWords b.key.route).getD node 0)))

/-- The wait of the batch is over. -/
def State.waitOver (s : State) (e node svc : Nat) (b : Batch) : Bool :=
  b.shp == e && b.key.node == node && b.svc == svc &&
    decide (s.batchWait b node ≠ 0 ∧ b.first + s.batchWait b node * 1000 ≤ s.time.mono)

theorem exec_batchWaitExpiry_closes (s : State) (e node svc : Nat) :
    exec (.batchWaitExpiry e node svc) s = .next ((s.closeBatches (s.waitOver e node svc) 1).shpNote e) := rfl

theorem exec_flush_closes {e : Nat} (h : reaches s (Reg.SHP_CTRL e)) :
    exec (.flush e) s = .next ((s.closeBatches (fun b => b.shp == e) 2).shpNote e) := by
  show execFlush e s = _
  exact bar_of_reaches h _

theorem exec_testStandin_sets {e : Nat} (h : reaches s (Reg.SHP_CTRL e)) :
    exec (.testStandin e) s = .next (s.wr (Reg.SHP_CTRL_TEST_STANDIN e) 1) := by
  show execTestStandin e s = _
  exact bar_of_reaches h _

/-! ### BATCH_DISPATCH (R258, R268) -/

theorem gateSample_rcd (s : State) (k : NodeKey) (x : Sample) : (s.gateSample k x).rcd = x.rcd := by
  unfold State.gateSample
  split
  · rfl
  · exact ite_both (P := fun y : Sample => y.rcd = x.rcd) rfl rfl

/-- The batch as it leaves: its samples gated, laid out at its destination. -/
def State.sentBatch (s : State) (b : Batch) : Batch :=
  let d := s.descOf b.key.prog (shpDesc (((s.prog b.key.prog).routeWords b.key.route).getD b.key.node 0))
  let b1 := { b with dispatched := true, samples := b.samples.map (s.gateSample b.key) }
  { b1 with image := b1.laidOut (fmtBits (shFmt d) / 8) (shBytes d) }

/-- The batch is marked as sent, and counted: a short one also as short. -/
def State.counted (s : State) (e : Nat) (b : Batch) : State :=
  let t := (s.updBatches (fun q => q == b) (fun _ => s.sentBatch b)).bump (Reg.SHP_BATCHES_COUNT e)
  if b.samples.length < b.n then t.bump (Reg.SHP_SHORT_COUNT e) else t

/-- The batch that BATCH_DISPATCH takes: closed, whole, and behind no other of its node, shaper and class. -/
def State.readyBatch (s : State) (e node svc : Nat) : Option Batch :=
  s.shp.batches.find? (fun b => b.shp == e && b.key.node == node && b.svc == svc && b.closed.isSome && !b.dispatched &&
    b.samples.all (fun x => x.complete) && !s.earlierBatch b)

theorem readyBatch_place {e node svc : Nat} {b : Batch} (h : s.readyBatch e node svc = some b) : b.shp = e ∧ b.key.node = node := by
  have := List.find?_some h
  simp only [Bool.and_eq_true, beq_iff_eq] at this
  obtain ⟨⟨⟨⟨⟨⟨hshp, hnode⟩, -⟩, -⟩, -⟩, -⟩, -⟩ := this
  exact ⟨hshp, hnode⟩

theorem exec_batchDispatch_sends {e svc : Nat} {b : Batch} (h : s.readyBatch e node svc = some b) :
    exec (.batchDispatch e node svc) s = .next (((s.counted e b).deliver (s.sentBatch b)).shpNote e) := by
  obtain ⟨-, rfl⟩ := readyBatch_place h
  unfold State.readyBatch at h
  show execBatchDispatch e b.key.node svc s = _
  unfold execBatchDispatch
  rw [h]
  rfl

theorem counted_same (s : State) (e : Nat) (b : Batch) : (s.counted e b).jobs = s.jobs ∧ (s.counted e b).progs = s.progs :=
  ite_both (P := fun t : State => t.jobs = s.jobs ∧ t.progs = s.progs) ⟨rfl, rfl⟩ ⟨rfl, rfl⟩

theorem rd_counted_batches (s : State) (e : Nat) (b : Batch) :
    (s.counted e b).rd (Reg.SHP_BATCHES_COUNT e) = (s.rd (Reg.SHP_BATCHES_COUNT e) + 1) % 2 ^ 32 := by
  have hcount := rd_bump_same (s.updBatches (fun q => q == b) (fun _ => s.sentBatch b)) (Reg.SHP_BATCHES_COUNT e) 1 (by simp)
  unfold State.counted
  dsimp only
  split
  · exact (rd_bump_other _ _ _ _ (by simp) (.inl (by simp only [Reg.SHP_BATCHES, Reg.SHP_SHORT]; omega))).trans hcount
  · exact hcount

theorem rd_counted_short {e : Nat} {b : Batch} (h : b.samples.length < b.n) :
    (s.counted e b).rd (Reg.SHP_SHORT_COUNT e) = (s.rd (Reg.SHP_SHORT_COUNT e) + 1) % 2 ^ 32 := by
  have hother := rd_bump_other (s.updBatches (fun q => q == b) (fun _ => s.sentBatch b)) (Reg.SHP_BATCHES_COUNT e)
    (Reg.SHP_SHORT_COUNT e) 1 (by simp) (.inl (by simp only [Reg.SHP_BATCHES, Reg.SHP_SHORT]; omega))
  unfold State.counted
  dsimp only
  rw [if_pos h, rd_bump_same _ _ _ (by simp), hother]
  rfl

/-- The outputs of a dispatched batch's samples touch no register of the shapers. -/
theorem deliver_lowRegs (s : State) (b : Batch) : SameLowRegs s (s.deliver b) := by
  have hnode : ∀ (t : State) id n f out, SameLowRegs t ((t.updNode id n f).commitNode id n out) := fun t id n f out =>
    ((State.updNode_keeps (L := 8192) t id n f rfl (.refl t)).lowRegs rfl).trans (commitNode_lowRegs _ id n out)
  refine SameLowRegs.foldl (fun t x => ?_) b.samples s
  split
  · exact .refl t
  · dsimp only
    split
    · exact .refl t
    · split
      · exact hnode _ _ _ _ _
      · exact ite_both (P := SameLowRegs t) (hnode _ _ _ _ _) (.refl t)

/-- A register of the shaper's counts is the same once the batch is delivered and noted. -/
theorem rd_sent {e : Nat} (he : e < 8) (t : State) (b : Batch) {f : RegField}
    (hf : f.addr = Reg.SHP_BATCHES e ∨ f.addr = Reg.SHP_SHORT e) : ((t.deliver b).shpNote e).rd f = t.rd f := by
  simp only [Reg.SHP_BATCHES, Reg.SHP_SHORT] at hf
  rw [rd_shpNote _ _ (by simp only [Reg.SHP_STATUS]; omega)]
  unfold State.rd
  rw [(deliver_lowRegs t b).reg f.addr (by omega) (by simp only [Reg.HIF_SVC_LOST]; omega)]

/-- A single SHAPE sample: its job's node commits with the batch (R258). -/
theorem deliver_single {t : State} {b : Batch} {x : Sample} (hb : b.samples = [x]) (hobj : x.rcd.objIndex = 0xFFFF)
    (hframe : t.frameJob? x.rcd.stream x.rcd.frame = some j) (hjob : t.job? j.id = some j)
    (hopen : (j.node b.key.node).committed = false) (hkey : j.nodeKey b.key.node = b.key) (hbeside : openBeside t j b.key.node) :
    nodeDone (t.deliver b) j.id b.key.node (.batch b.shp b.seq [x]) := by
  have hdue : ¬((j.node b.key.node).committed = true ∨ j.nodeKey b.key.node ≠ b.key) := by simp [hopen, hkey]
  have hdeliver : t.deliver b = (t.updNode j.id b.key.node (fun q => { q with
      count := b.samples.length, recs := b.samples.map (·.rcd), own := [x.rcd.slot] })).commitNode j.id b.key.node
        (.batch b.shp b.seq b.samples) := by
    unfold State.deliver
    rw [hb, List.foldl_cons, List.foldl_nil, hframe]
    dsimp only
    rw [if_neg hdue, if_pos hobj]
  rw [hdeliver, hb]
  exact commitNode_nodeDone _ ((job_updNode t j.id b.key.node _).trans (congrArg _ hjob)) (openBeside_setNode hbeside rfl _)

theorem frameJob_of_jobs {t : State} (h : t.jobs = s.jobs) (st seq : Nat) : t.frameJob? st seq = s.frameJob? st seq := by
  unfold State.frameJob?
  rw [h]

/-- The node of a batch's single SHAPE sample is done when the batch is dispatched (R258). -/
theorem batchDispatch_single {e : Nat} {b : Batch} {x : Sample} (hb : b.samples = [x]) (hobj : x.rcd.objIndex = 0xFFFF)
    (hframe : s.frameJob? x.rcd.stream x.rcd.frame = some j) (hjob : s.job? j.id = some j)
    (hopen : (j.node b.key.node).committed = false) (hkey : j.nodeKey b.key.node = b.key) (hbeside : openBeside s j b.key.node) :
    nodeDone (((s.counted e b).deliver (s.sentBatch b)).shpNote e) j.id b.key.node (.batch b.shp b.seq [s.gateSample b.key x]) := by
  obtain ⟨hjobs, hprogs⟩ := counted_same s e b
  have hsamples : (s.sentBatch b).samples = [s.gateSample b.key x] := by simp [State.sentBatch, hb]
  have hrcd := gateSample_rcd s b.key x
  refine nodeDone_of_jobs (deliver_single (b := s.sentBatch b) hsamples (by rw [hrcd, hobj]) ?_ ((job_of hjobs _).trans hjob) hopen hkey
    (openBeside_of_progs hbeside hprogs)) (jobs_shpNote _ e)
  rw [hrcd, frameJob_of_jobs hjobs, hframe]

end Sys2Proof.Machine
end

section
/-! SUPPORT. The claim on slots, samples and batches of the shapers. -/

set_option Elab.async false

namespace Sys2Proof

open Machine

/-- Settles O36: a sample joins the open batch, which `fillShape` leaves but for that sample; closing is a map over the batches; and what
a dispatch delivers touches no register of the shaper. -/
theorem shapersFillAndDispatchBatches : Obligations.ShapersFillAndDispatchBatches := by
  unfold Obligations.ShapersFillAndDispatchBatches
  refine ⟨?slot, ?done, ?crops, ?expiry, ?flush, ?dispatch⟩
  case slot =>
    rintro s _ _ node w e d j p hjob rfl rfl hword hopc hpic rfl hrows hrunning hnone hopen horder rfl _
    have hdue : s.SlotDue node j w p := ⟨hjob, hword, hopc, hpic, hrows, hrunning, hnone, hopen, horder⟩
    refine ⟨fun b hb => ?_, fun hb hroom => ⟨_, exec_shpSampleSlot_stalls hdue hb hroom, shpStall_spec s _⟩⟩
    obtain ⟨z, hz, hstream, hframe, hslot, hyes, hno⟩ := sampleSlot_spec hdue hb
    refine ⟨_, exec_shpSampleSlot_open hdue hb, _, hz, rfl, rfl, List.take_left' rfl, by simp,
      ⟨z, by simp, hstream, hframe, hslot, fun htest => hyes (by simp [State.newSample, htest]),
        fun htest hgood => hno (by simp [State.newSample, htest]) hgood⟩, rfl⟩
  case done =>
    intro s st n node obj w j x hjob hword hx hdata hopen
    obtain ⟨t, hexec, hbatches⟩ := exec_shpSampleDone_batches hjob hword hx hdata hopen
    obtain ⟨b, hb, hkey, hxb, -⟩ := mem_samplesOf.mp (List.mem_of_find?_eq_some hx)
    have hmine : isSample st n obj x = true := List.find?_some hx
    refine ⟨t, hexec, b.updSamples (isSample st n obj) (fun _ => x.done j.flags), ?_, hkey, x.done j.flags,
      List.mem_map.mpr ⟨x, hxb, if_pos hmine⟩, hmine, rfl, rfl, fun hstand => sflags_done hstand j.flags⟩
    rw [hbatches, ← hkey]
    exact mem_updSamples hb _ _
  case crops =>
    intro s job node j w p l hnode hboxes hpic hunqueued horder hrunning
    have hdue : s.BoxesDue job node j w l := ⟨hnode, hboxes, ⟨p, hpic⟩, hunqueued, horder, hrunning⟩
    constructor
    · rintro rfl hbeside
      exact ⟨_, exec_boxListArrival_empty hdue, commitNode_nodeDone _ (job_of_nodeFor hnode) hbeside⟩
    · intro hl hmax hslots
      obtain ⟨t, ht⟩ := Option.isSome_iff_exists.mp hslots
      obtain ⟨q, hq, hqueued⟩ := job_updNode_some (n := node) (fun n => { n with queued := true, count := l.length })
        ((job_of (cropSlots_jobs ht) job).trans (job_of_nodeFor hnode))
      exact ⟨_, exec_boxListArrival_fits hdue hl hmax ht, q, hq, by rw [hqueued], by rw [hqueued]⟩
  case expiry =>
    rintro s _ _ _ wait b hb rfl rfl rfl hopen hwait hset hover
    have hdue : s.waitOver b.shp b.key.node b.svc b = true := by
      have hwait : s.batchWait b b.key.node = wait := hwait.symm
      simp [State.waitOver, hwait, hset, hover]
    refine ⟨_, exec_batchWaitExpiry_closes s _ _ _, ?_⟩
    dsimp only
    rw [shp_shpNote]
    exact ⟨closeBatches_closes hb hopen hdue 1, rfl⟩
  case flush =>
    intro s e _ hreaches
    refine ⟨⟨_, exec_flush_closes hreaches, ?_⟩, ⟨_, exec_testStandin_sets hreaches, rfl⟩⟩
    dsimp only
    rw [shp_shpNote]
    exact ⟨fun b hb hshp hopen => closeBatches_closes (q := fun b => b.shp == e) hb hopen (beq_iff_eq.mpr hshp) 2, List.length_map _,
      fun b hb hshp => closeBatches_leaves (q := fun b => b.shp == e) hb (beq_eq_false_iff_ne.mpr hshp) 2⟩
  case dispatch =>
    intro s e node svc b he hready
    obtain ⟨rfl, rfl⟩ := readyBatch_place hready
    refine ⟨_, exec_batchDispatch_sends hready, ?_, fun hshort => ?_, fun x j hb hobj hframe hjob hopen hkey hbeside =>
      batchDispatch_single hb hobj hframe hjob hopen hkey hbeside⟩
    · rw [rd_sent he _ _ (.inl rfl), rd_counted_batches]
    · rw [rd_sent he _ _ (.inr rfl), rd_counted_short hshort]

end Sys2Proof
end

section
/-! SUPPORT. Programs: a load that is checked, fails or ends, an unload, and the end of its lehr. -/

set_option Elab.async false

namespace Sys2Proof.Machine

/-! ### The status registers of the programs -/

theorem SameLowRegs.progReg {s t : State} (h : SameLowRegs s t) {k : Nat} (hk : k < 32) :
    t.reg (Reg.GLB_PROG_STATUS k) = s.reg (Reg.GLB_PROG_STATUS k) :=
  h.reg _ (by simp only [Reg.GLB_PROG_STATUS]; omega) (by simp only [Reg.GLB_PROG_STATUS, Reg.HIF_SVC_LOST]; omega)

theorem rd_of_reg {s t : State} {f : RegField} (h : t.reg f.addr = s.reg f.addr) : t.rd f = s.rd f := by
  unfold State.rd
  rw [h]

theorem SameLowRegs.progState {s t : State} (h : SameLowRegs s t) {k : Nat} (hk : k < 32) : t.progState k = s.progState k :=
  rd_of_reg (h.progReg hk)

/-- The status register of another program keeps its value. -/
theorem reg_wr_progOther (s : State) {f : RegField} (v : Nat) {p k : Nat} (hf : f.addr = Reg.GLB_PROG_STATUS p) (hk : k ≠ p) :
    (s.wr f v).reg (Reg.GLB_PROG_STATUS k) = s.reg (Reg.GLB_PROG_STATUS k) :=
  reg_wr_other _ _ _ _ (by rw [hf]; simp only [Reg.GLB_PROG_STATUS]; omega)

theorem progState_wr_state (s : State) (p v : Nat) : (s.wr (Reg.GLB_PROG_STATUS_STATE p) v).progState p = v % 2 ^ 3 :=
  rd_wr_same _ _ _ (show 0 + 3 ≤ 32 by decide)

theorem level_wr_level (s : State) (p v : Nat) :
    (s.wr (Reg.GLB_PROG_STATUS_LEVEL p) v).rd (Reg.GLB_PROG_STATUS_LEVEL p) = v % 2 ^ 4 :=
  rd_wr_same _ _ _ (show 20 + 4 ≤ 32 by decide)

/-- STATE and LEVEL are fields apart. -/
theorem progState_wr_level (s : State) (p v : Nat) : (s.wr (Reg.GLB_PROG_STATUS_LEVEL p) v).progState p = s.progState p :=
  rd_wr_field _ _ _ _ rfl (show 20 + 4 ≤ 32 by decide) (.inl (show 0 + 3 ≤ 20 by decide))

/-- A field of GLB is none of a command ring. -/
theorem ackRing_wr_glb (s : State) {f : RegField} (v : Nat) (c : Cmd) (hf : f.addr < 0x100000) : (s.wr f v).ackRing c = s.ackRing c :=
  rd_wr_reg _ _ _ _ (by simp only [Reg.HIF_CRING_CFG]; omega)

theorem prog_of_progs {s t : State} (h : t.progs = s.progs) (p : Nat) : t.prog p = s.prog p := by
  unfold State.prog
  rw [h]

theorem progStatus_lt {p : Nat} (hp : p < 32) : Reg.GLB_PROG_STATUS p < 0x100000 := by
  simp only [Reg.GLB_PROG_STATUS]
  omega

/-! ### PROG_LOAD (R299, R301) -/

/-- PROG_LOAD in its turn with its image read: what decides its outcome. -/
structure LoadsNow (s : State) (j : Nat) (c : Cmd) (image : List Nat) (s1 : State) : Prop where
  run : s.running j 0x10 = some c
  waits : c.waiting = false
  length : image.length = slotLength c.slot
  read : s.fetchedObj c = (s1, true)
  first : s.olderOn c (slotParam c.slot % 32) [0x10, 0x11] = []

theorem exec_progLoad_empty {s s1 : State} {j : Nat} {c : Cmd} {image : List Nat} (h : LoadsNow s j c image s1)
    (hempty : s.progState (slotParam c.slot % 32) = 0) :
    exec (.progLoad j image) s = .next (s1.loadProg j (slotParam c.slot % 32) image) := by
  obtain ⟨hrun, hwaits, hlength, hread, hfirst⟩ := h
  show execProgLoad j image s = _
  unfold execProgLoad
  simp only [hrun, hwaits, hlength, hread, hfirst, hempty, List.map_nil, List.isEmpty_nil, Bool.false_eq_true, ne_eq, not_true_eq_false,
    or_self, if_false, if_true]

theorem exec_progLoad_busy {s s1 : State} {j : Nat} {c : Cmd} {image : List Nat} (h : LoadsNow s j c image s1)
    (hbusy : 2 ≤ s.progState (slotParam c.slot % 32)) :
    exec (.progLoad j image) s =
      .next (s1.loadFails c (slotParam c.slot % 32) 0x0509 (slotParam c.slot % 32) (s.progState (slotParam c.slot % 32))) := by
  obtain ⟨hrun, hwaits, hlength, hread, hfirst⟩ := h
  show execProgLoad j image s = _
  unfold execProgLoad
  simp only [hrun, hwaits, hlength, hread, hfirst, List.map_nil, List.isEmpty_nil, Bool.false_eq_true, ne_eq, not_true_eq_false,
    or_self, if_false, if_true]
  split
  case h_1 h0 => omega
  case h_2 h1 => omega
  case h_3 => rfl

/-- The checks of a load read nothing that the read of its image changes (R299). -/
theorem ReadsOnly.loadEnv {s t : State} (h : ReadsOnly s t) (p : Nat) : t.loadEnv p = s.loadEnv p := by
  rw [h.eq]
  rfl

theorem progState_loadProg (s : State) (j p : Nat) (image : List Nat) : (s.loadProg j p image).progState p = 1 :=
  progState_wr_state s p 1

theorem reg_loadProg_other (s : State) (j p : Nat) (image : List Nat) {k : Nat} (hk : k ≠ p) :
    (s.loadProg j p image).reg (Reg.GLB_PROG_STATUS k) = s.reg (Reg.GLB_PROG_STATUS k) := reg_wr_progOther s 1 rfl hk

/-- The program under check: the image's parts when the checks pass, and what they found (R299). -/
theorem prog_loadProg (s : State) (j p : Nat) (image : List Nat) :
    ((s.loadProg j p image).prog p).loading = some (j, checkImage (s.loadEnv p) image, image) ∧
      ((s.loadProg j p image).prog p).unloading = none := by
  have hprog : (s.loadProg j p image).prog p =
      { (match checkImage (s.loadEnv p) image with | none => progOf image (s.loadEnv p).hi | some _ => {}) with
        loading := some (j, checkImage (s.loadEnv p) image, image) } := State.prog_setProg _ p _
  rw [hprog]
  refine ⟨rfl, ?_⟩
  cases checkImage (s.loadEnv p) image <;> rfl

/-- A load changes registers, programs and the journal. -/
theorem loadProg_eq (s : State) (j p : Nat) (image : List Nat) :
    s.loadProg j p image =
      { s with regs := (s.loadProg j p image).regs, progs := (s.loadProg j p image).progs, jrnl := (s.loadProg j p image).jrnl } := rfl

theorem waitsOn_loadProg {s : State} {ring ty jidx code : Nat} (j p : Nat) (image : List Nat) (h : waitsOn s ring ty jidx code) :
    waitsOn (s.loadProg j p image) ring ty jidx code := h

/-! ### A load that fails (R299, R309) -/

/-- GLB_LOAD_ERR keeps the first failed load. -/
def State.loadErr (s : State) (p code : Nat) : State :=
  if s.rd Reg.GLB_LOAD_ERR_VALID = 1 then s
  else ((s.wr Reg.GLB_LOAD_ERR_VALID 1).wr Reg.GLB_LOAD_ERR_PROG_ID p).wr Reg.GLB_LOAD_ERR_CODE code

theorem loadErr_jrnl (s : State) (p code : Nat) : (s.loadErr p code).jrnl = s.jrnl := by
  unfold State.loadErr
  split
  · rfl
  · simp only [State.wr_jrnl]

theorem reg_loadErr (s : State) (p code a : Nat) (ha : a ≠ Reg.GLB_LOAD_ERR) : (s.loadErr p code).reg a = s.reg a := by
  unfold State.loadErr
  split
  · rfl
  · exact ((reg_wr_other _ Reg.GLB_LOAD_ERR_CODE code a ha).trans (reg_wr_other _ Reg.GLB_LOAD_ERR_PROG_ID p a ha)).trans
      (reg_wr_other s Reg.GLB_LOAD_ERR_VALID 1 a ha)

theorem ackRing_loadErr (s : State) (p code : Nat) (c : Cmd) : (s.loadErr p code).ackRing c = s.ackRing c := by
  refine rd_of_reg (reg_loadErr s p code _ ?_)
  simp only [Reg.HIF_CRING_CFG, Reg.GLB_LOAD_ERR]
  omega

/-- A failed load is a command of the programming model that fails, once GLB_LOAD_ERR has it. -/
theorem loadFails_eq (s : State) (c : Cmd) (p code d0 d1 : Nat) :
    s.loadFails c p code d0 d1 = (s.loadErr p code).failGlb c code d0 d1 := by
  unfold State.failGlb
  rw [ackRing_loadErr]
  rfl

theorem loadFails_ends {s : State} {c d : Cmd} (p code d0 d1 : Nat) (h : s.cmd? c.jidx = some d) :
    ends (s.loadFails c p code d0 d1) c code := by
  rw [loadFails_eq]
  exact failGlb_ends code d0 d1 ((cmd_of_jrnl (loadErr_jrnl s p code) _).trans h)

theorem loadFails_waits (s : State) (c : Cmd) (p code d0 d1 : Nat) :
    waitsOn (s.loadFails c p code d0 d1) (s.ackRing c) 0x12 c.jidx code := by
  rw [loadFails_eq, ← ackRing_loadErr s p code c]
  exact failGlb_waits _ c code d0 d1

theorem loadFails_progs (s : State) (c : Cmd) (p code d0 d1 : Nat) : (s.loadFails c p code d0 d1).progs = s.progs :=
  (State.loadFails_keeps (L := 8388639) s c p code d0 d1 rfl (.refl s)).parts.same .progs rfl

/-- A failed load writes GLB_LOAD_ERR and the records, and no status register of a program. -/
theorem reg_loadFails (s : State) (c : Cmd) (p code d0 d1 : Nat) {k : Nat} (hk : k < 32) :
    (s.loadFails c p code d0 d1).reg (Reg.GLB_PROG_STATUS k) = s.reg (Reg.GLB_PROG_STATUS k) :=
  ((file_lowRegs (s.loadErr p code) .glb 0xFFFF code d0 d1).progReg hk).trans
    (reg_loadErr _ _ _ _ (by simp only [Reg.GLB_PROG_STATUS, Reg.GLB_LOAD_ERR]; omega))

theorem progState_loadFails (s : State) (c : Cmd) (p code d0 d1 : Nat) {k : Nat} (hk : k < 32) :
    (s.loadFails c p code d0 d1).progState k = s.progState k := rd_of_reg (reg_loadFails s c p code d0 d1 hk)

/-! ### PROG_LOAD_END (R299, R304, R720) -/

/-- The program is LOADED with its LEVEL. -/
def State.markedLoaded (s : State) (p : Nat) : State :=
  ((s.setProg p { s.prog p with loading := none }).wr (Reg.GLB_PROG_STATUS_STATE p) 2).wr (Reg.GLB_PROG_STATUS_LEVEL p) (s.prog p).level

/-- The PROG_ID is EMPTY again. -/
def State.emptied (s : State) (p : Nat) : State := (s.setProg p {}).wr (Reg.GLB_PROG_STATUS_STATE p) 0

theorem exec_progLoadEnd_good {s : State} {p j : Nat} {c : Cmd} {image : List Nat} (hload : (s.prog p).loading = some (j, none, image))
    (hcmd : s.cmd? j = some c) : exec (.progLoadEnd p) s = .next (((s.markedLoaded p).cfgExtend 2 image).done c) := by
  show execProgLoadEnd p s = _
  unfold execProgLoadEnd
  simp only [hload, hcmd]
  rfl

theorem exec_progLoadEnd_failed {s : State} {p j code d0 d1 : Nat} {c : Cmd} {image : List Nat}
    (hload : (s.prog p).loading = some (j, some (code, d0, d1), image)) (hcmd : s.cmd? j = some c) :
    exec (.progLoadEnd p) s = .next ((s.emptied p).loadFails c p code d0 d1) := by
  show execProgLoadEnd p s = _
  unfold execProgLoadEnd
  simp only [hload, hcmd]
  rfl

/-- CFG_DIGEST and its count of events lie in the block of SEC. -/
theorem cfgExtend_lowRegs (s : State) (kind : Nat) (item : List Nat) : SameLowRegs s (s.cfgExtend kind item) := by
  unfold State.cfgExtend State.putBytes State.bump
  refine .wr (.foldl (fun t q => (SameLowRegs.refl t).setReg _ ?_) _ s) _ (by decide)
  simp only [Reg.SEC_CFG_DIGEST]
  omega

theorem cfgExtend_regsOnly (s : State) (kind : Nat) (item : List Nat) : Keeps 1 s (s.cfgExtend kind item) :=
  State.cfgExtend_keeps s kind item rfl (.refl s)

theorem progState_markedLoaded (s : State) (p : Nat) : (s.markedLoaded p).progState p = 2 :=
  (progState_wr_level _ _ _).trans (progState_wr_state _ _ _)

theorem level_markedLoaded (s : State) (p : Nat) : (s.markedLoaded p).rd (Reg.GLB_PROG_STATUS_LEVEL p) = (s.prog p).level % 2 ^ 4 :=
  level_wr_level _ _ _

theorem reg_markedLoaded_other (s : State) {p k : Nat} (hk : k ≠ p) :
    (s.markedLoaded p).reg (Reg.GLB_PROG_STATUS k) = s.reg (Reg.GLB_PROG_STATUS k) :=
  (reg_wr_progOther _ _ rfl hk).trans (reg_wr_progOther _ _ rfl hk)

theorem prog_markedLoaded (s : State) (p : Nat) : (s.markedLoaded p).prog p = { s.prog p with loading := none } :=
  State.prog_setProg s p _

/-! ### PROG_UNLOAD and the end of its lehr (R301 to R303) -/

/-- The program is in lehr, and the command waits for its end. -/
def State.unloadBegun (s : State) (j p : Nat) : State :=
  ((s.wr (Reg.GLB_PROG_STATUS_STATE p) 3).setProg p { s.prog p with unloading := some j }).updCmd j (fun c => { c with waiting := true })

theorem exec_progUnload_empty {s : State} {j : Nat} {c : Cmd} (hrun : s.running j 0x11 = some c) (hwaits : c.waiting = false)
    (hfirst : s.olderOn c (slotParam c.slot % 32) [0x10, 0x11] = []) (hempty : s.progState (slotParam c.slot % 32) = 0) :
    exec (.progUnload j) s = .next ((s.file .glb 0xFFFF 0x050A).done c 0x050A) := by
  show execProgUnload j s = _
  unfold execProgUnload
  simp only [hrun, hwaits, hfirst, hempty, List.isEmpty_nil, Bool.false_eq_true, Bool.true_eq_false, or_self, if_false, if_true]

theorem exec_progUnload_loaded {s : State} {j : Nat} {c : Cmd} (hrun : s.running j 0x11 = some c) (hwaits : c.waiting = false)
    (hfirst : s.olderOn c (slotParam c.slot % 32) [0x10, 0x11] = []) (hloaded : s.progState (slotParam c.slot % 32) = 2) :
    exec (.progUnload j) s = .next (s.unloadBegun j (slotParam c.slot % 32)) := by
  show execProgUnload j s = _
  unfold execProgUnload
  simp only [hrun, hwaits, hfirst, hloaded, List.isEmpty_nil, Bool.false_eq_true, Bool.true_eq_false, or_self, if_false, if_true,
    OfNat.ofNat_ne_zero]
  rfl

/-- The program is gone with what was kept for it, and the DONE of its unload waits. -/
def State.unloaded (s : State) (p : Nat) (c : Cmd) : State :=
  { ((s.emptied p).wr (Reg.GLB_PROG_STATUS_LEVEL p) 0).done c with
    shp := { s.shp with seqs := s.shp.seqs.filter (fun q => q.1.prog != p) }
    hbm := { s.hbm with badProgs := s.hbm.badProgs.filter (fun q => q.1 != p) } }

theorem exec_progUnloadDrainEnd_free {s : State} {p j : Nat} {c : Cmd} (hunload : (s.prog p).unloading = some j)
    (hcmd : s.cmd? j = some c) (hfree : s.progFree c p = true) (hpend : (s.prog p).pendLoad = none) :
    exec (.progUnloadDrainEnd p) s = .next (s.unloaded p c) := by
  show execProgUnloadDrainEnd p s = _
  unfold execProgUnloadDrainEnd
  simp only [hunload, hcmd, hfree, hpend, if_true]
  rfl

theorem exec_progUnloadDrainEnd_load {s : State} {p j k : Nat} {c : Cmd} {image : List Nat} (hunload : (s.prog p).unloading = some j)
    (hcmd : s.cmd? j = some c) (hfree : s.progFree c p = true) (hpend : (s.prog p).pendLoad = some (k, image)) :
    exec (.progUnloadDrainEnd p) s = .next ((s.unloaded p c).loadProg k p image) := by
  show execProgUnloadDrainEnd p s = _
  unfold execProgUnloadDrainEnd
  simp only [hunload, hcmd, hfree, hpend, if_true]
  rfl

theorem progState_unloaded (s : State) (p : Nat) (c : Cmd) : (s.unloaded p c).progState p = 0 :=
  (progState_wr_level (s.emptied p) p 0).trans (progState_wr_state _ p 0)

theorem level_unloaded (s : State) (p : Nat) (c : Cmd) : (s.unloaded p c).rd (Reg.GLB_PROG_STATUS_LEVEL p) = 0 :=
  level_wr_level (s.emptied p) p 0

theorem prog_unloaded (s : State) (p : Nat) (c : Cmd) : (s.unloaded p c).prog p = {} := State.prog_setProg s p {}

theorem reg_unloaded_other (s : State) (p : Nat) (c : Cmd) {k : Nat} (hk : k ≠ p) :
    (s.unloaded p c).reg (Reg.GLB_PROG_STATUS k) = s.reg (Reg.GLB_PROG_STATUS k) :=
  (reg_wr_progOther (s.emptied p) 0 rfl hk).trans (reg_wr_progOther _ 0 rfl hk)

theorem ackRing_unloaded (s : State) {p : Nat} (c : Cmd) (hp : p < 32) : (s.unloaded p c).ackRing c = s.ackRing c :=
  (ackRing_wr_glb (s.emptied p) 0 c (progStatus_lt hp)).trans (ackRing_wr_glb _ 0 c (progStatus_lt hp))

theorem unloaded_ends {s : State} (p : Nat) {c : Cmd} (h : s.cmd? c.jidx = some c) : ends (s.unloaded p c) c 0 :=
  ends_of_same (done_ends (s := (s.emptied p).wr (Reg.GLB_PROG_STATUS_LEVEL p) 0) 0 h) rfl rfl rfl

end Sys2Proof.Machine
end

section
/-! SUPPORT. The claim on the loads and unloads of programs. -/

set_option Elab.async false

namespace Sys2Proof

open Machine

/-- Settles O14: each command takes one branch, whose next state is a few writes to the status register of the program beside one change of
its entry; a failed load is `failGlb` once GLB_LOAD_ERR has it, and CFG_DIGEST and the records stand in other blocks. -/
theorem programsLoadAndUnload : Obligations.ProgramsLoadAndUnload := by
  unfold Obligations.ProgramsLoadAndUnload
  intro others
  refine ⟨?load, ?busy, ?good, ?failed, ?unloadEmpty, ?unload, ?drained, ?drainedLoad⟩
  case load =>
    intro s j c image hrun hwaits hlength hread hfirst hempty
    obtain ⟨s1, hfetched, hreads⟩ := fetchedObj_done hread
    obtain ⟨hloading, -⟩ := prog_loadProg s1 j (slotParam c.slot % 32) image
    refine ⟨_, exec_progLoad_empty ⟨hrun, hwaits, hlength, hfetched, hfirst⟩ hempty, progState_loadProg _ _ _ _, ?_,
      fun k _ hk => ?_, ?_⟩
    · rw [hloading, hreads.loadEnv]
    · rw [reg_loadProg_other _ _ _ _ hk, hreads.reg]
    · rw [loadProg_eq, hreads.eq]
  case busy =>
    intro s j c image hrun hwaits hlength hread hfirst hbusy
    obtain ⟨hcmd, rfl, -, -⟩ := cmd_of_running hrun
    obtain ⟨s1, hfetched, hreads⟩ := fetchedObj_done hread
    obtain ⟨d, hd⟩ := hreads.cmd_some hcmd
    have hp : slotParam c.slot % 32 < 32 := Nat.mod_lt _ (by decide)
    refine ⟨_, exec_progLoad_busy ⟨hrun, hwaits, hlength, hfetched, hfirst⟩ hbusy, ?_, loadFails_ends _ _ _ _ hd, ?_, ?_⟩
    · rw [← hreads.ackRing]
      exact loadFails_waits _ _ _ _ _ _
    · exact (progState_loadFails _ _ _ _ _ _ hp).trans (rd_of_reg (hreads.reg _))
    · rw [loadFails_progs, hreads.eq]
  case good =>
    intro s p j c image hp hload hcmd
    obtain rfl := jidx_of_cmd hcmd
    have hexec := exec_progLoadEnd_good hload hcmd
    have hkeeps := cfgExtend_regsOnly (s.markedLoaded p) 2 image
    have hregs := cfgExtend_lowRegs (s.markedLoaded p) 2 image
    generalize (s.markedLoaded p).cfgExtend 2 image = t at hexec hkeeps hregs
    have hprog : (t.done c).prog p = { s.prog p with loading := none } :=
      (prog_of_progs (hkeeps.parts.same .progs rfl) p).trans (prog_markedLoaded s p)
    refine ⟨_, hexec, (hregs.progState hp).trans (progState_markedLoaded s p),
      (rd_of_reg (hregs.progReg hp)).trans (level_markedLoaded s p),
      done_ends 0 ((cmd_of_jrnl (hkeeps.parts.same .jrnl rfl) _).trans hcmd), ?_, ?_,
      fun k hlt hk => (hregs.progReg hlt).trans (reg_markedLoaded_other s hk)⟩
    all_goals rw [hprog]
  case failed =>
    intro s p j code d0 d1 c image hp hload hcmd
    obtain rfl := jidx_of_cmd hcmd
    refine ⟨_, exec_progLoadEnd_failed hload hcmd, ?_, ?_, loadFails_ends _ _ _ _ (s := s.emptied p) hcmd, ?_, fun k hlt hk => ?_⟩
    · rw [progState_loadFails _ _ _ _ _ _ hp]
      exact progState_wr_state _ p 0
    · have hring : (s.emptied p).ackRing c = s.ackRing c := ackRing_wr_glb _ 0 c (progStatus_lt hp)
      rw [← hring]
      exact loadFails_waits _ _ _ _ _ _
    · exact (prog_of_progs (loadFails_progs _ _ _ _ _ _) p).trans (State.prog_setProg s p {})
    · rw [reg_loadFails _ _ _ _ _ _ hlt]
      exact reg_wr_progOther _ 0 rfl hk
  case unloadEmpty =>
    intro s j c hrun hwaits hfirst hempty
    obtain ⟨hcmd, rfl, -, -⟩ := cmd_of_running hrun
    have hfiled := file_records s .glb 0xFFFF 0x050A 0 0
    refine ⟨_, exec_progUnload_empty hrun hwaits hfirst hempty, done_ends _ ((cmd_of_jrnl hfiled.jrnl _).trans hcmd), hfiled.progs, ?_⟩
    exact ((file_lowRegs s .glb 0xFFFF 0x050A 0 0).progState (Nat.mod_lt _ (by decide))).trans hempty
  case unload =>
    intro s j c hrun hwaits hfirst hloaded
    have hprog : (s.unloadBegun j (slotParam c.slot % 32)).prog (slotParam c.slot % 32) =
        { s.prog (slotParam c.slot % 32) with unloading := some j } := State.prog_setProg _ _ _
    refine ⟨_, exec_progUnload_loaded hrun hwaits hfirst hloaded, progState_wr_state s _ 3, ?_,
      fun k _ hk => reg_wr_progOther s 3 rfl hk, rfl⟩
    rw [hprog]
  case drained =>
    intro s p j c _ hunload hcmd hfree hpend
    obtain rfl := jidx_of_cmd hcmd
    exact ⟨_, exec_progUnloadDrainEnd_free hunload hcmd hfree hpend, progState_unloaded s p c, level_unloaded s p c, prog_unloaded s p c,
      unloaded_ends p hcmd, fun k _ hk => reg_unloaded_other s p c hk⟩
  case drainedLoad =>
    intro s p j k c image hp hunload hcmd hfree hpend
    obtain rfl := jidx_of_cmd hcmd
    obtain ⟨hdone, -⟩ := unloaded_ends p hcmd
    rw [ackRing_unloaded s c hp] at hdone
    obtain ⟨-, hunloading⟩ := prog_loadProg (s.unloaded p c) k p image
    refine ⟨_, exec_progUnloadDrainEnd_load hunload hcmd hfree hpend, progState_loadProg _ _ _ _, waitsOn_loadProg k p image hdone,
      fun n _ hn => ?_, hunloading⟩
    rw [reg_loadProg_other _ _ _ _ hn, reg_unloaded_other s p c hn]

end Sys2Proof
end

section
/-! SUPPORT. Core nodes: an instruction that runs over the grid of its node, or whose job faults. -/

set_option Elab.async false

namespace Sys2Proof.Machine

/-! ### What decides the outcome of a core node's instruction (R278, R347, R424, R535) -/

/-- A core node whose sources may be read and whose tables are loaded. -/
structure SourcesReady (s : State) (id n opc : Nat) (j : Job) (w : Nat) : Prop where
  node : s.nodeFor id n opc = some (j, w)
  sources : (coreSrcs w).all (fun r => s.srcReady j r.2 (r.1 == 64)) = true
  tables : s.tblReady j n opc = true

/-- The size of a node's plan entry; 0 without one. -/
def State.planRoom (s : State) (j : Job) (w : Nat) : Nat := ((s.prog j.prog).plan[wPlan w]?.map planSize).getD 0

theorem planRoom_eq (s : State) (j : Job) (w : Nat) :
    (match (s.prog j.prog).plan[wPlan w]? with | some e => planSize e | none => 0) = s.planRoom j w := by
  unfold State.planRoom
  cases (s.prog j.prog).plan[wPlan w]? <;> rfl

/-- A job whose core node finds more regions of interest than its output holds is in flight no more (R253, R338, R482). -/
theorem runNode_roiOver {s : State} {id n opc : Nat} {j : Job} {w f : Nat} (h : SourcesReady s id n opc j w)
    (hover : roiOver w (s.descOf j.prog (wDesc w)) (j.node (wA w)).count (j.srcs w) = some f) :
    (s.runNode id n opc).job? id = none := by
  obtain ⟨hnode, hsources, htables⟩ := h
  have hid := id_of_job (job_of_nodeFor hnode)
  unfold State.runNode
  rw [hnode]
  dsimp only
  rw [if_pos ⟨hsources, htables⟩, hover]
  exact hid ▸ faultJob_gone s j n _ _ _

/-- A job whose core node fails its run-time checks is in flight no more (R337, R338). -/
theorem runNode_faults {s : State} {id n opc : Nat} {j : Job} {w d : Nat} {k : Nat × List SampleRec × List Nat} {f : Nat × Nat × Nat}
    (h : SourcesReady s id n opc j w) (hd : d = s.descOf j.prog (wDesc w)) (hk : k = j.sampling w d (j.srcs w))
    (hover : roiOver w d (j.node (wA w)).count (j.srcs w) = none)
    (hfault : nodeFault w d (rowsM d k.1) k.1 (s.planRoom j w) (j.srcs w) = some f) :
    (s.runNode id n opc).job? id = none := by
  obtain ⟨hnode, hsources, htables⟩ := h
  have hid := id_of_job (job_of_nodeFor hnode)
  have hfails : ∀ room, room = s.planRoom j w → nodeFault w d (rowsM d k.1) k.1 room (j.srcs w) = some f := fun _ h => h ▸ hfault
  unfold State.runNode
  rw [hnode]
  dsimp only
  rw [if_pos ⟨hsources, htables⟩, ← hd, ← hk, hover, hfails _]
  · exact hid ▸ faultJob_gone s j n _ _ _
  · exact planRoom_eq s j w

/-! ### A node that runs with no tile gated (R289, R535) -/

/-- A node over its samples and grid, with every tile job still to come. -/
def NodeSt.overGrid (x : NodeSt) (k : Nat × List SampleRec × List Nat) (g : Grid) : NodeSt :=
  { x with ran := true, queued := true, count := k.1, recs := k.2.1, own := k.2.2, grid := some g, gated := [],
           unready := List.range g.count }

/-- What a node computes depends on the programs and the tables alone. -/
theorem calcNode_of_same {s t : State} (hprogs : t.progs = s.progs) (htbl : t.tbl = s.tbl) (j : Job) (n w : Nat) :
    t.calcNode j n w = s.calcNode j n w := by
  unfold State.calcNode State.coreDesc State.jobWord State.descOf State.nodeBank State.bankOf State.prog
  rw [hprogs, htbl]

/-- The node runs over its grid, and its result is formed from its sources. -/
def State.ranOver (s : State) (id n : Nat) (j : Job) (w d : Nat) (k : Nat × List SampleRec × List Nat) (g : Grid) : State :=
  ((s.roiCounts j w d (j.srcs w)).updNode id n (fun x => x.overGrid k g)).updNode id n (fun x =>
    { x with out := (s.calcNode (j.setNode n ((j.node n).overGrid k g)) n w).out })

/-- A core node that runs with no tile gated: it passes its run-time checks, GATE_NODE is another, and its input rows are present. -/
structure RunsUngated (s : State) (id n opc : Nat) (j : Job) (w d : Nat) (k : Nat × List SampleRec × List Nat) (g : Grid) : Prop where
  ready : SourcesReady s id n opc j w
  desc : d = s.descOf j.prog (wDesc w)
  samples : k = j.sampling w d (j.srcs w)
  grid : g = gridOf w d (rowsM d k.1) k.1
  regions : roiOver w d (j.node (wA w)).count (j.srcs w) = none
  passes : nodeFault w d (rowsM d k.1) k.1 (s.planRoom j w) (j.srcs w) = none
  ungated : s.gateOf j n = none
  present : ∀ m, inputAbsent w d g (j.sampleOf w d) (j.srcs w) m = false

theorem runNode_ranOver {s : State} {id n opc : Nat} {j : Job} {w d : Nat} {k : Nat × List SampleRec × List Nat} {g : Grid}
    (h : RunsUngated s id n opc j w d k g) : s.runNode id n opc = ((s.ranOver id n j w d k g).wake id).finishNode id n := by
  obtain ⟨⟨hnode, hsources, htables⟩, hd, hk, hg, hregions, hchecks, hgate, hpresent⟩ := h
  have hpasses : ∀ room, room = s.planRoom j w → nodeFault w d (rowsM d k.1) k.1 room (j.srcs w) = none := fun _ h => h ▸ hchecks
  have hgated : ∀ l : List Nat, l.filter (fun t => inputAbsent w d g (j.sampleOf w d) (j.srcs w) (g.at t).1) = [] := fun l =>
    List.filter_eq_nil_iff.mpr fun t _ => by simp [hpresent]
  have hkeeps := State.roiCounts_keeps (L := 8388608) s j w d (j.srcs w) rfl (.refl s)
  have hjob : ((s.roiCounts j w d (j.srcs w)).updNode id n (fun x => x.overGrid k g)).job? id =
      some (j.setNode n ((j.node n).overGrid k g)) :=
    (job_updNode _ id n _).trans (congrArg _ ((job_of (hkeeps.parts.same .jobs rfl) id).trans (job_of_nodeFor hnode)))
  have hcalc := calcNode_of_same (s := s) (t := (s.roiCounts j w d (j.srcs w)).updNode id n (fun x => x.overGrid k g))
    (hkeeps.parts.same .progs rfl) (hkeeps.parts.same .tbl rfl) (j.setNode n ((j.node n).overGrid k g)) n w
  unfold State.runNode
  rw [hnode]
  dsimp only
  rw [if_pos ⟨hsources, htables⟩, ← hd, ← hk, hregions, hpasses _, ← hg, hgate]
  · simp only [Bool.false_or, hgated, List.contains_nil, Bool.not_false, List.filter_true, Option.isSome_none, Bool.false_eq_true,
      if_false]
    unfold State.ranOver
    unfold NodeSt.overGrid at hjob hcalc ⊢
    rw [hjob]
    dsimp only
    rw [hcalc]
  · exact planRoom_eq s j w

theorem job_ranOver {s : State} {id : Nat} {j : Job} (n w d : Nat) (k : Nat × List SampleRec × List Nat) (g : Grid)
    (h : s.job? id = some j) : ∃ l, (s.ranOver id n j w d k g).job? id = some l ∧ l.node n =
      { (j.node n).overGrid k g with out := (s.calcNode (j.setNode n ((j.node n).overGrid k g)) n w).out } := by
  have hkeeps := State.roiCounts_keeps (L := 8388608) s j w d (j.srcs w) rfl (.refl s)
  obtain ⟨l, hl, hran⟩ := job_updNode_some (n := n) (fun x => x.overGrid k g) ((job_of (hkeeps.parts.same .jobs rfl) id).trans h)
  obtain ⟨m, hm, hout⟩ := job_updNode_some (n := n) (fun x =>
    { x with out := (s.calcNode (j.setNode n ((j.node n).overGrid k g)) n w).out }) hl
  exact ⟨m, hm, by rw [hout, hran]⟩

/-- With tiles to come and none committed, a node is not finished (R346). -/
theorem finished_of_no_tile {x : NodeSt} {g : Grid} (hgated : x.gated = []) (hpassed : x.passed = []) (hcount : 0 < g.count) :
    x.finished g = false := by
  have hfirst : (List.range g.count).all (fun t => x.gated.contains t || x.passed.contains (g.passes - 1, t)) = false := by
    rw [List.all_eq_false]
    exact ⟨0, List.mem_range.mpr hcount, by simp [hgated, hpassed]⟩
  unfold NodeSt.finished
  rw [hfirst, Bool.false_and, Bool.false_and]

theorem finishNode_unfinished {s : State} {id n : Nat} {j : Job} {g : Grid} (h : s.job? id = some j)
    (hgrid : (j.node n).grid = some g) (hopen : (j.node n).finished g = false) : s.finishNode id n = s := by
  unfold State.finishNode
  rw [h]
  dsimp only
  split
  next _ _ hgrid' _ =>
    cases hgrid.symm.trans hgrid'
    rw [hopen, if_neg fun hall => Bool.false_ne_true hall.1]
  next => rfl

/-- The node after its instruction: over its grid with its result, and tile jobs that are ready no longer in its list. -/
theorem runNode_node {s : State} {id n opc : Nat} {j : Job} {w d : Nat} {k : Nat × List SampleRec × List Nat} {g : Grid}
    (h : RunsUngated s id n opc j w d k g) (hcount : 0 < g.count) (hpassed : (j.node n).passed = []) :
    ∃ l, (s.runNode id n opc).job? id = some l ∧ l.node n =
      { (j.node n).overGrid k g with
        out := (s.calcNode (j.setNode n ((j.node n).overGrid k g)) n w).out, unready := (l.node n).unready } := by
  obtain ⟨l, hl, hran⟩ := job_ranOver n w d k g (job_of_nodeFor h.ready.node)
  obtain ⟨m, hm, hwoken⟩ := wake_work _ id l hl
  have hnode := hwoken.node n
  rw [hran] at hnode
  have hgrid : (m.node n).grid = some g := by rw [hnode]; rfl
  have hopen : (m.node n).finished g = false := finished_of_no_tile (by rw [hnode]; rfl) (by rw [hnode]; exact hpassed) hcount
  refine ⟨m, ?_, hnode⟩
  rw [runNode_ranOver h, finishNode_unfinished hm hgrid hopen, hm]

end Sys2Proof.Machine
end

section
/-! SUPPORT. The claim on core nodes. -/

set_option Elab.async false

namespace Sys2Proof

open Machine

/-- Settles O23: all twelve instructions are `runNode` with their opcode; none of its tiles is gated, and with tiles to come the node does
not finish, so that waking its tile jobs leaves the result; a fault ends the job. -/
theorem coreNodesRunOverTheirGrid : Obligations.CoreNodesRunOverTheirGrid := by
  unfold Obligations.CoreNodesRunOverTheirGrid
  intro plan runs
  have hruns : ∀ (i : Nat → Nat → Instr) (opc : Nat), (∀ job node s, exec (i job node) s = .next (s.runNode job node opc)) →
      runs i opc := by
    intro i opc hexec
    refine ⟨?grid, ?fault, ?regions⟩
    case grid =>
      rintro s job node j w d q k g hnode hsources htables hd rfl hk hg hregions hchecks hgate hpresent hcount hpassed hopen
      obtain ⟨l, hl, hran⟩ :=
        runNode_node ⟨⟨hnode, hsources, htables⟩, hd, hk, hg, hregions, hchecks, hgate, hpresent⟩ hcount hpassed
      refine ⟨_, hexec job node s, l, hl, ?_⟩
      rw [hran]
      exact ⟨rfl, hopen, rfl, rfl, rfl, rfl, rfl⟩
    case fault =>
      rintro s job node j w d q k f hnode hsources htables hd rfl hk hover hfault
      exact ⟨_, hexec job node s, runNode_faults ⟨hnode, hsources, htables⟩ hd hk hover hfault⟩
    case regions =>
      rintro s job node j w d q f hnode hsources htables rfl rfl hover
      exact ⟨_, hexec job node s, runNode_roiOver ⟨hnode, hsources, htables⟩ hover⟩
  exact ⟨hruns _ _ fun _ _ _ => rfl, hruns _ _ fun _ _ _ => rfl, hruns _ _ fun _ _ _ => rfl, hruns _ _ fun _ _ _ => rfl,
    hruns _ _ fun _ _ _ => rfl, hruns _ _ fun _ _ _ => rfl, hruns _ _ fun _ _ _ => rfl, hruns _ _ fun _ _ _ => rfl,
    hruns _ _ fun _ _ _ => rfl, hruns _ _ fun _ _ _ => rfl, hruns _ _ fun _ _ _ => rfl, hruns _ _ fun _ _ _ => rfl⟩

end Sys2Proof
end

section
/-! SUPPORT. Cores: the registers that follow a core and the scheduler's queues, and what a stop leaves of a core. -/

set_option Elab.async false

namespace Sys2Proof.Machine

/-! ### The registers that follow a core (R358, R563, R564) -/

theorem core_of_cores {s t : State} (h : t.cores = s.cores) (c : Nat) : t.core c = s.core c := by
  unfold State.core
  rw [h]

theorem note_eq (s : State) (c : Nat) : s.note c = { s with regs := (s.note c).regs } :=
  (State.note_keeps s c rfl (.refl s)).eq_regs

@[simp] theorem note_cores (s : State) (c : Nat) : (s.note c).cores = s.cores := by rw [note_eq]
@[simp] theorem note_sched (s : State) (c : Nat) : (s.note c).sched = s.sched := by rw [note_eq]
@[simp] theorem note_jobs (s : State) (c : Nat) : (s.note c).jobs = s.jobs := by rw [note_eq]
@[simp] theorem note_tbl (s : State) (c : Nat) : (s.note c).tbl = s.tbl := by rw [note_eq]
@[simp] theorem core_note (s : State) (c k : Nat) : (s.note c).core k = s.core k := core_of_cores (note_cores s c) k
@[simp] theorem job_note (s : State) (c id : Nat) : (s.note c).job? id = s.job? id := job_of (note_jobs s c) id

/-- Outside SCHED's status registers and the registers of its classes and clusters `schedNote` writes nothing. -/
theorem reg_schedNote (s : State) {a : Nat} (h : a < 0x800100 ∨ 0x800300 ≤ a) (hstatus : a ≠ Reg.SCHED_STATUS) :
    s.schedNote.reg a = s.reg a := by
  have hwr : ∀ (t : State) (f : RegField) (v : Nat), t.reg a = s.reg a → a ≠ f.addr → (t.wr f v).reg a = s.reg a :=
    fun t f v ht hf => (reg_wr_other t f v a hf).trans ht
  unfold State.schedNote
  refine List.foldlRecOn (motive := fun t : State => t.reg a = s.reg a) _ _ (List.foldlRecOn (motive := fun t : State =>
    t.reg a = s.reg a) _ _ (hwr _ _ _ (hwr s _ _ rfl hstatus) hstatus) ?classes) ?clusters
  case classes =>
    intro t ht n hn
    have hlt := List.mem_range.mp hn
    refine hwr _ _ _ (hwr t _ _ ht ?_) ?_
    · simp only [Reg.SCHED_CLS_CORES]; omega
    · simp only [Reg.SCHED_CLS_READY]; omega
  case clusters =>
    intro t ht k hk
    have hlt := List.mem_range.mp hk
    have hcluster : a ≠ Reg.SCHED_CLU_STATUS k := by simp only [Reg.SCHED_CLU_STATUS]; omega
    exact hwr _ _ _ (hwr t _ _ ht hcluster) hcluster

/-- The registers of a core that `coreNote` writes. -/
def noteRegs (c : Nat) : List Nat := [Reg.CORE_LRW_STATUS c, Reg.CORE_MRV_STATUS c, Reg.CORE_SCHED_STATUS c, Reg.CORE_SCHED_REMOTE c]

theorem reg_coreNote (s : State) {a c : Nat} (h : a ∉ noteRegs c) : (s.coreNote c).reg a = s.reg a := by
  simp only [noteRegs, List.mem_cons, List.not_mem_nil, or_false, not_or] at h
  obtain ⟨hlrw, hmrv, hsched, hremote⟩ := h
  unfold State.coreNote
  dsimp only
  rw [reg_wr_other _ _ _ _ hremote, reg_wr_other _ _ _ _ hsched, reg_wr_other _ _ _ _ hsched, reg_wr_other _ _ _ _ hsched,
    reg_wr_other _ _ _ _ hmrv]
  have hheld := (reg_wr_other (s.wr (Reg.CORE_LRW_STATUS_LONG_HELD c) (s.core c).longHeld) (Reg.CORE_LRW_STATUS_ACC_FREE c)
    (s.core c).accFree a hlrw).trans (reg_wr_other s _ _ _ hlrw)
  exact ite_both (P := fun t : State => t.reg a = s.reg a) ((reg_wr_other _ _ _ _ hlrw).trans hheld) hheld

theorem reg_note (s : State) {a c : Nat} (h : a < 0x800100 ∨ 0x800300 ≤ a) (hstatus : a ≠ Reg.SCHED_STATUS) (hcore : a ∉ noteRegs c) :
    (s.note c).reg a = s.reg a := (reg_schedNote _ h hstatus).trans (reg_coreNote s hcore)

theorem coreState_of_reg {s t : State} {c : Nat} (h : t.reg (Reg.CORE_LRW_STATUS c) = s.reg (Reg.CORE_LRW_STATUS c)) :
    t.coreState c = s.coreState c := rd_of_reg h

/-- A value of STATE is stored as it is. -/
theorem coreState_wr_same (s : State) (c : Nat) {v : Nat} (hv : v < 8) : (s.wr (Reg.CORE_LRW_STATUS_STATE c) v).coreState c = v := by
  unfold State.coreState
  exact (rd_wr_same _ _ _ (show 0 + 3 ≤ 32 by decide)).trans (Nat.mod_eq_of_lt hv)

theorem coreState_wr_other (s : State) {f : RegField} (v : Nat) {c : Nat} (h : Reg.CORE_LRW_STATUS c ≠ f.addr) :
    (s.wr f v).coreState c = s.coreState c := coreState_of_reg (reg_wr_other _ _ _ _ h)

/-- LONG_HELD and ACC_FREE stand beside STATE. -/
theorem coreState_wr_beside (s : State) {f : RegField} (v : Nat) {c : Nat} (ha : f.addr = Reg.CORE_LRW_STATUS c) (hlo : 3 ≤ f.lo)
    (hw : f.lo + f.w ≤ 32) : (s.wr f v).coreState c = s.coreState c := by
  unfold State.coreState
  exact rd_wr_field s f _ v ha.symm hw (.inl hlo)

/-- STATE follows a core in service, and no other: IDLE, or RUN while a tile runs (R358). -/
theorem coreState_coreNote (s : State) (c : Nat) :
    (s.coreNote c).coreState c = if s.coreState c < 2 then (if (s.core c).runs.isEmpty then 0 else 1) else s.coreState c := by
  have hheld : ∀ v w, ((s.wr (Reg.CORE_LRW_STATUS_LONG_HELD c) v).wr (Reg.CORE_LRW_STATUS_ACC_FREE c) w).coreState c = s.coreState c :=
    fun v w => (coreState_wr_beside _ w rfl (show 3 ≤ 8 by decide) (show 8 + 6 ≤ 32 by decide)).trans
      (coreState_wr_beside s v rfl (show 3 ≤ 16 by decide) (show 16 + 6 ≤ 32 by decide))
  unfold State.coreNote
  dsimp only
  rw [coreState_wr_other, coreState_wr_other, coreState_wr_other, coreState_wr_other, coreState_wr_other, hheld]
  · split
    · rw [coreState_wr_same]
      split <;> decide
    · exact hheld _ _
  all_goals simp only [Reg.CORE_LRW_STATUS, Reg.CORE_MRV_STATUS, Reg.CORE_SCHED_STATUS, Reg.CORE_SCHED_REMOTE]; omega

theorem coreState_note (s : State) (c : Nat) :
    (s.note c).coreState c = if s.coreState c < 2 then (if (s.core c).runs.isEmpty then 0 else 1) else s.coreState c :=
  (coreState_of_reg (reg_schedNote _ (.inr (by simp only [Reg.CORE_LRW_STATUS]; omega))
    (by simp only [Reg.CORE_LRW_STATUS, Reg.SCHED_STATUS]; omega))).trans (coreState_coreNote s c)

/-- A core out of service keeps its STATE. -/
theorem coreState_note_stopped {s : State} {c : Nat} (h : 2 ≤ s.coreState c) : (s.note c).coreState c = s.coreState c := by
  rw [coreState_note, if_neg (by omega)]

/-! ### Entering LEHR (R348, R552) -/

@[simp] theorem core_requeue (s : State) (l : List TileJob) (c : Nat) : (s.requeue l).core c = s.core c := rfl

theorem core_discardRuns (s : State) (c : Nat) (l : List RunTile) :
    (s.discardRuns c l).core c = { s.core c with runs := (s.core c).runs.filter (fun r => !l.contains r) } := by
  unfold State.discardRuns
  dsimp only
  refine ite_both (P := fun t : State => t.core c = _) ?_ ?_
  · rw [State.core_setCore]
  · rw [State.core_bump, State.core_cnt, State.core_setCore]

theorem reg_discardRuns (s : State) {c a : Nat} (l : List RunTile) (h : a ≠ Reg.CORE_LRW_DISCARDS c) :
    (s.discardRuns c l).reg a = s.reg a := by
  unfold State.discardRuns
  dsimp only
  exact ite_both (P := fun t : State => t.reg a = s.reg a) rfl (reg_wr_other _ _ _ _ h)

/-- What is left of some tiles once those that do not satisfy `p` are discarded. -/
theorem filter_not_contains_filter {α : Type} [DecidableEq α] (l : List α) (p : α → Bool) :
    l.filter (fun x => !(l.filter (fun y => !p y)).contains x) = l.filter p := by
  refine List.filter_congr fun x hx => ?_
  simp [hx]

/-- A core that enters LEHR keeps the tiles that run on, and its context is being saved when it has one. -/
theorem core_enterLehr (s : State) (c why : Nat) (ctx : Option SavedCtx) (wants : Option TileJob) :
    ∃ l, (s.enterLehr c why ctx wants).core c = { s.core c with
      runs := (s.core c).runs.filter (s.runsOn c), placed := [], lehr := why, wants := wants
      saving := ctx.map (fun k => { k with unfinished := l }), tags := if ctx.isSome then (s.core c).tags else [] } := by
  unfold State.enterLehr
  dsimp only
  rw [core_requeue, State.core_wr, State.core_setCore, core_discardRuns, filter_not_contains_filter]
  exact ⟨_, rfl⟩

theorem coreState_enterLehr (s : State) (c why : Nat) (ctx : Option SavedCtx) (wants : Option TileJob) :
    (s.enterLehr c why ctx wants).coreState c = 2 := coreState_wr_same _ c (by decide)

theorem reg_enterLehr (s : State) {c a : Nat} (why : Nat) (ctx : Option SavedCtx) (wants : Option TileJob)
    (hstatus : a ≠ Reg.CORE_LRW_STATUS c) (hdiscards : a ≠ Reg.CORE_LRW_DISCARDS c) : (s.enterLehr c why ctx wants).reg a = s.reg a := by
  unfold State.enterLehr
  dsimp only
  exact (reg_wr_other _ _ _ _ hstatus).trans (reg_discardRuns _ _ hdiscards)

theorem enterLehr_jobs (s : State) (c why : Nat) (ctx : Option SavedCtx) (wants : Option TileJob) :
    (s.enterLehr c why ctx wants).jobs = s.jobs :=
  (State.enterLehr_keeps (L := 8486913) s c why ctx wants rfl (.refl s)).parts.same .jobs rfl

/-! ### The end of a stop (R348, R351, R552) -/

theorem stopEnd_of_runs {s : State} {c : Nat} (h : (s.core c).runs ≠ []) : s.stopEnd c = s := by
  unfold State.stopEnd
  dsimp only
  rw [if_neg]
  simp [h]

theorem stopEnd_of_saving {s : State} {c : Nat} (h : (s.core c).saving.isSome = true) : s.stopEnd c = s := by
  unfold State.stopEnd
  dsimp only
  rw [if_neg]
  simp [Option.isSome_iff_ne_none.mp h]

/-- Only a core in LEHR has a stop to end. -/
theorem stopEnd_of_state {s : State} {c : Nat} (h2 : s.coreState c ≠ 2) (h3 : s.coreState c ≠ 3) : s.stopEnd c = s := by
  unfold State.stopEnd
  dsimp only
  split
  · split
    · contradiction
    · contradiction
    · rfl
  · rfl

/-- A core that was taken out of service by its register ends its stop OFFLINE (R351). -/
theorem stopEnd_offline {s : State} {c : Nat} (hruns : (s.core c).runs = []) (hsaving : (s.core c).saving = none)
    (hstate : s.coreState c = 2) (hlehr : (s.core c).lehr = 1) :
    ∃ x, s.stopEnd c = (s.setCore c x).wr (Reg.CORE_LRW_STATUS_STATE c) 4 ∧ x.runs = [] ∧ x.placed = (s.core c).placed := by
  refine ⟨{ s.core c with lehr := 0, wants := none }, ?_, hruns, rfl⟩
  unfold State.stopEnd
  dsimp only
  rw [if_pos (by rw [hruns, hsaving]; rfl), hstate]
  exact if_pos hlehr

/-- From `x` to `y` at most what is placed, its holds and tags, why the core stops and the tile job it waits for differ. -/
structure SameRuns (x y : Core) : Prop where
  eq : y = { x with placed := y.placed, holds := y.holds, tags := y.tags, lehr := y.lehr, wants := y.wants }

theorem SameRuns.trans {x y z : Core} (h : SameRuns x y) (k : SameRuns y z) : SameRuns x z := ⟨by
  have hz := k.eq
  rw [h.eq] at hz
  exact hz⟩

theorem SameRuns.runs {x y : Core} (h : SameRuns x y) : y.runs = x.runs := by rw [h.eq]
theorem SameRuns.checks {x y : Core} (h : SameRuns x y) : y.checks = x.checks := by rw [h.eq]
theorem SameRuns.saving {x y : Core} (h : SameRuns x y) : y.saving = x.saving := by rw [h.eq]

theorem maxWait_eq (s : State) (t : TileJob) : s.maxWait t = { s with regs := (s.maxWait t).regs } :=
  (State.maxWait_keeps s t rfl (.refl s)).eq_regs

/-- A tile job that is placed joins the core's placed ones. -/
theorem core_placeTile (s : State) (t : TileJob) (c : Nat) : SameRuns (s.core c) ((s.placeTile t c).core c) ∧
    ((s.placeTile t c).core c).placed = (s.core c).placed ++ [t] := by
  have hmax : ∀ u : State, (u.maxWait t).core c = u.core c := fun u => core_of_cores (by rw [maxWait_eq]) c
  unfold State.placeTile
  dsimp only
  rw [State.core_cnt, hmax, State.core_setCore]
  exact ⟨⟨rfl⟩, rfl⟩

/-- A tile job that is placed leaves the ready queue, and the jobs are as before. -/
theorem sched_placeTile (s : State) (t : TileJob) (c : Nat) :
    (s.placeTile t c).sched = { s.sched with ready := s.sched.ready.erase t } ∧ (s.placeTile t c).jobs = s.jobs := by
  unfold State.placeTile
  dsimp only
  rw [State.cnt_sched, State.cnt_jobs, maxWait_eq]
  exact ⟨rfl, rfl⟩

/-- A core that is IDLE after its stop takes at most the tile job that it stopped for. -/
theorem core_backIdle (s : State) (c : Nat) : SameRuns (s.core c) ((s.backIdle c).core c) := by
  have hidle : SameRuns (s.core c)
      (((s.setCore c { s.core c with lehr := 0, wants := none }).wr (Reg.CORE_LRW_STATUS_STATE c) 0).core c) := by
    rw [State.core_wr, State.core_setCore]
    exact ⟨rfl⟩
  unfold State.backIdle
  dsimp only
  split
  · exact hidle
  · exact ite_both (P := fun t : State => SameRuns (s.core c) (t.core c)) (hidle.trans (core_placeTile _ _ c).1) hidle

/-- The end of a stop leaves the tiles that run, the save and the check runs of the core as they are. -/
theorem core_stopEnd (s : State) (c : Nat) : SameRuns (s.core c) ((s.stopEnd c).core c) := by
  have hsame : SameRuns (s.core c) (s.core c) := ⟨rfl⟩
  unfold State.stopEnd
  dsimp only
  split
  · split
    · split
      · rw [State.core_wr, State.core_setCore]
        exact ⟨rfl⟩
      · exact ite_both (P := fun t : State => SameRuns (s.core c) (t.core c)) hsame (core_backIdle s c)
    · exact core_backIdle s c
    · exact hsame
  · exact hsame

end Sys2Proof.Machine
end

section
/-! SUPPORT. The control registers of a core. -/

set_option Elab.async false

namespace Sys2Proof.Machine

/-! ### Out of service by register (R351) -/

theorem exec_ckInject {s : State} {c : Nat} (hreach : reaches s (Reg.CORE_LRW_CTRL c)) :
    exec (.ckInject c) s = .next (s.wr (Reg.CORE_LRW_CTRL_CK_INJECT c) 1) := by
  change execCkInject c s = _
  unfold execCkInject
  rw [bar_of_reaches hreach]

theorem wr_eq (s : State) (f : RegField) (v : Nat) : s.wr f v = { s with regs := (s.wr f v).regs } := rfl

/-- What needs a save does not depend on the registers. -/
theorem needsSave_wr (s : State) (f : RegField) (v c : Nat) : (s.wr f v).needsSave c = s.needsSave c := by
  rw [wr_eq]
  rfl

/-- Whether a tile runs on depends on no register but CORE_LRW_STOP. -/
theorem runsOn_wr (s : State) {f : RegField} (v : Nat) {c : Nat} (h : Reg.CORE_LRW_STOP c ≠ f.addr) (r : RunTile) :
    (s.wr f v).runsOn c r = s.runsOn c r := by
  have hfin := rd_wr_reg s f (Reg.CORE_LRW_STOP_STOP_FIN c) v h
  rw [wr_eq] at hfin ⊢
  unfold State.runsOn
  rw [hfin]
  rfl

theorem drawCtx_of_nothing {s : State} {c : Nat} (h : s.needsSave c = false) : s.drawCtx c = (s, some none) := by
  unfold State.drawCtx
  rw [if_neg (by simp [h])]

theorem stopCore_of_nothing {s : State} {c : Nat} (h : s.needsSave c = false) (why : Nat) :
    s.stopCore c why = ((s.enterLehr c why none none).stopEnd c).note c := by
  unfold State.stopCore
  rw [drawCtx_of_nothing h]

/-- CORE_LRW_CTRL is no register that follows a core. -/
theorem ctrl_not_mem_noteRegs (c : Nat) : Reg.CORE_LRW_CTRL c ∉ noteRegs c := by
  simp only [noteRegs, Reg.CORE_LRW_CTRL, Reg.CORE_LRW_STATUS, Reg.CORE_MRV_STATUS, Reg.CORE_SCHED_STATUS, Reg.CORE_SCHED_REMOTE,
    List.mem_cons, List.not_mem_nil, or_false, not_or]
  omega

theorem reg_ctrl_note (s : State) (c : Nat) : (s.note c).reg (Reg.CORE_LRW_CTRL c) = s.reg (Reg.CORE_LRW_CTRL c) :=
  reg_note s (.inr (by simp only [Reg.CORE_LRW_CTRL]; omega)) (by simp only [Reg.CORE_LRW_CTRL, Reg.SCHED_STATUS]; omega)
    (ctrl_not_mem_noteRegs c)

theorem ctrl_ne_status (c : Nat) : Reg.CORE_LRW_CTRL c ≠ Reg.CORE_LRW_STATUS c := by
  simp only [Reg.CORE_LRW_CTRL, Reg.CORE_LRW_STATUS]; omega

theorem reg_ctrl_enterLehr (s : State) (c why : Nat) (ctx : Option SavedCtx) (wants : Option TileJob) :
    (s.enterLehr c why ctx wants).reg (Reg.CORE_LRW_CTRL c) = s.reg (Reg.CORE_LRW_CTRL c) :=
  reg_enterLehr s why ctx wants (ctrl_ne_status c) (by simp only [Reg.CORE_LRW_CTRL, Reg.CORE_LRW_DISCARDS]; omega)

theorem rd_offline_wr (s : State) (c v : Nat) (h : v < 2) :
    (s.wr (Reg.CORE_LRW_CTRL_OFFLINE c) v).rd (Reg.CORE_LRW_CTRL_OFFLINE c) = v :=
  (rd_wr_same _ _ _ (show 31 + 1 ≤ 32 by decide)).trans (Nat.mod_eq_of_lt h)

theorem coreState_wr_offline (s : State) (c v : Nat) : (s.wr (Reg.CORE_LRW_CTRL_OFFLINE c) v).coreState c = s.coreState c :=
  coreState_wr_other s v (ctrl_ne_status c).symm

/-- A core in service that has no context stops at once. -/
theorem exec_coreOffline_of_nothing {s : State} {c : Nat} (hreach : reaches s (Reg.CORE_LRW_CTRL c)) (hstate : s.coreState c < 2)
    (hsave : s.needsSave c = false) :
    exec (.coreOffline c) s = .next ((((s.wr (Reg.CORE_LRW_CTRL_OFFLINE c) 1).enterLehr c 1 none none).stopEnd c).note c) := by
  change execCoreOffline c s = _
  unfold execCoreOffline
  rw [bar_of_reaches hreach]
  dsimp only
  rw [coreState_wr_offline, stopCore_of_nothing ((needsSave_wr s _ 1 c).trans hsave)]
  obtain hidle | hrun : s.coreState c = 0 ∨ s.coreState c = 1 := by omega
  · rw [hidle]
    rfl
  · rw [hrun]
    rfl

/-- With nothing running the core is OFFLINE, with nothing placed. -/
theorem offline_of_idle {s u v : State} {c : Nat} (hu : u = s.wr (Reg.CORE_LRW_CTRL_OFFLINE c) 1)
    (hv : v = ((u.enterLehr c 1 none none).stopEnd c).note c) (hruns : (s.core c).runs = []) :
    v.coreState c = 4 ∧ v.rd (Reg.CORE_LRW_CTRL_OFFLINE c) = 1 ∧ (v.core c).placed = [] ∧ (v.core c).runs = [] ∧ v.jobs = s.jobs := by
  obtain ⟨l, hcore⟩ := core_enterLehr u c 1 none none
  have hkept : (u.core c).runs.filter (u.runsOn c) = [] := by
    rw [hu, State.core_wr, hruns, List.filter_nil]
  rw [hkept] at hcore
  obtain ⟨x, hend, hxruns, hxplaced⟩ :=
    stopEnd_offline (by rw [hcore]) (by rw [hcore]; rfl) (coreState_enterLehr u c 1 none none) (by rw [hcore])
  rw [hend] at hv
  subst hv
  have hoffline := coreState_wr_same ((u.enterLehr c 1 none none).setCore c x) c (show 4 < 8 by decide)
  refine ⟨(coreState_note_stopped (by rw [hoffline]; decide)).trans hoffline, ?_, ?_, ?_, ?_⟩
  · refine (rd_of_reg ?_).trans (rd_offline_wr s c 1 (by decide))
    rw [← hu]
    exact (reg_ctrl_note _ c).trans ((reg_wr_other _ _ _ _ (ctrl_ne_status c)).trans (reg_ctrl_enterLehr u c 1 none none))
  · rw [core_note, State.core_wr, State.core_setCore, hxplaced, hcore]
  · rw [core_note, State.core_wr, State.core_setCore, hxruns]
  · rw [note_jobs]
    exact (enterLehr_jobs u c 1 none none).trans (by rw [hu, wr_eq])

/-- With tiles that all run on, the core is in LEHR with them. -/
theorem lehr_of_runs {s u v : State} {c : Nat} (hu : u = s.wr (Reg.CORE_LRW_CTRL_OFFLINE c) 1)
    (hv : v = ((u.enterLehr c 1 none none).stopEnd c).note c) (hruns : (s.core c).runs ≠ [])
    (hon : ∀ r ∈ (s.core c).runs, s.runsOn c r = true) :
    v.coreState c = 2 ∧ v.rd (Reg.CORE_LRW_CTRL_OFFLINE c) = 1 ∧ (v.core c).placed = [] ∧
      (v.core c).runs = (s.core c).runs ∧ (v.core c).lehr = 1 := by
  obtain ⟨l, hcore⟩ := core_enterLehr u c 1 none none
  have hsame : ∀ r, u.runsOn c r = s.runsOn c r := by
    rw [hu]
    exact runsOn_wr s 1 (by simp only [Reg.CORE_LRW_CTRL, Reg.CORE_LRW_STOP]; omega)
  have hkept : (u.core c).runs.filter (u.runsOn c) = (s.core c).runs := by
    rw [show (u.core c).runs = (s.core c).runs by rw [hu, State.core_wr]]
    exact List.filter_eq_self.mpr fun r hr => (hsame r).trans (hon r hr)
  rw [hkept] at hcore
  rw [stopEnd_of_runs (by rw [hcore]; exact hruns)] at hv
  subst hv
  have hlehr := coreState_enterLehr u c 1 none none
  refine ⟨(coreState_note_stopped (by rw [hlehr])).trans hlehr, ?_, ?_, ?_, ?_⟩
  · refine (rd_of_reg ?_).trans (rd_offline_wr s c 1 (by decide))
    rw [← hu]
    exact (reg_ctrl_note _ c).trans (reg_ctrl_enterLehr u c 1 none none)
  · rw [core_note, hcore]
  · rw [core_note, hcore]
  · rw [core_note, hcore]

/-! ### In service again (R351) -/

theorem exec_coreOnline_offline {s : State} {c : Nat} (hreach : reaches s (Reg.CORE_LRW_CTRL c)) (hstate : s.coreState c = 4) :
    exec (.coreOnline c) s = .next (((s.wr (Reg.CORE_LRW_CTRL_OFFLINE c) 0).wr (Reg.CORE_LRW_STATUS_STATE c) 0).note c) := by
  change execCoreOnline c s = _
  unfold execCoreOnline
  rw [bar_of_reaches hreach]
  dsimp only
  rw [coreState_wr_offline, hstate]
  rfl

/-- A core that comes back into service is IDLE, or BUSY with what runs on it. -/
theorem idle_of_offline {s u : State} {c : Nat} (hu : u = (s.wr (Reg.CORE_LRW_CTRL_OFFLINE c) 0).wr (Reg.CORE_LRW_STATUS_STATE c) 0) :
    (u.note c).coreState c = (if (s.core c).runs.isEmpty then 0 else 1) ∧ (u.note c).rd (Reg.CORE_LRW_CTRL_OFFLINE c) = 0 ∧
      u.note c = { s with regs := (u.note c).regs } := by
  have hstate : u.coreState c = 0 := by
    rw [hu]
    exact coreState_wr_same _ c (by decide)
  have hoffline : u.reg (Reg.CORE_LRW_CTRL c) = (s.wr (Reg.CORE_LRW_CTRL_OFFLINE c) 0).reg (Reg.CORE_LRW_CTRL c) := by
    rw [hu]
    exact reg_wr_other _ _ _ _ (ctrl_ne_status c)
  refine ⟨?_, ?_, ?_⟩
  · rw [coreState_note, hstate, if_pos (by decide), hu, State.core_wr, State.core_wr]
  · exact (rd_of_reg (f := Reg.CORE_LRW_CTRL_OFFLINE c) ((reg_ctrl_note u c).trans hoffline)).trans (rd_offline_wr s c 0 (by decide))
  · exact (State.note_keeps u c rfl (hu ▸ State.wr_keeps _ _ _ rfl (State.wr_keeps s _ _ rfl (.refl s)))).eq_regs

/-- A core that stops to go OFFLINE waits in LEHR to be IDLE again. -/
theorem exec_coreOnline_lehr {s : State} {c : Nat} (hreach : reaches s (Reg.CORE_LRW_CTRL c)) (hstate : s.coreState c = 2)
    (hoffline : s.rd (Reg.CORE_LRW_CTRL_OFFLINE c) = 1) (hlehr : (s.core c).lehr = 1) :
    exec (.coreOnline c) s = .next ((s.wr (Reg.CORE_LRW_CTRL_OFFLINE c) 0).wr (Reg.CORE_LRW_STATUS_STATE c) 3) := by
  change execCoreOnline c s = _
  unfold execCoreOnline
  rw [bar_of_reaches hreach]
  dsimp only
  rw [coreState_wr_offline, hstate, State.core_wr]
  exact congrArg _ (if_pos ⟨hoffline, hlehr⟩)

/-! ### Probes (R435) -/

/-- The registers of a probe: the value, the three coefficients, GO and DONE. -/
def State.probed (s : State) (c y c0 c1 c2 : Nat) : State :=
  ((((((s.setReg (Reg.CORE_MRV_PROBE_Y c) (BitVec.ofNat 32 y)).setReg (Reg.CORE_MRV_PROBE_C0 c) (BitVec.ofNat 32 c0)).setReg
    (Reg.CORE_MRV_PROBE_C1 c) (BitVec.ofNat 32 c1)).setReg (Reg.CORE_MRV_PROBE_C2 c) (BitVec.ofNat 32 c2)).wr
    (Reg.CORE_MRV_PROBE_CFG_GO c) 0).wr (Reg.CORE_MRV_PROBE_CFG_DONE c) 1)

theorem exec_mrvProbe {s : State} {c slot : Nat} (hreach : reaches s (Reg.CORE_MRV_PROBE_CFG c))
    (hslot : slot = s.rd (Reg.CORE_MRV_PROBE_CFG_SLOT c)) (hlt : slot < 12) :
    exec (.mrvProbe c) s = .next (
      let bank := s.bankOf (s.tbl.gen + s.rd (Reg.CORE_MRV_PROBE_CFG_SHADOW c))
      let q := slotCoef bank slot (s.rd (Reg.CORE_MRV_PROBE_CFG_SEG c))
      s.probed c (evalSlot bank slot (s.reg (Reg.CORE_MRV_PROBE_X c)).toNat) q.1 q.2.1 q.2.2) := by
  change execMrvProbe c s = _
  unfold execMrvProbe
  rw [bar_of_reaches hreach]
  dsimp only
  rw [← hslot, if_pos hlt]
  rfl

theorem probed_regs (s : State) (c y c0 c1 c2 : Nat) :
    (s.probed c y c0 c1 c2).reg (Reg.CORE_MRV_PROBE_Y c) = BitVec.ofNat 32 y ∧
      (s.probed c y c0 c1 c2).reg (Reg.CORE_MRV_PROBE_C0 c) = BitVec.ofNat 32 c0 ∧
      (s.probed c y c0 c1 c2).reg (Reg.CORE_MRV_PROBE_C1 c) = BitVec.ofNat 32 c1 ∧
      (s.probed c y c0 c1 c2).reg (Reg.CORE_MRV_PROBE_C2 c) = BitVec.ofNat 32 c2 := by
  have hcfg : ∀ (a : Nat), a ≠ Reg.CORE_MRV_PROBE_CFG c → ∀ (u : State) v w,
      ((u.wr (Reg.CORE_MRV_PROBE_CFG_GO c) v).wr (Reg.CORE_MRV_PROBE_CFG_DONE c) w).reg a = u.reg a :=
    fun a ha u v w => (reg_wr_other _ _ _ _ ha).trans (reg_wr_other _ _ _ _ ha)
  have hof : ∀ {a b : Nat}, a ≠ b → ∀ (u : State) v, (u.setReg b v).reg a = u.reg a := fun h u v => reg_setReg_other u _ _ v h
  unfold State.probed
  refine ⟨?_, ?_, ?_, ?_⟩
  · rw [hcfg, hof, hof, hof, reg_setReg_same]
    all_goals simp only [Reg.CORE_MRV_PROBE_Y, Reg.CORE_MRV_PROBE_C0, Reg.CORE_MRV_PROBE_C1, Reg.CORE_MRV_PROBE_C2,
      Reg.CORE_MRV_PROBE_CFG]; omega
  · rw [hcfg, hof, hof, reg_setReg_same]
    all_goals simp only [Reg.CORE_MRV_PROBE_C0, Reg.CORE_MRV_PROBE_C1, Reg.CORE_MRV_PROBE_C2, Reg.CORE_MRV_PROBE_CFG]; omega
  · rw [hcfg, hof, reg_setReg_same]
    all_goals simp only [Reg.CORE_MRV_PROBE_C1, Reg.CORE_MRV_PROBE_C2, Reg.CORE_MRV_PROBE_CFG]; omega
  · rw [hcfg, reg_setReg_same]
    simp only [Reg.CORE_MRV_PROBE_C2, Reg.CORE_MRV_PROBE_CFG]; omega

theorem probed_done (s : State) (c y c0 c1 c2 : Nat) : (s.probed c y c0 c1 c2).rd (Reg.CORE_MRV_PROBE_CFG_DONE c) = 1 ∧
    (s.probed c y c0 c1 c2).rd (Reg.CORE_MRV_PROBE_CFG_GO c) = 0 :=
  ⟨rd_wr_same _ _ _ (show 30 + 1 ≤ 32 by decide), (rd_wr_field _ (Reg.CORE_MRV_PROBE_CFG_DONE c) (Reg.CORE_MRV_PROBE_CFG_GO c) 1 rfl
    (show 30 + 1 ≤ 32 by decide) (.inr (show 30 + 1 ≤ 31 by decide))).trans (rd_wr_same _ _ _ (show 31 + 1 ≤ 32 by decide))⟩

end Sys2Proof.Machine
end

section
/-! SUPPORT. The claim on the control registers of a core. -/

set_option Elab.async false

namespace Sys2Proof

open Machine

/-- Settles O26: a stop with nothing to save ends at once or waits for the tiles that run on; STATE 4 and 3 are left alone by the registers
that follow the core, and STATE 0 becomes what runs on it. -/
theorem coreControlsTakeEffect : Obligations.CoreControlsTakeEffect := by
  unfold Obligations.CoreControlsTakeEffect
  refine ⟨?inject, ?offline, ?lehr, ?online, ?pending, ?probe⟩
  case inject =>
    intro s c _ hreach
    exact ⟨_, exec_ckInject hreach, rd_wr_same _ _ _ (show 30 + 1 ≤ 32 by decide), wr_eq _ _ _, fun a ha =>
      reg_wr_other _ _ _ _ (mt List.mem_singleton.mpr ha)⟩
  case offline =>
    intro s c _ hreach hstate hsave hruns _
    exact ⟨_, exec_coreOffline_of_nothing hreach hstate hsave, offline_of_idle rfl rfl hruns⟩
  case lehr =>
    intro s c _ hreach hstate hsave hruns hon
    exact ⟨_, exec_coreOffline_of_nothing hreach hstate hsave, lehr_of_runs rfl rfl hruns hon⟩
  case online =>
    intro s c _ hreach hstate
    exact ⟨_, exec_coreOnline_offline hreach hstate, idle_of_offline rfl⟩
  case pending =>
    intro s c _ hreach hstate hoffline hlehr
    refine ⟨_, exec_coreOnline_lehr hreach hstate hoffline hlehr, coreState_wr_same _ _ (by decide), ?_, rfl, ?_⟩
    · exact (rd_wr_reg _ _ _ _ (ctrl_ne_status c)).trans (rd_offline_wr s c 0 (by decide))
    · intro a ha
      rw [List.mem_cons, List.mem_singleton, not_or] at ha
      exact (reg_wr_other _ _ _ _ ha.2).trans (reg_wr_other _ _ _ _ ha.1)
  case probe =>
    rintro s c slot seg _ hreach hslot rfl hlt
    obtain ⟨hy, h0, h1, h2⟩ := probed_regs s c _ _ _ _
    exact ⟨_, exec_mrvProbe hreach hslot hlt, hy, h0, h1, h2, (probed_done s c _ _ _ _).1, (probed_done s c _ _ _ _).2, rfl⟩

end Sys2Proof
end

section
/-! SUPPORT. Pre-emption, the end of a save and the return of a context. -/

set_option Elab.async false

namespace Sys2Proof.Machine

/-! ### A victim is taken (R550 to R552) -/

theorem runsOn_cnt (s : State) (i sc n c : Nat) (r : RunTile) : (s.cnt i sc n).runsOn c r = s.runsOn c r := by
  unfold State.cnt
  dsimp only
  generalize tset _ s.counters _ _ = counters
  rfl

/-- The victim enters LEHR for the tile job, its class counted. -/
theorem preempt_of_draw {s s1 : State} {svc c : Nat} {tj : TileJob} {k : Option SavedCtx} (hsaving : s.sched.saving = false)
    (htile : s.stuckTile svc = some tj) (hvictim : s.victim svc = some c) (hdraw : s.drawCtx c = (s1, some k)) :
    ∃ d, s.preempt svc =
      (((((s1.cnt 0x0601 d).bump (Reg.SCHED_CLS_PREEMPTS_COUNT d)).enterLehr c 2 k (some tj)).stopEnd c).note c) := by
  refine ⟨(s.core c).cls.getD 0, ?_⟩
  unfold State.preempt
  rw [if_neg (by rw [hsaving]; decide), htile, hvictim]
  dsimp only
  rw [hdraw]

/-- Without a save area the pre-emption is cancelled (R553). -/
theorem preempt_of_no_area {s s1 : State} {svc c : Nat} {tj : TileJob} (hsaving : s.sched.saving = false)
    (htile : s.stuckTile svc = some tj) (hvictim : s.victim svc = some c) (hdraw : s.drawCtx c = (s1, none)) :
    (s.preempt svc).sched = { s1.sched with retry := svc :: s1.sched.retry } ∧ (s.preempt svc).cores = s1.cores := by
  have herr := schedErr_records s1 0x0602 c c
  have hsched : (s1.schedErr 0x0602 c c).sched = s1.sched := by rw [herr.eq]
  have hcores : (s1.schedErr 0x0602 c c).cores = s1.cores := by rw [herr.eq]
  unfold State.preempt
  rw [if_neg (by rw [hsaving]; decide), htile, hvictim]
  dsimp only
  rw [hdraw]
  dsimp only
  rw [State.cnt_sched, State.cnt_cores, hsched, hcores]
  exact ⟨rfl, rfl⟩

theorem preempt_of_no_tile {s : State} {svc : Nat} (h : s.stuckTile svc = none) : s.preempt svc = s := by
  unfold State.preempt
  rw [h]
  exact ite_self s

theorem preempt_of_no_victim {s : State} {svc : Nat} (h : s.victim svc = none) : s.preempt svc = s := by
  unfold State.preempt
  rw [h]
  refine ite_both (P := (· = s)) rfl ?_
  split
  · rfl
  · rfl

/-- A stop that goes on, for a context to save or tiles that run on, leaves the core in LEHR as it entered it. -/
theorem lehr_of_open {s : State} {c why : Nat} {ctx : Option SavedCtx} {wants : Option TileJob} {v : State}
    (hv : v = ((s.enterLehr c why ctx wants).stopEnd c).note c)
    (hopen : ctx.isSome = true ∨ (s.core c).runs.filter (s.runsOn c) ≠ []) :
    v.coreState c = 2 ∧ (v.core c).lehr = why ∧ (v.core c).wants = wants ∧ (v.core c).placed = [] ∧
      (v.core c).saving.isSome = ctx.isSome := by
  obtain ⟨l, hcore⟩ := core_enterLehr s c why ctx wants
  have hend : (s.enterLehr c why ctx wants).stopEnd c = s.enterLehr c why ctx wants := by
    obtain hctx | hruns := hopen
    · exact stopEnd_of_saving (by rw [hcore]; exact Option.isSome_map.trans hctx)
    · exact stopEnd_of_runs (by rw [hcore]; exact hruns)
  rw [hend] at hv
  subst hv
  have hlehr := coreState_enterLehr s c why ctx wants
  rw [core_note, hcore]
  exact ⟨(coreState_note_stopped (by rw [hlehr])).trans hlehr, rfl, rfl, rfl, Option.isSome_map⟩

/-- A victim with a context waits in LEHR for its save. -/
theorem preempt_takes {s s1 : State} {svc c : Nat} {tj : TileJob} {k : SavedCtx} (hsaving : s.sched.saving = false)
    (htile : s.stuckTile svc = some tj) (hvictim : s.victim svc = some c) (hdraw : s.drawCtx c = (s1, some (some k))) :
    (s.preempt svc).coreState c = 2 ∧ ((s.preempt svc).core c).lehr = 2 ∧ ((s.preempt svc).core c).wants = some tj ∧
      ((s.preempt svc).core c).placed = [] ∧ ((s.preempt svc).core c).saving.isSome = true := by
  obtain ⟨d, hpreempt⟩ := preempt_of_draw hsaving htile hvictim hdraw
  exact lehr_of_open hpreempt (.inl rfl)

/-- A victim with nothing to save waits in LEHR for the tiles that run on. -/
theorem preempt_waits {s : State} {svc c : Nat} {tj : TileJob} (hsaving : s.sched.saving = false)
    (htile : s.stuckTile svc = some tj) (hvictim : s.victim svc = some c) (hsave : s.needsSave c = false)
    (hon : ∃ r ∈ (s.core c).runs, s.runsOn c r = true) :
    (s.preempt svc).coreState c = 2 ∧ ((s.preempt svc).core c).lehr = 2 ∧ ((s.preempt svc).core c).wants = some tj ∧
      ((s.preempt svc).core c).placed = [] ∧ ((s.preempt svc).core c).saving.isSome = false := by
  obtain ⟨d, hpreempt⟩ := preempt_of_draw hsaving htile hvictim (drawCtx_of_nothing hsave)
  refine lehr_of_open hpreempt (.inr ?_)
  obtain ⟨r, hr, hruns⟩ := hon
  refine List.ne_nil_of_mem (a := r) (List.mem_filter.mpr ⟨?_, ?_⟩)
  · rw [State.core_bump, State.core_cnt]
    exact hr
  · unfold State.bump
    rw [runsOn_wr _ _ (by simp only [Reg.CORE_LRW_STOP, Reg.SCHED_CLS_PREEMPTS]; omega), runsOn_cnt]
    exact hruns

/-! ### The end of a save (R552, R554) -/

/-- The end of a stop takes at most the tile job that was waited for from the ready queue. -/
theorem saved_stopEnd (s : State) (c : Nat) : (s.stopEnd c).sched.saved = s.sched.saved := by
  have hidle : (s.backIdle c).sched.saved = s.sched.saved := by
    unfold State.backIdle
    dsimp only
    split
    · rfl
    · refine ite_both (P := fun t : State => t.sched.saved = s.sched.saved) ?_ rfl
      rw [(sched_placeTile _ _ c).1]
      rfl
  unfold State.stopEnd
  dsimp only
  split
  · split
    · split
      · rfl
      · exact ite_both (P := fun t : State => t.sched.saved = s.sched.saved) rfl hidle
    · exact hidle
    · rfl
  · rfl

/-- A context with holds is kept until it comes back, and its core is saving none. -/
theorem exec_contextSaveDone_of_holds {s : State} {c cycles : Nat} {k : SavedCtx} (hsaving : (s.core c).saving = some k)
    (hruns : (s.core c).runs = []) (hholds : (s.core c).holds ≠ []) :
    ∃ u : State, exec (.contextSaveDone c cycles) s = .next ((u.stopEnd c).note c) ∧ (u.core c).saving = none ∧
      ∃ k2 ∈ u.sched.saved, k2.area = k.area ∧ k2.job = k.job ∧ k2.svc = k.svc ∧ k2.holds = (s.core c).holds ∧
        k2.tags = (s.core c).tags := by
  have hunseat : ∀ (u : State) (l : List (Nat × Nat × Nat × Nat)), (u.unseat c l).core c = u.core c := fun u l =>
    core_of_cores ((State.unseat_keeps (L := 8192) u c l rfl (.refl u)).parts.same .cores rfl) c
  have hmax : ∀ (u : State) (b : Prop) [Decidable b] (f : RegField) (v : Nat),
      (if b then u.wr f v else u).core c = u.core c ∧ (if b then u.wr f v else u).sched = u.sched := fun u b _ f v =>
    ite_both (P := fun t : State => t.core c = u.core c ∧ t.sched = u.sched) ⟨rfl, rfl⟩ ⟨rfl, rfl⟩
  have hempty : (s.core c).holds.isEmpty = false := List.isEmpty_eq_false_iff.mpr hholds
  change ∃ u : State, execContextSaveDone c cycles s = _ ∧ _
  unfold execContextSaveDone
  dsimp only
  rw [hsaving]
  dsimp only
  rw [hruns, List.isEmpty_nil, if_pos rfl, hempty, Bool.false_and, Bool.false_and, Bool.false_and, if_neg Bool.false_ne_true]
  refine ⟨_, rfl, ?saving, ?kept⟩
  case saving =>
    rw [(hmax _ _ _ _).1, State.core_bump, State.core_cnt]
    exact (congrArg Core.saving (hunseat _ _)).trans (by rw [State.core_setCore])
  case kept =>
    rw [(hmax _ _ _ _).2, State.bump_sched, State.cnt_sched]
    exact ⟨_, List.mem_append_right _ (List.mem_singleton.mpr rfl), rfl, rfl, rfl, rfl, rfl⟩

/-! ### A context comes back (R349, R556) -/

theorem free1_cores (s : State) (p i : Nat) : (s.free1 p i).cores = s.cores :=
  (State.free1_keeps (L := 9043995) s p i rfl (.refl s)).parts.same .cores rfl

theorem free1_sched (s : State) (p i : Nat) : (s.free1 p i).sched = s.sched :=
  (State.free1_keeps (L := 9043995) s p i rfl (.refl s)).parts.same .sched rfl

/-- A core that takes a context gains its holds and its unfinished tile jobs, and the context is kept no longer. -/
theorem restoreCtx_core (s : State) (k : SavedCtx) (c : Nat) :
    ((s.restoreCtx k c).core c).holds = (s.core c).holds ++ k.holds ∧ ((s.restoreCtx k c).core c).placed = (s.core c).placed ++ k.unfinished ∧
      ((s.restoreCtx k c).core c).runs = (s.core c).runs ∧ ((s.restoreCtx k c).core c).cls = some k.svc ∧
      (s.restoreCtx k c).sched.saved = s.sched.saved.erase k := by
  have hseat := fun (u : State) (l : List (Nat × Nat × Nat × Nat)) => State.seat_keeps (L := 8192) u c l rfl (.refl u)
  have hcore : ∀ u l, (State.seat u c l).core c = u.core c := fun u l => core_of_cores ((hseat u l).parts.same .cores rfl) c
  have hsched : ∀ u l, (State.seat u c l).sched = u.sched := fun u l => (hseat u l).parts.same .sched rfl
  have hparked : ∀ (u : State) (b : Prop) [Decidable b] (i sc n : Nat),
      (if b then u else u.cnt i sc n).core c = u.core c ∧ (if b then u else u.cnt i sc n).sched = u.sched := fun u b _ i sc n =>
    ite_both (P := fun t : State => t.core c = u.core c ∧ t.sched = u.sched) ⟨rfl, rfl⟩ ⟨rfl, rfl⟩
  unfold State.restoreCtx
  dsimp only
  rw [State.core_bump, State.core_cnt, (hparked _ _ _ _ _).1, hcore, State.core_setCore, State.bump_sched, State.cnt_sched,
    (hparked _ _ _ _ _).2, hsched, State.setCore_sched, free1_sched]
  exact ⟨rfl, rfl, rfl, rfl, rfl⟩

theorem dropTiles_lowRegs (s : State) (id : Nat) : SameLowRegs s (s.dropTiles id) := by
  unfold State.dropTiles
  refine SameLowRegs.trans ?_ (.foldl (fun s (c : SavedCtx) => free1_lowRegs s 7 c.area) _ _)
  exact .of_regs rfl

theorem rerunJob_lowRegs (s : State) (id : Nat) : SameLowRegs s (s.rerunJob id) := by
  have hcores : ∀ l, SameLowRegs s { s.dropTiles id with cores := l } := fun l => (dropTiles_lowRegs s id).trans (.of_regs rfl)
  have hfree : ∀ (l : List (Nat × Nat × List Nat)) (u : State), SameLowRegs u (l.foldl (fun s q => s.freeAll q.2.1 q.2.2) u) :=
    SameLowRegs.foldl fun s q => freeAll_lowRegs s q.2.1 q.2.2
  unfold State.rerunJob
  split
  next => exact .refl s
  next j _ =>
    exact ((hcores _).trans (hfree (j.plan.getD []) _)).trans (.of_regs rfl)

/-- A context that fails its check leaves an error of the core when its sums do not hold, and of SCHED otherwise. -/
theorem ctxFails_errs (s : State) (k : SavedCtx) {c : Nat} (hc : c < 64) :
    ((s.ctxFails k c true).note c).rd (Reg.CORE_LRW_ERR_VALID c) = 1 ∧ ((s.ctxFails k c false).note c).rd Reg.SCHED_ERR_VALID = 1 := by
  have hrerun : ∀ (l : List Nat) (u : State), SameLowRegs u (l.foldl State.rerunJob u) := fun l u => .foldl rerunJob_lowRegs l u
  have hnote : ∀ (u : State), (u.note c).reg (Reg.CORE_LRW_ERR c) = u.reg (Reg.CORE_LRW_ERR c) := fun u =>
    reg_note u (.inr (by simp only [Reg.CORE_LRW_ERR]; omega)) (by simp only [Reg.CORE_LRW_ERR, Reg.SCHED_STATUS]; omega)
      (by simp only [noteRegs, Reg.CORE_LRW_ERR, Reg.CORE_LRW_STATUS, Reg.CORE_MRV_STATUS, Reg.CORE_SCHED_STATUS, Reg.CORE_SCHED_REMOTE,
            List.mem_cons, List.not_mem_nil, or_false, not_or]; omega)
  have hsched : ∀ (u : State), (u.note c).reg Reg.SCHED_ERR = u.reg Reg.SCHED_ERR := fun u =>
    reg_note u (.inl (by decide)) (by decide)
      (by simp only [noteRegs, Reg.SCHED_ERR, Reg.CORE_LRW_STATUS, Reg.CORE_MRV_STATUS, Reg.CORE_SCHED_STATUS, Reg.CORE_SCHED_REMOTE,
            List.mem_cons, List.not_mem_nil, or_false, not_or]; omega)
  constructor
  · refine (rd_of_reg (f := Reg.CORE_LRW_ERR_VALID c) ((hnote _).trans ((hrerun _ _).reg _ ?_ ?_))).trans ?_
    · simp only [Reg.CORE_LRW_ERR]; omega
    · simp only [Reg.CORE_LRW_ERR, Reg.HIF_SVC_LOST]; omega
    · refine (rd_file _ _ _ _ _ _ (Reg.CORE_LRW_ERR_VALID c) ?_ ?_).trans (rd_setErr_valid _ _ _ _ _ (by decide) (.inr rfl))
      · simp only [Reg.CORE_LRW_ERR]; omega
      · simp only [Reg.CORE_LRW_ERR]; omega
  · exact (rd_of_reg (f := Reg.SCHED_ERR_VALID) ((hsched _).trans ((hrerun _ _).reg _ (by decide) (by decide)))).trans
      ((rd_file _ _ _ _ _ _ Reg.SCHED_ERR_VALID (by decide) (by decide)).trans (rd_setErr_valid _ _ _ _ _ (show 16 + 7 ≤ 30 by decide)
        (.inl (show 16 ≤ 16 by decide))))

/-- The class whose turn it is has its next context read back by a core that the context fits. -/
theorem exec_contextRestore {s : State} {c svc block row lane : Nat} {flip : BitVec 32} {bad : Bool} {k : SavedCtx}
    (hsaving : s.sched.saving = false) (hturn : s.classNext = some svc) (hnext : s.nextCtx svc = some k) (hfits : s.ctxFits k c = true) :
    exec (.contextRestore c block row lane flip bad) s =
      .next ((if k.sumsHold block row lane flip.toNat && !bad then s.restoreCtx k c
        else s.ctxFails k c (!k.sumsHold block row lane flip.toNat)).note c) := by
  change execContextRestore c block row lane flip bad s = _
  unfold execContextRestore
  rw [if_neg (by rw [hsaving]; decide), hturn]
  dsimp only
  rw [hnext]
  dsimp only
  rw [if_pos hfits]

end Sys2Proof.Machine
end

section
/-! SUPPORT. The claim on pre-emption and contexts. -/

set_option Elab.async false

namespace Sys2Proof

open Machine

/-- Settles O27: a core that enters LEHR with a context to save or tiles that run on stays there as it entered it; the end of a stop keeps
what is saved; the jobs that run again after a failed restore leave the error registers alone. -/
theorem coresAreTakenSavedAndGivenBack : Obligations.CoresAreTakenSavedAndGivenBack := by
  unfold Obligations.CoresAreTakenSavedAndGivenBack
  have hdecides : ∀ {s : State} {svc : Nat}, svc ∉ s.sched.retry → exec (.preemptionDecision svc) s = .next (s.preempt svc) :=
    fun h => if_neg (by simpa using h)
  refine ⟨?taken, ?waits, ?nothing, ?noArea, ?retry, ?saved, ?restored, ?failed⟩
  case taken =>
    intro s s1 svc c tj k hretry hsaving htile hvictim hdraw
    exact ⟨_, hdecides hretry, preempt_takes hsaving htile hvictim hdraw⟩
  case waits =>
    intro s svc c tj hretry hsaving htile hvictim hsave hon
    obtain ⟨hstate, hlehr, hwants, hplaced, hnone⟩ := preempt_waits hsaving htile hvictim hsave hon
    exact ⟨_, hdecides hretry, hstate, hlehr, hwants, hplaced, Option.isSome_eq_false_iff.mp hnone |> Option.isNone_iff_eq_none.mp⟩
  case nothing =>
    intro s svc h
    by_cases hretry : svc ∈ s.sched.retry
    · exact ⟨s, if_pos (by simpa using hretry), rfl⟩
    · refine ⟨_, hdecides hretry, ?_⟩
      obtain hretry' | htile | hvictim := h
      · exact absurd hretry' hretry
      · exact preempt_of_no_tile htile
      · exact preempt_of_no_victim hvictim
  case noArea =>
    intro s s1 svc c tj hretry hsaving htile hvictim hdraw
    exact ⟨_, hdecides hretry, preempt_of_no_area hsaving htile hvictim hdraw⟩
  case retry =>
    rintro s u svc hretry rfl
    refine ⟨_, if_pos (by simpa using hretry), preempt_of_no_tile, ?_⟩
    intro tj c s1 k hsaving htile hvictim hdraw
    exact preempt_takes hsaving htile hvictim hdraw
  case saved =>
    intro s c cycles k hsaving hruns hholds
    obtain ⟨u, hexec, hnone, hkept⟩ := exec_contextSaveDone_of_holds (cycles := cycles) hsaving hruns hholds
    refine ⟨_, hexec, ?_, ?_⟩
    · rw [core_note, (core_stopEnd u c).saving, hnone]
    · rw [note_sched, saved_stopEnd]
      exact hkept
  case restored =>
    intro s c svc block row lane flip k hsaving hturn hnext hfits hsums
    refine ⟨_, exec_contextRestore hsaving hturn hnext hfits, ?_⟩
    dsimp only
    rw [hsums, core_note, note_sched]
    exact restoreCtx_core s k c
  case failed =>
    intro s c svc block row lane flip bad k hc hsaving hturn hnext hfits hfails
    refine ⟨_, exec_contextRestore hsaving hturn hnext hfits, ?_⟩
    obtain ⟨hcore, hsched⟩ := ctxFails_errs s k hc
    cases hsums : k.sumsHold block row lane flip.toNat with
    | false => exact hcore
    | true =>
      obtain rfl | hfalse := hfails
      · exact hsched
      · exact absurd (hsums.symm.trans hfalse) (by decide)

end Sys2Proof
end

section
/-! SUPPORT. What a node keeps while its tiles commit, and how it finishes. -/

set_option Elab.async false

namespace Sys2Proof.Machine

/-! ### The other nodes of a job -/

/-- From `j` to `k` the route is the same, and of the nodes but `n` which are committed. -/
structure SameBeside (n : Nat) (j k : Job) : Prop where
  prog : k.prog = j.prog
  route : k.route = j.route
  committed : ∀ m, m ≠ n → (k.node m).committed = (j.node m).committed

theorem SameBeside.trans {n : Nat} {j k l : Job} (h : SameBeside n j k) (g : SameBeside n k l) : SameBeside n j l :=
  ⟨g.prog.trans h.prog, g.route.trans h.route, fun m hm => (g.committed m hm).trans (h.committed m hm)⟩

theorem SameBeside.setNode (j : Job) (n : Nat) (x : NodeSt) : SameBeside n j (j.setNode n x) :=
  ⟨rfl, rfl, fun m hm => by rw [node_setNode_other _ _ _ _ hm]⟩

theorem SameWork.beside {j k : Job} (h : SameWork j k) (n : Nat) : SameBeside n j k :=
  ⟨by rw [h.eq], by rw [h.eq], fun m _ => by rw [h.node m]⟩

theorem openBeside_of_beside {s t : State} {n : Nat} {j k : Job} (hopen : openBeside s j n) (hprogs : t.progs = s.progs)
    (h : SameBeside n j k) : openBeside t k n := by
  obtain ⟨m, hm, hne, hno⟩ := hopen
  refine ⟨m, ?_, hne, (h.committed m hne).trans hno⟩
  unfold State.prog
  rw [h.prog, h.route, hprogs]
  exact hm

theorem jobWord_of_beside {s t : State} {n : Nat} {j k : Job} (hprogs : t.progs = s.progs) (h : SameBeside n j k) (m : Nat) :
    t.jobWord k m = s.jobWord j m := by
  unfold State.jobWord State.prog
  rw [h.prog, h.route, hprogs]

theorem coreWord_of_progs {s t : State} (h : t.progs = s.progs) (j : Job) (n : Nat) : t.coreWord j n = s.coreWord j n := by
  unfold State.coreWord State.jobWord State.prog
  rw [h]

/-- The word of a node but KNN is the one it runs by. -/
theorem coreWord_of_jobWord {s : State} {j : Job} {n v : Nat} (h : s.jobWord j n = some v) (hknn : wOpc v ≠ 0x55) :
    s.coreWord j n = some v := by
  unfold State.coreWord
  rw [h, Option.map_some, if_neg hknn]

/-! ### A node finishes (R346, R401) -/

/-- From `x` to `y` the node is committed when its work was done, and its result may be formed. -/
structure Finishes (g : Grid) (x y : NodeSt) : Prop where
  eq : y = { x with ran := y.ran, committed := x.finished g, out := y.out, on := y.on, station := y.station, unready := y.unready }

theorem Finishes.committed {g : Grid} {x y : NodeSt} (h : Finishes g x y) : y.committed = y.finished g := by
  rw [h.eq]
  rfl

theorem finishNode_node {s : State} {id n v : Nat} {j : Job} {g : Grid} (hjob : s.job? id = some j) (hword : s.jobWord j n = some v)
    (hknn : wOpc v ≠ 0x55) (hgrid : (j.node n).grid = some g) (hcommitted : (j.node n).committed = false) (hopen : openBeside s j n) :
    ∃ k, (s.finishNode id n).job? id = some k ∧ Finishes g (j.node n) (k.node n) := by
  unfold State.finishNode
  rw [hjob]
  dsimp only
  rw [hgrid, coreWord_of_jobWord hword hknn]
  dsimp only
  rw [hword]
  dsimp only
  split
  next hdone =>
    obtain ⟨-, k, on, hk, hresult⟩ := commitNode_open (s.calcNode j n v).out hjob hopen
    obtain ⟨l, hl, hwork⟩ := wake_work _ id k hk
    refine ⟨l, hl, ⟨?_⟩⟩
    rw [hwork.node n, hresult.node n, node_setNode_same, hdone.1]
  next hopen' =>
    refine ⟨j, hjob, ⟨?_⟩⟩
    have hno : (j.node n).finished g = false :=
      Bool.eq_false_iff.mpr fun h => hopen' ⟨h, hcommitted, beq_eq_false_iff_ne.mpr hknn⟩
    rw [hno, ← hcommitted]

/-- A node whose state is replaced and whose tile jobs may be woken, then finishes. -/
theorem finishNode_of_keepsWork {s t : State} {id n v : Nat} {j : Job} {g : Grid} {x : NodeSt} (hword : s.jobWord j n = some v)
    (hknn : wOpc v ≠ 0x55) (hopen : openBeside s j n) (hprogs : t.progs = s.progs)
    (hjob : ∃ k, t.job? id = some k ∧ SameBeside n j k ∧ k.node n = { x with unready := (k.node n).unready })
    (hgrid : x.grid = some g) (hcommitted : x.committed = false) :
    ∃ k, (t.finishNode id n).job? id = some k ∧ Finishes g x (k.node n) := by
  obtain ⟨k, hk, hbeside, hnode⟩ := hjob
  obtain ⟨l, hl, hfinishes⟩ := finishNode_node hk ((jobWord_of_beside hprogs hbeside n).trans hword) hknn (by rw [hnode]; exact hgrid)
    (by rw [hnode]; exact hcommitted) (openBeside_of_beside hopen hprogs hbeside)
  refine ⟨l, hl, ⟨?_⟩⟩
  rw [hfinishes.eq, hnode]
  rfl

/-! ### Upsets that no comparison caught (R342, R345) -/

/-- From `j` to `k` at most the upsets that stand in the nodes' outputs differ. -/
structure SameButHits (j k : Job) : Prop where
  eq : k = { j with nodes := k.nodes }
  node : ∀ n, k.node n = { j.node n with hits := (k.node n).hits }

theorem SameButHits.trans {j k l : Job} (h : SameButHits j k) (g : SameButHits k l) : SameButHits j l :=
  ⟨by rw [g.eq, h.eq], fun n => by rw [g.node n, h.node n]⟩

theorem SameButHits.beside {j k : Job} (h : SameButHits j k) (n : Nat) : SameBeside n j k :=
  ⟨by rw [h.eq], by rw [h.eq], fun m _ => by rw [h.node m]⟩

theorem SameButHits.setNode (j : Job) (n : Nat) (l : List (Nat × Option Nat × Nat)) :
    SameButHits j (j.setNode n { j.node n with hits := l }) := by
  refine ⟨rfl, fun m => ?_⟩
  by_cases hm : m = n
  · subst hm
    rw [node_setNode_same]
  · rw [node_setNode_other _ _ _ _ hm]

theorem noteHits_job (s : State) (r : RunTile) (w d : Nat) (g : Grid) {j : Job} (h : s.job? r.tj.job = some j) :
    ∃ k, (s.noteHits r w d g).job? r.tj.job = some k ∧ SameButHits j k := by
  have hupd : ∀ (l : List (Nat × Option Nat × Nat)) (u : State),
      u.jobs = (s.updNode r.tj.job r.tj.node (fun x => { x with hits := x.hits ++ l })).jobs →
      ∃ k, u.job? r.tj.job = some k ∧ SameButHits j k := fun l u hu =>
    ⟨_, (job_of hu _).trans ((job_updNode _ _ _ _).trans (congrArg _ h)), .setNode _ _ _⟩
  unfold State.noteHits
  dsimp only
  exact ite_both (P := fun t : State => ∃ k, t.job? r.tj.job = some k ∧ SameButHits j k) ⟨j, h, rfl, fun _ => rfl⟩ (hupd _ _ rfl)

end Sys2Proof.Machine
end

section
/-! SUPPORT. Placement, issue, staging and commit of tile jobs. -/

set_option Elab.async false

namespace Sys2Proof.Machine

/-! ### Issue (R538) -/

/-- The tile job with the older ticket: the one found so far, or the next one. -/
def State.olderOf (s : State) (a : Option TileJob) (t : TileJob) : Option TileJob :=
  match a with
  | none => some t
  | some u => if olderTicket s.ticketNow t.ticket u.ticket then some t else some u

/-- The ticket of `tj` is older than that of `u`, and not the other way round. -/
def State.outranks (s : State) (tj u : TileJob) : Prop :=
  olderTicket s.ticketNow tj.ticket u.ticket = true ∧ olderTicket s.ticketNow u.ticket tj.ticket = false

theorem olderOf_eq (s : State) {tj x : TileJob} {a : Option TileJob} (ha : ∀ u, a = some u → u ≠ tj → s.outranks tj u)
    (hx : x ≠ tj → s.outranks tj x) : (a = some tj ∨ x = tj → s.olderOf a x = some tj) ∧
      ∀ u, s.olderOf a x = some u → u ≠ tj → s.outranks tj u := by
  cases a with
  | none =>
    refine ⟨fun h => ?_, fun u hu hne => ?_⟩
    · obtain h | rfl := h
      · cases h
      · rfl
    · cases hu
      exact hx hne
  | some y =>
    have hy := ha y rfl
    unfold State.olderOf
    dsimp only
    by_cases hxt : x = tj
    · subst hxt
      by_cases hyt : y = x
      · subst hyt
        simp
      · rw [if_pos (hy hyt).1]
        exact ⟨fun _ => rfl, fun u hu hne => absurd (Option.some.inj hu).symm hne⟩
    · by_cases hyt : y = tj
      · subst hyt
        rw [if_neg (by rw [(hx hxt).2]; decide)]
        exact ⟨fun _ => rfl, fun u hu hne => absurd (Option.some.inj hu).symm hne⟩
      · refine ⟨fun h => ?_, fun u hu _ => ?_⟩
        · obtain h | h := h
          · exact absurd (Option.some.inj h) hyt
          · exact absurd h hxt
        · split at hu
          · exact Option.some.inj hu ▸ hx hxt
          · exact Option.some.inj hu ▸ hy hyt

/-- The one that outranks all others is found. -/
theorem foldl_olderOf (s : State) {tj : TileJob} (l : List TileJob) (a : Option TileJob) (hmem : a = some tj ∨ tj ∈ l)
    (ha : ∀ u, a = some u → u ≠ tj → s.outranks tj u) (hl : ∀ u ∈ l, u ≠ tj → s.outranks tj u) : l.foldl s.olderOf a = some tj := by
  induction l generalizing a with
  | nil => exact hmem.resolve_right List.not_mem_nil
  | cons x l ih =>
    obtain ⟨hfound, hkept⟩ := olderOf_eq s ha (hl x List.mem_cons_self)
    refine ih _ ?_ hkept fun u hu => hl u (List.mem_cons_of_mem x hu)
    obtain h | h := hmem
    · exact .inl (hfound (.inl h))
    · obtain rfl | h := List.mem_cons.mp h
      · exact .inl (hfound (.inr rfl))
      · exact .inr h

/-- A tile job as it starts on a core: a chain resumes behind its last committed step (R458). -/
def State.runOf (s : State) (core : Nat) (t : TileJob) (j : Job) (blocks chunks : Nat) : RunTile :=
  let past := match (j.node t.node).steps.find? (fun q => q.1 == t.group) with | some q => q.2 | none => 0
  { tj := t, blocks := blocks, chunks := chunks, slot := if t.scale then some (s.core core).freeSlot else none
    inject := !t.marver && decide (s.rd (Reg.CORE_LRW_CTRL_CK_INJECT core) = 1), staged := List.range (min chunks past) }

/-- The core once a placed tile job runs on it as `r`. -/
def State.starts (s : State) (core : Nat) (r : RunTile) (split : Bool) : State :=
  let x := s.core core
  let s1 := s.setCore core { x with placed := x.placed.erase r.tj, runs := x.runs ++ [r], cls := some r.tj.svc
                                    tags := x.tags.filter (fun q => q.tj != r.tj) }
  let s2 := if r.inject then s1.wr (Reg.CORE_LRW_CTRL_CK_INJECT core) 0 else s1
  if split then ((s2.wr (Reg.CORE_LRW_STICKY_ACC_SPLIT core) 1).cnt 0x0801 core).bump (Reg.CORE_LRW_SPLITS_COUNT core) else s2

theorem starts_spec (s : State) (core : Nat) (r : RunTile) (split : Bool) :
    ((s.starts core r split).core core).runs = (s.core core).runs ++ [r] ∧
      ((s.starts core r split).core core).placed = (s.core core).placed.erase r.tj ∧
      ((s.starts core r split).core core).cls = some r.tj.svc ∧ (s.starts core r split).sched = s.sched ∧
      (s.starts core r split).jobs = s.jobs ∧ (s.starts core r split).tbl = s.tbl := by
  have hkeeps : Keeps 8388609 (s.setCore core { s.core core with
      placed := (s.core core).placed.erase r.tj, runs := (s.core core).runs ++ [r], cls := some r.tj.svc
      tags := (s.core core).tags.filter (fun q => q.tj != r.tj) }) (s.starts core r split) := by
    have hinject : ∀ (t : State) (f : RegField), Keeps 8388609 t (if r.inject = true then t.wr f 0 else t) := fun t f =>
      Keeps.ite (fun _ => State.wr_keeps t f 0 rfl (.refl t)) fun _ => .refl t
    unfold State.starts
    dsimp only
    exact Keeps.ite (fun _ => State.bump_keeps _ _ _ rfl (State.cnt_keeps _ _ _ _ rfl (State.wr_keeps _ _ _ rfl (hinject _ _))))
      fun _ => hinject _ _
  have hcore := core_of_cores (hkeeps.parts.same .cores rfl) core
  rw [State.core_setCore] at hcore
  rw [hcore]
  exact ⟨rfl, rfl, rfl, hkeeps.parts.same .sched rfl, hkeeps.parts.same .jobs rfl, hkeeps.parts.same .tbl rfl⟩

/-- The placed tile job that outranks the others that have all they need is issued, and its node is bound to a generation (R423). -/
theorem exec_tileIssue {s : State} {core b ch : Nat} {split : Bool} {tj : TileJob} {j : Job} (hstate : s.coreState core < 2)
    (hmem : tj ∈ (s.core core).placed) (hneeds : s.issueNeeds core tj = some (b, split, ch)) (hjob : s.job? tj.job = some j)
    (holdest : ∀ u ∈ (s.core core).placed, (s.issueNeeds core u).isSome = true → u ≠ tj → s.outranks tj u) :
    ∃ r u, exec (.tileIssue core) s = .next u ∧ r.tj = tj ∧ r.blocks = b ∧ r.chunks = ch ∧ r.drained = [] ∧
      Keeps 1 ((s.starts core r split).updNode tj.job tj.node (fun n =>
        { n with gen := some (n.gen.getD (s.starts core r split).tbl.gen) })) u := by
  have hfound : ((s.core core).placed.filter (fun t => (s.issueNeeds core t).isSome)).foldl s.olderOf none = some tj := by
    refine foldl_olderOf s _ none (.inr (List.mem_filter.mpr ⟨hmem, by rw [hneeds]; rfl⟩)) (fun u hu => nomatch hu) fun u hu => ?_
    exact holdest u (List.mem_filter.mp hu).1 (List.mem_filter.mp hu).2
  change ∃ r u, execTileIssue core s = _ ∧ _
  unfold execTileIssue
  dsimp only
  rw [if_pos hstate]
  split
  next hnone => exact nomatch hnone.symm.trans hfound
  next t hsome =>
    obtain rfl : t = tj := Option.some.inj (hsome.symm.trans hfound)
    rw [hneeds, hjob]
    dsimp only
    refine ⟨s.runOf core t j b ch, _, rfl, rfl, rfl, rfl, rfl,
      State.note_keeps _ core rfl ?_⟩
    split
    · exact State.loadScales_keeps _ _ _ _ _ _ _ rfl (.refl _)
    · exact .refl _

/-! ### Staging (R327) -/

/-- The first element that satisfies `p` is changed. -/
theorem updFirst_append_cons {α : Type} {p : α → Bool} (f : α → α) {x : α} {l : List α} (m : List α) (hl : ∀ y ∈ l, p y = false)
    (hx : p x = true) : updFirst p f (l ++ x :: m) = l ++ f x :: m := by
  induction l with
  | nil =>
    rw [List.nil_append]
    unfold updFirst
    rw [if_pos hx]
    rfl
  | cons y l ih =>
    rw [List.cons_append]
    unfold updFirst
    rw [hl y List.mem_cons_self, ih fun z hz => hl z (List.mem_cons_of_mem y hz)]
    rfl

/-! ### Commit (R346) -/

/-- The node's record gains a tile whose last pass, or an earlier one, has committed; its grid stands and it is not committed yet. -/
structure Passed (n : Nat) (q : Nat × Nat) (g : Grid) (j k : Job) : Prop where
  beside : SameBeside n j k
  passed : (k.node n).passed = (j.node n).passed ++ [q]
  grid : (k.node n).grid = some g
  committed : (k.node n).committed = (j.node n).committed

/-- Releasing a hold leaves what runs on the core. -/
theorem dropHold_runs (s : State) (c : Nat) (t : TileJob) (x : NodeSt) (g : Grid) :
    ((s.dropHold c t x g).core c).runs = (s.core c).runs := by
  have hset : ∀ l, ((s.setCore c { s.core c with holds := l }).core c).runs = (s.core c).runs := fun l => by rw [State.core_setCore]
  unfold State.dropHold
  dsimp only
  exact ite_both (P := fun u : State => (u.core c).runs = (s.core c).runs)
    (ite_both (P := fun u : State => (u.core c).runs = (s.core c).runs) ((congrArg Core.runs (State.core_cnt _ _ _ _ c)).trans (hset _))
      (hset _)) rfl

/-- A tile that commits leaves its core, its node's record gains it, and the node finishes. -/
theorem commitTile_eq {s : State} (c : Nat) {r : RunTile} {j : Job} {w : Nat} {g : Grid} (hjob : s.job? r.tj.job = some j)
    (hword : s.coreWord j r.tj.node = some w) (hgrid : (j.node r.tj.node).grid = some g) :
    ∃ u : State, s.commitTile c r = ((u.wake r.tj.job).finishNode r.tj.job r.tj.node).releaseRead r.tj.job ∧ u.progs = s.progs ∧
      (u.core c).runs = (s.core c).runs.erase r ∧
      ∃ k, u.job? r.tj.job = some k ∧ Passed r.tj.node (r.tj.pass, r.tj.tile) g j k := by
  generalize hv : s.commitTile c r = v
  unfold State.commitTile at hv
  extract_lets x t s1 s2 all at hv
  have hs2 : Keeps 8388609 s1 s2 :=
    Keeps.ite (fun _ => .refl s1) fun _ => State.bump_keeps _ _ _ rfl (State.cnt_keeps _ _ _ _ rfl (.refl s1))
  have hjob2 : s2.job? t.job = some j := (job_of (hs2.parts.same .jobs rfl) _).trans hjob
  have hword2 : s2.coreWord j t.node = some w := (coreWord_of_progs (hs2.parts.same .progs rfl) j _).trans hword
  rw [hjob2] at hv
  dsimp -zeta only at hv
  rw [hword2, hgrid] at hv
  dsimp -zeta only at hv
  extract_lets d cal n resc s3 s4 s5 fin s6 at hv
  have hs3 : Keeps 8388609 s1 s3 :=
    State.cycleCount_keeps _ _ _ _ _ _ _ rfl (State.mrvCount_keeps _ _ _ rfl (State.numCount_keeps _ _ _ rfl hs2))
  have hs4 : Keeps 8388609 s1 s4 := Keeps.ite (fun _ => State.cnt_keeps _ _ _ _ rfl hs3) fun _ => hs3
  have hjob4 : s4.job? t.job = some j := (job_of (hs4.parts.same .jobs rfl) _).trans hjob
  obtain ⟨j1, hj1, hhits⟩ := noteHits_job s4 { r with upsets := r.upsets ++ all } w d g hjob4
  have hj6 : s6.job? t.job = some (j1.setNode t.node _) := (job_updNode s5 t.job t.node _).trans (congrArg _ hj1)
  rw [hj6] at hv
  dsimp -zeta only at hv
  extract_lets s7 s8 at hv
  have hs6 : Keeps 16785408 s4 s6 := State.updNode_keeps _ _ _ _ rfl (State.noteHits_keeps _ _ _ _ _ rfl (.refl s4))
  have hs7 : Keeps 8421376 s6 s7 := State.dropHold_keeps _ _ _ _ _ rfl (.refl s6)
  have hs8 : Keeps 8388608 s7 s8 := Keeps.ite (fun _ => State.cnt_keeps _ _ _ _ rfl (.refl s7)) fun _ => .refl s7
  have hjob8 := (job_of ((hs8.parts.same .jobs rfl).trans (hs7.parts.same .jobs rfl)) t.job).trans hj6
  refine ⟨s8, hv.symm, ?progs, ?runs, _, hjob8, ?passed⟩
  case progs =>
    calc s8.progs = s7.progs := hs8.parts.same .progs rfl
      _ = s6.progs := hs7.parts.same .progs rfl
      _ = s4.progs := hs6.parts.same .progs rfl
      _ = s.progs := hs4.parts.same .progs rfl
  case runs =>
    calc (s8.core c).runs = (s7.core c).runs := congrArg Core.runs (core_of_cores (hs8.parts.same .cores rfl) c)
      _ = (s6.core c).runs := dropHold_runs _ _ _ _ _
      _ = (s4.core c).runs := congrArg Core.runs (core_of_cores (hs6.parts.same .cores rfl) c)
      _ = (s1.core c).runs := congrArg Core.runs (core_of_cores (hs4.parts.same .cores rfl) c)
      _ = (s.core c).runs.erase r := congrArg Core.runs (State.core_setCore s c _)
  case passed =>
    have hnode := hhits.node t.node
    refine ⟨(hhits.beside _).trans (.setNode _ _ _), ?_, ?_, ?_⟩
    · rw [node_setNode_same, hnode]
    · rw [node_setNode_same]
      exact (by rw [hnode]; exact hgrid : (j1.node t.node).grid = some g)
    · rw [node_setNode_same]
      exact (by rw [hnode] : (j1.node t.node).committed = (j.node t.node).committed)

/-- The first tile that is done leaves its core, and its node finishes with the tile in its record. -/
theorem exec_tileCommit {s : State} {core v w : Nat} {r : RunTile} {j : Job} {g : Grid} (hdone : (s.core core).runs.find? s.tileDone = some r)
    (hjob : s.job? r.tj.job = some j) (hcore : s.coreWord j r.tj.node = some w) (hword : s.jobWord j r.tj.node = some v)
    (hknn : wOpc v ≠ 0x55) (hgrid : (j.node r.tj.node).grid = some g) (hcommitted : (j.node r.tj.node).committed = false)
    (hopen : openBeside s j r.tj.node) :
    ∃ t, exec (.tileCommit core) s = .next t ∧ (t.core core).runs = (s.core core).runs.erase r ∧
      ∃ k x, t.job? r.tj.job = some k ∧ x.passed = (j.node r.tj.node).passed ++ [(r.tj.pass, r.tj.tile)] ∧ x.grid = some g ∧
        Finishes g x (k.node r.tj.node) := by
  obtain ⟨u, hcommit, hprogs, hruns, k, hk, hpassed⟩ := commitTile_eq core hjob hcore hgrid
  have hwake := State.wake_keeps (L := 73729) u r.tj.job rfl (.refl u)
  obtain ⟨l, hl, hwork⟩ := wake_work u r.tj.job k hk
  obtain ⟨m, hm, hfinishes⟩ := finishNode_of_keepsWork hword hknn hopen ((hwake.parts.same .progs rfl).trans hprogs)
    ⟨l, hl, hpassed.beside.trans (hwork.beside _), hwork.node _⟩ hpassed.grid (hpassed.committed.trans hcommitted)
  have hfinish := State.finishNode_keeps (L := 43983583) (u.wake r.tj.job) r.tj.job r.tj.node rfl (.refl _)
  have hrelease := State.releaseRead_keeps (L := 43647003) ((u.wake r.tj.job).finishNode r.tj.job r.tj.node) r.tj.job rfl (.refl _)
  have hend := State.stopEnd_keeps (L := 8486913) (s.commitTile core r) core rfl (.refl _)
  rw [← hcommit] at hrelease
  refine ⟨((s.commitTile core r).stopEnd core).note core, ?exec, ?runs, m, k.node r.tj.node, ?job, hpassed.passed, hpassed.grid, hfinishes⟩
  case exec =>
    change execTileCommit core s = _
    unfold execTileCommit
    rw [hdone]
  case runs =>
    calc ((((s.commitTile core r).stopEnd core).note core).core core).runs
        = (((s.commitTile core r).stopEnd core).core core).runs := by rw [core_note]
      _ = ((s.commitTile core r).core core).runs := (core_stopEnd _ core).runs
      _ = (u.core core).runs := congrArg Core.runs (core_of_cores
          ((hrelease.parts.same .cores rfl).trans ((hfinish.parts.same .cores rfl).trans (hwake.parts.same .cores rfl))) core)
      _ = (s.core core).runs.erase r := hruns
  case job =>
    rw [job_note]
    exact (job_of ((hend.parts.same .jobs rfl).trans (hrelease.parts.same .jobs rfl)) _).trans hm

end Sys2Proof.Machine
end

section
/-! SUPPORT. The claim on placement, issue, staging and commit. -/

set_option Elab.async false

namespace Sys2Proof

open Machine

/-- Settles O24: the tile job that outranks the others is what the search over the placed ones finds; a tile that commits is in its node's
record before the node's work is looked at, and waking, releasing and the end of a stop leave that record alone. -/
theorem tilesArePlacedIssuedStagedAndCommitted : Obligations.TilesArePlacedIssuedStagedAndCommitted := by
  unfold Obligations.TilesArePlacedIssuedStagedAndCommitted
  refine ⟨?placed, ?issued, ?staged, ?committed⟩
  case placed =>
    intro s svc c tj hturn hsaving hnext
    refine ⟨(s.placeTile tj c).note c, ?_, ?_⟩
    · change execTileJobPlacement svc s = _
      unfold execTileJobPlacement
      rw [if_pos ⟨hturn, hsaving⟩, hnext]
    · obtain ⟨hsame, hplaced⟩ := core_placeTile s tj c
      obtain ⟨hsched, hjobs⟩ := sched_placeTile s tj c
      rw [core_note, note_sched, note_jobs]
      exact ⟨hplaced, hsame.runs, hsched, hjobs⟩
  case issued =>
    intro s core b ch split tj j hstate hmem hneeds hjob holdest
    obtain ⟨r, u, hexec, htj, hblocks, hchunks, hdrained, hkeeps⟩ := exec_tileIssue hstate hmem hneeds hjob holdest
    obtain ⟨hruns, hplaced, hcls, hsched, hjobs, htbl⟩ := starts_spec s core r split
    obtain ⟨k, hk, hnode⟩ := job_updNode_some (n := tj.node)
      (fun n => { n with gen := some (n.gen.getD (s.starts core r split).tbl.gen) }) ((job_of hjobs tj.job).trans hjob)
    have hcore : u.core core = (s.starts core r split).core core := core_of_cores (hkeeps.parts.same .cores rfl) core
    refine ⟨u, hexec, ⟨r, ?_, htj, hblocks, hchunks, hdrained⟩, ?_, ?_, ?_, k, ?_, ?_⟩
    · rw [hcore, hruns]
    · rw [hcore, hplaced, htj]
    · rw [hcore, hcls, htj]
    · exact (hkeeps.parts.same .sched rfl).trans hsched
    · exact (job_of (hkeeps.parts.same .jobs rfl) _).trans hk
    · rw [hnode, htbl]
  case staged =>
    intro s core chunk r l1 l2 hruns hchunk hstaged hbefore
    refine ⟨_, rfl, ?_, rfl, fun c hc => State.core_setCore_other _ _ _ _ hc⟩
    rw [State.core_setCore, hruns, updFirst_append_cons _ l2 ?_ (by simp [hchunk, hstaged])]
    intro q hq
    obtain h | h := hbefore q hq
    · simp [Nat.not_lt.mpr h]
    · simp [h]
  case committed =>
    intro s core r j w v g hdone hjob hcore hword hknn hgrid hcommitted hopen
    obtain ⟨t, hexec, hruns, k, x, hk, hpassed, hxgrid, hfinishes⟩ :=
      exec_tileCommit hdone hjob hcore hword hknn hgrid hcommitted hopen
    refine ⟨t, hexec, hruns, k, hk, ?_, ?_, hfinishes.committed⟩
    · rw [hfinishes.eq]
      exact hpassed
    · rw [hfinishes.eq]
      exact hxgrid

end Sys2Proof
end

section
/-! SUPPORT. Rows that drain, check runs and the fence of a core. -/

set_option Elab.async false

namespace Sys2Proof.Machine

/-! ### A row is read (R328, R342, R343) -/

theorem updFirst_beq_mem {α : Type} [BEq α] [LawfulBEq α] (f : α → α) {x : α} {l : List α} (h : x ∈ l) :
    f x ∈ updFirst (fun y => y == x) f l := by
  induction l with
  | nil => exact absurd h List.not_mem_nil
  | cons y l ih =>
    unfold updFirst
    by_cases hy : y = x
    · subst hy
      rw [if_pos (beq_self_eq_true y)]
      exact List.mem_cons_self
    · rw [if_neg (by simpa using hy)]
      exact List.mem_cons_of_mem y (ih ((List.mem_cons.mp h).resolve_left (Ne.symm hy)))

/-- A row of a running tile is marked as read, and an upset that no comparison caught stays with the tile. -/
def State.rowRead (s : State) (core row lane flip : Nat) (r : RunTile) : State :=
  s.setCore core { s.core core with
    runs := updFirst (fun q => q == r) (fun q => { q.upset row lane flip with drained := q.drained ++ [row] }) (s.core core).runs }

theorem rowRead_runs (s : State) {core row : Nat} (lane flip : Nat) {r : RunTile} (h : r ∈ (s.core core).runs) :
    { r.upset row lane flip with drained := r.drained ++ [row] } ∈ ((s.rowRead core row lane flip r).core core).runs ∧
      ((s.rowRead core row lane flip r).core core).runs.length = (s.core core).runs.length := by
  unfold State.rowRead
  rw [State.core_setCore]
  exact ⟨updFirst_beq_mem (fun q : RunTile => { q.upset row lane flip with drained := q.drained ++ [row] }) h, length_updFirst _ _ _⟩

/-- What the comparison of the row gives decides. -/
theorem exec_drainRow {s u : State} {core row lane : Nat} {flip : BitVec 32} {r : RunTile}
    (hfind : (s.core core).runs.find? (fun r => s.drains r row) = some r)
    (hu : u = { s with tbl := { s.tbl with suspect := s.tbl.suspect.erase core } }) :
    (u.rowCheck core r row lane flip.toNat = .pass →
      exec (.drainRow core row lane flip false) s = .next (u.rowRead core row lane flip.toNat r)) ∧
    (u.rowCheck core r row lane flip.toNat = .excluded → exec (.drainRow core row lane flip false) s =
      .next (((u.rowRead core row lane flip.toNat r).cnt 0x0803 core).wr (Reg.CORE_LRW_STICKY_CK_EXCLUDED core) 1)) ∧
    ∀ l, u.rowCheck core r row lane flip.toNat = .fail l →
      exec (.drainRow core row lane flip false) s = .next (((u.failTile core r row l).stopEnd core).note core) := by
  have hstep : exec (.drainRow core row lane flip false) s = match u.rowCheck core r row lane flip.toNat with
      | .pass => .next (u.rowRead core row lane flip.toNat r)
      | .excluded => .next (((u.rowRead core row lane flip.toNat r).cnt 0x0803 core).wr (Reg.CORE_LRW_STICKY_CK_EXCLUDED core) 1)
      | .fail l => .next (((u.failTile core r row l).stopEnd core).note core) := by
    subst hu
    change execDrainRow core row lane flip false s = _
    unfold execDrainRow
    rw [hfind]
    rfl
  rw [hstep]
  exact ⟨fun h => by rw [h], fun h => by rw [h], fun l h => by rw [h]⟩

/-! ### A tile that fails (R344) -/

theorem moveTile_checks (s : State) (c : Nat) (r : RunTile) : ((s.moveTile c r).core c).checks = (s.core c).checks := by
  unfold State.moveTile
  dsimp only
  rw [core_requeue, State.core_setCore]

theorem failTile_checks (s : State) (c : Nat) (r : RunTile) (row : Nat) (lane : Option Nat) :
    ((s.failTile c r row lane).core c).checks = (s.core c).checks ++ [(r.tj, r.inject)] := by
  have herr := State.coreErr_keeps (L := 8388633) (s.moveTile c r) c 0x0802 false 0 0 rfl (.refl _)
  unfold State.failTile
  dsimp only
  rw [State.core_setCore, State.core_wr, State.core_wr, State.core_wr, State.core_bump, State.core_cnt,
    core_of_cores (herr.parts.same .cores rfl), moveTile_checks]

/-- A row that fails leaves a check run due, and the jobs as they are. -/
theorem failed_row (s : State) (core row : Nat) (r : RunTile) (l : Option Nat) :
    ((((s.failTile core r row l).stopEnd core).note core).core core).checks = (s.core core).checks ++ [(r.tj, r.inject)] ∧
      (((s.failTile core r row l).stopEnd core).note core).jobs = s.jobs := by
  have hend := State.stopEnd_keeps (L := 8486937) _ core rfl (State.failTile_keeps s core r row l rfl (.refl s))
  rw [core_note, (core_stopEnd _ core).checks, failTile_checks, note_jobs]
  exact ⟨rfl, hend.parts.same .jobs rfl⟩

/-! ### The fence of a core (R661 to R665) -/

theorem Records.lowRegs {l : List Nat} {s t : State} (h : Records l s t) (hl : ∀ x ∈ l, 0x1900000 ≤ x) : SameLowRegs s t :=
  ⟨fun a ha _ => h.reg a (by omega) (by omega) fun hmem => absurd (hl a hmem) (by omega)⟩

theorem hlthErr_lowRegs (s : State) (inst code d0 d1 : Nat) : SameLowRegs s (s.hlthErr inst code d0 d1) :=
  (hlthErr_records s inst code d0 d1).lowRegs fun x hx => by rw [List.mem_singleton.mp hx]; decide

theorem fenceNote_lowRegs (s : State) : SameLowRegs s s.fenceNote := by
  have hfence : ∀ lo hi n, SameLowRegs s
      (((s.setReg Reg.HLTH_FENCE_CORE_LO lo).setReg Reg.HLTH_FENCE_CORE_HI hi).wr Reg.HLTH_STATUS_FENCED_CORES n) := fun lo hi n =>
    (((SameLowRegs.refl s).setReg lo (by decide)).setReg hi (by decide)).wr n (by decide)
  unfold State.fenceNote
  dsimp only
  have hhlth : ∀ {t : State}, SameLowRegs s t → ∀ h, SameLowRegs s { t with hlth := h } := fun ht h => ht.trans (.of_regs rfl)
  exact ite_both (P := SameLowRegs s) (ite_both (P := SameLowRegs s) (hfence _ _ _)
    (((hhlth (hfence _ _ _) _).trans (hlthErr_lowRegs _ _ _ _ _)).devError _ _ _)) (hhlth (hfence _ _ _) _)

theorem fenceFiled_lowRegs (s : State) (kind unit code : Nat) (own : Bool) : SameLowRegs s (s.fenceFiled kind unit code own) := by
  have hcnt : SameLowRegs s (s.cnt 0x0E00 0) := (SameLowRegs.refl s).cnt _ _ _
  unfold State.fenceFiled
  exact ite_both (P := SameLowRegs s) hcnt ((hcnt.trans (hlthErr_lowRegs _ _ _ _ _)).devError _ _ _)

theorem coreState_of_lowRegs {s t : State} (h : SameLowRegs s t) {c : Nat} (hc : c < 64) : t.coreState c = s.coreState c :=
  coreState_of_reg (h.reg _ (by simp only [Reg.CORE_LRW_STATUS]; omega) (by simp only [Reg.CORE_LRW_STATUS, Reg.HIF_SVC_LOST]; omega))

/-- A fenced core holds nothing and nothing runs on it. -/
structure Fenced (t : State) (c : Nat) : Prop where
  state : t.coreState c = 5
  runs : (t.core c).runs = []
  placed : (t.core c).placed = []
  holds : (t.core c).holds = []
  checks : (t.core c).checks = []

theorem Fenced.keeps {s t : State} {c : Nat} (h : Fenced s c) (hstate : t.coreState c = s.coreState c) (hcores : t.cores = s.cores) :
    Fenced t c := by
  have hcore := core_of_cores hcores c
  exact ⟨hstate.trans h.state, by rw [hcore]; exact h.runs, by rw [hcore]; exact h.placed, by rw [hcore]; exact h.holds,
    by rw [hcore]; exact h.checks⟩

theorem fenceCore_fenced (s : State) {c : Nat} (hc : c < 64) : Fenced (s.fenceCore c) c := by
  generalize hv : s.fenceCore c = v
  unfold State.fenceCore at hv
  extract_lets x away lost s1 k s2 s3 s4 s5 at hv
  have hs3 : s3.cores = s2.cores := by
    cases hsaving : x.saving with
    | none => simp only [s3, hsaving]
    | some k => simp only [s3, hsaving, free1_cores]
  have hs5 : Keeps 73728 s4 s5 :=
    State.loseTiles_keeps _ _ rfl (Keeps.foldl (.refl s4) fun t (h : Hold) ht => State.restartGroup_keeps t h rfl ht)
  have hcore : s5.core c = s2.core c := (core_of_cores (hs5.parts.same .cores rfl) c).trans (core_of_cores hs3 c)
  have hstate : s5.coreState c = 5 :=
    (coreState_of_lowRegs (hs5.lowRegs rfl) hc).trans (coreState_wr_same s3 c (by decide))
  have hfenced : Fenced s5 c := by
    have hs2 : s2.core c = { s1.core c with placed := [], holds := [], tags := [], scaleSlots := [], checks := [], saving := none
                                            wants := none, lehr := 0 } := State.core_setCore _ _ _
    have hruns : (s1.core c).runs = [] := by
      rw [show s1.core c = _ from core_discardRuns s c x.runs]
      exact List.filter_eq_nil_iff.mpr fun r hr => by simpa using hr
    rw [hs2] at hcore
    exact ⟨hstate, by rw [hcore]; exact hruns, by rw [hcore], by rw [hcore], by rw [hcore]⟩
  have hnote := hfenced.keeps (t := s5.fenceNote) (coreState_of_lowRegs (fenceNote_lowRegs s5) hc)
    ((State.fenceNote_keeps (L := 8388635) s5 rfl (.refl s5)).parts.same .cores rfl)
  rw [← hv]
  exact hnote.keeps (coreState_note_stopped (by rw [hnote.state]; decide)) (note_cores _ c)

theorem fenceFiled_fenced {s : State} {c : Nat} (h : Fenced s c) (hc : c < 64) (kind unit code : Nat) (own : Bool) :
    Fenced (s.fenceFiled kind unit code own) c :=
  h.keeps (coreState_of_lowRegs (fenceFiled_lowRegs _ _ _ _ _) hc)
    ((State.fenceFiled_keeps (L := 8388635) s kind unit code own rfl (.refl s)).parts.same .cores rfl)

/-! ### A parity error of a table lookup (R425) -/

/-- Before the second error is judged: the tile moves on, and the error stands. -/
theorem tblParity_eq (s : State) (c : Nat) (r : RunTile) : ∃ u : State, u.tbl = s.tbl ∧ u.jobs = s.jobs ∧
    s.tblParity c r = if c ∈ s.tbl.suspect then (u.fenceCore c).fenceFiled 0 c 0x0904 false
      else { u with tbl := { s.tbl with suspect := s.tbl.suspect ++ [c] } } := by
  have hmove : (s.moveTile c r).tbl = s.tbl ∧ (s.moveTile c r).jobs = s.jobs := ⟨rfl, rfl⟩
  have herr := State.coreErr_keeps (L := 8388633) (s.moveTile c r) c 0x0904 true 0 0 rfl (.refl _)
  have htbl : (((s.moveTile c r).coreErr c 0x0904 true).cnt 0x0905 c).tbl = s.tbl := (herr.parts.same .tbl rfl).trans hmove.1
  refine ⟨((s.moveTile c r).coreErr c 0x0904 true).cnt 0x0905 c, htbl, (herr.parts.same .jobs rfl).trans hmove.2, ?_⟩
  unfold State.tblParity
  dsimp only
  rw [htbl]
  simp only [List.contains_iff_mem]

theorem exec_drainRow_parity {s : State} {core row lane : Nat} {flip : BitVec 32} {r : RunTile}
    (hfind : (s.core core).runs.find? (fun r => s.drains r row) = some r) :
    exec (.drainRow core row lane flip true) s = .next (((s.tblParity core r).stopEnd core).note core) := by
  change execDrainRow core row lane flip true s = _
  unfold execDrainRow
  rw [hfind]
  rfl

/-- A core in whose banks an error was found before is fenced. -/
theorem parity_fences {s : State} {c : Nat} (hc : c < 64) (r : RunTile) (h : c ∈ s.tbl.suspect) :
    Fenced (((s.tblParity c r).stopEnd c).note c) c := by
  obtain ⟨u, -, -, heq⟩ := tblParity_eq s c r
  rw [if_pos h] at heq
  have hfenced := fenceFiled_fenced (fenceCore_fenced u hc) hc 0 c 0x0904 false
  rw [← heq] at hfenced
  rw [stopEnd_of_state (by rw [hfenced.state]; decide) (by rw [hfenced.state]; decide)]
  exact hfenced.keeps (coreState_note_stopped (by rw [hfenced.state]; decide)) (note_cores _ c)

/-- A first error makes the core suspect. -/
theorem parity_suspects {s : State} {c : Nat} (r : RunTile) (h : c ∉ s.tbl.suspect) :
    (((s.tblParity c r).stopEnd c).note c).tbl = { s.tbl with suspect := s.tbl.suspect ++ [c] } ∧
      (((s.tblParity c r).stopEnd c).note c).jobs = s.jobs := by
  obtain ⟨u, -, hjobs, heq⟩ := tblParity_eq s c r
  rw [if_neg h] at heq
  have hend := State.stopEnd_keeps (L := 8486913) (s.tblParity c r) c rfl (.refl _)
  rw [note_tbl, note_jobs, hend.parts.same .tbl rfl, hend.parts.same .jobs rfl, heq]
  exact ⟨rfl, hjobs⟩

/-! ### Check runs (R344, R345) -/

theorem exec_checkRunDone_pass {s : State} {core : Nat} {q : TileJob × Bool} {l : List (TileJob × Bool)}
    (h : (s.core core).checks = q :: l) :
    exec (.checkRunDone core true) s =
      .next ((s.setCore core { s.core core with checks := l }).wr (Reg.CORE_LRW_STICKY_CK_RETRY core) 1) := by
  change execCheckRunDone core true s = _
  unfold execCheckRunDone
  dsimp only
  rw [h]
  rfl

theorem exec_checkRunDone_injected {s : State} {core : Nat} {q : TileJob} {l : List (TileJob × Bool)}
    (h : (s.core core).checks = (q, true) :: l) : exec (.checkRunDone core false) s =
      .next (((s.setCore core { s.core core with checks := l }).cnt 0x0802 core).bump (Reg.CORE_LRW_CK_FAILS_COUNT core)) := by
  change execCheckRunDone core false s = _
  unfold execCheckRunDone
  dsimp only
  rw [h]
  rfl

theorem exec_checkRunDone_fences {s : State} {core : Nat} {q : TileJob} {l : List (TileJob × Bool)}
    (h : (s.core core).checks = (q, false) :: l) :
    ∃ u : State, exec (.checkRunDone core false) s = .next ((u.fenceCore core).fenceFiled 0 core 0x0803 true) := by
  change ∃ u : State, execCheckRunDone core false s = _
  unfold execCheckRunDone
  dsimp only
  rw [h]
  exact ⟨_, rfl⟩

end Sys2Proof.Machine
end

section
/-! SUPPORT. Folds, later passes, spectra and steps. -/

set_option Elab.async false

namespace Sys2Proof.Machine

/-! ### Folds and spectra (R401, R449, R477) -/

/-- A node that is changed and then finishes. -/
theorem finishNode_updNode {s : State} {id n v : Nat} {j : Job} {g : Grid} (f : NodeSt → NodeSt) (hjob : s.job? id = some j)
    (hword : s.jobWord j n = some v) (hknn : wOpc v ≠ 0x55) (hopen : openBeside s j n) (hgrid : (f (j.node n)).grid = some g)
    (hcommitted : (f (j.node n)).committed = false) :
    ∃ k, ((s.updNode id n f).finishNode id n).job? id = some k ∧ Finishes g (f (j.node n)) (k.node n) := by
  have hupd : (s.updNode id n f).job? id = some (j.setNode n (f (j.node n))) := (job_updNode s id n f).trans (congrArg _ hjob)
  exact finishNode_of_keepsWork hword hknn hopen rfl ⟨_, hupd, .setNode j n _, by rw [node_setNode_same]⟩ hgrid hcommitted

/-- A node that is changed, whose tile jobs may become ready, and that then finishes. -/
theorem finishNode_wake_updNode {s : State} {id n v : Nat} {j : Job} {g : Grid} (f : NodeSt → NodeSt) (hjob : s.job? id = some j)
    (hword : s.jobWord j n = some v) (hknn : wOpc v ≠ 0x55) (hopen : openBeside s j n) (hgrid : (f (j.node n)).grid = some g)
    (hcommitted : (f (j.node n)).committed = false) :
    ∃ k, (((s.updNode id n f).wake id).finishNode id n).job? id = some k ∧ Finishes g (f (j.node n)) (k.node n) := by
  have hupd : (s.updNode id n f).job? id = some (j.setNode n (f (j.node n))) := (job_updNode s id n f).trans (congrArg _ hjob)
  have hprogs : ((s.updNode id n f).wake id).progs = s.progs :=
    (State.wake_keeps (L := 73729) (s.updNode id n f) id rfl (.refl _)).parts.same .progs rfl
  obtain ⟨k, hk, hwork⟩ := wake_work _ id _ hupd
  have hnode := hwork.node n
  rw [node_setNode_same] at hnode
  exact finishNode_of_keepsWork hword hknn hopen hprogs ⟨k, hk, (SameBeside.setNode j n _).trans (hwork.beside n), hnode⟩ hgrid hcommitted

theorem exec_foldJob {s : State} {job node w : Nat} {j : Job} {g : Grid} (hjob : s.job? job = some j) (hgrid : (j.node node).grid = some g)
    (hword : s.jobWord j node = some w) (hfold : g.fold = true) (hcommitted : (j.node node).committed = false) :
    exec (.foldJob job node) s = .next ((s.updNode job node (fun x => { x with
      folded := x.folded ++ (j.node node).foldable g (wOpc w == 0x41 && mvLayout (s.descOf j.prog (wDesc w)) == 1) })).finishNode job node) := by
  change execFoldJob job node s = _
  unfold execFoldJob
  rw [hjob]
  dsimp only
  rw [hgrid, hword]
  exact if_pos ⟨hfold, hcommitted⟩

theorem exec_spectrumJob {s : State} {job node channel : Nat} {j : Job} {g : Grid} (hjob : s.job? job = some j)
    (hgrid : (j.node node).grid = some g) (hlt : channel < g.spectra) (hnew : channel ∉ (j.node node).spectra) :
    exec (.spectrumJob job node channel) s =
      .next (((s.updNode job node (fun x => { x with spectra := x.spectra ++ [channel] })).wake job).finishNode job node) := by
  change execSpectrumJob job node channel s = _
  unfold execSpectrumJob
  rw [hjob]
  dsimp only
  rw [hgrid]
  exact if_pos ⟨hlt, by simpa using hnew⟩

/-! ### Later passes (R411, R450) -/

/-- The folded row blocks whose next pass is not issued yet. -/
def NodeSt.nextPass (x : NodeSt) (g : Grid) : List (Nat × Nat) :=
  x.folded.filter (fun q => decide (q.1 + 1 < g.passes) && !x.issued.contains (q.1 + 1, q.2))

/-- The tile jobs of the next pass of these row blocks. -/
def State.passTiles (s : State) (j : Job) (node w : Nat) (g : Grid) : List TileJob :=
  ((j.node node).nextPass g).flatMap (fun q => (List.range g.nb).filterMap (fun k =>
    let t := g.tile q.2 k
    if (j.node node).gated.contains t then none else some (j.tileJob s w node g (q.1 + 1) t)))

theorem mem_nextPass {x : NodeSt} {g : Grid} {p i : Nat} (hfolded : (p, i) ∈ x.folded) (hpass : p + 1 < g.passes)
    (hnew : (p + 1, i) ∉ x.issued) : (p, i) ∈ x.nextPass g :=
  List.mem_filter.mpr ⟨hfolded, by simp [hpass, hnew]⟩

theorem mem_passTiles {s : State} {j : Job} {node w : Nat} {g : Grid} {p i k : Nat} (hnext : (p, i) ∈ (j.node node).nextPass g)
    (hk : k < g.nb) (hgated : g.tile i k ∉ (j.node node).gated) :
    j.tileJob s w node g (p + 1) (g.tile i k) ∈ s.passTiles j node w g := by
  refine List.mem_flatMap.mpr ⟨(p, i), hnext, List.mem_filterMap.mpr ⟨k, List.mem_range.mpr hk, ?_⟩⟩
  exact if_neg (by simpa using hgated)

theorem exec_secondPassIssue {s : State} {job node w : Nat} {j : Job} {g : Grid} (hjob : s.job? job = some j)
    (hgrid : (j.node node).grid = some g) (hword : s.coreWord j node = some w) :
    ∃ u : State, exec (.secondPassIssue job node) s = .next u.schedNote ∧ u.sched.ready = s.sched.ready ++ s.passTiles j node w g ∧
      ∃ k, u.job? job = some k ∧
        (k.node node).issued = (j.node node).issued ++ ((j.node node).nextPass g).map (fun q => (q.1 + 1, q.2)) := by
  obtain ⟨k, hk, hissued⟩ := job_updNode_some (n := node) (fun x => { x with
    issued := x.issued ++ ((j.node node).nextPass g).map (fun q => (q.1 + 1, q.2)) }) hjob
  change ∃ u : State, execSecondPassIssue job node s = _ ∧ _
  unfold execSecondPassIssue
  rw [hjob]
  dsimp only
  rw [hgrid, hword]
  exact ⟨_, rfl, rfl, k, hk, by rw [hissued]⟩

/-- The tile jobs of the next pass enter the ready queue, once for each folded row block. -/
theorem secondPassIssue_ready {s : State} {job node w : Nat} {j : Job} {g : Grid} (hjob : s.job? job = some j)
    (hgrid : (j.node node).grid = some g) (hword : s.coreWord j node = some w) :
    ∃ t, exec (.secondPassIssue job node) s = .next t ∧ (∀ tj, tj ∈ s.sched.ready ∨ tj ∈ s.passTiles j node w g → tj ∈ t.sched.ready) ∧
      ∃ k, t.job? job = some k ∧ ∀ p i, (p, i) ∈ (j.node node).folded → p + 1 < g.passes → (p + 1, i) ∈ (k.node node).issued := by
  obtain ⟨u, hexec, hready, k, hk, hissued⟩ := exec_secondPassIssue hjob hgrid hword
  have hnote := State.schedNote_keeps (L := 1) u rfl (.refl u)
  refine ⟨_, hexec, fun tj h => ?_, k, (job_of (hnote.parts.same .jobs rfl) job).trans hk, fun p i hfolded hpass => ?_⟩
  · rw [show u.schedNote.sched = u.sched from hnote.parts.same .sched rfl, hready]
    exact List.mem_append.mpr h
  · rw [hissued]
    by_cases hold : (p + 1, i) ∈ (j.node node).issued
    · exact List.mem_append_left _ hold
    · exact List.mem_append_right _ (List.mem_map.mpr ⟨(p, i), mem_nextPass hfolded hpass hold, rfl⟩)

/-! ### Steps of a CHAIN (R458) -/

theorem foldl_noteHits_job {w d id : Nat} {g : Grid} (l : List RunTile) (hl : ∀ r ∈ l, r.tj.job = id) {s : State} {j : Job}
    (h : s.job? id = some j) : ∃ k, (l.foldl (fun s r => s.noteHits r w d g) s).job? id = some k ∧ SameButHits j k := by
  induction l generalizing s j with
  | nil => exact ⟨j, h, rfl, fun _ => rfl⟩
  | cons r l ih =>
    obtain ⟨k, hk, hjk⟩ := noteHits_job s r w d g ((congrArg s.job? (hl r List.mem_cons_self)).trans h)
    rw [hl r List.mem_cons_self] at hk
    obtain ⟨m, hm, hkm⟩ := ih (fun q hq => hl q (List.mem_cons_of_mem r hq)) hk
    exact ⟨m, hm, hjk.trans hkm⟩

/-- The running tiles of a row block. -/
def tileOf (job node blk : Nat) (r : RunTile) : Bool := r.tj.job == job && r.tj.node == node && r.tj.group == blk

/-- A step of a row block is counted, and while steps are left its rows start anew. -/
theorem exec_chainStepCommit {s : State} {job node blk c done w : Nat} {j : Job} {g : Grid} (hjob : s.job? job = some j)
    (hgrid : (j.node node).grid = some g) (hword : s.jobWord j node = some w) (hchain : wOpc w = 0x48)
    (hcore : (List.range 64).find? (fun c => (s.core c).runs.any (tileOf job node blk)) = some c)
    (hdone : (((j.node node).steps.find? (fun q => q.1 == blk)).map (·.2)).getD 0 = done) (hlt : done < g.steps)
    (hready : (s.core c).runs.any (fun r => tileOf job node blk r && (r.chunks == 0 || r.staged.contains done) &&
      (List.range r.tj.rows).all (fun k => r.drained.contains k)) = true) :
    ∃ t, exec (.chainStepCommit job node blk) s = .next t ∧
      (∃ k, t.job? job = some k ∧ (k.node node).steps = (blk, done + 1) :: (j.node node).steps.filter (fun q => q.1 != blk)) ∧
      (done + 1 < g.steps → (t.core c).runs = (s.core c).runs.map (fun r =>
        if tileOf job node blk r then { r with drained := [], upsets := [] } else r)) ∧ t.sched = s.sched := by
  have hsteps : (match (j.node node).steps.find? (fun q => q.1 == blk) with | some q => q.2 | none => 0) = done := by
    rw [← hdone]
    cases (j.node node).steps.find? (fun q => q.1 == blk) with
    | none => rfl
    | some q => rfl
  subst hsteps
  generalize hv : exec (.chainStepCommit job node blk) s = v
  change execChainStepCommit job node blk s = v at hv
  unfold execChainStepCommit at hv
  rw [hjob] at hv
  dsimp -zeta only at hv
  extract_lets x done mine s1 at hv
  rw [show x.grid = some g from hgrid, hword, show (List.range 64).find? (fun c => (s.core c).runs.any (fun r =>
    r.tj.job == job && r.tj.node == node && r.tj.group == blk)) = some c from hcore] at hv
  dsimp -zeta only at hv
  extract_lets ready d cal resc k s2 s3 at hv
  rw [if_pos ⟨hchain, hlt, hready⟩] at hv
  obtain ⟨y, hy, hcounted⟩ := job_updNode_some (n := node)
    (fun y => { y with steps := (blk, done + 1) :: y.steps.filter (fun q => q.1 != blk) }) hjob
  have hs2 : Keeps 8421376 s1 s2 :=
    State.cnt_keeps _ _ _ _ rfl (Keeps.ite (fun _ => State.setCore_keeps _ _ _ rfl (.refl s1)) fun _ => .refl s1)
  have hs3 : Keeps 16785408 s2 s3 := Keeps.ite
    (fun _ => Keeps.foldl (.refl s2) fun u (r : RunTile) hu => State.noteHits_keeps u r w d g rfl hu) fun _ => .refl s2
  have hj2 : s2.job? job = some y := (job_of (hs2.parts.same .jobs rfl) job).trans hy
  obtain ⟨m, hm, hhits⟩ : ∃ m, s3.job? job = some m ∧ SameButHits y m := by
    refine ite_both (P := fun u : State => ∃ m, u.job? job = some m ∧ SameButHits y m) ?_ ⟨y, hj2, rfl, fun _ => rfl⟩
    refine foldl_noteHits_job _ (fun r hr => ?_) hj2
    have hmine : tileOf job node blk r = true := (List.mem_filter.mp hr).2
    unfold tileOf at hmine
    simp only [Bool.and_eq_true, beq_iff_eq] at hmine
    exact hmine.1.1
  generalize ht : (if resc.isEmpty = true then s3 else s3.cnt 0x0984 c resc.length) = t at hv
  have hkeeps : Keeps 8388608 s3 t := ht ▸ Keeps.ite (fun _ => .refl s3) fun _ => State.cnt_keeps _ _ _ _ rfl (.refl s3)
  refine ⟨t, hv.symm, ⟨m, (job_of (hkeeps.parts.same .jobs rfl) job).trans hm, ?steps⟩, ?runs, ?sched⟩
  case steps =>
    calc (m.node node).steps = (y.node node).steps := by rw [hhits.node node]
      _ = _ := congrArg NodeSt.steps hcounted
  case runs =>
    intro (hleft : done + 1 < g.steps)
    have hset : (s2.core c).runs = (s.core c).runs.map (fun r =>
        if tileOf job node blk r then { r with drained := [], upsets := [] } else r) := by
      simp only [s2, State.core_cnt, if_pos hleft, State.core_setCore]
      rfl
    calc (t.core c).runs = (s3.core c).runs := congrArg Core.runs (core_of_cores (hkeeps.parts.same .cores rfl) c)
      _ = (s2.core c).runs := congrArg Core.runs (core_of_cores (hs3.parts.same .cores rfl) c)
      _ = _ := hset
  case sched =>
    calc t.sched = s3.sched := hkeeps.parts.same .sched rfl
      _ = s2.sched := hs3.parts.same .sched rfl
      _ = s1.sched := hs2.parts.same .sched rfl

/-- The counted step is the one found. -/
theorem find_step {l : List (Nat × Nat)} {blk n : Nat} : ((blk, n) :: l).find? (fun q => q.1 == blk) = some (blk, n) :=
  List.find?_cons_of_pos (beq_self_eq_true blk)

theorem drained_of_map {mine : RunTile → Bool} {l : List RunTile} {r : RunTile}
    (hr : r ∈ l.map (fun r => if mine r then { r with drained := [], upsets := [] } else r))
    (hmine : mine r = true) : r.drained = [] := by
  obtain ⟨q, -, rfl⟩ := List.mem_map.mp hr
  by_cases hq : mine q = true
  · rw [if_pos hq]
  · rw [if_neg hq] at hmine
    exact absurd hmine hq

end Sys2Proof.Machine
end

section
/-! SUPPORT. The claim on rows, check runs, folds, later passes, spectra and steps. -/

set_option Elab.async false

namespace Sys2Proof

open Machine

/-- Settles O25: what the comparison gives decides what a row does; a fenced core keeps STATE 5 and holds nothing whatever restarts
elsewhere; a changed node finishes when its work is done; upsets that stand in outputs leave the steps alone. -/
theorem rowsDrainAndNodesFoldAndStep : Obligations.RowsDrainAndNodesFoldAndStep := by
  unfold Obligations.RowsDrainAndNodesFoldAndStep
  refine ⟨?read, ?failed, ?parity, ?passed, ?injected, ?fenced, ?folded, ?issued, ?spectrum, ?stepped⟩
  case read =>
    intro s u core row lane flip r hfind hu hcheck
    obtain ⟨hpass, hexcluded, -⟩ := exec_drainRow (lane := lane) (flip := flip) hfind hu
    have hmem : r ∈ (u.core core).runs := by
      rw [hu]
      exact List.mem_of_find?_eq_some hfind
    obtain ⟨hread, hlength⟩ := rowRead_runs u (row := row) lane flip.toNat hmem
    have hruns : (u.core core).runs = (s.core core).runs := by rw [hu]; rfl
    rw [hruns] at hlength
    obtain h | h := hcheck
    · refine ⟨_, hpass h, hread, hlength, fun _ => rfl, fun h' => ?_⟩
      exact absurd (h.symm.trans h') (by decide)
    · refine ⟨_, hexcluded h, ?_, ?_, fun h' => absurd (h.symm.trans h') (by decide), fun _ =>
        ⟨rd_wr_same _ _ _ (show 2 + 1 ≤ 32 by decide), rfl⟩⟩
      · rw [State.core_wr, State.core_cnt]
        exact hread
      · rw [State.core_wr, State.core_cnt]
        exact hlength
  case failed =>
    intro s u core row lane flip r found hfind hu hcheck
    obtain ⟨-, -, hfail⟩ := exec_drainRow (lane := lane) (flip := flip) hfind hu
    have hfailed := failed_row u core row r found
    refine ⟨_, hfail found hcheck, ?_⟩
    rw [show s.core core = u.core core by rw [hu]; rfl, show s.jobs = u.jobs by rw [hu]]
    exact hfailed
  case parity =>
    intro s core row lane flip r hcore hfind
    refine ⟨_, exec_drainRow_parity hfind, ?_⟩
    split
    next h =>
      have hfenced := parity_fences hcore r h
      exact ⟨hfenced.state, hfenced.runs, hfenced.placed⟩
    next h => exact parity_suspects r h
  case passed =>
    intro s core q l hchecks
    refine ⟨_, exec_checkRunDone_pass hchecks, ?_, rd_wr_same _ _ _ (show 1 + 1 ≤ 32 by decide), coreState_wr_other _ _ ?_, rfl⟩
    · rw [State.core_wr, State.core_setCore]
    · simp only [Reg.CORE_LRW_STATUS, Reg.CORE_LRW_STICKY]; omega
  case injected =>
    intro s core q l hchecks
    refine ⟨_, exec_checkRunDone_injected hchecks, ?_, coreState_wr_other _ _ ?_⟩
    · rw [State.core_bump, State.core_cnt, State.core_setCore]
    · simp only [Reg.CORE_LRW_STATUS, Reg.CORE_LRW_CK_FAILS]; omega
  case fenced =>
    intro s core q l hcore hchecks
    obtain ⟨u, hexec⟩ := exec_checkRunDone_fences hchecks
    obtain ⟨hstate, hruns, hplaced, hholds, hnone⟩ := fenceFiled_fenced (fenceCore_fenced u hcore) hcore 0 core 0x0803 true
    exact ⟨_, hexec, hstate, hruns, hplaced, hholds, hnone⟩
  case folded =>
    intro s job node j g w hjob hgrid hword hknn hfold hcommitted hopen
    obtain ⟨k, hk, hfinishes⟩ := finishNode_updNode (fun x => { x with
      folded := x.folded ++ (j.node node).foldable g (wOpc w == 0x41 && mvLayout (s.descOf j.prog (wDesc w)) == 1) })
      hjob hword hknn hopen hgrid hcommitted
    exact ⟨_, exec_foldJob hjob hgrid hword hfold hcommitted, k, hk, by rw [hfinishes.eq], hfinishes.committed⟩
  case issued =>
    intro s job node j g w hjob hgrid hword
    obtain ⟨t, hexec, hready, k, hk, hissued⟩ := secondPassIssue_ready hjob hgrid hword
    refine ⟨t, hexec, fun p i n hfolded hpass hnew hn hgated => ?_, fun tj h => hready tj (.inl h), k, hk, hissued⟩
    exact ⟨_, hready _ (.inr (mem_passTiles (mem_nextPass hfolded hpass hnew) hn hgated)), id_of_job hjob, rfl, rfl, rfl,
      by simp [Job.tileJob]⟩
  case spectrum =>
    intro s job node channel j g w hjob hgrid hword hknn hlt hnew hcommitted hopen
    obtain ⟨k, hk, hfinishes⟩ := finishNode_wake_updNode (fun x => { x with spectra := x.spectra ++ [channel] })
      hjob hword hknn hopen hgrid hcommitted
    exact ⟨_, exec_spectrumJob hjob hgrid hlt hnew, k, hk, by rw [hfinishes.eq], hfinishes.committed⟩
  case stepped =>
    rintro s job node blk c done j g w mine rfl hjob hgrid hword hchain hcore hdone hlt hready
    obtain ⟨t, hexec, ⟨k, hk, hsteps⟩, hruns, hsched⟩ := exec_chainStepCommit hjob hgrid hword hchain hcore hdone hlt hready
    refine ⟨t, hexec, ⟨k, hk, by rw [hsteps, find_step]⟩, fun hleft r hr hmine => ?_, hsched⟩
    rw [hruns hleft] at hr
    exact drained_of_map hr hmine

end Sys2Proof
end

section
/-! SUPPORT. Ranlink's routes, what leaves them as they are, and what a tile, a chunk or an answer on its way out changes. -/

set_option Elab.async false

namespace Sys2Proof.Machine

/-! ### What decides the routes (R633, R634) -/

/-- The topology, the states of the ports and what the other devices told of theirs are the same. -/
structure SameRoutes (s t : State) : Prop where
  topo : t.reg Reg.LNK_TOPO = s.reg Reg.LNK_TOPO
  status : ∀ p, t.reg (Reg.LNK_PORT_STATUS p) = s.reg (Reg.LNK_PORT_STATUS p)
  links : t.lnk.links = s.lnk.links

theorem SameRoutes.refl (s : State) : SameRoutes s s := ⟨rfl, fun _ => rfl, rfl⟩

theorem SameRoutes.trans {s t u : State} (h : SameRoutes s t) (k : SameRoutes t u) : SameRoutes s u :=
  ⟨k.topo.trans h.topo, fun p => (k.status p).trans (h.status p), k.links.trans h.links⟩

/-- The registers from the credits of a port on are neither LNK_TOPO nor a port's status. -/
theorem SameRoutes.setReg {s t : State} (h : SameRoutes s t) {a : Nat} (v : BitVec 32) (ha : 8 ≤ a % 0x40) : SameRoutes s (t.setReg a v) where
  topo := (reg_setReg_other _ _ _ _ (by simp only [Reg.LNK_TOPO]; omega)).trans h.topo
  status p := (reg_setReg_other _ _ _ _ (by simp only [Reg.LNK_PORT_STATUS]; omega)).trans (h.status p)
  links := h.links

theorem SameRoutes.wr {s t : State} (h : SameRoutes s t) {f : RegField} (v : Nat) (hf : 8 ≤ f.addr % 0x40) : SameRoutes s (t.wr f v) :=
  h.setReg _ hf

theorem SameRoutes.myDev {s t : State} (h : SameRoutes s t) : t.myDev = s.myDev := rd_of_reg h.topo
theorem SameRoutes.topoKind {s t : State} (h : SameRoutes s t) : t.topoKind = s.topoKind := rd_of_reg h.topo
theorem SameRoutes.nDev {s t : State} (h : SameRoutes s t) : t.nDev = s.nDev := congrArg (· + 1) (rd_of_reg h.topo)

theorem SameRoutes.portUp {s t : State} (h : SameRoutes s t) (d p : Nat) : t.portUp d p = s.portUp d p := by
  unfold State.portUp State.portSt
  rw [h.myDev, h.links, rd_of_reg (f := Reg.LNK_PORT_STATUS_STATE p) (h.status p)]

theorem SameRoutes.linkTo {s t : State} (h : SameRoutes s t) (d p : Nat) : t.linkTo d p = s.linkTo d p := by
  unfold State.linkTo
  simp only [h.topoKind, h.nDev, h.portUp]

theorem SameRoutes.hopFrom {s t : State} (h : SameRoutes s t) (l : List (Nat × Bool × Bool)) : t.hopFrom l = s.hopFrom l := by
  unfold State.hopFrom
  simp only [h.topoKind, h.nDev, h.linkTo]

theorem SameRoutes.hopsFrom {s t : State} (h : SameRoutes s t) (n k : Nat) (l : List (Nat × Bool × Bool)) :
    t.hopsFrom n k l = s.hopsFrom n k l := by
  induction n generalizing k l with
  | zero => rfl
  | succ n ih =>
    unfold State.hopsFrom
    rw [h.hopFrom, ih]

theorem SameRoutes.outHops {s t : State} (h : SameRoutes s t) : t.outHops = s.outHops := by
  unfold State.outHops
  simp only [h.topoKind, h.nDev, h.myDev, h.linkTo, h.hopsFrom]

theorem SameRoutes.routePort {s t : State} (h : SameRoutes s t) (dst tile : Nat) : t.routePort dst tile = s.routePort dst tile := by
  unfold State.routePort
  simp only [h.outHops, h.myDev, h.linkTo]

/-! ### Flits (R636, R637) -/

/-- Of Ranlink, flits change what waits on the ports. -/
theorem sendFlits_lnk (s : State) (p halyard n : Nat) : ∃ l, (s.sendFlits p halyard n).lnk = { s.lnk with ports := l } := by
  unfold State.sendFlits State.drainPort State.txFlits
  simp only [State.wr64_lnk, State.wr_lnk]
  exact ⟨_, rfl⟩

theorem keeps_sendFlits (s : State) (p halyard n : Nat) : Keeps 1048577 s (s.sendFlits p halyard n) :=
  State.sendFlits_keeps s p halyard n rfl (.refl s)

@[simp] theorem sendFlits_out (s : State) (p halyard n : Nat) : (s.sendFlits p halyard n).out = s.out :=
  (keeps_sendFlits s p halyard n).parts.same .out rfl

@[simp] theorem sendFlits_sent (s : State) (p halyard n : Nat) : (s.sendFlits p halyard n).lnk.sent = s.lnk.sent := by
  obtain ⟨l, h⟩ := sendFlits_lnk s p halyard n
  rw [h]

@[simp] theorem sendFlits_heldTiles (s : State) (p halyard n : Nat) : (s.sendFlits p halyard n).lnk.heldTiles = s.lnk.heldTiles := by
  obtain ⟨l, h⟩ := sendFlits_lnk s p halyard n
  rw [h]

theorem sendFlits_routes (s : State) (p halyard n : Nat) : SameRoutes s (s.sendFlits p halyard n) := by
  have hcredits : 8 ≤ Reg.LNK_PORT_CREDITS p % 0x40 := by simp only [Reg.LNK_PORT_CREDITS]; omega
  have hfwd : 8 ≤ Reg.LNK_PORT_FWD p % 0x40 := by simp only [Reg.LNK_PORT_FWD]; omega
  have hlo : 8 ≤ Reg.LNK_PORT_TX_LO p % 0x40 := by simp only [Reg.LNK_PORT_TX_LO]; omega
  have hhi : 8 ≤ Reg.LNK_PORT_TX_HI p % 0x40 := by simp only [Reg.LNK_PORT_TX_HI]; omega
  have hport : ∀ x y, SameRoutes s ((s.setLport p x).setLport p y) := fun _ _ => ⟨rfl, fun _ => rfl, rfl⟩
  unfold State.sendFlits State.drainPort State.txFlits State.wr64
  exact (((((((hport _ _).wr _ hcredits).wr _ hcredits).wr _ hfwd).wr _ hfwd).wr _ hcredits).setReg _ hlo).setReg _ hhi

/-- An answer goes out, whether or not a port leads to the sender. -/
structure Answered (s t : State) (o : Out) : Prop where
  out : t.out = s.out ++ [o]
  sent : t.lnk.sent = s.lnk.sent
  held : t.lnk.heldTiles = s.lnk.heldTiles
  routes : SameRoutes s t

theorem answerTile_answered (s : State) (dev tile : Nat) (o : Out) : Answered s (s.answerTile dev tile o) o := by
  have hpost : SameRoutes s (s.post o) := ⟨rfl, fun _ => rfl, rfl⟩
  unfold State.answerTile
  split
  · exact ⟨sendFlits_out _ _ _ _, sendFlits_sent _ _ _ _, sendFlits_heldTiles _ _ _ _, hpost.trans (sendFlits_routes _ _ _ _)⟩
  · exact ⟨rfl, rfl, rfl, hpost⟩

/-- Of Ranlink, a chunk that leaves changes what waits on the ports. -/
theorem sendChunk_lnk (s : State) (ring : List Nat) (k : CollChunk) : ∃ l, (s.sendChunk ring k).lnk = { s.lnk with ports := l } := by
  unfold State.sendChunk
  dsimp only
  split
  · exact sendFlits_lnk _ _ _ _
  · exact ⟨s.lnk.ports, rfl⟩

theorem sendChunk_routes (s : State) (ring : List Nat) (k : CollChunk) : SameRoutes s (s.sendChunk ring k) := by
  have hpost : ∀ o, SameRoutes s (s.post o) := fun _ => ⟨rfl, fun _ => rfl, rfl⟩
  unfold State.sendChunk
  dsimp only
  split
  · exact (hpost _).trans (sendFlits_routes _ _ _ _)
  · exact hpost _

/-! ### Tiles that are sent (R639, R640) -/

/-- From `s` to `t` messages went out, and neither the routes nor the jobs and programs changed. -/
structure SendsOn (s t : State) : Prop where
  routes : SameRoutes s t
  jobs : t.jobs = s.jobs
  progs : t.progs = s.progs
  out : s.out ⊆ t.out

theorem SendsOn.refl (s : State) : SendsOn s s := ⟨.refl s, rfl, rfl, fun _ h => h⟩

theorem SendsOn.trans {s t u : State} (h : SendsOn s t) (k : SendsOn t u) : SendsOn s u :=
  ⟨h.routes.trans k.routes, k.jobs.trans h.jobs, k.progs.trans h.progs, fun _ ho => k.out (h.out ho)⟩

theorem SendsOn.foldl {α : Type} {f : State → α → State} (hf : ∀ u x, SendsOn u (f u x)) (l : List α) (s : State) :
    SendsOn s (l.foldl f s) := by
  induction l generalizing s with
  | nil => exact .refl s
  | cons x l ih => exact (hf s x).trans (ih _)

/-- What a step of a fold posts has gone out at its end. -/
theorem mem_out_foldl {α : Type} {f : State → α → State} (hf : ∀ u x, SendsOn u (f u x)) {x : α} {l : List α} {o : Out} (hx : x ∈ l)
    (s : State) (hpost : ∀ u, SendsOn s u → o ∈ (f u x).out) : o ∈ (l.foldl f s).out := by
  induction l generalizing s with
  | nil => exact absurd hx List.not_mem_nil
  | cons y l ih =>
    rcases List.mem_cons.mp hx with rfl | hx
    · exact (SendsOn.foldl hf l _).out (hpost s (.refl s))
    · exact ih hx _ fun u hu => hpost u ((hf s y).trans hu)

/-- The record of a tile that goes out now over a port. -/
def SentTile.onPort (q : SentTile) (p : Nat) (again : Bool) (now : Nat) : SentTile :=
  { q with port := p, sends := if again then q.sends + 1 else q.sends, at_ := now }

theorem sendTile_again {s : State} {q : SentTile} {p : Nat} (hroute : s.routePort q.msg.dst q.msg.id.tile = some p) :
    (s.sendTile q true).lnk.sent =
      s.lnk.sent.map (fun x => if x.msg.id = q.msg.id ∧ x.msg.dst = q.msg.dst then q.onPort p true s.time.mono else x) := by
  unfold State.sendTile
  rw [hroute]
  exact sendFlits_sent _ _ _ _

theorem sendTile_out {s : State} {q : SentTile} {p : Nat} (hroute : s.routePort q.msg.dst q.msg.id.tile = some p) (again : Bool) :
    (s.sendTile q again).out = s.out ++ [Out.tile p q.msg] := by
  unfold State.sendTile
  rw [hroute]
  cases again <;> exact sendFlits_out _ _ _ _

theorem sendTile_sendsOn (s : State) (q : SentTile) (again : Bool) : SendsOn s (s.sendTile q again) := by
  unfold State.sendTile
  split
  · exact .refl s
  · have hsent : ∀ (l : List SentTile) (o : Out) (i a : Nat),
        SendsOn s ((({ s with lnk := { s.lnk with sent := l } } : State).post o).cnt i a) :=
      fun l o i a => ⟨⟨rfl, fun _ => rfl, rfl⟩, rfl, rfl, fun _ ho => List.mem_append_left _ ho⟩
    have hcounted : ∀ {t : State}, SendsOn s t → ∀ i a, SendsOn s (t.cnt i a) := fun h i a =>
      h.trans ⟨⟨rfl, fun _ => rfl, rfl⟩, rfl, rfl, fun _ ho => ho⟩
    have hflits : ∀ {t : State}, SendsOn s t → ∀ p n, SendsOn s (t.sendFlits p 1 n) := fun {t} h p n =>
      have hkeeps := keeps_sendFlits t p 1 n
      h.trans ⟨sendFlits_routes _ _ _ _, hkeeps.parts.same .jobs rfl, hkeeps.parts.same .progs rfl, fun _ ho => by
        rw [sendFlits_out]
        exact ho⟩
    exact hflits (ite_both (P := SendsOn s) (hcounted (hsent _ _ _ _) _ _) (hsent _ _ _ _)) _ _

/-! ### Messages of tiles (R639) -/

/-- The message of a tile follows from the job, the program and MY_DEV. -/
theorem tileMsg_of_sendsOn {s t : State} (h : SendsOn s t) (j : Job) (src w : Nat) (g : Grid) (q : Tensor) (k : Nat) :
    t.tileMsg j src w g q k = s.tileMsg j src w g q k := by
  have hword : t.coreWord j src = s.coreWord j src := coreWord_of_progs h.progs j src
  have hdesc : ∀ v, t.coreDesc j src v = s.coreDesc j src v := fun v => by
    unfold State.coreDesc State.jobWord State.descOf State.prog
    rw [h.progs]
  have hkey : t.jobKey j = s.jobKey j := by
    unfold State.jobKey
    rw [h.routes.myDev]
  unfold State.tileMsg
  rw [hword, hkey, h.routes.myDev]
  simp only [hdesc]

theorem tileFor_of_myDev {s t : State} (h : t.myDev = s.myDev) (j : Job) (id : TileId) : t.tileFor j id = s.tileFor j id := by
  unfold State.tileFor State.jobKey
  rw [h]

end Sys2Proof.Machine
end

section
/-! SUPPORT. Transfers at the sending device: XFR_SEND, receipts, repeats, releases and a receiver that is lost. -/

set_option Elab.async false

namespace Sys2Proof.Machine

/-! ### XFR_SEND (R461, R639) -/

/-- The finished tiles of the source that the node has not passed. -/
def Job.unsent (j : Job) (node src : Nat) (g : Grid) : List Nat :=
  (((j.node src).passed.filter (fun p => p.1 + 1 == g.passes)).map (·.2)).filter (fun t => !(j.node node).passed.contains (0, t))

/-- Tiles of a source go out one after the other. -/
def State.sendTiles (s : State) (j : Job) (job node w : Nat) (g : Grid) (q : Tensor) (l : List Nat) : State :=
  l.foldl (fun s t =>
    let m := s.tileMsg j (xfSrc w) w g q t
    s.sendTile { msg := m.1, job := job, node := node, flits := m.2, port := 0 } false) s

theorem sendTiles_sendsOn (s : State) (j : Job) (job node w : Nat) (g : Grid) (q : Tensor) (l : List Nat) :
    SendsOn s (s.sendTiles j job node w g q l) := .foldl (fun _ _ => sendTile_sendsOn _ _ _) l s

theorem mem_out_sendTiles {s : State} {j : Job} {job node w : Nat} {g : Grid} {q : Tensor} {l : List Nat} {t r : Nat} {m : TileMsg}
    (ht : t ∈ l) (hm : m = (s.tileMsg j (xfSrc w) w g q t).1) (hroute : s.routePort m.dst m.id.tile = some r) :
    Out.tile r m ∈ (s.sendTiles j job node w g q l).out := by
  refine mem_out_foldl (fun _ _ => sendTile_sendsOn _ _ _) ht s fun u hu => ?_
  have hmsg : (u.tileMsg j (xfSrc w) w g q t).1 = m := by rw [tileMsg_of_sendsOn hu, hm]
  have hout := sendTile_out (s := u) (p := r) (again := false)
    (q := { msg := (u.tileMsg j (xfSrc w) w g q t).1, job := job, node := node, flits := (u.tileMsg j (xfSrc w) w g q t).2, port := 0 })
    (by rw [hmsg, hu.routes.routePort]; exact hroute)
  dsimp only at hout ⊢
  rw [hout, hmsg]
  exact List.mem_append_right _ List.mem_cons_self

/-- The node that passed some tiles, and waits for their release. -/
def NodeSt.passing (x : NodeSt) (l : List Nat) : NodeSt :=
  { x with ran := true, passed := x.passed ++ l.map (fun t => (0, t)), sending := x.sending ++ l }

/-- Tiles that are handed over leave a node's tiles on their way, and nothing else. -/
theorem handedOver_job {s : State} {id src : Nat} {j : Job} (h : s.job? id = some j) :
    ∃ l, (s.handedOver id src).job? id = some (j.setNode src { j.node src with sending := l }) := by
  unfold State.handedOver
  rw [h]
  exact ⟨_, (job_updNode s id src _).trans (congrArg _ h)⟩

/-- Only the tiles on their way of one node differ. -/
theorem node_setSending (j : Job) (n m : Nat) (l : List Nat) :
    (j.setNode n { j.node n with sending := l }).node m =
      { j.node m with sending := ((j.setNode n { j.node n with sending := l }).node m).sending } := by
  by_cases h : m = n
  · subst h
    rw [node_setNode_same]
  · rw [node_setNode_other _ _ _ _ h]

/-- A transfer waits as long as its source is not committed whole (R641). -/
theorem sendDone_waits {s : State} {id n src : Nat} {j : Job} (h : s.job? id = some j) (hsrc : (j.node src).committed = false) :
    s.sendDone id n src = s := by
  unfold State.sendDone
  rw [h]
  refine if_neg fun hdone => ?_
  rw [hsrc] at hdone
  exact absurd hdone.1 Bool.false_ne_true

theorem exec_xfrSend {s : State} {job node w : Nat} {j : Job} {g : Grid} {q : Tensor} (hjob : s.job? job = some j)
    (hword : s.jobWord j node = some w) (hopc : wOpc w = 0x60) (hstarted : j.started = true) (hplan : j.plan.isSome = true)
    (hopen : (j.node node).committed = false) (hreach : xfDev w ∈ s.reachable) (hgrid : (j.node (xfSrc w)).grid = some g)
    (hout : (j.node (xfSrc w)).out = .tensor q) (hfold : g.fold = false) :
    exec (.xfrSend job node) s = .next ((((s.sendTiles j job node w g q (j.unsent node (xfSrc w) g)).updNode job node
      (fun x => x.passing (j.unsent node (xfSrc w) g))).handedOver job (xfSrc w)).sendDone job node (xfSrc w)) := by
  change execXfrSend job node s = _
  unfold execXfrSend
  rw [hjob]
  dsimp only
  rw [hword]
  dsimp only
  rw [if_pos ⟨hopc, hstarted, hplan, hopen⟩, if_neg (by simpa using hreach), hgrid, hout]
  dsimp only
  rw [hfold]
  rfl

/-- A transfer from a source that is not committed whole: the new tiles are passed, and the node waits. -/
theorem xfrSend_passes {s : State} {job node w : Nat} {j : Job} (g : Grid) (q : Tensor) (l : List Nat) (hjob : s.job? job = some j)
    (hsrc : (j.node (xfSrc w)).committed = false) :
    let t := (((s.sendTiles j job node w g q l).updNode job node (fun x => x.passing l)).handedOver job (xfSrc w)).sendDone job node (xfSrc w)
    t.out = (s.sendTiles j job node w g q l).out ∧
      ∃ k, t.job? job = some k ∧ k.node node = { (j.node node).passing l with sending := (k.node node).sending } := by
  dsimp only
  have hsent := sendTiles_sendsOn s j job node w g q l
  generalize s.sendTiles j job node w g q l = u at hsent ⊢
  have hupd : (u.updNode job node (fun x => x.passing l)).job? job = some (j.setNode node ((j.node node).passing l)) :=
    (job_updNode u job node _).trans (congrArg _ ((job_of hsent.jobs job).trans hjob))
  obtain ⟨m, hm⟩ := handedOver_job (src := xfSrc w) hupd
  have hopen : ((j.setNode node ((j.node node).passing l)).node (xfSrc w)).committed = false := by
    by_cases h : xfSrc w = node
    · rw [h, node_setNode_same]
      exact h ▸ hsrc
    · rw [node_setNode_other _ _ _ _ h]
      exact hsrc
  rw [sendDone_waits hm (by rw [node_setNode_same]; exact hopen)]
  have hkeeps := State.handedOver_keeps (L := 8192) (u.updNode job node (fun x => x.passing l)) job (xfSrc w) rfl (.refl _)
  refine ⟨hkeeps.parts.same .out rfl, _, hm, ?_⟩
  rw [node_setSending, node_setNode_same]

/-- Every finished tile has been passed. -/
theorem mem_passing {j : Job} {node src : Nat} {g : Grid} {p : Nat × Nat} (hp : p ∈ (j.node src).passed) (hlast : p.1 + 1 = g.passes) :
    (0, p.2) ∈ ((j.node node).passing (j.unsent node src g)).passed ∧
      ((0, p.2) ∉ (j.node node).passed → p.2 ∈ j.unsent node src g) := by
  have hunsent : (0, p.2) ∉ (j.node node).passed → p.2 ∈ j.unsent node src g := fun hnew =>
    List.mem_filter.mpr ⟨List.mem_map.mpr ⟨p, List.mem_filter.mpr ⟨hp, by simpa using hlast⟩, rfl⟩, by simpa using hnew⟩
  refine ⟨List.mem_append.mpr ?_, hunsent⟩
  by_cases h : (0, p.2) ∈ (j.node node).passed
  · exact .inl h
  · exact .inr (List.mem_map.mpr ⟨p.2, hunsent h, rfl⟩)

/-! ### Receipts and repeats (R640) -/

theorem mem_of_sentOf {s : State} {dev : Nat} {tile : TileId} {q : SentTile} (h : s.sentOf dev tile = some q) : q ∈ s.lnk.sent :=
  List.mem_of_find?_eq_some h

theorem exec_receipt {s : State} {dev : Nat} {tile : TileId} {q : SentTile} (h : s.wakeUp.sentOf dev tile = some q) :
    exec (.receipt dev tile 0) s = .next { s.wakeUp with lnk := { s.wakeUp.lnk with
      sent := s.wakeUp.lnk.sent.map (fun x => if x = q then { x with receipt := true } else x) } } := by
  change execReceipt dev tile 0 s = _
  unfold execReceipt
  dsimp only
  rw [h]
  rfl

theorem exec_ackTimeout {s : State} {dev : Nat} {tile : TileId} {q : SentTile} (h : s.sentOf dev tile = some q)
    (hreceipt : q.receipt = false) (hsends : q.sends < 4)
    (hdue : q.at_ + max 1 (s.rd Reg.LNK_TIMERS_ACK_US) * 1000 ≤ s.time.mono) :
    exec (.ackTimeout dev tile) s = .next (s.sendTile q true) := by
  change execAckTimeout dev tile s = _
  unfold execAckTimeout
  rw [h]
  dsimp only
  rw [if_neg (by simp only [hreceipt, Bool.false_eq_true, false_or]; omega), if_pos hsends]

/-! ### Releases (R641) -/

/-- The tile is no longer among those sent. -/
def State.forget (s : State) (q : SentTile) : State := { s with lnk := { s.lnk with sent := s.lnk.sent.erase q } }

theorem exec_releaseTile {s : State} {dev : Nat} {tile : TileId} {q : SentTile} (h : s.wakeUp.sentOf dev tile = some q) :
    exec (.releaseTile dev tile) s = .next (s.wakeUp.placeFree q) := by
  change execReleaseTile dev tile s = _
  unfold execReleaseTile
  dsimp only
  rw [h]

theorem placeFree_of_job {s : State} {q : SentTile} {j : Job} {w : Nat} (hjob : s.job? q.job = some j) (hword : s.jobWord j q.node = some w) :
    s.placeFree q = ((s.forget q).updNode q.job q.node (fun y => { y with sending := y.sending.erase q.msg.id.tile })).sendDone
      q.job q.node (xfSrc w) := by
  unfold State.placeFree
  dsimp only
  rw [show State.job? { s with lnk := { s.lnk with sent := s.lnk.sent.erase q } } q.job = some j from hjob]
  dsimp only
  rw [show State.jobWord (State.updNode { s with lnk := { s.lnk with sent := s.lnk.sent.erase q } } q.job q.node
    (fun y => { y with sending := y.sending.erase q.msg.id.tile })) j q.node = some w from hword]
  rfl

/-- The place of a tile of no job in flight. -/
theorem placeFree_of_none {s : State} {q : SentTile} (h : s.job? q.job = none) : s.placeFree q = s.forget q := by
  unfold State.placeFree
  dsimp only
  rw [show State.job? { s with lnk := { s.lnk with sent := s.lnk.sent.erase q } } q.job = none from h]
  rfl

/-- A release while the source is not committed whole. -/
theorem placeFree_waits {s : State} {q : SentTile} {j : Job} {w : Nat} (hjob : s.job? q.job = some j) (hword : s.jobWord j q.node = some w)
    (hsrc : (j.node (xfSrc w)).committed = false) :
    (s.placeFree q).lnk.sent = s.lnk.sent.erase q ∧
      ∃ k, (s.placeFree q).job? q.job = some k ∧ (k.node q.node).sending = (j.node q.node).sending.erase q.msg.id.tile := by
  rw [placeFree_of_job hjob hword]
  have hupd : ((s.forget q).updNode q.job q.node (fun y => { y with sending := y.sending.erase q.msg.id.tile })).job? q.job =
      some (j.setNode q.node { j.node q.node with sending := (j.node q.node).sending.erase q.msg.id.tile }) :=
    (job_updNode _ _ _ _).trans (congrArg _ hjob)
  rw [sendDone_waits hupd (by rw [node_setSending]; exact hsrc)]
  exact ⟨rfl, _, hupd, by rw [node_setNode_same]⟩

/-! ### What is sent only becomes fewer -/

/-- The tiles sent and not released are those of before, or fewer of them. -/
structure FewerSent (s t : State) : Prop where
  sent : t.lnk.sent.Sublist s.lnk.sent

theorem FewerSent.refl (s : State) : FewerSent s s := ⟨.refl _⟩

theorem FewerSent.trans {s t u : State} (h : FewerSent s t) (k : FewerSent t u) : FewerSent s u := ⟨k.sent.trans h.sent⟩

theorem FewerSent.of_lnk {s t : State} (h : t.lnk.sent = s.lnk.sent) : FewerSent s t := ⟨by rw [h]⟩

/-- An operation that keeps what is behind Ranlink's registers. -/
theorem Keeps.fewerSent {L : Nat} {s t : State} (h : Keeps L s t) (hlnk : L.testBit 20 = false) : FewerSent s t :=
  .of_lnk (congrArg LnkSt.sent (h.parts.same .lnk hlnk))

theorem FewerSent.foldl {α : Type} {f : State → α → State} (hf : ∀ s x, FewerSent s (f s x)) (l : List α) (s : State) :
    FewerSent s (l.foldl f s) := by
  induction l generalizing s with
  | nil => exact .refl s
  | cons x l ih => exact (hf s x).trans (ih _)

theorem releaseTile_lnk (s : State) (h : HeldTile) :
    (s.releaseTile h).lnk.sent = s.lnk.sent ∧ (s.releaseTile h).lnk.heldTiles = s.lnk.heldTiles.erase h ∧
      Out.release h.msg.id.src h.msg.id ∈ (s.releaseTile h).out := by
  unfold State.releaseTile
  dsimp only
  generalize hu : ({ s with lnk := { s.lnk with heldTiles := s.lnk.heldTiles.erase h, taken := keepTaken h.msg.id s.lnk.taken } } : State) = u
  have hfree := State.freeAll_keeps (L := 9043995) u h.bufs.1 h.bufs.2 rfl (.refl u)
  have hanswer := answerTile_answered (u.freeAll h.bufs.1 h.bufs.2) h.msg.id.src h.msg.id.tile (Out.release h.msg.id.src h.msg.id)
  have hlnk : (u.freeAll h.bufs.1 h.bufs.2).lnk = u.lnk := hfree.parts.same .lnk rfl
  refine ⟨?_, ?_, ?_⟩
  · rw [hanswer.sent, hlnk, ← hu]
  · rw [hanswer.held, hlnk, ← hu]
  · rw [hanswer.out]
    exact List.mem_append_right _ List.mem_cons_self

theorem releaseTile_fewerSent (s : State) (h : HeldTile) : FewerSent s (s.releaseTile h) := .of_lnk (releaseTile_lnk s h).1

theorem releaseWhole_fewerSent (s : State) (id : Nat) : FewerSent s (s.releaseWhole id) := by
  unfold State.releaseWhole
  split
  · exact .refl s
  · refine .foldl (fun t h => ?_) _ s
    dsimp only
    split
    · exact .refl t
    · exact ite_both (P := FewerSent t) (releaseTile_fewerSent t h) (.refl t)

theorem FewerSent.of_filter {s t : State} (p : SentTile → Bool) (h : t.lnk.sent = s.lnk.sent.filter p) : FewerSent s t :=
  ⟨h ▸ List.filter_sublist⟩

/-- A job that ends takes its tiles with it. -/
theorem lnkEnd_fewerSent (s : State) (j : Job) : FewerSent s (s.lnkEnd j) := by
  have hreleased := FewerSent.foldl releaseTile_fewerSent (s.lnk.heldTiles.filter fun h => h.job == some j.id) s
  unfold State.lnkEnd
  dsimp only
  refine hreleased.trans ?_
  split
  · exact ite_both (P := FewerSent _) (.of_filter _ rfl) (.of_filter _ rfl)
  · exact .of_filter _ rfl

theorem endJob_fewerSent (s : State) (j : Job) : FewerSent s (s.endJob j) := by
  have hsets : Keeps 66060287 s (j.sets.foldl (fun s x => s.freeAll x.bufs.1 x.bufs.2) s) :=
    Keeps.foldl (.refl s) fun t x ht => State.freeAll_keeps t x.bufs.1 x.bufs.2 rfl ht
  have hplan := (((State.unpin_keeps _ j.id rfl hsets).fewerSent rfl).trans (lnkEnd_fewerSent _ j)).trans
    ((State.freePlan_keeps (L := 66060287) _ j rfl (.refl _)).fewerSent rfl)
  have hframe : ∀ (t : State) (st n : Nat), FewerSent t ((t.dropPic st n).settle st).pruneBatches := fun t st n =>
    (State.pruneBatches_keeps (L := 66060287) _ rfl (State.settle_keeps _ st rfl (State.dropPic_keeps t st n rfl (.refl t)))).fewerSent rfl
  have hdone : ∀ (t : State) (i : Option Nat) (code : Nat), FewerSent t (match i with
      | some i =>
        match t.cmd? i with
        | some c => if c.ended then t else t.done c code
        | none => t
      | none => t) := fun t i code => by
    split
    · split
      · exact ite_both (P := FewerSent t) (.refl t) ((State.done_keeps (L := 6) t _ code rfl (.refl t)).fewerSent rfl)
      · exact .refl t
    · exact .refl t
  have hgone : ∀ (t : State) (l : List Job), FewerSent t { t with jobs := l } := fun t l => .of_lnk rfl
  have hended := fun l i code => (hplan.trans (hgone _ l)).trans (hdone _ i code)
  unfold State.endJob
  dsimp only
  split
  · exact (hended _ _ _).trans (hframe _ _ _)
  · exact hended _ _ _

theorem tryEnd_fewerSent (s : State) (id : Nat) : FewerSent s (s.tryEnd id) := by
  unfold State.tryEnd
  split
  · exact .refl s
  · refine ite_both (P := FewerSent s) ?_ (.refl s)
    split
    · exact endJob_fewerSent s _
    · exact ite_both (P := FewerSent s) (.of_lnk rfl)
        (((State.adaptEnd_keeps (L := 65536) s _ rfl (.refl s)).fewerSent rfl).trans (endJob_fewerSent _ _))

theorem commitNode_fewerSent (s : State) (id n : Nat) (out : NodeOut) : FewerSent s (s.commitNode id n out) := by
  have hreleased : ∀ t : State, FewerSent t (t.released id) := fun t =>
    ((((State.releasePic_keeps (L := 66060287) t id rfl (.refl t)).fewerSent rfl).trans (releaseWhole_fewerSent _ id)).trans
      ((State.releasePlan_keeps (L := 66060287) _ id rfl (.refl _)).fewerSent rfl)).trans
      ((State.seatNodes_keeps (L := 66060287) _ id rfl (.refl _)).fewerSent rfl)
  unfold State.commitNode
  dsimp only
  refine (FewerSent.trans ?_ (hreleased _)).trans (tryEnd_fewerSent _ id)
  exact .of_lnk rfl

theorem sendDone_fewerSent (s : State) (id n src : Nat) : FewerSent s (s.sendDone id n src) := by
  unfold State.sendDone
  split
  · exact .refl s
  · exact ite_both (P := FewerSent s) (commitNode_fewerSent _ _ _ _) (.refl s)

/-- A place that is free is one tile fewer at least. -/
theorem placeFree_fewerSent (s : State) (q : SentTile) : FewerSent (s.forget q) (s.placeFree q) := by
  unfold State.placeFree
  dsimp only
  split
  · exact .refl _
  · split
    · refine FewerSent.trans ?_ (sendDone_fewerSent _ _ _ _)
      exact .of_lnk rfl
    · exact .of_lnk rfl

/-! ### A receiver that stays lost (R641) -/

/-- Places of some sent tiles that are free: of the tiles sent none but others are left. -/
theorem placesFree_sublist (l : List SentTile) (s : State) : (l.foldl State.placeFree s).lnk.sent.Sublist (s.lnk.sent.diff l) := by
  induction l generalizing s with
  | nil => exact .refl _
  | cons q l ih =>
    rw [List.diff_cons]
    exact (ih (s.placeFree q)).trans ((placeFree_fewerSent s q).sent.diff_right)

/-- While no job of theirs is in flight, exactly these tiles go. -/
theorem placesFree_of_none (l : List SentTile) {s : State} (h : ∀ q ∈ l, s.job? q.job = none) :
    (l.foldl State.placeFree s).lnk.sent = s.lnk.sent.diff l := by
  induction l generalizing s with
  | nil => rfl
  | cons q l ih =>
    rw [List.diff_cons, List.foldl_cons, placeFree_of_none (h q List.mem_cons_self)]
    exact ih fun x hx => h x (List.mem_cons_of_mem q hx)

/-- Without the elements of a kind, none of that kind is left. -/
theorem not_of_mem_diff_filter {l : List SentTile} {p : SentTile → Bool} {x : SentTile} (h : x ∈ l.diff (l.filter p)) :
    x ∈ l ∧ p x = false := by
  have hmem : x ∈ l := List.diff_subset _ _ h
  refine ⟨hmem, Bool.eq_false_iff.mpr fun hp => ?_⟩
  have hcount := List.count_diff x l (l.filter p)
  rw [List.count_filter hp, Nat.sub_self] at hcount
  exact absurd h (List.count_eq_zero.mp hcount)

/-- The loss is recorded, and the places of the tiles that `dev` had acknowledged are free. -/
theorem exec_rejoinTimeout {s : State} {dev lost : Nat} (hgone : dev ∉ s.reachable)
    (hheld : ∃ x ∈ s.lnk.sent, x.msg.dst = dev ∧ x.receipt = true) (hlost : (dev, lost) ∈ s.lnk.lostAt)
    (hdue : lost + s.rd Reg.LNK_TIMERS_REJOIN_MS * 10 ^ 6 ≤ s.time.mono) :
    ∃ ch, exec (.rejoinTimeout dev) s = .next ((s.lnk.sent.filter (fun t => t.msg.dst == dev && t.receipt)).foldl State.placeFree
      ((s.lnkErr 7 0x0C05 dev ch).devError 0x0C05 dev ch)) := by
  have hsome : (s.lnk.sent.filter (fun t => t.msg.dst == dev && t.receipt)).isEmpty = false := by
    obtain ⟨x, hx, hdst, hreceipt⟩ := hheld
    refine List.isEmpty_eq_false_iff_exists_mem.mpr ⟨x, List.mem_filter.mpr ⟨hx, ?_⟩⟩
    simp only [hdst, hreceipt, beq_self_eq_true, Bool.and_self]
  have htime : s.lnk.lostAt.any (fun q => q.1 == dev && decide (q.2 + s.rd Reg.LNK_TIMERS_REJOIN_MS * 10 ^ 6 ≤ s.time.mono)) = true :=
    List.any_eq_true.mpr ⟨_, hlost, by simpa using hdue⟩
  change ∃ ch, execRejoinTimeout dev s = _
  unfold execRejoinTimeout
  exact ⟨_, if_pos ⟨by simpa using hgone, hsome, htime⟩⟩

theorem lossRecorded_keeps (s : State) (dev ch : Nat) : Keeps 8388635 s ((s.lnkErr 7 0x0C05 dev ch).devError 0x0C05 dev ch) :=
  State.devError_keeps _ _ _ _ _ _ rfl (State.lnkErr_keeps s 7 0x0C05 dev ch rfl (.refl s))

end Sys2Proof.Machine
end

section
/-! SUPPORT. Transfers at the receiving device: tiles that arrive and wait, receive nodes and their fallback, and remote responses. -/

set_option Elab.async false

namespace Sys2Proof.Machine

/-! ### A draw leaves the topology alone (R571) -/

/-- LNK_TOPO is the same. -/
structure SameTopo (s t : State) : Prop where
  reg : t.reg Reg.LNK_TOPO = s.reg Reg.LNK_TOPO

theorem SameTopo.refl (s : State) : SameTopo s s := ⟨rfl⟩

theorem SameTopo.trans {s t u : State} (h : SameTopo s t) (k : SameTopo t u) : SameTopo s u := ⟨k.reg.trans h.reg⟩

theorem SameTopo.of_regs {s t : State} (h : t.regs = s.regs) : SameTopo s t := ⟨by
  unfold State.reg
  rw [h]⟩

theorem SameTopo.keeps {L : Nat} {s t : State} (h : Keeps L s t) (hregs : L.testBit 0 = false) : SameTopo s t :=
  .of_regs (h.parts.same .regs hregs)

theorem SameTopo.setReg {s t : State} (h : SameTopo s t) {a : Nat} (v : BitVec 32) (ha : a < 0x1C00000) : SameTopo s (t.setReg a v) :=
  h.trans ⟨reg_setReg_other _ _ _ _ (by simp only [Reg.LNK_TOPO]; omega)⟩

theorem SameTopo.wr {s t : State} (h : SameTopo s t) {f : RegField} (v : Nat) (hf : f.addr < 0x1C00000) : SameTopo s (t.wr f v) :=
  h.setReg _ hf

theorem SameTopo.poolErr {s t : State} (h : SameTopo s t) (code wh d0 d1 : Nat) : SameTopo s (t.poolErr code wh d0 d1) :=
  h.trans ⟨(poolErr_records t code wh d0 d1).reg _ (by decide) (by decide) (by decide)⟩

theorem SameTopo.devError {s t : State} (h : SameTopo s t) (code d0 d1 : Nat) : SameTopo s (t.devError code d0 d1) :=
  h.trans ⟨reg_devError t code d0 d1 9 0xFF _ (by decide)⟩

theorem SameTopo.poolNote {s t : State} (h : SameTopo s t) {c : Nat} (hc : c < 8) : SameTopo s (t.poolNote c) := by
  have hhead : Reg.POOL_CLS_HEADROOM c < 0x1C00000 := by simp only [Reg.POOL_CLS_HEADROOM]; omega
  have hstatus : Reg.POOL_CLS_STATUS c < 0x1C00000 := by simp only [Reg.POOL_CLS_STATUS]; omega
  have hwaiters : Reg.POOL_CLS_WAITERS c < 0x1C00000 := by simp only [Reg.POOL_CLS_WAITERS]; omega
  have hpool : ∀ (u : State) (x : PoolCls), SameTopo u (u.setPool c x) := fun u x => .of_regs rfl
  have hcnt : ∀ (u : State) (i k : Nat), SameTopo u (u.cnt i k) := fun u i k => .of_regs rfl
  have hnoted : ∀ a b d e, SameTopo s ((((t.setReg (Reg.POOL_CLS_HEADROOM c) a).wr (Reg.POOL_CLS_STATUS_BP c) b).wr
      (Reg.POOL_CLS_STATUS_CACHED c) d).wr (Reg.POOL_CLS_WAITERS_COUNT c) e) := fun _ _ _ _ =>
    (((h.setReg _ hhead).wr _ hstatus).wr _ hstatus).wr _ hwaiters
  unfold State.poolNote
  dsimp only
  split
  · exact ((((hnoted _ _ _ _).wr _ hstatus).trans (hcnt _ _ _)).poolErr _ _ _ _ |>.trans (hpool _ _)).devError _ _ _
  · exact ite_both (P := SameTopo s) ((hnoted _ _ _ _).trans (hpool _ _)) (hnoted _ _ _ _)

theorem drawNow_topo (s : State) (o : Nat) {c : Nat} (n svc : Nat) (ho : o < 32) (hc : c < 8) : SameTopo s (s.drawNow o c n svc).1 := by
  have hfree : Reg.POOL_CLS_FREE c < 0x1C00000 := by simp only [Reg.POOL_CLS_FREE]; omega
  have hheld : Reg.POOL_OWN_HELD o c < 0x1C00000 := by simp only [Reg.POOL_OWN_HELD]; omega
  have hdraws : ∀ (l : List Nat) (x : State × List Nat), SameTopo x.1 (l.foldl (fun (x : State × List Nat) _ =>
      ((x.1.drawOne o c svc).1, x.2 ++ (x.1.drawOne o c svc).2.toList)) x).1 := fun l => by
    induction l with
    | nil => exact fun x => .refl x.1
    | cons _ l ih => exact fun x =>
        (SameTopo.keeps (State.drawOne_keeps (L := 9043968) x.1 o c svc rfl (.refl _)) rfl).trans (ih (_, _))
  have hdrawn := hdraws (List.range n) (s, [])
  have hcnt : ∀ (u : State) (i k m : Nat), SameTopo u (u.cnt i k m) := fun u i k m => .of_regs rfl
  have hpeak : ∀ (u : State) (k v : Nat), SameTopo u (u.peak k v) := fun u k v => .of_regs rfl
  unfold State.drawNow
  dsimp only
  generalize List.foldl _ (s, []) (List.range n) = r at hdrawn
  exact ((((((hdrawn.wr _ hfree).wr _ hheld).trans (hcnt _ _ _ _)).trans (hcnt _ _ _ _)).trans (hpeak _ _ _)).trans (hpeak _ _ _)).poolNote hc

theorem draw_topo (s : State) {o c : Nat} (n svc ticket : Nat) (fails : Bool) (ho : o < 32) (hc : c < 8) :
    SameTopo s (s.draw o c n svc ticket fails).1 := by
  have hcnt : ∀ (u : State) (i k : Nat), SameTopo u (u.cnt i k) := fun u i k => .of_regs rfl
  have htie : SameTopo s (if fails then s else s.tieWon o c ticket) :=
    ite_both (P := SameTopo s) (.refl s) (.keeps (State.tieWon_keeps (L := 131072) s o c ticket rfl (.refl s)) rfl)
  unfold State.draw
  split
  · dsimp only
    exact htie.trans (drawNow_topo _ o n svc ho hc)
  · split
    · dsimp only
      exact ((hcnt s _ _).trans (hcnt _ _ _)).poolErr _ _ _ _
    · exact .refl s

/-- A buffer is of one of the 8 classes. -/
theorem poolFit_lt (b : Nat) : (poolFit b).1 < 8 := by
  unfold poolFit
  split
  next c h => exact List.mem_range.mp (List.mem_of_find?_eq_some h)
  · exact Nat.lt_succ_self 7

/-! ### A tile that waits for a job (R640, R643) -/

/-- A tile that no job takes, on the channel of a node that does not start its route, waits and is acknowledged. -/
theorem takeTile_waits {s : State} {h : HeldTile} {q : Nat × Nat × Nat × Nat} (hnode : q.2.2.1 ≠ 0)
    (hnone : ∀ j ∈ s.jobs, j.prog = q.1 → j.route = q.2.1 → s.tileFor j h.msg.id = false) :
    h ∈ (s.takeTile h q).lnk.heldTiles ∧ Out.receipt h.msg.id.src h.msg.id 0 ∈ (s.takeTile h q).out := by
  unfold State.takeTile
  extract_lets m l s1 s2
  have hanswer := answerTile_answered s1 m.id.src m.id.tile (Out.receipt m.id.src m.id 0)
  have hkeeps := State.answerTile_keeps (L := 34603009) s1 m.id.src m.id.tile (Out.receipt m.id.src m.id 0) rfl (.refl s1)
  have hjobs : s2.jobs = s.jobs := hkeeps.parts.same .jobs rfl
  have hdev : s2.myDev = s.myDev := hanswer.routes.myDev
  have hfind : s2.jobs.find? (fun j => j.prog == q.1 && j.route == q.2.1 && s2.tileFor j m.id) = none := by
    rw [List.find?_eq_none, hjobs]
    intro j hj
    rw [tileFor_of_myDev hdev]
    simp only [Bool.and_eq_true, beq_iff_eq, not_and, Bool.not_eq_true]
    exact fun hpr => hnone j hj hpr.1 hpr.2
  rw [hfind]
  dsimp only
  rw [if_neg hnode]
  have hheld : s2.lnk.heldTiles = s.lnk.heldTiles ++ [h] := hanswer.held
  have hout : s2.out = s.out ++ [Out.receipt m.id.src m.id 0] ++ [Out.credits h.port 1 (flitsOf (m.data.length + m.scales.length))] :=
    congrArg (· ++ _) hanswer.out
  rw [hheld, hout]
  exact ⟨List.mem_append_right _ List.mem_cons_self, List.mem_append_left _ (List.mem_append_right _ List.mem_cons_self)⟩

theorem exec_tileArrival {s u : State} {port : Nat} {m : TileMsg} {q : Nat × Nat × Nat × Nat} {f : Nat × Nat} {l : List Nat}
    (hdst : m.dst = s.wakeUp.myDev) (hnew : s.wakeUp.taken? m.id = false) (hlive : m.id ∉ s.wakeUp.lnk.superseded)
    (hrecv : s.wakeUp.recvFor m.id.src m.id.channel = some q)
    (hf : f = poolFit (max 1 (m.rows * cdiv (m.cols * (if m.wire = 1 then 8 else fmtBits (xfOfmt q.2.2.2))) 8 + m.scales.length)))
    (hdraw : s.wakeUp.draw 7 f.1 f.2 m.svc s.wakeUp.ticketNow true = (u, some l)) :
    exec (.tileArrival port m) s =
      .next (u.takeTile { msg := m, job := none, port := port, bufs := (f.1, l), at_ := s.wakeUp.time.mono } q) := by
  subst hf
  change execTileArrival port m s = _
  unfold execTileArrival
  dsimp only
  rw [if_neg (not_not_intro hdst), if_neg (by rw [hnew]; exact Bool.false_ne_true), if_neg (by simpa using hlive), hrecv]
  dsimp only
  rw [hdraw]

theorem exec_orphanTimeout {s : State} {tile : TileId} {h : HeldTile}
    (hfind : s.lnk.heldTiles.find? (fun h => h.msg.id == tile && h.job.isNone) = some h)
    (hdue : h.at_ + s.rd Reg.LNK_ORPHAN_MS_ORPHAN_MS * 10 ^ 6 ≤ s.time.mono) :
    exec (.orphanTimeout tile) s = .next (((s.cnt 0x0C05 h.port).lnkErr h.port 0x0C08).releaseTile h) := by
  change execOrphanTimeout tile s = _
  unfold execOrphanTimeout
  rw [hfind]
  exact if_pos hdue

/-! ### Receive nodes (R643, R645) -/

/-- From `j` to `k` a receive node that has all its tiles commits, and keeps its grid. -/
structure Receives (n : Nat) (j k : Job) : Prop where
  flags : k.flags = j.flags
  grid : (k.node n).grid = (j.node n).grid
  ran : (j.node n).ran = true → (k.node n).ran = true
  committed : ∀ g, (j.node n).grid = some g → (∀ t, t < g.count → (0, t) ∈ (j.node n).passed) → (k.node n).committed = true

theorem recvDone_receives {s : State} {id n : Nat} {j : Job} (hjob : s.job? id = some j) (hopen : openBeside s j n) :
    ∃ k, (s.recvDone id n).job? id = some k ∧ Receives n j k := by
  unfold State.recvDone
  rw [hjob]
  dsimp only
  split
  next hgrid => exact ⟨j, hjob, rfl, rfl, fun h => h, fun g hg => absurd (hgrid.symm.trans hg) nofun⟩
  next g hgrid =>
    split
    · obtain ⟨-, k, on, hk, hresult⟩ := commitNode_open (j.node n).out hjob hopen
      obtain ⟨l, hl, hwork⟩ := wake_work _ id k hk
      have hnode := hresult.node n
      rw [node_setNode_same] at hnode
      refine ⟨l, hl, by rw [hwork.eq, hresult.eq]; rfl, ?_, fun _ => ?_, fun _ _ _ => ?_⟩ <;> rw [hwork.node n, hnode]
    next hwaits =>
      refine ⟨j, hjob, rfl, rfl, fun h => h, fun g' hg hall => ?_⟩
      obtain rfl : g = g' := Option.some.inj (hgrid.symm.trans hg)
      by_contra hcommitted
      refine hwaits ⟨Bool.eq_false_iff.mpr hcommitted, List.all_eq_true.mpr fun t ht => ?_⟩
      simpa using hall t (List.mem_range.mp ht)

/-- A receive node whose grid is open for COUNT samples (R290, R652). -/
def NodeSt.receiving (x : NodeSt) (g : Grid) (q : Tensor) (c : Nat) : NodeSt :=
  { x with ran := true, remote := true, grid := some g, out := .tensor q, count := c, own := List.range c }

theorem exec_xfrRecv {s : State} {job node w : Nat} {j : Job} (hnode : s.nodeFor job node 0x61 = some (j, w))
    (hreach : xfDev w ∈ s.reachable) (hheld : s.lnk.heldTiles = []) :
    ∃ q, exec (.xfrRecv job node) s = .next ((s.updNode job node (fun x =>
      x.receiving (recvGrid (s.descOf j.prog (xfSrc w)) (j.count.getD 1)) q (j.count.getD 1))).recvDone job node) := by
  generalize hv : exec (.xfrRecv job node) s = v
  change execXfrRecv job node s = v at hv
  unfold execXfrRecv at hv
  rw [hnode] at hv
  dsimp -zeta only at hv
  rw [if_neg (by simp [hreach])] at hv
  extract_lets d c g q s1 mine at hv
  have hmine : mine = [] := by
    change List.filter _ s.lnk.heldTiles = []
    rw [hheld]
    rfl
  rw [hmine] at hv
  exact ⟨q, hv.symm⟩

/-- From `j` to `k` a receive node was given some tiles, by fallback. -/
structure Supplied (n : Nat) (g : Grid) (l : List Nat) (j k : Job) : Prop where
  flags : k.flags = j.flags
  beside : SameBeside n j k
  grid : (k.node n).grid = some g
  out : ∃ q, (k.node n).out = .tensor q
  passed : ∀ p, p ∈ (j.node n).passed ∨ p ∈ l.map (fun t => (0, t)) → p ∈ (k.node n).passed

theorem fallTile_supplied {s : State} {id n w t : Nat} {j : Job} {g : Grid} {q : Tensor} (hjob : s.job? id = some j)
    (hgrid : (j.node n).grid = some g) (hout : (j.node n).out = .tensor q) :
    ∃ k, (s.fallTile id n w t).job? id = some k ∧ Supplied n g [t] j k := by
  have hupd : ∀ (r : Tensor) (u : State),
      u.jobs = (s.updNode id n (fun x => { x with out := .tensor r, passed := x.passed ++ [(0, t)] })).jobs →
      ∃ k, u.job? id = some k ∧ Supplied n g [t] j k := fun r u hu =>
    ⟨_, (job_of hu id).trans ((job_updNode s id n _).trans (congrArg _ hjob)), rfl, .setNode j n _, by rw [node_setNode_same]; exact hgrid,
      ⟨r, by rw [node_setNode_same]⟩, fun p hp => by
        rw [node_setNode_same]
        exact List.mem_append.mpr hp⟩
  unfold State.fallTile
  rw [hjob]
  dsimp only
  rw [hgrid, hout]
  exact ite_both (P := fun u : State => ∃ k, u.job? id = some k ∧ Supplied n g [t] j k) (hupd _ _ rfl) (hupd _ _ rfl)

theorem Supplied.cons {n : Nat} {g : Grid} {t : Nat} {l : List Nat} {j k m : Job} (h : Supplied n g [t] j k) (h' : Supplied n g l k m) :
    Supplied n g (t :: l) j m where
  flags := h'.flags.trans h.flags
  beside := h.beside.trans h'.beside
  grid := h'.grid
  out := h'.out
  passed p hp := by
    rcases hp with hp | hp
    · exact h'.passed p (.inl (h.passed p (.inl hp)))
    · rcases List.mem_cons.mp hp with rfl | hp
      · exact h'.passed _ (.inl (h.passed _ (.inr List.mem_cons_self)))
      · exact h'.passed p (.inr hp)

theorem fallTiles_supplied {id n w : Nat} {g : Grid} (l : List Nat) {s : State} {j : Job} {q : Tensor} (hjob : s.job? id = some j)
    (hgrid : (j.node n).grid = some g) (hout : (j.node n).out = .tensor q) :
    ∃ k, (l.foldl (fun s t => s.fallTile id n w t) s).job? id = some k ∧ Supplied n g l j k := by
  induction l generalizing s j q with
  | nil => exact ⟨j, hjob, rfl, ⟨rfl, rfl, fun _ _ => rfl⟩, hgrid, ⟨q, hout⟩, fun p hp => hp.resolve_right List.not_mem_nil⟩
  | cons t l ih =>
    obtain ⟨k, hk, hsupplied⟩ := fallTile_supplied (w := w) (t := t) hjob hgrid hout
    obtain ⟨r, hr⟩ := hsupplied.out
    obtain ⟨m, hm, hrest⟩ := ih hk hsupplied.grid hr
    exact ⟨m, hm, hsupplied.cons hrest⟩

/-- The job's pennants carry STALE_NEIGHBOUR. -/
def Job.markStale (j : Job) : Job := { j with flags := j.flags ||| 4 }

/-- The tiles of a receive node that have not come. -/
def NodeSt.missing (x : NodeSt) (g : Grid) : List Nat := (List.range g.count).filter (fun t => !x.passed.contains (0, t))

theorem exec_fallbackTimeout {s : State} {job node w : Nat} {j : Job} {g : Grid} (hjob : s.job? job = some j)
    (hword : s.jobWord j node = some w) (hgrid : (j.node node).grid = some g) (hopc : wOpc w = 0x61) (hfallback : xfFallback w = true)
    (hopen : (j.node node).committed = false) (hstale : s.halfStale j = true) :
    exec (.fallbackTimeout job node) s = .next ((((j.node node).missing g).foldl (fun s t => s.fallTile job node w t)
      (s.updJob job Job.markStale)).recvDone job node) := by
  change execFallbackTimeout job node s = _
  unfold execFallbackTimeout
  rw [hjob]
  dsimp only
  rw [hword, hgrid]
  exact if_pos ⟨hopc, hfallback, hopen, hstale⟩

/-- A receive node that falls back has every tile, and its job is marked. -/
theorem fallbackTimeout_receives {s : State} {job node w : Nat} {j : Job} {g : Grid} {q : Tensor} (hjob : s.job? job = some j)
    (hgrid : (j.node node).grid = some g) (hout : (j.node node).out = .tensor q) (hopen : openBeside s j node) :
    ∃ k, ((((j.node node).missing g).foldl (fun s t => s.fallTile job node w t)
      (s.updJob job Job.markStale)).recvDone job node).job? job = some k ∧
      k.flags = j.flags ||| 4 ∧ (k.node node).committed = true := by
  have hmark : (s.updJob job Job.markStale).job? job = some j.markStale :=
    (job_updJob s job Job.markStale (fun _ h => h)).trans (congrArg _ hjob)
  obtain ⟨k, hk, hsupplied⟩ := fallTiles_supplied (w := w) ((j.node node).missing g) hmark hgrid hout
  have hkeeps : Keeps 9445376 s (((j.node node).missing g).foldl (fun s t => s.fallTile job node w t)
      (s.updJob job Job.markStale)) :=
    Keeps.foldl (State.updJob_keeps s job _ rfl (.refl s)) fun t _ ht => State.fallTile_keeps t _ _ _ _ rfl ht
  obtain ⟨m, hm, hreceives⟩ := recvDone_receives hk (openBeside_of_beside hopen (hkeeps.parts.same .progs rfl)
    (SameBeside.trans (k := j.markStale) ⟨rfl, rfl, fun _ _ => rfl⟩ hsupplied.beside))
  refine ⟨m, hm, hreceives.flags.trans hsupplied.flags, hreceives.committed g hsupplied.grid fun t ht => hsupplied.passed _ ?_⟩
  by_cases h : (0, t) ∈ (j.node node).passed
  · exact .inl h
  · exact .inr (List.mem_map.mpr ⟨t, List.mem_filter.mpr ⟨List.mem_range.mpr ht, by simpa using h⟩, rfl⟩)

/-! ### Remote responses (R557) -/

theorem updFirst_of_any {α : Type} {p : α → Bool} (f : α → α) {l : List α} (h : l.any p = true) :
    ∃ x, p x = true ∧ f x ∈ updFirst p f l := by
  induction l with
  | nil => exact absurd h Bool.false_ne_true
  | cons y l ih =>
    unfold updFirst
    by_cases hy : p y = true
    · rw [if_pos hy]
      exact ⟨y, hy, List.mem_cons_self⟩
    · rw [if_neg hy]
      obtain ⟨x, hx, hmem⟩ := ih (by simpa [hy] using h)
      exact ⟨x, hx, List.mem_cons_of_mem y hmem⟩

/-- The tag waits for its response, and what its tile job reads has come. -/
def State.tagDue (s : State) (tag : Nat) (q : RemoteTag) : Bool := q.tag == tag && !q.arrived && !q.parked && s.remoteHere q.tj

theorem exec_remoteResponse {s : State} {c tag : Nat} (hsaving : (s.core c).saving = none) (hdue : (s.core c).tags.any (s.tagDue tag) = true) :
    exec (.remoteResponse c tag) s = .next ((s.setCore c { s.core c with
      tags := updFirst (s.tagDue tag) (fun q => { q with arrived := true }) (s.core c).tags }).note c) := by
  change execRemoteResponse c tag s = _
  unfold execRemoteResponse
  dsimp only
  rw [hsaving]
  exact if_pos hdue

end Sys2Proof.Machine
end

section
/-! SUPPORT. Collectives: the start of one, and a broadcast chunk that is stored (R389, R647). -/

set_option Elab.async false

namespace Sys2Proof.Machine

/-- The collective of a node, as it starts. -/
def collStart (job node w : Nat) (j : Job) (q : Tensor) : Coll :=
  { job := job, node := node, jobId := j.jobId, step := j.pass, channel := xfChannel w, group := xfGroup w, cols := q.cols, unit := q.unit
    own := q.rows.flatten }

theorem exec_xfrColl {s : State} {job node w : Nat} {j : Job} {q : Tensor} (hnode : s.nodeFor job node 0x62 = some (j, w))
    (hsrc : (j.node (xfSrc w)).committed = true) (hout : (j.node (xfSrc w)).out = .tensor q)
    (hreach : ∀ d ∈ s.collRing (xfGroup w), d ∈ s.reachable) (hearly : s.lnk.early = []) :
    ∃ t, exec (.xfrColl job node) s = .next t ∧ t.lnk.colls = s.lnk.colls ++ [collStart job node w j q] ∧
      ∃ k, t.job? job = some k ∧ (k.node node).ran = true := by
  have hring : (s.collRing (xfGroup w)).all (fun d => s.reachable.contains d) = true :=
    List.all_eq_true.mpr fun d hd => by simpa using hreach d hd
  generalize hv : exec (.xfrColl job node) s = v
  change execXfrColl job node s = v at hv
  unfold execXfrColl at hv
  rw [hnode] at hv
  dsimp -zeta only at hv
  extract_lets _ _ n first s1 _ at hv
  rw [hsrc, hout] at hv
  dsimp -zeta only at hv
  rw [if_neg (by rw [hring]; exact Bool.noConfusion)] at hv
  extract_lets _ wire s2 s3 mine _ s4 at hv
  obtain ⟨l, hl⟩ := sendChunk_lnk s2 (s.collRing (xfGroup w))
    { job := j.jobId, step := j.pass, channel := xfChannel w, chunk := first, reduce := true, hops := 1, data := wire.1, scales := wire.2 }
  have hmine : mine = [] := by
    change List.filter _ s3.lnk.early = []
    rw [show s3.lnk = _ from hl]
    change List.filter _ s.lnk.early = []
    rw [hearly]
    rfl
  rw [hmine] at hv
  refine ⟨s4, hv.symm, ?_, ?_⟩
  · change s3.lnk.colls = _
    rw [show s3.lnk = _ from hl]
    rfl
  · have hsent := State.sendChunk_keeps (L := 34603009) s2 (s.collRing (xfGroup w))
      { job := j.jobId, step := j.pass, channel := xfChannel w, chunk := first, reduce := true, hops := 1, data := wire.1, scales := wire.2 }
      rfl (.refl s2)
    have hjobs : s4.jobs = s1.jobs := hsent.parts.same .jobs rfl
    obtain ⟨k, hk, hran⟩ := job_updNode_some (n := node) (fun x => { x with ran := true }) (job_of_nodeFor hnode)
    exact ⟨k, (job_of hjobs job).trans hk, by rw [hran]⟩

/-- The collective, once the wire value of a chunk is stored. -/
def Coll.store (c : Coll) (chunk : Nat) (v : List Nat) : Coll := { c with stored := c.stored ++ [(chunk, v)] }

/-- A broadcast chunk that is new here is stored, and more are still to come. -/
theorem collStep_stores {s : State} {c : Coll} {k : CollChunk} (hmem : c ∈ s.lnk.colls) (hreduce : k.reduce = false)
    (hnew : ∀ q ∈ c.stored, q.1 ≠ k.chunk) (hmore : c.stored.length + 1 < (s.collRing c.group).length) :
    c.store k.chunk (fromWire k.data k.scales) ∈ (s.collStep c k).lnk.colls := by
  have hstored : c.stored.any (fun q => q.1 == k.chunk) = false := by
    simpa using hnew
  have hput : c.store k.chunk (fromWire k.data k.scales) ∈
      s.lnk.colls.map (fun x => if x = c then c.store k.chunk (fromWire k.data k.scales) else x) :=
    List.mem_map.mpr ⟨c, hmem, if_pos rfl⟩
  unfold State.collStep
  extract_lets ring n got put v w r r2 s1
  rw [if_neg (by rw [hreduce]; exact Bool.false_ne_true), if_neg (by rw [hstored]; exact Bool.false_ne_true)]
  have hs1 : SameRoutes s s1 ∧ s1.lnk.colls = r2.1.lnk.colls := by
    have hr2 : SameRoutes s r2.1 := ⟨rfl, fun _ => rfl, rfl⟩
    refine ite_both (P := fun t : State => SameRoutes s t ∧ t.lnk.colls = r2.1.lnk.colls)
      ⟨hr2.trans (sendChunk_routes _ _ _), ?_⟩ ⟨hr2, rfl⟩
    obtain ⟨l, hl⟩ := sendChunk_lnk r2.1 ring { k with hops := k.hops + 1 }
    rw [hl]
  have hring : s1.collRing c.group = s.collRing c.group := by
    unfold State.collRing
    rw [hs1.1.topoKind]
  have hwaits : s1.collDone r2.2 = s1 := by
    unfold State.collDone
    refine if_neg fun hall => ?_
    have hlen : (c.stored ++ [(k.chunk, got)]).length = (s1.collRing c.group).length := hall
    rw [hring, List.length_append, List.length_singleton] at hlen
    omega
  rw [hwaits, hs1.2]
  exact hput

theorem exec_collectiveChunkArrival {s : State} {port : Nat} {k : CollChunk} {c : Coll}
    (h : s.wakeUp.coll? k.job k.step k.channel = some c) : exec (.collectiveChunkArrival port k) s =
      .next ((s.wakeUp.post (Out.credits port 2 (flitsOf (k.data.length + k.scales.length)))).collStep c k) := by
  change execCollectiveChunkArrival port k s = _
  unfold execCollectiveChunkArrival
  dsimp only
  rw [show (s.wakeUp.post (Out.credits port 2 (flitsOf (k.data.length + k.scales.length)))).coll? k.job k.step k.channel = some c from h]

end Sys2Proof.Machine
end

section
/-! SUPPORT. The claim on transfers between devices. -/

set_option Elab.async false

namespace Sys2Proof

open Machine

/-- Settles O38, command by command: each runs to a state named by its own lemma, from which the conclusions are read. -/
theorem tilesCrossBetweenDevices : Obligations.TilesCrossBetweenDevices := by
  refine ⟨?send, ?recv, ?coll, ?answers, ?again, ?lost, ?arrival, ?orphan, ?fallback, ?response, ?chunk⟩
  case send =>
    intro s job node w j g q hjob hword hopc hstarted hplan hopen hreach hgrid hout hfold hsrc
    obtain ⟨hposted, k, hk, hnode⟩ := xfrSend_passes g q (j.unsent node (xfSrc w) g) (node := node) hjob hsrc
    refine ⟨_, exec_xfrSend hjob hword hopc hstarted hplan hopen hreach hgrid hout hfold, k, hk, by rw [hnode]; rfl,
      by rw [hnode]; exact hopen, fun p hp hlast => ?_⟩
    obtain ⟨hpassed, hunsent⟩ := mem_passing (node := node) hp hlast
    refine ⟨by rw [hnode]; exact hpassed, fun hnew m r hm hroute => ?_⟩
    rw [hposted]
    exact mem_out_sendTiles (hunsent hnew) hm hroute
  case recv =>
    intro s job node w j hnode hreach hheld hopen
    obtain ⟨q, hexec⟩ := exec_xfrRecv hnode hreach hheld
    generalize recvGrid (s.descOf j.prog (xfSrc w)) (j.count.getD 1) = g at hexec ⊢
    have hupd : (s.updNode job node (fun x => x.receiving g q (j.count.getD 1))).job? job =
        some (j.setNode node ((j.node node).receiving g q (j.count.getD 1))) :=
      (job_updNode s job node _).trans (congrArg _ (job_of_nodeFor hnode))
    obtain ⟨k, hk, hreceives⟩ := recvDone_receives hupd (openBeside_setNode hopen rfl _)
    refine ⟨_, hexec, k, hk, hreceives.ran ?_, hreceives.grid.trans ?_⟩ <;> rw [node_setNode_same] <;> rfl
  case coll =>
    intro s job node w j q hnode hsrc hout hreach hearly
    obtain ⟨t, hexec, hcolls, hran⟩ := exec_xfrColl hnode hsrc hout hreach hearly
    refine ⟨t, hexec, hran, collStart job node w j q, ?_, rfl, rfl, rfl, rfl, rfl⟩
    rw [hcolls]
    exact List.mem_append_right _ List.mem_cons_self
  case answers =>
    rintro s0 s dev tile q rfl hsent
    refine ⟨⟨_, exec_receipt hsent, rfl, { q with receipt := true }, ?_, rfl, rfl⟩, fun j w hjob hword hsrc => ?_⟩
    · exact List.mem_map.mpr ⟨q, mem_of_sentOf hsent, if_pos rfl⟩
    · exact ⟨_, exec_releaseTile hsent, (placeFree_waits hjob hword hsrc).1, (placeFree_waits hjob hword hsrc).2⟩
  case again =>
    intro s dev tile q p hsent hreceipt hsends hdue hroute
    refine ⟨_, exec_ackTimeout hsent hreceipt hsends hdue, ?_, q.onPort p true s.time.mono, ?_, rfl, rfl⟩
    · rw [sendTile_out hroute]
      exact List.mem_append_right _ List.mem_cons_self
    · rw [sendTile_again hroute]
      exact List.mem_map.mpr ⟨q, mem_of_sentOf hsent, if_pos ⟨rfl, rfl⟩⟩
  case lost =>
    intro s dev lost hgone hheld hlost hdue
    obtain ⟨ch, hexec⟩ := exec_rejoinTimeout hgone hheld hlost hdue
    have hkeeps := lossRecorded_keeps s dev ch
    generalize (s.lnkErr 7 0x0C05 dev ch).devError 0x0C05 dev ch = u at hexec hkeeps
    have hlnk : u.lnk = s.lnk := hkeeps.parts.same .lnk rfl
    refine ⟨_, hexec, fun x hx => ?_, fun hnone x hx hdst => ?_⟩
    · have hleft := (placesFree_sublist _ u).subset hx
      rw [hlnk] at hleft
      obtain ⟨hmem, hother⟩ := not_of_mem_diff_filter hleft
      exact ⟨hmem, fun ⟨hdst, hreceipt⟩ => by simp [hdst, hreceipt] at hother⟩
    · rw [placesFree_of_none _ fun q hq => (job_of (hkeeps.parts.same .jobs rfl) q.job).trans (hnone q (List.mem_filter.mp hq).1), hlnk]
      exact List.mem_diff_of_mem hx fun hin => hdst (eq_of_beq (Bool.and_eq_true_iff.mp (List.mem_filter.mp hin).2).1)
  case arrival =>
    rintro s0 s u port m q f l rfl hdst hnew hlive hrecv hnode hf hdraw hnone
    have hu : (s0.wakeUp.draw 7 f.1 f.2 m.svc s0.wakeUp.ticketNow true).1 = u := by rw [hdraw]
    have hkeeps := State.draw_keeps (L := 9043995) s0.wakeUp 7 f.1 f.2 m.svc s0.wakeUp.ticketNow true rfl (.refl _)
    have htopo := draw_topo s0.wakeUp (o := 7) f.2 m.svc s0.wakeUp.ticketNow true (by decide) (show f.1 < 8 from hf ▸ poolFit_lt _)
    rw [hu] at hkeeps htopo
    have hdev : u.myDev = s0.wakeUp.myDev := rd_of_reg htopo.reg
    have hwaits := takeTile_waits (s := u) (h := { msg := m, job := none, port := port, bufs := (f.1, l), at_ := s0.wakeUp.time.mono })
      hnode fun j hj hprog hroute => by
        rw [tileFor_of_myDev hdev]
        rw [show u.jobs = s0.wakeUp.jobs from hkeeps.parts.same .jobs rfl] at hj
        exact hnone j hj hprog hroute
    exact ⟨_, exec_tileArrival hdst hnew hlive hrecv hf hdraw, ⟨_, hwaits.1, rfl, rfl, rfl, rfl⟩, hwaits.2⟩
  case orphan =>
    intro s tile h hfind hdue
    have hlnk : ((s.cnt 0x0C05 h.port).lnkErr h.port 0x0C08).lnk = s.lnk := (lnkErr_records _ _ _ _ _).lnk
    obtain ⟨-, hheld, hout⟩ := releaseTile_lnk ((s.cnt 0x0C05 h.port).lnkErr h.port 0x0C08) h
    exact ⟨_, exec_orphanTimeout hfind hdue, by rw [hheld, hlnk], hout⟩
  case fallback =>
    intro s job node w j g q hjob hword hgrid hout hopc hfallback hcommitted hstale hopen
    exact ⟨_, exec_fallbackTimeout hjob hword hgrid hopc hfallback hcommitted hstale, fallbackTimeout_receives hjob hgrid hout hopen⟩
  case response =>
    intro s c tag q hsaving hmem htag harrived hparked hhere
    have hdue : (s.core c).tags.any (s.tagDue tag) = true :=
      List.any_eq_true.mpr ⟨q, hmem, by simp [State.tagDue, htag, harrived, hparked, hhere]⟩
    obtain ⟨r, hr, hresponse⟩ := updFirst_of_any (fun q : RemoteTag => { q with arrived := true }) hdue
    refine ⟨_, exec_remoteResponse hsaving hdue, ⟨{ r with arrived := true }, ?_, ?_, rfl⟩, ?_⟩
    · rw [core_note, State.core_setCore]
      exact hresponse
    · unfold State.tagDue at hr
      simp only [Bool.and_eq_true, beq_iff_eq] at hr
      exact hr.1.1.1
    · rw [core_note, State.core_setCore]
      exact length_updFirst _ _ _
  case chunk =>
    rintro s0 s port k c rfl hcoll hreduce hnew hmore
    exact ⟨_, exec_collectiveChunkArrival hcoll, collStep_stores (List.mem_of_find?_eq_some hcoll) hreduce hnew hmore⟩

end Sys2Proof
end

section
/-! SUPPORT. The operations of the set and graph stations: one that starts, and the commit of one. -/

set_option Elab.async false

namespace Sys2Proof.Machine

/-! ### How far a node is while an operation starts -/

theorem find_updFirst_other {α : Type} {p q : α → Bool} {f : α → α} (h : ∀ x, p x = true → q x = false ∧ q (f x) = false)
    (l : List α) : (updFirst p f l).find? q = l.find? q := by
  induction l with
  | nil => rfl
  | cons x l ih =>
    by_cases hx : p x = true
    · simp [updFirst, hx, h x hx]
    · simp [updFirst, hx, List.find?_cons, ih]

theorem job_updNode_other (s : State) {id i : Nat} (n : Nat) (f : NodeSt → NodeSt) (h : i ≠ id) :
    (s.updNode i n f).job? id = s.job? id := by
  unfold State.updNode State.updJob State.job?
  refine find_updFirst_other (fun j hj => ?_) _
  have hne : (j.id == id) = false := by rw [eq_of_beq hj]; exact beq_false_of_ne h
  exact ⟨hne, hne⟩

/-- The job, when it is in flight, stays so; its node has run, and is committed, as before. -/
def KeepsProgress (id n : Nat) (s t : State) : Prop :=
  ∀ j, s.job? id = some j → ∃ k, t.job? id = some k ∧ (k.node n).ran = (j.node n).ran ∧ (k.node n).committed = (j.node n).committed

theorem KeepsProgress.trans {id n : Nat} {s t u : State} (h : KeepsProgress id n s t) (g : KeepsProgress id n t u) :
    KeepsProgress id n s u := by
  intro j hj
  obtain ⟨k, hk, hran, hcommitted⟩ := h j hj
  obtain ⟨l, hl, hran', hcommitted'⟩ := g k hk
  exact ⟨l, hl, hran'.trans hran, hcommitted'.trans hcommitted⟩

theorem KeepsResults.progress {id : Nat} {s t : State} (h : KeepsResults id s t) (n : Nat) : KeepsProgress id n s t := by
  intro j hj
  obtain ⟨k, hk, hsame⟩ := h j hj
  exact ⟨k, hk, hsame.ran n, hsame.committed n⟩

theorem KeepsProgress.refl (id n : Nat) (s : State) : KeepsProgress id n s s := (KeepsResults.refl id s).progress n

/-- A change of any node of any job that leaves alone whether it has run and whether it is committed. -/
theorem KeepsProgress.updNode {id n : Nat} {s t : State} (h : KeepsProgress id n s t) {i m : Nat} {f : NodeSt → NodeSt}
    (hran : ∀ x, (f x).ran = x.ran) (hcommitted : ∀ x, (f x).committed = x.committed) : KeepsProgress id n s (t.updNode i m f) := by
  refine h.trans fun j hj => ?_
  by_cases hi : i = id
  · subst hi
    refine ⟨_, (job_updNode t i m f).trans (congrArg _ hj), ?_⟩
    by_cases hn : n = m
    · subst hn
      rw [node_setNode_same]
      exact ⟨hran _, hcommitted _⟩
    · rw [node_setNode_other _ _ _ _ hn]
      exact ⟨rfl, rfl⟩
  · exact ⟨j, (job_updNode_other t m f hi).trans hj, rfl, rfl⟩

/-- An operation that keeps the jobs. -/
theorem KeepsProgress.keeps {L id n : Nat} {s t u : State} (h : KeepsProgress id n s t) (k : Keeps L t u) (hjobs : L.testBit 13 = false) :
    KeepsProgress id n s u := h.trans (((KeepsResults.refl id t).keeps k hjobs).progress n)

/-! ### An operation starts (R487 to R490) -/

/-- A node whose operation has started on station `k` over the samples of its source `a`: of a BOXES node of a job route, one. -/
def NodeSt.begun (x : NodeSt) (a : NodeSt) (k : Nat) (one : Bool) : NodeSt :=
  { x with ran := true, queued := true, station := some k
           count := if one then 1 else a.count, recs := a.recs, own := if one then [0] else a.own }

/-- The operations of lower classes are passed once more (R490). -/
def State.passing (s : State) (svc : Nat) (l : List (Job × Nat)) : State :=
  l.foldl (fun s q => if svc < q.1.svc then s.updNode q.1.id q.2 (fun x => { x with waits := x.waits + 1 }) else s) s

/-- The operation of a node is on a unit of station `k`. -/
def State.operating (s : State) (j : Job) (id n w opc k : Nat) : State :=
  let s1 := (s.updNode id n (fun x => x.begun (j.node (wA w)) k (j.frameOf.isNone && opc == 0x50))).passing j.svc
    (s.readyOps k (sgsUnit opc))
  { s1 with sgs := { s1.sgs with ops := s1.sgs.ops ++ [{ station := k, unit := sgsUnit opc, job := id, node := n }] } }

theorem passing_progress (id n svc : Nat) (l : List (Job × Nat)) (s : State) : KeepsProgress id n s (s.passing svc l) := by
  unfold State.passing
  induction l generalizing s with
  | nil => exact .refl id n s
  | cons q l ih =>
    refine KeepsProgress.trans (ite_both (P := KeepsProgress id n s) ?_ (.refl id n s)) (ih _)
    exact (KeepsProgress.refl id n s).updNode (fun _ => rfl) fun _ => rfl

theorem passing_sgs (svc : Nat) (l : List (Job × Nat)) (s : State) : (s.passing svc l).sgs = s.sgs := by
  unfold State.passing
  induction l generalizing s with
  | nil => rfl
  | cons q l ih => exact (ih _).trans (ite_both (P := fun t : State => t.sgs = s.sgs) rfl rfl)

theorem operating_ops (s : State) (j : Job) (id n w opc k : Nat) :
    (s.operating j id n w opc k).sgs.ops = s.sgs.ops ++ [{ station := k, unit := sgsUnit opc, job := id, node := n }] := by
  unfold State.operating
  dsimp only
  rw [passing_sgs]
  rfl

/-- The node has run, and is no further committed than before. -/
theorem operating_node {s : State} {j : Job} {id : Nat} (n w opc k : Nat) (h : s.job? id = some j) :
    ∃ q, (s.operating j id n w opc k).job? id = some q ∧ (q.node n).ran = true ∧ (q.node n).committed = (j.node n).committed := by
  obtain ⟨q, hq, hran, hcommitted⟩ := passing_progress id n j.svc (s.readyOps k (sgsUnit opc)) _ _
    ((job_updNode s id n (fun x => x.begun (j.node (wA w)) k (j.frameOf.isNone && opc == 0x50))).trans (congrArg _ h))
  rw [node_setNode_same] at hran hcommitted
  exact ⟨q, hq, hran, hcommitted⟩

/-- The tile jobs of a KNN's dot products leave its node as far as it was (R507). -/
theorem knnTiles_progress (s : State) (j : Job) (n k : Nat) : KeepsProgress j.id n s (s.knnTiles j n k) := by
  unfold State.knnTiles
  split
  · exact .refl _ n s
  · refine KeepsProgress.trans (.keeps ?_ (State.bump_keeps (L := 8388609) _ _ _ rfl (State.cnt_keeps _ _ _ _ rfl (.refl _))) rfl)
      ((wake_work _ j.id).results.progress n)
    split
    · refine .updNode (.updNode (.refl _ n s) ?_ ?_) ?_ ?_ <;> exact fun _ => rfl
    · refine .updNode (.refl _ n s) ?_ ?_ <;> exact fun _ => rfl

/-- The operation of a node may take its unit of station `k`: its sources are committed, the unit is free, no ready operation goes before
it, and it has no fault. -/
structure MayOperate (s : State) (id n opc : Nat) (j : Job) (w k : Nat) : Prop where
  node : s.nodeFor id n opc = some (j, w)
  notSaving : s.sched.saving = false
  station : s.opStation j n = some k
  free : s.sgs.ops.any (fun o => o.station == k && o.unit == sgsUnit opc) = false
  first : (s.readyOps k (sgsUnit opc)).all (fun q => (q.1.id == id && q.2 == n) || opBefore s.ticketNow (j, n) q) = true
  ready : s.sgsReady j n w = true
  faultless : s.sgsFault j n w = none

theorem startOp_operating {s : State} {id n opc k w : Nat} {j : Job} (h : MayOperate s id n opc j w k) :
    s.startOp id n opc =
      (if opc = 0x55 then (s.operating j id n w opc k).knnTiles j n k else s.operating j id n w opc k).stationNote k := by
  unfold State.startOp
  rw [h.node]
  dsimp only
  rw [if_neg (by simp [h.notSaving]), h.station]
  dsimp only
  rw [if_pos ⟨h.ready, h.free, h.first⟩, h.faultless]
  rfl

/-- The operation is on its station, and its node has run and is no further committed. -/
theorem startOp_spec {s : State} {id n opc k w : Nat} {j : Job} (h : MayOperate s id n opc j w k) :
    (s.startOp id n opc).sgs.ops = s.sgs.ops ++ [{ station := k, unit := sgsUnit opc, job := id, node := n }] ∧
      ∃ q, (s.startOp id n opc).job? id = some q ∧ (q.node n).ran = true ∧ (q.node n).committed = (j.node n).committed := by
  have hjob := job_of_nodeFor h.node
  obtain rfl := id_of_job hjob
  rw [startOp_operating h]
  obtain ⟨q, hq, hran, hcommitted⟩ := operating_node n w opc k hjob
  rw [← operating_ops s j j.id n w opc k]
  generalize s.operating j j.id n w opc k = t at hq ⊢
  have hknn := State.knnTiles_keeps (L := 8462337) t j n k rfl (.refl t)
  have hkeeps : Keeps 8462337 t ((if opc = 0x55 then t.knnTiles j n k else t).stationNote k) :=
    State.stationNote_keeps _ k rfl (ite_both (P := Keeps 8462337 t) hknn (.refl t))
  have hprogress : KeepsProgress j.id n t ((if opc = 0x55 then t.knnTiles j n k else t).stationNote k) :=
    .keeps (ite_both (P := KeepsProgress j.id n t) (knnTiles_progress t j n k) (.refl _ n t))
      (State.stationNote_keeps (L := 1) _ k rfl (.refl _)) rfl
  obtain ⟨l, hl, hran', hcommitted'⟩ := hprogress q hq
  exact ⟨congrArg SgsSt.ops (hkeeps.parts.same .sgs rfl), l, hl, hran'.trans hran, hcommitted'.trans hcommitted⟩

/-! ### A commit (R489) -/

/-- What an operation leaves in its stream changes no job (R506, R514). -/
theorem sgsApply_jobs_of_bound {s : State} {j : Job} (n : Nat) (r : SgsRes) (h : s.sgsBound j = true) :
    (s.sgsApply j n r).jobs = s.jobs := by
  have hset := fun x part => State.ckSgs_keeps (L := 1088) _ j.stream j.frameSeq part rfl (State.setSgs_keeps s j.stream x rfl (.refl s))
  unfold State.sgsApply
  dsimp only
  rw [if_pos h]
  split
  · exact ((State.sgsStrmNote_keeps (L := 1089) _ j.stream rfl (.refl _)).parts.same .jobs rfl).trans ((hset _ _).parts.same .jobs rfl)
  · exact ite_both (P := fun t : State => t.jobs = s.jobs) ((hset _ _).parts.same .jobs rfl) rfl
  · rfl

/-- An operation leaves at most a new set in its job. -/
theorem sgsApply_job (s : State) {j : Job} (n : Nat) (r : SgsRes) (h : s.job? j.id = some j) :
    ∃ k, (s.sgsApply j n r).job? j.id = some k ∧ SameBeside n j k := by
  by_cases hbound : s.sgsBound j = true
  · exact ⟨j, (job_of (sgsApply_jobs_of_bound n r hbound) j.id).trans h, rfl, rfl, fun _ _ => rfl⟩
  · unfold State.sgsApply
    dsimp only
    rw [if_neg hbound]
    split
    · refine ⟨_, (job_updJob s j.id _ ?_).trans (congrArg _ h), rfl, rfl, fun _ _ => rfl⟩
      exact fun _ h => h
    · exact ⟨j, h, rfl, rfl, fun _ _ => rfl⟩

/-- What an operation leaves and counts, before its node commits. -/
def State.sgsGives (s : State) (j : Job) (n k : Nat) (r : SgsRes) : State :=
  ((s.sgsApply j n r).sgsCount j k r).add64 (Reg.SGS_OPS_LO k) (Reg.SGS_OPS_HI k) 1

/-- The result of an operation is in its stream or job, and the job has the node's neighbours as before. -/
theorem sgsGives_job {s : State} {j : Job} {n : Nat} (k : Nat) (r : SgsRes) (h : s.job? j.id = some j) (hopen : openBeside s j n) :
    ∃ q, (s.sgsGives j n k r).job? j.id = some q ∧ openBeside (s.sgsGives j n k r) q n := by
  obtain ⟨q, hq, hbeside⟩ := sgsApply_job s n r h
  have happly := State.sgsApply_keeps (L := 9281) s j n r rfl (.refl s)
  have hcount := State.add64_keeps (L := 8388633) _ (Reg.SGS_OPS_LO k) (Reg.SGS_OPS_HI k) 1 rfl
    (State.sgsCount_keeps _ j k r rfl (.refl (s.sgsApply j n r)))
  exact ⟨q, (job_of (hcount.parts.same .jobs rfl) j.id).trans hq,
    openBeside_of_beside hopen ((hcount.parts.same .progs rfl).trans (happly.parts.same .progs rfl)) hbeside⟩

theorem exec_sgsOperationCommit {s u : State} {k w : Nat} {o : SgsOp} {j : Job}
    (hdone : s.sgs.ops.find? (fun o => o.station == k && s.opDone o) = some o)
    (hu : u = { s with sgs := { s.sgs with ops := s.sgs.ops.erase o } }) (hjob : s.job? o.job = some j)
    (hword : s.jobWord j o.node = some w) :
    exec (.sgsOperationCommit k) s = .next (((((u.sgsGives j o.node k (u.sgsCalc j o.node w)).commitNode o.job o.node
      (u.sgsCalc j o.node w).out).wake o.job).stationNote k).sgsLehrEnd k) := by
  have hjob' : u.job? o.job = some j := (job_of (by rw [hu]) o.job).trans hjob
  have hword' : u.jobWord j o.node = some w := by rw [← hword, hu]; rfl
  change execSgsOperationCommit k s = _
  unfold execSgsOperationCommit
  rw [hdone]
  dsimp only
  rw [← hu, hjob']
  dsimp only
  rw [hword']
  rfl

/-- The node of a finished operation is committed with its result, when another node of the job is open. -/
theorem sgsOperationCommit_nodeDone {s u : State} (k : Nat) {o : SgsOp} {j : Job} (r : SgsRes)
    (hu : u = { s with sgs := { s.sgs with ops := s.sgs.ops.erase o } }) (hjob : s.job? o.job = some j) (hopen : openBeside s j o.node) :
    nodeDone (((((u.sgsGives j o.node k r).commitNode o.job o.node r.out).wake o.job).stationNote k).sgsLehrEnd k) o.job o.node r.out := by
  have hid := id_of_job hjob
  obtain ⟨q, hq, hbeside⟩ := sgsGives_job (s := u) k r (hid.symm ▸ (job_of (by rw [hu]) o.job).trans hjob)
    (openBeside_of_progs hopen (by rw [hu]))
  have hcommit := nodeDone_of_results (commitNode_nodeDone r.out (hid ▸ hq) hbeside) (wake_work _ o.job).results
  have hnotes := State.sgsLehrEnd_keeps (L := 1025) _ k rfl (State.stationNote_keeps _ k rfl
    (.refl (((u.sgsGives j o.node k r).commitNode o.job o.node r.out).wake o.job)))
  exact nodeDone_of_jobs hcommit (hnotes.parts.same .jobs rfl)

end Sys2Proof.Machine
end

section
/-! SUPPORT. The set and graph stations: the registers that follow one, a station that leaves and returns, and a stream that moves. -/

set_option Elab.async false

namespace Sys2Proof.Machine

/-! ### The registers that follow a station (R532) -/

theorem stationSt_wr_same (s : State) (k : Nat) {v : Nat} (hv : v < 8) : (s.wr (Reg.SGS_STATUS_STATE k) v).stationSt k = v :=
  (rd_wr_same s _ v (show 0 + 3 ≤ 32 by decide)).trans (Nat.mod_eq_of_lt hv)

theorem stationSt_wr_other (s : State) {f : RegField} (v : Nat) {k : Nat} (h : Reg.SGS_STATUS k ≠ f.addr) :
    (s.wr f v).stationSt k = s.stationSt k := rd_wr_reg s f _ v h

/-- A field above STATE in SGS_STATUS. -/
theorem stationSt_wr_above (s : State) (k v : Nat) {lo w : Nat} (hlo : 3 ≤ lo) (hw : lo + w ≤ 32) :
    (s.wr ⟨Reg.SGS_STATUS k, lo, w⟩ v).stationSt k = s.stationSt k :=
  rd_wr_field s ⟨Reg.SGS_STATUS k, lo, w⟩ (Reg.SGS_STATUS_STATE k) v rfl hw (.inl (by simpa using hlo))

/-- The streams and rows of a station are in its registers. -/
def State.stationCounted (s : State) (k : Nat) : State :=
  let s1 := ((s.wr (Reg.SGS_STATUS_NSTREAMS k) (s.sgsOn k).length).wr (Reg.SGS_TRK_ROWS_RESERVED k) (min 16384 (s.trkReserved k))).wr
    (Reg.SGS_TRK_ROWS_LIVE k) (s.trkLive k)
  if s.trkReserved k ≤ 16384 then s1.wr (Reg.SGS_STATUS_OVERCOMMIT k) 0 else s1

theorem stationNote_eq (s : State) (k : Nat) : s.stationNote k =
    if (s.stationCounted k).stationUp k then (s.stationCounted k).wr (Reg.SGS_STATUS_STATE k)
      (if (s.stationCounted k).sgs.ops.any (fun o => o.station == k) then 1 else 0)
    else s.stationCounted k := rfl

theorem stationCounted_sgs (s : State) (k : Nat) : (s.stationCounted k).sgs = s.sgs := by
  unfold State.stationCounted
  dsimp only
  split
  · rfl
  · rfl

theorem reg_stationCounted (s : State) {a k : Nat} (hstatus : a ≠ Reg.SGS_STATUS k) (hrows : a ≠ Reg.SGS_TRK_ROWS k) :
    (s.stationCounted k).reg a = s.reg a := by
  have hcounts := fun x y z => (reg_wr_other _ (Reg.SGS_TRK_ROWS_LIVE k) z a hrows).trans
    ((reg_wr_other _ (Reg.SGS_TRK_ROWS_RESERVED k) y a hrows).trans (reg_wr_other s (Reg.SGS_STATUS_NSTREAMS k) x a hstatus))
  unfold State.stationCounted
  dsimp only
  split
  · exact (reg_wr_other _ _ 0 a hstatus).trans (hcounts _ _ _)
  · exact hcounts _ _ _

theorem stationSt_stationCounted (s : State) (k : Nat) : (s.stationCounted k).stationSt k = s.stationSt k := by
  have hrows : Reg.SGS_STATUS k ≠ Reg.SGS_TRK_ROWS k := by simp only [Reg.SGS_STATUS, Reg.SGS_TRK_ROWS]; omega
  have hcounts := fun x y z => (stationSt_wr_other _ (f := Reg.SGS_TRK_ROWS_LIVE k) z hrows).trans
    ((stationSt_wr_other _ (f := Reg.SGS_TRK_ROWS_RESERVED k) y hrows).trans
      (stationSt_wr_above s k x (show 3 ≤ 24 by decide) (show 24 + 8 ≤ 32 by decide)))
  unfold State.stationCounted
  dsimp only
  split
  · exact (stationSt_wr_above _ k 0 (by decide) (by decide)).trans (hcounts _ _ _)
  · exact hcounts _ _ _

theorem reg_stationNote (s : State) {a k : Nat} (hstatus : a ≠ Reg.SGS_STATUS k) (hrows : a ≠ Reg.SGS_TRK_ROWS k) :
    (s.stationNote k).reg a = s.reg a := by
  rw [stationNote_eq]
  exact (ite_both (P := fun t : State => t.reg a = (s.stationCounted k).reg a) (reg_wr_other _ _ _ a hstatus) rfl).trans
    (reg_stationCounted s hstatus hrows)

/-- A station in service is in RUN with an operation and IDLE without; another keeps its STATE. -/
theorem stationSt_stationNote (s : State) (k : Nat) : (s.stationNote k).stationSt k =
    if s.stationUp k then if s.sgs.ops.any (fun o => o.station == k) then 1 else 0 else s.stationSt k := by
  have hup : (s.stationCounted k).stationUp k = s.stationUp k := by
    unfold State.stationUp
    rw [stationSt_stationCounted]
  rw [stationNote_eq, hup, stationCounted_sgs]
  split
  · exact stationSt_wr_same _ k (by split <;> decide)
  · exact stationSt_stationCounted s k

theorem reg_of_regs {s t : State} (h : t.regs = s.regs) (a : Nat) : t.reg a = s.reg a := by
  unfold State.reg
  rw [h]

theorem reg_sgsRetarget (s : State) (a : Nat) : s.sgsRetarget.reg a = s.reg a :=
  reg_of_regs ((State.sgsRetarget_keeps (L := 1024) s rfl (.refl s)).parts.same .regs rfl) a

theorem reg_sgsLehrEnd (s : State) {a k : Nat} (h : a ≠ Reg.SGS_STATUS k) : (s.sgsLehrEnd k).reg a = s.reg a := by
  unfold State.sgsLehrEnd
  split
  · split
    · exact reg_wr_other s _ _ a h
    · exact (reg_sgsRetarget _ a).trans (reg_wr_other s _ _ a h)
    · rfl
  · rfl

/-- A station in LEHR stays so or, with no stream and no operation left, is OFFLINE. -/
theorem stationSt_sgsLehrEnd {s : State} {k : Nat} (h : s.stationSt k = 2) :
    (s.sgsLehrEnd k).stationSt k = 2 ∨ (s.sgsLehrEnd k).stationSt k = 4 := by
  unfold State.sgsLehrEnd
  rw [h]
  split
  · exact .inr (stationSt_wr_same s k (by decide))
  · exact .inl h

/-- Streams that start to move write their own registers alone. -/
theorem reg_sgsMoves (s : State) (k : Nat) {a : Nat} (h : ∀ st < 128, a ≠ Reg.SGS_STRM_STATE st) : (s.sgsMoves k).reg a = s.reg a := by
  unfold State.sgsMoves
  have hon : ∀ st ∈ s.sgsOn k, st < 128 := fun st hst => List.mem_range.mp (List.mem_filter.mp hst).1
  generalize s.sgsOn k = l at hon ⊢
  induction l generalizing s with
  | nil => rfl
  | cons st l ih =>
    refine (ih _ fun m hm => hon m (List.mem_cons_of_mem _ hm)).trans ?_
    exact ite_both (P := fun t : State => t.reg a = s.reg a) rfl (reg_wr_other _ _ _ a (h st (hon st List.mem_cons_self)))

/-! ### A station leaves and returns (R491, R532) -/

theorem rd_sgsOffline_wr (s : State) (k : Nat) {v : Nat} (h : v < 2) :
    (s.wr (Reg.SGS_CTRL_OFFLINE k) v).rd (Reg.SGS_CTRL_OFFLINE k) = v :=
  (rd_wr_same s _ v (show 0 + 1 ≤ 32 by decide)).trans (Nat.mod_eq_of_lt h)

theorem sgsCtrl_ne_status (k : Nat) : Reg.SGS_CTRL k ≠ Reg.SGS_STATUS k := by simp only [Reg.SGS_CTRL, Reg.SGS_STATUS]; omega

theorem sgsCtrl_ne_rows (k : Nat) : Reg.SGS_CTRL k ≠ Reg.SGS_TRK_ROWS k := by simp only [Reg.SGS_CTRL, Reg.SGS_TRK_ROWS]; omega

theorem stationSt_wr_offline (s : State) (k v : Nat) : (s.wr (Reg.SGS_CTRL_OFFLINE k) v).stationSt k = s.stationSt k :=
  stationSt_wr_other s v (sgsCtrl_ne_status k).symm

/-- The assignments and graphs in progress at a station are discarded, and its streams start to move. -/
def State.sgsLeaving (s : State) (k : Nat) : State :=
  (((s.wr (Reg.SGS_CTRL_OFFLINE k) 1).dropOps k [1, 3]).wr (Reg.SGS_STATUS_STATE k) 2).sgsMoves k

theorem exec_sgsOffline_up {s : State} {k : Nat} (hreach : reaches s (Reg.SGS_CTRL k)) (hup : s.stationSt k < 2) :
    exec (.sgsOffline k true) s = .next (((s.sgsLeaving k).sgsLehrEnd k).stationNote k) := by
  change execSgsOffline k true s = _
  unfold execSgsOffline
  rw [bar_of_reaches hreach]
  dsimp only
  rw [stationSt_wr_offline]
  obtain hidle | hrun : s.stationSt k = 0 ∨ s.stationSt k = 1 := by omega
  · rw [hidle]
    rfl
  · rw [hrun]
    rfl

theorem exec_sgsOffline_lehr {s : State} {k : Nat} (hreach : reaches s (Reg.SGS_CTRL k)) (hlehr : s.stationSt k = 2) :
    exec (.sgsOffline k false) s = .next ((s.wr (Reg.SGS_CTRL_OFFLINE k) 0).wr (Reg.SGS_STATUS_STATE k) 3) := by
  change execSgsOffline k false s = _
  unfold execSgsOffline
  rw [bar_of_reaches hreach]
  dsimp only
  rw [stationSt_wr_offline, hlehr]
  rfl

/-- A station is IDLE again, and streams that found no station move to it. -/
def State.sgsReturned (s : State) (k : Nat) : State :=
  ((s.wr (Reg.SGS_CTRL_OFFLINE k) 0).wr (Reg.SGS_STATUS_STATE k) 0).sgsRetarget

theorem exec_sgsOffline_offline {s : State} {k : Nat} (hreach : reaches s (Reg.SGS_CTRL k)) (hoffline : s.stationSt k = 4) :
    exec (.sgsOffline k false) s = .next ((s.sgsReturned k).stationNote k) := by
  change execSgsOffline k false s = _
  unfold execSgsOffline
  rw [bar_of_reaches hreach]
  dsimp only
  rw [stationSt_wr_offline, hoffline]
  rfl

/-- A register that is of no stream and no STATE of this station keeps what the write left. -/
theorem reg_sgsLeaving (s : State) {a k : Nat} (hstreams : ∀ st < 128, a ≠ Reg.SGS_STRM_STATE st) (hstatus : a ≠ Reg.SGS_STATUS k) :
    (s.sgsLeaving k).reg a = (s.wr (Reg.SGS_CTRL_OFFLINE k) 1).reg a := by
  have hregs := (State.dropOps_keeps (L := 107520) _ k [1, 3] rfl (.refl (s.wr (Reg.SGS_CTRL_OFFLINE k) 1))).parts.same .regs rfl
  exact (reg_sgsMoves _ k hstreams).trans ((reg_wr_other _ _ 2 a hstatus).trans (reg_of_regs hregs a))

theorem sgsStatus_ne_stream {k st : Nat} : st < 128 → Reg.SGS_STATUS k ≠ Reg.SGS_STRM_STATE st := by
  simp only [Reg.SGS_STATUS, Reg.SGS_STRM_STATE]; omega

theorem sgsCtrl_ne_stream {k st : Nat} : st < 128 → Reg.SGS_CTRL k ≠ Reg.SGS_STRM_STATE st := by
  simp only [Reg.SGS_CTRL, Reg.SGS_STRM_STATE]; omega

theorem sgsRows_ne_stream {k st : Nat} : st < 128 → Reg.SGS_TRK_ROWS k ≠ Reg.SGS_STRM_STATE st := by
  simp only [Reg.SGS_TRK_ROWS, Reg.SGS_STRM_STATE]; omega

theorem stationSt_sgsLeaving (s : State) (k : Nat) : (s.sgsLeaving k).stationSt k = 2 :=
  (rd_of_reg (f := Reg.SGS_STATUS_STATE k) (reg_sgsMoves _ k fun _ => sgsStatus_ne_stream)).trans
    (stationSt_wr_same _ k (by decide))

/-- A station that goes out of service has OFFLINE 1 and is in LEHR or OFFLINE. -/
theorem sgsLeaving_spec (s : State) (k : Nat) :
    (((s.sgsLeaving k).sgsLehrEnd k).stationNote k).rd (Reg.SGS_CTRL_OFFLINE k) = 1 ∧
      ((((s.sgsLeaving k).sgsLehrEnd k).stationNote k).stationSt k = 2 ∨
        (((s.sgsLeaving k).sgsLehrEnd k).stationNote k).stationSt k = 4) := by
  have hctrl := sgsCtrl_ne_status k
  refine ⟨(rd_of_reg (f := Reg.SGS_CTRL_OFFLINE k) ?_).trans (rd_sgsOffline_wr s k (by decide)), ?_⟩
  · exact (reg_stationNote _ hctrl (sgsCtrl_ne_rows k)).trans
      ((reg_sgsLehrEnd _ hctrl).trans (reg_sgsLeaving s (fun _ => sgsCtrl_ne_stream) hctrl))
  · rw [stationSt_stationNote]
    unfold State.stationUp
    obtain hlehr | hoffline := stationSt_sgsLehrEnd (stationSt_sgsLeaving s k)
    · rw [hlehr]
      exact .inl rfl
    · rw [hoffline]
      exact .inr rfl

theorem sgsReturned_ops (s : State) (k : Nat) : (s.sgsReturned k).sgs.ops = s.sgs.ops := by
  unfold State.sgsReturned State.sgsRetarget
  generalize List.range 128 = l
  generalize hu : (s.wr (Reg.SGS_CTRL_OFFLINE k) 0).wr (Reg.SGS_STATUS_STATE k) 0 = u
  have hops : u.sgs.ops = s.sgs.ops := by rw [← hu]; rfl
  clear hu
  induction l generalizing u with
  | nil => exact hops
  | cons st l ih => exact ih _ (ite_both (P := fun t : State => t.sgs.ops = s.sgs.ops) hops hops)

/-- A station that returns with no operation has OFFLINE 0 and is IDLE. -/
theorem sgsReturned_spec {s : State} (k : Nat) (hops : s.sgs.ops = []) :
    ((s.sgsReturned k).stationNote k).rd (Reg.SGS_CTRL_OFFLINE k) = 0 ∧ ((s.sgsReturned k).stationNote k).stationSt k = 0 := by
  have hctrl := sgsCtrl_ne_status k
  have hidle : (s.sgsReturned k).stationSt k = 0 :=
    (rd_of_reg (f := Reg.SGS_STATUS_STATE k) (reg_sgsRetarget _ _)).trans (stationSt_wr_same _ k (by decide))
  refine ⟨(rd_of_reg (f := Reg.SGS_CTRL_OFFLINE k) ?_).trans (rd_sgsOffline_wr s k (by decide)), ?_⟩
  · exact (reg_stationNote _ hctrl (sgsCtrl_ne_rows k)).trans ((reg_sgsRetarget _ _).trans (reg_wr_other _ _ 0 _ hctrl))
  · rw [stationSt_stationNote, sgsReturned_ops, hops, hidle]
    exact ite_self 0

/-! ### A stream moves (R491) -/

/-- The stream's own data at its station, and its station and STATE, are as before. -/
structure SameSgsStream (st : Nat) (s t : State) : Prop where
  stream : t.sgsStream st = s.sgsStream st
  reg : t.reg (Reg.SGS_STRM_STATE st) = s.reg (Reg.SGS_STRM_STATE st)

theorem SameSgsStream.refl (st : Nat) (s : State) : SameSgsStream st s s := ⟨rfl, rfl⟩

theorem SameSgsStream.wr {st : Nat} {s t : State} (h : SameSgsStream st s t) {f : RegField} (v : Nat)
    (hf : Reg.SGS_STRM_STATE st ≠ f.addr) : SameSgsStream st s (t.wr f v) := ⟨h.stream, (reg_wr_other t f v _ hf).trans h.reg⟩

theorem SameSgsStream.sgsStrmNote {st : Nat} {s t : State} (h : SameSgsStream st s t) : SameSgsStream st s (t.sgsStrmNote st) := by
  unfold State.sgsStrmNote
  dsimp only
  refine ((((h.wr _ ?_).wr _ ?_).wr _ ?_).wr _ ?_).wr _ ?_ <;>
  · simp only [Reg.SGS_STRM_STATE, Reg.SGS_STRM_TRACKS, Reg.SGS_STRM_NEXT_ID, Reg.SGS_STRM_GAL, Reg.SGS_STRM_NEXT_IDENT]
    omega

theorem SameSgsStream.stationNote {st : Nat} {s t : State} (h : SameSgsStream st s t) (hst : st < 128) (k : Nat) :
    SameSgsStream st s (t.stationNote k) := by
  refine ⟨?_, (reg_stationNote t (sgsStatus_ne_stream hst).symm (sgsRows_ne_stream hst).symm).trans h.reg⟩
  have hsgs : (t.stationNote k).sgs = t.sgs := (State.stationNote_keeps (L := 1) t k rfl (.refl t)).parts.same .sgs rfl
  unfold State.sgsStream
  rw [hsgs]
  exact h.stream

theorem SameSgsStream.stationsNote {st : Nat} {s t : State} (h : SameSgsStream st s t) (hst : st < 128) :
    SameSgsStream st s t.stationsNote := by
  unfold State.stationsNote
  generalize List.range 4 = l
  induction l generalizing t with
  | nil => exact h
  | cons k l ih => exact ih (h.stationNote hst k)

/-- A stream that does not move gets no new station. -/
theorem SameSgsStream.sgsRetarget {st : Nat} {s t : State} (h : SameSgsStream st s t) (hstays : (s.sgsStream st).movingTo = none) :
    SameSgsStream st s t.sgsRetarget := by
  unfold State.sgsRetarget
  generalize List.range 128 = l
  induction l generalizing t with
  | nil => exact h
  | cons n l ih =>
    refine ih ?_
    dsimp only
    split
    next hmoves =>
      have hne : st ≠ n := by
        rintro rfl
        rw [h.stream, hstays] at hmoves
        cases hmoves
      exact ⟨(State.sgsStream_setSgs_other t n st _ hne).trans h.stream, h.reg⟩
    next => exact h

theorem SameSgsStream.sgsLehrEnd {st : Nat} {s t : State} (h : SameSgsStream st s t) (hst : st < 128)
    (hstays : (s.sgsStream st).movingTo = none) (k : Nat) : SameSgsStream st s (t.sgsLehrEnd k) := by
  have hstatus : Reg.SGS_STRM_STATE st ≠ Reg.SGS_STATUS k := (sgsStatus_ne_stream hst).symm
  unfold State.sgsLehrEnd
  split
  · split
    · exact h.wr _ hstatus
    · exact (h.wr _ hstatus).sgsRetarget hstays
    · exact h
  · exact h

/-- A stream is on station `k`, with all its tracks. -/
def State.sgsMoved (s : State) (st k : Nat) : State :=
  ((s.setSgs st { s.sgsStream st with movingTo := none }).wr (Reg.SGS_STRM_STATE_STATION st) k).wr (Reg.SGS_STRM_STATE_STATE st) 1

theorem exec_sgsMoveDone_fits {s : State} {st k : Nat} (hk : k < 4) (hto : (s.sgsStream st).movingTo = some k) (hstate : s.sgsSt st = 2)
    (hops : ∀ o ∈ s.sgs.ops, o.station ≠ s.sgsStation st) (hfits : (s.sgsStream st).trk.tracks.length ≤ s.trkFree k) :
    exec (.sgsMoveDone st) s = .next ((((s.sgsMoved st k).sgsStrmNote st).stationsNote).sgsLehrEnd (s.sgsStation st)) := by
  change execSgsMoveDone st s = _
  unfold execSgsMoveDone
  dsimp only
  rw [hto]
  dsimp only
  rw [if_pos, Nat.sub_eq_zero_of_le hfits]
  · simp only [List.take_zero, List.any_nil, Bool.not_false, List.filter_true, List.isEmpty_nil, if_true]
    rfl
  · refine ⟨hstate, hk, List.all_eq_true.mpr fun o ho => ?_⟩
    split
    · rw [beq_false_of_ne (hops o ho)]
      rfl
    · rfl

theorem sgsMoved_spec (s : State) (st : Nat) {k : Nat} (hk : k < 4) :
    (s.sgsMoved st k).sgsSt st = 1 ∧ (s.sgsMoved st k).sgsStation st = k ∧
      (s.sgsMoved st k).sgsStream st = { s.sgsStream st with movingTo := none } := by
  refine ⟨rd_wr_same _ _ _ (show 0 + 3 ≤ 32 by decide), ?_, State.sgsStream_setSgs s st _⟩
  refine (rd_wr_field _ (Reg.SGS_STRM_STATE_STATE st) (Reg.SGS_STRM_STATE_STATION st) 1 rfl (show 0 + 3 ≤ 32 by decide)
    (.inr (show 0 + 3 ≤ 30 by decide))).trans ?_
  exact (rd_wr_same _ _ _ (show 30 + 2 ≤ 32 by decide)).trans (Nat.mod_eq_of_lt hk)

end Sys2Proof.Machine
end

section
/-! SUPPORT. The claim on the operations and moves of the set and graph stations. -/

set_option Elab.async false

namespace Sys2Proof

open Machine

/-- Settles O37: all eight instructions are `startOp` with their opcode, which puts the operation on its unit; a commit is that of a node
beside an open one; a station and a moved stream are read off after the registers that follow them. -/
theorem stationOperationsStartCommitAndMove : Obligations.StationOperationsStartCommitAndMove := by
  unfold Obligations.StationOperationsStartCommitAndMove
  intro runs
  have hruns : ∀ (i : Nat → Nat → Instr) (opc : Nat), (∀ job node s, exec (i job node) s = .next (s.startOp job node opc)) →
      runs i opc := by
    intro i opc hexec s job node w k j hnode hsaving hstation hfree hfirst hready hfault
    exact ⟨_, hexec job node s, startOp_spec ⟨hnode, hsaving, hstation, hfree, hfirst, hready, hfault⟩⟩
  refine ⟨⟨hruns _ _ fun _ _ _ => rfl, hruns _ _ fun _ _ _ => rfl, hruns _ _ fun _ _ _ => rfl, hruns _ _ fun _ _ _ => rfl,
    hruns _ _ fun _ _ _ => rfl, hruns _ _ fun _ _ _ => rfl, hruns _ _ fun _ _ _ => rfl, hruns _ _ fun _ _ _ => rfl⟩,
    ?commit, ?offline, ?moved⟩
  case commit =>
    intro s u k w o j hdone hu hjob hword hopen
    obtain ⟨q, hq, -, hcommitted, hout⟩ := sgsOperationCommit_nodeDone k (u.sgsCalc j o.node w) hu hjob hopen
    exact ⟨_, exec_sgsOperationCommit hdone hu hjob hword, q, hq, hcommitted, hout⟩
  case offline =>
    refine fun s k _ hreach => ⟨fun hup => ?_, fun hlehr => ?_, fun hoffline hops => ?_⟩
    · exact ⟨_, exec_sgsOffline_up hreach hup, sgsLeaving_spec s k⟩
    · exact ⟨_, exec_sgsOffline_lehr hreach hlehr,
        (rd_wr_reg _ _ _ _ (sgsCtrl_ne_status k)).trans (rd_sgsOffline_wr s k (by decide)), stationSt_wr_same _ k (by decide)⟩
    · exact ⟨_, exec_sgsOffline_offline hreach hoffline, sgsReturned_spec k hops⟩
  case moved =>
    intro s st k hst hk hto hstate hops hfits
    obtain ⟨hrun, hstation, hstream⟩ := sgsMoved_spec s st hk
    have hsame := (((SameSgsStream.refl st (s.sgsMoved st k)).sgsStrmNote).stationsNote hst).sgsLehrEnd hst (by rw [hstream])
      (s.sgsStation st)
    refine ⟨_, exec_sgsMoveDone_fits hk hto hstate hops hfits, (rd_of_reg (f := Reg.SGS_STRM_STATE_STATE st) hsame.reg).trans hrun,
      (rd_of_reg (f := Reg.SGS_STRM_STATE_STATION st) hsame.reg).trans hstation, ?_, ?_⟩
    · rw [hsame.stream, hstream]
    · rw [hsame.stream, hstream]

end Sys2Proof
end

section
/-! SUPPORT. What every step does, whatever its command: it goes on, it takes the front command alone, and it keeps TERMINATED. -/

set_option Elab.async false

namespace Sys2Proof

open Machine

/-- Settles O1: `step` looks at the queue alone, and its front is `c`. -/
theorem stepRunsTheFrontCommand : Obligations.StepRunsTheFrontCommand := fun _ _ _ => rfl

/-- A tick of the always-on domain keeps what every command keeps. -/
theorem tick_keeps (s : Machine.State) : Keeps 8388667 s s.tick := State.tick_keeps s rfl (Keeps.refl s)

/-- Settles O3: an empty queue ticks, and a command goes on by `exec_keeps`. -/
theorem everyStepGoesOn : Obligations.EveryStepGoesOn := by
  intro s
  unfold safeStep step
  split
  case h_1 => exact ⟨_, rfl⟩
  case h_2 c rest _ => exact (exec_keeps c _).goesOn

/-- Settles O4: the queue's rest is given to the command, which leaves the queue alone, and so does a tick. -/
theorem aStepTakesExactlyTheFrontCommand : Obligations.AStepTakesExactlyTheFrontCommand := by
  intro s t hstep
  unfold step at hstep
  split at hstep
  case h_1 hq =>
    cases hstep
    rw [(tick_keeps s).pending, hq, List.tail_nil]
  case h_2 c rest hq =>
    rw [((exec_keeps c _).next t hstep).pending, hq, List.tail_cons]

/-- Three equal fuse copies are read as what they hold (R706). -/
theorem lifecycle_of_terminated {s : Machine.State} (h : terminated s) : s.lifecycle = 4 := by
  unfold State.lifecycle SecSt.lifecycle
  rw [h.1]
  rfl

/-- A step keeps TERMINATED: a tick and every command do. -/
theorem step_terminated {s t : Machine.State} (hs : terminated s) (hstep : step s = .next t) : terminated t := by
  unfold step at hstep
  split at hstep
  case h_1 =>
    cases hstep
    exact (tick_keeps s).term hs
  case h_2 c rest _ => exact ((exec_keeps c { s with pending := rest }).next t hstep).term hs

/-- Settles O6: a step keeps all three fuse copies, and they read as TERMINATED. -/
theorem terminatedIsFinal : Obligations.TerminatedIsFinal := fun _ _ hs hstep =>
  ⟨step_terminated hs hstep, lifecycle_of_terminated (step_terminated hs hstep)⟩

end Sys2Proof
end

section
/-! SUPPORT. Folds that leave something as it was, and registers that a list of states agree on. -/

set_option Elab.async false

namespace Sys2Proof.Machine

/-- A command that is a BAR0 write, at an address that the V96 serves. -/
theorem exec_of_reaches {i : Instr} {s : State} {a : Nat} {f : State → State} (h : reaches s a)
    (hexec : exec i s = s.bar a fun s => .next (f s)) : exec i s = .next (f s) := hexec.trans (bar_of_reaches h _)

/-- A fold whose every step leaves the state as it is. -/
theorem foldl_unchanged {α : Type} {f : State → α → State} {s : State} {l : List α} (h : ∀ x ∈ l, f s x = s) :
    l.foldl f s = s :=
  List.foldlRecOn (motive := fun t => t = s) l f rfl fun t ht x hx => by rw [ht, h x hx]

/-- A fold of steps that leave a register alone. -/
theorem reg_foldl {α : Type} {f : State → α → State} {a : Nat} {l : List α} (s : State)
    (h : ∀ t, ∀ x ∈ l, (f t x).reg a = t.reg a) : (l.foldl f s).reg a = s.reg a :=
  List.foldlRecOn (motive := fun t : State => t.reg a = s.reg a) l f rfl fun t ht x hx => (h t x hx).trans ht

/-- Storing a field changes its register alone. -/
theorem onlyRegs_wr (s : State) (f : RegField) (v : Nat) : onlyRegs [f.addr] s (s.wr f v) :=
  ⟨rfl, fun a ha => reg_wr_other s f v a (by simpa using ha)⟩

/-- A fold of steps that change the register file alone. -/
theorem regsOnly_foldl {α : Type} {f : State → α → State} {l : List α} (s : State)
    (h : ∀ t, ∀ x ∈ l, f t x = { t with regs := (f t x).regs }) : l.foldl f s = { s with regs := (l.foldl f s).regs } := by
  refine List.foldlRecOn (motive := fun t : State => t = { s with regs := t.regs }) l f rfl fun t ht x hx => ?_
  have hstep := h t x hx
  rw [hstep, ht]

end Sys2Proof.Machine
end

section
/-! SUPPORT. The guards of the service classes, the states of a class, its starvation, and the grants of the fabric. -/

set_option Elab.async false

namespace Sys2Proof.Machine

/-! ### Guards (R543) -/

/-- The staged guards that R543 lets apply. -/
def guardsOk (l : List Guards) : Bool :=
  l.all (fun g => decide (1 ≤ g.share) && decide (g.share ≤ 16)) && sumNat (l.map (·.share)) == 16 &&
    disjoint4 (l.map (·.ways)) && disjoint4 (l.map (·.pch))

/-- New guards apply: FAILED is 0, and each class shows the cores it is entitled to. -/
def State.guardsApplied (s : State) (new : List Guards) : State :=
  (List.range 4).foldl (fun s n => s.wr (Reg.SCHED_CLS_CORES_ENTITLED n) (s.entitled n))
    ({ s.wr Reg.SCHED_CLS_COMMIT_FAILED 0 with sched := { s.sched with guards := some new } } : State)

/-- Ways whose class changes begin to move in every station buffer. -/
def State.waysMove (s : State) (moved : List Nat) : State :=
  (List.range 8).foldl (fun s k =>
    let b := s.stationBuf k
    let mv := moved.map (fun w => (w, 3072)) ++ b.moving.filter (fun q => !moved.contains q.1)
    (s.setStationBuf k { b with moving := mv }).sbNote k) s

/-- The ways whose class the new guards change. -/
def State.waysChanged (s : State) (new : List Guards) : List Nat :=
  let old := (List.range 4).map s.guard
  (List.range 16).filter (fun w => (wayClass old w).isSome && (wayClass new w).isSome && wayClass old w != wayClass new w)

theorem exec_schedClsCommit_ok {s : State} (hreach : reaches s Reg.SCHED_CLS_COMMIT) (hok : guardsOk s.staged = true) :
    exec .schedClsCommit s = .next ((s.guardsApplied s.staged).waysMove (s.waysChanged s.staged)) := by
  show execSchedClsCommit s = _
  unfold execSchedClsCommit
  rw [bar_of_reaches hreach]
  exact if_pos hok

theorem exec_schedClsCommit_bad {s : State} (hreach : reaches s Reg.SCHED_CLS_COMMIT) (hbad : guardsOk s.staged = false) :
    exec .schedClsCommit s = .next ((s.wr Reg.SCHED_CLS_COMMIT_FAILED 1).schedErr 0x0601 127 0xFFFF) := by
  show execSchedClsCommit s = _
  unfold execSchedClsCommit
  rw [bar_of_reaches hreach]
  exact if_neg (ne_true_of_eq_false hbad)

theorem sched_waysMove (s : State) (moved : List Nat) : (s.waysMove moved).sched = s.sched :=
  (Keeps.foldl (L := 262145) (Keeps.refl s) fun _ _ h =>
    State.sbNote_keeps _ _ rfl (State.setStationBuf_keeps _ _ _ rfl h)).parts.same .sched rfl

theorem sched_guardsApplied (s : State) (new : List Guards) :
    (s.guardsApplied new).sched = { s.sched with guards := some new } := by
  unfold State.guardsApplied
  rw [regsOnly_foldl _ fun t n _ => rfl]

theorem reg_sbNote (s : State) {a k : Nat} (hstatus : a ≠ Reg.MEM_SB_STATUS k) (hpinned : a ≠ Reg.MEM_SB_PINNED k) :
    (s.sbNote k).reg a = s.reg a :=
  (reg_wr_other _ _ _ _ hpinned).trans (reg_wr_other _ _ _ _ hstatus)

/-- Below the registers of the on-chip memories a move of ways writes nothing. -/
theorem reg_waysMove (s : State) (moved : List Nat) {a : Nat} (ha : a < 0x1A00000) : (s.waysMove moved).reg a = s.reg a := by
  refine reg_foldl s fun t k _ => (reg_sbNote _ ?_ ?_).trans rfl
  · simp only [Reg.MEM_SB_STATUS]; omega
  · simp only [Reg.MEM_SB_PINNED]; omega

theorem rd_guardsApplied_failed (s : State) (new : List Guards) : (s.guardsApplied new).rd Reg.SCHED_CLS_COMMIT_FAILED = 0 := by
  refine (rd_of_reg (reg_foldl _ fun t n _ => reg_wr_other _ _ _ _ ?_)).trans (rd_wr_same s _ 0 (by decide))
  show (0x080001C : Nat) ≠ 0x0800110 + 0x20 * n
  omega

/-- Recording an error of the scheduler leaves VALID 1. -/
theorem rd_schedErr_valid (s : State) (code wh inst : Nat) : (s.schedErr code wh inst).rd Reg.SCHED_ERR_VALID = 1 :=
  (rd_file _ _ _ _ _ _ _ (by decide) (by decide)).trans (rd_setErr_valid s _ true (16, 7, wh) code (by simp) (by simp))

/-- The first error of the scheduler is kept with its code. -/
theorem rd_schedErr_code {s : State} (h : s.rd Reg.SCHED_ERR_VALID = 0) (code wh inst : Nat) :
    (s.schedErr code wh inst).rd Reg.SCHED_ERR_CODE = code % 2 ^ 16 :=
  (rd_file _ _ _ _ _ _ _ (by decide) (by decide)).trans (rd_setErr_code s _ true (16, 7, wh) code (by simp) (by simp) h)

/-! ### The states of a class (R561) -/

/-- The registers that `schedNote` writes. -/
def schedNoteRegs : List Nat :=
  Reg.SCHED_STATUS :: (List.range 4).flatMap (fun n => [Reg.SCHED_CLS_CORES n, Reg.SCHED_CLS_READY n]) ++
    (List.range 8).map Reg.SCHED_CLU_STATUS

theorem reg_schedNote_other (s : State) {a : Nat} (h : a ∉ schedNoteRegs) : s.schedNote.reg a = s.reg a := by
  simp only [schedNoteRegs, List.cons_append, List.mem_cons, List.mem_append, List.mem_flatMap, List.mem_map, not_or,
    List.mem_range, List.not_mem_nil, or_false, not_exists, not_and] at h
  obtain ⟨hstatus, hclasses, hclusters⟩ := h
  unfold State.schedNote
  refine (reg_foldl _ fun t k hk => ?clusters).trans ((reg_foldl _ fun t n hn => ?classes).trans ?status)
  case status => exact (reg_wr_other _ _ _ _ hstatus).trans (reg_wr_other _ _ _ _ hstatus)
  case classes =>
    obtain ⟨hcores, hready⟩ := hclasses n (List.mem_range.mp hn)
    exact (reg_wr_other _ _ _ _ hready).trans (reg_wr_other _ _ _ _ hcores)
  case clusters =>
    have hne := Ne.symm (hclusters k (List.mem_range.mp hk))
    exact (reg_wr_other _ _ _ _ hne).trans (reg_wr_other _ _ _ _ hne)

theorem schedNote_eq (s : State) : s.schedNote = { s with regs := s.schedNote.regs } :=
  (State.schedNote_keeps s rfl (.refl s)).eq_regs

theorem clsCfg_not_schedNote : ∀ svc, svc < 4 → Reg.SCHED_CLS_CFG svc ∉ schedNoteRegs := by decide

theorem issues_wr (s : State) (f : RegField) (v svc c : Nat) : (s.wr f v).issues svc c = s.issues svc c := by rfl

/-- A class that no core works for goes off without a change but for the registers that follow the queues. -/
theorem classOff_of_free {s : State} {svc : Nat}
    (h : ∀ c, c < 64 → s.issues svc c = false ∧ ∀ tj ∈ (s.core c).placed, tj.svc ≠ svc) : s.classOff svc = s.schedNote := by
  unfold State.classOff
  rw [foldl_unchanged]
  intro c hc
  obtain ⟨hissues, hplaced⟩ := h c (List.mem_range.mp hc)
  have hnone : (s.core c).placed.filter (fun t => t.svc == svc) = [] := by simpa [List.filter_eq_nil_iff] using hplaced
  simp [hissues, hnone]

/-- The write of SHARE and ENABLE of a class. -/
def State.clsTake (s : State) (svc : Nat) (w : BitVec 32) : State :=
  (s.wr (Reg.SCHED_CLS_CFG_SHARE svc) (bitsOf w.toNat 0 5)).wr (Reg.SCHED_CLS_CFG_ENABLE svc) (bitsOf w.toNat 31 1)

/-- The state of a class after a write of ENABLE (R561). -/
def clsNext (en st : Nat) : Nat := if en = 1 then (if st = 0 then 1 else if st = 2 then 3 else st) else if st = 1 ∨ st = 3 then 2 else st

/-- What a write of SCHED_CLS_CFG leaves: the state it leads to, SHARE and ENABLE as written, and the rest of the machine alone. -/
structure ClsTaken (svc : Nat) (w : BitVec 32) (st : Nat) (s t : State) : Prop where
  state : t.rd (Reg.SCHED_CLS_CFG_STATE svc) = st
  share : t.rd (Reg.SCHED_CLS_CFG_SHARE svc) = bitsOf w.toNat 0 5
  enable : t.rd (Reg.SCHED_CLS_CFG_ENABLE svc) = bitsOf w.toNat 31 1
  eq : t = { s with regs := t.regs }

theorem clsTake_taken (s : State) (svc : Nat) (w : BitVec 32) :
    ClsTaken svc w (s.rd (Reg.SCHED_CLS_CFG_STATE svc)) s (s.clsTake svc w) where
  state := by simp [State.clsTake]
  share := (rd_wr_part_other _ _ _ (by decide) (by decide)).trans
    ((rd_wr_part_same s _ _ (by decide)).trans (Nat.mod_eq_of_lt (bitsOf_lt w.toNat 0 5)))
  enable := (rd_wr_part_same _ _ _ (by decide)).trans (Nat.mod_eq_of_lt (bitsOf_lt w.toNat 31 1))
  eq := rfl

theorem ClsTaken.wr {svc : Nat} {w : BitVec 32} {st v : Nat} {s t : State} (h : ClsTaken svc w st s t) (hv : v < 8) :
    ClsTaken svc w v s (t.wr (Reg.SCHED_CLS_CFG_STATE svc) v) where
  state := (rd_wr_part_same t _ v (by decide)).trans (Nat.mod_eq_of_lt hv)
  share := (rd_wr_part_other t _ v (by decide) (by decide)).trans h.share
  enable := (rd_wr_part_other t _ v (by decide) (by decide)).trans h.enable
  eq := congrArg (State.wr · (Reg.SCHED_CLS_CFG_STATE svc) v) h.eq

theorem ClsTaken.schedNote {svc : Nat} {w : BitVec 32} {st : Nat} {s t : State} (h : ClsTaken svc w st s t) (hsvc : svc < 4) :
    ClsTaken svc w st s t.schedNote where
  state := (rd_of_reg (reg_schedNote_other t (clsCfg_not_schedNote svc hsvc))).trans h.state
  share := (rd_of_reg (reg_schedNote_other t (clsCfg_not_schedNote svc hsvc))).trans h.share
  enable := (rd_of_reg (reg_schedNote_other t (clsCfg_not_schedNote svc hsvc))).trans h.enable
  eq := by rw [schedNote_eq, h.eq]

/-- CLASS_ENABLE, no core working for a class that it puts in LEHR. -/
theorem exec_classEnable {s : State} {svc : Nat} (w : BitVec 32) (hsvc : svc < 4) (hreach : reaches s (Reg.SCHED_CLS_CFG svc))
    (hfree : bitsOf w.toNat 31 1 = 0 → s.rd (Reg.SCHED_CLS_CFG_STATE svc) = 1 →
      ∀ c, c < 64 → s.issues svc c = false ∧ ∀ tj ∈ (s.core c).placed, tj.svc ≠ svc) :
    ∃ t, exec (.classEnable svc w) s = .next t ∧
      ClsTaken svc w (clsNext (bitsOf w.toNat 31 1) (s.rd (Reg.SCHED_CLS_CFG_STATE svc))) s t := by
  have htaken := clsTake_taken s svc w
  show ∃ t, execClassEnable svc w s = .next t ∧ _
  unfold execClassEnable
  rw [bar_of_reaches hreach]
  dsimp only
  rw [if_pos hsvc]
  have hen : bitsOf w.toNat 31 1 < 2 := bitsOf_lt _ _ _
  have hmoves : ∀ v, v < 8 → clsNext (bitsOf w.toNat 31 1) (s.rd (Reg.SCHED_CLS_CFG_STATE svc)) = v →
      ClsTaken svc w (clsNext (bitsOf w.toNat 31 1) (s.rd (Reg.SCHED_CLS_CFG_STATE svc))) s
        ((s.clsTake svc w).wr (Reg.SCHED_CLS_CFG_STATE svc) v) := fun v hv h => by rw [h]; exact htaken.wr hv
  split
  case h_1 hoff hst =>
    refine ⟨_, rfl, ?_⟩
    rw [classOff_of_free fun c hc => ?free]
    case free =>
      simp only [issues_wr, State.core_wr]
      exact hfree hoff hst c hc
    exact (hmoves 2 (by decide) (by rw [hoff, hst]; rfl)).schedNote hsvc
  case h_2 hoff hst => exact ⟨_, rfl, hmoves 2 (by decide) (by rw [hoff, hst]; rfl)⟩
  case h_3 hon hst => exact ⟨_, rfl, hmoves 1 (by decide) (by rw [hon, hst]; rfl)⟩
  case h_4 hon hst => exact ⟨_, rfl, hmoves 3 (by decide) (by rw [hon, hst]; rfl)⟩
  case h_5 h01 h03 h10 h12 =>
    have hstays : clsNext (bitsOf w.toNat 31 1) (s.rd (Reg.SCHED_CLS_CFG_STATE svc)) = s.rd (Reg.SCHED_CLS_CFG_STATE svc) := by
      unfold clsNext
      split
      · rw [if_neg (h10 ‹_›), if_neg (h12 ‹_›)]
      · have hoff : bitsOf w.toNat 31 1 = 0 := by omega
        rw [if_neg (not_or.mpr ⟨h01 hoff, h03 hoff⟩)]
    exact ⟨_, rfl, by rw [hstays]; exact htaken⟩

/-- CLASS_LEHR_END of a class in lehr that no core works for. -/
theorem exec_classLehrEnd {s : State} {svc : Nat}
    (hstate : s.rd (Reg.SCHED_CLS_CFG_STATE svc) = 2 ∨ s.rd (Reg.SCHED_CLS_CFG_STATE svc) = 3)
    (hfree : ∀ c, c < 64 → s.issues svc c = false ∧
      ¬((s.core c).cls = some svc ∧ (s.core c).lehr = 3 ∧ (s.coreState c = 2 ∨ s.coreState c = 3))) :
    exec (.classLehrEnd svc) s =
      .next (s.wr (Reg.SCHED_CLS_CFG_STATE svc) (if s.rd (Reg.SCHED_CLS_CFG_STATE svc) = 2 then 0 else 1)) := by
  have hbusy : (List.range 64).any (fun c => s.issues svc c || ((s.core c).cls == some svc && decide ((s.core c).lehr = 3) &&
      decide (s.coreState c = 2 ∨ s.coreState c = 3))) = false := by
    rw [List.any_eq_false]
    intro c hc
    obtain ⟨hissues, hstopped⟩ := hfree c (List.mem_range.mp hc)
    simpa [hissues, and_assoc] using hstopped
  show execClassLehrEnd svc s = _
  unfold execClassLehrEnd
  dsimp only
  rw [hbusy]
  rcases hstate with h | h <;> rw [h] <;> rfl

/-! ### Starvation (R563) -/

/-- A tile job of the class that is ready beyond STARVE_MS and not yet recorded. -/
def State.starves (s : State) (svc : Nat) (t : TileJob) : Bool :=
  t.svc == svc && !t.starved && decide (s.rd Reg.SCHED_STARVE_STARVE_MS * 10 ^ 6 < s.time.mono - t.since)

/-- The ready tile jobs of the class that starve are marked. -/
def State.starvedMarked (s : State) (svc : Nat) : State :=
  { s with sched := { s.sched with ready := s.sched.ready.map (fun t => if s.starves svc t then { t with starved := true } else t) } }

theorem rd_starvedMarked (s : State) (svc : Nat) (f : RegField) : (s.starvedMarked svc).rd f = s.rd f := by rfl

theorem exec_starveCheck {s : State} {svc : Nat} {tj : TileJob} (hon : s.rd Reg.SCHED_STARVE_STARVE_MS ≠ 0)
    (hready : tj ∈ s.sched.ready) (hstarves : s.starves svc tj = true) :
    exec (.starveCheck svc) s = .next ((s.starvedMarked svc).schedErr 0x0604 (64 + svc) svc) :=
  if_pos ⟨hon, List.any_eq_true.mpr ⟨tj, hready, hstarves⟩⟩

theorem mem_starvedMarked {s : State} {svc : Nat} {u : TileJob} (hu : u ∈ (s.starvedMarked svc).sched.ready) (hsvc : u.svc = svc)
    (hlate : s.rd Reg.SCHED_STARVE_STARVE_MS * 10 ^ 6 < s.time.mono - u.since) : u.starved = true := by
  obtain ⟨t, -, rfl⟩ := List.mem_map.mp hu
  by_cases h : s.starves svc t = true
  · rw [if_pos h]
  · rw [if_neg h] at hsvc hlate ⊢
    have hnot : ¬(t.starved = false ∧ s.rd Reg.SCHED_STARVE_STARVE_MS * 10 ^ 6 < s.time.mono - t.since) := by
      simpa [State.starves, hsvc] using h
    simpa using fun hstarved => hnot ⟨hstarved, hlate⟩

/-! ### Grants of the fabric (R546, R547) -/

theorem afterPtr_mem (last : Option Nat) {l : List Nat} (h : l ≠ []) : ∃ p ∈ l, afterPtr last l = some p := by
  obtain ⟨x, hx⟩ := List.exists_mem_of_ne_nil l h
  obtain ⟨p, hp⟩ := minBy?_of_mem (fun p => p) hx
  have hlow : ∃ p ∈ l, minBy? (fun p => p) l = some p := ⟨p, mem_of_minBy? hp, hp⟩
  unfold afterPtr
  cases last with
  | none => exact hlow
  | some q =>
    dsimp only
    split
    · exact ⟨_, List.mem_of_mem_filter (mem_of_minBy? ‹_›), rfl⟩
    · exact hlow

theorem afterPtr_single (last : Option Nat) (p : Nat) : afterPtr last [p] = some p := by
  obtain ⟨q, hq, h⟩ := afterPtr_mem last (List.cons_ne_nil p [])
  rw [h, List.mem_singleton.mp hq]

/-- Among some inputs one has the greatest age: no other is older. -/
theorem exists_eldest (now : Nat) {l : List (Nat × Nat × Nat)} (h : l ≠ []) :
    ∃ q ∈ l, ∀ r ∈ l, olderTicket now r.2.1 q.2.1 = false := by
  obtain ⟨x, hx⟩ := List.exists_mem_of_ne_nil l h
  obtain ⟨q, hq, hmax⟩ := l.toFinset.exists_max_image (fun q => ticketAge now q.2.1) ⟨x, List.mem_toFinset.mpr hx⟩
  refine ⟨q, List.mem_toFinset.mp hq, fun r hr => ?_⟩
  have := hmax r (List.mem_toFinset.mpr hr)
  simpa [olderTicket] using this

/-- One of the inputs presented is served. -/
theorem pickInput_mem (now win : Nat) (last : Option Nat) {l : List (Nat × Nat × Nat)} (h : l ≠ []) :
    ∃ q ∈ l, ∃ forced tie, pickInput now win last l = some (q.1, forced, tie) := by
  have hpool : ∃ pool : List (Nat × Nat × Nat), pool ≠ [] ∧ (∀ q ∈ pool, q ∈ l) ∧ ∃ forced tie,
      pickInput now win last l = (afterPtr last (pool.map (·.1))).map (fun p => (p, forced, tie)) := by
    refine ⟨_, ?_, ?_, _, _, rfl⟩
    · split
      · obtain ⟨q, hq, heldest⟩ := exists_eldest now h
        exact List.ne_nil_of_mem (List.mem_filter.mpr ⟨hq, List.all_eq_true.mpr fun r hr => by rw [heldest r hr]; rfl⟩)
      · exact fun hnil => by simp [hnil] at *
    · intro q hq
      split at hq <;> exact List.mem_of_mem_filter hq
  obtain ⟨pool, hne, hsub, forced, tie, hpick⟩ := hpool
  obtain ⟨p, hp, hafter⟩ := afterPtr_mem last (mt List.map_eq_nil_iff.mp hne)
  obtain ⟨q, hq, rfl⟩ := List.mem_map.mp hp
  exact ⟨q, hsub q hq, forced, tie, by rw [hpick, hafter]; rfl⟩

/-- Of two inputs that nothing passed, the older is served. -/
theorem pickInput_older {now win : Nat} (last : Option Nat) {p q t u : Nat} (hwin : 0 < win) (h : olderTicket now t u = true) :
    ∃ forced tie, pickInput now win last [(p, t, 0), (q, u, 0)] = some (p, forced, tie) := by
  have hage : ticketAge now u < ticketAge now t := by simpa [olderTicket] using h
  have hno : olderTicket now u t = false := by simpa [olderTicket] using hage.le
  have hself : ∀ x, olderTicket now x x = false := fun x => by simp [olderTicket]
  refine ⟨false, false, ?_⟩
  simp [pickInput, hwin, h, hno, hself, afterPtr_single]

/-- The request that a leaf nominates among the heads of its ports. -/
def State.nominee (s : State) (heads : List FabHead) (f : Nat) : Option (Nat × FabHead × Bool × Bool) :=
  let a := s.sched.arb
  let mine := heads.filter (fun h => h.leaf == f)
  match pickInput s.ticketNow (max 1 (s.rd Reg.SCHED_ARB_WINDOW)) ((a.rrLeaf.find? (fun q => q.1 == f)).map (·.2))
      (mine.map (fun h => (h.port, h.ticket,
        match a.heads.find? (fun q => q.1 == f && q.2.1 == h.port) with | some q => q.2.2 | none => 0))) with
  | none => none
  | some (p, forced, tie) => (mine.find? (fun h => h.port == p)).map (fun h => (f, h, forced, tie))

/-- The nominations of the leaves that have a request. -/
def State.nominations (s : State) (heads : List FabHead) : List (Nat × FabHead × Bool × Bool) :=
  ((heads.map (·.leaf)).eraseDups).filterMap (s.nominee heads)

theorem nominee_some (s : State) {heads : List FabHead} {x : FabHead} (hx : x ∈ heads) :
    ∃ h ∈ heads, ∃ forced tie, h.leaf = x.leaf ∧ s.nominee heads x.leaf = some (x.leaf, h, forced, tie) := by
  have hmine : x ∈ heads.filter (fun h => h.leaf == x.leaf) := List.mem_filter.mpr ⟨hx, beq_self_eq_true _⟩
  unfold State.nominee
  dsimp only
  obtain ⟨q, hq, forced, tie, hpick⟩ := pickInput_mem s.ticketNow (max 1 (s.rd Reg.SCHED_ARB_WINDOW))
    ((s.sched.arb.rrLeaf.find? (fun q => q.1 == x.leaf)).map (·.2))
    (List.ne_nil_of_mem (List.mem_map_of_mem (f := fun h : FabHead => (h.port, h.ticket,
      match s.sched.arb.heads.find? (fun q => q.1 == x.leaf && q.2.1 == h.port) with | some q => q.2.2 | none => 0)) hmine))
  obtain ⟨y, hy, rfl⟩ := List.mem_map.mp hq
  obtain ⟨h, hfind⟩ := Option.isSome_iff_exists.mp (List.find?_isSome (p := fun h : FabHead => h.port == y.port) |>.mpr
    ⟨y, hy, beq_self_eq_true _⟩)
  have hmem := List.mem_filter.mp (List.mem_of_find?_eq_some hfind)
  refine ⟨h, hmem.1, forced, tie, by simpa using hmem.2, ?_⟩
  rw [hpick]
  dsimp only
  rw [hfind]
  rfl

/-- The nominations as the top level sees them: leaf, ticket and times passed. -/
def State.topInputs (s : State) (heads : List FabHead) : List (Nat × Nat × Nat) :=
  (s.nominations heads).map (fun q => (q.1, q.2.1.ticket,
    match s.sched.arb.tops.find? (fun r => r.1 == q.1) with | some r => r.2 | none => 0))

/-- The top level serves a leaf, whose nominee is granted. -/
theorem exec_fabricRequestGrant {s : State} {heads : List FabHead} {f : Nat} {h : FabHead} {forced tie lf lt : Bool}
    (hpick : pickInput s.ticketNow (max 1 (s.rd Reg.SCHED_ARB_WINDOW)) s.sched.arb.rrTop (s.topInputs heads) = some (f, forced, tie))
    (hfind : (s.nominations heads).find? (fun q => q.1 == f) = some (f, h, lf, lt)) :
    completes (.fabricRequestGrant heads) s fun t =>
      t.out = s.out ++ [Out.grant f h.port h.ticket] ∧ t.regs = s.regs ∧ t.jobs = s.jobs := by
  show ∃ t, execFabricRequestGrant heads s = .next t ∧ _
  unfold execFabricRequestGrant
  dsimp only
  split
  case h_1 hnone => exact absurd (hnone.symm.trans hpick) (by simp)
  case h_2 f' forced' tie' hsome =>
    cases hsome.symm.trans hpick
    split
    case h_1 hnone => exact absurd (hnone.symm.trans hfind) (by simp)
    case h_2 _ h' lf' lt' hsome =>
      cases hsome.symm.trans hfind
      refine ⟨_, rfl, ?_⟩
      cases forced || lf <;> exact ⟨rfl, rfl, rfl⟩

theorem mem_nominations {s : State} {heads : List FabHead} {q : Nat × FabHead × Bool × Bool} (hq : q ∈ s.nominations heads) :
    q.2.1 ∈ heads ∧ q.2.1.leaf = q.1 := by
  obtain ⟨f, hf, hnominee⟩ := List.mem_filterMap.mp hq
  obtain ⟨x, hx, rfl⟩ := List.mem_map.mp (List.mem_eraseDups.mp hf)
  obtain ⟨h, hh, forced, tie, hleaf, hsome⟩ := nominee_some s hx
  rw [hsome] at hnominee
  cases hnominee
  exact ⟨hh, hleaf⟩

/-- One of the requests presented is granted. -/
theorem fabricRequestGrant_grants (s : State) {heads : List FabHead} (hne : heads ≠ []) :
    completes (.fabricRequestGrant heads) s fun t =>
      (∃ h ∈ heads, t.out = s.out ++ [Out.grant h.leaf h.port h.ticket]) ∧ t.regs = s.regs ∧ t.jobs = s.jobs := by
  obtain ⟨x, hx⟩ := List.exists_mem_of_ne_nil heads hne
  obtain ⟨h, hh, forced, tie, hleaf, hsome⟩ := nominee_some s hx
  have hnom : (x.leaf, h, forced, tie) ∈ s.nominations heads :=
    List.mem_filterMap.mpr ⟨x.leaf, List.mem_eraseDups.mpr (List.mem_map_of_mem hx), hsome⟩
  obtain ⟨r, hr, forced', tie', hpick⟩ := pickInput_mem s.ticketNow (max 1 (s.rd Reg.SCHED_ARB_WINDOW)) s.sched.arb.rrTop
    (List.ne_nil_of_mem (List.mem_map_of_mem hnom))
  obtain ⟨q, hq, rfl⟩ := List.mem_map.mp hr
  obtain ⟨⟨f, g, lf, lt⟩, hfind⟩ := Option.isSome_iff_exists.mp
    (List.find?_isSome (p := fun p : Nat × FabHead × Bool × Bool => p.1 == q.1) |>.mpr ⟨q, hq, beq_self_eq_true _⟩)
  have hf : f = q.1 := by simpa using List.find?_some hfind
  subst hf
  obtain ⟨hmem, hgleaf⟩ := mem_nominations (List.mem_of_find?_eq_some hfind)
  obtain ⟨t, hexec, hout, hregs, hjobs⟩ := exec_fabricRequestGrant hpick hfind
  exact ⟨t, hexec, ⟨g, hmem, by rw [hout, ← hgleaf]⟩, hregs, hjobs⟩

/-- Of two requests at one leaf with nothing passed, the leaf nominates the older. -/
theorem nominee_older {s : State} {a b : FabHead} (hleaf : a.leaf = b.leaf) (holder : olderTicket s.ticketNow a.ticket b.ticket = true)
    (hpassed : s.sched.arb.heads = []) : ∃ forced tie, s.nominee [a, b] a.leaf = some (a.leaf, a, forced, tie) := by
  obtain ⟨forced, tie, hpick⟩ := pickInput_older ((s.sched.arb.rrLeaf.find? (fun q => q.1 == a.leaf)).map (·.2))
    (p := a.port) (q := b.port) (Nat.lt_of_lt_of_le Nat.one_pos (Nat.le_max_left 1 (s.rd Reg.SCHED_ARB_WINDOW))) holder
  refine ⟨forced, tie, ?_⟩
  simp [State.nominee, hpassed, hleaf.symm, hpick]

theorem nominations_pair {s : State} {a b : FabHead} (hleaf : a.leaf = b.leaf) {forced tie : Bool}
    (h : s.nominee [a, b] a.leaf = some (a.leaf, a, forced, tie)) : s.nominations [a, b] = [(a.leaf, a, forced, tie)] := by
  have hdups : ([a, b].map (·.leaf)).eraseDups = [a.leaf] := by simp [hleaf, List.eraseDups_cons]
  unfold State.nominations
  rw [hdups]
  simp [h]

theorem fabricRequestGrant_older {s : State} {a b : FabHead} (hleaf : a.leaf = b.leaf)
    (holder : olderTicket s.ticketNow a.ticket b.ticket = true) (hpassed : s.sched.arb.heads = []) :
    completes (.fabricRequestGrant [a, b]) s fun t => t.out = s.out ++ [Out.grant a.leaf a.port a.ticket] := by
  obtain ⟨forced, tie, hnominee⟩ := nominee_older hleaf holder hpassed
  have hnoms := nominations_pair hleaf hnominee
  obtain ⟨r, hr, forced', tie', hpick⟩ := pickInput_mem s.ticketNow (max 1 (s.rd Reg.SCHED_ARB_WINDOW)) s.sched.arb.rrTop
    (l := s.topInputs [a, b]) (by simp [State.topInputs, hnoms])
  have hfind : (s.nominations [a, b]).find? (fun q => q.1 == a.leaf) = some (a.leaf, a, forced, tie) := by simp [hnoms]
  have hr1 : r.1 = a.leaf := by
    unfold State.topInputs at hr
    rw [hnoms] at hr
    rw [List.mem_singleton.mp hr]
  rw [hr1] at hpick
  obtain ⟨t, hexec, hout, -, -⟩ := exec_fabricRequestGrant hpick hfind
  exact ⟨t, hexec, hout⟩

end Sys2Proof.Machine
end

section
/-! SUPPORT. The claim on the classes and the arbiters. -/

set_option Elab.async false

namespace Sys2Proof

open Machine

/-- Settles O28: each command takes one branch, whose next state is a few writes to its registers; a class that no core works for goes off
by `schedNote` alone, and the grants follow `pickInput`, which serves one of its inputs. -/
theorem classesAndArbitersFollowTheirControls : Obligations.ClassesAndArbitersFollowTheirControls := by
  have hok : ∀ l, guardsOk l = true ↔ l.all (fun g => decide (1 ≤ g.share) && decide (g.share ≤ 16)) = true ∧
      sumNat (l.map (·.share)) = 16 ∧ disjoint4 (l.map (·.ways)) = true ∧ disjoint4 (l.map (·.pch)) = true := by
    intro l
    simp only [guardsOk, Bool.and_eq_true, beq_iff_eq, and_assoc]
  refine ⟨?good, ?bad, ?enable, ?lehrEnd, ?starve, ?maxwait, fun s heads hne => fabricRequestGrant_grants s hne,
    fun s a b hleaf holder hpassed => fabricRequestGrant_older hleaf holder hpassed⟩
  case good =>
    intro s hreach hgood
    refine ⟨_, exec_schedClsCommit_ok hreach ((hok _).mpr hgood), (sched_waysMove _ _).trans (sched_guardsApplied s _), ?_⟩
    exact (rd_of_reg (reg_waysMove _ _ (by decide))).trans (rd_guardsApplied_failed s _)
  case bad =>
    intro s hreach hbad
    refine ⟨_, exec_schedClsCommit_bad hreach (Bool.eq_false_iff.mpr (mt (hok _).mp hbad)), ?_, ?_, rd_schedErr_valid _ _ _ _⟩
    · exact (schedErr_records _ _ _ _).sched
    · exact ((schedErr_records _ _ _ _).rd _ (by decide) (by decide) (by decide)).trans (rd_wr_same s _ 1 (by decide))
  case enable =>
    rintro s svc _ w hsvc hreach rfl hfree
    obtain ⟨t, hexec, ht⟩ := exec_classEnable w hsvc hreach hfree
    exact ⟨t, hexec, ht.state, ht.share, ht.enable, ht.eq⟩
  case lehrEnd =>
    intro s svc _ hstate hfree
    refine ⟨_, exec_classLehrEnd hstate hfree, (rd_wr_part_same s _ _ (by decide)).trans ?_, onlyRegs_wr s _ _⟩
    split <;> rfl
  case starve =>
    rintro s _ tj hon hready rfl hfirst hlate
    refine ⟨_, exec_starveCheck hon hready (by simpa [State.starves, hfirst] using hlate), rd_schedErr_valid _ _ _ _,
      fun hvalid => rd_schedErr_code ((rd_starvedMarked s _ _).trans hvalid) _ _ _, ?_, ?_⟩
    · rw [(schedErr_records _ _ _ _).sched]
      exact fun u hu hsvc hlate => mem_starvedMarked hu hsvc hlate
    · rw [(schedErr_records _ _ _ _).sched]
      exact List.length_map _
  case maxwait =>
    intro s svc _ hreach
    exact ⟨_, exec_of_reaches (f := fun s => s.wr _ 0) hreach rfl, rd_wr_part_same s _ 0 (by decide), onlyRegs_wr s _ _⟩

end Sys2Proof
end

section
/-! SUPPORT. Registers of a set that an operation leaves as they are, operation by operation. -/

set_option Elab.async false

namespace Sys2Proof.Machine

/-- The registers that `P` names are the same. -/
structure SameRegs (P : Nat → Prop) (s t : State) : Prop where
  reg : ∀ a, P a → t.reg a = s.reg a

section
variable {P : Nat → Prop} {s t u : State}

theorem SameRegs.refl (s : State) : SameRegs P s s := ⟨fun _ _ => rfl⟩

theorem SameRegs.trans (h : SameRegs P s t) (k : SameRegs P t u) : SameRegs P s u := ⟨fun a ha => (k.reg a ha).trans (h.reg a ha)⟩

theorem SameRegs.mono {Q : Nat → Prop} (h : SameRegs P s t) (hQ : ∀ a, Q a → P a) : SameRegs Q s t := ⟨fun a ha => h.reg a (hQ a ha)⟩

theorem SameRegs.rd (h : SameRegs P s t) {f : RegField} (hf : P f.addr) : t.rd f = s.rd f := rd_of_reg (h.reg _ hf)

theorem SameRegs.of_regs (h : t.regs = s.regs) : SameRegs P s t := ⟨fun a _ => reg_of_regs h a⟩

/-- A change of the state that keeps the register file. -/
theorem SameRegs.with (h : SameRegs P s t) (hregs : u.regs = t.regs) : SameRegs P s u := h.trans (.of_regs hregs)

theorem SameRegs.of_keeps {L : Nat} (h : Keeps L s t) (hregs : L.testBit 0 = false) : SameRegs P s t :=
  .of_regs (h.parts.same .regs hregs)

theorem SameRegs.of_lowRegs (h : SameLowRegs s t) (hP : ∀ a, P a → a < 0x1900000 ∧ a ≠ Reg.HIF_SVC_LOST) : SameRegs P s t :=
  ⟨fun a ha => h.reg a (hP a ha).1 (hP a ha).2⟩

theorem SameRegs.of_records {l : List Nat} (h : Records l s t) (hP : ∀ a, P a → a / 0x100000 ≠ 0x1E ∧ a / 0x100000 ≠ 0x1F)
    (hl : ∀ a ∈ l, ¬P a) : SameRegs P s t := ⟨fun a ha => h.reg a (hP a ha).1 (hP a ha).2 fun hmem => hl a hmem ha⟩

theorem SameRegs.foldl {α : Type} {f : State → α → State} {l : List α} (hf : ∀ t, ∀ x ∈ l, SameRegs P t (f t x)) (s : State) :
    SameRegs P s (l.foldl f s) :=
  List.foldlRecOn (motive := SameRegs P s) l f (.refl s) fun t ht x hx => ht.trans (hf t x hx)

theorem SameRegs.setReg (h : SameRegs P s t) {a : Nat} (v : BitVec 32) (ha : ¬P a) : SameRegs P s (t.setReg a v) :=
  h.trans ⟨fun b hb => reg_setReg_other t a b v fun hba => ha (hba ▸ hb)⟩

theorem SameRegs.wr (h : SameRegs P s t) {f : RegField} (v : Nat) (hf : ¬P f.addr) : SameRegs P s (t.wr f v) := h.setReg _ hf

theorem SameRegs.bump (h : SameRegs P s t) {f : RegField} (n : Nat) (hf : ¬P f.addr) : SameRegs P s (t.bump f n) := h.setReg _ hf

theorem SameRegs.bumpSat (h : SameRegs P s t) {f : RegField} (hf : ¬P f.addr) : SameRegs P s (t.bumpSat f) :=
  ite_both (P := SameRegs P s) (h.wr _ hf) h

theorem SameRegs.wr64 (h : SameRegs P s t) {lo hi : Nat} (v : Nat) (hlo : ¬P lo) (hhi : ¬P hi) : SameRegs P s (t.wr64 lo hi v) :=
  (h.setReg _ hlo).setReg _ hhi

theorem SameRegs.cnt (h : SameRegs P s t) (id scope n : Nat) : SameRegs P s (t.cnt id scope n) := h.with rfl

theorem SameRegs.setCnt (h : SameRegs P s t) (id scope v : Nat) : SameRegs P s (t.setCnt id scope v) := h.with rfl

theorem SameRegs.post (h : SameRegs P s t) (o : Out) : SameRegs P s (t.post o) := h.with rfl

theorem SameRegs.setPool (h : SameRegs P s t) (c : Nat) (x : PoolCls) : SameRegs P s (t.setPool c x) := h.with rfl

theorem SameRegs.setCore (h : SameRegs P s t) (c : Nat) (x : Core) : SameRegs P s (t.setCore c x) := h.with rfl

theorem SameRegs.requeue (h : SameRegs P s t) (l : List TileJob) : SameRegs P s (t.requeue l) := h.with rfl

theorem SameRegs.setErr (h : SameRegs P s t) {a : Nat} (o : Bool) (i : Nat × Nat × Nat) (c : Nat) (ha : ¬P a) :
    SameRegs P s (t.setErr a o i c) :=
  h.trans ⟨fun b hb => reg_setErr_other t a b o i c fun hba => ha (hba ▸ hb)⟩

theorem SameRegs.file (h : SameRegs P s t) (b : Blk) (i c d0 d1 : Nat) (hP : ∀ a, P a → a / 0x100000 ≠ 0x1E ∧ a / 0x100000 ≠ 0x1F) :
    SameRegs P s (t.file b i c d0 d1) := h.trans (.of_records (file_records t b i c d0 d1) hP (by simp))

theorem SameRegs.sendSvc (h : SameRegs P s t) (p : Pn) (hP : ¬P Reg.HIF_SVC_LOST) : SameRegs P s (t.sendSvc p) :=
  h.trans ⟨fun a ha => reg_sendSvc t p a fun heq => hP (heq ▸ ha)⟩

theorem SameRegs.devError (h : SameRegs P s t) (c d0 d1 stn i : Nat) (hP : ¬P Reg.HIF_SVC_LOST) :
    SameRegs P s (t.devError c d0 d1 stn i) := h.sendSvc _ hP

theorem SameRegs.poolErr (h : SameRegs P s t) (code wh d0 d1 : Nat) (hP : ∀ a, P a → a / 0x100000 ≠ 0x1E ∧ a / 0x100000 ≠ 0x1F)
    (herr : ¬P Reg.POOL_ERR) : SameRegs P s (t.poolErr code wh d0 d1) :=
  h.trans (.of_records (poolErr_records t code wh d0 d1) hP (by simpa using herr))

end

end Sys2Proof.Machine
end

section
/-! SUPPORT. What SAVE_ALL leaves of the registers that ask for it and show it: its stops and discards write other registers. -/

set_option Elab.async false

namespace Sys2Proof.Machine

/-! ### A draw of a save area leaves the power unit's registers alone -/

/-- A register of the power unit. -/
def isPower (a : Nat) : Prop := a / 0x100000 = 0x1D

theorem isPower.no_record {a : Nat} (h : isPower a) : a / 0x100000 ≠ 0x1E ∧ a / 0x100000 ≠ 0x1F := by
  unfold isPower at h
  omega

theorem not_isPower_lost : ¬isPower Reg.HIF_SVC_LOST := by simp [isPower, Reg.HIF_SVC_LOST]

theorem not_isPower_poolErr : ¬isPower Reg.POOL_ERR := by simp [isPower, Reg.POOL_ERR]

theorem poolNote_power {s t : State} (h : SameRegs isPower s t) {c : Nat} (hc : c < 16) : SameRegs isPower s (t.poolNote c) := by
  have hhead : ¬isPower (Reg.POOL_CLS_HEADROOM c) := by simp only [isPower, Reg.POOL_CLS_HEADROOM]; omega
  have hstatus : ¬isPower (Reg.POOL_CLS_STATUS c) := by simp only [isPower, Reg.POOL_CLS_STATUS]; omega
  have hwaiters : ¬isPower (Reg.POOL_CLS_WAITERS c) := by simp only [isPower, Reg.POOL_CLS_WAITERS]; omega
  unfold State.poolNote
  dsimp only
  split
  · exact .devError (.setPool (.poolErr (.cnt (.wr (.wr (.wr (.wr (h.setReg _ hhead) _ hstatus) _ hstatus) _ hwaiters) _ hstatus) _ _ _)
      _ _ _ _ (fun _ => isPower.no_record) not_isPower_poolErr) _ _) _ _ _ _ _ not_isPower_lost
  · exact ite_both (P := SameRegs isPower s) (.setPool (.wr (.wr (.wr (h.setReg _ hhead) _ hstatus) _ hstatus) _ hwaiters) _ _)
      (.wr (.wr (.wr (h.setReg _ hhead) _ hstatus) _ hstatus) _ hwaiters)

theorem drawNow_power (s : State) {o c : Nat} (n svc : Nat) (ho : o < 32) (hc : c < 16) :
    SameRegs isPower s (s.drawNow o c n svc).1 := by
  have hdraws : ∀ (l : List Nat) (x : State × List Nat), SameRegs isPower x.1 (l.foldl (fun (x : State × List Nat) _ =>
      ((x.1.drawOne o c svc).1, x.2 ++ (x.1.drawOne o c svc).2.toList)) x).1 := fun l => by
    induction l with
    | nil => exact fun x => .refl x.1
    | cons _ l ih => exact fun x => .trans (.of_keeps (State.drawOne_keeps (L := 9043968) x.1 o c svc rfl (Keeps.refl x.1)) rfl) (ih (_, _))
  have hdrawn := hdraws (List.range n) (s, [])
  unfold State.drawNow State.peak
  dsimp only
  generalize List.foldl _ (s, []) (List.range n) = r at hdrawn
  refine poolNote_power (.setCnt (.setCnt (.cnt (.cnt (.wr (.wr hdrawn _ ?_) _ ?_) _ _ _) _ _ _) _ _ _) _ _ _) hc
  · simp only [isPower, Reg.POOL_CLS_FREE]; omega
  · simp only [isPower, Reg.POOL_OWN_HELD]; omega

theorem draw_power (s : State) {o c : Nat} (n svc ticket : Nat) (fails : Bool) (ho : o < 32) (hc : c < 16) :
    SameRegs isPower s (s.draw o c n svc ticket fails).1 := by
  have htie : SameRegs isPower s (if fails then s else s.tieWon o c ticket) :=
    ite_both (P := SameRegs isPower s) (.refl s)
      (.of_keeps (State.tieWon_keeps (L := 131072) s o c ticket rfl (Keeps.refl s)) rfl)
  unfold State.draw
  split
  · dsimp only
    exact htie.trans (drawNow_power _ n svc ho hc)
  · split
    · exact .poolErr (.cnt (.cnt (.refl s) _ _ _) _ _ _) _ _ _ _ (fun _ => isPower.no_record) not_isPower_poolErr
    · exact .refl s

/-! ### The registers of the whole-device save -/

/-- The registers below the scheduler's state, where the rings stand and SAVE_ALL is asked for, and the power state. -/
def controlReg (a : Nat) : Prop := a ≤ Reg.SCHED_CTRL ∧ a ≠ Reg.HIF_SVC_LOST ∨ a = Reg.PWR_STATUS

/-- The same registers with the scheduler's state. -/
def saveReg (a : Nat) : Prop := controlReg a ∨ a = Reg.SCHED_STATUS

/-- The registers of the whole-device save are the same, and so is SAVED_ALL. -/
structure SameControls (s t : State) : Prop where
  regs : SameRegs controlReg s t
  saved : t.rd Reg.SCHED_STATUS_SAVED_ALL = s.rd Reg.SCHED_STATUS_SAVED_ALL

theorem SameRegs.controls {s t : State} (h : SameRegs saveReg s t) : SameControls s t := ⟨h.mono fun _ => .inl, h.rd (.inr rfl)⟩

theorem SameControls.refl (s : State) : SameControls s s := ⟨.refl s, rfl⟩

theorem SameControls.trans {s t u : State} (h : SameControls s t) (k : SameControls t u) : SameControls s u :=
  ⟨h.regs.trans k.regs, k.saved.trans h.saved⟩

theorem SameControls.foldl {α : Type} {f : State → α → State} {l : List α} (s : State) (hf : ∀ t, ∀ x ∈ l, SameControls t (f t x)) :
    SameControls s (l.foldl f s) :=
  List.foldlRecOn (motive := SameControls s) l f (.refl s) fun t ht x hx => ht.trans (hf t x hx)

theorem saveReg.place {a : Nat} (h : saveReg a) : a ≠ Reg.HIF_SVC_LOST ∧ (a ≤ 0x800008 ∨ a = 0x1D00008) := by
  simp only [saveReg, controlReg, Reg.SCHED_CTRL, Reg.SCHED_STATUS, Reg.PWR_STATUS, Reg.HIF_SVC_LOST] at *
  omega

theorem saveReg.no_record {a : Nat} (h : saveReg a) : a / 0x100000 ≠ 0x1E ∧ a / 0x100000 ≠ 0x1F := by
  have := h.place.2
  omega

/-- The registers of the cores stand elsewhere. -/
theorem not_saveReg_core {a : Nat} (h : 0x1000000 ≤ a ∧ a < 0x1400000) : ¬saveReg a := fun ha => by
  have := ha.place.2
  omega

theorem not_saveReg_coreStatus {c : Nat} (hc : c < 64) : ¬saveReg (Reg.CORE_LRW_STATUS c) :=
  not_saveReg_core (by simp only [Reg.CORE_LRW_STATUS]; omega)

theorem coreNote_controls (s : State) {c : Nat} (hc : c < 64) : SameControls s (s.coreNote c) :=
  SameRegs.controls ⟨fun a ha => reg_coreNote s (by
    have := ha.place.2
    simp only [noteRegs, List.mem_cons, List.not_mem_nil, or_false, Reg.CORE_LRW_STATUS, Reg.CORE_MRV_STATUS, Reg.CORE_SCHED_STATUS,
      Reg.CORE_SCHED_REMOTE]
    omega)⟩

/-- The scheduler's summary writes SCHED_STATUS beside SAVED_ALL. -/
theorem schedNote_controls (s : State) : SameControls s s.schedNote where
  regs := ⟨fun a ha => by
    have hplace := (show saveReg a from .inl ha).place.2
    refine reg_schedNote s (by omega) ?_
    simp only [controlReg, Reg.SCHED_CTRL, Reg.SCHED_STATUS, Reg.PWR_STATUS] at *
    omega⟩
  saved := by
    unfold State.schedNote
    dsimp only
    refine (SameRegs.foldl (P := (· = Reg.SCHED_STATUS)) (fun t k _ => ?clusters) _).rd rfl |>.trans
      (((SameRegs.foldl (P := (· = Reg.SCHED_STATUS)) (fun t n hn => ?classes) _).rd rfl).trans ?status)
    case clusters => exact .wr (.wr (.refl t) _ (by simp [Reg.SCHED_CLU_STATUS, Reg.SCHED_STATUS]; omega)) _ (by simp [Reg.SCHED_CLU_STATUS, Reg.SCHED_STATUS]; omega)
    case classes => exact .wr (.wr (.refl t) _ (by simp [Reg.SCHED_CLS_CORES, Reg.SCHED_STATUS]; omega)) _ (by simp [Reg.SCHED_CLS_READY, Reg.SCHED_STATUS]; omega)
    case status => exact (rd_wr_other _ _ _ _ (by decide) (by decide)).trans (rd_wr_other _ _ _ _ (by decide) (by decide))

theorem note_controls (s : State) {c : Nat} (hc : c < 64) : SameControls s (s.note c) :=
  (coreNote_controls s hc).trans (schedNote_controls _)

theorem discardRuns_saveRegs (s : State) {c : Nat} (hc : c < 64) (l : List RunTile) : SameRegs saveReg s (s.discardRuns c l) := by
  unfold State.discardRuns
  refine ite_both (P := SameRegs saveReg s) (.of_regs rfl) (.bump (.cnt (.setCore (.refl s) _ _) _ _ _) _ (not_saveReg_core ?_))
  simp only [Reg.CORE_LRW_DISCARDS]
  omega

theorem enterLehr_saveRegs (s : State) {c : Nat} (hc : c < 64) (why : Nat) (ctx : Option SavedCtx) (wants : Option TileJob) :
    SameRegs saveReg s (s.enterLehr c why ctx wants) := by
  unfold State.enterLehr
  exact .with (.wr (.setCore (discardRuns_saveRegs s hc _) _ _) _ (not_saveReg_coreStatus hc)) rfl

theorem drawCtx_saveRegs (s : State) (c : Nat) : SameRegs saveReg s (s.drawCtx c).1 := by
  have hdraw : ∀ svc ticket, SameRegs saveReg s (s.draw 0 7 1 svc ticket true).1 := fun svc ticket => ⟨fun a ha => by
    obtain ⟨hlost, hlow | hpower⟩ := ha.place
    · exact (draw_lowRegs s 0 7 1 svc ticket true).reg a (by omega) hlost
    · exact (draw_power s 1 svc ticket true (by decide) (by decide)).reg a (by simp only [isPower]; omega)⟩
  unfold State.drawCtx
  split
  case isFalse => exact .refl s
  case isTrue =>
    dsimp only
    split
    case h_1 t _ _ heq => exact (show t = _ from (congrArg Prod.fst heq).symm) ▸ hdraw _ _
    case h_2 t _ _ heq => exact (show t = _ from (congrArg Prod.fst heq).symm) ▸ hdraw _ _

theorem placeTile_saveRegs (s : State) (t : TileJob) (c : Nat) : SameRegs saveReg s (s.placeTile t c) := by
  have hwait : ¬saveReg (Reg.SCHED_CLS_MAXWAIT t.svc) := fun h => by
    have := h.place.2
    simp only [Reg.SCHED_CLS_MAXWAIT] at this
    omega
  have hmax : ∀ u : State, SameRegs saveReg u (u.maxWait t) := fun u =>
    ite_both (P := SameRegs saveReg u) (.wr (.refl u) _ hwait) (.refl u)
  unfold State.placeTile
  refine .cnt (.trans ?_ (hmax _)) _ _ _
  exact .of_regs rfl

theorem stopEnd_saveRegs (s : State) {c : Nat} (hc : c < 64) : SameRegs saveReg s (s.stopEnd c) := by
  have hstate : ∀ (x : Core) v, SameRegs saveReg s ((s.setCore c x).wr (Reg.CORE_LRW_STATUS_STATE c) v) := fun x v =>
    .wr (.setCore (.refl s) _ _) v (not_saveReg_coreStatus hc)
  have hidle : SameRegs saveReg s (s.backIdle c) := by
    unfold State.backIdle
    dsimp only
    split
    · exact hstate _ 0
    · exact ite_both (P := SameRegs saveReg s) (.trans (hstate _ 0) (placeTile_saveRegs _ _ _)) (hstate _ 0)
  unfold State.stopEnd
  refine ite_both (P := SameRegs saveReg s) ?_ (.refl s)
  split
  · exact ite_both (P := SameRegs saveReg s) (hstate _ 4) (ite_both (P := SameRegs saveReg s) (.refl s) hidle)
  · exact hidle
  · exact .refl s

theorem stopCore_controls (s : State) {c : Nat} (hc : c < 64) (why : Nat) : SameControls s (s.stopCore c why) := by
  have hdraw := drawCtx_saveRegs s c
  unfold State.stopCore
  split
  case h_1 s1 k heq =>
    rw [heq] at hdraw
    exact (hdraw.trans ((enterLehr_saveRegs s1 hc why k none).trans (stopEnd_saveRegs _ hc))).controls.trans (note_controls _ hc)
  case h_2 s1 heq =>
    rw [heq] at hdraw
    have hrestart : ∀ (t : State) (l : List Hold), SameRegs saveReg t (l.foldl State.restartGroup t) := fun t l =>
      .foldl (fun u h _ => .of_keeps (State.restartGroup_keeps (L := 73728) u h rfl (Keeps.refl u)) rfl) t
    have hlose : ∀ (t : State) l, SameRegs saveReg t (t.loseTiles l) := fun t l =>
      .of_keeps (State.loseTiles_keeps (L := 73728) t l rfl (Keeps.refl t)) rfl
    have herr : SameRegs saveReg s1 ((s1.setErr Reg.SCHED_ERR true (16, 7, c) 0x0602).file .sched c 0x0602) :=
      .file (.setErr (.refl s1) _ _ _ fun h => by have := h.place.2; simp only [Reg.SCHED_ERR] at this; omega) _ _ _ _ _
        fun _ => saveReg.no_record
    refine .trans (SameRegs.controls (.trans (.trans (.trans (.requeue (.setCore ?_ _ _) _) (hrestart _ _)) (hlose _ _))
      (stopEnd_saveRegs _ hc))) (note_controls _ hc)
    exact (hdraw.trans herr).trans ((enterLehr_saveRegs _ hc why none none).trans (discardRuns_saveRegs _ hc _))

end Sys2Proof.Machine
end

section
/-! SUPPORT. SAVE_ALL: the request shows, active rings drain, and the power state stays (R559). -/

set_option Elab.async false

namespace Sys2Proof.Machine

/-! ### D3hot is not left in a save -/

/-- The device stays in D3hot or out of it. -/
structure SameD3hot (s t : State) : Prop where
  d3hot : t.hif.d3hot = s.hif.d3hot

theorem SameD3hot.refl (s : State) : SameD3hot s s := ⟨rfl⟩

theorem SameD3hot.trans {s t u : State} (h : SameD3hot s t) (k : SameD3hot t u) : SameD3hot s u := ⟨k.d3hot.trans h.d3hot⟩

theorem SameD3hot.of_hif {s t : State} (h : t.hif = s.hif) : SameD3hot s t := ⟨by rw [h]⟩

theorem SameD3hot.of_keeps {L : Nat} {s t : State} (h : Keeps L s t) (hhif : L.testBit 1 = false) : SameD3hot s t :=
  .of_hif (h.parts.same .hif hhif)

theorem SameD3hot.foldl {α : Type} {f : State → α → State} {l : List α} (hf : ∀ t, ∀ x ∈ l, SameD3hot t (f t x)) (s : State) :
    SameD3hot s (l.foldl f s) :=
  List.foldlRecOn (motive := SameD3hot s) l f (.refl s) fun t ht x hx => ht.trans (hf t x hx)

theorem SameD3hot.devError {s t : State} (h : SameD3hot s t) (code d0 d1 stn i : Nat) : SameD3hot s (t.devError code d0 d1 stn i) :=
  h.trans (by
    unfold State.devError State.sendSvc
    exact ite_both (P := SameD3hot t) ⟨rfl⟩ ⟨rfl⟩)

theorem SameD3hot.poolErr {s t : State} (h : SameD3hot s t) (code wh d0 d1 : Nat) : SameD3hot s (t.poolErr code wh d0 d1) :=
  h.trans (.of_hif (poolErr_records t code wh d0 d1).hif)

theorem SameD3hot.wr {s t : State} (h : SameD3hot s t) (f : RegField) (v : Nat) : SameD3hot s (t.wr f v) := h.trans ⟨rfl⟩

theorem SameD3hot.setReg {s t : State} (h : SameD3hot s t) (a : Nat) (v : BitVec 32) : SameD3hot s (t.setReg a v) := h.trans ⟨rfl⟩

theorem SameD3hot.cnt {s t : State} (h : SameD3hot s t) (i j n : Nat) : SameD3hot s (t.cnt i j n) := h.trans ⟨rfl⟩

theorem SameD3hot.setCnt {s t : State} (h : SameD3hot s t) (i j n : Nat) : SameD3hot s (t.setCnt i j n) := h.trans ⟨rfl⟩

theorem SameD3hot.setPool {s t : State} (h : SameD3hot s t) (c : Nat) (x : PoolCls) : SameD3hot s (t.setPool c x) := h.trans ⟨rfl⟩

theorem SameD3hot.poolNote {s t : State} (h : SameD3hot s t) (c : Nat) : SameD3hot s (t.poolNote c) := by
  unfold State.poolNote
  dsimp only
  split
  · exact .devError (.setPool (.poolErr (.cnt (.wr (.wr (.wr (.wr (.setReg h _ _) _ _) _ _) _ _) _ _) _ _ _) _ _ _ _) _ _) _ _ _ _ _
  · exact ite_both (P := SameD3hot s) (.setPool (.wr (.wr (.wr (.setReg h _ _) _ _) _ _) _ _) _ _)
      (.wr (.wr (.wr (.setReg h _ _) _ _) _ _) _ _)

theorem draw_d3hot (s : State) (o c n svc ticket : Nat) (fails : Bool) : SameD3hot s (s.draw o c n svc ticket fails).1 := by
  have hdraws : ∀ (l : List Nat) (x : State × List Nat), SameD3hot x.1 (l.foldl (fun (x : State × List Nat) _ =>
      ((x.1.drawOne o c svc).1, x.2 ++ (x.1.drawOne o c svc).2.toList)) x).1 := fun l => by
    induction l with
    | nil => exact fun x => .refl x.1
    | cons _ l ih => exact fun x => .trans (.of_keeps (State.drawOne_keeps (L := 9043968) x.1 o c svc rfl (Keeps.refl x.1)) rfl) (ih (_, _))
  have hnow : ∀ t : State, SameD3hot t (t.drawNow o c n svc).1 := fun t => by
    have hdrawn := hdraws (List.range n) (t, [])
    unfold State.drawNow State.peak
    dsimp only
    generalize List.foldl _ (t, []) (List.range n) = r at hdrawn
    exact .poolNote (.setCnt (.setCnt (.cnt (.cnt (.wr (.wr hdrawn _ _) _ _) _ _ _) _ _ _) _ _ _) _ _ _) c
  have htie : SameD3hot s (if fails then s else s.tieWon o c ticket) :=
    ite_both (P := SameD3hot s) (.refl s) (.of_keeps (State.tieWon_keeps (L := 131072) s o c ticket rfl (Keeps.refl s)) rfl)
  unfold State.draw
  split
  · exact htie.trans (hnow _)
  · exact ite_both (P := fun r : State × Option (List Nat) => SameD3hot s r.1) (.poolErr (.cnt (.cnt (.refl s) _ _ _) _ _ _) _ _ _ _) (.refl s)

theorem drawCtx_d3hot (s : State) (c : Nat) : SameD3hot s (s.drawCtx c).1 := by
  unfold State.drawCtx
  split
  case isFalse => exact .refl s
  case isTrue =>
    dsimp only
    split
    case h_1 t _ _ heq => exact (show t = _ from (congrArg Prod.fst heq).symm) ▸ draw_d3hot s 0 7 1 _ _ true
    case h_2 t _ _ heq => exact (show t = _ from (congrArg Prod.fst heq).symm) ▸ draw_d3hot s 0 7 1 _ _ true

theorem stopCore_d3hot (s : State) (c why : Nat) : SameD3hot s (s.stopCore c why) := by
  have hdraw := drawCtx_d3hot s c
  have hlehr : ∀ (t : State) why k, SameD3hot t (t.enterLehr c why k none) := fun t why k =>
    .of_keeps (State.enterLehr_keeps (L := 8486913) t c why k none rfl (Keeps.refl t)) rfl
  have hend : ∀ t : State, SameD3hot t ((t.stopEnd c).note c) := fun t =>
    .of_keeps (State.note_keeps (L := 8486913) _ c rfl (State.stopEnd_keeps t c rfl (Keeps.refl t))) rfl
  unfold State.stopCore
  split
  case h_1 s1 k heq =>
    rw [heq] at hdraw
    exact hdraw.trans ((hlehr s1 why k).trans (hend _))
  case h_2 s1 heq =>
    rw [heq] at hdraw
    refine hdraw.trans (.trans (.of_keeps (L := 8494073 ||| 73728 ||| 8486913) ?_ rfl) (hend _))
    refine State.loseTiles_keeps _ _ rfl (Keeps.foldl ?_ fun t h ht => State.restartGroup_keeps t h rfl ht)
    refine State.requeue_keeps _ _ rfl (State.setCore_keeps _ _ _ rfl (State.discardRuns_keeps _ _ _ rfl (State.enterLehr_keeps _ _ _ _ _ rfl ?_)))
    exact State.file_keeps _ _ _ _ _ _ rfl (State.setErr_keeps _ _ _ _ _ rfl (Keeps.refl s1))

/-! ### SAVE_ALL -/

/-- The command rings in use. -/
def State.ringsUsed (s : State) : List Nat := (List.range 16).filter (fun c => (s.cState c == 1 || s.cState c == 2))

/-- The request shows, and the rings in use are noted. -/
def State.saveStart (s : State) : State :=
  ({ s with sched := { s.sched with saving := true, savedRings := s.ringsUsed } } : State).wr Reg.SCHED_CTRL_SAVE_ALL 1

/-- The request shows and the used rings drain. -/
def State.saveAsked (s : State) : State := s.ringsUsed.foldl (fun s c => s.wr (Reg.HIF_CRING_STATUS_STATE c) 3) s.saveStart

/-- Stations discard their operations and cores stop. -/
def State.stopAll (s : State) : State :=
  (List.range 64).foldl (fun s c =>
    let x := s.core c
    match s.coreState c with
    | 0 => s.stopCore c 4
    | 1 => s.stopCore c 4
    | 2 => if x.lehr = 2 then s.setCore c { x with lehr := 4, wants := none, saving := x.saving.map (fun (k : SavedCtx) => { k with whole := true }) } else s
    | _ => s) ((List.range 4).foldl (fun s k => s.dropOps k [1, 3]) s)

theorem saveAll_eq {s : State} (hsaved : s.rd Reg.SCHED_STATUS_SAVED_ALL = 0) (hsaving : s.sched.saving = false) :
    s.saveAll = s.saveAsked.stopAll := by
  unfold State.saveAll
  rw [if_neg (by simp [hsaved, hsaving])]
  rfl

theorem stopAll_controls (s : State) : SameControls s s.stopAll ∧ SameD3hot s s.stopAll := by
  have hdrop : ∀ t : State, Keeps 107520 t ((List.range 4).foldl (fun s k => s.dropOps k [1, 3]) t) := fun t =>
    .foldl (.refl t) fun u k hu => State.dropOps_keeps u k _ rfl hu
  unfold State.stopAll
  constructor
  · refine .trans (SameRegs.controls (.of_keeps (hdrop s) rfl)) (.foldl _ fun t c hc => ?_)
    have hstop := stopCore_controls t (List.mem_range.mp hc) 4
    dsimp only
    split
    · exact hstop
    · exact hstop
    · exact ite_both (P := SameControls t) (SameRegs.controls (.of_regs rfl)) (.refl t)
    · exact .refl t
  · refine .trans (.of_keeps (hdrop s) rfl) (.foldl (fun t c _ => ?_) _)
    have hstop := stopCore_d3hot t c 4
    dsimp only
    split
    · exact hstop
    · exact hstop
    · exact ite_both (P := SameD3hot t) ⟨rfl⟩ (.refl t)
    · exact .refl t

end Sys2Proof.Machine
end

section
/-! SUPPORT. A power-on reset: what it starts from, and what it does after that. -/

set_option Elab.async false

namespace Sys2Proof.Machine

/-- What a power-on reset keeps beside the fuse fields: the lifecycle, the seed, the endorsement and the pins (R698). -/
def State.stripped (s : State) : State :=
  { hbm := { retired := s.hbm.retired }
    sec := { lc := match s.sec.busy with | some n => [n, n, n] | none => s.sec.lc
             seed := s.sec.seed, endorsement := s.sec.endorsement, draws := s.sec.draws }
    pwr := { pwrGood := s.pwr.pwrGood, rstPorN := s.pwr.rstPorN, rstWarmN := s.pwr.rstWarmN, perstN := s.pwr.perstN
             testMode := s.pwr.testMode, tripped := s.pwr.tripped }
    free := s.free, out := s.out, pending := s.pending }

/-- The fuse fields are set again. -/
def State.fusesBack (s : State) (aon : Bool) : State :=
  (if aon then fuseFields ++ tamperFields else fuseFields).foldl (fun (x : State) f => x.wr f (s.rd f)) s.stripped

theorem powerOn_eq (s : State) (aon : Bool) :
    s.powerOn aon = (s.hbm.retired.zipIdx.foldl State.rankBack (s.fusesBack aon)).hbmNote.lcNote := by rfl

/-- After the fuses only the registers, the records and the HBM's own state move. -/
theorem powerOn_stripped (s : State) (aon : Bool) : Keeps 9043995 s.stripped (s.powerOn aon) := by
  have hfuses : Keeps 9043995 s.stripped (s.fusesBack aon) := .foldl (.refl _) fun t f ht => State.wr_keeps _ _ _ rfl ht
  have hranks := Keeps.foldl (l := s.hbm.retired.zipIdx) (f := State.rankBack) hfuses fun t r ht => State.rankBack_keeps t r rfl ht
  rw [powerOn_eq]
  exact State.lcNote_keeps _ rfl (State.hbmNote_keeps _ rfl hranks)

theorem powerOn_pwr (s : State) (aon : Bool) : (s.powerOn aon).pwr = s.stripped.pwr := (powerOn_stripped s aon).parts.same .pwr rfl

theorem powerOn_sec (s : State) (aon : Bool) : (s.powerOn aon).sec = s.stripped.sec := (powerOn_stripped s aon).parts.same .sec rfl

end Sys2Proof.Machine
end

section
/-! SUPPORT. The whole-device save and restore (R559, R560), and the power states (R684 to R689). -/

set_option Elab.async false

namespace Sys2Proof.Machine

/-! ### SAVE_ALL -/

theorem rings_saveAsked (s : State) {P : Nat → Prop} (hctrl : ¬P Reg.SCHED_CTRL) (hrings : ∀ c, c < 16 → ¬P (Reg.HIF_CRING_STATUS c)) :
    SameRegs P s s.saveAsked := by
  unfold State.saveAsked
  refine .trans ?_ (.foldl (fun t c hc => .wr (.refl t) 3 (hrings c (List.mem_range.mp (List.mem_of_mem_filter hc)))) _)
  unfold State.saveStart
  refine .wr ?_ 1 hctrl
  exact .of_regs rfl

theorem rd_saveAsked_request (s : State) : s.saveAsked.rd Reg.SCHED_CTRL_SAVE_ALL = 1 := by
  unfold State.saveAsked
  refine ((SameRegs.foldl (P := (· = Reg.SCHED_CTRL)) (fun t c hc => .wr (.refl t) 3 ?_) _).rd rfl).trans
    (rd_wr_same _ _ 1 (by decide))
  simp [Reg.HIF_CRING_STATUS, Reg.SCHED_CTRL]
  omega

/-- A ring that some writes of STATE 3 name, or that drains already, drains after them. -/
theorem cState_drained {c : Nat} (l : List Nat) (t : State) (h : c ∈ l ∨ t.cState c = 3) :
    (l.foldl (fun s c => s.wr (Reg.HIF_CRING_STATUS_STATE c) 3) t).cState c = 3 := by
  induction l generalizing t with
  | nil => exact h.resolve_left (List.not_mem_nil)
  | cons a l ih =>
    refine ih _ ?_
    by_cases hca : c = a
    · exact .inr (hca ▸ (rd_wr_same t (Reg.HIF_CRING_STATUS_STATE a) 3 (show 0 + 3 ≤ 32 by decide)))
    · refine h.imp (fun hmem => (List.mem_cons.mp hmem).resolve_left hca) fun ht => ?_
      refine (rd_wr_reg t _ (Reg.HIF_CRING_STATUS_STATE c) 3 ?_).trans ht
      show 0x010101C + 0x40 * c ≠ 0x010101C + 0x40 * a
      omega

theorem cState_saveAsked {s : State} {c : Nat} (hc : c < 16) (h : s.cState c = 1) : s.saveAsked.cState c = 3 :=
  cState_drained _ _ (.inl (List.mem_filter.mpr ⟨List.mem_range.mpr hc, by simp [h]⟩))

theorem saved_saveAsked (s : State) : s.saveAsked.rd Reg.SCHED_STATUS_SAVED_ALL = s.rd Reg.SCHED_STATUS_SAVED_ALL :=
  (rings_saveAsked s (P := (· = Reg.SCHED_STATUS)) (by simp [Reg.SCHED_CTRL, Reg.SCHED_STATUS])
    (by simp [Reg.HIF_CRING_STATUS, Reg.SCHED_STATUS]; omega)).rd rfl

theorem power_saveAsked (s : State) : s.saveAsked.rd Reg.PWR_STATUS_STATE = s.rd Reg.PWR_STATUS_STATE :=
  (rings_saveAsked s (P := (· = Reg.PWR_STATUS)) (by simp [Reg.SCHED_CTRL, Reg.PWR_STATUS])
    (by simp [Reg.HIF_CRING_STATUS, Reg.PWR_STATUS]; omega)).rd rfl

theorem d3hot_saveAsked (s : State) : s.saveAsked.hif.d3hot = s.hif.d3hot :=
  congrArg Hif.d3hot (((Keeps.foldl (L := 1) (l := s.ringsUsed) (f := fun s c => s.wr (Reg.HIF_CRING_STATUS_STATE c) 3)
    (Keeps.refl s.saveStart) fun _ _ h => State.wr_keeps _ _ _ rfl h).parts.same .hif rfl).trans (State.wr_hif _ _ _))

/-- A save that begins: the request shows, the active rings drain, nothing counts as saved, and the power state stays. -/
structure SaveBegun (s t : State) : Prop where
  asked : t.rd Reg.SCHED_CTRL_SAVE_ALL = 1
  rings : ∀ c, c < 16 → s.cState c = 1 → t.cState c = 3
  saved : t.rd Reg.SCHED_STATUS_SAVED_ALL = 0
  power : t.rd Reg.PWR_STATUS_STATE = s.rd Reg.PWR_STATUS_STATE
  d3hot : t.hif.d3hot = s.hif.d3hot

theorem saveAll_begun {s : State} (hsaved : s.rd Reg.SCHED_STATUS_SAVED_ALL = 0) (hsaving : s.sched.saving = false) :
    SaveBegun s s.saveAll := by
  obtain ⟨hctl, hd3⟩ := stopAll_controls s.saveAsked
  rw [saveAll_eq hsaved hsaving]
  exact {
    asked := (hctl.regs.rd (.inl ⟨by decide, by decide⟩)).trans (rd_saveAsked_request s)
    rings := fun c hc h => (hctl.regs.rd (.inl ⟨by
        show 0x010101C + 0x40 * c ≤ 0x800004
        omega, by
        show 0x010101C + 0x40 * c ≠ 0x10002C
        omega⟩)).trans (cState_saveAsked hc h)
    saved := hctl.saved.trans ((saved_saveAsked s).trans hsaved)
    power := (hctl.regs.rd (.inr rfl)).trans (power_saveAsked s)
    d3hot := hd3.d3hot.trans (d3hot_saveAsked s) }

/-! ### RESUME_ALL -/

/-- The restore's requests are off: SAVED_ALL and RESUME_ALL read 0. -/
structure RestoreOver (s : State) : Prop where
  saved : s.rd Reg.SCHED_STATUS_SAVED_ALL = 0
  asked : s.rd Reg.SCHED_CTRL_RESUME_ALL = 0

/-- The scheduler's control and state registers. -/
def schedCtl (a : Nat) : Prop := a = Reg.SCHED_CTRL ∨ a = Reg.SCHED_STATUS

theorem RestoreOver.sameRegs {s t : State} (h : RestoreOver s) (k : SameRegs schedCtl s t) : RestoreOver t :=
  ⟨(k.rd (.inr rfl)).trans h.saved, (k.rd (.inl rfl)).trans h.asked⟩

theorem RestoreOver.controls {s t : State} (h : RestoreOver s) (k : SameControls s t) : RestoreOver t :=
  ⟨k.saved.trans h.saved, (k.regs.rd (.inl ⟨by decide, by decide⟩)).trans h.asked⟩

theorem RestoreOver.foldl {α : Type} {f : State → α → State} {l : List α} {s : State} (h : RestoreOver s)
    (hf : ∀ t, ∀ x ∈ l, RestoreOver t → RestoreOver (f t x)) : RestoreOver (l.foldl f s) :=
  List.foldlRecOn l f h fun t ht x hx => hf t x hx ht

theorem schedCtl.low {a : Nat} (h : schedCtl a) : a = 0x800004 ∨ a = 0x800008 := h

theorem not_schedCtl_core {a : Nat} (h : 0x1000000 ≤ a) : ¬schedCtl a := fun ha => by
  have := ha.low
  omega

theorem schedCtl_low {a : Nat} (h : schedCtl a) : a < 0x1900000 ∧ a ≠ Reg.HIF_SVC_LOST := by
  have := h.low
  simp only [Reg.HIF_SVC_LOST]
  omega

theorem coreResumes_schedCtl (s : State) (c : Nat) : SameRegs schedCtl s (s.coreResumes c) := by
  unfold State.coreResumes
  exact ite_both (P := SameRegs schedCtl s) (.wr (.setCore (.refl s) _ _) _ (not_schedCtl_core (by simp only [Reg.CORE_LRW_STATUS]; omega)))
    (.refl s)

theorem restoreCtx_schedCtl (s : State) (k : SavedCtx) (core : Nat) : SameRegs schedCtl s (s.restoreCtx k core) := by
  have hcount : ¬schedCtl (Reg.CORE_SCHED_RESTORES core) := not_schedCtl_core (by simp only [Reg.CORE_SCHED_RESTORES]; omega)
  have hseat : ∀ (t : State) x, SameRegs schedCtl t ((t.setCore core x).seat core k.resident) := fun t x =>
    .of_keeps (State.seat_keeps (L := 40960) _ core k.resident rfl (State.setCore_keeps t core x rfl (.refl t))) rfl
  have hlow : ∀ t : State, SameRegs schedCtl t (t.free1 7 k.area) := fun t =>
    .of_lowRegs (free1_lowRegs t 7 k.area) fun _ h => schedCtl_low h
  have hfree : SameRegs schedCtl s (({ s with sched := { s.sched with saved := s.sched.saved.erase k } } : State).free1 7 k.area) := by
    refine .trans ?_ (hlow _)
    exact .of_regs rfl
  unfold State.restoreCtx
  dsimp only
  refine .bump (.cnt (ite_both (P := SameRegs schedCtl s) ?_ (.cnt ?_ _ _ _)) _ _ _) _ hcount
  · exact hfree.trans (hseat _ _)
  · exact hfree.trans (hseat _ _)

/-- A ring is enabled again only where its ENABLE reads 1, so no ring number sets SAVED_ALL. -/
theorem RestoreOver.ringResumes {s : State} (h : RestoreOver s) (c : Nat) : RestoreOver (s.ringResumes c) := by
  unfold State.ringResumes
  dsimp only
  split
  case isFalse => exact h
  case isTrue hring =>
    refine h.sameRegs ⟨fun a ha => (cringStart_regs s c).reg a fun hmem => ?_⟩
    have hplace := ha.low
    simp only [List.mem_cons, List.not_mem_nil, or_false, Reg.HIF_CRING_CFG, Reg.HIF_CRING_STATUS] at hmem
    have hsame : Reg.HIF_CRING_CFG_ENABLE c = Reg.SCHED_STATUS_SAVED_ALL := by
      simp only [Reg.HIF_CRING_CFG_ENABLE, Reg.SCHED_STATUS_SAVED_ALL, Reg.HIF_CRING_CFG, Reg.SCHED_STATUS]
      congr 1
      omega
    have hset := hring.2
    rw [hsame, h.saved] at hset
    exact absurd hset (by decide)

/-- What RESUME_ALL_COMPLETE starts from. -/
def State.restoreEnds (s : State) : State :=
  { (s.wr Reg.SCHED_CTRL_RESUME_ALL 0).wr Reg.SCHED_STATUS_SAVED_ALL 0 with
    sched := { s.sched with saving := false, resuming := false, savedRings := [] } }

theorem restoreEnds_over (s : State) : RestoreOver s.restoreEnds where
  saved := rd_wr_same _ Reg.SCHED_STATUS_SAVED_ALL 0 (by decide)
  asked := (rd_wr_reg _ _ Reg.SCHED_CTRL_RESUME_ALL 0 (by decide)).trans (rd_wr_same s _ 0 (by decide))

theorem resumeDone_over {s : State} (h : s.sched.resuming = true) : RestoreOver s.resumeDone := by
  have hcores : RestoreOver ((List.range 64).foldl State.coreResumes s.restoreEnds) :=
    .foldl (restoreEnds_over s) fun t c _ ht => ht.sameRegs (coreResumes_schedCtl t c)
  have hctxs : ∀ (l : List SavedCtx) (t : State), RestoreOver t → RestoreOver (l.foldl (fun s k => s.restoreCtx k k.core) t) :=
    fun l t ht => .foldl ht fun u k _ hu => hu.sameRegs (restoreCtx_schedCtl u k k.core)
  have hrings : ∀ (l : List Nat) (t : State), RestoreOver t → RestoreOver (l.foldl State.ringResumes t) :=
    fun l t ht => .foldl ht fun u c _ hu => hu.ringResumes c
  have hnotes : ∀ t : State, RestoreOver t → RestoreOver ((List.range 64).foldl State.coreNote t) :=
    fun t ht => .foldl ht fun u c hc hu => hu.controls (coreNote_controls u (List.mem_range.mp hc))
  unfold State.resumeDone
  rw [if_pos h]
  exact (hnotes _ (hrings _ _ (hctxs _ _ hcores))).controls (schedNote_controls _)

end Sys2Proof.Machine
end

section
/-! SUPPORT. The power states, the clocks, the rails and the throttle (R682 to R696). -/

set_option Elab.async false

namespace Sys2Proof.Machine

/-! ### FURLED (R685, R687) -/

theorem rd_unfurl_state (s : State) : s.unfurl.rd Reg.PWR_STATUS_STATE = 0 := by
  unfold State.unfurl
  exact (rd_bump_other _ _ _ _ (by decide) (by decide)).trans (rd_wr_same s _ 0 (by decide))

theorem rd_unfurl_wakes (s : State) : s.unfurl.rd Reg.PWR_WAKES_COUNT = (s.rd Reg.PWR_WAKES_COUNT + 1) % 2 ^ 32 := by
  unfold State.unfurl
  rw [rd_bump_same _ _ _ (by decide), rd_wr_reg s _ Reg.PWR_WAKES_COUNT 0 (by decide)]

theorem exec_furlLehrEnd_furls {s : State} (hstow : s.pwr.stowing = false) (hstate : s.rd Reg.PWR_STATUS_STATE = 1) :
    exec .furlLehrEnd s = .next ((s.clocksOff true).wr Reg.PWR_STATUS_STATE 3) := by
  show execFurlLehrEnd s = _
  unfold execFurlLehrEnd
  rw [hstow, hstate]
  rfl

theorem exec_furlLehrEnd_latched {s : State} (hstow : s.pwr.stowing = false) (hstate : s.rd Reg.PWR_STATUS_STATE = 2) :
    exec .furlLehrEnd s = .next (s.clocksOff true).unfurl := by
  show execFurlLehrEnd s = _
  unfold execFurlLehrEnd
  rw [hstow, hstate]
  rfl

theorem wakeUp_lehr {s : State} (hstow : s.pwr.stowing = false) (hstate : s.rd Reg.PWR_STATUS_STATE = 1) :
    s.wakeUp = s.wr Reg.PWR_STATUS_STATE 2 := by
  unfold State.wakeUp
  rw [hstow, hstate]
  rfl

theorem wakeUp_furled {s : State} (hstow : s.pwr.stowing = false) (hstate : s.rd Reg.PWR_STATUS_STATE = 3) : s.wakeUp = s.unfurl := by
  unfold State.wakeUp
  rw [hstow, hstate]
  rfl

theorem wakeUp_active {s : State} (hstate : s.rd Reg.PWR_STATUS_STATE = 0) : s.wakeUp = s := by
  unfold State.wakeUp
  rw [hstate]
  exact ite_self _

theorem furlsAndWakes (s : State) (hstow : s.pwr.stowing = false) :
    (s.rd Reg.PWR_STATUS_STATE = 1 → completes .furlLehrEnd s (fun t => t.rd Reg.PWR_STATUS_STATE = 3) ∧
      completes .wakeEvent s (fun t => t.rd Reg.PWR_STATUS_STATE = 2)) ∧
    (s.rd Reg.PWR_STATUS_STATE = 2 → completes .furlLehrEnd s (fun t => t.rd Reg.PWR_STATUS_STATE = 0)) ∧
    (s.rd Reg.PWR_STATUS_STATE = 3 → completes .wakeEvent s (fun t => t.rd Reg.PWR_STATUS_STATE = 0 ∧
      t.rd Reg.PWR_WAKES_COUNT = (s.rd Reg.PWR_WAKES_COUNT + 1) % 2 ^ 32)) := by
  refine ⟨fun h => ⟨⟨_, exec_furlLehrEnd_furls hstow h, rd_wr_same _ _ 3 (by decide)⟩, s.wakeUp, rfl, ?_⟩,
    fun h => ⟨_, exec_furlLehrEnd_latched hstow h, rd_unfurl_state _⟩, fun h => ⟨s.wakeUp, rfl, ?_⟩⟩
  · rw [wakeUp_lehr hstow h]
    exact rd_wr_same _ _ 2 (by decide)
  · rw [wakeUp_furled hstow h]
    exact ⟨rd_unfurl_state s, rd_unfurl_wakes s⟩

/-! ### The whole-device save and restore (R559, R560) -/

theorem saveAllStarts {s : State} (hreach : reaches s Reg.SCHED_CTRL) (hsaved : s.rd Reg.SCHED_STATUS_SAVED_ALL = 0)
    (hsaving : s.sched.saving = false) : completes .saveAll s fun t =>
      t.rd Reg.SCHED_CTRL_SAVE_ALL = 1 ∧
      ∀ c, c < 16 → s.rd (Reg.HIF_CRING_STATUS_STATE c) = 1 → t.rd (Reg.HIF_CRING_STATUS_STATE c) = 3 := by
  have hbegun := saveAll_begun hsaved hsaving
  exact ⟨s.saveAll, exec_of_reaches (f := State.saveAll) hreach rfl, hbegun.asked, hbegun.rings⟩

/-- The restore is asked for. -/
theorem resumeAll_of_saved {s : State} (hsaved : s.rd Reg.SCHED_STATUS_SAVED_ALL = 1) (hresuming : s.sched.resuming = false) :
    s.resumeAll = { s.wr Reg.SCHED_CTRL_RESUME_ALL 1 with sched := { s.sched with resuming := true } } := by
  unfold State.resumeAll
  exact if_pos ⟨hsaved, hresuming⟩

theorem rd_withSched (s : State) (x : Sched) (f : RegField) : ({ s with sched := x } : State).rd f = s.rd f := by rfl

theorem sched_resumeAll {s : State} (hsaved : s.rd Reg.SCHED_STATUS_SAVED_ALL = 1) (hresuming : s.sched.resuming = false) :
    s.resumeAll.sched = { s.sched with resuming := true } := by rw [resumeAll_of_saved hsaved hresuming]

theorem asked_resumeAll {s : State} (hsaved : s.rd Reg.SCHED_STATUS_SAVED_ALL = 1) (hresuming : s.sched.resuming = false) :
    s.resumeAll.rd Reg.SCHED_CTRL_RESUME_ALL = 1 := by
  rw [resumeAll_of_saved hsaved hresuming, rd_withSched]
  exact rd_wr_same s _ 1 (by decide)

theorem exec_resumeAll {s : State} (hreach : reaches s Reg.SCHED_CTRL) : exec .resumeAll s = .next s.resumeAll :=
  exec_of_reaches (f := State.resumeAll) hreach rfl

theorem resumeAllStarts {s : State} (hreach : reaches s Reg.SCHED_CTRL) (hsaved : s.rd Reg.SCHED_STATUS_SAVED_ALL = 1)
    (hresuming : s.sched.resuming = false) : completes .resumeAll s fun t =>
      t.sched = { s.sched with resuming := true } ∧ t.rd Reg.SCHED_CTRL_RESUME_ALL = 1 :=
  ⟨s.resumeAll, exec_resumeAll hreach, sched_resumeAll hsaved hresuming, asked_resumeAll hsaved hresuming⟩

theorem saveAllDone_eq {s : State} (hsaving : s.sched.saving = true) (hstopped : s.allStopped = true)
    (hsaved : s.rd Reg.SCHED_STATUS_SAVED_ALL = 0) :
    s.saveAllDone = (s.wr Reg.SCHED_STATUS_SAVED_ALL 1).wr Reg.SCHED_CTRL_SAVE_ALL 0 := by
  unfold State.saveAllDone
  exact if_pos ⟨hsaving, hstopped, hsaved⟩

theorem stowEnd_of_not_stowing {s : State} (h : s.pwr.stowing = false) : s.stowEnd = s := by
  unfold State.stowEnd
  exact if_neg fun hstow => absurd (hstow.1.symm.trans h) (by decide)

theorem exec_saveAllComplete {s : State} (hsaving : s.sched.saving = true) (hstopped : s.allStopped = true)
    (hsaved : s.rd Reg.SCHED_STATUS_SAVED_ALL = 0) (hstow : s.pwr.stowing = false) :
    exec .saveAllComplete s = .next ((s.wr Reg.SCHED_STATUS_SAVED_ALL 1).wr Reg.SCHED_CTRL_SAVE_ALL 0) := by
  have hstays : s.saveAllDone.stowEnd = s.saveAllDone := stowEnd_of_not_stowing (by
    rw [saveAllDone_eq hsaving hstopped hsaved, State.wr_pwr, State.wr_pwr]
    exact hstow)
  rw [← saveAllDone_eq hsaving hstopped hsaved, ← hstays]
  rfl

theorem saveAllCompletes {s : State} (hsaving : s.sched.saving = true) (hstopped : s.allStopped = true)
    (hsaved : s.rd Reg.SCHED_STATUS_SAVED_ALL = 0) (hstow : s.pwr.stowing = false) : completes .saveAllComplete s fun t =>
      t.rd Reg.SCHED_STATUS_SAVED_ALL = 1 ∧ t.rd Reg.SCHED_CTRL_SAVE_ALL = 0 ∧ t.sched = s.sched :=
  ⟨_, exec_saveAllComplete hsaving hstopped hsaved hstow, (rd_wr_reg _ _ _ 0 (by decide)).trans (rd_wr_same s _ 1 (by decide)),
    rd_wr_same _ _ 0 (by decide), (State.wr_sched _ _ _).trans (State.wr_sched _ _ _)⟩

/-- The command rings that were masked before a stow are masked again. -/
def State.ringsMasked (s : State) (l : List Nat) : State :=
  s.pwr.savedRings.foldl (fun s q =>
    if l.contains q.1 ∧ q.2 = 2 ∧ s.cState q.1 = 1 then s.wr (Reg.HIF_CRING_STATUS_STATE q.1) 2 else s) s

theorem ringsMasked_over {s : State} (h : RestoreOver s) (l : List Nat) : RestoreOver (s.ringsMasked l) := by
  refine h.sameRegs (.foldl (fun t q _ => ite_both (P := SameRegs schedCtl t) (.wr (.refl t) _ fun hctl => ?_) (.refl t)) s)
  have := hctl.low
  simp only [Reg.HIF_CRING_STATUS] at this
  omega

/-- A return from STOWED ends. -/
def State.restored (s : State) : State :=
  let t : State := { s with pwr := { s.pwr with savedRings := [] } }
  if t.rd Reg.PWR_STATUS_STATE = 5 then t.wr Reg.PWR_STATUS_STATE 0 else t

theorem restored_over {s : State} (h : RestoreOver s) : RestoreOver s.restored ∧ s.restored.pwr.savedRings = [] := by
  unfold State.restored
  dsimp only
  split
  · refine ⟨h.sameRegs (.wr ?_ _ (by unfold schedCtl; decide)), rfl⟩
    exact .of_regs rfl
  · exact ⟨h.sameRegs (.of_regs rfl), rfl⟩

theorem exec_resumeAllComplete {s : State} (h : s.sched.resuming = true) :
    exec .resumeAllComplete s = .next (s.resumeDone.ringsMasked s.sched.savedRings).restored := by
  show execResumeAllComplete s = _
  unfold execResumeAllComplete
  rw [if_pos h]
  rfl

theorem resumeAllCompletes {s : State} (h : s.sched.resuming = true) : completes .resumeAllComplete s fun t =>
    t.rd Reg.SCHED_STATUS_SAVED_ALL = 0 ∧ t.rd Reg.SCHED_CTRL_RESUME_ALL = 0 ∧ t.pwr.savedRings = [] := by
  obtain ⟨hover, hrings⟩ := restored_over (ringsMasked_over (resumeDone_over h) s.sched.savedRings)
  exact ⟨_, exec_resumeAllComplete h, hover.saved, hover.asked, hrings⟩

/-! ### STOWED (R688, R689) -/

/-- The entry to STOWED is asked for. -/
def State.stowAsked (s : State) : State :=
  { s.wr Reg.PWR_STATUS_STATE 1 with
    hif := { s.hif with d3hot := true }
    pwr := { s.pwr with stowing := true, savedRings := (List.range 16).map (fun c => (c, s.cState c)) } }

theorem exec_d3hotWrite {s : State} (hd0 : s.hif.d3hot = false) (hreset : s.pwr.inReset = none)
    (hstate : s.rd Reg.PWR_STATUS_STATE = 0) : exec .d3hotWrite s = .next s.stowAsked.saveAll.stowEnd := by
  show execD3hotWrite s = _
  unfold execD3hotWrite
  dsimp only
  rw [wakeUp_active hstate, if_pos ⟨hd0, by rw [hreset]; rfl, by rw [hstate]; decide⟩]
  rfl

theorem stowAsked_rd (s : State) (f : RegField) : s.stowAsked.rd f = (s.wr Reg.PWR_STATUS_STATE 1).rd f := by rfl

/-- A save, begun now or under way, leaves nothing saved, the power state and D3hot. -/
theorem saveAll_unsaved {s : State} (h : s.rd Reg.SCHED_STATUS_SAVED_ALL = 0) :
    s.saveAll.rd Reg.SCHED_STATUS_SAVED_ALL = 0 ∧ s.saveAll.rd Reg.PWR_STATUS_STATE = s.rd Reg.PWR_STATUS_STATE ∧
      s.saveAll.hif.d3hot = s.hif.d3hot ∧ s.saveAll.pwr = s.pwr := by
  refine and_assoc.mp (and_assoc.mp ⟨?_, (State.saveAll_keeps (L := 9151515) s rfl (.refl s)).parts.same .pwr rfl⟩)
  by_cases hsaving : s.sched.saving = true
  · have hsame : s.saveAll = s := if_pos (.inr hsaving)
    rw [hsame]
    exact ⟨⟨h, rfl⟩, rfl⟩
  · have hbegun := saveAll_begun h (by simpa using hsaving)
    exact ⟨⟨hbegun.saved, hbegun.power⟩, hbegun.d3hot⟩

theorem stowEnd_unsaved {s : State} (h : s.rd Reg.SCHED_STATUS_SAVED_ALL = 0) : s.stowEnd = s := by
  unfold State.stowEnd
  exact if_neg fun hdone => absurd (hdone.2.symm.trans h) (by decide)

theorem d3hotBegins {s : State} (hd0 : s.hif.d3hot = false) (hreset : s.pwr.inReset = none) (hstate : s.rd Reg.PWR_STATUS_STATE = 0)
    (hsaved : s.rd Reg.SCHED_STATUS_SAVED_ALL = 0) : completes .d3hotWrite s fun t =>
      t.hif.d3hot = true ∧ t.pwr.stowing = true ∧ t.rd Reg.PWR_STATUS_STATE = 1 ∧
      t.pwr.savedRings = (List.range 16).map (fun c => (c, s.rd (Reg.HIF_CRING_STATUS_STATE c))) := by
  have hasked : s.stowAsked.rd Reg.SCHED_STATUS_SAVED_ALL = 0 :=
    (stowAsked_rd s _).trans ((rd_wr_reg s _ _ 1 (by decide)).trans hsaved)
  obtain ⟨hleft, hpower, hd3, hpwr⟩ := saveAll_unsaved hasked
  refine ⟨_, exec_d3hotWrite hd0 hreset hstate, ?_⟩
  rw [stowEnd_unsaved hleft]
  dsimp only
  rw [hpower, hd3, hpwr]
  exact ⟨rfl, rfl, (stowAsked_rd s _).trans (rd_wr_same s _ 1 (by decide)), rfl⟩

/-- The rails come up. -/
def State.railsUp (s : State) : State :=
  (List.range 10).foldl (fun s r => (s.post (Out.rail r 800)).post (Out.rail r (s.rd (Reg.HLTH_GRP_SET_SET_MV r)))) s

/-- The rails come up and the device returns to ACTIVE. -/
def State.unstowing (s : State) : State :=
  { s.railsUp.wr Reg.PWR_STATUS_STATE 5 with hif := { s.railsUp.hif with d3hot := false } }

theorem railsUp_keeps (s : State) : Keeps 33554432 s s.railsUp :=
  .foldl (.refl s) fun _ _ ht => State.post_keeps _ _ rfl (State.post_keeps _ _ rfl ht)

theorem unstow_eq (s : State) : s.unstow = s.unstowing.resumeAll := by rfl

/-- What the return from STOWED starts from: nothing but the power state, D3hot and the rails has moved. -/
structure Unstowing (s t : State) : Prop where
  d3hot : t.hif.d3hot = false
  state : t.rd Reg.PWR_STATUS_STATE = 5
  saved : t.rd Reg.SCHED_STATUS_SAVED_ALL = s.rd Reg.SCHED_STATUS_SAVED_ALL
  sched : t.sched = s.sched

theorem rd_withHif (s : State) (x : Hif) (f : RegField) : ({ s with hif := x } : State).rd f = s.rd f := by rfl

theorem sched_withHif (s : State) (x : Hif) : ({ s with hif := x } : State).sched = s.sched := by rfl

theorem unstowing_unstowing (s : State) : Unstowing s s.unstowing where
  d3hot := rfl
  state := (rd_withHif _ _ _).trans (rd_wr_same _ _ 5 (by decide))
  saved := (rd_withHif _ _ _).trans ((rd_wr_reg _ _ _ 5 (by decide)).trans
    (rd_of_reg (reg_of_regs ((railsUp_keeps s).parts.same .regs rfl) _)))
  sched := (sched_withHif _ _).trans ((State.wr_sched _ _ _).trans ((railsUp_keeps s).parts.same .sched rfl))

/-- Asking for a restore moves only its own request. -/
theorem resumeAll_power (s : State) : s.resumeAll.hif = s.hif ∧ s.resumeAll.rd Reg.PWR_STATUS_STATE = s.rd Reg.PWR_STATUS_STATE := by
  refine ⟨(State.resumeAll_keeps (L := 65537) s rfl (.refl s)).parts.same .hif rfl, ?_⟩
  unfold State.resumeAll
  split
  · exact (rd_withSched _ _ _).trans (rd_wr_reg s _ _ 1 (by decide))
  · rfl

theorem exec_d0Write_latches {s : State} (h : s.hif.d3hot = true) (hstate : s.rd Reg.PWR_STATUS_STATE = 1) :
    exec .d0Write s = .next (s.wr Reg.PWR_STATUS_STATE 2) := by
  show execD0Write s = _
  unfold execD0Write
  rw [hstate, h]
  rfl

theorem exec_d0Write_stowed {s : State} (h : s.hif.d3hot = true) (hstate : s.rd Reg.PWR_STATUS_STATE = 4) :
    exec .d0Write s = .next s.unstow := by
  show execD0Write s = _
  unfold execD0Write
  rw [hstate, h]
  rfl

theorem d0Returns {s : State} (h : s.hif.d3hot = true) :
    (s.rd Reg.PWR_STATUS_STATE = 1 → completes .d0Write s fun t => t = s.wr Reg.PWR_STATUS_STATE 2) ∧
    (s.rd Reg.PWR_STATUS_STATE = 4 → completes .d0Write s fun t => t.hif.d3hot = false ∧ t.rd Reg.PWR_STATUS_STATE = 5 ∧
      (s.rd Reg.SCHED_STATUS_SAVED_ALL = 1 → s.sched.resuming = false → t.sched.resuming = true)) := by
  have hfrom := unstowing_unstowing s
  obtain ⟨hhif, hpower⟩ := resumeAll_power s.unstowing
  refine ⟨fun hstate => ⟨_, exec_d0Write_latches h hstate, rfl⟩, fun hstate => ⟨_, exec_d0Write_stowed h hstate, ?_⟩⟩
  rw [unstow_eq]
  refine ⟨by rw [hhif, hfrom.d3hot], hpower.trans hfrom.state, fun hsaved hresuming => ?_⟩
  rw [sched_resumeAll (hfrom.saved.trans hsaved) (by rw [hfrom.sched, hresuming])]

/-! ### Clocks (R682) and rails (R691) -/

theorem exec_clockGate {s : State} {b : Nat} (hb : b < 20) (h : s.clockBusy b = false) :
    exec (.clockGate b) s = .next (s.wr (clkOn b) 0) := if_pos ⟨hb, h⟩

theorem exec_clockStart {s : State} {b : Nat} (hb : b < 20) (hfurled : s.rd Reg.PWR_STATUS_STATE ≠ 3)
    (hstowed : s.rd Reg.PWR_STATUS_STATE ≠ 4) : exec (.clockStart b) s = .next (s.wr (clkOn b) 1) := if_pos ⟨hb, hfurled, hstowed⟩

/-- What an answered read-back stores. -/
theorem railReads (s : State) {r cur mv : Nat} (hcur : cur < 2 ^ 16) (hmv : mv < 2 ^ 10) :
    completes (.railReadback r (some (cur, mv))) s fun t => t.rd (Reg.PWR_RAIL_CURRENT r) = cur ∧ t.rd (Reg.PWR_RAIL_MV r) = mv := by
  have hcurrent : ((s.wr (Reg.PWR_RAIL_CURRENT r) cur).wr (Reg.PWR_RAIL_MV r) mv).rd (Reg.PWR_RAIL_CURRENT r) = cur :=
    (rd_wr_part_other _ _ _ (by decide) (by decide)).trans ((rd_wr_part_same s _ _ (by decide)).trans (Nat.mod_eq_of_lt hcur))
  have hvolt : ((s.wr (Reg.PWR_RAIL_CURRENT r) cur).wr (Reg.PWR_RAIL_MV r) mv).rd (Reg.PWR_RAIL_MV r) = mv :=
    (rd_wr_part_same _ _ _ (by decide)).trans (Nat.mod_eq_of_lt hmv)
  exact ⟨_, rfl, hcurrent, hvolt⟩

theorem railFaults {s : State} {r c : Nat} (hbad : tget (fun _ => none) s.pwr.railBad r = some c) (hlate : c + 10 ^ 6 ≤ s.time.mono) :
    completes (.railFault r) s fun t => t.rd Reg.PWR_EVENT_RAIL_FAULT = 1 := by
  refine ⟨s.wr Reg.PWR_EVENT_RAIL_FAULT 1, ?_, rd_wr_same s _ 1 (by decide)⟩
  show execRailFault r s = _
  unfold execRailFault
  rw [hbad]
  exact if_pos hlate

/-! ### The throttle (R694) -/

/-- The duty after a step: lowered, raised or kept. -/
def State.dutyNext (s : State) (tj : Int) (power : Nat) : Nat :=
  let top : Int := (s.rd Reg.PWR_CAP_TJ_MAX_C : Int)
  let duty := s.rd Reg.PWR_THROTTLE_DUTY
  if decide (top - 5 ≤ tj) = true ∨ decide (s.rd Reg.PWR_CAP_CAP_W < power) = true then duty - 16
  else if power + 10 < s.rd Reg.PWR_CAP_CAP_W ∧ tj < top - 8 then min 1024 (duty + 16) else duty

/-- Why the duty is below its top: the junction in bit 0, the cap in bit 1. -/
def State.throttleCause (s : State) (tj : Int) (power : Nat) : Nat :=
  if s.dutyNext tj power = 1024 then 0
  else s.pwr.throttleBy ||| (if decide ((s.rd Reg.PWR_CAP_TJ_MAX_C : Int) - 5 ≤ tj) = true then 1 else 0) |||
    (if decide (s.rd Reg.PWR_CAP_CAP_W < power) = true then 2 else 0)

/-- The average, the junction and the duty are shown. -/
def State.throttled (s : State) (tj : Int) (powers : List Nat) : State :=
  { ((s.wr Reg.PWR_POWER_POWER_W (averageW powers)).wr Reg.PWR_STATUS_TJ_C (unsgn 8 tj)).wr Reg.PWR_THROTTLE_DUTY
      (s.dutyNext tj (averageW powers)) with
    pwr := { s.pwr with powers := powers, throttleBy := s.throttleCause tj (averageW powers) } }

/-- The events of a throttle's causes are flagged. -/
def State.flagCauses (s : State) (by_ : Nat) : State :=
  let s1 := if bitsOf by_ 0 1 = 1 then s.wr Reg.PWR_EVENT_TJ_THROTTLE 1 else s
  if bitsOf by_ 1 1 = 1 then s1.wr Reg.PWR_EVENT_CAP_THROTTLE 1 else s1

theorem exec_throttleStep (s : State) (tj : Int) : exec (.throttleStep tj) s =
    .next ((s.throttled tj ((s.powerNow :: s.pwr.powers).take 10)).flagCauses
      (s.throttleCause tj (averageW ((s.powerNow :: s.pwr.powers).take 10)))) := by rfl

theorem rd_withPwr (s : State) (x : PwrSt) (f : RegField) : ({ s with pwr := x } : State).rd f = s.rd f := by rfl

theorem rd_throttled_power (s : State) (tj : Int) (l : List Nat) :
    (s.throttled tj l).rd Reg.PWR_POWER_POWER_W = averageW l % 2 ^ 10 :=
  (rd_withPwr _ _ _).trans ((rd_wr_reg _ _ _ _ (by decide)).trans ((rd_wr_reg _ _ _ _ (by decide)).trans
    (rd_wr_same s _ _ (by decide))))

theorem rd_throttled_duty (s : State) (tj : Int) (l : List Nat) :
    (s.throttled tj l).rd Reg.PWR_THROTTLE_DUTY = s.dutyNext tj (averageW l) % 2 ^ 11 :=
  (rd_withPwr _ _ _).trans (rd_wr_same _ _ _ (by decide))

theorem flagCauses_regs (s : State) (by_ : Nat) : SameRegs (· ≠ Reg.PWR_EVENT) s (s.flagCauses by_) := by
  have hjunction : SameRegs (· ≠ Reg.PWR_EVENT) s (if bitsOf by_ 0 1 = 1 then s.wr Reg.PWR_EVENT_TJ_THROTTLE 1 else s) :=
    ite_both (P := SameRegs (· ≠ Reg.PWR_EVENT) s) (.wr (.refl s) _ (by simp)) (.refl s)
  unfold State.flagCauses
  exact ite_both (P := SameRegs (· ≠ Reg.PWR_EVENT) s) (.wr hjunction _ (by simp)) hjunction

theorem flagCauses_pwr (s : State) (by_ : Nat) : (s.flagCauses by_).pwr = s.pwr := by
  unfold State.flagCauses
  dsimp only
  split <;> split <;> simp

theorem rd_flagCauses_cap (s : State) {by_ : Nat} (h : bitsOf by_ 1 1 = 1) : (s.flagCauses by_).rd Reg.PWR_EVENT_CAP_THROTTLE = 1 := by
  unfold State.flagCauses
  dsimp only
  rw [if_pos h]
  exact rd_wr_same _ _ 1 (by decide)

theorem rd_flagCauses_junction (s : State) {by_ : Nat} (h : bitsOf by_ 0 1 = 1) :
    (s.flagCauses by_).rd Reg.PWR_EVENT_TJ_THROTTLE = 1 := by
  have hset := rd_wr_same s Reg.PWR_EVENT_TJ_THROTTLE 1 (by decide)
  unfold State.flagCauses
  dsimp only
  rw [if_pos h]
  exact ite_both (P := fun t : State => t.rd Reg.PWR_EVENT_TJ_THROTTLE = 1)
    ((rd_wr_other _ _ _ _ (by decide) (by decide)).trans hset) hset

/-- One bit of a value, as a test. -/
theorem bitsOf_one (v lo : Nat) : bitsOf v lo 1 = (v.testBit lo).toNat := by
  rw [bitsOf_eq, Nat.testBit_eq_decide_div_mod_eq]
  have := Nat.mod_two_eq_zero_or_one (v / 2 ^ lo)
  rcases this with h | h <;> simp [h]

theorem cause_cap {s : State} {tj : Int} {power : Nat} (hcap : s.rd Reg.PWR_CAP_CAP_W < power) (hduty : s.dutyNext tj power ≠ 1024) :
    bitsOf (s.throttleCause tj power) 1 1 = 1 := by
  unfold State.throttleCause
  have htwo : Nat.testBit 2 1 = true := rfl
  rw [if_neg hduty, bitsOf_one, Nat.testBit_or, decide_eq_true hcap]
  simp [htwo]

theorem cause_junction {s : State} {tj : Int} {power : Nat} (hhot : (s.rd Reg.PWR_CAP_TJ_MAX_C : Int) - 5 ≤ tj)
    (hduty : s.dutyNext tj power ≠ 1024) : bitsOf (s.throttleCause tj power) 0 1 = 1 := by
  unfold State.throttleCause
  rw [if_neg hduty, bitsOf_one, Nat.testBit_or, Nat.testBit_or, decide_eq_true hhot]
  simp

theorem dutyNext_lowered {s : State} {tj : Int} {power : Nat}
    (h : (s.rd Reg.PWR_CAP_TJ_MAX_C : Int) - 5 ≤ tj ∨ s.rd Reg.PWR_CAP_CAP_W < power) :
    s.dutyNext tj power = s.rd Reg.PWR_THROTTLE_DUTY - 16 := if_pos (h.imp decide_eq_true decide_eq_true)

theorem dutyNext_raised {s : State} {tj : Int} {power : Nat} (hpower : power + 10 < s.rd Reg.PWR_CAP_CAP_W)
    (hcool : tj < (s.rd Reg.PWR_CAP_TJ_MAX_C : Int) - 8) : s.dutyNext tj power = min 1024 (s.rd Reg.PWR_THROTTLE_DUTY + 16) := by
  unfold State.dutyNext
  dsimp only
  rw [if_neg (by simp only [decide_eq_true_eq]; omega), if_pos ⟨hpower, hcool⟩]

theorem throttleSteps (s : State) (tj : Int) {l : List Nat} (hl : l = (s.powerNow :: s.pwr.powers).take 10)
    (hduty : s.rd Reg.PWR_THROTTLE_DUTY ≤ 1024) : completes (.throttleStep tj) s fun t =>
      t.pwr.powers = l ∧ t.rd Reg.PWR_POWER_POWER_W = averageW l % 2 ^ 10 ∧
      (16 < s.rd Reg.PWR_THROTTLE_DUTY → s.rd Reg.PWR_CAP_CAP_W < averageW l →
        t.rd Reg.PWR_THROTTLE_DUTY = s.rd Reg.PWR_THROTTLE_DUTY - 16 ∧ t.rd Reg.PWR_EVENT_CAP_THROTTLE = 1) ∧
      (16 < s.rd Reg.PWR_THROTTLE_DUTY → (s.rd Reg.PWR_CAP_TJ_MAX_C : Int) - 5 ≤ tj →
        t.rd Reg.PWR_THROTTLE_DUTY = s.rd Reg.PWR_THROTTLE_DUTY - 16 ∧ t.rd Reg.PWR_EVENT_TJ_THROTTLE = 1) ∧
      (averageW l + 10 < s.rd Reg.PWR_CAP_CAP_W → tj < (s.rd Reg.PWR_CAP_TJ_MAX_C : Int) - 8 →
        t.rd Reg.PWR_THROTTLE_DUTY = min 1024 (s.rd Reg.PWR_THROTTLE_DUTY + 16)) := by
  have hshown : ∀ by_, ((s.throttled tj l).flagCauses by_).rd Reg.PWR_THROTTLE_DUTY = s.dutyNext tj (averageW l) % 2 ^ 11 := fun by_ =>
    ((flagCauses_regs _ by_).rd (by decide)).trans (rd_throttled_duty s tj l)
  refine ⟨_, exec_throttleStep s tj, ?_⟩
  rw [← hl]
  refine ⟨by rw [flagCauses_pwr]; rfl, ((flagCauses_regs _ _).rd (by decide)).trans (rd_throttled_power s tj l), ?cap, ?junction, ?raised⟩
  case cap =>
    intro _ hcap
    have hnext := dutyNext_lowered (tj := tj) (.inr hcap)
    exact ⟨by rw [hshown, hnext]; omega, rd_flagCauses_cap _ (cause_cap hcap (by omega))⟩
  case junction =>
    intro _ hhot
    have hnext := dutyNext_lowered (power := averageW l) (.inl hhot)
    exact ⟨by rw [hshown, hnext]; omega, rd_flagCauses_junction _ (cause_junction hhot (by omega))⟩
  case raised =>
    intro hpower hcool
    rw [hshown, dutyNext_raised hpower hcool]
    omega

/-! ### The thermal trip (R696) -/

theorem thermalTrips (s : State) :
    completes .thermalTrip s fun t => t.pwr.inReset = some .powerOn ∧ t.pwr.tripped = true ∧ t.sec.key = none := by
  have hsec := powerOn_sec ((s.tamper 3 0).post Out.thermTrip) true
  have hpwr := powerOn_pwr ((s.tamper 3 0).post Out.thermTrip) true
  exact ⟨_, rfl, by dsimp only; rw [hpwr]; rfl, rfl, by dsimp only; rw [hsec]; rfl⟩

end Sys2Proof.Machine

namespace Sys2Proof
open Machine

/-- Settles O32: furl, stow and their returns, the whole-device save, clocks, rails, throttle and trip, each by its own command. -/
theorem powerStatesClocksAndRails : Obligations.PowerStatesClocksAndRails := by
  unfold Obligations.PowerStatesClocksAndRails
  exact ⟨fun s h => ⟨_, if_pos h, rfl⟩,
    furlsAndWakes,
    fun s hreach => ⟨saveAllStarts hreach, resumeAllStarts hreach⟩,
    fun s => saveAllCompletes,
    fun s => resumeAllCompletes,
    fun s => d3hotBegins,
    fun s => d0Returns,
    fun s b hb => ⟨fun h => ⟨_, exec_clockGate hb h, rfl⟩, fun hfurled hstowed => ⟨_, exec_clockStart hb hfurled hstowed, rfl⟩⟩,
    fun s r cur mv _ hcur hmv => ⟨⟨_, rfl, rfl⟩, railReads s hcur hmv⟩,
    fun s r c => railFaults,
    fun s tj l => throttleSteps s tj,
    thermalTrips⟩

end Sys2Proof
end

section
/-! SUPPORT. Resets other than a power-on reset: their ranking, what they discard and how they end (R697 to R700, R704). -/

set_option Elab.async false

namespace Sys2Proof.Machine

/-! ### Ranking (R700) -/

/-- A reset of equal or higher rank in progress keeps another from beginning. -/
theorem startReset_outranked {s : State} {k q : ResetKind} (hreset : s.pwr.inReset = some q) (hrank : k.rank ≤ q.rank) (last : Nat) :
    s.startReset k last = s := by
  unfold State.startReset
  rw [hreset]
  exact if_pos (decide_eq_true hrank)

/-- What a reset discards and sets, by its kind. -/
def State.resetBody (s : State) (k : ResetKind) : State :=
  match k with
  | .powerOn => s
  | .hot => s.hotReset false
  | .flr => s.hotReset true
  | .warm => s.warmReset
  | .fw => s.fwReset

/-- A reset begins: its work is done, LAST_RESET names it, and it is in progress. -/
theorem startReset_none {s : State} (h : s.pwr.inReset = none) (k : ResetKind) (last : Nat) : s.startReset k last =
    { (s.resetBody k).wr Reg.PWR_STATUS_LAST_RESET last with
      pwr := { ((s.resetBody k).wr Reg.PWR_STATUS_LAST_RESET last).pwr with inReset := some k } } := by
  unfold State.startReset
  rw [h]
  rfl

/-! ### The journal's commands in hand -/

/-- What a reset drops of jobs, contexts and requests; no command of the journal is in hand any more. -/
def State.workGone (s : State) (tiles : Bool) : State :=
  let areas := s.sched.saved.map (·.area) ++ (List.range 64).filterMap (fun c => (s.core c).saving.map (·.area))
  let s1 := s.jobs.foldl State.forgetJob s
  let s2 := s1.sched.retiring.foldl (fun s r => s.freeAll r.cls r.bufs) s1
  let s3 := s2.freeAll 7 areas
  let isTile := fun (j : Job) => match j.kind with | .tile _ _ _ _ => tiles | _ => false
  { (s3.wr Reg.SCHED_CTRL_SAVE_ALL 0).wr Reg.SCHED_CTRL_RESUME_ALL 0 with
    jobs := (s3.jobs.filter isTile).map (fun j => j.anew s3.ticketNow)
    sched := { s3.sched with ready := [], saved := [], retry := [], retiring := [], swaps := [], saving := false, resuming := false }
    tbl := { s3.tbl with loads := [], suspect := [] }
    jrnl := { s3.jrnl with cmds := [] } }

/-- What follows in a reset concerns programs, pools, the HBM's queues and the cores. -/
def State.unitsReset (s : State) : State :=
  let s5 := (List.range 32).foldl State.progReset (s.wr Reg.SCHED_STATUS_SAVED_ALL 0)
  let s6 := (List.range 8).foldl (fun s c => (s.setPool c { s.poolC c with stalled := [] }).poolNote c) s5
  let s7 := (List.range 64).foldl (fun s p => let x := s.pchan p
    if x.queue.isEmpty then s else s.setPchan p { x with queue := [] }) s6
  ((List.range 64).foldl State.coreReset s7).schedNote

theorem dropWork_eq (s : State) (tiles : Bool) : s.dropWork tiles = (s.workGone tiles).unitsReset := by rfl

theorem unitsReset_keeps (s : State) : Keeps 9144347 s s.unitsReset := by
  have hprogs : Keeps 9144347 s ((List.range 32).foldl State.progReset (s.wr Reg.SCHED_STATUS_SAVED_ALL 0)) :=
    .foldl (State.wr_keeps _ _ _ rfl (.refl s)) fun t p ht => State.progReset_keeps t p rfl ht
  unfold State.unitsReset
  refine State.schedNote_keeps _ rfl (.foldl (.foldl (.foldl hprogs ?pools) ?queues) ?cores)
  case pools => exact fun t c ht => State.poolNote_keeps _ c rfl (State.setPool_keeps t c _ rfl ht)
  case queues => exact fun t p ht => ite_both (P := Keeps 9144347 s) ht (State.setPchan_keeps t p _ rfl ht)
  case cores => exact fun t c ht => State.coreReset_keeps t c rfl ht

/-- What a reset does after it has dropped the work: batches, stations, links, rings and streams follow. -/
def State.unitsFollow (s : State) (fw links : Bool) : State :=
  let s2 := (s.shpReset).sgsReset
  let s3 := ((if fw then s2 else s2.netReset).lnkReset links).ringsReset
  ({ s3 with hlth := { s3.hlth with testing := if fw then s3.hlth.testing else [] } } : State).frameJobs.progsNote

theorem discardWork_eq (s : State) (fw links : Bool) : s.discardWork fw links =
    (((((List.range 128).foldl (State.streamBack (!fw)) s).decReset).workGone links).unitsReset).unitsFollow fw links := by rfl

theorem unitsFollow_keeps (s : State) (fw links : Bool) : Keeps 10381083 s (s.unitsFollow fw links) := by
  have hstations : Keeps 10381083 s s.shpReset.sgsReset := State.sgsReset_keeps _ rfl (State.shpReset_keeps _ rfl (.refl s))
  have hnet : Keeps 10381083 s (if fw then s.shpReset.sgsReset else s.shpReset.sgsReset.netReset) :=
    ite_both (P := Keeps 10381083 s) hstations (State.netReset_keeps _ rfl hstations)
  unfold State.unitsFollow
  refine State.progsNote_keeps _ rfl (State.frameJobs_keeps _ rfl (.upd (m := 8) rfl ?_))
  exact State.ringsReset_keeps _ rfl (State.lnkReset_keeps _ links rfl hnet)

theorem cmds_discardWork (s : State) (fw links : Bool) : (s.discardWork fw links).jrnl.cmds = [] := by
  rw [discardWork_eq, (unitsFollow_keeps _ fw links).parts.same .jrnl rfl, (unitsReset_keeps _).parts.same .jrnl rfl]
  rfl

theorem cmds_of_keeps {L : Nat} {s t : State} (h : Keeps L s t) (hjrnl : L.testBit 2 = false) (hcmds : s.jrnl.cmds = []) :
    t.jrnl.cmds = [] := by rw [h.parts.same .jrnl hjrnl, hcmds]

theorem cmds_hifReset {s : State} (flr : Bool) (h : s.jrnl.cmds = []) : (s.hifReset flr).jrnl.cmds = [] := by
  unfold State.hifReset
  exact ite_both (P := fun t : State => t.jrnl.cmds = []) h h

/-- Every reset but a power-on reset drops the commands in hand. -/
theorem cmds_resetBody (s : State) {k : ResetKind} (hk : k ≠ .powerOn) (hstowed : k = .fw → s.rd Reg.PWR_STATUS_STATE ≠ 4) :
    (s.resetBody k).jrnl.cmds = [] := by
  have hhot : ∀ flr, (s.hotReset flr).jrnl.cmds = [] := fun flr => by
    refine cmds_of_keeps (L := 2162947) ?_ rfl (cmds_hifReset flr (cmds_discardWork s false false))
    refine State.toActive_keeps _ rfl (.foldl (.upd (m := 2162688) rfl (.refl _)) fun t p ht => State.linkDown_keeps t p rfl ht)
  have hwarm : s.warmReset.jrnl.cmds = [] :=
    cmds_of_keeps (L := 2162691) (State.toActive_keeps _ rfl (State.ringsBack_keeps _ rfl (State.willRecover_keeps _ rfl (.refl _)))) rfl
      (cmds_discardWork s false true)
  have hfw : s.rd Reg.PWR_STATUS_STATE ≠ 4 → s.fwReset.jrnl.cmds = [] := fun h => by
    unfold State.fwReset
    rw [if_neg h]
    have hts : ∀ l : List Nat, Keeps 11248667 (s.discardWork true true) (l.foldl (fun s p => s.wr (Reg.NET_PORT_STATUS_TS_HW p) 0)
        (s.discardWork true true).willRecover) := fun l =>
      .foldl (State.willRecover_keeps _ rfl (.refl _)) fun t p ht => State.wr_keeps _ _ _ rfl ht
    refine ite_both (P := fun t : State => t.jrnl.cmds = []) ?_ ?_ <;>
      refine cmds_of_keeps (L := 11248667) ?_ rfl (cmds_discardWork s true true)
    · exact State.saveAll_keeps _ rfl (.upd (m := 2097152) rfl (hts _))
    · exact State.wr_keeps _ _ _ rfl (State.ringsBack_keeps _ rfl (.upd (m := 2097152) rfl (hts _)))
  cases k with
  | powerOn => exact absurd rfl hk
  | hot => exact hhot false
  | flr => exact hhot true
  | warm => exact hwarm
  | fw => exact hfw (hstowed rfl)

/-! ### A reset begins -/

/-- A reset of a kind is in progress, LAST_RESET names it, and no command of the journal is in hand. -/
structure Begun (k : ResetKind) (last : Nat) (t : State) : Prop where
  inReset : t.pwr.inReset = some k
  lastReset : t.rd Reg.PWR_STATUS_LAST_RESET = last
  cmds : t.jrnl.cmds = []

/-- The device is in ACTIVE and D0. -/
structure InD0 (t : State) : Prop where
  state : t.rd Reg.PWR_STATUS_STATE = 0
  d3hot : t.hif.d3hot = false

/-- The begun reset, as one state. -/
def State.begins (s : State) (k : ResetKind) (last : Nat) : State :=
  { s.wr Reg.PWR_STATUS_LAST_RESET last with pwr := { s.pwr with inReset := some k } }

theorem startReset_eq {s : State} (h : s.pwr.inReset = none) (k : ResetKind) (last : Nat) :
    s.startReset k last = (s.resetBody k).begins k last := (startReset_none h k last).trans (by rw [State.wr_pwr]; rfl)

theorem begins_begun {s : State} (hcmds : s.jrnl.cmds = []) (k : ResetKind) {last : Nat} (hlast : last < 16) :
    Begun k last (s.begins k last) where
  inReset := rfl
  lastReset := (rd_withPwr _ _ _).trans ((rd_wr_same s _ last (by decide)).trans (Nat.mod_eq_of_lt hlast))
  cmds := hcmds

theorem begins_inD0 {s : State} (h : InD0 s) (k : ResetKind) (last : Nat) : InD0 (s.begins k last) where
  state := (rd_withPwr _ _ _).trans ((rd_wr_other s _ _ last (by decide) (by decide)).trans h.state)
  d3hot := h.d3hot

theorem rd_withPwrHif (s : State) (x : PwrSt) (y : Hif) (f : RegField) : ({ s with pwr := x, hif := y } : State).rd f = s.rd f := by rfl

theorem toActive_inD0 (s : State) : InD0 s.toActive := by
  unfold State.toActive
  exact ⟨(rd_withPwrHif _ _ _ _).trans (rd_wr_same s _ 0 (by decide)), rfl⟩

/-- A warm, hot or function-level reset leaves the device in ACTIVE and D0. -/
theorem resetBody_inD0 (s : State) {k : ResetKind} (hk : k ≠ .powerOn) (hfw : k ≠ .fw) : InD0 (s.resetBody k) := by
  cases k with
  | powerOn => exact absurd rfl hk
  | hot => exact toActive_inD0 _
  | flr => exact toActive_inD0 _
  | warm => exact toActive_inD0 _
  | fw => exact absurd rfl hfw

theorem startReset_begun {s : State} {k : ResetKind} (h : s.pwr.inReset = none) (hk : k ≠ .powerOn)
    (hstowed : k = .fw → s.rd Reg.PWR_STATUS_STATE ≠ 4) {last : Nat} (hlast : last < 16) : Begun k last (s.startReset k last) := by
  rw [startReset_eq h]
  exact begins_begun (cmds_resetBody s hk hstowed) k hlast

theorem startReset_inD0 {s : State} {k : ResetKind} (h : s.pwr.inReset = none) (hk : k ≠ .powerOn) (hfw : k ≠ .fw) (last : Nat) :
    InD0 (s.startReset k last) := by
  rw [startReset_eq h]
  exact begins_inD0 (resetBody_inD0 s hk hfw) k last

/-- The link of the host goes down. -/
def State.hostLinkOff (s : State) : State :=
  ((s.wr Reg.HIF_STATUS_LINK_UP 0).wr Reg.HIF_STATUS_LINK_SPEED 0).wr Reg.HIF_STATUS_LINK_WIDTH 0

theorem hostLinkOff_regs (s : State) : SameRegs (· ≠ Reg.HIF_STATUS) s s.hostLinkOff :=
  .wr (.wr (.wr (.refl s) _ (by simp)) _ (by simp)) _ (by simp)

theorem rd_hostLinkOff (s : State) : s.hostLinkOff.rd Reg.HIF_STATUS_LINK_UP = 0 :=
  (rd_wr_other _ _ _ _ (by decide) (by decide)).trans ((rd_wr_other _ _ _ _ (by decide) (by decide)).trans (rd_wr_same s _ 0 (by decide)))

theorem Begun.hostLinkOff {k : ResetKind} {last : Nat} {s : State} (h : Begun k last s) : Begun k last s.hostLinkOff :=
  ⟨h.inReset, ((hostLinkOff_regs s).rd (by decide)).trans h.lastReset, h.cmds⟩

theorem InD0.hostLinkOff {s : State} (h : InD0 s) : InD0 s.hostLinkOff := ⟨((hostLinkOff_regs s).rd (by decide)).trans h.state, h.d3hot⟩

/-! ### A reset ends (R698) -/

theorem reset_off (s : State) : ({ s with pwr := { s.pwr with inReset := none } } : State).pwr.inReset = none := rfl

theorem inReset_of_keeps {L : Nat} {s t : State} (h : Keeps L s t) (hpwr : L.testBit 21 = false) (hs : s.pwr.inReset = none) :
    t.pwr.inReset = none := by rw [h.parts.same .pwr hpwr, hs]

theorem inReset_recover {s : State} (host : Option (List (BitVec 1024) × List (BitVec 128))) (h : s.pwr.inReset = none) :
    (s.recover host).pwr.inReset = none :=
  inReset_of_keeps (L := 41943135) (State.recover_keeps s host rfl (.refl s)) rfl h

theorem inReset_rearm {s : State} (h : s.pwr.inReset = none) : s.rearm.pwr.inReset = none := by
  have hts : ∀ l : List Nat, (l.foldl (fun s p => if s.rd (Reg.NET_PORT_STATUS_LINK_UP p) = 1 then
      s.wr (Reg.NET_PORT_STATUS_TS_HW p) 1 else s) s).pwr.inReset = none := fun l =>
    inReset_of_keeps (L := 1) (.foldl (.refl s) fun t p ht => ite_both (P := Keeps 1 s) (State.wr_keeps _ _ _ rfl ht) ht) rfl h
  exact hts s.pwr.tsHeld

theorem inReset_linksTrain {s : State} (h : s.pwr.inReset = none) : s.linksTrain.pwr.inReset = none :=
  inReset_of_keeps (L := 257) (State.linksTrain_keeps s rfl (.refl s)) rfl h

theorem resetEnds {s : State} {k : ResetKind} (host : Option (List (BitVec 1024) × List (BitVec 128))) (hreset : s.pwr.inReset = some k)
    (hk : k ≠ .powerOn) (hwarm : k = .warm → s.pwr.rstWarmN = true) :
    completes (.resetIntervalEnd host) s fun t => t.pwr.inReset = none := by
  show ∃ t, execResetIntervalEnd host s = .next t ∧ _
  unfold execResetIntervalEnd
  rw [hreset]
  dsimp only
  cases k with
  | powerOn => exact absurd rfl hk
  | hot => exact ⟨_, rfl, inReset_linksTrain (reset_off s)⟩
  | flr => exact ⟨_, rfl, inReset_linksTrain (reset_off s)⟩
  | warm =>
    dsimp only
    rw [hwarm rfl, if_neg (by decide)]
    exact ⟨_, rfl, ite_both (P := fun t : State => t.pwr.inReset = none) (inReset_recover host (reset_off s)) (reset_off s)⟩
  | fw =>
    have hrearm := inReset_rearm (reset_off s)
    exact ⟨_, rfl, ite_both (P := fun t : State => t.pwr.inReset = none) (inReset_recover host hrearm) hrearm⟩

/-! ### The events that begin a reset -/

/-- The pin of the warm reset goes low. -/
def State.warmLow (s : State) : State := { s with pwr := { s.pwr with rstWarmN := false } }

/-- PERST# goes low. -/
def State.perstLow (s : State) : State := { s with pwr := { s.pwr with perstN := false } }

theorem exec_pwrResetWarm {s : State} {w : BitVec 32} (hreach : reaches s Reg.PWR_RESET) (hkey : bitsOf w.toNat 24 8 = 0xA5)
    (hwarm : bitsOf w.toNat 1 1 = 1) : exec (.pwrResetWarm w) s = .next (s.startReset .warm 1) := by
  show execPwrResetWarm w s = _
  unfold execPwrResetWarm
  rw [bar_of_reaches hreach]
  exact if_pos ⟨hkey, hwarm⟩

theorem exec_pwrResetFw {s : State} {w : BitVec 32} (hreach : reaches s Reg.PWR_RESET) (hkey : bitsOf w.toNat 24 8 = 0xA5)
    (hfw : bitsOf w.toNat 0 1 = 1) (hwarm : bitsOf w.toNat 1 1 = 0) : exec (.pwrResetFw w) s = .next (s.startReset .fw 4) := by
  show execPwrResetFw w s = _
  unfold execPwrResetFw
  rw [bar_of_reaches hreach]
  show (if _ then Host.Outcome.next _ else _) = _
  rw [if_pos ⟨hkey, hfw⟩, if_neg (by rw [hwarm]; decide)]

theorem exec_perstAssert {s : State} (h : s.pwr.pwrGood = true) : exec .perstAssert s =
    .next (s.perstLow.startReset .hot 5).hostLinkOff := by
  show execPerstAssert s = _
  unfold execPerstAssert
  dsimp only
  rw [if_pos h]
  rfl

/-- The pins stay. -/
structure SamePins (s t : State) : Prop where
  perstN : t.pwr.perstN = s.pwr.perstN
  rstWarmN : t.pwr.rstWarmN = s.pwr.rstWarmN

theorem SamePins.trans {s t u : State} (h : SamePins s t) (k : SamePins t u) : SamePins s u :=
  ⟨k.perstN.trans h.perstN, k.rstWarmN.trans h.rstWarmN⟩

theorem SamePins.of_keeps {L : Nat} {s t : State} (h : Keeps L s t) (hpwr : L.testBit 21 = false) : SamePins s t := by
  have hsame := h.parts.same .pwr hpwr
  exact ⟨congrArg PwrSt.perstN hsame, congrArg PwrSt.rstWarmN hsame⟩

theorem toActive_pins (s : State) : SamePins s s.toActive := ⟨rfl, rfl⟩

theorem ringsBack_pins (s : State) : SamePins s s.ringsBack := by
  have hresumes : ∀ l : List Nat, Keeps 65539 s (l.foldl State.ringResumes ({ s with sched := { s.sched with savedRings := [] } } : State)) :=
    fun l => .foldl (.upd (m := 65536) rfl (.refl s)) fun t c ht => State.ringResumes_keeps t c rfl ht
  unfold State.ringsBack
  refine .trans (.trans (.of_keeps (hresumes s.sched.savedRings) rfl) ?_) (.of_keeps (L := 1) (.foldl (.refl _) fun t q ht => ?_) rfl)
  · exact ⟨rfl, rfl⟩
  · exact ite_both (P := Keeps 1 _) (State.wr_keeps _ _ _ rfl ht) ht

theorem discardWork_pins (s : State) (fw links : Bool) : SamePins s (s.discardWork fw links) :=
  .of_keeps (State.discardWork_keeps (L := 44040159) s fw links rfl (.refl s)) rfl

theorem warmReset_pins (s : State) : SamePins s s.warmReset :=
  (discardWork_pins s false true).trans
    (.trans (.of_keeps (State.willRecover_keeps (L := 1) _ rfl (.refl _)) rfl) ((ringsBack_pins _).trans (toActive_pins _)))

theorem hotReset_pins (s : State) (flr : Bool) : SamePins s (s.hotReset flr) := by
  have hhif : SamePins s ((s.discardWork false false).hifReset flr) :=
    (discardWork_pins s false false).trans (.of_keeps (State.hifReset_keeps (L := 7) _ flr rfl (.refl _)) rfl)
  unfold State.hotReset
  refine .trans (.trans (hhif.trans ?_) (.of_keeps (L := 257) (.foldl (.refl _) fun t p ht => State.linkDown_keeps t p rfl ht) rfl))
    (toActive_pins _)
  exact ⟨rfl, rfl⟩

theorem startReset_pins {s : State} {k : ResetKind} (h : s.pwr.inReset = none) (hbody : SamePins s (s.resetBody k)) (last : Nat) :
    SamePins s (s.startReset k last) := by
  rw [startReset_eq h]
  exact hbody.trans ⟨rfl, rfl⟩

theorem exec_fwWatchdogExpiry (s : State) : exec .fwWatchdogExpiry s = .next (s.startReset .fw 4) := rfl

theorem exec_rstWarmNFall (s : State) : exec .rstWarmNFall s = .next (s.warmLow.startReset .warm 1) := rfl

theorem exec_functionLevelReset (s : State) : exec .functionLevelReset s = .next (s.startReset .flr 3) := rfl

theorem exec_pcieHotReset (s : State) : exec .pcieHotReset s = .next (s.startReset .hot 2).hostLinkOff := rfl

theorem rank_warm_le {q : ResetKind} (h : q ≠ .fw) : ResetKind.rank .warm ≤ q.rank := by
  cases q with
  | fw => exact absurd rfl h
  | warm => exact Nat.le_refl 1
  | hot => exact Nat.le_succ 1
  | flr => exact Nat.le_succ 1
  | powerOn => exact Nat.le_add_left 1 2

theorem rank_flr_le {q : ResetKind} (hfw : q ≠ .fw) (hwarm : q ≠ .warm) : ResetKind.rank .flr ≤ q.rank := by
  cases q with
  | fw => exact absurd rfl hfw
  | warm => exact absurd rfl hwarm
  | hot => exact Nat.le_refl 2
  | flr => exact Nat.le_refl 2
  | powerOn => exact Nat.le_succ 2

/-- A reset that is neither a power-on nor a firmware reset begins, in ACTIVE and D0. -/
structure BegunActive (k : ResetKind) (last : Nat) (t : State) : Prop where
  begun : Begun k last t
  active : InD0 t

theorem startReset_active {s : State} {k : ResetKind} (h : s.pwr.inReset = none) (hk : k ≠ .powerOn) (hfw : k ≠ .fw) {last : Nat}
    (hlast : last < 16) : BegunActive k last (s.startReset k last) :=
  ⟨startReset_begun h hk (fun hk => absurd hk hfw) hlast, startReset_inD0 h hk hfw last⟩

theorem BegunActive.hostLinkOff {k : ResetKind} {last : Nat} {s : State} (h : BegunActive k last s) : BegunActive k last s.hostLinkOff :=
  ⟨h.begun.hostLinkOff, h.active.hostLinkOff⟩

/-- As the statements of resets say it. -/
theorem Begun.says {k : ResetKind} {last : Nat} {t : State} (h : Begun k last t) :
    t.pwr.inReset = some k ∧ t.rd Reg.PWR_STATUS_LAST_RESET = last ∧ t.jrnl.cmds = [] := ⟨h.inReset, h.lastReset, h.cmds⟩

theorem InD0.says {t : State} (h : InD0 t) : t.rd Reg.PWR_STATUS_STATE = 0 ∧ t.hif.d3hot = false := ⟨h.state, h.d3hot⟩

theorem rstWarmN_begun {s : State} (h : s.pwr.inReset = none) : (s.warmLow.startReset .warm 1).pwr.rstWarmN = false :=
  (startReset_pins (s := s.warmLow) (k := .warm) h (warmReset_pins _) 1).rstWarmN

theorem perstN_begun {s : State} (h : s.pwr.inReset = none) : (s.perstLow.startReset .hot 5).hostLinkOff.pwr.perstN = false :=
  (startReset_pins (s := s.perstLow) (k := .hot) h (hotReset_pins _ false) 5).perstN

end Sys2Proof.Machine

namespace Sys2Proof
open Machine

/-- Settles O31: a reset that is not outranked discards the work, is named, and ends in ACTIVE and D0 once its interval is over. -/
theorem resetsDiscardWorkAndAreRanked : Obligations.ResetsDiscardWorkAndAreRanked := by
  unfold Obligations.ResetsDiscardWorkAndAreRanked
  refine ⟨fun s q hreset hq => ⟨?watchdog, ?warm⟩, fun s q hreset hfw hwarm => ?flr, fun s h => ⟨?fall, ?hot, ?function, ?perst, ?expiry⟩,
    fun s w hreach h hkey => ⟨fun hwarm => ?warmKey, fun hfw hwarm => ?fwKey⟩, fun s => ⟨⟨_, rfl, rfl⟩, _, rfl, rfl⟩,
    fun s k host => resetEnds host⟩
  case watchdog => exact ⟨_, exec_fwWatchdogExpiry s, startReset_outranked hreset (Nat.zero_le _) 4⟩
  case warm => exact ⟨_, exec_rstWarmNFall s, startReset_outranked (s := s.warmLow) (q := q) hreset (rank_warm_le hq) 1⟩
  case flr => exact ⟨_, exec_functionLevelReset s, startReset_outranked hreset (rank_flr_le hfw hwarm) 3⟩
  case fall =>
    have hactive := startReset_active (s := s.warmLow) (k := .warm) (last := 1) h (by decide) (by decide) (by decide)
    exact ⟨_, exec_rstWarmNFall s, hactive.begun.says, hactive.active.says, rstWarmN_begun h⟩
  case hot =>
    have hactive := (startReset_active (k := .hot) (last := 2) h (by decide) (by decide) (by decide)).hostLinkOff
    exact ⟨_, exec_pcieHotReset s, hactive.begun.says, hactive.active.says, rd_hostLinkOff _⟩
  case function =>
    have hactive := startReset_active (k := .flr) (last := 3) h (by decide) (by decide) (by decide)
    exact ⟨_, exec_functionLevelReset s, hactive.begun.says, hactive.active.says⟩
  case perst =>
    have hactive := (startReset_active (s := s.perstLow) (k := .hot) (last := 5) h (by decide) (by decide) (by decide)).hostLinkOff
    exact fun hgood => ⟨_, exec_perstAssert hgood, hactive.begun.says, hactive.active.says, rd_hostLinkOff _, perstN_begun h⟩
  case expiry =>
    exact fun hstate => ⟨_, exec_fwWatchdogExpiry s, (startReset_begun h (by decide) (fun _ => hstate) (by decide)).says⟩
  case warmKey =>
    have hactive := startReset_active (k := .warm) (last := 1) h (by decide) (by decide) (by decide)
    exact ⟨_, exec_pwrResetWarm hreach hkey hwarm, hactive.begun.says, hactive.active.says⟩
  case fwKey =>
    have hstate : s.rd Reg.PWR_STATUS_STATE ≠ 4 := by
      obtain ⟨-, hactive, -⟩ := hreach
      rw [hactive]
      decide
    exact ⟨_, exec_pwrResetFw hreach hkey hfw hwarm, (startReset_begun h (by decide) (fun _ => hstate) (by decide)).says⟩

end Sys2Proof
end

section
/-! SUPPORT. Signing requests without a key, and the fuses that a derivation leaves alone (R712, R725). -/

set_option Elab.async false

namespace Sys2Proof.Machine

/-- A request's GO bit is cleared and its failure recorded. -/
def State.signFails (s : State) (go : RegField) : State := (s.wr go 0).secErr 0x0F07

/-- The failures of the requests that wait. -/
def State.signsFail (s : State) : State :=
  let s1 := if s.sec.quoteReq.isSome then s.signFails Reg.SEC_CTRL_QUOTE_GO else s
  if s.sec.burgeeReq.isSome then s1.signFails Reg.SEC_CTRL_BURGEE_GO else s1

theorem failSigns_of_key {s : State} (h : s.sec.reDeriving = true ∨ s.sec.key.isSome = true) : s.failSigns = s := if_pos h

theorem failSigns_eq {s : State} (h : ¬(s.sec.reDeriving = true ∨ s.sec.key.isSome = true)) :
    s.failSigns = { s.signsFail with sec := { s.signsFail.sec with quoteReq := none, burgeeReq := none } } := if_neg h

theorem signsFail_records (s : State) : Records [Reg.SEC_CTRL, Reg.SEC_ERR] s s.signsFail := by
  have hrefl : ∀ t : State, Records [Reg.SEC_CTRL, Reg.SEC_ERR] t t := fun t => ⟨rfl, fun _ _ _ _ => rfl⟩
  have hfails : ∀ (t : State) (go : RegField), go.addr = Reg.SEC_CTRL → Records [Reg.SEC_CTRL, Reg.SEC_ERR] t (t.signFails go) :=
    fun t go hgo => (Records.trans (l := [Reg.SEC_CTRL]) ⟨rfl, fun a _ _ ha => reg_wr_other t go 0 a (by simpa [hgo] using ha)⟩
      (secErr_records (t.wr go 0) 0x0F07)).mono (by simp)
  have htrans : ∀ {t u v : State}, Records [Reg.SEC_CTRL, Reg.SEC_ERR] t u → Records [Reg.SEC_CTRL, Reg.SEC_ERR] u v →
      Records [Reg.SEC_CTRL, Reg.SEC_ERR] t v := fun h k => (h.trans k).mono (by simp)
  have hquote : Records [Reg.SEC_CTRL, Reg.SEC_ERR] s (if s.sec.quoteReq.isSome then s.signFails Reg.SEC_CTRL_QUOTE_GO else s) :=
    ite_both (P := Records [Reg.SEC_CTRL, Reg.SEC_ERR] s) (hfails s _ rfl) (hrefl s)
  unfold State.signsFail
  exact ite_both (P := Records [Reg.SEC_CTRL, Reg.SEC_ERR] s) (htrans hquote (hfails _ _ rfl)) hquote

/-- What SEC holds but for its requests stays. -/
theorem failSigns_sec (s : State) : s.failSigns.sec = { s.sec with quoteReq := s.failSigns.sec.quoteReq, burgeeReq := s.failSigns.sec.burgeeReq } := by
  by_cases h : s.sec.reDeriving = true ∨ s.sec.key.isSome = true
  · rw [failSigns_of_key h]
  · rw [failSigns_eq h]
    dsimp only
    rw [(signsFail_records s).sec]

/-- The fuses of SEC stay. -/
structure SameFuses (s t : State) : Prop where
  lc : t.sec.lc = s.sec.lc
  seed : t.sec.seed = s.sec.seed
  endorsement : t.sec.endorsement = s.sec.endorsement

theorem SameFuses.trans {s t u : State} (h : SameFuses s t) (k : SameFuses t u) : SameFuses s u :=
  ⟨k.lc.trans h.lc, k.seed.trans h.seed, k.endorsement.trans h.endorsement⟩

theorem SameFuses.of_keeps {L : Nat} {s t : State} (h : Keeps L s t) (hsec : L.testBit 22 = false) : SameFuses s t := by
  have hsame := h.parts.same .sec hsec
  exact ⟨congrArg SecSt.lc hsame, congrArg SecSt.seed hsame, congrArg SecSt.endorsement hsame⟩

theorem SameFuses.lifecycle {s t : State} (h : SameFuses s t) : t.lifecycle = s.lifecycle := by
  unfold State.lifecycle SecSt.lifecycle
  rw [h.lc]

theorem failSigns_fuses (s : State) : SameFuses s s.failSigns := by
  have h := failSigns_sec s
  exact ⟨by rw [h], by rw [h], by rw [h]⟩

/-- A derivation starts: the fuses stay. -/
theorem startDerive_fuses (s : State) : SameFuses s s.startDerive := by
  unfold State.startDerive
  refine .trans ?_ (failSigns_fuses _)
  exact ⟨rfl, rfl, rfl⟩

end Sys2Proof.Machine
end

section
/-! SUPPORT. What filing an event changes of HLTH: the records, and the registers that show them (R657, R658, R674). -/

set_option Elab.async false

namespace Sys2Proof.Machine

/-- The registers that filing an event may write: those of the record file and of the snapshot. -/
def fileReg (a : Nat) : Prop :=
  a = Reg.HLTH_ERR ∨ a = Reg.HLTH_REC_SUMMARY ∨ a = Reg.HLTH_REC_USED ∨ a = Reg.HLTH_REC_LOST ∨ a / 0x100000 = 0x1F

/-- Other registers stay, and of HLTH's data only the records move. -/
structure Files (s t : State) : Prop where
  regs : SameRegs (fun a => ¬fileReg a) s t
  hlth : t.hlth = { s.hlth with recs := t.hlth.recs, recFull := t.hlth.recFull }

theorem Files.refl (s : State) : Files s s := ⟨.refl s, rfl⟩

theorem Files.trans {s t u : State} (h : Files s t) (k : Files t u) : Files s u :=
  ⟨h.regs.trans k.regs, by rw [k.hlth, h.hlth]⟩

theorem Files.rd {s t : State} (h : Files s t) {f : RegField} (hf : ¬fileReg f.addr) : t.rd f = s.rd f := h.regs.rd hf

theorem Files.of_regs {s t : State} (h : SameRegs (fun a => ¬fileReg a) s t) (hhlth : t.hlth = s.hlth) : Files s t :=
  ⟨h, by rw [hhlth]⟩

theorem Files.wr {s t : State} (h : Files s t) {f : RegField} (v : Nat) (hf : fileReg f.addr) : Files s (t.wr f v) :=
  h.trans (.of_regs (.wr (.refl t) v (not_not.mpr hf)) rfl)

theorem Files.cnt {s t : State} (h : Files s t) (id scope n : Nat) : Files s (t.cnt id scope n) := h.trans (.of_regs (.of_regs rfl) rfl)

/-- A hoist writes registers of the snapshot alone. -/
theorem hoist_regs (s : State) (bit code node : Nat) : SameRegs (fun a => a / 0x100000 ≠ 0x1F) s (s.hoist bit code node) := by
  have hwindow : SameRegs (fun a => a / 0x100000 ≠ 0x1F) s
      { s with snap := { s.snap with window := s.snapWindow, heldMono := s.time.mono } } := .of_regs rfl
  unfold State.hoist
  refine ite_both (P := SameRegs _ s) (.cnt (.wr (.wr (.setReg (.setReg (.setReg (.setReg (.setReg (.setReg (.wr (.wr (.wr (.wr
    hwindow _ ?_) _ ?_) _ ?_) _ ?_) _ ?_) _ ?_) _ ?_) _ ?_) _ ?_) _ ?_) _ ?_) _ ?_) _ _ _) (ite_both (P := SameRegs _ s) ?_ ?_) <;> try decide
  · exact ite_both (P := SameRegs _ s) (.wr (.refl s) _ (by decide)) (.wr (.wr (.wr (.refl s) _ (by decide)) _ (by decide)) _ (by decide))
  · exact .cnt (.bump (.refl s) _ (by decide)) _ _ _

theorem hoist_files (s : State) (bit code node : Nat) : Files s (s.hoist bit code node) :=
  .of_regs ((hoist_regs s bit code node).mono fun a ha hpage => ha (by simp [fileReg, hpage]))
    ((State.hoist_keeps (L := 8388625) s bit code node rfl (.refl s)).parts.same .hlth rfl)

theorem recSummary_files {s t : State} (h : Files s t) : Files s t.recSummary := by
  unfold State.recSummary
  exact (h.wr _ (by simp [fileReg])).wr _ (by simp [fileReg])

theorem file_files (s : State) (b : Blk) (i c d0 d1 : Nat) : Files s (s.file b i c d0 d1) := by
  have hlost : Files s ((s.bump Reg.HLTH_REC_LOST_COUNT).cnt 0x0E04 0) := .cnt (.wr (.refl s) _ (by simp [fileReg])) _ _ _
  have herr : Files s (((s.bump Reg.HLTH_REC_LOST_COUNT).cnt 0x0E04 0).setErr Reg.HLTH_ERR true (0, 0, 0) 0x0E06) :=
    hlost.trans (.of_regs (.setErr (.refl _) _ _ _ (by simp [fileReg])) (setErr_hlth _ _ _ _ _))
  have hput : ∀ x : Hlth, x = { s.hlth with recs := x.recs, recFull := x.recFull } → Files s { s with hlth := x } := fun x hx =>
    ⟨.of_regs rfl, hx⟩
  unfold State.file
  refine ite_both (P := Files s) ((recSummary_files ?_).trans (hoist_files _ _ _ _)) (recSummary_files ?_) <;>
  · split
    · exact hput _ rfl
    · split
      · exact hput _ rfl
      · refine ite_both (P := Files s) hlost ?_
        exact ⟨herr.regs.with rfl, rfl⟩

theorem rd_file_hlth (s : State) (b : Blk) (i c d0 d1 : Nat) {f : RegField} (hf : ¬fileReg f.addr) :
    (s.file b i c d0 d1).rd f = s.rd f := (file_files s b i c d0 d1).rd hf

/-- An error of a block is recorded and filed. -/
theorem err_files (s : State) (a : Nat) (o : Bool) (w : Nat × Nat × Nat) (b : Blk) (i c d0 d1 : Nat) :
    ((s.setErr a o w c).file b i c d0 d1).hlth = { s.hlth with
      recs := ((s.setErr a o w c).file b i c d0 d1).hlth.recs, recFull := ((s.setErr a o w c).file b i c d0 d1).hlth.recFull } := by
  have h := (file_files (s.setErr a o w c) b i c d0 d1).hlth
  rw [setErr_hlth] at h
  exact h

end Sys2Proof.Machine
end

section
/-! SUPPORT. A power-on reset of a device with no retired rank, and the boot that follows it (R698, R701, R717, R737). -/

set_option Elab.async false

namespace Sys2Proof.Machine

/-! ### What a power-on reset clears and keeps -/

/-- With no rank retired, only the fuse fields and the summaries of the HBM and of the lifecycle are written. -/
theorem powerOn_clear {s : State} (h : s.hbm.retired = []) (aon : Bool) : s.powerOn aon = (s.fusesBack aon).hbmNote.lcNote := by
  rw [powerOn_eq, h]
  rfl

theorem powerOn_stripped_regs {s : State} (h : s.hbm.retired = []) (aon : Bool) : Keeps 1 s.stripped (s.powerOn aon) := by
  rw [powerOn_clear h]
  exact State.lcNote_keeps _ rfl (State.hbmNote_keeps _ rfl (.foldl (.refl _) fun t f ht => State.wr_keeps _ _ _ rfl ht))

/-- The data of the blocks that hold work are as at reset. -/
structure Blank (t : State) : Prop where
  hif : t.hif = State.reset.hif
  jrnl : t.jrnl = State.reset.jrnl
  streams : t.streams = []
  dec : t.dec = State.reset.dec
  net : t.net = State.reset.net
  shp : t.shp = State.reset.shp
  sgs : t.sgs = State.reset.sgs
  progs : t.progs = []
  tbl : t.tbl = State.reset.tbl
  jobs : t.jobs = []
  cores : t.cores = []
  sched : t.sched = State.reset.sched
  pools : t.pools = State.reset.pools
  mem : t.mem = State.reset.mem
  lnk : t.lnk = State.reset.lnk

theorem Blank.says {t : State} (h : Blank t) : t.hif = State.reset.hif ∧ t.jrnl = State.reset.jrnl ∧ t.streams = [] ∧
    t.dec = State.reset.dec ∧ t.net = State.reset.net ∧ t.shp = State.reset.shp ∧ t.sgs = State.reset.sgs ∧ t.progs = [] ∧
    t.tbl = State.reset.tbl ∧ t.jobs = [] ∧ t.cores = [] ∧ t.sched = State.reset.sched ∧ t.pools = State.reset.pools ∧
    t.mem = State.reset.mem ∧ t.lnk = State.reset.lnk :=
  ⟨h.hif, h.jrnl, h.streams, h.dec, h.net, h.shp, h.sgs, h.progs, h.tbl, h.jobs, h.cores, h.sched, h.pools, h.mem, h.lnk⟩

/-- An operation on the registers, the records, the power unit and SEC keeps the rest blank. -/
theorem Blank.of_keeps {L : Nat} {s t : State} (h : Blank s) (k : Keeps L s t) (hL : L ||| 14680089 = 14680089) : Blank t := by
  have hsame : ∀ p : Part, Nat.testBit 14680089 p.bit = false → p.same s t := fun p hp => k.parts.same p (by
    rw [← hL, Nat.testBit_or, Bool.or_eq_false_iff] at hp
    exact hp.1)
  exact {
    hif := (hsame .hif rfl).trans h.hif, jrnl := (hsame .jrnl rfl).trans h.jrnl, streams := (hsame .streams rfl).trans h.streams
    dec := (hsame .dec rfl).trans h.dec, net := (hsame .net rfl).trans h.net, shp := (hsame .shp rfl).trans h.shp
    sgs := (hsame .sgs rfl).trans h.sgs, progs := (hsame .progs rfl).trans h.progs, tbl := (hsame .tbl rfl).trans h.tbl
    jobs := (hsame .jobs rfl).trans h.jobs, cores := (hsame .cores rfl).trans h.cores, sched := (hsame .sched rfl).trans h.sched
    pools := (hsame .pools rfl).trans h.pools, mem := (hsame .mem rfl).trans h.mem, lnk := (hsame .lnk rfl).trans h.lnk }

theorem stripped_blank (s : State) : Blank s.stripped := ⟨rfl, rfl, rfl, rfl, rfl, rfl, rfl, rfl, rfl, rfl, rfl, rfl, rfl, rfl, rfl⟩

theorem powerOn_blank {s : State} (h : s.hbm.retired = []) (aon : Bool) : Blank (s.powerOn aon) :=
  (stripped_blank s).of_keeps (powerOn_stripped_regs h aon) rfl

/-- The lifecycle, a command under way taking it to its new state, with the seed, the endorsement and the pins of the warm reset and of
the link. -/
structure KeptByPowerOn (s t : State) : Prop where
  lc : t.sec.lc = (s.sec.busy.map fun n => [n, n, n]).getD s.sec.lc
  seed : t.sec.seed = s.sec.seed
  endorsement : t.sec.endorsement = s.sec.endorsement
  inReset : t.pwr.inReset = some .powerOn
  perstN : t.pwr.perstN = s.pwr.perstN
  rstWarmN : t.pwr.rstWarmN = s.pwr.rstWarmN

theorem KeptByPowerOn.says {s t : State} (h : KeptByPowerOn s t) : t.sec.lc = (s.sec.busy.map fun n => [n, n, n]).getD s.sec.lc ∧
    t.sec.seed = s.sec.seed ∧ t.sec.endorsement = s.sec.endorsement ∧ t.pwr.inReset = some .powerOn ∧
    t.pwr.perstN = s.pwr.perstN ∧ t.pwr.rstWarmN = s.pwr.rstWarmN := ⟨h.lc, h.seed, h.endorsement, h.inReset, h.perstN, h.rstWarmN⟩

theorem stripped_lc (s : State) : s.stripped.sec.lc = (s.sec.busy.map fun n => [n, n, n]).getD s.sec.lc := by
  unfold State.stripped
  dsimp only
  cases s.sec.busy <;> rfl

theorem powerOn_kept (s : State) (aon : Bool) : KeptByPowerOn s (s.powerOn aon) where
  lc := by rw [powerOn_sec, stripped_lc]
  seed := by rw [powerOn_sec]; rfl
  endorsement := by rw [powerOn_sec]; rfl
  inReset := by rw [powerOn_pwr]; rfl
  perstN := by rw [powerOn_pwr]; rfl
  rstWarmN := by rw [powerOn_pwr]; rfl

/-! ### The fuse fields -/

/-- The summaries of the HBM and of the lifecycle write beside the fuse fields and the tamper record. -/
theorem rd_summaries (s : State) {f : RegField} (hbm : f.addr ≠ Reg.HBM_STATUS) (hen : f.addr ≠ Reg.SEC_TAMPER_EN)
    (hlow : f.addr ≠ Reg.SEC_STATUS ∨ f.lo + f.w ≤ 26) : s.hbmNote.lcNote.rd f = s.rd f := by
  have hfields : ∀ (t : State) (g : RegField) v, g.addr = Reg.SEC_STATUS → 26 ≤ g.lo → g.lo + g.w ≤ 32 → (t.wr g v).rd f = t.rd f :=
    fun t g v hg hlo hw => rd_wr_other t g f v hw (hlow.imp (fun h => by rw [hg]; exact h) fun h => .inl (by omega))
  have hnote : s.hbmNote.rd f = s.rd f :=
    (rd_wr_reg _ _ _ _ hbm).trans ((rd_wr_reg _ _ _ _ hbm).trans (rd_wr_reg s _ _ _ hbm))
  have hstatus : ∀ u v w, (((s.hbmNote.wr Reg.SEC_STATUS_LIFECYCLE u).wr Reg.SEC_STATUS_DEBUG_OPEN v).wr Reg.SEC_STATUS_ENDORSED w).rd f =
      s.rd f := fun u v w => (hfields _ _ _ rfl (by decide) (by decide)).trans ((hfields _ _ _ rfl (by decide) (by decide)).trans
        ((hfields _ _ _ rfl (by decide) (by decide)).trans hnote))
  exact ite_both (P := fun t : State => t.rd f = s.rd f) (hstatus _ _ _) ((rd_wr_reg _ _ _ _ hen).trans (hstatus _ _ _))

/-- The fuse fields stand beside each other. -/
theorem fuse_fields_apart : ∀ f ∈ fuseFields ++ tamperFields, f.lo + f.w ≤ 32 ∧ f.addr ≠ Reg.HBM_STATUS ∧ f.addr ≠ Reg.SEC_TAMPER_EN ∧
    (f.addr ≠ Reg.SEC_STATUS ∨ f.lo + f.w ≤ 26) ∧ ∀ g ∈ fuseFields ++ tamperFields, f = g ∨ f.addr ≠ g.addr ∨ f.lo + f.w ≤ g.lo ∨
      g.lo + g.w ≤ f.lo := by decide

/-- Copying fields that stand apart gives each of them its value. -/
theorem rd_copied {s : State} {f : RegField} (hw : f.lo + f.w ≤ 32) (l : List RegField) (t : State)
    (hapart : ∀ g ∈ l, g.lo + g.w ≤ 32 ∧ (f = g ∨ f.addr ≠ g.addr ∨ f.lo + f.w ≤ g.lo ∨ g.lo + g.w ≤ f.lo))
    (h : f ∈ l ∨ t.rd f = s.rd f) : (l.foldl (fun (x : State) f => x.wr f (s.rd f)) t).rd f = s.rd f := by
  induction l generalizing t with
  | nil => exact h.resolve_left List.not_mem_nil
  | cons g l ih =>
    obtain ⟨hgw, hg⟩ := hapart g List.mem_cons_self
    refine ih _ (fun k hk => hapart k (List.mem_cons_of_mem g hk)) ?_
    by_cases heq : f = g
    · refine .inr ?_
      rw [← heq, rd_wr_same t f _ hw]
      exact Nat.mod_eq_of_lt (rd_lt s f)
    · refine h.imp (fun hmem => (List.mem_cons.mp hmem).resolve_left heq) fun ht => ?_
      exact (rd_wr_other t g f _ hgw (hg.resolve_left heq)).trans ht

theorem powerOn_fuses {s : State} (h : s.hbm.retired = []) (aon : Bool) {f : RegField} (hf : f ∈ fuseFields) :
    (s.powerOn aon).rd f = s.rd f := by
  obtain ⟨hw, hhbm, hen, hlow, hapart⟩ := fuse_fields_apart f (List.mem_append_left _ hf)
  have hsub : ∀ g ∈ (if aon then fuseFields ++ tamperFields else fuseFields), g ∈ fuseFields ++ tamperFields := fun g hg => by
    split at hg
    · exact hg
    · exact List.mem_append_left _ hg
  rw [powerOn_clear h, rd_summaries _ hhbm hen hlow]
  refine rd_copied hw _ _ (fun g hg => ⟨(fuse_fields_apart g (hsub g hg)).1, hapart g (hsub g hg)⟩) (.inl ?_)
  split
  · exact List.mem_append_left _ hf
  · exact hf

theorem regReset_tamper_latched : bitsOf (regReset Reg.SEC_TAMPER).toNat 31 1 = 0 := by
  unfold regReset rowOf
  decide

/-- With VDD_AON lost the tamper record takes its reset value. -/
theorem powerOn_tamper_lost {s : State} (h : s.hbm.retired = []) : (s.powerOn false).rd Reg.SEC_TAMPER_LATCHED = 0 := by
  rw [powerOn_clear h, rd_summaries _ (by decide) (by decide) (by decide)]
  refine (SameRegs.foldl (P := (· = Reg.SEC_TAMPER)) (fun t f hf => .wr (.refl t) _ ?_) s.stripped).rd rfl |>.trans ?_
  · revert f
    decide
  · exact regReset_tamper_latched

/-! ### The boot (R701, R717) -/

/-- The units that the boot tests: cores, stations and shapers' partners. -/
def bootUnits : List UnitId :=
  (List.range 64).map (fun u => ({ kind := 0, unit := u } : UnitId)) ++
    (List.range 8).map (fun u => ({ kind := 1, unit := u } : UnitId)) ++ (List.range 4).map (fun u => ({ kind := 2, unit := u } : UnitId))

/-- The subsystem identifiers that the board record gives. -/
def boardIds (board : List Nat) : Nat × Nat :=
  match boardRecord board with
  | some b => (ofBytes ((b.drop 4).take 2), ofBytes ((b.drop 6).take 2))
  | none => (0x1FD7, 0)

/-- The self-tests start, and in TERMINATED the boot ROM goes to ROM service mode. -/
def State.bootTests (s : State) (ids : Nat × Nat) : State :=
  { s with
    pwr := { s.pwr with booting := true, subsys := ids, romService := s.lifecycle == 4 }
    hlth := { s.hlth with testing := bootUnits } }

theorem boot_eq {s : State} {board : List Nat} (hgood : s.pwr.pwrGood = true) (hpor : s.pwr.rstPorN = true) (htrip : s.pwr.tripped = false) :
    s.boot board = ((s.cfgExtend 1 ((boardRecord board).getD [])).bootTests (boardIds board)).startDerive.planStart := by
  unfold State.boot
  rw [if_neg (by simp [hgood, hpor, htrip])]
  rfl

/-- What the boot leaves: it runs, 76 units are in self-test, and ROM service mode goes with TERMINATED. -/
structure Booted (s t : State) : Prop where
  booting : t.pwr.booting = true
  testing : t.hlth.testing.length = 76
  rom : t.pwr.romService = true ↔ t.lifecycle = 4
  fuses : SameFuses s t
  pwr : t.pwr = { s.pwr with booting := true, subsys := t.pwr.subsys, romService := t.pwr.romService }

/-- The units in self-test stay. -/
structure SameTesting (s t : State) : Prop where
  testing : t.hlth.testing = s.hlth.testing

theorem SameTesting.trans {s t u : State} (h : SameTesting s t) (k : SameTesting t u) : SameTesting s u :=
  ⟨k.testing.trans h.testing⟩

theorem signFails_testing (s : State) (go : RegField) : SameTesting s (s.signFails go) := by
  unfold State.signFails State.secErr
  refine ⟨?_⟩
  rw [err_files]
  rfl

theorem failSigns_testing (s : State) : SameTesting s s.failSigns := by
  by_cases h : s.sec.reDeriving = true ∨ s.sec.key.isSome = true
  · rw [failSigns_of_key h]
    exact ⟨rfl⟩
  · have hquote : SameTesting s (if s.sec.quoteReq.isSome then s.signFails Reg.SEC_CTRL_QUOTE_GO else s) :=
      ite_both (P := SameTesting s) (signFails_testing s _) ⟨rfl⟩
    have hsigns : SameTesting s s.signsFail := by
      unfold State.signsFail
      exact ite_both (P := SameTesting s) (hquote.trans (signFails_testing _ _)) hquote
    rw [failSigns_eq h]
    exact hsigns.trans ⟨rfl⟩

theorem startDerive_testing (s : State) : SameTesting s s.startDerive := by
  unfold State.startDerive
  refine .trans ?_ (failSigns_testing _)
  exact ⟨rfl⟩

theorem planStart_testing (s : State) : SameTesting s s.planStart := by
  unfold State.planStart
  refine ⟨?_⟩
  dsimp only
  rw [State.wr_hlth, State.wr_hlth]

/-- The self-tests of a boot, with what follows them. -/
theorem bootTests_booted (s : State) (ids : Nat × Nat) : Booted s (s.bootTests ids).startDerive.planStart := by
  have hpwr : (s.bootTests ids).startDerive.planStart.pwr = (s.bootTests ids).pwr :=
    (State.planStart_keeps (L := 12582937) _ rfl (State.startDerive_keeps _ rfl (.refl _))).parts.same .pwr rfl
  have hfuses : SameFuses (s.bootTests ids) (s.bootTests ids).startDerive.planStart :=
    (startDerive_fuses _).trans (.of_keeps (State.planStart_keeps (L := 9) _ rfl (.refl _)) rfl)
  have htesting := ((startDerive_testing (s.bootTests ids)).trans (planStart_testing _)).testing
  exact {
    booting := by rw [hpwr]; rfl
    testing := by rw [htesting]; rfl
    rom := by rw [hpwr, hfuses.lifecycle]; exact beq_iff_eq
    fuses := .trans (t := s.bootTests ids) ⟨rfl, rfl, rfl⟩ hfuses
    pwr := by rw [hpwr]; rfl }

theorem Booted.of_keeps {s t u : State} (h : Booted t u) (k : Keeps 1 s t) : Booted s u :=
  { h with
    fuses := .trans (.of_keeps k rfl) h.fuses
    pwr := h.pwr.trans (by rw [k.parts.same .pwr rfl]) }

theorem boot_booted {s : State} (board : List Nat) (hgood : s.pwr.pwrGood = true) (hpor : s.pwr.rstPorN = true)
    (htrip : s.pwr.tripped = false) : Booted s (s.boot board) := by
  have hcfg : ∀ l : List Nat, Keeps 1 s (s.cfgExtend 1 l) := fun l => State.cfgExtend_keeps s 1 l rfl (.refl s)
  rw [boot_eq hgood hpor htrip]
  exact (bootTests_booted _ (boardIds board)).of_keeps (hcfg _)

/-- The boot leaves what a power-on reset cleared. -/
theorem boot_keeps_work (s : State) (board : List Nat) : Keeps 14680089 s (s.boot board) := State.boot_keeps s board rfl (.refl s)

/-! ### The events -/

/-- A pin or a mode of the power unit takes a new value. -/
def State.withPins (s : State) (x : PwrSt) : State := { s with pwr := x }

theorem withPins_blank {s : State} (h : Blank s) (x : PwrSt) : Blank (s.withPins x) :=
  ⟨h.hif, h.jrnl, h.streams, h.dec, h.net, h.shp, h.sgs, h.progs, h.tbl, h.jobs, h.cores, h.sched, h.pools, h.mem, h.lnk⟩

theorem rd_withPins (s : State) (x : PwrSt) (f : RegField) : (s.withPins x).rd f = s.rd f := by rfl

theorem exec_pwrGoodFall (s : State) : exec .pwrGoodFall s =
    .next ((s.powerOn true).withPins { (s.powerOn true).pwr with pwrGood := false, tripped := false }) := rfl

theorem exec_rstPorNLow (s : State) : exec .rstPorNLow s =
    .next ((s.powerOn true).withPins { (s.powerOn true).pwr with rstPorN := false }) := rfl

theorem exec_vddAonLoss (s : State) : exec .vddAonLoss s =
    .next ((s.powerOn false).withPins { (s.powerOn false).pwr with pwrGood := false }) := rfl

/-- Power is good, in test mode or not. -/
def PwrSt.powered (x : PwrSt) (m : Bool) : PwrSt := { x with pwrGood := true, testMode := m }

theorem exec_pwrGoodRise (m : Bool) (board : List Nat) (s : State) : exec (.pwrGoodRise m board) s =
    .next (((s.powerOn true).withPins ((s.powerOn true).pwr.powered m)).boot board) := rfl

theorem exec_rstPorNRise {s : State} (board : List Nat) (h : s.pwr.rstPorN = false) : exec (.rstPorNRise board) s =
    .next ((s.withPins { s.pwr with rstPorN := true }).boot board) := if_neg (by rw [h]; decide)

theorem withPins_kept {s t : State} (h : KeptByPowerOn s t) {x : PwrSt} (hreset : x.inReset = t.pwr.inReset)
    (hperst : x.perstN = t.pwr.perstN) (hwarm : x.rstWarmN = t.pwr.rstWarmN) : KeptByPowerOn s (t.withPins x) :=
  ⟨h.lc, h.seed, h.endorsement, hreset.trans h.inReset, hperst.trans h.perstN, hwarm.trans h.rstWarmN⟩

theorem boot_kept {s t : State} (h : KeptByPowerOn s t) {u : State} (hboot : Booted t u) : KeptByPowerOn s u := by
  have hpwr := hboot.pwr
  exact ⟨hboot.fuses.lc.trans h.lc, hboot.fuses.seed.trans h.seed, hboot.fuses.endorsement.trans h.endorsement,
    by rw [hpwr]; exact h.inReset, by rw [hpwr]; exact h.perstN, by rw [hpwr]; exact h.rstWarmN⟩

theorem powerOn_counters {s : State} (h : s.hbm.retired = []) (aon : Bool) : (s.powerOn aon).counters = [] :=
  (powerOn_stripped_regs h aon).parts.same .counters rfl

theorem readyEnds {s : State} (hreset : s.pwr.inReset = some .powerOn) (hboot : s.pwr.booting = true) (hfw : s.pwr.fwRunning = true)
    (hplan : s.pwr.firstPlan = true) (htest : s.hlth.testing = []) (h0 : s.rd (Reg.HBM_STK_TRAIN_TRAIN_OK 0) = 1)
    (h1 : s.rd (Reg.HBM_STK_TRAIN_TRAIN_OK 1) = 1) (hmode : s.pwr.testMode = false) :
    exec .ready s = .next { s.wr Reg.PWR_STATUS_READY 1 with pwr := { s.pwr with inReset := none } } := by
  have hmay : s.mayReady = true := by
    unfold State.mayReady
    rw [hreset, hboot, hfw, hplan, htest, h0, h1, hmode]
    rfl
  exact if_pos hmay

end Sys2Proof.Machine

namespace Sys2Proof
open Machine

/-- Settles O30: a power-on reset leaves what `State.stripped` says with the fuse fields set again; the boot touches HLTH, PWR and SEC. -/
theorem powerOnResetClearsAndTheBootFollows : Obligations.PowerOnResetClearsAndTheBootFollows := by
  unfold Obligations.PowerOnResetClearsAndTheBootFollows
  refine ⟨fun s h => ⟨?fall, ?low, ?aon⟩, fun s m board h hpor htrip => ?rise, fun s board hpor hgood htrip => ?porRise, ?ready⟩
  case fall =>
    refine ⟨_, exec_pwrGoodFall s, (withPins_blank (powerOn_blank h true) _).says, (withPins_kept (powerOn_kept s true) rfl rfl rfl).says,
      fun f hf => (rd_withPins _ _ _).trans (powerOn_fuses h true hf), rfl, ?_, powerOn_counters h true⟩
    show (s.powerOn true).pwr.rstPorN = s.pwr.rstPorN
    rw [powerOn_pwr]
    rfl
  case low =>
    refine ⟨_, exec_rstPorNLow s, (withPins_blank (powerOn_blank h true) _).says, (withPins_kept (powerOn_kept s true) rfl rfl rfl).says,
      fun f hf => (rd_withPins _ _ _).trans (powerOn_fuses h true hf), rfl, ?_, powerOn_counters h true⟩
    show (s.powerOn true).pwr.pwrGood = s.pwr.pwrGood
    rw [powerOn_pwr]
    rfl
  case aon =>
    exact ⟨_, exec_vddAonLoss s, (withPins_blank (powerOn_blank h false) _).says, (withPins_kept (powerOn_kept s false) rfl rfl rfl).says,
      fun f hf => (rd_withPins _ _ _).trans (powerOn_fuses h false hf), rfl, powerOn_counters h false,
      (rd_withPins _ _ _).trans (powerOn_tamper_lost h)⟩
  case rise =>
    have hpwr := powerOn_pwr s true
    have hboot := boot_booted (s := (s.powerOn true).withPins ((s.powerOn true).pwr.powered m)) board rfl
      ((congrArg PwrSt.rstPorN hpwr).trans hpor) ((congrArg PwrSt.tripped hpwr).trans htrip)
    have hkept : KeptByPowerOn s ((s.powerOn true).withPins ((s.powerOn true).pwr.powered m)) :=
      withPins_kept (powerOn_kept s true) rfl rfl rfl
    exact ⟨_, exec_pwrGoodRise m board s, ((withPins_blank (powerOn_blank h true) _).of_keeps (boot_keeps_work _ board) rfl).says,
      (boot_kept hkept hboot).says, by rw [hboot.pwr]; rfl, by rw [hboot.pwr]; rfl, hboot.booting, hboot.testing, hboot.rom⟩
  case porRise =>
    have hboot := boot_booted (s := s.withPins { s.pwr with rstPorN := true }) board hgood rfl htrip
    have hkeeps := boot_keeps_work (s.withPins { s.pwr with rstPorN := true }) board
    exact ⟨_, exec_rstPorNRise board hpor, by rw [hboot.pwr]; rfl, hboot.booting, hboot.testing, hboot.rom,
      hkeeps.parts.same .jobs rfl, hkeeps.parts.same .streams rfl⟩
  case ready =>
    intro s hreset hboot hfw hplan htest h0 h1 hmode
    exact ⟨_, readyEnds hreset hboot hfw hplan htest h0 h1 hmode, (rd_withPwr _ _ _).trans (rd_wr_same s _ 1 (by decide)), rfl, rfl⟩

end Sys2Proof
end

section
/-! SUPPORT. The hoist: what it latches while it is armed, and what a missed source counts (R674 to R676). -/

set_option Elab.async false

namespace Sys2Proof.Machine

/-! ### An armed hoist -/

/-- ARM, HELD, SOURCE and the valid blocks show the hoist. -/
def State.hoistShown (s : State) (bit valid : Nat) : State :=
  (((({ s with snap := { s.snap with window := s.snapWindow, heldMono := s.time.mono } } : State).wr Reg.SNAP_CTRL_ARM 0).wr
    Reg.SNAP_STATUS_HELD 1).wr Reg.SNAP_STATUS_SOURCE (2 ^ bit)).wr Reg.SNAP_VALID_BLOCKS valid

/-- The clock of the moment is stored. -/
def State.hoistClock (s u : State) : State :=
  (((s.setReg Reg.SNAP_AT_SEC_LO (u.view Reg.TIME_CLK_SEC_LO)).setReg Reg.SNAP_AT_SEC_HI
    (u.view Reg.TIME_CLK_SEC_HI)).setReg Reg.SNAP_AT_NS (u.view Reg.TIME_CLK_NS)).setReg Reg.SNAP_AT_FRAC (u.view Reg.TIME_CLK_FRAC)

/-- The cause is stored and the hoist counted. -/
def State.hoistCause (s : State) (code node : Nat) : State :=
  ((s.wr Reg.SNAP_CAUSE_CODE code).wr Reg.SNAP_CAUSE_ROUTE_NODE node).cnt 0x0E05 0

/-- The blocks that a snapshot holds. -/
def State.snapValid (s : State) : Nat :=
  ((List.range 16).filter (fun b => !(s.held && fastAddr (snapBase b)))).foldl (fun x b => x + 2 ^ b) 0

theorem view_mono (s : State) : s.view Reg.TIME_MONO_LO = BitVec.ofNat 32 s.time.mono ∧
    s.view Reg.TIME_MONO_HI = BitVec.ofNat 32 (s.time.mono / 2 ^ 32) := by
  unfold State.view
  exact ⟨by simp, by simp⟩

theorem hoist_armed {s : State} (harm : s.rd Reg.SNAP_CTRL_ARM = 1) (htick : s.snap.armMono ≠ some s.time.mono) (bit code node : Nat) :
    s.hoist bit code node = ((((s.hoistShown bit s.snapValid).hoistClock s).wr64 Reg.SNAP_AT_MONO_LO Reg.SNAP_AT_MONO_HI
      s.time.mono).hoistCause code node) := by
  obtain ⟨hlo, hhi⟩ := view_mono s
  unfold State.hoist
  rw [if_pos ⟨harm, htick⟩, hlo, hhi]
  rfl

/-- A hoist is latched: it is no longer armed, and its source and moment are held. -/
structure Latched (bit : Nat) (s t : State) : Prop where
  arm : t.rd Reg.SNAP_CTRL_ARM = 0
  held : t.rd Reg.SNAP_STATUS_HELD = 1
  source : t.rd Reg.SNAP_STATUS_SOURCE = 2 ^ bit
  heldMono : t.snap.heldMono = s.time.mono
  mono : t.rd64 Reg.SNAP_AT_MONO_LO Reg.SNAP_AT_MONO_HI = s.time.mono % 2 ^ 64

theorem Latched.says {bit : Nat} {s t : State} (h : Latched bit s t) : t.rd Reg.SNAP_CTRL_ARM = 0 ∧ t.rd Reg.SNAP_STATUS_HELD = 1 ∧
    t.rd Reg.SNAP_STATUS_SOURCE = 2 ^ bit ∧ t.snap.heldMono = s.time.mono ∧
    t.rd64 Reg.SNAP_AT_MONO_LO Reg.SNAP_AT_MONO_HI = s.time.mono % 2 ^ 64 := ⟨h.arm, h.held, h.source, h.heldMono, h.mono⟩

/-- The registers that tell whether a hoist is armed or held. -/
def armReg (a : Nat) : Prop := a = Reg.SNAP_CTRL ∨ a = Reg.SNAP_STATUS

theorem hoistCause_regs (s : State) (code node : Nat) : SameRegs (· ≠ Reg.SNAP_CAUSE) s (s.hoistCause code node) :=
  .cnt (.wr (.wr (.refl s) _ (by simp)) _ (by simp)) _ _ _

theorem hoistClock_regs (s u : State) : SameRegs armReg s (s.hoistClock u) :=
  .setReg (.setReg (.setReg (.setReg (.refl s) _ (by unfold armReg; decide)) _ (by unfold armReg; decide)) _ (by unfold armReg; decide)) _
    (by unfold armReg; decide)

theorem hoist_latched {s : State} (harm : s.rd Reg.SNAP_CTRL_ARM = 1) (htick : s.snap.armMono ≠ some s.time.mono) {bit : Nat}
    (hbit : bit < 4) (code node : Nat) : Latched bit s (s.hoist bit code node) := by
  have hcause := hoistCause_regs (((s.hoistShown bit s.snapValid).hoistClock s).wr64 Reg.SNAP_AT_MONO_LO Reg.SNAP_AT_MONO_HI s.time.mono)
    code node
  have hafter : SameRegs armReg (s.hoistShown bit s.snapValid) (s.hoist bit code node) := by
    rw [hoist_armed harm htick]
    refine .trans (.wr64 (hoistClock_regs _ s) _ (by unfold armReg; decide) (by unfold armReg; decide)) (hcause.mono ?_)
    rintro a (rfl | rfl) <;> decide
  have hsource : 2 ^ bit % 2 ^ 4 = 2 ^ bit := Nat.mod_eq_of_lt (Nat.pow_lt_pow_right (by decide) hbit)
  exact {
    arm := (hafter.rd (.inl rfl)).trans ((rd_wr_reg _ _ _ _ (by decide)).trans ((rd_wr_reg _ _ _ _ (by decide)).trans
      ((rd_wr_reg _ _ _ _ (by decide)).trans (rd_wr_same _ _ 0 (by decide)))))
    held := (hafter.rd (.inr rfl)).trans ((rd_wr_reg _ _ _ _ (by decide)).trans ((rd_wr_other _ _ _ _ (by decide) (by decide)).trans
      (rd_wr_same _ _ 1 (by decide))))
    source := (hafter.rd (.inr rfl)).trans ((rd_wr_reg _ _ _ _ (by decide)).trans ((rd_wr_same _ _ _ (by decide)).trans hsource))
    heldMono := by rw [hoist_armed harm htick]; rfl
    mono := by
      rw [hoist_armed harm htick]
      unfold State.rd64
      rw [hcause.reg _ (by decide), hcause.reg _ (by decide)]
      exact rd64_wr64_same _ _ (by decide) }

/-- Of the state that finds the source nothing but the last edge and LATE may differ from `s`. -/
theorem Latched.from {bit : Nat} {s u t : State} (h : Latched bit u t) (hmono : u.time.mono = s.time.mono) : Latched bit s t :=
  ⟨h.arm, h.held, h.source, by rw [h.heldMono, hmono], by rw [h.mono, hmono]⟩

/-- A wake leaves the snapshot's registers alone. -/
theorem wakeUp_sameRegs (s : State) {P : Nat → Prop} (hstatus : ¬P Reg.PWR_STATUS) (hwakes : ¬P Reg.PWR_WAKES) : SameRegs P s s.wakeUp :=
  ⟨fun a ha => (wakeUp_regs s).reg a fun hmem => by
    rcases List.mem_cons.mp hmem with rfl | hmem
    · exact hstatus ha
    · exact hwakes (List.mem_singleton.mp hmem ▸ ha)⟩

theorem Latched.wakeUp {bit : Nat} {s t : State} (h : Latched bit s t) : Latched bit s t.wakeUp := by
  have hregs : SameRegs (fun a => a / 0x100000 = 0x1F) t t.wakeUp := wakeUp_sameRegs t (by decide) (by decide)
  have hsnap : t.wakeUp.snap = t.snap := (State.wakeUp_keeps (L := 1) t rfl (.refl t)).parts.same .snap rfl
  exact ⟨(hregs.rd (by decide)).trans h.arm, (hregs.rd (by decide)).trans h.held, (hregs.rd (by decide)).trans h.source,
    by rw [hsnap, h.heldMono], by
      have hmono := h.mono
      unfold State.rd64 at hmono ⊢
      rw [hregs.reg _ (by decide), hregs.reg _ (by decide), hmono]⟩

/-! ### A source that nothing is armed for -/

/-- A source is missed: it is counted, and with the device ACTIVE no other register changes. -/
structure Missed (s t : State) : Prop where
  count : t.rd Reg.SNAP_MISSED_COUNT = (s.rd Reg.SNAP_MISSED_COUNT + 1) % 2 ^ 32
  counter : t.counter 0x0E06 0 = (s.counter 0x0E06 0 + 1) % 2 ^ 64
  only : s.rd Reg.PWR_STATUS_STATE = 0 → onlyRegs [Reg.SNAP_MISSED]
    { s with counters := t.counters, snap := { s.snap with lastEdge := t.snap.lastEdge } } t

theorem Missed.says {s t : State} (h : Missed s t) : t.rd Reg.SNAP_MISSED_COUNT = (s.rd Reg.SNAP_MISSED_COUNT + 1) % 2 ^ 32 ∧
    t.counter 0x0E06 0 = (s.counter 0x0E06 0 + 1) % 2 ^ 64 ∧ (s.rd Reg.PWR_STATUS_STATE = 0 → onlyRegs [Reg.SNAP_MISSED]
      { s with counters := t.counters, snap := { s.snap with lastEdge := t.snap.lastEdge } } t) := ⟨h.count, h.counter, h.only⟩

theorem hoist_missed {s : State} (harm : s.rd Reg.SNAP_CTRL_ARM = 0) (hheld : s.rd Reg.SNAP_STATUS_HELD = 0) (bit code node : Nat) :
    s.hoist bit code node = (s.bump Reg.SNAP_MISSED_COUNT).cnt 0x0E06 0 := by
  unfold State.hoist
  rw [if_neg (by rw [harm]; simp), if_neg (by rw [hheld]; simp)]

/-- An edge of SNAP_IN is noted. -/
def State.edgeAt (s : State) (x : Option Nat) : State := { s with snap := { s.snap with lastEdge := x } }

/-- The last edge aside, a missed source moves its counts alone. -/
theorem missed_of_edge (s : State) (x : Option Nat) : Missed s (((s.edgeAt x).bump Reg.SNAP_MISSED_COUNT).cnt 0x0E06 0).wakeUp := by
  have hregs : SameRegs (fun a => a / 0x100000 = 0x1F) (((s.edgeAt x).bump Reg.SNAP_MISSED_COUNT).cnt 0x0E06 0)
      (((s.edgeAt x).bump Reg.SNAP_MISSED_COUNT).cnt 0x0E06 0).wakeUp := wakeUp_sameRegs _ (by decide) (by decide)
  have hcounters : (((s.edgeAt x).bump Reg.SNAP_MISSED_COUNT).cnt 0x0E06 0).wakeUp.counters =
      (((s.edgeAt x).bump Reg.SNAP_MISSED_COUNT).cnt 0x0E06 0).counters :=
    (State.wakeUp_keeps (L := 1) _ rfl (.refl _)).parts.same .counters rfl
  refine ⟨(hregs.rd (by decide)).trans (rd_bump_same (s.edgeAt x) _ 1 (by decide)), ?_, fun hactive => ?_⟩
  · unfold State.counter
    rw [hcounters]
    exact counter_cnt_same (s.edgeAt x) 0x0E06 0 1
  · have hstays : (((s.edgeAt x).bump Reg.SNAP_MISSED_COUNT).cnt 0x0E06 0).wakeUp =
        ((s.edgeAt x).bump Reg.SNAP_MISSED_COUNT).cnt 0x0E06 0 :=
      wakeUp_active ((rd_bump_other (s.edgeAt x) Reg.SNAP_MISSED_COUNT Reg.PWR_STATUS_STATE 1 (by decide) (by decide)).trans hactive)
    rw [hstays]
    exact ⟨rfl, fun a ha => reg_wr_other (s.edgeAt x) _ _ a (by simpa using ha)⟩

/-- A source acts and wakes the device. -/
theorem hoist_wakes {s : State} {bit : Nat} (hbit : bit < 4) :
    (s.rd Reg.SNAP_CTRL_ARM = 1 → s.snap.armMono ≠ some s.time.mono → Latched bit s (s.hoist bit 0 0xFFFF).wakeUp) ∧
    (s.rd Reg.SNAP_CTRL_ARM = 0 → s.rd Reg.SNAP_STATUS_HELD = 0 → Missed s (s.hoist bit 0 0xFFFF).wakeUp) := by
  refine ⟨fun harm htick => (hoist_latched harm htick hbit 0 0xFFFF).wakeUp, fun harm hheld => ?_⟩
  rw [hoist_missed harm hheld]
  exact missed_of_edge s s.snap.lastEdge

/-! ### The sources -/

theorem exec_hoist {s : State} (hreach : reaches s Reg.SNAP_CTRL) : exec .hoist s = .next (s.hoist 0 0 0xFFFF).wakeUp :=
  exec_of_reaches (f := fun s => (s.hoist 0 0 0xFFFF).wakeUp) hreach rfl

theorem exec_snapInEdge {s : State} {rising : Bool} {ago : Nat} (hon : s.rd Reg.SNAP_CTRL_SRC_PIN = 1)
    (hedge : s.rd Reg.SNAP_PIN_CFG_EDGE = 3 ∨ s.rd Reg.SNAP_PIN_CFG_EDGE = (if rising then 1 else 2)) (hpass : s.snapEdgeCounts ago = true) :
    exec (.snapInEdge rising ago) s = .next ((s.edgeAt (some (s.time.mono - ago))).hoist 1 0 0xFFFF).wakeUp := by
  have hsel : (if rising then s.rd Reg.SNAP_PIN_CFG_EDGE == 1 || s.rd Reg.SNAP_PIN_CFG_EDGE == 3
      else s.rd Reg.SNAP_PIN_CFG_EDGE == 2 || s.rd Reg.SNAP_PIN_CFG_EDGE == 3) = true := by
    cases rising <;> simpa [or_comm] using hedge
  exact if_pos ⟨hon, hsel, hpass⟩

theorem exec_snapTimeMatch {s : State} (hon : s.rd Reg.SNAP_CTRL_SRC_TIME = 1) (hdue : s.snapTime ≤ s.time.sec * 10 ^ 9 + s.time.ns) :
    exec .snapTimeMatch s =
      .next ((if s.snapJumped && decide (s.rd Reg.SNAP_CTRL_ARM = 1) then s.wr Reg.SNAP_TIME_CFG_LATE 1 else s).hoist 3 0 0xFFFF).wakeUp :=
  if_pos ⟨hon, hdue⟩

theorem edgeLatches {s : State} {rising : Bool} {ago : Nat} (hon : s.rd Reg.SNAP_CTRL_SRC_PIN = 1)
    (hedge : s.rd Reg.SNAP_PIN_CFG_EDGE = 3 ∨ s.rd Reg.SNAP_PIN_CFG_EDGE = (if rising then 1 else 2)) (hpass : s.snapEdgeCounts ago = true) :
    (s.rd Reg.SNAP_CTRL_ARM = 1 → s.snap.armMono ≠ some s.time.mono → completes (.snapInEdge rising ago) s (Latched 1 s)) ∧
    (s.rd Reg.SNAP_CTRL_ARM = 0 → s.rd Reg.SNAP_STATUS_HELD = 0 → completes (.snapInEdge rising ago) s (Missed s)) := by
  have hexec := exec_snapInEdge hon hedge hpass
  refine ⟨fun harm htick => ⟨_, hexec, ?_⟩, fun harm hheld => ⟨_, hexec, ?_⟩⟩
  · exact (hoist_latched (s := s.edgeAt (some (s.time.mono - ago))) harm htick (by decide) 0 0xFFFF).wakeUp.from rfl
  · rw [hoist_missed (s := s.edgeAt (some (s.time.mono - ago))) harm hheld]
    exact missed_of_edge s _

theorem timeLatches {s : State} (hon : s.rd Reg.SNAP_CTRL_SRC_TIME = 1) (hdue : s.snapTime ≤ s.time.sec * 10 ^ 9 + s.time.ns) :
    (s.rd Reg.SNAP_CTRL_ARM = 1 → s.snap.armMono ≠ some s.time.mono → completes .snapTimeMatch s (Latched 3 s)) ∧
    (s.rd Reg.SNAP_CTRL_ARM = 0 → s.rd Reg.SNAP_STATUS_HELD = 0 → completes .snapTimeMatch s (Missed s)) := by
  refine ⟨fun harm htick => ⟨_, exec_snapTimeMatch hon hdue, ?_⟩, fun harm hheld => ⟨_, exec_snapTimeMatch hon hdue, ?_⟩⟩
  · split
    · refine ((hoist_latched (s := s.wr Reg.SNAP_TIME_CFG_LATE 1) ?_ ?_ (by decide) 0 0xFFFF).wakeUp).from (congrArg Time.mono (State.wr_time _ _ _))
      · exact (rd_wr_reg _ _ _ _ (by decide)).trans harm
      · rw [State.wr_snap, State.wr_time]
        exact htick
    · exact (hoist_wakes (by decide)).1 harm htick
  · rw [harm, if_neg (by simp)]
    exact (hoist_wakes (by decide)).2 harm hheld

/-! ### Arming (R675) -/

/-- HELD, SOURCE and the cause are cleared, and the hoist is armed. -/
def State.armed (s : State) : State :=
  (((s.wr Reg.SNAP_CTRL_ARM 1).wr Reg.SNAP_STATUS_HELD 0).wr Reg.SNAP_STATUS_SOURCE 0).setReg Reg.SNAP_CAUSE 0

/-- The moment of the arming is noted. -/
def State.armAt (s : State) (m : Nat) : State := { s with snap := { s.snap with armMono := some m } }

theorem exec_snapArm {s : State} (hreach : reaches s Reg.SNAP_CTRL) : exec .snapArm s = .next (s.armed.armAt s.time.mono) :=
  exec_of_reaches (f := fun s => s.armed.armAt s.time.mono) hreach rfl

theorem rd_armAt (s : State) (m : Nat) (f : RegField) : (s.armAt m).rd f = s.rd f := by rfl

theorem reg_armAt (s : State) (m a : Nat) : (s.armAt m).reg a = s.reg a := by rfl

theorem window_armAt (s : State) (m : Nat) : (s.armAt m).snap.window = s.snap.window := by rfl

theorem armed_snap (s : State) : s.armed.snap = s.snap := by
  unfold State.armed
  rw [State.setReg_snap, State.wr_snap, State.wr_snap, State.wr_snap]

theorem armed_armed (s : State) : s.armed.rd Reg.SNAP_CTRL_ARM = 1 ∧ s.armed.rd Reg.SNAP_STATUS_HELD = 0 ∧
    s.armed.rd Reg.SNAP_STATUS_SOURCE = 0 ∧ s.armed.reg Reg.SNAP_CAUSE = 0 := by
  unfold State.armed
  refine ⟨?_, ?_, ?_, reg_setReg_same _ _ _⟩
  · rw [rd_setReg_other _ _ _ _ (by decide), rd_wr_reg _ _ _ _ (by decide), rd_wr_reg _ _ _ _ (by decide)]
    exact rd_wr_same s _ 1 (by decide)
  · rw [rd_setReg_other _ _ _ _ (by decide), rd_wr_other _ _ _ _ (by decide) (by decide)]
    exact rd_wr_same _ _ 0 (by decide)
  · rw [rd_setReg_other _ _ _ _ (by decide)]
    exact rd_wr_same _ _ 0 (by decide)

end Sys2Proof.Machine

namespace Sys2Proof
open Machine

/-- Settles O46: an armed source latches, one that nothing is armed for is counted, and arming clears what was held. -/
theorem hoistsLatchWhileArmed : Obligations.HoistsLatchWhileArmed := by
  unfold Obligations.HoistsLatchWhileArmed
  refine ⟨fun s hreach => ?hoist, fun s rising ago => ⟨fun hon hedge hpass => ?edge, fun hoff => ?noEdge⟩,
    fun s => ⟨fun hon hdue => ?time, fun hoff => ?noTime⟩, fun s hreach => ?arm⟩
  case hoist =>
    obtain ⟨hlatched, hmissed⟩ := hoist_wakes (s := s) (bit := 0) (by decide)
    exact ⟨fun harm htick => ⟨_, exec_hoist hreach, (hlatched harm htick).says⟩,
      fun harm hheld => ⟨_, exec_hoist hreach, (hmissed harm hheld).says⟩⟩
  case edge =>
    obtain ⟨hlatched, hmissed⟩ := edgeLatches hon hedge hpass
    refine ⟨fun harm htick => ?_, fun harm hheld => ?_⟩
    · obtain ⟨t, hexec, h⟩ := hlatched harm htick
      exact ⟨t, hexec, h.says⟩
    · obtain ⟨t, hexec, h⟩ := hmissed harm hheld
      exact ⟨t, hexec, h.says⟩
  case noEdge => exact ⟨s, if_neg fun h => absurd (hoff.symm.trans h.1) (by decide), rfl⟩
  case time =>
    obtain ⟨hlatched, hmissed⟩ := timeLatches hon hdue
    refine ⟨fun harm htick => ?_, fun harm hheld => ?_⟩
    · obtain ⟨t, hexec, h⟩ := hlatched harm htick
      exact ⟨t, hexec, h.says⟩
    · obtain ⟨t, hexec, h⟩ := hmissed harm hheld
      exact ⟨t, hexec, h.says⟩
  case noTime => exact ⟨s, if_neg fun h => absurd (hoff.symm.trans h.1) (by decide), rfl⟩
  case arm =>
    obtain ⟨harm, hheld, hsource, hcause⟩ := armed_armed s
    exact ⟨_, exec_snapArm hreach, (rd_armAt _ _ _).trans harm, (rd_armAt _ _ _).trans hheld, (rd_armAt _ _ _).trans hsource,
      (reg_armAt _ _ _).trans hcause, rfl, (window_armAt _ _).trans (by rw [armed_snap])⟩

end Sys2Proof
end

section
/-! SUPPORT. Margin plans: how one falls due, starts, measures and ends (R667 to R672). -/

set_option Elab.async false

namespace Sys2Proof.Machine

/-! ### A plan starts or falls due -/

theorem rd_withHlth (s : State) (x : Hlth) (f : RegField) : ({ s with hlth := x } : State).rd f = s.rd f := by rfl

theorem planSt_of_regs {P : Nat → Prop} {s t : State} (h : SameRegs P s t) (hP : P Reg.HLTH_STATUS) : t.planSt = s.planSt := h.rd hP

theorem planSt_planStart (s : State) : s.planStart.planSt = 2 := by
  unfold State.planStart State.planSt
  exact (rd_withHlth _ _ _).trans ((rd_wr_reg _ _ _ _ (by decide)).trans (rd_wr_same s _ 2 (by decide)))

theorem planNow_planStart (s : State) : s.planStart.rd Reg.HLTH_CTRL_PLAN_NOW = 0 := by
  unfold State.planStart
  exact (rd_withHlth _ _ _).trans (rd_wr_same _ _ 0 (by decide))

theorem measured_planStart (s : State) : s.planStart.hlth.measured = [] := by rfl

theorem planSt_planFalls (s : State) : s.planFalls.planSt = 1 := by
  unfold State.planFalls State.planSt
  exact (rd_withHlth _ _ _).trans (rd_wr_same s _ 1 (by decide))

theorem planDue_planFalls (s : State) : s.planFalls.hlth.planDue = s.time.mono := by rfl

/-- An operation that keeps all but the registers and HLTH's data. -/
theorem Keeps.eq_regs_hlth {s t : State} (h : Keeps 9 s t) : t = { s with regs := t.regs, hlth := t.hlth } := by
  refine eq_of_same_parts (fun p => ?_) h.pending
  have hsame := h.parts.same p
  cases p with
  | regs | hlth => rfl
  | _ => exact hsame rfl

theorem onlyRegs_of_keepsHlth {s t : State} {l : List Nat} (h : Keeps 9 s t) (hregs : SameRegs (· ∉ l) s t) :
    onlyRegs l { s with hlth := t.hlth } t := ⟨h.eq_regs_hlth, hregs.reg⟩

theorem planFalls_regs {P : Nat → Prop} (s : State) (hP : ¬P Reg.HLTH_STATUS) : SameRegs P s s.planFalls := by
  have hwr : SameRegs P s (s.wr Reg.HLTH_STATUS_PLAN 1) := .wr (.refl s) 1 hP
  unfold State.planFalls
  exact hwr.with rfl

/-- A plan that falls due moves HLTH_STATUS alone. -/
theorem planFalls_onlyRegs (s : State) : onlyRegs [Reg.HLTH_STATUS] { s with hlth := s.planFalls.hlth } s.planFalls :=
  onlyRegs_of_keepsHlth (State.planFalls_keeps s rfl (.refl s)) (planFalls_regs s (by simp))

theorem rd_planFalls_power (s : State) : s.planFalls.rd Reg.PWR_STATUS_STATE = s.rd Reg.PWR_STATUS_STATE := by
  unfold State.planFalls
  exact (rd_withHlth _ _ _).trans (rd_wr_reg s _ _ 1 (by decide))

/-- How long to the next plan, in ns. -/
def State.planInterval (s : State) : Nat := max 1 (s.rd Reg.HLTH_PLAN_CFG_INTERVAL_H) * 3600 * 10 ^ 9

/-- How long ago the last plan was. -/
def State.sincePlan (s : State) : Nat := s.time.mono - s.rd64 Reg.HLTH_PLAN_LAST_LO Reg.HLTH_PLAN_LAST_HI

theorem exec_marginPlanDue {s : State} (hidle : s.planSt = 0) (hdue : s.planInterval ≤ s.sincePlan) : exec .marginPlanDue s =
    .next (if s.rd Reg.PWR_STATUS_STATE = 3 then s.wakeUp.planStart else s.planFalls.wakeUp) := if_pos ⟨hidle, hdue⟩

theorem exec_marginPlanDue_early {s : State} (hearly : s.sincePlan < s.planInterval) : exec .marginPlanDue s = .next s :=
  if_neg fun h => absurd h.2 (Nat.not_le.mpr hearly)

theorem planFallsDue {s : State} (hidle : s.planSt = 0) (hdue : s.planInterval ≤ s.sincePlan) : completes .marginPlanDue s fun t =>
    t.planSt = (if s.rd Reg.PWR_STATUS_STATE = 3 then 2 else 1) ∧
    (s.rd Reg.PWR_STATUS_STATE = 0 → t.hlth.planDue = s.time.mono ∧ onlyRegs [Reg.HLTH_STATUS] { s with hlth := t.hlth } t) := by
  refine ⟨_, exec_marginPlanDue hidle hdue, ?_⟩
  by_cases hfurled : s.rd Reg.PWR_STATUS_STATE = 3
  · rw [if_pos hfurled, if_pos hfurled]
    exact ⟨planSt_planStart _, fun hactive => absurd (hactive.symm.trans hfurled) (by decide)⟩
  · have hwake : SameRegs (· = Reg.HLTH_STATUS) s.planFalls s.planFalls.wakeUp := wakeUp_sameRegs _ (by decide) (by decide)
    rw [if_neg hfurled, if_neg hfurled]
    refine ⟨(planSt_of_regs hwake rfl).trans (planSt_planFalls s), fun hactive => ?_⟩
    have hstays : s.planFalls.wakeUp = s.planFalls := wakeUp_active ((rd_planFalls_power s).trans hactive)
    rw [hstays]
    exact ⟨planDue_planFalls s, planFalls_onlyRegs s⟩

theorem exec_idleMoment {s : State} (hdue : s.planSt = 1) (hfree : s.rd Reg.SCHED_STATUS_FREE_CORES = 64) (hready : s.sched.ready = []) :
    exec .idleMoment s = .next s.planStart := if_pos ⟨hdue, hfree, by rw [hready]; rfl⟩

theorem exec_idleMoment_busy {s : State} (hfree : s.rd Reg.SCHED_STATUS_FREE_CORES ≠ 64) : exec .idleMoment s = .next s :=
  if_neg fun h => hfree h.2.1

theorem exec_planForced {s : State} (hdue : s.planSt = 1)
    (hlate : s.hlth.planDue + s.rd Reg.HLTH_PLAN_CFG_DEFER_H * 3600 * 10 ^ 9 ≤ s.time.mono) :
    exec .planForced s = .next (s.planStart.cnt 0x0E03 0) := if_pos ⟨hdue, hlate⟩

theorem counter_planStart (s : State) (id scope : Nat) : s.planStart.counter id scope = s.counter id scope := by
  unfold State.counter
  rw [(State.planStart_keeps (L := 9) s rfl (.refl s)).parts.same .counters rfl]

theorem hlth_cnt (s : State) (id scope n : Nat) : (s.cnt id scope n).hlth = s.hlth := by rfl

/-- A due plan that an idle moment does not reach starts all the same, and is counted. -/
theorem planIsForced {s : State} (hdue : s.planSt = 1)
    (hlate : s.hlth.planDue + s.rd Reg.HLTH_PLAN_CFG_DEFER_H * 3600 * 10 ^ 9 ≤ s.time.mono) :
    completes .planForced s fun t => t.planSt = 2 ∧ t.rd Reg.HLTH_CTRL_PLAN_NOW = 0 ∧ t.hlth.measured = [] ∧
      t.counter 0x0E03 0 = (s.counter 0x0E03 0 + 1) % 2 ^ 64 := by
  refine ⟨_, exec_planForced hdue hlate, (rd_cnt _ _ _ _ _).trans (planSt_planStart s), (rd_cnt _ _ _ _ _).trans (planNow_planStart s), ?_, ?_⟩
  · rw [hlth_cnt]
    exact measured_planStart s
  · rw [counter_cnt_same, counter_planStart]

/-! ### PLAN_NOW (R672) -/

/-- What a write of PLAN_NOW leaves. -/
def State.planAsked (s : State) : State :=
  match s.planSt with
  | 0 => (s.wr Reg.HLTH_CTRL_PLAN_NOW 1).planFalls
  | 2 => (s.wr Reg.HLTH_CTRL_PLAN_NOW 1).wr Reg.HLTH_STATUS_PLAN 3
  | _ => s.wr Reg.HLTH_CTRL_PLAN_NOW 1

theorem exec_planNow {s : State} (hreach : reaches s Reg.HLTH_CTRL) : exec .planNow s = .next s.planAsked := by
  show execPlanNow s = _
  unfold execPlanNow State.planAsked
  rw [bar_of_reaches hreach]
  dsimp only
  split <;> simp_all

/-- PLAN_NOW shows, the plan's state follows, and no other register moves. -/
structure PlanAsked (s t : State) : Prop where
  now : t.rd Reg.HLTH_CTRL_PLAN_NOW = 1
  only : onlyRegs [Reg.HLTH_CTRL, Reg.HLTH_STATUS] { s with hlth := t.hlth } t
  plan : t.planSt = (if s.planSt = 0 then 1 else if s.planSt = 2 then 3 else s.planSt)

theorem planAsked_keeps (s : State) : Keeps 9 s s.planAsked := by
  have hnow : Keeps 9 s (s.wr Reg.HLTH_CTRL_PLAN_NOW 1) := State.wr_keeps _ _ _ rfl (.refl s)
  unfold State.planAsked
  split
  · exact State.planFalls_keeps _ rfl hnow
  · exact State.wr_keeps _ _ _ rfl hnow
  · exact hnow

theorem planAsked_regs (s : State) : SameRegs (· ∉ [Reg.HLTH_CTRL, Reg.HLTH_STATUS]) s s.planAsked := by
  have hnow : SameRegs (· ∉ [Reg.HLTH_CTRL, Reg.HLTH_STATUS]) s (s.wr Reg.HLTH_CTRL_PLAN_NOW 1) := .wr (.refl s) 1 (by simp)
  unfold State.planAsked
  split
  · exact hnow.trans (planFalls_regs _ (by simp))
  · exact .wr hnow _ (by simp)
  · exact hnow

theorem planAsked_asked (s : State) : PlanAsked s s.planAsked := by
  have hnow : (s.wr Reg.HLTH_CTRL_PLAN_NOW 1).rd Reg.HLTH_CTRL_PLAN_NOW = 1 := rd_wr_same s _ 1 (by decide)
  have honly := onlyRegs_of_keepsHlth (planAsked_keeps s) (planAsked_regs s)
  refine ⟨?_, honly, ?_⟩
  · unfold State.planAsked
    split
    · exact ((planFalls_regs (P := (· = Reg.HLTH_CTRL)) _ (by decide)).rd rfl).trans hnow
    · exact (rd_wr_reg _ _ _ _ (by decide)).trans hnow
    · exact hnow
  · unfold State.planAsked
    split
    case h_1 h => exact (planSt_planFalls _).trans (if_pos h).symm
    case h_2 h =>
      rw [h]
      exact rd_wr_same _ _ 3 (by decide)
    case h_3 h0 h2 =>
      rw [if_neg h0, if_neg h2]
      exact rd_wr_reg s _ _ 1 (by decide)

/-! ### An ageing measurement (R667, R668) -/

/-- Counts that cannot be true: one of 0, or a stressed count more than 0.1 % above the fresh one. -/
def badCounts (a b : Nat) : Bool := decide (a = 0 ∨ b = 0 ∨ 1001 * a < 1000 * b)

/-- What a measurement leaves of the monitors. -/
def State.measures (s : State) (m : Nat) (d : Option Int) : State :=
  { s with hlth := { s.hlth with measured := s.hlth.measured ++ [m], monitors := tset (fun _ => none) s.hlth.monitors m d } }

theorem rd_measures (s : State) (m : Nat) (d : Option Int) (f : RegField) : (s.measures m d).rd f = s.rd f := by rfl

theorem monitor_measures (s : State) (m : Nat) (d : Option Int) : tget (fun _ => none) (s.measures m d).hlth.monitors m = d :=
  tget_tset_same _ s.hlth.monitors _ _

theorem exec_measurement_bad {s : State} {m a b : Nat} (hm : m < 48) (hruns : 2 ≤ s.planSt) (hbad : badCounts a b = true) :
    exec (.ageingMeasurementDone m a b) s = .next (((s.measures m none).wr (Reg.HLTH_AGE_MON_VALID m) 0).hlthErr m 0x0E05) := by
  show execAgeingMeasurementDone m a b s = _
  unfold execAgeingMeasurementDone State.measures
  rw [if_pos ⟨hm, hruns⟩]
  exact (if_pos hbad).trans (by rw [show decide (a = 0 ∨ b = 0 ∨ 1001 * a < 1000 * b) = true from hbad]; rfl)

theorem exec_measurement_good {s : State} {m a b : Nat} (hm : m < 48) (hruns : 2 ≤ s.planSt) (hgood : badCounts a b = false) :
    exec (.ageingMeasurementDone m a b) s = .next (((s.measures m (some (degradation a b))).wr (Reg.HLTH_AGE_MON_VALID m) 1).wr
      (Reg.HLTH_AGE_MON_PPM m) (degradation a b % 2 ^ 31).toNat) := by
  show execAgeingMeasurementDone m a b s = _
  unfold execAgeingMeasurementDone State.measures
  rw [if_pos ⟨hm, hruns⟩]
  refine (if_neg ?_).trans ?_
  · exact fun h => absurd (hgood.symm.trans h) (by decide)
  · rw [show decide (a = 0 ∨ b = 0 ∨ 1001 * a < 1000 * b) = false from hgood]
    rfl

theorem monReg_not_fileReg {m : Nat} (hm : m < 48) : ¬fileReg (Reg.HLTH_AGE_MON m) := by
  simp only [fileReg, Reg.HLTH_AGE_MON, Reg.HLTH_ERR, Reg.HLTH_REC_SUMMARY, Reg.HLTH_REC_USED, Reg.HLTH_REC_LOST]
  omega

theorem hlthErr_files (s : State) (m code : Nat) {f : RegField} (hf : ¬fileReg f.addr) : (s.hlthErr m code).rd f = s.rd f :=
  (rd_file_hlth _ _ _ _ _ _ hf).trans (rd_setErr_other s _ _ _ _ f fun h => hf (.inl h))

theorem hlthErr_measured (s : State) (m code : Nat) : (s.hlthErr m code).hlth.measured = s.hlth.measured := by
  have h := err_files s Reg.HLTH_ERR true (0, 0, 0) .hlth m code 0 0
  unfold State.hlthErr
  rw [h]

theorem measurement_bad {s : State} {m a b : Nat} (hm : m < 48) (hruns : 2 ≤ s.planSt) (hbad : badCounts a b = true) :
    completes (.ageingMeasurementDone m a b) s fun t => t.rd (Reg.HLTH_AGE_MON_VALID m) = 0 ∧ m ∈ t.hlth.measured ∧ t.planSt = s.planSt := by
  have hmon : Reg.HLTH_STATUS ≠ Reg.HLTH_AGE_MON m := by simp only [Reg.HLTH_STATUS, Reg.HLTH_AGE_MON]; omega
  refine ⟨_, exec_measurement_bad hm hruns hbad, ?_, ?_, ?_⟩
  · exact (hlthErr_files _ m _ (monReg_not_fileReg hm)).trans (rd_wr_same _ _ 0 (by simp))
  · rw [hlthErr_measured, State.wr_hlth]
    exact List.mem_append_right _ List.mem_cons_self
  · refine (hlthErr_files _ m _ (f := Reg.HLTH_STATUS_PLAN) (by simp only [fileReg]; decide)).trans ?_
    exact (rd_wr_reg _ _ _ _ hmon).trans (rd_measures s m none _)

theorem measurement_good {s : State} {m a b : Nat} (hm : m < 48) (hruns : 2 ≤ s.planSt) (hgood : badCounts a b = false) :
    completes (.ageingMeasurementDone m a b) s fun t => t.rd (Reg.HLTH_AGE_MON_VALID m) = 1 ∧
      t.rd (Reg.HLTH_AGE_MON_PPM m) = (degradation a b % 2 ^ 31).toNat ∧
      t.hlth.measured = s.hlth.measured ++ [m] ∧ tget (fun _ => none) t.hlth.monitors m = some (degradation a b) := by
  have hppm : (degradation a b % 2 ^ 31).toNat < 2 ^ 31 := by
    have hpos := Int.emod_nonneg (degradation a b) (b := 2 ^ 31) (by decide)
    have hlt := Int.emod_lt_of_pos (degradation a b) (b := 2 ^ 31) (by decide)
    omega
  refine ⟨_, exec_measurement_good hm hruns hgood, ?_, (rd_wr_same _ _ _ (by simp)).trans (Nat.mod_eq_of_lt hppm), ?_, ?_⟩
  · exact (rd_wr_part_other _ (Reg.HLTH_AGE_MON m) _ (by decide) (by decide)).trans (rd_wr_same _ _ 1 (by simp))
  · rw [State.wr_hlth, State.wr_hlth]
    rfl
  · rw [State.wr_hlth, State.wr_hlth]
    exact monitor_measures s m _

/-! ### The end of a plan (R669 to R672) -/

/-- The groups are set and the plan's time and count recorded. -/
def State.planSets (s : State) : State :=
  let s1 := (List.range 12).foldl State.planApply s
  ((s1.wr Reg.HLTH_STATUS_WEAR (((List.range 12).map (fun g => s1.rd (Reg.HLTH_GRP_WEAR_WEAR g))).foldl max 0)).wr64
    Reg.HLTH_PLAN_LAST_LO Reg.HLTH_PLAN_LAST_HI s.time.mono).cnt 0x0E02 0

/-- The first plan since boot is done, and re-training is asked for. -/
def State.planMade (s : State) : State := ({ s with pwr := { s.pwr with firstPlan := true } } : State).post .retrain

/-- The MARGIN STAT is written where the service ring is active. -/
def State.planTold (s : State) : State :=
  let m := s.rd Reg.HIF_SVC_PRING_PRING
  if s.rd (Reg.HIF_PRING_STATUS_STATE m) = 1 then
    (statPieces { ty := 0x13, ct := s.now } 0x00E1 0 false s.marginEntries).foldl (fun s p => s.sendTo m p) s
  else s

theorem exec_marginPlanEnd {s : State} (hruns : 2 ≤ s.planSt) (hall : ∀ m, m < 48 → m ∈ s.hlth.measured) :
    exec .marginPlanEnd s = .next (if s.planSt = 3 then s.planSets.planMade.planTold.planStart
      else s.planSets.planMade.planTold.wr Reg.HLTH_STATUS_PLAN 0) := by
  show execMarginPlanEnd s = _
  unfold execMarginPlanEnd
  exact if_pos ⟨hruns, by simpa using hall⟩

theorem firstPlan_planMade (s : State) : s.planMade.pwr.firstPlan = true := by rfl

theorem retrain_planMade (s : State) : Out.retrain ∈ s.planMade.out := List.mem_append_right _ List.mem_cons_self

theorem planTold_keeps (s : State) : Keeps 2 s s.planTold := by
  unfold State.planTold
  exact ite_both (P := Keeps 2 s) (Keeps.foldl (.refl s) fun t p ht => State.sendTo_keeps t _ p rfl ht) (.refl s)

theorem firstPlan_planTold (s : State) : s.planMade.planTold.pwr.firstPlan = true := by
  rw [(planTold_keeps s.planMade).parts.same .pwr rfl]
  exact firstPlan_planMade s

theorem planEnds {s : State} (hall : ∀ m, m < 48 → m ∈ s.hlth.measured) (hruns : s.planSt = 2) :
    completes .marginPlanEnd s fun t => t.planSt = 0 ∧ t.pwr.firstPlan = true ∧ Out.retrain ∈ t.out := by
  refine ⟨_, (exec_marginPlanEnd hruns.ge hall).trans (congrArg _ (if_neg (by omega))), rd_wr_same _ _ 0 (by decide), ?_, ?_⟩
  · rw [State.wr_pwr]
    exact firstPlan_planTold _
  · rw [State.wr_out, (planTold_keeps _).parts.same .out rfl]
    exact retrain_planMade _

theorem planEndsAgain {s : State} (hall : ∀ m, m < 48 → m ∈ s.hlth.measured) (hruns : s.planSt = 3) :
    completes .marginPlanEnd s fun t => t.planSt = 2 ∧ t.hlth.measured = [] ∧ t.pwr.firstPlan = true := by
  refine ⟨_, (exec_marginPlanEnd (by omega) hall).trans (congrArg _ (if_pos hruns)), planSt_planStart _, measured_planStart _, ?_⟩
  rw [(State.planStart_keeps (L := 9) _ rfl (.refl _)).parts.same .pwr rfl]
  exact firstPlan_planTold _

end Sys2Proof.Machine

namespace Sys2Proof
open Machine

/-- Settles O45: a plan falls due, starts at an idle moment or forced, takes its measurements and ends. -/
theorem marginPlansFallDueRunAndEnd : Obligations.MarginPlansFallDueRunAndEnd := by
  unfold Obligations.MarginPlansFallDueRunAndEnd
  refine ⟨fun s hidle => ⟨planFallsDue hidle, fun hearly => ⟨s, exec_marginPlanDue_early hearly, rfl⟩⟩,
    fun s hdue => ⟨fun hfree hready => ?_, fun hbusy => ⟨s, exec_idleMoment_busy hbusy, rfl⟩, planIsForced hdue⟩,
    fun s hreach => ?_, fun s m a b hm hruns => ⟨fun hzero => ?_, fun ha hb hclose => ?_⟩,
    fun s hall => ⟨planEnds hall, planEndsAgain hall⟩⟩
  · exact ⟨_, exec_idleMoment hdue hfree hready, planSt_planStart s, planNow_planStart s, measured_planStart s⟩
  · obtain ⟨hnow, honly, hplan⟩ := planAsked_asked s
    exact ⟨_, exec_planNow hreach, hnow, honly, hplan⟩
  · exact measurement_bad hm hruns (decide_eq_true (hzero.imp_right .inl))
  · exact measurement_good hm hruns (decide_eq_false (by omega))

end Sys2Proof
end

section
/-! SUPPORT. Records that are cleared, and units that are fenced and tested (R657 to R666). -/

set_option Elab.async false

namespace Sys2Proof.Machine

/-! ### The record file -/

/-- The entry of the record file. -/
def State.recAt (s : State) (e : Nat) : Rec := tget (fun _ => ({} : Rec)) s.hlth.recs e

theorem recSummary_regs (s : State) : SameRegs (· ∉ [Reg.HLTH_REC_USED, Reg.HLTH_REC_SUMMARY]) s s.recSummary := by
  unfold State.recSummary
  exact .wr (.wr (.refl s) _ (by simp)) _ (by simp)

theorem recSummary_hlth (s : State) : s.recSummary.hlth = s.hlth :=
  (State.recSummary_keeps (L := 1) s rfl (.refl s)).parts.same .hlth rfl

/-- One entry of the record file becomes empty. -/
def State.recCleared (s : State) (e : Nat) : State :=
  { s with hlth := { s.hlth with recs := tset (fun _ => {}) s.hlth.recs e {}, recFull := false } }

/-- Every entry of the record file becomes empty. -/
def State.recsCleared (s : State) : State := { s with hlth := { s.hlth with recs := [], recFull := false } }

theorem exec_recordEntryClear {s : State} {e : Nat} (h : reaches s (0x1E01000 + 0x20 * e)) :
    exec (.recordEntryClear e) s = .next (s.recCleared e).recSummary := exec_of_reaches (f := fun s => (s.recCleared e).recSummary) h rfl

theorem exec_clearAll {s : State} (h : reaches s Reg.HLTH_CTRL) : exec .clearAll s = .next s.recsCleared.recSummary :=
  exec_of_reaches (f := fun s => s.recsCleared.recSummary) h rfl

theorem recAt_recCleared (s : State) (e k : Nat) : (s.recCleared e).recSummary.recAt k = if k = e then {} else s.recAt k := by
  unfold State.recAt
  rw [recSummary_hlth]
  exact tget_tset (fun _ => ({} : Rec)) s.hlth.recs e k {}

theorem recFull_recCleared (s : State) (e : Nat) : (s.recCleared e).recSummary.hlth.recFull = false := by
  rw [recSummary_hlth]
  rfl

theorem recAt_recsCleared (s : State) (k : Nat) : s.recsCleared.recSummary.recAt k = {} := by
  unfold State.recAt
  rw [recSummary_hlth]
  rfl

theorem recUsed_recsCleared (s : State) : s.recsCleared.recSummary.rd Reg.HLTH_REC_USED_USED = 0 := by
  unfold State.recSummary
  exact (rd_wr_reg _ _ _ _ (by decide)).trans (rd_wr_same _ _ 0 (by decide))

theorem recClasses_recsCleared (s : State) : s.recsCleared.recSummary.rd Reg.HLTH_REC_SUMMARY_CLASSES = 0 := by
  have hempty : s.recsCleared.hlth.recs = [] := rfl
  generalize s.recsCleared = t at hempty ⊢
  unfold State.recSummary
  rw [hempty]
  exact rd_wr_same _ _ 0 (by decide)

theorem recsCleared_own (s : State) : Keeps 9 s s.recsCleared := Keeps.upd (m := 8) rfl (.refl s)

theorem recsCleared_keeps (s : State) : Keeps 9 s s.recsCleared.recSummary :=
  State.recSummary_keeps _ rfl (recsCleared_own s)

theorem recsCleared_onlyRegs (s : State) :
    onlyRegs [Reg.HLTH_REC_USED, Reg.HLTH_REC_SUMMARY] { s with hlth := s.recsCleared.recSummary.hlth } s.recsCleared.recSummary :=
  onlyRegs_of_keepsHlth (recsCleared_keeps s)
    (.trans (t := s.recsCleared) (.of_regs rfl) (recSummary_regs s.recsCleared))

/-! ### The STATE of a unit -/

/-- Where a unit shows its STATE. -/
def unitState (kind unit : Nat) : RegField :=
  match kind with
  | 0 => Reg.CORE_LRW_STATUS_STATE unit
  | 1 => Reg.DEC_STATUS_STATE unit
  | _ => Reg.SGS_STATUS_STATE unit

theorem isFenced_eq (s : State) (kind unit : Nat) : s.isFenced kind unit = (s.rd (unitState kind unit) == 5) := by
  match kind with
  | 0 => rfl
  | 1 => rfl
  | _ + 2 => rfl

theorem isFenced_of_rd {s t : State} {kind unit : Nat} (h : t.rd (unitState kind unit) = s.rd (unitState kind unit)) :
    t.isFenced kind unit = s.isFenced kind unit := by rw [isFenced_eq, isFenced_eq, h]

/-- A unit is a core, an engine or a station. -/
theorem unit_cases {kind unit : Nat} (h : unit < unitCount kind) : kind = 0 ∧ unit < 64 ∨ kind = 1 ∧ unit < 8 ∨ kind = 2 ∧ unit < 4 := by
  unfold unitCount at h
  split_ifs at h <;> omega

theorem unitState_low {kind unit : Nat} (h : unit < unitCount kind) :
    (unitState kind unit).addr < 0x1900000 ∧ (unitState kind unit).addr ≠ Reg.HIF_SVC_LOST := by
  obtain ⟨rfl, hu⟩ | ⟨rfl, hu⟩ | ⟨rfl, hu⟩ := unit_cases h <;>
    simp only [unitState, Reg.CORE_LRW_STATUS, Reg.DEC_STATUS, Reg.SGS_STATUS, Reg.HIF_SVC_LOST] <;> omega

theorem isFenced_of_lowRegs {s t : State} (h : SameLowRegs s t) {kind unit : Nat} (hunit : unit < unitCount kind) :
    t.isFenced kind unit = s.isFenced kind unit :=
  isFenced_of_rd (rd_of_reg (h.reg _ (unitState_low hunit).1 (unitState_low hunit).2))

/-! ### A fenced unit reads FENCED -/

theorem engineSt_setEngineSt (s : State) (e : Nat) {v : Nat} (hv : v < 8) : (s.setEngineSt e v).engineSt e = v := by
  have hdec : (s.wr (Reg.DEC_STATUS_STATE e) v).engineSt e = v :=
    (rd_wr_same s _ v (show 0 + 3 ≤ 32 by decide)).trans (Nat.mod_eq_of_lt hv)
  have hshp : ∀ x, ((s.wr (Reg.DEC_STATUS_STATE e) v).wr (Reg.SHP_STATUS_STATE e) x).engineSt e = v := fun x =>
    (rd_wr_reg _ _ (Reg.DEC_STATUS_STATE e) x (by simp only [Reg.DEC_STATUS, Reg.SHP_STATUS]; omega)).trans hdec
  unfold State.setEngineSt
  exact ite_both (P := fun t : State => t.engineSt e = v) (hshp _) (ite_both (P := fun t : State => t.engineSt e = v) (hshp _)
    (ite_both (P := fun t : State => t.engineSt e = v) (hshp _) hdec))

theorem engineSt_engineNote (s : State) (e k : Nat) : (s.engineNote k).engineSt e = s.engineSt e := by
  have hbeside : ∀ (t : State) (lo w v : Nat), lo + w ≤ 32 → 3 ≤ lo → (t.wr ⟨Reg.DEC_STATUS k, lo, w⟩ v).engineSt e = t.engineSt e :=
    fun t lo w v hw hlo => rd_wr_other t _ (Reg.DEC_STATUS_STATE e) v hw (.inr (.inl (by simpa using hlo)))
  have hcounts : ∀ x y z, (((s.wr (Reg.DEC_RES_PIX_MPIX k) x).wr (Reg.DEC_RES_BITS_MBITS k) y).wr
      (Reg.DEC_STATUS_NSTREAMS k) z).engineSt e = s.engineSt e := fun x y z =>
    (hbeside _ 16 8 z (by decide) (by decide)).trans ((rd_wr_reg _ _ (Reg.DEC_STATUS_STATE e) y
      (by simp only [Reg.DEC_STATUS, Reg.DEC_RES_BITS]; omega)).trans (rd_wr_reg s _ (Reg.DEC_STATUS_STATE e) x
      (by simp only [Reg.DEC_STATUS, Reg.DEC_RES_PIX]; omega)))
  unfold State.engineNote
  exact ite_both (P := fun t : State => t.engineSt e = s.engineSt e) ((hbeside _ 3 1 0 (by decide) (by decide)).trans (hcounts _ _ _))
    (hcounts _ _ _)

theorem engineSt_enginesNote (s : State) (e : Nat) : s.enginesNote.engineSt e = s.engineSt e :=
  List.foldlRecOn (motive := fun t : State => t.engineSt e = s.engineSt e) _ State.engineNote rfl
    fun t ht k _ => (engineSt_engineNote t e k).trans ht

theorem engineSt_beginMoves (s : State) (e k : Nat) : (s.beginMoves k).engineSt e = s.engineSt e := by
  refine List.foldlRecOn (motive := fun t : State => t.engineSt e = s.engineSt e) _ _ rfl fun t ht st hst => ?_
  have hst128 : st < 128 := List.mem_range.mp (List.mem_of_mem_filter hst)
  have hplace : ∀ u : State, (u.placeMove st).engineSt e = u.engineSt e := fun u =>
    rd_of_reg (reg_of_regs ((State.placeMove_keeps (L := 64) u st rfl (.refl u)).parts.same .regs rfl) _)
  exact (hplace _).trans ((rd_wr_reg _ _ (Reg.DEC_STATUS_STATE e) 5
    (by simp only [Reg.DEC_STATUS, Reg.DEC_STRM_STATE]; omega)).trans ht)

theorem fenceEngine_fenced (s : State) (e : Nat) : (s.fenceEngine e).engineSt e = 5 := by
  generalize hv : s.fenceEngine e = v
  unfold State.fenceEngine at hv
  extract_lets g s1 s2 s3 s4 at hv
  have hs4 : s4.engineSt e = 5 :=
    (rd_wr_reg _ _ (Reg.DEC_STATUS_STATE e) _ (by simp only [Reg.DEC_STATUS, Reg.HLTH_FENCE_UNIT]; omega)).trans
      (engineSt_setEngineSt s3 e (by decide))
  rw [← hv, engineSt_enginesNote, engineSt_beginMoves]
  exact hs4

theorem fenceStation_fenced (s : State) (k : Nat) : (s.fenceStation k).stationSt k = 5 := by
  generalize hu : (s.dropOps k [0, 1, 2, 3]).wr (Reg.SGS_STATUS_STATE k) 5 = u
  have hmoves : (u.sgsMoves k).stationSt k = 5 := by
    rw [show (u.sgsMoves k).stationSt k = u.stationSt k from
      rd_of_reg (reg_sgsMoves u k fun st hst => by simp only [Reg.SGS_STATUS, Reg.SGS_STRM_STATE]; omega), ← hu]
    exact stationSt_wr_same _ k (by decide)
  unfold State.fenceStation
  rw [hu, stationSt_stationNote, if_neg (by unfold State.stationUp; rw [hmoves]; decide), hmoves]

/-- Whatever the cause, a unit that is fenced reads FENCED. -/
theorem fenceUnit_fenced (s : State) {kind unit : Nat} (h : unit < unitCount kind) (code : Nat) (own : Bool) :
    (s.fenceUnit kind unit code own).isFenced kind unit = true := by
  unfold State.fenceUnit
  by_cases hfenced : s.isFenced kind unit = true
  · rw [if_pos hfenced]
    exact hfenced
  · rw [if_neg hfenced]
    have hfiled : ∀ t : State, (t.fenceFiled kind unit code own).isFenced kind unit = t.isFenced kind unit := fun t =>
      isFenced_of_lowRegs (fenceFiled_lowRegs t kind unit code own) h
    obtain ⟨rfl, hunit⟩ | ⟨rfl, hunit⟩ | ⟨rfl, hunit⟩ := unit_cases h
    · exact (hfiled _).trans (beq_of_eq (fenceCore_fenced s hunit).state)
    · exact (hfiled _).trans (beq_of_eq (fenceEngine_fenced s unit))
    · exact (hfiled _).trans (beq_of_eq ((stationSt_wr_other _ _ (by
        simp only [Reg.SGS_STATUS, Reg.HLTH_FENCE_UNIT]; omega)).trans (fenceStation_fenced s unit)))

/-! ### A unit returns from FENCED -/

theorem unfence_core (s : State) {c : Nat} (hc : c < 64) : ((s.unfence 0 c).coreState c == 5) = false := by
  generalize hu : (s.wr (Reg.CORE_LRW_STATUS_STATE c) 0).fenceNote = u
  have hstate : u.coreState c = 0 := by
    rw [← hu, coreState_of_lowRegs (fenceNote_lowRegs _) hc]
    exact coreState_wr_same s c (by decide)
  show ((((s.wr (Reg.CORE_LRW_STATUS_STATE c) 0).fenceNote).note c).coreState c == 5) = false
  rw [hu, coreState_note, hstate]
  cases (u.core c).runs.isEmpty <;> rfl

theorem unfence_engine (s : State) (e : Nat) : ((s.unfence 1 e).engineSt e == 5) = false := by
  generalize hu : (s.wr Reg.HLTH_FENCE_UNIT_DEC (s.rd Reg.HLTH_FENCE_UNIT_DEC &&& (255 ^^^ 2 ^ e))).setEngineSt e 0 = u
  have hstate : u.engineSt e = 0 := by rw [← hu]; exact engineSt_setEngineSt _ e (by decide)
  have hplace : u.placeWaiting.engineSt e = u.engineSt e :=
    rd_of_reg (reg_of_regs ((State.placeWaiting_keeps (L := 64) u rfl (.refl u)).parts.same .regs rfl) _)
  show (((((s.wr Reg.HLTH_FENCE_UNIT_DEC (s.rd Reg.HLTH_FENCE_UNIT_DEC &&& (255 ^^^ 2 ^ e))).setEngineSt e 0).placeWaiting).enginesNote).engineSt
    e == 5) = false
  rw [hu, engineSt_enginesNote, hplace, hstate]
  rfl

theorem unfence_station (s : State) (k : Nat) : ((s.unfence 2 k).stationSt k == 5) = false := by
  generalize hu : ((s.wr Reg.HLTH_FENCE_UNIT_SGS (s.rd Reg.HLTH_FENCE_UNIT_SGS &&& (15 ^^^ 2 ^ k))).wr (Reg.SGS_STATUS_STATE k) 0) = u
  have hstate : u.sgsRetarget.stationSt k = 0 := by
    rw [show u.sgsRetarget.stationSt k = u.stationSt k from rd_of_reg (reg_sgsRetarget u _), ← hu]
    exact stationSt_wr_same _ k (by decide)
  show ((((((s.wr Reg.HLTH_FENCE_UNIT_SGS (s.rd Reg.HLTH_FENCE_UNIT_SGS &&& (15 ^^^ 2 ^ k))).wr
    (Reg.SGS_STATUS_STATE k) 0).sgsRetarget).stationNote k).stationSt k) == 5) = false
  rw [hu, stationSt_stationNote, hstate]
  split
  · split <;> rfl
  · rfl

theorem unfence_unfenced (s : State) {kind unit : Nat} (h : unit < unitCount kind) : (s.unfence kind unit).isFenced kind unit = false := by
  obtain ⟨rfl, hunit⟩ | ⟨rfl, -⟩ | ⟨rfl, -⟩ := unit_cases h
  · exact unfence_core s hunit
  · exact unfence_engine s unit
  · exact unfence_station s unit

/-! ### Hangs, UNFENCE and self-tests -/

theorem exec_hangDetection {s : State} {kind unit : Nat} (hus : s.rd Reg.HLTH_HANG_HANG_US ≠ 0) (hwork : s.hasWork kind unit = true) :
    exec (.hangDetection kind unit) s = .next (((s.cnt 0x0E01 0).hlthErr unit 0x0E02).fenceUnit kind unit 0x0E02 false) :=
  if_pos ⟨hus, hwork⟩

theorem exec_hangDetection_off {s : State} {kind unit : Nat} (hus : s.rd Reg.HLTH_HANG_HANG_US = 0) :
    exec (.hangDetection kind unit) s = .next s := if_neg fun h => h.1 hus

/-- The units under test. -/
def State.withTesting (s : State) (l : List UnitId) : State := { s with hlth := { s.hlth with testing := l } }

theorem isFenced_withTesting (s : State) (l : List UnitId) (kind unit : Nat) : (s.withTesting l).isFenced kind unit = s.isFenced kind unit :=
  isFenced_of_rd rfl

/-- UNFENCE of a unit that is FENCED starts its self-test, unless it runs already. -/
def State.unfenced (s : State) (w : BitVec 32) : State :=
  let u : UnitId := { kind := bitsOf w.toNat 8 2, unit := bitsOf w.toNat 0 6 }
  if u.unit < unitCount u.kind ∧ s.isFenced u.kind u.unit = true ∧ s.hlth.testing.contains u = false then s.withTesting (s.hlth.testing ++ [u])
  else s

theorem exec_hlthUnfence {s : State} {w : BitVec 32} (h : reaches s Reg.HLTH_UNFENCE) : exec (.hlthUnfence w) s = .next (s.unfenced w) := by
  show execHlthUnfence w s = _
  unfold execHlthUnfence State.unfenced
  rw [bar_of_reaches h]
  exact (apply_ite Host.Outcome.next _ _ _).symm

/-- A self-test that failed, on a unit in service or under test after a fence. -/
def State.testFailed (s : State) (kind unit n : Nat) : State :=
  if s.isFenced kind unit then s.testFails kind unit n else (s.testFails kind unit n).fenceUnit kind unit 0x0E03 true

/-- A self-test that passed. -/
def State.testPassed (s : State) (kind unit : Nat) : State := if s.isFenced kind unit then s.unfence kind unit else s

section
variable {s : State} {kind unit : Nat}

theorem exec_selfTestDone_failed {n : Nat} (htest : ({ kind := kind, unit := unit } : UnitId) ∈ s.hlth.testing) (hn : n ≠ 0) :
    exec (.selfTestDone kind unit n) s =
      .next ((s.withTesting (s.hlth.testing.erase { kind := kind, unit := unit })).testFailed kind unit n) := by
  show execSelfTestDone kind unit n s = _
  unfold execSelfTestDone
  refine (if_pos (List.contains_iff_mem.mpr htest)).trans ((if_neg fun h => hn h.1).trans ?_)
  rfl

theorem exec_selfTestDone_passed (htest : ({ kind := kind, unit := unit } : UnitId) ∈ s.hlth.testing)
    (hgroup : kind = 0 → s.rd (Reg.HLTH_GRP_SET_EXHAUSTED (unit / 8)) = 0) :
    exec (.selfTestDone kind unit 0) s =
      .next ((s.withTesting (s.hlth.testing.erase { kind := kind, unit := unit })).testPassed kind unit) := by
  have hworn : ¬(kind = 0 ∧ s.rd (Reg.HLTH_GRP_SET_EXHAUSTED (unit / 8)) = 1) := fun h => absurd (h.2.symm.trans (hgroup h.1)) (by decide)
  show execSelfTestDone kind unit 0 s = _
  unfold execSelfTestDone
  refine (if_pos (List.contains_iff_mem.mpr htest)).trans ((if_pos ⟨rfl, decide_eq_false hworn⟩).trans ?_)
  rfl

theorem testFails_lowRegs (s : State) (kind unit n : Nat) : SameLowRegs s (s.testFails kind unit n) :=
  (hlthErr_lowRegs s _ _ _ _).devError _ _ _

theorem testFailed_fenced (s : State) (h : unit < unitCount kind) (n : Nat) : (s.testFailed kind unit n).isFenced kind unit = true := by
  unfold State.testFailed
  by_cases hfenced : s.isFenced kind unit = true
  · rw [if_pos hfenced]
    exact (isFenced_of_lowRegs (testFails_lowRegs s kind unit n) h).trans hfenced
  · rw [if_neg hfenced]
    exact fenceUnit_fenced _ h _ _

end

end Sys2Proof.Machine

namespace Sys2Proof
open Machine

/-- Settles O44: records are cleared one by one or all at once, a hang fences, and a self-test unfences or fences. -/
theorem recordsFencesAndSelfTests : Obligations.RecordsFencesAndSelfTests := by
  unfold Obligations.RecordsFencesAndSelfTests
  refine ⟨fun s e _ hreach => ?_, fun s hreach => ?_, fun s kind unit hunit => ⟨fun hoff => ?_, fun hus hwork => ?_⟩,
    fun s w kind unit hreach hkind hunit hcount => ⟨fun hup => ?_, fun hfenced => ?_⟩,
    fun s kind unit hunit htest hgroup => ⟨fun hfenced => ?_, fun hup => ?_, fun n hn => ?_⟩⟩
  · refine ⟨_, exec_recordEntryClear hreach, (recAt_recCleared s e e).trans (if_pos rfl), fun k hk => ?_, recFull_recCleared s e⟩
    exact (recAt_recCleared s e k).trans (if_neg hk)
  · exact ⟨_, exec_clearAll hreach, recAt_recsCleared s, recUsed_recsCleared s, recClasses_recsCleared s, recsCleared_onlyRegs s⟩
  · exact ⟨s, exec_hangDetection_off hoff, rfl⟩
  · exact ⟨_, exec_hangDetection hus hwork, fenceUnit_fenced _ hunit _ _⟩
  · refine ⟨_, exec_hlthUnfence hreach, if_neg fun h => ?_⟩
    rw [← hkind, ← hunit, hup] at h
    exact absurd h.2.1 (by decide)
  · refine ⟨_, exec_hlthUnfence hreach, ?_⟩
    unfold State.unfenced
    dsimp only
    rw [← hkind, ← hunit]
    by_cases htest : s.hlth.testing.contains { kind := kind, unit := unit } = false
    · rw [if_pos ⟨hcount, hfenced, htest⟩]
      exact ⟨List.mem_append_right _ List.mem_cons_self, rfl⟩
    · rw [if_neg fun h => htest h.2.2]
      exact ⟨List.contains_iff_mem.mp (by simpa using htest), rfl⟩
  · refine ⟨_, exec_selfTestDone_passed htest hgroup, ?_⟩
    unfold State.testPassed
    rw [isFenced_withTesting, if_pos hfenced]
    exact unfence_unfenced _ hunit
  · refine ⟨_, exec_selfTestDone_passed htest hgroup, ?_⟩
    unfold State.testPassed
    rw [isFenced_withTesting, if_neg (by rw [hup]; decide)]
    rfl
  · exact ⟨_, exec_selfTestDone_failed htest hn, testFailed_fenced _ hunit n⟩

end Sys2Proof
end

section
/-! SUPPORT. Ranks of HBM that are retired, and the moves that retirement starts (R601, R614 to R620). -/

set_option Elab.async false

namespace Sys2Proof.Machine

/-! ### The registers of the HBM controller -/

/-- A register of the HBM controller other than its error record. -/
def isHbm (a : Nat) : Prop := a / 0x100000 = 0x1B ∧ a ≠ Reg.HBM_ERR

theorem isHbm_paged (a : Nat) (h : isHbm a) : a / 0x100000 ≠ 0x1E ∧ a / 0x100000 ≠ 0x1F := by
  obtain ⟨hpage, -⟩ := h
  omega

theorem isHbm_rank {r : Nat} (h : r < 6) : isHbm (Reg.HBM_RNK_STATE r) := by
  simp only [isHbm, Reg.HBM_RNK_STATE, Reg.HBM_ERR]
  omega

theorem isHbm_ctrl {r : Nat} (h : r < 6) : isHbm (Reg.HBM_RNK_CTRL r) := by
  simp only [isHbm, Reg.HBM_RNK_CTRL, Reg.HBM_ERR]
  omega

theorem hbmErr_regs (s : State) (wh code d0 d1 : Nat) : SameRegs isHbm s (s.hbmErr wh code d0 d1) :=
  .of_records (hbmErr_records s wh code d0 d1) isHbm_paged (by simp [isHbm])

/-- An error of HBM is recorded and told with an ERROR pennant. -/
def State.hbmTold (s : State) (wh code d0 d1 : Nat) : State := (s.hbmErr wh code d0 d1).devError code d0 d1

theorem hbmTold_regs (s : State) (wh code d0 d1 : Nat) : SameRegs isHbm s (s.hbmTold wh code d0 d1) :=
  .devError (hbmErr_regs s wh code d0 d1) _ _ _ _ _ (by simp only [isHbm]; decide)

theorem hbmTold_hbm (s : State) (wh code d0 d1 : Nat) : (s.hbmTold wh code d0 d1).hbm = s.hbm := by
  unfold State.hbmTold
  rw [devError_hbm]
  exact (hbmErr_records s wh code d0 d1).hbm

/-! ### HBM_STATUS follows the ranks -/

theorem hbmNote_regs (s : State) : SameRegs (· ≠ Reg.HBM_STATUS) s s.hbmNote := by
  unfold State.hbmNote
  exact .wr (.wr (.wr (.refl s) _ (by simp)) _ (by simp)) _ (by simp)

theorem hbmNote_hbm (s : State) : s.hbmNote.hbm = s.hbm := (State.hbmNote_keeps (L := 1) s rfl (.refl s)).parts.same .hbm rfl

theorem rankState_hbmNote (s : State) (r : Nat) : s.hbmNote.rankState r = s.rankState r :=
  (hbmNote_regs s).rd (by simp only [Reg.HBM_RNK_STATE, Reg.HBM_STATUS]; omega)

theorem rankField_hbmNote (s : State) (r lo w : Nat) : s.hbmNote.rd ⟨Reg.HBM_RNK_STATE r, lo, w⟩ = s.rd ⟨Reg.HBM_RNK_STATE r, lo, w⟩ :=
  (hbmNote_regs s).rd (by simp only [Reg.HBM_RNK_STATE, Reg.HBM_STATUS]; omega)

theorem retired_hbmNote (s : State) : s.hbmNote.rd Reg.HBM_STATUS_RETIRED = s.hbm.retired.length % 4 := by
  unfold State.hbmNote
  exact (rd_wr_part_other _ _ _ (by decide) (by decide)).trans ((rd_wr_part_other _ _ _ (by decide) (by decide)).trans
    (rd_wr_same s _ _ (by decide)))

theorem spareAvail_hbmNote (s : State) : s.hbmNote.rd Reg.HBM_STATUS_SPARE_AVAIL = if s.hbm.retired.isEmpty then 1 else 0 := by
  unfold State.hbmNote
  refine (rd_wr_part_other _ _ _ (by decide) (by decide)).trans ((rd_wr_same _ _ _ (by decide)).trans (Nat.mod_eq_of_lt ?_))
  split <;> decide

theorem usable_hbmNote (s : State) : s.hbmNote.rd Reg.HBM_STATUS_USABLE_GIB = s.rd Reg.HBM_STATUS_USABLE_GIB := by
  unfold State.hbmNote
  exact (rd_wr_part_other _ _ _ (by decide) (by decide)).trans ((rd_wr_part_other _ _ _ (by decide) (by decide)).trans
    (rd_wr_part_other s _ _ (by decide) (by decide)))

/-- A rank migrates or drains. -/
def State.rankMoves (s : State) : Bool := (List.range 6).any fun r => s.rankState r == 2 || s.rankState r == 4

theorem migrating_hbmNote (s : State) : s.hbmNote.rd Reg.HBM_STATUS_MIGRATING = if s.rankMoves then 1 else 0 := by
  unfold State.hbmNote
  refine (rd_wr_same _ _ _ (by decide)).trans (Nat.mod_eq_of_lt ?_)
  show (if s.rankMoves = true then 1 else 0) < 2 ^ 1
  split <;> decide

theorem rankMoves_iff (s : State) : s.rankMoves = true ↔ ∃ r, r < 6 ∧ (s.rankState r = 2 ∨ s.rankState r = 4) := by
  simp [State.rankMoves]

/-! ### The STATE of a rank -/

theorem rankState_wr (s : State) (r k : Nat) {v : Nat} (hv : v < 8) :
    (s.wr (Reg.HBM_RNK_STATE_STATE r) v).rankState k = if k = r then v else s.rankState k := by
  by_cases hk : k = r
  · rw [if_pos hk, hk]
    exact (rd_wr_same s _ v (show 0 + 3 ≤ 32 by decide)).trans (Nat.mod_eq_of_lt hv)
  · rw [if_neg hk]
    exact rd_wr_reg s _ _ v (by simp only [Reg.HBM_RNK_STATE]; omega)

theorem rankState_wr_target (s : State) (r v k : Nat) : (s.wr (Reg.HBM_RNK_STATE_TARGET r) v).rankState k = s.rankState k :=
  rd_wr_other s _ (Reg.HBM_RNK_STATE_STATE k) v (show 8 + 3 ≤ 32 by decide) (.inr (.inl (show 0 + 3 ≤ 8 by decide)))

theorem rankState_wr_cause (s : State) (r v k : Nat) : (s.wr (Reg.HBM_RNK_STATE_CAUSE r) v).rankState k = s.rankState k :=
  rd_wr_other s _ (Reg.HBM_RNK_STATE_STATE k) v (show 12 + 4 ≤ 32 by decide) (.inr (.inl (show 0 + 3 ≤ 12 by decide)))

theorem target_wr_state (s : State) (r v k : Nat) :
    (s.wr (Reg.HBM_RNK_STATE_STATE r) v).rd (Reg.HBM_RNK_STATE_TARGET k) = s.rd (Reg.HBM_RNK_STATE_TARGET k) :=
  rd_wr_other s _ (Reg.HBM_RNK_STATE_TARGET k) v (show 0 + 3 ≤ 32 by decide) (.inr (.inr (show 0 + 3 ≤ 8 by decide)))

theorem target_wr_cause (s : State) (r v k : Nat) :
    (s.wr (Reg.HBM_RNK_STATE_CAUSE r) v).rd (Reg.HBM_RNK_STATE_TARGET k) = s.rd (Reg.HBM_RNK_STATE_TARGET k) :=
  rd_wr_other s _ (Reg.HBM_RNK_STATE_TARGET k) v (show 12 + 4 ≤ 32 by decide) (.inr (.inl (show 8 + 3 ≤ 12 by decide)))

theorem cause_wr_state (s : State) (r v k : Nat) :
    (s.wr (Reg.HBM_RNK_STATE_STATE r) v).rd (Reg.HBM_RNK_STATE_CAUSE k) = s.rd (Reg.HBM_RNK_STATE_CAUSE k) :=
  rd_wr_other s _ (Reg.HBM_RNK_STATE_CAUSE k) v (show 0 + 3 ≤ 32 by decide) (.inr (.inr (show 0 + 3 ≤ 12 by decide)))

theorem cause_wr_target (s : State) (r v k : Nat) :
    (s.wr (Reg.HBM_RNK_STATE_TARGET r) v).rd (Reg.HBM_RNK_STATE_CAUSE k) = s.rd (Reg.HBM_RNK_STATE_CAUSE k) :=
  rd_wr_other s _ (Reg.HBM_RNK_STATE_CAUSE k) v (show 8 + 3 ≤ 32 by decide) (.inr (.inr (show 8 + 3 ≤ 12 by decide)))

theorem wr_rank_regs (s : State) (r lo w v : Nat) :
    SameRegs (fun a => a = Reg.HBM_STATUS ∨ ∃ k, a = Reg.HBM_RNK_CTRL k) s (s.wr ⟨Reg.HBM_RNK_STATE r, lo, w⟩ v) := by
  refine .wr (.refl s) v ?_
  rintro (h | ⟨k, h⟩)
  · simp only [Reg.HBM_RNK_STATE, Reg.HBM_STATUS] at h; omega
  · simp only [Reg.HBM_RNK_STATE, Reg.HBM_RNK_CTRL] at h; omega

/-! ### What every retirement begins with -/

/-- The conditions of the rank are no longer pending. -/
def State.taken (s : State) (r : Nat) : State :=
  { s with hbm := { s.hbm with ueRanks := s.hbm.ueRanks.filter (fun k => k != r), parity := tset (fun _ => 0) s.hbm.parity r 0 } }

/-- RETIRE of the rank is clear. -/
def State.retiring (s : State) (r : Nat) : State := (s.taken r).wr (Reg.HBM_RNK_CTRL_RETIRE r) 0

theorem retiring_hbm (s : State) (r : Nat) : (s.retiring r).hbm = (s.taken r).hbm :=
  (State.wr_keeps (L := 1) (s.taken r) _ _ rfl (.refl _)).parts.same .hbm rfl

theorem retiring_retire (s : State) (r : Nat) : (s.retiring r).rd (Reg.HBM_RNK_CTRL_RETIRE r) = 0 := rd_wr_same _ _ 0 (show 0 + 1 ≤ 32 by decide)

theorem retiring_regs (s : State) (r : Nat) : SameRegs (· ≠ Reg.HBM_RNK_CTRL r) s (s.retiring r) :=
  .trans (t := s.taken r) (.of_regs rfl) (.wr (.refl _) 0 (by simp))

/-- The rank joins those retired. -/
def State.addRetired (s : State) (r : Nat) : State := { s with hbm := { s.hbm with retired := s.hbm.retired ++ [r] } }

/-- The retirement is told, its cause shown, and the rank counted. -/
def State.rankCounted (s : State) (r cause : Nat) : State :=
  (((s.retiring r).hbmTold r 0x0B03 r cause).wr (Reg.HBM_RNK_STATE_CAUSE r) cause).addRetired r

theorem retireNow_exhausted {s : State} {r cause : Nat} (h : 2 ≤ s.hbm.retired.length) :
    s.retireNow r cause = (s.retiring r).hbmTold r 0x0B07 r cause := by
  have hcount : 2 ≤ (s.retiring r).hbm.retired.length := by rw [retiring_hbm]; exact h
  exact if_pos hcount

theorem retireNow_counts {s : State} {r cause : Nat} (h : s.hbm.retired.length < 2) : s.retireNow r cause = (s.retiring r).retireRank r cause := by
  have hcount : ¬2 ≤ (s.retiring r).hbm.retired.length := by rw [retiring_hbm]; exact Nat.not_le.mpr h
  exact if_neg hcount

theorem rankState_retiring (s : State) (r k : Nat) : (s.retiring r).rankState k = s.rankState k :=
  (retiring_regs s r).rd (by simp only [Reg.HBM_RNK_STATE, Reg.HBM_RNK_CTRL]; omega)

/-- What a state that has counted a retirement shows of it. -/
structure Counted (s u : State) (r cause : Nat) : Prop where
  state : ∀ k, k < 6 → u.rankState k = s.rankState k
  target : ∀ k, k < 6 → u.rd (Reg.HBM_RNK_STATE_TARGET k) = s.rd (Reg.HBM_RNK_STATE_TARGET k)
  cause : u.rd (Reg.HBM_RNK_STATE_CAUSE r) = cause
  retire : u.rd (Reg.HBM_RNK_CTRL_RETIRE r) = 0
  usable : u.rd Reg.HBM_STATUS_USABLE_GIB = s.rd Reg.HBM_STATUS_USABLE_GIB
  retired : u.hbm.retired = s.hbm.retired ++ [r]
  moved : u.hbm.frames = s.hbm.frames ∧ u.hbm.slots = s.hbm.slots ∧ u.hbm.copying = s.hbm.copying

theorem rd_addRetired (s : State) (r : Nat) (f : RegField) : (s.addRetired r).rd f = s.rd f := by rfl

theorem rankState_addRetired (s : State) (r k : Nat) : (s.addRetired r).rankState k = s.rankState k := by rfl

theorem hbm_addRetired (s : State) (r : Nat) : (s.addRetired r).hbm = { s.hbm with retired := s.hbm.retired ++ [r] } := by rfl

theorem counted_counts (s : State) {r cause : Nat} (hr : r < 6) (hcause : cause < 16) : Counted s (s.rankCounted r cause) r cause := by
  have htold := hbmTold_regs (s.retiring r) r 0x0B03 r cause
  have hbm : (s.rankCounted r cause).hbm = { (s.taken r).hbm with retired := s.hbm.retired ++ [r] } := by
    unfold State.rankCounted
    rw [hbm_addRetired, State.wr_hbm, hbmTold_hbm, retiring_hbm]
    rfl
  unfold State.rankCounted at hbm ⊢
  generalize ((s.retiring r).hbmTold r 0x0B03 r cause) = v at htold hbm ⊢
  refine ⟨fun k hk => ?_, fun k hk => ?_, ?_, ?_, ?_, by rw [hbm], by rw [hbm]; exact ⟨rfl, rfl, rfl⟩⟩
  · rw [rankState_addRetired, rankState_wr_cause]
    exact (htold.rd (isHbm_rank hk)).trans (rankState_retiring s r k)
  · rw [rd_addRetired, target_wr_cause]
    exact (htold.rd (isHbm_rank hk)).trans ((retiring_regs s r).rd (by simp only [Reg.HBM_RNK_STATE, Reg.HBM_RNK_CTRL]; omega))
  · rw [rd_addRetired]
    exact (rd_wr_same _ _ _ (show 12 + 4 ≤ 32 by decide)).trans (Nat.mod_eq_of_lt hcause)
  · rw [rd_addRetired, (wr_rank_regs v r 12 4 cause).rd (.inr ⟨r, rfl⟩)]
    exact (htold.rd (isHbm_ctrl hr)).trans (retiring_retire s r)
  · rw [rd_addRetired, (wr_rank_regs v r 12 4 cause).rd (.inl rfl)]
    refine (htold.rd (f := Reg.HBM_STATUS_USABLE_GIB) ?_).trans ((retiring_regs s r).rd (by simp only [Reg.HBM_STATUS, Reg.HBM_RNK_CTRL]; omega))
    simp only [isHbm]
    decide

/-! ### The three ways in which a rank retires -/

/-- The spare retires with no copy (R618). -/
def State.spareRetires (u : State) (r : Nat) : State := (u.wr (Reg.HBM_RNK_STATE_STATE r) 3).hbmNote

/-- The first retirement: the rank moves to the spare (R616). -/
def State.migrates (u : State) (r : Nat) : State :=
  (((((u.wr (Reg.HBM_RNK_STATE_STATE r) 2).wr (Reg.HBM_RNK_STATE_TARGET r) 5).wr (Reg.HBM_RNK_STATE_STATE 5) 0).moveFree r).setMove r true).hbmNote

/-- The second retirement: the rank drains, and half of HBM stays (R619). -/
def State.rankDrains (u : State) (r : Nat) : State :=
  (((((u.wr (Reg.HBM_RNK_STATE_STATE r) 4).wr Reg.HBM_STATUS_USABLE_GIB 32).withdrawTop).setMove r true).hbmTold r 0x0B06 r 32).hbmNote

/-- What a retirement tells and counts, whichever way the rank takes. -/
def State.retireTold (s : State) (r cause : Nat) : State := ((s.hbmTold r 0x0B03 r cause).wr (Reg.HBM_RNK_STATE_CAUSE r) cause).addRetired r

section
variable {s : State} {r cause : Nat}

theorem retireRank_spare (hspare : s.rankState r = 1) : s.retireRank r cause = (s.retireTold r cause).spareRetires r := by
  unfold State.retireRank
  exact if_pos hspare

theorem retireRank_migrates (hactive : s.rankState r = 0) (hfirst : s.hbm.retired.isEmpty = true) :
    s.retireRank r cause = (s.retireTold r cause).migrates r := by
  unfold State.retireRank
  exact (if_neg (by rw [hactive]; decide)).trans (if_pos hfirst)

theorem retireRank_drains (hactive : s.rankState r = 0) (hsecond : s.hbm.retired.isEmpty = false) :
    s.retireRank r cause = (s.retireTold r cause).rankDrains r := by
  unfold State.retireRank
  exact (if_neg (by rw [hactive]; decide)).trans (if_neg (by rw [hsecond]; decide))

theorem retired_retiring (s : State) (r : Nat) : (s.retiring r).hbm.retired = s.hbm.retired := by
  rw [retiring_hbm]
  rfl

theorem retireNow_spare (hspare : s.rankState r = 1) (hfirst : s.hbm.retired.length < 2) :
    s.retireNow r cause = (s.rankCounted r cause).spareRetires r := by
  rw [retireNow_counts hfirst]
  exact retireRank_spare ((rankState_retiring s r r).trans hspare)

theorem retireNow_migrates (hactive : s.rankState r = 0) (hfirst : s.hbm.retired = []) :
    s.retireNow r cause = (s.rankCounted r cause).migrates r := by
  rw [retireNow_counts (by simp [hfirst])]
  exact retireRank_migrates ((rankState_retiring s r r).trans hactive) (by rw [retired_retiring, hfirst]; rfl)

theorem retireNow_drains (hactive : s.rankState r = 0) (hsecond : s.hbm.retired.length = 1) :
    s.retireNow r cause = (s.rankCounted r cause).rankDrains r := by
  rw [retireNow_counts (by omega)]
  refine retireRank_drains ((rankState_retiring s r r).trans hactive) ?_
  rw [retired_retiring]
  exact List.isEmpty_eq_false_iff.mpr (List.ne_nil_of_length_eq_add_one hsecond)

end

/-! ### RANK_RETIRE -/

theorem dueCause_lt (s : State) (r : Nat) : (s.dueCause r).getD 4 < 16 := by
  cases h : s.dueCause r with
  | none => decide
  | some c =>
    have hmem : c ∈ [1, 2, 3, 4] := List.mem_of_find?_eq_some h
    simp only [List.mem_cons, List.not_mem_nil, or_false] at hmem
    simp only [Option.getD_some]
    omega

/-- The cause that a retirement shows (R614). -/
def State.shownCause (s : State) (r cause : Nat) : Nat := if cause = 4 then (s.dueCause r).getD 4 else cause

theorem shownCause_lt {s : State} {r cause : Nat} (hdue : s.retireDue r cause = true) : s.shownCause r cause < 16 := by
  have hcause : cause ≤ 4 := by
    by_contra hlarge
    unfold State.retireDue at hdue
    split at hdue <;> first | omega | exact absurd hdue (by decide)
  unfold State.shownCause
  split
  · exact dueCause_lt s r
  · omega

/-- No lower rank in service meets a condition, so the rank itself is next. -/
theorem exec_rankRetire {s : State} {r cause : Nat} (hdue : s.retireDue r cause = true) (hserves : s.rankState r < 2)
    (hlower : ∀ k, k < r → s.rankState k < 2 → s.dueCause k = none) :
    exec (.rankRetire r cause) s = .next (s.retireNow r (s.shownCause r cause)) := by
  have hnone : (List.range r).filter (fun k => decide (s.rankState k < 2) && (s.dueCause k).isSome) = [] := by
    refine List.filter_eq_nil_iff.mpr fun k hk => ?_
    by_cases hstate : s.rankState k < 2
    · simp [hlower k (List.mem_range.mp hk) hstate]
    · simp [hstate]
  show execRankRetire r cause s = _
  unfold execRankRetire
  refine (if_pos ⟨hdue, hserves⟩).trans ?_
  rw [hnone]
  rfl

end Sys2Proof.Machine

namespace Sys2Proof
open Machine

/-- Settles O43: the spare goes RETIRED at once, and no other rank, frame or copy moves. -/
theorem aSpareRetiresWithNoCopy : Obligations.ASpareRetiresWithNoCopy := by
  unfold Obligations.ASpareRetiresWithNoCopy
  intro s r cause hr hspare hdue hfirst hlower
  have hcounted := counted_counts s hr (shownCause_lt hdue)
  have hexec := exec_rankRetire hdue (by omega) hlower
  rw [retireNow_spare hspare (by simp [hfirst])] at hexec
  generalize s.rankCounted r (s.shownCause r cause) = u at hcounted hexec
  obtain ⟨hstate, htarget, -, -, husable, hretired, hframes, hslots, hcopying⟩ := hcounted
  have hranks : ∀ k, (u.spareRetires r).rankState k = if k = r then 3 else u.rankState k := fun k =>
    (rankState_hbmNote _ k).trans (rankState_wr u r k (by decide))
  have hhbm : (u.spareRetires r).hbm = u.hbm := (hbmNote_hbm _).trans (State.wr_hbm _ _ _)
  have hlist : (u.wr (Reg.HBM_RNK_STATE_STATE r) 3).hbm.retired = [r] := by rw [State.wr_hbm, hretired, hfirst]; rfl
  refine ⟨_, hexec, (hranks r).trans (if_pos rfl), by rw [hhbm, hretired, hfirst]; rfl, ?_, ?_, ?_, fun k hk => ⟨?_, fun hkr => ?_⟩,
    by rw [hhbm, hframes], by rw [hhbm, hslots], by rw [hhbm, hcopying], fun hstill => ?_⟩
  · exact (retired_hbmNote _).trans (by rw [hlist]; rfl)
  · exact (spareAvail_hbmNote _).trans (by rw [hlist]; rfl)
  · exact (usable_hbmNote _).trans (((wr_rank_regs u r 0 3 3).rd (.inl rfl)).trans husable)
  · exact (rankField_hbmNote _ k 8 3).trans ((target_wr_state u r 3 k).trans (htarget k hk))
  · exact (hranks k).trans ((if_neg hkr).trans (hstate k hk))
  · refine (migrating_hbmNote _).trans (if_neg fun hmoves => ?_)
    obtain ⟨k, hk, hmove⟩ := (rankMoves_iff _).mp hmoves
    rw [rankState_wr u r k (by decide)] at hmove
    by_cases hkr : k = r
    · rw [if_pos hkr] at hmove
      omega
    · rw [if_neg hkr, hstate k hk] at hmove
      exact hmove.elim (hstill k hk).1 (hstill k hk).2

end Sys2Proof
end

section
/-! SUPPORT. A rank that migrates or drains, and how its move ends (R601, R615 to R619, R624). -/

set_option Elab.async false

namespace Sys2Proof.Machine

/-! ### Slots move and no rank with them -/

theorem moveFree_regs {P : Nat → Prop} (s : State) (r : Nat) : SameRegs P s (s.moveFree r) :=
  .of_keeps (State.moveFree_keeps (L := 524288) s r rfl (.refl s)) rfl

theorem retired_setSlots (s : State) (p : Nat) (l : List (Nat × Nat)) : (s.setSlots p l).hbm.retired = s.hbm.retired := by rfl

theorem retired_moveFree (s : State) (r : Nat) : (s.moveFree r).hbm.retired = s.hbm.retired :=
  List.foldlRecOn (motive := fun t : State => t.hbm.retired = s.hbm.retired) _ _ rfl fun _ ht _ _ =>
    (retired_setSlots _ _ _).trans ((retired_setSlots _ _ _).trans ht)

/-- Freeing the slots of a frame changes the free slots alone. -/
structure FreesSlots (s t : State) : Prop where
  regs : t.regs = s.regs
  retired : t.hbm.retired = s.hbm.retired
  frames : t.hbm.frames = s.hbm.frames
  copying : t.hbm.copying = s.hbm.copying

theorem freeEntry_frees (s : State) (e : FrameEnt) : FreesSlots s (s.freeEntry e) :=
  List.foldlRecOn (motive := FreesSlots s) _ _ ⟨rfl, rfl, rfl, rfl⟩ fun _ ht _ _ => ⟨ht.regs, ht.retired, ht.frames, ht.copying⟩

theorem retired_unplace (s : State) (f : Nat) : (s.unplace f).hbm.retired = s.hbm.retired := by
  unfold State.unplace
  split
  · rfl
  · exact (freeEntry_frees _ _).retired

/-! ### Withdrawing the top of class 7 (R585, R619) -/

theorem poolErr_hbmRegs {s t : State} (h : SameRegs isHbm s t) (code wh d0 d1 : Nat) : SameRegs isHbm s (t.poolErr code wh d0 d1) :=
  .poolErr h _ _ _ _ isHbm_paged (by simp only [isHbm, Reg.POOL_ERR]; omega)

theorem poolNote_hbmRegs {s t : State} (h : SameRegs isHbm s t) : SameRegs isHbm s (t.poolNote 7) := by
  have hnoted : ∀ a b c d, SameRegs isHbm s ((((t.setReg (Reg.POOL_CLS_HEADROOM 7) a).wr (Reg.POOL_CLS_STATUS_BP 7) b).wr
      (Reg.POOL_CLS_STATUS_CACHED 7) c).wr (Reg.POOL_CLS_WAITERS_COUNT 7) d) := fun a b c d =>
    .wr (.wr (.wr (.setReg h a (by simp only [isHbm]; decide)) b (by simp only [isHbm]; decide)) c (by simp only [isHbm]; decide)) d
      (by simp only [isHbm]; decide)
  unfold State.poolNote
  refine ite_both (P := SameRegs isHbm s) ?_ (ite_both (P := SameRegs isHbm s) (.setPool (hnoted _ _ _ _) _ _) (hnoted _ _ _ _))
  exact .devError (.setPool (poolErr_hbmRegs (.cnt (.wr (hnoted _ _ _ _) _ (by simp only [isHbm]; decide)) _ _ _) _ _ _ _) _ _)
    _ _ _ _ _ (by simp only [isHbm]; decide)

theorem poolCut_hbmRegs {s t : State} (h : SameRegs isHbm s t) {n : Nat} (hn : n ≤ 32) : SameRegs isHbm s (t.poolCut 7 n) := by
  induction n generalizing t with
  | zero => exact h
  | succ o ih =>
    unfold State.poolCut
    refine ite_both (P := SameRegs isHbm s) h (ih (.wr h _ ?_) (by omega))
    simp only [isHbm, Reg.POOL_OWN_RES]
    omega

theorem poolShrink_hbmRegs {s t : State} (h : SameRegs isHbm s t) : SameRegs isHbm s (t.poolShrink 7) := by
  unfold State.poolShrink
  exact ite_both (P := SameRegs isHbm s) (poolCut_hbmRegs (poolErr_hbmRegs h _ _ _ _) (le_refl 32)) h

theorem withdrawTop_hbmRegs (s : State) : SameRegs isHbm s s.withdrawTop := by
  generalize hv : s.withdrawTop = v
  unfold State.withdrawTop at hv
  extract_lets p count held away n free store s1 s2 s3 at hv
  have hs1 : SameRegs isHbm s s1 := .setPool (.refl s) _ _
  have hs2 : SameRegs isHbm s s2 := .bump (.wr hs1 _ (by simp only [isHbm]; decide)) _ (by simp only [isHbm]; decide)
  have hs3 : SameRegs isHbm s s3 := poolShrink_hbmRegs (.wr hs2 _ (by simp only [isHbm]; decide))
  rw [← hv]
  exact poolNote_hbmRegs (.trans hs3 (.foldl (fun t f _ => .of_keeps (State.unplace_keeps (L := 524288) t f rfl (.refl t)) rfl) s3))

theorem retired_withdrawTop (s : State) : s.withdrawTop.hbm.retired = s.hbm.retired := by
  generalize hv : s.withdrawTop = v
  unfold State.withdrawTop at hv
  extract_lets p count held away n free store s1 s2 s3 at hv
  have hs2 : Keeps 8519707 s s2 :=
    State.bump_keeps _ _ _ rfl (State.wr_keeps _ _ _ rfl (State.setPool_keeps s 7 _ rfl (.refl s)))
  have hs3 : Keeps 8519707 s s3 := State.poolShrink_keeps _ 7 rfl (State.wr_keeps _ _ _ rfl hs2)
  have hnote : ∀ u : State, (u.poolNote 7).hbm = u.hbm := fun u => (State.poolNote_keeps (L := 8519707) u 7 rfl (.refl u)).parts.same .hbm rfl
  rw [← hv, hnote, ← show s3.hbm = s.hbm from hs3.parts.same .hbm rfl]
  exact List.foldlRecOn (motive := fun t : State => t.hbm.retired = s3.hbm.retired) _ _ rfl fun t ht f _ => (retired_unplace t f).trans ht

/-! ### The first retirement migrates, the second drains -/

theorem setMove_regs {P : Nat → Prop} {s t : State} (h : SameRegs P s t) (r : Nat) (on : Bool) : SameRegs P s (t.setMove r on) := h.with rfl

theorem rankState_setMove (s : State) (r : Nat) (on : Bool) (k : Nat) : (s.setMove r on).rankState k = s.rankState k := by rfl

theorem retired_setMove (s : State) (r : Nat) (on : Bool) : (s.setMove r on).hbm.retired = s.hbm.retired := by rfl

/-- The ranks' registers before a migration starts to copy. -/
def State.redirects (u : State) (r : Nat) : State :=
  ((u.wr (Reg.HBM_RNK_STATE_STATE r) 2).wr (Reg.HBM_RNK_STATE_TARGET r) 5).wr (Reg.HBM_RNK_STATE_STATE 5) 0

theorem redirects_regs (u : State) (r : Nat) :
    SameRegs (fun a => a = Reg.HBM_STATUS ∨ ∃ k, a = Reg.HBM_RNK_CTRL k) u (u.redirects r) :=
  ((wr_rank_regs u r 0 3 2).trans (wr_rank_regs _ r 8 3 5)).trans (wr_rank_regs _ 5 0 3 0)

theorem redirects_hbm (u : State) (r : Nat) : (u.redirects r).hbm = u.hbm :=
  (State.wr_keeps (L := 1) _ _ _ rfl (State.wr_keeps _ _ _ rfl (State.wr_keeps _ _ _ rfl (.refl u)))).parts.same .hbm rfl

theorem rankState_redirects (u : State) (r k : Nat) :
    (u.redirects r).rankState k = if k = 5 then 0 else if k = r then 2 else u.rankState k := by
  unfold State.redirects
  rw [rankState_wr _ 5 k (by decide), rankState_wr_target, rankState_wr u r k (by decide)]

theorem target_redirects (u : State) (r : Nat) : (u.redirects r).rd (Reg.HBM_RNK_STATE_TARGET r) = 5 := by
  unfold State.redirects
  rw [target_wr_state]
  exact rd_wr_same _ _ 5 (show 8 + 3 ≤ 32 by decide)

theorem cause_redirects (u : State) (r k : Nat) : (u.redirects r).rd (Reg.HBM_RNK_STATE_CAUSE k) = u.rd (Reg.HBM_RNK_STATE_CAUSE k) := by
  unfold State.redirects
  rw [cause_wr_state, cause_wr_target, cause_wr_state]

/-- A state that shows a move of a rank: where the copies and drains differ, its registers are those of `v`. -/
structure Moving (v t : State) : Prop where
  rank : ∀ k lo w, k < 6 → t.rd ⟨Reg.HBM_RNK_STATE k, lo, w⟩ = v.rd ⟨Reg.HBM_RNK_STATE k, lo, w⟩
  retire : ∀ k, k < 6 → t.rd (Reg.HBM_RNK_CTRL_RETIRE k) = v.rd (Reg.HBM_RNK_CTRL_RETIRE k)
  usable : t.rd Reg.HBM_STATUS_USABLE_GIB = v.rd Reg.HBM_STATUS_USABLE_GIB
  retired : t.hbm.retired = v.hbm.retired
  count : t.rd Reg.HBM_STATUS_RETIRED = v.hbm.retired.length % 4
  spare : t.rd Reg.HBM_STATUS_SPARE_AVAIL = if v.hbm.retired.isEmpty then 1 else 0
  moves : t.rd Reg.HBM_STATUS_MIGRATING = if v.rankMoves then 1 else 0

theorem rankMoves_of_rank {s t : State} (h : ∀ k, k < 6 → t.rankState k = s.rankState k) : t.rankMoves = s.rankMoves := by
  rw [Bool.eq_iff_iff, rankMoves_iff, rankMoves_iff]
  exact exists_congr fun k => and_congr_right fun hk => by rw [h k hk]

/-- Whatever keeps the ranks' registers and the retirements may come before HBM_STATUS follows. -/
theorem moving_of_regs {v w : State} (h : SameRegs isHbm v w) (hretired : w.hbm.retired = v.hbm.retired) : Moving v w.hbmNote := by
  have hranks : ∀ k, k < 6 → w.rankState k = v.rankState k := fun k hk => h.rd (isHbm_rank hk)
  refine ⟨fun k lo wd hk => (rankField_hbmNote w k lo wd).trans (h.rd (isHbm_rank hk)), fun k hk => ?_,
    (usable_hbmNote w).trans (h.rd (by simp only [isHbm]; decide)), by rw [hbmNote_hbm, hretired], (retired_hbmNote w).trans (by rw [hretired]),
    (spareAvail_hbmNote w).trans (by rw [hretired]), (migrating_hbmNote w).trans (by rw [rankMoves_of_rank hranks])⟩
  exact ((hbmNote_regs w).rd (by simp only [Reg.HBM_RNK_CTRL, Reg.HBM_STATUS]; omega)).trans (h.rd (isHbm_ctrl hk))

theorem migrates_moving (u : State) (r : Nat) : Moving (u.redirects r) (u.migrates r) := by
  have hfree : SameRegs isHbm (u.redirects r) ((u.redirects r).moveFree r) := moveFree_regs _ r
  have hretired := retired_moveFree (u.redirects r) r
  show Moving (u.redirects r) (((u.redirects r).moveFree r).setMove r true).hbmNote
  generalize (u.redirects r).moveFree r = v at hfree hretired ⊢
  exact moving_of_regs (setMove_regs hfree r true) hretired

/-- The registers of a rank before its drain starts. -/
def State.halves (u : State) (r : Nat) : State := (u.wr (Reg.HBM_RNK_STATE_STATE r) 4).wr Reg.HBM_STATUS_USABLE_GIB 32

theorem rankDrains_moving (u : State) (r : Nat) : Moving (u.halves r) (u.rankDrains r) := by
  have htop := withdrawTop_hbmRegs (u.halves r)
  have hretired := retired_withdrawTop (u.halves r)
  show Moving (u.halves r) ((((u.halves r).withdrawTop).setMove r true).hbmTold r 0x0B06 r 32).hbmNote
  generalize (u.halves r).withdrawTop = v at htop hretired ⊢
  refine moving_of_regs ((setMove_regs htop r true).trans (hbmTold_regs (v.setMove r true) r 0x0B06 r 32)) ?_
  rw [hbmTold_hbm, retired_setMove]
  exact hretired

theorem rank_halves (u : State) (r k lo w : Nat) :
    (u.halves r).rd ⟨Reg.HBM_RNK_STATE k, lo, w⟩ = (u.wr (Reg.HBM_RNK_STATE_STATE r) 4).rd ⟨Reg.HBM_RNK_STATE k, lo, w⟩ :=
  rd_wr_reg _ _ _ _ (by simp only [Reg.HBM_RNK_STATE, Reg.HBM_STATUS]; omega)

theorem usable_halves (u : State) (r : Nat) : (u.halves r).rd Reg.HBM_STATUS_USABLE_GIB = 32 := rd_wr_same _ _ 32 (by decide)

theorem hbm_halves (u : State) (r : Nat) : (u.halves r).hbm = u.hbm :=
  (State.wr_keeps (L := 1) _ _ _ rfl (State.wr_keeps _ _ _ rfl (.refl u))).parts.same .hbm rfl

theorem retire_halves (u : State) (r k : Nat) : (u.halves r).rd (Reg.HBM_RNK_CTRL_RETIRE k) = u.rd (Reg.HBM_RNK_CTRL_RETIRE k) :=
  (rd_wr_reg _ _ _ _ (by simp only [Reg.HBM_RNK_CTRL, Reg.HBM_STATUS]; omega)).trans ((wr_rank_regs u r 0 3 4).rd (.inr ⟨k, rfl⟩))

section
variable {s : State} {r cause : Nat}

theorem rankMigrates (hr : r < 5) (hdue : s.retireDue r cause = true) (hactive : s.rankState r = 0)
    (hlower : ∀ k, k < r → s.rankState k < 2 → s.dueCause k = none) (hfirst : s.hbm.retired = []) :
    completes (.rankRetire r cause) s fun t =>
      t.rankState r = 2 ∧ t.rankState 5 = 0 ∧ t.rd (Reg.HBM_RNK_STATE_TARGET r) = 5 ∧ t.rd (Reg.HBM_RNK_STATE_CAUSE r) = s.shownCause r cause ∧
      t.hbm.retired = [r] ∧ t.rd (Reg.HBM_RNK_CTRL_RETIRE r) = 0 ∧ t.rd Reg.HBM_STATUS_SPARE_AVAIL = 0 ∧
      t.rd Reg.HBM_STATUS_MIGRATING = 1 ∧ t.rd Reg.HBM_STATUS_USABLE_GIB = s.rd Reg.HBM_STATUS_USABLE_GIB := by
  have hr6 : r < 6 := by omega
  have hcounted := counted_counts s hr6 (shownCause_lt hdue)
  have hexec := exec_rankRetire hdue (by omega) hlower
  rw [retireNow_migrates hactive hfirst] at hexec
  generalize s.rankCounted r (s.shownCause r cause) = u at hcounted hexec
  have hmoving := migrates_moving u r
  have hretired : (u.redirects r).hbm.retired = [r] := by rw [redirects_hbm, hcounted.retired, hfirst]; rfl
  have hstate := rankState_redirects u r
  refine ⟨_, hexec, (hmoving.rank r 0 3 hr6).trans ((hstate r).trans ?_), (hmoving.rank 5 0 3 (by decide)).trans ((hstate 5).trans (if_pos rfl)),
    (hmoving.rank r 8 3 hr6).trans (target_redirects u r),
    (hmoving.rank r 12 4 hr6).trans ((cause_redirects u r r).trans hcounted.cause), hmoving.retired.trans hretired,
    (hmoving.retire r hr6).trans (((redirects_regs u r).rd (.inr ⟨r, rfl⟩)).trans hcounted.retire), hmoving.spare.trans (by rw [hretired]; rfl),
    hmoving.moves.trans (if_pos ?_), hmoving.usable.trans (((redirects_regs u r).rd (.inl rfl)).trans hcounted.usable)⟩
  · rw [if_neg (by omega), if_pos rfl]
  · exact (rankMoves_iff _).mpr ⟨r, hr6, .inl ((hstate r).trans (by rw [if_neg (by omega), if_pos rfl]))⟩

theorem rankStartsDrain (hr : r < 6) (hdue : s.retireDue r cause = true) (hactive : s.rankState r = 0)
    (hlower : ∀ k, k < r → s.rankState k < 2 → s.dueCause k = none) (hsecond : s.hbm.retired.length = 1) :
    completes (.rankRetire r cause) s fun t =>
      t.rankState r = 4 ∧ t.rd (Reg.HBM_RNK_STATE_CAUSE r) = s.shownCause r cause ∧ t.hbm.retired = s.hbm.retired ++ [r] ∧
      t.rd (Reg.HBM_RNK_CTRL_RETIRE r) = 0 ∧ t.rd Reg.HBM_STATUS_RETIRED = 2 ∧ t.rd Reg.HBM_STATUS_USABLE_GIB = 32 := by
  have hcounted := counted_counts s hr (shownCause_lt hdue)
  have hexec := exec_rankRetire hdue (by omega) hlower
  rw [retireNow_drains hactive hsecond] at hexec
  generalize s.rankCounted r (s.shownCause r cause) = u at hcounted hexec
  have hmoving := rankDrains_moving u r
  have hretired : (u.halves r).hbm.retired = s.hbm.retired ++ [r] := by rw [hbm_halves, hcounted.retired]
  refine ⟨_, hexec, (hmoving.rank r 0 3 hr).trans ((rank_halves u r r 0 3).trans ((rankState_wr u r r (by decide)).trans (if_pos rfl))),
    (hmoving.rank r 12 4 hr).trans ((rank_halves u r r 12 4).trans ((cause_wr_state u r 4 r).trans hcounted.cause)),
    hmoving.retired.trans hretired, (hmoving.retire r hr).trans ((retire_halves u r r).trans hcounted.retire),
    hmoving.count.trans ?_, hmoving.usable.trans (usable_halves u r)⟩
  rw [hretired, List.length_append, hsecond]
  rfl

theorem rankStays (hr : r < 6) (hdue : s.retireDue r cause = true) (hactive : s.rankState r = 0)
    (hlower : ∀ k, k < r → s.rankState k < 2 → s.dueCause k = none) (hspent : 2 ≤ s.hbm.retired.length) :
    completes (.rankRetire r cause) s fun t => t.rankState r = 0 ∧ t.hbm.retired = s.hbm.retired ∧ t.rd (Reg.HBM_RNK_CTRL_RETIRE r) = 0 := by
  have hexec := exec_rankRetire hdue (by omega) hlower
  rw [retireNow_exhausted hspent] at hexec
  have htold := hbmTold_regs (s.retiring r) r 0x0B07 r (s.shownCause r cause)
  refine ⟨_, hexec, (htold.rd (isHbm_rank hr)).trans ((rankState_retiring s r r).trans hactive), ?_,
    (htold.rd (isHbm_ctrl hr)).trans (retiring_retire s r)⟩
  rw [hbmTold_hbm]
  exact retired_retiring s r

end

/-! ### RETIRE and the ends of the moves -/

theorem exec_retire {s : State} {r : Nat} (h : reaches s (Reg.HBM_RNK_CTRL r)) :
    exec (.retire r) s = .next (if s.rankState r < 2 then s.wr (Reg.HBM_RNK_CTRL_RETIRE r) 1 else s) := by
  show execRetire r s = _
  unfold execRetire
  rw [bar_of_reaches h]
  exact (apply_ite Host.Outcome.next _ _ _).symm

/-- A rank is out of service once its move is over. -/
def State.rankOut (s : State) (r : Nat) : State := ((s.setMove r false).wr (Reg.HBM_RNK_STATE_STATE r) 3).hbmNote

theorem rankState_rankOut (s : State) (r k : Nat) : (s.rankOut r).rankState k = if k = r then 3 else s.rankState k := by
  unfold State.rankOut
  rw [rankState_hbmNote, rankState_wr _ r k (by decide), rankState_setMove]

theorem retired_rankOut (s : State) (r : Nat) : (s.rankOut r).hbm.retired = s.hbm.retired := by
  unfold State.rankOut
  rw [hbmNote_hbm, State.wr_hbm, retired_setMove]

/-- A frame's slots are those of the spare once its rank is copied. -/
def State.homed (s : State) (e : FrameEnt) : FrameEnt := { slots := e.slots.map fun l => l.map s.slotHome }

/-- Every frame's slots are those of the spare. -/
def State.allHomed (s : State) : State :=
  { s with hbm := { s.hbm with
    frames := s.hbm.frames.map (fun q => (q.1, q.2.map s.homed)), copying := s.hbm.copying.map (fun q => (q.1, s.homed q.2)) } }

theorem rankState_allHomed (s : State) (k : Nat) : s.allHomed.rankState k = s.rankState k := by rfl

theorem exec_migrationDone {s : State} {r : Nat} (hr : r < 6) (hmigrates : s.rankState r = 2) (hcopied : s.moveLeft r = 0)
    (hfirst : ∀ k, k < r → s.rankState k = 2 → s.moveLeft k ≠ 0) : exec .migrationDone s = .next (s.allHomed.rankOut r) := by
  have hfind : (List.range 6).find? (fun k => s.rankState k == 2 && s.moveLeft k == 0) = some r := by
    refine List.find?_range_eq_some.mpr ⟨by simp [hmigrates, hcopied], List.mem_range.mpr hr, fun k hk => ?_⟩
    by_cases hstate : s.rankState k = 2
    · simp [hfirst k hk hstate]
    · simp [hstate]
  show execMigrationDone s = _
  unfold execMigrationDone
  rw [hfind]
  rfl

/-! ### The end of a drain -/

/-- Slots and frames move, and nothing else. -/
structure MovesSlots (s t : State) : Prop where
  keeps : Keeps 524288 s t
  retired : t.hbm.retired = s.hbm.retired

theorem MovesSlots.trans {s t u : State} (h : MovesSlots s t) (k : MovesSlots t u) : MovesSlots s u :=
  ⟨h.keeps.trans k.keeps, k.retired.trans h.retired⟩

theorem MovesSlots.refl (s : State) : MovesSlots s s := ⟨.refl s, rfl⟩

/-- The frame's entry names its slots. -/
theorem MovesSlots.named {s t : State} (h : MovesSlots s t) (x : Tbl (Option FrameEnt)) :
    MovesSlots s { t with hbm := { t.hbm with frames := x } } := ⟨h.keeps.trans (Keeps.upd (m := 524288) rfl (.refl t)), h.retired⟩

theorem retired_takeSlots (s : State) (p n : Nat) {q : State × List Nat} (h : s.takeSlots p n = q) : s.hbm.retired = q.1.hbm.retired := by
  rw [← h]
  exact (retired_setSlots s _ _).symm

theorem moveSlot_moves (s : State) (r k : Nat) : MovesSlots s (s.moveSlot r k).1 := by
  refine ⟨State.moveSlot_keeps s r k rfl (.refl s), ?_⟩
  unfold State.moveSlot
  dsimp only
  split
  · split
    · rfl
    · split
      next htake => exact (retired_takeSlots s _ 1 htake).symm
      next htake => exact (retired_takeSlots s _ 1 htake).symm
  · rfl

theorem takeSlots_moves (s : State) (p n : Nat) : MovesSlots s (s.takeSlots p n).1 :=
  ⟨State.takeSlots_keeps s p n rfl (.refl s), retired_setSlots s _ _⟩

theorem drainBoot_moves (s : State) (r : Nat) : MovesSlots s (s.drainBoot r) := by
  unfold State.drainBoot
  refine ite_both (P := MovesSlots s) ?_ (.refl s)
  exact List.foldlRecOn (motive := MovesSlots s) _ _ (.refl s) fun t ht k _ => ht.trans (takeSlots_moves t _ _)

/-- The slots of one list of a frame move one after the other. -/
theorem moveSlots_moves (r : Nat) (l : List Nat) (x : State × List Nat) : MovesSlots x.1 (l.foldl (fun (x : State × List Nat) k =>
    let q := x.1.moveSlot r k
    (q.1, x.2 ++ [q.2])) x).1 :=
  List.foldlRecOn (motive := fun y : State × List Nat => MovesSlots x.1 y.1) l _ (.refl x.1) fun y hy k _ => hy.trans (moveSlot_moves y.1 r k)

/-- The lists of a frame's slots move one after the other. -/
theorem frameSlots_moves (r : Nat) (l : List (List Nat)) (x : State × List (List Nat)) :
    MovesSlots x.1 (l.foldl (fun (x : State × List (List Nat)) l =>
      let z := l.foldl (fun (x : State × List Nat) k =>
        let q := x.1.moveSlot r k
        (q.1, x.2 ++ [q.2])) (x.1, [])
      (z.1, x.2 ++ [z.2])) x).1 :=
  List.foldlRecOn (motive := fun y : State × List (List Nat) => MovesSlots x.1 y.1) l _ (.refl x.1) fun y hy l _ =>
    hy.trans (moveSlots_moves r l (y.1, []))

theorem drainFrame_moves (r : Nat) (s : State) (f : Nat × Option FrameEnt) : MovesSlots s (State.drainFrame r s f) := by
  unfold State.drainFrame
  split
  · exact .refl s
  next e _ =>
    exact (frameSlots_moves r e.slots (s, [])).named _

/-- Before a drained rank is out, its frames and the boot's slots on it have moved. -/
def State.drained (s : State) (r : Nat) : State := s.hbm.frames.foldl (State.drainFrame r) (s.drainBoot r)

theorem drained_moves (s : State) (r : Nat) : MovesSlots s (s.drained r) :=
  List.foldlRecOn (motive := MovesSlots s) _ _ (drainBoot_moves s r) fun t ht f _ => ht.trans (drainFrame_moves r t f)

theorem exec_rankDrainDone {s : State} {r : Nat} (hdrains : s.rankState r = 4) (hwithdrawn : (s.poolC 7).withdraw = [])
    (hmoved : s.moveLeft r = 0) : exec (.rankDrainDone r) s = .next ((s.drained r).rankOut r) :=
  if_pos ⟨hdrains, List.isEmpty_iff.mpr hwithdrawn, hmoved⟩

theorem exec_rankDrainDone_waits {s : State} {r : Nat} (hwaits : (s.poolC 7).withdraw ≠ [] ∨ s.moveLeft r ≠ 0) :
    exec (.rankDrainDone r) s = .next s :=
  if_neg fun h => hwaits.elim (fun hheld => hheld (List.isEmpty_iff.mp h.2.1)) fun hleft => hleft h.2.2

/-! ### The copy of a frame ends (R601) -/

/-- The copy of a frame is over. -/
def State.copyOver (s : State) (q : Nat × FrameEnt) : State := { s with hbm := { s.hbm with copying := s.hbm.copying.erase q } }

theorem exec_frameReplaceCopyDone {s : State} {f : Nat} {q : Nat × FrameEnt} (hfind : s.hbm.copying.find? (fun q => q.1 == f) = some q) :
    exec (.frameReplaceCopyDone f) s = .next ((s.copyOver q).freeEntry q.2) := by
  show execFrameReplaceCopyDone f s = _
  unfold execFrameReplaceCopyDone
  rw [hfind]
  rfl

end Sys2Proof.Machine

namespace Sys2Proof
open Machine

/-- Settles O42: the first retirement migrates, the second drains, a third changes nothing, and each move ends on its own. -/
theorem ranksRetireMigrateAndDrain : Obligations.RanksRetireMigrateAndDrain := by
  unfold Obligations.RanksRetireMigrateAndDrain
  refine ⟨fun s r cause hr hdue hactive hlower => ⟨rankMigrates hr hdue hactive hlower,
      rankStartsDrain (by omega) hdue hactive hlower, rankStays (by omega) hdue hactive hlower⟩,
    fun s r hr hreach => ⟨fun hserves => ?_, fun hout => ?_⟩, fun s r hr hmigrates hcopied hfirst => ?_,
    fun s r hr hdrains => ⟨fun hwithdrawn hmoved => ?_, fun hwaits => ⟨s, exec_rankDrainDone_waits hwaits, rfl⟩⟩, fun s f q hfind => ?_⟩
  · exact ⟨_, (exec_retire hreach).trans (congrArg _ (if_pos hserves)), rd_wr_same s _ 1 (show 0 + 1 ≤ 32 by decide), onlyRegs_wr s _ 1⟩
  · exact ⟨s, (exec_retire hreach).trans (congrArg _ (if_neg (by omega))), rfl⟩
  · refine ⟨_, exec_migrationDone hr hmigrates hcopied hfirst, (rankState_rankOut _ r r).trans (if_pos rfl), fun k _ hkr => ?_, ?_⟩
    · exact (rankState_rankOut _ r k).trans ((if_neg hkr).trans (rankState_allHomed s k))
    · exact retired_rankOut _ r
  · have hmoves := drained_moves s r
    refine ⟨_, exec_rankDrainDone hdrains hwithdrawn hmoved, (rankState_rankOut _ r r).trans (if_pos rfl), fun k _ hkr => ?_, ?_⟩
    · exact (rankState_rankOut _ r k).trans ((if_neg hkr).trans (rd_of_reg (reg_of_regs (hmoves.keeps.parts.same .regs rfl) _)))
    · exact (retired_rankOut _ r).trans hmoves.retired
  · have hfrees := freeEntry_frees (s.copyOver q) q.2
    exact ⟨_, exec_frameReplaceCopyDone hfind, hfrees.copying, hfrees.regs, hfrees.frames⟩

end Sys2Proof
end

section
/-! SUPPORT. Requests, refresh, temperature, training and errors of HBM (R603 to R613, R624). -/

set_option Elab.async false

namespace Sys2Proof.Machine

/-! ### A pseudo-channel's refreshes (R606, R607) -/

theorem rd_setPchan (s : State) (p : Nat) (x : PChan) (f : RegField) : (s.setPchan p x).rd f = s.rd f := by rfl

theorem pchan_of_hbm {s t : State} (h : t.hbm.chans = s.hbm.chans) (p : Nat) : t.pchan p = s.pchan p := by
  unfold State.pchan
  rw [h]

theorem pchan_doRefresh (s : State) (p : Nat) : (s.doRefresh p).pchan p = { s.pchan p with postponed := 0, openRows := [] } :=
  State.pchan_setPchan s p _

theorem exec_issue_refreshes {s : State} {p sym : Nat} {parity : Bool} (howed : 0 < (s.pchan p).postponed)
    (hcalm : (s.pchan p).urgent = false) : exec (.hbmRequestIssue p [] parity sym) s = .next (s.doRefresh p) := if_pos ⟨howed, hcalm⟩

/-- An idle pseudo-channel pulls a refresh in. -/
def State.pullsIn (s : State) (p : Nat) : State := (s.doRefresh p).setPchan p { (s.doRefresh p).pchan p with pulled := (s.pchan p).pulled + 1 }

theorem exec_issue_idle {s : State} {p sym : Nat} {parity : Bool} (hnone : (s.pchan p).postponed = 0) (hidle : (s.pchan p).queue = [])
    (hpulled : (s.pchan p).pulled < 4) : exec (.hbmRequestIssue p [] parity sym) s = .next (s.pullsIn p) := by
  show execHbmRequestIssue p [] parity sym s = _
  unfold execHbmRequestIssue
  refine (if_neg fun h => absurd h.1 (by rw [List.foldl_nil, hnone]; decide)).trans ?_
  dsimp only [List.foldl_nil]
  rw [hidle]
  exact congrArg Host.Outcome.next (if_pos hpulled)

/-! ### The one request of a queue (R604) -/

theorem exec_issue_one {s : State} {p sym : Nat} {parity : Bool} {r : HbmReq} (hnone : (s.pchan p).postponed = 0)
    (hqueue : (s.pchan p).queue = [r]) : exec (.hbmRequestIssue p [] parity sym) s =
      .next (if parity then s.parityFails r.req.rank else s.hbmIssue p r 0 sym) := by
  show execHbmRequestIssue p [] parity sym s = _
  unfold execHbmRequestIssue
  refine (if_neg fun h => absurd h.1 (by rw [List.foldl_nil, hnone]; decide)).trans ?_
  dsimp only [List.foldl_nil]
  rw [hqueue]
  rfl

/-- The request leaves the queue for the stack. -/
def State.hbmSent (s : State) (p : Nat) (r : HbmReq) : State :=
  let x := s.pchan p
  let a := r.req
  let rows := (a.rank, a.bank, a.row) :: x.openRows.filter (fun o => !(o.1 == a.rank && o.2.1 == a.bank))
  let q := (x.queue.eraseIdx 0).map (fun k => if k.urgency = 3 then { k with passed := k.passed + 1 } else k)
  let rr := if x.tied s.ticketNow r then some a.port else x.rr
  let s0 : State := { s with hbm := { s.hbm with parity := tset (fun _ => 0) s.hbm.parity a.rank 0 } }
  (s0.setPchan p { x with queue := q, openRows := rows, rr := rr }).post (Out.hbm p a.line a.row a.write)

theorem pchan_hbmSent (s : State) (p : Nat) (r : HbmReq) : ((s.hbmSent p r).pchan p).queue =
    ((s.pchan p).queue.eraseIdx 0).map (fun k => if k.urgency = 3 then { k with passed := k.passed + 1 } else k) ∧
    (r.req.rank, r.req.bank, r.req.row) ∈ ((s.hbmSent p r).pchan p).openRows := by
  unfold State.hbmSent
  rw [State.pchan_post, State.pchan_setPchan]
  exact ⟨rfl, List.mem_cons_self⟩

theorem out_hbmSent (s : State) (p : Nat) (r : HbmReq) : Out.hbm p r.req.line r.req.row r.req.write ∈ (s.hbmSent p r).out :=
  List.mem_append_right _ List.mem_cons_self

theorem rd_hbmSent (s : State) (p : Nat) (r : HbmReq) (f : RegField) : (s.hbmSent p r).rd f = s.rd f := by rfl

/-- The latency of the request is recorded for its port. -/
def State.latencyShown (s : State) (r : HbmReq) (latency : Nat) : State :=
  s.wr (Reg.HBM_PORT_MAXLAT_NS r.req.port) (max (s.rd (Reg.HBM_PORT_MAXLAT_NS r.req.port)) (min latency (2 ^ 31 - 1)))

theorem hbmIssue_eq (s : State) (p : Nat) (r : HbmReq) (sym : Nat) : s.hbmIssue p r 0 sym =
    if r.req.write then
      (if r.req.full then ((s.hbmSent p r).latencyShown r (s.time.mono - r.at_)).cleanLine r.req.line
        else (s.hbmSent p r).latencyShown r (s.time.mono - r.at_))
    else ((s.hbmSent p r).latencyShown r (s.time.mono - r.at_)).readLine r.req.rank r.req.line sym := by rfl

theorem rd_latencyShown (s : State) (r : HbmReq) (latency : Nat) : (s.latencyShown r latency).rd (Reg.HBM_PORT_MAXLAT_NS r.req.port) =
    max (s.rd (Reg.HBM_PORT_MAXLAT_NS r.req.port)) (min latency (2 ^ 31 - 1)) := by
  have hlt := rd_lt s (Reg.HBM_PORT_MAXLAT_NS r.req.port)
  refine (rd_wr_same s _ _ (show 0 + 31 ≤ 32 by decide)).trans (Nat.mod_eq_of_lt (max_lt hlt ?_))
  exact (min_le_right _ _).trans_lt (show 2 ^ 31 - 1 < 2 ^ 31 by decide)

/-! ### The errors of a line (R611 to R613) -/

/-- The line is marked, and its rank is to be retired. -/
def State.marked (s : State) (rank line : Nat) : State :=
  { s with hbm := { s.hbm with
    poison := if s.hbm.poison.contains line then s.hbm.poison else s.hbm.poison ++ [line]
    poisonRank := if s.hbm.poison.contains line then s.hbm.poisonRank else tset (fun _ => 0) s.hbm.poisonRank line rank
    ueRanks := if s.hbm.ueRanks.contains rank then s.hbm.ueRanks else s.hbm.ueRanks ++ [rank] } }

/-- The uncorrectable error is told and counted. -/
def State.ueTold (s : State) (rank : Nat) : State := ((s.hbmErr rank 0x0B04).cnt 0x0B01 rank).bump (Reg.HBM_RNK_UE_COUNT rank)

theorem poisonLine_eq (s : State) (rank line : Nat) : s.poisonLine rank line =
    ((s.ueTold rank).marked rank line).wr Reg.HBM_POISONED_COUNT ((s.ueTold rank).marked rank line).hbm.poison.length := by rfl

theorem ueTold_hbm (s : State) (rank : Nat) : (s.ueTold rank).hbm = s.hbm :=
  (State.bump_keeps (L := 8388633) _ _ _ rfl (State.cnt_keeps _ _ _ _ rfl (State.hbmErr_keeps s _ _ _ _ rfl (.refl s)))).parts.same .hbm rfl

theorem rd_marked (s : State) (rank line : Nat) (f : RegField) : (s.marked rank line).rd f = s.rd f := by rfl

theorem chans_marked (s : State) (rank line : Nat) : (s.marked rank line).hbm.chans = s.hbm.chans := by rfl

theorem hbm_wr (s : State) (f : RegField) (v : Nat) : (s.wr f v).hbm = s.hbm := State.wr_hbm s f v

theorem poison_poisonLine {s : State} {line : Nat} (rank : Nat) (hclean : line ∉ s.hbm.poison) :
    (s.poisonLine rank line).hbm.poison = s.hbm.poison ++ [line] := by
  rw [poisonLine_eq, hbm_wr]
  show (if (s.ueTold rank).hbm.poison.contains line then (s.ueTold rank).hbm.poison else (s.ueTold rank).hbm.poison ++ [line]) = _
  rw [ueTold_hbm]
  exact if_neg (by simpa using hclean)

theorem ueRanks_poisonLine (s : State) (rank line : Nat) : rank ∈ (s.poisonLine rank line).hbm.ueRanks := by
  rw [poisonLine_eq, hbm_wr]
  show rank ∈ (if (s.ueTold rank).hbm.ueRanks.contains rank then (s.ueTold rank).hbm.ueRanks else (s.ueTold rank).hbm.ueRanks ++ [rank])
  split
  next hin => exact List.contains_iff_mem.mp hin
  · exact List.mem_append_right _ List.mem_cons_self

theorem poisoned_poisonLine {s : State} {line : Nat} (rank : Nat) (hclean : line ∉ s.hbm.poison) :
    (s.poisonLine rank line).rd Reg.HBM_POISONED_COUNT = (s.hbm.poison.length + 1) % 2 ^ 32 := by
  have hlen : ((s.ueTold rank).marked rank line).hbm.poison.length = s.hbm.poison.length + 1 := by
    have hpoison := poison_poisonLine rank hclean
    rw [poisonLine_eq, hbm_wr] at hpoison
    rw [hpoison, List.length_append]
    rfl
  rw [poisonLine_eq, hlen]
  exact rd_wr_same _ _ _ (by decide)

theorem ue_poisonLine (s : State) {rank : Nat} (hr : rank < 6) (line : Nat) :
    (s.poisonLine rank line).rd (Reg.HBM_RNK_UE_COUNT rank) = (s.rd (Reg.HBM_RNK_UE_COUNT rank) + 1) % 2 ^ 32 := by
  have herr : (s.hbmErr rank 0x0B04).rd (Reg.HBM_RNK_UE_COUNT rank) = s.rd (Reg.HBM_RNK_UE_COUNT rank) :=
    (hbmErr_regs s rank 0x0B04 0 0).rd (by simp only [isHbm, Reg.HBM_RNK_UE, Reg.HBM_ERR]; omega)
  rw [poisonLine_eq]
  refine (rd_wr_reg _ _ (Reg.HBM_RNK_UE_COUNT rank) _ (by simp only [Reg.HBM_RNK_UE, Reg.HBM_POISONED]; omega)).trans ?_
  exact (rd_marked _ rank line _).trans ((rd_bump_same _ _ 1 (show 0 + 32 ≤ 32 by decide)).trans (by rw [rd_cnt, herr]))

/-- The latency that a port shows. -/
def isLatency (a : Nat) : Prop := ∃ p, p < 24 ∧ a = Reg.HBM_PORT_MAXLAT p

/-- Reading or cleaning a line leaves the pseudo-channels, what the device sends and the latencies alone. -/
structure LineSeen (s t : State) : Prop where
  chans : t.hbm.chans = s.hbm.chans
  out : t.out = s.out
  latency : SameRegs isLatency s t

theorem LineSeen.refl (s : State) : LineSeen s s := ⟨rfl, rfl, .refl s⟩

theorem not_latency_of_count (r : Nat) : ¬isLatency (Reg.HBM_RNK_UE r) ∧ ¬isLatency (Reg.HBM_RNK_CE_TOTAL r) := by
  constructor <;>
  · rintro ⟨p, -, h⟩
    simp only [Reg.HBM_PORT_MAXLAT, Reg.HBM_RNK_UE, Reg.HBM_RNK_CE_TOTAL] at h
    omega

theorem not_latency_of_ce {r : Nat} (hr : r < 6) : ¬isLatency (Reg.HBM_RNK_CE r) := by
  rintro ⟨p, -, h⟩
  simp only [Reg.HBM_PORT_MAXLAT, Reg.HBM_RNK_CE] at h
  omega

theorem not_latency_of_poisoned : ¬isLatency Reg.HBM_POISONED := by
  rintro ⟨p, -, h⟩
  simp only [Reg.HBM_PORT_MAXLAT, Reg.HBM_POISONED] at h
  omega

theorem isHbm_of_latency (a : Nat) (h : isLatency a) : isHbm a := by
  obtain ⟨p, hp, rfl⟩ := h
  simp only [isHbm, Reg.HBM_PORT_MAXLAT, Reg.HBM_ERR]
  omega

theorem poisonLine_seen (s : State) (rank line : Nat) : LineSeen s (s.poisonLine rank line) := by
  have herr : SameRegs isLatency s (s.hbmErr rank 0x0B04) := (hbmErr_regs s rank 0x0B04 0 0).mono isHbm_of_latency
  have htold : SameRegs isLatency s (s.ueTold rank) := .bump (.cnt herr _ _ _) _ (not_latency_of_count rank).1
  refine ⟨?_, (State.poisonLine_keeps (L := 8912921) s rank line rfl (.refl s)).parts.same .out rfl, ?_⟩
  · rw [poisonLine_eq, hbm_wr]
    exact (chans_marked _ rank line).trans (congrArg HbmSt.chans (ueTold_hbm s rank))
  · rw [poisonLine_eq]
    refine .wr (htold.trans ?_) _ not_latency_of_poisoned
    generalize s.ueTold rank = u
    exact .of_regs rfl

/-- The times of corrections in the window. -/
def State.ceNoted (s : State) (rank : Nat) : State :=
  { s with hbm := { s.hbm with ceTimes := tset (fun _ => []) s.hbm.ceTimes rank <|
    (s.time.mono :: (tget (fun _ => []) s.hbm.ceTimes rank).filter (fun t => decide (s.time.mono - t ≤ s.ceWindow))) } }

theorem correctLine_eq (s : State) (rank : Nat) : s.correctLine rank =
    (((s.ceNoted rank).cnt 0x0B00 rank).wr (Reg.HBM_RNK_CE_COUNT rank)
      (s.time.mono :: (tget (fun _ => []) s.hbm.ceTimes rank).filter (fun t => decide (s.time.mono - t ≤ s.ceWindow))).length).bump
      (Reg.HBM_RNK_CE_TOTAL_COUNT rank) := by rfl

theorem rd_ceNoted (s : State) (rank : Nat) (f : RegField) : (s.ceNoted rank).rd f = s.rd f := by rfl

theorem chans_ceNoted (s : State) (rank : Nat) : (s.ceNoted rank).hbm.chans = s.hbm.chans := by rfl

theorem poison_ceNoted (s : State) (rank : Nat) : (s.ceNoted rank).hbm.poison = s.hbm.poison := by rfl

theorem hbm_correctLine (s : State) (rank : Nat) : (s.correctLine rank).hbm = (s.ceNoted rank).hbm := by
  rw [correctLine_eq]
  exact (State.bump_keeps (L := 8388609) _ _ _ rfl (State.wr_keeps _ _ _ rfl (State.cnt_keeps _ _ _ _ rfl (.refl _)))).parts.same .hbm rfl

theorem ceTotal_correctLine (s : State) (rank : Nat) :
    (s.correctLine rank).rd (Reg.HBM_RNK_CE_TOTAL_COUNT rank) = (s.rd (Reg.HBM_RNK_CE_TOTAL_COUNT rank) + 1) % 2 ^ 32 := by
  have hother : ∀ (t : State) (v : Nat), (t.wr (Reg.HBM_RNK_CE_COUNT rank) v).rd (Reg.HBM_RNK_CE_TOTAL_COUNT rank) =
      t.rd (Reg.HBM_RNK_CE_TOTAL_COUNT rank) := fun t v => rd_wr_reg t _ _ v (by simp only [Reg.HBM_RNK_CE, Reg.HBM_RNK_CE_TOTAL]; omega)
  rw [correctLine_eq]
  refine (rd_bump_same _ _ 1 (show 0 + 32 ≤ 32 by decide)).trans ?_
  rw [hother, rd_cnt, rd_ceNoted]

theorem correctLine_seen (s : State) {rank : Nat} (hr : rank < 6) : LineSeen s (s.correctLine rank) := by
  refine ⟨(congrArg HbmSt.chans (hbm_correctLine s rank)).trans (chans_ceNoted s rank), (State.correctLine_keeps (L := 8912897) s rank rfl (.refl s)).parts.same .out rfl, ?_⟩
  have hnoted : SameRegs isLatency s (s.ceNoted rank) := .of_regs rfl
  rw [correctLine_eq]
  exact .bump (.wr (.cnt hnoted _ _ _) _ (not_latency_of_ce hr)) _ (not_latency_of_count rank).2

theorem readLine_seen (s : State) {rank : Nat} (hr : rank < 6) (line sym : Nat) : LineSeen s (s.readLine rank line sym) := by
  unfold State.readLine
  exact ite_both (P := LineSeen s) (.refl s) (ite_both (P := LineSeen s) (correctLine_seen s hr) (poisonLine_seen s rank line))

theorem cleanLine_seen (s : State) (line : Nat) : LineSeen s (s.cleanLine line) := by
  have hcleaned : ∀ (x : HbmSt) (n : Nat), x.chans = s.hbm.chans → LineSeen s (({ s with hbm := x } : State).wr Reg.HBM_POISONED_COUNT n) :=
    fun x n hx => by
      have hregs : SameRegs isLatency s { s with hbm := x } := .of_regs rfl
      exact ⟨by rw [hbm_wr]; exact hx, State.wr_out _ _ _, .wr hregs n not_latency_of_poisoned⟩
  unfold State.cleanLine
  exact ite_both (P := LineSeen s) (hcleaned _ _ rfl) (.refl s)

theorem hbmIssue_seen (s : State) (p : Nat) {r : HbmReq} (hr : r.req.rank < 6) (sym : Nat) :
    LineSeen ((s.hbmSent p r).latencyShown r (s.time.mono - r.at_)) (s.hbmIssue p r 0 sym) := by
  rw [hbmIssue_eq]
  generalize (s.hbmSent p r).latencyShown r (s.time.mono - r.at_) = v
  exact ite_both (P := LineSeen v) (ite_both (P := LineSeen v) (cleanLine_seen v _) (.refl v)) (readLine_seen v hr _ _)

theorem requestIssues {s : State} {p sym : Nat} {r : HbmReq} (hnone : (s.pchan p).postponed = 0) (hqueue : (s.pchan p).queue = [r])
    (hport : r.req.port < 24) (hrank : r.req.rank < 6) : completes (.hbmRequestIssue p [] false sym) s fun t =>
      (t.pchan p).queue = [] ∧ (r.req.rank, r.req.bank, r.req.row) ∈ (t.pchan p).openRows ∧
      Out.hbm p r.req.line r.req.row r.req.write ∈ t.out ∧ t.rd (Reg.HBM_PORT_MAXLAT_NS r.req.port) =
        max (s.rd (Reg.HBM_PORT_MAXLAT_NS r.req.port)) (min (s.time.mono - r.at_) (2 ^ 31 - 1)) := by
  have hseen := hbmIssue_seen s p hrank sym
  obtain ⟨hleft, hopen⟩ := pchan_hbmSent s p r
  have hsent := out_hbmSent s p r
  have hshown := rd_latencyShown (s.hbmSent p r) r (s.time.mono - r.at_)
  rw [rd_hbmSent] at hshown
  rw [hqueue] at hleft
  refine ⟨_, exec_issue_one hnone hqueue, ?_⟩
  show ((s.hbmIssue p r 0 sym).pchan p).queue = [] ∧ _
  generalize s.hbmSent p r = u at hseen hleft hopen hsent hshown
  have hchan : (s.hbmIssue p r 0 sym).pchan p = u.pchan p := by
    rw [pchan_of_hbm hseen.chans]
    exact State.pchan_wr _ _ _ _
  refine ⟨by rw [hchan, hleft]; rfl, ?_, ?_, (hseen.latency.rd ⟨_, hport, rfl⟩).trans hshown⟩
  · show _ ∈ ((s.hbmIssue p r 0 sym).pchan p).openRows
    rw [hchan]
    exact hopen
  · show _ ∈ (s.hbmIssue p r 0 sym).out
    rw [hseen.out]
    exact (State.wr_out u _ _).symm ▸ hsent

/-! ### Urgency (R603) -/

/-- A request's urgency rises. -/
def State.raised (s : State) (p i u : Nat) (r : HbmReq) : State :=
  s.setPchan p { s.pchan p with queue := (s.pchan p).queue.set i { r with urgency := u } }

theorem exec_urgencyRise {s : State} {p i u : Nat} {r : HbmReq} (hat : (s.pchan p).queue[i]? = some r)
    (hu : u = urgencyOf r.target (s.time.mono - r.at_)) (hkind : r.req.kind ≠ 1) (hrises : r.urgency < u) :
    exec (.urgencyRise p i) s = .next (if u = 3 then (s.raised p i u r).urgent3 r.req.rank r.req.port else s.raised p i u r) := by
  show execUrgencyRise p i s = _
  unfold execUrgencyRise
  dsimp only
  rw [hat]
  dsimp only
  rw [if_neg hkind, ← hu]
  exact if_pos hrises

theorem exec_urgencyRise_stays {s : State} {p i : Nat} {r : HbmReq} (hat : (s.pchan p).queue[i]? = some r) (hkind : r.req.kind = 1) :
    exec (.urgencyRise p i) s = .next s := by
  show execUrgencyRise p i s = _
  unfold execUrgencyRise
  dsimp only
  rw [hat]
  dsimp only
  rw [if_pos hkind]
  exact if_neg (Nat.not_lt_zero _)

theorem urgencyRises {s : State} {p i u : Nat} {r : HbmReq} (hat : (s.pchan p).queue[i]? = some r)
    (hu : u = urgencyOf r.target (s.time.mono - r.at_)) (hkind : r.req.kind ≠ 1) (hrises : r.urgency < u) :
    completes (.urgencyRise p i) s fun t => (t.pchan p).queue = (s.pchan p).queue.set i { r with urgency := u } ∧
      t.rd (Reg.HBM_PORT_URG3_COUNT r.req.port) = (s.rd (Reg.HBM_PORT_URG3_COUNT r.req.port) + (if u = 3 then 1 else 0)) % 2 ^ 32 := by
  have hqueue : ((s.raised p i u r).pchan p).queue = (s.pchan p).queue.set i { r with urgency := u } := by
    unfold State.raised
    rw [State.pchan_setPchan]
  have hrd : (s.raised p i u r).rd (Reg.HBM_PORT_URG3_COUNT r.req.port) = s.rd (Reg.HBM_PORT_URG3_COUNT r.req.port) := rd_setPchan _ _ _ _
  refine ⟨_, exec_urgencyRise hat hu hkind hrises, ?_⟩
  generalize s.raised p i u r = v at hqueue hrd
  by_cases hthree : u = 3
  · rw [if_pos hthree, if_pos hthree]
    unfold State.urgent3
    exact ⟨by rw [State.pchan_bump, State.pchan_cnt, hqueue],
      (rd_bump_same _ _ 1 (show 0 + 32 ≤ 32 by decide)).trans (by rw [rd_cnt, hrd])⟩
  · rw [if_neg hthree, if_neg hthree]
    exact ⟨hqueue, hrd.trans (Nat.mod_eq_of_lt (rd_lt s _)).symm⟩

/-! ### The interval boundary (R606, R607) -/

/-- The stack shows its interval. -/
def State.intervalShown (s : State) (p : Nat) : State :=
  s.wr (Reg.HBM_STK_REF_REF_INT_NS (p / 32)) (if s.rd (Reg.HBM_STK_TEMP_DOUBLE (p / 32)) = 1 then 1950 else 3900)

/-- A pseudo-channel after its interval boundary. -/
def PChan.boundary (x : PChan) : PChan :=
  if 0 < x.pulled then { x with pulled := x.pulled - 1 }
  else if x.urgent = true ∧ x.postponed < 4 then { x with postponed := x.postponed + 1 }
  else { x with postponed := 0, openRows := [] }

theorem outcome_boundary (s : State) (p : Nat) :
    (if 0 < (s.pchan p).pulled then
      (.next (s.setPchan p { s.pchan p with pulled := (s.pchan p).pulled - 1 }) : Host.Outcome State Fault Refusal)
    else if (s.pchan p).urgent = true ∧ (s.pchan p).postponed < 4 then
      .next (s.setPchan p { s.pchan p with postponed := (s.pchan p).postponed + 1 })
    else .next (s.doRefresh p)) = .next (s.setPchan p (s.pchan p).boundary) := by
  unfold State.doRefresh PChan.boundary
  split
  · rfl
  · split <;> rfl

theorem exec_refresh (s : State) (p : Nat) : exec (.refresh p) s = .next ((s.intervalShown p).setPchan p (s.pchan p).boundary) := by
  have hchan : (s.intervalShown p).pchan p = s.pchan p := State.pchan_wr _ _ _ _
  rw [← hchan]
  exact outcome_boundary (s.intervalShown p) p

theorem interval_shown (s : State) (p : Nat) : (s.intervalShown p).rd (Reg.HBM_STK_REF_REF_INT_NS (p / 32)) =
    if s.rd (Reg.HBM_STK_TEMP_DOUBLE (p / 32)) = 1 then 1950 else 3900 := by
  refine (rd_wr_same s _ _ (show 0 + 16 ≤ 32 by decide)).trans (Nat.mod_eq_of_lt ?_)
  show (if _ then 1950 else 3900) < 2 ^ 16
  split <;> decide

theorem boundary_eq (x : PChan) : x.boundary.queue = x.queue ∧ x.boundary.pulled = x.pulled - 1 ∧
    x.boundary.postponed = if 0 < x.pulled then x.postponed else if x.urgent = true ∧ x.postponed < 4 then x.postponed + 1 else 0 := by
  unfold PChan.boundary
  by_cases hpulled : 0 < x.pulled
  · simp [hpulled]
  · have hzero : x.pulled = 0 := by omega
    rw [if_neg hpulled, if_neg hpulled]
    split <;> simp [hzero]

/-! ### Temperature (R606, R608) -/

/-- The refresh rate doubles from now on. -/
def State.doubles (s : State) (k : Nat) : State :=
  { s with hbm := { s.hbm with doubledFrom := tset (fun _ => 0) s.hbm.doubledFrom k s.time.mono } }

theorem rd_doubles (s : State) (k : Nat) (f : RegField) : (s.doubles k).rd f = s.rd f := by rfl

/-- The registers of the stack after a reading. -/
def State.tempShown (s : State) (k : Nat) (c : Int) : State :=
  let s1 := (s.countDoubled k).wr (Reg.HBM_STK_TEMP_TEMP_C k) (c % 256).toNat
  let s2 := if 85 ≤ c ∧ s1.rd (Reg.HBM_STK_TEMP_DOUBLE k) = 0 then (s1.doubles k).wr (Reg.HBM_STK_TEMP_DOUBLE k) 1
    else if c < 80 then s1.wr (Reg.HBM_STK_TEMP_DOUBLE k) 0
    else s1
  s2.wr (Reg.HBM_STK_TEMP_HOT k) (if 95 ≤ c then 1 else 0)

/-- The stack halves its bandwidth and tells why. -/
def State.tempHalves (s : State) (k : Nat) : State :=
  let s4 := (s.hbmErr (16 + k) 0x0B02).wr Reg.PWR_EVENT_HBM_THROTTLE 1
  { s4 with pwr := { s4.pwr with hbmHalf := if s4.pwr.hbmHalf.contains k then s4.pwr.hbmHalf else s4.pwr.hbmHalf ++ [k] } }

/-- The stack has its whole bandwidth again. -/
def State.tempWhole (s : State) (k : Nat) : State := { s with pwr := { s.pwr with hbmHalf := s.pwr.hbmHalf.filter (fun t => t != k) } }

theorem exec_hbmTempReading (s : State) (k : Nat) (c : Int) : exec (.hbmTempReading k c) s =
    if 95 ≤ c then .next ((s.tempShown k c).tempHalves k) else if c < 90 then .next ((s.tempShown k c).tempWhole k)
    else .next (s.tempShown k c) := by rfl

theorem rd_countDoubled (s : State) (k : Nat) (f : RegField) : (s.countDoubled k).rd f = s.rd f :=
  rd_of_reg (reg_of_regs ((State.countDoubled_keeps (L := 8912896) s k rfl (.refl s)).parts.same .regs rfl) _)

theorem temp_tempShown (s : State) (k : Nat) (c : Int) : (s.tempShown k c).rd (Reg.HBM_STK_TEMP_TEMP_C k) = (c % 256).toNat := by
  have hlt : (c % 256).toNat < 2 ^ 8 := by
    have hpos := Int.emod_nonneg c (b := 256) (by decide)
    have hlt := Int.emod_lt_of_pos c (b := 256) (by decide)
    omega
  have hwr : ∀ t : State, (t.wr (Reg.HBM_STK_TEMP_TEMP_C k) (c % 256).toNat).rd (Reg.HBM_STK_TEMP_TEMP_C k) = (c % 256).toNat := fun t =>
    (rd_wr_same t _ _ (show 0 + 8 ≤ 32 by decide)).trans (Nat.mod_eq_of_lt hlt)
  have hdouble : ∀ (t : State) (v : Nat), (t.wr (Reg.HBM_STK_TEMP_DOUBLE k) v).rd (Reg.HBM_STK_TEMP_TEMP_C k) =
      t.rd (Reg.HBM_STK_TEMP_TEMP_C k) := fun t v => rd_wr_part_other t (Reg.HBM_STK_TEMP k) v (by decide) (by decide)
  unfold State.tempShown
  refine (rd_wr_part_other _ (Reg.HBM_STK_TEMP k) _ (by decide) (by decide)).trans ?_
  exact ite_both (P := fun t : State => t.rd (Reg.HBM_STK_TEMP_TEMP_C k) = _) ((hdouble _ 1).trans ((rd_doubles _ _ _).trans (hwr _)))
    (ite_both (P := fun t : State => t.rd (Reg.HBM_STK_TEMP_TEMP_C k) = _) ((hdouble _ 0).trans (hwr _)) (hwr _))

theorem hot_tempShown (s : State) (k : Nat) (c : Int) : (s.tempShown k c).rd (Reg.HBM_STK_TEMP_HOT k) = if 95 ≤ c then 1 else 0 := by
  unfold State.tempShown
  refine (rd_wr_same _ _ _ (show 30 + 1 ≤ 32 by decide)).trans (Nat.mod_eq_of_lt ?_)
  show (if 95 ≤ c then 1 else 0) < 2 ^ 1
  split <;> decide

theorem double_tempShown (s : State) (k : Nat) (c : Int) : (s.tempShown k c).rd (Reg.HBM_STK_TEMP_DOUBLE k) =
    if 85 ≤ c then 1 else if c < 80 then 0 else s.rd (Reg.HBM_STK_TEMP_DOUBLE k) := by
  have hbefore : ∀ v, ((s.countDoubled k).wr (Reg.HBM_STK_TEMP_TEMP_C k) v).rd (Reg.HBM_STK_TEMP_DOUBLE k) =
      s.rd (Reg.HBM_STK_TEMP_DOUBLE k) := fun v =>
    (rd_wr_part_other _ (Reg.HBM_STK_TEMP k) v (by decide) (by decide)).trans (rd_countDoubled s k _)
  have hbit := rd_lt s (Reg.HBM_STK_TEMP_DOUBLE k)
  unfold State.tempShown
  refine (rd_wr_part_other _ (Reg.HBM_STK_TEMP k) _ (by decide) (by decide)).trans ?_
  by_cases hwarm : 85 ≤ c
  · rw [if_pos hwarm]
    by_cases hsingle : s.rd (Reg.HBM_STK_TEMP_DOUBLE k) = 0
    · rw [if_pos ⟨hwarm, (hbefore _).trans hsingle⟩]
      exact rd_wr_same _ _ 1 (show 31 + 1 ≤ 32 by decide)
    · rw [if_neg fun h => hsingle ((hbefore _).symm.trans h.2), if_neg (by omega), hbefore]
      exact Nat.le_antisymm (Nat.le_of_lt_succ hbit) (Nat.one_le_iff_ne_zero.mpr hsingle)
  · rw [if_neg hwarm, if_neg fun h => hwarm h.1]
    by_cases hcool : c < 80
    · rw [if_pos hcool, if_pos hcool]
      exact rd_wr_same _ _ 0 (show 31 + 1 ≤ 32 by decide)
    · rw [if_neg hcool, if_neg hcool]
      exact hbefore _

theorem tempHalves_regs (s : State) (k : Nat) : SameRegs isHbm s (s.tempHalves k) := by
  have htold : SameRegs isHbm s ((s.hbmErr (16 + k) 0x0B02).wr Reg.PWR_EVENT_HBM_THROTTLE 1) :=
    .wr (hbmErr_regs s (16 + k) 0x0B02 0 0) 1 (by simp only [isHbm]; decide)
  unfold State.tempHalves
  exact htold.with rfl

theorem half_tempHalves (s : State) (k : Nat) : k ∈ (s.tempHalves k).pwr.hbmHalf := by
  show k ∈ if _ then _ else _
  split
  next hin => exact List.contains_iff_mem.mp hin
  · exact List.mem_append_right _ List.mem_cons_self

theorem throttle_tempHalves (s : State) (k : Nat) : (s.tempHalves k).rd Reg.PWR_EVENT_HBM_THROTTLE = 1 := by
  unfold State.tempHalves
  exact (rd_withPwr _ _ _).trans (rd_wr_same _ _ 1 (by decide))

theorem rd_tempWhole (s : State) (k : Nat) (f : RegField) : (s.tempWhole k).rd f = s.rd f := by rfl

theorem whole_tempWhole (s : State) (k : Nat) : k ∉ (s.tempWhole k).pwr.hbmHalf := by
  show k ∉ s.pwr.hbmHalf.filter (fun t => t != k)
  simp

theorem isHbm_temp {k : Nat} (hk : k < 2) : isHbm (Reg.HBM_STK_TEMP k) := by
  simp only [isHbm, Reg.HBM_STK_TEMP, Reg.HBM_ERR]
  omega

theorem tempReads {s : State} {k : Nat} (hk : k < 2) (c : Int) : completes (.hbmTempReading k c) s fun t =>
    t.rd (Reg.HBM_STK_TEMP_TEMP_C k) = (c % 256).toNat ∧ t.rd (Reg.HBM_STK_TEMP_HOT k) = (if 95 ≤ c then 1 else 0) ∧
    t.rd (Reg.HBM_STK_TEMP_DOUBLE k) = (if 85 ≤ c then 1 else if c < 80 then 0 else s.rd (Reg.HBM_STK_TEMP_DOUBLE k)) ∧
    (95 ≤ c → k ∈ t.pwr.hbmHalf ∧ t.rd Reg.PWR_EVENT_HBM_THROTTLE = 1) ∧ (c < 90 → k ∉ t.pwr.hbmHalf) := by
  have htemp := temp_tempShown s k c
  have hhot := hot_tempShown s k c
  have hdouble := double_tempShown s k c
  have hexec := exec_hbmTempReading s k c
  generalize s.tempShown k c = v at htemp hhot hdouble hexec
  by_cases h95 : 95 ≤ c
  · have hregs := tempHalves_regs v k
    exact ⟨_, hexec.trans (if_pos h95), (hregs.rd (isHbm_temp hk)).trans htemp, (hregs.rd (isHbm_temp hk)).trans hhot,
      (hregs.rd (isHbm_temp hk)).trans hdouble, fun _ => ⟨half_tempHalves v k, throttle_tempHalves v k⟩, fun h90 => absurd h90 (by omega)⟩
  · rw [if_neg h95] at hexec
    by_cases h90 : c < 90
    · exact ⟨_, hexec.trans (if_pos h90), (rd_tempWhole v k _).trans htemp, (rd_tempWhole v k _).trans hhot,
        (rd_tempWhole v k _).trans hdouble, fun h => absurd h h95, fun _ => whole_tempWhole v k⟩
    · exact ⟨_, hexec.trans (if_neg h90), htemp, hhot, hdouble, fun h => absurd h h95, fun h => absurd h h90⟩

/-! ### Training (R609, R610) -/

/-- What a training leaves in the stack's register. -/
def State.trained (s : State) (k : Nat) (ok : Bool) : State :=
  if s.rd (Reg.HBM_STK_TRAIN_TRAIN_OK k) = 1 then
    if ok then s.bump (Reg.HBM_STK_TRAIN_RETRAINS k) else (s.bump (Reg.HBM_STK_TRAIN_RETRAINS k)).bumpSat (Reg.HBM_STK_TRAIN_RETRAIN_FAIL k)
  else if ok then s.wr (Reg.HBM_STK_TRAIN_TRAIN_OK k) 1 else s

theorem exec_hbmTrainingDone (s : State) (k p : Nat) (ok : Bool) : exec (.hbmTrainingDone k p ok) s =
    .next (if ok then s.trained k ok else (s.trained k ok).hbmTold (16 + k) 0x0B01 k p) := by
  show execHbmTrainingDone k p ok s = _
  unfold execHbmTrainingDone
  exact (apply_ite Host.Outcome.next _ _ _).symm

theorem rd_bumpSat (s : State) (a lo w : Nat) (h : lo + w ≤ 32) :
    (s.bumpSat ⟨a, lo, w⟩).rd ⟨a, lo, w⟩ = min (2 ^ w - 1) (s.rd ⟨a, lo, w⟩ + 1) := by
  have hlt := rd_lt s ⟨a, lo, w⟩
  unfold State.bumpSat
  split
  next hroom =>
    refine (rd_wr_same s _ _ h).trans ((Nat.mod_eq_of_lt hroom).trans ?_)
    simp only at hroom hlt
    omega
  next hfull =>
    simp only at hfull hlt
    omega

theorem isHbm_train {k : Nat} (hk : k < 2) : isHbm (Reg.HBM_STK_TRAIN k) := by
  simp only [isHbm, Reg.HBM_STK_TRAIN, Reg.HBM_ERR]
  omega

/-- A re-training is counted, and its failure up to 255 times. -/
theorem trained_again {s : State} {k : Nat} (ok : Bool) (hok : s.rd (Reg.HBM_STK_TRAIN_TRAIN_OK k) = 1) :
    (s.trained k ok).rd (Reg.HBM_STK_TRAIN_TRAIN_OK k) = 1 ∧
    (s.trained k ok).rd (Reg.HBM_STK_TRAIN_RETRAINS k) = (s.rd (Reg.HBM_STK_TRAIN_RETRAINS k) + 1) % 2 ^ 8 ∧
    (s.trained k ok).rd (Reg.HBM_STK_TRAIN_RETRAIN_FAIL k) = (if ok = true then s.rd (Reg.HBM_STK_TRAIN_RETRAIN_FAIL k)
      else min 255 (s.rd (Reg.HBM_STK_TRAIN_RETRAIN_FAIL k) + 1)) := by
  have hbump : ∀ lo w, 8 ≤ lo → (s.bump (Reg.HBM_STK_TRAIN_RETRAINS k)).rd ⟨Reg.HBM_STK_TRAIN k, lo, w⟩ = s.rd ⟨Reg.HBM_STK_TRAIN k, lo, w⟩ :=
    fun lo w hlo => rd_wr_part_other s (Reg.HBM_STK_TRAIN k) _ (by decide) (.inr (by omega))
  have hcount : (s.bump (Reg.HBM_STK_TRAIN_RETRAINS k)).rd (Reg.HBM_STK_TRAIN_RETRAINS k) = (s.rd (Reg.HBM_STK_TRAIN_RETRAINS k) + 1) % 2 ^ 8 :=
    rd_bump_same s _ 1 (show 0 + 8 ≤ 32 by decide)
  unfold State.trained
  rw [if_pos hok]
  cases ok
  · rw [if_neg Bool.false_ne_true, if_neg Bool.false_ne_true]
    have hother : ∀ (t : State) (lo w : Nat), lo + w ≤ 8 ∨ 16 ≤ lo → (t.bumpSat (Reg.HBM_STK_TRAIN_RETRAIN_FAIL k)).rd ⟨Reg.HBM_STK_TRAIN k, lo, w⟩ =
        t.rd ⟨Reg.HBM_STK_TRAIN k, lo, w⟩ := fun t lo w h =>
      ite_both (P := fun u : State => u.rd ⟨Reg.HBM_STK_TRAIN k, lo, w⟩ = t.rd ⟨Reg.HBM_STK_TRAIN k, lo, w⟩)
        (rd_wr_part_other t (Reg.HBM_STK_TRAIN k) _ (by decide) h) rfl
    exact ⟨(hother _ 31 1 (by decide)).trans ((hbump 31 1 (by decide)).trans hok), (hother _ 0 8 (by decide)).trans hcount,
      (rd_bumpSat _ _ 8 8 (by decide)).trans (by rw [hbump 8 8 (by decide)]; rfl)⟩
  · rw [if_pos rfl, if_pos rfl]
    exact ⟨(hbump 31 1 (by decide)).trans hok, hcount, hbump 8 8 (by decide)⟩

theorem reTrains {s : State} {k : Nat} (hk : k < 2) (p : Nat) (ok : Bool) (hok : s.rd (Reg.HBM_STK_TRAIN_TRAIN_OK k) = 1) :
    completes (.hbmTrainingDone k p ok) s fun t => t.rd (Reg.HBM_STK_TRAIN_TRAIN_OK k) = 1 ∧
      t.rd (Reg.HBM_STK_TRAIN_RETRAINS k) = (s.rd (Reg.HBM_STK_TRAIN_RETRAINS k) + 1) % 2 ^ 8 ∧
      t.rd (Reg.HBM_STK_TRAIN_RETRAIN_FAIL k) = (if ok = true then s.rd (Reg.HBM_STK_TRAIN_RETRAIN_FAIL k)
        else min 255 (s.rd (Reg.HBM_STK_TRAIN_RETRAIN_FAIL k) + 1)) := by
  obtain ⟨hstays, hcount, hfail⟩ := trained_again ok hok
  have htold := hbmTold_regs (s.trained k ok) (16 + k) 0x0B01 k p
  refine ⟨_, exec_hbmTrainingDone s k p ok, ?_⟩
  generalize s.trained k ok = v at hstays hcount hfail htold
  cases ok
  · exact ⟨(htold.rd (isHbm_train hk)).trans hstays, (htold.rd (isHbm_train hk)).trans hcount, (htold.rd (isHbm_train hk)).trans hfail⟩
  · exact ⟨hstays, hcount, hfail⟩

theorem trainsFirst {s : State} {k : Nat} (p : Nat) (hok : s.rd (Reg.HBM_STK_TRAIN_TRAIN_OK k) = 0) :
    completes (.hbmTrainingDone k p true) s fun t => t.rd (Reg.HBM_STK_TRAIN_TRAIN_OK k) = 1 ∧ onlyRegs [Reg.HBM_STK_TRAIN k] s t := by
  have htrained : s.trained k true = s.wr (Reg.HBM_STK_TRAIN_TRAIN_OK k) 1 := if_neg (by rw [hok]; decide)
  refine ⟨_, (exec_hbmTrainingDone s k p true).trans (congrArg _ ((if_pos rfl).trans htrained)), ?_, onlyRegs_wr s _ 1⟩
  exact rd_wr_same s _ 1 (show 31 + 1 ≤ 32 by decide)

theorem trainFails {s : State} {k : Nat} (hk : k < 2) (p : Nat) (hok : s.rd (Reg.HBM_STK_TRAIN_TRAIN_OK k) = 0) :
    completes (.hbmTrainingDone k p false) s fun t => t.rd (Reg.HBM_STK_TRAIN_TRAIN_OK k) = 0 := by
  have htrained : s.trained k false = s := if_neg (by rw [hok]; decide)
  refine ⟨_, exec_hbmTrainingDone s k p false, ?_⟩
  rw [htrained]
  exact ((hbmTold_regs s (16 + k) 0x0B01 k p).rd (isHbm_train hk)).trans hok

/-! ### Patrol scrub and poisoned reads (R612, R613) -/

theorem exec_patrolScrub {s : State} (hon : s.rd Reg.HBM_CTRL_SCRUB_EN = 1) (hpower : s.rd Reg.PWR_STATUS_STATE < 3) (r line sym : Nat) :
    exec (.patrolScrub r line sym) s = .next (s.readLine r line sym) := if_pos ⟨hon, hpower⟩

theorem readLine_clean (s : State) (r line : Nat) : s.readLine r line 0 = s := if_pos (.inr rfl)

theorem readLine_corrects {s : State} {line sym : Nat} (r : Nat) (hclean : line ∉ s.hbm.poison) (hsome : 0 < sym) (hfew : sym ≤ 3) :
    s.readLine r line sym = s.correctLine r := by
  unfold State.readLine
  refine (if_neg ?_).trans (if_pos hfew)
  rintro (h | h)
  · exact hclean (List.contains_iff_mem.mp h)
  · omega

theorem readLine_poisons {s : State} {line sym : Nat} (r : Nat) (hclean : line ∉ s.hbm.poison) (hmany : 3 < sym) :
    s.readLine r line sym = s.poisonLine r line := by
  unfold State.readLine
  refine (if_neg ?_).trans (if_neg (by omega))
  rintro (h | h)
  · exact hclean (List.contains_iff_mem.mp h)
  · omega

theorem exec_poisonRead_clean {s : State} {line : Nat} (reader who : Nat) (hclean : line ∉ s.hbm.poison) :
    exec (.hbmPoisonRead line reader who) s = .next s := if_neg fun h => hclean (List.contains_iff_mem.mp h)

/-- A poisoned read is counted and told. -/
def State.poisonTold (s : State) (line : Nat) : State :=
  (s.cnt 0x0B02 (tget (fun _ => 0) s.hbm.poisonRank line)).hbmTold 63 0x0B05 (line * 64 % 2 ^ 32) (line * 64 / 2 ^ 32)

theorem poisonTold_hbm (s : State) (line : Nat) : (s.poisonTold line).hbm = s.hbm := hbmTold_hbm _ _ _ _ _

/-- The state that a poisoned read of a stream's checkpoint finds for the stream. -/
theorem exec_poisonRead_ckpt {s : State} {line : Nat} (who : Nat) (hpoison : line ∈ s.hbm.poison) : ∃ x : Stream,
    exec (.hbmPoisonRead line 1 who) s = .next ((s.poisonTold line).setStream who { x with rebuild := true }) :=
  ⟨_, if_pos (List.contains_iff_mem.mpr hpoison)⟩

/-- The mirror is no longer valid and is rebuilt. -/
def State.mirrorLost (s : State) : State :=
  let s2 := s.wr Reg.HIF_JRNL_CFG_MIRROR_VALID 0
  { s2 with jrnl := { s2.jrnl with rebuilding := true } }

theorem exec_poisonRead_mirror {s : State} {line : Nat} (who : Nat) (hpoison : line ∈ s.hbm.poison) :
    exec (.hbmPoisonRead line 2 who) s = .next (s.poisonTold line).mirrorLost := if_pos (List.contains_iff_mem.mpr hpoison)

theorem rd_withJrnl (s : State) (x : Jrnl) (f : RegField) : ({ s with jrnl := x } : State).rd f = s.rd f := by rfl

theorem mirrorLost_lost (s : State) : s.mirrorLost.rd Reg.HIF_JRNL_CFG_MIRROR_VALID = 0 ∧ s.mirrorLost.jrnl.rebuilding = true ∧
    s.mirrorLost.hbm = s.hbm := by
  have hkeeps : Keeps 5 s s.mirrorLost := Keeps.upd (m := 4) rfl (State.wr_keeps s _ _ rfl (.refl s))
  refine ⟨?_, rfl, hkeeps.parts.same .hbm rfl⟩
  unfold State.mirrorLost
  exact (rd_withJrnl _ _ _).trans (rd_wr_same s _ 0 (by decide))

theorem exec_hbmPortMaxlatClear {s : State} {p : Nat} (h : reaches s (Reg.HBM_PORT_MAXLAT p)) :
    exec (.hbmPortMaxlatClear p) s = .next (s.wr (Reg.HBM_PORT_MAXLAT_NS p) 0) :=
  exec_of_reaches (f := fun s => s.wr (Reg.HBM_PORT_MAXLAT_NS p) 0) h rfl

end Sys2Proof.Machine

namespace Sys2Proof
open Machine

/-- Settles O41: the queue, the refreshes, the temperature, the training and the errors of HBM, each by its own command. -/
theorem hbmServesRefreshesTrainsAndPoisons : Obligations.HbmServesRefreshesTrainsAndPoisons := by
  unfold Obligations.HbmServesRefreshesTrainsAndPoisons
  refine ⟨fun s p sym parity howed hcalm => ?_, fun s p sym parity hnone hidle hpulled => ?_,
    fun s p sym r hnone hqueue hport hrank => ⟨requestIssues hnone hqueue hport hrank, ?_⟩,
    fun s p i u r hat hport hu => ⟨fun hkind => ⟨s, exec_urgencyRise_stays hat hkind, rfl⟩, urgencyRises hat hu⟩,
    fun s p _ => ?_, fun s k c hk => tempReads hk c,
    fun s k p hk => ⟨trainsFirst p, trainFails hk p, fun ok => reTrains hk p ok⟩, fun s p => ⟨s, rfl, rfl⟩,
    fun s r line sym hr hon hpower hclean => ⟨fun hzero => ?_, fun hsome hfew => ?_, fun hmany => ?_⟩,
    fun s line => ⟨fun reader who hclean => ⟨s, exec_poisonRead_clean reader who hclean, rfl⟩, fun who hpoison => ?_, fun who hpoison => ?_⟩,
    fun s p _ hreach => ?_⟩
  · refine ⟨_, exec_issue_refreshes howed hcalm, ?_⟩
    beta_reduce
    rw [pchan_doRefresh]
    exact ⟨rfl, rfl, rfl, rfl⟩
  · refine ⟨_, exec_issue_idle hnone hidle hpulled, ?_⟩
    unfold State.pullsIn
    beta_reduce
    rw [State.pchan_setPchan, pchan_doRefresh]
    exact ⟨rfl, rfl, rfl⟩
  · exact ⟨_, exec_issue_one hnone hqueue, hqueue, rfl, rfl⟩
  · obtain ⟨hqueue, hpulled, hpostponed⟩ := boundary_eq (s.pchan p)
    refine ⟨_, exec_refresh s p, (rd_setPchan _ _ _ _).trans (interval_shown s p), ?_⟩
    rw [State.pchan_setPchan]
    exact ⟨hqueue, hpulled, hpostponed⟩
  · exact ⟨_, exec_patrolScrub hon hpower r line sym, by rw [hzero]; exact readLine_clean s r line⟩
  · refine ⟨_, exec_patrolScrub hon hpower r line sym, ?_⟩
    beta_reduce
    rw [readLine_corrects r hclean hsome hfew]
    exact ⟨ceTotal_correctLine s r, (congrArg HbmSt.poison (hbm_correctLine s r)).trans (poison_ceNoted s r)⟩
  · refine ⟨_, exec_patrolScrub hon hpower r line sym, ?_⟩
    beta_reduce
    rw [readLine_poisons r hclean hmany]
    exact ⟨poison_poisonLine r hclean, ueRanks_poisonLine s r line, ue_poisonLine s hr line, poisoned_poisonLine r hclean⟩
  · obtain ⟨x, hexec⟩ := exec_poisonRead_ckpt who hpoison
    exact ⟨_, hexec, congrArg Stream.rebuild (State.stream_setStream _ _ _)⟩
  · obtain ⟨hlost, hrebuilds, hkept⟩ := mirrorLost_lost (s.poisonTold line)
    exact ⟨_, exec_poisonRead_mirror who hpoison, hlost, hrebuilds, by rw [hkept, poisonTold_hbm]⟩
  · exact ⟨_, exec_hbmPortMaxlatClear hreach, rd_wr_same s _ 0 (show 0 + 31 ≤ 32 by decide), onlyRegs_wr s _ 0⟩

end Sys2Proof
end

section
/-! SUPPORT. The claim on Ranlink ports fails: a job that a lost link ends returns a buffer whose recorded owner is none of the 32. -/

set_option Elab.async false

namespace Sys2Proof

open Machine

/-- A program of one node, an XFR_RECV from device 1 with no fallback (R652). -/
def recvProg : Prog := { routes := [(0, 1)], words := [BitVec.ofNat 128 (packBits [(116, 8, 0x61), (61, 3, 1)])] }

/-- A started job of that program, whose hash set lies in buffer 0 of pool class 1. -/
def recvJob : Job :=
  { id := 1, kind := .tile 0 1 0 0, prog := 0, route := 0, svc := 0, ticket := 0, started := true, plan := some []
    sets := [{ node := 0, cap := 0, bufs := (1, [0]) }] }

/-- Port 1 is UP, LNK_STATUS shows device 1, and the held bit of buffer 0 of class 1 names owner 0x5FE2: HELD of that owner and class would
lie at the address of LNK_PORT_STATUS of port 1. -/
def strayOwner : State :=
  { ((State.reset.wr (Reg.LNK_PORT_STATUS_STATE 1) 2).wr Reg.LNK_STATUS_REACH 2).setPool 1 { held := [(0, some 0x5FE2)] } with
    progs := [(0, recvProg)], jobs := [recvJob] }

theorem strayOwner_collides : Reg.POOL_OWN_HELD 0x5FE2 1 = Reg.LNK_PORT_STATUS 1 := by decide

/-- What the state after a command says of a number; 0 where the command does not complete. -/
def readAfter (f : State → Nat) (o : Host.Outcome State Fault Refusal) : Nat :=
  match o with
  | .next t => f t
  | _ => 0

theorem portSt_after_portDown : readAfter (fun t => t.portSt 1) (exec (.portDown 1) strayOwner) = 3 := by decide +kernel

/-- Refutes O39: in `strayOwner` PORT_DOWN of port 1 leaves its STATE at 3, where the statement has it 4.  The job that needs device 1 ends
with LNK_UNREACHABLE (R650), its buffer returns to its pool, and HELD of the owner 0x5FE2 is lowered at the address of LNK_PORT_STATUS; no
hypothesis of the statement keeps the owners of held buffers below 32. -/
theorem not_ranlinkPortsFollowTheirEvents : ¬ Obligations.RanlinkPortsFollowTheirEvents := by
  unfold Obligations.RanlinkPortsFollowTheirEvents
  rintro ⟨-, -, -, -, -, hdown, -⟩
  have hup : strayOwner.portSt 1 = 2 := by decide +kernel
  obtain ⟨t, hexec, hstate⟩ := hdown strayOwner 1 (by decide) hup
  have hafter := portSt_after_portDown
  rw [hexec] at hafter
  exact absurd (hstate.symm.trans hafter) (by decide)

end Sys2Proof
end

section
/-! SUPPORT. The claim on on-chip memories fails: a job that runs again returns a plan copy of a pool class that does not exist. -/

set_option Elab.async false

namespace Sys2Proof

open Machine

/-- A job whose plan copy is said to lie in buffer 0 of pool class 0x3FFC. -/
def planJob : Job :=
  { id := 1, kind := .tile 0 1 0 0, prog := 0, route := 0, svc := 0, ticket := 0, started := true, plan := some [(0, 0x3FFC, [0])] }

/-- One uncorrectable error has been counted, and class 0x3FFC, whose HEADROOM would lie at the address of MEM_ECC_UNCORR, has a buffer
held. -/
def strayClass : State :=
  { (State.reset.wr Reg.MEM_ECC_UNCORR_COUNT 1).setPool 0x3FFC { held := [(0, some 0)] } with jobs := [planJob] }

theorem strayClass_collides : Reg.POOL_CLS_HEADROOM 0x3FFC = Reg.MEM_ECC_UNCORR := by decide

theorem count_after_error :
    readAfter (fun t => t.rd Reg.MEM_ECC_UNCORR_COUNT) (exec (.onChipEccError 2 0 0 (some 1) false) strayClass) = 1 := by decide +kernel

/-- Refutes O40: in `strayClass` an uncorrectable error of a station buffer leaves MEM_ECC_UNCORR at 1, where the statement has it 2.  The
owning job runs again (R591), its plan copy returns to its pool (R575), and HEADROOM of the class is written at the address of
MEM_ECC_UNCORR; no hypothesis of the statement keeps the classes of plan copies below 8. -/
theorem not_memoriesAllocatePassWaysAndCountErrors : ¬ Obligations.MemoriesAllocatePassWaysAndCountErrors := by
  unfold Obligations.MemoriesAllocatePassWaysAndCountErrors
  rintro ⟨-, -, -, huncorr, -⟩
  obtain ⟨t, hexec, hcount, -⟩ := huncorr strayClass 2 0 0 (some 1)
  have hbefore : strayClass.rd Reg.MEM_ECC_UNCORR_COUNT = 1 := by decide +kernel
  have hafter := count_after_error
  rw [hexec] at hafter
  rw [hbefore] at hcount
  exact absurd (hcount.symm.trans hafter) (by decide)

end Sys2Proof
end

section
/-! SUPPORT. Pools: draws, frees, refills, enables, disables and the writes of reserves and thresholds (R568 to R583). -/

set_option Elab.async false

namespace Sys2Proof.Machine

/-! ### What the registers of a class that follow its counts leave alone -/

theorem poolC_of_pools {s t : State} (h : t.pools = s.pools) (c : Nat) : t.poolC c = s.poolC c := by
  unfold State.poolC
  rw [h]

theorem poolErr_pools (s : State) (code wh d0 d1 : Nat) : (s.poolErr code wh d0 d1).pools = s.pools :=
  (poolErr_records s code wh d0 d1).pools

theorem rd_poolErr_valid (s : State) (code wh d0 d1 : Nat) : (s.poolErr code wh d0 d1).rd Reg.POOL_ERR_VALID = 1 :=
  (rd_file _ _ _ _ _ _ _ (by decide) (by decide)).trans (rd_setErr_valid s _ true (16, 6, wh) code (by simp) (by simp))

theorem rd_poolErr_code {s : State} (h : s.rd Reg.POOL_ERR_VALID = 0) (code wh d0 d1 : Nat) :
    (s.poolErr code wh d0 d1).rd Reg.POOL_ERR_CODE = code % 2 ^ 16 :=
  (rd_file _ _ _ _ _ _ _ (by decide) (by decide)).trans (rd_setErr_code s _ true (16, 6, wh) code (by simp) (by simp) h)

/-- A register of a pool that `poolNote` does not write: of class c its CFG, COUNT, THRESH or FREE, or an owner's own. -/
def poolKept (a : Nat) : Prop :=
  ∃ c, c < 8 ∧ (a = Reg.POOL_CLS_CFG c ∨ a = Reg.POOL_CLS_COUNT c ∨ a = Reg.POOL_CLS_THRESH c ∨ a = Reg.POOL_CLS_FREE c ∨
    ∃ o, o < 32 ∧ a = Reg.POOL_OWN_RES o c)

theorem poolKept_page {a : Nat} (h : poolKept a) : a / 0x100000 = 0x19 ∧ a ≠ Reg.POOL_ERR ∧
    ∀ k, k < 8 → a ≠ Reg.POOL_CLS_HEADROOM k ∧ a ≠ Reg.POOL_CLS_STATUS k ∧ a ≠ Reg.POOL_CLS_WAITERS k := by
  obtain ⟨c, hc, rfl | rfl | rfl | rfl | ⟨o, ho, rfl⟩⟩ := h <;> refine ⟨?_, ?_, fun k hk => ⟨?_, ?_, ?_⟩⟩ <;>
  · simp only [Reg.POOL_CLS_CFG, Reg.POOL_CLS_COUNT, Reg.POOL_CLS_THRESH, Reg.POOL_CLS_FREE, Reg.POOL_OWN_RES, Reg.POOL_ERR,
      Reg.POOL_CLS_HEADROOM, Reg.POOL_CLS_STATUS, Reg.POOL_CLS_WAITERS]
    omega

theorem poolErr_kept {s t : State} (h : SameRegs poolKept s t) (code wh d0 d1 : Nat) : SameRegs poolKept s (t.poolErr code wh d0 d1) := by
  refine .poolErr h _ _ _ _ (fun a ha => ?_) fun herr => (poolKept_page herr).2.1 rfl
  have hpage := (poolKept_page ha).1
  omega

/-- The counts of a class shown in its registers, before the low-water event. -/
def State.poolShown (s : State) (c : Nat) : State :=
  (((s.setReg (Reg.POOL_CLS_HEADROOM c) (BitVec.ofNat 32 (s.poolH c))).wr (Reg.POOL_CLS_STATUS_BP c)
    (if s.poolH c ≤ s.poolBp c then 1 else 0)).wr (Reg.POOL_CLS_STATUS_CACHED c) (s.poolC c).cache.length).wr
    (Reg.POOL_CLS_WAITERS_COUNT c) (s.poolC c).stalled.length

/-- The low-water event is given. -/
def State.lowTold (s : State) (c h : Nat) : State :=
  let s2 := ((s.wr (Reg.POOL_CLS_STATUS_LOW c) 1).cnt 0x0D05 c).poolErr 0x0D02 c c h
  (s2.setPool c { s2.poolC c with lowGiven := true }).devError 0x0D02 c h

theorem poolNote_eq (s : State) (c : Nat) : s.poolNote c =
    if s.poolH c ≤ s.poolLow c ∧ (s.poolC c).lowGiven = false then (s.poolShown c).lowTold c (s.poolH c)
    else if s.poolLow c + 64 < s.poolH c then (s.poolShown c).setPool c { s.poolC c with lowGiven := false }
    else s.poolShown c := by rfl

theorem pools_poolShown (s : State) (c : Nat) : (s.poolShown c).pools = s.pools :=
  (State.wr_keeps (L := 1) _ _ _ rfl (State.wr_keeps _ _ _ rfl (State.wr_keeps _ _ _ rfl (State.setReg_keeps s _ _ rfl (.refl s))))).parts.same
    .pools rfl

theorem poolC_lowTold (s : State) (c h : Nat) : (s.lowTold c h).poolC c = { s.poolC c with lowGiven := true } := by
  have herr : (((s.wr (Reg.POOL_CLS_STATUS_LOW c) 1).cnt 0x0D05 c).poolErr 0x0D02 c c h).poolC c = s.poolC c :=
    (poolC_of_pools (poolErr_pools _ _ _ _ _) c).trans ((State.poolC_cnt _ _ _ _ _).trans (State.poolC_wr _ _ _ _))
  unfold State.lowTold
  rw [poolC_of_pools (devError_pools _ _ _ _ _ _), State.poolC_setPool, herr]

/-- Of the class's own data only the mark of the low-water event moves. -/
theorem poolC_poolNote (s : State) (c : Nat) : ∃ b, (s.poolNote c).poolC c = { s.poolC c with lowGiven := b } := by
  have hshown := poolC_of_pools (pools_poolShown s c) c
  rw [poolNote_eq]
  split
  · exact ⟨true, (poolC_lowTold _ _ _).trans (by rw [hshown])⟩
  · split
    · exact ⟨false, State.poolC_setPool _ _ _⟩
    · exact ⟨(s.poolC c).lowGiven, hshown⟩

theorem poolNote_kept (s : State) {c : Nat} (hc : c < 8) : SameRegs poolKept s (s.poolNote c) := by
  have hhead : ¬poolKept (Reg.POOL_CLS_HEADROOM c) := fun h => ((poolKept_page h).2.2 c hc).1 rfl
  have hstatus : ¬poolKept (Reg.POOL_CLS_STATUS c) := fun h => ((poolKept_page h).2.2 c hc).2.1 rfl
  have hwaiters : ¬poolKept (Reg.POOL_CLS_WAITERS c) := fun h => ((poolKept_page h).2.2 c hc).2.2 rfl
  have hlost : ¬poolKept Reg.HIF_SVC_LOST := fun h => absurd (poolKept_page h).1 (by decide)
  have hshown : SameRegs poolKept s (s.poolShown c) := .wr (.wr (.wr (.setReg (.refl s) _ hhead) _ hstatus) _ hstatus) _ hwaiters
  rw [poolNote_eq]
  generalize s.poolShown c = v at hshown
  refine ite_both (P := SameRegs poolKept s) ?_ (ite_both (P := SameRegs poolKept s) (.setPool hshown _ _) hshown)
  exact .devError (.setPool (poolErr_kept (.cnt (.wr hshown 1 hstatus) _ _ _) _ _ _ _) _ _) _ _ _ _ _ hlost

theorem poolState_poolNote (s : State) {c : Nat} (hc : c < 8) : (s.poolNote c).poolState c = s.poolState c := by
  have hbeside : ∀ (t : State) (lo w v : Nat), lo + w ≤ 32 → 3 ≤ lo → (t.wr ⟨Reg.POOL_CLS_STATUS c, lo, w⟩ v).poolState c = t.poolState c :=
    fun t lo w v hw hlo => rd_wr_other t _ (Reg.POOL_CLS_STATUS_STATE c) v hw (.inr (.inl (by simpa using hlo)))
  have hshown : (s.poolShown c).poolState c = s.poolState c := by
    unfold State.poolShown
    refine (rd_wr_reg _ _ (Reg.POOL_CLS_STATUS_STATE c) _ (by simp only [Reg.POOL_CLS_STATUS, Reg.POOL_CLS_WAITERS]; omega)).trans ?_
    refine (hbeside _ 16 10 _ (by decide) (by decide)).trans ((hbeside _ 9 1 _ (by decide) (by decide)).trans ?_)
    exact rd_setReg_other s _ (Reg.POOL_CLS_STATUS_STATE c) _ (by simp only [Reg.POOL_CLS_STATUS, Reg.POOL_CLS_HEADROOM]; omega)
  have htold : ∀ (t : State) (h : Nat), (t.lowTold c h).poolState c = t.poolState c := fun t h => by
    have herr := (poolErr_records ((t.wr (Reg.POOL_CLS_STATUS_LOW c) 1).cnt 0x0D05 c) 0x0D02 c c h).rd (Reg.POOL_CLS_STATUS_STATE c)
      (by simp only [Reg.POOL_CLS_STATUS]; omega) (by simp only [Reg.POOL_CLS_STATUS]; omega)
      (by simp only [Reg.POOL_CLS_STATUS, Reg.POOL_ERR, List.mem_singleton]; omega)
    unfold State.lowTold
    refine (rd_of_reg (reg_devError _ _ _ _ _ _ _ (by simp only [Reg.POOL_CLS_STATUS, Reg.HIF_SVC_LOST]; omega))).trans ?_
    exact herr.trans ((rd_cnt _ _ _ _ _).trans (hbeside t 8 1 1 (by decide) (by decide)))
  rw [poolNote_eq]
  generalize s.poolShown c = v at hshown
  exact ite_both (P := fun t : State => t.poolState c = s.poolState c) ((htold v _).trans hshown)
    (ite_both (P := fun t : State => t.poolState c = s.poolState c) hshown hshown)

/-- What the notes of a class leave: its data but for the mark, its STATE and the registers that control it. -/
structure PoolNoted (s t : State) (c : Nat) : Prop where
  data : ∃ b, t.poolC c = { s.poolC c with lowGiven := b }
  state : t.poolState c = s.poolState c
  regs : SameRegs poolKept s t

theorem poolNote_noted (s : State) {c : Nat} (hc : c < 8) : PoolNoted s (s.poolNote c) c :=
  ⟨poolC_poolNote s c, poolState_poolNote s hc, poolNote_kept s hc⟩

/-! ### Draws (R569, R571, R577) -/

section
variable {s : State} {o c n svc ticket : Nat}

theorem exec_poolDraw_granted (h : s.mayDraw o c n ticket (!failingOwner o) = true) : exec (.poolDraw o c n svc ticket) s =
    .next ((if failingOwner o = true then s else s.tieWon o c ticket).drawNow o c n svc).1 := by
  have hdraw : s.draw o c n svc ticket (failingOwner o) = (((if failingOwner o = true then s else s.tieWon o c ticket).drawNow o c n svc).1,
      some ((if failingOwner o = true then s else s.tieWon o c ticket).drawNow o c n svc).2) := if_pos h
  show execPoolDraw o c n svc ticket s = _
  unfold execPoolDraw
  dsimp only
  rw [hdraw]

/-- A draw of a failing owner is refused. -/
def State.drawRefused (s : State) (o c : Nat) : State := ((s.cnt 0x0D03 c).cnt 0x0D03 (0x100 + o)).poolErr 0x0D03 (32 + o)

theorem exec_poolDraw_refused (hfails : failingOwner o = true) (h : s.mayDraw o c n ticket false = false) :
    exec (.poolDraw o c n svc ticket) s = .next (s.drawRefused o c) := by
  have hdraw : s.draw o c n svc ticket true = (s.drawRefused o c, none) :=
    (if_neg (by rw [Bool.not_true, h]; decide)).trans (if_pos rfl)
  show execPoolDraw o c n svc ticket s = _
  unfold execPoolDraw
  dsimp only
  rw [hfails, hdraw]
  exact if_pos rfl

/-- A draw of a stalling owner waits. -/
def State.drawStalls (s : State) (o c n svc ticket : Nat) : State :=
  ((((s.setPool c { s.poolC c with stalled := (s.poolC c).stalled ++ [{ owner := o, n := n, svc := svc, ticket := ticket }] }).cnt 0x0D02 c).cnt
    0x0D02 (0x100 + o)))

theorem exec_poolDraw_stalls (hfails : failingOwner o = false) (h : s.mayDraw o c n ticket true = false) :
    exec (.poolDraw o c n svc ticket) s = .next ((s.drawStalls o c n svc ticket).poolNote c) := by
  have hdraw : s.draw o c n svc ticket false = (s, none) :=
    (if_neg (by rw [Bool.not_false, h]; decide)).trans (if_neg (by decide))
  show execPoolDraw o c n svc ticket s = _
  unfold execPoolDraw
  dsimp only
  rw [hfails, hdraw]
  exact if_neg (by decide)

theorem poolC_drawStalls : (s.drawStalls o c n svc ticket).poolC c =
    { s.poolC c with stalled := (s.poolC c).stalled ++ [{ owner := o, n := n, svc := svc, ticket := ticket }] } := by
  unfold State.drawStalls
  rw [State.poolC_cnt, State.poolC_cnt, State.poolC_setPool]

end

theorem exec_stalledDrawGrant {s : State} {c : Nat} {d : Draw} (hnext : s.nextStalled c = some d) (hactive : s.poolState c = 1) :
    exec (.stalledDrawGrant c) s = .next (((s.setPool c { s.poolC c with stalled := (s.poolC c).stalled.erase d }).tieWon d.owner c
      d.ticket).drawNow d.owner c d.n d.svc).1 := by
  show execStalledDrawGrant c s = _
  unfold execStalledDrawGrant
  rw [hnext]
  exact if_pos hactive

theorem exec_stalledDrawGrant_none {s : State} {c : Nat} (h : s.nextStalled c = none ∨ s.poolState c ≠ 1) :
    exec (.stalledDrawGrant c) s = .next s := by
  show execStalledDrawGrant c s = _
  unfold execStalledDrawGrant
  rcases h with hnone | hstate
  · rw [hnone]
    exact ite_self _
  · exact if_neg hstate

/-! ### Frees (R581) -/

section
variable {s : State} {c i o : Nat}

theorem free1_stray (h : tget (fun _ => none) (s.poolC c).held i = none) : s.free1 c i = (s.poolErr 0x0D04 c c i).devError 0x0D04 c i := by
  unfold State.free1
  dsimp only
  rw [show (if i < s.rd (Reg.POOL_CLS_COUNT_COUNT c) ∨ (s.poolC c).withdraw.contains i = true then
    tget (fun _ => none) (s.poolC c).held i else none) = none from by rw [h]; exact ite_self _]

/-- The buffer is no longer held, and lies at the front of the cache. -/
def State.freed (s : State) (c i o : Nat) : State :=
  let s2 := ((s.wr (Reg.POOL_OWN_HELD_HELD o c) (s.poolHeld o c - 1)).cnt 0x0D01 c).cnt 0x0D01 (0x100 + o)
  let s3 := s2.setPool c { s.poolC c with held := tset (fun _ => none) (s.poolC c).held i none, cache := i :: (s.poolC c).cache }
  s3.wr (Reg.POOL_CLS_FREE_FREE c) (s3.poolF c + 1)

theorem free1_eq (hheld : tget (fun _ => none) (s.poolC c).held i = some o) (hcount : i < s.rd (Reg.POOL_CLS_COUNT_COUNT c))
    (hstays : i ∉ (s.poolC c).withdraw) : s.free1 c i = (((s.freed c i o).spill c).listHead c).poolNote c := by
  unfold State.free1
  dsimp only
  rw [if_pos (Or.inl hcount), hheld]
  exact if_neg fun h => hstays (List.contains_iff_mem.mp h)

theorem poolC_freed (s : State) (c i o : Nat) : (s.freed c i o).poolC c =
    { s.poolC c with held := tset (fun _ => none) (s.poolC c).held i none, cache := i :: (s.poolC c).cache } := by
  unfold State.freed
  rw [State.poolC_wr, State.poolC_setPool]

theorem spill_room {s : State} {c : Nat} (h : (s.poolC c).cache.length ≤ 384) : s.spill c = s := if_neg (Nat.not_lt.mpr h)

theorem listHead_pools (s : State) (c : Nat) : (s.listHead c).pools = s.pools := by
  unfold State.listHead
  exact ite_both (P := fun t : State => t.pools = s.pools) rfl rfl

/-- The buffer of an index-ring class goes to the front of the cache. -/
theorem poolFrees (hheld : tget (fun _ => none) (s.poolC c).held i = some o) (hcount : i < s.rd (Reg.POOL_CLS_COUNT_COUNT c))
    (hstays : i ∉ (s.poolC c).withdraw) (hroom : (s.poolC c).cache.length < 384) : completes (.poolFree c i) s fun t =>
      (t.poolC c).cache = i :: (s.poolC c).cache ∧ tget (fun _ => none) (t.poolC c).held i = none ∧ t.jobs = s.jobs := by
  have hjobs : (s.free1 c i).jobs = s.jobs := (State.free1_keeps (L := 9043995) s c i rfl (.refl s)).parts.same .jobs rfl
  have hdata := poolC_freed s c i o
  have heq := free1_eq hheld hcount hstays
  generalize s.freed c i o = v at hdata heq
  have hspill : v.spill c = v := spill_room (by rw [hdata]; exact hroom)
  obtain ⟨b, hnote⟩ := poolC_poolNote (v.listHead c) c
  rw [poolC_of_pools (listHead_pools v c), hdata] at hnote
  rw [hspill] at heq
  refine ⟨_, rfl, ?_, ?_, hjobs⟩
  · rw [heq, hnote]
  · rw [heq, hnote]
    exact tget_tset_same _ (s.poolC c).held i none

end

/-! ### Refills (R579) -/

/-- A class with another cache. -/
def PoolCls.withCache (p : PoolCls) (l : List Nat) : PoolCls := { p with cache := l }

theorem PoolCls.withCache_twice (p : PoolCls) (l m : List Nat) : (p.withCache l).withCache m = p.withCache m := rfl

/-- The indices of the ring enter the cache one by one. -/
theorem refillIndices (c : Nat) (l : List Nat) (s : State) (hcount : ∀ i ∈ l, i < s.rd (Reg.POOL_CLS_COUNT_COUNT c))
    (hfree : ∀ i ∈ l, tget (fun _ => none) (s.poolC c).held i = none) :
    (l.foldl (State.refillIndex c) s).poolC c = (s.poolC c).withCache ((s.poolC c).cache ++ l) := by
  induction l generalizing s with
  | nil => rw [List.append_nil]; rfl
  | cons i l ih =>
    have hset := State.poolC_setPool s c ((s.poolC c).withCache ((s.poolC c).cache ++ [i]))
    have hstep : State.refillIndex c s i = s.setPool c ((s.poolC c).withCache ((s.poolC c).cache ++ [i])) :=
      if_pos ⟨hcount i List.mem_cons_self, by rw [hfree i List.mem_cons_self]; rfl⟩
    have hrest := ih (s.setPool c ((s.poolC c).withCache ((s.poolC c).cache ++ [i]))) (fun k hk => hcount k (List.mem_cons_of_mem _ hk))
      (fun k hk => by rw [hset]; exact hfree k (List.mem_cons_of_mem _ hk))
    rw [List.foldl_cons, hstep, hrest, hset, PoolCls.withCache_twice]
    exact congrArg _ (List.append_assoc _ [i] l)

theorem exec_poolRefill {s : State} {c : Nat} {values : List Nat} (hroom : (s.poolC c).cache.length < 128)
    (hsome : (runsTake 256 (s.poolStore c)).1 ≠ []) (hvalues : values = (runsTake 256 (s.poolStore c)).1)
    (hring : s.rd (Reg.POOL_CLS_CFG_MODE c) = 0) : exec (.poolRefill c values) s =
      .next (((values.foldl (State.refillIndex c) (s.setPool c { s.poolC c with store := some (runsTake 256 (s.poolStore c)).2 })).listHead
        c).poolNote c) := by
  have hmode : ¬s.rd (Reg.POOL_CLS_CFG_MODE c) = 1 := by rw [hring]; decide
  show execPoolRefill c values s = _
  unfold execPoolRefill
  refine (if_pos ⟨hroom, hsome, by rw [hvalues]⟩).trans ?_
  dsimp only
  rw [if_neg hmode]

theorem poolRefills {s : State} {c : Nat} {values : List Nat} (hroom : (s.poolC c).cache.length < 128)
    (hsome : (runsTake 256 (s.poolStore c)).1 ≠ []) (hvalues : values = (runsTake 256 (s.poolStore c)).1)
    (hring : s.rd (Reg.POOL_CLS_CFG_MODE c) = 0) (hcount : ∀ i ∈ values, i < s.rd (Reg.POOL_CLS_COUNT_COUNT c))
    (hfree : ∀ i ∈ values, tget (fun _ => none) (s.poolC c).held i = none) : completes (.poolRefill c values) s fun t =>
      (t.poolC c).held = (s.poolC c).held ∧ (t.poolC c).store = some (runsTake 256 (s.poolStore c)).2 ∧
      (t.poolC c).cache = (s.poolC c).cache ++ values := by
  have hset := State.poolC_setPool s c { s.poolC c with store := some (runsTake 256 (s.poolStore c)).2 }
  have hcache := refillIndices c values (s.setPool c { s.poolC c with store := some (runsTake 256 (s.poolStore c)).2 }) hcount
    (fun i hi => by rw [hset]; exact hfree i hi)
  have hexec := exec_poolRefill hroom hsome hvalues hring
  rw [hset] at hcache
  generalize values.foldl (State.refillIndex c) (s.setPool c { s.poolC c with store := some (runsTake 256 (s.poolStore c)).2 }) = v
    at hcache hexec
  obtain ⟨b, hnote⟩ := poolC_poolNote (v.listHead c) c
  rw [poolC_of_pools (listHead_pools v c), hcache] at hnote
  exact ⟨_, hexec, by rw [hnote]; rfl, by rw [hnote]; rfl, by rw [hnote]; rfl⟩

/-! ### Enables, disables and the end of a lehr (R568, R583) -/

section
variable {s : State} {c : Nat} {w : BitVec 32}

theorem poolState_wr_cfg (s : State) (c lo wd v : Nat) : (s.wr ⟨Reg.POOL_CLS_CFG c, lo, wd⟩ v).poolState c = s.poolState c :=
  rd_wr_reg s _ (Reg.POOL_CLS_STATUS_STATE c) v (by simp only [Reg.POOL_CLS_STATUS, Reg.POOL_CLS_CFG]; omega)

/-- The write of MODE moves neither the class's STATE nor the pools. -/
theorem poolCfgMode_keeps (s : State) {c : Nat} (hc : c < 8) (w : BitVec 32) :
    (s.poolCfgMode c w).poolState c = s.poolState c ∧ (s.poolCfgMode c w).pools = s.pools ∧
    (s.poolCfgMode c w).rd (Reg.POOL_CLS_COUNT_COUNT c) = s.rd (Reg.POOL_CLS_COUNT_COUNT c) := by
  have herr := poolErr_records s 0x0D01 c 0 0
  unfold State.poolCfgMode
  dsimp only
  split
  · exact ⟨poolState_wr_cfg s c 30 1 _, State.wr_pools _ _ _,
      rd_wr_reg s _ (Reg.POOL_CLS_COUNT_COUNT c) _ (by simp only [Reg.POOL_CLS_COUNT, Reg.POOL_CLS_CFG]; omega)⟩
  · split
    · exact ⟨rfl, rfl, rfl⟩
    · refine ⟨herr.rd (Reg.POOL_CLS_STATUS_STATE c) ?_ ?_ ?_, herr.pools, herr.rd (Reg.POOL_CLS_COUNT_COUNT c) ?_ ?_ ?_⟩ <;>
      · simp only [Reg.POOL_CLS_STATUS, Reg.POOL_CLS_COUNT, Reg.POOL_ERR, List.mem_singleton]
        omega

/-- The pool is built anew. -/
def State.poolBuilt (s : State) (c : Nat) : State :=
  let n := s.rd (Reg.POOL_CLS_COUNT_COUNT c)
  let s2 := s.setPool c { s.poolC c with held := [], cache := [], store := some [(0, n)], withdraw := [] }
  ((s2.wr (Reg.POOL_CLS_CFG_ENABLE c) 1).wr (Reg.POOL_CLS_STATUS_STATE c) 1).wr (Reg.POOL_CLS_FREE_FREE c) n

theorem exec_poolEnable_builds (hreach : reaches s (Reg.POOL_CLS_CFG c)) (hdisabled : (s.poolCfgMode c w).poolState c = 0)
    (hcarve : (s.poolCfgMode c w).carveOk c = true) :
    exec (.poolEnable c w) s = .next ((((s.poolCfgMode c w).poolBuilt c).listHead c).poolNote c) := by
  show execPoolEnable c w s = _
  unfold execPoolEnable
  rw [bar_of_reaches hreach]
  exact (if_pos hdisabled).trans (if_pos hcarve)

theorem exec_poolEnable_waits (hreach : reaches s (Reg.POOL_CLS_CFG c)) (hlehr : (s.poolCfgMode c w).poolState c = 2) :
    exec (.poolEnable c w) s =
      .next (((s.poolCfgMode c w).wr (Reg.POOL_CLS_CFG_ENABLE c) 1).wr (Reg.POOL_CLS_STATUS_STATE c) 3) := by
  show execPoolEnable c w s = _
  unfold execPoolEnable
  rw [bar_of_reaches hreach]
  exact (if_neg (by rw [hlehr]; decide)).trans (if_pos hlehr)

theorem exec_poolDisable (hreach : reaches s (Reg.POOL_CLS_CFG c))
    (hon : (s.poolCfgMode c w).poolState c = 1 ∨ (s.poolCfgMode c w).poolState c = 3) :
    exec (.poolDisable c w) s =
      .next (((s.poolCfgMode c w).wr (Reg.POOL_CLS_CFG_ENABLE c) 0).wr (Reg.POOL_CLS_STATUS_STATE c) 2) := by
  show execPoolDisable c w s = _
  unfold execPoolDisable
  rw [bar_of_reaches hreach]
  exact if_pos (by rw [poolState_wr_cfg]; exact hon)

/-- ENABLE and STATE are written, and the pools stay. -/
theorem poolControls_written (s : State) (c on : Nat) {v : Nat} (hv : v < 8) (hon : on < 2) :
    ((s.wr (Reg.POOL_CLS_CFG_ENABLE c) on).wr (Reg.POOL_CLS_STATUS_STATE c) v).poolState c = v ∧
    ((s.wr (Reg.POOL_CLS_CFG_ENABLE c) on).wr (Reg.POOL_CLS_STATUS_STATE c) v).rd (Reg.POOL_CLS_CFG_ENABLE c) = on ∧
    ((s.wr (Reg.POOL_CLS_CFG_ENABLE c) on).wr (Reg.POOL_CLS_STATUS_STATE c) v).pools = s.pools := by
  refine ⟨(rd_wr_same _ _ v (show 0 + 3 ≤ 32 by decide)).trans (Nat.mod_eq_of_lt hv), ?_, by rw [State.wr_pools, State.wr_pools]⟩
  refine (rd_wr_reg _ _ (Reg.POOL_CLS_CFG_ENABLE c) v (by simp only [Reg.POOL_CLS_CFG, Reg.POOL_CLS_STATUS]; omega)).trans ?_
  exact (rd_wr_same s _ on (show 31 + 1 ≤ 32 by decide)).trans (Nat.mod_eq_of_lt hon)

theorem listHead_kept (s : State) {c : Nat} (hc : c < 8) : SameRegs poolKept s (s.listHead c) ∧ (s.listHead c).poolState c = s.poolState c := by
  have hlo : ¬poolKept (Reg.POOL_CLS_HEAD_LO c) := by
    rintro ⟨k, hk, h | h | h | h | ⟨o, ho, h⟩⟩ <;>
    · simp only [Reg.POOL_CLS_CFG, Reg.POOL_CLS_COUNT, Reg.POOL_CLS_THRESH, Reg.POOL_CLS_FREE, Reg.POOL_OWN_RES, Reg.POOL_CLS_HEAD_LO] at h
      omega
  have hhi : ¬poolKept (Reg.POOL_CLS_HEAD_HI c) := by
    rintro ⟨k, hk, h | h | h | h | ⟨o, ho, h⟩⟩ <;>
    · simp only [Reg.POOL_CLS_CFG, Reg.POOL_CLS_COUNT, Reg.POOL_CLS_THRESH, Reg.POOL_CLS_FREE, Reg.POOL_OWN_RES, Reg.POOL_CLS_HEAD_HI] at h
      omega
  have hstate : ∀ v, (s.wr64 (Reg.POOL_CLS_HEAD_LO c) (Reg.POOL_CLS_HEAD_HI c) v).poolState c = s.poolState c := fun v =>
    (rd_setReg_other _ _ (Reg.POOL_CLS_STATUS_STATE c) _ (by simp only [Reg.POOL_CLS_STATUS, Reg.POOL_CLS_HEAD_HI]; omega)).trans
      (rd_setReg_other s _ (Reg.POOL_CLS_STATUS_STATE c) _ (by simp only [Reg.POOL_CLS_STATUS, Reg.POOL_CLS_HEAD_LO]; omega))
  unfold State.listHead
  exact ⟨ite_both (P := SameRegs poolKept s) (.wr64 (.refl s) _ hlo hhi) (.refl s),
    ite_both (P := fun t : State => t.poolState c = s.poolState c) (hstate _) rfl⟩

theorem poolF_eq_rd (s : State) (c : Nat) : s.poolF c = s.rd (Reg.POOL_CLS_FREE_FREE c) := by
  have hlt := (s.reg (Reg.POOL_CLS_FREE c)).isLt
  show (s.reg (Reg.POOL_CLS_FREE c)).toNat = bitsOf (s.reg (Reg.POOL_CLS_FREE c)).toNat 0 32
  unfold bitsOf
  omega

theorem poolBuilt_spec (s : State) (c : Nat) : (s.poolBuilt c).poolState c = 1 ∧ (s.poolBuilt c).rd (Reg.POOL_CLS_CFG_ENABLE c) = 1 ∧
    (s.poolBuilt c).poolF c = s.rd (Reg.POOL_CLS_COUNT_COUNT c) ∧ ((s.poolBuilt c).poolC c).held = [] ∧
    ((s.poolBuilt c).poolC c).cache = [] := by
  have hn : s.rd (Reg.POOL_CLS_COUNT_COUNT c) < 2 ^ 32 := (rd_lt s _).trans (show 2 ^ 21 < 2 ^ 32 by decide)
  have hdata := State.poolC_setPool s c
    { s.poolC c with held := [], cache := [], store := some [(0, s.rd (Reg.POOL_CLS_COUNT_COUNT c))], withdraw := [] }
  unfold State.poolBuilt
  dsimp only
  generalize s.setPool c
    { s.poolC c with held := [], cache := [], store := some [(0, s.rd (Reg.POOL_CLS_COUNT_COUNT c))], withdraw := [] } = u at hdata
  obtain ⟨hstate, hon, -⟩ := poolControls_written u c 1 (v := 1) (by decide) (by decide)
  refine ⟨(rd_wr_reg _ _ (Reg.POOL_CLS_STATUS_STATE c) _ (by simp only [Reg.POOL_CLS_STATUS, Reg.POOL_CLS_FREE]; omega)).trans hstate,
    (rd_wr_reg _ _ (Reg.POOL_CLS_CFG_ENABLE c) _ (by simp only [Reg.POOL_CLS_CFG, Reg.POOL_CLS_FREE]; omega)).trans hon, ?_, ?_, ?_⟩
  · rw [poolF_eq_rd]
    exact (rd_wr_same _ _ _ (show 0 + 32 ≤ 32 by decide)).trans (Nat.mod_eq_of_lt hn)
  · rw [State.poolC_wr, State.poolC_wr, State.poolC_wr, hdata]
  · rw [State.poolC_wr, State.poolC_wr, State.poolC_wr, hdata]

/-- The built pool after its registers follow. -/
theorem poolBuilds (hc : c < 8) (hreach : reaches s (Reg.POOL_CLS_CFG c)) (hdisabled : (s.poolCfgMode c w).poolState c = 0)
    (hcarve : (s.poolCfgMode c w).carveOk c = true) : completes (.poolEnable c w) s fun t => (t.poolC c).held = [] ∧ (t.poolC c).cache = [] ∧
      t.poolState c = 1 ∧ t.rd (Reg.POOL_CLS_CFG_ENABLE c) = 1 ∧ t.poolF c = s.rd (Reg.POOL_CLS_COUNT_COUNT c) := by
  have hexec := exec_poolEnable_builds hreach hdisabled hcarve
  obtain ⟨hstate, hon, hfree, hheld, hcache⟩ := poolBuilt_spec (s.poolCfgMode c w) c
  rw [(poolCfgMode_keeps s hc w).2.2] at hfree
  generalize (s.poolCfgMode c w).poolBuilt c = v at hexec hstate hon hfree hheld hcache
  obtain ⟨hhead, hheadState⟩ := listHead_kept v hc
  obtain ⟨⟨b, hdata⟩, hnoted, hkept⟩ := poolNote_noted (v.listHead c) hc
  rw [poolC_of_pools (listHead_pools v c)] at hdata
  have hregs := hhead.trans hkept
  refine ⟨_, hexec, by rw [hdata]; exact hheld, by rw [hdata]; exact hcache, hnoted.trans (hheadState.trans hstate),
    (hregs.rd ⟨c, hc, .inl rfl⟩).trans hon, ?_⟩
  rw [poolF_eq_rd] at hfree ⊢
  exact (hregs.rd ⟨c, hc, .inr (.inr (.inr (.inl rfl)))⟩).trans hfree

theorem poolEnableWaits (hc : c < 8) (hreach : reaches s (Reg.POOL_CLS_CFG c)) (hlehr : s.poolState c = 2) :
    completes (.poolEnable c w) s fun t => t.poolState c = 3 ∧ t.rd (Reg.POOL_CLS_CFG_ENABLE c) = 1 ∧ t.pools = s.pools := by
  obtain ⟨hstate, hpools, -⟩ := poolCfgMode_keeps s hc w
  obtain ⟨hwaits, hon, hstays⟩ := poolControls_written (s.poolCfgMode c w) c 1 (v := 3) (by decide) (by decide)
  exact ⟨_, exec_poolEnable_waits hreach (hstate.trans hlehr), hwaits, hon, hstays.trans hpools⟩

theorem poolDisables (hc : c < 8) (hreach : reaches s (Reg.POOL_CLS_CFG c)) (hon : s.poolState c = 1 ∨ s.poolState c = 3) :
    completes (.poolDisable c w) s fun t => t.poolState c = 2 ∧ t.rd (Reg.POOL_CLS_CFG_ENABLE c) = 0 ∧ t.pools = s.pools := by
  obtain ⟨hstate, hpools, -⟩ := poolCfgMode_keeps s hc w
  obtain ⟨hlehr, hoff, hstays⟩ := poolControls_written (s.poolCfgMode c w) c 0 (v := 2) (by decide) (by decide)
  exact ⟨_, exec_poolDisable hreach (by rw [hstate]; exact hon), hlehr, hoff, hstays.trans hpools⟩

theorem exec_poolLehrEnd_returns (hheld : (s.poolC c).held = []) (hpending : s.poolState c = 3) :
    exec (.poolLehrEnd c) s = .next (s.wr (Reg.POOL_CLS_STATUS_STATE c) 1) :=
  (if_pos ⟨.inr hpending, List.isEmpty_iff.mpr hheld⟩).trans (if_pos hpending)

/-- The cache is spilled and the class is DISABLED. -/
theorem exec_poolLehrEnd_ends (hheld : (s.poolC c).held = []) (hlehr : s.poolState c = 2) : ∃ l : List (Nat × Nat),
    exec (.poolLehrEnd c) s =
      .next (((s.setPool c { s.poolC c with cache := [], store := some l }).wr (Reg.POOL_CLS_STATUS_STATE c) 0).poolNote c) :=
  ⟨_, (if_pos ⟨.inl hlehr, List.isEmpty_iff.mpr hheld⟩).trans (if_neg (by rw [hlehr]; decide))⟩

theorem poolState_written (s : State) (c : Nat) {v : Nat} (hv : v < 8) : (s.wr (Reg.POOL_CLS_STATUS_STATE c) v).poolState c = v :=
  (rd_wr_same s _ v (show 0 + 3 ≤ 32 by decide)).trans (Nat.mod_eq_of_lt hv)

theorem poolLehrEnds (hc : c < 8) (hheld : (s.poolC c).held = []) (hlehr : s.poolState c = 2 ∨ s.poolState c = 3) :
    completes (.poolLehrEnd c) s fun t => t.poolState c = s.poolState c - 2 ∧
      (s.poolState c = 2 → (t.poolC c).cache = []) ∧ (s.poolState c = 3 → t.pools = s.pools) := by
  rcases hlehr with hlehr | hpending
  · obtain ⟨l, hexec⟩ := exec_poolLehrEnd_ends hheld hlehr
    have hset := State.poolC_setPool s c { s.poolC c with cache := [], store := some l }
    generalize s.setPool c { s.poolC c with cache := [], store := some l } = u at hexec hset
    obtain ⟨⟨b, hdata⟩, hstate, -⟩ := poolNote_noted (u.wr (Reg.POOL_CLS_STATUS_STATE c) 0) hc
    rw [State.poolC_wr, hset] at hdata
    exact ⟨_, hexec, hstate.trans ((poolState_written u c (by decide)).trans (by rw [hlehr])), fun _ => by rw [hdata],
      fun hpending => absurd (hlehr.symm.trans hpending) (by decide)⟩
  · exact ⟨_, exec_poolLehrEnd_returns hheld hpending, (poolState_written s c (by decide)).trans (by rw [hpending]),
      fun hlehr => absurd (hlehr.symm.trans hpending) (by decide), fun _ => State.wr_pools _ _ _⟩

end

/-! ### Reserves and thresholds (R573) -/

/-- The reserve keeps the headroom and the commitments. -/
def State.resFits (s : State) (o c new : Nat) : Prop :=
  new - s.poolHeld o c ≤ s.poolH c + (s.poolRes o c - s.poolHeld o c) ∧ s.poolCommit o c ≤ new

section
variable {s : State} {o c : Nat} {w : BitVec 32}

theorem exec_poolResWrite_fits (hreach : reaches s (Reg.POOL_OWN_RES o c)) (hfits : s.resFits o c (bitsOf w.toNat 0 21)) :
    exec (.poolResWrite o c w) s = .next ((s.wr (Reg.POOL_OWN_RES_RES o c) (bitsOf w.toNat 0 21)).poolNote c) := by
  show execPoolResWrite o c w s = _
  unfold execPoolResWrite
  rw [bar_of_reaches hreach]
  exact if_pos hfits

theorem exec_poolResWrite_refused (hreach : reaches s (Reg.POOL_OWN_RES o c)) (hrefused : ¬s.resFits o c (bitsOf w.toNat 0 21)) :
    exec (.poolResWrite o c w) s = .next (s.poolErr 0x0D01 (32 + o)) := by
  show execPoolResWrite o c w s = _
  unfold execPoolResWrite
  rw [bar_of_reaches hreach]
  exact if_neg hrefused

theorem poolResWritten (ho : o < 32) (hc : c < 8) (hreach : reaches s (Reg.POOL_OWN_RES o c)) : completes (.poolResWrite o c w) s fun t =>
    (bitsOf w.toNat 0 21 - s.poolHeld o c ≤ s.poolH c + (s.poolRes o c - s.poolHeld o c) → s.poolCommit o c ≤ bitsOf w.toNat 0 21 →
      t.poolRes o c = bitsOf w.toNat 0 21) ∧
    (¬(bitsOf w.toNat 0 21 - s.poolHeld o c ≤ s.poolH c + (s.poolRes o c - s.poolHeld o c) ∧ s.poolCommit o c ≤ bitsOf w.toNat 0 21) →
      t.poolRes o c = s.poolRes o c ∧ t.rd Reg.POOL_ERR_VALID = 1) := by
  have hkept : poolKept (Reg.POOL_OWN_RES o c) := ⟨c, hc, .inr (.inr (.inr (.inr ⟨o, ho, rfl⟩)))⟩
  by_cases hfits : s.resFits o c (bitsOf w.toNat 0 21)
  · refine ⟨_, exec_poolResWrite_fits hreach hfits, fun _ _ => ?_, fun hrefused => absurd hfits hrefused⟩
    refine ((poolNote_kept _ hc).rd hkept).trans ?_
    exact (rd_wr_same s _ _ (show 0 + 21 ≤ 32 by decide)).trans (Nat.mod_eq_of_lt (bitsOf_lt _ _ _))
  · exact ⟨_, exec_poolResWrite_refused hreach hfits, fun hheadroom hcommit => absurd ⟨hheadroom, hcommit⟩ hfits,
      fun _ => ⟨(poolErr_kept (.refl s) _ _ _ _).rd hkept, rd_poolErr_valid _ _ _ _ _⟩⟩

theorem exec_poolThreshWrite (hreach : reaches s (Reg.POOL_CLS_THRESH c)) : exec (.poolThreshWrite c w) s =
    .next (if s.threshOk c (16 * bitsOf w.toNat 0 16) (16 * bitsOf w.toNat 16 16) = true then
      (s.setReg (Reg.POOL_CLS_THRESH c) w).poolNote c else s.poolErr 0x0D01 c) := by
  show execPoolThreshWrite c w s = _
  unfold execPoolThreshWrite
  rw [bar_of_reaches hreach]
  exact (apply_ite Host.Outcome.next _ _ _).symm

theorem poolThreshWritten (hc : c < 8) (hreach : reaches s (Reg.POOL_CLS_THRESH c)) : completes (.poolThreshWrite c w) s fun t =>
    t.reg (Reg.POOL_CLS_THRESH c) = (if s.threshOk c (16 * bitsOf w.toNat 0 16) (16 * bitsOf w.toNat 16 16) = true then w
      else s.reg (Reg.POOL_CLS_THRESH c)) ∧
    (s.threshOk c (16 * bitsOf w.toNat 0 16) (16 * bitsOf w.toNat 16 16) = false → t.rd Reg.POOL_ERR_VALID = 1) := by
  have hkept : poolKept (Reg.POOL_CLS_THRESH c) := ⟨c, hc, .inr (.inr (.inl rfl))⟩
  refine ⟨_, exec_poolThreshWrite hreach, ?_⟩
  by_cases hok : s.threshOk c (16 * bitsOf w.toNat 0 16) (16 * bitsOf w.toNat 16 16) = true
  · rw [if_pos hok, if_pos hok]
    exact ⟨((poolNote_kept _ hc).reg _ hkept).trans (reg_setReg_same s _ w), fun hbad => absurd (hok.symm.trans hbad) (by decide)⟩
  · rw [if_neg hok, if_neg hok]
    exact ⟨(poolErr_kept (.refl s) _ _ _ _).reg _ hkept, fun _ => rd_poolErr_valid _ _ _ _ _⟩

end

end Sys2Proof.Machine

namespace Sys2Proof
open Machine

/-- Settles O29: draws, frees, refills, enables, disables and control writes of the pools, each by its own command. -/
theorem poolsGrantFreeAndFollowTheirControls : Obligations.PoolsGrantFreeAndFollowTheirControls := by
  unfold Obligations.PoolsGrantFreeAndFollowTheirControls
  refine ⟨fun s o c n svc ticket h => ⟨_, exec_poolDraw_granted h, rfl⟩, fun s o c n svc ticket hfails h => ?_,
    fun s o c n svc ticket hfails h => ?_, fun s c d hnext hactive => ⟨_, exec_stalledDrawGrant hnext hactive, rfl⟩,
    fun s c h => ⟨s, exec_stalledDrawGrant_none h, rfl⟩, fun s c i o hheld hcount hstays hroom _ _ _ => poolFrees hheld hcount hstays hroom,
    fun s c i h => ?_, fun s c values hroom hsome hvalues hring hcount hfree => poolRefills hroom hsome hvalues hring hcount hfree,
    fun s u c w hc hreach hu hdisabled hcarve => ?_, fun s c w hc hreach hlehr => poolEnableWaits hc hreach hlehr,
    fun s c w hc hreach hon => poolDisables hc hreach hon, fun s c hc hheld hlehr => poolLehrEnds hc hheld hlehr,
    fun s o c w ho hc hreach => poolResWritten ho hc hreach, fun s c w hc hreach => poolThreshWritten hc hreach⟩
  · exact ⟨_, exec_poolDraw_refused hfails h, poolErr_pools _ _ _ _ _, (poolErr_records _ _ _ _ _).hbm, rd_poolErr_valid _ _ _ _ _,
      fun hfirst => rd_poolErr_code (by rw [rd_cnt, rd_cnt]; exact hfirst) _ _ _ _⟩
  · obtain ⟨b, hdata⟩ := poolC_poolNote (s.drawStalls o c n svc ticket) c
    rw [poolC_drawStalls] at hdata
    exact ⟨_, exec_poolDraw_stalls hfails h, by rw [hdata], by rw [hdata], by rw [hdata]⟩
  · have herr : ∀ f : RegField, f.addr ≠ Reg.HIF_SVC_LOST → ((s.poolErr 0x0D04 c c i).devError 0x0D04 c i).rd f = (s.poolErr 0x0D04 c c i).rd f :=
      fun f hf => rd_of_reg (reg_devError _ _ _ _ _ _ _ hf)
    refine ⟨_, congrArg Host.Outcome.next (free1_stray h), (devError_pools _ _ _ _ _ _).trans (poolErr_pools _ _ _ _ _),
      (herr _ (by decide)).trans (rd_poolErr_valid _ _ _ _ _), fun hfirst => (herr _ (by decide)).trans (rd_poolErr_code hfirst _ _ _ _)⟩
  · subst hu
    exact poolBuilds hc hreach hdisabled hcarve

end Sys2Proof
end

section
/-! SUPPORT. Keys, signing requests, verified boot and tamper events (R712 to R724). -/

set_option Elab.async false

namespace Sys2Proof.Machine

/-! ### The secure SRAM's wipe (R592) -/

/-- The secure SRAM loses what it holds. -/
def State.dropKey (s : State) : State := { s with sec := { s.sec with key := none } }

theorem rd_dropKey (s : State) (f : RegField) : s.dropKey.rd f = s.rd f := rfl

/-- A wipe shows its cause. -/
def State.wipeCause (s : State) (cause : Nat) : State := s.wr Reg.MEM_SECURE_STATUS_LAST_CAUSE cause

theorem startWipe_of_wiping {s : State} (h : s.rd Reg.MEM_SECURE_STATUS_WIPING = 1) (cause : Nat) :
    s.startWipe cause = s.wipeCause cause := if_pos h

theorem startWipe_of_quiet {s : State} (h : s.rd Reg.MEM_SECURE_STATUS_WIPING ≠ 1) (cause : Nat) :
    s.startWipe cause = ((s.wr Reg.MEM_SECURE_STATUS_WIPING 1).wipeCause cause).dropKey := if_neg h

theorem rd_wipeCause (s : State) (cause : Nat) : (s.wipeCause cause).rd Reg.MEM_SECURE_STATUS_WIPING = s.rd Reg.MEM_SECURE_STATUS_WIPING :=
  rd_wr_part_other s Reg.MEM_SECURE_STATUS cause (by decide) (by decide)

theorem rd_startWipe_wiping (s : State) (cause : Nat) : (s.startWipe cause).rd Reg.MEM_SECURE_STATUS_WIPING = 1 := by
  by_cases h : s.rd Reg.MEM_SECURE_STATUS_WIPING = 1
  · rw [startWipe_of_wiping h, rd_wipeCause, h]
  · rw [startWipe_of_quiet h, rd_dropKey, rd_wipeCause]
    exact rd_wr_same s _ 1 (by decide)

theorem startWipe_regs {P : Nat → Prop} (s : State) (cause : Nat) (hP : ¬P Reg.MEM_SECURE_STATUS) : SameRegs P s (s.startWipe cause) := by
  by_cases h : s.rd Reg.MEM_SECURE_STATUS_WIPING = 1
  · rw [startWipe_of_wiping h]
    exact .wr (.refl s) cause hP
  · rw [startWipe_of_quiet h]
    exact .with (.wr (.wr (.refl s) 1 hP) cause hP) rfl

theorem wipeCause_sec (s : State) (cause : Nat) : (s.wipeCause cause).sec = s.sec := s.wr_sec _ _

theorem dropKey_sec (s : State) : s.dropKey.sec = { s.sec with key := none } := rfl

/-- Of what SEC holds a wipe takes the key at most. -/
theorem startWipe_sec (s : State) (cause : Nat) : (s.startWipe cause).sec = { s.sec with key := (s.startWipe cause).sec.key } := by
  by_cases h : s.rd Reg.MEM_SECURE_STATUS_WIPING = 1
  · rw [startWipe_of_wiping h, wipeCause_sec]
  · rw [startWipe_of_quiet h, dropKey_sec, wipeCause_sec, State.wr_sec]

theorem failSigns_regs {P : Nat → Prop} (s : State) (hP : ∀ a, P a → a / 0x100000 ≠ 0x1E ∧ a / 0x100000 ≠ 0x1F)
    (hctrl : ¬P Reg.SEC_CTRL) (herr : ¬P Reg.SEC_ERR) : SameRegs P s s.failSigns := by
  by_cases h : s.sec.reDeriving = true ∨ s.sec.key.isSome = true
  · rw [failSigns_of_key h]
    exact .refl s
  · rw [failSigns_eq h]
    exact .with (.of_records (signsFail_records s) hP (by simp [hctrl, herr])) rfl

/-! ### The end of a derivation (R712) -/

/-- SEC takes the key it derived. -/
def State.takeKey (s : State) : State := { s with sec := { s.sec with key := s.identityKey, reDeriving := false } }

theorem exec_keyDerivationDone {s : State} (hderiving : s.sec.reDeriving = true) (hwipe : s.rd Reg.MEM_SECURE_STATUS_WIPING = 0) :
    exec .keyDerivationDone s = .next (s.takeKey.wr Reg.SEC_STATUS_KEY_READY (if s.identityKey.isSome then 1 else 0)) := by
  show execKeyDerivationDone s = _
  unfold execKeyDerivationDone
  exact if_pos ⟨hderiving, hwipe⟩

theorem takeKey_shows (s : State) (v : Nat) (hv : v < 2) :
    let t := s.takeKey.wr Reg.SEC_STATUS_KEY_READY v
    t.sec = { s.sec with key := s.identityKey, reDeriving := false } ∧ t.rd Reg.SEC_STATUS_KEY_READY = v ∧
      onlyRegs [Reg.SEC_STATUS] { s with sec := t.sec } t :=
  ⟨rfl, (rd_wr_same s.takeKey Reg.SEC_STATUS_KEY_READY v (by decide)).trans (Nat.mod_eq_of_lt hv), onlyRegs_wr s.takeKey _ v⟩

/-! ### Signing requests (R712, R714, R721, R722) -/

/-- A request's bits: GO as given, DONE 0. -/
def State.goWr (s : State) (go done : RegField) (v : Nat) : State := (s.wr done 0).wr go v

theorem goWr_regs {P : Nat → Prop} (s : State) (go done : RegField) (v : Nat) (hgo : ¬P go.addr) (hdone : ¬P done.addr) :
    SameRegs P s (s.goWr go done v) := .wr (.wr (.refl s) 0 hdone) v hgo

theorem rd_goWr_go (s : State) (go done : RegField) (v : Nat) (hfit : go.lo + go.w ≤ 32) : (s.goWr go done v).rd go = v % 2 ^ go.w :=
  rd_wr_same _ go v hfit

theorem rd_goWr_done (s : State) (go done : RegField) (v : Nat) (hfit : done.lo + done.w ≤ 32) (hne : go.addr ≠ done.addr) :
    (s.goWr go done v).rd done = 0 :=
  (rd_wr_reg _ go done v hne.symm).trans ((rd_wr_same s done 0 hfit).trans (Nat.zero_mod _))

theorem regBytes_congr {s t : State} (a n : Nat) (h : ∀ i, i < n → t.reg (a + 4 * i) = s.reg (a + 4 * i)) : t.regBytes a n = s.regBytes a n :=
  List.flatMap_congr fun i hi => by rw [h i (List.mem_range.1 hi)]

/-- A request for a quote, with what it latches (R721). -/
def State.latchQuote (s : State) : State :=
  { s with sec := { s.sec with quoteReq := some { nonce := s.nonce, mono := s.time.mono
                                                  cfg := ofBytes (s.regBytes (Reg.SEC_CFG_DIGEST 0) 8)
                                                  events := s.rd Reg.SEC_CFG_EVENTS_COUNT } } }

/-- A request for a burgee, with what it latches (R714). -/
def State.latchBurgee (s : State) : State := { s with sec := { s.sec with burgeeReq := some { nonce := s.nonce, mono := s.time.mono } } }

theorem exec_quoteGo {s : State} (h : reaches s Reg.SEC_CTRL) : exec .quoteGo s = .next
    (s.signGo Reg.SEC_CTRL_QUOTE_GO Reg.SEC_STATUS_QUOTE_DONE s.sec.quoteReq.isSome State.latchQuote) :=
  exec_of_reaches (f := fun s => s.signGo Reg.SEC_CTRL_QUOTE_GO Reg.SEC_STATUS_QUOTE_DONE s.sec.quoteReq.isSome State.latchQuote) h rfl

theorem exec_burgeeGo {s : State} (h : reaches s Reg.SEC_CTRL) : exec .burgeeGo s = .next
    (s.signGo Reg.SEC_CTRL_BURGEE_GO Reg.SEC_STATUS_BURGEE_DONE s.sec.burgeeReq.isSome State.latchBurgee) :=
  exec_of_reaches (f := fun s => s.signGo Reg.SEC_CTRL_BURGEE_GO Reg.SEC_STATUS_BURGEE_DONE s.sec.burgeeReq.isSome State.latchBurgee) h rfl

theorem signGo_pending (s : State) (go done : RegField) (f : State → State) : s.signGo go done true f = s := rfl

theorem signGo_of_none {s : State} (hkey : s.sec.key = none) (hderiving : s.sec.reDeriving = false) (go done : RegField) (f : State → State) :
    s.signGo go done false f = (s.goWr go done 0).secErr 0x0F07 := by
  have hno : (s.wr done 0).sec.key.isNone = true ∧ (s.wr done 0).sec.reDeriving = false := by simp [hkey, hderiving]
  exact if_pos hno

theorem signGo_of_key {s : State} (hkey : s.sec.key.isSome = true) (go done : RegField) (f : State → State) :
    s.signGo go done false f = f (s.goWr go done 1) := by
  have hno : ¬((s.wr done 0).sec.key.isNone = true ∧ (s.wr done 0).sec.reDeriving = false) := by
    rw [State.wr_sec]
    exact fun h => by simp [Option.isNone_iff_eq_none.1 h.1] at hkey
  exact if_neg hno

theorem goWr_sec (s : State) (go done : RegField) (v : Nat) : (s.goWr go done v).sec = s.sec := by
  unfold State.goWr
  rw [State.wr_sec, State.wr_sec]

theorem goWr_time (s : State) (go done : RegField) (v : Nat) : (s.goWr go done v).time = s.time := by
  unfold State.goWr
  rw [State.wr_time, State.wr_time]

/-- A request that fails for want of a key. -/
theorem signFails_shows {s : State} {go done : RegField} (hgo : go.addr = Reg.SEC_CTRL) (hdone : done.addr = Reg.SEC_STATUS)
    (hfitGo : go.lo + go.w ≤ 32) (hfitDone : done.lo + done.w ≤ 32) :
    let t := (s.goWr go done 0).secErr 0x0F07
    t.rd go = 0 ∧ t.rd done = 0 ∧ t.sec = s.sec := by
  have herr := secErr_records (s.goWr go done 0) 0x0F07
  refine ⟨?_, ?_, ?_⟩
  · rw [herr.rd go (by rw [hgo]; decide) (by rw [hgo]; decide) (by rw [hgo]; decide), rd_goWr_go _ _ _ _ hfitGo]
    exact Nat.zero_mod _
  · rw [herr.rd done (by rw [hdone]; decide) (by rw [hdone]; decide) (by rw [hdone]; decide)]
    exact rd_goWr_done _ _ _ _ hfitDone (by rw [hgo, hdone]; decide)
  · rw [herr.sec, goWr_sec]

theorem onlyRegs_goWr {s : State} {go done : RegField} (v : Nat) (hgo : go.addr = Reg.SEC_CTRL) (hdone : done.addr = Reg.SEC_STATUS) :
    onlyRegs [Reg.SEC_CTRL, Reg.SEC_STATUS] s (s.goWr go done v) := by
  refine ⟨rfl, (goWr_regs s go done v ?_ ?_).reg⟩
  · rw [hgo]
    simp
  · rw [hdone]
    simp

theorem onlyRegs_sec {l : List Nat} {s t : State} (h : onlyRegs l s t) (x : SecSt) : onlyRegs l { s with sec := x } { t with sec := x } := by
  obtain ⟨heq, hreg⟩ := h
  refine ⟨?_, hreg⟩
  rw [heq]

theorem nonce_goWr {s : State} {go done : RegField} (v : Nat) (hgo : go.addr = Reg.SEC_CTRL) (hdone : done.addr = Reg.SEC_STATUS) :
    (s.goWr go done v).nonce = s.nonce := by
  have hregs : SameRegs (fun a => ∃ i, a = Reg.SEC_NONCE i) s (s.goWr go done v) :=
    goWr_regs s go done v (by rw [hgo]; rintro ⟨i, hi⟩; simp only [Reg.SEC_CTRL, Reg.SEC_NONCE] at hi; omega)
      (by rw [hdone]; rintro ⟨i, hi⟩; simp only [Reg.SEC_STATUS, Reg.SEC_NONCE] at hi; omega)
  unfold State.nonce
  rw [regBytes_congr _ _ fun i _ => hregs.reg _ ⟨i, rfl⟩]

theorem latchQuote_rd (s : State) (f : RegField) : s.latchQuote.rd f = s.rd f := rfl

theorem latchBurgee_rd (s : State) (f : RegField) : s.latchBurgee.rd f = s.rd f := rfl

theorem latchQuote_sec (s : State) : ∃ q : SignReq, s.latchQuote.sec = { s.sec with quoteReq := some q } ∧ q.nonce = s.nonce ∧ q.mono = s.time.mono :=
  ⟨_, rfl, rfl, rfl⟩

theorem latchBurgee_sec (s : State) :
    ∃ q : SignReq, s.latchBurgee.sec = { s.sec with burgeeReq := some q } ∧ q.nonce = s.nonce ∧ q.mono = s.time.mono := ⟨_, rfl, rfl, rfl⟩

theorem latchQuote_only {l : List Nat} {s t : State} (h : onlyRegs l s t) : onlyRegs l { s with sec := t.latchQuote.sec } t.latchQuote :=
  onlyRegs_sec h _

theorem latchBurgee_only {l : List Nat} {s t : State} (h : onlyRegs l s t) : onlyRegs l { s with sec := t.latchBurgee.sec } t.latchBurgee :=
  onlyRegs_sec h _

/-- A request for a quote with a key. -/
theorem quoteGo_latches (s : State) :
    let t := (s.goWr Reg.SEC_CTRL_QUOTE_GO Reg.SEC_STATUS_QUOTE_DONE 1).latchQuote
    t.rd Reg.SEC_CTRL_QUOTE_GO = 1 ∧ t.rd Reg.SEC_STATUS_QUOTE_DONE = 0 ∧ onlyRegs [Reg.SEC_CTRL, Reg.SEC_STATUS] { s with sec := t.sec } t ∧
      ∃ q, t.sec = { s.sec with quoteReq := some q } ∧ q.nonce = s.nonce ∧ q.mono = s.time.mono := by
  obtain ⟨q, hsec, hnonce, hmono⟩ := latchQuote_sec (s.goWr Reg.SEC_CTRL_QUOTE_GO Reg.SEC_STATUS_QUOTE_DONE 1)
  rw [goWr_sec] at hsec
  refine ⟨?_, ?_, latchQuote_only (onlyRegs_goWr 1 rfl rfl), q, hsec, hnonce.trans (nonce_goWr 1 rfl rfl), hmono.trans ?_⟩
  · exact (latchQuote_rd _ _).trans (rd_goWr_go s _ _ 1 (by decide))
  · exact (latchQuote_rd _ _).trans (rd_goWr_done s _ _ 1 (by decide) (by decide))
  · rw [goWr_time]

/-- A request for a burgee with a key. -/
theorem burgeeGo_latches (s : State) :
    let t := (s.goWr Reg.SEC_CTRL_BURGEE_GO Reg.SEC_STATUS_BURGEE_DONE 1).latchBurgee
    t.rd Reg.SEC_CTRL_BURGEE_GO = 1 ∧ t.rd Reg.SEC_STATUS_BURGEE_DONE = 0 ∧ onlyRegs [Reg.SEC_CTRL, Reg.SEC_STATUS] { s with sec := t.sec } t ∧
      ∃ q, t.sec = { s.sec with burgeeReq := some q } ∧ q.nonce = s.nonce ∧ q.mono = s.time.mono := by
  obtain ⟨q, hsec, hnonce, hmono⟩ := latchBurgee_sec (s.goWr Reg.SEC_CTRL_BURGEE_GO Reg.SEC_STATUS_BURGEE_DONE 1)
  rw [goWr_sec] at hsec
  refine ⟨?_, ?_, latchBurgee_only (onlyRegs_goWr 1 rfl rfl), q, hsec, hnonce.trans (nonce_goWr 1 rfl rfl), hmono.trans ?_⟩
  · exact (latchBurgee_rd _ _).trans (rd_goWr_go s _ _ 1 (by decide))
  · exact (latchBurgee_rd _ _).trans (rd_goWr_done s _ _ 1 (by decide) (by decide))
  · rw [goWr_time]

/-! ### Signatures that are done (R714, R721) -/

/-- A quote is done. -/
def State.quoteShown (s : State) (n : Nat) : State := { s with sec := { s.sec with quotes := n, quoteReq := none } }

/-- A burgee is done. -/
def State.burgeeShown (s : State) : State := { s with sec := { s.sec with burgeeReq := none } }

/-- The bits of a request that is done: GO 0, DONE 1. -/
def State.doneWr (s : State) (go done : RegField) : State := (s.wr go 0).wr done 1

theorem doneWr_sec (s : State) (go done : RegField) : (s.doneWr go done).sec = s.sec := by
  unfold State.doneWr
  rw [State.wr_sec, State.wr_sec]

theorem rd_doneWr (s : State) {go done : RegField} (hgo : go.lo + go.w ≤ 32) (hdone : done.lo + done.w ≤ 32) (hne : go.addr ≠ done.addr) :
    (s.doneWr go done).rd go = 0 ∧ (s.doneWr go done).rd done = 1 % 2 ^ done.w :=
  ⟨(rd_wr_reg _ done go 1 hne).trans ((rd_wr_same s go 0 hgo).trans (Nat.zero_mod _)), rd_wr_same _ done 1 hdone⟩

theorem exec_quoteDone {s : State} {q : SignReq} {d : Nat} (hq : s.sec.quoteReq = some q) (hd : s.sec.key = some d) :
    ∃ body, exec .quoteDone s = .next
      (((s.putSigned (Reg.SEC_QUOTE 0) body d).quoteShown (s.sec.quotes + 1)).doneWr Reg.SEC_CTRL_QUOTE_GO Reg.SEC_STATUS_QUOTE_DONE) := by
  show ∃ body, execQuoteDone s = _
  unfold execQuoteDone
  rw [hq, hd]
  exact ⟨_, rfl⟩

theorem exec_burgeeDone {s : State} {q : SignReq} {d : Nat} (hb : s.sec.burgeeReq = some q) (hq : s.sec.quoteReq = none) (hd : s.sec.key = some d) :
    ∃ body, exec .burgeeDone s = .next
      ((s.putSigned (Reg.SEC_BURGEE 0) body d).burgeeShown.doneWr Reg.SEC_CTRL_BURGEE_GO Reg.SEC_STATUS_BURGEE_DONE) := by
  show ∃ body, execBurgeeDone s = _
  unfold execBurgeeDone
  rw [hb, hd, hq]
  exact ⟨_, rfl⟩

theorem putBytes_sec (s : State) (a : Nat) (l : List Nat) : (s.putBytes a l).sec = s.sec :=
  (State.putBytes_keeps (L := 1) s a l rfl (.refl s)).parts.same .sec rfl

/-- Random values were drawn. -/
def State.setDraws (s : State) (n : Nat) : State := { s with sec := { s.sec with draws := n } }

theorem setDraws_sec (s : State) (n : Nat) : (s.setDraws n).sec = { s.sec with draws := n } := rfl

theorem putSigned_eq (s : State) (a body d : Nat) : ∃ l n, s.putSigned a body d = (s.setDraws n).putBytes a l := ⟨_, _, rfl⟩

theorem putSigned_sec (s : State) (a body d : Nat) : ∃ n, (s.putSigned a body d).sec = { s.sec with draws := n } := by
  obtain ⟨l, n, heq⟩ := putSigned_eq s a body d
  exact ⟨n, by rw [heq, putBytes_sec, setDraws_sec]⟩


theorem quoteShown_sec (s : State) (n : Nat) : (s.quoteShown n).sec = { s.sec with quotes := n, quoteReq := none } := rfl

theorem burgeeShown_sec (s : State) : s.burgeeShown.sec = { s.sec with burgeeReq := none } := rfl

theorem quoteDone_shows {s : State} (hq : s.sec.quoteReq.isSome = true) (hkey : s.sec.key.isSome = true) :
    completes .quoteDone s fun t => t.sec.quotes = s.sec.quotes + 1 ∧ t.sec.quoteReq = none ∧
      t.rd Reg.SEC_CTRL_QUOTE_GO = 0 ∧ t.rd Reg.SEC_STATUS_QUOTE_DONE = 1 ∧ t.sec.key = s.sec.key := by
  obtain ⟨q, hq⟩ := Option.isSome_iff_exists.1 hq
  obtain ⟨d, hd⟩ := Option.isSome_iff_exists.1 hkey
  obtain ⟨body, hexec⟩ := exec_quoteDone hq hd
  obtain ⟨n, hsigned⟩ := putSigned_sec s (Reg.SEC_QUOTE 0) body d
  generalize s.putSigned (Reg.SEC_QUOTE 0) body d = u at hexec hsigned
  obtain ⟨hgo, hdone⟩ := rd_doneWr (u.quoteShown (s.sec.quotes + 1)) (go := Reg.SEC_CTRL_QUOTE_GO) (done := Reg.SEC_STATUS_QUOTE_DONE)
    (by decide) (by decide) (by decide)
  refine ⟨_, hexec, ?_⟩
  beta_reduce
  rw [doneWr_sec, quoteShown_sec, hsigned]
  exact ⟨rfl, rfl, hgo, hdone, rfl⟩

theorem burgeeDone_shows {s : State} (hb : s.sec.burgeeReq.isSome = true) (hq : s.sec.quoteReq = none) (hkey : s.sec.key.isSome = true) :
    completes .burgeeDone s fun t => t.sec.burgeeReq = none ∧
      t.rd Reg.SEC_CTRL_BURGEE_GO = 0 ∧ t.rd Reg.SEC_STATUS_BURGEE_DONE = 1 ∧ t.sec.key = s.sec.key := by
  obtain ⟨q, hb⟩ := Option.isSome_iff_exists.1 hb
  obtain ⟨d, hd⟩ := Option.isSome_iff_exists.1 hkey
  obtain ⟨body, hexec⟩ := exec_burgeeDone hb hq hd
  obtain ⟨n, hsigned⟩ := putSigned_sec s (Reg.SEC_BURGEE 0) body d
  generalize s.putSigned (Reg.SEC_BURGEE 0) body d = u at hexec hsigned
  obtain ⟨hgo, hdone⟩ := rd_doneWr u.burgeeShown (go := Reg.SEC_CTRL_BURGEE_GO) (done := Reg.SEC_STATUS_BURGEE_DONE)
    (by decide) (by decide) (by decide)
  refine ⟨_, hexec, ?_⟩
  beta_reduce
  rw [doneWr_sec, burgeeShown_sec, hsigned]
  exact ⟨rfl, hgo, hdone, rfl⟩

/-! ### Rollback fuses and recovery images (R717, R719) -/

theorem exec_svnCommit_raises {s : State} (h : reaches s Reg.SEC_CTRL) {key : Nat} (hkey : key = 0xA5)
    (hlt : s.rd Reg.SEC_STATUS_SVN_FUSE < s.rd Reg.SEC_STATUS_SVN_RUN) :
    exec (.svnCommit key) s = .next (s.wr Reg.SEC_STATUS_SVN_FUSE (s.rd Reg.SEC_STATUS_SVN_RUN)) := by
  show execSvnCommit key s = _
  unfold execSvnCommit
  rw [bar_of_reaches h]
  exact if_pos ⟨hkey, hlt⟩

theorem exec_svnCommit_ignored {s : State} (h : reaches s Reg.SEC_CTRL) {key : Nat}
    (hno : key ≠ 0xA5 ∨ s.rd Reg.SEC_STATUS_SVN_RUN ≤ s.rd Reg.SEC_STATUS_SVN_FUSE) : exec (.svnCommit key) s = .next s := by
  show execSvnCommit key s = _
  unfold execSvnCommit
  rw [bar_of_reaches h]
  exact if_neg fun hyes => hno.elim (· hyes.1) fun hle => Nat.not_lt.2 hle hyes.2

theorem exec_recovGo_offers {s : State} (h : reaches s Reg.SEC_CTRL) (hrom : s.pwr.romService = true) (hlc : s.lifecycle ≠ 4) :
    exec .recovGo s = .next (s.wr Reg.SEC_CTRL_RECOV_GO 1) := by
  show execRecovGo s = _
  unfold execRecovGo
  rw [bar_of_reaches h]
  exact if_pos ⟨hrom, hlc⟩

theorem exec_recovGo_ignored {s : State} (h : reaches s Reg.SEC_CTRL) (hno : s.pwr.romService = false ∨ s.lifecycle = 4) :
    exec .recovGo s = .next s := by
  show execRecovGo s = _
  unfold execRecovGo
  rw [bar_of_reaches h]
  exact if_neg fun hyes => hno.elim (fun hrom => by simp [hrom] at hyes) hyes.2

/-! ### Images (R716, R717) -/

/-- SEC and PWR note that the firmware of a digest runs. -/
def State.runsFirmware (s : State) (dig : BitVec 256) : State :=
  { s with sec := { s.sec with fwDigest := dig }, pwr := { s.pwr with fwRunning := true, romService := false } }

/-- SEC_BOOT shows an image and its key slot. -/
def State.bootWr (s : State) (image slot : Nat) : State := (s.wr Reg.SEC_BOOT_IMAGE image).wr Reg.SEC_BOOT_KEY_SLOT slot

theorem startFirmware_eq (s : State) (image : Nat) (data : List Nat) : ∃ dig slot svn w,
    s.startFirmware image data = (((s.runsFirmware dig).bootWr image slot).wr Reg.SEC_STATUS_SVN_RUN svn).setReg Reg.GLB_FW w := ⟨_, _, _, _, rfl⟩

theorem rd_bootWr (s : State) (image slot : Nat) : (s.bootWr image slot).rd Reg.SEC_BOOT_IMAGE = image % 2 ^ 4 :=
  (rd_wr_part_other (s.wr Reg.SEC_BOOT_IMAGE image) Reg.SEC_BOOT slot (by decide) (by decide)).trans (rd_wr_same s Reg.SEC_BOOT_IMAGE image (by decide))

theorem bootWr_pwr (s : State) (image slot : Nat) : (s.bootWr image slot).pwr = s.pwr := by
  unfold State.bootWr
  rw [State.wr_pwr, State.wr_pwr]

theorem runsFirmware_pwr (s : State) (dig : BitVec 256) : (s.runsFirmware dig).pwr = { s.pwr with fwRunning := true, romService := false } := rfl

theorem startFirmware_runs (s : State) (data : List Nat) {image : Nat} (himage : image < 16) :
    (s.startFirmware image data).pwr = { s.pwr with fwRunning := true, romService := false } ∧
      (s.startFirmware image data).rd Reg.SEC_BOOT_IMAGE = image := by
  obtain ⟨dig, slot, svn, w, heq⟩ := startFirmware_eq s image data
  rw [heq]
  constructor
  · rw [State.setReg_pwr, State.wr_pwr, bootWr_pwr, runsFirmware_pwr]
  · rw [rd_setReg_other _ _ _ _ (by decide), rd_wr_reg _ _ _ _ (by decide), rd_bootWr]
    exact Nat.mod_eq_of_lt himage

/-- A failed check is recorded. -/
def State.imageFails (s : State) (code : Nat) : State := ((s.wr Reg.SEC_CTRL_RECOV_GO 0).secErr code).wr Reg.SEC_BOOT_FAIL_CODE code

/-- A flash image is bad. -/
def State.imageBad (s : State) (image : Nat) : State := { s with sec := { s.sec with badImages := image + 1 } }

/-- The boot ROM serves the host (R717). -/
def State.toRom (s : State) (p : PwrSt) : State := { s with pwr := { p with romService := true } }

theorem imageFails_pwr (s : State) (code : Nat) : (s.imageFails code).pwr = s.pwr := by
  unfold State.imageFails
  rw [State.wr_pwr, (secErr_records _ _).pwr, State.wr_pwr]

theorem rd_imageFails (s : State) (code : Nat) : (s.imageFails code).rd Reg.SEC_BOOT_FAIL_CODE = code % 2 ^ 16 :=
  rd_wr_same _ Reg.SEC_BOOT_FAIL_CODE code (by decide)

/-- What the check reads of an image: the host's is cut to its length. -/
def State.imageOf (s : State) (image : Nat) (data : List Nat) : List Nat :=
  if image = 2 then data.take (s.rd Reg.SEC_RECOV_LEN_LENGTH) else data

theorem exec_imageVerify_starts {s : State} {image : Nat} {data : List Nat} (hdue : s.imageDue = some image)
    (hcheck : (s.wr Reg.SEC_CTRL_RECOV_GO 0).imageCheck (s.imageOf image data) = none) :
    exec (.imageVerifyDone image data) s = .next ((s.wr Reg.SEC_CTRL_RECOV_GO 0).startFirmware image data) := by
  show execImageVerifyDone image data s = _
  unfold execImageVerifyDone
  rw [if_pos hdue]
  unfold State.imageOf at hcheck
  dsimp only
  rw [hcheck]

/-- A check that fails: the host's image is dropped, A makes way for B, and B for the boot ROM. -/
def State.imageDrops (s : State) (image code : Nat) : State :=
  if image = 2 then s.imageFails code
  else if image = 0 then (s.imageFails code).imageBad image
  else (((s.imageFails code).imageBad image).secErr 0x0F05).toRom ((s.imageFails code).imageBad image).pwr

theorem exec_imageVerify_fails {s : State} {image code : Nat} {data : List Nat} (hdue : s.imageDue = some image)
    (hcheck : (s.wr Reg.SEC_CTRL_RECOV_GO 0).imageCheck (s.imageOf image data) = some code) :
    exec (.imageVerifyDone image data) s = .next (s.imageDrops image code) := by
  show execImageVerifyDone image data s = _
  unfold execImageVerifyDone
  rw [if_pos hdue]
  unfold State.imageOf at hcheck
  dsimp only
  rw [hcheck]
  dsimp only
  unfold State.imageDrops
  split
  · rfl
  · split <;> rfl

theorem imageCheck_of_short (s : State) {data : List Nat} (h : data.length < 256) : s.imageCheck data = some 0x0F01 := if_pos (.inl h)

theorem imageBad_rd (s : State) (image : Nat) (f : RegField) : (s.imageBad image).rd f = s.rd f := rfl

theorem imageBad_sec (s : State) (image : Nat) : (s.imageBad image).sec = { s.sec with badImages := image + 1 } := rfl

theorem imageBad_pwr (s : State) (image : Nat) : (s.imageBad image).pwr = s.pwr := rfl

theorem toRom_rd (s : State) (p : PwrSt) (f : RegField) : (s.toRom p).rd f = s.rd f := rfl

theorem toRom_sec (s : State) (p : PwrSt) : (s.toRom p).sec = s.sec := rfl

theorem toRom_pwr (s : State) (p : PwrSt) : (s.toRom p).pwr = { p with romService := true } := rfl

theorem imageDrops_shows (s : State) {image code : Nat} (himage : image < 3) (hcode : code < 2 ^ 16) :
    (s.imageDrops image code).rd Reg.SEC_BOOT_FAIL_CODE = code ∧ (s.imageDrops image code).pwr.fwRunning = s.pwr.fwRunning ∧
      (image < 2 → (s.imageDrops image code).sec.badImages = image + 1) ∧
      (s.imageDrops image code).pwr.romService = (if image = 1 then true else s.pwr.romService) := by
  have hread : (s.imageFails code).rd Reg.SEC_BOOT_FAIL_CODE = code := (rd_imageFails s code).trans (Nat.mod_eq_of_lt hcode)
  have herr := secErr_records ((s.imageFails code).imageBad image) 0x0F05
  unfold State.imageDrops
  obtain rfl | rfl | rfl : image = 0 ∨ image = 1 ∨ image = 2 := by omega
  · rw [if_neg (by decide), if_pos rfl, imageBad_rd, imageBad_sec, imageBad_pwr, imageFails_pwr]
    exact ⟨hread, rfl, fun _ => rfl, rfl⟩
  · rw [if_neg (by decide), if_neg (by decide), toRom_rd, toRom_sec, toRom_pwr, herr.rd _ (by decide) (by decide) (by decide), herr.sec,
      imageBad_rd, imageBad_sec, imageBad_pwr, imageFails_pwr]
    exact ⟨hread, rfl, fun _ => rfl, rfl⟩
  · rw [if_pos rfl, imageFails_pwr]
    exact ⟨hread, rfl, fun h => absurd h (by decide), rfl⟩

/-! ### Tamper (R724) -/

/-- SEC_TAMPER latches a source, and the rail of the first rail event. -/
def State.tamperLatch (s : State) (source rail : Nat) : State :=
  let s1 := (s.wr Reg.SEC_TAMPER_LATCHED 1).wr Reg.SEC_TAMPER_SOURCES (s.rd Reg.SEC_TAMPER_SOURCES ||| 2 ^ source)
  if source = 0 ∧ s1.rd Reg.SEC_TAMPER_RAIL = 0xFF then s1.wr Reg.SEC_TAMPER_RAIL rail else s1

/-- SEC holds no key and marks the tamper event. -/
def State.tampered (s : State) (mono : Nat) : State :=
  { s with sec := { s.sec with key := none, reDeriving := false, tampered := true, tamperMono := some mono } }

/-- The wipe that a tamper event starts, and the requests that fail by it. -/
def State.tamperWipe (s : State) (mono : Nat) : State := (((s.startWipe 1).wr Reg.SEC_STATUS_KEY_READY 0).tampered mono).failSigns

/-- A tamper event is counted and recorded. -/
def State.tamperFile (s : State) (d0 d1 : Nat) : State :=
  ((s.bumpSat Reg.SEC_STATUS_TAMPER_EVENTS).setErr Reg.SEC_ERR true (0, 0, 0) 0x0F06).file .sec 0xFFFF 0x0F06 d0 d1

/-- A recorded tamper event is reported on a service ring that runs. -/
def State.tamperReport (s : State) (d0 d1 : Nat) : State :=
  if s.rd (Reg.HIF_PRING_STATUS_STATE (s.rd Reg.HIF_SVC_PRING_PRING)) = 1 then s.devError 0x0F06 d0 d1 else s

/-- What a tamper event latched is recorded and reported. -/
def State.tamperTells (s u : State) : State :=
  (s.tamperFile (u.rd Reg.SEC_TAMPER_SOURCES) (u.rd Reg.SEC_TAMPER_RAIL)).tamperReport (u.rd Reg.SEC_TAMPER_SOURCES) (u.rd Reg.SEC_TAMPER_RAIL)

theorem tamper_of_enabled {s : State} {source : Nat} (rail : Nat) (h : bitsOf (s.rd Reg.SEC_TAMPER_EN_EN) source 1 ≠ 0) :
    s.tamper source rail = (if s.sec.tamperMono = some s.time.mono then (s.tamperLatch source rail).tamperWipe s.time.mono
      else ((s.tamperLatch source rail).tamperWipe s.time.mono).tamperTells (s.tamperLatch source rail)) := if_neg h

theorem tamper_source_lt {s : State} {source : Nat} (h : bitsOf (s.rd Reg.SEC_TAMPER_EN_EN) source 1 = 1) : source < 5 := by
  refine Nat.lt_of_not_le fun hle => ?_
  have hlt : s.rd Reg.SEC_TAMPER_EN_EN < 2 ^ source :=
    Nat.lt_of_lt_of_le (rd_lt s Reg.SEC_TAMPER_EN_EN) (Nat.pow_le_pow_right (by decide) hle)
  unfold bitsOf at h
  rw [Nat.shiftRight_eq_div_pow, Nat.div_eq_of_lt hlt] at h
  simp at h

theorem rd_tamperLatch (s : State) {source : Nat} (rail : Nat) (h : source < 5) :
    (s.tamperLatch source rail).rd Reg.SEC_TAMPER_LATCHED = 1 ∧
      (s.tamperLatch source rail).rd Reg.SEC_TAMPER_SOURCES = s.rd Reg.SEC_TAMPER_SOURCES ||| 2 ^ source := by
  have hsources : s.rd Reg.SEC_TAMPER_SOURCES ||| 2 ^ source < 2 ^ 5 :=
    Nat.or_lt_two_pow (rd_lt s Reg.SEC_TAMPER_SOURCES) (Nat.pow_lt_pow_right (by decide) h)
  have hset : ((s.wr Reg.SEC_TAMPER_LATCHED 1).wr Reg.SEC_TAMPER_SOURCES (s.rd Reg.SEC_TAMPER_SOURCES ||| 2 ^ source)).rd Reg.SEC_TAMPER_SOURCES =
      s.rd Reg.SEC_TAMPER_SOURCES ||| 2 ^ source := (rd_wr_same _ Reg.SEC_TAMPER_SOURCES _ (by decide)).trans (Nat.mod_eq_of_lt hsources)
  have hlatched : ((s.wr Reg.SEC_TAMPER_LATCHED 1).wr Reg.SEC_TAMPER_SOURCES (s.rd Reg.SEC_TAMPER_SOURCES ||| 2 ^ source)).rd Reg.SEC_TAMPER_LATCHED = 1 :=
    (rd_wr_part_other _ Reg.SEC_TAMPER _ (by decide) (by decide)).trans (rd_wr_same s Reg.SEC_TAMPER_LATCHED 1 (by decide))
  unfold State.tamperLatch
  dsimp only
  generalize (s.wr Reg.SEC_TAMPER_LATCHED 1).wr Reg.SEC_TAMPER_SOURCES (s.rd Reg.SEC_TAMPER_SOURCES ||| 2 ^ source) = u at hset hlatched ⊢
  split
  · exact ⟨(rd_wr_part_other u Reg.SEC_TAMPER rail (by decide) (by decide)).trans hlatched,
      (rd_wr_part_other u Reg.SEC_TAMPER rail (by decide) (by decide)).trans hset⟩
  · exact ⟨hlatched, hset⟩

theorem tampered_rd (s : State) (mono : Nat) (f : RegField) : (s.tampered mono).rd f = s.rd f := rfl

theorem tampered_sec (s : State) (mono : Nat) :
    (s.tampered mono).sec = { s.sec with key := none, reDeriving := false, tampered := true, tamperMono := some mono } := rfl

/-- What a tamper event leaves of the secrets. -/
structure Tampered (t : State) : Prop where
  keyReady : t.rd Reg.SEC_STATUS_KEY_READY = 0
  wiping : t.rd Reg.MEM_SECURE_STATUS_WIPING = 1
  key : t.sec.key = none
  tampered : t.sec.tampered = true
  reDeriving : t.sec.reDeriving = false

theorem tamperWipe_tampered (s : State) (mono : Nat) : Tampered (s.tamperWipe mono) := by
  have hwiping := rd_startWipe_wiping s 1
  unfold State.tamperWipe
  generalize s.startWipe 1 = u at hwiping ⊢
  have hregs : SameRegs (fun a => a = Reg.SEC_STATUS ∨ a = Reg.MEM_SECURE_STATUS) ((u.wr Reg.SEC_STATUS_KEY_READY 0).tampered mono)
      ((u.wr Reg.SEC_STATUS_KEY_READY 0).tampered mono).failSigns :=
    failSigns_regs _ (by rintro a (rfl | rfl) <;> decide) (by decide) (by decide)
  have hsec := failSigns_sec ((u.wr Reg.SEC_STATUS_KEY_READY 0).tampered mono)
  rw [tampered_sec] at hsec
  constructor
  case keyReady => exact (hregs.rd (.inl rfl)).trans ((tampered_rd _ _ _).trans (rd_wr_same u Reg.SEC_STATUS_KEY_READY 0 (by decide)))
  case wiping => exact (hregs.rd (.inr rfl)).trans ((tampered_rd _ _ _).trans ((rd_wr_reg u _ _ 0 (by decide)).trans hwiping))
  all_goals rw [hsec]

theorem tamperWipe_regs (s : State) (mono : Nat) : SameRegs (· = Reg.SEC_TAMPER) s (s.tamperWipe mono) := by
  unfold State.tamperWipe
  refine .trans (.with (.wr (startWipe_regs s 1 (by decide)) 0 (by decide)) (u := ((s.startWipe 1).wr Reg.SEC_STATUS_KEY_READY 0).tampered mono) rfl)
    (failSigns_regs _ (by rintro a rfl; decide) (by decide) (by decide))

theorem rd_bumpSat_beside (s : State) (a : Nat) {lo w lo2 w2 : Nat} (hfit : lo + w ≤ 32) (hbeside : lo2 + w2 ≤ lo ∨ lo + w ≤ lo2) :
    (s.bumpSat ⟨a, lo, w⟩).rd ⟨a, lo2, w2⟩ = s.rd ⟨a, lo2, w2⟩ := by
  unfold State.bumpSat
  split
  · exact rd_wr_part_other s a _ hfit hbeside
  · rfl

theorem tamperTells_sec (s u : State) : (s.tamperTells u).sec = s.sec := by
  unfold State.tamperTells State.tamperReport State.tamperFile
  split
  · rw [devError_sec, (file_records _ _ _ _ _ _).sec, (setErr_records _ _ _ _ _).sec]
    exact (State.bumpSat_keeps (L := 1) s _ rfl (.refl s)).parts.same .sec rfl
  · rw [(file_records _ _ _ _ _ _).sec, (setErr_records _ _ _ _ _).sec]
    exact (State.bumpSat_keeps (L := 1) s _ rfl (.refl s)).parts.same .sec rfl

theorem tamperReport_regs {P : Nat → Prop} (s : State) (d0 d1 : Nat) (hP : ¬P Reg.HIF_SVC_LOST) : SameRegs P s (s.tamperReport d0 d1) :=
  ite_both (P := SameRegs P s) (.devError (.refl s) _ _ _ _ _ hP) (.refl s)

theorem tamperTells_regs (s u : State) :
    SameRegs (fun a => a = Reg.SEC_TAMPER ∨ a = Reg.SEC_STATUS ∨ a = Reg.MEM_SECURE_STATUS) (s.bumpSat Reg.SEC_STATUS_TAMPER_EVENTS) (s.tamperTells u) := by
  unfold State.tamperTells State.tamperFile
  refine .trans (.file (.setErr (.refl _) _ _ _ (by decide)) _ _ _ _ _ ?_) (tamperReport_regs _ _ _ (by decide))
  rintro a (rfl | rfl | rfl) <;> decide

theorem tamperTells_tampered {s : State} (h : Tampered s) (u : State) : Tampered (s.tamperTells u) := by
  obtain ⟨hready, hwiping, hkey, htampered, hderiving⟩ := h
  have hregs := tamperTells_regs s u
  have hsec := tamperTells_sec s u
  constructor
  case keyReady =>
    exact (hregs.rd (.inr (.inl rfl))).trans ((rd_bumpSat_beside s Reg.SEC_STATUS (by decide) (by decide)).trans hready)
  case wiping => exact (hregs.rd (.inr (.inr rfl))).trans (((SameRegs.bumpSat (P := (· = Reg.MEM_SECURE_STATUS)) (.refl s) (by decide)).rd rfl).trans hwiping)
  all_goals rw [hsec]; assumption

/-- The tamper record stays while an event is told. -/
theorem tamperTells_record (s u : State) : SameRegs (· = Reg.SEC_TAMPER) s (s.tamperTells u) :=
  .trans (.bumpSat (.refl s) (by decide)) ((tamperTells_regs s u).mono fun _ h => .inl h)

theorem tamper_shows {s : State} {source : Nat} (rail : Nat) (h : bitsOf (s.rd Reg.SEC_TAMPER_EN_EN) source 1 = 1) :
    Tampered (s.tamper source rail) ∧ SameRegs (· = Reg.SEC_TAMPER) (s.tamperLatch source rail) (s.tamper source rail) := by
  have hwiped := tamperWipe_tampered (s.tamperLatch source rail) s.time.mono
  have hregs := tamperWipe_regs (s.tamperLatch source rail) s.time.mono
  rw [tamper_of_enabled rail (by rw [h]; decide)]
  split
  · exact ⟨hwiped, hregs⟩
  · exact ⟨tamperTells_tampered hwiped _, hregs.trans (tamperTells_record _ _)⟩

theorem tamperEvent_shows {s : State} {source : Nat} (rail : Nat) (h : bitsOf (s.rd Reg.SEC_TAMPER_EN_EN) source 1 = 1) :
    completes (.tamperEvent source rail) s fun t =>
      t.rd Reg.SEC_TAMPER_LATCHED = 1 ∧ t.rd Reg.SEC_TAMPER_SOURCES = s.rd Reg.SEC_TAMPER_SOURCES ||| 2 ^ source ∧
      t.rd Reg.SEC_STATUS_KEY_READY = 0 ∧ t.rd Reg.MEM_SECURE_STATUS_WIPING = 1 ∧ t.sec.key = none ∧ t.sec.tampered = true ∧
      t.sec.reDeriving = false ∧ t.jobs = s.jobs := by
  obtain ⟨⟨hready, hwiping, hkey, htampered, hderiving⟩, hrecord⟩ := tamper_shows rail h
  obtain ⟨hlatched, hsources⟩ := rd_tamperLatch s rail (tamper_source_lt h)
  exact ⟨_, rfl, (hrecord.rd rfl).trans hlatched, (hrecord.rd rfl).trans hsources, hready, hwiping, hkey, htampered, hderiving,
    (State.tamper_keeps (L := 12582939) s source rail rfl (.refl s)).parts.same .jobs rfl⟩

/-- The tamper record is cleared. -/
def State.tamperClears (s : State) : State := ((s.wr Reg.SEC_TAMPER_LATCHED 0).wr Reg.SEC_TAMPER_RAIL 0xFF).wr Reg.SEC_TAMPER_SOURCES 0

theorem exec_secTamperClr_clears {s : State} {w : BitVec 32} (h : reaches s Reg.SEC_TAMPER_CLR) (hkey : bitsOf w.toNat 24 8 = 0xA5)
    (hclear : bitsOf w.toNat 0 1 = 1) : exec (.secTamperClr w) s = .next s.tamperClears := by
  show execSecTamperClr w s = _
  unfold execSecTamperClr
  rw [bar_of_reaches h]
  exact if_pos ⟨hkey, hclear⟩

theorem exec_secTamperClr_ignored {s : State} {w : BitVec 32} (h : reaches s Reg.SEC_TAMPER_CLR) (hkey : bitsOf w.toNat 24 8 ≠ 0xA5) :
    exec (.secTamperClr w) s = .next s := by
  show execSecTamperClr w s = _
  unfold execSecTamperClr
  rw [bar_of_reaches h]
  exact if_neg fun hyes => hkey hyes.1

theorem tamperClears_shows (s : State) : s.tamperClears.rd Reg.SEC_TAMPER_LATCHED = 0 ∧ s.tamperClears.rd Reg.SEC_TAMPER_RAIL = 0xFF ∧
    s.tamperClears.rd Reg.SEC_TAMPER_SOURCES = 0 ∧ onlyRegs [Reg.SEC_TAMPER] s s.tamperClears := by
  refine ⟨?_, ?_, ?_, ?_⟩
  · exact (rd_wr_part_other _ Reg.SEC_TAMPER 0 (by decide) (by decide)).trans ((rd_wr_part_other _ Reg.SEC_TAMPER 0xFF (by decide) (by decide)).trans
      (rd_wr_same s Reg.SEC_TAMPER_LATCHED 0 (by decide)))
  · exact (rd_wr_part_other _ Reg.SEC_TAMPER 0 (by decide) (by decide)).trans (rd_wr_same _ Reg.SEC_TAMPER_RAIL 0xFF (by decide))
  · exact rd_wr_same _ Reg.SEC_TAMPER_SOURCES 0 (by decide)
  · have hregs : SameRegs (· ∉ [Reg.SEC_TAMPER]) s s.tamperClears := .wr (.wr (.wr (.refl s) 0 (by decide)) 0xFF (by decide)) 0 (by decide)
    exact ⟨rfl, hregs.reg⟩

/-! ### The clauses of signing requests, and of images -/

theorem quoteGo_follows {s : State} (h : reaches s Reg.SEC_CTRL) :
    (s.sec.quoteReq.isSome = true → completes .quoteGo s fun t => t = s) ∧
    (s.sec.quoteReq = none → s.sec.key.isSome = true → completes .quoteGo s fun t =>
      t.rd Reg.SEC_CTRL_QUOTE_GO = 1 ∧ t.rd Reg.SEC_STATUS_QUOTE_DONE = 0 ∧ onlyRegs [Reg.SEC_CTRL, Reg.SEC_STATUS] { s with sec := t.sec } t ∧
      ∃ q, t.sec = { s.sec with quoteReq := some q } ∧ q.nonce = s.nonce ∧ q.mono = s.time.mono) ∧
    (s.sec.quoteReq = none → s.sec.key = none → s.sec.reDeriving = false → completes .quoteGo s fun t =>
      t.rd Reg.SEC_CTRL_QUOTE_GO = 0 ∧ t.rd Reg.SEC_STATUS_QUOTE_DONE = 0 ∧ t.sec = s.sec) := by
  have hexec := exec_quoteGo h
  refine ⟨fun hreq => ?_, fun hreq hkey => ?_, fun hreq hkey hderiving => ?_⟩
  · rw [hreq, signGo_pending] at hexec
    exact ⟨s, hexec, rfl⟩
  · rw [hreq, Option.isSome_none, signGo_of_key hkey] at hexec
    exact ⟨_, hexec, quoteGo_latches s⟩
  · rw [hreq, Option.isSome_none, signGo_of_none hkey hderiving] at hexec
    exact ⟨_, hexec, signFails_shows rfl rfl (by decide) (by decide)⟩

theorem burgeeGo_follows {s : State} (h : reaches s Reg.SEC_CTRL) :
    (s.sec.burgeeReq.isSome = true → completes .burgeeGo s fun t => t = s) ∧
    (s.sec.burgeeReq = none → s.sec.key.isSome = true → completes .burgeeGo s fun t =>
      t.rd Reg.SEC_CTRL_BURGEE_GO = 1 ∧ t.rd Reg.SEC_STATUS_BURGEE_DONE = 0 ∧ onlyRegs [Reg.SEC_CTRL, Reg.SEC_STATUS] { s with sec := t.sec } t ∧
      ∃ q, t.sec = { s.sec with burgeeReq := some q } ∧ q.nonce = s.nonce ∧ q.mono = s.time.mono) ∧
    (s.sec.burgeeReq = none → s.sec.key = none → s.sec.reDeriving = false → completes .burgeeGo s fun t =>
      t.rd Reg.SEC_CTRL_BURGEE_GO = 0 ∧ t.rd Reg.SEC_STATUS_BURGEE_DONE = 0 ∧ t.sec = s.sec) := by
  have hexec := exec_burgeeGo h
  refine ⟨fun hreq => ?_, fun hreq hkey => ?_, fun hreq hkey hderiving => ?_⟩
  · rw [hreq, signGo_pending] at hexec
    exact ⟨s, hexec, rfl⟩
  · rw [hreq, Option.isSome_none, signGo_of_key hkey] at hexec
    exact ⟨_, hexec, burgeeGo_latches s⟩
  · rw [hreq, Option.isSome_none, signGo_of_none hkey hderiving] at hexec
    exact ⟨_, hexec, signFails_shows rfl rfl (by decide) (by decide)⟩

theorem imageVerify_starts {s : State} {image : Nat} {data : List Nat} (himage : image < 3) (hdue : s.imageDue = some image)
    (hcheck : (s.wr Reg.SEC_CTRL_RECOV_GO 0).imageCheck (s.imageOf image data) = none) : completes (.imageVerifyDone image data) s fun t =>
      t.pwr.fwRunning = true ∧ t.pwr.romService = false ∧ t.rd Reg.SEC_BOOT_IMAGE = image := by
  obtain ⟨hpwr, hboot⟩ := startFirmware_runs (s.wr Reg.SEC_CTRL_RECOV_GO 0) data (image := image) (by omega)
  refine ⟨_, exec_imageVerify_starts hdue hcheck, ?_, ?_, hboot⟩
  · rw [hpwr]
  · rw [hpwr]

theorem imageVerify_fails {s : State} {image : Nat} {data : List Nat} (himage : image < 3) (hdue : s.imageDue = some image)
    (hshort : (s.imageOf image data).length < 256) : completes (.imageVerifyDone image data) s fun t =>
      t.rd Reg.SEC_BOOT_FAIL_CODE = 0x0F01 ∧ t.pwr.fwRunning = s.pwr.fwRunning ∧ (image < 2 → t.sec.badImages = image + 1) ∧
      t.pwr.romService = (if image = 1 then true else s.pwr.romService) :=
  ⟨_, exec_imageVerify_fails hdue (imageCheck_of_short _ hshort), imageDrops_shows s himage (by decide)⟩

end Sys2Proof.Machine

namespace Sys2Proof

open Machine

/-- Settles O48: each key, signing, boot and tamper step by its own rule; a tamper source that is enabled is one of the five, and what
its event records and reports leaves SEC_TAMPER, KEY_READY and the wipe as they are. -/
theorem signingBootAndTamper : Obligations.SigningBootAndTamper := by
  unfold Obligations.SigningBootAndTamper
  refine ⟨fun s hderiving hwipe => ⟨_, exec_keyDerivationDone hderiving hwipe, ?_⟩, fun s hreach => ?_, fun s hkey => ⟨fun hq => ?_, fun hb hq => ?_⟩,
    fun s key hreach => ⟨fun hkey hlt => ?_, fun hno => ?_⟩, fun s hreach => ⟨fun hrom hlc => ?_, fun hno => ?_⟩, ?_,
    fun s source rail => ⟨fun hoff => ?_, fun hon => ?_⟩, fun s w hreach => ⟨fun hkey hclear => ?_, fun hkey => ?_⟩⟩
  · exact takeKey_shows s _ (by split <;> decide)
  · obtain ⟨hqSame, hqLatch, hqFail⟩ := quoteGo_follows hreach
    obtain ⟨hbSame, hbLatch, hbFail⟩ := burgeeGo_follows hreach
    exact ⟨hqSame, hbSame, hqLatch, hbLatch, hqFail, hbFail⟩
  · exact quoteDone_shows hq hkey
  · exact burgeeDone_shows hb hq hkey
  · refine ⟨_, exec_svnCommit_raises hreach hkey hlt, ?_, onlyRegs_wr s _ _⟩
    exact (rd_wr_same s Reg.SEC_STATUS_SVN_FUSE _ (by decide)).trans (Nat.mod_eq_of_lt (rd_lt s Reg.SEC_STATUS_SVN_RUN))
  · exact ⟨s, exec_svnCommit_ignored hreach hno, rfl⟩
  · exact ⟨_, exec_recovGo_offers hreach hrom hlc, rd_wr_same s Reg.SEC_CTRL_RECOV_GO 1 (by decide), onlyRegs_wr s _ _⟩
  · exact ⟨s, exec_recovGo_ignored hreach hno, rfl⟩
  · rintro s image data _ himage hdue rfl
    exact ⟨imageVerify_starts himage hdue, imageVerify_fails himage hdue⟩
  · exact ⟨_, rfl, if_pos hoff⟩
  · exact tamperEvent_shows rail hon
  · exact ⟨_, exec_secTamperClr_clears hreach hkey hclear, tamperClears_shows s⟩
  · exact ⟨s, exec_secTamperClr_ignored hreach hkey, rfl⟩

end Sys2Proof
end

section
/-! SUPPORT. Lifecycle commands: their checks, what they burn and how they end (R707 to R713). -/

set_option Elab.async false

namespace Sys2Proof.Machine

/-! ### Bytes that registers of consecutive words show (R8) -/

theorem ofBytes_bytesOf (n x : Nat) : ofBytes (bytesOf n x) = x % 256 ^ n := by
  induction n generalizing x with
  | zero => exact (Nat.mod_one x).symm
  | succ n ih =>
    show x % 256 % 256 + 256 * ofBytes (bytesOf n (x / 256)) = _
    rw [ih, Nat.mod_mod, pow_succ, Nat.mul_comm (256 ^ n), Nat.mod_mul]

theorem bytesOf_mod (n x : Nat) : bytesOf n (x % 256 ^ n) = bytesOf n x := by
  induction n generalizing x with
  | zero => rfl
  | succ n ih =>
    show x % 256 ^ (n + 1) % 256 :: bytesOf n (x % 256 ^ (n + 1) / 256) = x % 256 :: bytesOf n (x / 256)
    rw [pow_succ, Nat.mul_comm (256 ^ n), Nat.mod_mul_right_mod, Nat.mod_mul_right_div_self, ih]

theorem bytesOf_add (m n x : Nat) : bytesOf (m + n) x = bytesOf m x ++ bytesOf n (x / 256 ^ m) := by
  induction m generalizing x with
  | zero => simp [bytesOf]
  | succ m ih =>
    rw [Nat.add_right_comm]
    show x % 256 :: bytesOf (m + n) (x / 256) = x % 256 :: (bytesOf m (x / 256) ++ _)
    rw [ih, Nat.div_div_eq_div_mul, pow_succ, Nat.mul_comm 256]

theorem bytesOf_length (n x : Nat) : (bytesOf n x).length = n := by
  induction n generalizing x with
  | zero => rfl
  | succ n ih => exact congrArg (· + 1) (ih _)

/-- The `i`-th word of a number. -/
def wordBytes (x i : Nat) : List Nat := bytesOf 4 (x / 256 ^ (4 * i))

theorem chunksOf_bytesOf {n fuel : Nat} (h : n ≤ fuel) (x : Nat) : chunksOf 4 fuel (bytesOf (4 * n) x) = (List.range n).map (wordBytes x) := by
  induction n generalizing fuel x with
  | zero => cases fuel <;> rfl
  | succ n ih =>
    obtain ⟨fuel, rfl⟩ : ∃ k, fuel = k + 1 := ⟨fuel - 1, by omega⟩
    have hcut : bytesOf (4 * (n + 1)) x = bytesOf 4 x ++ bytesOf (4 * n) (x / 256 ^ 4) := by
      rw [← bytesOf_add, Nat.mul_succ, Nat.add_comm]
    have hstep : chunksOf 4 (fuel + 1) (bytesOf (4 * (n + 1)) x) =
        (bytesOf (4 * (n + 1)) x).take 4 :: chunksOf 4 fuel ((bytesOf (4 * (n + 1)) x).drop 4) := rfl
    rw [hstep, hcut, List.take_left' (bytesOf_length 4 x), List.drop_left' (bytesOf_length 4 x), ih (by omega), List.range_succ_eq_map,
      List.map_cons, List.map_map]
    refine congrArg₂ List.cons (by simp [wordBytes]) (List.map_congr_left fun i _ => ?_)
    simp only [wordBytes, Function.comp_apply, Nat.div_div_eq_div_mul, ← pow_add, Nat.mul_succ, Nat.add_comm]

/-- Show a word of bytes in the register of its place. -/
def State.putWord (s : State) (a : Nat) (q : List Nat × Nat) : State := s.setReg (a + 4 * q.2) (BitVec.ofNat 32 (ofBytes q.1))

theorem putBytes_eq (s : State) (a : Nat) (l : List Nat) : s.putBytes a l = (chunksOf 4 l.length l).zipIdx.foldl (State.putWord · a ·) s := rfl

theorem reg_putWords_other (s : State) (a : Nat) (l : List (List Nat × Nat)) {b : Nat} (h : ∀ q ∈ l, b ≠ a + 4 * q.2) :
    (l.foldl (State.putWord · a ·) s).reg b = s.reg b :=
  List.foldlRecOn (motive := fun t : State => t.reg b = s.reg b) l _ rfl fun t ht q hq => (reg_setReg_other t _ _ _ (h q hq)).trans ht

theorem reg_putWords (s : State) (a : Nat) (l : List (List Nat)) (k : Nat) {i : Nat} (h : i < l.length) :
    ((l.zipIdx k).foldl (State.putWord · a ·) s).reg (a + 4 * (k + i)) = BitVec.ofNat 32 (ofBytes l[i]) := by
  induction l generalizing s k i with
  | nil => exact absurd h (Nat.not_lt_zero i)
  | cons b l ih =>
    rw [List.zipIdx_cons, List.foldl_cons]
    cases i with
    | zero =>
      refine (reg_putWords_other _ a _ fun q hq => ?_).trans (reg_setReg_same s _ _)
      have hle := (List.mem_zipIdx hq).1
      omega
    | succ i =>
      rw [show k + (i + 1) = k + 1 + i by omega]
      exact ih _ _ (Nat.lt_of_succ_lt_succ h)

/-- What registers show of a number's bytes that were put there. -/
theorem regBytes_putBytes (s : State) (a n x : Nat) : (s.putBytes a (bytesOf (4 * n) x)).regBytes a n = bytesOf (4 * n) x := by
  have hwords := chunksOf_bytesOf (n := n) (fuel := 4 * n) (by omega) x
  have hjoin : (List.range n).flatMap (wordBytes x) = bytesOf (4 * n) x := by
    clear hwords
    induction n with
    | zero => rfl
    | succ n ih => rw [List.range_succ, List.flatMap_append, ih, Nat.mul_succ, bytesOf_add, List.flatMap_singleton, wordBytes]
  refine Eq.trans (List.flatMap_congr fun i hi => ?_) hjoin
  have hi := List.mem_range.1 hi
  have hreg := reg_putWords s a ((List.range n).map (wordBytes x)) 0 (i := i) (by simpa using hi)
  rw [Nat.zero_add] at hreg
  rw [putBytes_eq, bytesOf_length, hwords, hreg, List.getElem_map, List.getElem_range, BitVec.toNat_ofNat]
  unfold wordBytes
  rw [ofBytes_bytesOf, show (256 ^ 4 : Nat) = 2 ^ 32 by decide, Nat.mod_mod, show (2 ^ 32 : Nat) = 256 ^ 4 by decide, bytesOf_mod]

/-! ### The checks of a lifecycle command (R707, R708) -/

theorem lcCommand_of_busy {s : State} (h : s.rd Reg.SEC_LC_STATUS_STATE = 1) (allowed changes : Bool) (f : State → State) :
    s.lcCommand allowed changes f = s.secErr 0x0F09 := if_pos (beq_iff_eq.2 h)

section
variable {s : State} (hidle : s.rd Reg.SEC_LC_STATUS_STATE ≠ 1)
include hidle

theorem lcBusy_of_idle : ¬s.lcBusy = true := fun h => hidle (beq_iff_eq.1 h)

theorem lcCommand_illegal (changes : Bool) (f : State → State) : s.lcCommand false changes f = s.lcEnd 0x0F0A :=
  (if_neg (lcBusy_of_idle hidle)).trans (if_pos rfl)

theorem lcCommand_unquiet (hquiet : s.lcQuiet = false) (f : State → State) : s.lcCommand true true f = s.lcEnd 0x0F09 :=
  (if_neg (lcBusy_of_idle hidle)).trans ((if_neg (by decide)).trans (if_pos ⟨rfl, hquiet⟩))

theorem lcCommand_quiet (hquiet : s.lcQuiet = true) (f : State → State) : s.lcCommand true true f = f s :=
  (if_neg (lcBusy_of_idle hidle)).trans ((if_neg (by decide)).trans (if_neg fun h => by simp [hquiet] at h))

theorem lcCommand_free (f : State → State) : s.lcCommand true false f = f s :=
  (if_neg (lcBusy_of_idle hidle)).trans ((if_neg (by decide)).trans (if_neg fun h => by simp at h))

end

theorem withToken_pass {s : State} {op slot : Nat} (h : s.tokenOk op slot = true) (f : State → State) : s.withToken op slot f = f s.consume :=
  if_pos h

theorem withToken_fail {s : State} {op slot : Nat} (h : s.tokenOk op slot = false) (f : State → State) :
    s.withToken op slot f = s.consume.lcEnd 0x0F08 := if_neg (by simp [h])

/-! ### How a lifecycle command ends (R707, R727) -/

/-- SEC_LC_STATUS as given. -/
def State.lcWr (s : State) (state result : Nat) : State := (s.wr Reg.SEC_LC_STATUS_STATE state).wr Reg.SEC_LC_STATUS_RESULT result

theorem lcWr_sec (s : State) (state result : Nat) : (s.lcWr state result).sec = s.sec := by
  unfold State.lcWr
  rw [State.wr_sec, State.wr_sec]

theorem rd_lcWr (s : State) {state result : Nat} (hstate : state < 8) (hresult : result < 2 ^ 16) :
    (s.lcWr state result).rd Reg.SEC_LC_STATUS_STATE = state ∧ (s.lcWr state result).rd Reg.SEC_LC_STATUS_RESULT = result :=
  ⟨(rd_wr_part_other _ Reg.SEC_LC_STATUS result (by decide) (by decide)).trans
      ((rd_wr_same s Reg.SEC_LC_STATUS_STATE state (by decide)).trans (Nat.mod_eq_of_lt hstate)),
    (rd_wr_same _ Reg.SEC_LC_STATUS_RESULT result (by decide)).trans (Nat.mod_eq_of_lt hresult)⟩

theorem lcWr_regs {P : Nat → Prop} (s : State) (state result : Nat) (hP : ¬P Reg.SEC_LC_STATUS) : SameRegs P s (s.lcWr state result) :=
  .wr (.wr (.refl s) state hP) result hP

theorem lcEnd_done (s : State) : s.lcEnd 0 = s.lcWr 2 0 := rfl

theorem lcEnd_code (s : State) {code : Nat} (h : code ≠ 0) : s.lcEnd code = (s.lcWr 3 code).secErr code := by
  unfold State.lcEnd State.lcWr
  rw [if_neg h, if_neg h]

/-- The command succeeded. -/
def lcSucceeds (t : State) : Prop := t.rd Reg.SEC_LC_STATUS_STATE = 2 ∧ t.rd Reg.SEC_LC_STATUS_RESULT = 0

/-- The command failed with a code. -/
def lcFails (t : State) (code : Nat) : Prop := t.rd Reg.SEC_LC_STATUS_STATE = 3 ∧ t.rd Reg.SEC_LC_STATUS_RESULT = code

/-- The command burns a state. -/
def lcBurns (s t : State) (new : Nat) : Prop := t.rd Reg.SEC_LC_STATUS_STATE = 1 ∧ t.sec.busy = some new ∧
  t.sec.lc = s.sec.lc.set 0 new ∧ t.sec.endorsement = s.sec.endorsement

theorem lcEnd_succeeds (s : State) : lcSucceeds (s.lcEnd 0) ∧ (s.lcEnd 0).sec = s.sec ∧ SameRegs (· ≠ Reg.SEC_LC_STATUS) s (s.lcEnd 0) := by
  rw [lcEnd_done]
  exact ⟨rd_lcWr s (by decide) (by decide), lcWr_sec s 2 0, lcWr_regs s 2 0 fun h => h rfl⟩

theorem lcEnd_fails (s : State) {code : Nat} (hne : code ≠ 0) (hcode : code < 2 ^ 16) : lcFails (s.lcEnd code) code ∧ (s.lcEnd code).sec = s.sec ∧
    (s.lcEnd code).rd Reg.SEC_KEYSLOTS_REVOKED = s.rd Reg.SEC_KEYSLOTS_REVOKED := by
  obtain ⟨hstate, hresult⟩ := rd_lcWr s (state := 3) (by decide) hcode
  have herr := secErr_records (s.lcWr 3 code) code
  rw [lcEnd_code s hne]
  refine ⟨⟨?_, ?_⟩, ?_, ?_⟩
  · exact (herr.rd _ (by decide) (by decide) (by decide)).trans hstate
  · exact (herr.rd _ (by decide) (by decide) (by decide)).trans hresult
  · rw [herr.sec, lcWr_sec]
  · exact (herr.rd _ (by decide) (by decide) (by decide)).trans ((lcWr_regs (P := (· = Reg.SEC_KEYSLOTS)) s 3 code (by decide)).rd rfl)

/-! ### The first burn (R708) -/

/-- The first copy of the fuses is burned. -/
def State.burnsFirst (s : State) (new : Nat) : State := { s with sec := { s.sec with lc := s.sec.lc.set 0 new, busy := some new } }

theorem burnsFirst_sec (s : State) (new : Nat) : (s.burnsFirst new).sec = { s.sec with lc := s.sec.lc.set 0 new, busy := some new } := rfl

theorem lcBurn_eq (s : State) (new : Nat) : s.lcBurn new = (s.burnsFirst new).lcWr 1 0 := rfl

theorem lcBurn_sec (s : State) (new : Nat) : (s.lcBurn new).sec = { s.sec with lc := s.sec.lc.set 0 new, busy := some new } := by
  rw [lcBurn_eq, lcWr_sec, burnsFirst_sec]

theorem rd_lcBurn (s : State) (new : Nat) : (s.lcBurn new).rd Reg.SEC_LC_STATUS_STATE = 1 :=
  (rd_lcWr (s.burnsFirst new) (state := 1) (result := 0) (by decide) (by decide)).1

theorem lcBurn_burns {s u : State} (new : Nat) (hlc : u.sec.lc = s.sec.lc) (hend : u.sec.endorsement = s.sec.endorsement) :
    lcBurns s (u.lcBurn new) new := by
  refine ⟨rd_lcBurn u new, ?_⟩
  rw [lcBurn_sec]
  exact ⟨rfl, congrArg (List.set · 0 new) hlc, hend⟩

/-! ### What each command does (R707) -/

/-- A challenge was drawn (R709). -/
def State.challengeDrawn (s : State) : State := { s with sec := { s.sec with challengeOk := true, draws := s.sec.draws + 1 } }

/-- SEC_CHALLENGE shows the challenge. -/
def State.showChallenge (s : State) : State := s.putBytes (Reg.SEC_CHALLENGE 0) (bytesOf 32 (Config.randomChallenge s.sec.draws).toNat)

/-- A new seed (R711). -/
def State.newSeed (s : State) : State := { s with sec := { s.sec with seed := some (Config.randomSeed s.sec.draws), draws := s.sec.draws + 1 } }

/-- Every seed fuse is blown (R711). -/
def State.blowSeed (s : State) : State := { s with sec := { s.sec with seed := some (BitVec.ofNat 256 (2 ^ 256 - 1)) } }

/-- The signature in SEC_ENDORSE (R713). -/
def State.endorseSig (s : State) : BitVec 512 := BitVec.ofNat 512 (ofBytes (s.regBytes (Reg.SEC_ENDORSE 0) 16))

/-- The endorsement of a slot's signer is burned (R713). -/
def State.endorses (s : State) (k : Nat) : State := { s with sec := { s.sec with endorsement := some (s.endorseSig, k) } }

/-- What ENDORSE does with the endorsement it finds. -/
def State.endorseAct (s : State) : State :=
  match s.endorseSlot with
  | some k => (s.endorses k).lcNote.lcEnd 0
  | none => s.lcEnd 0x0F08

/-- What TERMINATE does; in PRODUCTION it needs its token. -/
def State.terminateAct (s : State) : State :=
  if s.lifecycle = 2 then s.withToken 6 0 (fun s => s.blowSeed.lcBurn 4) else s.blowSeed.lcBurn 4

/-- The slots revoked with one more. -/
def State.revokedWith (s : State) (slot : Nat) : Nat := s.rd Reg.SEC_KEYSLOTS_REVOKED ||| 2 ^ slot

/-- What REVOKE does. -/
def State.revokeAct (s : State) (slot r : Nat) : State := s.withToken 7 slot (fun s => (s.wr Reg.SEC_KEYSLOTS_REVOKED r).lcEnd 0)

theorem endorseAct_of_some {s : State} {k : Nat} (h : s.endorseSlot = some k) : s.endorseAct = (s.endorses k).lcNote.lcEnd 0 := by
  unfold State.endorseAct
  rw [h]

theorem endorseAct_of_none {s : State} (h : s.endorseSlot = none) : s.endorseAct = s.lcEnd 0x0F08 := by
  unfold State.endorseAct
  rw [h]

section
variable {s : State} (h : reaches s Reg.SEC_LC_CMD)
include h

theorem exec_challenge : exec .challenge s = .next (s.lcCommand (s.lifecycle != 4) false fun s => s.showChallenge.challengeDrawn.lcEnd 0) :=
  exec_of_reaches (f := fun s => s.lcCommand (s.lifecycle != 4) false fun s => s.showChallenge.challengeDrawn.lcEnd 0) h rfl

theorem exec_provision : exec .provision s = .next (s.lcCommand (s.lifecycle == 0) true fun s => s.withToken 2 0 fun s => s.newSeed.lcBurn 1) :=
  exec_of_reaches (f := fun s => s.lcCommand (s.lifecycle == 0) true fun s => s.withToken 2 0 fun s => s.newSeed.lcBurn 1) h rfl

theorem exec_endorse : exec .endorse s = .next (s.lcCommand (s.lifecycle == 1 && s.sec.endorsement.isNone) false State.endorseAct) :=
  exec_of_reaches (f := fun s => s.lcCommand (s.lifecycle == 1 && s.sec.endorsement.isNone) false State.endorseAct) h rfl

theorem exec_production : exec .production s = .next (s.lcCommand (s.lifecycle == 1 && s.sec.endorsement.isSome) true fun s => s.lcBurn 2) :=
  exec_of_reaches (f := fun s => s.lcCommand (s.lifecycle == 1 && s.sec.endorsement.isSome) true fun s => s.lcBurn 2) h rfl

theorem exec_returnCmd : exec .returnCmd s = .next (s.lcCommand (s.lifecycle == 2) true fun s => s.withToken 5 0 fun s => s.lcBurn 3) :=
  exec_of_reaches (f := fun s => s.lcCommand (s.lifecycle == 2) true fun s => s.withToken 5 0 fun s => s.lcBurn 3) h rfl

theorem exec_terminate : exec .terminate s = .next (s.lcCommand (s.lifecycle != 4) true State.terminateAct) :=
  exec_of_reaches (f := fun s => s.lcCommand (s.lifecycle != 4) true State.terminateAct) h rfl

theorem exec_revoke (slot : Nat) : exec (.revoke slot) s =
    .next (s.lcCommand (s.lifecycle != 4 && decide (slot < 3) && s.revokedWith slot % 4 != 3) false (State.revokeAct · slot (s.revokedWith slot))) :=
  exec_of_reaches (f := fun s => s.lcCommand (s.lifecycle != 4 && decide (slot < 3) && s.revokedWith slot % 4 != 3) false
    (State.revokeAct · slot (s.revokedWith slot))) h rfl

end

/-! ### Refusals of the checks (R708) -/

theorem completes_busy {s : State} {i : Instr} {allowed changes : Bool} {f : State → State}
    (hexec : exec i s = .next (s.lcCommand allowed changes f)) (hbusy : s.rd Reg.SEC_LC_STATUS_STATE = 1) :
    completes i s fun t => t.sec = s.sec ∧ t.rd Reg.SEC_LC_STATUS_STATE = 1 := by
  have herr := secErr_records s 0x0F09
  rw [lcCommand_of_busy hbusy] at hexec
  exact ⟨_, hexec, herr.sec, (herr.rd _ (by decide) (by decide) (by decide)).trans hbusy⟩

/-- A command whose end is a failure with a code. -/
theorem completes_fails {s u : State} {i : Instr} {code : Nat} (hexec : exec i s = .next (u.lcEnd code)) (hne : code ≠ 0) (hcode : code < 2 ^ 16) :
    completes i s fun t => lcFails t code ∧ t.sec = u.sec := by
  obtain ⟨hfails, hsec, -⟩ := lcEnd_fails u hne hcode
  exact ⟨_, hexec, hfails, hsec⟩

theorem completes_illegal {s : State} {i : Instr} {allowed changes : Bool} {f : State → State}
    (hexec : exec i s = .next (s.lcCommand allowed changes f)) (hidle : s.rd Reg.SEC_LC_STATUS_STATE ≠ 1) (hno : allowed = false) :
    completes i s fun t => lcFails t 0x0F0A ∧ t.sec = s.sec := by
  rw [hno, lcCommand_illegal hidle] at hexec
  exact completes_fails hexec (by decide) (by decide)

theorem completes_unquiet {s : State} {i : Instr} {allowed : Bool} {f : State → State} (hexec : exec i s = .next (s.lcCommand allowed true f))
    (hidle : s.rd Reg.SEC_LC_STATUS_STATE ≠ 1) (hyes : allowed = true) (hquiet : s.lcQuiet = false) :
    completes i s fun t => lcFails t 0x0F09 ∧ t.sec = s.sec := by
  rw [hyes, lcCommand_unquiet hidle hquiet] at hexec
  exact completes_fails hexec (by decide) (by decide)

theorem consume_sec (s : State) : s.consume.sec = { s.sec with challengeOk := false } := rfl

theorem consume_rd (s : State) (f : RegField) : s.consume.rd f = s.rd f := rfl

theorem completes_badToken {s : State} {i : Instr} {op slot : Nat} {f : State → State} (hexec : exec i s = .next (s.withToken op slot f))
    (htoken : s.tokenOk op slot = false) : completes i s fun t => lcFails t 0x0F08 ∧ t.sec = { s.sec with challengeOk := false } := by
  rw [withToken_fail htoken] at hexec
  exact completes_fails hexec (by decide) (by decide)

/-! ### The commands (R707 to R713) -/

theorem challengeDrawn_sec (s : State) : s.challengeDrawn.sec = { s.sec with challengeOk := true, draws := s.sec.draws + 1 } := rfl

theorem challengeDrawn_reg (s : State) (a : Nat) : s.challengeDrawn.reg a = s.reg a := rfl

theorem showChallenge_sec (s : State) : s.showChallenge.sec = s.sec := putBytes_sec s _ _

theorem showChallenge_bytes (s : State) :
    s.showChallenge.regBytes (Reg.SEC_CHALLENGE 0) 8 = bytesOf 32 (Config.randomChallenge s.sec.draws).toNat := regBytes_putBytes s _ 8 _

theorem completes_challenge {s : State} (h : reaches s Reg.SEC_LC_CMD) (hidle : s.rd Reg.SEC_LC_STATUS_STATE ≠ 1) (hlc : s.lifecycle ≠ 4) :
    completes .challenge s fun t => lcSucceeds t ∧ t.sec.challengeOk = true ∧ t.sec.draws = s.sec.draws + 1 ∧
      t.regBytes (Reg.SEC_CHALLENGE 0) 8 = bytesOf 32 (Config.randomChallenge s.sec.draws).toNat ∧ t.sec.lc = s.sec.lc := by
  have hexec := exec_challenge h
  rw [bne_iff_ne.2 hlc, lcCommand_free hidle] at hexec
  obtain ⟨hok, hsec, hregs⟩ := lcEnd_succeeds s.showChallenge.challengeDrawn
  have hbytes : (s.showChallenge.challengeDrawn.lcEnd 0).regBytes (Reg.SEC_CHALLENGE 0) 8 = s.showChallenge.regBytes (Reg.SEC_CHALLENGE 0) 8 :=
    regBytes_congr _ _ fun i _ => (hregs.reg _ (by simp only [Reg.SEC_CHALLENGE, Reg.SEC_LC_STATUS]; omega)).trans (challengeDrawn_reg _ _)
  rw [challengeDrawn_sec, showChallenge_sec] at hsec
  refine ⟨_, hexec, hok, ?_, ?_, hbytes.trans (showChallenge_bytes s), ?_⟩
  all_goals rw [hsec]

theorem newSeed_sec (s : State) : s.newSeed.sec = { s.sec with seed := some (Config.randomSeed s.sec.draws), draws := s.sec.draws + 1 } := rfl

theorem blowSeed_sec (s : State) : s.blowSeed.sec = { s.sec with seed := some (BitVec.allOnes 256) } := rfl

section
variable {s : State} (h : reaches s Reg.SEC_LC_CMD) (hidle : s.rd Reg.SEC_LC_STATUS_STATE ≠ 1)
include h hidle

theorem exec_provision_legal (hlc : s.lifecycle = 0) (hquiet : s.lcQuiet = true) :
    exec .provision s = .next (s.withToken 2 0 fun s => s.newSeed.lcBurn 1) := by
  rw [exec_provision h, beq_iff_eq.2 hlc, lcCommand_quiet hidle hquiet]

theorem exec_returnCmd_legal (hlc : s.lifecycle = 2) (hquiet : s.lcQuiet = true) :
    exec .returnCmd s = .next (s.withToken 5 0 fun s => s.lcBurn 3) := by
  rw [exec_returnCmd h, beq_iff_eq.2 hlc, lcCommand_quiet hidle hquiet]

theorem exec_terminate_legal (hlc : s.lifecycle ≠ 4) (hquiet : s.lcQuiet = true) : exec .terminate s = .next s.terminateAct := by
  rw [exec_terminate h, bne_iff_ne.2 hlc, lcCommand_quiet hidle hquiet]

theorem exec_endorse_legal (hlc : s.lifecycle = 1) (hnone : s.sec.endorsement = none) : exec .endorse s = .next s.endorseAct := by
  rw [exec_endorse h, beq_iff_eq.2 hlc, hnone]
  exact congrArg Host.Outcome.next (lcCommand_free hidle _)

theorem exec_revoke_legal {k : Nat} (hk : k < 3) (hlc : s.lifecycle ≠ 4) (hleft : s.revokedWith k % 4 ≠ 3) :
    exec (.revoke k) s = .next (s.revokeAct k (s.revokedWith k)) := by
  rw [exec_revoke h, bne_iff_ne.2 hlc, bne_iff_ne.2 hleft, decide_eq_true hk]
  exact congrArg Host.Outcome.next (lcCommand_free hidle _)

theorem completes_badToken_of_table {i : Instr} {op lc : Nat}
    (hi : (i, op, lc) ∈ [(Instr.provision, 2, 0), (.returnCmd, 5, 2), (.terminate, 6, 2)]) (hlc : s.lifecycle = lc) (hquiet : s.lcQuiet = true)
    (htoken : s.tokenOk op 0 = false) : completes i s fun t => lcFails t 0x0F08 ∧ t.sec = { s.sec with challengeOk := false } := by
  simp only [List.mem_cons, Prod.mk.injEq, List.not_mem_nil, or_false] at hi
  obtain ⟨rfl, rfl, rfl⟩ | ⟨rfl, rfl, rfl⟩ | ⟨rfl, rfl, rfl⟩ := hi
  · exact completes_badToken (exec_provision_legal h hidle hlc hquiet) htoken
  · exact completes_badToken (exec_returnCmd_legal h hidle hlc hquiet) htoken
  · exact completes_badToken ((exec_terminate_legal h hidle (by omega) hquiet).trans (congrArg Host.Outcome.next (if_pos hlc))) htoken

theorem completes_provision (hlc : s.lifecycle = 0) (hquiet : s.lcQuiet = true) (htoken : s.tokenOk 2 0 = true) :
    completes .provision s fun t => lcBurns s t 1 ∧ t.sec.seed = some (Config.randomSeed s.sec.draws) ∧ t.sec.challengeOk = false := by
  have hexec := exec_provision_legal h hidle hlc hquiet
  rw [withToken_pass htoken] at hexec
  have hnew := newSeed_sec s.consume
  rw [consume_sec] at hnew
  refine ⟨_, hexec, lcBurn_burns 1 (by rw [hnew]) (by rw [hnew]), ?_⟩
  rw [lcBurn_sec, hnew]
  exact ⟨rfl, rfl⟩

theorem completes_production (hlc : s.lifecycle = 1) (hsome : s.sec.endorsement.isSome = true) (hquiet : s.lcQuiet = true) :
    completes .production s fun t => lcBurns s t 2 := by
  have hexec := exec_production h
  rw [beq_iff_eq.2 hlc, hsome, Bool.true_and, lcCommand_quiet hidle hquiet] at hexec
  exact ⟨_, hexec, lcBurn_burns 2 rfl rfl⟩

theorem completes_returnCmd (hlc : s.lifecycle = 2) (hquiet : s.lcQuiet = true) (htoken : s.tokenOk 5 0 = true) :
    completes .returnCmd s fun t => lcBurns s t 3 ∧ t.sec.challengeOk = false ∧ t.sec.seed = s.sec.seed := by
  have hexec := exec_returnCmd_legal h hidle hlc hquiet
  rw [withToken_pass htoken] at hexec
  have hsec := consume_sec s
  generalize s.consume = u at hexec hsec
  refine ⟨_, hexec, lcBurn_burns 3 (by rw [hsec]) (by rw [hsec]), ?_⟩
  rw [lcBurn_sec, hsec]
  exact ⟨rfl, rfl⟩

theorem completes_terminate (hlc : s.lifecycle ≠ 4) (htoken : s.lifecycle = 2 → s.tokenOk 6 0 = true) (hquiet : s.lcQuiet = true) :
    completes .terminate s fun t => lcBurns s t 4 ∧ t.sec.seed = some (BitVec.allOnes 256) := by
  have hexec := exec_terminate_legal h hidle hlc hquiet
  unfold State.terminateAct at hexec
  have hburns : ∀ u : State, u.sec.lc = s.sec.lc → u.sec.endorsement = s.sec.endorsement →
      lcBurns s (u.blowSeed.lcBurn 4) 4 ∧ (u.blowSeed.lcBurn 4).sec.seed = some (BitVec.allOnes 256) := by
    intro u hlc hend
    refine ⟨lcBurn_burns 4 (by rw [blowSeed_sec, hlc]) (by rw [blowSeed_sec, hend]), ?_⟩
    rw [lcBurn_sec, blowSeed_sec]
  by_cases h2 : s.lifecycle = 2
  · rw [if_pos h2, withToken_pass (htoken h2)] at hexec
    exact ⟨_, hexec, hburns s.consume (by rw [consume_sec]) (by rw [consume_sec])⟩
  · rw [if_neg h2] at hexec
    exact ⟨_, hexec, hburns s rfl rfl⟩

theorem completes_endorse_none (hlc : s.lifecycle = 1) (hnone : s.sec.endorsement = none) (hslot : s.endorseSlot = none) :
    completes .endorse s fun t => lcFails t 0x0F08 ∧ t.sec = s.sec := by
  have hexec := exec_endorse_legal h hidle hlc hnone
  rw [endorseAct_of_none hslot] at hexec
  exact completes_fails hexec (by decide) (by decide)

theorem completes_revoke {k : Nat} (hk : k < 3) (hlc : s.lifecycle ≠ 4) (hleft : s.revokedWith k % 4 ≠ 3) (htoken : s.tokenOk 7 k = true) :
    completes (.revoke k) s fun t => lcSucceeds t ∧ t.rd Reg.SEC_KEYSLOTS_REVOKED = s.revokedWith k ∧ t.sec.challengeOk = false := by
  have hexec := exec_revoke_legal h hidle hk hlc hleft
  unfold State.revokeAct at hexec
  rw [withToken_pass htoken] at hexec
  obtain ⟨hok, hsec, hregs⟩ := lcEnd_succeeds (s.consume.wr Reg.SEC_KEYSLOTS_REVOKED (s.revokedWith k))
  have hfit : s.revokedWith k < 2 ^ 4 := Nat.or_lt_two_pow (rd_lt s Reg.SEC_KEYSLOTS_REVOKED) (Nat.pow_lt_pow_right (by decide) (by omega))
  refine ⟨_, hexec, hok, ?_, ?_⟩
  · exact (hregs.rd (by decide)).trans ((rd_wr_same _ Reg.SEC_KEYSLOTS_REVOKED _ (by decide)).trans (Nat.mod_eq_of_lt hfit))
  · rw [hsec, State.wr_sec, consume_sec]

theorem completes_revoke_badToken {k : Nat} (hk : k < 3) (hlc : s.lifecycle ≠ 4) (hleft : s.revokedWith k % 4 ≠ 3) (htoken : s.tokenOk 7 k = false) :
    completes (.revoke k) s fun t => lcFails t 0x0F08 ∧ t.rd Reg.SEC_KEYSLOTS_REVOKED = s.rd Reg.SEC_KEYSLOTS_REVOKED ∧
      t.sec = { s.sec with challengeOk := false } := by
  have hexec := exec_revoke_legal h hidle hk hlc hleft
  unfold State.revokeAct at hexec
  rw [withToken_fail htoken] at hexec
  obtain ⟨hfails, hsec, hslots⟩ := lcEnd_fails s.consume (code := 0x0F08) (by decide) (by decide)
  exact ⟨_, hexec, hfails, hslots.trans (consume_rd s _), hsec⟩

end

/-! ### The registers that follow the fuses (R706, R713) -/

/-- LIFECYCLE, DEBUG_OPEN and ENDORSED as the fuses say. -/
def State.showFuses (s : State) : State :=
  ((s.wr Reg.SEC_STATUS_LIFECYCLE s.lifecycle).wr Reg.SEC_STATUS_DEBUG_OPEN (if debugOpenIn s.lifecycle then 1 else 0)).wr
    Reg.SEC_STATUS_ENDORSED (if s.sec.endorsement.isSome then 1 else 0)

theorem lcNote_eq (s : State) : s.lcNote = if s.lifecycle ≤ 1 then s.showFuses else s.showFuses.wr Reg.SEC_TAMPER_EN_EN 0x1F := rfl

theorem lcNote_regs (s : State) : SameRegs (· = Reg.SEC_STATUS) s.showFuses s.lcNote := by
  rw [lcNote_eq]
  exact ite_both (P := SameRegs (· = Reg.SEC_STATUS) s.showFuses) (.refl _) (.wr (.refl _) 0x1F (by decide))

theorem lcNote_sec (s : State) : s.lcNote.sec = s.sec := (State.lcNote_keeps (L := 1) s rfl (.refl s)).parts.same .sec rfl

theorem rd_lcNote_lifecycle (s : State) (h : s.lifecycle < 8) : s.lcNote.rd Reg.SEC_STATUS_LIFECYCLE = s.lifecycle :=
  ((lcNote_regs s).rd rfl).trans ((rd_wr_part_other _ Reg.SEC_STATUS _ (by decide) (by decide)).trans
    ((rd_wr_part_other _ Reg.SEC_STATUS _ (by decide) (by decide)).trans
      ((rd_wr_same s Reg.SEC_STATUS_LIFECYCLE _ (by decide)).trans (Nat.mod_eq_of_lt h))))

theorem rd_lcNote_endorsed {s : State} (h : s.sec.endorsement.isSome = true) : s.lcNote.rd Reg.SEC_STATUS_ENDORSED = 1 := by
  refine ((lcNote_regs s).rd rfl).trans ((rd_wr_same _ Reg.SEC_STATUS_ENDORSED _ (by decide)).trans ?_)
  rw [if_pos h]
  decide

theorem endorses_sec (s : State) (k : Nat) : (s.endorses k).sec = { s.sec with endorsement := some (s.endorseSig, k) } := rfl

theorem completes_endorse {s : State} (h : reaches s Reg.SEC_LC_CMD) (hidle : s.rd Reg.SEC_LC_STATUS_STATE ≠ 1) {k : Nat} (hlc : s.lifecycle = 1)
    (hnone : s.sec.endorsement = none) (hslot : s.endorseSlot = some k) : completes .endorse s fun t =>
      lcSucceeds t ∧ (∃ g, t.sec.endorsement = some (g, k)) ∧ t.rd Reg.SEC_STATUS_ENDORSED = 1 ∧ t.sec.lc = s.sec.lc := by
  have hexec := exec_endorse_legal h hidle hlc hnone
  rw [endorseAct_of_some hslot] at hexec
  have hburned := endorses_sec s k
  generalize s.endorses k = u at hexec hburned
  obtain ⟨hok, hsec, hregs⟩ := lcEnd_succeeds u.lcNote
  rw [lcNote_sec, hburned] at hsec
  refine ⟨_, hexec, hok, ⟨s.endorseSig, ?_⟩, ?_, ?_⟩
  · rw [hsec]
  · exact (hregs.rd (by decide)).trans (rd_lcNote_endorsed (by rw [hburned, Option.isSome_some]))
  · rw [hsec]

/-! ### The end of a state-changing command (R592, R708, R712) -/

/-- Every copy of the fuses holds a state. -/
def State.burned (s : State) (n : Nat) : State := { s with sec := { s.sec with lc := [n, n, n], busy := none } }

theorem burned_sec (s : State) (n : Nat) : (s.burned n).sec = { s.sec with lc := [n, n, n], busy := none } := rfl

theorem lifecycle_of_lc {s : State} {n : Nat} (h : s.sec.lc = [n, n, n]) : s.lifecycle = n := by
  unfold State.lifecycle SecSt.lifecycle
  rw [h]
  exact if_pos rfl

theorem exec_lcCommandDone {s : State} {n : Nat} (h : s.sec.busy = some n) :
    exec .lcCommandDone s = .next ((((s.burned n).lcNote.startWipe 2).startDerive).lcEnd 0) := by
  show execLcCommandDone s = _
  unfold execLcCommandDone
  rw [h]
  rfl

/-- SEC drops its key, and derives another where there is one to derive. -/
def State.rederives (s : State) : State :=
  { s.wr Reg.SEC_STATUS_KEY_READY 0 with sec := { s.sec with key := none, reDeriving := s.identityKey.isSome && !s.sec.tampered } }

theorem startDerive_eq (s : State) : s.startDerive = s.rederives.failSigns := rfl

theorem rederives_sec (s : State) :
    s.rederives.sec = { s.sec with key := none, reDeriving := s.identityKey.isSome && !s.sec.tampered } := rfl

theorem startDerive_sec (s : State) : s.startDerive.sec.key = none ∧ s.startDerive.sec.lc = s.sec.lc ∧ s.startDerive.sec.busy = s.sec.busy := by
  rw [startDerive_eq, failSigns_sec, rederives_sec]
  exact ⟨rfl, rfl, rfl⟩

theorem rederives_regs (s : State) : SameRegs (fun _ => True) (s.wr Reg.SEC_STATUS_KEY_READY 0) s.rederives := .of_regs rfl

theorem rd_startDerive (s : State) : s.startDerive.rd Reg.SEC_STATUS_LIFECYCLE = s.rd Reg.SEC_STATUS_LIFECYCLE ∧
    s.startDerive.rd Reg.MEM_SECURE_STATUS_WIPING = s.rd Reg.MEM_SECURE_STATUS_WIPING := by
  have hregs : SameRegs (fun a => a = Reg.SEC_STATUS ∨ a = Reg.MEM_SECURE_STATUS) (s.wr Reg.SEC_STATUS_KEY_READY 0) s.startDerive := by
    rw [startDerive_eq]
    exact ((rederives_regs s).mono fun _ _ => trivial).trans (failSigns_regs _ (by rintro a (rfl | rfl) <;> decide) (by decide) (by decide))
  exact ⟨(hregs.rd (.inl rfl)).trans (rd_wr_part_other s Reg.SEC_STATUS 0 (by decide) (by decide)),
    (hregs.rd (.inr rfl)).trans (rd_wr_reg s _ _ 0 (by decide))⟩

theorem completes_lcCommandDone {s : State} {n : Nat} (hn : n ≤ 4) (h : s.sec.busy = some n) : completes .lcCommandDone s fun t =>
    lcSucceeds t ∧ t.sec.lc = [n, n, n] ∧ t.lifecycle = n ∧ t.rd Reg.SEC_STATUS_LIFECYCLE = n ∧ t.sec.busy = none ∧ t.sec.key = none ∧
      t.rd Reg.MEM_SECURE_STATUS_WIPING = 1 := by
  have hburned := burned_sec s n
  have hlc : (s.burned n).lifecycle = n := lifecycle_of_lc (by rw [hburned])
  have hexec := exec_lcCommandDone h
  generalize s.burned n = u at hburned hlc hexec
  have hnoted := rd_lcNote_lifecycle u (by omega)
  have hwiped := startWipe_sec u.lcNote 2
  have hstatus := (startWipe_regs (P := (· = Reg.SEC_STATUS)) u.lcNote 2 (by decide)).rd (f := Reg.SEC_STATUS_LIFECYCLE) rfl
  have hwiping := rd_startWipe_wiping u.lcNote 2
  rw [lcNote_sec, hburned] at hwiped
  generalize u.lcNote.startWipe 2 = w at hwiped hstatus hwiping hexec
  obtain ⟨hkey, hcopies, hbusy⟩ := startDerive_sec w
  obtain ⟨hshown, hstill⟩ := rd_startDerive w
  obtain ⟨hok, hsec, hregs⟩ := lcEnd_succeeds w.startDerive
  have hlist : (w.startDerive.lcEnd 0).sec.lc = [n, n, n] := by rw [hsec, hcopies, hwiped]
  refine ⟨_, hexec, hok, hlist, lifecycle_of_lc hlist, ?_, ?_, ?_, ?_⟩
  · rw [hregs.rd (by decide), hshown, hstatus, hnoted, hlc]
  · rw [hsec, hbusy, hwiped]
  · rw [hsec, hkey]
  · rw [hregs.rd (by decide), hstill, hwiping]

end Sys2Proof.Machine

namespace Sys2Proof

open Machine

/-- Settles O47: the checks that every command passes first, then each command of R707 by its own rule. -/
theorem lifecycleCommandsFollowTheirTable : Obligations.LifecycleCommandsFollowTheirTable := by
  unfold Obligations.LifecycleCommandsFollowTheirTable
  intro fails succeeds burns legal
  refine ⟨fun s i h hbusy hi => ?_, fun s h hidle => ⟨completes_challenge h hidle, fun k i hi => ?_, fun i hi hlegal hquiet => ?_,
    fun i op lc hi hlc hquiet htoken => completes_badToken_of_table h hidle hi hlc hquiet htoken, completes_provision h hidle,
    fun k hlc hnone hslot => completes_endorse h hidle hlc hnone hslot, completes_endorse_none h hidle, completes_production h hidle,
    completes_returnCmd h hidle, completes_terminate h hidle, fun k hk hlc => ⟨completes_revoke h hidle hk hlc, completes_revoke_badToken h hidle hk hlc⟩,
    fun n hn hbusy => completes_lcCommandDone hn hbusy⟩⟩
  · simp only [List.mem_cons, List.not_mem_nil, or_false] at hi
    obtain rfl | rfl | rfl | rfl | rfl | rfl | rfl | rfl | rfl := hi
    · exact completes_busy (exec_challenge h) hbusy
    · exact completes_busy (exec_provision h) hbusy
    · exact completes_busy (exec_endorse h) hbusy
    · exact completes_busy (exec_production h) hbusy
    · exact completes_busy (exec_returnCmd h) hbusy
    · exact completes_busy (exec_terminate h) hbusy
    · exact completes_busy (exec_revoke h 0) hbusy
    · exact completes_busy (exec_revoke h 1) hbusy
    · exact completes_busy (exec_revoke h 2) hbusy
  · simp only [legal, List.mem_cons, Prod.mk.injEq, List.not_mem_nil, or_false] at hi
    obtain ⟨rfl, hno⟩ | ⟨rfl, hno⟩ | ⟨rfl, hno⟩ | ⟨rfl, hno⟩ | ⟨rfl, hno⟩ | ⟨rfl, hno⟩ | ⟨rfl, hno⟩ := hi
    · exact completes_illegal (exec_challenge h) hidle hno.symm
    · exact completes_illegal (exec_provision h) hidle hno.symm
    · exact completes_illegal (exec_endorse h) hidle hno.symm
    · exact completes_illegal (exec_production h) hidle hno.symm
    · exact completes_illegal (exec_returnCmd h) hidle hno.symm
    · exact completes_illegal (exec_terminate h) hidle hno.symm
    · exact completes_illegal (exec_revoke h k) hidle hno.symm
  · simp only [List.mem_cons, List.not_mem_nil, or_false] at hi
    simp only [legal, List.mem_cons, Prod.mk.injEq, List.not_mem_nil, or_false] at hlegal
    obtain rfl | rfl | rfl | rfl := hi
    · exact completes_unquiet (exec_provision h) hidle (by simpa using hlegal) hquiet
    · exact completes_unquiet (exec_production h) hidle (by simpa using hlegal) hquiet
    · exact completes_unquiet (exec_returnCmd h) hidle (by simpa using hlegal) hquiet
    · exact completes_unquiet (exec_terminate h) hidle (by simpa using hlegal) hquiet

end Sys2Proof
end
